-- ==== Sys2Proof/Word.lean ====
section
/-! DEFINITION. Words of the register space and of memory, and the plain arithmetic on their bit fields (R5, R33). -/

namespace Sys2Proof

/-- A 32-bit word: a register of the module, a scalar register of a stitch core, a lane. -/
abbrev Word := BitVec 32

/-- A byte of memory. -/
abbrev Byte := BitVec 8

/-- A 512-bit line: 64 bytes, a tensor descriptor, a FIFO entry of a bridge. -/
abbrev Line := BitVec 512

/-- A 256-bit vector register or 32-byte flit. -/
abbrev Vec := BitVec 256

/-- Bits [lo + n - 1 : lo] of a number. -/
def bitsOf (w lo n : Nat) : Nat := (w >>> lo) % 2 ^ n

/-- Bit i of a number. -/
def bitOf (w i : Nat) : Bool := (w >>> i) % 2 = 1

/-- `w` with bits [lo + n - 1 : lo] replaced by those of `v`. -/
def setBits (w lo n v : Nat) : Nat :=
  w - (bitsOf w lo n) <<< lo + (v % 2 ^ n) <<< lo

/-- 1 for true and 0 for false. -/
def b2n (b : Bool) : Nat := if b then 1 else 0

/-- `n` rounded up to a multiple of `m`. -/
def roundUp (n m : Nat) : Nat := (n + m - 1) / m * m

/-- `n` held at `m`. -/
def satTo (m n : Nat) : Nat := if n > m then m else n

/-- The two's-complement value of an `n`-bit number. -/
def signedOf (n v : Nat) : Int := if v % 2 ^ n < 2 ^ (n - 1) then (v % 2 ^ n : Nat) else (v % 2 ^ n : Nat) - (2 ^ n : Nat)

/-- The `n`-bit two's-complement code of an integer, modulo 2^n. -/
def codeOf (n : Nat) (v : Int) : Nat := (v % (2 ^ n : Nat)).toNat

/-- The little-endian number of a list of bytes (R33). -/
def ofBytes : List Byte → Nat
  | [] => 0
  | b :: r => b.toNat + 256 * ofBytes r

/-- The `k` little-endian bytes of a number (R33). -/
def toBytes : Nat → Nat → List Byte
  | 0, _ => []
  | k + 1, v => BitVec.ofNat 8 v :: toBytes k (v / 256)

/-- The little-endian 32-bit words of a list of bytes, the last one zero-filled. -/
def wordsOfBytes : Nat → List Byte → List Word
  | 0, _ => []
  | _, [] => []
  | k + 1, l => BitVec.ofNat 32 (ofBytes (l.take 4)) :: wordsOfBytes k (l.drop 4)

/-- The bytes of a list of words, each little-endian. -/
def bytesOfWords (l : List Word) : List Byte := l.flatMap (fun w => toBytes 4 w.toNat)

end Sys2Proof
end

