-- ==== Sys2Proof/Syntax.lean ====
section
/-! DEFINITION. The commands of the module: one constructor per row of the opcode table, with the operands that the manual gives
it. An instruction of a stitch core names the context that issues it (x = motif × 128 + core × 4 + context). -/

namespace Sys2Proof

/-- A scalar register (R117). -/
abbrev SReg := Fin 32
/-- A vector register. -/
abbrev VReg := Fin 16
/-- A predicate. -/
abbrev PReg := Fin 8
/-- A descriptor register. -/
abbrev TReg := Fin 8

/-- An immediate: the short form's 11 bits or the long form's 32 (R132, R133). -/
inductive Imm
  | short (i : BitVec 11)
  | long (i : BitVec 32)
deriving DecidableEq, Repr

/-- The second source of ADD, AND, OR and XOR (R135). -/
inductive Src
  | reg (b : SReg)
  | imm (i : Imm)
deriving DecidableEq, Repr

/-- A shift amount: a register or the constant of field b (R135). -/
inductive ShAmt
  | reg (b : SReg)
  | const (n : Fin 32)
deriving DecidableEq, Repr

/-- SPACE and offset of a load or store: 9 bits in units of the access size, or 32 bits in bytes (R132, R133, R138). -/
inductive MemOff
  | short (space : Fin 4) (off : BitVec 9)
  | long (space : Fin 4) (off : BitVec 32)
deriving DecidableEq, Repr

/-- Who writes a register or sends a command (R215, R28, R416): firmware as a whole, or one of its components (R392). -/
inductive Writer
  | firmware
  | component (c : Nat)
  | host (fn : Nat)
  | hoist (h : Nat)
  | prospector (panel : Nat)
  | mover (side : Nat)
  | dap
deriving DecidableEq, Repr

/-- Who asks for a bank access: an owner kind and identity of R214, or an agent outside ownership. -/
inductive Requester
  | owner (kind ident : Nat)
  | outside
deriving DecidableEq, Repr

/-- How an access arrives at a bank's port (R212): who makes it, the input it comes by, and whether in the handshake of the access before it. -/
structure Arrival where
  by_ : Requester
  input : Nat
  same : Bool
deriving DecidableEq, Repr

/-- A scrub read of a channel (R243): whether it was forced, and the errors that have come into memory since, as pair, symbol and value. -/
structure LdScrubTurn where
  forced : Bool
  errors : List (Nat × Nat × Nat)
deriving DecidableEq, Repr

/-- A return record of a panel's prospector (R296): the one in progress at this place of its list, or the next to be taken up. -/
structure ReturnAt where
  panel : Nat
  index : Nat
deriving DecidableEq, Repr

/-- What the self-test of a panel's plait nodes found (R437): the panel's own node, and the module joins beside it. -/
structure NodeCheck where
  node : Bool
  joins : Bool
deriving DecidableEq, Repr

/-- A hardware fault met while an array streams: the accumulator cell it changes and the bits it flips (R73, R75). -/
structure ArrayUpset where
  row : Nat
  col : Nat
  mask : Word
deriving DecidableEq, Repr


/-- A GFT packet: the fields of its header (R322) and its payload, whose length is LEN. -/
structure GftPacket where
  ver : Nat := 1
  typ : Nat := 0
  cls : Nat := 0
  last : Bool := false
  solicit : Bool := false
  retx : Bool := false
  ackv : Bool := false
  group : Nat := 0
  src : Nat := 0
  dst : Nat := 0
  epoch : Nat := 0
  psn : Nat := 0
  ackPsn : Nat := 0
  handle : Nat := 0
  off : Nat := 0
  msg : Nat := 0
  payload : List Byte := []
deriving DecidableEq, Repr, Inhabited

/-- What a received fabric frame carries (R350). An IP frame names whether it is addressed to the module, its UDP destination port,
and whether its UDP checksum holds. A firmware frame may ask for an answer (ARP, neighbour discovery, echo). -/
inductive FrameBody
  | pfc (enable : Byte) (times : List Nat)
  | pause
  | gft (toModule : Bool) (udpPort : Nat) (csumOk : Bool) (packet : GftPacket)
  | other (asks : Bool)
deriving DecidableEq, Repr

/-- A frame received on a fabric port: the codewords of it that the FEC corrected and could not correct, octets with the FCS, the FCS
check, the destination address, the priority its tag or its IP header gives, and its body. -/
structure FabFrame where
  fecCorr : Nat
  fecUncorr : Nat
  octets : Nat
  fcsOk : Bool
  dst : Nat
  solicited : Bool
  pcp : Option (Fin 8)
  dscp : Option (Fin 64)
  body : FrameBody
deriving DecidableEq, Repr

/-- The commands, in the order of the opcode table. -/
inductive Instr
  /-- REGISTER_WRITE (R28): A write to any register field that has no row of its own stores the value under its access code, or is ignored for an unassigned offset. -/
  | registerWrite (by_ : Writer) (a : Nat) (v : Word)
  /-- RC_COUNTER_READ (R6): A read of an RC field returns the value and clears it to zero. -/
  | rcCounterRead (a : Nat)
  /-- LATCHED_LO_READ (R27): A read of the low word of a latched pair (USEC_LO, TILES_LO, STEP_LO, SWEEP_LO, EV_LAST_LO, ENERGY_LO) returns it and latches the high word. -/
  | latchedLoRead (a : Nat)
  /-- STAT_LO_READ (R357): A read of the LO word of a 64-bit MAC statistics counter returns the low bits, latches the high bits and clears the counter. -/
  | statLoRead (a : Nat)
  /-- CANARY_WINDOW (R15): At the end of each 10 us window the headframe counts canary loops and sets each panel's rate as its lowest canary reading. -/
  | canaryWindow (readings : List Nat)
  /-- VOLTAGE_CONTROLLER_RUN (R16): Every 50 us the supervisor moves each powered panel rail by at most 10 mV to meet the power cap, the floor and the target. -/
  | voltageControllerRun (avgDw : Nat) (railsMv : List Nat)
  /-- HARDWARE_CLAMP (R19): After input current stays above 1.25 times the cap current for 20 us the regulator lowers every powered rail by 20 mV and sets CAP_LIMITED. -/
  | hardwareClamp
  /-- BRIDGE_TRANSFER (R21): A 64-byte entry crosses a panel-headframe bridge FIFO, stalling the sender or applying interface flow control when the FIFO is full. -/
  | bridgeTransfer (hf bridge : Nat) (toPanel : Bool) (entering : Option Line)
  /-- ADD (R135): Scalar addition of registers or an immediate, wrapping modulo 2^32. -/
  | add (x : Nat) (d a : SReg) (b : Src) (upset : Bool)
  /-- SUB (R135): Scalar subtraction, wrapping modulo 2^32. -/
  | sub (x : Nat) (d a b : SReg)
  /-- AND (R135): Bitwise AND of registers or an immediate. -/
  | and (x : Nat) (d a : SReg) (b : Src)
  /-- OR (R135): Bitwise OR of registers or an immediate. -/
  | or (x : Nat) (d a : SReg) (b : Src)
  /-- XOR (R135): Bitwise XOR of registers or an immediate. -/
  | xor (x : Nat) (d a : SReg) (b : Src)
  /-- SHL (R135): Left shift by a register or constant amount modulo 32. -/
  | shl (x : Nat) (d a : SReg) (n : ShAmt)
  /-- SHR (R135): Logical right shift by a register or constant amount modulo 32. -/
  | shr (x : Nat) (d a : SReg) (n : ShAmt)
  /-- SRA (R135): Arithmetic right shift by a register or constant amount modulo 32. -/
  | sra (x : Nat) (d a : SReg) (n : ShAmt)
  /-- MUL (R135): Low 32 bits of the product of two registers. -/
  | mul (x : Nat) (d a b : SReg)
  /-- MULH (R135): High 32 bits of the signed 64-bit product. -/
  | mulh (x : Nat) (d a b : SReg)
  /-- DIVU (R135): Unsigned truncated division, giving 0xFFFF_FFFF for a zero divisor. -/
  | divu (x : Nat) (d a b : SReg)
  /-- LI (R135): Loads a sign-extended imm11 or a long-form imm32 into s[d]. -/
  | li (x : Nat) (d : SReg) (imm : Imm)
  /-- LUI (R135): Loads imm11 times 2^21 into s[d]. -/
  | lui (x : Nat) (d : SReg) (imm : BitVec 11)
  /-- BEQ (R136): Branches when s[a] equals s[b]. -/
  | beq (x : Nat) (a b : SReg) (off : Imm)
  /-- BNE (R136): Branches when s[a] differs from s[b]. -/
  | bne (x : Nat) (a b : SReg) (off : Imm)
  /-- BLT (R136): Branches when s[a] is less than s[b], signed. -/
  | blt (x : Nat) (a b : SReg) (off : Imm)
  /-- BGE (R136): Branches when s[a] is at least s[b], signed. -/
  | bge (x : Nat) (a b : SReg) (off : Imm)
  /-- J (R136): Jumps relative to its own address or to s[a] plus an offset. -/
  | j (x : Nat) (a : SReg) (off : Imm)
  /-- JL (R136): Jumps as J and writes the return address into s[d]. -/
  | jl (x : Nat) (d a : SReg) (off : Imm)
  /-- GETCW (R122): Reads a control word into s[d], waiting for earlier instructions when it reads ARITH. -/
  | getcw (x : Nat) (d : SReg) (index : BitVec 11)
  /-- SETCW (R123): Writes a control word from s[a], taking effect for the next instruction. -/
  | setcw (x : Nat) (index : BitVec 11) (a : SReg)
  /-- LDW (R138): Loads one 32-bit word into s[d] after the space, address and protection checks. -/
  | ldw (x : Nat) (d a : SReg) (off : MemOff)
  /-- STW (R138): Posts a store of one 32-bit word from s[b]. -/
  | stw (x : Nat) (b a : SReg) (off : MemOff)
  /-- VLD (R138): Loads 32 bytes into a vector register. -/
  | vld (x : Nat) (d : VReg) (a : SReg) (off : MemOff)
  /-- VST (R138): Posts a store of the active lanes of a vector register. -/
  | vst (x : Nat) (b : VReg) (a : SReg) (p : PReg) (off : MemOff)
  /-- LDT (R154): Loads a 64-byte tensor descriptor into a t register. -/
  | ldt (x : Nat) (d : TReg) (a : SReg) (off : MemOff)
  /-- STT (R138): Posts a store of a 64-byte tensor descriptor. -/
  | stt (x : Nat) (b : TReg) (a : SReg) (off : MemOff)
  /-- LOAD_RETURN (R119): Data of a pending load return and fill the destination register, poisoning it on an error. -/
  | loadReturn (x : Nat) (index : Nat) (host : List Host.Cell) (failed : Bool)
  /-- STORE_COMPLETE (R130): A posted store reaches its destination, by ownership byte rules for banks. -/
  | storeComplete (id : Nat)
  /-- BANK_ACCESS (R210): An access is granted at a bank port in age order, checked for ownership and power state, and served with SEC-DED correction. -/
  | bankAccess (from_ : Arrival) (addr size : Nat) (data : Option (List Byte)) (upsets : List (Nat × Nat))
  /-- VADD (R141): Lane-wise addition in binary32, binary16 or I32. -/
  | vadd (x : Nat) (d a b : VReg) (fmt : BitVec 2) (p : PReg)
  /-- VSUB (R141): Lane-wise subtraction. -/
  | vsub (x : Nat) (d a b : VReg) (fmt : BitVec 2) (p : PReg)
  /-- VMUL (R141): Lane-wise multiplication. -/
  | vmul (x : Nat) (d a b : VReg) (fmt : BitVec 2) (p : PReg)
  /-- VFMA (R141): Lane-wise fused multiply-add with one rounding. -/
  | vfma (x : Nat) (d a b : VReg) (fmt : BitVec 2) (p : PReg)
  /-- VMAX (R141): Lane-wise IEEE maximum. -/
  | vmax (x : Nat) (d a b : VReg) (fmt : BitVec 2) (p : PReg)
  /-- VMIN (R141): Lane-wise IEEE minimum. -/
  | vmin (x : Nat) (d a b : VReg) (fmt : BitVec 2) (p : PReg)
  /-- VRCP (R141): Lane-wise correctly rounded reciprocal. -/
  | vrcp (x : Nat) (d a : VReg) (fmt : BitVec 2) (p : PReg)
  /-- VRSQ (R141): Lane-wise correctly rounded reciprocal square root. -/
  | vrsq (x : Nat) (d a : VReg) (fmt : BitVec 2) (p : PReg)
  /-- VEXP2 (R141): Lane-wise correctly rounded exp2. -/
  | vexp2 (x : Nat) (d a : VReg) (fmt : BitVec 2) (p : PReg)
  /-- VCMP (R142): Compares active lanes and writes a predicate. -/
  | vcmp (x : Nat) (d : PReg) (a b : VReg) (fmt : BitVec 2) (cond : BitVec 3) (p : PReg)
  /-- VRED (R143): Reduces the active lanes by a fixed pairing into s[d]. -/
  | vred (x : Nat) (d : SReg) (a : VReg) (op fmt : BitVec 2) (p : PReg)
  /-- VSEL (R144): Selects lanes from two vectors by a predicate. -/
  | vsel (x : Nat) (d a b : VReg) (p : PReg)
  /-- VSPL (R144): Copies s[a] into every active lane. -/
  | vspl (x : Nat) (d : VReg) (a : SReg) (p : PReg)
  /-- VGET (R144): Copies one lane into s[d]. -/
  | vget (x : Nat) (d : SReg) (a : VReg) (lane : Fin 8)
  /-- VDACT (R145): Multiplies the upstream gradient by the derivative of an activation from its saved output. -/
  | vdact (x : Nat) (d a b : VReg) (fmt : BitVec 2) (fn : BitVec 6) (p : PReg)
  /-- VCVT (R146): Converts active elements between two formats with rounding and saturation rules. -/
  | vcvt (x : Nat) (d a : VReg) (src dst : BitVec 4) (part : BitVec 3) (sr : Bool) (p : PReg)
  /-- VQNT (R147): Quantises binary32 lanes against scale entries, escaping where enabled. -/
  | vqnt (x : Nat) (d a : VReg) (b : SReg) (target : BitVec 2) (part : BitVec 3) (esc bcast : Bool) (p : PReg)
  /-- VQNT_CAL (R106): The calibrating form of VQNT writes scale entries from ranges. -/
  | vqntCal (x : Nat) (d a : VReg) (b : SReg) (target : BitVec 2) (margin : BitVec 3) (asym bcast : Bool) (p : PReg)
  /-- VDQ (R148): Dequantises a packed part to binary32 lanes and marks escapes in p7. -/
  | vdq (x : Nat) (d a : VReg) (b : SReg) (source : BitVec 2) (part : BitVec 3) (bcast : Bool) (p : PReg)
  /-- MCFG (R161): Claims and configures an array or quadrant, waiting while another task holds it. -/
  | mcfg (x : Nat) (a : SReg) (quad : Bool) (q : Fin 4)
  /-- MCFG_REL (R161): Releases an array or quadrant claim after the task's queued commands complete. -/
  | mcfgRel (x : Nat) (quad : Bool) (q : Fin 4)
  /-- ARRAY_CLAIM_GRANT (R55): A waiting claim or matrix command proceeds when the holding claim ends. -/
  | arrayClaimGrant (x : Nat)
  /-- MPASS (R71): Sets the pass count for binary32 tiles from the next chunk. -/
  | mpass (x : Nat) (n : BitVec 2) (q : Fin 4)
  /-- MLDS (R58): Queues a stationary tile load into the idle register, optionally transposed. -/
  | mlds (x : Nat) (a : TReg) (b : SReg) (tr : Bool) (q : Fin 4)
  /-- MLDS_DONE (R60): A stationary load completes with its footing row values. -/
  | mldsDone (motif unit : Nat)
  /-- MSTR (R51): Queues N vectors to stream into accumulator columns against the current tile. -/
  | mstr (x : Nat) (a : TReg) (b : SReg) (tr : Bool) (q : Fin 4) (c0 : BitVec 7)
  /-- CHUNK_STREAM_END (R72): After a chunk's last vector the array streams its footing slots and updates row and column checks. -/
  | chunkStreamEnd (motif unit : Nat) (upsets : List ArrayUpset)
  /-- MSWAP (R66): Queues the end of the tile in the active set. -/
  | mswap (x : Nat) (q : Fin 4)
  /-- MSWAP_EFFECT (R66): The swap takes effect after the tile's last footing slot once the other set is empty. -/
  | mswapEffect (motif unit : Nat)
  /-- MDRN (R68): Queues a drain of the draining set through scale, statistics and conversion to a bank or plait. -/
  | mdrn (x : Nat) (d : TReg) (a b : SReg) (func : BitVec 9)
  /-- DRAIN_START (R66): A drain starts when its set's last accumulation completes and reads columns at the drain rate. -/
  | drainStart (motif unit : Nat)
  /-- DRAIN_COMPLETE (R73): The footing comparisons complete and, if all pass, the MDRN completes and the set becomes EMPTY. -/
  | drainComplete (motif unit : Nat)
  /-- REPLAY_DONE (R75): A replayed tile is drained and checked, completing OK or going on to self-test. -/
  | replayDone (motif unit : Nat) (upsets : List ArrayUpset)
  /-- ARRAY_SELFTEST_DONE (R75): The 2,048-hs self-test ends, fencing failing quadrants or setting SUSPECT, and completes the MDRN with FAIL. -/
  | arraySelftestDone (motif unit : Nat) (cells : List (Nat × Nat))
  /-- MCHK (R165): Returns the footing status of the last drain after earlier matrix commands complete. -/
  | mchk (x : Nat) (d : SReg) (q : Fin 4)
  /-- MCHK_SELFTEST (R165): Runs the array self-test and fences failing quadrants. -/
  | mchkSelftest (x : Nat) (d : SReg) (q : Fin 4) (cells : List (Nat × Nat))
  /-- MA_FOOT_CTL_WRITE (R73): A write of the footing controls takes effect at the next tile boundary. -/
  | maFootCtlWrite (motif : Nat) (v : Word)
  /-- PLAIT_OPEN (R100): An OPEN write checks and opens a plait entry on the tree or fall-back path, stamping its epoch. -/
  | plaitOpen (entry : Nat) (v : Word)
  /-- PLAIT_CONTRIBUTION (R85): A flit reaches its leaf and is checked and accepted or refused with a deferred fault. -/
  | plaitContribution (id : Nat)
  /-- PLAIT_FALLBACK_WRITE (R92): A fall-back contribution is written full width to the partial area. -/
  | plaitFallbackWrite (id : Nat)
  /-- PLAIT_JOIN (R87): A join adds or passes the flits at the heads of its children and checks parity. -/
  | plaitJoin (level node : Nat) (parityError : Bool)
  /-- PLAIT_OUTPUT (R81): A sum leaves the tree through the output stage to a bank or into a collective. -/
  | plaitOutput (entry : Nat) (parityError : Bool)
  /-- PLAIT_ENTRY_DONE (R97): An entry becomes DONE when every element is written, sets its token and latches its taps. -/
  | plaitEntryDone (entry : Nat)
  /-- XFER (R166): Queues a copy, conversion, quantisation, plait contribution or scale move between views. -/
  | xfer (x : Nat) (d a : TReg) (b : SReg)
  /-- XFER_COMPLETE (R159): An XFER's writes all land and it increments its token. -/
  | xferComplete (motif index : Nat) (host : List Host.Cell)
  /-- HGATH (R167): Queues a gather of table rows for an index list at its hoist. -/
  | hgath (x : Nat) (d a : TReg) (b : SReg) (host : List Host.Cell)
  /-- HSCAT (R168): Queues a scatter of gradients with duplicate coalescing. -/
  | hscat (x : Nat) (d a : TReg) (b : SReg) (host : List Host.Cell)
  /-- ROW_RETURN (R263): A row read from face, level, deep or a peer reaches the hoist, is widened and pooled in entry order. -/
  | rowReturn (hoist index row : Nat) (host : List Host.Cell)
  /-- HGATH_COMPLETE (R265): The last bag output of a gather is written and its token set. -/
  | hgathComplete (hoist index : Nat)
  /-- COAL_STORE (R269): A home hoist stores a partial in the coalescing area or faults with HOIST_COAL. -/
  | coalStore (hoist index : Nat)
  /-- HSCAT_COMPLETE (R168): Every partial of the command is stored and the token set. -/
  | hscatComplete (hoist index : Nat)
  /-- WTOK (R171): Waits until a token's count reaches n, then subtracts n and returns the token word. -/
  | wtok (x : Nat) (d a : SReg) (n : BitVec 8)
  /-- WTOK_PEEK (R171): WTOK with n = 0 returns the token word without waiting or changing it. -/
  | wtokPeek (x : Nat) (d a : SReg)
  /-- WTOK_WAKE (R171): A waiting WTOK is served in arrival order once the count suffices. -/
  | wtokWake (token : Nat)
  /-- STOK (R172): Adds n to a token after the task's earlier stores complete. -/
  | stok (x : Nat) (a : SReg) (n : BitVec 8)
  /-- YIELD (R174): Saves the task's context after its loads return and requeues it. -/
  | yield (x : Nat)
  /-- SPAWN (R173): Places a task record in a chosen queue and reports the result. -/
  | spawn (x : Nat) (d : SReg) (a : VReg)
  /-- CHAIN (R178): Starts a fused chain of up to eight stages over blocks. -/
  | chain (x : Nat) (a b : SReg)
  /-- CHAIN_STAGE_START (R179): A stage of a block starts when its dependencies complete. -/
  | chainStageStart (motif index stage block : Nat) (host : List Host.Cell)
  /-- CHAIN_STAGE_COMPLETE (R192): A stage's writes land; a failing MTILE is re-run once or the chain stops. -/
  | chainStageComplete (motif index : Nat)
  /-- FENCE_STORES (R175): Waits until every earlier store of the task completes. -/
  | fenceStores (x : Nat) (commands : Bool)
  /-- FENCE_COMMANDS (R175): Waits until every earlier unit command of the task completes. -/
  | fenceCommands (x : Nat)
  /-- FENCE_RELEASE (R175): A waiting fence or HALT condition is met and the task continues. -/
  | fenceRelease (x : Nat)
  /-- HALT (R176): Ends the task, releasing claims, folding flags and freeing the context. -/
  | halt (x : Nat)
  /-- STEPEND (R176): Ends the task as HALT and counts a step end. -/
  | stepend (x : Nat)
  /-- DEFERRED_FAULT_REPORT (R150): A unit reports a fault after issue and it is taken at the task's next boundary or recorded for an ended task. -/
  | deferredFaultReport (index : Nat)
  /-- PN_JOBMAP_WRITE (R128): A protection write propagates to all four panels before it is acknowledged. -/
  | pnJobmapWrite (by_ : Writer) (a : Nat) (v : Word)
  /-- TASK_DISPATCH (R184): A free context takes the first queued record by class, priority and age and starts or restores it. -/
  | taskDispatch (x : Nat)
  /-- AUTO_YIELD (R186): A context waiting on a token or array past TOKEN_YIELD_HS is yielded. -/
  | autoYield (x : Nat)
  /-- SERVE_EVICTION (R187): A SERVE record waiting SERVE_WAIT_HS evicts a BACKGROUND or TRAIN context. -/
  | serveEviction (motif : Nat)
  /-- STEAL (R189): An idle motif asks victims in order and takes one stealable record. -/
  | steal (x : Nat)
  /-- SLICE_REQUEST (R196): A SERVE job's need for resources starts a time-slice of the lowest-priority holder. -/
  | sliceRequest (requester : Nat) (holders : List Nat)
  /-- SLICE_TAKE (R197): At a quiescent point the job is saved to its save and slice areas and its resources handed over. -/
  | sliceTake (slot : Nat) (banks : List Nat)
  /-- SLICE_WAIT_EXPIRE (R196): With no quiescent point within SLICE_WAIT_US the job is sliced at its step boundary instead. -/
  | sliceWaitExpire (slot : Nat)
  /-- SLICE_RESTORE (R199): A sliced job is restored, its authentication checked and claims remade. -/
  | sliceRestore (slot : Nat) (moves : List (Nat × Nat))
  /-- SWEEP_START (R304): Once backward entries, collectives and the flush are done the sweep starts and the slot enters SWEEP. -/
  | sweepStart (slot : Nat)
  /-- SWEEP_UPDATE_TASK (R306): Phase 1 stages a block and runs its update task, writing it back after HALT. -/
  | sweepUpdateTask (slot entry block area grad : Nat) (pc : Word) (host : List Host.Cell)
  /-- SWEEP_PHASE2 (R307): After phase 1 the sweep derives copies, digests and statistics and increments SWEEP_COUNT. -/
  | sweepPhase2 (slot : Nat)
  /-- DRAIN_QUIESCED (R204): When the step's commands, tags and prospector reads complete the drain runs orders 8 to 13. -/
  | drainQuiesced (slot : Nat) (banks failed : List Nat) (host : List Host.Cell) (loads : List (Nat × Nat × Nat × Nat))
  /-- STEP_HANG (R205): DRAIN_LIMIT_MS expires and the job slot is stopped. -/
  | stepHang (slot : Nat)
  /-- IDLE_CORE_ROTATION (R467): A motif with no home job rotates when it first becomes idle after ROT_INTERVAL_S. -/
  | idleCoreRotation (motif : Nat) (failed : Bool)
  /-- SHADOW_REFRESH (R207): Telemetry shadow copies are refreshed every 10 us. -/
  | shadowRefresh (grounds hf : List Int) (mv ma mj : Nat) (late : Bool)
  /-- BANK_HANDOVER (R216): A BK_OWNER write is accepted, sets HANDOVER_PENDING and propagates to issue points. -/
  | bankHandover (by_ : Writer) (bank : Nat) (v : Word)
  /-- HANDOVER_COMPLETE (R216): Once acknowledged and old accesses complete, HANDOVER_PENDING clears and held accesses are served. -/
  | handoverComplete (bank : Nat)
  /-- BANK_POWER_WRITE (R220): A write of STATE starts a bank power transition. -/
  | bankPowerWrite (bank : Nat) (v : Word)
  /-- BANK_TRANSITION_DONE (R220): A bank power transition ends and waiting accesses proceed. -/
  | bankTransitionDone (bank : Nat)
  /-- BANK_SCRUB_READ (R224): The scrub engine reads the next line of a bank in ON every interval. -/
  | bankScrubRead (bank : Nat) (single double : List Nat) (deferred : Nat)
  /-- SCRUB_WRITEBACK (R225): A corrected line is written back unless a foreground write came first. -/
  | scrubWriteback (bank : Nat)
  /-- MARCH_START (R228): START begins a destructive march test on a firmware-owned bank in ON. -/
  | marchStart (bank : Nat) (v : Word)
  /-- MARCH_PRESERVE_START (R229): START with PRESERVE begins a line-by-line preserving march test. -/
  | marchPreserveStart (bank : Nat) (v : Word)
  /-- MARCH_LINE_DONE (R229): A preserving march finishes one locked line and writes it back. -/
  | marchLineDone (bank : Nat) (failed : Bool)
  /-- MARCH_DONE (R227): A march test ends and its results are recorded. -/
  | marchDone (bank : Nat) (fails : List Nat)
  /-- LD_READ (R238): An LPDDR5X read fetches a pair and its check area, correcting or delivering poisoned zeros. -/
  | ldRead (slot : Option Nat) (addr size : Nat) (errors areaErrors : List (Nat × Nat)) (linkFails : Nat)
  /-- LD_WRITE (R239): An LPDDR5X write stores a whole pair or read-modify-writes it. -/
  | ldWrite (slot : Option Nat) (addr : Nat) (data : List Byte)
  /-- LD_REFRESH (R241): A per-bank refresh falls due and is issued. -/
  | ldRefresh (channel bank : Nat)
  /-- LD_RFM (R235): A bank's activate count reaches its threshold and RFM is issued. -/
  | ldRfm (channel : Nat)
  /-- LD_CALIBRATION (R242): A due calibration takes its channel when idle or at CAL_SLACK for up to 1.5 us. -/
  | ldCalibration (channel : Nat) (waited forced restored : Bool)
  /-- LD_SCRUB_READ (R243): The channel scrub reads the next ECC block, forcing it if not issued within INTERVAL_US. -/
  | ldScrubRead (channel : Nat) (turn : LdScrubTurn)
  /-- LD_PACKAGE_TRAIN (R244): A package is trained at S4 and its channels go IN_SERVICE or FENCED. -/
  | ldPackageTrain (package giB : Nat) (fails : List (Nat × Nat))
  /-- LD_CH_FAIL (R245): A channel failing 16 link retries in one second or calibration is fenced. -/
  | ldChFail (channel : Nat)
  /-- DEEP_ACCESS (R246): A HOST access is translated through a deep window and issued over PCIe. -/
  | deepAccess (slot : Option Nat) (addr size : Nat) (data : Option (List Byte))
  /-- DEEP_READ_COMPLETION (R247): Completions of a deep read arrive and return its data. -/
  | deepReadCompletion (id : Nat) (data : Option (List Byte))
  /-- DEEP_TIMEOUT (R367): A module read reaches its completion timeout and returns poisoned zeros. -/
  | deepTimeout (id : Nat)
  /-- TAG_GRANT (R249): A freed transaction tag goes to the highest-class oldest waiting request. -/
  | tagGrant (hf : Nat)
  /-- EM_TSEL_LOAD (R250): LOAD copies a table descriptor into EM_TDATA. -/
  | emTselLoad (v : Word)
  /-- EM_TSEL_STORE (R250): STORE writes EM_TDATA into a table or is refused. -/
  | emTselStore (by_ : Writer) (v : Word)
  /-- EM_PUBLISH_GO (R273): GO publishes a table's non-current version slot, or queues or refuses it. -/
  | emPublishGo (by_ : Writer) (v : Word)
  /-- EM_VERSION_FREED (R274): An unreferenced version slot is freed and its tally entries removed. -/
  | emVersionFreed (table vsn : Nat)
  /-- COAL_FLUSH (R270): When the writer's live count reaches zero each home hoist sums, delivers and finalises row gradients. -/
  | coalFlush (slot : Nat)
  /-- HAUL_EPOCH_END (R276): At an epoch's end haulage halves POP, picks targets and makes budgeted moves. -/
  | haulEpochEnd (host : List Host.Cell) (loads : List (Nat × Nat × Nat × Nat))
  /-- PROSPECT_SLOT_READ (R281): The prospector reads a step-list slot ahead and uses it if READY and matching. -/
  | prospectSlotRead (panel d : Nat) (host : List Host.Cell)
  /-- PROSPECT_RETRY (R281): A late slot is retried after 10 us. -/
  | prospectRetry (panel d : Nat) (host : List Host.Cell)
  /-- PROSPECT_STAGE_ROW (R282): A row's slot read completes into a staging bank. -/
  | prospectStageRow (panel index : Nat) (host : List Host.Cell)
  /-- PROSPECT_RETURN (R296): A return record is served: bank handed over, data read back and READY set. -/
  | prospectReturn (at_ : ReturnAt) (host : List Host.Cell)
  /-- DIGEST_COMPARE (R312): At order 9 the replica roots are compared and bisection starts on a difference. -/
  | digestCompare (slot : Nat) (others : List (Nat × List Nat)) (suspects : List Nat)
  /-- DIGEST_REPAIR (R315): A losing member copies the winner's block and re-derives its copies. -/
  | digestRepair (slot leaf : Nat) (block : List Byte)
  /-- PREFETCH_START (R318): A prefetch entry starts when PF_TOKEN reaches 1. -/
  | prefetchStart (slot : Nat)
  /-- MICROBATCH_START (R318): A microbatch record starts when MB_TOKEN reaches 1. -/
  | microbatchStart (slot : Nat)
  /-- WAIT_POLICY_ACTION (R318): After WAIT_HS of waiting on a fabric token the wait policy starts work early. -/
  | waitPolicyAction (slot : Nat) (again : Bool)
  /-- SERVE_REQ (R327): A serving request arrives, allocates a ledger entry and pins versions, or is refused BUSY. -/
  | serveReq (hf : Nat)
  /-- SERVE_DISPATCH (R288): The dispatcher places a request's tasks in a SERVE slot. -/
  | serveDispatch (entry : Nat) (records : List (List Word))
  /-- SERVE_RSP (R323): A serving response arrives and is delivered. -/
  | serveRsp (hf : Nat)
  /-- DATA (R325): A collective DATA packet is accepted in the window and placed at its offset. -/
  | data (hf : Nat)
  /-- ROW_REQ (R340): A row request is served by the owner, or held during the writer's sweep. -/
  | rowReq (hf : Nat) (host : List Host.Cell)
  /-- ROW_RSP (R340): A row response returns tagged rows to the requester. -/
  | rowRsp (hf : Nat)
  /-- GRAD (R342): A module sum for an owned row arrives and is stored as a record. -/
  | grad (hf : Nat)
  /-- BULK (R333): A bulk packet carrying a moved shard is placed. -/
  | bulk (hf : Nat)
  /-- ACK (R326): An acknowledgment frees acknowledged packets and may trigger fast retransmit. -/
  | ack (hf : Nat)
  /-- OPEN (R324): A connection open request arrives. -/
  | open_ (hf : Nat)
  /-- OPEN_OK (R324): An open acknowledgment arrives and the connection is usable. -/
  | openOk (hf : Nat)
  /-- CLOSE (R324): A connection close message arrives. -/
  | close (hf : Nat)
  /-- EPOCH_NAK (R332): An epoch rejection aborts the step and requests the layout. -/
  | epochNak (hf : Nat) (host : List Host.Cell)
  /-- EPOCH_READY (R333): A child's readiness for the next epoch arrives up the tree. -/
  | epochReady (hf : Nat) (host : List Host.Cell)
  /-- EPOCH_COMMIT (R333): The commit arrives and lost shards are sent by BULK. -/
  | epochCommit (hf : Nat) (host : List Host.Cell)
  /-- EPOCH_ADOPTED (R333): When every gained shard is placed the member switches maps and adopts the new epoch. -/
  | epochAdopted (slot : Nat)
  /-- PEER_LOSS (R343): A peer's loss notice arrives and the peer is declared lost. -/
  | peerLoss (hf : Nat) (host : List Host.Cell)
  /-- PEER_BACK (R345): A peer's return notice arrives, cancelling a pending declaration or ending HOLD. -/
  | peerBack (hf : Nat) (host : List Host.Cell)
  /-- LAYOUT_REQ (R332): A request for the current layout arrives at the coordinator. -/
  | layoutReq (hf : Nat) (host : List Host.Cell)
  /-- LAYOUT (R332): The coordinator's layout arrives and is applied. -/
  | layout (hf : Nat) (host : List Host.Cell)
  /-- RETRANSMIT_TIMEOUT (R326): RTO_US passes with unacknowledged packets and they are resent. -/
  | retransmitTimeout (connection : Nat)
  /-- ACK_DELAY_EXPIRE (R326): ACK_DELAY_US after an unacknowledged receipt an ACK is sent. -/
  | ackDelayExpire (connection : Nat)
  /-- REQUEST_RETRY_TIMEOUT (R327): A ROW or SERVE request with no response after RTO_US is resent or given up. -/
  | requestRetryTimeout (id : Nat)
  /-- PEER_WAIT_EXPIRE (R345): PEER_WAIT_S passes in HOLD and the job slot stops. -/
  | peerWaitExpire (slot : Nat)
  /-- HF_COLL_LOAD (R334): LOAD copies a collective descriptor into HF_COLL_DATA. -/
  | hfCollLoad (v : Word)
  /-- HF_COLL_STORE (R334): STORE writes a collective descriptor or is refused for a running one. -/
  | hfCollStore (by_ : Writer) (v : Word)
  /-- FRAME_RECEIVE (R350): A fabric frame is received and filtered to GFT, firmware or discard. -/
  | frameReceive (port : Nat) (f : FabFrame)
  /-- PFC_FRAME_RECEIVE (R352): A PFC frame loads the pause timers of enabled priorities. -/
  | pfcFrameReceive (port : Nat) (enable : Byte) (times : List Nat)
  /-- PFC_PAUSE_EXPIRE (R352): A priority's pause timer runs out and it may transmit. -/
  | pfcPauseExpire (port q : Nat)
  /-- PFC_REFRESH (R353): Every REFRESH quanta above XON the PFC frame is repeated. -/
  | pfcRefresh (port q : Nat)
  /-- RX_BUFFER_DRAIN (R353): Buffered frames drain toward the panels and a fall below XON sends a zero-time PFC. -/
  | rxBufferDrain (port q : Nat)
  /-- FRAME_TX_DONE (R351): A frame finishes transmitting and the next is chosen by priority. -/
  | frameTxDone (port : Nat)
  /-- PAUSE_WD_TX_EXPIRE (R354): A priority paused with a frame waiting for WD_US breaks the pause. -/
  | pauseWdTxExpire (port q : Nat)
  /-- PAUSE_WD_RX_EXPIRE (R355): A priority held in pause for WD_US stops sending PFC for the hold. -/
  | pauseWdRxExpire (port q : Nat)
  /-- PAUSE_HOLD_END (R354): WD_HOLD_MS ends and pause handling resumes. -/
  | pauseHoldEnd (port q : Nat) (tx : Bool)
  /-- LINK_DOWN (R349): LINK clears, queued frames are discarded and the port leaves service. -/
  | linkDown (port : Nat)
  /-- LINK_UP (R349): LINK sets and the port returns to service. -/
  | linkUp (port : Nat)
  /-- FM_CTL_WRITE (R348): A port configuration write applies only while EN is 0 or is refused. -/
  | fmCtlWrite (port off : Nat) (v : Word)
  /-- MM_FRAME_RECEIVE (R360): The management MAC accepts or filters a frame. -/
  | mmFrameReceive (dst etherType : Nat) (payload : List Byte) (fcsOk : Bool)
  /-- MM_COLLISION (R358): A collision jams and schedules back-off, or discards after 16 attempts. -/
  | mmCollision (late : Bool)
  /-- MM_BACKOFF_EXPIRE (R358): The back-off wait ends and the frame is retried. -/
  | mmBackoffExpire
  /-- PLCA_BEACON_LOSS (R361): No beacon within the allowed time falls back to CSMA/CD. -/
  | plcaBeaconLoss
  /-- PLCA_BEACON_RESUME (R361): Beacons resume and the MAC returns to PLCA. -/
  | plcaBeaconResume
  /-- WAKE_FRAME (R363): In STANDBY the detector checks a wake frame and signals a wake. -/
  | wakeFrame (dst etherType : Nat) (payload : List Byte) (fcsOk : Bool)
  /-- CONFIG_REQUEST (R368): A PCIe configuration request is answered, with Request Retry Status during bring-up. -/
  | configRequest (fn : Nat) (write : Option (Nat × Word))
  /-- BAR_ACCESS (R366): A host access to BAR4 or the bank window is checked against the function's ranges. -/
  | barAccess (fn : Nat) (bank : Bool) (off size : Nat) (data : Option (List Byte))
  /-- APERTURE_WRITE_INVALID (R369): A write to the aperture that is not a capsule, or finds no credit, is discarded. -/
  | apertureWriteInvalid (fn off size : Nat)
  /-- LEASE (R372): A LEASE capsule renews the function's lease. -/
  | leaseCapsule (fn queue : Nat) (words : List Word)
  /-- ATTACH (R384): ATTACH restarts an expired lease and writes DONE and NOTICE records. -/
  | attach (fn queue : Nat) (words : List Word)
  /-- JOB_LOAD (R373): Loads a job from a declaration into a slot. -/
  | jobLoad (fn queue : Nat) (words : List Word) (host : List Host.Cell) (grants : List (Nat × Nat)) (more passes : Bool)
  /-- STEPS (R372): Queues steps for a job slot. -/
  | steps (fn queue : Nat) (words : List Word)
  /-- WITHDRAW (R372): Removes queued steps that have not started. -/
  | withdraw (fn queue : Nat) (words : List Word)
  /-- STOP (R372): Stops a job slot. -/
  | stop (fn queue : Nat) (words : List Word)
  /-- FREE (R372): Frees a STOPPED or DONE slot. -/
  | free (fn queue : Nat) (words : List Word)
  /-- RESUME (R384): Restores a job sliced by lease expiry. -/
  | resume (fn queue : Nat) (words : List Word) (moves : List (Nat × Nat))
  /-- SERVE (R372): Submits a serving request by capsule. -/
  | serve (fn queue : Nat) (words : List Word) (host : List Host.Cell)
  /-- SET (R372): Applies a declaration at the slot's next order 10. -/
  | setDecl (fn queue : Nat) (words : List Word) (host : List Host.Cell) (grants : List (Nat × Nat)) (more : Bool)
  /-- RESHARD (R333): Queues a re-shard of shard maps. -/
  | reshard (fn queue : Nat) (words : List Word) (host : List Host.Cell)
  /-- PUBLISH (R372): Publishes a table by capsule and reports the result. -/
  | publish (fn queue : Nat) (words : List Word)
  /-- RING_HEAD_WRITE (R376): Advancing HEAD releases records waiting on a full ring. -/
  | ringHeadWrite (fn queue : Nat) (v : Word)
  /-- RING_CONFIG_WRITE (R384): A ring base or size write is taken only while the lease is expired and resets the ring. -/
  | ringConfigWrite (fn queue off : Nat) (v : Word)
  /-- MSIX_MOD_TIMER (R377): MOD_US after the oldest unsignalled record the ring's vector is sent. -/
  | msixModTimer (fn queue : Nat)
  /-- RESULT_SLOT_READ (R379): A read of a result slot is served whole and counts in READ_COUNT. -/
  | resultSlotRead (fn slot off size : Nat)
  /-- RETIRE (R380): A RETIRE write with matching SEQ frees a VALID result slot. -/
  | retire (fn slot : Nat) (v : Word)
  /-- RESULT_STORE (R379): A request's result is stored, the slot set VALID and DONE issued. -/
  | resultStore (entry : Nat) (payload : List Byte)
  /-- LEASE_EXPIRY (R383): A function's lease timer reaches LEASE_MS and the expiry sequence runs. -/
  | leaseExpiry (fn : Nat)
  /-- D3HOT_WRITE (R383): A D3hot write acts on the function as lease expiry. -/
  | d3hotWrite (fn : Nat)
  /-- FUNCTION_LEVEL_RESET (R383): A function-level reset runs lease expiry and clears queues and rings. -/
  | functionLevelReset (fn : Nat)
  /-- BUS_MASTER_DISABLE (R367): Clearing Bus Master Enable poisons the function's reads and drops its writes. -/
  | busMasterDisable (fn : Nat)
  /-- COMPONENT_MESSAGE (R393): A component receives a message in arrival order. -/
  | componentMessage (component : Nat) (msg : List Byte) (taken : Nat)
  /-- COMPONENT_RESTART (R394): A faulting component is sampled, re-hashed and restarted. -/
  | componentRestart (component cause : Nat) (bodyOk : Bool) (core data records : List Byte)
  /-- WATCHDOG (R468): A component misses its watchdog period and is restarted. -/
  | watchdog (component : Nat) (bodyOk : Bool) (core data records : List Byte)
  /-- DHCP_RETRY (R389): A DHCP retry interval or the 15 s limit expires during boot. -/
  | dhcpRetry
  /-- TFTP_BLOCK_TIMEOUT (R389): A TFTP block times out and is retried, failing after five. -/
  | tftpBlockTimeout (server : Nat)
  /-- TFTP_BLOCK (R389): A TFTP data block arrives and is placed in bank A. -/
  | tftpBlock (server block : Nat) (data : List Byte) (tsize blksize : Nat)
  /-- GOOD_IMAGE_COPY (R391): After 600 s at S5 the running image is copied to the GOOD slot. -/
  | goodImageCopy
  /-- STAGE (R396): STAGE reads, verifies and stores a new image from host memory. -/
  | stage (image : Option (List Byte))
  /-- ACTIVATE (R397): ACTIVATE begins or defers a shift change. -/
  | activate
  /-- SHIFT_HOLD_EXPIRE (R397): An emergency has been clear for HOLD_S and the deferred shift change begins. -/
  | shiftHoldExpire
  /-- SHIFT_PAUSE_BEGIN (R398): Once no slot is in a boundary the pause begins and new components start. -/
  | shiftPauseBegin
  /-- SHIFT_READY (R398): All new components report ready and the pause ends. -/
  | shiftReady
  /-- SHIFT_ROLLBACK (R399): An import fails or 1.2 ms passes and the old components are restarted. -/
  | shiftRollback (component : Nat)
  /-- SAMPLE (R400): SAMPLE takes a core sample on request. -/
  | sample (component : Nat) (core data records : List Byte)
  /-- IDENT (R401): Management IDENT returns slot, identity and versions. -/
  | ident (src : Nat) (msg : List Byte)
  /-- STATUS (R401): Management STATUS returns boot and firmware state. -/
  | status (src : Nat) (msg : List Byte)
  /-- NONCE (R401): Management NONCE returns a fresh nonce. -/
  | nonce (src : Nat) (msg : List Byte)
  /-- MGMT_STAGE (R401): A signed management STAGE stages an image from a TFTP server. -/
  | mgmtStage (src : Nat) (msg sig : List Byte) (image : Option (List Byte))
  /-- MGMT_ACTIVATE (R401): A signed management ACTIVATE requests activation. -/
  | mgmtActivate (src : Nat) (msg sig : List Byte)
  /-- SAMPLE_LIST (R401): Returns the headers of every core-sample entry. -/
  | sampleList (src : Nat) (msg : List Byte)
  /-- SAMPLE_READ (R401): Returns up to 1,024 bytes of a core sample. -/
  | sampleRead (src : Nat) (msg : List Byte)
  /-- DEBUG (R417): A signed DEBUG command raises the debug level. -/
  | debug (cmd : List Byte)
  /-- LC_ADVANCE (R411): A signed LC_ADVANCE burns the next life-cycle state. -/
  | lcAdvance (cmd : List Byte)
  /-- OWNER_KEY (R404): A signed OWNER_KEY writes the next owner-key slot. -/
  | ownerKey (cmd : List Byte)
  /-- SVN_MIN (R408): A signed SVN_MIN raises the security version minimum. -/
  | svnMin (cmd : List Byte)
  /-- VENDOR_REVOKE (R403): A signed VENDOR_REVOKE burns a vendor slot's revocation fuse. -/
  | vendorRevoke (cmd : List Byte)
  /-- NONCE_NEW (R409): NONCE_NEW replaces SC_NONCE. -/
  | nonceNew
  /-- QUOTE_GO (R414): QUOTE_GO snapshots and signs a quote of selected measurements. -/
  | quoteGo (v : Word)
  /-- EXTEND (R413): A write of EXT_INDEX extends MEAS_12 to MEAS_15, or is refused. -/
  | extend (v : Word)
  /-- DEBUG_LEVEL_WRITE (R418): A write of LEVEL lowers the debug level, or raises it only in BLANK. -/
  | debugLevelWrite (v : Word)
  /-- DEBUG_DURATION_EXPIRE (R418): DURATION_S expires and the level falls to OFF. -/
  | debugDurationExpire
  /-- EXTEST (R420): TAP instruction EXTEST drives outputs from boundary scan while PERST_N is asserted. -/
  | extest (pins data : BitVec 116)
  /-- SAMPLE_PRELOAD (R448): TAP instruction SAMPLE/PRELOAD captures and preloads the boundary register. -/
  | samplePreload (pins data : BitVec 116)
  /-- IDCODE (R448): TAP instruction IDCODE selects the identification register. -/
  | idcode
  /-- INTEST (R420): TAP instruction INTEST, allowed only while PERST_N is asserted. -/
  | intest (pins data : BitVec 116)
  /-- CLAMP (R448): TAP instruction CLAMP holds outputs at preloaded values with BYPASS selected. -/
  | clamp
  /-- HIGHZ (R448): TAP instruction HIGHZ places every output at high impedance. -/
  | highz
  /-- DAP (R448): TAP instruction DAP selects the debug access port within its reach. -/
  | dap
  /-- BYPASS (R448): TAP instruction BYPASS, also taken by unlisted codes. -/
  | bypass (code : Byte)
  /-- PW_REQ_ACTIVE (R421): A PW_STATE request for ACTIVE returns the module to full operation. -/
  | pwReqActive (v : Word)
  /-- PW_REQ_LEAN (R422): A LEAN request parks the named panels once they are free. -/
  | pwReqLean (v : Word)
  /-- PANEL_PARKED (R423): A panel's rail drops to retention and its duties pass to its neighbour. -/
  | panelParked (panel : Nat)
  /-- PANEL_UNPARKED (R423): An unparked panel returns to service after its rail, a canary window and bank wake. -/
  | panelUnparked (panel : Nat)
  /-- PW_REQ_DOZE (R424): A DOZE request puts every panel at retention when jobs allow. -/
  | pwReqDoze (v : Word) (woken : Nat)
  /-- DOZE_WAKE (R424): A wake source returns the module from DOZE to ACTIVE. -/
  | dozeWake (cause : Nat)
  /-- PW_REQ_STANDBY (R425): A STANDBY request runs the entry sequence, or is refused with JOBS. -/
  | pwReqStandby (v : Word)
  /-- STANDBY_EXIT (R426): A wake frame or power or reset path leaves STANDBY as a reset from S0. -/
  | standbyExit
  /-- POWER_ON (R434): The input rises through 38.0 V and the always-on rail comes up at S0. -/
  | powerOn (hot : Bool)
  /-- STRAP_SAMPLE (R433): Straps are sampled and latched 10 ms after the always-on rail is good. -/
  | strapSample (slot src profile : Nat)
  /-- HEADFRAME_RAILS_UP (R434): Headframe rails come up with the headframes held in reset. -/
  | headframeRailsUp (cold : Bool)
  /-- PERST_RELEASE (R434): PERST_N release starts S1: counters start, OTP is read and the link trains. -/
  | perstRelease (cold hot : Bool)
  /-- PERST_ASSERT (R441): PERST_N assertion releases outputs, drops jobs and rails and holds the headframes in reset. -/
  | perstAssert
  /-- S2_ENTRY (R434): The boot ROM loads and verifies an image and starts the supervisor. -/
  | s2Entry
  /-- PANEL_REPAIR (R437): A panel is repaired at S3: rail, march, self-tests and link training. -/
  | panelRepair (panel : Nat) (rail bridges : Bool) (nodes : NodeCheck) (dieLink : Bool) (lines : List (Nat × List Nat)) (quads : List (Nat × Nat)) (cores : List (Nat × List Nat)) (grounds : List Nat)
  /-- PASS_CALIBRATION (R439): Pass calibration checks every array and S5 begins. -/
  | passCalibration (quads : List (Nat × Nat))
  /-- POWER_FAIL (R431): The input falls below 37.0 V for 10 us and every rail is removed. -/
  | powerFail
  /-- OVERVOLTAGE_SHUTDOWN (R431): The input exceeds 46.0 V for 10 us and every rail is removed. -/
  | overvoltageShutdown
  /-- BREAKER_TRIP (R431): Input current of 32 A for 1 ms trips the breaker and removes every rail. -/
  | breakerTrip
  /-- POWER_REMOVED (R427): Removing power reaches OFF, keeping only OTP and log flash. -/
  | powerRemoved
  /-- VIN_RANGE (R430): The input leaves 38-45 V and VIN_RANGE is set as an emergency. -/
  | vinRange (mv : Nat)
  /-- TEMP_WARN (R451): The hottest sensor reaches WARN_C and TEMP_WARN is set. -/
  | tempWarn (t : Int)
  /-- THERM_THROTTLE (R452): At the throttle limit THERM_N goes low and rails drop 20 mV every 20 us. -/
  | thermThrottle (t : Int)
  /-- THROTTLE_RELEASE (R451): The hottest sensor falls below 97 C and throttling ends. -/
  | throttleRelease (t : Int)
  /-- THERM_TRIP (R453): 110 C for 1 ms removes every rail except the always-on domain. -/
  | thermTrip
  /-- EVENT_RECORD (R461): The event unit numbers a record, writes it to the ring and hands it to the log. -/
  | eventRecord (wasRead : Bool)
  /-- CORE_STALL_FENCE (R465): A context READY for 4,096 hs without issue fences its core. -/
  | coreStallFence (x : Nat)
  /-- FLASH_BLOCK_FAIL (R472): A failed erase or program retires the block and rewrites the page. -/
  | flashBlockFail (block : Nat)
  /-- FLASH_ERASE_SUSPEND (R207): A queued log-flash write suspends an erase within 20 us. -/
  | flashEraseSuspend (block : Nat)
  /-- UNASSIGNED_INSTRUCTION (R134): A task issues a word with an unassigned major opcode or function code, such as the all-zero word, and it is refused with ILLEGAL. -/
  | unassignedInstruction (x : Nat) (w0 w1 : Word)
  /-- BAD_OPCODE_CAPSULE (R372): A well-formed 128-byte capsule with OPCODE 0x00 or 0x0D-0xFF is accepted, takes a credit and ends with BAD_OPCODE. -/
  | badOpcodeCapsule (fn queue : Nat) (words : List Word)
  /-- SIGNED_COMMAND_BAD_OP (R408): CMD_GO with an unassigned OP runs the command checks, fails FORMAT and replaces the nonce. -/
  | signedCommandBadOp (cmd : List Byte)
  /-- PME_TURN_OFF (R425): During STANDBY entry the host's PME_Turn_Off arrives, the module answers PME_TO_Ack and the link enters L2. -/
  | pmeTurnOff
  /-- PME_TURN_OFF_TIMEOUT (R425): With no PME_Turn_Off within 1 s the headframe places the link in electrical idle and entry continues. -/
  | pmeTurnOffTimeout
  /-- COLD_START_WAIT_END (R435): A headframe sensor rises to -5 C or above while PERST_N is released, and S1 begins. -/
  | coldStartWaitEnd
  /-- TRIP_COOLDOWN_END (R453): After a thermal trip and a restart request, every headframe sensor falls below 90 C and the restart proceeds from S0. -/
  | tripCooldownEnd
  /-- TEST_LOGIC_RESET (R448): TRST_N is asserted or the TAP reaches Test-Logic-Reset, and the instruction register loads IDCODE. -/
  | testLogicReset
  /-- MM_FRAME_TX_DONE (R358): The management MAC completes sending a frame, after deferral or collisions, and counts it in TX_FRAMES, SINGLE_COLL, MULTI_COLL or DEFERRED. -/
  | mmFrameTxDone (deferred : Bool)
  /-- LOG_FLASH_WRITE_DONE (R207): A log-flash page program of a core sample, an event page or a repair map completes, resuming any suspended erase. -/
  | logFlashWriteDone
  /-- LOG_FLASH_ERASE_DONE (R472): A log-flash block erase completes and the block's erase count in the wear data rises. -/
  | logFlashEraseDone (block : Nat)
deriving DecidableEq, Repr

end Sys2Proof
end

