-- ==== Sys2Proof/Config.lean ====
section
/-! DEFINITION. What the manual leaves open: opaque constants with no body, so that no proof can lean on a value of them. Each is
named in the assumption log. -/

namespace Sys2Proof.Config

/-- The n-th value the module draws at random, or that the manual leaves undefined (log entries 5 and 6). -/
opaque freeNat : Nat → Nat

/-- The byte an address of a bank holds after the bank returned from OFF without POISON_INIT (R223, log entry 7). -/
opaque freeByte : Nat → Nat → Byte

/-- The check state of such a bank's word: 0 clean, 1 correctable, otherwise uncorrectable (R223, log entry 7). -/
opaque freeMark : Nat → Nat → Nat

/-- The 15 DATA bytes of an event record, from its code and the items its rule names: the manual fixes the items, not their
places (R456, log entry 8). -/
opaque eventData : Nat → List Nat → BitVec 120

/-- The four vendor public keys x ‖ y that are fused at manufacture (R403, log entry 41). -/
opaque vendorKey : Nat → List Byte

/-- The digests of the boot ROM and of the OTP configuration that MEAS_0 takes up (R412, log entry 41). -/
opaque romDigest : List Byte
opaque otpDigest : List Byte

/-- The address of the management MAC and of each fabric port's MAC, given "from identity" (ch. 14, log entry 42). -/
opaque mmMac : Nat
opaque portMac : Nat → Nat

/-- The starting rail setting of a power profile (R437), 0 A and 1 L (log entry 43). -/
opaque startRail : Nat → Nat

/-- The address of the library's summing task of the plait's fall-back path (R92, log entry 25). -/
opaque summingPc : Word

end Sys2Proof.Config
end

