-- ==== Sys2Proof/Machine/Codes.lean ====
section
/-! DEFINITION. Event codes and task fault codes share one numbering (R459). Generated from the table of R459. -/

namespace Sys2Proof.Machine

/-- Every event code and task fault code of R459. -/
inductive Code
  | ILLEGAL
  | FETCH
  | PRIV_RANGE
  | ADDR
  | PROT
  | DATA_POISON
  | SRF_RANGE
  | SCALE_INVALID
  | QBLOCK_OVF
  | DESC_INVALID
  | TOK_RANGE
  | XFER_SHAPE
  | HOIST_TABLE
  | HOIST_LIST
  | HOIST_COAL
  | CHAIN_STOP
  | MA_FORMAT
  | MA_SHAPE
  | MA_ORDER
  | MA_FENCED
  | FOOTING_MISMATCH
  | PLAIT_SLOT
  | PLAIT_DUP
  | PLAIT_ORDER
  | PLAIT_PARITY
  | PLAIT_CONFIG
  | QCONST
  | FZ
  | TASK_FAULT
  | CORE_FENCED
  | STEP_ABORT
  | STEP_REPLAY_LIMIT
  | STEP_HANG
  | MOTIF_DEGRADED
  | CORE_ROTATED
  | BANK_NOT_OWNED
  | BANK_HO_REFUSED
  | BANK_ASLEEP
  | BANK_ECC_CE
  | BANK_ECC_UE
  | BANK_POISON_READ
  | BANK_REPAIRED
  | BANK_FENCED
  | LD_ECC_CE
  | LD_ECC_UE
  | LD_BLOCK_WEAK
  | LD_CH_FENCED
  | DEEP_UNMAPPED
  | DEEP_TIMEOUT
  | SHARD_VERSION
  | EM_PUBLISHED
  | EM_VERSION_FREED
  | EM_SAMPLES_LOST
  | EM_LIST_LATE
  | DIGEST_MISMATCH
  | DIGEST_RELOAD
  | UP_ROW_LOST
  | RETURN_SKIPPED
  | COLL_MISMATCH
  | EPOCH_ADOPTED
  | PEER_LOST
  | PEER_BACK
  | FM_LINK_DOWN
  | FM_LINK_UP
  | PAUSE_BROKEN
  | MM_EXCESS_COLL
  | MM_PLCA_LOST
  | HOST_LEASE_EXPIRED
  | PC_CAPSULE_OVERRUN
  | PC_RING_FULL
  | FW_STAGE_FAIL
  | SHIFT_DEFERRED
  | SHIFT_CHANGE
  | SHIFT_ROLLBACK
  | COMPONENT_RESTART
  | COMPONENT_FAILED
  | CORE_SAMPLE
  | WATCHDOG
  | RATE_FLOOR_MISS
  | CANARY_FAULT
  | BRINGUP_STAGE
  | PANEL_REPAIR_FAIL
  | PROFILE_MISMATCH
  | POWER_FAIL
  | THERM_THROTTLE
  | THERM_TRIP
  | PW_STATE_CHANGE
  | SC_CMD_FAIL
  | LC_CHANGE
  | DEBUG_LEVEL
  | KEYS_ZEROISED
  | SLICE_AUTH_FAIL
  | FLASH_BLOCK_RETIRED
  | FLASH_WORN
deriving DecidableEq, Repr

/-- The number of a code: group in [15:8], position in the group's list in [7:0] (R459). -/
def codeNumber : Code → Nat
  | .ILLEGAL => 0x0100
  | .FETCH => 0x0101
  | .PRIV_RANGE => 0x0102
  | .ADDR => 0x0103
  | .PROT => 0x0104
  | .DATA_POISON => 0x0105
  | .SRF_RANGE => 0x0106
  | .SCALE_INVALID => 0x0107
  | .QBLOCK_OVF => 0x0108
  | .DESC_INVALID => 0x0109
  | .TOK_RANGE => 0x010A
  | .XFER_SHAPE => 0x010B
  | .HOIST_TABLE => 0x010C
  | .HOIST_LIST => 0x010D
  | .HOIST_COAL => 0x010E
  | .CHAIN_STOP => 0x010F
  | .MA_FORMAT => 0x0200
  | .MA_SHAPE => 0x0201
  | .MA_ORDER => 0x0202
  | .MA_FENCED => 0x0203
  | .FOOTING_MISMATCH => 0x0204
  | .PLAIT_SLOT => 0x0205
  | .PLAIT_DUP => 0x0206
  | .PLAIT_ORDER => 0x0207
  | .PLAIT_PARITY => 0x0208
  | .PLAIT_CONFIG => 0x0209
  | .QCONST => 0x0300
  | .FZ => 0x0301
  | .TASK_FAULT => 0x0400
  | .CORE_FENCED => 0x0401
  | .STEP_ABORT => 0x0402
  | .STEP_REPLAY_LIMIT => 0x0403
  | .STEP_HANG => 0x0404
  | .MOTIF_DEGRADED => 0x0405
  | .CORE_ROTATED => 0x0406
  | .BANK_NOT_OWNED => 0x0500
  | .BANK_HO_REFUSED => 0x0501
  | .BANK_ASLEEP => 0x0502
  | .BANK_ECC_CE => 0x0503
  | .BANK_ECC_UE => 0x0504
  | .BANK_POISON_READ => 0x0505
  | .BANK_REPAIRED => 0x0506
  | .BANK_FENCED => 0x0507
  | .LD_ECC_CE => 0x0600
  | .LD_ECC_UE => 0x0601
  | .LD_BLOCK_WEAK => 0x0602
  | .LD_CH_FENCED => 0x0603
  | .DEEP_UNMAPPED => 0x0604
  | .DEEP_TIMEOUT => 0x0605
  | .SHARD_VERSION => 0x0700
  | .EM_PUBLISHED => 0x0701
  | .EM_VERSION_FREED => 0x0702
  | .EM_SAMPLES_LOST => 0x0703
  | .EM_LIST_LATE => 0x0704
  | .DIGEST_MISMATCH => 0x0800
  | .DIGEST_RELOAD => 0x0801
  | .UP_ROW_LOST => 0x0802
  | .RETURN_SKIPPED => 0x0803
  | .COLL_MISMATCH => 0x0900
  | .EPOCH_ADOPTED => 0x0901
  | .PEER_LOST => 0x0902
  | .PEER_BACK => 0x0903
  | .FM_LINK_DOWN => 0x0904
  | .FM_LINK_UP => 0x0905
  | .PAUSE_BROKEN => 0x0906
  | .MM_EXCESS_COLL => 0x0907
  | .MM_PLCA_LOST => 0x0908
  | .HOST_LEASE_EXPIRED => 0x0A00
  | .PC_CAPSULE_OVERRUN => 0x0A01
  | .PC_RING_FULL => 0x0A02
  | .FW_STAGE_FAIL => 0x0B00
  | .SHIFT_DEFERRED => 0x0B01
  | .SHIFT_CHANGE => 0x0B02
  | .SHIFT_ROLLBACK => 0x0B03
  | .COMPONENT_RESTART => 0x0B04
  | .COMPONENT_FAILED => 0x0B05
  | .CORE_SAMPLE => 0x0B06
  | .WATCHDOG => 0x0B07
  | .RATE_FLOOR_MISS => 0x0C00
  | .CANARY_FAULT => 0x0C01
  | .BRINGUP_STAGE => 0x0C02
  | .PANEL_REPAIR_FAIL => 0x0C03
  | .PROFILE_MISMATCH => 0x0C04
  | .POWER_FAIL => 0x0C05
  | .THERM_THROTTLE => 0x0C06
  | .THERM_TRIP => 0x0C07
  | .PW_STATE_CHANGE => 0x0C08
  | .SC_CMD_FAIL => 0x0D00
  | .LC_CHANGE => 0x0D01
  | .DEBUG_LEVEL => 0x0D02
  | .KEYS_ZEROISED => 0x0D03
  | .SLICE_AUTH_FAIL => 0x0D04
  | .FLASH_BLOCK_RETIRED => 0x0E00
  | .FLASH_WORN => 0x0E01

/-- The classes of R457. -/
inductive EvClass
  | info | corrected | fenced | jobFatal | moduleFatal
deriving DecidableEq, Repr

/-- The number of a class in an event record (R456). -/
def classNumber : EvClass → Nat
  | .info => 0 | .corrected => 1 | .fenced => 2 | .jobFatal => 3 | .moduleFatal => 4

end Sys2Proof.Machine
end

