-- ==== Sys2Proof/Machine/Formats.lean ====
section
/-! DEFINITION. Number formats and arithmetic (chapter 02, R31 to R50): encodings, roundings, conversions, the IEEE operations
of the stitch cores, stochastic-rounding bits, and the one-rounding group sum of R63. Every value is exact until its rounding. -/

namespace Sys2Proof.Machine

/-- The eight sticky flags in the order of ARITH bits [11:4] (R40): NV, DZ, OF, UF, NX, FZ, SAT, QCONST. -/
abbrev Flags := BitVec 8
def flagNV : Flags := 0x01#8
def flagDZ : Flags := 0x02#8
def flagOF : Flags := 0x04#8
def flagUF : Flags := 0x08#8
def flagNX : Flags := 0x10#8
def flagFZ : Flags := 0x20#8
def flagSAT : Flags := 0x40#8
def flagQCONST : Flags := 0x80#8
/-- A flag raised when the condition holds. -/
def flagIf (c : Bool) (f : Flags) : Flags := if c then f else 0#8

/-- The ten formats, in the order of the format codes of R139. -/
inductive Fmt
  | b32 | b16 | g16 | g8a | g8b | g6 | g4 | i32 | i8 | i4
deriving DecidableEq, Repr, Inhabited

/-- The format of a code of R139; codes 10 to 15 are unassigned. -/
def Fmt.ofCode : Nat → Option Fmt
  | 0 => some .b32 | 1 => some .b16 | 2 => some .g16 | 3 => some .g8a | 4 => some .g8b
  | 5 => some .g6 | 6 => some .g4 | 7 => some .i32 | 8 => some .i8 | 9 => some .i4
  | _ => none

/-- Bits of one element (R31, R35). -/
def Fmt.width : Fmt → Nat
  | .b32 => 32 | .b16 => 16 | .g16 => 16 | .g8a => 8 | .g8b => 8 | .g6 => 6 | .g4 => 4 | .i32 => 32 | .i8 => 8 | .i4 => 4
/-- Fraction bits of a float format (R31). -/
def Fmt.frac : Fmt → Nat
  | .b32 => 23 | .b16 => 10 | .g16 => 7 | .g8a => 3 | .g8b => 2 | .g6 => 2 | .g4 => 1 | _ => 0
/-- Exponent bits of a float format (R31). -/
def Fmt.expBits : Fmt → Nat
  | .b32 => 8 | .b16 => 5 | .g16 => 8 | .g8a => 4 | .g8b => 5 | .g6 => 3 | .g4 => 2 | _ => 0
/-- Exponent bias of a float format (R31). -/
def Fmt.bias : Fmt → Nat
  | .b32 => 127 | .b16 => 15 | .g16 => 127 | .g8a => 7 | .g8b => 15 | .g6 => 3 | .g4 => 1 | _ => 0
/-- The code of the largest finite magnitude (R31). -/
def Fmt.maxCode : Fmt → Nat
  | .b32 => 0x7F7FFFFF | .b16 => 0x7BFF | .g16 => 0x7F7F | .g8a => 0x7E | .g8b => 0x7B | .g6 => 0x1F | .g4 => 0x7 | _ => 0
/-- The code of positive infinity's place: all exponent bits set, fraction zero. -/
def Fmt.topCode (f : Fmt) : Nat := (2 ^ f.expBits - 1) * 2 ^ f.frac
/-- The canonical NaN (R31). -/
def Fmt.nanCode : Fmt → Nat
  | .b32 => 0x7FC00000 | .b16 => 0x7E00 | .g16 => 0x7FC0 | .g8a => 0x7F | .g8b => 0x7E | _ => 0
/-- Whether the format is a two's-complement integer (R35). -/
def Fmt.isInt : Fmt → Bool
  | .i32 | .i8 | .i4 => true | _ => false
/-- Whether the format has infinities and payload NaNs (R31). -/
def Fmt.hasInf : Fmt → Bool
  | .b32 | .b16 | .g16 | .g8b => true | _ => false
/-- Whether SUBOUT governs the format's subnormal results (R43). -/
def Fmt.underSubout : Fmt → Bool
  | .g16 | .g8a | .g8b | .g6 | .g4 => true | _ => false
/-- Whether a vector register holds the format one element per lane (R139). -/
def Fmt.isLane : Fmt → Bool
  | .b32 | .b16 | .i32 => true | _ => false

/-- An exact value. A NaN carries its sign and its fraction left-aligned in 23 bits; a number is ±m × 2^e, its zero signed. -/
inductive Val
  | nan (neg : Bool) (frac : Nat)
  | inf (neg : Bool)
  | fin (neg : Bool) (m : Nat) (e : Int)
deriving DecidableEq, Repr, Inhabited

/-- The value of a code (R31, R32, R35). A G8a NaN is quiet with a zero payload (R46). -/
def valOf (f : Fmt) (c : Nat) : Val :=
  if f.isInt then
    let v := signedOf f.width c
    .fin (v < 0) v.natAbs 0
  else
    let p := f.frac
    let fr := bitsOf c 0 p
    let ex := bitsOf c p f.expBits
    let neg := bitOf c (p + f.expBits)
    if f = .g8a && bitsOf c 0 7 = 0x7F then .nan neg 0x400000
    else if f.hasInf && ex = 2 ^ f.expBits - 1 then
      (if fr = 0 then .inf neg else .nan neg (fr <<< (23 - p)))
    else if ex = 0 then .fin neg fr (1 - (f.bias : Int) - p)
    else .fin neg (2 ^ p + fr) ((ex : Int) - f.bias - p)

/-- A rounding (R44): a directed or nearest mode, or the stochastic rounding of R47 with its 24 bits. -/
inductive Rm
  | rne | rz | ru | rd
  | sr (q : Nat)
deriving DecidableEq, Repr, Inhabited

/-- The rounding mode of ARITH.RM. -/
def Rm.ofCode : Nat → Rm
  | 0 => .rne | 1 => .rz | 2 => .ru | _ => .rd

/-- Whether a magnitude truncated to `lo` with remainder `rem` of 2^sh (and bits below if `sticky`) rounds up, and whether
the rounding is inexact: a stochastic rounding whose d is 0 still sets NX where the value is not held exactly (R45, R47). -/
def roundsUp (rm : Rm) (neg : Bool) (lo rem sh : Nat) (sticky : Bool) : Bool × Bool :=
  let inexact := decide (rem ≠ 0) || sticky
  match rm with
  | .rne => (decide (2 * rem > 2 ^ sh) || (decide (2 * rem = 2 ^ sh) && (sticky || decide (lo % 2 = 1))), inexact)
  | .rz => (false, inexact)
  | .ru => (inexact && !neg, inexact)
  | .rd => (inexact && neg, inexact)
  | .sr q =>
    let d := (2 ^ 24 * rem) / 2 ^ sh
    (decide (d + q ≥ 2 ^ 24), inexact)

/-- The magnitude m × 2^e (and a little more if `sticky`) rounded to a whole number of 2^q, and whether that is inexact. -/
def roundTo (rm : Rm) (neg : Bool) (m : Nat) (e q : Int) (sticky : Bool) : Nat × Bool :=
  let dn := (q - e).toNat
  let m' := m <<< (e - q).toNat
  let r := roundsUp rm neg (m' >>> dn) (m' % 2 ^ dn) dn sticky
  (m' >>> dn + b2n r.1, r.2)

/-- Sign bit of a format. -/
def signCode (f : Fmt) (neg : Bool) : Nat := if neg then 2 ^ (f.width - 1) else 0

/-- The result of a magnitude beyond the largest finite one (R45, R47 step 5). -/
def overflowCode (f : Fmt) (rm : Rm) (neg : Bool) : Nat × Flags :=
  if f.hasInf then
    let toMax := match rm with
      | .rz => true | .ru => neg | .rd => !neg | _ => false
    (signCode f neg + (if toMax then f.maxCode else f.topCode), flagOF ||| flagNX)
  else (signCode f neg + f.maxCode, flagOF ||| flagNX ||| flagSAT)

/-- A nonzero magnitude rounded once into a float format (R36, R43, R45, R47): tininess and overflow are judged on the
result rounded with unbounded exponent range. -/
def roundFloat (f : Fmt) (rm : Rm) (flush neg : Bool) (m : Nat) (e : Int) (sticky : Bool) : Nat × Flags :=
  if m = 0 then (signCode f neg, 0#8) else
  let p : Int := f.frac
  let qu : Int := (m.log2 : Int) + e - p
  let qn : Int := 1 - (f.bias : Int) - p
  let ru := (roundTo rm neg m e qu sticky).1
  let maxQ : Int := (f.maxCode >>> f.frac : Nat) - (f.bias : Int) - p
  let maxSig := 2 ^ f.frac + f.maxCode % 2 ^ f.frac
  if decide (maxQ ≤ qu) && decide (maxSig < ru <<< (qu - maxQ).toNat) then overflowCode f rm neg else
  let tiny := decide (qu < qn) && decide (ru < 2 ^ (qn + p - qu).toNat)
  let q := max qu qn
  let r := roundTo rm neg m e q sticky
  if tiny && flush && f.underSubout then (signCode f neg, flagFZ ||| flagUF ||| flagNX)
  else (signCode f neg + ((q - qn).toNat * 2 ^ f.frac + r.1),
        flagIf r.2 flagNX ||| flagIf (tiny && r.2) flagUF)

/-- A magnitude rounded to an integer format (R45): out of range gives the end of the range with NV alone. -/
def roundInt (f : Fmt) (rm : Rm) (neg : Bool) (m : Nat) (e : Int) (sticky : Bool) : Nat × Flags :=
  let w := f.width
  let r := roundTo rm neg m e 0 sticky
  if neg then
    (if r.1 > 2 ^ (w - 1) then (2 ^ (w - 1), flagNV) else (codeOf w (-(r.1 : Int)), flagIf r.2 flagNX))
  else
    (if r.1 ≥ 2 ^ (w - 1) then (2 ^ (w - 1) - 1, flagNV) else (r.1, flagIf r.2 flagNX))

/-- An exact value encoded in a format with one rounding (R45, R46). -/
def encVal (f : Fmt) (rm : Rm) (flush : Bool) (v : Val) : Nat × Flags :=
  match v with
  | .nan neg fr =>
    let snan := flagIf (fr < 0x400000) flagNV
    if f.hasInf then (signCode f neg + f.topCode + (fr >>> (23 - f.frac) ||| 2 ^ (f.frac - 1)), snan)
    else if f = .g8a then (signCode f neg + 0x7F, snan)
    else (0, flagNV)
  | .inf neg =>
    if f.isInt then ((if neg then 2 ^ (f.width - 1) else 2 ^ (f.width - 1) - 1), flagNV)
    else if f.hasInf then (signCode f neg + f.topCode, 0#8)
    else (signCode f neg + f.maxCode, flagSAT)
  | .fin neg m e =>
    if f.isInt then roundInt f rm neg m e false else roundFloat f rm flush neg m e false

/-- A conversion between two formats (R45, R46). Between integer formats it saturates (R45). -/
def convert (src dst : Fmt) (rm : Rm) (flush : Bool) (c : Nat) : Nat × Flags := encVal dst rm flush (valOf src c)

/-- Whether a code is a NaN of its format. -/
def isNan (f : Fmt) (c : Nat) : Bool := match valOf f c with | .nan _ _ => true | _ => false
/-- Whether a code is a signalling NaN of its format (R32). -/
def isSnan (f : Fmt) (c : Nat) : Bool := match valOf f c with | .nan _ fr => fr < 0x400000 | _ => false
/-- Whether a code is an infinity or a NaN. -/
def notFinite (f : Fmt) (c : Nat) : Bool := match valOf f c with | .fin _ _ _ => false | _ => true

/-- The first NaN among operand codes, quietened, with NV when any operand is signalling (R37). -/
def nanResult (f : Fmt) (ops : List Nat) : Option (Nat × Flags) :=
  match ops.find? (isNan f) with
  | none => none
  | some c => some ((encVal f .rne false (valOf f c)).1, flagIf (ops.any (isSnan f)) flagNV)

/-- An exact signed number i × 2^e rounded into a float format; a zero sum takes the sign `zneg`. -/
def roundSum (f : Fmt) (rm : Rm) (i e : Int) (zneg : Bool) : Nat × Flags :=
  if i = 0 then (signCode f zneg, 0#8) else roundFloat f rm false (i < 0) i.natAbs e false

/-- ±m as an integer. -/
def signedMag (neg : Bool) (m : Nat) : Int := if neg then -(m : Int) else m

/-- The exact sum of two numbers, as (integer, exponent). -/
def exactSum (n1 : Bool) (m1 : Nat) (e1 : Int) (n2 : Bool) (m2 : Nat) (e2 : Int) : Int × Int :=
  let e := min e1 e2
  (signedMag n1 (m1 <<< (e1 - e).toNat) + signedMag n2 (m2 <<< (e2 - e).toNat), e)

/-- The sum of two exact values rounded once; opposed infinities are invalid. -/
def addVal (f : Fmt) (rm : Rm) (x y : Val) : Nat × Flags :=
  match x, y with
  | .inf n1, .inf n2 => if n1 = n2 then (signCode f n1 + f.topCode, 0#8) else (f.nanCode, flagNV)
  | .inf n, _ => (signCode f n + f.topCode, 0#8)
  | _, .inf n => (signCode f n + f.topCode, 0#8)
  | .fin n1 m1 e1, .fin n2 m2 e2 =>
    let r := exactSum n1 m1 e1 n2 m2 e2
    let zneg := if m1 = 0 && m2 = 0 && n1 = n2 then n1 else rm = .rd
    roundSum f rm r.1 r.2 zneg
  | _, _ => (f.nanCode, 0#8)

/-- The negation of a value. -/
def negVal : Val → Val
  | .nan n fr => .nan n fr
  | .inf n => .inf (!n)
  | .fin n m e => .fin (!n) m e

/-- The exact product of two values that are not NaN; none for infinity times zero. -/
def mulVal (x y : Val) : Option Val :=
  match x, y with
  | .inf n1, .inf n2 => some (.inf (n1 != n2))
  | .inf n1, .fin n2 m _ => if m = 0 then none else some (.inf (n1 != n2))
  | .fin n1 m _, .inf n2 => if m = 0 then none else some (.inf (n1 != n2))
  | .fin n1 m1 e1, .fin n2 m2 e2 => some (.fin (n1 != n2) (m1 * m2) (e1 + e2))
  | _, _ => none

/-- IEEE addition (R36, R37). -/
def fadd (f : Fmt) (rm : Rm) (a b : Nat) : Nat × Flags :=
  match nanResult f [a, b] with
  | some r => r
  | none => addVal f rm (valOf f a) (valOf f b)

/-- IEEE subtraction. -/
def fsub (f : Fmt) (rm : Rm) (a b : Nat) : Nat × Flags :=
  match nanResult f [a, b] with
  | some r => r
  | none => addVal f rm (valOf f a) (negVal (valOf f b))

/-- IEEE multiplication. -/
def fmul (f : Fmt) (rm : Rm) (a b : Nat) : Nat × Flags :=
  match nanResult f [a, b] with
  | some r => r
  | none =>
    match mulVal (valOf f a) (valOf f b) with
    | none => (f.nanCode, flagNV)
    | some v => encVal f rm false v

/-- IEEE fusedMultiplyAdd a × b + c, NV for infinity times zero in every case (R36). -/
def ffma (f : Fmt) (rm : Rm) (a b c : Nat) : Nat × Flags :=
  let prod := if isNan f a || isNan f b then some (.nan false 0) else mulVal (valOf f a) (valOf f b)
  match nanResult f [a, b, c], prod with
  | some r, none => (r.1, r.2 ||| flagNV)
  | some r, some _ => r
  | none, none => (f.nanCode, flagNV)
  | none, some v => addVal f rm v (valOf f c)

/-- Order of two numbers or infinities: a < b. -/
def ltVal (x y : Val) : Bool :=
  match x, y with
  | .inf n1, .inf n2 => n1 && !n2
  | .inf n, .fin _ _ _ => n
  | .fin _ _ _, .inf n => !n
  | .fin n1 m1 e1, .fin n2 m2 e2 => decide ((exactSum n1 m1 e1 (!n2) m2 e2).1 < 0)
  | _, _ => false

/-- Whether two numbers or infinities are equal; zeros of either sign are. -/
def eqVal (x y : Val) : Bool :=
  match x, y with
  | .inf n1, .inf n2 => n1 = n2
  | .fin n1 m1 e1, .fin n2 m2 e2 => decide ((exactSum n1 m1 e1 (!n2) m2 e2).1 = 0)
  | _, _ => false

/-- IEEE maximum and minimum: a NaN propagates, −0 is below +0 (R36). -/
def fmaxmin (f : Fmt) (isMax : Bool) (a b : Nat) : Nat × Flags :=
  match nanResult f [a, b] with
  | some r => r
  | none =>
    let x := valOf f a
    let y := valOf f b
    let aBelow := ltVal x y || (eqVal x y && bitOf a (f.width - 1))
    ((if aBelow = isMax then b else a), 0#8)

/-- The quotient of two nonzero magnitudes to more than 96 bits, with its exponent and whether bits remain below. -/
def quotient (m1 : Nat) (e1 : Int) (m2 : Nat) (e2 : Int) : Nat × Int × Bool :=
  let k := 128 + m2.log2
  ((m1 <<< k) / m2, e1 - e2 - k, decide ((m1 <<< k) % m2 ≠ 0))

/-- The integer square root by bits: `r` is the root found so far, `i` the bits left. -/
def isqrtGo (n : Nat) : Nat → Nat → Nat
  | 0, r => r
  | i + 1, r => let t := r + 2 ^ i; if t * t ≤ n then isqrtGo n i t else isqrtGo n i r

/-- The integer square root. -/
def isqrt (n : Nat) : Nat := isqrtGo n (n.log2 / 2 + 1) 0

/-- 1 / x (R36: DZ at zero). -/
def frcp (f : Fmt) (rm : Rm) (a : Nat) : Nat × Flags :=
  match nanResult f [a], valOf f a with
  | some r, _ => r
  | none, .inf n => (signCode f n, 0#8)
  | none, .fin n m e =>
    if m = 0 then (signCode f n + f.topCode, flagDZ)
    else let q := quotient 1 0 m e; roundFloat f rm false n q.1 q.2.1 q.2.2
  | none, .nan _ _ => (f.nanCode, 0#8)

/-- 1 / √x (IEEE rSqrt: DZ at a zero of either sign, NV below zero). -/
def frsqrt (f : Fmt) (rm : Rm) (a : Nat) : Nat × Flags :=
  match nanResult f [a], valOf f a with
  | some r, _ => r
  | none, .inf n => if n then (f.nanCode, flagNV) else (0, 0#8)
  | none, .fin n m e =>
    if m = 0 then (signCode f n + f.topCode, flagDZ)
    else if n then (f.nanCode, flagNV)
    else
      let odd := e % 2 = 1
      let m' := if odd then 2 * m else m
      let e' := if odd then e - 1 else e
      let k := 64 + m'.log2
      let r := isqrt (2 ^ (2 * k) / m')
      roundFloat f rm false false r (-(k : Int) - e' / 2) (decide (r * r * m' ≠ 2 ^ (2 * k)))
  | none, .nan _ _ => (f.nanCode, 0#8)

/-- The product of 2^(2^-i) over the set bits of a binary fraction, most significant first, in units of 2^-160; `root` is the
current root of 2 in those units. -/
def exp2Frac : Nat → Nat → Nat → Nat → Nat
  | 0, _, _, acc => acc
  | n + 1, fr, root, acc =>
    let root' := isqrt (root <<< 160)
    exp2Frac n fr root' (if bitOf fr n then (acc * root') >>> 160 else acc)

/-- 2^x (R36). The fraction is computed to 160 bits, past every rounding boundary a binary32 argument can come near. -/
def fexp2 (f : Fmt) (rm : Rm) (a : Nat) : Nat × Flags :=
  match nanResult f [a], valOf f a with
  | some r, _ => r
  | none, .inf n => (if n then 0 else f.topCode, 0#8)
  | none, .nan _ _ => (f.nanCode, 0#8)
  | none, .fin n m e =>
    if m = 0 then roundFloat f rm false false 1 0 false
    else if (m.log2 : Int) + e > 12 then roundFloat f rm false false 1 (if n then -4096 else 4096) true
    else if (m.log2 : Int) + e < -60 then
      (if n then roundFloat f rm false false (2 ^ 160 - 1) (-160) true else roundFloat f rm false false (2 ^ 160) (-160) true)
    else
      let k := (-e).toNat
      let i := signedMag n (m <<< e.toNat)
      let ip := i / (2 ^ k : Nat)
      let fp := (i % (2 ^ k : Nat)).toNat
      roundFloat f rm false false (exp2Frac k fp (2 ^ 161) (2 ^ 160)) (ip - 160) (decide (fp ≠ 0))

/-- The mixing function of R48, modulo 2^64. -/
def weaveMix (x : Nat) : Nat :=
  let x := x ^^^ (x >>> 33)
  let x := (0xA3B195C4E27D6F0B * x) % 2 ^ 64
  let x := x ^^^ (x >>> 29)
  let x := (0x8CB92BA72F3D8DD7 * x) % 2 ^ 64
  x ^^^ (x >>> 32)

/-- The 24 stochastic-rounding bits of one element (R48). -/
def srBits (seed tid index step : Nat) : Nat :=
  let x := weaveMix ((seed % 2 ^ 64) ^^^ (2 ^ 32 * (tid % 2 ^ 32) + step % 2 ^ 32))
  (weaveMix (x ^^^ (index % 2 ^ 64))) >>> 40

/-- The special replacements of a tensor output stage: every NaN canonical (R37), negative zero positive (R38). -/
def tensorFix (f : Fmt) (c : Nat) : Nat :=
  if isNan f c then f.nanCode
  else if !f.isInt && c = 2 ^ (f.width - 1) then 0 else c

/-- A value leaving a tensor output stage: R45, R43, R37, R38 in that order (R49). -/
def tensorOut (src dst : Fmt) (rm : Rm) (flush : Bool) (c : Nat) : Nat × Flags :=
  let r := convert src dst rm flush c
  (tensorFix dst r.1, r.2)

/-- floor(log2) of a nonzero number's magnitude. -/
def magLog : Val → Option Int
  | .fin _ m e => if m = 0 then none else some ((m.log2 : Int) + e)
  | _ => none

/-- The largest magnitude exponent among the terms (Emax of R63). -/
def emaxOf : List Val → Option Int
  | [] => none
  | v :: r =>
    match magLog v, emaxOf r with
    | none, o => o
    | some a, none => some a
    | some a, some b => some (max a b)

/-- A term truncated toward zero to a multiple of 2^q, in units of 2^q (R63 step 3). -/
def windowTerm (q : Int) : Val → Int
  | .fin n m e => signedMag n ((m <<< (e - q).toNat) >>> (q - e).toNat)
  | _ => 0

/-- The group sum of R63 over exact terms; `nv` says that a product was infinity times zero. The result is binary32. -/
def groupSum (terms : List Val) (nv : Bool) : Nat × Flags :=
  let anyNan := terms.any (fun v => match v with | .nan _ _ => true | _ => false)
  let pinf := terms.any (fun v => v = .inf false)
  let ninf := terms.any (fun v => v = .inf true)
  if anyNan || nv || (pinf && ninf) then (Fmt.nanCode .b32, flagIf (nv || (pinf && ninf)) flagNV)
  else if pinf then (0x7F800000, 0#8)
  else if ninf then (0xFF800000, 0#8)
  else
    match emaxOf terms with
    | none => (0, 0#8)
    | some emax =>
      let q := emax - 26
      roundSum .b32 .rne (terms.foldl (fun a v => a + windowTerm q v) 0) q false

/-- The exact product of two operands already widened; `none` marks infinity times zero. A NaN operand gives a NaN term. -/
def productTerm (x y : Val) : Val × Bool :=
  match x, y with
  | .nan n fr, _ => (.nan n fr, false)
  | _, .nan n fr => (.nan n fr, false)
  | _, _ => match mulVal x y with | some v => (v, false) | none => (.nan false 0x400000, true)

/-- The high and low G16 halves of a binary32 code (R70). -/
def splitHalves (c : Nat) : Nat × Nat :=
  match valOf .b32 c with
  | .nan _ _ => ((c >>> 16) ||| 0x40, 0)
  | .inf _ => (c >>> 16, 0)
  | .fin n m e =>
    let hi := c >>> 16
    match valOf .g16 hi with
    | .fin n2 m2 e2 =>
      let r := exactSum n m e (!n2) m2 e2
      (hi, (roundSum .g16 .rne r.1 r.2 false).1)
    | _ => (hi, 0)

end Sys2Proof.Machine
end

