-- ==== Sys2Proof/Machine/SMap.lean ====
section
/-! DEFINITION. A sparse map held in one canonical form: keys strictly rising, no entry equal to what an unlisted key reads as. -/

namespace Sys2Proof

/-- A sparse map from natural numbers: what is not listed reads as a default that the reader names. -/
abbrev SMap (α : Type) := List (Nat × α)

/-- The value at a key; `d` where the key is not listed. -/
def SMap.get {α : Type} (m : SMap α) (d : α) (k : Nat) : α :=
  match m with
  | [] => d
  | e :: r => if e.1 = k then e.2 else SMap.get r d k

/-- Every entry of the key taken out. -/
def SMap.del {α : Type} (m : SMap α) (k : Nat) : SMap α :=
  match m with
  | [] => []
  | e :: r => if e.1 = k then SMap.del r k else e :: SMap.del r k

/-- An entry put before the first larger key. -/
def SMap.ins {α : Type} (m : SMap α) (k : Nat) (v : α) : SMap α :=
  match m with
  | [] => [(k, v)]
  | e :: r => if k < e.1 then (k, v) :: e :: r else e :: SMap.ins r k v

/-- The value at a key replaced; a value equal to the default leaves no entry. -/
def SMap.put {α : Type} [DecidableEq α] (m : SMap α) (d : α) (k : Nat) (v : α) : SMap α :=
  if v = d then SMap.del m k else SMap.ins (SMap.del m k) k v

/-- Every key in [lo, hi) back to the default. -/
def SMap.clear {α : Type} (m : SMap α) (lo hi : Nat) : SMap α :=
  m.filter (fun e => e.1 < lo || hi ≤ e.1)

/-- Every value changed by `f`; values equal to the default leave no entry. -/
def SMap.mapAll {α : Type} [DecidableEq α] (m : SMap α) (d : α) (f : α → α) : SMap α :=
  (m.map (fun e => (e.1, f e.2))).filter (fun e => e.2 ≠ d)

/-- The canonical form, against a default that may depend on the key. -/
abbrev SMap.Wf {α : Type} [DecidableEq α] (m : SMap α) (d : Nat → α) : Prop :=
  m.Pairwise (fun a b => a.1 < b.1) ∧ ∀ e ∈ m, e.2 ≠ d e.1

end Sys2Proof
end

