-- ==== Sys2Proof/Machine/CoreState.lean ====
section
/-! DEFINITION. The state of the panels as plain data: tasks and contexts (R117, R122, R177), array engines (R52, R65), plait
progress (R85), tokens, unit commands, queues, chains, and the banks' hidden state (R213, R220, R227). -/

namespace Sys2Proof.Machine

/-- The register a load returns into (R119, R151). -/
inductive LoadDst
  | s (r : Nat) | v (r : Nat) | t (r : Nat)
deriving DecidableEq, Repr

/-- A load outstanding: its destination, when it issued, its address and size, and the parts of it, each with its address, its
size and whether it passed the ownership check at issue. -/
structure PLoad where
  dst : LoadDst
  born : Nat
  addr : Nat
  size : Nat
  parts : List (Nat × Nat × Bool)
  motif : Nat     -- the motif it left from
  dead : Bool     -- a later instruction has written its register
deriving DecidableEq, Repr

/-- What an issued instruction of the task still waits for. -/
inductive Wait
  | none
  | token (addr n dst : Nat)                      -- WTOK (R171)
  | fence (stores commands : Bool)                -- FENCE (R175)
  | halt (stepEnd : Bool)                         -- HALT, STEPEND (R176)
  | claim (cfg unit : Nat)                        -- MCFG waiting for a claim (R55, R161)
  | array (unit : Nat)                            -- a matrix command waiting for a claim to end (R55)
deriving DecidableEq, Repr

/-- An array claim as a slice records it (R198): unit, config word, pass count and the rows of MA_ROWSTAT. -/
structure SavedClaim where
  unit : Nat
  cfg : Nat
  pass : Nat
  stats : List Word
deriving DecidableEq, Repr

/-- One task: the whole visible state of R117 and R121, its control words, and what the module keeps of it. Registers not
listed read zero (R120). -/
structure Task where
  slot : Nat := 0
  serial : Nat := 0
  parent : Nat := 0xFFFFFFFF
  started : Bool := false
  pc : Word := 0#32
  s : SMap Word := []
  v : SMap Vec := []
  p : SMap Byte := []
  t : SMap Line := []
  priv : SMap Byte := []
  poisonS : SMap Bool := []
  poisonV : SMap Bool := []
  poisonT : SMap Bool := []
  arith : Word := 0#32
  cw : SMap Word := []               -- control words 1 to 8 (R122), by index
  issued : Word := 0#32
  pin : Bool := false
  moves : Nat := 0
  doneEn : Bool := false
  doneTok : Nat := 0                 -- token address incremented at the end
  place : Nat := 0                   -- PLACE of the task record (R173)
  args : List Word := []
  loads : List PLoad := []
  cmds : List Nat := []              -- unit commands issued and not yet complete
  wait : Wait := .none
  update : Bool := false             -- an update task of the sweep (R181)
  request : Option Nat := none       -- request ledger entry served (R206)
  chain : Option (Nat × Nat × Nat) := none -- motif, chain and stage a TASK stage waits on (R178)
  age : Nat := 0                     -- when the record entered its queue (R184)
  startedAt : Nat := 0               -- when the task last took a context (R187)
  saveRec : Option Nat := none       -- record of the slot's save area that it holds (R185)
  claims : List SavedClaim := []     -- claims that a slice recorded and that are made again before it issues (R199)
  firstFZ : Option Nat := none       -- tensor of the first conversion that raised FZ (R41)
  firstQC : Option Nat := none       -- tensor of the first conversion that raised QCONST (R41)
deriving DecidableEq, Repr, Inhabited

/-- A context's STATE (R153). -/
inductive CtxPhase
  | free | ready | running | waitData | waitToken | waitArray | faulted | offline
deriving DecidableEq, Repr, Inhabited

/-- The code of a context's STATE in MT_CTX_STATE (R153). -/
def phaseCode : CtxPhase → Nat
  | .free => 0 | .ready => 1 | .running => 2 | .waitData => 3 | .waitToken => 4 | .waitArray => 5 | .faulted => 6 | .offline => 7

/-- One hardware context: its STATE and the task it holds, by task key. -/
structure Ctx where
  phase : CtxPhase := .free
  task : Option Nat := none
deriving DecidableEq, Repr, Inhabited

/-- One stitch core's state outside its contexts: the lines of its fetch buffer, newest first (R125), and service hours (R467). -/
structure CoreSt where
  fetch : List (Nat × Nat) := []     -- (job slot, line of the code window)
  hours : Nat := 0
  last : Nat := 3                    -- the context that issued last (R118)
deriving DecidableEq, Repr, Inhabited

/-- A posted store (R130): the task and the bytes its issue checks admitted. -/
structure Posted where
  id : Nat
  key : Nat
  motif : Nat     -- the motif it left from
  bytes : List (Nat × Byte)
deriving DecidableEq, Repr

/-- A STOK whose addition waits for the task's stores issued before it (R172). -/
structure PendingAdd where
  key : Nat
  addr : Nat
  n : Nat
  before : Nat
deriving DecidableEq, Repr

/-- What the module keeps of a unit command from issue to completion (R150, R152, R159). -/
structure CmdInfo where
  id : Nat
  key : Nat              -- task key
  ctx : Nat              -- context at issue
  pc : Nat
  w0 : Nat
  w1 : Nat
  token : Option Nat     -- token address when TOK_EN
  tid : Nat              -- destination tensor identifier
  chain : Option (Nat × Nat × Nat) := none -- motif, chain and block × 8 + stage of a chain's stage (R192)
deriving DecidableEq, Repr, Inhabited

/-- A deferred fault that a unit has reported and that is not yet taken (R150). -/
structure Deferred where
  code : Code
  cmd : CmdInfo
  addr : Nat
  detail : Nat
deriving DecidableEq, Repr

/-- What is kept of a task that has ended while commands of it may still report a fault: the context it last held, and the serving
request it ran for (R150, R200). -/
structure Ended where
  ctx : Nat
  request : Option Nat
deriving DecidableEq, Repr

/-- A token (R170): its word and the tasks waiting on it, oldest first (R171). -/
structure Token where
  count : Nat := 0
  err : Bool := false
  sat : Bool := false
  waiters : List Nat := []
deriving DecidableEq, Repr, Inhabited

/-- An array command in an engine's queue or replay log (R56, R74). Views are the descriptors read at issue. -/
inductive MCmd
  | mlds (info : CmdInfo) (desc : Nat) (t : Bool)
  | chunk (reg : Bool)                           -- a tile loaded into a stationary register, not yet active
  | mstr (info : CmdInfo) (desc : Nat) (t : Bool) (c0 : Nat)
  | mswap (info : CmdInfo)
  | mdrn (info : CmdInfo) (desc cmd dscale func : Nat) (flush : Bool)
  | mpass (info : CmdInfo) (n : Nat)
  | mcfg (info : CmdInfo) (cfg : Nat)            -- a claim of the full array renewed by its owner
deriving DecidableEq, Repr

/-- State of an accumulator set (R65). -/
inductive SetPhase
  | empty | accumulating | draining
deriving DecidableEq, Repr, Inhabited

/-- One accumulator set with its footing accumulators and replay log (R65, R74). A cell is keyed column × 32 + row. -/
structure SetSt where
  phase : SetPhase := .empty
  acc : SMap Word := []
  rowChk : SMap Word := []
  colChk : SMap Word := []
  corner : Word := 0#32
  rowEmax : SMap Int := []
  colEmax : SMap Int := []
  ctl : Nat := 0                       -- MA_FOOT_CTL as it stood at the tile's first chunk (R73)
  log : List MCmd := []                -- commands of the tile in issue order, at most 257 kept (R74)
deriving DecidableEq, Repr, Inhabited

/-- The stationary register of an engine (R58): its tile's element codes keyed row × 32 + column, the footing row of each stationary
half (R60), and the load that filled it, for the replay log (R74). A binary32 tile fills both registers. -/
structure Stat where
  cells : SMap Nat := []
  foot : SMap Word := []
  footLo : SMap Word := []
  load : Option MCmd := none
deriving DecidableEq, Repr, Inhabited

/-- Where a drain stands (R66, R75). -/
inductive DrainPhase
  | idle | reading | replaying | selftest
deriving DecidableEq, Repr, Inhabited

/-- One array engine: the whole array in full mode, or one quadrant (R52, R55, R56). -/
structure Engine where
  owner : Option Nat := none          -- key of the owner task
  order : Nat := 0                    -- when the claim was made (R476)
  cfg : Nat := 0
  pass : Nat := 1
  active : Bool := false              -- set MSTR accumulates into
  stat : Bool := false                -- stationary register that is active
  set0 : SetSt := {}
  set1 : SetSt := {}
  s0 : Stat := {}
  s1 : Stat := {}
  queue : List MCmd := []
  loadQueued : Bool := false          -- an MLDS was queued since the claim began (R57)
  logNext : List MCmd := []           -- MPASS commands for the replay log of a tile not yet begun (R74)
  drain : DrainPhase := .idle
  drainCmd : Option MCmd := none
  replays : Nat := 0
  oldStats : List Word := []          -- MA_ROWSTAT before the drain, for a replay (R69, R75)
  lastStatus : Nat := 3               -- STATUS of MCHK (R165)
  lastReplays : Nat := 0
  ending : Bool := false              -- its task has gone with an aborted step; the claim ends once its commands are done (R201)
deriving DecidableEq, Repr, Inhabited

/-- What one array keeps beside its engines: SUSPECT, drains since the last mismatch, completed drains (R75, R76). -/
structure ArraySt where
  suspect : Bool := false
  cleanTiles : Nat := 0
  tiles : BitVec 64 := 0#64
deriving DecidableEq, Repr, Inhabited

/-- A command waiting at or running in a motif's XFER engine (R160): its destination and source descriptors. -/
structure XCmd where
  info : CmdInfo
  dst : Nat
  src : Nat
  subout : Bool
deriving DecidableEq, Repr

/-- One chain (R178): its descriptor and weight descriptors read at issue, the stages started and complete as block × 8 + stage,
what the units reported of them (0 ended, 1 ended with ERR, otherwise a fault code), those re-run once, and the DETAIL of the fault
that stopped it (R179). -/
structure Chain where
  info : CmdInfo
  stages : Nat
  blocks : Nat
  flush : Bool
  recs : List Line                    -- three lines per stage: control, source, destination
  weights : List Line                 -- WDESC of each stage
  started : List Nat := []
  landed : List (Nat × Nat) := []
  err : Bool := false
  done : List Nat := []
  rerun : List Nat := []
  failed : List Nat := []
  stopped : Option Nat := none
  todo : List MCmd := []              -- commands of an MTILE stage that the array queue had no room for (R160, R192)
deriving DecidableEq, Repr

/-- Up to eight elements of a reduction on a plait link (R89): entry, first element, values, age. -/
structure Flit where
  entry : Nat
  base : Nat
  vals : List Word
  age : Nat
deriving DecidableEq, Repr

/-- A contribution on its way to its leaf (R85): entry, POSITION and POS_SELF, first element, values, its type, its sender. -/
structure Contribution where
  id : Nat
  entry : Nat
  position : Nat
  posSelf : Bool
  offset : Nat
  i32 : Bool
  vals : List Word
  motif : Nat
  slot : Nat
  info : Option CmdInfo
  failed : Bool
deriving DecidableEq, Repr

/-- Result elements that a collective returned and that wait to be written at DEST: the first one's place at DEST, its index in the
reduction, and the values (R94, R99). -/
structure Returned where
  base : Nat
  index : Nat
  vals : List Word
deriving DecidableEq, Repr

/-- A plait entry's progress since it opened. -/
structure PlaitSt where
  exits : List Nat := []              -- panels whose module joins its sum may leave through (R81)
  next : SMap Nat := []               -- next expected offset by position (R85)
  out : List Flit := []               -- flits that have left the tree and wait for the output stage
  taken : Nat := 0                    -- fall-back elements contributed (R92)
  sums : Option Nat := none           -- the task that sums the fall-back partials (R93)
  groups : Nat := 0                   -- groups of eight elements summed on the fall-back path
  written : Nat := 0                  -- elements written at DEST
  sent : SMap Word := []              -- elements handed to the collective (R94)
  gone : SMap Nat := []               -- how many of them, by block
  back : List Returned := []          -- results returned and not yet written
  returned : Nat := 0                 -- returned elements written at DEST
  lanes : SMap Word := []             -- lane totals of TAP_LOCAL (R99)
  reduced : SMap Word := []           -- returned values by index in the reduction, for TAP_REDUCED (R99)
deriving DecidableEq, Repr, Inhabited

/-- A march test running on a bank (R227 to R229). -/
structure March where
  alg : Nat
  bg : Nat
  preserve : Bool
  repair : Bool
  lines : List Nat                    -- lines still to test, preserving mode
  fails : Nat
  first : Nat
  live : Bool                         -- a live repair request (R226)
deriving DecidableEq, Repr

/-- An agent that accesses a bank (R214): an owner kind and identity, or one outside ownership. -/
inductive Agent
  | owner (kind ident : Nat)
  | outside
deriving DecidableEq, Repr

/-- An access that passed the ownership check, held at its bank's port (R216 order 3, R220): when it arrived, the input it came by, and the
handshake it arrived in, numbered among the held ones (R212). -/
structure HeldAccess where
  addr : Nat
  size : Nat
  data : Option (List Byte)
  born : Nat
  input : Nat
  batch : Nat
deriving DecidableEq, Repr

/-- A bank's state that its registers do not show. -/
structure BankSt where
  fill : Nat := 0                     -- what unlisted bytes and words hold: 0 zeros, 3 poison markers, 4 + k undefined since free value k
  goal : Option Nat := none           -- target of the transition that runs
  held : List HeldAccess := []
  since : Nat := 0                    -- age below which accesses were admitted before the handover that runs (R216)
  sinceT : Nat := 0                   -- the same of the power transition that runs (R220)
  priority : List Nat := []           -- lines posted to the scrub engine (R213)
  ceRuns : SMap Nat := []             -- corrections of a line since a clean pass (R226)
  scrubRead : Option Nat := none      -- line whose scrub write-back is due (R225)
  march : Option March := none
  repairs : List Nat := []            -- live repairs asked for while a test ran (R226)
  bad : Nat := 0                      -- spares that failed a test, a bit each (R230)
  lastScrub : Bool := false           -- the last background grant went to scrub (R212)
deriving DecidableEq, Repr, Inhabited

end Sys2Proof.Machine
end

