-- ==== Sys2Proof/Machine/RegTable.lean ====
section
/-! DEFINITION. The register space of R28 as a table, generated from the register tables of the chapters: for each register its
place, its strides, its reset value and which bits each access code of R6 governs. Bits in none of the masks are RO or WO. -/

namespace Sys2Proof.Machine

/-- One register of the manual's tables, with the strides at which it repeats. `clamps` are the fields (lowest bit, width, least
value, greatest value) whose writes are held to a range; `ignores` are the fields (lowest bit, width, value) for which a write of
that value keeps the old one. -/
structure RegRow where
  name : String
  base : Nat
  dims : List (Nat × Nat)
  reset : Nat
  rw : Nat
  w1c : Nat
  w1s : Nat
  rc : Nat
  clamps : List (Nat × Nat × Nat × Nat)
  ignores : List (Nat × Nat × Nat)
deriving DecidableEq, Repr

/-- Registers of the tables, part 0. -/
def regRows0 : List RegRow := [
  ⟨"HF_USEC_LO", 0x0, [(0x20000, 2)], 0x0, 0x0, 0x0, 0x0, 0x0, [], []⟩,
  ⟨"HF_USEC_HI", 0x4, [(0x20000, 2)], 0x0, 0x0, 0x0, 0x0, 0x0, [], []⟩,
  ⟨"HF_BRIDGE", 0x100, [(0x20000, 2), (0x4, 32)], 0x0, 0x0, 0x0, 0x0, 0xFFFF0000, [], []⟩,
  ⟨"HF_BG", 0x400, [], 0x0, 0x0, 0x0, 0x0, 0xFFFFFFFF, [], []⟩,
  ⟨"HF_BG_SHADOW", 0x404, [], 0x0, 0x0, 0x0, 0x0, 0xFFFF, [], []⟩,
  ⟨"HF_LD_CFG", 0x800, [], 0x3, 0x7, 0x0, 0x0, 0x0, [], []⟩,
  ⟨"HF_LD_SCRUB", 0x804, [], 0x94000, 0x1FFFFF, 0x0, 0x0, 0x0, [(0, 16, 1, 65535)], []⟩,
  ⟨"HF_LD_STATE", 0x808, [], 0x0, 0x0, 0x0, 0x0, 0x0, [], []⟩,
  ⟨"HF_LD_CAL", 0x80C, [], 0x7D0, 0x7FFF, 0x0, 0x0, 0x0, [(0, 15, 1, 30000)], []⟩,
  ⟨"HF_DEEP_WIN_OFF_LO", 0x900, [(0x20, 64)], 0x0, 0xFFFFFFFF, 0x0, 0x0, 0x0, [], []⟩,
  ⟨"HF_DEEP_WIN_OFF_HI", 0x904, [(0x20, 64)], 0x0, 0x7FFFFF, 0x0, 0x0, 0x0, [], []⟩,
  ⟨"HF_DEEP_WIN_SIZE_LO", 0x908, [(0x20, 64)], 0x0, 0xFFFFFFFF, 0x0, 0x0, 0x0, [], []⟩,
  ⟨"HF_DEEP_WIN_SIZE_HI", 0x90C, [(0x20, 64)], 0x0, 0x7FFFFF, 0x0, 0x0, 0x0, [], []⟩,
  ⟨"HF_DEEP_WIN_BUS_LO", 0x910, [(0x20, 64)], 0x0, 0xFFFFFFFF, 0x0, 0x0, 0x0, [], []⟩,
  ⟨"HF_DEEP_WIN_BUS_HI", 0x914, [(0x20, 64)], 0x0, 0xFFFFFFFF, 0x0, 0x0, 0x0, [], []⟩,
  ⟨"HF_DEEP_WIN_CTL", 0x918, [(0x20, 64)], 0x0, 0x1FF, 0x0, 0x0, 0x0, [], []⟩,
  ⟨"HF_DEEP_WIN_COUNT", 0x91C, [(0x20, 64)], 0x0, 0x0, 0x0, 0x0, 0xFFFF, [], []⟩,
  ⟨"HF_TAG_IN_USE", 0x1100, [(0x20000, 2)], 0x0, 0x0, 0x0, 0x0, 0x0, [], []⟩,
  ⟨"HF_TAG_HIGH", 0x1104, [(0x20000, 2)], 0x0, 0x0, 0x0, 0x0, 0x1FFFF, [], []⟩,
  ⟨"HF_TAG_STALLS", 0x1108, [(0x20000, 2)], 0x0, 0x0, 0x0, 0x0, 0xFFFFFFFF, [], []⟩,
  ⟨"HF_TAG_RESERVE", 0x110C, [(0x20000, 2)], 0x1000, 0x1FFFF, 0x0, 0x0, 0x0, [], []⟩,
  ⟨"HF_TAG_QUOTA", 0x1200, [(0x20000, 2), (0x4, 64)], 0x10000, 0x1FFFF, 0x0, 0x0, 0x0, [], []⟩,
  ⟨"HF_GFT_CFG", 0x2000, [], 0xEC231, 0x1FFFFF, 0x0, 0x0, 0x0, [], []⟩,
  ⟨"HF_GFT_TIMER", 0x2004, [], 0x40A028, 0x7FFFFF, 0x0, 0x0, 0x0, [(0, 10, 1, 1023), (10, 4, 1, 15), (14, 4, 1, 15), (18, 5, 1, 31)], []⟩,
  ⟨"HF_GFT_PRIO", 0x2008, [], 0x14977, 0x3FFFF, 0x0, 0x0, 0x0, [], []⟩,
  ⟨"HF_GFT_RETX", 0x2010, [(0x20000, 2)], 0x0, 0x0, 0x0, 0x0, 0xFFFFFFFF, [], []⟩,
  ⟨"HF_GFT_DUP", 0x2014, [(0x20000, 2)], 0x0, 0x0, 0x0, 0x0, 0xFFFFFFFF, [], []⟩,
  ⟨"HF_GFT_EPOCH", 0x2018, [(0x20000, 2)], 0x0, 0x0, 0x0, 0x0, 0xFFFFFFFF, [], []⟩,
  ⟨"HF_GFT_BAD", 0x201C, [(0x20000, 2)], 0x0, 0x0, 0x0, 0x0, 0xFFFFFFFF, [], []⟩,
  ⟨"HF_GFT_SRC", 0x2020, [(0x20000, 2)], 0x0, 0x0, 0x0, 0x0, 0xFFFFFFFF, [], []⟩]

/-- Registers of the tables, part 1. -/
def regRows1 : List RegRow := [
  ⟨"HF_GFT_CONN", 0x2024, [(0x20000, 2)], 0x0, 0x0, 0x0, 0x0, 0x0, [], []⟩,
  ⟨"HF_GROUP_ID", 0x2100, [(0x20, 64)], 0x0, 0xFFFFFFFF, 0x0, 0x0, 0x0, [], []⟩,
  ⟨"HF_GROUP_MODULE", 0x2104, [(0x20, 64)], 0x0, 0x1FFFF, 0x0, 0x0, 0x0, [], []⟩,
  ⟨"HF_GROUP_EPOCH", 0x2108, [(0x20, 64)], 0x0, 0x0, 0x0, 0x0, 0x0, [], []⟩,
  ⟨"HF_GROUP_PEER_LO", 0x210C, [(0x20, 64)], 0x0, 0xFFFFFFFF, 0x0, 0x0, 0x0, [], []⟩,
  ⟨"HF_GROUP_PEER_HI", 0x2110, [(0x20, 64)], 0x0, 0xFFFFFF, 0x0, 0x0, 0x0, [], []⟩,
  ⟨"HF_GROUP_WAIT", 0x2114, [(0x20, 64)], 0x3C, 0xFFFF, 0x0, 0x0, 0x0, [(0, 16, 1, 65535)], []⟩,
  ⟨"HF_GROUP_LOST", 0x2118, [(0x20, 64)], 0x0, 0x0, 0x0, 0x0, 0x0, [], []⟩,
  ⟨"HF_COLL_SEL", 0x3000, [], 0x0, 0x3FF, 0x1000, 0xC00, 0x0, [], []⟩,
  ⟨"HF_COLL_DATA", 0x3020, [(0x4, 8)], 0x0, 0xFFFFFFFF, 0x0, 0x0, 0x0, [], []⟩,
  ⟨"HF_FW_CTL", 0x4000, [], 0xA10, 0xFF14, 0x0, 0xB, 0x0, [(8, 8, 1, 255)], []⟩,
  ⟨"HF_FW_STATE", 0x4004, [], 0x0, 0x0, 0x0, 0x0, 0x0, [], []⟩,
  ⟨"HF_FW_STATUS", 0x4008, [], 0x0, 0x0, 0x3F, 0x0, 0x0, [], []⟩,
  ⟨"HF_FW_RUN", 0x400C, [], 0x0, 0x0, 0x0, 0x0, 0x0, [], []⟩,
  ⟨"HF_FW_STAGED", 0x4010, [], 0x0, 0x0, 0x0, 0x0, 0x0, [], []⟩,
  ⟨"HF_FW_SRC_LO", 0x4014, [], 0x0, 0xFFFFFFFF, 0x0, 0x0, 0x0, [], []⟩,
  ⟨"HF_FW_SRC_HI", 0x4018, [], 0x0, 0xFFFFFFFF, 0x0, 0x0, 0x0, [], []⟩,
  ⟨"HF_FW_SRC_LEN", 0x401C, [], 0x0, 0x3FFFFF, 0x0, 0x0, 0x0, [], []⟩,
  ⟨"HF_FW_COUNT", 0x4020, [], 0x0, 0x0, 0x0, 0x0, 0xFFFFFFFF, [], []⟩,
  ⟨"HF_FW_PAUSE", 0x4024, [], 0x0, 0x0, 0x0, 0x0, 0x0, [], []⟩,
  ⟨"HF_CS_SEL", 0x4040, [], 0x0, 0x7FFF, 0x0, 0x0, 0x0, [], []⟩,
  ⟨"HF_FLASH_WEAR", 0x4200, [], 0x0, 0x0, 0x0, 0x0, 0x0, [], []⟩,
  ⟨"HF_FLASH_ERASES", 0x4204, [], 0x0, 0x0, 0x0, 0x0, 0x0, [], []⟩,
  ⟨"HF_CS_WIN", 0x5000, [(0x4, 1024)], 0x0, 0x0, 0x0, 0x0, 0x0, [], []⟩,
  ⟨"HF_BRINGUP", 0x6000, [], 0x0, 0x0, 0x0, 0x0, 0x0, [], []⟩,
  ⟨"HF_BRINGUP_USEC", 0x6004, [(0x4, 6)], 0x0, 0x0, 0x0, 0x0, 0x0, [], []⟩,
  ⟨"HF_STRAP", 0x6040, [], 0x0, 0x0, 0x0, 0x0, 0x0, [], []⟩,
  ⟨"PC_BOOT", 0x40000, [], 0x1, 0x0, 0x0, 0x0, 0x0, [], []⟩,
  ⟨"PC_LEASE", 0x50000, [(0x1000, 16)], 0x41F4, 0x3FFF, 0x0, 0x0, 0x0, [(0, 14, 100, 16383)], []⟩,
  ⟨"PC_JOB_MASK_LO", 0x50004, [(0x1000, 16)], 0x0, 0xFFFFFFFF, 0x0, 0x0, 0x0, [], []⟩]

/-- Registers of the tables, part 2. -/
def regRows2 : List RegRow := [
  ⟨"PC_JOB_MASK_HI", 0x50008, [(0x1000, 16)], 0x0, 0xFFFFFFFF, 0x0, 0x0, 0x0, [], []⟩,
  ⟨"PC_RSLOTS", 0x5000C, [(0x1000, 16)], 0x0, 0x1FFFF, 0x0, 0x0, 0x0, [], []⟩,
  ⟨"PC_BANKWIN", 0x50010, [(0x1000, 16)], 0x0, 0xF, 0x0, 0x0, 0x0, [], []⟩,
  ⟨"PC_EXT_OFF_LO", 0x50014, [(0x1000, 16)], 0x0, 0xFFFFFFFF, 0x0, 0x0, 0x0, [], []⟩,
  ⟨"PC_EXT_OFF_HI", 0x50018, [(0x1000, 16)], 0x0, 0xFFFFFFFF, 0x0, 0x0, 0x0, [], []⟩,
  ⟨"PC_EXT_BASE_LO", 0x5001C, [(0x1000, 16)], 0x0, 0xFFFFFFFF, 0x0, 0x0, 0x0, [], []⟩,
  ⟨"PC_EXT_BASE_HI", 0x50020, [(0x1000, 16)], 0x0, 0xFFFFFFFF, 0x0, 0x0, 0x0, [], []⟩,
  ⟨"PC_EXT_LIMIT_LO", 0x50024, [(0x1000, 16)], 0x0, 0xFFFFFFFF, 0x0, 0x0, 0x0, [], []⟩,
  ⟨"PC_EXT_LIMIT_HI", 0x50028, [(0x1000, 16)], 0x0, 0xFFFFFFFF, 0x0, 0x0, 0x0, [], []⟩,
  ⟨"PC_EV_VECTOR", 0x5002C, [(0x1000, 16)], 0x0, 0x7F, 0x0, 0x0, 0x0, [], []⟩,
  ⟨"PC_STATUS", 0x50030, [(0x1000, 16)], 0x0, 0x0, 0x7, 0x0, 0x0, [], []⟩,
  ⟨"PC_LOST_RECORDS", 0x50034, [(0x1000, 16)], 0x0, 0x0, 0x0, 0x0, 0xFFFFFFFF, [], []⟩,
  ⟨"PC_COUNTS", 0x50038, [(0x1000, 16)], 0x0, 0x0, 0x0, 0x0, 0xFFFFFFFF, [], []⟩,
  ⟨"PC_QUEUE_CREDITS", 0x50100, [(0x1000, 16), (0x10, 16)], 0x100, 0x0, 0x0, 0x0, 0x0, [], []⟩,
  ⟨"PC_QUEUE_SEQ", 0x50104, [(0x1000, 16), (0x10, 16)], 0x0, 0x0, 0x0, 0x0, 0x0, [], []⟩,
  ⟨"PC_QUEUE_COUNT", 0x50108, [(0x1000, 16), (0x10, 16)], 0x0, 0x0, 0x0, 0x0, 0xFFFFFFFF, [], []⟩,
  ⟨"PC_RING_BASE_LO", 0x50200, [(0x1000, 16), (0x20, 16)], 0x0, 0xFFFFFFFF, 0x0, 0x0, 0x0, [], []⟩,
  ⟨"PC_RING_BASE_HI", 0x50204, [(0x1000, 16), (0x20, 16)], 0x0, 0xFFFFFFFF, 0x0, 0x0, 0x0, [], []⟩,
  ⟨"PC_RING_CFG", 0x50208, [(0x1000, 16), (0x20, 16)], 0x8, 0x1FFF, 0x0, 0x0, 0x0, [], []⟩,
  ⟨"PC_RING_PTR", 0x5020C, [(0x1000, 16), (0x20, 16)], 0x0, 0xFFFF, 0x0, 0x0, 0x0, [], []⟩,
  ⟨"PC_RING_MOD", 0x50210, [(0x1000, 16), (0x20, 16)], 0x1, 0xFFFFFF, 0x0, 0x0, 0x0, [(0, 8, 1, 255)], []⟩,
  ⟨"SC_LC", 0x80000, [], 0x0, 0x0, 0x0, 0x0, 0x0, [], []⟩,
  ⟨"SC_DEBUG", 0x80004, [], 0x0, 0x3, 0x0, 0x0, 0x0, [], []⟩,
  ⟨"SC_ID_DIGEST", 0x80020, [(0x4, 8)], 0x0, 0x0, 0x0, 0x0, 0x0, [], []⟩,
  ⟨"SC_IDPUB", 0x80040, [(0x4, 16)], 0x0, 0x0, 0x0, 0x0, 0x0, [], []⟩,
  ⟨"SC_NONCE", 0x80080, [(0x4, 8)], 0x0, 0x0, 0x0, 0x0, 0x0, [], []⟩,
  ⟨"SC_CTL", 0x800A0, [], 0xFFFF0000, 0xFFFF0000, 0x0, 0x7, 0x0, [], []⟩,
  ⟨"SC_STATUS", 0x800A4, [], 0x0, 0x0, 0x3C, 0x0, 0x0, [], []⟩,
  ⟨"SC_MEAS", 0x80100, [(0x20, 16), (0x4, 8)], 0x0, 0x0, 0x0, 0x0, 0x0, [], []⟩,
  ⟨"SC_EXT_VALUE", 0x80300, [(0x4, 8)], 0x0, 0x0, 0x0, 0x0, 0x0, [], []⟩]

/-- Registers of the tables, part 3. -/
def regRows3 : List RegRow := [
  ⟨"SC_EXT_INDEX", 0x80320, [], 0x0, 0x0, 0x0, 0x0, 0x0, [], []⟩,
  ⟨"SC_PWR_HIST", 0x80380, [(0x4, 8)], 0x0, 0x0, 0x0, 0x0, 0x0, [], []⟩,
  ⟨"SC_CMD", 0x80400, [(0x4, 64)], 0x0, 0x0, 0x0, 0x0, 0x0, [], []⟩,
  ⟨"SC_QUOTE", 0x80800, [(0x4, 184)], 0x0, 0x0, 0x0, 0x0, 0x0, [], []⟩,
  ⟨"PW_TARGET", 0xA0000, [], 0x2BC, 0xFFFF, 0x0, 0x0, 0x0, [], []⟩,
  ⟨"PW_STATUS", 0xA0004, [], 0x0, 0x0, 0x1F, 0x0, 0x0, [], []⟩,
  ⟨"PW_POWER", 0xA0008, [], 0x2080000, 0x0, 0x0, 0x0, 0x0, [], []⟩,
  ⟨"PW_PANEL", 0xA0010, [(0x10, 4)], 0x0, 0x0, 0x0, 0x0, 0x0, [], []⟩,
  ⟨"PW_STATE", 0xA0100, [], 0x0, 0xFF, 0x10000, 0x0, 0x0, [], []⟩,
  ⟨"PW_INPUT", 0xA0200, [], 0x0, 0x0, 0x0, 0x0, 0x0, [], []⟩,
  ⟨"PW_ALERT", 0xA0204, [], 0x0, 0x0, 0x3F, 0x0, 0x0, [], []⟩,
  ⟨"PW_ALERT_EN", 0xA0208, [], 0x3F, 0x3F, 0x0, 0x0, 0x0, [], []⟩,
  ⟨"PW_LAST_OFF", 0xA020C, [], 0x0, 0x0, 0x0, 0x0, 0x0, [], []⟩,
  ⟨"PW_THERM", 0xA0210, [], 0x5F00, 0xFF00, 0x0, 0x0, 0x0, [(8, 8, 0, 99)], []⟩,
  ⟨"PW_FAN", 0xA0214, [], 0x3264, 0x7F80, 0x0, 0x0, 0x0, [], []⟩,
  ⟨"CN_GROUND_RATE", 0xE0000, [(0x8, 160)], 0x0, 0x0, 0x0, 0x0, 0x0, [], []⟩,
  ⟨"CN_GROUND_MIN", 0xE0004, [(0x8, 160)], 0xFFFF, 0x0, 0x0, 0x0, 0xFFFF, [], []⟩,
  ⟨"CN_HF_TEMP_N", 0xE1000, [], 0x0, 0x0, 0x0, 0x0, 0x0, [], []⟩,
  ⟨"CN_HF_TEMP_S", 0xE1004, [], 0x0, 0x0, 0x0, 0x0, 0x0, [], []⟩,
  ⟨"CN_ENERGY_LO", 0xE1008, [], 0x0, 0x0, 0x0, 0x0, 0x0, [], []⟩,
  ⟨"CN_ENERGY_HI", 0xE100C, [], 0x0, 0x0, 0x0, 0x0, 0x0, [], []⟩,
  ⟨"MM_CTL", 0x100000, [], 0x1, 0x3, 0x0, 0x0, 0x0, [], []⟩,
  ⟨"MM_MAC_LO", 0x100004, [], 0x0, 0x0, 0x0, 0x0, 0x0, [], []⟩,
  ⟨"MM_MAC_HI", 0x100008, [], 0x0, 0x0, 0x0, 0x0, 0x0, [], []⟩,
  ⟨"MM_PLCA", 0x10000C, [], 0x80002001, 0xFFFFFFFF, 0x0, 0x0, 0x0, [], []⟩,
  ⟨"MM_STATE", 0x100010, [], 0x0, 0x0, 0x0, 0x0, 0x0, [], []⟩,
  ⟨"MM_STATUS", 0x100014, [], 0x0, 0x0, 0x1F, 0x0, 0x0, [], []⟩,
  ⟨"MM_MCAST_LO", 0x100020, [(0x8, 4)], 0x0, 0xFFFFFFFF, 0x0, 0x0, 0x0, [], []⟩,
  ⟨"MM_MCAST_HI", 0x100024, [(0x8, 4)], 0x0, 0x1FFFF, 0x0, 0x0, 0x0, [], []⟩,
  ⟨"MM_STAT", 0x100100, [(0x4, 10)], 0x0, 0x0, 0x0, 0x0, 0xFFFFFFFF, [], []⟩]

/-- Registers of the tables, part 4. -/
def regRows4 : List RegRow := [
  ⟨"MM_WAKE_CTL", 0x100200, [], 0x1, 0x1, 0x0, 0x0, 0x0, [], []⟩,
  ⟨"MM_WAKE_CODE", 0x100204, [], 0x0, 0xFFFFFFFF, 0x0, 0x0, 0x0, [], []⟩,
  ⟨"MM_WAKE_COUNT", 0x100208, [], 0x0, 0x0, 0x0, 0x0, 0xFFFFFFFF, [], []⟩,
  ⟨"MM_WAKE_IGNORED", 0x10020C, [], 0x0, 0x0, 0x0, 0x0, 0xFFFF, [], []⟩,
  ⟨"FM_CTL", 0x110000, [(0x2000, 8)], 0xFC00, 0xFF3F, 0x0, 0x0, 0x0, [], [(4, 2, 3)]⟩,
  ⟨"FM_LANE", 0x110004, [(0x2000, 8)], 0xE4, 0xFFFF, 0x0, 0x0, 0x0, [], []⟩,
  ⟨"FM_FRAME", 0x110008, [(0x2000, 8)], 0x102400, 0xFF3FFF, 0x0, 0x0, 0x0, [], []⟩,
  ⟨"FM_LINK", 0x11000C, [(0x2000, 8)], 0x0, 0x0, 0x0, 0x0, 0x0, [], []⟩,
  ⟨"FM_STATUS", 0x110010, [(0x2000, 8)], 0x0, 0x0, 0xFFFF07, 0x0, 0x0, [], []⟩,
  ⟨"FM_MAC_LO", 0x110014, [(0x2000, 8)], 0x0, 0xFFFFFFFF, 0x0, 0x0, 0x0, [], []⟩,
  ⟨"FM_MAC_HI", 0x110018, [(0x2000, 8)], 0x0, 0xFFFF, 0x0, 0x0, 0x0, [], []⟩,
  ⟨"FM_PFC", 0x110020, [(0x2000, 8)], 0x8000FFFF, 0xFFFFFFFF, 0x0, 0x0, 0x0, [(16, 16, 1, 65535)], []⟩,
  ⟨"FM_WD", 0x110024, [(0x2000, 8)], 0x6407D0, 0x1FFFFFFF, 0x0, 0x0, 0x0, [(16, 12, 1, 4095)], []⟩,
  ⟨"FM_TX_SCHED", 0x110028, [(0x2000, 8)], 0x111111, 0xFFFFFF, 0x0, 0x0, 0x0, [(0, 4, 1, 15), (4, 4, 1, 15), (8, 4, 1, 15), (12, 4, 1, 15), (16, 4, 1, 15), (20, 4, 1, 15)], []⟩,
  ⟨"FM_RXQ_A", 0x110040, [(0x2000, 8), (0x8, 8)], 0x180000, 0xFFFFFF, 0x0, 0x0, 0x0, [], []⟩,
  ⟨"FM_RXQ_B", 0x110044, [(0x2000, 8), (0x8, 8)], 0x140, 0xFFF, 0x0, 0x0, 0x0, [], []⟩,
  ⟨"FM_TX_OCTETS_LO", 0x110100, [(0x2000, 8)], 0x0, 0x0, 0x0, 0x0, 0xFFFFFFFF, [], []⟩,
  ⟨"FM_TX_OCTETS_HI", 0x110104, [(0x2000, 8)], 0x0, 0x0, 0x0, 0x0, 0xFFFFFFFF, [], []⟩,
  ⟨"FM_RX_OCTETS_LO", 0x110108, [(0x2000, 8)], 0x0, 0x0, 0x0, 0x0, 0xFFFFFFFF, [], []⟩,
  ⟨"FM_RX_OCTETS_HI", 0x11010C, [(0x2000, 8)], 0x0, 0x0, 0x0, 0x0, 0xFFFFFFFF, [], []⟩,
  ⟨"FM_TX_FRAMES_LO", 0x110110, [(0x2000, 8)], 0x0, 0x0, 0x0, 0x0, 0xFFFFFFFF, [], []⟩,
  ⟨"FM_TX_FRAMES_HI", 0x110114, [(0x2000, 8)], 0x0, 0x0, 0x0, 0x0, 0xFFFFFFFF, [], []⟩,
  ⟨"FM_RX_FRAMES_LO", 0x110118, [(0x2000, 8)], 0x0, 0x0, 0x0, 0x0, 0xFFFFFFFF, [], []⟩,
  ⟨"FM_RX_FRAMES_HI", 0x11011C, [(0x2000, 8)], 0x0, 0x0, 0x0, 0x0, 0xFFFFFFFF, [], []⟩,
  ⟨"FM_FEC_CORR", 0x110120, [(0x2000, 8)], 0x0, 0x0, 0x0, 0x0, 0xFFFFFFFF, [], []⟩,
  ⟨"FM_FEC_UNCORR", 0x110124, [(0x2000, 8)], 0x0, 0x0, 0x0, 0x0, 0xFFFFFFFF, [], []⟩,
  ⟨"FM_RX_FCS_ERR", 0x110128, [(0x2000, 8)], 0x0, 0x0, 0x0, 0x0, 0xFFFFFFFF, [], []⟩,
  ⟨"FM_RX_LEN_ERR", 0x11012C, [(0x2000, 8)], 0x0, 0x0, 0x0, 0x0, 0xFFFFFFFF, [], []⟩,
  ⟨"FM_RX_DROP_LOSSY", 0x110130, [(0x2000, 8)], 0x0, 0x0, 0x0, 0x0, 0xFFFFFFFF, [], []⟩,
  ⟨"FM_RX_DROP_WD", 0x110134, [(0x2000, 8)], 0x0, 0x0, 0x0, 0x0, 0xFFFFFFFF, [], []⟩]

/-- Registers of the tables, part 5. -/
def regRows5 : List RegRow := [
  ⟨"FM_RX_FILTERED", 0x110138, [(0x2000, 8)], 0x0, 0x0, 0x0, 0x0, 0xFFFFFFFF, [], []⟩,
  ⟨"FM_RX_EXC_DROP", 0x11013C, [(0x2000, 8)], 0x0, 0x0, 0x0, 0x0, 0xFFFFFFFF, [], []⟩,
  ⟨"FM_TX_PFC", 0x110140, [(0x2000, 8), (0x4, 8)], 0x0, 0x0, 0x0, 0x0, 0xFFFFFFFF, [], []⟩,
  ⟨"FM_RX_PFC", 0x110160, [(0x2000, 8), (0x4, 8)], 0x0, 0x0, 0x0, 0x0, 0xFFFFFFFF, [], []⟩,
  ⟨"FM_RX_GLOBAL_PAUSE", 0x110180, [(0x2000, 8)], 0x0, 0x0, 0x0, 0x0, 0xFFFFFFFF, [], []⟩,
  ⟨"LD_CH_STATE", 0x120000, [(0x1000, 96)], 0x0, 0x0, 0x0, 0x0, 0x0, [], []⟩,
  ⟨"LD_STATUS", 0x120004, [(0x1000, 96)], 0x0, 0x0, 0x1F, 0x0, 0x0, [], []⟩,
  ⟨"LD_ECC_COUNT", 0x120008, [(0x1000, 96)], 0x0, 0x0, 0x0, 0x0, 0xFFFFFFFF, [], []⟩,
  ⟨"LD_LINK_COUNT", 0x12000C, [(0x1000, 96)], 0x0, 0x0, 0x0, 0x0, 0xFFFFFFFF, [], []⟩,
  ⟨"LD_LAST_ERR", 0x120010, [(0x1000, 96)], 0x0, 0x0, 0x0, 0x0, 0x0, [], []⟩,
  ⟨"LD_LAST_SYM", 0x120014, [(0x1000, 96)], 0x0, 0x0, 0x0, 0x0, 0x0, [], []⟩,
  ⟨"LD_SCRUB_POS", 0x120018, [(0x1000, 96)], 0x0, 0x0, 0x0, 0x0, 0x0, [], []⟩,
  ⟨"LD_SCRUB_COUNT", 0x12001C, [(0x1000, 96)], 0x0, 0x0, 0x0, 0x0, 0xFFFFFFFF, [], []⟩,
  ⟨"LD_CAL_ARB", 0x120F00, [(0x1000, 96)], 0x0, 0x0, 0x0, 0x0, 0xFFFFFFFF, [], []⟩,
  ⟨"EM_TSEL", 0x180000, [], 0x0, 0xFFF, 0x4000, 0x3000, 0x0, [], []⟩,
  ⟨"EM_PUBLISH", 0x180010, [], 0x0, 0xFFF, 0x0, 0x1000, 0x0, [], []⟩,
  ⟨"EM_GEN", 0x180020, [], 0x10000, 0x0, 0x0, 0x0, 0x0, [], []⟩,
  ⟨"EM_HAUL", 0x180030, [], 0x64610, 0xFFFFFFF, 0x0, 0x0, 0x0, [(0, 8, 1, 255), (12, 16, 1, 65535)], []⟩,
  ⟨"EM_HAUL_BUDGET", 0x180034, [], 0x10000, 0xFFFFF, 0x0, 0x0, 0x0, [], []⟩,
  ⟨"EM_SKEW", 0x180038, [], 0x818, 0xFFFF, 0x0, 0x0, 0x0, [], []⟩,
  ⟨"EM_HAUL_MOVES", 0x180040, [], 0x0, 0x0, 0x0, 0x0, 0xFFFFFFFF, [], []⟩,
  ⟨"EM_HAUL_FULL", 0x180044, [], 0x0, 0x0, 0x0, 0x0, 0xFFFFFFFF, [], []⟩,
  ⟨"EM_HAUL_LOST", 0x180048, [], 0x0, 0x0, 0x0, 0x0, 0xFFFFFFFF, [], []⟩,
  ⟨"EM_SHSEL", 0x180050, [], 0x0, 0x3FFFF, 0x0, 0x0, 0x0, [], []⟩,
  ⟨"EM_SHCOUNT", 0x180054, [], 0x0, 0x0, 0x0, 0x0, 0x0, [], []⟩,
  ⟨"EM_JOB_PIN", 0x181000, [(0x20, 64)], 0x0, 0x0, 0x0, 0x0, 0x0, [], []⟩,
  ⟨"EM_JOB_COAL_LO", 0x181004, [(0x20, 64)], 0x0, 0xFFFFFFFF, 0x0, 0x0, 0x0, [], []⟩,
  ⟨"EM_JOB_COAL_HI", 0x181008, [(0x20, 64)], 0x0, 0xFFFFFF, 0x0, 0x0, 0x0, [], []⟩,
  ⟨"EM_JOB_COAL_RECORDS", 0x18100C, [(0x20, 64)], 0x0, 0xFFFFFFFF, 0x0, 0x0, 0x0, [], []⟩]

/-- Registers of the tables, part 6. -/
def regRows6 : List RegRow := [
  ⟨"EM_JOB_COAL_USED", 0x181010, [(0x20, 64)], 0x0, 0x0, 0x0, 0x0, 0x0, [], []⟩,
  ⟨"HS_QUEUE", 0x200000, [(0x1000, 64)], 0x0, 0x0, 0x0, 0x0, 0x0, [], []⟩,
  ⟨"HS_FACE_BANKS", 0x200004, [(0x1000, 64)], 0x0, 0x0, 0x0, 0x0, 0x0, [], []⟩,
  ⟨"HS_FACE_FREE", 0x200008, [(0x1000, 64)], 0x0, 0x0, 0x0, 0x0, 0x0, [], []⟩,
  ⟨"HS_LOOKUPS", 0x200010, [(0x1000, 64)], 0x0, 0x0, 0x0, 0x0, 0xFFFFFFFF, [], []⟩,
  ⟨"HS_FACE_READS", 0x200014, [(0x1000, 64)], 0x0, 0x0, 0x0, 0x0, 0xFFFFFFFF, [], []⟩,
  ⟨"HS_LEVEL_READS", 0x200018, [(0x1000, 64)], 0x0, 0x0, 0x0, 0x0, 0xFFFFFFFF, [], []⟩,
  ⟨"HS_DEEP_READS", 0x20001C, [(0x1000, 64)], 0x0, 0x0, 0x0, 0x0, 0xFFFFFFFF, [], []⟩,
  ⟨"HS_REMOTE", 0x200020, [(0x1000, 64)], 0x0, 0x0, 0x0, 0x0, 0xFFFFFFFF, [], []⟩,
  ⟨"HS_COAL_STORED", 0x200024, [(0x1000, 64)], 0x0, 0x0, 0x0, 0x0, 0xFFFFFFFF, [], []⟩,
  ⟨"HS_HELD", 0x200028, [(0x1000, 64)], 0x0, 0x0, 0x0, 0x0, 0xFFFFFFFF, [], []⟩,
  ⟨"PS_CTL", 0x240000, [(0x10000, 4)], 0x0, 0x1FF, 0x0, 0x0, 0x0, [(0, 3, 0, 4)], []⟩,
  ⟨"PS_RING_LO", 0x240004, [(0x10000, 4)], 0x0, 0xFFFFFFFF, 0x0, 0x0, 0x0, [], []⟩,
  ⟨"PS_RING_HI", 0x240008, [(0x10000, 4)], 0x0, 0xFFFFFF, 0x0, 0x0, 0x0, [], []⟩,
  ⟨"PS_RING_SLOTS", 0x24000C, [(0x10000, 4)], 0x0, 0xFF, 0x0, 0x0, 0x0, [], []⟩,
  ⟨"PS_CREDITS", 0x240010, [(0x10000, 4)], 0x1000, 0x1FFF, 0x0, 0x0, 0x0, [], []⟩,
  ⟨"PS_STATE", 0x240014, [(0x10000, 4)], 0x0, 0x0, 0x0, 0x0, 0x0, [], []⟩,
  ⟨"PS_STAGED", 0x240018, [(0x10000, 4)], 0x0, 0x0, 0x0, 0x0, 0x0, [], []⟩,
  ⟨"PS_WASTE", 0x24001C, [(0x10000, 4)], 0x0, 0x0, 0x0, 0x0, 0xFFFFFFFF, [], []⟩,
  ⟨"PS_SKIPS", 0x240020, [(0x10000, 4)], 0x0, 0x0, 0x0, 0x0, 0xFFFFFFFF, [], []⟩,
  ⟨"PS_STATUS", 0x240024, [(0x10000, 4)], 0x0, 0x0, 0x1, 0x0, 0x0, [], []⟩,
  ⟨"PS_RET", 0x240028, [(0x10000, 4)], 0x2, 0x7, 0x0, 0x0, 0xFFFF0000, [(0, 3, 1, 4)], []⟩,
  ⟨"UP_JOB_CTL", 0x280000, [(0x80, 64)], 0x3E80120, 0xFFFFFFFF, 0x0, 0x0, 0x0, [(5, 3, 1, 4), (8, 8, 1, 255), (16, 16, 1, 65535)], []⟩,
  ⟨"UP_JOB_DIGEST", 0x280004, [(0x80, 64)], 0x100040, 0x7FFFFFF, 0x0, 0x0, 0x0, [(0, 16, 1, 65535)], []⟩,
  ⟨"UP_JOB_PARAM_LO", 0x280008, [(0x80, 64)], 0x0, 0xFFFFFFFF, 0x0, 0x0, 0x0, [], []⟩,
  ⟨"UP_JOB_PARAM_HI", 0x28000C, [(0x80, 64)], 0x0, 0xFFFFFF, 0x0, 0x0, 0x0, [], []⟩,
  ⟨"UP_JOB_PARAMS", 0x280010, [(0x80, 64)], 0x0, 0xFFF, 0x0, 0x0, 0x0, [], []⟩,
  ⟨"UP_JOB_STATS_LO", 0x280014, [(0x80, 64)], 0x0, 0xFFFFFFFF, 0x0, 0x0, 0x0, [], []⟩,
  ⟨"UP_JOB_STATS_HI", 0x280018, [(0x80, 64)], 0x0, 0xFFFFFF, 0x0, 0x0, 0x0, [], []⟩,
  ⟨"UP_JOB_STATS_SLOTS", 0x28001C, [(0x80, 64)], 0x0, 0xFF, 0x0, 0x0, 0x0, [], []⟩]

/-- Registers of the tables, part 7. -/
def regRows7 : List RegRow := [
  ⟨"UP_JOB_GROUP", 0x280020, [(0x80, 64)], 0x10000, 0xFFFFFFFF, 0x0, 0x0, 0x0, [], []⟩,
  ⟨"UP_JOB_MODULE", 0x280024, [(0x80, 64)], 0x0, 0x0, 0x0, 0x0, 0x0, [], []⟩,
  ⟨"UP_JOB_B_LOCAL", 0x280028, [(0x80, 64)], 0x0, 0xFFFFFFFF, 0x0, 0x0, 0x0, [], []⟩,
  ⟨"UP_JOB_GRAD_SCALE", 0x28002C, [(0x80, 64)], 0x3F800000, 0xFFFFFFFF, 0x0, 0x0, 0x0, [], []⟩,
  ⟨"UP_JOB_SWEEP_LO", 0x280030, [(0x80, 64)], 0x0, 0x0, 0x0, 0x0, 0x0, [], []⟩,
  ⟨"UP_JOB_SWEEP_HI", 0x280034, [(0x80, 64)], 0x0, 0x0, 0x0, 0x0, 0x0, [], []⟩,
  ⟨"UP_JOB_ROOT", 0x280038, [(0x80, 64), (0x4, 4)], 0x0, 0x0, 0x0, 0x0, 0x0, [], []⟩,
  ⟨"UP_JOB_COMPARES", 0x280048, [(0x80, 64)], 0x0, 0x0, 0x0, 0x0, 0xFFFFFFFF, [], []⟩,
  ⟨"UP_JOB_WAITS", 0x28004C, [(0x80, 64)], 0x0, 0x0, 0x0, 0x0, 0xFFFFFFFF, [], []⟩,
  ⟨"UP_JOB_PF_LO", 0x280050, [(0x80, 64)], 0x0, 0xFFFFFFFF, 0x0, 0x0, 0x0, [], []⟩,
  ⟨"UP_JOB_PF_HI", 0x280054, [(0x80, 64)], 0x0, 0xFFFFFF, 0x0, 0x0, 0x0, [], []⟩,
  ⟨"UP_JOB_PF_COUNT", 0x280058, [(0x80, 64)], 0x0, 0xFFF, 0x0, 0x0, 0x0, [], []⟩,
  ⟨"UP_JOB_MB_LO", 0x28005C, [(0x80, 64)], 0x0, 0xFFFFFFFF, 0x0, 0x0, 0x0, [], []⟩,
  ⟨"UP_JOB_MB_HI", 0x280060, [(0x80, 64)], 0x0, 0xFFFFFF, 0x0, 0x0, 0x0, [], []⟩,
  ⟨"UP_JOB_PF_TOKEN", 0x280064, [(0x80, 64)], 0x0, 0xFFFFFFFF, 0x0, 0x0, 0x0, [], []⟩,
  ⟨"UP_JOB_MB_TOKEN", 0x280068, [(0x80, 64)], 0x0, 0xFFFFFFFF, 0x0, 0x0, 0x0, [], []⟩,
  ⟨"UP_TAP_CTL", 0x282000, [(0x10, 256)], 0xFF, 0xFF, 0x0, 0x0, 0x0, [], []⟩,
  ⟨"UP_TAP_LOCAL", 0x282004, [(0x10, 256)], 0x0, 0x0, 0x0, 0x0, 0x0, [], []⟩,
  ⟨"UP_TAP_REDUCED", 0x282008, [(0x10, 256)], 0x0, 0x0, 0x0, 0x0, 0x0, [], []⟩,
  ⟨"PN_PLAIT_STATE", 0x300100, [(0x40000, 4)], 0x0, 0x0, 0x0, 0x0, 0x0, [], []⟩,
  ⟨"PN_JOBMAP_CTL", 0x310000, [(0x40, 64)], 0x0, 0xFFFFFFF, 0x0, 0x0, 0x0, [], []⟩,
  ⟨"PN_JOBMAP_BANK_BASE", 0x310004, [(0x40, 64)], 0x0, 0xFFFFFFFF, 0x0, 0x0, 0x0, [], []⟩,
  ⟨"PN_JOBMAP_BANK_LIMIT", 0x310008, [(0x40, 64)], 0x0, 0xFFFFFFFF, 0x0, 0x0, 0x0, [], []⟩,
  ⟨"PN_JOBMAP_EXT_BASE_LO", 0x31000C, [(0x40, 64)], 0x0, 0xFFFFFFFF, 0x0, 0x0, 0x0, [], []⟩,
  ⟨"PN_JOBMAP_EXT_BASE_HI", 0x310010, [(0x40, 64)], 0x0, 0x3FF, 0x0, 0x0, 0x0, [], []⟩,
  ⟨"PN_JOBMAP_EXT_LIMIT_LO", 0x310014, [(0x40, 64)], 0x0, 0xFFFFFFFF, 0x0, 0x0, 0x0, [], []⟩,
  ⟨"PN_JOBMAP_EXT_LIMIT_HI", 0x310018, [(0x40, 64)], 0x0, 0x3FF, 0x0, 0x0, 0x0, [], []⟩,
  ⟨"PN_JOBMAP_HOST_BASE_LO", 0x31001C, [(0x40, 64)], 0x0, 0xFFFFFFFF, 0x0, 0x0, 0x0, [], []⟩,
  ⟨"PN_JOBMAP_HOST_BASE_HI", 0x310020, [(0x40, 64)], 0x0, 0xFFFFFF, 0x0, 0x0, 0x0, [], []⟩,
  ⟨"PN_JOBMAP_HOST_LIMIT_LO", 0x310024, [(0x40, 64)], 0x0, 0xFFFFFFFF, 0x0, 0x0, 0x0, [], []⟩]

/-- Registers of the tables, part 8. -/
def regRows8 : List RegRow := [
  ⟨"PN_JOBMAP_HOST_LIMIT_HI", 0x310028, [(0x40, 64)], 0x0, 0xFFFFFF, 0x0, 0x0, 0x0, [], []⟩,
  ⟨"PN_PLAIT_CTL", 0x320000, [(0x80, 256)], 0x0, 0xFFFE8, 0x0, 0x4, 0x0, [], []⟩,
  ⟨"PN_PLAIT_ELEMENTS", 0x320004, [(0x80, 256)], 0x0, 0x1FFFFFF, 0x0, 0x0, 0x0, [], []⟩,
  ⟨"PN_PLAIT_PANEL", 0x320008, [(0x80, 256)], 0xE40, 0xFFF, 0x0, 0x0, 0x0, [], []⟩,
  ⟨"PN_PLAIT_GMASK_LO", 0x32000C, [(0x80, 256)], 0x0, 0xFFFFFFFF, 0x0, 0x0, 0x0, [], []⟩,
  ⟨"PN_PLAIT_GMASK_HI", 0x320010, [(0x80, 256)], 0x0, 0xFF, 0x0, 0x0, 0x0, [], []⟩,
  ⟨"PN_PLAIT_MMASK_LO", 0x320014, [(0x80, 256)], 0x0, 0xFFFFFFFF, 0x0, 0x0, 0x0, [], []⟩,
  ⟨"PN_PLAIT_MMASK_HI", 0x320018, [(0x80, 256)], 0x0, 0xFFFFFFFF, 0x0, 0x0, 0x0, [], []⟩,
  ⟨"PN_PLAIT_DEST_LO", 0x32001C, [(0x80, 256)], 0x0, 0xFFFFFFFF, 0x0, 0x0, 0x0, [], []⟩,
  ⟨"PN_PLAIT_DEST_HI", 0x320020, [(0x80, 256)], 0x0, 0xFFFFFF, 0x0, 0x0, 0x0, [], []⟩,
  ⟨"PN_PLAIT_PARTIAL_LO", 0x320024, [(0x80, 256)], 0x0, 0xFFFFFFFF, 0x0, 0x0, 0x0, [], []⟩,
  ⟨"PN_PLAIT_PARTIAL_HI", 0x320028, [(0x80, 256)], 0x0, 0xFFFFFF, 0x0, 0x0, 0x0, [], []⟩,
  ⟨"PN_PLAIT_TID", 0x32002C, [(0x80, 256)], 0x0, 0xFFFFFFFF, 0x0, 0x0, 0x0, [], []⟩,
  ⟨"PN_PLAIT_COLL", 0x320030, [(0x80, 256)], 0x0, 0xFFFF, 0x0, 0x0, 0x0, [], []⟩,
  ⟨"PN_PLAIT_EPOCH", 0x320034, [(0x80, 256)], 0x0, 0x0, 0x0, 0x0, 0x0, [], []⟩,
  ⟨"PN_PLAIT_TOKEN", 0x320038, [(0x80, 256)], 0x0, 0x3FFFFF, 0x0, 0x0, 0x0, [], []⟩,
  ⟨"PN_PLAIT_FLAGS", 0x32003C, [(0x80, 256)], 0x0, 0x0, 0x1F3F, 0x0, 0x0, [], []⟩,
  ⟨"PN_PLAIT_TAP_LOCAL", 0x320040, [(0x80, 256)], 0x0, 0x0, 0x0, 0x0, 0x0, [], []⟩,
  ⟨"PN_PLAIT_TAP_REDUCED", 0x320044, [(0x80, 256)], 0x0, 0x0, 0x0, 0x0, 0x0, [], []⟩,
  ⟨"PN_PLAIT_DONE", 0x320048, [(0x80, 256)], 0x0, 0x0, 0x0, 0x0, 0x0, [], []⟩,
  ⟨"PN_PLAIT_SOFT", 0x32004C, [(0x80, 256)], 0x0, 0x0, 0x0, 0x0, 0x0, [], []⟩,
  ⟨"PN_JOB_CTL", 0x330000, [(0x80, 64)], 0x6C000, 0x1FFFE3, 0x0, 0x0, 0x0, [], []⟩,
  ⟨"PN_JOB_ARITH", 0x330004, [(0x80, 64)], 0x0, 0xF, 0x0, 0x0, 0x0, [], []⟩,
  ⟨"PN_JOB_FLAGS", 0x330008, [(0x80, 64)], 0x0, 0x0, 0xFF, 0x0, 0x0, [], []⟩,
  ⟨"PN_JOB_SEED_LO", 0x33000C, [(0x80, 64)], 0x0, 0xFFFFFFFF, 0x0, 0x0, 0x0, [], []⟩,
  ⟨"PN_JOB_SEED_HI", 0x330010, [(0x80, 64)], 0x0, 0xFFFFFFFF, 0x0, 0x0, 0x0, [], []⟩,
  ⟨"PN_JOB_STEP_LO", 0x330014, [(0x80, 64)], 0x0, 0xFFFFFFFF, 0x0, 0x0, 0x0, [], []⟩,
  ⟨"PN_JOB_STEP_HI", 0x330018, [(0x80, 64)], 0x0, 0xFFFFFFFF, 0x0, 0x0, 0x0, [], []⟩,
  ⟨"PN_JOB_LIVE", 0x33001C, [(0x80, 64)], 0x0, 0x0, 0x0, 0x0, 0x0, [], []⟩,
  ⟨"PN_JOB_STEPEND", 0x330020, [(0x80, 64)], 0x0, 0x0, 0x0, 0x0, 0x0, [], []⟩]

/-- Registers of the tables, part 9. -/
def regRows9 : List RegRow := [
  ⟨"PN_JOB_SAVE_LO", 0x330024, [(0x80, 64)], 0x0, 0xFFFFFFFF, 0x0, 0x0, 0x0, [], []⟩,
  ⟨"PN_JOB_SAVE_HI", 0x330028, [(0x80, 64)], 0x0, 0xFFFFFF, 0x0, 0x0, 0x0, [], []⟩,
  ⟨"PN_JOB_SAVE_SLOTS", 0x33002C, [(0x80, 64)], 0x0, 0xFFFFFF, 0x0, 0x0, 0x0, [], []⟩,
  ⟨"PN_JOB_STEALS", 0x330030, [(0x80, 64)], 0x0, 0x0, 0x0, 0x0, 0xFFFFFFFF, [], []⟩,
  ⟨"PN_JOB_CROSS", 0x330034, [(0x80, 64)], 0x0, 0x0, 0x0, 0x0, 0xFFFFFFFF, [], []⟩,
  ⟨"PN_JOB_YIELDS", 0x330038, [(0x80, 64)], 0x0, 0x0, 0x0, 0x0, 0xFFFFFFFF, [], []⟩,
  ⟨"PN_JOB_REPLAYS", 0x33003C, [(0x80, 64)], 0x0, 0x0, 0x0, 0x0, 0xFFFF0, [], []⟩,
  ⟨"PN_JOB_DRAIN", 0x330040, [(0x80, 64)], 0x32, 0xFFFF, 0x0, 0x0, 0x0, [(0, 16, 1, 65535)], []⟩,
  ⟨"PN_JOB_SLICE_LO", 0x330044, [(0x80, 64)], 0x0, 0xFFFFFFFF, 0x0, 0x0, 0x0, [], []⟩,
  ⟨"PN_JOB_SLICE_HI", 0x330048, [(0x80, 64)], 0x0, 0xFFFFFF, 0x0, 0x0, 0x0, [], []⟩,
  ⟨"PN_JOB_SLICE_SIZE", 0x33004C, [(0x80, 64)], 0x0, 0x3FFFFF, 0x0, 0x0, 0x0, [], []⟩,
  ⟨"PN_JOB_SLICE_FULL", 0x330050, [(0x80, 64)], 0x0, 0x0, 0x0, 0x0, 0xFFFF, [], []⟩,
  ⟨"PN_SCHED_WAIT", 0x332000, [], 0x20007D0, 0xFFFFFFFF, 0x0, 0x0, 0x0, [], []⟩,
  ⟨"PN_SCHED_SLICE", 0x332004, [], 0xC8, 0xFFFF, 0x0, 0x0, 0x0, [], []⟩,
  ⟨"PN_ROT", 0x332008, [], 0xE10, 0xFFFF, 0x0, 0x0, 0x0, [], []⟩,
  ⟨"GD_PLAIT_STATE", 0x400100, [(0x1000, 160)], 0x0, 0x0, 0x0, 0x0, 0x0, [], []⟩,
  ⟨"GD_PLAIT_COUNT", 0x400104, [(0x1000, 160)], 0x0, 0x0, 0x0, 0x0, 0xFFFFFFFF, [], []⟩,
  ⟨"EV_CTL", 0x500000, [], 0x3E8, 0xFFFF, 0x0, 0x0, 0x0, [], []⟩,
  ⟨"EV_STATUS", 0x500004, [], 0x0, 0x0, 0x1, 0x0, 0x0, [], []⟩,
  ⟨"EV_LAST_LO", 0x500008, [], 0x0, 0x0, 0x0, 0x0, 0x0, [], []⟩,
  ⟨"EV_LAST_HI", 0x50000C, [], 0x0, 0x0, 0x0, 0x0, 0x0, [], []⟩,
  ⟨"EV_INFO_DROPPED", 0x500010, [], 0x0, 0x0, 0x0, 0x0, 0xFFFFFFFF, [], []⟩,
  ⟨"EV_WIN", 0x510000, [(0x4, 65536)], 0x0, 0x0, 0x0, 0x0, 0x0, [], []⟩,
  ⟨"MT_SRF_OWNER", 0x800100, [(0x400, 10240), (0x4, 16)], 0x0, 0xFF, 0x0, 0x0, 0x0, [], []⟩,
  ⟨"MT_QNT_BLOCKS", 0x800140, [(0x400, 10240)], 0x0, 0x0, 0x0, 0x0, 0xFFFFFFFF, [], []⟩,
  ⟨"MT_QNT_COUNT", 0x800144, [(0x400, 10240)], 0x0, 0x0, 0x0, 0x0, 0xFFFFFFFF, [], []⟩,
  ⟨"MT_CTX_STATE", 0x800180, [(0x400, 10240), (0x4, 32)], 0x0, 0x0, 0x0, 0x0, 0x0, [], []⟩,
  ⟨"MT_EXC", 0x800200, [(0x400, 10240), (0x4, 8)], 0x0, 0x0, 0x0, 0x0, 0x0, [], []⟩,
  ⟨"MT_EXC_COUNT", 0x800220, [(0x400, 10240)], 0x0, 0x0, 0x0, 0x0, 0xFFFF, [], []⟩,
  ⟨"MT_TOK_OWNER", 0x800240, [(0x400, 10240), (0x4, 8)], 0x0, 0x7F, 0x0, 0x0, 0x0, [], []⟩]

/-- Registers of the tables, part 10. -/
def regRows10 : List RegRow := [
  ⟨"MT_TOK_SEL", 0x800260, [(0x400, 10240)], 0x0, 0xFF, 0x0, 0x0, 0x0, [], []⟩,
  ⟨"MT_TOK_DATA", 0x800264, [(0x400, 10240)], 0x0, 0x0, 0x0, 0x0, 0x0, [], []⟩,
  ⟨"MT_CMD_STATE", 0x800268, [(0x400, 10240)], 0x0, 0x0, 0x0, 0x0, 0x0, [], []⟩,
  ⟨"MT_BG_COUNT", 0x8002A0, [(0x400, 10240)], 0x0, 0x0, 0x0, 0x0, 0xFFFFFFFF, [], []⟩,
  ⟨"MT_SCRUB_CTL", 0x8002A8, [(0x400, 10240)], 0x940, 0xFFF, 0x0, 0x0, 0x0, [(0, 8, 1, 255)], []⟩,
  ⟨"MT_JOBS", 0x8002C0, [(0x400, 10240)], 0x0, 0x7F7F7F7F, 0x0, 0x0, 0x0, [], []⟩,
  ⟨"MT_QUEUE", 0x8002C4, [(0x400, 10240)], 0x0, 0x0, 0x0, 0x0, 0x0, [], []⟩,
  ⟨"MT_CORES_FENCED", 0x8002E0, [(0x400, 10240)], 0x0, 0x0, 0x0, 0x0, 0x0, [], []⟩,
  ⟨"MT_CORES_SPARE", 0x8002E4, [(0x400, 10240)], 0xC0000000, 0x0, 0x0, 0x0, 0x0, [], []⟩,
  ⟨"MT_CORES_ROT", 0x8002E8, [(0x400, 10240)], 0x0, 0x0, 0x0, 0x0, 0xFFFF, [], []⟩,
  ⟨"MA_STATE", 0x1400000, [(0x100, 10240)], 0x80, 0x0, 0x0, 0x0, 0x0, [], []⟩,
  ⟨"MA_FENCE", 0x1400004, [(0x100, 10240)], 0x0, 0x0, 0x0, 0x0, 0x0, [], []⟩,
  ⟨"MA_STATUS", 0x1400008, [(0x100, 10240)], 0x0, 0x0, 0x3F, 0x0, 0x0, [], []⟩,
  ⟨"MA_FOOT_CTL", 0x140000C, [(0x100, 10240)], 0x6A, 0xFF, 0x0, 0x0, 0x0, [(0, 5, 4, 20)], []⟩,
  ⟨"MA_FOOT_COUNT", 0x1400010, [(0x100, 10240)], 0x0, 0x0, 0x0, 0x0, 0xFFFFFFFF, [], []⟩,
  ⟨"MA_REPLAY_COUNT", 0x1400014, [(0x100, 10240)], 0x0, 0x0, 0x0, 0x0, 0xFFFFFFFF, [], []⟩,
  ⟨"MA_LAST_FAIL", 0x1400018, [(0x100, 10240)], 0x0, 0x0, 0x0, 0x0, 0x0, [], []⟩,
  ⟨"MA_TILES_LO", 0x1400020, [(0x100, 10240)], 0x0, 0x0, 0x0, 0x0, 0x0, [], []⟩,
  ⟨"MA_TILES_HI", 0x1400024, [(0x100, 10240)], 0x0, 0x0, 0x0, 0x0, 0x0, [], []⟩,
  ⟨"MA_STALL_LOAD", 0x1400028, [(0x100, 10240)], 0x0, 0x0, 0x0, 0x0, 0xFFFFFFFF, [], []⟩,
  ⟨"MA_STALL_DRAIN", 0x140002C, [(0x100, 10240)], 0x0, 0x0, 0x0, 0x0, 0xFFFFFFFF, [], []⟩,
  ⟨"MA_QSTATE", 0x1400040, [(0x100, 10240), (0x4, 4)], 0x40, 0x0, 0x0, 0x0, 0x0, [], []⟩,
  ⟨"MA_ROWSTAT_MAX", 0x1680000, [(0x100, 10240), (0x8, 32)], 0xFF800000, 0x0, 0x0, 0x0, 0x0, [], []⟩,
  ⟨"MA_ROWSTAT_SUM", 0x1680004, [(0x100, 10240), (0x8, 32)], 0x0, 0x0, 0x0, 0x0, 0x0, [], []⟩,
  ⟨"BK_OWNER", 0x1A00000, [(0x40, 40960)], 0x0, 0x3FF, 0x0, 0x0, 0x0, [], []⟩,
  ⟨"BK_POWER", 0x1A00004, [(0x40, 40960)], 0x40, 0x63, 0x0, 0x0, 0x0, [], []⟩,
  ⟨"BK_STATUS", 0x1A00008, [(0x40, 40960)], 0x0, 0x0, 0x3FF, 0x0, 0x0, [], []⟩,
  ⟨"BK_ECC_COUNT", 0x1A0000C, [(0x40, 40960)], 0x0, 0x0, 0x0, 0x0, 0xFFFFFFFF, [], []⟩,
  ⟨"BK_ACCESS_COUNT", 0x1A00010, [(0x40, 40960)], 0x0, 0x0, 0x0, 0x0, 0xFFFFFFFF, [], []⟩,
  ⟨"BK_LAST_ERR", 0x1A00014, [(0x40, 40960)], 0x0, 0x0, 0x0, 0x0, 0x0, [], []⟩]

/-- Registers of the tables, part 11. -/
def regRows11 : List RegRow := [
  ⟨"BK_REPAIR", 0x1A00018, [(0x40, 40960)], 0x0, 0x0, 0x0, 0x0, 0x0, [], []⟩,
  ⟨"BK_MARCH_CTL", 0x1A0001C, [(0x40, 40960)], 0x25, 0x3F, 0x0, 0x40, 0x0, [], [(0, 2, 3), (2, 2, 3)]⟩,
  ⟨"BK_MARCH_RESULT", 0x1A00020, [(0x40, 40960)], 0x0, 0x0, 0x0, 0x0, 0x0, [], []⟩,
  ⟨"BK_SCRUB_POS", 0x1A00024, [(0x40, 40960)], 0x0, 0x0, 0x0, 0x0, 0x0, [], []⟩]

/-- Registers of the tables: the descriptor image of R250. -/
def regRows12 : List RegRow := [
  ⟨"EM_TDATA_0", 0x180100, [], 0x5400, 0x3FFFFD, 0x0, 0x0, 0x0, [], []⟩,
  ⟨"EM_TDATA_1", 0x180104, [], 0x0, 0x7FF, 0x0, 0x0, 0x0, [], []⟩,
  ⟨"EM_TDATA_2", 0x180108, [], 0x0, 0xFFFFFFFF, 0x0, 0x0, 0x0, [], []⟩,
  ⟨"EM_TDATA_3", 0x18010C, [], 0x0, 0x1FF, 0x0, 0x0, 0x0, [], []⟩,
  ⟨"EM_TDATA_4", 0x180110, [], 0x0, 0xFFFFFFFF, 0x0, 0x0, 0x0, [], []⟩,
  ⟨"EM_TDATA_5", 0x180114, [], 0x0, 0xFFFFFFFF, 0x0, 0x0, 0x0, [], []⟩,
  ⟨"EM_TDATA_6", 0x180118, [], 0x0, 0xFFFFFFFF, 0x0, 0x0, 0x0, [], []⟩,
  ⟨"EM_TDATA_7", 0x18011C, [], 0x0, 0x3FFFF, 0x0, 0x0, 0x0, [], []⟩,
  ⟨"EM_TDATA_8", 0x180120, [], 0x0, 0xFFFFFFFF, 0x0, 0x0, 0x0, [], []⟩,
  ⟨"EM_TDATA_9", 0x180124, [], 0x0, 0xFFFFFF, 0x0, 0x0, 0x0, [], []⟩,
  ⟨"EM_TDATA_10", 0x180128, [], 0x40042080, 0xFFFFFFFF, 0x0, 0x0, 0x0, [], []⟩,
  ⟨"EM_TDATA_11", 0x18012C, [], 0x8, 0xFF, 0x0, 0x0, 0x0, [], []⟩,
  ⟨"EM_TDATA_12", 0x180130, [], 0x0, 0xFFFFFFFF, 0x0, 0x0, 0x0, [], []⟩,
  ⟨"EM_TDATA_13", 0x180134, [], 0x0, 0x3FFFFFF, 0x0, 0x0, 0x0, [], []⟩,
  ⟨"EM_TDATA_14", 0x180138, [], 0x0, 0xFFFFF, 0x0, 0x0, 0x0, [], []⟩,
  ⟨"EM_TDATA_15", 0x18013C, [], 0x0, 0xFFFFFFFF, 0x0, 0x0, 0x0, [], []⟩,
  ⟨"EM_TDATA_16", 0x180140, [], 0x0, 0xFFFFFF, 0x0, 0x0, 0x0, [], []⟩,
  ⟨"EM_TDATA_17", 0x180144, [], 0x0, 0xFFFFFFFF, 0x0, 0x0, 0x0, [], []⟩,
  ⟨"EM_TDATA_18", 0x180148, [], 0x0, 0x0, 0x0, 0x0, 0x0, [], []⟩,
  ⟨"EM_TDATA_19", 0x18014C, [], 0x0, 0xFFFFF, 0x0, 0x0, 0x0, [], []⟩,
  ⟨"EM_TDATA_20", 0x180150, [], 0x0, 0x0, 0x0, 0x0, 0x0, [], []⟩,
  ⟨"EM_TDATA_21", 0x180154, [], 0x0, 0x1FFFF, 0x0, 0x0, 0x0, [], []⟩,
  ⟨"EM_TDATA_22", 0x180158, [], 0x0, 0xFFFFFFFF, 0x0, 0x0, 0x0, [], []⟩,
  ⟨"EM_TDATA_23", 0x18015C, [], 0x0, 0x3FFFFFF, 0x0, 0x0, 0x0, [], []⟩,
  ⟨"EM_TDATA_24", 0x180160, [], 0x0, 0xFFFFF, 0x0, 0x0, 0x0, [], []⟩,
  ⟨"EM_TDATA_25", 0x180164, [], 0x0, 0xFFFFFFFF, 0x0, 0x0, 0x0, [], []⟩,
  ⟨"EM_TDATA_26", 0x180168, [], 0x0, 0xFFFFFF, 0x0, 0x0, 0x0, [], []⟩,
  ⟨"EM_TDATA_27", 0x18016C, [], 0x0, 0xFFFFFFFF, 0x0, 0x0, 0x0, [], []⟩,
  ⟨"EM_TDATA_28", 0x180170, [], 0x0, 0x0, 0x0, 0x0, 0x0, [], []⟩,
  ⟨"EM_TDATA_29", 0x180174, [], 0x0, 0xFFFFF, 0x0, 0x0, 0x0, [], []⟩,
  ⟨"EM_TDATA_30", 0x180178, [], 0x0, 0x0, 0x0, 0x0, 0x0, [], []⟩,
  ⟨"EM_TDATA_31", 0x18017C, [], 0x0, 0x1FFFF, 0x0, 0x0, 0x0, [], []⟩]

/-- Every register of the module. -/
def regRows : List RegRow :=
  regRows0 ++ regRows1 ++ regRows2 ++ regRows3 ++ regRows4 ++ regRows5 ++ regRows6 ++ regRows7 ++ regRows8 ++ regRows9 ++ regRows10 ++ regRows11 ++ regRows12

/-- Whether an offset is a copy of a register at these strides, `d` being its distance from the first copy. -/
def atStrides : List (Nat × Nat) → Nat → Bool
  | [], d => d = 0
  | (s, c) :: r, d => d / s < c && atStrides r (d % s)

/-- The row of a register offset (R28); none where the offset is not assigned. -/
def regRow (a : Nat) : Option RegRow :=
  regRows.find? (fun r => r.base ≤ a && atStrides r.dims (a - r.base))

/-- The value of the word at an offset after reset. FM_RXQ LIMIT_KB resets to 256 for q = 0, 1 and 576 for the others, and the words of
MAC addresses to those of the module's identity. -/
def regReset (a : Nat) : Word :=
  match regRow a with
  | none => 0#32
  | some r =>
    if r.base = 0x110040 then BitVec.ofNat 32 (r.reset + if (a % 0x2000 - 0x40) / 8 < 2 then 256 else 576)
    else if r.base = 0x110014 then BitVec.ofNat 32 (Config.portMac ((a - r.base) / 0x2000))
    else if r.base = 0x110018 then BitVec.ofNat 32 (Config.portMac ((a - r.base) / 0x2000) / 2 ^ 32 % 2 ^ 16)
    else if r.base = 0x100004 then BitVec.ofNat 32 Config.mmMac
    else if r.base = 0x100008 then BitVec.ofNat 32 (Config.mmMac / 2 ^ 32 % 2 ^ 16)
    else BitVec.ofNat 32 r.reset

end Sys2Proof.Machine

/-! The offset of each register, by name. -/
namespace Sys2Proof.Machine.Reg

def HF_USEC_LO (i : Nat) : Nat := 0x0 + 0x20000 * i
def HF_USEC_HI (i : Nat) : Nat := 0x4 + 0x20000 * i
def HF_BRIDGE (i j : Nat) : Nat := 0x100 + 0x20000 * i + 0x4 * j
def HF_BG : Nat := 0x400
def HF_BG_SHADOW : Nat := 0x404
def HF_LD_CFG : Nat := 0x800
def HF_LD_SCRUB : Nat := 0x804
def HF_LD_STATE : Nat := 0x808
def HF_LD_CAL : Nat := 0x80C
def HF_DEEP_WIN_OFF_LO (i : Nat) : Nat := 0x900 + 0x20 * i
def HF_DEEP_WIN_OFF_HI (i : Nat) : Nat := 0x904 + 0x20 * i
def HF_DEEP_WIN_SIZE_LO (i : Nat) : Nat := 0x908 + 0x20 * i
def HF_DEEP_WIN_SIZE_HI (i : Nat) : Nat := 0x90C + 0x20 * i
def HF_DEEP_WIN_BUS_LO (i : Nat) : Nat := 0x910 + 0x20 * i
def HF_DEEP_WIN_BUS_HI (i : Nat) : Nat := 0x914 + 0x20 * i
def HF_DEEP_WIN_CTL (i : Nat) : Nat := 0x918 + 0x20 * i
def HF_DEEP_WIN_COUNT (i : Nat) : Nat := 0x91C + 0x20 * i
def HF_TAG_IN_USE (i : Nat) : Nat := 0x1100 + 0x20000 * i
def HF_TAG_HIGH (i : Nat) : Nat := 0x1104 + 0x20000 * i
def HF_TAG_STALLS (i : Nat) : Nat := 0x1108 + 0x20000 * i
def HF_TAG_RESERVE (i : Nat) : Nat := 0x110C + 0x20000 * i
def HF_TAG_QUOTA (i j : Nat) : Nat := 0x1200 + 0x20000 * i + 0x4 * j
def HF_GFT_CFG : Nat := 0x2000
def HF_GFT_TIMER : Nat := 0x2004
def HF_GFT_PRIO : Nat := 0x2008
def HF_GFT_RETX (i : Nat) : Nat := 0x2010 + 0x20000 * i
def HF_GFT_DUP (i : Nat) : Nat := 0x2014 + 0x20000 * i
def HF_GFT_EPOCH (i : Nat) : Nat := 0x2018 + 0x20000 * i
def HF_GFT_BAD (i : Nat) : Nat := 0x201C + 0x20000 * i
def HF_GFT_SRC (i : Nat) : Nat := 0x2020 + 0x20000 * i
def HF_GFT_CONN (i : Nat) : Nat := 0x2024 + 0x20000 * i
def HF_GROUP_ID (i : Nat) : Nat := 0x2100 + 0x20 * i
def HF_GROUP_MODULE (i : Nat) : Nat := 0x2104 + 0x20 * i
def HF_GROUP_EPOCH (i : Nat) : Nat := 0x2108 + 0x20 * i
def HF_GROUP_PEER_LO (i : Nat) : Nat := 0x210C + 0x20 * i
def HF_GROUP_PEER_HI (i : Nat) : Nat := 0x2110 + 0x20 * i
def HF_GROUP_WAIT (i : Nat) : Nat := 0x2114 + 0x20 * i
def HF_GROUP_LOST (i : Nat) : Nat := 0x2118 + 0x20 * i
def HF_COLL_SEL : Nat := 0x3000
def HF_COLL_DATA (i : Nat) : Nat := 0x3020 + 0x4 * i
def HF_FW_CTL : Nat := 0x4000
def HF_FW_STATE : Nat := 0x4004
def HF_FW_STATUS : Nat := 0x4008
def HF_FW_RUN : Nat := 0x400C
def HF_FW_STAGED : Nat := 0x4010
def HF_FW_SRC_LO : Nat := 0x4014
def HF_FW_SRC_HI : Nat := 0x4018
def HF_FW_SRC_LEN : Nat := 0x401C
def HF_FW_COUNT : Nat := 0x4020
def HF_FW_PAUSE : Nat := 0x4024
def HF_CS_SEL : Nat := 0x4040
def HF_FLASH_WEAR : Nat := 0x4200
def HF_FLASH_ERASES : Nat := 0x4204
def HF_CS_WIN (i : Nat) : Nat := 0x5000 + 0x4 * i
def HF_BRINGUP : Nat := 0x6000
def HF_BRINGUP_USEC (i : Nat) : Nat := 0x6004 + 0x4 * i
def HF_STRAP : Nat := 0x6040
def PC_BOOT : Nat := 0x40000
def PC_LEASE (i : Nat) : Nat := 0x50000 + 0x1000 * i
def PC_JOB_MASK_LO (i : Nat) : Nat := 0x50004 + 0x1000 * i
def PC_JOB_MASK_HI (i : Nat) : Nat := 0x50008 + 0x1000 * i
def PC_RSLOTS (i : Nat) : Nat := 0x5000C + 0x1000 * i
def PC_BANKWIN (i : Nat) : Nat := 0x50010 + 0x1000 * i
def PC_EXT_OFF_LO (i : Nat) : Nat := 0x50014 + 0x1000 * i
def PC_EXT_OFF_HI (i : Nat) : Nat := 0x50018 + 0x1000 * i
def PC_EXT_BASE_LO (i : Nat) : Nat := 0x5001C + 0x1000 * i
def PC_EXT_BASE_HI (i : Nat) : Nat := 0x50020 + 0x1000 * i
def PC_EXT_LIMIT_LO (i : Nat) : Nat := 0x50024 + 0x1000 * i
def PC_EXT_LIMIT_HI (i : Nat) : Nat := 0x50028 + 0x1000 * i
def PC_EV_VECTOR (i : Nat) : Nat := 0x5002C + 0x1000 * i
def PC_STATUS (i : Nat) : Nat := 0x50030 + 0x1000 * i
def PC_LOST_RECORDS (i : Nat) : Nat := 0x50034 + 0x1000 * i
def PC_COUNTS (i : Nat) : Nat := 0x50038 + 0x1000 * i
def PC_QUEUE_CREDITS (i j : Nat) : Nat := 0x50100 + 0x1000 * i + 0x10 * j
def PC_QUEUE_SEQ (i j : Nat) : Nat := 0x50104 + 0x1000 * i + 0x10 * j
def PC_QUEUE_COUNT (i j : Nat) : Nat := 0x50108 + 0x1000 * i + 0x10 * j
def PC_RING_BASE_LO (i j : Nat) : Nat := 0x50200 + 0x1000 * i + 0x20 * j
def PC_RING_BASE_HI (i j : Nat) : Nat := 0x50204 + 0x1000 * i + 0x20 * j
def PC_RING_CFG (i j : Nat) : Nat := 0x50208 + 0x1000 * i + 0x20 * j
def PC_RING_PTR (i j : Nat) : Nat := 0x5020C + 0x1000 * i + 0x20 * j
def PC_RING_MOD (i j : Nat) : Nat := 0x50210 + 0x1000 * i + 0x20 * j
def SC_LC : Nat := 0x80000
def SC_DEBUG : Nat := 0x80004
def SC_ID_DIGEST (i : Nat) : Nat := 0x80020 + 0x4 * i
def SC_IDPUB (i : Nat) : Nat := 0x80040 + 0x4 * i
def SC_NONCE (i : Nat) : Nat := 0x80080 + 0x4 * i
def SC_CTL : Nat := 0x800A0
def SC_STATUS : Nat := 0x800A4
def SC_MEAS (i j : Nat) : Nat := 0x80100 + 0x20 * i + 0x4 * j
def SC_EXT_VALUE (i : Nat) : Nat := 0x80300 + 0x4 * i
def SC_EXT_INDEX : Nat := 0x80320
def SC_PWR_HIST (i : Nat) : Nat := 0x80380 + 0x4 * i
def SC_CMD (i : Nat) : Nat := 0x80400 + 0x4 * i
def SC_QUOTE (i : Nat) : Nat := 0x80800 + 0x4 * i
def PW_TARGET : Nat := 0xA0000
def PW_STATUS : Nat := 0xA0004
def PW_POWER : Nat := 0xA0008
def PW_PANEL (i : Nat) : Nat := 0xA0010 + 0x10 * i
def PW_STATE : Nat := 0xA0100
def PW_INPUT : Nat := 0xA0200
def PW_ALERT : Nat := 0xA0204
def PW_ALERT_EN : Nat := 0xA0208
def PW_LAST_OFF : Nat := 0xA020C
def PW_THERM : Nat := 0xA0210
def PW_FAN : Nat := 0xA0214
def CN_GROUND_RATE (i : Nat) : Nat := 0xE0000 + 0x8 * i
def CN_GROUND_MIN (i : Nat) : Nat := 0xE0004 + 0x8 * i
def CN_HF_TEMP_N : Nat := 0xE1000
def CN_HF_TEMP_S : Nat := 0xE1004
def CN_ENERGY_LO : Nat := 0xE1008
def CN_ENERGY_HI : Nat := 0xE100C
def MM_CTL : Nat := 0x100000
def MM_MAC_LO : Nat := 0x100004
def MM_MAC_HI : Nat := 0x100008
def MM_PLCA : Nat := 0x10000C
def MM_STATE : Nat := 0x100010
def MM_STATUS : Nat := 0x100014
def MM_MCAST_LO (i : Nat) : Nat := 0x100020 + 0x8 * i
def MM_MCAST_HI (i : Nat) : Nat := 0x100024 + 0x8 * i
def MM_STAT (i : Nat) : Nat := 0x100100 + 0x4 * i
def MM_WAKE_CTL : Nat := 0x100200
def MM_WAKE_CODE : Nat := 0x100204
def MM_WAKE_COUNT : Nat := 0x100208
def MM_WAKE_IGNORED : Nat := 0x10020C
def FM_CTL (i : Nat) : Nat := 0x110000 + 0x2000 * i
def FM_LANE (i : Nat) : Nat := 0x110004 + 0x2000 * i
def FM_FRAME (i : Nat) : Nat := 0x110008 + 0x2000 * i
def FM_LINK (i : Nat) : Nat := 0x11000C + 0x2000 * i
def FM_STATUS (i : Nat) : Nat := 0x110010 + 0x2000 * i
def FM_MAC_LO (i : Nat) : Nat := 0x110014 + 0x2000 * i
def FM_MAC_HI (i : Nat) : Nat := 0x110018 + 0x2000 * i
def FM_PFC (i : Nat) : Nat := 0x110020 + 0x2000 * i
def FM_WD (i : Nat) : Nat := 0x110024 + 0x2000 * i
def FM_TX_SCHED (i : Nat) : Nat := 0x110028 + 0x2000 * i
def FM_RXQ_A (i j : Nat) : Nat := 0x110040 + 0x2000 * i + 0x8 * j
def FM_RXQ_B (i j : Nat) : Nat := 0x110044 + 0x2000 * i + 0x8 * j
def FM_TX_OCTETS_LO (i : Nat) : Nat := 0x110100 + 0x2000 * i
def FM_TX_OCTETS_HI (i : Nat) : Nat := 0x110104 + 0x2000 * i
def FM_RX_OCTETS_LO (i : Nat) : Nat := 0x110108 + 0x2000 * i
def FM_RX_OCTETS_HI (i : Nat) : Nat := 0x11010C + 0x2000 * i
def FM_TX_FRAMES_LO (i : Nat) : Nat := 0x110110 + 0x2000 * i
def FM_TX_FRAMES_HI (i : Nat) : Nat := 0x110114 + 0x2000 * i
def FM_RX_FRAMES_LO (i : Nat) : Nat := 0x110118 + 0x2000 * i
def FM_RX_FRAMES_HI (i : Nat) : Nat := 0x11011C + 0x2000 * i
def FM_FEC_CORR (i : Nat) : Nat := 0x110120 + 0x2000 * i
def FM_FEC_UNCORR (i : Nat) : Nat := 0x110124 + 0x2000 * i
def FM_RX_FCS_ERR (i : Nat) : Nat := 0x110128 + 0x2000 * i
def FM_RX_LEN_ERR (i : Nat) : Nat := 0x11012C + 0x2000 * i
def FM_RX_DROP_LOSSY (i : Nat) : Nat := 0x110130 + 0x2000 * i
def FM_RX_DROP_WD (i : Nat) : Nat := 0x110134 + 0x2000 * i
def FM_RX_FILTERED (i : Nat) : Nat := 0x110138 + 0x2000 * i
def FM_RX_EXC_DROP (i : Nat) : Nat := 0x11013C + 0x2000 * i
def FM_TX_PFC (i j : Nat) : Nat := 0x110140 + 0x2000 * i + 0x4 * j
def FM_RX_PFC (i j : Nat) : Nat := 0x110160 + 0x2000 * i + 0x4 * j
def FM_RX_GLOBAL_PAUSE (i : Nat) : Nat := 0x110180 + 0x2000 * i
def LD_CH_STATE (i : Nat) : Nat := 0x120000 + 0x1000 * i
def LD_STATUS (i : Nat) : Nat := 0x120004 + 0x1000 * i
def LD_ECC_COUNT (i : Nat) : Nat := 0x120008 + 0x1000 * i
def LD_LINK_COUNT (i : Nat) : Nat := 0x12000C + 0x1000 * i
def LD_LAST_ERR (i : Nat) : Nat := 0x120010 + 0x1000 * i
def LD_LAST_SYM (i : Nat) : Nat := 0x120014 + 0x1000 * i
def LD_SCRUB_POS (i : Nat) : Nat := 0x120018 + 0x1000 * i
def LD_SCRUB_COUNT (i : Nat) : Nat := 0x12001C + 0x1000 * i
def LD_CAL_ARB (i : Nat) : Nat := 0x120F00 + 0x1000 * i
def EM_TSEL : Nat := 0x180000
def EM_PUBLISH : Nat := 0x180010
def EM_GEN : Nat := 0x180020
def EM_HAUL : Nat := 0x180030
def EM_HAUL_BUDGET : Nat := 0x180034
def EM_SKEW : Nat := 0x180038
def EM_HAUL_MOVES : Nat := 0x180040
def EM_HAUL_FULL : Nat := 0x180044
def EM_HAUL_LOST : Nat := 0x180048
def EM_SHSEL : Nat := 0x180050
def EM_SHCOUNT : Nat := 0x180054
def EM_TDATA (i : Nat) : Nat := 0x180100 + 0x4 * i
def EM_JOB_PIN (i : Nat) : Nat := 0x181000 + 0x20 * i
def EM_JOB_COAL_LO (i : Nat) : Nat := 0x181004 + 0x20 * i
def EM_JOB_COAL_HI (i : Nat) : Nat := 0x181008 + 0x20 * i
def EM_JOB_COAL_RECORDS (i : Nat) : Nat := 0x18100C + 0x20 * i
def EM_JOB_COAL_USED (i : Nat) : Nat := 0x181010 + 0x20 * i
def HS_QUEUE (i : Nat) : Nat := 0x200000 + 0x1000 * i
def HS_FACE_BANKS (i : Nat) : Nat := 0x200004 + 0x1000 * i
def HS_FACE_FREE (i : Nat) : Nat := 0x200008 + 0x1000 * i
def HS_LOOKUPS (i : Nat) : Nat := 0x200010 + 0x1000 * i
def HS_FACE_READS (i : Nat) : Nat := 0x200014 + 0x1000 * i
def HS_LEVEL_READS (i : Nat) : Nat := 0x200018 + 0x1000 * i
def HS_DEEP_READS (i : Nat) : Nat := 0x20001C + 0x1000 * i
def HS_REMOTE (i : Nat) : Nat := 0x200020 + 0x1000 * i
def HS_COAL_STORED (i : Nat) : Nat := 0x200024 + 0x1000 * i
def HS_HELD (i : Nat) : Nat := 0x200028 + 0x1000 * i
def PS_CTL (i : Nat) : Nat := 0x240000 + 0x10000 * i
def PS_RING_LO (i : Nat) : Nat := 0x240004 + 0x10000 * i
def PS_RING_HI (i : Nat) : Nat := 0x240008 + 0x10000 * i
def PS_RING_SLOTS (i : Nat) : Nat := 0x24000C + 0x10000 * i
def PS_CREDITS (i : Nat) : Nat := 0x240010 + 0x10000 * i
def PS_STATE (i : Nat) : Nat := 0x240014 + 0x10000 * i
def PS_STAGED (i : Nat) : Nat := 0x240018 + 0x10000 * i
def PS_WASTE (i : Nat) : Nat := 0x24001C + 0x10000 * i
def PS_SKIPS (i : Nat) : Nat := 0x240020 + 0x10000 * i
def PS_STATUS (i : Nat) : Nat := 0x240024 + 0x10000 * i
def PS_RET (i : Nat) : Nat := 0x240028 + 0x10000 * i
def UP_JOB_CTL (i : Nat) : Nat := 0x280000 + 0x80 * i
def UP_JOB_DIGEST (i : Nat) : Nat := 0x280004 + 0x80 * i
def UP_JOB_PARAM_LO (i : Nat) : Nat := 0x280008 + 0x80 * i
def UP_JOB_PARAM_HI (i : Nat) : Nat := 0x28000C + 0x80 * i
def UP_JOB_PARAMS (i : Nat) : Nat := 0x280010 + 0x80 * i
def UP_JOB_STATS_LO (i : Nat) : Nat := 0x280014 + 0x80 * i
def UP_JOB_STATS_HI (i : Nat) : Nat := 0x280018 + 0x80 * i
def UP_JOB_STATS_SLOTS (i : Nat) : Nat := 0x28001C + 0x80 * i
def UP_JOB_GROUP (i : Nat) : Nat := 0x280020 + 0x80 * i
def UP_JOB_MODULE (i : Nat) : Nat := 0x280024 + 0x80 * i
def UP_JOB_B_LOCAL (i : Nat) : Nat := 0x280028 + 0x80 * i
def UP_JOB_GRAD_SCALE (i : Nat) : Nat := 0x28002C + 0x80 * i
def UP_JOB_SWEEP_LO (i : Nat) : Nat := 0x280030 + 0x80 * i
def UP_JOB_SWEEP_HI (i : Nat) : Nat := 0x280034 + 0x80 * i
def UP_JOB_ROOT (i j : Nat) : Nat := 0x280038 + 0x80 * i + 0x4 * j
def UP_JOB_COMPARES (i : Nat) : Nat := 0x280048 + 0x80 * i
def UP_JOB_WAITS (i : Nat) : Nat := 0x28004C + 0x80 * i
def UP_JOB_PF_LO (i : Nat) : Nat := 0x280050 + 0x80 * i
def UP_JOB_PF_HI (i : Nat) : Nat := 0x280054 + 0x80 * i
def UP_JOB_PF_COUNT (i : Nat) : Nat := 0x280058 + 0x80 * i
def UP_JOB_MB_LO (i : Nat) : Nat := 0x28005C + 0x80 * i
def UP_JOB_MB_HI (i : Nat) : Nat := 0x280060 + 0x80 * i
def UP_JOB_PF_TOKEN (i : Nat) : Nat := 0x280064 + 0x80 * i
def UP_JOB_MB_TOKEN (i : Nat) : Nat := 0x280068 + 0x80 * i
def UP_TAP_CTL (i : Nat) : Nat := 0x282000 + 0x10 * i
def UP_TAP_LOCAL (i : Nat) : Nat := 0x282004 + 0x10 * i
def UP_TAP_REDUCED (i : Nat) : Nat := 0x282008 + 0x10 * i
def PN_PLAIT_STATE (i : Nat) : Nat := 0x300100 + 0x40000 * i
def PN_JOBMAP_CTL (i : Nat) : Nat := 0x310000 + 0x40 * i
def PN_JOBMAP_BANK_BASE (i : Nat) : Nat := 0x310004 + 0x40 * i
def PN_JOBMAP_BANK_LIMIT (i : Nat) : Nat := 0x310008 + 0x40 * i
def PN_JOBMAP_EXT_BASE_LO (i : Nat) : Nat := 0x31000C + 0x40 * i
def PN_JOBMAP_EXT_BASE_HI (i : Nat) : Nat := 0x310010 + 0x40 * i
def PN_JOBMAP_EXT_LIMIT_LO (i : Nat) : Nat := 0x310014 + 0x40 * i
def PN_JOBMAP_EXT_LIMIT_HI (i : Nat) : Nat := 0x310018 + 0x40 * i
def PN_JOBMAP_HOST_BASE_LO (i : Nat) : Nat := 0x31001C + 0x40 * i
def PN_JOBMAP_HOST_BASE_HI (i : Nat) : Nat := 0x310020 + 0x40 * i
def PN_JOBMAP_HOST_LIMIT_LO (i : Nat) : Nat := 0x310024 + 0x40 * i
def PN_JOBMAP_HOST_LIMIT_HI (i : Nat) : Nat := 0x310028 + 0x40 * i
def PN_PLAIT_CTL (i : Nat) : Nat := 0x320000 + 0x80 * i
def PN_PLAIT_ELEMENTS (i : Nat) : Nat := 0x320004 + 0x80 * i
def PN_PLAIT_PANEL (i : Nat) : Nat := 0x320008 + 0x80 * i
def PN_PLAIT_GMASK_LO (i : Nat) : Nat := 0x32000C + 0x80 * i
def PN_PLAIT_GMASK_HI (i : Nat) : Nat := 0x320010 + 0x80 * i
def PN_PLAIT_MMASK_LO (i : Nat) : Nat := 0x320014 + 0x80 * i
def PN_PLAIT_MMASK_HI (i : Nat) : Nat := 0x320018 + 0x80 * i
def PN_PLAIT_DEST_LO (i : Nat) : Nat := 0x32001C + 0x80 * i
def PN_PLAIT_DEST_HI (i : Nat) : Nat := 0x320020 + 0x80 * i
def PN_PLAIT_PARTIAL_LO (i : Nat) : Nat := 0x320024 + 0x80 * i
def PN_PLAIT_PARTIAL_HI (i : Nat) : Nat := 0x320028 + 0x80 * i
def PN_PLAIT_TID (i : Nat) : Nat := 0x32002C + 0x80 * i
def PN_PLAIT_COLL (i : Nat) : Nat := 0x320030 + 0x80 * i
def PN_PLAIT_EPOCH (i : Nat) : Nat := 0x320034 + 0x80 * i
def PN_PLAIT_TOKEN (i : Nat) : Nat := 0x320038 + 0x80 * i
def PN_PLAIT_FLAGS (i : Nat) : Nat := 0x32003C + 0x80 * i
def PN_PLAIT_TAP_LOCAL (i : Nat) : Nat := 0x320040 + 0x80 * i
def PN_PLAIT_TAP_REDUCED (i : Nat) : Nat := 0x320044 + 0x80 * i
def PN_PLAIT_DONE (i : Nat) : Nat := 0x320048 + 0x80 * i
def PN_PLAIT_SOFT (i : Nat) : Nat := 0x32004C + 0x80 * i
def PN_JOB_CTL (i : Nat) : Nat := 0x330000 + 0x80 * i
def PN_JOB_ARITH (i : Nat) : Nat := 0x330004 + 0x80 * i
def PN_JOB_FLAGS (i : Nat) : Nat := 0x330008 + 0x80 * i
def PN_JOB_SEED_LO (i : Nat) : Nat := 0x33000C + 0x80 * i
def PN_JOB_SEED_HI (i : Nat) : Nat := 0x330010 + 0x80 * i
def PN_JOB_STEP_LO (i : Nat) : Nat := 0x330014 + 0x80 * i
def PN_JOB_STEP_HI (i : Nat) : Nat := 0x330018 + 0x80 * i
def PN_JOB_LIVE (i : Nat) : Nat := 0x33001C + 0x80 * i
def PN_JOB_STEPEND (i : Nat) : Nat := 0x330020 + 0x80 * i
def PN_JOB_SAVE_LO (i : Nat) : Nat := 0x330024 + 0x80 * i
def PN_JOB_SAVE_HI (i : Nat) : Nat := 0x330028 + 0x80 * i
def PN_JOB_SAVE_SLOTS (i : Nat) : Nat := 0x33002C + 0x80 * i
def PN_JOB_STEALS (i : Nat) : Nat := 0x330030 + 0x80 * i
def PN_JOB_CROSS (i : Nat) : Nat := 0x330034 + 0x80 * i
def PN_JOB_YIELDS (i : Nat) : Nat := 0x330038 + 0x80 * i
def PN_JOB_REPLAYS (i : Nat) : Nat := 0x33003C + 0x80 * i
def PN_JOB_DRAIN (i : Nat) : Nat := 0x330040 + 0x80 * i
def PN_JOB_SLICE_LO (i : Nat) : Nat := 0x330044 + 0x80 * i
def PN_JOB_SLICE_HI (i : Nat) : Nat := 0x330048 + 0x80 * i
def PN_JOB_SLICE_SIZE (i : Nat) : Nat := 0x33004C + 0x80 * i
def PN_JOB_SLICE_FULL (i : Nat) : Nat := 0x330050 + 0x80 * i
def PN_SCHED_WAIT : Nat := 0x332000
def PN_SCHED_SLICE : Nat := 0x332004
def PN_ROT : Nat := 0x332008
def GD_PLAIT_STATE (i : Nat) : Nat := 0x400100 + 0x1000 * i
def GD_PLAIT_COUNT (i : Nat) : Nat := 0x400104 + 0x1000 * i
def EV_CTL : Nat := 0x500000
def EV_STATUS : Nat := 0x500004
def EV_LAST_LO : Nat := 0x500008
def EV_LAST_HI : Nat := 0x50000C
def EV_INFO_DROPPED : Nat := 0x500010
def EV_WIN (i : Nat) : Nat := 0x510000 + 0x4 * i
def MT_SRF_OWNER (i j : Nat) : Nat := 0x800100 + 0x400 * i + 0x4 * j
def MT_QNT_BLOCKS (i : Nat) : Nat := 0x800140 + 0x400 * i
def MT_QNT_COUNT (i : Nat) : Nat := 0x800144 + 0x400 * i
def MT_CTX_STATE (i j : Nat) : Nat := 0x800180 + 0x400 * i + 0x4 * j
def MT_EXC (i j : Nat) : Nat := 0x800200 + 0x400 * i + 0x4 * j
def MT_EXC_COUNT (i : Nat) : Nat := 0x800220 + 0x400 * i
def MT_TOK_OWNER (i j : Nat) : Nat := 0x800240 + 0x400 * i + 0x4 * j
def MT_TOK_SEL (i : Nat) : Nat := 0x800260 + 0x400 * i
def MT_TOK_DATA (i : Nat) : Nat := 0x800264 + 0x400 * i
def MT_CMD_STATE (i : Nat) : Nat := 0x800268 + 0x400 * i
def MT_BG_COUNT (i : Nat) : Nat := 0x8002A0 + 0x400 * i
def MT_SCRUB_CTL (i : Nat) : Nat := 0x8002A8 + 0x400 * i
def MT_JOBS (i : Nat) : Nat := 0x8002C0 + 0x400 * i
def MT_QUEUE (i : Nat) : Nat := 0x8002C4 + 0x400 * i
def MT_CORES_FENCED (i : Nat) : Nat := 0x8002E0 + 0x400 * i
def MT_CORES_SPARE (i : Nat) : Nat := 0x8002E4 + 0x400 * i
def MT_CORES_ROT (i : Nat) : Nat := 0x8002E8 + 0x400 * i
def MA_STATE (i : Nat) : Nat := 0x1400000 + 0x100 * i
def MA_FENCE (i : Nat) : Nat := 0x1400004 + 0x100 * i
def MA_STATUS (i : Nat) : Nat := 0x1400008 + 0x100 * i
def MA_FOOT_CTL (i : Nat) : Nat := 0x140000C + 0x100 * i
def MA_FOOT_COUNT (i : Nat) : Nat := 0x1400010 + 0x100 * i
def MA_REPLAY_COUNT (i : Nat) : Nat := 0x1400014 + 0x100 * i
def MA_LAST_FAIL (i : Nat) : Nat := 0x1400018 + 0x100 * i
def MA_TILES_LO (i : Nat) : Nat := 0x1400020 + 0x100 * i
def MA_TILES_HI (i : Nat) : Nat := 0x1400024 + 0x100 * i
def MA_STALL_LOAD (i : Nat) : Nat := 0x1400028 + 0x100 * i
def MA_STALL_DRAIN (i : Nat) : Nat := 0x140002C + 0x100 * i
def MA_QSTATE (i j : Nat) : Nat := 0x1400040 + 0x100 * i + 0x4 * j
def MA_ROWSTAT_MAX (i j : Nat) : Nat := 0x1680000 + 0x100 * i + 0x8 * j
def MA_ROWSTAT_SUM (i j : Nat) : Nat := 0x1680004 + 0x100 * i + 0x8 * j
def BK_OWNER (i : Nat) : Nat := 0x1A00000 + 0x40 * i
def BK_POWER (i : Nat) : Nat := 0x1A00004 + 0x40 * i
def BK_STATUS (i : Nat) : Nat := 0x1A00008 + 0x40 * i
def BK_ECC_COUNT (i : Nat) : Nat := 0x1A0000C + 0x40 * i
def BK_ACCESS_COUNT (i : Nat) : Nat := 0x1A00010 + 0x40 * i
def BK_LAST_ERR (i : Nat) : Nat := 0x1A00014 + 0x40 * i
def BK_REPAIR (i : Nat) : Nat := 0x1A00018 + 0x40 * i
def BK_MARCH_CTL (i : Nat) : Nat := 0x1A0001C + 0x40 * i
def BK_MARCH_RESULT (i : Nat) : Nat := 0x1A00020 + 0x40 * i
def BK_SCRUB_POS (i : Nat) : Nat := 0x1A00024 + 0x40 * i

end Sys2Proof.Machine.Reg
end

