-- ==== Sys2Proof/Machine/SysState.lean ====
section
/-! DEFINITION. The state of the module's services as plain data: slices (R197 to R199), OTP and the security block (R402 to R415), log
flash (R386, R443, R472), Icaux (R389 to R401), the management MAC (R358 to R364), power and resets (R421 to R453), and the TAP (R448). -/

namespace Sys2Proof.Machine

/-- What a slice saved (R197, R198): the bytes of the slice area in use, the context records of the save area, the queued records with
their motifs in order, the token windows (motif × 8 + window), the scale windows (motif × 16 + window), the banks, and the tag of R406. -/
structure SliceSt where
  size : Nat
  records : List Nat
  queued : List (Nat × Nat)
  tokens : List Nat
  scales : List Nat
  banks : List Nat
  tag : List Byte
  byLease : Bool
  byFloor : Bool                       -- off a panel in a floor-miss excursion (R202)
deriving DecidableEq, Repr

/-- One-time-programmable fuses (R402 to R405, R410): the life-cycle state burned, the identity private key (0 before it is generated), the
device secret, the vendor slots revoked, the owner keys in slot order, the SVN minimum with the steps of its counter burned, and the lifetime
count of INVASIVE entries. -/
structure OtpSt where
  lc : Nat := 0
  priv : Nat := 0
  ds : List Byte := List.replicate 32 0#8
  revoked : List Nat := []
  owners : List (List Byte) := []
  svn : Nat := 0
  svnSteps : Nat := 0
  invasive : Nat := 0
  profileCode : Nat := 0               -- the ordering code: 0 A, 1 L (R432)
deriving DecidableEq, Repr, Inhabited

/-- The security block beyond its registers: the seal root and job keys (R405), JOB_LOADs since power-on, the identity working copy (R402),
the nonce and response cache of the management protocol (R401), and when the debug level ends (R418). -/
structure SecSt where
  sr : Option (List Byte) := none
  jobKeys : SMap (Option (List Byte)) := []
  loads : SMap Nat := []
  idKey : Option Nat := none
  mgmtNonce : Option (List Byte) := none
  cache : List (Nat × List Byte) := []
  levelUntil : Option Nat := none
deriving DecidableEq, Repr, Inhabited

/-- A page program that waits at log flash (R207, R472). -/
inductive FlashJob
  | sample (entry : Nat) (bytes : List Byte)  -- a core sample
  | events (bytes : List Byte)                -- a page of event records
  | maps                                      -- the repair maps and fence states
deriving DecidableEq, Repr

/-- One copy of the repair maps and fence states (R443): its sequence number, BK_REPAIR by bank, fenced cores by motif; a copy whose
check fails is not held. -/
structure MapCopy where
  seq : Nat := 0
  banks : SMap Word := []
  cores : SMap Word := []
deriving DecidableEq, Repr, Inhabited

/-- Log flash (R386): image slots, ACTIVATE_ON_BOOT and TRIES, the cause of the last loss of power, the two map copies, core samples by entry
with whether each was read, event-log pages, the position of each ring, erase counts and retired blocks, page programs waiting, the
block whose erase runs and whether it is suspended. -/
structure FlashSt where
  good : Option (List Byte) := none
  staged : Option (List Byte) := none
  activateOnBoot : Bool := false
  tries : Nat := 0
  lastOff : Nat := 0
  mapA : MapCopy := {}
  mapB : MapCopy := {}
  samples : SMap (List Byte) := []
  unread : List Nat := []
  sampleNo : Nat := 0
  pages : SMap (List Byte) := []
  nextPage : Nat := 0
  erases : SMap Nat := []
  retired : List Nat := []
  jobs : List FlashJob := []
  erasing : Option Nat := none
  suspended : Bool := false
deriving DecidableEq, Repr, Inhabited

/-- Where a boot stands (R389, R390): the sources still to try, DHCP attempts made, the next TFTP block, its retries, the bytes received,
and the block size agreed. -/
structure BootSt where
  sources : List Nat := []             -- 0 network, 1 flash
  loading : Bool := false              -- the network transfer runs
  held : Bool := false                 -- every source has failed
  answered : Bool := false             -- DHCP has answered
  dhcp : Nat := 0
  block : Nat := 1
  retries : Nat := 0
  blksize : Nat := 1468
  image : List Byte := []
deriving DecidableEq, Repr, Inhabited

/-- Icaux (R392 to R400): the image banks, recent faults of each component and the last warm restart by north counter, whether firmware
serves only retrieval and staging, whether a component went to COMPONENT_FAILED since reset, the inbound queues, and the shift change
(0 none, 1 deferred, 2 waiting for the slots, 3 in the pause). -/
structure FwSt where
  bankA : Option (List Byte) := none
  bankB : Option (List Byte) := none
  faults : SMap (List Nat) := []
  warm : Option Nat := none
  crippled : Bool := false
  failed : Bool := false
  stopped : List Nat := []             -- components stopped by a write outside their regions (R392)
  queues : SMap (List (List Byte)) := []
  shift : Nat := 0
  emergencyAt : Option Nat := none     -- when the last emergency ended
  haltDue : Bool := false              -- job slots are to stop when the pause ends (R429)
  pausedAt : Nat := 0
  fromStaged : Bool := false           -- the running image came from the STAGED slot
  s5At : Option Nat := none            -- when S5 began
  boot : BootSt := {}
  extNext : Nat := 0                   -- core samples written to EXT
  extUnread : List Nat := []           -- their entries that nobody has read
  infoSec : Nat := 0                   -- the second in which INFO records are being counted (R462)
  infoCount : Nat := 0
  page : List Byte := []               -- event records not yet in a page
  rotated : SMap Nat := []             -- when a motif last rotated, by north counter (R467)
deriving DecidableEq, Repr, Inhabited

/-- A frame that the management MAC sends: its destination and UDP payload. -/
structure MmFrame where
  dst : Nat
  bytes : List Byte
deriving DecidableEq, Repr, Inhabited

/-- The management MAC beyond its registers (R358, R360): frames to send, collisions of the first, its back-off in slot times, octets of the
frames in the receive buffer. -/
structure MmSt where
  tx : List MmFrame := []
  attempts : Nat := 0
  backoff : Option Nat := none
  rx : List Nat := []
deriving DecidableEq, Repr, Inhabited

/-- Power and resets (R421 to R426, R431 to R442, R452, R453) beyond their registers. -/
structure PowerSt where
  mains : Bool := true                 -- the always-on rail is good
  strapped : Bool := true              -- the straps are latched
  rails : Bool := true                 -- the headframe rails are up
  perst : Bool := true                 -- PERST_N is asserted
  s1 : Bool := false                   -- S1 has begun since the last reset
  cold : Bool := false                 -- S1 waits for a headframe sensor (R435)
  tripped : Bool := false
  cooling : Bool := false              -- a restart after a trip waits for the sensors (R453)
  standby : Nat := 0                   -- order of R425 reached: 0 none, 5 waiting for PME_Turn_Off, 7 in STANDBY
  wokeEarly : Bool := false            -- a wake was latched during STANDBY entry (R364)
  perstSeen : Bool := false            -- PERST_N was asserted during STANDBY (R442)
  vinBad : Bool := false               -- the input is outside 38 to 45 V
  clampAt : Option Nat := none         -- when the clamp of R19 last acted
  railAt : SMap Nat := []              -- rail settings held at parking, by panel (R423)
  badWindows : SMap Nat := []          -- successive bad canary windows, by ground (R470)
  minFresh : SMap Bool := []           -- MIN_MHS of a ground was read and its next window starts a new minimum
  lent : List (Nat × Nat) := []        -- banks handed to firmware at parking, with their owners (R422)
deriving DecidableEq, Repr, Inhabited

/-- The TAP (R448, R449): its instruction, the boundary-scan cells as captured and as preloaded, and whether it is in Test-Logic-Reset. -/
structure TapSt where
  ir : Nat := 0x02
  captured : BitVec 116 := 0#116
  preloaded : BitVec 116 := 0#116
  testReset : Bool := true
deriving DecidableEq, Repr, Inhabited

end Sys2Proof.Machine
end

