-- ==== Sys2Proof/Machine/Ecc.lean ====
section
/-! DEFINITION. The Reed–Solomon code of the level tier's pairs and check areas (R237), as it meets errors in stored symbols. -/

namespace Sys2Proof.Machine

/-- A field element times α, with α a root of x^16 + x^12 + x^3 + x + 1. -/
def gfDouble (x : Nat) : Nat := if x < 32768 then 2 * x else 2 * x ^^^ 0x1100B
/-- A field element divided by α. -/
def gfHalve (x : Nat) : Nat := if x % 2 = 0 then x / 2 else (x ^^^ 0x1100B) / 2
/-- `f` applied `n` times. -/
def times (f : Nat → Nat) : Nat → Nat → Nat
  | 0, x => x
  | n + 1, x => times f n (f x)

/-- Errors of stored symbols: by symbol, what the stored value differs by from the right one. -/
abbrev Errors := SMap Nat

/-- An error met by a symbol, on top of those it has. -/
def Errors.add (m : Errors) (symbol value : Nat) : Errors := SMap.put m 0 symbol (SMap.get m 0 symbol ^^^ value % 65536)
/-- The errors of a list of (symbol, value) met, symbols from `n` on left out. -/
def Errors.addAll (m : Errors) (n : Nat) (l : List (Nat × Nat)) : Errors := (l.filter (fun e => e.1 < n)).foldl (fun m e => m.add e.1 e.2) m

/-- What a reader finds in a codeword. -/
inductive EccFind
  | clean
  | fix (symbol value : Nat)
  | bad
deriving DecidableEq, Repr

/-- The syndromes S1 and S2 of the errors decide, in a codeword of `n` symbols: both zero is a codeword, S2 / S1 = α^i points at symbol i,
and anything else is uncorrectable. -/
def eccFind (n : Nat) (errors : Errors) : EccFind :=
  if errors = [] then .clean else
  let s1 := errors.foldl (fun a e => a ^^^ times gfDouble e.1 e.2) 0
  let s2 := errors.foldl (fun a e => a ^^^ times gfDouble (2 * e.1) e.2) 0
  if s1 = 0 ∧ s2 = 0 then .clean
  else if s1 = 0 ∨ s2 = 0 then .bad
  else match (List.range n).find? (fun i => times gfDouble i s1 = s2) with
    | some i => .fix i (times gfHalve i s1)
    | none => .bad

/-- What is still wrong once the code has done what it does. -/
def EccFind.residue (f : EccFind) (errors : Errors) : Errors :=
  match f with
  | .fix i v => errors.add i v
  | _ => errors

end Sys2Proof.Machine
end

