-- ==== Sys2Proof/Machine/UnitState.lean ====
section
/-! DEFINITION. The state of the headframes' units as plain data: fabric ports and connections (R324, R351), collectives (R334), row
and serving requests (R287, R340), layout epochs (R333), tally, hoists and versions (R257, R261, R271). -/

namespace Sys2Proof.Machine

/-- The layers round a GFT packet (R321, R322): the PCP of its tag where it has one, the address family, the peer's IP address, next hop
and UDP port where its peer map gives them, DSCP, UDP source port, and the words of the GFT header. -/
structure FrameLayers where
  pcp : Option Nat
  ipv6 : Bool
  addr : Option Nat
  nextMac : Option Nat
  dstPort : Option Nat
  dscp : Nat
  srcPort : Nat
  header : List Word
deriving DecidableEq, Repr, Inhabited

/-- A frame queued on a fabric port (R351): its priority, its octets with the FCS, its layers and what it carries. `pfc` names the
priority and the time of a PFC frame. -/
structure TxFrame where
  prio : Nat
  octets : Nat
  layers : Option FrameLayers := none
  packet : Option GftPacket := none
  pfc : Option (Nat × Nat) := none
deriving DecidableEq, Repr, Inhabited

/-- A fabric port beyond its registers: queues, deficits of R351, pause timers in quanta (R352), priorities it holds in pause (R353),
breaks of R354 and R355, and the frames given to firmware in the current ms (R350). -/
structure PortSt where
  urgent : List TxFrame := []
  queue : List TxFrame := []
  sending : Option TxFrame := none
  deficit : SMap Nat := []
  visit : Nat := 0
  paused : SMap Nat := []
  xoff : List Nat := []
  txBroken : List Nat := []
  rxBroken : List Nat := []
  rx : List (Nat × Nat) := []          -- octets held in the receive buffer: priority and octets of each frame, oldest first
  excMs : Nat := 0
  excCount : Nat := 0
deriving DecidableEq, Repr, Inhabited

/-- One connection (R324): a class between one headframe and one peer within one job slot's group. -/
structure Conn where
  id : Nat
  hf : Nat
  cls : Nat
  slot : Nat
  peer : Nat
  ready : Bool := false
  nextPsn : Nat := 0                   -- PSN of the next packet sent
  waiting : List GftPacket := []       -- packets not yet sent
  unacked : List GftPacket := []       -- sent and not acknowledged, oldest first
  marked : List Nat := []              -- PSNs that the latest bitmap marks as received
  resent : List Nat := []              -- PSNs sent again by fast retransmit
  rxNext : Nat := 0                    -- lowest PSN not yet received
  rxGot : List Nat := []               -- PSNs beyond it that were received
  held : List GftPacket := []          -- packets of messages not yet complete
  since : Nat := 0                     -- packets received since the last acknowledgment
  fails : Nat := 0                     -- successive timeouts with no progress
  used : Nat := 0
deriving DecidableEq, Repr, Inhabited

/-- What asks for a transaction tag and holds it (R248, R329): a window packet of a connection, a row request, a response (its type,
group, destination and message), a PCIe read, a task's load or store outside the banks, a level access or posted PCIe write, or a refresh. -/
inductive TagUser
  | conn (id : Nat)
  | rows (id : Nat)
  | rsp (typ group dst msg : Nat)
  | deep (id : Nat)
  | load (key born : Nat)
  | store (id : Nat)
  | access
  | refresh
deriving DecidableEq, Repr

/-- An entry of a headframe's tag table (R248): its number, the requester, the job slot, the return address, the size and the issue time. -/
structure Tag where
  hf : Nat
  num : Nat
  user : TagUser
  slot : Option Nat
  addr : Nat
  size : Nat
  usec : Nat
deriving DecidableEq, Repr

/-- A request for a transaction tag, which waits where it finds none (R249): its headframe, job slot and age, and what it carries:
the data of a write, whether link ECC failed a read twice, the packets of a response. -/
structure TagWait where
  hf : Nat
  slot : Option Nat
  age : Nat
  user : TagUser
  addr : Nat := 0
  size : Nat := 0
  data : Option (List Byte) := none
  failed : Bool := false
  packets : List GftPacket := []
deriving DecidableEq, Repr

/-- A block's stored check area (R236): the check symbols 0 to 61 that are wrong although the area's own symbols fit them, and the errors
that its symbols have met since it was written. -/
structure Area where
  kept : Errors := []
  errs : Errors := []
deriving DecidableEq, Repr, Inhabited

/-- An entry of a channel's check cache (R238): the block, whether it has changed, and its wrong check symbols. -/
structure CheckEntry where
  block : Nat
  changed : Bool
  wrong : Errors
deriving DecidableEq, Repr

/-- A deep read outstanding (R246, R247). -/
structure DeepRead where
  id : Nat
  window : Nat
  slot : Option Nat
  addr : Nat
  size : Nat
  tagged : Bool
deriving DecidableEq, Repr

/-- The progress of a collective (R336 to R338): its plait entry, the partial values it holds, keyed by block, level and node of the
tree of R336, the blocks whose own input has entered, and the blocks whose result is placed at DEST. -/
structure CollSt where
  entry : Nat := 0
  parts : SMap (List Word) := []
  entered : List Nat := []
  placed : List Nat := []
deriving DecidableEq, Repr, Inhabited

/-- A row request outstanding at the requester (R340, R341): the rows wanted as (table, version slot, row), the hoist and command that
wait for them, and the response packets received. -/
structure RowReq where
  id : Nat
  slot : Nat
  peer : Nat
  hf : Nat
  hoist : Nat
  cmd : Nat
  rows : List (Nat × Nat × Nat)
  tries : Nat := 0
  sent : Bool := false
  got : List GftPacket := []
deriving DecidableEq, Repr

/-- A row request held at the owner while the table's writer sweeps (R341). -/
structure HeldRows where
  hf : Nat
  slot : Nat
  packet : GftPacket
deriving DecidableEq, Repr

/-- One serving request (R287): the fields of its ledger entry, and the payload that PAYLOAD names. -/
structure LedgerE where
  st : Nat := 0                        -- 0 FREE, 1 QUEUED, 2 RUNNING, 3 REPLYING
  slot : Nat := 0
  capsule : Bool := false
  redispatched : Bool := false
  gen : Nat := 0
  reqId : Nat := 0
  origin : Nat := 0
  port : Nat := 0
  arrival : Nat := 0
  payloadOff : Nat := 0
  status : Nat := 0
  detail : Nat := 0                    -- SEQ of the event behind that status (R374)
  payload : List Byte := []
  group : Nat := 0                     -- GROUP of a fabric request
deriving DecidableEq, Repr, Inhabited

/-- A shard move of a re-shard (R333): table, shard, new owner and the slot there. -/
structure ShardMove where
  table : Nat
  shard : Nat
  owner : Nat
  slotAt : Nat
deriving DecidableEq, Repr

/-- The epoch change of a job slot's group (R333): moves queued, moves taken up, children that reported READY, orders reached (0 none,
1 drained to order 1, 2 READY sent, 3 committed), shards still to arrive, the old map entry of shards lost, and peers lost (R345). -/
structure EpochSt where
  queued : List ShardMove := []
  moves : List ShardMove := []
  children : List Nat := []
  order : Nat := 0
  awaited : List (Nat × Nat) := []
  lost : List Nat := []
  pendingLoss : List Nat := []
  needLayout : Bool := false
  target : Nat := 0
deriving DecidableEq, Repr, Inhabited

/-- One tally entry in use (R257): its key, tier, class, candidate mark, location in 64-byte units, popularity, and the relocation slot
that the row holds (R255). -/
structure TallyE where
  key : Nat
  tier : Nat
  width : Nat
  cand : Bool
  loc : Nat
  pop : Nat
  reloc : Option Nat
deriving DecidableEq, Repr, Inhabited

/-- One row of a gather command in flight (R261 to R265): its key and row, where its copy lies (tier 0 face, 1 level, 2 deep,
3 another module), its address and class, its values once returned with the flags of their widening, and whether it was returned poisoned. -/
structure HRow where
  key : Nat
  row : Nat
  tier : Nat
  addr : Nat
  width : Nat
  bytes : List Byte := []
  arrived : Bool := false
  versionBad : Bool := false
  ready : Bool := false
  poisoned : Bool := false
  vals : List Word := []
  flags : Flags := 0#8
deriving DecidableEq, Repr, Inhabited

/-- A partial of a scatter command (R268): row, TAG and values. -/
structure Partial where
  row : Nat
  tag : Nat
  vals : List Word
deriving DecidableEq, Repr

/-- A command at a hoist (R261): HGATH or HSCAT, its descriptors as read at issue, and its progress. -/
structure HCmd where
  id : Nat
  info : CmdInfo
  gather : Bool
  motif : Nat
  d : Nat
  a : Nat
  word : Nat
  flush : Bool
  request : Option Nat := none
  vsn : Nat := 0
  held : Bool := false
  fault : Option Code := none
  err : Bool := false
  entries : List (Nat × Nat) := []     -- row and bag of each index entry
  started : Nat := 0                   -- entries that have entered flight (R261)
  rows : List HRow := []               -- the distinct rows of those, in order of first use
  parts : List Partial := []
deriving DecidableEq, Repr

/-- A row staged by a prospector (R282 to R284): its key, the step it is staged for, its size, its place in a staging bank, and whether
it has become stale. -/
structure Staged where
  key : Nat
  step : Nat
  panel : Nat
  addr : Nat
  lines : Nat
  landed : Bool := false
  stale : Bool := false
deriving DecidableEq, Repr

/-- A return record being served (R296): its bank, which the scheduler has asked the prospector to have (order 2), its record, and once its
data are in and the bank is on its way back, whether they were uncorrectable (order 4). -/
structure ReturnAct where
  bank : Nat
  words : List Nat
  landed : Option Bool := none
deriving DecidableEq, Repr

/-- The return records of a step that a prospector serves (R295, R296): the step, how many were taken up, the banks they named, and those
in progress, in list order. -/
structure ReturnSt where
  step : Nat := 0
  served : Nat := 0
  banks : List Nat := []
  active : List ReturnAct := []
deriving DecidableEq, Repr, Inhabited

/-- A block of the update sweep that is staged (R306): its sweep entry and number, its task, the motif, the staging areas of master and
gradient, its first element, its elements, and the rows of an embedding block. -/
structure SweepBlk where
  entry : Nat
  block : Nat
  key : Nat
  motif : Nat
  area : Nat
  grad : Nat
  first : Nat
  n : Nat
  rows : List Nat
deriving DecidableEq, Repr

/-- Where a block of a sweep was updated (R314): its entry, its elements, the motif and the staging areas. -/
structure SweepRan where
  entry : Nat
  first : Nat
  n : Nat
  motif : Nat
  area : Nat
  grad : Nat
deriving DecidableEq, Repr

/-- An update sweep (R305 to R307): blocks staged, blocks done, the new optimiser state of the done blocks, by
(entry × 2 + vector) × 2^32 + first element, which phase 2 writes back, and where blocks ran since the last comparison (R314). -/
structure SweepSt where
  staged : List SweepBlk := []
  done : List (Nat × Nat) := []
  states : SMap (List Word) := []
  ran : List SweepRan := []
deriving DecidableEq, Repr, Inhabited

/-- A completion record before its PHASE, FLAGS and STEP, which are those of the moment it is written (R374). -/
structure RingRec where
  status : Nat
  valid : Bool
  kind : Nat
  credits : Nat
  seq : Nat
  rslot : Nat
  slot : Nat
  detail : Nat
deriving DecidableEq, Repr

/-- A completion ring beyond its registers (R374, R376, R377): its lap's phase, the records that wait for room, and those not yet
signalled. -/
structure RingSt where
  flipped : Bool := false
  waiting : List RingRec := []
  unsignalled : Nat := 0
deriving DecidableEq, Repr, Inhabited

/-- An accepted capsule whose DONE record is not yet written (R371, R374): its SEQ, opcode, job slot and result slot, and once it has
ended its status and DETAIL. -/
structure CapsuleSt where
  seq : Nat
  opcode : Nat
  slot : Nat
  rslot : Option Nat
  done : Option (Nat × Nat) := none
deriving DecidableEq, Repr

/-- A result slot (R378, R379): 0 FREE, 1 PENDING, 2 VALID; what it stores and its READ_COUNT. -/
structure ResultSt where
  st : Nat := 0
  seq : Nat := 0
  status : Nat := 0
  slot : Nat := 0
  payload : List Byte := []
  reads : Nat := 0
deriving DecidableEq, Repr, Inhabited

/-- A PCIe function beyond its registers (R381, R383): when its lease was last renewed, whether its expiry sequence still waits for steps
to complete, and whether its record and interrupt writes are stopped. -/
structure FnSt where
  renewed : Nat := 0
  expiring : Bool := false
  muted : Bool := true
deriving DecidableEq, Repr, Inhabited

end Sys2Proof.Machine
end

