-- ==== Sys2Proof/Machine/State.lean ====
section
/-! DEFINITION. The state of the module as plain data, its stops, and the state after reset. -/

namespace Sys2Proof.Machine

/-- A fault of the model. No command of this block stops the module for good: the module reports its faults in State (event records,
exception records, status bits), so this type names only a command that cannot be formed. -/
inductive Fault
  /-- Raised by no meaning: a command whose operands lie outside the machine leaves the state unchanged. Safe. -/
  | outsideMachine
deriving DecidableEq, Repr

/-- A refusal of the model. -/
inductive Refusal
  /-- A command that has no meaning yet, by its mnemonic. Raised in exec's arms alone. Safe: nothing is claimed of it. -/
  | notModelled (mnemonic : String)
deriving DecidableEq, Repr

/-- What a command sends out of the module; it has gone once time passes. -/
inductive Out
  | regData (a : Nat) (v : Word)
  | readData (bytes : List Byte) (err : Bool)
  | hostWrite (fn addr : Nat) (bytes : List Byte) (noSnoop relaxed : Bool)
  | hostRead (fn addr size : Nat) (noSnoop relaxed : Bool)
  | bridge (hf bridge : Nat) (toPanel : Bool) (entry : Line)
  | frame (port : Nat) (f : TxFrame)
  | toFirmware (port : Nat)
  | msix (fn vector : Nat)
  | served (reqId status : Nat) (payload : List Byte)
  | mgmt (f : MmFrame)
  | cfgRetry (fn : Nat)
  | cfgAnswer (fn : Nat)
  | fwMsg (component status : Nat)    -- a send's answer: 0 queued, 1 FULL, 2 RESTARTED (R393, R394)
  | pmeAck
  | tdo (ir : Nat) (cells : BitVec 116)
deriving DecidableEq, Repr

/-- An event on its way to the event unit, or recorded (R456). `usec` is the north counter at the cause. -/
structure Event where
  code : Code
  cls : EvClass
  source : Nat
  data : List Nat
  usec : Nat
deriving DecidableEq, Repr

/-- A record of a declaration (R373): register image or memory image. -/
inductive DeclRec
  | regs (target : Nat) (words : List Word)
  | mem (target : Nat) (bytes : List Byte)
deriving DecidableEq, Repr

/-- What the scheduler keeps of a job slot beside its registers (R182, R203). -/
structure JobSt where
  nextSerial : Nat := 0
  faults : List (List Word) := []     -- the slot's fault list (R152)
  stepsQueued : Nat := 0              -- steps queued and not started (R372)
  stepSeqs : List (Nat × Nat) := []   -- STEPS capsules whose STEP records are still to come: SEQ and how many
  inStep : Bool := false              -- a step has started and its STEP record is not yet written
  ring : Option Nat := none           -- function × 16 + queue that sent the slot's JOB_LOAD (R374)
  stepHeld : Bool := false            -- a step is to start once HOLD or the awaited layout ends (R332, R345)
  aborting : Bool := false
  drainOrder : Nat := 0               -- order of R204 reached, 0 when no drain runs
  mbStarted : Nat := 1                -- microbatch records started this step (R318)
  flushed : Nat := 0                  -- flush of the step: 0 not begun, 1 sums sent, 2 complete (R270)
  pfStarted : List Nat := []          -- chains of the prefetch entries started this step, in list order (R318)
  compared : Nat := 0                 -- digest comparison of the boundary: 0 not made, 1 blocks to repair, 2 complete (R312)
  repairs : List (Nat × Nat) := []    -- leaves to repair with their winners (R313)
  slicePending : Bool := false        -- slice at the next boundary (R196, R202)
  tooLate : Bool := false             -- SLICE_WAIT_US passed with no quiescent point (R196)
  faulted : Option Nat := none        -- a task of the step faulted under REPORT (R200): the SEQ of the first one's event
  sliceFor : Option Nat := none       -- SERVE slot whose need started the slice (R196)
  fresh : List Nat := []              -- keys of the rows handed over at order 7 of the drain (R284)
  shiftHeld : Bool := false           -- held at order 1 of the drain by a shift change (R398)
  setRecs : List DeclRec := []        -- records of SET declarations that wait for order 10 (R372)
  waiting : List (Nat × Nat) := []    -- records that find no room in a queue, with the motif they are for (R183, R184)
deriving DecidableEq, Repr, Inhabited

/-- The whole machine. -/
structure State where
  pending : List Instr                -- commands waiting, first in, first out
  free : Nat                          -- free values drawn so far (the model's own)
  tick : Nat                          -- identities and ages handed out so far (the model's own)
  out : List Out                      -- what was sent out since time last passed, oldest first (the model's own)
  evq : List Event                    -- events raised and not yet recorded
  usecN : BitVec 64                   -- north microsecond counter (R23)
  usecS : BitVec 64                   -- south microsecond counter (R23)
  regs : SMap Word                    -- the register space of R28
  latch : SMap Word                   -- high words latched by a read of the low word (R27)
  mem : SMap Byte                     -- BANK and EXT by device address (R127)
  ecc : SMap Nat                      -- check state of 64-bit words, by address / 8: 0 clean, 1 correctable, 2 uncorrectable, 3 poison
  banks : SMap BankSt
  scratch : SMap Nat                  -- the march engines' scratch lines, by motif (R229)
  bridges : SMap (List Line)          -- bridge FIFOs by (headframe × 32 + bridge) × 2 + direction (R21)
  tasks : SMap Task                   -- by slot × 2^32 + serial
  ctx : SMap Ctx
  cores : SMap CoreSt
  posted : List Posted
  adds : List PendingAdd
  deferred : List Deferred
  ended : SMap (Option Ended)         -- tasks that have ended with commands outstanding, by key (R150)
  tokens : SMap Token                 -- by motif × 256 + token
  srf : SMap Word                     -- scale register files, by motif × 512 + entry
  engines : SMap Engine               -- by motif × 5 + unit: quadrants 0 to 3, 4 the whole array
  arrays : SMap ArraySt
  queues : SMap (List Nat)            -- task queues by motif: keys, oldest first
  xferQ : SMap (List XCmd)            -- XFER commands by motif, running first
  chains : SMap (List Chain)
  contribs : List Contribution
  plait : SMap PlaitSt
  edges : SMap (List Flit)            -- plait links, by level × 16384 + node
  colls : SMap Word                   -- collective table (R334), by handle × 8 + word
  jobs : SMap JobSt
  excursion : SMap Nat                -- by panel: 0, or 1 + windows at the floor in a RATE_FLOOR_MISS excursion (R17)
  pkgGiB : SMap Nat                   -- capacity of each LPDDR5X package in GiB, as fitted (R127)
  pkgExcluded : SMap Bool             -- packages that the next S4 excludes (R245)
  spread : List Nat                   -- the channel set of SPREAD, fixed as S4 ends (R240, R244)
  pairErrs : SMap Errors              -- errors in the stored data symbols of EXT pairs, by address / 128 (R237)
  areas : SMap Area                   -- check areas, by channel × 2^22 + block (R236)
  checkCache : SMap (List CheckEntry) -- check caches by channel, newest first (R238)
  retryFails : SMap (List Nat)        -- when link-ECC retries of a channel failed within the last second, in µs (R245)
  weakRuns : SMap Nat                 -- corrections of a block with no clean pass between, by channel × 2^22 + block (R243)
  closed : SMap Bool                  -- KIND 0 deep windows that an expired lease has closed (R247)
  busMaster : SMap Bool               -- Bus Master Enable of each function (R367)
  fns : SMap FnSt                     -- by PCIe function
  rings : SMap RingSt                 -- by function × 16 + ring
  capsules : SMap (List CapsuleSt)    -- accepted capsules without their DONE record, by function × 16 + queue, in SEQ order
  results : SMap ResultSt             -- by function × 65536 + result slot
  ports : SMap PortSt
  gftRx : SMap (List (Nat × GftPacket)) -- packets passed to a headframe's GFT engine with their port, oldest first (R350)
  conns : List Conn
  tags : List Tag                     -- the headframes' tag tables (R248)
  tagWait : List TagWait
  deepReads : List DeepRead
  collRun : SMap CollSt               -- progress of collectives, by handle
  rowReqs : List RowReq
  heldRows : List HeldRows
  ledger : SMap LedgerE               -- the request ledger (R287), by entry
  epochs : SMap EpochSt               -- by job slot
  tables : SMap Word                  -- table descriptors (R250), by table × 32 + word
  tally : SMap (Option TallyE)        -- the tally (R257), by set × 8 + way
  shardLoads : SMap Nat               -- load counters of shards (R275)
  samples : SMap (SMap Nat)           -- sampled keys of the step and their counts, by slot × 2 + headframe (R260)
  sampleLost : SMap Bool              -- a headframe's samples of a step are discarded (R260)
  gens : SMap (Option (List Nat))     -- live generations: the tables whose current slot is 1 (R271)
  publishQ : List Nat                 -- tables whose publish waits for its writer's order 9 (R273)
  hoists : SMap (List HCmd)
  rowSums : SMap (List Word)          -- module sums of a flush in progress, by row key (R270)
  rowGrads : SMap (List Word)         -- gradients of the step, by row key (R270)
  sweepTags : List (Nat × Nat × Nat × Nat) -- sweep counts that steps and requests expect: slot, request + 1 or 0, table, count (R264)
  sweeps : SMap SweepSt               -- by job slot
  suspectLog : List (Code × Nat × List Nat) -- events that make leaves suspect: code, source, data (R314)
  suspectFrom : SMap Nat              -- events of that list before a slot's last comparison
  staged : List Staged
  returns : SMap ReturnSt             -- by panel
  freeQ : List (Nat × Nat)            -- version slots to be freed, by table and slot (R274)
  regPending : List (Nat × Word)      -- window and MT_JOBS writes that wait for a step boundary (R103, R170, R183)
  slices : SMap (Option SliceSt)      -- by job slot
  otp : OtpSt
  sec : SecSt
  flash : FlashSt
  fw : FwSt
  mm : MmSt
  power : PowerSt
  tap : TapSt
deriving DecidableEq, Repr

/-- The module right after reset. -/
def State.reset : State where
  pending := []
  free := 0
  tick := 0
  out := []
  evq := []
  usecN := 0#64
  usecS := 0#64
  regs := []
  latch := []
  mem := []
  ecc := []
  banks := []
  scratch := []
  bridges := []
  tasks := []
  ctx := []
  cores := []
  posted := []
  adds := []
  deferred := []
  ended := []
  tokens := []
  srf := []
  engines := []
  arrays := []
  queues := []
  xferQ := []
  chains := []
  contribs := []
  plait := []
  edges := []
  colls := []
  jobs := []
  excursion := []
  pkgGiB := []
  pkgExcluded := []
  spread := []
  pairErrs := []
  areas := []
  retryFails := []
  checkCache := []
  weakRuns := []
  closed := []
  busMaster := []
  fns := []
  rings := []
  capsules := []
  results := []
  ports := []
  gftRx := []
  conns := []
  tags := []
  tagWait := []
  deepReads := []
  collRun := []
  rowReqs := []
  heldRows := []
  ledger := []
  epochs := []
  tables := []
  tally := []
  shardLoads := []
  samples := []
  sampleLost := []
  gens := [(0, some [])]
  publishQ := []
  hoists := []
  rowSums := []
  rowGrads := []
  sweepTags := []
  sweeps := []
  suspectLog := []
  suspectFrom := []
  staged := []
  returns := []
  freeQ := []
  regPending := []
  slices := []
  otp := {}
  sec := {}
  flash := {}
  fw := {}
  mm := {}
  power := {}
  tap := {}

end Sys2Proof.Machine
end

