-- ==== Sys2Proof/Machine/Ops.lean ====
section
/-! DEFINITION. The named operations over registers, memory and events that the meanings share. -/

namespace Sys2Proof.Machine

/-! ### Registers -/

/-- The offset at which a register is held: the copies of panel 0's mirrored blocks in panels 1 to 3 are views of panel 0's
(R100, R129, R208). -/
def regHome (a : Nat) : Nat :=
  if 0x300000 ≤ a ∧ a < 0x400000 ∧ 0x10000 ≤ (a - 0x300000) % 0x40000 then 0x300000 + (a - 0x300000) % 0x40000 else a

/-- The stored word of a register. -/
def State.rd (s : State) (a : Nat) : Word := s.regs.get (regReset a) a
/-- A register's word stored. -/
def State.wr (s : State) (a : Nat) (v : Word) : State := { s with regs := s.regs.put (regReset a) a v }
/-- Field [lo + n − 1 : lo] of a register. -/
def State.fld (s : State) (a lo n : Nat) : Nat := bitsOf (s.rd a).toNat lo n
/-- One bit of a register. -/
def State.bit (s : State) (a i : Nat) : Bool := bitOf (s.rd a).toNat i
/-- A field of a register replaced. -/
def State.setFld (s : State) (a lo n v : Nat) : State := s.wr a (BitVec.ofNat 32 (setBits (s.rd a).toNat lo n v))
/-- A bit of a register set or cleared. -/
def State.setBit (s : State) (a i : Nat) (v : Bool) : State := s.setFld a i 1 (b2n v)
/-- A saturating counter field counts `k` more. -/
def State.count (s : State) (a lo n k : Nat) : State := s.setFld a lo n (satTo (2 ^ n - 1) (s.fld a lo n + k))
/-- The 56-bit or 64-bit number in a pair of registers. -/
def State.rd2 (s : State) (lo hi : Nat) : Nat := (s.rd lo).toNat + 2 ^ 32 * (s.rd hi).toNat

/-- A value written to a register with its limits applied: a field that ignores a value keeps its old one, a clamped field stores the
nearer limit. -/
def regLimits (r : RegRow) (old v : Nat) : Nat :=
  let v := r.ignores.foldl (fun v i => if bitsOf v i.1 i.2.1 = i.2.2 then setBits v i.1 i.2.1 (bitsOf old i.1 i.2.1) else v) v
  r.clamps.foldl (fun v c => setBits v c.1 c.2.1 (max c.2.2.1 (min c.2.2.2 (bitsOf v c.1 c.2.1)))) v
/-- What a register holds after a write of `v` (R6): RW bits take the value, a 1 clears a W1C bit and sets a W1S bit, other bits keep
theirs. The W1S bits of this module start operations: the operation clears its bit (DESIGN CHOICE, log entry 11). -/
def regNext (r : RegRow) (old v : Word) : Word :=
  (old &&& ~~~(BitVec.ofNat 32 r.rw) &&& ~~~(v &&& BitVec.ofNat 32 r.w1c)) ||| (BitVec.ofNat 32 (regLimits r old.toNat v.toNat) &&& BitVec.ofNat 32 r.rw) |||
    (v &&& BitVec.ofNat 32 r.w1s)
/-- A write stored under the access codes alone; an unassigned offset is ignored (R28). -/
def State.regStore (s : State) (a : Nat) (v : Word) : State :=
  match regRow (regHome a) with
  | none => s
  | some r => s.wr (regHome a) (regNext r (s.rd (regHome a)) v)

/-! ### Fresh numbers, outputs and events -/

/-- The next free value (a number nothing constrains), and the state that has drawn it. -/
def State.draw (s : State) : Nat × State := (Config.freeNat s.free, { s with free := s.free + 1 })
/-- The next `n` free values, as bytes. -/
def State.drawBytes (s : State) (n : Nat) : List Byte × State :=
  ((List.range n).map (fun i => BitVec.ofNat 8 (Config.freeNat (s.free + i))), { s with free := s.free + n })
/-- A number used up: the next identity or age is one higher. -/
def State.numbered (s : State) : State := { s with tick := s.tick + 1 }
/-- An output sent. -/
def State.emit (s : State) (o : Out) : State := { s with out := s.out ++ [o] }
/-- Events that make a block of a digest set suspect (R314). -/
def suspectCode : Code → Bool
  | .LD_ECC_CE | .LD_ECC_UE | .BANK_ECC_CE | .BANK_ECC_UE | .FOOTING_MISMATCH | .BANK_FENCED | .CORE_FENCED => true
  | _ => false
/-- An event raised: the north counter stamps it (R24, R456). -/
def State.raise (s : State) (code : Code) (cls : EvClass) (source : Nat) (data : List Nat) : State :=
  { s with
    evq := s.evq ++ [⟨code, cls, source, data, s.usecN.toNat % 2 ^ 32⟩]
    suspectLog := if suspectCode code then s.suspectLog ++ [(code, source, data)] else s.suspectLog
    regs := if cls = .moduleFatal then s.regs.put (regReset Reg.PW_ALERT) Reg.PW_ALERT (s.rd Reg.PW_ALERT ||| 0x20#32) else s.regs }
/-- A record put among others in ascending order of source, behind those of its own. -/
def bySource (e : Event) : List Event → List Event
  | [] => [e]
  | f :: r => if e.source < f.source then e :: f :: r else f :: bySource e r
/-- What happens in one cycle: the records it raises reach the event unit together, and are numbered in ascending order of source (R25). -/
def State.oneCycle (s : State) (f : State → State) : State :=
  let t := f s
  { t with evq := t.evq.take s.evq.length ++ (t.evq.drop s.evq.length).foldl (fun l e => bySource e l) [] }
/-- A status bit set: its event is raised when it goes from clear to set (R219). -/
def State.setStatus (s : State) (a i : Nat) (code : Code) (cls : EvClass) (source : Nat) (data : List Nat) : State :=
  if s.bit a i then s else (s.setBit a i true).raise code cls source data

/-! ### Banks and memory -/

/-- The bank of a BANK address (R209). -/
def bankOf (a : Nat) : Nat := a / 0x18000
/-- Bytes of the BANK region. -/
def bankEnd : Nat := 0xF0000000
/-- The first device address of EXT. -/
def extBase : Nat := 0x01000000000000
/-- The first device address of HOST. -/
def hostBase : Nat := 0x80000000000000
/-- A bank's state. -/
def State.bank (s : State) (b : Nat) : BankSt := s.banks.get {} b
/-- A bank's state replaced. -/
def State.setBank (s : State) (b : Nat) (v : BankSt) : State := { s with banks := s.banks.put {} b v }
/-- What an unlisted byte of memory reads as: zero, but for a bank whose contents are undefined (R223). -/
def fillByte (banks : SMap BankSt) (a : Nat) : Byte :=
  if a < bankEnd ∧ 4 ≤ (banks.get {} (bankOf a)).fill then Config.freeByte ((banks.get {} (bankOf a)).fill - 4) a else 0#8
/-- What an unlisted 64-bit word's check state is (R213, R223). -/
def fillMark (banks : SMap BankSt) (w : Nat) : Nat :=
  if 8 * w < bankEnd then
    let f := (banks.get {} (bankOf (8 * w))).fill
    if f = 3 then 3 else if 4 ≤ f then Config.freeMark (f - 4) w % 3 else 0
  else 0
/-- One byte of memory. -/
def State.byte (s : State) (a : Nat) : Byte := s.mem.get (fillByte s.banks a) a
/-- One byte of memory stored. -/
def State.setByte (s : State) (a : Nat) (v : Byte) : State := { s with mem := s.mem.put (fillByte s.banks a) a v }
/-- The bytes at consecutive addresses. -/
def State.bytes (s : State) (a : Nat) : Nat → List Byte
  | 0 => []
  | n + 1 => s.byte a :: s.bytes (a + 1) n
/-- Bytes stored at consecutive addresses. -/
def State.setBytes (s : State) (a : Nat) : List Byte → State
  | [] => s
  | b :: r => (s.setByte a b).setBytes (a + 1) r
/-- The check state of the word that holds an address. -/
def State.mark (s : State) (a : Nat) : Nat := s.ecc.get (fillMark s.banks (a / 8)) (a / 8)
/-- That check state replaced. -/
def State.setMark (s : State) (a m : Nat) : State := { s with ecc := s.ecc.put (fillMark s.banks (a / 8)) (a / 8) m }
/-- A bank emptied to a fill of R223 or R228: contents, check states and fill replaced. -/
def State.refill (s : State) (b fill : Nat) : State :=
  { s with
    mem := s.mem.clear (0x18000 * b) (0x18000 * (b + 1))
    ecc := s.ecc.clear (0x3000 * b) (0x3000 * (b + 1))
    banks := s.banks.put {} b { s.bank b with fill := fill } }

/-- A span cut where an aligned block of `size` ends, as (address, bytes); `fuel` bounds the parts. -/
def cutSpan (size : Nat) : Nat → Nat → Nat → List (Nat × Nat)
  | 0, _, _ => []
  | fuel + 1, a, n =>
    if n = 0 then [] else
    let k := min n (size - a % size)
    (a, k) :: cutSpan size fuel (a + k) (n - k)

/-- The accesses that a BANK span makes: one for each line of 64 bytes (R210, R211). -/
def bankSpans (a n : Nat) : List (Nat × Nat) := cutSpan 64 (n / 64 + 2) a n
/-- The parts of a span that lie in one 64-bit word each (R213). -/
def wordParts (a n : Nat) : List (Nat × Nat) := cutSpan 8 (n / 8 + 2) a n

/-- Whether an agent's access passes the ownership check of a bank (R214, R218). -/
def State.ownerOk (s : State) (b : Nat) (ag : Agent) (write : Bool) : Bool :=
  match ag with
  | .outside => true
  | .owner k i => s.fld (Reg.BK_OWNER b) 0 3 = k && s.fld (Reg.BK_OWNER b) 3 6 = i && !(write && s.bit (Reg.BK_OWNER b) 9)

/-- Kind and identity of an agent as event data. -/
def agentData : Agent → List Nat
  | .owner k i => [k, i]
  | .outside => [0, 0]

/-- An access refused under R218: NOT_OWNED, its event and its count. -/
def State.notOwned (s : State) (a : Nat) (ag : Agent) (write : Bool) : State :=
  let b := bankOf a
  (s.setStatus (Reg.BK_STATUS b) 0 .BANK_NOT_OWNED .info (b / 4) ([b, a % 0x18000 / 64] ++ agentData ag ++ [b2n write])).count
    (Reg.BK_ACCESS_COUNT b) 0 16 1

/-- Whether a panel is parked, at retention or off, so that its banks are not served (R221, R222, R421): its rail shows 0, it shows
PARKED, or the module is in DOZE or STANDBY. -/
def State.panelDown (s : State) (panel : Nat) : Bool :=
  s.fld (Reg.PW_PANEL panel) 16 10 = 0 || s.bit Reg.PW_STATE (11 + panel) || decide (2 ≤ s.fld Reg.PW_STATE 8 3)
/-- Whether a panel is in service: repaired (R437), not failed, not down, and before S5 panel 0 alone (R438). -/
def State.panelUp (s : State) (panel : Nat) : Bool :=
  s.bit Reg.HF_BRINGUP panel && !s.bit Reg.HF_BRINGUP (4 + panel) && !s.panelDown panel && (panel = 0 || s.fld Reg.PC_BOOT 0 3 = 5)

/-- The panel of a bank. -/
def panelOfBank (b : Nat) : Nat := b / 10240

/-- How a bank answers an access that passed the ownership check (R222, R231). -/
inductive Served
  | yes      -- it serves the access
  | wakes    -- it starts its RETAIN to ON transition; the access waits
  | waits    -- a transition or handover runs; the access waits
  | asleep   -- OFF, parked, fenced, or RETAIN with no wake
deriving DecidableEq, Repr

/-- Whether a destructive march test holds a bank's port (R228). -/
def BankSt.testing (k : BankSt) : Bool :=
  match k.march with
  | some m => !m.preserve
  | none => false

/-- R216, R220, R222, R228, R231. -/
def State.served (s : State) (b : Nat) : Served :=
  if s.bit (Reg.BK_REPAIR b) 24 || s.panelDown (panelOfBank b) then .asleep
  else if s.bit (Reg.BK_POWER b) 4 || s.bit (Reg.BK_OWNER b) 10 || (s.bank b).testing then .waits
  else if s.fld (Reg.BK_POWER b) 2 2 = 0 then .yes
  else if s.fld (Reg.BK_POWER b) 2 2 = 1 && s.bit (Reg.BK_POWER b) 5 then .wakes
  else .asleep

/-- The RETAIN to ON transition that an access starts: ON is written into STATE (R222). -/
def State.autoWake (s : State) (b : Nat) : State :=
  ((s.setFld (Reg.BK_POWER b) 0 2 0).setBit (Reg.BK_POWER b) 4 true).setBank b { s.bank b with goal := some 0 }

/-- ASLEEP, its event and its count (R222). -/
def State.asleep (s : State) (b : Nat) : State :=
  (s.setStatus (Reg.BK_STATUS b) 2 .BANK_ASLEEP .info (b / 4) [b % 4, b]).count (Reg.BK_ACCESS_COUNT b) 16 16 1

/-- Bank words at one address (R213): the state after the read's counts and records, and whether the word is uncorrectable. -/
def State.readWord (s : State) (a : Nat) : State × Bool :=
  let b := bankOf a
  let line := a % 0x18000 / 64
  match s.mark a with
  | 0 => (s, false)
  | 1 =>
    let s := (s.setStatus (Reg.BK_STATUS b) 3 .BANK_ECC_CE .corrected (b / 4) [b % 4, line]).count (Reg.BK_ECC_COUNT b) 0 16 1
    let k := s.bank b
    (s.setBank b { k with priority := if k.priority.contains line then k.priority else k.priority ++ [line] }, false)
  | m =>
    let s := if m = 3 then s.setStatus (Reg.BK_STATUS b) 5 .BANK_POISON_READ .info (b / 4) [b % 4, line, a / 8 % 8]
      else s.setStatus (Reg.BK_STATUS b) 4 .BANK_ECC_UE .info (b / 4) [b % 4, line, a / 8 % 8]
    ((s.count (Reg.BK_ECC_COUNT b) 16 16 1).wr (Reg.BK_LAST_ERR b)
      (BitVec.ofNat 32 (2 ^ 15 + line + (a / 8 % 8) * 2 ^ 11 + 2 ^ 14 * b2n (m = 3))), true)

/-- The bytes of a bank read at the port, word by word; an uncorrectable word reads zeros (R213). -/
def State.readPort (s : State) (a n : Nat) : State × List Byte × Bool :=
  (wordParts a n).foldl (fun acc p =>
    let r := acc.1.readWord p.1
    (r.1, acc.2.1 ++ (if r.2 then List.replicate p.2 0#8 else r.1.bytes p.1 p.2), acc.2.2 || r.2)) (s, [], false)

/-- Bytes written into one 64-bit word of a bank (R213): a whole word clears its error, a merge into an uncorrectable word zeroes
the rest and sets MERGE_LOST, a merge into a correctable word corrects it. A scrub write-back due on the line is dropped (R225). -/
def State.writeWord (s : State) (a : Nat) (bs : List Byte) : State :=
  let b := bankOf a
  let s := if (s.bank b).scrubRead = some (a % 0x18000 / 64) then s.setBank b { s.bank b with scrubRead := none } else s
  let m := s.mark a
  if m = 0 then s.setBytes a bs
  else if bs.length = 8 || m = 1 then (s.setMark a 0).setBytes a bs
  else (((s.setMark a 0).setBytes (a / 8 * 8) (List.replicate 8 0#8)).setBytes a bs).setBit (Reg.BK_STATUS b) 6 true

/-- Bytes written at a bank port, word by word. -/
def State.writePort (s : State) (a : Nat) : List (Nat × Nat) → List Byte → State
  | [], _ => s
  | p :: r, bs => (s.writeWord p.1 (bs.take p.2)).writePort a r (bs.drop p.2)

/-- Whether every bank under a span answers at once. Accesses that fail ownership wait for nothing (R222). -/
def State.spanReady (s : State) (ag : Agent) (write : Bool) (a n : Nat) : Bool :=
  if bankEnd ≤ a then true else
  (bankSpans a n).all (fun p => !s.ownerOk (bankOf p.1) ag write || s.served (bankOf p.1) = .yes || s.served (bankOf p.1) = .asleep)

/-- The wakes that an access over a span starts (R222). -/
def State.wakeSpan (s : State) (ag : Agent) (write : Bool) (a n : Nat) : State :=
  if bankEnd ≤ a then s else
  (bankSpans a n).foldl (fun s p =>
    if s.ownerOk (bankOf p.1) ag write && s.served (bankOf p.1) = .wakes then s.autoWake (bankOf p.1) else s) s

/-- One part of a read that lies in one line (R213, R218, R222): zeros where it is not served. -/
def State.readPart (s : State) (ag : Agent) (a n : Nat) : State × List Byte × Bool :=
  if !s.ownerOk (bankOf a) ag false then (s.notOwned a ag false, List.replicate n 0#8, false)
  else if s.served (bankOf a) = .yes then s.readPort a n
  else (s.asleep (bankOf a), List.replicate n 0#8, true)

/-- An access put among the held ones: behind those that came before it, and among those of its handshake by input (R212). -/
def insertHeld (h : HeldAccess) : List HeldAccess → List HeldAccess
  | [] => [h]
  | g :: r => if g.batch = h.batch && h.input < g.input then h :: g :: r else g :: insertHeld h r
/-- An access to one line, of an agent that may make it, held at the bank's port, where it starts a wake if the bank sleeps (R216, R220,
R222). `same` says that it arrived in the handshake of the one before it. -/
def State.holdAccess (s : State) (a n : Nat) (data : Option (List Byte)) (input : Nat) (same : Bool) : State :=
  let b := bankOf a
  let s := if s.served b = .wakes then s.autoWake b else s
  let l := (s.bank b).held
  let batch := match l.getLast? with
    | none => 0
    | some h => h.batch + b2n (!same)
  (s.setBank b { s.bank b with held := insertHeld ⟨a, n, data, s.tick, input, batch⟩ l }).numbered

/-- The port input of accesses from outside the motif (R212). -/
def tulleInput : Nat := 35

/-- One part of a write that lies in one line: dropped where it is not served, held where the bank makes it wait. -/
def State.writePart (s : State) (ag : Agent) (a : Nat) (bs : List Byte) : State :=
  if !s.ownerOk (bankOf a) ag true then s.notOwned a ag true
  else match s.served (bankOf a) with
  | .yes => s.writePort a (wordParts a bs.length) bs
  | .asleep => s.asleep (bankOf a)
  | _ => s.holdAccess a bs.length (some bs) tulleInput false

/-! ### Sources of events (R458) -/

def srcGround (g : Nat) : Nat := 0x2800 + g
def srcPanel (p : Nat) : Nat := 0x28A0 + p
def srcHoist (h : Nat) : Nat := 0x2900 + h
def srcChannel (c : Nat) : Nat := 0x2A00 + c
def srcPort (p : Nat) : Nat := 0x2B00 + p
def srcMM : Nat := 0x2B10
def srcFn (f : Nat) : Nat := 0x2C00 + f
def srcComponent (i : Nat) : Nat := 0x2D00 + i
def srcHf (h : Nat) : Nat := 0x2E00 + h
def srcSecurity : Nat := 0x2F00
def srcPower : Nat := 0x2F01
def srcJob (j : Nat) : Nat := 0x3000 + j

/-! ### The level tier (R236 to R240, R244, R245) -/

/-- Data capacity of a channel in bytes (R233). -/
def State.chanBytes (s : State) : Nat :=
  match s.pkgGiB with
  | [] => 0
  | e :: _ => 2 ^ 30 * (e.2 / 8) / 32 * 31
/-- The channel set of an EXT offset (R240): under SPREAD the one fixed as S4 ended, under PACKAGE the package's eight channels, where the
package is in service. -/
def State.chanSet (s : State) (o : Nat) : List Nat :=
  if s.bit Reg.HF_LD_CFG 2 then
    let k := o / (8 * s.chanBytes)
    if k < 12 && s.bit Reg.HF_LD_STATE k then (List.range 8).map (8 * k + ·) else []
  else s.spread
/-- The channel of an EXT offset and the byte in that channel (R240); none beyond the installed capacity. -/
def State.ldMap (s : State) (o : Nat) : Option (Nat × Nat) :=
  if s.chanBytes = 0 then none else
  let set := s.chanSet o
  let n := set.length
  let p := if s.bit Reg.HF_LD_CFG 2 then o % (8 * s.chanBytes) else o
  if n = 0 || n * s.chanBytes ≤ p then none else
  let u := p / 128
  let q := u / n
  some (set.getD ((u % n + q) % n) 0, 4096 * (q / 31) + q % 31 * 128 + p % 128)
/-- Whether an EXT access lies within the installed capacity (R127, R240). -/
def State.extOk (s : State) (a n : Nat) : Bool :=
  extBase ≤ a && a < hostBase && n ≠ 0 && (s.ldMap (a - extBase)).isSome && (s.ldMap (a + n - 1 - extBase)).isSome
/-- The first byte of the pair that holds an EXT address. -/
def pairBase (a : Nat) : Nat := a / 128 * 128
/-- LD_LAST_ERR of a channel. -/
def State.logPair (s : State) (c addr : Nat) (ue : Bool) : State :=
  s.wr (Reg.LD_LAST_ERR c) (BitVec.ofNat 32 (2 ^ 28 + addr / 4096 + 2 ^ 22 * (addr % 4096 / 128) + 2 ^ 27 * b2n ue))
/-- An uncorrectable pair met by a read (R238). -/
def State.pairUe (s : State) (c addr : Nat) : State :=
  ((s.setStatus (Reg.LD_STATUS c) 1 .LD_ECC_UE .info (srcChannel c) [addr / 4096, addr % 4096 / 128]).count (Reg.LD_ECC_COUNT c) 16 16 1).logPair c addr true
/-- A pair corrected by a read, symbol `sym` (R237). -/
def State.pairCe (s : State) (c addr sym : Nat) : State :=
  (((s.setStatus (Reg.LD_STATUS c) 0 .LD_ECC_CE .corrected (srcChannel c) [addr / 4096, addr % 4096 / 128]).count (Reg.LD_ECC_COUNT c) 0 16 1).logPair
    c addr false).setFld (Reg.LD_LAST_SYM c) 0 7 sym
/-- A check cache stored, the newest entry first: beyond 64 the oldest leave, and changed ones are written back (R238). -/
def State.setCache (s : State) (c : Nat) (l : List CheckEntry) : State :=
  (l.drop 64).foldl (fun (s : State) e => if e.changed then { s with areas := s.areas.put {} (2 ^ 22 * c + e.block) { kept := e.wrong } } else s)
    { s with checkCache := s.checkCache.put [] c (l.take 64) }
/-- The check area of a block brought into its channel's check cache, which on a miss reads it and corrects it (R238); its wrong check
symbols. An uncorrectable area is logged and its symbols stay as they are (DEDUCED, log entry 34). -/
def State.touchArea (s : State) (c block : Nat) : State × Errors :=
  let l := s.checkCache.get [] c
  let rest := l.filter (fun e => e.block ≠ block)
  match l.find? (fun e => e.block = block) with
  | some e => (s.setCache c (e :: rest), e.wrong)
  | none =>
    let a := s.areas.get {} (2 ^ 22 * c + block)
    let f := eccFind 64 a.errs
    let wrong := a.kept.addAll 62 (f.residue a.errs)
    let s := match f with
      | .clean => s
      | .fix i _ => s.pairCe c (4096 * block + 3968) i
      | .bad => s.pairUe c (4096 * block + 3968)
    (s.setCache c (⟨block, false, wrong⟩ :: rest), wrong)
/-- The two check symbols of a pair written fresh in the cached area of its block (R239). -/
def State.freshCheck (s : State) (c addr : Nat) : State :=
  let j := addr % 4096 / 128
  let clean := fun (e : CheckEntry) => { e with changed := true, wrong := (e.wrong.put 0 (2 * j) 0).put 0 (2 * j + 1) 0 }
  { s with checkCache := s.checkCache.put [] c ((s.checkCache.get [] c).map (fun e => if e.block = addr / 4096 then clean e else e)) }
/-- The errors of a pair's 66 symbols: those of its data, and of its check symbols in the area. -/
def State.pairErrors (s : State) (a addr : Nat) (wrong : Errors) : Errors :=
  let j := addr % 4096 / 128
  ((s.pairErrs.get [] (a / 128)).add 64 (wrong.get 0 (2 * j))).add 65 (wrong.get 0 (2 * j + 1))
/-- The bytes of a span within a pair as they are delivered with errors left in data symbols. A symbol is two bytes, the lower address in
its low bits. -/
def State.pairData (s : State) (a n : Nat) (left : Errors) : List Byte :=
  if left = [] then s.bytes a n
  else (s.bytes a n).zipIdx.map (fun e =>
    let o := (a + e.2) % 128
    e.1 ^^^ BitVec.ofNat 8 (left.get 0 (o / 2) / 2 ^ (8 * (o % 2))))
/-- A pair read (R238, R245): its records, and the errors left in what is delivered; none where it is delivered as zeros. -/
def State.readPair (s : State) (a : Nat) : State × Option Errors :=
  match s.ldMap (pairBase a - extBase) with
  | none => (s, none)
  | some (c, addr) =>
    if s.fld (Reg.LD_CH_STATE c) 0 2 = 3 then (s.pairUe c addr, none) else
    let r := s.touchArea c (addr / 4096)
    let e := r.1.pairErrors a addr r.2
    match eccFind 66 e with
    | .clean => (r.1, some e)
    | .fix i v => (r.1.pairCe c addr i, some (e.add i v))
    | .bad => (r.1.pairUe c addr, none)
/-- EXT bytes, pair by pair; an uncorrectable pair reads zeros. -/
def State.readExt (s : State) (a n : Nat) : State × List Byte × Bool :=
  (cutSpan 128 (n / 128 + 2) a n).foldl (fun acc p =>
    let r := acc.1.readPair p.1
    (r.1, acc.2.1 ++ (match r.2 with | some e => r.1.pairData p.1 p.2 e | none => List.replicate p.2 0#8), acc.2.2 || r.2.isNone)) (s, [], false)
/-- A pair stored with its check symbols fresh: the bytes that the code delivered, and `bs` over them. -/
def State.storePair (s : State) (c addr a : Nat) (left : Option Errors) (bs : List Byte) : State :=
  let base := pairBase a
  let s := match left with
    | some e => if e = [] then s else s.setBytes base (s.pairData base 128 e)
    | none => s.setBytes base (List.replicate 128 0#8)
  State.freshCheck { s.setBytes a bs with pairErrs := s.pairErrs.put [] (a / 128) [] } c addr
/-- Bytes written into one pair (R239): a whole pair at once, any other write by read-modify-write; a fenced channel drops it. -/
def State.writePair (s : State) (a : Nat) (bs : List Byte) : State :=
  match s.ldMap (pairBase a - extBase) with
  | none => s
  | some (c, addr) =>
    if s.fld (Reg.LD_CH_STATE c) 0 2 = 3 then s else
    let r := s.touchArea c (addr / 4096)
    let s := r.1
    let e := s.pairErrors a addr r.2
    if bs.length = 128 then s.storePair c addr a (some []) bs
    else match eccFind 66 e with
    | .clean => s.storePair c addr a (some e) bs
    | .fix i v => (s.pairCe c addr i).storePair c addr a (some (e.add i v)) bs
    | .bad => ((s.pairUe c addr).storePair c addr a none bs).setBit (Reg.LD_STATUS c) 3 true
/-- Bytes written into EXT, pair by pair. -/
def State.writePairs (s : State) : List (Nat × Nat) → List Byte → State
  | [], _ => s
  | p :: r, bs => (s.writePair p.1 (bs.take p.2)).writePairs r (bs.drop p.2)
def State.writeExt (s : State) (a : Nat) (bs : List Byte) : State := s.writePairs (cutSpan 128 (bs.length / 128 + 2) a bs.length) bs

/-! ### The deep tier (R246, R247, R367) -/

/-- Whether a deep window of KIND 0 is closed by its function's expired lease (R247). -/
def State.winClosed (s : State) (w : Nat) : Bool := !s.bit (Reg.HF_DEEP_WIN_CTL w) 1 && s.closed.get false w
/-- The deep window that covers a HOST access: the lowest-numbered one that is valid and holds every byte. -/
def State.deepWin (s : State) (a n : Nat) : Option Nat :=
  let off := a - hostBase
  (List.range 64).find? (fun w =>
    s.bit (Reg.HF_DEEP_WIN_CTL w) 0 && !s.winClosed w &&
    decide (s.rd2 (Reg.HF_DEEP_WIN_OFF_LO w) (Reg.HF_DEEP_WIN_OFF_HI w) ≤ off) &&
    decide (off + n ≤ s.rd2 (Reg.HF_DEEP_WIN_OFF_LO w) (Reg.HF_DEEP_WIN_OFF_HI w) + s.rd2 (Reg.HF_DEEP_WIN_SIZE_LO w) (Reg.HF_DEEP_WIN_SIZE_HI w)))
/-- The PCIe bus address of a HOST address through a window. -/
def State.busAddr (s : State) (w a : Nat) : Nat :=
  s.rd2 (Reg.HF_DEEP_WIN_BUS_LO w) (Reg.HF_DEEP_WIN_BUS_HI w) + (a - hostBase - s.rd2 (Reg.HF_DEEP_WIN_OFF_LO w) (Reg.HF_DEEP_WIN_OFF_HI w))
/-- The requesting function of a window. -/
def State.winFn (s : State) (w : Nat) : Nat := s.fld (Reg.HF_DEEP_WIN_CTL w) 5 4
/-- DEEP_UNMAPPED: a dropped write or an uncovered access. -/
def State.unmapped (s : State) (a : Nat) (write : Bool) : State :=
  s.raise .DEEP_UNMAPPED .info (srcHf 0) [a, b2n write]
/-- A deep read that ends in a timeout or an unsuccessful completion: DEEP_TIMEOUT, counted in its window (R247). -/
def State.deepTimeout (s : State) (w : Nat) : State :=
  (s.count (Reg.HF_DEEP_WIN_COUNT w) 0 16 1).raise .DEEP_TIMEOUT .info (srcHf 0) [w]
/-- The byte that the host returns at a bus address, as the command brings it; none where the read failed there. -/
def hostByte (host : List Host.Cell) (a : Nat) : Option Byte := (host.find? (fun c => c.1 = a)).map (·.2)
/-- The read requests of a HOST read, split at 256-byte boundaries (R246). -/
def State.sendReads (s : State) (w a n : Nat) : State :=
  (cutSpan 256 (n / 256 + 2) (s.busAddr w a) n).foldl (fun s p =>
    s.emit (.hostRead (s.winFn w) p.1 p.2 (s.bit (Reg.HF_DEEP_WIN_CTL w) 3) (s.bit (Reg.HF_DEEP_WIN_CTL w) 4))) s
/-- A HOST read: zeros and a failure where no window covers it, where bus mastering is off, or where a byte did not return. -/
def State.readHost (s : State) (a n : Nat) (host : List Host.Cell) : State × List Byte × Bool :=
  match s.deepWin a n with
  | none => (s.unmapped a false, List.replicate n 0#8, true)
  | some w =>
    let l := (List.range n).map (fun i => hostByte host (s.busAddr w a + i))
    if !s.busMaster.get false (s.winFn w) then (s, List.replicate n 0#8, true)
    else if l.any Option.isNone then ((s.sendReads w a n).deepTimeout w, List.replicate n 0#8, true)
    else (s.sendReads w a n, l.map (·.getD 0#8), false)
/-- The posted writes of a HOST write, split at 512-byte boundaries (R246). -/
def State.postWrites (s : State) (w : Nat) : List (Nat × Nat) → List Byte → State
  | [], _ => s
  | p :: r, bs => (s.emit (.hostWrite (s.winFn w) p.1 (bs.take p.2) (s.bit (Reg.HF_DEEP_WIN_CTL w) 3) (s.bit (Reg.HF_DEEP_WIN_CTL w) 4))).postWrites
      w r (bs.drop p.2)
/-- A HOST write. -/
def State.writeHost (s : State) (a : Nat) (bs : List Byte) : State :=
  match s.deepWin a bs.length with
  | none => s.unmapped a true
  | some w =>
    if s.bit (Reg.HF_DEEP_WIN_CTL w) 2 then s.unmapped a true
    else if !s.busMaster.get false (s.winFn w) then s
    else s.postWrites w (cutSpan 512 (bs.length / 512 + 2) (s.busAddr w a) bs.length) bs
/-! ### Device memory -/

/-- A read of device memory by an agent: BANK through the ports, EXT by pairs, HOST through the deep windows. The flag says that data
were uncorrectable or poisoned. -/
def State.readDev (s : State) (ag : Agent) (a n : Nat) (host : List Host.Cell) : State × List Byte × Bool :=
  if n = 0 then (s, [], false)
  else if a < bankEnd then
    (bankSpans a n).foldl (fun acc p =>
      let r := acc.1.readPart ag p.1 p.2
      (r.1, acc.2.1 ++ r.2.1, acc.2.2 || r.2.2)) (s, [], false)
  else if a < hostBase then s.readExt a n
  else s.readHost a n host

/-- The parts of a BANK write, one line each. -/
def State.writeParts (s : State) (ag : Agent) : List (Nat × Nat) → List Byte → State
  | [], _ => s
  | p :: r, bs => (s.writePart ag p.1 (bs.take p.2)).writeParts ag r (bs.drop p.2)

/-- A write of device memory by an agent: a HOST write leaves the module. -/
def State.writeDev (s : State) (ag : Agent) (a : Nat) (bs : List Byte) : State :=
  if bs = [] then s
  else if a < bankEnd then s.writeParts ag (bankSpans a bs.length) bs
  else if a < hostBase then s.writeExt a bs
  else s.writeHost a bs

/-! ### Units of a motif -/

/-- Motif, core and context of a context number. -/
def motifOf (x : Nat) : Nat := x / 128
def coreOf (x : Nat) : Nat := x % 128 / 4
def ctxIn (x : Nat) : Nat := x % 4
/-- The ground G of a motif (R12). -/
def groundOf (m : Nat) : Nat := m / 64
/-- The panel of a motif (R12). -/
def panelOf (m : Nat) : Nat := m / 2560

def State.context (s : State) (x : Nat) : Ctx := s.ctx.get {} x
def State.setContext (s : State) (x : Nat) (c : Ctx) : State := { s with ctx := s.ctx.put {} x c }
def State.task (s : State) (k : Nat) : Task := s.tasks.get {} k
def State.setTask (s : State) (k : Nat) (t : Task) : State := { s with tasks := s.tasks.put {} k t }
def State.core (s : State) (c : Nat) : CoreSt := s.cores.get {} c
def State.setCore (s : State) (c : Nat) (v : CoreSt) : State := { s with cores := s.cores.put {} c v }
/-- A token by its address: motif × 256 + token (R170). -/
def State.token (s : State) (a : Nat) : Token := s.tokens.get {} a
def State.setToken (s : State) (a : Nat) (v : Token) : State := { s with tokens := s.tokens.put {} a v }
/-- An array engine by motif and unit. -/
def State.engine (s : State) (m u : Nat) : Engine := s.engines.get {} (m * 5 + u)
def State.setEngine (s : State) (m u : Nat) (e : Engine) : State := { s with engines := s.engines.put {} (m * 5 + u) e }
def State.array (s : State) (m : Nat) : ArraySt := s.arrays.get {} m
def State.setArray (s : State) (m : Nat) (v : ArraySt) : State := { s with arrays := s.arrays.put {} m v }
def State.scale (s : State) (m i : Nat) : Word := s.srf.get 0#32 (m * 512 + i)
/-- A scale entry written whole; its reserved bits read zero (R101). -/
def State.setScale (s : State) (m i : Nat) (v : Word) : State := { s with srf := s.srf.put 0#32 (m * 512 + i) (v &&& 0x7FFFFFF#32) }
def State.queue (s : State) (m : Nat) : List Nat := s.queues.get [] m
def State.setQueue (s : State) (m : Nat) (q : List Nat) : State := { s with queues := s.queues.put [] m q }
def State.xfers (s : State) (m : Nat) : List XCmd := s.xferQ.get [] m
def State.setXfers (s : State) (m : Nat) (q : List XCmd) : State := { s with xferQ := s.xferQ.put [] m q }
def State.chainsOf (s : State) (m : Nat) : List Chain := s.chains.get [] m
def State.setChains (s : State) (m : Nat) (q : List Chain) : State := { s with chains := s.chains.put [] m q }
def State.entry (s : State) (i : Nat) : PlaitSt := s.plait.get {} i
def State.setEntry (s : State) (i : Nat) (v : PlaitSt) : State := { s with plait := s.plait.put {} i v }
def State.edge (s : State) (level node : Nat) : List Flit := s.edges.get [] (16384 * level + node)
def State.setEdge (s : State) (level node : Nat) (q : List Flit) : State := { s with edges := s.edges.put [] (16384 * level + node) q }
def State.job (s : State) (j : Nat) : JobSt := s.jobs.get {} j
def State.setJob (s : State) (j : Nat) (v : JobSt) : State := { s with jobs := s.jobs.put {} j v }

/-- What an unwritten word of the collective table reads (R334): MEMBER_STRIDE 1, MEMBER_COUNT 1, RANK 0x1_FFFF. -/
def collReset (k : Nat) : Word := match k % 8 with | 1 => 0x10000#32 | 2 => 1#32 | 3 => 0x1FFFF#32 | _ => 0#32
/-- Word w of a collective's descriptor. -/
def State.coll (s : State) (h w : Nat) : Word := s.colls.get (collReset w) (h * 8 + w)
def State.setColl (s : State) (h w : Nat) (v : Word) : State := { s with colls := s.colls.put (collReset w) (h * 8 + w) v }

/-- The scalar register of a task; s0 reads zero (R117). -/
def Task.sreg (t : Task) (r : Nat) : Word := if r = 0 then 0#32 else t.s.get 0#32 r
/-- A scalar register written; a write of s0 is discarded. Writing clears its poison bit (R151). -/
def Task.setS (t : Task) (r : Nat) (v : Word) : Task :=
  if r = 0 then t else { t with s := t.s.put 0#32 r v, poisonS := t.poisonS.put false r false }
/-- A vector register. -/
def Task.vreg (t : Task) (r : Nat) : Vec := t.v.get 0#256 r
def Task.setV (t : Task) (r : Nat) (v : Vec) : Task :=
  { t with v := t.v.put 0#256 r v, poisonV := t.poisonV.put false r false }
/-- A predicate; p0 reads all ones (R117). -/
def Task.preg (t : Task) (r : Nat) : Byte := if r = 0 then 0xFF#8 else t.p.get 0#8 r
def Task.setP (t : Task) (r : Nat) (v : Byte) : Task := if r = 0 then t else { t with p := t.p.put 0#8 r v }
/-- A descriptor register. -/
def Task.treg (t : Task) (r : Nat) : Line := t.t.get 0#512 r
def Task.setT (t : Task) (r : Nat) (v : Line) : Task :=
  { t with t := t.t.put 0#512 r v, poisonT := t.poisonT.put false r false }
/-- Flags raised in ARITH (R40). -/
def Task.flag (t : Task) (f : Flags) : Task := { t with arith := t.arith ||| BitVec.ofNat 32 (f.toNat * 16) }
/-- Flags raised in ARITH by a conversion to the tensor `tid`, which is kept for the first FZ and the first QCONST (R41). -/
def Task.noteFlags (t : Task) (f : Flags) (tid : Nat) : Task :=
  let t := t.flag f
  let t := if t.firstFZ = none ∧ f &&& flagFZ ≠ 0#8 then { t with firstFZ := some tid } else t
  if t.firstQC = none ∧ f &&& flagQCONST ≠ 0#8 then { t with firstQC := some tid } else t
/-- ARITH.RM as a rounding. -/
def Task.rm (t : Task) : Rm := Rm.ofCode (bitsOf t.arith.toNat 0 2)
/-- ARITH.SUBOUT: flush. -/
def Task.flush (t : Task) : Bool := bitOf t.arith.toNat 3
/-- Start value of a control word (R122). -/
def cwStart : Nat → Word
  | 5 => 0x010000#32 | 6 => 0x800000#32 | 7 => 0x3C23D70A#32 | 8 => 0x211F#32 | _ => 0#32
/-- A control word 1 to 8 of a task. -/
def Task.cword (t : Task) (i : Nat) : Word := t.cw.get (cwStart i) i
def Task.setCw (t : Task) (i : Nat) (v : Word) : Task := { t with cw := t.cw.put (cwStart i) i v }

/-- The context that holds a task. -/
def State.ctxOfTask (s : State) (k : Nat) : Option Nat :=
  (s.ctx.find? (fun e => e.2.task = some k)).map (·.1)

/-- Whether the task exists. -/
def State.alive (s : State) (k : Nat) : Bool := s.tasks.any (fun e => e.1 = k)

/-- Job slot of a task key. -/
def slotOf (k : Nat) : Nat := k / 2 ^ 32

/-- Flags ORed into a job slot's FLAG_SUMMARY, with one FZ and one QCONST event where those bits were clear (R41); `tz` and `tq` name
the tensors of the first conversions that raised them. -/
def State.sumFlags (s : State) (slot f tz tq : Nat) : State :=
  let old := s.fld (Reg.PN_JOB_FLAGS slot) 0 8
  let s := s.setFld (Reg.PN_JOB_FLAGS slot) 0 8 (old ||| f)
  let step := (s.rd (Reg.PN_JOB_STEP_LO slot)).toNat
  let s := if bitOf f 5 && !bitOf old 5 then s.raise .FZ .info (0x3000 + slot) [slot, step, tz] else s
  if bitOf f 7 && !bitOf old 7 then s.raise .QCONST .info (0x3000 + slot) [slot, step, tq] else s

/-- The flags a unit raises for a task (R40): into its ARITH, or into FLAG_SUMMARY once the task has ended (R176). `tid` names the
tensor of the conversion. -/
def State.flagTask (s : State) (k : Nat) (f : Flags) (tid : Nat) : State :=
  if f = 0#8 then s
  else if s.alive k then s.setTask k ((s.task k).noteFlags f tid)
  else s.sumFlags (slotOf k) f.toNat tid tid

/-- A token incremented (R159, R170). -/
def State.bumpToken (s : State) (a n : Nat) (err : Bool) : State :=
  let t := s.token a
  s.setToken a { t with
    count := satTo 255 (t.count + n), sat := t.sat || decide (255 < t.count + n), err := t.err || err }

/-- Whether a job slot owns the window of a token (R159, R171). -/
def State.ownsToken (s : State) (slot a : Nat) : Bool :=
  s.bit (Reg.MT_TOK_OWNER (a / 256) (a % 256 / 32)) 6 && s.fld (Reg.MT_TOK_OWNER (a / 256) (a % 256 / 32)) 0 6 = slot

/-- Whether a job slot owns the window of a scale entry (R103). -/
def State.ownsScale (s : State) (slot m i : Nat) : Bool :=
  i < 512 && s.bit (Reg.MT_SRF_OWNER m (i / 32)) 6 && s.fld (Reg.MT_SRF_OWNER m (i / 32)) 0 6 = slot

/-- A unit's report on a chain's stage: 0 ended, 1 ended with ERR, otherwise the fault's code (R179, R192). -/
def State.landStage (s : State) (c : Option (Nat × Nat × Nat)) (report : Nat) : State :=
  match c with
  | none => s
  | some c => s.setChains c.1 ((s.chainsOf c.1).map (fun ch =>
      if ch.info.id = c.2.1 then { ch with landed := ch.landed ++ [(c.2.2, report)] } else ch))

/-- A unit command ends: it leaves the task's CMD_OUT and increments its token (R159); a chain's stage is reported to its chain. -/
def State.endCmd (s : State) (c : CmdInfo) (err : Bool) : State :=
  let s := s.landStage c.chain (b2n err)
  let s := if s.alive c.key then s.setTask c.key { s.task c.key with cmds := (s.task c.key).cmds.erase c.id } else s
  match c.token with
  | none => s
  | some a => s.bumpToken a 1 err

/-- A unit reports a deferred fault; the command it ends sets ERR (R150, R159). A chain's stage reports it to its chain. -/
def State.deferFault (s : State) (code : Code) (c : CmdInfo) (addr detail : Nat) : State :=
  if c.chain.isSome then s.landStage c.chain (codeNumber code) else
  let s : State := { s with deferred := s.deferred ++ [{ code := code, cmd := c, addr := addr, detail := detail }] }
  s.endCmd c true

/-- The firmware's note that the repair maps or fence states changed: a log-flash write waits (R232). -/
def State.noteMaps (s : State) : State :=
  { s with flash := { s.flash with jobs := s.flash.jobs.filter (· ≠ .maps) ++ [.maps] } }

/-- The agent of a job slot's accesses (R214). -/
def jobAgent (slot : Nat) : Agent := .owner 1 slot

end Sys2Proof.Machine
end

