-- ==== Sys2Proof/Machine/Component.lean ====
section
/-! DEFINITION. The register writes of Icaux's components (R392): each one's memory-protection region, and the fault of a write outside it. -/

namespace Sys2Proof.Machine

/-- The register ranges that a component may write outside the motifs' and banks' blocks. -/
def componentRanges : Nat → List (Nat × Nat)
  | 0 => [(0xA0000, 0xE0000), (Reg.HF_FW_CTL, Reg.HF_FW_PAUSE + 4), (Reg.HF_CS_SEL, Reg.HF_CS_SEL + 4)]
  | 1 => [(Reg.PN_JOB_CTL 0, Reg.PN_JOB_CTL 64), (Reg.PN_JOBMAP_CTL 0, Reg.PN_JOBMAP_CTL 64), (Reg.PN_SCHED_WAIT, Reg.PN_ROT + 4),
      (Reg.PN_PLAIT_CTL 0, Reg.PN_PLAIT_CTL 256), (0x280000, 0x300000)]
  | 2 => [(Reg.HF_LD_CFG, Reg.HF_LD_CAL + 4), (Reg.HF_DEEP_WIN_OFF_LO 0, Reg.HF_DEEP_WIN_OFF_LO 64), (0x1100, 0x1300), (0x21100, 0x21300),
      (0x120000, 0x200000), (0x240000, 0x280000), (Reg.BK_OWNER 0, Reg.BK_OWNER 40960)]
  | 3 => [(0x110000, 0x120000), (0x2000, 0x2100), (0x22000, 0x22100), (Reg.HF_GROUP_ID 0, Reg.HF_GROUP_ID 64), (0x3000, 0x4000)]
  | 4 => [(0x80000, 0xA0000)]
  | 5 => [(Reg.EV_CTL, Reg.EV_CTL + 4)]
  | 6 => [(0x100000, 0x110000)]
  | _ => []

/-- Whether a component may write a register. Entries of the plait belong to the dispatcher where their job slot serves. -/
def State.componentMay (s : State) (c a : Nat) (v : Word) : Bool :=
  let i := (a - Reg.PN_PLAIT_CTL 0) / 0x80
  let slot := if a = Reg.PN_PLAIT_CTL i then bitsOf v.toNat 14 6 else s.fld (Reg.PN_PLAIT_CTL i) 14 6
  (componentRanges c).any (fun r => r.1 ≤ a && a < r.2) ||
  (c = 1 && decide (0x800000 ≤ a) && decide (a < 0x1200000) &&
    (let o := (a - 0x800000) % 0x400
     o = 0x2C0 || (decide (0x100 ≤ o) && decide (o < 0x140)) || (decide (0x240 ≤ o) && decide (o < 0x260)))) ||
  (c = 1 && decide (Reg.BK_OWNER 0 ≤ a) && decide (a < Reg.BK_OWNER 40960) && a % 64 = 0) ||
  (c = 7 && decide (Reg.PN_PLAIT_CTL 0 ≤ a) && decide (a < Reg.PN_PLAIT_CTL 256) &&
    s.fld (Reg.PN_JOB_CTL slot) 0 2 = 0)

/-- A register write as its writer makes it: a component's is firmware's within its region; one outside it stops the component, which
COMPONENT_RESTART then restarts, and a stopped component writes nothing (R392, R394). -/
def State.byWriter (s : State) (w : Writer) (a : Nat) (v : Word) (f : Writer → State) : State :=
  match w with
  | .component c =>
    if s.fw.stopped.contains c then s
    else if s.componentMay c (regHome a) v then f .firmware
    else { s with fw := { s.fw with stopped := s.fw.stopped ++ [c] } }
  | w => f w

end Sys2Proof.Machine
end

