-- ==== Sys2Proof/Machine/Ports.lean ====
section
/-! DEFINITION. The transmit side of the fabric ports (R349, R351 to R355) and the routes through the switchless mesh (R339). -/

namespace Sys2Proof.Machine

def State.port (s : State) (p : Nat) : PortSt := s.ports.get {} p
def State.setPort (s : State) (p : Nat) (v : PortSt) : State := { s with ports := s.ports.put {} p v }

/-- Whether a port is in service: LINK reads 1 (R349). -/
def State.inService (s : State) (p : Nat) : Bool := p < 8 && s.bit (Reg.FM_LINK p) 0
/-- A headframe's ports in service. -/
def State.portsUp (s : State) (hf : Nat) : List Nat := [4 * hf, 4 * hf + 1, 4 * hf + 2, 4 * hf + 3].filter s.inService

/-- A 64-bit statistics counter (R357) counts `k` more, saturating. -/
def State.count64 (s : State) (lo hi k : Nat) : State :=
  let v := min (2 ^ 64 - 1) (s.rd2 lo hi + k)
  (s.wr lo (BitVec.ofNat 32 v)).wr hi (BitVec.ofNat 32 (v / 2 ^ 32))

/-- Whether a priority may not start a frame: paused, and not broken free by the watchdog (R352, R354). -/
def PortSt.stopped (p : PortSt) (q : Nat) : Bool := p.paused.get 0 q ≠ 0 && !p.txBroken.contains q

/-- The first queued frame of a priority. -/
def PortSt.head (p : PortSt) (q : Nat) : Option TxFrame := p.queue.find? (fun f => f.prio = q)
/-- A priority with a frame it may start. -/
def PortSt.eligible (p : PortSt) (q : Nat) : Option TxFrame := if p.stopped q then none else p.head q

/-- A frame taken from a port's queue to be sent. -/
def PortSt.take (p : PortSt) (f : TxFrame) : PortSt := { p with queue := p.queue.erase f, sending := some f }

/-- TX_WEIGHT of a priority (R351). -/
def State.txWeight (s : State) (port q : Nat) : Nat := max 1 (s.fld (Reg.FM_TX_SCHED port) (4 * q) 4)

/-- Deficit round-robin over priorities 0 to 5 (R351). `visit` holds the priority visited × 2, plus 1 once its weight was added. -/
def drr (weight : Nat → Nat) : Nat → PortSt → PortSt
  | 0, p => p
  | n + 1, p =>
    let q := p.visit / 2 % 6
    match p.eligible q with
    | none => drr weight n { p with visit := (q + 1) % 6 * 2, deficit := if p.head q = none then p.deficit.put 0 q 0 else p.deficit }
    | some f =>
      let d := p.deficit.get 0 q + if p.visit % 2 = 0 then 4096 * weight q else 0
      if f.octets ≤ d then { p.take f with visit := 2 * q + 1, deficit := p.deficit.put 0 q (d - f.octets) }
      else drr weight n { p with visit := (q + 1) % 6 * 2, deficit := p.deficit.put 0 q d }

/-- The next frame a port that sends nothing starts (R351, R353): PFC frames, then priorities 7 and 6, then the others in turn. -/
def PortSt.choose (p : PortSt) (weight : Nat → Nat) : PortSt :=
  if p.sending.isSome then p else
  match p.urgent with
  | f :: r => { p with urgent := r, sending := some f }
  | [] =>
    match p.eligible 7, p.eligible 6 with
    | some f, _ => p.take f
    | none, some f => p.take f
    | none, none => if [0, 1, 2, 3, 4, 5].any (fun q => (p.eligible q).isSome) then drr weight 40 p else p

/-- A port starts its next frame if it can. -/
def State.kick (s : State) (p : Nat) : State := if s.inService p then s.setPort p ((s.port p).choose (s.txWeight p)) else s

/-! ### Transaction tags (R248, R249) -/

/-- Tags that a job slot holds in a headframe. -/
def State.tagsHeld (s : State) (hf slot : Nat) : Nat := (s.tags.filter (fun t => t.hf = hf && t.slot = some slot)).length
/-- The tag of a job slot that stands first in the tables: headframe × 65,536 + number, all ones with none. -/
def State.firstTag (s : State) (slot : Nat) : Nat :=
  match s.tags.find? (fun t => t.slot = some slot) with
  | some t => 65536 * t.hf + t.num
  | none => 0xFFFFFFFF
/-- Tags held in a headframe. -/
def State.tagsUsed (s : State) (hf : Nat) : Nat := (s.tags.filter (fun t => t.hf = hf)).length

/-- Whether a request finds a free tag: a job slot within its quota, and the last SERVE_RESERVE tags for SERVE slots, firmware and refresh. -/
def State.tagAvail (s : State) (hf : Nat) (slot : Option Nat) : Bool :=
  let used := s.tagsUsed hf
  let high := match slot with
    | none => true
    | some j => s.fld (Reg.PN_JOB_CTL j) 0 2 = 0
  let quota := match slot with
    | none => true
    | some j => decide (s.tagsHeld hf j < s.fld (Reg.HF_TAG_QUOTA hf j) 0 17)
  used < 65536 && quota && (high || used + s.fld (Reg.HF_TAG_RESERVE hf) 0 17 < 65536)

/-- Whether a new request takes a tag at once: one is free for it and no waiting request may have it first. -/
def State.tagFree (s : State) (hf : Nat) (slot : Option Nat) : Bool :=
  s.tagAvail hf slot && !s.tagWait.any (fun w => w.hf = hf && s.tagAvail hf w.slot)

/-- IN_USE of both headframes shows their tables. -/
def State.showTags (s : State) : State :=
  (s.setFld (Reg.HF_TAG_IN_USE 0) 0 17 (s.tagsUsed 0)).setFld (Reg.HF_TAG_IN_USE 1) 0 17 (s.tagsUsed 1)

/-- A tag taken, the lowest-numbered free one. -/
def State.takeTag (s : State) (w : TagWait) : State :=
  let here := s.tags.filter (fun t => t.hf = w.hf)
  let num := ((List.range (here.length + 1)).find? (fun n => !here.any (fun t => t.num = n))).getD 0
  let s : State := { s with tags := s.tags ++ [⟨w.hf, num, w.user, w.slot, w.addr, w.size, s.usecN.toNat⟩] }
  s.showTags.setFld (Reg.HF_TAG_HIGH w.hf) 0 17 (max (s.tagsUsed w.hf) (s.fld (Reg.HF_TAG_HIGH w.hf) 0 17))

/-- The first `n` tags that a user holds in a headframe taken out of a table. -/
def dropTags (hf : Nat) (u : TagUser) : Nat → List Tag → List Tag
  | 0, l => l
  | _ + 1, [] => []
  | n + 1, t :: r => if t.hf = hf ∧ t.user = u then dropTags hf u n r else t :: dropTags hf u (n + 1) r
/-- `n` tags of a user freed. -/
def State.freeTags (s : State) (hf : Nat) (u : TagUser) (n : Nat) : State := State.showTags { s with tags := dropTags hf u n s.tags }
/-- Every tag of the users of a kind freed, and their requests withdrawn. -/
def State.freeUsers (s : State) (f : TagUser → Bool) : State :=
  if s.tags.any (fun t => f t.user) || s.tagWait.any (fun w => f w.user) then
    State.showTags { s with tags := s.tags.filter (fun t => !f t.user), tagWait := s.tagWait.filter (fun w => !f w.user) }
  else s
/-- Every tag of one user freed. -/
def State.freeUser (s : State) (u : TagUser) : State := s.freeUsers (· = u)

/-- A request that finds no free tag waits and is counted (R249). -/
def State.stallTag (s : State) (w : TagWait) : State :=
  ({ s with tagWait := s.tagWait ++ [w] } : State).count (Reg.HF_TAG_STALLS w.hf) 0 32 1

/-- A tag asked for: taken at once, or the request waits. -/
def State.askTag (s : State) (w : TagWait) : State := if s.tagFree w.hf w.slot then s.takeTag w else (s.stallTag w).numbered

/-- The transactions that a task's access outside the banks makes: headframe, address and size (R246, R248). -/
def State.transactions (s : State) (write : Bool) (a n : Nat) : List (Nat × Nat × Nat) :=
  if a < bankEnd then []
  else if a < hostBase then
    (cutSpan 128 (n / 128 + 2) a n).filterMap (fun p => (s.ldMap (pairBase p.1 - extBase)).map (fun c => (c.1 / 48, p.1, p.2)))
  else match s.deepWin a n with
    | none => []
    | some w =>
      if !s.busMaster.get false (s.winFn w) || (write && s.bit (Reg.HF_DEEP_WIN_CTL w) 2) then []
      else (cutSpan (if write then 512 else 256) (n / 256 + 2) (s.busAddr w a) n).map (fun p => (0, p.1, p.2))
/-- Tags asked for each of them. -/
def State.askTags (s : State) (slot : Nat) (u : TagUser) (l : List (Nat × Nat × Nat)) : State :=
  l.foldl (fun s t => s.askTag { hf := t.1, slot := some slot, age := s.tick, user := u, addr := t.2.1, size := t.2.2 }) s
/-- Whether a user still waits for a tag, or holds any. -/
def State.tagWaits (s : State) (u : TagUser) : Bool := s.tagWait.any (fun w => w.user = u)
def State.holdsTag (s : State) (u : TagUser) : Bool := s.tags.any (fun t => t.user = u)

/-! ### Responses (R329) -/

/-- The tag user of a response packet. -/
def rspUser (k : GftPacket) : TagUser := .rsp k.typ k.group k.dst k.msg
/-- The tag of a response freed as its last packet leaves the queue of a port. -/
def State.rspGone (s : State) (port : Nat) (f : TxFrame) : State :=
  match f.packet with
  | some k => if k.last && (k.typ = 2 || k.typ = 5) then s.freeTags (port / 4) (rspUser k) 1 else s
  | none => s

/-! ### Queues of frames -/

/-- A frame queued on a port. A port out of service, a priority under a DISCARD break, and a frame above MAX_FRAME drop it, and a
response's tag with its last packet (R349, R354). -/
def State.queueFrame (s : State) (p : Nat) (f : TxFrame) : State :=
  if !s.inService p || s.fld (Reg.FM_FRAME p) 0 14 < f.octets || ((s.port p).txBroken.contains f.prio && s.bit (Reg.FM_WD p) 28) then s.rspGone p f
  else (s.setPort p { s.port p with queue := (s.port p).queue ++ [f] }).kick p

/-- A PFC frame of one priority goes out ahead of every queued frame (R353). -/
def State.sendPfc (s : State) (p q time : Nat) : State :=
  (s.setPort p { s.port p with urgent := (s.port p).urgent ++ [{ prio := q, octets := 64, pfc := some (q, time) }] }).kick p

/-- MESH of HF_GFT_CFG, and the other settings of it. -/
def State.mesh (s : State) : Bool := s.bit Reg.HF_GFT_CFG 20
def State.spray (s : State) : Bool := s.bit Reg.HF_GFT_CFG 19
def State.jumbo (s : State) : Bool := s.bit Reg.HF_GFT_CFG 18

/-- The port of a headframe that carries traffic to the module at XOR distance `x`, directly or by its first relay hop (R339). -/
def meshPort (hf x : Nat) : Option Nat :=
  if hf = 0 then (match x with | 1 => some 0 | 2 => some 1 | 4 => some 2 | 7 => some 3 | 3 => some 0 | 5 => some 1 | 6 => some 3 | _ => none)
  else (match x with | 3 => some 4 | 5 => some 5 | 6 => some 6 | 7 => some 7 | 1 => some 6 | 2 => some 5 | 4 => some 4 | _ => none)

/-- The port cabled directly to the module at a distance, on whichever headframe (R339); distance 7 has one on each. -/
def directPort (hf x : Nat) : Option Nat :=
  match x with
  | 1 => some 0 | 2 => some 1 | 4 => some 2 | 3 => some 4 | 5 => some 5 | 6 => some 6 | 7 => some (if hf = 0 then 3 else 7) | _ => none

/-- Priority of a class (HF_GFT_PRIO). -/
def State.classPrio (s : State) (cls : Nat) : Nat := s.fld Reg.HF_GFT_PRIO (3 * min cls 5) 3

/-- The job slot of a group: the lowest-numbered one that belongs to it. -/
def State.slotOfGroup (s : State) (g : Nat) : Option Nat :=
  (List.range 64).find? (fun j => s.bit (Reg.HF_GROUP_MODULE j) 16 && s.fld (Reg.HF_GROUP_ID j) 0 16 = g)
/-- A word of a peer map entry of a job slot's group (R320). -/
def State.peerWord (s : State) (j i w : Nat) : Nat :=
  ofBytes (s.bytes (s.rd2 (Reg.HF_GROUP_PEER_LO j) (Reg.HF_GROUP_PEER_HI j) + 32 * i + 4 * w) 4)

/-- The eight words of the GFT header (R322). -/
def headerWords (k : GftPacket) : List Word :=
  [2 ^ 28 * k.ver + 2 ^ 24 * k.typ + 2 ^ 21 * k.cls + 2 ^ 20 * b2n k.last + 2 ^ 19 * b2n k.solicit + 2 ^ 18 * b2n k.retx +
      2 ^ 17 * b2n k.ackv + k.group,
    2 ^ 16 * k.src + k.dst, k.epoch, k.psn, k.ackPsn, 2 ^ 16 * k.handle + k.payload.length, k.off, k.msg].map (BitVec.ofNat 32)

/-- The layers of a packet's frame (R321). What goes to a front end outside any group has no peer map entry, so the manual gives no
address for it; the next hop is of no use in a mesh. -/
def State.frameLayers (s : State) (hash : Nat) (k : GftPacket) : FrameLayers :=
  let peer := if k.group = 0xFFFF then none else (s.slotOfGroup k.group).map (fun j => s.peerWord j k.dst)
  let prio := s.classPrio k.cls
  let v6 := match peer with
    | some w => bitOf (w 0) 1
    | none => s.bit Reg.HF_GFT_CFG 16
  { pcp := if s.bit Reg.HF_GFT_CFG 17 then some prio else none
    ipv6 := v6
    addr := peer.map (fun w => if v6 then ((w 1 * 2 ^ 32 + w 2) * 2 ^ 32 + w 3) * 2 ^ 32 + w 4 else w 1)
    nextMac := if s.mesh then none else peer.map (fun w => 2 ^ 16 * w 6 + w 7 % 2 ^ 16)
    dstPort := peer.map (fun w => w 5 % 2 ^ 16)
    dscp := 8 * prio
    srcPort := 0xC000 ||| (weaveMix hash % 2 ^ 10 * 2 ^ 4) ||| (if s.spray then k.psn % 16 else 0)
    header := headerWords k }

/-- Octets of a packet's frame with the FCS (R321). -/
def FrameLayers.octets (l : FrameLayers) (k : GftPacket) : Nat :=
  k.payload.length + 32 + 8 + (if l.ipv6 then 40 else 20) + 14 + (if l.pcp.isSome then 4 else 0) + 4

/-- The port that carries a packet of a headframe; `hash` stands for its connection (R321, R338, R339). -/
def State.portFor (s : State) (hf hash : Nat) (k : GftPacket) : Option Nat :=
  if s.mesh then (if k.typ = 0 then meshPort hf (k.src ^^^ k.dst) else directPort hf (k.src ^^^ k.dst))
  else
    let up := s.portsUp hf
    if up = [] then none
    else some (up.getD ((if s.spray && k.typ ≠ 7 then k.psn else weaveMix hash) % up.length) 0)

/-- A packet handed to the port that carries it. With none, it is not sent; a retransmission finds a port later. -/
def State.transmit (s : State) (hf hash : Nat) (k : GftPacket) : State :=
  match s.portFor hf hash k with
  | none => s
  | some p =>
    let l := s.frameLayers hash k
    s.queueFrame p { prio := s.classPrio k.cls, octets := l.octets k, layers := some l, packet := some k }

end Sys2Proof.Machine
end

