-- ==== Sys2Proof/Machine/Rings.lean ====
section
/-! DEFINITION. Completion records, their rings and interrupts, and result slots (R374 to R379). -/

namespace Sys2Proof.Machine

/-! ### Functions and job slots -/

/-- Whether a job slot is in a function's JOB_MASK. -/
def State.inMask (s : State) (f j : Nat) : Bool :=
  if j < 32 then s.bit (Reg.PC_JOB_MASK_LO f) j else j < 64 && s.bit (Reg.PC_JOB_MASK_HI f) (j - 32)
/-- The function whose JOB_MASK names a job slot: the lowest-numbered one. -/
def State.fnOf (s : State) (j : Nat) : Option Nat := (List.range 16).find? (fun f => s.inMask f j)
/-- The job slots of a function. -/
def State.slotsOf (s : State) (f : Nat) : List Nat := (List.range 64).filter (s.inMask f)

def State.fn (s : State) (f : Nat) : FnSt := s.fns.get {} f
def State.setFn (s : State) (f : Nat) (v : FnSt) : State := { s with fns := s.fns.put {} f v }
/-- Whether a function's lease is live (R381, R382). -/
def State.leaseLive (s : State) (f : Nat) : Bool := !s.bit (Reg.PC_LEASE f) 14
/-- Whether a function's lease timer has reached LEASE_MS (R381). -/
def State.leaseOver (s : State) (f : Nat) : Bool := (s.fn f).renewed + 1000 * s.fld (Reg.PC_LEASE f) 0 14 ≤ s.usecN.toNat

/-! ### Rings. A ring is named by function × 16 + queue -/

def State.ring (s : State) (r : Nat) : RingSt := s.rings.get {} r
def State.setRing (s : State) (r : Nat) (v : RingSt) : State := { s with rings := s.rings.put {} r v }
/-- Entries of a ring. -/
def State.ringSize (s : State) (r : Nat) : Nat := 2 ^ s.fld (Reg.PC_RING_CFG (r / 16) (r % 16)) 0 5
def State.ringHead (s : State) (r : Nat) : Nat := s.fld (Reg.PC_RING_PTR (r / 16) (r % 16)) 0 16
def State.ringTail (s : State) (r : Nat) : Nat := s.fld (Reg.PC_RING_PTR (r / 16) (r % 16)) 16 16
/-- R376. -/
def State.ringFull (s : State) (r : Nat) : Bool := (s.ringTail r + 1) % s.ringSize r = s.ringHead r % s.ringSize r

/-- The eight words of a record as it is written (R374). -/
def State.recordWords (s : State) (r : Nat) (c : RingRec) : List Nat :=
  [c.status % 2 ^ 16 + 2 ^ 16 * b2n (!(s.ring r).flipped) + 2 ^ 17 * b2n c.valid + 2 ^ 18 * c.kind + 2 ^ 20 * (r % 16) + 2 ^ 24 * c.credits,
   c.seq, c.rslot + 2 ^ 16 * c.slot, s.fld (Reg.PN_JOB_FLAGS c.slot) 0 8,
   (s.rd (Reg.PN_JOB_STEP_LO c.slot)).toNat, (s.rd (Reg.PN_JOB_STEP_HI c.slot)).toNat, c.detail % 2 ^ 32, c.detail / 2 ^ 32]

/-- Credits returned to a queue (R370). -/
def State.addCredits (s : State) (r n : Nat) : State :=
  s.setFld (Reg.PC_QUEUE_CREDITS (r / 16) (r % 16)) 0 9 (min 256 (s.fld (Reg.PC_QUEUE_CREDITS (r / 16) (r % 16)) 0 9 + n))

/-- The ring's vector is sent (R377). -/
def State.signal (s : State) (r : Nat) : State :=
  if (s.ring r).unsignalled = 0 then s
  else (s.setRing r { s.ring r with unsignalled := 0 }).emit (.msix (r / 16) (s.fld (Reg.PC_RING_CFG (r / 16) (r % 16)) 6 7))

/-- One record written at TAIL (R374, R375). -/
def State.putRecord (s : State) (r : Nat) (c : RingRec) : State :=
  let f := r / 16
  let q := r % 16
  let a := s.rd2 (Reg.PC_RING_BASE_LO f q) (Reg.PC_RING_BASE_HI f q) + 32 * (s.ringTail r % s.ringSize r)
  let b := (s.recordWords r c).flatMap (toBytes 4)
  let s := if s.bit (Reg.PC_RING_CFG f q) 5 then
      (s.emit (.hostWrite f (a + 4) (b.drop 4) false false)).emit (.hostWrite f a (b.take 4) false false)
    else s.emit (.hostWrite f a b false false)
  let next := (s.ringTail r + 1) % s.ringSize r
  let s := s.setFld (Reg.PC_RING_PTR f q) 16 16 next
  let t := s.ring r
  let s := s.setRing r { t with flipped := if next = 0 then !t.flipped else t.flipped, unsignalled := t.unsignalled + 1 }
  let s := s.addCredits r c.credits
  if s.fld (Reg.PC_RING_MOD f q) 8 16 = 0 || max 1 (s.fld (Reg.PC_RING_MOD f q) 0 8) ≤ (s.ring r).unsignalled then s.signal r else s

/-- A record due on a ring: lost where the function's writes are stopped, waiting where the ring is full or others wait (R367, R376,
R383). -/
def State.writeRecord (s : State) (r : Nat) (c : RingRec) : State :=
  let f := r / 16
  if (s.fn f).muted || !s.busMaster.get false f then (s.addCredits r c.credits).count (Reg.PC_LOST_RECORDS f) 0 32 1
  else if s.ringFull r || (s.ring r).waiting ≠ [] then
    (s.setRing r { s.ring r with waiting := (s.ring r).waiting ++ [c] }).setStatus (Reg.PC_STATUS f) 2 .PC_RING_FULL .info (srcFn f) [r % 16]
  else s.putRecord r c

/-- Waiting records written while the ring has room. -/
def State.drainRing (s : State) (r : Nat) : Nat → State
  | 0 => s
  | n + 1 =>
    match (s.ring r).waiting with
    | [] => s
    | c :: rest => if s.ringFull r then s else ((s.setRing r { s.ring r with waiting := rest }).putRecord r c).drainRing r n

/-! ### Result slots (R378, R379) -/

def State.result (s : State) (k : Nat) : ResultSt := s.results.get {} k
def State.setResult (s : State) (k : Nat) (v : ResultSt) : State := { s with results := s.results.put {} k v }

/-! ### Capsules in progress -/

/-- The DONE records of a queue's ended capsules written, in SEQ order (R374). In the pause of a shift change they wait for its end
(R398). -/
def State.flushDone (s : State) (r : Nat) : Nat → State
  | 0 => s
  | n + 1 =>
    if s.fw.shift = 3 then s else
    match s.capsules.get [] r with
    | [] => s
    | c :: rest =>
      match c.done with
      | none => s
      | some (status, detail) =>
        let s : State := { s with capsules := s.capsules.put [] r rest }
        (s.writeRecord r ⟨status, c.rslot.isSome, 0, 1, c.seq, c.rslot.getD 0, c.slot, detail⟩).flushDone r n

/-- The records of every queue that may be written. -/
def State.flushAll (s : State) : State := (s.capsules.map (·.1)).foldl (fun s r => s.flushDone r 256) s

/-- A capsule ends: its result is stored and its slot set VALID, then its DONE record is due (R374, R379). -/
def State.endCapsule (s : State) (r seq status detail : Nat) (payload : List Byte) : State :=
  let l := s.capsules.get [] r
  match l.find? (fun c => c.seq = seq && c.done = none) with
  | none => s
  | some c =>
    let s := match c.rslot with
      | none => s
      | some k => s.setResult (65536 * (r / 16) + k) { s.result (65536 * (r / 16) + k) with
          st := 2, seq := seq, status := status, slot := c.slot, payload := payload.take 4032 }
    let s : State := { s with capsules := s.capsules.put [] r (l.map (fun x => if x = c then { x with done := some (status, detail) } else x)) }
    s.flushDone r 256

/-- SEQ of the latest event raised, as the event unit will number it (R460). -/
def State.eventSeq (s : State) : Nat := s.rd2 Reg.EV_LAST_LO Reg.EV_LAST_HI + s.evq.length

/-! ### Records of a job slot -/

/-- A STEP record of a job slot, on the ring of the queue that sent its JOB_LOAD; its SEQ is that of the oldest STEPS capsule whose steps
are still to be reported. -/
def State.stepRecord (s : State) (slot status detail : Nat) : State :=
  let j := s.jobs.get {} slot
  let seq := match j.stepSeqs with | [] => 0 | e :: _ => e.1
  let rest := match j.stepSeqs with | [] => [] | e :: r => if e.2 ≤ 1 then r else (e.1, e.2 - 1) :: r
  let s : State := { s with jobs := s.jobs.put {} slot { j with stepSeqs := rest } }
  match j.ring with
  | none => s
  | some r => s.writeRecord r ⟨status, false, 1, 0, seq, 0, slot, detail⟩

/-- `n` STEP records. -/
def State.stepRecords (s : State) (slot status detail : Nat) : Nat → State
  | 0 => s
  | n + 1 => (s.stepRecord slot status detail).stepRecords slot status detail n

/-- A NOTICE record of a job slot on ring 0 of its function. -/
def State.noticeRecord (s : State) (slot status : Nat) : State :=
  match s.fnOf slot with
  | none => s
  | some f => s.writeRecord (16 * f) ⟨status, false, 2, 0, 0, 0, slot, 0⟩

/-- Capsules of a job slot that still wait, by opcode, ended with a status. -/
def State.endCapsulesOf (s : State) (slot status : Nat) (op : Nat → Bool) : State :=
  (s.capsules.flatMap (fun e => (e.2.filter (fun c => c.slot = slot && c.done = none && op c.opcode)).map (fun c => (e.1, c.seq)))).foldl
    (fun s e => s.endCapsule e.1 e.2 status 0 []) s

end Sys2Proof.Machine
end

