-- ==== Sys2Proof/Machine/Cancel.lean ====
section
/-! DEFINITION. What the units drop when a step is aborted, a job slot stops or work is withdrawn (R285, R201, R183). -/

namespace Sys2Proof.Machine

/-! ### Handover of a bank (R214, R215) -/

/-- Whether KIND and ID name an owner. -/
def ownerValid (kind ident : Nat) : Bool :=
  match kind with
  | 0 => ident = 0
  | 1 | 2 => ident < 64
  | 3 => ident < 4
  | 4 => ident < 2
  | 5 => ident < 16
  | _ => false

/-- Whether a writer may hand a bank over: firmware, or the current owner (R215). -/
def State.mayHand (s : State) (by_ : Writer) (b : Nat) : Bool :=
  let is := fun k i => s.fld (Reg.BK_OWNER b) 0 3 = k && s.fld (Reg.BK_OWNER b) 3 6 = i
  match by_ with
  | .firmware => true
  | .component _ => false
  | .host f => is 5 f
  | .hoist h => is 2 h
  | .prospector p => is 3 p
  | .mover d => is 4 d
  | .dap => false

/-- A write of BK_OWNER, accepted or refused. -/
def State.handOwner (s : State) (by_ : Writer) (b : Nat) (v : Word) : State :=
  if 40960 ≤ b then s else
  if s.mayHand by_ b && !s.bit (Reg.BK_OWNER b) 10 && !s.bit (Reg.BK_REPAIR b) 24 && ownerValid (bitsOf v.toNat 0 3) (bitsOf v.toNat 3 6) then
    let s := s.setFld (Reg.BK_OWNER b) 0 11 (bitsOf v.toNat 0 10 + 2 ^ 10)
    (s.setBank b { s.bank b with since := s.tick }).numbered
  else s.setStatus (Reg.BK_STATUS b) 1 .BANK_HO_REFUSED .info (b / 4) [b % 4, b]

/-! ### Registers that wait for a boundary, and what a job slot holds (R103, R170, R182, R208) -/

/-- Windows of a register list in the motifs' blocks that a slot owns, as motif × n + window; the list starts at `off` in a block. -/
def State.ownedWins (s : State) (slot off n : Nat) : List Nat :=
  s.regs.filterMap (fun e =>
    let o := (e.1 - 0x800000) % 0x400
    if 0x800000 ≤ e.1 && e.1 < 0x1200000 && off ≤ o && o < off + 4 * n && bitOf e.2.toNat 6 && bitsOf e.2.toNat 0 6 = slot then
      some ((e.1 - 0x800000) / 0x400 * n + (o - off) / 4) else none)
/-- Token windows and scale windows of a slot. -/
def State.tokWins (s : State) (slot : Nat) : List Nat := s.ownedWins slot 0x240 8
def State.scaleWins (s : State) (slot : Nat) : List Nat := s.ownedWins slot 0x100 16
/-- The banks that a slot owns. -/
def State.slotBanks (s : State) (slot : Nat) : List Nat :=
  s.regs.filterMap (fun e =>
    if Reg.BK_OWNER 0 ≤ e.1 && e.1 < Reg.BK_OWNER 40960 && e.1 % 64 = 0 && bitsOf e.2.toNat 0 9 = 1 + 8 * slot then
      some ((e.1 - Reg.BK_OWNER 0) / 64) else none)

/-- A window or MT_JOBS write that waited takes effect; a token or scale window that changes owner is zeroed (R103, R170). -/
def State.applyPending (s : State) (e : Nat × Word) : State :=
  let o := (e.1 - 0x800000) % 0x400
  let m := (e.1 - 0x800000) / 0x400
  let moved := 0x800000 ≤ e.1 && e.1 < 0x1200000 && bitsOf (s.rd e.1).toNat 0 7 ≠ bitsOf e.2.toNat 0 7
  let s : State := if moved && 0x240 ≤ o && o < 0x260 then
      { s with tokens := s.tokens.clear (m * 256 + (o - 0x240) / 4 * 32) (m * 256 + (o - 0x240) / 4 * 32 + 32) }
    else if moved && 0x100 ≤ o && o < 0x140 then
      { s with srf := s.srf.clear (m * 512 + (o - 0x100) / 4 * 32) (m * 512 + (o - 0x100) / 4 * 32 + 32) }
    else s
  State.regStore { s with regPending := s.regPending.filter (· ≠ e) } e.1 e.2

/-- Whether a word of MT_JOBS or of a window owner register names a slot. -/
def namesSlot (v : Word) (slot : Nat) : Bool := [0, 8, 16, 24].any (fun i => bitOf v.toNat (i + 6) && bitsOf v.toNat i 6 = slot)

/-- The writes that wait for a boundary or slice of a slot take effect (R204 order 10, R208). -/
def State.applyPendings (s : State) (slot : Nat) : State :=
  (s.regPending.filter (fun e => namesSlot e.2 slot || namesSlot (s.rd e.1) slot)).foldl State.applyPending s

/-- Whether a register is MT_JOBS of a motif. -/
def isJobs (a : Nat) : Bool := 0x800000 ≤ a && a < 0x1200000 && (a - 0x800000) % 0x400 = 0x2C0
/-- The motif whose block holds a register. -/
def motifOfReg (a : Nat) : Nat := (a - 0x800000) / 0x400
/-- The motifs whose MT_JOBS a condition holds of. -/
def State.jobsMotifs (s : State) (f : Nat → Word → Bool) : List Nat :=
  s.regs.filterMap (fun e => if isJobs e.1 && f (motifOfReg e.1) e.2 then some (motifOfReg e.1) else none)
/-- The motifs whose home job is a slot (R183). -/
def State.homeMotifs (s : State) (slot : Nat) : List Nat := s.jobsMotifs (fun _ v => bitOf v.toNat 6 && bitsOf v.toNat 0 6 = slot)
/-- The motifs that list a slot. -/
def State.slotMotifs (s : State) (slot : Nat) : List Nat := s.jobsMotifs (fun _ v => namesSlot v slot)

/-- An MT_JOBS word without the entries of a slot. -/
def unlist (v : Word) (slot : Nat) : Word :=
  BitVec.ofNat 32 ([0, 8, 16, 24].foldl (fun n i => if bitOf n (i + 6) && bitsOf n i 6 = slot then setBits n i 7 0 else n) v.toNat)

/-- What a job slot holds goes back to the scheduler (R182): its windows, its motifs, and its banks, which firmware owns. A bank whose
handover still runs, or that is fenced, keeps its owner (R215). -/
def State.releaseSlot (s : State) (slot : Nat) : State :=
  let s := s.applyPendings slot
  let s := (s.scaleWins slot).foldl (fun s w => s.applyPending (Reg.MT_SRF_OWNER (w / 16) (w % 16), 0#32)) s
  let s := (s.tokWins slot).foldl (fun s w => s.applyPending (Reg.MT_TOK_OWNER (w / 8) (w % 8), 0#32)) s
  let s := (s.slotMotifs slot).foldl (fun s m => s.wr (Reg.MT_JOBS m) (unlist (s.rd (Reg.MT_JOBS m)) slot)) s
  ((s.slotBanks slot).filter (fun b => !s.bit (Reg.BK_REPAIR b) 24 && !s.bit (Reg.BK_OWNER b) 10)).foldl
    (fun s b => s.handOwner .firmware b 0#32) s

/-! ### Cancelled work -/

/-- The job slot that a panel's prospector serves (R281). -/
def State.prospectSlot (s : State) (p : Nat) : Nat := s.fld (Reg.PS_CTL p) 3 6

/-- The panels whose prospector serves a job slot. -/
def State.prospectPanels (s : State) (slot : Nat) : List Nat := [0, 1, 2, 3].filter (fun p => s.prospectSlot p = slot)

/-- STAGED, IN_FLIGHT, STAGING_BANKS of a prospector show its staging. -/
def State.showStaged (s : State) (p : Nat) : State :=
  let l := s.staged.filter (fun e => e.panel = p)
  let s := s.setFld (Reg.PS_STAGED p) 0 17 l.length
  let s := s.setFld (Reg.PS_STATE p) 0 13 (min (l.filter (fun e => !e.landed)).length (s.fld (Reg.PS_CREDITS p) 0 13))
  s.setFld (Reg.PS_STATE p) 16 16 ((s.regs.filter (fun e => Reg.BK_OWNER 0 ≤ e.1 && e.1 < Reg.BK_OWNER 40960 && e.1 % 64 = 0 &&
    bitsOf e.2.toNat 0 3 = 3 && bitsOf e.2.toNat 3 6 = p)).length)

/-- Staged rows of a prospector dropped, each counted in PROSPECT_WASTE; a staging bank that this empties goes back to the pool (R285). -/
def State.dropStaged (s : State) (p : Nat) (f : Staged → Bool) : State :=
  let gone := s.staged.filter (fun e => e.panel = p && f e)
  let s : State := { s with staged := s.staged.filter (fun e => !(e.panel = p && f e)) }
  let empty := ((gone.map (fun e => bankOf e.addr)).eraseDups).filter (fun b => !s.staged.any (fun e => bankOf e.addr = b))
  ((empty.foldl (fun s b => s.handOwner .firmware b 0#32) s).count (Reg.PS_WASTE p) 0 32 gone.length).showStaged p

/-- AHEAD of a prospector brought down to a bound. -/
def State.limitAhead (s : State) (p n : Nat) : State := s.setFld (Reg.PS_STATE p) 13 3 (min n (s.fld (Reg.PS_STATE p) 13 3))

/-- Returns of an aborted step dropped: a bank lent to the prospector goes back to the job slot, and the replay serves its list again from
its start (R285, R296). -/
def State.cancelReturns (s : State) (slot : Nat) : State :=
  (s.prospectPanels slot).foldl (fun s p =>
    let s := ((s.returns.get {} p).active.filter (fun a => a.landed.isNone)).foldl
      (fun s a => s.handOwner .firmware a.bank (BitVec.ofNat 32 (1 + 8 * slot))) s
    { s with returns := s.returns.put {} p {} }) s

/-- All prospector staging of a slot cancelled: it is stopped, sliced or DONE (R285). -/
def State.cancelProspect (s : State) (slot : Nat) : State :=
  (s.prospectPanels slot).foldl (fun s p => (s.dropStaged p (fun _ => true)).limitAhead p 0) (s.cancelReturns slot)

/-- Staging for steps that the host withdrew (R285). -/
def State.cancelSteps (s : State) (slot first : Nat) : State :=
  let step := s.rd2 (Reg.PN_JOB_STEP_LO slot) (Reg.PN_JOB_STEP_HI slot)
  (s.prospectPanels slot).foldl (fun s p => (s.dropStaged p (fun e => first ≤ e.step)).limitAhead p (first - 1 - step)) s

/-- The serving requests of a stopped slot end with JOB_STOPPED (R182, R287): what remains of each is its reply. -/
def State.endRequests (s : State) (slot : Nat) : State :=
  { s with ledger := s.ledger.map (fun e =>
      if e.2.st ≠ 0 && e.2.slot = slot && e.2.st ≠ 3 then (e.1, { e.2 with st := 3, status := 8, detail := s.eventSeq }) else e) }

/-! ### Generations of the embedding tables (R271, R272, R274) -/

/-- The tables that have been stored. -/
def State.tableList (s : State) : List Nat := ((s.tables.filter (fun e => e.1 % 32 = 0 && bitOf e.2.toNat 0)).map (fun e => e.1 / 32))

/-- Whether a generation records slot v of a table as current. -/
def records (g : Option (List Nat)) (n v : Nat) : Bool :=
  match g with
  | none => false
  | some l => l.contains n = decide (v = 1)

/-- Live generations that reference slot v of a table (REFS). -/
def State.refsOf (s : State) (n v : Nat) : Nat := (s.gens.filter (fun e => records e.2 n v)).length

/-- Generations that no pin holds and that are not current leave the live ones; a slot no longer referenced is due to be freed. -/
def State.settleGens (s : State) : State :=
  let cur := s.fld Reg.EM_GEN 0 16
  let pinned := fun (g : Nat) => g = cur || (List.range 64).any (fun j => s.bit (Reg.EM_JOB_PIN j) 16 && s.fld (Reg.EM_JOB_PIN j) 0 16 = g) ||
    s.ledger.any (fun e => e.2.st ≠ 0 && e.2.gen = g)
  let t : State := { s with gens := s.gens.filter (fun e => pinned e.1) }
  let due := s.tableList.flatMap (fun n => ([0, 1].filter (fun v => s.refsOf n v ≠ 0 && t.refsOf n v = 0)).map (fun v => (n, v)))
  let t : State := { t with freeQ := t.freeQ ++ due.filter (fun e => !t.freeQ.contains e) }
  t.setFld Reg.EM_GEN 16 7 t.gens.length

/-- A job slot's step pins the current generation; a replayed step keeps its pin. -/
def State.pinStep (s : State) (slot : Nat) : State :=
  if s.bit (Reg.EM_JOB_PIN slot) 16 then s
  else s.setFld (Reg.EM_JOB_PIN slot) 0 17 (2 ^ 16 + s.fld Reg.EM_GEN 0 16)
/-- A job slot's pin released. -/
def State.unpinStep (s : State) (slot : Nat) : State := State.settleGens (s.setFld (Reg.EM_JOB_PIN slot) 16 1 0)

end Sys2Proof.Machine
end

