-- ==== Sys2Proof/Machine/Jobs.lean ====
section
/-! DEFINITION. Claims, tokens, tasks and job slots as the scheduler handles them: exception records (R152), fault policies (R200),
step aborts (R201), stops (R182) and the end of a task (R176). -/

namespace Sys2Proof.Machine

/-! ### Job slots (R182, R200) -/

/-- The STATE codes of PN_JOB_CTL (R208). -/
inductive SlotPhase
  | free | loading | running | sweep | draining | sliced | stopped | done
deriving DecidableEq, Repr

/-- The code of a job slot state. -/
def slotCode : SlotPhase → Nat
  | .free => 0 | .loading => 1 | .running => 2 | .sweep => 3 | .draining => 4 | .sliced => 5 | .stopped => 6 | .done => 7

/-- Whether a job slot is in a state. -/
def State.slotIs (s : State) (j : Nat) (p : SlotPhase) : Bool := s.fld (Reg.PN_JOB_CTL j) 2 3 = slotCode p
/-- A job slot's state set. -/
def State.setSlot (s : State) (j : Nat) (p : SlotPhase) : State := s.setFld (Reg.PN_JOB_CTL j) 2 3 (slotCode p)

/-- Whether a slot holds no job that can go on. -/
def State.slotIdle (s : State) (j : Nat) : Bool := s.slotIs j .free || s.slotIs j .stopped || s.slotIs j .done

/-- CLASS of a slot: 0 SERVE, 1 TRAIN, 2 BACKGROUND. -/
def State.classOf (s : State) (j : Nat) : Nat := s.fld (Reg.PN_JOB_CTL j) 0 2
/-- FAULT_POLICY of a slot. -/
def State.policyOf (s : State) (j : Nat) : Nat := s.fld (Reg.PN_JOB_CTL j) 9 2

/-- A word of PN_JOB_CTL as it may be written: the class of a slot that holds a job is fixed (R182). -/
def State.keepClass (s : State) (j : Nat) (v : Word) : Word :=
  if s.slotIs j .free then v else BitVec.ofNat 32 (setBits v.toNat 0 2 (s.classOf j))

/-- The class of an event that follows a task fault's policy (R200). -/
def State.policyClass (s : State) (slot : Nat) : EvClass :=
  if s.slotIs slot .sweep then .jobFatal
  else match s.policyOf slot with
    | 1 => .corrected
    | 2 => .info
    | _ => .jobFatal

/-! ### Exception records (R152) -/

/-- The exception record written into MT_EXC and the slot's fault list, and counted (R152). -/
def State.writeExc (s : State) (code : Code) (x slot : Nat) (deferred : Bool) (pc w0 w1 addr detail : Nat) : State :=
  let m := motifOf x
  let ws : List Word := [
    BitVec.ofNat 32 (codeNumber code + 2 ^ 16 * ctxIn x + 2 ^ 18 * coreOf x + 2 ^ 23 * slot + 2 ^ 29 * b2n deferred),
    BitVec.ofNat 32 m, BitVec.ofNat 32 pc, BitVec.ofNat 32 w0, BitVec.ofNat 32 w1,
    BitVec.ofNat 32 addr, BitVec.ofNat 32 (addr / 2 ^ 32 % 2 ^ 24), BitVec.ofNat 32 detail]
  let s := (List.range 8).foldl (fun s i => s.wr (Reg.MT_EXC m i) (ws.getD i 0#32)) s
  let s := s.count (Reg.MT_EXC_COUNT m) 0 16 1
  s.setJob slot { s.job slot with faults := (s.job slot).faults ++ [ws] }

/-! ### Array claims (R55, R476) -/

/-- Markers of loaded tiles are no commands. -/
def isMarker : MCmd → Bool
  | .chunk _ => true
  | _ => false
/-- Commands waiting in an engine's queue. -/
def Engine.waiting (e : Engine) : Nat := (e.queue.filter (fun c => !isMarker c)).length
/-- Whether an engine has nothing queued and no drain running. -/
def Engine.quiet (e : Engine) : Bool := e.waiting = 0 && e.drain = .idle

/-- Whether a quadrant's claim holds its row half's statistics (R476). -/
def State.holdsStats (s : State) (m u : Nat) : Bool :=
  let other := if u % 2 = 0 then u + 1 else u - 1
  u = 4 || (s.engine m other).owner = none || decide ((s.engine m u).order < (s.engine m other).order)

/-- First row of the statistics of an engine, and how many (R69, R476). -/
def statRows (u : Nat) : Nat × Nat := if u = 4 then (0, 32) else (u / 2 * 16, 16)

/-- Rows of MA_ROWSTAT back to their reset values. -/
def State.clearStats (s : State) (m first : Nat) : Nat → State
  | 0 => s
  | n + 1 => ((s.wr (Reg.MA_ROWSTAT_MAX m (first + n)) 0xFF800000#32).wr (Reg.MA_ROWSTAT_SUM m (first + n)) 0#32).clearStats m first n

/-- A claim ends (R55): its sets read +0, its statistics are cleared, its engine is free. -/
def State.endClaim (s : State) (m u : Nat) : State :=
  let s := if s.holdsStats m u then s.clearStats m (statRows u).1 (statRows u).2 else s
  s.setEngine m u {}

/-- Whether either set of an engine holds data. -/
def Engine.holdsData (e : Engine) : Bool := e.set0.phase ≠ .empty || e.set1.phase ≠ .empty

/-- The lowest-numbered set that holds data. -/
def Engine.dataSet (e : Engine) : Nat := if e.set0.phase ≠ .empty then 0 else 1

/-- The units of a motif that a task owns. -/
def State.ownedUnits (s : State) (m k : Nat) : List Nat :=
  [0, 1, 2, 3, 4].filter (fun u => (s.engine m u).owner = some k)

/-- How a claim comes to end: its owner has halted, is stopped with its slot or by a fault, or is withdrawn with its step. -/
inductive ClaimEnd
  | halted | stopped | withdrawn
deriving DecidableEq, Repr

/-- Data of a claim discarded as it ends (R55): an INFO event for an owner that has halted, else MA_ORDER as a deferred task fault, which
names no command. Where both sets hold data, the one event names the lowest-numbered set (DESIGN CHOICE, log entry 18). A withdrawn
step's faults are withdrawn with it (R201). -/
def State.discardData (s : State) (how : ClaimEnd) (k m set : Nat) : State :=
  let slot := slotOf k
  match how with
  | .halted => s.raise .MA_ORDER .info (0x3000 + slot) [m, set]
  | .stopped =>
    (s.writeExc .MA_ORDER ((s.ctxOfTask k).getD (m * 128)) slot true (s.task k).pc.toNat 0 0 0 0).raise .TASK_FAULT (s.policyClass slot)
      (0x3000 + slot) [codeNumber .MA_ORDER, m, slot]
  | .withdrawn => s

/-- The claims of a task in a motif end (R55). A withdrawn step's commands complete first (R201): the claim lasts until they have. -/
def State.endClaims (s : State) (how : ClaimEnd) (m k : Nat) : State :=
  (s.ownedUnits m k).foldl (fun s u =>
    let e := s.engine m u
    if how = .withdrawn && !e.quiet then s.setEngine m u { e with ending := true } else
    let s := s.endClaim m u
    if e.holdsData then s.discardData how k m e.dataSet else s) s

/-- Claims that lasted until their commands were done end. -/
def State.endQuiet (s : State) : State :=
  (s.engines.filter (fun e => e.2.ending && e.2.quiet)).foldl (fun s e => s.endClaim (e.1 / 5) (e.1 % 5)) s

/-- Every motif in which a task owns an engine. -/
def State.claimMotifs (s : State) (k : Nat) : List Nat :=
  ((s.engines.filter (fun e => e.2.owner = some k)).map (fun e => e.1 / 5)).eraseDups

/-- Every claim of a task ends. -/
def State.endAllClaims (s : State) (how : ClaimEnd) (k : Nat) : State := (s.claimMotifs k).foldl (fun s m => s.endClaims how m k) s

/-- Whether a task holds an array claim (R174, R190). -/
def State.hasClaim (s : State) (k : Nat) : Bool := s.engines.any (fun e => e.2.owner = some k)

/-! ### Contexts and tasks -/

/-- A context freed. A core fenced or held as a spare stays OFFLINE. -/
def State.freeContext (s : State) (x : Nat) : State :=
  if (s.context x).phase = .offline then s.setContext x { phase := .offline, task := none }
  else s.setContext x { phase := .free, task := none }

/-- The waiters of every token without a task. -/
def State.dropWaiter (s : State) (k : Nat) : State :=
  { s with tokens := s.tokens.mapAll {} (fun t => { t with waiters := t.waiters.erase k }) }

/-- The context a task leaves for good, kept while commands of it may still report a fault (R150). -/
def State.keepCtx (s : State) (k x : Nat) : State :=
  if (s.task k).cmds = [] && !s.deferred.any (fun d => d.cmd.key = k) then s
  else { s with ended := s.ended.put none k (some ⟨x, (s.task k).request⟩) }
/-- Tasks that have ended run no more for a ledger entry that is dispatched anew or retired. -/
def State.forgetRequest (s : State) (e : Nat) : State :=
  { s with ended := s.ended.mapAll none (fun v => v.map (fun x => if x.request = some e then { x with request := none } else x)) }

/-- A task leaves the machine: context, queues, waiting lists and its deferred faults' boundary. -/
def State.removeTask (s : State) (how : ClaimEnd) (k : Nat) : State :=
  let s := (s.endAllClaims how k).dropWaiter k
  let s := match s.ctxOfTask k with
    | some x => (s.keepCtx k x).freeContext x
    | none => s
  let s : State := { s with queues := s.queues.mapAll [] (fun q => q.erase k) }
  let s := s.setJob (slotOf k) { s.job (slotOf k) with waiting := (s.job (slotOf k)).waiting.filter (fun e => e.2 ≠ k) }
  let s := s.freeUsers (fun u => match u with | .load key _ => key = k | _ => false)
  { s with tasks := s.tasks.del k }

/-- The keys of a job slot's tasks. -/
def State.tasksOf (s : State) (slot : Nat) : List Nat := (s.tasks.map (·.1)).filter (fun k => slotOf k = slot)

/-- Every task of a slot removed. -/
def State.removeTasks (s : State) (how : ClaimEnd) (slot : Nat) : State := (s.tasksOf slot).foldl (fun s k => s.removeTask how k) s

/-- LIVE_TASKS counts queued, running and yielded tasks (R203). -/
def State.addLive (s : State) (slot : Nat) : State := s.setFld (Reg.PN_JOB_LIVE slot) 0 22 (s.fld (Reg.PN_JOB_LIVE slot) 0 22 + 1)
/-- One task fewer. -/
def State.dropLive (s : State) (slot : Nat) : State := s.setFld (Reg.PN_JOB_LIVE slot) 0 22 (s.fld (Reg.PN_JOB_LIVE slot) 0 22 - 1)

/-- Tokens of a slot's windows zeroed; their waiters go (R170, R201). -/
def State.zeroTokens (s : State) (slot : Nat) : State :=
  { s with tokens := s.tokens.filter (fun e => !s.ownsToken slot e.1) }

/-- A plait entry's STATE (R100): 0 IDLE, 1 OPEN, 2 DONE, 3 FAULT. -/
def State.entryState (s : State) (i : Nat) : Nat := s.fld (Reg.PN_PLAIT_CTL i) 0 2
/-- A plait entry's STATE set; its flits and progress go with FAULT and IDLE. -/
def State.setEntryState (s : State) (i v : Nat) : State :=
  let s := s.setFld (Reg.PN_PLAIT_CTL i) 0 2 v
  if v = 1 then s else
  let s : State := { s with edges := s.edges.mapAll [] (fun q => q.filter (fun f => f.entry ≠ i)) }
  if v = 2 then s else s.setEntry i {}
/-- Entries of a slot in any of the listed states. -/
def State.entriesOf (s : State) (slot : Nat) (states : List Nat) : List Nat :=
  (List.range 256).filter (fun i => s.fld (Reg.PN_PLAIT_CTL i) 14 6 = slot && states.contains (s.entryState i))
/-- Entries of a slot moved to a STATE. -/
def State.moveEntries (s : State) (slot : Nat) (from_ : List Nat) (goal : Nat) : State :=
  (s.entriesOf slot from_).foldl (fun s i => s.setEntryState i goal) s

/-- Unit commands of a slot gone: XFER queues, chains, contributions, token additions and deferred faults. -/
def State.dropCommands (s : State) (slot : Nat) : State :=
  { s with
    xferQ := s.xferQ.mapAll [] (fun q => q.filter (fun c => slotOf c.info.key ≠ slot))
    chains := s.chains.mapAll [] (fun q => q.filter (fun c => slotOf c.info.key ≠ slot))
    hoists := s.hoists.mapAll [] (fun q => q.filter (fun c => slotOf c.info.key ≠ slot))
    rowReqs := s.rowReqs.filter (fun r => r.slot ≠ slot)
    contribs := s.contribs.filter (fun c => c.slot ≠ slot)
    adds := s.adds.filter (fun p => slotOf p.key ≠ slot)
    deferred := s.deferred.filter (fun d => slotOf d.cmd.key ≠ slot)
    ended := s.ended.filter (fun e => slotOf e.1 ≠ slot) }

/-- The STEP records of a slot that stops: its running step with the status that says why, its queued steps with JOB_STOPPED. A SET that
waited for order 10 ends with JOB_STOPPED. -/
def State.stopRecords (s : State) (slot status : Nat) : State :=
  let j := s.job slot
  let s := (s.stepRecords slot status s.eventSeq (b2n j.inStep)).stepRecords slot 8 0 j.stepsQueued
  s.endCapsulesOf slot 8 (fun op => op = 0x0A)

/-- A job slot stops (R182): its tasks end, its claims and commands go, its prospector reads are cancelled, and what it holds is released.
Entries still OPEN stand at FAULT until the slot is freed (DEDUCED, log entry 31). -/
def State.stopWith (s : State) (slot status : Nat) : State :=
  let s := (s.removeTasks .stopped slot).dropCommands slot
  let s := (s.moveEntries slot [1] 3).zeroTokens slot
  let s := (((s.cancelProspect slot).endRequests slot).releaseSlot slot).setSlot slot .stopped
  let s := ((s.setFld (Reg.PN_JOB_LIVE slot) 0 22 0).unpinStep slot).stopRecords slot status
  s.setJob slot { s.job slot with stepsQueued := 0, inStep := false, stepHeld := false, aborting := false, drainOrder := 0 }

/-- A stop whose STEP records carry JOB_STOPPED. -/
def State.stopSlot (s : State) (slot : Nat) : State := s.stopWith slot 8
/-- A stop that asks for a checkpoint reload (R309, R315). -/
def State.reloadStop (s : State) (slot : Nat) : State := s.stopWith slot 9

/-- A task record made a task of a slot, its serial number the slot's next (R173, R177). Words 0 to 15. -/
def State.newTask (s : State) (slot parent : Nat) (rec : List Word) (doneMotif : Nat) : State × Nat :=
  let j := s.job slot
  let w1 := ((rec.drop 1).headD 0#32).toNat
  let k := 2 ^ 32 * slot + j.nextSerial % 2 ^ 32
  let t : Task :=
    { slot := slot, serial := j.nextSerial % 2 ^ 32, parent := parent, pc := rec.headD 0#32,
      pin := bitOf w1 16, doneEn := bitOf w1 17, doneTok := doneMotif * 256 + bitsOf w1 18 8, place := bitsOf w1 14 2,
      args := (rec.drop 2).take 8, age := s.tick }
  let s : State := { s with tick := s.tick + 1 }
  (((s.setJob slot { j with nextSerial := j.nextSerial + 1 }).setTask k t).addLive slot, k)

/-- Records a motif's task queue holds (R184). -/
def State.queueFull (s : State) (m : Nat) : Bool := 64 ≤ (s.queue m).length

/-- Whether a motif lists a job slot in MT_JOBS (R183). -/
def State.lists (s : State) (m j : Nat) : Bool :=
  [0, 1, 2, 3].any (fun i => s.bit (Reg.MT_JOBS m) (8 * i + 6) && s.fld (Reg.MT_JOBS m) (8 * i) 6 = j)

/-! ### Steps and their abort -/

def State.epochSt (s : State) (slot : Nat) : EpochSt := s.epochs.get {} slot
def State.setEpochSt (s : State) (slot : Nat) (v : EpochSt) : State := { s with epochs := s.epochs.put {} slot v }

/-- Whether a slot may start no step now: its group is in HOLD, or it waits for the coordinator's layout (R332, R345). -/
def State.stepWaits (s : State) (slot : Nat) : Bool := s.bit (Reg.HF_GROUP_MODULE slot) 17 || (s.epochSt slot).needLayout

/-- The lowest-numbered motif that lists a job slot. -/
def State.firstMotif (s : State) (slot : Nat) : Nat := ((List.range 10240).find? (fun m => s.lists m slot)).getD 0

/-- A microbatch list's record m (R318). -/
def State.mbRecord (s : State) (slot m : Nat) : List Word :=
  wordsOfBytes 16 (s.bytes (s.rd2 (Reg.UP_JOB_MB_LO slot) (Reg.UP_JOB_MB_HI slot) + 64 * m) 64)

/-- The record that starts a step: microbatch record 0 (R318), or with no microbatch list one task at PC 0. -/
def State.firstRecord (s : State) (slot : Nat) : List Word :=
  if s.rd2 (Reg.UP_JOB_MB_LO slot) (Reg.UP_JOB_MB_HI slot) ≠ 0 then s.mbRecord slot 0
  else [0#32, BitVec.ofNat 32 (s.firstMotif slot)]

/-- The motif whose queue a record for motif m joins: m itself where it lists the slot (R183), else the lowest-numbered that does. -/
def State.queueFor (s : State) (m slot : Nat) : Option Nat :=
  if m < 10240 && s.lists m slot then some m else (List.range 10240).find? (fun n => s.lists n slot)

/-- A record for motif m joins a queue; where no motif lists its slot, or the queue holds 64, it waits with the scheduler (R183, R184;
DESIGN CHOICE, log entry 30). -/
def State.enqueue (s : State) (m k : Nat) : State :=
  let slot := slotOf k
  let wait := s.setJob slot { s.job slot with waiting := (s.job slot).waiting ++ [(m, k)] }
  match s.queueFor m slot with
  | none => wait
  | some n => if s.queueFull n then wait else s.setQueue n (s.queue n ++ [k])

/-- Records that wait with the scheduler join their queues where there is room now. -/
def State.feedQueues (s : State) : State :=
  (s.jobs.filter (fun e => e.2.waiting ≠ [])).foldl (fun s e =>
    e.2.waiting.foldl (fun s w => s.enqueue w.1 w.2) (s.setJob e.1 { s.job e.1 with waiting := [] })) s

/-- A task record of the scheduler's own queued for the motif it names: the new state, and the task. -/
def State.queueRecord (s : State) (slot : Nat) (rec : List Word) : State × Nat :=
  let m := bitsOf ((rec.drop 1).headD 0#32).toNat 0 14
  let r := s.newTask slot 0xFFFFFFFF rec m
  (r.1.enqueue m r.2, r.2)

/-- A step starts (R204 order 13): its first task is queued, unless the slot is held. -/
def State.startStep (s : State) (slot : Nat) : State :=
  if s.stepWaits slot then s.setJob slot { s.job slot with stepHeld := true } else
  let s := s.setFld (Reg.PN_JOB_STEPEND slot) 0 32 0
  let s := s.setJob slot { s.job slot with nextSerial := 0, inStep := true, stepHeld := false, mbStarted := 1, flushed := 0, pfStarted := [] }
  ((s.pinStep slot).queueRecord slot (s.firstRecord slot)).1

/-- The next queued step starts on a slot that runs none. -/
def State.nextStep (s : State) (slot : Nat) : State :=
  let j := s.job slot
  if j.stepsQueued = 0 || j.inStep || j.stepHeld || !s.slotIs slot .running || s.classOf slot = 0 then s
  else (s.setJob slot { j with stepsQueued := j.stepsQueued - 1 }).startStep slot

/-- A held step starts once nothing holds the slot. -/
def State.releaseStep (s : State) (slot : Nat) : State :=
  if (s.job slot).stepHeld && !s.stepWaits slot then s.startStep slot else s

/-- Whether unit commands of a slot are still to complete (R201). -/
def State.unitsBusy (s : State) (slot : Nat) : Bool :=
  s.xferQ.any (fun e => e.2.any (fun c => slotOf c.info.key = slot)) || s.hoists.any (fun e => e.2.any (fun c => slotOf c.info.key = slot)) ||
  s.contribs.any (fun c => c.slot = slot) ||
  s.engines.any (fun e => e.2.ending && match e.2.owner with | some k => slotOf k = slot | none => false)

/-- The coalescing records and samples of an aborted step discarded (R260, R270). -/
def State.dropGradients (s : State) (slot : Nat) : State :=
  let s := s.wr (Reg.EM_JOB_COAL_USED slot) 0#32
  { s with
    rowSums := s.rowSums.filter (fun e => slotOfWriter s (e.1 / 2 ^ 40) ≠ some slot)
    rowGrads := s.rowGrads.filter (fun e => slotOfWriter s (e.1 / 2 ^ 40) ≠ some slot)
    samples := s.samples.clear (2 * slot) (2 * slot + 2)
    sampleLost := s.sampleLost.clear (2 * slot) (2 * slot + 2) }
where
  slotOfWriter (s : State) (n : Nat) : Option Nat :=
    let w := (s.tables.get 0#32 (n * 32)).toNat
    if bitOf w 8 then some (bitsOf w 2 6) else none

/-- Orders 4 to 7 of an abort (R201): entries go to FAULT and then IDLE, tokens and staging go, and the step restarts with the same step
counter. -/
def State.finishAbort (s : State) (slot : Nat) : State :=
  let s : State := { s with deferred := s.deferred.filter (fun d => slotOf d.cmd.key ≠ slot) }
  let s := ((((s.moveEntries slot [1, 2] 3).moveEntries slot [3] 0).zeroTokens slot).cancelReturns slot).dropGradients slot
  (s.setJob slot { s.job slot with aborting := false, faulted := none }).startStep slot

/-- Claims of withdrawn tasks whose commands are done end, and slots whose aborted step's commands have all completed restart it. -/
def State.settleAborts (s : State) : State :=
  let s := s.endQuiet
  (s.jobs.filter (fun e => e.2.aborting)).foldl (fun s e => if s.unitsBusy e.1 then s else s.finishAbort e.1) s

/-- A step abort (R201): every task of the step ends, its unit commands complete, and it restarts, or REPLAY_MAX stops the slot. -/
def State.abortStep (s : State) (slot : Nat) : State :=
  let n := s.fld (Reg.PN_JOB_REPLAYS slot) 0 4
  if (s.job slot).aborting then s
  else if s.slotIs slot .sweep then
    (s.raise .TASK_FAULT .jobFatal (0x3000 + slot) [slot]).reloadStop slot
  else if s.fld (Reg.PN_JOB_CTL slot) 17 4 ≤ n then
    (s.raise .STEP_REPLAY_LIMIT .jobFatal (0x3000 + slot) [slot, n]).stopSlot slot
  else
    let s := s.raise .STEP_ABORT .corrected (0x3000 + slot) [slot, n]
    let s := s.removeTasks .withdrawn slot
    -- a chain starts no further stage; the commands of its stages complete in their units
    let s : State := { s with
      chains := s.chains.mapAll [] (fun q => q.filter (fun c => slotOf c.info.key ≠ slot))
      adds := s.adds.filter (fun p => slotOf p.key ≠ slot) }
    let s := (s.setFld (Reg.PN_JOB_REPLAYS slot) 0 4 (n + 1)).setFld (Reg.PN_JOB_LIVE slot) 0 22 0
    let s := (s.setJob slot { s.job slot with aborting := true, drainOrder := 0 }).setSlot slot .running
    s.settleAborts

/-! ### Faults of tasks -/

/-- DONE_TOKEN of a task that ends (R173, R176). -/
def State.bumpDone (s : State) (t : Task) (err : Bool) : State :=
  if t.doneEn then s.bumpToken t.doneTok 1 err else s

/-- A task's flags folded into FLAG_SUMMARY (R39, R41). -/
def State.foldFlags (s : State) (k : Nat) : State :=
  let t := s.task k
  s.sumFlags t.slot (bitsOf t.arith.toNat 4 8) (t.firstFZ.getD 0) (t.firstQC.getD 0)

/-- The live count reaches zero (R203, R204): a TRAIN step with an update sweep goes to order 2, any other to DRAINING at order 4. From
order 2 of a shift change on, the slot is held at order 1 instead (R398).
SERVE slots have no step boundary (R206). -/
def State.liveZero (s : State) (slot : Nat) : State :=
  if s.fld (Reg.PN_JOB_LIVE slot) 0 22 ≠ 0 || s.classOf slot = 0 || !s.slotIs slot .running || (s.job slot).aborting then s
  else if 2 ≤ s.fw.shift then s.setJob slot { s.job slot with shiftHeld := true }
  else if s.classOf slot = 1 && s.bit (Reg.UP_JOB_CTL slot) 2 then
    s.setJob slot { s.job slot with drainOrder := 2 }
  else (s.setJob slot { s.job slot with drainOrder := 4 }).setSlot slot .draining

/-- The tasks of a serving request end, and its hoist commands are dropped. -/
def State.dropRequest (s : State) (e : Nat) : State :=
  let s := ((s.tasks.filter (fun t => t.2.request = some e)).map (·.1)).foldl (fun s k => (s.removeTask .withdrawn k).dropLive (slotOf k)) s
  State.forgetRequest { s with hoists := s.hoists.mapAll [] (fun q => q.filter (fun c => c.request ≠ some e)) } e

/-- A serving request fails (R200, R288): it runs once more from its start, and the second time ends with SERVE_FAILED. -/
def State.failRequest (s : State) (e : Nat) : State :=
  let s := s.dropRequest e
  let l := s.ledger.get {} e
  if l.st = 0 then s
  else if l.redispatched then { s with ledger := s.ledger.put {} e { l with st := 3, status := 12, detail := s.eventSeq } }
  else { s with ledger := s.ledger.put {} e { l with st := 1, redispatched := true } }

/-- Every request that a slot runs fails. -/
def State.failRequests (s : State) (slot : Nat) : State :=
  (s.ledger.filter (fun e => e.2.st = 2 && e.2.slot = slot)).foldl (fun s e => s.failRequest e.1) s

/-- The fault policy applied to a task fault (R200). A fault in SWEEP is a STOP; reserved policy 3 acts as STOP. -/
def State.taskFault (s : State) (k : Nat) (code : Code) (m : Nat) : State :=
  let slot := slotOf k
  let t := s.task k
  let data := [codeNumber code, m, slot]
  let ended := !s.alive k
  let request := if ended then (s.ended.get none k).bind (·.request) else t.request
  let p := if s.slotIs slot .sweep then 0 else s.policyOf slot
  if p = 2 then
    let s := s.raise .TASK_FAULT .info (0x3000 + slot) data
    let seq := s.eventSeq
    let s := s.landStage (if ended then none else t.chain) (codeNumber code)
    let s := if !ended then (((s.foldFlags k).bumpDone t true).removeTask .stopped k).dropLive slot else s
    let s : State := match t.request with
      | some e => { s with ledger := s.ledger.map (fun l => if l.1 = e then (l.1, { l.2 with status := 1, detail := seq }) else l) }
      | none => s
    if ended then s else (s.setJob slot { s.job slot with faulted := some ((s.job slot).faulted.getD seq) }).liveZero slot
  else if p = 1 then
    let s := s.raise .TASK_FAULT .corrected (0x3000 + slot) data
    if s.classOf slot = 0 then
      let s := if ended then s else (s.removeTask .withdrawn k).dropLive slot
      match request with
      | some e => s.failRequest e
      | none => s
    else s.abortStep slot
  else
    let s := s.raise .TASK_FAULT .jobFatal (0x3000 + slot) data
    if s.slotIs slot .sweep then s.reloadStop slot else s.stopSlot slot

/-- A fault taken at issue (R149, R152): the record, the context FAULTED, and the policy. -/
def State.issueFault (s : State) (x : Nat) (k : Nat) (code : Code) (w0 w1 addr detail : Nat) : State :=
  let t := s.task k
  let s := s.writeExc code x t.slot false t.pc.toNat w0 w1 addr detail
  let s := s.setContext x { s.context x with phase := .faulted }
  s.taskFault k code (motifOf x)

/-! ### The end of a task -/

/-- HALT and STEPEND complete (R176): claims released, flags folded, DONE_TOKEN incremented, the context freed, the end counted. -/
def State.endTask (s : State) (k : Nat) (stepEnd : Bool) : State :=
  let t := s.task k
  let slot := t.slot
  let s := s.endAllClaims .halted k
  let s := (s.foldFlags k).bumpDone t false
  let s := s.removeTask .halted k
  let s := if stepEnd && s.classOf slot ≠ 0 then s.setFld (Reg.PN_JOB_STEPEND slot) 0 32 (s.fld (Reg.PN_JOB_STEPEND slot) 0 32 + 1) else s
  let s := s.landStage t.chain 0
  (s.dropLive slot).liveZero slot

end Sys2Proof.Machine
end

