-- ==== Sys2Proof/Machine/Fabric.lean ====
section
/-! DEFINITION. Gyluyx Fabric Transport (R319 to R331, R343 to R346): groups, connections, windows, acknowledgments, and the loss and
return of peers. -/

namespace Sys2Proof.Machine

/-! ### Groups (R319, R320, R330) -/

def State.grouped (s : State) (j : Nat) : Bool := s.bit (Reg.HF_GROUP_MODULE j) 16
def State.myModule (s : State) (j : Nat) : Nat := s.fld (Reg.HF_GROUP_MODULE j) 0 16
def State.groupSize (s : State) (j : Nat) : Nat := s.fld (Reg.HF_GROUP_ID j) 16 16 + 1
def State.groupId (s : State) (j : Nat) : Nat := s.fld (Reg.HF_GROUP_ID j) 0 16
def State.epochOf (s : State) (j : Nat) : Nat := (s.rd (Reg.HF_GROUP_EPOCH j)).toNat
/-- Whether the peer map of a slot's group has a valid entry for a module index (R320). -/
def State.peerValid (s : State) (j i : Nat) : Bool :=
  s.grouped j && i < s.groupSize j && bitOf (s.peerWord j i 0) 0

/-- The signed difference of two epochs (R330). -/
def epochDiff (a b : Nat) : Int := signedOf 32 (2 ^ 32 + a - b % 2 ^ 32)
/-- The difference of two PSNs modulo 2^32 (R325). -/
def psnDist (a b : Nat) : Nat := (2 ^ 32 + a - b % 2 ^ 32) % 2 ^ 32

/-! ### Packets -/

/-- Type and class codes of R323. -/
def tData : Nat := 0
def tRowReq : Nat := 1
def tRowRsp : Nat := 2
def tGrad : Nat := 3
def tServeReq : Nat := 4
def tServeRsp : Nat := 5
def tBulk : Nat := 6
def tAck : Nat := 7
def tCtrl : Nat := 8
/-- CLASS of a TYPE (R323): 0 CTRL, 1 SERVE, 2 ROW, 3 DATA, 4 GRAD, 5 BULK. -/
def classOfType : Nat → Nat
  | 0 => 3 | 1 => 2 | 2 => 2 | 3 => 4 | 4 => 1 | 5 => 1 | 6 => 5 | _ => 0
/-- Whether EPOCH is checked for a TYPE (R323). -/
def epochChecked (t : Nat) : Bool := t < 4 || t = 6

/-- A packet's header for a peer of a slot's group. -/
def State.header (s : State) (slot peer typ handle msg epoch : Nat) : GftPacket :=
  { typ := typ, cls := classOfType typ, group := s.groupId slot, src := s.myModule slot, dst := peer, epoch := epoch, handle := handle, msg := msg }

/-- Largest payload of a packet (R321). -/
def State.maxPayload (s : State) : Nat := if s.jumbo then 4096 else 1024

/-- A payload cut into the packets of one message; the last one sets LAST. -/
def cutMessage (h : GftPacket) (size : Nat) : Nat → Nat → List Byte → List GftPacket
  | 0, _, _ => []
  | n + 1, off, l =>
    if l.length ≤ size then [{ h with off := off / 64, payload := l, last := true }]
    else { h with off := off / 64, payload := l.take size } :: cutMessage h size n (off + size) (l.drop size)

/-- A payload padded with zeros to a multiple of 64 bytes (R321). -/
def pad64 (l : List Byte) : List Byte := l ++ List.replicate (roundUp l.length 64 - l.length) 0#8
/-- Words as a payload. -/
def wordsPayload (l : List Nat) : List Byte := pad64 (l.flatMap (toBytes 4))
/-- Word i of a payload. -/
def payloadWord (l : List Byte) (i : Nat) : Nat := ofBytes ((l.drop (4 * i)).take 4)

/-- The number that stands for traffic without a connection in the choice of a port. -/
def flowHash (k : GftPacket) : Nat := 2 ^ 32 * k.typ + 2 ^ 16 * k.group + k.dst

/-- Packets outside any window transmitted one after another. -/
def State.transmitAll (s : State) (hf : Nat) (l : List GftPacket) : State := l.foldl (fun s k => s.transmit hf (flowHash k) k) s

/-- A response sent (R329): it holds one tag until its last packet is transmitted, and one that no port would carry holds none. -/
def State.sendRsp (s : State) (hf : Nat) (slot : Option Nat) (l : List GftPacket) : State :=
  match l.getLast? with
  | none => s
  | some k =>
    match s.portFor hf (flowHash k) k with
    | none => s
    | some p =>
      if !s.inService p then s else
      let w : TagWait := { hf := hf, slot := slot, age := s.tick, user := (rspUser k), addr := k.msg, size := (l.map (fun x => x.payload.length)).sum, packets := l }
      if s.tagFree hf slot then (s.takeTag w).transmitAll hf l else (s.stallTag w).numbered

/-- A packet outside any window sent to a peer (R320): nothing is sent without a valid peer map entry. -/
def State.sendLoose (s : State) (hf slot : Nat) (k : GftPacket) : State :=
  if s.peerValid slot k.dst then s.transmit hf (flowHash k) k else s

/-! ### Connections (R324) -/

def State.conn (s : State) (hf cls slot peer : Nat) : Option Conn :=
  s.conns.find? (fun c => c.hf = hf && c.cls = cls && c.slot = slot && c.peer = peer)
def State.connById (s : State) (id : Nat) : Option Conn := s.conns.find? (fun c => c.id = id)
def State.setConn (s : State) (c : Conn) : State := { s with conns := s.conns.map (fun d => if d.id = c.id then c else d) }
/-- CONN_IN_USE of a headframe shows its table. -/
def State.showConns (s : State) (hf : Nat) : State :=
  s.setFld (Reg.HF_GFT_CONN hf) 0 14 (s.conns.filter (fun c => c.hf = hf)).length

/-- The job slot whose quota a connection's packets count against; CTRL is firmware's. -/
def Conn.tagSlot (c : Conn) : Option Nat := if c.cls = 0 then none else some c.slot

/-- A connection's request for the tag of its next packet (R329). -/
def Conn.tagReq (c : Conn) (age : Nat) : TagWait := { hf := c.hf, slot := c.tagSlot, age := age, user := .conn c.id }

/-- A connection leaves the table; the tags of its packets are freed. -/
def State.dropConn (s : State) (c : Conn) : State :=
  let s : State := { s.freeUser (.conn c.id) with conns := s.conns.filter (fun d => d.id ≠ c.id) }
  s.showConns c.hf

/-- A CTRL message that takes part in no window: OPEN, OPEN_OK or CLOSE; HANDLE names the class it concerns. -/
def State.sendOpenMsg (s : State) (hf slot peer sub cls psn : Nat) : State :=
  s.sendLoose hf slot { s.header slot peer tCtrl cls sub (s.epochOf slot) with psn := psn, last := true }

/-- Whether a collective of the slot runs. -/
def State.collRunning (s : State) (slot : Nat) : Bool :=
  s.colls.any (fun e => e.1 % 8 = 0 && bitsOf e.2.toNat 10 2 = 1 && bitsOf e.2.toNat 4 6 = slot)

/-- The least recently used connection of a headframe that may be closed (R324). -/
def State.closable (s : State) (hf : Nat) : Option Conn :=
  (s.conns.filter (fun c => c.hf = hf && c.unacked = [] && c.waiting = [] && !(c.cls = 3 && s.collRunning c.slot))).foldl
    (fun b c => match b with
      | none => some c
      | some d => if c.used < d.used then some c else some d) none

/-- Room for one more connection in a headframe's table: a full table closes one, or the open waits and is counted. -/
def State.connRoom (s : State) (hf : Nat) : State × Bool :=
  if (s.conns.filter (fun c => c.hf = hf)).length < 8192 then (s, true)
  else match s.closable hf with
    | none => (s.count (Reg.HF_GFT_SRC hf) 16 16 1, false)
    | some c => ((s.sendOpenMsg hf c.slot c.peer 3 c.cls 0).dropConn c, true)

/-- The microsecond counter of a headframe. -/
def State.usec (s : State) (hf : Nat) : Nat := if hf = 0 then s.usecN.toNat else s.usecS.toNat

/-- A connection entered in the table. -/
def State.addConn (s : State) (c : Conn) : State :=
  State.showConns { s with conns := s.conns ++ [c], tick := s.tick + 1 } c.hf

/-- A connection opened towards a peer: its first PSN and the OPEN sent. -/
def State.openConn (s : State) (hf cls slot peer : Nat) : State :=
  let r := s.connRoom hf
  if !r.2 then r.1 else
  let psn := weaveMix (r.1.usec hf) % 2 ^ 32
  let c : Conn := { id := r.1.tick, hf := hf, cls := cls, slot := slot, peer := peer, nextPsn := psn, rxNext := psn, used := r.1.tick }
  (r.1.addConn c).sendOpenMsg hf slot peer 1 cls psn

/-- Waiting packets of a connection sent as its window and the headframe's tags admit (R325, R329). -/
def State.pump (s : State) (id : Nat) : Nat → State
  | 0 => s
  | n + 1 =>
    match s.connById id with
    | none => s
    | some c =>
      match c.waiting with
      | [] => s
      | k :: rest =>
        if !c.ready || 1024 ≤ c.unacked.length then s
        else if !s.tagFree c.hf c.tagSlot then
          if s.tagWaits (.conn id) then s else (s.stallTag (c.tagReq s.tick)).numbered
        else
          let k := { k with psn := c.nextPsn }
          let s := s.takeTag { c.tagReq s.tick with addr := c.nextPsn, size := k.payload.length }
          let s := s.setConn { c with waiting := rest, unacked := c.unacked ++ [k], nextPsn := (c.nextPsn + 1) % 2 ^ 32, used := s.tick }
          (s.transmit c.hf id k).numbered.pump id n

/-- Every waiting packet of a connection that may go. -/
def State.pumpAll (s : State) (id : Nat) : State :=
  match s.connById id with
  | none => s
  | some c => s.pump id c.waiting.length

/-- A message sent on a window class; the connection is opened first if there is none (R324, R325). -/
def State.sendMessage (s : State) (hf slot : Nat) (h : GftPacket) (payload : List Byte) : State :=
  if !s.peerValid slot h.dst then s else
  let s := if (s.conn hf h.cls slot h.dst).isSome then s else s.openConn hf h.cls slot h.dst
  match s.conn hf h.cls slot h.dst with
  | none => s
  | some c => (s.setConn { c with waiting := c.waiting ++ cutMessage h s.maxPayload (payload.length / s.maxPayload + 1) 0 payload }).pumpAll c.id

/-- A CTRL message to a peer (R323). -/
def State.sendCtrl (s : State) (slot peer sub : Nat) (words : List Nat) : State :=
  s.sendMessage 0 slot (s.header slot peer tCtrl 0 sub (s.epochOf slot)) (wordsPayload words)

/-! ### Receiving on a window (R325, R326) -/

/-- The selective-acknowledgment bitmap of a receiver. -/
def Conn.bitmap (c : Conn) : List Byte :=
  (List.range 32).map (fun b => BitVec.ofNat 8 ((List.range 8).foldl (fun a i =>
    a + if c.rxGot.contains ((c.rxNext + 8 * b + i) % 2 ^ 32) then 2 ^ i else 0) 0))

/-- An ACK sent for a connection; HANDLE names its class. -/
def State.sendAck (s : State) (c : Conn) : State :=
  let k := { s.header c.slot c.peer tAck c.cls 0 (s.epochOf c.slot) with
    ackv := true, ackPsn := (2 ^ 32 - 1 + c.rxNext) % 2 ^ 32, last := true, payload := c.bitmap }
  (s.setConn { c with since := 0 }).sendLoose c.hf c.slot k

/-- NEXT moved past every PSN received. -/
def advance : Nat → Nat → List Nat → Nat × List Nat
  | 0, next, got => (next, got)
  | n + 1, next, got => if got.contains next then advance n ((next + 1) % 2 ^ 32) (got.erase next) else (next, got)

/-- Packets of the same message. -/
def sameMsg (a b : GftPacket) : Bool := a.typ = b.typ && a.handle = b.handle && a.msg = b.msg && a.epoch = b.epoch

/-- The bytes of a complete message among packets; none while some are missing (R325). -/
def assemble (l : List GftPacket) (k : GftPacket) : Option (List Byte) :=
  let m := l.filter (sameMsg k)
  match m.find? (fun p => p.last) with
  | none => none
  | some e =>
    let total := e.off * 64 + e.payload.length
    if (m.map (fun p => p.payload.length)).sum < total then none
    else some ((m.mergeSort (fun a b => a.off ≤ b.off)).flatMap (fun p => p.payload))

/-- ACK_EVERY, RTO and retry settings. -/
def State.ackEvery (s : State) : Nat := max 1 (s.fld Reg.HF_GFT_TIMER 18 5)
def State.retryMax (s : State) : Nat := max 1 (s.fld Reg.HF_GFT_TIMER 10 4)

/-- A window packet at its receiver: the state with it accepted, counted or discarded, and whether it was accepted. -/
def State.windowAccept (s : State) (c : Conn) (k : GftPacket) : State × Bool :=
  let d := psnDist k.psn c.rxNext
  let ackSoon := fun (s : State) (c : Conn) (now : Bool) =>
    if now || s.ackEvery ≤ c.since then s.sendAck c else s.setConn c
  if d ≤ 1023 then
    if c.rxGot.contains k.psn then
      (ackSoon (s.count (Reg.HF_GFT_DUP c.hf) 0 16 1) { c with since := c.since + 1 } k.solicit, false)
    else
      let r := advance 1024 c.rxNext (k.psn :: c.rxGot)
      let c := { c with rxNext := r.1, rxGot := r.2, held := c.held ++ [k], since := c.since + 1, used := s.tick }
      (ackSoon { s with tick := s.tick + 1 } c (k.solicit || r.2 ≠ []), true)
  else if psnDist ((2 ^ 32 - 1 + c.rxNext) % 2 ^ 32) k.psn < 2 ^ 31 then
    (ackSoon (s.count (Reg.HF_GFT_DUP c.hf) 0 16 1) { c with since := c.since + 1 } k.solicit, false)
  else (s.count (Reg.HF_GFT_DUP c.hf) 16 16 1, false)

/-- The message a packet completes, taken from its connection. -/
def State.takeMessage (s : State) (id : Nat) (k : GftPacket) : State × Option (List Byte) :=
  match s.connById id with
  | none => (s, none)
  | some c =>
    match assemble c.held k with
    | none => (s, none)
    | some l => (s.setConn { c with held := c.held.filter (fun p => !sameMsg k p) }, some l)

/-! ### Acknowledgments and retransmission (R326) -/

/-- Packets sent again with RETX set. -/
def State.resend (s : State) (c : Conn) (l : List GftPacket) : State :=
  l.foldl (fun s k => (s.transmit c.hf c.id { k with retx := true }).count (Reg.HF_GFT_RETX c.hf) 0 16 1) s

/-- PSNs that a bitmap marks, from ACK_PSN + 1 on. -/
def markedBy (ackPsn : Nat) (bitmap : List Byte) : List Nat :=
  (List.range 256).filterMap (fun i => if (bitmap.getD (i / 8) 0#8).getLsbD (i % 8) then some ((ackPsn + 1 + i) % 2 ^ 32) else none)

/-- An acknowledgment at the sender: covered packets leave with their tags, and holes followed by 8 received packets are resent once. -/
def State.ackReceived (s : State) (c : Conn) (ackPsn : Nat) (marked : List Nat) : State :=
  let rest := c.unacked.filter (fun k => !(psnDist ackPsn k.psn < 2 ^ 31))
  let gone := c.unacked.length - rest.length
  let holes := rest.filter (fun k => !marked.contains k.psn && !c.resent.contains k.psn &&
    decide (8 ≤ (marked.filter (fun m => m ≠ k.psn && psnDist m k.psn < 2 ^ 31)).length))
  let c := { c with
    unacked := rest, marked := marked, fails := if gone = 0 then c.fails else 0
    resent := (c.resent.filter (fun p => rest.any (fun k => k.psn = p))) ++ holes.map (·.psn) }
  (((s.freeTags c.hf (.conn c.id) gone).setConn c).resend c holes).pumpAll c.id

/-! ### Peer loss and return (R343 to R346) -/

/-- The rows a request still waits for are poisoned (R341). -/
def State.poisonRows (s : State) (r : RowReq) : State :=
  let s : State := { s with rowReqs := s.rowReqs.filter (fun q => q.id ≠ r.id) }
  let s := s.freeUser (.rows r.id)
  { s with hoists := s.hoists.put [] r.hoist ((s.hoists.get [] r.hoist).map (fun c =>
      if c.id = r.cmd then { c with rows := c.rows.map (fun w =>
        if w.tier = 3 && !w.arrived && r.rows.any (fun x => x.2.2 = w.row) then { w with arrived := true, poisoned := true } else w) } else c)) }

/-- A ledger entry retires (R206, R272): nothing of its request is left to meet the entry's next one. -/
def State.retire (s : State) (e : Nat) : State :=
  State.settleGens { s.forgetRequest e with ledger := s.ledger.put {} e {}, sweepTags := s.sweepTags.filter (fun t => t.2.1 ≠ e + 1) }

/-- Whether a module index is a member of a collective (R334). -/
def State.collMember (s : State) (h i : Nat) : Bool :=
  let base := bitsOf (s.coll h 1).toNat 0 16
  let stride := max 1 (bitsOf (s.coll h 1).toNat 16 16)
  base ≤ i && (i - base) % stride = 0 && (i - base) / stride < bitsOf (s.coll h 2).toNat 0 17

/-- A running collective ends in FAULT, and its plait entry with it. -/
def State.failColl (s : State) (h : Nat) : State :=
  let s := s.setColl h 0 (BitVec.ofNat 32 (setBits (s.coll h 0).toNat 10 2 3))
  let e := (s.collRun.get {} h).entry
  let s := if s.entryState e = 1 && s.bit (Reg.PN_PLAIT_CTL e) 6 && s.fld (Reg.PN_PLAIT_COLL e) 0 16 = h then s.setEntryState e 3 else s
  { s with collRun := s.collRun.put {} h {} }

/-- The handles of a slot's running collectives. -/
def State.runningColls (s : State) (slot : Nat) : List Nat :=
  (s.colls.filter (fun e => e.1 % 8 = 0 && bitsOf e.2.toNat 10 2 = 1 && bitsOf e.2.toNat 4 6 = slot)).map (fun e => e.1 / 8)

/-- A peer of a slot's group is lost (R344, R345). -/
def State.peerLost (s : State) (slot peer reason : Nat) : State :=
  let s := (s.conns.filter (fun c => c.slot = slot && c.peer = peer)).foldl State.dropConn s
  let s := ((s.runningColls slot).filter (fun h => s.collMember h peer)).foldl State.failColl s
  let s := (s.rowReqs.filter (fun r => r.slot = slot && r.peer = peer)).foldl State.poisonRows s
  let s := (s.ledger.filter (fun e => e.2.st ≠ 0 && !e.2.capsule && e.2.slot = slot && e.2.origin = peer)).foldl (fun s e => (s.dropRequest e.1).retire e.1) s
  let s := s.raise .PEER_LOST .info (srcJob slot) [peer, reason]
  let s := if s.bit (Reg.HF_GROUP_LOST slot) 16 then s else s.setFld (Reg.HF_GROUP_LOST slot) 0 17 (2 ^ 16 + peer)
  let e := s.epochSt slot
  let s := s.setEpochSt slot { e with lost := if e.lost.contains peer then e.lost else e.lost ++ [peer] }
  if s.classOf slot ≠ 1 then s else
  let s := s.setBit (Reg.HF_GROUP_MODULE slot) 17 true
  if s.slotIs slot .running && (s.job slot).drainOrder = 0 && s.fld (Reg.PN_JOB_LIVE slot) 0 22 ≠ 0 then s.abortStep slot else s

/-- A lost peer announces its return (R345, R346). Before the loss was declared it cancels the pending declaration. -/
def State.peerBack (s : State) (slot peer : Nat) : State :=
  let s : State := { s with conns := s.conns.map (fun c => if c.slot = slot && c.peer = peer then { c with fails := 0 } else c) }
  let e := s.epochSt slot
  if !e.lost.contains peer then s else
  let left := e.lost.erase peer
  let s := (s.setEpochSt slot { e with lost := left }).raise .PEER_BACK .info (srcJob slot) [peer]
  if left ≠ [] then s else (s.setBit (Reg.HF_GROUP_MODULE slot) 17 false).releaseStep slot

/-! ### Timers -/

/-- RETRANSMIT_TIMEOUT: RTO_US has passed since a connection's oldest unacknowledged packet, or its OPEN, was sent (R326, R343). -/
def State.retransmit (s : State) (id : Nat) : State :=
  match s.connById id with
  | none => s
  | some c =>
    if c.ready && c.unacked = [] then s else
    let s := s.count (Reg.HF_GFT_RETX c.hf) 16 16 1
    let c := { c with fails := c.fails + 1 }
    if s.retryMax ≤ c.fails then (s.setConn c).peerLost c.slot c.peer 0xFFFFFFFF
    else if c.ready then (s.setConn c).resend c (c.unacked.filter (fun k => !c.marked.contains k.psn))
    else (s.setConn c).sendOpenMsg c.hf c.slot c.peer 1 c.cls c.rxNext

def execRetransmitTimeout (id : Nat) (s : State) : Host.Outcome State Fault Refusal := .next (s.retransmit id)

/-- ACK_DELAY_EXPIRE: ACK_DELAY_US after an unacknowledged receipt (R326). -/
def State.ackDelay (s : State) (id : Nat) : State :=
  match s.connById id with
  | none => s
  | some c => if c.since = 0 then s else s.sendAck c

def execAckDelayExpire (id : Nat) (s : State) : Host.Outcome State Fault Refusal := .next (s.ackDelay id)

/-- A row request's packets sent, once it holds a tag (R329). -/
def State.sendRowReq (s : State) (r : RowReq) : State :=
  let words := r.rows.flatMap (fun x => [x.1 + 2 ^ 12 * x.2.1, x.2.2 % 2 ^ 32, x.2.2 / 2 ^ 32 % 256, r.slot])
  (cutMessage (s.header r.slot r.peer tRowReq r.rows.length r.id (s.epochOf r.slot)) s.maxPayload 2 0 (wordsPayload words)).foldl
    (fun s k => s.sendLoose r.hf r.slot k) s

/-- A row request's request for a tag. -/
def RowReq.tagReq (r : RowReq) : TagWait := { hf := r.hf, slot := some r.slot, age := r.id, user := .rows r.id, size := 16 * r.rows.length }

/-- A row request takes a tag and goes out, or waits for one. -/
def State.startRowReq (s : State) (r : RowReq) : State :=
  if s.tagFree r.hf (some r.slot) then
    let s := s.takeTag r.tagReq
    let s : State := { s with rowReqs := s.rowReqs.map (fun q => if q.id = r.id then { q with sent := true } else q) }
    s.sendRowReq r
  else s.stallTag { r.tagReq with age := s.tick }

/-- REQUEST_RETRY_TIMEOUT: no response RTO_US after a row request was sent (R327, R341). -/
def State.requestRetry (s : State) (id : Nat) : State :=
  match s.rowReqs.find? (fun r => r.id = id) with
  | none => s
  | some r =>
    if !r.sent then s
    else if s.retryMax ≤ r.tries then s.poisonRows r
    else
      let s : State := { s with rowReqs := s.rowReqs.map (fun q => if q.id = id then { q with tries := q.tries + 1 } else q) }
      s.sendRowReq r

def execRequestRetryTimeout (id : Nat) (s : State) : Host.Outcome State Fault Refusal := .next (s.requestRetry id)

/-- PEER_WAIT_EXPIRE: a TRAIN slot has been in HOLD for PEER_WAIT_S (R345). -/
def State.peerWaitExpire (s : State) (slot : Nat) : State :=
  if s.bit (Reg.HF_GROUP_MODULE slot) 17 then
    let peer := (s.epochSt slot).lost.headD 0
    ((s.setBit (Reg.HF_GROUP_MODULE slot) 17 false).raise .PEER_LOST .jobFatal (srcJob slot) [peer, 0xFFFFFFFF]).stopSlot slot
  else s

def execPeerWaitExpire (slot : Nat) (s : State) : Host.Outcome State Fault Refusal := .next (s.peerWaitExpire slot)

end Sys2Proof.Machine
end

