-- ==== Sys2Proof/Machine/Issue.lean ====
section
/-! DEFINITION. How a stitch core issues an instruction (R118, R119, R124, R125, R149, R151), core fences (R465, R466), and the
words that an exception record names (R132, R133). -/

namespace Sys2Proof.Machine

/-! ### Encoding (R132, R133) -/

/-- A one-word instruction. -/
def encWord (op d a b fn : Nat) : Nat := 2 ^ 26 * op + 2 ^ 21 * d + 2 ^ 16 * a + b * 2 ^ 11 + fn
/-- Word 0 of a long form. -/
def encLong (op d a b space : Nat) : Nat := 0x3F * 2 ^ 26 + 2 ^ 21 * d + 2 ^ 16 * a + b * 2 ^ 11 + op * 2 ^ 5 + space

/-- The words of an instruction: word 0, and word 1 of a long form. -/
structure Insn where
  w0 : Nat
  w1 : Nat := 0
  long : Bool := false
deriving DecidableEq, Repr

/-- The words of an instruction with an immediate in either form. -/
def encImm (op d a b : Nat) : Imm → Insn
  | .short i => { w0 := encWord op d a b i.toNat }
  | .long i => { w0 := encLong op d a b 0, w1 := i.toNat, long := true }

/-- The words of a load or store. -/
def encMem (op d a b : Nat) : MemOff → Insn
  | .short sp o => { w0 := encWord op d a b (sp.val * 2 ^ 9 + o.toNat) }
  | .long sp o => { w0 := encLong op d a b sp.val, w1 := o.toNat, long := true }

/-- The 32-bit value of an immediate: imm11 sign-extended, or the long form's word (R135). -/
def immWord : Imm → Word
  | .short i => i.signExtend 32
  | .long i => i

/-! ### Core fences -/

/-- Bit of a core in MT_CORES_FENCED and MT_CORES_SPARE. -/
def State.coreFenced (s : State) (m c : Nat) : Bool := s.bit (Reg.MT_CORES_FENCED m) c
def State.coreSpare (s : State) (m c : Nat) : Bool := s.bit (Reg.MT_CORES_SPARE m) c

/-- The four contexts of a core put OFFLINE or made FREE. -/
def State.setCorePhase (s : State) (m c : Nat) (p : CtxPhase) : State :=
  [0, 1, 2, 3].foldl (fun s i => s.setContext (m * 128 + c * 4 + i) { phase := p, task := none }) s

/-- A core is fenced (R465, R466): its contexts are lost, each task it held takes CORE_FENCED (R202), and a spare, the
lowest-numbered one, becomes active; with none left MOTIF_DEGRADED is raised. -/
def State.fenceCore (s : State) (m c cause : Nat) : State :=
  if s.coreFenced m c then s else
  s.oneCycle fun s =>
  let keys := [0, 1, 2, 3].filterMap (fun i => (s.context (m * 128 + c * 4 + i)).task)
  let s := s.setBit (Reg.MT_CORES_FENCED m) c true
  let s := (s.setBit (Reg.MT_CORES_SPARE m) c false).noteMaps
  let s := match keys with
    | [] => s.raise .CORE_FENCED .fenced m [c, cause]
    | k :: _ => s.raise .CORE_FENCED (s.policyClass (slotOf k)) m [c, cause, slotOf k]
  let s := s.setCorePhase m c .offline
  let s := keys.foldl (fun s k => if s.alive k then s.taskFault k .CORE_FENCED m else s) s
  match (List.range 32).find? (fun i => s.coreSpare m i) with
  | some i => (s.setBit (Reg.MT_CORES_SPARE m) i false).setCorePhase m i .free
  | none => s.raise .MOTIF_DEGRADED .info m [c]

/-! ### Issue -/

/-- What an instruction does when it may issue. -/
inductive Issue
  | fault (code : Code) (addr detail : Nat)      -- refused at issue (R149)
  | stay (s : State) (phase : CtxPhase) (w : Wait) -- the context waits; nothing of the instruction has happened but `s`
  | go (s : State) (t : Task) (pc : Option Word) -- it completes: the task's new state, and a jump target
  | leave (s : State)                            -- it completes and the task has left the context

/-- Whether a context is ready as R118 has it, as far as its state shows: it holds a task that waits for nothing. -/
def State.readyCtx (s : State) (x : Nat) : Bool :=
  match (s.context x).task with
  | none => false
  | some k =>
    ((s.context x).phase = .ready || (s.context x).phase = .running) && (s.task k).wait = .none && !s.deferred.any (fun d => d.cmd.key = k)

/-- Whether it is a context's turn to issue (R118): no ready context stands before it in round-robin order after the one of its core that
issued last. -/
def State.turn (s : State) (x : Nat) : Bool :=
  let last := (s.core (x / 4)).last
  (List.range ((x % 4 + 3 - last % 4) % 4)).all (fun i => !s.readyCtx (x / 4 * 4 + (last + 1 + i) % 4))

/-- A context is the one of its core that issued last. -/
def State.tookTurn (s : State) (x : Nat) : State := s.setCore (x / 4) { s.core (x / 4) with last := x % 4 }

/-- A context that issues is RUNNING; the core's other contexts no longer are (R153). -/
def State.setRunning (s : State) (x : Nat) : State :=
  let s := [0, 1, 2, 3].foldl (fun s i =>
    let y := x / 4 * 4 + i
    if (s.context y).phase = .running then s.setContext y { s.context y with phase := .ready } else s) s
  (s.tookTurn x).setContext x { s.context x with phase := .running }

/-- Device address of a byte of a motif's copy of a job slot's code window (R124). -/
def State.codeAddr (s : State) (m slot pc : Nat) : Nat :=
  0x18000 * (m * 4 + s.fld (Reg.PN_JOBMAP_CTL slot) 0 2) + s.fld (Reg.PN_JOBMAP_CTL slot) 2 11 * 64 + pc

/-- How a fetch ends. -/
inductive Fetched
  | ok (s : State)
  | refused (s : State)
  | waits (s : State)

/-- Lines read are put into the fetch buffer of a core: four lines, the newest first. -/
def State.fillBuffer (s : State) (c slot : Nat) (lines : List Nat) : State :=
  let new := lines.filter (fun l => !(s.core c).fetch.contains (slot, l))
  if new = [] then s else s.setCore c { s.core c with fetch := (new.map (fun l => (slot, l)) ++ (s.core c).fetch).take 4 }

/-- The cores of a motif that wait for a line of a slot's code window: those with a context whose task's next instruction begins in it. -/
def State.waitsLine (s : State) (m slot l : Nat) : List Nat :=
  ((s.ctx.filter (fun e => motifOf e.1 = m)).filter (fun e =>
    match e.2.task with
    | some k => (s.task k).slot = slot && (s.task k).wait = .none && (s.task k).pc.toNat / 64 = l
    | none => false)).map (fun e => e.1 / 4)

/-- The fetch of an instruction (R124, R125): the PC is checked, and a line not in the core's buffer is read from the code bank,
whoever owns it; the one read serves every core of the motif that waits for that line. -/
def State.fetch (s : State) (x slot pc bytes : Nat) : Fetched :=
  let m := motifOf x
  let c := x / 4
  if pc % 4 ≠ 0 || s.fld (Reg.PN_JOBMAP_CTL slot) 13 11 * 64 < pc + bytes then .refused s else
  let lines := if (pc + bytes - 1) / 64 = pc / 64 then [pc / 64] else [pc / 64, pc / 64 + 1]
  let missing := lines.filter (fun l => !(s.core c).fetch.contains (slot, l))
  if missing = [] then .ok s else
  let b := bankOf (s.codeAddr m slot pc)
  match s.served b with
  | .waits => .waits s
  | .wakes => .waits (s.autoWake b)
  | .asleep => .refused (s.asleep b)
  | .yes =>
    let r := missing.foldl (fun (acc : State × Bool) l =>
      let r := acc.1.readPort (s.codeAddr m slot (l * 64)) 64
      (r.1, acc.2 || r.2.2)) (s, false)
    if r.2 then .refused r.1
    else .ok (missing.foldl (fun s l => (s.waitsLine m slot l).eraseDups.foldl (fun s c' => if c' = c then s else s.fillBuffer c' slot [l]) s)
      (r.1.fillBuffer c slot missing))

/-- Whether a register awaits a load's data (R119). s0, which always reads as zero, awaits none. -/
def Task.pendingIn (t : Task) (d : LoadDst) : Bool := d ≠ .s 0 && t.loads.any (fun l => l.dst = d && !l.dead)

/-- Loads outstanding into registers that a later instruction writes: what they return is no longer for the register, which holds the
later result (DEDUCED, log entry 29). -/
def Task.supersede (t : Task) (writes : List LoadDst) : Task :=
  { t with loads := t.loads.map (fun l => if writes.contains l.dst then { l with dead := true } else l) }

/-- Whether a register that the instruction reads is poisoned (R151). -/
def Task.poisoned (t : Task) : LoadDst → Bool
  | .s r => t.poisonS.get false r
  | .v r => t.poisonV.get false r
  | .t r => t.poisonT.get false r

/-- An instruction of a context: fetched, checked for ILLEGAL, held while a register it reads is pending (R119), checked for poison
(R474), and run. A context that cannot issue, or whose turn it is not (R118), leaves the state unchanged. -/
def State.issue (s : State) (x : Nat) (i : Insn) (illegal : Bool) (reads writes : List LoadDst)
    (body : State → Nat → Task → Issue) : State :=
  match (s.context x).task with
  | none => s
  | some k =>
    let t := s.task k
    let ph := (s.context x).phase
    if !(ph = .ready || ph = .running || ph = .waitData) || t.wait ≠ .none || s.deferred.any (fun d => d.cmd.key = k) || !s.turn x then s else
    match s.fetch x t.slot t.pc.toNat (if i.long then 8 else 4) with
    | .waits s => s.setContext x { s.context x with phase := .waitData }
    | .refused s => (s.tookTurn x).issueFault x k .FETCH i.w0 i.w1 0 0
    | .ok s =>
      if illegal then (s.tookTurn x).issueFault x k .ILLEGAL i.w0 i.w1 0 0
      else if reads.any t.pendingIn then s.setContext x { s.context x with phase := .waitData }
      else if reads.any t.poisoned then (s.tookTurn x).issueFault x k .DATA_POISON i.w0 i.w1 0 0
      else
        match body s k (t.supersede writes) with
        | .fault code addr detail => (s.tookTurn x).issueFault x k code i.w0 i.w1 addr detail
        | .stay s ph w => (s.setTask k { s.task k with wait := w }).setContext x { s.context x with phase := ph }
        | .go s t' pc =>
          (s.setTask k { t' with
            pc := pc.getD (t.pc + (if i.long then 8#32 else 4#32))
            issued := t.issued + 1#32 }).setRunning x
        | .leave s => s.tookTurn x

/-- The registers of a list, as an instruction names them. -/
def sregs (l : List Nat) : List LoadDst := l.map .s
def vregs (l : List Nat) : List LoadDst := l.map .v
def tregs (l : List Nat) : List LoadDst := l.map .t

end Sys2Proof.Machine
end

