-- ==== Sys2Proof/Machine/Operands.lean ====
section
/-! DEFINITION. Operand forms of the core instructions: second sources, shift amounts, addresses (R126) and the protection checks of
R127 and R128. -/

namespace Sys2Proof.Machine

/-- Value of a second source. -/
def Task.src (t : Task) : Src → Word
  | .reg b => t.sreg b.val
  | .imm i => immWord i

/-- Registers a second source reads. -/
def srcReads : Src → List LoadDst
  | .reg b => sregs [b.val]
  | .imm _ => []

/-- A shift amount modulo 32 (R135). -/
def Task.amount (t : Task) : ShAmt → Nat
  | .reg b => (t.sreg b.val).toNat % 32
  | .const n => n.val

/-- Registers a shift amount reads. -/
def amountReads : ShAmt → List LoadDst
  | .reg b => sregs [b.val]
  | .const _ => []

/-- SPACE of a memory operand. -/
def spaceOf : MemOff → Nat
  | .short sp _ => sp.val
  | .long sp _ => sp.val

/-- Byte offset of a memory operand: in units of the access size in the M format (R138). -/
def offsetOf (size : Nat) : MemOff → Word
  | .short _ o => o.signExtend 32 * BitVec.ofNat 32 size
  | .long _ o => o

/-- Start of the segment of a SPACE (R126). -/
def Task.segment (t : Task) (n : Nat) : Nat := 2 ^ 32 * bitsOf (t.cword (3 + n)).toNat 0 24

/-- Device address of an access in SPACE 1 to 3 (R126). -/
def Task.devAddr (t : Task) (a : Nat) (size : Nat) (off : MemOff) : Nat :=
  t.segment (spaceOf off) + (t.sreg a + offsetOf size off).toNat

/-- Private offset of an access in SPACE 0, which does not wrap (R126). -/
def Task.privAddr (t : Task) (a : Nat) (size : Nat) (off : MemOff) : Int :=
  (t.sreg a).toInt + (offsetOf size off).toInt

/-- Whether a private access lies within the window (R126). -/
def privOk (o : Int) (size : Nat) : Bool := 0 ≤ o && o + size ≤ 128

/-- The first failing check of R127 and R128 for a task's device access; none when it may go on to the ownership check. -/
def State.protect (s : State) (slot a n : Nat) (write : Bool) : Option Code :=
  let ctl := Reg.PN_JOBMAP_CTL slot
  let within := fun base lo hi => decide (lo ≤ a - base) && decide (a + n - base ≤ hi)
  if a + n ≤ bankEnd then
    if !s.bit ctl 24 then some .PROT
    else if within 0 (s.rd (Reg.PN_JOBMAP_BANK_BASE slot)).toNat (s.rd (Reg.PN_JOBMAP_BANK_LIMIT slot)).toNat then none
    else some .PROT
  else if s.extOk a n then
    if !s.bit ctl 25 then some .PROT
    else if within extBase (s.rd2 (Reg.PN_JOBMAP_EXT_BASE_LO slot) (Reg.PN_JOBMAP_EXT_BASE_HI slot))
        (s.rd2 (Reg.PN_JOBMAP_EXT_LIMIT_LO slot) (Reg.PN_JOBMAP_EXT_LIMIT_HI slot)) then none
    else some .PROT
  else if hostBase ≤ a && a + n ≤ 2 ^ 56 then
    if !s.bit ctl 26 then some .PROT
    else if !within hostBase (s.rd2 (Reg.PN_JOBMAP_HOST_BASE_LO slot) (Reg.PN_JOBMAP_HOST_BASE_HI slot))
        (s.rd2 (Reg.PN_JOBMAP_HOST_LIMIT_LO slot) (Reg.PN_JOBMAP_HOST_LIMIT_HI slot)) then some .PROT
    else if write && !s.bit ctl 27 then some .PROT
    else none
  else some .ADDR

/-- Whether an address lies in the banks of a motif. -/
def inOwnBanks (m a n : Nat) : Bool := m * 4 ≤ bankOf a && a < bankEnd && bankOf (a + n - 1) < m * 4 + 4

end Sys2Proof.Machine
end

