-- ==== Sys2Proof/Machine/Flags.lean ====
section
/-! DEFINITION. Lanes, packed elements and the flags of vector instructions (R139, R140): what each active lane computes, and the
flags of all active lanes together. -/

namespace Sys2Proof.Machine

/-- Lane l of a vector register. -/
def lane (v : Vec) (l : Nat) : Nat := bitsOf v.toNat (32 * l) 32
/-- Lane l replaced. -/
def setLane (v : Vec) (l n : Nat) : Vec := BitVec.ofNat 256 (setBits v.toNat (32 * l) 32 n)
/-- Bit l of a predicate. -/
def active (p : Byte) (l : Nat) : Bool := p.getLsbD l

/-- First bit of packed element e of part `part` (R139). -/
def packedAt (f : Fmt) (part e : Nat) : Nat := (8 * part + e) * f.width
/-- A packed element. -/
def packed (f : Fmt) (v : Vec) (part e : Nat) : Nat := bitsOf v.toNat (packedAt f part e) f.width
/-- A packed element replaced. -/
def setPacked (f : Fmt) (v : Vec) (part e n : Nat) : Vec := BitVec.ofNat 256 (setBits v.toNat (packedAt f part e) f.width n)
/-- Parts a packed format has (R139). -/
def partsOf (f : Fmt) : Nat :=
  match f.width with
  | 16 => 2 | 8 => 4 | 6 => 4 | 4 => 8 | _ => 1

/-- Element l of a register: a lane, its low bits for binary16, or a packed element. -/
def element (f : Fmt) (v : Vec) (part l : Nat) : Nat :=
  if f.isLane then lane v l % 2 ^ f.width else packed f v part l
/-- That element replaced; a binary16 result clears the lane's upper half. -/
def setElement (f : Fmt) (v : Vec) (part l n : Nat) : Vec :=
  if f.isLane then setLane v l n else setPacked f v part l n

/-- The lanes 0 to 7 folded: each active lane's result is stored and its flags are ORed (R140). -/
def laneFold (p : Byte) (v0 : Vec) (f : Nat → Nat × Flags) (store : Vec → Nat → Nat → Vec) : Vec × Flags :=
  (List.range 8).foldl (fun acc l =>
    if active p l then
      let r := f l
      (store acc.1 l r.1, acc.2 ||| r.2)
    else acc) (v0, 0#8)

/-- The lane formats of a two-bit format field (R141). -/
def laneFmt (f : BitVec 2) : Option Fmt :=
  match f.toNat with
  | 0 => some .b32 | 1 => some .b16 | 2 => some .i32 | _ => none

/-- The quantised targets of VQNT and VDQ (R147). -/
def quantFmt (f : BitVec 2) : Fmt :=
  match f.toNat with
  | 0 => .g8a | 1 => .g4 | 2 => .i8 | _ => .i4

/-- Function field of a vector instruction under a predicate. -/
def vecFn (p : PReg) (low : Nat) : Nat := p.val * 2 ^ 8 + low

end Sys2Proof.Machine
end

