-- ==== Sys2Proof/Machine/Vector.lean ====
section
/-! DEFINITION. Vector instructions (R139 to R146). -/

namespace Sys2Proof.Machine

/-- The operations of major opcode 0x22 (R141). -/
inductive VOp
  | add | sub | mul | fma | max | min | rcp | rsq | exp2
deriving DecidableEq, Repr

/-- The code of an operation. -/
def vopCode : VOp → Nat
  | .add => 0 | .sub => 1 | .mul => 2 | .fma => 3 | .max => 4 | .min => 5 | .rcp => 6 | .rsq => 7 | .exp2 => 8

/-- Whether an operation takes a format (R141). -/
def vopTakes (op : VOp) (f : Fmt) : Bool :=
  match op with
  | .fma | .rcp | .rsq | .exp2 => f ≠ .i32
  | _ => true

/-- One lane of vector arithmetic on codes a, b and, for VFMA, c. I32 wraps and sets no flag. -/
def vopLane (op : VOp) (f : Fmt) (rm : Rm) (a b c : Nat) : Nat × Flags :=
  if f = .i32 then
    let x := BitVec.ofNat 32 a
    let y := BitVec.ofNat 32 b
    let r := match op with
      | .add => x + y
      | .sub => x - y
      | .mul => x * y
      | .max => if x.slt y then y else x
      | _ => if x.slt y then x else y
    (r.toNat, 0#8)
  else match op with
    | .add => fadd f rm a b
    | .sub => fsub f rm a b
    | .mul => fmul f rm a b
    | .fma => ffma f rm a b c
    | .max => fmaxmin f true a b
    | .min => fmaxmin f false a b
    | .rcp => frcp f rm a
    | .rsq => frsqrt f rm a
    | .exp2 => fexp2 f rm a

/-- A vector arithmetic instruction; `b` is none for the one-operand operations. -/
def varith (op : VOp) (x : Nat) (d a : VReg) (b : Option VReg) (fmt : BitVec 2) (p : PReg) (s : State) : State :=
  let bn := (b.map (·.val)).getD 0
  let ok := match laneFmt fmt with
    | some f => vopTakes op f
    | none => false
  let reads := vregs ([a.val] ++ (b.map (·.val)).toList ++ (if op = .fma then [d.val] else []))
  s.issue x { w0 := encWord 0x22 d.val a.val bn (vecFn p (fmt.toNat * 2 ^ 6 + vopCode op)) } (!ok) reads (vregs [d.val])
    (fun s _ t =>
      let f := (laneFmt fmt).getD .b32
      let va := t.vreg a.val
      let vb := t.vreg bn
      let vd := t.vreg d.val
      let r := laneFold (t.preg p.val) vd
        (fun l => vopLane op f t.rm (element f va 0 l) (element f vb 0 l) (element f vd 0 l)) setLane
      .go s ((t.setV d.val r.1).flag r.2) none)

def execVadd (x : Nat) (d a b : VReg) (fmt : BitVec 2) (p : PReg) (s : State) : Host.Outcome State Fault Refusal :=
  .next (varith .add x d a (some b) fmt p s)
def execVsub (x : Nat) (d a b : VReg) (fmt : BitVec 2) (p : PReg) (s : State) : Host.Outcome State Fault Refusal :=
  .next (varith .sub x d a (some b) fmt p s)
def execVmul (x : Nat) (d a b : VReg) (fmt : BitVec 2) (p : PReg) (s : State) : Host.Outcome State Fault Refusal :=
  .next (varith .mul x d a (some b) fmt p s)
def execVfma (x : Nat) (d a b : VReg) (fmt : BitVec 2) (p : PReg) (s : State) : Host.Outcome State Fault Refusal :=
  .next (varith .fma x d a (some b) fmt p s)
def execVmax (x : Nat) (d a b : VReg) (fmt : BitVec 2) (p : PReg) (s : State) : Host.Outcome State Fault Refusal :=
  .next (varith .max x d a (some b) fmt p s)
def execVmin (x : Nat) (d a b : VReg) (fmt : BitVec 2) (p : PReg) (s : State) : Host.Outcome State Fault Refusal :=
  .next (varith .min x d a (some b) fmt p s)
def execVrcp (x : Nat) (d a : VReg) (fmt : BitVec 2) (p : PReg) (s : State) : Host.Outcome State Fault Refusal :=
  .next (varith .rcp x d a none fmt p s)
def execVrsq (x : Nat) (d a : VReg) (fmt : BitVec 2) (p : PReg) (s : State) : Host.Outcome State Fault Refusal :=
  .next (varith .rsq x d a none fmt p s)
def execVexp2 (x : Nat) (d a : VReg) (fmt : BitVec 2) (p : PReg) (s : State) : Host.Outcome State Fault Refusal :=
  .next (varith .exp2 x d a none fmt p s)

/-! ### Comparison and reduction -/

/-- One lane of VCMP (R142): the bit and its flags. LT and LE signal on any NaN, the others on a signalling one. -/
def cmpLane (f : Fmt) (cond a b : Nat) : Bool × Flags :=
  if f = .i32 then
    let x := BitVec.ofNat 32 a
    let y := BitVec.ofNat 32 b
    (match cond with
      | 0 => x = y
      | 1 => x ≠ y
      | 2 => x.slt y
      | _ => x.sle y, 0#8)
  else
    let un := isNan f a || isNan f b
    let sn := isSnan f a || isSnan f b
    let va := valOf f a
    let vb := valOf f b
    match cond with
    | 0 => (!un && eqVal va vb, flagIf sn flagNV)
    | 1 => (un || !eqVal va vb, flagIf sn flagNV)
    | 2 => (!un && ltVal va vb, flagIf un flagNV)
    | 3 => (!un && (ltVal va vb || eqVal va vb), flagIf un flagNV)
    | _ => (un, flagIf sn flagNV)

def execVcmp (x : Nat) (d : PReg) (a b : VReg) (fmt : BitVec 2) (cond : BitVec 3) (p : PReg) (s : State) :
    Host.Outcome State Fault Refusal :=
  let bad := laneFmt fmt = none || 4 < cond.toNat || (cond.toNat = 4 && laneFmt fmt = some .i32)
  .next (s.issue x { w0 := encWord 0x2A d.val a.val b.val (vecFn p (fmt.toNat * 2 ^ 6 + cond.toNat)) } bad
    (vregs [a.val, b.val]) []
    (fun s _ t =>
      let f := (laneFmt fmt).getD .b32
      let r := (List.range 8).foldl (fun (acc : Nat × Flags) l =>
        if active (t.preg p.val) l then
          let c := cmpLane f cond.toNat (element f (t.vreg a.val) 0 l) (element f (t.vreg b.val) 0 l)
          (acc.1 + b2n c.1 * 2 ^ l, acc.2 ||| c.2)
        else acc) (0, 0#8)
      .go s ((t.setP d.val (BitVec.ofNat 8 r.1)).flag r.2) none))

/-- A join of two sides, either of which may be absent (R143). -/
def joinSides (f : Nat → Nat → Nat × Flags) : Option Nat × Flags → Option Nat × Flags → Option Nat × Flags
  | (some a, fa), (some b, fb) => let r := f a b; (some r.1, fa ||| fb ||| r.2)
  | (some a, fa), (none, fb) => (some a, fa ||| fb)
  | (none, fa), (b, fb) => (b, fa ||| fb)

/-- The reduction of eight lanes in the fixed pairing of R143. -/
def reduceLanes (f : Nat → Nat → Nat × Flags) (g : Nat → Option Nat) : Option Nat × Flags :=
  let l := fun i => (g i, (0#8 : Flags))
  let j := joinSides f
  j (j (j (l 0) (l 1)) (j (l 2) (l 3))) (j (j (l 4) (l 5)) (j (l 6) (l 7)))

/-- The result of VRED with no lane active. -/
def reduceEmpty (op : Nat) (f : Fmt) : Nat :=
  match op with
  | 0 => 0
  | 1 => if f = .i32 then 0x80000000 else signCode f true + f.topCode
  | _ => if f = .i32 then 0x7FFFFFFF else f.topCode

def execVred (x : Nat) (d : SReg) (a : VReg) (op fmt : BitVec 2) (p : PReg) (s : State) : Host.Outcome State Fault Refusal :=
  .next (s.issue x { w0 := encWord 0x28 d.val a.val 0 (vecFn p (fmt.toNat * 2 ^ 6 + op.toNat)) }
    (laneFmt fmt = none || op.toNat = 3) (vregs [a.val]) (sregs [d.val])
    (fun s _ t =>
      let f := (laneFmt fmt).getD .b32
      let o := match op.toNat with
        | 0 => VOp.add
        | 1 => VOp.max
        | _ => VOp.min
      let r := reduceLanes (fun u v => vopLane o f t.rm u v 0)
        (fun l => if active (t.preg p.val) l then some (element f (t.vreg a.val) 0 l) else none)
      .go s ((t.setS d.val (BitVec.ofNat 32 (r.1.getD (reduceEmpty op.toNat f)))).flag r.2) none))

/-! ### Moves (R144) -/

def execVsel (x : Nat) (d a b : VReg) (p : PReg) (s : State) : Host.Outcome State Fault Refusal :=
  .next (s.issue x { w0 := encWord 0x29 d.val a.val b.val (vecFn p 0) } false (vregs [a.val, b.val]) (vregs [d.val])
    (fun s _ t => .go s (t.setV d.val ((List.range 8).foldl (fun v l =>
      setLane v l (lane (if active (t.preg p.val) l then t.vreg a.val else t.vreg b.val) l)) 0#256)) none))

def execVspl (x : Nat) (d : VReg) (a : SReg) (p : PReg) (s : State) : Host.Outcome State Fault Refusal :=
  .next (s.issue x { w0 := encWord 0x2B d.val a.val 0 (vecFn p 0) } false (sregs [a.val]) (vregs [d.val])
    (fun s _ t => .go s (t.setV d.val
      (laneFold (t.preg p.val) (t.vreg d.val) (fun _ => ((t.sreg a.val).toNat, 0#8)) setLane).1) none))

def execVget (x : Nat) (d : SReg) (a : VReg) (l : Fin 8) (s : State) : Host.Outcome State Fault Refusal :=
  .next (s.issue x { w0 := encWord 0x2B d.val a.val 0 (l.val * 2 ^ 8 + 1) } false (vregs [a.val]) (sregs [d.val])
    (fun s _ t => .go s (t.setS d.val (BitVec.ofNat 32 (lane (t.vreg a.val) l.val))) none))

/-! ### VDACT (R145) -/

/-- A step of a VDACT sequence: its result, with the flags of the steps before it ORed in. -/
def stepFlags (f : Flags) (r : Nat × Flags) : Nat × Flags := (r.1, f ||| r.2)

/-- One lane of VDACT: g × f′(y). `alpha` is the leaky slope. -/
def dactLane (f : Fmt) (rm : Rm) (fn alpha y g : Nat) : Nat × Flags :=
  match nanResult f [y] with
  | some r => r
  | none =>
    let one := if f = .b32 then 0x3F800000 else 0x3C00
    let negate := fun c => c ^^^ 2 ^ (f.width - 1)
    let pos := ltVal (.fin false 0 0) (valOf f y)
    let neg := ltVal (valOf f y) (.fin false 0 0)
    let d : Nat × Flags := match fn with
      | 0 => ffma f rm (negate y) y y
      | 1 => ffma f rm (negate y) y one
      | 2 => (if pos then one else 0, 0#8)
      | 3 => (if pos then one else alpha, 0#8)
      | 4 =>
        let a := fmul f rm y (if f = .b32 then 0x3FB8AA3B else 0x3DC5)
        let b := stepFlags a.2 (fexp2 f rm (negate a.1))
        stepFlags b.2 (fsub f rm one b.1)
      | 5 => if neg then fadd f rm y one else (one, 0#8)
      | _ => (y, 0#8)
    stepFlags d.2 (fmul f rm g d.1)

def execVdact (x : Nat) (d a b : VReg) (fmt : BitVec 2) (fn : BitVec 6) (p : PReg) (s : State) : Host.Outcome State Fault Refusal :=
  .next (s.issue x { w0 := encWord 0x27 d.val a.val b.val (vecFn p (fmt.toNat * 2 ^ 6 + fn.toNat)) }
    (1 < fmt.toNat || 6 < fn.toNat) (vregs [a.val, b.val]) (vregs [d.val])
    (fun s _ t =>
      let f := if fmt.toNat = 0 then Fmt.b32 else Fmt.b16
      let alpha := if fmt.toNat = 0 then (t.cword 7).toNat else (t.cword 8).toNat % 2 ^ 16
      let r := laneFold (t.preg p.val) (t.vreg d.val)
        (fun l => dactLane f t.rm fn.toNat alpha (element f (t.vreg a.val) 0 l) (element f (t.vreg b.val) 0 l)) setLane
      .go s ((t.setV d.val r.1).flag r.2) none))

/-! ### VCVT (R146) -/

/-- The pair of conversions to a shorter format (R44). -/
def shorter (src dst : Fmt) : Bool :=
  match src, dst with
  | .b32, _ => true
  | .b16, .b32 => false
  | .b16, _ => true
  | .g16, .b32 => false
  | .g16, _ => true
  | .g8a, .b32 | .g8a, .b16 | .g8a, .g16 => false
  | .g8a, _ => true
  | .g8b, .b32 | .g8b, .b16 | .g8b, .g16 => false
  | .g8b, _ => true
  | .g6, .g4 | .g6, .i32 | .g6, .i8 | .g6, .i4 => true
  | .g6, _ => false
  | .g4, .i32 | .g4, .i8 | .g4, .i4 => true
  | .g4, _ => false
  | .i32, _ => true
  | .i8, .g8a | .i8, .g8b | .i8, .g6 | .i8, .g4 | .i8, .i4 => true
  | .i8, _ => false
  | .i4, .g4 => true
  | .i4, _ => false

/-- SR_SEED of a job slot (R48). -/
def State.seed (s : State) (slot : Nat) : Nat := s.rd2 (Reg.PN_JOB_SEED_LO slot) (Reg.PN_JOB_SEED_HI slot)
/-- Low 32 bits of a job slot's step counter. -/
def State.step32 (s : State) (slot : Nat) : Nat := (s.rd (Reg.PN_JOB_STEP_LO slot)).toNat
/-- The stochastic rounding of lane l of a task (R48). -/
def State.laneSr (s : State) (t : Task) (l : Nat) : Rm :=
  .sr (srBits (s.seed t.slot) (t.cword 1).toNat ((t.cword 2).toNat + 2 ^ 32 * (t.cword 3).toNat + l) (s.step32 t.slot))

def execVcvt (x : Nat) (d a : VReg) (src dst : BitVec 4) (part : BitVec 3) (sr : Bool) (p : PReg) (s : State) :
    Host.Outcome State Fault Refusal :=
  let bad := match Fmt.ofCode src.toNat, Fmt.ofCode dst.toNat with
    | some f, some g => f = g || !(part.toNat < (if f.isLane then 8 else partsOf f)) || !(part.toNat < (if g.isLane then 8 else partsOf g))
        || (f.isLane && g.isLane && part.toNat ≠ 0)
    | _, _ => true
  .next (s.issue x { w0 := encWord 0x24 d.val a.val (part.toNat * 4 + b2n sr * 2) (vecFn p (dst.toNat * 16 + src.toNat)) } bad
    (vregs [a.val]) (vregs [d.val])
    (fun s _ t =>
      let f := (Fmt.ofCode src.toNat).getD .b32
      let g := (Fmt.ofCode dst.toNat).getD .b32
      let stoch := (sr || bitOf t.arith.toNat 2) && shorter f g
      let r := laneFold (t.preg p.val) (t.vreg d.val)
        (fun l => convert f g (if stoch then s.laneSr t l else t.rm) t.flush (element f (t.vreg a.val) part.toNat l))
        (fun v l n => setElement g v part.toNat l n)
      .go s ((t.setV d.val r.1).noteFlags r.2 (t.cword 1).toNat) none))

end Sys2Proof.Machine
end

