-- ==== Sys2Proof/Machine/Quant.lean ====
section
/-! DEFINITION. Quantisation (chapter 05): scale words, calibration, element codes and their return, and VQNT and VDQ. -/

namespace Sys2Proof.Machine

/-- Fields of a scale word (R101). -/
def scaleOf (w : Word) : Nat := bitsOf w.toNat 0 16
def zpOf (w : Word) : Int := signedOf 8 (bitsOf w.toNat 16 8)
def isConst (w : Word) : Bool := w.getLsbD 24
def isAsym (w : Word) : Bool := w.getLsbD 26

/-- Largest magnitude of a target (R106). -/
def maxQ : Fmt → Nat
  | .g8a => 448 | .g4 => 6 | .i8 => 127 | _ => 7

/-- Whether a scale word is valid for a target (R101). -/
def scaleValid (f : Fmt) (w : Word) : Bool :=
  let zpOk := !isAsym w || (decide (-(2 ^ (f.width - 1) : Nat) ≤ zpOf w) && decide (zpOf w < (2 ^ (f.width - 1) : Nat)))
  (!isAsym w || f.isInt) &&
  (isConst w || (match valOf .g16 (scaleOf w) with
    | .fin false m _ => decide (m ≠ 0) && zpOk
    | _ => false))

/-- A quantised element: its code, its flags, and whether it escapes (R107, R108). -/
structure QCode where
  code : Nat
  flags : Flags := 0#8
  esc : Bool := false
deriving DecidableEq, Repr

/-- Whether a value is NaN or infinite. -/
def Val.special : Val → Bool
  | .fin _ _ _ => false
  | _ => true

/-- The code of an element's exact value against a scale word, for one target, rounding and escape setting (R107, R108). An element that
equals the constant of a CONST entry, an infinity too, takes code 0 before R108 is asked (DEDUCED, log entry 13: R107 takes the first
matching case). -/
def quantCode (f : Fmt) (rm : Rm) (flush escEn : Bool) (w : Word) (x : Val) : QCode :=
  let escapes := escEn && !f.isInt
  if isConst w then
    if eqVal x (valOf .g16 (scaleOf w)) then { code := 0 }
    else if escapes then { code := 0, esc := true }
    else { code := 0, flags := flagNX ||| flagIf x.special flagNV }
  else
    let zp := if isAsym w then zpOf w else 0
    let wd := f.width
    match x, valOf .g16 (scaleOf w) with
    | .nan n fr, _ =>
      if escapes then { code := 0, esc := true }
      else if f.isInt then { code := codeOf wd zp, flags := flagNV }
      else let r := encVal f rm flush (.nan n fr); { code := r.1, flags := r.2 }
    | .inf n, _ =>
      if escapes then { code := 0, esc := true }
      else if f.isInt then { code := if n then 2 ^ (wd - 1) else 2 ^ (wd - 1) - 1, flags := flagSAT ||| flagNV }
      else { code := signCode f n + f.maxCode, flags := flagSAT }
    | .fin n m e, .fin _ ms es =>
      let q := if m = 0 then (0, 0, false) else quotient m e ms es
      if f.isInt then
        let r := roundTo rm n q.1 q.2.1 0 q.2.2
        let v := signedMag n r.1 + zp
        let hi : Int := (2 ^ (wd - 1) - 1 : Nat)
        let lo : Int := -(2 ^ (wd - 1) : Nat)
        if hi < v then { code := codeOf wd hi, flags := flagSAT ||| flagIf r.2 flagNX }
        else if v < lo then { code := codeOf wd lo, flags := flagSAT ||| flagIf r.2 flagNX }
        else { code := codeOf wd v, flags := flagIf r.2 flagNX }
      else
        let r := roundFloat f rm flush n q.1 q.2.1 q.2.2
        if escapes && decide (r.2 &&& flagOF ≠ 0#8) then { code := 0, esc := true }
        else { code := if r.1 = 2 ^ (wd - 1) then 0 else r.1, flags := r.2 }
    | _, _ => { code := 0, flags := flagNV }

/-- The escape code of a target (R34): the negative-zero code. -/
def escCode (f : Fmt) : Nat := 2 ^ (f.width - 1)
/-- Whether a stored code is an escape code. -/
def isEsc (f : Fmt) (c : Nat) : Bool := !f.isInt && c = escCode f

/-- The binary32 value of a code that is no escape (R109): the product is rounded by RNE, for VDQ too (DEDUCED, log entry 14: R109 states
the rounding that R44 leaves to the operation). -/
def dequant (f : Fmt) (w : Word) (c : Nat) : Nat × Flags :=
  if isConst w then
    if c = 0 then convert .g16 .b32 .rne false (scaleOf w) else (Fmt.nanCode .b32, flagNV)
  else if f = .g8a && isNan .g8a c then
    ((convert .g8a .b32 .rne false c).1, flagIf (isSnan .g16 (scaleOf w)) flagNV)
  else
    let v : Val := if f.isInt then
        let k := signedOf f.width c - (if isAsym w then zpOf w else 0)
        .fin (k < 0) k.natAbs 0
      else valOf f c
    match valOf .g16 (scaleOf w) with
    | .nan n fr => encVal .b32 .rne false (.nan n fr)
    | sv =>
      match mulVal v sv with
      | some p => encVal .b32 .rne false p
      | none => (Fmt.nanCode .b32, flagNV)

/-- A positive exact quotient rounded upward to G16 (RU_G16 of R106). -/
def ruG16 (m1 : Nat) (e1 : Int) (m2 : Nat) : Nat :=
  let q := quotient m1 e1 m2 0
  (roundFloat .g16 .ru false false q.1 q.2.1 q.2.2).1

/-- The entry a calibration writes, and its flags (R106). -/
def calibrate (f : Fmt) (asym : Bool) (margin lo hi : Nat) : Word × Flags :=
  match valOf .b32 lo, valOf .b32 hi with
  | .fin n1 m1 e1, .fin n2 m2 e2 =>
    if ltVal (.fin n2 m2 e2) (.fin n1 m1 e1) then (0x3F80#32, flagNV)
    else if eqVal (.fin n1 m1 e1) (.fin n2 m2 e2) then
      let r := convert .b32 .g16 .rne false lo
      (BitVec.ofNat 32 (2 ^ 24 + (if r.1 = 0x8000 then 0 else r.1)), flagQCONST ||| (r.2 &&& flagNX))
    else if !asym then
      let big := if ltVal (.fin false m1 e1) (.fin false m2 e2) then (m2, e2) else (m1, e1)
      (BitVec.ofNat 32 (ruG16 big.1 (big.2 + margin) (maxQ f)), 0#8)
    else
      let d := exactSum n2 m2 e2 (!n1) m1 e1
      let sc := ruG16 d.1.natAbs (d.2 + margin) (2 ^ f.width - 1)
      match valOf .g16 sc with
      | .fin _ ms es =>
        let q := if m1 = 0 then (0, (0 : Int), false) else quotient m1 e1 ms es
        let r := signedMag n1 (roundTo .rne n1 q.1 q.2.1 0 q.2.2).1
        let half : Int := (2 ^ (f.width - 1) : Nat)
        let zp := -half - r
        let cl := max (-half) (min (half - 1) zp)
        (BitVec.ofNat 32 (2 ^ 26 + sc + 2 ^ 16 * codeOf 8 cl), flagIf (cl ≠ zp) flagSAT)
      | _ => (BitVec.ofNat 32 (2 ^ 26 + sc + 2 ^ 16 * codeOf 8 (-(2 ^ (f.width - 1) : Nat))), 0#8)   -- s is infinite: lo / s is 0
  | _, _ => (0x3F80#32, flagNV)

/-- The scale entry of lane l (R147). -/
def laneEntry (base : Word) (bcast : Bool) (l : Nat) : Nat := base.toNat + if bcast then 0 else l

/-- Lanes of a predicate, as a list. -/
def activeLanes (p : Byte) : List Nat := (List.range 8).filter (active p)

/-- A mask of lanes. -/
def laneMask (l : List Nat) : Nat := l.foldl (fun a i => a + 2 ^ i) 0

/-- The check of the scale entries of active lanes (R103): the lanes that fail. -/
def State.badEntries (s : State) (m slot : Nat) (base : Word) (bcast : Bool) (p : Byte) : List Nat :=
  (activeLanes p).filter (fun l => !s.ownsScale slot m (laneEntry base bcast l))

/-- ESC set in a scale entry (R104, R108). -/
def State.setEsc (s : State) (m i : Nat) : State := s.setScale m i (s.scale m i ||| 0x2000000#32)

/-- Elements escaped, counted (MT_QNT_COUNT). -/
def State.countEscapes (s : State) (m n : Nat) : State := if n = 0 then s else s.count (Reg.MT_QNT_COUNT m) 0 16 n

def execVqnt (x : Nat) (d a : VReg) (b : SReg) (target : BitVec 2) (part : BitVec 3) (esc bcast : Bool) (p : PReg) (s : State) :
    Host.Outcome State Fault Refusal :=
  let f := quantFmt target
  let fn := target.toNat * 2 ^ 6 + part.toNat * 2 ^ 3 + b2n esc * 4 + b2n bcast * 2
  .next (s.issue x { w0 := encWord 0x25 d.val a.val b.val (vecFn p fn) } (!(part.toNat < partsOf f))
    (vregs [a.val] ++ sregs [b.val]) (vregs [d.val])
    (fun s _ t =>
      let m := motifOf x
      let base := t.sreg b.val
      let pr := t.preg p.val
      let bad := s.badEntries m t.slot base bcast pr
      let inval := (activeLanes pr).filter (fun l => !scaleValid f (s.scale m (laneEntry base bcast l)))
      if bad ≠ [] then .fault .SRF_RANGE 0 (laneMask bad)
      else if inval ≠ [] then .fault .SCALE_INVALID 0 (laneMask inval)
      else
        let q := fun l => quantCode f (if bitOf t.arith.toNat 2 then s.laneSr t l else t.rm) t.flush esc
          (s.scale m (laneEntry base bcast l)) (valOf .b32 (lane (t.vreg a.val) l))
        let r := laneFold pr (t.vreg d.val)
          (fun l => (if (q l).esc then escCode f else (q l).code, (q l).flags)) (fun v l n => setPacked f v part.toNat l n)
        let out := (activeLanes pr).filter (fun l => (q l).esc)
        let s := out.foldl (fun s l => s.setEsc m (laneEntry base bcast l)) s
        .go (s.countEscapes m out.length) (((t.setV d.val r.1).setP 7 (BitVec.ofNat 8 (laneMask out))).noteFlags r.2 (t.cword 1).toNat) none))

def execVqntCal (x : Nat) (d a : VReg) (b : SReg) (target : BitVec 2) (margin : BitVec 3) (asym bcast : Bool) (p : PReg) (s : State) :
    Host.Outcome State Fault Refusal :=
  let f := quantFmt target
  let fn := target.toNat * 2 ^ 6 + margin.toNat * 2 ^ 3 + b2n asym * 4 + b2n bcast * 2 + 1
  .next (s.issue x { w0 := encWord 0x25 d.val a.val b.val (vecFn p fn) } bcast (vregs [a.val, d.val] ++ sregs [b.val]) []
    (fun s _ t =>
      let m := motifOf x
      let base := t.sreg b.val
      let pr := t.preg p.val
      let bad := s.badEntries m t.slot base false pr
      if bad ≠ [] then .fault .SRF_RANGE 0 (laneMask bad)
      else if asym && !f.isInt then .fault .SCALE_INVALID 0 (laneMask (activeLanes pr))
      else
        let c := fun l => calibrate f asym margin.toNat (lane (t.vreg a.val) l) (lane (t.vreg d.val) l)
        let s := (activeLanes pr).foldl (fun s l => s.setScale m (laneEntry base false l) (c l).1) s
        let fl := (activeLanes pr).foldl (fun a l => a ||| (c l).2) 0#8
        .go s (t.noteFlags fl (t.cword 1).toNat) none))

def execVdq (x : Nat) (d a : VReg) (b : SReg) (source : BitVec 2) (part : BitVec 3) (bcast : Bool) (p : PReg) (s : State) :
    Host.Outcome State Fault Refusal :=
  let f := quantFmt source
  let fn := source.toNat * 2 ^ 6 + part.toNat * 2 ^ 3 + b2n bcast * 2
  .next (s.issue x { w0 := encWord 0x26 d.val a.val b.val (vecFn p fn) } (!(part.toNat < partsOf f))
    (vregs [a.val] ++ sregs [b.val]) (vregs [d.val])
    (fun s _ t =>
      let m := motifOf x
      let base := t.sreg b.val
      let pr := t.preg p.val
      let bad := s.badEntries m t.slot base bcast pr
      if bad ≠ [] then .fault .SRF_RANGE 0 (laneMask bad)
      else
        let code := fun l => packed f (t.vreg a.val) part.toNat l
        let out := (activeLanes pr).filter (fun l => isEsc f (code l))
        let r := laneFold pr (t.vreg d.val)
          (fun l => if isEsc f (code l) then (lane (t.vreg d.val) l, 0#8)
            else dequant f (s.scale m (laneEntry base bcast l)) (code l)) setLane
        .go s (((t.setV d.val r.1).setP 7 (BitVec.ofNat 8 (laneMask out))).flag r.2) none))

end Sys2Proof.Machine
end

