-- ==== Sys2Proof/Machine/Desc.lean ====
section
/-! DEFINITION. Tensor descriptors (R154 to R158) and the views they describe: elements, addresses, channels, and the reading and
writing of a plain view. -/

namespace Sys2Proof.Machine

/-- A descriptor's fields (R155), from its 512 bits. -/
structure Desc where
  raw : Nat
deriving DecidableEq, Repr

/-- Word i of a descriptor. -/
def Desc.word (d : Desc) (i : Nat) : Nat := bitsOf d.raw (32 * i) 32
def Desc.base (d : Desc) : Nat := bitsOf d.raw 0 56
def Desc.fmtCode (d : Desc) : Nat := bitsOf (d.word 1) 24 4
def Desc.fmt (d : Desc) : Fmt := (Fmt.ofCode d.fmtCode).getD .b32
def Desc.kind (d : Desc) : Nat := bitsOf (d.word 1) 28 2
def Desc.sr (d : Desc) : Bool := bitOf (d.word 1) 30
def Desc.escEn (d : Desc) : Bool := bitOf (d.word 1) 31
def Desc.ext0 (d : Desc) : Nat := bitsOf (d.word 2) 0 16
def Desc.ext1 (d : Desc) : Nat := bitsOf (d.word 2) 16 16
def Desc.ext2 (d : Desc) : Nat := bitsOf (d.word 3) 0 16
def Desc.qnt (d : Desc) : Bool := bitOf (d.word 3) 16
def Desc.escFmt (d : Desc) : Fmt := if bitOf (d.word 3) 17 then .b32 else .g16
def Desc.ldim0 (d : Desc) : Nat := if d.word 6 = 0 then d.ext0 else d.word 6
def Desc.ldim1 (d : Desc) : Nat := if d.word 7 = 0 then d.ext1 else d.word 7
def Desc.tid (d : Desc) : Nat := d.word 11
def Desc.scaleBase (d : Desc) : Nat := bitsOf (d.word 12) 0 9
def Desc.channels (d : Desc) : Nat := bitsOf (d.word 12) 9 10
def Desc.chStride (d : Desc) : Nat := if d.word 13 = 0 then 1 else d.word 13
def Desc.aux (d : Desc) : Nat := d.base + 64 * d.word 14
def Desc.ovf (d : Desc) : Nat := d.base + 4096 * bitsOf (d.word 15) 0 24
def Desc.ovfSlots (d : Desc) : Nat := bitsOf (d.word 15) 24 8
def Desc.entry (d : Desc) : Nat := bitsOf (d.word 0) 0 8
def Desc.position (d : Desc) : Nat := bitsOf (d.word 0) 8 14
def Desc.posSelf (d : Desc) : Bool := bitOf (d.word 0) 22
def Desc.offset (d : Desc) : Nat := bitsOf (d.word 4) 0 25
def Desc.first (d : Desc) : Nat := bitsOf (d.word 0) 0 9
/-- Elements of a view. -/
def Desc.count (d : Desc) : Nat := if d.kind = 0 then d.ext0 * d.ext1 * d.ext2 else d.ext0

/-- The checks of R157 that concern one descriptor; `dims` is how many extents the command uses. -/
def Desc.invalid (d : Desc) (dims : Nat) : Bool :=
  let hi := fun i lo => d.word i >>> lo ≠ 0
  let zeroExt := d.ext0 = 0 || (2 ≤ dims && d.ext1 = 0) || (3 ≤ dims && d.ext2 = 0)
  d.kind = 3 || 10 ≤ d.fmtCode ||
  (if d.kind = 0 then
    zeroExt || d.ldim0 < d.word 8 + d.ext0 || d.ldim1 < d.word 9 + d.ext1 || hi 3 18 || hi 12 19 ||
    (d.qnt && (!(d.fmt = .g8a || d.fmt = .g4 || d.fmt = .i8 || d.fmt = .i4) || d.channels = 0 || 512 < d.scaleBase + d.channels))
  else
    let onlyFmt := d.word 1 = 2 ^ 24 * d.fmtCode + 2 ^ 28 * d.kind
    let zeros := (List.range 16).all (fun i => i < 5 || d.word i = 0)
    if d.kind = 1 then
      !onlyFmt || hi 0 23 || d.word 3 ≠ 0 || hi 4 25 || !zeros || d.offset % 8 ≠ 0 || !(d.fmt = .b32 || d.fmt = .i32) || d.ext0 = 0
    else
      !onlyFmt || hi 0 9 || hi 2 16 || d.word 3 ≠ 0 || d.word 4 ≠ 0 || !zeros || d.fmt ≠ .i32 || 512 < d.first + d.ext0 || d.ext0 = 0)

/-- Whether every window of a KIND 2 view is the job's (R103, R157). -/
def State.scaleViewOk (s : State) (m slot : Nat) (d : Desc) : Bool :=
  d.kind ≠ 2 || (List.range d.ext0).all (fun i => s.ownsScale slot m (d.first + i))

/-- Logical index of element (i2, i1, i0) (R156). -/
def Desc.index (d : Desc) (i2 i1 i0 : Nat) : Nat :=
  (((d.word 10 + i2) * d.ldim1 + (d.word 9 + i1)) * d.ldim0 + (d.word 8 + i0)) % 2 ^ 64
/-- Logical index of the n-th element of the view, dimension 0 fastest. -/
def Desc.indexAt (d : Desc) (n : Nat) : Nat :=
  d.index (n / (d.ext0 * d.ext1)) (n / d.ext0 % d.ext1) (n % d.ext0)
/-- Start of row r of a plain view, r counting dimension 1 within dimension 2 (R156). -/
def Desc.rowAddr (d : Desc) (r : Nat) : Nat := d.base + r / d.ext1 * d.word 5 + r % d.ext1 * d.word 4
/-- Bytes of a row of `n` elements: whole 24-bit groups for G6. -/
def rowBytes (f : Fmt) (n : Nat) : Nat := if f = .g6 then (n + 3) / 4 * 3 else (n * f.width + 7) / 8
/-- Rows of a plain view. -/
def Desc.rows (d : Desc) : Nat := d.ext1 * d.ext2
/-- Bytes of a code block's elements (R110). -/
def blockCodes (f : Fmt) : Nat := if f.width = 4 then 8192 else 4096
/-- Bytes of a raw block (R110). -/
def Desc.rawBytes (d : Desc) : Nat := blockCodes d.fmt * (d.escFmt.width / 8)
/-- Blocks of a quantised tensor that a view touches. -/
def Desc.blocks (d : Desc) : List Nat := ((List.range d.count).map (fun n => d.indexAt n / blockCodes d.fmt)).eraseDups

/-- The spans of memory that a descriptor can touch (R158), its auxiliary area apart. -/
def Desc.spans (d : Desc) : List (Nat × Nat) :=
  if d.kind ≠ 0 then []
  else if d.qnt then
    d.blocks.flatMap (fun b => [(d.base + 4096 * b, 4096), (d.aux + 320 * b, 320)]) ++
    (if d.ovfSlots = 0 then [] else [(d.ovf, 64 + d.ovfSlots * d.rawBytes)])
  else (List.range d.rows).map (fun r => (d.rowAddr r, rowBytes d.fmt d.ext0))

/-- The first failing address check over spans (R158). -/
def State.protectSpans (s : State) (slot : Nat) (write : Bool) (l : List (Nat × Nat)) : Option (Code × Nat) :=
  l.findSome? (fun p => (s.protect slot p.1 p.2 write).map (fun c => (c, p.1)))

/-- Whether every bank under spans answers now. -/
def State.spansReady (s : State) (ag : Agent) (write : Bool) (l : List (Nat × Nat)) : Bool :=
  l.all (fun p => s.spanReady ag write p.1 p.2)
/-- The wakes that accesses over spans start. -/
def State.wakeSpans (s : State) (ag : Agent) (write : Bool) (l : List (Nat × Nat)) : State :=
  l.foldl (fun s p => s.wakeSpan ag write p.1 p.2) s

/-- The n-th element of packed bytes (R33). -/
def unpack (f : Fmt) (bs : Nat) (n : Nat) : Nat := bitsOf bs (n * f.width) f.width
/-- Elements packed into a number (R33). -/
def packAll (f : Fmt) : List Nat → Nat
  | [] => 0
  | c :: r => c % 2 ^ f.width + packAll f r * 2 ^ f.width

/-- Elements of a plain view in logical order. The flag says that a word was uncorrectable. -/
def State.readPlain (s : State) (ag : Agent) (d : Desc) (host : List Host.Cell) : State × List Nat × Bool :=
  (List.range d.rows).foldl (fun acc r =>
    let rd := acc.1.readDev ag (d.rowAddr r) (rowBytes d.fmt d.ext0) host
    (rd.1, acc.2.1 ++ (List.range d.ext0).map (unpack d.fmt (ofBytes rd.2.1)), acc.2.2 || rd.2.2)) (s, [], false)

/-- One row of codes written; the bits of a last byte that the row does not fill keep their value (zero for G6). -/
def State.writeRow (s : State) (ag : Agent) (f : Fmt) (a : Nat) (codes : List Nat) : State :=
  let n := rowBytes f codes.length
  let used := codes.length * f.width
  let tail := if f = .g6 || used % 8 = 0 then 0 else ((s.byte (a + n - 1)).toNat >>> (used % 8)) <<< (used % 8 + 8 * (n - 1))
  s.writeDev ag a (toBytes n (packAll f codes + tail))

/-- Elements written to a plain view in logical order. -/
def State.writePlain (s : State) (ag : Agent) (d : Desc) (codes : List Nat) : State :=
  (List.range d.rows).foldl (fun s r => s.writeRow ag d.fmt (d.rowAddr r) ((codes.drop (r * d.ext0)).take d.ext0)) s

/-! ### Quantised tensors (R110 to R114) -/

/-- Channel entry of a logical index (R107). -/
def Desc.entryOf (d : Desc) (index : Nat) : Nat := d.scaleBase + index / d.chStride % d.channels

/-- One block as read: its codes, its header and side entries, and its raw area when stored unquantised. -/
structure Block where
  num : Nat
  codes : Nat
  side : Nat
  raw : Nat
deriving DecidableEq, Repr

/-- UNQ of a block's header (R111). -/
def Block.unq (b : Block) : Bool := bitOf b.side 3
/-- Side-list value at a position, among ESC_COUNT entries (R112). -/
def Block.sideAt (b : Block) (pos : Nat) : Option Nat :=
  ((List.range (bitsOf b.side 5 6)).find? (fun i => bitsOf b.side (8 * (64 + 8 * i + 4)) 13 = pos)).map
    (fun i => bitsOf b.side (8 * (64 + 8 * i)) 32)

/-- Blocks of a quantised source read. -/
def State.readBlocksOf (s : State) (ag : Agent) (d : Desc) (bs : List Nat) (host : List Host.Cell) : State × List Block × Bool :=
  bs.foldl (fun acc b =>
    let sd := acc.1.readDev ag (d.aux + 320 * b) 320 host
    let side := ofBytes sd.2.1
    if bitOf side 3 then
      let r := sd.1.readDev ag (d.ovf + 64 + bitsOf side 32 32 * d.rawBytes) d.rawBytes host
      (r.1, acc.2.1 ++ [⟨b, 0, side, ofBytes r.2.1⟩], acc.2.2 || sd.2.2 || r.2.2)
    else
      let c := sd.1.readDev ag (d.base + 4096 * b) 4096 host
      (c.1, acc.2.1 ++ [⟨b, ofBytes c.2.1, side, 0⟩], acc.2.2 || sd.2.2 || c.2.2)) (s, [], false)

/-- All blocks of a quantised source read. -/
def State.readBlocks (s : State) (ag : Agent) (d : Desc) (host : List Host.Cell) : State × List Block × Bool := s.readBlocksOf ag d d.blocks host

/-- A stored exact value as binary32 (R109, R114): a binary32 value comes back as it stands, a G16 value widened. -/
def widened (f : Fmt) (c : Nat) : Nat × Flags := if f = .b32 then (c, 0#8) else convert f .b32 .rne false c

/-- The binary32 value of one element of a block (R109, R114). A raw block is read in the descriptor's ESC_FMT, as its slot's size is,
and a side value in the header's (DESIGN CHOICE, log entry 15: the spec does not say what holds where the two differ). -/
def Desc.blockValue (d : Desc) (scale : Nat → Word) (b : Block) (index : Nat) : Nat × Flags :=
  let pos := index % blockCodes d.fmt
  let stored := if bitOf b.side 4 then Fmt.b32 else Fmt.g16
  if b.unq then widened d.escFmt (unpack d.escFmt b.raw pos)
  else
    let c := unpack d.fmt b.codes pos
    if isEsc d.fmt c then
      match b.sideAt pos with
      | some v => widened stored (v % 2 ^ stored.width)
      | none => (Fmt.nanCode .b32, flagNV)
    else dequant d.fmt (scale (d.entryOf index)) c

/-- Elements of a quantised view as binary32 codes in logical order, with their flags. -/
def State.readQnt (s : State) (ag : Agent) (m : Nat) (d : Desc) (host : List Host.Cell) : State × List Nat × Bool × Flags :=
  let r := s.readBlocks ag d host
  let v := (List.range d.count).map (fun n =>
    let ix := d.indexAt n
    match r.2.1.find? (fun b => b.num = ix / blockCodes d.fmt) with
    | some b => d.blockValue (fun i => s.scale m i) b ix
    | none => (0, 0#8))
  (r.1, v.map (·.1), r.2.2, v.foldl (fun a e => a ||| e.2) 0#8)

/-- One element to be quantised: its logical index, its source code and format, and its code. -/
structure QElem where
  index : Nat
  fmt : Fmt
  value : Nat
  q : QCode
deriving DecidableEq, Repr

/-- The QFMT code of a header (R111). -/
def qfmtCode : Fmt → Nat
  | .g8a => 0 | .g4 => 1 | .i8 => 2 | _ => 3

/-- A block's elements in ascending position. -/
def blockElems (n b : Nat) (l : List QElem) : List QElem :=
  (l.filter (fun e => e.index / n = b)).mergeSort (fun a c => a.index ≤ c.index)

/-- The end of a block's write: the state, its flags, and whether the overflow area was exhausted. -/
structure BlockEnd where
  st : State
  flags : Flags
  ovf : Bool

/-- The exact value of an element as it is stored in ESC_FMT, with the conversion's flags (R112, R113): SUBOUT governs a tiny G16 result
(R43), and a value already in that format is stored as it stands. -/
def QElem.exact (e : QElem) (f : Fmt) (flush : Bool) : Nat × Flags := if e.fmt = f then (e.value, 0#8) else convert e.fmt f .rne flush e.value

/-- One quantised block written (R112, R113, R114): codes and side record, or the overflow slot. A view that covers only part of a block
writes the side record with its own escapes alone, and zeros for the other elements of a raw slot (DESIGN CHOICE, log entry 16: the spec
describes the writing of whole blocks). -/
def State.storeBlock (s : State) (ag : Agent) (m : Nat) (d : Desc) (b : Nat) (flush : Bool) (l : List QElem) : BlockEnd :=
  let n := blockCodes d.fmt
  let el := blockElems n b l
  let esc := el.filter (fun e => e.q.esc)
  let hdr := fun (unq count slot : Nat) =>
    qfmtCode d.fmt + unq * 8 + b2n (d.escFmt = .b32) * 16 + count * 32 + 2 ^ 32 * slot + 2 ^ 64 * (b % 2 ^ 32)
  if esc.length ≤ 32 then
    let s := el.foldl (fun s e =>
      let c := if e.q.esc then escCode d.fmt else e.q.code
      let bit := e.index % n * d.fmt.width
      let a := d.base + 4096 * b + bit / 8
      let old := (s.byte a).toNat
      s.writeDev ag a [BitVec.ofNat 8 (setBits old (bit % 8) d.fmt.width c)]) s
    let side := esc.map (fun e => (e.exact d.escFmt flush, e.index % n))
    let body := side.foldr (fun e acc => e.1.1 + 2 ^ 32 * e.2 + 2 ^ 64 * acc) 0
    let s := s.writeDev ag (d.aux + 320 * b) (toBytes 320 (hdr 0 esc.length 0 + 2 ^ 512 * body))
    { st := s.count (Reg.MT_QNT_BLOCKS m) 0 32 1,
      flags := el.foldl (fun a e => a ||| e.q.flags) (side.foldl (fun a e => a ||| e.1.2) 0#8), ovf := false }
  else
    let ctr := s.readDev ag d.ovf 4 []
    let slot := ofBytes ctr.2.1
    let s := ctr.1.writeDev ag d.ovf (toBytes 4 (slot + 1))
    if d.ovfSlots ≤ slot then
      { st := s.count (Reg.MT_QNT_COUNT m) 28 4 1, flags := 0#8, ovf := true }
    else
      let vals := (List.range n).map (fun p =>
        match el.find? (fun e => e.index % n = p) with
        | some e => e.exact d.escFmt flush
        | none => (0, 0#8))
      let s := s.writeDev ag (d.ovf + 64 + slot * d.rawBytes) (toBytes d.rawBytes (packAll d.escFmt (vals.map (·.1))))
      let s := s.writeDev ag (d.aux + 320 * b) (toBytes 320 (hdr 1 0 slot))
      { st := (s.count (Reg.MT_QNT_BLOCKS m) 0 32 1).count (Reg.MT_QNT_COUNT m) 16 12 1,
        flags := vals.foldl (fun a e => a ||| e.2) 0#8, ovf := false }

/-- A block of a quantising XFER: its escapes set ESC in their entries and are counted (R108, R115), those of a block that is then stored
unquantised, or that finds no overflow slot, too (DEDUCED, log entry 17: each was escaped before the 33rd was met). -/
def State.writeBlock (s : State) (ag : Agent) (m : Nat) (d : Desc) (b : Nat) (flush : Bool) (l : List QElem) : BlockEnd :=
  let esc := (blockElems (blockCodes d.fmt) b l).filter (fun e => e.q.esc)
  let s := esc.foldl (fun s e => s.setEsc m (d.entryOf e.index)) s
  (s.countEscapes m esc.length).storeBlock ag m d b flush l

end Sys2Proof.Machine
end

