-- ==== Sys2Proof/Machine/ArrayMath.lean ====
section
/-! DEFINITION. What a matrix array computes: tiles and footing rows (R51, R59, R60), groups and passes (R63, R70, R71), footing
slots (R72), footing comparisons (R73) and drain stages (R68, R69). -/

namespace Sys2Proof.Machine

/-! ### Configuration (R53, R161) -/

def cfgA (cfg : Nat) : Fmt := (Fmt.ofCode (bitsOf cfg 0 4)).getD .b32
def cfgB (cfg : Nat) : Fmt := (Fmt.ofCode (bitsOf cfg 4 4)).getD .b32
def cfgOut (cfg : Nat) : Fmt := (Fmt.ofCode (bitsOf cfg 8 4)).getD .b32
def cfgShape (cfg : Nat) : Nat := bitsOf cfg 17 2

/-- The rows of the table of R53 that a format may stand in. -/
def pairClass : Fmt → Nat
  | .g4 => 0 | .g8a => 1 | .g8b => 1 | .g6 => 1 | .g16 => 2 | .b16 => 2 | .b32 => 3 | .i4 => 4 | .i8 => 5 | .i32 => 6

/-- The operand pairs of R53. -/
def pairAccepted (a b : Fmt) : Bool :=
  if a = .b32 then b = .b32 || b = .g16
  else a ≠ .i32 && pairClass a = pairClass b

/-- Rows and reduction indices of an engine, by unit and SHAPE (R52, R77). -/
def unitRows (u cfg : Nat) : Nat := if u = 4 ∧ cfgShape cfg ≠ 1 then 32 else 16
def unitCols (u cfg : Nat) : Nat := if u = 4 ∧ cfgShape cfg ≠ 2 then 32 else 16
/-- Columns of a set (R65). -/
def setColumns (u : Nat) : Nat := if u = 4 then 128 else 64

/-- Quadrants a claim needs (R77), one bit each. -/
def neededQuads (u cfg : Nat) : Nat :=
  if u < 4 then 2 ^ u
  else match cfgShape cfg with
    | 1 => if bitOf cfg 19 then 0b1100 else 0b0011
    | 2 => if bitOf cfg 19 then 0b1010 else 0b0101
    | _ => 0b1111

/-! ### Sets -/

def Engine.set (e : Engine) (i : Bool) : SetSt := if i then e.set1 else e.set0
def Engine.putSet (e : Engine) (i : Bool) (v : SetSt) : Engine := if i then { e with set1 := v } else { e with set0 := v }
def Engine.reg (e : Engine) (i : Bool) : Stat := if i then e.s1 else e.s0
def Engine.putReg (e : Engine) (i : Bool) (v : Stat) : Engine := if i then { e with s1 := v } else { e with s0 := v }
/-- Accumulator of row i, column n. -/
def SetSt.at_ (t : SetSt) (n i : Nat) : Word := t.acc.get 0#32 (n * 32 + i)
/-- No group recorded. -/
def noEmax : Int := -(2 ^ 30 : Nat)
/-- A set's data gone: it reads +0 in every word (R65). -/
def SetSt.cleared (t : SetSt) : SetSt :=
  { t with acc := [], rowChk := [], colChk := [], corner := 0#32, rowEmax := [], colEmax := [] }

/-! ### Groups (R63, R71) -/

/-- The value of an operand in one stationary or streamed half (R54, R70). Integers carry their value. -/
def operand (f : Fmt) (lo : Bool) (c : Nat) : Val :=
  if f = .b32 then (if lo then valOf .g16 (splitHalves c).2 else valOf .g16 (splitHalves c).1)
  else if lo then .fin false 0 0
  else valOf f c

/-- NV of a signalling operand widened (R54). The split of a binary32 operand sets no flag (R70). -/
def operandNv (f : Fmt) (c : Nat) : Flags := flagIf (f ≠ .b32 && !f.isInt && isSnan f c) flagNV

/-- The integer that an integer operand stands for. -/
def intOf : Val → Int
  | .fin n m e => signedMag n (m <<< e.toNat)
  | _ => 0

/-- One group (R63): the accumulator and the products of `pairs`, with its flags and its Emax. -/
def group (isInt : Bool) (acc : Word) (pairs : List (Val × Val)) : Word × Flags × Int :=
  if isInt then
    (BitVec.ofNat 32 (codeOf 32 (pairs.foldl (fun a p => a + intOf p.1 * intOf p.2) (acc.toNat : Int))), 0#8, noEmax)
  else
    let ps := pairs.map (fun p => productTerm p.1 p.2)
    let terms := valOf .b32 acc.toNat :: ps.map (·.1)
    let r := groupSum terms (ps.any (·.2))
    let special := terms.any (fun v => match v with | .fin _ _ _ => false | _ => true)
    (BitVec.ofNat 32 r.1, r.2, if special then noEmax else (emaxOf terms).getD noEmax)

/-- The sum of exact terms as one group from +0 (R60), or of a run added to a running sum (R72). -/
def sumGroup (isInt : Bool) (w : Nat) (start : Nat) (terms : List Val) : Nat :=
  if isInt then codeOf w (terms.foldl (fun a v => a + intOf v) (start : Int))
  else (groupSum (valOf .b32 start :: terms) false).1

/-- Runs of at most 32 (R72). -/
def runsOf {α : Type} : Nat → List α → List (List α)
  | 0, _ => []
  | _, [] => []
  | k + 1, l => l.take 32 :: runsOf k (l.drop 32)

/-- The passes of one chunk: (low stationary half, low streamed half), in the order of R71. -/
def passList (a : Fmt) (pass : Nat) : List (Bool × Bool) :=
  if a ≠ .b32 then [(false, false)] else ([(false, false), (true, false), (false, true)] : List (Bool × Bool)).take pass

/-! ### Stationary tiles (R51, R59, R60) -/

/-- A tile's footing row over one stationary half (R60). -/
def footRow (f : Fmt) (lo : Bool) (rows cols : Nat) (cells : SMap Nat) : SMap Word :=
  (List.range cols).foldl (fun m j =>
    m.put 0#32 j (BitVec.ofNat 32 (sumGroup f.isInt 32 0 ((List.range rows).map (fun i => operand f lo (cells.get 0 (i * 32 + j))))))) []

/-- A stationary register filled from the codes of a view of `e1` rows of `e0` elements, transposed if `t`. -/
def makeStat (f : Fmt) (rows cols e0 e1 : Nat) (t : Bool) (codes : List Nat) (load : MCmd) : Stat :=
  let cells : SMap Nat := (List.range rows).foldl (fun m i => (List.range cols).foldl (fun m j =>
    let c := if t then (if i < e0 ∧ j < e1 then codes.getD (j * e0 + i) 0 else 0)
      else (if j < e0 ∧ i < e1 then codes.getD (i * e0 + j) 0 else 0)
    m.put 0 (i * 32 + j) c) m) []
  { cells := cells, foot := footRow f false rows cols cells, footLo := if f = .b32 then footRow f true rows cols cells else [],
    load := some load }

/-! ### Streaming a chunk (R62, R71, R72) -/

/-- Row i of a stationary register in one half. -/
def Stat.row (st : Stat) (f : Fmt) (lo : Bool) (cols i : Nat) : List Val :=
  (List.range cols).map (fun j => operand f lo (st.cells.get 0 (i * 32 + j)))
/-- The footing row in one half, as operands. -/
def Stat.footVals (st : Stat) (f : Fmt) (lo : Bool) (cols : Nat) : List Val :=
  (List.range cols).map (fun j => valOf (if f.isInt then .i32 else .b32) ((if lo then st.footLo else st.foot).get 0#32 j).toNat)

/-- What streaming needs to know. -/
structure StreamCfg where
  a : Fmt
  b : Fmt
  rows : Nat
  cols : Nat
  pass : Nat
  checks : Bool

/-- One vector's groups in one pass: every row's accumulator, and the column check (R71, R72 order 4). Only groups of the main cells feed
the recorded Emax, and only their flags go to the task (DESIGN CHOICE, log entry 22, beside R72 and R73). -/
def streamVector (k : StreamCfg) (st : Stat) (p : Bool × Bool) (t : SetSt) (n : Nat) (vec : List Nat) : SetSt × Flags :=
  let b := vec.map (operand k.b p.2)
  let r := (List.range k.rows).foldl (fun acc i =>
    let g := group k.a.isInt (acc.1.at_ n i) ((st.row k.a p.1 k.cols i).zip b)
    ({ acc.1 with
        acc := acc.1.acc.put 0#32 (n * 32 + i) g.1
        rowEmax := acc.1.rowEmax.put noEmax i (max (acc.1.rowEmax.get noEmax i) g.2.2)
        colEmax := acc.1.colEmax.put noEmax n (max (acc.1.colEmax.get noEmax n) g.2.2) }, acc.2 ||| g.2.1)) (t, 0#8)
  if !k.checks then r else
  let c := group k.a.isInt (r.1.colChk.get 0#32 n) ((st.footVals k.a p.1 k.cols).zip b)
  ({ r.1 with colChk := r.1.colChk.put 0#32 n c.1 }, r.2)

/-- The footing slots of one pass (R72): the column-sum vector, its row checks and its corner. The flags of footing groups are dropped
(DESIGN CHOICE, log entry 22). -/
def footSlots (k : StreamCfg) (st : Stat) (p : Bool × Bool) (t : SetSt) (vecs : List (List Nat)) : SetSt :=
  let w := k.b.width
  let s : List Nat := (List.range k.cols).map (fun j =>
    let col := vecs.map (fun v => operand k.b p.2 (v.getD j 0))
    if k.a.isInt then sumGroup true w 0 col
    else (runsOf (vecs.length / 32 + 1) col).foldl (fun acc run => sumGroup false 32 acc run) 0)
  let slots : List (List Val) :=
    if k.a.isInt then [s.map (valOf k.b)]
    else [s.map (fun c => valOf .g16 (splitHalves c).1), s.map (fun c => valOf .g16 (splitHalves c).2)]
  slots.foldl (fun t sv =>
    let t := (List.range k.rows).foldl (fun t i =>
      { t with rowChk := t.rowChk.put 0#32 i (group k.a.isInt (t.rowChk.get 0#32 i) ((st.row k.a p.1 k.cols i).zip sv)).1 }) t
    { t with corner := (group k.a.isInt t.corner ((st.footVals k.a p.1 k.cols).zip sv)).1 }) t

/-- A chunk streamed into a set: vectors from column c0 on, each (column, its codes), then the footing slots. -/
def streamChunk (k : StreamCfg) (st : Stat) (t : SetSt) (vecs : List (Nat × List Nat)) : SetSt × Flags :=
  let ps := passList k.a k.pass
  let r := vecs.foldl (fun acc v => ps.foldl (fun acc p =>
    let x := streamVector k st p acc.1 v.1 v.2
    (x.1, acc.2 ||| x.2)) acc) (t, 0#8)
  if !k.checks then r
  else (ps.foldl (fun t p => footSlots k st p t (vecs.map (·.2))) r.1, r.2)

/-- The vectors of a stream's view (R162): column c0 + n holds its 32 or 16 indices, zero-padded. -/
def vectorsOf (cols e0 e1 c0 : Nat) (t : Bool) (codes : List Nat) : List (Nat × List Nat) :=
  (List.range (if t then e0 else e1)).map (fun n =>
    (c0 + n, (List.range cols).map (fun j =>
      if t then (if j < e1 then codes.getD (j * e0 + n) 0 else 0) else (if j < e0 then codes.getD (n * e0 + j) 0 else 0))))

/-! ### Footing comparisons (R73) -/

/-- Result of one comparison. -/
inductive Check
  | pass | fail | skipped
deriving DecidableEq, Repr

/-- The magnitude of a binary32 code. -/
def absB32 (c : Nat) : Nat := c % 2 ^ 31

/-- A binary32 power of two, rounded. -/
def pow2B32 (e : Int) : Nat := (roundFloat .b32 .rne false false 1 e false).1

/-- One comparison of R73: footing value F against the values whose signed sum is S. With no Emax recorded 2^Etop is 0 (DESIGN CHOICE, log
entry 23). -/
def footCompare (isInt : Bool) (w tol : Nat) (etop : Int) (f : Word) (vals : List Word) : Check :=
  if isInt then
    (if (f.toNat + (2 ^ 32 - (vals.foldl (fun a v => a + v) 0#32).toNat)) % 2 ^ w = 0 then .pass else .fail)
  else
    let s := vals.foldl (fun a v => (fadd .b32 .rne a v.toNat).1) 0
    let m := vals.foldl (fun a v => (fadd .b32 .rne a (absB32 v.toNat)).1) 0
    if notFinite .b32 f.toNat || notFinite .b32 s then .skipped
    else
      let diff := absB32 (fsub .b32 .rne f.toNat s).1
      let top := if etop = noEmax then 0 else pow2B32 etop
      let bound := (fmul .b32 .rne (pow2B32 (-(tol : Int))) (fadd .b32 .rne m top).1).1
      if ltVal (valOf .b32 bound) (valOf .b32 diff) then .fail else .pass

/-- The comparisons of a drain (R73): rows, then in full mode columns and the corner. -/
structure Footing where
  rows : List Check
  cols : List Check
  corner : Check

/-- R73, over a whole set. Etop of the corner is the largest Emax of any column (DESIGN CHOICE, log entry 23). -/
def footing (u cfg : Nat) (t : SetSt) : Footing :=
  let isInt := (cfgA cfg).isInt
  let w := (cfgB cfg).width
  let tol := bitsOf t.ctl 0 5
  let rows := unitRows u cfg
  let ns := List.range (setColumns u)
  { rows := (List.range rows).map (fun i =>
      footCompare isInt w tol (t.rowEmax.get noEmax i) (t.rowChk.get 0#32 i) (ns.map (fun n => t.at_ n i)))
    cols := if u ≠ 4 then [] else ns.map (fun n =>
      footCompare isInt 32 tol (t.colEmax.get noEmax n) (t.colChk.get 0#32 n) ((List.range rows).map (fun i => t.at_ n i)))
    corner := if u ≠ 4 then .pass else
      footCompare isInt 32 tol (ns.foldl (fun a n => max a (t.colEmax.get noEmax n)) noEmax) t.corner
        (ns.map (fun n => t.colChk.get 0#32 n)) }

def Footing.all (f : Footing) : List Check := f.rows ++ f.cols ++ [f.corner]
def Footing.failed (f : Footing) : Bool := f.all.any (· = .fail)
def Footing.skips (f : Footing) : Nat := (f.all.filter (· = .skipped)).length
/-- Position of the first failing check of a list. -/
def firstFail (l : List Check) : Option Nat := (l.zipIdx.find? (fun e => e.1 = .fail)).map (·.2)

/-- MA_LAST_FAIL of a failing drain. -/
def Footing.lastFail (f : Footing) (set : Bool) (tiles : Nat) : Nat :=
  (firstFail f.cols).getD 0 + (firstFail f.rows).getD 0 * 2 ^ 7 + 2 ^ 12 * b2n set + 2 ^ 13 * b2n (f.corner = .fail) +
  2 ^ 14 * b2n (firstFail f.rows).isSome + 2 ^ 15 * b2n (firstFail f.cols).isSome + 2 ^ 16 * (tiles % 2 ^ 16)

/-! ### Drain stages (R68, R69) -/

/-- Stage 2: the value scaled into binary32, or the accumulator's binary32 value; and the flags. An I32 value that no scale converts is
converted for the row statistics by RNE, and the NX of that conversion is dropped (DESIGN CHOICE, log entry 24, beside R69). -/
def drainScale (isInt : Bool) (scale : Option Word) (v : Word) : Nat × Flags :=
  match scale with
  | none => if isInt then ((convert .i32 .b32 .rne false v.toNat).1, 0#8) else (v.toNat, 0#8)
  | some w =>
    let x := if isInt then convert .i32 .b32 .rne false v.toNat else (v.toNat, 0#8)
    let sc := convert .g16 .b32 .rne false (scaleOf w)
    let r := fmul .b32 .rne x.1 sc.1
    (r.1, x.2 ||| sc.2 ||| r.2)

/-- Row statistics of one row over the values of stage 2 (R69), from a running maximum and sum. -/
def rowStat (dscale : Option Nat) (m s : Nat) (vals : List Nat) : Nat × Nat × Flags :=
  let r := vals.foldl (fun (acc : Nat × Nat × Flags) v =>
    match dscale with
    | none =>
      let mx := fmaxmin .b32 true acc.1 v
      let sm := fadd .b32 .rne acc.2.1 v
      (mx.1, sm.1, acc.2.2 ||| mx.2 ||| sm.2)
    | some d =>
      let x := fmul .b32 .rne v d
      let mn := fmaxmin .b32 true acc.1 x.1
      let a := fsub .b32 .rne acc.1 mn.1
      let ea := fexp2 .b32 .rne a.1
      let s1 := fmul .b32 .rne acc.2.1 ea.1
      let b := fsub .b32 .rne x.1 mn.1
      let eb := fexp2 .b32 .rne b.1
      let s2 := fadd .b32 .rne s1.1 eb.1
      (mn.1, s2.1, acc.2.2 ||| x.2 ||| mn.2 ||| a.2 ||| ea.2 ||| s1.2 ||| b.2 ||| eb.2 ||| s2.2)) (m, s, 0#8)
  (tensorFix .b32 r.1, tensorFix .b32 r.2.1, r.2.2)

/-! ### The self-test's verdict (R75, R76) -/

/-- Quadrants that a faulty cell fences: cells (row, column) with 0 to 31 each, row 32 the footing row, column 32 the row checks. -/
def cellQuads (c : Nat × Nat) : Nat :=
  if c.1 = 32 ∧ c.2 = 32 then 0b1111
  else if c.1 = 32 then (if c.2 < 16 then 0b0101 else 0b1010)
  else if c.2 = 32 then (if c.1 < 16 then 0b0011 else 0b1100)
  else 2 ^ (c.1 / 16 * 2 + c.2 / 16)

/-- Quadrants fenced by a list of faulty cells. -/
def faultyQuads (l : List (Nat × Nat)) : Nat := (l.filter (fun c => c.1 ≤ 32 && c.2 ≤ 32)).foldl (fun a c => a ||| cellQuads c) 0

end Sys2Proof.Machine
end

