-- ==== Sys2Proof/Machine/Tulle.lean ====
section
/-! DEFINITION. The tulle and the joins between dies (R11 to R13, R21, R473, R477): the fixed path between two routers, or between a router
and a headframe, and the order it keeps. -/

namespace Sys2Proof.Machine

/-! ### Routers and paths inside a panel (R12, R13) -/

/-- A tulle router: its panel, its column 0 to 63 from the west and its row 0 to 39 from the north. -/
structure Router where
  panel : Nat
  col : Nat
  row : Nat
deriving DecidableEq, Repr

/-- The router of motif M: grounds are eight across, motifs of a ground eight across. -/
def routerOf (m : Nat) : Router :=
  let g := m % 2560 / 64
  { panel := m / 2560, col := g % 8 * 8 + m % 8, row := g / 8 * 8 + m % 64 / 8 }

/-- The coordinates passed from `a` to `b`, both included. -/
def between (a b : Nat) : List Nat :=
  if a ≤ b then (List.range (b - a + 1)).map (a + ·) else (List.range (a - b + 1)).map (a - ·)

/-- The routers passed between two routers of one panel: column first, then row (R13). -/
def meshPath (a b : Router) : List Router :=
  (between a.col b.col).map (fun c => { a with col := c }) ++ ((between a.row b.row).drop 1).map (fun r => { a with col := b.col, row := r })

/-! ### Crossings between panels (R11, R13, R473) -/

/-- Where link k of a shared edge attaches: at every fourth router of a 64-router edge, at floor(2.5 k) on a 40-router edge. -/
def linkAt (eastWest : Bool) (k : Nat) : Nat := if eastWest then 5 * k / 2 else 4 * k

/-- The link whose attachment lies nearest to a coordinate along the edge, the lower-numbered of two equally near. -/
def nearestLink (eastWest : Bool) (at_ : Nat) : Nat :=
  let far := fun (k : Nat) => max (linkAt eastWest k) at_ - min (linkAt eastWest k) at_
  (List.range 16).foldl (fun best k => if far k < far best then k else best) 0

/-- One crossing: the panel left, the direction of the edge, and the link used. -/
structure Crossing where
  panel : Nat
  eastWest : Bool
  link : Nat
deriving DecidableEq, Repr

/-- A path: the routers passed, in order, and the links crossed. -/
structure Path where
  routers : List Router
  links : List Crossing
deriving DecidableEq, Repr

/-- The crossing from a router over an edge of its panel, with the router on the far side. -/
def cross (a : Router) (eastWest : Bool) : Crossing × Router × Router :=
  let k := nearestLink eastWest (if eastWest then a.row else a.col)
  let p := linkAt eastWest k
  if eastWest then
    let out := if a.panel % 2 = 0 then 63 else 0
    (⟨a.panel, true, k⟩, { a with col := out, row := p }, ⟨a.panel / 2 * 2 + (1 - a.panel % 2), 63 - out, p⟩)
  else
    let out := if a.panel < 2 then 39 else 0
    (⟨a.panel, false, k⟩, { a with col := p, row := out }, ⟨(a.panel + 2) % 4, p, 39 - out⟩)

/-- The path between two routers: east–west crossings first, then north–south, then the rest of the way (R11). -/
def pathBetween (a b : Router) : Path :=
  let step := fun (x : Path × Router) (need eastWest : Bool) =>
    if need then
      let c := cross x.2 eastWest
      ((⟨x.1.routers ++ meshPath x.2 c.2.1, x.1.links ++ [c.1]⟩ : Path), c.2.2)
    else x
  let x := step (⟨[], []⟩, a) (a.panel % 2 ≠ b.panel % 2) true
  let y := step x (a.panel / 2 ≠ b.panel / 2) false
  ⟨y.1.routers ++ meshPath y.2 b, y.1.links⟩

/-! ### Paths to and from a headframe (R11, R13, R21) -/

/-- The bridge of a headframe through which traffic between a router and it passes, counted west to east over its two panels: its own
panel's where the headframe adjoins that panel, else those of the panel beyond the north–south edge, reached over the link nearest the
router. A bridge serves the four columns whose edge routers it attaches to: the columns' traffic uses it (DEDUCED, log entry 10). -/
def bridgeOf (r : Router) (hf : Nat) : Nat :=
  r.panel % 2 * 16 + (if r.panel / 2 = hf then r.col else linkAt false (nearestLink false r.col)) / 4

/-- The router of an edge that a headframe's traffic for a router passes first, and last on the way back. -/
def edgeRouter (r : Router) (hf : Nat) : Router :=
  let edge := if hf = 0 then 0 else 39
  if r.panel / 2 = hf then { r with row := edge }
  else ⟨(r.panel + 2) % 4, linkAt false (nearestLink false r.col), edge⟩

/-- The path from a router to a headframe's edge. -/
def pathToHf (r : Router) (hf : Nat) : Path := pathBetween r (edgeRouter r hf)

/-! ### Where traffic ends (R209, R240, R246) -/

/-- An end of a path: a motif's router, or a headframe. -/
inductive PathEnd
  | motif (m : Nat)
  | hf (h : Nat)
deriving DecidableEq, Repr

/-- The end that holds a device address: the motif of a bank, the headframe of an LPDDR channel, the north headframe for PCIe. -/
def State.endOf (s : State) (a : Nat) : PathEnd :=
  if a < bankEnd then .motif (bankOf a / 4)
  else if a < hostBase then
    match s.ldMap (pairBase a - extBase) with
    | some (c, _) => .hf (c / 48)
    | none => .hf 0
  else .hf 0

/-- The ends of the bytes of a span: those of its first and last byte, and of each LPDDR pair between them. -/
def State.endsOf (s : State) (a n : Nat) : List PathEnd :=
  (s.endOf a :: s.endOf (a + n - 1) ::
    (if bankEnd ≤ a && a < hostBase then (List.range (n / 128)).map (fun i => s.endOf (a + 128 * i)) else [])).eraseDups

/-! ### Bridges (R21) -/

/-- The FIFO of a bridge in one direction. -/
def bridgeKey (hf bridge : Nat) (toPanel : Bool) : Nat := (hf * 32 + bridge) * 2 + b2n toPanel
def State.bridgeFull (s : State) (hf bridge : Nat) (toPanel : Bool) : Bool := 64 ≤ (s.bridges.get [] (bridgeKey hf bridge toPanel)).length

/-- Whether nothing on the way between a router and the ends of a span is full: bridges towards the headframe for what leaves the panel,
and towards the panel for what returns. -/
def State.wayOpen (s : State) (r : Router) (a n : Nat) (returns : Bool) : Bool :=
  (s.endsOf a n).all (fun e => match e with
    | .motif _ => true
    | .hf h => !s.bridgeFull h (bridgeOf r h) false && !(returns && s.bridgeFull h (bridgeOf r h) true))

/-- Whether every bridge of a headframe towards its panels is full, so that its interfaces hold their data (R21). -/
def State.hfHolds (s : State) (hf : Nat) : Bool := (List.range 32).all (fun b => s.bridgeFull hf b true)

/-! ### Order along a path (R11, R13) -/

/-- The ends of a posted store's bytes. -/
def State.storeEnds (s : State) (p : Posted) : List PathEnd := (p.bytes.map (fun c => s.endOf c.1)).eraseDups
/-- The ends of a load. -/
def State.loadEnds (s : State) (l : PLoad) : List PathEnd := s.endsOf l.addr l.size
def endsMeet (a b : List PathEnd) : Bool := a.any b.contains

/-- Whether an earlier store from the same motif to one of the same routers has not yet landed: the later may not overtake it. -/
def State.behindStore (s : State) (m id : Nat) (ends : List PathEnd) : Bool :=
  s.posted.any (fun q => q.motif = m && q.id < id && endsMeet (s.storeEnds q) ends)
/-- Whether an earlier load from the same motif to one of the same routers is still outstanding. -/
def State.behindLoad (s : State) (m born : Nat) (ends : List PathEnd) : Bool :=
  s.tasks.any (fun t => t.2.loads.any (fun l => l.motif = m && l.born < born && endsMeet (s.loadEnds l) ends))

end Sys2Proof.Machine
end

