-- ==== Sys2Proof/Machine/Xfer.lean ====
section
/-! DEFINITION. Unit commands (R159, R160, R474) and XFER (R166, R105, R107 to R114). -/

namespace Sys2Proof.Machine

/-! ### Unit commands -/

/-- What the module keeps of a unit command that issues now; its command word names the token (R159). -/
def State.command (s : State) (x k : Nat) (t : Task) (i : Insn) (word tid : Nat) : CmdInfo :=
  { id := s.tick, key := k, ctx := x, pc := t.pc.toNat, w0 := i.w0, w1 := i.w1,
    token := if bitOf word 8 then some (motifOf x * 256 + bitsOf word 0 8) else none, tid := tid }

/-- A command joins its task's CMD_OUT. -/
def Task.issuedCmd (t : Task) (c : CmdInfo) : Task := { t with cmds := t.cmds ++ [c.id] }

/-- Whether the token of a command word lies in a window of the job (R159). -/
def State.tokenOk (s : State) (m slot word : Nat) : Bool := !bitOf word 8 || s.ownsToken slot (m * 256 + bitsOf word 0 8)

/-- The first failing check of a list, with the address it concerns. -/
def firstFailing : List (Option (Code × Nat)) → Option (Code × Nat)
  | [] => none
  | some e :: _ => some e
  | none :: r => firstFailing r

/-- A check that fails with a code. -/
def checkIf (bad : Bool) (c : Code) : Option (Code × Nat) := if bad then some (c, 0) else none

/-! ### XFER at issue -/

/-- Extents of a view that XFER uses. -/
def Desc.xdims (d : Desc) : Nat := if d.kind = 0 then 3 else 1

/-- The pairings of R166: destination and source. -/
def pairOk (d a : Desc) : Bool :=
  match a.kind, d.kind with
  | 0, 0 => if d.qnt then !a.qnt && (a.fmt = .b32 || a.fmt = .b16 || a.fmt = .g16) else true
  | 0, 1 => !a.qnt && a.fmt = d.fmt
  | 0, 2 => !a.qnt && a.fmt = .i32
  | 2, 0 => !d.qnt && d.fmt = .i32
  | _, _ => false

/-- The issue checks of XFER in the order of R474. -/
def State.xferFault (s : State) (m slot : Nat) (d a : Desc) (word : Nat) : Option (Code × Nat) :=
  firstFailing [
    checkIf (word >>> 9 ≠ 0) .ILLEGAL,
    checkIf (d.invalid d.xdims) .DESC_INVALID,
    checkIf (a.invalid a.xdims) .DESC_INVALID,
    checkIf (!s.scaleViewOk m slot d || !s.scaleViewOk m slot a) .SRF_RANGE,
    s.protectSpans slot true d.spans,
    s.protectSpans slot false a.spans,
    checkIf (!pairOk d a) .DESC_INVALID,
    checkIf (d.count ≠ a.count) .XFER_SHAPE,
    checkIf (!s.tokenOk m slot word) .TOK_RANGE]

/-- Commands the XFER engine holds: four running and sixteen waiting (R160). -/
def xferLimit : Nat := 20

def execXfer (x : Nat) (d a : TReg) (b : SReg) (s : State) : Host.Outcome State Fault Refusal :=
  let i : Insn := { w0 := encWord 0x38 d.val a.val b.val 0 }
  .next (s.issue x i false (tregs [d.val, a.val] ++ sregs [b.val]) []
    (fun s k t =>
      let dst : Desc := ⟨(t.treg d.val).toNat⟩
      let src : Desc := ⟨(t.treg a.val).toNat⟩
      let word := (t.sreg b.val).toNat
      let m := motifOf x
      match s.xferFault m t.slot dst src word with
      | some e => .fault e.1 e.2 0
      | none =>
        if xferLimit ≤ (s.xfers m).length then .stay s .waitData .none else
        let c := s.command x k t i word dst.tid
        .go ((s.setXfers m (s.xfers m ++ [{ info := c, dst := dst.raw, src := src.raw, subout := t.flush }])).numbered)
          (t.issuedCmd c) none))

/-! ### The transfer itself -/

/-- How a transfer ends: its state, whether it met an uncorrectable line, the fault that stopped it, and whether its data went on to
the plait. -/
structure XferEnd where
  st : State
  err : Bool := false
  fault : Option Code := none
  sent : Bool := false

/-- The rounding of element `index` of a destination (R44, R48). -/
def State.elemRm (s : State) (slot : Nat) (d : Desc) (src : Fmt) (dst : Fmt) (index : Nat) : Rm :=
  if d.sr && shorter src dst then .sr (srBits (s.seed slot) d.tid index (s.step32 slot)) else .rne

/-- Flags of a list of results joined. -/
def joinFlags (l : List (Nat × Flags)) : Flags := l.foldl (fun a e => a ||| e.2) 0#8

/-- A converting copy between memory views (R166): the sign of zero and NaN payloads are kept. -/
def State.convertAll (s : State) (slot : Nat) (d : Desc) (f : Fmt) (flush : Bool) (codes : List Nat) : List (Nat × Flags) :=
  codes.zipIdx.map (fun e =>
    if f = d.fmt then (e.1, 0#8)
    else convert f d.fmt (s.elemRm slot d f d.fmt (d.indexAt e.2)) flush e.1)

/-- The scale entries that the elements of a quantised view use. -/
def Desc.entries (d : Desc) : List Nat := ((List.range d.count).map (fun n => d.entryOf (d.indexAt n))).eraseDups

/-- A quantising copy (R107, R108, R112 to R114): blocks in ascending order, up to the first that finds no overflow slot. -/
def State.quantise (s : State) (ag : Agent) (m slot : Nat) (d : Desc) (f : Fmt) (flush : Bool) (codes : List Nat) :
    State × Flags × Bool :=
  let el := codes.zipIdx.map (fun e =>
    let ix := d.indexAt e.2
    let rm := if d.sr then Rm.sr (srBits (s.seed slot) d.tid ix (s.step32 slot)) else .rne
    ({ index := ix, fmt := f, value := e.1, q := quantCode d.fmt rm flush d.escEn (s.scale m (d.entryOf ix)) (valOf f e.1) } : QElem))
  ((el.map (fun e => e.index / blockCodes d.fmt)).eraseDups.mergeSort (· ≤ ·)).foldl (fun acc b =>
    if acc.2.2 then acc else
    let r := acc.1.writeBlock ag m d b flush el
    (r.st, acc.2.1 ||| r.flags, r.ovf)) (s, 0#8, false)

/-- One transfer, whole (R166). `info` names its task, `m` its motif. -/
def State.runXfer (s : State) (m : Nat) (info : CmdInfo) (d a : Desc) (flush : Bool)
    (host : List Host.Cell) : XferEnd :=
  let slot := slotOf info.key
  let ag := jobAgent slot
  let key := info.key
  let badScale := fun (v : Desc) => v.kind = 0 && v.qnt && v.entries.any (fun i => !s.ownsScale slot m i)
  if badScale d || badScale a then { st := s, fault := some .SRF_RANGE }
  else if d.kind = 0 && d.qnt && d.entries.any (fun i => !scaleValid d.fmt (s.scale m i)) then { st := s, fault := some .SCALE_INVALID }
  else if a.kind = 2 then
    { st := s.writePlain ag d ((List.range a.ext0).map (fun i => (s.scale m (a.first + i)).toNat)) }
  else
    let r : State × List Nat × Bool × Flags := if a.qnt then s.readQnt ag m a host
      else let p := s.readPlain ag a host; (p.1, p.2.1, p.2.2, 0#8)
    let s := r.1
    let codes := r.2.1
    let err := r.2.2.1
    let f := if a.qnt then Fmt.b32 else a.fmt
    let s := s.flagTask key r.2.2.2 a.tid
    match d.kind with
    | 2 => { st := (List.range d.ext0).foldl (fun s i => s.setScale m (d.first + i) (BitVec.ofNat 32 (codes.getD i 0))) s, err := err }
    | 1 =>
      let c : Contribution := {
        id := s.tick, entry := d.entry, position := d.position, posSelf := d.posSelf, offset := d.offset, i32 := d.fmt = .i32,
        vals := codes.map (BitVec.ofNat 32), motif := m, slot := slot, info := some info, failed := err }
      { st := { s.numbered with contribs := s.contribs ++ [c] }, err := err, sent := true }
    | _ =>
      if d.qnt then
        let q := s.quantise ag m slot d f flush codes
        { st := q.1.flagTask key q.2.1 d.tid, err := err, fault := if q.2.2 then some .QBLOCK_OVF else none }
      else
        let out := s.convertAll slot d f flush codes
        { st := (s.writePlain ag d (out.map (·.1))).flagTask key (joinFlags out) d.tid, err := err }

/-- Whether the banks under a motif's transfer answer now, and no bridge on its way is full (R21). -/
def State.xferReady (s : State) (m slot : Nat) (d a : Desc) : Bool :=
  s.spansReady (jobAgent slot) true d.spans && s.spansReady (jobAgent slot) false a.spans &&
  d.spans.all (fun p => s.wayOpen (routerOf m) p.1 p.2 false) && a.spans.all (fun p => s.wayOpen (routerOf m) p.1 p.2 true)
/-- The wakes it starts. -/
def State.xferWake (s : State) (slot : Nat) (d a : Desc) : State :=
  (s.wakeSpans (jobAgent slot) true d.spans).wakeSpans (jobAgent slot) false a.spans

/-- A running XFER completes (R159, R166): one of the first four of its motif's list, by index. -/
def State.xferComplete (s : State) (m index : Nat) (host : List Host.Cell) : State :=
  if 4 ≤ index then s else
  match (s.xfers m)[index]? with
  | none => s
  | some c =>
    let d : Desc := ⟨c.dst⟩
    let a : Desc := ⟨c.src⟩
    let slot := slotOf c.info.key
    if !s.xferReady m slot d a then s.xferWake slot d a else
    let s := s.setXfers m ((s.xfers m).eraseIdx index)
    let r := s.runXfer m c.info d a c.subout host
    match r.fault with
    | some code => (r.st.deferFault code c.info 0 0).settleAborts
    | none => (if r.sent then r.st else r.st.endCmd c.info r.err).settleAborts

def execXferComplete (m index : Nat) (host : List Host.Cell) (s : State) : Host.Outcome State Fault Refusal :=
  .next (s.xferComplete m index host)

end Sys2Proof.Machine
end

