-- ==== Sys2Proof/Machine/ArrayOps.lean ====
section
/-! DEFINITION. What the array does with its queued commands (R55 to R62, R65, R66, R72 to R77, R86): loads, chunks, swaps, drains,
replays, self-tests and fences. -/

namespace Sys2Proof.Machine

/-! ### The queue (R56) -/

/-- Commands waiting in a motif's array queue (QUEUE_FILL). -/
def State.queueFill (s : State) (m : Nat) : Nat := [0, 1, 2, 3, 4].foldl (fun a u => a + (s.engine m u).waiting) 0
/-- Whether both sets are EMPTY and no drain runs. -/
def Engine.idleSets (e : Engine) : Bool := e.set0.phase = .empty && e.set1.phase = .empty && e.drain = .idle

/-- Sets that will be draining with no MDRN queued, once the queue has taken effect (R57). -/
def Engine.undrained (e : Engine) : Bool :=
  let swaps := (e.queue.filter (fun c => match c with | .mswap _ => true | _ => false)).length
  let drains := (e.queue.filter (fun c => match c with | .mdrn _ _ _ _ _ _ => true | _ => false)).length
  let now := (if (e.set0.phase = .draining || e.set1.phase = .draining) && e.drainCmd = none then 1 else 0) + swaps
  decide (drains < now)

/-- The configuration that commands issued now will meet: that of the last renewed claim in the queue, else the one in force (R56). -/
def Engine.cfgNext (e : Engine) : Nat :=
  e.queue.foldl (fun a c => match c with | .mcfg _ cfg => cfg | _ => a) e.cfg

/-- Commands at the head of the queue that take effect of themselves: a loaded tile that no stream uses becomes active, MPASS and a
renewed claim act once both sets are EMPTY (R56). A renewed MCFG configures a claim that goes on: the stationary registers, MA_ROWSTAT and
the last drain's status stay (DEDUCED, log entry 19). `fuel` bounds them. -/
def settle (m u : Nat) : Nat → State → State
  | 0, s => s
  | fuel + 1, s =>
    let e := s.engine m u
    match e.queue with
    | .chunk r :: .chunk q :: rest => settle m u fuel (s.setEngine m u { e with stat := r, queue := .chunk q :: rest })
    | .chunk r :: .mswap i :: rest => settle m u fuel (s.setEngine m u { e with stat := r, queue := .mswap i :: rest })
    | .chunk r :: .mdrn i d c x f b :: rest => settle m u fuel (s.setEngine m u { e with stat := r, queue := .mdrn i d c x f b :: rest })
    | .chunk r :: .mpass i n :: rest => settle m u fuel (s.setEngine m u { e with stat := r, queue := .mpass i n :: rest })
    | .chunk r :: .mcfg i c :: rest => settle m u fuel (s.setEngine m u { e with stat := r, queue := .mcfg i c :: rest })
    | .mpass i n :: rest =>
      if e.idleSets then
        settle m u fuel ((s.setEngine m u { e with pass := n, queue := rest, logNext := e.logNext ++ [.mpass i n] }).endCmd i false)
      else s
    | .mcfg i c :: rest =>
      if e.idleSets then
        settle m u fuel ((s.setEngine m u
          { e with cfg := c, pass := bitsOf c 12 2, queue := rest, active := false, set0 := {}, set1 := {}, logNext := [] }).endCmd i false)
      else s
    | _ => s

/-- An engine stored, and what its queue then does of itself. -/
def State.putEngine (s : State) (m u : Nat) (e : Engine) : State := settle m u 20 (s.setEngine m u e)

/-! ### Loads (R58, R60) -/

/-- A tile read from memory into a stationary register (R51, R59, R162). -/
def State.readTile (s : State) (u cfg : Nat) (c : MCmd) : State × Stat :=
  match c with
  | .mlds info desc t =>
    let d : Desc := ⟨desc⟩
    let r := s.readPlain (jobAgent (slotOf info.key)) d []
    (r.1.flagTask info.key (r.2.1.foldl (fun a x => a ||| operandNv d.fmt x) 0#8) 0,
      makeStat d.fmt (unitRows u cfg) (unitCols u cfg) d.ext0 d.ext1 t r.2.1 c)
  | _ => (s, {})

/-- The commands before the first load of a queue, that load, and the rest. -/
def splitLoad : List MCmd → Option (List MCmd × MCmd × List MCmd)
  | [] => none
  | .mlds i d t :: r => some ([], .mlds i d t, r)
  | c :: r => (splitLoad r).map (fun x => (c :: x.1, x.2))

/-- The register that a load after these commands fills: the one that is idle once they have taken effect. -/
def loadTarget (active : Bool) (pre : List MCmd) : Bool :=
  !(pre.foldl (fun a c => match c with | .chunk r => r | _ => a) active)

/-- Whether every stream among these commands is against the last tile loaded before them: none stands before a tile that follows it. -/
def streamsLast : List MCmd → Bool
  | [] => true
  | .mstr _ _ _ _ :: r => r.all (fun c => !isMarker c) && streamsLast r
  | _ :: r => streamsLast r

/-- Whether a load may run while the commands before it are still queued (R56, R67): no stream of them uses its target register, and none
of them configures the array. -/
def loadMayRun (f : Fmt) (pre : List MCmd) : Bool :=
  pre.all (fun c => match c with | .mpass _ _ => false | .mcfg _ _ => false | .mstr _ _ _ _ => f ≠ .b32 | _ => true) && streamsLast pre

/-- Info of a command. -/
def MCmd.info : MCmd → Option CmdInfo
  | .mlds i _ _ => some i
  | .chunk _ => none
  | .mstr i _ _ _ => some i
  | .mswap i => some i
  | .mdrn i _ _ _ _ _ => some i
  | .mpass i _ => some i
  | .mcfg i _ => some i
/-- The descriptor of a load or stream. -/
def MCmd.desc : MCmd → Nat
  | .mlds _ d _ => d
  | .mstr _ d _ _ => d
  | _ => 0

/-- Whether the banks under a command's source answer now. -/
def State.sourceReady (s : State) (c : MCmd) : Bool :=
  match c.info with
  | some i => s.spansReady (jobAgent (slotOf i.key)) false (Desc.spans ⟨c.desc⟩)
  | none => true
def State.sourceWake (s : State) (c : MCmd) : State :=
  match c.info with
  | some i => s.wakeSpans (jobAgent (slotOf i.key)) false (Desc.spans ⟨c.desc⟩)
  | none => s

/-- A command of an engine complete: out of its task's CMD_OUT. -/
def State.endM (s : State) (c : MCmd) : State :=
  match c.info with
  | some i => s.endCmd i false
  | none => s

/-- MLDS_DONE: the first queued load completes, if its register is free (R56, R58). -/
def State.mldsDone (s : State) (m u : Nat) : State :=
  let e := s.engine m u
  match splitLoad e.queue with
  | none => s
  | some (pre, c, rest) =>
    if !loadMayRun (cfgA e.cfg) pre then s
    else if !s.sourceReady c then s.sourceWake c
    else
      let r := s.readTile u e.cfg c
      let tgt := loadTarget e.stat pre
      let e' := (if cfgA e.cfg = .b32 then (e.putReg tgt r.2).putReg (!tgt) r.2 else e.putReg tgt r.2)
      (r.1.putEngine m u { e' with queue := pre ++ .chunk tgt :: rest }).endM c

def execMldsDone (motif unit : Nat) (s : State) : Host.Outcome State Fault Refusal :=
  .next (s.mldsDone motif unit).settleAborts

/-! ### Chunks (R62, R72) -/

/-- The streams at the head of a queue, and the rest. -/
def splitStreams : List MCmd → List MCmd × List MCmd
  | .mstr i d t c :: r => let x := splitStreams r; (.mstr i d t c :: x.1, x.2)
  | l => ([], l)

/-- What streaming takes from an engine's configuration and a tile's footing control. -/
def streamCfg (u cfg pass ctl : Nat) : StreamCfg :=
  { a := cfgA cfg, b := cfgB cfg, rows := unitRows u cfg, cols := unitCols u cfg, pass := pass, checks := bitOf ctl 5 }

/-- The vectors of the streams of a chunk read from memory, and the NV of signalling operands. -/
def State.readStreams (s : State) (u cfg : Nat) (l : List MCmd) : State × List (Nat × List Nat) :=
  l.foldl (fun acc c =>
    match c with
    | .mstr info desc t c0 =>
      let d : Desc := ⟨desc⟩
      let r := acc.1.readPlain (jobAgent (slotOf info.key)) d []
      (r.1.flagTask info.key (r.2.1.foldl (fun a x => a ||| operandNv d.fmt x) 0#8) 0,
        acc.2 ++ vectorsOf (unitCols u cfg) d.ext0 d.ext1 c0 t r.2.1)
    | _ => acc) (s, [])

/-- A hardware fault of the array while it streams: bits of one accumulator or footing word flipped (R73). -/
def upsetSet (t : SetSt) (a : ArrayUpset) : SetSt :=
  if a.row < 32 ∧ a.col < 128 then { t with acc := t.acc.put 0#32 (a.col * 32 + a.row) (t.at_ a.col a.row ^^^ a.mask) }
  else if a.row = 32 ∧ a.col < 128 then { t with colChk := t.colChk.put 0#32 a.col (t.colChk.get 0#32 a.col ^^^ a.mask) }
  else if a.row < 32 ∧ a.col = 128 then { t with rowChk := t.rowChk.put 0#32 a.row (t.rowChk.get 0#32 a.row ^^^ a.mask) }
  else if a.row = 32 ∧ a.col = 128 then { t with corner := t.corner ^^^ a.mask }
  else t

/-- The replay log of a tile grown, no further than one entry past its limit (R74). -/
def logMore (l more : List MCmd) : List MCmd := (l ++ more).take 257

/-- CHUNK_STREAM_END: a chunk's vectors, then its footing slots, have entered the cells and reached the active set. While a replay or the
self-test runs, streaming into the other set pauses (R75 order 2). The tile's log holds the loads that its streams use: a load that no
stream used is left out, and a tile that streams against a register loaded for an earlier tile logs that load (DESIGN CHOICE, log entry 20,
beside R74). -/
def State.chunkStreamEnd (s : State) (m u : Nat) (upsets : List ArrayUpset) : State :=
  let e := s.engine m u
  let start := match e.queue with
    | .chunk r :: rest => (some r, rest)
    | l => (none, l)
  let run := splitStreams start.2
  if run.1 = [] || e.drain = .replaying || e.drain = .selftest then s
  else if !run.1.all s.sourceReady then run.1.foldl State.sourceWake s
  else
    let act := start.1.getD e.stat
    let st := e.reg act
    let t0 := e.set e.active
    let t := if t0.phase = .empty then
        { t0 with phase := .accumulating, ctl := (s.rd (Reg.MA_FOOT_CTL m)).toNat, log := e.logNext } else t0
    let loadLog := if start.1.isSome || (t.log.all (fun c => match c with | .mlds _ _ _ => false | _ => true)) then st.load.toList else []
    let r := s.readStreams u e.cfg run.1
    let x := streamChunk (streamCfg u e.cfg e.pass t.ctl) st t r.2
    let t' := upsets.foldl upsetSet { x.1 with log := logMore t.log (loadLog ++ run.1) }
    let s := match run.1.getLast? with
      | some (.mstr info _ _ _) => r.1.flagTask info.key x.2 0
      | _ => r.1
    let e' := ({ e with stat := act, queue := run.2, logNext := if t0.phase = SetPhase.empty then [] else e.logNext }).putSet e.active t'
    run.1.foldl State.endM (s.putEngine m u e')

def execChunkStreamEnd (motif unit : Nat) (upsets : List ArrayUpset) (s : State) : Host.Outcome State Fault Refusal :=
  .next (s.chunkStreamEnd motif unit upsets).settleAborts

/-! ### Swaps (R66) -/

/-- MSWAP_EFFECT: the swap at the head of the queue takes effect once the other set is EMPTY. -/
def State.mswapEffect (s : State) (m u : Nat) : State :=
  let e := s.engine m u
  match e.queue with
  | .mswap i :: rest =>
    if (e.set (!e.active)).phase ≠ .empty then s else
    let t := e.set e.active
    let t := if t.phase = .empty then { t with ctl := (s.rd (Reg.MA_FOOT_CTL m)).toNat } else t
    (s.putEngine m u ({ e with active := !e.active, queue := rest }.putSet e.active { t with phase := .draining })).endCmd i false
  | _ => s

def execMswapEffect (motif unit : Nat) (s : State) : Host.Outcome State Fault Refusal :=
  .next (s.mswapEffect motif unit).settleAborts

/-! ### Drains (R66, R68, R69, R163, R164) -/

/-- The set that drains: the one that is not active. -/
def Engine.drainSet (e : Engine) : Bool := !e.active

/-- Function bits of MDRN (R163). -/
def fnSC (f : Nat) : Bool := bitOf f 0
def fnSROW (f : Nat) : Bool := bitOf f 1
def fnSTAT (f : Nat) : Bool := bitOf f 2
def fnONLINE (f : Nat) : Bool := bitOf f 3
def fnEXPS (f : Nat) : Bool := bitOf f 4
def fnSTATWR (f : Nat) : Bool := bitOf f 5
def fnCOLS (f : Nat) : Bool := bitOf f 8

/-- Rows of one column as R164 counts them: 32 in full mode, 16 in a quadrant. -/
def fullRows (u : Nat) : Nat := if u = 4 then 32 else 16
/-- Rows and columns that an MDRN drains (R163, R164). -/
def drainShape (u : Nat) (d : Desc) (func : Nat) : Nat × Nat :=
  if d.kind = 1 then (fullRows u, d.ext0 / fullRows u)
  else if fnCOLS func then (d.ext0, d.ext1) else (d.ext1, d.ext0)

/-- The value of stage 2 for column n, row i. -/
def State.scaled (s : State) (m cfg : Nat) (t : SetSt) (cmd func n i : Nat) : Nat × Flags :=
  drainScale (cfgA cfg).isInt
    (if fnSC func then some (s.scale m (bitsOf cmd 16 9 + if fnSROW func then i else n)) else none) (t.at_ n i)

/-- One drained element: stage 4 on stage 2's value; an I32 accumulator that no scale converts keeps its integer (R68). -/
def State.drained (s : State) (m cfg slot : Nat) (t : SetSt) (d : Desc) (cmd func : Nat) (flush : Bool) (n i k : Nat) : Nat × Flags :=
  let x := s.scaled m cfg t cmd func n i
  let isInt := (cfgA cfg).isInt && !fnSC func
  let src := if isInt then Fmt.i32 else .b32
  let v := if isInt then (t.at_ n i).toNat else x.1
  let index := if fnCOLS func then d.index 0 k i else d.index 0 i k
  let rm := if d.kind = 0 && d.sr then Rm.sr (srBits (s.seed slot) d.tid index (s.step32 slot)) else .rne
  let r := if src = cfgOut cfg then (tensorFix src v, 0#8) else tensorOut src (cfgOut cfg) rm flush v
  (r.1, x.2 ||| r.2)

/-- Row i of MA_ROWSTAT that unit u's rows use (R476). -/
def statRow (u i : Nat) : Nat := (statRows u).1 + i

/-- Row statistics of a drain (R69). -/
def State.drainStats (s : State) (m u cfg : Nat) (t : SetSt) (cmd dscale func nrow ncol : Nat) (key : Nat) : State :=
  (List.range (min nrow (statRows u).2)).foldl (fun s i =>
    let a := Reg.MA_ROWSTAT_MAX m (statRow u i)
    let b := Reg.MA_ROWSTAT_SUM m (statRow u i)
    let m0 := if fnONLINE func then (s.rd a).toNat else 0xFF800000
    let s0 := if fnONLINE func then (s.rd b).toNat else 0
    let vals := (List.range ncol).map (fun k => (s.scaled m cfg t cmd func (bitsOf cmd 9 7 + k) i).1)
    let r := rowStat (if fnEXPS func then some dscale else none) m0 s0 vals
    ((s.wr a (BitVec.ofNat 32 r.1)).wr b (BitVec.ofNat 32 r.2.1)).flagTask key r.2.2 0) s

/-- The row pairs written to the destination's auxiliary area (R163). -/
def State.writeStats (s : State) (ag : Agent) (m u : Nat) (d : Desc) : State :=
  s.writeDev ag d.aux ((List.range (statRows u).2).flatMap (fun i =>
    toBytes 4 (s.rd (Reg.MA_ROWSTAT_MAX m (statRow u i))).toNat ++ toBytes 4 (s.rd (Reg.MA_ROWSTAT_SUM m (statRow u i))).toNat))

/-- The codes of a drain in the destination's logical order (column by column for a plait entry, R164). -/
def State.drainCodes (s : State) (m u cfg slot : Nat) (t : SetSt) (d : Desc) (cmd func : Nat) (flush : Bool) : List (Nat × Flags) :=
  let sh := drainShape u d func
  let el := fun k i => s.drained m cfg slot t d cmd func flush (bitsOf cmd 9 7 + k) i k
  if d.kind = 1 || fnCOLS func then (List.range sh.2).flatMap (fun k => (List.range sh.1).map (el k))
  else (List.range sh.1).flatMap (fun i => (List.range sh.2).map (fun k => el k i))

/-- A drain's results: statistics, then the values to memory, or to the plait as one contribution. -/
def State.drainOut (s : State) (m u cfg : Nat) (t : SetSt) (info : CmdInfo) (d : Desc) (cmd dscale func : Nat) (flush send : Bool) : State :=
  let slot := slotOf info.key
  let sh := drainShape u d func
  let l := s.drainCodes m u cfg slot t d cmd func flush
  let s := if fnSTAT func then s.drainStats m u cfg t cmd dscale func sh.1 sh.2 info.key else s
  let s := s.flagTask info.key (joinFlags l) d.tid
  let s := if l.any (fun e => isNan (cfgOut cfg) e.1) then s.setBit (Reg.MA_STATUS m) 3 true else s
  if d.kind = 1 then
    if !send then s else
    let c : Contribution := {
      id := s.tick, entry := d.entry, position := d.position, posSelf := d.posSelf, offset := d.offset, i32 := d.fmt = .i32,
      vals := l.map (fun e => BitVec.ofNat 32 e.1), motif := m, slot := slot, info := some info, failed := false }
    { s.numbered with contribs := s.contribs ++ [c] }
  else
    let s := s.writePlain (jobAgent slot) d (l.map (·.1))
    if fnSTATWR func then s.writeStats (jobAgent slot) m u d else s

/-- A drain's destination left undefined (R75): free values. -/
def State.spoil (s : State) (slot : Nat) (d : Desc) : State :=
  if d.kind ≠ 0 then s else
  let s' : State := { s with free := s.free + d.count }
  s'.writePlain (jobAgent slot) d ((List.range d.count).map (fun n => Config.freeNat (s.free + n)))

/-- The rows of MA_ROWSTAT of a unit, for a replay. -/
def State.saveStats (s : State) (m u : Nat) : List Word :=
  (List.range (statRows u).2).flatMap (fun i => [s.rd (Reg.MA_ROWSTAT_MAX m (statRow u i)), s.rd (Reg.MA_ROWSTAT_SUM m (statRow u i))])
def State.restoreStats (s : State) (m u : Nat) (l : List Word) : State :=
  (List.range (statRows u).2).foldl (fun s i =>
    (s.wr (Reg.MA_ROWSTAT_MAX m (statRow u i)) (l.getD (2 * i) 0#32)).wr (Reg.MA_ROWSTAT_SUM m (statRow u i)) (l.getD (2 * i + 1) 0#32)) s

/-- Whether a drain sends to the plait only after its check (R86). -/
def checkedPlait (t : SetSt) (d : Desc) : Bool := d.kind = 1 && bitOf t.ctl 5

/-- DRAIN_START: the MDRN at the head of the queue reads its set (R66). A drain to a plait entry with CHECK_EN sends nothing yet. -/
def State.drainStart (s : State) (m u : Nat) : State :=
  let e := s.engine m u
  match e.queue with
  | .mdrn info desc cmd dscale func flush :: rest =>
    let t := e.set e.drainSet
    if e.drain ≠ .idle || t.phase ≠ .draining then s else
    let d : Desc := ⟨desc⟩
    let ag := jobAgent (slotOf info.key)
    if !s.spansReady ag true d.spans then s.wakeSpans ag true d.spans else
    let s' := s.putEngine m u { e with
      queue := rest, drain := .reading, drainCmd := some (.mdrn info desc cmd dscale func flush), replays := 0,
      oldStats := s.saveStats m u }
    if checkedPlait t d then s'
    else s'.drainOut m u e.cfg t info d cmd dscale func flush true
  | _ => s

def execDrainStart (motif unit : Nat) (s : State) : Host.Outcome State Fault Refusal :=
  .next (s.drainStart motif unit).settleAborts

/-! ### Footing results (R73, R75, R76) -/

/-- Event data of FOOTING_MISMATCH (R75): motif, set, MA_LAST_FAIL, replays, fenced quadrants. -/
def State.footEvent (s : State) (m : Nat) (cls : EvClass) (set : Bool) (replays quads : Nat) : State :=
  s.raise .FOOTING_MISMATCH cls m [m, b2n set, (s.rd (Reg.MA_LAST_FAIL m)).toNat, replays, quads]

/-- Quadrants fenced until repair at S3 (R75 order 8, R77). -/
def State.fenceQuads (s : State) (m quads : Nat) : State :=
  let f := s.fld (Reg.MA_FENCE m) 0 4 ||| quads
  (((s.setFld (Reg.MA_FENCE m) 0 4 f).setBit (Reg.MA_FENCE m) 4 (f = 0b1111)).setBit (Reg.MA_STATUS m) 2 true)

/-- A drain that ends: the set EMPTY, the status kept for MCHK, the drain counted (R65, R66, R165). -/
def State.endDrain (s : State) (m u status : Nat) (clean : Bool) : State :=
  let e := s.engine m u
  let a := s.array m
  let n := if clean then a.cleanTiles + 1 else 0
  let s := s.setArray m { a with
    tiles := a.tiles + 1, cleanTiles := if 65536 ≤ n then 0 else n, suspect := a.suspect && !decide (65536 ≤ n) }
  s.putEngine m u ({ e with
    drain := .idle, drainCmd := none, lastStatus := status, lastReplays := e.replays, oldStats := [] }.putSet e.drainSet {})

/-- The MDRN of a drain that ends with status FAIL (R75): the destination is undefined, its token takes ERR. A chain's stage reports the
failure to its chain (R179). -/
def State.failDrain (s : State) (m u : Nat) (info : CmdInfo) (d : Desc) : State :=
  let s := (s.spoil (slotOf info.key) d).endDrain m u 2 false
  if info.chain.isSome then s.landStage info.chain (codeNumber .FOOTING_MISMATCH) else s.endCmd info true

/-- The comparisons of the draining set, with their counts (R73). -/
def State.compareSet (s : State) (m u : Nat) : State × Footing :=
  let e := s.engine m u
  let f := footing u e.cfg (e.set e.drainSet)
  (if f.skips = 0 then s else (s.setBit (Reg.MA_STATUS m) 5 true).count (Reg.MA_FOOT_COUNT m) 16 16 f.skips, f)

/-- MISMATCHES counts every drain whose check fails, a replay's drain too (DESIGN CHOICE, log entry 21, beside R75).
A failing comparison (R75 orders 1, 3, 7; R76): recorded; then the fence of a SUSPECT array, a replay, or the self-test. -/
def State.mismatch (s : State) (m u : Nat) (info : CmdInfo) (d : Desc) (f : Footing) : State :=
  let e := s.engine m u
  let a := s.array m
  let t := e.set e.drainSet
  let s := (s.setBit (Reg.MA_STATUS m) 0 true).count (Reg.MA_FOOT_COUNT m) 0 16 1
  let s := s.wr (Reg.MA_LAST_FAIL m) (BitVec.ofNat 32 (f.lastFail e.drainSet a.tiles.toNat))
  let s := s.setArray m { a with cleanTiles := 0 }
  if a.suspect then
    (((s.fenceQuads m 0b1111).footEvent m .fenced e.drainSet e.replays 0b1111)).failDrain m u info d
  else if 256 < t.log.length then (s.setBit (Reg.MA_STATUS m) 4 true).setEngine m u { e with drain := .selftest }
  else if e.replays < bitsOf t.ctl 6 2 then s.setEngine m u { e with drain := .replaying }
  else s.setEngine m u { e with drain := .selftest }

/-- A drain's comparisons complete. On a pass, values held back for the plait are sent and the MDRN ends (R73, R86). -/
def State.drainChecked (s : State) (m u : Nat) (info : CmdInfo) (d : Desc) (cmd dscale func : Nat) (flush : Bool) : State :=
  let e := s.engine m u
  let t := e.set e.drainSet
  let r := if bitOf t.ctl 5 then s.compareSet m u else (s, ⟨[], [], .pass⟩)
  if r.2.failed then r.1.mismatch m u info d r.2
  else
    let s := r.1
    let s := if e.replays = 0 then s
      else ((s.setBit (Reg.MA_STATUS m) 1 true).count (Reg.MA_REPLAY_COUNT m) 16 16 1).footEvent m .corrected e.drainSet e.replays 0
    let s := if checkedPlait t d then s.drainOut m u e.cfg t info d cmd dscale func flush true else s
    let s := s.endDrain m u (if bitOf t.ctl 5 then 0 else 1) (e.replays = 0)
    if d.kind = 1 then s else s.endCmd info false

/-- DRAIN_COMPLETE: the columns have reached their banks and the footing result is known. -/
def State.drainComplete (s : State) (m u : Nat) : State :=
  let e := s.engine m u
  match e.drain, e.drainCmd with
  | .reading, some (.mdrn info desc cmd dscale func flush) => s.drainChecked m u info ⟨desc⟩ cmd dscale func flush
  | _, _ => s

def execDrainComplete (motif unit : Nat) (s : State) : Host.Outcome State Fault Refusal :=
  .next (s.drainComplete motif unit).settleAborts

/-- One logged command run again into a cleared set (R74, R75 order 3): the stationary register in use, the set, and the streams
that have gathered for the next chunk. -/
def State.replayChunk (s : State) (m u : Nat) (set : Bool) (load : Option MCmd) (streams : List MCmd) : State :=
  if streams = [] then s else
  let e := s.engine m u
  let st := match load with
    | some c => s.readTile u e.cfg c
    | none => (s, {})
  let r := st.1.readStreams u e.cfg streams
  let x := streamChunk (streamCfg u e.cfg e.pass (e.set set).ctl) st.2 (e.set set) r.2
  r.1.setEngine m u (e.putSet set x.1)

/-- The replay log run again, chunk by chunk. -/
def replayLog (m u : Nat) (set : Bool) : List MCmd → Option MCmd → List MCmd → State → State
  | [], load, streams, s => s.replayChunk m u set load streams
  | .mlds i d t :: r, load, streams, s => replayLog m u set r (some (.mlds i d t)) [] (s.replayChunk m u set load streams)
  | .mstr i d t c :: r, load, streams, s => replayLog m u set r load (streams ++ [.mstr i d t c]) s
  | _ :: r, load, streams, s => replayLog m u set r load streams s

/-- REPLAY_DONE: the tile has run again into its cleared set and is drained to the same destination and checked (R75). -/
def State.replayDone (s : State) (m u : Nat) (upsets : List ArrayUpset) : State :=
  let e := s.engine m u
  match e.drain, e.drainCmd with
  | .replaying, some (.mdrn info desc cmd dscale func flush) =>
    let d : Desc := ⟨desc⟩
    let t := e.set e.drainSet
    let s := (s.count (Reg.MA_REPLAY_COUNT m) 0 16 1).restoreStats m u e.oldStats
    let s := s.setEngine m u ({ e with replays := e.replays + 1 }.putSet e.drainSet t.cleared)
    let s := replayLog m u e.drainSet t.log none [] s
    let e1 := s.engine m u
    let s := s.setEngine m u (e1.putSet e1.drainSet (upsets.foldl upsetSet (e1.set e1.drainSet)))
    let e2 := s.engine m u
    let s := if checkedPlait t d then s
      else s.drainOut m u e2.cfg (e2.set e2.drainSet) info d cmd dscale func flush false
    s.drainChecked m u info d cmd dscale func flush
  | _, _ => s

def execReplayDone (motif unit : Nat) (upsets : List ArrayUpset) (s : State) : Host.Outcome State Fault Refusal :=
  .next (s.replayDone motif unit upsets).settleAborts

/-- ARRAY_SELFTEST_DONE: the 2,048-hs self-test ends with its faulty cells (R75 orders 8 and 9, R76). -/
def State.selftestDone (s : State) (m u : Nat) (cells : List (Nat × Nat)) : State :=
  let e := s.engine m u
  match e.drain, e.drainCmd with
  | .selftest, some (.mdrn info desc _ _ _ _) =>
    let q := faultyQuads cells
    let s := if q ≠ 0 then (s.fenceQuads m q).footEvent m .fenced e.drainSet e.replays q
      else (s.setArray m { s.array m with suspect := true }).footEvent m .corrected e.drainSet e.replays 0
    s.failDrain m u info ⟨desc⟩
  | _, _ => s

def execArraySelftestDone (motif unit : Nat) (cells : List (Nat × Nat)) (s : State) : Host.Outcome State Fault Refusal :=
  .next (s.selftestDone motif unit cells).settleAborts

/-- MA_FOOT_CTL written: a TOL_EXP below 4 stores 4, above 20 stores 20. A tile keeps the controls of its first chunk, so the write
takes effect at the next tile boundary. -/
def State.footCtlWrite (s : State) (m : Nat) (v : Word) : State :=
  let tol := bitsOf v.toNat 0 5
  s.wr (Reg.MA_FOOT_CTL m) (BitVec.ofNat 32 ((if tol < 4 then 4 else if 20 < tol then 20 else tol) + bitsOf v.toNat 5 3 * 32))

def execMaFootCtlWrite (motif : Nat) (v : Word) (s : State) : Host.Outcome State Fault Refusal :=
  .next (s.footCtlWrite motif v)

end Sys2Proof.Machine
end

