-- ==== Sys2Proof/Machine/Plait.lean ====
section
/-! DEFINITION. Plait reductions (R79 to R100, R316, R335): opening, contributions, joins, output stage, fall-back path and end. -/

namespace Sys2Proof.Machine

/-! ### The present set (R79, R80) -/

def State.plElements (s : State) (i : Nat) : Nat := s.fld (Reg.PN_PLAIT_ELEMENTS i) 0 25
/-- ELEMENTS rounded up to a multiple of 8. -/
def State.plE8 (s : State) (i : Nat) : Nat := roundUp (s.plElements i) 8
def State.plPanels (s : State) (i : Nat) : Nat := s.fld (Reg.PN_PLAIT_PANEL i) 0 4
/-- Physical panel of panel slot k. -/
def State.plMap (s : State) (i k : Nat) : Nat := s.fld (Reg.PN_PLAIT_PANEL i) (4 + 2 * k) 2
def State.plGrounds (s : State) (i : Nat) : Nat := s.rd2 (Reg.PN_PLAIT_GMASK_LO i) (Reg.PN_PLAIT_GMASK_HI i) % 2 ^ 40
def State.plMotifs (s : State) (i : Nat) : Nat := s.rd2 (Reg.PN_PLAIT_MMASK_LO i) (Reg.PN_PLAIT_MMASK_HI i)
def State.plInt (s : State) (i : Nat) : Bool := s.bit (Reg.PN_PLAIT_CTL i) 5
def State.plFabric (s : State) (i : Nat) : Bool := s.bit (Reg.PN_PLAIT_CTL i) 6
def State.plSoft (s : State) (i : Nat) : Bool := s.bit (Reg.PN_PLAIT_CTL i) 4
def State.plSlot (s : State) (i : Nat) : Nat := s.fld (Reg.PN_PLAIT_CTL i) 14 6
def State.plDest (s : State) (i : Nat) : Nat := s.rd2 (Reg.PN_PLAIT_DEST_LO i) (Reg.PN_PLAIT_DEST_HI i)
def State.plPartial (s : State) (i : Nat) : Nat := s.rd2 (Reg.PN_PLAIT_PARTIAL_LO i) (Reg.PN_PLAIT_PARTIAL_HI i)

/-- Whether a logical position is present. -/
def State.present (s : State) (i p : Nat) : Bool :=
  bitOf (s.plPanels i) (p / 4096) && bitOf (s.plGrounds i) (p / 64 % 64) && bitOf (s.plMotifs i) (p % 64)
/-- Bits set in a mask of n bits. -/
def bitsSet (n mask : Nat) : List Nat := (List.range n).filter (bitOf mask)
/-- Present panel slots. -/
def State.plSlots (s : State) (i : Nat) : List Nat := bitsSet 4 (s.plPanels i)
/-- The number of present positions. -/
def State.plCount (s : State) (i : Nat) : Nat :=
  (s.plSlots i).length * (bitsSet 40 (s.plGrounds i)).length * (bitsSet 64 (s.plMotifs i)).length
/-- The panel slot that an entry maps to a physical panel, if present there. -/
def State.slotOn (s : State) (i panel : Nat) : Option Nat := (s.plSlots i).find? (fun k => s.plMap i k = panel)

/-- Bits in which the least and the greatest set bit of a mask differ, counted from the top one. -/
def spanBits (n mask : Nat) : Nat :=
  match bitsSet n mask with
  | [] => 0
  | l => let x := l.headD 0 ^^^ l.getLastD 0; if x = 0 then 0 else x.log2 + 1

/-- The level of the lowest node that covers every present position (R81). -/
def State.exitLevel (s : State) (i : Nat) : Nat :=
  if spanBits 4 (s.plPanels i) ≠ 0 then 12 + spanBits 4 (s.plPanels i)
  else if spanBits 40 (s.plGrounds i) ≠ 0 then 6 + spanBits 40 (s.plGrounds i)
  else spanBits 64 (s.plMotifs i)

/-! Nodes of levels 1 to 12 are numbered by the physical positions they cover. The module joins form two trees (R81), tree 0 in panel 0
and tree 1 in panel 2; their nodes, and the links that lead to them from the panel nodes, are numbered by panel slot within the tree: link
4t + k from the panel node of slot k, node 2t + n at level 13, and node t at level 14. -/

/-- Whether an entry has present positions under the link that leaves a node of a level. -/
def State.underLink (s : State) (i level node : Nat) : Bool :=
  if 12 ≤ level then (List.range (2 ^ (level - 12))).any (fun k => bitOf (s.plPanels i) (node * 2 ^ (level - 12) % 4 + k))
  else
    let p := node * 2 ^ level
    (s.slotOn i (p / 4096)).isSome &&
    (if level ≤ 6 then bitOf (s.plGrounds i) (p / 64 % 64) && bitsOf (s.plMotifs i) (p % 64) (2 ^ level) ≠ 0
      else bitsOf (s.plGrounds i) (p / 64 % 64) (2 ^ (level - 6)) ≠ 0 && s.plMotifs i ≠ 0)

/-! ### Opening (R90, R92, R95, R96, R100, R335) -/

/-- Open entries in the tree with positions in a ground node. -/
def State.openInGround (s : State) (g : Nat) : Nat :=
  ((List.range 256).filter (fun i => s.entryState i = 1 && !s.plSoft i && (s.slotOn i (g / 40)).isSome && bitOf (s.plGrounds i) (g % 40))).length
/-- Open entries in the tree with positions in a panel. -/
def State.openInPanel (s : State) (p : Nat) : Nat :=
  ((List.range 256).filter (fun i => s.entryState i = 1 && !s.plSoft i && (s.slotOn i p).isSome)).length

/-- Physical grounds with positions of an entry. -/
def State.groundsOf (s : State) (i : Nat) : List Nat :=
  (s.plSlots i).flatMap (fun k => (bitsSet 40 (s.plGrounds i)).map (fun g => s.plMap i k * 40 + g))

/-- The panels in whose module joins a sum that spans panels leaves now (R81). -/
def State.joinPanels (s : State) : List Nat := [0, 2].filter s.panelUp

/-- The tree of module joins that carries a block of an entry: by the block's parity, or the one whose panel was in service at the open
(R81; DEDUCED, log entry 27). -/
def State.treeOf (s : State) (i block : Nat) : Nat :=
  match (s.entry i).exits with
  | [p] => p / 2
  | _ => block % 2

/-- The panel whose bridges carry a block of a fabric entry (R94, R95): panel 0 or 2 by the block's parity, the one of them still in
service, else the panel of the entry's one slot, or for the fall-back path the lowest-numbered panel in service. -/
def State.sendPanel (s : State) (i block : Nat) : Nat :=
  match (s.entry i).exits with
  | [] => if s.plSoft i then ([0, 1, 2, 3].find? s.panelUp).getD 0 else s.plMap i ((s.plSlots i).headD 0)
  | [p] => p
  | _ => 2 * (block % 2)

/-- Whether a node that the entry needs is fenced. -/
def State.needsFenced (s : State) (i : Nat) : Bool :=
  (s.groundsOf i).any (fun g => s.bit (Reg.GD_PLAIT_STATE g) 0) ||
  (decide (6 < s.exitLevel i) && (s.plSlots i).any (fun k => s.bit (Reg.PN_PLAIT_STATE (s.plMap i k)) 0)) ||
  (decide (12 < s.exitLevel i) && s.joinPanels.any (fun p => s.bit (Reg.PN_PLAIT_STATE p) 1))

/-- Whether an entry opens on the fall-back path (R92). -/
def State.opensSoft (s : State) (i : Nat) : Bool :=
  let maps := (s.plSlots i).map (s.plMap i)
  s.bit (Reg.PN_PLAIT_CTL i) 3 || decide (maps.eraseDups.length < maps.length) || maps.any (fun p => !s.panelUp p) ||
  (s.groundsOf i).any (fun g => 16 ≤ s.openInGround g) || maps.any (fun p => 64 ≤ s.openInPanel p) || s.needsFenced i ||
  (decide (1 < maps.length) && s.joinPanels = [])

/-- Segment and member numbers of a collective (R334). -/
def State.collSeg (s : State) (h : Nat) : Nat := bitsOf (s.coll h 4).toNat 0 24 * 1024
def State.collMembers (s : State) (h : Nat) : Nat := bitsOf (s.coll h 2).toNat 0 17
def State.collRank (s : State) (h : Nat) : Nat := bitsOf (s.coll h 3).toNat 0 17
def State.collType (s : State) (h : Nat) : Nat := bitsOf (s.coll h 0).toNat 1 2

/-- Whether a fabric entry mismatches its collective (R335). -/
def State.collMismatch (s : State) (i : Nat) : Bool :=
  let h := s.fld (Reg.PN_PLAIT_COLL i) 0 16 % 1024
  let w0 := (s.coll h 0).toNat
  let n := s.collMembers h
  let e := s.plElements i
  let ty := s.collType h
  !bitOf w0 0 || decide (1024 ≤ s.fld (Reg.PN_PLAIT_COLL i) 0 16) || bitsOf w0 4 6 ≠ s.plSlot i || !(bitOf w0 3 == s.plInt i) || s.collRank h = 0x1FFFF ||
  (if ty = 0 then false else if ty = 2 then e ≠ s.collSeg h else e ≠ n * s.collSeg h) || (ty = 3 && decide (4096 < n))

/-- PLAIT_OPEN: a write of an entry's first word with OPEN set (R100). -/
def State.plaitOpen (s : State) (i : Nat) (v : Word) : State :=
  if 256 ≤ i || s.entryState i = 1 then s else
  let ctl := Reg.PN_PLAIT_CTL i
  let s := s.wr ctl ((s.rd ctl &&& ~~~0xFFFE8#32) ||| (v &&& 0xFFFE8#32))
  if !v.getLsbD 2 then s else
  let s := (s.setFld (Reg.PN_PLAIT_FLAGS i) 0 6 0).setBit (Reg.PN_PLAIT_FLAGS i) 12 false
  let s := ((s.wr (Reg.PN_PLAIT_TAP_LOCAL i) 0#32).wr (Reg.PN_PLAIT_TAP_REDUCED i) 0#32).wr (Reg.PN_PLAIT_SOFT i) 0#32
  let s := (s.wr (Reg.PN_PLAIT_DONE i) 0#32).setEntry i { exits := s.joinPanels }
  if s.plCount i = 0 || s.plElements i = 0 || 0x1000000 < s.plElements i || 10 ≤ s.fld ctl 10 4 then
    ((s.setBit (Reg.PN_PLAIT_FLAGS i) 12 true).setEntryState i 3).raise .PLAIT_CONFIG .info (srcPanel 0) [i]
  else
    let slot := s.plSlot i
    let s := s.wr (Reg.PN_PLAIT_EPOCH i) (s.rd (Reg.HF_GROUP_EPOCH slot))
    let s := s.setBit ctl 4 (s.opensSoft i)
    if !s.plFabric i then s.setFld ctl 0 2 1
    else if s.collMismatch i then
      ((s.setEntryState i 3).raise .COLL_MISMATCH .jobFatal (srcJob slot) [i, s.fld (Reg.PN_PLAIT_COLL i) 0 16]).stopSlot slot
    else
      let h := s.fld (Reg.PN_PLAIT_COLL i) 0 16
      let w0 := (s.coll h 0).toNat
      let s : State := { s with collRun := s.collRun.put {} h { s.collRun.get {} h with entry := i } }
      ((s.setColl h 0 (BitVec.ofNat 32 (setBits w0 10 2 1))).setColl h 7 (s.rd (Reg.HF_GROUP_EPOCH slot))).setFld ctl 0 2 1

def execPlaitOpen (entry : Nat) (v : Word) (s : State) : Host.Outcome State Fault Refusal :=
  .next (s.plaitOpen entry v)

/-! ### Contributions (R85, R88, R155) -/

/-- The position of a contribution (R155): its own, or that of the issuing motif under PANEL_MAP. -/
def State.positionOf (s : State) (c : Contribution) : Option Nat :=
  if !c.posSelf then some c.position else
  let mapped := (List.range 4).filter (fun k => s.plMap c.entry k = panelOf c.motif)
  match mapped.find? (fun k => bitOf (s.plPanels c.entry) k), mapped with
  | some k, _ => some (4096 * k + c.motif % 2560)
  | none, k :: _ => some (4096 * k + c.motif % 2560)
  | none, [] => none

/-- A contribution refused: its deferred fault, and its CAUSE bit unless check 1 refused it. -/
def State.refuseContribution (s : State) (c : Contribution) (code : Code) (cause : Option Nat) : State :=
  let s := match cause with
    | some b => s.setBit (Reg.PN_PLAIT_FLAGS c.entry) b true
    | none => s
  match c.info with
  | some i => s.deferFault code i 0 c.entry
  | none => s

/-- A contribution accepted whole: its command ends (R159). -/
def State.endContribution (s : State) (c : Contribution) : State :=
  match c.info with
  | some i => s.endCmd i c.failed
  | none => s

/-- Checks 1 to 6 of R85 (5 on the fall-back path): the refusal, with its CAUSE bit. -/
def State.contributionFault (s : State) (c : Contribution) (soft : Bool) : Option (Code × Option Nat) :=
  if s.entryState c.entry ≠ 1 || s.plSlot c.entry ≠ c.slot then some (.PLAIT_SLOT, none)
  else match s.positionOf c with
    | none => some (.PLAIT_SLOT, some 10)
    | some p =>
      if !s.present c.entry p then some (.PLAIT_SLOT, some 10)
      else if !soft && s.plMap c.entry (p / 4096) ≠ panelOf c.motif then some (.PLAIT_SLOT, some 10)
      else if !(c.i32 == s.plInt c.entry) then some (.PLAIT_SLOT, some 10)
      else if s.plElements c.entry ≤ c.offset || s.plE8 c.entry < c.offset + c.vals.length then some (.PLAIT_SLOT, some 10)
      else if soft then none
      else
        let next := (s.entry c.entry).next.get 0 p
        if c.offset < next then some (.PLAIT_DUP, some 9) else if next < c.offset then some (.PLAIT_ORDER, some 8) else none

/-- Flits of up to eight elements from an offset on. -/
def flitsOf (entry age : Nat) : Nat → Nat → List Word → List Flit
  | 0, _, _ => []
  | _, _, [] => []
  | k + 1, base, l => ⟨entry, base, l.take 8, age⟩ :: flitsOf entry age k (base + 8) (l.drop 8)

/-- The elements of a contribution that lie below ELEMENTS. -/
def State.kept (s : State) (c : Contribution) : List Word := c.vals.take (s.plElements c.entry - c.offset)

/-- PLAIT_CONTRIBUTION: a contribution reaches its leaf in the tree (R85). -/
def State.plaitContribution (s : State) (id : Nat) : State :=
  match s.contribs.find? (fun c => c.id = id) with
  | none => s
  | some c =>
    if s.plSoft c.entry then s else
    let s : State := { s with contribs := s.contribs.filter (fun c => c.id ≠ id) }
    match s.contributionFault c false, s.positionOf c with
    | some f, _ => s.refuseContribution c f.1 f.2
    | none, none => s
    | none, some p =>
      let i := c.entry
      let e := s.entry i
      let vals := s.kept c
      let fl := flitsOf i s.tick (vals.length / 8 + 1) c.offset vals
      let e := { e with next := e.next.put 0 p (c.offset + c.vals.length) }
      let phys := 4096 * s.plMap i (p / 4096) + p % 4096
      let g := s.plMap i (p / 4096) * 40 + p / 64 % 64
      let s := if c.motif % 2560 = p % 4096 then s else s.count (Reg.GD_PLAIT_COUNT g) 0 16 fl.length
      let s := if s.exitLevel i = 0 then s.setEntry i { e with out := e.out ++ fl }
        else (s.setEntry i e).setEdge 0 phys (s.edge 0 phys ++ fl)
      s.numbered.endContribution c

def execPlaitContribution (id : Nat) (s : State) : Host.Outcome State Fault Refusal :=
  .next ((s.plaitContribution id).settleAborts)

/-- Rank of a present position among present positions in ascending order (R92). -/
def State.rankOf (s : State) (i p : Nat) : Nat :=
  let gs := bitsSet 40 (s.plGrounds i)
  let ms := bitsSet 64 (s.plMotifs i)
  ((s.plSlots i).filter (· < p / 4096)).length * (gs.length * ms.length) +
  (gs.filter (· < p / 64 % 64)).length * ms.length + (ms.filter (· < p % 64)).length

/-- The scheduler spawns the library task that sums an entry's partials in the job slot, with RM = RNE and the entry's SUBOUT (R92, R93).
DESIGN CHOICE (log entry 25): one task per entry, at an address that the model leaves open. -/
def State.spawnSums (s : State) (i : Nat) : State :=
  let slot := s.plSlot i
  let r := s.queueRecord slot [Config.summingPc, BitVec.ofNat 32 (s.firstMotif slot), BitVec.ofNat 32 i]
  let s := r.1.setTask r.2 { r.1.task r.2 with arith := BitVec.ofNat 32 (8 * b2n (s.bit (Reg.PN_PLAIT_CTL i) 9)) }
  s.setEntry i { s.entry i with sums := some r.2 }

/-- PLAIT_FALLBACK_WRITE: a contribution on the fall-back path is written full width to the partial area (R92). The sums start when the
exact count of elements reaches its total; SOFT_PROGRESS, 32 bits wide, shows it saturated (DESIGN CHOICE, log entry 26). -/
def State.plaitFallback (s : State) (id : Nat) : State :=
  match s.contribs.find? (fun c => c.id = id) with
  | none => s
  | some c =>
    if !s.plSoft c.entry then s else
    match s.contributionFault c true, s.positionOf c with
    | some f, _ => State.refuseContribution { s with contribs := s.contribs.filter (fun c => c.id ≠ id) } c f.1 f.2
    | none, none => s
    | none, some p =>
      let i := c.entry
      let a := s.plPartial i + (s.rankOf i p * s.plE8 i + c.offset) * 4
      let ag := jobAgent c.slot
      let vals := s.kept c
      if !s.spanReady ag true a (4 * vals.length) then s.wakeSpan ag true a (4 * vals.length) else
      let s := State.writeDev { s with contribs := s.contribs.filter (fun c => c.id ≠ id) } ag a (bytesOfWords vals)
      let e := s.entry i
      let done := e.taken + vals.length
      let s := (s.setEntry i { e with taken := done }).wr (Reg.PN_PLAIT_SOFT i) (BitVec.ofNat 32 (min (2 ^ 32 - 1) done))
      let s := if s.plElements i * s.plCount i ≤ done && e.sums = none then s.spawnSums i else s
      s.endContribution c

def execPlaitFallbackWrite (id : Nat) (s : State) : Host.Outcome State Fault Refusal :=
  .next ((s.plaitFallback id).settleAborts)

/-! ### Joins (R79, R82, R87, R91) -/

/-- One element joined (R82): binary32 with RNE, or modulo 2^32. -/
def joinWord (isInt : Bool) (a b : Word) : Word × Flags :=
  if isInt then (a + b, 0#8)
  else
    let r := fadd .b32 .rne a.toNat b.toNat
    (BitVec.ofNat 32 (if isNan .b32 r.1 then Fmt.nanCode .b32 else r.1), r.2)

/-- Lanes joined; a lane that one side lacks passes. -/
def joinVals (isInt : Bool) : List Word → List Word → List Word × Flags
  | [], l => (l, 0#8)
  | l, [] => (l, 0#8)
  | a :: x, b :: y =>
    let h := joinWord isInt a b
    let t := joinVals isInt x y
    (h.1 :: t.1, h.2 ||| t.2)

/-- The FLAGS bits of an entry (R100): NV, OF, UF, NX, FZ, SAT. -/
def plaitFlags (f : Flags) : Nat :=
  b2n (f.getLsbD 0) + b2n (f.getLsbD 2) * 2 + b2n (f.getLsbD 3) * 4 + b2n (f.getLsbD 4) * 8 + b2n (f.getLsbD 5) * 16 + b2n (f.getLsbD 6) * 32
def State.flagEntry (s : State) (i : Nat) (f : Flags) : State :=
  s.setFld (Reg.PN_PLAIT_FLAGS i) 0 6 (s.fld (Reg.PN_PLAIT_FLAGS i) 0 6 ||| plaitFlags f)

/-- The panel of a module join: that of its tree (R81). -/
def joinPanel (level node : Nat) : Nat := 2 * (node / 2 ^ (14 - level))

/-- The unit that holds a node, as an event source. -/
def nodeSource (level node : Nat) : Nat :=
  if level ≤ 6 then srcGround (node * 2 ^ level / 4096 * 40 + node * 2 ^ level / 64 % 64)
  else if level ≤ 12 then srcPanel (node * 2 ^ level / 4096) else srcPanel (joinPanel level node)

/-- The node fenced in which a parity error was found (R91). -/
def State.fenceNode (s : State) (level node : Nat) : State :=
  if level ≤ 6 then
    let g := node * 2 ^ level / 4096 * 40 + node * 2 ^ level / 64 % 64
    (s.setBit (Reg.GD_PLAIT_STATE g) 0 true).count (Reg.GD_PLAIT_COUNT g) 16 16 1
  else if level ≤ 12 then s.setBit (Reg.PN_PLAIT_STATE (node * 2 ^ level / 4096)) 0 true
  else s.setBit (Reg.PN_PLAIT_STATE (joinPanel level node)) 1 true

/-- A parity error on an entry's flit (R91): the entry FAULT, the node fenced, the step aborted or the request sent again. -/
def State.parityFault (s : State) (i level node : Nat) : State :=
  let slot := s.plSlot i
  let s := ((s.setBit (Reg.PN_PLAIT_FLAGS i) 11 true).fenceNode level node).raise .PLAIT_PARITY .fenced (nodeSource level node) [i, level, node]
  let s := s.setEntryState i 3
  if s.classOf slot = 0 then s.failRequests slot else s.abortStep slot

/-- A child link of a join: level and number of the node it leaves. -/
def childOf (level node side : Nat) : Nat × Nat := (level - 1, 2 * node + side)

/-- What a child's head flit can do: pass when the entry has nothing under the other child, or join the other child's head. -/
inductive HeadMove
  | none | pass | join | waits | clash
deriving DecidableEq, Repr

/-- Move of a head flit, given the other child's link. -/
def State.headMove (s : State) (f : Option Flit) (other : Nat × Nat) (g : Option Flit) : HeadMove :=
  match f with
  | none => .none
  | some f =>
    if !s.underLink f.entry other.1 other.2 then .pass
    else match g with
      | none => .waits
      | some g => if g.entry = f.entry ∧ g.base = f.base then .join else .clash

/-- A joined or passed flit leaves a node: to the output stage at the exit level, else onto the node's link. -/
def State.leaveNode (s : State) (level node : Nat) (f : Flit) : State :=
  if s.exitLevel f.entry ≤ level then s.setEntry f.entry { s.entry f.entry with out := (s.entry f.entry).out ++ [f] }
  else
    let n := if level = 12 then 4 * s.treeOf f.entry (f.base / 1024) + (s.slotOn f.entry node).getD 0 else node
    s.setEdge level n (s.edge level n ++ [f])

/-- Whether flit f goes before flit g when both can proceed (R87): SERVE class first, else the older. -/
def State.goesFirst (s : State) (f g : Flit) : Bool :=
  let cf := s.classOf (s.plSlot f.entry) = 0
  let cg := s.classOf (s.plSlot g.entry) = 0
  if cf && !cg then true else if cg && !cf then false else f.age ≤ g.age

/-- PLAIT_JOIN: a join takes the flits at the heads of its children (R87). -/
def State.plaitJoin (s : State) (level node : Nat) (parityError : Bool) : State :=
  if level = 0 || 14 < level then s else
  let a := childOf level node 0
  let b := childOf level node 1
  let qa := s.edge a.1 a.2
  let qb := s.edge b.1 b.2
  let ma := s.headMove qa.head? b qb.head?
  let mb := s.headMove qb.head? a qa.head?
  match qa, qb with
  | f :: ra, g :: rb =>
    if ma = .join then
      if parityError then s.parityFault f.entry level node else
      let r := joinVals (s.plInt f.entry) f.vals g.vals
      (((s.setEdge a.1 a.2 ra).setEdge b.1 b.2 rb).flagEntry f.entry r.2).leaveNode level node ⟨f.entry, f.base, r.1, min f.age g.age⟩
    else if ma = .clash && mb = .clash then
      let hit := fun (s : State) (i : Nat) =>
        let slot := s.plSlot i
        (((s.setBit (Reg.PN_PLAIT_FLAGS i) 8 true).setEntryState i 3).raise .PLAIT_ORDER .jobFatal (nodeSource level node)
          [i, level, node, slot]).stopSlot slot
      if f.entry = g.entry then hit s f.entry else hit (hit s f.entry) g.entry
    else if ma = .pass && (mb ≠ .pass || s.goesFirst f g) then
      if parityError then s.parityFault f.entry level node else (s.setEdge a.1 a.2 ra).leaveNode level node f
    else if mb = .pass then
      if parityError then s.parityFault g.entry level node else (s.setEdge b.1 b.2 rb).leaveNode level node g
    else s
  | f :: ra, [] =>
    if ma ≠ .pass then s
    else if parityError then s.parityFault f.entry level node else (s.setEdge a.1 a.2 ra).leaveNode level node f
  | [], g :: rb =>
    if mb ≠ .pass then s
    else if parityError then s.parityFault g.entry level node else (s.setEdge b.1 b.2 rb).leaveNode level node g
  | [], [] => s

def execPlaitJoin (level node : Nat) (parityError : Bool) (s : State) : Host.Outcome State Fault Refusal :=
  .next (s.plaitJoin level node parityError)

/-! ### Output (R81, R83, R93, R94, R99) -/

/-- A partial of one position, as the summing tasks read it (R93). -/
def State.softLoad (s : State) (i p base n : Nat) : List Word :=
  wordsOfBytes n (s.bytes (s.plPartial i + (s.rankOf i p * s.plE8 i + base) * 4) (4 * n))

/-- The fall-back sum of one group of elements over positions [lo, lo + 2^k) (R93): the pairing of the tree. -/
def State.softSum (s : State) (i base n : Nat) : Nat → Nat → Option (List Word) × Flags
  | 0, lo => if s.present i lo then (some (s.softLoad i lo base n), 0#8) else (none, 0#8)
  | k + 1, lo =>
    -- a half with no present position gives nothing
    let half := fun q => if (List.range (2 ^ k)).any (fun o => s.present i (q + o)) then s.softSum i base n k q else (none, 0#8)
    let a := half lo
    let b := half (lo + 2 ^ k)
    match a.1, b.1 with
    | none, _ => (b.1, a.2 ||| b.2)
    | _, none => (a.1, a.2 ||| b.2)
    | some x, some y => let r := joinVals (s.plInt i) x y; (some r.1, a.2 ||| b.2 ||| r.2)

/-- Lane totals of R99 updated with one element: lanes 0–7 for even blocks, 8–15 for odd. -/
def tapLanes (lanes : SMap Word) (e : Nat × Word) : SMap Word :=
  let k := (if e.1 / 1024 % 2 = 0 then 0 else 8) + e.1 % 8
  lanes.put 0#32 k (BitVec.ofNat 32 (ffma .b32 .rne e.2.toNat e.2.toNat (lanes.get 0#32 k).toNat).1)

/-- A tap from sixteen lane totals (R99). -/
def tapOf (lanes : SMap Word) : Word :=
  let t := fun k => (lanes.get 0#32 k).toNat
  let add := fun a b => (fadd .b32 .rne a b).1
  let half := fun o => add (add (add (t o) (t (o + 1))) (add (t (o + 2)) (t (o + 3))))
    (add (add (t (o + 4)) (t (o + 5))) (add (t (o + 6)) (t (o + 7))))
  BitVec.ofNat 32 (add (half 0) (half 8))

/-- Whether an entry forms taps (R99). -/
def State.taps (s : State) (i : Nat) : Bool := s.bit (Reg.PN_PLAIT_CTL i) 7 && !s.plInt i

/-- One output value (R83): the element's code in OUT_FMT. -/
def State.outCode (s : State) (i index : Nat) (v : Word) : Nat × Flags :=
  let src := if s.plInt i then Fmt.i32 else .b32
  let dst := (Fmt.ofCode (s.fld (Reg.PN_PLAIT_CTL i) 10 4)).getD .b32
  let slot := s.plSlot i
  if src = dst then (tensorFix src v.toNat, 0#8)
  else tensorOut src dst
    (if s.bit (Reg.PN_PLAIT_CTL i) 8 && shorter src dst then .sr (srBits (s.seed slot) (s.rd (Reg.PN_PLAIT_TID i)).toNat index (s.step32 slot)) else .rne)
    (s.bit (Reg.PN_PLAIT_CTL i) 9) v.toNat

/-- Device address of an output element. -/
def State.outAddr (s : State) (i f base : Nat) : Nat := s.plDest i + base * f / 8

/-- A group of elements through the output stage: written at DEST, or handed to the collective (R83, R94, R99). -/
def State.plaitSend (s : State) (i base : Nat) (vals : List Word) : State :=
  let fix := vals.map (fun v => if s.plInt i then v else BitVec.ofNat 32 (tensorFix .b32 v.toNat))
  let e := s.entry i
  let e := if s.taps i then { e with lanes := (fix.zipIdx.map (fun p => (base + p.2, p.1))).foldl tapLanes e.lanes } else e
  let s := s.wr (Reg.PN_PLAIT_DONE i) (BitVec.ofNat 32 (s.fld (Reg.PN_PLAIT_DONE i) 0 25 + vals.length))
  if s.plFabric i then
    s.setEntry i { e with
      sent := fix.zipIdx.foldl (fun m p => m.put 0#32 (base + p.2) p.1) e.sent, groups := e.groups + 1,
      gone := e.gone.put 0 (base / 1024) (e.gone.get 0 (base / 1024) + vals.length) }
  else
    let dst := (Fmt.ofCode (s.fld (Reg.PN_PLAIT_CTL i) 10 4)).getD .b32
    let l := vals.zipIdx.map (fun p => s.outCode i (base + p.2) p.1)
    let s := (s.setEntry i { e with written := e.written + vals.length, groups := e.groups + 1 }).flagEntry i (joinFlags l)
    s.writeRow (jobAgent (s.plSlot i)) dst (s.outAddr i dst.width base) (l.map (·.1))

/-- The lowest present position, by physical panel. -/
def State.firstPos (s : State) (i : Nat) : Nat :=
  4096 * s.plMap i ((s.plSlots i).headD 0) + (bitsSet 40 (s.plGrounds i)).headD 0 * 64 + (bitsSet 64 (s.plMotifs i)).headD 0

/-- The node at which the sum of a block leaves. -/
def State.exitNode (s : State) (i block : Nat) : Nat :=
  if 12 < s.exitLevel i then s.treeOf i block * 2 ^ (14 - s.exitLevel i) + (s.plSlots i).headD 0 / 2 ^ (s.exitLevel i - 12)
  else s.firstPos i / 2 ^ max 1 (s.exitLevel i)

/-- The router of column 31 on a panel's headframe edge (R477). -/
def plaitRouter (panel : Nat) : Router := { panel := panel, col := 31, row := if panel < 2 then 0 else 39 }

/-- The router at which the sum of a block enters the tulle (R477): that of the ground's motif 0, or of column 31 on the headframe edge of
the panel of the panel node or of the module joins. The summing task's results enter at the router of its motif. -/
def State.exitRouter (s : State) (i block : Nat) : Router :=
  if s.plSoft i then routerOf (motifOf (((s.entry i).sums.bind s.ctxOfTask).getD 0))
  else if s.exitLevel i ≤ 6 then routerOf (2560 * (s.firstPos i / 4096) + s.firstPos i / 64 % 64 * 64)
  else if s.exitLevel i ≤ 12 then plaitRouter (s.firstPos i / 4096)
  else plaitRouter (2 * s.treeOf i block)

/-- The path of a block's sum to the byte at an address (R477, R13, R11, R473). -/
def State.outPath (s : State) (i block a : Nat) : Path :=
  match s.endOf a with
  | .motif m => pathBetween (s.exitRouter i block) (routerOf m)
  | .hf h => pathToHf (s.exitRouter i block) h

/-- Whether elements from `base` on may leave: no bridge on their way is full (R21, R477), and their bank serves them (R216, R222). -/
def State.outReady (s : State) (i base n : Nat) : Bool :=
  let dst := (Fmt.ofCode (s.fld (Reg.PN_PLAIT_CTL i) 10 4)).getD .b32
  let a := s.outAddr i dst.width base
  if s.plFabric i then
    let p := s.sendPanel i (base / 1024)
    !s.bridgeFull (p / 2) (bridgeOf (plaitRouter p) (p / 2)) false
  else s.wayOpen (s.exitRouter i (base / 1024)) a (rowBytes dst n) false && s.spanReady (jobAgent (s.plSlot i)) true a (rowBytes dst n)

/-- Elements that may not leave yet start the wakes of their bank. -/
def State.outWake (s : State) (i base n : Nat) : State :=
  let dst := (Fmt.ofCode (s.fld (Reg.PN_PLAIT_CTL i) 10 4)).getD .b32
  if s.plFabric i then s else s.wakeSpan (jobAgent (s.plSlot i)) true (s.outAddr i dst.width base) (rowBytes dst n)

/-- Returned results at the head of an entry's list written at DEST, through the output stage (R83, R94, R97, R99). The element index of
stochastic rounding and of the lane totals is the one in the whole reduction (DEDUCED, log entry 28). -/
def State.placeReturned (s : State) (i : Nat) : State :=
  match (s.entry i).back with
  | [] => s
  | r :: rest =>
    let dst := (Fmt.ofCode (s.fld (Reg.PN_PLAIT_CTL i) 10 4)).getD .b32
    let a := s.outAddr i dst.width r.base
    let ag := jobAgent (s.plSlot i)
    let n := rowBytes dst r.vals.length
    if !s.wayOpen (plaitRouter (s.sendPanel i (r.index / 1024))) a n false then s
    else if !s.spanReady ag true a n then s.wakeSpan ag true a n
    else
      let e := s.entry i
      let fix := r.vals.map (fun v => if s.plInt i then v else BitVec.ofNat 32 (tensorFix .b32 v.toNat))
      let reduced := if s.taps i then fix.zipIdx.foldl (fun m p => m.put 0#32 (r.index + p.2) p.1) e.reduced else e.reduced
      let l := r.vals.zipIdx.map (fun p => s.outCode i (r.index + p.2) p.1)
      let s := (s.setEntry i { e with back := rest, returned := e.returned + r.vals.length, reduced := reduced }).flagEntry i (joinFlags l)
      s.writeRow ag dst a (l.map (·.1))

/-- PLAIT_OUTPUT: the next flit that left the tree goes through the output stage; on the fall-back path the summing task, once it runs,
forms the next group of eight elements (R92, R93). Results that a collective returned and that waited for their bank are written. -/
def State.plaitOutput (s : State) (i : Nat) (parityError : Bool) : State :=
  if 256 ≤ i || s.entryState i ≠ 1 then s else
  let s := s.placeReturned i
  let e := s.entry i
  if s.plSoft i then
    let base := 8 * e.groups
    let n := min 8 (s.plElements i - base)
    if (e.sums.bind s.ctxOfTask) = none || s.plElements i ≤ base then s
    else if !s.outReady i base n then s.outWake i base n
    else
      let r := s.softSum i base n 14 0
      (s.flagEntry i r.2).plaitSend i base (r.1.getD [])
  else
    match e.out with
    | [] => s
    | f :: rest =>
      if parityError then s.parityFault i (max 1 (s.exitLevel i)) (s.exitNode i (f.base / 1024))
      else if !s.outReady i f.base f.vals.length then s.outWake i f.base f.vals.length
      else (s.setEntry i { e with out := rest }).plaitSend i f.base f.vals

/-! ### The end of an entry (R84, R97, R316) -/

/-- Elements that a fabric entry's collective returns at DEST (R335). -/
def State.returnCount (s : State) (i : Nat) : Nat :=
  let h := s.fld (Reg.PN_PLAIT_COLL i) 0 16
  match s.collType h with
  | 0 => s.plElements i
  | 1 => s.collSeg h
  | _ => s.collMembers h * s.collSeg h

/-- Whether every element has left the tree and been written at DEST (R97). -/
def State.entryComplete (s : State) (i : Nat) : Bool :=
  let e := s.entry i
  if s.plFabric i then decide (s.returnCount i ≤ e.returned) && decide (s.plElements i ≤ s.fld (Reg.PN_PLAIT_DONE i) 0 25)
  else decide (s.plElements i ≤ e.written)

/-- Entry FLAGS as ARITH flags. -/
def entryFlags (f : Nat) : Nat :=
  b2n (bitOf f 0) + b2n (bitOf f 1) * 4 + b2n (bitOf f 2) * 8 + b2n (bitOf f 3) * 16 + b2n (bitOf f 4) * 32 + b2n (bitOf f 5) * 64

/-- FLAG_SUMMARY takes an entry's flags, with the FZ event where that bit was clear (R41, R84). -/
def State.foldEntry (s : State) (i : Nat) : State :=
  let slot := s.plSlot i
  let a := Reg.PN_JOB_FLAGS slot
  let old := s.fld a 0 8
  let f := entryFlags (s.fld (Reg.PN_PLAIT_FLAGS i) 0 6)
  let s := s.setFld a 0 8 (old ||| f)
  if bitOf f 5 && !bitOf old 5 then
    s.raise .FZ .info (srcJob slot) [slot, s.step32 slot, (s.rd (Reg.PN_PLAIT_TID i)).toNat] else s

/-- PLAIT_ENTRY_DONE: every element is at DEST; the entry is DONE, its token is set and its taps are latched. -/
def State.plaitEntryDone (s : State) (i : Nat) : State :=
  if 256 ≤ i || s.entryState i ≠ 1 || !s.entryComplete i then s else
  let e := s.entry i
  let s := if s.taps i then
      let s := s.wr (Reg.PN_PLAIT_TAP_LOCAL i) (tapOf e.lanes)
      if s.plFabric i then s.wr (Reg.PN_PLAIT_TAP_REDUCED i) (tapOf (e.reduced.foldl tapLanes [])) else s
    else s
  let s := (s.foldEntry i).setEntryState i 2
  let s := if s.plFabric i then
      let h := s.fld (Reg.PN_PLAIT_COLL i) 0 16
      let s : State := { s with collRun := s.collRun.put {} h { parts := (s.collRun.get {} h).parts } }
      s.setColl h 0 (BitVec.ofNat 32 (setBits (s.coll h 0).toNat 10 2 2))
    else s
  let s := s.bumpToken (s.fld (Reg.PN_PLAIT_TOKEN i) 0 14 * 256 + s.fld (Reg.PN_PLAIT_TOKEN i) 14 8) 1 false
  if s.fld (Reg.UP_TAP_CTL i) 0 8 = 0xFF then s
  else ((s.setBit (Reg.UP_TAP_CTL i) 8 true).wr (Reg.UP_TAP_LOCAL i) (s.rd (Reg.PN_PLAIT_TAP_LOCAL i))).wr
    (Reg.UP_TAP_REDUCED i) (s.rd (Reg.PN_PLAIT_TAP_REDUCED i))

def execPlaitEntryDone (entry : Nat) (s : State) : Host.Outcome State Fault Refusal :=
  .next (s.plaitEntryDone entry)

end Sys2Proof.Machine
end

