-- ==== Sys2Proof/Machine/Coll.lean ====
section
/-! DEFINITION. Collectives (R334 to R339): the table, the tree of ranks, blocks sent and summed, and results placed at DEST. -/

namespace Sys2Proof.Machine

/-! ### The table (R334) -/

/-- A write of HF_COLL_SEL with LOAD. -/
def State.collLoad (s : State) (v : Word) : State :=
  let h := bitsOf v.toNat 0 10
  let s := s.setFld Reg.HF_COLL_SEL 0 10 h
  (List.range 8).foldl (fun t w => t.wr (Reg.HF_COLL_DATA w) (s.coll h w)) s

def execHfCollLoad (v : Word) (s : State) : Host.Outcome State Fault Refusal := .next (s.collLoad v)

/-- RANK of this module in a descriptor: its index among the members, or 0x1_FFFF. -/
def State.rankIn (s : State) (slot base stride count : Nat) : Nat :=
  let m := s.myModule slot
  if s.grouped slot && base ≤ m && (m - base) % stride = 0 && (m - base) / stride < count then (m - base) / stride else 0x1FFFF

/-- A write of HF_COLL_SEL with STORE, from firmware; a RUNNING descriptor refuses it. -/
def State.collStore (s : State) (by_ : Writer) (v : Word) : State :=
  let h := bitsOf v.toNat 0 10
  let s := s.setFld Reg.HF_COLL_SEL 0 10 h
  let d := fun (w : Nat) => (s.rd (Reg.HF_COLL_DATA w)).toNat
  let w0 := (s.coll h 0).toNat
  if by_ ≠ .firmware then s
  else if bitsOf w0 10 2 = 1 then s.setBit Reg.HF_COLL_SEL 12 true
  else
    let stride := max 1 (bitsOf (d 1) 16 16)
    let count := bitsOf (d 2) 0 17
    let words := [
      setBits (d 0 % 2 ^ 10) 10 2 (bitsOf w0 10 2), bitsOf (d 1) 0 16 + 2 ^ 16 * stride, count,
      s.rankIn (bitsOf (d 0) 4 6) (bitsOf (d 1) 0 16) stride count, d 4 % 2 ^ 24, d 5, d 6 % 2 ^ 24, (s.coll h 7).toNat]
    words.zipIdx.foldl (fun s e => s.setColl h e.2 (BitVec.ofNat 32 e.1)) (s.setBit Reg.HF_COLL_SEL 12 false)

def execHfCollStore (by_ : Writer) (v : Word) (s : State) : Host.Outcome State Fault Refusal := 
  .next (s.byWriter by_ Reg.HF_COLL_SEL v (fun w => s.collStore w v))

/-! ### Ranks, blocks and segments (R336 to R338) -/

def State.collSlot (s : State) (h : Nat) : Nat := bitsOf (s.coll h 0).toNat 4 6
def State.collEpoch (s : State) (h : Nat) : Nat := (s.coll h 7).toNat
/-- Module index of a rank. -/
def State.memberOf (s : State) (h r : Nat) : Nat := bitsOf (s.coll h 1).toNat 0 16 + r * max 1 (bitsOf (s.coll h 1).toNat 16 16)
/-- Rank of a member. -/
def State.rankOfMember (s : State) (h m : Nat) : Nat := (m - bitsOf (s.coll h 1).toNat 0 16) / max 1 (bitsOf (s.coll h 1).toNat 16 16)
/-- Levels of the tree. -/
def collDepth (n : Nat) : Nat := if n ≤ 1 then 0 else (n - 1).log2 + 1
/-- Blocks of the entry's input. -/
def State.collBlocks (s : State) (i : Nat) : Nat := (s.plElements i + 1023) / 1024
/-- Elements of block b of the entry's input. -/
def State.blockLen (s : State) (i b : Nat) : Nat := min 1024 (s.plElements i - 1024 * b)
/-- The segment rank of a block: by SEG_BLOCKS, or for an all-reduce its blocks divided among the ranks in order. -/
def State.segOf (s : State) (h i b : Nat) : Nat :=
  let n := max 1 (s.collMembers h)
  if s.collType h = 0 then b / max 1 ((s.collBlocks i + n - 1) / n) else b / max 1 (bitsOf (s.coll h 4).toNat 0 24)

/-- The rank that holds the sum of node `t` at a level for segment q (R338): the child on q's side if it has members. -/
def holder (n q : Nat) : Nat → Nat → Option Nat
  | 0, t => if t < n then some t else none
  | k + 1, t =>
    match holder n q k (2 * t + q / 2 ^ k % 2) with
    | some r => some r
    | none => holder n q k (2 * t + (1 - q / 2 ^ k % 2))

/-- Where a rank's part of a segment's block goes: the level at which it leaves, and the rank that takes it. -/
def handOff (n q r : Nat) : Nat → Nat → Option (Nat × Nat)
  | 0, _ => none
  | fuel + 1, k =>
    if n ≤ (r / 2 ^ k ^^^ 1) * 2 ^ k then (if collDepth n ≤ k + 1 then none else handOff n q r fuel (k + 1))
    else match holder n q (k + 1) (r / 2 ^ (k + 1)) with
      | some w => if w ≠ r then some (k, w) else if collDepth n ≤ k + 1 then none else handOff n q r fuel (k + 1)
      | none => none

/-- The same for a collective: on the mesh every rank's part goes to the segment's rank directly (R339). -/
def State.sendsTo (s : State) (h q r : Nat) : Option (Nat × Nat) :=
  let n := s.collMembers h
  if s.mesh then (if r = q then none else some (0, q)) else handOff n q r 18 0

/-- The rank from which a rank receives segment q of an all-gather (R338). -/
def gatherParent (n q : Nat) : Nat → Nat → Nat
  | 0, _ => q
  | fuel + 1, v => -- v: rank XOR q, its lowest set bit cleared
    let w := v &&& (v - 1)
    if w ^^^ q < n then w ^^^ q else gatherParent n q fuel w

/-- Ranks that a rank sends segment q of an all-gather to. -/
def State.gatherChildren (s : State) (h q r : Nat) : List Nat :=
  let n := s.collMembers h
  if s.mesh then (if r = q then (List.range n).filter (· ≠ q) else [])
  else (List.range n).filter (fun c => c ≠ q && gatherParent n q 18 (c ^^^ q) = r)

/-! ### Parts -/

def partKey (b level node : Nat) : Nat := 2 ^ 26 * b + 2 ^ 20 * level + node
def State.collSt (s : State) (h : Nat) : CollSt := s.collRun.get {} h
def State.setCollSt (s : State) (h : Nat) (c : CollSt) : State := { s with collRun := s.collRun.put {} h c }
def State.putPart (s : State) (h b level node : Nat) (vals : List Word) : State :=
  let c := s.collSt h
  s.setCollSt h { c with parts := c.parts.put [] (partKey b level node) vals }
/-- Every part of a block gone. -/
def State.dropParts (s : State) (h b : Nat) : State :=
  let c := s.collSt h
  s.setCollSt h { c with parts := c.parts.clear (partKey b 0 0) (partKey (b + 1) 0 0) }

/-- A node's sum (R336): `none` while a part is missing, and the empty list where no member lies under it. -/
def collSum (isInt : Bool) (parts : SMap (List Word)) (n b : Nat) : Nat → Nat → Option (List Word × Flags)
  | 0, t => if n ≤ t then some ([], 0#8) else match parts.get [] (partKey b 0 t) with | [] => none | l => some (l, 0#8)
  | k + 1, t =>
    if n ≤ t * 2 ^ (k + 1) then some ([], 0#8) else
    match parts.get [] (partKey b (k + 1) t) with
    | [] =>
      match collSum isInt parts n b k (2 * t) with
      | none => none
      | some x =>
        match collSum isInt parts n b k (2 * t + 1) with
        | none => none
        | some y => let r := joinVals isInt x.1 y.1; some (r.1, x.2 ||| y.2 ||| r.2)
    | l => some (l, 0#8)

/-- A block's number in the entry that contributes it: in an all-gather the blocks of each segment count from 0. -/
def State.ownBlock (s : State) (h b : Nat) : Nat :=
  if s.collType h = 2 then b % max 1 (bitsOf (s.coll h 4).toNat 0 24) else b

/-- A block sent to a rank; MSG names the block. It goes by the headframe of the panel whose bridges carry it (R94, R95, R337). -/
def State.sendBlock (s : State) (h block b rank : Nat) (vals : List Word) : State :=
  let slot := s.collSlot h
  let hf := s.sendPanel (s.collSt h).entry block / 2
  s.sendMessage hf slot (s.header slot (s.memberOf h rank) tData h b (s.collEpoch h)) (pad64 (bytesOfWords vals))

/-- Result elements returned to the entry, for DEST from element `base` on; the first has `index` in the reduction (R94, R97, R336). -/
def State.placeBlock (s : State) (h base index : Nat) (vals : List Word) (f : Flags) : State :=
  let i := (s.collSt h).entry
  let e := s.entry i
  ((s.setEntry i { e with back := e.back ++ [⟨base, index, vals⟩] }).flagEntry i f).placeReturned i

/-- A result of an all-gather's phase: placed here and passed on. -/
def State.gatherBlock (s : State) (h q b base : Nat) (vals : List Word) (f : Flags) : State :=
  let s := (s.gatherChildren h q (s.collRank h)).foldl (fun s c => s.sendBlock h (s.ownBlock h b) b c vals) (s.placeBlock h base base vals f)
  let c := s.collSt h
  s.setCollSt h { c with placed := c.placed ++ [b] }

/-- A reducing block moved on (R338): this rank's sum sent to the rank that takes it, or, at the segment's own rank, the result. -/
def State.reduceBlock (s : State) (h b : Nat) : State :=
  let i := (s.collSt h).entry
  let n := s.collMembers h
  let q := s.segOf h i b
  let r := s.collRank h
  match s.sendsTo h q r with
  | some (k, w) =>
    match collSum (s.plInt i) (s.collSt h).parts n b k (r / 2 ^ k) with
    | none => s
    | some x => ((s.dropParts h b).sendBlock h b b w x.1).flagEntry i x.2
  | none =>
    match collSum (s.plInt i) (s.collSt h).parts n b (collDepth n) 0 with
    | none => s
    | some x =>
      let s := s.dropParts h b
      if s.collType h = 0 then s.gatherBlock h q b (1024 * b) x.1 x.2
      else s.placeBlock h (1024 * (b - q * bitsOf (s.coll h 4).toNat 0 24)) (1024 * b) x.1 x.2

/-- A block of the local input that the plait has delivered whole enters its collective. -/
def State.enterBlock (s : State) (h b : Nat) (vals : List Word) : State :=
  let r := s.collRank h
  let seg := bitsOf (s.coll h 4).toNat 0 24
  match s.collType h with
  | 2 => s.gatherBlock h r (r * seg + b) (1024 * (r * seg + b)) vals 0#8
  | 3 =>
    let q := b / max 1 seg
    if q = r then s.placeBlock h (1024 * b) (1024 * b) vals 0#8 else s.sendBlock h b (r * seg + b % max 1 seg) q vals
  | _ => (s.putPart h b 0 r vals).reduceBlock h b

/-- The blocks of an entry's local input that are complete and have not yet entered. -/
def State.collProgress (s : State) (i : Nat) : State :=
  let h := s.fld (Reg.PN_PLAIT_COLL i) 0 16
  if 256 ≤ i || s.entryState i ≠ 1 || !s.plFabric i then s else
  (List.range (s.collBlocks i)).foldl (fun s b =>
    let c := s.collSt h
    if c.entered.contains b || (s.entry i).gone.get 0 b < s.blockLen i b then s
    else
      let vals := (List.range (s.blockLen i b)).map (fun j => (s.entry i).sent.get 0#32 (1024 * b + j))
      (s.setCollSt h { c with entered := c.entered ++ [b] }).enterBlock h b vals) s

/-- PLAIT_OUTPUT: the output stage, and the blocks it completes for the entry's collective. -/
def execPlaitOutput (entry : Nat) (parityError : Bool) (s : State) : Host.Outcome State Fault Refusal :=
  .next ((s.plaitOutput entry parityError).collProgress entry)

/-- A block placed in the collective's staging area (R325, R334): reducing parts from its start, gathered results after them. -/
def State.stageBlock (s : State) (h off : Nat) (bs : List Byte) : State :=
  s.writeDev .outside ((s.coll h 5).toNat + 2 ^ 32 * bitsOf (s.coll h 6).toNat 0 24 + off) bs

/-- A complete DATA message: the block of a collective from another rank (R336, R338). -/
def State.dataBlock (s : State) (h b src : Nat) (l : List Byte) : State :=
  let i := (s.collSt h).entry
  let seg := bitsOf (s.coll h 4).toNat 0 24
  let me := s.collRank h
  let from_ := s.rankOfMember h src
  let words := fun (len : Nat) => wordsOfBytes len l
  let ty := s.collType h
  if ty = 2 then
    let q := b / max 1 seg
    (s.stageBlock h (4096 * b) l).gatherBlock h q b (1024 * b) (words 1024) 0#8
  else if ty = 3 then
    (s.stageBlock h (4096 * b) l).placeBlock h (1024 * b) (1024 * b) (words 1024) 0#8
  else
    let q := s.segOf h i b
    let c := s.collSt h
    -- a rank's part leaves it before the block's sum can come back
    let sent := c.entered.contains b && !c.parts.any (fun e => e.1 / 2 ^ 26 = b)
    match s.sendsTo h q from_ with
    | some (k, w) =>
      if w = me && (me = q || !sent) then
        let s := (s.stageBlock h (4096 * b) l).putPart h b k (from_ / 2 ^ k) (words (s.blockLen i b))
        if c.entered.contains b then s.reduceBlock h b else s
      else (s.stageBlock h (4 * s.plElements i + 4096 * b) l).gatherBlock h q b (1024 * b) (words (s.blockLen i b)) 0#8
    | none => (s.stageBlock h (4 * s.plElements i + 4096 * b) l).gatherBlock h q b (1024 * b) (words (s.blockLen i b)) 0#8

end Sys2Proof.Machine
end

