-- ==== Sys2Proof/Machine/Tables.lean ====
section
/-! DEFINITION. Embedding tables (R250 to R259): descriptors, shards, keys, the tally, and the row slots of the four classes. -/

namespace Sys2Proof.Machine

/-! ### Descriptors (R250 to R252) -/

/-- Reset of a descriptor word: classes 2; T32, T16, T8, FACE_POP; LEVEL_POP. -/
def tblReset (w : Nat) : Word :=
  match w with
  | 0 => 0x5400#32
  | 10 => 0x40042080#32
  | 11 => 8#32
  | _ => 0#32
def State.tbl (s : State) (n w : Nat) : Nat := (s.tables.get (tblReset w) (n * 32 + w)).toNat
def State.setTbl (s : State) (n w v : Nat) : State := { s with tables := s.tables.put (tblReset w) (n * 32 + w) (BitVec.ofNat 32 v) }
def State.tblValid (s : State) (n : Nat) : Bool := n < 4096 && bitOf (s.tbl n 0) 0
def State.curVsn (s : State) (n : Nat) : Nat := bitsOf (s.tbl n 0) 1 1
/-- The job slot that may scatter to a table; none when it is frozen (R251). -/
def State.writerOf (s : State) (n : Nat) : Option Nat := if bitOf (s.tbl n 0) 8 then some (bitsOf (s.tbl n 0) 2 6) else none
def State.baseClass (s : State) (n : Nat) : Nat := bitsOf (s.tbl n 0) 9 2
def State.wideClass (s : State) (n : Nat) : Nat := bitsOf (s.tbl n 0) 11 2
def State.narrowClass (s : State) (n : Nat) : Nat := bitsOf (s.tbl n 0) 13 2
def State.stateKind (s : State) (n : Nat) : Nat := bitsOf (s.tbl n 0) 15 2
def State.dimOf (s : State) (n : Nat) : Nat := bitsOf (s.tbl n 1) 0 11
def State.rowsOf (s : State) (n : Nat) : Nat := s.tbl n 2 + 2 ^ 32 * bitsOf (s.tbl n 3) 0 9
def State.mayGather (s : State) (n slot : Nat) : Bool := bitOf (s.tbl n 4 + 2 ^ 32 * s.tbl n 5) slot
/-- SHARD_ROWS. -/
def State.shardRows (s : State) (n : Nat) : Nat := let k := 2 ^ bitsOf (s.tbl n 0) 17 5; (s.rowsOf n + k - 1) / k
def State.shardOf (s : State) (n r : Nat) : Nat := if s.shardRows n = 0 then 0 else r / s.shardRows n
def State.shardAddr (s : State) (n shard : Nat) : Nat := s.tbl n 8 + 2 ^ 32 * bitsOf (s.tbl n 9) 0 24 + 4 * shard
/-- A shard map entry. -/
def State.shardEntry (s : State) (n shard : Nat) : Nat := ofBytes (s.bytes (s.shardAddr n shard) 4)
/-- The owner of a row as a module index of the job group. -/
def State.ownerIndex (s : State) (n r : Nat) : Nat := s.shardEntry n (s.shardOf n r) % 2 ^ 16
/-- Word i of version slot v. -/
def State.vword (s : State) (n v i : Nat) : Nat := s.tbl n (12 + 10 * v + i)
def State.liveSlot (s : State) (n v : Nat) : Bool := bitOf (s.vword n v 1) 24
def State.baseDeep (s : State) (n v : Nat) : Bool := bitOf (s.vword n v 1) 25
def State.strideOf (s : State) (n v : Nat) : Nat := bitsOf (s.vword n v 2) 0 20
/-- The base slot of a row (R252). -/
def State.baseSlot (s : State) (n v r : Nat) : Nat :=
  let sl := s.shardEntry n (s.shardOf n r) / 2 ^ 16
  s.vword n v 0 + 2 ^ 32 * bitsOf (s.vword n v 1) 0 24 + (sl * s.shardRows n + (if s.shardRows n = 0 then 0 else r % s.shardRows n)) * s.strideOf n v
/-- A relocation slot's address (R255). -/
def State.relocSlot (s : State) (n v i : Nat) : Nat :=
  s.vword n v 3 + 2 ^ 32 * bitsOf (s.vword n v 4) 0 24 + i * bitsOf (s.vword n v 7) 0 20
def State.relocSlots (s : State) (n v : Nat) : Nat := s.vword n v 5
/-- The load counter of a row's shard counts `k` (R275). -/
def State.countShard (s : State) (n r k : Nat) : State :=
  let c := bitsOf (s.tbl n 7) 0 18 + s.shardOf n r
  if 262144 ≤ c then s else { s with shardLoads := s.shardLoads.put 0 c (satTo (2 ^ 32 - 1) (s.shardLoads.get 0 c + k)) }

/-! ### Keys and the tally (R253, R257 to R259) -/

def rowKey (n r : Nat) : Nat := 2 ^ 40 * n + r
def tallyKey (n v r : Nat) : Nat := 2 ^ 41 * n + 2 ^ 40 * v + r
def keyTable (k : Nat) : Nat := k / 2 ^ 41
def keyVsn (k : Nat) : Nat := k / 2 ^ 40 % 2
def keyRow (k : Nat) : Nat := k % 2 ^ 40
/-- The home hoist of a row. -/
def homeHoist (n r : Nat) : Nat := weaveMix (rowKey n r) % 64
/-- The hoist that has a hoist's duties as home hoist: while panel p is parked they pass to the same hoist of panel p XOR 1 (R422). -/
def State.dutyOf (s : State) (h : Nat) : Nat := if s.bit Reg.PW_STATE (11 + h / 16) then (h / 16 ^^^ 1) * 16 + h % 16 else h
/-- The home hoist in force of a row, and of a tally key. -/
def State.homeOf (s : State) (n r : Nat) : Nat := s.dutyOf (homeHoist n r)
def State.homeOfKey (s : State) (k : Nat) : Nat := s.homeOf (keyTable k) (keyRow k)
def tallySet (k : Nat) : Nat := weaveMix k % 2 ^ 18
/-- The hoist of a motif (R261). -/
def hoistOf (m : Nat) : Nat := m / 2560 * 16 + 2 * (m % 2560 / 64) / 5

def State.way (s : State) (i : Nat) : Option TallyE := s.tally.get none i
def State.setWay (s : State) (i : Nat) (e : Option TallyE) : State := { s with tally := s.tally.put none i e }
/-- A probe of the tally (R258): the way that holds a key. -/
def State.probe (s : State) (k : Nat) : Option (Nat × TallyE) :=
  (List.range 8).findSome? (fun w =>
    match s.way (tallySet k * 8 + w) with
    | some e => if e.key = k then some (tallySet k * 8 + w, e) else none
    | none => none)

/-- The way an insertion takes (R259): a free one, else the candidate with the lowest POP, lowest way first. -/
def State.insertWay (s : State) (k : Nat) : Option Nat :=
  match s.probe k with
  | some p => some p.1
  | none =>
    match (List.range 8).find? (fun w => (s.way (tallySet k * 8 + w)).isNone) with
    | some w => some (tallySet k * 8 + w)
    | none =>
      ((List.range 8).foldl (fun (b : Option (Nat × Nat)) w =>
        match s.way (tallySet k * 8 + w) with
        | some e => if e.cand && (match b with | some x => decide (e.pop < x.2) | none => true) then some (w, e.pop) else b
        | none => b) none).map (fun p => tallySet k * 8 + p.1)

/-- An entry inserted; a refusal is counted in SET_FULL. -/
def State.insertTally (s : State) (e : TallyE) : State × Bool :=
  match s.insertWay e.key with
  | some i => (s.setWay i (some e), true)
  | none => (s.count Reg.EM_HAUL_FULL 0 16 1, false)

/-- Base of a tier's region: 0 face, 1 level, 2 deep. -/
def tierBase : Nat → Nat
  | 0 => 0 | 1 => extBase | _ => hostBase
/-- Device address of an entry's copy. -/
def TallyE.addr (e : TallyE) : Nat := tierBase e.tier + 64 * e.loc
/-- Tier of a device address. -/
def tierOf (a : Nat) : Nat := if a < bankEnd then 0 else if a < hostBase then 1 else 2
/-- LOC of a device address within its tier's region. -/
def locOf (a : Nat) : Nat := (a - tierBase (tierOf a)) / 64

/-- Where a row's authoritative copy lies and its class (R255, R258): the tally entry's place unless it is a candidate. -/
def State.locate (s : State) (n v r : Nat) : Nat × Nat :=
  match s.probe (tallyKey n v r) with
  | some (_, e) => if e.cand then (s.baseSlot n v r, s.baseClass n) else (e.addr, e.width)
  | none => (s.baseSlot n v r, s.baseClass n)

/-- Entries of the tally that meet a test, with their index. -/
def State.tallyWhere (s : State) (f : TallyE → Bool) : List (Nat × TallyE) :=
  s.tally.filterMap (fun e => match e.2 with
    | some t => if f t then some (e.1, t) else none
    | none => none)

/-- RELOC_USED shows the relocation slots held. -/
def State.showReloc (s : State) (n v : Nat) : State :=
  s.setTbl n (18 + 10 * v) (s.tallyWhere (fun e => keyTable e.key = n && keyVsn e.key = v && e.reloc.isSome)).length
/-- The lowest free relocation slot of a version. -/
def State.freeReloc (s : State) (n v : Nat) : Option Nat :=
  let used := (s.tallyWhere (fun e => keyTable e.key = n && keyVsn e.key = v && e.reloc.isSome)).filterMap (fun e => e.2.reloc)
  (List.range (min (s.relocSlots n v) (used.length + 1))).find? (fun i => !used.contains i)

/-! ### Row slots (R254, R263) -/

/-- Bytes of a row's data in a class. -/
def dataBytes (w dim : Nat) : Nat := match w with | 0 => 4 * dim | 1 => 2 * dim | 2 => dim | _ => dim / 2
/-- Bytes a gather reads. -/
def gatherBytes (w dim : Nat) : Nat := match w with | 0 => 2 * dim | 1 => 2 * dim | 2 => dim + 16 | _ => dim / 2 + 32
/-- State vectors of a STATE_KIND. -/
def stateVecs : Nat → Nat
  | 1 => 1 | 2 => 2 | _ => 0
/-- Bytes before a slot's state. -/
def headEnd (w dim : Nat) : Nat := dataBytes w dim + 16 + (if w = 3 then 16 else 0)
/-- Bytes of a slot rounded to lines. -/
def slotBytes (w dim kind : Nat) : Nat := roundUp (headEnd w dim + stateVecs kind * dim) 64

/-- Sixteen-bit codes of a span of bytes. -/
def halves (l : List Byte) (n : Nat) : List Nat := (List.range n).map (fun i => ofBytes ((l.drop (2 * i)).take 2))

/-- A G8a code against a row scale (R109): rows of W8 have no side list. -/
def rowCode8 (scale : Word) (c : Nat) : Nat × Flags := if isEsc .g8a c then (Fmt.nanCode .b32, flagNV) else dequant .g8a scale c

/-- A row's values in binary32 from the bytes a gather reads, with the flags of their widening (R263). -/
def gatherRow (w dim : Nat) (l : List Byte) : List Word × Flags :=
  let ws : List (Nat × Flags) := match w with
    | 0 => (halves l dim).map (convert .g16 .b32 .rne false)
    | 1 => (halves l dim).map (convert .g16 .b32 .rne false)
    | 2 =>
      let scale := BitVec.ofNat 32 (ofBytes ((l.drop dim).take 4))
      (l.take dim).map (fun (b : Byte) => rowCode8 scale b.toNat)
    | _ =>
      let h := l.drop (dim / 2)
      let scale := BitVec.ofNat 32 (ofBytes (h.take 4))
      let esc := bitsOf (ofBytes ((h.drop 12).take 4)) 0 3
      let codes := ofBytes (l.take (dim / 2))
      (List.range dim).map (fun i =>
        let c := bitsOf codes (4 * i) 4
        if isEsc .g4 c then
          match (List.range (min esc 4)).find? (fun j => bitsOf (ofBytes ((h.drop (16 + 4 * j)).take 4)) 16 10 = i) with
          | some j => convert .g16 .b32 .rne false (bitsOf (ofBytes ((h.drop (16 + 4 * j)).take 4)) 0 16)
          | none => (Fmt.nanCode .b32, flagNV)
        else dequant .g4 scale c)
  (ws.map (fun x => BitVec.ofNat 32 x.1), ws.foldl (fun a x => a ||| x.2) 0#8)

/-- A row as haulage and the sweep hold it: its values and its state vectors in binary32, the single state of STATE_KIND 3, and the
flags of the widening. -/
structure RowVal where
  vals : List Word
  states : List (List Word)
  single : Word
  flags : Flags := 0#8
deriving DecidableEq, Repr

/-- A whole slot decoded: W32 joins its halves (R300). -/
def decodeRow (w dim kind : Nat) (l : List Byte) : RowVal :=
  let g : List Word × Flags := if w = 0 then
      (((halves l dim).zip (halves (l.drop (2 * dim)) dim)).map (fun p => BitVec.ofNat 32 (2 ^ 16 * p.1 + p.2)), 0#8)
    else gatherRow w dim l
  let h := l.drop (dataBytes w dim)
  let word := fun i => BitVec.ofNat 32 (ofBytes ((h.drop (4 * i)).take 4))
  let st := (List.range (stateVecs kind)).map (fun v =>
    ((l.drop (headEnd w dim + v * dim)).take dim).map (fun (b : Byte) => rowCode8 (word (v + 1)) b.toNat))
  { vals := g.1
    states := st.map (fun v => v.map (fun x => BitVec.ofNat 32 x.1))
    single := word 1
    flags := st.foldl (fun a v => v.foldl (fun a x => a ||| x.2) a) g.2 }

/-- A binary32 code's finite magnitude as a code without its sign; none where it is not finite. -/
def finiteMag (x : Word) : Option Nat := if notFinite .b32 x.toNat then none else some (x.toNat % 2 ^ 31)

/-- The scale word of a row from its largest finite magnitude (case 3 of R106, margin 0); a magnitude of zero is constant zero. -/
def rowScale (f : Fmt) (margin mag : Nat) : Word :=
  if mag = 0 then 0x1000000#32
  else match valOf .b32 mag with
    | .fin _ m e => BitVec.ofNat 32 (ruG16 m (e + margin) (maxQ f))
    | _ => 0x3F80#32

/-- Largest of a list. -/
def largest (l : List Nat) : Nat := l.foldl max 0

/-- A vector quantised as W8: its scale word, its codes and its flags (R256). -/
def encode8 (vals : List Word) : Word × List Nat × Flags :=
  let sc := rowScale .g8a 0 (largest (vals.filterMap finiteMag))
  let q := vals.map (fun x => quantCode .g8a .rne false false sc (valOf .b32 x.toNat))
  (sc, q.map (·.code), q.foldl (fun a c => a ||| c.flags) 0#8)

/-- A vector quantised as W4 (R256): its scale word, with ESC set when an element escapes (R101), its codes, its side entries and its
flags. -/
def encode4 (vals : List Word) : Word × List Nat × List (Nat × Nat) × Flags :=
  let mags := (vals.filterMap finiteMag).mergeSort (fun a b => b ≤ a)
  let bad := vals.length - mags.length
  let sc := rowScale .g4 0 ((mags.drop (4 - bad)).headD 0)
  let q := vals.map (fun x => quantCode .g4 .rne false true sc (valOf .b32 x.toNat))
  let el := (vals.zip q).zipIdx
  let nonFin := ((el.filter (fun e => e.1.2.esc && (finiteMag e.1.1).isNone)).map (fun e => (e.2, e.1.1))).take 4
  let fin := (el.filter (fun e => e.1.2.esc && (finiteMag e.1.1).isSome)).map (fun e => (e.2, e.1.1))
  let side := ((nonFin ++ fin).mergeSort (fun a b => a.1 ≤ b.1)).take 4
  let vs := side.map (fun e => (e.1, convert .b32 .g16 .rne false e.2.toNat))
  (if q.any (·.esc) then sc ||| 0x2000000#32 else sc, q.map (fun c => if c.esc then escCode .g4 else c.code), vs.map (fun e => (e.1, e.2.1)),
    (q.foldl (fun a c => a ||| c.flags) 0#8) ||| (vs.foldl (fun a e => a ||| e.2.2) 0#8))

/-- How a row narrower than W32 is rounded to W16: stochastically with the bits of R48, or by RNE where it widens. -/
structure RowRound where
  seed : Nat
  tid : Nat
  index : Nat
  step : Nat
  widens : Bool
deriving DecidableEq, Repr

/-- A row written in a class (R254, R256): the bytes of its slot and its flags. -/
def encodeRow (w dim kind : Nat) (rr : RowRound) (v : RowVal) : List Byte × Flags :=
  let st := v.states.map encode8
  let w1 := if kind = 3 then v.single else (st.head?.map (·.1)).getD 0#32
  let w2 := ((st.drop 1).head?.map (·.1)).getD 0#32
  let stBytes := st.flatMap (fun e => e.2.1.map (BitVec.ofNat 8))
  let fl := st.foldl (fun a e => a ||| e.2.2) 0#8
  let header := fun (w0 : Word) (esc : Nat) => bytesOfWords [w0, w1, w2, BitVec.ofNat 32 (esc + w * 8)]
  let body : List Byte × Flags := match w with
    | 0 =>
      let fixed := v.vals.map (fun x => if isNan .b32 x.toNat then 0x7FC00000 else x.toNat)
      (fixed.flatMap (fun x => toBytes 2 (x / 2 ^ 16)) ++ fixed.flatMap (fun x => toBytes 2 x) ++ header 0#32 0, 0#8)
    | 1 =>
      let l := v.vals.zipIdx.map (fun e =>
        convert .b32 .g16 (if rr.widens then .rne else .sr (srBits rr.seed rr.tid (rr.index + e.2) rr.step)) false e.1.toNat)
      (l.flatMap (fun c => toBytes 2 c.1) ++ header 0#32 0, l.foldl (fun a c => a ||| c.2) 0#8)
    | 2 => let e := encode8 v.vals; (e.2.1.map (BitVec.ofNat 8) ++ header e.1 0, e.2.2)
    | _ =>
      let e := encode4 v.vals
      let side := (List.range 4).flatMap (fun i => match e.2.2.1[i]? with
        | some p => toBytes 4 (p.2 + 2 ^ 16 * p.1)
        | none => toBytes 4 0)
      (toBytes (dim / 2) (packAll .g4 e.2.1) ++ header e.1 e.2.2.1.length ++ side, e.2.2.2)
  (body.1 ++ stBytes, fl ||| body.2)

/-- The agent that reads and writes a row: its home hoist in face (R253), none elsewhere. -/
def State.rowAgent (s : State) (k a : Nat) : Agent := if a < bankEnd then .owner 2 (s.homeOfKey k) else .outside

/-- Flags of a slot's own units joined to its FLAG_SUMMARY, with the events of R41; `tid` names the tensor. -/
def State.flagSlot (s : State) (slot : Nat) (f : Flags) (tid : Nat) : State := s.sumFlags slot f.toNat tid tid

/-- A row's slot read whole. The flag says that data were uncorrectable. -/
def State.readRow (s : State) (k a w : Nat) (host : List Host.Cell) : State × RowVal × Bool :=
  let n := keyTable k
  let r := s.readDev (s.rowAgent k a) a (headEnd w (s.dimOf n) + stateVecs (s.stateKind n) * s.dimOf n) host
  (r.1, decodeRow w (s.dimOf n) (s.stateKind n) r.2.1, r.2.2)

/-- The rounding of a row's write (R256): a frozen table uses step zero, and no seed. -/
def State.rowRound (s : State) (k : Nat) (widens : Bool) : RowRound :=
  let n := keyTable k
  let base : RowRound := { seed := 0, tid := s.tbl n 6, index := keyRow k * s.dimOf n, step := 0, widens := widens }
  match s.writerOf n with
  | some j => { base with seed := s.seed j, step := s.step32 j }
  | none => base

/-- A row written in a class at an address (R256); its flags, and those of the widening that gave its values, go to the WRITER's
FLAG_SUMMARY. -/
def State.writeRowAt (s : State) (k a w : Nat) (widens : Bool) (v : RowVal) : State :=
  let n := keyTable k
  let e := encodeRow w (s.dimOf n) (s.stateKind n) (s.rowRound k widens) v
  let s := s.writeDev (s.rowAgent k a) a e.1
  match s.writerOf n with
  | some j => s.flagSlot j (e.2 ||| v.flags) (s.tbl n 6)
  | none => s

/-! ### Face lines -/

/-- The banks an agent owns, in ascending order. A bank whose owner was never written is firmware's. -/
def State.banksOf (s : State) (kind ident : Nat) : List Nat :=
  (s.regs.filter (fun e => Reg.BK_OWNER 0 ≤ e.1 && e.1 < Reg.BK_OWNER 40960 && e.1 % 64 = 0 &&
    bitsOf e.2.toNat 0 3 = kind && bitsOf e.2.toNat 3 6 = ident)).map (fun e => (e.1 - Reg.BK_OWNER 0) / 64)

/-- The face spans in use of a home hoist: rows of the tally, and rows that a look-up in flight still reads (R278). -/
def State.faceSpans (s : State) (h : Nat) : List (Nat × Nat) :=
  ((s.tallyWhere (fun e => e.tier = 0 && !e.cand && s.homeOfKey e.key = h)).map (fun e =>
    (e.2.addr, slotBytes e.2.width (s.dimOf (keyTable e.2.key)) (s.stateKind (keyTable e.2.key))))) ++
  (s.hoists.flatMap (fun q => q.2.flatMap (fun c => (c.rows.filter (fun r => r.tier = 0 && !r.ready && s.homeOfKey r.key = h)).map (fun r =>
    (r.addr, slotBytes r.width (s.dimOf (keyTable r.key)) (s.stateKind (keyTable r.key)))))))

/-- The hoist banks with no allocated line return to the scheduler's pool (R284). -/
def State.poolBanks (s : State) : State :=
  (List.range 64).foldl (fun s h =>
    let used := s.faceSpans h
    ((s.banksOf 2 h).filter (fun b => !used.any (fun u => bankOf u.1 = b))).foldl (fun s b => s.handOwner .firmware b 0#32) s) s

/-- The lowest free span of `n` bytes in a hoist's face banks. -/
def State.freeFace (s : State) (h n : Nat) : Option Nat :=
  let used := s.faceSpans h
  (s.banksOf 2 h).findSome? (fun b =>
    ((List.range 1536).find? (fun l =>
      let a := 0x18000 * b + 64 * l
      decide (64 * l + n ≤ 0x18000) && used.all (fun u => u.1 + u.2 ≤ a || a + n ≤ u.1))).map (fun l => 0x18000 * b + 64 * l))

end Sys2Proof.Machine
end

