-- ==== Sys2Proof/Machine/Hoist.lean ====
section
/-! DEFINITION. The hoists (R167 to R169, R261 to R270): gathers with their look-ups and pooling, scatters, and the coalescing of
gradients. -/

namespace Sys2Proof.Machine

/-! ### Views of a hoist command -/

/-- A view with the extents it does not use made 1: `dims` of them count. -/
def Desc.firstDims (d : Desc) (dims : Nat) : Desc :=
  let r := setBits d.raw 96 16 1
  ⟨if dims = 1 then setBits r 80 16 1 else r⟩

/-- The index list, the output of a gather and the gradients of a scatter, from a command's two descriptors. -/
def HCmd.list (c : HCmd) : Desc := Desc.firstDims ⟨if c.gather then c.a else c.d⟩ 1
def HCmd.rowsView (c : HCmd) : Desc := Desc.firstDims ⟨if c.gather then c.d else c.a⟩ 2
def HCmd.table (c : HCmd) : Nat := bitsOf c.word 12 12
/-- POOL or MODE: 0 COPY or ENTRY, 1 SUM, 2 MEAN, 3 MAX. -/
def HCmd.mode (c : HCmd) : Nat := bitsOf c.word 9 2
/-- Whether the command uses the list of winners. -/
def HCmd.winners (c : HCmd) : Bool := c.mode = 3 && (!c.gather || bitOf c.word 11)
def HCmd.slot (c : HCmd) : Nat := slotOf c.info.key
/-- Bytes of the list of winners. -/
def HCmd.winBytes (c : HCmd) : Nat := 4 * c.rowsView.ext0 * c.rowsView.ext1

/-! ### Issue (R474) -/

/-- The issue checks of HGATH and HSCAT: `out` is the gather's output or the scatter's gradients. -/
def State.hoistFault (s : State) (m slot : Nat) (c : HCmd) : Option (Code × Nat) :=
  let list := c.list
  let v := c.rowsView
  let listBad := list.invalid 1 || list.kind ≠ 0 || list.qnt || list.fmt ≠ .i32 || list.ext0 % 2 = 1
  let viewBad := v.invalid 2 || v.kind ≠ 0 || (!c.gather && (v.qnt || v.fmt ≠ .b32))
  let listAt := s.protectSpans slot false list.spans
  let viewAt := s.protectSpans slot c.gather v.spans
  let aux := if c.winners then s.protectSpans slot c.gather [(v.aux, c.winBytes)] else none
  firstFailing ([checkIf (c.word >>> 24 ≠ 0) .ILLEGAL] ++
    (if c.gather then [checkIf viewBad .DESC_INVALID, checkIf listBad .DESC_INVALID, viewAt, listAt]
     else [checkIf listBad .DESC_INVALID, checkIf viewBad .DESC_INVALID, listAt, viewAt]) ++
    [aux, checkIf (!s.tokenOk m slot c.word) .TOK_RANGE])

def State.hoist (s : State) (h : Nat) : List HCmd := s.hoists.get [] h

/-- Entries that a hoist holds in flight (R261). -/
def flightLimit : Nat := 1024

/-- Whether entry row's copy has come back. -/
def HCmd.rowReady (c : HCmd) (row : Nat) : Bool := c.rows.any (fun r => r.row = row && r.ready)

/-- Entries of a gather in flight: started, and not yet pooled. An entry is pooled once it and those before it in its bag are back (R265);
COPY pools each by itself. -/
def HCmd.flight (c : HCmd) : Nat :=
  ((c.entries.take c.started).foldl (fun (acc : Nat × Option Nat) e =>
    if (c.mode ≠ 0 && acc.2 = some e.2) || !c.rowReady e.1 then (acc.1 + 1, some e.2) else acc) (0, none)).1

/-- A hoist's commands replaced; QUEUE and IN_FLIGHT show them. -/
def State.setHoist (s : State) (h : Nat) (q : List HCmd) : State :=
  let s : State := { s with hoists := s.hoists.put [] h q }
  let s := s.setFld (Reg.HS_QUEUE h) 0 6 q.length
  s.setFld (Reg.HS_QUEUE h) 6 11 ((q.map HCmd.flight).sum)
/-- One command of a hoist replaced. -/
def State.setHCmd (s : State) (h : Nat) (c : HCmd) : State :=
  s.setHoist h ((s.hoist h).map (fun d => if d.id = c.id then c else d))
/-- A command gone from its hoist. -/
def State.dropHCmd (s : State) (h : Nat) (c : HCmd) : State := s.setHoist h ((s.hoist h).filter (fun d => d.id ≠ c.id))

/-! ### Looking up (R262 to R264, R272) -/

/-- The version slot of a table in a generation. -/
def State.vsnIn (s : State) (g n : Nat) : Nat :=
  match s.gens.get none g with
  | some l => b2n (l.contains n)
  | none => s.curVsn n

/-- The generation that pins a command's look-ups (R272). -/
def State.genFor (s : State) (slot : Nat) (request : Option Nat) : Nat :=
  match request with
  | some e => (s.ledger.get {} e).gen
  | none => if s.bit (Reg.EM_JOB_PIN slot) 16 then s.fld (Reg.EM_JOB_PIN slot) 0 16 else s.fld Reg.EM_GEN 0 16

/-- The module index of this module in a slot's group; zero without one. -/
def State.ownIndex (s : State) (slot : Nat) : Nat := if s.grouped slot then s.myModule slot else 0
/-- Whether a row of a table is owned here, for a job slot (R252). -/
def State.ownsRow (s : State) (slot n r : Nat) : Bool := !s.grouped slot || s.ownerIndex n r = s.myModule slot

/-- The headframe whose edge a hoist sits on. -/
def hoistHf (h : Nat) : Nat := h / 32
/-- The headframe that holds a key's set (R257): even sets north. -/
def keyHf (k : Nat) : Nat := tallySet k % 2

/-- Whether gathers of a table by a slot are held: its WRITER is another slot in SWEEP, or between orders 2 and 9 (R266, R341). -/
def State.sweptBy (s : State) (n : Nat) (slot : Option Nat) : Bool :=
  match s.writerOf n with
  | none => false
  | some w => slot ≠ some w && (s.slotIs w .sweep || (2 ≤ (s.job w).drainOrder && (s.job w).drainOrder ≤ 9))

/-- A miss sampled for the CAND insertions of the step's boundary (R260). -/
def State.sample (s : State) (slot k count : Nat) : State :=
  if weaveMix (k ^^^ (2 ^ 32 * s.step32 slot)) / 2 ^ 48 < 2 ^ (16 - s.fld Reg.EM_HAUL 8 4) then
    let hf := keyHf k
    let cur := s.samples.get [] (slot * 2 + hf)
    let used := ((s.samples.filter (fun e => e.1 % 2 = hf)).map (fun e => e.2.length)).sum
    if cur.any (fun e => e.1 = k) || used < 65536 then
      { s with samples := s.samples.put [] (slot * 2 + hf) (cur.put 0 k (cur.get 0 k + count)) }
    else { s with sampleLost := s.sampleLost.put false (slot * 2 + hf) true }
  else s

/-- A gather's probe of a key shared by `count` entries (R258): POP counts on a hit, a miss may be sampled. -/
def State.gatherProbe (s : State) (slot k count : Nat) : State :=
  match s.probe k with
  | some (i, e) => s.setWay i (some { e with pop := satTo 255 (e.pop + count) })
  | none => s.sample slot k count

/-- One distinct row of a gather looked up by its owner: the probe, the shard's load, and where its copy lies. -/
def State.lookUp (s : State) (slot n v r count : Nat) : State × HRow :=
  let k := tallyKey n v r
  let s := (s.gatherProbe slot k count).countShard n r count
  let at_ := s.locate n v r
  (s, { key := k, row := r, tier := tierOf at_.1, addr := at_.1, width := at_.2 })

/-- The distinct rows of a list of entries, in order of first use, with how many entries share each. -/
def distinctRows (l : List (Nat × Nat)) : List (Nat × Nat) :=
  (l.map (·.1)).eraseDups.map (fun r => (r, (l.filter (fun e => e.1 = r)).length))

/-- The index list of a command: row and bag of each entry (R167). The flag says that a line was uncorrectable. -/
def State.readEntries (s : State) (c : HCmd) (host : List Host.Cell) : State × List (Nat × Nat) × Bool :=
  let r := s.readPlain (jobAgent c.slot) c.list host
  (r.1, (List.range (c.list.ext0 / 2)).map (fun k =>
    let lo := r.2.1.getD (2 * k) 0
    let hi := r.2.1.getD (2 * k + 1) 0
    (lo + 2 ^ 32 * (hi % 256), hi / 256)), r.2.2)

/-- Whether bags never descend. -/
def ascending : List (Nat × Nat) → Bool
  | a :: b :: r => decide (a.2 ≤ b.2) && ascending (b :: r)
  | _ => true

/-- The errors of R169 that a list or its table has. -/
def State.listFault (s : State) (c : HCmd) (l : List (Nat × Nat)) : Option Code :=
  let n := c.table
  let mine := if c.gather then s.mayGather n c.slot else decide (s.writerOf n = some c.slot)
  if !s.tblValid n || !mine then some .HOIST_TABLE
  else if c.rowsView.ext0 ≠ s.dimOf n || l.any (fun e => s.rowsOf n ≤ e.1) || !ascending l ||
    (if c.mode = 0 then decide (c.rowsView.ext1 < l.length) else l.any (fun e => c.rowsView.ext1 ≤ e.2)) then some .HOIST_LIST
  else none

/-- Row requests for the remote rows of a command, at most 64 rows each (R340). -/
def State.requestRows (s : State) (slot peer hf h cmd n v : Nat) : Nat → List Nat → State
  | 0, _ => s
  | _, [] => s
  | fuel + 1, l =>
    let r : RowReq := { id := s.tick, slot := slot, peer := peer, hf := hf, hoist := h, cmd := cmd, rows := (l.take 64).map (fun r => (n, v, r)) }
    let s : State := { s.numbered with rowReqs := s.rowReqs ++ [r] }
    ((s.startRowReq r).count (Reg.HS_REMOTE h) 0 32 (l.take 64).length).requestRows slot peer hf h cmd n v fuel (l.drop 64)

/-- The sweep count and generation that a step or request expects of remote rows, noted when it first sees one (R264). -/
def State.expectTag (s : State) (slot : Nat) (request : Option Nat) (n count : Nat) : State × Bool :=
  let q := match request with
    | some e => e + 1
    | none => 0
  match s.sweepTags.find? (fun t => t.1 = slot && t.2.1 = q && t.2.2.1 = n) with
  | some t => (s, t.2.2.2 = count)
  | none => ({ s with sweepTags := s.sweepTags ++ [(slot, q, n, count)] }, true)

/-- Entries of a gather that enter flight, `room` of them at most: the rows they name for the first time are looked up, and those of other
modules are requested (R262 orders 1 to 3). -/
def State.startEntries (s : State) (h room : Nat) (c : HCmd) : State :=
  let n := c.table
  let new := (c.entries.drop c.started).take room
  let rows := (new.map (·.1)).eraseDups.filter (fun r => !c.rows.any (fun x => x.row = r))
  let away := rows.filter (fun r => !s.ownsRow c.slot n r)
  let looked := rows.foldl (fun (acc : State × List HRow) r =>
    if away.contains r then (acc.1, acc.2 ++ [{ key := tallyKey n c.vsn r, row := r, tier := 3, addr := 0, width := s.baseClass n }])
    else
      let x := acc.1.lookUp c.slot n c.vsn r (c.entries.filter (fun e => e.1 = r)).length
      (x.1, acc.2 ++ [x.2])) (s.count (Reg.HS_LOOKUPS h) 0 32 new.length, [])
  let s := looked.1.setHCmd h { c with started := c.started + new.length, rows := c.rows ++ looked.2 }
  ((away.map (s.ownerIndex n)).eraseDups).foldl (fun s peer =>
    s.requestRows c.slot peer (hoistHf h) h c.id n c.vsn (away.length + 1) (away.filter (fun r => s.ownerIndex n r = peer))) s

/-- The commands of a hoist take entries into flight in the order they queue, while it holds fewer than it may (R261). -/
def State.feedHoist (s : State) (h : Nat) : State :=
  ((s.hoist h).map (·.id)).foldl (fun s id =>
    match (s.hoist h).find? (fun c => c.id = id) with
    | none => s
    | some c =>
      let room := flightLimit - ((s.hoist h).map HCmd.flight).sum
      if !c.gather || c.held || c.fault.isSome || c.entries.length ≤ c.started || room = 0 then s else s.startEntries h room c) s

/-- A gather's list read and checked at its hoist (R169, R262 order 1). -/
def State.startGather (s : State) (h : Nat) (c : HCmd) (host : List Host.Cell) : State :=
  let r := s.readEntries c host
  let s := r.1
  match s.listFault c r.2.1 with
  | some code => s.setHCmd h { c with held := false, fault := some code }
  | none =>
    let v := s.vsnIn (s.genFor c.slot c.request) c.table
    (s.setHCmd h { c with held := false, vsn := v, err := r.2.2, entries := r.2.1 }).feedHoist h

/-- Gathers held during a writer's sweep proceed after order 9 (R266). -/
def State.releaseGathers (s : State) : State :=
  s.hoists.foldl (fun s q => q.2.foldl (fun s c =>
    if c.held && !s.sweptBy c.table (some c.slot) then s.startGather q.1 c [] else s) s) s

/-- A command queued at its hoist; a gather of a table being swept by another slot is held, and counted. -/
def State.queueGather (s : State) (h : Nat) (c : HCmd) (host : List Host.Cell) : State :=
  let held := s.tblValid c.table && s.sweptBy c.table (some c.slot)
  let s := s.setHoist h (s.hoist h ++ [{ c with held := held }])
  if held then s.count (Reg.HS_HELD h) 0 32 1 else s.startGather h c host

/-! ### Forming gradients (R168, R268) -/

/-- The winners of a MAX pooling, by output element. -/
def State.readWinners (s : State) (c : HCmd) (host : List Host.Cell) : State × List Nat × Bool :=
  let r := s.readDev (jobAgent c.slot) c.rowsView.aux c.winBytes host
  (r.1, (wordsOfBytes (c.winBytes / 4) r.2.1).map BitVec.toNat, r.2.2)

/-- A binary32 sum in a fixed order, by RNE; NaN is canonical (R50, R268). -/
def addRows (a b : List Word × Flags) : List Word × Flags :=
  let l := (a.1.zip b.1).map (fun p => fadd .b32 .rne p.1.toNat p.2.toNat)
  (l.map (fun e => BitVec.ofNat 32 (if isNan .b32 e.1 then Fmt.nanCode .b32 else e.1)), joinFlags l ||| a.2 ||| b.2)

/-- Rows summed from the first. -/
def sumRows : List (List Word) → List Word × Flags
  | [] => ([], 0#8)
  | x :: r => r.foldl (fun acc y => addRows acc (y, 0#8)) (x, 0#8)

/-- The correctly rounded reciprocal of a bag's count. -/
def recipCount (n : Nat) : Nat := (frcp .b32 .rne (convert .i32 .b32 .rne false n).1).1

/-- The gradient row of entry k (R168). -/
def entryGrad (mode dim : Nat) (l : List (Nat × Nat)) (grads wins : List Nat) (k bag : Nat) : List Word × Flags :=
  let row := fun (b : Nat) => (grads.drop (b * dim)).take dim
  match mode with
  | 0 => ((row k).map (BitVec.ofNat 32), 0#8)
  | 1 => ((row bag).map (BitVec.ofNat 32), 0#8)
  | 2 =>
    let q := recipCount (l.filter (fun e => e.2 = bag)).length
    let r := (row bag).map (fun x => fmul .b32 .rne x q)
    (r.map (fun e => BitVec.ofNat 32 e.1), joinFlags r)
  | _ =>
    (((row bag).zip ((wins.drop (bag * dim)).take dim)).map (fun e => if e.2 = k then BitVec.ofNat 32 e.1 else 0#32), 0#8)

/-- A scatter's partials (R268): equal rows summed in ascending logical entry index, each tagged with its first; and the flags raised. -/
def HCmd.partials (c : HCmd) (dim : Nat) (l : List (Nat × Nat)) (codes wins : List Nat) : List Partial × Flags :=
  let grads := l.zipIdx.map (fun e =>
    let x := entryGrad c.mode dim l codes wins e.2 e.1.2
    (e.1.1, c.list.indexAt (2 * e.2) / 2 % 2 ^ 32, x.1, x.2))
  let parts := (distinctRows l).map (fun d =>
    let own := (grads.filter (fun e => e.1 = d.1)).mergeSort (fun a b => a.2.1 ≤ b.2.1)
    let sum := sumRows (own.map (fun e => e.2.2.1))
    (({ row := d.1, tag := (own.head?.map (fun e => e.2.1)).getD 0, vals := sum.1 } : Partial), sum.2))
  (parts.map (·.1), (grads.foldl (fun a e => a ||| e.2.2.2) 0#8) ||| parts.foldl (fun a e => a ||| e.2) 0#8)

/-- A scatter's gradients read. -/
def State.readGrads (s : State) (c : HCmd) (host : List Host.Cell) : State × List Nat × Bool := s.readPlain (jobAgent c.slot) c.rowsView host

/-- A scatter's list of winners read, where it has one. -/
def State.readWins (s : State) (c : HCmd) (host : List Host.Cell) : State × List Nat × Bool :=
  if c.winners then s.readWinners c host else (s, [], false)

/-- A scatter's operands read, and its partials made. -/
def State.startScatter (s : State) (h : Nat) (c : HCmd) (host : List Host.Cell) : State :=
  let r := s.readEntries c host
  match r.1.listFault c r.2.1 with
  | some code => r.1.setHCmd h { c with fault := some code }
  | none =>
    let g := r.1.readGrads c host
    let w := g.1.readWins c host
    let p := c.partials (r.1.dimOf c.table) r.2.1 g.2.1 w.2.1
    (w.1.flagTask c.info.key p.2 c.rowsView.tid).setHCmd h { c with entries := r.2.1, parts := p.1, err := r.2.2 || g.2.2 || w.2.2 }

/-! ### HGATH and HSCAT -/

/-- Commands a hoist queues (R261). -/
def hoistLimit : Nat := 32

/-- The issue of a hoist command. -/
def hoistIssue (x op : Nat) (gather : Bool) (d a : TReg) (b : SReg) (host : List Host.Cell) (s : State) : State :=
  let i : Insn := { w0 := encWord op d.val a.val b.val 0 }
  match (s.context x).task with
  | none => s
  | some key =>
    s.issue x i (s.task key).update (tregs [d.val, a.val] ++ sregs [b.val]) []
      (fun s k t =>
        let m := motifOf x
        let word := (t.sreg b.val).toNat
        let dd := (t.treg d.val).toNat
        let aa := (t.treg a.val).toNat
        let info := s.command x k t i word (Desc.tid ⟨if gather then dd else aa⟩)
        let c : HCmd := { id := s.tick, info := info, gather := gather, motif := m, d := dd, a := aa, word := word, flush := t.flush, request := t.request }
        match s.hoistFault m t.slot c with
        | some e => .fault e.1 e.2 0
        | none =>
          let h := hoistOf m
          let ag := jobAgent t.slot
          let reads := c.list.spans ++ (if gather then [] else c.rowsView.spans ++ (if c.winners then [(c.rowsView.aux, c.winBytes)] else []))
          if hoistLimit ≤ (s.hoist h).length then .stay s .waitData .none
          else if !s.spansReady ag false reads then .stay (s.wakeSpans ag false reads) .waitData .none
          else
            let s := s.numbered
            let s := if gather then s.queueGather h c host else (s.setHoist h (s.hoist h ++ [c])).startScatter h c host
            .go s ((s.task k).issuedCmd info) none)

def execHgath (x : Nat) (d a : TReg) (b : SReg) (host : List Host.Cell) (s : State) : Host.Outcome State Fault Refusal :=
  .next (hoistIssue x 0x39 true d a b host s)

def execHscat (x : Nat) (d a : TReg) (b : SReg) (host : List Host.Cell) (s : State) : Host.Outcome State Fault Refusal :=
  .next (hoistIssue x 0x3A false d a b host s)

/-! ### ROW_RETURN (R263, R264) -/

/-- A row's slot read at its tier. -/
def State.fetchRow (s : State) (h n : Nat) (r : HRow) (host : List Host.Cell) : State × List Byte × Bool :=
  let s := match r.tier with
    | 0 => s.count (Reg.HS_FACE_READS (s.homeOfKey r.key)) 0 32 1
    | 1 => s.count (Reg.HS_LEVEL_READS h) 0 32 1
    | _ => s.count (Reg.HS_DEEP_READS h) 0 32 1
  s.readDev (s.rowAgent r.key r.addr) r.addr (gatherBytes r.width (s.dimOf n)) host

/-- A remote row's tag differs from what the step or request expects (R264). -/
def State.shardVersion (s : State) (c : HCmd) (row : Nat) : State :=
  let data := [c.table, row]
  match c.request with
  | some e => (s.raise .SHARD_VERSION .info (srcJob c.slot) data).failRequest e
  | none =>
    if s.classOf c.slot = 0 then s.raise .SHARD_VERSION .info (srcJob c.slot) data
    else (s.raise .SHARD_VERSION .corrected (srcJob c.slot) data).abortStep c.slot

/-- A row widened from its bytes (R263). -/
def HRow.widen (r : HRow) (dim : Nat) (bytes : List Byte) : HRow :=
  let g := gatherRow r.width dim bytes
  { r with ready := true, vals := g.1, flags := g.2 }

/-- ROW_RETURN: row `row` of the command at an index of a hoist's queue returns and is widened. -/
def State.rowReturn (s : State) (h index row : Nat) (host : List Host.Cell) : State :=
  match (s.hoist h)[index]? with
  | none => s
  | some c =>
    match c.rows[row]? with
    | none => s
    | some r =>
      let n := c.table
      let dim := s.dimOf n
      let put := fun (s : State) (r : HRow) => (s.setHCmd h { c with rows := c.rows.set row r }).feedHoist h
      if r.ready || c.held then s
      else if r.tier = 3 then
        if !r.arrived then s
        else if r.versionBad then (put s { r with ready := true, poisoned := true }).shardVersion c r.row
        else if r.poisoned then put s { r with ready := true }
        else put s (r.widen dim r.bytes)
      else if !s.spanReady (s.rowAgent r.key r.addr) false r.addr (gatherBytes r.width dim) then
        s.wakeSpan (s.rowAgent r.key r.addr) false r.addr (gatherBytes r.width dim)
      else
        let d := s.fetchRow h n r host
        put d.1 { r.widen dim d.2.1 with poisoned := d.2.2 }

def execRowReturn (hoist index row : Nat) (host : List Host.Cell) (s : State) : Host.Outcome State Fault Refusal :=
  .next (s.rowReturn hoist index row host)

/-! ### HGATH_COMPLETE (R265) -/

/-- One element pooled over a bag's entries, with its winning entry: the first as it stands, then the others in order. -/
def poolElem (mode : Nat) : List (Nat × Nat) → (Nat × Flags) × Nat
  | [] => ((0, 0#8), 0)
  | (k, x) :: r => r.foldl (fun acc e =>
      if mode = 3 then
        let y := fmaxmin .b32 true acc.1.1 e.2
        let later := if isNan .b32 y.1 then !isNan .b32 acc.1.1 else y.1 ≠ acc.1.1
        ((y.1, acc.1.2 ||| y.2), if later then e.1 else acc.2)
      else
        let y := fadd .b32 .rne acc.1.1 e.2
        ((y.1, acc.1.2 ||| y.2), acc.2)) ((x, 0#8), k)

/-- One bag or entry of the output: values with flags, winners, and whether a row of it was poisoned. -/
structure Bag where
  vals : List (Nat × Flags)
  wins : List (Option Nat)
  poisoned : Bool
deriving DecidableEq, Repr

/-- Bag b of a gather. A bag with no entry and one with a poisoned row are +0 (R167, R263). -/
def HCmd.bag (c : HCmd) (dim b : Nat) : Bag :=
  let l := (c.entries.zipIdx.filter (fun e => if c.mode = 0 then e.2 = b else e.1.2 = b)).map (fun e =>
    (e.2, c.rows.find? (fun r => r.row = e.1.1)))
  if l = [] then { vals := List.replicate dim (0, 0#8), wins := List.replicate dim none, poisoned := false }
  else if l.any (fun e => match e.2 with | some r => r.poisoned | none => true) then
    { vals := List.replicate dim (0, 0#8), wins := List.replicate dim none, poisoned := true }
  else
    let p := (List.range dim).map (fun i => poolElem c.mode (l.map (fun e => (e.1, (((e.2.map (·.vals)).getD []).getD i 0#32).toNat))))
    let q := recipCount l.length
    let vals := p.map (fun e => if c.mode = 2 then (let y := fmul .b32 .rne e.1.1 q; (y.1, e.1.2 ||| y.2)) else e.1)
    { vals := vals.map (fun e => (tensorFix .b32 e.1, e.2)), wins := p.map (fun e => some e.2), poisoned := false }

/-- A view written with binary32 values by a hoist (R166): the state, the flags and the fault that stopped it. -/
def State.writeView (s : State) (m slot : Nat) (d : Desc) (flush : Bool) (codes : List Nat) : State × Flags × Option Code :=
  let ag := jobAgent slot
  if d.qnt then
    if d.entries.any (fun i => !s.ownsScale slot m i) then (s, 0#8, some .SRF_RANGE)
    else if d.entries.any (fun i => !scaleValid d.fmt (s.scale m i)) then (s, 0#8, some .SCALE_INVALID)
    else
      let q := s.quantise ag m slot d .b32 flush codes
      (q.1, q.2.1, if q.2.2 then some .QBLOCK_OVF else none)
  else
    let out := s.convertAll slot d .b32 flush codes
    (s.writePlain ag d (out.map (fun e => tensorFix d.fmt e.1)), joinFlags out, none)

/-- The winner list written; a winner of an empty or poisoned bag is a free value. -/
def State.writeWinners (s : State) (c : HCmd) (l : List (Option Nat)) : State :=
  let bs := l.zipIdx.flatMap (fun e => match e.1 with
    | some k => toBytes 4 k
    | none => toBytes 4 (Config.freeNat (s.free + e.2) % 2 ^ 32))
  State.writeDev { s with free := s.free + l.length } (jobAgent c.slot) c.rowsView.aux bs

/-- HGATH_COMPLETE: the command at an index of a hoist's queue, every row returned, writes its output. -/
def State.hgathComplete (s : State) (h index : Nat) : State :=
  match (s.hoist h)[index]? with
  | none => s
  | some c =>
    let v := c.rowsView
    let writes := v.spans ++ (if c.winners then [(v.aux, c.winBytes)] else [])
    if !c.gather || c.held || (c.fault.isNone && (c.started < c.entries.length || c.rows.any (fun r => !r.ready))) then s
    else if !s.spansReady (jobAgent c.slot) true writes then s.wakeSpans (jobAgent c.slot) true writes
    else
      let s := (s.dropHCmd h c).feedHoist h
      match c.fault with
      | some code => ((s.spoil c.slot v).deferFault code c.info 0 0).settleAborts
      | none =>
        let bags := (List.range v.ext1).map (c.bag v.ext0)
        let s := s.flagTask c.info.key ((c.rows.filter (fun r => !r.poisoned)).foldl (fun a r => a ||| r.flags) 0#8) v.tid
        let s := s.flagTask c.info.key (bags.foldl (fun a b => a ||| joinFlags b.vals) 0#8) v.tid
        let r := s.writeView c.motif c.slot v c.flush (bags.flatMap (fun b => b.vals.map (·.1)))
        let s := r.1.flagTask c.info.key r.2.1 v.tid
        let s := if c.winners then s.writeWinners c (bags.flatMap (·.wins)) else s
        match r.2.2 with
        | some code => (s.deferFault code c.info 0 0).settleAborts
        | none => (s.endCmd c.info (c.err || bags.any (·.poisoned))).settleAborts

def execHgathComplete (hoist index : Nat) (s : State) : Host.Outcome State Fault Refusal := .next (s.hgathComplete hoist index)

/-! ### The coalescing area (R269) -/

/-- First device address of a slot's coalescing area, and the bytes of its records. -/
def State.coalBase (s : State) (slot : Nat) : Nat := (s.rd (Reg.EM_JOB_COAL_LO slot)).toNat + 2 ^ 32 * s.fld (Reg.EM_JOB_COAL_HI slot) 0 24
def State.coalStride (s : State) (slot : Nat) : Nat :=
  16 + 4 * largest ((s.tableList.filter (fun n => s.writerOf n = some slot)).map s.dimOf)
def State.coalUsed (s : State) (slot : Nat) : Nat := (s.rd (Reg.EM_JOB_COAL_USED slot)).toNat

/-- A record of the coalescing area. -/
structure CoalRec where
  row : Nat
  table : Nat
  tag : Nat
  src : Nat
  vals : List Word
deriving DecidableEq, Repr

/-- Its bytes. -/
def CoalRec.bytes (r : CoalRec) : List Byte :=
  toBytes 4 r.row ++ toBytes 4 (r.row / 2 ^ 32 + r.table * 256) ++ toBytes 4 r.tag ++ toBytes 4 r.src ++ bytesOfWords r.vals
/-- A record read back; `dim` gives the row dimension of a table. -/
def coalOf (dim : Nat → Nat) (l : List Byte) : CoalRec :=
  let w1 := payloadWord l 1
  let n := bitsOf w1 8 12
  { row := payloadWord l 0 + 2 ^ 32 * (w1 % 256), table := n, tag := payloadWord l 2, src := payloadWord l 3 % 2 ^ 16, vals := wordsOfBytes (dim n) (l.drop 16) }

/-- A record stored by its row's home hoist; the area may be full. -/
def State.storeRecord (s : State) (slot : Nat) (r : CoalRec) : State × Bool :=
  let n := s.coalUsed slot
  if (s.rd (Reg.EM_JOB_COAL_RECORDS slot)).toNat ≤ n then (s, false) else
  let s := s.writeDev .outside (s.coalBase slot + n * s.coalStride slot) r.bytes
  ((s.wr (Reg.EM_JOB_COAL_USED slot) (BitVec.ofNat 32 (n + 1))).count (Reg.HS_COAL_STORED (s.homeOf r.table r.row)) 0 32 1, true)

/-- COAL_STORE: the next partial of the scatter at an index of a hoist's queue is stored, or the area is full. -/
def State.coalStore (s : State) (h index : Nat) : State :=
  match (s.hoist h)[index]? with
  | none => s
  | some c =>
    match c.parts with
    | [] => s
    | p :: rest =>
      if c.gather then s else
      let r := s.storeRecord c.slot { row := p.row, table := c.table, tag := p.tag, src := s.ownIndex c.slot, vals := p.vals }
      if r.2 then r.1.setHCmd h { c with parts := rest }
      else ((s.dropHCmd h c).deferFault .HOIST_COAL c.info 0 0).settleAborts

def execCoalStore (hoist index : Nat) (s : State) : Host.Outcome State Fault Refusal := .next (s.coalStore hoist index)

/-- HSCAT_COMPLETE: every partial of the scatter at an index is stored, or its list is at fault. -/
def State.hscatComplete (s : State) (h index : Nat) : State :=
  match (s.hoist h)[index]? with
  | none => s
  | some c =>
    if c.gather || c.parts ≠ [] then s else
    let s := s.dropHCmd h c
    match c.fault with
    | some code => (s.deferFault code c.info 0 0).settleAborts
    | none => (s.endCmd c.info c.err).settleAborts

def execHscatComplete (hoist index : Nat) (s : State) : Host.Outcome State Fault Refusal := .next (s.hscatComplete hoist index)

/-! ### The flush (R270) -/

/-- The records of a slot's coalescing area. -/
def State.coalRecords (s : State) (slot : Nat) : State × List CoalRec :=
  (List.range (s.coalUsed slot)).foldl (fun (acc : State × List CoalRec) i =>
    let r := acc.1.readDev .outside (s.coalBase slot + i * s.coalStride slot) (s.coalStride slot) []
    (r.1, acc.2 ++ [coalOf s.dimOf r.2.1])) (s, [])

/-- Phase 1: the module sum of each row, its records in ascending TAG. -/
def State.localSums (s : State) (slot : Nat) : State :=
  let r := s.coalRecords slot
  let own := r.2.filter (fun e => e.src = s.ownIndex slot)
  ((own.map (fun e => rowKey e.table e.row)).eraseDups).foldl (fun s q =>
    let l := (own.filter (fun e => rowKey e.table e.row = q)).mergeSort (fun a b => a.tag ≤ b.tag)
    let x := sumRows (l.map (·.vals))
    State.flagSlot { s with rowSums := s.rowSums.put [] q x.1 } slot x.2 (s.tbl (q / 2 ^ 40) 6)) r.1

/-- The row keys of a slot's module sums. -/
def State.sumKeys (s : State) (slot : Nat) : List Nat :=
  (s.rowSums.map (·.1)).filter (fun q => s.writerOf (q / 2 ^ 40) = some slot)

/-- Phase 2: sums of rows owned elsewhere go to their owners (R342). -/
def State.deliverSums (s : State) (slot : Nat) : State :=
  (s.sumKeys slot).foldl (fun s q =>
    let n := q / 2 ^ 40
    let r := q % 2 ^ 40
    if s.ownsRow slot n r then s else
    let rec_ : CoalRec := { row := r, table := n, tag := 0, src := s.ownIndex slot, vals := s.rowSums.get [] q }
    let peer := s.ownerIndex n r
    let s := s.sendMessage (hoistHf (s.homeOf n r)) slot (s.header slot peer tGrad 0 0 (s.epochOf slot)) (pad64 rec_.bytes)
    { s with rowSums := s.rowSums.put [] q [] }) s

/-- Phase 3: the gradient of each owned row, the module sums in ascending SRC. -/
def State.finalSums (s : State) (slot : Nat) : State :=
  let r := s.coalRecords slot
  let own := (r.1.sumKeys slot).map (fun q => ({ row := q % 2 ^ 40, table := q / 2 ^ 40, tag := 0, src := s.ownIndex slot, vals := s.rowSums.get [] q } : CoalRec))
  let all := own ++ r.2.filter (fun e => e.src ≠ s.ownIndex slot)
  let s := ((all.map (fun e => rowKey e.table e.row)).eraseDups).foldl (fun s q =>
    let l := (all.filter (fun e => rowKey e.table e.row = q)).mergeSort (fun a b => a.src ≤ b.src)
    let x := sumRows (l.map (·.vals))
    State.flagSlot { s with rowGrads := s.rowGrads.put [] q x.1 } slot x.2 (s.tbl (q / 2 ^ 40) 6)) r.1
  { s with rowSums := s.rowSums.filter (fun e => s.writerOf (e.1 / 2 ^ 40) ≠ some slot) }

/-- COAL_FLUSH: at order 2 of the writer's boundary, with no scatter outstanding. In a group the first command sums and delivers and the
second, when every module's sums have arrived, finishes; alone, one command does both. -/
def State.coalFlush (s : State) (slot : Nat) : State :=
  let busy := s.hoists.any (fun q => q.2.any (fun c => !c.gather && c.slot = slot))
  let j := s.job slot
  if j.drainOrder ≠ 2 || busy || j.flushed = 2 then s
  else if j.flushed = 1 then (s.finalSums slot).setJob slot { j with flushed := 2 }
  else
    let s := s.localSums slot
    if s.grouped slot then (s.deliverSums slot).setJob slot { j with flushed := 1 }
    else (s.finalSums slot).setJob slot { j with flushed := 2 }

def execCoalFlush (slot : Nat) (s : State) : Host.Outcome State Fault Refusal := .next (s.coalFlush slot)

end Sys2Proof.Machine
end

