-- ==== Sys2Proof/Machine/Haul.lean ====
section
/-! DEFINITION. The memory manager and haulage: table descriptors (R250), versions (R271 to R274), samples (R260), class and tier moves
(R275 to R279), and shard rebalancing (R280). -/

namespace Sys2Proof.Machine

/-! ### Descriptors through EM_TSEL (R250) -/

/-- A descriptor word as software sees it: REFS is counted. -/
def State.tblShown (s : State) (n w : Nat) : Nat :=
  if w = 20 then setBits (s.tbl n w) 0 7 (s.refsOf n 0) else if w = 30 then setBits (s.tbl n w) 0 7 (s.refsOf n 1) else s.tbl n w

/-- A write of EM_TSEL with LOAD. -/
def State.tselLoad (s : State) (v : Word) : State :=
  let n := bitsOf v.toNat 0 12
  let s := s.setFld Reg.EM_TSEL 0 12 n
  (List.range 32).foldl (fun t w => t.wr (Reg.EM_TDATA w) (BitVec.ofNat 32 (s.tblShown n w))) s

def execEmTselLoad (v : Word) (s : State) : Host.Outcome State Fault Refusal := .next (s.tselLoad v)

/-- Bits of descriptor word w that a STORE writes. -/
def tblMask (w : Nat) : Nat :=
  match w with
  | 0 => 0x3FFFFD | 1 => 0x7FF | 3 => 0x1FF | 7 => 0x3FFFF | 9 => 0xFFFFFF | 11 => 0xFF
  | 18 => 0 | 20 => 0 | 28 => 0 | 30 => 0
  | 13 => 0x3FFFFFF | 23 => 0x3FFFFFF | 14 => 0xFFFFF | 24 => 0xFFFFF | 16 => 0xFFFFFF | 26 => 0xFFFFFF
  | 19 => 0xFFFFF | 29 => 0xFFFFF | 21 => 0x1FFFF | 31 => 0x1FFFF
  | _ => 0xFFFFFFFF

/-- Whether a STORE of EM_TDATA into table n is refused. -/
def State.storeRefused (s : State) (n : Nat) : Bool :=
  let w := fun (i : Nat) => (s.rd (Reg.EM_TDATA i)).toNat
  let cls := fun (l : Nat) => bitsOf (w 0) l 2
  let dim := bitsOf (w 1) 0 11
  let rows := w 2 + 2 ^ 32 * bitsOf (w 3) 0 9
  let limits := !(cls 11 ≤ cls 9 && cls 9 ≤ cls 13) || dim < 4 || 1024 < dim || dim % 4 ≠ 0 || rows = 0 || 2 ^ 40 < rows || 16 < bitsOf (w 0) 17 5
  let fixed := bitsOf (w 0) 9 13 ≠ bitsOf (s.tbl n 0) 9 13 || dim ≠ s.dimOf n || rows ≠ s.rowsOf n
  let placed := fun (v : Nat) =>
    let o := 10 * v
    w (12 + o) ≠ s.tbl n (12 + o) || bitsOf (w (13 + o)) 0 24 ≠ bitsOf (s.tbl n (13 + o)) 0 24 || bitsOf (w (14 + o)) 0 20 ≠ s.strideOf n v ||
    w (15 + o) ≠ s.tbl n (15 + o) || bitsOf (w (16 + o)) 0 24 ≠ bitsOf (s.tbl n (16 + o)) 0 24 || bitsOf (w (19 + o)) 0 20 ≠ bitsOf (s.tbl n (19 + o)) 0 20
  limits || (s.tblValid n && fixed) || [0, 1].any (fun v => decide (s.refsOf n v ≠ 0) && placed v) ||
    bitOf (w 0) 1 ≠ bitOf (s.tbl n 0) 1

/-- A write of EM_TSEL with STORE: taken from firmware alone. -/
def State.tselStore (s : State) (by_ : Writer) (v : Word) : State :=
  let n := bitsOf v.toNat 0 12
  let s := s.setFld Reg.EM_TSEL 0 12 n
  if by_ ≠ .firmware then s
  else if s.storeRefused n then s.setBit Reg.EM_TSEL 14 true
  else
    let s := s.setBit Reg.EM_TSEL 14 false
    (List.range 32).foldl (fun t w =>
      let old := t.tbl n w
      t.setTbl n w (((s.rd (Reg.EM_TDATA w)).toNat &&& tblMask w) + (old - (old &&& tblMask w)))) s

def execEmTselStore (by_ : Writer) (v : Word) (s : State) : Host.Outcome State Fault Refusal := 
  .next (s.byWriter by_ Reg.EM_TSEL v (fun w => s.tselStore w v))

/-! ### Versions (R271 to R274) -/

/-- A table's non-current slot becomes current in a new generation, which becomes the current one. -/
def State.publish (s : State) (n : Nat) : State :=
  let cur := s.fld Reg.EM_GEN 0 16
  let new := (cur + 1) % 2 ^ 16
  let l := (s.gens.get none cur).getD []
  let v := 1 - s.curVsn n
  let s := s.setTbl n 0 (setBits (s.tbl n 0) 1 1 v)
  let s : State := { s with gens := s.gens.put none new (some (if v = 1 then l ++ [n] else l.erase n)) }
  ((s.setFld Reg.EM_GEN 0 16 new).settleGens).raise .EM_PUBLISHED .info (srcHf 0) [n, new]

/-- RESULT of a publish of table n (R273). -/
def State.publishResult (s : State) (n : Nat) : Nat :=
  let v := 1 - s.curVsn n
  if !s.liveSlot n v then 4 else if s.refsOf n v ≠ 0 then 2 else if 64 ≤ s.gens.length then 3
  else if (s.writerOf n).isSome then 1 else 0

/-- A publish asked for: its result, and its effect at once or at the WRITER's order 9. -/
def State.publishGo (s : State) (n : Nat) : State × Nat :=
  let r := s.publishResult n
  let s := s.setFld Reg.EM_PUBLISH 13 3 r
  if r = 0 then (s.publish n, r)
  else if r = 1 then ({ s with publishQ := s.publishQ ++ (if s.publishQ.contains n then [] else [n]) }, r)
  else (s, r)

/-- A write of EM_PUBLISH with GO, from firmware alone. -/
def State.publishWrite (s : State) (by_ : Writer) (v : Word) : State :=
  let n := bitsOf v.toNat 0 12
  let s := s.setFld Reg.EM_PUBLISH 0 12 n
  if by_ ≠ .firmware then s else (s.publishGo n).1

def execEmPublishGo (by_ : Writer) (v : Word) (s : State) : Host.Outcome State Fault Refusal := 
  .next (s.byWriter by_ Reg.EM_PUBLISH v (fun w => s.publishWrite w v))

/-- Staged copies of rows that meet a test have become stale (R283). -/
def State.stale (s : State) (f : Nat → Bool) : State :=
  { s with staged := s.staged.map (fun e => if f e.key then { e with stale := true } else e) }

/-- A version slot freed (R274): its tally entries, face lines and relocation slots go, and LIVE clears. -/
def State.freeVersion (s : State) (n v : Nat) : State :=
  let mine := fun (k : Nat) => keyTable k = n && keyVsn k = v
  let s : State := { s with
    tally := s.tally.filter (fun e => match e.2 with | some t => !mine t.key | none => true)
    freeQ := s.freeQ.filter (fun e => e ≠ (n, v)) }
  let s := (s.stale mine).setTbl n (18 + 10 * v) 0
  (s.setTbl n (13 + 10 * v) (setBits (s.tbl n (13 + 10 * v)) 24 1 0)).raise .EM_VERSION_FREED .info (srcHf 0) [n, v]

/-- EM_VERSION_FREED: within 1 ms for a table without a WRITER; a WRITER's waits for its order 9. -/
def State.versionFreed (s : State) (n v : Nat) : State :=
  if s.freeQ.contains (n, v) && (s.writerOf n).isNone then s.freeVersion n v else s

def execEmVersionFreed (table vsn : Nat) (s : State) : Host.Outcome State Fault Refusal := .next (s.versionFreed table vsn)

/-! ### Samples (R260) -/

/-- The samples of a slot's step inserted as candidates, in ascending key; a headframe whose counters overflowed loses its own. -/
def State.insertSamples (s : State) (slot : Nat) : State :=
  let s := [0, 1].foldl (fun s hf =>
    if s.sampleLost.get false (slot * 2 + hf) then
      (s.count Reg.EM_HAUL_LOST 16 16 1).raise .EM_SAMPLES_LOST .info (srcHf hf) [slot]
    else
      (s.samples.get [] (slot * 2 + hf)).foldl (fun s e =>
        if (s.probe e.1).isSome then s else
        let n := keyTable e.1
        let v := keyVsn e.1
        let t : TallyE := { key := e.1, tier := b2n (s.baseDeep n v) + 1, width := s.baseClass n, cand := true, loc := 0, pop := min 255 e.2, reloc := none }
        (s.insertTally { t with loc := locOf (s.baseSlot n v (keyRow e.1)) }).1) s) s
  { s with samples := s.samples.clear (2 * slot) (2 * slot + 2), sampleLost := s.sampleLost.clear (2 * slot) (2 * slot + 2) }

/-! ### Targets (R276) -/

/-- The POP threshold of a class; none for W4. -/
def State.classPop (s : State) (n w : Nat) : Nat := if w < 3 then bitsOf (s.tbl n 10) (8 * w) 8 else 0
def State.facePop (s : State) (n : Nat) : Nat := bitsOf (s.tbl n 10) 24 8
def State.levelPop (s : State) (n : Nat) : Nat := bitsOf (s.tbl n 11) 0 8

/-- The class a row's popularity asks for, clamped; a narrower one only below half the threshold of the class it has. -/
def State.classTarget (s : State) (n : Nat) (e : TallyE) : Nat :=
  let w := if s.classPop n 0 ≤ e.pop then 0 else if s.classPop n 1 ≤ e.pop then 1 else if s.classPop n 2 ≤ e.pop then 2 else 3
  let w := max (s.wideClass n) (min w (s.narrowClass n))
  if e.width < w && s.classPop n e.width ≤ 2 * e.pop then e.width else w

/-- The tier a row's popularity asks for (0 face, 1 level, 2 deep); a lower one only below half the threshold of the tier it has, and
never for a row staged in at this boundary. -/
def State.tierTarget (s : State) (n : Nat) (e : TallyE) (fresh : List Nat) : Nat :=
  let deep := s.baseDeep n (keyVsn e.key)
  let t := if s.facePop n ≤ e.pop then 0 else if s.levelPop n ≤ e.pop || !deep then 1 else 2
  let here := if e.tier = 0 then s.facePop n else if deep then s.levelPop n else 0
  if e.tier < t && (here ≤ 2 * e.pop || fresh.contains e.key) then e.tier else t

/-- A move asked for: the entry's way, the entry, its class and its tier. A row wider than its base class is never deep. -/
structure Move where
  way : Nat
  e : TallyE
  width : Nat
  tier : Nat
deriving DecidableEq, Repr

def Move.down (m : Move) : Bool := m.e.width < m.width || m.e.tier < m.tier

/-- The moves that the entries of a headframe's sets ask for, in the order of R277. -/
def State.wantedMoves (s : State) (hf : Nat) (ns fresh : List Nat) : List Move :=
  let l := ((s.tallyWhere (fun e => ns.contains (keyTable e.key) && keyHf e.key = hf)).map (fun p =>
    let n := keyTable p.2.key
    let w := s.classTarget n p.2
    let t := s.tierTarget n p.2 fresh
    ({ way := p.1, e := p.2, width := w, tier := if w < s.baseClass n && t = 2 then 1 else t } : Move))).filter
      (fun m => m.e.width ≠ m.width || m.e.tier ≠ m.tier)
  ((l.filter Move.down).mergeSort (fun a b => if a.e.pop ≠ b.e.pop then a.e.pop < b.e.pop else a.e.key ≤ b.e.key)) ++
  ((l.filter (fun m => !m.down)).mergeSort (fun a b => if a.e.pop ≠ b.e.pop then b.e.pop < a.e.pop else a.e.key ≤ b.e.key))

/-! ### Moves (R255, R277, R278) -/

/-- One move made, or refused: the row copied to its new place in its class, and its entry rewritten. -/
def State.makeMove (s : State) (m : Move) (host : List Host.Cell) : State × Bool :=
  let k := m.e.key
  let n := keyTable k
  let v := keyVsn k
  let deep := s.baseDeep n v
  let size := slotBytes m.width (s.dimOf n) (s.stateKind n)
  let face := if m.tier = 0 then s.freeFace (s.homeOf n (keyRow k)) size else none
  let noFace := m.tier = 0 && face.isNone
  let s := if noFace then s.count Reg.EM_HAUL_LOST 0 16 1 else s
  let tier := if noFace then (if m.e.tier = 0 then 1 else m.e.tier) else m.tier
  let tier := if m.width < s.baseClass n && tier = 2 then 1 else tier
  if noFace && m.width = m.e.width then (s, false) else
  let needs := m.width < s.baseClass n || (tier = 1 && deep)
  let slot := if needs then (match m.e.reloc with | some i => some i | none => s.freeReloc n v) else none
  if needs && slot.isNone then (s.count Reg.EM_HAUL_FULL 16 16 1, false) else
  let base := s.baseSlot n v (keyRow k)
  let a := match tier, face, slot with
    | 0, some f, _ => f
    | _, _, some i => s.relocSlot n v i
    | _, _, none => base
  let from_ := s.locate n v (keyRow k)
  let r := s.readRow k from_.1 from_.2 host
  let s := (r.1.writeRowAt k a m.width (m.width < from_.2) r.2.1).stale (· = k)
  let cand := a = base && m.width = s.baseClass n
  let e : TallyE := { m.e with width := m.width, tier := tierOf a, cand := cand, loc := locOf a, reloc := slot }
  let s := (s.setWay m.way (some e)).showReloc n v
  (s.count Reg.EM_HAUL_MOVES (if m.down then 16 else 0) 16 1, true)

/-- A headframe's moves of an epoch, up to its budget. -/
def State.makeMoves (s : State) (host : List Host.Cell) : Nat → List Move → State
  | 0, _ => s
  | _, [] => s
  | b + 1, m :: r =>
    let d := s.makeMove m host
    if d.2 then d.1.makeMoves host b r else d.1.makeMoves host (b + 1) r

/-- POP of every entry of tables halved; candidates at zero go. -/
def State.halvePops (s : State) (ns : List Nat) : State :=
  { s with tally := s.tally.filterMap (fun e => match e.2 with
      | some t => if ns.contains (keyTable t.key) then
          (if t.cand && t.pop / 2 = 0 then none else some (e.1, some { t with pop := t.pop / 2 })) else some e
      | none => none) }

/-- The load of one shard of a module in the epoch that ends (R280). -/
structure ShardLoad where
  owner : Nat
  table : Nat
  shard : Nat
  load : Nat
deriving DecidableEq, Repr

/-- This module's own loads of tables. -/
def State.ownLoads (s : State) (slot : Nat) (ns : List Nat) : List ShardLoad :=
  ns.flatMap (fun n => (List.range (2 ^ bitsOf (s.tbl n 0) 17 5)).filterMap (fun i =>
    if s.shardEntry n i % 2 ^ 16 = s.ownIndex slot then
      some { owner := s.ownIndex slot, table := n, shard := i, load := s.shardLoads.get 0 (bitsOf (s.tbl n 7) 0 18 + i) } else none))

/-- The load of a module. -/
def loadOf (l : List ShardLoad) (m : Nat) : Nat := ((l.filter (fun e => e.owner = m)).map (·.load)).sum

/-- The lowest shard slot that no shard of a table holds at a module. -/
def State.freeShardSlot (s : State) (n owner : Nat) (taken : List ShardMove) : Nat :=
  let used := ((List.range (2 ^ bitsOf (s.tbl n 0) 17 5)).filterMap (fun i =>
    if s.shardEntry n i % 2 ^ 16 = owner then some (s.shardEntry n i / 2 ^ 16) else none)) ++
    (taken.filter (fun m => m.table = n && m.owner = owner)).map (·.slotAt)
  ((List.range (used.length + 1)).find? (fun i => !used.contains i)).getD 0

/-- Shards moved one at a time from the heaviest module to the lightest, until the skew is within its bound (R280). -/
def State.rebalance (s : State) (members : Nat) : Nat → List ShardLoad → List ShardMove → List ShardMove
  | 0, _, moves => moves
  | fuel + 1, l, moves =>
    let ms := List.range members
    let heavy := ms.foldl (fun b m => if loadOf l b < loadOf l m then m else b) 0
    let light := ms.foldl (fun b m => if loadOf l m < loadOf l b then m else b) 0
    let total := (l.map (·.load)).sum
    if loadOf l heavy * 16 * members ≤ total * (16 + s.fld Reg.EM_SKEW 0 8) then moves else
    match ((l.filter (fun e => e.owner = heavy)).mergeSort (fun a b => b.load ≤ a.load)).head? with
    | none => moves
    | some e =>
      let mv : ShardMove := { table := e.table, shard := e.shard, owner := light, slotAt := s.freeShardSlot e.table light moves }
      s.rebalance members fuel (l.map (fun x => if x = e then { x with owner := light } else x)) (moves ++ [mv])

/-- The haulage epoch of tables ends (R276 to R280). `fresh` are rows staged in at this boundary, `loads` the loads of other modules. -/
def State.haulEpoch (s : State) (slot : Nat) (ns fresh : List Nat) (host : List Host.Cell) (loads : List ShardLoad) : State :=
  let s := s.halvePops ns
  let s := [0, 1].foldl (fun s hf => s.makeMoves host (s.fld Reg.EM_HAUL_BUDGET 0 20) (s.wantedMoves hf ns fresh)) s
  let moves := if s.grouped slot then
      s.rebalance (s.groupSize slot) (s.fld Reg.EM_SKEW 8 8) (s.ownLoads slot ns ++ loads) []
    else []
  let e := s.epochSt slot
  let s := if moves = [] then s else s.setEpochSt slot { e with queued := e.queued ++ moves }
  ns.foldl (fun s n =>
    let first := bitsOf (s.tbl n 7) 0 18
    { s with shardLoads := s.shardLoads.clear first (first + 2 ^ bitsOf (s.tbl n 0) 17 5) }) s

/-- The frozen tables, and the job slot that reads one. -/
def State.frozenTables (s : State) : List Nat := s.tableList.filter (fun n => (s.writerOf n).isNone)
def State.readerOf (s : State) (n : Nat) : Nat := ((List.range 64).find? (s.mayGather n)).getD 0

/-- HAUL_EPOCH_END: HAUL_MS of the north headframe's counter have passed for the frozen tables. The samples of SERVE slots, which have
no step boundary, are inserted first. -/
def State.haulFrozen (s : State) (host : List Host.Cell) (loads : List (Nat × Nat × Nat × Nat)) : State :=
  let s := ((List.range 64).filter (fun j => s.classOf j = 0)).foldl State.insertSamples s
  let ns := s.frozenTables
  let l := loads.map (fun e => ({ owner := e.1, table := e.2.1, shard := e.2.2.1, load := e.2.2.2 } : ShardLoad))
  ((ns.map s.readerOf).eraseDups).foldl (fun s j => s.haulEpoch j (ns.filter (fun n => s.readerOf n = j)) [] host l) s

def execHaulEpochEnd (host : List Host.Cell) (loads : List (Nat × Nat × Nat × Nat)) (s : State) : Host.Outcome State Fault Refusal :=
  .next (s.haulFrozen host loads)

/-- Haulage's part of order 9 for a WRITER's tables: samples, publishes, version frees, and its epoch where one ends (R204, R273 to R276). -/
def State.haulBoundary (s : State) (slot : Nat) (fresh : List Nat) (host : List Host.Cell) (loads : List ShardLoad) : State :=
  let s := s.insertSamples slot
  let mine := s.tableList.filter (fun n => s.writerOf n = some slot)
  let s := (s.publishQ.filter mine.contains).foldl (fun s n =>
    if s.refsOf n (1 - s.curVsn n) = 0 && decide (s.gens.length < 64) then State.publish { s with publishQ := s.publishQ.erase n } n else s) s
  let s := s.unpinStep slot
  let s := (s.freeQ.filter (fun e => mine.contains e.1)).foldl (fun s e => s.freeVersion e.1 e.2) s
  let steps := max 1 (s.fld Reg.EM_HAUL 0 8)
  if s.step32 slot % steps = steps - 1 then s.haulEpoch slot mine fresh host loads else s

end Sys2Proof.Machine
end

