-- ==== Sys2Proof/Machine/Gft.lean ====
section
/-! DEFINITION. What GFT packets do at their receiver (R323 to R333, R336, R340 to R346). Each command takes the oldest received packet of
its kind from a headframe's engine. Payload layouts that the manual leaves open are the model's. -/

namespace Sys2Proof.Machine

/-! ### Packets received -/

/-- The first element of a list that meets a test, and the list without it. -/
def takeFirst {α : Type} (f : α → Bool) : List α → Option (α × List α)
  | [] => none
  | a :: r => if f a then some (a, r) else (takeFirst f r).map (fun p => (p.1, a :: p.2))

/-- A headframe's oldest received packet of a kind, taken. -/
def State.takeRx (s : State) (hf : Nat) (f : GftPacket → Bool) : Option (GftPacket × State) :=
  (takeFirst (fun e => f e.2) (s.gftRx.get [] hf)).map (fun p => (p.1.2, { s with gftRx := s.gftRx.put [] hf p.2 }))

/-- A packet of a job slot's group whose epoch has been checked (R331): behind, it is answered with EPOCH_NAK; ahead, it is dropped
without acknowledgment. `ahead` admits a BULK of the epoch that a commit prepares (R333 order 4). -/
def State.epochOk (s : State) (hf slot : Nat) (k : GftPacket) (ahead : Bool) : State × Bool :=
  let d := epochDiff k.epoch (s.epochOf slot)
  if d = 0 || (ahead && d = 1) then (s, true)
  else if d < 0 then ((s.count (Reg.HF_GFT_EPOCH hf) 0 16 1).sendCtrl slot k.src 4 [s.epochOf slot], false)
  else (s.count (Reg.HF_GFT_EPOCH hf) 16 16 1, false)

/-- A window packet accepted on its connection; none when there is no connection, or it is not accepted. The connection's id. -/
def State.onWindow (s : State) (hf slot : Nat) (k : GftPacket) : State × Option Nat :=
  match s.conn hf k.cls slot k.src with
  | none => (s, none)
  | some c =>
    let s := if k.ackv then s.ackReceived c k.ackPsn [] else s
    match s.connById c.id with
    | none => (s, none)
    | some c =>
      let r := s.windowAccept c k
      (r.1, if r.2 then some c.id else none)

/-- A window packet of an epoch-checked type: the message that it completes. -/
def State.windowMessage (s : State) (hf slot : Nat) (k : GftPacket) (ahead : Bool) : State × Option (List Byte) :=
  let e := s.epochOk hf slot k ahead
  if !e.2 then (e.1, none) else
  let w := e.1.onWindow hf slot k
  match w.2 with
  | none => (w.1, none)
  | some id => w.1.takeMessage id k

/-! ### DATA, GRAD and ACK -/

/-- DATA: a packet of a collective's block (R325, R336). -/
def State.gftData (s : State) (hf : Nat) : State :=
  match s.takeRx hf (fun k => k.typ = tData) with
  | none => s
  | some (k, s) =>
    match s.slotOfGroup k.group with
    | none => s
    | some slot =>
      let m := s.windowMessage hf slot k false
      match m.2 with
      | none => m.1
      | some l => if k.handle < 1024 && m.1.collSlot k.handle = slot then m.1.dataBlock k.handle k.msg k.src l else m.1

def execData (hf : Nat) (s : State) : Host.Outcome State Fault Refusal := .next (s.gftData hf)

/-- GRAD: a module sum for an owned row arrives and is stored as a record (R342). With the area full the step is aborted. -/
def State.gftGrad (s : State) (hf : Nat) : State :=
  match s.takeRx hf (fun k => k.typ = tGrad) with
  | none => s
  | some (k, s) =>
    match s.slotOfGroup k.group with
    | none => s
    | some slot =>
      let m := s.windowMessage hf slot k false
      match m.2 with
      | none => m.1
      | some l =>
        let r := m.1.storeRecord slot { coalOf m.1.dimOf l with src := k.src }
        if r.2 then r.1 else r.1.abortStep slot

def execGrad (hf : Nat) (s : State) : Host.Outcome State Fault Refusal := .next (s.gftGrad hf)

/-- ACK: acknowledged packets leave; a hole may be resent (R326). HANDLE names the connection's class. -/
def State.gftAck (s : State) (hf : Nat) : State :=
  match s.takeRx hf (fun k => k.typ = tAck) with
  | none => s
  | some (k, s) =>
    match (s.slotOfGroup k.group).bind (fun slot => s.conn hf k.handle slot k.src) with
    | none => s
    | some c => s.ackReceived c k.ackPsn (markedBy k.ackPsn k.payload)

def execAck (hf : Nat) (s : State) : Host.Outcome State Fault Refusal := .next (s.gftAck hf)

/-! ### OPEN, OPEN_OK and CLOSE (R324). HANDLE names the class; they take part in no window. -/

/-- A CTRL packet of a subtype taken, with its job slot. -/
def State.takeCtrl (s : State) (hf sub : Nat) : Option (GftPacket × Nat × State) :=
  match s.takeRx hf (fun k => k.typ = tCtrl && k.msg = sub) with
  | none => none
  | some (k, t) => (t.slotOfGroup k.group).map (fun j => (k, j, t))

/-- OPEN: the connection is entered and acknowledged; a table with no room lets the peer ask again. -/
def State.gftOpen (s : State) (hf : Nat) : State :=
  match s.takeCtrl hf 1 with
  | none => s
  | some (k, slot, s) =>
    let s := match s.conn hf k.handle slot k.src with
      | some c => s.dropConn c
      | none => s
    let r := s.connRoom hf
    if !r.2 then r.1 else
    let c : Conn := { id := r.1.tick, hf := hf, cls := k.handle, slot := slot, peer := k.src, ready := true, nextPsn := k.psn, rxNext := k.psn, used := r.1.tick }
    (r.1.addConn c).sendOpenMsg hf slot k.src 2 k.handle k.psn

def execOpen (hf : Nat) (s : State) : Host.Outcome State Fault Refusal := .next (s.gftOpen hf)

/-- OPEN_OK: the connection is usable, and what waits for it goes. -/
def State.gftOpenOk (s : State) (hf : Nat) : State :=
  match s.takeCtrl hf 2 with
  | none => s
  | some (k, slot, s) =>
    match s.conn hf k.handle slot k.src with
    | none => s
    | some c => if c.ready then s else (s.setConn { c with ready := true, fails := 0 }).pumpAll c.id

def execOpenOk (hf : Nat) (s : State) : Host.Outcome State Fault Refusal := .next (s.gftOpenOk hf)

/-- CLOSE: the peer has closed the connection. -/
def State.gftClose (s : State) (hf : Nat) : State :=
  match s.takeCtrl hf 3 with
  | none => s
  | some (k, slot, s) =>
    match s.conn hf k.handle slot k.src with
    | none => s
    | some c => s.dropConn c

def execClose (hf : Nat) (s : State) : Host.Outcome State Fault Refusal := .next (s.gftClose hf)

/-! ### Shard moves (R333) -/

/-- The tables that a slot's group divides: those it writes or may gather from. -/
def State.groupTables (s : State) (slot : Nat) : List Nat := s.tableList.filter (fun n => s.writerOf n = some slot || s.mayGather n slot)
/-- A shard map entry written (R252). -/
def State.setShard (s : State) (n shard owner slotAt : Nat) : State :=
  s.writeDev .outside (s.shardAddr n shard) (toBytes 4 (owner + 2 ^ 16 * slotAt))
/-- The base slot of a row in a shard slot that the map may not name yet. -/
def State.baseSlotAt (s : State) (n v slotAt r : Nat) : Nat :=
  s.vword n v 0 + 2 ^ 32 * bitsOf (s.vword n v 1) 0 24 + (slotAt * s.shardRows n + r % max 1 (s.shardRows n)) * s.strideOf n v
/-- The rows of a shard. -/
def State.rowsOfShard (s : State) (n shard : Nat) : List Nat :=
  (List.range (min (s.shardRows n) (s.rowsOf n - shard * s.shardRows n))).map (shard * s.shardRows n + ·)

/-- One row of a moved shard: where it lies here, its class and popularity, and its slot's bytes. -/
def State.moveRow (s : State) (n v r : Nat) (host : List Host.Cell) : State × List Byte :=
  let k := tallyKey n v r
  let at_ := s.locate n v r
  let e := s.probe k
  let size := slotBytes at_.2 (s.dimOf n) (s.stateKind n)
  let d := s.readDev (s.rowAgent k at_.1) at_.1 size host
  let head := [r, r / 2 ^ 32 % 256 + n * 256 + 2 ^ 20 * v + 2 ^ 21 * at_.2, (e.map (fun x => x.2.pop)).getD 0 + b2n e.isSome * 256, size]
  (d.1, head.flatMap (toBytes 4) ++ d.2.1)

/-- A shard sent to its new owner by BULK, in the new epoch. -/
def State.sendShard (s : State) (slot : Nat) (m : ShardMove) (host : List Host.Cell) : State :=
  let rows := [0, 1].flatMap (fun v => if s.liveSlot m.table v then (s.rowsOfShard m.table m.shard).map (fun r => (v, r)) else [])
  let r := rows.foldl (fun (acc : State × List Byte) e =>
    let d := acc.1.moveRow m.table e.1 e.2 host
    (d.1, acc.2 ++ d.2)) (s, [])
  r.1.sendMessage 0 slot (r.1.header slot m.owner tBulk m.table m.shard (r.1.epochOf slot + 1)) (pad64 r.2)

/-- One row of a gained shard placed (R333): in its base slot, or in level in a relocation slot. A row that finds neither a relocation
slot nor a tally way takes its base slot and class. -/
def State.placeRow (s : State) (m : ShardMove) (l : List Byte) : State :=
  let w1 := payloadWord l 1
  let w2 := payloadWord l 2
  let n := m.table
  let r := payloadWord l 0 + 2 ^ 32 * (w1 % 256)
  let v := bitsOf w1 20 1
  let w := bitsOf w1 21 2
  let k := tallyKey n v r
  let data := (l.drop 16).take (payloadWord l 3)
  let base := s.baseSlotAt n v m.slotAt r
  let asBase := fun (s : State) =>
    if w = s.baseClass n then s.writeDev .outside base data
    else s.writeRowAt k base (s.baseClass n) (s.baseClass n < w) (decodeRow w (s.dimOf n) (s.stateKind n) data)
  let entry : TallyE := { key := k, tier := 1, width := w, cand := false, loc := locOf base, pop := w2 % 256, reloc := none }
  if !bitOf w2 8 then asBase s
  else if s.baseClass n ≤ w && !s.baseDeep n v then
    let r := s.insertTally { entry with cand := w = s.baseClass n }
    if r.2 then r.1.writeDev .outside base data else asBase r.1
  else
    match s.freeReloc n v with
    | none => asBase (s.count Reg.EM_HAUL_FULL 16 16 1)
    | some i =>
      let r := s.insertTally { entry with loc := locOf (s.relocSlot n v i), reloc := some i }
      if r.2 then (r.1.writeDev .outside (s.relocSlot n v i) data).showReloc n v else asBase r.1

/-- The rows of a BULK message placed one after another. -/
def State.placeRows (s : State) (m : ShardMove) : Nat → List Byte → State
  | 0, _ => s
  | n + 1, l =>
    let size := payloadWord l 3
    if l.length < 16 || size = 0 then s
    else (s.placeRow m l).placeRows m n (l.drop (16 + size))

/-- BULK: a packet of a moved shard; the complete message is placed (R333). HANDLE names the table and MSG the shard. -/
def State.gftBulk (s : State) (hf : Nat) : State :=
  match s.takeRx hf (fun k => k.typ = tBulk) with
  | none => s
  | some (k, s) =>
    match s.slotOfGroup k.group with
    | none => s
    | some slot =>
      let m := s.windowMessage hf slot k ((s.epochSt slot).order = 3)
      match m.2 with
      | none => m.1
      | some l =>
        let s := m.1
        let e := s.epochSt slot
        match e.moves.find? (fun x => x.table = k.handle && x.shard = k.msg) with
        | none => s
        | some mv =>
          (s.placeRows mv (l.length / 16) l).setEpochSt slot { e with awaited := e.awaited.erase (k.handle, k.msg) }

def execBulk (hf : Nat) (s : State) : Host.Outcome State Fault Refusal := .next (s.gftBulk hf)

/-! ### Epoch changes (R332, R333) -/

/-- Children of a module index in the 16-ary tree. -/
def treeChildren (size m : Nat) : List Nat := ((List.range 16).map (fun i => 16 * m + 1 + i)).filter (· < size)

/-- Moves as words of a payload. -/
def moveWords (l : List ShardMove) : List Nat := l.length :: l.flatMap (fun m => [m.table, m.shard, m.owner, m.slotAt])
/-- Moves read back from word `i` of a payload. -/
def readMoves (l : List Byte) (i : Nat) : List ShardMove :=
  (List.range (payloadWord l i)).map (fun j =>
    let o := i + 1 + 4 * j
    { table := payloadWord l o, shard := payloadWord l (o + 1), owner := payloadWord l (o + 2), slotAt := payloadWord l (o + 3) })

/-- COMMIT at a member: passed down the tree, the shards it loses sent, those it gains awaited. -/
def State.commitEpoch (s : State) (slot target : Nat) (moves : List ShardMove) (host : List Host.Cell) : State :=
  let me := s.myModule slot
  let s := (treeChildren (s.groupSize slot) me).foldl (fun s c => s.sendCtrl slot c 6 (target :: moveWords moves)) s
  let old := fun (m : ShardMove) => s.shardEntry m.table m.shard % 2 ^ 16
  let gains := (moves.filter (fun m => m.owner = me && old m ≠ me)).map (fun m => (m.table, m.shard))
  let e := s.epochSt slot
  let s := s.setEpochSt slot { e with order := 3, moves := moves, target := target, awaited := gains }
  (moves.filter (fun m => old m = me && m.owner ≠ me)).foldl (fun s m => s.sendShard slot m host) s

/-- A member whose children have all reported reports to its parent, or commits if it is the coordinator. -/
def State.epochReport (s : State) (slot : Nat) (host : List Host.Cell) : State :=
  let e := s.epochSt slot
  let me := s.myModule slot
  let target := (s.epochOf slot + 1) % 2 ^ 32
  if e.order ≠ 1 || !(treeChildren (s.groupSize slot) me).all e.children.contains then s
  else if me = 0 then s.commitEpoch slot target e.moves host
  else (s.setEpochSt slot { e with order := 2 }).sendCtrl slot ((me - 1) / 16) 5 (target :: moveWords e.moves)

/-- Order 9 of a member whose group has a change of layout queued: the change begins. -/
def State.epochBegin (s : State) (slot : Nat) (host : List Host.Cell) : State :=
  let e := s.epochSt slot
  if !s.grouped slot || e.order ≠ 0 || (e.queued = [] && e.children = []) then s
  else (s.setEpochSt slot { e with order := 1, moves := e.moves ++ e.queued, queued := [] }).epochReport slot host

/-- EPOCH_ADOPTED: every gained shard is placed; the member switches its maps and adopts the new epoch. -/
def State.epochAdopt (s : State) (slot : Nat) : State :=
  let e := s.epochSt slot
  if e.order ≠ 3 || e.awaited ≠ [] then s else
  let me := s.myModule slot
  let lost := e.moves.filter (fun m => s.shardEntry m.table m.shard % 2 ^ 16 = me && m.owner ≠ me)
  let gone := fun (k : Nat) => lost.any (fun m => keyTable k = m.table && s.shardOf m.table (keyRow k) = m.shard)
  let s : State := { s with tally := s.tally.filter (fun w => match w.2 with | some t => !gone t.key | none => true) }
  let s := s.stale gone
  let s := e.moves.foldl (fun s m => ((s.setShard m.table m.shard m.owner m.slotAt).showReloc m.table 0).showReloc m.table 1) s
  let s := s.setEpochSt slot { e with order := 0, moves := [], children := [], awaited := [] }
  (s.wr (Reg.HF_GROUP_EPOCH slot) (BitVec.ofNat 32 e.target)).raise .EPOCH_ADOPTED .info (srcJob slot) [e.target]

def execEpochAdopted (slot : Nat) (s : State) : Host.Outcome State Fault Refusal := .next (s.epochAdopt slot)

/-- The layout of a group as words: its epoch, then table, shard and map entry of every shard. -/
def State.layoutWords (s : State) (slot : Nat) : List Nat :=
  let l := (s.groupTables slot).flatMap (fun n => (List.range (2 ^ bitsOf (s.tbl n 0) 17 5)).map (fun i => (n, i, s.shardEntry n i)))
  s.epochOf slot :: l.length :: l.flatMap (fun e => [e.1, e.2.1, e.2.2])

/-- A LAYOUT applied: the shard maps and the epoch; the step that waited for it starts (R332). -/
def State.applyLayout (s : State) (slot : Nat) (l : List Byte) : State :=
  let s := (List.range (payloadWord l 1)).foldl (fun s i =>
    let e := payloadWord l (4 + 3 * i)
    s.setShard (payloadWord l (2 + 3 * i)) (payloadWord l (3 + 3 * i)) (e % 2 ^ 16) (e / 2 ^ 16)) s
  let s := s.setEpochSt slot { s.epochSt slot with needLayout := false }
  ((s.wr (Reg.HF_GROUP_EPOCH slot) (BitVec.ofNat 32 (payloadWord l 0))).raise .EPOCH_ADOPTED .info (srcJob slot) [payloadWord l 0]).releaseStep slot

/-- An EPOCH_NAK from a peer ahead: the step is aborted and the layout asked of the coordinator. -/
def State.epochNak (s : State) (slot : Nat) (l : List Byte) : State :=
  if epochDiff (payloadWord l 0) (s.epochOf slot) ≤ 0 || (s.epochSt slot).needLayout then s else
  let s := s.setEpochSt slot { s.epochSt slot with needLayout := true }
  (s.abortStep slot).sendCtrl slot 0 9 []

/-- One CTRL message applied, by its subtype (R323). -/
def State.applyCtrl (s : State) (slot src sub : Nat) (l : List Byte) (host : List Host.Cell) : State :=
  let e := s.epochSt slot
  match sub with
  | 4 => s.epochNak slot l
  | 5 => (s.setEpochSt slot { e with children := if e.children.contains src then e.children else e.children ++ [src], moves := e.moves ++ readMoves l 1 }).epochReport slot host
  | 6 => if e.order = 2 then s.commitEpoch slot (payloadWord l 0) (readMoves l 1) host else s
  | 7 => s.peerLost slot src (payloadWord l 0)
  | 8 => s.peerBack slot src
  | 9 => if s.myModule slot = 0 then s.sendCtrl slot src 10 (s.layoutWords slot) else s
  | 10 => if src = 0 then s.applyLayout slot l else s
  | _ => s

/-- Messages of a CTRL connection applied in PSN order (R346): those whose packets, and all before them, have arrived. -/
def State.ctrlDeliver (s : State) (id slot : Nat) (host : List Host.Cell) : Nat → State
  | 0 => s
  | fuel + 1 =>
    match s.connById id with
    | none => s
    | some c =>
      let due := (c.held.filter (fun k => psnDist k.psn c.rxNext ≥ 2 ^ 31)).mergeSort (fun a b => psnDist b.psn a.psn < 2 ^ 31)
      match due with
      | [] => s
      | k :: _ =>
        match assemble c.held k with
        | none => s
        | some l =>
          let s := s.setConn { c with held := c.held.filter (fun p => !sameMsg k p || 2 ^ 31 ≤ psnDist p.psn k.psn) }
          (s.applyCtrl slot k.src k.msg l host).ctrlDeliver id slot host fuel

/-- A CTRL packet of a subtype that travels on the window: accepted, and what it lets through is applied. -/
def State.gftCtrl (s : State) (hf sub : Nat) (host : List Host.Cell) : State :=
  match s.takeCtrl hf sub with
  | none => s
  | some (k, slot, s) =>
    let w := s.onWindow hf slot k
    match w.2 with
    | none => w.1
    | some id => w.1.ctrlDeliver id slot host 1024

def execEpochNak (hf : Nat) (host : List Host.Cell) (s : State) : Host.Outcome State Fault Refusal := .next (s.gftCtrl hf 4 host)
def execEpochReady (hf : Nat) (host : List Host.Cell) (s : State) : Host.Outcome State Fault Refusal := .next (s.gftCtrl hf 5 host)
def execEpochCommit (hf : Nat) (host : List Host.Cell) (s : State) : Host.Outcome State Fault Refusal := .next (s.gftCtrl hf 6 host)
def execPeerLoss (hf : Nat) (host : List Host.Cell) (s : State) : Host.Outcome State Fault Refusal := .next (s.gftCtrl hf 7 host)
def execPeerBack (hf : Nat) (host : List Host.Cell) (s : State) : Host.Outcome State Fault Refusal := .next (s.gftCtrl hf 8 host)
def execLayoutReq (hf : Nat) (host : List Host.Cell) (s : State) : Host.Outcome State Fault Refusal := .next (s.gftCtrl hf 9 host)
def execLayout (hf : Nat) (host : List Host.Cell) (s : State) : Host.Outcome State Fault Refusal := .next (s.gftCtrl hf 10 host)

/-! ### Rows across modules (R340, R341) -/

/-- SWEEP_COUNT of a table's WRITER; zero for a frozen table. -/
def State.sweepOf (s : State) (n : Nat) : Nat :=
  match s.writerOf n with
  | some w => (s.rd (Reg.UP_JOB_SWEEP_LO w)).toNat
  | none => 0

/-- One row of a response: its 16-byte tag and the bytes a gather reads. A request that names no row here has status 2, an
uncorrectable row status 1. -/
def State.answerRow (s : State) (slot n v r : Nat) (host : List Host.Cell) : State × List Byte :=
  let tag := fun (w st : Nat) => [r, r / 2 ^ 32 % 256 + n * 256 + 2 ^ 20 * v + 2 ^ 21 * w + 2 ^ 24 * st, s.sweepOf n, 0].flatMap (toBytes 4)
  if !s.tblValid n || s.rowsOf n ≤ r || !s.ownsRow slot n r then (s, tag 0 2) else
  let x := s.lookUp slot n v r 1
  let d := x.1.fetchRow (s.homeOf n r) n x.2 host
  (d.1, tag x.2.width (b2n d.2.2) ++ d.2.1)

/-- The requests of a ROW_REQ: table, version slot and row. -/
def reqRows (l : List Byte) : List (Nat × Nat × Nat) :=
  ((List.range (l.length / 16)).map (fun i => (payloadWord l (4 * i) % 4096, payloadWord l (4 * i) / 4096 % 2,
    payloadWord l (4 * i + 1) + 2 ^ 32 * (payloadWord l (4 * i + 2) % 256))))

/-- A ROW_REQ answered. Its unused entries, which follow the last request, are table 0 row 0 repeated and are not answered. -/
def State.answerRows (s : State) (hf slot : Nat) (k : GftPacket) (host : List Host.Cell) : State :=
  let rows := (reqRows k.payload).take (min 64 k.handle)
  let r := rows.foldl (fun (acc : State × List Byte) e =>
    let d := acc.1.answerRow slot e.1 e.2.1 e.2.2 host
    (d.1, acc.2 ++ d.2)) (s, [])
  let h := { r.1.header slot k.src tRowRsp k.handle k.msg (r.1.epochOf slot) with }
  if r.1.peerValid slot k.src then r.1.sendRsp hf (some slot) (cutMessage h r.1.maxPayload (r.2.length / r.1.maxPayload + 1) 0 (pad64 r.2)) else r.1

/-- The copies in banks that a ROW_REQ of a slot reads: the agent that reads each, its address and its size. -/
def State.rowSpans (s : State) (slot : Nat) (k : GftPacket) : List (Agent × Nat × Nat) :=
  ((reqRows k.payload).take (min 64 k.handle)).filterMap (fun e =>
    if !s.tblValid e.1 || s.rowsOf e.1 ≤ e.2.2 || !s.ownsRow slot e.1 e.2.2 then none
    else
      let l := s.locate e.1 e.2.1 e.2.2
      if l.1 < bankEnd then some (s.rowAgent (tallyKey e.1 e.2.1 e.2.2) l.1, l.1, gatherBytes l.2 (s.dimOf e.1)) else none)
/-- Whether every bank under a ROW_REQ answers now, and the wakes that its reads start (R220, R222). -/
def State.rowsReady (s : State) (slot : Nat) (k : GftPacket) : Bool := (s.rowSpans slot k).all (fun e => s.spanReady e.1 false e.2.1 e.2.2)
def State.wakeRows (s : State) (slot : Nat) (k : GftPacket) : State := (s.rowSpans slot k).foldl (fun s e => s.wakeSpan e.1 false e.2.1 e.2.2) s

/-- Row requests that waited for the end of a sweep, or for a bank, answered once neither holds them. -/
def State.releaseRows (s : State) (host : List Host.Cell) : State :=
  s.heldRows.foldl (fun s h =>
    if (reqRows h.packet.payload).any (fun r => s.tblValid r.1 && s.sweptBy r.1 none) then s
    else if !s.rowsReady h.slot h.packet then s.wakeRows h.slot h.packet
    else State.answerRows { s with heldRows := s.heldRows.filter (fun x => x ≠ h) } h.hf h.slot h.packet host) s

/-- ROW_REQ: served by the owner, or held while a WRITER of a table it names sweeps (R341) or a bank it reads makes it wait; with no packet
waiting, the held ones that need wait no longer are served. -/
def State.gftRowReq (s : State) (hf : Nat) (host : List Host.Cell) : State :=
  match s.takeRx hf (fun k => k.typ = tRowReq) with
  | none => s.releaseRows host
  | some (k, s) =>
    match s.slotOfGroup k.group with
    | none => s
    | some slot =>
      let e := s.epochOk hf slot k false
      if !e.2 then e.1
      else if (reqRows k.payload).any (fun r => e.1.tblValid r.1 && e.1.sweptBy r.1 none) || !e.1.rowsReady slot k then
        { e.1.wakeRows slot k with heldRows := e.1.heldRows ++ [{ hf := hf, slot := slot, packet := k }] }
      else e.1.answerRows hf slot k host

def execRowReq (hf : Nat) (host : List Host.Cell) (s : State) : Host.Outcome State Fault Refusal := .next (s.gftRowReq hf host)

/-- One row of a response given to the gather that waits for it. -/
def State.rowArrives (s : State) (r : RowReq) (n v row w status sweep : Nat) (bytes : List Byte) : State :=
  match (s.hoist r.hoist).find? (fun c => c.id = r.cmd) with
  | none => s
  | some c =>
    let t := if s.writerOf n = some r.slot then (s, decide (s.sweepOf n = sweep)) else s.expectTag r.slot c.request n sweep
    let bad := !t.2 || v ≠ c.vsn
    t.1.setHCmd r.hoist { c with rows := c.rows.map (fun x =>
      if x.tier = 3 && x.row = row && !x.arrived then { x with arrived := true, width := w, bytes := bytes, poisoned := status ≠ 0, versionBad := bad } else x) }

/-- The rows of a response, one after another. -/
def State.rowsArrive (s : State) (r : RowReq) : Nat → List Byte → State
  | 0, _ => s
  | fuel + 1, l =>
    let w1 := payloadWord l 1
    let n := bitsOf w1 8 12
    let w := bitsOf w1 21 2
    let st := bitsOf w1 24 8
    let size := if st = 2 then 0 else gatherBytes w (s.dimOf n)
    (s.rowArrives r n (bitsOf w1 20 1) (payloadWord l 0 + 2 ^ 32 * (w1 % 256)) w st (payloadWord l 2) ((l.drop 16).take size)).rowsArrive r fuel (l.drop (16 + size))

/-- ROW_RSP: a packet of a response; the complete response returns its rows and frees the request's tag (R329, R340). -/
def State.gftRowRsp (s : State) (hf : Nat) : State :=
  match s.takeRx hf (fun k => k.typ = tRowRsp) with
  | none => s
  | some (k, s) =>
    match s.rowReqs.find? (fun r => r.id = k.msg && r.peer = k.src && r.sent) with
    | none => s
    | some r =>
      let e := s.epochOk hf r.slot k false
      if !e.2 then e.1 else
      let got := if r.got.any (fun p => p.off = k.off) then r.got else r.got ++ [k]
      match assemble got k with
      | none => { e.1 with rowReqs := e.1.rowReqs.map (fun q => if q.id = r.id then { q with got := got } else q) }
      | some l =>
        let s : State := { e.1 with rowReqs := e.1.rowReqs.filter (fun q => q.id ≠ r.id) }
        (s.freeUser (.rows r.id)).rowsArrive r r.rows.length l

def execRowRsp (hf : Nat) (s : State) : Host.Outcome State Fault Refusal := .next (s.gftRowRsp hf)

end Sys2Proof.Machine
end

