-- ==== Sys2Proof/Machine/Prospect.lean ====
section
/-! DEFINITION. The prospectors (R281 to R286) and the returns of off-loaded activations (R295, R296). -/

namespace Sys2Proof.Machine

/-- Device address of the step list of a step in a panel's ring (R281). -/
def State.stepList (s : State) (p step : Nat) : Nat :=
  (s.rd (Reg.PS_RING_LO p)).toNat + 2 ^ 32 * s.fld (Reg.PS_RING_HI p) 0 24 + step % max 1 (s.fld (Reg.PS_RING_SLOTS p) 0 8) * 1024
def State.lookahead (s : State) (p : Nat) : Nat := s.fld (Reg.PS_CTL p) 0 3
/-- The step counter of a slot. -/
def State.stepOf (s : State) (slot : Nat) : Nat := s.rd2 (Reg.PN_JOB_STEP_LO slot) (Reg.PN_JOB_STEP_HI slot)
/-- Whether a slot of the ring is ready for a step: READY is set and STEP matches. -/
def listReady (l : List Byte) (step : Nat) : Bool := bitOf (payloadWord l 3) 0 && payloadWord l 0 + 2 ^ 32 * payloadWord l 1 = step
/-- The list records of a step list, four words each. -/
def listRecords (l : List Byte) : List (List Nat) :=
  (List.range (min 60 (bitsOf (payloadWord l 2) 0 6))).map (fun i => (List.range 4).map (fun j => payloadWord l (16 + 4 * i + j)))
def isReturn (r : List Nat) : Bool := bitOf (r.getD 0 0) 31

/-- The entries of the index list that a list record names: table and rows. -/
def State.listRows (s : State) (p : Nat) (r : List Nat) (host : List Host.Cell) : State × List (Nat × Nat) :=
  let a := r.getD 1 0 + 2 ^ 32 * (r.getD 2 0 % 2 ^ 24)
  let n := r.getD 0 0 % 4096
  let d := s.readDev (.owner 3 p) a (8 * r.getD 3 0) host
  (d.1, (List.range (r.getD 3 0)).map (fun k => (n, payloadWord d.2.1 (2 * k) + 2 ^ 32 * (payloadWord d.2.1 (2 * k + 1) % 256))))

/-- The spans of the index lists that a step's slot names. -/
def State.listSpans (s : State) (p step : Nat) : List (Nat × Nat) :=
  ((listRecords (s.bytes (s.stepList p step) 1024)).filter (fun e => !isReturn e)).map (fun r =>
    (r.getD 1 0 + 2 ^ 32 * (r.getD 2 0 % 2 ^ 24), 8 * r.getD 3 0))

/-- The rows that a step's list names. -/
def State.rowsOfStep (s : State) (p step : Nat) (host : List Host.Cell) : State × List (Nat × Nat) :=
  let r := s.readDev (.owner 3 p) (s.stepList p step) 1024 host
  if !listReady r.2.1 step then (r.1, []) else
  ((listRecords r.2.1).filter (fun e => !isReturn e)).foldl (fun acc e =>
    let x := acc.1.listRows p e host
    (x.1, acc.2 ++ x.2)) (r.1, [])

/-- The rows of the steps between now and step s + d: the exclusion filter's keys (R282). -/
def State.filterKeys (s : State) (p step d : Nat) (host : List Host.Cell) : State × List (Nat × Nat) :=
  (List.range d).foldl (fun acc i =>
    let x := acc.1.rowsOfStep p (step + i) host
    (x.1, acc.2 ++ x.2)) (s, [])

/-- A free span of `lines` lines in a staging bank of a panel for one home hoist and one step. -/
def State.stageSpace (s : State) (p home step lines : Nat) : Option Nat :=
  (s.banksOf 3 p).findSome? (fun b =>
    let here := s.staged.filter (fun e => bankOf e.addr = b)
    if here.any (fun e => s.homeOfKey e.key ≠ home || e.step ≠ step) then none else
    let next := here.foldl (fun a e => max a (e.addr % 0x18000 / 64 + e.lines)) 0
    if next + lines ≤ 1536 then some (0x18000 * b + 64 * next) else none)

/-- One entry of a list for step s + d considered for staging (R282). The filter's false positives are free values. -/
def State.stageEntry (s : State) (p slot step : Nat) (soon : List (Nat × Nat)) (e : Nat × Nat) : State :=
  let n := e.1
  let r := e.2
  if !s.tblValid n || s.rowsOf n ≤ r || s.homeOf n r / 16 ≠ p || !s.ownsRow slot n r then s else
  let k := tallyKey n (s.curVsn n) r
  let at_ := s.locate n (s.curVsn n) r
  if tierOf at_.1 = 0 || s.staged.any (fun x => x.key = k) then s else
  let f := s.draw
  let hit := soon.contains e || (soon ≠ [] && f.1 % 2 = 1)
  if (s.writerOf n).isSome && hit then f.2.count (Reg.PS_SKIPS p) 0 16 1 else
  let s := f.2
  let lines := slotBytes at_.2 (s.dimOf n) (s.stateKind n) / 64
  match s.stageSpace p (s.homeOf n r) step lines with
  | none => s.count (Reg.PS_SKIPS p) 16 16 1
  | some a =>
    if 65536 ≤ (s.staged.filter (fun x => x.panel = p)).length then s.count (Reg.PS_SKIPS p) 16 16 1
    else { s with staged := s.staged ++ [{ key := k, step := step, panel := p, addr := a, lines := lines }] }

/-- The slot of step s + d read in its turn: used if it is ready, otherwise RING_LATE (R281). -/
def State.slotRead (s : State) (p d : Nat) (host : List Host.Cell) : State :=
  if 4 ≤ p || s.lookahead p < d || d ≠ s.fld (Reg.PS_STATE p) 13 3 + 1 then s else
  let slot := s.prospectSlot p
  let step := s.stepOf slot + d
  let r := s.readDev (.owner 3 p) (s.stepList p step) 1024 host
  if !listReady r.2.1 step then r.1.setStatus (Reg.PS_STATUS p) 0 .EM_LIST_LATE .info (srcPanel p) [slot, step]
  else
    let spans := (List.range (d + 1)).flatMap (fun i => s.listSpans p (step - d + i))
    if !s.spansReady (.owner 3 p) false spans then s.wakeSpans (.owner 3 p) false spans else
    let soon := r.1.filterKeys p (step - d) d host
    let rows := soon.1.rowsOfStep p step host
    let s := (rows.2.eraseDups).foldl (fun s e => s.stageEntry p slot step soon.2 e) rows.1
    (s.setFld (Reg.PS_STATE p) 13 3 d).showStaged p

def execProspectSlotRead (panel d : Nat) (host : List Host.Cell) (s : State) : Host.Outcome State Fault Refusal :=
  .next (s.slotRead panel d host)

/-- PROSPECT_RETRY: 10 µs after a slot was found late. -/
def State.slotRetry (s : State) (p d : Nat) (host : List Host.Cell) : State :=
  if s.bit (Reg.PS_STATUS p) 0 then s.slotRead p d host else s

def execProspectRetry (panel d : Nat) (host : List Host.Cell) (s : State) : Host.Outcome State Fault Refusal :=
  .next (s.slotRetry panel d host)

/-- PROSPECT_STAGE_ROW: the row at an index of a panel's staging is read whole into its staging bank. -/
def State.stageRow (s : State) (p index : Nat) (host : List Host.Cell) : State :=
  match (s.staged.filter (fun e => e.panel = p))[index]? with
  | none => s
  | some e =>
    if e.landed then s else
    let n := keyTable e.key
    let at_ := s.locate n (keyVsn e.key) (keyRow e.key)
    let size := slotBytes at_.2 (s.dimOf n) (s.stateKind n)
    let ag := s.rowAgent e.key at_.1
    if !s.spanReady ag false at_.1 size || !s.spanReady (.owner 3 p) true e.addr size then
      (s.wakeSpan ag false at_.1 size).wakeSpan (.owner 3 p) true e.addr size
    else
    let r := s.readDev ag at_.1 size host
    let s := r.1.writeDev (.owner 3 p) e.addr r.2.1
    State.showStaged { s with staged := s.staged.map (fun x => if x = e then { x with landed := true, stale := x.stale || r.2.2 } else x) } p

def execProspectStageRow (panel index : Nat) (host : List Host.Cell) (s : State) : Host.Outcome State Fault Refusal :=
  .next (s.stageRow panel index host)

/-- One staged row handed over: a tally entry in face, or dropped (R284). -/
def State.handStaged (s : State) (e : Staged) : State × Bool :=
  let n := keyTable e.key
  let old := s.probe e.key
  let w := match old with
    | some (_, t) => t.width
    | none => s.baseClass n
  let t : TallyE := { key := e.key, tier := 0, width := w, cand := false, loc := e.addr / 64
                      pop := (old.map (fun x => x.2.pop)).getD 1, reloc := (old.bind (fun x => x.2.reloc)) }
  if e.stale || !e.landed then (s, false) else s.insertTally t

/-- Order 7: rows staged for the next step get face entries and their staging banks pass to the home hoists (R284). A ring slot that
no longer matches drops its step (R285). The keys handed over. -/
def State.prospectHandover (s : State) (slot : Nat) : State × List Nat :=
  (s.prospectPanels slot).foldl (fun (acc : State × List Nat) p =>
    let s := acc.1
    let step := s.stepOf slot + 1
    let r := s.readDev (.owner 3 p) (s.stepList p step) 1024 []
    let s := r.1.setFld (Reg.PS_STATE p) 13 3 (s.fld (Reg.PS_STATE p) 13 3 - 1)
    if !listReady r.2.1 step then (s.dropStaged p (fun e => e.step ≤ step), acc.2) else
    let due := s.staged.filter (fun e => e.panel = p && e.step ≤ step)
    let h := due.foldl (fun (a : State × List Staged) e =>
      let d := if e.step = step then a.1.handStaged e else (a.1, false)
      (d.1, if d.2 then a.2 ++ [e] else a.2)) (s, [])
    let s := h.1.dropStaged p (fun e => e.step ≤ step && !h.2.contains e)
    let s := ((h.2.map (fun e => (bankOf e.addr, s.homeOfKey e.key))).eraseDups).foldl
      (fun s b => s.handOwner (.prospector p) b.1 (BitVec.ofNat 32 (2 + 8 * b.2))) s
    let s : State := { s with staged := s.staged.filter (fun e => !h.2.contains e) }
    (s.showStaged p, acc.2 ++ h.2.map (·.key))) (s, [])

/-! ### Returns (R295, R296) -/

/-- The return records of a panel's current step. -/
def State.returnRecords (s : State) (p : Nat) : State × List (List Nat) :=
  let step := s.stepOf (s.prospectSlot p)
  let r := s.readDev (.owner 3 p) (s.stepList p step) 1024 []
  (r.1, if listReady r.2.1 step then (listRecords r.2.1).filter isReturn else [])

/-- A prospector's progress through its return records set. -/
def State.setReturns (s : State) (p : Nat) (t : ReturnSt) : State := { s with returns := s.returns.put {} p t }

/-- The next return record taken up (R296 orders 1 and 2): FREE is taken, and the scheduler lends the bank. A bank reused without FREE_EN is
skipped. -/
def State.takeReturn (s : State) (p : Nat) (t : ReturnSt) (r : List Nat) : State :=
  let slot := s.prospectSlot p
  let m := bitsOf (r.getD 0 0) 0 14
  let b := m * 4 + bitsOf (r.getD 0 0) 14 2
  let freeEn := bitOf (r.getD 3 0) 23
  let free := m * 256 + bitsOf (r.getD 3 0) 24 8
  let t := { t with served := t.served + 1, banks := t.banks ++ [b] }
  if t.banks.dropLast.contains b && !freeEn then
    ((s.setReturns p t).bumpToken (m * 256 + bitsOf (r.getD 0 0) 16 8) 1 true).raise .RETURN_SKIPPED .info (srcPanel p) [slot, b]
  else if freeEn && (s.token free).count = 0 then s
  else
    let s := if freeEn then s.setToken free { s.token free with count := (s.token free).count - 1 } else s
    (s.handOwner .firmware b (BitVec.ofNat 32 (3 + 8 * p))).setReturns p { t with active := t.active ++ [⟨b, r, none⟩] }

/-- A return record in progress served as far as it can be now (R296 orders 3 to 5): once the bank is the prospector's the data are read and
the bank goes back; once it is the job slot's again, READY is incremented. -/
def State.serveReturn (s : State) (p : Nat) (t : ReturnSt) (a : ReturnAct) (host : List Host.Cell) : State :=
  let slot := s.prospectSlot p
  let src := a.words.getD 1 0 + 2 ^ 32 * (a.words.getD 2 0 % 2 ^ 24)
  let n := min 0x18000 (bitsOf (a.words.getD 3 0) 0 17)
  if s.bit (Reg.BK_OWNER a.bank) 10 then s
  else match a.landed with
  | none =>
    let spans := [(0x18000 * a.bank, n)]
    if !s.spansReady (.owner 3 p) true spans then s.wakeSpans (.owner 3 p) true spans else
    let d := s.readDev (.owner 3 p) src n host
    let s := (d.1.writeDev (.owner 3 p) (0x18000 * a.bank) d.2.1).handOwner .firmware a.bank (BitVec.ofNat 32 (1 + 8 * slot))
    s.setReturns p { t with active := t.active.map (fun x => if x = a then { x with landed := some d.2.2 } else x) }
  | some err =>
    let ready := bitsOf (a.words.getD 0 0) 0 14 * 256 + bitsOf (a.words.getD 0 0) 16 8
    ((s.bumpToken ready 1 err).count (Reg.PS_RET p) 16 16 1).setReturns p { t with active := t.active.erase a }

/-- PROSPECT_RETURN: the return record at an index of those in progress goes on, or with none there the next one is taken up while fewer
than RET_DEPTH are. -/
def State.prospectReturn (s : State) (p index : Nat) (host : List Host.Cell) : State :=
  if 4 ≤ p || s.lookahead p = 0 then s else
  let step := s.stepOf (s.prospectSlot p)
  let t := s.returns.get {} p
  let t := if t.step = step || t.active ≠ [] then t else { step := step }
  match t.active[index]? with
  | some a => s.serveReturn p t a host
  | none =>
    if t.step ≠ step || max 1 (min 4 (s.fld (Reg.PS_RET p) 0 3)) ≤ t.active.length then s else
    let r := s.returnRecords p
    match r.2[t.served]? with
    | none => r.1
    | some e => r.1.takeReturn p t e

def execProspectReturn (at_ : ReturnAt) (host : List Host.Cell) (s : State) : Host.Outcome State Fault Refusal :=
  .next (s.prospectReturn at_.panel at_.index host)

end Sys2Proof.Machine
end

