-- ==== Sys2Proof/Machine/Matrix.lean ====
section
/-! DEFINITION. The matrix instructions at issue (R55 to R57, R160 to R165): claims, checks and queueing. -/

namespace Sys2Proof.Machine

/-! ### Claims (R55, R161) -/

/-- Units that stand in the way of a claim: the whole array meets every quadrant. -/
def rivals (u : Nat) : List Nat := if u = 4 then [0, 1, 2, 3, 4] else [u, 4]

/-- Whether another task holds part of what a unit needs. -/
def State.heldByOther (s : State) (m u k : Nat) : Bool :=
  (rivals u).any (fun r => (s.engine m r).owner.isSome && (s.engine m r).owner ≠ some k)

/-- The unit that a matrix instruction of a task names by its Q field: Q is zero in full mode (R160). -/
def State.unitOf (s : State) (m k q : Nat) : Option Nat :=
  if (s.engine m 4).owner = some k then (if q = 0 then some 4 else none)
  else if (s.engine m q).owner = some k then some q else none

/-- Stage S5 has been reached (R438). -/
def State.fullService (s : State) : Bool := s.fld Reg.PC_BOOT 0 3 = 5

/-- Whether a config word is refused with MA_FORMAT: its own fields, or fields that differ from the instruction's (R53, R161, R438). -/
def State.cfgBad (s : State) (cfg u : Nat) : Bool :=
  !(bitOf cfg 14 == decide (u < 4)) || (decide (u < 4) && bitsOf cfg 15 2 ≠ u) || (u = 4 && bitsOf cfg 15 2 ≠ 0) ||
  cfgShape cfg = 3 || 10 ≤ bitsOf cfg 0 4 || 10 ≤ bitsOf cfg 4 4 || 10 ≤ bitsOf cfg 8 4 ||
  !pairAccepted (cfgA cfg) (cfgB cfg) || bitsOf cfg 12 2 = 0 || (decide (1 < bitsOf cfg 12 2) && !s.fullService)

/-- A claim made (R55, R161): the unit's engine starts afresh. -/
def State.claimUnit (s : State) (m u k cfg : Nat) : State :=
  (s.setEngine m u { owner := some k, order := s.tick, cfg := cfg, pass := bitsOf cfg 12 2 }).numbered

/-- A matrix refusal: a deferred fault of a command with no token (R57, R150). -/
def State.refuseMatrix (s : State) (x k : Nat) (t : Task) (i : Insn) (code : Code) : State :=
  s.deferFault code (s.command x k t i 0 0) 0 0

/-- The three claims that a task's own claims forbid (R161). -/
def State.ownInTheWay (s : State) (m u k : Nat) : Bool :=
  let mine := fun v => (s.engine m v).owner = some k
  (u = 4 && (mine 0 || mine 1 || mine 2 || mine 3)) || (u ≠ 4 && (mine 4 || mine u))

/-- What a claim of a unit does when it can be decided: refused, made, or queued behind the owner's own commands. -/
def State.claimNow (s : State) (x k : Nat) (t : Task) (i : Insn) (m u cfg : Nat) : State × Task :=
  if s.cfgBad cfg u then (s.refuseMatrix x k t i .MA_FORMAT, t)
  else if s.ownInTheWay m u k then (s.refuseMatrix x k t i .MA_ORDER, t)
  else if neededQuads u cfg &&& s.fld (Reg.MA_FENCE m) 0 4 ≠ 0 then (s.refuseMatrix x k t i .MA_FENCED, t)
  else if u = 4 && (s.engine m 4).owner = some k then
    let e := s.engine m 4
    let c := s.command x k t i 0 0
    let t := t.issuedCmd c
    -- the task first, so that a claim renewed at once leaves CMD_OUT again
    let s := (s.numbered.setTask k t).putEngine m 4 { e with queue := e.queue ++ [.mcfg c cfg] }
    (s, s.task k)
  else (s.claimUnit m u k cfg, t)

/-- Unit named by the QUAD and Q fields of MCFG. -/
def mcfgUnit (quad : Bool) (q : Fin 4) : Nat := if quad then q.val else 4

/-- Function bits of MCFG. -/
def mcfgFn (rel quad : Bool) (q : Fin 4) : Nat := b2n rel + q.val * 2 + b2n quad * 8

/-- Commands that one array's queue holds (R56, R160). -/
def arrayLimit : Nat := 16

def execMcfg (x : Nat) (a : SReg) (quad : Bool) (q : Fin 4) (s : State) : Host.Outcome State Fault Refusal :=
  let i : Insn := { w0 := encWord 0x30 0 a.val 0 (mcfgFn false quad q) }
  .next (s.issue x i false (sregs [a.val]) []
    (fun s k t =>
      let m := motifOf x
      let u := mcfgUnit quad q
      let cfg := (t.sreg a.val).toNat
      -- in full mode Q must be zero
      if !quad && q.val ≠ 0 then .go (s.refuseMatrix x k t i .MA_FORMAT) t none
      else if s.heldByOther m u k && !s.ownInTheWay m u k then .stay s .waitArray (.claim cfg u)
      else if arrayLimit ≤ s.queueFill m then .stay s .waitData .none
      else let r := s.claimNow x k t i m u cfg; .go r.1 r.2 none))

/-- MCFG REL once the task's queued commands are done: the claim ends; data in a set are discarded with MA_ORDER (R55, R161). -/
def execMcfgRel (x : Nat) (quad : Bool) (q : Fin 4) (s : State) : Host.Outcome State Fault Refusal :=
  let i : Insn := { w0 := encWord 0x30 0 0 0 (mcfgFn true quad q) }
  .next (s.issue x i false [] []
    (fun s k t =>
      let m := motifOf x
      let u := mcfgUnit quad q
      let e := s.engine m u
      if !quad && q.val ≠ 0 then .go (s.refuseMatrix x k t i .MA_ORDER) t none
      else if e.owner ≠ some k then
        if e.owner.isSome then .stay s .waitArray (.array u) else .go (s.refuseMatrix x k t i .MA_ORDER) t none
      else if !e.quiet then .stay s .waitData .none
      else
        let s := s.endClaim m u
        .go (if e.holdsData then s.refuseMatrix x k t i .MA_ORDER else s) t none))

/-- ARRAY_CLAIM_GRANT: the claim that held a context up has ended. A waiting MCFG makes its claim; any other command issues again. -/
def State.claimGrant (s : State) (x : Nat) : State :=
  match (s.context x).task with
  | none => s
  | some k =>
    let t := s.task k
    let m := motifOf x
    match t.wait with
    | .claim cfg u =>
      if s.heldByOther m u k then s else
      let fn := if u = 4 then mcfgFn false false 0 else 8 + 2 * u
      let r := s.claimNow x k t { w0 := encWord 0x30 0 0 0 fn } m u cfg
      (r.1.setTask k { r.2 with wait := .none, pc := t.pc + 4#32, issued := t.issued + 1#32 }).setContext x
        { s.context x with phase := .ready }
    | .array u =>
      if s.heldByOther m u k then s
      else (s.setTask k { t with wait := .none }).setContext x { s.context x with phase := .ready }
    | _ => s

def execArrayClaimGrant (x : Nat) (s : State) : Host.Outcome State Fault Refusal :=
  .next (s.claimGrant x)

/-! ### Commands of the owner -/

/-- A command of a claim's owner: it waits for another task's claim, is refused, waits for room, or joins the queue (R55 to R57,
R160, R161). `check` gives the refusal of the unit under the configuration it will meet; `make` the queued command; `refuses` says that a
quadrant that another task holds refuses the command (R160). -/
def matrixIssue (x q : Nat) (i : Insn) (tid word : Nat) (check : State → Nat → Option Code) (make : CmdInfo → MCmd)
    (load refuses : Bool) (s : State) (k : Nat) (t : Task) : Issue :=
  let m := motifOf x
  match s.unitOf m k q with
  | none =>
    if s.heldByOther m q k && !(refuses && (s.engine m 4).owner = none) then .stay s .waitArray (.array q)
    else .go (s.deferFault .MA_ORDER (s.command x k t i word tid) 0 0) t none
  | some u =>
    let e := s.engine m u
    if neededQuads u e.cfgNext &&& s.fld (Reg.MA_FENCE m) 0 4 ≠ 0 then .go (s.deferFault .MA_FENCED (s.command x k t i word tid) 0 0) t none
    else
      match check s u with
      | some code => .go (s.deferFault code (s.command x k t i word tid) 0 0) t none
      | none =>
        if arrayLimit ≤ s.queueFill m then .stay s .waitData .none else
        let c := s.command x k t i word tid
        let s := (s.numbered.setTask k (t.issuedCmd c)).putEngine m u
          { e with queue := e.queue ++ [make c], loadQueued := e.loadQueued || load }
        .go s (s.task k) none

def execMpass (x : Nat) (n : BitVec 2) (q : Fin 4) (s : State) : Host.Outcome State Fault Refusal :=
  let i : Insn := { w0 := encWord 0x31 0 0 0 (n.toNat + q.val * 8) }
  .next (s.issue x i false [] []
    (fun s k t => matrixIssue x q.val i 0 0
      (fun s _ => if n = 0#2 || (1#2 < n && !s.fullService) then some .MA_FORMAT else none) (fun c => .mpass c n.toNat) false true s k t))

/-- A view at BASE + s[b] (R162). -/
def Desc.shifted (d : Desc) (off : Word) : Desc := ⟨setBits d.raw 0 56 (d.base + off.toNat)⟩

/-- Issue checks of a load's or stream's source (R157, R158). -/
def State.sourceFault (s : State) (m slot : Nat) (d : Desc) : Option (Code × Nat) :=
  firstFailing [
    checkIf (d.invalid (if d.kind = 0 then 2 else 1)) .DESC_INVALID,
    checkIf (!s.scaleViewOk m slot d) .SRF_RANGE,
    s.protectSpans slot false d.spans]

/-- Whether a source view has the wrong form for a format (R162). -/
def wrongView (d : Desc) (f : Fmt) : Bool := d.kind ≠ 0 || d.qnt || d.ext2 ≠ 1 || d.fmt ≠ f

def execMlds (x : Nat) (a : TReg) (b : SReg) (tr : Bool) (q : Fin 4) (s : State) : Host.Outcome State Fault Refusal :=
  let i : Insn := { w0 := encWord 0x32 0 a.val b.val (b2n tr + q.val * 2) }
  .next (s.issue x i false (tregs [a.val] ++ sregs [b.val]) []
    (fun s k t =>
      let d := Desc.shifted ⟨(t.treg a.val).toNat⟩ (t.sreg b.val)
      match s.sourceFault (motifOf x) t.slot d with
      | some e => .fault e.1 e.2 0
      | none => matrixIssue x q.val i 0 0
          (fun s u =>
            let cfg := (s.engine (motifOf x) u).cfgNext
            if wrongView d (cfgA cfg) then some .MA_FORMAT
            else if unitRows u cfg < (if tr then d.ext0 else d.ext1) || unitCols u cfg < (if tr then d.ext1 else d.ext0) then some .MA_SHAPE
            else none)
          (fun c => .mlds c d.raw tr) true false s k t))

def execMstr (x : Nat) (a : TReg) (b : SReg) (tr : Bool) (q : Fin 4) (c0 : BitVec 7) (s : State) : Host.Outcome State Fault Refusal :=
  let i : Insn := { w0 := encWord 0x33 0 a.val b.val (b2n tr + q.val * 2 + c0.toNat * 8) }
  .next (s.issue x i false (tregs [a.val] ++ sregs [b.val]) []
    (fun s k t =>
      let d := Desc.shifted ⟨(t.treg a.val).toNat⟩ (t.sreg b.val)
      match s.sourceFault (motifOf x) t.slot d with
      | some e => .fault e.1 e.2 0
      | none => matrixIssue x q.val i 0 0
          (fun s u =>
            let e := s.engine (motifOf x) u
            if wrongView d (cfgB e.cfgNext) then some .MA_FORMAT
            else if unitCols u e.cfgNext < (if tr then d.ext1 else d.ext0) || setColumns u < c0.toNat + (if tr then d.ext0 else d.ext1) then
              some .MA_SHAPE
            else if !e.loadQueued then some .MA_ORDER
            else none)
          (fun c => .mstr c d.raw tr c0.toNat) false false s k t))

def execMswap (x : Nat) (q : Fin 4) (s : State) : Host.Outcome State Fault Refusal :=
  let i : Insn := { w0 := encWord 0x34 0 0 0 (q.val * 2) }
  .next (s.issue x i false [] []
    (fun s k t => matrixIssue x q.val i 0 0
      (fun s u => if (s.engine (motifOf x) u).undrained then some .MA_ORDER else none) (fun c => .mswap c) false false s k t))

/-- Scale entries that an MDRN with SC reads (R163). -/
def mdrnEntries (u : Nat) (d : Desc) (cmd func : Nat) : List Nat :=
  let sh := drainShape u d func
  (List.range (if fnSROW func then sh.1 else sh.2)).map (fun i => bitsOf cmd 16 9 + (if fnSROW func then i else bitsOf cmd 9 7 + i))

/-- Issue checks of MDRN (R474). -/
def State.mdrnFault (s : State) (m slot u : Nat) (d : Desc) (cmd func : Nat) : Option (Code × Nat) :=
  firstFailing [
    checkIf (cmd >>> 25 ≠ 0) .ILLEGAL,
    checkIf (d.invalid (if d.kind = 0 then 2 else 1) || (d.kind = 1 && d.ext1 = 0)) .DESC_INVALID,
    checkIf (!s.scaleViewOk m slot d || (fnSC func && (mdrnEntries u d cmd func).any (fun i => !s.ownsScale slot m i))) .SRF_RANGE,
    s.protectSpans slot true d.spans,
    (if fnSTATWR func && d.kind = 0 then s.protectSpans slot true [(d.aux, fullRows u * 8)] else none),
    checkIf (!s.tokenOk m slot cmd) .TOK_RANGE]

/-- The array's own refusals of MDRN (R57, R163, R164, R476). -/
def State.mdrnRefusal (s : State) (m u : Nat) (d : Desc) (cmd func : Nat) : Option Code :=
  let e := s.engine m u
  let sh := drainShape u d func
  if d.kind = 2 || d.qnt || d.fmt ≠ cfgOut e.cfgNext then some .MA_FORMAT
  else if d.kind = 1 && (d.ext0 % fullRows u ≠ 0 || d.ext1 ≠ fullRows u || fnCOLS func) then some .MA_SHAPE
  else if setColumns u < bitsOf cmd 9 7 + sh.2 || fullRows u < sh.1 then some .MA_SHAPE
  else if !e.undrained then some .MA_ORDER
  else if (fnSTAT func || fnONLINE func || fnSTATWR func) && !s.holdsStats m u then some .MA_ORDER
  else none

/-- A destination as MDRN uses it: a memory view's dimension 2 takes no part (R154, R163). -/
def Desc.flat (d : Desc) : Desc := if d.kind = 0 then ⟨setBits d.raw 96 16 1⟩ else d

def execMdrn (x : Nat) (d : TReg) (a b : SReg) (func : BitVec 9) (s : State) : Host.Outcome State Fault Refusal :=
  let q := bitsOf func.toNat 6 2
  let i : Insn := { w0 := encWord 0x35 d.val a.val b.val func.toNat }
  .next (s.issue x i false (tregs [d.val] ++ sregs [a.val, b.val]) []
    (fun s k t =>
      let dst := Desc.flat ⟨(t.treg d.val).toNat⟩
      let cmd := (t.sreg a.val).toNat
      let u := (s.unitOf (motifOf x) k q).getD 4
      match s.mdrnFault (motifOf x) t.slot u dst cmd func.toNat with
      | some e => .fault e.1 e.2 0
      | none => matrixIssue x q i dst.tid cmd
          (fun s u => s.mdrnRefusal (motifOf x) u dst cmd func.toNat)
          (fun c => .mdrn c dst.raw cmd (t.sreg b.val).toNat func.toNat t.flush) false false s k t))

/-! ### MCHK (R165) -/

/-- The result word of MCHK. -/
def State.mchkWord (s : State) (m u failed : Nat) : Word :=
  let e := s.engine m u
  BitVec.ofNat 32 (e.lastStatus + s.fld (Reg.MA_FENCE m) 0 4 * 4 + b2n (s.array m).suspect * 64 + e.lastReplays % 4 * 128 + failed * 512)

/-- MCHK needs a claim but no unfenced quadrant: it reports the drain that fenced one. -/
def mchkIssue (x q : Nat) (i : Insn) (body : State → Nat → Task → Nat → Issue) (s : State) (k : Nat) (t : Task) : Issue :=
  let m := motifOf x
  match s.unitOf m k q with
  | none =>
    if s.heldByOther m q k then .stay s .waitArray (.array q) else .go (s.refuseMatrix x k t i .MA_ORDER) t none
  | some u => if !(s.engine m u).quiet then .stay s .waitData .none else body s k t u

def execMchk (x : Nat) (d : SReg) (q : Fin 4) (s : State) : Host.Outcome State Fault Refusal :=
  let i : Insn := { w0 := encWord 0x36 d.val 0 0 (q.val * 2) }
  .next (s.issue x i false [] (sregs [d.val])
    (mchkIssue x q.val i (fun s _ t u => .go s (t.setS d.val (s.mchkWord (motifOf x) u 0)) none)))

def execMchkSelftest (x : Nat) (d : SReg) (q : Fin 4) (cells : List (Nat × Nat)) (s : State) : Host.Outcome State Fault Refusal :=
  let i : Insn := { w0 := encWord 0x36 d.val 0 0 (1 + q.val * 2) }
  .next (s.issue x i false [] (sregs [d.val])
    (mchkIssue x q.val i (fun s k t u =>
      let m := motifOf x
      if u ≠ 4 || !(s.engine m u).idleSets then .go (s.refuseMatrix x k t i .MA_ORDER) t none
      else
        let f := faultyQuads cells
        let s := if f = 0 then s else (s.fenceQuads m f).footEvent m .fenced false 0 f
        .go s (t.setS d.val (s.mchkWord m u f)) none)))

end Sys2Proof.Machine
end

