-- ==== Sys2Proof/Machine/CoreMem.lean ====
section
/-! DEFINITION. Loads and stores of the stitch cores (R119, R126 to R130, R138, R151) and accesses at a bank port (R210). -/

namespace Sys2Proof.Machine

/-- Bytes a load brings, written into its register; on an error the load writes zeros and poisons it (R151, R213). -/
def Task.loadInto (t : Task) (d : LoadDst) (bs : List Byte) (err : Bool) : Task :=
  let bs := if err then [] else bs
  match d with
  | .s r => let t := t.setS r (BitVec.ofNat 32 (ofBytes bs)); if r = 0 then t else { t with poisonS := t.poisonS.put false r err }
  | .v r => let t := t.setV r (BitVec.ofNat 256 (ofBytes bs)); { t with poisonV := t.poisonV.put false r err }
  | .t r => let t := t.setT r (BitVec.ofNat 512 (ofBytes bs)); { t with poisonT := t.poisonT.put false r err }

/-- The byte of a task's own posted stores at an address, the latest issued before `born` (R130). -/
def State.ownStore (s : State) (k born a : Nat) : Option Byte :=
  (s.posted.filter (fun p => p.key = k && p.id < born)).foldl (fun acc p =>
    match p.bytes.find? (fun e => e.1 = a) with
    | some e => some e.2
    | none => acc) none

/-- Loaded bytes with the task's own earlier stores laid over them (R130). -/
def State.forward (s : State) (k born a : Nat) (bs : List Byte) : List Byte :=
  bs.zipIdx.map (fun e => (s.ownStore k born (a + e.2)).getD e.1)

/-- The parts of a device access, cut where a line ends, each with its ownership check at issue (R128 step 5, R211). -/
def State.checkParts (s : State) (ag : Agent) (write : Bool) (a n : Nat) : List (Nat × Nat × Bool) :=
  if bankEnd ≤ a then [(a, n, true)]
  else (bankSpans a n).map (fun p => (p.1, p.2, s.ownerOk (bankOf p.1) ag write))

/-- The refusals of the parts that fail (R218). -/
def State.refuseParts (s : State) (ag : Agent) (write : Bool) (l : List (Nat × Nat × Bool)) : State :=
  l.foldl (fun s p => if p.2.2 then s else s.notOwned p.1 ag write) s

/-- The parts of an admitted load read now: the accesses passed ownership at issue. -/
def State.readParts (s : State) (l : List (Nat × Nat × Bool)) (host : List Host.Cell) : State × List Byte × Bool :=
  l.foldl (fun acc p =>
    if p.2.2 then
      let r := acc.1.readDev .outside p.1 p.2.1 host
      (r.1, acc.2.1 ++ r.2.1, acc.2.2 || r.2.2)
    else (acc.1, acc.2.1 ++ List.replicate p.2.1 0#8, acc.2.2)) (s, [], false)

/-- The banks under the admitted parts answer now. -/
def State.partsReady (s : State) (write : Bool) (l : List (Nat × Nat × Bool)) : Bool :=
  l.all (fun p => !p.2.2 || s.spanReady .outside write p.1 p.2.1)

/-- The wakes that the admitted parts start. -/
def State.wakeParts (s : State) (write : Bool) (l : List (Nat × Nat × Bool)) : State :=
  l.foldl (fun s p => if p.2.2 then s.wakeSpan .outside write p.1 p.2.1 else s) s

/-- A load at issue: the private window and the motif's own banks answer at once, everything else is outstanding (R119). -/
def loadIssue (x : Nat) (d : LoadDst) (a size : Nat) (off : MemOff) (s : State) (k : Nat) (t : Task) : Issue :=
  if spaceOf off = 0 then
    let o := t.privAddr a size off
    if privOk o size then .go s (t.loadInto d ((List.range size).map (fun i => t.priv.get 0#8 (o.toNat + i))) false) none
    else .fault .PRIV_RANGE (t.sreg a + offsetOf size off).toNat 0
  else
    let addr := t.devAddr a size off
    match s.protect t.slot addr size false with
    | some c => .fault c addr 0
    | none =>
      let parts := s.checkParts (jobAgent t.slot) false addr size
      if inOwnBanks (motifOf x) addr size then
        if s.partsReady false parts then
          let s := s.refuseParts (jobAgent t.slot) false parts
          let r := s.readParts parts []
          .go r.1 (t.loadInto d (r.1.forward k r.1.tick addr r.2.1) r.2.2) none
        else .stay (s.wakeParts false parts) .waitData .none
      else if 8 ≤ t.loads.length then .stay s .waitData .none
      else
        let s := s.refuseParts (jobAgent t.slot) false parts
        .go ({ s.askTags t.slot (.load k s.tick) (s.transactions false addr size) with tick := s.tick + 1 })
          { t with loads := t.loads ++ [⟨d, s.tick, addr, size, parts, motifOf x, false⟩] } none

/-- A store at issue: private bytes at once, device bytes posted (R130). `active` says which of its bytes are written. -/
def storeIssue (x a size : Nat) (off : MemOff) (bs : List Byte) (active : Nat → Bool) (s : State) (k : Nat) (t : Task) : Issue :=
  if spaceOf off = 0 then
    let o := t.privAddr a size off
    if privOk o size then
      .go s { t with priv := bs.zipIdx.foldl (fun m e => if active e.2 then m.put 0#8 (o.toNat + e.2) e.1 else m) t.priv } none
    else .fault .PRIV_RANGE (t.sreg a + offsetOf size off).toNat 0
  else
    let addr := t.devAddr a size off
    match s.protect t.slot addr size true with
    | some c => .fault c addr 0
    | none =>
      let parts := s.checkParts (jobAgent t.slot) true addr size
      let s := s.refuseParts (jobAgent t.slot) true parts
      let cells := (bs.zipIdx.map (fun e => (addr + e.2, e.1))).filter (fun c =>
        active (c.1 - addr) && parts.any (fun p => p.2.2 && decide (p.1 ≤ c.1) && decide (c.1 < p.1 + p.2.1)))
      .go (if cells = [] then s else { s with posted := s.posted ++ [⟨s.tick, k, motifOf x, cells⟩], tick := s.tick + 1 }) t none

def execLdw (x : Nat) (d a : SReg) (off : MemOff) (s : State) : Host.Outcome State Fault Refusal :=
  .next (s.issue x (encMem 0x0A d.val a.val 0 off) false (sregs [a.val]) (sregs [d.val]) (loadIssue x (.s d.val) a.val 4 off))

def execVld (x : Nat) (d : VReg) (a : SReg) (off : MemOff) (s : State) : Host.Outcome State Fault Refusal :=
  .next (s.issue x (encMem 0x20 d.val a.val 0 off) false (sregs [a.val]) (vregs [d.val]) (loadIssue x (.v d.val) a.val 32 off))

def execLdt (x : Nat) (d : TReg) (a : SReg) (off : MemOff) (s : State) : Host.Outcome State Fault Refusal :=
  .next (s.issue x (encMem 0x0C d.val a.val 0 off) false (sregs [a.val]) (tregs [d.val]) (loadIssue x (.t d.val) a.val 64 off))

def execStw (x : Nat) (b a : SReg) (off : MemOff) (s : State) : Host.Outcome State Fault Refusal :=
  .next (s.issue x (encMem 0x0B 0 a.val b.val off) false (sregs [a.val, b.val]) []
    (fun s k t => storeIssue x a.val 4 off (toBytes 4 (t.sreg b.val).toNat) (fun _ => true) s k t))

def execVst (x : Nat) (b : VReg) (a : SReg) (p : PReg) (off : MemOff) (s : State) : Host.Outcome State Fault Refusal :=
  .next (s.issue x (encMem 0x21 p.val a.val b.val off) false (sregs [a.val] ++ vregs [b.val]) []
    (fun s k t => storeIssue x a.val 32 off (toBytes 32 (t.vreg b.val).toNat) (fun i => (t.preg p.val).getLsbD (i / 4)) s k t))

def execStt (x : Nat) (b : TReg) (a : SReg) (off : MemOff) (s : State) : Host.Outcome State Fault Refusal :=
  .next (s.issue x (encMem 0x0D 0 a.val b.val off) false (sregs [a.val] ++ tregs [b.val]) []
    (fun s k t => storeIssue x a.val 64 off (toBytes 64 (t.treg b.val).toNat) (fun _ => true) s k t))

/-- A context that waited on late data is ready again. -/
def State.wakeData (s : State) (x : Nat) : State :=
  if (s.context x).phase = .waitData then s.setContext x { s.context x with phase := .ready } else s

/-- Whether a bank's handover began after an access of that age was admitted. -/
def State.underHandover (s : State) (age b : Nat) : Bool := s.bit (Reg.BK_OWNER b) 10 && decide (age < (s.bank b).since)
/-- Whether a bank's transition from ON began after an access of that age was admitted. -/
def State.underSleep (s : State) (age b : Nat) : Bool :=
  s.bit (Reg.BK_POWER b) 4 && s.fld (Reg.BK_POWER b) 2 2 = 0 && decide (age < (s.bank b).sinceT)

/-- What an access admitted before a handover or transition does completes as if neither ran (R216, R220). -/
def State.admitted (s : State) (age : Nat) (spans : List (Nat × Nat)) (f : State → State) : State :=
  let bs := ((spans.filter (fun p => p.1 < bankEnd)).flatMap (fun p => (bankSpans p.1 p.2).map (fun q => bankOf q.1))).eraseDups
  let hs := bs.filter (s.underHandover age)
  let ts := bs.filter (s.underSleep age)
  let set := fun (v : Bool) (s : State) =>
    ts.foldl (fun s b => s.setBit (Reg.BK_POWER b) 4 v) (hs.foldl (fun s b => s.setBit (Reg.BK_OWNER b) 10 v) s)
  set true (f (set false s))

/-- A load may return when it holds the tags of its transactions (R248), no earlier store or load from its motif goes to the same routers (R13) and no bridge on its way, out or back,
is full (R21). -/
def State.mayReturn (s : State) (k : Nat) (l : PLoad) : Bool :=
  !s.tagWaits (.load k l.born) && !s.behindStore l.motif l.born (s.loadEnds l) && !s.behindLoad l.motif l.born (s.loadEnds l) && s.wayOpen (routerOf l.motif) l.addr l.size true

/-- An outstanding load's data arrive (R119, R151): `host` brings the bytes of a HOST read, `failed` a failed completion. They go to the
register unless a later instruction has written it. -/
def State.loadReturn (s : State) (x index : Nat) (host : List Host.Cell) (failed : Bool) : State :=
  match (s.context x).task with
  | none => s
  | some k =>
    match (s.task k).loads[index]? with
    | none => s
    | some l =>
      if !s.mayReturn k l then s else
      s.admitted l.born (l.parts.map (fun p => (p.1, p.2.1))) fun s =>
      if !s.partsReady false l.parts then s.wakeParts false l.parts else
      let r := s.readParts l.parts (if failed then [] else host)
      let bs := r.1.forward k l.born l.addr r.2.1
      let t := r.1.task k
      let t := { t with loads := t.loads.eraseIdx index }
      ((r.1.setTask k (if l.dead then t else t.loadInto l.dst bs r.2.2)).freeUser (.load k l.born)).wakeData x

def execLoadReturn (x index : Nat) (host : List Host.Cell) (failed : Bool) (s : State) : Host.Outcome State Fault Refusal :=
  .next (s.loadReturn x index host failed)

/-- Cells grouped into runs of consecutive addresses. -/
def cellRuns : List (Nat × Byte) → List (Nat × List Byte)
  | [] => []
  | c :: r =>
    match cellRuns r with
    | (a, bs) :: rest => if a = c.1 + 1 then (c.1, c.2 :: bs) :: rest else (c.1, [c.2]) :: (a, bs) :: rest
    | [] => [(c.1, [c.2])]

/-- Whether two spans of bytes meet. -/
def cellsMeet (p q : List (Nat × Byte)) : Bool := p.any (fun c => q.any (fun d => c.1 = d.1))

/-- A posted store may land when no earlier store of its task touches its bytes and none from its motif goes to the same routers, no
earlier load of its task or motif that is still outstanding reads its bytes (R13, R130), and no bridge on its way is full (R21). -/
def State.mayLand (s : State) (p : Posted) : Bool :=
  let reads := fun (l : PLoad) => decide (l.born < p.id) && p.bytes.any (fun c => l.addr ≤ c.1 && c.1 < l.addr + l.size)
  !s.posted.any (fun q => q.key = p.key && q.id < p.id && cellsMeet q.bytes p.bytes) &&
  !(s.task p.key).loads.any reads && !s.tasks.any (fun t => t.2.loads.any (fun l => l.motif = p.motif && reads l)) &&
  !s.behindStore p.motif p.id (s.storeEnds p) && p.bytes.all (fun c => s.wayOpen (routerOf p.motif) c.1 1 false)

/-- The additions of STOKs whose earlier stores have all completed, in order (R172). -/
def State.applyAdds (s : State) : State :=
  let due := fun (p : PendingAdd) => !s.posted.any (fun q => q.key = p.key && q.id < p.before)
  (s.adds.filter due).foldl (fun s p => s.bumpToken p.addr p.n false) { s with adds := s.adds.filter (fun p => !due p) }

/-- A posted store lands. One that leaves the banks first asks for the tags of its transactions, and lands once it holds them (R248). -/
def State.storeComplete (s : State) (id : Nat) : State :=
  match s.posted.find? (fun p => p.id = id) with
  | none => s
  | some p =>
    if !s.mayLand p then s else
    let runs := cellRuns p.bytes
    let s := if s.holdsTag (.store id) || s.tagWaits (.store id) then s
      else s.askTags (slotOf p.key) (.store id) (runs.flatMap (fun r => s.transactions true r.1 r.2.length))
    if s.tagWaits (.store id) then s else
    s.admitted p.id (runs.map (fun r => (r.1, r.2.length))) fun s =>
    if !runs.all (fun r => s.spanReady .outside true r.1 r.2.length) then
      runs.foldl (fun s r => s.wakeSpan .outside true r.1 r.2.length) s
    else
      let s : State := { s.freeUser (.store id) with posted := s.posted.filter (fun q => q.id ≠ id) }
      (runs.foldl (fun (s : State) r => s.writeDev .outside r.1 r.2) s).applyAdds

def execStoreComplete (id : Nat) (s : State) : Host.Outcome State Fault Refusal :=
  .next (s.storeComplete id)

/-! ### Accesses at a bank port (R210, R212) -/

/-- The agent a requester stands for. -/
def agentOf : Requester → Agent
  | .owner k i => .owner k i
  | .outside => .outside

/-- One access that passed the ownership check served at a port: the data of a read go out. -/
def State.portAccess (s : State) (a n : Nat) (data : Option (List Byte)) : State :=
  match data with
  | none => let r := s.readDev .outside a n []; r.1.emit (.readData r.2.1 r.2.2)
  | some bs => s.writeDev .outside a bs

/-- Whether a held access still waits: for a handover or a transition that it was not admitted before, or for a destructive test. -/
def State.heldBack (s : State) (b age : Nat) : Bool :=
  (s.bit (Reg.BK_OWNER b) 10 && !s.underHandover age b) || (s.bit (Reg.BK_POWER b) 4 && !s.underSleep age b) || (s.bank b).testing

/-- The accesses a bank holds and need no longer wait, served in order (R216 order 5, R220); if they find it in RETAIN they wake it. -/
def State.resumeBank (s : State) (b : Nat) : State :=
  let l := (s.bank b).held
  if l = [] then s
  else if s.served b = .wakes then s.autoWake b
  else
    let s := s.setBank b { s.bank b with held := l.filter (fun h => s.heldBack b h.born) }
    (l.filter (fun h => !s.heldBack b h.born)).foldl (fun s h => s.admitted h.born [(h.addr, h.size)] fun s => s.portAccess h.addr h.size h.data) s

/-- One part of an access, within a line: checked against the owner and power state of its own bank (R211). -/
def State.accessPart (s : State) (ag : Agent) (a n : Nat) (data : Option (List Byte)) (input : Nat) (same : Bool) : State :=
  if !s.ownerOk (bankOf a) ag data.isSome then
    let s := s.notOwned a ag data.isSome
    if data.isSome then s else s.emit (.readData (List.replicate n 0#8) false)
  else match s.served (bankOf a) with
  | .yes | .asleep => s.portAccess a n data
  | _ => s.holdAccess a n data input same

/-- An access of 1 to 64 bytes arrives at a bank's port; its parts are accesses of their own (R210, R211). `upsets` are the memory errors it
finds: (word of the access, check state); `input` is the port input it comes by, `same` says that it arrived in the handshake of the one
before it (R212). -/
def State.bankAccess (s : State) (by_ : Requester) (addr size : Nat) (data : Option (List Byte)) (upsets : List (Nat × Nat)) (input : Nat)
    (same : Bool) : State :=
  if size = 0 || 64 < size || bankEnd < addr + size then s else
  let s := upsets.foldl (fun s u => if u.1 ≤ (addr + size - 1) / 8 - addr / 8 then s.setMark (addr / 8 * 8 + 8 * u.1) (u.2 % 3) else s) s
  (bankSpans addr size).foldl (fun s p =>
    s.accessPart (agentOf by_) p.1 p.2 (data.map (fun bs => ((bs.take size).drop (p.1 - addr)).take p.2)) input same) s

def execBankAccess (from_ : Arrival) (addr size : Nat) (data : Option (List Byte)) (upsets : List (Nat × Nat)) (s : State) :
    Host.Outcome State Fault Refusal :=
  .next (s.bankAccess from_.by_ addr size data upsets from_.input from_.same)

end Sys2Proof.Machine
end

