-- ==== Sys2Proof/Machine/Tasks.lean ====
section
/-! DEFINITION. Tokens, fences, the end of a task, YIELD and SPAWN (R170 to R177, R185, R188, R193). -/

namespace Sys2Proof.Machine

/-! ### Tokens -/

/-- Whether a token address names a token of a window the job owns in that motif (R170, R171). -/
def State.tokenReach (s : State) (slot : Nat) (a : Word) : Bool := a.toNat < 10240 * 256 && s.ownsToken slot a.toNat

/-- The token word (R170). -/
def Token.word (t : Token) : Word := BitVec.ofNat 32 (t.count + b2n t.err * 256 + b2n t.sat * 512)

/-- A WTOK is served: `n` subtracted, the word returned, ERR and SAT cleared (R171). -/
def State.takeToken (s : State) (a n : Nat) : Word × State :=
  let t : Token := { s.token a with count := (s.token a).count - n }
  (t.word, s.setToken a { t with err := false, sat := false })

def wtokWords (d a : SReg) (n : BitVec 8) : Insn := { w0 := encWord 0x1C d.val a.val 0 n.toNat }

def execWtok (x : Nat) (d a : SReg) (n : BitVec 8) (s : State) : Host.Outcome State Fault Refusal :=
  .next (s.issue x (wtokWords d a n) false (sregs [a.val]) (sregs [d.val])
    (fun s k t =>
      let ad := t.sreg a.val
      let tk := s.token ad.toNat
      if !s.tokenReach t.slot ad then .fault .TOK_RANGE 0 0
      else if n = 0#8 then .go s (t.setS d.val tk.word) none
      else if tk.waiters = [] && n.toNat ≤ tk.count then
        let r := s.takeToken ad.toNat n.toNat
        .go r.2 (t.setS d.val r.1) none
      else .stay (s.setToken ad.toNat { tk with waiters := tk.waiters ++ [k] }) .waitToken (.token ad.toNat n.toNat d.val)))

def execWtokPeek (x : Nat) (d a : SReg) (s : State) : Host.Outcome State Fault Refusal :=
  .next (s.issue x (wtokWords d a 0#8) false (sregs [a.val]) (sregs [d.val])
    (fun s _ t =>
      if !s.tokenReach t.slot (t.sreg a.val) then .fault .TOK_RANGE 0 0
      else .go s (t.setS d.val (s.token (t.sreg a.val).toNat).word) none))

/-- A waiting instruction of a context completes: its task goes on to the next instruction. -/
def State.resume (s : State) (x k : Nat) (t : Task) : State :=
  (s.setTask k { t with wait := .none, pc := t.pc + 4#32, issued := t.issued + 1#32 }).setContext x { s.context x with phase := .ready }

/-- The first waiter of a token is served once its count suffices (R171). -/
def State.wakeToken (s : State) (a : Nat) : State :=
  match (s.token a).waiters with
  | [] => s
  | k :: rest =>
    match (s.task k).wait, s.ctxOfTask k with
    | .token _ n d, some x =>
      if (s.token a).count < n then s else
      let r := State.takeToken (s.setToken a { s.token a with waiters := rest }) a n
      r.2.resume x k (((s.task k).supersede [.s d]).setS d r.1)
    | _, _ => s

def execWtokWake (token : Nat) (s : State) : Host.Outcome State Fault Refusal := .next (s.wakeToken token)

def execStok (x : Nat) (a : SReg) (n : BitVec 8) (s : State) : Host.Outcome State Fault Refusal :=
  .next (s.issue x { w0 := encWord 0x1D 0 a.val 0 n.toNat } (n = 0#8) (sregs [a.val]) []
    (fun s k t =>
      let ad := t.sreg a.val
      if !s.tokenReach t.slot ad then .fault .TOK_RANGE 0 0
      else .go (State.applyAdds { s with adds := s.adds ++ [⟨k, ad.toNat, n.toNat, s.tick⟩] }) t none))

/-! ### Fences and the end of a task -/

/-- Whether every store a task issued has completed. -/
def State.storesDone (s : State) (k : Nat) : Bool := !s.posted.any (fun p => p.key = k)

/-- Whether a FENCE may complete (R175). -/
def State.fenceMet (s : State) (k : Nat) (stores commands : Bool) : Bool :=
  (!stores || s.storesDone k) && (!commands || (s.task k).cmds = [])

/-- Whether a HALT may complete (R176): stores done, the queued matrix commands of its claims done. -/
def State.haltMet (s : State) (k : Nat) : Bool :=
  s.storesDone k && s.engines.all (fun e => e.2.owner ≠ some k || e.2.quiet)

/-- A word of opcode 0x1E. -/
def taskInsn (d a b fn : Nat) : Insn := { w0 := encWord 0x1E d a b fn }

/-- FENCE with the listed bits. -/
def fenceIssue (x : Nat) (stores commands : Bool) (s : State) : State :=
  s.issue x (taskInsn 0 0 0 (3 + b2n stores * 16 + b2n commands * 32)) false [] []
    (fun s k t => if s.fenceMet k stores commands then .go s t none else .stay s .waitData (.fence stores commands))

def execFenceStores (x : Nat) (commands : Bool) (s : State) : Host.Outcome State Fault Refusal :=
  .next (fenceIssue x true commands s)

def execFenceCommands (x : Nat) (s : State) : Host.Outcome State Fault Refusal :=
  .next (fenceIssue x false true s)

/-- HALT and STEPEND. -/
def haltIssue (x : Nat) (stepEnd : Bool) (s : State) : State :=
  match (s.context x).task with
  | none => s
  | some key =>
    s.issue x (taskInsn 0 0 0 (if stepEnd then 4 else 5)) (stepEnd && (s.task key).update) [] []
      (fun s k _ => if s.haltMet k then .leave (s.endTask k stepEnd) else .stay s .waitData (.halt stepEnd))

def execHalt (x : Nat) (s : State) : Host.Outcome State Fault Refusal := .next (haltIssue x false s)

def execStepend (x : Nat) (s : State) : Host.Outcome State Fault Refusal := .next (haltIssue x true s)

/-- FENCE_RELEASE: what a fence or HALT waited for has come about. -/
def State.fenceRelease (s : State) (x : Nat) : State :=
  match (s.context x).task with
  | none => s
  | some k =>
    match (s.task k).wait with
    | .fence stores commands => if s.fenceMet k stores commands then s.resume x k (s.task k) else s
    | .halt stepEnd => if s.haltMet k then s.endTask k stepEnd else s
    | _ => s

def execFenceRelease (x : Nat) (s : State) : Host.Outcome State Fault Refusal := .next (s.fenceRelease x)

/-! ### Deferred faults (R150, R152) -/

/-- Whether a task stands at an instruction boundary: it waits inside no instruction. -/
def Task.atBoundary (t : Task) : Bool := t.wait = .none

/-- DEFERRED_FAULT_REPORT: the deferred fault of an index is taken at its task's boundary, or recorded for a task that has ended. -/
def State.deferredReport (s : State) (index : Nat) : State :=
  match s.deferred[index]? with
  | none => s
  | some d =>
    let k := d.cmd.key
    if s.alive k && !(s.task k).atBoundary then s else
    let s : State := { s with deferred := s.deferred.eraseIdx index }
    let x := if s.alive k then (s.ctxOfTask k).getD d.cmd.ctx else ((s.ended.get none k).map (·.ctx)).getD d.cmd.ctx
    let s := s.writeExc d.code x (slotOf k) true d.cmd.pc d.cmd.w0 d.cmd.w1 d.addr d.detail
    let s := if s.alive k && (s.context x).task = some k then s.setContext x { s.context x with phase := .faulted } else s
    s.taskFault k d.code (motifOf x)

def execDeferredFaultReport (index : Nat) (s : State) : Host.Outcome State Fault Refusal := .next (s.deferredReport index)

/-! ### The save area and YIELD (R174, R185) -/

/-- First device address of a slot's context save area. -/
def State.saveBase (s : State) (slot : Nat) : Nat :=
  (s.rd (Reg.PN_JOB_SAVE_LO slot)).toNat + 2 ^ 32 * s.fld (Reg.PN_JOB_SAVE_HI slot) 0 24
/-- Records it holds. -/
def State.saveSlots (s : State) (slot : Nat) : Nat := s.fld (Reg.PN_JOB_SAVE_SLOTS slot) 0 24
/-- Records of it in use. -/
def State.savedRecs (s : State) (slot : Nat) : List Nat := (s.tasks.filter (fun e => slotOf e.1 = slot)).filterMap (fun e => e.2.saveRec)
/-- Its lowest free record. At most as many records are in use as there are tasks, so one of the first of them is free. -/
def State.freeRec (s : State) (slot : Nat) : Option Nat :=
  let used := s.savedRecs slot
  (List.range (min (s.saveSlots slot) (used.length + 1))).find? (fun i => !used.contains i)

/-- A task leaves its context for a record of the save area and joins the tail of its motif's queue. The record's layout is not
given: its 1,408 bytes are free values. -/
def State.saveTask (s : State) (x k i : Nat) : State :=
  let t := s.task k
  let r := s.drawBytes 1408
  let s := r.2.writeDev (jobAgent t.slot) (s.saveBase t.slot + 1408 * i) r.1
  let s := (s.setTask k { t with saveRec := some i, moves := t.moves + 1, age := s.tick }).numbered
  (s.freeContext x).setQueue (motifOf x) (s.queue (motifOf x) ++ [k])

/-- A yield that finds no free record does not take place and is counted (R185). -/
def State.saveFull (s : State) (slot : Nat) : State := s.count (Reg.PN_JOB_YIELDS slot) 16 16 1

/-- YIELD. With no free record, or with no room in its motif's queue, it does not take place (R184, R185; log entry 30). -/
def execYield (x : Nat) (s : State) : Host.Outcome State Fault Refusal :=
  .next (s.issue x (taskInsn 0 0 0 0) false [] []
    (fun s k t =>
      if t.loads ≠ [] then .stay s .waitData .none
      else
        let t' := { t with pc := t.pc + 4#32, issued := t.issued + 1#32 }
        match s.freeRec t.slot with
        | none => .go (s.saveFull t.slot) t none
        | some i => if s.queueFull (motifOf x) then .go s t none else .leave ((s.setTask k t').saveTask x k i)))

/-! ### Rings (R193) -/

/-- The next position on the ring of a block `w` columns wide and `h` rows high. -/
def ringNext (w h : Nat) (p : Nat × Nat) : Nat × Nat :=
  let r := p.1
  let c := p.2
  if r = 0 then (if c < w - 1 then (0, c + 1) else (1, w - 1))
  else if c = 0 then (r - 1, 0)
  else if r % 2 = 1 then
    if 1 < c then (r, c - 1) else if r < h - 1 then (r + 1, 1) else (r, 0)
  else if c < w - 1 then (r, c + 1) else (r + 1, c)

/-- The positions that follow one on a ring, in order. -/
def ringWalk (w h : Nat) : Nat → Nat × Nat → List (Nat × Nat)
  | 0, _ => []
  | n + 1, p => let q := ringNext w h p; q :: ringWalk w h n q

/-- The motifs of a ground in ring order after one of them, itself last. -/
def groundRing (m : Nat) : List Nat :=
  (ringWalk 8 8 64 (m % 64 / 8, m % 8)).map (fun q => m / 64 * 64 + q.1 * 8 + q.2)

/-- The motifs of a panel in ring order after one of them, itself last. -/
def panelRing (m : Nat) : List Nat :=
  let g := m % 2560 / 64
  let i := m % 64
  (ringWalk 64 40 2560 (g / 8 * 8 + i / 8, g % 8 * 8 + i % 8)).map (fun q =>
    2560 * (m / 2560) + (q.1 / 8 * 8 + q.2 / 8) * 64 + q.1 % 8 * 8 + q.2 % 8)

/-! ### SPAWN (R173, R188) -/

/-- Whether every quadrant of a motif's array is fenced. -/
def State.allFenced (s : State) (m : Nat) : Bool := s.fld (Reg.MA_FENCE m) 0 4 = 0b1111

/-- Whether a motif can run tasks of a job slot: its panel is in service, it lists the slot, one of its cores is active, and its
array is not wholly fenced where the slot uses arrays (R183, R190, R202). -/
def State.canRun (s : State) (m slot : Nat) : Bool :=
  m < 10240 && s.panelUp (panelOf m) && s.lists m slot &&
  (List.range 32).any (fun c => !s.coreFenced m c && !s.coreSpare m c) && !(s.bit (Reg.PN_JOB_CTL slot) 12 && s.allFenced m)

/-- The motif with the fewest queued records, the first in the list among equals. -/
def State.fewest (s : State) : List Nat → Option Nat
  | [] => none
  | m :: r =>
    match s.fewest r with
    | none => some m
    | some n => if (s.queue m).length ≤ (s.queue n).length then some m else some n

/-- The motif a record is placed in (R188). -/
def State.placeFor (s : State) (m slot place motif : Nat) : Option Nat :=
  match place with
  | 0 => if s.canRun m slot then some m else none
  | 1 => if s.canRun motif slot then some motif else none
  | 2 => s.fewest ((groundRing m).filter (fun n => s.canRun n slot))
  | _ => s.fewest ((panelRing m).filter (fun n => s.canRun n slot))

/-- A task record placed in a queue: the new state and SPAWN's result. -/
def State.placeTask (s : State) (m slot parent : Nat) (request : Option Nat) (w : List Word) : State × Nat :=
  let w1 := ((w.drop 1).headD 0#32).toNat
  match s.placeFor m slot (bitsOf w1 14 2) (bitsOf w1 0 14) with
  | none => (s, 2)
  | some n =>
    if s.queueFull n then (s, 1) else
    let r := s.newTask slot parent w m
    let s := r.1.setTask r.2 { r.1.task r.2 with request := request }
    (s.setQueue n (s.queue n ++ [r.2]), 0)

def execSpawn (x : Nat) (d : SReg) (a : VReg) (s : State) : Host.Outcome State Fault Refusal :=
  match (s.context x).task with
  | none => .next s
  | some key =>
    .next (s.issue x (taskInsn d.val a.val 0 1) (a.val % 2 = 1 || (s.task key).update) (vregs [a.val, a.val + 1]) (sregs [d.val])
      (fun s k t =>
        let w := (List.range 16).map (fun i => BitVec.ofNat 32 (lane (t.vreg (a.val + i / 8)) (i % 8)))
        let r := s.placeTask (motifOf x) t.slot t.serial t.request w
        -- the task as it stood but for its result: placing changes only the new task
        .go r.1 ({ r.1.task k with loads := t.loads }.setS d.val (BitVec.ofNat 32 r.2)) none))

end Sys2Proof.Machine
end

