-- ==== Sys2Proof/Machine/Sched.lean ====
section
/-! DEFINITION. How queued records reach contexts (R184 to R190, R199, R202): dispatch, automatic yields, evictions and steals. -/

namespace Sys2Proof.Machine

/-! ### Taking a record -/

/-- Whether a panel is in a RATE_FLOOR_MISS excursion (R17). -/
def State.floorMiss (s : State) (panel : Nat) : Bool := s.excursion.get 0 panel ≠ 0

/-- Whether recorded claims can be made again in a motif: its units unclaimed and unfenced (R199). -/
def State.claimsFree (s : State) (m : Nat) (l : List SavedClaim) : Bool :=
  l.all (fun c => (rivals c.unit).all (fun r => (s.engine m r).owner.isNone) &&
    neededQuads c.unit c.cfg &&& s.fld (Reg.MA_FENCE m) 0 4 = 0)

/-- Whether a context of motif m can take a record (R183, R184, R196, R199, R202): its slot runs, or sweeps for an update task, and no bank
of the slot is in a handover (R217). -/
def State.takes (s : State) (m k : Nat) : Bool :=
  let t := s.task k
  s.canRun m t.slot && (s.slotIs t.slot .running || (t.update && s.slotIs t.slot .sweep)) &&
  !(s.classOf t.slot = 2 && s.floorMiss (panelOf m)) && !((s.job t.slot).tooLate && !t.started) && s.claimsFree m t.claims &&
  (s.slotBanks t.slot).all (fun b => !s.bit (Reg.BK_OWNER b) 10)

/-- PRIO of a slot. -/
def State.prioOf (s : State) (j : Nat) : Nat := s.fld (Reg.PN_JOB_CTL j) 5 3

/-- Whether record a goes before record b (R184): class, PRIO, age. -/
def State.before (s : State) (a b : Nat) : Bool :=
  let ca := s.classOf (slotOf a)
  let cb := s.classOf (slotOf b)
  let pa := s.prioOf (slotOf a)
  let pb := s.prioOf (slotOf b)
  if ca ≠ cb then decide (ca < cb) else if pa ≠ pb then decide (pa < pb) else decide ((s.task a).age ≤ (s.task b).age)

/-- The first of a list of records in the order of R184. -/
def State.firstRec (s : State) : List Nat → Option Nat
  | [] => none
  | k :: r =>
    match s.firstRec r with
    | none => some k
    | some q => if s.before k q then some k else some q

/-- Registers and control words of a task at its start (R39, R120, R122, R173, R180). An update task's are set when it is formed. -/
def State.started (s : State) (t : Task) : Task :=
  if t.update then { t with started := true } else
  let t := { t with started := true, arith := BitVec.ofNat 32 (s.fld (Reg.PN_JOB_ARITH t.slot) 0 4) }
  (t.args.zipIdx).foldl (fun t e => t.setS (e.2 + 1) e.1) t

/-- Recorded claims made again, with their pass counts and statistics (R199). -/
def State.remakeClaims (s : State) (m k : Nat) (l : List SavedClaim) : State :=
  l.foldl (fun s c =>
    let s := s.claimUnit m c.unit k c.cfg
    (s.setEngine m c.unit { s.engine m c.unit with pass := c.pass }).restoreStats m c.unit c.stats) s

/-- A record taken by a context: the task starts, or is restored from the save area (R184) and shows WAIT_DATA meanwhile (R153). -/
def State.takeRec (s : State) (x k : Nat) : State :=
  let t := s.task k
  let s : State := { s with queues := s.queues.mapAll [] (fun q => q.erase k) }
  let s := if t.started then s else s.setCore (x / 4) { s.core (x / 4) with fetch := [] }
  let t' := if t.started then t else s.started t
  let s := s.remakeClaims (motifOf x) k t.claims
  let s := (s.setTask k { t' with saveRec := none, claims := [], startedAt := if t.started then t.startedAt else s.tick }).numbered
  s.setContext x { phase := if t.started then .waitData else .ready, task := some k }

/-- Whether a context number names a context of the module that is FREE. -/
def State.isFree (s : State) (x : Nat) : Bool := x < 1310720 && (s.context x).phase = .free && (s.context x).task = none

/-- TASK_DISPATCH: a free context takes the first record of its motif's queue that it can take. -/
def State.dispatch (s : State) (x : Nat) : State :=
  let s := s.feedQueues
  if !s.isFree x then s else
  match s.firstRec ((s.queue (motifOf x)).filter (s.takes (motifOf x))) with
  | none => s
  | some k => s.takeRec x k

def execTaskDispatch (x : Nat) (s : State) : Host.Outcome State Fault Refusal := .next (s.dispatch x)

/-! ### Automatic yields and evictions -/

/-- A task's waiting instruction withdrawn: it issues again later (R186). -/
def State.withdraw (s : State) (k : Nat) : State :=
  let s := s.dropWaiter k
  s.setTask k { s.task k with wait := .none }

/-- AUTO_YIELD: a context has waited past TOKEN_YIELD_HS on a token or an array (R186). -/
def State.autoYield (s : State) (x : Nat) : State :=
  match (s.context x).task with
  | none => s
  | some k =>
    let t := s.task k
    let ph := (s.context x).phase
    let other := (s.queue (motifOf x)).any (fun q => s.takes (motifOf x) q && s.classOf (slotOf q) ≤ s.classOf t.slot)
    if !(ph = .waitToken || ph = .waitArray) || s.fld Reg.PN_SCHED_WAIT 16 16 = 0 || t.pin || t.loads ≠ [] || !other then s else
    match s.freeRec t.slot with
    | none => s.saveFull t.slot
    | some i =>
      let s := ((s.withdraw k).saveTask x k i).count (Reg.PN_JOB_YIELDS t.slot) 0 16 1
      -- a queue of 64 records takes one more only as the freed context takes one
      if 64 < (s.queue (motifOf x)).length then s.dispatch x else s

def execAutoYield (x : Nat) (s : State) : Host.Outcome State Fault Refusal := .next (s.autoYield x)

/-- Whether a context may be moved: it does not wait on data (R186). -/
def Ctx.movable (c : Ctx) : Bool := c.phase = .ready || c.phase = .running || c.phase = .waitToken || c.phase = .waitArray

/-- The contexts of a motif that hold a task of a class with no load outstanding. -/
def State.victims (s : State) (m cls : Nat) : List (Nat × Nat) :=
  (List.range 128).filterMap (fun i =>
    let x := m * 128 + i
    match (s.context x).task with
    | some k => if s.classOf (slotOf k) = cls && (s.task k).loads = [] && (s.context x).movable then some (x, k) else none
    | none => none)

/-- The one with the most recent start. -/
def State.latest (s : State) : List (Nat × Nat) → Option (Nat × Nat)
  | [] => none
  | a :: r =>
    match s.latest r with
    | none => some a
    | some b => if (s.task b.2).startedAt ≤ (s.task a.2).startedAt then some a else some b

/-- The context that a SERVE record evicts (R187). -/
def State.victim (s : State) (m : Nat) : Option (Nat × Nat) :=
  match s.latest (s.victims m 2) with
  | some v => some v
  | none => s.latest (s.victims m 1)

/-- Whether a free context of a motif can take a record. -/
def State.freeFor (s : State) (m k : Nat) : Bool := s.takes m k && (List.range 128).any (fun i => s.isFree (m * 128 + i))

/-- SERVE_EVICTION: a SERVE record has waited SERVE_WAIT_HS with no free context; it takes the victim's, once the victim stands at an
instruction boundary. -/
def State.evict (s : State) (m : Nat) : State :=
  match s.firstRec ((s.queue m).filter (fun k => s.classOf (slotOf k) = 0 && s.takes m k)) with
  | none => s
  | some k =>
    if s.freeFor m k then s else
    match s.victim m with
    | none => s
    | some (x, v) =>
      let slot := slotOf v
      if !(s.task v).atBoundary then s else
      match s.freeRec slot with
      | none => s.saveFull slot
      | some i => ((s.saveTask x v i).count (Reg.PN_JOB_CROSS slot) 16 16 1).takeRec x k

def execServeEviction (motif : Nat) (s : State) : Host.Outcome State Fault Refusal := .next (s.evict motif)

/-! ### Stealing (R189, R190) -/

/-- Whether every scale window that a slot owns is declared REPLICATED (R105). -/
def State.replicatedJob (s : State) (slot : Nat) : Bool :=
  (s.scaleWins slot).all (fun w => s.bit (Reg.MT_SRF_OWNER (w / 16) (w % 16)) 7)

/-- Whether a record of a victim motif may go to a thief. -/
def State.stealable (s : State) (thief victim k : Nat) : Bool :=
  let t := s.task k
  !t.pin && !s.hasClaim k && t.claims = [] && (s.replicatedJob t.slot || !t.started) && !s.freeFor victim k && s.takes thief k

/-- The record a victim hands over: the oldest stealable one of the highest class. -/
def State.handOver (s : State) (thief victim : Nat) (cross : Bool) : Option Nat :=
  let l := (s.queue victim).filter (fun k => s.stealable thief victim k && (!cross || s.bit (Reg.PN_JOB_CTL (slotOf k)) 11))
  (l.mergeSort (fun a b =>
    if s.classOf (slotOf a) ≠ s.classOf (slotOf b) then s.classOf (slotOf a) < s.classOf (slotOf b)
    else (s.task a).age ≤ (s.task b).age)).head?

/-- Motifs of a ground, in index order. -/
def groundMotifs (g : Nat) : List Nat := (List.range 64).map (g * 64 + ·)

/-- The motifs asked at an order of R189: the ground ring after the thief, the other grounds of the panel, the other panels. -/
def stealOrder (m order : Nat) : List Nat :=
  let p := panelOf m
  let g := m % 2560 / 64
  match order with
  | 1 => (groundRing m).filter (· ≠ m)
  | 2 => (List.range 39).flatMap (fun i => groundMotifs (p * 40 + (g + 1 + i) % 40))
  | _ => [1, 2, 3].flatMap (fun i => (List.range 2560).map (fun n => 2560 * ((p + i) % 4) + n))

/-- The first record handed over at an order. -/
def State.stealAt (s : State) (m order : Nat) : Option (Nat × Nat) :=
  (stealOrder m order).findSome? (fun v => if s.queue v = [] then none else (s.handOver m v (order = 3)).map (fun k => (order, k)))

/-- STEAL: an idle context asks for work elsewhere and takes at most one record. -/
def State.steal (s : State) (x : Nat) : State :=
  let s := s.feedQueues
  let m := motifOf x
  if !s.isFree x || (s.queue m).any (s.takes m) then s else
  match [1, 2, 3].findSome? (s.stealAt m) with
  | none => s
  | some (order, k) =>
    let slot := slotOf k
    let s := match order with
      | 1 => s.count (Reg.PN_JOB_STEALS slot) 0 16 1
      | 2 => s.count (Reg.PN_JOB_STEALS slot) 16 16 1
      | _ => s.count (Reg.PN_JOB_CROSS slot) 0 16 1
    (s.setTask k { s.task k with moves := (s.task k).moves + 1 }).takeRec x k

def execSteal (x : Nat) (s : State) : Host.Outcome State Fault Refusal := .next (s.steal x)

end Sys2Proof.Machine
end

