-- ==== Sys2Proof/Machine/Serve.lean ====
section
/-! DEFINITION. Serving requests: the ledger (R10, R272, R287), dispatch and re-dispatch (R288), responses (R323, R327) and results
(R29, R378, R379). -/

namespace Sys2Proof.Machine

/-! ### The ledger -/

def State.ledgerEntry (s : State) (e : Nat) : LedgerE := s.ledger.get {} e
def State.setLedger (s : State) (e : Nat) (v : LedgerE) : State := { s with ledger := s.ledger.put {} e v }

/-- The lowest number from `n` up that a rising list of keys does not name. -/
def lowestFree : List Nat → Nat → Nat
  | [], n => n
  | k :: r, n => if k < n then lowestFree r n else if k = n then lowestFree r (n + 1) else n

/-- Entries of a headframe's half. -/
def halfEntries : Nat := 524288
/-- A FREE entry of one half. -/
def State.freeInHalf (s : State) (hf : Nat) : Option Nat :=
  let e := lowestFree (s.ledger.map (·.1)) (hf * halfEntries)
  if e < (hf + 1) * halfEntries then some e else none
/-- The entry a headframe allocates: of its own half first (R10). -/
def State.freeLedger (s : State) (hf : Nat) : Option Nat :=
  match s.freeInHalf hf with
  | some e => some e
  | none => s.freeInHalf (1 - hf % 2)

/-- A request entered QUEUED, its generation pinned (R272). -/
def State.enterRequest (s : State) (e : Nat) (v : LedgerE) : State :=
  s.setLedger e { v with st := 1, gen := s.fld Reg.EM_GEN 0 16, arrival := s.usecN.toNat % 2 ^ 32, payloadOff := e }

/-- Whether a SERVE slot takes a request: it runs, and while its function's lease is expired it takes those of the fabric alone, when
AUTONOMOUS is set (R203, R383). -/
def State.takesRequests (s : State) (slot : Nat) (capsule : Bool) : Bool :=
  s.classOf slot = 0 && s.slotIs slot .running &&
  (match s.fnOf slot with
   | none => true
   | some f => s.leaseLive f || (!capsule && s.bit (Reg.PN_JOB_CTL slot) 8))

/-! ### Requests and responses over the fabric -/

/-- The first complete message of a type that a headframe has received: the port of its first packet, that packet, its bytes; the packets
leave the queue. -/
def State.rxMessage (s : State) (hf typ : Nat) : Option (Nat × GftPacket × List Byte × State) :=
  let l := s.gftRx.get [] hf
  let same := fun (k p : GftPacket) => sameMsg k p && p.src = k.src && p.group = k.group
  (l.filter (fun e => e.2.typ = typ)).findSome? (fun e =>
    (assemble ((l.map (·.2)).filter (same e.2)) e.2).map (fun b =>
      (e.1, e.2, b, { s with gftRx := s.gftRx.put [] hf (l.filter (fun p => !same e.2 p.2)) })))

/-- The job slot that a request names: its group's, or for one from outside a group HANDLE's low bits. -/
def State.requestSlot (s : State) (k : GftPacket) : Option Nat := if k.group = 0xFFFF then some (k.handle % 64) else s.slotOfGroup k.group

/-- A SERVE_RSP sent; HANDLE carries the status and MSG the request's identifier. -/
def State.sendServeRsp (s : State) (hf slot peer group reqId status : Nat) (payload : List Byte) : State :=
  let h := { s.header slot peer tServeRsp status reqId (s.epochOf slot) with group := group }
  if group = 0xFFFF || s.peerValid slot peer then
    s.sendRsp hf (some slot) (cutMessage h s.maxPayload (payload.length / s.maxPayload + 1) 0 (pad64 payload))
  else s

/-- SERVE_REQ (R10, R272, R327): a request allocates an entry and pins the current generation; one that repeats a live request is
discarded, and one that finds both halves full is answered BUSY. -/
def State.serveReq (s : State) (hf : Nat) : State :=
  match s.rxMessage hf tServeReq with
  | none => s
  | some (port, k, bytes, s) =>
    match s.requestSlot k with
    | none => s
    | some slot =>
      if s.ledger.any (fun e => e.2.st ≠ 0 && !e.2.capsule && e.2.origin = k.src && e.2.reqId = k.msg) then s
      else if !s.takesRequests slot false then s
      else match s.freeLedger hf with
        | none => s.sendServeRsp hf slot k.src k.group k.msg 13 []
        | some e => s.enterRequest e { slot := slot, reqId := k.msg, origin := k.src, port := port, payload := bytes, group := k.group }

def execServeReq (hf : Nat) (s : State) : Host.Outcome State Fault Refusal := .next (s.serveReq hf)

/-- SERVE_RSP (R323): a response that reaches this module as the sender of a request is delivered. -/
def State.serveRsp (s : State) (hf : Nat) : State :=
  match s.rxMessage hf tServeRsp with
  | none => s
  | some (_, k, bytes, s) => s.emit (.served k.msg k.handle bytes)

def execServeRsp (hf : Nat) (s : State) : Host.Outcome State Fault Refusal := .next (s.serveRsp hf)

/-! ### Dispatch (R288) -/

/-- The task records of a request placed, from the motif that each names; one that no motif takes waits for nothing and is dropped. -/
def State.placeAll (s : State) (slot e : Nat) (records : List (List Word)) : State :=
  records.foldl (fun s w => (s.placeTask (bitsOf ((w.drop 1).headD 0#32).toNat 0 14) slot 0xFFFFFFFF (some e) w).1) s

/-- SERVE_DISPATCH: the dispatcher starts a QUEUED request's tasks, all of them or, where a queue is full or no motif can run one, none. In
the pause of a shift change requests stay queued (R398). -/
def State.serveDispatch (s : State) (e : Nat) (records : List (List Word)) : State :=
  let l := s.ledgerEntry e
  if l.st ≠ 1 || !s.slotIs l.slot .running || records = [] || s.fw.shift = 3 then s else
  let t := (s.setLedger e { l with st := 2 }).placeAll l.slot e records
  if (t.tasks.filter (fun x => x.2.request = some e)).length = records.length then t else s

def execServeDispatch (entry : Nat) (records : List (List Word)) (s : State) : Host.Outcome State Fault Refusal :=
  .next (s.serveDispatch entry records)

/-! ### Results (R29, R379) -/

/-- A request's entry ends: its result leaves by capsule or by the fabric, and the entry retires with its pin. -/
def State.reply (s : State) (e status detail : Nat) (payload : List Byte) : State :=
  let l := s.ledgerEntry e
  let s := if l.capsule then s.endCapsule l.origin l.reqId status detail payload
    else s.sendServeRsp (e / halfEntries) l.slot l.origin l.group l.reqId status payload
  s.retire e

/-- RESULT_STORE: a request whose tasks have all ended is answered with its payload; one that failed or whose slot stopped, with its
status alone. -/
def State.resultStore (s : State) (e : Nat) (payload : List Byte) : State :=
  let l := s.ledgerEntry e
  if l.st = 3 then s.reply e l.status l.detail []
  else if l.st = 2 && !s.tasks.any (fun t => t.2.request = some e) then s.reply e l.status l.detail payload
  else s

def execResultStore (entry : Nat) (payload : List Byte) (s : State) : Host.Outcome State Fault Refusal := .next (s.resultStore entry payload)

end Sys2Proof.Machine
end

