-- ==== Sys2Proof/Machine/Banks.lean ====
section
/-! DEFINITION. Bank handovers, power transitions, scrub, march tests, repair and fencing (R214 to R232). -/

namespace Sys2Proof.Machine

/-! ### Handover (R214 to R217) -/

def execBankHandover (by_ : Writer) (bank : Nat) (v : Word) (s : State) : Host.Outcome State Fault Refusal :=
  .next (s.byWriter by_ (Reg.BK_OWNER bank) v (fun w => s.handOwner w bank v))

/-- Whether an access admitted to a bank before an age is still to complete, at its issuer or at the port. -/
def State.oldAccess (s : State) (b since : Nat) : Bool :=
  s.posted.any (fun p => p.id < since && p.bytes.any (fun c => c.1 < bankEnd && bankOf c.1 = b)) ||
  s.tasks.any (fun t => t.2.loads.any (fun l => l.born < since && l.parts.any (fun p =>
    p.2.2 && p.1 < bankEnd && (bankSpans p.1 p.2.1).any (fun q => bankOf q.1 = b)))) ||
  (s.bank b).held.any (fun h => h.born < since)

/-- HANDOVER_COMPLETE: the issue points have acknowledged; it waits for the old accesses (R216 orders 4 and 5). -/
def State.handoverDone (s : State) (b : Nat) : State :=
  if !s.bit (Reg.BK_OWNER b) 10 || s.oldAccess b (s.bank b).since then s else (s.setBit (Reg.BK_OWNER b) 10 false).resumeBank b

def execHandoverComplete (bank : Nat) (s : State) : Host.Outcome State Fault Refusal := .next (s.handoverDone bank)

/-! ### Power (R220, R223) -/

/-- A transition to the state in STATE begins where it differs from the one in force. A fenced bank never powers up (R231). -/
def State.startTransition (s : State) (b : Nat) : State :=
  let want := s.fld (Reg.BK_POWER b) 0 2
  let cur := s.fld (Reg.BK_POWER b) 2 2
  if want = cur || s.bit (Reg.BK_POWER b) 4 || (want = 0 && s.bit (Reg.BK_REPAIR b) 24) then s
  else if cur = 2 && want = 1 then s.setFld (Reg.BK_POWER b) 0 2 2
  else
    let s := s.setBit (Reg.BK_POWER b) 4 true
    (s.setBank b { s.bank b with goal := some want, sinceT := s.tick }).numbered

/-- A write of BK_POWER. -/
def State.writePower (s : State) (b : Nat) (v : Word) : State :=
  if 40960 ≤ b then s else
  let want := bitsOf v.toNat 0 2
  let st := if want = 3 then s.fld (Reg.BK_POWER b) 0 2 else if want = 1 && s.fld (Reg.BK_POWER b) 2 2 = 2 then 2 else want
  ((s.setFld (Reg.BK_POWER b) 0 2 st).setFld (Reg.BK_POWER b) 5 2 (bitsOf v.toNat 5 2)).startTransition b

def execBankPowerWrite (bank : Nat) (v : Word) (s : State) : Host.Outcome State Fault Refusal := .next (s.writePower bank v)

/-- What a bank holds as it returns from OFF: poison markers, or undefined contents. -/
def State.returnOn (s : State) (b : Nat) : State :=
  if s.bit (Reg.BK_POWER b) 6 then s.refill b 3
  else State.refill { s with free := s.free + 1 } b (4 + s.free)

/-- What a bank loses as it enters OFF. -/
def State.loseBank (s : State) (b : Nat) : State :=
  let s := s.refill b 0
  s.setBank b { s.bank b with priority := [], ceRuns := [], scrubRead := none }

/-- BANK_TRANSITION_DONE: a transition out of ON first waits for the accesses admitted before it. In a panel that is parked, in DOZE or off,
banks are held by the module's power state (R221), and no transition ends. -/
def State.transitionDone (s : State) (b : Nat) : State :=
  if !s.bit (Reg.BK_POWER b) 4 || s.panelDown (panelOfBank b) then s else
  let cur := s.fld (Reg.BK_POWER b) 2 2
  let g := (s.bank b).goal.getD (s.fld (Reg.BK_POWER b) 0 2)
  if cur = 0 && s.oldAccess b (s.bank b).sinceT then s else
  let s := (s.setFld (Reg.BK_POWER b) 2 2 g).setBit (Reg.BK_POWER b) 4 false
  let s := s.setBank b { s.bank b with goal := none }
  let s := if g = 2 then s.loseBank b else if cur = 2 then s.returnOn b else s
  (s.startTransition b).resumeBank b

def execBankTransitionDone (bank : Nat) (s : State) : Host.Outcome State Fault Refusal := .next (s.transitionDone bank)

/-! ### Repair and fencing (R230, R231) -/

/-- A bank fenced for good. -/
def State.fenceBank (s : State) (b : Nat) : State :=
  if s.bit (Reg.BK_REPAIR b) 24 then s
  else ((s.setBit (Reg.BK_REPAIR b) 24 true).raise .BANK_FENCED .fenced (b / 4) [b % 4, b]).noteMaps

/-- Whether a spare takes the place of a line; `i` is 0 or 1. -/
def State.spareUsed (s : State) (b i : Nat) : Bool := s.bit (Reg.BK_REPAIR b) (12 * i + 11)
/-- The spare that takes the place of a line. -/
def State.spareOf (s : State) (b line : Nat) : Option Nat := [0, 1].find? (fun i => s.spareUsed b i && s.fld (Reg.BK_REPAIR b) (12 * i) 11 = line)
/-- A spare that has failed a test: it is free for no line again (R230). -/
def State.loseSpare (s : State) (b i : Nat) : State :=
  (s.setBank b { s.bank b with bad := setBits (s.bank b).bad i 1 1 }).setFld (Reg.BK_REPAIR b) (12 * i) 12 0
/-- A line mapped to the first free spare; with none free the bank is fenced (R230, R231). -/
def State.mapLine (s : State) (b line : Nat) : State :=
  match [0, 1].find? (fun i => !s.spareUsed b i && !bitOf (s.bank b).bad i) with
  | some i =>
    let s := s.setBank b { s.bank b with ceRuns := (s.bank b).ceRuns.put 0 line 0 }
    ((s.setFld (Reg.BK_REPAIR b) (12 * i) 12 (line + 2 ^ 11)).setStatus (Reg.BK_STATUS b) 9 .BANK_REPAIRED .corrected (b / 4) [b % 4, line, i]).noteMaps
  | none => s.fenceBank b

/-- A failing line repaired. Lines 1536 and 1537 are the spares: one that fails is lost, and the line that it stood for, like a line that
fails on its spare, goes to another (DEDUCED, log entry 33). -/
def State.repairLine (s : State) (b line : Nat) : State :=
  if 1538 ≤ line then s
  else if 1536 ≤ line then
    let t := s.loseSpare b (line - 1536)
    if s.spareUsed b (line - 1536) then t.mapLine b (s.fld (Reg.BK_REPAIR b) (12 * (line - 1536)) 11) else t
  else match s.spareOf b line with
  | some i => (s.loseSpare b i).mapLine b line
  | none => s.mapLine b line

/-! ### March tests (R227 to R229) -/

/-- Whether a bank is in ON with nothing running on it. -/
def State.bankOn (s : State) (b : Nat) : Bool :=
  s.fld (Reg.BK_POWER b) 2 2 = 0 && !s.bit (Reg.BK_POWER b) 4 && !s.panelDown (panelOfBank b) && !s.bit (Reg.BK_REPAIR b) 24

/-- A test begins: BUSY shows it, and the last result is cleared. -/
def State.beginMarch (s : State) (b : Nat) (m : March) : State :=
  let s := (s.setBit (Reg.BK_MARCH_CTL b) 7 true).wr (Reg.BK_MARCH_RESULT b) 0#32
  s.setBank b { s.bank b with march := some m }

/-- A write of BK_MARCH_CTL: settings, and START. -/
def State.writeMarch (s : State) (b : Nat) (v : Word) : State :=
  if 40960 ≤ b then s else
  let n := v.toNat
  let s := if bitsOf n 0 2 = 3 then s else s.setFld (Reg.BK_MARCH_CTL b) 0 2 (bitsOf n 0 2)
  let s := if bitsOf n 2 2 = 3 then s else s.setFld (Reg.BK_MARCH_CTL b) 2 2 (bitsOf n 2 2)
  let s := s.setFld (Reg.BK_MARCH_CTL b) 4 2 (bitsOf n 4 2)
  if !bitOf n 6 || s.bit (Reg.BK_MARCH_CTL b) 7 then s else
  let pres := bitOf n 4
  if s.bankOn b && (pres || (s.fld (Reg.BK_OWNER b) 0 3 = 0 && !s.bit (Reg.BK_OWNER b) 10)) then
    s.beginMarch b ⟨s.fld (Reg.BK_MARCH_CTL b) 0 2, s.fld (Reg.BK_MARCH_CTL b) 2 2, pres, bitOf n 5, if pres then List.range 1538 else [], 0, 0, false⟩
  else s.setBit (Reg.BK_STATUS b) 8 true

/-- MARCH_START: a write with START and without PRESERVE. -/
def State.marchStart (s : State) (b : Nat) (v : Word) : State := if bitOf v.toNat 6 && !bitOf v.toNat 4 then s.writeMarch b v else s
def execMarchStart (bank : Nat) (v : Word) (s : State) : Host.Outcome State Fault Refusal := .next (s.marchStart bank v)

/-- MARCH_PRESERVE_START: a write with START and PRESERVE. -/
def State.marchPreserve (s : State) (b : Nat) (v : Word) : State := if bitOf v.toNat 6 && bitOf v.toNat 4 then s.writeMarch b v else s
def execMarchPreserveStart (bank : Nat) (v : Word) (s : State) : Host.Outcome State Fault Refusal := .next (s.marchPreserve bank v)

/-- A failing line counted in a test. -/
def March.fail (m : March) (line : Nat) : March := { m with fails := m.fails + 1, first := if m.fails = 0 then line else m.first }

/-- Correctable errors of a line corrected, poison markers and uncorrectable words kept (R225, R229). -/
def State.cleanLine (s : State) (b line : Nat) : State :=
  (List.range 8).foldl (fun s w =>
    let a := 0x18000 * b + 64 * line + 8 * w
    if s.mark a = 1 then s.setMark a 0 else s) s

/-- A line as the scratch line holds it (R229): its 512 bits, and above them the check state of each word. -/
def State.lineCopy (s : State) (b line : Nat) : Nat :=
  let a := 0x18000 * b + 64 * line
  ofBytes (s.bytes a 64) + 2 ^ 512 * (List.range 8).foldl (fun n w => n + 4 ^ w * s.mark (a + 8 * w)) 0

/-- Whether a preserving test waits for a background grant. -/
def BankSt.marchWaits (k : BankSt) : Bool :=
  match k.march with
  | some m => m.preserve && m.lines ≠ []
  | none => false

/-- A live repair asked for: the preserving test runs on one line (R226), after a test that runs. -/
def State.liveRepair (s : State) (b line : Nat) : State :=
  let k := s.bank b
  if s.bit (Reg.BK_MARCH_CTL b) 7 then s.setBank b { k with repairs := if k.repairs.contains line then k.repairs else k.repairs ++ [line] }
  else s.beginMarch b ⟨s.fld (Reg.BK_MARCH_CTL b) 0 2, s.fld (Reg.BK_MARCH_CTL b) 2 2, true, true, [line], 0, 0, true⟩

/-- MARCH_LINE_DONE: the next line of a preserving test was copied to the scratch line, tested and written back; `failed` says that a read
differed from its background. The bank is in ON, and the background grant is the test's: it and scrub alternate when both wait (R212). -/
def State.marchLine (s : State) (b : Nat) (failed : Bool) : State :=
  match (s.bank b).march with
  | none => s
  | some m =>
    match m.lines with
    | [] => s
    | line :: rest =>
      if !m.preserve || !s.bankOn b || (!(s.bank b).lastScrub && (s.bank b).priority ≠ []) then s else
      let s := if line < 1536 then
          let s := s.cleanLine b line
          { s with scratch := s.scratch.put 0 (b / 4) (s.lineCopy b line) }
        else s
      let m := if failed then m.fail line else m
      let s := s.setBank b { s.bank b with march := some { m with lines := rest }, lastScrub := false }
      if (failed && m.repair) || m.live then s.repairLine b line else s

def execMarchLineDone (bank : Nat) (failed : Bool) (s : State) : Host.Outcome State Fault Refusal := .next (s.marchLine bank failed)

/-- MARCH_DONE: the test ends and its results are recorded. `fails` are the lines that failed a destructive test, which leaves zeros with
correct check codes. -/
def State.marchDone (s : State) (b : Nat) (fails : List Nat) : State :=
  match (s.bank b).march with
  | none => s
  | some m =>
    if m.preserve && m.lines ≠ [] then s else
    let l := if m.preserve then [] else (fails.filter (· < 1538)).eraseDups.mergeSort (· ≤ ·)
    let m := l.foldl March.fail m
    let s := if m.preserve || !m.repair then s else l.foldl (fun s line => s.repairLine b line) s
    let s := if m.preserve then s else s.refill b 0
    let s := s.setBank b { s.bank b with march := none }
    let s := (s.setBit (Reg.BK_MARCH_CTL b) 7 false).wr (Reg.BK_MARCH_RESULT b) (BitVec.ofNat 32 (2 ^ 22 + min 2047 m.fails + m.first * 2 ^ 11))
    let s := if m.fails = 0 then s else s.setBit (Reg.BK_STATUS b) 7 true
    let k := s.bank b
    let s := match k.repairs with
      | [] => s
      | line :: rest => (s.setBank b { k with repairs := rest }).liveRepair b line
    s.resumeBank b

def execMarchDone (bank : Nat) (fails : List Nat) (s : State) : Host.Outcome State Fault Refusal := .next (s.marchDone bank fails)

/-! ### Scrub (R224 to R226) -/

/-- The next line that the scrub engine reads in a bank, and the engine's state after it chose. -/
def State.nextScrub (s : State) (b : Nat) : Option (State × Nat) :=
  match (s.bank b).priority with
  | l :: rest => some (s.setBank b { s.bank b with priority := rest }, l)
  | [] =>
    if !s.bit (Reg.MT_SCRUB_CTL (b / 4)) 8 then none else
    let l := s.fld (Reg.BK_SCRUB_POS b) 0 11
    if l = 1535 then some ((s.setFld (Reg.BK_SCRUB_POS b) 0 11 0).setFld (Reg.BK_SCRUB_POS b) 11 16 (s.fld (Reg.BK_SCRUB_POS b) 11 16 + 1), l)
    else some (s.setFld (Reg.BK_SCRUB_POS b) 0 11 (l + 1), l)

/-- One more bit error in a word: correctable in a clean word, uncorrectable in any other. A poison marker stays one. -/
def State.bitError (s : State) (a : Nat) : State := if s.mark a < 2 then s.setMark a (s.mark a + 1) else s

/-- BANK_SCRUB_READ: one line read. `single` are the words that have met a bit error since, `double` those that have met two; `deferred`
grants went to foreground while it waited, and after 63 of them the 64th is its own (R207). It and the preserving march test alternate when
both wait (R212). -/
def State.scrubRead (s : State) (b : Nat) (single double : List Nat) (deferred : Nat) : State :=
  if 40960 ≤ b || !s.bankOn b || (s.bank b).testing || ((s.bank b).lastScrub && (s.bank b).marchWaits) then s else
  match s.nextScrub b with
  | none => s
  | some (s, line) =>
    let base := 0x18000 * b + 64 * line
    let s := (single ++ double ++ double).foldl (fun s w => if w < 8 then s.bitError (base + 8 * w) else s) s
    let s := (s.count (Reg.MT_BG_COUNT (b / 4)) 0 16 (min 63 deferred)).count (Reg.MT_BG_COUNT (b / 4)) 16 16 (b2n (63 ≤ deferred))
    let fixed := (List.range 8).any (fun w => s.mark (base + 8 * w) = 1)
    let clean := (List.range 8).all (fun w => s.mark (base + 8 * w) = 0)
    let s := (List.range 8).foldl (fun s w => (s.readWord (base + 8 * w)).1) s
    let k := s.bank b
    let old := k.ceRuns.get 0 line
    let runs := if fixed then old + 1 else if clean then 0 else old
    let s := s.setBank b { k with
      priority := k.priority.filter (· ≠ line), scrubRead := if fixed then some line else none, ceRuns := k.ceRuns.put 0 line runs
      lastScrub := true }
    let lim := s.fld (Reg.MT_SCRUB_CTL (b / 4)) 9 3
    if fixed && lim ≠ 0 && lim ≤ runs then s.liveRepair b line else s

def execBankScrubRead (bank : Nat) (single double : List Nat) (deferred : Nat) (s : State) : Host.Outcome State Fault Refusal :=
  .next (s.scrubRead bank single double deferred)

/-- SCRUB_WRITEBACK: the corrected line is written back; a foreground write that came first has dropped it. -/
def State.scrubBack (s : State) (b : Nat) : State :=
  match (s.bank b).scrubRead with
  | none => s
  | some line =>
    let t := s.cleanLine b line
    t.setBank b { t.bank b with scrubRead := none }

def execScrubWriteback (bank : Nat) (s : State) : Host.Outcome State Fault Refusal := .next (s.scrubBack bank)

end Sys2Proof.Machine
end

