-- ==== Sys2Proof/Machine/Chain.lean ====
section
/-! DEFINITION. The chain engine (R178, R179, R192): the CHAIN instruction, and the stages of its blocks. -/

namespace Sys2Proof.Machine

/-! ### Issue -/

/-- Lines of a stage's record: control, source, destination. -/
def Chain.line (c : Chain) (stage i : Nat) : Nat := (c.recs.getD (3 * stage + i) 0#512).toNat
def Chain.control (c : Chain) (stage w : Nat) : Nat := bitsOf (c.line stage 0) (32 * w) 32
/-- KIND of a stage: 0 XFER, 1 HGATH, 2 HSCAT, 3 MTILE, 4 TASK. -/
def Chain.kind (c : Chain) (stage : Nat) : Nat := bitsOf (c.control stage 0) 0 3

/-- Whether a chain's header and its stages' kinds are as R178 lays them out. -/
def chainHeaderOk (h : Nat) : Bool :=
  1 ≤ bitsOf h 0 4 && bitsOf h 0 4 ≤ 8 && 1 ≤ bitsOf h 4 16 && h >>> 20 = 0

/-- Chains a motif's engine holds (R160, R192). -/
def chainLimit : Nat := 2

/-- Lines of memory read by a task's chain engine. -/
def State.readLines (s : State) (ag : Agent) (a n : Nat) : State × List Line × Bool :=
  (List.range n).foldl (fun acc i =>
    let r := acc.1.readDev ag (a + 64 * i) 64 []
    (r.1, acc.2.1 ++ [BitVec.ofNat 512 (ofBytes r.2.1)], acc.2.2 || r.2.2)) (s, [], false)

/-- A chain taken: its records read, its tiles' weights read ahead, and the chain entered at the motif. `h` is the header read at `at_`. -/
def State.takeChain (s : State) (x k : Nat) (t : Task) (i : Insn) (word at_ : Nat) (h : State × List Line × Bool) : Issue :=
  let m := motifOf x
  let ag := jobAgent t.slot
  let hd := (h.2.1.headD 0#512).toNat
  let n := bitsOf hd 0 4
  let r := h.1.readLines ag (at_ + 64) (3 * n)
  let info := r.1.command x k t i word 0
  let c : Chain := { info := info, stages := n, blocks := bitsOf hd 4 16, flush := t.flush, recs := r.2.1, weights := [] }
  let wAt := fun (i : Nat) => t.segment 1 + c.control i 6
  let spans := ((List.range n).filter (fun i => c.kind i = 3)).map (fun i => (wAt i, 64))
  if (List.range n).any (fun i => 4 < c.kind i || c.control i 0 ≥ 32) then .fault .DESC_INVALID at_ 0
  else match s.protectSpans t.slot false spans with
  | some e => .fault e.1 e.2 0
  | none =>
    if !s.tokenOk m t.slot word then .fault .TOK_RANGE 0 0
    else if !s.spansReady ag false spans then .stay (s.wakeSpans ag false spans) .waitData .none
    else if chainLimit ≤ (s.chainsOf m).length then .stay s .waitData .none
    else
      let w := (List.range n).foldl (fun (acc : State × List Line × Bool) i =>
        if c.kind i = 3 then
          let l := acc.1.readLines ag (wAt i) 1
          (l.1, acc.2.1 ++ l.2.1, acc.2.2 || l.2.2)
        else (acc.1, acc.2.1 ++ [0#512], acc.2.2)) (r.1, [], h.2.2 || r.2.2)
      .go ((w.1.setChains m (w.1.chainsOf m ++ [{ c with weights := w.2.1, err := w.2.2 }])).numbered) (t.issuedCmd info) none

/-- What CHAIN does once it is issued: its header is read and checked, then its records. -/
def State.chainBody (x : Nat) (a b : SReg) (s : State) (k : Nat) (t : Task) : Issue :=
  let ag := jobAgent t.slot
  let word := (t.sreg b.val).toNat
  let at_ := t.segment 1 + (t.sreg a.val).toNat
  if word >>> 9 ≠ 0 then .fault .ILLEGAL 0 0
  else if at_ % 64 ≠ 0 then .fault .DESC_INVALID at_ 0
  else match s.protect t.slot at_ 64 false with
  | some code => .fault code at_ 0
  | none =>
    if !s.spansReady ag false [(at_, 64)] then .stay (s.wakeSpans ag false [(at_, 64 + 192 * 8)]) .waitData .none else
    let h := s.readLines ag at_ 1
    let hd := (h.2.1.headD 0#512).toNat
    let n := bitsOf hd 0 4
    if !chainHeaderOk hd then .fault .DESC_INVALID at_ 0
    else match s.protect t.slot (at_ + 64) (192 * n) false with
    | some code => .fault code (at_ + 64) 0
    | none =>
      if !s.spansReady ag false [(at_ + 64, 192 * n)] then .stay (s.wakeSpans ag false [(at_ + 64, 192 * n)]) .waitData .none
      else s.takeChain x k t (taskInsn 0 a.val b.val 2) word at_ h

def execChain (x : Nat) (a b : SReg) (s : State) : Host.Outcome State Fault Refusal :=
  match (s.context x).task with
  | none => .next s
  | some key => .next (s.issue x (taskInsn 0 a.val b.val 2) (s.task key).update (sregs [a.val, b.val]) [] (State.chainBody x a b))

/-! ### Stages (R178, R179) -/

/-- A stage's descriptor for block b: BASE, ORG1 and OFFSET advanced. -/
def advanceDesc (raw adv : Nat) (alt : Bool) (b : Nat) : Desc :=
  let d : Desc := ⟨raw⟩
  if d.kind = 0 then
    let base := (d.base + (if alt then b % 2 else b) * adv) % 2 ^ 56
    ⟨setBits (setBits raw 0 56 base) (32 * 9) 32 (d.word 9 + b * d.ext1)⟩
  else if d.kind = 1 then ⟨setBits raw (32 * 4) 25 (d.offset + b * d.count)⟩
  else d

def Chain.src (c : Chain) (stage b : Nat) : Desc :=
  advanceDesc (c.line stage 1) (c.control stage 2) (bitOf (c.control stage 0) 3) b
def Chain.dst (c : Chain) (stage b : Nat) : Desc :=
  advanceDesc (c.line stage 2) (c.control stage 3) (bitOf (c.control stage 0) 4) b
def Chain.dstAlt (c : Chain) (stage : Nat) : Bool := bitOf (c.control stage 0) 4

def Chain.isDone (c : Chain) (stage b : Nat) : Bool := c.done.contains (b * 8 + stage)

/-- Whether the dependencies of stage k of block b are complete (R179). -/
def Chain.mayStart (c : Chain) (k b : Nat) : Bool :=
  k < c.stages && b < c.blocks && !c.started.contains (b * 8 + k) &&
  (k = 0 || c.isDone (k - 1) b) && (b = 0 || c.isDone k (b - 1)) &&
  (!c.dstAlt k || c.stages ≤ k + 1 || b < 2 || c.isDone (k + 1) (b - 2)) &&
  (c.stopped.isNone || (c.started.contains (b * 8) && !c.failed.any (fun f => f / 8 = b)))

/-- Blocks that a chain may work on: those with a stage started, and the next. -/
def Chain.reach (c : Chain) : Nat := c.started.foldl (fun a f => max a (f / 8 + 1)) 0

/-- Whether a stopped chain has nothing left: no stage runs and none may start. -/
def Chain.spent (c : Chain) : Bool :=
  c.started.all (fun f => c.done.contains f || c.failed.contains f) &&
  (List.range (c.reach + 1)).all (fun b => (List.range 8).all (fun k => !c.mayStart k b))

/-- The command of a chain's stage, with no token of its own. -/
def State.stageInfo (s : State) (m : Nat) (c : Chain) (k b tid : Nat) : CmdInfo :=
  { c.info with id := s.tick, token := none, tid := tid, chain := some (m, c.info.id, b * 8 + k) }

/-- The chunks of an MTILE's views: chunk `i` is `w` elements of dimension 0 from element i × w (R178). -/
def chunkView (d : Desc) (w i : Nat) : Desc :=
  let n := min w (d.ext0 - i * w)
  ⟨setBits (setBits (setBits d.raw 0 56 (d.base + i * w * d.fmt.width / 8)) (32 * 2) 16 n) (32 * 8) 32 (d.word 8 + i * w)⟩

/-- The matrix commands of an MTILE stage, and the check that fails first. -/
def State.tileFault (s : State) (m slot key : Nat) (c : Chain) (k : Nat) (src wt dst : Desc) : Option Code :=
  let e := s.engine m 4
  let cmd := c.control k 1
  let func := bitsOf (c.control k 4) 0 9
  if e.owner ≠ some key then some .MA_ORDER
  else if neededQuads 4 e.cfg &&& s.fld (Reg.MA_FENCE m) 0 4 ≠ 0 then some .MA_FENCED
  else match s.sourceFault m slot src, s.sourceFault m slot wt, s.mdrnFault m slot 4 dst (cmd / 512 * 512) func with
  | some f, _, _ => some f.1
  | _, some f, _ => some f.1
  | _, _, some f => some f.1
  | none, none, none =>
    if wrongView src (cfgA e.cfg) || wrongView wt (cfgB e.cfg) then some .MA_FORMAT
    else if unitRows 4 e.cfg < src.ext1 || setColumns 4 < wt.ext1 || wt.ext0 ≠ src.ext0 then some .MA_SHAPE
    else if e.undrained then some .MA_ORDER
    else none

/-- A motif's chain replaced. -/
def State.setChain (s : State) (m : Nat) (c : Chain) : State :=
  s.setChains m ((s.chainsOf m).map (fun d => if d.info.id = c.info.id then c else d))

/-- An MTILE stage's commands take places in the array queue behind those of the chain that wait already; what finds no room waits with
the chain (R160, R192). -/
def State.feedTile (s : State) (m : Nat) (c : Chain) (cmds : List MCmd) : State :=
  let n := arrayLimit - s.queueFill m
  let l := c.todo ++ cmds
  let e := s.engine m 4
  (s.setChain m { c with todo := l.drop n }).putEngine m 4 { e with queue := e.queue ++ l.take n, loadQueued := true }

/-- An MTILE stage given to the full array: each chunk loaded and streamed, then the swap and the drain. -/
def State.startTile (s : State) (m : Nat) (c : Chain) (k b : Nat) : State :=
  let key := c.info.key
  let slot := slotOf key
  let src := c.src k b
  let dst := c.dst k b
  let wt : Desc := ⟨(c.weights.getD k 0#512).toNat⟩
  let stage := some (m, c.info.id, b * 8 + k)
  match s.tileFault m slot key c k src wt dst with
  | some code => s.landStage stage (codeNumber code)
  | none =>
    let e := s.engine m 4
    let w := unitCols 4 e.cfg
    let quiet := { s.stageInfo m c k b 0 with chain := none }
    let drain := s.stageInfo m c k b dst.tid
    let cmd := c.control k 1 / 512 * 512
    let func := bitsOf (c.control k 4) 0 9
    let cmds := (List.range ((src.ext0 + w - 1) / w)).flatMap (fun i =>
        [MCmd.mlds quiet (chunkView src w i).raw false, MCmd.mstr quiet (chunkView wt w i).raw false 0]) ++
      [MCmd.mswap quiet, MCmd.mdrn drain dst.raw cmd (c.control k 5) func c.flush]
    match State.mdrnRefusal (s.setEngine m 4 { e with queue := e.queue ++ [.mswap quiet] }) m 4 dst cmd func with
    | some code => s.landStage stage (codeNumber code)
    | none => s.numbered.feedTile m c cmds

/-- A stage of a block given to its unit; none where the unit has no room for it now. -/
def State.startStage (s : State) (m : Nat) (c : Chain) (k b : Nat) (host : List Host.Cell) : Option State :=
  let slot := slotOf c.info.key
  let src := c.src k b
  let dst := c.dst k b
  let word := c.control k 1 / 512 * 512
  let stage := some (m, c.info.id, b * 8 + k)
  match c.kind k with
  | 0 =>
    match s.xferFault m slot dst src word with
    | some e => some (s.landStage stage (codeNumber e.1))
    | none =>
      if xferLimit ≤ (s.xfers m).length then none
      else some ((s.setXfers m (s.xfers m ++
        [{ info := s.stageInfo m c k b dst.tid, dst := dst.raw, src := src.raw, subout := c.flush }])).numbered)
  | 3 =>
    if arrayLimit ≤ s.queueFill m || (s.chainsOf m).any (fun d => d.todo ≠ []) then none
    else some (s.startTile m c k b)
  | 4 =>
    let t := s.task c.info.key
    let w := [BitVec.ofNat 32 (c.control k 1), BitVec.ofNat 32 m, BitVec.ofNat 32 b, BitVec.ofNat 32 src.base, BitVec.ofNat 32 dst.base,
      BitVec.ofNat 32 (c.control k 7)]
    let n := (s.job slot).nextSerial
    let r := s.placeTask m slot (c.info.key % 2 ^ 32) (if s.alive c.info.key then t.request else none) w
    if r.2 = 0 then
      let key := 2 ^ 32 * slot + n % 2 ^ 32
      some (r.1.setTask key { r.1.task key with chain := stage })
    else none
  | kind =>
    let gather := kind = 1
    let h := hoistOf m
    let hc : HCmd := {
      id := s.tick, info := s.stageInfo m c k b dst.tid, gather := gather, motif := m, d := dst.raw, a := src.raw, word := word, flush := c.flush,
      request := if s.alive c.info.key then (s.task c.info.key).request else none }
    match s.hoistFault m slot hc with
    | some e => some (s.landStage stage (codeNumber e.1))
    | none =>
      if hoistLimit ≤ (s.hoist h).length then none
      else if gather then some (s.numbered.queueGather h hc host)
      else some ((s.numbered.setHoist h (s.hoist h ++ [hc])).startScatter h hc host)

/-- CHAIN_STAGE_START: a stage of a block of one of a motif's chains starts, or an MTILE stage that has started goes on into the array
queue. -/
def State.chainStart (s : State) (m index k b : Nat) (host : List Host.Cell) : State :=
  match (s.chainsOf m)[index]? with
  | none => s
  | some c =>
    if c.kind k = 3 && c.started.contains (b * 8 + k) then (if c.todo = [] then s else s.feedTile m c [])
    else if !c.mayStart k b then s else
    let c := { c with started := c.started ++ [b * 8 + k] }
    match State.startStage (s.setChain m c) m c k b host with
    | some t => t
    | none => s

def execChainStageStart (motif index stage block : Nat) (host : List Host.Cell) (s : State) : Host.Outcome State Fault Refusal :=
  .next (s.chainStart motif index stage block host)

/-- What a stage's report does to its chain. -/
def Chain.take (c : Chain) (f report : Nat) : Chain :=
  let c := { c with landed := c.landed.drop 1 }
  if report < 2 then { c with done := c.done ++ [f], err := c.err || report = 1 }
  else { c with failed := c.failed ++ [f], stopped := some (c.stopped.getD (f % 8 + f / 8 * 8 + 2 ^ 19 * report)) }

/-- CHAIN_STAGE_COMPLETE: the oldest report of a stage's end is taken. A failing MTILE is run once more; the last stage of the last
block ends the chain, and so does the last of the blocks in flight of a stopped one. -/
def State.chainComplete (s : State) (m index : Nat) : State :=
  match (s.chainsOf m)[index]? with
  | none => s
  | some c =>
    match c.landed with
    | [] => s
    | (f, report) :: _ =>
      if report = codeNumber .FOOTING_MISMATCH && c.kind (f % 8) = 3 && !c.rerun.contains f then
        let c := { c with landed := c.landed.drop 1, rerun := c.rerun ++ [f] }
        (s.setChain m c).startTile m c (f % 8) (f / 8)
      else
        let c := c.take f report
        let s := s.setChain m c
        let gone := fun (s : State) => s.setChains m ((s.chainsOf m).filter (fun d => d.info.id ≠ c.info.id))
        match c.stopped with
        | none => if c.done.length = c.stages * c.blocks then ((gone s).endCmd c.info c.err).settleAborts else s
        | some detail => if c.spent then ((gone s).deferFault .CHAIN_STOP c.info 0 (detail % 2 ^ 32)).settleAborts else s

def execChainStageComplete (motif index : Nat) (s : State) : Host.Outcome State Fault Refusal := .next (s.chainComplete motif index)

end Sys2Proof.Machine
end

