-- ==== Sys2Proof/Machine/Level.lean ====
section
/-! DEFINITION. The level tier's channels (R235 to R245), accesses through the deep windows (R246, R247, R367) and the grant of
transaction tags (R248, R249). -/

namespace Sys2Proof.Machine

/-! ### Errors met in what a channel stores -/

/-- Errors met in the stored symbols of a block's check area (R236). -/
def State.upsetArea (s : State) (c block : Nat) (errors : List (Nat × Nat)) : State :=
  let k := 2 ^ 22 * c + block
  let a := s.areas.get {} k
  { s with areas := s.areas.put {} k { a with errs := a.errs.addAll 64 errors } }

/-- Errors met in the stored symbols of the pair at an EXT address: symbols 0 to 63 are its data, and 64 and 65 its check symbols, which
stand in the check area of its block (R236, R237). -/
def State.upsetPair (s : State) (c addr a : Nat) (errors : List (Nat × Nat)) : State :=
  let s : State := { s with pairErrs := s.pairErrs.put [] (a / 128) ((s.pairErrs.get [] (a / 128)).addAll 64 errors) }
  let j := addr % 4096 / 128
  s.upsetArea c (addr / 4096) ((errors.filter (fun e => e.1 = 64 ∨ e.1 = 65)).map (fun e => (2 * j + e.1 - 64, e.2)))

/-! ### Accesses to the level tier -/

/-- The headframe that controls a channel. -/
def hfOfChannel (c : Nat) : Nat := c / 48

/-- A level access or a posted deep write as it asks for its tag. -/
def State.accessReq (s : State) (hf : Nat) (slot : Option Nat) (a size : Nat) (data : Option (List Byte)) (failed : Bool) : TagWait :=
  { hf := hf, slot := slot, age := s.tick, user := .access, addr := a, size := size, data := data, failed := failed }

/-- Such an access that holds its tag: its data go out or are stored, and the tag is freed (R248). A read that link ECC failed twice counts
as an uncorrectable one (R235). -/
def State.runAccess (s : State) (w : TagWait) : State :=
  let s := s.takeTag w
  let s := match w.data with
    | some bs => s.writeDev .outside w.addr (bs.take w.size)
    | none =>
      if w.failed then
        let s := match s.ldMap (pairBase w.addr - extBase) with | some (c, addr) => s.pairUe c addr | none => s
        s.emit (.readData (List.replicate w.size 0#8) true)
      else let r := s.readDev .outside w.addr w.size []; r.1.emit (.readData r.2.1 r.2.2)
  s.freeUser .access

/-- An access as it arrives: it runs, or waits for a tag. -/
def State.tagAccess (s : State) (w : TagWait) : State := if s.tagFree w.hf w.slot then s.runAccess w else (s.stallTag w).numbered

/-- Whether an access lies in one pair of the installed capacity. -/
def State.onePair (s : State) (a size : Nat) : Bool := s.extOk a size && a % 128 + size ≤ 128

/-- Whether a channel is in service. -/
def State.chanUp (s : State) (c : Nat) : Bool := c < 96 && s.fld (Reg.LD_CH_STATE c) 0 2 = 2

/-- A channel fenced, with the step at which it failed (R244, R245). -/
def State.fenceChannel (s : State) (c step : Nat) : State :=
  (s.setFld (Reg.LD_CH_STATE c) 0 5 (3 + 4 * step)).raise .LD_CH_FENCED .fenced (srcChannel c) [c, step]

/-- LD_CH_FAIL (R245): a channel that fails in service is fenced, the next S4 excludes its package, and every job with EXT enabled is asked
to reload its checkpoint. -/
def State.ldChFail (s : State) (c : Nat) : State :=
  if !s.chanUp c then s else
  let s : State := { s with pkgExcluded := s.pkgExcluded.put false (c / 8) true, retryFails := s.retryFails.del c }
  ((List.range 64).filter (fun j => s.bit (Reg.PN_JOBMAP_CTL j) 25 && !([SlotPhase.free, .stopped, .done].any (s.slotIs j)))).foldl (fun s j => s.reloadStop j) (s.fenceChannel c 7)

/-- A link-ECC retry that failed again: the sixteenth within one second fails the channel (R245). -/
def State.retryFail (s : State) (c : Nat) : State :=
  let now := s.usec (hfOfChannel c)
  let l := now :: (s.retryFails.get [] c).filter (fun t => now < t + 1000000)
  if 16 ≤ l.length then s.ldChFail c else { s with retryFails := s.retryFails.put [] c l }

def execLdChFail (channel : Nat) (s : State) : Host.Outcome State Fault Refusal := .next (s.ldChFail channel)

/-- LD_READ (R235, R238): an access of one pair. It waits while every bridge of its headframe towards the panels is full (R21). `errors` and
`areaErrors` are the symbol errors it meets, `linkFails` how many times link ECC reported an uncorrectable error. -/
def State.ldRead (s : State) (slot : Option Nat) (a size : Nat) (errors areaErrors : List (Nat × Nat)) (linkFails : Nat) : State :=
  if !s.onePair a size then s else
  match s.ldMap (pairBase a - extBase) with
  | none => s
  | some (c, addr) =>
    let s := (s.upsetPair c addr a errors).upsetArea c (addr / 4096) areaErrors
    let hf := hfOfChannel c
    if s.hfHolds hf then s else
    if s.fld (Reg.LD_CH_STATE c) 0 2 = 3 || linkFails = 0 then s.tagAccess (s.accessReq hf slot a size none false)
    else
      let s := (s.setBit (Reg.LD_STATUS c) 2 true).count (Reg.LD_LINK_COUNT c) 0 16 1
      if linkFails = 1 then s.tagAccess (s.accessReq hf slot a size none false)
      else
        let s := (s.count (Reg.LD_LINK_COUNT c) 16 16 1).retryFail c
        s.tagAccess (s.accessReq hf slot a size none true)

def execLdRead (slot : Option Nat) (addr size : Nat) (errors areaErrors : List (Nat × Nat)) (linkFails : Nat) (s : State) :
    Host.Outcome State Fault Refusal :=
  .next (s.ldRead slot addr size errors areaErrors linkFails)

/-- LD_WRITE (R239): a write within one pair. -/
def State.ldWrite (s : State) (slot : Option Nat) (a : Nat) (data : List Byte) : State :=
  if !s.onePair a data.length then s else
  match s.ldMap (pairBase a - extBase) with
  | none => s
  | some (c, _) => s.tagAccess (s.accessReq (hfOfChannel c) slot a data.length (some data) false)

def execLdWrite (slot : Option Nat) (addr : Nat) (data : List Byte) (s : State) : Host.Outcome State Fault Refusal :=
  .next (s.ldWrite slot addr data)

/-- LD_REFRESH (R241, R249): a refresh holds one bank of a channel for a time. It asks for a tag as refresh-driven controller work and frees it
as it ends. -/
def State.ldRefresh (s : State) (channel bank : Nat) : State :=
  if 96 ≤ channel || 16 ≤ bank then s else
  let w : TagWait := { hf := hfOfChannel channel, slot := none, age := s.tick, user := .refresh, addr := bank }
  if s.tagFree w.hf none then (s.takeTag w).freeUser .refresh else (s.stallTag w).numbered

def execLdRefresh (channel bank : Nat) (s : State) : Host.Outcome State Fault Refusal := .next (s.ldRefresh channel bank)

/-- LD_RFM (R235): counted. -/
def State.ldRfm (s : State) (c : Nat) : State := if s.chanUp c then s.count (Reg.LD_SCRUB_COUNT c) 16 16 1 else s

def execLdRfm (channel : Nat) (s : State) : Host.Outcome State Fault Refusal := .next (s.ldRfm channel)

/-- LD_CALIBRATION (R207, R242, R245): the window is counted if it waited for an idle channel and if it took the channel at CAL_SLACK; a
window that cannot restore timing fences the channel. -/
def State.ldCalibration (s : State) (c : Nat) (waited forced restored : Bool) : State :=
  if !s.chanUp c then s else
  let s := s.count (Reg.LD_CAL_ARB c) 0 16 (b2n (waited || forced))
  let s := s.count (Reg.LD_CAL_ARB c) 16 16 (b2n forced)
  if restored then s else s.ldChFail c

def execLdCalibration (channel : Nat) (waited forced restored : Bool) (s : State) : Host.Outcome State Fault Refusal :=
  .next (s.ldCalibration channel waited forced restored)

/-! ### Scrub (R243) -/

/-- Blocks of a channel. -/
def State.chanBlocks (s : State) : Nat := s.chanBytes / 31 * 32 / 4096

/-- The device address of pair `j` of a channel's block, where EXT reaches it: R240 read backwards. -/
def State.pairAt (s : State) (c block j : Nat) : Option Nat :=
  let base := if s.bit Reg.HF_LD_CFG 2 then c / 8 * (8 * s.chanBytes) else 0
  let set := s.chanSet base
  let n := set.length
  let q := block * 31 + j
  if set.contains c then some (extBase + base + 128 * (q * n + (set.idxOf c + n - q % n) % n)) else none

/-- What scrub found in a part of a block. -/
inductive ScrubFind
  | clean
  | fixed
  | bad
deriving DecidableEq, Repr

/-- The check area scrubbed: a corrected one is written back. The area stands in the check cache afterwards. -/
def State.scrubArea (s : State) (c block : Nat) : State × ScrubFind × Errors :=
  let k := 2 ^ 22 * c + block
  let cached := (s.checkCache.get [] c).any (fun e => e.block = block)
  let a := s.areas.get {} k
  let f := eccFind 64 a.errs
  let s := if !cached then s else match f with
    | .clean => s
    | .fix i _ => s.pairCe c (4096 * block + 3968) i
    | .bad => s.pairUe c (4096 * block + 3968)
  let r := s.touchArea c block
  match f with
  | .clean => (r.1, .clean, r.2)
  | .fix _ _ => ({ r.1 with areas := r.1.areas.put {} k { kept := a.kept.addAll 62 (f.residue a.errs) } }, .fixed, r.2)
  | .bad => (r.1, .bad, r.2)

/-- One pair scrubbed: a corrected one is written back with its check, an uncorrectable one is logged and left in place. -/
def State.scrubPair (s : State) (c block j : Nat) (wrong : Errors) : State × ScrubFind :=
  match s.pairAt c block j with
  | none => (s, .clean)
  | some a =>
    let addr := 4096 * block + 128 * j
    let e := s.pairErrors a addr wrong
    match eccFind 66 e with
    | .clean => (s, .clean)
    | .fix i v => ((s.pairCe c addr i).storePair c addr a (some (e.add i v)) [], .fixed)
    | .bad => (s.pairUe c addr, .bad)

/-- The errors that scrub's read of a block meets: (codeword, symbol, value), codewords 0 to 30 the pairs and 31 the check area. -/
def State.upsetBlock (s : State) (c block : Nat) (errors : List (Nat × Nat × Nat)) : State :=
  errors.foldl (fun s e =>
    if e.1 = 31 then s.upsetArea c block [e.2]
    else if 31 < e.1 then s
    else match s.pairAt c block e.1 with
      | some a => s.upsetPair c (4096 * block + 128 * e.1) a [e.2]
      | none => s) s

/-- Corrections of a block in succession (R243): a corrected pass is one more, a clean one ends the run, and one that only found what it
could not correct leaves it. -/
def runsAfter (found : List ScrubFind) (runs : Nat) : Nat :=
  if found.contains .fixed then runs + 1 else if found.contains .bad then runs else 0

/-- LD_SCRUB_READ: the next block of a channel's walk, with the symbol errors that the read meets. -/
def State.ldScrub (s : State) (c : Nat) (forced : Bool) (errors : List (Nat × Nat × Nat)) : State :=
  if !s.chanUp c || !s.bit Reg.HF_LD_SCRUB 16 then s else
  let block := s.fld (Reg.LD_SCRUB_POS c) 0 22
  let q := (s.upsetBlock c block errors).scrubArea c block
  let r := (List.range 31).foldl (fun (acc : State × List ScrubFind) j =>
    let p := acc.1.scrubPair c block j q.2.2
    (p.1, p.2 :: acc.2)) (q.1, [q.2.1])
  let s := r.1
  let k := 2 ^ 22 * c + block
  let runs := runsAfter r.2 (s.weakRuns.get 0 k)
  let s : State := { s with weakRuns := s.weakRuns.put 0 k runs }
  let lim := s.fld Reg.HF_LD_SCRUB 17 4
  let s := if r.2.contains .fixed && lim ≠ 0 && lim ≤ runs then s.setStatus (Reg.LD_STATUS c) 4 .LD_BLOCK_WEAK .info (srcChannel c) [block] else s
  let s := s.count (Reg.LD_SCRUB_COUNT c) 0 16 (b2n forced)
  if block + 1 < s.chanBlocks then s.setFld (Reg.LD_SCRUB_POS c) 0 22 (block + 1)
  else (s.setFld (Reg.LD_SCRUB_POS c) 0 22 0).setFld (Reg.LD_SCRUB_POS c) 22 10 (s.fld (Reg.LD_SCRUB_POS c) 22 10 + 1)

def execLdScrubRead (channel : Nat) (turn : LdScrubTurn) (s : State) : Host.Outcome State Fault Refusal :=
  .next (s.ldScrub channel turn.forced turn.errors)

/-! ### Training (R244) -/

/-- Whether a package is through S4: its channels are in service or fenced. -/
def State.pkgDone (s : State) (k : Nat) : Bool := 2 ≤ s.fld (Reg.LD_CH_STATE (8 * k)) 0 2
/-- The capacities of R233, one for all twelve packages. -/
def State.capacityOk (s : State) (giB : Nat) : Bool := [32, 64, 128].contains giB && s.pkgGiB.all (fun e => e.2 = giB)
/-- A package's channels brought to a state. -/
def State.setPackage (s : State) (k st : Nat) : State := (List.range 8).foldl (fun s i => s.setFld (Reg.LD_CH_STATE (8 * k + i)) 0 5 st) s

/-- The next package of a headframe that S4 trains shows TRAINING (R244). -/
def State.trainNext (s : State) (hf : Nat) : State :=
  match (List.range 6).find? (fun i => s.fld (Reg.LD_CH_STATE (8 * (6 * hf + i))) 0 2 < 2) with
  | none => s
  | some i =>
    let k := 6 * hf + i
    if s.pkgExcluded.get false k then s else s.setPackage k 1

/-- LD_PACKAGE_TRAIN: a package is trained at S4, in ascending order in each headframe. `giB` is its capacity, `fails` the channels that
fail with the step at which they do. -/
def State.packageTrain (s : State) (k giB : Nat) (fails : List (Nat × Nat)) : State :=
  if 12 ≤ k || s.fld Reg.PC_BOOT 0 3 ≠ 4 || s.pkgDone k || !(List.range 12).all (fun i => i / 6 ≠ k / 6 || k ≤ i || s.pkgDone i) ||
    !s.capacityOk giB then s else
  let chans := (List.range 8).map (fun i => 8 * k + i)
  let s :=
    if s.pkgExcluded.get false k then
      State.setBit (State.setPackage { s with pkgExcluded := s.pkgExcluded.del k } k 3) Reg.HF_LD_STATE (12 + k) true
    else
      let s : State := { s with pkgGiB := s.pkgGiB.put 0 k giB }
      let bad := fails.filter (fun f => chans.contains f.1 && decide (1 ≤ f.2 ∧ f.2 ≤ 6))
      if bad = [] then (s.setPackage k 2).setBit Reg.HF_LD_STATE k true
      else
        (chans.foldl (fun s c => s.fenceChannel c (match bad.find? (fun f => f.1 = c) with | some f => f.2 | none => 0)) s).setBit
          Reg.HF_LD_STATE (12 + k) true
  s.trainNext (k / 6)

def execLdPackageTrain (package giB : Nat) (fails : List (Nat × Nat)) (s : State) : Host.Outcome State Fault Refusal :=
  .next (s.packageTrain package giB fails)

/-! ### The deep tier -/

/-- A deep read as it asks for its tag. -/
def DeepRead.tagReq (r : DeepRead) : TagWait := { hf := 0, slot := r.slot, age := r.id, user := .deep r.id, addr := r.addr, size := r.size }

/-- A deep read sent: its request goes out once it holds a tag. -/
def State.sendDeep (s : State) (r : DeepRead) : State :=
  let s := s.takeTag r.tagReq
  let s : State := { s with deepReads := s.deepReads.map (fun d => if d.id = r.id then { d with tagged := true } else d) }
  s.emit (.hostRead (s.winFn r.window) r.addr r.size (s.bit (Reg.HF_DEEP_WIN_CTL r.window) 3) (s.bit (Reg.HF_DEEP_WIN_CTL r.window) 4))

/-- One request of a deep read. -/
def State.startDeep (s : State) (w : Nat) (slot : Option Nat) (a n : Nat) : State :=
  let r : DeepRead := { id := s.tick, window := w, slot := slot, addr := a, size := n, tagged := false }
  let s : State := { s with deepReads := s.deepReads ++ [r], tick := s.tick + 1 }
  if s.tagFree 0 slot then s.sendDeep r else s.stallTag r.tagReq

/-- DEEP_ACCESS (R246): a HOST access through its window, a read in requests cut at 256 bytes. -/
def State.deepAccess (s : State) (slot : Option Nat) (a size : Nat) (data : Option (List Byte)) : State :=
  if size = 0 || a < hostBase then s else
  match data with
  | some bs => if bs.length < size then s else s.tagAccess (s.accessReq 0 slot a size (some bs) false)
  | none =>
    match s.deepWin a size with
    | none => (s.unmapped a false).emit (.readData (List.replicate size 0#8) true)
    | some w =>
      if !s.busMaster.get false (s.winFn w) then s.emit (.readData (List.replicate size 0#8) true)
      else (cutSpan 256 (size / 256 + 2) (s.busAddr w a) size).foldl (fun s p => s.startDeep w slot p.1 p.2) s

def execDeepAccess (slot : Option Nat) (addr size : Nat) (data : Option (List Byte)) (s : State) : Host.Outcome State Fault Refusal :=
  .next (s.deepAccess slot addr size data)

/-- A deep read ends: it leaves, and its tag is freed. -/
def State.endDeep (s : State) (r : DeepRead) : State :=
  let s : State := { s with deepReads := s.deepReads.filter (fun d => d.id ≠ r.id) }
  s.freeUser (.deep r.id)

/-- DEEP_READ_COMPLETION (R247): the last completion of a read; an unsuccessful one returns zeros as poisoned. -/
def State.deepDone (s : State) (id : Nat) (data : Option (List Byte)) : State :=
  match s.deepReads.find? (fun d => d.id = id && d.tagged) with
  | none => s
  | some r =>
    let s := s.endDeep r
    match data with
    | some bs => if bs.length = r.size then s.emit (.readData bs false) else (s.deepTimeout r.window).emit (.readData (List.replicate r.size 0#8) true)
    | none => (s.deepTimeout r.window).emit (.readData (List.replicate r.size 0#8) true)

def execDeepReadCompletion (id : Nat) (data : Option (List Byte)) (s : State) : Host.Outcome State Fault Refusal := .next (s.deepDone id data)

/-- DEEP_TIMEOUT (R367): the completion timeout of a read. -/
def execDeepTimeout (id : Nat) (s : State) : Host.Outcome State Fault Refusal := .next (s.deepDone id none)

/-! ### Tag grants (R249) -/

/-- The class of a waiting request: SERVE slots and firmware before TRAIN before BACKGROUND. -/
def State.waitClass (s : State) (w : TagWait) : Nat := match w.slot with | none => 0 | some j => s.fld (Reg.PN_JOB_CTL j) 0 2

/-- The waiting request that a free tag goes to. -/
def State.nextWait (s : State) (hf : Nat) : Option TagWait :=
  (s.tagWait.filter (fun w => w.hf = hf && s.tagAvail hf w.slot)).foldl (fun b w => match b with
    | none => some w
    | some v => if s.waitClass w < s.waitClass v || (s.waitClass w = s.waitClass v && w.age < v.age) then some w else some v) none

/-- What a granted request does with its tag. -/
def State.granted (s : State) (w : TagWait) : State :=
  match w.user with
  | .conn id => s.pump id 1
  | .rows id => match s.rowReqs.find? (fun r => r.id = id) with | some r => s.startRowReq r | none => s
  | .rsp _ _ _ _ => (s.takeTag w).transmitAll w.hf w.packets
  | .deep id => match s.deepReads.find? (fun d => d.id = id) with | some r => s.sendDeep r | none => s
  | .load _ _ | .store _ => s.takeTag w
  | .access => s.runAccess w
  | .refresh => (s.takeTag w).freeUser .refresh

/-- TAG_GRANT: the highest class, then the oldest; a connection's further packets ask again. -/
def State.tagGrant (s : State) (hf : Nat) : State :=
  match s.nextWait hf with
  | none => s
  | some w =>
    let rest := s.tagWait.erase w
    let s := State.granted { s with tagWait := [] } w
    let s : State := { s with tagWait := rest ++ s.tagWait }
    match w.user with
    | .conn id => s.pumpAll id
    | _ => s

def execTagGrant (hf : Nat) (s : State) : Host.Outcome State Fault Refusal := .next (s.tagGrant hf)

end Sys2Proof.Machine
end

