-- ==== Sys2Proof/Machine/Sweep.lean ====
section
/-! DEFINITION. The update sweep (R180, R300 to R309): staging, update tasks, write-back, and the copies of phase 2. -/

namespace Sys2Proof.Machine

/-! ### The sweep table -/

/-- Word w of a sweep table entry. -/
def State.up (s : State) (slot e w : Nat) : Nat :=
  ofBytes (s.bytes (s.rd2 (Reg.UP_JOB_PARAM_LO slot) (Reg.UP_JOB_PARAM_HI slot) + 128 * e + 4 * w) 4)
/-- A device address in words w and w + 1 of an entry. -/
def State.upAddr (s : State) (slot e w : Nat) : Nat := s.up slot e w + 2 ^ 32 * (s.up slot e (w + 1) % 2 ^ 24)
/-- Entries of a slot's sweep table. -/
def State.upCount (s : State) (slot : Nat) : Nat := s.fld (Reg.UP_JOB_PARAMS slot) 0 12
/-- MASTER: 0 split, 1 SR16, 2 split with an SR16 map, 3 embedding table. -/
def State.upMaster (s : State) (slot e : Nat) : Nat := bitsOf (s.up slot e 0) 0 2
def State.upProgram (s : State) (slot e : Nat) : Nat := bitsOf (s.up slot e 0) 2 3
/-- Whether state vector v (0, 1) of an entry is present. -/
def State.upHas (s : State) (slot e v : Nat) : Bool := bitOf (s.up slot e 0) (5 + v)
def State.upTable (s : State) (slot e : Nat) : Nat := bitsOf (s.up slot e 0) 11 12
def State.upRows (s : State) (slot e : Nat) : Nat := s.up slot e 1 % 2 ^ 16
def State.upCols (s : State) (slot e : Nat) : Nat := s.up slot e 2 % 2 ^ 16

/-- Segments of a channel (R303). -/
def segsOf (cols : Nat) : Nat := (cols + 1023) / 1024
/-- Segments of an entry. -/
def State.upSegs (s : State) (slot e : Nat) : Nat := s.upRows slot e * segsOf (s.upCols slot e)
/-- First element and length of a segment. -/
def segRange (cols g : Nat) : Nat × Nat :=
  let k := max 1 (segsOf cols)
  (g / k * cols + g % k * 1024, min 1024 (cols - g % k * 1024))
/-- Segment of an element. -/
def segOfElem (cols i : Nat) : Nat := i / max 1 cols * segsOf cols + i % max 1 cols / 1024

/-- The rows of a table that received a gradient, ascending (R305). -/
def State.gradRows (s : State) (n : Nat) : List Nat := (s.rowGrads.filter (fun e => e.1 / 2 ^ 40 = n)).map (fun e => e.1 % 2 ^ 40)

/-- Blocks of an entry (R305). -/
def State.upBlocks (s : State) (slot e : Nat) : Nat :=
  if s.upMaster slot e = 3 then
    let k := max 1 (1024 / max 1 (s.dimOf (s.upTable slot e)))
    ((s.gradRows (s.upTable slot e)).length + k - 1) / k
  else
    let cols := s.upCols slot e
    if cols = 0 then 0
    else if cols ≤ 1024 then (s.upRows slot e + 1024 / cols - 1) / (1024 / cols) else s.upSegs slot e

/-- First element and elements of a dense block. -/
def State.denseBlock (s : State) (slot e b : Nat) : Nat × Nat :=
  let cols := s.upCols slot e
  if cols ≤ 1024 then
    let k := 1024 / max 1 cols
    (b * k * cols, min k (s.upRows slot e - b * k) * cols)
  else segRange cols b
/-- Rows of an embedding block. -/
def State.rowBlock (s : State) (slot e b : Nat) : List Nat :=
  let n := s.upTable slot e
  let k := max 1 (1024 / max 1 (s.dimOf n))
  ((s.gradRows n).drop (b * k)).take k

/-! ### Reading what a block holds -/

/-- Whether an element of a dense entry is stored as SR16 (R301). -/
def State.isSr16 (s : State) (slot e i : Nat) : Bool :=
  match s.upMaster slot e with
  | 1 => true
  | 2 =>
    let c := i / max 1 (s.upCols slot e)
    (s.byte (s.upAddr slot e 24 + c / 8)).getLsbD (c % 8)
  | _ => false

/-- Master values of a span of a dense entry in binary32: halves joined, SR16 widened (R180, R300). The flag says that data were
uncorrectable. -/
def State.readMaster (s : State) (slot e first n : Nat) : State × List Word × Bool :=
  let a := s.upAddr slot e 4 + 2 * first
  let hi := s.readDev (jobAgent slot) a (2 * n) []
  let lo : State × List Byte × Bool :=
    if s.upMaster slot e = 1 then (hi.1, [], false) else hi.1.readDev (jobAgent slot) (a + s.up slot e 6) (2 * n) []
  let his := halves hi.2.1 n
  let los := halves lo.2.1 n
  (lo.1, (List.range n).map (fun i =>
    BitVec.ofNat 32 (2 ^ 16 * his.getD i 0 + if s.isSr16 slot e (first + i) then 0 else los.getD i 0)), hi.2.2 || lo.2.2)

/-- The address of a segment's scale word (R303). -/
def State.segWord (s : State) (slot e v g : Nat) : Nat := s.upAddr slot e 13 + 4 * (v * s.upSegs slot e + g)

/-- The descriptor of a dense entry's state vector. -/
def State.stateDesc (s : State) (slot e v : Nat) : Desc := ⟨ofBytes (s.bytes (s.upAddr slot e (9 + 2 * v)) 64)⟩

/-- State values of a span of a dense entry, dequantised against its segments' scale words; the flags go to the slot (R309). -/
def State.readState (s : State) (slot e v first n : Nat) : State × List Word × Bool :=
  let d := s.stateDesc slot e v
  let k := blockCodes d.fmt
  let bs := (List.range ((first + n - 1) / k + 1 - first / k)).map (fun i => first / k + i)
  let r := s.readBlocksOf (jobAgent slot) d bs []
  let x := (List.range n).map (fun j =>
    let i := first + j
    let scale := BitVec.ofNat 32 (ofBytes (s.bytes (s.segWord slot e v (segOfElem (s.upCols slot e) i)) 4))
    match r.2.1.find? (fun b => b.num = i / k) with
    | some b => d.blockValue (fun _ => scale) b i
    | none => (0, 0#8))
  (r.1.flagSlot slot (x.foldl (fun a e => a ||| e.2) 0#8) (s.up slot e 3), x.map (fun e => BitVec.ofNat 32 e.1), r.2.2)

/-- A binary32 vector of memory. -/
def State.readWords (s : State) (ag : Agent) (a n : Nat) : State × List Word × Bool :=
  let r := s.readDev ag a (4 * n) []
  (r.1, wordsOfBytes n r.2.1, r.2.2)

/-- Whether a row's copy lies in a KIND 0 window closed by an expired lease (R308). -/
def State.rowClosed (s : State) (a : Nat) : Bool :=
  hostBase ≤ a && (List.range 64).any (fun w =>
    s.bit (Reg.HF_DEEP_WIN_CTL w) 0 && s.winClosed w &&
    decide (s.rd2 (Reg.HF_DEEP_WIN_OFF_LO w) (Reg.HF_DEEP_WIN_OFF_HI w) ≤ a - hostBase) &&
    decide (a - hostBase < s.rd2 (Reg.HF_DEEP_WIN_OFF_LO w) (Reg.HF_DEEP_WIN_OFF_HI w) + s.rd2 (Reg.HF_DEEP_WIN_SIZE_LO w) (Reg.HF_DEEP_WIN_SIZE_HI w)))

/-- The rows of an embedding block: their values and states; a row that a closed window holds reads zeros. -/
def State.readRows (s : State) (n : Nat) (host : List Host.Cell) (rows : List Nat) : State × List RowVal × Bool :=
  let v := s.curVsn n
  rows.foldl (fun acc r =>
    let k := tallyKey n v r
    let at_ := s.locate n v r
    if s.rowClosed at_.1 then
      (acc.1, acc.2.1 ++ [decodeRow at_.2 (s.dimOf n) (s.stateKind n) (List.replicate (slotBytes at_.2 (s.dimOf n) (s.stateKind n)) 0#8)], acc.2.2)
    else
      let d := acc.1.readRow k at_.1 at_.2 host
      (d.1, acc.2.1 ++ [d.2.1], acc.2.2 || d.2.2)) (s, [], false)

/-! ### Phase 1 -/

def State.sweep (s : State) (slot : Nat) : SweepSt := s.sweeps.get {} slot
def State.setSweep (s : State) (slot : Nat) (v : SweepSt) : State := { s with sweeps := s.sweeps.put {} slot v }

/-- SWEEP_START (R304): the live count is zero, the flush is complete, and no plait entry or collective of the slot is still to end. -/
def State.sweepStart (s : State) (slot : Nat) : State :=
  let j := s.job slot
  if j.drainOrder ≠ 2 || j.flushed ≠ 2 || s.entriesOf slot [1] ≠ [] || s.runningColls slot ≠ [] then s
  else ((s.setJob slot { j with drainOrder := 3 }).setSlot slot .sweep).setSweep slot { ran := (s.sweep slot).ran }

def execSweepStart (slot : Nat) (s : State) : Host.Outcome State Fault Refusal := .next (s.sweepStart slot)

/-- A fault in the sweep stops the slot and asks for a checkpoint reload (R309). -/
def State.sweepFault (s : State) (slot : Nat) (code : Code) (m : Nat) : State :=
  (s.raise .TASK_FAULT .jobFatal (srcJob slot) [codeNumber code, m, slot]).reloadStop slot

/-- The motifs that list a slot, panel by panel in ring order. -/
def State.ringMotifs (s : State) (slot : Nat) : List Nat := [0, 1, 2, 3].flatMap (fun p => (panelRing (2560 * p)).filter (fun m => s.lists m slot))

/-- The motif of a block (R306). -/
def State.blockMotif (s : State) (slot e b : Nat) : Nat :=
  let a := s.upAddr slot e 4 + 2 * (s.denseBlock slot e b).1
  if s.upMaster slot e ≠ 3 ∧ a < bankEnd then a / 0x60000
  else
    let l := s.ringMotifs slot
    l.getD (b % max 1 l.length) 0

/-- Bytes of one staging area: n elements rounded up to 8 (R180), and to a line. -/
def stageBytes (n : Nat) : Nat := roundUp (4 * roundUp n 8) 64

/-- The banks under a span. -/
def banksIn (a n : Nat) : List Nat := ((bankSpans a n).map (fun p => bankOf p.1)).eraseDups

/-- Whether staging areas lie in banks of the motif that the slot owns and may write, the gradient in a bank of its own (R218, R306). -/
def State.stageOk (s : State) (slot m area grad n : Nat) : Bool :=
  let own := fun (a k : Nat) => a % 64 = 0 && a / 0x60000 = m && (a + k - 1) / 0x60000 = m &&
    (banksIn a k).all (fun b => s.ownerOk b (jobAgent slot) true && !s.bit (Reg.BK_OWNER b) 10)
  own area (3 * stageBytes n + 64) && own grad (stageBytes n) &&
  (banksIn grad (stageBytes n)).all (fun b => !(banksIn area (3 * stageBytes n + 64)).contains b)

/-- A KIND 0 binary32 (format code 0) descriptor of n elements at an address. -/
def plainDesc (a n tid : Nat) : Line :=
  BitVec.ofNat 512 (2 ^ 80 + 2 ^ 96 + a + 2 ^ 64 * n + 2 ^ 352 * tid)

/-- A staging area written, its last elements zero. -/
def State.stage (s : State) (slot a n : Nat) (l : List Word) : State :=
  s.writeDev (jobAgent slot) a (bytesOfWords (l ++ List.replicate (roundUp n 8 - l.length) 0#32))

/-- READ_ONLY of the banks of a gradient stage, by a handover to the slot that owns them. -/
def State.setReadOnly (s : State) (slot grad n : Nat) (v : Bool) : State :=
  (banksIn grad (stageBytes n)).foldl (fun s b => s.handOwner .firmware b (BitVec.ofNat 32 (1 + 8 * slot + 2 ^ 9 * b2n v))) s

/-- The update task of a staged block, queued at its motif with the start state of R180. -/
def State.updateTask (s : State) (slot e b m area grad first n width : Nat) (pc : Word) (last : Bool) : State × Nat :=
  let r := s.newTask slot 0xFFFFFFFF [pc] m
  let tid := s.up slot e 3
  let L := stageBytes n
  let args : List Nat := [n, first % 2 ^ 32, (s.rd (Reg.PN_JOB_STEP_LO slot)).toNat, area + 3 * L, tid,
    b2n (s.upHas slot e 0) + 2 * b2n (s.upHas slot e 1) + 4 * b2n (s.upMaster slot e = 1) + 8 * b2n last, width,
    area, grad, area + L, area + 2 * L]
  let t := { r.1.task r.2 with update := true }
  let t := args.zipIdx.foldl (fun (t : Task) a => t.setS (a.2 + 1) (BitVec.ofNat 32 a.1)) t
  let t := [area, grad, area + L, area + 2 * L].zipIdx.foldl (fun (t : Task) a => t.setT a.2 (plainDesc a.1 (roundUp n 8) tid)) t
  let t := ((t.setCw 1 (BitVec.ofNat 32 tid)).setCw 2 (BitVec.ofNat 32 first)).setCw 3 (BitVec.ofNat 32 (first / 2 ^ 32))
  let s := r.1.setTask r.2 t
  let rows := if s.upMaster slot e = 3 then s.rowBlock slot e b else []
  let blk : SweepBlk := ⟨e, b, r.2, m, area, grad, first, n, rows⟩
  let w := s.sweep slot
  ((s.setQueue m (s.queue m ++ [r.2])).setSweep slot { w with staged := w.staged ++ [blk] }, r.2)

/-- State vectors that a program needs (R308); 3 is the single value of row-wise Adagrad. -/
def State.needKind (s : State) (slot e : Nat) : Nat :=
  match s.upProgram slot e with
  | 0 => 1 | 1 => 2 | 2 => 2 | 3 => 1 | 4 => 3
  | _ => b2n (s.upHas slot e 0) + b2n (s.upHas slot e 1)

/-- The elements of a block, staged: master, gradient, state 1 and state 2, and whether any was uncorrectable. -/
def State.blockData (s : State) (slot e b : Nat) (host : List Host.Cell) : State × List Word × List Word × List Word × List Word × Bool :=
  if s.upMaster slot e = 3 then
    let n := s.upTable slot e
    let rows := s.rowBlock slot e b
    let r := s.readRows n host rows
    let s := r.1.flagSlot slot (r.2.1.foldl (fun a x => a ||| x.flags) 0#8) (s.tbl n 6)
    let st := fun (v : Nat) =>
      if s.stateKind n = 3 then (if v = 0 then r.2.1.map (·.single) else [])
      else r.2.1.flatMap (fun x => x.states.getD v [])
    (s, r.2.1.flatMap (·.vals), rows.flatMap (fun q => s.rowGrads.get [] (rowKey n q)), st 0, st 1, r.2.2)
  else
    let f := s.denseBlock slot e b
    let m := s.readMaster slot e f.1 f.2
    let g := m.1.readWords (jobAgent slot) (s.upAddr slot e 7 + 4 * f.1) f.2
    let st := fun (s : State) (v : Nat) => if s.upHas slot e v then s.readState slot e v f.1 f.2 else (s, [], false)
    let s1 := st g.1 0
    let s2 := st s1.1 1
    (s2.1, m.2.1, g.2.1, s1.2.1, s2.2.1, m.2.2 || g.2.2 || s1.2.2 || s2.2.2)

/-- A block staged and its update task started. -/
def State.stageUpdate (s : State) (slot e b area grad : Nat) (pc : Word) (host : List Host.Cell) : State :=
  let emb := s.upMaster slot e = 3
  let tbl := s.upTable slot e
  let dim := s.dimOf tbl
  let rows := s.rowBlock slot e b
  let f : Nat × Nat := if emb then (rows.headD 0 * dim, rows.length * dim) else s.denseBlock slot e b
  let m := s.blockMotif slot e b
  if emb ∧ s.needKind slot e ≠ s.stateKind tbl then s.sweepFault slot .ILLEGAL m
  else if !s.stageOk slot m area grad f.2 || s.queueFull m then s
  else
    let spans := [(area, 3 * stageBytes f.2 + 64), (grad, stageBytes f.2)]
    if !s.spansReady (jobAgent slot) true spans then s.wakeSpans (jobAgent slot) true spans else
    let d := s.blockData slot e b host
    if d.2.2.2.2.2 then d.1.sweepFault slot .DATA_POISON m else
    let h := d.1.readDev (jobAgent slot) (s.upAddr slot e 21) 64 []
    let L := stageBytes f.2
    let s := ((h.1.stage slot area f.2 d.2.1).stage slot (area + L) f.2 d.2.2.2.1).stage slot (area + 2 * L) f.2 d.2.2.2.2.1
    let s := ((s.writeDev (jobAgent slot) (area + 3 * L) h.2.1).stage slot grad f.2 d.2.2.1).setReadOnly slot grad f.2 true
    let width := if emb then dim else if s.upProgram slot e = 4 then s.upCols slot e else 0
    (s.updateTask slot e b m area grad f.1 f.2 width (if s.upProgram slot e = 7 then BitVec.ofNat 32 (s.up slot e 23) else pc)
      (b + 1 = s.upBlocks slot e)).1

/-- A dense block's master written back (R300, R301): exact halves, or stochastic rounding to SR16. -/
def State.writeMaster (s : State) (slot e first : Nat) (l : List Word) : State :=
  let tid := s.up slot e 3
  let half := fun (p : Word × Nat) =>
    let x := if isNan .b32 p.1.toNat then 0x7FC00000 else p.1.toNat
    if s.isSr16 slot e (first + p.2) then
      let c := convert .b32 .g16 (.sr (srBits (s.seed slot) tid (first + p.2) (s.step32 slot))) false p.1.toNat
      (c.1, 0, c.2)
    else (x / 2 ^ 16, x % 2 ^ 16, 0#8)
  let h := l.zipIdx.map half
  let a := s.upAddr slot e 4 + 2 * first
  let low := s.up slot e 6
  let kind := s.upMaster slot e
  let s := s.writeDev (jobAgent slot) a (h.flatMap (fun x => toBytes 2 x.1))
  let s := if kind = 1 then s else s.writeDev (jobAgent slot) (a + low) (h.flatMap (fun x => toBytes 2 x.2.1))
  s.flagSlot slot (h.foldl (fun f x => f ||| x.2.2) 0#8) tid

/-- The rows of an embedding block written back (R256, R308). -/
def State.writeRows (s : State) (slot n dim : Nat) (master st1 st2 : List Word) : List (Nat × Nat) → State
  | [] => s
  | (r, i) :: rest =>
    let v := s.curVsn n
    let k := tallyKey n v r
    let at_ := s.locate n v r
    let part := fun (l : List Word) => (l.drop (i * dim)).take dim
    let s := if s.rowClosed at_.1 then (s.count (Reg.UP_JOB_WAITS slot) 16 16 1).raise .UP_ROW_LOST .info (srcJob slot) [n, r]
      else
        let kind := s.stateKind n
        let row : RowVal := { vals := part master, states := ([part st1, part st2].take (stateVecs kind)), single := st1.getD i 0#32 }
        (s.writeRowAt k at_.1 at_.2 false row).stale (fun q => q = k)
    s.writeRows slot n dim master st1 st2 rest

/-- A block whose update task has ended written back; the gradient bank is writable again. -/
def State.finishUpdate (s : State) (slot : Nat) (b : SweepBlk) : State :=
  let L := stageBytes b.n
  let e := b.entry
  let spans := [(b.area, 3 * L)]
  if !s.spansReady (jobAgent slot) false spans || (banksIn b.grad L).any (fun k => s.bit (Reg.BK_OWNER k) 10) then
    s.wakeSpans (jobAgent slot) false spans else
  let m := s.readWords (jobAgent slot) b.area b.n
  let s1 := m.1.readWords (jobAgent slot) (b.area + L) b.n
  let s2 := s1.1.readWords (jobAgent slot) (b.area + 2 * L) b.n
  let s := s2.1
  let s := if s.upMaster slot e = 3 then
      s.writeRows slot (s.upTable slot e) (s.dimOf (s.upTable slot e)) m.2.1 s1.2.1 s2.2.1 b.rows.zipIdx
    else s.writeMaster slot e b.first m.2.1
  let w := s.sweep slot
  let keep := fun (st : SMap (List Word)) (v : Nat) (l : List Word) =>
    if s.upMaster slot e ≠ 3 && s.upHas slot e v then st.put [] (2 ^ 32 * (e * 2 + v) + b.first) l else st
  let left := w.staged.filter (fun x => x ≠ b)
  let ran : SweepRan := ⟨e, b.first, b.n, b.motif, b.area, b.grad⟩
  let s := s.setSweep slot { staged := left, done := w.done ++ [(e, b.block)], states := keep (keep w.states 0 s1.2.1) 1 s2.2.1
                             ran := if w.ran.contains ran then w.ran else w.ran ++ [ran] }
  let s := s.setReadOnly slot b.grad b.n false
  if m.2.2 || s1.2.2 || s2.2.2 then s.sweepFault slot .DATA_POISON b.motif else s

/-- SWEEP_UPDATE_TASK: a block of phase 1 is staged at the areas given and its task started; once the task has ended, the command writes
the block back. `pc` is the entry of a library program. -/
def State.sweepUpdate (s : State) (slot e b area grad : Nat) (pc : Word) (host : List Host.Cell) : State :=
  if !s.slotIs slot .sweep || s.upCount slot ≤ e || s.upBlocks slot e ≤ b then s else
  let w := s.sweep slot
  match w.staged.find? (fun x => x.entry = e && x.block = b) with
  | some x => if s.alive x.key then s else s.finishUpdate slot x
  | none => if w.done.contains (e, b) then s else s.stageUpdate slot e b area grad pc host

def execSweepUpdateTask (slot entry block area grad : Nat) (pc : Word) (host : List Host.Cell) (s : State) : Host.Outcome State Fault Refusal :=
  .next (s.sweepUpdate slot entry block area grad pc host)

/-! ### Phase 2: optimiser state and working copies (R302, R303) -/

/-- Smallest and largest finite values of a vector. -/
def finiteRange (l : List Word) : Option (Nat × Nat) :=
  (l.filter (fun x => !notFinite .b32 x.toNat)).foldl (fun acc x => match acc with
    | none => some (x.toNat, x.toNat)
    | some (lo, hi) =>
      let v := valOf .b32 x.toNat
      some (if ltVal v (valOf .b32 lo) then x.toNat else lo, if ltVal (valOf .b32 hi) v then x.toNat else hi)) none

/-- The scale word of a segment or channel (case 2 or 3 of R106). With no finite value the manual states none: `fresh` stands for it. -/
def segScale (fresh margin : Nat) (l : List Word) : Word × Flags :=
  match finiteRange l with
  | none => (BitVec.ofNat 32 fresh, 0#8)
  | some (lo, hi) => calibrate .g8a false margin lo hi

/-- A free value for each segment of an entry. -/
def State.drawScale (s : State) : Nat × State := s.draw

/-- The new values of a state vector, in element order. -/
def State.newStates (s : State) (slot e v : Nat) : List Word :=
  ((s.sweep slot).states.filter (fun x => x.1 / 2 ^ 32 = e * 2 + v)).flatMap (·.2)

/-- Scale words of a state vector's segments written, and its elements as they are to be stored. ESC is set where an element of the
segment escapes (R108). -/
def State.scaleSegs (s : State) (slot e v : Nat) (fmt : Fmt) (l : List Word) : Nat → State × List QElem
  | 0 => (s, [])
  | g + 1 =>
    let r := s.scaleSegs slot e v fmt l g
    let f := segRange (s.upCols slot e) g
    let x := (l.drop f.1).take f.2
    let d := r.1.drawScale
    let sc := segScale d.1 (s.fld (Reg.UP_JOB_DIGEST slot) 24 3) x
    let q := x.zipIdx.map (fun p => ({ index := f.1 + p.2, fmt := .b32, value := p.1.toNat, q := quantCode fmt .rne false true sc.1 (valOf .b32 p.1.toNat) } : QElem))
    let w := if q.any (fun a => a.q.esc) then sc.1 ||| 0x2000000#32 else sc.1
    ((d.2.writeDev (jobAgent slot) (s.segWord slot e v g) (toBytes 4 w.toNat)).flagSlot slot sc.2 (s.up slot e 3), r.2 ++ q)

/-- A state vector written back (R303); its escapes are counted with its blocks (R115). The flag says that the overflow area was
exhausted. -/
def State.writeState (s : State) (slot e v : Nat) : State × Bool :=
  let d := s.stateDesc slot e v
  let r := s.scaleSegs slot e v d.fmt (s.newStates slot e v) (s.upSegs slot e)
  ((r.2.map (fun q => q.index / blockCodes d.fmt)).eraseDups).foldl (fun acc b =>
    if acc.2 then acc else
    let esc := (blockElems (blockCodes d.fmt) b r.2).filter (fun q => q.q.esc)
    let t := (acc.1.countEscapes (acc.1.firstMotif slot) esc.length).storeBlock (jobAgent slot) (acc.1.firstMotif slot) d b false r.2
    (t.st.flagSlot slot t.flags (s.up slot e 3), t.ovf)) (r.1, false)

/-- One channel of a G8a copy: its codes at `a`, its scale word at `w`. -/
def State.writeChannel (s : State) (slot tid a w : Nat) (l : List Word) : State :=
  let d := s.drawScale
  let sc := segScale d.1 0 l
  let q := l.map (fun x => quantCode .g8a .rne false false sc.1 (valOf .b32 x.toNat))
  let s := d.2.writeDev (jobAgent slot) a (q.map (fun c => BitVec.ofNat 8 c.code))
  (s.writeDev (jobAgent slot) w (toBytes 4 sc.1.toNat)).flagSlot slot (q.foldl (fun f c => f ||| c.flags) sc.2) tid

/-- A G8a copy's channels at an address, its scale words after its codes: those that `f` names. -/
def State.writeCopy (s : State) (slot tid a rows cols : Nat) (chan : Nat → List Word) (f : Nat → Bool) : Nat → State
  | 0 => s
  | c + 1 =>
    let s := s.writeCopy slot tid a rows cols chan f c
    if f c then s.writeChannel slot tid (a + c * cols) (a + roundUp (rows * cols) 64 + 4 * c) (chan c) else s

/-- The working copies of a dense entry re-derived for the channels that the elements from `first` on touch (R302, R315). The flag says that
the master could not be read. -/
def State.deriveCopies (s : State) (slot e first n : Nat) : State × Bool :=
  let o := s.upRows slot e
  let i := s.upCols slot e
  if s.upMaster slot e = 3 then (s, false) else
  let m := s.readMaster slot e 0 (o * i)
  let s := m.1
  let row := fun (c : Nat) => (m.2.1.drop (c * i)).take i
  let col := fun (k : Nat) => (List.range o).map (fun c => m.2.1.getD (c * i + k) 0#32)
  let inRow := fun (c : Nat) => decide (c * i < first + n ∧ first < (c + 1) * i)
  let inCol := fun (k : Nat) => (List.range o).any (fun c => inRow c && decide (first ≤ c * i + k ∧ c * i + k < first + n))
  let w := s.up slot e 0
  let s := if bitOf w 8 then s.writeCopy slot (s.up slot e 3) (s.upAddr slot e 15) o i row inRow o else s
  let s := if bitOf w 9 then s.writeCopy slot (s.up slot e 3) (s.upAddr slot e 17) i o col inCol i else s
  let s := if bitOf w 10 then
      (List.range i).foldl (fun s k => if inCol k then
        s.writeDev (jobAgent slot) (s.upAddr slot e 19 + 2 * o * k) ((col k).flatMap (fun x => toBytes 2 (x.toNat / 2 ^ 16))) else s) s
    else s
  (s, m.2.2)

end Sys2Proof.Machine
end

