-- ==== Sys2Proof/Machine/Digest.lean ====
section
/-! DEFINITION. Replica digests (R310 to R315), gradient-noise statistics (R316, R317), phase 2 of the sweep (R307), and the lists that start
work early (R318). -/

namespace Sys2Proof.Machine

/-! ### weave128 and the digest tree -/

/-- The digest of R310 as lo + hi × 2^64. -/
def weave128 (ws : List Nat) (key : Nat) : Nat :=
  let m := 2 ^ 64
  let r := ws.zipIdx.foldl (fun (p : Nat × Nat) w => (weaveMix (p.1 ^^^ w.1), weaveMix ((p.2 + w.1 + w.2) % m)))
    (weaveMix (key % m), weaveMix (key % m ^^^ 0xC3A51D276B0E94F1))
  weaveMix (r.1 ^^^ r.2 / 2) + m * weaveMix (r.2 ^^^ (r.1 * 2) % m)

/-- The 64-bit words of a list of bytes. -/
def words64 : Nat → List Byte → List Nat
  | 0, _ => []
  | n + 1, l => ofBytes (l.take 8) :: words64 n (l.drop 8)

/-- A list cut into runs of k. -/
def chunks {α : Type} (k : Nat) : Nat → List α → List (List α)
  | 0, _ => []
  | n + 1, l => if l = [] then [] else l.take k :: chunks k n (l.drop k)

/-- Leaf digests of a sequence of bytes, 4 KiB each. -/
def leavesOf (l : List Byte) : List Nat :=
  ((chunks 4096 (l.length / 4096 + 1) l).zipIdx).map (fun b => weave128 (words64 512 (b.1 ++ List.replicate (4096 - b.1.length) 0#8)) b.2)

/-- The root over digests at level `lv`. -/
def treeRoot : Nat → Nat → List Nat → Nat
  | 0, _, l => l.headD 0
  | n + 1, lv, l =>
    if l.length ≤ 1 then l.headD 0
    else treeRoot n (lv + 1) (((chunks 16 (l.length / 16 + 1) l).zipIdx).map (fun g =>
      weave128 (g.1.flatMap (fun d => [d % 2 ^ 64, d / 2 ^ 64])) (2 ^ 56 * (lv + 1) + g.2)))
/-- The root of leaf digests. -/
def rootOf (leaves : List Nat) : Nat := treeRoot (leaves.length + 1) 0 leaves

/-! ### The digest set (R311) -/

/-- What an area of the digest set holds. -/
inductive AreaKind
  | values | codes | side | slots | scales
deriving DecidableEq, Repr

/-- An area of the digest set: its entry, what it holds, address and bytes. -/
structure DigestArea where
  entry : Nat
  kind : AreaKind
  addr : Nat
  size : Nat
deriving DecidableEq, Repr

/-- The areas of one state vector: codes, side records, overflow slots in use. -/
def State.stateAreas (s : State) (slot e v : Nat) : List DigestArea :=
  let d := s.stateDesc slot e v
  let n := s.upRows slot e * s.upCols slot e
  let blocks := (n + blockCodes d.fmt - 1) / blockCodes d.fmt
  [⟨e, .codes, d.base, 4096 * blocks⟩, ⟨e, .side, d.aux, 320 * blocks⟩,
    ⟨e, .slots, d.ovf + 64, min d.ovfSlots (ofBytes (s.bytes d.ovf 4)) * d.rawBytes⟩]

/-- The areas of a slot's digest set in order. -/
def State.digestAreas (s : State) (slot : Nat) : List DigestArea :=
  ((List.range (s.upCount slot)).filter (fun e => bitOf (s.up slot e 0) 7 && s.upMaster slot e ≠ 3)).flatMap (fun e =>
    let n := s.upRows slot e * s.upCols slot e
    let low := if s.upMaster slot e = 1 then [] else [(⟨e, .values, s.upAddr slot e 4 + s.up slot e 6, 2 * n⟩ : DigestArea)]
    let vs := [0, 1].filter (s.upHas slot e)
    [⟨e, .values, s.upAddr slot e 4, 2 * n⟩] ++ low ++ vs.flatMap (s.stateAreas slot e) ++
    (if vs = [] then [] else [⟨e, .scales, s.upAddr slot e 13, 4 * vs.length * s.upSegs slot e⟩]))

/-- The bytes of the digest set, each area padded to 4 KiB. -/
def State.digestBytes (s : State) (slot : Nat) : List Byte :=
  (s.digestAreas slot).flatMap (fun a => s.bytes a.addr a.size ++ List.replicate (roundUp a.size 4096 - a.size) 0#8)
def State.digestLeaves (s : State) (slot : Nat) : List Nat := leavesOf (s.digestBytes slot)

/-- The area and the offset in it of a leaf. -/
def leafAt : List DigestArea → Nat → Option (DigestArea × Nat)
  | [], _ => none
  | a :: r, j => let k := roundUp a.size 4096 / 4096; if j < k then some (a, 4096 * j) else leafAt r (j - k)

/-- ROOT_0 to ROOT_3 show the root. -/
def State.showRoot (s : State) (slot : Nat) : State :=
  let r := rootOf (s.digestLeaves slot)
  (List.range 4).foldl (fun s i => s.wr (Reg.UP_JOB_ROOT slot i) (BitVec.ofNat 32 (r / 2 ^ (32 * i)))) s

/-! ### Statistics (R316, R317) -/

/-- binary32 operations by RNE; their flags are not kept. -/
def add32 (a b : Nat) : Nat := (fadd .b32 .rne a b).1
def sub32 (a b : Nat) : Nat := (fsub .b32 .rne a b).1
def mul32 (a b : Nat) : Nat := (fmul .b32 .rne a b).1
/-- Division by RNE. -/
def div32 (a b : Nat) : Nat :=
  match valOf .b32 a, valOf .b32 b with
  | .nan _ _, _ => Fmt.nanCode .b32
  | _, .nan _ _ => Fmt.nanCode .b32
  | .inf _, .inf _ => Fmt.nanCode .b32
  | .inf n, .fin k _ _ => (encVal .b32 .rne false (.inf (n ≠ k))).1
  | .fin n _ _, .inf k => signCode .b32 (n ≠ k)
  | .fin n m e, .fin k m' e' =>
    if m' = 0 then (if m = 0 then Fmt.nanCode .b32 else (encVal .b32 .rne false (.inf (n ≠ k))).1)
    else if m = 0 then signCode .b32 (n ≠ k)
    else let q := quotient m e m' e'; (roundFloat .b32 .rne false (n ≠ k) q.1 q.2.1 q.2.2).1
/-- An integer in binary32. -/
def int32 (n : Nat) : Nat := (roundFloat .b32 .rne false false n 0 false).1

/-- The taps of a layer: the sums of its latched entries of a slot, in ascending entry number; none where no entry latched. -/
def State.layerTaps (s : State) (slot layer : Nat) : Option (Nat × Nat) :=
  let l := (List.range 256).filter (fun i => s.fld (Reg.UP_TAP_CTL i) 0 8 = layer && s.bit (Reg.UP_TAP_CTL i) 8 && s.fld (Reg.PN_PLAIT_CTL i) 14 6 = slot)
  match l with
  | [] => none
  | i :: r => some (r.foldl (fun a j => (add32 a.1 (s.rd (Reg.UP_TAP_LOCAL j)).toNat, add32 a.2 (s.rd (Reg.UP_TAP_REDUCED j)).toNat))
      ((s.rd (Reg.UP_TAP_LOCAL i)).toNat, (s.rd (Reg.UP_TAP_REDUCED i)).toNat))

/-- S and G2 of a layer (R317). -/
def layerStats (n b c local_ reduced : Nat) : Nat × Nat :=
  let nf := int32 n
  let gs := mul32 (mul32 c c) local_
  let gb := div32 (mul32 (mul32 c c) reduced) (mul32 nf nf)
  let n1 := int32 (n - 1)
  (div32 (mul32 (mul32 (int32 b) nf) (sub32 gs gb)) n1, div32 (sub32 (mul32 nf gb) gs) n1)

/-- The statistics record of a sweep (R317). -/
def State.statsBytes (s : State) (slot : Nat) : List Byte :=
  let n := s.fld (Reg.UP_JOB_GROUP slot) 16 16
  let b := (s.rd (Reg.UP_JOB_B_LOCAL slot)).toNat
  let c := (s.rd (Reg.UP_JOB_GRAD_SCALE slot)).toNat
  let taps := (List.range 255).filterMap (s.layerTaps slot)
  let raw := taps.map (fun t => (t.1, t.2, layerStats n b c t.1 t.2))
  let sumS := raw.foldl (fun a t => add32 a t.2.2.1) 0
  let sumG := raw.foldl (fun a t => add32 a t.2.2.2) 0
  let ok := n ≠ 1 && ltVal (.fin false 0 0) (valOf .b32 sumG)
  let z := fun (x : Nat) => if ok then x else 0
  let head := [(s.rd (Reg.PN_JOB_STEP_LO slot)).toNat, (s.rd (Reg.PN_JOB_STEP_HI slot)).toNat, taps.length + b2n ok * 512, n, b, c,
    sumS, sumG, z (div32 sumS sumG), (s.rd (Reg.UP_JOB_SWEEP_LO slot)).toNat, 0, 0, 0, 0, 0, 0]
  (head ++ raw.flatMap (fun t => [t.1, t.2.1, z t.2.2.1, z t.2.2.2])).flatMap (toBytes 4)

/-- The record written into its slot of the statistics ring. -/
def State.statsRecord (s : State) (slot : Nat) : State :=
  let k := s.fld (Reg.UP_JOB_STATS_SLOTS slot) 0 8
  if !s.bit (Reg.UP_JOB_CTL slot) 4 || k = 0 then s else
  let sweep := s.rd2 (Reg.UP_JOB_SWEEP_LO slot) (Reg.UP_JOB_SWEEP_HI slot)
  s.writeDev (jobAgent slot) (s.rd2 (Reg.UP_JOB_STATS_LO slot) (Reg.UP_JOB_STATS_HI slot) + sweep % k * (64 + 16 * 256)) (s.statsBytes slot)

/-! ### Phase 2 -/

/-- Whether every block of every entry is done. -/
def State.phase1Done (s : State) (slot : Nat) : Bool :=
  let w := s.sweep slot
  w.staged = [] && (List.range (s.upCount slot)).all (fun e => (List.range (s.upBlocks slot e)).all (fun b => w.done.contains (e, b)))

/-- State, copies and reading of one entry; the flag names a fault. -/
def State.phase2Entry (s : State) (slot e : Nat) : State × Option Code :=
  if s.upMaster slot e = 3 then (s, none) else
  let step := fun (acc : State × Bool) (v : Nat) => if acc.2 || !s.upHas slot e v then acc else acc.1.writeState slot e v
  let r := [0, 1].foldl step (s, false)
  if r.2 then (r.1, some .QBLOCK_OVF) else
  let c := r.1.deriveCopies slot e 0 (r.1.upRows slot e * r.1.upCols slot e)
  (c.1, if c.2 then some .DATA_POISON else none)

/-- SWEEP_PHASE2 (R307): every entry in table order, then digests, statistics and SWEEP_COUNT; order 3 is complete. -/
def State.sweepPhase2 (s : State) (slot : Nat) : State :=
  if !s.slotIs slot .sweep || !s.phase1Done slot then s else
  let r := (List.range (s.upCount slot)).foldl (fun (acc : State × Option Code) e =>
    if acc.2.isSome then acc else acc.1.phase2Entry slot e) (s, none)
  match r.2 with
  | some code => r.1.sweepFault slot code (r.1.firstMotif slot)
  | none =>
    let s := (r.1.showRoot slot).statsRecord slot
    let n := s.rd2 (Reg.UP_JOB_SWEEP_LO slot) (Reg.UP_JOB_SWEEP_HI slot) + 1
    let s := (s.wr (Reg.UP_JOB_SWEEP_LO slot) (BitVec.ofNat 32 n)).wr (Reg.UP_JOB_SWEEP_HI slot) (BitVec.ofNat 32 (n / 2 ^ 32))
    let s := s.setSweep slot { s.sweep slot with staged := [], done := [], states := [] }
    (s.setJob slot { s.job slot with drainOrder := 4, compared := 0 }).setSlot slot .draining

def execSweepPhase2 (slot : Nat) (s : State) : Host.Outcome State Fault Refusal := .next (s.sweepPhase2 slot)

/-! ### Comparison (R312 to R315) -/

/-- Whether a comparison is due at this boundary. -/
def State.compareDue (s : State) (slot : Nat) : Bool :=
  s.bit (Reg.UP_JOB_CTL slot) 2 && s.bit (Reg.UP_JOB_CTL slot) 3 && decide (1 < s.fld (Reg.UP_JOB_GROUP slot) 16 16) &&
  s.rd2 (Reg.UP_JOB_SWEEP_LO slot) (Reg.UP_JOB_SWEEP_HI slot) % max 1 (s.fld (Reg.UP_JOB_DIGEST slot) 0 16) = 0

/-- The address that an event of R314 names, as first byte and length; for a fence, the motif. -/
def State.suspectSpan (s : State) (e : Code × Nat × List Nat) : Option (Nat × Nat) :=
  match e.1 with
  | .BANK_ECC_CE | .BANK_ECC_UE => some (0x18000 * (e.2.1 * 4 + e.2.2.headD 0) + 64 * e.2.2.getD 1 0, 64)
  | .LD_ECC_CE | .LD_ECC_UE =>
    (s.pairAt (e.2.1 - srcChannel 0) (e.2.2.headD 0) (e.2.2.getD 1 0)).map (fun a => (a, 128))
  | _ => none

/-- The elements, from a first to below an end, that a span of an area holds. An overflow slot may hold any block of its vector. -/
def State.areaElems (s : State) (slot : Nat) (a : DigestArea) (off n : Nat) : List (Nat × Nat) :=
  let all := s.upRows slot a.entry * s.upCols slot a.entry
  let k := blockCodes (s.stateDesc slot a.entry 0).fmt
  match a.kind with
  | .values => [(off / 2, (off + n + 1) / 2)]
  | .codes => [(off / 4096 * k, (off + n + 4095) / 4096 * k)]
  | .side => [(off / 320 * k, (off + n + 319) / 320 * k)]
  | .slots => [(0, all)]
  | .scales => (List.range ((n + 3) / 4)).map (fun g =>
      let r := segRange (s.upCols slot a.entry) ((off / 4 + g) % max 1 (s.upSegs slot a.entry))
      (r.1, r.1 + r.2))

/-- Whether an event of R314 concerns a block's staging, or the motif in which it was updated. -/
def State.ranSuspect (s : State) (r : SweepRan) (e : Code × Nat × List Nat) : Bool :=
  match s.suspectSpan e with
  | some p => decide (p.1 < r.area + 3 * stageBytes r.n + 64 ∧ r.area < p.1 + p.2) || decide (p.1 < r.grad + stageBytes r.n ∧ r.grad < p.1 + p.2)
  | none => r.motif = e.2.1

/-- Whether a leaf of this module is suspect (R314). -/
def State.leafSuspect (s : State) (slot leaf : Nat) : Bool :=
  match leafAt (s.digestAreas slot) leaf with
  | none => false
  | some (a, off) =>
    let log := s.suspectLog.drop (s.suspectFrom.get 0 slot)
    let n := min 4096 (a.size - off)
    let held := s.areaElems slot a off n
    let ran := (s.sweep slot).ran.filter (fun r => r.entry = a.entry && held.any (fun h => decide (r.first < h.2 ∧ h.1 < r.first + r.n)))
    log.any (fun e =>
      (match s.suspectSpan e with
        | some p => decide (p.1 < a.addr + off + n ∧ a.addr + off < p.1 + p.2)
        | none => false) || ran.any (fun r => s.ranSuspect r e))

/-- The winner of a leaf (R313): the values by member index, this module's among them. None asks for a reload. -/
def winnerOf (n ref : Nat) (refSuspect : Bool) (vals : List (Nat × Nat)) : Option Nat :=
  if n = 2 then (if refSuspect then none else some ref)
  else
    let l := vals.mergeSort (fun a b => a.1 ≤ b.1)
    (l.find? (fun v => decide (n < 2 * (l.filter (fun w => w.2 = v.2)).length))).map (·.1)

/-- A comparison that cannot be settled: DIGEST_RELOAD, and the slot stops for a checkpoint reload. -/
def State.digestReload (s : State) (slot : Nat) : State := (s.raise .DIGEST_RELOAD .jobFatal (srcJob slot) [slot]).reloadStop slot

/-- DIGEST_COMPARE: at order 9 the leaves of the other members, by member index, are compared with this module's; `suspects` are the
leaves that the reference holds suspect, when it is another module. -/
def State.digestCompare (s : State) (slot : Nat) (others : List (Nat × List Nat)) (suspects : List Nat) : State :=
  let j := s.job slot
  if j.drainOrder ≠ 9 || j.compared ≠ 0 || !s.compareDue slot then s else
  let n := s.fld (Reg.UP_JOB_GROUP slot) 16 16
  if others.length + 1 ≠ n then s else
  let me := s.myModule slot
  let mine := s.digestLeaves slot
  let ref := (others.map (·.1)).foldl min me
  let s := s.wr (Reg.UP_JOB_MODULE slot) (BitVec.ofNat 32 (me + 2 ^ 16 * ref))
  let vals := fun (i : Nat) => (me, mine.getD i 0) :: others.map (fun o => (o.1, o.2.getD i 0))
  let diff := (List.range mine.length).filter (fun i => (vals i).any (fun v => v.2 ≠ mine.getD i 0))
  let bad := fun (i : Nat) => if ref = me then s.leafSuspect slot i else suspects.contains i
  let wins := diff.map (fun i => (i, winnerOf n ref (bad i) (vals i)))
  let s := State.setSweep { s with suspectFrom := s.suspectFrom.put 0 slot s.suspectLog.length } slot { s.sweep slot with ran := [] }
  let s := if diff = [] then s.count (Reg.UP_JOB_COMPARES slot) 0 16 1 else s
  if s.fld (Reg.UP_JOB_DIGEST slot) 16 8 < diff.length || wins.any (fun w => w.2.isNone) then s.digestReload slot
  else
    let own := wins.filterMap (fun w => match w.2 with
      | some k => if (vals w.1).any (fun v => v.1 = k && v.2 ≠ mine.getD w.1 0) then some (w.1, k) else none
      | none => none)
    s.setJob slot { s.job slot with compared := if own = [] then 2 else 1, repairs := own }

def execDigestCompare (slot : Nat) (others : List (Nat × List Nat)) (suspects : List Nat) (s : State) : Host.Outcome State Fault Refusal :=
  .next (s.digestCompare slot others suspects)

/-- Bits that differ between two bytes. -/
def bitDiffs (a b : Byte) : List Nat := (List.range 8).filter (fun i => a.getLsbD i ≠ b.getLsbD i)

/-- DIGEST_REPAIR (R315): the winner's block is written over this module's, the difference is logged, the copies and the root follow. -/
def State.digestRepair (s : State) (slot leaf : Nat) (block : List Byte) : State :=
  let j := s.job slot
  match j.repairs.find? (fun r => r.1 = leaf), leafAt (s.digestAreas slot) leaf with
  | some r, some (a, off) =>
    if j.compared ≠ 1 || block.length ≠ 4096 then s else
    let k := min 4096 (a.size - off)
    let old := s.bytes (a.addr + off) k
    let d := (old.zip (block.take k)).zipIdx.flatMap (fun p => (bitDiffs p.1.1 p.1.2).map (fun b => (p.2, b)))
    let s := s.writeDev (jobAgent slot) (a.addr + off) (block.take k)
    let s := if a.kind = .values then (s.deriveCopies slot a.entry (off / 2) (k / 2)).1 else s
    let s := s.showRoot slot
    let s := s.count (Reg.UP_JOB_COMPARES slot) 16 16 1
    let s := s.raise .DIGEST_MISMATCH .corrected (srcJob slot) [leaf, (d.headD (0, 0)).1, (d.headD (0, 0)).2, d.length, r.2]
    let rest := j.repairs.erase r
    s.setJob slot { s.job slot with repairs := rest, compared := if rest = [] then 2 else 1 }
  | _, _ => s

def execDigestRepair (slot leaf : Nat) (block : List Byte) (s : State) : Host.Outcome State Fault Refusal :=
  .next (s.digestRepair slot leaf block)

/-! ### Waiting for peers (R318) -/

/-- Prefetch entries started that have not completed. -/
def State.pfRunning (s : State) (slot : Nat) : Nat :=
  ((s.job slot).pfStarted.filter (fun id => s.chains.any (fun e => e.2.any (fun c => c.info.id = id)))).length

/-- The scheduler starts a chain of a slot from its descriptor's address, on the first motif of the slot with room. -/
def State.startChain (s : State) (slot a : Nat) : Option State :=
  match ((List.range 10240).filter (fun m => s.lists m slot)).find? (fun m => (s.chainsOf m).length < chainLimit) with
  | none => none
  | some m =>
    let h := s.readLines (jobAgent slot) a 1
    let hd := (h.2.1.headD 0#512).toNat
    let n := bitsOf hd 0 4
    if !chainHeaderOk hd then none else
    let r := h.1.readLines (jobAgent slot) (a + 64) (3 * n)
    let info : CmdInfo := { id := r.1.tick, key := 0xFFFFFFFF + 2 ^ 32 * slot, ctx := m * 128, pc := 0, w0 := 0, w1 := 0, token := none, tid := 0 }
    let c : Chain := { info := info, stages := n, blocks := bitsOf hd 4 16, flush := false, recs := r.2.1, weights := [] }
    let w := (List.range n).foldl (fun (acc : State × List Line) i =>
      if c.kind i = 3 then let l := acc.1.readLines (jobAgent slot) (c.control i 6) 1; (l.1, acc.2 ++ l.2.1) else (acc.1, acc.2 ++ [0#512])) (r.1, [])
    let s := w.1.setChains m (w.1.chainsOf m ++ [{ c with weights := w.2, err := h.2.2 || r.2.2 }])
    some (s.numbered.setJob slot { s.job slot with pfStarted := (s.job slot).pfStarted ++ [info.id] })

/-- The next prefetch entry started, where there is one. -/
def State.nextPrefetch (s : State) (slot : Nat) : Option State :=
  let k := (s.job slot).pfStarted.length
  if s.fld (Reg.UP_JOB_PF_COUNT slot) 0 12 ≤ k then none
  else s.startChain slot (ofBytes (s.bytes (s.rd2 (Reg.UP_JOB_PF_LO slot) (Reg.UP_JOB_PF_HI slot) + 8 * k) 7))

/-- The next microbatch record started, where there is one. -/
def State.nextMicrobatch (s : State) (slot : Nat) : Option State :=
  let k := (s.job slot).mbStarted
  if s.fld (Reg.UP_JOB_CTL slot) 8 8 ≤ k || !(s.job slot).inStep then none
  else
    let s := (s.queueRecord slot (s.mbRecord slot k)).1
    some (s.setJob slot { s.job slot with mbStarted := k + 1 })

/-- A start that takes one count of a token: it happens once the token's COUNT has reached 1. -/
def State.onToken (s : State) (a : Word) (start : State → Option State) : State :=
  let t := s.token a.toNat
  if t.count = 0 then s else (start (s.setToken a.toNat { t with count := t.count - 1 })).getD s

/-- PREFETCH_START. -/
def execPrefetchStart (slot : Nat) (s : State) : Host.Outcome State Fault Refusal :=
  .next (if s.slotIs slot .running then s.onToken (s.rd (Reg.UP_JOB_PF_TOKEN slot)) (fun t => t.nextPrefetch slot) else s)

/-- MICROBATCH_START. -/
def execMicrobatchStart (slot : Nat) (s : State) : Host.Outcome State Fault Refusal :=
  .next (if s.slotIs slot .running then s.onToken (s.rd (Reg.UP_JOB_MB_TOKEN slot)) (fun t => t.nextMicrobatch slot) else s)

/-- Whether a token is one that a fabric-bound entry of a slot, open, is to set (R100, R335). -/
def State.fabricToken (s : State) (slot a : Nat) : Bool :=
  (s.entriesOf slot [1]).any (fun i => s.bit (Reg.PN_PLAIT_CTL i) 6 && s.fld (Reg.PN_PLAIT_TOKEN i) 0 14 * 256 + s.fld (Reg.PN_PLAIT_TOKEN i) 14 8 = a)

/-- Whether a slot waits as R318 asks: no record of it is ready, and one of its contexts waits on a token that the fabric is to set. -/
def State.waitsOnToken (s : State) (slot : Nat) : Bool :=
  s.slotIs slot .running && !s.queues.any (fun q => q.2.any (fun k => slotOf k = slot && s.takes q.1 k)) &&
  s.ctx.any (fun e => e.2.phase = .waitToken && e.2.task.any (fun k => slotOf k = slot && (match (s.task k).wait with
    | .token a _ _ => s.fabricToken slot a
    | _ => false)))

/-- WAIT_POLICY_ACTION: WAIT_HS of waiting on a fabric token have passed; `again` says that a second WAIT_HS has. -/
def State.waitPolicy (s : State) (slot : Nat) (again : Bool) : State :=
  if !s.waitsOnToken slot then s else
  let depth := max 1 (s.fld (Reg.UP_JOB_CTL slot) 5 3)
  let pf := if s.pfRunning slot < depth then s.nextPrefetch slot else none
  let next := match s.fld (Reg.UP_JOB_CTL slot) 0 2 with
    | 1 => pf
    | 2 => s.nextMicrobatch slot
    | 3 => if again then s.nextMicrobatch slot else pf
    | _ => none
  match next with
  | none => s
  | some t => t.count (Reg.UP_JOB_WAITS slot) 0 16 1

def execWaitPolicyAction (slot : Nat) (again : Bool) (s : State) : Host.Outcome State Fault Refusal := .next (s.waitPolicy slot again)

end Sys2Proof.Machine
end

