-- ==== Sys2Proof/Machine/Crypto.lean ====
section
/-! DEFINITION. The hash, the keyed hash and the signatures that the security block runs: SM3 (GB/T 32905), HMAC-SM3 (RFC 2104) and SM2
(GB/T 32918.2, the curve of GB/T 32918.5, default identifier). The manual names these standards and gives none of their text (PRESUMED, log
entry 40). -/

namespace Sys2Proof.Machine

/-! ### SM3 -/

/-- The big-endian number of a list of bytes. -/
def ofBytesBE (l : List Byte) : Nat := l.foldl (fun a b => a * 256 + b.toNat) 0
/-- The `k` big-endian bytes of a number. -/
def toBytesBE (k v : Nat) : List Byte := (toBytes k v).reverse

/-- The big-endian words of a block. -/
def blockWords : Nat → List Byte → List Word
  | 0, _ => []
  | n + 1, l => BitVec.ofNat 32 (ofBytesBE (l.take 4)) :: blockWords n (l.drop 4)

def sm3P0 (x : Word) : Word := x ^^^ x.rotateLeft 9 ^^^ x.rotateLeft 17
def sm3P1 (x : Word) : Word := x ^^^ x.rotateLeft 15 ^^^ x.rotateLeft 23

/-- The next word of the message expansion, from the sixteen before it, oldest first. -/
def sm3Next (w : List Word) : Word :=
  let g := fun i => w.getD i 0#32
  sm3P1 (g 0 ^^^ g 7 ^^^ (g 13).rotateLeft 15) ^^^ (g 3).rotateLeft 7 ^^^ g 10

/-- `n` words added to an expansion. -/
def sm3Expand : Nat → List Word → List Word
  | 0, w => w
  | n + 1, w => sm3Expand n (w ++ [sm3Next (w.drop (w.length - 16))])

/-- The eight chaining words. -/
structure Sm3 where
  a : Word
  b : Word
  c : Word
  d : Word
  e : Word
  f : Word
  g : Word
  h : Word

/-- One round: j, W_j and W'_j. -/
def Sm3.round (v : Sm3) (j : Nat) (w w' : Word) : Sm3 :=
  let t : Word := if j < 16 then 0x79cc4519#32 else 0x7a879d8a#32
  let ss1 := (v.a.rotateLeft 12 + v.e + t.rotateLeft (j % 32)).rotateLeft 7
  let ss2 := ss1 ^^^ v.a.rotateLeft 12
  let ff := if j < 16 then v.a ^^^ v.b ^^^ v.c else (v.a &&& v.b) ||| (v.a &&& v.c) ||| (v.b &&& v.c)
  let gg := if j < 16 then v.e ^^^ v.f ^^^ v.g else (v.e &&& v.f) ||| (~~~v.e &&& v.g)
  ⟨ff + v.d + ss2 + w', v.a, v.b.rotateLeft 9, v.c, sm3P0 (gg + v.h + ss1 + w), v.e, v.f.rotateLeft 19, v.g⟩

/-- One block compressed. -/
def Sm3.block (v : Sm3) (bs : List Byte) : Sm3 :=
  let w := sm3Expand 52 (blockWords 16 bs)
  let r := (List.range 64).foldl (fun (x : Sm3) j => x.round j (w.getD j 0#32) (w.getD j 0#32 ^^^ w.getD (j + 4) 0#32)) v
  ⟨v.a ^^^ r.a, v.b ^^^ r.b, v.c ^^^ r.c, v.d ^^^ r.d, v.e ^^^ r.e, v.f ^^^ r.f, v.g ^^^ r.g, v.h ^^^ r.h⟩

/-- Every block of a padded message. -/
def Sm3.blocks : Nat → Sm3 → List Byte → Sm3
  | 0, v, _ => v
  | n + 1, v, l => if l = [] then v else Sm3.blocks n (v.block (l.take 64)) (l.drop 64)

/-- The SM3 hash of a message: 32 bytes. -/
def sm3 (m : List Byte) : List Byte :=
  let z := (119 - m.length % 64) % 64
  let l := m ++ 0x80#8 :: List.replicate z 0#8 ++ toBytesBE 8 (8 * m.length)
  let v := Sm3.blocks (l.length / 64) ⟨0x7380166f#32, 0x4914b2b9#32, 0x172442d7#32, 0xda8a0600#32, 0xa96f30bc#32, 0x163138aa#32, 0xe38dee4d#32,
    0xb0fb0e4e#32⟩ l
  [v.a, v.b, v.c, v.d, v.e, v.f, v.g, v.h].flatMap (fun w => toBytesBE 4 w.toNat)

/-- HMAC-SM3. -/
def hmacSm3 (key m : List Byte) : List Byte :=
  let k0 := if 64 < key.length then sm3 key else key
  let k := k0 ++ List.replicate (64 - k0.length) 0#8
  sm3 (k.map (· ^^^ 0x5c#8) ++ sm3 (k.map (· ^^^ 0x36#8) ++ m))

/-! ### SM2 -/

def sm2P : Nat := 0xFFFFFFFEFFFFFFFFFFFFFFFFFFFFFFFFFFFFFFFF00000000FFFFFFFFFFFFFFFF
def sm2A : Nat := 0xFFFFFFFEFFFFFFFFFFFFFFFFFFFFFFFFFFFFFFFF00000000FFFFFFFFFFFFFFFC
def sm2B : Nat := 0x28E9FA9E9D9F5E344D5A9E4BCF6509A7F39789F515AB8F92DDBCBD414D940E93
def sm2N : Nat := 0xFFFFFFFEFFFFFFFFFFFFFFFFFFFFFFFF7203DF6B21C6052B53BBF40939D54123
def sm2Gx : Nat := 0x32C4AE2C1F1981195F9904466A39C9948FE30BBFF2660BE1715A4589334C74C7
def sm2Gy : Nat := 0xBC3736A2F4F6779C59BDCEE36B692153D0A9877CC62A474002DF32E52139F0A0

/-- x^e modulo m, over the bits of e from bit n − 1 down. -/
def powMod (m x e : Nat) : Nat → Nat
  | 0 => 1
  | n + 1 =>
    let r := powMod m x (e / 2) n
    if e = 0 then 1 else if e % 2 = 1 then r * r % m * x % m else r * r % m
/-- The inverse modulo a prime. -/
def invMod (m x : Nat) : Nat := powMod m (x % m) (m - 2) 256

/-- A point in Jacobian coordinates; z = 0 is the point at infinity. -/
abbrev Jac := Nat × Nat × Nat

/-- Twice a point. -/
def jacDouble (p : Jac) : Jac :=
  let m := sm2P
  let y2 := p.2.1 * p.2.1 % m
  let s := 4 * p.1 * y2 % m
  let z2 := p.2.2 * p.2.2 % m
  let k := (3 * p.1 * p.1 + sm2A * (z2 * z2 % m)) % m
  let x := (k * k + 2 * (m - s)) % m
  (x, (k * ((s + m - x) % m) + (m - 8 * (y2 * y2 % m) % m)) % m, 2 * p.2.1 * p.2.2 % m)

/-- The sum of two points. -/
def jacAdd (p q : Jac) : Jac :=
  let m := sm2P
  if p.2.2 = 0 then q else if q.2.2 = 0 then p else
  let zp := p.2.2 * p.2.2 % m
  let zq := q.2.2 * q.2.2 % m
  let u1 := p.1 * zq % m
  let u2 := q.1 * zp % m
  let s1 := p.2.1 * zq % m * q.2.2 % m
  let s2 := q.2.1 * zp % m * p.2.2 % m
  if u1 = u2 then (if s1 = s2 then jacDouble p else (1, 1, 0)) else
  let h := (u2 + m - u1) % m
  let r := (s2 + m - s1) % m
  let h2 := h * h % m
  let h3 := h2 * h % m
  let v := u1 * h2 % m
  let x := (r * r + (m - h3) + 2 * (m - v)) % m
  (x, (r * ((v + m - x) % m) + (m - s1 * h3 % m)) % m, p.2.2 * q.2.2 % m * h % m)

/-- k times a point, over `n` bits of k. -/
def jacMul (p : Jac) : Nat → Nat → Jac
  | 0, _ => (1, 1, 0)
  | n + 1, k =>
    let r := jacDouble (jacMul p n (k / 2))
    if k % 2 = 1 then jacAdd r p else r

/-- The affine coordinates of a point other than infinity. -/
def jacAffine (p : Jac) : Nat × Nat :=
  let i := invMod sm2P p.2.2
  let i2 := i * i % sm2P
  (p.1 * i2 % sm2P, p.2.1 * i2 % sm2P * i % sm2P)

/-- The public key x ‖ y of a private key. -/
def sm2Public (d : Nat) : List Byte :=
  let q := jacAffine (jacMul (sm2Gx, sm2Gy, 1) 256 d)
  toBytesBE 32 q.1 ++ toBytesBE 32 q.2

/-- The digest that a signature covers: Z of the default identifier "1234567812345678" and the key, then the message. -/
def sm2Digest (pub m : List Byte) : Nat :=
  let id : List Byte := (List.range 16).map (fun i => BitVec.ofNat 8 (0x31 + i % 8))
  let curve := [sm2A, sm2B, sm2Gx, sm2Gy].flatMap (toBytesBE 32)
  ofBytesBE (sm3 (sm3 ([0x00#8, 0x80#8] ++ id ++ curve ++ pub) ++ m))

/-- Whether r ‖ s is a signature over a message under a public key x ‖ y. -/
def sm2Verify (pub m sig : List Byte) : Bool :=
  let x := ofBytesBE (pub.take 32)
  let y := ofBytesBE ((pub.drop 32).take 32)
  let r := ofBytesBE (sig.take 32)
  let s := ofBytesBE ((sig.drop 32).take 32)
  let t := (r + s) % sm2N
  let onCurve := x < sm2P && y < sm2P && y * y % sm2P = (x * x % sm2P * x + sm2A * x + sm2B) % sm2P
  let q := jacAdd (jacMul (sm2Gx, sm2Gy, 1) 256 s) (jacMul (x, y, 1) 256 t)
  onCurve && 1 ≤ r && r < sm2N && 1 ≤ s && s < sm2N && t ≠ 0 && q.2.2 ≠ 0 && (sm2Digest pub m + (jacAffine q).1) % sm2N = r

/-- The signature r ‖ s of a message by a private key with the random number k; none where the standard draws another k. -/
def sm2Sign (d k : Nat) (m : List Byte) : Option (List Byte) :=
  let r := (sm2Digest (sm2Public d) m + (jacAffine (jacMul (sm2Gx, sm2Gy, 1) 256 k)).1) % sm2N
  let s := invMod sm2N (1 + d) * (k + r * (sm2N - d % sm2N)) % sm2N
  if k = 0 || sm2N ≤ k || r = 0 || r + k = sm2N || s = 0 then none else some (toBytesBE 32 r ++ toBytesBE 32 s)

end Sys2Proof.Machine
end

