-- ==== Sys2Proof/Machine/Keys.lean ====
section
/-! DEFINITION. The keys that the security block derives (R405) and its measurement registers (R412). -/

namespace Sys2Proof.Machine

/-- The bytes of consecutive registers. -/
def State.regBytes (s : State) (f : Nat → Nat) (n : Nat) : List Byte := (List.range n).flatMap (fun i => toBytes 4 (s.rd (f i)).toNat)
/-- Bytes stored into consecutive registers. -/
def State.setRegBytes (s : State) (f : Nat → Nat) (n : Nat) (l : List Byte) : State :=
  (List.range n).foldl (fun s i => s.wr (f i) (BitVec.ofNat 32 (ofBytes ((l.drop (4 * i)).take 4)))) s

/-- The bytes of an ASCII text. -/
def ascii (t : String) : List Byte := t.toList.map (fun c => BitVec.ofNat 8 c.toNat)

/-- Life-cycle state in force, and DEBUG_EPOCH. -/
def State.lifeCycle (s : State) : Nat := s.fld Reg.SC_LC 0 2
def State.debugEpoch (s : State) : Nat := s.fld Reg.SC_DEBUG 19 13
/-- The debug level in force (R416). -/
def State.debugLevel (s : State) : Nat := s.fld Reg.SC_DEBUG 0 2

/-- SR derived from DS, the life-cycle state and DEBUG_EPOCH. -/
def State.deriveSr (s : State) : State :=
  let msg := ascii "SEAL" ++ [BitVec.ofNat 8 s.lifeCycle] ++ toBytes 4 s.debugEpoch
  { s with sec := { s.sec with sr := some (hmacSm3 s.otp.ds msg) } }

/-- The key of a job slot, derived at its JOB_LOAD. -/
def State.deriveJob (s : State) (slot : Nat) : State :=
  let n := s.sec.loads.get 0 slot + 1
  let k := s.sec.sr.map (fun sr => hmacSm3 sr (ascii "JOB" ++ [BitVec.ofNat 8 slot] ++ toBytes 4 n))
  { s with sec := { s.sec with loads := s.sec.loads.put 0 slot n, jobKeys := s.sec.jobKeys.put none slot k } }

/-- SR and every job key zeroised. -/
def State.zeroise (s : State) : State := { s with sec := { s.sec with sr := none, jobKeys := [] } }

/-- MEAS_n extended by a value: SM3(MEAS_n ‖ v). -/
def State.extendMeas (s : State) (n : Nat) (v : List Byte) : State := s.setRegBytes (Reg.SC_MEAS n) 8 (sm3 (s.regBytes (Reg.SC_MEAS n) 8 ++ v))

/-- The identity digest: SM3 of the public key. -/
def State.identity (s : State) : List Byte := s.regBytes Reg.SC_ID_DIGEST 8

/-- A fresh SC_NONCE (R409). -/
def State.newNonce (s : State) : State := let r := s.drawBytes 32; r.2.setRegBytes Reg.SC_NONCE 8 r.1

end Sys2Proof.Machine
end

