-- ==== Sys2Proof/Machine/Slices.lean ====
section
/-! DEFINITION. Time-slices (R196 to R199, R406): their request, the quiescent point, what is saved and released, and the restore. -/

namespace Sys2Proof.Machine

/-! ### What a slot holds -/

/-- A slot's tasks, by key. -/
def State.slotTasks (s : State) (slot : Nat) : List Nat := (s.tasks.filter (fun e => slotOf e.1 = slot)).map (·.1)

/-- The quiescent point of R196. -/
def State.quiescent (s : State) (slot : Nat) : Bool :=
  (s.slotTasks slot).all (fun k => (s.task k).loads = [] && (s.task k).cmds = []) &&
  s.engines.all (fun e => match e.2.owner with | some k => slotOf k ≠ slot || !e.2.holdsData | none => true) &&
  s.chains.all (fun q => q.2.all (fun c => slotOf c.info.key ≠ slot)) && !s.unitsBusy slot &&
  (List.range 256).all (fun i => s.fld (Reg.PN_PLAIT_CTL i) 14 6 ≠ slot ||
    (s.entryState i ≠ 3 && (s.entryState i ≠ 1 || ((s.entry i).next = [] && (s.entry i).taken = 0))))

/-! ### Save -/

/-- First byte of the slice area, and its bytes. -/
def State.sliceBase (s : State) (slot : Nat) : Nat := s.rd2 (Reg.PN_JOB_SLICE_LO slot) (Reg.PN_JOB_SLICE_HI slot)
def State.sliceRoom (s : State) (slot : Nat) : Nat := 4096 * s.fld (Reg.PN_JOB_SLICE_SIZE slot) 0 22

/-- The array claims of a task with their units, for the slice. -/
def State.savedClaims (s : State) (k : Nat) : List SavedClaim :=
  (s.claimMotifs k).flatMap (fun m => (s.ownedUnits m k).map (fun u =>
    let e := s.engine m u
    { unit := u, cfg := e.cfg, pass := e.pass, stats := s.saveStats m u }))

/-- A task's claims recorded and released (R199). -/
def State.saveClaims (s : State) (k : Nat) : State :=
  let l := s.savedClaims k
  let s := s.endAllClaims .withdrawn k
  s.setTask k { s.task k with claims := (s.task k).claims ++ l }

/-- Every task in a context yields into the save area (order 2 of R197). -/
def State.saveContexts (s : State) (slot : Nat) : State :=
  ((s.ctx.filter (fun e => match e.2.task with | some k => slotOf k = slot | none => false)).map (fun e => (e.1, e.2.task.getD 0))).foldl
    (fun s e => match s.freeRec slot with
      | some i => (s.withdraw e.2).saveTask e.1 e.2 i
      | none => s) s

/-- 64-byte line of words. -/
def lineOf (l : List Nat) : List Byte := (l ++ List.replicate (16 - l.length) 0).flatMap (toBytes 4)

/-- The words of a task record (R173). -/
def Task.record (t : Task) (m : Nat) : List Nat :=
  [t.pc.toNat, m + 2 ^ 14 * t.place + 2 ^ 16 * b2n t.pin + 2 ^ 17 * b2n t.doneEn + 2 ^ 18 * (t.doneTok % 256)] ++ t.args.map (·.toNat)

/-- The queued records of a slot with their motif and position; those that wait for room stand behind a full queue. -/
def State.slotQueue (s : State) (slot : Nat) : List (Nat × Nat × Nat) :=
  s.queues.flatMap (fun e => (e.2.zipIdx.filter (fun q => slotOf q.1 = slot)).map (fun q => (e.1, q.2, q.1))) ++
    (s.job slot).waiting.map (fun e => (e.1, 64, e.2))

/-- Bytes that the slice area needs. -/
def State.sliceNeed (s : State) (slot : Nat) (banks : List Nat) : Nat :=
  let claims := ((s.slotTasks slot).map (fun k => (s.savedClaims k).length + (s.task k).claims.length)).sum
  let inCtx := (s.ctx.filter (fun e => match e.2.task with | some k => slotOf k = slot | none => false)).length
  64 + banks.length * (64 + 0x18000) + claims * 320 + (s.scaleWins slot).length * 192 + (s.tokWins slot).length * 192 +
    ((s.slotQueue slot).length + inCtx) * 128

/-- The bytes of the slice area (R198), once contexts are saved and claims recorded; the bank contents are given. -/
def State.sliceBytes (s : State) (slot : Nat) (banks : List (Nat × List Byte)) : List Byte :=
  let keys := s.slotTasks slot
  let claims := keys.flatMap (fun k => (s.task k).claims.map (fun c => ((s.task k).saveRec.getD 0xFFFFFFFF, c)))
  let sw := s.scaleWins slot
  let tw := s.tokWins slot
  let q := s.slotQueue slot
  lineOf [banks.length, claims.length, sw.length, tw.length, q.length, 0, (s.rd (Reg.PN_JOB_STEP_LO slot)).toNat, (s.rd (Reg.PN_JOB_STEP_HI slot)).toNat] ++
  banks.flatMap (fun b => lineOf [b.1, b2n (s.bit (Reg.BK_OWNER b.1) 9)] ++ b.2) ++
  claims.flatMap (fun c => ((lineOf [c.1, c.2.cfg, c.2.pass, c.2.unit]) ++ bytesOfWords c.2.stats ++ List.replicate 256 0#8).take 320) ++
  sw.flatMap (fun w => lineOf [w / 16, w % 16] ++ (List.range 32).flatMap (fun i => toBytes 4 (s.scale (w / 16) (w % 16 * 32 + i)).toNat)) ++
  tw.flatMap (fun w => lineOf [w / 8, w % 8] ++ (List.range 32).flatMap (fun i => toBytes 4 (s.token (w / 8 * 256 + w % 8 * 32 + i)).word.toNat)) ++
  q.flatMap (fun e => lineOf [e.1, e.2.1] ++
    (if (s.task e.2.2).started then lineOf [(s.task e.2.2).saveRec.getD 0] else lineOf ((s.task e.2.2).record e.1)))

/-- Every byte that a slice saved: its context records, then the slice area. -/
def State.savedBytes (s : State) (slot : Nat) (records : List Nat) (size : Nat) : List Byte :=
  records.flatMap (fun i => s.bytes (s.saveBase slot + 1408 * i) 1408) ++ s.bytes (s.sliceBase slot) size

/-- The tag of a save: HMAC-SM3 of its weave root under the slot's job key (R406). -/
def State.sliceTag (s : State) (slot : Nat) (records : List Nat) (size : Nat) : List Byte :=
  hmacSm3 ((s.sec.jobKeys.get none slot).getD []) (toBytes 16 (rootOf (leavesOf (s.savedBytes slot records size))))

/-- Windows of a slot zeroed. -/
def State.zeroScales (s : State) (slot : Nat) : State :=
  (s.scaleWins slot).foldl (fun (s : State) w => { s with srf := s.srf.clear (w / 16 * 512 + w % 16 * 32) (w / 16 * 512 + w % 16 * 32 + 32) }) s

/-- A slice of a slot (R197, R198): it waits for banks that do not serve its reads yet, is refused where its areas lack room, and otherwise
saves and releases everything. -/
def State.takeSlice (s : State) (slot : Nat) (banks : List Nat) (byLease byFloor : Bool) : State :=
  let banks := banks.filter (s.slotBanks slot).contains
  let spans := banks.map (fun b => (0x18000 * b, 0x18000))
  let inCtx := (s.ctx.filter (fun e => match e.2.task with | some k => slotOf k = slot | none => false)).length
  let j := s.job slot
  let clear : State → State := fun s => s.setJob slot { s.job slot with slicePending := false, tooLate := false }
  if !s.spansReady (jobAgent slot) false spans then s.wakeSpans (jobAgent slot) false spans
  else if s.sliceRoom slot < s.sliceNeed slot banks || s.saveSlots slot < (s.savedRecs slot).length + inCtx then
    (clear s).count (Reg.PN_JOB_SLICE_FULL slot) 0 16 1
  else
    let s := s.saveContexts slot
    let s := (s.slotTasks slot).foldl State.saveClaims s
    let r := banks.foldl (fun (acc : State × List (Nat × List Byte)) b =>
      let d := acc.1.readDev (jobAgent slot) (0x18000 * b) 0x18000 []
      (d.1, acc.2 ++ [(b, d.2.1)])) (s, [])
    let s := r.1
    let bytes := s.sliceBytes slot r.2
    let s := s.writeDev (jobAgent slot) (s.sliceBase slot) bytes
    let records := (s.savedRecs slot).mergeSort (· ≤ ·)
    let sl : SliceSt := ⟨bytes.length, records, (s.slotQueue slot).map (fun e => (e.1, e.2.2)), s.tokWins slot, s.scaleWins slot, banks,
      s.sliceTag slot records bytes.length, byLease, byFloor⟩
    let s : State := { s with slices := s.slices.put none slot (some sl), queues := s.queues.mapAll [] (fun q => q.filter (fun k => slotOf k ≠ slot)) }
    let s := s.setJob slot { s.job slot with waiting := [] }
    let s := ((s.zeroTokens slot).zeroScales slot).applyPendings slot
    let owner := match j.sliceFor with | some o => 1 + 8 * o | none => 0
    let s := banks.foldl (fun s b => s.handOwner .firmware b (BitVec.ofNat 32 owner)) s
    let s := (s.cancelProspect slot).setSlot slot .sliced
    (clear s).count (Reg.PN_JOB_REPLAYS slot) 4 16 1

/-! ### The commands -/

/-- Whether holder a is sliced before holder b: lower class priority, then greater PRIO, then higher slot number. -/
def State.slicedFirst (s : State) (a b : Nat) : Bool :=
  if s.classOf a ≠ s.classOf b then decide (s.classOf b < s.classOf a)
  else if s.prioOf a ≠ s.prioOf b then decide (s.prioOf b < s.prioOf a) else decide (b ≤ a)

/-- SLICE_REQUEST: a SERVE slot needs what `holders` hold; the lowest-priority one is to be sliced. -/
def State.sliceRequest (s : State) (serve : Nat) (holders : List Nat) : State :=
  if s.classOf serve ≠ 0 || !(s.slotIs serve .running || s.slotIs serve .loading) then s else
  match ((holders.filter (fun j => j < 64 && s.classOf j ≠ 0 && (s.slotIs j .running || s.slotIs j .sweep || s.slotIs j .draining))).mergeSort s.slicedFirst).head? with
  | none => s
  | some j => if (s.job j).slicePending then s else s.setJob j { s.job j with slicePending := true, sliceFor := some serve }

def execSliceRequest (serve : Nat) (holders : List Nat) (s : State) : Host.Outcome State Fault Refusal := .next (s.sliceRequest serve holders)

/-- SLICE_WAIT_EXPIRE: SLICE_WAIT_US have passed with no quiescent point. -/
def State.sliceLate (s : State) (slot : Nat) : State :=
  if (s.job slot).slicePending then s.setJob slot { s.job slot with tooLate := true } else s

def execSliceWaitExpire (slot : Nat) (s : State) : Host.Outcome State Fault Refusal := .next (s.sliceLate slot)

/-- SLICE_TAKE at a quiescent point within the step; `banks` are those that the incoming job needs. -/
def State.sliceTake (s : State) (slot : Nat) (banks : List Nat) : State :=
  let j := s.job slot
  if j.slicePending && !j.tooLate && !j.aborting && j.drainOrder = 0 && s.slotIs slot .running && s.quiescent slot then s.takeSlice slot banks false false
  else s

def execSliceTake (slot : Nat) (banks : List Nat) (s : State) : Host.Outcome State Fault Refusal := .next (s.sliceTake slot banks)

/-- One saved bank restored from the slice area at offset o. -/
def State.restoreBank (s : State) (slot o b : Nat) : State :=
  let a := s.sliceBase slot + o
  let ro := ofBytes (s.bytes (a + 4) 4)
  let r := s.readDev .outside (a + 64) 0x18000 []
  (r.1.writeDev (.owner 0 0) (0x18000 * b) r.2.1).handOwner .firmware b (BitVec.ofNat 32 (1 + 8 * slot + ro % 2 * 2 ^ 9))

/-- Words of a saved window at offset o of the slice area. -/
def State.savedWords (s : State) (slot o : Nat) : List Word := wordsOfBytes 32 (s.bytes (s.sliceBase slot + o + 64) 128)

/-- SLICE_RESTORE: the tag is checked, then the orders of R197 run in reverse. `moves` names the motifs that take the place of old ones. -/
def State.sliceRestore (s : State) (slot : Nat) (moves : List (Nat × Nat)) : State :=
  match s.slices.get none slot with
  | none => s
  | some sl =>
    let home := fun (m : Nat) => ((moves.find? (fun e => e.1 = m)).map (·.2)).getD m
    if !s.slotIs slot .sliced || !sl.banks.all (fun b => s.fld (Reg.BK_OWNER b) 0 3 = 0 && !s.bit (Reg.BK_OWNER b) 10) then s else
    let spans := sl.banks.map (fun b => (0x18000 * b, 0x18000))
    if !s.spansReady (.owner 0 0) true spans then s.wakeSpans (.owner 0 0) true spans else
    let s : State := { s with slices := s.slices.put none slot none }
    if s.sec.jobKeys.get none slot = none || s.sliceTag slot sl.records sl.size ≠ sl.tag then
      (s.raise .SLICE_AUTH_FAIL .jobFatal (srcJob slot) [slot]).stopSlot slot
    else
      let s := (sl.banks.zipIdx).foldl (fun s b => s.restoreBank slot (64 + b.2 * (64 + 0x18000)) b.1) s
      let claims := ((s.slotTasks slot).map (fun k => (s.task k).claims.length)).sum
      let o1 := 64 + sl.banks.length * (64 + 0x18000) + 320 * claims
      let s := (sl.scales.zipIdx).foldl (fun s w => ((s.savedWords slot (o1 + 192 * w.2)).zipIdx).foldl (fun s e =>
        s.setScale (home (w.1 / 16)) (w.1 % 16 * 32 + e.2) e.1) s) s
      let o2 := o1 + 192 * sl.scales.length
      let s := (sl.tokens.zipIdx).foldl (fun s w => ((s.savedWords slot (o2 + 192 * w.2)).zipIdx).foldl (fun s e =>
        s.setToken (home (w.1 / 8) * 256 + w.1 % 8 * 32 + e.2)
          { count := bitsOf e.1.toNat 0 8, err := bitOf e.1.toNat 8, sat := bitOf e.1.toNat 9 }) s) s
      let s := sl.queued.foldl (fun s e => s.enqueue (home e.1) e.2) s
      (s.setSlot slot .running).nextStep slot


end Sys2Proof.Machine
end

