-- ==== Sys2Proof/Machine/Lease.lean ====
section
/-! DEFINITION. The host lease (R381 to R384): expiry, D3hot and function-level reset. -/

namespace Sys2Proof.Machine

/-- A slot's queued steps withdrawn, each with its record (R372, R383). -/
def State.withdrawSteps (s : State) (slot : Nat) : State :=
  let j := s.job slot
  let n := j.stepsQueued + b2n (j.stepHeld && !j.inStep)
  let s := s.stepRecords slot 7 0 n
  let s := s.setJob slot { s.job slot with stepsQueued := 0, stepHeld := j.stepHeld && j.inStep }
  s.cancelSteps slot (s.stepOf slot + b2n j.inStep)

/-- A slot's requests that came by capsule retire with their results discarded (R29, R383). -/
def State.discardRequests (s : State) (slot : Nat) : State :=
  (s.ledger.filter (fun e => e.2.st ≠ 0 && e.2.capsule && e.2.slot = slot)).foldl (fun s e => (s.dropRequest e.1).reply e.1 10 s.eventSeq []) s

/-- Whether a step of a slot still runs. -/
def State.stepRuns (s : State) (slot : Nat) : Bool :=
  s.classOf slot ≠ 0 && (s.job slot).inStep && (s.slotIs slot .running || s.slotIs slot .sweep || s.slotIs slot .draining)

/-- PEER_LOSS with a reason sent to every peer of a slot's group (R343). -/
def State.sendLoss (s : State) (slot reason : Nat) : State :=
  if !s.grouped slot then s else
  ((List.range (s.groupSize slot)).filter (fun i => i ≠ s.myModule slot)).foldl (fun s i => s.sendCtrl slot i 7 [reason]) s

/-- The KIND 0 deep windows of a function closed (R247, R383). -/
def State.closeWindows (s : State) (f : Nat) : State :=
  ((List.range 64).filter (fun w => s.bit (Reg.HF_DEEP_WIN_CTL w) 0 && !s.bit (Reg.HF_DEEP_WIN_CTL w) 1 && s.winFn w = f)).foldl
    (fun (s : State) w => { s with closed := s.closed.put false w true }) s

/-- Orders 4 to 6 of an expiry, once no step of the function's slots runs. -/
def State.leaseProceed (s : State) (f : Nat) : State :=
  let l := s.slotsOf f
  if !(s.fn f).expiring || l.any s.stepRuns then s else
  let s := (l.filter (fun j => s.classOf j ≠ 0 && s.slotIs j .running)).foldl (fun s j => s.takeSlice j (s.slotBanks j) true false) s
  let s := l.foldl (fun s j => s.setBit (Reg.PN_JOBMAP_CTL j) 27 false) s
  let s := s.closeWindows f
  let s := s.setFn f { s.fn f with expiring := false, muted := true }
  l.foldl (fun s j => s.sendLoss j 0) s

/-- Every expiry that waits for steps goes on where it can. -/
def State.leasesProceed (s : State) : State := (s.fns.filter (fun e => e.2.expiring)).foldl (fun s e => s.leaseProceed e.1) s

/-- A job slot stopped from outside its step: its saved slice goes with it, and expiries that waited for its step go on. -/
def State.stopJob (s : State) (slot : Nat) : State :=
  let s := s.stopSlot slot
  State.leasesProceed { s with slices := s.slices.put none slot none }

/-- Orders 1 to 3 of an expiry. -/
def State.expireLease (s : State) (f : Nat) : State :=
  if !s.leaseLive f then s else
  let s := (s.setBit (Reg.PC_LEASE f) 14 true).raise .HOST_LEASE_EXPIRED .info (srcFn f) [f]
  let s := (s.slotsOf f).foldl (fun s j => (s.withdrawSteps j).discardRequests j) s
  (s.setFn f { s.fn f with expiring := true }).leaseProceed f

/-- LEASE_EXPIRY: the timer of a function has reached LEASE_MS, or an expiry under way goes on. -/
def State.leaseTimer (s : State) (f : Nat) : State :=
  if 16 ≤ f then s
  else if (s.fn f).expiring then s.leaseProceed f
  else if s.leaseOver f then s.expireLease f else s

def execLeaseExpiry (fn : Nat) (s : State) : Host.Outcome State Fault Refusal := .next (s.leaseTimer fn)

/-- D3HOT_WRITE acts on the function as lease expiry. -/
def State.d3hot (s : State) (f : Nat) : State := if 16 ≤ f then s else s.expireLease f
def execD3hotWrite (fn : Nat) (s : State) : Host.Outcome State Fault Refusal := .next (s.d3hot fn)

/-- A function's queues and rings as at reset. -/
def State.clearQueues (s : State) (f : Nat) : State :=
  { s with
    regs := s.regs.clear (Reg.PC_QUEUE_CREDITS f 0) (Reg.PC_RING_BASE_LO f 16)
    rings := s.rings.clear (16 * f) (16 * f + 16)
    capsules := s.capsules.clear (16 * f) (16 * f + 16) }

/-- FUNCTION_LEVEL_RESET: lease expiry, then the queues and rings are cleared. Bus Master Enable is clear after it, as PCI Express has it. -/
def State.flr (s : State) (f : Nat) : State :=
  if 16 ≤ f then s else
  let s := (s.expireLease f).clearQueues f
  { s with busMaster := s.busMaster.put false f false }
def execFunctionLevelReset (fn : Nat) (s : State) : Host.Outcome State Fault Refusal := .next (s.flr fn)

/-- BUS_MASTER_DISABLE: the function's reads return poisoned and its writes are dropped from now on (R367). -/
def State.masterOff (s : State) (f : Nat) : State := { s with busMaster := s.busMaster.put false f false }
def execBusMasterDisable (fn : Nat) (s : State) : Host.Outcome State Fault Refusal := .next (s.masterOff fn)

end Sys2Proof.Machine
end

