-- ==== Sys2Proof/Machine/Boundary.lean ====
section
/-! DEFINITION. The step-boundary drain (R203 to R205), spare-core rotation (R467) and shadow refresh (R207, R471). -/

namespace Sys2Proof.Machine

/-! ### Rotation (R467) -/

/-- Whether the four contexts of a core are FREE. -/
def State.coreFree (s : State) (m c : Nat) : Bool :=
  [0, 1, 2, 3].all (fun i => (s.context (m * 128 + c * 4 + i)).phase = .free && (s.context (m * 128 + c * 4 + i)).task = none)

/-- The element of a list with the least key, the first of equals. -/
def leastBy (f : Nat → Nat) : List Nat → Option Nat
  | [] => none
  | a :: r =>
    match leastBy f r with
    | none => some a
    | some b => if f a ≤ f b then some a else some b

/-- Whether ROT_INTERVAL_S has passed since a motif's last rotation. -/
def State.rotationDue (s : State) (m : Nat) : Bool :=
  let n := s.fld Reg.PN_ROT 0 16
  n ≠ 0 && decide (s.fw.rotated.get 0 m + 1000000 * n ≤ s.usecN.toNat)

/-- One rotation of a motif. Service hours are kept in microseconds, brought up to date here. `failed` says that the core taken out fails
its self-test. -/
def State.rotate (s : State) (m : Nat) (failed : Bool) : State :=
  let active := (List.range 32).filter (fun c => !s.coreFenced m c && !s.coreSpare m c)
  let spares := (List.range 32).filter (s.coreSpare m)
  let now := s.usecN.toNat
  let gain := now - s.fw.rotated.get 0 m
  let hours := fun (c : Nat) => (s.core (m * 32 + c)).hours + (if active.contains c then gain else 0)
  let top := active.foldl (fun t c => max t (hours c)) 0
  match leastBy hours spares, leastBy (fun c => top - hours c) (active.filter (s.coreFree m)) with
  | none, _ => s
  | some _, none => s.count (Reg.MT_CORES_ROT m) 0 16 1
  | some new, some old =>
    let s := active.foldl (fun s c => s.setCore (m * 32 + c) { s.core (m * 32 + c) with hours := hours c }) s
    let s : State := { s with fw := { s.fw with rotated := s.fw.rotated.put 0 m now } }
    let s := ((s.setBit (Reg.MT_CORES_SPARE m) new false).setCorePhase m new .free).setCorePhase m old .offline
    let s := s.setBit (Reg.MT_CORES_SPARE m) old true
    let s := (s.count Reg.HF_BG 16 16 1).raise .CORE_ROTATED .info m [old, new]
    if failed then (s.setBit (Reg.MT_CORES_SPARE m) old false).fenceCore m old 3 else s

/-- Rotation at order 10; `failed` are the motifs whose core taken out fails its self-test. -/
def State.rotateHome (s : State) (slot : Nat) (failed : List Nat) : State :=
  ((s.homeMotifs slot).filter s.rotationDue).foldl (fun s m => s.rotate m (failed.contains m)) s

/-- IDLE_CORE_ROTATION: a motif with no home job, every context FREE and its queue empty. -/
def State.idleRotate (s : State) (m : Nat) (failed : Bool) : State :=
  let idle := (List.range 128).all (fun i => (s.context (m * 128 + i)).task = none) && s.queue m = []
  if m < 10240 && !s.bit (Reg.MT_JOBS m) 6 && s.rotationDue m && idle then s.rotate m failed else s

def execIdleCoreRotation (motif : Nat) (failed : Bool) (s : State) : Host.Outcome State Fault Refusal := .next (s.idleRotate motif failed)

/-! ### The drain -/

/-- Order 5: the slot's commands and chains have completed, its array sets are EMPTY, and no entry is OPEN. -/
def State.unitsQuiet (s : State) (slot : Nat) : Bool :=
  !s.unitsBusy slot && s.chains.all (fun q => q.2.all (fun c => slotOf c.info.key ≠ slot)) && !s.deferred.any (fun d => slotOf d.cmd.key = slot) &&
  s.engines.all (fun e => match e.2.owner with | some k => slotOf k ≠ slot || !e.2.holdsData | none => true) && s.entriesOf slot [1] = []

/-- Order 6: the slot's tags are zero and its collectives complete. -/
def State.tagsQuiet (s : State) (slot : Nat) : Bool := s.tagsHeld 0 slot = 0 && s.tagsHeld 1 slot = 0 && s.runningColls slot = []

/-- Orders 5 to 8: entries go to IDLE, staged rows are handed over, tokens are zeroed. -/
def State.drainFirst (s : State) (slot : Nat) : State :=
  let r := (s.moveEntries slot [2, 3] 0).prospectHandover slot
  let s := r.1.zeroTokens slot
  s.setJob slot { s.job slot with drainOrder := 9, fresh := r.2 }

/-- LATCHED of the taps of a slot's entries cleared for the next step (R316). -/
def State.clearTaps (s : State) (slot : Nat) : State :=
  ((List.range 256).filter (fun i => s.bit (Reg.UP_TAP_CTL i) 8 && s.fld (Reg.PN_PLAIT_CTL i) 14 6 = slot)).foldl (fun s i => s.setBit (Reg.UP_TAP_CTL i) 8 false) s

/-- The UP_JOB writes of a slot that waited take effect. -/
def State.applyUpJob (s : State) (slot : Nat) : State :=
  (s.regPending.filter (fun e => Reg.UP_JOB_CTL slot ≤ e.1 && e.1 < Reg.UP_JOB_CTL slot + 0x80)).foldl State.applyPending s

/-- Offsets of the motifs' registers whose writes wait for a boundary: the window owners and MT_JOBS. -/
def waitsForBoundary (a : Nat) : Bool :=
  let o := (a - 0x800000) % 0x400
  isJobs a || (0x800000 ≤ a && a < 0x1200000 && ((0x100 ≤ o && o < 0x140) || (0x240 ≤ o && o < 0x260)))

/-- A job slot's group forms (R330, R345): its layout epoch is 1 and it has lost no peer. -/
def State.formGroup (s : State) (j : Nat) : State :=
  ((s.wr (Reg.HF_GROUP_EPOCH j) 1#32).setFld (Reg.HF_GROUP_LOST j) 0 17 0).setEpochSt j {}

/-- One word of a declaration's register image written by firmware (R373), now. The CTL word of a deep window opens one that an expired
lease closed (R384). -/
def State.declWrite (s : State) (e : Nat × Word) : State :=
  if Reg.BK_OWNER 0 ≤ e.1 && e.1 < Reg.BK_OWNER 40960 && e.1 % 64 = 0 then s.handOwner .firmware ((e.1 - Reg.BK_OWNER 0) / 64) e.2
  else if Reg.PN_PLAIT_CTL 0 ≤ e.1 && e.1 < Reg.PN_PLAIT_CTL 256 then
    let i := (e.1 - Reg.PN_PLAIT_CTL 0) / 0x80
    if e.1 % 0x80 = 0 then s.plaitOpen i e.2 else if s.entryState i = 1 then s else s.regStore e.1 e.2
  else if waitsForBoundary e.1 then s.applyPending e
  else if Reg.PN_JOB_CTL 0 ≤ e.1 && e.1 < Reg.PN_JOB_CTL 64 && e.1 % 0x80 = 0 then
    s.regStore e.1 (s.keepClass ((e.1 - Reg.PN_JOB_CTL 0) / 0x80) e.2)
  else if e.1 = Reg.HF_LD_CFG && 4 ≤ s.fld Reg.PC_BOOT 0 3 then s
  else if Reg.HF_GROUP_ID 0 ≤ e.1 && e.1 < Reg.HF_GROUP_ID 64 && e.1 % 0x20 = 4 && e.2.getLsbD 16 && !bitOf (s.rd e.1).toNat 16 then
    (s.regStore e.1 e.2).formGroup ((e.1 - Reg.HF_GROUP_ID 0) / 0x20)
  else if Reg.HF_DEEP_WIN_OFF_LO 0 ≤ e.1 && e.1 < Reg.HF_DEEP_WIN_OFF_LO 64 && e.1 % 0x20 = 0x18 then
    State.regStore { s with closed := s.closed.put false ((e.1 - Reg.HF_DEEP_WIN_OFF_LO 0) / 0x20) false } e.1 e.2
  else s.regStore e.1 e.2

/-- The register writes of a record. -/
def DeclRec.writes : DeclRec → List (Nat × Word)
  | .regs t ws => ws.zipIdx.map (fun e => (t + 4 * e.2, e.1))
  | .mem _ _ => []

/-- A record of a declaration applied. Firmware writes it (R373): a memory image into a bank is an access of the firmware's (R214). -/
def State.declRec (s : State) : DeclRec → State
  | .regs t ws => (DeclRec.regs t ws).writes.foldl State.declWrite s
  | .mem t d => s.writeDev (.owner 0 0) t d

/-- The bank that a motif's home job lends to its guests (R195); none where the home lends none. -/
def State.guestBank (s : State) (m : Nat) : Option Nat :=
  let home := s.fld (Reg.MT_JOBS m) 0 6
  if s.bit (Reg.MT_JOBS m) 6 && !s.slotIdle home && s.bit (Reg.PN_JOB_CTL home) 13 then some (s.fld (Reg.PN_JOB_CTL home) 14 2) else none
/-- What the scheduler arranges for guests (R195): in each motif of a home job with GUEST_OK its bank GUEST_BANK goes to firmware, and a
guest's code window lies in the bank that its motifs' home lends. The line it begins at is the one declared (DESIGN CHOICE, log entry 32). -/
def State.placeGuests (s : State) (slot : Nat) : State :=
  let s := ((s.homeMotifs slot).filterMap (fun m => (s.guestBank m).map (4 * m + ·))).foldl (fun s b =>
    if s.fld (Reg.BK_OWNER b) 0 3 = 0 then s else s.handOwner .firmware b 0#32) s
  match (s.slotMotifs slot).findSome? (fun m => if s.bit (Reg.MT_JOBS m) 6 && s.fld (Reg.MT_JOBS m) 0 6 = slot then none else s.guestBank m) with
  | none => s
  | some b => s.setFld (Reg.PN_JOBMAP_CTL slot) 0 2 b

/-- A slot's declaration applied, record by record in its order. -/
def State.declApply (s : State) (slot : Nat) (l : List DeclRec) : State := (l.foldl State.declRec s).placeGuests slot

/-- Panels that a slot's motifs lie in. -/
def State.slotPanels (s : State) (slot : Nat) : List Nat := [0, 1, 2, 3].filter (fun p => (s.slotMotifs slot).any (fun m => panelOf m = p))
/-- Whether a TRAIN slot with FLOOR_SLICE is to be sliced at its boundary (R202): a panel of its motifs is in an excursion, and a SERVE slot
that runs has motifs there. -/
def State.floorDue (s : State) (slot : Nat) : Bool :=
  s.classOf slot = 1 && s.bit (Reg.PN_JOB_CTL slot) 16 && (s.slotPanels slot).any (fun p => s.floorMiss p &&
    (List.range 64).any (fun j => s.classOf j = 0 && s.slotIs j .running && (s.slotPanels j).contains p))

/-- Order 10. -/
def State.drainTen (s : State) (slot : Nat) (banks failed : List Nat) : State :=
  let s := (s.applyPendings slot).applyUpJob slot
  let s := s.declApply slot (s.job slot).setRecs
  let s := (s.setJob slot { s.job slot with setRecs := [] }).endCapsulesOf slot 0 (fun op => op = 0x0A)
  let s := (s.rotateHome slot failed).poolBanks
  let s := s.setJob slot { s.job slot with fresh := [] }
  if s.floorDue slot then (s.setSlot slot .running).takeSlice slot (s.slotBanks slot) false true
  else if (s.job slot).slicePending then (s.setSlot slot .running).takeSlice slot banks false false else s

/-- Orders 9 to 13. -/
def State.drainLast (s : State) (slot : Nat) (banks failed : List Nat) (host : List Host.Cell) (loads : List ShardLoad) : State :=
  let s := (s.haulBoundary slot (s.job slot).fresh host loads).releaseGathers
  let s := (s.releaseRows host).dropGradients slot
  let s : State := { s with sweepTags := s.sweepTags.filter (fun t => !(t.1 = slot && t.2.1 = 0)) }
  let ended := s.fld (Reg.PN_JOB_STEPEND slot) 0 32 = 0
  let j := s.job slot
  let s := s.drainTen slot banks failed
  let s := if ended then s else
    let n := s.rd2 (Reg.PN_JOB_STEP_LO slot) (Reg.PN_JOB_STEP_HI slot) + 1
    (s.wr (Reg.PN_JOB_STEP_LO slot) (BitVec.ofNat 32 n)).wr (Reg.PN_JOB_STEP_HI slot) (BitVec.ofNat 32 (n / 2 ^ 32))
  let s := ((s.setFld (Reg.PN_JOB_REPLAYS slot) 0 4 0).clearTaps slot).stepRecord slot (b2n j.faulted.isSome) (j.faulted.getD 0)
  let s := s.setJob slot { s.job slot with inStep := false, faulted := none, drainOrder := 0, compared := 0 }
  let s := if ended then
      -- the slot of an ended program is DONE: nothing of it is to be restored
      let s := ((s.cancelProspect slot).stepRecords slot 8 0 (s.job slot).stepsQueued).setSlot slot .done
      let s : State := { s with slices := s.slices.put none slot none }
      s.setJob slot { s.job slot with stepsQueued := 0, slicePending := false }
    else if s.slotIs slot .sliced then s
    else (s.setSlot slot .running).nextStep slot
  s.leasesProceed

/-- DRAIN_QUIESCED: the drain runs from order 5 as far as it can. At order 9 it stops for a digest comparison that is due and for a change
of layout. `banks` are those that a pending slice frees, `failed` the motifs whose rotated core fails its self-test. -/
def State.drain (s : State) (slot : Nat) (banks failed : List Nat) (host : List Host.Cell) (loads : List ShardLoad) : State :=
  if !s.slotIs slot .draining then s else
  let s := if (s.job slot).drainOrder = 4 && s.unitsQuiet slot && s.tagsQuiet slot then s.drainFirst slot else s
  if (s.job slot).drainOrder ≠ 9 || (s.compareDue slot && (s.job slot).compared ≠ 2) then s else
  let s := s.epochBegin slot host
  if (s.epochSt slot).order ≠ 0 then s else s.drainLast slot banks failed host loads

def execDrainQuiesced (slot : Nat) (banks failed : List Nat) (host : List Host.Cell) (loads : List (Nat × Nat × Nat × Nat)) (s : State) :
    Host.Outcome State Fault Refusal :=
  .next (s.drain slot banks failed host (loads.map (fun e => ({ owner := e.1, table := e.2.1, shard := e.2.2.1, load := e.2.2.2 } : ShardLoad))))

/-! ### STEP_HANG (R205) -/

/-- The first unfinished order of a drain, and the entry that blocks it. -/
def State.hangData (s : State) (slot : Nat) : List Nat :=
  let o := (s.job slot).drainOrder
  let n := if o = 4 then (if s.unitsQuiet slot then 6 else 5) else o
  [slot, n, (s.entriesOf slot [1]).headD 0xFFFF, s.firstTag slot]

/-- STEP_HANG: DRAIN_LIMIT_MS has passed since order 1; the timer is held while order 3 runs and while a shift change holds the slot. -/
def State.stepHang (s : State) (slot : Nat) : State :=
  if (s.job slot).drainOrder = 0 || s.slotIs slot .sweep || (s.job slot).shiftHeld then s else
  let s := s.raise .STEP_HANG .jobFatal (srcJob slot) (s.hangData slot)
  (((s.moveEntries slot [1] 3).stopWith slot 15)).leasesProceed

def execStepHang (slot : Nat) (s : State) : Host.Outcome State Fault Refusal := .next (s.stepHang slot)

end Sys2Proof.Machine
end

