-- ==== Sys2Proof/Machine/FwImage.lean ====
section
/-! DEFINITION. Icaux images (R387) and their verification (R388). -/

namespace Sys2Proof.Machine

/-- Little-endian number of `n` bytes of an image. -/
def imgNum (l : List Byte) (o n : Nat) : Nat := ofBytes ((l.drop o).take n)
/-- Bytes of an image. -/
def imgBytes (l : List Byte) (o n : Nat) : List Byte := (l.drop o).take n

/-- One component of an image's table (R387). -/
structure Comp where
  ident : Nat
  offset : Nat
  length : Nat
  exportFmt : Nat
  importMin : Nat
  importMax : Nat
  dataSize : Nat
  hash : List Byte
deriving DecidableEq, Repr, Inhabited

def imgVersion (l : List Byte) : Nat := imgNum l 8 4
def imgSvn (l : List Byte) : Nat := imgNum l 12 2
def imgLen (l : List Byte) : Nat := imgNum l 16 4
/-- Entry i of the component table. -/
def imgComp (l : List Byte) (i : Nat) : Comp :=
  let o := 256 + 64 * i
  { ident := imgNum l o 4 % 8, offset := imgNum l (o + 8) 4, length := imgNum l (o + 12) 4, exportFmt := imgNum l (o + 16) 2
    importMin := imgNum l (o + 20) 2, importMax := imgNum l (o + 22) 2, dataSize := imgNum l (o + 24) 4, hash := imgBytes l (o + 32) 32 }
/-- The eight components, in table order, which is ID order. -/
def imgComps (l : List Byte) : List Comp := (List.range 8).map (imgComp l)
/-- The header and the component table: what both signatures and MEAS_1 cover. -/
def imgHead (l : List Byte) : List Byte := l.take 768
/-- The body of a component. -/
def imgBody (l : List Byte) (c : Comp) : List Byte := imgBytes l c.offset c.length

/-- Check 1: MAGIC, FORMAT, COUNT, TOTAL_LEN, and the place of each body. -/
def imgShape (l : List Byte) : Bool :=
  imgNum l 0 4 = 0x49435846 && imgNum l 4 2 = 1 && imgNum l 6 2 = 8 && decide (imgLen l ≤ 0x200000) && imgLen l % 64 = 0 &&
  decide (896 ≤ imgLen l) && decide (imgLen l ≤ l.length) && (imgComps l).all (fun c => decide (c.offset + c.length ≤ imgLen l))

/-- The unrevoked vendor slots in order, and the first of them that verifies a signature (R403). -/
def State.vendorSlots (s : State) : List Nat := (List.range 4).filter (fun i => !s.otp.revoked.contains i)
def State.vendorOf (s : State) (m sig : List Byte) : Option Nat := s.vendorSlots.find? (fun i => sm2Verify (Config.vendorKey i) m sig)
/-- The owner key: the highest-numbered slot written (R404). -/
def State.ownerKey (s : State) : Option (List Byte) := s.otp.owners.getLast?

/-- The checks of R388 in order: the code of the first that fails, 0 where all pass. -/
def State.verifyImage (s : State) (l : List Byte) : Nat :=
  let sig := imgBytes l (imgLen l - 128) 64
  let own := imgBytes l (imgLen l - 64) 64
  if !imgShape l then 1
  else if (s.vendorOf (imgHead l) sig).isNone then 2
  else if (match s.ownerKey with | some k => !sm2Verify k (imgHead l) own | none => false) then 3
  else if imgSvn l < s.otp.svn then 4
  else if imgBytes l 32 32 ≠ sm3 (imgBytes l 256 512) then 5
  else if !(imgComps l).all (fun c => c.hash = sm3 (imgBody l c)) then 6
  else if 0x300000 < ((imgComps l).map (·.dataSize)).sum then 7
  else 0

/-- The format check of R396: each running EXPORT_FMT lies within the new IMPORT_MIN to IMPORT_MAX. -/
def formatsFit (running new : List Byte) : Bool :=
  ((imgComps running).zip (imgComps new)).all (fun p => decide (p.2.importMin ≤ p.1.exportFmt) && decide (p.1.exportFmt ≤ p.2.importMax))

/-- The image bank that runs, and the other one (R386). -/
def State.runImage (s : State) : List Byte := (if s.bit Reg.HF_FW_STATE 0 then s.fw.bankB else s.fw.bankA).getD []
def State.otherImage (s : State) : Option (List Byte) := if s.bit Reg.HF_FW_STATE 0 then s.fw.bankA else s.fw.bankB
def State.setOther (s : State) (l : List Byte) : State :=
  { s with fw := if s.bit Reg.HF_FW_STATE 0 then { s.fw with bankA := some l } else { s.fw with bankB := some l } }

end Sys2Proof.Machine
end

