-- ==== Sys2Proof/Machine/Flash.lean ====
section
/-! DEFINITION. Log flash (R207, R386, R443, R472): page programs, erases, wear, the event log and the core samples (R400). -/

namespace Sys2Proof.Machine

/-! ### Regions in blocks of 128 KiB (R386, R472) -/

/-- First block and blocks of the region of a block: boot record, GOOD, STAGED, core samples, event log. -/
def flashRegion (block : Nat) : Nat × Nat :=
  if block < 32 then (0, 32) else if block < 64 then (32, 32) else if block < 96 then (64, 32) else if block < 608 then (96, 512) else (608, 1440)
/-- The first block of the event log. -/
def logBlock : Nat := 608
/-- Pages of the event log. -/
def logPages : Nat := 46080

/-- Retired blocks of a block's region. -/
def State.retiredIn (s : State) (block : Nat) : Nat :=
  (s.flash.retired.filter (fun b => flashRegion b = flashRegion block)).length

/-- The next event-log page from `p` on whose block is not retired; `fuel` blocks are tried. -/
def State.logPageFrom (s : State) : Nat → Nat → Nat
  | 0, p => p % logPages
  | fuel + 1, p =>
    if s.flash.retired.contains (logBlock + p % logPages / 32) then s.logPageFrom fuel ((p / 32 + 1) * 32) else p % logPages

/-! ### Page programs -/

/-- The repair maps and fence states in force. -/
def State.mapsNow (s : State) (seq : Nat) : MapCopy :=
  { seq := seq
    banks := s.regs.filterMap (fun e =>
      if Reg.BK_REPAIR 0 ≤ e.1 && e.1 < Reg.BK_REPAIR 40960 && e.1 % 64 = Reg.BK_REPAIR 0 % 64 then some ((e.1 - Reg.BK_REPAIR 0) / 64, e.2) else none)
    cores := s.regs.filterMap (fun e =>
      if 0x800000 ≤ e.1 && e.1 < 0x1200000 && (e.1 - 0x800000) % 0x400 = 0x2E0 then some ((e.1 - 0x800000) / 0x400, e.2) else none) }

/-- The map copy in force: the higher sequence number whose check passes (R443). -/
def State.mapsKept (s : State) : MapCopy := if s.flash.mapA.seq < s.flash.mapB.seq then s.flash.mapB else s.flash.mapA

/-- The effect of a page program that completes. An update of the maps writes the older copy (R443). -/
def State.flashJob (s : State) (j : FlashJob) : State :=
  match j with
  | .sample entry bytes =>
    { s with flash := { s.flash with samples := s.flash.samples.put [] entry bytes, unread := s.flash.unread.filter (· ≠ entry) ++ [entry] } }
  | .events bytes =>
    let p := s.logPageFrom 1440 s.flash.nextPage
    { s with flash := { s.flash with pages := s.flash.pages.put [] p bytes, nextPage := p + 1 } }
  | .maps =>
    let a := s.flash.mapA
    let b := s.flash.mapB
    if a.seq < b.seq then { s with flash := { s.flash with mapA := s.mapsNow (b.seq + 1) } }
    else { s with flash := { s.flash with mapB := s.mapsNow (a.seq + 1) } }

/-- LOG_FLASH_WRITE_DONE: the oldest queued program completes; with none left, a suspended erase goes on. -/
def State.flashDone (s : State) : State :=
  match s.flash.jobs with
  | [] => s
  | j :: rest =>
    let s := s.flashJob j
    { s with flash := { s.flash with jobs := rest, suspended := s.flash.suspended && rest ≠ [] } }
def execLogFlashWriteDone (s : State) : Host.Outcome State Fault Refusal := .next s.flashDone

/-- Every queued program completes (order 2 of R425). -/
def State.flashAll (s : State) : Nat → State
  | 0 => s
  | n + 1 => if s.flash.jobs = [] then s else s.flashDone.flashAll n

/-- A program queued. -/
def State.queueFlash (s : State) (j : FlashJob) : State := { s with flash := { s.flash with jobs := s.flash.jobs ++ [j] } }

/-! ### Erases and wear (R207, R472) -/

/-- FLASH_ERASE_SUSPEND: a queued write suspends the erase of a block. -/
def State.eraseSuspend (s : State) (block : Nat) : State :=
  if s.flash.jobs = [] || s.flash.suspended then s
  else State.count { s with flash := { s.flash with erasing := some block, suspended := true } } Reg.HF_BG 0 16 1
def execFlashEraseSuspend (block : Nat) (s : State) : Host.Outcome State Fault Refusal := .next (s.eraseSuspend block)

/-- LOG_FLASH_ERASE_DONE: the block is blank and its erase count is one higher. A suspended erase does not complete. -/
def State.eraseDone (s : State) (block : Nat) : State :=
  if 2048 ≤ block || s.flash.retired.contains block || (s.flash.suspended && s.flash.erasing = some block) then s else
  let n := s.flash.erases.get 0 block + 1
  { s with flash := { s.flash with
    erases := s.flash.erases.put 0 block n, erasing := if s.flash.erasing = some block then none else s.flash.erasing
    pages := if logBlock ≤ block then s.flash.pages.clear ((block - logBlock) * 32) ((block - logBlock) * 32 + 32) else s.flash.pages } }
def execLogFlashEraseDone (block : Nat) (s : State) : Host.Outcome State Fault Refusal := .next (s.eraseDone block)

/-- FLASH_BLOCK_FAIL: an erase or program failed, and the block is retired; the page lost is still first in the queue and goes to the next
block. FLASH_WORN follows once more than 5 % of the region is retired. -/
def State.blockFail (s : State) (block : Nat) : State :=
  if 2048 ≤ block || s.flash.retired.contains block then s else
  let s : State := { s with flash := { s.flash with
    retired := s.flash.retired ++ [block], erasing := if s.flash.erasing = some block then none else s.flash.erasing
    suspended := s.flash.suspended && s.flash.erasing ≠ some block } }
  let s := s.raise .FLASH_BLOCK_RETIRED .corrected (srcComponent 5) [block]
  let n := s.retiredIn block
  let r := flashRegion block
  if r.2 < 20 * n && 20 * (n - 1) ≤ r.2 then s.raise .FLASH_WORN .info (srcComponent 5) [r.1, n] else s
def execFlashBlockFail (block : Nat) (s : State) : Host.Outcome State Fault Refusal := .next (s.blockFail block)

/-! ### Core samples (R400) -/

/-- A section: type, length and value, 64-byte aligned. -/
def section64 (kind : Nat) (l : List Byte) : List Byte :=
  let b := toBytes 4 kind ++ toBytes 4 l.length ++ l
  b ++ List.replicate (roundUp b.length 64 - b.length) 0#8

/-- The words of a stretch of the register space. -/
def State.regImage (s : State) (a n : Nat) : List Byte := s.regBytes (fun i => a + 4 * i) n

/-- The last 256 event records of the ring (R461). -/
def State.lastEvents (s : State) : List Byte :=
  let n := s.rd2 Reg.EV_LAST_LO Reg.EV_LAST_HI
  let k := min n 256
  (List.range k).flatMap (fun i => s.regBytes (fun w => Reg.EV_WIN ((n - k + 1 + i) % 8192 * 8 + w)) 8)

/-- The core-sample region in EXT (R386), where there is one. -/
def State.sampleBase (s : State) : Option Nat :=
  if s.bit Reg.HF_LD_CFG 2 then
    ((List.range 12).find? (fun k => s.bit Reg.HF_LD_STATE k)).map (fun k =>
      extBase + (k + 1) * 8 * s.chanBytes - 0x4000000)
  else
    let n := (s.chanSet 0).length
    if n = 0 then none else some (extBase + n * s.chanBytes - 0x4000000)

/-- A core sample of a component: header and sections, at most 1 MiB. `core`, `data` and `records` are what the component's core, data
region and state records hold. -/
def State.sampleBytes (s : State) (comp cause : Nat) (core data records : List Byte) : List Byte :=
  let queue := (s.fw.queues.get [] comp).flatMap id
  let regs := s.regImage 0xA0000 64 ++ s.regImage Reg.PC_BOOT 1 ++ s.regImage (Reg.PN_JOB_CTL 0) 2048
  let body := (section64 1 core ++ section64 2 data ++ section64 3 queue ++ section64 4 records ++ section64 5 s.lastEvents ++ section64 6 regs).take 0xFFFC0
  let head := [0x43534D50, s.flash.sampleNo % 2 ^ 16 + 2 ^ 16 * (comp % 8) + 2 ^ 19 * (cause % 32)].flatMap (toBytes 4) ++
    toBytes 8 s.eventSeq ++ toBytes 4 s.usecN.toNat ++ toBytes 4 (imgVersion s.runImage) ++ toBytes 4 (64 + body.length) ++ toBytes 4 0
  head ++ sm3 body ++ body

/-- A core sample taken: to the next EXT entry from S4 on, and queued for the next flash entry. -/
def State.takeSample (s : State) (comp cause : Nat) (core data records : List Byte) : State :=
  let b := s.sampleBytes comp cause core data records
  let e := s.flash.sampleNo % 64
  let x := s.fw.extNext % 64
  let lost := s.flash.unread.contains e || (decide (4 ≤ s.fld Reg.PC_BOOT 0 3) && s.fw.extUnread.contains x)
  let s := match (if 4 ≤ s.fld Reg.PC_BOOT 0 3 then s.sampleBase else none) with
    | some a =>
      let s := s.writeDev .outside (a + 0x100000 * x) b
      { s with fw := { s.fw with extNext := s.fw.extNext + 1, extUnread := s.fw.extUnread.filter (· ≠ x) ++ [x] } }
    | none => s
  let s := State.queueFlash { s with flash := { s.flash with sampleNo := s.flash.sampleNo + 1 } } (.sample e b)
  let s := if lost then s.setBit Reg.HF_FW_STATUS 5 true else s
  s.raise .CORE_SAMPLE .info (srcComponent comp) [comp, cause]

end Sys2Proof.Machine
end

