-- ==== Sys2Proof/Machine/Security.lean ====
section
/-! DEFINITION. Signed commands (R407 to R411), quotes (R414, R415), measurements from outside (R413) and debug levels (R416 to R419). -/

namespace Sys2Proof.Machine

/-- Whether the security block takes commands: S1 has begun, and STANDBY entry has not passed order 3 (R429). -/
def State.secUp (s : State) : Bool := s.power.s1 && s.power.standby = 0

/-! ### Debug levels (R417 to R419) -/

/-- DEBUG_LEVEL raised, and MEAS_5 extended by the level, its signer and the digest of the command. -/
def State.noteLevel (s : State) (level signer : Nat) (digest : List Byte) : State :=
  (s.extendMeas 5 ([BitVec.ofNat 8 level, BitVec.ofNat 8 signer] ++ digest)).raise .DEBUG_LEVEL .info srcSecurity [level, signer]

/-- The level set with its signer and its lifetime in seconds, 0 until reset. -/
def State.putLevel (s : State) (level signer seconds : Nat) : State :=
  let s := s.setFld Reg.SC_DEBUG 0 19 (level + signer * 4 + seconds * 8)
  { s with sec := { s.sec with levelUntil := if seconds = 0 then none else some (s.usecN.toNat + 1000000 * seconds) } }

/-- The level falls to OFF. The digest that MEAS_5 takes up where no command made the change is a free value. -/
def State.levelOff (s : State) : State :=
  if s.debugLevel = 0 then s else
  let r := s.drawBytes 32
  (r.2.putLevel 0 0 0).noteLevel 0 0 r.1

/-- One more entry to INVASIVE: DEBUG_EPOCH, the lifetime counter and the one since power-on. -/
def State.countInvasive (s : State) : State :=
  let s := s.setFld Reg.SC_DEBUG 19 13 (s.debugEpoch + 1)
  let s : State := { s with otp := { s.otp with invasive := s.otp.invasive + 1 } }
  s.count (Reg.SC_PWR_HIST 7) 0 32 1

/-- KEYS_ZEROISED: SR and the job keys zeroised, with the status bit and its event. -/
def State.keysGone (s : State) : State := (s.zeroise).setStatus Reg.SC_STATUS 5 .KEYS_ZEROISED .info srcSecurity []

/-- Order 3 of R419: every slot that is not FREE or DONE stops, with a NOTICE record each. -/
def State.stopAll (s : State) (notice : Bool) : State :=
  ((List.range 64).filter (fun j => !s.slotIs j .free && !s.slotIs j .done)).foldl (fun s j =>
    let s := s.stopJob j
    if notice then s.noticeRecord j 8 else s) s

/-- The banks that firmware does not own. -/
def State.jobBanks (s : State) : List Nat :=
  s.regs.filterMap (fun e =>
    if Reg.BK_OWNER 0 ≤ e.1 && e.1 < Reg.BK_OWNER 40960 && e.1 % 64 = 0 && bitsOf e.2.toNat 0 3 ≠ 0 then some ((e.1 - Reg.BK_OWNER 0) / 64) else none)

/-- The EXT pairs whose data or check symbols have a recorded error, or whose block stands in a check cache. -/
def State.pairsMet (s : State) : List Nat :=
  let blocks := s.areas.map (fun e => (e.1 / 2 ^ 22, e.1 % 2 ^ 22)) ++ s.checkCache.flatMap (fun e => e.2.map (fun x => (e.1, x.block)))
  s.pairErrs.map (fun e => 128 * e.1) ++ blocks.flatMap (fun b => (List.range 31).filterMap (fun j => s.pairAt b.1 b.2 j))

/-- Zeros written into a stretch of EXT; the check symbols of its pairs are written fresh. -/
def State.wipeExt (s : State) (lo hi : Nat) : State :=
  let s : State := { s with mem := s.mem.clear lo hi }
  (s.pairsMet.filter (fun a => lo ≤ a && a + 128 ≤ hi)).foldl (fun s a => s.writePair a (List.replicate 128 0#8)) s

/-- Order 4 of R419: zero in the banks given and in every job slot's EXT range. -/
def State.wipeJobs (s : State) (banks : List Nat) : State :=
  let s := banks.foldl (fun s b => s.refill b 0) s
  (List.range 64).foldl (fun (s : State) j =>
    s.wipeExt (extBase + s.rd2 (Reg.PN_JOBMAP_EXT_BASE_LO j) (Reg.PN_JOBMAP_EXT_BASE_HI j))
      (extBase + s.rd2 (Reg.PN_JOBMAP_EXT_LIMIT_LO j) (Reg.PN_JOBMAP_EXT_LIMIT_HI j))) s

/-- A level raised by a DEBUG command or, in BLANK, by a write. Entry to INVASIVE in FIELD runs orders 2 to 6 of R419; the banks wiped are
those that jobs and other agents held before order 3 released them. -/
def State.enterLevel (s : State) (level signer seconds : Nat) (digest : List Byte) : State :=
  let entry := level = 2 && s.debugLevel ≠ 2
  let wipe := entry && s.lifeCycle = 2
  let change := level ≠ s.debugLevel
  let banks := s.jobBanks
  let s := if wipe then s.keysGone else s
  let s := if entry then s.countInvasive else s
  let s := if wipe then (s.deriveSr.stopAll true).wipeJobs banks else s
  let s := if change then s.noteLevel level signer digest else s
  s.putLevel level signer seconds

/-! ### Signed commands (R407, R408) -/

/-- Checks of a signer (R410, R417): who may sign a DEBUG command, a life-cycle change, and any other OP. -/
def State.signerOk (s : State) (op arg signer : Nat) : Bool :=
  let owned := s.ownerKey.isSome
  match op with
  | 1 =>
    match s.lifeCycle with
    | 0 => false
    | 1 => true
    | 2 => signer = 1 || !owned
    | _ => signer = 0
  | 2 =>
    match s.otp.lc, arg with
    | 1, 2 => true
    | 2, 3 => signer = 1 || !owned
    | _, _ => signer = 0
  | 3 =>
    match s.lifeCycle with
    | 1 => signer = 0
    | 2 => signer = 1
    | _ => false
  | 5 => signer = 0
  | _ => true

/-- Transitions of the life-cycle state, from the state burned (R410). -/
def lcStep (from_ target : Nat) : Bool :=
  match from_, target with
  | 0, 1 | 1, 2 | 1, 3 | 2, 3 => true
  | _, _ => false

/-- The signature check (R403, R404). VENDOR_REVOKE asks for a vendor slot other than the one it revokes. -/
def State.signedBy (s : State) (op arg signer : Nat) (m sig : List Byte) : Bool :=
  if signer = 1 then
    match s.ownerKey with
    | some k => sm2Verify k m sig
    | none => false
  else s.vendorSlots.any (fun i => (op ≠ 5 || i ≠ arg) && sm2Verify (Config.vendorKey i) m sig)

/-- The checks of R408 in order: the code of the first that fails, 0 where all pass. -/
def State.checkCmd (s : State) (c : List Byte) : Nat :=
  let op := imgNum c 4 1
  let arg := imgNum c 5 1
  let signer := imgNum c 8 1 % 2
  let argOk := match op with | 1 => arg ≤ 2 | 2 => arg ≤ 3 | 5 => arg ≤ 3 | _ => true
  let reserved := imgNum c 8 4 / 2 = 0 && imgNum c 12 4 = 0 && imgNum c 80 16 = 0
  if imgNum c 0 4 ≠ 0x53434D44 || op = 0 || 5 < op || !argOk || !reserved then 1
  else if imgBytes c 16 32 ≠ s.identity then 2
  else if imgBytes c 48 32 ≠ s.regBytes Reg.SC_NONCE 8 then 3
  else if !s.signedBy op arg signer (c.take 192) (imgBytes c 192 64) then 4
  else if !s.signerOk op arg signer then 5
  else if (op = 2 && !lcStep s.otp.lc arg) || (op = 4 && decide (imgNum c 96 2 < s.otp.svn)) || (op = 5 && s.otp.revoked.contains arg) then 6
  else if (op = 3 && decide (4 ≤ s.otp.owners.length)) || (op = 4 && decide (s.otp.svn < imgNum c 96 2) && decide (64 ≤ s.otp.svnSteps)) then 7
  else 0

/-- DS fused. -/
def State.fuseDs (s : State) (d : List Byte) : State := { s with otp := { s.otp with ds := d } }

/-- The life-cycle fuses burned, and what SC_LC shows of them. -/
def State.burnLc (s : State) (target : Nat) : State := State.setFld { s with otp := { s.otp with lc := target } } Reg.SC_LC 2 3 (target + 4)

/-- DS fused from the random source. -/
def State.freshDs (s : State) : State := (s.drawBytes 32).2.fuseDs (s.drawBytes 32).1

/-- DS overwritten with ones while every slot stops; the keys derived from it go. -/
def State.retireDs (s : State) : State :=
  let s := (s.fuseDs (List.replicate 32 0xFF#8)).keysGone
  if s.fw.shift = 3 then { s with fw := { s.fw with haltDue := true } } else s.stopAll false

/-- A life-cycle change (R411): the fuses burn at once; DS is fused, or overwritten with ones while every slot stops. -/
def State.advanceLc (s : State) (target : Nat) : State :=
  let s := s.burnLc target
  let s := if target = 1 then s.freshDs else s
  let s := if target = 3 then s.retireDs else s
  s.raise .LC_CHANGE .info srcSecurity [target]

/-- An owner key fused. -/
def State.fuseOwner (s : State) (k : List Byte) : State :=
  State.setBit { s with otp := { s.otp with owners := s.otp.owners ++ [k] } } Reg.SC_LC (9 + s.otp.owners.length) true

/-- The minimum security version burned; a step is used only where it rises. -/
def State.burnSvn (s : State) (v : Nat) : State :=
  State.setFld { s with otp := { s.otp with svn := v, svnSteps := s.otp.svnSteps + b2n (s.otp.svn < v) } } Reg.SC_LC 13 16 v

/-- A vendor slot revoked. -/
def State.revokeSlot (s : State) (i : Nat) : State :=
  State.setBit { s with otp := { s.otp with revoked := s.otp.revoked ++ [i] } } Reg.SC_LC (5 + i) true

/-- What a command that passed its checks does. -/
def State.runCmd (s : State) (c : List Byte) : State :=
  let arg := imgNum c 5 1
  match imgNum c 4 1 with
  | 1 => s.enterLevel arg (imgNum c 8 1 % 2) (imgNum c 6 2) (sm3 c)
  | 2 => s.advanceLc arg
  | 3 => s.fuseOwner (imgBytes c 96 64)
  | 4 => s.burnSvn (imgNum c 96 2)
  | _ => s.revokeSlot arg

/-- CMD_GO: the command in SC_CMD is checked and run; every outcome sets CMD_DONE and replaces the nonce. While firmware serves nothing but
retrieval and staging (R395) the command stays busy. -/
def State.cmdGo (s : State) : State :=
  if !s.secUp || s.bit Reg.SC_STATUS 0 then s
  else if s.fw.crippled then s.setBit Reg.SC_STATUS 0 true else
  let c := s.regBytes Reg.SC_CMD 64
  let code := s.checkCmd c
  let s := if code = 0 then s.runCmd c else s.raise .SC_CMD_FAIL .info srcSecurity [code]
  ((s.setFld Reg.SC_STATUS 8 4 code).setBit Reg.SC_STATUS 2 true).newNonce

/-- A command written into SC_CMD, then CMD_GO. -/
def State.signedCmd (s : State) (c : List Byte) : State :=
  if !s.secUp then s else (s.setRegBytes Reg.SC_CMD 64 ((c ++ List.replicate 256 0#8).take 256)).cmdGo
/-- The OP of a command. -/
def cmdOp (c : List Byte) : Nat := imgNum c 4 1

/-- DEBUG, LC_ADVANCE, OWNER_KEY, SVN_MIN, VENDOR_REVOKE, and an unassigned OP. -/
def State.cmdDebug (s : State) (c : List Byte) : State := if cmdOp c = 1 then s.signedCmd c else s
def State.cmdLc (s : State) (c : List Byte) : State := if cmdOp c = 2 then s.signedCmd c else s
def State.cmdOwner (s : State) (c : List Byte) : State := if cmdOp c = 3 then s.signedCmd c else s
def State.cmdSvn (s : State) (c : List Byte) : State := if cmdOp c = 4 then s.signedCmd c else s
def State.cmdRevoke (s : State) (c : List Byte) : State := if cmdOp c = 5 then s.signedCmd c else s
def State.cmdBadOp (s : State) (c : List Byte) : State := if cmdOp c = 0 || 5 < cmdOp c then s.signedCmd c else s

def execDebug (cmd : List Byte) (s : State) : Host.Outcome State Fault Refusal := .next (s.cmdDebug cmd)
def execLcAdvance (cmd : List Byte) (s : State) : Host.Outcome State Fault Refusal := .next (s.cmdLc cmd)
def execOwnerKey (cmd : List Byte) (s : State) : Host.Outcome State Fault Refusal := .next (s.cmdOwner cmd)
def execSvnMin (cmd : List Byte) (s : State) : Host.Outcome State Fault Refusal := .next (s.cmdSvn cmd)
def execVendorRevoke (cmd : List Byte) (s : State) : Host.Outcome State Fault Refusal := .next (s.cmdRevoke cmd)
def execSignedCommandBadOp (cmd : List Byte) (s : State) : Host.Outcome State Fault Refusal := .next (s.cmdBadOp cmd)

/-- NONCE_NEW (R409). -/
def State.nonceNew (s : State) : State := if s.secUp then s.newNonce else s
def execNonceNew (s : State) : Host.Outcome State Fault Refusal := .next s.nonceNew

/-! ### Quotes (R414, R415) -/

/-- Everything of a quote before its signature. -/
def State.quoteBytes (s : State) (mask : Nat) : List Byte :=
  let regs := (List.range 16).filter (bitOf mask)
  let len := 224 + 32 * regs.length
  let lc := s.rd Reg.SC_LC
  let w2 := s.lifeCycle + s.debugLevel * 4 + s.fld Reg.PW_STATE 8 3 * 16 + b2n (bitOf lc.toNat 4) * 128 + bitsOf lc.toNat 2 2 * 256
  [0x51554F54, 1 + 2 ^ 16 * len, w2, mask, s.fld Reg.SC_LC 13 16, (s.rd Reg.HF_FW_RUN).toNat, (s.rd Reg.HF_FW_STAGED).toNat, s.debugEpoch,
    (s.rd Reg.EV_LAST_LO).toNat, (s.rd Reg.EV_LAST_HI).toNat, s.otp.invasive].flatMap (toBytes 4) ++ List.replicate 20 0#8 ++
  s.regBytes Reg.SC_NONCE 8 ++ s.identity ++ s.regBytes Reg.SC_PWR_HIST 8 ++ regs.flatMap (fun n => s.regBytes (Reg.SC_MEAS n) 8)

/-- A signature by the identity key with a random number drawn now; where SM2 draws again, what it draws is a free value. -/
def State.signIdentity (s : State) (m : List Byte) : State × List Byte :=
  let r := s.drawBytes 32
  match sm2Sign (s.sec.idKey.getD 0) (1 + ofBytesBE r.1 % (sm2N - 1)) m with
  | some sig => (r.2, sig)
  | none => let t := r.2.drawBytes 64; (t.2, t.1)

/-- QUOTE_GO with a QUOTE_MASK: snapshot and signature are one step. -/
def State.quoteGo (s : State) (v : Word) : State :=
  let s := s.setFld Reg.SC_CTL 16 16 (bitsOf v.toNat 16 16)
  if !bitOf v.toNat 2 || !s.secUp || s.bit Reg.SC_STATUS 1 then s
  else if s.fw.crippled then s.setBit Reg.SC_STATUS 1 true else
  let m := s.quoteBytes (s.fld Reg.SC_CTL 16 16)
  let r := s.signIdentity m
  let l := m ++ r.2
  (r.1.setRegBytes Reg.SC_QUOTE 184 (l ++ List.replicate (736 - l.length) 0#8)).setBit Reg.SC_STATUS 3 true
def execQuoteGo (v : Word) (s : State) : Host.Outcome State Fault Refusal := .next (s.quoteGo v)

/-! ### Measurements and levels written from outside -/

/-- EXTEND: a write of EXT_INDEX extends by EXT_VALUE, or is refused (R413). -/
def State.extendWrite (s : State) (v : Word) : State :=
  let n := bitsOf v.toNat 0 4
  if !s.secUp then s
  else if n < 12 then s.setBit Reg.SC_STATUS 4 true
  else s.extendMeas n (s.regBytes Reg.SC_EXT_VALUE 8)
def execExtend (v : Word) (s : State) : Host.Outcome State Fault Refusal := .next (s.extendWrite v)

/-- DEBUG_LEVEL_WRITE: a lower level is taken, a higher one only in BLANK. -/
def State.levelWrite (s : State) (v : Word) : State :=
  let n := bitsOf v.toNat 0 2
  if !s.secUp || n = 3 || n = s.debugLevel then s else
  let r := s.drawBytes 32
  if n < s.debugLevel then
    if n = 0 then s.levelOff
    else (r.2.setFld Reg.SC_DEBUG 0 2 n).noteLevel n (s.fld Reg.SC_DEBUG 2 1) r.1
  else if s.lifeCycle = 0 then r.2.enterLevel n 0 0 r.1
  else s
def execDebugLevelWrite (v : Word) (s : State) : Host.Outcome State Fault Refusal := .next (s.levelWrite v)

/-- DEBUG_DURATION_EXPIRE. -/
def State.durationEnd (s : State) : State :=
  match s.sec.levelUntil with
  | some t => if t ≤ s.usecN.toNat then s.levelOff else s
  | none => s
def execDebugDurationExpire (s : State) : Host.Outcome State Fault Refusal := .next s.durationEnd

end Sys2Proof.Machine
end

