-- ==== Sys2Proof/Machine/Bringup.lean ====
section
/-! DEFINITION. Losses of power and resets (R427, R431, R441, R453), straps (R432, R433), and bring-up from S0 to S5 (R434 to R439, R389, R390). -/

namespace Sys2Proof.Machine

/-! ### What a reset leaves -/

/-- Registers of the always-on domain: the power history and the wake block (R426). -/
def alwaysOn (a : Nat) : Bool :=
  (Reg.SC_PWR_HIST 0 ≤ a && a ≤ Reg.SC_PWR_HIST 7) || (Reg.MM_WAKE_CTL ≤ a && a ≤ Reg.MM_WAKE_IGNORED)

/-- The module with its headframes in reset: fuses, log flash, service hours, the TAP and the pins' levels stay; `keep` names the registers
that stay beside them. Programs waiting at log flash are lost. -/
def State.afterReset (s : State) (keep : Nat → Bool) (p : PowerSt) : State :=
  { State.reset with
    pending := s.pending, free := s.free, tick := s.tick, out := s.out, otp := s.otp, tap := s.tap
    flash := { s.flash with jobs := [], erasing := none, suspended := false }
    cores := s.cores.mapAll {} (fun c => { hours := c.hours })
    pkgExcluded := s.pkgExcluded
    regs := s.regs.filter (fun e => keep e.1)
    power := p }

/-- The power profile run, and its limits (R1, R14, PW_TARGET). -/
def State.profileL (s : State) : Bool := s.bit Reg.HF_STRAP 10
def State.rateFloor (s : State) : Nat := if s.profileL then 900 else 600
def State.rateMax (s : State) : Nat := if s.profileL then 1150 else 700
def State.railMax (s : State) : Nat := if s.profileL then 850 else 660
/-- The profile's starting setting (R437), which the manual does not give: a free value within the range of R14. -/
def State.railStart (s : State) : Nat := 500 + Config.startRail (b2n s.profileL) % ((s.railMax - 500) / 5 + 1) * 5

/-- What the straps set: PW_TARGET by the profile, CAP_W by the ordering code, NODE_ID by the slot (R361, R432). -/
def State.strapped (s : State) : State :=
  let s := s.setFld Reg.PW_TARGET 0 16 (if s.profileL then 1000 else 700)
  let s := s.setFld Reg.PW_POWER 16 16 (if s.otp.profileCode = 1 then 950 else 520)
  s.setFld Reg.MM_PLCA 0 8 (s.fld Reg.HF_STRAP 0 6 + 1)

/-- DEBUG_EPOCH put back: the always-on domain keeps it. -/
def State.keepEpoch (s : State) (n : Nat) : State := s.setFld Reg.SC_DEBUG 19 13 n

/-- The module at S0 with the always-on rail good: straps not yet latched. -/
def State.atS0 (s : State) : State :=
  (s.afterReset alwaysOn { s.power with
    mains := true, strapped := false, rails := false, s1 := false, cold := false, tripped := false, cooling := false, standby := 0
    wokeEarly := false, perstSeen := false, vinBad := false, clampAt := none, railAt := [], badWindows := [], lent := [] }).keepEpoch s.debugEpoch

/-- The input gone: OTP and log flash alone keep their contents (R427). -/
def State.powerOff (s : State) : State :=
  s.afterReset (fun _ => false) { mains := false, strapped := false, rails := false, perst := s.power.perst }

/-- A cause of loss put into the boot record. A page program in progress completes first (R431, R441). -/
def State.lastWrite (s : State) (cause : Nat) : State :=
  let s := s.flashDone
  { s with flash := { s.flash with lastOff := cause } }

/-- Whether the headframes run or wait to run, so that a loss has a cause of its own to record. -/
def State.running (s : State) : Bool := s.power.mains && s.power.standby ≠ 7 && !s.power.tripped

/-! ### Losses of power -/

/-- POWER_FAIL, OVERVOLTAGE_SHUTDOWN and BREAKER_TRIP: every rail goes, with the cause in the boot record. -/
def State.lose (s : State) (cause : Nat) : State := if s.running then (s.lastWrite cause).powerOff else if s.power.mains then s.powerOff else s
def State.powerFail (s : State) : State := s.lose 1
def State.overvoltage (s : State) : State := s.lose 2
def State.breaker (s : State) : State := s.lose 3
/-- POWER_REMOVED reaches OFF from any state; a module that ran sees the input fall. -/
def State.powerRemoved (s : State) : State := s.lose 1

def execPowerFail (s : State) : Host.Outcome State Fault Refusal := .next s.powerFail
def execOvervoltageShutdown (s : State) : Host.Outcome State Fault Refusal := .next s.overvoltage
def execBreakerTrip (s : State) : Host.Outcome State Fault Refusal := .next s.breaker
def execPowerRemoved (s : State) : Host.Outcome State Fault Refusal := .next s.powerRemoved

/-- THERM_TRIP: every rail but the always-on domain goes. -/
def State.thermTrip (s : State) : State :=
  if !s.running then s else
  let s := s.lastWrite 4
  let n := s.debugEpoch
  (s.afterReset alwaysOn { mains := true, strapped := false, rails := false, perst := s.power.perst, tripped := true }).keepEpoch n
def execThermTrip (s : State) : Host.Outcome State Fault Refusal := .next s.thermTrip

/-- PERST_ASSERT (R441): job slots, banks and EXT are lost; the straps stay latched, and the headframes stay in reset. In STANDBY it is the
start of the reset path (R442), and after a trip that of a restart (R453). -/
def State.perstAssert (s : State) : State :=
  if s.power.standby ≠ 0 || s.power.tripped then { s with power := { s.power with perst := true, perstSeen := true } }
  else if !s.power.mains || !s.power.s1 then { s with power := { s.power with perst := true, cold := false } }
  else
    let s := s.lastWrite 5
    let n := s.debugEpoch
    ((s.afterReset (fun a => alwaysOn a || a = Reg.HF_STRAP) { mains := true, strapped := true, rails := true, perst := true }).strapped).keepEpoch n
def execPerstAssert (s : State) : Host.Outcome State Fault Refusal := .next s.perstAssert

/-! ### S0: input, straps, rails -/

/-- POWER_ON: the input rises through 38.0 V. `hot` says that a headframe sensor reads 90 °C or above, for a restart after a trip (R453). A
module that was in STANDBY comes back by the power path (R442). -/
def State.powerOn (s : State) (hot : Bool) : State :=
  if s.power.mains then s else
  let s : State := { s with power := { s.power with mains := true, cooling := hot && s.flash.lastOff = 4 } }
  if s.flash.lastOff = 6 then (s.count (Reg.SC_PWR_HIST 0) 0 32 1).setFld Reg.PW_STATE 20 3 6 else s
def execPowerOn (hot : Bool) (s : State) : Host.Outcome State Fault Refusal := .next (s.powerOn hot)

/-- STRAP_SAMPLE: the straps are latched. Profile L runs only when strap and code both say L (R432). -/
def State.strapSample (s : State) (slot src profile : Nat) : State :=
  let p := s.power
  if !p.mains || p.strapped || p.tripped || p.cooling || p.standby ≠ 0 then s else
  let code := s.otp.profileCode % 2
  let pr := profile % 2
  let s := s.wr Reg.HF_STRAP (BitVec.ofNat 32 (slot % 64 + src % 4 * 64 + pr * 256 + code * 512 + pr * code * 1024 + 2048 * ((pr + code) % 2)))
  State.strapped { s with power := { s.power with strapped := true } }
def execStrapSample (slot src profile : Nat) (s : State) : Host.Outcome State Fault Refusal := .next (s.strapSample slot src profile)

/-! ### S1 (R434 order 6, R402, R405, R413, R461) -/

/-- A stage entered: PC_BOOT, the north counter at the entry, and BRINGUP_STAGE. -/
def State.enterStage (s : State) (n : Nat) : State :=
  ((s.setFld Reg.PC_BOOT 0 3 n).wr (Reg.HF_BRINGUP_USEC n) (BitVec.ofNat 32 s.usecN.toNat)).raise .BRINGUP_STAGE .info srcPower [n]

/-- The identity key pair: generated at the first power-up in BLANK, then read from OTP. -/
def State.loadIdentity (s : State) : State :=
  let s := if s.otp.priv ≠ 0 then s else
    let r := s.drawBytes 32
    { r.2 with otp := { r.2.otp with priv := 1 + ofBytesBE r.1 % (sm2N - 2) } }
  let pub := sm2Public s.otp.priv
  let s := (s.setRegBytes Reg.SC_IDPUB 16 pub).setRegBytes Reg.SC_ID_DIGEST 8 (sm3 pub)
  { s with sec := { s.sec with idKey := some s.otp.priv } }

/-- SC_LC as OTP holds it; a pending change takes effect (R411). -/
def State.loadLc (s : State) : State :=
  s.wr Reg.SC_LC (BitVec.ofNat 32 (s.otp.lc + (s.otp.revoked.map (fun i => 2 ^ (5 + i % 4))).sum + (2 ^ min 4 s.otp.owners.length - 1) * 2 ^ 9 + 2 ^ 13 * s.otp.svn))

/-- The boot ROM at S1: the counters start at zero, the event ring is clear, OTP is read, keys and nonce are new, MEAS_0 and MEAS_4 are extended. -/
def State.enterS1 (s : State) : State :=
  let s : State := { s with usecN := 0#64, usecS := 0#64, power := { s.power with s1 := true, cold := false } }
  let s := ((s.enterStage 0).enterStage 1).loadLc
  let s := (s.loadIdentity.deriveSr).newNonce
  let s := s.extendMeas 0 (Config.romDigest ++ [BitVec.ofNat 8 s.lifeCycle] ++ Config.otpDigest)
  s.extendMeas 4 ([s.fld Reg.HF_STRAP 8 1, s.fld Reg.HF_STRAP 6 2, s.fld Reg.HF_STRAP 0 6].map (BitVec.ofNat 8))

/-- S1 begins once the rails are up, PERST_N is released and no headframe sensor is below −5 °C (R435). -/
def State.tryS1 (s : State) (cold : Bool) : State :=
  let p := s.power
  if !p.rails || p.perst || p.s1 then s
  else if cold then { s with power := { p with cold := true } }
  else s.enterS1

/-- HEADFRAME_RAILS_UP, with whether a headframe sensor reads below −5 °C. -/
def State.railsUp (s : State) (cold : Bool) : State :=
  if !s.power.strapped || s.power.rails then s else State.tryS1 { s with power := { s.power with rails := true } } cold
def execHeadframeRailsUp (cold : Bool) (s : State) : Host.Outcome State Fault Refusal := .next (s.railsUp cold)

/-- COLD_START_WAIT_END. -/
def State.coldEnd (s : State) : State := if s.power.cold then State.tryS1 { s with power := { s.power with cold := false } } false else s
def execColdStartWaitEnd (s : State) : Host.Outcome State Fault Refusal := .next s.coldEnd

/-- PERST_RELEASE, with whether a headframe sensor reads below −5 °C, and whether one reads 90 °C or above. After a trip it asks for the
restart (R453); in STANDBY it completes the reset path (R442). -/
def State.perstRelease (s : State) (cold hot : Bool) : State :=
  if !s.power.perst then s else
  let asked := s.power.perstSeen
  -- EXTEST and INTEST act as BYPASS from now on (R420)
  let s : State := { s with
    power := { s.power with perst := false }
    tap := if s.tap.ir = 0 || s.tap.ir = 3 then { s.tap with ir := 0xFF } else s.tap }
  if s.power.standby ≠ 0 then s
  else if s.power.tripped then
    if !asked then s else if hot then { s with power := { s.power with cooling := true } } else s.atS0
  else s.tryS1 cold
def execPerstRelease (cold hot : Bool) (s : State) : Host.Outcome State Fault Refusal := .next (s.perstRelease cold hot)

/-- TRIP_COOLDOWN_END: every headframe sensor reads below 90 °C, and the restart goes on from S0. -/
def State.cooldownEnd (s : State) : State :=
  if !s.power.cooling then s
  else if s.power.tripped then s.atS0
  else { s with power := { s.power with cooling := false } }
def execTripCooldownEnd (s : State) : Host.Outcome State Fault Refusal := .next s.cooldownEnd

/-! ### S2: the image (R388 to R390, R434 order 7) -/

/-- The event that reports how the last boot ended (R431, R453): it comes before those of S0, and its USEC is 0. -/
def State.carried (s : State) : State :=
  let ev := fun (code : Code) (d : List Nat) =>
    let q := s.evq
    let t := State.raise { s with evq := [], usecN := 0#64 } code .moduleFatal srcPower d
    { t with evq := t.evq ++ q, usecN := s.usecN }
  match s.flash.lastOff with
  | 1 => ev .POWER_FAIL [1]
  | 2 => ev .POWER_FAIL [2]
  | 3 => ev .POWER_FAIL [3]
  | 4 => ev .THERM_TRIP []
  | _ => s

/-- A verified image starts: MEAS_1 to MEAS_3, the supervisor, and what S2 reports. `from_`: 0 network, 1 GOOD, 2 STAGED. -/
def State.startImage (s : State) (l : List Byte) (from_ : Nat) : State :=
  let vendor := (s.vendorOf (imgHead l) (imgBytes l (imgLen l - 128) 64)).getD 0
  let s := s.extendMeas 1 (sm3 (imgHead l))
  let s := (imgComps l).foldl (fun s c => s.extendMeas 2 c.hash) s
  let s := s.extendMeas 3 (BitVec.ofNat 8 vendor :: (match s.ownerKey with | some k => sm3 k | none => List.replicate 32 0#8))
  let s : State := { s with fw := { s.fw with bankA := some l, fromStaged := from_ = 2, boot := {} } }
  let s := ((s.setFld Reg.HF_FW_STATE 5 2 from_).setBit Reg.HF_FW_STATE 0 false).wr Reg.HF_FW_RUN (BitVec.ofNat 32 (imgVersion l))
  let s := (s.setBit Reg.HF_FW_CTL 2 s.flash.activateOnBoot).carried
  let s := s.setFld Reg.PW_LAST_OFF 0 3 s.flash.lastOff
  let s := s.enterStage 2
  if s.bit Reg.HF_STRAP 11 then s.setStatus Reg.PW_ALERT 4 .PROFILE_MISMATCH .info srcPower [] else s

/-- A boot from log flash: the STAGED slot where ACTIVATE_ON_BOOT asks for it and TRIES is below 2, otherwise GOOD. -/
def State.bootFlash (s : State) : State × Bool :=
  match (if s.flash.activateOnBoot && decide (s.flash.tries < 2) then s.flash.staged else none) with
  | some l =>
    let s : State := { s with flash := { s.flash with tries := s.flash.tries + 1 } }
    let c := s.verifyImage l
    if c = 0 then (s.startImage l 2, true) else (s.setFld Reg.HF_FW_STATE 7 4 c, false)
  | none =>
    match s.flash.good with
    | none => (s, false)
    | some l =>
      let c := s.verifyImage l
      if c = 0 then (s.startImage l 1, true) else (s.setFld Reg.HF_FW_STATE 7 4 c, false)

/-- The DHCP broadcast of a network boot. What RFC 2131 puts into it is a free value. -/
def State.sendDhcp (s : State) : State :=
  let r := s.drawBytes 300
  { r.2 with mm := { r.2.mm with tx := r.2.mm.tx ++ [⟨0xFFFFFFFFFFFF, r.1⟩] } }

/-- The next source of BOOT_SRC tried; with none left the module stays at S1. -/
def State.nextSource (s : State) : Nat → State
  | 0 => s
  | n + 1 =>
    match s.fw.boot.sources with
    | [] => { s with fw := { s.fw with boot := { s.fw.boot with loading := false, held := true } } }
    | src :: rest =>
      let s : State := { s with fw := { s.fw with boot := { sources := rest, loading := src = 0 } } }
      if src = 0 then s.sendDhcp
      else
        let r := s.bootFlash
        if r.2 then r.1 else r.1.nextSource n

/-- S2_ENTRY: the boot ROM begins to load an image from the sources of BOOT_SRC (R390). -/
def State.s2Entry (s : State) : State :=
  if !s.power.s1 || s.fld Reg.PC_BOOT 0 3 ≠ 1 || s.fw.boot.loading then s else
  let l := match s.fld Reg.HF_STRAP 6 2 with | 0 => [0] | 1 => [0, 1] | 2 => [1, 0] | _ => [1]
  State.nextSource { s with fw := { s.fw with boot := { sources := l } } } 3
def execS2Entry (s : State) : Host.Outcome State Fault Refusal := .next s.s2Entry

/-- DHCP_RETRY: an interval of 1, 2, 4 or 8 s ends with no answer, or the 15 s limit after them (R389). -/
def State.dhcpRetry (s : State) : State :=
  let b := s.fw.boot
  if !b.loading || b.answered then s
  else if 4 ≤ b.dhcp then s.nextSource 3
  else State.sendDhcp { s with fw := { s.fw with boot := { b with dhcp := b.dhcp + 1 } } }
def execDhcpRetry (s : State) : Host.Outcome State Fault Refusal := .next s.dhcpRetry

/-- The acknowledgment of a TFTP block (RFC 1350). -/
def State.tftpAck (s : State) (server n : Nat) : State :=
  { s with mm := { s.mm with tx := s.mm.tx ++ [⟨server, [0#8, 4#8, BitVec.ofNat 8 (n / 256), BitVec.ofNat 8 n]⟩] } }

/-- TFTP_BLOCK: a data block arrives from a server, whose options gave tsize and blksize. The last block is a short one; then the image is
verified and started, or the next source is tried. -/
def State.tftpBlock (s : State) (server block : Nat) (data : List Byte) (tsize blksize : Nat) : State :=
  let b := s.fw.boot
  if !b.loading || block ≠ b.block % 65536 then s else
  let size := if b.answered then b.blksize else blksize
  if 0x200000 < tsize || size < 512 || 1468 < size || 0x200000 < b.image.length + data.length then s.nextSource 3 else
  let l := b.image ++ data.take size
  let s := s.tftpAck server (b.block % 65536)
  let s : State := { s with fw := { s.fw with boot := { b with answered := true, blksize := size, block := b.block + 1, retries := 0, image := l } } }
  if size ≤ data.length then s else
  let c := s.verifyImage l
  if c = 0 then s.startImage l 0 else (s.setFld Reg.HF_FW_STATE 7 4 c).nextSource 3
def execTftpBlock (server block : Nat) (data : List Byte) (tsize blksize : Nat) (s : State) : Host.Outcome State Fault Refusal :=
  .next (s.tftpBlock server block data tsize blksize)

/-- TFTP_BLOCK_TIMEOUT: a block is asked for again, at most five times. -/
def State.tftpTimeout (s : State) (server : Nat) : State :=
  let b := s.fw.boot
  if !b.loading || !b.answered then s
  else if 5 ≤ b.retries then s.nextSource 3
  else State.tftpAck { s with fw := { s.fw with boot := { b with retries := b.retries + 1 } } } server ((b.block - 1) % 65536)
def execTftpBlockTimeout (server : Nat) (s : State) : Host.Outcome State Fault Refusal := .next (s.tftpTimeout server)

/-! ### S3 to S5 (R437 to R439) -/

/-- The bytes of a map copy that MEAS_7 digests. -/
def MapCopy.bytes (c : MapCopy) : List Byte := (c.banks ++ c.cores).flatMap (fun e => toBytes 4 e.1 ++ toBytes 4 e.2.toNat)

/-- S3 begins: repair maps and fence states from log flash, and MEAS_7 (R232, R412, R443). -/
def State.enterS3 (s : State) : State :=
  let c := s.mapsKept
  let s := s.enterStage 3
  let s := c.banks.foldl (fun s e => s.wr (Reg.BK_REPAIR e.1) e.2) s
  let s := c.cores.foldl (fun s e => s.wr (Reg.MT_CORES_FENCED e.1) e.2) s
  s.extendMeas 7 (sm3 c.bytes)

/-- The march test of a bank at repair: its result, with failing lines mapped to spares (R227, R230, R231). -/
def State.marchAtRepair (s : State) (b : Nat) (fails : List Nat) : State :=
  let l := (fails.filter (· < 1538)).eraseDups.mergeSort (· ≤ ·)
  let s := l.foldl (fun s line => s.repairLine b line) s
  let s := (s.refill b 0).wr (Reg.BK_MARCH_RESULT b) (BitVec.ofNat 32 (2 ^ 22 + min 2047 l.length + l.headD 0 * 2 ^ 11))
  if l = [] then s else s.setBit (Reg.BK_STATUS b) 7 true

/-- The self-test of the cores of a motif: those that pass are in service again, those that fail are fenced (R437 step 4, R465). -/
def State.testCores (s : State) (m : Nat) (fails : List Nat) : State :=
  let s := if s.rd (Reg.MT_CORES_FENCED m) = 0#32 then s else s.wr (Reg.MT_CORES_FENCED m) 0#32
  fails.foldl (fun s c => s.fenceCore m c 3) s

/-- What a panel's repair finds: whether its rail reaches the profile floor, its bridges train, its panel node passes, its module joins
pass, and its die-to-die link trains; and the failing lines of banks, quadrants of arrays, cores of motifs, and ground nodes. -/
structure RepairFound where
  rail : Bool
  bridges : Bool
  node : Bool
  joins : Bool
  dieLink : Bool
  lines : List (Nat × List Nat)
  quads : List (Nat × Nat)
  cores : List (Nat × List Nat)
  grounds : List Nat

/-- One panel repaired. -/
def State.repairPanel (s : State) (p : Nat) (f : RepairFound) : State :=
  let s := s.setFld (Reg.PW_PANEL p) 16 10 s.railStart
  let s := (List.range 10240).foldl (fun s i =>
    let b := 10240 * p + i
    s.marchAtRepair b (((f.lines.find? (fun e => e.1 = b)).map (·.2)).getD [])) s
  let s := (f.quads.filter (fun e => panelOf e.1 = p && e.1 < 10240)).foldl (fun s e => s.fenceQuads e.1 (e.2 % 16)) s
  let s := (List.range 2560).foldl (fun s i =>
    let m := 2560 * p + i
    s.testCores m ((((f.cores.find? (fun e => e.1 = m)).map (·.2)).getD []).filter (· < 32)).eraseDups) s
  let s := (List.range 40).foldl (fun s g => s.setBit (Reg.GD_PLAIT_STATE (40 * p + g)) 0 (f.grounds.contains (40 * p + g))) s
  let s := (s.setBit (Reg.PN_PLAIT_STATE p) 0 (!f.node)).setBit (Reg.PN_PLAIT_STATE p) 1 (p % 2 = 0 && !f.joins)
  if f.rail && f.bridges && f.node && (f.joins || p % 2 = 1) && (f.dieLink || p % 2 = 1) then
    let s := s.setBit Reg.HF_BRINGUP p true
    if p = 0 then s.setBit Reg.PC_BOOT 3 true else s
  else (s.setBit Reg.HF_BRINGUP (4 + p) true).raise .PANEL_REPAIR_FAIL .fenced (srcPanel p) [p]

/-- PANEL_REPAIR: panels 0 to 3 in turn. S3 begins with panel 0, and S4 after panel 3. -/
def State.panelRepair (s : State) (p : Nat) (f : RepairFound) : State :=
  let done := fun i => s.bit Reg.HF_BRINGUP i || s.bit Reg.HF_BRINGUP (4 + i)
  if 4 ≤ p || s.fld Reg.PC_BOOT 0 3 ≠ (if p = 0 then 2 else 3) || done p || !(List.range p).all done then s else
  let s := if p = 0 then s.enterS3 else s
  let s := s.repairPanel p f
  if p = 3 then ((s.enterStage 4).trainNext 0).trainNext 1 else s
def execPanelRepair (panel : Nat) (rail bridges : Bool) (nodes : NodeCheck) (dieLink : Bool) (lines : List (Nat × List Nat))
    (quads : List (Nat × Nat)) (cores : List (Nat × List Nat)) (grounds : List Nat) (s : State) : Host.Outcome State Fault Refusal :=
  .next (s.panelRepair panel ⟨rail, bridges, nodes.node, nodes.joins, dieLink, lines, quads, cores, grounds⟩)

/-- PASS_CALIBRATION: arrays that differ are fenced, and S5 begins where a panel is in service (R439). -/
def State.passCal (s : State) (quads : List (Nat × Nat)) : State :=
  if s.fld Reg.PC_BOOT 0 3 ≠ 4 || !(List.range 12).all s.pkgDone then s else
  let s := (quads.filter (fun e => e.1 < 10240)).foldl (fun s e => s.fenceQuads e.1 (e.2 % 16)) s
  let s := s.setBit Reg.HF_BRINGUP 8 true
  if s.fld Reg.HF_BRINGUP 0 4 = 0 then s.raise .PANEL_REPAIR_FAIL .moduleFatal srcPower [4]
  else
    let s := (s.enterStage 5).setBit Reg.PC_BOOT 3 false
    { s with spread := (List.range 96).filter (fun c => s.fld (Reg.LD_CH_STATE c) 0 2 = 2), fw := { s.fw with s5At := some s.usecN.toNat } }
def execPassCalibration (quads : List (Nat × Nat)) (s : State) : Host.Outcome State Fault Refusal := .next (s.passCal quads)

end Sys2Proof.Machine
end

