-- ==== Sys2Proof/Machine/FrameMac.lean ====
section
/-! DEFINITION. The fabric ports (R347 to R357): receive filtering, priority flow control, the pause watchdog, links and configuration. -/

namespace Sys2Proof.Machine

/-! ### Receiving (R321, R322, R350) -/

/-- MAC address of a port, octet 0 most significant. -/
def State.portMac (s : State) (p : Nat) : Nat := 2 ^ 32 * s.fld (Reg.FM_MAC_HI p) 0 16 + (s.rd (Reg.FM_MAC_LO p)).toNat
/-- Priority of a received frame: PCP, else DSCP / 8, else 0. -/
def framePrio (f : FabFrame) : Nat :=
  match f.pcp, f.dscp with
  | some q, _ => q.val
  | none, some d => d.val / 8
  | none, none => 0
/-- Octets of a priority's share in use. -/
def State.rxFill (s : State) (p q : Nat) : Nat := (((s.port p).rx.filter (fun e => e.1 = q)).map (·.2)).sum
/-- FILL_KB shows the share. -/
def State.showFill (s : State) (p q : Nat) : State := s.setFld (Reg.FM_RXQ_B p q) 12 12 (s.rxFill p q / 1024)
def State.lossless (s : State) (p q : Nat) : Bool := s.bit (Reg.FM_CTL p) (8 + q)
def State.xoffOctets (s : State) (p q : Nat) : Nat := s.fld (Reg.FM_RXQ_A p q) 12 12 * 1024
def State.limitOctets (s : State) (p q : Nat) : Nat := s.fld (Reg.FM_RXQ_A p q) 0 12 * 1024
def State.xonOctets (s : State) (p q : Nat) : Nat := s.fld (Reg.FM_RXQ_B p q) 0 12 * 1024

/-- A packet checked by the GFT engine (R320 to R323) and queued for its headframe; in a mesh, one for another module is forwarded
with its header (R339). -/
def State.gftEngine (s : State) (port : Nat) (csumOk : Bool) (k : GftPacket) : State :=
  let hf := port / 4
  if !csumOk then s.count (Reg.HF_GFT_BAD hf) 0 16 1
  else if k.ver ≠ 1 || 8 < k.typ || classOfType k.typ ≠ k.cls then s.count (Reg.HF_GFT_BAD hf) 16 16 1
  else
    let slot := s.slotOfGroup k.group
    let outside := k.typ = tServeReq && k.group = 0xFFFF
    if s.mesh && slot.any (fun j => s.myModule j ≠ k.dst) then s.transmit hf (flowHash k) k
    else if !outside && !slot.any (fun j => s.peerValid j k.src) then s.count (Reg.HF_GFT_SRC hf) 0 16 1
    else { s with gftRx := s.gftRx.put [] hf (s.gftRx.get [] hf ++ [(port, k)]) }

/-- A frame for the firmware exception queue, at most EXC_RATE in a ms (R350). Firmware answers ARP, neighbour discovery and echo. -/
def State.exceptionFrame (s : State) (p : Nat) (asks : Bool) : State :=
  let ms := s.usec (p / 4) / 1000
  let n := if (s.port p).excMs = ms then (s.port p).excCount else 0
  if s.fld (Reg.FM_FRAME p) 16 8 ≤ n then s.count (Reg.FM_RX_EXC_DROP p) 0 32 1
  else
    let s := (s.setPort p { s.port p with excMs := ms, excCount := n + 1 }).emit (.toFirmware p)
    if asks then s.queueFrame p { prio := 0, octets := 64 } else s

/-- A PFC frame received (R352, R354): timers are loaded for each enabled priority that the frame names. -/
def State.pfcReceive (s : State) (p : Nat) (enable : Byte) (times : List Nat) : State :=
  ((List.range 8).filter (fun q => enable.getLsbD q)).foldl (fun s q =>
    let s := s.count (Reg.FM_RX_PFC p q) 0 32 1
    let time := times.getD q 0 % 2 ^ 16
    let st := s.port p
    if !s.lossless p q then s
    else if time = 0 then s.setPort p { st with paused := st.paused.put 0 q 0, txBroken := st.txBroken.erase q }
    else if st.txBroken.contains q then s
    else s.setPort p { st with paused := st.paused.put 0 q time }) s |>.kick p

/-- A lossless share that reaches XOFF_KB pauses the peer, unless a receive break holds PFC back (R353, R355). -/
def State.checkXoff (s : State) (p q : Nat) : State :=
  let st := s.port p
  if s.lossless p q && !st.xoff.contains q && !st.rxBroken.contains q && decide (s.xoffOctets p q ≤ s.rxFill p q) then
    (s.setPort p { st with xoff := st.xoff ++ [q] }).sendPfc p q (s.fld (Reg.FM_PFC p) 0 16)
  else s

/-- A frame that enters the receive buffer of its priority, or is discarded there (R353, R355). -/
def State.bufferFrame (s : State) (p q octets : Nat) : State × Bool :=
  let full := decide (s.limitOctets p q < s.rxFill p q + octets)
  if full && !s.lossless p q then (s.count (Reg.FM_RX_DROP_LOSSY p) 0 32 1, false)
  else if full && (s.port p).rxBroken.contains q then (s.count (Reg.FM_RX_DROP_WD p) 0 32 1, false)
  else (((s.setPort p { s.port p with rx := (s.port p).rx ++ [(q, octets)] }).showFill p q).checkXoff p q, true)

/-- The codewords of a received frame counted. -/
def State.fecCount (s : State) (p : Nat) (f : FabFrame) : State :=
  let s := (s.count (Reg.FM_FEC_CORR p) 0 32 f.fecCorr).count (Reg.FM_FEC_UNCORR p) 0 32 f.fecUncorr
  if f.fecUncorr = 0 then s else s.setBit (Reg.FM_STATUS p) 1 true

/-- FRAME_RECEIVE: the first matching row of R350. -/
def State.frameReceive (s : State) (p : Nat) (f : FabFrame) : State :=
  if !s.inService p then s else
  let s := s.fecCount p f
  if !f.fcsOk then s.count (Reg.FM_RX_FCS_ERR p) 0 32 1
  else if f.octets < 64 || s.fld (Reg.FM_FRAME p) 0 14 < f.octets then s.count (Reg.FM_RX_LEN_ERR p) 0 32 1
  else
    match f.body with
    | .pfc en times => s.pfcReceive p en times
    | .pause => s.count (Reg.FM_RX_GLOBAL_PAUSE p) 0 32 1
    | body =>
      if f.dst ≠ s.portMac p && f.dst ≠ 2 ^ 48 - 1 && !f.solicited then s.count (Reg.FM_RX_FILTERED p) 0 32 1
      else
        let accepted := fun (s : State) => (s.count64 (Reg.FM_RX_OCTETS_LO p) (Reg.FM_RX_OCTETS_HI p) f.octets).count64
          (Reg.FM_RX_FRAMES_LO p) (Reg.FM_RX_FRAMES_HI p) 1
        match body with
        | .gft true port csum k =>
          if port = s.fld Reg.HF_GFT_CFG 0 16 then
            let r := s.bufferFrame p (framePrio f) f.octets
            if r.2 then (accepted r.1).gftEngine p csum k else r.1
          else (accepted s).exceptionFrame p false
        | .gft false _ _ _ => (accepted s).exceptionFrame p false
        | .other asks => (accepted s).exceptionFrame p asks
        | _ => s

def execPfcFrameReceive (port : Nat) (enable : Byte) (times : List Nat) (s : State) : Host.Outcome State Fault Refusal :=
  .next (if s.inService port then s.pfcReceive port enable times else s)

/-- PFC_PAUSE_EXPIRE: a priority's pause timer has run out (R352). -/
def execPfcPauseExpire (port q : Nat) (s : State) : Host.Outcome State Fault Refusal :=
  .next (if (s.port port).paused.get 0 q = 0 then s
    else (s.setPort port { s.port port with paused := (s.port port).paused.put 0 q 0 }).kick port)

/-- PFC_REFRESH: REFRESH quanta after the last one, while the fill stays at or above XON_KB (R353). -/
def execPfcRefresh (port q : Nat) (s : State) : Host.Outcome State Fault Refusal :=
  .next (if (s.port port).xoff.contains q && !(s.port port).rxBroken.contains q && decide (s.xonOctets port q ≤ s.rxFill port q) then
      s.sendPfc port q (s.fld (Reg.FM_PFC port) 0 16)
    else s)

/-- The oldest entry of a priority taken out of a receive buffer. -/
def dropOldest (q : Nat) : List (Nat × Nat) → List (Nat × Nat)
  | [] => []
  | e :: r => if e.1 = q then r else e :: dropOldest q r

/-- RX_BUFFER_DRAIN: the oldest buffered frame of a priority has left towards the panels (R353). While every bridge of its
headframe towards the panels is full it stays, and the fill calls for flow control (R21). -/
def State.rxDrain (s : State) (p q : Nat) : State :=
  if s.hfHolds (p / 4) then s else
  let s := (s.setPort p { s.port p with rx := dropOldest q (s.port p).rx }).showFill p q
  let st := s.port p
  if st.xoff.contains q && decide (s.rxFill p q < s.xonOctets p q) then
    let s := s.setPort p { st with xoff := st.xoff.erase q }
    if st.rxBroken.contains q then s else s.sendPfc p q 0
  else s

def execRxBufferDrain (port q : Nat) (s : State) : Host.Outcome State Fault Refusal := .next (s.rxDrain port q)

/-! ### Transmitting (R329, R351) -/

/-- FRAME_TX_DONE: the frame in transmission completes; the tag of a response is freed; the next frame is chosen. -/
def State.frameTxDone (s : State) (p : Nat) : State :=
  match (s.port p).sending with
  | none => s
  | some f =>
    let s := (s.setPort p { s.port p with sending := none }).emit (.frame p f)
    let s := (s.count64 (Reg.FM_TX_OCTETS_LO p) (Reg.FM_TX_OCTETS_HI p) f.octets).count64 (Reg.FM_TX_FRAMES_LO p) (Reg.FM_TX_FRAMES_HI p) 1
    let s := match f.pfc with
      | some (q, _) => s.count (Reg.FM_TX_PFC p q) 0 32 1
      | none => s
    (s.rspGone p f).kick p

def execFrameTxDone (port : Nat) (s : State) : Host.Outcome State Fault Refusal := .next (s.frameTxDone port)

/-! ### The pause watchdog (R354 to R356) -/

/-- PAUSE_BROKEN: a break's status bit and event. -/
def State.pauseBroken (s : State) (p q : Nat) (tx : Bool) : State :=
  (s.setBit (Reg.FM_STATUS p) (if tx then 8 + q else 16 + q) true).raise .PAUSE_BROKEN .info (srcPort p)
    [p, q, b2n (!tx), s.fld (Reg.FM_WD p) 16 12]

/-- PAUSE_WD_TX_EXPIRE: a lossless priority has stayed paused with a frame waiting for WD_US. -/
def State.wdTx (s : State) (p q : Nat) : State :=
  let st := s.port p
  if s.fld (Reg.FM_WD p) 0 16 = 0 || !s.lossless p q || st.paused.get 0 q = 0 || st.head q = none || st.txBroken.contains q then s
  else
    let st := { st with txBroken := st.txBroken ++ [q] }
    let drop := st.queue.filter (fun f => s.bit (Reg.FM_WD p) 28 && f.prio = q)
    let st := { st with queue := st.queue.filter (fun f => !drop.contains f) }
    (((drop.foldl (fun s f => s.rspGone p f) s).setPort p st).pauseBroken p q true).kick p

def execPauseWdTxExpire (port q : Nat) (s : State) : Host.Outcome State Fault Refusal := .next (s.wdTx port q)

/-- PAUSE_WD_RX_EXPIRE: a lossless priority has been held in pause for WD_US. -/
def State.wdRx (s : State) (p q : Nat) : State :=
  let st := s.port p
  if s.fld (Reg.FM_WD p) 0 16 = 0 || !st.xoff.contains q || st.rxBroken.contains q then s
  else (s.setPort p { st with rxBroken := st.rxBroken ++ [q] }).pauseBroken p q false

def execPauseWdRxExpire (port q : Nat) (s : State) : Host.Outcome State Fault Refusal := .next (s.wdRx port q)

/-- PAUSE_HOLD_END: WD_HOLD_MS has passed; R352 and R353 apply again. -/
def State.holdEnd (s : State) (p q : Nat) (tx : Bool) : State :=
  let st := s.port p
  if tx then (s.setPort p { st with txBroken := st.txBroken.erase q }).kick p
  else (s.setPort p { st with rxBroken := st.rxBroken.erase q, xoff := if st.rxBroken.contains q then st.xoff.erase q else st.xoff }).checkXoff p q

def execPauseHoldEnd (port q : Nat) (tx : Bool) (s : State) : Host.Outcome State Fault Refusal := .next (s.holdEnd port q tx)

/-! ### Links and configuration (R347 to R349) -/

/-- Logical lanes of a MODE. -/
def laneCount : Nat → Nat
  | 0 => 4 | 1 => 2 | _ => 1

/-- LINK_DOWN: the port leaves service and its queued frames are discarded. -/
def State.linkDown (s : State) (p : Nat) : State :=
  if !s.inService p then s else
  let s := ((s.port p).queue ++ (s.port p).sending.toList).foldl (fun s f => s.rspGone p f) (s.setFld (Reg.FM_LINK p) 0 5 0)
  let s := s.setPort p { s.port p with urgent := [], queue := [], sending := none, paused := [], xoff := [] }
  s.setStatus (Reg.FM_STATUS p) 0 .FM_LINK_DOWN .info (srcPort p) [p]

def execLinkDown (port : Nat) (s : State) : Host.Outcome State Fault Refusal := .next (s.linkDown port)

/-- LINK_UP: an enabled port's lanes lock and align. -/
def State.linkUp (s : State) (p : Nat) : State :=
  if 8 ≤ p || s.inService p || !s.bit (Reg.FM_CTL p) 0 then s else
  (s.setFld (Reg.FM_LINK p) 0 5 (1 + 2 * (2 ^ laneCount (s.fld (Reg.FM_CTL p) 1 2) - 1))).raise .FM_LINK_UP .info (srcPort p) [p]

def execLinkUp (port : Nat) (s : State) : Host.Outcome State Fault Refusal := .next (s.linkUp port)

/-- Whether the module is in early service: before S5 (R438). -/
def State.early (s : State) : Bool := s.fld Reg.PC_BOOT 0 3 ≠ 5

/-- Sum of a port's LIMIT_KB fields. -/
def State.limitSum (s : State) (p : Nat) : Nat := ((List.range 8).map (fun q => s.fld (Reg.FM_RXQ_A p q) 0 12)).sum

/-- A write of FM_CTL (R348, R349). While EN is 1 only a write that clears EN acts, and it changes nothing else (DEDUCED, log entry 37).
LOOPBACK 3 is ignored. -/
def State.fmCtl (s : State) (p : Nat) (v : Word) : State :=
  let a := Reg.FM_CTL p
  let n := v.toNat
  if s.bit a 0 then
    let refused := bitOf n 0 || ((s.rd a).toNat ^^^ n) % 2 ^ 16 / 2 ≠ 0
    let s := if refused then s.setBit (Reg.FM_STATUS p) 2 true else s
    if bitOf n 0 then s else (s.linkDown p).setBit a 0 false
  else
    let lo := if bitsOf n 4 2 = 3 then s.fld a 4 2 else bitsOf n 4 2
    let s := s.wr a (BitVec.ofNat 32 (bitsOf n 1 3 * 2 + lo * 2 ^ 4 + bitsOf n 8 8 * 2 ^ 8))
    if !bitOf n 0 || (s.early && p % 4 ≠ 0) then s
    else if 4096 < s.limitSum p then s.setBit (Reg.FM_STATUS p) 2 true
    else s.setBit a 0 true

/-- FM_CTL_WRITE: a write at an offset of a port's block: FM_CTL, FM_LANE or an FM_RXQ word. -/
def State.fmWrite (s : State) (p off : Nat) (v : Word) : State :=
  if 8 ≤ p then s
  else if off = 0 then s.fmCtl p v
  else if off = 4 || (0x40 ≤ off && off < 0x80 && off % 4 = 0) then
    let a := Reg.FM_CTL p + off
    if s.bit (Reg.FM_CTL p) 0 then s.setBit (Reg.FM_STATUS p) 2 true
    else if off = 4 then s.wr a (v &&& 0xFFFF#32)
    else if off % 8 = 0 then s.wr a (v &&& 0xFFFFFF#32)
    else s.wr a ((s.rd a &&& 0xFFF000#32) ||| (v &&& 0xFFF#32))
  else s

def execFmCtlWrite (port off : Nat) (v : Word) (s : State) : Host.Outcome State Fault Refusal := .next (s.fmWrite port off v)

end Sys2Proof.Machine
end

