-- ==== Sys2Proof/Machine/Power.lean ====
section
/-! DEFINITION. Power states (R421 to R426), the voltage controller and the canaries (R14 to R19, R470), and the thermal limits (R451, R452). -/

namespace Sys2Proof.Machine

/-- CURRENT: 0 ACTIVE, 1 LEAN, 2 DOZE, 3 STANDBY. -/
def State.powerState (s : State) : Nat := s.fld Reg.PW_STATE 8 3
/-- PW_STATE_CHANGE. -/
def State.noteState (s : State) : State := s.raise .PW_STATE_CHANGE .info srcPower [s.powerState, s.fld Reg.PW_STATE 11 4]
/-- CURRENT set, with its event where it changes. -/
def State.setCurrent (s : State) (c : Nat) : State := if s.powerState = c then s else (s.setFld Reg.PW_STATE 8 3 c).noteState
/-- A request refused with a REASON. -/
def State.refusePower (s : State) (reason : Nat) : State := (s.setBit Reg.PW_STATE 16 true).setFld Reg.PW_STATE 17 3 reason
/-- Rail of a panel in mV. -/
def State.rail (s : State) (p : Nat) : Nat := s.fld (Reg.PW_PANEL p) 16 10
def State.setRail (s : State) (p mv : Nat) : State := s.setFld (Reg.PW_PANEL p) 16 10 mv
def State.panelRate (s : State) (p : Nat) : Nat := s.fld (Reg.PW_PANEL p) 0 16
/-- Whether a panel is powered and not at retention, so that its rail is regulated. -/
def State.regulated (s : State) (p : Nat) : Bool := s.rail p ≠ 0 && !s.panelDown p

/-! ### Parking (R422, R423) -/

/-- The face rows whose home hoist is in a panel by their key, moved to level (R422). -/
def State.demoteFaces (s : State) (p : Nat) : State :=
  (s.tallyWhere (fun e => e.tier = 0 && !e.cand && homeHoist (keyTable e.key) (keyRow e.key) / 16 = p)).foldl (fun s e =>
    (s.makeMove ⟨e.1, e.2, e.2.width, 1⟩ []).1) s

/-- The banks of a panel that firmware does not own, with owner and READ_ONLY. -/
def State.ownedInPanel (s : State) (p : Nat) : List (Nat × Nat) :=
  s.regs.filterMap (fun e =>
    let b := (e.1 - Reg.BK_OWNER 0) / 64
    if Reg.BK_OWNER 0 ≤ e.1 && e.1 < Reg.BK_OWNER 40960 && e.1 % 64 = 0 && panelOfBank b = p && bitsOf e.2.toNat 0 3 ≠ 0 then
      some (b, bitsOf e.2.toNat 0 10) else none)

/-- Whether something still holds a panel: a motif listed in MT_JOBS, an open plait entry with a position, or a bank of a job in a step. -/
def State.panelBusy (s : State) (p : Nat) : Bool :=
  s.jobsMotifs (fun m v => panelOf m = p && [6, 14, 22, 30].any (bitOf v.toNat)) ≠ [] ||
  (List.range 256).any (fun i => s.entryState i = 1 && (s.slotOn i p).isSome) ||
  (s.ownedInPanel p).any (fun e => e.2 % 8 = 1 && s.stepRuns (e.2 / 8 % 64))

/-- LEAN has reached the panels that PARK names. -/
def State.leanDone (s : State) : State :=
  let want := if s.fld Reg.PW_STATE 0 3 = 1 then s.fld Reg.PW_STATE 3 4 else 0
  if s.fld Reg.PW_STATE 11 4 ≠ want then s
  else (s.setBit Reg.PW_STATE 15 false).setCurrent (if s.fld Reg.PW_STATE 0 3 = 1 then 1 else 0)

/-- PANEL_PARKED: a panel that LEAN names is parked: faces demoted, banks to firmware with their contents, rail to 0.42 V, duties to panel
p XOR 1. -/
def State.park (s : State) (p : Nat) : State :=
  if 4 ≤ p || 2 ≤ s.powerState || s.fld Reg.PW_STATE 0 3 ≠ 1 || !s.bit Reg.PW_STATE (3 + p) || s.bit Reg.PW_STATE (11 + p) || s.rail p = 0 then s
  else if s.panelBusy p then s.refusePower 2 else
  let s := s.demoteFaces p
  let lent := s.ownedInPanel p
  let s := lent.foldl (fun s e => s.handOwner .firmware e.1 0#32) s
  let s : State := { s with power := { s.power with lent := s.power.lent ++ lent, railAt := s.power.railAt.put 0 p (s.rail p) } }
  let s := ((s.setRail p 420).setFld (Reg.PW_PANEL p) 0 16 0).setBit Reg.PW_STATE (11 + p) true
  ((s.count (Reg.SC_PWR_HIST 2) 0 32 1).noteState).leanDone
def execPanelParked (panel : Nat) (s : State) : Host.Outcome State Fault Refusal := .next (s.park panel)

/-- Every step of parking reversed: the rail as it was, the rows that the neighbour kept in face demoted, ownership and duties back. -/
def State.unparkPanel (s : State) (p : Nat) : State :=
  let s := (s.demoteFaces p).setRail p (s.power.railAt.get 0 p)
  let back := s.power.lent.filter (fun e => panelOfBank e.1 = p)
  let s := s.setBit Reg.PW_STATE (11 + p) false
  let s := back.foldl (fun s e => s.handOwner .firmware e.1 (BitVec.ofNat 32 e.2)) s
  { s with power := { s.power with lent := s.power.lent.filter (fun e => panelOfBank e.1 ≠ p), railAt := s.power.railAt.put 0 p 0 } }

/-- PANEL_UNPARKED: a parked panel that LEAN no longer names is in service again. -/
def State.unpark (s : State) (p : Nat) : State :=
  let wanted := s.fld Reg.PW_STATE 0 3 = 1 && s.bit Reg.PW_STATE (3 + p)
  if 4 ≤ p || 2 ≤ s.powerState || !s.bit Reg.PW_STATE (11 + p) || wanted then s
  else (s.unparkPanel p).noteState.leanDone
def execPanelUnparked (panel : Nat) (s : State) : Host.Outcome State Fault Refusal := .next (s.unpark panel)

/-! ### DOZE (R424) -/

/-- Whether every job slot allows DOZE. -/
def State.dozeOk (s : State) : Bool :=
  (List.range 64).all (fun j => s.slotIs j .free || s.slotIs j .sliced || s.slotIs j .stopped || s.slotIs j .done ||
    (s.classOf j = 0 && !s.ledger.any (fun e => e.2.st = 2 && e.2.slot = j)))

/-- Every powered panel to retention. -/
def State.enterDoze (s : State) : State :=
  let s := ([0, 1, 2, 3].filter (fun p => s.rail p ≠ 0)).foldl (fun s p =>
    let s : State := if s.bit Reg.PW_STATE (11 + p) then s else { s with power := { s.power with railAt := s.power.railAt.put 0 p (s.rail p) } }
    (s.setRail p 420).setFld (Reg.PW_PANEL p) 0 16 0) s
  (s.setCurrent 2).count (Reg.SC_PWR_HIST 1) 0 32 1

/-- Back to ACTIVE with every panel in service, for a cause (1 a PW_STATE write, 2 a capsule, 3 fabric, 4 PCIe). -/
def State.exitDoze (s : State) (cause : Nat) : State :=
  let s := ((s.setFld Reg.PW_STATE 20 3 cause).setBit Reg.PW_STATE 15 false).setFld Reg.PW_STATE 8 3 0
  let s := ([0, 1, 2, 3].filter (fun p => s.bit Reg.PW_STATE (11 + p))).foldl (fun s p => s.unparkPanel p) s
  let s := ([0, 1, 2, 3].filter (fun p => s.rail p = 420 && s.power.railAt.get 0 p ≠ 0)).foldl (fun s p =>
    let s := s.setRail p (s.power.railAt.get 0 p)
    { s with power := { s.power with railAt := s.power.railAt.put 0 p 0 } }) s
  (s.setFld Reg.PW_STATE 0 3 0).noteState

/-- DOZE_WAKE: a wake source arrives in DOZE. -/
def State.dozeWake (s : State) (cause : Nat) : State :=
  if s.powerState = 2 && decide (1 ≤ cause ∧ cause ≤ 4) then s.exitDoze cause else s
def execDozeWake (cause : Nat) (s : State) : Host.Outcome State Fault Refusal := .next (s.dozeWake cause)

/-- Whether a frame is a wake source in DOZE: a good GFT packet of any class other than CTRL. -/
def wakingFrame (f : FabFrame) : Bool :=
  f.fcsOk && (match f.body with
  | .gft true _ csum k => csum && k.cls ≠ 0
  | _ => false)
/-- FRAME_RECEIVE: a frame reaches a port; in DOZE one that wakes the module is handled once it is awake. -/
def State.frameArrive (s : State) (p : Nat) (f : FabFrame) : State :=
  (if s.inService p && wakingFrame f then s.dozeWake 3 else s).frameReceive p f
def execFrameReceive (port : Nat) (f : FabFrame) (s : State) : Host.Outcome State Fault Refusal := .next (s.frameArrive port f)

/-! ### STANDBY (R425, R426) -/

/-- Orders 6 and 7: the rails go; a wake latched on the way leads out at once (R364). -/
def State.enterStandby (s : State) : State :=
  let n := s.debugEpoch
  let s := s.lastWrite 6
  let p : PowerSt :=
    { mains := true, strapped := true, rails := false, perst := s.power.perst, standby := 7
      wokeEarly := s.power.wokeEarly, perstSeen := s.power.perstSeen }
  let s := s.afterReset (fun a => alwaysOn a || a = Reg.HF_STRAP) p
  (s.keepEpoch n).setFld Reg.PW_STATE 8 3 3

/-- The exit from STANDBY: a reset from S0. WAKE_CAUSE shows a wake frame before the power and reset paths (R442). -/
def State.standbyExit (s : State) : State :=
  let p := s.power
  if p.standby ≠ 7 || !(p.wokeEarly || (p.perstSeen && !p.perst)) then s else
  let s := s.atS0
  (s.count (Reg.SC_PWR_HIST 0) 0 32 1).setFld Reg.PW_STATE 20 3 (if p.wokeEarly then 5 else 6)
def execStandbyExit (s : State) : Host.Outcome State Fault Refusal := .next s.standbyExit

/-- Orders 1 to 4 of STANDBY entry, or its refusal. -/
def State.beginStandby (s : State) : State :=
  if !s.bit Reg.PW_STATE 7 && (List.range 64).any (fun j => !s.slotIs j .free && !s.slotIs j .stopped && !s.slotIs j .done) then s.refusePower 1 else
  let s := s.stopAll false
  let s := s.flashAll s.flash.jobs.length
  let s := if s.debugLevel = 0 then s.raise .DEBUG_LEVEL .info srcSecurity [0, 0] else s.levelOff
  let s := s.newNonce.zeroise
  let s : State := { s with
    sec := { s.sec with mgmtNonce := none, cache := [], idKey := none }
    power := { s.power with standby := 5, wokeEarly := false, perstSeen := false } }
  s.setBit Reg.PW_STATE 15 true

/-- PME_TURN_OFF: acknowledged; entry goes on. -/
def State.pmeOff (s : State) : State := if s.power.standby = 5 then (s.emit .pmeAck).enterStandby.standbyExit else s
def execPmeTurnOff (s : State) : Host.Outcome State Fault Refusal := .next s.pmeOff
/-- PME_TURN_OFF_TIMEOUT: the link goes to electrical idle; entry goes on. -/
def State.pmeTimeout (s : State) : State := if s.power.standby = 5 then s.enterStandby.standbyExit else s
def execPmeTurnOffTimeout (s : State) : Host.Outcome State Fault Refusal := .next s.pmeTimeout

/-! ### Requests (R421) -/

/-- Whether PW_STATE takes requests: firmware runs and no STANDBY entry is under way. -/
def State.powerUp (s : State) : Bool := s.power.s1 && decide (2 ≤ s.fld Reg.PC_BOOT 0 3) && s.power.standby = 0

/-- LEAN asked for with PARK. -/
def State.beginLean (s : State) : State :=
  if s.fld Reg.PW_STATE 3 4 = 15 then s.refusePower 3
  else (s.setBit Reg.PW_STATE 15 true).leanDone

/-- A write of PW_STATE. `woken` is the cause of a wake source that arrives during DOZE entry, 0 for none. In DOZE a write is a wake source,
but for a STANDBY request. -/
def State.powerWrite (s : State) (v : Word) (woken : Nat) : State :=
  let n := v.toNat
  let req := bitsOf n 0 3
  let s := if bitOf n 16 then s.setBit Reg.PW_STATE 16 false else s
  let old := s.fld Reg.PW_STATE 0 8
  let s := (s.setFld Reg.PW_STATE 3 5 (bitsOf n 3 5))
  if 3 < req || !s.powerUp then s else
  let s := if s.powerState = 2 && req ≠ 3 then s.exitDoze 1 else s
  let s := (s.setFld Reg.PW_STATE 0 3 req)
  if req = 0 then (s.setBit Reg.PW_STATE 15 true).leanDone
  else if req = 1 then
    if bitsOf n 3 4 = 15 then (s.setFld Reg.PW_STATE 0 8 old).refusePower 3 else s.beginLean
  else if req = 2 then
    if !s.dozeOk then s.refusePower 1
    else if 1 ≤ woken && woken ≤ 4 then (((s.setFld Reg.PW_STATE 0 3 0).refusePower 4).setFld Reg.PW_STATE 20 3 woken)
    else s.enterDoze
  else s.beginStandby

/-- PW_REQ_ACTIVE, PW_REQ_LEAN, PW_REQ_DOZE, PW_REQ_STANDBY: a write of PW_STATE with that REQ. -/
def State.reqActive (s : State) (v : Word) : State := if bitsOf v.toNat 0 3 = 0 then s.powerWrite v 0 else s
def State.reqLean (s : State) (v : Word) : State := if bitsOf v.toNat 0 3 = 1 then s.powerWrite v 0 else s
def State.reqDoze (s : State) (v : Word) (woken : Nat) : State := if bitsOf v.toNat 0 3 = 2 then s.powerWrite v woken else s
def State.reqStandby (s : State) (v : Word) : State := if bitsOf v.toNat 0 3 = 3 then s.powerWrite v 0 else s

def execPwReqActive (v : Word) (s : State) : Host.Outcome State Fault Refusal := .next (s.reqActive v)
def execPwReqLean (v : Word) (s : State) : Host.Outcome State Fault Refusal := .next (s.reqLean v)
def execPwReqDoze (v : Word) (woken : Nat) (s : State) : Host.Outcome State Fault Refusal := .next (s.reqDoze v woken)
def execPwReqStandby (v : Word) (s : State) : Host.Outcome State Fault Refusal := .next (s.reqStandby v)

/-! ### Emergencies (R397) -/

/-- Whether an emergency is in force. -/
def State.emergency (s : State) : Bool :=
  s.bit Reg.PW_THERM 16 || s.power.vinBad ||
  (match s.power.clampAt with | some t => decide (s.usecN.toNat < 1000000 + t) | none => false)
/-- How long, in microseconds, no emergency has been in force; `some 0` while one is. -/
def State.emergencyClear (s : State) (us : Nat) : Bool :=
  !s.emergency &&
  (match s.fw.emergencyAt with | some t => decide (t + us ≤ s.usecN.toNat) | none => true) &&
  (match s.power.clampAt with | some t => decide (1000000 + t + us ≤ s.usecN.toNat) | none => true)

/-- Held slots go on from order 2 of their drain (R398). -/
def State.releaseShift (s : State) : State :=
  ((List.range 64).filter (fun j => (s.job j).shiftHeld)).foldl (fun s j => (s.setJob j { s.job j with shiftHeld := false }).liveZero j) s

/-- A shift change put off, or sent back to deferral before its pause. -/
def State.deferShift (s : State) : State :=
  let s : State := { s with fw := { s.fw with shift := 1 } }
  ((s.setBit Reg.HF_FW_STATE 3 true).raise .SHIFT_DEFERRED .info (srcComponent 6) []).releaseShift
/-- An emergency begins. -/
def State.noteEmergency (s : State) : State := if s.fw.shift = 2 then s.deferShift else s
/-- An emergency ends. -/
def State.endEmergency (s : State) : State := { s with fw := { s.fw with emergencyAt := some s.usecN.toNat } }

/-! ### Input, temperature and fans (R430, R451, R452, R455) -/

/-- The signed byte of a temperature, and back. -/
def tempByte (t : Int) : Nat := codeOf 8 (max (-128) (min 127 t))
/-- FAN_PWM duty for the hottest sensor: 30 % below 50 °C, rising linearly to 100 % at WARN_C. -/
def fanDuty (t : Int) (warn : Nat) : Nat :=
  if (warn : Int) ≤ t then 100 else if t < 50 then 30 else 30 + 70 * (t.toNat - 50) / (warn - 50)
/-- The duty in force. -/
def State.setFan (s : State) (t : Int) : State :=
  let d := if s.bit Reg.PW_THERM 16 then 100 else if s.bit Reg.PW_FAN 14 then s.fld Reg.PW_FAN 7 7 else fanDuty t (s.fld Reg.PW_THERM 8 8)
  s.setFld Reg.PW_FAN 0 7 d
/-- TJ_MAX_C and what follows from it alone. -/
def State.setTj (s : State) (t : Int) : State := (s.setFld Reg.PW_THERM 0 8 (tempByte t)).setFan t

/-- VIN_RANGE: the input stands at `mv`; outside 38 to 45 V it is an emergency. -/
def State.vinRange (s : State) (mv : Nat) : State :=
  if !s.power.s1 then s else
  let s := s.setFld Reg.PW_INPUT 0 16 (min mv 65535)
  if mv < 38000 || 45000 < mv then
    State.noteEmergency { (s.setBit Reg.PW_ALERT 1 true) with power := { s.power with vinBad := true } }
  else if s.power.vinBad then State.endEmergency { s with power := { s.power with vinBad := false } }
  else s
def execVinRange (mv : Nat) (s : State) : Host.Outcome State Fault Refusal := .next (s.vinRange mv)

/-- TEMP_WARN: the hottest sensor reads `t`. -/
def State.tempWarn (s : State) (t : Int) : State :=
  if !s.power.s1 then s else
  let s := s.setTj t
  if (s.fld Reg.PW_THERM 8 8 : Int) ≤ t then s.setBit Reg.PW_ALERT 0 true else s
def execTempWarn (t : Int) (s : State) : Host.Outcome State Fault Refusal := .next (s.tempWarn t)

/-- THERM_THROTTLE: at or above 100 °C, one period of 20 µs: every regulated rail falls by 20 mV, down to 0.50 V. -/
def State.throttle (s : State) (t : Int) : State :=
  if !s.power.s1 || t < 100 && !s.bit Reg.PW_THERM 16 then s else
  let s := if s.bit Reg.PW_THERM 16 then s else
    let s := (s.setBit Reg.PW_THERM 16 true).setBit Reg.PW_ALERT 3 true
    (((s.count (Reg.SC_PWR_HIST 5) 0 32 1).raise .THERM_THROTTLE .info srcPower [tempByte t])).noteEmergency
  let s := s.setTj t
  ([0, 1, 2, 3].filter s.regulated).foldl (fun s p => if 500 < s.rail p then s.setRail p (max 500 (s.rail p - 20)) else s) s
def execThermThrottle (t : Int) (s : State) : Host.Outcome State Fault Refusal := .next (s.throttle t)

/-- THROTTLE_RELEASE: the hottest sensor falls below 97 °C. -/
def State.throttleEnd (s : State) (t : Int) : State :=
  if !s.bit Reg.PW_THERM 16 || 97 ≤ t then s else ((s.setBit Reg.PW_THERM 16 false).setTj t).endEmergency
def execThrottleRelease (t : Int) (s : State) : Host.Outcome State Fault Refusal := .next (s.throttleEnd t)

/-- HARDWARE_CLAMP: every regulated rail falls by 20 mV (R19), no lower than the profile's range goes (R14; DEDUCED, log entry 12). -/
def State.clamp (s : State) : State :=
  if !s.power.s1 then s else
  let s := ([0, 1, 2, 3].filter s.regulated).foldl (fun s p => s.setRail p (max 500 (s.rail p - 20))) s
  let s := ((s.setBit Reg.PW_STATUS 4 true).setBit Reg.PW_ALERT 2 true).count (Reg.SC_PWR_HIST 3) 0 32 1
  State.noteEmergency { s with power := { s.power with clampAt := some s.usecN.toNat } }
def execHardwareClamp (s : State) : Host.Outcome State Fault Refusal := .next s.clamp

/-! ### Canaries (R15, R17, R469, R470) -/

/-- One canary's window: its loop count, MIN_MHS, and its exclusion after three bad windows. -/
def State.canary (s : State) (g count : Nat) : State :=
  let rate := min 65535 (count * 16 / 10)
  let s := s.setFld (Reg.CN_GROUND_RATE g) 0 16 rate
  let s := s.setFld (Reg.CN_GROUND_MIN g) 0 16 (if s.power.minFresh.get false g then rate else min (s.fld (Reg.CN_GROUND_MIN g) 0 16) rate)
  let bad := if rate = 0 || 1400 < rate then s.power.badWindows.get 0 g + 1 else 0
  let s : State := { s with power := { s.power with badWindows := s.power.badWindows.put 0 g (min bad 3), minFresh := s.power.minFresh.put false g false } }
  if 3 ≤ bad && !s.bit (Reg.CN_GROUND_RATE g) 24 then (s.setBit (Reg.CN_GROUND_RATE g) 24 true).raise .CANARY_FAULT .fenced srcPower [g, rate] else s

/-- The rate of a panel: its lowest canary reading, less 5 % while a canary is excluded. -/
def State.rateOf (s : State) (p : Nat) : Nat :=
  let gs := (List.range 40).map (fun i => p * 40 + i)
  let ok := (gs.filter (fun g => !s.bit (Reg.CN_GROUND_RATE g) 24)).map (fun g => s.fld (Reg.CN_GROUND_RATE g) 0 16)
  let low := ok.foldl min (ok.headD 0)
  if ok.length = 40 then low else low * 95 / 100

/-- Slots sliced off panels in an excursion come back once none of their motifs' panels is in one (R202). -/
def State.endExcursions (s : State) : State :=
  ((s.slices.filter (fun e => match e.2 with | some l => l.byFloor && !(s.slotPanels e.1).any s.floorMiss | none => false)).map (·.1)).foldl
    (fun s j => s.sliceRestore j []) s

/-- CANARY_WINDOW: the loop counts of the 160 grounds in the last 10 µs. -/
def State.canaryWindow (s : State) (counts : List Nat) : State :=
  if !s.power.s1 then s else
  let ps := [0, 1, 2, 3].filter s.regulated
  let s := ps.foldl (fun s p => (List.range 40).foldl (fun s i => s.canary (p * 40 + i) (counts.getD (p * 40 + i) 0)) s) s
  let s := ps.foldl (fun (s : State) p =>
    let r := s.rateOf p
    let s := s.setFld (Reg.PW_PANEL p) 0 16 r
    let e := s.excursion.get 0 p
    if e = 0 then s
    else { s with excursion := s.excursion.put 0 p (if r < s.rateFloor then 1 else if 10 ≤ e then 0 else e + 1) }) s
  s.endExcursions
def execCanaryWindow (counts : List Nat) (s : State) : Host.Outcome State Fault Refusal := .next (s.canaryWindow counts)

/-! ### The voltage controller (R14, R16, R17, R202) -/

/-- The range in which the controller may put a rail now. -/
def State.railRange (s : State) (p avg : Nat) : Nat × Nat :=
  let r := s.rail p
  let cap := 10 * s.fld Reg.PW_POWER 16 16
  let up := if s.bit Reg.PW_THERM 16 then r else max r (min s.railMax (r + 10))
  let rate := s.panelRate p
  if cap < avg then (max 500 (r - 10), max 500 (r - 5))
  else if rate < s.rateFloor then (min up (r + 5), up)
  else if rate < s.fld Reg.PW_TARGET 0 16 then (r, up)
  else if s.fld Reg.PW_TARGET 0 16 < rate then (max 500 (r - 10), r)
  else (r, r)

/-- A panel below the floor that the controller cannot help: RATE_FLOOR_MISS once an excursion. -/
def State.floorMissed (s : State) (p avg : Nat) : State :=
  let stuck := decide (10 * s.fld Reg.PW_POWER 16 16 < avg) || decide (s.railMax ≤ s.rail p) || s.bit Reg.PW_THERM 16
  if s.rateFloor ≤ s.panelRate p || !stuck || s.excursion.get 0 p ≠ 0 then s else
  let s : State := { s with excursion := s.excursion.put 0 p 1 }
  let s := (s.setBit Reg.PW_STATUS p true).raise .RATE_FLOOR_MISS .info (srcPanel p) [p, s.panelRate p, s.rail p, avg]
  s.count (Reg.SC_PWR_HIST 4) 0 32 1

/-- VOLTAGE_CONTROLLER_RUN: `avgDw` is the input power of the last 100 ms in 0.1 W, `railsMv` the settings that the controller chooses, held to
what R14, R16 and R452 allow. -/
def State.controllerRun (s : State) (avgDw : Nat) (railsMv : List Nat) : State :=
  if !s.powerUp || 2 ≤ s.powerState then s else
  let avg := min avgDw 65535
  let s := s.setFld Reg.PW_POWER 0 16 avg
  let ps := [0, 1, 2, 3].filter s.regulated
  let low := ps.any (fun p => s.panelRate p < s.fld Reg.PW_TARGET 0 16)
  let s := if 10 * s.fld Reg.PW_POWER 16 16 < avg && low then s.setBit Reg.PW_STATUS 4 true else s
  let s := ps.foldl (fun s p => s.floorMissed p avg) s
  ps.foldl (fun s p =>
    let w := s.railRange p avg
    let v := railsMv.getD p (s.rail p)
    s.setRail p (max w.1 (min w.2 (v / 5 * 5)))) s
def execVoltageControllerRun (avgDw : Nat) (railsMv : List Nat) (s : State) : Host.Outcome State Fault Refusal := .next (s.controllerRun avgDw railsMv)

/-! ### Telemetry (R207, R471) -/

/-- SHADOW_REFRESH: temperatures of the 160 grounds and of the eight headframe sensors, input voltage and current, and energy since S0. `late`
says that the refresh came later than 10 µs. -/
def State.shadow (s : State) (grounds hf : List Int) (mv ma mj : Nat) (late : Bool) : State :=
  if !s.power.s1 then s else
  let s := (grounds.take 160).zipIdx.foldl (fun s e => s.setFld (Reg.CN_GROUND_RATE e.2) 16 8 (tempByte e.1)) s
  let s := (hf.take 8).zipIdx.foldl (fun s e =>
    s.setFld (if e.2 < 4 then Reg.CN_HF_TEMP_N else Reg.CN_HF_TEMP_S) (8 * (e.2 % 4)) 8 (tempByte e.1)) s
  let s := (s.setFld Reg.PW_INPUT 0 16 (min mv 65535)).setFld Reg.PW_INPUT 16 16 (min ma 65535)
  let s := (s.wr Reg.CN_ENERGY_LO (BitVec.ofNat 32 mj)).wr Reg.CN_ENERGY_HI (BitVec.ofNat 32 (mj / 2 ^ 32))
  let all := grounds.take 160 ++ hf.take 8
  let s := match all with
    | [] => s
    | t :: r => s.setTj (r.foldl max t)
  s.count Reg.HF_BG_SHADOW 0 16 (b2n late)
def execShadowRefresh (grounds hf : List Int) (mv ma mj : Nat) (late : Bool) (s : State) : Host.Outcome State Fault Refusal :=
  .next (s.shadow grounds hf mv ma mj late)

/-! ### Pins, as the state gives them (R445, R454, R455) -/

/-- ALERT_N is low. -/
def State.alertLow (s : State) : Bool := (s.rd Reg.PW_ALERT &&& s.rd Reg.PW_ALERT_EN) ≠ 0#32 && s.power.s1
/-- THERM_N is low: throttling, or from the always-on domain after a trip. -/
def State.thermLow (s : State) : Bool := s.bit Reg.PW_THERM 16 || s.power.tripped
/-- LED_N: 0 off, 1 the 1 Hz blink, 2 steady, 3 the 4 Hz blink. -/
def State.led (s : State) : Nat :=
  if !s.power.mains || s.power.standby = 7 then 0
  else if s.power.tripped || s.bit Reg.PW_ALERT 5 || (s.fld Reg.PC_BOOT 0 3 = 1 && s.power.s1 && s.fw.boot.held) then 3
  else if s.fld Reg.PC_BOOT 0 3 = 5 && s.power.s1 then 2 else 1

end Sys2Proof.Machine
end

