-- ==== Sys2Proof/Machine/Firmware.lean ====
section
/-! DEFINITION. Icaux at run time (R391 to R400, R468): messages, restarts, staging, shift change, core samples. -/

namespace Sys2Proof.Machine

/-- Whether the supervisor runs. -/
def State.fwUp (s : State) : Bool := s.powerUp

/-! ### Messages (R393) -/

/-- COMPONENT_MESSAGE: a 64-byte message is sent to a component, which then takes its `taken` oldest ones. -/
def State.message (s : State) (c : Nat) (msg : List Byte) (taken : Nat) : State :=
  if 8 ≤ c || !s.fwUp then s else
  let q := s.fw.queues.get [] c
  if 256 ≤ q.length then
    State.emit { s with fw := { s.fw with queues := s.fw.queues.put [] c (q.drop taken) } } (.fwMsg c 1)
  else
    let q := q ++ [(msg ++ List.replicate 64 0#8).take 64]
    State.emit { s with fw := { s.fw with queues := s.fw.queues.put [] c (q.drop taken) } } (.fwMsg c 0)
def execComponentMessage (component : Nat) (msg : List Byte) (taken : Nat) (s : State) : Host.Outcome State Fault Refusal :=
  .next (s.message component msg taken)

/-! ### Restarts (R394, R395, R468) -/

/-- A warm restart: a core sample, all eight components from their records; a second one within 10 minutes stops every job slot and leaves
retrieval, the management protocol and staging alone. -/
def State.warmRestart (s : State) (comp : Nat) (core data records : List Byte) : State :=
  let s := s.takeSample comp 3 core data records
  let again := match s.fw.warm with | some t => decide (s.usecN.toNat < 600000000 + t) | none => false
  let s : State := { s with fw := { s.fw with warm := some s.usecN.toNat, stopped := [] } }
  if again then State.stopAll { s with fw := { s.fw with crippled := true } } false else s

/-- COMPONENT_FAILED (R395), then a warm restart. -/
def State.componentFailed (s : State) (c : Nat) (core data records : List Byte) : State :=
  let s : State := { s with fw := { s.fw with failed := true } }
  (s.raise .COMPONENT_FAILED .moduleFatal (srcComponent c) [c]).warmRestart c core data records

/-- A component restarted for a cause (0 fault, 1 protection, 2 watchdog): sample, re-hash, restart; the supervisor, a body that fails its
re-hash and a fourth fault within 60 s end in a warm restart. -/
def State.restart (s : State) (c cause : Nat) (bodyOk : Bool) (core data records : List Byte) : State :=
  let s := s.takeSample c cause core data records
  if c = 0 then s.warmRestart 0 core data records else
  let now := s.usecN.toNat
  let recent := (s.fw.faults.get [] c).filter (fun t => decide (now < 60000000 + t)) ++ [now]
  let s : State := { s with fw := { s.fw with faults := s.fw.faults.put [] c recent, stopped := s.fw.stopped.filter (· ≠ c) } }
  if !bodyOk || 4 ≤ recent.length then s.componentFailed c core data records else
  let s := ((s.emit (.fwMsg c 2)).raise .COMPONENT_RESTART .corrected (srcComponent c) [c, cause]).setBit Reg.HF_FW_STATUS 3 true
  s.count Reg.HF_FW_COUNT 0 16 1

/-- COMPONENT_RESTART: a component faults (cause 0) or breaks its protection region (cause 1). -/
def State.componentRestart (s : State) (c cause : Nat) (bodyOk : Bool) (core data records : List Byte) : State :=
  if 8 ≤ c || 2 ≤ cause || !s.fwUp then s else s.restart c cause bodyOk core data records
def execComponentRestart (component cause : Nat) (bodyOk : Bool) (core data records : List Byte) (s : State) : Host.Outcome State Fault Refusal :=
  .next (s.componentRestart component cause bodyOk core data records)

/-- WATCHDOG: a component misses its period. -/
def State.watchdog (s : State) (c : Nat) (bodyOk : Bool) (core data records : List Byte) : State :=
  if 8 ≤ c || !s.fwUp then s
  else (s.raise .WATCHDOG .corrected (srcComponent c) [c]).restart c 2 bodyOk core data records
def execWatchdog (component : Nat) (bodyOk : Bool) (core data records : List Byte) (s : State) : Host.Outcome State Fault Refusal :=
  .next (s.watchdog component bodyOk core data records)

/-- SAMPLE: a core sample of a component on request. -/
def State.sampleNow (s : State) (c : Nat) (core data records : List Byte) : State :=
  if 8 ≤ c || !s.fwUp then s else (s.setBit Reg.HF_FW_CTL 3 false).takeSample c 4 core data records
def execSample (component : Nat) (core data records : List Byte) (s : State) : Host.Outcome State Fault Refusal :=
  .next (s.sampleNow component core data records)

/-! ### GOOD and STAGED (R391, R396) -/

/-- GOOD_IMAGE_COPY: the running image to the GOOD slot after 600 s at S5. -/
def State.goodCopy (s : State) : State :=
  match s.fw.s5At with
  | none => s
  | some t =>
    if s.usecN.toNat < 600000000 + t || s.fw.failed || s.fw.crippled || !s.fwUp then s else
    let s : State := { s with flash := { s.flash with good := some s.runImage } }
    if !s.fw.fromStaged then s else
    State.setBit { s with flash := { s.flash with activateOnBoot := false, tries := 0 }, fw := { s.fw with fromStaged := false } } Reg.HF_FW_CTL 2 false
def execGoodImageCopy (s : State) : Host.Outcome State Fault Refusal := .next s.goodCopy

/-- A staging failure with its code. -/
def State.stageFail (s : State) (code : Nat) : State :=
  (((s.setFld Reg.HF_FW_STATE 7 4 code).setBit Reg.HF_FW_STATUS 0 true).setBit Reg.HF_FW_STATE 1 false).raise .FW_STAGE_FAIL .info (srcComponent 6) [code]

/-- An image staged: into the inactive bank, verified, to the STAGED slot, its formats checked. -/
def State.stageImage (s : State) (l : List Byte) : State :=
  let s := s.setOther l
  let c := s.verifyImage l
  if c ≠ 0 then s.stageFail c else
  let s : State := { s with flash := { s.flash with staged := some l, tries := 0 } }
  let s := s.wr Reg.HF_FW_STAGED (BitVec.ofNat 32 (imgVersion l))
  if formatsFit s.runImage l then s.setBit Reg.HF_FW_STATE 1 true else s.stageFail 8

/-- STAGE: `image` is what the host returned for SRC_LEN bytes at SRC; a read that failed, or that the PF may not make, delivers zeros. A STAGE during a shift change is
ignored and sets REFUSED. -/
def State.stageHost (s : State) (image : Option (List Byte)) : State :=
  let n := s.fld Reg.HF_FW_SRC_LEN 0 22
  if !s.fwUp then s
  else if s.fw.shift ≠ 0 then (s.setBit Reg.HF_FW_CTL 0 false).setBit Reg.HF_FW_STATUS 4 true
  else
    let s := (s.setBit Reg.HF_FW_CTL 0 false).emit (.hostRead 0 (s.rd2 Reg.HF_FW_SRC_LO Reg.HF_FW_SRC_HI) n false false)
    let l := if s.busMaster.get false 0 then image.getD [] else []
    s.stageImage ((l ++ List.replicate n 0#8).take n)
def execStage (image : Option (List Byte)) (s : State) : Host.Outcome State Fault Refusal := .next (s.stageHost image)

/-! ### Shift change (R397 to R399) -/

/-- HOLD_S in microseconds. -/
def State.holdUs (s : State) : Nat := 1000000 * s.fld Reg.HF_FW_CTL 8 8

/-- ACTIVATE: a shift change begins, or is deferred by an emergency. -/
def State.activate (s : State) : State :=
  if !s.fwUp || s.fw.crippled || !s.bit Reg.HF_FW_STATE 1 || s.fw.shift ≠ 0 then s else
  let s := s.setBit Reg.HF_FW_STATE 2 true
  if s.emergencyClear s.holdUs then { s with fw := { s.fw with shift := 2 } } else s.deferShift
def execActivate (s : State) : Host.Outcome State Fault Refusal := .next s.activate

/-- SHIFT_HOLD_EXPIRE: the emergency has been clear for HOLD_S. -/
def State.shiftHoldEnd (s : State) : State :=
  if s.fw.shift = 1 && s.emergencyClear s.holdUs then
    State.setBit { s with fw := { s.fw with shift := 2 } } Reg.HF_FW_STATE 3 false
  else s
def execShiftHoldExpire (s : State) : Host.Outcome State Fault Refusal := .next s.shiftHoldEnd

/-- SHIFT_PAUSE_BEGIN: no slot is in orders 2 to 12 and no sweep runs. -/
def State.pauseBegin (s : State) : State :=
  if s.fw.shift ≠ 2 || (List.range 64).any (fun j => (s.job j).drainOrder ≠ 0 || s.slotIs j .sweep || s.slotIs j .draining) then s else
  State.setBit { s with fw := { s.fw with shift := 3, pausedAt := s.usecN.toNat } } Reg.HF_FW_STATE 4 true
def execShiftPauseBegin (s : State) : Host.Outcome State Fault Refusal := .next s.pauseBegin

/-- The pause ends: held slots go on, the records of capsules that ended meanwhile follow (R398), and a change to RETURNED stops them (R429). -/
def State.pauseEnd (s : State) : State :=
  let n := s.usecN.toNat - s.fw.pausedAt
  let due := s.fw.haltDue
  let s := State.setFld { s with fw := { s.fw with shift := 0, haltDue := false } } Reg.HF_FW_STATE 2 3 0
  let s := ((s.setFld Reg.HF_FW_PAUSE 0 12 (min 4095 n)).releaseShift).flushAll
  if due then s.stopAll false else s

/-- SHIFT_READY: every new component has reported ready within 1.2 ms. -/
def State.shiftReady (s : State) : State :=
  if s.fw.shift ≠ 3 || s.fw.pausedAt + 1200 < s.usecN.toNat then s else
  let l := s.otherImage.getD []
  let s := (s.setBit Reg.HF_FW_STATE 0 (!s.bit Reg.HF_FW_STATE 0)).setBit Reg.HF_FW_STATE 1 false
  let s := (s.wr Reg.HF_FW_RUN (BitVec.ofNat 32 (imgVersion l))).extendMeas 6 (sm3 (imgHead l))
  let s : State := { s with fw := { s.fw with fromStaged := true } }
  let s := ((s.setBit Reg.HF_FW_STATUS 1 true).count Reg.HF_FW_COUNT 16 16 1).pauseEnd
  s.raise .SHIFT_CHANGE .info (srcComponent 0) [imgVersion l]
def execShiftReady (s : State) : Host.Outcome State Fault Refusal := .next s.shiftReady

/-- SHIFT_ROLLBACK: a component's import failed, or 1.2 ms passed; the old components go on and the staged image stays staged. -/
def State.rollback (s : State) (component : Nat) : State :=
  if s.fw.shift ≠ 3 then s
  else ((s.setBit Reg.HF_FW_STATUS 2 true).pauseEnd).raise .SHIFT_ROLLBACK .corrected (srcComponent 0) [component]
def execShiftRollback (component : Nat) (s : State) : Host.Outcome State Fault Refusal := .next (s.rollback component)

end Sys2Proof.Machine
end

