-- ==== Sys2Proof/Machine/Mgmt.lean ====
section
/-! DEFINITION. The management port: its MAC (R358 to R361), wake frames (R362 to R364), and the management protocol (R401). -/

namespace Sys2Proof.Machine

/-! ### MAC -/

/-- A statistic of the management MAC counted: its index in MM_STAT. -/
def State.mmCount (s : State) (i : Nat) : State := s.count (Reg.MM_STAT i) 0 32 1
/-- Whether the MAC works: the headframe runs and EN is set. -/
def State.mmUp (s : State) : Bool := s.power.s1 && s.bit Reg.MM_CTL 0
def mmAddress : Nat := Config.mmMac % 2 ^ 48
def mmBroadcast : Nat := 2 ^ 48 - 1
/-- The frames that R360 accepts. -/
def State.mmAccepts (s : State) (dst : Nat) : Bool :=
  dst = mmAddress || dst = mmBroadcast ||
  [0, 1, 2, 3].any (fun k => s.bit (Reg.MM_MCAST_HI k) 16 &&
    dst = 2 ^ 32 * s.fld (Reg.MM_MCAST_HI k) 0 16 + (s.rd (Reg.MM_MCAST_LO k)).toNat)
/-- Octets of a frame on the wire: header, payload and FCS, at least 64. -/
def mmOctets (payload : List Byte) : Nat := max 64 (payload.length + 18)
/-- Whether a frame is a wake frame by its EtherType, TAG and VERSION (R362). -/
def isWake (etherType : Nat) (payload : List Byte) : Bool :=
  etherType = 0x88B5 && ofBytesBE (payload.take 2) = 0x4758 && (payload.getD 2 0#8) = 1#8

/-- A frame received outside STANDBY. -/
def State.mmReceive (s : State) (dst etherType : Nat) (payload : List Byte) (fcsOk : Bool) : State :=
  if !s.mmUp then s
  else if !fcsOk then s.mmCount 7
  else
    let s := if isWake etherType payload then s.count Reg.MM_WAKE_IGNORED 0 16 1 else s
    if !s.mmAccepts dst then s.mmCount 8
    else if 65536 < s.mm.rx.sum + mmOctets payload then (s.mmCount 9).setBit Reg.MM_STATUS 4 true
    else State.mmCount { s with mm := { s.mm with rx := s.mm.rx ++ [mmOctets payload] } } 1
def execMmFrameReceive (dst etherType : Nat) (payload : List Byte) (fcsOk : Bool) (s : State) : Host.Outcome State Fault Refusal :=
  .next (s.mmReceive dst etherType payload fcsOk)

/-- Firmware takes the oldest received frame. -/
def State.mmTake (s : State) : State := { s with mm := { s.mm with rx := s.mm.rx.tail } }

/-- MM_COLLISION: the frame being sent collides, late or not. The number of slot times waited is a free value within its range. -/
def State.mmCollide (s : State) (late : Bool) : State :=
  if !s.mmUp || s.mm.tx = [] || s.mm.backoff ≠ none then s else
  let s := if s.bit Reg.MM_STATE 0 then s.setBit Reg.MM_STATUS 3 true else s
  let gone := fun (s : State) => { s with mm := { s.mm with tx := s.mm.tx.tail, attempts := 0 } }
  if late then (gone ((s.mmCount 5).setBit Reg.MM_STATUS 1 true))
  else if 15 ≤ s.mm.attempts then gone ((s.mmCount 4).setStatus Reg.MM_STATUS 0 .MM_EXCESS_COLL .info srcMM [])
  else
    let n := s.mm.attempts + 1
    let r := s.draw
    { r.2 with mm := { r.2.mm with attempts := n, backoff := some (r.1 % 2 ^ min n 10) } }
def execMmCollision (late : Bool) (s : State) : Host.Outcome State Fault Refusal := .next (s.mmCollide late)

/-- MM_BACKOFF_EXPIRE: the frame is tried again. -/
def State.mmBackoffEnd (s : State) : State := { s with mm := { s.mm with backoff := none } }
def execMmBackoffExpire (s : State) : Host.Outcome State Fault Refusal := .next s.mmBackoffEnd

/-- MM_FRAME_TX_DONE: the oldest frame is sent; `deferred` says that carrier delayed it. -/
def State.mmSent (s : State) (deferred : Bool) : State :=
  match s.mm.tx with
  | [] => s
  | f :: rest =>
    if !s.mmUp || s.mm.backoff ≠ none then s else
    let n := s.mm.attempts
    let s := State.mmCount { s with mm := { s.mm with tx := rest, attempts := 0 } } 0
    let s := if n = 1 then s.mmCount 2 else if 2 ≤ n then s.mmCount 3 else s
    (if deferred then s.mmCount 6 else s).emit (.mgmt f)
def execMmFrameTxDone (deferred : Bool) (s : State) : Host.Outcome State Fault Refusal := .next (s.mmSent deferred)

/-- PLCA_BEACON_LOSS: back to CSMA/CD. -/
def State.beaconLoss (s : State) : State :=
  if !s.mmUp || !s.bit Reg.MM_CTL 1 then s
  else (s.setBit Reg.MM_STATE 0 false).setStatus Reg.MM_STATUS 2 .MM_PLCA_LOST .info srcMM []
def execPlcaBeaconLoss (s : State) : Host.Outcome State Fault Refusal := .next s.beaconLoss
/-- PLCA_BEACON_RESUME: beacons are received, and the MAC works under PLCA. -/
def State.beaconResume (s : State) : State := if !s.mmUp || !s.bit Reg.MM_CTL 1 then s else s.setBit Reg.MM_STATE 0 true
def execPlcaBeaconResume (s : State) : Host.Outcome State Fault Refusal := .next s.beaconResume

/-! ### Wake frames (R362 to R364) -/

/-- Whether the detector accepts a frame (R363). -/
def State.wakeAccepts (s : State) (dst etherType : Nat) (payload : List Byte) (fcsOk : Bool) : Bool :=
  let target := (payload.getD 3 0#8).toNat
  let slot := s.fld Reg.HF_STRAP 0 6
  fcsOk && isWake etherType payload && s.bit Reg.MM_WAKE_CTL 0 &&
  ofBytesBE ((payload.drop 12).take 4) = (s.rd Reg.MM_WAKE_CODE).toNat &&
  ((target = 0 && dst = mmAddress) ||
    (target = 1 && (dst = mmAddress || dst = mmBroadcast) && bitOf (payload.getD (4 + slot / 8) 0#8).toNat (slot % 8)))

/-- WAKE_FRAME: in STANDBY, and from the start of its entry, the detector judges the frame; elsewhere it is an ordinary frame. -/
def State.wakeFrame (s : State) (dst etherType : Nat) (payload : List Byte) (fcsOk : Bool) : State :=
  if s.power.standby = 0 then s.mmReceive dst etherType payload fcsOk
  else if s.wakeAccepts dst etherType payload fcsOk then
    State.count { s with power := { s.power with wokeEarly := true } } Reg.MM_WAKE_COUNT 0 16 1
  else s.count Reg.MM_WAKE_COUNT 16 16 1
def execWakeFrame (dst etherType : Nat) (payload : List Byte) (fcsOk : Bool) (s : State) : Host.Outcome State Fault Refusal :=
  .next (s.wakeFrame dst etherType payload fcsOk)

/-! ### The management protocol (R401) -/

/-- A request: who sent it, its whole message without signature, and the signature. -/
structure MgmtReq where
  src : Nat
  msg : List Byte
  sig : List Byte
def MgmtReq.reqId (r : MgmtReq) : Nat := imgNum r.msg 4 4
def MgmtReq.payload (r : MgmtReq) : List Byte := r.msg.drop 16

/-- A response: header and payload of at most 1,452 bytes. -/
def response (r : MgmtReq) (op status : Nat) (payload : List Byte) : List Byte :=
  let p := payload.take 1452
  [1#8, BitVec.ofNat 8 (op + 128)] ++ toBytes 2 status ++ toBytes 4 r.reqId ++ toBytes 2 p.length ++ List.replicate 6 0#8 ++ p

/-- A response sent, and kept for a repeated REQ_ID. -/
def State.answer (s : State) (r : MgmtReq) (b : List Byte) : State :=
  { s with
    mm := { s.mm with tx := s.mm.tx ++ [⟨r.src, b⟩] }
    sec := { s.sec with cache := (s.sec.cache ++ [(r.reqId, b)]).drop (s.sec.cache.length + 1 - 16) } }

/-- A request served: from the cache where its REQ_ID is repeated, otherwise by `f`, which gives the new state, STATUS and payload. -/
def State.serveMgmt (s : State) (r : MgmtReq) (op : Nat) (f : State → State × Nat × List Byte) : State :=
  let s := s.mmTake
  if !s.fwUp then s else
  match s.sec.cache.find? (fun e => e.1 = r.reqId) with
  | some e => { s with mm := { s.mm with tx := s.mm.tx ++ [⟨r.src, e.2⟩] } }
  | none =>
    let x := f s
    x.1.answer r (response r op x.2.1 x.2.2)

/-- A status other than success: the manual gives no numbers, so it is a free value other than 0. -/
def State.failStatus (s : State) : State × Nat := let r := s.draw; (r.2, 1 + r.1 % 65535)

/-- Whether a request that changes state is allowed and signed, over the request and the last nonce. -/
def State.mgmtSigned (s : State) (r : MgmtReq) : Bool :=
  s.bit Reg.HF_FW_CTL 4 &&
  (match s.sec.mgmtNonce with
  | none => false
  | some n =>
    match s.ownerKey with
    | some k => sm2Verify k (r.msg ++ n) r.sig
    | none => (s.vendorOf (r.msg ++ n) r.sig).isSome)

/-- IDENT, STATUS and NONCE. -/
def State.mgmtIdent (s : State) (r : MgmtReq) : State :=
  s.serveMgmt r 1 (fun s => (s, 0, BitVec.ofNat 8 (s.fld Reg.HF_STRAP 0 6) :: s.identity ++ s.regBytes (fun _ => Reg.HF_FW_RUN) 1 ++ s.regBytes (fun _ => Reg.HF_FW_STAGED) 1))
def State.mgmtStatus (s : State) (r : MgmtReq) : State :=
  s.serveMgmt r 2 (fun s => (s, 0, s.regBytes (fun _ => Reg.PC_BOOT) 1 ++ s.regBytes (fun _ => Reg.HF_FW_STATE) 1))
def State.mgmtNewNonce (s : State) (r : MgmtReq) : State :=
  s.serveMgmt r 3 (fun s =>
    let d := s.drawBytes 16
    ({ d.2 with sec := { d.2.sec with mgmtNonce := some d.1 } }, 0, d.1))

/-- STAGE: `image` is the file that the TFTP server named delivers. -/
def State.mgmtStage (s : State) (r : MgmtReq) (image : Option (List Byte)) : State :=
  s.serveMgmt r 4 (fun s =>
    if !s.mgmtSigned r then let e := s.failStatus; (e.1, e.2, [])
    else if s.fw.shift ≠ 0 then let e := (s.setBit Reg.HF_FW_STATUS 4 true).failStatus; (e.1, e.2, [])
    else
      let s := s.stageImage (image.getD [])
      if s.bit Reg.HF_FW_STATE 1 then (s, 0, []) else let e := s.failStatus; (e.1, e.2, []))
/-- ACTIVATE: bit 0 of the first payload byte is the ACTIVATE_ON_BOOT to set. -/
def State.mgmtActivate (s : State) (r : MgmtReq) : State :=
  s.serveMgmt r 5 (fun s =>
    if !s.mgmtSigned r then let e := s.failStatus; (e.1, e.2, [])
    else
      let v := bitOf (r.payload.getD 0 0#8).toNat 0
      ((State.setBit { s with flash := { s.flash with activateOnBoot := v } } Reg.HF_FW_CTL 2 v).activate, 0, []))

/-- Bytes of a core sample: entry and source 0 LPDDR5X, 1 flash. -/
def State.sampleAt (s : State) (entry source : Nat) : List Byte :=
  if source = 1 then s.flash.samples.get [] entry
  else match s.sampleBase with
    | none => []
    | some a =>
      let r := s.readExt (a + 0x100000 * entry) 64
      if imgNum r.2.1 0 4 = 0x43534D50 then (s.readExt (a + 0x100000 * entry) (min 0x100000 (imgNum r.2.1 24 4))).2.1 else []
/-- An entry counts as read. -/
def State.sampleRead (s : State) (entry source : Nat) : State :=
  if source = 1 then { s with flash := { s.flash with unread := s.flash.unread.filter (· ≠ entry) } }
  else { s with fw := { s.fw with extUnread := s.fw.extUnread.filter (· ≠ entry) } }

/-- SAMPLE_LIST: the headers of every entry, LPDDR5X first, as many as the payload holds. -/
def State.mgmtList (s : State) (r : MgmtReq) : State :=
  s.serveMgmt r 6 (fun s => (s, 0, [0, 1].flatMap (fun src => (List.range 64).flatMap (fun e => (s.sampleAt e src).take 64))))
/-- SAMPLE_READ: entry, source and byte offset are bytes 0, 1 and 2 to 5 of the payload. -/
def State.mgmtRead (s : State) (r : MgmtReq) : State :=
  s.serveMgmt r 7 (fun s =>
    let e := (r.payload.getD 0 0#8).toNat % 64
    let src := (r.payload.getD 1 0#8).toNat % 2
    (s.sampleRead e src, 0, ((s.sampleAt e src).drop (imgNum r.payload 2 4)).take 1024))

def execIdent (src : Nat) (msg : List Byte) (s : State) : Host.Outcome State Fault Refusal := .next (s.mgmtIdent ⟨src, msg, []⟩)
def execStatus (src : Nat) (msg : List Byte) (s : State) : Host.Outcome State Fault Refusal := .next (s.mgmtStatus ⟨src, msg, []⟩)
def execNonce (src : Nat) (msg : List Byte) (s : State) : Host.Outcome State Fault Refusal := .next (s.mgmtNewNonce ⟨src, msg, []⟩)
def execMgmtStage (src : Nat) (msg sig : List Byte) (image : Option (List Byte)) (s : State) : Host.Outcome State Fault Refusal :=
  .next (s.mgmtStage ⟨src, msg, sig⟩ image)
def execMgmtActivate (src : Nat) (msg sig : List Byte) (s : State) : Host.Outcome State Fault Refusal := .next (s.mgmtActivate ⟨src, msg, sig⟩)
def execSampleList (src : Nat) (msg : List Byte) (s : State) : Host.Outcome State Fault Refusal := .next (s.mgmtList ⟨src, msg, []⟩)
def execSampleRead (src : Nat) (msg : List Byte) (s : State) : Host.Outcome State Fault Refusal := .next (s.mgmtRead ⟨src, msg, []⟩)

end Sys2Proof.Machine
end

