-- ==== Sys2Proof/Machine/Scalar.lean ====
section
/-! DEFINITION. Scalar arithmetic, branches and control words (R122, R123, R135 to R137, R177). -/

namespace Sys2Proof.Machine

/-- A scalar result written into s[d] (R135). -/
def aluGo (d : SReg) (f : Task → Word) : State → Nat → Task → Issue :=
  fun s _ t => .go s (t.setS d.val (f t)) none

/-- ADD, AND, OR, XOR: the R form under major opcode 1, the immediate form under its own. -/
def encAlu (fn opImm : Nat) (d a : SReg) : Src → Insn
  | .reg b => { w0 := encWord 1 d.val a.val b.val fn }
  | .imm i => encImm opImm d.val a.val 0 i

def execAdd (x : Nat) (d a : SReg) (b : Src) (upset : Bool) (s : State) : Host.Outcome State Fault Refusal :=
  .next (if upset then s.fenceCore (motifOf x) (coreOf x) 1
    else s.issue x (encAlu 0 2 d a b) false (sregs [a.val] ++ srcReads b) (sregs [d.val])
      (aluGo d (fun t => t.sreg a.val + t.src b)))

def execSub (x : Nat) (d a b : SReg) (s : State) : Host.Outcome State Fault Refusal :=
  .next (s.issue x { w0 := encWord 1 d.val a.val b.val 1 } false (sregs [a.val, b.val]) (sregs [d.val])
    (aluGo d (fun t => t.sreg a.val - t.sreg b.val)))

def execAnd (x : Nat) (d a : SReg) (b : Src) (s : State) : Host.Outcome State Fault Refusal :=
  .next (s.issue x (encAlu 2 3 d a b) false (sregs [a.val] ++ srcReads b) (sregs [d.val])
    (aluGo d (fun t => t.sreg a.val &&& t.src b)))

def execOr (x : Nat) (d a : SReg) (b : Src) (s : State) : Host.Outcome State Fault Refusal :=
  .next (s.issue x (encAlu 3 4 d a b) false (sregs [a.val] ++ srcReads b) (sregs [d.val])
    (aluGo d (fun t => t.sreg a.val ||| t.src b)))

def execXor (x : Nat) (d a : SReg) (b : Src) (s : State) : Host.Outcome State Fault Refusal :=
  .next (s.issue x (encAlu 4 5 d a b) false (sregs [a.val] ++ srcReads b) (sregs [d.val])
    (aluGo d (fun t => t.sreg a.val ^^^ t.src b)))

/-- SHL, SHR, SRA: by s[b] under major opcode 1, by a constant under 6. -/
def encShift (fn : Nat) (d a : SReg) : ShAmt → Insn
  | .reg b => { w0 := encWord 1 d.val a.val b.val (5 + fn) }
  | .const n => { w0 := encWord 6 d.val a.val n.val fn }

def execShl (x : Nat) (d a : SReg) (n : ShAmt) (s : State) : Host.Outcome State Fault Refusal :=
  .next (s.issue x (encShift 0 d a n) false (sregs [a.val] ++ amountReads n) (sregs [d.val])
    (aluGo d (fun t => t.sreg a.val <<< t.amount n)))

def execShr (x : Nat) (d a : SReg) (n : ShAmt) (s : State) : Host.Outcome State Fault Refusal :=
  .next (s.issue x (encShift 1 d a n) false (sregs [a.val] ++ amountReads n) (sregs [d.val])
    (aluGo d (fun t => t.sreg a.val >>> t.amount n)))

def execSra (x : Nat) (d a : SReg) (n : ShAmt) (s : State) : Host.Outcome State Fault Refusal :=
  .next (s.issue x (encShift 2 d a n) false (sregs [a.val] ++ amountReads n) (sregs [d.val])
    (aluGo d (fun t => (t.sreg a.val).sshiftRight (t.amount n))))

def execMul (x : Nat) (d a b : SReg) (s : State) : Host.Outcome State Fault Refusal :=
  .next (s.issue x { w0 := encWord 1 d.val a.val b.val 8 } false (sregs [a.val, b.val]) (sregs [d.val])
    (aluGo d (fun t => t.sreg a.val * t.sreg b.val)))

def execMulh (x : Nat) (d a b : SReg) (s : State) : Host.Outcome State Fault Refusal :=
  .next (s.issue x { w0 := encWord 1 d.val a.val b.val 9 } false (sregs [a.val, b.val]) (sregs [d.val])
    (aluGo d (fun t => (((t.sreg a.val).signExtend 64 * (t.sreg b.val).signExtend 64) >>> 32).truncate 32)))

/-- Unsigned division, all ones by zero (R135). -/
def divu (a b : Word) : Word := if b = 0#32 then 0xFFFFFFFF#32 else a / b

def execDivu (x : Nat) (d a b : SReg) (s : State) : Host.Outcome State Fault Refusal :=
  .next (s.issue x { w0 := encWord 1 d.val a.val b.val 11 } false (sregs [a.val, b.val]) (sregs [d.val])
    (aluGo d (fun t => divu (t.sreg a.val) (t.sreg b.val))))

def execLi (x : Nat) (d : SReg) (i : Imm) (s : State) : Host.Outcome State Fault Refusal :=
  .next (s.issue x (encImm 8 d.val 0 0 i) false [] (sregs [d.val]) (aluGo d (fun _ => immWord i)))

def execLui (x : Nat) (d : SReg) (i : BitVec 11) (s : State) : Host.Outcome State Fault Refusal :=
  .next (s.issue x { w0 := encWord 9 d.val 0 0 i.toNat } false [] (sregs [d.val])
    (aluGo d (fun _ => i.signExtend 32 <<< 21)))

/-! ### Branches and jumps (R136) -/

/-- A long branch offset that is not a multiple of 4 is ILLEGAL (R133). -/
def badTarget : Imm → Bool
  | .short _ => false
  | .long i => i.toNat % 4 ≠ 0

/-- Displacement of a branch: 4 × imm11, or the long form's bytes. -/
def displacement : Imm → Word
  | .short i => i.signExtend 32 * 4#32
  | .long i => i

/-- A branch on a condition of s[a] and s[b]. -/
def branch (x op : Nat) (a b : SReg) (off : Imm) (c : Word → Word → Bool) (s : State) : State :=
  s.issue x (encImm op 0 a.val b.val off) (badTarget off) (sregs [a.val, b.val]) []
    (fun s _ t => .go s t (if c (t.sreg a.val) (t.sreg b.val) then some (t.pc + displacement off) else none))

def execBeq (x : Nat) (a b : SReg) (off : Imm) (s : State) : Host.Outcome State Fault Refusal :=
  .next (branch x 0x10 a b off (fun u v => u = v) s)

def execBne (x : Nat) (a b : SReg) (off : Imm) (s : State) : Host.Outcome State Fault Refusal :=
  .next (branch x 0x11 a b off (fun u v => u ≠ v) s)

def execBlt (x : Nat) (a b : SReg) (off : Imm) (s : State) : Host.Outcome State Fault Refusal :=
  .next (branch x 0x12 a b off (fun u v => u.slt v) s)

def execBge (x : Nat) (a b : SReg) (off : Imm) (s : State) : Host.Outcome State Fault Refusal :=
  .next (branch x 0x13 a b off (fun u v => !u.slt v) s)

/-- Target of J and JL: relative to its own address when field a is 0, to s[a] otherwise. -/
def Task.jumpTarget (t : Task) (a : SReg) (off : Imm) : Word :=
  (if a.val = 0 then t.pc else t.sreg a.val) + displacement off

/-- Bytes of an instruction with an immediate. -/
def insnBytes : Imm → Word
  | .short _ => 4#32
  | .long _ => 8#32

def execJ (x : Nat) (a : SReg) (off : Imm) (s : State) : Host.Outcome State Fault Refusal :=
  .next (s.issue x (encImm 0x14 0 a.val 0 off) (badTarget off) (sregs [a.val]) []
    (fun s _ t => .go s t (some (t.jumpTarget a off))))

def execJl (x : Nat) (d a : SReg) (off : Imm) (s : State) : Host.Outcome State Fault Refusal :=
  .next (s.issue x (encImm 0x15 d.val a.val 0 off) (badTarget off) (sregs [a.val]) (sregs [d.val])
    (fun s _ t => .go s (t.setS d.val (t.pc + insnBytes off))
      (some (t.jumpTarget a off))))

/-! ### Control words (R122, R123, R177) -/

/-- Windows of a motif that a job slot owns, as a mask (R177). -/
def windowMask (n : Nat) (owned : Nat → Bool) : Nat := (List.range n).foldl (fun a i => a + b2n (owned i) * 2 ^ i) 0

/-- The value GETCW reads; none where the index is unassigned. -/
def State.readCw (s : State) (x : Nat) (t : Task) (i : Nat) : Option Word :=
  let m := motifOf x
  match i with
  | 0 => some t.arith
  | 1 | 2 | 3 | 7 | 8 => some (t.cword i)
  | 4 | 5 | 6 => some (BitVec.ofNat 32 (bitsOf (t.cword i).toNat 0 24))
  | 9 => some (BitVec.ofNat 32 (ctxIn x + coreOf x * 2 ^ 2 + m * 2 ^ 7 + 2 ^ 21 * t.slot))
  | 0xA => some (s.rd (Reg.PN_JOB_STEP_LO t.slot))
  | 0xB => some t.issued
  | 0x40 => some (BitVec.ofNat 32 t.serial)
  | 0x41 => some (BitVec.ofNat 32 t.parent)
  | 0x42 => some (BitVec.ofNat 32 (windowMask 8 (fun w => s.ownsToken t.slot (m * 256 + w * 32))))
  | 0x43 => some (BitVec.ofNat 32 (windowMask 16 (fun w => s.ownsScale t.slot m (w * 32))))
  | 0x44 => some (BitVec.ofNat 32 (b2n t.pin))
  | 0x45 => some (BitVec.ofNat 32 t.cmds.length)
  | 0x46 => some (BitVec.ofNat 32 t.moves)
  | _ => none

/-- The task after SETCW; none where the index is unassigned. Read-only words ignore the write (R122). ARITH: RM, SR and SUBOUT
are stored, a 1 clears a flag (R40). Reserved bits of SEG_n and ACT_ALPHA16 read zero. -/
def Task.writeCw (t : Task) (i : Nat) (v : Word) : Option Task :=
  match i with
  | 0 => some { t with arith := (v &&& 0xF#32) ||| (t.arith &&& 0xFF0#32 &&& ~~~v) }
  | 1 | 2 | 3 | 7 => some (t.setCw i v)
  | 4 | 5 | 6 => some (t.setCw i (v &&& 0xFFFFFF#32))
  | 8 => some (t.setCw i (v &&& 0xFFFF#32))
  | 0x44 => some { t with pin := v.getLsbD 0 }
  | 9 | 0xA | 0xB | 0x40 | 0x41 | 0x42 | 0x43 | 0x45 | 0x46 => some t
  | _ => none

/-- Whether a control word exists. -/
def cwExists (i : Nat) : Bool := i ≤ 0xB || (0x40 ≤ i && i ≤ 0x46)

def execGetcw (x : Nat) (d : SReg) (index : BitVec 11) (s : State) : Host.Outcome State Fault Refusal :=
  .next (s.issue x { w0 := encWord 0x18 d.val 0 0 index.toNat } (!cwExists index.toNat) [] (sregs [d.val])
    (fun s _ t =>
      -- a GETCW of ARITH waits for every earlier instruction (R123): a late load is one
      if index = 0#11 && t.loads ≠ [] then .stay s .waitData .none
      else match s.readCw x t index.toNat with
        | some v => .go s (t.setS d.val v) none
        | none => .fault .ILLEGAL 0 0))

def execSetcw (x : Nat) (index : BitVec 11) (a : SReg) (s : State) : Host.Outcome State Fault Refusal :=
  .next (s.issue x { w0 := encWord 0x19 0 a.val 0 index.toNat } (!cwExists index.toNat) (sregs [a.val]) []
    (fun s _ t =>
      match t.writeCw index.toNat (t.sreg a.val) with
      | some t => .go s t none
      | none => .fault .ILLEGAL 0 0))

end Sys2Proof.Machine
end

