-- ==== Sys2Proof/Machine/Events.lean ====
section
/-! DEFINITION. The event unit (R456, R460 to R462), stalled cores (R465), and words that are no instruction (R134). -/

namespace Sys2Proof.Machine

/-! ### The event unit -/

/-- The eight words of an event record (R456). -/
def Event.words (e : Event) (seq : Nat) : List Nat :=
  let w := classNumber e.cls + (Config.eventData (codeNumber e.code) e.data).toNat * 2 ^ 8
  [seq, seq / 2 ^ 32, e.usec, e.source + 2 ^ 16 * codeNumber e.code, w, w / 2 ^ 32, w / 2 ^ 64, w / 2 ^ 96].map (· % 2 ^ 32)

/-- A record handed to the log (R462): every record of class CORRECTED and above, INFO records up to INFO_PER_S in a second; a page of 128
goes to log flash. -/
def State.logRecord (s : State) (cls : EvClass) (bytes : List Byte) : State :=
  let sec := s.usecN.toNat / 1000000
  let n := if s.fw.infoSec = sec then s.fw.infoCount else 0
  let copy := fun (s : State) =>
    let p := s.fw.page ++ bytes
    if p.length < 4096 then { s with fw := { s.fw with page := p } }
    else State.queueFlash { s with fw := { s.fw with page := [] } } (.events p)
  if cls ≠ .info then copy s
  else if n < s.fld Reg.EV_CTL 0 16 then copy { s with fw := { s.fw with infoSec := sec, infoCount := n + 1 } }
  else State.count { s with fw := { s.fw with infoSec := sec, infoCount := n } } Reg.EV_INFO_DROPPED 0 32 1

/-- The functions' event vectors sent (R377). -/
def State.signalEvent (s : State) : State :=
  ((List.range 16).filter (fun f => s.busMaster.get false f && !(s.fn f).muted)).foldl (fun s f => s.emit (.msix f (s.fld (Reg.PC_EV_VECTOR f) 0 7))) s

/-- EVENT_RECORD: the oldest event raised is numbered, written to the ring and handed to the log. Events of S0 and S1 wait for S2 (R460).
`wasRead` says that the entry written has been read since it was last written. -/
def State.recordEvent (s : State) (wasRead : Bool) : State :=
  if !s.power.s1 || s.fld Reg.PC_BOOT 0 3 < 2 then s else
  match s.evq with
  | [] => s
  | e :: rest =>
    let seq := s.rd2 Reg.EV_LAST_LO Reg.EV_LAST_HI + 1
    let i := seq % 8192 * 8
    let old := s.rd2 (Reg.EV_WIN i) (Reg.EV_WIN (i + 1))
    let s : State := { s with evq := rest }
    let s := if old ≠ 0 && !wasRead then s.setBit Reg.EV_STATUS 0 true else s
    let ws := e.words seq
    let s := ws.zipIdx.foldl (fun s w => s.wr (Reg.EV_WIN (i + w.2)) (BitVec.ofNat 32 w.1)) s
    let s := (s.wr Reg.EV_LAST_LO (BitVec.ofNat 32 seq)).wr Reg.EV_LAST_HI (BitVec.ofNat 32 (seq / 2 ^ 32))
    let s := s.logRecord e.cls (ws.flatMap (toBytes 4))
    if 2 ≤ classNumber e.cls then s.signalEvent else s

def execEventRecord (wasRead : Bool) (s : State) : Host.Outcome State Fault Refusal := .next (s.recordEvent wasRead)

/-! ### Time -/

/-- Microseconds of the south counter in the next microsecond of the north one: the oscillators differ by at most 100 ppm (R23), so that
once in 10,000 it may be none or two, a free value (DESIGN CHOICE, log entry 1). -/
def State.southStep (s : State) : Nat := if (s.usecN.toNat + 1) % 10000 = 0 then Config.freeNat s.free % 3 else 1

/-- One microsecond of the north counter with no command: what was sent out has gone, and both headframes' counters advance while they are
out of reset (R23). On a full second SECONDS_ON counts and REMAINING_S follows. -/
def State.idle (s : State) : State :=
  let s : State := { s with out := [] }
  if !s.power.s1 || !s.power.rails then s else
  let s : State := { s with usecN := s.usecN + 1#64, usecS := s.usecS + BitVec.ofNat 64 s.southStep, free := s.free + 1 }
  if s.usecN.toNat % 1000000 ≠ 0 then s else
  let s := s.count (Reg.SC_PWR_HIST 6) 0 32 1
  match s.sec.levelUntil with
  | some t => s.setFld Reg.SC_DEBUG 3 16 ((999999 + (t - s.usecN.toNat)) / 1000000)
  | none => s

/-! ### Stalled cores -/

/-- CORE_STALL_FENCE: a context READY for 4,096 hs in which its core issued nothing fences the core, cause 2. -/
def State.stallFence (s : State) (x : Nat) : State :=
  if x < 10240 * 128 && (s.context x).phase = .ready then s.fenceCore (motifOf x) (coreOf x) 2 else s

def execCoreStallFence (x : Nat) (s : State) : Host.Outcome State Fault Refusal := .next (s.stallFence x)

/-! ### Legal words (R132 to R134) -/

/-- Whether a conversion's formats and part are legal (R139, R146). -/
def cvtLegal (src dst part : Nat) : Bool :=
  match Fmt.ofCode src, Fmt.ofCode dst with
  | some f, some g => f ≠ g && decide (part < (if f.isLane then 8 else partsOf f)) && decide (part < (if g.isLane then 8 else partsOf g)) &&
      !(f.isLane && g.isLane && part ≠ 0)
  | _, _ => false

/-- Whether the fields of an opcode are legal; `fn` is 0 in a long form. -/
def fieldsLegal (op d a b fn : Nat) : Bool :=
  let f := fun (lo n : Nat) => bitsOf fn lo n
  match op with
  | 0x01 => fn ≤ 9 || fn = 0xB
  | 0x02 | 0x03 | 0x04 | 0x05 => b = 0
  | 0x06 => fn ≤ 2
  | 0x08 | 0x09 => a = 0 && b = 0
  | 0x0A => b = 0
  | 0x0B => d = 0
  | 0x0C => d < 8 && b = 0
  | 0x0D => d = 0 && b < 8
  | 0x10 | 0x11 | 0x12 | 0x13 => d = 0
  | 0x14 => d = 0 && b = 0
  | 0x15 => b = 0
  | 0x18 => a = 0 && b = 0 && cwExists fn
  | 0x19 => d = 0 && b = 0 && cwExists fn
  | 0x1C => b = 0 && fn < 256
  | 0x1D => d = 0 && b = 0 && 1 ≤ fn && fn < 256
  | 0x1E =>
    match f 0 4 with
    | 1 => fn = 1 && a < 16 && a % 2 = 0 && b = 0
    | 2 => fn = 2 && d = 0
    | 3 => d = 0 && a = 0 && b = 0 && f 4 2 ≠ 0 && fn < 64
    | 0 | 4 | 5 => fn < 16 && d = 0 && a = 0 && b = 0
    | _ => false
  | 0x20 => d < 16 && b = 0
  | 0x21 => d < 8 && b < 16
  | 0x22 =>
    d < 16 && a < 16 && b < 16 &&
    (match f 0 6 with
     | 0 | 1 | 2 | 4 | 5 => f 6 2 ≤ 2
     | 3 => f 6 2 ≤ 1
     | 6 | 7 | 8 => f 6 2 ≤ 1 && b = 0
     | _ => false)
  | 0x24 => d < 16 && a < 16 && b % 2 = 0 && cvtLegal (f 0 4) (f 4 4) (b / 4)
  | 0x25 => d < 16 && a < 16 && (if bitOf fn 0 then !bitOf fn 1 else decide (f 3 3 < partsOf (quantFmt (BitVec.ofNat 2 (f 6 2)))))
  | 0x26 => d < 16 && a < 16 && !bitOf fn 0 && !bitOf fn 2 && decide (f 3 3 < partsOf (quantFmt (BitVec.ofNat 2 (f 6 2))))
  | 0x27 => d < 16 && a < 16 && b < 16 && f 6 2 ≤ 1 && f 0 6 ≤ 6
  | 0x28 => a < 16 && b = 0 && f 0 2 ≤ 2 && f 2 4 = 0 && f 6 2 ≤ 2
  | 0x29 => d < 16 && a < 16 && b < 16 && f 0 8 = 0
  | 0x2A => d < 8 && a < 16 && b < 16 && f 3 3 = 0 && f 6 2 ≤ 2 && (f 0 3 ≤ 3 || (f 0 3 = 4 && f 6 2 ≠ 2))
  | 0x2B => b = 0 && f 1 7 = 0 && (if bitOf fn 0 then decide (a < 16) else decide (d < 16))
  | 0x30 => d = 0 && b = 0 && fn < 16 && (!bitOf fn 0 || a = 0)
  | 0x31 => d = 0 && a = 0 && b = 0 && f 2 1 = 0 && fn < 32
  | 0x32 => d = 0 && a < 8 && fn < 8
  | 0x33 => d = 0 && a < 8 && fn < 1024
  | 0x34 => d = 0 && a = 0 && b = 0 && fn < 8 && !bitOf fn 0
  | 0x35 => d < 8 && fn < 512
  | 0x36 => a = 0 && b = 0 && fn < 8
  | 0x38 | 0x39 | 0x3A => d < 8 && a < 8 && fn = 0
  | _ => false

/-- The opcodes with a long form (R133). -/
def hasLong (op : Nat) : Bool :=
  (2 ≤ op && op ≤ 5) || op = 8 || (0xA ≤ op && op ≤ 0xD) || (0x10 ≤ op && op ≤ 0x15) || op = 0x20 || op = 0x21
/-- The loads and stores, whose long form names a SPACE. -/
def isMem (op : Nat) : Bool := (0xA ≤ op && op ≤ 0xD) || op = 0x20 || op = 0x21

/-- Whether a word, with the word after it for a long form, is a legal instruction. -/
def legalWords (w0 w1 : Nat) : Bool :=
  let op := bitsOf w0 26 6
  let d := bitsOf w0 21 5
  let a := bitsOf w0 16 5
  let b := bitsOf w0 11 5
  if op = 0x3F then
    let o := bitsOf w0 5 6
    hasLong o && bitsOf w0 2 3 = 0 && (isMem o || bitsOf w0 0 2 = 0) && fieldsLegal o d a b 0 &&
      !(0x10 ≤ o && o ≤ 0x15 && w1 % 4 ≠ 0)
  else fieldsLegal op d a b (bitsOf w0 0 11)

/-- UNASSIGNED_INSTRUCTION: a task issues a word that is no legal instruction, which is refused with ILLEGAL. -/
def State.issueIllegal (s : State) (x : Nat) (w0 w1 : Word) : State :=
  if legalWords w0.toNat w1.toNat then s else
  let long := bitsOf w0.toNat 26 6 = 0x3F
  s.issue x { w0 := w0.toNat, w1 := if long then w1.toNat else 0, long := long } true [] [] (fun s _ t => .go s t none)

def execUnassignedInstruction (x : Nat) (w0 w1 : Word) (s : State) : Host.Outcome State Fault Refusal := .next (s.issueIllegal x w0 w1)

end Sys2Proof.Machine
end

