-- ==== Sys2Proof/Machine/Views.lean ====
section
/-! DEFINITION. What a register shows on a read. Most registers show their stored word; those that follow another piece of State (a queue's
fill, a context's STATE, an array's sets) are computed from it here. -/

namespace Sys2Proof.Machine

/-- The block of `n` copies at a stride from `base` that holds an offset. -/
def inBlock (base stride n a : Nat) : Bool := base ≤ a && a < base + stride * n
/-- The index of the copy that holds an offset of a block. -/
def blockIndex (base stride a : Nat) : Nat := (a - base) / stride

/-! ### Arrays (R475) -/

/-- SET0 to ACTIVE_STAT of MA_STATE and MA_QSTATE: the sets and what is active in an engine. -/
def Engine.setsWord (e : Engine) : Nat :=
  let code := fun (p : SetPhase) => match p with | .empty => 0 | .accumulating => 1 | .draining => 2
  code e.set0.phase + 4 * code e.set1.phase + 16 * b2n e.active + 32 * b2n e.stat
/-- The engine whose claim covers a quadrant: the whole array's in full mode. -/
def State.engineOver (s : State) (m q : Nat) : Engine := if (s.engine m 4).owner.isSome then s.engine m 4 else s.engine m q
/-- CLAIMED. -/
def State.claimedQuads (s : State) (m : Nat) : Nat :=
  ((List.range 4).map (fun q => 2 ^ q * b2n (s.engineOver m q).owner.isSome)).sum
/-- MA_STATE: in quadrant mode the per-claim fields are those of the lowest claimed quadrant, and their reset values where none is claimed. -/
def State.maState (s : State) (m : Nat) : Nat :=
  let full := (s.engine m 4).owner.isSome
  let c := s.claimedQuads m
  let e := ((List.range 4).find? (fun q => bitOf c q)).map (s.engineOver m)
  let e := e.getD {}
  e.setsWord + 64 * b2n (!full && c ≠ 0) + 128 * e.pass + 512 * c + 8192 * min 31 (s.queueFill m) + 262144 * b2n (s.array m).suspect +
    524288 * b2n ((List.range 5).any (fun u => (s.engine m u).drain = .replaying))
/-- MA_QSTATE_q. -/
def State.maQState (s : State) (m q : Nat) : Nat :=
  let e := s.engineOver m q
  let e := if e.owner.isSome then e else {}
  e.setsWord + 64 * e.pass + 256 * b2n e.owner.isSome

/-! ### Motifs (R153, R160, R170, R184) -/

/-- STATE of a context in MT_CTX_STATE: a core fenced or held as spare is OFFLINE. -/
def State.ctxCode (s : State) (m k c : Nat) : Nat :=
  if s.coreFenced m k || s.coreSpare m k then phaseCode .offline else phaseCode (s.context (m * 128 + k * 4 + c)).phase
def State.ctxStateWord (s : State) (m k : Nat) : Nat := ((List.range 4).map (fun c => s.ctxCode m k c * 256 ^ c)).sum
/-- MT_TOK_DATA of the token in MT_TOK_SEL. -/
def State.tokWord (s : State) (m : Nat) : Nat :=
  let t := s.token (m * 256 + s.fld (Reg.MT_TOK_SEL m) 0 8)
  t.count % 256 + 256 * b2n t.err + 512 * b2n t.sat + 1024 * min 128 t.waiters.length
/-- MT_CMD_STATE: an XFER queue lists its running commands, four at most, first. -/
def State.cmdStateWord (s : State) (m : Nat) : Nat :=
  let n := (s.xfers m).length
  min 31 (n - 4) + 32 * min 4 n + 256 * min 3 (s.chainsOf m).length
/-- MT_QUEUE. -/
def State.queueWord (s : State) (m : Nat) : Nat :=
  let q := s.queue m
  min 127 q.length + 128 * min 127 (q.filter (fun k => s.classOf (slotOf k) = 0)).length

/-! ### Banks and tables -/

/-- BK_POWER.CURRENT: the state in force under the module's power state (R221). A bank that is off stays off. -/
def State.bankCurrent (s : State) (b : Nat) : Nat :=
  let p := panelOfBank b
  if s.fld (Reg.PW_PANEL p) 16 10 = 0 || 3 ≤ s.fld Reg.PW_STATE 8 3 then 2
  else if s.panelDown p then max 1 (s.fld (Reg.BK_POWER b) 2 2) else s.fld (Reg.BK_POWER b) 2 2
/-- FACE_FREE: the free 64-byte lines of the banks that a hoist owns. -/
def State.faceFree (s : State) (h : Nat) : Nat :=
  1536 * (s.banksOf 2 h).length - ((s.faceSpans h).map (fun u => (u.2 + 63) / 64)).sum
/-- HF_FLASH_WEAR: the blocks retired of the event log and of the core-sample region. -/
def State.wearWord (s : State) : Nat := s.retiredIn logBlock + 2 ^ 11 * s.retiredIn 96
/-- The word at an offset of HF_CS_WIN: the page of the core sample that HF_CS_SEL selects, zeros past its length (R401). -/
def State.csWord (s : State) (o : Nat) : Word :=
  let from_ := 4096 * s.fld Reg.HF_CS_SEL 7 8 + o
  BitVec.ofNat 32 (ofBytes (((s.sampleAt (s.fld Reg.HF_CS_SEL 0 6) (s.fld Reg.HF_CS_SEL 6 1)).drop from_).take 4))

/-- The high words that show what a read of their low word latched (R27, R357). -/
def isLatchedHi (a : Nat) : Bool :=
  a = Reg.HF_USEC_HI 0 || a = Reg.HF_USEC_HI 1 || a = Reg.EV_LAST_HI || a = Reg.CN_ENERGY_HI ||
  (inBlock (Reg.MA_STATE 0) 0x100 10240 a && a % 0x100 = 0x24) || (inBlock (Reg.PN_JOB_CTL 0) 0x80 64 a && a % 0x80 = 0x18) ||
  (inBlock (Reg.UP_JOB_CTL 0) 0x80 64 a && a % 0x80 = 0x34) ||
  (inBlock (Reg.FM_CTL 0) 0x2000 8 a && 0x100 ≤ a % 0x2000 && a % 0x2000 < 0x120 && a % 8 = 4)

/-- What a read of a register shows. An offset of panels 1 to 3's mirrored blocks shows panel 0's. -/
def State.view (s : State) (a : Nat) : Word :=
  let a := regHome a
  let num := BitVec.ofNat 32
  if isLatchedHi a then s.latch.get 0#32 a
  else if a = Reg.HF_USEC_LO 0 then s.usecN.setWidth 32
  else if a = Reg.HF_USEC_LO 1 then s.usecS.setWidth 32
  else if a = Reg.HF_FLASH_WEAR then num s.wearWord
  else if a = Reg.HF_FLASH_ERASES then num ((s.flash.erases.map (·.2)).foldl max 0)
  else if inBlock (Reg.HF_CS_WIN 0) 4 1024 a then s.csWord (a - Reg.HF_CS_WIN 0)
  else if a = Reg.EM_SHCOUNT then num (s.shardLoads.get 0 (s.fld Reg.EM_SHSEL 0 18))
  else if inBlock (Reg.HS_QUEUE 0) 0x1000 64 a && a % 0x1000 = 4 then num (s.banksOf 2 (blockIndex (Reg.HS_QUEUE 0) 0x1000 a)).length
  else if inBlock (Reg.HS_QUEUE 0) 0x1000 64 a && a % 0x1000 = 8 then num (s.faceFree (blockIndex (Reg.HS_QUEUE 0) 0x1000 a))
  else if inBlock (Reg.UP_JOB_CTL 0) 0x80 64 a && a % 0x80 = 0x24 then
    num (setBits (s.rd a).toNat 0 16 (s.myModule (blockIndex (Reg.UP_JOB_CTL 0) 0x80 a)))
  else if inBlock (Reg.PN_PLAIT_STATE 0) 0x40000 4 a && a % 0x40000 = 0x100 then
    num (setBits (s.rd a).toNat 2 7 (s.openInPanel (blockIndex (Reg.PN_PLAIT_STATE 0) 0x40000 a)))
  else if inBlock (Reg.GD_PLAIT_STATE 0) 0x1000 160 a && a % 0x1000 = 0x100 then
    num (setBits (s.rd a).toNat 1 5 (s.openInGround (blockIndex (Reg.GD_PLAIT_STATE 0) 0x1000 a)))
  else if inBlock (Reg.BK_OWNER 0) 0x40 40960 a && a % 0x40 = 4 then
    num (setBits (s.rd a).toNat 2 2 (s.bankCurrent (blockIndex (Reg.BK_OWNER 0) 0x40 a)))
  else if inBlock 0x800000 0x400 10240 a then
    let m := blockIndex 0x800000 0x400 a
    let o := a % 0x400
    if 0x180 ≤ o && o < 0x200 then num (s.ctxStateWord m ((o - 0x180) / 4))
    else if o = 0x264 then num (s.tokWord m)
    else if o = 0x268 then num (s.cmdStateWord m)
    else if o = 0x2C4 then num (s.queueWord m)
    else s.rd a
  else if inBlock (Reg.MA_STATE 0) 0x100 10240 a then
    let m := blockIndex (Reg.MA_STATE 0) 0x100 a
    let o := a % 0x100
    if o = 0 then num (s.maState m)
    else if o = 0x20 then (s.array m).tiles.setWidth 32
    else if 0x40 ≤ o && o < 0x50 then num (s.maQState m ((o - 0x40) / 4))
    else s.rd a
  else s.rd a

/-- The high word that a read of a latched pair's low word latches. -/
def State.hiWord (s : State) (a : Nat) : Word :=
  if a = Reg.HF_USEC_LO 0 then (s.usecN >>> 32).setWidth 32
  else if a = Reg.HF_USEC_LO 1 then (s.usecS >>> 32).setWidth 32
  else if inBlock (Reg.MA_STATE 0) 0x100 10240 a then ((s.array (blockIndex (Reg.MA_STATE 0) 0x100 a)).tiles >>> 32).setWidth 32
  else s.rd (a + 4)

end Sys2Proof.Machine
end

