-- ==== Sys2Proof/Machine/Regs.lean ====
section
/-! DEFINITION. Register writes and the reads that change state (R6, R21, R27, R28, R357): what a write does beyond its access codes, who may
write, ring registers (R376, R384) and bridges. -/

namespace Sys2Proof.Machine

/-! ### Who may write -/

/-- The job slot registers, which the host changes only by capsule (R208). -/
def isJobReg (a : Nat) : Bool := Reg.PN_JOB_CTL 0 ≤ a && a < Reg.PN_JOB_CTL 64
/-- The registers of a function's block that the PF alone writes. -/
def isPfReg (o : Nat) : Bool := [0x004, 0x008, 0x00C, 0x01C, 0x020, 0x024, 0x028].contains o
/-- What the debug access port writes below INVASIVE: the command mailbox, and in BLANK the level (R416, R418). -/
def State.dapReg (s : State) (a : Nat) : Bool :=
  a = Reg.SC_CTL || (Reg.SC_CMD 0 ≤ a && a < Reg.SC_CMD 64) || (a = Reg.SC_DEBUG && s.lifeCycle = 0)
/-- Whether a writer's write reaches a register. Before S3 the host reaches the PC and HF blocks alone (R385). -/
def State.mayWrite (s : State) (w : Writer) (a : Nat) : Bool :=
  match w with
  | .firmware => true
  | .host f =>
    if f = 0 then !isJobReg a && (decide (3 ≤ s.fld Reg.PC_BOOT 0 3) || a < 0x80000)
    else f < 16 && Reg.PC_LEASE f ≤ a && a < Reg.PC_LEASE (f + 1) && !isPfReg (a % 0x1000)
  | .dap => s.debugLevel = 2 || s.dapReg a
  | _ => false

/-! ### Completion rings (R376, R384) -/

/-- The records that wait for a ring with room: written in order, or lost where the function's writes are stopped. -/
def State.releaseRing (s : State) (r : Nat) : State :=
  let l := (s.ring r).waiting
  if (s.fn (r / 16)).muted || !s.busMaster.get false (r / 16) then
    l.foldl (fun s c => s.writeRecord r c) (s.setRing r { s.ring r with waiting := [] })
  else s.drainRing r l.length

/-- RING_HEAD_WRITE: HEAD advanced by the host. -/
def State.ringHeadWrite (s : State) (f q : Nat) (v : Word) : State :=
  if 16 ≤ f || 16 ≤ q || !s.power.s1 then s
  else (s.setFld (Reg.PC_RING_PTR f q) 0 16 (v.toNat % 2 ^ 16)).releaseRing (16 * f + q)

/-- A ring as a write of its base or size leaves it. -/
def State.resetRing (s : State) (f q : Nat) : State :=
  let s := s.wr (Reg.PC_RING_PTR f q) 0#32
  (s.setRing (16 * f + q) { s.ring (16 * f + q) with flipped := false, unsignalled := 0 }).releaseRing (16 * f + q)

/-- RING_CONFIG_WRITE: a write of RING_BASE_LO (0), RING_BASE_HI (4) or the word that holds RING_SIZE (8). While the lease is live only
PHASE_LAST and VECTOR change. -/
def State.ringConfigWrite (s : State) (f q off : Nat) (v : Word) : State :=
  if 16 ≤ f || 16 ≤ q || !s.power.s1 then s else
  let cfg := Reg.PC_RING_CFG f q
  let live := s.leaseLive f
  if off = 8 then
    let s := s.setFld cfg 5 8 (bitsOf v.toNat 5 8)
    if live then s else (s.setFld cfg 0 5 (max 6 (min 16 (bitsOf v.toNat 0 5)))).resetRing f q
  else if off = 0 || off = 4 then
    if live then s else (s.wr (Reg.PC_RING_BASE_LO f q + off) v).resetRing f q
  else s

/-! ### Writes with an effect of their own -/

/-- A window, MT_JOBS or UP_JOB write: at once where no step of a job slot named runs, otherwise at the boundary (R183, R204 order 10). -/
def State.deferWrite (s : State) (slots : List Nat) (a : Nat) (v : Word) : State :=
  if slots.any s.stepRuns then { s with regPending := s.regPending.filter (fun e => e.1 ≠ a) ++ [(a, v)] }
  else s.applyPending (a, v)
/-- The job slots that a word of a window or MT_JOBS register names. -/
def slotsNamed (v : Word) : List Nat := (List.range 64).filter (namesSlot v)

/-- HF_FW_CTL: ACTIVATE_ON_BOOT goes through to the boot record; ACTIVATE acts at once, and STAGE and SAMPLE stand until the update agent
and the supervisor serve them. -/
def State.fwCtlWrite (s : State) (v : Word) : State :=
  let s := s.regStore Reg.HF_FW_CTL v
  let s : State := { s with flash := { s.flash with activateOnBoot := bitOf v.toNat 2 } }
  let s := s.setBit Reg.HF_FW_CTL 1 false
  if bitOf v.toNat 1 then s.activate else s

/-- SC_CTL. -/
def State.scCtlWrite (s : State) (v : Word) : State :=
  let n := v.toNat
  let s := if bitOf n 0 then s.nonceNew else s
  let s := if bitOf n 1 then s.cmdGo else s
  s.quoteGo v

/-- HF_GROUP_j +0x04: the epoch starts at 1 when the group forms (R330). -/
def State.groupWrite (s : State) (a : Nat) (v : Word) : State := s.declWrite (a, v)

/-- MM_PLCA: a NODE_ID of 0 is ignored (R361). MM_CTL: PLCA_ACTIVE needs PLCA_EN. -/
def State.plcaWrite (s : State) (v : Word) : State :=
  s.regStore Reg.MM_PLCA (if bitsOf v.toNat 0 8 = 0 then BitVec.ofNat 32 (setBits v.toNat 0 8 (s.fld Reg.MM_PLCA 0 8)) else v)
def State.mmCtlWrite (s : State) (v : Word) : State :=
  let s := s.regStore Reg.MM_CTL v
  if bitOf v.toNat 1 then s else s.setBit Reg.MM_STATE 0 false

/-- The hottest sensor's reading in PW_THERM. -/
def State.tjMax (s : State) : Int := let b := s.fld Reg.PW_THERM 0 8; if b < 128 then (b : Int) else (b : Int) - 256
/-- PW_FAN and PW_THERM: the duty follows (R455). -/
def State.fanWrite (s : State) (a : Nat) (v : Word) : State :=
  let v := if a = Reg.PW_FAN then BitVec.ofNat 32 (setBits v.toNat 7 7 (max 30 (min 100 (bitsOf v.toNat 7 7)))) else v
  (s.regStore a v).setFan s.tjMax

/-- A plain write of the word that makes a deep window valid: it opens no window of a function whose lease has expired, which only a
declaration reopens (R247, R384). -/
def State.winCtlWrite (s : State) (w : Nat) (v : Word) : State :=
  let s := s.regStore (Reg.HF_DEEP_WIN_CTL w) v
  if s.bit (Reg.PC_LEASE (s.winFn w)) 14 then { s with closed := s.closed.put false w true } else s

/-- The effect of a write that reaches its register. -/
def State.writeReg (s : State) (w : Writer) (a : Nat) (v : Word) : State :=
  let n := v.toNat
  if a = Reg.EM_TSEL then
    let s := s.regStore a v
    let s := if bitOf n 13 then s.tselStore w v else s
    let s := if bitOf n 12 then s.tselLoad v else s
    s.setFld a 12 2 0
  else if a = Reg.EM_PUBLISH then if bitOf n 12 then s.publishWrite w v else s.regStore a v
  else if a = Reg.HF_COLL_SEL then
    let s := s.regStore a v
    let s := if bitOf n 11 then s.collStore w v else s
    let s := if bitOf n 10 then s.collLoad v else s
    s.setFld a 10 2 0
  else if inBlock (Reg.PN_PLAIT_CTL 0) 0x80 256 a || inBlock (Reg.HF_GROUP_ID 0) 0x20 64 a || inBlock (Reg.PN_JOB_CTL 0) 0x80 64 a ||
      a = Reg.HF_LD_CFG then s.declWrite (a, v)
  else if inBlock (Reg.FM_CTL 0) 0x2000 8 a && (a % 0x2000 < 8 || (0x40 ≤ a % 0x2000 && a % 0x2000 < 0x80)) then
    s.fmWrite ((a - Reg.FM_CTL 0) / 0x2000) (a % 0x2000) v
  else if inBlock (Reg.BK_OWNER 0) 0x40 40960 a && a % 0x40 = 4 then s.writePower ((a - Reg.BK_OWNER 0) / 0x40) v
  else if inBlock (Reg.BK_OWNER 0) 0x40 40960 a && a % 0x40 = 0x1C then s.writeMarch ((a - Reg.BK_OWNER 0) / 0x40) v
  else if inBlock (Reg.MA_STATE 0) 0x100 10240 a && a % 0x100 = 0xC then s.footCtlWrite ((a - Reg.MA_STATE 0) / 0x100) v
  else if waitsForBoundary a then s.deferWrite (slotsNamed v ++ slotsNamed (s.rd a)) a v
  else if inBlock (Reg.UP_JOB_CTL 0) 0x80 64 a then s.deferWrite [(a - Reg.UP_JOB_CTL 0) / 0x80] a v
  else if inBlock (Reg.PC_LEASE 0) 0x1000 16 a && 0x200 ≤ a % 0x1000 && a % 0x1000 < 0x400 && a % 0x20 ≤ 0xC then
    let f := (a - Reg.PC_LEASE 0) / 0x1000
    let q := a % 0x1000 / 0x20 - 16
    if a % 0x20 = 0xC then s.ringHeadWrite f q v else s.ringConfigWrite f q (a % 0x20) v
  else if inBlock (Reg.HF_DEEP_WIN_CTL 0) 0x20 64 a && a % 0x20 = Reg.HF_DEEP_WIN_CTL 0 % 0x20 then
    s.winCtlWrite ((a - Reg.HF_DEEP_WIN_CTL 0) / 0x20) v
  else if a = Reg.PW_STATE then s.powerWrite v 0
  else if a = Reg.SC_DEBUG then s.levelWrite v
  else if a = Reg.SC_CTL then s.scCtlWrite v
  else if a = Reg.SC_EXT_INDEX then s.extendWrite v
  else if (Reg.SC_CMD 0 ≤ a && a < Reg.SC_CMD 64) || (Reg.SC_EXT_VALUE 0 ≤ a && a < Reg.SC_EXT_VALUE 8) then if s.secUp then s.wr a v else s
  else if a = Reg.HF_FW_CTL then s.fwCtlWrite v
  else if a = Reg.HF_CS_SEL then (s.regStore a v).sampleRead (bitsOf n 0 6) (bitsOf n 6 1)
  else if a = Reg.HF_GFT_CFG then if s.conns = [] then s.regStore a v else s
  else if a = Reg.MM_PLCA then s.plcaWrite v
  else if a = Reg.MM_CTL then s.mmCtlWrite v
  else if a = Reg.PW_TARGET then s.regStore a (BitVec.ofNat 32 (max s.rateFloor (min s.rateMax (bitsOf n 0 16))))
  else if a = Reg.PW_FAN || a = Reg.PW_THERM then s.fanWrite a v
  else s.regStore a v

/-- REGISTER_WRITE. A write of BK_OWNER reaches the bank from every agent, which answers one that may not make it (R215). -/
def State.regWrite (s : State) (w : Writer) (a : Nat) (v : Word) : State :=
  let a := regHome a
  if !s.power.s1 || a % 4 ≠ 0 then s
  else if inBlock (Reg.BK_OWNER 0) 0x40 40960 a && a % 0x40 = 0 then s.handOwner w ((a - Reg.BK_OWNER 0) / 0x40) v
  else if s.mayWrite w a then s.writeReg w a v else s

def execRegisterWrite (by_ : Writer) (a : Nat) (v : Word) (s : State) : Host.Outcome State Fault Refusal := 
  .next (s.byWriter by_ a v (fun w => s.regWrite w a v))

/-- PN_JOBMAP_WRITE: a write in the protection block, which stands for all four panels' copies (R128, R129). -/
def State.jobmapWrite (s : State) (w : Writer) (a : Nat) (v : Word) : State :=
  if inBlock (Reg.PN_JOBMAP_CTL 0) 0x40 64 (regHome a) then s.regWrite w a v else s

def execPnJobmapWrite (by_ : Writer) (a : Nat) (v : Word) (s : State) : Host.Outcome State Fault Refusal := 
  .next (s.byWriter by_ a v (fun w => s.jobmapWrite w a v))

def execRingHeadWrite (fn queue : Nat) (v : Word) (s : State) : Host.Outcome State Fault Refusal := .next (s.ringHeadWrite fn queue v)
def execRingConfigWrite (fn queue off : Nat) (v : Word) (s : State) : Host.Outcome State Fault Refusal := .next (s.ringConfigWrite fn queue off v)

/-! ### Reads that change state -/

/-- STAT_LO_READ: LO of a 64-bit statistics counter of a port (R357). -/
def State.statLo (s : State) (a : Nat) : State :=
  let o := a % 0x2000
  if !s.power.s1 || !inBlock (Reg.FM_CTL 0) 0x2000 8 a || o < 0x100 || 0x120 ≤ o || o % 8 ≠ 0 then s else
  let v := s.rd a
  let s : State := { s with latch := s.latch.put 0#32 (a + 4) (s.rd (a + 4)) }
  ((s.wr a 0#32).wr (a + 4) 0#32).emit (.regData a v)
def execStatLoRead (a : Nat) (s : State) : Host.Outcome State Fault Refusal := .next (s.statLo a)

/-- RC_COUNTER_READ: the value, then zero in its RC fields (R6). -/
def State.rcRead (s : State) (a : Nat) : State :=
  let a := regHome a
  match regRow a with
  | none => s
  | some r =>
    if !s.power.s1 || r.rc = 0 || a % 4 ≠ 0 then s
    else if inBlock (Reg.FM_CTL 0) 0x2000 8 a && 0x100 ≤ a % 0x2000 && a % 0x2000 < 0x120 then s.statLo a
    else
      let w := s.wr a (s.rd a &&& ~~~(BitVec.ofNat 32 r.rc))
      let min := inBlock (Reg.CN_GROUND_RATE 0) 8 160 a
      (if min then { w with power := { w.power with minFresh := w.power.minFresh.put false (blockIndex (Reg.CN_GROUND_RATE 0) 8 a) true } } else w).emit
        (.regData a (s.view a))
def execRcCounterRead (a : Nat) (s : State) : Host.Outcome State Fault Refusal := .next (s.rcRead a)

/-- The low words of the latched pairs (R27). -/
def isLatchedLo (a : Nat) : Bool :=
  a = Reg.HF_USEC_LO 0 || a = Reg.HF_USEC_LO 1 || a = Reg.EV_LAST_LO || a = Reg.CN_ENERGY_LO || (inBlock (Reg.MA_STATE 0) 0x100 10240 a && a % 0x100 = 0x20) ||
  (inBlock (Reg.PN_JOB_CTL 0) 0x80 64 a && a % 0x80 = 0x14) || (inBlock (Reg.UP_JOB_CTL 0) 0x80 64 a && a % 0x80 = 0x30)

/-- LATCHED_LO_READ: the low word, its high word latched. -/
def State.latchedLo (s : State) (a : Nat) : State :=
  let a := regHome a
  if !s.power.s1 || !isLatchedLo a then s
  else State.emit { s with latch := s.latch.put 0#32 (a + 4) (s.hiWord a) } (.regData a (s.view a))
def execLatchedLoRead (a : Nat) (s : State) : Host.Outcome State Fault Refusal := .next (s.latchedLo a)

/-! ### Bridges (R21) -/

/-- BRIDGE_TRANSFER: an entry enters the FIFO of a bridge, or stalls where the FIFO is full; with none entering, the entry at its front
leaves on the other side. -/
def State.bridge (s : State) (hf b : Nat) (toPanel : Bool) (entering : Option Line) : State :=
  if 2 ≤ hf || 32 ≤ b || !s.power.s1 then s else
  let k := bridgeKey hf b toPanel
  let l := s.bridges.get [] k
  let fill := fun (s : State) (l : List Line) =>
    State.setFld { s with bridges := s.bridges.put [] k l } (Reg.HF_BRIDGE hf b) (if toPanel then 0 else 8) 7 l.length
  match entering with
  | some e =>
    if 64 ≤ l.length then s else
    let s := fill s (l ++ [e])
    if l.length = 63 then s.count (Reg.HF_BRIDGE hf b) 16 16 1 else s
  | none =>
    match l with
    | [] => s
    | e :: r => (fill s r).emit (.bridge hf b toPanel e)
def execBridgeTransfer (hf bridge : Nat) (toPanel : Bool) (entering : Option Line) (s : State) : Host.Outcome State Fault Refusal :=
  .next (s.bridge hf bridge toPanel entering)

end Sys2Proof.Machine
end

