-- ==== Sys2Proof/Machine/Host.lean ====
section
/-! DEFINITION. The host interface: configuration requests and windows (R366, R368), capsules and their checks (R369 to R373), declarations,
attachment (R384), and result slots (R378 to R380). -/

namespace Sys2Proof.Machine

/-! ### Configuration requests and windows -/

/-- CONFIG_REQUEST: Request Retry Status until S1 has ended, for at most 1.0 s after the release of PERST_N; then the request is answered. A
write of the Command register (offset 4) sets Bus Master Enable from bit 2. -/
def State.configRequest (s : State) (f : Nat) (write : Option (Nat × Word)) : State :=
  if 16 ≤ f || !s.power.s1 then s
  else if s.fld Reg.PC_BOOT 0 3 < 2 && decide (s.usecN.toNat < 1000000) then s.emit (.cfgRetry f)
  else
    let s := s.emit (.cfgAnswer f)
    match write with
    | some (4, v) => if v.getLsbD 2 then { s with busMaster := s.busMaster.put false f true } else s.masterOff f
    | _ => s
def execConfigRequest (fn : Nat) (write : Option (Nat × Word)) (s : State) : Host.Outcome State Fault Refusal := .next (s.configRequest fn write)

/-- The device address of an access to a function's bank window or BAR4. -/
def State.barAddr (s : State) (f : Nat) (bank : Bool) (off : Nat) : Nat :=
  if bank then 2 ^ 28 * s.fld (Reg.PC_BANKWIN f) 0 4 + off
  else extBase + s.rd2 (Reg.PC_EXT_OFF_LO f) (Reg.PC_EXT_OFF_HI f) + off
/-- Whether the access passes the checks of the function's ranges. -/
def State.barOk (s : State) (f : Nat) (bank : Bool) (a n : Nat) : Bool :=
  if bank then n ≠ 0 && decide (a + n ≤ bankEnd)
  else s.extOk a n && decide (s.rd2 (Reg.PC_EXT_BASE_LO f) (Reg.PC_EXT_BASE_HI f) ≤ a - extBase) &&
    decide (a - extBase + n ≤ s.rd2 (Reg.PC_EXT_LIMIT_LO f) (Reg.PC_EXT_LIMIT_HI f))

/-- Whether an access of the host to a bank finds a bridge on its way full (R21): the PCIe credits then hold it back. -/
def State.barHeld (s : State) (a : Nat) (write : Bool) : Bool :=
  let b := bridgeOf (routerOf (bankOf a / 4)) 0
  s.bridgeFull 0 b true || (!write && s.bridgeFull 0 b false)

/-- BAR_ACCESS: a read, or a write of `data`. One that fails the range check reads zeros or is dropped; one that meets a bank in transition
or a full bridge waits, and its sender holds it. -/
def State.barAccess (s : State) (f : Nat) (bank : Bool) (off size : Nat) (data : Option (List Byte)) : State :=
  if 16 ≤ f || !s.power.s1 || s.fld Reg.PC_BOOT 0 3 < 3 then s else
  let a := s.barAddr f bank off
  let n := match data with | some d => d.length | none => size
  let ag : Agent := if bank then .owner 5 f else .outside
  if !s.barOk f bank a n then (match data with | some _ => s | none => s.emit (.readData (List.replicate n 0#8) false))
  else
    let s := s.wakeSpan ag data.isSome a n
    if !s.spanReady ag data.isSome a n || (bank && s.barHeld a data.isSome) then s else
    match data with
    | some d => s.writeDev ag a d
    | none => let r := s.readDev ag a n []; r.1.emit (.readData r.2.1 r.2.2)
def execBarAccess (fn : Nat) (bank : Bool) (off size : Nat) (data : Option (List Byte)) (s : State) : Host.Outcome State Fault Refusal :=
  .next (s.barAccess fn bank off size data)

/-! ### Capsules (R369 to R371) -/

def capWord (w : List Word) (i : Nat) : Nat := (w.getD i 0#32).toNat
def capOp (w : List Word) : Nat := bitsOf (capWord w 0) 0 8
def capSlot (w : List Word) : Nat := bitsOf (capWord w 0) 8 6
def capSeq (w : List Word) : Nat := capWord w 1
def capRslot (w : List Word) : Option Nat := if bitOf (capWord w 2) 16 then some (bitsOf (capWord w 2) 0 16) else none
/-- Opcodes that act on a job slot. -/
def namesJob (op : Nat) : Bool := op ≠ 1 && op ≠ 2 && op ≠ 12

/-- Whether capsules are taken: in early service and from S5 (R385, R438). -/
def State.takesCapsules (s : State) : Bool := s.fld Reg.PC_BOOT 0 3 = 5 || (3 ≤ s.fld Reg.PC_BOOT 0 3 && s.bit Reg.PC_BOOT 3)
/-- A write discarded and counted in MALFORMED. -/
def State.malformed (s : State) (f : Nat) : State := (s.setBit (Reg.PC_STATUS f) 0 true).count (Reg.PC_COUNTS f) 16 16 1
/-- A capsule discarded for want of a credit. -/
def State.overrun (s : State) (f q : Nat) : State :=
  (s.setStatus (Reg.PC_STATUS f) 1 .PC_CAPSULE_OVERRUN .info (srcFn f) [q]).count (Reg.PC_QUEUE_COUNT f q) 0 16 1

/-- A capsule write arrives: whether it is accepted. One accepted takes a credit and renews a live lease whose timer has not run out; in
DOZE it wakes the module. -/
def State.arrive (s : State) (f q : Nat) : State × Bool :=
  if 16 ≤ f || 16 ≤ q || !s.power.s1 then (s, false) else
  let s := if s.powerState = 2 then s.exitDoze 2 else s
  let credits := s.fld (Reg.PC_QUEUE_CREDITS f q) 0 9
  if !s.takesCapsules then (s.malformed f, false)
  else if credits = 0 then (s.overrun f q, false)
  else
    let s := s.setFld (Reg.PC_QUEUE_CREDITS f q) 0 9 (credits - 1)
    (if s.leaseLive f && !s.leaseOver f then s.setFn f { s.fn f with renewed := s.usecN.toNat } else s, true)

/-- The checks of R371 on an accepted capsule: 0, or the status of the first that fails. -/
def State.checkCapsule (s : State) (f q : Nat) (w : List Word) (more : Bool) : State × Nat :=
  if capSeq w ≠ (s.rd (Reg.PC_QUEUE_SEQ f q)).toNat then (s.count (Reg.PC_QUEUE_COUNT f q) 16 16 1, 2) else
  let s := s.wr (Reg.PC_QUEUE_SEQ f q) (BitVec.ofNat 32 (capSeq w + 1))
  let op := capOp w
  (s,
    if op = 0 || 12 < op then 4
    else if (!s.leaseLive f || s.leaseOver f) && op ≠ 2 then 10
    else if namesJob op && !s.inMask f (capSlot w) then 3
    else match capRslot w with
      | some k => if s.fld (Reg.PC_RSLOTS f) 0 17 ≤ k || (s.result (65536 * f + k)).st ≠ 0 then 6 else if more && s.fld Reg.PC_BOOT 0 3 ≠ 5 then 5 else 0
      | none => if more && s.fld Reg.PC_BOOT 0 3 ≠ 5 then 5 else 0)

/-- An accepted capsule entered in its queue; one that failed a check has ended. -/
def State.enterCapsule (s : State) (r : Nat) (c : CapsuleSt) : State :=
  { s with capsules := s.capsules.put [] r (s.capsules.get [] r ++ [c]) }

/-- A capsule of an opcode that `op` names, which `run` carries out once it passes every check. `more` says that its job needs what early
service does not offer. With a component failed, nobody serves it (R395). -/
def State.capsule (s : State) (f q : Nat) (w : List Word) (op : Nat → Bool) (more : Bool) (run : State → State) : State :=
  if w.length ≠ 32 || !op (capOp w) then s else
  let a := s.arrive f q
  if !a.2 then a.1 else
  let r := 16 * f + q
  let c := a.1.checkCapsule f q w more
  if c.2 ≠ 0 then (c.1.enterCapsule r ⟨capSeq w, capOp w, capSlot w, none, some (c.2, 0)⟩).flushDone r 256
  else
    let s := match capRslot w with
      | some k => c.1.setResult (65536 * f + k) { c.1.result (65536 * f + k) with st := 1, reads := 0 }
      | none => c.1
    let s := s.enterCapsule r ⟨capSeq w, capOp w, capSlot w, capRslot w, none⟩
    if s.fw.crippled && capOp w ≠ 1 then s else run s

/-- APERTURE_WRITE_INVALID: a write to the capsule aperture that is not a capsule, that comes before capsules are taken, or that finds no
credit. -/
def State.apertureWrite (s : State) (f off size : Nat) : State :=
  if 16 ≤ f || 0x100000 ≤ off || !s.power.s1 then s
  else if size ≠ 128 || off % 128 ≠ 0 || !s.takesCapsules then s.malformed f
  else if s.fld (Reg.PC_QUEUE_CREDITS f (off / 0x10000)) 0 9 = 0 then s.overrun f (off / 0x10000)
  else s
def execApertureWriteInvalid (fn off size : Nat) (s : State) : Host.Outcome State Fault Refusal := .next (s.apertureWrite fn off size)

/-- LEASE renews the lease, as every accepted capsule does. -/
def State.leaseCap (s : State) (f q : Nat) (w : List Word) : State :=
  s.capsule f q w (· = 1) false (fun s => s.endCapsule (16 * f + q) (capSeq w) 0 0 [])
def execLeaseCapsule (fn queue : Nat) (words : List Word) (s : State) : Host.Outcome State Fault Refusal := .next (s.leaseCap fn queue words)

/-- BAD_OPCODE_CAPSULE. -/
def State.badCap (s : State) (f q : Nat) (w : List Word) : State := s.capsule f q w (fun op => op = 0 || decide (12 < op)) false id
def execBadOpcodeCapsule (fn queue : Nat) (words : List Word) (s : State) : Host.Outcome State Fault Refusal := .next (s.badCap fn queue words)

/-- ATTACH (R384): the lease restarts, the DONE record echoes the nonce, and each job slot of the function has a NOTICE. -/
def State.attach (s : State) (f q : Nat) (w : List Word) : State :=
  s.capsule f q w (· = 2) false (fun s =>
    let s := (s.setBit (Reg.PC_LEASE f) 14 false).setFn f { renewed := s.usecN.toNat, expiring := false, muted := false }
    let s := s.endCapsule (16 * f + q) (capSeq w) 0 (capWord w 4 + 2 ^ 32 * capWord w 5) []
    (s.slotsOf f).foldl (fun s j =>
      s.noticeRecord j (match s.slices.get none j with | some sl => if sl.byLease then 14 else 0 | none => 0)) s)
def execAttach (fn queue : Nat) (words : List Word) (s : State) : Host.Outcome State Fault Refusal := .next (s.attach fn queue words)

/-! ### Declarations (R373) -/

/-- The records of a declaration up to its end; none where the list is not well formed. -/
def parseDecl : Nat → List Byte → Option (List DeclRec)
  | 0, _ => none
  | fuel + 1, l =>
    if l.length < 16 then none else
    let typ := ofBytes (l.take 4)
    let target := ofBytes ((l.drop 4).take 8)
    let n := ofBytes ((l.drop 12).take 4)
    if typ = 2 then some []
    else if 2 < typ || l.length < 16 + n then none
    else
      let d := (l.drop 16).take n
      match parseDecl fuel (l.drop (16 + (n + 15) / 16 * 16)) with
      | none => none
      | some r =>
        if typ = 1 then some (.mem target d :: r)
        else if n % 4 ≠ 0 || target % 4 ≠ 0 then none
        else some (.regs target (wordsOfBytes (n / 4) d) :: r)

/-- Whether a register offset belongs to a job slot, or to a range that the scheduler has granted it. -/
def ownReg (slot : Nat) (grants : List (Nat × Nat)) (a : Nat) : Bool :=
  inBlock (Reg.PN_JOB_CTL slot) 0x80 1 a || inBlock (Reg.PN_JOBMAP_CTL slot) 0x40 1 a || inBlock (Reg.UP_JOB_CTL slot) 0x80 1 a ||
  inBlock (Reg.EM_JOB_COAL_LO slot - 4) 0x20 1 a || inBlock (Reg.HF_GROUP_ID slot) 0x20 1 a || grants.any (fun g => g.1 ≤ a && a < g.2)

/-- Whether every record is allowed. Ranges are those in force once the register images before a memory image have been applied. -/
def State.declOk (s : State) (slot : Nat) (grants : List (Nat × Nat)) : List DeclRec → Bool
  | [] => true
  | .regs t ws :: r =>
    (List.range ws.length).all (fun i => ownReg slot grants (t + 4 * i)) &&
      State.declOk ((DeclRec.regs t ws).writes.foldl (fun s e => s.regStore e.1 e.2) s) slot grants r
  | .mem t d :: r => (d = [] || s.protect slot t d.length true = none) && State.declOk s slot grants r

/-- The declaration that a capsule names, read from host memory; none where the read fails. -/
def State.readDecl (s : State) (f : Nat) (w : List Word) (host : List Host.Cell) : State × Option (List Byte) :=
  let a := capWord w 4 + 2 ^ 32 * capWord w 5
  let n := capWord w 6
  let s := s.emit (.hostRead f a n false false)
  let l := (List.range n).map (fun i => hostByte host (a + i))
  (s, if !s.busMaster.get false f || l.any Option.isNone then none else some (l.map (·.getD 0#8)))

/-- A declaration read, measured and parsed (R412): none where it is refused. -/
def State.takeDecl (s : State) (f : Nat) (w : List Word) (host : List Host.Cell) (meas : Nat) : State × Option (List DeclRec) :=
  let d := s.readDecl f w host
  match d.2 with
  | none => (d.1, none)
  | some l => (d.1.extendMeas meas (sm3 l), parseDecl (l.length / 16 + 1) l)

/-- The shard map entry at an address: table and shard. -/
def State.shardAt (s : State) (slot a : Nat) : Option (Nat × Nat) :=
  (s.groupTables slot).findSome? (fun n =>
    let base := s.shardAddr n 0
    let count := if s.shardRows n = 0 then 0 else (s.rowsOf n + s.shardRows n - 1) / s.shardRows n
    if base ≤ a && (a - base) % 4 = 0 && decide ((a - base) / 4 < count) then some (n, (a - base) / 4) else none)
/-- The moves that a declaration of shard maps asks for; none where a record is no image of shard map entries. -/
def State.declMoves (s : State) (slot : Nat) : List DeclRec → Option (List ShardMove)
  | [] => some []
  | .regs _ _ :: _ => none
  | .mem t d :: r =>
    let l := ((wordsOfBytes (d.length / 4) d).zipIdx).map (fun e => (s.shardAt slot (t + 4 * e.2), e.1))
    if d.length % 4 ≠ 0 || l.any (fun e => e.1.isNone) then none else
    match s.declMoves slot r with
    | none => none
    | some m => some (l.filterMap (fun e => match e.1 with
        | some (n, k) => if s.shardEntry n k = e.2.toNat then none else some ⟨n, k, bitsOf e.2.toNat 0 16, bitsOf e.2.toNat 16 16⟩
        | none => none) ++ m)

/-! ### Job capsules (R372) -/

/-- JOB_LOAD: the declaration applied to a FREE slot, which is then RUNNING with no step. -/
def State.jobLoad (s : State) (f q : Nat) (w : List Word) (host : List Host.Cell) (grants : List (Nat × Nat)) (more : Bool) : State :=
  s.capsule f q w (· = 3) more (fun s =>
    let slot := capSlot w
    let fin := fun (s : State) (status : Nat) => s.endCapsule (16 * f + q) (capSeq w) status 0 []
    if !s.slotIs slot .free || s.lifeCycle = 3 || 3 ≤ capWord w 7 then fin s 11 else
    match s.takeDecl f w host 8 with
    | (s, none) => fin s 11
    | (s, some l) =>
      if !s.declOk slot grants l then fin s 11 else
      let s := (s.setSlot slot .loading).setJob slot { ring := some (16 * f + q) }
      let s := (s.declApply slot l).setFld (Reg.PN_JOB_CTL slot) 0 2 (capWord w 7)
      let s := (s.setFld (Reg.PN_JOB_LIVE slot) 0 22 0).wr (Reg.PN_JOB_STEPEND slot) 0#32
      fin ((s.deriveJob slot).setSlot slot .running) 0)
/-- JOB_LOAD of a job that needs panels, channels or ports (`more`), or binary32 at PASS 2 or 3 (`passes`), that early service does not
offer (R385). -/
def execJobLoad (fn queue : Nat) (words : List Word) (host : List Host.Cell) (grants : List (Nat × Nat)) (more passes : Bool) (s : State) :
    Host.Outcome State Fault Refusal :=
  .next (s.jobLoad fn queue words host grants (more || passes))

/-- STEPS: steps queued, the first of which may start at once. -/
def State.stepsCap (s : State) (f q : Nat) (w : List Word) : State :=
  s.capsule f q w (· = 4) false (fun s =>
    let slot := capSlot w
    let n := capWord w 4
    let fin := fun (s : State) (status : Nat) => s.endCapsule (16 * f + q) (capSeq w) status 0 []
    if s.slotIdle slot then fin s 8
    else if s.classOf slot = 0 || n = 0 || 65535 < n then fin s 11
    else
      let j := s.job slot
      let s := s.setJob slot { j with stepsQueued := j.stepsQueued + n, stepSeqs := j.stepSeqs ++ [(capSeq w, n)] }
      (fin s 0).nextStep slot)
def execSteps (fn queue : Nat) (words : List Word) (s : State) : Host.Outcome State Fault Refusal := .next (s.stepsCap fn queue words)

/-- WITHDRAW: queued steps that have not started are removed. -/
def State.withdrawCap (s : State) (f q : Nat) (w : List Word) : State :=
  s.capsule f q w (· = 5) false (fun s => (s.withdrawSteps (capSlot w)).endCapsule (16 * f + q) (capSeq w) 0 0 [])
def execWithdraw (fn queue : Nat) (words : List Word) (s : State) : Host.Outcome State Fault Refusal := .next (s.withdrawCap fn queue words)

/-- STOP: a slot that holds a job is STOPPED. -/
def State.stopCap (s : State) (f q : Nat) (w : List Word) : State :=
  s.capsule f q w (· = 6) false (fun s =>
    if s.slotIs (capSlot w) .free then s.endCapsule (16 * f + q) (capSeq w) 11 0 []
    else (s.stopJob (capSlot w)).endCapsule (16 * f + q) (capSeq w) 0 0 [])
def execStop (fn queue : Nat) (words : List Word) (s : State) : Host.Outcome State Fault Refusal := .next (s.stopCap fn queue words)

/-- A slot freed: nothing of its job is left with the scheduler. -/
def State.freeSlot (s : State) (slot : Nat) : State :=
  let s : State := { s with
    slices := s.slices.put none slot none
    regPending := s.regPending.filter (fun e => !inBlock (Reg.UP_JOB_CTL slot) 0x80 1 e.1) }
  (((s.moveEntries slot [1, 2, 3] 0).releaseSlot slot).setJob slot {}).setSlot slot .free
/-- FREE: a STOPPED or DONE slot is FREE. -/
def State.freeCap (s : State) (f q : Nat) (w : List Word) : State :=
  s.capsule f q w (· = 7) false (fun s =>
    if s.slotIs (capSlot w) .stopped || s.slotIs (capSlot w) .done then (s.freeSlot (capSlot w)).endCapsule (16 * f + q) (capSeq w) 0 0 []
    else s.endCapsule (16 * f + q) (capSeq w) 11 0 [])
def execFree (fn queue : Nat) (words : List Word) (s : State) : Host.Outcome State Fault Refusal := .next (s.freeCap fn queue words)

/-- A RESUME that waited for the restore ends, and the group's peers hear PEER_BACK (R384). -/
def State.finishResume (s : State) (slot : Nat) : State :=
  if s.slotIs slot .sliced || !s.capsules.any (fun e => e.2.any (fun c => c.slot = slot && c.done = none && c.opcode = 8)) then s
  else if s.slotIs slot .stopped then s.endCapsulesOf slot 8 (· = 8)
  else
    let s := if s.grouped slot then
        ((List.range (s.groupSize slot)).filter (fun i => i ≠ s.myModule slot)).foldl (fun s i => s.sendCtrl slot i 8 []) s
      else s
    s.endCapsulesOf slot 0 (· = 8)
/-- RESUME: a job sliced by lease expiry is restored, at once where its banks allow. -/
def State.resumeCap (s : State) (f q : Nat) (w : List Word) (moves : List (Nat × Nat)) : State :=
  s.capsule f q w (· = 8) false (fun s =>
    let slot := capSlot w
    match s.slices.get none slot with
    | some sl =>
      if s.slotIs slot .sliced && sl.byLease then (s.sliceRestore slot moves).finishResume slot
      else s.endCapsule (16 * f + q) (capSeq w) 11 0 []
    | none => s.endCapsule (16 * f + q) (capSeq w) 11 0 [])
def execResume (fn queue : Nat) (words : List Word) (moves : List (Nat × Nat)) (s : State) : Host.Outcome State Fault Refusal :=
  .next (s.resumeCap fn queue words moves)

/-- SLICE_RESTORE, which a RESUME may have asked for. -/
def execSliceRestore (slot : Nat) (moves : List (Nat × Nat)) (s : State) : Host.Outcome State Fault Refusal :=
  .next ((s.sliceRestore slot moves).finishResume slot)

/-- The payload of a SERVE capsule: bytes 32 to 127 inline, or read from host memory. -/
def State.servePayload (s : State) (f : Nat) (w : List Word) (host : List Host.Cell) : State × Option (List Byte) :=
  if bitOf (capWord w 6) 31 then (s, some ((w.drop 8).flatMap (fun v => toBytes 4 v.toNat))) else s.readDecl f w host
/-- SERVE: a request enters the ledger with its payload. -/
def State.serveCap (s : State) (f q : Nat) (w : List Word) (host : List Host.Cell) : State :=
  s.capsule f q w (· = 9) false (fun s =>
    let slot := capSlot w
    let fin := fun (s : State) (status : Nat) => s.endCapsule (16 * f + q) (capSeq w) status 0 []
    if !s.takesRequests slot true then fin s 8 else
    match s.servePayload f w host with
    | (s, none) => fin s 12
    | (s, some p) =>
      match s.freeLedger 0 with
      | none => fin s 13
      | some e => s.enterRequest e { slot := slot, capsule := true, reqId := capSeq w, origin := 16 * f + q, payload := p })
def execServe (fn queue : Nat) (words : List Word) (host : List Host.Cell) (s : State) : Host.Outcome State Fault Refusal :=
  .next (s.serveCap fn queue words host)

/-- SET: the declaration is applied at the slot's next order 10, or at once where no step runs. -/
def State.setCap (s : State) (f q : Nat) (w : List Word) (host : List Host.Cell) (grants : List (Nat × Nat)) (more : Bool) : State :=
  s.capsule f q w (· = 10) more (fun s =>
    let slot := capSlot w
    let fin := fun (s : State) (status : Nat) => s.endCapsule (16 * f + q) (capSeq w) status 0 []
    if s.slotIdle slot then fin s 11 else
    match s.takeDecl f w host 9 with
    | (s, none) => fin s 11
    | (s, some l) =>
      if !s.declOk slot grants l then fin s 11
      else if (s.job slot).inStep then s.setJob slot { s.job slot with setRecs := (s.job slot).setRecs ++ l }
      else fin (s.declApply slot l) 0)
def execSetDecl (fn queue : Nat) (words : List Word) (host : List Host.Cell) (grants : List (Nat × Nat)) (more : Bool) (s : State) :
    Host.Outcome State Fault Refusal :=
  .next (s.setCap fn queue words host grants more)

/-- RESHARD: the shard moves of a declaration are queued for the slot's next boundary (R333). -/
def State.reshardCap (s : State) (f q : Nat) (w : List Word) (host : List Host.Cell) : State :=
  s.capsule f q w (· = 11) false (fun s =>
    let slot := capSlot w
    let fin := fun (s : State) (status : Nat) => s.endCapsule (16 * f + q) (capSeq w) status 0 []
    if s.slotIdle slot || !s.grouped slot then fin s 11 else
    match s.takeDecl f w host 10 with
    | (s, none) => fin s 11
    | (s, some l) =>
      match s.declMoves slot l with
      | none => fin s 11
      | some m => fin (s.setEpochSt slot { s.epochSt slot with queued := (s.epochSt slot).queued ++ m }) 0)
def execReshard (fn queue : Nat) (words : List Word) (host : List Host.Cell) (s : State) : Host.Outcome State Fault Refusal :=
  .next (s.reshardCap fn queue words host)

/-- PUBLISH: RESULT goes in DETAIL (R273). Its declaration, which MEAS_11 takes, is its ARGS. -/
def State.publishCap (s : State) (f q : Nat) (w : List Word) : State :=
  s.capsule f q w (· = 12) false (fun s =>
    let n := capWord w 4
    let s := s.extendMeas 11 (sm3 ((w.drop 4).flatMap (fun v => toBytes 4 v.toNat)))
    if 4096 ≤ n then s.endCapsule (16 * f + q) (capSeq w) 11 0 [] else
    let r := State.publishGo (s.setFld Reg.EM_PUBLISH 0 12 n) n
    r.1.endCapsule (16 * f + q) (capSeq w) 0 r.2 [])
def execPublish (fn queue : Nat) (words : List Word) (s : State) : Host.Outcome State Fault Refusal := .next (s.publishCap fn queue words)

/-! ### Interrupts and result slots -/

/-- MSIX_MOD_TIMER: MOD_US has passed since the oldest unsignalled record. -/
def State.modTimer (s : State) (f q : Nat) : State :=
  if 16 ≤ f || 16 ≤ q || (s.fn f).muted || !s.busMaster.get false f then s else s.signal (16 * f + q)
def execMsixModTimer (fn queue : Nat) (s : State) : Host.Outcome State Fault Refusal := .next (s.modTimer fn queue)

/-- The 4 KiB of a VALID result slot (R378). -/
def slotBytes4K (r : ResultSt) : List Byte :=
  let head := [1 + 2 ^ 16 * (r.status % 2 ^ 16), r.seq, r.payload.length, r.slot].flatMap (toBytes 4)
  let l := head ++ List.replicate 48 0#8 ++ r.payload
  l ++ List.replicate (4096 - l.length) 0#8

/-- RESULT_SLOT_READ: one read request, served whole (R379). -/
def State.resultRead (s : State) (f slot off size : Nat) : State :=
  if 16 ≤ f || 65536 ≤ slot || 4096 < off + size || size = 0 || !s.power.s1 || s.fld Reg.PC_BOOT 0 3 < 3 then s else
  let r := s.result (65536 * f + slot)
  let bytes := if r.st = 2 then ((slotBytes4K r).drop off).take size else List.replicate size 0#8
  let s := if off < 64 then s.setResult (65536 * f + slot) { r with reads := satTo (2 ^ 32 - 1) (r.reads + 1) } else s
  s.emit (.readData bytes false)
def execResultSlotRead (fn slot off size : Nat) (s : State) : Host.Outcome State Fault Refusal := .next (s.resultRead fn slot off size)

/-- RETIRE: frees a VALID slot of equal SEQ; any other is ignored and counted (R380). READ_COUNT stays until the slot is next claimed. -/
def State.retireSlot (s : State) (f slot : Nat) (v : Word) : State :=
  if 16 ≤ f || 65536 ≤ slot || !s.power.s1 || s.fld Reg.PC_BOOT 0 3 < 3 then s else
  let r := s.result (65536 * f + slot)
  if r.st = 2 && r.seq = v.toNat then s.setResult (65536 * f + slot) { reads := r.reads }
  else s.count (Reg.PC_COUNTS f) 0 16 1
def execRetire (fn slot : Nat) (v : Word) (s : State) : Host.Outcome State Fault Refusal := .next (s.retireSlot fn slot v)

end Sys2Proof.Machine
end

