-- ==== Sys2Proof/Machine/Tap.lean ====
section
/-! DEFINITION. The JTAG TAP (R420, R448, R449): its instructions and what they capture and drive. -/

namespace Sys2Proof.Machine

/-- An instruction loaded: what the selected register captures goes out at TDO. -/
def State.tapLoad (s : State) (t : TapSt) (shown : BitVec 116) : State :=
  if !s.power.rails then s else State.emit { s with tap := t } (.tdo t.ir shown)
/-- BYPASS selected: its register captures 0. -/
def State.tapBypass (s : State) : State := s.tapLoad { s.tap with ir := 0xFF, testReset := false } 0#116
/-- EXTEST or INTEST: the cells capture the pins, then take `data`, which the outputs or the core follow. Accepted only while PERST_N is
asserted (R420). -/
def State.tapTest (s : State) (ir : Nat) (pins data : BitVec 116) : State :=
  if s.power.perst then s.tapLoad ⟨ir, pins, data, false⟩ pins else s.tapBypass

def execExtest (pins data : BitVec 116) (s : State) : Host.Outcome State Fault Refusal := .next (s.tapTest 0x00 pins data)
def execIntest (pins data : BitVec 116) (s : State) : Host.Outcome State Fault Refusal := .next (s.tapTest 0x03 pins data)
/-- SAMPLE/PRELOAD, at any time. -/
def State.tapSample (s : State) (pins data : BitVec 116) : State := s.tapLoad ⟨0x01, pins, data, false⟩ pins
def execSamplePreload (pins data : BitVec 116) (s : State) : Host.Outcome State Fault Refusal := .next (s.tapSample pins data)
/-- IDCODE: the identification register. -/
def idcode : BitVec 116 := 0x1730009B#116
def State.tapIdcode (s : State) : State := s.tapLoad { s.tap with ir := 0x02, testReset := false } idcode
def execIdcode (s : State) : Host.Outcome State Fault Refusal := .next s.tapIdcode
/-- CLAMP and HIGHZ, with BYPASS selected; DAP. -/
def State.tapOther (s : State) (ir : Nat) : State := s.tapLoad { s.tap with ir := ir, testReset := false } 0#116
def execClamp (s : State) : Host.Outcome State Fault Refusal := .next (s.tapOther 0x04)
def execHighz (s : State) : Host.Outcome State Fault Refusal := .next (s.tapOther 0x05)
def execDap (s : State) : Host.Outcome State Fault Refusal := .next (s.tapOther 0x20)
/-- BYPASS, by its code or by one that the TAP does not list. -/
def State.tapCode (s : State) (code : Byte) : State := if [0x00, 0x01, 0x02, 0x03, 0x04, 0x05, 0x20].contains code.toNat then s else s.tapBypass
def execBypass (code : Byte) (s : State) : Host.Outcome State Fault Refusal := .next (s.tapCode code)
/-- TEST_LOGIC_RESET: the instruction register loads IDCODE. -/
def State.tapReset (s : State) : State :=
  if !s.power.rails then s else { s with tap := { s.tap with ir := 0x02, testReset := true } }
def execTestLogicReset (s : State) : Host.Outcome State Fault Refusal := .next s.tapReset

end Sys2Proof.Machine
end

