-- ==== Sys2Proof/Machine/Dispatch.lean ====
section
/-! DEFINITION. Every command and its meaning. -/

namespace Sys2Proof.Machine

def exec (i : Instr) (s : State) : Host.Outcome State Fault Refusal :=
  match i with
  | .registerWrite by_ a v => Sys2Proof.Machine.execRegisterWrite by_ a v s
  | .rcCounterRead a => Sys2Proof.Machine.execRcCounterRead a s
  | .latchedLoRead a => Sys2Proof.Machine.execLatchedLoRead a s
  | .statLoRead a => Sys2Proof.Machine.execStatLoRead a s
  | .canaryWindow readings => Sys2Proof.Machine.execCanaryWindow readings s
  | .voltageControllerRun avgDw railsMv => Sys2Proof.Machine.execVoltageControllerRun avgDw railsMv s
  | .hardwareClamp => Sys2Proof.Machine.execHardwareClamp s
  | .bridgeTransfer hf bridge toPanel entering => Sys2Proof.Machine.execBridgeTransfer hf bridge toPanel entering s
  | .add x d a b upset => Sys2Proof.Machine.execAdd x d a b upset s
  | .sub x d a b => Sys2Proof.Machine.execSub x d a b s
  | .and x d a b => Sys2Proof.Machine.execAnd x d a b s
  | .or x d a b => Sys2Proof.Machine.execOr x d a b s
  | .xor x d a b => Sys2Proof.Machine.execXor x d a b s
  | .shl x d a n => Sys2Proof.Machine.execShl x d a n s
  | .shr x d a n => Sys2Proof.Machine.execShr x d a n s
  | .sra x d a n => Sys2Proof.Machine.execSra x d a n s
  | .mul x d a b => Sys2Proof.Machine.execMul x d a b s
  | .mulh x d a b => Sys2Proof.Machine.execMulh x d a b s
  | .divu x d a b => Sys2Proof.Machine.execDivu x d a b s
  | .li x d imm => Sys2Proof.Machine.execLi x d imm s
  | .lui x d imm => Sys2Proof.Machine.execLui x d imm s
  | .beq x a b off => Sys2Proof.Machine.execBeq x a b off s
  | .bne x a b off => Sys2Proof.Machine.execBne x a b off s
  | .blt x a b off => Sys2Proof.Machine.execBlt x a b off s
  | .bge x a b off => Sys2Proof.Machine.execBge x a b off s
  | .j x a off => Sys2Proof.Machine.execJ x a off s
  | .jl x d a off => Sys2Proof.Machine.execJl x d a off s
  | .getcw x d index => Sys2Proof.Machine.execGetcw x d index s
  | .setcw x index a => Sys2Proof.Machine.execSetcw x index a s
  | .ldw x d a off => Sys2Proof.Machine.execLdw x d a off s
  | .stw x b a off => Sys2Proof.Machine.execStw x b a off s
  | .vld x d a off => Sys2Proof.Machine.execVld x d a off s
  | .vst x b a p off => Sys2Proof.Machine.execVst x b a p off s
  | .ldt x d a off => Sys2Proof.Machine.execLdt x d a off s
  | .stt x b a off => Sys2Proof.Machine.execStt x b a off s
  | .loadReturn x index host failed => Sys2Proof.Machine.execLoadReturn x index host failed s
  | .storeComplete id => Sys2Proof.Machine.execStoreComplete id s
  | .bankAccess from_ addr size data upsets => Sys2Proof.Machine.execBankAccess from_ addr size data upsets s
  | .vadd x d a b fmt p => Sys2Proof.Machine.execVadd x d a b fmt p s
  | .vsub x d a b fmt p => Sys2Proof.Machine.execVsub x d a b fmt p s
  | .vmul x d a b fmt p => Sys2Proof.Machine.execVmul x d a b fmt p s
  | .vfma x d a b fmt p => Sys2Proof.Machine.execVfma x d a b fmt p s
  | .vmax x d a b fmt p => Sys2Proof.Machine.execVmax x d a b fmt p s
  | .vmin x d a b fmt p => Sys2Proof.Machine.execVmin x d a b fmt p s
  | .vrcp x d a fmt p => Sys2Proof.Machine.execVrcp x d a fmt p s
  | .vrsq x d a fmt p => Sys2Proof.Machine.execVrsq x d a fmt p s
  | .vexp2 x d a fmt p => Sys2Proof.Machine.execVexp2 x d a fmt p s
  | .vcmp x d a b fmt cond p => Sys2Proof.Machine.execVcmp x d a b fmt cond p s
  | .vred x d a op fmt p => Sys2Proof.Machine.execVred x d a op fmt p s
  | .vsel x d a b p => Sys2Proof.Machine.execVsel x d a b p s
  | .vspl x d a p => Sys2Proof.Machine.execVspl x d a p s
  | .vget x d a lane => Sys2Proof.Machine.execVget x d a lane s
  | .vdact x d a b fmt fn p => Sys2Proof.Machine.execVdact x d a b fmt fn p s
  | .vcvt x d a src dst part sr p => Sys2Proof.Machine.execVcvt x d a src dst part sr p s
  | .vqnt x d a b target part esc bcast p => Sys2Proof.Machine.execVqnt x d a b target part esc bcast p s
  | .vqntCal x d a b target margin asym bcast p => Sys2Proof.Machine.execVqntCal x d a b target margin asym bcast p s
  | .vdq x d a b source part bcast p => Sys2Proof.Machine.execVdq x d a b source part bcast p s
  | .mcfg x a quad q => Sys2Proof.Machine.execMcfg x a quad q s
  | .mcfgRel x quad q => Sys2Proof.Machine.execMcfgRel x quad q s
  | .arrayClaimGrant x => Sys2Proof.Machine.execArrayClaimGrant x s
  | .mpass x n q => Sys2Proof.Machine.execMpass x n q s
  | .mlds x a b tr q => Sys2Proof.Machine.execMlds x a b tr q s
  | .mldsDone motif unit => Sys2Proof.Machine.execMldsDone motif unit s
  | .mstr x a b tr q c0 => Sys2Proof.Machine.execMstr x a b tr q c0 s
  | .chunkStreamEnd motif unit upsets => Sys2Proof.Machine.execChunkStreamEnd motif unit upsets s
  | .mswap x q => Sys2Proof.Machine.execMswap x q s
  | .mswapEffect motif unit => Sys2Proof.Machine.execMswapEffect motif unit s
  | .mdrn x d a b func => Sys2Proof.Machine.execMdrn x d a b func s
  | .drainStart motif unit => Sys2Proof.Machine.execDrainStart motif unit s
  | .drainComplete motif unit => Sys2Proof.Machine.execDrainComplete motif unit s
  | .replayDone motif unit upsets => Sys2Proof.Machine.execReplayDone motif unit upsets s
  | .arraySelftestDone motif unit cells => Sys2Proof.Machine.execArraySelftestDone motif unit cells s
  | .mchk x d q => Sys2Proof.Machine.execMchk x d q s
  | .mchkSelftest x d q cells => Sys2Proof.Machine.execMchkSelftest x d q cells s
  | .maFootCtlWrite motif v => Sys2Proof.Machine.execMaFootCtlWrite motif v s
  | .plaitOpen entry v => Sys2Proof.Machine.execPlaitOpen entry v s
  | .plaitContribution id => Sys2Proof.Machine.execPlaitContribution id s
  | .plaitFallbackWrite id => Sys2Proof.Machine.execPlaitFallbackWrite id s
  | .plaitJoin level node parityError => Sys2Proof.Machine.execPlaitJoin level node parityError s
  | .plaitOutput entry parityError => Sys2Proof.Machine.execPlaitOutput entry parityError s
  | .plaitEntryDone entry => Sys2Proof.Machine.execPlaitEntryDone entry s
  | .xfer x d a b => Sys2Proof.Machine.execXfer x d a b s
  | .xferComplete motif index host => Sys2Proof.Machine.execXferComplete motif index host s
  | .hgath x d a b host => Sys2Proof.Machine.execHgath x d a b host s
  | .hscat x d a b host => Sys2Proof.Machine.execHscat x d a b host s
  | .rowReturn hoist index row host => Sys2Proof.Machine.execRowReturn hoist index row host s
  | .hgathComplete hoist index => Sys2Proof.Machine.execHgathComplete hoist index s
  | .coalStore hoist index => Sys2Proof.Machine.execCoalStore hoist index s
  | .hscatComplete hoist index => Sys2Proof.Machine.execHscatComplete hoist index s
  | .wtok x d a n => Sys2Proof.Machine.execWtok x d a n s
  | .wtokPeek x d a => Sys2Proof.Machine.execWtokPeek x d a s
  | .wtokWake token => Sys2Proof.Machine.execWtokWake token s
  | .stok x a n => Sys2Proof.Machine.execStok x a n s
  | .yield x => Sys2Proof.Machine.execYield x s
  | .spawn x d a => Sys2Proof.Machine.execSpawn x d a s
  | .chain x a b => Sys2Proof.Machine.execChain x a b s
  | .chainStageStart motif index stage block host => Sys2Proof.Machine.execChainStageStart motif index stage block host s
  | .chainStageComplete motif index => Sys2Proof.Machine.execChainStageComplete motif index s
  | .fenceStores x commands => Sys2Proof.Machine.execFenceStores x commands s
  | .fenceCommands x => Sys2Proof.Machine.execFenceCommands x s
  | .fenceRelease x => Sys2Proof.Machine.execFenceRelease x s
  | .halt x => Sys2Proof.Machine.execHalt x s
  | .stepend x => Sys2Proof.Machine.execStepend x s
  | .deferredFaultReport index => Sys2Proof.Machine.execDeferredFaultReport index s
  | .pnJobmapWrite by_ a v => Sys2Proof.Machine.execPnJobmapWrite by_ a v s
  | .taskDispatch x => Sys2Proof.Machine.execTaskDispatch x s
  | .autoYield x => Sys2Proof.Machine.execAutoYield x s
  | .serveEviction motif => Sys2Proof.Machine.execServeEviction motif s
  | .steal x => Sys2Proof.Machine.execSteal x s
  | .sliceRequest requester holders => Sys2Proof.Machine.execSliceRequest requester holders s
  | .sliceTake slot banks => Sys2Proof.Machine.execSliceTake slot banks s
  | .sliceWaitExpire slot => Sys2Proof.Machine.execSliceWaitExpire slot s
  | .sliceRestore slot moves => Sys2Proof.Machine.execSliceRestore slot moves s
  | .sweepStart slot => Sys2Proof.Machine.execSweepStart slot s
  | .sweepUpdateTask slot entry block area grad pc host => Sys2Proof.Machine.execSweepUpdateTask slot entry block area grad pc host s
  | .sweepPhase2 slot => Sys2Proof.Machine.execSweepPhase2 slot s
  | .drainQuiesced slot banks failed host loads => Sys2Proof.Machine.execDrainQuiesced slot banks failed host loads s
  | .stepHang slot => Sys2Proof.Machine.execStepHang slot s
  | .idleCoreRotation motif failed => Sys2Proof.Machine.execIdleCoreRotation motif failed s
  | .shadowRefresh grounds hf mv ma mj late => Sys2Proof.Machine.execShadowRefresh grounds hf mv ma mj late s
  | .bankHandover by_ bank v => Sys2Proof.Machine.execBankHandover by_ bank v s
  | .handoverComplete bank => Sys2Proof.Machine.execHandoverComplete bank s
  | .bankPowerWrite bank v => Sys2Proof.Machine.execBankPowerWrite bank v s
  | .bankTransitionDone bank => Sys2Proof.Machine.execBankTransitionDone bank s
  | .bankScrubRead bank single double deferred => Sys2Proof.Machine.execBankScrubRead bank single double deferred s
  | .scrubWriteback bank => Sys2Proof.Machine.execScrubWriteback bank s
  | .marchStart bank v => Sys2Proof.Machine.execMarchStart bank v s
  | .marchPreserveStart bank v => Sys2Proof.Machine.execMarchPreserveStart bank v s
  | .marchLineDone bank failed => Sys2Proof.Machine.execMarchLineDone bank failed s
  | .marchDone bank fails => Sys2Proof.Machine.execMarchDone bank fails s
  | .ldRead slot addr size errors areaErrors linkFails => Sys2Proof.Machine.execLdRead slot addr size errors areaErrors linkFails s
  | .ldWrite slot addr data => Sys2Proof.Machine.execLdWrite slot addr data s
  | .ldRefresh channel bank => Sys2Proof.Machine.execLdRefresh channel bank s
  | .ldRfm channel => Sys2Proof.Machine.execLdRfm channel s
  | .ldCalibration channel waited forced restored => Sys2Proof.Machine.execLdCalibration channel waited forced restored s
  | .ldScrubRead channel turn => Sys2Proof.Machine.execLdScrubRead channel turn s
  | .ldPackageTrain package giB fails => Sys2Proof.Machine.execLdPackageTrain package giB fails s
  | .ldChFail channel => Sys2Proof.Machine.execLdChFail channel s
  | .deepAccess slot addr size data => Sys2Proof.Machine.execDeepAccess slot addr size data s
  | .deepReadCompletion id data => Sys2Proof.Machine.execDeepReadCompletion id data s
  | .deepTimeout id => Sys2Proof.Machine.execDeepTimeout id s
  | .tagGrant hf => Sys2Proof.Machine.execTagGrant hf s
  | .emTselLoad v => Sys2Proof.Machine.execEmTselLoad v s
  | .emTselStore by_ v => Sys2Proof.Machine.execEmTselStore by_ v s
  | .emPublishGo by_ v => Sys2Proof.Machine.execEmPublishGo by_ v s
  | .emVersionFreed table vsn => Sys2Proof.Machine.execEmVersionFreed table vsn s
  | .coalFlush slot => Sys2Proof.Machine.execCoalFlush slot s
  | .haulEpochEnd host loads => Sys2Proof.Machine.execHaulEpochEnd host loads s
  | .prospectSlotRead panel d host => Sys2Proof.Machine.execProspectSlotRead panel d host s
  | .prospectRetry panel d host => Sys2Proof.Machine.execProspectRetry panel d host s
  | .prospectStageRow panel index host => Sys2Proof.Machine.execProspectStageRow panel index host s
  | .prospectReturn at_ host => Sys2Proof.Machine.execProspectReturn at_ host s
  | .digestCompare slot others suspects => Sys2Proof.Machine.execDigestCompare slot others suspects s
  | .digestRepair slot leaf block => Sys2Proof.Machine.execDigestRepair slot leaf block s
  | .prefetchStart slot => Sys2Proof.Machine.execPrefetchStart slot s
  | .microbatchStart slot => Sys2Proof.Machine.execMicrobatchStart slot s
  | .waitPolicyAction slot again => Sys2Proof.Machine.execWaitPolicyAction slot again s
  | .serveReq hf => Sys2Proof.Machine.execServeReq hf s
  | .serveDispatch entry records => Sys2Proof.Machine.execServeDispatch entry records s
  | .serveRsp hf => Sys2Proof.Machine.execServeRsp hf s
  | .data hf => Sys2Proof.Machine.execData hf s
  | .rowReq hf host => Sys2Proof.Machine.execRowReq hf host s
  | .rowRsp hf => Sys2Proof.Machine.execRowRsp hf s
  | .grad hf => Sys2Proof.Machine.execGrad hf s
  | .bulk hf => Sys2Proof.Machine.execBulk hf s
  | .ack hf => Sys2Proof.Machine.execAck hf s
  | .open_ hf => Sys2Proof.Machine.execOpen hf s
  | .openOk hf => Sys2Proof.Machine.execOpenOk hf s
  | .close hf => Sys2Proof.Machine.execClose hf s
  | .epochNak hf host => Sys2Proof.Machine.execEpochNak hf host s
  | .epochReady hf host => Sys2Proof.Machine.execEpochReady hf host s
  | .epochCommit hf host => Sys2Proof.Machine.execEpochCommit hf host s
  | .epochAdopted slot => Sys2Proof.Machine.execEpochAdopted slot s
  | .peerLoss hf host => Sys2Proof.Machine.execPeerLoss hf host s
  | .peerBack hf host => Sys2Proof.Machine.execPeerBack hf host s
  | .layoutReq hf host => Sys2Proof.Machine.execLayoutReq hf host s
  | .layout hf host => Sys2Proof.Machine.execLayout hf host s
  | .retransmitTimeout connection => Sys2Proof.Machine.execRetransmitTimeout connection s
  | .ackDelayExpire connection => Sys2Proof.Machine.execAckDelayExpire connection s
  | .requestRetryTimeout id => Sys2Proof.Machine.execRequestRetryTimeout id s
  | .peerWaitExpire slot => Sys2Proof.Machine.execPeerWaitExpire slot s
  | .hfCollLoad v => Sys2Proof.Machine.execHfCollLoad v s
  | .hfCollStore by_ v => Sys2Proof.Machine.execHfCollStore by_ v s
  | .frameReceive port f => Sys2Proof.Machine.execFrameReceive port f s
  | .pfcFrameReceive port enable times => Sys2Proof.Machine.execPfcFrameReceive port enable times s
  | .pfcPauseExpire port q => Sys2Proof.Machine.execPfcPauseExpire port q s
  | .pfcRefresh port q => Sys2Proof.Machine.execPfcRefresh port q s
  | .rxBufferDrain port q => Sys2Proof.Machine.execRxBufferDrain port q s
  | .frameTxDone port => Sys2Proof.Machine.execFrameTxDone port s
  | .pauseWdTxExpire port q => Sys2Proof.Machine.execPauseWdTxExpire port q s
  | .pauseWdRxExpire port q => Sys2Proof.Machine.execPauseWdRxExpire port q s
  | .pauseHoldEnd port q tx => Sys2Proof.Machine.execPauseHoldEnd port q tx s
  | .linkDown port => Sys2Proof.Machine.execLinkDown port s
  | .linkUp port => Sys2Proof.Machine.execLinkUp port s
  | .fmCtlWrite port off v => Sys2Proof.Machine.execFmCtlWrite port off v s
  | .mmFrameReceive dst etherType payload fcsOk => Sys2Proof.Machine.execMmFrameReceive dst etherType payload fcsOk s
  | .mmCollision late => Sys2Proof.Machine.execMmCollision late s
  | .mmBackoffExpire => Sys2Proof.Machine.execMmBackoffExpire s
  | .plcaBeaconLoss => Sys2Proof.Machine.execPlcaBeaconLoss s
  | .plcaBeaconResume => Sys2Proof.Machine.execPlcaBeaconResume s
  | .wakeFrame dst etherType payload fcsOk => Sys2Proof.Machine.execWakeFrame dst etherType payload fcsOk s
  | .configRequest fn write => Sys2Proof.Machine.execConfigRequest fn write s
  | .barAccess fn bank off size data => Sys2Proof.Machine.execBarAccess fn bank off size data s
  | .apertureWriteInvalid fn off size => Sys2Proof.Machine.execApertureWriteInvalid fn off size s
  | .leaseCapsule fn queue words => Sys2Proof.Machine.execLeaseCapsule fn queue words s
  | .attach fn queue words => Sys2Proof.Machine.execAttach fn queue words s
  | .jobLoad fn queue words host grants more passes => Sys2Proof.Machine.execJobLoad fn queue words host grants more passes s
  | .steps fn queue words => Sys2Proof.Machine.execSteps fn queue words s
  | .withdraw fn queue words => Sys2Proof.Machine.execWithdraw fn queue words s
  | .stop fn queue words => Sys2Proof.Machine.execStop fn queue words s
  | .free fn queue words => Sys2Proof.Machine.execFree fn queue words s
  | .resume fn queue words moves => Sys2Proof.Machine.execResume fn queue words moves s
  | .serve fn queue words host => Sys2Proof.Machine.execServe fn queue words host s
  | .setDecl fn queue words host grants more => Sys2Proof.Machine.execSetDecl fn queue words host grants more s
  | .reshard fn queue words host => Sys2Proof.Machine.execReshard fn queue words host s
  | .publish fn queue words => Sys2Proof.Machine.execPublish fn queue words s
  | .ringHeadWrite fn queue v => Sys2Proof.Machine.execRingHeadWrite fn queue v s
  | .ringConfigWrite fn queue off v => Sys2Proof.Machine.execRingConfigWrite fn queue off v s
  | .msixModTimer fn queue => Sys2Proof.Machine.execMsixModTimer fn queue s
  | .resultSlotRead fn slot off size => Sys2Proof.Machine.execResultSlotRead fn slot off size s
  | .retire fn slot v => Sys2Proof.Machine.execRetire fn slot v s
  | .resultStore entry payload => Sys2Proof.Machine.execResultStore entry payload s
  | .leaseExpiry fn => Sys2Proof.Machine.execLeaseExpiry fn s
  | .d3hotWrite fn => Sys2Proof.Machine.execD3hotWrite fn s
  | .functionLevelReset fn => Sys2Proof.Machine.execFunctionLevelReset fn s
  | .busMasterDisable fn => Sys2Proof.Machine.execBusMasterDisable fn s
  | .componentMessage component msg taken => Sys2Proof.Machine.execComponentMessage component msg taken s
  | .componentRestart component cause bodyOk core data records => Sys2Proof.Machine.execComponentRestart component cause bodyOk core data records s
  | .watchdog component bodyOk core data records => Sys2Proof.Machine.execWatchdog component bodyOk core data records s
  | .dhcpRetry => Sys2Proof.Machine.execDhcpRetry s
  | .tftpBlockTimeout server => Sys2Proof.Machine.execTftpBlockTimeout server s
  | .tftpBlock server block data tsize blksize => Sys2Proof.Machine.execTftpBlock server block data tsize blksize s
  | .goodImageCopy => Sys2Proof.Machine.execGoodImageCopy s
  | .stage image => Sys2Proof.Machine.execStage image s
  | .activate => Sys2Proof.Machine.execActivate s
  | .shiftHoldExpire => Sys2Proof.Machine.execShiftHoldExpire s
  | .shiftPauseBegin => Sys2Proof.Machine.execShiftPauseBegin s
  | .shiftReady => Sys2Proof.Machine.execShiftReady s
  | .shiftRollback component => Sys2Proof.Machine.execShiftRollback component s
  | .sample component core data records => Sys2Proof.Machine.execSample component core data records s
  | .ident src msg => Sys2Proof.Machine.execIdent src msg s
  | .status src msg => Sys2Proof.Machine.execStatus src msg s
  | .nonce src msg => Sys2Proof.Machine.execNonce src msg s
  | .mgmtStage src msg sig image => Sys2Proof.Machine.execMgmtStage src msg sig image s
  | .mgmtActivate src msg sig => Sys2Proof.Machine.execMgmtActivate src msg sig s
  | .sampleList src msg => Sys2Proof.Machine.execSampleList src msg s
  | .sampleRead src msg => Sys2Proof.Machine.execSampleRead src msg s
  | .debug cmd => Sys2Proof.Machine.execDebug cmd s
  | .lcAdvance cmd => Sys2Proof.Machine.execLcAdvance cmd s
  | .ownerKey cmd => Sys2Proof.Machine.execOwnerKey cmd s
  | .svnMin cmd => Sys2Proof.Machine.execSvnMin cmd s
  | .vendorRevoke cmd => Sys2Proof.Machine.execVendorRevoke cmd s
  | .nonceNew => Sys2Proof.Machine.execNonceNew s
  | .quoteGo v => Sys2Proof.Machine.execQuoteGo v s
  | .extend v => Sys2Proof.Machine.execExtend v s
  | .debugLevelWrite v => Sys2Proof.Machine.execDebugLevelWrite v s
  | .debugDurationExpire => Sys2Proof.Machine.execDebugDurationExpire s
  | .extest pins data => Sys2Proof.Machine.execExtest pins data s
  | .samplePreload pins data => Sys2Proof.Machine.execSamplePreload pins data s
  | .idcode => Sys2Proof.Machine.execIdcode s
  | .intest pins data => Sys2Proof.Machine.execIntest pins data s
  | .clamp => Sys2Proof.Machine.execClamp s
  | .highz => Sys2Proof.Machine.execHighz s
  | .dap => Sys2Proof.Machine.execDap s
  | .bypass code => Sys2Proof.Machine.execBypass code s
  | .pwReqActive v => Sys2Proof.Machine.execPwReqActive v s
  | .pwReqLean v => Sys2Proof.Machine.execPwReqLean v s
  | .panelParked panel => Sys2Proof.Machine.execPanelParked panel s
  | .panelUnparked panel => Sys2Proof.Machine.execPanelUnparked panel s
  | .pwReqDoze v woken => Sys2Proof.Machine.execPwReqDoze v woken s
  | .dozeWake cause => Sys2Proof.Machine.execDozeWake cause s
  | .pwReqStandby v => Sys2Proof.Machine.execPwReqStandby v s
  | .standbyExit => Sys2Proof.Machine.execStandbyExit s
  | .powerOn hot => Sys2Proof.Machine.execPowerOn hot s
  | .strapSample slot src profile => Sys2Proof.Machine.execStrapSample slot src profile s
  | .headframeRailsUp cold => Sys2Proof.Machine.execHeadframeRailsUp cold s
  | .perstRelease cold hot => Sys2Proof.Machine.execPerstRelease cold hot s
  | .perstAssert => Sys2Proof.Machine.execPerstAssert s
  | .s2Entry => Sys2Proof.Machine.execS2Entry s
  | .panelRepair panel rail bridges nodes dieLink lines quads cores grounds => Sys2Proof.Machine.execPanelRepair panel rail bridges nodes dieLink lines quads cores grounds s
  | .passCalibration quads => Sys2Proof.Machine.execPassCalibration quads s
  | .powerFail => Sys2Proof.Machine.execPowerFail s
  | .overvoltageShutdown => Sys2Proof.Machine.execOvervoltageShutdown s
  | .breakerTrip => Sys2Proof.Machine.execBreakerTrip s
  | .powerRemoved => Sys2Proof.Machine.execPowerRemoved s
  | .vinRange mv => Sys2Proof.Machine.execVinRange mv s
  | .tempWarn t => Sys2Proof.Machine.execTempWarn t s
  | .thermThrottle t => Sys2Proof.Machine.execThermThrottle t s
  | .throttleRelease t => Sys2Proof.Machine.execThrottleRelease t s
  | .thermTrip => Sys2Proof.Machine.execThermTrip s
  | .eventRecord wasRead => Sys2Proof.Machine.execEventRecord wasRead s
  | .coreStallFence x => Sys2Proof.Machine.execCoreStallFence x s
  | .flashBlockFail block => Sys2Proof.Machine.execFlashBlockFail block s
  | .flashEraseSuspend block => Sys2Proof.Machine.execFlashEraseSuspend block s
  | .unassignedInstruction x w0 w1 => Sys2Proof.Machine.execUnassignedInstruction x w0 w1 s
  | .badOpcodeCapsule fn queue words => Sys2Proof.Machine.execBadOpcodeCapsule fn queue words s
  | .signedCommandBadOp cmd => Sys2Proof.Machine.execSignedCommandBadOp cmd s
  | .pmeTurnOff => Sys2Proof.Machine.execPmeTurnOff s
  | .pmeTurnOffTimeout => Sys2Proof.Machine.execPmeTurnOffTimeout s
  | .coldStartWaitEnd => Sys2Proof.Machine.execColdStartWaitEnd s
  | .tripCooldownEnd => Sys2Proof.Machine.execTripCooldownEnd s
  | .testLogicReset => Sys2Proof.Machine.execTestLogicReset s
  | .mmFrameTxDone deferred => Sys2Proof.Machine.execMmFrameTxDone deferred s
  | .logFlashWriteDone => Sys2Proof.Machine.execLogFlashWriteDone s
  | .logFlashEraseDone block => Sys2Proof.Machine.execLogFlashEraseDone block s

end Sys2Proof.Machine
end

