-- ==== Sys2Proof/Machine/Words.lean ====
section
/-! DEFINITION. The words of a stitch core's instructions: the instruction that the fields of a word pick, with its operands, and the
words of an instruction (R132 to R134 and the encoding tables of chapters 06 and 07). -/

namespace Sys2Proof.Machine

/-- The low bits of a field as a register, quadrant, space or constant number. -/
def pick (n w lo k : Nat) [NeZero n] : Fin n := Fin.ofNat n (bitsOf w lo k)

/-- The instruction of context x that the fields of a legal word pick, with the immediate of either form. A WTOK of 0 only reads (R171). -/
def fieldInstr (x op d a b fn : Nat) (imm : Imm) (off : MemOff) : Option Instr :=
  let sd : SReg := Fin.ofNat 32 d
  let sa : SReg := Fin.ofNat 32 a
  let sb : SReg := Fin.ofNat 32 b
  let vd : VReg := Fin.ofNat 16 d
  let va : VReg := Fin.ofNat 16 a
  let vb : VReg := Fin.ofNat 16 b
  let td : TReg := Fin.ofNat 8 d
  let ta : TReg := Fin.ofNat 8 a
  let p : PReg := pick 8 fn 8 3
  let fmt := BitVec.ofNat 2 (bitsOf fn 6 2)
  let part := BitVec.ofNat 3 (bitsOf fn 3 3)
  let q : Fin 4 := pick 4 fn 1 2
  match op with
  | 0x01 =>
    match fn with
    | 0 => some (.add x sd sa (.reg sb) false) | 1 => some (.sub x sd sa sb) | 2 => some (.and x sd sa (.reg sb))
    | 3 => some (.or x sd sa (.reg sb)) | 4 => some (.xor x sd sa (.reg sb)) | 5 => some (.shl x sd sa (.reg sb))
    | 6 => some (.shr x sd sa (.reg sb)) | 7 => some (.sra x sd sa (.reg sb)) | 8 => some (.mul x sd sa sb)
    | 9 => some (.mulh x sd sa sb) | 11 => some (.divu x sd sa sb) | _ => none
  | 0x02 => some (.add x sd sa (.imm imm) false)
  | 0x03 => some (.and x sd sa (.imm imm))
  | 0x04 => some (.or x sd sa (.imm imm))
  | 0x05 => some (.xor x sd sa (.imm imm))
  | 0x06 =>
    match fn with
    | 0 => some (.shl x sd sa (.const sb)) | 1 => some (.shr x sd sa (.const sb)) | 2 => some (.sra x sd sa (.const sb)) | _ => none
  | 0x08 => some (.li x sd imm)
  | 0x09 => some (.lui x sd (BitVec.ofNat 11 fn))
  | 0x0A => some (.ldw x sd sa off)
  | 0x0B => some (.stw x sb sa off)
  | 0x0C => some (.ldt x td sa off)
  | 0x0D => some (.stt x (Fin.ofNat 8 b) sa off)
  | 0x10 => some (.beq x sa sb imm)
  | 0x11 => some (.bne x sa sb imm)
  | 0x12 => some (.blt x sa sb imm)
  | 0x13 => some (.bge x sa sb imm)
  | 0x14 => some (.j x sa imm)
  | 0x15 => some (.jl x sd sa imm)
  | 0x18 => some (.getcw x sd (BitVec.ofNat 11 fn))
  | 0x19 => some (.setcw x (BitVec.ofNat 11 fn) sa)
  | 0x1C => if fn = 0 then some (.wtokPeek x sd sa) else some (.wtok x sd sa (BitVec.ofNat 8 fn))
  | 0x1D => some (.stok x sa (BitVec.ofNat 8 fn))
  | 0x1E =>
    match bitsOf fn 0 4 with
    | 0 => some (.yield x) | 1 => some (.spawn x sd va) | 2 => some (.chain x sa sb)
    | 3 => if bitOf fn 4 then some (.fenceStores x (bitOf fn 5)) else some (.fenceCommands x)
    | 4 => some (.stepend x) | 5 => some (.halt x) | _ => none
  | 0x20 => some (.vld x vd sa off)
  | 0x21 => some (.vst x vb sa (Fin.ofNat 8 d) off)
  | 0x22 =>
    match bitsOf fn 0 6 with
    | 0 => some (.vadd x vd va vb fmt p) | 1 => some (.vsub x vd va vb fmt p) | 2 => some (.vmul x vd va vb fmt p)
    | 3 => some (.vfma x vd va vb fmt p) | 4 => some (.vmax x vd va vb fmt p) | 5 => some (.vmin x vd va vb fmt p)
    | 6 => some (.vrcp x vd va fmt p) | 7 => some (.vrsq x vd va fmt p) | 8 => some (.vexp2 x vd va fmt p) | _ => none
  | 0x24 => some (.vcvt x vd va (BitVec.ofNat 4 (bitsOf fn 0 4)) (BitVec.ofNat 4 (bitsOf fn 4 4)) (BitVec.ofNat 3 (bitsOf b 2 3)) (bitOf b 1) p)
  | 0x25 =>
    if bitOf fn 0 then some (.vqntCal x vd va sb fmt part (bitOf fn 2) (bitOf fn 1) p)
    else some (.vqnt x vd va sb fmt part (bitOf fn 2) (bitOf fn 1) p)
  | 0x26 => some (.vdq x vd va sb fmt part (bitOf fn 1) p)
  | 0x27 => some (.vdact x vd va vb fmt (BitVec.ofNat 6 (bitsOf fn 0 6)) p)
  | 0x28 => some (.vred x sd va (BitVec.ofNat 2 (bitsOf fn 0 2)) fmt p)
  | 0x29 => some (.vsel x vd va vb p)
  | 0x2A => some (.vcmp x (Fin.ofNat 8 d) va vb fmt (BitVec.ofNat 3 (bitsOf fn 0 3)) p)
  | 0x2B => if bitOf fn 0 then some (.vget x sd va (pick 8 fn 8 3)) else some (.vspl x vd sa p)
  | 0x30 => if bitOf fn 0 then some (.mcfgRel x (bitOf fn 3) q) else some (.mcfg x sa (bitOf fn 3) q)
  | 0x31 => some (.mpass x (BitVec.ofNat 2 (bitsOf fn 0 2)) (pick 4 fn 3 2))
  | 0x32 => some (.mlds x ta sb (bitOf fn 0) q)
  | 0x33 => some (.mstr x ta sb (bitOf fn 0) q (BitVec.ofNat 7 (bitsOf fn 3 7)))
  | 0x34 => some (.mswap x q)
  | 0x35 => some (.mdrn x td sa sb (BitVec.ofNat 9 fn))
  | 0x36 => if bitOf fn 0 then some (.mchkSelftest x sd q []) else some (.mchk x sd q)
  | 0x38 => some (.xfer x td ta sb)
  | 0x39 => some (.hgath x td ta sb [])
  | 0x3A => some (.hscat x td ta sb [])
  | _ => none

/-- The instruction of context x that word 0 spells, with word 1 where word 0 begins a long form; none where the words are refused with
ILLEGAL. What an instruction meets outside its words (an upset of the core, host memory, failing cells) is absent. -/
def wordInstr (x w0 w1 : Nat) : Option Instr :=
  if !legalWords w0 w1 then none else
  let d := bitsOf w0 21 5
  let a := bitsOf w0 16 5
  let b := bitsOf w0 11 5
  if bitsOf w0 26 6 = 0x3F then fieldInstr x (bitsOf w0 5 6) d a b 0 (.long (BitVec.ofNat 32 w1)) (.long (pick 4 w0 0 2) (BitVec.ofNat 32 w1))
  else fieldInstr x (bitsOf w0 26 6) d a b (bitsOf w0 0 11) (.short (BitVec.ofNat 11 w0)) (.short (pick 4 w0 9 2) (BitVec.ofNat 9 w0))

/-- The context and the words of a stitch core's instruction; none for the commands that no task issues. -/
def instrWords : Instr → Option (Nat × Insn)
  | .add x d a b _ => some (x, encAlu 0 2 d a b)
  | .sub x d a b => some (x, { w0 := encWord 1 d.val a.val b.val 1 })
  | .and x d a b => some (x, encAlu 2 3 d a b)
  | .or x d a b => some (x, encAlu 3 4 d a b)
  | .xor x d a b => some (x, encAlu 4 5 d a b)
  | .shl x d a n => some (x, encShift 0 d a n)
  | .shr x d a n => some (x, encShift 1 d a n)
  | .sra x d a n => some (x, encShift 2 d a n)
  | .mul x d a b => some (x, { w0 := encWord 1 d.val a.val b.val 8 })
  | .mulh x d a b => some (x, { w0 := encWord 1 d.val a.val b.val 9 })
  | .divu x d a b => some (x, { w0 := encWord 1 d.val a.val b.val 11 })
  | .li x d i => some (x, encImm 8 d.val 0 0 i)
  | .lui x d i => some (x, { w0 := encWord 9 d.val 0 0 i.toNat })
  | .beq x a b i => some (x, encImm 0x10 0 a.val b.val i)
  | .bne x a b i => some (x, encImm 0x11 0 a.val b.val i)
  | .blt x a b i => some (x, encImm 0x12 0 a.val b.val i)
  | .bge x a b i => some (x, encImm 0x13 0 a.val b.val i)
  | .j x a i => some (x, encImm 0x14 0 a.val 0 i)
  | .jl x d a i => some (x, encImm 0x15 d.val a.val 0 i)
  | .getcw x d i => some (x, { w0 := encWord 0x18 d.val 0 0 i.toNat })
  | .setcw x i a => some (x, { w0 := encWord 0x19 0 a.val 0 i.toNat })
  | .ldw x d a o => some (x, encMem 0x0A d.val a.val 0 o)
  | .stw x b a o => some (x, encMem 0x0B 0 a.val b.val o)
  | .ldt x d a o => some (x, encMem 0x0C d.val a.val 0 o)
  | .stt x b a o => some (x, encMem 0x0D 0 a.val b.val o)
  | .vld x d a o => some (x, encMem 0x20 d.val a.val 0 o)
  | .vst x b a p o => some (x, encMem 0x21 p.val a.val b.val o)
  | .vadd x d a b f p => some (x, { w0 := encWord 0x22 d.val a.val b.val (vecFn p (f.toNat * 2 ^ 6 + vopCode .add)) })
  | .vsub x d a b f p => some (x, { w0 := encWord 0x22 d.val a.val b.val (vecFn p (f.toNat * 2 ^ 6 + vopCode .sub)) })
  | .vmul x d a b f p => some (x, { w0 := encWord 0x22 d.val a.val b.val (vecFn p (f.toNat * 2 ^ 6 + vopCode .mul)) })
  | .vfma x d a b f p => some (x, { w0 := encWord 0x22 d.val a.val b.val (vecFn p (f.toNat * 2 ^ 6 + vopCode .fma)) })
  | .vmax x d a b f p => some (x, { w0 := encWord 0x22 d.val a.val b.val (vecFn p (f.toNat * 2 ^ 6 + vopCode .max)) })
  | .vmin x d a b f p => some (x, { w0 := encWord 0x22 d.val a.val b.val (vecFn p (f.toNat * 2 ^ 6 + vopCode .min)) })
  | .vrcp x d a f p => some (x, { w0 := encWord 0x22 d.val a.val 0 (vecFn p (f.toNat * 2 ^ 6 + vopCode .rcp)) })
  | .vrsq x d a f p => some (x, { w0 := encWord 0x22 d.val a.val 0 (vecFn p (f.toNat * 2 ^ 6 + vopCode .rsq)) })
  | .vexp2 x d a f p => some (x, { w0 := encWord 0x22 d.val a.val 0 (vecFn p (f.toNat * 2 ^ 6 + vopCode .exp2)) })
  | .vcvt x d a src dst part sr p => some (x, { w0 := encWord 0x24 d.val a.val (part.toNat * 4 + b2n sr * 2) (vecFn p (dst.toNat * 16 + src.toNat)) })
  | .vqnt x d a b f part esc bcast p =>
    some (x, { w0 := encWord 0x25 d.val a.val b.val (vecFn p (f.toNat * 2 ^ 6 + part.toNat * 2 ^ 3 + b2n esc * 4 + b2n bcast * 2)) })
  | .vqntCal x d a b f mg asym bcast p =>
    some (x, { w0 := encWord 0x25 d.val a.val b.val (vecFn p (f.toNat * 2 ^ 6 + mg.toNat * 2 ^ 3 + b2n asym * 4 + b2n bcast * 2 + 1)) })
  | .vdq x d a b f part bcast p =>
    some (x, { w0 := encWord 0x26 d.val a.val b.val (vecFn p (f.toNat * 2 ^ 6 + part.toNat * 2 ^ 3 + b2n bcast * 2)) })
  | .vdact x d a b f fn p => some (x, { w0 := encWord 0x27 d.val a.val b.val (vecFn p (f.toNat * 2 ^ 6 + fn.toNat)) })
  | .vred x d a op f p => some (x, { w0 := encWord 0x28 d.val a.val 0 (vecFn p (f.toNat * 2 ^ 6 + op.toNat)) })
  | .vsel x d a b p => some (x, { w0 := encWord 0x29 d.val a.val b.val (vecFn p 0) })
  | .vcmp x d a b f c p => some (x, { w0 := encWord 0x2A d.val a.val b.val (vecFn p (f.toNat * 2 ^ 6 + c.toNat)) })
  | .vspl x d a p => some (x, { w0 := encWord 0x2B d.val a.val 0 (vecFn p 0) })
  | .vget x d a l => some (x, { w0 := encWord 0x2B d.val a.val 0 (l.val * 2 ^ 8 + 1) })
  | .mcfg x a quad q => some (x, { w0 := encWord 0x30 0 a.val 0 (mcfgFn false quad q) })
  | .mcfgRel x quad q => some (x, { w0 := encWord 0x30 0 0 0 (mcfgFn true quad q) })
  | .mpass x n q => some (x, { w0 := encWord 0x31 0 0 0 (n.toNat + q.val * 8) })
  | .mlds x a b tr q => some (x, { w0 := encWord 0x32 0 a.val b.val (b2n tr + q.val * 2) })
  | .mstr x a b tr q c0 => some (x, { w0 := encWord 0x33 0 a.val b.val (b2n tr + q.val * 2 + c0.toNat * 8) })
  | .mswap x q => some (x, { w0 := encWord 0x34 0 0 0 (q.val * 2) })
  | .mdrn x d a b f => some (x, { w0 := encWord 0x35 d.val a.val b.val f.toNat })
  | .mchk x d q => some (x, { w0 := encWord 0x36 d.val 0 0 (q.val * 2) })
  | .mchkSelftest x d q _ => some (x, { w0 := encWord 0x36 d.val 0 0 (1 + q.val * 2) })
  | .xfer x d a b => some (x, { w0 := encWord 0x38 d.val a.val b.val 0 })
  | .hgath x d a b _ => some (x, { w0 := encWord 0x39 d.val a.val b.val 0 })
  | .hscat x d a b _ => some (x, { w0 := encWord 0x3A d.val a.val b.val 0 })
  | .wtok x d a n => some (x, wtokWords d a n)
  | .wtokPeek x d a => some (x, wtokWords d a 0#8)
  | .stok x a n => some (x, { w0 := encWord 0x1D 0 a.val 0 n.toNat })
  | .yield x => some (x, taskInsn 0 0 0 0)
  | .spawn x d a => some (x, taskInsn d.val a.val 0 1)
  | .chain x a b => some (x, taskInsn 0 a.val b.val 2)
  | .fenceStores x c => some (x, taskInsn 0 0 0 (3 + b2n true * 16 + b2n c * 32))
  | .fenceCommands x => some (x, taskInsn 0 0 0 (3 + b2n false * 16 + b2n true * 32))
  | .stepend x => some (x, taskInsn 0 0 0 4)
  | .halt x => some (x, taskInsn 0 0 0 5)
  | _ => none

/-- The instruction with what it meets outside its words absent. -/
def bareInstr : Instr → Instr
  | .add x d a b _ => .add x d a b false
  | .mchkSelftest x d q _ => .mchkSelftest x d q []
  | .hgath x d a b _ => .hgath x d a b []
  | .hscat x d a b _ => .hscat x d a b []
  | .wtok x d a n => if n = 0#8 then .wtokPeek x d a else .wtok x d a n
  | i => i

end Sys2Proof.Machine
end

