-- ==== Sys2Proof/Safety.lean ====
section
/-! DEFINITION. What statements about runs of the module speak of: memory in its canonical form, fuses that only burn, and what every command keeps. -/

namespace Sys2Proof.Machine

/-- Memory is in its canonical form: addresses strictly rising and no entry equal to what an unlisted address reads as, for the bytes
and for the check states of their 64-bit words. -/
abbrev Memory.wf (s : State) : Prop := SMap.Wf s.mem (fillByte s.banks) ∧ SMap.Wf s.ecc (fillMark s.banks)

/-- Fuses only burn (R402, R404, R410): the life-cycle state never goes back, owner keys and revoked slots stay, the minimum security
version and its burned steps never fall, nor does the lifetime count of INVASIVE entries; an identity key once generated stays. -/
structure Burned (a b : OtpSt) : Prop where
  lc : a.lc ≤ b.lc
  owners : a.owners <+: b.owners
  revoked : a.revoked <+: b.revoked
  svn : a.svn ≤ b.svn
  svnSteps : a.svnSteps ≤ b.svnSteps
  invasive : a.invasive ≤ b.invasive
  identity : a.priv ≠ 0 → b.priv = a.priv

/-- What every command keeps: the queue of waiting commands, the canonical form of memory, and burned fuses. -/
structure Keeps (s t : State) : Prop where
  queue : t.pending = s.pending
  memory : Memory.wf s → Memory.wf t
  fuses : Burned s.otp t.otp

/-! ### Core instructions that complete -/

/-- Bytes of an instruction with an immediate, a second source or a memory operand: a long form takes eight (R133). -/
def immBytes : Imm → Nat
  | .short _ => 4
  | .long _ => 8
def srcBytes : Src → Nat
  | .reg _ => 4
  | .imm i => immBytes i
def offBytes : MemOff → Nat
  | .short _ _ => 4
  | .long _ _ => 8

/-- An instruction of `bytes` bytes that reads the registers listed issues in context x (R118, R119, R124, R149 to R151): the context
holds task k and may issue, its turn has come, k waits for nothing and has no deferred fault to take, the fetch answers and leaves the
state u, and no register read awaits a load or is poisoned. -/
structure Issues (s : State) (x bytes : Nat) (reads : List LoadDst) (k : Nat) (u : State) : Prop where
  task : (s.context x).task = some k
  phase : (s.context x).phase = .ready ∨ (s.context x).phase = .running ∨ (s.context x).phase = .waitData
  turn : s.turn x = true
  waits : (s.task k).wait = .none
  noFault : ∀ d ∈ s.deferred, d.cmd.key ≠ k
  fetch : s.fetch x (s.task k).slot (s.task k).pc.toNat bytes = .ok u
  loads : ∀ r ∈ reads, (s.task k).pendingIn r = false
  poison : ∀ r ∈ reads, (s.task k).poisoned r = false

/-- Displacement of a branch or jump in bytes: 4 × imm11, or the immediate of a long form (R136). -/
def immOffset : Imm → Int
  | .short i => 4 * i.toInt
  | .long i => i.toInt

/-- An instruction of task k in context x completes over u: the task becomes t with the program counter pc and one more instruction
issued, and the context is the one of its core that runs (R118, R153). -/
def State.completes (u : State) (x k : Nat) (t : Task) (pc : Word) : State :=
  (u.setTask k { t with pc := pc, issued := t.issued + 1#32 }).setRunning x

/-- The program counter past an instruction of so many bytes. -/
def Task.after (t : Task) (bytes : Nat) : Word := t.pc + BitVec.ofNat 32 bytes

/-! ### Capsules that pass their checks -/

/-- A capsule write accepted (R370, R381): a credit of queue q of function f taken, and its live lease renewed. -/
def State.creditTaken (s : State) (f q : Nat) : State :=
  let v := s.setFld (Reg.PC_QUEUE_CREDITS f q) 0 9 (s.fld (Reg.PC_QUEUE_CREDITS f q) 0 9 - 1)
  if s.leaseLive f && !s.leaseOver f then v.setFn f { v.fn f with renewed := s.usecN.toNat } else v

/-- The state in which an accepted capsule `w` stands in its queue (R369, R371, R378): the queue's SEQ moved on, and the result slot that it
names claimed. -/
def State.capsuleIn (s : State) (f q : Nat) (w : List Word) : State :=
  let v := (s.creditTaken f q).wr (Reg.PC_QUEUE_SEQ f q) (BitVec.ofNat 32 (capSeq w + 1))
  let v := match capRslot w with
    | some k => v.setResult (65536 * f + k) { v.result (65536 * f + k) with st := 1, reads := 0 }
    | none => v
  v.enterCapsule (16 * f + q) ⟨capSeq w, capOp w, capSlot w, capRslot w, none⟩

/-- A capsule that passes every check of R371 in a module at S5 that is awake with its firmware whole: its queue has a credit and awaits
its SEQ, the lease is live with a time to run (but for ATTACH), a job slot that it names is the function's, and a result slot that it names
is free. -/
structure Accepts (s : State) (f q : Nat) (w : List Word) : Prop where
  len : w.length = 32
  fn : f < 16
  queue : q < 16
  powered : s.power.s1 = true
  awake : s.powerState ≠ 2
  stage : s.fld Reg.PC_BOOT 0 3 = 5
  credit : s.fld (Reg.PC_QUEUE_CREDITS f q) 0 9 ≠ 0
  seq : capSeq w = (s.rd (Reg.PC_QUEUE_SEQ f q)).toNat
  opcode : 1 ≤ capOp w ∧ capOp w ≤ 12
  lease : capOp w = 2 ∨ (s.leaseLive f = true ∧ s.leaseOver f = false ∧ s.fld (Reg.PC_LEASE f) 0 14 ≠ 0)
  job : namesJob (capOp w) = true → s.inMask f (capSlot w) = true
  result : ∀ k, capRslot w = some k → k < s.fld (Reg.PC_RSLOTS f) 0 17 ∧ (s.result (65536 * f + k)).st = 0
  firmware : s.fw.crippled = false

end Sys2Proof.Machine
end

