-- ==== Sys2Proof/Certificates/Slice0/Obligations.lean ====
section
/-! DEFINITION. What is claimed of the module, from the numbered rules of its specification. -/

open Sys2Proof Sys2Proof.Machine

/-- For every command c and state s, a step of s with c at the front of its queue is exec of c on s with the queue's rest. That commands wait in one queue, first in first out, is the model's own interface. -/
def Obligations.StepRunsFrontCommand : Prop :=
  ∀ (c : Instr) (rest : List Instr) (s : State), step { s with pending := c :: rest } = exec c { s with pending := rest }

/-- With no command waiting, and the module powered with S1 begun, a step advances the north microsecond counter by one and the south counter by one, but once in 10,000 by none, one or two, drops what was sent, and leaves memory, the tasks and every register alone but for the seconds counted at whole seconds; without power or before S1 the counters hold. That one idle step is one microsecond, and how the two oscillators differ, are the model's choices (log entry 1). -/
def Obligations.IdleStepPassesTime : Prop :=
  ∀ s : State, s.pending = [] →
    (s.power.s1 = true → s.power.rails = true → ∃ t n, step s = .next t ∧
      t.usecN = s.usecN + 1#64 ∧ t.usecS = s.usecS + BitVec.ofNat 64 n ∧ n ≤ 2 ∧ ((s.usecN.toNat + 1) % 10000 ≠ 0 → n = 1) ∧
      t.out = [] ∧ t.mem = s.mem ∧ t.ecc = s.ecc ∧ t.tasks = s.tasks ∧
      ((s.usecN + 1#64).toNat % 1000000 ≠ 0 → t.regs = s.regs)) ∧
    ((s.power.s1 = false ∨ s.power.rails = false) → step s = .next { s with out := [] })

/-- Every command answers a next state from every state: no command faults or is refused. It leaves the queue of waiting commands as it is; if memory and the check states are in their canonical form before it, they are after it; and the fuses only burn: the life-cycle state, the minimum security version and the counts never fall, owner keys and revoked slots stay, and an identity key once generated stays. -/
def Obligations.EveryCommandKeeps : Prop :=
  ∀ (c : Instr) (s : State), ∃ t, exec c s = .next t ∧ t.pending = s.pending ∧ (Memory.wf s → Memory.wf t) ∧ Burned s.otp t.otp

/-- From every state in which memory and the check states of its words are in canonical form, every step that answers a next state leaves them so, and takes exactly one command off the front of the queue. -/
def Obligations.StepKeepsMemoryForm : Prop :=
  ∀ s t : State, Memory.wf s → step s = .next t → Memory.wf t ∧ t.pending = s.pending.tail ∧ Burned s.otp t.otp

/-- The module right after reset: memory is in its canonical form, nothing is queued, no task or context runs, both microsecond counters are zero, and PC_BOOT reads STAGE 1 with no early service. -/
def Obligations.ResetMemoryForm : Prop :=
  Memory.wf State.reset ∧ State.reset.pending = [] ∧ State.reset.usecN = 0#64 ∧ State.reset.usecS = 0#64 ∧ State.reset.tasks = [] ∧
    State.reset.fld Reg.PC_BOOT 0 3 = 1 ∧ State.reset.bit Reg.PC_BOOT 3 = false ∧ (∀ x, (State.reset.context x).task = none)

/-- When it issues, ADD, AND, OR or XOR completes with s[d] holding the sum modulo 2^32, or the bitwise and, or, or exclusive or, of s[a] and of s[b] or the immediate; the program counter moves past its words and no other register, flag, register of the module or byte of memory changes. A write of s0 leaves the task's registers as they were. -/
def Obligations.ScalarSumsAndLogic : Prop :=
  ∀ (s u : State) (x k : Nat) (d a : SReg) (b : Src), Issues s x (srcBytes b) (sregs [a.val] ++ srcReads b) k u →
    let t := (s.task k).supersede (sregs [d.val])
    let m := (t.sreg a.val).toNat
    let n := (match b with | .reg r => t.sreg r.val | .imm (.short i) => BitVec.ofInt 32 i.toInt | .imm (.long i) => i).toNat
    let done := fun v => u.completes x k (t.setS d.val (BitVec.ofNat 32 v)) (t.after (srcBytes b))
    exec (.add x d a b false) s = .next (done (m + n)) ∧
    exec (.and x d a b) s = .next (done (m &&& n)) ∧
    exec (.or x d a b) s = .next (done (m ||| n)) ∧
    exec (.xor x d a b) s = .next (done (m ^^^ n)) ∧
    (∀ v, t.setS 0 v = t)

/-- When they issue, SUB, MUL, MULH and DIVU complete with s[d] holding the difference, the low and the high 32 bits of the signed product, and the truncated unsigned quotient, which is 0xFFFFFFFF for a zero divisor; nothing else changes but the program counter and the count of instructions. -/
def Obligations.ScalarDifferenceAndProducts : Prop :=
  ∀ (s u : State) (x k : Nat) (d a b : SReg), Issues s x 4 (sregs [a.val, b.val]) k u →
    let t := (s.task k).supersede (sregs [d.val])
    let m := t.sreg a.val
    let n := t.sreg b.val
    let done := fun v => u.completes x k (t.setS d.val v) (t.after 4)
    exec (.sub x d a b) s = .next (done (BitVec.ofInt 32 (m.toInt - n.toInt))) ∧
    exec (.mul x d a b) s = .next (done (BitVec.ofInt 32 (m.toInt * n.toInt))) ∧
    exec (.mulh x d a b) s = .next (done (BitVec.ofInt 32 (m.toInt * n.toInt / 2 ^ 32))) ∧
    exec (.divu x d a b) s = .next (done (if n.toNat = 0 then 0xFFFFFFFF#32 else BitVec.ofNat 32 (m.toNat / n.toNat)))

/-- When they issue, SHL, SHR and SRA complete with s[d] holding s[a] times a power of two modulo 2^32, divided by it, and divided by it as a signed number; the amount is s[b] modulo 32 or the constant; nothing else changes but the program counter and the count of instructions. -/
def Obligations.ScalarShifts : Prop :=
  ∀ (s u : State) (x k : Nat) (d a : SReg) (n : ShAmt), Issues s x 4 (sregs [a.val] ++ amountReads n) k u →
    let t := (s.task k).supersede (sregs [d.val])
    let m := t.sreg a.val
    let c := match n with
      | .reg b => (t.sreg b.val).toNat % 32
      | .const i => i.val
    let done := fun v => u.completes x k (t.setS d.val v) (t.after 4)
    exec (.shl x d a n) s = .next (done (BitVec.ofNat 32 (m.toNat * 2 ^ c))) ∧
    exec (.shr x d a n) s = .next (done (BitVec.ofNat 32 (m.toNat / 2 ^ c))) ∧
    exec (.sra x d a n) s = .next (done (BitVec.ofInt 32 (m.toInt / 2 ^ c)))

/-- When they issue, LI completes with s[d] holding the sign-extended or the 32-bit immediate, and LUI with imm11 × 2^21; nothing else changes but the program counter and the count of instructions. Register s0 reads zero, and a write of it changes nothing. -/
def Obligations.ScalarConstants : Prop :=
  ∀ (s u : State) (x k : Nat) (d : SReg),
    let t := (s.task k).supersede (sregs [d.val])
    (∀ i, Issues s x (immBytes i) [] k u → exec (.li x d i) s =
      .next (u.completes x k (t.setS d.val (match i with | .short j => BitVec.ofInt 32 j.toInt | .long j => j)) (t.after (immBytes i)))) ∧
    (∀ i, Issues s x 4 [] k u →
      exec (.lui x d i) s = .next (u.completes x k (t.setS d.val (BitVec.ofNat 32 (2 ^ 21 * i.toNat))) (t.after 4))) ∧
    (∀ v, t.setS 0 v = t) ∧ t.sreg 0 = 0#32

/-- When they issue with a target that is a multiple of 4, BEQ and BNE test equality and BLT and BGE compare as signed integers: a taken branch goes to its own address plus its displacement, another to the next instruction. J goes to its own address, or to s[a] when field a is not 0, plus the displacement; JL does the same and writes the address of the next instruction into s[d]. Nothing else changes. -/
def Obligations.BranchesAndJumps : Prop :=
  ∀ (s u : State) (x k : Nat) (a : SReg) (off : Imm), badTarget off = false →
    let t := s.task k
    let at_ := fun (base : Word) => BitVec.ofInt 32 (base.toInt + immOffset off)
    (∀ b : SReg, Issues s x (immBytes off) (sregs [a.val, b.val]) k u →
      let m := t.sreg a.val
      let n := t.sreg b.val
      let goes := fun (c : Bool) => u.completes x k t (if c then at_ t.pc else t.after (immBytes off))
      exec (.beq x a b off) s = .next (goes (decide (m = n))) ∧ exec (.bne x a b off) s = .next (goes (decide (m ≠ n))) ∧
      exec (.blt x a b off) s = .next (goes (decide (m.toInt < n.toInt))) ∧ exec (.bge x a b off) s = .next (goes (decide (n.toInt ≤ m.toInt)))) ∧
    (Issues s x (immBytes off) (sregs [a.val]) k u →
      exec (.j x a off) s = .next (u.completes x k t (at_ (if a.val = 0 then t.pc else t.sreg a.val)))) ∧
    (∀ d : SReg, Issues s x (immBytes off) (sregs [a.val]) k u →
      exec (.jl x d a off) s =
        .next (u.completes x k ((t.supersede (sregs [d.val])).setS d.val (t.after (immBytes off))) (at_ (if a.val = 0 then t.pc else t.sreg a.val))))

/-- When it issues, a GETCW of an assigned index completes with s[d] holding that control word, and a SETCW with the word written: ARITH stores its rounding bits and clears a flag where a 1 is written, a segment word keeps its low 24 bits, a read-only word ignores the write. A GETCW of ARITH waits while a load of the task is outstanding: the context waits for data and the task is as it was. Nothing else changes. -/
def Obligations.ControlWords : Prop :=
  ∀ (s u : State) (x k : Nat) (i : BitVec 11), cwExists i.toNat = true →
    let t := s.task k
    (∀ d : SReg, Issues s x 4 [] k u →
      (i = 0#11 → t.loads ≠ [] → exec (.getcw x d i) s = .next ((u.setTask k (u.task k)).setContext x { u.context x with phase := .waitData })) ∧
      ((i = 0#11 → t.loads = []) → ∃ v, u.readCw x t i.toNat = some v ∧
        exec (.getcw x d i) s = .next (u.completes x k ((t.supersede (sregs [d.val])).setS d.val v) (t.after 4)))) ∧
    (∀ a : SReg, Issues s x 4 (sregs [a.val]) k u →
      ∃ t' : Task, t.writeCw i.toNat (t.sreg a.val) = some t' ∧ exec (.setcw x i a) s = .next (u.completes x k t' (t.after 4)) ∧
        (i = 0#11 → ∀ j < 32, t'.arith.getLsbD j =
          (if j < 4 then (t.sreg a.val).getLsbD j else decide (j < 12) && t.arith.getLsbD j && !(t.sreg a.val).getLsbD j)) ∧
        (i.toNat ∈ [4, 5, 6] → t'.cword i.toNat = t.sreg a.val &&& 0xFFFFFF#32) ∧
        (i.toNat ∈ [1, 2, 3, 7] → t'.cword i.toNat = t.sreg a.val) ∧
        (i.toNat ∈ [9, 10, 11, 0x40, 0x41, 0x42, 0x43, 0x45, 0x46] → t' = t))

/-- When it issues, a load from an offset inside the private window completes with its register holding the window's bytes, the lowest address least significant, and no poison. A load of a device address that passes the protection checks and lies outside the motif's banks completes at once while fewer than 8 loads are outstanding: the register becomes pending with the address, tags are asked for where the load leaves the module's banks, and the refusals of parts whose bank the job slot does not own are recorded. With 8 outstanding the context waits for data. An earlier load into the same register no longer brings its data (the model's choice, log entry 29). -/
def Obligations.LoadsFromOwnMemory : Prop :=
  ∀ (s u : State) (x k : Nat) (a : SReg) (off : MemOff) (d : LoadDst) (size : Nat) (c : Instr),
    ((∃ r : SReg, d = .s r.val ∧ size = 4 ∧ c = .ldw x r a off) ∨ (∃ r : VReg, d = .v r.val ∧ size = 32 ∧ c = .vld x r a off) ∨
      (∃ r : TReg, d = .t r.val ∧ size = 64 ∧ c = .ldt x r a off)) →
    Issues s x (offBytes off) (sregs [a.val]) k u →
    let t := (s.task k).supersede [d]
    let o := (t.sreg a.val).toInt + (offsetOf size off).toInt
    let addr := t.devAddr a.val size off
    (spaceOf off = 0 → 0 ≤ o → o + size ≤ 128 →
      exec c s = .next (u.completes x k (t.loadInto d ((List.range size).map (fun i => t.priv.get 0#8 (o.toNat + i))) false) (t.after (offBytes off)))) ∧
    (spaceOf off ≠ 0 → u.protect t.slot addr size false = none → inOwnBanks (motifOf x) addr size = false →
      let parts := u.checkParts (jobAgent t.slot) false addr size
      let v := u.refuseParts (jobAgent t.slot) false parts
      (t.loads.length < 8 → exec c s = .next (State.completes
        { v.askTags t.slot (.load k v.tick) (v.transactions false addr size) with tick := v.tick + 1 } x k
        { t with loads := t.loads ++ [⟨d, v.tick, addr, size, parts, motifOf x, false⟩] } (t.after (offBytes off)))) ∧
      (8 ≤ t.loads.length → exec c s = .next ((u.setTask k (u.task k)).setContext x { u.context x with phase := .waitData })))

/-- When it issues, a load of a device address in the motif's own banks whose banks answer completes with its register holding the bytes read at the ports, with the task's own earlier stores laid over them; a part of a bank that the slot does not own reads zeros, and an uncorrectable word poisons the register. -/
def Obligations.LoadsFromOwnBanks : Prop :=
  ∀ (s u : State) (x k : Nat) (a : SReg) (off : MemOff) (d : LoadDst) (size : Nat) (c : Instr),
    ((∃ r : SReg, d = .s r.val ∧ size = 4 ∧ c = .ldw x r a off) ∨ (∃ r : VReg, d = .v r.val ∧ size = 32 ∧ c = .vld x r a off) ∨
      (∃ r : TReg, d = .t r.val ∧ size = 64 ∧ c = .ldt x r a off)) →
    Issues s x (offBytes off) (sregs [a.val]) k u →
    let t := (s.task k).supersede [d]
    let addr := t.devAddr a.val size off
    let parts := u.checkParts (jobAgent t.slot) false addr size
    spaceOf off ≠ 0 → u.protect t.slot addr size false = none → inOwnBanks (motifOf x) addr size = true → u.partsReady false parts = true →
    let r := (u.refuseParts (jobAgent t.slot) false parts).readParts parts []
    exec c s = .next (r.1.completes x k (t.loadInto d (r.1.forward k r.1.tick addr r.2.1) r.2.2) (t.after (offBytes off)))

/-- When it issues, a store inside the private window completes with exactly its bytes there changed, for VST those of active lanes; a store to a device address that passes the protection checks completes with its bytes posted, those of active lanes in banks the slot owns, under the next number, and no byte of memory changed yet. -/
def Obligations.StoresIssue : Prop :=
  ∀ (s u : State) (x k : Nat) (a : SReg) (off : MemOff) (reads : List LoadDst) (size : Nat) (bytes : Task → List Byte) (on : Task → Nat → Bool) (c : Instr),
    ((∃ r : SReg, reads = sregs [a.val, r.val] ∧ size = 4 ∧ (bytes = fun t => toBytes 4 (t.sreg r.val).toNat) ∧ (on = fun _ _ => true) ∧ c = .stw x r a off) ∨
      (∃ (r : VReg) (p : PReg), reads = sregs [a.val] ++ vregs [r.val] ∧ size = 32 ∧ (bytes = fun t => toBytes 32 (t.vreg r.val).toNat) ∧
        (on = fun t i => (t.preg p.val).getLsbD (i / 4)) ∧ c = .vst x r a p off) ∨
      (∃ r : TReg, reads = sregs [a.val] ++ tregs [r.val] ∧ size = 64 ∧ (bytes = fun t => toBytes 64 (t.treg r.val).toNat) ∧ (on = fun _ _ => true) ∧
        c = .stt x r a off)) →
    Issues s x (offBytes off) reads k u →
    let t := s.task k
    let o := (t.sreg a.val).toInt + (offsetOf size off).toInt
    let addr := t.devAddr a.val size off
    (spaceOf off = 0 → 0 ≤ o → o + size ≤ 128 → ∃ t' : Task, exec c s = .next (u.completes x k t' (t.after (offBytes off))) ∧
      t' = { t with priv := t'.priv } ∧
      ∀ i, t'.priv.get 0#8 i = if o.toNat ≤ i ∧ i < o.toNat + size ∧ on t (i - o.toNat) then (bytes t).getD (i - o.toNat) 0#8 else t.priv.get 0#8 i) ∧
    (spaceOf off ≠ 0 → u.protect t.slot addr size true = none → ∃ v : State,
      exec c s = .next (v.completes x k t (t.after (offBytes off))) ∧ v.mem = u.mem ∧
      ∀ cell : Nat × Byte, (∃ p ∈ v.posted, p ∉ u.posted ∧ cell ∈ p.bytes) →
        addr ≤ cell.1 ∧ cell.1 < addr + size ∧ on t (cell.1 - addr) ∧ (bytes t)[cell.1 - addr]? = some cell.2 ∧
        (addr < bankEnd → u.ownerOk (bankOf cell.1) (jobAgent t.slot) true))

/-- A LOAD_RETURN of an outstanding load that may return (it holds its tags, and nothing on its way holds it back), whose banks answer with no handover or transition under them, completes with the register holding the bytes read, the task's earlier stores laid over them, poisoned when the read failed; a register that a later instruction has written keeps its value. The load is no longer outstanding, its tags are free, and a context that waited for data is ready. A STORE_COMPLETE of a posted store that may land and holds its tags or needs none, whose banks answer with no handover or transition under them, takes it off the posted stores and writes its bytes, run by run, and then lets the additions that waited for it take place. -/
def Obligations.LoadsReturnStoresLand : Prop :=
  (∀ (s : State) (x i k : Nat) (host : List Host.Cell) (failed : Bool) (l : PLoad), (s.context x).task = some k → (s.task k).loads[i]? = some l →
    s.mayReturn k l = true → (∀ b, s.underHandover l.born b = false ∧ s.underSleep l.born b = false) → s.partsReady false l.parts = true →
    let r := s.readParts l.parts (if failed then [] else host)
    let t := { r.1.task k with loads := (r.1.task k).loads.eraseIdx i }
    exec (.loadReturn x i host failed) s = .next (((r.1.setTask k
      (if l.dead then t else t.loadInto l.dst (r.1.forward k l.born l.addr r.2.1) r.2.2)).freeUser (.load k l.born)).wakeData x)) ∧
  (∀ (s : State) (id : Nat) (p : Posted), s.posted.find? (fun q => q.id = id) = some p → s.mayLand p = true →
    let runs := cellRuns p.bytes
    (s.holdsTag (.store id) = true ∨ runs.flatMap (fun r => s.transactions true r.1 r.2.length) = []) → s.tagWaits (.store id) = false →
    (∀ b, s.underHandover id b = false ∧ s.underSleep id b = false) → runs.all (fun r => s.spanReady .outside true r.1 r.2.length) = true →
    exec (.storeComplete id) s = .next ((runs.foldl (fun (v : State) r => v.writeDev .outside r.1 r.2)
      { s.freeUser (.store id) with posted := s.posted.filter (fun q => q.id ≠ id) }).applyAdds)) ∧
  (∀ (p : Nat × List Byte), (p.2 ≠ [] → cellRuns (p.2.zipIdx.map (fun e => (p.1 + e.2, e.1))) = [(p.1, p.2)]))

/-- An access of 1 to 64 bytes within one line of a served bank that finds no memory error and whose words are clean: from an agent that passes the ownership check, a read sends exactly the bytes held and changes no byte, and a write changes exactly its bytes and no other byte of memory. From an agent that fails the check, a write changes no byte of memory and a read sends zeros, and NOT_OWNED is set either way. An access over two lines is the two accesses to its parts, one after the other. -/
def Obligations.BankAccessServed : Prop :=
  (∀ (s : State) (from_ : Arrival) (a n : Nat), 0 < n → n ≤ 64 → a + n ≤ bankEnd → a % 64 + n ≤ 64 →
    let b := bankOf a
    s.served b = .yes → (∀ i, i < n → s.mark (a + i) = 0) → (s.bank b).scrubRead = none →
    (s.ownerOk b (agentOf from_.by_) false = true →
      exec (.bankAccess from_ a n none []) s = .next (s.emit (.readData ((List.range n).map (fun i => s.byte (a + i))) false))) ∧
    (s.ownerOk b (agentOf from_.by_) false = false → exec (.bankAccess from_ a n none []) s =
      .next ((s.notOwned a (agentOf from_.by_) false).emit (.readData (List.replicate n 0#8) false))) ∧
    (∀ bs : List Byte, bs.length = n →
      (s.ownerOk b (agentOf from_.by_) true = true → ∃ t, exec (.bankAccess from_ a n (some bs) []) s = .next t ∧ t.regs = s.regs ∧
        ∀ c, t.byte c = if a ≤ c ∧ c < a + n then bs.getD (c - a) 0#8 else s.byte c) ∧
      (s.ownerOk b (agentOf from_.by_) true = false → ∃ t, exec (.bankAccess from_ a n (some bs) []) s = .next t ∧
        (∀ c, t.byte c = s.byte c) ∧ t.bit (Reg.BK_STATUS b) 0 = true))) ∧
  (∀ (s : State) (from_ : Arrival) (a n : Nat) (data : Option (List Byte)), n ≤ 64 → a + n ≤ bankEnd → 64 < a % 64 + n →
    let k := 64 - a % 64
    ∃ t, exec (.bankAccess from_ a k (data.map (·.take k)) []) s = .next t ∧
      exec (.bankAccess from_ a n data []) s = exec (.bankAccess from_ (a + k) (n - k) (data.map (·.drop k)) []) t)

/-- What every lane-wise vector instruction stores: each active lane of the destination holds its result, each inactive lane what it held, and the flags raised are exactly those of the active lanes. -/
def Obligations.LanesOfVectorResults : Prop :=
  ∀ (p : Byte) (v : Vec) (f : Nat → Nat × Flags),
    (∀ l, l < 8 → lane (laneFold p v f setLane).1 l = if active p l then (f l).1 % 2 ^ 32 else lane v l) ∧
    (∀ i, i < 8 → (laneFold p v f setLane).2.getLsbD i = (List.range 8).any (fun l => active p l && (f l).2.getLsbD i))

/-- When they issue in a format the operation takes, VADD, VSUB, VMUL, VFMA, VMAX, VMIN, VRCP, VRSQ and VEXP2 complete with each active lane of v[d] holding the operation's result under ARITH.RM and the flags raised ORed into ARITH; I32 lanes wrap and raise none. Nothing else changes but the program counter and the count of instructions. -/
def Obligations.VectorArithmetic : Prop :=
  ∀ (s u : State) (x k : Nat) (d a b : VReg) (fmt : BitVec 2) (p : PReg) (f : Fmt), laneFmt fmt = some f →
    let t := (s.task k).supersede (vregs [d.val])
    let done := fun op =>
      let r := laneFold (t.preg p.val) (t.vreg d.val)
        (fun l => vopLane op f t.rm (element f (t.vreg a.val) 0 l) (element f (t.vreg b.val) 0 l) (element f (t.vreg d.val) 0 l)) setLane
      u.completes x k ((t.setV d.val r.1).flag r.2) (t.after 4)
    let one := fun op =>
      let r := laneFold (t.preg p.val) (t.vreg d.val)
        (fun l => vopLane op f t.rm (element f (t.vreg a.val) 0 l) (element f (t.vreg 0) 0 l) (element f (t.vreg d.val) 0 l)) setLane
      u.completes x k ((t.setV d.val r.1).flag r.2) (t.after 4)
    (Issues s x 4 (vregs [a.val, b.val]) k u →
      exec (.vadd x d a b fmt p) s = .next (done .add) ∧ exec (.vsub x d a b fmt p) s = .next (done .sub) ∧
      exec (.vmul x d a b fmt p) s = .next (done .mul) ∧ exec (.vmax x d a b fmt p) s = .next (done .max) ∧
      exec (.vmin x d a b fmt p) s = .next (done .min)) ∧
    (f ≠ .i32 → Issues s x 4 (vregs [a.val, b.val, d.val]) k u → exec (.vfma x d a b fmt p) s = .next (done .fma)) ∧
    (f ≠ .i32 → Issues s x 4 (vregs [a.val]) k u →
      exec (.vrcp x d a fmt p) s = .next (one .rcp) ∧ exec (.vrsq x d a fmt p) s = .next (one .rsq) ∧ exec (.vexp2 x d a fmt p) s = .next (one .exp2)) ∧
    (∀ m n c, vopLane .add .i32 t.rm m n c = ((m + n) % 2 ^ 32, 0#8) ∧ vopLane .mul .i32 t.rm m n c = (m * n % 2 ^ 32, 0#8))

/-- When they issue with fields that are legal, VCMP completes with bit l of p[d] set exactly where lane l is active and meets the condition; VSEL with each lane of v[d] taken from v[a] where the predicate is set and from v[b] elsewhere; VSPL with s[a] in each active lane and the others kept; VGET with the lane in s[d]; VRED with the fixed pairing of the active lanes, or its empty value with none active. -/
def Obligations.VectorComparesAndMoves : Prop :=
  ∀ (s u : State) (x k : Nat) (p : PReg),
    let t := s.task k
    let on := active (t.preg p.val)
    (∀ (d : PReg) (a b : VReg) (fmt : BitVec 2) (cond : BitVec 3) (f : Fmt), laneFmt fmt = some f → cond.toNat ≤ 4 → ¬ (cond.toNat = 4 ∧ f = .i32) →
      Issues s x 4 (vregs [a.val, b.val]) k u → ∃ (w : Byte) (fl : Flags),
        exec (.vcmp x d a b fmt cond p) s = .next (u.completes x k ((t.setP d.val w).flag fl) (t.after 4)) ∧
        ∀ l, l < 8 → w.getLsbD l = (on l && (cmpLane f cond.toNat (element f (t.vreg a.val) 0 l) (element f (t.vreg b.val) 0 l)).1)) ∧
    (∀ d a b : VReg, Issues s x 4 (vregs [a.val, b.val]) k u → ∃ w : Vec,
      exec (.vsel x d a b p) s = .next (u.completes x k ((t.supersede (vregs [d.val])).setV d.val w) (t.after 4)) ∧
      ∀ l, l < 8 → lane w l = lane (if on l then t.vreg a.val else t.vreg b.val) l) ∧
    (∀ (d : VReg) (a : SReg), Issues s x 4 (sregs [a.val]) k u → ∃ w : Vec,
      exec (.vspl x d a p) s = .next (u.completes x k ((t.supersede (vregs [d.val])).setV d.val w) (t.after 4)) ∧
      ∀ l, l < 8 → lane w l = if on l then (t.sreg a.val).toNat else lane (t.vreg d.val) l) ∧
    (∀ (d : SReg) (a : VReg) (l : Fin 8), Issues s x 4 (vregs [a.val]) k u →
      exec (.vget x d a l) s = .next (u.completes x k ((t.supersede (sregs [d.val])).setS d.val (BitVec.ofNat 32 (lane (t.vreg a.val) l.val))) (t.after 4))) ∧
    (∀ (d : SReg) (a : VReg) (op fmt : BitVec 2) (f : Fmt), laneFmt fmt = some f → op.toNat ≠ 3 → Issues s x 4 (vregs [a.val]) k u →
      let o := if op.toNat = 0 then VOp.add else if op.toNat = 1 then VOp.max else VOp.min
      let r := reduceLanes (fun m n => vopLane o f t.rm m n 0) (fun l => if on l then some (element f (t.vreg a.val) 0 l) else none)
      exec (.vred x d a op fmt p) s = .next (u.completes x k (((t.supersede (sregs [d.val])).setS d.val (BitVec.ofNat 32 (r.1.getD (reduceEmpty op.toNat f)))).flag r.2) (t.after 4)))

/-- When it issues with a legal function and format, VDACT completes with each active lane of v[d] holding the gradient times the derivative factor and the flags ORed into ARITH. When it issues with two different legal formats and a part that both have, VCVT completes with each active element converted, under stochastic rounding for a shorter target when asked, and the first tensor that raised FZ noted. Nothing else changes but the program counter and the count of instructions. -/
def Obligations.VectorDerivativesAndConversions : Prop :=
  ∀ (s u : State) (x k : Nat) (d a : VReg) (p : PReg),
    let t := (s.task k).supersede (vregs [d.val])
    (∀ (b : VReg) (fmt : BitVec 2) (fn : BitVec 6), fmt.toNat ≤ 1 → fn.toNat ≤ 6 → Issues s x 4 (vregs [a.val, b.val]) k u →
      let f := if fmt.toNat = 0 then Fmt.b32 else Fmt.b16
      let slope := if fmt.toNat = 0 then (t.cword 7).toNat else (t.cword 8).toNat % 2 ^ 16
      let r := laneFold (t.preg p.val) (t.vreg d.val)
        (fun l => dactLane f t.rm fn.toNat slope (element f (t.vreg a.val) 0 l) (element f (t.vreg b.val) 0 l)) setLane
      exec (.vdact x d a b fmt fn p) s = .next (u.completes x k ((t.setV d.val r.1).flag r.2) (t.after 4))) ∧
    (∀ (src dst : BitVec 4) (part : BitVec 3) (sr : Bool) (f g : Fmt), Fmt.ofCode src.toNat = some f → Fmt.ofCode dst.toNat = some g → f ≠ g →
      (f.isLane ∨ part.toNat < partsOf f) → (g.isLane ∨ part.toNat < partsOf g) → (f.isLane → g.isLane → part.toNat = 0) →
      Issues s x 4 (vregs [a.val]) k u →
      let rm := fun l => if (sr || bitOf t.arith.toNat 2) && shorter f g then u.laneSr t l else t.rm
      let r := laneFold (t.preg p.val) (t.vreg d.val) (fun l => convert f g (rm l) t.flush (element f (t.vreg a.val) part.toNat l))
        (fun v l n => setElement g v part.toNat l n)
      exec (.vcvt x d a src dst part sr p) s = .next (u.completes x k ((t.setV d.val r.1).noteFlags r.2 (t.cword 1).toNat) (t.after 4)))

/-- When they issue with scale entries that the job slot owns, and for VQNT valid ones, VQNT completes with the element codes packed into v[d], escaped elements as the escape code and in p7, their entries' ESC bits set and the escapes counted; VQNT_CAL with one scale entry written per active lane from its range; VDQ with the dequantised values in v[d], escaped lanes kept and shown in p7. Flags are ORed into ARITH; nothing else changes but the program counter and the count of instructions. -/
def Obligations.Quantisation : Prop :=
  ∀ (s u : State) (x k : Nat) (d a : VReg) (b : SReg) (target : BitVec 2) (p : PReg),
    let t := s.task k
    let m := motifOf x
    let on := t.preg p.val
    let f := quantFmt target
    let e := fun (bcast : Bool) (l : Nat) => (t.sreg b.val).toNat + if bcast then 0 else l
    (∀ (part : BitVec 3) (esc bcast : Bool), part.toNat < partsOf f → Issues s x 4 (vregs [a.val] ++ sregs [b.val]) k u →
      (∀ l ∈ activeLanes on, u.ownsScale t.slot m (e bcast l) = true ∧ scaleValid f (u.scale m (e bcast l)) = true) →
      let q := fun l => quantCode f (if bitOf t.arith.toNat 2 then u.laneSr t l else t.rm) t.flush esc (u.scale m (e bcast l)) (valOf .b32 (lane (t.vreg a.val) l))
      let r := laneFold on (t.vreg d.val) (fun l => (if (q l).esc then escCode f else (q l).code, (q l).flags)) (fun v l n => setPacked f v part.toNat l n)
      let out := (activeLanes on).filter (fun l => (q l).esc)
      exec (.vqnt x d a b target part esc bcast p) s = .next (State.completes
        ((out.foldl (fun v l => v.setEsc m (e bcast l)) u).countEscapes m out.length) x k
        ((((t.supersede (vregs [d.val])).setV d.val r.1).setP 7 (BitVec.ofNat 8 (laneMask out))).noteFlags r.2 (t.cword 1).toNat) (t.after 4))) ∧
    (∀ (margin : BitVec 3) (asym : Bool), (asym = true → f.isInt = true) → Issues s x 4 (vregs [a.val, d.val] ++ sregs [b.val]) k u →
      (∀ l ∈ activeLanes on, u.ownsScale t.slot m (e false l) = true) →
      let c := fun l => calibrate f asym margin.toNat (lane (t.vreg a.val) l) (lane (t.vreg d.val) l)
      let fl := (activeLanes on).foldl (fun n l => n ||| (c l).2) 0#8
      exec (.vqntCal x d a b target margin asym false p) s = .next (State.completes
        ((activeLanes on).foldl (fun v l => v.setScale m (e false l) (c l).1) u) x k
        (t.noteFlags fl (t.cword 1).toNat) (t.after 4))) ∧
    (∀ (part : BitVec 3) (bcast : Bool), part.toNat < partsOf f → Issues s x 4 (vregs [a.val] ++ sregs [b.val]) k u →
      (∀ l ∈ activeLanes on, u.ownsScale t.slot m (e bcast l) = true) →
      let code := fun l => packed f (t.vreg a.val) part.toNat l
      let r := laneFold on (t.vreg d.val) (fun l => if isEsc f (code l) then (lane (t.vreg d.val) l, 0#8) else dequant f (u.scale m (e bcast l)) (code l)) setLane
      exec (.vdq x d a b target part bcast p) s = .next (u.completes x k
        ((((t.supersede (vregs [d.val])).setV d.val r.1).setP 7 (BitVec.ofNat 8 (laneMask ((activeLanes on).filter (fun l => isEsc f (code l)))))).flag r.2) (t.after 4)))

/-- When it issues on a token in a window the job slot owns, WTOK with n from 1 to 255, no earlier waiter and COUNT at least n completes with n subtracted, the token word (the new COUNT, with ERR and SAT as they stood) in s[d], and ERR and SAT clear; with too low a count or an earlier waiter its context waits, last in line, and the count stays. WTOK with n = 0 writes the token word and changes no token, whether met as WTOK or as its peek. A wake serves the first waiter once the count suffices, in the same way. STOK of n adds n, saturating at 255, at once when no store of the task is outstanding. -/
def Obligations.TokensTakeAndAdd : Prop :=
  ∀ (s u : State) (x k : Nat) (d a : SReg) (n : BitVec 8),
    let t := s.task k
    let t' := t.supersede (sregs [d.val])
    let ad := (t.sreg a.val).toNat
    let tk := u.token ad
    let word := fun (c : Nat) => BitVec.ofNat 32 (c + (if tk.err then 256 else 0) + if tk.sat then 512 else 0)
    u.tokenReach t.slot (t.sreg a.val) = true →
    (Issues s x 4 (sregs [a.val]) k u →
      exec (.wtokPeek x d a) s = .next (u.completes x k (t'.setS d.val (word tk.count)) (t.after 4)) ∧
      exec (.wtok x d a 0#8) s = .next (u.completes x k (t'.setS d.val (word tk.count)) (t.after 4)) ∧
      (n ≠ 0#8 → tk.waiters = [] → n.toNat ≤ tk.count → exec (.wtok x d a n) s =
        .next ((u.setToken ad { tk with count := tk.count - n.toNat, err := false, sat := false }).completes x k (t'.setS d.val (word (tk.count - n.toNat))) (t.after 4))) ∧
      (n ≠ 0#8 → (tk.waiters ≠ [] ∨ tk.count < n.toNat) → ∃ v, exec (.wtok x d a n) s = .next v ∧
        v.token ad = { tk with waiters := tk.waiters ++ [k] } ∧ (v.context x).phase = .waitToken ∧ (v.task k).wait = .token ad n.toNat d.val)) ∧
    (Issues s x 4 (sregs [a.val]) k u → n ≠ 0#8 → (∀ p ∈ u.posted, p.key ≠ k) → u.adds = [] →
      exec (.stok x a n) s = .next ((u.setToken ad { tk with count := min 255 (tk.count + n.toNat), sat := tk.sat || decide (255 < tk.count + n.toNat) }).completes
        x k t (t.after 4)))

/-- WTOK_WAKE of a token whose oldest waiter's n has come: that waiter leaves the line, n is subtracted, ERR and SAT clear, its task has the token word in its register and goes on past the WTOK, and its context is ready. With too low a count nothing changes. -/
def Obligations.TokenWakeServesFirstWaiter : Prop :=
  ∀ (s : State) (a n d k x : Nat) (rest : List Nat) (b : Nat), (s.token a).waiters = k :: rest → (s.task k).wait = .token b n d → s.ctxOfTask k = some x →
    let tk := s.token a
    (tk.count < n → exec (.wtokWake a) s = .next s) ∧
    (n ≤ tk.count → ∃ v, exec (.wtokWake a) s = .next v ∧
      v.token a = { count := tk.count - n, err := false, sat := false, waiters := rest } ∧
      (v.task k).wait = .none ∧ (v.task k).pc = (s.task k).pc + 4#32 ∧ (v.context x).phase = .ready ∧
      (d ≠ 0 → (v.task k).sreg d = BitVec.ofNat 32 (tk.count - n + (if tk.err then 256 else 0) + if tk.sat then 512 else 0)) ∧
      v.mem = s.mem ∧ v.regs = s.regs)

/-- When it issues, a FENCE whose stores and commands are done completes at once and changes nothing but the program counter; otherwise its context waits. HALT and STEPEND, once the task's stores are done and the matrix commands of its claims, end the task. FENCE_RELEASE lets a waiting fence go on, or the waiting end take place, when what it waited for has come about, and otherwise changes nothing. -/
def Obligations.FencesAndEnds : Prop :=
  ∀ (s u : State) (x k : Nat),
    let t := s.task k
    (Issues s x 4 [] k u →
      let stores := ∀ p ∈ u.posted, p.key ≠ k
      let commands := (u.task k).cmds = []
      let waits := fun w => (u.setTask k { u.task k with wait := w }).setContext x { u.context x with phase := .waitData }
      (stores → exec (.fenceStores x false) s = .next (u.completes x k t (t.after 4))) ∧
      (¬ stores → ∀ b, exec (.fenceStores x b) s = .next (waits (.fence true b))) ∧
      (stores → commands → exec (.fenceStores x true) s = .next (u.completes x k t (t.after 4))) ∧
      (commands → exec (.fenceCommands x) s = .next (u.completes x k t (t.after 4))) ∧
      (¬ commands → exec (.fenceCommands x) s = .next (waits (.fence false true))) ∧
      (stores → (∀ e ∈ u.engines, e.2.owner = some k → e.2.quiet = true) → exec (.halt x) s = .next ((u.endTask k false).tookTurn x) ∧
        (t.update = false → exec (.stepend x) s = .next ((u.endTask k true).tookTurn x)))) ∧
    ((s.context x).task = some k →
      (∀ stores commands, t.wait = .fence stores commands →
        (s.fenceMet k stores commands = true → exec (.fenceRelease x) s =
          .next ((s.setTask k { t with wait := .none, pc := t.pc + 4#32, issued := t.issued + 1#32 }).setContext x { s.context x with phase := .ready })) ∧
        (s.fenceMet k stores commands = false → exec (.fenceRelease x) s = .next s)) ∧
      (∀ e, t.wait = .halt e → s.haltMet k = true → exec (.fenceRelease x) s = .next (s.endTask k e)))

/-- When it issues with no load outstanding, YIELD with a free record in the save area leaves the context: the task stands past the YIELD, saved in the lowest free record, last in its motif's queue, where that has room; with no free record it goes on, and the failed yield is counted. When it issues with an even register in a task that may spawn, SPAWN completes with the record of v[a] and v[a + 1] offered for placing and s[d] holding 0 placed, 1 no room or 2 no motif. -/
def Obligations.YieldAndSpawn : Prop :=
  ∀ (s u : State) (x k : Nat),
    let t := s.task k
    (Issues s x 4 [] k u → t.loads = [] →
      (∀ i, u.freeRec t.slot = some i → u.queueFull (motifOf x) = false →
        exec (.yield x) s = .next (((u.setTask k { t with pc := t.pc + 4#32, issued := t.issued + 1#32 }).saveTask x k i).tookTurn x)) ∧
      (u.freeRec t.slot = none → exec (.yield x) s = .next ((u.count (Reg.PN_JOB_YIELDS t.slot) 16 16 1).completes x k t (t.after 4)))) ∧
    (∀ (d : SReg) (a : VReg), a.val % 2 = 0 → t.update = false → Issues s x 4 (vregs [a.val, a.val + 1]) k u →
      let w := (List.range 16).map (fun i => BitVec.ofNat 32 (lane (t.vreg (a.val + i / 8)) (i % 8)))
      let r := u.placeTask (motifOf x) t.slot t.serial t.request w
      exec (.spawn x d a) s = .next ((r.1.setTask k { Task.setS { r.1.task k with loads := (t.supersede (sregs [d.val])).loads } d.val (BitVec.ofNat 32 r.2) with
        pc := t.after 4, issued := t.issued + 1#32 }).setRunning x) ∧ r.2 ≤ 2)

/-- A deferred fault of a task that has ended, or that stands at an instruction boundary, is taken: it leaves the list, its exception record is written with the instruction's own words and address, the context that holds the task is FAULTED, and the job slot's policy is applied. Of a task inside an instruction nothing is taken. -/
def Obligations.DeferredFaultTaken : Prop :=
  ∀ (s : State) (i : Nat) (d : Deferred), s.deferred[i]? = some d →
    let k := d.cmd.key
    let v := { s with deferred := s.deferred.eraseIdx i }
    let taken := fun (x : Nat) => v.writeExc d.code x (slotOf k) true d.cmd.pc d.cmd.w0 d.cmd.w1 d.addr d.detail
    (s.alive k = true → (s.task k).wait ≠ .none → exec (.deferredFaultReport i) s = .next s) ∧
    (s.alive k = true → (s.task k).wait = .none → ∀ x, s.ctxOfTask k = some x → ((taken x).context x).task = some k →
      exec (.deferredFaultReport i) s =
        .next (((taken x).setContext x { (taken x).context x with phase := .faulted }).taskFault k d.code (motifOf x))) ∧
    (s.alive k = false → ∀ e, s.ended.get none k = some e →
      exec (.deferredFaultReport i) s = .next ((taken e.ctx).taskFault k d.code (motifOf e.ctx)))

/-- When it issues with an accepted configuration, needing no fenced quadrant, with no other task and no claim of its own in the way and room in the queues, MCFG completes with the unit owned by the task, its engine fresh and holding that configuration. While another task holds part of it, the context waits for the array. MCFG REL by the owner of an idle engine ends the claim. A grant to a waiting claim that nothing holds up any longer makes it and lets the task go on; while it is held up, nothing changes. -/
def Obligations.ArrayClaims : Prop :=
  ∀ (s u : State) (x k : Nat) (a : SReg) (quad : Bool) (q : Fin 4),
    let t := s.task k
    let m := motifOf x
    let unit := mcfgUnit quad q
    let cfg := (t.sreg a.val).toNat
    (quad = false → q = 0) →
    (Issues s x 4 (sregs [a.val]) k u →
      (u.heldByOther m unit k = true → u.ownInTheWay m unit k = false → exec (.mcfg x a quad q) s =
        .next ((u.setTask k { u.task k with wait := .claim cfg unit }).setContext x { u.context x with phase := .waitArray })) ∧
      (u.heldByOther m unit k = false → u.queueFill m < arrayLimit → u.cfgBad cfg unit = false → (∀ v, v < 5 → (u.engine m v).owner ≠ some k) →
        neededQuads unit cfg &&& u.fld (Reg.MA_FENCE m) 0 4 = 0 → exec (.mcfg x a quad q) s =
          .next (((u.setEngine m unit { owner := some k, order := u.tick, cfg := cfg, pass := bitsOf cfg 12 2 }).numbered).completes x k t (t.after 4)))) ∧
    (Issues s x 4 [] k u → (u.engine m unit).owner = some k → (u.engine m unit).quiet = true → (u.engine m unit).holdsData = false →
      exec (.mcfgRel x quad q) s = .next ((u.endClaim m unit).completes x k t (t.after 4))) ∧
    ((s.context x).task = some k → ∀ c v, t.wait = .claim c v →
      (s.heldByOther m v k = true → exec (.arrayClaimGrant x) s = .next s) ∧
      (s.heldByOther m v k = false → s.cfgBad c v = false → (∀ w, w < 5 ∨ w = v → (s.engine m w).owner ≠ some k) →
        neededQuads v c &&& s.fld (Reg.MA_FENCE m) 0 4 = 0 → exec (.arrayClaimGrant x) s =
          .next (((s.claimUnit m v k c).setTask k { t with wait := .none, pc := t.pc + 4#32, issued := t.issued + 1#32 }).setContext x
            { (s.claimUnit m v k c).context x with phase := .ready })))

/-- When it issues by the owner of a unit whose quadrants are not fenced, with views that pass the issue checks and no refusal of the array's own, and with room in the queues, a matrix command completes with itself last in its unit's queue, numbered and listed in the task's commands; a load also marks that one was queued. A swap needs a set that is not draining. -/
def Obligations.ArrayCommandsQueue : Prop :=
  ∀ (s u : State) (x k unit : Nat) (q : Fin 4),
    let t := s.task k
    let m := motifOf x
    let e := u.engine m unit
    u.unitOf m k q.val = some unit → neededQuads unit e.cfgNext &&& u.fld (Reg.MA_FENCE m) 0 4 = 0 → u.queueFill m < arrayLimit →
    let cfg := e.cfgNext
    let queued := fun (i : Insn) (word tid : Nat) (make : CmdInfo → MCmd) (load : Bool) =>
      let c := u.command x k t i word tid
      let v := (u.numbered.setTask k (t.issuedCmd c)).putEngine m unit { e with queue := e.queue ++ [make c], loadQueued := e.loadQueued || load }
      (v.setTask k { v.task k with pc := t.after 4, issued := t.issued + 1#32 }).setRunning x
    (∀ n : BitVec 2, n ≠ 0#2 → (1 < n.toNat → u.fullService = true) → Issues s x 4 [] k u →
      exec (.mpass x n q) s = .next (queued { w0 := encWord 0x31 0 0 0 (n.toNat + q.val * 8) } 0 0 (fun c => .mpass c n.toNat) false)) ∧
    (Issues s x 4 [] k u → e.undrained = false →
      exec (.mswap x q) s = .next (queued { w0 := encWord 0x34 0 0 0 (q.val * 2) } 0 0 .mswap false)) ∧
    (∀ (a : TReg) (b : SReg) (tr : Bool),
      let d := Desc.shifted ⟨(t.treg a.val).toNat⟩ (t.sreg b.val)
      Issues s x 4 (tregs [a.val] ++ sregs [b.val]) k u → u.sourceFault m t.slot d = none →
      (wrongView d (cfgA cfg) = false → (if tr then d.ext0 else d.ext1) ≤ unitRows unit cfg → (if tr then d.ext1 else d.ext0) ≤ unitCols unit cfg →
        exec (.mlds x a b tr q) s = .next (queued { w0 := encWord 0x32 0 a.val b.val (b2n tr + q.val * 2) } 0 0 (fun c => .mlds c d.raw tr) true)) ∧
      (∀ c0 : BitVec 7, wrongView d (cfgB cfg) = false → (if tr then d.ext1 else d.ext0) ≤ unitCols unit cfg →
        c0.toNat + (if tr then d.ext0 else d.ext1) ≤ setColumns unit → e.loadQueued = true →
        exec (.mstr x a b tr q c0) s =
          .next (queued { w0 := encWord 0x33 0 a.val b.val (b2n tr + q.val * 2 + c0.toNat * 8) } 0 0 (fun c => .mstr c d.raw tr c0.toNat) false))) ∧
    (∀ (d : TReg) (a b : SReg) (func : BitVec 9), bitsOf func.toNat 6 2 = q.val →
      let dst := Desc.flat ⟨(t.treg d.val).toNat⟩
      let cmd := (t.sreg a.val).toNat
      Issues s x 4 (tregs [d.val] ++ sregs [a.val, b.val]) k u → u.mdrnFault m t.slot unit dst cmd func.toNat = none →
      u.mdrnRefusal m unit dst cmd func.toNat = none →
      exec (.mdrn x d a b func) s = .next (queued { w0 := encWord 0x35 d.val a.val b.val func.toNat } cmd dst.tid
        (fun c => .mdrn c dst.raw cmd (t.sreg b.val).toNat func.toNat t.flush) false))

/-- When it issues by the owner of an idle engine, MCHK completes with the status word of the last drain, the fenced quadrants, SUSPECT and the replays in s[d], and changes nothing else. The self-test form, on a whole array with empty sets, fences the quadrants of the faulty cells and raises FOOTING_MISMATCH for them, and reports them; with no faulty cell it fences nothing. A write of MA_FOOT_CTL stores TOL_EXP held to 4 to 20, with CHECK_EN and RETRY as written. -/
def Obligations.ArrayChecks : Prop :=
  ∀ (s u : State) (x k unit : Nat) (d : SReg) (q : Fin 4),
    let t := s.task k
    let m := motifOf x
    (Issues s x 4 [] k u → u.unitOf m k q.val = some unit → (u.engine m unit).quiet = true →
      exec (.mchk x d q) s = .next (u.completes x k ((t.supersede (sregs [d.val])).setS d.val (u.mchkWord m unit 0)) (t.after 4)) ∧
      (∀ cells, unit = 4 → (u.engine m 4).idleSets = true →
        let f := faultyQuads cells
        let v := if f = 0 then u else (u.fenceQuads m f).footEvent m .fenced false 0 f
        exec (.mchkSelftest x d q cells) s = .next (v.completes x k ((t.supersede (sregs [d.val])).setS d.val (v.mchkWord m 4 f)) (t.after 4)))) ∧
    (∀ (motif : Nat) (v : Word), ∃ w, exec (.maFootCtlWrite motif v) s = .next w ∧ w.mem = s.mem ∧
      (∀ r, r ≠ Reg.MA_FOOT_CTL motif → w.rd r = s.rd r) ∧
      w.fld (Reg.MA_FOOT_CTL motif) 0 5 = max 4 (min 20 (v.toNat % 32)) ∧ w.fld (Reg.MA_FOOT_CTL motif) 5 3 = v.toNat / 32 % 8)

/-- MLDS_DONE of an engine whose first queued load may run and whose source answers: the tile is read into the free stationary register, the load's place in the queue is taken by its chunk mark, and its command ends. CHUNK_STREAM_END with streams at the head of the queue whose sources answer: their vectors enter the active set, which is ACCUMULATING, under the register that the chunk names; while a replay or the self-test runs, streaming pauses. MSWAP_EFFECT with a swap at the head and the other set EMPTY: the sets change roles and the old one is DRAINING; with the other set not EMPTY nothing changes. -/
def Obligations.ArrayEngineSteps : Prop :=
  ∀ (s : State) (m unit : Nat),
    let e := s.engine m unit
    (∀ pre c rest, splitLoad e.queue = some (pre, c, rest) → loadMayRun (cfgA e.cfg) pre = true → s.sourceReady c = true →
      let r := s.readTile unit e.cfg c
      let reg := loadTarget e.stat pre
      let filled := if cfgA e.cfg = .b32 then (e.putReg reg r.2).putReg (!reg) r.2 else e.putReg reg r.2
      exec (.mldsDone m unit) s = .next ((r.1.putEngine m unit { filled with queue := pre ++ .chunk reg :: rest }).endM c).settleAborts) ∧
    (∀ info rest, e.queue = .mswap info :: rest →
      ((e.set (!e.active)).phase ≠ .empty → exec (.mswapEffect m unit) s = .next s.settleAborts) ∧
      ((e.set (!e.active)).phase = .empty → (e.set e.active).phase ≠ .empty → exec (.mswapEffect m unit) s =
        .next ((s.putEngine m unit ({ e with active := !e.active, queue := rest }.putSet e.active { e.set e.active with phase := .draining })).endCmd info false).settleAborts)) ∧
    (∀ reg run rest, e.queue = .chunk reg :: rest → splitStreams rest = run → run.1 ≠ [] → run.1.all s.sourceReady = true →
      (e.set e.active).phase = .accumulating → ∀ upsets,
      ((e.drain = .replaying ∨ e.drain = .selftest) → exec (.chunkStreamEnd m unit upsets) s = .next s.settleAborts) ∧
      (e.drain ≠ .replaying → e.drain ≠ .selftest →
      let t0 := e.set e.active
      let r := s.readStreams unit e.cfg run.1
      let y := streamChunk (streamCfg unit e.cfg e.pass t0.ctl) (e.reg reg) t0 r.2
      let log := logMore t0.log ((e.reg reg).load.toList ++ run.1)
      let v := match run.1.getLast? with | some (.mstr info _ _ _) => r.1.flagTask info.key y.2 0 | _ => r.1
      exec (.chunkStreamEnd m unit upsets) s = .next (State.settleAborts (run.1.foldl State.endM (v.putEngine m unit
        (({ e with stat := reg, queue := run.2 }).putSet e.active (upsets.foldl upsetSet { y.1 with log := log })))))))

/-- DRAIN_START with an MDRN at the head, its set DRAINING and its banks answering: the drain is reading, and unless it is checked before the plait its values go out. DRAIN_COMPLETE of a reading drain runs its comparisons. REPLAY_DONE of a drain that replays counts the replay, runs the logged commands again into the cleared set and compares. ARRAY_SELFTEST_DONE fences the quadrants with faulty cells, or with none marks the array SUSPECT, with the FOOTING_MISMATCH event, and the MDRN ends with status FAIL. In any other phase each changes nothing. -/
def Obligations.DrainsAndReplays : Prop :=
  ∀ (s : State) (m unit : Nat),
    let e := s.engine m unit
    let t := e.set e.drainSet
    (∀ info desc cmd dscale func flush rest, e.queue = .mdrn info desc cmd dscale func flush :: rest → e.drain = .idle → t.phase = .draining →
      s.spansReady (jobAgent (slotOf info.key)) true (Desc.spans ⟨desc⟩) = true →
      let v := s.putEngine m unit { e with queue := rest, drain := .reading, drainCmd := some (.mdrn info desc cmd dscale func flush), replays := 0, oldStats := s.saveStats m unit }
      exec (.drainStart m unit) s =
        .next (State.settleAborts (if checkedPlait t ⟨desc⟩ then v else v.drainOut m unit e.cfg t info ⟨desc⟩ cmd dscale func flush true))) ∧
    (∀ info desc cmd dscale func flush, e.drainCmd = some (.mdrn info desc cmd dscale func flush) →
      (e.drain = .reading → exec (.drainComplete m unit) s = .next (s.drainChecked m unit info ⟨desc⟩ cmd dscale func flush).settleAborts) ∧
      (e.drain ≠ .reading → exec (.drainComplete m unit) s = .next s.settleAborts) ∧
      (e.drain = .replaying → checkedPlait t ⟨desc⟩ = true →
        let v := ((s.count (Reg.MA_REPLAY_COUNT m) 0 16 1).restoreStats m unit e.oldStats).setEngine m unit ({ e with replays := e.replays + 1 }.putSet e.drainSet t.cleared)
        let w := replayLog m unit e.drainSet t.log none [] v
        exec (.replayDone m unit []) s = .next ((w.setEngine m unit ((w.engine m unit).putSet (w.engine m unit).drainSet
          ((w.engine m unit).set (w.engine m unit).drainSet))).drainChecked m unit info ⟨desc⟩ cmd dscale func flush).settleAborts) ∧
      (e.drain ≠ .replaying → ∀ up, exec (.replayDone m unit up) s = .next s.settleAborts) ∧
      (e.drain = .selftest → ∀ cells,
        (faultyQuads cells ≠ 0 → exec (.arraySelftestDone m unit cells) s =
          .next (((s.fenceQuads m (faultyQuads cells)).footEvent m .fenced e.drainSet e.replays (faultyQuads cells)).failDrain m unit info ⟨desc⟩).settleAborts) ∧
        (faultyQuads cells = 0 → exec (.arraySelftestDone m unit cells) s =
          .next (((s.setArray m { s.array m with suspect := true }).footEvent m .corrected e.drainSet e.replays 0).failDrain m unit info ⟨desc⟩).settleAborts)))

/-- A write of an entry's first word: an entry that is OPEN ignores it. Otherwise the word is stored, and without OPEN nothing else changes. With OPEN, an entry with no present position, no element, more than 2^24 elements or an unknown output format becomes FAULT with CONFIG set, and its event is raised; any other entry that stays within the module is OPEN, with its flags, taps and counts of elements zero, its epoch that of its group, and the fall-back bit as the fall-back conditions say. Memory does not change. -/
def Obligations.PlaitEntryOpens : Prop :=
  ∀ (s : State) (i : Nat) (v : Word),
    let ctl := Reg.PN_PLAIT_CTL i
    let stored := (s.rd ctl &&& ~~~0xFFFE8#32) ||| (v &&& 0xFFFE8#32)
    let bad := s.plCount i = 0 ∨ s.plElements i = 0 ∨ 0x1000000 < s.plElements i ∨ 10 ≤ bitsOf v.toNat 10 4
    (256 ≤ i ∨ s.entryState i = 1 → exec (.plaitOpen i v) s = .next s) ∧
    (i < 256 → s.entryState i ≠ 1 →
      (v.getLsbD 2 = false → exec (.plaitOpen i v) s = .next (s.wr ctl stored)) ∧
      (v.getLsbD 2 = true → bad → ∃ t, exec (.plaitOpen i v) s = .next t ∧ t.entryState i = 3 ∧ t.bit (Reg.PN_PLAIT_FLAGS i) 12 = true ∧ t.mem = s.mem) ∧
      (v.getLsbD 2 = true → ¬ bad → v.getLsbD 6 = false → ∃ t, exec (.plaitOpen i v) s = .next t ∧ t.entryState i = 1 ∧ t.entry i = { exits := (t.entry i).exits } ∧
        t.fld (Reg.PN_PLAIT_FLAGS i) 0 6 = 0 ∧ t.rd (Reg.PN_PLAIT_DONE i) = 0#32 ∧ t.rd (Reg.PN_PLAIT_SOFT i) = 0#32 ∧
        t.rd (Reg.PN_PLAIT_EPOCH i) = s.rd (Reg.HF_GROUP_EPOCH (bitsOf v.toNat 14 6)) ∧ t.mem = s.mem))

/-- A PLAIT_CONTRIBUTION that passes the checks of its entry joins the tree at its position's leaf, in flits of eight elements, moves the position's next offset past it, counts a relayed one at its ground node, and ends its command; one that fails them leaves the tree as it is and its refusal is recorded. On the fall-back path PLAIT_FALLBACK_WRITE writes its elements at their place in the partial area once the banks answer, and counts them; the element that completes the count starts the summing task. -/
def Obligations.PlaitContributions : Prop :=
  ∀ (s : State) (id : Nat) (c : Contribution), s.contribs.find? (fun c => c.id = id) = some c →
    let i := c.entry
    let v : State := { s with contribs := s.contribs.filter (fun c => c.id ≠ id) }
    (s.plSoft i = false →
      (∀ f, s.contributionFault c false = some f → exec (.plaitContribution id) s = .next ((v.refuseContribution c f.1 f.2).settleAborts)) ∧
      (∀ p, s.contributionFault c false = none → s.positionOf c = some p →
        let fl := flitsOf i s.tick ((s.kept c).length / 8 + 1) c.offset (s.kept c)
        let e := { s.entry i with next := (s.entry i).next.put 0 p (c.offset + c.vals.length) }
        let phys := 4096 * s.plMap i (p / 4096) + p % 4096
        let w := if c.motif % 2560 = p % 4096 then v else v.count (Reg.GD_PLAIT_COUNT (s.plMap i (p / 4096) * 40 + p / 64 % 64)) 0 16 fl.length
        exec (.plaitContribution id) s = .next (State.settleAborts (State.endContribution (State.numbered
          (if w.exitLevel i = 0 then w.setEntry i { e with out := e.out ++ fl } else (w.setEntry i e).setEdge 0 phys (s.edge 0 phys ++ fl))) c)))) ∧
    (s.plSoft i = true → ∀ p, s.contributionFault c true = none → s.positionOf c = some p →
      let a := s.plPartial i + (s.rankOf i p * s.plE8 i + c.offset) * 4
      s.spanReady (jobAgent c.slot) true a (4 * (s.kept c).length) = true →
      let w := v.writeDev (jobAgent c.slot) a (bytesOfWords (s.kept c))
      let done := (w.entry i).taken + (s.kept c).length
      let y := (w.setEntry i { w.entry i with taken := done }).wr (Reg.PN_PLAIT_SOFT i) (BitVec.ofNat 32 (min (2 ^ 32 - 1) done))
      exec (.plaitFallbackWrite id) s = .next (State.settleAborts (State.endContribution
        (if y.plElements i * y.plCount i ≤ done && (w.entry i).sums = none then y.spawnSums i else y) c)))

/-- Where the heads of a node's two children are flits of one entry and offset, with positions of the entry under both, PLAIT_JOIN takes both, adds them lane by lane and sends the sum on with the older age; a lone head whose entry has no position under the other child passes; with nothing at either child nothing changes. PLAIT_OUTPUT sends the next flit that left the tree, once the banks at its destination answer. PLAIT_ENTRY_DONE makes a complete entry DONE and adds one to its token; of an entry that is not complete, or not OPEN, it changes nothing. -/
def Obligations.PlaitJoinsAndOutput : Prop :=
  (∀ (s : State) (level node : Nat), 1 ≤ level → level ≤ 14 →
    let a := (level - 1, 2 * node)
    let b := (level - 1, 2 * node + 1)
    (s.edge a.1 a.2 = [] → s.edge b.1 b.2 = [] → ∀ p, exec (.plaitJoin level node p) s = .next s) ∧
    (∀ f ra g rb, s.edge a.1 a.2 = f :: ra → s.edge b.1 b.2 = g :: rb → g.entry = f.entry → g.base = f.base → s.underLink f.entry b.1 b.2 = true →
      let r := joinVals (s.plInt f.entry) f.vals g.vals
      exec (.plaitJoin level node false) s = .next ((((s.setEdge a.1 a.2 ra).setEdge b.1 b.2 rb).flagEntry f.entry r.2).leaveNode level node
        ⟨f.entry, f.base, r.1, min f.age g.age⟩)) ∧
    (∀ f ra, s.edge a.1 a.2 = f :: ra → s.edge b.1 b.2 = [] → s.underLink f.entry b.1 b.2 = false →
      exec (.plaitJoin level node false) s = .next ((s.setEdge a.1 a.2 ra).leaveNode level node f)) ∧
    (∀ g rb, s.edge a.1 a.2 = [] → s.edge b.1 b.2 = g :: rb → s.underLink g.entry a.1 a.2 = false →
      exec (.plaitJoin level node false) s = .next ((s.setEdge b.1 b.2 rb).leaveNode level node g))) ∧
  (∀ (s : State) (i : Nat), i < 256 → s.entryState i = 1 → s.plSoft i = false → ∀ f rest, (s.entry i).out = f :: rest →
    (s.entry i).back = [] → s.outReady i f.base f.vals.length = true →
    exec (.plaitOutput i false) s = .next ((s.setEntry i { s.entry i with out := rest }).plaitSend i f.base f.vals |>.collProgress i)) ∧
  (∀ (s : State) (i : Nat),
    (256 ≤ i ∨ s.entryState i ≠ 1 ∨ s.entryComplete i = false → exec (.plaitEntryDone i) s = .next s) ∧
    (i < 256 → s.entryState i = 1 → s.entryComplete i = true → ∃ t, exec (.plaitEntryDone i) s = .next t ∧ t.entryState i = 2 ∧ t.mem = s.mem ∧
      let a := s.fld (Reg.PN_PLAIT_TOKEN i) 0 14 * 256 + s.fld (Reg.PN_PLAIT_TOKEN i) 14 8
      (t.token a).count = min 255 ((s.token a).count + 1) ∧ (t.token a).waiters = (s.token a).waiters))

/-- When it issues with descriptors and a command word that pass the checks, and with room in the motif's transfer engine, XFER completes with the transfer last in the engine's queue and listed in the task's commands. XFER_COMPLETE of one of the first four, whose banks answer, takes it off the queue, makes the whole transfer, and ends its command, or records the deferred fault that stopped it; one handed to the plait ends later. At an index that holds none nothing changes. -/
def Obligations.Transfers : Prop :=
  (∀ (s u : State) (x k : Nat) (d a : TReg) (b : SReg), Issues s x 4 (tregs [d.val, a.val] ++ sregs [b.val]) k u →
    let t := s.task k
    let m := motifOf x
    let dst : Desc := ⟨(t.treg d.val).toNat⟩
    let src : Desc := ⟨(t.treg a.val).toNat⟩
    let word := (t.sreg b.val).toNat
    u.xferFault m t.slot dst src word = none → (u.xfers m).length < 20 →
    let c := u.command x k t { w0 := encWord 0x38 d.val a.val b.val 0 } word dst.tid
    let v := (u.setXfers m (u.xfers m ++ [{ info := c, dst := dst.raw, src := src.raw, subout := t.flush }])).numbered
    exec (.xfer x d a b) s = .next (v.completes x k (t.issuedCmd c) (t.after 4))) ∧
  (∀ (s : State) (m i : Nat) (host : List Host.Cell),
    ((s.xfers m)[i]? = none → exec (.xferComplete m i host) s = .next s) ∧
    (∀ c, i < 4 → (s.xfers m)[i]? = some c → s.xferReady m (slotOf c.info.key) ⟨c.dst⟩ ⟨c.src⟩ = true →
      let r := (s.setXfers m ((s.xfers m).eraseIdx i)).runXfer m c.info ⟨c.dst⟩ ⟨c.src⟩ c.subout host
      exec (.xferComplete m i host) s = .next (State.settleAborts (match r.fault with
        | some code => r.st.deferFault code c.info 0 0
        | none => if r.sent then r.st else r.st.endCmd c.info r.err))))

/-- When it issues outside an update task with descriptors and a command word that pass the checks, with room in the hoist and its index list's banks answering, HGATH completes with the gather queued (held while the table's writer sweeps it), and HSCAT with the scatter queued and its partials formed; each lists the command in the task's commands. -/
def Obligations.HoistIssues : Prop :=
  ∀ (s u : State) (x k : Nat) (d a : TReg) (b : SReg) (host : List Host.Cell), Issues s x 4 (tregs [d.val, a.val] ++ sregs [b.val]) k u →
    let t := s.task k
    let m := motifOf x
    let h := hoistOf m
    let word := (t.sreg b.val).toNat
    let dd := (t.treg d.val).toNat
    let aa := (t.treg a.val).toNat
    (u.hoist h).length < 32 → t.update = false →
    (let info := u.command x k t { w0 := encWord 0x39 d.val a.val b.val 0 } word (Desc.tid ⟨dd⟩);
      let c : HCmd := { id := u.tick, info := info, gather := true, motif := m, d := dd, a := aa, word := word, flush := t.flush, request := t.request };
      u.hoistFault m t.slot c = none → u.spansReady (jobAgent t.slot) false c.list.spans = true →
      let v := u.numbered.queueGather h c host
      exec (.hgath x d a b host) s = .next ((v.setTask k { (v.task k).issuedCmd info with pc := t.after 4, issued := t.issued + 1#32 }).setRunning x)) ∧
    (let info := u.command x k t { w0 := encWord 0x3A d.val a.val b.val 0 } word (Desc.tid ⟨aa⟩);
      let c : HCmd := { id := u.tick, info := info, gather := false, motif := m, d := dd, a := aa, word := word, flush := t.flush, request := t.request };
      u.hoistFault m t.slot c = none →
      u.spansReady (jobAgent t.slot) false (c.list.spans ++ (c.rowsView.spans ++ (if c.winners then [(c.rowsView.aux, c.winBytes)] else []))) = true →
      let v := (u.numbered.setHoist h (u.hoist h ++ [c])).startScatter h c host
      exec (.hscat x d a b host) s = .next ((v.setTask k { (v.task k).issuedCmd info with pc := t.after 4, issued := t.issued + 1#32 }).setRunning x))

/-- ROW_RETURN of a row of this module whose banks answer reads its slot at its tier and widens it, poisoned where a line was uncorrectable; a row that has arrived from another module takes the bytes it brought. HGATH_COMPLETE with a row still out changes nothing. COAL_STORE puts the scatter's next partial into the slot's area, or, where the area is full, ends it with HOIST_COAL; HSCAT_COMPLETE with every partial stored ends its command. COAL_FLUSH at order 2 with no scatter outstanding, outside a group, sums every row's records and marks the flush done; at another order it changes nothing. -/
def Obligations.HoistRowsAndEnds : Prop :=
  (∀ (s : State) (h j row : Nat) (host : List Host.Cell) (c : HCmd) (r : HRow), (s.hoist h)[j]? = some c → c.rows[row]? = some r → c.held = false → r.ready = false →
    let dim := s.dimOf c.table
    (r.tier ≠ 3 → s.spanReady (s.rowAgent r.key r.addr) false r.addr (gatherBytes r.width dim) = true →
      let f := s.fetchRow h c.table r host
      exec (.rowReturn h j row host) s =
        .next ((f.1.setHCmd h { c with rows := c.rows.set row { r.widen dim f.2.1 with poisoned := f.2.2 } }).feedHoist h)) ∧
    (r.tier = 3 → r.arrived = true → r.versionBad = false → r.poisoned = false → exec (.rowReturn h j row host) s =
      .next ((s.setHCmd h { c with rows := c.rows.set row (r.widen dim r.bytes) }).feedHoist h)) ∧
    (c.fault = none → exec (.hgathComplete h j) s = .next s)) ∧
  (∀ (s : State) (h j : Nat) (c : HCmd), (s.hoist h)[j]? = some c → c.gather = true → c.held = false → c.fault = none → c.entries.length ≤ c.started → (∀ r ∈ c.rows, r.ready = true) →
    c.winners = false → s.spansReady (jobAgent c.slot) true c.rowsView.spans = true →
    let v := c.rowsView
    let bags := (List.range v.ext1).map (c.bag v.ext0)
    let w := (((s.dropHCmd h c).feedHoist h).flagTask c.info.key ((c.rows.filter (fun r => !r.poisoned)).foldl (fun a r => a ||| r.flags) 0#8) v.tid).flagTask
      c.info.key (bags.foldl (fun a b => a ||| joinFlags b.vals) 0#8) v.tid
    ∀ y fl, w.writeView c.motif c.slot v c.flush (bags.flatMap (fun b => b.vals.map (·.1))) = (y, fl, none) →
      exec (.hgathComplete h j) s = .next (((y.flagTask c.info.key fl v.tid).endCmd c.info (c.err || bags.any (·.poisoned))).settleAborts)) ∧
  (∀ (s : State) (h j : Nat) (c : HCmd), (s.hoist h)[j]? = some c → c.gather = false →
    (∀ p rest, c.parts = p :: rest →
      let r : CoalRec := { row := p.row, table := c.table, tag := p.tag, src := s.ownIndex c.slot, vals := p.vals }
      let n := s.coalUsed c.slot
      (n < (s.rd (Reg.EM_JOB_COAL_RECORDS c.slot)).toNat → exec (.coalStore h j) s = .next (State.setHCmd
        (((s.writeDev .outside (s.coalBase c.slot + n * s.coalStride c.slot) r.bytes).wr (Reg.EM_JOB_COAL_USED c.slot) (BitVec.ofNat 32 (n + 1))).count
          (Reg.HS_COAL_STORED ((s.writeDev .outside (s.coalBase c.slot + n * s.coalStride c.slot) r.bytes).homeOf r.table r.row)) 0 32 1) h { c with parts := rest })) ∧
      ((s.rd (Reg.EM_JOB_COAL_RECORDS c.slot)).toNat ≤ n → exec (.coalStore h j) s = .next (((s.dropHCmd h c).deferFault .HOIST_COAL c.info 0 0).settleAborts))) ∧
    (c.parts = [] → c.fault = none → exec (.hscatComplete h j) s = .next (((s.dropHCmd h c).endCmd c.info c.err).settleAborts))) ∧
  (∀ (s : State) (slot : Nat), ((s.job slot).drainOrder ≠ 2 → exec (.coalFlush slot) s = .next s) ∧
    ((s.job slot).drainOrder = 2 → (s.job slot).flushed = 0 → (∀ q ∈ s.hoists, ∀ c ∈ q.2, c.gather = true ∨ c.slot ≠ slot) → (s.localSums slot).grouped slot = false →
      exec (.coalFlush slot) s = .next (((s.localSums slot).finalSums slot).setJob slot { s.job slot with flushed := 2 })))

/-- A write of EM_TSEL with LOAD selects the table and copies its 32 descriptor words to EM_TDATA, and changes no other register and no memory. With STORE by a host function or the debug port it only selects the table, and a component's is firmware's where the component may write the register, stops the component where it may not, and does nothing once it is stopped; a refused store by firmware sets REFUSED and leaves the descriptor; an accepted one clears it and writes the descriptor's writable bits. EM_PUBLISH with GO by a host function or the debug port only selects; by firmware it records the result, and publishes at once when it is 0. EM_VERSION_FREED of a version that waits, in a table without a writer, frees it: it leaves the list, no row of it is in the tally, and LIVE clears. The end of a haulage epoch with no frozen table and no SERVE slot changes nothing. -/
def Obligations.MemoryManager : Prop :=
  (∀ (s : State) (v : Word),
    let n := bitsOf v.toNat 0 12
    (∃ t, exec (.emTselLoad v) s = .next t ∧ t.mem = s.mem ∧ t.fld Reg.EM_TSEL 0 12 = n ∧
      (∀ w, w < 32 → t.rd (Reg.EM_TDATA w) = BitVec.ofNat 32 ((s.setFld Reg.EM_TSEL 0 12 n).tblShown n w)) ∧
      (∀ r, r ≠ Reg.EM_TSEL → (∀ w, w < 32 → r ≠ Reg.EM_TDATA w) → t.rd r = s.rd r)) ∧
    (∀ by_, by_ ≠ .firmware → (∀ c, by_ ≠ .component c) → exec (.emTselStore by_ v) s = .next (s.setFld Reg.EM_TSEL 0 12 n) ∧ exec (.emPublishGo by_ v) s = .next (s.setFld Reg.EM_PUBLISH 0 12 n)) ∧
    (∀ c, s.fw.stopped.contains c = false →
      (s.componentMay c Reg.EM_TSEL v = true → exec (.emTselStore (.component c) v) s = exec (.emTselStore .firmware v) s) ∧
      (s.componentMay c Reg.EM_TSEL v = false → exec (.emTselStore (.component c) v) s = .next { s with fw := { s.fw with stopped := s.fw.stopped ++ [c] } })) ∧
    (∀ c, s.fw.stopped.contains c = true → exec (.emTselStore (.component c) v) s = .next s) ∧
    (let w := s.setFld Reg.EM_TSEL 0 12 n;
      (w.storeRefused n = true → exec (.emTselStore .firmware v) s = .next (w.setBit Reg.EM_TSEL 14 true)) ∧
      (w.storeRefused n = false → ∃ t, exec (.emTselStore .firmware v) s = .next t ∧ t.bit Reg.EM_TSEL 14 = false ∧ t.mem = s.mem ∧
        ∀ i, i < 32 → t.tbl n i &&& tblMask i = (s.rd (Reg.EM_TDATA i)).toNat &&& tblMask i)) ∧
    (let w := s.setFld Reg.EM_PUBLISH 0 12 n;
      let r := w.publishResult n;
      let u := w.setFld Reg.EM_PUBLISH 13 3 r;
      (r = 0 → exec (.emPublishGo .firmware v) s = .next (u.publish n)) ∧ (2 ≤ r → exec (.emPublishGo .firmware v) s = .next u))) ∧
  (∀ (s : State) (n v : Nat), ((n, v) ∉ s.freeQ → exec (.emVersionFreed n v) s = .next s) ∧
    ((n, v) ∈ s.freeQ → s.writerOf n = none → v < 2 → ∃ t, exec (.emVersionFreed n v) s = .next t ∧ (n, v) ∉ t.freeQ ∧ t.mem = s.mem ∧
      t.liveSlot n v = false ∧ ∀ p ∈ t.tally, ∀ e, p.2 = some e → ¬ (keyTable e.key = n ∧ keyVsn e.key = v))) ∧
  (∀ (s : State) (host : List Host.Cell) (loads : List (Nat × Nat × Nat × Nat)), s.frozenTables = [] → (∀ j, j < 64 → s.classOf j ≠ 0) →
    exec (.haulEpochEnd host loads) s = .next s)

/-- PROSPECT_SLOT_READ of the slot next in turn within a panel's look-ahead: a slot of the ring that is not ready for its step sets LIST_LATE with its event; a ready one, whose lists' banks answer, has its rows considered for staging and is counted as read. PROSPECT_RETRY does the same where LIST_LATE is set, and otherwise nothing. PROSPECT_STAGE_ROW of a row not yet landed, whose banks answer, copies its slot whole to its staging place. PROSPECT_RETURN at an index of the returns in progress carries that one on; at another it takes the next record of the panel's step, while fewer than the limit are in progress, and with none left nothing but the read of the list takes place. -/
def Obligations.Prospectors : Prop :=
  (∀ (s : State) (p d : Nat) (host : List Host.Cell), p < 4 → d ≤ s.lookahead p → d = s.fld (Reg.PS_STATE p) 13 3 + 1 →
    let slot := s.prospectSlot p
    let step := s.stepOf slot + d
    let r := s.readDev (.owner 3 p) (s.stepList p step) 1024 host
    (listReady r.2.1 step = false → exec (.prospectSlotRead p d host) s = .next (r.1.setStatus (Reg.PS_STATUS p) 0 .EM_LIST_LATE .info (srcPanel p) [slot, step])) ∧
    (listReady r.2.1 step = true → s.spansReady (.owner 3 p) false ((List.range (d + 1)).flatMap (fun i => s.listSpans p (step - d + i))) = true →
      let soon := r.1.filterKeys p (step - d) d host
      let rows := soon.1.rowsOfStep p step host
      let v := (rows.2.eraseDups).foldl (fun s e => s.stageEntry p slot step soon.2 e) rows.1
      exec (.prospectSlotRead p d host) s = .next ((v.setFld (Reg.PS_STATE p) 13 3 d).showStaged p)) ∧
    (s.bit (Reg.PS_STATUS p) 0 = true → exec (.prospectRetry p d host) s = exec (.prospectSlotRead p d host) s) ∧
    (s.bit (Reg.PS_STATUS p) 0 = false → exec (.prospectRetry p d host) s = .next s)) ∧
  (∀ (s : State) (p i : Nat) (host : List Host.Cell) (e : Staged), (s.staged.filter (fun e => e.panel = p))[i]? = some e → e.landed = false →
    let n := keyTable e.key
    let at_ := s.locate n (keyVsn e.key) (keyRow e.key)
    let size := slotBytes at_.2 (s.dimOf n) (s.stateKind n)
    let ag := s.rowAgent e.key at_.1
    s.spanReady ag false at_.1 size = true → s.spanReady (.owner 3 p) true e.addr size = true →
    let r := s.readDev ag at_.1 size host
    let v := r.1.writeDev (.owner 3 p) e.addr r.2.1
    exec (.prospectStageRow p i host) s = .next (State.showStaged
      { v with staged := v.staged.map (fun x => if x = e then { x with landed := true, stale := x.stale || r.2.2 } else x) } p)) ∧
  (∀ (s : State) (p index : Nat) (host : List Host.Cell), p < 4 → s.lookahead p ≠ 0 →
    let step := s.stepOf (s.prospectSlot p)
    let t := if (s.returns.get {} p).step = step || (s.returns.get {} p).active ≠ [] then s.returns.get {} p else { step := step }
    let r := s.returnRecords p
    (∀ a, t.active[index]? = some a → exec (.prospectReturn ⟨p, index⟩ host) s = .next (s.serveReturn p t a host)) ∧
    (t.active[index]? = none → t.step = step → t.active.length < max 1 (min 4 (s.fld (Reg.PS_RET p) 0 3)) →
      (r.2[t.served]? = none → exec (.prospectReturn ⟨p, index⟩ host) s = .next r.1) ∧
      (∀ e, r.2[t.served]? = some e → exec (.prospectReturn ⟨p, index⟩ host) s = .next (r.1.takeReturn p t e))))

/-- An access of one pair that finds a tag free takes it, reads or writes its bytes and frees it: LD_READ with no error sends exactly the bytes held, LD_WRITE stores exactly its bytes. A refresh holds a tag within its step; LD_RFM of a channel in service is counted; a calibration window that restores timing changes no more than its counters, and one that does not, like LD_CH_FAIL, fences the channel at step 7 and excludes its package (shown where no job has EXT enabled, none being asked to reload). LD_SCRUB_READ of a level tier without stored errors moves the walk on and changes no data. LD_PACKAGE_TRAIN of the next package at S4 with no failing channel takes it into service with its capacity. A channel that is not in service takes no RFM, calibration, scrub or failure. -/
def Obligations.LevelChannels : Prop :=
  (∀ (s : State) (slot : Option Nat) (a : Nat), ∀ c addr, s.ldMap (pairBase a - extBase) = some (c, addr) → s.tagFree (hfOfChannel c) slot = true →
    (∀ size errors areaErrors, s.onePair a size = true →
      let v := (s.upsetPair c addr a errors).upsetArea c (addr / 4096) areaErrors
      v.hfHolds (hfOfChannel c) = false → v.tagFree (hfOfChannel c) slot = true →
      exec (.ldRead slot a size errors areaErrors 0) s = .next (v.runAccess (v.accessReq (hfOfChannel c) slot a size none false))) ∧
    (∀ data : List Byte, s.onePair a data.length = true →
      exec (.ldWrite slot a data) s = .next (s.runAccess (s.accessReq (hfOfChannel c) slot a data.length (some data) false)))) ∧
  (∀ (s : State) (c : Nat),
    (∀ b, 96 ≤ c ∨ 16 ≤ b → exec (.ldRefresh c b) s = .next s) ∧
    (∀ b, c < 96 → b < 16 → s.tagFree (hfOfChannel c) none = true → exec (.ldRefresh c b) s =
      .next ((s.takeTag { hf := hfOfChannel c, slot := none, age := s.tick, user := .refresh, addr := b }).freeUser .refresh)) ∧
    (s.chanUp c = true →
      exec (.ldRfm c) s = .next (s.count (Reg.LD_SCRUB_COUNT c) 16 16 1) ∧
      (∀ w f, exec (.ldCalibration c w f true) s = .next ((s.count (Reg.LD_CAL_ARB c) 0 16 (b2n (w || f))).count (Reg.LD_CAL_ARB c) 16 16 (b2n f))) ∧
      ((∀ j, j < 64 → s.bit (Reg.PN_JOBMAP_CTL j) 25 = false) → ∀ cmd, (cmd = .ldChFail c ∨ ∃ w f, cmd = .ldCalibration c w f false) →
        ∃ t, exec cmd s = .next t ∧ t.fld (Reg.LD_CH_STATE c) 0 5 = 31 ∧ t.mem = s.mem ∧ t.pkgExcluded.get false (c / 8) = true)) ∧
    (s.chanUp c = false → ∀ cmd, (cmd = .ldChFail c ∨ cmd = .ldRfm c ∨ (∃ w f r, cmd = .ldCalibration c w f r) ∨ ∃ u, cmd = .ldScrubRead c u) →
      exec cmd s = .next s)) ∧
  (∀ (s : State) (c : Nat) (forced : Bool), s.chanUp c = true → s.bit Reg.HF_LD_SCRUB 16 = true →
    let block := s.fld (Reg.LD_SCRUB_POS c) 0 22
    s.pairErrs = [] → s.areas = [] → s.checkCache = [] → ∃ t, exec (.ldScrubRead c ⟨forced, []⟩) s = .next t ∧ t.mem = s.mem ∧ t.ecc = s.ecc ∧
      t.pairErrs = [] ∧ t.areas = [] ∧
      t.fld (Reg.LD_SCRUB_POS c) 0 22 = (if block + 1 < s.chanBlocks then (block + 1) % 2 ^ 22 else 0)) ∧
  (∀ (s : State) (k giB : Nat), k < 12 → s.fld Reg.PC_BOOT 0 3 = 4 → s.fld (Reg.LD_CH_STATE (8 * k)) 0 2 < 2 → s.pkgExcluded.get false k = false →
    (∀ i, i < k → i / 6 = k / 6 → 2 ≤ s.fld (Reg.LD_CH_STATE (8 * i)) 0 2) → s.capacityOk giB = true → ∃ t, exec (.ldPackageTrain k giB []) s = .next t ∧ t.mem = s.mem ∧
      t.pkgGiB.get 0 k = giB ∧ (∀ j, j < 8 → t.chanUp (8 * k + j) = true) ∧ t.bit Reg.HF_LD_STATE k = true)

/-- DEEP_ACCESS of one byte or more at a HOST address: a write goes out with a tag, or waits for one; a read outside every window returns poisoned zeros with the event; a read through the window of a function without bus mastering returns poisoned zeros; any other is cut at the request size and each part is sent or waits. DEEP_READ_COMPLETION of a read that was sent ends it and delivers its bytes; DEEP_TIMEOUT ends it with poisoned zeros and the timeout noted. TAG_GRANT with no request that a tag could serve changes nothing; else the first in class and age leaves the list and is served. -/
def Obligations.DeepAccessesAndTags : Prop :=
  (∀ (s : State) (slot : Option Nat) (a size : Nat), 0 < size → hostBase ≤ a →
    (∀ bs : List Byte, size ≤ bs.length →
      let w := s.accessReq 0 slot a size (some bs) false
      (s.tagFree 0 slot = true → exec (.deepAccess slot a size (some bs)) s = .next (s.runAccess w)) ∧
      (s.tagFree 0 slot = false → exec (.deepAccess slot a size (some bs)) s = .next ((s.stallTag w).numbered))) ∧
    (s.deepWin a size = none → exec (.deepAccess slot a size none) s = .next ((s.unmapped a false).emit (.readData (List.replicate size 0#8) true))) ∧
    (∀ w, s.deepWin a size = some w →
      (s.busMaster.get false (s.winFn w) = false → exec (.deepAccess slot a size none) s = .next (s.emit (.readData (List.replicate size 0#8) true))) ∧
      (s.busMaster.get false (s.winFn w) = true → exec (.deepAccess slot a size none) s =
        .next ((cutSpan 256 (size / 256 + 2) (s.busAddr w a) size).foldl (fun s p => s.startDeep w slot p.1 p.2) s)))) ∧
  (∀ (s : State) (id : Nat), (s.deepReads.find? (fun d => d.id = id && d.tagged) = none → exec (.deepTimeout id) s = .next s) ∧
    (∀ r, s.deepReads.find? (fun d => d.id = id && d.tagged) = some r →
      let v := s.endDeep r
      let failed := (v.deepTimeout r.window).emit (.readData (List.replicate r.size 0#8) true)
      exec (.deepTimeout id) s = .next failed ∧ exec (.deepReadCompletion id none) s = .next failed ∧
      (∀ bs : List Byte, bs.length = r.size → exec (.deepReadCompletion id (some bs)) s = .next (v.emit (.readData bs false))))) ∧
  (∀ (s : State) (hf : Nat), (s.nextWait hf = none → exec (.tagGrant hf) s = .next s) ∧
    (∀ w, s.nextWait hf = some w → (∀ id, w.user ≠ .conn id) →
      let v := State.granted { s with tagWait := [] } w
      exec (.tagGrant hf) s = .next { v with tagWait := s.tagWait.erase w ++ v.tagWait }) ∧
    (∀ w id, s.nextWait hf = some w → w.user = .conn id →
      let v := State.granted { s with tagWait := [] } w
      exec (.tagGrant hf) s = .next (State.pumpAll { v with tagWait := s.tagWait.erase w ++ v.tagWait } id)))

/-- BANK_HANDOVER of a bank that exists, by firmware or the current owner, to a valid owner, with the bank neither fenced nor in handover, writes the owner's fields with READ_ONLY and sets HANDOVER_PENDING; no byte of memory and no other register changes. Any other handover leaves BK_OWNER and sets HO_REFUSED; a component's is firmware's where it may write the register, and otherwise stops it. HANDOVER_COMPLETE clears HANDOVER_PENDING once no older access is to complete. A write of BK_POWER of a bank that is awake with no transition running, asking for RETAIN or OFF, starts the transition; asking for the state in force, or for ON in a fenced bank that is OFF, starts none. BANK_TRANSITION_DONE with none running, in a panel whose banks its power state holds, or with an older access to complete, changes nothing; into RETAIN it keeps every byte, into OFF it loses the bank's contents and no other byte, and from OFF to ON the words are poison where so set and otherwise a free value. BANK_SCRUB_READ of a clean line moves the walk on by one line; SCRUB_WRITEBACK corrects the words of the line read last. MARCH_START and MARCH_PRESERVE_START begin a test on an idle bank that may take it, and set MARCH_REFUSED where it may not. MARCH_LINE_DONE takes the next line of a preserving test and keeps every byte of memory. MARCH_DONE with no line left clears BUSY and records the fails and the first of them; a destructive test leaves the bank zero. -/
def Obligations.BankStates : Prop :=
    ((∀ (s : State) (by_ : Writer) (b : Nat) (v : Word), b < 40960 → (∀ c, by_ ≠ .component c) →
      let ok := s.mayHand by_ b && !s.bit (Reg.BK_OWNER b) 10 && !s.bit (Reg.BK_REPAIR b) 24 && ownerValid (bitsOf v.toNat 0 3) (bitsOf v.toNat 3 6)
      (ok = true → ∃ t, exec (.bankHandover by_ b v) s = .next t ∧ t.fld (Reg.BK_OWNER b) 0 10 = bitsOf v.toNat 0 10 ∧
        t.bit (Reg.BK_OWNER b) 10 = true ∧ (∀ r, r ≠ Reg.BK_OWNER b → t.rd r = s.rd r) ∧ t.mem = s.mem) ∧
      (ok = false → ∃ t, exec (.bankHandover by_ b v) s = .next t ∧ t.rd (Reg.BK_OWNER b) = s.rd (Reg.BK_OWNER b) ∧
        t.bit (Reg.BK_STATUS b) 1 = true ∧ t.mem = s.mem ∧
        (s.bit (Reg.BK_STATUS b) 1 = false → ∃ e, t.evq = s.evq ++ [e] ∧ e.code = .BANK_HO_REFUSED ∧ e.source = b / 4))) ∧
    (∀ (s : State) (c b : Nat) (v : Word), s.fw.stopped.contains c = false →
      (s.componentMay c (Reg.BK_OWNER b) v = true → exec (.bankHandover (.component c) b v) s = exec (.bankHandover .firmware b v) s) ∧
      (s.componentMay c (Reg.BK_OWNER b) v = false →
        exec (.bankHandover (.component c) b v) s = .next { s with fw := { s.fw with stopped := s.fw.stopped ++ [c] } })) ∧
    (∀ (s : State) (b : Nat),
      (s.bit (Reg.BK_OWNER b) 10 = false ∨ s.oldAccess b (s.bank b).since = true → exec (.handoverComplete b) s = .next s) ∧
      (s.bit (Reg.BK_OWNER b) 10 = true → s.oldAccess b (s.bank b).since = false → (s.bank b).held = [] →
        exec (.handoverComplete b) s = .next (s.setBit (Reg.BK_OWNER b) 10 false)))) ∧
    ((∀ (s : State) (b : Nat) (v : Word), b < 40960 →
      let want := bitsOf v.toNat 0 2
      (s.fld (Reg.BK_POWER b) 2 2 = 0 → s.bit (Reg.BK_POWER b) 4 = false → want = 1 ∨ want = 2 →
        ∃ t, exec (.bankPowerWrite b v) s = .next t ∧ t.fld (Reg.BK_POWER b) 0 2 = want ∧ t.bit (Reg.BK_POWER b) 4 = true ∧
          t.fld (Reg.BK_POWER b) 2 2 = 0 ∧ t.fld (Reg.BK_POWER b) 5 2 = bitsOf v.toNat 5 2 ∧ (t.bank b).goal = some want ∧ t.mem = s.mem) ∧
      (want = s.fld (Reg.BK_POWER b) 2 2 ∨ want = 0 ∧ s.bit (Reg.BK_REPAIR b) 24 = true → want < 3 →
        exec (.bankPowerWrite b v) s = .next ((s.setFld (Reg.BK_POWER b) 0 2 want).setFld (Reg.BK_POWER b) 5 2 (bitsOf v.toNat 5 2)))) ∧
    (∀ (s : State) (b : Nat),
      (s.bit (Reg.BK_POWER b) 4 = false ∨ s.panelDown (panelOfBank b) = true ∨
          s.fld (Reg.BK_POWER b) 2 2 = 0 ∧ s.oldAccess b (s.bank b).sinceT = true → exec (.bankTransitionDone b) s = .next s) ∧
      (∀ g, s.bit (Reg.BK_POWER b) 4 = true → s.panelDown (panelOfBank b) = false → (s.bank b).goal = some g → g = s.fld (Reg.BK_POWER b) 0 2 →
        (s.bank b).held = [] → (s.fld (Reg.BK_POWER b) 2 2 = 0 → s.oldAccess b (s.bank b).sinceT = false) →
        ∃ t, exec (.bankTransitionDone b) s = .next t ∧ t.fld (Reg.BK_POWER b) 2 2 = g ∧ t.bit (Reg.BK_POWER b) 4 = false ∧ (t.bank b).goal = none ∧
          (g = 1 → s.fld (Reg.BK_POWER b) 2 2 = 0 → t.mem = s.mem ∧ t.ecc = s.ecc ∧ (t.bank b).fill = (s.bank b).fill) ∧
          (g = 2 → t.mem = s.mem.clear (0x18000 * b) (0x18000 * (b + 1)) ∧ t.free = s.free) ∧
          (g = 0 → s.fld (Reg.BK_POWER b) 2 2 = 2 → t.mem = s.mem.clear (0x18000 * b) (0x18000 * (b + 1)) ∧
            (t.bank b).fill = if s.bit (Reg.BK_POWER b) 6 then 3 else 4 + s.free)))) ∧
    ((∀ (s : State) (b d : Nat) (one two : List Nat),
      (40960 ≤ b ∨ s.bankOn b = false ∨ (s.bank b).testing = true ∨ (s.bank b).priority = [] ∧ s.bit (Reg.MT_SCRUB_CTL (b / 4)) 8 = false →
        exec (.bankScrubRead b one two d) s = .next s) ∧
      (b < 40960 → s.bankOn b = true → (s.bank b).testing = false → (s.bank b).lastScrub = false → (s.bank b).priority = [] →
        s.bit (Reg.MT_SCRUB_CTL (b / 4)) 8 = true →
        let l := s.fld (Reg.BK_SCRUB_POS b) 0 11
        (∀ w, w < 8 → s.mark (0x18000 * b + 64 * l + 8 * w) = 0) →
        ∃ t, exec (.bankScrubRead b [] [] d) s = .next t ∧ t.mem = s.mem ∧ t.ecc = s.ecc ∧ (t.bank b).lastScrub = true ∧ (t.bank b).scrubRead = none ∧
          t.fld (Reg.BK_SCRUB_POS b) 0 11 = (if l = 1535 then 0 else (l + 1) % 2048))) ∧
    (∀ (s : State) (b : Nat),
      ((s.bank b).scrubRead = none → exec (.scrubWriteback b) s = .next s) ∧
      (∀ l, (s.bank b).scrubRead = some l → ∃ t, exec (.scrubWriteback b) s = .next t ∧ (t.bank b).scrubRead = none ∧ t.regs = s.regs ∧ t.mem = s.mem ∧
        ∀ w, w < 8 → t.mark (0x18000 * b + 64 * l + 8 * w) ≠ 1)) ∧
    (∀ (s : State) (b : Nat) (v : Word), b < 40960 → bitOf v.toNat 6 = true → s.bit (Reg.BK_MARCH_CTL b) 7 = false →
      (bitOf v.toNat 4 = false → exec (.marchPreserveStart b v) s = .next s ∧
        (s.bankOn b = true → s.fld (Reg.BK_OWNER b) 0 3 = 0 → s.bit (Reg.BK_OWNER b) 10 = false → ∃ t m, exec (.marchStart b v) s = .next t ∧
          t.bit (Reg.BK_MARCH_CTL b) 7 = true ∧ t.rd (Reg.BK_MARCH_RESULT b) = 0#32 ∧ (t.bank b).march = some m ∧ m.preserve = false ∧ t.mem = s.mem) ∧
        (s.fld (Reg.BK_OWNER b) 0 3 ≠ 0 → ∃ t, exec (.marchStart b v) s = .next t ∧ t.bit (Reg.BK_STATUS b) 8 = true ∧
          t.bit (Reg.BK_MARCH_CTL b) 7 = false ∧ t.mem = s.mem)) ∧
      (bitOf v.toNat 4 = true → exec (.marchStart b v) s = .next s ∧
        (s.bankOn b = true → ∃ t m, exec (.marchPreserveStart b v) s = .next t ∧ t.bit (Reg.BK_MARCH_CTL b) 7 = true ∧ (t.bank b).march = some m ∧
          m.preserve = true ∧ m.lines = List.range 1538 ∧ t.mem = s.mem) ∧
        (s.bankOn b = false → ∃ t, exec (.marchPreserveStart b v) s = .next t ∧ t.bit (Reg.BK_STATUS b) 8 = true ∧ t.mem = s.mem))) ∧
    (∀ (s : State) (b : Nat) (failed : Bool) (m : March), (s.bank b).march = some m →
      (m.preserve = false ∨ m.lines = [] ∨ s.bankOn b = false → exec (.marchLineDone b failed) s = .next s) ∧
      (∀ l rest, m.lines = l :: rest → m.preserve = true → s.bankOn b = true → (s.bank b).priority = [] → m.live = false → m.repair = false → l < 1536 →
        ∃ t, exec (.marchLineDone b failed) s = .next t ∧ t.mem = s.mem ∧ t.regs = s.regs ∧ (t.bank b).lastScrub = false ∧
          (t.bank b).march = some { (if failed then m.fail l else m) with lines := rest }) ∧
      (∀ fails, m.preserve = true → m.lines ≠ [] → exec (.marchDone b fails) s = .next s) ∧
      (m.preserve = false → m.repair = false → (s.bank b).repairs = [] → (s.bank b).held = [] → ∃ t, exec (.marchDone b []) s = .next t ∧
        t.bit (Reg.BK_MARCH_CTL b) 7 = false ∧ (t.bank b).march = none ∧ (t.bank b).fill = 0 ∧
        t.rd (Reg.BK_MARCH_RESULT b) = BitVec.ofNat 32 (2 ^ 22 + min 2047 m.fails + m.first * 2 ^ 11) ∧
        t.mem = s.mem.clear (0x18000 * b) (0x18000 * (b + 1)))))

/-- SLICE_REQUEST for a slot that is no running SERVE slot, or with no holder that may be sliced, changes nothing; otherwise the holder first in the order (lower class, greater PRIO, higher number) is to be sliced for it. SLICE_WAIT_EXPIRE marks a pending slice too late for a point within the step. SLICE_TAKE at a quiescent point of a running slot, with the slice pending and neither late nor aborting, takes the slice; otherwise it changes nothing. SLICE_RESTORE of a slot that is not sliced changes nothing but a RESUME that waits for it; one whose tag does not match, or with no job key, raises SLICE_AUTH_FAIL, drops the slice and stops the slot; one whose tag matches runs the slot again. A RESUME that waited ends then. DRAIN_QUIESCED of a slot that is not draining changes nothing. At order 4 with the slot's units and tags quiet it closes its entries, hands staged rows over, zeroes the tokens and stands at order 9; it waits there while a digest comparison is due, and otherwise, with no change of layout under way, runs orders 9 to 13. STEP_HANG of a slot in a drain raises its event with the blocking order and stops the slot with its open entries at FAULT; outside a drain, during order 3 and while a shift change holds the slot it changes nothing. IDLE_CORE_ROTATION rotates a motif with no home job, no task and an empty queue whose interval has passed, and otherwise changes nothing. -/
def Obligations.SlicesAndDrains : Prop :=
    ((∀ (s : State) (serve : Nat) (holders : List Nat),
      let l := (holders.filter (fun j => j < 64 && s.classOf j ≠ 0 && (s.slotIs j .running || s.slotIs j .sweep || s.slotIs j .draining))).mergeSort s.slicedFirst
      (s.classOf serve ≠ 0 ∨ l = [] → exec (.sliceRequest serve holders) s = .next s) ∧
      (∀ j rest, s.classOf serve = 0 → s.slotIs serve .running = true → l = j :: rest → (s.job j).slicePending = false →
        exec (.sliceRequest serve holders) s = .next (s.setJob j { s.job j with slicePending := true, sliceFor := some serve }))) ∧
    (∀ (s : State) (slot : Nat),
      ((s.job slot).slicePending = true → exec (.sliceWaitExpire slot) s = .next (s.setJob slot { s.job slot with tooLate := true })) ∧
      ((s.job slot).slicePending = false → exec (.sliceWaitExpire slot) s = .next s)) ∧
    (∀ (s : State) (slot : Nat) (banks : List Nat),
      let may := (s.job slot).slicePending && !(s.job slot).tooLate && !(s.job slot).aborting && (s.job slot).drainOrder = 0 && s.slotIs slot .running && s.quiescent slot
      (may = true → exec (.sliceTake slot banks) s = .next (s.takeSlice slot banks false false)) ∧ (may = false → exec (.sliceTake slot banks) s = .next s)) ∧
    (∀ (s : State) (slot : Nat) (moves : List (Nat × Nat)),
      (s.slices.get none slot = none ∨ s.slotIs slot .sliced = false → exec (.sliceRestore slot moves) s = .next (s.finishResume slot)) ∧
      (∀ sl, s.slices.get none slot = some sl → s.slotIs slot .sliced = true →
        (∀ b ∈ sl.banks, s.fld (Reg.BK_OWNER b) 0 3 = 0 ∧ s.bit (Reg.BK_OWNER b) 10 = false) →
        s.spansReady (.owner 0 0) true (sl.banks.map (fun b => (0x18000 * b, 0x18000))) = true →
        let v : State := { s with slices := s.slices.put none slot none }
        (v.sec.jobKeys.get none slot = none ∨ v.sliceTag slot sl.records sl.size ≠ sl.tag → exec (.sliceRestore slot moves) s =
          .next (State.finishResume ((v.raise .SLICE_AUTH_FAIL .jobFatal (srcJob slot) [slot]).stopSlot slot) slot)) ∧
        (v.sec.jobKeys.get none slot ≠ none → v.sliceTag slot sl.records sl.size = sl.tag → sl.banks = [] → sl.scales = [] → sl.tokens = [] →
          exec (.sliceRestore slot moves) s = .next (State.finishResume ((State.setSlot (sl.queued.foldl (fun s e =>
            s.enqueue (((moves.find? (fun m => m.1 = e.1)).map (·.2)).getD e.1) e.2) v) slot .running).nextStep slot) slot))))) ∧
    ((∀ (s : State) (slot : Nat) (banks failed : List Nat) (host : List Host.Cell) (loads : List (Nat × Nat × Nat × Nat)),
      let run := exec (.drainQuiesced slot banks failed host loads) s
      (s.slotIs slot .draining = false → run = .next s) ∧
      (s.slotIs slot .draining = true →
        ((s.job slot).drainOrder = 4 → s.unitsQuiet slot = false ∨ s.tagsQuiet slot = false → run = .next s) ∧
        ((s.job slot).drainOrder = 4 → s.unitsQuiet slot = true → s.tagsQuiet slot = true → (s.drainFirst slot).compareDue slot = true →
          ((s.drainFirst slot).job slot).compared ≠ 2 → run = .next (s.drainFirst slot)) ∧
        ((s.job slot).drainOrder = 9 → s.compareDue slot = false ∨ (s.job slot).compared = 2 → ((s.epochBegin slot host).epochSt slot).order = 0 →
          run = .next ((s.epochBegin slot host).drainLast slot banks failed host
            (loads.map (fun e => ({ owner := e.1, table := e.2.1, shard := e.2.2.1, load := e.2.2.2 } : ShardLoad))))))) ∧
    (∀ (s : State) (slot : Nat),
      ((s.job slot).drainOrder = 0 ∨ s.slotIs slot .sweep = true ∨ (s.job slot).shiftHeld = true → exec (.stepHang slot) s = .next s) ∧
      ((s.job slot).drainOrder ≠ 0 → s.slotIs slot .sweep = false → (s.job slot).shiftHeld = false → exec (.stepHang slot) s =
        .next (State.leasesProceed (((s.raise .STEP_HANG .jobFatal (srcJob slot) (s.hangData slot)).moveEntries slot [1] 3).stopWith slot 15)))) ∧
    (∀ (s : State) (m : Nat) (failed : Bool),
      let idle := (∀ i, i < 128 → (s.context (m * 128 + i)).task = none) ∧ s.queue m = []
      (m < 10240 → s.bit (Reg.MT_JOBS m) 6 = false → s.rotationDue m = true → idle → exec (.idleCoreRotation m failed) s = .next (s.rotate m failed)) ∧
      (10240 ≤ m ∨ s.bit (Reg.MT_JOBS m) 6 = true ∨ s.rotationDue m = false ∨ ¬ idle → exec (.idleCoreRotation m failed) s = .next s)))

/-- Once records that waited for queue room have entered: TASK_DISPATCH to a context that is not free, or with no record that it can take, changes nothing more; otherwise the context holds the task first in the order of class, PRIO and age, ready, or waiting on its restore if it was saved, and the task has started and left the save area. STEAL of an idle context whose own queue has nothing for it takes at most one record, the first handed over in the order of the rings, counted as such, with its moves one more. AUTO_YIELD of a task that waits on a token or an array saves it and queues it last where another record could run, and counts a failed save where no record is free; SERVE_EVICTION saves the latest victim at an instruction boundary for the first waiting SERVE record, which takes its context. -/
def Obligations.RecordsReachContexts : Prop :=
  (∀ (s : State) (x : Nat),
    let u := s.feedQueues
    let first := u.firstRec ((u.queue (motifOf x)).filter (u.takes (motifOf x)))
    (u.isFree x = false ∨ first = none → exec (.taskDispatch x) s = .next u) ∧
    (∀ k, u.isFree x = true → first = some k → exec (.taskDispatch x) s = .next (u.takeRec x k) ∧
      ((u.task k).claims = [] → ((u.takeRec x k).context x).task = some k ∧
        ((u.takeRec x k).context x).phase = (if (u.task k).started then .waitData else .ready) ∧
        ((u.takeRec x k).task k).started = true ∧ ((u.takeRec x k).task k).saveRec = none ∧ (u.takeRec x k).mem = u.mem)) ∧
    (u.isFree x = true → (u.queue (motifOf x)).any (u.takes (motifOf x)) = false →
      (∀ k, u.stealAt (motifOf x) 1 = some (1, k) → exec (.steal x) s = .next (((u.count (Reg.PN_JOB_STEALS (slotOf k)) 0 16 1).setTask k
        { u.task k with moves := (u.task k).moves + 1 }).takeRec x k)) ∧
      (∀ k, u.stealAt (motifOf x) 1 = none → u.stealAt (motifOf x) 2 = some (2, k) → exec (.steal x) s =
        .next (((u.count (Reg.PN_JOB_STEALS (slotOf k)) 16 16 1).setTask k { u.task k with moves := (u.task k).moves + 1 }).takeRec x k)) ∧
      (∀ k, u.stealAt (motifOf x) 1 = none → u.stealAt (motifOf x) 2 = none → u.stealAt (motifOf x) 3 = some (3, k) → exec (.steal x) s =
        .next (((u.count (Reg.PN_JOB_CROSS (slotOf k)) 0 16 1).setTask k { u.task k with moves := (u.task k).moves + 1 }).takeRec x k)) ∧
      (u.stealAt (motifOf x) 1 = none → u.stealAt (motifOf x) 2 = none → u.stealAt (motifOf x) 3 = none → exec (.steal x) s = .next u))) ∧
  (∀ (s : State) (x k : Nat), (s.context x).task = some k →
    let t := s.task k
    let other := (s.queue (motifOf x)).any (fun q => s.takes (motifOf x) q && s.classOf (slotOf q) ≤ s.classOf t.slot)
    (other = false ∨ t.pin = true ∨ t.loads ≠ [] ∨ (s.context x).phase = .ready ∨ (s.context x).phase = .waitData → exec (.autoYield x) s = .next s) ∧
    ((s.context x).phase = .waitToken ∨ (s.context x).phase = .waitArray → s.fld Reg.PN_SCHED_WAIT 16 16 ≠ 0 → t.pin = false → t.loads = [] → other = true →
      (s.freeRec t.slot = none → exec (.autoYield x) s = .next (s.saveFull t.slot)) ∧
      (∀ i, s.freeRec t.slot = some i →
        let v := ((s.withdraw k).saveTask x k i).count (Reg.PN_JOB_YIELDS t.slot) 0 16 1
        exec (.autoYield x) s = .next (if 64 < (v.queue (motifOf x)).length then v.dispatch x else v)))) ∧
  (∀ (s : State) (m k : Nat), s.firstRec ((s.queue m).filter (fun k => s.classOf (slotOf k) = 0 && s.takes m k)) = some k →
    (s.freeFor m k = true ∨ s.victim m = none → exec (.serveEviction m) s = .next s) ∧
    (∀ x v, s.freeFor m k = false → s.victim m = some (x, v) →
      ((s.task v).atBoundary = false → exec (.serveEviction m) s = .next s) ∧
      ((s.task v).atBoundary = true → s.freeRec (slotOf v) = none → exec (.serveEviction m) s = .next (s.saveFull (slotOf v))) ∧
      (∀ i, (s.task v).atBoundary = true → s.freeRec (slotOf v) = some i →
        exec (.serveEviction m) s = .next (((s.saveTask x v i).count (Reg.PN_JOB_CROSS (slotOf v)) 16 16 1).takeRec x k))))

/-- When it issues with an aligned header it may read, a header and stage records as laid out, its banks answering, a token of the job and room in the motif's engine, CHAIN completes with one chain more, of the header's stages and blocks, listed in the task's commands. CHAIN_STAGE_START of a stage whose dependencies are not complete changes nothing; of one that may start, it is started and its unit's command queued, where the unit has room. CHAIN_STAGE_COMPLETE with no report changes nothing; it takes the oldest report, ends the command after the last stage of the last block, and lets a stopped chain that is spent end with CHAIN_STOP; a first footing mismatch of an MTILE runs that stage again. A write of HF_COLL_SEL with LOAD selects the descriptor and shows its eight words in HF_COLL_DATA, and changes no other register and no memory. With STORE by a host function or the debug port it only selects; by firmware, a RUNNING descriptor refuses it and REFUSED is set; otherwise REFUSED clears, and the descriptor holds the written type, slot and element fields with its STATE kept, and the epoch word it had. A component's store is firmware's where the component may write the register, and otherwise stops it. -/
def Obligations.ChainsAndCollectives : Prop :=
    ((∀ (s u : State) (x k : Nat) (a b : SReg), Issues s x 4 (sregs [a.val, b.val]) k u → (s.task k).update = false →
      let t := s.task k
      let word := (t.sreg b.val).toNat
      let at_ := t.segment 1 + (t.sreg a.val).toNat
      let h := u.readLines (jobAgent t.slot) at_ 1
      let hd := (h.2.1.headD 0#512).toNat
      let n := bitsOf hd 0 4
      let recs := (h.1.readLines (jobAgent t.slot) (at_ + 64) (3 * n)).2.1
      let ctl := fun (i w : Nat) => bitsOf (recs.getD (3 * i) 0#512).toNat (32 * w) 32
      let weights := ((List.range n).filter (fun i => bitsOf (ctl i 0) 0 3 = 3)).map (fun i => (t.segment 1 + ctl i 6, 64))
      word < 512 → at_ % 64 = 0 → u.protect t.slot at_ 64 false = none → chainHeaderOk hd = true → u.protect t.slot (at_ + 64) (192 * n) false = none →
      u.spansReady (jobAgent t.slot) false [(at_, 64)] = true → u.spansReady (jobAgent t.slot) false [(at_ + 64, 192 * n)] = true →
      (∀ i, i < n → bitsOf (ctl i 0) 0 3 ≤ 4 ∧ ctl i 0 < 32) → u.protectSpans t.slot false weights = none →
      u.spansReady (jobAgent t.slot) false weights = true → u.tokenOk (motifOf x) t.slot word = true → (u.chainsOf (motifOf x)).length < 2 →
      ∃ v c, exec (.chain x a b) s = .next v ∧ v.chainsOf (motifOf x) = u.chainsOf (motifOf x) ++ [c] ∧ c.stages = n ∧ c.blocks = bitsOf hd 4 16 ∧
        c.recs = recs ∧ c.started = [] ∧ (v.task k).cmds = t.cmds ++ [c.info.id] ∧ (v.task k).pc = t.after 4 ∧ v.mem = u.mem) ∧
    (∀ (s : State) (m index k b : Nat) (host : List Host.Cell) (c : Chain), (s.chainsOf m)[index]? = some c →
      (c.kind k ≠ 3 → c.mayStart k b = false → exec (.chainStageStart m index k b host) s = .next s) ∧
      (c.mayStart k b = true →
        let c' := { c with started := c.started ++ [b * 8 + k] }
        (State.startStage (s.setChain m c') m c' k b host = none → exec (.chainStageStart m index k b host) s = .next s) ∧
        (∀ t, State.startStage (s.setChain m c') m c' k b host = some t → exec (.chainStageStart m index k b host) s = .next t) ∧
        (let src := c'.src k b;
          let dst := c'.dst k b;
          let word := c'.control k 1 / 512 * 512;
          let w := s.setChain m c';
          c.kind k = 0 → w.xferFault m (slotOf c.info.key) dst src word = none → (w.xfers m).length < 20 → ∃ t q, exec (.chainStageStart m index k b host) s = .next t ∧
            t.xfers m = w.xfers m ++ [q] ∧ q.dst = dst.raw ∧ q.src = src.raw ∧ q.info.chain = some (m, c.info.id, b * 8 + k) ∧ t.mem = s.mem))) ∧
    (∀ (s : State) (m index : Nat) (c : Chain), (s.chainsOf m)[index]? = some c →
      (c.landed = [] → exec (.chainStageComplete m index) s = .next s) ∧
      (∀ f report rest, c.landed = (f, report) :: rest →
        let again := report = codeNumber .FOOTING_MISMATCH ∧ c.kind (f % 8) = 3 ∧ c.rerun.contains f = false
        let d := c.take f report
        let v := s.setChain m d
        let gone := v.setChains m ((v.chainsOf m).filter (fun e => e.info.id ≠ d.info.id))
        (again → exec (.chainStageComplete m index) s = .next (State.startTile (s.setChain m { c with landed := rest, rerun := c.rerun ++ [f] }) m
          { c with landed := rest, rerun := c.rerun ++ [f] } (f % 8) (f / 8))) ∧
        (¬ again → d.stopped = none → exec (.chainStageComplete m index) s =
          .next (if d.done.length = d.stages * d.blocks then (gone.endCmd d.info d.err).settleAborts else v)) ∧
        (∀ detail, ¬ again → d.stopped = some detail → exec (.chainStageComplete m index) s =
          .next (if d.spent then (gone.deferFault .CHAIN_STOP d.info 0 (detail % 2 ^ 32)).settleAborts else v))))) ∧
    (∀ (s : State) (v : Word),
      let h := bitsOf v.toNat 0 10
      let sel := s.setFld Reg.HF_COLL_SEL 0 10 h
      (∃ t, exec (.hfCollLoad v) s = .next t ∧ t.fld Reg.HF_COLL_SEL 0 10 = h ∧ t.mem = s.mem ∧ t.colls = s.colls ∧
        (∀ w, w < 8 → t.rd (Reg.HF_COLL_DATA w) = s.coll h w) ∧
        (∀ r, r ≠ Reg.HF_COLL_SEL → (∀ w, w < 8 → r ≠ Reg.HF_COLL_DATA w) → t.rd r = s.rd r)) ∧
      (∀ by_, by_ ≠ .firmware → (∀ c, by_ ≠ .component c) → exec (.hfCollStore by_ v) s = .next sel) ∧
      (bitsOf (s.coll h 0).toNat 10 2 = 1 → exec (.hfCollStore .firmware v) s = .next (sel.setBit Reg.HF_COLL_SEL 12 true)) ∧
      (bitsOf (s.coll h 0).toNat 10 2 ≠ 1 → ∃ t, exec (.hfCollStore .firmware v) s = .next t ∧ t.bit Reg.HF_COLL_SEL 12 = false ∧ t.mem = s.mem ∧
        bitsOf (t.coll h 0).toNat 0 10 = bitsOf (s.rd (Reg.HF_COLL_DATA 0)).toNat 0 10 ∧ bitsOf (t.coll h 0).toNat 10 2 = bitsOf (s.coll h 0).toNat 10 2 ∧
        bitsOf (t.coll h 1).toNat 0 16 = bitsOf (s.rd (Reg.HF_COLL_DATA 1)).toNat 0 16 ∧
        bitsOf (t.coll h 1).toNat 16 16 = max 1 (bitsOf (s.rd (Reg.HF_COLL_DATA 1)).toNat 16 16) ∧
        bitsOf (t.coll h 2).toNat 0 17 = bitsOf (s.rd (Reg.HF_COLL_DATA 2)).toNat 0 17 ∧ t.coll h 5 = s.rd (Reg.HF_COLL_DATA 5) ∧ t.coll h 7 = s.coll h 7) ∧
      (∀ c, s.fw.stopped.contains c = false →
        (s.componentMay c Reg.HF_COLL_SEL v = true → exec (.hfCollStore (.component c) v) s = exec (.hfCollStore .firmware v) s) ∧
        (s.componentMay c Reg.HF_COLL_SEL v = false → exec (.hfCollStore (.component c) v) s = .next { s with fw := { s.fw with stopped := s.fw.stopped ++ [c] } })))

/-- A frame at a port that is not in service changes nothing. At a port in service, outside DOZE, its codewords are counted, and then: a bad FCS is counted and the frame dropped; a length outside 64 octets to the port's limit is counted; a PFC frame loads the pause timers; a global pause is counted and ignored; a frame for another address that was not solicited is counted as filtered. A good GFT frame for this port's UDP port whose priority's buffer has room enters it, is counted and goes to the GFT engine; one for another UDP port, and any other frame, is counted and goes to the exception queue. PFC_FRAME_RECEIVE at a port in service loads the timers of the lossless priorities that it names; PFC_PAUSE_EXPIRE ends a priority's pause and lets the port go on; PFC_REFRESH sends the pause again while the fill stays at or above XON. RX_BUFFER_DRAIN takes the oldest frame of a priority out of its share, unless its headframe's bridges are full, and below XON ends the pause it called. FRAME_TX_DONE counts the frame sent, frees a response's tag and chooses the next. PAUSE_WD_TX_EXPIRE and PAUSE_WD_RX_EXPIRE break a pause that has lasted WD_US, with PAUSE_BROKEN, and PAUSE_HOLD_END ends the break; where no such pause stands, or the watchdog is off, nothing changes. -/
def Obligations.PortTraffic : Prop :=
    (∀ (s : State) (p : Nat) (f : FabFrame),
      (s.inService p = false → exec (.frameReceive p f) s = .next s) ∧
      (s.inService p = true → s.powerState ≠ 2 →
        let v := s.fecCount p f
        let counted := fun (a : Nat) => exec (.frameReceive p f) s = .next (v.count a 0 32 1)
        let lenOk := 64 ≤ f.octets ∧ f.octets ≤ v.fld (Reg.FM_FRAME p) 0 14
        let mine := f.dst = v.portMac p ∨ f.dst = 2 ^ 48 - 1 ∨ f.solicited = true
        let accepted := fun (s : State) => (s.count64 (Reg.FM_RX_OCTETS_LO p) (Reg.FM_RX_OCTETS_HI p) f.octets).count64
          (Reg.FM_RX_FRAMES_LO p) (Reg.FM_RX_FRAMES_HI p) 1
        (f.fcsOk = false → counted (Reg.FM_RX_FCS_ERR p)) ∧
        (f.fcsOk = true → ¬ lenOk → counted (Reg.FM_RX_LEN_ERR p)) ∧
        (f.fcsOk = true → lenOk →
          (∀ en times, f.body = .pfc en times → exec (.frameReceive p f) s = .next (v.pfcReceive p en times)) ∧
          (f.body = .pause → counted (Reg.FM_RX_GLOBAL_PAUSE p)) ∧
          ((∀ en times, f.body ≠ .pfc en times) → f.body ≠ .pause → ¬ mine → counted (Reg.FM_RX_FILTERED p)) ∧
          (∀ asks, f.body = .other asks → mine → exec (.frameReceive p f) s = .next ((accepted v).exceptionFrame p asks)) ∧
          (∀ port csum k, f.body = .gft true port csum k → mine →
            (port ≠ v.fld Reg.HF_GFT_CFG 0 16 → exec (.frameReceive p f) s = .next ((accepted v).exceptionFrame p false)) ∧
            (port = v.fld Reg.HF_GFT_CFG 0 16 →
              (∀ w, v.bufferFrame p (framePrio f) f.octets = (w, true) → exec (.frameReceive p f) s = .next ((accepted w).gftEngine p csum k)) ∧
              (∀ w, v.bufferFrame p (framePrio f) f.octets = (w, false) → exec (.frameReceive p f) s = .next w)))))) ∧
    (∀ (s : State) (p q : Nat),
      let st := s.port p
      (∀ en times, (s.inService p = true → exec (.pfcFrameReceive p en times) s = .next (s.pfcReceive p en times)) ∧
        (s.inService p = false → exec (.pfcFrameReceive p en times) s = .next s)) ∧
      (st.paused.get 0 q = 0 → exec (.pfcPauseExpire p q) s = .next s) ∧
      (st.paused.get 0 q ≠ 0 → exec (.pfcPauseExpire p q) s = .next ((s.setPort p { st with paused := st.paused.put 0 q 0 }).kick p)) ∧
      (let on := st.xoff.contains q && !st.rxBroken.contains q && decide (s.xonOctets p q ≤ s.rxFill p q);
        (on = true → exec (.pfcRefresh p q) s = .next (s.sendPfc p q (s.fld (Reg.FM_PFC p) 0 16))) ∧
        (on = false → exec (.pfcRefresh p q) s = .next s)) ∧
      (s.hfHolds (p / 4) = true → exec (.rxBufferDrain p q) s = .next s) ∧
      (s.hfHolds (p / 4) = false →
        let v := (s.setPort p { st with rx := dropOldest q st.rx }).showFill p q
        (st.xoff.contains q = false ∨ v.xonOctets p q ≤ v.rxFill p q → exec (.rxBufferDrain p q) s = .next v) ∧
        (st.xoff.contains q = true → v.rxFill p q < v.xonOctets p q → st.rxBroken.contains q = false →
          exec (.rxBufferDrain p q) s = .next ((v.setPort p { v.port p with xoff := st.xoff.erase q }).sendPfc p q 0))) ∧
      (st.sending = none → exec (.frameTxDone p) s = .next s) ∧
      (∀ f, st.sending = some f →
        let v := (((s.setPort p { st with sending := none }).emit (.frame p f)).count64 (Reg.FM_TX_OCTETS_LO p) (Reg.FM_TX_OCTETS_HI p) f.octets).count64
          (Reg.FM_TX_FRAMES_LO p) (Reg.FM_TX_FRAMES_HI p) 1
        (f.pfc = none → exec (.frameTxDone p) s = .next ((v.rspGone p f).kick p)) ∧
        (∀ q' n, f.pfc = some (q', n) → exec (.frameTxDone p) s = .next (((v.count (Reg.FM_TX_PFC p q') 0 32 1).rspGone p f).kick p))) ∧
      (let idle := s.fld (Reg.FM_WD p) 0 16 = 0 ∨ s.lossless p q = false ∨ st.paused.get 0 q = 0 ∨ st.head q = none ∨ st.txBroken.contains q = true;
        (idle → exec (.pauseWdTxExpire p q) s = .next s) ∧
        (¬ idle → s.bit (Reg.FM_WD p) 28 = false → exec (.pauseWdTxExpire p q) s =
          .next (((s.setPort p { st with txBroken := st.txBroken ++ [q] }).pauseBroken p q true).kick p))) ∧
      (s.fld (Reg.FM_WD p) 0 16 = 0 ∨ st.xoff.contains q = false ∨ st.rxBroken.contains q = true → exec (.pauseWdRxExpire p q) s = .next s) ∧
      (s.fld (Reg.FM_WD p) 0 16 ≠ 0 → st.xoff.contains q = true → st.rxBroken.contains q = false → exec (.pauseWdRxExpire p q) s =
        .next ((s.setPort p { st with rxBroken := st.rxBroken ++ [q] }).pauseBroken p q false)) ∧
      exec (.pauseHoldEnd p q true) s = .next ((s.setPort p { st with txBroken := st.txBroken.erase q }).kick p) ∧
      exec (.pauseHoldEnd p q false) s = .next ((s.setPort p
        { st with rxBroken := st.rxBroken.erase q, xoff := if st.rxBroken.contains q then st.xoff.erase q else st.xoff }).checkXoff p q))

/-- LINK_DOWN of a port in service takes it out, empties its queues and raises FM_LINK_DOWN where the status bit was clear; of a port out of service it changes nothing. LINK_UP of an enabled port out of service shows UP with the lanes of its mode and raises FM_LINK_UP; of any other it changes nothing. A write of FM_CTL, of a lane or of a buffer word while EN is set changes no setting and sets CFG_REFUSED, but that a write of FM_CTL with EN clear and no other change disables the port. With EN clear a buffer word is stored as written; FM_CTL with EN set enables the port if the shares fit, and otherwise sets CFG_REFUSED. With no packet of its kind waiting, OPEN, OPEN_OK, CLOSE and ACK change nothing. OPEN enters a fresh connection with the packet's PSN in place of one that stood, and answers OPEN_OK, where the table has room. OPEN_OK makes a connection ready and lets its messages go; CLOSE drops it; ACK takes the packets it acknowledges off. RETRANSMIT_TIMEOUT of a connection with something outstanding counts, and resends or, at the retry limit, loses the peer; ACK_DELAY_EXPIRE sends a due acknowledgment; REQUEST_RETRY_TIMEOUT resends a sent row request once more, or at the limit ends it poisoned; PEER_WAIT_EXPIRE of a slot on HOLD raises PEER_LOST and stops it. -/
def Obligations.LinksAndConnections : Prop :=
    (∀ (s : State) (p : Nat),
      let ctl := Reg.FM_CTL p
      (s.inService p = false → exec (.linkDown p) s = .next s) ∧
      (s.inService p = true → (s.port p).queue = [] → (s.port p).sending = none → ∃ t, exec (.linkDown p) s = .next t ∧ t.fld (Reg.FM_LINK p) 0 5 = 0 ∧
        (t.port p).urgent = [] ∧ (t.port p).queue = [] ∧ (t.port p).paused = [] ∧ t.bit (Reg.FM_STATUS p) 0 = true ∧ t.mem = s.mem) ∧
      (8 ≤ p ∨ s.inService p = true ∨ s.bit ctl 0 = false → exec (.linkUp p) s = .next s) ∧
      (p < 8 → s.inService p = false → s.bit ctl 0 = true → ∃ t e, exec (.linkUp p) s = .next t ∧
        t.fld (Reg.FM_LINK p) 0 5 = 1 + 2 * (2 ^ laneCount (s.fld ctl 1 2) - 1) ∧ t.evq = s.evq ++ [e] ∧ e.code = .FM_LINK_UP ∧ t.mem = s.mem) ∧
      (p < 8 → s.bit ctl 0 = true →
        (∀ v : Word, bitOf v.toNat 0 = true → exec (.fmCtlWrite p 0 v) s = .next (s.setBit (Reg.FM_STATUS p) 2 true)) ∧
        (∀ v : Word, bitOf v.toNat 0 = false → ((s.rd ctl).toNat ^^^ v.toNat) % 2 ^ 16 / 2 = 0 → exec (.fmCtlWrite p 0 v) s = .next ((s.linkDown p).setBit ctl 0 false)) ∧
        (∀ (o : Nat) (v : Word), o = 4 ∨ 0x40 ≤ o ∧ o < 0x80 ∧ o % 4 = 0 → exec (.fmCtlWrite p o v) s = .next (s.setBit (Reg.FM_STATUS p) 2 true))) ∧
      (p < 8 → s.bit ctl 0 = false →
        (∀ v : Word, bitOf v.toNat 0 = false → ∃ t, exec (.fmCtlWrite p 0 v) s = .next t ∧ t.bit ctl 0 = false ∧ t.fld ctl 1 3 = bitsOf v.toNat 1 3 ∧
          t.fld ctl 8 8 = bitsOf v.toNat 8 8 ∧ t.fld ctl 4 2 = (if bitsOf v.toNat 4 2 = 3 then s.fld ctl 4 2 else bitsOf v.toNat 4 2) ∧ t.mem = s.mem) ∧
        (∀ v : Word, bitOf v.toNat 0 = true → s.early = false →
          (s.limitSum p ≤ 4096 → ∃ t, exec (.fmCtlWrite p 0 v) s = .next t ∧ t.bit ctl 0 = true ∧ t.fld ctl 8 8 = bitsOf v.toNat 8 8 ∧ t.mem = s.mem) ∧
          (4096 < s.limitSum p → ∃ t, exec (.fmCtlWrite p 0 v) s = .next t ∧ t.bit ctl 0 = false ∧ t.bit (Reg.FM_STATUS p) 2 = true ∧ t.mem = s.mem)) ∧
        (∀ (q : Fin 8) (v : Word), exec (.fmCtlWrite p (0x40 + 8 * q.val) v) s = .next (s.wr (ctl + (0x40 + 8 * q.val)) (v &&& 0xFFFFFF#32))))) ∧
    ((∀ (s : State) (hf : Nat),
      (s.takeCtrl hf 1 = none → exec (.open_ hf) s = .next s) ∧ (s.takeCtrl hf 2 = none → exec (.openOk hf) s = .next s) ∧
      (s.takeCtrl hf 3 = none → exec (.close hf) s = .next s) ∧ (s.takeRx hf (fun k => k.typ = tAck) = none → exec (.ack hf) s = .next s) ∧
      (∀ k slot v, s.takeCtrl hf 1 = some (k, slot, v) →
        let w := match v.conn hf k.handle slot k.src with | some c => v.dropConn c | none => v
        (∀ r, w.connRoom hf = (r, false) → exec (.open_ hf) s = .next r) ∧
        (∀ r, w.connRoom hf = (r, true) → exec (.open_ hf) s = .next ((r.addConn ({ id := r.tick, hf := hf, cls := k.handle, slot := slot, peer := k.src, ready := true, nextPsn := k.psn, rxNext := k.psn, used := r.tick } : Conn)).sendOpenMsg hf slot k.src 2 k.handle k.psn))) ∧
      (∀ k slot v c, s.takeCtrl hf 2 = some (k, slot, v) → v.conn hf k.handle slot k.src = some c →
        (c.ready = true → exec (.openOk hf) s = .next v) ∧
        (c.ready = false → exec (.openOk hf) s = .next ((v.setConn { c with ready := true, fails := 0 }).pumpAll c.id))) ∧
      (∀ k slot v c, s.takeCtrl hf 3 = some (k, slot, v) → v.conn hf k.handle slot k.src = some c → exec (.close hf) s = .next (v.dropConn c)) ∧
      (∀ k slot v c, s.takeRx hf (fun k => k.typ = tAck) = some (k, v) → v.slotOfGroup k.group = some slot → v.conn hf k.handle slot k.src = some c →
        exec (.ack hf) s = .next (v.ackReceived c k.ackPsn (markedBy k.ackPsn k.payload)))) ∧
    (∀ (s : State) (id : Nat),
      (s.connById id = none → exec (.retransmitTimeout id) s = .next s ∧ exec (.ackDelayExpire id) s = .next s) ∧
      (∀ c, s.connById id = some c →
        (c.since = 0 → exec (.ackDelayExpire id) s = .next s) ∧ (c.since ≠ 0 → exec (.ackDelayExpire id) s = .next (s.sendAck c)) ∧
        (c.ready = true → c.unacked = [] → exec (.retransmitTimeout id) s = .next s) ∧
        (c.ready = false ∨ c.unacked ≠ [] →
          let d := { c with fails := c.fails + 1 }
          let v := (s.count (Reg.HF_GFT_RETX c.hf) 16 16 1)
          (v.retryMax ≤ d.fails → exec (.retransmitTimeout id) s = .next ((v.setConn d).peerLost c.slot c.peer 0xFFFFFFFF)) ∧
          (d.fails < v.retryMax → c.ready = true → exec (.retransmitTimeout id) s =
            .next ((v.setConn d).resend d (c.unacked.filter (fun k => !c.marked.contains k.psn)))) ∧
          (d.fails < v.retryMax → c.ready = false → exec (.retransmitTimeout id) s =
            .next ((v.setConn d).sendOpenMsg c.hf c.slot c.peer 1 c.cls c.rxNext)))) ∧
      (∀ r, s.rowReqs.find? (fun r => r.id = id) = some r →
        (r.sent = false → exec (.requestRetryTimeout id) s = .next s) ∧
        (r.sent = true → s.retryMax ≤ r.tries → exec (.requestRetryTimeout id) s = .next (s.poisonRows r)) ∧
        (r.sent = true → r.tries < s.retryMax → exec (.requestRetryTimeout id) s = .next (State.sendRowReq
          { s with rowReqs := s.rowReqs.map (fun q => if q.id = id then { q with tries := q.tries + 1 } else q) } r)))) ∧
    (∀ (s : State) (slot : Nat), (s.bit (Reg.HF_GROUP_MODULE slot) 17 = false → exec (.peerWaitExpire slot) s = .next s) ∧
      (s.bit (Reg.HF_GROUP_MODULE slot) 17 = true → exec (.peerWaitExpire slot) s =
        .next (((s.setBit (Reg.HF_GROUP_MODULE slot) 17 false).raise .PEER_LOST .jobFatal (srcJob slot) [(s.epochSt slot).lost.headD 0, 0xFFFFFFFF]).stopSlot slot))))

/-- With no packet of its kind waiting, DATA, GRAD, BULK and ROW_RSP change nothing, and ROW_REQ answers what a sweep or a bank held. A packet of no job slot's group is dropped. DATA, GRAD and BULK are checked by epoch and accepted on their connection; a complete message of DATA reaches its collective's block, one of GRAD is stored as a record, or with the area full aborts the step, and one of BULK places the rows of the shard it moves. ROW_REQ of this epoch is answered, or held while a table it names is swept or a bank makes it wait. ROW_RSP's last packet ends its request, frees its tag and gives the rows to the gather. Each control message, with none of its kind waiting, changes nothing; one that its connection does not accept does no more than that connection's books; one that it accepts lets every message through that stands complete in PSN order, each applied by its subtype. An EPOCH_NAK from no later epoch, or while a layout is awaited, changes nothing. EPOCH_ADOPTED of a member that has all the shards it gains, and loses none, adopts the epoch of the change, ends it and raises EPOCH_ADOPTED; at another point it changes nothing. -/
def Obligations.FabricMessages : Prop :=
    (∀ (s : State) (hf : Nat) (host : List Host.Cell),
      (s.takeRx hf (fun k => k.typ = tData) = none → exec (.data hf) s = .next s) ∧
      (s.takeRx hf (fun k => k.typ = tGrad) = none → exec (.grad hf) s = .next s) ∧
      (s.takeRx hf (fun k => k.typ = tBulk) = none → exec (.bulk hf) s = .next s) ∧
      (s.takeRx hf (fun k => k.typ = tRowRsp) = none → exec (.rowRsp hf) s = .next s) ∧
      (s.takeRx hf (fun k => k.typ = tRowReq) = none → exec (.rowReq hf host) s = .next (s.releaseRows host)) ∧
      (∀ k v slot w, s.takeRx hf (fun k => k.typ = tData) = some (k, v) → v.slotOfGroup k.group = some slot →
        (v.windowMessage hf slot k false = (w, none) → exec (.data hf) s = .next w) ∧
        (∀ l, v.windowMessage hf slot k false = (w, some l) → k.handle < 1024 → w.collSlot k.handle = slot →
          exec (.data hf) s = .next (w.dataBlock k.handle k.msg k.src l))) ∧
      (∀ k v slot w, s.takeRx hf (fun k => k.typ = tGrad) = some (k, v) → v.slotOfGroup k.group = some slot →
        (v.windowMessage hf slot k false = (w, none) → exec (.grad hf) s = .next w) ∧
        (∀ l y, v.windowMessage hf slot k false = (w, some l) →
          (w.storeRecord slot { coalOf w.dimOf l with src := k.src } = (y, true) → exec (.grad hf) s = .next y) ∧
          (w.storeRecord slot { coalOf w.dimOf l with src := k.src } = (y, false) → exec (.grad hf) s = .next (y.abortStep slot)))) ∧
      (∀ k v slot w, s.takeRx hf (fun k => k.typ = tBulk) = some (k, v) → v.slotOfGroup k.group = some slot →
        let got := v.windowMessage hf slot k (decide ((v.epochSt slot).order = 3))
        (got = (w, none) → exec (.bulk hf) s = .next w) ∧
        (∀ l mv, got = (w, some l) → (w.epochSt slot).moves.find? (fun x => x.table = k.handle && x.shard = k.msg) = some mv →
          exec (.bulk hf) s = .next ((w.placeRows mv (l.length / 16) l).setEpochSt slot
            { w.epochSt slot with awaited := (w.epochSt slot).awaited.erase (k.handle, k.msg) }))) ∧
      (∀ k v slot w, s.takeRx hf (fun k => k.typ = tRowReq) = some (k, v) → v.slotOfGroup k.group = some slot →
        (v.epochOk hf slot k false = (w, false) → exec (.rowReq hf host) s = .next w) ∧
        (v.epochOk hf slot k false = (w, true) →
          let wait := (reqRows k.payload).any (fun r => w.tblValid r.1 && w.sweptBy r.1 none) || !w.rowsReady slot k
          (wait = false → exec (.rowReq hf host) s = .next (w.answerRows hf slot k host)) ∧
          (wait = true → exec (.rowReq hf host) s = .next { w.wakeRows slot k with heldRows := w.heldRows ++ [{ hf := hf, slot := slot, packet := k }] }))) ∧
      (∀ k v r w l, s.takeRx hf (fun k => k.typ = tRowRsp) = some (k, v) → v.rowReqs.find? (fun r => r.id = k.msg && r.peer = k.src && r.sent) = some r →
        v.epochOk hf r.slot k false = (w, true) → (∀ p ∈ r.got, p.off ≠ k.off) → assemble (r.got ++ [k]) k = some l →
        exec (.rowRsp hf) s = .next (State.rowsArrive (State.freeUser { w with rowReqs := w.rowReqs.filter (fun q => q.id ≠ r.id) } (.rows r.id)) r r.rows.length l))) ∧
    ((∀ (s : State) (hf : Nat) (host : List Host.Cell) (cmd : Nat → List Host.Cell → Instr) (sub : Nat),
      (cmd, sub) ∈ [((fun h l => Instr.epochNak h l), 4), (fun h l => .epochReady h l, 5), (fun h l => .epochCommit h l, 6), (fun h l => .peerLoss h l, 7),
        (fun h l => .peerBack h l, 8), (fun h l => .layoutReq h l, 9), (fun h l => .layout h l, 10)] →
      (s.takeCtrl hf sub = none → exec (cmd hf host) s = .next s) ∧
      (∀ k slot v w, s.takeCtrl hf sub = some (k, slot, v) →
        (v.onWindow hf slot k = (w, none) → exec (cmd hf host) s = .next w) ∧
        (∀ id, v.onWindow hf slot k = (w, some id) → exec (cmd hf host) s = .next (w.ctrlDeliver id slot host 1024)))) ∧
    (∀ (s : State) (slot : Nat) (l : List Byte), epochDiff (payloadWord l 0) (s.epochOf slot) ≤ 0 ∨ (s.epochSt slot).needLayout = true → s.epochNak slot l = s) ∧
    (∀ (s : State) (slot : Nat),
      let e := s.epochSt slot
      (e.order ≠ 3 ∨ e.awaited ≠ [] → exec (.epochAdopted slot) s = .next s) ∧
      (e.order = 3 → e.awaited = [] → e.moves = [] → ∃ t, exec (.epochAdopted slot) s = .next t ∧ t.rd (Reg.HF_GROUP_EPOCH slot) = BitVec.ofNat 32 e.target ∧
        (t.epochSt slot).order = 0 ∧ (t.epochSt slot).children = [] ∧ t.mem = s.mem ∧ ∃ v, t.evq = s.evq ++ [v] ∧ v.code = .EPOCH_ADOPTED ∧ v.source = srcJob slot)))

/-- SERVE_REQ and SERVE_RSP with no complete message waiting change nothing. A SERVE_REQ that repeats a live request, or is for a slot that takes none, only leaves the receive queue; with both halves of the ledger full it is answered BUSY; otherwise it enters a free entry QUEUED, with the current generation pinned and its payload, and memory does not change. SERVE_RSP delivers its identifier, status and payload. SERVE_DISPATCH starts a QUEUED request of a running slot, all of its records or none. RESULT_STORE of a request with nothing left to run, or that failed, replies with its status and retires the entry; of any other it changes nothing. SWEEP_START at order 2 with the flush done and no entry or collective of the slot still to end starts order 3 with nothing staged or done; before that it changes nothing. SWEEP_UPDATE_TASK names a block of a sweeping slot's update table: one not yet begun is staged and its task started, one whose task has ended is written back, and one whose task runs, that is done, or that the table does not hold changes nothing. SWEEP_PHASE2 before every block is done changes nothing; with an empty update table it shows the root, records the statistics, counts the sweep and completes order 3. DIGEST_COMPARE where no comparison is due, or with the leaves of another number of members, changes nothing; where every member's leaves are this module's, the comparison is counted and complete, with nothing to repair. DIGEST_REPAIR of a leaf that is not to be repaired, or with no whole block, changes nothing. PREFETCH_START and MICROBATCH_START of a running slot whose token's COUNT is at least 1 and whose list has a next entry start it and take one off the token, and otherwise change nothing. WAIT_POLICY_ACTION of a slot that does not wait on the fabric changes nothing; of one that does, it starts what the policy names next and counts it. -/
def Obligations.RequestsAndSweeps : Prop :=
    ((∀ (s : State) (hf : Nat),
      (s.rxMessage hf tServeReq = none → exec (.serveReq hf) s = .next s) ∧ (s.rxMessage hf tServeRsp = none → exec (.serveRsp hf) s = .next s) ∧
      (∀ port k bytes v, s.rxMessage hf tServeRsp = some (port, k, bytes, v) → exec (.serveRsp hf) s = .next (v.emit (.served k.msg k.handle bytes))) ∧
      (∀ port k bytes v slot, s.rxMessage hf tServeReq = some (port, k, bytes, v) → v.requestSlot k = some slot →
        let again := v.ledger.any (fun e => e.2.st ≠ 0 && !e.2.capsule && e.2.origin = k.src && e.2.reqId = k.msg)
        (again = true ∨ v.takesRequests slot false = false → exec (.serveReq hf) s = .next v) ∧
        (again = false → v.takesRequests slot false = true →
          (v.freeLedger hf = none → exec (.serveReq hf) s = .next (v.sendServeRsp hf slot k.src k.group k.msg 13 [])) ∧
          (∀ e, v.freeLedger hf = some e → ∃ t, exec (.serveReq hf) s = .next t ∧ (t.ledgerEntry e).st = 1 ∧ (t.ledgerEntry e).slot = slot ∧
            (t.ledgerEntry e).reqId = k.msg ∧ (t.ledgerEntry e).origin = k.src ∧ (t.ledgerEntry e).payload = bytes ∧
            (t.ledgerEntry e).gen = v.fld Reg.EM_GEN 0 16 ∧ t.mem = v.mem ∧ t.regs = v.regs)))) ∧
    (∀ (s : State) (e : Nat) (records : List (List Word)),
      let l := s.ledgerEntry e
      (l.st ≠ 1 ∨ s.slotIs l.slot .running = false ∨ records = [] ∨ s.fw.shift = 3 → exec (.serveDispatch e records) s = .next s) ∧
      (l.st = 1 → s.slotIs l.slot .running = true → records ≠ [] → s.fw.shift ≠ 3 →
        let t := (s.setLedger e { l with st := 2 }).placeAll l.slot e records
        ((t.tasks.filter (fun x => x.2.request = some e)).length = records.length → exec (.serveDispatch e records) s = .next t) ∧
        ((t.tasks.filter (fun x => x.2.request = some e)).length ≠ records.length → exec (.serveDispatch e records) s = .next s))) ∧
    (∀ (s : State) (e : Nat) (payload : List Byte),
      let l := s.ledgerEntry e
      (l.st = 3 → exec (.resultStore e payload) s = .next (s.reply e l.status l.detail [])) ∧
      (l.st = 2 → (∀ t ∈ s.tasks, t.2.request ≠ some e) → exec (.resultStore e payload) s = .next (s.reply e l.status l.detail payload)) ∧
      (l.st < 2 ∨ l.st = 2 ∧ (∃ t ∈ s.tasks, t.2.request = some e) → exec (.resultStore e payload) s = .next s))) ∧
    ((∀ (s : State) (slot : Nat),
      let ready := (s.job slot).drainOrder = 2 ∧ (s.job slot).flushed = 2 ∧ s.entriesOf slot [1] = [] ∧ s.runningColls slot = []
      (¬ ready → exec (.sweepStart slot) s = .next s) ∧
      (ready → ∃ t, exec (.sweepStart slot) s = .next t ∧ (t.job slot).drainOrder = 3 ∧ (t.sweep slot).staged = [] ∧ (t.sweep slot).done = [] ∧
        (t.sweep slot).ran = (s.sweep slot).ran ∧ t.mem = s.mem)) ∧
    (∀ (s : State) (slot e b area grad : Nat) (pc : Word) (host : List Host.Cell),
      let find := (s.sweep slot).staged.find? (fun x => x.entry = e && x.block = b)
      (s.slotIs slot .sweep = false ∨ s.upCount slot ≤ e ∨ s.upBlocks slot e ≤ b → exec (.sweepUpdateTask slot e b area grad pc host) s = .next s) ∧
      (s.slotIs slot .sweep = true → e < s.upCount slot → b < s.upBlocks slot e →
        (∀ x, find = some x → s.alive x.key = true → exec (.sweepUpdateTask slot e b area grad pc host) s = .next s) ∧
        (∀ x, find = some x → s.alive x.key = false → exec (.sweepUpdateTask slot e b area grad pc host) s = .next (s.finishUpdate slot x)) ∧
        (find = none → (s.sweep slot).done.contains (e, b) = true → exec (.sweepUpdateTask slot e b area grad pc host) s = .next s) ∧
        (find = none → (s.sweep slot).done.contains (e, b) = false →
          exec (.sweepUpdateTask slot e b area grad pc host) s = .next (s.stageUpdate slot e b area grad pc host)))) ∧
    (∀ (s : State) (slot : Nat),
      (s.slotIs slot .sweep = false ∨ s.phase1Done slot = false → exec (.sweepPhase2 slot) s = .next s) ∧
      (s.slotIs slot .sweep = true → s.phase1Done slot = true → s.upCount slot = 0 →
        let v := (s.showRoot slot).statsRecord slot
        let n := v.rd2 (Reg.UP_JOB_SWEEP_LO slot) (Reg.UP_JOB_SWEEP_HI slot) + 1
        let w := (v.wr (Reg.UP_JOB_SWEEP_LO slot) (BitVec.ofNat 32 n)).wr (Reg.UP_JOB_SWEEP_HI slot) (BitVec.ofNat 32 (n / 2 ^ 32))
        let y := w.setSweep slot { w.sweep slot with staged := [], done := [], states := [] }
        exec (.sweepPhase2 slot) s = .next ((y.setJob slot { y.job slot with drainOrder := 4, compared := 0 }).setSlot slot .draining)))) ∧
    ((∀ (s : State) (slot : Nat) (others : List (Nat × List Nat)) (suspects : List Nat),
      let n := s.fld (Reg.UP_JOB_GROUP slot) 16 16
      ((s.job slot).drainOrder ≠ 9 ∨ (s.job slot).compared ≠ 0 ∨ s.compareDue slot = false ∨ others.length + 1 ≠ n →
        exec (.digestCompare slot others suspects) s = .next s) ∧
      ((s.job slot).drainOrder = 9 → (s.job slot).compared = 0 → s.compareDue slot = true → others.length + 1 = n →
        (∀ o ∈ others, o.2 = s.digestLeaves slot) → ∃ t, exec (.digestCompare slot others suspects) s = .next t ∧ (t.job slot).compared = 2 ∧
          (t.job slot).repairs = [] ∧ t.fld (Reg.UP_JOB_COMPARES slot) 0 16 = min 65535 (s.fld (Reg.UP_JOB_COMPARES slot) 0 16 + 1) ∧ t.mem = s.mem ∧ t.evq = s.evq)) ∧
    (∀ (s : State) (slot leaf : Nat) (block : List Byte),
      ((s.job slot).compared ≠ 1 ∨ block.length ≠ 4096 ∨ (∀ r ∈ (s.job slot).repairs, r.1 ≠ leaf) → exec (.digestRepair slot leaf block) s = .next s) ∧
      (∀ r a off, (s.job slot).repairs.find? (fun r => r.1 = leaf) = some r → leafAt (s.digestAreas slot) leaf = some (a, off) → (s.job slot).compared = 1 →
        block.length = 4096 → a.kind ≠ .values →
        let k := min 4096 (a.size - off)
        let d := ((s.bytes (a.addr + off) k).zip (block.take k)).zipIdx.flatMap (fun p => (bitDiffs p.1.1 p.1.2).map (fun b => (p.2, b)))
        let v := ((s.writeDev (jobAgent slot) (a.addr + off) (block.take k)).showRoot slot).count (Reg.UP_JOB_COMPARES slot) 16 16 1
        let w := v.raise .DIGEST_MISMATCH .corrected (srcJob slot) [leaf, (d.headD (0, 0)).1, (d.headD (0, 0)).2, d.length, r.2]
        exec (.digestRepair slot leaf block) s = .next (w.setJob slot { w.job slot with
          repairs := (s.job slot).repairs.erase r, compared := if (s.job slot).repairs.erase r = [] then 2 else 1 }))) ∧
    (∀ (s : State) (slot : Nat),
      (s.slotIs slot .running = false → exec (.prefetchStart slot) s = .next s ∧ exec (.microbatchStart slot) s = .next s) ∧
      (s.slotIs slot .running = true →
        let pf := (s.rd (Reg.UP_JOB_PF_TOKEN slot)).toNat
        let mb := (s.rd (Reg.UP_JOB_MB_TOKEN slot)).toNat
        ((s.token pf).count = 0 → exec (.prefetchStart slot) s = .next s) ∧ ((s.token mb).count = 0 → exec (.microbatchStart slot) s = .next s) ∧
        (s.fld (Reg.UP_JOB_PF_COUNT slot) 0 12 ≤ (s.job slot).pfStarted.length → exec (.prefetchStart slot) s = .next s) ∧
        (s.fld (Reg.UP_JOB_CTL slot) 8 8 ≤ (s.job slot).mbStarted → exec (.microbatchStart slot) s = .next s) ∧
        ((s.token mb).count ≠ 0 → (s.job slot).mbStarted < s.fld (Reg.UP_JOB_CTL slot) 8 8 → (s.job slot).inStep = true → ∃ t, exec (.microbatchStart slot) s = .next t ∧
          (t.token mb).count = (s.token mb).count - 1 ∧ (t.job slot).mbStarted = (s.job slot).mbStarted + 1 ∧ t.mem = s.mem))) ∧
    (∀ (s : State) (slot : Nat) (again : Bool),
      (s.waitsOnToken slot = false → exec (.waitPolicyAction slot again) s = .next s) ∧
      (s.waitsOnToken slot = true →
        let policy := s.fld (Reg.UP_JOB_CTL slot) 0 2
        (policy = 0 → exec (.waitPolicyAction slot again) s = .next s) ∧
        (∀ t, policy = 2 ∨ policy = 3 ∧ again = true → s.nextMicrobatch slot = some t →
          exec (.waitPolicyAction slot again) s = .next (t.count (Reg.UP_JOB_WAITS slot) 0 16 1)) ∧
        (∀ t, policy = 1 ∨ policy = 3 ∧ again = false → s.pfRunning slot < max 1 (s.fld (Reg.UP_JOB_CTL slot) 5 3) → s.nextPrefetch slot = some t →
          exec (.waitPolicyAction slot again) s = .next (t.count (Reg.UP_JOB_WAITS slot) 0 16 1)))))

/-- CONFIG_REQUEST is answered with Request Retry Status before S1 has ended, for at most a second, and then answered; a write of the Command register sets or clears Bus Master Enable. BAR_ACCESS that fails its range check reads zeros or is dropped; one whose bank answers reads, or writes exactly its bytes. RING_HEAD_WRITE moves HEAD on and, with no record waiting, nothing else; RING_CONFIG_WRITE while the lease is live changes the phase and vector only. MSIX_MOD_TIMER signals unless the function is muted. RESULT_SLOT_READ returns a VALID slot's bytes, zeros of any other, and counts a read of the header; RETIRE of a VALID slot with equal SEQ frees it, and counts any other. An APERTURE_WRITE_INVALID is counted as malformed, or as an overrun where only the credit is missing. LEASE_EXPIRY of a function whose timer has not reached LEASE_MS, with no expiry under way, changes nothing. Where it has, and likewise at a D3HOT_WRITE, a live lease of a function that holds no job slot expires: EXPIRED is set, HOST_LEASE_EXPIRED is raised, the function is muted and its deep windows of KIND 0 close, and no byte of memory changes; a lease that has expired stays as it is. FUNCTION_LEVEL_RESET does the same, clears the function's queues and rings and clears Bus Master Enable. BUS_MASTER_DISABLE clears that bit and nothing else. -/
def Obligations.HostWindowsAndLeases : Prop :=
    (∀ (s : State) (f : Nat), f < 16 → s.power.s1 = true →
      (∀ write, s.fld Reg.PC_BOOT 0 3 < 2 → s.usecN.toNat < 1000000 → exec (.configRequest f write) s = .next (s.emit (.cfgRetry f))) ∧
      (2 ≤ s.fld Reg.PC_BOOT 0 3 ∨ 1000000 ≤ s.usecN.toNat → exec (.configRequest f none) s = .next (s.emit (.cfgAnswer f)) ∧
        ∀ v : Word, ∃ t, exec (.configRequest f (some (4, v))) s = .next t ∧ t.busMaster.get false f = v.getLsbD 2 ∧ t.regs = s.regs ∧ t.mem = s.mem) ∧
      (3 ≤ s.fld Reg.PC_BOOT 0 3 → ∀ (bank : Bool) (off size : Nat) (d : List Byte),
        let a := s.barAddr f bank off
        let ag : Agent := if bank then .owner 5 f else .outside
        (s.barOk f bank a size = false → exec (.barAccess f bank off size none) s = .next (s.emit (.readData (List.replicate size 0#8) false))) ∧
        (s.barOk f bank a d.length = false → exec (.barAccess f bank off size (some d)) s = .next s) ∧
        (s.barOk f bank a size = true → (s.wakeSpan ag false a size).spanReady ag false a size = true → (bank = true → (s.wakeSpan ag false a size).barHeld a false = false) →
          let r := (s.wakeSpan ag false a size).readDev ag a size []
          exec (.barAccess f bank off size none) s = .next (r.1.emit (.readData r.2.1 r.2.2))) ∧
        (s.barOk f bank a d.length = true → (s.wakeSpan ag true a d.length).spanReady ag true a d.length = true →
          (bank = true → (s.wakeSpan ag true a d.length).barHeld a true = false) →
          exec (.barAccess f bank off size (some d)) s = .next ((s.wakeSpan ag true a d.length).writeDev ag a d))) ∧
      (∀ (q : Nat) (v : Word), q < 16 →
        ((s.ring (16 * f + q)).waiting = [] → (s.fn f).muted = false → s.busMaster.get false f = true → ∃ t, exec (.ringHeadWrite f q v) s = .next t ∧
          t.fld (Reg.PC_RING_PTR f q) 0 16 = v.toNat % 2 ^ 16 ∧ t.mem = s.mem ∧ ∀ r, r ≠ Reg.PC_RING_PTR f q → t.rd r = s.rd r) ∧
        (s.leaseLive f = true → exec (.ringConfigWrite f q 8 v) s = .next (s.setFld (Reg.PC_RING_CFG f q) 5 8 (bitsOf v.toNat 5 8)) ∧
          exec (.ringConfigWrite f q 0 v) s = .next s ∧ exec (.ringConfigWrite f q 4 v) s = .next s) ∧
        (s.leaseLive f = false → exec (.ringConfigWrite f q 0 v) s = .next ((s.wr (Reg.PC_RING_BASE_LO f q) v).resetRing f q)) ∧
        ((s.fn f).muted = true ∨ s.busMaster.get false f = false → exec (.msixModTimer f q) s = .next s) ∧
        ((s.fn f).muted = false → s.busMaster.get false f = true → exec (.msixModTimer f q) s = .next (s.signal (16 * f + q)))) ∧
      (3 ≤ s.fld Reg.PC_BOOT 0 3 → ∀ (slot : Nat) (v : Word), slot < 65536 →
        let r := s.result (65536 * f + slot)
        (r.st = 2 → r.seq = v.toNat → ∃ t, exec (.retire f slot v) s = .next t ∧ (t.result (65536 * f + slot)).st = 0 ∧ (t.result (65536 * f + slot)).reads = r.reads ∧
          t.regs = s.regs ∧ t.mem = s.mem) ∧
        (r.st ≠ 2 ∨ r.seq ≠ v.toNat → exec (.retire f slot v) s = .next (s.count (Reg.PC_COUNTS f) 0 16 1)) ∧
        (∀ off size, 64 ≤ off → 0 < size → off + size ≤ 4096 → exec (.resultSlotRead f slot off size) s =
          .next (s.emit (.readData (if r.st = 2 then ((slotBytes4K r).drop off).take size else List.replicate size 0#8) false))) ∧
        (∀ size, 0 < size → size ≤ 4096 → ∃ t, exec (.resultSlotRead f slot 0 size) s = .next t ∧
          (t.result (65536 * f + slot)).reads = min (2 ^ 32 - 1) (r.reads + 1) ∧ (t.result (65536 * f + slot)).st = r.st ∧ t.mem = s.mem)) ∧
      (∀ off size, off < 0x100000 →
        (size ≠ 128 ∨ off % 128 ≠ 0 ∨ s.takesCapsules = false → exec (.apertureWriteInvalid f off size) s = .next (s.malformed f)) ∧
        (size = 128 → off % 128 = 0 → s.takesCapsules = true → s.fld (Reg.PC_QUEUE_CREDITS f (off / 0x10000)) 0 9 = 0 →
          exec (.apertureWriteInvalid f off size) s = .next (s.overrun f (off / 0x10000))))) ∧
    (∀ (s : State) (f : Nat), f < 16 →
      ((s.fn f).expiring = false → s.leaseOver f = false → exec (.leaseExpiry f) s = .next s) ∧
      (s.leaseLive f = false → exec (.d3hotWrite f) s = .next s) ∧
      (s.leaseLive f = true → s.slotsOf f = [] → ∃ t, exec (.d3hotWrite f) s = .next t ∧
        ((s.fn f).expiring = false → s.leaseOver f = true → exec (.leaseExpiry f) s = .next t) ∧
        exec (.functionLevelReset f) s = .next { t.clearQueues f with busMaster := t.busMaster.put false f false } ∧
        t.bit (Reg.PC_LEASE f) 14 = true ∧ (t.fn f).muted = true ∧ (t.fn f).expiring = false ∧ t.mem = s.mem ∧
        (∃ e, t.evq = s.evq ++ [e] ∧ e.code = .HOST_LEASE_EXPIRED ∧ e.source = srcFn f) ∧
        (∀ w, w < 64 → s.bit (Reg.HF_DEEP_WIN_CTL w) 0 = true → s.bit (Reg.HF_DEEP_WIN_CTL w) 1 = false → s.winFn w = f → t.closed.get false w = true)) ∧
      (∃ t, exec (.busMasterDisable f) s = .next t ∧ t.busMaster.get false f = false ∧ t.regs = s.regs ∧ t.mem = s.mem ∧
        ∀ g, g ≠ f → t.busMaster.get false g = s.busMaster.get false g))

/-- A capsule that passes every check enters its queue, and then: LEASE ends with status 0; ATTACH restarts the lease, clears EXPIRED and echoes the nonce; STEPS of a slot without a job ends with 8, of a SERVE slot or with a count out of range with 11, and otherwise queues the steps, the first of which may start; WITHDRAW withdraws the queued steps; STOP of a FREE slot ends with 11, of another it stops the job; FREE of a STOPPED or DONE slot frees it, of another it ends with 11; SERVE of a slot that takes none ends with 8, and otherwise its inline payload enters a free entry of the ledger; RESUME of a slot with no slice of its lease's ends with 11. A capsule with an opcode that is none of these ends with status 4. A JOB_LOAD that passes every check, for a FREE slot outside RETURNED with a class that exists and a declaration that is read, parsed and allowed, applies it: the slot then runs with that class and no step, and the capsule ends with 0; for a slot that is not FREE it ends with 11. SET of a slot in a step keeps the records for its boundary, and with none running applies them at once; of a slot without a job it ends with 11. RESHARD of a slot in a group queues the moves its declaration asks for; of one without a group it ends with 11. PUBLISH measures its arguments and ends with the result of publishing the table in DETAIL, or with 11 where no such table exists. -/
def Obligations.HostCommands : Prop :=
    ((∀ (s : State) (f q : Nat) (w : List Word), Accepts s f q w →
      let u := s.capsuleIn f q w
      let r := 16 * f + q
      let slot := capSlot w
      let fin := fun (s : State) (status : Nat) => s.endCapsule r (capSeq w) status 0 []
      (capOp w = 1 → exec (.leaseCapsule f q w) s = .next (fin u 0)) ∧
      (capOp w = 2 → u.slotsOf f = [] →
        let v := (u.setBit (Reg.PC_LEASE f) 14 false).setFn f { renewed := u.usecN.toNat, expiring := false, muted := false }
        exec (.attach f q w) s = .next (v.endCapsule r (capSeq w) 0 (capWord w 4 + 2 ^ 32 * capWord w 5) [])) ∧
      (capOp w = 4 →
        (u.slotIdle slot = true → exec (.steps f q w) s = .next (fin u 8)) ∧
        (u.slotIdle slot = false → u.classOf slot = 0 ∨ capWord w 4 = 0 ∨ 65535 < capWord w 4 → exec (.steps f q w) s = .next (fin u 11)) ∧
        (u.slotIdle slot = false → u.classOf slot ≠ 0 → capWord w 4 ≠ 0 → capWord w 4 ≤ 65535 → exec (.steps f q w) s =
          .next (State.nextStep (fin (u.setJob slot { u.job slot with stepsQueued := (u.job slot).stepsQueued + capWord w 4, stepSeqs := (u.job slot).stepSeqs ++ [(capSeq w, capWord w 4)] }) 0) slot))) ∧
      (capOp w = 5 → exec (.withdraw f q w) s = .next (fin (u.withdrawSteps slot) 0)) ∧
      (capOp w = 6 → (u.slotIs slot .free = true → exec (.stop f q w) s = .next (fin u 11)) ∧
        (u.slotIs slot .free = false → exec (.stop f q w) s = .next (fin (u.stopJob slot) 0))) ∧
      (capOp w = 7 →
        (u.slotIs slot .stopped = true ∨ u.slotIs slot .done = true → exec (.free f q w) s = .next (fin (u.freeSlot slot) 0)) ∧
        (u.slotIs slot .stopped = false → u.slotIs slot .done = false → exec (.free f q w) s = .next (fin u 11))) ∧
      (capOp w = 9 → ∀ host,
        (u.takesRequests slot true = false → exec (.serve f q w host) s = .next (fin u 8)) ∧
        (u.takesRequests slot true = true → bitOf (capWord w 6) 31 = true →
          (u.freeLedger 0 = none → exec (.serve f q w host) s = .next (fin u 13)) ∧
          (∀ e, u.freeLedger 0 = some e → exec (.serve f q w host) s = .next (u.enterRequest e
            { slot := slot, capsule := true, reqId := capSeq w, origin := r, payload := (w.drop 8).flatMap (fun v => toBytes 4 v.toNat) })))) ∧
      (capOp w = 8 → ∀ moves,
        (u.slices.get none slot = none → exec (.resume f q w moves) s = .next (fin u 11)) ∧
        (∀ sl, u.slices.get none slot = some sl →
          (u.slotIs slot .sliced && sl.byLease = false → exec (.resume f q w moves) s = .next (fin u 11)) ∧
          (u.slotIs slot .sliced && sl.byLease = true → exec (.resume f q w moves) s = .next ((u.sliceRestore slot moves).finishResume slot))))) ∧
    (∀ (s a c : State) (f q : Nat) (w : List Word), w.length = 32 → capOp w = 0 ∨ 12 < capOp w →
      (s.arrive f q = (a, false) → exec (.badOpcodeCapsule f q w) s = .next a) ∧
      (s.arrive f q = (a, true) → a.checkCapsule f q w false = (c, 4) → exec (.badOpcodeCapsule f q w) s =
        .next ((c.enterCapsule (16 * f + q) ⟨capSeq w, capOp w, capSlot w, none, some (4, 0)⟩).flushDone (16 * f + q) 256)))) ∧
    (∀ (s : State) (f q : Nat) (w : List Word) (host : List Host.Cell) (grants : List (Nat × Nat)) (more passes : Bool), Accepts s f q w →
      let u := s.capsuleIn f q w
      let r := 16 * f + q
      let slot := capSlot w
      let fin := fun (s : State) (status : Nat) => s.endCapsule r (capSeq w) status 0 []
      (capOp w = 3 →
        (u.slotIs slot .free = false ∨ 3 ≤ capWord w 7 → exec (.jobLoad f q w host grants more passes) s = .next (fin u 11)) ∧
        (u.slotIs slot .free = true → u.lifeCycle ≠ 3 → capWord w 7 < 3 →
          (∀ v, u.takeDecl f w host 8 = (v, none) → exec (.jobLoad f q w host grants more passes) s = .next (fin v 11)) ∧
          (∀ v l, u.takeDecl f w host 8 = (v, some l) → v.declOk slot grants l = false → exec (.jobLoad f q w host grants more passes) s = .next (fin v 11)) ∧
          (∀ v l, u.takeDecl f w host 8 = (v, some l) → v.declOk slot grants l = true →
            let y := (((v.setSlot slot .loading).setJob slot { ring := some r }).declApply slot l).setFld (Reg.PN_JOB_CTL slot) 0 2 (capWord w 7)
            let z := (y.setFld (Reg.PN_JOB_LIVE slot) 0 22 0).wr (Reg.PN_JOB_STEPEND slot) 0#32
            exec (.jobLoad f q w host grants more passes) s = .next (fin ((z.deriveJob slot).setSlot slot .running) 0)))) ∧
      (capOp w = 10 →
        (u.slotIdle slot = true → exec (.setDecl f q w host grants more) s = .next (fin u 11)) ∧
        (∀ v l, u.slotIdle slot = false → u.takeDecl f w host 9 = (v, some l) → v.declOk slot grants l = true →
          ((v.job slot).inStep = true → exec (.setDecl f q w host grants more) s =
            .next (v.setJob slot { v.job slot with setRecs := (v.job slot).setRecs ++ l })) ∧
          ((v.job slot).inStep = false → exec (.setDecl f q w host grants more) s = .next (fin (v.declApply slot l) 0)))) ∧
      (capOp w = 11 →
        (u.slotIdle slot = true ∨ u.grouped slot = false → exec (.reshard f q w host) s = .next (fin u 11)) ∧
        (∀ v l m, u.slotIdle slot = false → u.grouped slot = true → u.takeDecl f w host 10 = (v, some l) → v.declMoves slot l = some m →
          exec (.reshard f q w host) s = .next (fin (v.setEpochSt slot { v.epochSt slot with queued := (v.epochSt slot).queued ++ m }) 0))) ∧
      (capOp w = 12 →
        let v := u.extendMeas 11 (sm3 ((w.drop 4).flatMap (fun v => toBytes 4 v.toNat)))
        (4096 ≤ capWord w 4 → exec (.publish f q w) s = .next (fin v 11)) ∧
        (∀ y res, capWord w 4 < 4096 → State.publishGo (v.setFld Reg.EM_PUBLISH 0 12 (capWord w 4)) (capWord w 4) = (y, res) →
          exec (.publish f q w) s = .next (y.endCapsule r (capSeq w) 0 res []))))

/-- Before S1 a write or read of a register changes nothing. A firmware write of a register that is stored as written stores each RW bit as written, clears a W1C bit where a 1 is written and keeps every other bit; a host function other than the PF changes nothing outside its own block, and a component nothing outside its region but that it stops. PN_JOBMAP_WRITE in the protection block is that register write, and elsewhere changes nothing. RC_COUNTER_READ shows the register and clears its RC fields. LATCHED_LO_READ shows the low word and latches the high one. STAT_LO_READ shows a port's count, clears both words and latches the high one. BRIDGE_TRANSFER adds an entry at the end of a FIFO with room, counts the FIFO filled, leaves a full one alone, and otherwise takes the entry at the front out to the other side. MA_STATE shows the sets, the pass and the claims of a motif's array engines, MT_QUEUE the records in its queue and how many of them are SERVE records, MT_CTX_STATE each context's STATE, a fenced core's OFFLINE, MT_TOK_DATA the token that MT_TOK_SEL selects, MT_CMD_STATE the commands of its unit, and MA_TILES_LO the tiles drained. -/
def Obligations.Registers : Prop :=
    ((∀ (s : State) (w : Writer) (a : Nat) (v : Word), s.power.s1 = false → (∀ c, w ≠ .component c) →
      exec (.registerWrite w a v) s = .next s ∧ exec (.pnJobmapWrite w a v) s = .next s ∧ exec (.rcCounterRead a) s = .next s ∧
      exec (.latchedLoRead a) s = .next s ∧ exec (.statLoRead a) s = .next s) ∧
    (∀ (s : State) (v : Word), s.power.s1 = true →
      (∀ a n, (a, n) ∈ [(Reg.PN_SCHED_WAIT, 32), (Reg.EV_CTL, 16), (Reg.PW_ALERT_EN, 6)] → ∃ t, exec (.registerWrite .firmware a v) s = .next t ∧
        (∀ j, j < 32 → t.bit a j = if j < n then v.getLsbD j else s.bit a j) ∧ (∀ r, r ≠ a → t.rd r = s.rd r) ∧ t.mem = s.mem) ∧
      (∀ a n, (a, n) ∈ [(Reg.PW_ALERT, 6), (Reg.HF_FW_STATUS, 6), (Reg.MM_STATUS, 5)] → ∃ t, exec (.registerWrite .firmware a v) s = .next t ∧
        (∀ j, j < 32 → t.bit a j = (s.bit a j && !(decide (j < n) && v.getLsbD j))) ∧ (∀ r, r ≠ a → t.rd r = s.rd r) ∧ t.mem = s.mem) ∧
      (∀ f a, 0 < f → f < 16 → a < Reg.PC_LEASE f ∨ Reg.PC_LEASE (f + 1) ≤ a → a < 0x300000 → exec (.registerWrite (.host f) a v) s = .next s) ∧
      (∀ c a, s.fw.stopped.contains c = false → s.componentMay c (regHome a) v = false → exec (.registerWrite (.component c) a v) s =
        .next { s with fw := { s.fw with stopped := s.fw.stopped ++ [c] } })) ∧
    (∀ (s : State) (a : Nat) (v : Word),
      (inBlock (Reg.PN_JOBMAP_CTL 0) 0x40 64 (regHome a) = false → exec (.pnJobmapWrite .firmware a v) s = .next s) ∧
      (inBlock (Reg.PN_JOBMAP_CTL 0) 0x40 64 (regHome a) = true → exec (.pnJobmapWrite .firmware a v) s = exec (.registerWrite .firmware a v) s)) ∧
    (∀ (s : State), s.power.s1 = true →
      (∀ a, a = Reg.HF_BG ∨ (∃ i, i < 10 ∧ a = Reg.MM_STAT i) ∨ (∃ b, b < 40960 ∧ a = Reg.BK_ACCESS_COUNT b) → ∃ t, exec (.rcCounterRead a) s = .next t ∧
        t.rd a = 0#32 ∧ t.out = s.out ++ [.regData a (s.rd a)] ∧ (∀ r, r ≠ a → t.rd r = s.rd r) ∧ t.mem = s.mem) ∧
      (∀ h, h < 2 → ∃ t, exec (.latchedLoRead (Reg.HF_USEC_LO h)) s = .next t ∧ t.regs = s.regs ∧ t.mem = s.mem ∧
        let n := if h = 0 then s.usecN else s.usecS
        t.out = s.out ++ [.regData (Reg.HF_USEC_LO h) (n.setWidth 32)] ∧ t.view (Reg.HF_USEC_HI h) = (n >>> 32).setWidth 32) ∧
      (∀ p i, p < 8 → i < 4 →
        let a := Reg.FM_CTL p + 0x100 + 8 * i
        ∃ t, exec (.statLoRead a) s = .next t ∧ t.rd a = 0#32 ∧ t.rd (a + 4) = 0#32 ∧ t.view (a + 4) = s.rd (a + 4) ∧
          t.out = s.out ++ [.regData a (s.rd a)] ∧ (∀ r, r ≠ a → r ≠ a + 4 → t.rd r = s.rd r)) ∧
      (∀ h b up, h < 2 → b < 32 →
        let k := bridgeKey h b up
        let l := s.bridges.get [] k
        (l = [] → exec (.bridgeTransfer h b up none) s = .next s) ∧
        (∀ e r, l = e :: r → ∃ t, exec (.bridgeTransfer h b up none) s = .next t ∧ t.bridges.get [] k = r ∧ t.out = s.out ++ [.bridge h b up e] ∧
          t.fld (Reg.HF_BRIDGE h b) (if up then 0 else 8) 7 = r.length % 128 ∧ t.mem = s.mem) ∧
        (∀ e, 64 ≤ l.length → exec (.bridgeTransfer h b up (some e)) s = .next s) ∧
        (∀ e, l.length < 64 → ∃ t, exec (.bridgeTransfer h b up (some e)) s = .next t ∧ t.bridges.get [] k = l ++ [e] ∧ t.out = s.out ∧
          t.fld (Reg.HF_BRIDGE h b) (if up then 0 else 8) 7 = l.length + 1 ∧ t.mem = s.mem ∧
          t.fld (Reg.HF_BRIDGE h b) 16 16 = if l.length = 63 then min 65535 (s.fld (Reg.HF_BRIDGE h b) 16 16 + 1) else s.fld (Reg.HF_BRIDGE h b) 16 16)))) ∧
    (∀ (s : State) (m : Nat), m < 10240 →
      s.view (0x800000 + 0x400 * m + 0x2C4) = BitVec.ofNat 32 (min 127 (s.queue m).length +
        128 * min 127 ((s.queue m).filter (fun k => s.classOf (slotOf k) = 0)).length) ∧
      (∀ k c, k < 32 → c < 4 → bitsOf (s.view (0x800000 + 0x400 * m + 0x180 + 4 * k)).toNat (8 * c) 8 =
        if s.coreFenced m k || s.coreSpare m k then 7 else phaseCode (s.context (m * 128 + k * 4 + c)).phase) ∧
      (let t := s.token (m * 256 + s.fld (Reg.MT_TOK_SEL m) 0 8);
        s.view (0x800000 + 0x400 * m + 0x264) = BitVec.ofNat 32 (t.count % 256 + 256 * b2n t.err + 512 * b2n t.sat + 1024 * min 128 t.waiters.length)) ∧
      (let n := (s.xfers m).length;
        s.view (0x800000 + 0x400 * m + 0x268) = BitVec.ofNat 32 (min 31 (n - 4) + 32 * min 4 n + 256 * min 3 (s.chainsOf m).length)) ∧
      s.view (Reg.MA_STATE m) = BitVec.ofNat 32 (s.maState m) ∧ s.view (Reg.MA_STATE m + 0x20) = (s.array m).tiles.setWidth 32 ∧
      (∀ q, q < 4 → (s.engine m 4).owner = none → (s.engine m q).owner = none → s.view (Reg.MA_STATE m + 0x40 + 4 * q) = 0x40#32))

/-- From the word of an instruction, every field is recovered: OP in bits 31 to 26, d in 25 to 21, a in 20 to 16, b in 15 to 11 and fn in 10 to 0 of a short form; the base opcode in bits 10 to 5 of a long form, whose own opcode is 0x3F, whose bits 4 to 2 are zero, and whose second word is the immediate. For every stitch-core instruction whose words are legal, those words pick that instruction with every operand (what it meets outside its words is absent, and a WTOK of 0 only reads). Every legal pair of words picks an instruction whose words they are, and only the words that are ILLEGAL pick none. -/
def Obligations.InstructionWords : Prop :=
  (∀ op d a b fn, op < 64 → d < 32 → a < 32 → b < 32 → fn < 2048 →
    let w := encWord op d a b fn
    bitsOf w 26 6 = op ∧ bitsOf w 21 5 = d ∧ bitsOf w 16 5 = a ∧ bitsOf w 11 5 = b ∧ bitsOf w 0 11 = fn ∧ w < 2 ^ 32) ∧
  (∀ op d a b sp, op < 64 → d < 32 → a < 32 → b < 32 → sp < 4 →
    let w := encLong op d a b sp
    bitsOf w 26 6 = 0x3F ∧ bitsOf w 21 5 = d ∧ bitsOf w 16 5 = a ∧ bitsOf w 11 5 = b ∧ bitsOf w 5 6 = op ∧ bitsOf w 2 3 = 0 ∧ bitsOf w 0 2 = sp ∧ w < 2 ^ 32) ∧
  (∀ (op d a b : Nat) (i : BitVec 11), encImm op d a b (.short i) = { w0 := encWord op d a b i.toNat }) ∧
  (∀ (op d a b : Nat) (i : Word), encImm op d a b (.long i) = { w0 := encLong op d a b 0, w1 := i.toNat, long := true }) ∧
  (∀ (op d a b : Nat) (sp : Fin 4) (o : BitVec 9), bitsOf (encMem op d a b (.short sp o)).w0 9 2 = sp.val ∧ bitsOf (encMem op d a b (.short sp o)).w0 0 9 = o.toNat) ∧
  (∀ (i : Instr) (x : Nat) (n : Insn), instrWords i = some (x, n) → legalWords n.w0 n.w1 = true → wordInstr x n.w0 n.w1 = some (bareInstr i)) ∧
  (∀ (x w0 w1 : Nat), w0 < 2 ^ 32 → w1 < 2 ^ 32 →
    (∀ i, wordInstr x w0 w1 = some i → ∃ n, instrWords i = some (x, n) ∧ n.w0 = w0 ∧ n.long = decide (bitsOf w0 26 6 = 0x3F) ∧ (n.long = true → n.w1 = w1)) ∧
    (wordInstr x w0 w1 = none ↔ legalWords w0 w1 = false))

/-- A request command whose word asks for another state changes nothing. With firmware up and the module awake: ACTIVE reaches its state once no panel is parked, LEAN once the panels that PARK names are, and otherwise stays in transition; LEAN naming all four is refused, reason 3; DOZE is refused, reason 1, while a job slot forbids it, reason 4 for a wake source on the way, and otherwise holds every powered rail at 420 mV; STANDBY without FORCE is refused, reason 1, while a job slot is active, and otherwise begins its entry. A panel that LEAN names is parked at 420 mV with no rate, unless it is busy, reason 2; a parked one that LEAN no longer names has its rail back. A wake source ends DOZE with its cause. PME_TURN_OFF and its timeout complete STANDBY entry: no rail, nothing kept but the always-on domain. STANDBY ends at a wake. Elsewhere these commands change nothing. Before S1 these commands change nothing. HARDWARE_CLAMP lowers every regulated rail by 20 mV, no lower than 500, and shows it. VIN_RANGE shows the input; outside 38 to 45 V it is an emergency, and back inside it ends. TEMP_WARN shows the hottest sensor and alerts at WARN_C; THERM_THROTTLE at 100 °C or while throttling shows THROTTLE, alerts, runs the fans at 100 % and lowers the regulated rails as the clamp does; THROTTLE_RELEASE ends it below 97 °C. VOLTAGE_CONTROLLER_RUN in ACTIVE or LEAN moves each regulated rail to its setting, held to the range of R14 and R16. CANARY_WINDOW shows each ground's rate of a regulated panel, and the panel's own. SHADOW_REFRESH shows the sensors, the input and the energy. -/
def Obligations.PowerAndHeat : Prop :=
    (let pw := Reg.PW_STATE
    (∀ (s : State) (v : Word) (n : Nat),
      (bitsOf v.toNat 0 3 ≠ 0 → exec (.pwReqActive v) s = .next s) ∧ (bitsOf v.toNat 0 3 ≠ 1 → exec (.pwReqLean v) s = .next s) ∧
      (bitsOf v.toNat 0 3 ≠ 2 → exec (.pwReqDoze v n) s = .next s) ∧ (bitsOf v.toNat 0 3 ≠ 3 → exec (.pwReqStandby v) s = .next s)) ∧
    (∀ (s : State) (v : Word) (n : Nat), s.powerUp = true → s.powerState < 2 →
      let park := bitsOf v.toNat 3 4
      (bitsOf v.toNat 0 3 = 0 → ∃ t, exec (.pwReqActive v) s = .next t ∧ t.fld pw 0 3 = 0 ∧ t.fld pw 3 5 = bitsOf v.toNat 3 5 ∧ t.mem = s.mem ∧
        t.powerState = (if s.fld pw 11 4 = 0 then 0 else s.powerState) ∧ t.bit pw 15 = decide (s.fld pw 11 4 ≠ 0)) ∧
      (bitsOf v.toNat 0 3 = 1 → (park = 15 → ∃ t, exec (.pwReqLean v) s = .next t ∧ t.bit pw 16 = true ∧ t.fld pw 17 3 = 3 ∧
          t.fld pw 0 8 = s.fld pw 0 8 ∧ t.powerState = s.powerState ∧ t.mem = s.mem) ∧
        (park ≠ 15 → ∃ t, exec (.pwReqLean v) s = .next t ∧ t.fld pw 0 3 = 1 ∧ t.fld pw 3 4 = park ∧ t.mem = s.mem ∧
          t.powerState = (if s.fld pw 11 4 = park then 1 else s.powerState) ∧ t.bit pw 15 = decide (s.fld pw 11 4 ≠ park))) ∧
      (bitsOf v.toNat 0 3 = 2 →
        (s.dozeOk = false → ∃ t, exec (.pwReqDoze v n) s = .next t ∧ t.bit pw 16 = true ∧ t.fld pw 17 3 = 1 ∧ t.powerState = s.powerState ∧ t.mem = s.mem) ∧
        (s.dozeOk = true → 1 ≤ n → n ≤ 4 → ∃ t, exec (.pwReqDoze v n) s = .next t ∧ t.bit pw 16 = true ∧ t.fld pw 17 3 = 4 ∧ t.fld pw 20 3 = n ∧
          t.powerState = s.powerState ∧ t.mem = s.mem) ∧
        (s.dozeOk = true → n = 0 ∨ 4 < n → ∃ t, exec (.pwReqDoze v n) s = .next t ∧ t.powerState = 2 ∧ t.mem = s.mem ∧
          ∀ p, p < 4 → t.rail p = if s.rail p = 0 then 0 else 420)) ∧
      (bitsOf v.toNat 0 3 = 3 →
        let active := (List.range 64).any (fun j => !s.slotIs j .free && !s.slotIs j .stopped && !s.slotIs j .done)
        (bitOf v.toNat 7 = false → active = true → ∃ t, exec (.pwReqStandby v) s = .next t ∧ t.bit pw 16 = true ∧ t.fld pw 17 3 = 1 ∧
          t.powerState = s.powerState ∧ t.power.standby = 0 ∧ t.mem = s.mem) ∧
        (bitOf v.toNat 7 = true ∨ active = false → ∃ t, exec (.pwReqStandby v) s = .next t ∧ t.power.standby = 5 ∧ t.bit pw 15 = true ∧
          t.sec.idKey = none ∧ t.sec.mgmtNonce = none))) ∧
    (∀ (s : State) (p : Nat),
      let may := p < 4 ∧ s.powerState < 2 ∧ s.fld pw 0 3 = 1 ∧ s.bit pw (3 + p) = true ∧ s.bit pw (11 + p) = false ∧ s.rail p ≠ 0
      (¬ may → exec (.panelParked p) s = .next s) ∧ (may → s.panelBusy p = true → exec (.panelParked p) s = .next (s.refusePower 2)) ∧
      (may → s.panelBusy p = false → ∃ t, exec (.panelParked p) s = .next t ∧ t.rail p = 420 ∧ t.panelRate p = 0 ∧ t.bit pw (11 + p) = true) ∧
      (let back := p < 4 ∧ s.powerState < 2 ∧ s.bit pw (11 + p) = true ∧ ¬ (s.fld pw 0 3 = 1 ∧ s.bit pw (3 + p) = true);
        (¬ back → exec (.panelUnparked p) s = .next s) ∧
        (back → ∃ t, exec (.panelUnparked p) s = .next t ∧ t.bit pw (11 + p) = false ∧ t.rail p = s.power.railAt.get 0 p % 1024))) ∧
    (∀ (s : State) (c : Nat),
      (s.powerState ≠ 2 ∨ c = 0 ∨ 4 < c → exec (.dozeWake c) s = .next s) ∧
      (s.powerState = 2 → 1 ≤ c → c ≤ 4 → ∃ t, exec (.dozeWake c) s = .next t ∧ t.powerState = 0 ∧ t.fld pw 20 3 = c ∧ t.fld pw 0 3 = 0 ∧ t.fld pw 11 4 = 0)) ∧
    (∀ s : State,
      let wake := s.power.wokeEarly || (s.power.perstSeen && !s.power.perst)
      (s.power.standby ≠ 7 ∨ wake = false → exec .standbyExit s = .next s) ∧
      (s.power.standby = 7 → wake = true → ∃ t, exec .standbyExit s = .next t ∧ t.fld pw 20 3 = (if s.power.wokeEarly then 5 else 6) ∧
        t.power.standby = 0 ∧ t.power.s1 = false ∧ t.power.strapped = false ∧ t.mem = [] ∧ t.otp = s.otp) ∧
      (s.power.standby ≠ 5 → exec .pmeTurnOff s = .next s ∧ exec .pmeTurnOffTimeout s = .next s) ∧
      (s.power.standby = 5 → wake = false → ∃ t, exec .pmeTurnOffTimeout s = .next t ∧ exec .pmeTurnOff s = .next { t with out := s.out ++ [.pmeAck] } ∧
        t.powerState = 3 ∧ t.power.standby = 7 ∧ t.power.rails = false ∧ t.power.s1 = false ∧ t.mem = [] ∧ t.tasks = [] ∧ t.out = s.out ∧ t.otp = s.otp ∧
        ∀ k, k < 8 → t.rd (Reg.SC_PWR_HIST k) = s.rd (Reg.SC_PWR_HIST k)))) ∧
    (∀ s : State,
      (∀ mv k e l1 l2 l3 ma mj late, s.power.s1 = false → exec .hardwareClamp s = .next s ∧ exec (.vinRange mv) s = .next s ∧ exec (.tempWarn e) s = .next s ∧
        exec (.thermThrottle e) s = .next s ∧ exec (.canaryWindow k) s = .next s ∧ exec (.voltageControllerRun l1 l2) s = .next s ∧
        exec (.shadowRefresh l3 l3 mv ma mj late) s = .next s) ∧
      (s.power.s1 = true → s.fw.shift ≠ 2 →
        (∃ t, exec .hardwareClamp s = .next t ∧ t.bit Reg.PW_STATUS 4 = true ∧ t.bit Reg.PW_ALERT 2 = true ∧ t.power.clampAt = some s.usecN.toNat ∧ t.mem = s.mem ∧
          ∀ p, p < 4 → t.rail p = if s.regulated p then max 500 (s.rail p - 20) else s.rail p) ∧
        (∀ mv, ∃ t, exec (.vinRange mv) s = .next t ∧ t.fld Reg.PW_INPUT 0 16 = min mv 65535 ∧ t.power.vinBad = decide (mv < 38000 ∨ 45000 < mv) ∧ t.mem = s.mem ∧
          (mv < 38000 ∨ 45000 < mv → t.bit Reg.PW_ALERT 1 = true) ∧
          (38000 ≤ mv → mv ≤ 45000 → s.power.vinBad = true → t.fw.emergencyAt = some s.usecN.toNat)) ∧
        (∀ c : Int, ∃ t, exec (.tempWarn c) s = .next t ∧ t.fld Reg.PW_THERM 0 8 = tempByte c ∧ t.mem = s.mem ∧
          t.bit Reg.PW_ALERT 0 = (s.bit Reg.PW_ALERT 0 || decide ((s.fld Reg.PW_THERM 8 8 : Int) ≤ c)) ∧
          (s.bit Reg.PW_THERM 16 = false → s.bit Reg.PW_FAN 14 = false → t.fld Reg.PW_FAN 0 7 = fanDuty c (s.fld Reg.PW_THERM 8 8) % 128)) ∧
        (∀ c : Int, 100 ≤ c ∨ s.bit Reg.PW_THERM 16 = true → ∃ t, exec (.thermThrottle c) s = .next t ∧ t.bit Reg.PW_THERM 16 = true ∧
          t.fld Reg.PW_THERM 0 8 = tempByte c ∧ t.fld Reg.PW_FAN 0 7 = 100 ∧ t.mem = s.mem ∧
          (s.bit Reg.PW_THERM 16 = false → t.bit Reg.PW_ALERT 3 = true ∧ ∃ e, t.evq = s.evq ++ [e] ∧ e.code = .THERM_THROTTLE) ∧
          ∀ p, p < 4 → t.rail p = if s.regulated p && decide (500 < s.rail p) then max 500 (s.rail p - 20) else s.rail p) ∧
        (∀ c : Int, c < 100 → s.bit Reg.PW_THERM 16 = false → exec (.thermThrottle c) s = .next s)) ∧
      (∀ c : Int, (s.bit Reg.PW_THERM 16 = false ∨ 97 ≤ c → exec (.throttleRelease c) s = .next s) ∧
        (s.bit Reg.PW_THERM 16 = true → c < 97 → ∃ t, exec (.throttleRelease c) s = .next t ∧ t.bit Reg.PW_THERM 16 = false ∧
          t.fld Reg.PW_THERM 0 8 = tempByte c ∧ t.fw.emergencyAt = some s.usecN.toNat ∧ t.mem = s.mem)) ∧
      (∀ (avg : Nat) (mv : List Nat), (s.powerUp = false ∨ 2 ≤ s.powerState → exec (.voltageControllerRun avg mv) s = .next s) ∧
        (s.powerUp = true → s.powerState < 2 → ∃ t, exec (.voltageControllerRun avg mv) s = .next t ∧ t.fld Reg.PW_POWER 0 16 = min avg 65535 ∧ t.mem = s.mem ∧
          ∀ p, p < 4 → (s.regulated p = false → t.rail p = s.rail p) ∧
            (s.regulated p = true → let w := s.railRange p (min avg 65535)
              t.rail p = max w.1 (min w.2 (mv.getD p (s.rail p) / 5 * 5)) ∧
              (500 ≤ s.rail p → s.rail p ≤ s.railMax → 500 ≤ t.rail p ∧ t.rail p ≤ s.railMax ∧ t.rail p ≤ s.rail p + 10 ∧ s.rail p ≤ t.rail p + 10)))) ∧
      (s.power.s1 = true →
        (∀ counts, s.slices = [] → ∃ t, exec (.canaryWindow counts) s = .next t ∧ t.mem = s.mem ∧ ∀ p, p < 4 → s.regulated p = true →
          t.panelRate p = t.rateOf p ∧ ∀ i, i < 40 → t.fld (Reg.CN_GROUND_RATE (p * 40 + i)) 0 16 = min 65535 (counts.getD (p * 40 + i) 0 * 16 / 10)) ∧
        (∀ (g h : List Int) (mv ma mj : Nat) (late : Bool), g.length = 160 → h.length = 8 → ∃ t, exec (.shadowRefresh g h mv ma mj late) s = .next t ∧ t.mem = s.mem ∧
          (∀ i, i < 160 → t.fld (Reg.CN_GROUND_RATE i) 16 8 = tempByte (g.getD i 0)) ∧ t.fld Reg.PW_INPUT 0 16 = min mv 65535 ∧
          t.fld Reg.PW_INPUT 16 16 = min ma 65535 ∧ t.rd Reg.CN_ENERGY_LO = BitVec.ofNat 32 mj ∧ t.rd Reg.CN_ENERGY_HI = BitVec.ofNat 32 (mj / 2 ^ 32) ∧
          t.fld Reg.PW_THERM 0 8 = tempByte ((g ++ h).foldl max (g.getD 0 0)) ∧
          t.fld Reg.HF_BG_SHADOW 0 16 = min 65535 (s.fld Reg.HF_BG_SHADOW 0 16 + if late then 1 else 0))))

/-- With the port off, its commands change nothing. A received frame with a bad FCS is counted so; one for another address is counted as filtered; one without room in the 64 KiB buffer is counted as dropped; any other enters the buffer and is counted. A collision of a frame being sent counts and drops it when late or after 16 attempts, and otherwise makes it wait a number of slot times below 2 to the power of its attempts; MM_BACKOFF_EXPIRE ends that wait. A frame sent leaves the queue, counted by the collisions that it had. Loss of beacons ends PLCA, its return starts it again. WAKE_FRAME outside STANDBY is an ordinary frame; in it, one that the detector accepts is counted and wakes the module, and any other is counted as ignored. A request takes the oldest frame out of the receive buffer. While firmware is not up nothing else happens; a request whose REQ_ID stands among the last 16 answered is answered with the same bytes and has no other effect. Otherwise the response goes to the sender and is kept: the header with VERSION 1, OP + 128, STATUS and REQ_ID, then at most 1,452 payload bytes. IDENT answers the slot, the identity and the versions; STATUS the bring-up and firmware state; NONCE a new nonce, which is kept; STAGE and ACTIVATE that are not enabled or not signed over the last nonce answer a status that is not 0 and stage or activate nothing; ACTIVATE that is signed sets ACTIVATE_ON_BOOT and begins a shift change; SAMPLE_LIST answers the headers; SAMPLE_READ 1,024 bytes of a sample, which counts as read. -/
def Obligations.ManagementCommands : Prop :=
    (∀ s : State,
      exec .mmBackoffExpire s = .next { s with mm := { s.mm with backoff := none } } ∧
      (s.mmUp = false → ∀ d e p ok l, exec (.mmFrameReceive d e p ok) s = .next s ∧ exec (.mmCollision l) s = .next s ∧ exec (.mmFrameTxDone l) s = .next s ∧
        exec .plcaBeaconLoss s = .next s ∧ exec .plcaBeaconResume s = .next s) ∧
      (s.mmUp = true →
        (∀ d e p, exec (.mmFrameReceive d e p false) s = .next (s.mmCount 7) ∧
          (let v := if isWake e p then s.count Reg.MM_WAKE_IGNORED 0 16 1 else s;
            let ours := d = mmAddress ∨ d = mmBroadcast ∨ ∃ k, k < 4 ∧ s.bit (Reg.MM_MCAST_HI k) 16 = true ∧ d = 2 ^ 32 * s.fld (Reg.MM_MCAST_HI k) 0 16 + (s.rd (Reg.MM_MCAST_LO k)).toNat;
            (¬ ours → exec (.mmFrameReceive d e p true) s = .next (v.mmCount 8)) ∧
            (ours → 65536 < s.mm.rx.sum + max 64 (p.length + 18) → exec (.mmFrameReceive d e p true) s = .next ((v.mmCount 9).setBit Reg.MM_STATUS 4 true)) ∧
            (ours → s.mm.rx.sum + max 64 (p.length + 18) ≤ 65536 → ∃ t, exec (.mmFrameReceive d e p true) s = .next t ∧
              t.mm.rx = s.mm.rx ++ [max 64 (p.length + 18)] ∧ t.rd (Reg.MM_STAT 1) = (v.mmCount 1).rd (Reg.MM_STAT 1) ∧ t.mem = s.mem))) ∧
        (∀ late, s.mm.tx = [] ∨ s.mm.backoff ≠ none → exec (.mmCollision late) s = .next s) ∧
        (s.mm.tx ≠ [] → s.mm.backoff = none →
          (∃ t, exec (.mmCollision true) s = .next t ∧ t.mm.tx = s.mm.tx.tail ∧ t.mm.attempts = 0 ∧ t.bit Reg.MM_STATUS 1 = true ∧ t.mem = s.mem) ∧
          (15 ≤ s.mm.attempts → ∃ t, exec (.mmCollision false) s = .next t ∧ t.mm.tx = s.mm.tx.tail ∧ t.mm.attempts = 0 ∧ t.bit Reg.MM_STATUS 0 = true ∧ t.mem = s.mem) ∧
          (s.mm.attempts < 15 → ∃ t n, exec (.mmCollision false) s = .next t ∧ t.mm.tx = s.mm.tx ∧ t.mm.attempts = s.mm.attempts + 1 ∧ t.mm.backoff = some n ∧
            n < 2 ^ min (s.mm.attempts + 1) 10 ∧ t.mem = s.mem)) ∧
        (∀ l, s.mm.tx = [] ∨ s.mm.backoff ≠ none → exec (.mmFrameTxDone l) s = .next s) ∧
        (∀ l f rest, s.mm.tx = f :: rest → s.mm.backoff = none → ∃ t, exec (.mmFrameTxDone l) s = .next t ∧ t.mm.tx = rest ∧ t.mm.attempts = 0 ∧
          t.out = s.out ++ [.mgmt f] ∧ t.mem = s.mem ∧ ∀ i, i < 10 → t.fld (Reg.MM_STAT i) 0 32 =
            min (2 ^ 32 - 1) (s.fld (Reg.MM_STAT i) 0 32 + if i = 0 ∨ i = 2 ∧ s.mm.attempts = 1 ∨ i = 3 ∧ 2 ≤ s.mm.attempts ∨ i = 6 ∧ l = true then 1 else 0)) ∧
        (s.bit Reg.MM_CTL 1 = false → exec .plcaBeaconLoss s = .next s ∧ exec .plcaBeaconResume s = .next s) ∧
        (s.bit Reg.MM_CTL 1 = true → exec .plcaBeaconResume s = .next (s.setBit Reg.MM_STATE 0 true) ∧ ∃ t, exec .plcaBeaconLoss s = .next t ∧
          t.bit Reg.MM_STATE 0 = false ∧ t.bit Reg.MM_STATUS 2 = true ∧ t.mem = s.mem)) ∧
      (∀ d e p ok, (s.power.standby = 0 → exec (.wakeFrame d e p ok) s = exec (.mmFrameReceive d e p ok) s) ∧
        (s.power.standby ≠ 0 →
          let target := (p.getD 3 0#8).toNat
          let slot := s.fld Reg.HF_STRAP 0 6
          let hears := ok = true ∧ isWake e p = true ∧ s.bit Reg.MM_WAKE_CTL 0 = true ∧ ofBytesBE ((p.drop 12).take 4) = (s.rd Reg.MM_WAKE_CODE).toNat ∧
            (target = 0 ∧ d = mmAddress ∨ target = 1 ∧ (d = mmAddress ∨ d = mmBroadcast) ∧ bitOf (p.getD (4 + slot / 8) 0#8).toNat (slot % 8) = true)
          (hears → exec (.wakeFrame d e p ok) s = .next (State.count { s with power := { s.power with wokeEarly := true } } Reg.MM_WAKE_COUNT 0 16 1)) ∧
          (¬ hears → exec (.wakeFrame d e p ok) s = .next (s.count Reg.MM_WAKE_COUNT 16 16 1))))) ∧
    (∀ (s : State) (src : Nat) (m sig : List Byte) (image : Option (List Byte)),
      let v : State := { s with mm := { s.mm with rx := s.mm.rx.tail } }
      let id := imgNum m 4 4
      let all := fun (P : Instr → Nat → Prop) => P (.ident src m) 1 ∧ P (.status src m) 2 ∧ P (.nonce src m) 3 ∧ P (.mgmtStage src m sig image) 4 ∧
        P (.mgmtActivate src m sig) 5 ∧ P (.sampleList src m) 6 ∧ P (.sampleRead src m) 7
      let reply := fun (s : State) (op status : Nat) (p : List Byte) => s.answer ⟨src, m, []⟩ (response ⟨src, m, []⟩ op status p)
      (v.powerUp = false → all (fun c _ => exec c s = .next v)) ∧
      (v.powerUp = true →
        (∀ e, s.sec.cache.find? (fun e => e.1 = id) = some e → all (fun c _ => exec c s = .next { v with mm := { v.mm with tx := v.mm.tx ++ [⟨src, e.2⟩] } })) ∧
        (s.sec.cache.find? (fun e => e.1 = id) = none →
          (∀ c op, (c, op) ∈ [(Instr.ident src m, 1), (.status src m, 2), (.nonce src m, 3), (.mgmtStage src m sig image, 4), (.sampleList src m, 6), (.sampleRead src m, 7)] → ∃ t st p, exec c s = .next t ∧ t.mm.tx = s.mm.tx ++ [⟨src, p⟩] ∧ t.sec.cache.getLast? = some (id, p) ∧ t.sec.cache.length ≤ 16 ∧
            p.take 4 = [1#8, BitVec.ofNat 8 (op + 128)] ++ toBytes 2 st ∧ p.length ≤ 16 + 1452) ∧
          exec (.ident src m) s = .next (reply v 1 0 (BitVec.ofNat 8 (s.fld Reg.HF_STRAP 0 6) :: s.identity ++ toBytes 4 (s.rd Reg.HF_FW_RUN).toNat ++ toBytes 4 (s.rd Reg.HF_FW_STAGED).toNat)) ∧
          exec (.status src m) s = .next (reply v 2 0 (toBytes 4 (s.rd Reg.PC_BOOT).toNat ++ toBytes 4 (s.rd Reg.HF_FW_STATE).toNat)) ∧
          (∃ t n, exec (.nonce src m) s = .next t ∧ n.length = 16 ∧ t.sec.mgmtNonce = some n ∧ t.mm.tx = s.mm.tx ++ [⟨src, response ⟨src, m, []⟩ 3 0 n⟩] ∧ t.mem = s.mem) ∧
          (s.bit Reg.HF_FW_CTL 4 = false ∨ s.sec.mgmtNonce = none → v.mgmtSigned ⟨src, m, sig⟩ = false) ∧
          (v.mgmtSigned ⟨src, m, sig⟩ = false →
            (∃ t st, st ≠ 0 ∧ exec (.mgmtStage src m sig image) s = .next t ∧ t.mm.tx = s.mm.tx ++ [⟨src, response ⟨src, m, []⟩ 4 st []⟩] ∧ t.flash = s.flash ∧ t.fw = s.fw) ∧
            (∃ t st, st ≠ 0 ∧ exec (.mgmtActivate src m sig) s = .next t ∧ t.mm.tx = s.mm.tx ++ [⟨src, response ⟨src, m, []⟩ 5 st []⟩] ∧ t.flash = s.flash ∧ t.fw = s.fw)) ∧
          (v.mgmtSigned ⟨src, m, sig⟩ = true →
            (s.fw.shift ≠ 0 → ∃ t st, st ≠ 0 ∧ exec (.mgmtStage src m sig image) s = .next t ∧ t.bit Reg.HF_FW_STATUS 4 = true ∧ t.mm.tx = s.mm.tx ++ [⟨src, response ⟨src, m, []⟩ 4 st []⟩]) ∧
            (s.fw.shift = 0 → (v.stageImage (image.getD [])).bit Reg.HF_FW_STATE 1 = true →
              exec (.mgmtStage src m sig image) s = .next (reply (v.stageImage (image.getD [])) 4 0 [])) ∧
            (let b := bitOf ((m.drop 16).getD 0 0#8).toNat 0;
              exec (.mgmtActivate src m sig) s = .next (reply (State.activate (State.setBit { v with flash := { v.flash with activateOnBoot := b } } Reg.HF_FW_CTL 2 b)) 5 0 []))) ∧
          exec (.sampleList src m) s = .next (reply v 6 0 ([0, 1].flatMap (fun src => (List.range 64).flatMap (fun e => (v.sampleAt e src).take 64)))) ∧
          (let e := ((m.drop 16).getD 0 0#8).toNat % 64;
            let from_ := ((m.drop 16).getD 1 0#8).toNat % 2;
            exec (.sampleRead src m) s = .next (reply (v.sampleRead e from_) 7 0 (((v.sampleAt e from_).drop (imgNum (m.drop 16) 2 4)).take 1024))))))

/-- While firmware is not up these commands change nothing. A message enters its component's queue as 64 bytes and is answered with success; a full queue of 256 takes none and answers that it is full; the component then takes its oldest ones. A fault or protection fault of a component other than the supervisor, whose body passes its re-hash and which has had fewer than three in the last 60 s, samples and restarts it alone; a body that fails, or a fourth fault, is COMPONENT_FAILED and a warm restart of all; the supervisor's fault is a warm restart, and a second one within 10 minutes stops every job slot. WATCHDOG is such a restart with its own event. SAMPLE queues a core sample for log flash. GOOD_IMAGE_COPY 600 s after S5 with no failure makes the running image GOOD, and of a staged one clears ACTIVATE_ON_BOOT. While firmware is not up STAGE changes nothing, and during a shift change it only sets REFUSED. Otherwise the SRC_LEN bytes at SRC go into the inactive bank and are verified: a failure shows its code with FW_STAGE_FAIL, and an image that passes and whose formats fit stands in the STAGED slot with STAGED_VALID. ACTIVATE of a valid staged image with no shift change under way begins one, or is deferred by an emergency; elsewhere it changes nothing. SHIFT_HOLD_EXPIRE begins a deferred change once no emergency has been in force for HOLD_S. SHIFT_PAUSE_BEGIN begins the pause once no slot drains or sweeps. SHIFT_READY within 1.2 ms of the pause puts the other image into force, with SHIFT_CHANGE; SHIFT_ROLLBACK leaves the old one, with its event. -/
def Obligations.FirmwareCommands : Prop :=
    (∀ (s : State) (c cause taken : Nat) (msg core data records : List Byte) (ok : Bool),
      let now := s.usecN.toNat
      (8 ≤ c ∨ s.powerUp = false → exec (.componentMessage c msg taken) s = .next s ∧ exec (.componentRestart c cause ok core data records) s = .next s ∧
        exec (.watchdog c ok core data records) s = .next s ∧ exec (.sample c core data records) s = .next s) ∧
      (c < 8 → s.powerUp = true →
        (let q := s.fw.queues.get [] c;
          let sent := fun (n : Nat) (l : List (List Byte)) => State.emit { s with fw := { s.fw with queues := s.fw.queues.put [] c (l.drop taken) } } (.fwMsg c n)
          (256 ≤ q.length → exec (.componentMessage c msg taken) s = .next (sent 1 q)) ∧
          (q.length < 256 → exec (.componentMessage c msg taken) s = .next (sent 0 (q ++ [(msg ++ List.replicate 64 0#8).take 64])))) ∧
        (2 ≤ cause → exec (.componentRestart c cause ok core data records) s = .next s) ∧
        (let recent := (s.fw.faults.get [] c).filter (fun t => decide (now < 60000000 + t));
          cause < 2 → c ≠ 0 →
          (ok = true → recent.length < 3 → ∃ t, exec (.componentRestart c cause ok core data records) s = .next t ∧ t.fw.faults.get [] c = recent ++ [now] ∧
            t.fw.stopped = s.fw.stopped.filter (· ≠ c) ∧ t.bit Reg.HF_FW_STATUS 3 = true ∧ t.fw.failed = s.fw.failed ∧ t.fw.warm = s.fw.warm ∧
            t.fld Reg.HF_FW_COUNT 0 16 = min 65535 (s.fld Reg.HF_FW_COUNT 0 16 + 1) ∧ t.flash.sampleNo = s.flash.sampleNo + 1) ∧
          (ok = false ∨ 3 ≤ recent.length → (∀ w, s.fw.warm = some w → 600000000 + w ≤ now) → ∃ t, exec (.componentRestart c cause ok core data records) s = .next t ∧
            t.fw.failed = true ∧ t.fw.warm = some now ∧ t.fw.stopped = [] ∧ t.fw.crippled = s.fw.crippled)) ∧
        (cause < 2 → c = 0 →
          let v := (s.takeSample 0 cause core data records).takeSample 0 3 core data records
          let w : State := { v with fw := { v.fw with warm := some now, stopped := [] } }
          ((∀ t, s.fw.warm = some t → 600000000 + t ≤ now) → exec (.componentRestart c cause ok core data records) s = .next w) ∧
          (∀ t, s.fw.warm = some t → now < 600000000 + t → exec (.componentRestart c cause ok core data records) s =
            .next (State.stopAll { w with fw := { w.fw with crippled := true } } false))) ∧
        exec (.watchdog c ok core data records) s = .next ((s.raise .WATCHDOG .corrected (srcComponent c) [c]).restart c 2 ok core data records) ∧
        (∃ t, exec (.sample c core data records) s = .next t ∧ t.bit Reg.HF_FW_CTL 3 = false ∧ t.flash.sampleNo = s.flash.sampleNo + 1 ∧
          t.flash.jobs = s.flash.jobs ++ [.sample (s.flash.sampleNo % 64) ((s.setBit Reg.HF_FW_CTL 3 false).sampleBytes c 4 core data records)] ∧
          ∃ e ∈ t.evq, e.code = .CORE_SAMPLE)) ∧
      (s.fw.s5At = none → exec .goodImageCopy s = .next s) ∧
      (∀ at_, s.fw.s5At = some at_ →
        let due := 600000000 + at_ ≤ now ∧ s.fw.failed = false ∧ s.fw.crippled = false ∧ s.powerUp = true
        (¬ due → exec .goodImageCopy s = .next s) ∧
        (due → ∃ t, exec .goodImageCopy s = .next t ∧ t.flash.good = some s.runImage ∧ t.mem = s.mem ∧
          (s.fw.fromStaged = true → t.flash.activateOnBoot = false ∧ t.flash.tries = 0 ∧ t.bit Reg.HF_FW_CTL 2 = false) ∧
          (s.fw.fromStaged = false → t.regs = s.regs ∧ t.flash.activateOnBoot = s.flash.activateOnBoot)))) ∧
    (∀ (s : State),
      (∀ image, s.powerUp = false → exec (.stage image) s = .next s) ∧
      (∀ image, s.powerUp = true → s.fw.shift ≠ 0 → exec (.stage image) s = .next ((s.setBit Reg.HF_FW_CTL 0 false).setBit Reg.HF_FW_STATUS 4 true)) ∧
      (∀ image : Option (List Byte), s.powerUp = true → s.fw.shift = 0 →
        let n := s.fld Reg.HF_FW_SRC_LEN 0 22
        let l := ((if s.busMaster.get false 0 then image.getD [] else []) ++ List.replicate n 0#8).take n
        let v := ((s.setBit Reg.HF_FW_CTL 0 false).emit (.hostRead 0 (s.rd2 Reg.HF_FW_SRC_LO Reg.HF_FW_SRC_HI) n false false)).setOther l
        (v.verifyImage l ≠ 0 → exec (.stage image) s = .next (v.stageFail (v.verifyImage l))) ∧
        (v.verifyImage l = 0 → formatsFit v.runImage l = true → ∃ t, exec (.stage image) s = .next t ∧ t.flash.staged = some l ∧ t.flash.tries = 0 ∧
          t.bit Reg.HF_FW_STATE 1 = true ∧ t.rd Reg.HF_FW_STAGED = BitVec.ofNat 32 (imgVersion l) ∧ t.mem = s.mem) ∧
        (v.verifyImage l = 0 → formatsFit v.runImage l = false → ∃ t, exec (.stage image) s = .next t ∧ t.flash.staged = some l ∧
          t.bit Reg.HF_FW_STATE 1 = false ∧ t.fld Reg.HF_FW_STATE 7 4 = 8 ∧ t.mem = s.mem)) ∧
      (∀ code, code < 16 → ∃ e, (s.stageFail code).evq = s.evq ++ [e] ∧ e.code = .FW_STAGE_FAIL ∧ (s.stageFail code).fld Reg.HF_FW_STATE 7 4 = code ∧
        (s.stageFail code).bit Reg.HF_FW_STATUS 0 = true) ∧
      (let may := s.powerUp = true ∧ s.fw.crippled = false ∧ s.bit Reg.HF_FW_STATE 1 = true ∧ s.fw.shift = 0;
        (¬ may → exec .activate s = .next s) ∧
        (may → s.emergencyClear (1000000 * s.fld Reg.HF_FW_CTL 8 8) = true → ∃ t, exec .activate s = .next t ∧ t.fw.shift = 2 ∧ t.bit Reg.HF_FW_STATE 2 = true ∧
          t.mem = s.mem) ∧
        (may → s.emergencyClear (1000000 * s.fld Reg.HF_FW_CTL 8 8) = false → exec .activate s = .next (State.deferShift (s.setBit Reg.HF_FW_STATE 2 true)))) ∧
      (let due := s.fw.shift = 1 ∧ s.emergencyClear (1000000 * s.fld Reg.HF_FW_CTL 8 8) = true;
        (¬ due → exec .shiftHoldExpire s = .next s) ∧
        (due → ∃ t, exec .shiftHoldExpire s = .next t ∧ t.fw.shift = 2 ∧ t.bit Reg.HF_FW_STATE 3 = false ∧ t.mem = s.mem)) ∧
      (let busy := (List.range 64).any (fun j => (s.job j).drainOrder ≠ 0 || s.slotIs j .sweep || s.slotIs j .draining);
        (s.fw.shift ≠ 2 ∨ busy = true → exec .shiftPauseBegin s = .next s) ∧
        (s.fw.shift = 2 → busy = false → ∃ t, exec .shiftPauseBegin s = .next t ∧ t.fw.shift = 3 ∧ t.fw.pausedAt = s.usecN.toNat ∧
          t.bit Reg.HF_FW_STATE 4 = true ∧ t.mem = s.mem)) ∧
      (s.fw.shift ≠ 3 ∨ s.fw.pausedAt + 1200 < s.usecN.toNat → exec .shiftReady s = .next s) ∧
      (s.fw.shift = 3 → s.usecN.toNat ≤ s.fw.pausedAt + 1200 → ∃ t, exec .shiftReady s = .next t ∧
        ((∀ j, j < 64 → (s.job j).shiftHeld = false) → s.fw.haltDue = false → s.capsules = [] → t.fw.shift = 0 ∧ t.fw.fromStaged = true ∧ t.mem = s.mem ∧
          t.bit Reg.HF_FW_STATE 0 = (!s.bit Reg.HF_FW_STATE 0) ∧ t.fld Reg.HF_FW_STATE 1 4 = 0 ∧ t.bit Reg.HF_FW_STATUS 1 = true ∧
          t.rd Reg.HF_FW_RUN = BitVec.ofNat 32 (imgVersion (s.otherImage.getD [])) ∧ ∃ e, t.evq = s.evq ++ [e] ∧ e.code = .SHIFT_CHANGE)) ∧
      (∀ c, (s.fw.shift ≠ 3 → exec (.shiftRollback c) s = .next s) ∧
        (s.fw.shift = 3 → exec (.shiftRollback c) s =
          .next (((s.setBit Reg.HF_FW_STATUS 2 true).pauseEnd).raise .SHIFT_ROLLBACK .corrected (srcComponent 0) [c]))))

/-- POWER_FAIL, OVERVOLTAGE_SHUTDOWN, BREAKER_TRIP and POWER_REMOVED take an unpowered module nowhere; from any other state nothing but OTP and log flash is left, with the cause in the boot record where it ran. THERM_TRIP of a running module leaves the always-on domain. POWER_ON brings the mains back, and STRAP_SAMPLE latches the straps once, with profile L only where strap and code agree, and the target, the cap and the node that follow. HEADFRAME_RAILS_UP, PERST_RELEASE and COLD_START_WAIT_END begin S1 once the rails are up, PERST_N is released and no sensor is below −5 °C: both counters at zero, STAGE 1. PERST_ASSERT of a running module loses jobs, banks and EXT with the straps kept. TRIP_COOLDOWN_END goes on from S0. Each changes nothing where its occasion does not hold. S2_ENTRY at S1 with no load under way tries the sources that BOOT_SRC names: the network first broadcasts a DHCP request; the GOOD image, where log flash alone is asked for, starts when it verifies, and with none the module stays at S1. DHCP_RETRY asks again four times, then the next source is tried. A TFTP block that is expected and within the limits is acknowledged and added to the image, and a short one ends it: an image that verifies starts, and another leaves its code and the next source. TFTP_BLOCK_TIMEOUT asks for the block again five times. An image that starts brings S2. PANEL_REPAIR takes panels 0 to 3 in turn; S3 begins with panel 0 and S4 after panel 3. PASS_CALIBRATION after the last package begins S5 where a panel is in service, and is module-fatal where none is. Elsewhere these commands change nothing. -/
def Obligations.ResetsAndBringUp : Prop :=
    (let blank := fun (t : State) => t.mem = [] ∧ t.tasks = [] ∧ t.evq = [] ∧ t.power.s1 = false
    let s1 := fun (t : State) => t.power.s1 = true ∧ t.usecN = 0#64 ∧ t.usecS = 0#64 ∧ t.fld Reg.PC_BOOT 0 3 = 1 ∧ t.sec.idKey = some t.otp.priv
    (∀ (s : State) (c : Instr) (cause : Nat), (c, cause) ∈ [(Instr.powerFail, 1), (.overvoltageShutdown, 2), (.breakerTrip, 3), (.powerRemoved, 1)] →
      (s.power.mains = false → exec c s = .next s) ∧
      (s.power.mains = true → ∃ t, exec c s = .next t ∧ blank t ∧ t.power.mains = false ∧ t.power.rails = false ∧ t.otp = s.otp ∧ t.pending = s.pending ∧
        t.flash.lastOff = if s.power.standby ≠ 7 ∧ s.power.tripped = false then cause else s.flash.lastOff)) ∧
    (∀ s : State,
      let runs := s.power.mains = true ∧ s.power.standby ≠ 7 ∧ s.power.tripped = false
      (¬ runs → exec .thermTrip s = .next s) ∧
      (runs → ∃ t, exec .thermTrip s = .next t ∧ blank t ∧ t.power.tripped = true ∧ t.power.mains = true ∧ t.power.rails = false ∧ t.flash.lastOff = 4 ∧ t.otp = s.otp ∧
        ∀ k, k < 8 → t.rd (Reg.SC_PWR_HIST k) = s.rd (Reg.SC_PWR_HIST k)) ∧
      (∀ hot, (s.power.mains = true → exec (.powerOn hot) s = .next s) ∧
        (s.power.mains = false → ∃ t, exec (.powerOn hot) s = .next t ∧ t.power.mains = true ∧ t.power.cooling = (hot && decide (s.flash.lastOff = 4)) ∧ t.mem = s.mem ∧
          (s.flash.lastOff = 6 → t.fld Reg.PW_STATE 20 3 = 6) ∧ (s.flash.lastOff ≠ 6 → t.regs = s.regs))) ∧
      (∀ slot src pr,
        let may := s.power.mains = true ∧ s.power.strapped = false ∧ s.power.tripped = false ∧ s.power.cooling = false ∧ s.power.standby = 0
        let code := s.otp.profileCode % 2
        (¬ may → exec (.strapSample slot src pr) s = .next s) ∧
        (may → ∃ t, exec (.strapSample slot src pr) s = .next t ∧ t.power.strapped = true ∧ t.mem = s.mem ∧ t.fld Reg.HF_STRAP 0 6 = slot % 64 ∧
          t.fld Reg.HF_STRAP 6 2 = src % 4 ∧ t.fld Reg.HF_STRAP 8 1 = pr % 2 ∧ t.fld Reg.HF_STRAP 9 1 = code ∧ t.fld Reg.HF_STRAP 10 1 = pr % 2 * code ∧
          t.bit Reg.HF_STRAP 11 = decide (pr % 2 ≠ code) ∧ t.fld Reg.PW_TARGET 0 16 = (if pr % 2 = 1 ∧ code = 1 then 1000 else 700) ∧
          t.fld Reg.PW_POWER 16 16 = (if s.otp.profileCode = 1 then 950 else 520) ∧ t.fld Reg.MM_PLCA 0 8 = slot % 64 + 1)) ∧
      (∀ cold, (s.power.strapped = false ∨ s.power.rails = true → exec (.headframeRailsUp cold) s = .next s) ∧
        (s.power.strapped = true → s.power.rails = false → ∃ t, exec (.headframeRailsUp cold) s = .next t ∧ t.power.rails = true ∧
          (s.power.perst = true → t.power.s1 = s.power.s1 ∧ t.regs = s.regs) ∧
          (s.power.perst = false → s.power.s1 = false → (cold = true → t.power.cold = true ∧ t.power.s1 = false) ∧ (cold = false → s1 t)))) ∧
      (s.power.cold = false → exec .coldStartWaitEnd s = .next s) ∧
      (s.power.cold = true → s.power.rails = true → s.power.perst = false → s.power.s1 = false → ∃ t, exec .coldStartWaitEnd s = .next t ∧ s1 t ∧ t.power.cold = false) ∧
      (∀ cold hot, (s.power.perst = false → exec (.perstRelease cold hot) s = .next s) ∧
        (s.power.perst = true → ∃ t, exec (.perstRelease cold hot) s = .next t ∧
          (s.power.standby = 0 → s.power.tripped = false → s.power.rails = true → s.power.s1 = false → t.power.perst = false ∧
            (cold = true → t.power.cold = true ∧ t.power.s1 = false) ∧ (cold = false → s1 t)) ∧
          (s.power.standby = 0 → s.power.tripped = true → s.power.perstSeen = true → hot = true → t.power.cooling = true) ∧
          (s.power.standby = 0 → s.power.tripped = true → s.power.perstSeen = true → hot = false → t.power.tripped = false ∧ t.power.strapped = false ∧ t.mem = []))) ∧
      (s.power.standby ≠ 0 ∨ s.power.tripped = true → exec .perstAssert s = .next { s with power := { s.power with perst := true, perstSeen := true } }) ∧
      (s.power.standby = 0 → s.power.tripped = false → s.power.mains = false ∨ s.power.s1 = false → exec .perstAssert s =
        .next { s with power := { s.power with perst := true, cold := false } }) ∧
      (s.power.standby = 0 → s.power.tripped = false → s.power.mains = true → s.power.s1 = true → ∃ t, exec .perstAssert s = .next t ∧ blank t ∧
        t.power.perst = true ∧ t.power.rails = true ∧ t.power.strapped = true ∧ t.rd Reg.HF_STRAP = s.rd Reg.HF_STRAP ∧ t.flash.lastOff = 5 ∧ t.otp = s.otp) ∧
      (s.power.cooling = false → exec .tripCooldownEnd s = .next s) ∧
      (s.power.cooling = true → ∃ t, exec .tripCooldownEnd s = .next t ∧ t.power.cooling = false ∧
        (s.power.tripped = true → t.power.tripped = false ∧ t.power.strapped = false ∧ t.mem = []) ∧ (s.power.tripped = false → t.regs = s.regs ∧ t.mem = s.mem)))) ∧
    ((∀ s : State,
      let may := s.power.s1 = true ∧ s.fld Reg.PC_BOOT 0 3 = 1 ∧ s.fw.boot.loading = false
      (¬ may → exec .s2Entry s = .next s) ∧
      (may → exec .s2Entry s = .next (State.nextSource { s with fw := { s.fw with boot := { sources := [[0], [0, 1], [1, 0], [1]].getD (s.fld Reg.HF_STRAP 6 2) [1] } } } 3)) ∧
      (may → s.fld Reg.HF_STRAP 6 2 < 2 → ∃ t m, exec .s2Entry s = .next t ∧ t.fw.boot.loading = true ∧ t.fw.boot.sources = (if s.fld Reg.HF_STRAP 6 2 = 1 then [1] else []) ∧
        t.mm.tx = s.mm.tx ++ [m] ∧ t.mem = s.mem ∧ t.regs = s.regs) ∧
      (may → s.fld Reg.HF_STRAP 6 2 = 3 → s.flash.activateOnBoot = false →
        let v : State := { s with fw := { s.fw with boot := {} } }
        (s.flash.good = none → ∃ t, exec .s2Entry s = .next t ∧ t.fw.boot.held = true ∧ t.fw.boot.loading = false ∧ t.regs = s.regs ∧ t.mem = s.mem) ∧
        (∀ l, s.flash.good = some l → v.verifyImage l = 0 → exec .s2Entry s = .next (v.startImage l 1)))) ∧
    (∀ (s : State) (l : List Byte) (n : Nat), n < 3 → ∃ e, (s.startImage l n).fld Reg.PC_BOOT 0 3 = 2 ∧ (s.startImage l n).fw.bankA = some l ∧
      (s.startImage l n).fld Reg.HF_FW_STATE 5 2 = n ∧ (s.startImage l n).rd Reg.HF_FW_RUN = BitVec.ofNat 32 (imgVersion l) ∧
      (s.startImage l n).mem = s.mem ∧ e ∈ (s.startImage l n).evq ∧ e.code = .BRINGUP_STAGE) ∧
    (∀ (s : State) (server : Nat),
      let b := s.fw.boot
      (b.loading = false ∨ b.answered = true → exec .dhcpRetry s = .next s) ∧
      (b.loading = true → b.answered = false → (b.dhcp < 4 → ∃ t m, exec .dhcpRetry s = .next t ∧ t.fw.boot = { b with dhcp := b.dhcp + 1 } ∧ t.mm.tx = s.mm.tx ++ [m] ∧
          t.regs = s.regs ∧ t.mem = s.mem) ∧ (4 ≤ b.dhcp → exec .dhcpRetry s = .next (s.nextSource 3))) ∧
      (b.loading = false ∨ b.answered = false → exec (.tftpBlockTimeout server) s = .next s) ∧
      (b.loading = true → b.answered = true → (b.retries < 5 → ∃ t, exec (.tftpBlockTimeout server) s = .next t ∧ t.fw.boot = { b with retries := b.retries + 1 } ∧
          t.mm.tx = s.mm.tx ++ [⟨server, [0#8, 4#8, BitVec.ofNat 8 ((b.block - 1) % 65536 / 256), BitVec.ofNat 8 ((b.block - 1) % 65536)]⟩] ∧ t.mem = s.mem) ∧
        (5 ≤ b.retries → exec (.tftpBlockTimeout server) s = .next (s.nextSource 3))) ∧
      (∀ n d ts bs,
        let size := if b.answered then b.blksize else bs
        let out := 0x200000 < ts ∨ size < 512 ∨ 1468 < size ∨ 0x200000 < b.image.length + d.length
        let got : State := State.tftpAck s server (b.block % 65536)
        let v : State := { got with fw := { got.fw with boot := { b with answered := true, blksize := size, block := b.block + 1, retries := 0, image := b.image ++ d.take size } } }
        (b.loading = false ∨ n ≠ b.block % 65536 → exec (.tftpBlock server n d ts bs) s = .next s) ∧
        (b.loading = true → n = b.block % 65536 → (out → exec (.tftpBlock server n d ts bs) s = .next (s.nextSource 3)) ∧
          (¬ out → size ≤ d.length → exec (.tftpBlock server n d ts bs) s = .next v) ∧
          (¬ out → d.length < size → v.verifyImage (b.image ++ d) = 0 → exec (.tftpBlock server n d ts bs) s = .next (v.startImage (b.image ++ d) 0)) ∧
          (¬ out → d.length < size → v.verifyImage (b.image ++ d) ≠ 0 → exec (.tftpBlock server n d ts bs) s =
            .next ((v.setFld Reg.HF_FW_STATE 7 4 (v.verifyImage (b.image ++ d))).nextSource 3))))) ∧
    (∀ (s : State) (p : Nat) (rail bridges node joins dieLink : Bool) (lines : List (Nat × List Nat)) (quads : List (Nat × Nat)) (cores : List (Nat × List Nat)) (grounds : List Nat),
      let run := exec (.panelRepair p rail bridges ⟨node, joins⟩ dieLink lines quads cores grounds) s
      let f : RepairFound := ⟨rail, bridges, node, joins, dieLink, lines, quads, cores, grounds⟩
      let done := fun i => s.bit Reg.HF_BRINGUP i || s.bit Reg.HF_BRINGUP (4 + i)
      let turn := p < 4 ∧ s.fld Reg.PC_BOOT 0 3 = (if p = 0 then 2 else 3) ∧ done p = false ∧ (∀ i, i < p → done i = true)
      (¬ turn → run = .next s) ∧ (turn → p = 0 → run = .next (s.enterS3.repairPanel 0 f) ∧ s.enterS3.fld Reg.PC_BOOT 0 3 = 3) ∧
      (turn → p = 1 ∨ p = 2 → run = .next (s.repairPanel p f)) ∧
      (turn → p = 3 → run = .next ((((s.repairPanel 3 f).enterStage 4).trainNext 0).trainNext 1))) ∧
    (∀ (s : State) (quads : List (Nat × Nat)),
      let may := s.fld Reg.PC_BOOT 0 3 = 4 ∧ ∀ k, k < 12 → s.pkgDone k = true
      (¬ may → exec (.passCalibration quads) s = .next s) ∧
      (let v := (quads.filter (fun e => e.1 < 10240)).foldl (fun s e => s.fenceQuads e.1 (e.2 % 16)) s;
        (may → v.fld Reg.HF_BRINGUP 0 4 = 0 → ∃ t e, exec (.passCalibration quads) s = .next t ∧ t.rd Reg.PC_BOOT = v.rd Reg.PC_BOOT ∧ t.bit Reg.HF_BRINGUP 8 = true ∧
          t.evq = v.evq ++ [e] ∧ e.code = .PANEL_REPAIR_FAIL ∧ e.cls = .moduleFatal) ∧
        (may → v.fld Reg.HF_BRINGUP 0 4 ≠ 0 → ∃ t, exec (.passCalibration quads) s = .next t ∧ t.fld Reg.PC_BOOT 0 3 = 5 ∧ t.bit Reg.PC_BOOT 3 = false ∧
          t.bit Reg.HF_BRINGUP 8 = true ∧ t.fw.s5At = some v.usecN.toNat ∧ t.mem = v.mem))))

/-- A command whose OP is not its row's, or that comes while the security block takes none, changes nothing. Otherwise it stands in SC_CMD, is checked in order, and every outcome sets CMD_DONE with its code and replaces the nonce: one with wrong magic, an unassigned OP, a bad argument or a reserved field set fails with 1, one for another identity with 2, one over another nonce with 3, one whose signature fails with 4, each with SC_CMD_FAIL and no fuse burned. One that passes all checks runs: DEBUG enters its level; LC_ADVANCE burns the state; OWNER_KEY adds a key; SVN_MIN burns the minimum version; VENDOR_REVOKE revokes a slot. NONCE_NEW replaces the nonce. EXTEND refuses MEAS_0 to MEAS_11 and otherwise replaces a measurement by the digest of itself and EXT_VALUE. QUOTE_GO without its bit, while the security block takes nothing or with a quote under way, stores the mask and no more; otherwise the quote stands in SC_QUOTE, its bytes up to the signature the snapshot of the state, and QUOTE_DONE is set. DEBUG_LEVEL_WRITE of a lower level takes it, of a higher one only in BLANK, and otherwise changes nothing; a change extends MEAS_5 and raises DEBUG_LEVEL. DEBUG_DURATION_EXPIRE takes the level to OFF once its time has passed. Entry to INVASIVE counts in DEBUG_EPOCH, in the lifetime count and since power-on, whatever it is entered from, and in FIELD the job keys are zeroised. -/
def Obligations.SecurityCommands : Prop :=
    (let rows : List ((List Byte → Instr) × (Nat → Prop)) := [(Instr.debug, (· = 1)), (.lcAdvance, (· = 2)), (.ownerKey, (· = 3)), (.svnMin, (· = 4)),
      (.vendorRevoke, (· = 5)), (.signedCommandBadOp, fun n => n = 0 ∨ 5 < n)]
    (∀ (s : State) (row) (c : List Byte), row ∈ rows →
      let up := s.power.s1 = true ∧ s.power.standby = 0
      (¬ row.2 (imgNum c 4 1) ∨ ¬ up → exec (row.1 c) s = .next s) ∧
      (row.2 (imgNum c 4 1) → up → c.length = 256 →
        (s.bit Reg.SC_STATUS 0 = true → exec (row.1 c) s = .next (s.setRegBytes Reg.SC_CMD 64 c)) ∧
        (s.bit Reg.SC_STATUS 0 = false → s.fw.crippled = true → exec (row.1 c) s = .next ((s.setRegBytes Reg.SC_CMD 64 c).setBit Reg.SC_STATUS 0 true))) ∧
      (row.2 (imgNum c 4 1) → up → s.bit Reg.SC_STATUS 0 = false → s.fw.crippled = false → c.length = 256 →
        let v := s.setRegBytes Reg.SC_CMD 64 c
        let code := v.checkCmd c
        let done := fun (s : State) => (s.setFld Reg.SC_STATUS 8 4 code).setBit Reg.SC_STATUS 2 true
        (code ≠ 0 → exec (row.1 c) s = .next (done (v.raise .SC_CMD_FAIL .info srcSecurity [code])).newNonce) ∧
        (code = 0 →
          (imgNum c 4 1 = 1 → exec (row.1 c) s = .next (done (v.enterLevel (imgNum c 5 1) (imgNum c 8 1 % 2) (imgNum c 6 2) (sm3 c))).newNonce) ∧
          (imgNum c 4 1 = 2 → exec (row.1 c) s = .next (done (v.advanceLc (imgNum c 5 1))).newNonce) ∧
          (imgNum c 4 1 = 3 → exec (row.1 c) s = .next (done (v.fuseOwner (imgBytes c 96 64))).newNonce) ∧
          (imgNum c 4 1 = 4 → exec (row.1 c) s = .next (done (v.burnSvn (imgNum c 96 2))).newNonce) ∧
          (imgNum c 4 1 = 5 → exec (row.1 c) s = .next (done (v.revokeSlot (imgNum c 5 1))).newNonce)))) ∧
    (∀ (s : State) (c : List Byte),
      let op := imgNum c 4 1
      (imgNum c 0 4 ≠ 0x53434D44 ∨ op = 0 ∨ 5 < op ∨ op = 1 ∧ 2 < imgNum c 5 1 ∨ (op = 2 ∨ op = 5) ∧ 3 < imgNum c 5 1 ∨ imgNum c 8 4 / 2 ≠ 0 ∨ imgNum c 12 4 ≠ 0 ∨
        imgNum c 80 16 ≠ 0 → s.checkCmd c = 1) ∧
      (s.checkCmd c ≠ 1 → imgBytes c 16 32 ≠ s.identity → s.checkCmd c = 2) ∧
      (s.checkCmd c ≠ 1 → imgBytes c 16 32 = s.identity → imgBytes c 48 32 ≠ s.regBytes Reg.SC_NONCE 8 → s.checkCmd c = 3) ∧
      (s.checkCmd c = 0 → imgBytes c 48 32 = s.regBytes Reg.SC_NONCE 8 ∧ s.signedBy op (imgNum c 5 1) (imgNum c 8 1 % 2) (c.take 192) (imgBytes c 192 64) = true ∧
        (op = 2 → (s.otp.lc, imgNum c 5 1) ∈ [(0, 1), (1, 2), (1, 3), (2, 3)]) ∧ (op = 3 → s.otp.owners.length < 4) ∧ (op = 4 → s.otp.svn ≤ imgNum c 96 2))) ∧
    (∀ (s : State) (k : List Byte) (n : Nat),
      (s.burnLc n).otp.lc = n ∧ (n < 4 → (s.burnLc n).fld Reg.SC_LC 2 3 = n + 4) ∧ (s.fuseOwner k).otp.owners = s.otp.owners ++ [k] ∧
      (s.burnSvn n).otp.svn = n ∧ (s.burnSvn n).fld Reg.SC_LC 13 16 = n % 2 ^ 16 ∧ (s.revokeSlot n).otp.revoked = s.otp.revoked ++ [n] ∧
      (n < 4 → (s.revokeSlot n).bit Reg.SC_LC (5 + n) = true)) ∧
    (∀ (s : State) (v : Word),
      let up := s.power.s1 = true ∧ s.power.standby = 0
      let n := bitsOf v.toNat 0 4
      (¬ up → exec .nonceNew s = .next s ∧ exec (.extend v) s = .next s) ∧ (up → exec .nonceNew s = .next s.newNonce) ∧
      (up → n < 12 → exec (.extend v) s = .next (s.setBit Reg.SC_STATUS 4 true)) ∧
      (up → 12 ≤ n → ∃ t, exec (.extend v) s = .next t ∧ t.regBytes (Reg.SC_MEAS n) 8 = sm3 (s.regBytes (Reg.SC_MEAS n) 8 ++ s.regBytes Reg.SC_EXT_VALUE 8) ∧
        t.mem = s.mem ∧ t.otp = s.otp))) ∧
    ((∀ (s : State) (v : Word),
      let u := s.setFld Reg.SC_CTL 16 16 (bitsOf v.toNat 16 16)
      let up := s.power.s1 = true ∧ s.power.standby = 0
      let q := u.quoteBytes (bitsOf v.toNat 16 16)
      (bitOf v.toNat 2 = false ∨ ¬ up ∨ s.bit Reg.SC_STATUS 1 = true → exec (.quoteGo v) s = .next u) ∧
      (bitOf v.toNat 2 = true → up → s.bit Reg.SC_STATUS 1 = false → s.fw.crippled = true → exec (.quoteGo v) s = .next (u.setBit Reg.SC_STATUS 1 true)) ∧
      (bitOf v.toNat 2 = true → up → s.bit Reg.SC_STATUS 1 = false → s.fw.crippled = false → ∃ t, exec (.quoteGo v) s = .next t ∧ t.bit Reg.SC_STATUS 3 = true ∧
        t.mem = s.mem ∧ 160 ≤ q.length ∧ q.length ≤ 672 ∧ (t.regBytes Reg.SC_QUOTE 184).take q.length = q)) ∧
    (∀ (s : State) (v : Word),
      let n := bitsOf v.toNat 0 2
      let up := s.power.s1 = true ∧ s.power.standby = 0
      (¬ up ∨ n = 3 ∨ n = s.debugLevel ∨ s.debugLevel < n ∧ s.lifeCycle ≠ 0 → exec (.debugLevelWrite v) s = .next s) ∧
      (up → n < s.debugLevel → ∃ t e, exec (.debugLevelWrite v) s = .next t ∧ t.debugLevel = n ∧ t.mem = s.mem ∧ t.otp = s.otp ∧ t.evq = s.evq ++ [e] ∧
        e.code = .DEBUG_LEVEL ∧ (n = 0 → t.sec.levelUntil = none)) ∧
      (up → s.debugLevel < n → n < 3 → s.lifeCycle = 0 → ∃ t e, exec (.debugLevelWrite v) s = .next t ∧ t.debugLevel = n ∧ t.mem = s.mem ∧ t.evq = s.evq ++ [e] ∧
        e.code = .DEBUG_LEVEL ∧ t.sec.levelUntil = none ∧
        (n = 2 → t.debugEpoch = (s.debugEpoch + 1) % 2 ^ 13 ∧ t.otp.invasive = s.otp.invasive + 1) ∧ (n = 1 → t.otp = s.otp ∧ t.debugEpoch = s.debugEpoch))) ∧
    (∀ s : State,
      (s.sec.levelUntil = none → exec .debugDurationExpire s = .next s) ∧
      (∀ at_, s.sec.levelUntil = some at_ →
        (s.usecN.toNat < at_ → exec .debugDurationExpire s = .next s) ∧
        (at_ ≤ s.usecN.toNat → s.debugLevel = 0 → exec .debugDurationExpire s = .next s) ∧
        (at_ ≤ s.usecN.toNat → s.debugLevel ≠ 0 → ∃ t e, exec .debugDurationExpire s = .next t ∧ t.debugLevel = 0 ∧ t.sec.levelUntil = none ∧ t.mem = s.mem ∧
          t.evq = s.evq ++ [e] ∧ e.code = .DEBUG_LEVEL))) ∧
    (∀ (s : State) (signer seconds : Nat) (d : List Byte), s.debugLevel ≠ 2 → signer < 2 → seconds < 2 ^ 16 →
      (s.lifeCycle ≠ 2 → (s.enterLevel 2 signer seconds d).debugLevel = 2 ∧ (s.enterLevel 2 signer seconds d).otp.invasive = s.otp.invasive + 1) ∧
      (s.lifeCycle = 2 → s.enterLevel 2 signer seconds d =
        State.putLevel ((((s.keysGone.countInvasive).deriveSr.stopAll true).wipeJobs s.jobBanks).noteLevel 2 signer d) 2 signer seconds) ∧
      s.keysGone.bit Reg.SC_STATUS 5 = true ∧ s.keysGone.sec.jobKeys = [] ∧ s.keysGone.sec.sr = none ∧ s.keysGone.countInvasive.otp.invasive = s.otp.invasive + 1))

/-- Without headframe rails a TAP instruction changes nothing. EXTEST and INTEST while PERST_N is asserted capture the pins, which go out, and then hold the data that the outputs or the core follow; with PERST_N released they act as BYPASS. SAMPLE/PRELOAD does so at any time. IDCODE shows 0x1730009B; CLAMP, HIGHZ and DAP select their instruction and show a zero. BYPASS by a code that names no other instruction shows a zero; a code that names one is not a BYPASS and changes nothing. TEST_LOGIC_RESET loads IDCODE. None of them changes a register or a byte of memory. LOG_FLASH_WRITE_DONE completes the oldest queued program: a core sample stands in its entry and counts as unread, a page of events in the next page whose block is not retired, and the maps of repairs and fences over the older copy with a higher sequence number; with none left a suspended erase goes on. FLASH_ERASE_SUSPEND suspends an erase once for a queued program, and counts. LOG_FLASH_ERASE_DONE blanks the block's pages and counts its erase, unless it is retired or its erase is suspended. FLASH_BLOCK_FAIL retires a block once, with its event, and FLASH_WORN where more than 5 % of its region is then retired for the first time. -/
def Obligations.TestPortAndFlash : Prop :=
    (∀ (s : State) (pins data : BitVec 116) (code : Byte),
      let t := s.tap
      let shows := fun (n : TapSt) (w : BitVec 116) => (Host.Outcome.next { s with tap := n, out := s.out ++ [.tdo n.ir w] } : Host.Outcome State Fault Refusal)
      let ten := [Instr.extest pins data, .intest pins data, .samplePreload pins data, .idcode, .clamp, .highz, .dap, .bypass code, .testLogicReset]
      (s.power.rails = false → ∀ c ∈ ten, exec c s = .next s) ∧
      (s.power.rails = true →
        let pass := shows { t with ir := 0xFF, testReset := false } 0#116
        (s.power.perst = true → exec (.extest pins data) s = shows ⟨0x00, pins, data, false⟩ pins ∧ exec (.intest pins data) s = shows ⟨0x03, pins, data, false⟩ pins) ∧
        (s.power.perst = false → exec (.extest pins data) s = pass ∧ exec (.intest pins data) s = pass) ∧
        exec (.samplePreload pins data) s = shows ⟨0x01, pins, data, false⟩ pins ∧
        exec .idcode s = shows { t with ir := 0x02, testReset := false } 0x1730009B#116 ∧
        (∀ c ir, (c, ir) ∈ [(Instr.clamp, 0x04), (.highz, 0x05), (.dap, 0x20)] → exec c s = shows { t with ir := ir, testReset := false } 0#116) ∧
        (code.toNat ∈ [0x00, 0x01, 0x02, 0x03, 0x04, 0x05, 0x20] → exec (.bypass code) s = .next s) ∧
        (code.toNat ∉ [0x00, 0x01, 0x02, 0x03, 0x04, 0x05, 0x20] → exec (.bypass code) s = pass) ∧
        exec .testLogicReset s = .next { s with tap := { t with ir := 0x02, testReset := true } })) ∧
    (∀ (s : State) (b : Nat),
      let fl := s.flash
      (fl.jobs = [] → exec .logFlashWriteDone s = .next s ∧ exec (.flashEraseSuspend b) s = .next s) ∧
      (∀ j rest, fl.jobs = j :: rest → ∃ t, exec .logFlashWriteDone s = .next t ∧ t.flash.jobs = rest ∧ t.regs = s.regs ∧ t.mem = s.mem ∧
        t.flash.suspended = (fl.suspended && decide (rest ≠ [])) ∧
        (∀ e bytes, j = .sample e bytes → t.flash.samples.get [] e = bytes ∧ e ∈ t.flash.unread ∧ t.flash.pages = fl.pages) ∧
        (∀ bytes, j = .events bytes → t.flash.pages.get [] (s.logPageFrom 1440 fl.nextPage) = bytes ∧ t.flash.nextPage = s.logPageFrom 1440 fl.nextPage + 1 ∧
          t.flash.samples = fl.samples) ∧
        (j = .maps → fl.mapA.seq < fl.mapB.seq → t.flash.mapA.seq = fl.mapB.seq + 1 ∧ t.flash.mapB = fl.mapB) ∧
        (j = .maps → fl.mapB.seq ≤ fl.mapA.seq → t.flash.mapB.seq = fl.mapA.seq + 1 ∧ t.flash.mapA = fl.mapA)) ∧
      (∀ n p, (∃ q, q < 46080 ∧ fl.retired.contains (608 + q / 32) = false ∧ q = (p % 46080)) → s.logPageFrom (n + 1) p = p % 46080) ∧
      (fl.suspended = true → exec (.flashEraseSuspend b) s = .next s) ∧
      (fl.jobs ≠ [] → fl.suspended = false → ∃ t, exec (.flashEraseSuspend b) s = .next t ∧ t.flash.erasing = some b ∧ t.flash.suspended = true ∧ t.flash.jobs = fl.jobs ∧
        t.fld Reg.HF_BG 0 16 = min 65535 (s.fld Reg.HF_BG 0 16 + 1) ∧ t.mem = s.mem) ∧
      (let holds := 2048 ≤ b ∨ fl.retired.contains b = true ∨ fl.suspended = true ∧ fl.erasing = some b;
        (holds → exec (.logFlashEraseDone b) s = .next s) ∧
        (¬ holds → ∃ t, exec (.logFlashEraseDone b) s = .next t ∧ t.flash.erases.get 0 b = fl.erases.get 0 b + 1 ∧ t.flash.erasing ≠ some b ∧ t.regs = s.regs ∧
          (∀ p, 608 ≤ b → p / 32 = b - 608 → t.flash.pages.get [] p = []) ∧ (∀ p, b < 608 ∨ p / 32 ≠ b - 608 → t.flash.pages.get [] p = fl.pages.get [] p))) ∧
      (2048 ≤ b ∨ fl.retired.contains b = true → exec (.flashBlockFail b) s = .next s) ∧
      (b < 2048 → fl.retired.contains b = false → ∃ t e, exec (.flashBlockFail b) s = .next t ∧ t.flash.retired = fl.retired ++ [b] ∧ t.flash.jobs = fl.jobs ∧
        e.code = .FLASH_BLOCK_RETIRED ∧ t.mem = s.mem ∧
        let n := (fl.retired.filter (fun c => flashRegion c = flashRegion b)).length + 1
        (20 * n ≤ (flashRegion b).2 ∨ (flashRegion b).2 < 20 * (n - 1) → t.evq = s.evq ++ [e]) ∧
        ((flashRegion b).2 < 20 * n → 20 * (n - 1) ≤ (flashRegion b).2 → ∃ w, t.evq = s.evq ++ [e, w] ∧ w.code = .FLASH_WORN)))

/-- EVENT_RECORD with no event waiting, before S1 or before S2 changes nothing; otherwise the first event in the order of raising gets the next SEQ and stands in its slot of the ring, with its time, source, code, class and data, and EV_LAST shows the SEQ; an entry overwritten unread sets OVERWRITTEN. CORE_STALL_FENCE of a context that is READY fences its core with cause 2, as an ADD whose result an upset strikes does with cause 1; a core that is fenced stays as it is, and of another context nothing changes. A word that is a legal instruction is left to that instruction; one that is none, and issues, is refused with ILLEGAL. An exception record holds its eight words, counted, with the code, context, core, slot and DEFERRED, the motif, the program counter, the instruction's words, the address and the detail. -/
def Obligations.EventsAndExceptions : Prop :=
  (∀ (s : State) (read : Bool),
    (s.evq = [] ∨ s.power.s1 = false ∨ s.fld Reg.PC_BOOT 0 3 < 2 → exec (.eventRecord read) s = .next s) ∧
    (∀ e rest, s.evq = e :: rest → s.power.s1 = true → 2 ≤ s.fld Reg.PC_BOOT 0 3 →
      let seq := s.rd2 Reg.EV_LAST_LO Reg.EV_LAST_HI + 1
      let i := seq % 8192 * 8
      let d := (Config.eventData (codeNumber e.code) e.data).toNat
      ∃ t, exec (.eventRecord read) s = .next t ∧ t.mem = s.mem ∧ t.evq = rest ∧ t.tasks = s.tasks ∧
        t.rd Reg.EV_LAST_LO = BitVec.ofNat 32 seq ∧ t.rd Reg.EV_LAST_HI = BitVec.ofNat 32 (seq / 2 ^ 32) ∧
        t.rd (Reg.EV_WIN i) = BitVec.ofNat 32 seq ∧ t.rd (Reg.EV_WIN (i + 1)) = BitVec.ofNat 32 (seq / 2 ^ 32) ∧
        t.rd (Reg.EV_WIN (i + 2)) = BitVec.ofNat 32 e.usec ∧ t.rd (Reg.EV_WIN (i + 3)) = BitVec.ofNat 32 (e.source + 2 ^ 16 * codeNumber e.code) ∧
        t.rd (Reg.EV_WIN (i + 4)) = BitVec.ofNat 32 (classNumber e.cls + d * 2 ^ 8) ∧ t.rd (Reg.EV_WIN (i + 5)) = BitVec.ofNat 32 (d / 2 ^ 24) ∧
        (s.rd2 (Reg.EV_WIN i) (Reg.EV_WIN (i + 1)) ≠ 0 → read = false → t.bit Reg.EV_STATUS 0 = true))) ∧
  (∀ (s : State) (x : Nat) (d a : SReg) (b : Src),
    (10240 * 128 ≤ x ∨ (s.context x).phase ≠ .ready → exec (.coreStallFence x) s = .next s) ∧
    (x < 10240 * 128 → (s.context x).phase = .ready → exec (.coreStallFence x) s = .next (s.fenceCore (motifOf x) (coreOf x) 2)) ∧
    exec (.add x d a b true) s = .next (s.fenceCore (motifOf x) (coreOf x) 1)) ∧
  (∀ (s : State) (m c cause : Nat), c < 32 → (s.coreFenced m c = true → s.fenceCore m c cause = s) ∧
    (s.coreFenced m c = false → (∀ i, i < 4 → (s.context (m * 128 + c * 4 + i)).task = none) → (∀ i, i < 32 → i ≠ c → s.coreSpare m i = false) →
      (s.fenceCore m c cause).coreFenced m c = true ∧ (s.fenceCore m c cause).mem = s.mem ∧ (∀ i, i < 4 → ((s.fenceCore m c cause).context (m * 128 + c * 4 + i)).phase = .offline) ∧
      (s.fenceCore m c cause).evq.map (·.code) = s.evq.map (·.code) ++ [.CORE_FENCED, .MOTIF_DEGRADED])) ∧
  (∀ (s u : State) (x k n : Nat) (w0 w1 : Word),
    let long := bitsOf w0.toNat 26 6 = 0x3F
    (legalWords w0.toNat w1.toNat = true → exec (.unassignedInstruction x w0 w1) s = .next s) ∧
    (legalWords w0.toNat w1.toNat = false → n = (if long then 8 else 4) → Issues s x n [] k u → exec (.unassignedInstruction x w0 w1) s =
      .next ((u.tookTurn x).issueFault x k .ILLEGAL w0.toNat (if long then w1.toNat else 0) 0 0))) ∧
  (∀ (s : State) (code : Code) (x slot : Nat) (deferred : Bool) (pc w0 w1 addr detail : Nat),
    let t := s.writeExc code x slot deferred pc w0 w1 addr detail
    let m := motifOf x
    t.rd (Reg.MT_EXC m 0) = BitVec.ofNat 32 (codeNumber code + 2 ^ 16 * (x % 4) + 2 ^ 18 * (x % 128 / 4) + 2 ^ 23 * slot + if deferred then 2 ^ 29 else 0) ∧
    t.rd (Reg.MT_EXC m 1) = BitVec.ofNat 32 m ∧ t.rd (Reg.MT_EXC m 2) = BitVec.ofNat 32 pc ∧ t.rd (Reg.MT_EXC m 3) = BitVec.ofNat 32 w0 ∧
    t.rd (Reg.MT_EXC m 4) = BitVec.ofNat 32 w1 ∧ t.rd (Reg.MT_EXC m 5) = BitVec.ofNat 32 addr ∧
    t.rd (Reg.MT_EXC m 6) = BitVec.ofNat 32 (addr / 2 ^ 32 % 2 ^ 24) ∧ t.rd (Reg.MT_EXC m 7) = BitVec.ofNat 32 detail ∧
    t.fld (Reg.MT_EXC_COUNT m) 0 16 = min 65535 (s.fld (Reg.MT_EXC_COUNT m) 0 16 + 1) ∧ t.mem = s.mem ∧ t.tasks = s.tasks)
end

