-- ==== Sys2Proof/Laws/SMap.lean ====
section
/-! SUPPORT. Laws of sparse maps: reads after writes, and that every operation keeps the canonical form. -/

namespace Sys2Proof.SMap

variable {α : Type}

@[simp] theorem get_nil (d : α) (k : Nat) : SMap.get ([] : SMap α) d k = d := rfl

theorem get_del_self (m : SMap α) (d : α) (k : Nat) : (m.del k).get d k = d := by
  induction m with
  | nil => rfl
  | cons e r ih =>
    unfold SMap.del
    split
    · exact ih
    · simp [SMap.get, *]

theorem get_del_other (m : SMap α) (d : α) {k j : Nat} (h : j ≠ k) : (m.del k).get d j = m.get d j := by
  induction m with
  | nil => rfl
  | cons e r ih =>
    unfold SMap.del
    by_cases he : e.1 = k
    · simp [he, ih, SMap.get, Ne.symm h]
    · simp only [he, if_false]
      unfold SMap.get
      simp [ih]

theorem get_ins_other (m : SMap α) (d v : α) {k j : Nat} (h : j ≠ k) : (m.ins k v).get d j = m.get d j := by
  induction m with
  | nil => simp [SMap.ins, SMap.get, Ne.symm h]
  | cons e r ih =>
    unfold SMap.ins
    split
    · simp [SMap.get, Ne.symm h]
    · simp [SMap.get, ih]

theorem get_ins_self (m : SMap α) (d v : α) (k : Nat) (h : ∀ e ∈ m, e.1 ≠ k) : (m.ins k v).get d k = v := by
  induction m with
  | nil => simp [SMap.ins, SMap.get]
  | cons e r ih =>
    unfold SMap.ins
    split
    · simp [SMap.get]
    · simp [SMap.get, h e (by simp), ih (fun x hx => h x (by simp [hx]))]

theorem mem_del {m : SMap α} {k : Nat} {e : Nat × α} : e ∈ m.del k ↔ e ∈ m ∧ e.1 ≠ k := by
  induction m with
  | nil => simp [SMap.del]
  | cons x r ih =>
    unfold SMap.del
    split
    · rename_i hx
      simp only [ih, List.mem_cons]
      constructor
      · exact fun h => ⟨.inr h.1, h.2⟩
      · rintro ⟨rfl | h, hk⟩
        · exact absurd hx hk
        · exact ⟨h, hk⟩
    · rename_i hx
      simp only [List.mem_cons, ih]
      constructor
      · rintro (rfl | h)
        · exact ⟨.inl rfl, hx⟩
        · exact ⟨.inr h.1, h.2⟩
      · rintro ⟨rfl | h, hk⟩
        · exact .inl rfl
        · exact .inr ⟨h, hk⟩

theorem mem_ins {m : SMap α} {k : Nat} {v : α} {e : Nat × α} : e ∈ m.ins k v ↔ e = (k, v) ∨ e ∈ m := by
  induction m with
  | nil => simp [SMap.ins]
  | cons x r ih =>
    unfold SMap.ins
    split
    · simp
    · simp only [List.mem_cons, ih]
      constructor
      · rintro (h | h | h) <;> simp [h]
      · rintro (h | h | h) <;> simp [h]

theorem del_pairwise {m : SMap α} (k : Nat) (h : m.Pairwise (fun a b => a.1 < b.1)) : (m.del k).Pairwise (fun a b => a.1 < b.1) := by
  induction m with
  | nil => exact .nil
  | cons e r ih =>
    have h' := List.pairwise_cons.mp h
    unfold SMap.del
    split
    · exact ih h'.2
    · exact List.pairwise_cons.mpr ⟨fun x hx => h'.1 x (mem_del.mp hx).1, ih h'.2⟩

theorem ins_pairwise {m : SMap α} (k : Nat) (v : α) (h : m.Pairwise (fun a b => a.1 < b.1)) (hk : ∀ e ∈ m, e.1 ≠ k) :
    (m.ins k v).Pairwise (fun a b => a.1 < b.1) := by
  induction m with
  | nil => simp [SMap.ins]
  | cons e r ih =>
    have h' := List.pairwise_cons.mp h
    unfold SMap.ins
    split
    · rename_i hlt
      refine List.pairwise_cons.mpr ⟨fun x hx => ?_, h⟩
      rcases List.mem_cons.mp hx with rfl | hx
      · exact hlt
      · exact Nat.lt_trans hlt (h'.1 x hx)
    · rename_i hlt
      refine List.pairwise_cons.mpr ⟨fun x hx => ?_, ih h'.2 (fun x hx => hk x (by simp [hx]))⟩
      rcases mem_ins.mp hx with rfl | hx
      · have := hk e (by simp)
        simp only at *
        omega
      · exact h'.1 x hx

variable [DecidableEq α]

/-- What a key reads after a write of that key. -/
@[simp] theorem get_put_self (m : SMap α) (d v : α) (k : Nat) : (m.put d k v).get d k = v := by
  unfold SMap.put
  split
  · rename_i h
    rw [get_del_self, h]
  · exact get_ins_self _ _ _ _ (fun e he => (mem_del.mp he).2)

/-- A write leaves every other key alone, whatever the two defaults are. -/
theorem get_put_other (m : SMap α) (d d' v : α) {k j : Nat} (h : j ≠ k) : (m.put d k v).get d' j = m.get d' j := by
  unfold SMap.put
  split
  · exact get_del_other _ _ h
  · rw [get_ins_other _ _ _ h, get_del_other _ _ h]

/-- Reads after writes in one equation. -/
theorem get_put (m : SMap α) (d v : α) (k j : Nat) : (m.put d k v).get d j = if j = k then v else m.get d j := by
  split
  · rename_i h
    rw [h, get_put_self]
  · exact get_put_other _ _ _ _ ‹_›

/-! ### The canonical form -/

theorem wf_nil (d : Nat → α) : SMap.Wf ([] : SMap α) d := ⟨.nil, by simp⟩

theorem wf_del {m : SMap α} {D : Nat → α} (k : Nat) (h : SMap.Wf m D) : SMap.Wf (m.del k) D :=
  ⟨del_pairwise k h.1, fun e he => h.2 e (mem_del.mp he).1⟩

/-- A write keeps the canonical form. -/
theorem wf_put {m : SMap α} {D : Nat → α} (k : Nat) (v : α) (h : SMap.Wf m D) : SMap.Wf (m.put (D k) k v) D := by
  unfold SMap.put
  split
  · exact wf_del k h
  · refine ⟨ins_pairwise k v (wf_del k h).1 (fun e he => (mem_del.mp he).2), fun e he => ?_⟩
    rcases mem_ins.mp he with rfl | he
    · assumption
    · exact (wf_del k h).2 e he

/-- Clearing a range keeps the canonical form, and the defaults inside the range may change. -/
theorem wf_clear {m : SMap α} {D D' : Nat → α} (lo hi : Nat) (h : SMap.Wf m D) (hD : ∀ k, k < lo ∨ hi ≤ k → D' k = D k) :
    SMap.Wf (m.clear lo hi) D' := by
  refine ⟨h.1.filter _, fun e he => ?_⟩
  have he' := List.mem_filter.mp he
  simp only [Bool.or_eq_true, decide_eq_true_eq] at he'
  rw [hD e.1 he'.2]
  exact h.2 e he'.1

/-- Filtering keeps the canonical form. -/
theorem wf_filter {m : SMap α} {D : Nat → α} (p : Nat × α → Bool) (h : SMap.Wf m D) : SMap.Wf (m.filter p) D :=
  ⟨h.1.filter _, fun e he => h.2 e (List.mem_filter.mp he).1⟩

end Sys2Proof.SMap
end

