-- ==== Sys2Proof/Laws/State.lean ====
section
/-! SUPPORT. What each named update of the state leaves alone, one lemma per field, and what it makes its own field read. -/

namespace Sys2Proof.Machine

@[simp] theorem State.wr_pending (s : State) (a : Nat) (v : Word) : (s.wr a v).pending = s.pending := rfl
@[simp] theorem State.wr_free (s : State) (a : Nat) (v : Word) : (s.wr a v).free = s.free := rfl
@[simp] theorem State.wr_tick (s : State) (a : Nat) (v : Word) : (s.wr a v).tick = s.tick := rfl
@[simp] theorem State.wr_out (s : State) (a : Nat) (v : Word) : (s.wr a v).out = s.out := rfl
@[simp] theorem State.wr_evq (s : State) (a : Nat) (v : Word) : (s.wr a v).evq = s.evq := rfl
@[simp] theorem State.wr_usecN (s : State) (a : Nat) (v : Word) : (s.wr a v).usecN = s.usecN := rfl
@[simp] theorem State.wr_latch (s : State) (a : Nat) (v : Word) : (s.wr a v).latch = s.latch := rfl
@[simp] theorem State.wr_mem (s : State) (a : Nat) (v : Word) : (s.wr a v).mem = s.mem := rfl
@[simp] theorem State.wr_ecc (s : State) (a : Nat) (v : Word) : (s.wr a v).ecc = s.ecc := rfl
@[simp] theorem State.wr_banks (s : State) (a : Nat) (v : Word) : (s.wr a v).banks = s.banks := rfl
@[simp] theorem State.wr_tasks (s : State) (a : Nat) (v : Word) : (s.wr a v).tasks = s.tasks := rfl
@[simp] theorem State.wr_ctx (s : State) (a : Nat) (v : Word) : (s.wr a v).ctx = s.ctx := rfl
@[simp] theorem State.wr_cores (s : State) (a : Nat) (v : Word) : (s.wr a v).cores = s.cores := rfl
@[simp] theorem State.wr_posted (s : State) (a : Nat) (v : Word) : (s.wr a v).posted = s.posted := rfl
@[simp] theorem State.wr_adds (s : State) (a : Nat) (v : Word) : (s.wr a v).adds = s.adds := rfl
@[simp] theorem State.wr_deferred (s : State) (a : Nat) (v : Word) : (s.wr a v).deferred = s.deferred := rfl
@[simp] theorem State.wr_tokens (s : State) (a : Nat) (v : Word) : (s.wr a v).tokens = s.tokens := rfl
@[simp] theorem State.wr_srf (s : State) (a : Nat) (v : Word) : (s.wr a v).srf = s.srf := rfl
@[simp] theorem State.wr_engines (s : State) (a : Nat) (v : Word) : (s.wr a v).engines = s.engines := rfl
@[simp] theorem State.wr_arrays (s : State) (a : Nat) (v : Word) : (s.wr a v).arrays = s.arrays := rfl
@[simp] theorem State.wr_queues (s : State) (a : Nat) (v : Word) : (s.wr a v).queues = s.queues := rfl
@[simp] theorem State.wr_xferQ (s : State) (a : Nat) (v : Word) : (s.wr a v).xferQ = s.xferQ := rfl
@[simp] theorem State.wr_chains (s : State) (a : Nat) (v : Word) : (s.wr a v).chains = s.chains := rfl
@[simp] theorem State.wr_contribs (s : State) (a : Nat) (v : Word) : (s.wr a v).contribs = s.contribs := rfl
@[simp] theorem State.wr_plait (s : State) (a : Nat) (v : Word) : (s.wr a v).plait = s.plait := rfl
@[simp] theorem State.wr_edges (s : State) (a : Nat) (v : Word) : (s.wr a v).edges = s.edges := rfl
@[simp] theorem State.wr_colls (s : State) (a : Nat) (v : Word) : (s.wr a v).colls = s.colls := rfl
@[simp] theorem State.wr_jobs (s : State) (a : Nat) (v : Word) : (s.wr a v).jobs = s.jobs := rfl
@[simp] theorem State.wr_conns (s : State) (a : Nat) (v : Word) : (s.wr a v).conns = s.conns := rfl
@[simp] theorem State.wr_ledger (s : State) (a : Nat) (v : Word) : (s.wr a v).ledger = s.ledger := rfl
@[simp] theorem State.wr_tables (s : State) (a : Nat) (v : Word) : (s.wr a v).tables = s.tables := rfl
@[simp] theorem State.wr_slices (s : State) (a : Nat) (v : Word) : (s.wr a v).slices = s.slices := rfl
@[simp] theorem State.wr_hoists (s : State) (a : Nat) (v : Word) : (s.wr a v).hoists = s.hoists := rfl
@[simp] theorem State.wr_otp (s : State) (a : Nat) (v : Word) : (s.wr a v).otp = s.otp := rfl
@[simp] theorem State.wr_sec (s : State) (a : Nat) (v : Word) : (s.wr a v).sec = s.sec := rfl
@[simp] theorem State.wr_flash (s : State) (a : Nat) (v : Word) : (s.wr a v).flash = s.flash := rfl
@[simp] theorem State.wr_fw (s : State) (a : Nat) (v : Word) : (s.wr a v).fw = s.fw := rfl
@[simp] theorem State.wr_mm (s : State) (a : Nat) (v : Word) : (s.wr a v).mm = s.mm := rfl
@[simp] theorem State.wr_power (s : State) (a : Nat) (v : Word) : (s.wr a v).power = s.power := rfl
@[simp] theorem State.wr_tap (s : State) (a : Nat) (v : Word) : (s.wr a v).tap = s.tap := rfl

@[simp] theorem State.setFld_pending (s : State) (a lo n v : Nat) : (s.setFld a lo n v).pending = s.pending := rfl
@[simp] theorem State.setFld_free (s : State) (a lo n v : Nat) : (s.setFld a lo n v).free = s.free := rfl
@[simp] theorem State.setFld_tick (s : State) (a lo n v : Nat) : (s.setFld a lo n v).tick = s.tick := rfl
@[simp] theorem State.setFld_out (s : State) (a lo n v : Nat) : (s.setFld a lo n v).out = s.out := rfl
@[simp] theorem State.setFld_evq (s : State) (a lo n v : Nat) : (s.setFld a lo n v).evq = s.evq := rfl
@[simp] theorem State.setFld_usecN (s : State) (a lo n v : Nat) : (s.setFld a lo n v).usecN = s.usecN := rfl
@[simp] theorem State.setFld_latch (s : State) (a lo n v : Nat) : (s.setFld a lo n v).latch = s.latch := rfl
@[simp] theorem State.setFld_mem (s : State) (a lo n v : Nat) : (s.setFld a lo n v).mem = s.mem := rfl
@[simp] theorem State.setFld_ecc (s : State) (a lo n v : Nat) : (s.setFld a lo n v).ecc = s.ecc := rfl
@[simp] theorem State.setFld_banks (s : State) (a lo n v : Nat) : (s.setFld a lo n v).banks = s.banks := rfl
@[simp] theorem State.setFld_tasks (s : State) (a lo n v : Nat) : (s.setFld a lo n v).tasks = s.tasks := rfl
@[simp] theorem State.setFld_ctx (s : State) (a lo n v : Nat) : (s.setFld a lo n v).ctx = s.ctx := rfl
@[simp] theorem State.setFld_cores (s : State) (a lo n v : Nat) : (s.setFld a lo n v).cores = s.cores := rfl
@[simp] theorem State.setFld_posted (s : State) (a lo n v : Nat) : (s.setFld a lo n v).posted = s.posted := rfl
@[simp] theorem State.setFld_adds (s : State) (a lo n v : Nat) : (s.setFld a lo n v).adds = s.adds := rfl
@[simp] theorem State.setFld_deferred (s : State) (a lo n v : Nat) : (s.setFld a lo n v).deferred = s.deferred := rfl
@[simp] theorem State.setFld_tokens (s : State) (a lo n v : Nat) : (s.setFld a lo n v).tokens = s.tokens := rfl
@[simp] theorem State.setFld_srf (s : State) (a lo n v : Nat) : (s.setFld a lo n v).srf = s.srf := rfl
@[simp] theorem State.setFld_engines (s : State) (a lo n v : Nat) : (s.setFld a lo n v).engines = s.engines := rfl
@[simp] theorem State.setFld_arrays (s : State) (a lo n v : Nat) : (s.setFld a lo n v).arrays = s.arrays := rfl
@[simp] theorem State.setFld_queues (s : State) (a lo n v : Nat) : (s.setFld a lo n v).queues = s.queues := rfl
@[simp] theorem State.setFld_xferQ (s : State) (a lo n v : Nat) : (s.setFld a lo n v).xferQ = s.xferQ := rfl
@[simp] theorem State.setFld_chains (s : State) (a lo n v : Nat) : (s.setFld a lo n v).chains = s.chains := rfl
@[simp] theorem State.setFld_contribs (s : State) (a lo n v : Nat) : (s.setFld a lo n v).contribs = s.contribs := rfl
@[simp] theorem State.setFld_plait (s : State) (a lo n v : Nat) : (s.setFld a lo n v).plait = s.plait := rfl
@[simp] theorem State.setFld_edges (s : State) (a lo n v : Nat) : (s.setFld a lo n v).edges = s.edges := rfl
@[simp] theorem State.setFld_colls (s : State) (a lo n v : Nat) : (s.setFld a lo n v).colls = s.colls := rfl
@[simp] theorem State.setFld_jobs (s : State) (a lo n v : Nat) : (s.setFld a lo n v).jobs = s.jobs := rfl
@[simp] theorem State.setFld_conns (s : State) (a lo n v : Nat) : (s.setFld a lo n v).conns = s.conns := rfl
@[simp] theorem State.setFld_ledger (s : State) (a lo n v : Nat) : (s.setFld a lo n v).ledger = s.ledger := rfl
@[simp] theorem State.setFld_tables (s : State) (a lo n v : Nat) : (s.setFld a lo n v).tables = s.tables := rfl
@[simp] theorem State.setFld_slices (s : State) (a lo n v : Nat) : (s.setFld a lo n v).slices = s.slices := rfl
@[simp] theorem State.setFld_hoists (s : State) (a lo n v : Nat) : (s.setFld a lo n v).hoists = s.hoists := rfl
@[simp] theorem State.setFld_otp (s : State) (a lo n v : Nat) : (s.setFld a lo n v).otp = s.otp := rfl
@[simp] theorem State.setFld_sec (s : State) (a lo n v : Nat) : (s.setFld a lo n v).sec = s.sec := rfl
@[simp] theorem State.setFld_flash (s : State) (a lo n v : Nat) : (s.setFld a lo n v).flash = s.flash := rfl
@[simp] theorem State.setFld_fw (s : State) (a lo n v : Nat) : (s.setFld a lo n v).fw = s.fw := rfl
@[simp] theorem State.setFld_mm (s : State) (a lo n v : Nat) : (s.setFld a lo n v).mm = s.mm := rfl
@[simp] theorem State.setFld_power (s : State) (a lo n v : Nat) : (s.setFld a lo n v).power = s.power := rfl
@[simp] theorem State.setFld_tap (s : State) (a lo n v : Nat) : (s.setFld a lo n v).tap = s.tap := rfl

@[simp] theorem State.setBit_pending (s : State) (a i : Nat) (v : Bool) : (s.setBit a i v).pending = s.pending := rfl
@[simp] theorem State.setBit_free (s : State) (a i : Nat) (v : Bool) : (s.setBit a i v).free = s.free := rfl
@[simp] theorem State.setBit_tick (s : State) (a i : Nat) (v : Bool) : (s.setBit a i v).tick = s.tick := rfl
@[simp] theorem State.setBit_out (s : State) (a i : Nat) (v : Bool) : (s.setBit a i v).out = s.out := rfl
@[simp] theorem State.setBit_evq (s : State) (a i : Nat) (v : Bool) : (s.setBit a i v).evq = s.evq := rfl
@[simp] theorem State.setBit_usecN (s : State) (a i : Nat) (v : Bool) : (s.setBit a i v).usecN = s.usecN := rfl
@[simp] theorem State.setBit_latch (s : State) (a i : Nat) (v : Bool) : (s.setBit a i v).latch = s.latch := rfl
@[simp] theorem State.setBit_mem (s : State) (a i : Nat) (v : Bool) : (s.setBit a i v).mem = s.mem := rfl
@[simp] theorem State.setBit_ecc (s : State) (a i : Nat) (v : Bool) : (s.setBit a i v).ecc = s.ecc := rfl
@[simp] theorem State.setBit_banks (s : State) (a i : Nat) (v : Bool) : (s.setBit a i v).banks = s.banks := rfl
@[simp] theorem State.setBit_tasks (s : State) (a i : Nat) (v : Bool) : (s.setBit a i v).tasks = s.tasks := rfl
@[simp] theorem State.setBit_ctx (s : State) (a i : Nat) (v : Bool) : (s.setBit a i v).ctx = s.ctx := rfl
@[simp] theorem State.setBit_cores (s : State) (a i : Nat) (v : Bool) : (s.setBit a i v).cores = s.cores := rfl
@[simp] theorem State.setBit_posted (s : State) (a i : Nat) (v : Bool) : (s.setBit a i v).posted = s.posted := rfl
@[simp] theorem State.setBit_adds (s : State) (a i : Nat) (v : Bool) : (s.setBit a i v).adds = s.adds := rfl
@[simp] theorem State.setBit_deferred (s : State) (a i : Nat) (v : Bool) : (s.setBit a i v).deferred = s.deferred := rfl
@[simp] theorem State.setBit_tokens (s : State) (a i : Nat) (v : Bool) : (s.setBit a i v).tokens = s.tokens := rfl
@[simp] theorem State.setBit_srf (s : State) (a i : Nat) (v : Bool) : (s.setBit a i v).srf = s.srf := rfl
@[simp] theorem State.setBit_engines (s : State) (a i : Nat) (v : Bool) : (s.setBit a i v).engines = s.engines := rfl
@[simp] theorem State.setBit_arrays (s : State) (a i : Nat) (v : Bool) : (s.setBit a i v).arrays = s.arrays := rfl
@[simp] theorem State.setBit_queues (s : State) (a i : Nat) (v : Bool) : (s.setBit a i v).queues = s.queues := rfl
@[simp] theorem State.setBit_xferQ (s : State) (a i : Nat) (v : Bool) : (s.setBit a i v).xferQ = s.xferQ := rfl
@[simp] theorem State.setBit_chains (s : State) (a i : Nat) (v : Bool) : (s.setBit a i v).chains = s.chains := rfl
@[simp] theorem State.setBit_contribs (s : State) (a i : Nat) (v : Bool) : (s.setBit a i v).contribs = s.contribs := rfl
@[simp] theorem State.setBit_plait (s : State) (a i : Nat) (v : Bool) : (s.setBit a i v).plait = s.plait := rfl
@[simp] theorem State.setBit_edges (s : State) (a i : Nat) (v : Bool) : (s.setBit a i v).edges = s.edges := rfl
@[simp] theorem State.setBit_colls (s : State) (a i : Nat) (v : Bool) : (s.setBit a i v).colls = s.colls := rfl
@[simp] theorem State.setBit_jobs (s : State) (a i : Nat) (v : Bool) : (s.setBit a i v).jobs = s.jobs := rfl
@[simp] theorem State.setBit_conns (s : State) (a i : Nat) (v : Bool) : (s.setBit a i v).conns = s.conns := rfl
@[simp] theorem State.setBit_ledger (s : State) (a i : Nat) (v : Bool) : (s.setBit a i v).ledger = s.ledger := rfl
@[simp] theorem State.setBit_tables (s : State) (a i : Nat) (v : Bool) : (s.setBit a i v).tables = s.tables := rfl
@[simp] theorem State.setBit_slices (s : State) (a i : Nat) (v : Bool) : (s.setBit a i v).slices = s.slices := rfl
@[simp] theorem State.setBit_hoists (s : State) (a i : Nat) (v : Bool) : (s.setBit a i v).hoists = s.hoists := rfl
@[simp] theorem State.setBit_otp (s : State) (a i : Nat) (v : Bool) : (s.setBit a i v).otp = s.otp := rfl
@[simp] theorem State.setBit_sec (s : State) (a i : Nat) (v : Bool) : (s.setBit a i v).sec = s.sec := rfl
@[simp] theorem State.setBit_flash (s : State) (a i : Nat) (v : Bool) : (s.setBit a i v).flash = s.flash := rfl
@[simp] theorem State.setBit_fw (s : State) (a i : Nat) (v : Bool) : (s.setBit a i v).fw = s.fw := rfl
@[simp] theorem State.setBit_mm (s : State) (a i : Nat) (v : Bool) : (s.setBit a i v).mm = s.mm := rfl
@[simp] theorem State.setBit_power (s : State) (a i : Nat) (v : Bool) : (s.setBit a i v).power = s.power := rfl
@[simp] theorem State.setBit_tap (s : State) (a i : Nat) (v : Bool) : (s.setBit a i v).tap = s.tap := rfl

@[simp] theorem State.count_pending (s : State) (a lo n k : Nat) : (s.count a lo n k).pending = s.pending := rfl
@[simp] theorem State.count_free (s : State) (a lo n k : Nat) : (s.count a lo n k).free = s.free := rfl
@[simp] theorem State.count_tick (s : State) (a lo n k : Nat) : (s.count a lo n k).tick = s.tick := rfl
@[simp] theorem State.count_out (s : State) (a lo n k : Nat) : (s.count a lo n k).out = s.out := rfl
@[simp] theorem State.count_evq (s : State) (a lo n k : Nat) : (s.count a lo n k).evq = s.evq := rfl
@[simp] theorem State.count_usecN (s : State) (a lo n k : Nat) : (s.count a lo n k).usecN = s.usecN := rfl
@[simp] theorem State.count_latch (s : State) (a lo n k : Nat) : (s.count a lo n k).latch = s.latch := rfl
@[simp] theorem State.count_mem (s : State) (a lo n k : Nat) : (s.count a lo n k).mem = s.mem := rfl
@[simp] theorem State.count_ecc (s : State) (a lo n k : Nat) : (s.count a lo n k).ecc = s.ecc := rfl
@[simp] theorem State.count_banks (s : State) (a lo n k : Nat) : (s.count a lo n k).banks = s.banks := rfl
@[simp] theorem State.count_tasks (s : State) (a lo n k : Nat) : (s.count a lo n k).tasks = s.tasks := rfl
@[simp] theorem State.count_ctx (s : State) (a lo n k : Nat) : (s.count a lo n k).ctx = s.ctx := rfl
@[simp] theorem State.count_cores (s : State) (a lo n k : Nat) : (s.count a lo n k).cores = s.cores := rfl
@[simp] theorem State.count_posted (s : State) (a lo n k : Nat) : (s.count a lo n k).posted = s.posted := rfl
@[simp] theorem State.count_adds (s : State) (a lo n k : Nat) : (s.count a lo n k).adds = s.adds := rfl
@[simp] theorem State.count_deferred (s : State) (a lo n k : Nat) : (s.count a lo n k).deferred = s.deferred := rfl
@[simp] theorem State.count_tokens (s : State) (a lo n k : Nat) : (s.count a lo n k).tokens = s.tokens := rfl
@[simp] theorem State.count_srf (s : State) (a lo n k : Nat) : (s.count a lo n k).srf = s.srf := rfl
@[simp] theorem State.count_engines (s : State) (a lo n k : Nat) : (s.count a lo n k).engines = s.engines := rfl
@[simp] theorem State.count_arrays (s : State) (a lo n k : Nat) : (s.count a lo n k).arrays = s.arrays := rfl
@[simp] theorem State.count_queues (s : State) (a lo n k : Nat) : (s.count a lo n k).queues = s.queues := rfl
@[simp] theorem State.count_xferQ (s : State) (a lo n k : Nat) : (s.count a lo n k).xferQ = s.xferQ := rfl
@[simp] theorem State.count_chains (s : State) (a lo n k : Nat) : (s.count a lo n k).chains = s.chains := rfl
@[simp] theorem State.count_contribs (s : State) (a lo n k : Nat) : (s.count a lo n k).contribs = s.contribs := rfl
@[simp] theorem State.count_plait (s : State) (a lo n k : Nat) : (s.count a lo n k).plait = s.plait := rfl
@[simp] theorem State.count_edges (s : State) (a lo n k : Nat) : (s.count a lo n k).edges = s.edges := rfl
@[simp] theorem State.count_colls (s : State) (a lo n k : Nat) : (s.count a lo n k).colls = s.colls := rfl
@[simp] theorem State.count_jobs (s : State) (a lo n k : Nat) : (s.count a lo n k).jobs = s.jobs := rfl
@[simp] theorem State.count_conns (s : State) (a lo n k : Nat) : (s.count a lo n k).conns = s.conns := rfl
@[simp] theorem State.count_ledger (s : State) (a lo n k : Nat) : (s.count a lo n k).ledger = s.ledger := rfl
@[simp] theorem State.count_tables (s : State) (a lo n k : Nat) : (s.count a lo n k).tables = s.tables := rfl
@[simp] theorem State.count_slices (s : State) (a lo n k : Nat) : (s.count a lo n k).slices = s.slices := rfl
@[simp] theorem State.count_hoists (s : State) (a lo n k : Nat) : (s.count a lo n k).hoists = s.hoists := rfl
@[simp] theorem State.count_otp (s : State) (a lo n k : Nat) : (s.count a lo n k).otp = s.otp := rfl
@[simp] theorem State.count_sec (s : State) (a lo n k : Nat) : (s.count a lo n k).sec = s.sec := rfl
@[simp] theorem State.count_flash (s : State) (a lo n k : Nat) : (s.count a lo n k).flash = s.flash := rfl
@[simp] theorem State.count_fw (s : State) (a lo n k : Nat) : (s.count a lo n k).fw = s.fw := rfl
@[simp] theorem State.count_mm (s : State) (a lo n k : Nat) : (s.count a lo n k).mm = s.mm := rfl
@[simp] theorem State.count_power (s : State) (a lo n k : Nat) : (s.count a lo n k).power = s.power := rfl
@[simp] theorem State.count_tap (s : State) (a lo n k : Nat) : (s.count a lo n k).tap = s.tap := rfl

@[simp] theorem State.numbered_pending (s : State) : (s.numbered).pending = s.pending := rfl
@[simp] theorem State.numbered_free (s : State) : (s.numbered).free = s.free := rfl
@[simp] theorem State.numbered_out (s : State) : (s.numbered).out = s.out := rfl
@[simp] theorem State.numbered_evq (s : State) : (s.numbered).evq = s.evq := rfl
@[simp] theorem State.numbered_usecN (s : State) : (s.numbered).usecN = s.usecN := rfl
@[simp] theorem State.numbered_regs (s : State) : (s.numbered).regs = s.regs := rfl
@[simp] theorem State.numbered_latch (s : State) : (s.numbered).latch = s.latch := rfl
@[simp] theorem State.numbered_mem (s : State) : (s.numbered).mem = s.mem := rfl
@[simp] theorem State.numbered_ecc (s : State) : (s.numbered).ecc = s.ecc := rfl
@[simp] theorem State.numbered_banks (s : State) : (s.numbered).banks = s.banks := rfl
@[simp] theorem State.numbered_tasks (s : State) : (s.numbered).tasks = s.tasks := rfl
@[simp] theorem State.numbered_ctx (s : State) : (s.numbered).ctx = s.ctx := rfl
@[simp] theorem State.numbered_cores (s : State) : (s.numbered).cores = s.cores := rfl
@[simp] theorem State.numbered_posted (s : State) : (s.numbered).posted = s.posted := rfl
@[simp] theorem State.numbered_adds (s : State) : (s.numbered).adds = s.adds := rfl
@[simp] theorem State.numbered_deferred (s : State) : (s.numbered).deferred = s.deferred := rfl
@[simp] theorem State.numbered_tokens (s : State) : (s.numbered).tokens = s.tokens := rfl
@[simp] theorem State.numbered_srf (s : State) : (s.numbered).srf = s.srf := rfl
@[simp] theorem State.numbered_engines (s : State) : (s.numbered).engines = s.engines := rfl
@[simp] theorem State.numbered_arrays (s : State) : (s.numbered).arrays = s.arrays := rfl
@[simp] theorem State.numbered_queues (s : State) : (s.numbered).queues = s.queues := rfl
@[simp] theorem State.numbered_xferQ (s : State) : (s.numbered).xferQ = s.xferQ := rfl
@[simp] theorem State.numbered_chains (s : State) : (s.numbered).chains = s.chains := rfl
@[simp] theorem State.numbered_contribs (s : State) : (s.numbered).contribs = s.contribs := rfl
@[simp] theorem State.numbered_plait (s : State) : (s.numbered).plait = s.plait := rfl
@[simp] theorem State.numbered_edges (s : State) : (s.numbered).edges = s.edges := rfl
@[simp] theorem State.numbered_colls (s : State) : (s.numbered).colls = s.colls := rfl
@[simp] theorem State.numbered_jobs (s : State) : (s.numbered).jobs = s.jobs := rfl
@[simp] theorem State.numbered_conns (s : State) : (s.numbered).conns = s.conns := rfl
@[simp] theorem State.numbered_ledger (s : State) : (s.numbered).ledger = s.ledger := rfl
@[simp] theorem State.numbered_tables (s : State) : (s.numbered).tables = s.tables := rfl
@[simp] theorem State.numbered_slices (s : State) : (s.numbered).slices = s.slices := rfl
@[simp] theorem State.numbered_hoists (s : State) : (s.numbered).hoists = s.hoists := rfl
@[simp] theorem State.numbered_otp (s : State) : (s.numbered).otp = s.otp := rfl
@[simp] theorem State.numbered_sec (s : State) : (s.numbered).sec = s.sec := rfl
@[simp] theorem State.numbered_flash (s : State) : (s.numbered).flash = s.flash := rfl
@[simp] theorem State.numbered_fw (s : State) : (s.numbered).fw = s.fw := rfl
@[simp] theorem State.numbered_mm (s : State) : (s.numbered).mm = s.mm := rfl
@[simp] theorem State.numbered_power (s : State) : (s.numbered).power = s.power := rfl
@[simp] theorem State.numbered_tap (s : State) : (s.numbered).tap = s.tap := rfl

@[simp] theorem State.emit_pending (s : State) (o : Out) : (s.emit o).pending = s.pending := rfl
@[simp] theorem State.emit_free (s : State) (o : Out) : (s.emit o).free = s.free := rfl
@[simp] theorem State.emit_tick (s : State) (o : Out) : (s.emit o).tick = s.tick := rfl
@[simp] theorem State.emit_evq (s : State) (o : Out) : (s.emit o).evq = s.evq := rfl
@[simp] theorem State.emit_usecN (s : State) (o : Out) : (s.emit o).usecN = s.usecN := rfl
@[simp] theorem State.emit_regs (s : State) (o : Out) : (s.emit o).regs = s.regs := rfl
@[simp] theorem State.emit_latch (s : State) (o : Out) : (s.emit o).latch = s.latch := rfl
@[simp] theorem State.emit_mem (s : State) (o : Out) : (s.emit o).mem = s.mem := rfl
@[simp] theorem State.emit_ecc (s : State) (o : Out) : (s.emit o).ecc = s.ecc := rfl
@[simp] theorem State.emit_banks (s : State) (o : Out) : (s.emit o).banks = s.banks := rfl
@[simp] theorem State.emit_tasks (s : State) (o : Out) : (s.emit o).tasks = s.tasks := rfl
@[simp] theorem State.emit_ctx (s : State) (o : Out) : (s.emit o).ctx = s.ctx := rfl
@[simp] theorem State.emit_cores (s : State) (o : Out) : (s.emit o).cores = s.cores := rfl
@[simp] theorem State.emit_posted (s : State) (o : Out) : (s.emit o).posted = s.posted := rfl
@[simp] theorem State.emit_adds (s : State) (o : Out) : (s.emit o).adds = s.adds := rfl
@[simp] theorem State.emit_deferred (s : State) (o : Out) : (s.emit o).deferred = s.deferred := rfl
@[simp] theorem State.emit_tokens (s : State) (o : Out) : (s.emit o).tokens = s.tokens := rfl
@[simp] theorem State.emit_srf (s : State) (o : Out) : (s.emit o).srf = s.srf := rfl
@[simp] theorem State.emit_engines (s : State) (o : Out) : (s.emit o).engines = s.engines := rfl
@[simp] theorem State.emit_arrays (s : State) (o : Out) : (s.emit o).arrays = s.arrays := rfl
@[simp] theorem State.emit_queues (s : State) (o : Out) : (s.emit o).queues = s.queues := rfl
@[simp] theorem State.emit_xferQ (s : State) (o : Out) : (s.emit o).xferQ = s.xferQ := rfl
@[simp] theorem State.emit_chains (s : State) (o : Out) : (s.emit o).chains = s.chains := rfl
@[simp] theorem State.emit_contribs (s : State) (o : Out) : (s.emit o).contribs = s.contribs := rfl
@[simp] theorem State.emit_plait (s : State) (o : Out) : (s.emit o).plait = s.plait := rfl
@[simp] theorem State.emit_edges (s : State) (o : Out) : (s.emit o).edges = s.edges := rfl
@[simp] theorem State.emit_colls (s : State) (o : Out) : (s.emit o).colls = s.colls := rfl
@[simp] theorem State.emit_jobs (s : State) (o : Out) : (s.emit o).jobs = s.jobs := rfl
@[simp] theorem State.emit_conns (s : State) (o : Out) : (s.emit o).conns = s.conns := rfl
@[simp] theorem State.emit_ledger (s : State) (o : Out) : (s.emit o).ledger = s.ledger := rfl
@[simp] theorem State.emit_tables (s : State) (o : Out) : (s.emit o).tables = s.tables := rfl
@[simp] theorem State.emit_slices (s : State) (o : Out) : (s.emit o).slices = s.slices := rfl
@[simp] theorem State.emit_hoists (s : State) (o : Out) : (s.emit o).hoists = s.hoists := rfl
@[simp] theorem State.emit_otp (s : State) (o : Out) : (s.emit o).otp = s.otp := rfl
@[simp] theorem State.emit_sec (s : State) (o : Out) : (s.emit o).sec = s.sec := rfl
@[simp] theorem State.emit_flash (s : State) (o : Out) : (s.emit o).flash = s.flash := rfl
@[simp] theorem State.emit_fw (s : State) (o : Out) : (s.emit o).fw = s.fw := rfl
@[simp] theorem State.emit_mm (s : State) (o : Out) : (s.emit o).mm = s.mm := rfl
@[simp] theorem State.emit_power (s : State) (o : Out) : (s.emit o).power = s.power := rfl
@[simp] theorem State.emit_tap (s : State) (o : Out) : (s.emit o).tap = s.tap := rfl

@[simp] theorem State.raise_pending (s : State) (c : Code) (k : EvClass) (w : Nat) (d : List Nat) : (s.raise c k w d).pending = s.pending := rfl
@[simp] theorem State.raise_free (s : State) (c : Code) (k : EvClass) (w : Nat) (d : List Nat) : (s.raise c k w d).free = s.free := rfl
@[simp] theorem State.raise_tick (s : State) (c : Code) (k : EvClass) (w : Nat) (d : List Nat) : (s.raise c k w d).tick = s.tick := rfl
@[simp] theorem State.raise_out (s : State) (c : Code) (k : EvClass) (w : Nat) (d : List Nat) : (s.raise c k w d).out = s.out := rfl
@[simp] theorem State.raise_usecN (s : State) (c : Code) (k : EvClass) (w : Nat) (d : List Nat) : (s.raise c k w d).usecN = s.usecN := rfl
@[simp] theorem State.raise_latch (s : State) (c : Code) (k : EvClass) (w : Nat) (d : List Nat) : (s.raise c k w d).latch = s.latch := rfl
@[simp] theorem State.raise_mem (s : State) (c : Code) (k : EvClass) (w : Nat) (d : List Nat) : (s.raise c k w d).mem = s.mem := rfl
@[simp] theorem State.raise_ecc (s : State) (c : Code) (k : EvClass) (w : Nat) (d : List Nat) : (s.raise c k w d).ecc = s.ecc := rfl
@[simp] theorem State.raise_banks (s : State) (c : Code) (k : EvClass) (w : Nat) (d : List Nat) : (s.raise c k w d).banks = s.banks := rfl
@[simp] theorem State.raise_tasks (s : State) (c : Code) (k : EvClass) (w : Nat) (d : List Nat) : (s.raise c k w d).tasks = s.tasks := rfl
@[simp] theorem State.raise_ctx (s : State) (c : Code) (k : EvClass) (w : Nat) (d : List Nat) : (s.raise c k w d).ctx = s.ctx := rfl
@[simp] theorem State.raise_cores (s : State) (c : Code) (k : EvClass) (w : Nat) (d : List Nat) : (s.raise c k w d).cores = s.cores := rfl
@[simp] theorem State.raise_posted (s : State) (c : Code) (k : EvClass) (w : Nat) (d : List Nat) : (s.raise c k w d).posted = s.posted := rfl
@[simp] theorem State.raise_adds (s : State) (c : Code) (k : EvClass) (w : Nat) (d : List Nat) : (s.raise c k w d).adds = s.adds := rfl
@[simp] theorem State.raise_deferred (s : State) (c : Code) (k : EvClass) (w : Nat) (d : List Nat) : (s.raise c k w d).deferred = s.deferred := rfl
@[simp] theorem State.raise_tokens (s : State) (c : Code) (k : EvClass) (w : Nat) (d : List Nat) : (s.raise c k w d).tokens = s.tokens := rfl
@[simp] theorem State.raise_srf (s : State) (c : Code) (k : EvClass) (w : Nat) (d : List Nat) : (s.raise c k w d).srf = s.srf := rfl
@[simp] theorem State.raise_engines (s : State) (c : Code) (k : EvClass) (w : Nat) (d : List Nat) : (s.raise c k w d).engines = s.engines := rfl
@[simp] theorem State.raise_arrays (s : State) (c : Code) (k : EvClass) (w : Nat) (d : List Nat) : (s.raise c k w d).arrays = s.arrays := rfl
@[simp] theorem State.raise_queues (s : State) (c : Code) (k : EvClass) (w : Nat) (d : List Nat) : (s.raise c k w d).queues = s.queues := rfl
@[simp] theorem State.raise_xferQ (s : State) (c : Code) (k : EvClass) (w : Nat) (d : List Nat) : (s.raise c k w d).xferQ = s.xferQ := rfl
@[simp] theorem State.raise_chains (s : State) (c : Code) (k : EvClass) (w : Nat) (d : List Nat) : (s.raise c k w d).chains = s.chains := rfl
@[simp] theorem State.raise_contribs (s : State) (c : Code) (k : EvClass) (w : Nat) (d : List Nat) : (s.raise c k w d).contribs = s.contribs := rfl
@[simp] theorem State.raise_plait (s : State) (c : Code) (k : EvClass) (w : Nat) (d : List Nat) : (s.raise c k w d).plait = s.plait := rfl
@[simp] theorem State.raise_edges (s : State) (c : Code) (k : EvClass) (w : Nat) (d : List Nat) : (s.raise c k w d).edges = s.edges := rfl
@[simp] theorem State.raise_colls (s : State) (c : Code) (k : EvClass) (w : Nat) (d : List Nat) : (s.raise c k w d).colls = s.colls := rfl
@[simp] theorem State.raise_jobs (s : State) (c : Code) (k : EvClass) (w : Nat) (d : List Nat) : (s.raise c k w d).jobs = s.jobs := rfl
@[simp] theorem State.raise_conns (s : State) (c : Code) (k : EvClass) (w : Nat) (d : List Nat) : (s.raise c k w d).conns = s.conns := rfl
@[simp] theorem State.raise_ledger (s : State) (c : Code) (k : EvClass) (w : Nat) (d : List Nat) : (s.raise c k w d).ledger = s.ledger := rfl
@[simp] theorem State.raise_tables (s : State) (c : Code) (k : EvClass) (w : Nat) (d : List Nat) : (s.raise c k w d).tables = s.tables := rfl
@[simp] theorem State.raise_slices (s : State) (c : Code) (k : EvClass) (w : Nat) (d : List Nat) : (s.raise c k w d).slices = s.slices := rfl
@[simp] theorem State.raise_hoists (s : State) (c : Code) (k : EvClass) (w : Nat) (d : List Nat) : (s.raise c k w d).hoists = s.hoists := rfl
@[simp] theorem State.raise_otp (s : State) (c : Code) (k : EvClass) (w : Nat) (d : List Nat) : (s.raise c k w d).otp = s.otp := rfl
@[simp] theorem State.raise_sec (s : State) (c : Code) (k : EvClass) (w : Nat) (d : List Nat) : (s.raise c k w d).sec = s.sec := rfl
@[simp] theorem State.raise_flash (s : State) (c : Code) (k : EvClass) (w : Nat) (d : List Nat) : (s.raise c k w d).flash = s.flash := rfl
@[simp] theorem State.raise_fw (s : State) (c : Code) (k : EvClass) (w : Nat) (d : List Nat) : (s.raise c k w d).fw = s.fw := rfl
@[simp] theorem State.raise_mm (s : State) (c : Code) (k : EvClass) (w : Nat) (d : List Nat) : (s.raise c k w d).mm = s.mm := rfl
@[simp] theorem State.raise_power (s : State) (c : Code) (k : EvClass) (w : Nat) (d : List Nat) : (s.raise c k w d).power = s.power := rfl
@[simp] theorem State.raise_tap (s : State) (c : Code) (k : EvClass) (w : Nat) (d : List Nat) : (s.raise c k w d).tap = s.tap := rfl

@[simp] theorem State.setBank_pending (s : State) (b : Nat) (v : BankSt) : (s.setBank b v).pending = s.pending := rfl
@[simp] theorem State.setBank_free (s : State) (b : Nat) (v : BankSt) : (s.setBank b v).free = s.free := rfl
@[simp] theorem State.setBank_tick (s : State) (b : Nat) (v : BankSt) : (s.setBank b v).tick = s.tick := rfl
@[simp] theorem State.setBank_out (s : State) (b : Nat) (v : BankSt) : (s.setBank b v).out = s.out := rfl
@[simp] theorem State.setBank_evq (s : State) (b : Nat) (v : BankSt) : (s.setBank b v).evq = s.evq := rfl
@[simp] theorem State.setBank_usecN (s : State) (b : Nat) (v : BankSt) : (s.setBank b v).usecN = s.usecN := rfl
@[simp] theorem State.setBank_regs (s : State) (b : Nat) (v : BankSt) : (s.setBank b v).regs = s.regs := rfl
@[simp] theorem State.setBank_latch (s : State) (b : Nat) (v : BankSt) : (s.setBank b v).latch = s.latch := rfl
@[simp] theorem State.setBank_mem (s : State) (b : Nat) (v : BankSt) : (s.setBank b v).mem = s.mem := rfl
@[simp] theorem State.setBank_ecc (s : State) (b : Nat) (v : BankSt) : (s.setBank b v).ecc = s.ecc := rfl
@[simp] theorem State.setBank_tasks (s : State) (b : Nat) (v : BankSt) : (s.setBank b v).tasks = s.tasks := rfl
@[simp] theorem State.setBank_ctx (s : State) (b : Nat) (v : BankSt) : (s.setBank b v).ctx = s.ctx := rfl
@[simp] theorem State.setBank_cores (s : State) (b : Nat) (v : BankSt) : (s.setBank b v).cores = s.cores := rfl
@[simp] theorem State.setBank_posted (s : State) (b : Nat) (v : BankSt) : (s.setBank b v).posted = s.posted := rfl
@[simp] theorem State.setBank_adds (s : State) (b : Nat) (v : BankSt) : (s.setBank b v).adds = s.adds := rfl
@[simp] theorem State.setBank_deferred (s : State) (b : Nat) (v : BankSt) : (s.setBank b v).deferred = s.deferred := rfl
@[simp] theorem State.setBank_tokens (s : State) (b : Nat) (v : BankSt) : (s.setBank b v).tokens = s.tokens := rfl
@[simp] theorem State.setBank_srf (s : State) (b : Nat) (v : BankSt) : (s.setBank b v).srf = s.srf := rfl
@[simp] theorem State.setBank_engines (s : State) (b : Nat) (v : BankSt) : (s.setBank b v).engines = s.engines := rfl
@[simp] theorem State.setBank_arrays (s : State) (b : Nat) (v : BankSt) : (s.setBank b v).arrays = s.arrays := rfl
@[simp] theorem State.setBank_queues (s : State) (b : Nat) (v : BankSt) : (s.setBank b v).queues = s.queues := rfl
@[simp] theorem State.setBank_xferQ (s : State) (b : Nat) (v : BankSt) : (s.setBank b v).xferQ = s.xferQ := rfl
@[simp] theorem State.setBank_chains (s : State) (b : Nat) (v : BankSt) : (s.setBank b v).chains = s.chains := rfl
@[simp] theorem State.setBank_contribs (s : State) (b : Nat) (v : BankSt) : (s.setBank b v).contribs = s.contribs := rfl
@[simp] theorem State.setBank_plait (s : State) (b : Nat) (v : BankSt) : (s.setBank b v).plait = s.plait := rfl
@[simp] theorem State.setBank_edges (s : State) (b : Nat) (v : BankSt) : (s.setBank b v).edges = s.edges := rfl
@[simp] theorem State.setBank_colls (s : State) (b : Nat) (v : BankSt) : (s.setBank b v).colls = s.colls := rfl
@[simp] theorem State.setBank_jobs (s : State) (b : Nat) (v : BankSt) : (s.setBank b v).jobs = s.jobs := rfl
@[simp] theorem State.setBank_conns (s : State) (b : Nat) (v : BankSt) : (s.setBank b v).conns = s.conns := rfl
@[simp] theorem State.setBank_ledger (s : State) (b : Nat) (v : BankSt) : (s.setBank b v).ledger = s.ledger := rfl
@[simp] theorem State.setBank_tables (s : State) (b : Nat) (v : BankSt) : (s.setBank b v).tables = s.tables := rfl
@[simp] theorem State.setBank_slices (s : State) (b : Nat) (v : BankSt) : (s.setBank b v).slices = s.slices := rfl
@[simp] theorem State.setBank_hoists (s : State) (b : Nat) (v : BankSt) : (s.setBank b v).hoists = s.hoists := rfl
@[simp] theorem State.setBank_otp (s : State) (b : Nat) (v : BankSt) : (s.setBank b v).otp = s.otp := rfl
@[simp] theorem State.setBank_sec (s : State) (b : Nat) (v : BankSt) : (s.setBank b v).sec = s.sec := rfl
@[simp] theorem State.setBank_flash (s : State) (b : Nat) (v : BankSt) : (s.setBank b v).flash = s.flash := rfl
@[simp] theorem State.setBank_fw (s : State) (b : Nat) (v : BankSt) : (s.setBank b v).fw = s.fw := rfl
@[simp] theorem State.setBank_mm (s : State) (b : Nat) (v : BankSt) : (s.setBank b v).mm = s.mm := rfl
@[simp] theorem State.setBank_power (s : State) (b : Nat) (v : BankSt) : (s.setBank b v).power = s.power := rfl
@[simp] theorem State.setBank_tap (s : State) (b : Nat) (v : BankSt) : (s.setBank b v).tap = s.tap := rfl

@[simp] theorem State.setByte_pending (s : State) (a : Nat) (v : Byte) : (s.setByte a v).pending = s.pending := rfl
@[simp] theorem State.setByte_free (s : State) (a : Nat) (v : Byte) : (s.setByte a v).free = s.free := rfl
@[simp] theorem State.setByte_tick (s : State) (a : Nat) (v : Byte) : (s.setByte a v).tick = s.tick := rfl
@[simp] theorem State.setByte_out (s : State) (a : Nat) (v : Byte) : (s.setByte a v).out = s.out := rfl
@[simp] theorem State.setByte_evq (s : State) (a : Nat) (v : Byte) : (s.setByte a v).evq = s.evq := rfl
@[simp] theorem State.setByte_usecN (s : State) (a : Nat) (v : Byte) : (s.setByte a v).usecN = s.usecN := rfl
@[simp] theorem State.setByte_regs (s : State) (a : Nat) (v : Byte) : (s.setByte a v).regs = s.regs := rfl
@[simp] theorem State.setByte_latch (s : State) (a : Nat) (v : Byte) : (s.setByte a v).latch = s.latch := rfl
@[simp] theorem State.setByte_ecc (s : State) (a : Nat) (v : Byte) : (s.setByte a v).ecc = s.ecc := rfl
@[simp] theorem State.setByte_banks (s : State) (a : Nat) (v : Byte) : (s.setByte a v).banks = s.banks := rfl
@[simp] theorem State.setByte_tasks (s : State) (a : Nat) (v : Byte) : (s.setByte a v).tasks = s.tasks := rfl
@[simp] theorem State.setByte_ctx (s : State) (a : Nat) (v : Byte) : (s.setByte a v).ctx = s.ctx := rfl
@[simp] theorem State.setByte_cores (s : State) (a : Nat) (v : Byte) : (s.setByte a v).cores = s.cores := rfl
@[simp] theorem State.setByte_posted (s : State) (a : Nat) (v : Byte) : (s.setByte a v).posted = s.posted := rfl
@[simp] theorem State.setByte_adds (s : State) (a : Nat) (v : Byte) : (s.setByte a v).adds = s.adds := rfl
@[simp] theorem State.setByte_deferred (s : State) (a : Nat) (v : Byte) : (s.setByte a v).deferred = s.deferred := rfl
@[simp] theorem State.setByte_tokens (s : State) (a : Nat) (v : Byte) : (s.setByte a v).tokens = s.tokens := rfl
@[simp] theorem State.setByte_srf (s : State) (a : Nat) (v : Byte) : (s.setByte a v).srf = s.srf := rfl
@[simp] theorem State.setByte_engines (s : State) (a : Nat) (v : Byte) : (s.setByte a v).engines = s.engines := rfl
@[simp] theorem State.setByte_arrays (s : State) (a : Nat) (v : Byte) : (s.setByte a v).arrays = s.arrays := rfl
@[simp] theorem State.setByte_queues (s : State) (a : Nat) (v : Byte) : (s.setByte a v).queues = s.queues := rfl
@[simp] theorem State.setByte_xferQ (s : State) (a : Nat) (v : Byte) : (s.setByte a v).xferQ = s.xferQ := rfl
@[simp] theorem State.setByte_chains (s : State) (a : Nat) (v : Byte) : (s.setByte a v).chains = s.chains := rfl
@[simp] theorem State.setByte_contribs (s : State) (a : Nat) (v : Byte) : (s.setByte a v).contribs = s.contribs := rfl
@[simp] theorem State.setByte_plait (s : State) (a : Nat) (v : Byte) : (s.setByte a v).plait = s.plait := rfl
@[simp] theorem State.setByte_edges (s : State) (a : Nat) (v : Byte) : (s.setByte a v).edges = s.edges := rfl
@[simp] theorem State.setByte_colls (s : State) (a : Nat) (v : Byte) : (s.setByte a v).colls = s.colls := rfl
@[simp] theorem State.setByte_jobs (s : State) (a : Nat) (v : Byte) : (s.setByte a v).jobs = s.jobs := rfl
@[simp] theorem State.setByte_conns (s : State) (a : Nat) (v : Byte) : (s.setByte a v).conns = s.conns := rfl
@[simp] theorem State.setByte_ledger (s : State) (a : Nat) (v : Byte) : (s.setByte a v).ledger = s.ledger := rfl
@[simp] theorem State.setByte_tables (s : State) (a : Nat) (v : Byte) : (s.setByte a v).tables = s.tables := rfl
@[simp] theorem State.setByte_slices (s : State) (a : Nat) (v : Byte) : (s.setByte a v).slices = s.slices := rfl
@[simp] theorem State.setByte_hoists (s : State) (a : Nat) (v : Byte) : (s.setByte a v).hoists = s.hoists := rfl
@[simp] theorem State.setByte_otp (s : State) (a : Nat) (v : Byte) : (s.setByte a v).otp = s.otp := rfl
@[simp] theorem State.setByte_sec (s : State) (a : Nat) (v : Byte) : (s.setByte a v).sec = s.sec := rfl
@[simp] theorem State.setByte_flash (s : State) (a : Nat) (v : Byte) : (s.setByte a v).flash = s.flash := rfl
@[simp] theorem State.setByte_fw (s : State) (a : Nat) (v : Byte) : (s.setByte a v).fw = s.fw := rfl
@[simp] theorem State.setByte_mm (s : State) (a : Nat) (v : Byte) : (s.setByte a v).mm = s.mm := rfl
@[simp] theorem State.setByte_power (s : State) (a : Nat) (v : Byte) : (s.setByte a v).power = s.power := rfl
@[simp] theorem State.setByte_tap (s : State) (a : Nat) (v : Byte) : (s.setByte a v).tap = s.tap := rfl

@[simp] theorem State.setMark_pending (s : State) (a m : Nat) : (s.setMark a m).pending = s.pending := rfl
@[simp] theorem State.setMark_free (s : State) (a m : Nat) : (s.setMark a m).free = s.free := rfl
@[simp] theorem State.setMark_tick (s : State) (a m : Nat) : (s.setMark a m).tick = s.tick := rfl
@[simp] theorem State.setMark_out (s : State) (a m : Nat) : (s.setMark a m).out = s.out := rfl
@[simp] theorem State.setMark_evq (s : State) (a m : Nat) : (s.setMark a m).evq = s.evq := rfl
@[simp] theorem State.setMark_usecN (s : State) (a m : Nat) : (s.setMark a m).usecN = s.usecN := rfl
@[simp] theorem State.setMark_regs (s : State) (a m : Nat) : (s.setMark a m).regs = s.regs := rfl
@[simp] theorem State.setMark_latch (s : State) (a m : Nat) : (s.setMark a m).latch = s.latch := rfl
@[simp] theorem State.setMark_mem (s : State) (a m : Nat) : (s.setMark a m).mem = s.mem := rfl
@[simp] theorem State.setMark_banks (s : State) (a m : Nat) : (s.setMark a m).banks = s.banks := rfl
@[simp] theorem State.setMark_tasks (s : State) (a m : Nat) : (s.setMark a m).tasks = s.tasks := rfl
@[simp] theorem State.setMark_ctx (s : State) (a m : Nat) : (s.setMark a m).ctx = s.ctx := rfl
@[simp] theorem State.setMark_cores (s : State) (a m : Nat) : (s.setMark a m).cores = s.cores := rfl
@[simp] theorem State.setMark_posted (s : State) (a m : Nat) : (s.setMark a m).posted = s.posted := rfl
@[simp] theorem State.setMark_adds (s : State) (a m : Nat) : (s.setMark a m).adds = s.adds := rfl
@[simp] theorem State.setMark_deferred (s : State) (a m : Nat) : (s.setMark a m).deferred = s.deferred := rfl
@[simp] theorem State.setMark_tokens (s : State) (a m : Nat) : (s.setMark a m).tokens = s.tokens := rfl
@[simp] theorem State.setMark_srf (s : State) (a m : Nat) : (s.setMark a m).srf = s.srf := rfl
@[simp] theorem State.setMark_engines (s : State) (a m : Nat) : (s.setMark a m).engines = s.engines := rfl
@[simp] theorem State.setMark_arrays (s : State) (a m : Nat) : (s.setMark a m).arrays = s.arrays := rfl
@[simp] theorem State.setMark_queues (s : State) (a m : Nat) : (s.setMark a m).queues = s.queues := rfl
@[simp] theorem State.setMark_xferQ (s : State) (a m : Nat) : (s.setMark a m).xferQ = s.xferQ := rfl
@[simp] theorem State.setMark_chains (s : State) (a m : Nat) : (s.setMark a m).chains = s.chains := rfl
@[simp] theorem State.setMark_contribs (s : State) (a m : Nat) : (s.setMark a m).contribs = s.contribs := rfl
@[simp] theorem State.setMark_plait (s : State) (a m : Nat) : (s.setMark a m).plait = s.plait := rfl
@[simp] theorem State.setMark_edges (s : State) (a m : Nat) : (s.setMark a m).edges = s.edges := rfl
@[simp] theorem State.setMark_colls (s : State) (a m : Nat) : (s.setMark a m).colls = s.colls := rfl
@[simp] theorem State.setMark_jobs (s : State) (a m : Nat) : (s.setMark a m).jobs = s.jobs := rfl
@[simp] theorem State.setMark_conns (s : State) (a m : Nat) : (s.setMark a m).conns = s.conns := rfl
@[simp] theorem State.setMark_ledger (s : State) (a m : Nat) : (s.setMark a m).ledger = s.ledger := rfl
@[simp] theorem State.setMark_tables (s : State) (a m : Nat) : (s.setMark a m).tables = s.tables := rfl
@[simp] theorem State.setMark_slices (s : State) (a m : Nat) : (s.setMark a m).slices = s.slices := rfl
@[simp] theorem State.setMark_hoists (s : State) (a m : Nat) : (s.setMark a m).hoists = s.hoists := rfl
@[simp] theorem State.setMark_otp (s : State) (a m : Nat) : (s.setMark a m).otp = s.otp := rfl
@[simp] theorem State.setMark_sec (s : State) (a m : Nat) : (s.setMark a m).sec = s.sec := rfl
@[simp] theorem State.setMark_flash (s : State) (a m : Nat) : (s.setMark a m).flash = s.flash := rfl
@[simp] theorem State.setMark_fw (s : State) (a m : Nat) : (s.setMark a m).fw = s.fw := rfl
@[simp] theorem State.setMark_mm (s : State) (a m : Nat) : (s.setMark a m).mm = s.mm := rfl
@[simp] theorem State.setMark_power (s : State) (a m : Nat) : (s.setMark a m).power = s.power := rfl
@[simp] theorem State.setMark_tap (s : State) (a m : Nat) : (s.setMark a m).tap = s.tap := rfl

@[simp] theorem State.refill_pending (s : State) (b f : Nat) : (s.refill b f).pending = s.pending := rfl
@[simp] theorem State.refill_free (s : State) (b f : Nat) : (s.refill b f).free = s.free := rfl
@[simp] theorem State.refill_tick (s : State) (b f : Nat) : (s.refill b f).tick = s.tick := rfl
@[simp] theorem State.refill_out (s : State) (b f : Nat) : (s.refill b f).out = s.out := rfl
@[simp] theorem State.refill_evq (s : State) (b f : Nat) : (s.refill b f).evq = s.evq := rfl
@[simp] theorem State.refill_usecN (s : State) (b f : Nat) : (s.refill b f).usecN = s.usecN := rfl
@[simp] theorem State.refill_regs (s : State) (b f : Nat) : (s.refill b f).regs = s.regs := rfl
@[simp] theorem State.refill_latch (s : State) (b f : Nat) : (s.refill b f).latch = s.latch := rfl
@[simp] theorem State.refill_tasks (s : State) (b f : Nat) : (s.refill b f).tasks = s.tasks := rfl
@[simp] theorem State.refill_ctx (s : State) (b f : Nat) : (s.refill b f).ctx = s.ctx := rfl
@[simp] theorem State.refill_cores (s : State) (b f : Nat) : (s.refill b f).cores = s.cores := rfl
@[simp] theorem State.refill_posted (s : State) (b f : Nat) : (s.refill b f).posted = s.posted := rfl
@[simp] theorem State.refill_adds (s : State) (b f : Nat) : (s.refill b f).adds = s.adds := rfl
@[simp] theorem State.refill_deferred (s : State) (b f : Nat) : (s.refill b f).deferred = s.deferred := rfl
@[simp] theorem State.refill_tokens (s : State) (b f : Nat) : (s.refill b f).tokens = s.tokens := rfl
@[simp] theorem State.refill_srf (s : State) (b f : Nat) : (s.refill b f).srf = s.srf := rfl
@[simp] theorem State.refill_engines (s : State) (b f : Nat) : (s.refill b f).engines = s.engines := rfl
@[simp] theorem State.refill_arrays (s : State) (b f : Nat) : (s.refill b f).arrays = s.arrays := rfl
@[simp] theorem State.refill_queues (s : State) (b f : Nat) : (s.refill b f).queues = s.queues := rfl
@[simp] theorem State.refill_xferQ (s : State) (b f : Nat) : (s.refill b f).xferQ = s.xferQ := rfl
@[simp] theorem State.refill_chains (s : State) (b f : Nat) : (s.refill b f).chains = s.chains := rfl
@[simp] theorem State.refill_contribs (s : State) (b f : Nat) : (s.refill b f).contribs = s.contribs := rfl
@[simp] theorem State.refill_plait (s : State) (b f : Nat) : (s.refill b f).plait = s.plait := rfl
@[simp] theorem State.refill_edges (s : State) (b f : Nat) : (s.refill b f).edges = s.edges := rfl
@[simp] theorem State.refill_colls (s : State) (b f : Nat) : (s.refill b f).colls = s.colls := rfl
@[simp] theorem State.refill_jobs (s : State) (b f : Nat) : (s.refill b f).jobs = s.jobs := rfl
@[simp] theorem State.refill_conns (s : State) (b f : Nat) : (s.refill b f).conns = s.conns := rfl
@[simp] theorem State.refill_ledger (s : State) (b f : Nat) : (s.refill b f).ledger = s.ledger := rfl
@[simp] theorem State.refill_tables (s : State) (b f : Nat) : (s.refill b f).tables = s.tables := rfl
@[simp] theorem State.refill_slices (s : State) (b f : Nat) : (s.refill b f).slices = s.slices := rfl
@[simp] theorem State.refill_hoists (s : State) (b f : Nat) : (s.refill b f).hoists = s.hoists := rfl
@[simp] theorem State.refill_otp (s : State) (b f : Nat) : (s.refill b f).otp = s.otp := rfl
@[simp] theorem State.refill_sec (s : State) (b f : Nat) : (s.refill b f).sec = s.sec := rfl
@[simp] theorem State.refill_flash (s : State) (b f : Nat) : (s.refill b f).flash = s.flash := rfl
@[simp] theorem State.refill_fw (s : State) (b f : Nat) : (s.refill b f).fw = s.fw := rfl
@[simp] theorem State.refill_mm (s : State) (b f : Nat) : (s.refill b f).mm = s.mm := rfl
@[simp] theorem State.refill_power (s : State) (b f : Nat) : (s.refill b f).power = s.power := rfl
@[simp] theorem State.refill_tap (s : State) (b f : Nat) : (s.refill b f).tap = s.tap := rfl

@[simp] theorem State.setContext_pending (s : State) (x : Nat) (c : Ctx) : (s.setContext x c).pending = s.pending := rfl
@[simp] theorem State.setContext_free (s : State) (x : Nat) (c : Ctx) : (s.setContext x c).free = s.free := rfl
@[simp] theorem State.setContext_tick (s : State) (x : Nat) (c : Ctx) : (s.setContext x c).tick = s.tick := rfl
@[simp] theorem State.setContext_out (s : State) (x : Nat) (c : Ctx) : (s.setContext x c).out = s.out := rfl
@[simp] theorem State.setContext_evq (s : State) (x : Nat) (c : Ctx) : (s.setContext x c).evq = s.evq := rfl
@[simp] theorem State.setContext_usecN (s : State) (x : Nat) (c : Ctx) : (s.setContext x c).usecN = s.usecN := rfl
@[simp] theorem State.setContext_regs (s : State) (x : Nat) (c : Ctx) : (s.setContext x c).regs = s.regs := rfl
@[simp] theorem State.setContext_latch (s : State) (x : Nat) (c : Ctx) : (s.setContext x c).latch = s.latch := rfl
@[simp] theorem State.setContext_mem (s : State) (x : Nat) (c : Ctx) : (s.setContext x c).mem = s.mem := rfl
@[simp] theorem State.setContext_ecc (s : State) (x : Nat) (c : Ctx) : (s.setContext x c).ecc = s.ecc := rfl
@[simp] theorem State.setContext_banks (s : State) (x : Nat) (c : Ctx) : (s.setContext x c).banks = s.banks := rfl
@[simp] theorem State.setContext_tasks (s : State) (x : Nat) (c : Ctx) : (s.setContext x c).tasks = s.tasks := rfl
@[simp] theorem State.setContext_cores (s : State) (x : Nat) (c : Ctx) : (s.setContext x c).cores = s.cores := rfl
@[simp] theorem State.setContext_posted (s : State) (x : Nat) (c : Ctx) : (s.setContext x c).posted = s.posted := rfl
@[simp] theorem State.setContext_adds (s : State) (x : Nat) (c : Ctx) : (s.setContext x c).adds = s.adds := rfl
@[simp] theorem State.setContext_deferred (s : State) (x : Nat) (c : Ctx) : (s.setContext x c).deferred = s.deferred := rfl
@[simp] theorem State.setContext_tokens (s : State) (x : Nat) (c : Ctx) : (s.setContext x c).tokens = s.tokens := rfl
@[simp] theorem State.setContext_srf (s : State) (x : Nat) (c : Ctx) : (s.setContext x c).srf = s.srf := rfl
@[simp] theorem State.setContext_engines (s : State) (x : Nat) (c : Ctx) : (s.setContext x c).engines = s.engines := rfl
@[simp] theorem State.setContext_arrays (s : State) (x : Nat) (c : Ctx) : (s.setContext x c).arrays = s.arrays := rfl
@[simp] theorem State.setContext_queues (s : State) (x : Nat) (c : Ctx) : (s.setContext x c).queues = s.queues := rfl
@[simp] theorem State.setContext_xferQ (s : State) (x : Nat) (c : Ctx) : (s.setContext x c).xferQ = s.xferQ := rfl
@[simp] theorem State.setContext_chains (s : State) (x : Nat) (c : Ctx) : (s.setContext x c).chains = s.chains := rfl
@[simp] theorem State.setContext_contribs (s : State) (x : Nat) (c : Ctx) : (s.setContext x c).contribs = s.contribs := rfl
@[simp] theorem State.setContext_plait (s : State) (x : Nat) (c : Ctx) : (s.setContext x c).plait = s.plait := rfl
@[simp] theorem State.setContext_edges (s : State) (x : Nat) (c : Ctx) : (s.setContext x c).edges = s.edges := rfl
@[simp] theorem State.setContext_colls (s : State) (x : Nat) (c : Ctx) : (s.setContext x c).colls = s.colls := rfl
@[simp] theorem State.setContext_jobs (s : State) (x : Nat) (c : Ctx) : (s.setContext x c).jobs = s.jobs := rfl
@[simp] theorem State.setContext_conns (s : State) (x : Nat) (c : Ctx) : (s.setContext x c).conns = s.conns := rfl
@[simp] theorem State.setContext_ledger (s : State) (x : Nat) (c : Ctx) : (s.setContext x c).ledger = s.ledger := rfl
@[simp] theorem State.setContext_tables (s : State) (x : Nat) (c : Ctx) : (s.setContext x c).tables = s.tables := rfl
@[simp] theorem State.setContext_slices (s : State) (x : Nat) (c : Ctx) : (s.setContext x c).slices = s.slices := rfl
@[simp] theorem State.setContext_hoists (s : State) (x : Nat) (c : Ctx) : (s.setContext x c).hoists = s.hoists := rfl
@[simp] theorem State.setContext_otp (s : State) (x : Nat) (c : Ctx) : (s.setContext x c).otp = s.otp := rfl
@[simp] theorem State.setContext_sec (s : State) (x : Nat) (c : Ctx) : (s.setContext x c).sec = s.sec := rfl
@[simp] theorem State.setContext_flash (s : State) (x : Nat) (c : Ctx) : (s.setContext x c).flash = s.flash := rfl
@[simp] theorem State.setContext_fw (s : State) (x : Nat) (c : Ctx) : (s.setContext x c).fw = s.fw := rfl
@[simp] theorem State.setContext_mm (s : State) (x : Nat) (c : Ctx) : (s.setContext x c).mm = s.mm := rfl
@[simp] theorem State.setContext_power (s : State) (x : Nat) (c : Ctx) : (s.setContext x c).power = s.power := rfl
@[simp] theorem State.setContext_tap (s : State) (x : Nat) (c : Ctx) : (s.setContext x c).tap = s.tap := rfl

@[simp] theorem State.setTask_pending (s : State) (k : Nat) (t : Task) : (s.setTask k t).pending = s.pending := rfl
@[simp] theorem State.setTask_free (s : State) (k : Nat) (t : Task) : (s.setTask k t).free = s.free := rfl
@[simp] theorem State.setTask_tick (s : State) (k : Nat) (t : Task) : (s.setTask k t).tick = s.tick := rfl
@[simp] theorem State.setTask_out (s : State) (k : Nat) (t : Task) : (s.setTask k t).out = s.out := rfl
@[simp] theorem State.setTask_evq (s : State) (k : Nat) (t : Task) : (s.setTask k t).evq = s.evq := rfl
@[simp] theorem State.setTask_usecN (s : State) (k : Nat) (t : Task) : (s.setTask k t).usecN = s.usecN := rfl
@[simp] theorem State.setTask_regs (s : State) (k : Nat) (t : Task) : (s.setTask k t).regs = s.regs := rfl
@[simp] theorem State.setTask_latch (s : State) (k : Nat) (t : Task) : (s.setTask k t).latch = s.latch := rfl
@[simp] theorem State.setTask_mem (s : State) (k : Nat) (t : Task) : (s.setTask k t).mem = s.mem := rfl
@[simp] theorem State.setTask_ecc (s : State) (k : Nat) (t : Task) : (s.setTask k t).ecc = s.ecc := rfl
@[simp] theorem State.setTask_banks (s : State) (k : Nat) (t : Task) : (s.setTask k t).banks = s.banks := rfl
@[simp] theorem State.setTask_ctx (s : State) (k : Nat) (t : Task) : (s.setTask k t).ctx = s.ctx := rfl
@[simp] theorem State.setTask_cores (s : State) (k : Nat) (t : Task) : (s.setTask k t).cores = s.cores := rfl
@[simp] theorem State.setTask_posted (s : State) (k : Nat) (t : Task) : (s.setTask k t).posted = s.posted := rfl
@[simp] theorem State.setTask_adds (s : State) (k : Nat) (t : Task) : (s.setTask k t).adds = s.adds := rfl
@[simp] theorem State.setTask_deferred (s : State) (k : Nat) (t : Task) : (s.setTask k t).deferred = s.deferred := rfl
@[simp] theorem State.setTask_tokens (s : State) (k : Nat) (t : Task) : (s.setTask k t).tokens = s.tokens := rfl
@[simp] theorem State.setTask_srf (s : State) (k : Nat) (t : Task) : (s.setTask k t).srf = s.srf := rfl
@[simp] theorem State.setTask_engines (s : State) (k : Nat) (t : Task) : (s.setTask k t).engines = s.engines := rfl
@[simp] theorem State.setTask_arrays (s : State) (k : Nat) (t : Task) : (s.setTask k t).arrays = s.arrays := rfl
@[simp] theorem State.setTask_queues (s : State) (k : Nat) (t : Task) : (s.setTask k t).queues = s.queues := rfl
@[simp] theorem State.setTask_xferQ (s : State) (k : Nat) (t : Task) : (s.setTask k t).xferQ = s.xferQ := rfl
@[simp] theorem State.setTask_chains (s : State) (k : Nat) (t : Task) : (s.setTask k t).chains = s.chains := rfl
@[simp] theorem State.setTask_contribs (s : State) (k : Nat) (t : Task) : (s.setTask k t).contribs = s.contribs := rfl
@[simp] theorem State.setTask_plait (s : State) (k : Nat) (t : Task) : (s.setTask k t).plait = s.plait := rfl
@[simp] theorem State.setTask_edges (s : State) (k : Nat) (t : Task) : (s.setTask k t).edges = s.edges := rfl
@[simp] theorem State.setTask_colls (s : State) (k : Nat) (t : Task) : (s.setTask k t).colls = s.colls := rfl
@[simp] theorem State.setTask_jobs (s : State) (k : Nat) (t : Task) : (s.setTask k t).jobs = s.jobs := rfl
@[simp] theorem State.setTask_conns (s : State) (k : Nat) (t : Task) : (s.setTask k t).conns = s.conns := rfl
@[simp] theorem State.setTask_ledger (s : State) (k : Nat) (t : Task) : (s.setTask k t).ledger = s.ledger := rfl
@[simp] theorem State.setTask_tables (s : State) (k : Nat) (t : Task) : (s.setTask k t).tables = s.tables := rfl
@[simp] theorem State.setTask_slices (s : State) (k : Nat) (t : Task) : (s.setTask k t).slices = s.slices := rfl
@[simp] theorem State.setTask_hoists (s : State) (k : Nat) (t : Task) : (s.setTask k t).hoists = s.hoists := rfl
@[simp] theorem State.setTask_otp (s : State) (k : Nat) (t : Task) : (s.setTask k t).otp = s.otp := rfl
@[simp] theorem State.setTask_sec (s : State) (k : Nat) (t : Task) : (s.setTask k t).sec = s.sec := rfl
@[simp] theorem State.setTask_flash (s : State) (k : Nat) (t : Task) : (s.setTask k t).flash = s.flash := rfl
@[simp] theorem State.setTask_fw (s : State) (k : Nat) (t : Task) : (s.setTask k t).fw = s.fw := rfl
@[simp] theorem State.setTask_mm (s : State) (k : Nat) (t : Task) : (s.setTask k t).mm = s.mm := rfl
@[simp] theorem State.setTask_power (s : State) (k : Nat) (t : Task) : (s.setTask k t).power = s.power := rfl
@[simp] theorem State.setTask_tap (s : State) (k : Nat) (t : Task) : (s.setTask k t).tap = s.tap := rfl

@[simp] theorem State.setCore_pending (s : State) (c : Nat) (v : CoreSt) : (s.setCore c v).pending = s.pending := rfl
@[simp] theorem State.setCore_free (s : State) (c : Nat) (v : CoreSt) : (s.setCore c v).free = s.free := rfl
@[simp] theorem State.setCore_tick (s : State) (c : Nat) (v : CoreSt) : (s.setCore c v).tick = s.tick := rfl
@[simp] theorem State.setCore_out (s : State) (c : Nat) (v : CoreSt) : (s.setCore c v).out = s.out := rfl
@[simp] theorem State.setCore_evq (s : State) (c : Nat) (v : CoreSt) : (s.setCore c v).evq = s.evq := rfl
@[simp] theorem State.setCore_usecN (s : State) (c : Nat) (v : CoreSt) : (s.setCore c v).usecN = s.usecN := rfl
@[simp] theorem State.setCore_regs (s : State) (c : Nat) (v : CoreSt) : (s.setCore c v).regs = s.regs := rfl
@[simp] theorem State.setCore_latch (s : State) (c : Nat) (v : CoreSt) : (s.setCore c v).latch = s.latch := rfl
@[simp] theorem State.setCore_mem (s : State) (c : Nat) (v : CoreSt) : (s.setCore c v).mem = s.mem := rfl
@[simp] theorem State.setCore_ecc (s : State) (c : Nat) (v : CoreSt) : (s.setCore c v).ecc = s.ecc := rfl
@[simp] theorem State.setCore_banks (s : State) (c : Nat) (v : CoreSt) : (s.setCore c v).banks = s.banks := rfl
@[simp] theorem State.setCore_tasks (s : State) (c : Nat) (v : CoreSt) : (s.setCore c v).tasks = s.tasks := rfl
@[simp] theorem State.setCore_ctx (s : State) (c : Nat) (v : CoreSt) : (s.setCore c v).ctx = s.ctx := rfl
@[simp] theorem State.setCore_posted (s : State) (c : Nat) (v : CoreSt) : (s.setCore c v).posted = s.posted := rfl
@[simp] theorem State.setCore_adds (s : State) (c : Nat) (v : CoreSt) : (s.setCore c v).adds = s.adds := rfl
@[simp] theorem State.setCore_deferred (s : State) (c : Nat) (v : CoreSt) : (s.setCore c v).deferred = s.deferred := rfl
@[simp] theorem State.setCore_tokens (s : State) (c : Nat) (v : CoreSt) : (s.setCore c v).tokens = s.tokens := rfl
@[simp] theorem State.setCore_srf (s : State) (c : Nat) (v : CoreSt) : (s.setCore c v).srf = s.srf := rfl
@[simp] theorem State.setCore_engines (s : State) (c : Nat) (v : CoreSt) : (s.setCore c v).engines = s.engines := rfl
@[simp] theorem State.setCore_arrays (s : State) (c : Nat) (v : CoreSt) : (s.setCore c v).arrays = s.arrays := rfl
@[simp] theorem State.setCore_queues (s : State) (c : Nat) (v : CoreSt) : (s.setCore c v).queues = s.queues := rfl
@[simp] theorem State.setCore_xferQ (s : State) (c : Nat) (v : CoreSt) : (s.setCore c v).xferQ = s.xferQ := rfl
@[simp] theorem State.setCore_chains (s : State) (c : Nat) (v : CoreSt) : (s.setCore c v).chains = s.chains := rfl
@[simp] theorem State.setCore_contribs (s : State) (c : Nat) (v : CoreSt) : (s.setCore c v).contribs = s.contribs := rfl
@[simp] theorem State.setCore_plait (s : State) (c : Nat) (v : CoreSt) : (s.setCore c v).plait = s.plait := rfl
@[simp] theorem State.setCore_edges (s : State) (c : Nat) (v : CoreSt) : (s.setCore c v).edges = s.edges := rfl
@[simp] theorem State.setCore_colls (s : State) (c : Nat) (v : CoreSt) : (s.setCore c v).colls = s.colls := rfl
@[simp] theorem State.setCore_jobs (s : State) (c : Nat) (v : CoreSt) : (s.setCore c v).jobs = s.jobs := rfl
@[simp] theorem State.setCore_conns (s : State) (c : Nat) (v : CoreSt) : (s.setCore c v).conns = s.conns := rfl
@[simp] theorem State.setCore_ledger (s : State) (c : Nat) (v : CoreSt) : (s.setCore c v).ledger = s.ledger := rfl
@[simp] theorem State.setCore_tables (s : State) (c : Nat) (v : CoreSt) : (s.setCore c v).tables = s.tables := rfl
@[simp] theorem State.setCore_slices (s : State) (c : Nat) (v : CoreSt) : (s.setCore c v).slices = s.slices := rfl
@[simp] theorem State.setCore_hoists (s : State) (c : Nat) (v : CoreSt) : (s.setCore c v).hoists = s.hoists := rfl
@[simp] theorem State.setCore_otp (s : State) (c : Nat) (v : CoreSt) : (s.setCore c v).otp = s.otp := rfl
@[simp] theorem State.setCore_sec (s : State) (c : Nat) (v : CoreSt) : (s.setCore c v).sec = s.sec := rfl
@[simp] theorem State.setCore_flash (s : State) (c : Nat) (v : CoreSt) : (s.setCore c v).flash = s.flash := rfl
@[simp] theorem State.setCore_fw (s : State) (c : Nat) (v : CoreSt) : (s.setCore c v).fw = s.fw := rfl
@[simp] theorem State.setCore_mm (s : State) (c : Nat) (v : CoreSt) : (s.setCore c v).mm = s.mm := rfl
@[simp] theorem State.setCore_power (s : State) (c : Nat) (v : CoreSt) : (s.setCore c v).power = s.power := rfl
@[simp] theorem State.setCore_tap (s : State) (c : Nat) (v : CoreSt) : (s.setCore c v).tap = s.tap := rfl

@[simp] theorem State.setToken_pending (s : State) (a : Nat) (v : Token) : (s.setToken a v).pending = s.pending := rfl
@[simp] theorem State.setToken_free (s : State) (a : Nat) (v : Token) : (s.setToken a v).free = s.free := rfl
@[simp] theorem State.setToken_tick (s : State) (a : Nat) (v : Token) : (s.setToken a v).tick = s.tick := rfl
@[simp] theorem State.setToken_out (s : State) (a : Nat) (v : Token) : (s.setToken a v).out = s.out := rfl
@[simp] theorem State.setToken_evq (s : State) (a : Nat) (v : Token) : (s.setToken a v).evq = s.evq := rfl
@[simp] theorem State.setToken_usecN (s : State) (a : Nat) (v : Token) : (s.setToken a v).usecN = s.usecN := rfl
@[simp] theorem State.setToken_regs (s : State) (a : Nat) (v : Token) : (s.setToken a v).regs = s.regs := rfl
@[simp] theorem State.setToken_latch (s : State) (a : Nat) (v : Token) : (s.setToken a v).latch = s.latch := rfl
@[simp] theorem State.setToken_mem (s : State) (a : Nat) (v : Token) : (s.setToken a v).mem = s.mem := rfl
@[simp] theorem State.setToken_ecc (s : State) (a : Nat) (v : Token) : (s.setToken a v).ecc = s.ecc := rfl
@[simp] theorem State.setToken_banks (s : State) (a : Nat) (v : Token) : (s.setToken a v).banks = s.banks := rfl
@[simp] theorem State.setToken_tasks (s : State) (a : Nat) (v : Token) : (s.setToken a v).tasks = s.tasks := rfl
@[simp] theorem State.setToken_ctx (s : State) (a : Nat) (v : Token) : (s.setToken a v).ctx = s.ctx := rfl
@[simp] theorem State.setToken_cores (s : State) (a : Nat) (v : Token) : (s.setToken a v).cores = s.cores := rfl
@[simp] theorem State.setToken_posted (s : State) (a : Nat) (v : Token) : (s.setToken a v).posted = s.posted := rfl
@[simp] theorem State.setToken_adds (s : State) (a : Nat) (v : Token) : (s.setToken a v).adds = s.adds := rfl
@[simp] theorem State.setToken_deferred (s : State) (a : Nat) (v : Token) : (s.setToken a v).deferred = s.deferred := rfl
@[simp] theorem State.setToken_srf (s : State) (a : Nat) (v : Token) : (s.setToken a v).srf = s.srf := rfl
@[simp] theorem State.setToken_engines (s : State) (a : Nat) (v : Token) : (s.setToken a v).engines = s.engines := rfl
@[simp] theorem State.setToken_arrays (s : State) (a : Nat) (v : Token) : (s.setToken a v).arrays = s.arrays := rfl
@[simp] theorem State.setToken_queues (s : State) (a : Nat) (v : Token) : (s.setToken a v).queues = s.queues := rfl
@[simp] theorem State.setToken_xferQ (s : State) (a : Nat) (v : Token) : (s.setToken a v).xferQ = s.xferQ := rfl
@[simp] theorem State.setToken_chains (s : State) (a : Nat) (v : Token) : (s.setToken a v).chains = s.chains := rfl
@[simp] theorem State.setToken_contribs (s : State) (a : Nat) (v : Token) : (s.setToken a v).contribs = s.contribs := rfl
@[simp] theorem State.setToken_plait (s : State) (a : Nat) (v : Token) : (s.setToken a v).plait = s.plait := rfl
@[simp] theorem State.setToken_edges (s : State) (a : Nat) (v : Token) : (s.setToken a v).edges = s.edges := rfl
@[simp] theorem State.setToken_colls (s : State) (a : Nat) (v : Token) : (s.setToken a v).colls = s.colls := rfl
@[simp] theorem State.setToken_jobs (s : State) (a : Nat) (v : Token) : (s.setToken a v).jobs = s.jobs := rfl
@[simp] theorem State.setToken_conns (s : State) (a : Nat) (v : Token) : (s.setToken a v).conns = s.conns := rfl
@[simp] theorem State.setToken_ledger (s : State) (a : Nat) (v : Token) : (s.setToken a v).ledger = s.ledger := rfl
@[simp] theorem State.setToken_tables (s : State) (a : Nat) (v : Token) : (s.setToken a v).tables = s.tables := rfl
@[simp] theorem State.setToken_slices (s : State) (a : Nat) (v : Token) : (s.setToken a v).slices = s.slices := rfl
@[simp] theorem State.setToken_hoists (s : State) (a : Nat) (v : Token) : (s.setToken a v).hoists = s.hoists := rfl
@[simp] theorem State.setToken_otp (s : State) (a : Nat) (v : Token) : (s.setToken a v).otp = s.otp := rfl
@[simp] theorem State.setToken_sec (s : State) (a : Nat) (v : Token) : (s.setToken a v).sec = s.sec := rfl
@[simp] theorem State.setToken_flash (s : State) (a : Nat) (v : Token) : (s.setToken a v).flash = s.flash := rfl
@[simp] theorem State.setToken_fw (s : State) (a : Nat) (v : Token) : (s.setToken a v).fw = s.fw := rfl
@[simp] theorem State.setToken_mm (s : State) (a : Nat) (v : Token) : (s.setToken a v).mm = s.mm := rfl
@[simp] theorem State.setToken_power (s : State) (a : Nat) (v : Token) : (s.setToken a v).power = s.power := rfl
@[simp] theorem State.setToken_tap (s : State) (a : Nat) (v : Token) : (s.setToken a v).tap = s.tap := rfl

@[simp] theorem State.setEngine_pending (s : State) (m u : Nat) (e : Engine) : (s.setEngine m u e).pending = s.pending := rfl
@[simp] theorem State.setEngine_free (s : State) (m u : Nat) (e : Engine) : (s.setEngine m u e).free = s.free := rfl
@[simp] theorem State.setEngine_tick (s : State) (m u : Nat) (e : Engine) : (s.setEngine m u e).tick = s.tick := rfl
@[simp] theorem State.setEngine_out (s : State) (m u : Nat) (e : Engine) : (s.setEngine m u e).out = s.out := rfl
@[simp] theorem State.setEngine_evq (s : State) (m u : Nat) (e : Engine) : (s.setEngine m u e).evq = s.evq := rfl
@[simp] theorem State.setEngine_usecN (s : State) (m u : Nat) (e : Engine) : (s.setEngine m u e).usecN = s.usecN := rfl
@[simp] theorem State.setEngine_regs (s : State) (m u : Nat) (e : Engine) : (s.setEngine m u e).regs = s.regs := rfl
@[simp] theorem State.setEngine_latch (s : State) (m u : Nat) (e : Engine) : (s.setEngine m u e).latch = s.latch := rfl
@[simp] theorem State.setEngine_mem (s : State) (m u : Nat) (e : Engine) : (s.setEngine m u e).mem = s.mem := rfl
@[simp] theorem State.setEngine_ecc (s : State) (m u : Nat) (e : Engine) : (s.setEngine m u e).ecc = s.ecc := rfl
@[simp] theorem State.setEngine_banks (s : State) (m u : Nat) (e : Engine) : (s.setEngine m u e).banks = s.banks := rfl
@[simp] theorem State.setEngine_tasks (s : State) (m u : Nat) (e : Engine) : (s.setEngine m u e).tasks = s.tasks := rfl
@[simp] theorem State.setEngine_ctx (s : State) (m u : Nat) (e : Engine) : (s.setEngine m u e).ctx = s.ctx := rfl
@[simp] theorem State.setEngine_cores (s : State) (m u : Nat) (e : Engine) : (s.setEngine m u e).cores = s.cores := rfl
@[simp] theorem State.setEngine_posted (s : State) (m u : Nat) (e : Engine) : (s.setEngine m u e).posted = s.posted := rfl
@[simp] theorem State.setEngine_adds (s : State) (m u : Nat) (e : Engine) : (s.setEngine m u e).adds = s.adds := rfl
@[simp] theorem State.setEngine_deferred (s : State) (m u : Nat) (e : Engine) : (s.setEngine m u e).deferred = s.deferred := rfl
@[simp] theorem State.setEngine_tokens (s : State) (m u : Nat) (e : Engine) : (s.setEngine m u e).tokens = s.tokens := rfl
@[simp] theorem State.setEngine_srf (s : State) (m u : Nat) (e : Engine) : (s.setEngine m u e).srf = s.srf := rfl
@[simp] theorem State.setEngine_arrays (s : State) (m u : Nat) (e : Engine) : (s.setEngine m u e).arrays = s.arrays := rfl
@[simp] theorem State.setEngine_queues (s : State) (m u : Nat) (e : Engine) : (s.setEngine m u e).queues = s.queues := rfl
@[simp] theorem State.setEngine_xferQ (s : State) (m u : Nat) (e : Engine) : (s.setEngine m u e).xferQ = s.xferQ := rfl
@[simp] theorem State.setEngine_chains (s : State) (m u : Nat) (e : Engine) : (s.setEngine m u e).chains = s.chains := rfl
@[simp] theorem State.setEngine_contribs (s : State) (m u : Nat) (e : Engine) : (s.setEngine m u e).contribs = s.contribs := rfl
@[simp] theorem State.setEngine_plait (s : State) (m u : Nat) (e : Engine) : (s.setEngine m u e).plait = s.plait := rfl
@[simp] theorem State.setEngine_edges (s : State) (m u : Nat) (e : Engine) : (s.setEngine m u e).edges = s.edges := rfl
@[simp] theorem State.setEngine_colls (s : State) (m u : Nat) (e : Engine) : (s.setEngine m u e).colls = s.colls := rfl
@[simp] theorem State.setEngine_jobs (s : State) (m u : Nat) (e : Engine) : (s.setEngine m u e).jobs = s.jobs := rfl
@[simp] theorem State.setEngine_conns (s : State) (m u : Nat) (e : Engine) : (s.setEngine m u e).conns = s.conns := rfl
@[simp] theorem State.setEngine_ledger (s : State) (m u : Nat) (e : Engine) : (s.setEngine m u e).ledger = s.ledger := rfl
@[simp] theorem State.setEngine_tables (s : State) (m u : Nat) (e : Engine) : (s.setEngine m u e).tables = s.tables := rfl
@[simp] theorem State.setEngine_slices (s : State) (m u : Nat) (e : Engine) : (s.setEngine m u e).slices = s.slices := rfl
@[simp] theorem State.setEngine_hoists (s : State) (m u : Nat) (e : Engine) : (s.setEngine m u e).hoists = s.hoists := rfl
@[simp] theorem State.setEngine_otp (s : State) (m u : Nat) (e : Engine) : (s.setEngine m u e).otp = s.otp := rfl
@[simp] theorem State.setEngine_sec (s : State) (m u : Nat) (e : Engine) : (s.setEngine m u e).sec = s.sec := rfl
@[simp] theorem State.setEngine_flash (s : State) (m u : Nat) (e : Engine) : (s.setEngine m u e).flash = s.flash := rfl
@[simp] theorem State.setEngine_fw (s : State) (m u : Nat) (e : Engine) : (s.setEngine m u e).fw = s.fw := rfl
@[simp] theorem State.setEngine_mm (s : State) (m u : Nat) (e : Engine) : (s.setEngine m u e).mm = s.mm := rfl
@[simp] theorem State.setEngine_power (s : State) (m u : Nat) (e : Engine) : (s.setEngine m u e).power = s.power := rfl
@[simp] theorem State.setEngine_tap (s : State) (m u : Nat) (e : Engine) : (s.setEngine m u e).tap = s.tap := rfl

@[simp] theorem State.setArray_pending (s : State) (m : Nat) (v : ArraySt) : (s.setArray m v).pending = s.pending := rfl
@[simp] theorem State.setArray_free (s : State) (m : Nat) (v : ArraySt) : (s.setArray m v).free = s.free := rfl
@[simp] theorem State.setArray_tick (s : State) (m : Nat) (v : ArraySt) : (s.setArray m v).tick = s.tick := rfl
@[simp] theorem State.setArray_out (s : State) (m : Nat) (v : ArraySt) : (s.setArray m v).out = s.out := rfl
@[simp] theorem State.setArray_evq (s : State) (m : Nat) (v : ArraySt) : (s.setArray m v).evq = s.evq := rfl
@[simp] theorem State.setArray_usecN (s : State) (m : Nat) (v : ArraySt) : (s.setArray m v).usecN = s.usecN := rfl
@[simp] theorem State.setArray_regs (s : State) (m : Nat) (v : ArraySt) : (s.setArray m v).regs = s.regs := rfl
@[simp] theorem State.setArray_latch (s : State) (m : Nat) (v : ArraySt) : (s.setArray m v).latch = s.latch := rfl
@[simp] theorem State.setArray_mem (s : State) (m : Nat) (v : ArraySt) : (s.setArray m v).mem = s.mem := rfl
@[simp] theorem State.setArray_ecc (s : State) (m : Nat) (v : ArraySt) : (s.setArray m v).ecc = s.ecc := rfl
@[simp] theorem State.setArray_banks (s : State) (m : Nat) (v : ArraySt) : (s.setArray m v).banks = s.banks := rfl
@[simp] theorem State.setArray_tasks (s : State) (m : Nat) (v : ArraySt) : (s.setArray m v).tasks = s.tasks := rfl
@[simp] theorem State.setArray_ctx (s : State) (m : Nat) (v : ArraySt) : (s.setArray m v).ctx = s.ctx := rfl
@[simp] theorem State.setArray_cores (s : State) (m : Nat) (v : ArraySt) : (s.setArray m v).cores = s.cores := rfl
@[simp] theorem State.setArray_posted (s : State) (m : Nat) (v : ArraySt) : (s.setArray m v).posted = s.posted := rfl
@[simp] theorem State.setArray_adds (s : State) (m : Nat) (v : ArraySt) : (s.setArray m v).adds = s.adds := rfl
@[simp] theorem State.setArray_deferred (s : State) (m : Nat) (v : ArraySt) : (s.setArray m v).deferred = s.deferred := rfl
@[simp] theorem State.setArray_tokens (s : State) (m : Nat) (v : ArraySt) : (s.setArray m v).tokens = s.tokens := rfl
@[simp] theorem State.setArray_srf (s : State) (m : Nat) (v : ArraySt) : (s.setArray m v).srf = s.srf := rfl
@[simp] theorem State.setArray_engines (s : State) (m : Nat) (v : ArraySt) : (s.setArray m v).engines = s.engines := rfl
@[simp] theorem State.setArray_queues (s : State) (m : Nat) (v : ArraySt) : (s.setArray m v).queues = s.queues := rfl
@[simp] theorem State.setArray_xferQ (s : State) (m : Nat) (v : ArraySt) : (s.setArray m v).xferQ = s.xferQ := rfl
@[simp] theorem State.setArray_chains (s : State) (m : Nat) (v : ArraySt) : (s.setArray m v).chains = s.chains := rfl
@[simp] theorem State.setArray_contribs (s : State) (m : Nat) (v : ArraySt) : (s.setArray m v).contribs = s.contribs := rfl
@[simp] theorem State.setArray_plait (s : State) (m : Nat) (v : ArraySt) : (s.setArray m v).plait = s.plait := rfl
@[simp] theorem State.setArray_edges (s : State) (m : Nat) (v : ArraySt) : (s.setArray m v).edges = s.edges := rfl
@[simp] theorem State.setArray_colls (s : State) (m : Nat) (v : ArraySt) : (s.setArray m v).colls = s.colls := rfl
@[simp] theorem State.setArray_jobs (s : State) (m : Nat) (v : ArraySt) : (s.setArray m v).jobs = s.jobs := rfl
@[simp] theorem State.setArray_conns (s : State) (m : Nat) (v : ArraySt) : (s.setArray m v).conns = s.conns := rfl
@[simp] theorem State.setArray_ledger (s : State) (m : Nat) (v : ArraySt) : (s.setArray m v).ledger = s.ledger := rfl
@[simp] theorem State.setArray_tables (s : State) (m : Nat) (v : ArraySt) : (s.setArray m v).tables = s.tables := rfl
@[simp] theorem State.setArray_slices (s : State) (m : Nat) (v : ArraySt) : (s.setArray m v).slices = s.slices := rfl
@[simp] theorem State.setArray_hoists (s : State) (m : Nat) (v : ArraySt) : (s.setArray m v).hoists = s.hoists := rfl
@[simp] theorem State.setArray_otp (s : State) (m : Nat) (v : ArraySt) : (s.setArray m v).otp = s.otp := rfl
@[simp] theorem State.setArray_sec (s : State) (m : Nat) (v : ArraySt) : (s.setArray m v).sec = s.sec := rfl
@[simp] theorem State.setArray_flash (s : State) (m : Nat) (v : ArraySt) : (s.setArray m v).flash = s.flash := rfl
@[simp] theorem State.setArray_fw (s : State) (m : Nat) (v : ArraySt) : (s.setArray m v).fw = s.fw := rfl
@[simp] theorem State.setArray_mm (s : State) (m : Nat) (v : ArraySt) : (s.setArray m v).mm = s.mm := rfl
@[simp] theorem State.setArray_power (s : State) (m : Nat) (v : ArraySt) : (s.setArray m v).power = s.power := rfl
@[simp] theorem State.setArray_tap (s : State) (m : Nat) (v : ArraySt) : (s.setArray m v).tap = s.tap := rfl

@[simp] theorem State.setScale_pending (s : State) (m i : Nat) (v : Word) : (s.setScale m i v).pending = s.pending := rfl
@[simp] theorem State.setScale_free (s : State) (m i : Nat) (v : Word) : (s.setScale m i v).free = s.free := rfl
@[simp] theorem State.setScale_tick (s : State) (m i : Nat) (v : Word) : (s.setScale m i v).tick = s.tick := rfl
@[simp] theorem State.setScale_out (s : State) (m i : Nat) (v : Word) : (s.setScale m i v).out = s.out := rfl
@[simp] theorem State.setScale_evq (s : State) (m i : Nat) (v : Word) : (s.setScale m i v).evq = s.evq := rfl
@[simp] theorem State.setScale_usecN (s : State) (m i : Nat) (v : Word) : (s.setScale m i v).usecN = s.usecN := rfl
@[simp] theorem State.setScale_regs (s : State) (m i : Nat) (v : Word) : (s.setScale m i v).regs = s.regs := rfl
@[simp] theorem State.setScale_latch (s : State) (m i : Nat) (v : Word) : (s.setScale m i v).latch = s.latch := rfl
@[simp] theorem State.setScale_mem (s : State) (m i : Nat) (v : Word) : (s.setScale m i v).mem = s.mem := rfl
@[simp] theorem State.setScale_ecc (s : State) (m i : Nat) (v : Word) : (s.setScale m i v).ecc = s.ecc := rfl
@[simp] theorem State.setScale_banks (s : State) (m i : Nat) (v : Word) : (s.setScale m i v).banks = s.banks := rfl
@[simp] theorem State.setScale_tasks (s : State) (m i : Nat) (v : Word) : (s.setScale m i v).tasks = s.tasks := rfl
@[simp] theorem State.setScale_ctx (s : State) (m i : Nat) (v : Word) : (s.setScale m i v).ctx = s.ctx := rfl
@[simp] theorem State.setScale_cores (s : State) (m i : Nat) (v : Word) : (s.setScale m i v).cores = s.cores := rfl
@[simp] theorem State.setScale_posted (s : State) (m i : Nat) (v : Word) : (s.setScale m i v).posted = s.posted := rfl
@[simp] theorem State.setScale_adds (s : State) (m i : Nat) (v : Word) : (s.setScale m i v).adds = s.adds := rfl
@[simp] theorem State.setScale_deferred (s : State) (m i : Nat) (v : Word) : (s.setScale m i v).deferred = s.deferred := rfl
@[simp] theorem State.setScale_tokens (s : State) (m i : Nat) (v : Word) : (s.setScale m i v).tokens = s.tokens := rfl
@[simp] theorem State.setScale_engines (s : State) (m i : Nat) (v : Word) : (s.setScale m i v).engines = s.engines := rfl
@[simp] theorem State.setScale_arrays (s : State) (m i : Nat) (v : Word) : (s.setScale m i v).arrays = s.arrays := rfl
@[simp] theorem State.setScale_queues (s : State) (m i : Nat) (v : Word) : (s.setScale m i v).queues = s.queues := rfl
@[simp] theorem State.setScale_xferQ (s : State) (m i : Nat) (v : Word) : (s.setScale m i v).xferQ = s.xferQ := rfl
@[simp] theorem State.setScale_chains (s : State) (m i : Nat) (v : Word) : (s.setScale m i v).chains = s.chains := rfl
@[simp] theorem State.setScale_contribs (s : State) (m i : Nat) (v : Word) : (s.setScale m i v).contribs = s.contribs := rfl
@[simp] theorem State.setScale_plait (s : State) (m i : Nat) (v : Word) : (s.setScale m i v).plait = s.plait := rfl
@[simp] theorem State.setScale_edges (s : State) (m i : Nat) (v : Word) : (s.setScale m i v).edges = s.edges := rfl
@[simp] theorem State.setScale_colls (s : State) (m i : Nat) (v : Word) : (s.setScale m i v).colls = s.colls := rfl
@[simp] theorem State.setScale_jobs (s : State) (m i : Nat) (v : Word) : (s.setScale m i v).jobs = s.jobs := rfl
@[simp] theorem State.setScale_conns (s : State) (m i : Nat) (v : Word) : (s.setScale m i v).conns = s.conns := rfl
@[simp] theorem State.setScale_ledger (s : State) (m i : Nat) (v : Word) : (s.setScale m i v).ledger = s.ledger := rfl
@[simp] theorem State.setScale_tables (s : State) (m i : Nat) (v : Word) : (s.setScale m i v).tables = s.tables := rfl
@[simp] theorem State.setScale_slices (s : State) (m i : Nat) (v : Word) : (s.setScale m i v).slices = s.slices := rfl
@[simp] theorem State.setScale_hoists (s : State) (m i : Nat) (v : Word) : (s.setScale m i v).hoists = s.hoists := rfl
@[simp] theorem State.setScale_otp (s : State) (m i : Nat) (v : Word) : (s.setScale m i v).otp = s.otp := rfl
@[simp] theorem State.setScale_sec (s : State) (m i : Nat) (v : Word) : (s.setScale m i v).sec = s.sec := rfl
@[simp] theorem State.setScale_flash (s : State) (m i : Nat) (v : Word) : (s.setScale m i v).flash = s.flash := rfl
@[simp] theorem State.setScale_fw (s : State) (m i : Nat) (v : Word) : (s.setScale m i v).fw = s.fw := rfl
@[simp] theorem State.setScale_mm (s : State) (m i : Nat) (v : Word) : (s.setScale m i v).mm = s.mm := rfl
@[simp] theorem State.setScale_power (s : State) (m i : Nat) (v : Word) : (s.setScale m i v).power = s.power := rfl
@[simp] theorem State.setScale_tap (s : State) (m i : Nat) (v : Word) : (s.setScale m i v).tap = s.tap := rfl

@[simp] theorem State.setQueue_pending (s : State) (m : Nat) (q : List Nat) : (s.setQueue m q).pending = s.pending := rfl
@[simp] theorem State.setQueue_free (s : State) (m : Nat) (q : List Nat) : (s.setQueue m q).free = s.free := rfl
@[simp] theorem State.setQueue_tick (s : State) (m : Nat) (q : List Nat) : (s.setQueue m q).tick = s.tick := rfl
@[simp] theorem State.setQueue_out (s : State) (m : Nat) (q : List Nat) : (s.setQueue m q).out = s.out := rfl
@[simp] theorem State.setQueue_evq (s : State) (m : Nat) (q : List Nat) : (s.setQueue m q).evq = s.evq := rfl
@[simp] theorem State.setQueue_usecN (s : State) (m : Nat) (q : List Nat) : (s.setQueue m q).usecN = s.usecN := rfl
@[simp] theorem State.setQueue_regs (s : State) (m : Nat) (q : List Nat) : (s.setQueue m q).regs = s.regs := rfl
@[simp] theorem State.setQueue_latch (s : State) (m : Nat) (q : List Nat) : (s.setQueue m q).latch = s.latch := rfl
@[simp] theorem State.setQueue_mem (s : State) (m : Nat) (q : List Nat) : (s.setQueue m q).mem = s.mem := rfl
@[simp] theorem State.setQueue_ecc (s : State) (m : Nat) (q : List Nat) : (s.setQueue m q).ecc = s.ecc := rfl
@[simp] theorem State.setQueue_banks (s : State) (m : Nat) (q : List Nat) : (s.setQueue m q).banks = s.banks := rfl
@[simp] theorem State.setQueue_tasks (s : State) (m : Nat) (q : List Nat) : (s.setQueue m q).tasks = s.tasks := rfl
@[simp] theorem State.setQueue_ctx (s : State) (m : Nat) (q : List Nat) : (s.setQueue m q).ctx = s.ctx := rfl
@[simp] theorem State.setQueue_cores (s : State) (m : Nat) (q : List Nat) : (s.setQueue m q).cores = s.cores := rfl
@[simp] theorem State.setQueue_posted (s : State) (m : Nat) (q : List Nat) : (s.setQueue m q).posted = s.posted := rfl
@[simp] theorem State.setQueue_adds (s : State) (m : Nat) (q : List Nat) : (s.setQueue m q).adds = s.adds := rfl
@[simp] theorem State.setQueue_deferred (s : State) (m : Nat) (q : List Nat) : (s.setQueue m q).deferred = s.deferred := rfl
@[simp] theorem State.setQueue_tokens (s : State) (m : Nat) (q : List Nat) : (s.setQueue m q).tokens = s.tokens := rfl
@[simp] theorem State.setQueue_srf (s : State) (m : Nat) (q : List Nat) : (s.setQueue m q).srf = s.srf := rfl
@[simp] theorem State.setQueue_engines (s : State) (m : Nat) (q : List Nat) : (s.setQueue m q).engines = s.engines := rfl
@[simp] theorem State.setQueue_arrays (s : State) (m : Nat) (q : List Nat) : (s.setQueue m q).arrays = s.arrays := rfl
@[simp] theorem State.setQueue_xferQ (s : State) (m : Nat) (q : List Nat) : (s.setQueue m q).xferQ = s.xferQ := rfl
@[simp] theorem State.setQueue_chains (s : State) (m : Nat) (q : List Nat) : (s.setQueue m q).chains = s.chains := rfl
@[simp] theorem State.setQueue_contribs (s : State) (m : Nat) (q : List Nat) : (s.setQueue m q).contribs = s.contribs := rfl
@[simp] theorem State.setQueue_plait (s : State) (m : Nat) (q : List Nat) : (s.setQueue m q).plait = s.plait := rfl
@[simp] theorem State.setQueue_edges (s : State) (m : Nat) (q : List Nat) : (s.setQueue m q).edges = s.edges := rfl
@[simp] theorem State.setQueue_colls (s : State) (m : Nat) (q : List Nat) : (s.setQueue m q).colls = s.colls := rfl
@[simp] theorem State.setQueue_jobs (s : State) (m : Nat) (q : List Nat) : (s.setQueue m q).jobs = s.jobs := rfl
@[simp] theorem State.setQueue_conns (s : State) (m : Nat) (q : List Nat) : (s.setQueue m q).conns = s.conns := rfl
@[simp] theorem State.setQueue_ledger (s : State) (m : Nat) (q : List Nat) : (s.setQueue m q).ledger = s.ledger := rfl
@[simp] theorem State.setQueue_tables (s : State) (m : Nat) (q : List Nat) : (s.setQueue m q).tables = s.tables := rfl
@[simp] theorem State.setQueue_slices (s : State) (m : Nat) (q : List Nat) : (s.setQueue m q).slices = s.slices := rfl
@[simp] theorem State.setQueue_hoists (s : State) (m : Nat) (q : List Nat) : (s.setQueue m q).hoists = s.hoists := rfl
@[simp] theorem State.setQueue_otp (s : State) (m : Nat) (q : List Nat) : (s.setQueue m q).otp = s.otp := rfl
@[simp] theorem State.setQueue_sec (s : State) (m : Nat) (q : List Nat) : (s.setQueue m q).sec = s.sec := rfl
@[simp] theorem State.setQueue_flash (s : State) (m : Nat) (q : List Nat) : (s.setQueue m q).flash = s.flash := rfl
@[simp] theorem State.setQueue_fw (s : State) (m : Nat) (q : List Nat) : (s.setQueue m q).fw = s.fw := rfl
@[simp] theorem State.setQueue_mm (s : State) (m : Nat) (q : List Nat) : (s.setQueue m q).mm = s.mm := rfl
@[simp] theorem State.setQueue_power (s : State) (m : Nat) (q : List Nat) : (s.setQueue m q).power = s.power := rfl
@[simp] theorem State.setQueue_tap (s : State) (m : Nat) (q : List Nat) : (s.setQueue m q).tap = s.tap := rfl

@[simp] theorem State.setXfers_pending (s : State) (m : Nat) (q : List XCmd) : (s.setXfers m q).pending = s.pending := rfl
@[simp] theorem State.setXfers_free (s : State) (m : Nat) (q : List XCmd) : (s.setXfers m q).free = s.free := rfl
@[simp] theorem State.setXfers_tick (s : State) (m : Nat) (q : List XCmd) : (s.setXfers m q).tick = s.tick := rfl
@[simp] theorem State.setXfers_out (s : State) (m : Nat) (q : List XCmd) : (s.setXfers m q).out = s.out := rfl
@[simp] theorem State.setXfers_evq (s : State) (m : Nat) (q : List XCmd) : (s.setXfers m q).evq = s.evq := rfl
@[simp] theorem State.setXfers_usecN (s : State) (m : Nat) (q : List XCmd) : (s.setXfers m q).usecN = s.usecN := rfl
@[simp] theorem State.setXfers_regs (s : State) (m : Nat) (q : List XCmd) : (s.setXfers m q).regs = s.regs := rfl
@[simp] theorem State.setXfers_latch (s : State) (m : Nat) (q : List XCmd) : (s.setXfers m q).latch = s.latch := rfl
@[simp] theorem State.setXfers_mem (s : State) (m : Nat) (q : List XCmd) : (s.setXfers m q).mem = s.mem := rfl
@[simp] theorem State.setXfers_ecc (s : State) (m : Nat) (q : List XCmd) : (s.setXfers m q).ecc = s.ecc := rfl
@[simp] theorem State.setXfers_banks (s : State) (m : Nat) (q : List XCmd) : (s.setXfers m q).banks = s.banks := rfl
@[simp] theorem State.setXfers_tasks (s : State) (m : Nat) (q : List XCmd) : (s.setXfers m q).tasks = s.tasks := rfl
@[simp] theorem State.setXfers_ctx (s : State) (m : Nat) (q : List XCmd) : (s.setXfers m q).ctx = s.ctx := rfl
@[simp] theorem State.setXfers_cores (s : State) (m : Nat) (q : List XCmd) : (s.setXfers m q).cores = s.cores := rfl
@[simp] theorem State.setXfers_posted (s : State) (m : Nat) (q : List XCmd) : (s.setXfers m q).posted = s.posted := rfl
@[simp] theorem State.setXfers_adds (s : State) (m : Nat) (q : List XCmd) : (s.setXfers m q).adds = s.adds := rfl
@[simp] theorem State.setXfers_deferred (s : State) (m : Nat) (q : List XCmd) : (s.setXfers m q).deferred = s.deferred := rfl
@[simp] theorem State.setXfers_tokens (s : State) (m : Nat) (q : List XCmd) : (s.setXfers m q).tokens = s.tokens := rfl
@[simp] theorem State.setXfers_srf (s : State) (m : Nat) (q : List XCmd) : (s.setXfers m q).srf = s.srf := rfl
@[simp] theorem State.setXfers_engines (s : State) (m : Nat) (q : List XCmd) : (s.setXfers m q).engines = s.engines := rfl
@[simp] theorem State.setXfers_arrays (s : State) (m : Nat) (q : List XCmd) : (s.setXfers m q).arrays = s.arrays := rfl
@[simp] theorem State.setXfers_queues (s : State) (m : Nat) (q : List XCmd) : (s.setXfers m q).queues = s.queues := rfl
@[simp] theorem State.setXfers_chains (s : State) (m : Nat) (q : List XCmd) : (s.setXfers m q).chains = s.chains := rfl
@[simp] theorem State.setXfers_contribs (s : State) (m : Nat) (q : List XCmd) : (s.setXfers m q).contribs = s.contribs := rfl
@[simp] theorem State.setXfers_plait (s : State) (m : Nat) (q : List XCmd) : (s.setXfers m q).plait = s.plait := rfl
@[simp] theorem State.setXfers_edges (s : State) (m : Nat) (q : List XCmd) : (s.setXfers m q).edges = s.edges := rfl
@[simp] theorem State.setXfers_colls (s : State) (m : Nat) (q : List XCmd) : (s.setXfers m q).colls = s.colls := rfl
@[simp] theorem State.setXfers_jobs (s : State) (m : Nat) (q : List XCmd) : (s.setXfers m q).jobs = s.jobs := rfl
@[simp] theorem State.setXfers_conns (s : State) (m : Nat) (q : List XCmd) : (s.setXfers m q).conns = s.conns := rfl
@[simp] theorem State.setXfers_ledger (s : State) (m : Nat) (q : List XCmd) : (s.setXfers m q).ledger = s.ledger := rfl
@[simp] theorem State.setXfers_tables (s : State) (m : Nat) (q : List XCmd) : (s.setXfers m q).tables = s.tables := rfl
@[simp] theorem State.setXfers_slices (s : State) (m : Nat) (q : List XCmd) : (s.setXfers m q).slices = s.slices := rfl
@[simp] theorem State.setXfers_hoists (s : State) (m : Nat) (q : List XCmd) : (s.setXfers m q).hoists = s.hoists := rfl
@[simp] theorem State.setXfers_otp (s : State) (m : Nat) (q : List XCmd) : (s.setXfers m q).otp = s.otp := rfl
@[simp] theorem State.setXfers_sec (s : State) (m : Nat) (q : List XCmd) : (s.setXfers m q).sec = s.sec := rfl
@[simp] theorem State.setXfers_flash (s : State) (m : Nat) (q : List XCmd) : (s.setXfers m q).flash = s.flash := rfl
@[simp] theorem State.setXfers_fw (s : State) (m : Nat) (q : List XCmd) : (s.setXfers m q).fw = s.fw := rfl
@[simp] theorem State.setXfers_mm (s : State) (m : Nat) (q : List XCmd) : (s.setXfers m q).mm = s.mm := rfl
@[simp] theorem State.setXfers_power (s : State) (m : Nat) (q : List XCmd) : (s.setXfers m q).power = s.power := rfl
@[simp] theorem State.setXfers_tap (s : State) (m : Nat) (q : List XCmd) : (s.setXfers m q).tap = s.tap := rfl

@[simp] theorem State.setChains_pending (s : State) (m : Nat) (q : List Chain) : (s.setChains m q).pending = s.pending := rfl
@[simp] theorem State.setChains_free (s : State) (m : Nat) (q : List Chain) : (s.setChains m q).free = s.free := rfl
@[simp] theorem State.setChains_tick (s : State) (m : Nat) (q : List Chain) : (s.setChains m q).tick = s.tick := rfl
@[simp] theorem State.setChains_out (s : State) (m : Nat) (q : List Chain) : (s.setChains m q).out = s.out := rfl
@[simp] theorem State.setChains_evq (s : State) (m : Nat) (q : List Chain) : (s.setChains m q).evq = s.evq := rfl
@[simp] theorem State.setChains_usecN (s : State) (m : Nat) (q : List Chain) : (s.setChains m q).usecN = s.usecN := rfl
@[simp] theorem State.setChains_regs (s : State) (m : Nat) (q : List Chain) : (s.setChains m q).regs = s.regs := rfl
@[simp] theorem State.setChains_latch (s : State) (m : Nat) (q : List Chain) : (s.setChains m q).latch = s.latch := rfl
@[simp] theorem State.setChains_mem (s : State) (m : Nat) (q : List Chain) : (s.setChains m q).mem = s.mem := rfl
@[simp] theorem State.setChains_ecc (s : State) (m : Nat) (q : List Chain) : (s.setChains m q).ecc = s.ecc := rfl
@[simp] theorem State.setChains_banks (s : State) (m : Nat) (q : List Chain) : (s.setChains m q).banks = s.banks := rfl
@[simp] theorem State.setChains_tasks (s : State) (m : Nat) (q : List Chain) : (s.setChains m q).tasks = s.tasks := rfl
@[simp] theorem State.setChains_ctx (s : State) (m : Nat) (q : List Chain) : (s.setChains m q).ctx = s.ctx := rfl
@[simp] theorem State.setChains_cores (s : State) (m : Nat) (q : List Chain) : (s.setChains m q).cores = s.cores := rfl
@[simp] theorem State.setChains_posted (s : State) (m : Nat) (q : List Chain) : (s.setChains m q).posted = s.posted := rfl
@[simp] theorem State.setChains_adds (s : State) (m : Nat) (q : List Chain) : (s.setChains m q).adds = s.adds := rfl
@[simp] theorem State.setChains_deferred (s : State) (m : Nat) (q : List Chain) : (s.setChains m q).deferred = s.deferred := rfl
@[simp] theorem State.setChains_tokens (s : State) (m : Nat) (q : List Chain) : (s.setChains m q).tokens = s.tokens := rfl
@[simp] theorem State.setChains_srf (s : State) (m : Nat) (q : List Chain) : (s.setChains m q).srf = s.srf := rfl
@[simp] theorem State.setChains_engines (s : State) (m : Nat) (q : List Chain) : (s.setChains m q).engines = s.engines := rfl
@[simp] theorem State.setChains_arrays (s : State) (m : Nat) (q : List Chain) : (s.setChains m q).arrays = s.arrays := rfl
@[simp] theorem State.setChains_queues (s : State) (m : Nat) (q : List Chain) : (s.setChains m q).queues = s.queues := rfl
@[simp] theorem State.setChains_xferQ (s : State) (m : Nat) (q : List Chain) : (s.setChains m q).xferQ = s.xferQ := rfl
@[simp] theorem State.setChains_contribs (s : State) (m : Nat) (q : List Chain) : (s.setChains m q).contribs = s.contribs := rfl
@[simp] theorem State.setChains_plait (s : State) (m : Nat) (q : List Chain) : (s.setChains m q).plait = s.plait := rfl
@[simp] theorem State.setChains_edges (s : State) (m : Nat) (q : List Chain) : (s.setChains m q).edges = s.edges := rfl
@[simp] theorem State.setChains_colls (s : State) (m : Nat) (q : List Chain) : (s.setChains m q).colls = s.colls := rfl
@[simp] theorem State.setChains_jobs (s : State) (m : Nat) (q : List Chain) : (s.setChains m q).jobs = s.jobs := rfl
@[simp] theorem State.setChains_conns (s : State) (m : Nat) (q : List Chain) : (s.setChains m q).conns = s.conns := rfl
@[simp] theorem State.setChains_ledger (s : State) (m : Nat) (q : List Chain) : (s.setChains m q).ledger = s.ledger := rfl
@[simp] theorem State.setChains_tables (s : State) (m : Nat) (q : List Chain) : (s.setChains m q).tables = s.tables := rfl
@[simp] theorem State.setChains_slices (s : State) (m : Nat) (q : List Chain) : (s.setChains m q).slices = s.slices := rfl
@[simp] theorem State.setChains_hoists (s : State) (m : Nat) (q : List Chain) : (s.setChains m q).hoists = s.hoists := rfl
@[simp] theorem State.setChains_otp (s : State) (m : Nat) (q : List Chain) : (s.setChains m q).otp = s.otp := rfl
@[simp] theorem State.setChains_sec (s : State) (m : Nat) (q : List Chain) : (s.setChains m q).sec = s.sec := rfl
@[simp] theorem State.setChains_flash (s : State) (m : Nat) (q : List Chain) : (s.setChains m q).flash = s.flash := rfl
@[simp] theorem State.setChains_fw (s : State) (m : Nat) (q : List Chain) : (s.setChains m q).fw = s.fw := rfl
@[simp] theorem State.setChains_mm (s : State) (m : Nat) (q : List Chain) : (s.setChains m q).mm = s.mm := rfl
@[simp] theorem State.setChains_power (s : State) (m : Nat) (q : List Chain) : (s.setChains m q).power = s.power := rfl
@[simp] theorem State.setChains_tap (s : State) (m : Nat) (q : List Chain) : (s.setChains m q).tap = s.tap := rfl

@[simp] theorem State.setEntry_pending (s : State) (i : Nat) (v : PlaitSt) : (s.setEntry i v).pending = s.pending := rfl
@[simp] theorem State.setEntry_free (s : State) (i : Nat) (v : PlaitSt) : (s.setEntry i v).free = s.free := rfl
@[simp] theorem State.setEntry_tick (s : State) (i : Nat) (v : PlaitSt) : (s.setEntry i v).tick = s.tick := rfl
@[simp] theorem State.setEntry_out (s : State) (i : Nat) (v : PlaitSt) : (s.setEntry i v).out = s.out := rfl
@[simp] theorem State.setEntry_evq (s : State) (i : Nat) (v : PlaitSt) : (s.setEntry i v).evq = s.evq := rfl
@[simp] theorem State.setEntry_usecN (s : State) (i : Nat) (v : PlaitSt) : (s.setEntry i v).usecN = s.usecN := rfl
@[simp] theorem State.setEntry_regs (s : State) (i : Nat) (v : PlaitSt) : (s.setEntry i v).regs = s.regs := rfl
@[simp] theorem State.setEntry_latch (s : State) (i : Nat) (v : PlaitSt) : (s.setEntry i v).latch = s.latch := rfl
@[simp] theorem State.setEntry_mem (s : State) (i : Nat) (v : PlaitSt) : (s.setEntry i v).mem = s.mem := rfl
@[simp] theorem State.setEntry_ecc (s : State) (i : Nat) (v : PlaitSt) : (s.setEntry i v).ecc = s.ecc := rfl
@[simp] theorem State.setEntry_banks (s : State) (i : Nat) (v : PlaitSt) : (s.setEntry i v).banks = s.banks := rfl
@[simp] theorem State.setEntry_tasks (s : State) (i : Nat) (v : PlaitSt) : (s.setEntry i v).tasks = s.tasks := rfl
@[simp] theorem State.setEntry_ctx (s : State) (i : Nat) (v : PlaitSt) : (s.setEntry i v).ctx = s.ctx := rfl
@[simp] theorem State.setEntry_cores (s : State) (i : Nat) (v : PlaitSt) : (s.setEntry i v).cores = s.cores := rfl
@[simp] theorem State.setEntry_posted (s : State) (i : Nat) (v : PlaitSt) : (s.setEntry i v).posted = s.posted := rfl
@[simp] theorem State.setEntry_adds (s : State) (i : Nat) (v : PlaitSt) : (s.setEntry i v).adds = s.adds := rfl
@[simp] theorem State.setEntry_deferred (s : State) (i : Nat) (v : PlaitSt) : (s.setEntry i v).deferred = s.deferred := rfl
@[simp] theorem State.setEntry_tokens (s : State) (i : Nat) (v : PlaitSt) : (s.setEntry i v).tokens = s.tokens := rfl
@[simp] theorem State.setEntry_srf (s : State) (i : Nat) (v : PlaitSt) : (s.setEntry i v).srf = s.srf := rfl
@[simp] theorem State.setEntry_engines (s : State) (i : Nat) (v : PlaitSt) : (s.setEntry i v).engines = s.engines := rfl
@[simp] theorem State.setEntry_arrays (s : State) (i : Nat) (v : PlaitSt) : (s.setEntry i v).arrays = s.arrays := rfl
@[simp] theorem State.setEntry_queues (s : State) (i : Nat) (v : PlaitSt) : (s.setEntry i v).queues = s.queues := rfl
@[simp] theorem State.setEntry_xferQ (s : State) (i : Nat) (v : PlaitSt) : (s.setEntry i v).xferQ = s.xferQ := rfl
@[simp] theorem State.setEntry_chains (s : State) (i : Nat) (v : PlaitSt) : (s.setEntry i v).chains = s.chains := rfl
@[simp] theorem State.setEntry_contribs (s : State) (i : Nat) (v : PlaitSt) : (s.setEntry i v).contribs = s.contribs := rfl
@[simp] theorem State.setEntry_edges (s : State) (i : Nat) (v : PlaitSt) : (s.setEntry i v).edges = s.edges := rfl
@[simp] theorem State.setEntry_colls (s : State) (i : Nat) (v : PlaitSt) : (s.setEntry i v).colls = s.colls := rfl
@[simp] theorem State.setEntry_jobs (s : State) (i : Nat) (v : PlaitSt) : (s.setEntry i v).jobs = s.jobs := rfl
@[simp] theorem State.setEntry_conns (s : State) (i : Nat) (v : PlaitSt) : (s.setEntry i v).conns = s.conns := rfl
@[simp] theorem State.setEntry_ledger (s : State) (i : Nat) (v : PlaitSt) : (s.setEntry i v).ledger = s.ledger := rfl
@[simp] theorem State.setEntry_tables (s : State) (i : Nat) (v : PlaitSt) : (s.setEntry i v).tables = s.tables := rfl
@[simp] theorem State.setEntry_slices (s : State) (i : Nat) (v : PlaitSt) : (s.setEntry i v).slices = s.slices := rfl
@[simp] theorem State.setEntry_hoists (s : State) (i : Nat) (v : PlaitSt) : (s.setEntry i v).hoists = s.hoists := rfl
@[simp] theorem State.setEntry_otp (s : State) (i : Nat) (v : PlaitSt) : (s.setEntry i v).otp = s.otp := rfl
@[simp] theorem State.setEntry_sec (s : State) (i : Nat) (v : PlaitSt) : (s.setEntry i v).sec = s.sec := rfl
@[simp] theorem State.setEntry_flash (s : State) (i : Nat) (v : PlaitSt) : (s.setEntry i v).flash = s.flash := rfl
@[simp] theorem State.setEntry_fw (s : State) (i : Nat) (v : PlaitSt) : (s.setEntry i v).fw = s.fw := rfl
@[simp] theorem State.setEntry_mm (s : State) (i : Nat) (v : PlaitSt) : (s.setEntry i v).mm = s.mm := rfl
@[simp] theorem State.setEntry_power (s : State) (i : Nat) (v : PlaitSt) : (s.setEntry i v).power = s.power := rfl
@[simp] theorem State.setEntry_tap (s : State) (i : Nat) (v : PlaitSt) : (s.setEntry i v).tap = s.tap := rfl

@[simp] theorem State.setEdge_pending (s : State) (l n : Nat) (q : List Flit) : (s.setEdge l n q).pending = s.pending := rfl
@[simp] theorem State.setEdge_free (s : State) (l n : Nat) (q : List Flit) : (s.setEdge l n q).free = s.free := rfl
@[simp] theorem State.setEdge_tick (s : State) (l n : Nat) (q : List Flit) : (s.setEdge l n q).tick = s.tick := rfl
@[simp] theorem State.setEdge_out (s : State) (l n : Nat) (q : List Flit) : (s.setEdge l n q).out = s.out := rfl
@[simp] theorem State.setEdge_evq (s : State) (l n : Nat) (q : List Flit) : (s.setEdge l n q).evq = s.evq := rfl
@[simp] theorem State.setEdge_usecN (s : State) (l n : Nat) (q : List Flit) : (s.setEdge l n q).usecN = s.usecN := rfl
@[simp] theorem State.setEdge_regs (s : State) (l n : Nat) (q : List Flit) : (s.setEdge l n q).regs = s.regs := rfl
@[simp] theorem State.setEdge_latch (s : State) (l n : Nat) (q : List Flit) : (s.setEdge l n q).latch = s.latch := rfl
@[simp] theorem State.setEdge_mem (s : State) (l n : Nat) (q : List Flit) : (s.setEdge l n q).mem = s.mem := rfl
@[simp] theorem State.setEdge_ecc (s : State) (l n : Nat) (q : List Flit) : (s.setEdge l n q).ecc = s.ecc := rfl
@[simp] theorem State.setEdge_banks (s : State) (l n : Nat) (q : List Flit) : (s.setEdge l n q).banks = s.banks := rfl
@[simp] theorem State.setEdge_tasks (s : State) (l n : Nat) (q : List Flit) : (s.setEdge l n q).tasks = s.tasks := rfl
@[simp] theorem State.setEdge_ctx (s : State) (l n : Nat) (q : List Flit) : (s.setEdge l n q).ctx = s.ctx := rfl
@[simp] theorem State.setEdge_cores (s : State) (l n : Nat) (q : List Flit) : (s.setEdge l n q).cores = s.cores := rfl
@[simp] theorem State.setEdge_posted (s : State) (l n : Nat) (q : List Flit) : (s.setEdge l n q).posted = s.posted := rfl
@[simp] theorem State.setEdge_adds (s : State) (l n : Nat) (q : List Flit) : (s.setEdge l n q).adds = s.adds := rfl
@[simp] theorem State.setEdge_deferred (s : State) (l n : Nat) (q : List Flit) : (s.setEdge l n q).deferred = s.deferred := rfl
@[simp] theorem State.setEdge_tokens (s : State) (l n : Nat) (q : List Flit) : (s.setEdge l n q).tokens = s.tokens := rfl
@[simp] theorem State.setEdge_srf (s : State) (l n : Nat) (q : List Flit) : (s.setEdge l n q).srf = s.srf := rfl
@[simp] theorem State.setEdge_engines (s : State) (l n : Nat) (q : List Flit) : (s.setEdge l n q).engines = s.engines := rfl
@[simp] theorem State.setEdge_arrays (s : State) (l n : Nat) (q : List Flit) : (s.setEdge l n q).arrays = s.arrays := rfl
@[simp] theorem State.setEdge_queues (s : State) (l n : Nat) (q : List Flit) : (s.setEdge l n q).queues = s.queues := rfl
@[simp] theorem State.setEdge_xferQ (s : State) (l n : Nat) (q : List Flit) : (s.setEdge l n q).xferQ = s.xferQ := rfl
@[simp] theorem State.setEdge_chains (s : State) (l n : Nat) (q : List Flit) : (s.setEdge l n q).chains = s.chains := rfl
@[simp] theorem State.setEdge_contribs (s : State) (l n : Nat) (q : List Flit) : (s.setEdge l n q).contribs = s.contribs := rfl
@[simp] theorem State.setEdge_plait (s : State) (l n : Nat) (q : List Flit) : (s.setEdge l n q).plait = s.plait := rfl
@[simp] theorem State.setEdge_colls (s : State) (l n : Nat) (q : List Flit) : (s.setEdge l n q).colls = s.colls := rfl
@[simp] theorem State.setEdge_jobs (s : State) (l n : Nat) (q : List Flit) : (s.setEdge l n q).jobs = s.jobs := rfl
@[simp] theorem State.setEdge_conns (s : State) (l n : Nat) (q : List Flit) : (s.setEdge l n q).conns = s.conns := rfl
@[simp] theorem State.setEdge_ledger (s : State) (l n : Nat) (q : List Flit) : (s.setEdge l n q).ledger = s.ledger := rfl
@[simp] theorem State.setEdge_tables (s : State) (l n : Nat) (q : List Flit) : (s.setEdge l n q).tables = s.tables := rfl
@[simp] theorem State.setEdge_slices (s : State) (l n : Nat) (q : List Flit) : (s.setEdge l n q).slices = s.slices := rfl
@[simp] theorem State.setEdge_hoists (s : State) (l n : Nat) (q : List Flit) : (s.setEdge l n q).hoists = s.hoists := rfl
@[simp] theorem State.setEdge_otp (s : State) (l n : Nat) (q : List Flit) : (s.setEdge l n q).otp = s.otp := rfl
@[simp] theorem State.setEdge_sec (s : State) (l n : Nat) (q : List Flit) : (s.setEdge l n q).sec = s.sec := rfl
@[simp] theorem State.setEdge_flash (s : State) (l n : Nat) (q : List Flit) : (s.setEdge l n q).flash = s.flash := rfl
@[simp] theorem State.setEdge_fw (s : State) (l n : Nat) (q : List Flit) : (s.setEdge l n q).fw = s.fw := rfl
@[simp] theorem State.setEdge_mm (s : State) (l n : Nat) (q : List Flit) : (s.setEdge l n q).mm = s.mm := rfl
@[simp] theorem State.setEdge_power (s : State) (l n : Nat) (q : List Flit) : (s.setEdge l n q).power = s.power := rfl
@[simp] theorem State.setEdge_tap (s : State) (l n : Nat) (q : List Flit) : (s.setEdge l n q).tap = s.tap := rfl

@[simp] theorem State.setJob_pending (s : State) (j : Nat) (v : JobSt) : (s.setJob j v).pending = s.pending := rfl
@[simp] theorem State.setJob_free (s : State) (j : Nat) (v : JobSt) : (s.setJob j v).free = s.free := rfl
@[simp] theorem State.setJob_tick (s : State) (j : Nat) (v : JobSt) : (s.setJob j v).tick = s.tick := rfl
@[simp] theorem State.setJob_out (s : State) (j : Nat) (v : JobSt) : (s.setJob j v).out = s.out := rfl
@[simp] theorem State.setJob_evq (s : State) (j : Nat) (v : JobSt) : (s.setJob j v).evq = s.evq := rfl
@[simp] theorem State.setJob_usecN (s : State) (j : Nat) (v : JobSt) : (s.setJob j v).usecN = s.usecN := rfl
@[simp] theorem State.setJob_regs (s : State) (j : Nat) (v : JobSt) : (s.setJob j v).regs = s.regs := rfl
@[simp] theorem State.setJob_latch (s : State) (j : Nat) (v : JobSt) : (s.setJob j v).latch = s.latch := rfl
@[simp] theorem State.setJob_mem (s : State) (j : Nat) (v : JobSt) : (s.setJob j v).mem = s.mem := rfl
@[simp] theorem State.setJob_ecc (s : State) (j : Nat) (v : JobSt) : (s.setJob j v).ecc = s.ecc := rfl
@[simp] theorem State.setJob_banks (s : State) (j : Nat) (v : JobSt) : (s.setJob j v).banks = s.banks := rfl
@[simp] theorem State.setJob_tasks (s : State) (j : Nat) (v : JobSt) : (s.setJob j v).tasks = s.tasks := rfl
@[simp] theorem State.setJob_ctx (s : State) (j : Nat) (v : JobSt) : (s.setJob j v).ctx = s.ctx := rfl
@[simp] theorem State.setJob_cores (s : State) (j : Nat) (v : JobSt) : (s.setJob j v).cores = s.cores := rfl
@[simp] theorem State.setJob_posted (s : State) (j : Nat) (v : JobSt) : (s.setJob j v).posted = s.posted := rfl
@[simp] theorem State.setJob_adds (s : State) (j : Nat) (v : JobSt) : (s.setJob j v).adds = s.adds := rfl
@[simp] theorem State.setJob_deferred (s : State) (j : Nat) (v : JobSt) : (s.setJob j v).deferred = s.deferred := rfl
@[simp] theorem State.setJob_tokens (s : State) (j : Nat) (v : JobSt) : (s.setJob j v).tokens = s.tokens := rfl
@[simp] theorem State.setJob_srf (s : State) (j : Nat) (v : JobSt) : (s.setJob j v).srf = s.srf := rfl
@[simp] theorem State.setJob_engines (s : State) (j : Nat) (v : JobSt) : (s.setJob j v).engines = s.engines := rfl
@[simp] theorem State.setJob_arrays (s : State) (j : Nat) (v : JobSt) : (s.setJob j v).arrays = s.arrays := rfl
@[simp] theorem State.setJob_queues (s : State) (j : Nat) (v : JobSt) : (s.setJob j v).queues = s.queues := rfl
@[simp] theorem State.setJob_xferQ (s : State) (j : Nat) (v : JobSt) : (s.setJob j v).xferQ = s.xferQ := rfl
@[simp] theorem State.setJob_chains (s : State) (j : Nat) (v : JobSt) : (s.setJob j v).chains = s.chains := rfl
@[simp] theorem State.setJob_contribs (s : State) (j : Nat) (v : JobSt) : (s.setJob j v).contribs = s.contribs := rfl
@[simp] theorem State.setJob_plait (s : State) (j : Nat) (v : JobSt) : (s.setJob j v).plait = s.plait := rfl
@[simp] theorem State.setJob_edges (s : State) (j : Nat) (v : JobSt) : (s.setJob j v).edges = s.edges := rfl
@[simp] theorem State.setJob_colls (s : State) (j : Nat) (v : JobSt) : (s.setJob j v).colls = s.colls := rfl
@[simp] theorem State.setJob_conns (s : State) (j : Nat) (v : JobSt) : (s.setJob j v).conns = s.conns := rfl
@[simp] theorem State.setJob_ledger (s : State) (j : Nat) (v : JobSt) : (s.setJob j v).ledger = s.ledger := rfl
@[simp] theorem State.setJob_tables (s : State) (j : Nat) (v : JobSt) : (s.setJob j v).tables = s.tables := rfl
@[simp] theorem State.setJob_slices (s : State) (j : Nat) (v : JobSt) : (s.setJob j v).slices = s.slices := rfl
@[simp] theorem State.setJob_hoists (s : State) (j : Nat) (v : JobSt) : (s.setJob j v).hoists = s.hoists := rfl
@[simp] theorem State.setJob_otp (s : State) (j : Nat) (v : JobSt) : (s.setJob j v).otp = s.otp := rfl
@[simp] theorem State.setJob_sec (s : State) (j : Nat) (v : JobSt) : (s.setJob j v).sec = s.sec := rfl
@[simp] theorem State.setJob_flash (s : State) (j : Nat) (v : JobSt) : (s.setJob j v).flash = s.flash := rfl
@[simp] theorem State.setJob_fw (s : State) (j : Nat) (v : JobSt) : (s.setJob j v).fw = s.fw := rfl
@[simp] theorem State.setJob_mm (s : State) (j : Nat) (v : JobSt) : (s.setJob j v).mm = s.mm := rfl
@[simp] theorem State.setJob_power (s : State) (j : Nat) (v : JobSt) : (s.setJob j v).power = s.power := rfl
@[simp] theorem State.setJob_tap (s : State) (j : Nat) (v : JobSt) : (s.setJob j v).tap = s.tap := rfl

@[simp] theorem State.setColl_pending (s : State) (h w : Nat) (v : Word) : (s.setColl h w v).pending = s.pending := rfl
@[simp] theorem State.setColl_free (s : State) (h w : Nat) (v : Word) : (s.setColl h w v).free = s.free := rfl
@[simp] theorem State.setColl_tick (s : State) (h w : Nat) (v : Word) : (s.setColl h w v).tick = s.tick := rfl
@[simp] theorem State.setColl_out (s : State) (h w : Nat) (v : Word) : (s.setColl h w v).out = s.out := rfl
@[simp] theorem State.setColl_evq (s : State) (h w : Nat) (v : Word) : (s.setColl h w v).evq = s.evq := rfl
@[simp] theorem State.setColl_usecN (s : State) (h w : Nat) (v : Word) : (s.setColl h w v).usecN = s.usecN := rfl
@[simp] theorem State.setColl_regs (s : State) (h w : Nat) (v : Word) : (s.setColl h w v).regs = s.regs := rfl
@[simp] theorem State.setColl_latch (s : State) (h w : Nat) (v : Word) : (s.setColl h w v).latch = s.latch := rfl
@[simp] theorem State.setColl_mem (s : State) (h w : Nat) (v : Word) : (s.setColl h w v).mem = s.mem := rfl
@[simp] theorem State.setColl_ecc (s : State) (h w : Nat) (v : Word) : (s.setColl h w v).ecc = s.ecc := rfl
@[simp] theorem State.setColl_banks (s : State) (h w : Nat) (v : Word) : (s.setColl h w v).banks = s.banks := rfl
@[simp] theorem State.setColl_tasks (s : State) (h w : Nat) (v : Word) : (s.setColl h w v).tasks = s.tasks := rfl
@[simp] theorem State.setColl_ctx (s : State) (h w : Nat) (v : Word) : (s.setColl h w v).ctx = s.ctx := rfl
@[simp] theorem State.setColl_cores (s : State) (h w : Nat) (v : Word) : (s.setColl h w v).cores = s.cores := rfl
@[simp] theorem State.setColl_posted (s : State) (h w : Nat) (v : Word) : (s.setColl h w v).posted = s.posted := rfl
@[simp] theorem State.setColl_adds (s : State) (h w : Nat) (v : Word) : (s.setColl h w v).adds = s.adds := rfl
@[simp] theorem State.setColl_deferred (s : State) (h w : Nat) (v : Word) : (s.setColl h w v).deferred = s.deferred := rfl
@[simp] theorem State.setColl_tokens (s : State) (h w : Nat) (v : Word) : (s.setColl h w v).tokens = s.tokens := rfl
@[simp] theorem State.setColl_srf (s : State) (h w : Nat) (v : Word) : (s.setColl h w v).srf = s.srf := rfl
@[simp] theorem State.setColl_engines (s : State) (h w : Nat) (v : Word) : (s.setColl h w v).engines = s.engines := rfl
@[simp] theorem State.setColl_arrays (s : State) (h w : Nat) (v : Word) : (s.setColl h w v).arrays = s.arrays := rfl
@[simp] theorem State.setColl_queues (s : State) (h w : Nat) (v : Word) : (s.setColl h w v).queues = s.queues := rfl
@[simp] theorem State.setColl_xferQ (s : State) (h w : Nat) (v : Word) : (s.setColl h w v).xferQ = s.xferQ := rfl
@[simp] theorem State.setColl_chains (s : State) (h w : Nat) (v : Word) : (s.setColl h w v).chains = s.chains := rfl
@[simp] theorem State.setColl_contribs (s : State) (h w : Nat) (v : Word) : (s.setColl h w v).contribs = s.contribs := rfl
@[simp] theorem State.setColl_plait (s : State) (h w : Nat) (v : Word) : (s.setColl h w v).plait = s.plait := rfl
@[simp] theorem State.setColl_edges (s : State) (h w : Nat) (v : Word) : (s.setColl h w v).edges = s.edges := rfl
@[simp] theorem State.setColl_jobs (s : State) (h w : Nat) (v : Word) : (s.setColl h w v).jobs = s.jobs := rfl
@[simp] theorem State.setColl_conns (s : State) (h w : Nat) (v : Word) : (s.setColl h w v).conns = s.conns := rfl
@[simp] theorem State.setColl_ledger (s : State) (h w : Nat) (v : Word) : (s.setColl h w v).ledger = s.ledger := rfl
@[simp] theorem State.setColl_tables (s : State) (h w : Nat) (v : Word) : (s.setColl h w v).tables = s.tables := rfl
@[simp] theorem State.setColl_slices (s : State) (h w : Nat) (v : Word) : (s.setColl h w v).slices = s.slices := rfl
@[simp] theorem State.setColl_hoists (s : State) (h w : Nat) (v : Word) : (s.setColl h w v).hoists = s.hoists := rfl
@[simp] theorem State.setColl_otp (s : State) (h w : Nat) (v : Word) : (s.setColl h w v).otp = s.otp := rfl
@[simp] theorem State.setColl_sec (s : State) (h w : Nat) (v : Word) : (s.setColl h w v).sec = s.sec := rfl
@[simp] theorem State.setColl_flash (s : State) (h w : Nat) (v : Word) : (s.setColl h w v).flash = s.flash := rfl
@[simp] theorem State.setColl_fw (s : State) (h w : Nat) (v : Word) : (s.setColl h w v).fw = s.fw := rfl
@[simp] theorem State.setColl_mm (s : State) (h w : Nat) (v : Word) : (s.setColl h w v).mm = s.mm := rfl
@[simp] theorem State.setColl_power (s : State) (h w : Nat) (v : Word) : (s.setColl h w v).power = s.power := rfl
@[simp] theorem State.setColl_tap (s : State) (h w : Nat) (v : Word) : (s.setColl h w v).tap = s.tap := rfl

@[simp] theorem State.bumpToken_pending (s : State) (a n : Nat) (e : Bool) : (s.bumpToken a n e).pending = s.pending := rfl
@[simp] theorem State.bumpToken_free (s : State) (a n : Nat) (e : Bool) : (s.bumpToken a n e).free = s.free := rfl
@[simp] theorem State.bumpToken_tick (s : State) (a n : Nat) (e : Bool) : (s.bumpToken a n e).tick = s.tick := rfl
@[simp] theorem State.bumpToken_out (s : State) (a n : Nat) (e : Bool) : (s.bumpToken a n e).out = s.out := rfl
@[simp] theorem State.bumpToken_evq (s : State) (a n : Nat) (e : Bool) : (s.bumpToken a n e).evq = s.evq := rfl
@[simp] theorem State.bumpToken_usecN (s : State) (a n : Nat) (e : Bool) : (s.bumpToken a n e).usecN = s.usecN := rfl
@[simp] theorem State.bumpToken_regs (s : State) (a n : Nat) (e : Bool) : (s.bumpToken a n e).regs = s.regs := rfl
@[simp] theorem State.bumpToken_latch (s : State) (a n : Nat) (e : Bool) : (s.bumpToken a n e).latch = s.latch := rfl
@[simp] theorem State.bumpToken_mem (s : State) (a n : Nat) (e : Bool) : (s.bumpToken a n e).mem = s.mem := rfl
@[simp] theorem State.bumpToken_ecc (s : State) (a n : Nat) (e : Bool) : (s.bumpToken a n e).ecc = s.ecc := rfl
@[simp] theorem State.bumpToken_banks (s : State) (a n : Nat) (e : Bool) : (s.bumpToken a n e).banks = s.banks := rfl
@[simp] theorem State.bumpToken_tasks (s : State) (a n : Nat) (e : Bool) : (s.bumpToken a n e).tasks = s.tasks := rfl
@[simp] theorem State.bumpToken_ctx (s : State) (a n : Nat) (e : Bool) : (s.bumpToken a n e).ctx = s.ctx := rfl
@[simp] theorem State.bumpToken_cores (s : State) (a n : Nat) (e : Bool) : (s.bumpToken a n e).cores = s.cores := rfl
@[simp] theorem State.bumpToken_posted (s : State) (a n : Nat) (e : Bool) : (s.bumpToken a n e).posted = s.posted := rfl
@[simp] theorem State.bumpToken_adds (s : State) (a n : Nat) (e : Bool) : (s.bumpToken a n e).adds = s.adds := rfl
@[simp] theorem State.bumpToken_deferred (s : State) (a n : Nat) (e : Bool) : (s.bumpToken a n e).deferred = s.deferred := rfl
@[simp] theorem State.bumpToken_srf (s : State) (a n : Nat) (e : Bool) : (s.bumpToken a n e).srf = s.srf := rfl
@[simp] theorem State.bumpToken_engines (s : State) (a n : Nat) (e : Bool) : (s.bumpToken a n e).engines = s.engines := rfl
@[simp] theorem State.bumpToken_arrays (s : State) (a n : Nat) (e : Bool) : (s.bumpToken a n e).arrays = s.arrays := rfl
@[simp] theorem State.bumpToken_queues (s : State) (a n : Nat) (e : Bool) : (s.bumpToken a n e).queues = s.queues := rfl
@[simp] theorem State.bumpToken_xferQ (s : State) (a n : Nat) (e : Bool) : (s.bumpToken a n e).xferQ = s.xferQ := rfl
@[simp] theorem State.bumpToken_chains (s : State) (a n : Nat) (e : Bool) : (s.bumpToken a n e).chains = s.chains := rfl
@[simp] theorem State.bumpToken_contribs (s : State) (a n : Nat) (e : Bool) : (s.bumpToken a n e).contribs = s.contribs := rfl
@[simp] theorem State.bumpToken_plait (s : State) (a n : Nat) (e : Bool) : (s.bumpToken a n e).plait = s.plait := rfl
@[simp] theorem State.bumpToken_edges (s : State) (a n : Nat) (e : Bool) : (s.bumpToken a n e).edges = s.edges := rfl
@[simp] theorem State.bumpToken_colls (s : State) (a n : Nat) (e : Bool) : (s.bumpToken a n e).colls = s.colls := rfl
@[simp] theorem State.bumpToken_jobs (s : State) (a n : Nat) (e : Bool) : (s.bumpToken a n e).jobs = s.jobs := rfl
@[simp] theorem State.bumpToken_conns (s : State) (a n : Nat) (e : Bool) : (s.bumpToken a n e).conns = s.conns := rfl
@[simp] theorem State.bumpToken_ledger (s : State) (a n : Nat) (e : Bool) : (s.bumpToken a n e).ledger = s.ledger := rfl
@[simp] theorem State.bumpToken_tables (s : State) (a n : Nat) (e : Bool) : (s.bumpToken a n e).tables = s.tables := rfl
@[simp] theorem State.bumpToken_slices (s : State) (a n : Nat) (e : Bool) : (s.bumpToken a n e).slices = s.slices := rfl
@[simp] theorem State.bumpToken_hoists (s : State) (a n : Nat) (e : Bool) : (s.bumpToken a n e).hoists = s.hoists := rfl
@[simp] theorem State.bumpToken_otp (s : State) (a n : Nat) (e : Bool) : (s.bumpToken a n e).otp = s.otp := rfl
@[simp] theorem State.bumpToken_sec (s : State) (a n : Nat) (e : Bool) : (s.bumpToken a n e).sec = s.sec := rfl
@[simp] theorem State.bumpToken_flash (s : State) (a n : Nat) (e : Bool) : (s.bumpToken a n e).flash = s.flash := rfl
@[simp] theorem State.bumpToken_fw (s : State) (a n : Nat) (e : Bool) : (s.bumpToken a n e).fw = s.fw := rfl
@[simp] theorem State.bumpToken_mm (s : State) (a n : Nat) (e : Bool) : (s.bumpToken a n e).mm = s.mm := rfl
@[simp] theorem State.bumpToken_power (s : State) (a n : Nat) (e : Bool) : (s.bumpToken a n e).power = s.power := rfl
@[simp] theorem State.bumpToken_tap (s : State) (a n : Nat) (e : Bool) : (s.bumpToken a n e).tap = s.tap := rfl

/-! ### Reads after writes -/

theorem State.rd_wr (s : State) (a : Nat) (v : Word) (b : Nat) : (s.wr a v).rd b = if b = a then v else s.rd b := by
  unfold State.rd State.wr
  split
  · rename_i h
    rw [h]
    exact SMap.get_put_self ..
  · exact SMap.get_put_other _ _ _ _ ‹_›
@[simp] theorem State.rd_wr_self (s : State) (a : Nat) (v : Word) : (s.wr a v).rd a = v := by simp [State.rd_wr]
theorem State.rd_wr_other (s : State) {a b : Nat} (v : Word) (h : b ≠ a) : (s.wr a v).rd b = s.rd b := by simp [State.rd_wr, h]
theorem State.rd_setFld_other (s : State) {a b : Nat} (lo n v : Nat) (h : b ≠ a) : (s.setFld a lo n v).rd b = s.rd b := State.rd_wr_other _ _ h
theorem State.rd_setBit_other (s : State) {a b : Nat} (i : Nat) (v : Bool) (h : b ≠ a) : (s.setBit a i v).rd b = s.rd b := State.rd_wr_other _ _ h
@[simp] theorem State.context_setContext_self (s : State) (x : Nat) (c : Ctx) : (s.setContext x c).context x = c := SMap.get_put_self ..
theorem State.context_setContext_other (s : State) (x : Nat) (c : Ctx) {j : Nat} (h : j ≠ x) : (s.setContext x c).context j = s.context j := SMap.get_put_other _ _ _ _ h
@[simp] theorem State.task_setTask_self (s : State) (k : Nat) (t : Task) : (s.setTask k t).task k = t := SMap.get_put_self ..
theorem State.task_setTask_other (s : State) (k : Nat) (t : Task) {j : Nat} (h : j ≠ k) : (s.setTask k t).task j = s.task j := SMap.get_put_other _ _ _ _ h
@[simp] theorem State.bank_setBank_self (s : State) (b : Nat) (v : BankSt) : (s.setBank b v).bank b = v := SMap.get_put_self ..
theorem State.bank_setBank_other (s : State) (b : Nat) (v : BankSt) {j : Nat} (h : j ≠ b) : (s.setBank b v).bank j = s.bank j := SMap.get_put_other _ _ _ _ h
@[simp] theorem State.core_setCore_self (s : State) (c : Nat) (v : CoreSt) : (s.setCore c v).core c = v := SMap.get_put_self ..
theorem State.core_setCore_other (s : State) (c : Nat) (v : CoreSt) {j : Nat} (h : j ≠ c) : (s.setCore c v).core j = s.core j := SMap.get_put_other _ _ _ _ h
@[simp] theorem State.token_setToken_self (s : State) (a : Nat) (v : Token) : (s.setToken a v).token a = v := SMap.get_put_self ..
theorem State.token_setToken_other (s : State) (a : Nat) (v : Token) {j : Nat} (h : j ≠ a) : (s.setToken a v).token j = s.token j := SMap.get_put_other _ _ _ _ h
@[simp] theorem State.array_setArray_self (s : State) (m : Nat) (v : ArraySt) : (s.setArray m v).array m = v := SMap.get_put_self ..
theorem State.array_setArray_other (s : State) (m : Nat) (v : ArraySt) {j : Nat} (h : j ≠ m) : (s.setArray m v).array j = s.array j := SMap.get_put_other _ _ _ _ h
@[simp] theorem State.queue_setQueue_self (s : State) (m : Nat) (v : List Nat) : (s.setQueue m v).queue m = v := SMap.get_put_self ..
theorem State.queue_setQueue_other (s : State) (m : Nat) (v : List Nat) {j : Nat} (h : j ≠ m) : (s.setQueue m v).queue j = s.queue j := SMap.get_put_other _ _ _ _ h
@[simp] theorem State.xfers_setXfers_self (s : State) (m : Nat) (v : List XCmd) : (s.setXfers m v).xfers m = v := SMap.get_put_self ..
theorem State.xfers_setXfers_other (s : State) (m : Nat) (v : List XCmd) {j : Nat} (h : j ≠ m) : (s.setXfers m v).xfers j = s.xfers j := SMap.get_put_other _ _ _ _ h
@[simp] theorem State.chainsOf_setChains_self (s : State) (m : Nat) (v : List Chain) : (s.setChains m v).chainsOf m = v := SMap.get_put_self ..
theorem State.chainsOf_setChains_other (s : State) (m : Nat) (v : List Chain) {j : Nat} (h : j ≠ m) : (s.setChains m v).chainsOf j = s.chainsOf j := SMap.get_put_other _ _ _ _ h
@[simp] theorem State.entry_setEntry_self (s : State) (i : Nat) (v : PlaitSt) : (s.setEntry i v).entry i = v := SMap.get_put_self ..
theorem State.entry_setEntry_other (s : State) (i : Nat) (v : PlaitSt) {j : Nat} (h : j ≠ i) : (s.setEntry i v).entry j = s.entry j := SMap.get_put_other _ _ _ _ h
@[simp] theorem State.job_setJob_self (s : State) (i : Nat) (v : JobSt) : (s.setJob i v).job i = v := SMap.get_put_self ..
theorem State.job_setJob_other (s : State) (i : Nat) (v : JobSt) {j : Nat} (h : j ≠ i) : (s.setJob i v).job j = s.job j := SMap.get_put_other _ _ _ _ h
@[simp] theorem State.byte_setByte_self (s : State) (a : Nat) (v : Byte) : (s.setByte a v).byte a = v := SMap.get_put_self ..
theorem State.byte_setByte_other (s : State) {a b : Nat} (v : Byte) (h : b ≠ a) : (s.setByte a v).byte b = s.byte b := SMap.get_put_other _ _ _ _ h
/-- Two states with the same memory and banks read the same bytes. -/
theorem State.byte_congr {s t : State} (hm : t.mem = s.mem) (hb : t.banks = s.banks) (a : Nat) : t.byte a = s.byte a := by
  unfold State.byte
  rw [hm, hb]
/-- Two states with the same registers read the same words. -/
theorem State.rd_congr {s t : State} (h : t.regs = s.regs) (a : Nat) : t.rd a = s.rd a := by
  unfold State.rd
  rw [h]
@[simp] theorem State.byte_wr (s : State) (a : Nat) (v : Word) (b : Nat) : (s.wr a v).byte b = s.byte b := rfl
@[simp] theorem State.task_wr (s : State) (a : Nat) (v : Word) (j : Nat) : (s.wr a v).task j = s.task j := rfl
@[simp] theorem State.context_wr (s : State) (a : Nat) (v : Word) (j : Nat) : (s.wr a v).context j = s.context j := rfl
@[simp] theorem State.bank_wr (s : State) (a : Nat) (v : Word) (j : Nat) : (s.wr a v).bank j = s.bank j := rfl
@[simp] theorem State.job_wr (s : State) (a : Nat) (v : Word) (j : Nat) : (s.wr a v).job j = s.job j := rfl
@[simp] theorem State.core_wr (s : State) (a : Nat) (v : Word) (j : Nat) : (s.wr a v).core j = s.core j := rfl
@[simp] theorem State.token_wr (s : State) (a : Nat) (v : Word) (j : Nat) : (s.wr a v).token j = s.token j := rfl
@[simp] theorem State.scale_wr (s : State) (a : Nat) (v : Word) (m j : Nat) : (s.wr a v).scale m j = s.scale m j := rfl
@[simp] theorem State.engine_wr (s : State) (a : Nat) (v : Word) (m j : Nat) : (s.wr a v).engine m j = s.engine m j := rfl
@[simp] theorem State.array_wr (s : State) (a : Nat) (v : Word) (j : Nat) : (s.wr a v).array j = s.array j := rfl
@[simp] theorem State.queue_wr (s : State) (a : Nat) (v : Word) (j : Nat) : (s.wr a v).queue j = s.queue j := rfl
@[simp] theorem State.byte_setFld (s : State) (a lo n v : Nat) (b : Nat) : (s.setFld a lo n v).byte b = s.byte b := rfl
@[simp] theorem State.task_setFld (s : State) (a lo n v : Nat) (j : Nat) : (s.setFld a lo n v).task j = s.task j := rfl
@[simp] theorem State.context_setFld (s : State) (a lo n v : Nat) (j : Nat) : (s.setFld a lo n v).context j = s.context j := rfl
@[simp] theorem State.bank_setFld (s : State) (a lo n v : Nat) (j : Nat) : (s.setFld a lo n v).bank j = s.bank j := rfl
@[simp] theorem State.job_setFld (s : State) (a lo n v : Nat) (j : Nat) : (s.setFld a lo n v).job j = s.job j := rfl
@[simp] theorem State.core_setFld (s : State) (a lo n v : Nat) (j : Nat) : (s.setFld a lo n v).core j = s.core j := rfl
@[simp] theorem State.token_setFld (s : State) (a lo n v : Nat) (j : Nat) : (s.setFld a lo n v).token j = s.token j := rfl
@[simp] theorem State.scale_setFld (s : State) (a lo n v : Nat) (m j : Nat) : (s.setFld a lo n v).scale m j = s.scale m j := rfl
@[simp] theorem State.engine_setFld (s : State) (a lo n v : Nat) (m j : Nat) : (s.setFld a lo n v).engine m j = s.engine m j := rfl
@[simp] theorem State.array_setFld (s : State) (a lo n v : Nat) (j : Nat) : (s.setFld a lo n v).array j = s.array j := rfl
@[simp] theorem State.queue_setFld (s : State) (a lo n v : Nat) (j : Nat) : (s.setFld a lo n v).queue j = s.queue j := rfl
@[simp] theorem State.byte_setBit (s : State) (a i : Nat) (v : Bool) (b : Nat) : (s.setBit a i v).byte b = s.byte b := rfl
@[simp] theorem State.task_setBit (s : State) (a i : Nat) (v : Bool) (j : Nat) : (s.setBit a i v).task j = s.task j := rfl
@[simp] theorem State.context_setBit (s : State) (a i : Nat) (v : Bool) (j : Nat) : (s.setBit a i v).context j = s.context j := rfl
@[simp] theorem State.bank_setBit (s : State) (a i : Nat) (v : Bool) (j : Nat) : (s.setBit a i v).bank j = s.bank j := rfl
@[simp] theorem State.job_setBit (s : State) (a i : Nat) (v : Bool) (j : Nat) : (s.setBit a i v).job j = s.job j := rfl
@[simp] theorem State.core_setBit (s : State) (a i : Nat) (v : Bool) (j : Nat) : (s.setBit a i v).core j = s.core j := rfl
@[simp] theorem State.token_setBit (s : State) (a i : Nat) (v : Bool) (j : Nat) : (s.setBit a i v).token j = s.token j := rfl
@[simp] theorem State.scale_setBit (s : State) (a i : Nat) (v : Bool) (m j : Nat) : (s.setBit a i v).scale m j = s.scale m j := rfl
@[simp] theorem State.engine_setBit (s : State) (a i : Nat) (v : Bool) (m j : Nat) : (s.setBit a i v).engine m j = s.engine m j := rfl
@[simp] theorem State.array_setBit (s : State) (a i : Nat) (v : Bool) (j : Nat) : (s.setBit a i v).array j = s.array j := rfl
@[simp] theorem State.queue_setBit (s : State) (a i : Nat) (v : Bool) (j : Nat) : (s.setBit a i v).queue j = s.queue j := rfl
@[simp] theorem State.byte_count (s : State) (a lo n k : Nat) (b : Nat) : (s.count a lo n k).byte b = s.byte b := rfl
@[simp] theorem State.task_count (s : State) (a lo n k : Nat) (j : Nat) : (s.count a lo n k).task j = s.task j := rfl
@[simp] theorem State.context_count (s : State) (a lo n k : Nat) (j : Nat) : (s.count a lo n k).context j = s.context j := rfl
@[simp] theorem State.bank_count (s : State) (a lo n k : Nat) (j : Nat) : (s.count a lo n k).bank j = s.bank j := rfl
@[simp] theorem State.job_count (s : State) (a lo n k : Nat) (j : Nat) : (s.count a lo n k).job j = s.job j := rfl
@[simp] theorem State.core_count (s : State) (a lo n k : Nat) (j : Nat) : (s.count a lo n k).core j = s.core j := rfl
@[simp] theorem State.token_count (s : State) (a lo n k : Nat) (j : Nat) : (s.count a lo n k).token j = s.token j := rfl
@[simp] theorem State.scale_count (s : State) (a lo n k : Nat) (m j : Nat) : (s.count a lo n k).scale m j = s.scale m j := rfl
@[simp] theorem State.engine_count (s : State) (a lo n k : Nat) (m j : Nat) : (s.count a lo n k).engine m j = s.engine m j := rfl
@[simp] theorem State.array_count (s : State) (a lo n k : Nat) (j : Nat) : (s.count a lo n k).array j = s.array j := rfl
@[simp] theorem State.queue_count (s : State) (a lo n k : Nat) (j : Nat) : (s.count a lo n k).queue j = s.queue j := rfl
@[simp] theorem State.rd_numbered (s : State) (b : Nat) : (s.numbered).rd b = s.rd b := rfl
@[simp] theorem State.byte_numbered (s : State) (b : Nat) : (s.numbered).byte b = s.byte b := rfl
@[simp] theorem State.task_numbered (s : State) (j : Nat) : (s.numbered).task j = s.task j := rfl
@[simp] theorem State.context_numbered (s : State) (j : Nat) : (s.numbered).context j = s.context j := rfl
@[simp] theorem State.bank_numbered (s : State) (j : Nat) : (s.numbered).bank j = s.bank j := rfl
@[simp] theorem State.job_numbered (s : State) (j : Nat) : (s.numbered).job j = s.job j := rfl
@[simp] theorem State.core_numbered (s : State) (j : Nat) : (s.numbered).core j = s.core j := rfl
@[simp] theorem State.token_numbered (s : State) (j : Nat) : (s.numbered).token j = s.token j := rfl
@[simp] theorem State.scale_numbered (s : State) (m j : Nat) : (s.numbered).scale m j = s.scale m j := rfl
@[simp] theorem State.engine_numbered (s : State) (m j : Nat) : (s.numbered).engine m j = s.engine m j := rfl
@[simp] theorem State.array_numbered (s : State) (j : Nat) : (s.numbered).array j = s.array j := rfl
@[simp] theorem State.queue_numbered (s : State) (j : Nat) : (s.numbered).queue j = s.queue j := rfl
@[simp] theorem State.rd_emit (s : State) (o : Out) (b : Nat) : (s.emit o).rd b = s.rd b := rfl
@[simp] theorem State.byte_emit (s : State) (o : Out) (b : Nat) : (s.emit o).byte b = s.byte b := rfl
@[simp] theorem State.task_emit (s : State) (o : Out) (j : Nat) : (s.emit o).task j = s.task j := rfl
@[simp] theorem State.context_emit (s : State) (o : Out) (j : Nat) : (s.emit o).context j = s.context j := rfl
@[simp] theorem State.bank_emit (s : State) (o : Out) (j : Nat) : (s.emit o).bank j = s.bank j := rfl
@[simp] theorem State.job_emit (s : State) (o : Out) (j : Nat) : (s.emit o).job j = s.job j := rfl
@[simp] theorem State.core_emit (s : State) (o : Out) (j : Nat) : (s.emit o).core j = s.core j := rfl
@[simp] theorem State.token_emit (s : State) (o : Out) (j : Nat) : (s.emit o).token j = s.token j := rfl
@[simp] theorem State.scale_emit (s : State) (o : Out) (m j : Nat) : (s.emit o).scale m j = s.scale m j := rfl
@[simp] theorem State.engine_emit (s : State) (o : Out) (m j : Nat) : (s.emit o).engine m j = s.engine m j := rfl
@[simp] theorem State.array_emit (s : State) (o : Out) (j : Nat) : (s.emit o).array j = s.array j := rfl
@[simp] theorem State.queue_emit (s : State) (o : Out) (j : Nat) : (s.emit o).queue j = s.queue j := rfl
@[simp] theorem State.byte_raise (s : State) (c : Code) (k : EvClass) (w : Nat) (d : List Nat) (b : Nat) : (s.raise c k w d).byte b = s.byte b := rfl
@[simp] theorem State.task_raise (s : State) (c : Code) (k : EvClass) (w : Nat) (d : List Nat) (j : Nat) : (s.raise c k w d).task j = s.task j := rfl
@[simp] theorem State.context_raise (s : State) (c : Code) (k : EvClass) (w : Nat) (d : List Nat) (j : Nat) : (s.raise c k w d).context j = s.context j := rfl
@[simp] theorem State.bank_raise (s : State) (c : Code) (k : EvClass) (w : Nat) (d : List Nat) (j : Nat) : (s.raise c k w d).bank j = s.bank j := rfl
@[simp] theorem State.job_raise (s : State) (c : Code) (k : EvClass) (w : Nat) (d : List Nat) (j : Nat) : (s.raise c k w d).job j = s.job j := rfl
@[simp] theorem State.core_raise (s : State) (c : Code) (k : EvClass) (w : Nat) (d : List Nat) (j : Nat) : (s.raise c k w d).core j = s.core j := rfl
@[simp] theorem State.token_raise (s : State) (c : Code) (k : EvClass) (w : Nat) (d : List Nat) (j : Nat) : (s.raise c k w d).token j = s.token j := rfl
@[simp] theorem State.scale_raise (s : State) (c : Code) (k : EvClass) (w : Nat) (d : List Nat) (m j : Nat) : (s.raise c k w d).scale m j = s.scale m j := rfl
@[simp] theorem State.engine_raise (s : State) (c : Code) (k : EvClass) (w : Nat) (d : List Nat) (m j : Nat) : (s.raise c k w d).engine m j = s.engine m j := rfl
@[simp] theorem State.array_raise (s : State) (c : Code) (k : EvClass) (w : Nat) (d : List Nat) (j : Nat) : (s.raise c k w d).array j = s.array j := rfl
@[simp] theorem State.queue_raise (s : State) (c : Code) (k : EvClass) (w : Nat) (d : List Nat) (j : Nat) : (s.raise c k w d).queue j = s.queue j := rfl
@[simp] theorem State.rd_setBank (s : State) (b : Nat) (v : BankSt) (b' : Nat) : (s.setBank b v).rd b' = s.rd b' := rfl
@[simp] theorem State.task_setBank (s : State) (b : Nat) (v : BankSt) (j : Nat) : (s.setBank b v).task j = s.task j := rfl
@[simp] theorem State.context_setBank (s : State) (b : Nat) (v : BankSt) (j : Nat) : (s.setBank b v).context j = s.context j := rfl
@[simp] theorem State.job_setBank (s : State) (b : Nat) (v : BankSt) (j : Nat) : (s.setBank b v).job j = s.job j := rfl
@[simp] theorem State.core_setBank (s : State) (b : Nat) (v : BankSt) (j : Nat) : (s.setBank b v).core j = s.core j := rfl
@[simp] theorem State.token_setBank (s : State) (b : Nat) (v : BankSt) (j : Nat) : (s.setBank b v).token j = s.token j := rfl
@[simp] theorem State.scale_setBank (s : State) (b : Nat) (v : BankSt) (m j : Nat) : (s.setBank b v).scale m j = s.scale m j := rfl
@[simp] theorem State.engine_setBank (s : State) (b : Nat) (v : BankSt) (m j : Nat) : (s.setBank b v).engine m j = s.engine m j := rfl
@[simp] theorem State.array_setBank (s : State) (b : Nat) (v : BankSt) (j : Nat) : (s.setBank b v).array j = s.array j := rfl
@[simp] theorem State.queue_setBank (s : State) (b : Nat) (v : BankSt) (j : Nat) : (s.setBank b v).queue j = s.queue j := rfl
@[simp] theorem State.rd_setByte (s : State) (a : Nat) (v : Byte) (b : Nat) : (s.setByte a v).rd b = s.rd b := rfl
@[simp] theorem State.task_setByte (s : State) (a : Nat) (v : Byte) (j : Nat) : (s.setByte a v).task j = s.task j := rfl
@[simp] theorem State.context_setByte (s : State) (a : Nat) (v : Byte) (j : Nat) : (s.setByte a v).context j = s.context j := rfl
@[simp] theorem State.bank_setByte (s : State) (a : Nat) (v : Byte) (j : Nat) : (s.setByte a v).bank j = s.bank j := rfl
@[simp] theorem State.job_setByte (s : State) (a : Nat) (v : Byte) (j : Nat) : (s.setByte a v).job j = s.job j := rfl
@[simp] theorem State.core_setByte (s : State) (a : Nat) (v : Byte) (j : Nat) : (s.setByte a v).core j = s.core j := rfl
@[simp] theorem State.token_setByte (s : State) (a : Nat) (v : Byte) (j : Nat) : (s.setByte a v).token j = s.token j := rfl
@[simp] theorem State.scale_setByte (s : State) (a : Nat) (v : Byte) (m j : Nat) : (s.setByte a v).scale m j = s.scale m j := rfl
@[simp] theorem State.engine_setByte (s : State) (a : Nat) (v : Byte) (m j : Nat) : (s.setByte a v).engine m j = s.engine m j := rfl
@[simp] theorem State.array_setByte (s : State) (a : Nat) (v : Byte) (j : Nat) : (s.setByte a v).array j = s.array j := rfl
@[simp] theorem State.queue_setByte (s : State) (a : Nat) (v : Byte) (j : Nat) : (s.setByte a v).queue j = s.queue j := rfl
@[simp] theorem State.rd_setMark (s : State) (a m : Nat) (b : Nat) : (s.setMark a m).rd b = s.rd b := rfl
@[simp] theorem State.byte_setMark (s : State) (a m : Nat) (b : Nat) : (s.setMark a m).byte b = s.byte b := rfl
@[simp] theorem State.task_setMark (s : State) (a m : Nat) (j : Nat) : (s.setMark a m).task j = s.task j := rfl
@[simp] theorem State.context_setMark (s : State) (a m : Nat) (j : Nat) : (s.setMark a m).context j = s.context j := rfl
@[simp] theorem State.bank_setMark (s : State) (a m : Nat) (j : Nat) : (s.setMark a m).bank j = s.bank j := rfl
@[simp] theorem State.job_setMark (s : State) (a m : Nat) (j : Nat) : (s.setMark a m).job j = s.job j := rfl
@[simp] theorem State.core_setMark (s : State) (a m : Nat) (j : Nat) : (s.setMark a m).core j = s.core j := rfl
@[simp] theorem State.token_setMark (s : State) (a m : Nat) (j : Nat) : (s.setMark a m).token j = s.token j := rfl
@[simp] theorem State.scale_setMark (s : State) (a m : Nat) (m' j : Nat) : (s.setMark a m).scale m' j = s.scale m' j := rfl
@[simp] theorem State.engine_setMark (s : State) (a m : Nat) (m' j : Nat) : (s.setMark a m).engine m' j = s.engine m' j := rfl
@[simp] theorem State.array_setMark (s : State) (a m : Nat) (j : Nat) : (s.setMark a m).array j = s.array j := rfl
@[simp] theorem State.queue_setMark (s : State) (a m : Nat) (j : Nat) : (s.setMark a m).queue j = s.queue j := rfl
@[simp] theorem State.rd_refill (s : State) (b f : Nat) (b' : Nat) : (s.refill b f).rd b' = s.rd b' := rfl
@[simp] theorem State.task_refill (s : State) (b f : Nat) (j : Nat) : (s.refill b f).task j = s.task j := rfl
@[simp] theorem State.context_refill (s : State) (b f : Nat) (j : Nat) : (s.refill b f).context j = s.context j := rfl
@[simp] theorem State.job_refill (s : State) (b f : Nat) (j : Nat) : (s.refill b f).job j = s.job j := rfl
@[simp] theorem State.core_refill (s : State) (b f : Nat) (j : Nat) : (s.refill b f).core j = s.core j := rfl
@[simp] theorem State.token_refill (s : State) (b f : Nat) (j : Nat) : (s.refill b f).token j = s.token j := rfl
@[simp] theorem State.scale_refill (s : State) (b f : Nat) (m j : Nat) : (s.refill b f).scale m j = s.scale m j := rfl
@[simp] theorem State.engine_refill (s : State) (b f : Nat) (m j : Nat) : (s.refill b f).engine m j = s.engine m j := rfl
@[simp] theorem State.array_refill (s : State) (b f : Nat) (j : Nat) : (s.refill b f).array j = s.array j := rfl
@[simp] theorem State.queue_refill (s : State) (b f : Nat) (j : Nat) : (s.refill b f).queue j = s.queue j := rfl
@[simp] theorem State.rd_setContext (s : State) (x : Nat) (c : Ctx) (b : Nat) : (s.setContext x c).rd b = s.rd b := rfl
@[simp] theorem State.byte_setContext (s : State) (x : Nat) (c : Ctx) (b : Nat) : (s.setContext x c).byte b = s.byte b := rfl
@[simp] theorem State.task_setContext (s : State) (x : Nat) (c : Ctx) (j : Nat) : (s.setContext x c).task j = s.task j := rfl
@[simp] theorem State.bank_setContext (s : State) (x : Nat) (c : Ctx) (j : Nat) : (s.setContext x c).bank j = s.bank j := rfl
@[simp] theorem State.job_setContext (s : State) (x : Nat) (c : Ctx) (j : Nat) : (s.setContext x c).job j = s.job j := rfl
@[simp] theorem State.core_setContext (s : State) (x : Nat) (c : Ctx) (j : Nat) : (s.setContext x c).core j = s.core j := rfl
@[simp] theorem State.token_setContext (s : State) (x : Nat) (c : Ctx) (j : Nat) : (s.setContext x c).token j = s.token j := rfl
@[simp] theorem State.scale_setContext (s : State) (x : Nat) (c : Ctx) (m j : Nat) : (s.setContext x c).scale m j = s.scale m j := rfl
@[simp] theorem State.engine_setContext (s : State) (x : Nat) (c : Ctx) (m j : Nat) : (s.setContext x c).engine m j = s.engine m j := rfl
@[simp] theorem State.array_setContext (s : State) (x : Nat) (c : Ctx) (j : Nat) : (s.setContext x c).array j = s.array j := rfl
@[simp] theorem State.queue_setContext (s : State) (x : Nat) (c : Ctx) (j : Nat) : (s.setContext x c).queue j = s.queue j := rfl
@[simp] theorem State.rd_setTask (s : State) (k : Nat) (t : Task) (b : Nat) : (s.setTask k t).rd b = s.rd b := rfl
@[simp] theorem State.byte_setTask (s : State) (k : Nat) (t : Task) (b : Nat) : (s.setTask k t).byte b = s.byte b := rfl
@[simp] theorem State.context_setTask (s : State) (k : Nat) (t : Task) (j : Nat) : (s.setTask k t).context j = s.context j := rfl
@[simp] theorem State.bank_setTask (s : State) (k : Nat) (t : Task) (j : Nat) : (s.setTask k t).bank j = s.bank j := rfl
@[simp] theorem State.job_setTask (s : State) (k : Nat) (t : Task) (j : Nat) : (s.setTask k t).job j = s.job j := rfl
@[simp] theorem State.core_setTask (s : State) (k : Nat) (t : Task) (j : Nat) : (s.setTask k t).core j = s.core j := rfl
@[simp] theorem State.token_setTask (s : State) (k : Nat) (t : Task) (j : Nat) : (s.setTask k t).token j = s.token j := rfl
@[simp] theorem State.scale_setTask (s : State) (k : Nat) (t : Task) (m j : Nat) : (s.setTask k t).scale m j = s.scale m j := rfl
@[simp] theorem State.engine_setTask (s : State) (k : Nat) (t : Task) (m j : Nat) : (s.setTask k t).engine m j = s.engine m j := rfl
@[simp] theorem State.array_setTask (s : State) (k : Nat) (t : Task) (j : Nat) : (s.setTask k t).array j = s.array j := rfl
@[simp] theorem State.queue_setTask (s : State) (k : Nat) (t : Task) (j : Nat) : (s.setTask k t).queue j = s.queue j := rfl
@[simp] theorem State.rd_setCore (s : State) (c : Nat) (v : CoreSt) (b : Nat) : (s.setCore c v).rd b = s.rd b := rfl
@[simp] theorem State.byte_setCore (s : State) (c : Nat) (v : CoreSt) (b : Nat) : (s.setCore c v).byte b = s.byte b := rfl
@[simp] theorem State.task_setCore (s : State) (c : Nat) (v : CoreSt) (j : Nat) : (s.setCore c v).task j = s.task j := rfl
@[simp] theorem State.context_setCore (s : State) (c : Nat) (v : CoreSt) (j : Nat) : (s.setCore c v).context j = s.context j := rfl
@[simp] theorem State.bank_setCore (s : State) (c : Nat) (v : CoreSt) (j : Nat) : (s.setCore c v).bank j = s.bank j := rfl
@[simp] theorem State.job_setCore (s : State) (c : Nat) (v : CoreSt) (j : Nat) : (s.setCore c v).job j = s.job j := rfl
@[simp] theorem State.token_setCore (s : State) (c : Nat) (v : CoreSt) (j : Nat) : (s.setCore c v).token j = s.token j := rfl
@[simp] theorem State.scale_setCore (s : State) (c : Nat) (v : CoreSt) (m j : Nat) : (s.setCore c v).scale m j = s.scale m j := rfl
@[simp] theorem State.engine_setCore (s : State) (c : Nat) (v : CoreSt) (m j : Nat) : (s.setCore c v).engine m j = s.engine m j := rfl
@[simp] theorem State.array_setCore (s : State) (c : Nat) (v : CoreSt) (j : Nat) : (s.setCore c v).array j = s.array j := rfl
@[simp] theorem State.queue_setCore (s : State) (c : Nat) (v : CoreSt) (j : Nat) : (s.setCore c v).queue j = s.queue j := rfl
@[simp] theorem State.rd_setToken (s : State) (a : Nat) (v : Token) (b : Nat) : (s.setToken a v).rd b = s.rd b := rfl
@[simp] theorem State.byte_setToken (s : State) (a : Nat) (v : Token) (b : Nat) : (s.setToken a v).byte b = s.byte b := rfl
@[simp] theorem State.task_setToken (s : State) (a : Nat) (v : Token) (j : Nat) : (s.setToken a v).task j = s.task j := rfl
@[simp] theorem State.context_setToken (s : State) (a : Nat) (v : Token) (j : Nat) : (s.setToken a v).context j = s.context j := rfl
@[simp] theorem State.bank_setToken (s : State) (a : Nat) (v : Token) (j : Nat) : (s.setToken a v).bank j = s.bank j := rfl
@[simp] theorem State.job_setToken (s : State) (a : Nat) (v : Token) (j : Nat) : (s.setToken a v).job j = s.job j := rfl
@[simp] theorem State.core_setToken (s : State) (a : Nat) (v : Token) (j : Nat) : (s.setToken a v).core j = s.core j := rfl
@[simp] theorem State.scale_setToken (s : State) (a : Nat) (v : Token) (m j : Nat) : (s.setToken a v).scale m j = s.scale m j := rfl
@[simp] theorem State.engine_setToken (s : State) (a : Nat) (v : Token) (m j : Nat) : (s.setToken a v).engine m j = s.engine m j := rfl
@[simp] theorem State.array_setToken (s : State) (a : Nat) (v : Token) (j : Nat) : (s.setToken a v).array j = s.array j := rfl
@[simp] theorem State.queue_setToken (s : State) (a : Nat) (v : Token) (j : Nat) : (s.setToken a v).queue j = s.queue j := rfl
@[simp] theorem State.rd_setEngine (s : State) (m u : Nat) (e : Engine) (b : Nat) : (s.setEngine m u e).rd b = s.rd b := rfl
@[simp] theorem State.byte_setEngine (s : State) (m u : Nat) (e : Engine) (b : Nat) : (s.setEngine m u e).byte b = s.byte b := rfl
@[simp] theorem State.task_setEngine (s : State) (m u : Nat) (e : Engine) (j : Nat) : (s.setEngine m u e).task j = s.task j := rfl
@[simp] theorem State.context_setEngine (s : State) (m u : Nat) (e : Engine) (j : Nat) : (s.setEngine m u e).context j = s.context j := rfl
@[simp] theorem State.bank_setEngine (s : State) (m u : Nat) (e : Engine) (j : Nat) : (s.setEngine m u e).bank j = s.bank j := rfl
@[simp] theorem State.job_setEngine (s : State) (m u : Nat) (e : Engine) (j : Nat) : (s.setEngine m u e).job j = s.job j := rfl
@[simp] theorem State.core_setEngine (s : State) (m u : Nat) (e : Engine) (j : Nat) : (s.setEngine m u e).core j = s.core j := rfl
@[simp] theorem State.token_setEngine (s : State) (m u : Nat) (e : Engine) (j : Nat) : (s.setEngine m u e).token j = s.token j := rfl
@[simp] theorem State.scale_setEngine (s : State) (m u : Nat) (e : Engine) (m' j : Nat) : (s.setEngine m u e).scale m' j = s.scale m' j := rfl
@[simp] theorem State.array_setEngine (s : State) (m u : Nat) (e : Engine) (j : Nat) : (s.setEngine m u e).array j = s.array j := rfl
@[simp] theorem State.queue_setEngine (s : State) (m u : Nat) (e : Engine) (j : Nat) : (s.setEngine m u e).queue j = s.queue j := rfl
@[simp] theorem State.rd_setArray (s : State) (m : Nat) (v : ArraySt) (b : Nat) : (s.setArray m v).rd b = s.rd b := rfl
@[simp] theorem State.byte_setArray (s : State) (m : Nat) (v : ArraySt) (b : Nat) : (s.setArray m v).byte b = s.byte b := rfl
@[simp] theorem State.task_setArray (s : State) (m : Nat) (v : ArraySt) (j : Nat) : (s.setArray m v).task j = s.task j := rfl
@[simp] theorem State.context_setArray (s : State) (m : Nat) (v : ArraySt) (j : Nat) : (s.setArray m v).context j = s.context j := rfl
@[simp] theorem State.bank_setArray (s : State) (m : Nat) (v : ArraySt) (j : Nat) : (s.setArray m v).bank j = s.bank j := rfl
@[simp] theorem State.job_setArray (s : State) (m : Nat) (v : ArraySt) (j : Nat) : (s.setArray m v).job j = s.job j := rfl
@[simp] theorem State.core_setArray (s : State) (m : Nat) (v : ArraySt) (j : Nat) : (s.setArray m v).core j = s.core j := rfl
@[simp] theorem State.token_setArray (s : State) (m : Nat) (v : ArraySt) (j : Nat) : (s.setArray m v).token j = s.token j := rfl
@[simp] theorem State.scale_setArray (s : State) (m : Nat) (v : ArraySt) (m' j : Nat) : (s.setArray m v).scale m' j = s.scale m' j := rfl
@[simp] theorem State.engine_setArray (s : State) (m : Nat) (v : ArraySt) (m' j : Nat) : (s.setArray m v).engine m' j = s.engine m' j := rfl
@[simp] theorem State.queue_setArray (s : State) (m : Nat) (v : ArraySt) (j : Nat) : (s.setArray m v).queue j = s.queue j := rfl
@[simp] theorem State.rd_setScale (s : State) (m i : Nat) (v : Word) (b : Nat) : (s.setScale m i v).rd b = s.rd b := rfl
@[simp] theorem State.byte_setScale (s : State) (m i : Nat) (v : Word) (b : Nat) : (s.setScale m i v).byte b = s.byte b := rfl
@[simp] theorem State.task_setScale (s : State) (m i : Nat) (v : Word) (j : Nat) : (s.setScale m i v).task j = s.task j := rfl
@[simp] theorem State.context_setScale (s : State) (m i : Nat) (v : Word) (j : Nat) : (s.setScale m i v).context j = s.context j := rfl
@[simp] theorem State.bank_setScale (s : State) (m i : Nat) (v : Word) (j : Nat) : (s.setScale m i v).bank j = s.bank j := rfl
@[simp] theorem State.job_setScale (s : State) (m i : Nat) (v : Word) (j : Nat) : (s.setScale m i v).job j = s.job j := rfl
@[simp] theorem State.core_setScale (s : State) (m i : Nat) (v : Word) (j : Nat) : (s.setScale m i v).core j = s.core j := rfl
@[simp] theorem State.token_setScale (s : State) (m i : Nat) (v : Word) (j : Nat) : (s.setScale m i v).token j = s.token j := rfl
@[simp] theorem State.engine_setScale (s : State) (m i : Nat) (v : Word) (m' j : Nat) : (s.setScale m i v).engine m' j = s.engine m' j := rfl
@[simp] theorem State.array_setScale (s : State) (m i : Nat) (v : Word) (j : Nat) : (s.setScale m i v).array j = s.array j := rfl
@[simp] theorem State.queue_setScale (s : State) (m i : Nat) (v : Word) (j : Nat) : (s.setScale m i v).queue j = s.queue j := rfl
@[simp] theorem State.rd_setQueue (s : State) (m : Nat) (q : List Nat) (b : Nat) : (s.setQueue m q).rd b = s.rd b := rfl
@[simp] theorem State.byte_setQueue (s : State) (m : Nat) (q : List Nat) (b : Nat) : (s.setQueue m q).byte b = s.byte b := rfl
@[simp] theorem State.task_setQueue (s : State) (m : Nat) (q : List Nat) (j : Nat) : (s.setQueue m q).task j = s.task j := rfl
@[simp] theorem State.context_setQueue (s : State) (m : Nat) (q : List Nat) (j : Nat) : (s.setQueue m q).context j = s.context j := rfl
@[simp] theorem State.bank_setQueue (s : State) (m : Nat) (q : List Nat) (j : Nat) : (s.setQueue m q).bank j = s.bank j := rfl
@[simp] theorem State.job_setQueue (s : State) (m : Nat) (q : List Nat) (j : Nat) : (s.setQueue m q).job j = s.job j := rfl
@[simp] theorem State.core_setQueue (s : State) (m : Nat) (q : List Nat) (j : Nat) : (s.setQueue m q).core j = s.core j := rfl
@[simp] theorem State.token_setQueue (s : State) (m : Nat) (q : List Nat) (j : Nat) : (s.setQueue m q).token j = s.token j := rfl
@[simp] theorem State.scale_setQueue (s : State) (m : Nat) (q : List Nat) (m' j : Nat) : (s.setQueue m q).scale m' j = s.scale m' j := rfl
@[simp] theorem State.engine_setQueue (s : State) (m : Nat) (q : List Nat) (m' j : Nat) : (s.setQueue m q).engine m' j = s.engine m' j := rfl
@[simp] theorem State.array_setQueue (s : State) (m : Nat) (q : List Nat) (j : Nat) : (s.setQueue m q).array j = s.array j := rfl
@[simp] theorem State.rd_setXfers (s : State) (m : Nat) (q : List XCmd) (b : Nat) : (s.setXfers m q).rd b = s.rd b := rfl
@[simp] theorem State.byte_setXfers (s : State) (m : Nat) (q : List XCmd) (b : Nat) : (s.setXfers m q).byte b = s.byte b := rfl
@[simp] theorem State.task_setXfers (s : State) (m : Nat) (q : List XCmd) (j : Nat) : (s.setXfers m q).task j = s.task j := rfl
@[simp] theorem State.context_setXfers (s : State) (m : Nat) (q : List XCmd) (j : Nat) : (s.setXfers m q).context j = s.context j := rfl
@[simp] theorem State.bank_setXfers (s : State) (m : Nat) (q : List XCmd) (j : Nat) : (s.setXfers m q).bank j = s.bank j := rfl
@[simp] theorem State.job_setXfers (s : State) (m : Nat) (q : List XCmd) (j : Nat) : (s.setXfers m q).job j = s.job j := rfl
@[simp] theorem State.core_setXfers (s : State) (m : Nat) (q : List XCmd) (j : Nat) : (s.setXfers m q).core j = s.core j := rfl
@[simp] theorem State.token_setXfers (s : State) (m : Nat) (q : List XCmd) (j : Nat) : (s.setXfers m q).token j = s.token j := rfl
@[simp] theorem State.scale_setXfers (s : State) (m : Nat) (q : List XCmd) (m' j : Nat) : (s.setXfers m q).scale m' j = s.scale m' j := rfl
@[simp] theorem State.engine_setXfers (s : State) (m : Nat) (q : List XCmd) (m' j : Nat) : (s.setXfers m q).engine m' j = s.engine m' j := rfl
@[simp] theorem State.array_setXfers (s : State) (m : Nat) (q : List XCmd) (j : Nat) : (s.setXfers m q).array j = s.array j := rfl
@[simp] theorem State.queue_setXfers (s : State) (m : Nat) (q : List XCmd) (j : Nat) : (s.setXfers m q).queue j = s.queue j := rfl
@[simp] theorem State.rd_setChains (s : State) (m : Nat) (q : List Chain) (b : Nat) : (s.setChains m q).rd b = s.rd b := rfl
@[simp] theorem State.byte_setChains (s : State) (m : Nat) (q : List Chain) (b : Nat) : (s.setChains m q).byte b = s.byte b := rfl
@[simp] theorem State.task_setChains (s : State) (m : Nat) (q : List Chain) (j : Nat) : (s.setChains m q).task j = s.task j := rfl
@[simp] theorem State.context_setChains (s : State) (m : Nat) (q : List Chain) (j : Nat) : (s.setChains m q).context j = s.context j := rfl
@[simp] theorem State.bank_setChains (s : State) (m : Nat) (q : List Chain) (j : Nat) : (s.setChains m q).bank j = s.bank j := rfl
@[simp] theorem State.job_setChains (s : State) (m : Nat) (q : List Chain) (j : Nat) : (s.setChains m q).job j = s.job j := rfl
@[simp] theorem State.core_setChains (s : State) (m : Nat) (q : List Chain) (j : Nat) : (s.setChains m q).core j = s.core j := rfl
@[simp] theorem State.token_setChains (s : State) (m : Nat) (q : List Chain) (j : Nat) : (s.setChains m q).token j = s.token j := rfl
@[simp] theorem State.scale_setChains (s : State) (m : Nat) (q : List Chain) (m' j : Nat) : (s.setChains m q).scale m' j = s.scale m' j := rfl
@[simp] theorem State.engine_setChains (s : State) (m : Nat) (q : List Chain) (m' j : Nat) : (s.setChains m q).engine m' j = s.engine m' j := rfl
@[simp] theorem State.array_setChains (s : State) (m : Nat) (q : List Chain) (j : Nat) : (s.setChains m q).array j = s.array j := rfl
@[simp] theorem State.queue_setChains (s : State) (m : Nat) (q : List Chain) (j : Nat) : (s.setChains m q).queue j = s.queue j := rfl
@[simp] theorem State.rd_setEntry (s : State) (i : Nat) (v : PlaitSt) (b : Nat) : (s.setEntry i v).rd b = s.rd b := rfl
@[simp] theorem State.byte_setEntry (s : State) (i : Nat) (v : PlaitSt) (b : Nat) : (s.setEntry i v).byte b = s.byte b := rfl
@[simp] theorem State.task_setEntry (s : State) (i : Nat) (v : PlaitSt) (j : Nat) : (s.setEntry i v).task j = s.task j := rfl
@[simp] theorem State.context_setEntry (s : State) (i : Nat) (v : PlaitSt) (j : Nat) : (s.setEntry i v).context j = s.context j := rfl
@[simp] theorem State.bank_setEntry (s : State) (i : Nat) (v : PlaitSt) (j : Nat) : (s.setEntry i v).bank j = s.bank j := rfl
@[simp] theorem State.job_setEntry (s : State) (i : Nat) (v : PlaitSt) (j : Nat) : (s.setEntry i v).job j = s.job j := rfl
@[simp] theorem State.core_setEntry (s : State) (i : Nat) (v : PlaitSt) (j : Nat) : (s.setEntry i v).core j = s.core j := rfl
@[simp] theorem State.token_setEntry (s : State) (i : Nat) (v : PlaitSt) (j : Nat) : (s.setEntry i v).token j = s.token j := rfl
@[simp] theorem State.scale_setEntry (s : State) (i : Nat) (v : PlaitSt) (m j : Nat) : (s.setEntry i v).scale m j = s.scale m j := rfl
@[simp] theorem State.engine_setEntry (s : State) (i : Nat) (v : PlaitSt) (m j : Nat) : (s.setEntry i v).engine m j = s.engine m j := rfl
@[simp] theorem State.array_setEntry (s : State) (i : Nat) (v : PlaitSt) (j : Nat) : (s.setEntry i v).array j = s.array j := rfl
@[simp] theorem State.queue_setEntry (s : State) (i : Nat) (v : PlaitSt) (j : Nat) : (s.setEntry i v).queue j = s.queue j := rfl
@[simp] theorem State.rd_setEdge (s : State) (l n : Nat) (q : List Flit) (b : Nat) : (s.setEdge l n q).rd b = s.rd b := rfl
@[simp] theorem State.byte_setEdge (s : State) (l n : Nat) (q : List Flit) (b : Nat) : (s.setEdge l n q).byte b = s.byte b := rfl
@[simp] theorem State.task_setEdge (s : State) (l n : Nat) (q : List Flit) (j : Nat) : (s.setEdge l n q).task j = s.task j := rfl
@[simp] theorem State.context_setEdge (s : State) (l n : Nat) (q : List Flit) (j : Nat) : (s.setEdge l n q).context j = s.context j := rfl
@[simp] theorem State.bank_setEdge (s : State) (l n : Nat) (q : List Flit) (j : Nat) : (s.setEdge l n q).bank j = s.bank j := rfl
@[simp] theorem State.job_setEdge (s : State) (l n : Nat) (q : List Flit) (j : Nat) : (s.setEdge l n q).job j = s.job j := rfl
@[simp] theorem State.core_setEdge (s : State) (l n : Nat) (q : List Flit) (j : Nat) : (s.setEdge l n q).core j = s.core j := rfl
@[simp] theorem State.token_setEdge (s : State) (l n : Nat) (q : List Flit) (j : Nat) : (s.setEdge l n q).token j = s.token j := rfl
@[simp] theorem State.scale_setEdge (s : State) (l n : Nat) (q : List Flit) (m j : Nat) : (s.setEdge l n q).scale m j = s.scale m j := rfl
@[simp] theorem State.engine_setEdge (s : State) (l n : Nat) (q : List Flit) (m j : Nat) : (s.setEdge l n q).engine m j = s.engine m j := rfl
@[simp] theorem State.array_setEdge (s : State) (l n : Nat) (q : List Flit) (j : Nat) : (s.setEdge l n q).array j = s.array j := rfl
@[simp] theorem State.queue_setEdge (s : State) (l n : Nat) (q : List Flit) (j : Nat) : (s.setEdge l n q).queue j = s.queue j := rfl
@[simp] theorem State.rd_setJob (s : State) (j : Nat) (v : JobSt) (b : Nat) : (s.setJob j v).rd b = s.rd b := rfl
@[simp] theorem State.byte_setJob (s : State) (j : Nat) (v : JobSt) (b : Nat) : (s.setJob j v).byte b = s.byte b := rfl
@[simp] theorem State.task_setJob (s : State) (j : Nat) (v : JobSt) (j' : Nat) : (s.setJob j v).task j' = s.task j' := rfl
@[simp] theorem State.context_setJob (s : State) (j : Nat) (v : JobSt) (j' : Nat) : (s.setJob j v).context j' = s.context j' := rfl
@[simp] theorem State.bank_setJob (s : State) (j : Nat) (v : JobSt) (j' : Nat) : (s.setJob j v).bank j' = s.bank j' := rfl
@[simp] theorem State.core_setJob (s : State) (j : Nat) (v : JobSt) (j' : Nat) : (s.setJob j v).core j' = s.core j' := rfl
@[simp] theorem State.token_setJob (s : State) (j : Nat) (v : JobSt) (j' : Nat) : (s.setJob j v).token j' = s.token j' := rfl
@[simp] theorem State.scale_setJob (s : State) (j : Nat) (v : JobSt) (m j' : Nat) : (s.setJob j v).scale m j' = s.scale m j' := rfl
@[simp] theorem State.engine_setJob (s : State) (j : Nat) (v : JobSt) (m j' : Nat) : (s.setJob j v).engine m j' = s.engine m j' := rfl
@[simp] theorem State.array_setJob (s : State) (j : Nat) (v : JobSt) (j' : Nat) : (s.setJob j v).array j' = s.array j' := rfl
@[simp] theorem State.queue_setJob (s : State) (j : Nat) (v : JobSt) (j' : Nat) : (s.setJob j v).queue j' = s.queue j' := rfl
@[simp] theorem State.rd_setColl (s : State) (h w : Nat) (v : Word) (b : Nat) : (s.setColl h w v).rd b = s.rd b := rfl
@[simp] theorem State.byte_setColl (s : State) (h w : Nat) (v : Word) (b : Nat) : (s.setColl h w v).byte b = s.byte b := rfl
@[simp] theorem State.task_setColl (s : State) (h w : Nat) (v : Word) (j : Nat) : (s.setColl h w v).task j = s.task j := rfl
@[simp] theorem State.context_setColl (s : State) (h w : Nat) (v : Word) (j : Nat) : (s.setColl h w v).context j = s.context j := rfl
@[simp] theorem State.bank_setColl (s : State) (h w : Nat) (v : Word) (j : Nat) : (s.setColl h w v).bank j = s.bank j := rfl
@[simp] theorem State.job_setColl (s : State) (h w : Nat) (v : Word) (j : Nat) : (s.setColl h w v).job j = s.job j := rfl
@[simp] theorem State.core_setColl (s : State) (h w : Nat) (v : Word) (j : Nat) : (s.setColl h w v).core j = s.core j := rfl
@[simp] theorem State.token_setColl (s : State) (h w : Nat) (v : Word) (j : Nat) : (s.setColl h w v).token j = s.token j := rfl
@[simp] theorem State.scale_setColl (s : State) (h w : Nat) (v : Word) (m j : Nat) : (s.setColl h w v).scale m j = s.scale m j := rfl
@[simp] theorem State.engine_setColl (s : State) (h w : Nat) (v : Word) (m j : Nat) : (s.setColl h w v).engine m j = s.engine m j := rfl
@[simp] theorem State.array_setColl (s : State) (h w : Nat) (v : Word) (j : Nat) : (s.setColl h w v).array j = s.array j := rfl
@[simp] theorem State.queue_setColl (s : State) (h w : Nat) (v : Word) (j : Nat) : (s.setColl h w v).queue j = s.queue j := rfl
@[simp] theorem State.rd_bumpToken (s : State) (a n : Nat) (e : Bool) (b : Nat) : (s.bumpToken a n e).rd b = s.rd b := rfl
@[simp] theorem State.byte_bumpToken (s : State) (a n : Nat) (e : Bool) (b : Nat) : (s.bumpToken a n e).byte b = s.byte b := rfl
@[simp] theorem State.task_bumpToken (s : State) (a n : Nat) (e : Bool) (j : Nat) : (s.bumpToken a n e).task j = s.task j := rfl
@[simp] theorem State.context_bumpToken (s : State) (a n : Nat) (e : Bool) (j : Nat) : (s.bumpToken a n e).context j = s.context j := rfl
@[simp] theorem State.bank_bumpToken (s : State) (a n : Nat) (e : Bool) (j : Nat) : (s.bumpToken a n e).bank j = s.bank j := rfl
@[simp] theorem State.job_bumpToken (s : State) (a n : Nat) (e : Bool) (j : Nat) : (s.bumpToken a n e).job j = s.job j := rfl
@[simp] theorem State.core_bumpToken (s : State) (a n : Nat) (e : Bool) (j : Nat) : (s.bumpToken a n e).core j = s.core j := rfl
@[simp] theorem State.scale_bumpToken (s : State) (a n : Nat) (e : Bool) (m j : Nat) : (s.bumpToken a n e).scale m j = s.scale m j := rfl
@[simp] theorem State.engine_bumpToken (s : State) (a n : Nat) (e : Bool) (m j : Nat) : (s.bumpToken a n e).engine m j = s.engine m j := rfl
@[simp] theorem State.array_bumpToken (s : State) (a n : Nat) (e : Bool) (j : Nat) : (s.bumpToken a n e).array j = s.array j := rfl
@[simp] theorem State.queue_bumpToken (s : State) (a n : Nat) (e : Bool) (j : Nat) : (s.bumpToken a n e).queue j = s.queue j := rfl

end Sys2Proof.Machine
end

