-- ==== Sys2Proof/Laws/Capsule.lean ====
section
/-! SUPPORT. What an accepted capsule does (R369 to R371): it stands in its queue, and its opcode's meaning runs. -/

namespace Sys2Proof.Machine

variable {s : State} {f q : Nat} {w : List Word}

theorem rd_setFn (s : State) (f : Nat) (v : FnSt) (a : Nat) : (s.setFn f v).rd a = s.rd a := rfl

/-- Taking a credit leaves every other register. -/
theorem creditTaken_rd (s : State) (f q : Nat) {a : Nat} (h : a ≠ Reg.PC_QUEUE_CREDITS f q) : (s.creditTaken f q).rd a = s.rd a := by
  have hv := fun c => State.rd_setFld_other s 0 9 c h
  unfold State.creditTaken
  dsimp only
  split
  · rw [rd_setFn]; exact hv _
  · exact hv _

theorem creditTaken_results (s : State) (f q : Nat) : (s.creditTaken f q).results = s.results := by unfold State.creditTaken; dsimp only; split <;> rfl
theorem creditTaken_fw (s : State) (f q : Nat) : (s.creditTaken f q).fw = s.fw := by unfold State.creditTaken; dsimp only; split <;> rfl
theorem creditTaken_usecN (s : State) (f q : Nat) : (s.creditTaken f q).usecN = s.usecN := by unfold State.creditTaken; dsimp only; split <;> rfl

/-- The timer of a live lease starts anew. -/
theorem creditTaken_renewed (s : State) (f q : Nat) (h1 : s.leaseLive f = true) (h2 : s.leaseOver f = false) :
    ((s.creditTaken f q).fn f).renewed = s.usecN.toNat := by
  unfold State.creditTaken
  simp [h1, h2, State.setFn, State.fn]

/-- A register of a function's block below its queues is none of a queue's. -/
theorem low_ne_queue {f q a : Nat} (h1 : 0x50000 + 0x1000 * f ≤ a) (h2 : a < 0x50100 + 0x1000 * f) :
    a ≠ Reg.PC_QUEUE_CREDITS f q ∧ a ≠ Reg.PC_QUEUE_SEQ f q := by
  simp only [Reg.PC_QUEUE_CREDITS, Reg.PC_QUEUE_SEQ]; omega

/-- An accepted capsule arrives. -/
theorem arrive_accepts (h : Accepts s f q w) : s.arrive f q = (s.creditTaken f q, true) := by
  have hf := h.fn
  have hq := h.queue
  have h1 : Reg.PC_LEASE f ≠ Reg.PC_QUEUE_CREDITS f q := (low_ne_queue (by simp only [Reg.PC_LEASE]; omega) (by simp only [Reg.PC_LEASE]; omega)).1
  have ht : s.takesCapsules = true := by simp [State.takesCapsules, h.stage]
  have hl : ∀ c, (s.setFld (Reg.PC_QUEUE_CREDITS f q) 0 9 c).leaseLive f = s.leaseLive f := fun c => by
    simp only [State.leaseLive, State.bit, State.rd_setFld_other _ _ _ _ h1]
  have ho : ∀ c, (s.setFld (Reg.PC_QUEUE_CREDITS f q) 0 9 c).leaseOver f = s.leaseOver f := fun c => by
    simp only [State.leaseOver, State.fld, State.rd_setFld_other _ _ _ _ h1]; rfl
  unfold State.arrive
  rw [if_neg (by simp [h.powered]; omega), if_neg h.awake]
  simp only [ht, Bool.not_true, Bool.false_eq_true, if_false]
  rw [if_neg h.credit, hl, ho]
  rfl

/-- What the checks of R371 read of a state in which a capsule has arrived. -/
theorem check_accepts (h : Accepts s f q w) (more : Bool) : (s.creditTaken f q).checkCapsule f q w more =
    ((s.creditTaken f q).wr (Reg.PC_QUEUE_SEQ f q) (BitVec.ofNat 32 (capSeq w + 1)), 0) := by
  have rv := fun {a : Nat} => creditTaken_rd s f q (a := a)
  have resv := creditTaken_results s f q
  have us := creditTaken_usecN s f q
  have ren := creditTaken_renewed s f q
  generalize s.creditTaken f q = v at *
  have hs : capSeq w = (v.rd (Reg.PC_QUEUE_SEQ f q)).toNat := by
    rw [rv (by simp only [Reg.PC_QUEUE_SEQ, Reg.PC_QUEUE_CREDITS]; omega)]; exact h.seq
  unfold State.checkCapsule
  rw [if_neg (by rw [← hs]; simp)]
  have ry : ∀ {a : Nat}, 0x50000 + 0x1000 * f ≤ a → a < 0x50100 + 0x1000 * f →
      (v.wr (Reg.PC_QUEUE_SEQ f q) (BitVec.ofNat 32 (capSeq w + 1))).rd a = s.rd a := fun h1 h2 => by
    rw [State.rd_wr_other _ _ (low_ne_queue h1 h2).2, rv (low_ne_queue h1 h2).1]
  have rb : (v.wr (Reg.PC_QUEUE_SEQ f q) (BitVec.ofNat 32 (capSeq w + 1))).rd Reg.PC_BOOT = s.rd Reg.PC_BOOT := by
    rw [State.rd_wr_other _ _ (by simp only [Reg.PC_QUEUE_SEQ, Reg.PC_BOOT]; omega), rv (by simp only [Reg.PC_QUEUE_CREDITS, Reg.PC_BOOT]; omega)]
  have res : (v.wr (Reg.PC_QUEUE_SEQ f q) (BitVec.ofNat 32 (capSeq w + 1))).results = s.results := resv
  have us' : (v.wr (Reg.PC_QUEUE_SEQ f q) (BitVec.ofNat 32 (capSeq w + 1))).usecN = s.usecN := us
  have ren' : s.leaseLive f = true → s.leaseOver f = false → ((v.wr (Reg.PC_QUEUE_SEQ f q) (BitVec.ofNat 32 (capSeq w + 1))).fn f).renewed = s.usecN.toNat := ren
  generalize v.wr (Reg.PC_QUEUE_SEQ f q) (BitVec.ofNat 32 (capSeq w + 1)) = y at *
  have c1 : ¬ (capOp w = 0 || 12 < capOp w) = true := by have := h.opcode; simp; omega
  have rl : y.rd (Reg.PC_LEASE f) = s.rd (Reg.PC_LEASE f) := ry (by simp only [Reg.PC_LEASE]; omega) (by simp only [Reg.PC_LEASE]; omega)
  have c2 : ¬ ((!y.leaseLive f || y.leaseOver f) && decide (capOp w ≠ 2)) = true := by
    rcases h.lease with hl | ⟨hl, hov, hms⟩
    · simp [hl]
    · have l1 : y.leaseLive f = true := by rw [← hl]; simp only [State.leaseLive, State.bit, rl]
      have l2 : y.leaseOver f = false := by
        simp only [State.fld] at hms
        simp only [State.leaseOver, State.fld, ren' hl hov, us', rl]
        simp; omega
      simp [l1, l2]
  have c3 : ¬ (namesJob (capOp w) && !y.inMask f (capSlot w)) = true := by
    have : y.inMask f (capSlot w) = s.inMask f (capSlot w) := by
      simp only [State.inMask, State.bit]
      rw [ry (by simp only [Reg.PC_JOB_MASK_LO]; omega) (by simp only [Reg.PC_JOB_MASK_LO]; omega),
        ry (by simp only [Reg.PC_JOB_MASK_HI]; omega) (by simp only [Reg.PC_JOB_MASK_HI]; omega)]
    rw [this]
    cases hn : namesJob (capOp w)
    · simp
    · simp [h.job hn]
  have c4 : ¬ (more && decide (y.fld Reg.PC_BOOT 0 3 ≠ 5)) = true := by
    have : y.fld Reg.PC_BOOT 0 3 = 5 := by simp only [State.fld, rb]; exact h.stage
    simp [this]
  refine Prod.ext rfl ?_
  dsimp only
  rw [if_neg c1, if_neg c2, if_neg c3]
  cases hr : capRslot w with
  | none => exact if_neg c4
  | some k =>
    have hk := h.result k hr
    have r1 : y.fld (Reg.PC_RSLOTS f) 0 17 = s.fld (Reg.PC_RSLOTS f) 0 17 := by
      simp only [State.fld]; rw [ry (by simp only [Reg.PC_RSLOTS]; omega) (by simp only [Reg.PC_RSLOTS]; omega)]
    have r2 : y.result (65536 * f + k) = s.result (65536 * f + k) := by simp only [State.result, res]
    dsimp only
    rw [r1, r2, if_neg (by simp [hk.2]; omega), if_neg c4]

/-- A capsule that passes every check runs its opcode's meaning over the state in which it stands in its queue. -/
theorem capsule_runs (h : Accepts s f q w) {op : Nat → Bool} (ho : op (capOp w) = true) (more : Bool) (run : State → State) :
    s.capsule f q w op more run = run (s.capsuleIn f q w) := by
  unfold State.capsule
  rw [if_neg (by simp [h.len, ho]), arrive_accepts h]
  dsimp only
  rw [check_accepts h]
  have hfw : (s.capsuleIn f q w).fw.crippled = false := by
    have : (s.capsuleIn f q w).fw = s.fw := by
      unfold State.capsuleIn
      rw [← creditTaken_fw s f q]
      cases capRslot w <;> rfl
    rw [this]; exact h.firmware
  have hrun : ∀ v : State, v.fw.crippled = false → (if (v.fw.crippled && decide (capOp w ≠ 1)) = true then v else run v) = run v :=
    fun v hv => if_neg (by simp [hv])
  exact hrun _ hfw

end Sys2Proof.Machine
end

