-- ==== Sys2Proof/Laws/Fields.lean ====
section
/-! SUPPORT. What a field or a bit of a register reads after another has been replaced. -/

namespace Sys2Proof

/-- A number with a field replaced: what stands above the field, the new value, what stands below. -/
theorem setBits_eq (w lo n v : Nat) : setBits w lo n v = w / 2 ^ (lo + n) * 2 ^ (lo + n) + v % 2 ^ n * 2 ^ lo + w % 2 ^ lo := by
  have h1 : w / 2 ^ lo * 2 ^ lo + w % 2 ^ lo = w := Nat.div_add_mod' w (2 ^ lo)
  have h2 : w / 2 ^ lo / 2 ^ n * 2 ^ n + w / 2 ^ lo % 2 ^ n = w / 2 ^ lo := Nat.div_add_mod' _ _
  have h3 : w / 2 ^ lo / 2 ^ n = w / 2 ^ (lo + n) := by rw [Nat.div_div_eq_div_mul, ← pow_add]
  unfold setBits bitsOf
  simp only [Nat.shiftRight_eq_div_pow, Nat.shiftLeft_eq]
  rw [h3] at h2
  generalize w / 2 ^ (lo + n) = h at *
  generalize w / 2 ^ lo % 2 ^ n = m at *
  generalize w % 2 ^ lo = l at *
  rw [pow_add]
  have h4 : h * (2 ^ lo * 2 ^ n) + m * 2 ^ lo = w / 2 ^ lo * 2 ^ lo := by rw [← h2]; ring
  omega

theorem bitsOf_setBits_self (w lo n v : Nat) : bitsOf (setBits w lo n v) lo n = v % 2 ^ n := by
  rw [setBits_eq]
  unfold bitsOf
  rw [Nat.shiftRight_eq_div_pow, pow_add]
  have h : w / (2 ^ lo * 2 ^ n) * (2 ^ lo * 2 ^ n) + v % 2 ^ n * 2 ^ lo + w % 2 ^ lo =
      (w / (2 ^ lo * 2 ^ n) * 2 ^ n + v % 2 ^ n) * 2 ^ lo + w % 2 ^ lo := by ring
  have hp : 0 < 2 ^ lo := by positivity
  rw [h, Nat.mul_comm _ (2 ^ lo), Nat.mul_add_div hp, Nat.div_eq_of_lt (Nat.mod_lt _ hp), Nat.add_zero, Nat.mul_comm _ (2 ^ n),
    Nat.mul_add_mod, Nat.mod_mod]

theorem bitsOf_setBits_above (w : Nat) {lo n : Nat} (v : Nat) {lo' : Nat} (n' : Nat) (h : lo + n ≤ lo') :
    bitsOf (setBits w lo n v) lo' n' = bitsOf w lo' n' := by
  obtain ⟨d, rfl⟩ := Nat.exists_eq_add_of_le h
  rw [setBits_eq]
  unfold bitsOf
  simp only [Nat.shiftRight_eq_div_pow]
  congr 1
  rw [pow_add 2 (lo + n) d, ← Nat.div_div_eq_div_mul, ← Nat.div_div_eq_div_mul]
  congr 1
  have hl : v % 2 ^ n * 2 ^ lo + w % 2 ^ lo < 2 ^ (lo + n) := by
    have h1 : v % 2 ^ n + 1 ≤ 2 ^ n := Nat.mod_lt _ (by positivity)
    have h2 : w % 2 ^ lo < 2 ^ lo := Nat.mod_lt _ (by positivity)
    have h3 := Nat.mul_le_mul_right (2 ^ lo) h1
    rw [pow_add, Nat.mul_comm (2 ^ lo)]
    linarith
  rw [Nat.add_assoc, Nat.mul_comm, Nat.mul_add_div (by positivity), Nat.div_eq_of_lt hl, Nat.add_zero]

theorem bitsOf_setBits_below (w : Nat) {lo : Nat} (n v : Nat) {lo' n' : Nat} (h : lo' + n' ≤ lo) :
    bitsOf (setBits w lo n v) lo' n' = bitsOf w lo' n' := by
  obtain ⟨d, rfl⟩ := Nat.exists_eq_add_of_le h
  rw [setBits_eq]
  have hw := Nat.div_add_mod' w (2 ^ (lo' + n' + d))
  unfold bitsOf
  simp only [Nat.shiftRight_eq_div_pow]
  have key : ∀ q : Nat, (q * 2 ^ (lo' + n' + d) + w % 2 ^ (lo' + n' + d)) / 2 ^ lo' % 2 ^ n' = w % 2 ^ (lo' + n' + d) / 2 ^ lo' % 2 ^ n' := by
    intro q
    have : q * 2 ^ (lo' + n' + d) = 2 ^ lo' * (2 ^ n' * (q * 2 ^ d)) := by rw [pow_add, pow_add]; ring
    rw [this, Nat.mul_add_div (by positivity), Nat.mul_add_mod]
  have e : w / 2 ^ (lo' + n' + d + n) * 2 ^ (lo' + n' + d + n) + v % 2 ^ n * 2 ^ (lo' + n' + d) =
      (w / 2 ^ (lo' + n' + d + n) * 2 ^ n + v % 2 ^ n) * 2 ^ (lo' + n' + d) := by rw [pow_add _ _ n]; ring
  rw [e, key]
  conv_rhs => rw [← hw]
  rw [key]

theorem setBits_lt {w lo n : Nat} (v : Nat) (hw : w < 2 ^ 32) (h : lo + n ≤ 32) : setBits w lo n v < 2 ^ 32 := by
  rw [setBits_eq]
  have h1 : v % 2 ^ n * 2 ^ lo + w % 2 ^ lo < 2 ^ (lo + n) := by
    have h1 : v % 2 ^ n + 1 ≤ 2 ^ n := Nat.mod_lt _ (by positivity)
    have h2 : w % 2 ^ lo < 2 ^ lo := Nat.mod_lt _ (by positivity)
    have h3 := Nat.mul_le_mul_right (2 ^ lo) h1
    rw [pow_add, Nat.mul_comm (2 ^ lo)]
    linarith
  obtain ⟨d, hd⟩ := Nat.exists_eq_add_of_le h
  rw [hd, pow_add _ (lo + n) d] at hw ⊢
  have h2 : w / 2 ^ (lo + n) < 2 ^ d := Nat.div_lt_of_lt_mul hw
  have h3 := Nat.mul_le_mul_right (2 ^ (lo + n)) (Nat.succ_le_of_lt h2)
  rw [Nat.succ_mul] at h3
  rw [Nat.mul_comm (2 ^ (lo + n)) (2 ^ d)]
  omega

theorem bitOf_eq (w i : Nat) : bitOf w i = decide (bitsOf w i 1 = 1) := by simp [bitOf, bitsOf]

namespace Machine

variable (s : State)

/-- Fields and bits are those of the register space alone. -/
theorem State.fld_congr {s t : State} (h : t.regs = s.regs) (a lo n : Nat) : t.fld a lo n = s.fld a lo n := by
  unfold State.fld
  rw [State.rd_congr h]

theorem State.bit_congr {s t : State} (h : t.regs = s.regs) (a i : Nat) : t.bit a i = s.bit a i := by
  unfold State.bit
  rw [State.rd_congr h]

@[simp] theorem State.bank_refill_self (b f : Nat) : (s.refill b f).bank b = { s.bank b with fill := f } :=
  SMap.get_put_self s.banks {} { s.bank b with fill := f } b

theorem State.setFld_toNat (a : Nat) {lo n : Nat} (v : Nat) (h : lo + n ≤ 32) :
    ((s.setFld a lo n v).rd a).toNat = setBits (s.rd a).toNat lo n v := by
  unfold State.setFld
  rw [State.rd_wr_self, BitVec.toNat_ofNat, Nat.mod_eq_of_lt (setBits_lt v (s.rd a).isLt h)]

theorem State.fld_setFld_self (a : Nat) {lo n : Nat} (v : Nat) (h : lo + n ≤ 32) : (s.setFld a lo n v).fld a lo n = v % 2 ^ n := by
  unfold State.fld
  rw [State.setFld_toNat s a v h, bitsOf_setBits_self]

theorem State.fld_setFld_apart (a : Nat) {lo n : Nat} (v : Nat) {lo' n' : Nat} (h : lo + n ≤ 32) (hd : lo + n ≤ lo' ∨ lo' + n' ≤ lo) :
    (s.setFld a lo n v).fld a lo' n' = s.fld a lo' n' := by
  unfold State.fld
  rw [State.setFld_toNat s a v h]
  rcases hd with hd | hd
  · exact bitsOf_setBits_above _ _ _ hd
  · exact bitsOf_setBits_below _ _ _ hd

theorem State.fld_setFld_other {a b : Nat} (lo n v lo' n' : Nat) (h : b ≠ a) : (s.setFld a lo n v).fld b lo' n' = s.fld b lo' n' := by
  unfold State.fld
  rw [State.rd_setFld_other s lo n v h]

theorem State.bit_eq (a i : Nat) : s.bit a i = decide (s.fld a i 1 = 1) := bitOf_eq _ _

theorem State.bit_setFld_apart (a : Nat) {lo n : Nat} (v : Nat) {i : Nat} (h : lo + n ≤ 32) (hd : lo + n ≤ i ∨ i < lo) :
    (s.setFld a lo n v).bit a i = s.bit a i := by
  rw [State.bit_eq, State.bit_eq, State.fld_setFld_apart s a v h hd]

theorem State.bit_setFld_other {a b : Nat} (lo n v i : Nat) (h : b ≠ a) : (s.setFld a lo n v).bit b i = s.bit b i := by
  rw [State.bit_eq, State.bit_eq, State.fld_setFld_other s lo n v i 1 h]

theorem State.bit_setBit_self (a : Nat) {i : Nat} (v : Bool) (h : i < 32) : (s.setBit a i v).bit a i = v := by
  unfold State.setBit
  rw [State.bit_eq, State.fld_setFld_self s a (b2n v) (by omega)]
  cases v <;> rfl

theorem State.bit_setBit_apart (a : Nat) {i j : Nat} (v : Bool) (h : i < 32) (hd : j ≠ i) : (s.setBit a i v).bit a j = s.bit a j :=
  State.bit_setFld_apart s a _ (by omega) (by omega)

theorem State.bit_setBit_other {a b : Nat} (i : Nat) (v : Bool) (j : Nat) (h : b ≠ a) : (s.setBit a i v).bit b j = s.bit b j :=
  State.bit_setFld_other s i 1 _ j h

theorem State.fld_setBit_apart (a : Nat) {i : Nat} (v : Bool) {lo n : Nat} (h : i < 32) (hd : i < lo ∨ lo + n ≤ i) :
    (s.setBit a i v).fld a lo n = s.fld a lo n := State.fld_setFld_apart s a _ (by omega) (by omega)

theorem State.fld_setBit_other {a b : Nat} (i : Nat) (v : Bool) (lo n : Nat) (h : b ≠ a) : (s.setBit a i v).fld b lo n = s.fld b lo n :=
  State.fld_setFld_other s i 1 _ lo n h

theorem State.fld_wr_self (a : Nat) (v : Word) (lo n : Nat) : (s.wr a v).fld a lo n = bitsOf v.toNat lo n := by
  unfold State.fld
  rw [State.rd_wr_self]

theorem State.bit_wr_self (a : Nat) (v : Word) (i : Nat) : (s.wr a v).bit a i = bitOf v.toNat i := by
  unfold State.bit
  rw [State.rd_wr_self]

theorem State.fld_wr_other {a b : Nat} (v : Word) (lo n : Nat) (h : b ≠ a) : (s.wr a v).fld b lo n = s.fld b lo n := by
  unfold State.fld
  rw [State.rd_wr_other s v h]

theorem State.bit_wr_other {a b : Nat} (v : Word) (i : Nat) (h : b ≠ a) : (s.wr a v).bit b i = s.bit b i := by
  unfold State.bit
  rw [State.rd_wr_other s v h]

theorem State.fld_lt (a lo n : Nat) : s.fld a lo n < 2 ^ n := Nat.mod_lt _ (by positivity)

end Machine

end Sys2Proof
end

