-- ==== Sys2Proof/Laws/Issue.lean ====
section
/-! SUPPORT. What issuing an instruction does, once. -/

namespace Sys2Proof.Machine

/-- An instruction that issues runs its body over the state after the fetch. -/
theorem issue_runs {s u : State} {x n k : Nat} {i : Insn} {reads writes : List LoadDst} {body : State → Nat → Task → Issue}
    (h : Issues s x n reads k u) (hn : (if i.long then 8 else 4) = n) :
    s.issue x i false reads writes body = match body u k ((s.task k).supersede writes) with
      | .fault code addr detail => (u.tookTurn x).issueFault x k code i.w0 i.w1 addr detail
      | .stay v p w => (v.setTask k { v.task k with wait := w }).setContext x { v.context x with phase := p }
      | .go v t pc => (v.setTask k { t with pc := pc.getD ((s.task k).after n), issued := (s.task k).issued + 1#32 }).setRunning x
      | .leave v => v.tookTurn x := by
  subst hn
  have hp : (!((s.context x).phase = .ready || (s.context x).phase = .running || (s.context x).phase = .waitData)) = false := by
    rcases h.phase with e | e | e <;> simp [e]
  have hd : (s.deferred.any fun d => d.cmd.key = k) = false := by simpa using h.noFault
  have hl : reads.any (s.task k).pendingIn = false := by
    rw [List.any_eq_false]
    exact fun r hr => by simp [h.loads r hr]
  have hq : reads.any (s.task k).poisoned = false := by simpa using h.poison
  unfold State.issue
  rw [h.task]
  dsimp only
  rw [hp, hd, h.turn, h.fetch, h.waits]
  dsimp only
  rw [hl, hq]
  cases hi : i.long <;> cases hb : body u k ((s.task k).supersede writes) <;> simp [Task.after]

/-- An instruction that goes on: its task's program counter and count of instructions follow. -/
theorem issue_go {s u v : State} {x n k : Nat} {i : Insn} {reads writes : List LoadDst} {body : State → Nat → Task → Issue} {t : Task}
    {pc : Option Word} (h : Issues s x n reads k u) (hn : (if i.long then 8 else 4) = n) (hb : body u k ((s.task k).supersede writes) = .go v t pc) :
    s.issue x i false reads writes body =
      (v.setTask k { t with pc := pc.getD ((s.task k).after n), issued := (s.task k).issued + 1#32 }).setRunning x := by
  rw [issue_runs h hn, hb]

/-- The same, in the words of statements. -/
theorem issue_completes {s u v : State} {x n k : Nat} {i : Insn} {reads writes : List LoadDst} {body : State → Nat → Task → Issue} {t : Task}
    {pc : Option Word} (h : Issues s x n reads k u) (hn : (if i.long then 8 else 4) = n) (hb : body u k ((s.task k).supersede writes) = .go v t pc)
    (ht : t.issued = (s.task k).issued) : s.issue x i false reads writes body = v.completes x k t (pc.getD ((s.task k).after n)) := by
  rw [issue_go h hn hb]
  unfold State.completes
  rw [ht]

/-- An instruction with no jump. -/
theorem issue_next {s u v : State} {x n k : Nat} {i : Insn} {reads writes : List LoadDst} {body : State → Nat → Task → Issue} {t : Task}
    (h : Issues s x n reads k u) (hn : (if i.long then 8 else 4) = n) (hb : body u k ((s.task k).supersede writes) = .go v t none)
    (ht : t.issued = (s.task k).issued) : s.issue x i false reads writes body = v.completes x k t ((s.task k).after n) := by
  rw [issue_completes h hn hb ht, Option.getD_none]

/-- An instruction that leaves its context waiting. -/
theorem issue_stays {s u v : State} {x n k : Nat} {i : Insn} {reads writes : List LoadDst} {body : State → Nat → Task → Issue} {p : CtxPhase}
    {w : Wait} (h : Issues s x n reads k u) (hn : (if i.long then 8 else 4) = n) (hb : body u k ((s.task k).supersede writes) = .stay v p w) :
    s.issue x i false reads writes body = (v.setTask k { v.task k with wait := w }).setContext x { v.context x with phase := p } := by
  rw [issue_runs h hn, hb]

@[simp] theorem Task.setS_issued (t : Task) (r : Nat) (v : Word) : (t.setS r v).issued = t.issued := by
  unfold Task.setS
  split <;> rfl

/-! What an instruction that supersedes loads reads of its task (R119). -/

@[simp] theorem Task.supersede_sreg (t : Task) (w : List LoadDst) (r : Nat) : (t.supersede w).sreg r = t.sreg r := rfl
@[simp] theorem Task.supersede_vreg (t : Task) (w : List LoadDst) (r : Nat) : (t.supersede w).vreg r = t.vreg r := rfl
@[simp] theorem Task.supersede_preg (t : Task) (w : List LoadDst) (r : Nat) : (t.supersede w).preg r = t.preg r := rfl
@[simp] theorem Task.supersede_treg (t : Task) (w : List LoadDst) (r : Nat) : (t.supersede w).treg r = t.treg r := rfl
@[simp] theorem Task.supersede_pc (t : Task) (w : List LoadDst) : (t.supersede w).pc = t.pc := rfl
@[simp] theorem Task.supersede_issued (t : Task) (w : List LoadDst) : (t.supersede w).issued = t.issued := rfl
@[simp] theorem Task.supersede_arith (t : Task) (w : List LoadDst) : (t.supersede w).arith = t.arith := rfl
@[simp] theorem Task.supersede_slot (t : Task) (w : List LoadDst) : (t.supersede w).slot = t.slot := rfl
@[simp] theorem Task.supersede_cmds (t : Task) (w : List LoadDst) : (t.supersede w).cmds = t.cmds := rfl
@[simp] theorem Task.supersede_update (t : Task) (w : List LoadDst) : (t.supersede w).update = t.update := rfl

/-- An instruction that writes no register supersedes no load. -/
@[simp] theorem Task.supersede_nil (t : Task) : t.supersede [] = t := by
  unfold Task.supersede
  simp

/-- A load into a register outside the list is as it was. -/
theorem Task.supersede_other {t : Task} {w : List LoadDst} (h : ∀ l ∈ t.loads, l.dst ∉ w) : t.supersede w = t := by
  have : t.loads.map (fun l => if w.contains l.dst then { l with dead := true } else l) = t.loads := by
    conv_rhs => rw [← List.map_id t.loads]
    exact List.map_congr_left (fun l hl => by simp [h l hl])
  unfold Task.supersede
  rw [this]

/-! The same for an instruction that writes no register. -/

theorem issue_completes_nil {s u v : State} {x n k : Nat} {i : Insn} {reads : List LoadDst} {body : State → Nat → Task → Issue} {t : Task}
    {pc : Option Word} (h : Issues s x n reads k u) (hn : (if i.long then 8 else 4) = n) (hb : body u k (s.task k) = .go v t pc)
    (ht : t.issued = (s.task k).issued) : s.issue x i false reads [] body = v.completes x k t (pc.getD ((s.task k).after n)) :=
  issue_completes h hn (by rw [Task.supersede_nil, hb]) ht

theorem issue_next_nil {s u v : State} {x n k : Nat} {i : Insn} {reads : List LoadDst} {body : State → Nat → Task → Issue} {t : Task}
    (h : Issues s x n reads k u) (hn : (if i.long then 8 else 4) = n) (hb : body u k (s.task k) = .go v t none)
    (ht : t.issued = (s.task k).issued) : s.issue x i false reads [] body = v.completes x k t ((s.task k).after n) :=
  issue_next h hn (by rw [Task.supersede_nil, hb]) ht

theorem issue_go_nil {s u v : State} {x n k : Nat} {i : Insn} {reads : List LoadDst} {body : State → Nat → Task → Issue} {t : Task}
    {pc : Option Word} (h : Issues s x n reads k u) (hn : (if i.long then 8 else 4) = n) (hb : body u k (s.task k) = .go v t pc) :
    s.issue x i false reads [] body =
      (v.setTask k { t with pc := pc.getD ((s.task k).after n), issued := (s.task k).issued + 1#32 }).setRunning x :=
  issue_go h hn (by rw [Task.supersede_nil, hb])

theorem issue_stays_nil {s u v : State} {x n k : Nat} {i : Insn} {reads : List LoadDst} {body : State → Nat → Task → Issue} {p : CtxPhase}
    {w : Wait} (h : Issues s x n reads k u) (hn : (if i.long then 8 else 4) = n) (hb : body u k (s.task k) = .stay v p w) :
    s.issue x i false reads [] body = (v.setTask k { v.task k with wait := w }).setContext x { v.context x with phase := p } :=
  issue_stays h hn (by rw [Task.supersede_nil, hb])

end Sys2Proof.Machine
end

