-- ==== Sys2Proof/Laws/Keeps.lean ====
section
/-! SUPPORT. How the relation of what every command keeps is carried through record updates, folds and the operations that store memory, empty banks or burn fuses. -/

namespace Sys2Proof.Machine

theorem Burned.refl (a : OtpSt) : Burned a a :=
  ⟨Nat.le_refl _, List.prefix_refl _, List.prefix_refl _, Nat.le_refl _, Nat.le_refl _, Nat.le_refl _, fun _ => rfl⟩

theorem Burned.trans {a b c : OtpSt} (h : Burned a b) (g : Burned b c) : Burned a c :=
  ⟨Nat.le_trans h.lc g.lc, h.owners.trans g.owners, h.revoked.trans g.revoked, Nat.le_trans h.svn g.svn,
    Nat.le_trans h.svnSteps g.svnSteps, Nat.le_trans h.invasive g.invasive,
    fun k => by rw [g.identity (by rw [h.identity k]; exact k), h.identity k]⟩

theorem Keeps.refl (s : State) : Keeps s s := ⟨rfl, id, Burned.refl _⟩

theorem Keeps.trans {a b c : State} (h : Keeps a b) (g : Keeps b c) : Keeps a c :=
  ⟨g.queue.trans h.queue, fun w => g.memory (h.memory w), h.fuses.trans g.fuses⟩

/-- A state that differs in other fields alone keeps as much. -/
theorem Keeps.of_eq {s0 y t : State} (h : Keeps s0 y) (hp : t.pending = y.pending) (hm : t.mem = y.mem) (he : t.ecc = y.ecc)
    (hb : t.banks = y.banks) (ho : t.otp = y.otp) : Keeps s0 t :=
  ⟨hp.trans h.queue, by unfold Memory.wf; rw [hm, he, hb]; exact h.memory, ho ▸ h.fuses⟩

/-- A record update that leaves the queue, memory and the fuses alone. -/
theorem keeps_mk {s0 y : State}
    (free : Nat) (tick : Nat) (out : List Out) (evq : List Event) (usecN : BitVec 64) (usecS : BitVec 64) (regs : SMap Word) (latch :
    SMap Word) (scratch : SMap Nat) (bridges : SMap (List Line)) (tasks : SMap Task) (ctx : SMap Ctx) (cores : SMap CoreSt) (posted :
    List Posted) (adds : List PendingAdd) (deferred : List Deferred) (ended : SMap (Option Ended)) (tokens : SMap Token) (srf : SMap
    Word) (engines : SMap Engine) (arrays : SMap ArraySt) (queues : SMap (List Nat)) (xferQ : SMap (List XCmd)) (chains : SMap (List
    Chain)) (contribs : List Contribution) (plait : SMap PlaitSt) (edges : SMap (List Flit)) (colls : SMap Word) (jobs : SMap JobSt)
    (excursion : SMap Nat) (pkgGiB : SMap Nat) (pkgExcluded : SMap Bool) (spread : List Nat) (pairErrs : SMap Errors) (areas : SMap
    Area) (checkCache : SMap (List CheckEntry)) (retryFails : SMap (List Nat)) (weakRuns : SMap Nat) (closed : SMap Bool) (busMaster :
    SMap Bool) (fns : SMap FnSt) (rings : SMap RingSt) (capsules : SMap (List CapsuleSt)) (results : SMap ResultSt) (ports : SMap
    PortSt) (gftRx : SMap (List (Nat × GftPacket))) (conns : List Conn) (tags : List Tag) (tagWait : List TagWait) (deepReads : List
    DeepRead) (collRun : SMap CollSt) (rowReqs : List RowReq) (heldRows : List HeldRows) (ledger : SMap LedgerE) (epochs : SMap
    EpochSt) (tables : SMap Word) (tally : SMap (Option TallyE)) (shardLoads : SMap Nat) (samples : SMap (SMap Nat)) (sampleLost :
    SMap Bool) (gens : SMap (Option (List Nat))) (publishQ : List Nat) (hoists : SMap (List HCmd)) (rowSums : SMap (List Word))
    (rowGrads : SMap (List Word)) (sweepTags : List (Nat × Nat × Nat × Nat)) (sweeps : SMap SweepSt) (suspectLog : List (Code × Nat ×
    List Nat)) (suspectFrom : SMap Nat) (staged : List Staged) (returns : SMap ReturnSt) (freeQ : List (Nat × Nat)) (regPending : List
    (Nat × Word)) (slices : SMap (Option SliceSt)) (sec : SecSt) (flash : FlashSt) (fw : FwSt) (mm : MmSt) (power : PowerSt) (tap :
    TapSt)
    (h : Keeps s0 y) :
    Keeps s0 { y with
      free := free, tick := tick, out := out, evq := evq, usecN := usecN, usecS := usecS, regs := regs, latch := latch, scratch
      := scratch, bridges := bridges, tasks := tasks, ctx := ctx, cores := cores, posted := posted, adds := adds, deferred :=
      deferred, ended := ended, tokens := tokens, srf := srf, engines := engines, arrays := arrays, queues := queues, xferQ :=
      xferQ, chains := chains, contribs := contribs, plait := plait, edges := edges, colls := colls, jobs := jobs, excursion :=
      excursion, pkgGiB := pkgGiB, pkgExcluded := pkgExcluded, spread := spread, pairErrs := pairErrs, areas := areas,
      checkCache := checkCache, retryFails := retryFails, weakRuns := weakRuns, closed := closed, busMaster := busMaster, fns :=
      fns, rings := rings, capsules := capsules, results := results, ports := ports, gftRx := gftRx, conns := conns, tags :=
      tags, tagWait := tagWait, deepReads := deepReads, collRun := collRun, rowReqs := rowReqs, heldRows := heldRows, ledger :=
      ledger, epochs := epochs, tables := tables, tally := tally, shardLoads := shardLoads, samples := samples, sampleLost :=
      sampleLost, gens := gens, publishQ := publishQ, hoists := hoists, rowSums := rowSums, rowGrads := rowGrads, sweepTags :=
      sweepTags, sweeps := sweeps, suspectLog := suspectLog, suspectFrom := suspectFrom, staged := staged, returns := returns,
      freeQ := freeQ, regPending := regPending, slices := slices, sec := sec, flash := flash, fw := fw, mm := mm, power :=
      power, tap := tap } :=
  h.of_eq rfl rfl rfl rfl rfl

/-- A named intermediate state. -/
theorem keeps_let {s0 v : State} {f : State → State} (hv : Keeps s0 v) (h : ∀ x, Keeps s0 x → Keeps s0 (f x)) : Keeps s0 (let x := v; f x) := h v hv

theorem keeps_ite {s0 a b : State} {c : Prop} [Decidable c] (ha : Keeps s0 a) (hb : Keeps s0 b) : Keeps s0 (if c then a else b) := by
  split <;> assumption

/-- The state of a pair that a function answered. -/
theorem keeps_of_fst {β : Type} {s0 a : State} {b : β} {p : State × β} (h : Keeps s0 p.1) (e : p = (a, b)) : Keeps s0 a := by
  subst e
  exact h

/-- The state of a pair that a function answers. -/
theorem keeps_fst_of {β : Type} {s0 a : State} {b : β} {p : State × β} (h : Keeps s0 a) (e : p = (a, b)) : Keeps s0 p.1 := by
  subst e
  exact h

/-- Fuses that burn. -/
theorem keeps_otp {s0 y : State} {o : OtpSt} (h : Keeps s0 y) (hb : Burned y.otp o) : Keeps s0 { y with otp := o } :=
  h.trans ⟨rfl, id, hb⟩

/-- A fold whose step keeps, keeps. -/
theorem keeps_foldl {α : Type} {s0 : State} {f : State → α → State} (hf : ∀ s a, Keeps s0 s → Keeps s0 (f s a)) (l : List α)
    (s : State) (h : Keeps s0 s) : Keeps s0 (l.foldl f s) := by
  induction l generalizing s with
  | nil => exact h
  | cons a r ih => exact ih _ (hf s a h)

/-- A fold that carries a state beside other things. -/
theorem keeps_foldl_fst {α β : Type} {s0 : State} {f : State × β → α → State × β} (hf : ∀ p a, Keeps s0 p.1 → Keeps s0 (f p a).1)
    (l : List α) (p : State × β) (h : Keeps s0 p.1) : Keeps s0 (l.foldl f p).1 := by
  induction l generalizing p with
  | nil => exact h
  | cons a r ih => exact ih _ (hf p a h)

/-- What an unlisted byte reads as depends on the fills of the banks alone. -/
theorem fillByte_congr {m n : SMap BankSt} (h : ∀ b, (m.get {} b).fill = (n.get {} b).fill) : fillByte m = fillByte n := by
  funext a
  simp [fillByte, h]

theorem fillMark_congr {m n : SMap BankSt} (h : ∀ b, (m.get {} b).fill = (n.get {} b).fill) : fillMark m = fillMark n := by
  funext a
  simp [fillMark, h]

/-- A bank's state replaced by one with the same fill keeps memory. -/
theorem keeps_setBank {s0 s : State} (b : Nat) (v : BankSt) (hv : v.fill = (s.bank b).fill) (h : Keeps s0 s) : Keeps s0 (s.setBank b v) := by
  have hf : ∀ c, ((s.banks.put {} b v).get {} c).fill = (s.banks.get {} c).fill := by
    intro c
    rw [SMap.get_put]
    split
    · rename_i hc
      rw [hc, hv]
      rfl
    · rfl
  refine h.trans ⟨rfl, fun w => ?_, Burned.refl _⟩
  unfold Memory.wf State.setBank
  simp only [fillByte_congr hf, fillMark_congr hf]
  exact w

theorem keeps_setByte {s0 s : State} (a : Nat) (v : Byte) (h : Keeps s0 s) : Keeps s0 (s.setByte a v) :=
  h.trans ⟨rfl, fun w => ⟨SMap.wf_put a v w.1, w.2⟩, Burned.refl _⟩

theorem keeps_setMark {s0 s : State} (a m : Nat) (h : Keeps s0 s) : Keeps s0 (s.setMark a m) :=
  h.trans ⟨rfl, fun w => ⟨w.1, SMap.wf_put (a / 8) m w.2⟩, Burned.refl _⟩

theorem keeps_setBytes {s0 : State} (l : List Byte) : ∀ {s : State} (a : Nat), Keeps s0 s → Keeps s0 (s.setBytes a l) := by
  induction l with
  | nil => exact fun _ h => h
  | cons b r ih => exact fun a h => ih (a + 1) (keeps_setByte a b h)

/-- A bank emptied: every byte and check state listed in it goes, so that its new fill shows. -/
theorem keeps_refill {s0 s : State} (b f : Nat) (h : Keeps s0 s) : Keeps s0 (s.refill b f) := by
  refine h.trans ⟨rfl, fun w => ?_, Burned.refl _⟩
  have hb : ∀ c, c ≠ b → (s.banks.put {} b { s.bank b with fill := f }).get {} c = s.banks.get {} c :=
    fun c hc => SMap.get_put_other _ _ _ _ hc
  refine ⟨SMap.wf_clear _ _ w.1 (fun k hk => ?_), SMap.wf_clear _ _ w.2 (fun k hk => ?_)⟩
  · have : bankOf k ≠ b := by
      unfold bankOf
      omega
    simp only [fillByte, State.refill, hb _ this]
  · have : bankOf (8 * k) ≠ b := by
      unfold bankOf
      omega
    simp only [fillMark, State.refill, hb _ this]

/-- A command answers a next state, which keeps what every command keeps. -/
inductive KeepsNext (s0 : State) : Host.Outcome State Fault Refusal → Prop
  | next {u : State} (h : Keeps s0 u) : KeepsNext s0 (.next u)

theorem keepsNext {s0 s : State} (h : Keeps s0 s) : KeepsNext s0 (.next s) := .next h

/-- What an issued instruction keeps, whatever becomes of it. -/
inductive KeepsIssue (s0 : State) : Issue → Prop
  | fault (c : Code) (a d : Nat) : KeepsIssue s0 (.fault c a d)
  | stay {s : State} (p : CtxPhase) (w : Wait) (h : Keeps s0 s) : KeepsIssue s0 (.stay s p w)
  | go {s : State} (t : Task) (pc : Option Word) (h : Keeps s0 s) : KeepsIssue s0 (.go s t pc)
  | leave {s : State} (h : Keeps s0 s) : KeepsIssue s0 (.leave s)

theorem keepsIssue_fault {s0 : State} (c : Code) (a d : Nat) : KeepsIssue s0 (.fault c a d) := .fault c a d
theorem keepsIssue_stay {s0 s : State} (p : CtxPhase) (w : Wait) (h : Keeps s0 s) : KeepsIssue s0 (.stay s p w) := .stay p w h
theorem keepsIssue_go {s0 s : State} (t : Task) (pc : Option Word) (h : Keeps s0 s) : KeepsIssue s0 (.go s t pc) := .go t pc h
theorem keepsIssue_leave {s0 s : State} (h : Keeps s0 s) : KeepsIssue s0 (.leave s) := .leave h

/-- What a fetch keeps. -/
inductive KeepsFetched (s0 : State) : Fetched → Prop
  | ok {s : State} (h : Keeps s0 s) : KeepsFetched s0 (.ok s)
  | refused {s : State} (h : Keeps s0 s) : KeepsFetched s0 (.refused s)
  | waits {s : State} (h : Keeps s0 s) : KeepsFetched s0 (.waits s)

theorem keepsFetched_ok {s0 s : State} (h : Keeps s0 s) : KeepsFetched s0 (.ok s) := .ok h
theorem keepsFetched_refused {s0 s : State} (h : Keeps s0 s) : KeepsFetched s0 (.refused s) := .refused h
theorem keepsFetched_waits {s0 s : State} (h : Keeps s0 s) : KeepsFetched s0 (.waits s) := .waits h

/-- Memory at reset is in its canonical form. -/
theorem memory_wf_reset : Memory.wf State.reset := ⟨SMap.wf_nil _, SMap.wf_nil _⟩

end Sys2Proof.Machine
end

