-- ==== Sys2Proof/Laws/Keeps/Ops.lean ====
section
/-! SUPPORT. What the operations of Machine/Ops.lean keep. -/

namespace Sys2Proof.Machine

theorem keeps_wr {s0 : State} (a : Nat) (v : Word) (s : State) (hk : Keeps s0 s) : Keeps s0 (State.wr s a v) := by
  unfold State.wr
  repeat' first
    | with_reducible assumption
    | with_reducible apply keeps_ite
    | split
    | with_reducible refine keeps_foldl ?_ _ _ ?_
    | with_reducible refine keeps_foldl_fst ?_ _ _ ?_
    | fail_if_no_progress with_reducible apply keeps_mk

theorem keeps_setFld {s0 : State} (a : Nat) (lo : Nat) (n : Nat) (v : Nat) (s : State) (hk : Keeps s0 s) : Keeps s0 (State.setFld s a lo n v) := by
  unfold State.setFld
  repeat' first
    | with_reducible assumption
    | with_reducible apply keeps_ite
    | split
    | with_reducible apply keeps_wr

theorem keeps_count {s0 : State} (a : Nat) (lo : Nat) (n : Nat) (k : Nat) (s : State) (hk : Keeps s0 s) : Keeps s0 (State.count s a lo n k) := by
  unfold State.count
  repeat' first
    | with_reducible assumption
    | with_reducible apply keeps_ite
    | split
    | with_reducible apply keeps_setFld

theorem keeps_raise {s0 : State} (code : Code) (cls : EvClass) (source : Nat) (data : List Nat) (s : State) (hk : Keeps s0 s) : Keeps s0 (State.raise s code cls source data) := by
  unfold State.raise
  repeat' first
    | with_reducible assumption
    | with_reducible apply keeps_ite
    | split
    | with_reducible refine keeps_foldl ?_ _ _ ?_
    | with_reducible refine keeps_foldl_fst ?_ _ _ ?_
    | fail_if_no_progress with_reducible apply keeps_mk

theorem keeps_setBit {s0 : State} (a : Nat) (i : Nat) (v : Bool) (s : State) (hk : Keeps s0 s) : Keeps s0 (State.setBit s a i v) := by
  unfold State.setBit
  repeat' first
    | with_reducible assumption
    | with_reducible apply keeps_ite
    | split
    | with_reducible apply keeps_setFld

theorem keeps_setStatus {s0 : State} (a : Nat) (i : Nat) (code : Code) (cls : EvClass) (source : Nat) (data : List Nat) (s : State) (hk : Keeps s0 s) : Keeps s0 (State.setStatus s a i code cls source data) := by
  unfold State.setStatus
  repeat' first
    | with_reducible assumption
    | with_reducible apply keeps_ite
    | split
    | with_reducible apply keeps_raise
    | with_reducible apply keeps_setBit

theorem keeps_asleep {s0 : State} (b : Nat) (s : State) (hk : Keeps s0 s) : Keeps s0 (State.asleep s b) := by
  unfold State.asleep
  repeat' first
    | with_reducible assumption
    | with_reducible apply keeps_ite
    | split
    | with_reducible apply keeps_count
    | with_reducible apply keeps_setStatus

theorem keeps_autoWake {s0 : State} (b : Nat) (s : State) (hk : Keeps s0 s) : Keeps s0 (State.autoWake s b) := by
  unfold State.autoWake
  repeat' first
    | with_reducible assumption
    | with_reducible apply keeps_ite
    | split
    | with_reducible refine keeps_setBank _ _ (by simp) ?_
    | with_reducible apply keeps_setBit
    | with_reducible apply keeps_setFld

theorem keeps_setToken {s0 : State} (a : Nat) (v : Token) (s : State) (hk : Keeps s0 s) : Keeps s0 (State.setToken s a v) := by
  unfold State.setToken
  repeat' first
    | with_reducible assumption
    | with_reducible apply keeps_ite
    | split
    | with_reducible refine keeps_foldl ?_ _ _ ?_
    | with_reducible refine keeps_foldl_fst ?_ _ _ ?_
    | fail_if_no_progress with_reducible apply keeps_mk

theorem keeps_bumpToken {s0 : State} (a : Nat) (n : Nat) (err : Bool) (s : State) (hk : Keeps s0 s) : Keeps s0 (State.bumpToken s a n err) := by
  unfold State.bumpToken
  repeat' first
    | with_reducible assumption
    | with_reducible apply keeps_ite
    | split
    | with_reducible apply keeps_setToken

theorem keeps_deepTimeout {s0 : State} (w : Nat) (s : State) (hk : Keeps s0 s) : Keeps s0 (State.deepTimeout s w) := by
  unfold State.deepTimeout
  repeat' first
    | with_reducible assumption
    | with_reducible apply keeps_ite
    | split
    | with_reducible apply keeps_raise
    | with_reducible apply keeps_count

theorem keeps_setChains {s0 : State} (m : Nat) (q : List Chain) (s : State) (hk : Keeps s0 s) : Keeps s0 (State.setChains s m q) := by
  unfold State.setChains
  repeat' first
    | with_reducible assumption
    | with_reducible apply keeps_ite
    | split
    | with_reducible refine keeps_foldl ?_ _ _ ?_
    | with_reducible refine keeps_foldl_fst ?_ _ _ ?_
    | fail_if_no_progress with_reducible apply keeps_mk

theorem keeps_landStage {s0 : State} (c : Option (Nat × Nat × Nat)) (report : Nat) (s : State) (hk : Keeps s0 s) : Keeps s0 (State.landStage s c report) := by
  unfold State.landStage
  repeat' first
    | with_reducible assumption
    | with_reducible apply keeps_ite
    | split
    | with_reducible apply keeps_setChains

theorem keeps_setTask {s0 : State} (k : Nat) (t : Task) (s : State) (hk : Keeps s0 s) : Keeps s0 (State.setTask s k t) := by
  unfold State.setTask
  repeat' first
    | with_reducible assumption
    | with_reducible apply keeps_ite
    | split
    | with_reducible refine keeps_foldl ?_ _ _ ?_
    | with_reducible refine keeps_foldl_fst ?_ _ _ ?_
    | fail_if_no_progress with_reducible apply keeps_mk

theorem keeps_endCmd {s0 : State} (c : CmdInfo) (err : Bool) (s : State) (hk : Keeps s0 s) : Keeps s0 (State.endCmd s c err) := by
  unfold State.endCmd
  repeat' first
    | with_reducible assumption
    | with_reducible apply keeps_ite
    | split
    | with_reducible apply keeps_landStage
    | with_reducible apply keeps_setTask
    | with_reducible apply keeps_bumpToken

theorem keeps_deferFault {s0 : State} (code : Code) (c : CmdInfo) (addr : Nat) (detail : Nat) (s : State) (hk : Keeps s0 s) : Keeps s0 (State.deferFault s code c addr detail) := by
  unfold State.deferFault
  repeat' first
    | with_reducible assumption
    | with_reducible apply keeps_ite
    | split
    | with_reducible apply keeps_landStage
    | with_reducible apply keeps_endCmd
    | with_reducible refine keeps_foldl ?_ _ _ ?_
    | with_reducible refine keeps_foldl_fst ?_ _ _ ?_
    | fail_if_no_progress with_reducible apply keeps_mk

theorem keeps_draw {s0 : State} (s : State) (hk : Keeps s0 s) : Keeps s0 (State.draw s).2 := by
  unfold State.draw
  repeat' first
    | with_reducible assumption
    | with_reducible apply keeps_ite
    | split
    | with_reducible refine keeps_foldl ?_ _ _ ?_
    | with_reducible refine keeps_foldl_fst ?_ _ _ ?_
    | fail_if_no_progress with_reducible apply keeps_mk

theorem keeps_drawBytes {s0 : State} (n : Nat) (s : State) (hk : Keeps s0 s) : Keeps s0 (State.drawBytes s n).2 := by
  unfold State.drawBytes
  repeat' first
    | with_reducible assumption
    | with_reducible apply keeps_ite
    | split
    | with_reducible refine keeps_foldl ?_ _ _ ?_
    | with_reducible refine keeps_foldl_fst ?_ _ _ ?_
    | fail_if_no_progress with_reducible apply keeps_mk

theorem keeps_emit {s0 : State} (o : Out) (s : State) (hk : Keeps s0 s) : Keeps s0 (State.emit s o) := by
  unfold State.emit
  repeat' first
    | with_reducible assumption
    | with_reducible apply keeps_ite
    | split
    | with_reducible refine keeps_foldl ?_ _ _ ?_
    | with_reducible refine keeps_foldl_fst ?_ _ _ ?_
    | fail_if_no_progress with_reducible apply keeps_mk

theorem keeps_sumFlags {s0 : State} (slot : Nat) (f : Nat) (tz : Nat) (tq : Nat) (s : State) (hk : Keeps s0 s) : Keeps s0 (State.sumFlags s slot f tz tq) := by
  unfold State.sumFlags
  repeat' first
    | with_reducible assumption
    | with_reducible apply keeps_ite
    | split
    | with_reducible apply keeps_setFld
    | with_reducible apply keeps_raise

theorem keeps_flagTask {s0 : State} (k : Nat) (f : Flags) (tid : Nat) (s : State) (hk : Keeps s0 s) : Keeps s0 (State.flagTask s k f tid) := by
  unfold State.flagTask
  repeat' first
    | with_reducible assumption
    | with_reducible apply keeps_ite
    | split
    | with_reducible apply keeps_setTask
    | with_reducible apply keeps_sumFlags

theorem keeps_freshCheck {s0 : State} (c : Nat) (addr : Nat) (s : State) (hk : Keeps s0 s) : Keeps s0 (State.freshCheck s c addr) := by
  unfold State.freshCheck
  repeat' first
    | with_reducible assumption
    | with_reducible apply keeps_ite
    | split
    | with_reducible refine keeps_foldl ?_ _ _ ?_
    | with_reducible refine keeps_foldl_fst ?_ _ _ ?_
    | fail_if_no_progress with_reducible apply keeps_mk

theorem keeps_numbered {s0 : State} (s : State) (hk : Keeps s0 s) : Keeps s0 (State.numbered s) := by
  unfold State.numbered
  repeat' first
    | with_reducible assumption
    | with_reducible apply keeps_ite
    | split
    | with_reducible refine keeps_foldl ?_ _ _ ?_
    | with_reducible refine keeps_foldl_fst ?_ _ _ ?_
    | fail_if_no_progress with_reducible apply keeps_mk

theorem keeps_holdAccess {s0 : State} (a : Nat) (n : Nat) (data : Option (List Byte)) (input : Nat) (same : Bool) (s : State) (hk : Keeps s0 s) : Keeps s0 (State.holdAccess s a n data input same) := by
  unfold State.holdAccess
  repeat' first
    | with_reducible assumption
    | with_reducible apply keeps_ite
    | split
    | with_reducible apply keeps_autoWake
    | with_reducible apply keeps_numbered
    | with_reducible refine keeps_setBank _ _ (by simp) ?_

theorem keeps_logPair {s0 : State} (c : Nat) (addr : Nat) (ue : Bool) (s : State) (hk : Keeps s0 s) : Keeps s0 (State.logPair s c addr ue) := by
  unfold State.logPair
  repeat' first
    | with_reducible assumption
    | with_reducible apply keeps_ite
    | split
    | with_reducible apply keeps_wr

theorem keeps_notOwned {s0 : State} (a : Nat) (ag : Agent) (write : Bool) (s : State) (hk : Keeps s0 s) : Keeps s0 (State.notOwned s a ag write) := by
  unfold State.notOwned
  repeat' first
    | with_reducible assumption
    | with_reducible apply keeps_ite
    | split
    | with_reducible apply keeps_count
    | with_reducible apply keeps_setStatus

theorem keeps_noteMaps {s0 : State} (s : State) (hk : Keeps s0 s) : Keeps s0 (State.noteMaps s) := by
  unfold State.noteMaps
  repeat' first
    | with_reducible assumption
    | with_reducible apply keeps_ite
    | split
    | with_reducible refine keeps_foldl ?_ _ _ ?_
    | with_reducible refine keeps_foldl_fst ?_ _ _ ?_
    | fail_if_no_progress with_reducible apply keeps_mk

theorem keeps_oneCycle {s0 : State} (f : State → State) (s : State) (hk : Keeps s0 s) (h_f : ∀ y0, Keeps s0 y0 → Keeps s0 (f y0)) : Keeps s0 (State.oneCycle s f) := by
  unfold State.oneCycle
  repeat' first
    | with_reducible assumption
    | with_reducible apply keeps_ite
    | split
    | with_reducible apply h_f
    | with_reducible refine keeps_foldl ?_ _ _ ?_
    | with_reducible refine keeps_foldl_fst ?_ _ _ ?_
    | fail_if_no_progress with_reducible apply keeps_mk

theorem keeps_pairCe {s0 : State} (c : Nat) (addr : Nat) (sym : Nat) (s : State) (hk : Keeps s0 s) : Keeps s0 (State.pairCe s c addr sym) := by
  unfold State.pairCe
  repeat' first
    | with_reducible assumption
    | with_reducible apply keeps_ite
    | split
    | with_reducible apply keeps_setFld
    | with_reducible apply keeps_logPair
    | with_reducible apply keeps_count
    | with_reducible apply keeps_setStatus

theorem keeps_pairUe {s0 : State} (c : Nat) (addr : Nat) (s : State) (hk : Keeps s0 s) : Keeps s0 (State.pairUe s c addr) := by
  unfold State.pairUe
  repeat' first
    | with_reducible assumption
    | with_reducible apply keeps_ite
    | split
    | with_reducible apply keeps_logPair
    | with_reducible apply keeps_count
    | with_reducible apply keeps_setStatus

theorem keeps_postWrites {s0 : State} (w : Nat) (l2 : List (Nat × Nat)) (l3 : List Byte) (s : State) (hk : Keeps s0 s) : Keeps s0 (State.postWrites s w l2 l3) := by
  induction l2 generalizing s w l3 with
  | nil =>
    unfold State.postWrites
    repeat' first
      | with_reducible assumption
  | cons e r ih =>
    unfold State.postWrites
    repeat' first
      | with_reducible assumption
      | with_reducible apply ih
      | with_reducible apply keeps_ite
      | split
      | with_reducible apply keeps_emit

theorem keeps_readWord {s0 : State} (a : Nat) (s : State) (hk : Keeps s0 s) : Keeps s0 (State.readWord s a).1 := by
  unfold State.readWord
  repeat' first
    | with_reducible assumption
    | with_reducible apply keeps_ite
    | split
    | with_reducible apply keeps_count
    | with_reducible apply keeps_setStatus
    | with_reducible refine keeps_setBank _ _ (by simp) ?_
    | with_reducible apply keeps_wr

theorem keeps_readPort {s0 : State} (a : Nat) (n : Nat) (s : State) (hk : Keeps s0 s) : Keeps s0 (State.readPort s a n).1 := by
  unfold State.readPort
  repeat' first
    | with_reducible assumption
    | with_reducible apply keeps_ite
    | split
    | with_reducible apply keeps_readWord
    | with_reducible refine keeps_foldl ?_ _ _ ?_
    | with_reducible refine keeps_foldl_fst ?_ _ _ ?_
    | fail_if_no_progress with_reducible apply keeps_mk
    | (intro _)

theorem keeps_readPart {s0 : State} (ag : Agent) (a : Nat) (n : Nat) (s : State) (hk : Keeps s0 s) : Keeps s0 (State.readPart s ag a n).1 := by
  unfold State.readPart
  repeat' first
    | with_reducible assumption
    | with_reducible apply keeps_ite
    | split
    | with_reducible apply keeps_notOwned
    | with_reducible apply keeps_readPort
    | with_reducible apply keeps_asleep

theorem keeps_setCache {s0 : State} (c : Nat) (l : List CheckEntry) (s : State) (hk : Keeps s0 s) : Keeps s0 (State.setCache s c l) := by
  unfold State.setCache
  repeat' first
    | with_reducible assumption
    | split
    | with_reducible refine keeps_foldl ?_ _ _ ?_
    | with_reducible refine keeps_foldl_fst ?_ _ _ ?_
    | fail_if_no_progress with_reducible apply keeps_mk
    | (intro _)

theorem keeps_touchArea {s0 : State} (c : Nat) (block : Nat) (s : State) (hk : Keeps s0 s) : Keeps s0 (State.touchArea s c block).1 := by
  unfold State.touchArea
  repeat' first
    | with_reducible assumption
    | split
    | with_reducible apply keeps_setCache
    | with_reducible apply keeps_pairCe
    | with_reducible apply keeps_pairUe
    | with_reducible refine keeps_foldl ?_ _ _ ?_
    | with_reducible refine keeps_foldl_fst ?_ _ _ ?_
    | fail_if_no_progress with_reducible apply keeps_mk
    | (intro _)
    | dsimp only

theorem keeps_readPair {s0 : State} (a : Nat) (s : State) (hk : Keeps s0 s) : Keeps s0 (State.readPair s a).1 := by
  unfold State.readPair
  repeat' first
    | with_reducible assumption
    | with_reducible apply keeps_ite
    | split
    | with_reducible apply keeps_pairUe
    | with_reducible apply keeps_touchArea
    | with_reducible apply keeps_pairCe
    | with_reducible refine keeps_foldl ?_ _ _ ?_
    | with_reducible refine keeps_foldl_fst ?_ _ _ ?_
    | fail_if_no_progress with_reducible apply keeps_mk
    | (intro _)
    | dsimp only

theorem keeps_readExt {s0 : State} (a : Nat) (n : Nat) (s : State) (hk : Keeps s0 s) : Keeps s0 (State.readExt s a n).1 := by
  unfold State.readExt
  repeat' first
    | with_reducible assumption
    | with_reducible apply keeps_ite
    | split
    | with_reducible apply keeps_readPair
    | with_reducible refine keeps_foldl ?_ _ _ ?_
    | with_reducible refine keeps_foldl_fst ?_ _ _ ?_
    | fail_if_no_progress with_reducible apply keeps_mk
    | (intro _)

theorem keeps_unmapped {s0 : State} (a : Nat) (write : Bool) (s : State) (hk : Keeps s0 s) : Keeps s0 (State.unmapped s a write) := by
  unfold State.unmapped
  repeat' first
    | with_reducible assumption
    | with_reducible apply keeps_ite
    | split
    | with_reducible apply keeps_raise

theorem keeps_sendReads {s0 : State} (w : Nat) (a : Nat) (n : Nat) (s : State) (hk : Keeps s0 s) : Keeps s0 (State.sendReads s w a n) := by
  unfold State.sendReads
  repeat' first
    | with_reducible assumption
    | with_reducible apply keeps_ite
    | split
    | with_reducible apply keeps_emit
    | with_reducible refine keeps_foldl ?_ _ _ ?_
    | with_reducible refine keeps_foldl_fst ?_ _ _ ?_
    | fail_if_no_progress with_reducible apply keeps_mk
    | (intro _)

theorem keeps_readHost {s0 : State} (a : Nat) (n : Nat) (host : List Host.Cell) (s : State) (hk : Keeps s0 s) : Keeps s0 (State.readHost s a n host).1 := by
  unfold State.readHost
  repeat' first
    | with_reducible assumption
    | with_reducible apply keeps_ite
    | split
    | with_reducible apply keeps_unmapped
    | with_reducible apply keeps_deepTimeout
    | with_reducible apply keeps_sendReads
    | with_reducible refine keeps_foldl ?_ _ _ ?_
    | with_reducible refine keeps_foldl_fst ?_ _ _ ?_
    | fail_if_no_progress with_reducible apply keeps_mk
    | (intro _)
    | dsimp only

theorem keeps_readDev {s0 : State} (ag : Agent) (a : Nat) (n : Nat) (host : List Host.Cell) (s : State) (hk : Keeps s0 s) : Keeps s0 (State.readDev s ag a n host).1 := by
  unfold State.readDev
  repeat' first
    | with_reducible assumption
    | with_reducible apply keeps_ite
    | split
    | with_reducible apply keeps_readPart
    | with_reducible apply keeps_readExt
    | with_reducible apply keeps_readHost
    | with_reducible refine keeps_foldl ?_ _ _ ?_
    | with_reducible refine keeps_foldl_fst ?_ _ _ ?_
    | fail_if_no_progress with_reducible apply keeps_mk
    | (intro _)

theorem keeps_regStore {s0 : State} (a : Nat) (v : Word) (s : State) (hk : Keeps s0 s) : Keeps s0 (State.regStore s a v) := by
  unfold State.regStore
  repeat' first
    | with_reducible assumption
    | with_reducible apply keeps_ite
    | split
    | with_reducible apply keeps_wr

theorem keeps_setArray {s0 : State} (m : Nat) (v : ArraySt) (s : State) (hk : Keeps s0 s) : Keeps s0 (State.setArray s m v) := by
  unfold State.setArray
  repeat' first
    | with_reducible assumption
    | with_reducible apply keeps_ite
    | split
    | with_reducible refine keeps_foldl ?_ _ _ ?_
    | with_reducible refine keeps_foldl_fst ?_ _ _ ?_
    | fail_if_no_progress with_reducible apply keeps_mk

theorem keeps_setColl {s0 : State} (h : Nat) (w : Nat) (v : Word) (s : State) (hk : Keeps s0 s) : Keeps s0 (State.setColl s h w v) := by
  unfold State.setColl
  repeat' first
    | with_reducible assumption
    | with_reducible apply keeps_ite
    | split
    | with_reducible refine keeps_foldl ?_ _ _ ?_
    | with_reducible refine keeps_foldl_fst ?_ _ _ ?_
    | fail_if_no_progress with_reducible apply keeps_mk

theorem keeps_setContext {s0 : State} (x : Nat) (c : Ctx) (s : State) (hk : Keeps s0 s) : Keeps s0 (State.setContext s x c) := by
  unfold State.setContext
  repeat' first
    | with_reducible assumption
    | with_reducible apply keeps_ite
    | split
    | with_reducible refine keeps_foldl ?_ _ _ ?_
    | with_reducible refine keeps_foldl_fst ?_ _ _ ?_
    | fail_if_no_progress with_reducible apply keeps_mk

theorem keeps_setCore {s0 : State} (c : Nat) (v : CoreSt) (s : State) (hk : Keeps s0 s) : Keeps s0 (State.setCore s c v) := by
  unfold State.setCore
  repeat' first
    | with_reducible assumption
    | with_reducible apply keeps_ite
    | split
    | with_reducible refine keeps_foldl ?_ _ _ ?_
    | with_reducible refine keeps_foldl_fst ?_ _ _ ?_
    | fail_if_no_progress with_reducible apply keeps_mk

theorem keeps_setEdge {s0 : State} (level : Nat) (node : Nat) (q : List Flit) (s : State) (hk : Keeps s0 s) : Keeps s0 (State.setEdge s level node q) := by
  unfold State.setEdge
  repeat' first
    | with_reducible assumption
    | with_reducible apply keeps_ite
    | split
    | with_reducible refine keeps_foldl ?_ _ _ ?_
    | with_reducible refine keeps_foldl_fst ?_ _ _ ?_
    | fail_if_no_progress with_reducible apply keeps_mk

theorem keeps_setEngine {s0 : State} (m : Nat) (u : Nat) (e : Engine) (s : State) (hk : Keeps s0 s) : Keeps s0 (State.setEngine s m u e) := by
  unfold State.setEngine
  repeat' first
    | with_reducible assumption
    | with_reducible apply keeps_ite
    | split
    | with_reducible refine keeps_foldl ?_ _ _ ?_
    | with_reducible refine keeps_foldl_fst ?_ _ _ ?_
    | fail_if_no_progress with_reducible apply keeps_mk

theorem keeps_setEntry {s0 : State} (i : Nat) (v : PlaitSt) (s : State) (hk : Keeps s0 s) : Keeps s0 (State.setEntry s i v) := by
  unfold State.setEntry
  repeat' first
    | with_reducible assumption
    | with_reducible apply keeps_ite
    | split
    | with_reducible refine keeps_foldl ?_ _ _ ?_
    | with_reducible refine keeps_foldl_fst ?_ _ _ ?_
    | fail_if_no_progress with_reducible apply keeps_mk

theorem keeps_setJob {s0 : State} (j : Nat) (v : JobSt) (s : State) (hk : Keeps s0 s) : Keeps s0 (State.setJob s j v) := by
  unfold State.setJob
  repeat' first
    | with_reducible assumption
    | with_reducible apply keeps_ite
    | split
    | with_reducible refine keeps_foldl ?_ _ _ ?_
    | with_reducible refine keeps_foldl_fst ?_ _ _ ?_
    | fail_if_no_progress with_reducible apply keeps_mk

theorem keeps_setQueue {s0 : State} (m : Nat) (q : List Nat) (s : State) (hk : Keeps s0 s) : Keeps s0 (State.setQueue s m q) := by
  unfold State.setQueue
  repeat' first
    | with_reducible assumption
    | with_reducible apply keeps_ite
    | split
    | with_reducible refine keeps_foldl ?_ _ _ ?_
    | with_reducible refine keeps_foldl_fst ?_ _ _ ?_
    | fail_if_no_progress with_reducible apply keeps_mk

theorem keeps_setScale {s0 : State} (m : Nat) (i : Nat) (v : Word) (s : State) (hk : Keeps s0 s) : Keeps s0 (State.setScale s m i v) := by
  unfold State.setScale
  repeat' first
    | with_reducible assumption
    | with_reducible apply keeps_ite
    | split
    | with_reducible refine keeps_foldl ?_ _ _ ?_
    | with_reducible refine keeps_foldl_fst ?_ _ _ ?_
    | fail_if_no_progress with_reducible apply keeps_mk

theorem keeps_setXfers {s0 : State} (m : Nat) (q : List XCmd) (s : State) (hk : Keeps s0 s) : Keeps s0 (State.setXfers s m q) := by
  unfold State.setXfers
  repeat' first
    | with_reducible assumption
    | with_reducible apply keeps_ite
    | split
    | with_reducible refine keeps_foldl ?_ _ _ ?_
    | with_reducible refine keeps_foldl_fst ?_ _ _ ?_
    | fail_if_no_progress with_reducible apply keeps_mk

theorem keeps_storePair {s0 : State} (c : Nat) (addr : Nat) (a : Nat) (left : Option Errors) (bs : List Byte) (s : State) (hk : Keeps s0 s) : Keeps s0 (State.storePair s c addr a left bs) := by
  unfold State.storePair
  repeat' first
    | with_reducible assumption
    | with_reducible apply keeps_ite
    | split
    | with_reducible apply keeps_setBytes
    | with_reducible apply keeps_freshCheck
    | with_reducible refine keeps_foldl ?_ _ _ ?_
    | with_reducible refine keeps_foldl_fst ?_ _ _ ?_
    | fail_if_no_progress with_reducible apply keeps_mk

theorem keeps_wakeSpan {s0 : State} (ag : Agent) (write : Bool) (a : Nat) (n : Nat) (s : State) (hk : Keeps s0 s) : Keeps s0 (State.wakeSpan s ag write a n) := by
  unfold State.wakeSpan
  repeat' first
    | with_reducible assumption
    | split
    | with_reducible apply keeps_autoWake
    | with_reducible refine keeps_foldl ?_ _ _ ?_
    | with_reducible refine keeps_foldl_fst ?_ _ _ ?_
    | fail_if_no_progress with_reducible apply keeps_mk
    | (intro _)

theorem keeps_writeWord {s0 : State} (a : Nat) (bs : List Byte) (s : State) (hk : Keeps s0 s) : Keeps s0 (State.writeWord s a bs) := by
  unfold State.writeWord
  repeat' first
    | with_reducible assumption
    | with_reducible apply keeps_ite
    | split
    | with_reducible refine keeps_setBank _ _ (by simp) ?_
    | with_reducible apply keeps_setBytes
    | with_reducible apply keeps_setMark
    | with_reducible apply keeps_setBit

theorem keeps_writePort {s0 : State} (a : Nat) (l2 : List (Nat × Nat)) (l3 : List Byte) (s : State) (hk : Keeps s0 s) : Keeps s0 (State.writePort s a l2 l3) := by
  induction l2 generalizing s a l3 with
  | nil =>
    unfold State.writePort
    repeat' first
      | with_reducible assumption
  | cons e r ih =>
    unfold State.writePort
    repeat' first
      | with_reducible assumption
      | with_reducible apply ih
      | with_reducible apply keeps_ite
      | split
      | with_reducible apply keeps_writeWord

theorem keeps_writePart {s0 : State} (ag : Agent) (a : Nat) (bs : List Byte) (s : State) (hk : Keeps s0 s) : Keeps s0 (State.writePart s ag a bs) := by
  unfold State.writePart
  repeat' first
    | with_reducible assumption
    | with_reducible apply keeps_ite
    | split
    | with_reducible apply keeps_notOwned
    | with_reducible apply keeps_writePort
    | with_reducible apply keeps_asleep
    | with_reducible apply keeps_holdAccess

theorem keeps_writeParts {s0 : State} (ag : Agent) (l2 : List (Nat × Nat)) (l3 : List Byte) (s : State) (hk : Keeps s0 s) : Keeps s0 (State.writeParts s ag l2 l3) := by
  induction l2 generalizing s ag l3 with
  | nil =>
    unfold State.writeParts
    repeat' first
      | with_reducible assumption
  | cons e r ih =>
    unfold State.writeParts
    repeat' first
      | with_reducible assumption
      | with_reducible apply ih
      | with_reducible apply keeps_ite
      | split
      | with_reducible apply keeps_writePart

theorem keeps_writePair {s0 : State} (a : Nat) (bs : List Byte) (s : State) (hk : Keeps s0 s) : Keeps s0 (State.writePair s a bs) := by
  unfold State.writePair
  repeat' first
    | with_reducible assumption
    | with_reducible apply keeps_ite
    | split
    | with_reducible apply keeps_touchArea
    | with_reducible apply keeps_storePair
    | with_reducible apply keeps_pairCe
    | with_reducible apply keeps_setBit
    | with_reducible apply keeps_pairUe

theorem keeps_writePairs {s0 : State} (l1 : List (Nat × Nat)) (l2 : List Byte) (s : State) (hk : Keeps s0 s) : Keeps s0 (State.writePairs s l1 l2) := by
  induction l1 generalizing s l2 with
  | nil =>
    unfold State.writePairs
    repeat' first
      | with_reducible assumption
  | cons e r ih =>
    unfold State.writePairs
    repeat' first
      | with_reducible assumption
      | with_reducible apply ih
      | with_reducible apply keeps_ite
      | split
      | with_reducible apply keeps_writePair

theorem keeps_writeExt {s0 : State} (a : Nat) (bs : List Byte) (s : State) (hk : Keeps s0 s) : Keeps s0 (State.writeExt s a bs) := by
  unfold State.writeExt
  repeat' first
    | with_reducible assumption
    | with_reducible apply keeps_ite
    | split
    | with_reducible apply keeps_writePairs

theorem keeps_writeHost {s0 : State} (a : Nat) (bs : List Byte) (s : State) (hk : Keeps s0 s) : Keeps s0 (State.writeHost s a bs) := by
  unfold State.writeHost
  repeat' first
    | with_reducible assumption
    | with_reducible apply keeps_ite
    | split
    | with_reducible apply keeps_unmapped
    | with_reducible apply keeps_postWrites

theorem keeps_writeDev {s0 : State} (ag : Agent) (a : Nat) (bs : List Byte) (s : State) (hk : Keeps s0 s) : Keeps s0 (State.writeDev s ag a bs) := by
  unfold State.writeDev
  repeat' first
    | with_reducible assumption
    | with_reducible apply keeps_ite
    | split
    | with_reducible apply keeps_writeParts
    | with_reducible apply keeps_writeExt
    | with_reducible apply keeps_writeHost

end Sys2Proof.Machine
end

