-- ==== Sys2Proof/Laws/Keeps/Ports.lean ====
section
/-! SUPPORT. What the operations of Machine/Ports.lean keep. -/

namespace Sys2Proof.Machine

theorem keeps_showTags {s0 : State} (s : State) (hk : Keeps s0 s) : Keeps s0 (State.showTags s) := by
  unfold State.showTags
  repeat' first
    | with_reducible assumption
    | with_reducible apply keeps_ite
    | split
    | with_reducible apply keeps_setFld

theorem keeps_takeTag {s0 : State} (w : TagWait) (s : State) (hk : Keeps s0 s) : Keeps s0 (State.takeTag s w) := by
  unfold State.takeTag
  repeat' first
    | with_reducible assumption
    | with_reducible apply keeps_ite
    | split
    | with_reducible apply keeps_setFld
    | with_reducible apply keeps_showTags
    | with_reducible refine keeps_foldl ?_ _ _ ?_
    | with_reducible refine keeps_foldl_fst ?_ _ _ ?_
    | fail_if_no_progress with_reducible apply keeps_mk

theorem keeps_stallTag {s0 : State} (w : TagWait) (s : State) (hk : Keeps s0 s) : Keeps s0 (State.stallTag s w) := by
  unfold State.stallTag
  repeat' first
    | with_reducible assumption
    | with_reducible apply keeps_ite
    | split
    | with_reducible apply keeps_count
    | with_reducible refine keeps_foldl ?_ _ _ ?_
    | with_reducible refine keeps_foldl_fst ?_ _ _ ?_
    | fail_if_no_progress with_reducible apply keeps_mk

theorem keeps_askTag {s0 : State} (w : TagWait) (s : State) (hk : Keeps s0 s) : Keeps s0 (State.askTag s w) := by
  unfold State.askTag
  repeat' first
    | with_reducible assumption
    | with_reducible apply keeps_ite
    | split
    | with_reducible apply keeps_takeTag
    | with_reducible apply keeps_numbered
    | with_reducible apply keeps_stallTag

theorem keeps_askTags {s0 : State} (slot : Nat) (u : TagUser) (l : List (Nat × Nat × Nat)) (s : State) (hk : Keeps s0 s) : Keeps s0 (State.askTags s slot u l) := by
  unfold State.askTags
  repeat' first
    | with_reducible assumption
    | with_reducible apply keeps_ite
    | split
    | with_reducible apply keeps_askTag
    | with_reducible refine keeps_foldl ?_ _ _ ?_
    | with_reducible refine keeps_foldl_fst ?_ _ _ ?_
    | fail_if_no_progress with_reducible apply keeps_mk
    | (intro _)

theorem keeps_count64 {s0 : State} (lo : Nat) (hi : Nat) (k : Nat) (s : State) (hk : Keeps s0 s) : Keeps s0 (State.count64 s lo hi k) := by
  unfold State.count64
  repeat' first
    | with_reducible assumption
    | with_reducible apply keeps_ite
    | split
    | with_reducible apply keeps_wr

theorem keeps_freeTags {s0 : State} (hf : Nat) (u : TagUser) (n : Nat) (s : State) (hk : Keeps s0 s) : Keeps s0 (State.freeTags s hf u n) := by
  unfold State.freeTags
  repeat' first
    | with_reducible assumption
    | with_reducible apply keeps_ite
    | split
    | with_reducible apply keeps_showTags
    | with_reducible refine keeps_foldl ?_ _ _ ?_
    | with_reducible refine keeps_foldl_fst ?_ _ _ ?_
    | fail_if_no_progress with_reducible apply keeps_mk

theorem keeps_freeUsers {s0 : State} (f : TagUser → Bool) (s : State) (hk : Keeps s0 s) : Keeps s0 (State.freeUsers s f) := by
  unfold State.freeUsers
  repeat' first
    | with_reducible assumption
    | with_reducible apply keeps_ite
    | split
    | with_reducible apply keeps_showTags
    | with_reducible refine keeps_foldl ?_ _ _ ?_
    | with_reducible refine keeps_foldl_fst ?_ _ _ ?_
    | fail_if_no_progress with_reducible apply keeps_mk

theorem keeps_freeUser {s0 : State} (u : TagUser) (s : State) (hk : Keeps s0 s) : Keeps s0 (State.freeUser s u) := by
  unfold State.freeUser
  repeat' first
    | with_reducible assumption
    | with_reducible apply keeps_ite
    | split
    | with_reducible apply keeps_freeUsers

theorem keeps_setPort {s0 : State} (p : Nat) (v : PortSt) (s : State) (hk : Keeps s0 s) : Keeps s0 (State.setPort s p v) := by
  unfold State.setPort
  repeat' first
    | with_reducible assumption
    | with_reducible apply keeps_ite
    | split
    | with_reducible refine keeps_foldl ?_ _ _ ?_
    | with_reducible refine keeps_foldl_fst ?_ _ _ ?_
    | fail_if_no_progress with_reducible apply keeps_mk

theorem keeps_kick {s0 : State} (p : Nat) (s : State) (hk : Keeps s0 s) : Keeps s0 (State.kick s p) := by
  unfold State.kick
  repeat' first
    | with_reducible assumption
    | with_reducible apply keeps_ite
    | split
    | with_reducible apply keeps_setPort

theorem keeps_rspGone {s0 : State} (port : Nat) (f : TxFrame) (s : State) (hk : Keeps s0 s) : Keeps s0 (State.rspGone s port f) := by
  unfold State.rspGone
  repeat' first
    | with_reducible assumption
    | with_reducible apply keeps_ite
    | split
    | with_reducible apply keeps_freeTags

theorem keeps_queueFrame {s0 : State} (p : Nat) (f : TxFrame) (s : State) (hk : Keeps s0 s) : Keeps s0 (State.queueFrame s p f) := by
  unfold State.queueFrame
  repeat' first
    | with_reducible assumption
    | with_reducible apply keeps_ite
    | split
    | with_reducible apply keeps_rspGone
    | with_reducible apply keeps_kick
    | with_reducible apply keeps_setPort

theorem keeps_sendPfc {s0 : State} (p : Nat) (q : Nat) (time : Nat) (s : State) (hk : Keeps s0 s) : Keeps s0 (State.sendPfc s p q time) := by
  unfold State.sendPfc
  repeat' first
    | with_reducible assumption
    | with_reducible apply keeps_ite
    | split
    | with_reducible apply keeps_kick
    | with_reducible apply keeps_setPort

theorem keeps_transmit {s0 : State} (hf : Nat) (hash : Nat) (k : GftPacket) (s : State) (hk : Keeps s0 s) : Keeps s0 (State.transmit s hf hash k) := by
  unfold State.transmit
  repeat' first
    | with_reducible assumption
    | with_reducible apply keeps_ite
    | split
    | with_reducible apply keeps_queueFrame

end Sys2Proof.Machine
end

