-- ==== Sys2Proof/Laws/Keeps/Rings.lean ====
section
/-! SUPPORT. What the operations of Machine/Rings.lean keep. -/

namespace Sys2Proof.Machine

theorem keeps_addCredits {s0 : State} (r : Nat) (n : Nat) (s : State) (hk : Keeps s0 s) : Keeps s0 (State.addCredits s r n) := by
  unfold State.addCredits
  repeat' first
    | with_reducible assumption
    | with_reducible apply keeps_ite
    | split
    | with_reducible apply keeps_setFld

theorem keeps_setRing {s0 : State} (r : Nat) (v : RingSt) (s : State) (hk : Keeps s0 s) : Keeps s0 (State.setRing s r v) := by
  unfold State.setRing
  repeat' first
    | with_reducible assumption
    | with_reducible apply keeps_ite
    | split
    | with_reducible refine keeps_foldl ?_ _ _ ?_
    | with_reducible refine keeps_foldl_fst ?_ _ _ ?_
    | fail_if_no_progress with_reducible apply keeps_mk

theorem keeps_signal {s0 : State} (r : Nat) (s : State) (hk : Keeps s0 s) : Keeps s0 (State.signal s r) := by
  unfold State.signal
  repeat' first
    | with_reducible assumption
    | with_reducible apply keeps_ite
    | split
    | with_reducible apply keeps_emit
    | with_reducible apply keeps_setRing

theorem keeps_putRecord {s0 : State} (r : Nat) (c : RingRec) (s : State) (hk : Keeps s0 s) : Keeps s0 (State.putRecord s r c) := by
  unfold State.putRecord
  repeat' first
    | with_reducible assumption
    | with_reducible apply keeps_ite
    | split
    | with_reducible apply keeps_emit
    | with_reducible apply keeps_setFld
    | with_reducible apply keeps_setRing
    | with_reducible apply keeps_addCredits
    | with_reducible apply keeps_signal

theorem keeps_drainRing {s0 : State} (r : Nat) (l2 : Nat) (s : State) (hk : Keeps s0 s) : Keeps s0 (State.drainRing s r l2) := by
  induction l2 generalizing s r with
  | zero =>
    unfold State.drainRing
    repeat' first
      | with_reducible assumption
  | succ n ih =>
    unfold State.drainRing
    repeat' first
      | with_reducible assumption
      | with_reducible apply ih
      | with_reducible apply keeps_ite
      | split
      | with_reducible apply keeps_putRecord
      | with_reducible apply keeps_setRing

theorem keeps_setResult {s0 : State} (k : Nat) (v : ResultSt) (s : State) (hk : Keeps s0 s) : Keeps s0 (State.setResult s k v) := by
  unfold State.setResult
  repeat' first
    | with_reducible assumption
    | with_reducible apply keeps_ite
    | split
    | with_reducible refine keeps_foldl ?_ _ _ ?_
    | with_reducible refine keeps_foldl_fst ?_ _ _ ?_
    | fail_if_no_progress with_reducible apply keeps_mk

theorem keeps_writeRecord {s0 : State} (r : Nat) (c : RingRec) (s : State) (hk : Keeps s0 s) : Keeps s0 (State.writeRecord s r c) := by
  unfold State.writeRecord
  repeat' first
    | with_reducible assumption
    | with_reducible apply keeps_ite
    | split
    | with_reducible apply keeps_count
    | with_reducible apply keeps_addCredits
    | with_reducible apply keeps_setStatus
    | with_reducible apply keeps_setRing
    | with_reducible apply keeps_putRecord

theorem keeps_flushDone {s0 : State} (r : Nat) (l2 : Nat) (s : State) (hk : Keeps s0 s) : Keeps s0 (State.flushDone s r l2) := by
  induction l2 generalizing s r with
  | zero =>
    unfold State.flushDone
    repeat' first
      | with_reducible assumption
  | succ n ih =>
    unfold State.flushDone
    repeat' first
      | with_reducible assumption
      | with_reducible apply ih
      | with_reducible apply keeps_ite
      | split
      | with_reducible apply keeps_writeRecord
      | with_reducible refine keeps_foldl ?_ _ _ ?_
      | with_reducible refine keeps_foldl_fst ?_ _ _ ?_
      | fail_if_no_progress with_reducible apply keeps_mk

theorem keeps_endCapsule {s0 : State} (r : Nat) (seq : Nat) (status : Nat) (detail : Nat) (payload : List Byte) (s : State) (hk : Keeps s0 s) : Keeps s0 (State.endCapsule s r seq status detail payload) := by
  unfold State.endCapsule
  repeat' first
    | with_reducible assumption
    | with_reducible apply keeps_ite
    | split
    | with_reducible apply keeps_setResult
    | with_reducible apply keeps_flushDone
    | with_reducible refine keeps_foldl ?_ _ _ ?_
    | with_reducible refine keeps_foldl_fst ?_ _ _ ?_
    | fail_if_no_progress with_reducible apply keeps_mk
    | (intro _)
    | dsimp only

theorem keeps_endCapsulesOf {s0 : State} (slot : Nat) (status : Nat) (op : Nat → Bool) (s : State) (hk : Keeps s0 s) : Keeps s0 (State.endCapsulesOf s slot status op) := by
  unfold State.endCapsulesOf
  repeat' first
    | with_reducible assumption
    | with_reducible apply keeps_ite
    | split
    | with_reducible apply keeps_endCapsule
    | with_reducible refine keeps_foldl ?_ _ _ ?_
    | with_reducible refine keeps_foldl_fst ?_ _ _ ?_
    | fail_if_no_progress with_reducible apply keeps_mk
    | (intro _)

theorem keeps_flushAll {s0 : State} (s : State) (hk : Keeps s0 s) : Keeps s0 (State.flushAll s) := by
  unfold State.flushAll
  repeat' first
    | with_reducible assumption
    | with_reducible apply keeps_ite
    | split
    | with_reducible apply keeps_flushDone
    | with_reducible refine keeps_foldl ?_ _ _ ?_
    | with_reducible refine keeps_foldl_fst ?_ _ _ ?_
    | fail_if_no_progress with_reducible apply keeps_mk
    | (intro _)

theorem keeps_noticeRecord {s0 : State} (slot : Nat) (status : Nat) (s : State) (hk : Keeps s0 s) : Keeps s0 (State.noticeRecord s slot status) := by
  unfold State.noticeRecord
  repeat' first
    | with_reducible assumption
    | with_reducible apply keeps_ite
    | split
    | with_reducible apply keeps_writeRecord

theorem keeps_setFn {s0 : State} (f : Nat) (v : FnSt) (s : State) (hk : Keeps s0 s) : Keeps s0 (State.setFn s f v) := by
  unfold State.setFn
  repeat' first
    | with_reducible assumption
    | with_reducible apply keeps_ite
    | split
    | with_reducible refine keeps_foldl ?_ _ _ ?_
    | with_reducible refine keeps_foldl_fst ?_ _ _ ?_
    | fail_if_no_progress with_reducible apply keeps_mk

theorem keeps_stepRecord {s0 : State} (slot : Nat) (status : Nat) (detail : Nat) (s : State) (hk : Keeps s0 s) : Keeps s0 (State.stepRecord s slot status detail) := by
  unfold State.stepRecord
  repeat' first
    | with_reducible assumption
    | with_reducible apply keeps_ite
    | split
    | with_reducible apply keeps_writeRecord
    | with_reducible refine keeps_foldl ?_ _ _ ?_
    | with_reducible refine keeps_foldl_fst ?_ _ _ ?_
    | fail_if_no_progress with_reducible apply keeps_mk
    | (intro _)
    | dsimp only

theorem keeps_stepRecords {s0 : State} (slot : Nat) (status : Nat) (detail : Nat) (l4 : Nat) (s : State) (hk : Keeps s0 s) : Keeps s0 (State.stepRecords s slot status detail l4) := by
  induction l4 generalizing s slot status detail with
  | zero =>
    unfold State.stepRecords
    repeat' first
      | with_reducible assumption
  | succ n ih =>
    unfold State.stepRecords
    repeat' first
      | with_reducible assumption
      | with_reducible apply ih
      | with_reducible apply keeps_ite
      | split
      | with_reducible apply keeps_stepRecord

end Sys2Proof.Machine
end

