-- ==== Sys2Proof/Laws/Keeps/Cancel.lean ====
section
/-! SUPPORT. What the operations of Machine/Cancel.lean keep. -/

namespace Sys2Proof.Machine

theorem keeps_applyPending {s0 : State} (e : Nat × Word) (s : State) (hk : Keeps s0 s) : Keeps s0 (State.applyPending s e) := by
  unfold State.applyPending
  repeat' first
    | with_reducible assumption
    | with_reducible apply keeps_ite
    | split
    | with_reducible apply keeps_regStore
    | with_reducible refine keeps_foldl ?_ _ _ ?_
    | with_reducible refine keeps_foldl_fst ?_ _ _ ?_
    | fail_if_no_progress with_reducible apply keeps_mk

theorem keeps_applyPendings {s0 : State} (slot : Nat) (s : State) (hk : Keeps s0 s) : Keeps s0 (State.applyPendings s slot) := by
  unfold State.applyPendings
  repeat' first
    | with_reducible assumption
    | with_reducible apply keeps_ite
    | split
    | with_reducible apply keeps_applyPending
    | with_reducible refine keeps_foldl ?_ _ _ ?_
    | with_reducible refine keeps_foldl_fst ?_ _ _ ?_
    | fail_if_no_progress with_reducible apply keeps_mk
    | (intro _)

theorem keeps_limitAhead {s0 : State} (p : Nat) (n : Nat) (s : State) (hk : Keeps s0 s) : Keeps s0 (State.limitAhead s p n) := by
  unfold State.limitAhead
  repeat' first
    | with_reducible assumption
    | with_reducible apply keeps_ite
    | split
    | with_reducible apply keeps_setFld

theorem keeps_showStaged {s0 : State} (p : Nat) (s : State) (hk : Keeps s0 s) : Keeps s0 (State.showStaged s p) := by
  unfold State.showStaged
  repeat' first
    | with_reducible assumption
    | with_reducible apply keeps_ite
    | split
    | with_reducible apply keeps_setFld

theorem keeps_handOwner {s0 : State} (by_ : Writer) (b : Nat) (v : Word) (s : State) (hk : Keeps s0 s) : Keeps s0 (State.handOwner s by_ b v) := by
  unfold State.handOwner
  repeat' first
    | with_reducible assumption
    | with_reducible apply keeps_ite
    | split
    | with_reducible apply keeps_setFld
    | with_reducible apply keeps_numbered
    | with_reducible refine keeps_setBank _ _ (by simp) ?_
    | with_reducible apply keeps_setStatus

theorem keeps_dropStaged {s0 : State} (p : Nat) (f : Staged → Bool) (s : State) (hk : Keeps s0 s) : Keeps s0 (State.dropStaged s p f) := by
  unfold State.dropStaged
  repeat' first
    | with_reducible assumption
    | with_reducible apply keeps_ite
    | split
    | with_reducible apply keeps_showStaged
    | with_reducible apply keeps_count
    | with_reducible apply keeps_handOwner
    | with_reducible refine keeps_foldl ?_ _ _ ?_
    | with_reducible refine keeps_foldl_fst ?_ _ _ ?_
    | fail_if_no_progress with_reducible apply keeps_mk
    | (intro _)

theorem keeps_cancelReturns {s0 : State} (slot : Nat) (s : State) (hk : Keeps s0 s) : Keeps s0 (State.cancelReturns s slot) := by
  unfold State.cancelReturns
  repeat' first
    | with_reducible assumption
    | with_reducible apply keeps_ite
    | split
    | with_reducible apply keeps_handOwner
    | with_reducible refine keeps_foldl ?_ _ _ ?_
    | with_reducible refine keeps_foldl_fst ?_ _ _ ?_
    | fail_if_no_progress with_reducible apply keeps_mk
    | (intro _)

theorem keeps_cancelProspect {s0 : State} (slot : Nat) (s : State) (hk : Keeps s0 s) : Keeps s0 (State.cancelProspect s slot) := by
  unfold State.cancelProspect
  repeat' first
    | with_reducible assumption
    | with_reducible apply keeps_ite
    | split
    | with_reducible apply keeps_limitAhead
    | with_reducible apply keeps_dropStaged
    | with_reducible apply keeps_cancelReturns
    | with_reducible refine keeps_foldl ?_ _ _ ?_
    | with_reducible refine keeps_foldl_fst ?_ _ _ ?_
    | fail_if_no_progress with_reducible apply keeps_mk
    | (intro _)

theorem keeps_cancelSteps {s0 : State} (slot : Nat) (first : Nat) (s : State) (hk : Keeps s0 s) : Keeps s0 (State.cancelSteps s slot first) := by
  unfold State.cancelSteps
  repeat' first
    | with_reducible assumption
    | with_reducible apply keeps_ite
    | split
    | with_reducible apply keeps_limitAhead
    | with_reducible apply keeps_dropStaged
    | with_reducible refine keeps_foldl ?_ _ _ ?_
    | with_reducible refine keeps_foldl_fst ?_ _ _ ?_
    | fail_if_no_progress with_reducible apply keeps_mk
    | (intro _)

theorem keeps_endRequests {s0 : State} (slot : Nat) (s : State) (hk : Keeps s0 s) : Keeps s0 (State.endRequests s slot) := by
  unfold State.endRequests
  repeat' first
    | with_reducible assumption
    | with_reducible apply keeps_ite
    | split
    | with_reducible refine keeps_foldl ?_ _ _ ?_
    | with_reducible refine keeps_foldl_fst ?_ _ _ ?_
    | fail_if_no_progress with_reducible apply keeps_mk

theorem keeps_pinStep {s0 : State} (slot : Nat) (s : State) (hk : Keeps s0 s) : Keeps s0 (State.pinStep s slot) := by
  unfold State.pinStep
  repeat' first
    | with_reducible assumption
    | with_reducible apply keeps_ite
    | split
    | with_reducible apply keeps_setFld

theorem keeps_releaseSlot {s0 : State} (slot : Nat) (s : State) (hk : Keeps s0 s) : Keeps s0 (State.releaseSlot s slot) := by
  unfold State.releaseSlot
  repeat' first
    | with_reducible assumption
    | with_reducible apply keeps_ite
    | split
    | with_reducible apply keeps_applyPendings
    | with_reducible apply keeps_applyPending
    | with_reducible apply keeps_wr
    | with_reducible apply keeps_handOwner
    | with_reducible refine keeps_foldl ?_ _ _ ?_
    | with_reducible refine keeps_foldl_fst ?_ _ _ ?_
    | fail_if_no_progress with_reducible apply keeps_mk
    | (intro _)

theorem keeps_settleGens {s0 : State} (s : State) (hk : Keeps s0 s) : Keeps s0 (State.settleGens s) := by
  unfold State.settleGens
  repeat' first
    | with_reducible assumption
    | with_reducible apply keeps_ite
    | split
    | with_reducible apply keeps_setFld
    | with_reducible refine keeps_foldl ?_ _ _ ?_
    | with_reducible refine keeps_foldl_fst ?_ _ _ ?_
    | fail_if_no_progress with_reducible apply keeps_mk

theorem keeps_unpinStep {s0 : State} (slot : Nat) (s : State) (hk : Keeps s0 s) : Keeps s0 (State.unpinStep s slot) := by
  unfold State.unpinStep
  repeat' first
    | with_reducible assumption
    | with_reducible apply keeps_ite
    | split
    | with_reducible apply keeps_settleGens
    | with_reducible apply keeps_setFld

end Sys2Proof.Machine
end

