-- ==== Sys2Proof/Laws/Keeps/Keys.lean ====
section
/-! SUPPORT. What the operations of Machine/Keys.lean keep. -/

namespace Sys2Proof.Machine

theorem keeps_deriveJob {s0 : State} (slot : Nat) (s : State) (hk : Keeps s0 s) : Keeps s0 (State.deriveJob s slot) := by
  unfold State.deriveJob
  repeat' first
    | with_reducible assumption
    | with_reducible apply keeps_ite
    | split
    | with_reducible refine keeps_foldl ?_ _ _ ?_
    | with_reducible refine keeps_foldl_fst ?_ _ _ ?_
    | fail_if_no_progress with_reducible apply keeps_mk

theorem keeps_deriveSr {s0 : State} (s : State) (hk : Keeps s0 s) : Keeps s0 (State.deriveSr s) := by
  unfold State.deriveSr
  repeat' first
    | with_reducible assumption
    | with_reducible apply keeps_ite
    | split
    | with_reducible refine keeps_foldl ?_ _ _ ?_
    | with_reducible refine keeps_foldl_fst ?_ _ _ ?_
    | fail_if_no_progress with_reducible apply keeps_mk

theorem keeps_setRegBytes {s0 : State} (f : Nat → Nat) (n : Nat) (l : List Byte) (s : State) (hk : Keeps s0 s) : Keeps s0 (State.setRegBytes s f n l) := by
  unfold State.setRegBytes
  repeat' first
    | with_reducible assumption
    | with_reducible apply keeps_ite
    | split
    | with_reducible apply keeps_wr
    | with_reducible refine keeps_foldl ?_ _ _ ?_
    | with_reducible refine keeps_foldl_fst ?_ _ _ ?_
    | fail_if_no_progress with_reducible apply keeps_mk
    | (intro _)

theorem keeps_extendMeas {s0 : State} (n : Nat) (v : List Byte) (s : State) (hk : Keeps s0 s) : Keeps s0 (State.extendMeas s n v) := by
  unfold State.extendMeas
  repeat' first
    | with_reducible assumption
    | with_reducible apply keeps_ite
    | split
    | with_reducible apply keeps_setRegBytes

theorem keeps_newNonce {s0 : State} (s : State) (hk : Keeps s0 s) : Keeps s0 (State.newNonce s) := by
  unfold State.newNonce
  repeat' first
    | with_reducible assumption
    | with_reducible apply keeps_ite
    | split
    | with_reducible apply keeps_drawBytes
    | with_reducible apply keeps_setRegBytes

theorem keeps_zeroise {s0 : State} (s : State) (hk : Keeps s0 s) : Keeps s0 (State.zeroise s) := by
  unfold State.zeroise
  repeat' first
    | with_reducible assumption
    | with_reducible apply keeps_ite
    | split
    | with_reducible refine keeps_foldl ?_ _ _ ?_
    | with_reducible refine keeps_foldl_fst ?_ _ _ ?_
    | fail_if_no_progress with_reducible apply keeps_mk

end Sys2Proof.Machine
end

