-- ==== Sys2Proof/Laws/Keeps/Component.lean ====
section
/-! SUPPORT. What the operations of Machine/Component.lean keep. -/

namespace Sys2Proof.Machine

theorem keeps_byWriter {s0 : State} (w : Writer) (a : Nat) (v : Word) (f : Writer → State) (s : State) (hk : Keeps s0 s)
    (hf : ∀ w, Keeps s0 (f w)) : Keeps s0 (s.byWriter w a v f) := by
  unfold State.byWriter
  split
  · split
    · exact hk
    split
    · exact hf _
    · exact keeps_mk _ _ _ _ _ _ _ _ _ _ _ _ _ _ _ _ _ _ _ _ _ _ _ _ _ _ _ _ _ _ _ _ _ _ _ _ _ _ _ _ _ _ _ _ _ _ _ _ _ _ _ _ _ _ _ _ _ _ _ _ _ _ _ _ _ _ _ _ _ _ _ _ _ _ _ _ _ _ _ _ hk
  · exact hf _

end Sys2Proof.Machine
end

