-- ==== Sys2Proof/Laws/Keeps/Jobs.lean ====
section
/-! SUPPORT. What the operations of Machine/Jobs.lean keep. -/

namespace Sys2Proof.Machine

theorem keeps_dropCommands {s0 : State} (slot : Nat) (s : State) (hk : Keeps s0 s) : Keeps s0 (State.dropCommands s slot) := by
  unfold State.dropCommands
  repeat' first
    | with_reducible assumption
    | with_reducible apply keeps_ite
    | split
    | with_reducible refine keeps_foldl ?_ _ _ ?_
    | with_reducible refine keeps_foldl_fst ?_ _ _ ?_
    | fail_if_no_progress with_reducible apply keeps_mk

theorem keeps_dropWaiter {s0 : State} (k : Nat) (s : State) (hk : Keeps s0 s) : Keeps s0 (State.dropWaiter s k) := by
  unfold State.dropWaiter
  repeat' first
    | with_reducible assumption
    | with_reducible apply keeps_ite
    | split
    | with_reducible refine keeps_foldl ?_ _ _ ?_
    | with_reducible refine keeps_foldl_fst ?_ _ _ ?_
    | fail_if_no_progress with_reducible apply keeps_mk

theorem keeps_clearStats {s0 : State} (m : Nat) (first : Nat) (l3 : Nat) (s : State) (hk : Keeps s0 s) : Keeps s0 (State.clearStats s m first l3) := by
  induction l3 generalizing s m first with
  | zero =>
    unfold State.clearStats
    repeat' first
      | with_reducible assumption
  | succ n ih =>
    unfold State.clearStats
    repeat' first
      | with_reducible assumption
      | with_reducible apply ih
      | with_reducible apply keeps_ite
      | split
      | with_reducible apply keeps_wr

theorem keeps_endClaim {s0 : State} (m : Nat) (u : Nat) (s : State) (hk : Keeps s0 s) : Keeps s0 (State.endClaim s m u) := by
  unfold State.endClaim
  repeat' first
    | with_reducible assumption
    | with_reducible apply keeps_ite
    | split
    | with_reducible apply keeps_clearStats
    | with_reducible apply keeps_setEngine

theorem keeps_writeExc {s0 : State} (code : Code) (x : Nat) (slot : Nat) (deferred : Bool) (pc : Nat) (w0 : Nat) (w1 : Nat) (addr : Nat) (detail : Nat) (s : State) (hk : Keeps s0 s) : Keeps s0 (State.writeExc s code x slot deferred pc w0 w1 addr detail) := by
  unfold State.writeExc
  repeat' first
    | with_reducible assumption
    | with_reducible apply keeps_ite
    | split
    | with_reducible apply keeps_wr
    | with_reducible apply keeps_count
    | with_reducible apply keeps_setJob
    | with_reducible refine keeps_foldl ?_ _ _ ?_
    | with_reducible refine keeps_foldl_fst ?_ _ _ ?_
    | fail_if_no_progress with_reducible apply keeps_mk
    | (intro _)

theorem keeps_discardData {s0 : State} (how : ClaimEnd) (k : Nat) (m : Nat) (set : Nat) (s : State) (hk : Keeps s0 s) : Keeps s0 (State.discardData s how k m set) := by
  unfold State.discardData
  repeat' first
    | with_reducible assumption
    | with_reducible apply keeps_ite
    | split
    | with_reducible apply keeps_raise
    | with_reducible apply keeps_writeExc

theorem keeps_endClaims {s0 : State} (how : ClaimEnd) (m : Nat) (k : Nat) (s : State) (hk : Keeps s0 s) : Keeps s0 (State.endClaims s how m k) := by
  unfold State.endClaims
  repeat' first
    | with_reducible assumption
    | with_reducible apply keeps_ite
    | split
    | with_reducible apply keeps_setEngine
    | with_reducible apply keeps_endClaim
    | with_reducible apply keeps_discardData
    | with_reducible refine keeps_foldl ?_ _ _ ?_
    | with_reducible refine keeps_foldl_fst ?_ _ _ ?_
    | fail_if_no_progress with_reducible apply keeps_mk
    | (intro _)

theorem keeps_endAllClaims {s0 : State} (how : ClaimEnd) (k : Nat) (s : State) (hk : Keeps s0 s) : Keeps s0 (State.endAllClaims s how k) := by
  unfold State.endAllClaims
  repeat' first
    | with_reducible assumption
    | with_reducible apply keeps_ite
    | split
    | with_reducible apply keeps_endClaims
    | with_reducible refine keeps_foldl ?_ _ _ ?_
    | with_reducible refine keeps_foldl_fst ?_ _ _ ?_
    | fail_if_no_progress with_reducible apply keeps_mk
    | (intro _)

theorem keeps_freeContext {s0 : State} (x : Nat) (s : State) (hk : Keeps s0 s) : Keeps s0 (State.freeContext s x) := by
  unfold State.freeContext
  repeat' first
    | with_reducible assumption
    | with_reducible apply keeps_ite
    | split
    | with_reducible apply keeps_setContext

theorem keeps_keepCtx {s0 : State} (k : Nat) (x : Nat) (s : State) (hk : Keeps s0 s) : Keeps s0 (State.keepCtx s k x) := by
  unfold State.keepCtx
  repeat' first
    | with_reducible assumption
    | with_reducible apply keeps_ite
    | split
    | with_reducible refine keeps_foldl ?_ _ _ ?_
    | with_reducible refine keeps_foldl_fst ?_ _ _ ?_
    | fail_if_no_progress with_reducible apply keeps_mk

theorem keeps_removeTask {s0 : State} (how : ClaimEnd) (k : Nat) (s : State) (hk : Keeps s0 s) : Keeps s0 (State.removeTask s how k) := by
  unfold State.removeTask
  repeat' first
    | with_reducible assumption
    | with_reducible apply keeps_ite
    | split
    | with_reducible apply keeps_dropWaiter
    | with_reducible apply keeps_endAllClaims
    | with_reducible apply keeps_freeContext
    | with_reducible apply keeps_keepCtx
    | with_reducible apply keeps_setJob
    | with_reducible apply keeps_freeUsers
    | with_reducible refine keeps_foldl ?_ _ _ ?_
    | with_reducible refine keeps_foldl_fst ?_ _ _ ?_
    | fail_if_no_progress with_reducible apply keeps_mk

theorem keeps_removeTasks {s0 : State} (how : ClaimEnd) (slot : Nat) (s : State) (hk : Keeps s0 s) : Keeps s0 (State.removeTasks s how slot) := by
  unfold State.removeTasks
  repeat' first
    | with_reducible assumption
    | with_reducible apply keeps_ite
    | split
    | with_reducible apply keeps_removeTask
    | with_reducible refine keeps_foldl ?_ _ _ ?_
    | with_reducible refine keeps_foldl_fst ?_ _ _ ?_
    | fail_if_no_progress with_reducible apply keeps_mk
    | (intro _)

theorem keeps_zeroTokens {s0 : State} (slot : Nat) (s : State) (hk : Keeps s0 s) : Keeps s0 (State.zeroTokens s slot) := by
  unfold State.zeroTokens
  repeat' first
    | with_reducible assumption
    | with_reducible apply keeps_ite
    | split
    | with_reducible refine keeps_foldl ?_ _ _ ?_
    | with_reducible refine keeps_foldl_fst ?_ _ _ ?_
    | fail_if_no_progress with_reducible apply keeps_mk

theorem keeps_setEntryState {s0 : State} (i : Nat) (v : Nat) (s : State) (hk : Keeps s0 s) : Keeps s0 (State.setEntryState s i v) := by
  unfold State.setEntryState
  repeat' first
    | with_reducible assumption
    | with_reducible apply keeps_ite
    | split
    | with_reducible apply keeps_setFld
    | with_reducible apply keeps_setEntry
    | with_reducible refine keeps_foldl ?_ _ _ ?_
    | with_reducible refine keeps_foldl_fst ?_ _ _ ?_
    | fail_if_no_progress with_reducible apply keeps_mk

theorem keeps_moveEntries {s0 : State} (slot : Nat) (from_ : List Nat) (goal : Nat) (s : State) (hk : Keeps s0 s) : Keeps s0 (State.moveEntries s slot from_ goal) := by
  unfold State.moveEntries
  repeat' first
    | with_reducible assumption
    | with_reducible apply keeps_ite
    | split
    | with_reducible apply keeps_setEntryState
    | with_reducible refine keeps_foldl ?_ _ _ ?_
    | with_reducible refine keeps_foldl_fst ?_ _ _ ?_
    | fail_if_no_progress with_reducible apply keeps_mk
    | (intro _)

theorem keeps_setSlot {s0 : State} (j : Nat) (p : SlotPhase) (s : State) (hk : Keeps s0 s) : Keeps s0 (State.setSlot s j p) := by
  unfold State.setSlot
  repeat' first
    | with_reducible assumption
    | with_reducible apply keeps_ite
    | split
    | with_reducible apply keeps_setFld

theorem keeps_stopRecords {s0 : State} (slot : Nat) (status : Nat) (s : State) (hk : Keeps s0 s) : Keeps s0 (State.stopRecords s slot status) := by
  unfold State.stopRecords
  repeat' first
    | with_reducible assumption
    | with_reducible apply keeps_ite
    | split
    | with_reducible apply keeps_stepRecords
    | with_reducible apply keeps_endCapsulesOf

theorem keeps_stopWith {s0 : State} (slot : Nat) (status : Nat) (s : State) (hk : Keeps s0 s) : Keeps s0 (State.stopWith s slot status) := by
  unfold State.stopWith
  repeat' first
    | with_reducible assumption
    | with_reducible apply keeps_ite
    | split
    | with_reducible apply keeps_dropCommands
    | with_reducible apply keeps_removeTasks
    | with_reducible apply keeps_zeroTokens
    | with_reducible apply keeps_moveEntries
    | with_reducible apply keeps_setSlot
    | with_reducible apply keeps_releaseSlot
    | with_reducible apply keeps_endRequests
    | with_reducible apply keeps_cancelProspect
    | with_reducible apply keeps_stopRecords
    | with_reducible apply keeps_unpinStep
    | with_reducible apply keeps_setFld
    | with_reducible apply keeps_setJob

theorem keeps_reloadStop {s0 : State} (slot : Nat) (s : State) (hk : Keeps s0 s) : Keeps s0 (State.reloadStop s slot) := by
  unfold State.reloadStop
  repeat' first
    | with_reducible assumption
    | with_reducible apply keeps_ite
    | split
    | with_reducible apply keeps_stopWith

theorem keeps_stopSlot {s0 : State} (slot : Nat) (s : State) (hk : Keeps s0 s) : Keeps s0 (State.stopSlot s slot) := by
  unfold State.stopSlot
  repeat' first
    | with_reducible assumption
    | with_reducible apply keeps_ite
    | split
    | with_reducible apply keeps_stopWith

theorem keeps_endQuiet {s0 : State} (s : State) (hk : Keeps s0 s) : Keeps s0 (State.endQuiet s) := by
  unfold State.endQuiet
  repeat' first
    | with_reducible assumption
    | with_reducible apply keeps_ite
    | split
    | with_reducible apply keeps_endClaim
    | with_reducible refine keeps_foldl ?_ _ _ ?_
    | with_reducible refine keeps_foldl_fst ?_ _ _ ?_
    | fail_if_no_progress with_reducible apply keeps_mk
    | (intro _)

theorem keeps_dropGradients {s0 : State} (slot : Nat) (s : State) (hk : Keeps s0 s) : Keeps s0 (State.dropGradients s slot) := by
  unfold State.dropGradients
  repeat' first
    | with_reducible assumption
    | with_reducible apply keeps_ite
    | split
    | with_reducible apply keeps_wr
    | with_reducible refine keeps_foldl ?_ _ _ ?_
    | with_reducible refine keeps_foldl_fst ?_ _ _ ?_
    | fail_if_no_progress with_reducible apply keeps_mk

theorem keeps_addLive {s0 : State} (slot : Nat) (s : State) (hk : Keeps s0 s) : Keeps s0 (State.addLive s slot) := by
  unfold State.addLive
  repeat' first
    | with_reducible assumption
    | with_reducible apply keeps_ite
    | split
    | with_reducible apply keeps_setFld

theorem keeps_newTask {s0 : State} (slot : Nat) (parent : Nat) (rec : List Word) (doneMotif : Nat) (s : State) (hk : Keeps s0 s) : Keeps s0 (State.newTask s slot parent rec doneMotif).1 := by
  unfold State.newTask
  repeat' first
    | with_reducible assumption
    | with_reducible apply keeps_ite
    | split
    | with_reducible apply keeps_addLive
    | with_reducible apply keeps_setTask
    | with_reducible apply keeps_setJob
    | with_reducible refine keeps_foldl ?_ _ _ ?_
    | with_reducible refine keeps_foldl_fst ?_ _ _ ?_
    | fail_if_no_progress with_reducible apply keeps_mk

theorem keeps_enqueue {s0 : State} (m : Nat) (k : Nat) (s : State) (hk : Keeps s0 s) : Keeps s0 (State.enqueue s m k) := by
  unfold State.enqueue
  repeat' first
    | with_reducible assumption
    | with_reducible apply keeps_ite
    | split
    | with_reducible apply keeps_setJob
    | with_reducible apply keeps_setQueue
    | with_reducible refine keeps_foldl ?_ _ _ ?_
    | with_reducible refine keeps_foldl_fst ?_ _ _ ?_
    | fail_if_no_progress with_reducible apply keeps_mk
    | (intro _)
    | dsimp only

theorem keeps_queueRecord {s0 : State} (slot : Nat) (rec : List Word) (s : State) (hk : Keeps s0 s) : Keeps s0 (State.queueRecord s slot rec).1 := by
  unfold State.queueRecord
  repeat' first
    | with_reducible assumption
    | with_reducible apply keeps_ite
    | split
    | with_reducible apply keeps_newTask
    | with_reducible apply keeps_enqueue

theorem keeps_startStep {s0 : State} (slot : Nat) (s : State) (hk : Keeps s0 s) : Keeps s0 (State.startStep s slot) := by
  unfold State.startStep
  repeat' first
    | with_reducible assumption
    | with_reducible apply keeps_ite
    | split
    | with_reducible apply keeps_setJob
    | with_reducible apply keeps_setFld
    | with_reducible apply keeps_queueRecord
    | with_reducible apply keeps_pinStep

theorem keeps_finishAbort {s0 : State} (slot : Nat) (s : State) (hk : Keeps s0 s) : Keeps s0 (State.finishAbort s slot) := by
  unfold State.finishAbort
  repeat' first
    | with_reducible assumption
    | with_reducible apply keeps_ite
    | split
    | with_reducible apply keeps_dropGradients
    | with_reducible apply keeps_cancelReturns
    | with_reducible apply keeps_zeroTokens
    | with_reducible apply keeps_moveEntries
    | with_reducible apply keeps_startStep
    | with_reducible apply keeps_setJob
    | with_reducible refine keeps_foldl ?_ _ _ ?_
    | with_reducible refine keeps_foldl_fst ?_ _ _ ?_
    | fail_if_no_progress with_reducible apply keeps_mk

theorem keeps_settleAborts {s0 : State} (s : State) (hk : Keeps s0 s) : Keeps s0 (State.settleAborts s) := by
  unfold State.settleAborts
  repeat' first
    | with_reducible assumption
    | with_reducible apply keeps_ite
    | split
    | with_reducible apply keeps_endQuiet
    | with_reducible apply keeps_finishAbort
    | with_reducible refine keeps_foldl ?_ _ _ ?_
    | with_reducible refine keeps_foldl_fst ?_ _ _ ?_
    | fail_if_no_progress with_reducible apply keeps_mk
    | (intro _)

theorem keeps_abortStep {s0 : State} (slot : Nat) (s : State) (hk : Keeps s0 s) : Keeps s0 (State.abortStep s slot) := by
  unfold State.abortStep
  repeat' first
    | with_reducible assumption
    | with_reducible apply keeps_ite
    | split
    | with_reducible apply keeps_reloadStop
    | with_reducible apply keeps_raise
    | with_reducible apply keeps_stopSlot
    | with_reducible apply keeps_removeTasks
    | with_reducible apply keeps_setFld
    | with_reducible apply keeps_setSlot
    | with_reducible apply keeps_setJob
    | with_reducible apply keeps_settleAborts
    | with_reducible refine keeps_foldl ?_ _ _ ?_
    | with_reducible refine keeps_foldl_fst ?_ _ _ ?_
    | fail_if_no_progress with_reducible apply keeps_mk

theorem keeps_bumpDone {s0 : State} (t : Task) (err : Bool) (s : State) (hk : Keeps s0 s) : Keeps s0 (State.bumpDone s t err) := by
  unfold State.bumpDone
  repeat' first
    | with_reducible assumption
    | with_reducible apply keeps_ite
    | split
    | with_reducible apply keeps_bumpToken

theorem keeps_dropLive {s0 : State} (slot : Nat) (s : State) (hk : Keeps s0 s) : Keeps s0 (State.dropLive s slot) := by
  unfold State.dropLive
  repeat' first
    | with_reducible assumption
    | with_reducible apply keeps_ite
    | split
    | with_reducible apply keeps_setFld

theorem keeps_forgetRequest {s0 : State} (e : Nat) (s : State) (hk : Keeps s0 s) : Keeps s0 (State.forgetRequest s e) := by
  unfold State.forgetRequest
  repeat' first
    | with_reducible assumption
    | with_reducible apply keeps_ite
    | split
    | with_reducible refine keeps_foldl ?_ _ _ ?_
    | with_reducible refine keeps_foldl_fst ?_ _ _ ?_
    | fail_if_no_progress with_reducible apply keeps_mk

theorem keeps_dropRequest {s0 : State} (e : Nat) (s : State) (hk : Keeps s0 s) : Keeps s0 (State.dropRequest s e) := by
  unfold State.dropRequest
  repeat' first
    | with_reducible assumption
    | with_reducible apply keeps_ite
    | split
    | with_reducible apply keeps_dropLive
    | with_reducible apply keeps_removeTask
    | with_reducible apply keeps_forgetRequest
    | with_reducible refine keeps_foldl ?_ _ _ ?_
    | with_reducible refine keeps_foldl_fst ?_ _ _ ?_
    | fail_if_no_progress with_reducible apply keeps_mk
    | (intro _)

theorem keeps_foldFlags {s0 : State} (k : Nat) (s : State) (hk : Keeps s0 s) : Keeps s0 (State.foldFlags s k) := by
  unfold State.foldFlags
  repeat' first
    | with_reducible assumption
    | with_reducible apply keeps_ite
    | split
    | with_reducible apply keeps_sumFlags

theorem keeps_liveZero {s0 : State} (slot : Nat) (s : State) (hk : Keeps s0 s) : Keeps s0 (State.liveZero s slot) := by
  unfold State.liveZero
  repeat' first
    | with_reducible assumption
    | with_reducible apply keeps_ite
    | split
    | with_reducible apply keeps_setJob
    | with_reducible apply keeps_setSlot

theorem keeps_endTask {s0 : State} (k : Nat) (stepEnd : Bool) (s : State) (hk : Keeps s0 s) : Keeps s0 (State.endTask s k stepEnd) := by
  unfold State.endTask
  repeat' first
    | with_reducible assumption
    | with_reducible apply keeps_ite
    | split
    | with_reducible apply keeps_endAllClaims
    | with_reducible apply keeps_bumpDone
    | with_reducible apply keeps_foldFlags
    | with_reducible apply keeps_removeTask
    | with_reducible apply keeps_setFld
    | with_reducible apply keeps_landStage
    | with_reducible apply keeps_liveZero
    | with_reducible apply keeps_dropLive

theorem keeps_failRequest {s0 : State} (e : Nat) (s : State) (hk : Keeps s0 s) : Keeps s0 (State.failRequest s e) := by
  unfold State.failRequest
  repeat' first
    | with_reducible assumption
    | with_reducible apply keeps_ite
    | split
    | with_reducible apply keeps_dropRequest
    | with_reducible refine keeps_foldl ?_ _ _ ?_
    | with_reducible refine keeps_foldl_fst ?_ _ _ ?_
    | fail_if_no_progress with_reducible apply keeps_mk

theorem keeps_failRequests {s0 : State} (slot : Nat) (s : State) (hk : Keeps s0 s) : Keeps s0 (State.failRequests s slot) := by
  unfold State.failRequests
  repeat' first
    | with_reducible assumption
    | with_reducible apply keeps_ite
    | split
    | with_reducible apply keeps_failRequest
    | with_reducible refine keeps_foldl ?_ _ _ ?_
    | with_reducible refine keeps_foldl_fst ?_ _ _ ?_
    | fail_if_no_progress with_reducible apply keeps_mk
    | (intro _)

theorem keeps_feedQueues {s0 : State} (s : State) (hk : Keeps s0 s) : Keeps s0 (State.feedQueues s) := by
  unfold State.feedQueues
  repeat' first
    | with_reducible assumption
    | with_reducible apply keeps_ite
    | split
    | with_reducible apply keeps_enqueue
    | with_reducible apply keeps_setJob
    | with_reducible refine keeps_foldl ?_ _ _ ?_
    | with_reducible refine keeps_foldl_fst ?_ _ _ ?_
    | fail_if_no_progress with_reducible apply keeps_mk
    | (intro _)

theorem keeps_taskFault {s0 : State} (k : Nat) (code : Code) (m : Nat) (s : State) (hk : Keeps s0 s) : Keeps s0 (State.taskFault s k code m) := by
  unfold State.taskFault
  repeat' first
    | with_reducible assumption
    | with_reducible apply keeps_ite
    | split
    | with_reducible apply keeps_raise
    | with_reducible apply keeps_landStage
    | with_reducible apply keeps_dropLive
    | with_reducible apply keeps_removeTask
    | with_reducible apply keeps_bumpDone
    | with_reducible apply keeps_foldFlags
    | with_reducible apply keeps_liveZero
    | with_reducible apply keeps_setJob
    | with_reducible apply keeps_failRequest
    | with_reducible apply keeps_abortStep
    | with_reducible apply keeps_reloadStop
    | with_reducible apply keeps_stopSlot
    | with_reducible refine keeps_foldl ?_ _ _ ?_
    | with_reducible refine keeps_foldl_fst ?_ _ _ ?_
    | fail_if_no_progress with_reducible apply keeps_mk

theorem keeps_issueFault {s0 : State} (x : Nat) (k : Nat) (code : Code) (w0 : Nat) (w1 : Nat) (addr : Nat) (detail : Nat) (s : State) (hk : Keeps s0 s) : Keeps s0 (State.issueFault s x k code w0 w1 addr detail) := by
  unfold State.issueFault
  repeat' first
    | with_reducible assumption
    | with_reducible apply keeps_ite
    | split
    | with_reducible apply keeps_writeExc
    | with_reducible apply keeps_setContext
    | with_reducible apply keeps_taskFault

theorem keeps_nextStep {s0 : State} (slot : Nat) (s : State) (hk : Keeps s0 s) : Keeps s0 (State.nextStep s slot) := by
  unfold State.nextStep
  repeat' first
    | with_reducible assumption
    | with_reducible apply keeps_ite
    | split
    | with_reducible apply keeps_startStep
    | with_reducible apply keeps_setJob

theorem keeps_releaseStep {s0 : State} (slot : Nat) (s : State) (hk : Keeps s0 s) : Keeps s0 (State.releaseStep s slot) := by
  unfold State.releaseStep
  repeat' first
    | with_reducible assumption
    | with_reducible apply keeps_ite
    | split
    | with_reducible apply keeps_startStep

theorem keeps_setEpochSt {s0 : State} (slot : Nat) (v : EpochSt) (s : State) (hk : Keeps s0 s) : Keeps s0 (State.setEpochSt s slot v) := by
  unfold State.setEpochSt
  repeat' first
    | with_reducible assumption
    | with_reducible apply keeps_ite
    | split
    | with_reducible refine keeps_foldl ?_ _ _ ?_
    | with_reducible refine keeps_foldl_fst ?_ _ _ ?_
    | fail_if_no_progress with_reducible apply keeps_mk

end Sys2Proof.Machine
end

