-- ==== Sys2Proof/Laws/Keeps/Issue.lean ====
section
/-! SUPPORT. What the operations of Machine/Issue.lean keep. -/

namespace Sys2Proof.Machine

theorem keeps_setCorePhase {s0 : State} (m : Nat) (c : Nat) (p : CtxPhase) (s : State) (hk : Keeps s0 s) : Keeps s0 (State.setCorePhase s m c p) := by
  unfold State.setCorePhase
  repeat' first
    | with_reducible assumption
    | with_reducible apply keeps_ite
    | split
    | with_reducible apply keeps_setContext
    | with_reducible refine keeps_foldl ?_ _ _ ?_
    | with_reducible refine keeps_foldl_fst ?_ _ _ ?_
    | fail_if_no_progress with_reducible apply keeps_mk
    | (intro _)

theorem keeps_fenceCore {s0 : State} (m : Nat) (c : Nat) (cause : Nat) (s : State) (hk : Keeps s0 s) : Keeps s0 (State.fenceCore s m c cause) := by
  unfold State.fenceCore
  repeat' first
    | with_reducible assumption
    | split
    | with_reducible apply keeps_oneCycle
    | with_reducible apply keeps_setBit
    | with_reducible apply keeps_noteMaps
    | with_reducible apply keeps_raise
    | with_reducible apply keeps_setCorePhase
    | with_reducible apply keeps_taskFault
    | with_reducible refine keeps_foldl ?_ _ _ ?_
    | with_reducible refine keeps_foldl_fst ?_ _ _ ?_
    | fail_if_no_progress with_reducible apply keeps_mk
    | (intro _)
    | dsimp only

theorem keeps_fillBuffer {s0 : State} (c : Nat) (slot : Nat) (lines : List Nat) (s : State) (hk : Keeps s0 s) : Keeps s0 (State.fillBuffer s c slot lines) := by
  unfold State.fillBuffer
  repeat' first
    | with_reducible assumption
    | with_reducible apply keeps_ite
    | split
    | with_reducible apply keeps_setCore

theorem keeps_fetch {s0 : State} (x : Nat) (slot : Nat) (pc : Nat) (bytes : Nat) (s : State) (hk : Keeps s0 s) : KeepsFetched s0 (State.fetch s x slot pc bytes) := by
  unfold State.fetch
  repeat' first
    | with_reducible assumption
    | with_reducible apply keeps_ite
    | split
    | with_reducible apply keeps_autoWake
    | with_reducible apply keeps_asleep
    | with_reducible apply keeps_readPort
    | with_reducible apply keeps_fillBuffer
    | with_reducible apply keepsFetched_ok
    | with_reducible apply keepsFetched_refused
    | with_reducible apply keepsFetched_waits
    | with_reducible refine keeps_foldl ?_ _ _ ?_
    | with_reducible refine keeps_foldl_fst ?_ _ _ ?_
    | fail_if_no_progress with_reducible apply keeps_mk
    | (intro _)
    | dsimp only

theorem keeps_tookTurn {s0 : State} (x : Nat) (s : State) (hk : Keeps s0 s) : Keeps s0 (State.tookTurn s x) := by
  unfold State.tookTurn
  repeat' first
    | with_reducible assumption
    | with_reducible apply keeps_ite
    | split
    | with_reducible apply keeps_setCore

theorem keeps_setRunning {s0 : State} (x : Nat) (s : State) (hk : Keeps s0 s) : Keeps s0 (State.setRunning s x) := by
  unfold State.setRunning
  repeat' first
    | with_reducible assumption
    | split
    | with_reducible apply keeps_setContext
    | with_reducible apply keeps_tookTurn
    | with_reducible refine keeps_foldl ?_ _ _ ?_
    | with_reducible refine keeps_foldl_fst ?_ _ _ ?_
    | fail_if_no_progress with_reducible apply keeps_mk
    | (intro _)
    | dsimp only

theorem keeps_issue {s0 : State} (x : Nat) (i : Insn) (illegal : Bool) (reads writes : List LoadDst) (body : State → Nat → Task → Issue) (s : State)
    (hk : Keeps s0 s) (hb : ∀ s k t, Keeps s0 s → KeepsIssue s0 (body s k t)) : Keeps s0 (s.issue x i illegal reads writes body) := by
  unfold State.issue
  split
  · exact hk
  rename_i k _
  dsimp only
  split
  · exact hk
  have hf := keeps_fetch x (s.task k).slot (s.task k).pc.toNat (if i.long then 8 else 4) s hk
  split
  · rename_i u hu
    rw [hu] at hf
    cases hf with | waits hf => exact keeps_setContext _ _ _ hf
  · rename_i u hu
    rw [hu] at hf
    cases hf with | refused hf => exact keeps_issueFault _ _ _ _ _ _ _ _ (keeps_tookTurn _ _ hf)
  · rename_i u hu
    rw [hu] at hf
    have hf : Keeps s0 u := by cases hf with | ok hf => exact hf
    have ht : Keeps s0 (u.tookTurn x) := keeps_tookTurn _ _ hf
    split
    · exact keeps_issueFault _ _ _ _ _ _ _ _ ht
    split
    · exact keeps_setContext _ _ _ hf
    split
    · exact keeps_issueFault _ _ _ _ _ _ _ _ ht
    have h := hb u k ((s.task k).supersede writes) hf
    split
    · exact keeps_issueFault _ _ _ _ _ _ _ _ ht
    · rename_i v p w hv
      rw [hv] at h
      cases h with | stay _ _ h => exact keeps_setContext _ _ _ (keeps_setTask _ _ _ h)
    · rename_i v t' pc hv
      rw [hv] at h
      cases h with | go _ _ h => exact keeps_setRunning _ _ (keeps_setTask _ _ _ h)
    · rename_i v hv
      rw [hv] at h
      cases h with | leave h => exact keeps_tookTurn _ _ h

end Sys2Proof.Machine
end

