-- ==== Sys2Proof/Laws/Keeps/CoreMem.lean ====
section
/-! SUPPORT. What the operations of Machine/CoreMem.lean keep. -/

namespace Sys2Proof.Machine

theorem keeps_portAccess {s0 : State} (a : Nat) (n : Nat) (data : Option (List Byte)) (s : State) (hk : Keeps s0 s) : Keeps s0 (State.portAccess s a n data) := by
  unfold State.portAccess
  repeat' first
    | with_reducible assumption
    | with_reducible apply keeps_ite
    | split
    | with_reducible apply keeps_readDev
    | with_reducible apply keeps_emit
    | with_reducible apply keeps_writeDev

theorem keeps_accessPart {s0 : State} (ag : Agent) (a : Nat) (n : Nat) (data : Option (List Byte)) (input : Nat) (same : Bool) (s : State) (hk : Keeps s0 s) : Keeps s0 (State.accessPart s ag a n data input same) := by
  unfold State.accessPart
  repeat' first
    | with_reducible assumption
    | with_reducible apply keeps_ite
    | split
    | with_reducible apply keeps_notOwned
    | with_reducible apply keeps_emit
    | with_reducible apply keeps_portAccess
    | with_reducible apply keeps_holdAccess

theorem keeps_admitted {s0 : State} (age : Nat) (spans : List (Nat × Nat)) (f : State → State) (s : State) (hk : Keeps s0 s) (h_f : ∀ y0, Keeps s0 y0 → Keeps s0 (f y0)) : Keeps s0 (State.admitted s age spans f) := by
  unfold State.admitted
  repeat' first
    | with_reducible assumption
    | with_reducible apply keeps_ite
    | split
    | with_reducible apply keeps_setBit
    | with_reducible apply h_f
    | with_reducible refine keeps_foldl ?_ _ _ ?_
    | with_reducible refine keeps_foldl_fst ?_ _ _ ?_
    | fail_if_no_progress with_reducible apply keeps_mk
    | (intro _)

theorem keeps_applyAdds {s0 : State} (s : State) (hk : Keeps s0 s) : Keeps s0 (State.applyAdds s) := by
  unfold State.applyAdds
  repeat' first
    | with_reducible assumption
    | with_reducible apply keeps_ite
    | split
    | with_reducible apply keeps_bumpToken
    | with_reducible refine keeps_foldl ?_ _ _ ?_
    | with_reducible refine keeps_foldl_fst ?_ _ _ ?_
    | fail_if_no_progress with_reducible apply keeps_mk
    | (intro _)

theorem keeps_bankAccess {s0 : State} (by_ : Requester) (addr : Nat) (size : Nat) (data : Option (List Byte)) (upsets : List (Nat × Nat)) (input : Nat) (same : Bool) (s : State) (hk : Keeps s0 s) : Keeps s0 (State.bankAccess s by_ addr size data upsets input same) := by
  unfold State.bankAccess
  repeat' first
    | with_reducible assumption
    | split
    | with_reducible apply keeps_setMark
    | with_reducible apply keeps_accessPart
    | with_reducible refine keeps_foldl ?_ _ _ ?_
    | with_reducible refine keeps_foldl_fst ?_ _ _ ?_
    | fail_if_no_progress with_reducible apply keeps_mk
    | (intro _)

theorem keeps_wakeParts {s0 : State} (write : Bool) (l : List (Nat × Nat × Bool)) (s : State) (hk : Keeps s0 s) : Keeps s0 (State.wakeParts s write l) := by
  unfold State.wakeParts
  repeat' first
    | with_reducible assumption
    | split
    | with_reducible apply keeps_wakeSpan
    | with_reducible refine keeps_foldl ?_ _ _ ?_
    | with_reducible refine keeps_foldl_fst ?_ _ _ ?_
    | fail_if_no_progress with_reducible apply keeps_mk
    | (intro _)

theorem keeps_readParts {s0 : State} (l : List (Nat × Nat × Bool)) (host : List Host.Cell) (s : State) (hk : Keeps s0 s) : Keeps s0 (State.readParts s l host).1 := by
  unfold State.readParts
  repeat' first
    | with_reducible assumption
    | with_reducible apply keeps_ite
    | split
    | with_reducible apply keeps_readDev
    | with_reducible refine keeps_foldl ?_ _ _ ?_
    | with_reducible refine keeps_foldl_fst ?_ _ _ ?_
    | fail_if_no_progress with_reducible apply keeps_mk
    | (intro _)

theorem keeps_wakeData {s0 : State} (x : Nat) (s : State) (hk : Keeps s0 s) : Keeps s0 (State.wakeData s x) := by
  unfold State.wakeData
  repeat' first
    | with_reducible assumption
    | with_reducible apply keeps_ite
    | split
    | with_reducible apply keeps_setContext

theorem keeps_loadReturn {s0 : State} (x : Nat) (index : Nat) (host : List Host.Cell) (failed : Bool) (s : State) (hk : Keeps s0 s) : Keeps s0 (State.loadReturn s x index host failed) := by
  unfold State.loadReturn
  repeat' first
    | with_reducible assumption
    | with_reducible apply keeps_ite
    | split
    | with_reducible apply keeps_admitted
    | with_reducible apply keeps_wakeParts
    | with_reducible apply keeps_readParts
    | with_reducible apply keeps_wakeData
    | with_reducible apply keeps_freeUser
    | with_reducible apply keeps_setTask
    | with_reducible refine keeps_foldl ?_ _ _ ?_
    | with_reducible refine keeps_foldl_fst ?_ _ _ ?_
    | fail_if_no_progress with_reducible apply keeps_mk
    | (intro _)

theorem keeps_refuseParts {s0 : State} (ag : Agent) (write : Bool) (l : List (Nat × Nat × Bool)) (s : State) (hk : Keeps s0 s) : Keeps s0 (State.refuseParts s ag write l) := by
  unfold State.refuseParts
  repeat' first
    | with_reducible assumption
    | with_reducible apply keeps_ite
    | split
    | with_reducible apply keeps_notOwned
    | with_reducible refine keeps_foldl ?_ _ _ ?_
    | with_reducible refine keeps_foldl_fst ?_ _ _ ?_
    | fail_if_no_progress with_reducible apply keeps_mk
    | (intro _)

theorem keeps_resumeBank {s0 : State} (b : Nat) (s : State) (hk : Keeps s0 s) : Keeps s0 (State.resumeBank s b) := by
  unfold State.resumeBank
  repeat' first
    | with_reducible assumption
    | with_reducible apply keeps_ite
    | split
    | with_reducible apply keeps_autoWake
    | with_reducible refine keeps_setBank _ _ (by simp) ?_
    | with_reducible apply keeps_admitted
    | with_reducible apply keeps_portAccess
    | with_reducible refine keeps_foldl ?_ _ _ ?_
    | with_reducible refine keeps_foldl_fst ?_ _ _ ?_
    | fail_if_no_progress with_reducible apply keeps_mk
    | (intro _)

theorem keeps_storeComplete {s0 : State} (id : Nat) (s : State) (hk : Keeps s0 s) : Keeps s0 (State.storeComplete s id) := by
  unfold State.storeComplete
  repeat' first
    | with_reducible assumption
    | with_reducible apply keeps_ite
    | split
    | with_reducible apply keeps_askTags
    | with_reducible apply keeps_admitted
    | with_reducible apply keeps_wakeSpan
    | with_reducible apply keeps_freeUser
    | with_reducible apply keeps_applyAdds
    | with_reducible apply keeps_writeDev
    | with_reducible refine keeps_foldl ?_ _ _ ?_
    | with_reducible refine keeps_foldl_fst ?_ _ _ ?_
    | fail_if_no_progress with_reducible apply keeps_mk
    | (intro _)

theorem keeps_execBankAccess {s0 : State} (from_ : Arrival) (addr : Nat) (size : Nat) (data : Option (List Byte)) (upsets : List (Nat × Nat)) (s : State) (hk : Keeps s0 s) : KeepsNext s0 (execBankAccess from_ addr size data upsets s) := by
  unfold execBankAccess
  repeat' first
    | with_reducible assumption
    | with_reducible apply keeps_ite
    | split
    | with_reducible apply keeps_bankAccess
    | with_reducible apply keepsNext

theorem keeps_loadIssue {s0 : State} (x : Nat) (d : LoadDst) (a : Nat) (size : Nat) (off : MemOff) (k : Nat) (t : Task) (s : State) (hk : Keeps s0 s) : KeepsIssue s0 (loadIssue x d a size off s k t) := by
  unfold loadIssue
  repeat' first
    | with_reducible assumption
    | with_reducible apply keeps_ite
    | split
    | with_reducible apply keeps_refuseParts
    | with_reducible apply keeps_readParts
    | with_reducible apply keeps_wakeParts
    | with_reducible apply keeps_askTags
    | with_reducible apply keepsIssue_fault
    | with_reducible apply keepsIssue_stay
    | with_reducible apply keepsIssue_go
    | with_reducible apply keepsIssue_leave
    | with_reducible refine keeps_foldl ?_ _ _ ?_
    | with_reducible refine keeps_foldl_fst ?_ _ _ ?_
    | fail_if_no_progress with_reducible apply keeps_mk
    | (intro _)
    | dsimp only

theorem keeps_execLdt {s0 : State} (x : Nat) (d : TReg) (a : SReg) (off : MemOff) (s : State) (hk : Keeps s0 s) : KeepsNext s0 (execLdt x d a off s) := by
  unfold execLdt
  repeat' first
    | with_reducible assumption
    | with_reducible apply keeps_ite
    | split
    | with_reducible apply keeps_issue
    | with_reducible apply keeps_loadIssue
    | with_reducible apply keepsIssue_fault
    | with_reducible apply keepsIssue_stay
    | with_reducible apply keepsIssue_go
    | with_reducible apply keepsIssue_leave
    | with_reducible apply keepsNext
    | with_reducible refine keeps_foldl ?_ _ _ ?_
    | with_reducible refine keeps_foldl_fst ?_ _ _ ?_
    | fail_if_no_progress with_reducible apply keeps_mk
    | (intro _)

theorem keeps_execLdw {s0 : State} (x : Nat) (d : SReg) (a : SReg) (off : MemOff) (s : State) (hk : Keeps s0 s) : KeepsNext s0 (execLdw x d a off s) := by
  unfold execLdw
  repeat' first
    | with_reducible assumption
    | with_reducible apply keeps_ite
    | split
    | with_reducible apply keeps_issue
    | with_reducible apply keeps_loadIssue
    | with_reducible apply keepsIssue_fault
    | with_reducible apply keepsIssue_stay
    | with_reducible apply keepsIssue_go
    | with_reducible apply keepsIssue_leave
    | with_reducible apply keepsNext
    | with_reducible refine keeps_foldl ?_ _ _ ?_
    | with_reducible refine keeps_foldl_fst ?_ _ _ ?_
    | fail_if_no_progress with_reducible apply keeps_mk
    | (intro _)

theorem keeps_execLoadReturn {s0 : State} (x : Nat) (index : Nat) (host : List Host.Cell) (failed : Bool) (s : State) (hk : Keeps s0 s) : KeepsNext s0 (execLoadReturn x index host failed s) := by
  unfold execLoadReturn
  repeat' first
    | with_reducible assumption
    | with_reducible apply keeps_ite
    | split
    | with_reducible apply keeps_loadReturn
    | with_reducible apply keepsNext

theorem keeps_execStoreComplete {s0 : State} (id : Nat) (s : State) (hk : Keeps s0 s) : KeepsNext s0 (execStoreComplete id s) := by
  unfold execStoreComplete
  repeat' first
    | with_reducible assumption
    | with_reducible apply keeps_ite
    | split
    | with_reducible apply keeps_storeComplete
    | with_reducible apply keepsNext

theorem keeps_storeIssue {s0 : State} (x : Nat) (a : Nat) (size : Nat) (off : MemOff) (bs : List Byte) (active : Nat → Bool) (k : Nat) (t : Task) (s : State) (hk : Keeps s0 s) : KeepsIssue s0 (storeIssue x a size off bs active s k t) := by
  unfold storeIssue
  repeat' first
    | with_reducible assumption
    | with_reducible apply keeps_ite
    | split
    | with_reducible apply keeps_refuseParts
    | with_reducible apply keepsIssue_fault
    | with_reducible apply keepsIssue_stay
    | with_reducible apply keepsIssue_go
    | with_reducible apply keepsIssue_leave
    | with_reducible refine keeps_foldl ?_ _ _ ?_
    | with_reducible refine keeps_foldl_fst ?_ _ _ ?_
    | fail_if_no_progress with_reducible apply keeps_mk
    | (intro _)
    | dsimp only

theorem keeps_execStt {s0 : State} (x : Nat) (b : TReg) (a : SReg) (off : MemOff) (s : State) (hk : Keeps s0 s) : KeepsNext s0 (execStt x b a off s) := by
  unfold execStt
  repeat' first
    | with_reducible assumption
    | with_reducible apply keeps_ite
    | split
    | with_reducible apply keeps_issue
    | with_reducible apply keeps_storeIssue
    | with_reducible apply keepsIssue_fault
    | with_reducible apply keepsIssue_stay
    | with_reducible apply keepsIssue_go
    | with_reducible apply keepsIssue_leave
    | with_reducible apply keepsNext
    | with_reducible refine keeps_foldl ?_ _ _ ?_
    | with_reducible refine keeps_foldl_fst ?_ _ _ ?_
    | fail_if_no_progress with_reducible apply keeps_mk
    | (intro _)

theorem keeps_execStw {s0 : State} (x : Nat) (b : SReg) (a : SReg) (off : MemOff) (s : State) (hk : Keeps s0 s) : KeepsNext s0 (execStw x b a off s) := by
  unfold execStw
  repeat' first
    | with_reducible assumption
    | with_reducible apply keeps_ite
    | split
    | with_reducible apply keeps_issue
    | with_reducible apply keeps_storeIssue
    | with_reducible apply keepsIssue_fault
    | with_reducible apply keepsIssue_stay
    | with_reducible apply keepsIssue_go
    | with_reducible apply keepsIssue_leave
    | with_reducible apply keepsNext
    | with_reducible refine keeps_foldl ?_ _ _ ?_
    | with_reducible refine keeps_foldl_fst ?_ _ _ ?_
    | fail_if_no_progress with_reducible apply keeps_mk
    | (intro _)

theorem keeps_execVld {s0 : State} (x : Nat) (d : VReg) (a : SReg) (off : MemOff) (s : State) (hk : Keeps s0 s) : KeepsNext s0 (execVld x d a off s) := by
  unfold execVld
  repeat' first
    | with_reducible assumption
    | with_reducible apply keeps_ite
    | split
    | with_reducible apply keeps_issue
    | with_reducible apply keeps_loadIssue
    | with_reducible apply keepsIssue_fault
    | with_reducible apply keepsIssue_stay
    | with_reducible apply keepsIssue_go
    | with_reducible apply keepsIssue_leave
    | with_reducible apply keepsNext
    | with_reducible refine keeps_foldl ?_ _ _ ?_
    | with_reducible refine keeps_foldl_fst ?_ _ _ ?_
    | fail_if_no_progress with_reducible apply keeps_mk
    | (intro _)

theorem keeps_execVst {s0 : State} (x : Nat) (b : VReg) (a : SReg) (p : PReg) (off : MemOff) (s : State) (hk : Keeps s0 s) : KeepsNext s0 (execVst x b a p off s) := by
  unfold execVst
  repeat' first
    | with_reducible assumption
    | with_reducible apply keeps_ite
    | split
    | with_reducible apply keeps_issue
    | with_reducible apply keeps_storeIssue
    | with_reducible apply keepsIssue_fault
    | with_reducible apply keepsIssue_stay
    | with_reducible apply keepsIssue_go
    | with_reducible apply keepsIssue_leave
    | with_reducible apply keepsNext
    | with_reducible refine keeps_foldl ?_ _ _ ?_
    | with_reducible refine keeps_foldl_fst ?_ _ _ ?_
    | fail_if_no_progress with_reducible apply keeps_mk
    | (intro _)

end Sys2Proof.Machine
end

