-- ==== Sys2Proof/Laws/Keeps/Banks.lean ====
section
/-! SUPPORT. What the operations of Machine/Banks.lean keep. -/

namespace Sys2Proof.Machine

theorem keeps_beginMarch {s0 : State} (b : Nat) (m : March) (s : State) (hk : Keeps s0 s) : Keeps s0 (State.beginMarch s b m) := by
  unfold State.beginMarch
  repeat' first
    | with_reducible assumption
    | with_reducible apply keeps_ite
    | split
    | with_reducible apply keeps_wr
    | with_reducible apply keeps_setBit
    | with_reducible refine keeps_setBank _ _ (by simp) ?_

theorem keeps_cleanLine {s0 : State} (b : Nat) (line : Nat) (s : State) (hk : Keeps s0 s) : Keeps s0 (State.cleanLine s b line) := by
  unfold State.cleanLine
  repeat' first
    | with_reducible assumption
    | split
    | with_reducible apply keeps_setMark
    | with_reducible refine keeps_foldl ?_ _ _ ?_
    | with_reducible refine keeps_foldl_fst ?_ _ _ ?_
    | fail_if_no_progress with_reducible apply keeps_mk
    | (intro _)
    | dsimp only

theorem keeps_fenceBank {s0 : State} (b : Nat) (s : State) (hk : Keeps s0 s) : Keeps s0 (State.fenceBank s b) := by
  unfold State.fenceBank
  repeat' first
    | with_reducible assumption
    | with_reducible apply keeps_ite
    | split
    | with_reducible apply keeps_noteMaps
    | with_reducible apply keeps_raise
    | with_reducible apply keeps_setBit

theorem keeps_handoverDone {s0 : State} (b : Nat) (s : State) (hk : Keeps s0 s) : Keeps s0 (State.handoverDone s b) := by
  unfold State.handoverDone
  repeat' first
    | with_reducible assumption
    | with_reducible apply keeps_ite
    | split
    | with_reducible apply keeps_resumeBank
    | with_reducible apply keeps_setBit

theorem keeps_liveRepair {s0 : State} (b : Nat) (line : Nat) (s : State) (hk : Keeps s0 s) : Keeps s0 (State.liveRepair s b line) := by
  unfold State.liveRepair
  repeat' first
    | with_reducible assumption
    | with_reducible apply keeps_ite
    | split
    | with_reducible refine keeps_setBank _ _ (by simp) ?_
    | with_reducible apply keeps_beginMarch

theorem keeps_loseBank {s0 : State} (b : Nat) (s : State) (hk : Keeps s0 s) : Keeps s0 (State.loseBank s b) := by
  unfold State.loseBank
  repeat' first
    | with_reducible assumption
    | with_reducible apply keeps_ite
    | split
    | with_reducible apply keeps_refill
    | with_reducible refine keeps_setBank _ _ (by simp) ?_

theorem keeps_loseSpare {s0 : State} (b : Nat) (i : Nat) (s : State) (hk : Keeps s0 s) : Keeps s0 (State.loseSpare s b i) := by
  unfold State.loseSpare
  repeat' first
    | with_reducible assumption
    | with_reducible apply keeps_ite
    | split
    | with_reducible apply keeps_setFld
    | with_reducible refine keeps_setBank _ _ (by simp) ?_

theorem keeps_mapLine {s0 : State} (b : Nat) (line : Nat) (s : State) (hk : Keeps s0 s) : Keeps s0 (State.mapLine s b line) := by
  unfold State.mapLine
  repeat' first
    | with_reducible assumption
    | with_reducible apply keeps_ite
    | split
    | with_reducible refine keeps_setBank _ _ (by simp) ?_
    | with_reducible apply keeps_noteMaps
    | with_reducible apply keeps_setStatus
    | with_reducible apply keeps_setFld
    | with_reducible apply keeps_fenceBank

theorem keeps_repairLine {s0 : State} (b : Nat) (line : Nat) (s : State) (hk : Keeps s0 s) : Keeps s0 (State.repairLine s b line) := by
  unfold State.repairLine
  repeat' first
    | with_reducible assumption
    | with_reducible apply keeps_ite
    | split
    | with_reducible apply keeps_loseSpare
    | with_reducible apply keeps_mapLine

theorem keeps_marchDone {s0 : State} (b : Nat) (fails : List Nat) (s : State) (hk : Keeps s0 s) : Keeps s0 (State.marchDone s b fails) := by
  unfold State.marchDone
  repeat' first
    | with_reducible assumption
    | with_reducible apply keeps_ite
    | split
    | with_reducible apply keeps_repairLine
    | with_reducible apply keeps_refill
    | with_reducible refine keeps_setBank _ _ (by simp) ?_
    | with_reducible apply keeps_wr
    | with_reducible apply keeps_setBit
    | with_reducible apply keeps_liveRepair
    | with_reducible apply keeps_resumeBank
    | with_reducible refine keeps_foldl ?_ _ _ ?_
    | with_reducible refine keeps_foldl_fst ?_ _ _ ?_
    | fail_if_no_progress with_reducible apply keeps_mk
    | (intro _)

theorem keeps_marchLine {s0 : State} (b : Nat) (failed : Bool) (s : State) (hk : Keeps s0 s) : Keeps s0 (State.marchLine s b failed) := by
  unfold State.marchLine
  repeat' first
    | with_reducible assumption
    | with_reducible apply keeps_ite
    | split
    | with_reducible apply keeps_cleanLine
    | with_reducible refine keeps_setBank _ _ (by simp) ?_
    | with_reducible apply keeps_repairLine
    | with_reducible refine keeps_foldl ?_ _ _ ?_
    | with_reducible refine keeps_foldl_fst ?_ _ _ ?_
    | fail_if_no_progress with_reducible apply keeps_mk

theorem keeps_writeMarch {s0 : State} (b : Nat) (v : Word) (s : State) (hk : Keeps s0 s) : Keeps s0 (State.writeMarch s b v) := by
  unfold State.writeMarch
  repeat' first
    | with_reducible assumption
    | with_reducible apply keeps_ite
    | split
    | with_reducible apply keeps_setFld
    | with_reducible apply keeps_beginMarch
    | with_reducible apply keeps_setBit

theorem keeps_marchPreserve {s0 : State} (b : Nat) (v : Word) (s : State) (hk : Keeps s0 s) : Keeps s0 (State.marchPreserve s b v) := by
  unfold State.marchPreserve
  repeat' first
    | with_reducible assumption
    | with_reducible apply keeps_ite
    | split
    | with_reducible apply keeps_writeMarch

theorem keeps_marchStart {s0 : State} (b : Nat) (v : Word) (s : State) (hk : Keeps s0 s) : Keeps s0 (State.marchStart s b v) := by
  unfold State.marchStart
  repeat' first
    | with_reducible assumption
    | with_reducible apply keeps_ite
    | split
    | with_reducible apply keeps_writeMarch

theorem keeps_nextScrub {s0 : State} (b : Nat) (s : State) (hk : Keeps s0 s) : ∀ r, State.nextScrub s b = some r → Keeps s0 r.1 := by
  unfold State.nextScrub
  intro r hr
  revert hr
  repeat' first
    | with_reducible assumption
    | with_reducible apply keeps_ite
    | split
    | with_reducible refine keeps_setBank _ _ (by simp) ?_
    | with_reducible apply keeps_setFld
    | with_reducible refine keeps_foldl ?_ _ _ ?_
    | with_reducible refine keeps_foldl_fst ?_ _ _ ?_
    | fail_if_no_progress with_reducible apply keeps_mk
    | rintro ⟨⟩
    | dsimp only

theorem keeps_returnOn {s0 : State} (b : Nat) (s : State) (hk : Keeps s0 s) : Keeps s0 (State.returnOn s b) := by
  unfold State.returnOn
  repeat' first
    | with_reducible assumption
    | with_reducible apply keeps_ite
    | split
    | with_reducible apply keeps_refill
    | with_reducible refine keeps_foldl ?_ _ _ ?_
    | with_reducible refine keeps_foldl_fst ?_ _ _ ?_
    | fail_if_no_progress with_reducible apply keeps_mk

theorem keeps_scrubBack {s0 : State} (b : Nat) (s : State) (hk : Keeps s0 s) : Keeps s0 (State.scrubBack s b) := by
  unfold State.scrubBack
  repeat' first
    | with_reducible assumption
    | with_reducible apply keeps_ite
    | split
    | with_reducible apply keeps_cleanLine
    | with_reducible refine keeps_setBank _ _ (by simp) ?_

theorem keeps_bitError {s0 : State} (a : Nat) (s : State) (hk : Keeps s0 s) : Keeps s0 (State.bitError s a) := by
  unfold State.bitError
  repeat' first
    | with_reducible assumption
    | split
    | with_reducible apply keeps_setMark

theorem keeps_scrubRead {s0 : State} (b : Nat) (single double : List Nat) (deferred : Nat) (s : State) (hk : Keeps s0 s) : Keeps s0 (State.scrubRead s b single double deferred) := by
  unfold State.scrubRead
  repeat' first
    | with_reducible assumption
    | split
    | with_reducible apply keeps_bitError
    | with_reducible apply keeps_count
    | with_reducible apply keeps_readWord
    | with_reducible refine keeps_setBank _ _ (by simp) ?_
    | with_reducible apply keeps_liveRepair
    | with_reducible refine keeps_foldl ?_ _ _ ?_
    | with_reducible refine keeps_foldl_fst ?_ _ _ ?_
    | fail_if_no_progress with_reducible apply keeps_mk
    | (intro _)
    | dsimp only
    | refine keeps_nextScrub _ _ ?_ (_, _) (by assumption)

theorem keeps_startTransition {s0 : State} (b : Nat) (s : State) (hk : Keeps s0 s) : Keeps s0 (State.startTransition s b) := by
  unfold State.startTransition
  repeat' first
    | with_reducible assumption
    | with_reducible apply keeps_ite
    | split
    | with_reducible apply keeps_setFld
    | with_reducible apply keeps_setBit
    | with_reducible apply keeps_numbered
    | with_reducible refine keeps_setBank _ _ (by simp) ?_

theorem keeps_transitionDone {s0 : State} (b : Nat) (s : State) (hk : Keeps s0 s) : Keeps s0 (State.transitionDone s b) := by
  unfold State.transitionDone
  repeat' first
    | with_reducible assumption
    | with_reducible apply keeps_ite
    | split
    | with_reducible apply keeps_setBit
    | with_reducible apply keeps_setFld
    | with_reducible refine keeps_setBank _ _ (by simp) ?_
    | with_reducible apply keeps_loseBank
    | with_reducible apply keeps_returnOn
    | with_reducible apply keeps_resumeBank
    | with_reducible apply keeps_startTransition

theorem keeps_writePower {s0 : State} (b : Nat) (v : Word) (s : State) (hk : Keeps s0 s) : Keeps s0 (State.writePower s b v) := by
  unfold State.writePower
  repeat' first
    | with_reducible assumption
    | with_reducible apply keeps_ite
    | split
    | with_reducible apply keeps_startTransition
    | with_reducible apply keeps_setFld

theorem keeps_execBankHandover {s0 : State} (by_ : Writer) (bank : Nat) (v : Word) (s : State) (hk : Keeps s0 s) : KeepsNext s0 (execBankHandover by_ bank v s) := by
  unfold execBankHandover
  repeat' first
    | with_reducible assumption
    | with_reducible apply keeps_ite
    | split
    | with_reducible apply keeps_byWriter
    | with_reducible apply keeps_handOwner
    | with_reducible apply keepsNext
    | with_reducible refine keeps_foldl ?_ _ _ ?_
    | with_reducible refine keeps_foldl_fst ?_ _ _ ?_
    | fail_if_no_progress with_reducible apply keeps_mk
    | (intro _)

theorem keeps_execBankPowerWrite {s0 : State} (bank : Nat) (v : Word) (s : State) (hk : Keeps s0 s) : KeepsNext s0 (execBankPowerWrite bank v s) := by
  unfold execBankPowerWrite
  repeat' first
    | with_reducible assumption
    | with_reducible apply keeps_ite
    | split
    | with_reducible apply keeps_writePower
    | with_reducible apply keepsNext

theorem keeps_execBankScrubRead {s0 : State} (bank : Nat) (single : List Nat) (double : List Nat) (deferred : Nat) (s : State) (hk : Keeps s0 s) : KeepsNext s0 (execBankScrubRead bank single double deferred s) := by
  unfold execBankScrubRead
  repeat' first
    | with_reducible assumption
    | with_reducible apply keeps_ite
    | split
    | with_reducible apply keeps_scrubRead
    | with_reducible apply keepsNext

theorem keeps_execBankTransitionDone {s0 : State} (bank : Nat) (s : State) (hk : Keeps s0 s) : KeepsNext s0 (execBankTransitionDone bank s) := by
  unfold execBankTransitionDone
  repeat' first
    | with_reducible assumption
    | with_reducible apply keeps_ite
    | split
    | with_reducible apply keeps_transitionDone
    | with_reducible apply keepsNext

theorem keeps_execHandoverComplete {s0 : State} (bank : Nat) (s : State) (hk : Keeps s0 s) : KeepsNext s0 (execHandoverComplete bank s) := by
  unfold execHandoverComplete
  repeat' first
    | with_reducible assumption
    | with_reducible apply keeps_ite
    | split
    | with_reducible apply keeps_handoverDone
    | with_reducible apply keepsNext

theorem keeps_execMarchDone {s0 : State} (bank : Nat) (fails : List Nat) (s : State) (hk : Keeps s0 s) : KeepsNext s0 (execMarchDone bank fails s) := by
  unfold execMarchDone
  repeat' first
    | with_reducible assumption
    | with_reducible apply keeps_ite
    | split
    | with_reducible apply keeps_marchDone
    | with_reducible apply keepsNext

theorem keeps_execMarchLineDone {s0 : State} (bank : Nat) (failed : Bool) (s : State) (hk : Keeps s0 s) : KeepsNext s0 (execMarchLineDone bank failed s) := by
  unfold execMarchLineDone
  repeat' first
    | with_reducible assumption
    | with_reducible apply keeps_ite
    | split
    | with_reducible apply keeps_marchLine
    | with_reducible apply keepsNext

theorem keeps_execMarchPreserveStart {s0 : State} (bank : Nat) (v : Word) (s : State) (hk : Keeps s0 s) : KeepsNext s0 (execMarchPreserveStart bank v s) := by
  unfold execMarchPreserveStart
  repeat' first
    | with_reducible assumption
    | with_reducible apply keeps_ite
    | split
    | with_reducible apply keeps_marchPreserve
    | with_reducible apply keepsNext

theorem keeps_execMarchStart {s0 : State} (bank : Nat) (v : Word) (s : State) (hk : Keeps s0 s) : KeepsNext s0 (execMarchStart bank v s) := by
  unfold execMarchStart
  repeat' first
    | with_reducible assumption
    | with_reducible apply keeps_ite
    | split
    | with_reducible apply keeps_marchStart
    | with_reducible apply keepsNext

theorem keeps_execScrubWriteback {s0 : State} (bank : Nat) (s : State) (hk : Keeps s0 s) : KeepsNext s0 (execScrubWriteback bank s) := by
  unfold execScrubWriteback
  repeat' first
    | with_reducible assumption
    | with_reducible apply keeps_ite
    | split
    | with_reducible apply keeps_scrubBack
    | with_reducible apply keepsNext

end Sys2Proof.Machine
end

