-- ==== Sys2Proof/Laws/Keeps/Vector.lean ====
section
/-! SUPPORT. What the operations of Machine/Vector.lean keep. -/

namespace Sys2Proof.Machine

theorem keeps_varith {s0 : State} (op : VOp) (x : Nat) (d : VReg) (a : VReg) (b : Option VReg) (fmt : BitVec 2) (p : PReg) (s : State) (hk : Keeps s0 s) : Keeps s0 (varith op x d a b fmt p s) := by
  unfold varith
  repeat' first
    | with_reducible assumption
    | with_reducible apply keeps_ite
    | split
    | with_reducible apply keeps_issue
    | with_reducible apply keepsIssue_fault
    | with_reducible apply keepsIssue_stay
    | with_reducible apply keepsIssue_go
    | with_reducible apply keepsIssue_leave
    | with_reducible refine keeps_foldl ?_ _ _ ?_
    | with_reducible refine keeps_foldl_fst ?_ _ _ ?_
    | fail_if_no_progress with_reducible apply keeps_mk
    | (intro _)

theorem keeps_execVadd {s0 : State} (x : Nat) (d : VReg) (a : VReg) (b : VReg) (fmt : BitVec 2) (p : PReg) (s : State) (hk : Keeps s0 s) : KeepsNext s0 (execVadd x d a b fmt p s) := by
  unfold execVadd
  repeat' first
    | with_reducible assumption
    | with_reducible apply keeps_ite
    | split
    | with_reducible apply keeps_varith
    | with_reducible apply keepsNext

theorem keeps_execVcmp {s0 : State} (x : Nat) (d : PReg) (a : VReg) (b : VReg) (fmt : BitVec 2) (cond : BitVec 3) (p : PReg) (s : State) (hk : Keeps s0 s) : KeepsNext s0 (execVcmp x d a b fmt cond p s) := by
  unfold execVcmp
  repeat' first
    | with_reducible assumption
    | with_reducible apply keeps_ite
    | split
    | with_reducible apply keeps_issue
    | with_reducible apply keepsIssue_fault
    | with_reducible apply keepsIssue_stay
    | with_reducible apply keepsIssue_go
    | with_reducible apply keepsIssue_leave
    | with_reducible apply keepsNext
    | with_reducible refine keeps_foldl ?_ _ _ ?_
    | with_reducible refine keeps_foldl_fst ?_ _ _ ?_
    | fail_if_no_progress with_reducible apply keeps_mk
    | (intro _)

theorem keeps_execVcvt {s0 : State} (x : Nat) (d : VReg) (a : VReg) (src : BitVec 4) (dst : BitVec 4) (part : BitVec 3) (sr : Bool) (p : PReg) (s : State) (hk : Keeps s0 s) : KeepsNext s0 (execVcvt x d a src dst part sr p s) := by
  unfold execVcvt
  repeat' first
    | with_reducible assumption
    | with_reducible apply keeps_ite
    | split
    | with_reducible apply keeps_issue
    | with_reducible apply keepsIssue_fault
    | with_reducible apply keepsIssue_stay
    | with_reducible apply keepsIssue_go
    | with_reducible apply keepsIssue_leave
    | with_reducible apply keepsNext
    | with_reducible refine keeps_foldl ?_ _ _ ?_
    | with_reducible refine keeps_foldl_fst ?_ _ _ ?_
    | fail_if_no_progress with_reducible apply keeps_mk
    | (intro _)

theorem keeps_execVdact {s0 : State} (x : Nat) (d : VReg) (a : VReg) (b : VReg) (fmt : BitVec 2) (fn : BitVec 6) (p : PReg) (s : State) (hk : Keeps s0 s) : KeepsNext s0 (execVdact x d a b fmt fn p s) := by
  unfold execVdact
  repeat' first
    | with_reducible assumption
    | with_reducible apply keeps_ite
    | split
    | with_reducible apply keeps_issue
    | with_reducible apply keepsIssue_fault
    | with_reducible apply keepsIssue_stay
    | with_reducible apply keepsIssue_go
    | with_reducible apply keepsIssue_leave
    | with_reducible apply keepsNext
    | with_reducible refine keeps_foldl ?_ _ _ ?_
    | with_reducible refine keeps_foldl_fst ?_ _ _ ?_
    | fail_if_no_progress with_reducible apply keeps_mk
    | (intro _)

theorem keeps_execVexp2 {s0 : State} (x : Nat) (d : VReg) (a : VReg) (fmt : BitVec 2) (p : PReg) (s : State) (hk : Keeps s0 s) : KeepsNext s0 (execVexp2 x d a fmt p s) := by
  unfold execVexp2
  repeat' first
    | with_reducible assumption
    | with_reducible apply keeps_ite
    | split
    | with_reducible apply keeps_varith
    | with_reducible apply keepsNext

theorem keeps_execVfma {s0 : State} (x : Nat) (d : VReg) (a : VReg) (b : VReg) (fmt : BitVec 2) (p : PReg) (s : State) (hk : Keeps s0 s) : KeepsNext s0 (execVfma x d a b fmt p s) := by
  unfold execVfma
  repeat' first
    | with_reducible assumption
    | with_reducible apply keeps_ite
    | split
    | with_reducible apply keeps_varith
    | with_reducible apply keepsNext

theorem keeps_execVget {s0 : State} (x : Nat) (d : SReg) (a : VReg) (l : Fin 8) (s : State) (hk : Keeps s0 s) : KeepsNext s0 (execVget x d a l s) := by
  unfold execVget
  repeat' first
    | with_reducible assumption
    | with_reducible apply keeps_ite
    | split
    | with_reducible apply keeps_issue
    | with_reducible apply keepsIssue_fault
    | with_reducible apply keepsIssue_stay
    | with_reducible apply keepsIssue_go
    | with_reducible apply keepsIssue_leave
    | with_reducible apply keepsNext
    | with_reducible refine keeps_foldl ?_ _ _ ?_
    | with_reducible refine keeps_foldl_fst ?_ _ _ ?_
    | fail_if_no_progress with_reducible apply keeps_mk
    | (intro _)

theorem keeps_execVmax {s0 : State} (x : Nat) (d : VReg) (a : VReg) (b : VReg) (fmt : BitVec 2) (p : PReg) (s : State) (hk : Keeps s0 s) : KeepsNext s0 (execVmax x d a b fmt p s) := by
  unfold execVmax
  repeat' first
    | with_reducible assumption
    | with_reducible apply keeps_ite
    | split
    | with_reducible apply keeps_varith
    | with_reducible apply keepsNext

theorem keeps_execVmin {s0 : State} (x : Nat) (d : VReg) (a : VReg) (b : VReg) (fmt : BitVec 2) (p : PReg) (s : State) (hk : Keeps s0 s) : KeepsNext s0 (execVmin x d a b fmt p s) := by
  unfold execVmin
  repeat' first
    | with_reducible assumption
    | with_reducible apply keeps_ite
    | split
    | with_reducible apply keeps_varith
    | with_reducible apply keepsNext

theorem keeps_execVmul {s0 : State} (x : Nat) (d : VReg) (a : VReg) (b : VReg) (fmt : BitVec 2) (p : PReg) (s : State) (hk : Keeps s0 s) : KeepsNext s0 (execVmul x d a b fmt p s) := by
  unfold execVmul
  repeat' first
    | with_reducible assumption
    | with_reducible apply keeps_ite
    | split
    | with_reducible apply keeps_varith
    | with_reducible apply keepsNext

theorem keeps_execVrcp {s0 : State} (x : Nat) (d : VReg) (a : VReg) (fmt : BitVec 2) (p : PReg) (s : State) (hk : Keeps s0 s) : KeepsNext s0 (execVrcp x d a fmt p s) := by
  unfold execVrcp
  repeat' first
    | with_reducible assumption
    | with_reducible apply keeps_ite
    | split
    | with_reducible apply keeps_varith
    | with_reducible apply keepsNext

theorem keeps_execVred {s0 : State} (x : Nat) (d : SReg) (a : VReg) (op : BitVec 2) (fmt : BitVec 2) (p : PReg) (s : State) (hk : Keeps s0 s) : KeepsNext s0 (execVred x d a op fmt p s) := by
  unfold execVred
  repeat' first
    | with_reducible assumption
    | with_reducible apply keeps_ite
    | split
    | with_reducible apply keeps_issue
    | with_reducible apply keepsIssue_fault
    | with_reducible apply keepsIssue_stay
    | with_reducible apply keepsIssue_go
    | with_reducible apply keepsIssue_leave
    | with_reducible apply keepsNext
    | with_reducible refine keeps_foldl ?_ _ _ ?_
    | with_reducible refine keeps_foldl_fst ?_ _ _ ?_
    | fail_if_no_progress with_reducible apply keeps_mk
    | (intro _)

theorem keeps_execVrsq {s0 : State} (x : Nat) (d : VReg) (a : VReg) (fmt : BitVec 2) (p : PReg) (s : State) (hk : Keeps s0 s) : KeepsNext s0 (execVrsq x d a fmt p s) := by
  unfold execVrsq
  repeat' first
    | with_reducible assumption
    | with_reducible apply keeps_ite
    | split
    | with_reducible apply keeps_varith
    | with_reducible apply keepsNext

theorem keeps_execVsel {s0 : State} (x : Nat) (d : VReg) (a : VReg) (b : VReg) (p : PReg) (s : State) (hk : Keeps s0 s) : KeepsNext s0 (execVsel x d a b p s) := by
  unfold execVsel
  repeat' first
    | with_reducible assumption
    | with_reducible apply keeps_ite
    | split
    | with_reducible apply keeps_issue
    | with_reducible apply keepsIssue_fault
    | with_reducible apply keepsIssue_stay
    | with_reducible apply keepsIssue_go
    | with_reducible apply keepsIssue_leave
    | with_reducible apply keepsNext
    | with_reducible refine keeps_foldl ?_ _ _ ?_
    | with_reducible refine keeps_foldl_fst ?_ _ _ ?_
    | fail_if_no_progress with_reducible apply keeps_mk
    | (intro _)

theorem keeps_execVspl {s0 : State} (x : Nat) (d : VReg) (a : SReg) (p : PReg) (s : State) (hk : Keeps s0 s) : KeepsNext s0 (execVspl x d a p s) := by
  unfold execVspl
  repeat' first
    | with_reducible assumption
    | with_reducible apply keeps_ite
    | split
    | with_reducible apply keeps_issue
    | with_reducible apply keepsIssue_fault
    | with_reducible apply keepsIssue_stay
    | with_reducible apply keepsIssue_go
    | with_reducible apply keepsIssue_leave
    | with_reducible apply keepsNext
    | with_reducible refine keeps_foldl ?_ _ _ ?_
    | with_reducible refine keeps_foldl_fst ?_ _ _ ?_
    | fail_if_no_progress with_reducible apply keeps_mk
    | (intro _)

theorem keeps_execVsub {s0 : State} (x : Nat) (d : VReg) (a : VReg) (b : VReg) (fmt : BitVec 2) (p : PReg) (s : State) (hk : Keeps s0 s) : KeepsNext s0 (execVsub x d a b fmt p s) := by
  unfold execVsub
  repeat' first
    | with_reducible assumption
    | with_reducible apply keeps_ite
    | split
    | with_reducible apply keeps_varith
    | with_reducible apply keepsNext

end Sys2Proof.Machine
end

