-- ==== Sys2Proof/Laws/Keeps/Quant.lean ====
section
/-! SUPPORT. What the operations of Machine/Quant.lean keep. -/

namespace Sys2Proof.Machine

theorem keeps_countEscapes {s0 : State} (m : Nat) (n : Nat) (s : State) (hk : Keeps s0 s) : Keeps s0 (State.countEscapes s m n) := by
  unfold State.countEscapes
  repeat' first
    | with_reducible assumption
    | with_reducible apply keeps_ite
    | split
    | with_reducible apply keeps_count

theorem keeps_setEsc {s0 : State} (m : Nat) (i : Nat) (s : State) (hk : Keeps s0 s) : Keeps s0 (State.setEsc s m i) := by
  unfold State.setEsc
  repeat' first
    | with_reducible assumption
    | with_reducible apply keeps_ite
    | split
    | with_reducible apply keeps_setScale

theorem keeps_execVdq {s0 : State} (x : Nat) (d : VReg) (a : VReg) (b : SReg) (source : BitVec 2) (part : BitVec 3) (bcast : Bool) (p : PReg) (s : State) (hk : Keeps s0 s) : KeepsNext s0 (execVdq x d a b source part bcast p s) := by
  unfold execVdq
  repeat' first
    | with_reducible assumption
    | with_reducible apply keeps_ite
    | split
    | with_reducible apply keeps_issue
    | with_reducible apply keepsIssue_fault
    | with_reducible apply keepsIssue_stay
    | with_reducible apply keepsIssue_go
    | with_reducible apply keepsIssue_leave
    | with_reducible apply keepsNext
    | with_reducible refine keeps_foldl ?_ _ _ ?_
    | with_reducible refine keeps_foldl_fst ?_ _ _ ?_
    | fail_if_no_progress with_reducible apply keeps_mk
    | (intro _)
    | dsimp only

theorem keeps_execVqnt {s0 : State} (x : Nat) (d : VReg) (a : VReg) (b : SReg) (target : BitVec 2) (part : BitVec 3) (esc : Bool) (bcast : Bool) (p : PReg) (s : State) (hk : Keeps s0 s) : KeepsNext s0 (execVqnt x d a b target part esc bcast p s) := by
  unfold execVqnt
  repeat' first
    | with_reducible assumption
    | with_reducible apply keeps_ite
    | split
    | with_reducible apply keeps_issue
    | with_reducible apply keeps_setEsc
    | with_reducible apply keeps_countEscapes
    | with_reducible apply keepsIssue_fault
    | with_reducible apply keepsIssue_stay
    | with_reducible apply keepsIssue_go
    | with_reducible apply keepsIssue_leave
    | with_reducible apply keepsNext
    | with_reducible refine keeps_foldl ?_ _ _ ?_
    | with_reducible refine keeps_foldl_fst ?_ _ _ ?_
    | fail_if_no_progress with_reducible apply keeps_mk
    | (intro _)
    | dsimp only

theorem keeps_execVqntCal {s0 : State} (x : Nat) (d : VReg) (a : VReg) (b : SReg) (target : BitVec 2) (margin : BitVec 3) (asym : Bool) (bcast : Bool) (p : PReg) (s : State) (hk : Keeps s0 s) : KeepsNext s0 (execVqntCal x d a b target margin asym bcast p s) := by
  unfold execVqntCal
  repeat' first
    | with_reducible assumption
    | with_reducible apply keeps_ite
    | split
    | with_reducible apply keeps_issue
    | with_reducible apply keeps_setScale
    | with_reducible apply keepsIssue_fault
    | with_reducible apply keepsIssue_stay
    | with_reducible apply keepsIssue_go
    | with_reducible apply keepsIssue_leave
    | with_reducible apply keepsNext
    | with_reducible refine keeps_foldl ?_ _ _ ?_
    | with_reducible refine keeps_foldl_fst ?_ _ _ ?_
    | fail_if_no_progress with_reducible apply keeps_mk
    | (intro _)
    | dsimp only

end Sys2Proof.Machine
end

