-- ==== Sys2Proof/Laws/Keeps/Desc.lean ====
section
/-! SUPPORT. What the operations of Machine/Desc.lean keep. -/

namespace Sys2Proof.Machine

theorem keeps_readBlocksOf {s0 : State} (ag : Agent) (d : Desc) (bs : List Nat) (host : List Host.Cell) (s : State) (hk : Keeps s0 s) : Keeps s0 (State.readBlocksOf s ag d bs host).1 := by
  unfold State.readBlocksOf
  repeat' first
    | with_reducible assumption
    | with_reducible apply keeps_ite
    | split
    | with_reducible apply keeps_readDev
    | with_reducible refine keeps_foldl ?_ _ _ ?_
    | with_reducible refine keeps_foldl_fst ?_ _ _ ?_
    | fail_if_no_progress with_reducible apply keeps_mk
    | (intro _)
    | dsimp only

theorem keeps_readBlocks {s0 : State} (ag : Agent) (d : Desc) (host : List Host.Cell) (s : State) (hk : Keeps s0 s) : Keeps s0 (State.readBlocks s ag d host).1 := by
  unfold State.readBlocks
  repeat' first
    | with_reducible assumption
    | with_reducible apply keeps_ite
    | split
    | with_reducible apply keeps_readBlocksOf

theorem keeps_readPlain {s0 : State} (ag : Agent) (d : Desc) (host : List Host.Cell) (s : State) (hk : Keeps s0 s) : Keeps s0 (State.readPlain s ag d host).1 := by
  unfold State.readPlain
  repeat' first
    | with_reducible assumption
    | with_reducible apply keeps_ite
    | split
    | with_reducible apply keeps_readDev
    | with_reducible refine keeps_foldl ?_ _ _ ?_
    | with_reducible refine keeps_foldl_fst ?_ _ _ ?_
    | fail_if_no_progress with_reducible apply keeps_mk
    | (intro _)

theorem keeps_readQnt {s0 : State} (ag : Agent) (m : Nat) (d : Desc) (host : List Host.Cell) (s : State) (hk : Keeps s0 s) : Keeps s0 (State.readQnt s ag m d host).1 := by
  unfold State.readQnt
  repeat' first
    | with_reducible assumption
    | with_reducible apply keeps_ite
    | split
    | with_reducible apply keeps_readBlocks

theorem keeps_storeBlock {s0 : State} (ag : Agent) (m : Nat) (d : Desc) (b : Nat) (flush : Bool) (l : List QElem) (s : State) (hk : Keeps s0 s) : Keeps s0 (State.storeBlock s ag m d b flush l).st := by
  unfold State.storeBlock
  repeat' first
    | with_reducible assumption
    | with_reducible apply keeps_ite
    | split
    | with_reducible apply keeps_writeDev
    | with_reducible apply keeps_count
    | with_reducible apply keeps_readDev
    | with_reducible refine keeps_foldl ?_ _ _ ?_
    | with_reducible refine keeps_foldl_fst ?_ _ _ ?_
    | fail_if_no_progress with_reducible apply keeps_mk
    | (intro _)
    | dsimp only

theorem keeps_wakeSpans {s0 : State} (ag : Agent) (write : Bool) (l : List (Nat × Nat)) (s : State) (hk : Keeps s0 s) : Keeps s0 (State.wakeSpans s ag write l) := by
  unfold State.wakeSpans
  repeat' first
    | with_reducible assumption
    | with_reducible apply keeps_ite
    | split
    | with_reducible apply keeps_wakeSpan
    | with_reducible refine keeps_foldl ?_ _ _ ?_
    | with_reducible refine keeps_foldl_fst ?_ _ _ ?_
    | fail_if_no_progress with_reducible apply keeps_mk
    | (intro _)

theorem keeps_writeBlock {s0 : State} (ag : Agent) (m : Nat) (d : Desc) (b : Nat) (flush : Bool) (l : List QElem) (s : State) (hk : Keeps s0 s) : Keeps s0 (State.writeBlock s ag m d b flush l).st := by
  unfold State.writeBlock
  repeat' first
    | with_reducible assumption
    | with_reducible apply keeps_ite
    | split
    | with_reducible apply keeps_setEsc
    | with_reducible apply keeps_storeBlock
    | with_reducible apply keeps_countEscapes
    | with_reducible refine keeps_foldl ?_ _ _ ?_
    | with_reducible refine keeps_foldl_fst ?_ _ _ ?_
    | fail_if_no_progress with_reducible apply keeps_mk
    | (intro _)

theorem keeps_writeRow {s0 : State} (ag : Agent) (f : Fmt) (a : Nat) (codes : List Nat) (s : State) (hk : Keeps s0 s) : Keeps s0 (State.writeRow s ag f a codes) := by
  unfold State.writeRow
  repeat' first
    | with_reducible assumption
    | with_reducible apply keeps_ite
    | split
    | with_reducible apply keeps_writeDev

theorem keeps_writePlain {s0 : State} (ag : Agent) (d : Desc) (codes : List Nat) (s : State) (hk : Keeps s0 s) : Keeps s0 (State.writePlain s ag d codes) := by
  unfold State.writePlain
  repeat' first
    | with_reducible assumption
    | with_reducible apply keeps_ite
    | split
    | with_reducible apply keeps_writeRow
    | with_reducible refine keeps_foldl ?_ _ _ ?_
    | with_reducible refine keeps_foldl_fst ?_ _ _ ?_
    | fail_if_no_progress with_reducible apply keeps_mk
    | (intro _)

end Sys2Proof.Machine
end

