-- ==== Sys2Proof/Laws/Keeps/Xfer.lean ====
section
/-! SUPPORT. What the operations of Machine/Xfer.lean keep. -/

namespace Sys2Proof.Machine

theorem keeps_quantise {s0 : State} (ag : Agent) (m : Nat) (slot : Nat) (d : Desc) (f : Fmt) (flush : Bool) (codes : List Nat) (s : State) (hk : Keeps s0 s) : Keeps s0 (State.quantise s ag m slot d f flush codes).1 := by
  unfold State.quantise
  repeat' first
    | with_reducible assumption
    | with_reducible apply keeps_ite
    | split
    | with_reducible apply keeps_writeBlock
    | with_reducible refine keeps_foldl ?_ _ _ ?_
    | with_reducible refine keeps_foldl_fst ?_ _ _ ?_
    | fail_if_no_progress with_reducible apply keeps_mk
    | (intro _)

theorem keeps_runXfer {s0 : State} (m : Nat) (info : CmdInfo) (d : Desc) (a : Desc) (flush : Bool) (host : List Host.Cell) (s : State) (hk : Keeps s0 s) : Keeps s0 (State.runXfer s m info d a flush host).st := by
  unfold State.runXfer
  repeat' first
    | with_reducible assumption
    | with_reducible apply keeps_ite
    | split
    | with_reducible apply keeps_writePlain
    | with_reducible apply keeps_readQnt
    | with_reducible apply keeps_readPlain
    | with_reducible apply keeps_flagTask
    | with_reducible apply keeps_setScale
    | with_reducible apply keeps_numbered
    | with_reducible apply keeps_quantise
    | with_reducible refine keeps_foldl ?_ _ _ ?_
    | with_reducible refine keeps_foldl_fst ?_ _ _ ?_
    | fail_if_no_progress with_reducible apply keeps_mk
    | (intro _)
    | dsimp only

theorem keeps_xferWake {s0 : State} (slot : Nat) (d : Desc) (a : Desc) (s : State) (hk : Keeps s0 s) : Keeps s0 (State.xferWake s slot d a) := by
  unfold State.xferWake
  repeat' first
    | with_reducible assumption
    | with_reducible apply keeps_ite
    | split
    | with_reducible apply keeps_wakeSpans

theorem keeps_xferComplete {s0 : State} (m : Nat) (index : Nat) (host : List Host.Cell) (s : State) (hk : Keeps s0 s) : Keeps s0 (State.xferComplete s m index host) := by
  unfold State.xferComplete
  repeat' first
    | with_reducible assumption
    | with_reducible apply keeps_ite
    | split
    | with_reducible apply keeps_xferWake
    | with_reducible apply keeps_setXfers
    | with_reducible apply keeps_runXfer
    | with_reducible apply keeps_settleAborts
    | with_reducible apply keeps_deferFault
    | with_reducible apply keeps_endCmd
    | with_reducible refine keeps_foldl ?_ _ _ ?_
    | with_reducible refine keeps_foldl_fst ?_ _ _ ?_
    | fail_if_no_progress with_reducible apply keeps_mk
    | (intro _)
    | dsimp only

theorem keeps_execXfer {s0 : State} (x : Nat) (d : TReg) (a : TReg) (b : SReg) (s : State) (hk : Keeps s0 s) : KeepsNext s0 (execXfer x d a b s) := by
  unfold execXfer
  repeat' first
    | with_reducible assumption
    | with_reducible apply keeps_ite
    | split
    | with_reducible apply keeps_issue
    | with_reducible apply keeps_numbered
    | with_reducible apply keeps_setXfers
    | with_reducible apply keepsIssue_fault
    | with_reducible apply keepsIssue_stay
    | with_reducible apply keepsIssue_go
    | with_reducible apply keepsIssue_leave
    | with_reducible apply keepsNext
    | with_reducible refine keeps_foldl ?_ _ _ ?_
    | with_reducible refine keeps_foldl_fst ?_ _ _ ?_
    | fail_if_no_progress with_reducible apply keeps_mk
    | (intro _)
    | dsimp only

theorem keeps_execXferComplete {s0 : State} (m : Nat) (index : Nat) (host : List Host.Cell) (s : State) (hk : Keeps s0 s) : KeepsNext s0 (execXferComplete m index host s) := by
  unfold execXferComplete
  repeat' first
    | with_reducible assumption
    | with_reducible apply keeps_ite
    | split
    | with_reducible apply keeps_xferComplete
    | with_reducible apply keepsNext

end Sys2Proof.Machine
end

