-- ==== Sys2Proof/Laws/Keeps/ArrayOps.lean ====
section
/-! SUPPORT. What the operations of Machine/ArrayOps.lean keep. -/

namespace Sys2Proof.Machine

theorem keeps_sourceWake {s0 : State} (c : MCmd) (s : State) (hk : Keeps s0 s) : Keeps s0 (State.sourceWake s c) := by
  unfold State.sourceWake
  repeat' first
    | with_reducible assumption
    | with_reducible apply keeps_ite
    | split
    | with_reducible apply keeps_wakeSpans

theorem keeps_readStreams {s0 : State} (u : Nat) (cfg : Nat) (l : List MCmd) (s : State) (hk : Keeps s0 s) : Keeps s0 (State.readStreams s u cfg l).1 := by
  unfold State.readStreams
  repeat' first
    | with_reducible assumption
    | with_reducible apply keeps_ite
    | split
    | with_reducible apply keeps_readPlain
    | with_reducible apply keeps_flagTask
    | with_reducible refine keeps_foldl ?_ _ _ ?_
    | with_reducible refine keeps_foldl_fst ?_ _ _ ?_
    | fail_if_no_progress with_reducible apply keeps_mk
    | (intro _)

theorem keeps_endM {s0 : State} (c : MCmd) (s : State) (hk : Keeps s0 s) : Keeps s0 (State.endM s c) := by
  unfold State.endM
  repeat' first
    | with_reducible assumption
    | with_reducible apply keeps_ite
    | split
    | with_reducible apply keeps_endCmd

theorem keeps_settle {s0 : State} (m : Nat) (u : Nat) (l2 : Nat) (l3 : State) (hk : Keeps s0 l3) : Keeps s0 (settle m u l2 l3) := by
  induction l2 generalizing m u l3 with
  | zero =>
    unfold settle
    repeat' first
      | with_reducible assumption
  | succ n ih =>
    unfold settle
    repeat' first
      | with_reducible assumption
      | with_reducible apply ih
      | with_reducible apply keeps_ite
      | split
      | with_reducible apply keeps_setEngine
      | with_reducible apply keeps_endCmd
      | with_reducible refine keeps_foldl ?_ _ _ ?_
      | with_reducible refine keeps_foldl_fst ?_ _ _ ?_
      | fail_if_no_progress with_reducible apply keeps_mk
      | (intro _)
      | dsimp only

theorem keeps_putEngine {s0 : State} (m : Nat) (u : Nat) (e : Engine) (s : State) (hk : Keeps s0 s) : Keeps s0 (State.putEngine s m u e) := by
  unfold State.putEngine
  repeat' first
    | with_reducible assumption
    | with_reducible apply keeps_ite
    | split
    | with_reducible apply keeps_settle
    | with_reducible apply keeps_setEngine

theorem keeps_chunkStreamEnd {s0 : State} (m : Nat) (u : Nat) (upsets : List ArrayUpset) (s : State) (hk : Keeps s0 s) : Keeps s0 (State.chunkStreamEnd s m u upsets) := by
  unfold State.chunkStreamEnd
  repeat' first
    | with_reducible assumption
    | with_reducible apply keeps_ite
    | split
    | with_reducible apply keeps_sourceWake
    | with_reducible apply keeps_readStreams
    | with_reducible apply keeps_flagTask
    | with_reducible apply keeps_endM
    | with_reducible apply keeps_putEngine
    | with_reducible refine keeps_foldl ?_ _ _ ?_
    | with_reducible refine keeps_foldl_fst ?_ _ _ ?_
    | fail_if_no_progress with_reducible apply keeps_mk
    | (intro _)

theorem keeps_compareSet {s0 : State} (m : Nat) (u : Nat) (s : State) (hk : Keeps s0 s) : Keeps s0 (State.compareSet s m u).1 := by
  unfold State.compareSet
  repeat' first
    | with_reducible assumption
    | with_reducible apply keeps_ite
    | split
    | with_reducible apply keeps_count
    | with_reducible apply keeps_setBit

theorem keeps_endDrain {s0 : State} (m : Nat) (u : Nat) (status : Nat) (clean : Bool) (s : State) (hk : Keeps s0 s) : Keeps s0 (State.endDrain s m u status clean) := by
  unfold State.endDrain
  repeat' first
    | with_reducible assumption
    | with_reducible apply keeps_ite
    | split
    | with_reducible apply keeps_setArray
    | with_reducible apply keeps_putEngine

theorem keeps_spoil {s0 : State} (slot : Nat) (d : Desc) (s : State) (hk : Keeps s0 s) : Keeps s0 (State.spoil s slot d) := by
  unfold State.spoil
  repeat' first
    | with_reducible assumption
    | with_reducible apply keeps_ite
    | split
    | with_reducible apply keeps_writePlain
    | with_reducible refine keeps_foldl ?_ _ _ ?_
    | with_reducible refine keeps_foldl_fst ?_ _ _ ?_
    | fail_if_no_progress with_reducible apply keeps_mk

theorem keeps_failDrain {s0 : State} (m : Nat) (u : Nat) (info : CmdInfo) (d : Desc) (s : State) (hk : Keeps s0 s) : Keeps s0 (State.failDrain s m u info d) := by
  unfold State.failDrain
  repeat' first
    | with_reducible assumption
    | with_reducible apply keeps_ite
    | split
    | with_reducible apply keeps_endDrain
    | with_reducible apply keeps_spoil
    | with_reducible apply keeps_landStage
    | with_reducible apply keeps_endCmd

theorem keeps_footEvent {s0 : State} (m : Nat) (cls : EvClass) (set : Bool) (replays : Nat) (quads : Nat) (s : State) (hk : Keeps s0 s) : Keeps s0 (State.footEvent s m cls set replays quads) := by
  unfold State.footEvent
  repeat' first
    | with_reducible assumption
    | with_reducible apply keeps_ite
    | split
    | with_reducible apply keeps_raise

theorem keeps_fenceQuads {s0 : State} (m : Nat) (quads : Nat) (s : State) (hk : Keeps s0 s) : Keeps s0 (State.fenceQuads s m quads) := by
  unfold State.fenceQuads
  repeat' first
    | with_reducible assumption
    | with_reducible apply keeps_ite
    | split
    | with_reducible apply keeps_setBit
    | with_reducible apply keeps_setFld

theorem keeps_mismatch {s0 : State} (m : Nat) (u : Nat) (info : CmdInfo) (d : Desc) (f : Footing) (s : State) (hk : Keeps s0 s) : Keeps s0 (State.mismatch s m u info d f) := by
  unfold State.mismatch
  repeat' first
    | with_reducible assumption
    | with_reducible apply keeps_ite
    | split
    | with_reducible apply keeps_count
    | with_reducible apply keeps_setBit
    | with_reducible apply keeps_wr
    | with_reducible apply keeps_setArray
    | with_reducible apply keeps_failDrain
    | with_reducible apply keeps_footEvent
    | with_reducible apply keeps_fenceQuads
    | with_reducible apply keeps_setEngine

theorem keeps_drainStats {s0 : State} (m : Nat) (u : Nat) (cfg : Nat) (t : SetSt) (cmd : Nat) (dscale : Nat) (func : Nat) (nrow : Nat) (ncol : Nat) (key : Nat) (s : State) (hk : Keeps s0 s) : Keeps s0 (State.drainStats s m u cfg t cmd dscale func nrow ncol key) := by
  unfold State.drainStats
  repeat' first
    | with_reducible assumption
    | with_reducible apply keeps_ite
    | split
    | with_reducible apply keeps_flagTask
    | with_reducible apply keeps_wr
    | with_reducible refine keeps_foldl ?_ _ _ ?_
    | with_reducible refine keeps_foldl_fst ?_ _ _ ?_
    | fail_if_no_progress with_reducible apply keeps_mk
    | (intro _)

theorem keeps_writeStats {s0 : State} (ag : Agent) (m : Nat) (u : Nat) (d : Desc) (s : State) (hk : Keeps s0 s) : Keeps s0 (State.writeStats s ag m u d) := by
  unfold State.writeStats
  repeat' first
    | with_reducible assumption
    | with_reducible apply keeps_ite
    | split
    | with_reducible apply keeps_writeDev

theorem keeps_drainOut {s0 : State} (m : Nat) (u : Nat) (cfg : Nat) (t : SetSt) (info : CmdInfo) (d : Desc) (cmd : Nat) (dscale : Nat) (func : Nat) (flush : Bool) (send : Bool) (s : State) (hk : Keeps s0 s) : Keeps s0 (State.drainOut s m u cfg t info d cmd dscale func flush send) := by
  unfold State.drainOut
  repeat' first
    | with_reducible assumption
    | with_reducible apply keeps_ite
    | split
    | with_reducible apply keeps_drainStats
    | with_reducible apply keeps_flagTask
    | with_reducible apply keeps_setBit
    | with_reducible apply keeps_numbered
    | with_reducible apply keeps_writePlain
    | with_reducible apply keeps_writeStats
    | with_reducible refine keeps_foldl ?_ _ _ ?_
    | with_reducible refine keeps_foldl_fst ?_ _ _ ?_
    | fail_if_no_progress with_reducible apply keeps_mk

theorem keeps_drainChecked {s0 : State} (m : Nat) (u : Nat) (info : CmdInfo) (d : Desc) (cmd : Nat) (dscale : Nat) (func : Nat) (flush : Bool) (s : State) (hk : Keeps s0 s) : Keeps s0 (State.drainChecked s m u info d cmd dscale func flush) := by
  unfold State.drainChecked
  repeat' first
    | with_reducible assumption
    | with_reducible apply keeps_ite
    | split
    | with_reducible apply keeps_compareSet
    | with_reducible apply keeps_mismatch
    | with_reducible apply keeps_footEvent
    | with_reducible apply keeps_count
    | with_reducible apply keeps_setBit
    | with_reducible apply keeps_drainOut
    | with_reducible apply keeps_endDrain
    | with_reducible apply keeps_endCmd

theorem keeps_drainComplete {s0 : State} (m : Nat) (u : Nat) (s : State) (hk : Keeps s0 s) : Keeps s0 (State.drainComplete s m u) := by
  unfold State.drainComplete
  repeat' first
    | with_reducible assumption
    | with_reducible apply keeps_ite
    | split
    | with_reducible apply keeps_drainChecked
    | with_reducible refine keeps_foldl ?_ _ _ ?_
    | with_reducible refine keeps_foldl_fst ?_ _ _ ?_
    | fail_if_no_progress with_reducible apply keeps_mk
    | (intro _)
    | dsimp only

theorem keeps_drainStart {s0 : State} (m : Nat) (u : Nat) (s : State) (hk : Keeps s0 s) : Keeps s0 (State.drainStart s m u) := by
  unfold State.drainStart
  repeat' first
    | with_reducible assumption
    | with_reducible apply keeps_ite
    | split
    | with_reducible apply keeps_wakeSpans
    | with_reducible apply keeps_putEngine
    | with_reducible apply keeps_drainOut
    | with_reducible refine keeps_foldl ?_ _ _ ?_
    | with_reducible refine keeps_foldl_fst ?_ _ _ ?_
    | fail_if_no_progress with_reducible apply keeps_mk
    | (intro _)
    | dsimp only

theorem keeps_footCtlWrite {s0 : State} (m : Nat) (v : Word) (s : State) (hk : Keeps s0 s) : Keeps s0 (State.footCtlWrite s m v) := by
  unfold State.footCtlWrite
  repeat' first
    | with_reducible assumption
    | with_reducible apply keeps_ite
    | split
    | with_reducible apply keeps_wr

theorem keeps_readTile {s0 : State} (u : Nat) (cfg : Nat) (c : MCmd) (s : State) (hk : Keeps s0 s) : Keeps s0 (State.readTile s u cfg c).1 := by
  unfold State.readTile
  repeat' first
    | with_reducible assumption
    | with_reducible apply keeps_ite
    | split
    | with_reducible apply keeps_readPlain
    | with_reducible apply keeps_flagTask

theorem keeps_mldsDone {s0 : State} (m : Nat) (u : Nat) (s : State) (hk : Keeps s0 s) : Keeps s0 (State.mldsDone s m u) := by
  unfold State.mldsDone
  repeat' first
    | with_reducible assumption
    | with_reducible apply keeps_ite
    | split
    | with_reducible apply keeps_sourceWake
    | with_reducible apply keeps_readTile
    | with_reducible apply keeps_endM
    | with_reducible apply keeps_putEngine
    | with_reducible refine keeps_foldl ?_ _ _ ?_
    | with_reducible refine keeps_foldl_fst ?_ _ _ ?_
    | fail_if_no_progress with_reducible apply keeps_mk
    | (intro _)
    | dsimp only

theorem keeps_mswapEffect {s0 : State} (m : Nat) (u : Nat) (s : State) (hk : Keeps s0 s) : Keeps s0 (State.mswapEffect s m u) := by
  unfold State.mswapEffect
  repeat' first
    | with_reducible assumption
    | with_reducible apply keeps_ite
    | split
    | with_reducible apply keeps_endCmd
    | with_reducible apply keeps_putEngine
    | with_reducible refine keeps_foldl ?_ _ _ ?_
    | with_reducible refine keeps_foldl_fst ?_ _ _ ?_
    | fail_if_no_progress with_reducible apply keeps_mk
    | (intro _)
    | dsimp only

theorem keeps_replayChunk {s0 : State} (m : Nat) (u : Nat) (set : Bool) (load : Option MCmd) (streams : List MCmd) (s : State) (hk : Keeps s0 s) : Keeps s0 (State.replayChunk s m u set load streams) := by
  unfold State.replayChunk
  repeat' first
    | with_reducible assumption
    | with_reducible apply keeps_ite
    | split
    | with_reducible apply keeps_readTile
    | with_reducible apply keeps_readStreams
    | with_reducible apply keeps_setEngine

theorem keeps_restoreStats {s0 : State} (m : Nat) (u : Nat) (l : List Word) (s : State) (hk : Keeps s0 s) : Keeps s0 (State.restoreStats s m u l) := by
  unfold State.restoreStats
  repeat' first
    | with_reducible assumption
    | with_reducible apply keeps_ite
    | split
    | with_reducible apply keeps_wr
    | with_reducible refine keeps_foldl ?_ _ _ ?_
    | with_reducible refine keeps_foldl_fst ?_ _ _ ?_
    | fail_if_no_progress with_reducible apply keeps_mk
    | (intro _)

theorem keeps_replayLog {s0 : State} (m : Nat) (u : Nat) (set : Bool) (l3 : List MCmd) (l4 : Option MCmd) (l5 : List MCmd) (l6 : State) (hk : Keeps s0 l6) : Keeps s0 (replayLog m u set l3 l4 l5 l6) := by
  induction l3 generalizing l4 l5 l6 with
  | nil =>
    unfold replayLog
    exact keeps_replayChunk _ _ _ _ _ _ hk
  | cons e r ih =>
    cases e <;> unfold replayLog <;> first
      | exact ih _ _ _ (keeps_replayChunk _ _ _ _ _ _ hk)
      | exact ih _ _ _ hk

theorem keeps_replayDone {s0 : State} (m : Nat) (u : Nat) (upsets : List ArrayUpset) (s : State) (hk : Keeps s0 s) : Keeps s0 (State.replayDone s m u upsets) := by
  unfold State.replayDone
  repeat' first
    | with_reducible assumption
    | with_reducible apply keeps_ite
    | split
    | with_reducible apply keeps_restoreStats
    | with_reducible apply keeps_count
    | with_reducible apply keeps_setEngine
    | with_reducible apply keeps_replayLog
    | with_reducible apply keeps_drainOut
    | with_reducible apply keeps_drainChecked
    | with_reducible refine keeps_foldl ?_ _ _ ?_
    | with_reducible refine keeps_foldl_fst ?_ _ _ ?_
    | fail_if_no_progress with_reducible apply keeps_mk
    | (intro _)
    | dsimp only

theorem keeps_selftestDone {s0 : State} (m : Nat) (u : Nat) (cells : List (Nat × Nat)) (s : State) (hk : Keeps s0 s) : Keeps s0 (State.selftestDone s m u cells) := by
  unfold State.selftestDone
  repeat' first
    | with_reducible assumption
    | with_reducible apply keeps_ite
    | split
    | with_reducible apply keeps_footEvent
    | with_reducible apply keeps_fenceQuads
    | with_reducible apply keeps_setArray
    | with_reducible apply keeps_failDrain
    | with_reducible refine keeps_foldl ?_ _ _ ?_
    | with_reducible refine keeps_foldl_fst ?_ _ _ ?_
    | fail_if_no_progress with_reducible apply keeps_mk
    | (intro _)
    | dsimp only

theorem keeps_execArraySelftestDone {s0 : State} (motif : Nat) (unit : Nat) (cells : List (Nat × Nat)) (s : State) (hk : Keeps s0 s) : KeepsNext s0 (execArraySelftestDone motif unit cells s) := by
  unfold execArraySelftestDone
  repeat' first
    | with_reducible assumption
    | with_reducible apply keeps_ite
    | split
    | with_reducible apply keeps_settleAborts
    | with_reducible apply keeps_selftestDone
    | with_reducible apply keepsNext

theorem keeps_execChunkStreamEnd {s0 : State} (motif : Nat) (unit : Nat) (upsets : List ArrayUpset) (s : State) (hk : Keeps s0 s) : KeepsNext s0 (execChunkStreamEnd motif unit upsets s) := by
  unfold execChunkStreamEnd
  repeat' first
    | with_reducible assumption
    | with_reducible apply keeps_ite
    | split
    | with_reducible apply keeps_settleAborts
    | with_reducible apply keeps_chunkStreamEnd
    | with_reducible apply keepsNext

theorem keeps_execDrainComplete {s0 : State} (motif : Nat) (unit : Nat) (s : State) (hk : Keeps s0 s) : KeepsNext s0 (execDrainComplete motif unit s) := by
  unfold execDrainComplete
  repeat' first
    | with_reducible assumption
    | with_reducible apply keeps_ite
    | split
    | with_reducible apply keeps_settleAborts
    | with_reducible apply keeps_drainComplete
    | with_reducible apply keepsNext

theorem keeps_execDrainStart {s0 : State} (motif : Nat) (unit : Nat) (s : State) (hk : Keeps s0 s) : KeepsNext s0 (execDrainStart motif unit s) := by
  unfold execDrainStart
  repeat' first
    | with_reducible assumption
    | with_reducible apply keeps_ite
    | split
    | with_reducible apply keeps_settleAborts
    | with_reducible apply keeps_drainStart
    | with_reducible apply keepsNext

theorem keeps_execMaFootCtlWrite {s0 : State} (motif : Nat) (v : Word) (s : State) (hk : Keeps s0 s) : KeepsNext s0 (execMaFootCtlWrite motif v s) := by
  unfold execMaFootCtlWrite
  repeat' first
    | with_reducible assumption
    | with_reducible apply keeps_ite
    | split
    | with_reducible apply keeps_footCtlWrite
    | with_reducible apply keepsNext

theorem keeps_execMldsDone {s0 : State} (motif : Nat) (unit : Nat) (s : State) (hk : Keeps s0 s) : KeepsNext s0 (execMldsDone motif unit s) := by
  unfold execMldsDone
  repeat' first
    | with_reducible assumption
    | with_reducible apply keeps_ite
    | split
    | with_reducible apply keeps_settleAborts
    | with_reducible apply keeps_mldsDone
    | with_reducible apply keepsNext

theorem keeps_execMswapEffect {s0 : State} (motif : Nat) (unit : Nat) (s : State) (hk : Keeps s0 s) : KeepsNext s0 (execMswapEffect motif unit s) := by
  unfold execMswapEffect
  repeat' first
    | with_reducible assumption
    | with_reducible apply keeps_ite
    | split
    | with_reducible apply keeps_settleAborts
    | with_reducible apply keeps_mswapEffect
    | with_reducible apply keepsNext

theorem keeps_execReplayDone {s0 : State} (motif : Nat) (unit : Nat) (upsets : List ArrayUpset) (s : State) (hk : Keeps s0 s) : KeepsNext s0 (execReplayDone motif unit upsets s) := by
  unfold execReplayDone
  repeat' first
    | with_reducible assumption
    | with_reducible apply keeps_ite
    | split
    | with_reducible apply keeps_settleAborts
    | with_reducible apply keeps_replayDone
    | with_reducible apply keepsNext

end Sys2Proof.Machine
end

