-- ==== Sys2Proof/Laws/Keeps/Matrix.lean ====
section
/-! SUPPORT. What the operations of Machine/Matrix.lean keep. -/

namespace Sys2Proof.Machine

theorem keeps_refuseMatrix {s0 : State} (x : Nat) (k : Nat) (t : Task) (i : Insn) (code : Code) (s : State) (hk : Keeps s0 s) : Keeps s0 (State.refuseMatrix s x k t i code) := by
  unfold State.refuseMatrix
  repeat' first
    | with_reducible assumption
    | with_reducible apply keeps_ite
    | split
    | with_reducible apply keeps_deferFault

theorem keeps_claimUnit {s0 : State} (m : Nat) (u : Nat) (k : Nat) (cfg : Nat) (s : State) (hk : Keeps s0 s) : Keeps s0 (State.claimUnit s m u k cfg) := by
  unfold State.claimUnit
  repeat' first
    | with_reducible assumption
    | with_reducible apply keeps_ite
    | split
    | with_reducible apply keeps_numbered
    | with_reducible apply keeps_setEngine

theorem keeps_claimNow {s0 : State} (x : Nat) (k : Nat) (t : Task) (i : Insn) (m : Nat) (u : Nat) (cfg : Nat) (s : State) (hk : Keeps s0 s) : Keeps s0 (State.claimNow s x k t i m u cfg).1 := by
  unfold State.claimNow
  repeat' first
    | with_reducible assumption
    | with_reducible apply keeps_ite
    | split
    | with_reducible apply keeps_refuseMatrix
    | with_reducible apply keeps_putEngine
    | with_reducible apply keeps_setTask
    | with_reducible apply keeps_numbered
    | with_reducible apply keeps_claimUnit

theorem keeps_claimGrant {s0 : State} (x : Nat) (s : State) (hk : Keeps s0 s) : Keeps s0 (State.claimGrant s x) := by
  unfold State.claimGrant
  repeat' first
    | with_reducible assumption
    | with_reducible apply keeps_ite
    | split
    | with_reducible apply keeps_claimNow
    | with_reducible apply keeps_setContext
    | with_reducible apply keeps_setTask
    | with_reducible refine keeps_foldl ?_ _ _ ?_
    | with_reducible refine keeps_foldl_fst ?_ _ _ ?_
    | fail_if_no_progress with_reducible apply keeps_mk
    | (intro _)
    | dsimp only

theorem keeps_execArrayClaimGrant {s0 : State} (x : Nat) (s : State) (hk : Keeps s0 s) : KeepsNext s0 (execArrayClaimGrant x s) := by
  unfold execArrayClaimGrant
  repeat' first
    | with_reducible assumption
    | with_reducible apply keeps_ite
    | split
    | with_reducible apply keeps_claimGrant
    | with_reducible apply keepsNext

theorem keeps_execMcfg {s0 : State} (x : Nat) (a : SReg) (quad : Bool) (q : Fin 4) (s : State) (hk : Keeps s0 s) : KeepsNext s0 (execMcfg x a quad q s) := by
  unfold execMcfg
  repeat' first
    | with_reducible assumption
    | with_reducible apply keeps_ite
    | split
    | with_reducible apply keeps_issue
    | with_reducible apply keeps_refuseMatrix
    | with_reducible apply keeps_claimNow
    | with_reducible apply keepsIssue_fault
    | with_reducible apply keepsIssue_stay
    | with_reducible apply keepsIssue_go
    | with_reducible apply keepsIssue_leave
    | with_reducible apply keepsNext
    | with_reducible refine keeps_foldl ?_ _ _ ?_
    | with_reducible refine keeps_foldl_fst ?_ _ _ ?_
    | fail_if_no_progress with_reducible apply keeps_mk
    | (intro _)
    | dsimp only

theorem keeps_execMcfgRel {s0 : State} (x : Nat) (quad : Bool) (q : Fin 4) (s : State) (hk : Keeps s0 s) : KeepsNext s0 (execMcfgRel x quad q s) := by
  unfold execMcfgRel
  repeat' first
    | with_reducible assumption
    | with_reducible apply keeps_ite
    | split
    | with_reducible apply keeps_issue
    | with_reducible apply keeps_refuseMatrix
    | with_reducible apply keeps_endClaim
    | with_reducible apply keepsIssue_fault
    | with_reducible apply keepsIssue_stay
    | with_reducible apply keepsIssue_go
    | with_reducible apply keepsIssue_leave
    | with_reducible apply keepsNext
    | with_reducible refine keeps_foldl ?_ _ _ ?_
    | with_reducible refine keeps_foldl_fst ?_ _ _ ?_
    | fail_if_no_progress with_reducible apply keeps_mk
    | (intro _)
    | dsimp only

theorem keeps_mchkIssue {s0 : State} (x : Nat) (q : Nat) (i : Insn) (body : State → Nat → Task → Nat → Issue) (k : Nat) (t : Task) (s : State) (hk : Keeps s0 s) (h_body : ∀ y0 y1 y2 y3, Keeps s0 y0 → KeepsIssue s0 (body y0 y1 y2 y3)) : KeepsIssue s0 (mchkIssue x q i body s k t) := by
  unfold mchkIssue
  repeat' first
    | with_reducible assumption
    | with_reducible apply keeps_ite
    | split
    | with_reducible apply keeps_refuseMatrix
    | with_reducible apply keepsIssue_fault
    | with_reducible apply keepsIssue_stay
    | with_reducible apply keepsIssue_go
    | with_reducible apply keepsIssue_leave
    | with_reducible apply h_body
    | with_reducible refine keeps_foldl ?_ _ _ ?_
    | with_reducible refine keeps_foldl_fst ?_ _ _ ?_
    | fail_if_no_progress with_reducible apply keeps_mk
    | (intro _)
    | dsimp only

theorem keeps_execMchk {s0 : State} (x : Nat) (d : SReg) (q : Fin 4) (s : State) (hk : Keeps s0 s) : KeepsNext s0 (execMchk x d q s) := by
  unfold execMchk
  repeat' first
    | with_reducible assumption
    | with_reducible apply keeps_ite
    | split
    | with_reducible apply keeps_issue
    | with_reducible apply keeps_mchkIssue
    | with_reducible apply keepsIssue_fault
    | with_reducible apply keepsIssue_stay
    | with_reducible apply keepsIssue_go
    | with_reducible apply keepsIssue_leave
    | with_reducible apply keepsNext
    | with_reducible refine keeps_foldl ?_ _ _ ?_
    | with_reducible refine keeps_foldl_fst ?_ _ _ ?_
    | fail_if_no_progress with_reducible apply keeps_mk
    | (intro _)

theorem keeps_execMchkSelftest {s0 : State} (x : Nat) (d : SReg) (q : Fin 4) (cells : List (Nat × Nat)) (s : State) (hk : Keeps s0 s) : KeepsNext s0 (execMchkSelftest x d q cells s) := by
  unfold execMchkSelftest
  repeat' first
    | with_reducible assumption
    | with_reducible apply keeps_ite
    | split
    | with_reducible apply keeps_issue
    | with_reducible apply keeps_mchkIssue
    | with_reducible apply keeps_refuseMatrix
    | with_reducible apply keeps_footEvent
    | with_reducible apply keeps_fenceQuads
    | with_reducible apply keepsIssue_fault
    | with_reducible apply keepsIssue_stay
    | with_reducible apply keepsIssue_go
    | with_reducible apply keepsIssue_leave
    | with_reducible apply keepsNext
    | with_reducible refine keeps_foldl ?_ _ _ ?_
    | with_reducible refine keeps_foldl_fst ?_ _ _ ?_
    | fail_if_no_progress with_reducible apply keeps_mk
    | (intro _)
    | dsimp only

theorem keeps_matrixIssue {s0 : State} (x : Nat) (q : Nat) (i : Insn) (tid : Nat) (word : Nat) (check : State → Nat → Option Code) (make : CmdInfo → MCmd) (load : Bool) (refuses : Bool) (k : Nat) (t : Task) (s : State) (hk : Keeps s0 s) : KeepsIssue s0 (matrixIssue x q i tid word check make load refuses s k t) := by
  unfold matrixIssue
  repeat' first
    | with_reducible assumption
    | with_reducible apply keeps_ite
    | split
    | with_reducible apply keeps_deferFault
    | with_reducible apply keeps_putEngine
    | with_reducible apply keeps_setTask
    | with_reducible apply keeps_numbered
    | with_reducible apply keepsIssue_fault
    | with_reducible apply keepsIssue_stay
    | with_reducible apply keepsIssue_go
    | with_reducible apply keepsIssue_leave
    | with_reducible apply h_check
    | with_reducible refine keeps_foldl ?_ _ _ ?_
    | with_reducible refine keeps_foldl_fst ?_ _ _ ?_
    | fail_if_no_progress with_reducible apply keeps_mk
    | (intro _)
    | dsimp only

theorem keeps_execMdrn {s0 : State} (x : Nat) (d : TReg) (a : SReg) (b : SReg) (func : BitVec 9) (s : State) (hk : Keeps s0 s) : KeepsNext s0 (execMdrn x d a b func s) := by
  unfold execMdrn
  repeat' first
    | with_reducible assumption
    | with_reducible apply keeps_ite
    | split
    | with_reducible apply keeps_issue
    | with_reducible apply keeps_matrixIssue
    | with_reducible apply keepsIssue_fault
    | with_reducible apply keepsIssue_stay
    | with_reducible apply keepsIssue_go
    | with_reducible apply keepsIssue_leave
    | with_reducible apply keepsNext
    | with_reducible refine keeps_foldl ?_ _ _ ?_
    | with_reducible refine keeps_foldl_fst ?_ _ _ ?_
    | fail_if_no_progress with_reducible apply keeps_mk
    | (intro _)
    | dsimp only

theorem keeps_execMlds {s0 : State} (x : Nat) (a : TReg) (b : SReg) (tr : Bool) (q : Fin 4) (s : State) (hk : Keeps s0 s) : KeepsNext s0 (execMlds x a b tr q s) := by
  unfold execMlds
  repeat' first
    | with_reducible assumption
    | with_reducible apply keeps_ite
    | split
    | with_reducible apply keeps_issue
    | with_reducible apply keeps_matrixIssue
    | with_reducible apply keepsIssue_fault
    | with_reducible apply keepsIssue_stay
    | with_reducible apply keepsIssue_go
    | with_reducible apply keepsIssue_leave
    | with_reducible apply keepsNext
    | with_reducible refine keeps_foldl ?_ _ _ ?_
    | with_reducible refine keeps_foldl_fst ?_ _ _ ?_
    | fail_if_no_progress with_reducible apply keeps_mk
    | (intro _)
    | dsimp only

theorem keeps_execMpass {s0 : State} (x : Nat) (n : BitVec 2) (q : Fin 4) (s : State) (hk : Keeps s0 s) : KeepsNext s0 (execMpass x n q s) := by
  unfold execMpass
  repeat' first
    | with_reducible assumption
    | with_reducible apply keeps_ite
    | split
    | with_reducible apply keeps_issue
    | with_reducible apply keeps_matrixIssue
    | with_reducible apply keepsIssue_fault
    | with_reducible apply keepsIssue_stay
    | with_reducible apply keepsIssue_go
    | with_reducible apply keepsIssue_leave
    | with_reducible apply keepsNext
    | with_reducible refine keeps_foldl ?_ _ _ ?_
    | with_reducible refine keeps_foldl_fst ?_ _ _ ?_
    | fail_if_no_progress with_reducible apply keeps_mk
    | (intro _)

theorem keeps_execMstr {s0 : State} (x : Nat) (a : TReg) (b : SReg) (tr : Bool) (q : Fin 4) (c0 : BitVec 7) (s : State) (hk : Keeps s0 s) : KeepsNext s0 (execMstr x a b tr q c0 s) := by
  unfold execMstr
  repeat' first
    | with_reducible assumption
    | with_reducible apply keeps_ite
    | split
    | with_reducible apply keeps_issue
    | with_reducible apply keeps_matrixIssue
    | with_reducible apply keepsIssue_fault
    | with_reducible apply keepsIssue_stay
    | with_reducible apply keepsIssue_go
    | with_reducible apply keepsIssue_leave
    | with_reducible apply keepsNext
    | with_reducible refine keeps_foldl ?_ _ _ ?_
    | with_reducible refine keeps_foldl_fst ?_ _ _ ?_
    | fail_if_no_progress with_reducible apply keeps_mk
    | (intro _)
    | dsimp only

theorem keeps_execMswap {s0 : State} (x : Nat) (q : Fin 4) (s : State) (hk : Keeps s0 s) : KeepsNext s0 (execMswap x q s) := by
  unfold execMswap
  repeat' first
    | with_reducible assumption
    | with_reducible apply keeps_ite
    | split
    | with_reducible apply keeps_issue
    | with_reducible apply keeps_matrixIssue
    | with_reducible apply keepsIssue_fault
    | with_reducible apply keepsIssue_stay
    | with_reducible apply keepsIssue_go
    | with_reducible apply keepsIssue_leave
    | with_reducible apply keepsNext
    | with_reducible refine keeps_foldl ?_ _ _ ?_
    | with_reducible refine keeps_foldl_fst ?_ _ _ ?_
    | fail_if_no_progress with_reducible apply keeps_mk
    | (intro _)

end Sys2Proof.Machine
end

