-- ==== Sys2Proof/Laws/Keeps/Tasks.lean ====
section
/-! SUPPORT. What the operations of Machine/Tasks.lean keep. -/

namespace Sys2Proof.Machine

theorem keeps_deferredReport {s0 : State} (index : Nat) (s : State) (hk : Keeps s0 s) : Keeps s0 (State.deferredReport s index) := by
  unfold State.deferredReport
  repeat' first
    | with_reducible assumption
    | with_reducible apply keeps_ite
    | split
    | with_reducible apply keeps_writeExc
    | with_reducible apply keeps_setContext
    | with_reducible apply keeps_taskFault
    | with_reducible refine keeps_foldl ?_ _ _ ?_
    | with_reducible refine keeps_foldl_fst ?_ _ _ ?_
    | fail_if_no_progress with_reducible apply keeps_mk

theorem keeps_resume {s0 : State} (x : Nat) (k : Nat) (t : Task) (s : State) (hk : Keeps s0 s) : Keeps s0 (State.resume s x k t) := by
  unfold State.resume
  repeat' first
    | with_reducible assumption
    | with_reducible apply keeps_ite
    | split
    | with_reducible apply keeps_setContext
    | with_reducible apply keeps_setTask

theorem keeps_fenceRelease {s0 : State} (x : Nat) (s : State) (hk : Keeps s0 s) : Keeps s0 (State.fenceRelease s x) := by
  unfold State.fenceRelease
  repeat' first
    | with_reducible assumption
    | with_reducible apply keeps_ite
    | split
    | with_reducible apply keeps_resume
    | with_reducible apply keeps_endTask

theorem keeps_placeTask {s0 : State} (m : Nat) (slot : Nat) (parent : Nat) (request : Option Nat) (w : List Word) (s : State) (hk : Keeps s0 s) : Keeps s0 (State.placeTask s m slot parent request w).1 := by
  unfold State.placeTask
  repeat' first
    | with_reducible assumption
    | with_reducible apply keeps_ite
    | split
    | with_reducible apply keeps_newTask
    | with_reducible apply keeps_setTask
    | with_reducible apply keeps_setQueue
    | with_reducible refine keeps_foldl ?_ _ _ ?_
    | with_reducible refine keeps_foldl_fst ?_ _ _ ?_
    | fail_if_no_progress with_reducible apply keeps_mk
    | (intro _)
    | dsimp only

theorem keeps_saveFull {s0 : State} (slot : Nat) (s : State) (hk : Keeps s0 s) : Keeps s0 (State.saveFull s slot) := by
  unfold State.saveFull
  repeat' first
    | with_reducible assumption
    | with_reducible apply keeps_ite
    | split
    | with_reducible apply keeps_count

theorem keeps_saveTask {s0 : State} (x : Nat) (k : Nat) (i : Nat) (s : State) (hk : Keeps s0 s) : Keeps s0 (State.saveTask s x k i) := by
  unfold State.saveTask
  repeat' first
    | with_reducible assumption
    | with_reducible apply keeps_ite
    | split
    | with_reducible apply keeps_drawBytes
    | with_reducible apply keeps_writeDev
    | with_reducible apply keeps_numbered
    | with_reducible apply keeps_setTask
    | with_reducible apply keeps_setQueue
    | with_reducible apply keeps_freeContext

theorem keeps_takeToken {s0 : State} (a : Nat) (n : Nat) (s : State) (hk : Keeps s0 s) : Keeps s0 (State.takeToken s a n).2 := by
  unfold State.takeToken
  repeat' first
    | with_reducible assumption
    | with_reducible apply keeps_ite
    | split
    | with_reducible apply keeps_setToken

theorem keeps_wakeToken {s0 : State} (a : Nat) (s : State) (hk : Keeps s0 s) : Keeps s0 (State.wakeToken s a) := by
  unfold State.wakeToken
  repeat' first
    | with_reducible assumption
    | with_reducible apply keeps_ite
    | split
    | with_reducible apply keeps_takeToken
    | with_reducible apply keeps_setToken
    | with_reducible apply keeps_resume

theorem keeps_execDeferredFaultReport {s0 : State} (index : Nat) (s : State) (hk : Keeps s0 s) : KeepsNext s0 (execDeferredFaultReport index s) := by
  unfold execDeferredFaultReport
  repeat' first
    | with_reducible assumption
    | with_reducible apply keeps_ite
    | split
    | with_reducible apply keeps_deferredReport
    | with_reducible apply keepsNext

theorem keeps_fenceIssue {s0 : State} (x : Nat) (stores : Bool) (commands : Bool) (s : State) (hk : Keeps s0 s) : Keeps s0 (fenceIssue x stores commands s) := by
  unfold fenceIssue
  repeat' first
    | with_reducible assumption
    | with_reducible apply keeps_ite
    | split
    | with_reducible apply keeps_issue
    | with_reducible apply keepsIssue_fault
    | with_reducible apply keepsIssue_stay
    | with_reducible apply keepsIssue_go
    | with_reducible apply keepsIssue_leave
    | with_reducible refine keeps_foldl ?_ _ _ ?_
    | with_reducible refine keeps_foldl_fst ?_ _ _ ?_
    | fail_if_no_progress with_reducible apply keeps_mk
    | (intro _)

theorem keeps_execFenceCommands {s0 : State} (x : Nat) (s : State) (hk : Keeps s0 s) : KeepsNext s0 (execFenceCommands x s) := by
  unfold execFenceCommands
  repeat' first
    | with_reducible assumption
    | with_reducible apply keeps_ite
    | split
    | with_reducible apply keeps_fenceIssue
    | with_reducible apply keepsNext

theorem keeps_execFenceRelease {s0 : State} (x : Nat) (s : State) (hk : Keeps s0 s) : KeepsNext s0 (execFenceRelease x s) := by
  unfold execFenceRelease
  repeat' first
    | with_reducible assumption
    | with_reducible apply keeps_ite
    | split
    | with_reducible apply keeps_fenceRelease
    | with_reducible apply keepsNext

theorem keeps_execFenceStores {s0 : State} (x : Nat) (commands : Bool) (s : State) (hk : Keeps s0 s) : KeepsNext s0 (execFenceStores x commands s) := by
  unfold execFenceStores
  repeat' first
    | with_reducible assumption
    | with_reducible apply keeps_ite
    | split
    | with_reducible apply keeps_fenceIssue
    | with_reducible apply keepsNext

theorem keeps_haltIssue {s0 : State} (x : Nat) (stepEnd : Bool) (s : State) (hk : Keeps s0 s) : Keeps s0 (haltIssue x stepEnd s) := by
  unfold haltIssue
  repeat' first
    | with_reducible assumption
    | with_reducible apply keeps_ite
    | split
    | with_reducible apply keeps_issue
    | with_reducible apply keeps_endTask
    | with_reducible apply keepsIssue_fault
    | with_reducible apply keepsIssue_stay
    | with_reducible apply keepsIssue_go
    | with_reducible apply keepsIssue_leave
    | with_reducible refine keeps_foldl ?_ _ _ ?_
    | with_reducible refine keeps_foldl_fst ?_ _ _ ?_
    | fail_if_no_progress with_reducible apply keeps_mk
    | (intro _)

theorem keeps_execHalt {s0 : State} (x : Nat) (s : State) (hk : Keeps s0 s) : KeepsNext s0 (execHalt x s) := by
  unfold execHalt
  repeat' first
    | with_reducible assumption
    | with_reducible apply keeps_ite
    | split
    | with_reducible apply keeps_haltIssue
    | with_reducible apply keepsNext

theorem keeps_execSpawn {s0 : State} (x : Nat) (d : SReg) (a : VReg) (s : State) (hk : Keeps s0 s) : KeepsNext s0 (execSpawn x d a s) := by
  unfold execSpawn
  repeat' first
    | with_reducible assumption
    | with_reducible apply keeps_ite
    | split
    | with_reducible apply keeps_issue
    | with_reducible apply keeps_placeTask
    | with_reducible apply keepsIssue_fault
    | with_reducible apply keepsIssue_stay
    | with_reducible apply keepsIssue_go
    | with_reducible apply keepsIssue_leave
    | with_reducible apply keepsNext
    | with_reducible refine keeps_foldl ?_ _ _ ?_
    | with_reducible refine keeps_foldl_fst ?_ _ _ ?_
    | fail_if_no_progress with_reducible apply keeps_mk
    | (intro _)

theorem keeps_execStepend {s0 : State} (x : Nat) (s : State) (hk : Keeps s0 s) : KeepsNext s0 (execStepend x s) := by
  unfold execStepend
  repeat' first
    | with_reducible assumption
    | with_reducible apply keeps_ite
    | split
    | with_reducible apply keeps_haltIssue
    | with_reducible apply keepsNext

theorem keeps_execStok {s0 : State} (x : Nat) (a : SReg) (n : BitVec 8) (s : State) (hk : Keeps s0 s) : KeepsNext s0 (execStok x a n s) := by
  unfold execStok
  repeat' first
    | with_reducible assumption
    | with_reducible apply keeps_ite
    | split
    | with_reducible apply keeps_issue
    | with_reducible apply keeps_applyAdds
    | with_reducible apply keepsIssue_fault
    | with_reducible apply keepsIssue_stay
    | with_reducible apply keepsIssue_go
    | with_reducible apply keepsIssue_leave
    | with_reducible apply keepsNext
    | with_reducible refine keeps_foldl ?_ _ _ ?_
    | with_reducible refine keeps_foldl_fst ?_ _ _ ?_
    | fail_if_no_progress with_reducible apply keeps_mk
    | (intro _)
    | dsimp only

theorem keeps_execWtok {s0 : State} (x : Nat) (d : SReg) (a : SReg) (n : BitVec 8) (s : State) (hk : Keeps s0 s) : KeepsNext s0 (execWtok x d a n s) := by
  unfold execWtok
  repeat' first
    | with_reducible assumption
    | with_reducible apply keeps_ite
    | split
    | with_reducible apply keeps_issue
    | with_reducible apply keeps_takeToken
    | with_reducible apply keeps_setToken
    | with_reducible apply keepsIssue_fault
    | with_reducible apply keepsIssue_stay
    | with_reducible apply keepsIssue_go
    | with_reducible apply keepsIssue_leave
    | with_reducible apply keepsNext
    | with_reducible refine keeps_foldl ?_ _ _ ?_
    | with_reducible refine keeps_foldl_fst ?_ _ _ ?_
    | fail_if_no_progress with_reducible apply keeps_mk
    | (intro _)
    | dsimp only

theorem keeps_execWtokPeek {s0 : State} (x : Nat) (d : SReg) (a : SReg) (s : State) (hk : Keeps s0 s) : KeepsNext s0 (execWtokPeek x d a s) := by
  unfold execWtokPeek
  repeat' first
    | with_reducible assumption
    | with_reducible apply keeps_ite
    | split
    | with_reducible apply keeps_issue
    | with_reducible apply keepsIssue_fault
    | with_reducible apply keepsIssue_stay
    | with_reducible apply keepsIssue_go
    | with_reducible apply keepsIssue_leave
    | with_reducible apply keepsNext
    | with_reducible refine keeps_foldl ?_ _ _ ?_
    | with_reducible refine keeps_foldl_fst ?_ _ _ ?_
    | fail_if_no_progress with_reducible apply keeps_mk
    | (intro _)

theorem keeps_execWtokWake {s0 : State} (token : Nat) (s : State) (hk : Keeps s0 s) : KeepsNext s0 (execWtokWake token s) := by
  unfold execWtokWake
  repeat' first
    | with_reducible assumption
    | with_reducible apply keeps_ite
    | split
    | with_reducible apply keeps_wakeToken
    | with_reducible apply keepsNext

theorem keeps_execYield {s0 : State} (x : Nat) (s : State) (hk : Keeps s0 s) : KeepsNext s0 (execYield x s) := by
  unfold execYield
  repeat' first
    | with_reducible assumption
    | with_reducible apply keeps_ite
    | split
    | with_reducible apply keeps_issue
    | with_reducible apply keeps_saveFull
    | with_reducible apply keeps_saveTask
    | with_reducible apply keeps_setTask
    | with_reducible apply keepsIssue_fault
    | with_reducible apply keepsIssue_stay
    | with_reducible apply keepsIssue_go
    | with_reducible apply keepsIssue_leave
    | with_reducible apply keepsNext
    | with_reducible refine keeps_foldl ?_ _ _ ?_
    | with_reducible refine keeps_foldl_fst ?_ _ _ ?_
    | fail_if_no_progress with_reducible apply keeps_mk
    | (intro _)

end Sys2Proof.Machine
end

