-- ==== Sys2Proof/Laws/Keeps/Sched.lean ====
section
/-! SUPPORT. What the operations of Machine/Sched.lean keep. -/

namespace Sys2Proof.Machine

theorem keeps_withdraw {s0 : State} (k : Nat) (s : State) (hk : Keeps s0 s) : Keeps s0 (State.withdraw s k) := by
  unfold State.withdraw
  repeat' first
    | with_reducible assumption
    | with_reducible apply keeps_ite
    | split
    | with_reducible apply keeps_dropWaiter
    | with_reducible apply keeps_setTask

theorem keeps_remakeClaims {s0 : State} (m : Nat) (k : Nat) (l : List SavedClaim) (s : State) (hk : Keeps s0 s) : Keeps s0 (State.remakeClaims s m k l) := by
  unfold State.remakeClaims
  repeat' first
    | with_reducible assumption
    | with_reducible apply keeps_ite
    | split
    | with_reducible apply keeps_claimUnit
    | with_reducible apply keeps_restoreStats
    | with_reducible apply keeps_setEngine
    | with_reducible refine keeps_foldl ?_ _ _ ?_
    | with_reducible refine keeps_foldl_fst ?_ _ _ ?_
    | fail_if_no_progress with_reducible apply keeps_mk
    | (intro _)

theorem keeps_takeRec {s0 : State} (x : Nat) (k : Nat) (s : State) (hk : Keeps s0 s) : Keeps s0 (State.takeRec s x k) := by
  unfold State.takeRec
  repeat' first
    | with_reducible assumption
    | with_reducible apply keeps_ite
    | split
    | with_reducible apply keeps_setCore
    | with_reducible apply keeps_remakeClaims
    | with_reducible apply keeps_numbered
    | with_reducible apply keeps_setTask
    | with_reducible apply keeps_setContext
    | with_reducible refine keeps_foldl ?_ _ _ ?_
    | with_reducible refine keeps_foldl_fst ?_ _ _ ?_
    | fail_if_no_progress with_reducible apply keeps_mk

theorem keeps_dispatch {s0 : State} (x : Nat) (s : State) (hk : Keeps s0 s) : Keeps s0 (State.dispatch s x) := by
  unfold State.dispatch
  repeat' first
    | with_reducible assumption
    | with_reducible apply keeps_ite
    | split
    | with_reducible apply keeps_feedQueues
    | with_reducible apply keeps_takeRec

theorem keeps_autoYield {s0 : State} (x : Nat) (s : State) (hk : Keeps s0 s) : Keeps s0 (State.autoYield s x) := by
  unfold State.autoYield
  repeat' first
    | with_reducible assumption
    | with_reducible apply keeps_ite
    | split
    | with_reducible apply keeps_saveFull
    | with_reducible apply keeps_count
    | with_reducible apply keeps_saveTask
    | with_reducible apply keeps_withdraw
    | with_reducible apply keeps_dispatch

theorem keeps_evict {s0 : State} (m : Nat) (s : State) (hk : Keeps s0 s) : Keeps s0 (State.evict s m) := by
  unfold State.evict
  repeat' first
    | with_reducible assumption
    | with_reducible apply keeps_ite
    | split
    | with_reducible apply keeps_saveFull
    | with_reducible apply keeps_takeRec
    | with_reducible apply keeps_count
    | with_reducible apply keeps_saveTask

theorem keeps_steal {s0 : State} (x : Nat) (s : State) (hk : Keeps s0 s) : Keeps s0 (State.steal s x) := by
  unfold State.steal
  repeat' first
    | with_reducible assumption
    | with_reducible apply keeps_ite
    | split
    | with_reducible apply keeps_feedQueues
    | with_reducible apply keeps_count
    | with_reducible apply keeps_takeRec
    | with_reducible apply keeps_setTask

theorem keeps_execAutoYield {s0 : State} (x : Nat) (s : State) (hk : Keeps s0 s) : KeepsNext s0 (execAutoYield x s) := by
  unfold execAutoYield
  repeat' first
    | with_reducible assumption
    | with_reducible apply keeps_ite
    | split
    | with_reducible apply keeps_autoYield
    | with_reducible apply keepsNext

theorem keeps_execServeEviction {s0 : State} (motif : Nat) (s : State) (hk : Keeps s0 s) : KeepsNext s0 (execServeEviction motif s) := by
  unfold execServeEviction
  repeat' first
    | with_reducible assumption
    | with_reducible apply keeps_ite
    | split
    | with_reducible apply keeps_evict
    | with_reducible apply keepsNext

theorem keeps_execSteal {s0 : State} (x : Nat) (s : State) (hk : Keeps s0 s) : KeepsNext s0 (execSteal x s) := by
  unfold execSteal
  repeat' first
    | with_reducible assumption
    | with_reducible apply keeps_ite
    | split
    | with_reducible apply keeps_steal
    | with_reducible apply keepsNext

theorem keeps_execTaskDispatch {s0 : State} (x : Nat) (s : State) (hk : Keeps s0 s) : KeepsNext s0 (execTaskDispatch x s) := by
  unfold execTaskDispatch
  repeat' first
    | with_reducible assumption
    | with_reducible apply keeps_ite
    | split
    | with_reducible apply keeps_dispatch
    | with_reducible apply keepsNext

end Sys2Proof.Machine
end

