-- ==== Sys2Proof/Laws/Keeps/Fabric.lean ====
section
/-! SUPPORT. What the operations of Machine/Fabric.lean keep. -/

namespace Sys2Proof.Machine

theorem keeps_sendLoose {s0 : State} (hf : Nat) (slot : Nat) (k : GftPacket) (s : State) (hk : Keeps s0 s) : Keeps s0 (State.sendLoose s hf slot k) := by
  unfold State.sendLoose
  repeat' first
    | with_reducible assumption
    | with_reducible apply keeps_ite
    | split
    | with_reducible apply keeps_transmit

theorem keeps_setConn {s0 : State} (c : Conn) (s : State) (hk : Keeps s0 s) : Keeps s0 (State.setConn s c) := by
  unfold State.setConn
  repeat' first
    | with_reducible assumption
    | with_reducible apply keeps_ite
    | split
    | with_reducible refine keeps_foldl ?_ _ _ ?_
    | with_reducible refine keeps_foldl_fst ?_ _ _ ?_
    | fail_if_no_progress with_reducible apply keeps_mk

theorem keeps_sendAck {s0 : State} (c : Conn) (s : State) (hk : Keeps s0 s) : Keeps s0 (State.sendAck s c) := by
  unfold State.sendAck
  repeat' first
    | with_reducible assumption
    | with_reducible apply keeps_ite
    | split
    | with_reducible apply keeps_sendLoose
    | with_reducible apply keeps_setConn

theorem keeps_ackDelay {s0 : State} (id : Nat) (s : State) (hk : Keeps s0 s) : Keeps s0 (State.ackDelay s id) := by
  unfold State.ackDelay
  repeat' first
    | with_reducible assumption
    | with_reducible apply keeps_ite
    | split
    | with_reducible apply keeps_sendAck

theorem keeps_pump {s0 : State} (id : Nat) (l2 : Nat) (s : State) (hk : Keeps s0 s) : Keeps s0 (State.pump s id l2) := by
  induction l2 generalizing s id with
  | zero =>
    unfold State.pump
    repeat' first
      | with_reducible assumption
  | succ n ih =>
    unfold State.pump
    repeat' first
      | with_reducible assumption
      | with_reducible apply ih
      | with_reducible apply keeps_ite
      | split
      | with_reducible apply keeps_numbered
      | with_reducible apply keeps_stallTag
      | with_reducible apply keeps_takeTag
      | with_reducible apply keeps_setConn
      | with_reducible apply keeps_transmit

theorem keeps_pumpAll {s0 : State} (id : Nat) (s : State) (hk : Keeps s0 s) : Keeps s0 (State.pumpAll s id) := by
  unfold State.pumpAll
  repeat' first
    | with_reducible assumption
    | with_reducible apply keeps_ite
    | split
    | with_reducible apply keeps_pump

theorem keeps_resend {s0 : State} (c : Conn) (l : List GftPacket) (s : State) (hk : Keeps s0 s) : Keeps s0 (State.resend s c l) := by
  unfold State.resend
  repeat' first
    | with_reducible assumption
    | with_reducible apply keeps_ite
    | split
    | with_reducible apply keeps_count
    | with_reducible apply keeps_transmit
    | with_reducible refine keeps_foldl ?_ _ _ ?_
    | with_reducible refine keeps_foldl_fst ?_ _ _ ?_
    | fail_if_no_progress with_reducible apply keeps_mk
    | (intro _)

theorem keeps_ackReceived {s0 : State} (c : Conn) (ackPsn : Nat) (marked : List Nat) (s : State) (hk : Keeps s0 s) : Keeps s0 (State.ackReceived s c ackPsn marked) := by
  unfold State.ackReceived
  repeat' first
    | with_reducible assumption
    | with_reducible apply keeps_ite
    | split
    | with_reducible apply keeps_pumpAll
    | with_reducible apply keeps_resend
    | with_reducible apply keeps_setConn
    | with_reducible apply keeps_freeTags

theorem keeps_showConns {s0 : State} (hf : Nat) (s : State) (hk : Keeps s0 s) : Keeps s0 (State.showConns s hf) := by
  unfold State.showConns
  repeat' first
    | with_reducible assumption
    | with_reducible apply keeps_ite
    | split
    | with_reducible apply keeps_setFld

theorem keeps_addConn {s0 : State} (c : Conn) (s : State) (hk : Keeps s0 s) : Keeps s0 (State.addConn s c) := by
  unfold State.addConn
  repeat' first
    | with_reducible assumption
    | with_reducible apply keeps_ite
    | split
    | with_reducible apply keeps_showConns
    | with_reducible refine keeps_foldl ?_ _ _ ?_
    | with_reducible refine keeps_foldl_fst ?_ _ _ ?_
    | fail_if_no_progress with_reducible apply keeps_mk

theorem keeps_dropConn {s0 : State} (c : Conn) (s : State) (hk : Keeps s0 s) : Keeps s0 (State.dropConn s c) := by
  unfold State.dropConn
  repeat' first
    | with_reducible assumption
    | with_reducible apply keeps_ite
    | split
    | with_reducible apply keeps_freeUser
    | with_reducible apply keeps_showConns
    | with_reducible refine keeps_foldl ?_ _ _ ?_
    | with_reducible refine keeps_foldl_fst ?_ _ _ ?_
    | fail_if_no_progress with_reducible apply keeps_mk

theorem keeps_sendOpenMsg {s0 : State} (hf : Nat) (slot : Nat) (peer : Nat) (sub : Nat) (cls : Nat) (psn : Nat) (s : State) (hk : Keeps s0 s) : Keeps s0 (State.sendOpenMsg s hf slot peer sub cls psn) := by
  unfold State.sendOpenMsg
  repeat' first
    | with_reducible assumption
    | with_reducible apply keeps_ite
    | split
    | with_reducible apply keeps_sendLoose

theorem keeps_connRoom {s0 : State} (hf : Nat) (s : State) (hk : Keeps s0 s) : Keeps s0 (State.connRoom s hf).1 := by
  unfold State.connRoom
  repeat' first
    | with_reducible assumption
    | with_reducible apply keeps_ite
    | split
    | with_reducible apply keeps_count
    | with_reducible apply keeps_dropConn
    | with_reducible apply keeps_sendOpenMsg

theorem keeps_failColl {s0 : State} (h : Nat) (s : State) (hk : Keeps s0 s) : Keeps s0 (State.failColl s h) := by
  unfold State.failColl
  repeat' first
    | with_reducible assumption
    | with_reducible apply keeps_ite
    | split
    | with_reducible apply keeps_setColl
    | with_reducible apply keeps_setEntryState
    | with_reducible refine keeps_foldl ?_ _ _ ?_
    | with_reducible refine keeps_foldl_fst ?_ _ _ ?_
    | fail_if_no_progress with_reducible apply keeps_mk

theorem keeps_openConn {s0 : State} (hf : Nat) (cls : Nat) (slot : Nat) (peer : Nat) (s : State) (hk : Keeps s0 s) : Keeps s0 (State.openConn s hf cls slot peer) := by
  unfold State.openConn
  repeat' first
    | with_reducible assumption
    | with_reducible apply keeps_ite
    | split
    | with_reducible apply keeps_connRoom
    | with_reducible apply keeps_sendOpenMsg
    | with_reducible apply keeps_addConn

theorem keeps_peerBack {s0 : State} (slot : Nat) (peer : Nat) (s : State) (hk : Keeps s0 s) : Keeps s0 (State.peerBack s slot peer) := by
  unfold State.peerBack
  repeat' first
    | with_reducible assumption
    | with_reducible apply keeps_ite
    | split
    | with_reducible apply keeps_raise
    | with_reducible apply keeps_setEpochSt
    | with_reducible apply keeps_releaseStep
    | with_reducible apply keeps_setBit
    | with_reducible refine keeps_foldl ?_ _ _ ?_
    | with_reducible refine keeps_foldl_fst ?_ _ _ ?_
    | fail_if_no_progress with_reducible apply keeps_mk

theorem keeps_poisonRows {s0 : State} (r : RowReq) (s : State) (hk : Keeps s0 s) : Keeps s0 (State.poisonRows s r) := by
  unfold State.poisonRows
  repeat' first
    | with_reducible assumption
    | with_reducible apply keeps_ite
    | split
    | with_reducible apply keeps_freeUser
    | with_reducible refine keeps_foldl ?_ _ _ ?_
    | with_reducible refine keeps_foldl_fst ?_ _ _ ?_
    | fail_if_no_progress with_reducible apply keeps_mk

theorem keeps_retire {s0 : State} (e : Nat) (s : State) (hk : Keeps s0 s) : Keeps s0 (State.retire s e) := by
  unfold State.retire
  repeat' first
    | with_reducible assumption
    | with_reducible apply keeps_ite
    | split
    | with_reducible apply keeps_settleGens
    | with_reducible apply keeps_forgetRequest
    | with_reducible refine keeps_foldl ?_ _ _ ?_
    | with_reducible refine keeps_foldl_fst ?_ _ _ ?_
    | fail_if_no_progress with_reducible apply keeps_mk

theorem keeps_peerLost {s0 : State} (slot : Nat) (peer : Nat) (reason : Nat) (s : State) (hk : Keeps s0 s) : Keeps s0 (State.peerLost s slot peer reason) := by
  unfold State.peerLost
  repeat' first
    | with_reducible assumption
    | with_reducible apply keeps_ite
    | split
    | with_reducible apply keeps_dropConn
    | with_reducible apply keeps_failColl
    | with_reducible apply keeps_poisonRows
    | with_reducible apply keeps_retire
    | with_reducible apply keeps_dropRequest
    | with_reducible apply keeps_raise
    | with_reducible apply keeps_setFld
    | with_reducible apply keeps_setEpochSt
    | with_reducible apply keeps_setBit
    | with_reducible apply keeps_abortStep
    | with_reducible refine keeps_foldl ?_ _ _ ?_
    | with_reducible refine keeps_foldl_fst ?_ _ _ ?_
    | fail_if_no_progress with_reducible apply keeps_mk
    | (intro _)

theorem keeps_peerWaitExpire {s0 : State} (slot : Nat) (s : State) (hk : Keeps s0 s) : Keeps s0 (State.peerWaitExpire s slot) := by
  unfold State.peerWaitExpire
  repeat' first
    | with_reducible assumption
    | with_reducible apply keeps_ite
    | split
    | with_reducible apply keeps_stopSlot
    | with_reducible apply keeps_raise
    | with_reducible apply keeps_setBit

theorem keeps_sendRowReq {s0 : State} (r : RowReq) (s : State) (hk : Keeps s0 s) : Keeps s0 (State.sendRowReq s r) := by
  unfold State.sendRowReq
  repeat' first
    | with_reducible assumption
    | with_reducible apply keeps_ite
    | split
    | with_reducible apply keeps_sendLoose
    | with_reducible refine keeps_foldl ?_ _ _ ?_
    | with_reducible refine keeps_foldl_fst ?_ _ _ ?_
    | fail_if_no_progress with_reducible apply keeps_mk
    | (intro _)

theorem keeps_requestRetry {s0 : State} (id : Nat) (s : State) (hk : Keeps s0 s) : Keeps s0 (State.requestRetry s id) := by
  unfold State.requestRetry
  repeat' first
    | with_reducible assumption
    | with_reducible apply keeps_ite
    | split
    | with_reducible apply keeps_poisonRows
    | with_reducible apply keeps_sendRowReq
    | with_reducible refine keeps_foldl ?_ _ _ ?_
    | with_reducible refine keeps_foldl_fst ?_ _ _ ?_
    | fail_if_no_progress with_reducible apply keeps_mk

theorem keeps_retransmit {s0 : State} (id : Nat) (s : State) (hk : Keeps s0 s) : Keeps s0 (State.retransmit s id) := by
  unfold State.retransmit
  repeat' first
    | with_reducible assumption
    | with_reducible apply keeps_ite
    | split
    | with_reducible apply keeps_count
    | with_reducible apply keeps_peerLost
    | with_reducible apply keeps_setConn
    | with_reducible apply keeps_resend
    | with_reducible apply keeps_sendOpenMsg

theorem keeps_sendMessage {s0 : State} (hf : Nat) (slot : Nat) (h : GftPacket) (payload : List Byte) (s : State) (hk : Keeps s0 s) : Keeps s0 (State.sendMessage s hf slot h payload) := by
  unfold State.sendMessage
  repeat' first
    | with_reducible assumption
    | with_reducible apply keeps_ite
    | split
    | with_reducible apply keeps_openConn
    | with_reducible apply keeps_pumpAll
    | with_reducible apply keeps_setConn
    | with_reducible refine keeps_foldl ?_ _ _ ?_
    | with_reducible refine keeps_foldl_fst ?_ _ _ ?_
    | fail_if_no_progress with_reducible apply keeps_mk
    | (intro _)
    | dsimp only

theorem keeps_sendCtrl {s0 : State} (slot : Nat) (peer : Nat) (sub : Nat) (words : List Nat) (s : State) (hk : Keeps s0 s) : Keeps s0 (State.sendCtrl s slot peer sub words) := by
  unfold State.sendCtrl
  repeat' first
    | with_reducible assumption
    | with_reducible apply keeps_ite
    | split
    | with_reducible apply keeps_sendMessage

theorem keeps_transmitAll {s0 : State} (hf : Nat) (l : List GftPacket) (s : State) (hk : Keeps s0 s) : Keeps s0 (State.transmitAll s hf l) := by
  unfold State.transmitAll
  repeat' first
    | with_reducible assumption
    | with_reducible apply keeps_ite
    | split
    | with_reducible apply keeps_transmit
    | with_reducible refine keeps_foldl ?_ _ _ ?_
    | with_reducible refine keeps_foldl_fst ?_ _ _ ?_
    | fail_if_no_progress with_reducible apply keeps_mk
    | (intro _)

theorem keeps_sendRsp {s0 : State} (hf : Nat) (slot : Option Nat) (l : List GftPacket) (s : State) (hk : Keeps s0 s) : Keeps s0 (State.sendRsp s hf slot l) := by
  unfold State.sendRsp
  repeat' first
    | with_reducible assumption
    | with_reducible apply keeps_ite
    | split
    | with_reducible apply keeps_transmitAll
    | with_reducible apply keeps_takeTag
    | with_reducible apply keeps_numbered
    | with_reducible apply keeps_stallTag

theorem keeps_startRowReq {s0 : State} (r : RowReq) (s : State) (hk : Keeps s0 s) : Keeps s0 (State.startRowReq s r) := by
  unfold State.startRowReq
  repeat' first
    | with_reducible assumption
    | with_reducible apply keeps_ite
    | split
    | with_reducible apply keeps_takeTag
    | with_reducible apply keeps_sendRowReq
    | with_reducible apply keeps_stallTag
    | with_reducible refine keeps_foldl ?_ _ _ ?_
    | with_reducible refine keeps_foldl_fst ?_ _ _ ?_
    | fail_if_no_progress with_reducible apply keeps_mk

theorem keeps_takeMessage {s0 : State} (id : Nat) (k : GftPacket) (s : State) (hk : Keeps s0 s) : Keeps s0 (State.takeMessage s id k).1 := by
  unfold State.takeMessage
  repeat' first
    | with_reducible assumption
    | with_reducible apply keeps_ite
    | split
    | with_reducible apply keeps_setConn

theorem keeps_windowAccept {s0 : State} (c : Conn) (k : GftPacket) (s : State) (hk : Keeps s0 s) : Keeps s0 (State.windowAccept s c k).1 := by
  unfold State.windowAccept
  repeat' first
    | with_reducible assumption
    | with_reducible apply keeps_ite
    | split
    | with_reducible apply keeps_sendAck
    | with_reducible apply keeps_setConn
    | with_reducible apply keeps_count
    | with_reducible refine keeps_foldl ?_ _ _ ?_
    | with_reducible refine keeps_foldl_fst ?_ _ _ ?_
    | fail_if_no_progress with_reducible apply keeps_mk
    | (intro _)
    | dsimp only

theorem keeps_execAckDelayExpire {s0 : State} (id : Nat) (s : State) (hk : Keeps s0 s) : KeepsNext s0 (execAckDelayExpire id s) := by
  unfold execAckDelayExpire
  repeat' first
    | with_reducible assumption
    | with_reducible apply keeps_ite
    | split
    | with_reducible apply keeps_ackDelay
    | with_reducible apply keepsNext

theorem keeps_execPeerWaitExpire {s0 : State} (slot : Nat) (s : State) (hk : Keeps s0 s) : KeepsNext s0 (execPeerWaitExpire slot s) := by
  unfold execPeerWaitExpire
  repeat' first
    | with_reducible assumption
    | with_reducible apply keeps_ite
    | split
    | with_reducible apply keeps_peerWaitExpire
    | with_reducible apply keepsNext

theorem keeps_execRequestRetryTimeout {s0 : State} (id : Nat) (s : State) (hk : Keeps s0 s) : KeepsNext s0 (execRequestRetryTimeout id s) := by
  unfold execRequestRetryTimeout
  repeat' first
    | with_reducible assumption
    | with_reducible apply keeps_ite
    | split
    | with_reducible apply keeps_requestRetry
    | with_reducible apply keepsNext

theorem keeps_execRetransmitTimeout {s0 : State} (id : Nat) (s : State) (hk : Keeps s0 s) : KeepsNext s0 (execRetransmitTimeout id s) := by
  unfold execRetransmitTimeout
  repeat' first
    | with_reducible assumption
    | with_reducible apply keeps_ite
    | split
    | with_reducible apply keeps_retransmit
    | with_reducible apply keepsNext

end Sys2Proof.Machine
end

