-- ==== Sys2Proof/Laws/Keeps/Tables.lean ====
section
/-! SUPPORT. What the operations of Machine/Tables.lean keep. -/

namespace Sys2Proof.Machine

theorem keeps_countShard {s0 : State} (n : Nat) (r : Nat) (k : Nat) (s : State) (hk : Keeps s0 s) : Keeps s0 (State.countShard s n r k) := by
  unfold State.countShard
  repeat' first
    | with_reducible assumption
    | with_reducible apply keeps_ite
    | split
    | with_reducible refine keeps_foldl ?_ _ _ ?_
    | with_reducible refine keeps_foldl_fst ?_ _ _ ?_
    | fail_if_no_progress with_reducible apply keeps_mk

theorem keeps_flagSlot {s0 : State} (slot : Nat) (f : Flags) (tid : Nat) (s : State) (hk : Keeps s0 s) : Keeps s0 (State.flagSlot s slot f tid) := by
  unfold State.flagSlot
  repeat' first
    | with_reducible assumption
    | with_reducible apply keeps_ite
    | split
    | with_reducible apply keeps_sumFlags

theorem keeps_setWay {s0 : State} (i : Nat) (e : Option TallyE) (s : State) (hk : Keeps s0 s) : Keeps s0 (State.setWay s i e) := by
  unfold State.setWay
  repeat' first
    | with_reducible assumption
    | with_reducible apply keeps_ite
    | split
    | with_reducible refine keeps_foldl ?_ _ _ ?_
    | with_reducible refine keeps_foldl_fst ?_ _ _ ?_
    | fail_if_no_progress with_reducible apply keeps_mk

theorem keeps_insertTally {s0 : State} (e : TallyE) (s : State) (hk : Keeps s0 s) : Keeps s0 (State.insertTally s e).1 := by
  unfold State.insertTally
  repeat' first
    | with_reducible assumption
    | with_reducible apply keeps_ite
    | split
    | with_reducible apply keeps_setWay
    | with_reducible apply keeps_count

theorem keeps_poolBanks {s0 : State} (s : State) (hk : Keeps s0 s) : Keeps s0 (State.poolBanks s) := by
  unfold State.poolBanks
  repeat' first
    | with_reducible assumption
    | with_reducible apply keeps_ite
    | split
    | with_reducible apply keeps_handOwner
    | with_reducible refine keeps_foldl ?_ _ _ ?_
    | with_reducible refine keeps_foldl_fst ?_ _ _ ?_
    | fail_if_no_progress with_reducible apply keeps_mk
    | (intro _)

theorem keeps_readRow {s0 : State} (k : Nat) (a : Nat) (w : Nat) (host : List Host.Cell) (s : State) (hk : Keeps s0 s) : Keeps s0 (State.readRow s k a w host).1 := by
  unfold State.readRow
  repeat' first
    | with_reducible assumption
    | with_reducible apply keeps_ite
    | split
    | with_reducible apply keeps_readDev

theorem keeps_setTbl {s0 : State} (n : Nat) (w : Nat) (v : Nat) (s : State) (hk : Keeps s0 s) : Keeps s0 (State.setTbl s n w v) := by
  unfold State.setTbl
  repeat' first
    | with_reducible assumption
    | with_reducible apply keeps_ite
    | split
    | with_reducible refine keeps_foldl ?_ _ _ ?_
    | with_reducible refine keeps_foldl_fst ?_ _ _ ?_
    | fail_if_no_progress with_reducible apply keeps_mk

theorem keeps_showReloc {s0 : State} (n : Nat) (v : Nat) (s : State) (hk : Keeps s0 s) : Keeps s0 (State.showReloc s n v) := by
  unfold State.showReloc
  repeat' first
    | with_reducible assumption
    | with_reducible apply keeps_ite
    | split
    | with_reducible apply keeps_setTbl

theorem keeps_writeRowAt {s0 : State} (k : Nat) (a : Nat) (w : Nat) (widens : Bool) (v : RowVal) (s : State) (hk : Keeps s0 s) : Keeps s0 (State.writeRowAt s k a w widens v) := by
  unfold State.writeRowAt
  repeat' first
    | with_reducible assumption
    | with_reducible apply keeps_ite
    | split
    | with_reducible apply keeps_writeDev
    | with_reducible apply keeps_flagSlot
    | with_reducible refine keeps_foldl ?_ _ _ ?_
    | with_reducible refine keeps_foldl_fst ?_ _ _ ?_
    | fail_if_no_progress with_reducible apply keeps_mk
    | (intro _)
    | dsimp only

end Sys2Proof.Machine
end

