-- ==== Sys2Proof/Laws/Keeps/Hoist.lean ====
section
/-! SUPPORT. What the operations of Machine/Hoist.lean keep. -/

namespace Sys2Proof.Machine

theorem keeps_coalRecords {s0 : State} (slot : Nat) (s : State) (hk : Keeps s0 s) : Keeps s0 (State.coalRecords s slot).1 := by
  unfold State.coalRecords
  repeat' first
    | with_reducible assumption
    | with_reducible apply keeps_ite
    | split
    | with_reducible apply keeps_readDev
    | with_reducible refine keeps_foldl ?_ _ _ ?_
    | with_reducible refine keeps_foldl_fst ?_ _ _ ?_
    | fail_if_no_progress with_reducible apply keeps_mk
    | (intro _)

theorem keeps_finalSums {s0 : State} (slot : Nat) (s : State) (hk : Keeps s0 s) : Keeps s0 (State.finalSums s slot) := by
  unfold State.finalSums
  repeat' first
    | with_reducible assumption
    | with_reducible apply keeps_ite
    | split
    | with_reducible apply keeps_coalRecords
    | with_reducible apply keeps_flagSlot
    | with_reducible refine keeps_foldl ?_ _ _ ?_
    | with_reducible refine keeps_foldl_fst ?_ _ _ ?_
    | fail_if_no_progress with_reducible apply keeps_mk
    | (intro _)

theorem keeps_localSums {s0 : State} (slot : Nat) (s : State) (hk : Keeps s0 s) : Keeps s0 (State.localSums s slot) := by
  unfold State.localSums
  repeat' first
    | with_reducible assumption
    | with_reducible apply keeps_ite
    | split
    | with_reducible apply keeps_coalRecords
    | with_reducible apply keeps_flagSlot
    | with_reducible refine keeps_foldl ?_ _ _ ?_
    | with_reducible refine keeps_foldl_fst ?_ _ _ ?_
    | fail_if_no_progress with_reducible apply keeps_mk
    | (intro _)

theorem keeps_deliverSums {s0 : State} (slot : Nat) (s : State) (hk : Keeps s0 s) : Keeps s0 (State.deliverSums s slot) := by
  unfold State.deliverSums
  repeat' first
    | with_reducible assumption
    | with_reducible apply keeps_ite
    | split
    | with_reducible apply keeps_sendMessage
    | with_reducible refine keeps_foldl ?_ _ _ ?_
    | with_reducible refine keeps_foldl_fst ?_ _ _ ?_
    | fail_if_no_progress with_reducible apply keeps_mk
    | (intro _)

theorem keeps_coalFlush {s0 : State} (slot : Nat) (s : State) (hk : Keeps s0 s) : Keeps s0 (State.coalFlush s slot) := by
  unfold State.coalFlush
  repeat' first
    | with_reducible assumption
    | with_reducible apply keeps_ite
    | split
    | with_reducible apply keeps_setJob
    | with_reducible apply keeps_finalSums
    | with_reducible apply keeps_localSums
    | with_reducible apply keeps_deliverSums

theorem keeps_storeRecord {s0 : State} (slot : Nat) (r : CoalRec) (s : State) (hk : Keeps s0 s) : Keeps s0 (State.storeRecord s slot r).1 := by
  unfold State.storeRecord
  repeat' first
    | with_reducible assumption
    | with_reducible apply keeps_ite
    | split
    | with_reducible apply keeps_writeDev
    | with_reducible apply keeps_count
    | with_reducible apply keeps_wr
    | with_reducible refine keeps_foldl ?_ _ _ ?_
    | with_reducible refine keeps_foldl_fst ?_ _ _ ?_
    | fail_if_no_progress with_reducible apply keeps_mk
    | (intro _)
    | dsimp only

theorem keeps_setHoist {s0 : State} (h : Nat) (q : List HCmd) (s : State) (hk : Keeps s0 s) : Keeps s0 (State.setHoist s h q) := by
  unfold State.setHoist
  repeat' first
    | with_reducible assumption
    | with_reducible apply keeps_ite
    | split
    | with_reducible apply keeps_setFld
    | with_reducible refine keeps_foldl ?_ _ _ ?_
    | with_reducible refine keeps_foldl_fst ?_ _ _ ?_
    | fail_if_no_progress with_reducible apply keeps_mk

theorem keeps_setHCmd {s0 : State} (h : Nat) (c : HCmd) (s : State) (hk : Keeps s0 s) : Keeps s0 (State.setHCmd s h c) := by
  unfold State.setHCmd
  repeat' first
    | with_reducible assumption
    | with_reducible apply keeps_ite
    | split
    | with_reducible apply keeps_setHoist

theorem keeps_dropHCmd {s0 : State} (h : Nat) (c : HCmd) (s : State) (hk : Keeps s0 s) : Keeps s0 (State.dropHCmd s h c) := by
  unfold State.dropHCmd
  repeat' first
    | with_reducible assumption
    | with_reducible apply keeps_ite
    | split
    | with_reducible apply keeps_setHoist

theorem keeps_coalStore {s0 : State} (h : Nat) (index : Nat) (s : State) (hk : Keeps s0 s) : Keeps s0 (State.coalStore s h index) := by
  unfold State.coalStore
  repeat' first
    | with_reducible assumption
    | with_reducible apply keeps_ite
    | split
    | with_reducible apply keeps_storeRecord
    | with_reducible apply keeps_setHCmd
    | with_reducible apply keeps_settleAborts
    | with_reducible apply keeps_deferFault
    | with_reducible apply keeps_dropHCmd

theorem keeps_expectTag {s0 : State} (slot : Nat) (request : Option Nat) (n : Nat) (count : Nat) (s : State) (hk : Keeps s0 s) : Keeps s0 (State.expectTag s slot request n count).1 := by
  unfold State.expectTag
  repeat' first
    | with_reducible assumption
    | with_reducible apply keeps_ite
    | split
    | with_reducible refine keeps_foldl ?_ _ _ ?_
    | with_reducible refine keeps_foldl_fst ?_ _ _ ?_
    | fail_if_no_progress with_reducible apply keeps_mk
    | (intro _)
    | dsimp only

theorem keeps_sample {s0 : State} (slot : Nat) (k : Nat) (count : Nat) (s : State) (hk : Keeps s0 s) : Keeps s0 (State.sample s slot k count) := by
  unfold State.sample
  repeat' first
    | with_reducible assumption
    | with_reducible apply keeps_ite
    | split
    | with_reducible refine keeps_foldl ?_ _ _ ?_
    | with_reducible refine keeps_foldl_fst ?_ _ _ ?_
    | fail_if_no_progress with_reducible apply keeps_mk

theorem keeps_gatherProbe {s0 : State} (slot : Nat) (k : Nat) (count : Nat) (s : State) (hk : Keeps s0 s) : Keeps s0 (State.gatherProbe s slot k count) := by
  unfold State.gatherProbe
  repeat' first
    | with_reducible assumption
    | with_reducible apply keeps_ite
    | split
    | with_reducible apply keeps_setWay
    | with_reducible apply keeps_sample

theorem keeps_lookUp {s0 : State} (slot : Nat) (n : Nat) (v : Nat) (r : Nat) (count : Nat) (s : State) (hk : Keeps s0 s) : Keeps s0 (State.lookUp s slot n v r count).1 := by
  unfold State.lookUp
  repeat' first
    | with_reducible assumption
    | with_reducible apply keeps_ite
    | split
    | with_reducible apply keeps_countShard
    | with_reducible apply keeps_gatherProbe

theorem keeps_requestRows {s0 : State} (slot : Nat) (peer : Nat) (hf : Nat) (h : Nat) (cmd : Nat) (n : Nat) (v : Nat) (l8 : Nat) (l9 : List Nat) (s : State) (hk : Keeps s0 s) : Keeps s0 (State.requestRows s slot peer hf h cmd n v l8 l9) := by
  induction l8 generalizing l9 s with
  | zero =>
    unfold State.requestRows
    exact hk
  | succ k ih =>
    cases l9 with
    | nil =>
      unfold State.requestRows
      exact hk
    | cons a t =>
      unfold State.requestRows
      refine ih _ _ (keeps_count _ _ _ _ _ (keeps_startRowReq _ _ ?_))
      apply keeps_mk
      exact keeps_numbered _ hk

theorem keeps_startEntries {s0 : State} (h : Nat) (room : Nat) (c : HCmd) (s : State) (hk : Keeps s0 s) : Keeps s0 (State.startEntries s h room c) := by
  unfold State.startEntries
  repeat' first
    | with_reducible assumption
    | with_reducible apply keeps_ite
    | split
    | with_reducible apply keeps_lookUp
    | with_reducible apply keeps_count
    | with_reducible apply keeps_setHCmd
    | with_reducible apply keeps_requestRows
    | with_reducible refine keeps_foldl ?_ _ _ ?_
    | with_reducible refine keeps_foldl_fst ?_ _ _ ?_
    | fail_if_no_progress with_reducible apply keeps_mk
    | (intro _)

theorem keeps_feedHoist {s0 : State} (h : Nat) (s : State) (hk : Keeps s0 s) : Keeps s0 (State.feedHoist s h) := by
  unfold State.feedHoist
  repeat' first
    | with_reducible assumption
    | with_reducible apply keeps_ite
    | split
    | with_reducible apply keeps_startEntries
    | with_reducible refine keeps_foldl ?_ _ _ ?_
    | with_reducible refine keeps_foldl_fst ?_ _ _ ?_
    | fail_if_no_progress with_reducible apply keeps_mk
    | (intro _)

theorem keeps_fetchRow {s0 : State} (h : Nat) (n : Nat) (r : HRow) (host : List Host.Cell) (s : State) (hk : Keeps s0 s) : Keeps s0 (State.fetchRow s h n r host).1 := by
  unfold State.fetchRow
  repeat' first
    | with_reducible assumption
    | with_reducible apply keeps_ite
    | split
    | with_reducible apply keeps_count
    | with_reducible apply keeps_readDev

theorem keeps_writeView {s0 : State} (m : Nat) (slot : Nat) (d : Desc) (flush : Bool) (codes : List Nat) (s : State) (hk : Keeps s0 s) : Keeps s0 (State.writeView s m slot d flush codes).1 := by
  unfold State.writeView
  repeat' first
    | with_reducible assumption
    | with_reducible apply keeps_ite
    | split
    | with_reducible apply keeps_quantise
    | with_reducible apply keeps_writePlain

theorem keeps_writeWinners {s0 : State} (c : HCmd) (l : List (Option Nat)) (s : State) (hk : Keeps s0 s) : Keeps s0 (State.writeWinners s c l) := by
  unfold State.writeWinners
  repeat' first
    | with_reducible assumption
    | with_reducible apply keeps_ite
    | split
    | with_reducible apply keeps_writeDev
    | with_reducible refine keeps_foldl ?_ _ _ ?_
    | with_reducible refine keeps_foldl_fst ?_ _ _ ?_
    | fail_if_no_progress with_reducible apply keeps_mk

theorem keeps_hgathComplete {s0 : State} (h : Nat) (index : Nat) (s : State) (hk : Keeps s0 s) : Keeps s0 (State.hgathComplete s h index) := by
  unfold State.hgathComplete
  repeat' first
    | with_reducible assumption
    | split
    | with_reducible apply keeps_wakeSpans
    | with_reducible apply keeps_feedHoist
    | with_reducible apply keeps_dropHCmd
    | with_reducible apply keeps_settleAborts
    | with_reducible apply keeps_deferFault
    | with_reducible apply keeps_spoil
    | with_reducible apply keeps_flagTask
    | with_reducible apply keeps_writeView
    | with_reducible apply keeps_writeWinners
    | with_reducible apply keeps_endCmd
    | with_reducible refine keeps_foldl ?_ _ _ ?_
    | with_reducible refine keeps_foldl_fst ?_ _ _ ?_
    | fail_if_no_progress with_reducible apply keeps_mk
    | (intro _)
    | dsimp only

theorem keeps_hscatComplete {s0 : State} (h : Nat) (index : Nat) (s : State) (hk : Keeps s0 s) : Keeps s0 (State.hscatComplete s h index) := by
  unfold State.hscatComplete
  repeat' first
    | with_reducible assumption
    | with_reducible apply keeps_ite
    | split
    | with_reducible apply keeps_dropHCmd
    | with_reducible apply keeps_settleAborts
    | with_reducible apply keeps_deferFault
    | with_reducible apply keeps_endCmd

theorem keeps_readEntries {s0 : State} (c : HCmd) (host : List Host.Cell) (s : State) (hk : Keeps s0 s) : Keeps s0 (State.readEntries s c host).1 := by
  exact keeps_fst_of (keeps_readPlain (jobAgent c.slot) c.list host s hk) rfl

theorem keeps_startGather {s0 : State} (h : Nat) (c : HCmd) (host : List Host.Cell) (s : State) (hk : Keeps s0 s) : Keeps s0 (State.startGather s h c host) := by
  unfold State.startGather
  repeat' first
    | with_reducible assumption
    | with_reducible apply keeps_ite
    | split
    | with_reducible apply keeps_readEntries
    | with_reducible apply keeps_setHCmd
    | with_reducible apply keeps_feedHoist
    | with_reducible refine keeps_foldl ?_ _ _ ?_
    | with_reducible refine keeps_foldl_fst ?_ _ _ ?_
    | fail_if_no_progress with_reducible apply keeps_mk
    | (intro _)
    | dsimp only

theorem keeps_queueGather {s0 : State} (h : Nat) (c : HCmd) (host : List Host.Cell) (s : State) (hk : Keeps s0 s) : Keeps s0 (State.queueGather s h c host) := by
  unfold State.queueGather
  repeat' first
    | with_reducible assumption
    | with_reducible apply keeps_ite
    | split
    | with_reducible apply keeps_setHoist
    | with_reducible apply keeps_count
    | with_reducible apply keeps_startGather

theorem keeps_readGrads {s0 : State} (c : HCmd) (host : List Host.Cell) (s : State) (hk : Keeps s0 s) : Keeps s0 (State.readGrads s c host).1 := by
  exact keeps_readPlain _ _ _ _ hk

theorem keeps_readWinners {s0 : State} (c : HCmd) (host : List Host.Cell) (s : State) (hk : Keeps s0 s) : Keeps s0 (State.readWinners s c host).1 := by
  exact keeps_fst_of (keeps_readDev (jobAgent c.slot) c.rowsView.aux c.winBytes host s hk) rfl

theorem keeps_readWins {s0 : State} (c : HCmd) (host : List Host.Cell) (s : State) (hk : Keeps s0 s) : Keeps s0 (State.readWins s c host).1 := by
  unfold State.readWins
  split
  · exact keeps_readWinners _ _ _ hk
  · exact keeps_fst_of hk rfl

theorem keeps_releaseGathers {s0 : State} (s : State) (hk : Keeps s0 s) : Keeps s0 (State.releaseGathers s) := by
  unfold State.releaseGathers
  repeat' first
    | with_reducible assumption
    | split
    | with_reducible apply keeps_startGather
    | with_reducible refine keeps_foldl ?_ _ _ ?_
    | with_reducible refine keeps_foldl_fst ?_ _ _ ?_
    | fail_if_no_progress with_reducible apply keeps_mk
    | (intro _)

theorem keeps_shardVersion {s0 : State} (c : HCmd) (row : Nat) (s : State) (hk : Keeps s0 s) : Keeps s0 (State.shardVersion s c row) := by
  unfold State.shardVersion
  repeat' first
    | with_reducible assumption
    | with_reducible apply keeps_ite
    | split
    | with_reducible apply keeps_failRequest
    | with_reducible apply keeps_raise
    | with_reducible apply keeps_abortStep

theorem keeps_rowReturn {s0 : State} (h : Nat) (index : Nat) (row : Nat) (host : List Host.Cell) (s : State) (hk : Keeps s0 s) : Keeps s0 (State.rowReturn s h index row host) := by
  unfold State.rowReturn
  repeat' first
    | with_reducible assumption
    | with_reducible apply keeps_ite
    | split
    | with_reducible apply keeps_feedHoist
    | with_reducible apply keeps_setHCmd
    | with_reducible apply keeps_shardVersion
    | with_reducible apply keeps_wakeSpan
    | with_reducible apply keeps_fetchRow

theorem keeps_startScatter {s0 : State} (h : Nat) (c : HCmd) (host : List Host.Cell) (s : State) (hk : Keeps s0 s) : Keeps s0 (State.startScatter s h c host) := by
  unfold State.startScatter
  repeat' first
    | with_reducible assumption
    | with_reducible apply keeps_ite
    | split
    | with_reducible apply keeps_readEntries
    | with_reducible apply keeps_setHCmd
    | with_reducible apply keeps_readGrads
    | with_reducible apply keeps_readWins
    | with_reducible apply keeps_flagTask
    | with_reducible refine keeps_foldl ?_ _ _ ?_
    | with_reducible refine keeps_foldl_fst ?_ _ _ ?_
    | fail_if_no_progress with_reducible apply keeps_mk
    | (intro _)
    | dsimp only

theorem keeps_execCoalFlush {s0 : State} (slot : Nat) (s : State) (hk : Keeps s0 s) : KeepsNext s0 (execCoalFlush slot s) := by
  unfold execCoalFlush
  repeat' first
    | with_reducible assumption
    | with_reducible apply keeps_ite
    | split
    | with_reducible apply keeps_coalFlush
    | with_reducible apply keepsNext

theorem keeps_execCoalStore {s0 : State} (hoist : Nat) (index : Nat) (s : State) (hk : Keeps s0 s) : KeepsNext s0 (execCoalStore hoist index s) := by
  unfold execCoalStore
  repeat' first
    | with_reducible assumption
    | with_reducible apply keeps_ite
    | split
    | with_reducible apply keeps_coalStore
    | with_reducible apply keepsNext

theorem keeps_hoistIssue {s0 : State} (x : Nat) (op : Nat) (gather : Bool) (d : TReg) (a : TReg) (b : SReg) (host : List Host.Cell) (s : State) (hk : Keeps s0 s) : Keeps s0 (hoistIssue x op gather d a b host s) := by
  unfold hoistIssue
  repeat' first
    | with_reducible assumption
    | with_reducible apply keeps_ite
    | split
    | with_reducible apply keeps_issue
    | with_reducible apply keeps_wakeSpans
    | with_reducible apply keeps_numbered
    | with_reducible apply keeps_queueGather
    | with_reducible apply keeps_startScatter
    | with_reducible apply keeps_setHoist
    | with_reducible apply keepsIssue_fault
    | with_reducible apply keepsIssue_stay
    | with_reducible apply keepsIssue_go
    | with_reducible apply keepsIssue_leave
    | with_reducible refine keeps_foldl ?_ _ _ ?_
    | with_reducible refine keeps_foldl_fst ?_ _ _ ?_
    | fail_if_no_progress with_reducible apply keeps_mk
    | (intro _)
    | dsimp only

theorem keeps_execHgath {s0 : State} (x : Nat) (d : TReg) (a : TReg) (b : SReg) (host : List Host.Cell) (s : State) (hk : Keeps s0 s) : KeepsNext s0 (execHgath x d a b host s) := by
  unfold execHgath
  repeat' first
    | with_reducible assumption
    | with_reducible apply keeps_ite
    | split
    | with_reducible apply keeps_hoistIssue
    | with_reducible apply keepsNext

theorem keeps_execHgathComplete {s0 : State} (hoist : Nat) (index : Nat) (s : State) (hk : Keeps s0 s) : KeepsNext s0 (execHgathComplete hoist index s) := by
  unfold execHgathComplete
  repeat' first
    | with_reducible assumption
    | with_reducible apply keeps_ite
    | split
    | with_reducible apply keeps_hgathComplete
    | with_reducible apply keepsNext

theorem keeps_execHscat {s0 : State} (x : Nat) (d : TReg) (a : TReg) (b : SReg) (host : List Host.Cell) (s : State) (hk : Keeps s0 s) : KeepsNext s0 (execHscat x d a b host s) := by
  unfold execHscat
  repeat' first
    | with_reducible assumption
    | with_reducible apply keeps_ite
    | split
    | with_reducible apply keeps_hoistIssue
    | with_reducible apply keepsNext

theorem keeps_execHscatComplete {s0 : State} (hoist : Nat) (index : Nat) (s : State) (hk : Keeps s0 s) : KeepsNext s0 (execHscatComplete hoist index s) := by
  unfold execHscatComplete
  repeat' first
    | with_reducible assumption
    | with_reducible apply keeps_ite
    | split
    | with_reducible apply keeps_hscatComplete
    | with_reducible apply keepsNext

theorem keeps_execRowReturn {s0 : State} (hoist : Nat) (index : Nat) (row : Nat) (host : List Host.Cell) (s : State) (hk : Keeps s0 s) : KeepsNext s0 (execRowReturn hoist index row host s) := by
  unfold execRowReturn
  repeat' first
    | with_reducible assumption
    | with_reducible apply keeps_ite
    | split
    | with_reducible apply keeps_rowReturn
    | with_reducible apply keepsNext

end Sys2Proof.Machine
end

