-- ==== Sys2Proof/Laws/Keeps/Haul.lean ====
section
/-! SUPPORT. What the operations of Machine/Haul.lean keep. -/

namespace Sys2Proof.Machine

theorem keeps_stale {s0 : State} (f : Nat → Bool) (s : State) (hk : Keeps s0 s) : Keeps s0 (State.stale s f) := by
  unfold State.stale
  repeat' first
    | with_reducible assumption
    | with_reducible apply keeps_ite
    | split
    | with_reducible refine keeps_foldl ?_ _ _ ?_
    | with_reducible refine keeps_foldl_fst ?_ _ _ ?_
    | fail_if_no_progress with_reducible apply keeps_mk

theorem keeps_freeVersion {s0 : State} (n : Nat) (v : Nat) (s : State) (hk : Keeps s0 s) : Keeps s0 (State.freeVersion s n v) := by
  unfold State.freeVersion
  repeat' first
    | with_reducible assumption
    | with_reducible apply keeps_ite
    | split
    | with_reducible apply keeps_setTbl
    | with_reducible apply keeps_stale
    | with_reducible apply keeps_raise
    | with_reducible refine keeps_foldl ?_ _ _ ?_
    | with_reducible refine keeps_foldl_fst ?_ _ _ ?_
    | fail_if_no_progress with_reducible apply keeps_mk

theorem keeps_halvePops {s0 : State} (ns : List Nat) (s : State) (hk : Keeps s0 s) : Keeps s0 (State.halvePops s ns) := by
  unfold State.halvePops
  repeat' first
    | with_reducible assumption
    | with_reducible apply keeps_ite
    | split
    | with_reducible refine keeps_foldl ?_ _ _ ?_
    | with_reducible refine keeps_foldl_fst ?_ _ _ ?_
    | fail_if_no_progress with_reducible apply keeps_mk

theorem keeps_insertSamples {s0 : State} (slot : Nat) (s : State) (hk : Keeps s0 s) : Keeps s0 (State.insertSamples s slot) := by
  unfold State.insertSamples
  repeat' first
    | with_reducible assumption
    | with_reducible apply keeps_ite
    | split
    | with_reducible apply keeps_raise
    | with_reducible apply keeps_count
    | with_reducible apply keeps_insertTally
    | with_reducible refine keeps_foldl ?_ _ _ ?_
    | with_reducible refine keeps_foldl_fst ?_ _ _ ?_
    | fail_if_no_progress with_reducible apply keeps_mk
    | (intro _)

theorem keeps_publish {s0 : State} (n : Nat) (s : State) (hk : Keeps s0 s) : Keeps s0 (State.publish s n) := by
  unfold State.publish
  repeat' first
    | with_reducible assumption
    | with_reducible apply keeps_ite
    | split
    | with_reducible apply keeps_setTbl
    | with_reducible apply keeps_raise
    | with_reducible apply keeps_settleGens
    | with_reducible apply keeps_setFld
    | with_reducible refine keeps_foldl ?_ _ _ ?_
    | with_reducible refine keeps_foldl_fst ?_ _ _ ?_
    | fail_if_no_progress with_reducible apply keeps_mk

theorem keeps_makeMove {s0 : State} (m : Move) (host : List Host.Cell) (s : State) (hk : Keeps s0 s) : Keeps s0 (State.makeMove s m host).1 := by
  unfold State.makeMove
  extract_lets k n v deep size face noFace t tier1 tier2 needs slot base a fr r u cand src e w
  have ht : Keeps s0 t := by
    unfold t
    split
    · exact keeps_count _ _ _ _ _ hk
    · exact hk
  split
  · exact keeps_fst_of ht rfl
  split
  · exact keeps_fst_of (keeps_count _ _ _ _ _ ht) rfl
  have hr : Keeps s0 r.1 := keeps_readRow _ _ _ _ _ ht
  have hu : Keeps s0 u := keeps_stale _ _ (keeps_writeRowAt _ _ _ _ _ _ hr)
  have hw : Keeps s0 w := keeps_showReloc _ _ _ (keeps_setWay _ _ _ hu)
  exact keeps_fst_of (keeps_count _ _ _ _ _ hw) rfl

theorem keeps_makeMoves {s0 : State} (host : List Host.Cell) (l2 : Nat) (l3 : List Move) (s : State) (hk : Keeps s0 s) : Keeps s0 (State.makeMoves s host l2 l3) := by
  induction l3 generalizing l2 s with
  | nil =>
    cases l2 <;> exact hk
  | cons a t ih =>
    cases l2 with
    | zero => exact hk
    | succ k =>
      unfold State.makeMoves
      have h := keeps_makeMove a host s hk
      extract_lets d
      split
      · exact ih _ _ h
      · exact ih _ _ h

theorem keeps_haulEpoch {s0 : State} (slot : Nat) (ns : List Nat) (fresh : List Nat) (host : List Host.Cell) (loads : List ShardLoad) (s : State) (hk : Keeps s0 s) : Keeps s0 (State.haulEpoch s slot ns fresh host loads) := by
  unfold State.haulEpoch
  repeat' first
    | with_reducible assumption
    | with_reducible apply keeps_ite
    | split
    | with_reducible apply keeps_halvePops
    | with_reducible apply keeps_makeMoves
    | with_reducible apply keeps_setEpochSt
    | with_reducible refine keeps_foldl ?_ _ _ ?_
    | with_reducible refine keeps_foldl_fst ?_ _ _ ?_
    | fail_if_no_progress with_reducible apply keeps_mk
    | (intro _)

theorem keeps_haulBoundary {s0 : State} (slot : Nat) (fresh : List Nat) (host : List Host.Cell) (loads : List ShardLoad) (s : State) (hk : Keeps s0 s) : Keeps s0 (State.haulBoundary s slot fresh host loads) := by
  unfold State.haulBoundary
  repeat' first
    | with_reducible assumption
    | split
    | with_reducible apply keeps_insertSamples
    | with_reducible apply keeps_publish
    | with_reducible apply keeps_unpinStep
    | with_reducible apply keeps_freeVersion
    | with_reducible apply keeps_haulEpoch
    | with_reducible refine keeps_foldl ?_ _ _ ?_
    | with_reducible refine keeps_foldl_fst ?_ _ _ ?_
    | fail_if_no_progress with_reducible apply keeps_mk
    | (intro _)
    | dsimp only

theorem keeps_haulFrozen {s0 : State} (host : List Host.Cell) (loads : List (Nat × Nat × Nat × Nat)) (s : State) (hk : Keeps s0 s) : Keeps s0 (State.haulFrozen s host loads) := by
  unfold State.haulFrozen
  repeat' first
    | with_reducible assumption
    | with_reducible apply keeps_ite
    | split
    | with_reducible apply keeps_insertSamples
    | with_reducible apply keeps_haulEpoch
    | with_reducible refine keeps_foldl ?_ _ _ ?_
    | with_reducible refine keeps_foldl_fst ?_ _ _ ?_
    | fail_if_no_progress with_reducible apply keeps_mk
    | (intro _)

theorem keeps_publishGo {s0 : State} (n : Nat) (s : State) (hk : Keeps s0 s) : Keeps s0 (State.publishGo s n).1 := by
  unfold State.publishGo
  repeat' first
    | with_reducible assumption
    | with_reducible apply keeps_ite
    | split
    | with_reducible apply keeps_setFld
    | with_reducible apply keeps_publish
    | with_reducible refine keeps_foldl ?_ _ _ ?_
    | with_reducible refine keeps_foldl_fst ?_ _ _ ?_
    | fail_if_no_progress with_reducible apply keeps_mk
    | (intro _)
    | dsimp only

theorem keeps_publishWrite {s0 : State} (by_ : Writer) (v : Word) (s : State) (hk : Keeps s0 s) : Keeps s0 (State.publishWrite s by_ v) := by
  unfold State.publishWrite
  repeat' first
    | with_reducible assumption
    | with_reducible apply keeps_ite
    | split
    | with_reducible apply keeps_setFld
    | with_reducible apply keeps_publishGo

theorem keeps_tselLoad {s0 : State} (v : Word) (s : State) (hk : Keeps s0 s) : Keeps s0 (State.tselLoad s v) := by
  unfold State.tselLoad
  repeat' first
    | with_reducible assumption
    | with_reducible apply keeps_ite
    | split
    | with_reducible apply keeps_setFld
    | with_reducible apply keeps_wr
    | with_reducible refine keeps_foldl ?_ _ _ ?_
    | with_reducible refine keeps_foldl_fst ?_ _ _ ?_
    | fail_if_no_progress with_reducible apply keeps_mk
    | (intro _)

theorem keeps_tselStore {s0 : State} (by_ : Writer) (v : Word) (s : State) (hk : Keeps s0 s) : Keeps s0 (State.tselStore s by_ v) := by
  unfold State.tselStore
  repeat' first
    | with_reducible assumption
    | with_reducible apply keeps_ite
    | split
    | with_reducible apply keeps_setFld
    | with_reducible apply keeps_setBit
    | with_reducible apply keeps_setTbl
    | with_reducible refine keeps_foldl ?_ _ _ ?_
    | with_reducible refine keeps_foldl_fst ?_ _ _ ?_
    | fail_if_no_progress with_reducible apply keeps_mk
    | (intro _)

theorem keeps_versionFreed {s0 : State} (n : Nat) (v : Nat) (s : State) (hk : Keeps s0 s) : Keeps s0 (State.versionFreed s n v) := by
  unfold State.versionFreed
  repeat' first
    | with_reducible assumption
    | with_reducible apply keeps_ite
    | split
    | with_reducible apply keeps_freeVersion

theorem keeps_execEmPublishGo {s0 : State} (by_ : Writer) (v : Word) (s : State) (hk : Keeps s0 s) : KeepsNext s0 (execEmPublishGo by_ v s) := by
  unfold execEmPublishGo
  repeat' first
    | with_reducible assumption
    | with_reducible apply keeps_ite
    | split
    | with_reducible apply keeps_byWriter
    | with_reducible apply keeps_publishWrite
    | with_reducible apply keepsNext
    | with_reducible refine keeps_foldl ?_ _ _ ?_
    | with_reducible refine keeps_foldl_fst ?_ _ _ ?_
    | fail_if_no_progress with_reducible apply keeps_mk
    | (intro _)

theorem keeps_execEmTselLoad {s0 : State} (v : Word) (s : State) (hk : Keeps s0 s) : KeepsNext s0 (execEmTselLoad v s) := by
  unfold execEmTselLoad
  repeat' first
    | with_reducible assumption
    | with_reducible apply keeps_ite
    | split
    | with_reducible apply keeps_tselLoad
    | with_reducible apply keepsNext

theorem keeps_execEmTselStore {s0 : State} (by_ : Writer) (v : Word) (s : State) (hk : Keeps s0 s) : KeepsNext s0 (execEmTselStore by_ v s) := by
  unfold execEmTselStore
  repeat' first
    | with_reducible assumption
    | with_reducible apply keeps_ite
    | split
    | with_reducible apply keeps_byWriter
    | with_reducible apply keeps_tselStore
    | with_reducible apply keepsNext
    | with_reducible refine keeps_foldl ?_ _ _ ?_
    | with_reducible refine keeps_foldl_fst ?_ _ _ ?_
    | fail_if_no_progress with_reducible apply keeps_mk
    | (intro _)

theorem keeps_execEmVersionFreed {s0 : State} (table : Nat) (vsn : Nat) (s : State) (hk : Keeps s0 s) : KeepsNext s0 (execEmVersionFreed table vsn s) := by
  unfold execEmVersionFreed
  repeat' first
    | with_reducible assumption
    | with_reducible apply keeps_ite
    | split
    | with_reducible apply keeps_versionFreed
    | with_reducible apply keepsNext

theorem keeps_execHaulEpochEnd {s0 : State} (host : List Host.Cell) (loads : List (Nat × Nat × Nat × Nat)) (s : State) (hk : Keeps s0 s) : KeepsNext s0 (execHaulEpochEnd host loads s) := by
  unfold execHaulEpochEnd
  repeat' first
    | with_reducible assumption
    | with_reducible apply keeps_ite
    | split
    | with_reducible apply keeps_haulFrozen
    | with_reducible apply keepsNext

end Sys2Proof.Machine
end

