-- ==== Sys2Proof/Laws/Keeps/Sweep.lean ====
section
/-! SUPPORT. What the operations of Machine/Sweep.lean keep. -/

namespace Sys2Proof.Machine

theorem keeps_readRows {s0 : State} (n : Nat) (host : List Host.Cell) (rows : List Nat) (s : State) (hk : Keeps s0 s) : Keeps s0 (State.readRows s n host rows).1 := by
  unfold State.readRows
  repeat' first
    | with_reducible assumption
    | with_reducible apply keeps_ite
    | split
    | with_reducible apply keeps_readRow
    | with_reducible refine keeps_foldl ?_ _ _ ?_
    | with_reducible refine keeps_foldl_fst ?_ _ _ ?_
    | fail_if_no_progress with_reducible apply keeps_mk
    | (intro _)
    | dsimp only

theorem keeps_readMaster {s0 : State} (slot : Nat) (e : Nat) (first : Nat) (n : Nat) (s : State) (hk : Keeps s0 s) : Keeps s0 (State.readMaster s slot e first n).1 := by
  unfold State.readMaster
  repeat' first
    | with_reducible assumption
    | with_reducible apply keeps_ite
    | split
    | with_reducible apply keeps_readDev

theorem keeps_readWords {s0 : State} (ag : Agent) (a : Nat) (n : Nat) (s : State) (hk : Keeps s0 s) : Keeps s0 (State.readWords s ag a n).1 := by
  unfold State.readWords
  repeat' first
    | with_reducible assumption
    | with_reducible apply keeps_ite
    | split
    | with_reducible apply keeps_readDev

theorem keeps_readState {s0 : State} (slot : Nat) (e : Nat) (v : Nat) (first : Nat) (n : Nat) (s : State) (hk : Keeps s0 s) : Keeps s0 (State.readState s slot e v first n).1 := by
  unfold State.readState
  repeat' first
    | with_reducible assumption
    | with_reducible apply keeps_ite
    | split
    | with_reducible apply keeps_readBlocksOf
    | with_reducible apply keeps_flagSlot

theorem keeps_blockData {s0 : State} (slot : Nat) (e : Nat) (b : Nat) (host : List Host.Cell) (s : State) (hk : Keeps s0 s) : Keeps s0 (State.blockData s slot e b host).1 := by
  unfold State.blockData
  repeat' first
    | with_reducible assumption
    | with_reducible apply keeps_ite
    | split
    | with_reducible apply keeps_readRows
    | with_reducible apply keeps_flagSlot
    | with_reducible apply keeps_readMaster
    | with_reducible apply keeps_readWords
    | with_reducible apply keeps_readState
    | with_reducible refine keeps_foldl ?_ _ _ ?_
    | with_reducible refine keeps_foldl_fst ?_ _ _ ?_
    | fail_if_no_progress with_reducible apply keeps_mk
    | (intro _)
    | dsimp only

theorem keeps_drawScale {s0 : State} (s : State) (hk : Keeps s0 s) : Keeps s0 (State.drawScale s).2 := by
  unfold State.drawScale
  repeat' first
    | with_reducible assumption
    | with_reducible apply keeps_ite
    | split
    | with_reducible apply keeps_draw

theorem keeps_writeChannel {s0 : State} (slot : Nat) (tid : Nat) (a : Nat) (w : Nat) (l : List Word) (s : State) (hk : Keeps s0 s) : Keeps s0 (State.writeChannel s slot tid a w l) := by
  unfold State.writeChannel
  repeat' first
    | with_reducible assumption
    | with_reducible apply keeps_ite
    | split
    | with_reducible apply keeps_drawScale
    | with_reducible apply keeps_writeDev
    | with_reducible apply keeps_flagSlot

theorem keeps_writeCopy {s0 : State} (slot : Nat) (tid : Nat) (a : Nat) (rows : Nat) (cols : Nat) (chan : Nat → List Word) (f : Nat → Bool) (l8 : Nat) (s : State) (hk : Keeps s0 s) : Keeps s0 (State.writeCopy s slot tid a rows cols chan f l8) := by
  induction l8 generalizing s slot tid a rows cols chan f with
  | zero =>
    unfold State.writeCopy
    repeat' first
      | with_reducible assumption
  | succ n ih =>
    unfold State.writeCopy
    repeat' first
      | with_reducible assumption
      | with_reducible apply ih
      | with_reducible apply keeps_ite
      | split
      | with_reducible apply keeps_writeChannel

theorem keeps_deriveCopies {s0 : State} (slot : Nat) (e : Nat) (first : Nat) (n : Nat) (s : State) (hk : Keeps s0 s) : Keeps s0 (State.deriveCopies s slot e first n).1 := by
  unfold State.deriveCopies
  repeat' first
    | with_reducible assumption
    | split
    | with_reducible apply keeps_readMaster
    | with_reducible apply keeps_writeCopy
    | with_reducible apply keeps_writeDev
    | with_reducible refine keeps_foldl ?_ _ _ ?_
    | with_reducible refine keeps_foldl_fst ?_ _ _ ?_
    | fail_if_no_progress with_reducible apply keeps_mk
    | (intro _)
    | dsimp only

theorem keeps_writeRows {s0 : State} (slot : Nat) (n : Nat) (dim : Nat) (master : List Word) (st1 : List Word) (st2 : List Word) (l7 : List (Nat × Nat)) (s : State) (hk : Keeps s0 s) : Keeps s0 (State.writeRows s slot n dim master st1 st2 l7) := by
  induction l7 generalizing s slot n dim master st1 st2 with
  | nil =>
    unfold State.writeRows
    repeat' first
      | with_reducible assumption
  | cons e r ih =>
    unfold State.writeRows
    repeat' first
      | with_reducible assumption
      | with_reducible apply ih
      | with_reducible apply keeps_ite
      | split
      | with_reducible apply keeps_raise
      | with_reducible apply keeps_count
      | with_reducible apply keeps_stale
      | with_reducible apply keeps_writeRowAt

theorem keeps_writeMaster {s0 : State} (slot : Nat) (e : Nat) (first : Nat) (l : List Word) (s : State) (hk : Keeps s0 s) : Keeps s0 (State.writeMaster s slot e first l) := by
  unfold State.writeMaster
  repeat' first
    | with_reducible assumption
    | with_reducible apply keeps_ite
    | split
    | with_reducible apply keeps_writeDev
    | with_reducible apply keeps_flagSlot

theorem keeps_setSweep {s0 : State} (slot : Nat) (v : SweepSt) (s : State) (hk : Keeps s0 s) : Keeps s0 (State.setSweep s slot v) := by
  unfold State.setSweep
  repeat' first
    | with_reducible assumption
    | with_reducible apply keeps_ite
    | split
    | with_reducible refine keeps_foldl ?_ _ _ ?_
    | with_reducible refine keeps_foldl_fst ?_ _ _ ?_
    | fail_if_no_progress with_reducible apply keeps_mk

theorem keeps_setReadOnly {s0 : State} (slot : Nat) (grad : Nat) (n : Nat) (v : Bool) (s : State) (hk : Keeps s0 s) : Keeps s0 (State.setReadOnly s slot grad n v) := by
  unfold State.setReadOnly
  repeat' first
    | with_reducible assumption
    | with_reducible apply keeps_ite
    | split
    | with_reducible apply keeps_handOwner
    | with_reducible refine keeps_foldl ?_ _ _ ?_
    | with_reducible refine keeps_foldl_fst ?_ _ _ ?_
    | fail_if_no_progress with_reducible apply keeps_mk
    | (intro _)

theorem keeps_sweepFault {s0 : State} (slot : Nat) (code : Code) (m : Nat) (s : State) (hk : Keeps s0 s) : Keeps s0 (State.sweepFault s slot code m) := by
  unfold State.sweepFault
  repeat' first
    | with_reducible assumption
    | with_reducible apply keeps_ite
    | split
    | with_reducible apply keeps_reloadStop
    | with_reducible apply keeps_raise

theorem keeps_finishUpdate {s0 : State} (slot : Nat) (b : SweepBlk) (s : State) (hk : Keeps s0 s) : Keeps s0 (State.finishUpdate s slot b) := by
  unfold State.finishUpdate
  repeat' first
    | with_reducible assumption
    | with_reducible apply keeps_ite
    | split
    | with_reducible apply keeps_wakeSpans
    | with_reducible apply keeps_readWords
    | with_reducible apply keeps_writeRows
    | with_reducible apply keeps_writeMaster
    | with_reducible apply keeps_setSweep
    | with_reducible apply keeps_setReadOnly
    | with_reducible apply keeps_sweepFault

theorem keeps_scaleSegs {s0 : State} (slot : Nat) (e : Nat) (v : Nat) (fmt : Fmt) (l : List Word) (l6 : Nat) (s : State) (hk : Keeps s0 s) : Keeps s0 (State.scaleSegs s slot e v fmt l l6).1 := by
  induction l6 generalizing s slot e v fmt l with
  | zero =>
    unfold State.scaleSegs
    repeat' first
      | with_reducible assumption
  | succ n ih =>
    unfold State.scaleSegs
    repeat' first
      | with_reducible assumption
      | with_reducible apply ih
      | with_reducible apply keeps_ite
      | split
      | with_reducible apply keeps_drawScale
      | with_reducible apply keeps_flagSlot
      | with_reducible apply keeps_writeDev

theorem keeps_stage {s0 : State} (slot : Nat) (a : Nat) (n : Nat) (l : List Word) (s : State) (hk : Keeps s0 s) : Keeps s0 (State.stage s slot a n l) := by
  unfold State.stage
  repeat' first
    | with_reducible assumption
    | with_reducible apply keeps_ite
    | split
    | with_reducible apply keeps_writeDev

theorem keeps_updateTask {s0 : State} (slot : Nat) (e : Nat) (b : Nat) (m : Nat) (area : Nat) (grad : Nat) (first : Nat) (n : Nat) (width : Nat) (pc : Word) (last : Bool) (s : State) (hk : Keeps s0 s) : Keeps s0 (State.updateTask s slot e b m area grad first n width pc last).1 := by
  unfold State.updateTask
  repeat' first
    | with_reducible assumption
    | with_reducible apply keeps_ite
    | split
    | with_reducible apply keeps_newTask
    | with_reducible apply keeps_setTask
    | with_reducible apply keeps_setSweep
    | with_reducible apply keeps_setQueue

theorem keeps_stageUpdate {s0 : State} (slot : Nat) (e : Nat) (b : Nat) (area : Nat) (grad : Nat) (pc : Word) (host : List Host.Cell) (s : State) (hk : Keeps s0 s) : Keeps s0 (State.stageUpdate s slot e b area grad pc host) := by
  unfold State.stageUpdate
  repeat' first
    | with_reducible assumption
    | with_reducible apply keeps_ite
    | split
    | with_reducible apply keeps_sweepFault
    | with_reducible apply keeps_wakeSpans
    | with_reducible apply keeps_blockData
    | with_reducible apply keeps_readDev
    | with_reducible apply keeps_stage
    | with_reducible apply keeps_setReadOnly
    | with_reducible apply keeps_writeDev
    | with_reducible apply keeps_updateTask

theorem keeps_sweepStart {s0 : State} (slot : Nat) (s : State) (hk : Keeps s0 s) : Keeps s0 (State.sweepStart s slot) := by
  unfold State.sweepStart
  repeat' first
    | with_reducible assumption
    | with_reducible apply keeps_ite
    | split
    | with_reducible apply keeps_setSweep
    | with_reducible apply keeps_setSlot
    | with_reducible apply keeps_setJob

theorem keeps_sweepUpdate {s0 : State} (slot : Nat) (e : Nat) (b : Nat) (area : Nat) (grad : Nat) (pc : Word) (host : List Host.Cell) (s : State) (hk : Keeps s0 s) : Keeps s0 (State.sweepUpdate s slot e b area grad pc host) := by
  unfold State.sweepUpdate
  repeat' first
    | with_reducible assumption
    | with_reducible apply keeps_ite
    | split
    | with_reducible apply keeps_finishUpdate
    | with_reducible apply keeps_stageUpdate
    | with_reducible refine keeps_foldl ?_ _ _ ?_
    | with_reducible refine keeps_foldl_fst ?_ _ _ ?_
    | fail_if_no_progress with_reducible apply keeps_mk
    | (intro _)
    | dsimp only

theorem keeps_writeState {s0 : State} (slot : Nat) (e : Nat) (v : Nat) (s : State) (hk : Keeps s0 s) : Keeps s0 (State.writeState s slot e v).1 := by
  unfold State.writeState
  repeat' first
    | with_reducible assumption
    | with_reducible apply keeps_ite
    | split
    | with_reducible apply keeps_scaleSegs
    | with_reducible apply keeps_storeBlock
    | with_reducible apply keeps_countEscapes
    | with_reducible apply keeps_flagSlot
    | with_reducible refine keeps_foldl ?_ _ _ ?_
    | with_reducible refine keeps_foldl_fst ?_ _ _ ?_
    | fail_if_no_progress with_reducible apply keeps_mk
    | (intro _)

theorem keeps_execSweepStart {s0 : State} (slot : Nat) (s : State) (hk : Keeps s0 s) : KeepsNext s0 (execSweepStart slot s) := by
  unfold execSweepStart
  repeat' first
    | with_reducible assumption
    | with_reducible apply keeps_ite
    | split
    | with_reducible apply keeps_sweepStart
    | with_reducible apply keepsNext

theorem keeps_execSweepUpdateTask {s0 : State} (slot : Nat) (entry : Nat) (block : Nat) (area : Nat) (grad : Nat) (pc : Word) (host : List Host.Cell) (s : State) (hk : Keeps s0 s) : KeepsNext s0 (execSweepUpdateTask slot entry block area grad pc host s) := by
  unfold execSweepUpdateTask
  repeat' first
    | with_reducible assumption
    | with_reducible apply keeps_ite
    | split
    | with_reducible apply keeps_sweepUpdate
    | with_reducible apply keepsNext

end Sys2Proof.Machine
end

