-- ==== Sys2Proof/Laws/Keeps/Level.lean ====
section
/-! SUPPORT. What the operations of Machine/Level.lean keep. -/

namespace Sys2Proof.Machine

theorem keeps_runAccess {s0 : State} (w : TagWait) (s : State) (hk : Keeps s0 s) : Keeps s0 (State.runAccess s w) := by
  unfold State.runAccess
  repeat' first
    | with_reducible assumption
    | with_reducible apply keeps_ite
    | split
    | with_reducible apply keeps_takeTag
    | with_reducible apply keeps_writeDev
    | with_reducible apply keeps_pairUe
    | with_reducible apply keeps_emit
    | with_reducible apply keeps_readDev
    | with_reducible apply keeps_freeUser

theorem keeps_tagAccess {s0 : State} (w : TagWait) (s : State) (hk : Keeps s0 s) : Keeps s0 (State.tagAccess s w) := by
  unfold State.tagAccess
  repeat' first
    | with_reducible assumption
    | with_reducible apply keeps_ite
    | split
    | with_reducible apply keeps_runAccess
    | with_reducible apply keeps_numbered
    | with_reducible apply keeps_stallTag

theorem keeps_sendDeep {s0 : State} (r : DeepRead) (s : State) (hk : Keeps s0 s) : Keeps s0 (State.sendDeep s r) := by
  unfold State.sendDeep
  repeat' first
    | with_reducible assumption
    | with_reducible apply keeps_ite
    | split
    | with_reducible apply keeps_takeTag
    | with_reducible apply keeps_emit
    | with_reducible refine keeps_foldl ?_ _ _ ?_
    | with_reducible refine keeps_foldl_fst ?_ _ _ ?_
    | fail_if_no_progress with_reducible apply keeps_mk

theorem keeps_startDeep {s0 : State} (w : Nat) (slot : Option Nat) (a : Nat) (n : Nat) (s : State) (hk : Keeps s0 s) : Keeps s0 (State.startDeep s w slot a n) := by
  unfold State.startDeep
  repeat' first
    | with_reducible assumption
    | with_reducible apply keeps_ite
    | split
    | with_reducible apply keeps_sendDeep
    | with_reducible apply keeps_stallTag
    | with_reducible refine keeps_foldl ?_ _ _ ?_
    | with_reducible refine keeps_foldl_fst ?_ _ _ ?_
    | fail_if_no_progress with_reducible apply keeps_mk

theorem keeps_deepAccess {s0 : State} (slot : Option Nat) (a : Nat) (size : Nat) (data : Option (List Byte)) (s : State) (hk : Keeps s0 s) : Keeps s0 (State.deepAccess s slot a size data) := by
  unfold State.deepAccess
  repeat' first
    | with_reducible assumption
    | with_reducible apply keeps_ite
    | split
    | with_reducible apply keeps_tagAccess
    | with_reducible apply keeps_emit
    | with_reducible apply keeps_unmapped
    | with_reducible apply keeps_startDeep
    | with_reducible refine keeps_foldl ?_ _ _ ?_
    | with_reducible refine keeps_foldl_fst ?_ _ _ ?_
    | fail_if_no_progress with_reducible apply keeps_mk
    | (intro _)

theorem keeps_endDeep {s0 : State} (r : DeepRead) (s : State) (hk : Keeps s0 s) : Keeps s0 (State.endDeep s r) := by
  unfold State.endDeep
  repeat' first
    | with_reducible assumption
    | with_reducible apply keeps_ite
    | split
    | with_reducible apply keeps_freeUser
    | with_reducible refine keeps_foldl ?_ _ _ ?_
    | with_reducible refine keeps_foldl_fst ?_ _ _ ?_
    | fail_if_no_progress with_reducible apply keeps_mk

theorem keeps_deepDone {s0 : State} (id : Nat) (data : Option (List Byte)) (s : State) (hk : Keeps s0 s) : Keeps s0 (State.deepDone s id data) := by
  unfold State.deepDone
  repeat' first
    | with_reducible assumption
    | with_reducible apply keeps_ite
    | split
    | with_reducible apply keeps_endDeep
    | with_reducible apply keeps_emit
    | with_reducible apply keeps_deepTimeout

theorem keeps_fenceChannel {s0 : State} (c : Nat) (step : Nat) (s : State) (hk : Keeps s0 s) : Keeps s0 (State.fenceChannel s c step) := by
  unfold State.fenceChannel
  repeat' first
    | with_reducible assumption
    | with_reducible apply keeps_ite
    | split
    | with_reducible apply keeps_raise
    | with_reducible apply keeps_setFld

theorem keeps_granted {s0 : State} (w : TagWait) (s : State) (hk : Keeps s0 s) : Keeps s0 (State.granted s w) := by
  unfold State.granted
  repeat' first
    | with_reducible assumption
    | with_reducible apply keeps_ite
    | split
    | with_reducible apply keeps_pump
    | with_reducible apply keeps_startRowReq
    | with_reducible apply keeps_transmitAll
    | with_reducible apply keeps_takeTag
    | with_reducible apply keeps_sendDeep
    | with_reducible apply keeps_runAccess
    | with_reducible apply keeps_freeUser

theorem keeps_ldChFail {s0 : State} (c : Nat) (s : State) (hk : Keeps s0 s) : Keeps s0 (State.ldChFail s c) := by
  unfold State.ldChFail
  repeat' first
    | with_reducible assumption
    | with_reducible apply keeps_ite
    | split
    | with_reducible apply keeps_reloadStop
    | with_reducible apply keeps_fenceChannel
    | with_reducible refine keeps_foldl ?_ _ _ ?_
    | with_reducible refine keeps_foldl_fst ?_ _ _ ?_
    | fail_if_no_progress with_reducible apply keeps_mk
    | (intro _)

theorem keeps_ldCalibration {s0 : State} (c : Nat) (waited : Bool) (forced : Bool) (restored : Bool) (s : State) (hk : Keeps s0 s) : Keeps s0 (State.ldCalibration s c waited forced restored) := by
  unfold State.ldCalibration
  repeat' first
    | with_reducible assumption
    | with_reducible apply keeps_ite
    | split
    | with_reducible apply keeps_count
    | with_reducible apply keeps_ldChFail

theorem keeps_upsetArea {s0 : State} (c : Nat) (block : Nat) (errors : List (Nat × Nat)) (s : State) (hk : Keeps s0 s) : Keeps s0 (State.upsetArea s c block errors) := by
  unfold State.upsetArea
  repeat' first
    | with_reducible assumption
    | with_reducible apply keeps_ite
    | split
    | with_reducible refine keeps_foldl ?_ _ _ ?_
    | with_reducible refine keeps_foldl_fst ?_ _ _ ?_
    | fail_if_no_progress with_reducible apply keeps_mk

theorem keeps_upsetPair {s0 : State} (c : Nat) (addr : Nat) (a : Nat) (errors : List (Nat × Nat)) (s : State) (hk : Keeps s0 s) : Keeps s0 (State.upsetPair s c addr a errors) := by
  unfold State.upsetPair
  repeat' first
    | with_reducible assumption
    | with_reducible apply keeps_ite
    | split
    | with_reducible apply keeps_upsetArea
    | with_reducible refine keeps_foldl ?_ _ _ ?_
    | with_reducible refine keeps_foldl_fst ?_ _ _ ?_
    | fail_if_no_progress with_reducible apply keeps_mk

theorem keeps_retryFail {s0 : State} (c : Nat) (s : State) (hk : Keeps s0 s) : Keeps s0 (State.retryFail s c) := by
  unfold State.retryFail
  repeat' first
    | with_reducible assumption
    | with_reducible apply keeps_ite
    | split
    | with_reducible apply keeps_ldChFail
    | with_reducible refine keeps_foldl ?_ _ _ ?_
    | with_reducible refine keeps_foldl_fst ?_ _ _ ?_
    | fail_if_no_progress with_reducible apply keeps_mk

theorem keeps_ldRead {s0 : State} (slot : Option Nat) (a : Nat) (size : Nat) (errors : List (Nat × Nat)) (areaErrors : List (Nat × Nat)) (linkFails : Nat) (s : State) (hk : Keeps s0 s) : Keeps s0 (State.ldRead s slot a size errors areaErrors linkFails) := by
  unfold State.ldRead
  repeat' first
    | with_reducible assumption
    | with_reducible apply keeps_ite
    | split
    | with_reducible apply keeps_upsetArea
    | with_reducible apply keeps_upsetPair
    | with_reducible apply keeps_tagAccess
    | with_reducible apply keeps_count
    | with_reducible apply keeps_setBit
    | with_reducible apply keeps_retryFail

theorem keeps_ldRefresh {s0 : State} (channel : Nat) (bank : Nat) (s : State) (hk : Keeps s0 s) : Keeps s0 (State.ldRefresh s channel bank) := by
  unfold State.ldRefresh
  repeat' first
    | with_reducible assumption
    | with_reducible apply keeps_ite
    | split
    | with_reducible apply keeps_freeUser
    | with_reducible apply keeps_takeTag
    | with_reducible apply keeps_numbered
    | with_reducible apply keeps_stallTag

theorem keeps_ldRfm {s0 : State} (c : Nat) (s : State) (hk : Keeps s0 s) : Keeps s0 (State.ldRfm s c) := by
  unfold State.ldRfm
  repeat' first
    | with_reducible assumption
    | with_reducible apply keeps_ite
    | split
    | with_reducible apply keeps_count

theorem keeps_scrubArea {s0 : State} (c : Nat) (block : Nat) (s : State) (hk : Keeps s0 s) : Keeps s0 (State.scrubArea s c block).1 := by
  unfold State.scrubArea
  repeat' first
    | with_reducible assumption
    | with_reducible apply keeps_ite
    | split
    | with_reducible apply keeps_pairCe
    | with_reducible apply keeps_pairUe
    | with_reducible apply keeps_touchArea
    | with_reducible refine keeps_foldl ?_ _ _ ?_
    | with_reducible refine keeps_foldl_fst ?_ _ _ ?_
    | fail_if_no_progress with_reducible apply keeps_mk
    | (intro _)
    | dsimp only

theorem keeps_upsetBlock {s0 : State} (c : Nat) (block : Nat) (errors : List (Nat × Nat × Nat)) (s : State) (hk : Keeps s0 s) : Keeps s0 (State.upsetBlock s c block errors) := by
  unfold State.upsetBlock
  repeat' first
    | with_reducible assumption
    | with_reducible apply keeps_ite
    | split
    | with_reducible apply keeps_upsetArea
    | with_reducible apply keeps_upsetPair
    | with_reducible refine keeps_foldl ?_ _ _ ?_
    | with_reducible refine keeps_foldl_fst ?_ _ _ ?_
    | fail_if_no_progress with_reducible apply keeps_mk
    | (intro _)

theorem keeps_scrubPair {s0 : State} (c : Nat) (block : Nat) (j : Nat) (wrong : Errors) (s : State) (hk : Keeps s0 s) : Keeps s0 (State.scrubPair s c block j wrong).1 := by
  unfold State.scrubPair
  repeat' first
    | with_reducible assumption
    | with_reducible apply keeps_ite
    | split
    | with_reducible apply keeps_storePair
    | with_reducible apply keeps_pairCe
    | with_reducible apply keeps_pairUe
    | with_reducible refine keeps_foldl ?_ _ _ ?_
    | with_reducible refine keeps_foldl_fst ?_ _ _ ?_
    | fail_if_no_progress with_reducible apply keeps_mk
    | (intro _)
    | dsimp only

theorem keeps_ldScrub {s0 : State} (c : Nat) (forced : Bool) (errors : List (Nat × Nat × Nat)) (s : State) (hk : Keeps s0 s) : Keeps s0 (State.ldScrub s c forced errors) := by
  unfold State.ldScrub
  repeat' first
    | with_reducible assumption
    | with_reducible apply keeps_ite
    | split
    | with_reducible apply keeps_scrubArea
    | with_reducible apply keeps_upsetBlock
    | with_reducible apply keeps_scrubPair
    | with_reducible apply keeps_setStatus
    | with_reducible apply keeps_count
    | with_reducible apply keeps_setFld
    | with_reducible refine keeps_foldl ?_ _ _ ?_
    | with_reducible refine keeps_foldl_fst ?_ _ _ ?_
    | fail_if_no_progress with_reducible apply keeps_mk
    | (intro _)

theorem keeps_ldWrite {s0 : State} (slot : Option Nat) (a : Nat) (data : List Byte) (s : State) (hk : Keeps s0 s) : Keeps s0 (State.ldWrite s slot a data) := by
  unfold State.ldWrite
  repeat' first
    | with_reducible assumption
    | with_reducible apply keeps_ite
    | split
    | with_reducible apply keeps_tagAccess

theorem keeps_setPackage {s0 : State} (k : Nat) (st : Nat) (s : State) (hk : Keeps s0 s) : Keeps s0 (State.setPackage s k st) := by
  unfold State.setPackage
  repeat' first
    | with_reducible assumption
    | with_reducible apply keeps_ite
    | split
    | with_reducible apply keeps_setFld
    | with_reducible refine keeps_foldl ?_ _ _ ?_
    | with_reducible refine keeps_foldl_fst ?_ _ _ ?_
    | fail_if_no_progress with_reducible apply keeps_mk
    | (intro _)

theorem keeps_trainNext {s0 : State} (hf : Nat) (s : State) (hk : Keeps s0 s) : Keeps s0 (State.trainNext s hf) := by
  unfold State.trainNext
  repeat' first
    | with_reducible assumption
    | with_reducible apply keeps_ite
    | split
    | with_reducible apply keeps_setPackage

theorem keeps_packageTrain {s0 : State} (k : Nat) (giB : Nat) (fails : List (Nat × Nat)) (s : State) (hk : Keeps s0 s) : Keeps s0 (State.packageTrain s k giB fails) := by
  unfold State.packageTrain
  repeat' first
    | with_reducible assumption
    | with_reducible apply keeps_ite
    | split
    | with_reducible apply keeps_setBit
    | with_reducible apply keeps_setPackage
    | with_reducible apply keeps_fenceChannel
    | with_reducible apply keeps_trainNext
    | with_reducible refine keeps_foldl ?_ _ _ ?_
    | with_reducible refine keeps_foldl_fst ?_ _ _ ?_
    | fail_if_no_progress with_reducible apply keeps_mk
    | (intro _)

theorem keeps_tagGrant {s0 : State} (hf : Nat) (s : State) (hk : Keeps s0 s) : Keeps s0 (State.tagGrant s hf) := by
  unfold State.tagGrant
  repeat' first
    | with_reducible assumption
    | with_reducible apply keeps_ite
    | split
    | with_reducible apply keeps_granted
    | with_reducible apply keeps_pumpAll
    | with_reducible refine keeps_foldl ?_ _ _ ?_
    | with_reducible refine keeps_foldl_fst ?_ _ _ ?_
    | fail_if_no_progress with_reducible apply keeps_mk

theorem keeps_execDeepAccess {s0 : State} (slot : Option Nat) (addr : Nat) (size : Nat) (data : Option (List Byte)) (s : State) (hk : Keeps s0 s) : KeepsNext s0 (execDeepAccess slot addr size data s) := by
  unfold execDeepAccess
  repeat' first
    | with_reducible assumption
    | with_reducible apply keeps_ite
    | split
    | with_reducible apply keeps_deepAccess
    | with_reducible apply keepsNext

theorem keeps_execDeepReadCompletion {s0 : State} (id : Nat) (data : Option (List Byte)) (s : State) (hk : Keeps s0 s) : KeepsNext s0 (execDeepReadCompletion id data s) := by
  unfold execDeepReadCompletion
  repeat' first
    | with_reducible assumption
    | with_reducible apply keeps_ite
    | split
    | with_reducible apply keeps_deepDone
    | with_reducible apply keepsNext

theorem keeps_execDeepTimeout {s0 : State} (id : Nat) (s : State) (hk : Keeps s0 s) : KeepsNext s0 (execDeepTimeout id s) := by
  unfold execDeepTimeout
  repeat' first
    | with_reducible assumption
    | with_reducible apply keeps_ite
    | split
    | with_reducible apply keeps_deepDone
    | with_reducible apply keepsNext

theorem keeps_execLdCalibration {s0 : State} (channel : Nat) (waited : Bool) (forced : Bool) (restored : Bool) (s : State) (hk : Keeps s0 s) : KeepsNext s0 (execLdCalibration channel waited forced restored s) := by
  unfold execLdCalibration
  repeat' first
    | with_reducible assumption
    | with_reducible apply keeps_ite
    | split
    | with_reducible apply keeps_ldCalibration
    | with_reducible apply keepsNext

theorem keeps_execLdChFail {s0 : State} (channel : Nat) (s : State) (hk : Keeps s0 s) : KeepsNext s0 (execLdChFail channel s) := by
  unfold execLdChFail
  repeat' first
    | with_reducible assumption
    | with_reducible apply keeps_ite
    | split
    | with_reducible apply keeps_ldChFail
    | with_reducible apply keepsNext

theorem keeps_execLdPackageTrain {s0 : State} (package : Nat) (giB : Nat) (fails : List (Nat × Nat)) (s : State) (hk : Keeps s0 s) : KeepsNext s0 (execLdPackageTrain package giB fails s) := by
  unfold execLdPackageTrain
  repeat' first
    | with_reducible assumption
    | with_reducible apply keeps_ite
    | split
    | with_reducible apply keeps_packageTrain
    | with_reducible apply keepsNext

theorem keeps_execLdRead {s0 : State} (slot : Option Nat) (addr : Nat) (size : Nat) (errors : List (Nat × Nat)) (areaErrors : List (Nat × Nat)) (linkFails : Nat) (s : State) (hk : Keeps s0 s) : KeepsNext s0 (execLdRead slot addr size errors areaErrors linkFails s) := by
  unfold execLdRead
  repeat' first
    | with_reducible assumption
    | with_reducible apply keeps_ite
    | split
    | with_reducible apply keeps_ldRead
    | with_reducible apply keepsNext

theorem keeps_execLdRefresh {s0 : State} (channel : Nat) (bank : Nat) (s : State) (hk : Keeps s0 s) : KeepsNext s0 (execLdRefresh channel bank s) := by
  unfold execLdRefresh
  repeat' first
    | with_reducible assumption
    | with_reducible apply keeps_ite
    | split
    | with_reducible apply keeps_ldRefresh
    | with_reducible apply keepsNext

theorem keeps_execLdRfm {s0 : State} (channel : Nat) (s : State) (hk : Keeps s0 s) : KeepsNext s0 (execLdRfm channel s) := by
  unfold execLdRfm
  repeat' first
    | with_reducible assumption
    | with_reducible apply keeps_ite
    | split
    | with_reducible apply keeps_ldRfm
    | with_reducible apply keepsNext

theorem keeps_execLdScrubRead {s0 : State} (channel : Nat) (turn : LdScrubTurn) (s : State) (hk : Keeps s0 s) : KeepsNext s0 (execLdScrubRead channel turn s) := by
  unfold execLdScrubRead
  repeat' first
    | with_reducible assumption
    | with_reducible apply keeps_ite
    | split
    | with_reducible apply keeps_ldScrub
    | with_reducible apply keepsNext

theorem keeps_execLdWrite {s0 : State} (slot : Option Nat) (addr : Nat) (data : List Byte) (s : State) (hk : Keeps s0 s) : KeepsNext s0 (execLdWrite slot addr data s) := by
  unfold execLdWrite
  repeat' first
    | with_reducible assumption
    | with_reducible apply keeps_ite
    | split
    | with_reducible apply keeps_ldWrite
    | with_reducible apply keepsNext

theorem keeps_execTagGrant {s0 : State} (hf : Nat) (s : State) (hk : Keeps s0 s) : KeepsNext s0 (execTagGrant hf s) := by
  unfold execTagGrant
  repeat' first
    | with_reducible assumption
    | with_reducible apply keeps_ite
    | split
    | with_reducible apply keeps_tagGrant
    | with_reducible apply keepsNext

end Sys2Proof.Machine
end

