-- ==== Sys2Proof/Laws/Keeps/Chain.lean ====
section
/-! SUPPORT. What the operations of Machine/Chain.lean keep. -/

namespace Sys2Proof.Machine

theorem keeps_readLines {s0 : State} (ag : Agent) (a : Nat) (n : Nat) (s : State) (hk : Keeps s0 s) : Keeps s0 (State.readLines s ag a n).1 := by
  unfold State.readLines
  repeat' first
    | with_reducible assumption
    | with_reducible apply keeps_ite
    | split
    | with_reducible apply keeps_readDev
    | with_reducible refine keeps_foldl ?_ _ _ ?_
    | with_reducible refine keeps_foldl_fst ?_ _ _ ?_
    | fail_if_no_progress with_reducible apply keeps_mk
    | (intro _)

theorem keeps_takeChain {s0 : State} (x k : Nat) (t : Task) (i : Insn) (word a : Nat) (h : State × List Line × Bool) (s : State) (hk : Keeps s0 s)
    (hh : Keeps s0 h.1) : KeepsIssue s0 (s.takeChain x k t i word a h) := by
  unfold State.takeChain
  extract_lets m ag hd n r info c wAt spans w
  split
  · exact keepsIssue_fault _ _ _
  split
  · exact keepsIssue_fault _ _ _
  split
  · exact keepsIssue_fault _ _ _
  split
  · exact keepsIssue_stay _ _ (keeps_wakeSpans _ _ _ _ hk)
  split
  · exact keepsIssue_stay _ _ hk
  · have hw : Keeps s0 w.1 := by
      refine keeps_foldl_fst (fun p i hp => ?_) _ _ (keeps_readLines _ _ _ _ hh)
      split
      · exact keeps_readLines _ _ _ _ hp
      · exact hp
    exact keepsIssue_go _ _ (keeps_numbered _ (keeps_setChains _ _ _ hw))

theorem keeps_chainBody {s0 : State} (x : Nat) (a : SReg) (b : SReg) (k : Nat) (t : Task) (s : State) (hk : Keeps s0 s) : KeepsIssue s0 (State.chainBody x a b s k t) := by
  unfold State.chainBody
  extract_lets ag word at_ h
  split
  · exact keepsIssue_fault _ _ _
  split
  · exact keepsIssue_fault _ _ _
  split
  · exact keepsIssue_fault _ _ _
  split
  · exact keepsIssue_stay _ _ (keeps_wakeSpans _ _ _ _ hk)
  split
  · exact keepsIssue_fault _ _ _
  split
  · exact keepsIssue_fault _ _ _
  split
  · exact keepsIssue_stay _ _ (keeps_wakeSpans _ _ _ _ hk)
  · exact keeps_takeChain _ _ _ _ _ _ _ _ hk (keeps_readLines _ _ _ _ hk)

theorem keeps_setChain {s0 : State} (m : Nat) (c : Chain) (s : State) (hk : Keeps s0 s) : Keeps s0 (State.setChain s m c) := by
  unfold State.setChain
  repeat' first
    | with_reducible assumption
    | with_reducible apply keeps_ite
    | split
    | with_reducible apply keeps_setChains

theorem keeps_feedTile {s0 : State} (m : Nat) (c : Chain) (cmds : List MCmd) (s : State) (hk : Keeps s0 s) : Keeps s0 (State.feedTile s m c cmds) := by
  unfold State.feedTile
  repeat' first
    | with_reducible assumption
    | with_reducible apply keeps_ite
    | split
    | with_reducible apply keeps_putEngine
    | with_reducible apply keeps_setChain

theorem keeps_startTile {s0 : State} (m : Nat) (c : Chain) (k : Nat) (b : Nat) (s : State) (hk : Keeps s0 s) : Keeps s0 (State.startTile s m c k b) := by
  unfold State.startTile
  repeat' first
    | with_reducible assumption
    | with_reducible apply keeps_ite
    | split
    | with_reducible apply keeps_landStage
    | with_reducible apply keeps_setEngine
    | with_reducible apply keeps_feedTile
    | with_reducible apply keeps_numbered
    | with_reducible refine keeps_foldl ?_ _ _ ?_
    | with_reducible refine keeps_foldl_fst ?_ _ _ ?_
    | fail_if_no_progress with_reducible apply keeps_mk
    | (intro _)
    | dsimp only

theorem keeps_chainComplete {s0 : State} (m : Nat) (index : Nat) (s : State) (hk : Keeps s0 s) : Keeps s0 (State.chainComplete s m index) := by
  unfold State.chainComplete
  repeat' first
    | with_reducible assumption
    | with_reducible apply keeps_ite
    | split
    | with_reducible apply keeps_startTile
    | with_reducible apply keeps_setChain
    | with_reducible apply keeps_setChains
    | with_reducible apply keeps_settleAborts
    | with_reducible apply keeps_endCmd
    | with_reducible apply keeps_deferFault
    | with_reducible refine keeps_foldl ?_ _ _ ?_
    | with_reducible refine keeps_foldl_fst ?_ _ _ ?_
    | fail_if_no_progress with_reducible apply keeps_mk
    | (intro _)
    | dsimp only

theorem keeps_startStage {s0 : State} (m : Nat) (c : Chain) (k : Nat) (b : Nat) (host : List Host.Cell) (s : State) (hk : Keeps s0 s) : ∀ r, State.startStage s m c k b host = some r → Keeps s0 r := by
  unfold State.startStage
  intro r hr
  revert hr
  repeat' first
    | with_reducible assumption
    | with_reducible apply keeps_ite
    | split
    | with_reducible apply keeps_landStage
    | with_reducible apply keeps_numbered
    | with_reducible apply keeps_setXfers
    | with_reducible apply keeps_startTile
    | with_reducible apply keeps_placeTask
    | with_reducible apply keeps_setTask
    | with_reducible apply keeps_queueGather
    | with_reducible apply keeps_startScatter
    | with_reducible apply keeps_setHoist
    | with_reducible refine keeps_foldl ?_ _ _ ?_
    | with_reducible refine keeps_foldl_fst ?_ _ _ ?_
    | fail_if_no_progress with_reducible apply keeps_mk
    | rintro ⟨⟩
    | dsimp only

theorem keeps_chainStart {s0 : State} (m : Nat) (index : Nat) (k : Nat) (b : Nat) (host : List Host.Cell) (s : State) (hk : Keeps s0 s) : Keeps s0 (State.chainStart s m index k b host) := by
  unfold State.chainStart
  repeat' first
    | with_reducible assumption
    | with_reducible apply keeps_ite
    | split
    | with_reducible apply keeps_feedTile
    | with_reducible apply keeps_setChain
    | with_reducible refine keeps_foldl ?_ _ _ ?_
    | with_reducible refine keeps_foldl_fst ?_ _ _ ?_
    | fail_if_no_progress with_reducible apply keeps_mk
    | (intro _)
    | dsimp only
    | refine keeps_startStage _ _ _ _ _ _ ?_ _ (by assumption)

theorem keeps_execChain {s0 : State} (x : Nat) (a : SReg) (b : SReg) (s : State) (hk : Keeps s0 s) : KeepsNext s0 (execChain x a b s) := by
  unfold execChain
  repeat' first
    | with_reducible assumption
    | with_reducible apply keeps_ite
    | split
    | with_reducible apply keeps_issue
    | with_reducible apply keeps_chainBody
    | with_reducible apply keepsIssue_fault
    | with_reducible apply keepsIssue_stay
    | with_reducible apply keepsIssue_go
    | with_reducible apply keepsIssue_leave
    | with_reducible apply keepsNext
    | with_reducible refine keeps_foldl ?_ _ _ ?_
    | with_reducible refine keeps_foldl_fst ?_ _ _ ?_
    | fail_if_no_progress with_reducible apply keeps_mk
    | (intro _)

theorem keeps_execChainStageComplete {s0 : State} (motif : Nat) (index : Nat) (s : State) (hk : Keeps s0 s) : KeepsNext s0 (execChainStageComplete motif index s) := by
  unfold execChainStageComplete
  repeat' first
    | with_reducible assumption
    | with_reducible apply keeps_ite
    | split
    | with_reducible apply keeps_chainComplete
    | with_reducible apply keepsNext

theorem keeps_execChainStageStart {s0 : State} (motif : Nat) (index : Nat) (stage : Nat) (block : Nat) (host : List Host.Cell) (s : State) (hk : Keeps s0 s) : KeepsNext s0 (execChainStageStart motif index stage block host s) := by
  unfold execChainStageStart
  repeat' first
    | with_reducible assumption
    | with_reducible apply keeps_ite
    | split
    | with_reducible apply keeps_chainStart
    | with_reducible apply keepsNext

end Sys2Proof.Machine
end

