-- ==== Sys2Proof/Laws/Keeps/Digest.lean ====
section
/-! SUPPORT. What the operations of Machine/Digest.lean keep. -/

namespace Sys2Proof.Machine

theorem keeps_digestReload {s0 : State} (slot : Nat) (s : State) (hk : Keeps s0 s) : Keeps s0 (State.digestReload s slot) := by
  unfold State.digestReload
  repeat' first
    | with_reducible assumption
    | with_reducible apply keeps_ite
    | split
    | with_reducible apply keeps_reloadStop
    | with_reducible apply keeps_raise

theorem keeps_digestCompare {s0 : State} (slot : Nat) (others : List (Nat × List Nat)) (suspects : List Nat) (s : State) (hk : Keeps s0 s) : Keeps s0 (State.digestCompare s slot others suspects) := by
  unfold State.digestCompare
  repeat' first
    | with_reducible assumption
    | with_reducible apply keeps_ite
    | split
    | with_reducible apply keeps_wr
    | with_reducible apply keeps_setSweep
    | with_reducible apply keeps_count
    | with_reducible apply keeps_digestReload
    | with_reducible apply keeps_setJob
    | with_reducible refine keeps_foldl ?_ _ _ ?_
    | with_reducible refine keeps_foldl_fst ?_ _ _ ?_
    | fail_if_no_progress with_reducible apply keeps_mk

theorem keeps_showRoot {s0 : State} (slot : Nat) (s : State) (hk : Keeps s0 s) : Keeps s0 (State.showRoot s slot) := by
  unfold State.showRoot
  repeat' first
    | with_reducible assumption
    | with_reducible apply keeps_ite
    | split
    | with_reducible apply keeps_wr
    | with_reducible refine keeps_foldl ?_ _ _ ?_
    | with_reducible refine keeps_foldl_fst ?_ _ _ ?_
    | fail_if_no_progress with_reducible apply keeps_mk
    | (intro _)

theorem keeps_digestRepair {s0 : State} (slot : Nat) (leaf : Nat) (block : List Byte) (s : State) (hk : Keeps s0 s) : Keeps s0 (State.digestRepair s slot leaf block) := by
  unfold State.digestRepair
  repeat' first
    | with_reducible assumption
    | with_reducible apply keeps_ite
    | split
    | with_reducible apply keeps_writeDev
    | with_reducible apply keeps_deriveCopies
    | with_reducible apply keeps_showRoot
    | with_reducible apply keeps_count
    | with_reducible apply keeps_raise
    | with_reducible apply keeps_setJob
    | with_reducible refine keeps_foldl ?_ _ _ ?_
    | with_reducible refine keeps_foldl_fst ?_ _ _ ?_
    | fail_if_no_progress with_reducible apply keeps_mk
    | (intro _)
    | dsimp only

theorem keeps_nextMicrobatch {s0 : State} (slot : Nat) (s : State) (hk : Keeps s0 s) : ∀ r, State.nextMicrobatch s slot = some r → Keeps s0 r := by
  unfold State.nextMicrobatch
  intro r hr
  revert hr
  repeat' first
    | with_reducible assumption
    | with_reducible apply keeps_ite
    | split
    | with_reducible apply keeps_queueRecord
    | with_reducible apply keeps_setJob
    | with_reducible refine keeps_foldl ?_ _ _ ?_
    | with_reducible refine keeps_foldl_fst ?_ _ _ ?_
    | fail_if_no_progress with_reducible apply keeps_mk
    | rintro ⟨⟩
    | dsimp only

theorem keeps_startChain {s0 : State} (slot : Nat) (a : Nat) (s : State) (hk : Keeps s0 s) : ∀ r, State.startChain s slot a = some r → Keeps s0 r := by
  unfold State.startChain
  intro r hr
  revert hr
  repeat' first
    | with_reducible assumption
    | with_reducible apply keeps_ite
    | split
    | with_reducible apply keeps_readLines
    | with_reducible apply keeps_setChains
    | with_reducible apply keeps_setJob
    | with_reducible apply keeps_numbered
    | with_reducible refine keeps_foldl ?_ _ _ ?_
    | with_reducible refine keeps_foldl_fst ?_ _ _ ?_
    | fail_if_no_progress with_reducible apply keeps_mk
    | rintro ⟨⟩
    | dsimp only

theorem keeps_nextPrefetch {s0 : State} (slot : Nat) (s : State) (hk : Keeps s0 s) : ∀ r, State.nextPrefetch s slot = some r → Keeps s0 r := by
  unfold State.nextPrefetch
  intro r hr
  revert hr
  repeat' first
    | with_reducible assumption
    | split
    | with_reducible apply keeps_startChain
    | with_reducible refine keeps_foldl ?_ _ _ ?_
    | with_reducible refine keeps_foldl_fst ?_ _ _ ?_
    | fail_if_no_progress with_reducible apply keeps_mk
    | rintro ⟨⟩
    | dsimp only

theorem keeps_onToken {s0 : State} (a : Word) (start : State → Option State) (s : State) (hk : Keeps s0 s) (h_start : ∀ y0 r, Keeps s0 y0 → start y0 = some r → Keeps s0 r) : Keeps s0 (State.onToken s a start) := by
  unfold State.onToken
  dsimp only
  split
  · exact hk
  · rcases e : start _ with _ | u
    · exact hk
    · exact h_start _ _ (keeps_setToken _ _ _ hk) e

theorem keeps_phase2Entry {s0 : State} (slot : Nat) (e : Nat) (s : State) (hk : Keeps s0 s) : Keeps s0 (State.phase2Entry s slot e).1 := by
  unfold State.phase2Entry
  repeat' first
    | with_reducible assumption
    | with_reducible apply keeps_ite
    | split
    | with_reducible apply keeps_writeState
    | with_reducible apply keeps_deriveCopies
    | with_reducible refine keeps_foldl ?_ _ _ ?_
    | with_reducible refine keeps_foldl_fst ?_ _ _ ?_
    | fail_if_no_progress with_reducible apply keeps_mk
    | (intro _)
    | dsimp only

theorem keeps_statsRecord {s0 : State} (slot : Nat) (s : State) (hk : Keeps s0 s) : Keeps s0 (State.statsRecord s slot) := by
  unfold State.statsRecord
  repeat' first
    | with_reducible assumption
    | with_reducible apply keeps_ite
    | split
    | with_reducible apply keeps_writeDev

theorem keeps_sweepPhase2 {s0 : State} (slot : Nat) (s : State) (hk : Keeps s0 s) : Keeps s0 (State.sweepPhase2 s slot) := by
  unfold State.sweepPhase2
  repeat' first
    | with_reducible assumption
    | with_reducible apply keeps_ite
    | split
    | with_reducible apply keeps_phase2Entry
    | with_reducible apply keeps_sweepFault
    | with_reducible apply keeps_statsRecord
    | with_reducible apply keeps_showRoot
    | with_reducible apply keeps_wr
    | with_reducible apply keeps_setSweep
    | with_reducible apply keeps_setSlot
    | with_reducible apply keeps_setJob
    | with_reducible refine keeps_foldl ?_ _ _ ?_
    | with_reducible refine keeps_foldl_fst ?_ _ _ ?_
    | fail_if_no_progress with_reducible apply keeps_mk
    | (intro _)
    | dsimp only

theorem keeps_waitPolicy {s0 : State} (slot : Nat) (again : Bool) (s : State) (hk : Keeps s0 s) : Keeps s0 (State.waitPolicy s slot again) := by
  unfold State.waitPolicy
  split
  · exact hk
  dsimp only
  split
  · exact hk
  · rename_i t h
    apply keeps_count
    split at h
    · split at h
      · exact keeps_nextPrefetch _ _ hk _ h
      · cases h
    · exact keeps_nextMicrobatch _ _ hk _ h
    · split at h
      · exact keeps_nextMicrobatch _ _ hk _ h
      · split at h
        · exact keeps_nextPrefetch _ _ hk _ h
        · cases h
    · cases h

theorem keeps_execDigestCompare {s0 : State} (slot : Nat) (others : List (Nat × List Nat)) (suspects : List Nat) (s : State) (hk : Keeps s0 s) : KeepsNext s0 (execDigestCompare slot others suspects s) := by
  unfold execDigestCompare
  repeat' first
    | with_reducible assumption
    | with_reducible apply keeps_ite
    | split
    | with_reducible apply keeps_digestCompare
    | with_reducible apply keepsNext

theorem keeps_execDigestRepair {s0 : State} (slot : Nat) (leaf : Nat) (block : List Byte) (s : State) (hk : Keeps s0 s) : KeepsNext s0 (execDigestRepair slot leaf block s) := by
  unfold execDigestRepair
  repeat' first
    | with_reducible assumption
    | with_reducible apply keeps_ite
    | split
    | with_reducible apply keeps_digestRepair
    | with_reducible apply keepsNext

theorem keeps_execMicrobatchStart {s0 : State} (slot : Nat) (s : State) (hk : Keeps s0 s) : KeepsNext s0 (execMicrobatchStart slot s) := by
  unfold execMicrobatchStart
  repeat' first
    | with_reducible assumption
    | with_reducible apply keeps_ite
    | split
    | with_reducible apply keeps_onToken
    | with_reducible apply keepsNext
    | with_reducible refine keeps_foldl ?_ _ _ ?_
    | with_reducible refine keeps_foldl_fst ?_ _ _ ?_
    | fail_if_no_progress with_reducible apply keeps_mk
    | (intro _)
    | dsimp only
    | refine keeps_nextMicrobatch _ _ ?_ _ (by assumption)

theorem keeps_execPrefetchStart {s0 : State} (slot : Nat) (s : State) (hk : Keeps s0 s) : KeepsNext s0 (execPrefetchStart slot s) := by
  unfold execPrefetchStart
  repeat' first
    | with_reducible assumption
    | with_reducible apply keeps_ite
    | split
    | with_reducible apply keeps_onToken
    | with_reducible apply keepsNext
    | with_reducible refine keeps_foldl ?_ _ _ ?_
    | with_reducible refine keeps_foldl_fst ?_ _ _ ?_
    | fail_if_no_progress with_reducible apply keeps_mk
    | (intro _)
    | dsimp only
    | refine keeps_nextPrefetch _ _ ?_ _ (by assumption)

theorem keeps_execSweepPhase2 {s0 : State} (slot : Nat) (s : State) (hk : Keeps s0 s) : KeepsNext s0 (execSweepPhase2 slot s) := by
  unfold execSweepPhase2
  repeat' first
    | with_reducible assumption
    | with_reducible apply keeps_ite
    | split
    | with_reducible apply keeps_sweepPhase2
    | with_reducible apply keepsNext

theorem keeps_execWaitPolicyAction {s0 : State} (slot : Nat) (again : Bool) (s : State) (hk : Keeps s0 s) : KeepsNext s0 (execWaitPolicyAction slot again s) := by
  unfold execWaitPolicyAction
  repeat' first
    | with_reducible assumption
    | with_reducible apply keeps_ite
    | split
    | with_reducible apply keeps_waitPolicy
    | with_reducible apply keepsNext

end Sys2Proof.Machine
end

