-- ==== Sys2Proof/Laws/Keeps/Slices.lean ====
section
/-! SUPPORT. What the operations of Machine/Slices.lean keep. -/

namespace Sys2Proof.Machine

theorem keeps_restoreBank {s0 : State} (slot : Nat) (o : Nat) (b : Nat) (s : State) (hk : Keeps s0 s) : Keeps s0 (State.restoreBank s slot o b) := by
  unfold State.restoreBank
  repeat' first
    | with_reducible assumption
    | with_reducible apply keeps_ite
    | split
    | with_reducible apply keeps_readDev
    | with_reducible apply keeps_handOwner
    | with_reducible apply keeps_writeDev

theorem keeps_saveClaims {s0 : State} (k : Nat) (s : State) (hk : Keeps s0 s) : Keeps s0 (State.saveClaims s k) := by
  unfold State.saveClaims
  repeat' first
    | with_reducible assumption
    | with_reducible apply keeps_ite
    | split
    | with_reducible apply keeps_endAllClaims
    | with_reducible apply keeps_setTask

theorem keeps_saveContexts {s0 : State} (slot : Nat) (s : State) (hk : Keeps s0 s) : Keeps s0 (State.saveContexts s slot) := by
  unfold State.saveContexts
  repeat' first
    | with_reducible assumption
    | with_reducible apply keeps_ite
    | split
    | with_reducible apply keeps_saveTask
    | with_reducible apply keeps_withdraw
    | with_reducible refine keeps_foldl ?_ _ _ ?_
    | with_reducible refine keeps_foldl_fst ?_ _ _ ?_
    | fail_if_no_progress with_reducible apply keeps_mk
    | (intro _)

theorem keeps_sliceLate {s0 : State} (slot : Nat) (s : State) (hk : Keeps s0 s) : Keeps s0 (State.sliceLate s slot) := by
  unfold State.sliceLate
  repeat' first
    | with_reducible assumption
    | with_reducible apply keeps_ite
    | split
    | with_reducible apply keeps_setJob

theorem keeps_sliceRequest {s0 : State} (serve : Nat) (holders : List Nat) (s : State) (hk : Keeps s0 s) : Keeps s0 (State.sliceRequest s serve holders) := by
  unfold State.sliceRequest
  repeat' first
    | with_reducible assumption
    | with_reducible apply keeps_ite
    | split
    | with_reducible apply keeps_setJob

theorem keeps_sliceRestore {s0 : State} (slot : Nat) (moves : List (Nat × Nat)) (s : State) (hk : Keeps s0 s) : Keeps s0 (State.sliceRestore s slot moves) := by
  unfold State.sliceRestore
  repeat' first
    | with_reducible assumption
    | with_reducible apply keeps_ite
    | split
    | with_reducible apply keeps_wakeSpans
    | with_reducible apply keeps_stopSlot
    | with_reducible apply keeps_raise
    | with_reducible apply keeps_restoreBank
    | with_reducible apply keeps_setScale
    | with_reducible apply keeps_setToken
    | with_reducible apply keeps_enqueue
    | with_reducible apply keeps_nextStep
    | with_reducible apply keeps_setSlot
    | with_reducible refine keeps_foldl ?_ _ _ ?_
    | with_reducible refine keeps_foldl_fst ?_ _ _ ?_
    | fail_if_no_progress with_reducible apply keeps_mk
    | (intro _)

theorem keeps_zeroScales {s0 : State} (slot : Nat) (s : State) (hk : Keeps s0 s) : Keeps s0 (State.zeroScales s slot) := by
  unfold State.zeroScales
  repeat' first
    | with_reducible assumption
    | with_reducible apply keeps_ite
    | split
    | with_reducible refine keeps_foldl ?_ _ _ ?_
    | with_reducible refine keeps_foldl_fst ?_ _ _ ?_
    | fail_if_no_progress with_reducible apply keeps_mk
    | (intro _)

theorem keeps_takeSlice {s0 : State} (slot : Nat) (banks : List Nat) (byLease : Bool) (byFloor : Bool) (s : State) (hk : Keeps s0 s) : Keeps s0 (State.takeSlice s slot banks byLease byFloor) := by
  unfold State.takeSlice
  repeat' first
    | with_reducible assumption
    | with_reducible apply keeps_ite
    | split
    | with_reducible apply keeps_setJob
    | with_reducible apply keeps_wakeSpans
    | with_reducible apply keeps_count
    | with_reducible apply keeps_saveContexts
    | with_reducible apply keeps_saveClaims
    | with_reducible apply keeps_readDev
    | with_reducible apply keeps_writeDev
    | with_reducible apply keeps_applyPendings
    | with_reducible apply keeps_zeroScales
    | with_reducible apply keeps_zeroTokens
    | with_reducible apply keeps_handOwner
    | with_reducible apply keeps_setSlot
    | with_reducible apply keeps_cancelProspect
    | with_reducible refine keeps_foldl ?_ _ _ ?_
    | with_reducible refine keeps_foldl_fst ?_ _ _ ?_
    | fail_if_no_progress with_reducible apply keeps_mk
    | (intro _)

theorem keeps_sliceTake {s0 : State} (slot : Nat) (banks : List Nat) (s : State) (hk : Keeps s0 s) : Keeps s0 (State.sliceTake s slot banks) := by
  unfold State.sliceTake
  repeat' first
    | with_reducible assumption
    | with_reducible apply keeps_ite
    | split
    | with_reducible apply keeps_takeSlice

theorem keeps_execSliceRequest {s0 : State} (serve : Nat) (holders : List Nat) (s : State) (hk : Keeps s0 s) : KeepsNext s0 (execSliceRequest serve holders s) := by
  unfold execSliceRequest
  repeat' first
    | with_reducible assumption
    | with_reducible apply keeps_ite
    | split
    | with_reducible apply keeps_sliceRequest
    | with_reducible apply keepsNext

theorem keeps_execSliceTake {s0 : State} (slot : Nat) (banks : List Nat) (s : State) (hk : Keeps s0 s) : KeepsNext s0 (execSliceTake slot banks s) := by
  unfold execSliceTake
  repeat' first
    | with_reducible assumption
    | with_reducible apply keeps_ite
    | split
    | with_reducible apply keeps_sliceTake
    | with_reducible apply keepsNext

theorem keeps_execSliceWaitExpire {s0 : State} (slot : Nat) (s : State) (hk : Keeps s0 s) : KeepsNext s0 (execSliceWaitExpire slot s) := by
  unfold execSliceWaitExpire
  repeat' first
    | with_reducible assumption
    | with_reducible apply keeps_ite
    | split
    | with_reducible apply keeps_sliceLate
    | with_reducible apply keepsNext

end Sys2Proof.Machine
end

