-- ==== Sys2Proof/Laws/Keeps/Plait.lean ====
section
/-! SUPPORT. What the operations of Machine/Plait.lean keep. -/

namespace Sys2Proof.Machine

theorem keeps_endContribution {s0 : State} (c : Contribution) (s : State) (hk : Keeps s0 s) : Keeps s0 (State.endContribution s c) := by
  unfold State.endContribution
  repeat' first
    | with_reducible assumption
    | with_reducible apply keeps_ite
    | split
    | with_reducible apply keeps_endCmd

theorem keeps_fenceNode {s0 : State} (level : Nat) (node : Nat) (s : State) (hk : Keeps s0 s) : Keeps s0 (State.fenceNode s level node) := by
  unfold State.fenceNode
  repeat' first
    | with_reducible assumption
    | with_reducible apply keeps_ite
    | split
    | with_reducible apply keeps_count
    | with_reducible apply keeps_setBit

theorem keeps_flagEntry {s0 : State} (i : Nat) (f : Flags) (s : State) (hk : Keeps s0 s) : Keeps s0 (State.flagEntry s i f) := by
  unfold State.flagEntry
  repeat' first
    | with_reducible assumption
    | with_reducible apply keeps_ite
    | split
    | with_reducible apply keeps_setFld

theorem keeps_foldEntry {s0 : State} (i : Nat) (s : State) (hk : Keeps s0 s) : Keeps s0 (State.foldEntry s i) := by
  unfold State.foldEntry
  repeat' first
    | with_reducible assumption
    | with_reducible apply keeps_ite
    | split
    | with_reducible apply keeps_setFld
    | with_reducible apply keeps_raise

theorem keeps_leaveNode {s0 : State} (level : Nat) (node : Nat) (f : Flit) (s : State) (hk : Keeps s0 s) : Keeps s0 (State.leaveNode s level node f) := by
  unfold State.leaveNode
  repeat' first
    | with_reducible assumption
    | with_reducible apply keeps_ite
    | split
    | with_reducible apply keeps_setEntry
    | with_reducible apply keeps_setEdge

theorem keeps_outWake {s0 : State} (i : Nat) (base : Nat) (n : Nat) (s : State) (hk : Keeps s0 s) : Keeps s0 (State.outWake s i base n) := by
  unfold State.outWake
  repeat' first
    | with_reducible assumption
    | with_reducible apply keeps_ite
    | split
    | with_reducible apply keeps_wakeSpan

theorem keeps_parityFault {s0 : State} (i : Nat) (level : Nat) (node : Nat) (s : State) (hk : Keeps s0 s) : Keeps s0 (State.parityFault s i level node) := by
  unfold State.parityFault
  repeat' first
    | with_reducible assumption
    | with_reducible apply keeps_ite
    | split
    | with_reducible apply keeps_raise
    | with_reducible apply keeps_fenceNode
    | with_reducible apply keeps_setBit
    | with_reducible apply keeps_setEntryState
    | with_reducible apply keeps_failRequests
    | with_reducible apply keeps_abortStep

theorem keeps_placeReturned {s0 : State} (i : Nat) (s : State) (hk : Keeps s0 s) : Keeps s0 (State.placeReturned s i) := by
  unfold State.placeReturned
  repeat' first
    | with_reducible assumption
    | with_reducible apply keeps_ite
    | split
    | with_reducible apply keeps_wakeSpan
    | with_reducible apply keeps_flagEntry
    | with_reducible apply keeps_setEntry
    | with_reducible apply keeps_writeRow

theorem keeps_refuseContribution {s0 : State} (c : Contribution) (code : Code) (cause : Option Nat) (s : State) (hk : Keeps s0 s) : Keeps s0 (State.refuseContribution s c code cause) := by
  unfold State.refuseContribution
  repeat' first
    | with_reducible assumption
    | with_reducible apply keeps_ite
    | split
    | with_reducible apply keeps_setBit
    | with_reducible apply keeps_deferFault

theorem keeps_plaitContribution {s0 : State} (id : Nat) (s : State) (hk : Keeps s0 s) : Keeps s0 (State.plaitContribution s id) := by
  unfold State.plaitContribution
  repeat' first
    | with_reducible assumption
    | with_reducible apply keeps_ite
    | split
    | with_reducible apply keeps_refuseContribution
    | with_reducible apply keeps_count
    | with_reducible apply keeps_setEntry
    | with_reducible apply keeps_setEdge
    | with_reducible apply keeps_endContribution
    | with_reducible apply keeps_numbered
    | with_reducible refine keeps_foldl ?_ _ _ ?_
    | with_reducible refine keeps_foldl_fst ?_ _ _ ?_
    | fail_if_no_progress with_reducible apply keeps_mk
    | (intro _)
    | dsimp only

theorem keeps_plaitEntryDone {s0 : State} (i : Nat) (s : State) (hk : Keeps s0 s) : Keeps s0 (State.plaitEntryDone s i) := by
  unfold State.plaitEntryDone
  repeat' first
    | with_reducible assumption
    | with_reducible apply keeps_ite
    | split
    | with_reducible apply keeps_wr
    | with_reducible apply keeps_setEntryState
    | with_reducible apply keeps_foldEntry
    | with_reducible apply keeps_setColl
    | with_reducible apply keeps_bumpToken
    | with_reducible apply keeps_setBit
    | with_reducible refine keeps_foldl ?_ _ _ ?_
    | with_reducible refine keeps_foldl_fst ?_ _ _ ?_
    | fail_if_no_progress with_reducible apply keeps_mk

theorem keeps_spawnSums {s0 : State} (i : Nat) (s : State) (hk : Keeps s0 s) : Keeps s0 (State.spawnSums s i) := by
  unfold State.spawnSums
  repeat' first
    | with_reducible assumption
    | with_reducible apply keeps_ite
    | split
    | with_reducible apply keeps_queueRecord
    | with_reducible apply keeps_setTask
    | with_reducible apply keeps_setEntry

theorem keeps_plaitFallback {s0 : State} (id : Nat) (s : State) (hk : Keeps s0 s) : Keeps s0 (State.plaitFallback s id) := by
  unfold State.plaitFallback
  repeat' first
    | with_reducible assumption
    | with_reducible apply keeps_ite
    | split
    | with_reducible apply keeps_refuseContribution
    | with_reducible apply keeps_wakeSpan
    | with_reducible apply keeps_writeDev
    | with_reducible apply keeps_wr
    | with_reducible apply keeps_setEntry
    | with_reducible apply keeps_spawnSums
    | with_reducible apply keeps_endContribution
    | with_reducible refine keeps_foldl ?_ _ _ ?_
    | with_reducible refine keeps_foldl_fst ?_ _ _ ?_
    | fail_if_no_progress with_reducible apply keeps_mk

theorem keeps_plaitJoin {s0 : State} (level : Nat) (node : Nat) (parityError : Bool) (s : State) (hk : Keeps s0 s) : Keeps s0 (State.plaitJoin s level node parityError) := by
  unfold State.plaitJoin
  repeat' first
    | with_reducible assumption
    | with_reducible apply keeps_ite
    | split
    | with_reducible apply keeps_parityFault
    | with_reducible apply keeps_leaveNode
    | with_reducible apply keeps_flagEntry
    | with_reducible apply keeps_setEdge
    | with_reducible apply keeps_stopSlot
    | with_reducible apply keeps_raise
    | with_reducible apply keeps_setEntryState
    | with_reducible apply keeps_setBit
    | with_reducible refine keeps_foldl ?_ _ _ ?_
    | with_reducible refine keeps_foldl_fst ?_ _ _ ?_
    | fail_if_no_progress with_reducible apply keeps_mk
    | (intro _)
    | dsimp only

theorem keeps_plaitOpen {s0 : State} (i : Nat) (v : Word) (s : State) (hk : Keeps s0 s) : Keeps s0 (State.plaitOpen s i v) := by
  unfold State.plaitOpen
  repeat' first
    | with_reducible assumption
    | with_reducible apply keeps_ite
    | split
    | with_reducible apply keeps_wr
    | with_reducible apply keeps_setBit
    | with_reducible apply keeps_setFld
    | with_reducible apply keeps_setEntry
    | with_reducible apply keeps_raise
    | with_reducible apply keeps_setEntryState
    | with_reducible apply keeps_stopSlot
    | with_reducible apply keeps_setColl
    | with_reducible refine keeps_foldl ?_ _ _ ?_
    | with_reducible refine keeps_foldl_fst ?_ _ _ ?_
    | fail_if_no_progress with_reducible apply keeps_mk

theorem keeps_plaitSend {s0 : State} (i : Nat) (base : Nat) (vals : List Word) (s : State) (hk : Keeps s0 s) : Keeps s0 (State.plaitSend s i base vals) := by
  unfold State.plaitSend
  repeat' first
    | with_reducible assumption
    | with_reducible apply keeps_ite
    | split
    | with_reducible apply keeps_wr
    | with_reducible apply keeps_setEntry
    | with_reducible apply keeps_flagEntry
    | with_reducible apply keeps_writeRow

theorem keeps_plaitOutput {s0 : State} (i : Nat) (parityError : Bool) (s : State) (hk : Keeps s0 s) : Keeps s0 (State.plaitOutput s i parityError) := by
  unfold State.plaitOutput
  repeat' first
    | with_reducible assumption
    | with_reducible apply keeps_ite
    | split
    | with_reducible apply keeps_placeReturned
    | with_reducible apply keeps_outWake
    | with_reducible apply keeps_plaitSend
    | with_reducible apply keeps_flagEntry
    | with_reducible apply keeps_parityFault
    | with_reducible apply keeps_setEntry

theorem keeps_execPlaitContribution {s0 : State} (id : Nat) (s : State) (hk : Keeps s0 s) : KeepsNext s0 (execPlaitContribution id s) := by
  unfold execPlaitContribution
  repeat' first
    | with_reducible assumption
    | with_reducible apply keeps_ite
    | split
    | with_reducible apply keeps_settleAborts
    | with_reducible apply keeps_plaitContribution
    | with_reducible apply keepsNext

theorem keeps_execPlaitEntryDone {s0 : State} (entry : Nat) (s : State) (hk : Keeps s0 s) : KeepsNext s0 (execPlaitEntryDone entry s) := by
  unfold execPlaitEntryDone
  repeat' first
    | with_reducible assumption
    | with_reducible apply keeps_ite
    | split
    | with_reducible apply keeps_plaitEntryDone
    | with_reducible apply keepsNext

theorem keeps_execPlaitFallbackWrite {s0 : State} (id : Nat) (s : State) (hk : Keeps s0 s) : KeepsNext s0 (execPlaitFallbackWrite id s) := by
  unfold execPlaitFallbackWrite
  repeat' first
    | with_reducible assumption
    | with_reducible apply keeps_ite
    | split
    | with_reducible apply keeps_settleAborts
    | with_reducible apply keeps_plaitFallback
    | with_reducible apply keepsNext

theorem keeps_execPlaitJoin {s0 : State} (level : Nat) (node : Nat) (parityError : Bool) (s : State) (hk : Keeps s0 s) : KeepsNext s0 (execPlaitJoin level node parityError s) := by
  unfold execPlaitJoin
  repeat' first
    | with_reducible assumption
    | with_reducible apply keeps_ite
    | split
    | with_reducible apply keeps_plaitJoin
    | with_reducible apply keepsNext

theorem keeps_execPlaitOpen {s0 : State} (entry : Nat) (v : Word) (s : State) (hk : Keeps s0 s) : KeepsNext s0 (execPlaitOpen entry v s) := by
  unfold execPlaitOpen
  repeat' first
    | with_reducible assumption
    | with_reducible apply keeps_ite
    | split
    | with_reducible apply keeps_plaitOpen
    | with_reducible apply keepsNext

end Sys2Proof.Machine
end

