-- ==== Sys2Proof/Laws/Keeps/Coll.lean ====
section
/-! SUPPORT. What the operations of Machine/Coll.lean keep. -/

namespace Sys2Proof.Machine

theorem keeps_collLoad {s0 : State} (v : Word) (s : State) (hk : Keeps s0 s) : Keeps s0 (State.collLoad s v) := by
  unfold State.collLoad
  repeat' first
    | with_reducible assumption
    | with_reducible apply keeps_ite
    | split
    | with_reducible apply keeps_setFld
    | with_reducible apply keeps_wr
    | with_reducible refine keeps_foldl ?_ _ _ ?_
    | with_reducible refine keeps_foldl_fst ?_ _ _ ?_
    | fail_if_no_progress with_reducible apply keeps_mk
    | (intro _)

theorem keeps_sendBlock {s0 : State} (h : Nat) (block : Nat) (b : Nat) (rank : Nat) (vals : List Word) (s : State) (hk : Keeps s0 s) : Keeps s0 (State.sendBlock s h block b rank vals) := by
  unfold State.sendBlock
  repeat' first
    | with_reducible assumption
    | with_reducible apply keeps_ite
    | split
    | with_reducible apply keeps_sendMessage

theorem keeps_placeBlock {s0 : State} (h : Nat) (base : Nat) (index : Nat) (vals : List Word) (f : Flags) (s : State) (hk : Keeps s0 s) : Keeps s0 (State.placeBlock s h base index vals f) := by
  unfold State.placeBlock
  repeat' first
    | with_reducible assumption
    | with_reducible apply keeps_ite
    | split
    | with_reducible apply keeps_placeReturned
    | with_reducible apply keeps_flagEntry
    | with_reducible apply keeps_setEntry

theorem keeps_setCollSt {s0 : State} (h : Nat) (c : CollSt) (s : State) (hk : Keeps s0 s) : Keeps s0 (State.setCollSt s h c) := by
  unfold State.setCollSt
  repeat' first
    | with_reducible assumption
    | with_reducible apply keeps_ite
    | split
    | with_reducible refine keeps_foldl ?_ _ _ ?_
    | with_reducible refine keeps_foldl_fst ?_ _ _ ?_
    | fail_if_no_progress with_reducible apply keeps_mk

theorem keeps_gatherBlock {s0 : State} (h : Nat) (q : Nat) (b : Nat) (base : Nat) (vals : List Word) (f : Flags) (s : State) (hk : Keeps s0 s) : Keeps s0 (State.gatherBlock s h q b base vals f) := by
  unfold State.gatherBlock
  repeat' first
    | with_reducible assumption
    | with_reducible apply keeps_ite
    | split
    | with_reducible apply keeps_sendBlock
    | with_reducible apply keeps_placeBlock
    | with_reducible apply keeps_setCollSt
    | with_reducible refine keeps_foldl ?_ _ _ ?_
    | with_reducible refine keeps_foldl_fst ?_ _ _ ?_
    | fail_if_no_progress with_reducible apply keeps_mk
    | (intro _)

theorem keeps_dropParts {s0 : State} (h : Nat) (b : Nat) (s : State) (hk : Keeps s0 s) : Keeps s0 (State.dropParts s h b) := by
  unfold State.dropParts
  repeat' first
    | with_reducible assumption
    | with_reducible apply keeps_ite
    | split
    | with_reducible apply keeps_setCollSt

theorem keeps_reduceBlock {s0 : State} (h : Nat) (b : Nat) (s : State) (hk : Keeps s0 s) : Keeps s0 (State.reduceBlock s h b) := by
  unfold State.reduceBlock
  repeat' first
    | with_reducible assumption
    | with_reducible apply keeps_ite
    | split
    | with_reducible apply keeps_flagEntry
    | with_reducible apply keeps_sendBlock
    | with_reducible apply keeps_dropParts
    | with_reducible apply keeps_gatherBlock
    | with_reducible apply keeps_placeBlock
    | with_reducible refine keeps_foldl ?_ _ _ ?_
    | with_reducible refine keeps_foldl_fst ?_ _ _ ?_
    | fail_if_no_progress with_reducible apply keeps_mk
    | (intro _)
    | dsimp only

theorem keeps_putPart {s0 : State} (h : Nat) (b : Nat) (level : Nat) (node : Nat) (vals : List Word) (s : State) (hk : Keeps s0 s) : Keeps s0 (State.putPart s h b level node vals) := by
  unfold State.putPart
  repeat' first
    | with_reducible assumption
    | with_reducible apply keeps_ite
    | split
    | with_reducible apply keeps_setCollSt

theorem keeps_enterBlock {s0 : State} (h : Nat) (b : Nat) (vals : List Word) (s : State) (hk : Keeps s0 s) : Keeps s0 (State.enterBlock s h b vals) := by
  unfold State.enterBlock
  repeat' first
    | with_reducible assumption
    | with_reducible apply keeps_ite
    | split
    | with_reducible apply keeps_gatherBlock
    | with_reducible apply keeps_placeBlock
    | with_reducible apply keeps_sendBlock
    | with_reducible apply keeps_reduceBlock
    | with_reducible apply keeps_putPart

theorem keeps_collProgress {s0 : State} (i : Nat) (s : State) (hk : Keeps s0 s) : Keeps s0 (State.collProgress s i) := by
  unfold State.collProgress
  repeat' first
    | with_reducible assumption
    | with_reducible apply keeps_ite
    | split
    | with_reducible apply keeps_enterBlock
    | with_reducible apply keeps_setCollSt
    | with_reducible refine keeps_foldl ?_ _ _ ?_
    | with_reducible refine keeps_foldl_fst ?_ _ _ ?_
    | fail_if_no_progress with_reducible apply keeps_mk
    | (intro _)

theorem keeps_collStore {s0 : State} (by_ : Writer) (v : Word) (s : State) (hk : Keeps s0 s) : Keeps s0 (State.collStore s by_ v) := by
  unfold State.collStore
  repeat' first
    | with_reducible assumption
    | with_reducible apply keeps_ite
    | split
    | with_reducible apply keeps_setFld
    | with_reducible apply keeps_setBit
    | with_reducible apply keeps_setColl
    | with_reducible refine keeps_foldl ?_ _ _ ?_
    | with_reducible refine keeps_foldl_fst ?_ _ _ ?_
    | fail_if_no_progress with_reducible apply keeps_mk
    | (intro _)

theorem keeps_stageBlock {s0 : State} (h : Nat) (off : Nat) (bs : List Byte) (s : State) (hk : Keeps s0 s) : Keeps s0 (State.stageBlock s h off bs) := by
  unfold State.stageBlock
  repeat' first
    | with_reducible assumption
    | with_reducible apply keeps_ite
    | split
    | with_reducible apply keeps_writeDev

theorem keeps_dataBlock {s0 : State} (h : Nat) (b : Nat) (src : Nat) (l : List Byte) (s : State) (hk : Keeps s0 s) : Keeps s0 (State.dataBlock s h b src l) := by
  unfold State.dataBlock
  repeat' first
    | with_reducible assumption
    | with_reducible apply keeps_ite
    | split
    | with_reducible apply keeps_gatherBlock
    | with_reducible apply keeps_stageBlock
    | with_reducible apply keeps_placeBlock
    | with_reducible apply keeps_putPart
    | with_reducible apply keeps_reduceBlock
    | with_reducible refine keeps_foldl ?_ _ _ ?_
    | with_reducible refine keeps_foldl_fst ?_ _ _ ?_
    | fail_if_no_progress with_reducible apply keeps_mk
    | (intro _)
    | dsimp only

theorem keeps_execHfCollLoad {s0 : State} (v : Word) (s : State) (hk : Keeps s0 s) : KeepsNext s0 (execHfCollLoad v s) := by
  unfold execHfCollLoad
  repeat' first
    | with_reducible assumption
    | with_reducible apply keeps_ite
    | split
    | with_reducible apply keeps_collLoad
    | with_reducible apply keepsNext

theorem keeps_execHfCollStore {s0 : State} (by_ : Writer) (v : Word) (s : State) (hk : Keeps s0 s) : KeepsNext s0 (execHfCollStore by_ v s) := by
  unfold execHfCollStore
  repeat' first
    | with_reducible assumption
    | with_reducible apply keeps_ite
    | split
    | with_reducible apply keeps_byWriter
    | with_reducible apply keeps_collStore
    | with_reducible apply keepsNext
    | with_reducible refine keeps_foldl ?_ _ _ ?_
    | with_reducible refine keeps_foldl_fst ?_ _ _ ?_
    | fail_if_no_progress with_reducible apply keeps_mk
    | (intro _)

theorem keeps_execPlaitOutput {s0 : State} (entry : Nat) (parityError : Bool) (s : State) (hk : Keeps s0 s) : KeepsNext s0 (execPlaitOutput entry parityError s) := by
  unfold execPlaitOutput
  repeat' first
    | with_reducible assumption
    | with_reducible apply keeps_ite
    | split
    | with_reducible apply keeps_collProgress
    | with_reducible apply keeps_plaitOutput
    | with_reducible apply keepsNext

end Sys2Proof.Machine
end

