-- ==== Sys2Proof/Laws/Keeps/Gft.lean ====
section
/-! SUPPORT. What the operations of Machine/Gft.lean keep. -/

namespace Sys2Proof.Machine

theorem keeps_answerRow {s0 : State} (slot : Nat) (n : Nat) (v : Nat) (r : Nat) (host : List Host.Cell) (s : State) (hk : Keeps s0 s) : Keeps s0 (State.answerRow s slot n v r host).1 := by
  unfold State.answerRow
  repeat' first
    | with_reducible assumption
    | with_reducible apply keeps_ite
    | split
    | with_reducible apply keeps_lookUp
    | with_reducible apply keeps_fetchRow

theorem keeps_answerRows {s0 : State} (hf : Nat) (slot : Nat) (k : GftPacket) (host : List Host.Cell) (s : State) (hk : Keeps s0 s) : Keeps s0 (State.answerRows s hf slot k host) := by
  unfold State.answerRows
  repeat' first
    | with_reducible assumption
    | with_reducible apply keeps_ite
    | split
    | with_reducible apply keeps_answerRow
    | with_reducible apply keeps_sendRsp
    | with_reducible refine keeps_foldl ?_ _ _ ?_
    | with_reducible refine keeps_foldl_fst ?_ _ _ ?_
    | fail_if_no_progress with_reducible apply keeps_mk
    | (intro _)

theorem keeps_epochNak {s0 : State} (slot : Nat) (l : List Byte) (s : State) (hk : Keeps s0 s) : Keeps s0 (State.epochNak s slot l) := by
  unfold State.epochNak
  repeat' first
    | with_reducible assumption
    | with_reducible apply keeps_ite
    | split
    | with_reducible apply keeps_setEpochSt
    | with_reducible apply keeps_sendCtrl
    | with_reducible apply keeps_abortStep

theorem keeps_moveRow {s0 : State} (n : Nat) (v : Nat) (r : Nat) (host : List Host.Cell) (s : State) (hk : Keeps s0 s) : Keeps s0 (State.moveRow s n v r host).1 := by
  unfold State.moveRow
  repeat' first
    | with_reducible assumption
    | with_reducible apply keeps_ite
    | split
    | with_reducible apply keeps_readDev

theorem keeps_sendShard {s0 : State} (slot : Nat) (m : ShardMove) (host : List Host.Cell) (s : State) (hk : Keeps s0 s) : Keeps s0 (State.sendShard s slot m host) := by
  unfold State.sendShard
  repeat' first
    | with_reducible assumption
    | with_reducible apply keeps_ite
    | split
    | with_reducible apply keeps_moveRow
    | with_reducible apply keeps_sendMessage
    | with_reducible refine keeps_foldl ?_ _ _ ?_
    | with_reducible refine keeps_foldl_fst ?_ _ _ ?_
    | fail_if_no_progress with_reducible apply keeps_mk
    | (intro _)

theorem keeps_commitEpoch {s0 : State} (slot : Nat) (target : Nat) (moves : List ShardMove) (host : List Host.Cell) (s : State) (hk : Keeps s0 s) : Keeps s0 (State.commitEpoch s slot target moves host) := by
  unfold State.commitEpoch
  repeat' first
    | with_reducible assumption
    | with_reducible apply keeps_ite
    | split
    | with_reducible apply keeps_sendCtrl
    | with_reducible apply keeps_setEpochSt
    | with_reducible apply keeps_sendShard
    | with_reducible refine keeps_foldl ?_ _ _ ?_
    | with_reducible refine keeps_foldl_fst ?_ _ _ ?_
    | fail_if_no_progress with_reducible apply keeps_mk
    | (intro _)

theorem keeps_epochReport {s0 : State} (slot : Nat) (host : List Host.Cell) (s : State) (hk : Keeps s0 s) : Keeps s0 (State.epochReport s slot host) := by
  unfold State.epochReport
  repeat' first
    | with_reducible assumption
    | with_reducible apply keeps_ite
    | split
    | with_reducible apply keeps_commitEpoch
    | with_reducible apply keeps_sendCtrl
    | with_reducible apply keeps_setEpochSt

theorem keeps_setShard {s0 : State} (n : Nat) (shard : Nat) (owner : Nat) (slotAt : Nat) (s : State) (hk : Keeps s0 s) : Keeps s0 (State.setShard s n shard owner slotAt) := by
  unfold State.setShard
  repeat' first
    | with_reducible assumption
    | with_reducible apply keeps_ite
    | split
    | with_reducible apply keeps_writeDev

theorem keeps_applyLayout {s0 : State} (slot : Nat) (l : List Byte) (s : State) (hk : Keeps s0 s) : Keeps s0 (State.applyLayout s slot l) := by
  unfold State.applyLayout
  repeat' first
    | with_reducible assumption
    | with_reducible apply keeps_ite
    | split
    | with_reducible apply keeps_setShard
    | with_reducible apply keeps_setEpochSt
    | with_reducible apply keeps_releaseStep
    | with_reducible apply keeps_raise
    | with_reducible apply keeps_wr
    | with_reducible refine keeps_foldl ?_ _ _ ?_
    | with_reducible refine keeps_foldl_fst ?_ _ _ ?_
    | fail_if_no_progress with_reducible apply keeps_mk
    | (intro _)

theorem keeps_applyCtrl {s0 : State} (slot : Nat) (src : Nat) (sub : Nat) (l : List Byte) (host : List Host.Cell) (s : State) (hk : Keeps s0 s) : Keeps s0 (State.applyCtrl s slot src sub l host) := by
  unfold State.applyCtrl
  repeat' first
    | with_reducible assumption
    | with_reducible apply keeps_ite
    | split
    | with_reducible apply keeps_epochNak
    | with_reducible apply keeps_epochReport
    | with_reducible apply keeps_setEpochSt
    | with_reducible apply keeps_commitEpoch
    | with_reducible apply keeps_peerLost
    | with_reducible apply keeps_peerBack
    | with_reducible apply keeps_sendCtrl
    | with_reducible apply keeps_applyLayout

theorem keeps_ctrlDeliver {s0 : State} (id : Nat) (slot : Nat) (host : List Host.Cell) (l4 : Nat) (s : State) (hk : Keeps s0 s) : Keeps s0 (State.ctrlDeliver s id slot host l4) := by
  induction l4 generalizing s id slot host with
  | zero =>
    unfold State.ctrlDeliver
    repeat' first
      | with_reducible assumption
  | succ n ih =>
    unfold State.ctrlDeliver
    repeat' first
      | with_reducible assumption
      | with_reducible apply ih
      | with_reducible apply keeps_ite
      | split
      | with_reducible apply keeps_setConn
      | with_reducible apply keeps_applyCtrl
      | with_reducible refine keeps_foldl ?_ _ _ ?_
      | with_reducible refine keeps_foldl_fst ?_ _ _ ?_
      | fail_if_no_progress with_reducible apply keeps_mk
      | (intro _)
      | dsimp only

theorem keeps_epochAdopt {s0 : State} (slot : Nat) (s : State) (hk : Keeps s0 s) : Keeps s0 (State.epochAdopt s slot) := by
  unfold State.epochAdopt
  repeat' first
    | with_reducible assumption
    | with_reducible apply keeps_ite
    | split
    | with_reducible apply keeps_stale
    | with_reducible apply keeps_showReloc
    | with_reducible apply keeps_setShard
    | with_reducible apply keeps_setEpochSt
    | with_reducible apply keeps_raise
    | with_reducible apply keeps_wr
    | with_reducible refine keeps_foldl ?_ _ _ ?_
    | with_reducible refine keeps_foldl_fst ?_ _ _ ?_
    | fail_if_no_progress with_reducible apply keeps_mk
    | (intro _)

theorem keeps_epochBegin {s0 : State} (slot : Nat) (host : List Host.Cell) (s : State) (hk : Keeps s0 s) : Keeps s0 (State.epochBegin s slot host) := by
  unfold State.epochBegin
  repeat' first
    | with_reducible assumption
    | with_reducible apply keeps_ite
    | split
    | with_reducible apply keeps_epochReport
    | with_reducible apply keeps_setEpochSt

theorem keeps_epochOk {s0 : State} (hf : Nat) (slot : Nat) (k : GftPacket) (ahead : Bool) (s : State) (hk : Keeps s0 s) : Keeps s0 (State.epochOk s hf slot k ahead).1 := by
  unfold State.epochOk
  repeat' first
    | with_reducible assumption
    | with_reducible apply keeps_ite
    | split
    | with_reducible apply keeps_sendCtrl
    | with_reducible apply keeps_count
    | with_reducible refine keeps_foldl ?_ _ _ ?_
    | with_reducible refine keeps_foldl_fst ?_ _ _ ?_
    | fail_if_no_progress with_reducible apply keeps_mk
    | (intro _)
    | dsimp only

theorem keeps_takeRx {s0 : State} (hf : Nat) (f : GftPacket → Bool) (s : State) (hk : Keeps s0 s) : ∀ r, State.takeRx s hf f = some r → Keeps s0 r.2 := by
  unfold State.takeRx
  intro r hr
  obtain ⟨p, _, rfl⟩ := Option.map_eq_some_iff.mp hr
  apply keeps_mk
  exact hk

theorem keeps_gftAck {s0 : State} (hf : Nat) (s : State) (hk : Keeps s0 s) : Keeps s0 (State.gftAck s hf) := by
  unfold State.gftAck
  repeat' first
    | with_reducible assumption
    | with_reducible apply keeps_ite
    | split
    | with_reducible apply keeps_ackReceived
    | with_reducible refine keeps_foldl ?_ _ _ ?_
    | with_reducible refine keeps_foldl_fst ?_ _ _ ?_
    | fail_if_no_progress with_reducible apply keeps_mk
    | (intro _)
    | dsimp only
    | refine keeps_takeRx _ _ _ ?_ (_, _) (by assumption)

theorem keeps_onWindow {s0 : State} (hf : Nat) (slot : Nat) (k : GftPacket) (s : State) (hk : Keeps s0 s) : Keeps s0 (State.onWindow s hf slot k).1 := by
  unfold State.onWindow
  repeat' first
    | with_reducible assumption
    | with_reducible apply keeps_ite
    | split
    | with_reducible apply keeps_ackReceived
    | with_reducible apply keeps_windowAccept
    | with_reducible refine keeps_foldl ?_ _ _ ?_
    | with_reducible refine keeps_foldl_fst ?_ _ _ ?_
    | fail_if_no_progress with_reducible apply keeps_mk
    | (intro _)
    | dsimp only

theorem keeps_windowMessage {s0 : State} (hf : Nat) (slot : Nat) (k : GftPacket) (ahead : Bool) (s : State) (hk : Keeps s0 s) : Keeps s0 (State.windowMessage s hf slot k ahead).1 := by
  unfold State.windowMessage
  repeat' first
    | with_reducible assumption
    | with_reducible apply keeps_ite
    | split
    | with_reducible apply keeps_epochOk
    | with_reducible apply keeps_onWindow
    | with_reducible apply keeps_takeMessage
    | with_reducible refine keeps_foldl ?_ _ _ ?_
    | with_reducible refine keeps_foldl_fst ?_ _ _ ?_
    | fail_if_no_progress with_reducible apply keeps_mk
    | (intro _)
    | dsimp only

theorem keeps_placeRow {s0 : State} (m : ShardMove) (l : List Byte) (s : State) (hk : Keeps s0 s) : Keeps s0 (State.placeRow s m l) := by
  unfold State.placeRow
  repeat' first
    | with_reducible assumption
    | with_reducible apply keeps_ite
    | split
    | with_reducible apply keeps_writeDev
    | with_reducible apply keeps_writeRowAt
    | with_reducible apply keeps_insertTally
    | with_reducible apply keeps_count
    | with_reducible apply keeps_showReloc

theorem keeps_placeRows {s0 : State} (m : ShardMove) (l2 : Nat) (l3 : List Byte) (s : State) (hk : Keeps s0 s) : Keeps s0 (State.placeRows s m l2 l3) := by
  induction l2 generalizing s m l3 with
  | zero =>
    unfold State.placeRows
    repeat' first
      | with_reducible assumption
  | succ n ih =>
    unfold State.placeRows
    repeat' first
      | with_reducible assumption
      | with_reducible apply ih
      | with_reducible apply keeps_ite
      | split
      | with_reducible apply keeps_placeRow

theorem keeps_gftBulk {s0 : State} (hf : Nat) (s : State) (hk : Keeps s0 s) : Keeps s0 (State.gftBulk s hf) := by
  unfold State.gftBulk
  repeat' first
    | with_reducible assumption
    | with_reducible apply keeps_ite
    | split
    | with_reducible apply keeps_windowMessage
    | with_reducible apply keeps_setEpochSt
    | with_reducible apply keeps_placeRows
    | with_reducible refine keeps_foldl ?_ _ _ ?_
    | with_reducible refine keeps_foldl_fst ?_ _ _ ?_
    | fail_if_no_progress with_reducible apply keeps_mk
    | (intro _)
    | dsimp only
    | refine keeps_takeRx _ _ _ ?_ (_, _) (by assumption)

theorem keeps_takeCtrl {s0 : State} (hf : Nat) (sub : Nat) (s : State) (hk : Keeps s0 s) : ∀ r, State.takeCtrl s hf sub = some r → Keeps s0 r.2.2 := by
  unfold State.takeCtrl
  intro r hr
  split at hr
  · cases hr
  · rename_i h
    obtain ⟨p, _, rfl⟩ := Option.map_eq_some_iff.mp hr
    exact keeps_takeRx _ _ _ hk _ h

theorem keeps_gftClose {s0 : State} (hf : Nat) (s : State) (hk : Keeps s0 s) : Keeps s0 (State.gftClose s hf) := by
  unfold State.gftClose
  repeat' first
    | with_reducible assumption
    | with_reducible apply keeps_ite
    | split
    | with_reducible apply keeps_dropConn
    | with_reducible refine keeps_foldl ?_ _ _ ?_
    | with_reducible refine keeps_foldl_fst ?_ _ _ ?_
    | fail_if_no_progress with_reducible apply keeps_mk
    | (intro _)
    | dsimp only
    | refine keeps_takeCtrl _ _ _ ?_ (_, _, _) (by assumption)

theorem keeps_gftCtrl {s0 : State} (hf : Nat) (sub : Nat) (host : List Host.Cell) (s : State) (hk : Keeps s0 s) : Keeps s0 (State.gftCtrl s hf sub host) := by
  unfold State.gftCtrl
  repeat' first
    | with_reducible assumption
    | with_reducible apply keeps_ite
    | split
    | with_reducible apply keeps_onWindow
    | with_reducible apply keeps_ctrlDeliver
    | with_reducible refine keeps_foldl ?_ _ _ ?_
    | with_reducible refine keeps_foldl_fst ?_ _ _ ?_
    | fail_if_no_progress with_reducible apply keeps_mk
    | (intro _)
    | dsimp only
    | refine keeps_takeCtrl _ _ _ ?_ (_, _, _) (by assumption)

theorem keeps_gftData {s0 : State} (hf : Nat) (s : State) (hk : Keeps s0 s) : Keeps s0 (State.gftData s hf) := by
  unfold State.gftData
  repeat' first
    | with_reducible assumption
    | with_reducible apply keeps_ite
    | split
    | with_reducible apply keeps_windowMessage
    | with_reducible apply keeps_dataBlock
    | with_reducible refine keeps_foldl ?_ _ _ ?_
    | with_reducible refine keeps_foldl_fst ?_ _ _ ?_
    | fail_if_no_progress with_reducible apply keeps_mk
    | (intro _)
    | dsimp only
    | refine keeps_takeRx _ _ _ ?_ (_, _) (by assumption)

theorem keeps_gftGrad {s0 : State} (hf : Nat) (s : State) (hk : Keeps s0 s) : Keeps s0 (State.gftGrad s hf) := by
  unfold State.gftGrad
  repeat' first
    | with_reducible assumption
    | with_reducible apply keeps_ite
    | split
    | with_reducible apply keeps_windowMessage
    | with_reducible apply keeps_storeRecord
    | with_reducible apply keeps_abortStep
    | with_reducible refine keeps_foldl ?_ _ _ ?_
    | with_reducible refine keeps_foldl_fst ?_ _ _ ?_
    | fail_if_no_progress with_reducible apply keeps_mk
    | (intro _)
    | dsimp only
    | refine keeps_takeRx _ _ _ ?_ (_, _) (by assumption)

theorem keeps_gftOpen {s0 : State} (hf : Nat) (s : State) (hk : Keeps s0 s) : Keeps s0 (State.gftOpen s hf) := by
  unfold State.gftOpen
  repeat' first
    | with_reducible assumption
    | with_reducible apply keeps_ite
    | split
    | with_reducible apply keeps_dropConn
    | with_reducible apply keeps_connRoom
    | with_reducible apply keeps_sendOpenMsg
    | with_reducible apply keeps_addConn
    | with_reducible refine keeps_foldl ?_ _ _ ?_
    | with_reducible refine keeps_foldl_fst ?_ _ _ ?_
    | fail_if_no_progress with_reducible apply keeps_mk
    | (intro _)
    | dsimp only
    | refine keeps_takeCtrl _ _ _ ?_ (_, _, _) (by assumption)

theorem keeps_gftOpenOk {s0 : State} (hf : Nat) (s : State) (hk : Keeps s0 s) : Keeps s0 (State.gftOpenOk s hf) := by
  unfold State.gftOpenOk
  repeat' first
    | with_reducible assumption
    | with_reducible apply keeps_ite
    | split
    | with_reducible apply keeps_pumpAll
    | with_reducible apply keeps_setConn
    | with_reducible refine keeps_foldl ?_ _ _ ?_
    | with_reducible refine keeps_foldl_fst ?_ _ _ ?_
    | fail_if_no_progress with_reducible apply keeps_mk
    | (intro _)
    | dsimp only
    | refine keeps_takeCtrl _ _ _ ?_ (_, _, _) (by assumption)

theorem keeps_wakeRows {s0 : State} (slot : Nat) (k : GftPacket) (s : State) (hk : Keeps s0 s) : Keeps s0 (State.wakeRows s slot k) := by
  unfold State.wakeRows
  repeat' first
    | with_reducible assumption
    | with_reducible apply keeps_ite
    | split
    | with_reducible apply keeps_wakeSpan
    | with_reducible refine keeps_foldl ?_ _ _ ?_
    | with_reducible refine keeps_foldl_fst ?_ _ _ ?_
    | fail_if_no_progress with_reducible apply keeps_mk
    | (intro _)

theorem keeps_releaseRows {s0 : State} (host : List Host.Cell) (s : State) (hk : Keeps s0 s) : Keeps s0 (State.releaseRows s host) := by
  unfold State.releaseRows
  repeat' first
    | with_reducible assumption
    | with_reducible apply keeps_ite
    | split
    | with_reducible apply keeps_wakeRows
    | with_reducible apply keeps_answerRows
    | with_reducible refine keeps_foldl ?_ _ _ ?_
    | with_reducible refine keeps_foldl_fst ?_ _ _ ?_
    | fail_if_no_progress with_reducible apply keeps_mk
    | (intro _)

theorem keeps_gftRowReq {s0 : State} (hf : Nat) (host : List Host.Cell) (s : State) (hk : Keeps s0 s) : Keeps s0 (State.gftRowReq s hf host) := by
  unfold State.gftRowReq
  repeat' first
    | with_reducible assumption
    | with_reducible apply keeps_ite
    | split
    | with_reducible apply keeps_releaseRows
    | with_reducible apply keeps_epochOk
    | with_reducible apply keeps_wakeRows
    | with_reducible apply keeps_answerRows
    | with_reducible refine keeps_foldl ?_ _ _ ?_
    | with_reducible refine keeps_foldl_fst ?_ _ _ ?_
    | fail_if_no_progress with_reducible apply keeps_mk
    | (intro _)
    | dsimp only
    | refine keeps_takeRx _ _ _ ?_ (_, _) (by assumption)

theorem keeps_rowArrives {s0 : State} (r : RowReq) (n : Nat) (v : Nat) (row : Nat) (w : Nat) (status : Nat) (sweep : Nat) (bytes : List Byte) (s : State) (hk : Keeps s0 s) : Keeps s0 (State.rowArrives s r n v row w status sweep bytes) := by
  unfold State.rowArrives
  repeat' first
    | with_reducible assumption
    | with_reducible apply keeps_ite
    | split
    | with_reducible apply keeps_expectTag
    | with_reducible apply keeps_setHCmd

theorem keeps_rowsArrive {s0 : State} (r : RowReq) (l2 : Nat) (l3 : List Byte) (s : State) (hk : Keeps s0 s) : Keeps s0 (State.rowsArrive s r l2 l3) := by
  induction l2 generalizing s r l3 with
  | zero =>
    unfold State.rowsArrive
    repeat' first
      | with_reducible assumption
  | succ n ih =>
    unfold State.rowsArrive
    repeat' first
      | with_reducible assumption
      | with_reducible apply ih
      | with_reducible apply keeps_ite
      | split
      | with_reducible apply keeps_rowArrives

theorem keeps_gftRowRsp {s0 : State} (hf : Nat) (s : State) (hk : Keeps s0 s) : Keeps s0 (State.gftRowRsp s hf) := by
  unfold State.gftRowRsp
  repeat' first
    | with_reducible assumption
    | with_reducible apply keeps_ite
    | split
    | with_reducible apply keeps_epochOk
    | with_reducible apply keeps_rowsArrive
    | with_reducible apply keeps_freeUser
    | with_reducible refine keeps_foldl ?_ _ _ ?_
    | with_reducible refine keeps_foldl_fst ?_ _ _ ?_
    | fail_if_no_progress with_reducible apply keeps_mk
    | (intro _)
    | dsimp only
    | refine keeps_takeRx _ _ _ ?_ (_, _) (by assumption)

theorem keeps_execAck {s0 : State} (hf : Nat) (s : State) (hk : Keeps s0 s) : KeepsNext s0 (execAck hf s) := by
  unfold execAck
  repeat' first
    | with_reducible assumption
    | with_reducible apply keeps_ite
    | split
    | with_reducible apply keeps_gftAck
    | with_reducible apply keepsNext

theorem keeps_execBulk {s0 : State} (hf : Nat) (s : State) (hk : Keeps s0 s) : KeepsNext s0 (execBulk hf s) := by
  unfold execBulk
  repeat' first
    | with_reducible assumption
    | with_reducible apply keeps_ite
    | split
    | with_reducible apply keeps_gftBulk
    | with_reducible apply keepsNext

theorem keeps_execClose {s0 : State} (hf : Nat) (s : State) (hk : Keeps s0 s) : KeepsNext s0 (execClose hf s) := by
  unfold execClose
  repeat' first
    | with_reducible assumption
    | with_reducible apply keeps_ite
    | split
    | with_reducible apply keeps_gftClose
    | with_reducible apply keepsNext

theorem keeps_execData {s0 : State} (hf : Nat) (s : State) (hk : Keeps s0 s) : KeepsNext s0 (execData hf s) := by
  unfold execData
  repeat' first
    | with_reducible assumption
    | with_reducible apply keeps_ite
    | split
    | with_reducible apply keeps_gftData
    | with_reducible apply keepsNext

theorem keeps_execEpochAdopted {s0 : State} (slot : Nat) (s : State) (hk : Keeps s0 s) : KeepsNext s0 (execEpochAdopted slot s) := by
  unfold execEpochAdopted
  repeat' first
    | with_reducible assumption
    | with_reducible apply keeps_ite
    | split
    | with_reducible apply keeps_epochAdopt
    | with_reducible apply keepsNext

theorem keeps_execEpochCommit {s0 : State} (hf : Nat) (host : List Host.Cell) (s : State) (hk : Keeps s0 s) : KeepsNext s0 (execEpochCommit hf host s) := by
  unfold execEpochCommit
  repeat' first
    | with_reducible assumption
    | with_reducible apply keeps_ite
    | split
    | with_reducible apply keeps_gftCtrl
    | with_reducible apply keepsNext

theorem keeps_execEpochNak {s0 : State} (hf : Nat) (host : List Host.Cell) (s : State) (hk : Keeps s0 s) : KeepsNext s0 (execEpochNak hf host s) := by
  unfold execEpochNak
  repeat' first
    | with_reducible assumption
    | with_reducible apply keeps_ite
    | split
    | with_reducible apply keeps_gftCtrl
    | with_reducible apply keepsNext

theorem keeps_execEpochReady {s0 : State} (hf : Nat) (host : List Host.Cell) (s : State) (hk : Keeps s0 s) : KeepsNext s0 (execEpochReady hf host s) := by
  unfold execEpochReady
  repeat' first
    | with_reducible assumption
    | with_reducible apply keeps_ite
    | split
    | with_reducible apply keeps_gftCtrl
    | with_reducible apply keepsNext

theorem keeps_execGrad {s0 : State} (hf : Nat) (s : State) (hk : Keeps s0 s) : KeepsNext s0 (execGrad hf s) := by
  unfold execGrad
  repeat' first
    | with_reducible assumption
    | with_reducible apply keeps_ite
    | split
    | with_reducible apply keeps_gftGrad
    | with_reducible apply keepsNext

theorem keeps_execLayout {s0 : State} (hf : Nat) (host : List Host.Cell) (s : State) (hk : Keeps s0 s) : KeepsNext s0 (execLayout hf host s) := by
  unfold execLayout
  repeat' first
    | with_reducible assumption
    | with_reducible apply keeps_ite
    | split
    | with_reducible apply keeps_gftCtrl
    | with_reducible apply keepsNext

theorem keeps_execLayoutReq {s0 : State} (hf : Nat) (host : List Host.Cell) (s : State) (hk : Keeps s0 s) : KeepsNext s0 (execLayoutReq hf host s) := by
  unfold execLayoutReq
  repeat' first
    | with_reducible assumption
    | with_reducible apply keeps_ite
    | split
    | with_reducible apply keeps_gftCtrl
    | with_reducible apply keepsNext

theorem keeps_execOpen {s0 : State} (hf : Nat) (s : State) (hk : Keeps s0 s) : KeepsNext s0 (execOpen hf s) := by
  unfold execOpen
  repeat' first
    | with_reducible assumption
    | with_reducible apply keeps_ite
    | split
    | with_reducible apply keeps_gftOpen
    | with_reducible apply keepsNext

theorem keeps_execOpenOk {s0 : State} (hf : Nat) (s : State) (hk : Keeps s0 s) : KeepsNext s0 (execOpenOk hf s) := by
  unfold execOpenOk
  repeat' first
    | with_reducible assumption
    | with_reducible apply keeps_ite
    | split
    | with_reducible apply keeps_gftOpenOk
    | with_reducible apply keepsNext

theorem keeps_execPeerBack {s0 : State} (hf : Nat) (host : List Host.Cell) (s : State) (hk : Keeps s0 s) : KeepsNext s0 (execPeerBack hf host s) := by
  unfold execPeerBack
  repeat' first
    | with_reducible assumption
    | with_reducible apply keeps_ite
    | split
    | with_reducible apply keeps_gftCtrl
    | with_reducible apply keepsNext

theorem keeps_execPeerLoss {s0 : State} (hf : Nat) (host : List Host.Cell) (s : State) (hk : Keeps s0 s) : KeepsNext s0 (execPeerLoss hf host s) := by
  unfold execPeerLoss
  repeat' first
    | with_reducible assumption
    | with_reducible apply keeps_ite
    | split
    | with_reducible apply keeps_gftCtrl
    | with_reducible apply keepsNext

theorem keeps_execRowReq {s0 : State} (hf : Nat) (host : List Host.Cell) (s : State) (hk : Keeps s0 s) : KeepsNext s0 (execRowReq hf host s) := by
  unfold execRowReq
  repeat' first
    | with_reducible assumption
    | with_reducible apply keeps_ite
    | split
    | with_reducible apply keeps_gftRowReq
    | with_reducible apply keepsNext

theorem keeps_execRowRsp {s0 : State} (hf : Nat) (s : State) (hk : Keeps s0 s) : KeepsNext s0 (execRowRsp hf s) := by
  unfold execRowRsp
  repeat' first
    | with_reducible assumption
    | with_reducible apply keeps_ite
    | split
    | with_reducible apply keeps_gftRowRsp
    | with_reducible apply keepsNext

end Sys2Proof.Machine
end

