-- ==== Sys2Proof/Laws/Keeps/Serve.lean ====
section
/-! SUPPORT. What the operations of Machine/Serve.lean keep. -/

namespace Sys2Proof.Machine

theorem keeps_setLedger {s0 : State} (e : Nat) (v : LedgerE) (s : State) (hk : Keeps s0 s) : Keeps s0 (State.setLedger s e v) := by
  unfold State.setLedger
  repeat' first
    | with_reducible assumption
    | with_reducible apply keeps_ite
    | split
    | with_reducible refine keeps_foldl ?_ _ _ ?_
    | with_reducible refine keeps_foldl_fst ?_ _ _ ?_
    | fail_if_no_progress with_reducible apply keeps_mk

theorem keeps_enterRequest {s0 : State} (e : Nat) (v : LedgerE) (s : State) (hk : Keeps s0 s) : Keeps s0 (State.enterRequest s e v) := by
  unfold State.enterRequest
  repeat' first
    | with_reducible assumption
    | with_reducible apply keeps_ite
    | split
    | with_reducible apply keeps_setLedger

theorem keeps_placeAll {s0 : State} (slot : Nat) (e : Nat) (records : List (List Word)) (s : State) (hk : Keeps s0 s) : Keeps s0 (State.placeAll s slot e records) := by
  unfold State.placeAll
  repeat' first
    | with_reducible assumption
    | with_reducible apply keeps_ite
    | split
    | with_reducible apply keeps_placeTask
    | with_reducible refine keeps_foldl ?_ _ _ ?_
    | with_reducible refine keeps_foldl_fst ?_ _ _ ?_
    | fail_if_no_progress with_reducible apply keeps_mk
    | (intro _)

theorem keeps_sendServeRsp {s0 : State} (hf : Nat) (slot : Nat) (peer : Nat) (group : Nat) (reqId : Nat) (status : Nat) (payload : List Byte) (s : State) (hk : Keeps s0 s) : Keeps s0 (State.sendServeRsp s hf slot peer group reqId status payload) := by
  unfold State.sendServeRsp
  repeat' first
    | with_reducible assumption
    | with_reducible apply keeps_ite
    | split
    | with_reducible apply keeps_sendRsp

theorem keeps_reply {s0 : State} (e : Nat) (status : Nat) (detail : Nat) (payload : List Byte) (s : State) (hk : Keeps s0 s) : Keeps s0 (State.reply s e status detail payload) := by
  unfold State.reply
  repeat' first
    | with_reducible assumption
    | with_reducible apply keeps_ite
    | split
    | with_reducible apply keeps_endCapsule
    | with_reducible apply keeps_sendServeRsp
    | with_reducible apply keeps_retire

theorem keeps_resultStore {s0 : State} (e : Nat) (payload : List Byte) (s : State) (hk : Keeps s0 s) : Keeps s0 (State.resultStore s e payload) := by
  unfold State.resultStore
  repeat' first
    | with_reducible assumption
    | with_reducible apply keeps_ite
    | split
    | with_reducible apply keeps_reply

theorem keeps_rxMessage {s0 : State} (hf : Nat) (typ : Nat) (s : State) (hk : Keeps s0 s) : ∀ r, State.rxMessage s hf typ = some r → Keeps s0 r.2.2.2 := by
  unfold State.rxMessage
  intro r hr
  obtain ⟨e, _, he⟩ := List.exists_of_findSome?_eq_some hr
  obtain ⟨b, _, rfl⟩ := Option.map_eq_some_iff.mp he
  apply keeps_mk
  exact hk

theorem keeps_serveDispatch {s0 : State} (e : Nat) (records : List (List Word)) (s : State) (hk : Keeps s0 s) : Keeps s0 (State.serveDispatch s e records) := by
  unfold State.serveDispatch
  repeat' first
    | with_reducible assumption
    | with_reducible apply keeps_ite
    | split
    | with_reducible apply keeps_placeAll
    | with_reducible apply keeps_setLedger

theorem keeps_serveReq {s0 : State} (hf : Nat) (s : State) (hk : Keeps s0 s) : Keeps s0 (State.serveReq s hf) := by
  unfold State.serveReq
  repeat' first
    | with_reducible assumption
    | with_reducible apply keeps_ite
    | split
    | with_reducible apply keeps_sendServeRsp
    | with_reducible apply keeps_enterRequest
    | with_reducible refine keeps_foldl ?_ _ _ ?_
    | with_reducible refine keeps_foldl_fst ?_ _ _ ?_
    | fail_if_no_progress with_reducible apply keeps_mk
    | (intro _)
    | dsimp only
    | refine keeps_rxMessage _ _ _ ?_ (_, _, _, _) (by assumption)

theorem keeps_serveRsp {s0 : State} (hf : Nat) (s : State) (hk : Keeps s0 s) : Keeps s0 (State.serveRsp s hf) := by
  unfold State.serveRsp
  repeat' first
    | with_reducible assumption
    | with_reducible apply keeps_ite
    | split
    | with_reducible apply keeps_emit
    | with_reducible refine keeps_foldl ?_ _ _ ?_
    | with_reducible refine keeps_foldl_fst ?_ _ _ ?_
    | fail_if_no_progress with_reducible apply keeps_mk
    | (intro _)
    | dsimp only
    | refine keeps_rxMessage _ _ _ ?_ (_, _, _, _) (by assumption)

theorem keeps_execResultStore {s0 : State} (entry : Nat) (payload : List Byte) (s : State) (hk : Keeps s0 s) : KeepsNext s0 (execResultStore entry payload s) := by
  unfold execResultStore
  repeat' first
    | with_reducible assumption
    | with_reducible apply keeps_ite
    | split
    | with_reducible apply keeps_resultStore
    | with_reducible apply keepsNext

theorem keeps_execServeDispatch {s0 : State} (entry : Nat) (records : List (List Word)) (s : State) (hk : Keeps s0 s) : KeepsNext s0 (execServeDispatch entry records s) := by
  unfold execServeDispatch
  repeat' first
    | with_reducible assumption
    | with_reducible apply keeps_ite
    | split
    | with_reducible apply keeps_serveDispatch
    | with_reducible apply keepsNext

theorem keeps_execServeReq {s0 : State} (hf : Nat) (s : State) (hk : Keeps s0 s) : KeepsNext s0 (execServeReq hf s) := by
  unfold execServeReq
  repeat' first
    | with_reducible assumption
    | with_reducible apply keeps_ite
    | split
    | with_reducible apply keeps_serveReq
    | with_reducible apply keepsNext

theorem keeps_execServeRsp {s0 : State} (hf : Nat) (s : State) (hk : Keeps s0 s) : KeepsNext s0 (execServeRsp hf s) := by
  unfold execServeRsp
  repeat' first
    | with_reducible assumption
    | with_reducible apply keeps_ite
    | split
    | with_reducible apply keeps_serveRsp
    | with_reducible apply keepsNext

end Sys2Proof.Machine
end

