-- ==== Sys2Proof/Laws/Keeps/Prospect.lean ====
section
/-! SUPPORT. What the operations of Machine/Prospect.lean keep. -/

namespace Sys2Proof.Machine

theorem keeps_listRows {s0 : State} (p : Nat) (r : List Nat) (host : List Host.Cell) (s : State) (hk : Keeps s0 s) : Keeps s0 (State.listRows s p r host).1 := by
  unfold State.listRows
  repeat' first
    | with_reducible assumption
    | with_reducible apply keeps_ite
    | split
    | with_reducible apply keeps_readDev

theorem keeps_rowsOfStep {s0 : State} (p : Nat) (step : Nat) (host : List Host.Cell) (s : State) (hk : Keeps s0 s) : Keeps s0 (State.rowsOfStep s p step host).1 := by
  unfold State.rowsOfStep
  repeat' first
    | with_reducible assumption
    | with_reducible apply keeps_ite
    | split
    | with_reducible apply keeps_readDev
    | with_reducible apply keeps_listRows
    | with_reducible refine keeps_foldl ?_ _ _ ?_
    | with_reducible refine keeps_foldl_fst ?_ _ _ ?_
    | fail_if_no_progress with_reducible apply keeps_mk
    | (intro _)
    | dsimp only

theorem keeps_filterKeys {s0 : State} (p : Nat) (step : Nat) (d : Nat) (host : List Host.Cell) (s : State) (hk : Keeps s0 s) : Keeps s0 (State.filterKeys s p step d host).1 := by
  unfold State.filterKeys
  repeat' first
    | with_reducible assumption
    | with_reducible apply keeps_ite
    | split
    | with_reducible apply keeps_rowsOfStep
    | with_reducible refine keeps_foldl ?_ _ _ ?_
    | with_reducible refine keeps_foldl_fst ?_ _ _ ?_
    | fail_if_no_progress with_reducible apply keeps_mk
    | (intro _)

theorem keeps_handStaged {s0 : State} (e : Staged) (s : State) (hk : Keeps s0 s) : Keeps s0 (State.handStaged s e).1 := by
  unfold State.handStaged
  repeat' first
    | with_reducible assumption
    | with_reducible apply keeps_ite
    | split
    | with_reducible apply keeps_insertTally

theorem keeps_prospectHandover {s0 : State} (slot : Nat) (s : State) (hk : Keeps s0 s) : Keeps s0 (State.prospectHandover s slot).1 := by
  unfold State.prospectHandover
  repeat' first
    | with_reducible assumption
    | with_reducible apply keeps_ite
    | split
    | with_reducible apply keeps_readDev
    | with_reducible apply keeps_setFld
    | with_reducible apply keeps_dropStaged
    | with_reducible apply keeps_handStaged
    | with_reducible apply keeps_handOwner
    | with_reducible apply keeps_showStaged
    | with_reducible refine keeps_foldl ?_ _ _ ?_
    | with_reducible refine keeps_foldl_fst ?_ _ _ ?_
    | fail_if_no_progress with_reducible apply keeps_mk
    | (intro _)
    | dsimp only

theorem keeps_setReturns {s0 : State} (p : Nat) (t : ReturnSt) (s : State) (hk : Keeps s0 s) : Keeps s0 (State.setReturns s p t) := by
  unfold State.setReturns
  repeat' first
    | with_reducible assumption
    | with_reducible apply keeps_ite
    | split
    | with_reducible refine keeps_foldl ?_ _ _ ?_
    | with_reducible refine keeps_foldl_fst ?_ _ _ ?_
    | fail_if_no_progress with_reducible apply keeps_mk

theorem keeps_serveReturn {s0 : State} (p : Nat) (t : ReturnSt) (a : ReturnAct) (host : List Host.Cell) (s : State) (hk : Keeps s0 s) : Keeps s0 (State.serveReturn s p t a host) := by
  unfold State.serveReturn
  repeat' first
    | with_reducible assumption
    | with_reducible apply keeps_ite
    | split
    | with_reducible apply keeps_wakeSpans
    | with_reducible apply keeps_readDev
    | with_reducible apply keeps_handOwner
    | with_reducible apply keeps_writeDev
    | with_reducible apply keeps_setReturns
    | with_reducible apply keeps_count
    | with_reducible apply keeps_bumpToken

theorem keeps_returnRecords {s0 : State} (p : Nat) (s : State) (hk : Keeps s0 s) : Keeps s0 (State.returnRecords s p).1 := by
  unfold State.returnRecords
  repeat' first
    | with_reducible assumption
    | with_reducible apply keeps_ite
    | split
    | with_reducible apply keeps_readDev

theorem keeps_takeReturn {s0 : State} (p : Nat) (t : ReturnSt) (r : List Nat) (s : State) (hk : Keeps s0 s) : Keeps s0 (State.takeReturn s p t r) := by
  unfold State.takeReturn
  repeat' first
    | with_reducible assumption
    | with_reducible apply keeps_ite
    | split
    | with_reducible apply keeps_raise
    | with_reducible apply keeps_bumpToken
    | with_reducible apply keeps_setReturns
    | with_reducible apply keeps_setToken
    | with_reducible apply keeps_handOwner

theorem keeps_prospectReturn {s0 : State} (p : Nat) (index : Nat) (host : List Host.Cell) (s : State) (hk : Keeps s0 s) : Keeps s0 (State.prospectReturn s p index host) := by
  unfold State.prospectReturn
  repeat' first
    | with_reducible assumption
    | with_reducible apply keeps_ite
    | split
    | with_reducible apply keeps_serveReturn
    | with_reducible apply keeps_returnRecords
    | with_reducible apply keeps_takeReturn
    | with_reducible refine keeps_foldl ?_ _ _ ?_
    | with_reducible refine keeps_foldl_fst ?_ _ _ ?_
    | fail_if_no_progress with_reducible apply keeps_mk
    | (intro _)
    | dsimp only

theorem keeps_stageEntry {s0 : State} (p : Nat) (slot : Nat) (step : Nat) (soon : List (Nat × Nat)) (e : Nat × Nat) (s : State) (hk : Keeps s0 s) : Keeps s0 (State.stageEntry s p slot step soon e) := by
  unfold State.stageEntry
  repeat' first
    | with_reducible assumption
    | with_reducible apply keeps_ite
    | split
    | with_reducible apply keeps_draw
    | with_reducible apply keeps_count
    | with_reducible refine keeps_foldl ?_ _ _ ?_
    | with_reducible refine keeps_foldl_fst ?_ _ _ ?_
    | fail_if_no_progress with_reducible apply keeps_mk
    | (intro _)
    | dsimp only

theorem keeps_slotRead {s0 : State} (p : Nat) (d : Nat) (host : List Host.Cell) (s : State) (hk : Keeps s0 s) : Keeps s0 (State.slotRead s p d host) := by
  unfold State.slotRead
  repeat' first
    | with_reducible assumption
    | with_reducible apply keeps_ite
    | split
    | with_reducible apply keeps_readDev
    | with_reducible apply keeps_setStatus
    | with_reducible apply keeps_wakeSpans
    | with_reducible apply keeps_filterKeys
    | with_reducible apply keeps_rowsOfStep
    | with_reducible apply keeps_stageEntry
    | with_reducible apply keeps_showStaged
    | with_reducible apply keeps_setFld
    | with_reducible refine keeps_foldl ?_ _ _ ?_
    | with_reducible refine keeps_foldl_fst ?_ _ _ ?_
    | fail_if_no_progress with_reducible apply keeps_mk
    | (intro _)

theorem keeps_slotRetry {s0 : State} (p : Nat) (d : Nat) (host : List Host.Cell) (s : State) (hk : Keeps s0 s) : Keeps s0 (State.slotRetry s p d host) := by
  unfold State.slotRetry
  repeat' first
    | with_reducible assumption
    | with_reducible apply keeps_ite
    | split
    | with_reducible apply keeps_slotRead

theorem keeps_stageRow {s0 : State} (p : Nat) (index : Nat) (host : List Host.Cell) (s : State) (hk : Keeps s0 s) : Keeps s0 (State.stageRow s p index host) := by
  unfold State.stageRow
  repeat' first
    | with_reducible assumption
    | with_reducible apply keeps_ite
    | split
    | with_reducible apply keeps_wakeSpan
    | with_reducible apply keeps_readDev
    | with_reducible apply keeps_writeDev
    | with_reducible apply keeps_showStaged
    | with_reducible refine keeps_foldl ?_ _ _ ?_
    | with_reducible refine keeps_foldl_fst ?_ _ _ ?_
    | fail_if_no_progress with_reducible apply keeps_mk

theorem keeps_execProspectRetry {s0 : State} (panel : Nat) (d : Nat) (host : List Host.Cell) (s : State) (hk : Keeps s0 s) : KeepsNext s0 (execProspectRetry panel d host s) := by
  unfold execProspectRetry
  repeat' first
    | with_reducible assumption
    | with_reducible apply keeps_ite
    | split
    | with_reducible apply keeps_slotRetry
    | with_reducible apply keepsNext

theorem keeps_execProspectReturn {s0 : State} (at_ : ReturnAt) (host : List Host.Cell) (s : State) (hk : Keeps s0 s) : KeepsNext s0 (execProspectReturn at_ host s) := by
  unfold execProspectReturn
  repeat' first
    | with_reducible assumption
    | with_reducible apply keeps_ite
    | split
    | with_reducible apply keeps_prospectReturn
    | with_reducible apply keepsNext

theorem keeps_execProspectSlotRead {s0 : State} (panel : Nat) (d : Nat) (host : List Host.Cell) (s : State) (hk : Keeps s0 s) : KeepsNext s0 (execProspectSlotRead panel d host s) := by
  unfold execProspectSlotRead
  repeat' first
    | with_reducible assumption
    | with_reducible apply keeps_ite
    | split
    | with_reducible apply keeps_slotRead
    | with_reducible apply keepsNext

theorem keeps_execProspectStageRow {s0 : State} (panel : Nat) (index : Nat) (host : List Host.Cell) (s : State) (hk : Keeps s0 s) : KeepsNext s0 (execProspectStageRow panel index host s) := by
  unfold execProspectStageRow
  repeat' first
    | with_reducible assumption
    | with_reducible apply keeps_ite
    | split
    | with_reducible apply keeps_stageRow
    | with_reducible apply keepsNext

end Sys2Proof.Machine
end

