-- ==== Sys2Proof/Laws/Keeps/Lease.lean ====
section
/-! SUPPORT. What the operations of Machine/Lease.lean keep. -/

namespace Sys2Proof.Machine

theorem keeps_clearQueues {s0 : State} (f : Nat) (s : State) (hk : Keeps s0 s) : Keeps s0 (State.clearQueues s f) := by
  unfold State.clearQueues
  repeat' first
    | with_reducible assumption
    | with_reducible apply keeps_ite
    | split
    | with_reducible refine keeps_foldl ?_ _ _ ?_
    | with_reducible refine keeps_foldl_fst ?_ _ _ ?_
    | fail_if_no_progress with_reducible apply keeps_mk

theorem keeps_closeWindows {s0 : State} (f : Nat) (s : State) (hk : Keeps s0 s) : Keeps s0 (State.closeWindows s f) := by
  unfold State.closeWindows
  repeat' first
    | with_reducible assumption
    | with_reducible apply keeps_ite
    | split
    | with_reducible refine keeps_foldl ?_ _ _ ?_
    | with_reducible refine keeps_foldl_fst ?_ _ _ ?_
    | fail_if_no_progress with_reducible apply keeps_mk
    | (intro _)

theorem keeps_discardRequests {s0 : State} (slot : Nat) (s : State) (hk : Keeps s0 s) : Keeps s0 (State.discardRequests s slot) := by
  unfold State.discardRequests
  repeat' first
    | with_reducible assumption
    | with_reducible apply keeps_ite
    | split
    | with_reducible apply keeps_reply
    | with_reducible apply keeps_dropRequest
    | with_reducible refine keeps_foldl ?_ _ _ ?_
    | with_reducible refine keeps_foldl_fst ?_ _ _ ?_
    | fail_if_no_progress with_reducible apply keeps_mk
    | (intro _)

theorem keeps_withdrawSteps {s0 : State} (slot : Nat) (s : State) (hk : Keeps s0 s) : Keeps s0 (State.withdrawSteps s slot) := by
  unfold State.withdrawSteps
  repeat' first
    | with_reducible assumption
    | with_reducible apply keeps_ite
    | split
    | with_reducible apply keeps_stepRecords
    | with_reducible apply keeps_setJob
    | with_reducible apply keeps_cancelSteps

theorem keeps_sendLoss {s0 : State} (slot : Nat) (reason : Nat) (s : State) (hk : Keeps s0 s) : Keeps s0 (State.sendLoss s slot reason) := by
  unfold State.sendLoss
  repeat' first
    | with_reducible assumption
    | with_reducible apply keeps_ite
    | split
    | with_reducible apply keeps_sendCtrl
    | with_reducible refine keeps_foldl ?_ _ _ ?_
    | with_reducible refine keeps_foldl_fst ?_ _ _ ?_
    | fail_if_no_progress with_reducible apply keeps_mk
    | (intro _)

theorem keeps_leaseProceed {s0 : State} (f : Nat) (s : State) (hk : Keeps s0 s) : Keeps s0 (State.leaseProceed s f) := by
  unfold State.leaseProceed
  repeat' first
    | with_reducible assumption
    | with_reducible apply keeps_ite
    | split
    | with_reducible apply keeps_takeSlice
    | with_reducible apply keeps_setBit
    | with_reducible apply keeps_closeWindows
    | with_reducible apply keeps_setFn
    | with_reducible apply keeps_sendLoss
    | with_reducible refine keeps_foldl ?_ _ _ ?_
    | with_reducible refine keeps_foldl_fst ?_ _ _ ?_
    | fail_if_no_progress with_reducible apply keeps_mk
    | (intro _)

theorem keeps_expireLease {s0 : State} (f : Nat) (s : State) (hk : Keeps s0 s) : Keeps s0 (State.expireLease s f) := by
  unfold State.expireLease
  repeat' first
    | with_reducible assumption
    | with_reducible apply keeps_ite
    | split
    | with_reducible apply keeps_raise
    | with_reducible apply keeps_setBit
    | with_reducible apply keeps_discardRequests
    | with_reducible apply keeps_withdrawSteps
    | with_reducible apply keeps_leaseProceed
    | with_reducible apply keeps_setFn
    | with_reducible refine keeps_foldl ?_ _ _ ?_
    | with_reducible refine keeps_foldl_fst ?_ _ _ ?_
    | fail_if_no_progress with_reducible apply keeps_mk
    | (intro _)

theorem keeps_d3hot {s0 : State} (f : Nat) (s : State) (hk : Keeps s0 s) : Keeps s0 (State.d3hot s f) := by
  unfold State.d3hot
  repeat' first
    | with_reducible assumption
    | with_reducible apply keeps_ite
    | split
    | with_reducible apply keeps_expireLease

theorem keeps_flr {s0 : State} (f : Nat) (s : State) (hk : Keeps s0 s) : Keeps s0 (State.flr s f) := by
  unfold State.flr
  repeat' first
    | with_reducible assumption
    | with_reducible apply keeps_ite
    | split
    | with_reducible apply keeps_clearQueues
    | with_reducible apply keeps_expireLease
    | with_reducible refine keeps_foldl ?_ _ _ ?_
    | with_reducible refine keeps_foldl_fst ?_ _ _ ?_
    | fail_if_no_progress with_reducible apply keeps_mk

theorem keeps_leaseTimer {s0 : State} (f : Nat) (s : State) (hk : Keeps s0 s) : Keeps s0 (State.leaseTimer s f) := by
  unfold State.leaseTimer
  repeat' first
    | with_reducible assumption
    | with_reducible apply keeps_ite
    | split
    | with_reducible apply keeps_leaseProceed
    | with_reducible apply keeps_expireLease

theorem keeps_leasesProceed {s0 : State} (s : State) (hk : Keeps s0 s) : Keeps s0 (State.leasesProceed s) := by
  unfold State.leasesProceed
  repeat' first
    | with_reducible assumption
    | with_reducible apply keeps_ite
    | split
    | with_reducible apply keeps_leaseProceed
    | with_reducible refine keeps_foldl ?_ _ _ ?_
    | with_reducible refine keeps_foldl_fst ?_ _ _ ?_
    | fail_if_no_progress with_reducible apply keeps_mk
    | (intro _)

theorem keeps_masterOff {s0 : State} (f : Nat) (s : State) (hk : Keeps s0 s) : Keeps s0 (State.masterOff s f) := by
  unfold State.masterOff
  repeat' first
    | with_reducible assumption
    | with_reducible apply keeps_ite
    | split
    | with_reducible refine keeps_foldl ?_ _ _ ?_
    | with_reducible refine keeps_foldl_fst ?_ _ _ ?_
    | fail_if_no_progress with_reducible apply keeps_mk

theorem keeps_stopJob {s0 : State} (slot : Nat) (s : State) (hk : Keeps s0 s) : Keeps s0 (State.stopJob s slot) := by
  unfold State.stopJob
  repeat' first
    | with_reducible assumption
    | with_reducible apply keeps_ite
    | split
    | with_reducible apply keeps_stopSlot
    | with_reducible apply keeps_leasesProceed
    | with_reducible refine keeps_foldl ?_ _ _ ?_
    | with_reducible refine keeps_foldl_fst ?_ _ _ ?_
    | fail_if_no_progress with_reducible apply keeps_mk

theorem keeps_execBusMasterDisable {s0 : State} (fn : Nat) (s : State) (hk : Keeps s0 s) : KeepsNext s0 (execBusMasterDisable fn s) := by
  unfold execBusMasterDisable
  repeat' first
    | with_reducible assumption
    | with_reducible apply keeps_ite
    | split
    | with_reducible apply keeps_masterOff
    | with_reducible apply keepsNext

theorem keeps_execD3hotWrite {s0 : State} (fn : Nat) (s : State) (hk : Keeps s0 s) : KeepsNext s0 (execD3hotWrite fn s) := by
  unfold execD3hotWrite
  repeat' first
    | with_reducible assumption
    | with_reducible apply keeps_ite
    | split
    | with_reducible apply keeps_d3hot
    | with_reducible apply keepsNext

theorem keeps_execFunctionLevelReset {s0 : State} (fn : Nat) (s : State) (hk : Keeps s0 s) : KeepsNext s0 (execFunctionLevelReset fn s) := by
  unfold execFunctionLevelReset
  repeat' first
    | with_reducible assumption
    | with_reducible apply keeps_ite
    | split
    | with_reducible apply keeps_flr
    | with_reducible apply keepsNext

theorem keeps_execLeaseExpiry {s0 : State} (fn : Nat) (s : State) (hk : Keeps s0 s) : KeepsNext s0 (execLeaseExpiry fn s) := by
  unfold execLeaseExpiry
  repeat' first
    | with_reducible assumption
    | with_reducible apply keeps_ite
    | split
    | with_reducible apply keeps_leaseTimer
    | with_reducible apply keepsNext

end Sys2Proof.Machine
end

