-- ==== Sys2Proof/Laws/Keeps/FwImage.lean ====
section
/-! SUPPORT. What the operations of Machine/FwImage.lean keep. -/

namespace Sys2Proof.Machine

theorem keeps_setOther {s0 : State} (l : List Byte) (s : State) (hk : Keeps s0 s) : Keeps s0 (State.setOther s l) := by
  unfold State.setOther
  repeat' first
    | with_reducible assumption
    | with_reducible apply keeps_ite
    | split
    | with_reducible refine keeps_foldl ?_ _ _ ?_
    | with_reducible refine keeps_foldl_fst ?_ _ _ ?_
    | fail_if_no_progress with_reducible apply keeps_mk

end Sys2Proof.Machine
end

