-- ==== Sys2Proof/Laws/Keeps/Security.lean ====
section
/-! SUPPORT. What the operations of Machine/Security.lean keep. -/

namespace Sys2Proof.Machine

theorem keeps_burnLc {s0 : State} (target : Nat) (s : State) (hk : Keeps s0 s) (hl : s.otp.lc ≤ target) : Keeps s0 (s.burnLc target) := by
  unfold State.burnLc
  exact keeps_setFld _ _ _ _ _ (keeps_otp hk ⟨hl, List.prefix_refl _, List.prefix_refl _, Nat.le_refl _, Nat.le_refl _, Nat.le_refl _, fun _ => rfl⟩)

theorem keeps_fuseDs {s0 : State} (d : List Byte) (s : State) (hk : Keeps s0 s) : Keeps s0 (State.fuseDs s d) := by
  unfold State.fuseDs
  exact keeps_otp hk ⟨Nat.le_refl _, List.prefix_refl _, List.prefix_refl _, Nat.le_refl _, Nat.le_refl _, Nat.le_refl _, fun _ => rfl⟩

theorem keeps_freshDs {s0 : State} (s : State) (hk : Keeps s0 s) : Keeps s0 (State.freshDs s) := by
  unfold State.freshDs
  repeat' first
    | with_reducible assumption
    | with_reducible apply keeps_ite
    | split
    | with_reducible apply keeps_fuseDs
    | with_reducible apply keeps_drawBytes

theorem keeps_keysGone {s0 : State} (s : State) (hk : Keeps s0 s) : Keeps s0 (State.keysGone s) := by
  unfold State.keysGone
  repeat' first
    | with_reducible assumption
    | with_reducible apply keeps_ite
    | split
    | with_reducible apply keeps_setStatus
    | with_reducible apply keeps_zeroise

theorem keeps_stopAll {s0 : State} (notice : Bool) (s : State) (hk : Keeps s0 s) : Keeps s0 (State.stopAll s notice) := by
  unfold State.stopAll
  repeat' first
    | with_reducible assumption
    | with_reducible apply keeps_ite
    | split
    | with_reducible apply keeps_stopJob
    | with_reducible apply keeps_noticeRecord
    | with_reducible refine keeps_foldl ?_ _ _ ?_
    | with_reducible refine keeps_foldl_fst ?_ _ _ ?_
    | fail_if_no_progress with_reducible apply keeps_mk
    | (intro _)

theorem keeps_retireDs {s0 : State} (s : State) (hk : Keeps s0 s) : Keeps s0 (State.retireDs s) := by
  unfold State.retireDs
  repeat' first
    | with_reducible assumption
    | with_reducible apply keeps_ite
    | split
    | with_reducible apply keeps_keysGone
    | with_reducible apply keeps_fuseDs
    | with_reducible apply keeps_stopAll
    | with_reducible refine keeps_foldl ?_ _ _ ?_
    | with_reducible refine keeps_foldl_fst ?_ _ _ ?_
    | fail_if_no_progress with_reducible apply keeps_mk

theorem keeps_advanceLc {s0 : State} (target : Nat) (s : State) (hk : Keeps s0 s) (hl : s.otp.lc ≤ target) : Keeps s0 (s.advanceLc target) := by
  unfold State.advanceLc
  apply keeps_raise
  have h := keeps_burnLc target s hk hl
  split
  · apply keeps_retireDs
    split
    · exact keeps_freshDs _ h
    · exact h
  · split
    · exact keeps_freshDs _ h
    · exact h

theorem keeps_burnSvn {s0 : State} (v : Nat) (s : State) (hk : Keeps s0 s) (hl : s.otp.svn ≤ v) : Keeps s0 (s.burnSvn v) := by
  unfold State.burnSvn
  exact keeps_setFld _ _ _ _ _ (keeps_otp hk ⟨Nat.le_refl _, List.prefix_refl _, List.prefix_refl _, hl, Nat.le_add_right _ _, Nat.le_refl _, fun _ => rfl⟩)

theorem keeps_countInvasive {s0 : State} (s : State) (hk : Keeps s0 s) : Keeps s0 (State.countInvasive s) := by
  unfold State.countInvasive
  refine keeps_count _ _ _ _ _ (keeps_otp (keeps_setFld _ _ _ _ _ hk) ⟨Nat.le_refl _, List.prefix_refl _, List.prefix_refl _, Nat.le_refl _, Nat.le_refl _, Nat.le_succ _, fun _ => rfl⟩)

theorem keeps_wipeExt {s0 : State} (lo : Nat) (hi : Nat) (s : State) (hk : Keeps s0 s) : Keeps s0 (State.wipeExt s lo hi) := by
  unfold State.wipeExt
  refine keeps_foldl (fun s a h => keeps_writePair a _ _ h) _ _ ?_
  exact hk.trans ⟨rfl, fun w => ⟨SMap.wf_clear _ _ w.1 (fun _ _ => rfl), w.2⟩, Burned.refl _⟩

theorem keeps_wipeJobs {s0 : State} (banks : List Nat) (s : State) (hk : Keeps s0 s) : Keeps s0 (State.wipeJobs s banks) := by
  unfold State.wipeJobs
  exact keeps_foldl (fun s j h => keeps_wipeExt _ _ _ h) _ _ (keeps_foldl (fun s b h => keeps_refill b 0 h) _ _ hk)

theorem keeps_noteLevel {s0 : State} (level : Nat) (signer : Nat) (digest : List Byte) (s : State) (hk : Keeps s0 s) : Keeps s0 (State.noteLevel s level signer digest) := by
  unfold State.noteLevel
  repeat' first
    | with_reducible assumption
    | with_reducible apply keeps_ite
    | split
    | with_reducible apply keeps_raise
    | with_reducible apply keeps_extendMeas

theorem keeps_putLevel {s0 : State} (level : Nat) (signer : Nat) (seconds : Nat) (s : State) (hk : Keeps s0 s) : Keeps s0 (State.putLevel s level signer seconds) := by
  unfold State.putLevel
  repeat' first
    | with_reducible assumption
    | with_reducible apply keeps_ite
    | split
    | with_reducible apply keeps_setFld
    | with_reducible refine keeps_foldl ?_ _ _ ?_
    | with_reducible refine keeps_foldl_fst ?_ _ _ ?_
    | fail_if_no_progress with_reducible apply keeps_mk

theorem keeps_enterLevel {s0 : State} (level : Nat) (signer : Nat) (seconds : Nat) (digest : List Byte) (s : State) (hk : Keeps s0 s) : Keeps s0 (State.enterLevel s level signer seconds digest) := by
  unfold State.enterLevel
  repeat' first
    | with_reducible assumption
    | with_reducible apply keeps_ite
    | split
    | with_reducible apply keeps_keysGone
    | with_reducible apply keeps_countInvasive
    | with_reducible apply keeps_wipeJobs
    | with_reducible apply keeps_stopAll
    | with_reducible apply keeps_deriveSr
    | with_reducible apply keeps_noteLevel
    | with_reducible apply keeps_putLevel

theorem keeps_fuseOwner {s0 : State} (k : List Byte) (s : State) (hk : Keeps s0 s) : Keeps s0 (State.fuseOwner s k) := by
  unfold State.fuseOwner
  exact keeps_setBit _ _ _ _ (keeps_otp hk ⟨Nat.le_refl _, List.prefix_append _ _, List.prefix_refl _, Nat.le_refl _, Nat.le_refl _, Nat.le_refl _, fun _ => rfl⟩)

theorem keeps_revokeSlot {s0 : State} (i : Nat) (s : State) (hk : Keeps s0 s) : Keeps s0 (State.revokeSlot s i) := by
  unfold State.revokeSlot
  exact keeps_setBit _ _ _ _ (keeps_otp hk ⟨Nat.le_refl _, List.prefix_refl _, List.prefix_append _ _, Nat.le_refl _, Nat.le_refl _, Nat.le_refl _, fun _ => rfl⟩)

/-- What the checks of R408 leave of a command that burns fuses: its target is one step on, or its version does not fall. -/
theorem checkCmd_zero (s : State) (c : List Byte) (h : s.checkCmd c = 0) :
    (imgNum c 4 1 = 2 → lcStep s.otp.lc (imgNum c 5 1) = true) ∧ (imgNum c 4 1 = 4 → s.otp.svn ≤ imgNum c 96 2) := by
  unfold State.checkCmd at h
  extract_lets op arg signer argOk reserved at h
  iterate 5
    split at h
    · cases h
  split at h
  · cases h
  · rename_i g
    simp only [Bool.or_eq_true, Bool.and_eq_true, decide_eq_true_eq, Bool.not_eq_true', not_or, not_and] at g
    exact ⟨fun e => by simpa using g.1.1 e, fun e => Nat.le_of_not_lt (g.1.2 e)⟩

theorem lcStep_le {a b : Nat} (h : lcStep a b = true) : a ≤ b := by
  unfold lcStep at h
  split at h <;> simp_all

theorem keeps_runCmd {s0 : State} (c : List Byte) (s : State) (hk : Keeps s0 s) (h : s.checkCmd c = 0) : Keeps s0 (s.runCmd c) := by
  have g := checkCmd_zero s c h
  unfold State.runCmd
  dsimp only
  split
  · exact keeps_enterLevel _ _ _ _ _ hk
  · rename_i e
    exact keeps_advanceLc _ _ hk (lcStep_le (g.1 e))
  · exact keeps_fuseOwner _ _ hk
  · rename_i e
    exact keeps_burnSvn _ _ hk (g.2 e)
  · exact keeps_revokeSlot _ _ hk

theorem keeps_cmdGo {s0 : State} (s : State) (hk : Keeps s0 s) : Keeps s0 (State.cmdGo s) := by
  unfold State.cmdGo
  split
  · exact hk
  split
  · exact keeps_setBit _ _ _ _ hk
  · dsimp only
    refine keeps_newNonce _ (keeps_setBit _ _ _ _ (keeps_setFld _ _ _ _ _ ?_))
    split
    · rename_i h
      exact keeps_runCmd _ _ hk h
    · exact keeps_raise _ _ _ _ _ hk

theorem keeps_signedCmd {s0 : State} (c : List Byte) (s : State) (hk : Keeps s0 s) : Keeps s0 (State.signedCmd s c) := by
  unfold State.signedCmd
  repeat' first
    | with_reducible assumption
    | with_reducible apply keeps_ite
    | split
    | with_reducible apply keeps_cmdGo
    | with_reducible apply keeps_setRegBytes

theorem keeps_cmdBadOp {s0 : State} (c : List Byte) (s : State) (hk : Keeps s0 s) : Keeps s0 (State.cmdBadOp s c) := by
  unfold State.cmdBadOp
  repeat' first
    | with_reducible assumption
    | with_reducible apply keeps_ite
    | split
    | with_reducible apply keeps_signedCmd

theorem keeps_cmdDebug {s0 : State} (c : List Byte) (s : State) (hk : Keeps s0 s) : Keeps s0 (State.cmdDebug s c) := by
  unfold State.cmdDebug
  repeat' first
    | with_reducible assumption
    | with_reducible apply keeps_ite
    | split
    | with_reducible apply keeps_signedCmd

theorem keeps_cmdLc {s0 : State} (c : List Byte) (s : State) (hk : Keeps s0 s) : Keeps s0 (State.cmdLc s c) := by
  unfold State.cmdLc
  repeat' first
    | with_reducible assumption
    | with_reducible apply keeps_ite
    | split
    | with_reducible apply keeps_signedCmd

theorem keeps_cmdOwner {s0 : State} (c : List Byte) (s : State) (hk : Keeps s0 s) : Keeps s0 (State.cmdOwner s c) := by
  unfold State.cmdOwner
  repeat' first
    | with_reducible assumption
    | with_reducible apply keeps_ite
    | split
    | with_reducible apply keeps_signedCmd

theorem keeps_cmdRevoke {s0 : State} (c : List Byte) (s : State) (hk : Keeps s0 s) : Keeps s0 (State.cmdRevoke s c) := by
  unfold State.cmdRevoke
  repeat' first
    | with_reducible assumption
    | with_reducible apply keeps_ite
    | split
    | with_reducible apply keeps_signedCmd

theorem keeps_cmdSvn {s0 : State} (c : List Byte) (s : State) (hk : Keeps s0 s) : Keeps s0 (State.cmdSvn s c) := by
  unfold State.cmdSvn
  repeat' first
    | with_reducible assumption
    | with_reducible apply keeps_ite
    | split
    | with_reducible apply keeps_signedCmd

theorem keeps_levelOff {s0 : State} (s : State) (hk : Keeps s0 s) : Keeps s0 (State.levelOff s) := by
  unfold State.levelOff
  repeat' first
    | with_reducible assumption
    | with_reducible apply keeps_ite
    | split
    | with_reducible apply keeps_drawBytes
    | with_reducible apply keeps_noteLevel
    | with_reducible apply keeps_putLevel

theorem keeps_durationEnd {s0 : State} (s : State) (hk : Keeps s0 s) : Keeps s0 (State.durationEnd s) := by
  unfold State.durationEnd
  repeat' first
    | with_reducible assumption
    | with_reducible apply keeps_ite
    | split
    | with_reducible apply keeps_levelOff

theorem keeps_extendWrite {s0 : State} (v : Word) (s : State) (hk : Keeps s0 s) : Keeps s0 (State.extendWrite s v) := by
  unfold State.extendWrite
  repeat' first
    | with_reducible assumption
    | with_reducible apply keeps_ite
    | split
    | with_reducible apply keeps_setBit
    | with_reducible apply keeps_extendMeas

theorem keeps_levelWrite {s0 : State} (v : Word) (s : State) (hk : Keeps s0 s) : Keeps s0 (State.levelWrite s v) := by
  unfold State.levelWrite
  repeat' first
    | with_reducible assumption
    | with_reducible apply keeps_ite
    | split
    | with_reducible apply keeps_drawBytes
    | with_reducible apply keeps_levelOff
    | with_reducible apply keeps_noteLevel
    | with_reducible apply keeps_setFld
    | with_reducible apply keeps_enterLevel

theorem keeps_nonceNew {s0 : State} (s : State) (hk : Keeps s0 s) : Keeps s0 (State.nonceNew s) := by
  unfold State.nonceNew
  repeat' first
    | with_reducible assumption
    | with_reducible apply keeps_ite
    | split
    | with_reducible apply keeps_newNonce

theorem keeps_signIdentity {s0 : State} (m : List Byte) (s : State) (hk : Keeps s0 s) : Keeps s0 (State.signIdentity s m).1 := by
  unfold State.signIdentity
  repeat' first
    | with_reducible assumption
    | with_reducible apply keeps_ite
    | split
    | with_reducible apply keeps_drawBytes
    | with_reducible refine keeps_foldl ?_ _ _ ?_
    | with_reducible refine keeps_foldl_fst ?_ _ _ ?_
    | fail_if_no_progress with_reducible apply keeps_mk
    | (intro _)
    | dsimp only

theorem keeps_quoteGo {s0 : State} (v : Word) (s : State) (hk : Keeps s0 s) : Keeps s0 (State.quoteGo s v) := by
  unfold State.quoteGo
  repeat' first
    | with_reducible assumption
    | with_reducible apply keeps_ite
    | split
    | with_reducible apply keeps_setFld
    | with_reducible apply keeps_setBit
    | with_reducible apply keeps_signIdentity
    | with_reducible apply keeps_setRegBytes

theorem keeps_execDebug {s0 : State} (cmd : List Byte) (s : State) (hk : Keeps s0 s) : KeepsNext s0 (execDebug cmd s) := by
  unfold execDebug
  repeat' first
    | with_reducible assumption
    | with_reducible apply keeps_ite
    | split
    | with_reducible apply keeps_cmdDebug
    | with_reducible apply keepsNext

theorem keeps_execDebugDurationExpire {s0 : State} (s : State) (hk : Keeps s0 s) : KeepsNext s0 (execDebugDurationExpire s) := by
  unfold execDebugDurationExpire
  repeat' first
    | with_reducible assumption
    | with_reducible apply keeps_ite
    | split
    | with_reducible apply keeps_durationEnd
    | with_reducible apply keepsNext

theorem keeps_execDebugLevelWrite {s0 : State} (v : Word) (s : State) (hk : Keeps s0 s) : KeepsNext s0 (execDebugLevelWrite v s) := by
  unfold execDebugLevelWrite
  repeat' first
    | with_reducible assumption
    | with_reducible apply keeps_ite
    | split
    | with_reducible apply keeps_levelWrite
    | with_reducible apply keepsNext

theorem keeps_execExtend {s0 : State} (v : Word) (s : State) (hk : Keeps s0 s) : KeepsNext s0 (execExtend v s) := by
  unfold execExtend
  repeat' first
    | with_reducible assumption
    | with_reducible apply keeps_ite
    | split
    | with_reducible apply keeps_extendWrite
    | with_reducible apply keepsNext

theorem keeps_execLcAdvance {s0 : State} (cmd : List Byte) (s : State) (hk : Keeps s0 s) : KeepsNext s0 (execLcAdvance cmd s) := by
  unfold execLcAdvance
  repeat' first
    | with_reducible assumption
    | with_reducible apply keeps_ite
    | split
    | with_reducible apply keeps_cmdLc
    | with_reducible apply keepsNext

theorem keeps_execNonceNew {s0 : State} (s : State) (hk : Keeps s0 s) : KeepsNext s0 (execNonceNew s) := by
  unfold execNonceNew
  repeat' first
    | with_reducible assumption
    | with_reducible apply keeps_ite
    | split
    | with_reducible apply keeps_nonceNew
    | with_reducible apply keepsNext

theorem keeps_execOwnerKey {s0 : State} (cmd : List Byte) (s : State) (hk : Keeps s0 s) : KeepsNext s0 (execOwnerKey cmd s) := by
  unfold execOwnerKey
  repeat' first
    | with_reducible assumption
    | with_reducible apply keeps_ite
    | split
    | with_reducible apply keeps_cmdOwner
    | with_reducible apply keepsNext

theorem keeps_execQuoteGo {s0 : State} (v : Word) (s : State) (hk : Keeps s0 s) : KeepsNext s0 (execQuoteGo v s) := by
  unfold execQuoteGo
  repeat' first
    | with_reducible assumption
    | with_reducible apply keeps_ite
    | split
    | with_reducible apply keeps_quoteGo
    | with_reducible apply keepsNext

theorem keeps_execSignedCommandBadOp {s0 : State} (cmd : List Byte) (s : State) (hk : Keeps s0 s) : KeepsNext s0 (execSignedCommandBadOp cmd s) := by
  unfold execSignedCommandBadOp
  repeat' first
    | with_reducible assumption
    | with_reducible apply keeps_ite
    | split
    | with_reducible apply keeps_cmdBadOp
    | with_reducible apply keepsNext

theorem keeps_execSvnMin {s0 : State} (cmd : List Byte) (s : State) (hk : Keeps s0 s) : KeepsNext s0 (execSvnMin cmd s) := by
  unfold execSvnMin
  repeat' first
    | with_reducible assumption
    | with_reducible apply keeps_ite
    | split
    | with_reducible apply keeps_cmdSvn
    | with_reducible apply keepsNext

theorem keeps_execVendorRevoke {s0 : State} (cmd : List Byte) (s : State) (hk : Keeps s0 s) : KeepsNext s0 (execVendorRevoke cmd s) := by
  unfold execVendorRevoke
  repeat' first
    | with_reducible assumption
    | with_reducible apply keeps_ite
    | split
    | with_reducible apply keeps_cmdRevoke
    | with_reducible apply keepsNext

end Sys2Proof.Machine
end

