-- ==== Sys2Proof/Laws/Keeps/Flash.lean ====
section
/-! SUPPORT. What the operations of Machine/Flash.lean keep. -/

namespace Sys2Proof.Machine

theorem keeps_blockFail {s0 : State} (block : Nat) (s : State) (hk : Keeps s0 s) : Keeps s0 (State.blockFail s block) := by
  unfold State.blockFail
  repeat' first
    | with_reducible assumption
    | with_reducible apply keeps_ite
    | split
    | with_reducible apply keeps_raise
    | with_reducible refine keeps_foldl ?_ _ _ ?_
    | with_reducible refine keeps_foldl_fst ?_ _ _ ?_
    | fail_if_no_progress with_reducible apply keeps_mk

theorem keeps_eraseDone {s0 : State} (block : Nat) (s : State) (hk : Keeps s0 s) : Keeps s0 (State.eraseDone s block) := by
  unfold State.eraseDone
  repeat' first
    | with_reducible assumption
    | with_reducible apply keeps_ite
    | split
    | with_reducible refine keeps_foldl ?_ _ _ ?_
    | with_reducible refine keeps_foldl_fst ?_ _ _ ?_
    | fail_if_no_progress with_reducible apply keeps_mk

theorem keeps_eraseSuspend {s0 : State} (block : Nat) (s : State) (hk : Keeps s0 s) : Keeps s0 (State.eraseSuspend s block) := by
  unfold State.eraseSuspend
  repeat' first
    | with_reducible assumption
    | with_reducible apply keeps_ite
    | split
    | with_reducible apply keeps_count
    | with_reducible refine keeps_foldl ?_ _ _ ?_
    | with_reducible refine keeps_foldl_fst ?_ _ _ ?_
    | fail_if_no_progress with_reducible apply keeps_mk

theorem keeps_flashJob {s0 : State} (j : FlashJob) (s : State) (hk : Keeps s0 s) : Keeps s0 (State.flashJob s j) := by
  unfold State.flashJob
  repeat' first
    | with_reducible assumption
    | with_reducible apply keeps_ite
    | split
    | with_reducible refine keeps_foldl ?_ _ _ ?_
    | with_reducible refine keeps_foldl_fst ?_ _ _ ?_
    | fail_if_no_progress with_reducible apply keeps_mk

theorem keeps_flashDone {s0 : State} (s : State) (hk : Keeps s0 s) : Keeps s0 (State.flashDone s) := by
  unfold State.flashDone
  repeat' first
    | with_reducible assumption
    | with_reducible apply keeps_ite
    | split
    | with_reducible apply keeps_flashJob
    | with_reducible refine keeps_foldl ?_ _ _ ?_
    | with_reducible refine keeps_foldl_fst ?_ _ _ ?_
    | fail_if_no_progress with_reducible apply keeps_mk

theorem keeps_flashAll {s0 : State} (l1 : Nat) (s : State) (hk : Keeps s0 s) : Keeps s0 (State.flashAll s l1) := by
  induction l1 generalizing s with
  | zero =>
    unfold State.flashAll
    repeat' first
      | with_reducible assumption
  | succ n ih =>
    unfold State.flashAll
    repeat' first
      | with_reducible assumption
      | with_reducible apply ih
      | with_reducible apply keeps_ite
      | split
      | with_reducible apply keeps_flashDone

theorem keeps_queueFlash {s0 : State} (j : FlashJob) (s : State) (hk : Keeps s0 s) : Keeps s0 (State.queueFlash s j) := by
  unfold State.queueFlash
  repeat' first
    | with_reducible assumption
    | with_reducible apply keeps_ite
    | split
    | with_reducible refine keeps_foldl ?_ _ _ ?_
    | with_reducible refine keeps_foldl_fst ?_ _ _ ?_
    | fail_if_no_progress with_reducible apply keeps_mk

theorem keeps_takeSample {s0 : State} (comp : Nat) (cause : Nat) (core : List Byte) (data : List Byte) (records : List Byte) (s : State) (hk : Keeps s0 s) : Keeps s0 (State.takeSample s comp cause core data records) := by
  unfold State.takeSample
  repeat' first
    | with_reducible assumption
    | with_reducible apply keeps_ite
    | split
    | with_reducible apply keeps_writeDev
    | with_reducible apply keeps_queueFlash
    | with_reducible apply keeps_setBit
    | with_reducible apply keeps_raise
    | with_reducible refine keeps_foldl ?_ _ _ ?_
    | with_reducible refine keeps_foldl_fst ?_ _ _ ?_
    | fail_if_no_progress with_reducible apply keeps_mk

theorem keeps_execFlashBlockFail {s0 : State} (block : Nat) (s : State) (hk : Keeps s0 s) : KeepsNext s0 (execFlashBlockFail block s) := by
  unfold execFlashBlockFail
  repeat' first
    | with_reducible assumption
    | with_reducible apply keeps_ite
    | split
    | with_reducible apply keeps_blockFail
    | with_reducible apply keepsNext

theorem keeps_execFlashEraseSuspend {s0 : State} (block : Nat) (s : State) (hk : Keeps s0 s) : KeepsNext s0 (execFlashEraseSuspend block s) := by
  unfold execFlashEraseSuspend
  repeat' first
    | with_reducible assumption
    | with_reducible apply keeps_ite
    | split
    | with_reducible apply keeps_eraseSuspend
    | with_reducible apply keepsNext

theorem keeps_execLogFlashEraseDone {s0 : State} (block : Nat) (s : State) (hk : Keeps s0 s) : KeepsNext s0 (execLogFlashEraseDone block s) := by
  unfold execLogFlashEraseDone
  repeat' first
    | with_reducible assumption
    | with_reducible apply keeps_ite
    | split
    | with_reducible apply keeps_eraseDone
    | with_reducible apply keepsNext

theorem keeps_execLogFlashWriteDone {s0 : State} (s : State) (hk : Keeps s0 s) : KeepsNext s0 (execLogFlashWriteDone s) := by
  unfold execLogFlashWriteDone
  repeat' first
    | with_reducible assumption
    | with_reducible apply keeps_ite
    | split
    | with_reducible apply keeps_flashDone
    | with_reducible apply keepsNext

end Sys2Proof.Machine
end

