-- ==== Sys2Proof/Laws/Keeps/Boundary.lean ====
section
/-! SUPPORT. What the operations of Machine/Boundary.lean keep. -/

namespace Sys2Proof.Machine

theorem keeps_applyUpJob {s0 : State} (slot : Nat) (s : State) (hk : Keeps s0 s) : Keeps s0 (State.applyUpJob s slot) := by
  unfold State.applyUpJob
  repeat' first
    | with_reducible assumption
    | with_reducible apply keeps_ite
    | split
    | with_reducible apply keeps_applyPending
    | with_reducible refine keeps_foldl ?_ _ _ ?_
    | with_reducible refine keeps_foldl_fst ?_ _ _ ?_
    | fail_if_no_progress with_reducible apply keeps_mk
    | (intro _)

theorem keeps_clearTaps {s0 : State} (slot : Nat) (s : State) (hk : Keeps s0 s) : Keeps s0 (State.clearTaps s slot) := by
  unfold State.clearTaps
  repeat' first
    | with_reducible assumption
    | with_reducible apply keeps_ite
    | split
    | with_reducible apply keeps_setBit
    | with_reducible refine keeps_foldl ?_ _ _ ?_
    | with_reducible refine keeps_foldl_fst ?_ _ _ ?_
    | fail_if_no_progress with_reducible apply keeps_mk
    | (intro _)

theorem keeps_placeGuests {s0 : State} (slot : Nat) (s : State) (hk : Keeps s0 s) : Keeps s0 (State.placeGuests s slot) := by
  unfold State.placeGuests
  repeat' first
    | with_reducible assumption
    | with_reducible apply keeps_ite
    | split
    | with_reducible apply keeps_handOwner
    | with_reducible apply keeps_setFld
    | with_reducible refine keeps_foldl ?_ _ _ ?_
    | with_reducible refine keeps_foldl_fst ?_ _ _ ?_
    | fail_if_no_progress with_reducible apply keeps_mk
    | (intro _)
    | dsimp only

theorem keeps_formGroup {s0 : State} (j : Nat) (s : State) (hk : Keeps s0 s) : Keeps s0 (State.formGroup s j) := by
  unfold State.formGroup
  repeat' first
    | with_reducible assumption
    | with_reducible apply keeps_ite
    | split
    | with_reducible apply keeps_setEpochSt
    | with_reducible apply keeps_setFld
    | with_reducible apply keeps_wr

theorem keeps_declWrite {s0 : State} (e : Nat × Word) (s : State) (hk : Keeps s0 s) : Keeps s0 (State.declWrite s e) := by
  unfold State.declWrite
  repeat' first
    | with_reducible assumption
    | with_reducible apply keeps_ite
    | split
    | with_reducible apply keeps_handOwner
    | with_reducible apply keeps_plaitOpen
    | with_reducible apply keeps_regStore
    | with_reducible apply keeps_applyPending
    | with_reducible apply keeps_formGroup
    | with_reducible refine keeps_foldl ?_ _ _ ?_
    | with_reducible refine keeps_foldl_fst ?_ _ _ ?_
    | fail_if_no_progress with_reducible apply keeps_mk

theorem keeps_declRec {s0 : State} (l1 : DeclRec) (s : State) (hk : Keeps s0 s) : Keeps s0 (State.declRec s l1) := by
  unfold State.declRec
  repeat' first
    | with_reducible assumption
    | with_reducible apply keeps_ite
    | split
    | with_reducible apply keeps_declWrite
    | with_reducible apply keeps_writeDev
    | with_reducible refine keeps_foldl ?_ _ _ ?_
    | with_reducible refine keeps_foldl_fst ?_ _ _ ?_
    | fail_if_no_progress with_reducible apply keeps_mk
    | (intro _)

theorem keeps_declApply {s0 : State} (slot : Nat) (l : List DeclRec) (s : State) (hk : Keeps s0 s) : Keeps s0 (State.declApply s slot l) := by
  unfold State.declApply
  repeat' first
    | with_reducible assumption
    | with_reducible apply keeps_ite
    | split
    | with_reducible apply keeps_placeGuests
    | with_reducible apply keeps_declRec
    | with_reducible refine keeps_foldl ?_ _ _ ?_
    | with_reducible refine keeps_foldl_fst ?_ _ _ ?_
    | fail_if_no_progress with_reducible apply keeps_mk
    | (intro _)

theorem keeps_drainFirst {s0 : State} (slot : Nat) (s : State) (hk : Keeps s0 s) : Keeps s0 (State.drainFirst s slot) := by
  unfold State.drainFirst
  repeat' first
    | with_reducible assumption
    | with_reducible apply keeps_ite
    | split
    | with_reducible apply keeps_prospectHandover
    | with_reducible apply keeps_moveEntries
    | with_reducible apply keeps_zeroTokens
    | with_reducible apply keeps_setJob

theorem keeps_rotate {s0 : State} (m : Nat) (failed : Bool) (s : State) (hk : Keeps s0 s) : Keeps s0 (State.rotate s m failed) := by
  unfold State.rotate
  repeat' first
    | with_reducible assumption
    | with_reducible apply keeps_ite
    | split
    | with_reducible apply keeps_count
    | with_reducible apply keeps_setCore
    | with_reducible apply keeps_setCorePhase
    | with_reducible apply keeps_setBit
    | with_reducible apply keeps_raise
    | with_reducible apply keeps_fenceCore
    | with_reducible refine keeps_foldl ?_ _ _ ?_
    | with_reducible refine keeps_foldl_fst ?_ _ _ ?_
    | fail_if_no_progress with_reducible apply keeps_mk
    | (intro _)
    | dsimp only

theorem keeps_rotateHome {s0 : State} (slot : Nat) (failed : List Nat) (s : State) (hk : Keeps s0 s) : Keeps s0 (State.rotateHome s slot failed) := by
  unfold State.rotateHome
  repeat' first
    | with_reducible assumption
    | with_reducible apply keeps_ite
    | split
    | with_reducible apply keeps_rotate
    | with_reducible refine keeps_foldl ?_ _ _ ?_
    | with_reducible refine keeps_foldl_fst ?_ _ _ ?_
    | fail_if_no_progress with_reducible apply keeps_mk
    | (intro _)

theorem keeps_drainTen {s0 : State} (slot : Nat) (banks : List Nat) (failed : List Nat) (s : State) (hk : Keeps s0 s) : Keeps s0 (State.drainTen s slot banks failed) := by
  unfold State.drainTen
  repeat' first
    | with_reducible assumption
    | with_reducible apply keeps_ite
    | split
    | with_reducible apply keeps_applyUpJob
    | with_reducible apply keeps_applyPendings
    | with_reducible apply keeps_declApply
    | with_reducible apply keeps_endCapsulesOf
    | with_reducible apply keeps_setJob
    | with_reducible apply keeps_poolBanks
    | with_reducible apply keeps_rotateHome
    | with_reducible apply keeps_takeSlice
    | with_reducible apply keeps_setSlot

theorem keeps_drainLast {s0 : State} (slot : Nat) (banks : List Nat) (failed : List Nat) (host : List Host.Cell) (loads : List ShardLoad) (s : State) (hk : Keeps s0 s) : Keeps s0 (State.drainLast s slot banks failed host loads) := by
  unfold State.drainLast
  repeat' first
    | with_reducible assumption
    | with_reducible apply keeps_ite
    | split
    | with_reducible apply keeps_releaseGathers
    | with_reducible apply keeps_haulBoundary
    | with_reducible apply keeps_dropGradients
    | with_reducible apply keeps_releaseRows
    | with_reducible apply keeps_drainTen
    | with_reducible apply keeps_wr
    | with_reducible apply keeps_stepRecord
    | with_reducible apply keeps_clearTaps
    | with_reducible apply keeps_setFld
    | with_reducible apply keeps_setJob
    | with_reducible apply keeps_setSlot
    | with_reducible apply keeps_stepRecords
    | with_reducible apply keeps_cancelProspect
    | with_reducible apply keeps_nextStep
    | with_reducible apply keeps_leasesProceed
    | with_reducible refine keeps_foldl ?_ _ _ ?_
    | with_reducible refine keeps_foldl_fst ?_ _ _ ?_
    | fail_if_no_progress with_reducible apply keeps_mk

theorem keeps_drain {s0 : State} (slot : Nat) (banks : List Nat) (failed : List Nat) (host : List Host.Cell) (loads : List ShardLoad) (s : State) (hk : Keeps s0 s) : Keeps s0 (State.drain s slot banks failed host loads) := by
  unfold State.drain
  repeat' first
    | with_reducible assumption
    | with_reducible apply keeps_ite
    | split
    | with_reducible apply keeps_drainFirst
    | with_reducible apply keeps_epochBegin
    | with_reducible apply keeps_drainLast

theorem keeps_idleRotate {s0 : State} (m : Nat) (failed : Bool) (s : State) (hk : Keeps s0 s) : Keeps s0 (State.idleRotate s m failed) := by
  unfold State.idleRotate
  repeat' first
    | with_reducible assumption
    | with_reducible apply keeps_ite
    | split
    | with_reducible apply keeps_rotate

theorem keeps_stepHang {s0 : State} (slot : Nat) (s : State) (hk : Keeps s0 s) : Keeps s0 (State.stepHang s slot) := by
  unfold State.stepHang
  repeat' first
    | with_reducible assumption
    | with_reducible apply keeps_ite
    | split
    | with_reducible apply keeps_raise
    | with_reducible apply keeps_leasesProceed
    | with_reducible apply keeps_stopWith
    | with_reducible apply keeps_moveEntries

theorem keeps_execDrainQuiesced {s0 : State} (slot : Nat) (banks : List Nat) (failed : List Nat) (host : List Host.Cell) (loads : List (Nat × Nat × Nat × Nat)) (s : State) (hk : Keeps s0 s) : KeepsNext s0 (execDrainQuiesced slot banks failed host loads s) := by
  unfold execDrainQuiesced
  repeat' first
    | with_reducible assumption
    | with_reducible apply keeps_ite
    | split
    | with_reducible apply keeps_drain
    | with_reducible apply keepsNext

theorem keeps_execIdleCoreRotation {s0 : State} (motif : Nat) (failed : Bool) (s : State) (hk : Keeps s0 s) : KeepsNext s0 (execIdleCoreRotation motif failed s) := by
  unfold execIdleCoreRotation
  repeat' first
    | with_reducible assumption
    | with_reducible apply keeps_ite
    | split
    | with_reducible apply keeps_idleRotate
    | with_reducible apply keepsNext

theorem keeps_execStepHang {s0 : State} (slot : Nat) (s : State) (hk : Keeps s0 s) : KeepsNext s0 (execStepHang slot s) := by
  unfold execStepHang
  repeat' first
    | with_reducible assumption
    | with_reducible apply keeps_ite
    | split
    | with_reducible apply keeps_stepHang
    | with_reducible apply keepsNext

end Sys2Proof.Machine
end

