-- ==== Sys2Proof/Laws/Keeps/Bringup.lean ====
section
/-! SUPPORT. What the operations of Machine/Bringup.lean keep. -/

namespace Sys2Proof.Machine

theorem keeps_afterReset {s0 : State} (keep : Nat → Bool) (p : PowerSt) (s : State) (hk : Keeps s0 s) : Keeps s0 (State.afterReset s keep p) := by
  unfold State.afterReset
  exact ⟨hk.queue, fun _ => memory_wf_reset, hk.fuses⟩

theorem keeps_keepEpoch {s0 : State} (n : Nat) (s : State) (hk : Keeps s0 s) : Keeps s0 (State.keepEpoch s n) := by
  unfold State.keepEpoch
  repeat' first
    | with_reducible assumption
    | with_reducible apply keeps_ite
    | split
    | with_reducible apply keeps_setFld

theorem keeps_atS0 {s0 : State} (s : State) (hk : Keeps s0 s) : Keeps s0 (State.atS0 s) := by
  unfold State.atS0
  repeat' first
    | with_reducible assumption
    | with_reducible apply keeps_ite
    | split
    | with_reducible apply keeps_keepEpoch
    | with_reducible apply keeps_afterReset

theorem keeps_carried {s0 : State} (s : State) (hk : Keeps s0 s) : Keeps s0 (State.carried s) := by
  unfold State.carried
  repeat' first
    | with_reducible assumption
    | with_reducible apply keeps_ite
    | split
    | with_reducible apply keeps_raise
    | with_reducible refine keeps_foldl ?_ _ _ ?_
    | with_reducible refine keeps_foldl_fst ?_ _ _ ?_
    | fail_if_no_progress with_reducible apply keeps_mk

theorem keeps_enterStage {s0 : State} (n : Nat) (s : State) (hk : Keeps s0 s) : Keeps s0 (State.enterStage s n) := by
  unfold State.enterStage
  repeat' first
    | with_reducible assumption
    | with_reducible apply keeps_ite
    | split
    | with_reducible apply keeps_raise
    | with_reducible apply keeps_wr
    | with_reducible apply keeps_setFld

theorem keeps_startImage {s0 : State} (l : List Byte) (from_ : Nat) (s : State) (hk : Keeps s0 s) : Keeps s0 (State.startImage s l from_) := by
  unfold State.startImage
  repeat' first
    | with_reducible assumption
    | with_reducible apply keeps_ite
    | split
    | with_reducible apply keeps_extendMeas
    | with_reducible apply keeps_wr
    | with_reducible apply keeps_setBit
    | with_reducible apply keeps_setFld
    | with_reducible apply keeps_carried
    | with_reducible apply keeps_enterStage
    | with_reducible apply keeps_setStatus
    | with_reducible refine keeps_foldl ?_ _ _ ?_
    | with_reducible refine keeps_foldl_fst ?_ _ _ ?_
    | fail_if_no_progress with_reducible apply keeps_mk
    | (intro _)

theorem keeps_bootFlash {s0 : State} (s : State) (hk : Keeps s0 s) : Keeps s0 (State.bootFlash s).1 := by
  unfold State.bootFlash
  repeat' first
    | with_reducible assumption
    | with_reducible apply keeps_ite
    | split
    | with_reducible apply keeps_startImage
    | with_reducible apply keeps_setFld
    | with_reducible refine keeps_foldl ?_ _ _ ?_
    | with_reducible refine keeps_foldl_fst ?_ _ _ ?_
    | fail_if_no_progress with_reducible apply keeps_mk
    | (intro _)
    | dsimp only

theorem keeps_powerOff {s0 : State} (s : State) (hk : Keeps s0 s) : Keeps s0 (State.powerOff s) := by
  unfold State.powerOff
  repeat' first
    | with_reducible assumption
    | with_reducible apply keeps_ite
    | split
    | with_reducible apply keeps_afterReset

theorem keeps_lastWrite {s0 : State} (cause : Nat) (s : State) (hk : Keeps s0 s) : Keeps s0 (State.lastWrite s cause) := by
  unfold State.lastWrite
  repeat' first
    | with_reducible assumption
    | with_reducible apply keeps_ite
    | split
    | with_reducible apply keeps_flashDone
    | with_reducible refine keeps_foldl ?_ _ _ ?_
    | with_reducible refine keeps_foldl_fst ?_ _ _ ?_
    | fail_if_no_progress with_reducible apply keeps_mk

theorem keeps_lose {s0 : State} (cause : Nat) (s : State) (hk : Keeps s0 s) : Keeps s0 (State.lose s cause) := by
  unfold State.lose
  repeat' first
    | with_reducible assumption
    | with_reducible apply keeps_ite
    | split
    | with_reducible apply keeps_powerOff
    | with_reducible apply keeps_lastWrite

theorem keeps_breaker {s0 : State} (s : State) (hk : Keeps s0 s) : Keeps s0 (State.breaker s) := by
  unfold State.breaker
  repeat' first
    | with_reducible assumption
    | with_reducible apply keeps_ite
    | split
    | with_reducible apply keeps_lose

theorem keeps_loadLc {s0 : State} (s : State) (hk : Keeps s0 s) : Keeps s0 (State.loadLc s) := by
  unfold State.loadLc
  repeat' first
    | with_reducible assumption
    | with_reducible apply keeps_ite
    | split
    | with_reducible apply keeps_wr

theorem keeps_loadIdentity {s0 : State} (s : State) (hk : Keeps s0 s) : Keeps s0 (State.loadIdentity s) := by
  unfold State.loadIdentity
  apply keeps_mk
  refine keeps_setRegBytes _ _ _ _ (keeps_setRegBytes _ _ _ _ ?_)
  split
  · exact hk
  · rename_i h
    have e : (s.drawBytes 32).2.otp = s.otp := rfl
    exact keeps_otp (keeps_drawBytes _ _ hk) ⟨Nat.le_refl _, List.prefix_refl _, List.prefix_refl _, Nat.le_refl _, Nat.le_refl _, Nat.le_refl _,
      fun k => absurd (e ▸ k) (by simpa using h)⟩

theorem keeps_enterS1 {s0 : State} (s : State) (hk : Keeps s0 s) : Keeps s0 (State.enterS1 s) := by
  unfold State.enterS1
  repeat' first
    | with_reducible assumption
    | with_reducible apply keeps_ite
    | split
    | with_reducible apply keeps_loadLc
    | with_reducible apply keeps_enterStage
    | with_reducible apply keeps_newNonce
    | with_reducible apply keeps_deriveSr
    | with_reducible apply keeps_loadIdentity
    | with_reducible apply keeps_extendMeas
    | with_reducible refine keeps_foldl ?_ _ _ ?_
    | with_reducible refine keeps_foldl_fst ?_ _ _ ?_
    | fail_if_no_progress with_reducible apply keeps_mk

theorem keeps_tryS1 {s0 : State} (cold : Bool) (s : State) (hk : Keeps s0 s) : Keeps s0 (State.tryS1 s cold) := by
  unfold State.tryS1
  repeat' first
    | with_reducible assumption
    | with_reducible apply keeps_ite
    | split
    | with_reducible apply keeps_enterS1
    | with_reducible refine keeps_foldl ?_ _ _ ?_
    | with_reducible refine keeps_foldl_fst ?_ _ _ ?_
    | fail_if_no_progress with_reducible apply keeps_mk

theorem keeps_coldEnd {s0 : State} (s : State) (hk : Keeps s0 s) : Keeps s0 (State.coldEnd s) := by
  unfold State.coldEnd
  repeat' first
    | with_reducible assumption
    | with_reducible apply keeps_ite
    | split
    | with_reducible apply keeps_tryS1
    | with_reducible refine keeps_foldl ?_ _ _ ?_
    | with_reducible refine keeps_foldl_fst ?_ _ _ ?_
    | fail_if_no_progress with_reducible apply keeps_mk

theorem keeps_cooldownEnd {s0 : State} (s : State) (hk : Keeps s0 s) : Keeps s0 (State.cooldownEnd s) := by
  unfold State.cooldownEnd
  repeat' first
    | with_reducible assumption
    | with_reducible apply keeps_ite
    | split
    | with_reducible apply keeps_atS0
    | with_reducible refine keeps_foldl ?_ _ _ ?_
    | with_reducible refine keeps_foldl_fst ?_ _ _ ?_
    | fail_if_no_progress with_reducible apply keeps_mk

theorem keeps_sendDhcp {s0 : State} (s : State) (hk : Keeps s0 s) : Keeps s0 (State.sendDhcp s) := by
  unfold State.sendDhcp
  repeat' first
    | with_reducible assumption
    | with_reducible apply keeps_ite
    | split
    | with_reducible apply keeps_drawBytes
    | with_reducible refine keeps_foldl ?_ _ _ ?_
    | with_reducible refine keeps_foldl_fst ?_ _ _ ?_
    | fail_if_no_progress with_reducible apply keeps_mk

theorem keeps_nextSource {s0 : State} (l1 : Nat) (s : State) (hk : Keeps s0 s) : Keeps s0 (State.nextSource s l1) := by
  induction l1 generalizing s with
  | zero =>
    unfold State.nextSource
    repeat' first
      | with_reducible assumption
  | succ n ih =>
    unfold State.nextSource
    repeat' first
      | with_reducible assumption
      | with_reducible apply ih
      | with_reducible apply keeps_ite
      | split
      | with_reducible apply keeps_sendDhcp
      | with_reducible apply keeps_bootFlash
      | with_reducible refine keeps_foldl ?_ _ _ ?_
      | with_reducible refine keeps_foldl_fst ?_ _ _ ?_
      | fail_if_no_progress with_reducible apply keeps_mk

theorem keeps_dhcpRetry {s0 : State} (s : State) (hk : Keeps s0 s) : Keeps s0 (State.dhcpRetry s) := by
  unfold State.dhcpRetry
  repeat' first
    | with_reducible assumption
    | with_reducible apply keeps_ite
    | split
    | with_reducible apply keeps_nextSource
    | with_reducible apply keeps_sendDhcp
    | with_reducible refine keeps_foldl ?_ _ _ ?_
    | with_reducible refine keeps_foldl_fst ?_ _ _ ?_
    | fail_if_no_progress with_reducible apply keeps_mk

theorem keeps_enterS3 {s0 : State} (s : State) (hk : Keeps s0 s) : Keeps s0 (State.enterS3 s) := by
  unfold State.enterS3
  repeat' first
    | with_reducible assumption
    | with_reducible apply keeps_ite
    | split
    | with_reducible apply keeps_enterStage
    | with_reducible apply keeps_wr
    | with_reducible apply keeps_extendMeas
    | with_reducible refine keeps_foldl ?_ _ _ ?_
    | with_reducible refine keeps_foldl_fst ?_ _ _ ?_
    | fail_if_no_progress with_reducible apply keeps_mk
    | (intro _)

theorem keeps_marchAtRepair {s0 : State} (b : Nat) (fails : List Nat) (s : State) (hk : Keeps s0 s) : Keeps s0 (State.marchAtRepair s b fails) := by
  unfold State.marchAtRepair
  repeat' first
    | with_reducible assumption
    | with_reducible apply keeps_ite
    | split
    | with_reducible apply keeps_repairLine
    | with_reducible apply keeps_wr
    | with_reducible apply keeps_refill
    | with_reducible apply keeps_setBit
    | with_reducible refine keeps_foldl ?_ _ _ ?_
    | with_reducible refine keeps_foldl_fst ?_ _ _ ?_
    | fail_if_no_progress with_reducible apply keeps_mk
    | (intro _)

theorem keeps_overvoltage {s0 : State} (s : State) (hk : Keeps s0 s) : Keeps s0 (State.overvoltage s) := by
  unfold State.overvoltage
  repeat' first
    | with_reducible assumption
    | with_reducible apply keeps_ite
    | split
    | with_reducible apply keeps_lose

theorem keeps_testCores {s0 : State} (m : Nat) (fails : List Nat) (s : State) (hk : Keeps s0 s) : Keeps s0 (State.testCores s m fails) := by
  unfold State.testCores
  repeat' first
    | with_reducible assumption
    | with_reducible apply keeps_ite
    | split
    | with_reducible apply keeps_wr
    | with_reducible apply keeps_fenceCore
    | with_reducible refine keeps_foldl ?_ _ _ ?_
    | with_reducible refine keeps_foldl_fst ?_ _ _ ?_
    | fail_if_no_progress with_reducible apply keeps_mk
    | (intro _)

theorem keeps_repairPanel {s0 : State} (p : Nat) (f : RepairFound) (s : State) (hk : Keeps s0 s) : Keeps s0 (State.repairPanel s p f) := by
  unfold State.repairPanel
  repeat' first
    | with_reducible assumption
    | with_reducible apply keeps_ite
    | split
    | with_reducible apply keeps_setFld
    | with_reducible apply keeps_marchAtRepair
    | with_reducible apply keeps_fenceQuads
    | with_reducible apply keeps_testCores
    | with_reducible apply keeps_setBit
    | with_reducible apply keeps_raise
    | with_reducible refine keeps_foldl ?_ _ _ ?_
    | with_reducible refine keeps_foldl_fst ?_ _ _ ?_
    | fail_if_no_progress with_reducible apply keeps_mk
    | (intro _)

theorem keeps_panelRepair {s0 : State} (p : Nat) (f : RepairFound) (s : State) (hk : Keeps s0 s) : Keeps s0 (State.panelRepair s p f) := by
  unfold State.panelRepair
  repeat' first
    | with_reducible assumption
    | with_reducible apply keeps_ite
    | split
    | with_reducible apply keeps_enterS3
    | with_reducible apply keeps_repairPanel
    | with_reducible apply keeps_trainNext
    | with_reducible apply keeps_enterStage

theorem keeps_passCal {s0 : State} (quads : List (Nat × Nat)) (s : State) (hk : Keeps s0 s) : Keeps s0 (State.passCal s quads) := by
  unfold State.passCal
  repeat' first
    | with_reducible assumption
    | with_reducible apply keeps_ite
    | split
    | with_reducible apply keeps_fenceQuads
    | with_reducible apply keeps_setBit
    | with_reducible apply keeps_raise
    | with_reducible apply keeps_enterStage
    | with_reducible refine keeps_foldl ?_ _ _ ?_
    | with_reducible refine keeps_foldl_fst ?_ _ _ ?_
    | fail_if_no_progress with_reducible apply keeps_mk
    | (intro _)

theorem keeps_strapped {s0 : State} (s : State) (hk : Keeps s0 s) : Keeps s0 (State.strapped s) := by
  unfold State.strapped
  repeat' first
    | with_reducible assumption
    | with_reducible apply keeps_ite
    | split
    | with_reducible apply keeps_setFld

theorem keeps_perstAssert {s0 : State} (s : State) (hk : Keeps s0 s) : Keeps s0 (State.perstAssert s) := by
  unfold State.perstAssert
  repeat' first
    | with_reducible assumption
    | with_reducible apply keeps_ite
    | split
    | with_reducible apply keeps_lastWrite
    | with_reducible apply keeps_keepEpoch
    | with_reducible apply keeps_strapped
    | with_reducible apply keeps_afterReset
    | with_reducible refine keeps_foldl ?_ _ _ ?_
    | with_reducible refine keeps_foldl_fst ?_ _ _ ?_
    | fail_if_no_progress with_reducible apply keeps_mk

theorem keeps_perstRelease {s0 : State} (cold : Bool) (hot : Bool) (s : State) (hk : Keeps s0 s) : Keeps s0 (State.perstRelease s cold hot) := by
  unfold State.perstRelease
  repeat' first
    | with_reducible assumption
    | with_reducible apply keeps_ite
    | split
    | with_reducible apply keeps_atS0
    | with_reducible apply keeps_tryS1
    | with_reducible refine keeps_foldl ?_ _ _ ?_
    | with_reducible refine keeps_foldl_fst ?_ _ _ ?_
    | fail_if_no_progress with_reducible apply keeps_mk

theorem keeps_powerFail {s0 : State} (s : State) (hk : Keeps s0 s) : Keeps s0 (State.powerFail s) := by
  unfold State.powerFail
  repeat' first
    | with_reducible assumption
    | with_reducible apply keeps_ite
    | split
    | with_reducible apply keeps_lose

theorem keeps_powerOn {s0 : State} (hot : Bool) (s : State) (hk : Keeps s0 s) : Keeps s0 (State.powerOn s hot) := by
  unfold State.powerOn
  repeat' first
    | with_reducible assumption
    | with_reducible apply keeps_ite
    | split
    | with_reducible apply keeps_setFld
    | with_reducible apply keeps_count
    | with_reducible refine keeps_foldl ?_ _ _ ?_
    | with_reducible refine keeps_foldl_fst ?_ _ _ ?_
    | fail_if_no_progress with_reducible apply keeps_mk

theorem keeps_powerRemoved {s0 : State} (s : State) (hk : Keeps s0 s) : Keeps s0 (State.powerRemoved s) := by
  unfold State.powerRemoved
  repeat' first
    | with_reducible assumption
    | with_reducible apply keeps_ite
    | split
    | with_reducible apply keeps_lose

theorem keeps_railsUp {s0 : State} (cold : Bool) (s : State) (hk : Keeps s0 s) : Keeps s0 (State.railsUp s cold) := by
  unfold State.railsUp
  repeat' first
    | with_reducible assumption
    | with_reducible apply keeps_ite
    | split
    | with_reducible apply keeps_tryS1
    | with_reducible refine keeps_foldl ?_ _ _ ?_
    | with_reducible refine keeps_foldl_fst ?_ _ _ ?_
    | fail_if_no_progress with_reducible apply keeps_mk

theorem keeps_s2Entry {s0 : State} (s : State) (hk : Keeps s0 s) : Keeps s0 (State.s2Entry s) := by
  unfold State.s2Entry
  repeat' first
    | with_reducible assumption
    | with_reducible apply keeps_ite
    | split
    | with_reducible apply keeps_nextSource
    | with_reducible refine keeps_foldl ?_ _ _ ?_
    | with_reducible refine keeps_foldl_fst ?_ _ _ ?_
    | fail_if_no_progress with_reducible apply keeps_mk

theorem keeps_strapSample {s0 : State} (slot : Nat) (src : Nat) (profile : Nat) (s : State) (hk : Keeps s0 s) : Keeps s0 (State.strapSample s slot src profile) := by
  unfold State.strapSample
  repeat' first
    | with_reducible assumption
    | with_reducible apply keeps_ite
    | split
    | with_reducible apply keeps_wr
    | with_reducible apply keeps_strapped
    | with_reducible refine keeps_foldl ?_ _ _ ?_
    | with_reducible refine keeps_foldl_fst ?_ _ _ ?_
    | fail_if_no_progress with_reducible apply keeps_mk

theorem keeps_tftpAck {s0 : State} (server : Nat) (n : Nat) (s : State) (hk : Keeps s0 s) : Keeps s0 (State.tftpAck s server n) := by
  unfold State.tftpAck
  repeat' first
    | with_reducible assumption
    | with_reducible apply keeps_ite
    | split
    | with_reducible refine keeps_foldl ?_ _ _ ?_
    | with_reducible refine keeps_foldl_fst ?_ _ _ ?_
    | fail_if_no_progress with_reducible apply keeps_mk

theorem keeps_tftpBlock {s0 : State} (server : Nat) (block : Nat) (data : List Byte) (tsize : Nat) (blksize : Nat) (s : State) (hk : Keeps s0 s) : Keeps s0 (State.tftpBlock s server block data tsize blksize) := by
  unfold State.tftpBlock
  repeat' first
    | with_reducible assumption
    | with_reducible apply keeps_ite
    | split
    | with_reducible apply keeps_nextSource
    | with_reducible apply keeps_tftpAck
    | with_reducible apply keeps_startImage
    | with_reducible apply keeps_setFld
    | with_reducible refine keeps_foldl ?_ _ _ ?_
    | with_reducible refine keeps_foldl_fst ?_ _ _ ?_
    | fail_if_no_progress with_reducible apply keeps_mk

theorem keeps_tftpTimeout {s0 : State} (server : Nat) (s : State) (hk : Keeps s0 s) : Keeps s0 (State.tftpTimeout s server) := by
  unfold State.tftpTimeout
  repeat' first
    | with_reducible assumption
    | with_reducible apply keeps_ite
    | split
    | with_reducible apply keeps_nextSource
    | with_reducible apply keeps_tftpAck
    | with_reducible refine keeps_foldl ?_ _ _ ?_
    | with_reducible refine keeps_foldl_fst ?_ _ _ ?_
    | fail_if_no_progress with_reducible apply keeps_mk

theorem keeps_thermTrip {s0 : State} (s : State) (hk : Keeps s0 s) : Keeps s0 (State.thermTrip s) := by
  unfold State.thermTrip
  repeat' first
    | with_reducible assumption
    | with_reducible apply keeps_ite
    | split
    | with_reducible apply keeps_lastWrite
    | with_reducible apply keeps_keepEpoch
    | with_reducible apply keeps_afterReset

theorem keeps_execBreakerTrip {s0 : State} (s : State) (hk : Keeps s0 s) : KeepsNext s0 (execBreakerTrip s) := by
  unfold execBreakerTrip
  repeat' first
    | with_reducible assumption
    | with_reducible apply keeps_ite
    | split
    | with_reducible apply keeps_breaker
    | with_reducible apply keepsNext

theorem keeps_execColdStartWaitEnd {s0 : State} (s : State) (hk : Keeps s0 s) : KeepsNext s0 (execColdStartWaitEnd s) := by
  unfold execColdStartWaitEnd
  repeat' first
    | with_reducible assumption
    | with_reducible apply keeps_ite
    | split
    | with_reducible apply keeps_coldEnd
    | with_reducible apply keepsNext

theorem keeps_execDhcpRetry {s0 : State} (s : State) (hk : Keeps s0 s) : KeepsNext s0 (execDhcpRetry s) := by
  unfold execDhcpRetry
  repeat' first
    | with_reducible assumption
    | with_reducible apply keeps_ite
    | split
    | with_reducible apply keeps_dhcpRetry
    | with_reducible apply keepsNext

theorem keeps_execHeadframeRailsUp {s0 : State} (cold : Bool) (s : State) (hk : Keeps s0 s) : KeepsNext s0 (execHeadframeRailsUp cold s) := by
  unfold execHeadframeRailsUp
  repeat' first
    | with_reducible assumption
    | with_reducible apply keeps_ite
    | split
    | with_reducible apply keeps_railsUp
    | with_reducible apply keepsNext

theorem keeps_execOvervoltageShutdown {s0 : State} (s : State) (hk : Keeps s0 s) : KeepsNext s0 (execOvervoltageShutdown s) := by
  unfold execOvervoltageShutdown
  repeat' first
    | with_reducible assumption
    | with_reducible apply keeps_ite
    | split
    | with_reducible apply keeps_overvoltage
    | with_reducible apply keepsNext

theorem keeps_execPanelRepair {s0 : State} (panel : Nat) (rail : Bool) (bridges : Bool) (nodes : NodeCheck) (dieLink : Bool) (lines : List (Nat × List Nat)) (quads : List (Nat × Nat)) (cores : List (Nat × List Nat)) (grounds : List Nat) (s : State) (hk : Keeps s0 s) : KeepsNext s0 (execPanelRepair panel rail bridges nodes dieLink lines quads cores grounds s) := by
  unfold execPanelRepair
  repeat' first
    | with_reducible assumption
    | with_reducible apply keeps_ite
    | split
    | with_reducible apply keeps_panelRepair
    | with_reducible apply keepsNext

theorem keeps_execPassCalibration {s0 : State} (quads : List (Nat × Nat)) (s : State) (hk : Keeps s0 s) : KeepsNext s0 (execPassCalibration quads s) := by
  unfold execPassCalibration
  repeat' first
    | with_reducible assumption
    | with_reducible apply keeps_ite
    | split
    | with_reducible apply keeps_passCal
    | with_reducible apply keepsNext

theorem keeps_execPerstAssert {s0 : State} (s : State) (hk : Keeps s0 s) : KeepsNext s0 (execPerstAssert s) := by
  unfold execPerstAssert
  repeat' first
    | with_reducible assumption
    | with_reducible apply keeps_ite
    | split
    | with_reducible apply keeps_perstAssert
    | with_reducible apply keepsNext

theorem keeps_execPerstRelease {s0 : State} (cold : Bool) (hot : Bool) (s : State) (hk : Keeps s0 s) : KeepsNext s0 (execPerstRelease cold hot s) := by
  unfold execPerstRelease
  repeat' first
    | with_reducible assumption
    | with_reducible apply keeps_ite
    | split
    | with_reducible apply keeps_perstRelease
    | with_reducible apply keepsNext

theorem keeps_execPowerFail {s0 : State} (s : State) (hk : Keeps s0 s) : KeepsNext s0 (execPowerFail s) := by
  unfold execPowerFail
  repeat' first
    | with_reducible assumption
    | with_reducible apply keeps_ite
    | split
    | with_reducible apply keeps_powerFail
    | with_reducible apply keepsNext

theorem keeps_execPowerOn {s0 : State} (hot : Bool) (s : State) (hk : Keeps s0 s) : KeepsNext s0 (execPowerOn hot s) := by
  unfold execPowerOn
  repeat' first
    | with_reducible assumption
    | with_reducible apply keeps_ite
    | split
    | with_reducible apply keeps_powerOn
    | with_reducible apply keepsNext

theorem keeps_execPowerRemoved {s0 : State} (s : State) (hk : Keeps s0 s) : KeepsNext s0 (execPowerRemoved s) := by
  unfold execPowerRemoved
  repeat' first
    | with_reducible assumption
    | with_reducible apply keeps_ite
    | split
    | with_reducible apply keeps_powerRemoved
    | with_reducible apply keepsNext

theorem keeps_execS2Entry {s0 : State} (s : State) (hk : Keeps s0 s) : KeepsNext s0 (execS2Entry s) := by
  unfold execS2Entry
  repeat' first
    | with_reducible assumption
    | with_reducible apply keeps_ite
    | split
    | with_reducible apply keeps_s2Entry
    | with_reducible apply keepsNext

theorem keeps_execStrapSample {s0 : State} (slot : Nat) (src : Nat) (profile : Nat) (s : State) (hk : Keeps s0 s) : KeepsNext s0 (execStrapSample slot src profile s) := by
  unfold execStrapSample
  repeat' first
    | with_reducible assumption
    | with_reducible apply keeps_ite
    | split
    | with_reducible apply keeps_strapSample
    | with_reducible apply keepsNext

theorem keeps_execTftpBlock {s0 : State} (server : Nat) (block : Nat) (data : List Byte) (tsize : Nat) (blksize : Nat) (s : State) (hk : Keeps s0 s) : KeepsNext s0 (execTftpBlock server block data tsize blksize s) := by
  unfold execTftpBlock
  repeat' first
    | with_reducible assumption
    | with_reducible apply keeps_ite
    | split
    | with_reducible apply keeps_tftpBlock
    | with_reducible apply keepsNext

theorem keeps_execTftpBlockTimeout {s0 : State} (server : Nat) (s : State) (hk : Keeps s0 s) : KeepsNext s0 (execTftpBlockTimeout server s) := by
  unfold execTftpBlockTimeout
  repeat' first
    | with_reducible assumption
    | with_reducible apply keeps_ite
    | split
    | with_reducible apply keeps_tftpTimeout
    | with_reducible apply keepsNext

theorem keeps_execThermTrip {s0 : State} (s : State) (hk : Keeps s0 s) : KeepsNext s0 (execThermTrip s) := by
  unfold execThermTrip
  repeat' first
    | with_reducible assumption
    | with_reducible apply keeps_ite
    | split
    | with_reducible apply keeps_thermTrip
    | with_reducible apply keepsNext

theorem keeps_execTripCooldownEnd {s0 : State} (s : State) (hk : Keeps s0 s) : KeepsNext s0 (execTripCooldownEnd s) := by
  unfold execTripCooldownEnd
  repeat' first
    | with_reducible assumption
    | with_reducible apply keeps_ite
    | split
    | with_reducible apply keeps_cooldownEnd
    | with_reducible apply keepsNext

end Sys2Proof.Machine
end

