-- ==== Sys2Proof/Laws/Keeps/FrameMac.lean ====
section
/-! SUPPORT. What the operations of Machine/FrameMac.lean keep. -/

namespace Sys2Proof.Machine

theorem keeps_checkXoff {s0 : State} (p : Nat) (q : Nat) (s : State) (hk : Keeps s0 s) : Keeps s0 (State.checkXoff s p q) := by
  unfold State.checkXoff
  repeat' first
    | with_reducible assumption
    | with_reducible apply keeps_ite
    | split
    | with_reducible apply keeps_sendPfc
    | with_reducible apply keeps_setPort

theorem keeps_showFill {s0 : State} (p : Nat) (q : Nat) (s : State) (hk : Keeps s0 s) : Keeps s0 (State.showFill s p q) := by
  unfold State.showFill
  repeat' first
    | with_reducible assumption
    | with_reducible apply keeps_ite
    | split
    | with_reducible apply keeps_setFld

theorem keeps_bufferFrame {s0 : State} (p : Nat) (q : Nat) (octets : Nat) (s : State) (hk : Keeps s0 s) : Keeps s0 (State.bufferFrame s p q octets).1 := by
  unfold State.bufferFrame
  repeat' first
    | with_reducible assumption
    | with_reducible apply keeps_ite
    | split
    | with_reducible apply keeps_count
    | with_reducible apply keeps_checkXoff
    | with_reducible apply keeps_showFill
    | with_reducible apply keeps_setPort
    | with_reducible refine keeps_foldl ?_ _ _ ?_
    | with_reducible refine keeps_foldl_fst ?_ _ _ ?_
    | fail_if_no_progress with_reducible apply keeps_mk
    | (intro _)
    | dsimp only

theorem keeps_exceptionFrame {s0 : State} (p : Nat) (asks : Bool) (s : State) (hk : Keeps s0 s) : Keeps s0 (State.exceptionFrame s p asks) := by
  unfold State.exceptionFrame
  repeat' first
    | with_reducible assumption
    | with_reducible apply keeps_ite
    | split
    | with_reducible apply keeps_count
    | with_reducible apply keeps_emit
    | with_reducible apply keeps_setPort
    | with_reducible apply keeps_queueFrame

theorem keeps_fecCount {s0 : State} (p : Nat) (f : FabFrame) (s : State) (hk : Keeps s0 s) : Keeps s0 (State.fecCount s p f) := by
  unfold State.fecCount
  repeat' first
    | with_reducible assumption
    | with_reducible apply keeps_ite
    | split
    | with_reducible apply keeps_count
    | with_reducible apply keeps_setBit

theorem keeps_linkDown {s0 : State} (p : Nat) (s : State) (hk : Keeps s0 s) : Keeps s0 (State.linkDown s p) := by
  unfold State.linkDown
  repeat' first
    | with_reducible assumption
    | with_reducible apply keeps_ite
    | split
    | with_reducible apply keeps_rspGone
    | with_reducible apply keeps_setFld
    | with_reducible apply keeps_setPort
    | with_reducible apply keeps_setStatus
    | with_reducible refine keeps_foldl ?_ _ _ ?_
    | with_reducible refine keeps_foldl_fst ?_ _ _ ?_
    | fail_if_no_progress with_reducible apply keeps_mk
    | (intro _)

theorem keeps_fmCtl {s0 : State} (p : Nat) (v : Word) (s : State) (hk : Keeps s0 s) : Keeps s0 (State.fmCtl s p v) := by
  unfold State.fmCtl
  repeat' first
    | with_reducible assumption
    | with_reducible apply keeps_ite
    | split
    | with_reducible apply keeps_setBit
    | with_reducible apply keeps_linkDown
    | with_reducible apply keeps_wr

theorem keeps_fmWrite {s0 : State} (p : Nat) (off : Nat) (v : Word) (s : State) (hk : Keeps s0 s) : Keeps s0 (State.fmWrite s p off v) := by
  unfold State.fmWrite
  repeat' first
    | with_reducible assumption
    | with_reducible apply keeps_ite
    | split
    | with_reducible apply keeps_fmCtl
    | with_reducible apply keeps_setBit
    | with_reducible apply keeps_wr

theorem keeps_pfcReceive {s0 : State} (p : Nat) (enable : Byte) (times : List Nat) (s : State) (hk : Keeps s0 s) : Keeps s0 (State.pfcReceive s p enable times) := by
  unfold State.pfcReceive
  repeat' first
    | with_reducible assumption
    | with_reducible apply keeps_ite
    | split
    | with_reducible apply keeps_kick
    | with_reducible apply keeps_count
    | with_reducible apply keeps_setPort
    | with_reducible refine keeps_foldl ?_ _ _ ?_
    | with_reducible refine keeps_foldl_fst ?_ _ _ ?_
    | fail_if_no_progress with_reducible apply keeps_mk
    | (intro _)

theorem keeps_gftEngine {s0 : State} (port : Nat) (csumOk : Bool) (k : GftPacket) (s : State) (hk : Keeps s0 s) : Keeps s0 (State.gftEngine s port csumOk k) := by
  unfold State.gftEngine
  repeat' first
    | with_reducible assumption
    | with_reducible apply keeps_ite
    | split
    | with_reducible apply keeps_count
    | with_reducible apply keeps_transmit
    | with_reducible refine keeps_foldl ?_ _ _ ?_
    | with_reducible refine keeps_foldl_fst ?_ _ _ ?_
    | fail_if_no_progress with_reducible apply keeps_mk

theorem keeps_frameReceive {s0 : State} (p : Nat) (f : FabFrame) (s : State) (hk : Keeps s0 s) : Keeps s0 (State.frameReceive s p f) := by
  unfold State.frameReceive
  repeat' first
    | with_reducible assumption
    | with_reducible apply keeps_ite
    | split
    | with_reducible apply keeps_fecCount
    | with_reducible apply keeps_count
    | with_reducible apply keeps_pfcReceive
    | with_reducible apply keeps_count64
    | with_reducible apply keeps_bufferFrame
    | with_reducible apply keeps_gftEngine
    | with_reducible apply keeps_exceptionFrame

theorem keeps_frameTxDone {s0 : State} (p : Nat) (s : State) (hk : Keeps s0 s) : Keeps s0 (State.frameTxDone s p) := by
  unfold State.frameTxDone
  repeat' first
    | with_reducible assumption
    | with_reducible apply keeps_ite
    | split
    | with_reducible apply keeps_emit
    | with_reducible apply keeps_setPort
    | with_reducible apply keeps_count64
    | with_reducible apply keeps_count
    | with_reducible apply keeps_kick
    | with_reducible apply keeps_rspGone

theorem keeps_holdEnd {s0 : State} (p : Nat) (q : Nat) (tx : Bool) (s : State) (hk : Keeps s0 s) : Keeps s0 (State.holdEnd s p q tx) := by
  unfold State.holdEnd
  repeat' first
    | with_reducible assumption
    | with_reducible apply keeps_ite
    | split
    | with_reducible apply keeps_kick
    | with_reducible apply keeps_setPort
    | with_reducible apply keeps_checkXoff

theorem keeps_linkUp {s0 : State} (p : Nat) (s : State) (hk : Keeps s0 s) : Keeps s0 (State.linkUp s p) := by
  unfold State.linkUp
  repeat' first
    | with_reducible assumption
    | with_reducible apply keeps_ite
    | split
    | with_reducible apply keeps_raise
    | with_reducible apply keeps_setFld

theorem keeps_pauseBroken {s0 : State} (p : Nat) (q : Nat) (tx : Bool) (s : State) (hk : Keeps s0 s) : Keeps s0 (State.pauseBroken s p q tx) := by
  unfold State.pauseBroken
  repeat' first
    | with_reducible assumption
    | with_reducible apply keeps_ite
    | split
    | with_reducible apply keeps_raise
    | with_reducible apply keeps_setBit

theorem keeps_rxDrain {s0 : State} (p : Nat) (q : Nat) (s : State) (hk : Keeps s0 s) : Keeps s0 (State.rxDrain s p q) := by
  unfold State.rxDrain
  repeat' first
    | with_reducible assumption
    | with_reducible apply keeps_ite
    | split
    | with_reducible apply keeps_showFill
    | with_reducible apply keeps_setPort
    | with_reducible apply keeps_sendPfc

theorem keeps_wdRx {s0 : State} (p : Nat) (q : Nat) (s : State) (hk : Keeps s0 s) : Keeps s0 (State.wdRx s p q) := by
  unfold State.wdRx
  repeat' first
    | with_reducible assumption
    | with_reducible apply keeps_ite
    | split
    | with_reducible apply keeps_pauseBroken
    | with_reducible apply keeps_setPort

theorem keeps_wdTx {s0 : State} (p : Nat) (q : Nat) (s : State) (hk : Keeps s0 s) : Keeps s0 (State.wdTx s p q) := by
  unfold State.wdTx
  repeat' first
    | with_reducible assumption
    | with_reducible apply keeps_ite
    | split
    | with_reducible apply keeps_kick
    | with_reducible apply keeps_pauseBroken
    | with_reducible apply keeps_setPort
    | with_reducible apply keeps_rspGone
    | with_reducible refine keeps_foldl ?_ _ _ ?_
    | with_reducible refine keeps_foldl_fst ?_ _ _ ?_
    | fail_if_no_progress with_reducible apply keeps_mk
    | (intro _)

theorem keeps_execFmCtlWrite {s0 : State} (port : Nat) (off : Nat) (v : Word) (s : State) (hk : Keeps s0 s) : KeepsNext s0 (execFmCtlWrite port off v s) := by
  unfold execFmCtlWrite
  repeat' first
    | with_reducible assumption
    | with_reducible apply keeps_ite
    | split
    | with_reducible apply keeps_fmWrite
    | with_reducible apply keepsNext

theorem keeps_execFrameTxDone {s0 : State} (port : Nat) (s : State) (hk : Keeps s0 s) : KeepsNext s0 (execFrameTxDone port s) := by
  unfold execFrameTxDone
  repeat' first
    | with_reducible assumption
    | with_reducible apply keeps_ite
    | split
    | with_reducible apply keeps_frameTxDone
    | with_reducible apply keepsNext

theorem keeps_execLinkDown {s0 : State} (port : Nat) (s : State) (hk : Keeps s0 s) : KeepsNext s0 (execLinkDown port s) := by
  unfold execLinkDown
  repeat' first
    | with_reducible assumption
    | with_reducible apply keeps_ite
    | split
    | with_reducible apply keeps_linkDown
    | with_reducible apply keepsNext

theorem keeps_execLinkUp {s0 : State} (port : Nat) (s : State) (hk : Keeps s0 s) : KeepsNext s0 (execLinkUp port s) := by
  unfold execLinkUp
  repeat' first
    | with_reducible assumption
    | with_reducible apply keeps_ite
    | split
    | with_reducible apply keeps_linkUp
    | with_reducible apply keepsNext

theorem keeps_execPauseHoldEnd {s0 : State} (port : Nat) (q : Nat) (tx : Bool) (s : State) (hk : Keeps s0 s) : KeepsNext s0 (execPauseHoldEnd port q tx s) := by
  unfold execPauseHoldEnd
  repeat' first
    | with_reducible assumption
    | with_reducible apply keeps_ite
    | split
    | with_reducible apply keeps_holdEnd
    | with_reducible apply keepsNext

theorem keeps_execPauseWdRxExpire {s0 : State} (port : Nat) (q : Nat) (s : State) (hk : Keeps s0 s) : KeepsNext s0 (execPauseWdRxExpire port q s) := by
  unfold execPauseWdRxExpire
  repeat' first
    | with_reducible assumption
    | with_reducible apply keeps_ite
    | split
    | with_reducible apply keeps_wdRx
    | with_reducible apply keepsNext

theorem keeps_execPauseWdTxExpire {s0 : State} (port : Nat) (q : Nat) (s : State) (hk : Keeps s0 s) : KeepsNext s0 (execPauseWdTxExpire port q s) := by
  unfold execPauseWdTxExpire
  repeat' first
    | with_reducible assumption
    | with_reducible apply keeps_ite
    | split
    | with_reducible apply keeps_wdTx
    | with_reducible apply keepsNext

theorem keeps_execPfcFrameReceive {s0 : State} (port : Nat) (enable : Byte) (times : List Nat) (s : State) (hk : Keeps s0 s) : KeepsNext s0 (execPfcFrameReceive port enable times s) := by
  unfold execPfcFrameReceive
  repeat' first
    | with_reducible assumption
    | with_reducible apply keeps_ite
    | split
    | with_reducible apply keeps_pfcReceive
    | with_reducible apply keepsNext

theorem keeps_execPfcPauseExpire {s0 : State} (port : Nat) (q : Nat) (s : State) (hk : Keeps s0 s) : KeepsNext s0 (execPfcPauseExpire port q s) := by
  unfold execPfcPauseExpire
  repeat' first
    | with_reducible assumption
    | with_reducible apply keeps_ite
    | split
    | with_reducible apply keeps_kick
    | with_reducible apply keeps_setPort
    | with_reducible apply keepsNext

theorem keeps_execPfcRefresh {s0 : State} (port : Nat) (q : Nat) (s : State) (hk : Keeps s0 s) : KeepsNext s0 (execPfcRefresh port q s) := by
  unfold execPfcRefresh
  repeat' first
    | with_reducible assumption
    | with_reducible apply keeps_ite
    | split
    | with_reducible apply keeps_sendPfc
    | with_reducible apply keepsNext

theorem keeps_execRxBufferDrain {s0 : State} (port : Nat) (q : Nat) (s : State) (hk : Keeps s0 s) : KeepsNext s0 (execRxBufferDrain port q s) := by
  unfold execRxBufferDrain
  repeat' first
    | with_reducible assumption
    | with_reducible apply keeps_ite
    | split
    | with_reducible apply keeps_rxDrain
    | with_reducible apply keepsNext

end Sys2Proof.Machine
end

