-- ==== Sys2Proof/Laws/Keeps/Power.lean ====
section
/-! SUPPORT. What the operations of Machine/Power.lean keep. -/

namespace Sys2Proof.Machine

theorem keeps_refusePower {s0 : State} (reason : Nat) (s : State) (hk : Keeps s0 s) : Keeps s0 (State.refusePower s reason) := by
  unfold State.refusePower
  repeat' first
    | with_reducible assumption
    | with_reducible apply keeps_ite
    | split
    | with_reducible apply keeps_setFld
    | with_reducible apply keeps_setBit

theorem keeps_noteState {s0 : State} (s : State) (hk : Keeps s0 s) : Keeps s0 (State.noteState s) := by
  unfold State.noteState
  repeat' first
    | with_reducible assumption
    | with_reducible apply keeps_ite
    | split
    | with_reducible apply keeps_raise

theorem keeps_setCurrent {s0 : State} (c : Nat) (s : State) (hk : Keeps s0 s) : Keeps s0 (State.setCurrent s c) := by
  unfold State.setCurrent
  repeat' first
    | with_reducible assumption
    | with_reducible apply keeps_ite
    | split
    | with_reducible apply keeps_noteState
    | with_reducible apply keeps_setFld

theorem keeps_leanDone {s0 : State} (s : State) (hk : Keeps s0 s) : Keeps s0 (State.leanDone s) := by
  unfold State.leanDone
  repeat' first
    | with_reducible assumption
    | with_reducible apply keeps_ite
    | split
    | with_reducible apply keeps_setCurrent
    | with_reducible apply keeps_setBit

theorem keeps_beginLean {s0 : State} (s : State) (hk : Keeps s0 s) : Keeps s0 (State.beginLean s) := by
  unfold State.beginLean
  repeat' first
    | with_reducible assumption
    | with_reducible apply keeps_ite
    | split
    | with_reducible apply keeps_refusePower
    | with_reducible apply keeps_leanDone
    | with_reducible apply keeps_setBit

theorem keeps_beginStandby {s0 : State} (s : State) (hk : Keeps s0 s) : Keeps s0 (State.beginStandby s) := by
  unfold State.beginStandby
  repeat' first
    | with_reducible assumption
    | with_reducible apply keeps_ite
    | split
    | with_reducible apply keeps_refusePower
    | with_reducible apply keeps_stopAll
    | with_reducible apply keeps_flashAll
    | with_reducible apply keeps_raise
    | with_reducible apply keeps_levelOff
    | with_reducible apply keeps_zeroise
    | with_reducible apply keeps_newNonce
    | with_reducible apply keeps_setBit
    | with_reducible refine keeps_foldl ?_ _ _ ?_
    | with_reducible refine keeps_foldl_fst ?_ _ _ ?_
    | fail_if_no_progress with_reducible apply keeps_mk

theorem keeps_canary {s0 : State} (g : Nat) (count : Nat) (s : State) (hk : Keeps s0 s) : Keeps s0 (State.canary s g count) := by
  unfold State.canary
  repeat' first
    | with_reducible assumption
    | with_reducible apply keeps_ite
    | split
    | with_reducible apply keeps_setFld
    | with_reducible apply keeps_raise
    | with_reducible apply keeps_setBit
    | with_reducible refine keeps_foldl ?_ _ _ ?_
    | with_reducible refine keeps_foldl_fst ?_ _ _ ?_
    | fail_if_no_progress with_reducible apply keeps_mk

theorem keeps_endExcursions {s0 : State} (s : State) (hk : Keeps s0 s) : Keeps s0 (State.endExcursions s) := by
  unfold State.endExcursions
  repeat' first
    | with_reducible assumption
    | with_reducible apply keeps_ite
    | split
    | with_reducible apply keeps_sliceRestore
    | with_reducible refine keeps_foldl ?_ _ _ ?_
    | with_reducible refine keeps_foldl_fst ?_ _ _ ?_
    | fail_if_no_progress with_reducible apply keeps_mk
    | (intro _)

theorem keeps_canaryWindow {s0 : State} (counts : List Nat) (s : State) (hk : Keeps s0 s) : Keeps s0 (State.canaryWindow s counts) := by
  unfold State.canaryWindow
  repeat' first
    | with_reducible assumption
    | with_reducible apply keeps_ite
    | split
    | with_reducible apply keeps_canary
    | with_reducible apply keeps_setFld
    | with_reducible apply keeps_endExcursions
    | with_reducible refine keeps_foldl ?_ _ _ ?_
    | with_reducible refine keeps_foldl_fst ?_ _ _ ?_
    | fail_if_no_progress with_reducible apply keeps_mk
    | (intro _)

theorem keeps_setRail {s0 : State} (p : Nat) (mv : Nat) (s : State) (hk : Keeps s0 s) : Keeps s0 (State.setRail s p mv) := by
  unfold State.setRail
  repeat' first
    | with_reducible assumption
    | with_reducible apply keeps_ite
    | split
    | with_reducible apply keeps_setFld

theorem keeps_releaseShift {s0 : State} (s : State) (hk : Keeps s0 s) : Keeps s0 (State.releaseShift s) := by
  unfold State.releaseShift
  repeat' first
    | with_reducible assumption
    | with_reducible apply keeps_ite
    | split
    | with_reducible apply keeps_liveZero
    | with_reducible apply keeps_setJob
    | with_reducible refine keeps_foldl ?_ _ _ ?_
    | with_reducible refine keeps_foldl_fst ?_ _ _ ?_
    | fail_if_no_progress with_reducible apply keeps_mk
    | (intro _)

theorem keeps_deferShift {s0 : State} (s : State) (hk : Keeps s0 s) : Keeps s0 (State.deferShift s) := by
  unfold State.deferShift
  repeat' first
    | with_reducible assumption
    | with_reducible apply keeps_ite
    | split
    | with_reducible apply keeps_releaseShift
    | with_reducible apply keeps_raise
    | with_reducible apply keeps_setBit
    | with_reducible refine keeps_foldl ?_ _ _ ?_
    | with_reducible refine keeps_foldl_fst ?_ _ _ ?_
    | fail_if_no_progress with_reducible apply keeps_mk

theorem keeps_noteEmergency {s0 : State} (s : State) (hk : Keeps s0 s) : Keeps s0 (State.noteEmergency s) := by
  unfold State.noteEmergency
  repeat' first
    | with_reducible assumption
    | with_reducible apply keeps_ite
    | split
    | with_reducible apply keeps_deferShift

theorem keeps_clamp {s0 : State} (s : State) (hk : Keeps s0 s) : Keeps s0 (State.clamp s) := by
  unfold State.clamp
  repeat' first
    | with_reducible assumption
    | with_reducible apply keeps_ite
    | split
    | with_reducible apply keeps_setRail
    | with_reducible apply keeps_count
    | with_reducible apply keeps_setBit
    | with_reducible apply keeps_noteEmergency
    | with_reducible refine keeps_foldl ?_ _ _ ?_
    | with_reducible refine keeps_foldl_fst ?_ _ _ ?_
    | fail_if_no_progress with_reducible apply keeps_mk
    | (intro _)

theorem keeps_floorMissed {s0 : State} (p : Nat) (avg : Nat) (s : State) (hk : Keeps s0 s) : Keeps s0 (State.floorMissed s p avg) := by
  unfold State.floorMissed
  repeat' first
    | with_reducible assumption
    | with_reducible apply keeps_ite
    | split
    | with_reducible apply keeps_raise
    | with_reducible apply keeps_setBit
    | with_reducible apply keeps_count
    | with_reducible refine keeps_foldl ?_ _ _ ?_
    | with_reducible refine keeps_foldl_fst ?_ _ _ ?_
    | fail_if_no_progress with_reducible apply keeps_mk

theorem keeps_controllerRun {s0 : State} (avgDw : Nat) (railsMv : List Nat) (s : State) (hk : Keeps s0 s) : Keeps s0 (State.controllerRun s avgDw railsMv) := by
  unfold State.controllerRun
  repeat' first
    | with_reducible assumption
    | with_reducible apply keeps_ite
    | split
    | with_reducible apply keeps_setFld
    | with_reducible apply keeps_setBit
    | with_reducible apply keeps_floorMissed
    | with_reducible apply keeps_setRail
    | with_reducible refine keeps_foldl ?_ _ _ ?_
    | with_reducible refine keeps_foldl_fst ?_ _ _ ?_
    | fail_if_no_progress with_reducible apply keeps_mk
    | (intro _)

theorem keeps_demoteFaces {s0 : State} (p : Nat) (s : State) (hk : Keeps s0 s) : Keeps s0 (State.demoteFaces s p) := by
  unfold State.demoteFaces
  repeat' first
    | with_reducible assumption
    | with_reducible apply keeps_ite
    | split
    | with_reducible apply keeps_makeMove
    | with_reducible refine keeps_foldl ?_ _ _ ?_
    | with_reducible refine keeps_foldl_fst ?_ _ _ ?_
    | fail_if_no_progress with_reducible apply keeps_mk
    | (intro _)

theorem keeps_unparkPanel {s0 : State} (p : Nat) (s : State) (hk : Keeps s0 s) : Keeps s0 (State.unparkPanel s p) := by
  unfold State.unparkPanel
  repeat' first
    | with_reducible assumption
    | with_reducible apply keeps_ite
    | split
    | with_reducible apply keeps_setRail
    | with_reducible apply keeps_demoteFaces
    | with_reducible apply keeps_setBit
    | with_reducible apply keeps_handOwner
    | with_reducible refine keeps_foldl ?_ _ _ ?_
    | with_reducible refine keeps_foldl_fst ?_ _ _ ?_
    | fail_if_no_progress with_reducible apply keeps_mk
    | (intro _)

theorem keeps_exitDoze {s0 : State} (cause : Nat) (s : State) (hk : Keeps s0 s) : Keeps s0 (State.exitDoze s cause) := by
  unfold State.exitDoze
  repeat' first
    | with_reducible assumption
    | with_reducible apply keeps_ite
    | split
    | with_reducible apply keeps_setFld
    | with_reducible apply keeps_setBit
    | with_reducible apply keeps_unparkPanel
    | with_reducible apply keeps_setRail
    | with_reducible apply keeps_noteState
    | with_reducible refine keeps_foldl ?_ _ _ ?_
    | with_reducible refine keeps_foldl_fst ?_ _ _ ?_
    | fail_if_no_progress with_reducible apply keeps_mk
    | (intro _)

theorem keeps_dozeWake {s0 : State} (cause : Nat) (s : State) (hk : Keeps s0 s) : Keeps s0 (State.dozeWake s cause) := by
  unfold State.dozeWake
  repeat' first
    | with_reducible assumption
    | with_reducible apply keeps_ite
    | split
    | with_reducible apply keeps_exitDoze

theorem keeps_endEmergency {s0 : State} (s : State) (hk : Keeps s0 s) : Keeps s0 (State.endEmergency s) := by
  unfold State.endEmergency
  repeat' first
    | with_reducible assumption
    | with_reducible apply keeps_ite
    | split
    | with_reducible refine keeps_foldl ?_ _ _ ?_
    | with_reducible refine keeps_foldl_fst ?_ _ _ ?_
    | fail_if_no_progress with_reducible apply keeps_mk

theorem keeps_enterDoze {s0 : State} (s : State) (hk : Keeps s0 s) : Keeps s0 (State.enterDoze s) := by
  unfold State.enterDoze
  repeat' first
    | with_reducible assumption
    | with_reducible apply keeps_ite
    | split
    | with_reducible apply keeps_setFld
    | with_reducible apply keeps_setRail
    | with_reducible apply keeps_count
    | with_reducible apply keeps_setCurrent
    | with_reducible refine keeps_foldl ?_ _ _ ?_
    | with_reducible refine keeps_foldl_fst ?_ _ _ ?_
    | fail_if_no_progress with_reducible apply keeps_mk
    | (intro _)

theorem keeps_enterStandby {s0 : State} (s : State) (hk : Keeps s0 s) : Keeps s0 (State.enterStandby s) := by
  unfold State.enterStandby
  repeat' first
    | with_reducible assumption
    | with_reducible apply keeps_ite
    | split
    | with_reducible apply keeps_lastWrite
    | with_reducible apply keeps_afterReset
    | with_reducible apply keeps_setFld
    | with_reducible apply keeps_keepEpoch

theorem keeps_frameArrive {s0 : State} (p : Nat) (f : FabFrame) (s : State) (hk : Keeps s0 s) : Keeps s0 (State.frameArrive s p f) := by
  unfold State.frameArrive
  repeat' first
    | with_reducible assumption
    | with_reducible apply keeps_ite
    | split
    | with_reducible apply keeps_frameReceive
    | with_reducible apply keeps_dozeWake

theorem keeps_park {s0 : State} (p : Nat) (s : State) (hk : Keeps s0 s) : Keeps s0 (State.park s p) := by
  unfold State.park
  repeat' first
    | with_reducible assumption
    | with_reducible apply keeps_ite
    | split
    | with_reducible apply keeps_refusePower
    | with_reducible apply keeps_demoteFaces
    | with_reducible apply keeps_handOwner
    | with_reducible apply keeps_setBit
    | with_reducible apply keeps_setFld
    | with_reducible apply keeps_setRail
    | with_reducible apply keeps_leanDone
    | with_reducible apply keeps_noteState
    | with_reducible apply keeps_count
    | with_reducible refine keeps_foldl ?_ _ _ ?_
    | with_reducible refine keeps_foldl_fst ?_ _ _ ?_
    | fail_if_no_progress with_reducible apply keeps_mk
    | (intro _)

theorem keeps_standbyExit {s0 : State} (s : State) (hk : Keeps s0 s) : Keeps s0 (State.standbyExit s) := by
  unfold State.standbyExit
  repeat' first
    | with_reducible assumption
    | with_reducible apply keeps_ite
    | split
    | with_reducible apply keeps_atS0
    | with_reducible apply keeps_setFld
    | with_reducible apply keeps_count

theorem keeps_pmeOff {s0 : State} (s : State) (hk : Keeps s0 s) : Keeps s0 (State.pmeOff s) := by
  unfold State.pmeOff
  repeat' first
    | with_reducible assumption
    | with_reducible apply keeps_ite
    | split
    | with_reducible apply keeps_standbyExit
    | with_reducible apply keeps_enterStandby
    | with_reducible apply keeps_emit

theorem keeps_pmeTimeout {s0 : State} (s : State) (hk : Keeps s0 s) : Keeps s0 (State.pmeTimeout s) := by
  unfold State.pmeTimeout
  repeat' first
    | with_reducible assumption
    | with_reducible apply keeps_ite
    | split
    | with_reducible apply keeps_standbyExit
    | with_reducible apply keeps_enterStandby

theorem keeps_powerWrite {s0 : State} (v : Word) (woken : Nat) (s : State) (hk : Keeps s0 s) : Keeps s0 (State.powerWrite s v woken) := by
  unfold State.powerWrite
  repeat' first
    | with_reducible assumption
    | with_reducible apply keeps_ite
    | split
    | with_reducible apply keeps_setBit
    | with_reducible apply keeps_setFld
    | with_reducible apply keeps_exitDoze
    | with_reducible apply keeps_leanDone
    | with_reducible apply keeps_refusePower
    | with_reducible apply keeps_beginLean
    | with_reducible apply keeps_enterDoze
    | with_reducible apply keeps_beginStandby

theorem keeps_reqActive {s0 : State} (v : Word) (s : State) (hk : Keeps s0 s) : Keeps s0 (State.reqActive s v) := by
  unfold State.reqActive
  repeat' first
    | with_reducible assumption
    | with_reducible apply keeps_ite
    | split
    | with_reducible apply keeps_powerWrite

theorem keeps_reqDoze {s0 : State} (v : Word) (woken : Nat) (s : State) (hk : Keeps s0 s) : Keeps s0 (State.reqDoze s v woken) := by
  unfold State.reqDoze
  repeat' first
    | with_reducible assumption
    | with_reducible apply keeps_ite
    | split
    | with_reducible apply keeps_powerWrite

theorem keeps_reqLean {s0 : State} (v : Word) (s : State) (hk : Keeps s0 s) : Keeps s0 (State.reqLean s v) := by
  unfold State.reqLean
  repeat' first
    | with_reducible assumption
    | with_reducible apply keeps_ite
    | split
    | with_reducible apply keeps_powerWrite

theorem keeps_reqStandby {s0 : State} (v : Word) (s : State) (hk : Keeps s0 s) : Keeps s0 (State.reqStandby s v) := by
  unfold State.reqStandby
  repeat' first
    | with_reducible assumption
    | with_reducible apply keeps_ite
    | split
    | with_reducible apply keeps_powerWrite

theorem keeps_setFan {s0 : State} (t : Int) (s : State) (hk : Keeps s0 s) : Keeps s0 (State.setFan s t) := by
  unfold State.setFan
  repeat' first
    | with_reducible assumption
    | with_reducible apply keeps_ite
    | split
    | with_reducible apply keeps_setFld

theorem keeps_setTj {s0 : State} (t : Int) (s : State) (hk : Keeps s0 s) : Keeps s0 (State.setTj s t) := by
  unfold State.setTj
  repeat' first
    | with_reducible assumption
    | with_reducible apply keeps_ite
    | split
    | with_reducible apply keeps_setFan
    | with_reducible apply keeps_setFld

theorem keeps_shadow {s0 : State} (grounds : List Int) (hf : List Int) (mv : Nat) (ma : Nat) (mj : Nat) (late : Bool) (s : State) (hk : Keeps s0 s) : Keeps s0 (State.shadow s grounds hf mv ma mj late) := by
  unfold State.shadow
  repeat' first
    | with_reducible assumption
    | with_reducible apply keeps_ite
    | split
    | with_reducible apply keeps_setFld
    | with_reducible apply keeps_wr
    | with_reducible apply keeps_setTj
    | with_reducible apply keeps_count
    | with_reducible refine keeps_foldl ?_ _ _ ?_
    | with_reducible refine keeps_foldl_fst ?_ _ _ ?_
    | fail_if_no_progress with_reducible apply keeps_mk
    | (intro _)

theorem keeps_tempWarn {s0 : State} (t : Int) (s : State) (hk : Keeps s0 s) : Keeps s0 (State.tempWarn s t) := by
  unfold State.tempWarn
  repeat' first
    | with_reducible assumption
    | with_reducible apply keeps_ite
    | split
    | with_reducible apply keeps_setTj
    | with_reducible apply keeps_setBit

theorem keeps_throttle {s0 : State} (t : Int) (s : State) (hk : Keeps s0 s) : Keeps s0 (State.throttle s t) := by
  unfold State.throttle
  repeat' first
    | with_reducible assumption
    | split
    | with_reducible apply keeps_setBit
    | with_reducible apply keeps_noteEmergency
    | with_reducible apply keeps_raise
    | with_reducible apply keeps_count
    | with_reducible apply keeps_setTj
    | with_reducible apply keeps_setRail
    | with_reducible refine keeps_foldl ?_ _ _ ?_
    | with_reducible refine keeps_foldl_fst ?_ _ _ ?_
    | fail_if_no_progress with_reducible apply keeps_mk
    | (intro _)

theorem keeps_throttleEnd {s0 : State} (t : Int) (s : State) (hk : Keeps s0 s) : Keeps s0 (State.throttleEnd s t) := by
  unfold State.throttleEnd
  repeat' first
    | with_reducible assumption
    | with_reducible apply keeps_ite
    | split
    | with_reducible apply keeps_endEmergency
    | with_reducible apply keeps_setTj
    | with_reducible apply keeps_setBit

theorem keeps_unpark {s0 : State} (p : Nat) (s : State) (hk : Keeps s0 s) : Keeps s0 (State.unpark s p) := by
  unfold State.unpark
  repeat' first
    | with_reducible assumption
    | with_reducible apply keeps_ite
    | split
    | with_reducible apply keeps_leanDone
    | with_reducible apply keeps_noteState
    | with_reducible apply keeps_unparkPanel

theorem keeps_vinRange {s0 : State} (mv : Nat) (s : State) (hk : Keeps s0 s) : Keeps s0 (State.vinRange s mv) := by
  unfold State.vinRange
  repeat' first
    | with_reducible assumption
    | with_reducible apply keeps_ite
    | split
    | with_reducible apply keeps_setFld
    | with_reducible apply keeps_noteEmergency
    | with_reducible apply keeps_setBit
    | with_reducible apply keeps_endEmergency
    | with_reducible refine keeps_foldl ?_ _ _ ?_
    | with_reducible refine keeps_foldl_fst ?_ _ _ ?_
    | fail_if_no_progress with_reducible apply keeps_mk

theorem keeps_execCanaryWindow {s0 : State} (counts : List Nat) (s : State) (hk : Keeps s0 s) : KeepsNext s0 (execCanaryWindow counts s) := by
  unfold execCanaryWindow
  repeat' first
    | with_reducible assumption
    | with_reducible apply keeps_ite
    | split
    | with_reducible apply keeps_canaryWindow
    | with_reducible apply keepsNext

theorem keeps_execDozeWake {s0 : State} (cause : Nat) (s : State) (hk : Keeps s0 s) : KeepsNext s0 (execDozeWake cause s) := by
  unfold execDozeWake
  repeat' first
    | with_reducible assumption
    | with_reducible apply keeps_ite
    | split
    | with_reducible apply keeps_dozeWake
    | with_reducible apply keepsNext

theorem keeps_execFrameReceive {s0 : State} (port : Nat) (f : FabFrame) (s : State) (hk : Keeps s0 s) : KeepsNext s0 (execFrameReceive port f s) := by
  unfold execFrameReceive
  repeat' first
    | with_reducible assumption
    | with_reducible apply keeps_ite
    | split
    | with_reducible apply keeps_frameArrive
    | with_reducible apply keepsNext

theorem keeps_execHardwareClamp {s0 : State} (s : State) (hk : Keeps s0 s) : KeepsNext s0 (execHardwareClamp s) := by
  unfold execHardwareClamp
  repeat' first
    | with_reducible assumption
    | with_reducible apply keeps_ite
    | split
    | with_reducible apply keeps_clamp
    | with_reducible apply keepsNext

theorem keeps_execPanelParked {s0 : State} (panel : Nat) (s : State) (hk : Keeps s0 s) : KeepsNext s0 (execPanelParked panel s) := by
  unfold execPanelParked
  repeat' first
    | with_reducible assumption
    | with_reducible apply keeps_ite
    | split
    | with_reducible apply keeps_park
    | with_reducible apply keepsNext

theorem keeps_execPanelUnparked {s0 : State} (panel : Nat) (s : State) (hk : Keeps s0 s) : KeepsNext s0 (execPanelUnparked panel s) := by
  unfold execPanelUnparked
  repeat' first
    | with_reducible assumption
    | with_reducible apply keeps_ite
    | split
    | with_reducible apply keeps_unpark
    | with_reducible apply keepsNext

theorem keeps_execPmeTurnOff {s0 : State} (s : State) (hk : Keeps s0 s) : KeepsNext s0 (execPmeTurnOff s) := by
  unfold execPmeTurnOff
  repeat' first
    | with_reducible assumption
    | with_reducible apply keeps_ite
    | split
    | with_reducible apply keeps_pmeOff
    | with_reducible apply keepsNext

theorem keeps_execPmeTurnOffTimeout {s0 : State} (s : State) (hk : Keeps s0 s) : KeepsNext s0 (execPmeTurnOffTimeout s) := by
  unfold execPmeTurnOffTimeout
  repeat' first
    | with_reducible assumption
    | with_reducible apply keeps_ite
    | split
    | with_reducible apply keeps_pmeTimeout
    | with_reducible apply keepsNext

theorem keeps_execPwReqActive {s0 : State} (v : Word) (s : State) (hk : Keeps s0 s) : KeepsNext s0 (execPwReqActive v s) := by
  unfold execPwReqActive
  repeat' first
    | with_reducible assumption
    | with_reducible apply keeps_ite
    | split
    | with_reducible apply keeps_reqActive
    | with_reducible apply keepsNext

theorem keeps_execPwReqDoze {s0 : State} (v : Word) (woken : Nat) (s : State) (hk : Keeps s0 s) : KeepsNext s0 (execPwReqDoze v woken s) := by
  unfold execPwReqDoze
  repeat' first
    | with_reducible assumption
    | with_reducible apply keeps_ite
    | split
    | with_reducible apply keeps_reqDoze
    | with_reducible apply keepsNext

theorem keeps_execPwReqLean {s0 : State} (v : Word) (s : State) (hk : Keeps s0 s) : KeepsNext s0 (execPwReqLean v s) := by
  unfold execPwReqLean
  repeat' first
    | with_reducible assumption
    | with_reducible apply keeps_ite
    | split
    | with_reducible apply keeps_reqLean
    | with_reducible apply keepsNext

theorem keeps_execPwReqStandby {s0 : State} (v : Word) (s : State) (hk : Keeps s0 s) : KeepsNext s0 (execPwReqStandby v s) := by
  unfold execPwReqStandby
  repeat' first
    | with_reducible assumption
    | with_reducible apply keeps_ite
    | split
    | with_reducible apply keeps_reqStandby
    | with_reducible apply keepsNext

theorem keeps_execShadowRefresh {s0 : State} (grounds : List Int) (hf : List Int) (mv : Nat) (ma : Nat) (mj : Nat) (late : Bool) (s : State) (hk : Keeps s0 s) : KeepsNext s0 (execShadowRefresh grounds hf mv ma mj late s) := by
  unfold execShadowRefresh
  repeat' first
    | with_reducible assumption
    | with_reducible apply keeps_ite
    | split
    | with_reducible apply keeps_shadow
    | with_reducible apply keepsNext

theorem keeps_execStandbyExit {s0 : State} (s : State) (hk : Keeps s0 s) : KeepsNext s0 (execStandbyExit s) := by
  unfold execStandbyExit
  repeat' first
    | with_reducible assumption
    | with_reducible apply keeps_ite
    | split
    | with_reducible apply keeps_standbyExit
    | with_reducible apply keepsNext

theorem keeps_execTempWarn {s0 : State} (t : Int) (s : State) (hk : Keeps s0 s) : KeepsNext s0 (execTempWarn t s) := by
  unfold execTempWarn
  repeat' first
    | with_reducible assumption
    | with_reducible apply keeps_ite
    | split
    | with_reducible apply keeps_tempWarn
    | with_reducible apply keepsNext

theorem keeps_execThermThrottle {s0 : State} (t : Int) (s : State) (hk : Keeps s0 s) : KeepsNext s0 (execThermThrottle t s) := by
  unfold execThermThrottle
  repeat' first
    | with_reducible assumption
    | with_reducible apply keeps_ite
    | split
    | with_reducible apply keeps_throttle
    | with_reducible apply keepsNext

theorem keeps_execThrottleRelease {s0 : State} (t : Int) (s : State) (hk : Keeps s0 s) : KeepsNext s0 (execThrottleRelease t s) := by
  unfold execThrottleRelease
  repeat' first
    | with_reducible assumption
    | with_reducible apply keeps_ite
    | split
    | with_reducible apply keeps_throttleEnd
    | with_reducible apply keepsNext

theorem keeps_execVinRange {s0 : State} (mv : Nat) (s : State) (hk : Keeps s0 s) : KeepsNext s0 (execVinRange mv s) := by
  unfold execVinRange
  repeat' first
    | with_reducible assumption
    | with_reducible apply keeps_ite
    | split
    | with_reducible apply keeps_vinRange
    | with_reducible apply keepsNext

theorem keeps_execVoltageControllerRun {s0 : State} (avgDw : Nat) (railsMv : List Nat) (s : State) (hk : Keeps s0 s) : KeepsNext s0 (execVoltageControllerRun avgDw railsMv s) := by
  unfold execVoltageControllerRun
  repeat' first
    | with_reducible assumption
    | with_reducible apply keeps_ite
    | split
    | with_reducible apply keeps_controllerRun
    | with_reducible apply keepsNext

end Sys2Proof.Machine
end

