-- ==== Sys2Proof/Laws/Keeps/Firmware.lean ====
section
/-! SUPPORT. What the operations of Machine/Firmware.lean keep. -/

namespace Sys2Proof.Machine

theorem keeps_activate {s0 : State} (s : State) (hk : Keeps s0 s) : Keeps s0 (State.activate s) := by
  unfold State.activate
  repeat' first
    | with_reducible assumption
    | with_reducible apply keeps_ite
    | split
    | with_reducible apply keeps_setBit
    | with_reducible apply keeps_deferShift
    | with_reducible refine keeps_foldl ?_ _ _ ?_
    | with_reducible refine keeps_foldl_fst ?_ _ _ ?_
    | fail_if_no_progress with_reducible apply keeps_mk

theorem keeps_warmRestart {s0 : State} (comp : Nat) (core : List Byte) (data : List Byte) (records : List Byte) (s : State) (hk : Keeps s0 s) : Keeps s0 (State.warmRestart s comp core data records) := by
  unfold State.warmRestart
  repeat' first
    | with_reducible assumption
    | with_reducible apply keeps_ite
    | split
    | with_reducible apply keeps_takeSample
    | with_reducible apply keeps_stopAll
    | with_reducible refine keeps_foldl ?_ _ _ ?_
    | with_reducible refine keeps_foldl_fst ?_ _ _ ?_
    | fail_if_no_progress with_reducible apply keeps_mk

theorem keeps_componentFailed {s0 : State} (c : Nat) (core : List Byte) (data : List Byte) (records : List Byte) (s : State) (hk : Keeps s0 s) : Keeps s0 (State.componentFailed s c core data records) := by
  unfold State.componentFailed
  repeat' first
    | with_reducible assumption
    | with_reducible apply keeps_ite
    | split
    | with_reducible apply keeps_warmRestart
    | with_reducible apply keeps_raise
    | with_reducible refine keeps_foldl ?_ _ _ ?_
    | with_reducible refine keeps_foldl_fst ?_ _ _ ?_
    | fail_if_no_progress with_reducible apply keeps_mk

theorem keeps_restart {s0 : State} (c : Nat) (cause : Nat) (bodyOk : Bool) (core : List Byte) (data : List Byte) (records : List Byte) (s : State) (hk : Keeps s0 s) : Keeps s0 (State.restart s c cause bodyOk core data records) := by
  unfold State.restart
  repeat' first
    | with_reducible assumption
    | with_reducible apply keeps_ite
    | split
    | with_reducible apply keeps_takeSample
    | with_reducible apply keeps_warmRestart
    | with_reducible apply keeps_componentFailed
    | with_reducible apply keeps_setBit
    | with_reducible apply keeps_raise
    | with_reducible apply keeps_emit
    | with_reducible apply keeps_count
    | with_reducible refine keeps_foldl ?_ _ _ ?_
    | with_reducible refine keeps_foldl_fst ?_ _ _ ?_
    | fail_if_no_progress with_reducible apply keeps_mk

theorem keeps_componentRestart {s0 : State} (c : Nat) (cause : Nat) (bodyOk : Bool) (core : List Byte) (data : List Byte) (records : List Byte) (s : State) (hk : Keeps s0 s) : Keeps s0 (State.componentRestart s c cause bodyOk core data records) := by
  unfold State.componentRestart
  repeat' first
    | with_reducible assumption
    | with_reducible apply keeps_ite
    | split
    | with_reducible apply keeps_restart

theorem keeps_goodCopy {s0 : State} (s : State) (hk : Keeps s0 s) : Keeps s0 (State.goodCopy s) := by
  unfold State.goodCopy
  repeat' first
    | with_reducible assumption
    | with_reducible apply keeps_ite
    | split
    | with_reducible apply keeps_setBit
    | with_reducible refine keeps_foldl ?_ _ _ ?_
    | with_reducible refine keeps_foldl_fst ?_ _ _ ?_
    | fail_if_no_progress with_reducible apply keeps_mk

theorem keeps_message {s0 : State} (c : Nat) (msg : List Byte) (taken : Nat) (s : State) (hk : Keeps s0 s) : Keeps s0 (State.message s c msg taken) := by
  unfold State.message
  repeat' first
    | with_reducible assumption
    | with_reducible apply keeps_ite
    | split
    | with_reducible apply keeps_emit
    | with_reducible refine keeps_foldl ?_ _ _ ?_
    | with_reducible refine keeps_foldl_fst ?_ _ _ ?_
    | fail_if_no_progress with_reducible apply keeps_mk

theorem keeps_pauseBegin {s0 : State} (s : State) (hk : Keeps s0 s) : Keeps s0 (State.pauseBegin s) := by
  unfold State.pauseBegin
  repeat' first
    | with_reducible assumption
    | with_reducible apply keeps_ite
    | split
    | with_reducible apply keeps_setBit
    | with_reducible refine keeps_foldl ?_ _ _ ?_
    | with_reducible refine keeps_foldl_fst ?_ _ _ ?_
    | fail_if_no_progress with_reducible apply keeps_mk

theorem keeps_pauseEnd {s0 : State} (s : State) (hk : Keeps s0 s) : Keeps s0 (State.pauseEnd s) := by
  unfold State.pauseEnd
  repeat' first
    | with_reducible assumption
    | with_reducible apply keeps_ite
    | split
    | with_reducible apply keeps_setFld
    | with_reducible apply keeps_flushAll
    | with_reducible apply keeps_releaseShift
    | with_reducible apply keeps_stopAll
    | with_reducible refine keeps_foldl ?_ _ _ ?_
    | with_reducible refine keeps_foldl_fst ?_ _ _ ?_
    | fail_if_no_progress with_reducible apply keeps_mk

theorem keeps_rollback {s0 : State} (component : Nat) (s : State) (hk : Keeps s0 s) : Keeps s0 (State.rollback s component) := by
  unfold State.rollback
  repeat' first
    | with_reducible assumption
    | with_reducible apply keeps_ite
    | split
    | with_reducible apply keeps_raise
    | with_reducible apply keeps_pauseEnd
    | with_reducible apply keeps_setBit

theorem keeps_sampleNow {s0 : State} (c : Nat) (core : List Byte) (data : List Byte) (records : List Byte) (s : State) (hk : Keeps s0 s) : Keeps s0 (State.sampleNow s c core data records) := by
  unfold State.sampleNow
  repeat' first
    | with_reducible assumption
    | with_reducible apply keeps_ite
    | split
    | with_reducible apply keeps_takeSample
    | with_reducible apply keeps_setBit

theorem keeps_shiftHoldEnd {s0 : State} (s : State) (hk : Keeps s0 s) : Keeps s0 (State.shiftHoldEnd s) := by
  unfold State.shiftHoldEnd
  repeat' first
    | with_reducible assumption
    | with_reducible apply keeps_ite
    | split
    | with_reducible apply keeps_setBit
    | with_reducible refine keeps_foldl ?_ _ _ ?_
    | with_reducible refine keeps_foldl_fst ?_ _ _ ?_
    | fail_if_no_progress with_reducible apply keeps_mk

theorem keeps_shiftReady {s0 : State} (s : State) (hk : Keeps s0 s) : Keeps s0 (State.shiftReady s) := by
  unfold State.shiftReady
  repeat' first
    | with_reducible assumption
    | with_reducible apply keeps_ite
    | split
    | with_reducible apply keeps_setBit
    | with_reducible apply keeps_extendMeas
    | with_reducible apply keeps_wr
    | with_reducible apply keeps_pauseEnd
    | with_reducible apply keeps_count
    | with_reducible apply keeps_raise
    | with_reducible refine keeps_foldl ?_ _ _ ?_
    | with_reducible refine keeps_foldl_fst ?_ _ _ ?_
    | fail_if_no_progress with_reducible apply keeps_mk

theorem keeps_stageFail {s0 : State} (code : Nat) (s : State) (hk : Keeps s0 s) : Keeps s0 (State.stageFail s code) := by
  unfold State.stageFail
  repeat' first
    | with_reducible assumption
    | with_reducible apply keeps_ite
    | split
    | with_reducible apply keeps_raise
    | with_reducible apply keeps_setBit
    | with_reducible apply keeps_setFld

theorem keeps_stageImage {s0 : State} (l : List Byte) (s : State) (hk : Keeps s0 s) : Keeps s0 (State.stageImage s l) := by
  unfold State.stageImage
  repeat' first
    | with_reducible assumption
    | with_reducible apply keeps_ite
    | split
    | with_reducible apply keeps_setOther
    | with_reducible apply keeps_stageFail
    | with_reducible apply keeps_wr
    | with_reducible apply keeps_setBit
    | with_reducible refine keeps_foldl ?_ _ _ ?_
    | with_reducible refine keeps_foldl_fst ?_ _ _ ?_
    | fail_if_no_progress with_reducible apply keeps_mk

theorem keeps_stageHost {s0 : State} (image : Option (List Byte)) (s : State) (hk : Keeps s0 s) : Keeps s0 (State.stageHost s image) := by
  unfold State.stageHost
  repeat' first
    | with_reducible assumption
    | with_reducible apply keeps_ite
    | split
    | with_reducible apply keeps_setBit
    | with_reducible apply keeps_emit
    | with_reducible apply keeps_stageImage

theorem keeps_watchdog {s0 : State} (c : Nat) (bodyOk : Bool) (core : List Byte) (data : List Byte) (records : List Byte) (s : State) (hk : Keeps s0 s) : Keeps s0 (State.watchdog s c bodyOk core data records) := by
  unfold State.watchdog
  repeat' first
    | with_reducible assumption
    | with_reducible apply keeps_ite
    | split
    | with_reducible apply keeps_restart
    | with_reducible apply keeps_raise

theorem keeps_execActivate {s0 : State} (s : State) (hk : Keeps s0 s) : KeepsNext s0 (execActivate s) := by
  unfold execActivate
  repeat' first
    | with_reducible assumption
    | with_reducible apply keeps_ite
    | split
    | with_reducible apply keeps_activate
    | with_reducible apply keepsNext

theorem keeps_execComponentMessage {s0 : State} (component : Nat) (msg : List Byte) (taken : Nat) (s : State) (hk : Keeps s0 s) : KeepsNext s0 (execComponentMessage component msg taken s) := by
  unfold execComponentMessage
  repeat' first
    | with_reducible assumption
    | with_reducible apply keeps_ite
    | split
    | with_reducible apply keeps_message
    | with_reducible apply keepsNext

theorem keeps_execComponentRestart {s0 : State} (component : Nat) (cause : Nat) (bodyOk : Bool) (core : List Byte) (data : List Byte) (records : List Byte) (s : State) (hk : Keeps s0 s) : KeepsNext s0 (execComponentRestart component cause bodyOk core data records s) := by
  unfold execComponentRestart
  repeat' first
    | with_reducible assumption
    | with_reducible apply keeps_ite
    | split
    | with_reducible apply keeps_componentRestart
    | with_reducible apply keepsNext

theorem keeps_execGoodImageCopy {s0 : State} (s : State) (hk : Keeps s0 s) : KeepsNext s0 (execGoodImageCopy s) := by
  unfold execGoodImageCopy
  repeat' first
    | with_reducible assumption
    | with_reducible apply keeps_ite
    | split
    | with_reducible apply keeps_goodCopy
    | with_reducible apply keepsNext

theorem keeps_execSample {s0 : State} (component : Nat) (core : List Byte) (data : List Byte) (records : List Byte) (s : State) (hk : Keeps s0 s) : KeepsNext s0 (execSample component core data records s) := by
  unfold execSample
  repeat' first
    | with_reducible assumption
    | with_reducible apply keeps_ite
    | split
    | with_reducible apply keeps_sampleNow
    | with_reducible apply keepsNext

theorem keeps_execShiftHoldExpire {s0 : State} (s : State) (hk : Keeps s0 s) : KeepsNext s0 (execShiftHoldExpire s) := by
  unfold execShiftHoldExpire
  repeat' first
    | with_reducible assumption
    | with_reducible apply keeps_ite
    | split
    | with_reducible apply keeps_shiftHoldEnd
    | with_reducible apply keepsNext

theorem keeps_execShiftPauseBegin {s0 : State} (s : State) (hk : Keeps s0 s) : KeepsNext s0 (execShiftPauseBegin s) := by
  unfold execShiftPauseBegin
  repeat' first
    | with_reducible assumption
    | with_reducible apply keeps_ite
    | split
    | with_reducible apply keeps_pauseBegin
    | with_reducible apply keepsNext

theorem keeps_execShiftReady {s0 : State} (s : State) (hk : Keeps s0 s) : KeepsNext s0 (execShiftReady s) := by
  unfold execShiftReady
  repeat' first
    | with_reducible assumption
    | with_reducible apply keeps_ite
    | split
    | with_reducible apply keeps_shiftReady
    | with_reducible apply keepsNext

theorem keeps_execShiftRollback {s0 : State} (component : Nat) (s : State) (hk : Keeps s0 s) : KeepsNext s0 (execShiftRollback component s) := by
  unfold execShiftRollback
  repeat' first
    | with_reducible assumption
    | with_reducible apply keeps_ite
    | split
    | with_reducible apply keeps_rollback
    | with_reducible apply keepsNext

theorem keeps_execStage {s0 : State} (image : Option (List Byte)) (s : State) (hk : Keeps s0 s) : KeepsNext s0 (execStage image s) := by
  unfold execStage
  repeat' first
    | with_reducible assumption
    | with_reducible apply keeps_ite
    | split
    | with_reducible apply keeps_stageHost
    | with_reducible apply keepsNext

theorem keeps_execWatchdog {s0 : State} (component : Nat) (bodyOk : Bool) (core : List Byte) (data : List Byte) (records : List Byte) (s : State) (hk : Keeps s0 s) : KeepsNext s0 (execWatchdog component bodyOk core data records s) := by
  unfold execWatchdog
  repeat' first
    | with_reducible assumption
    | with_reducible apply keeps_ite
    | split
    | with_reducible apply keeps_watchdog
    | with_reducible apply keepsNext

end Sys2Proof.Machine
end

