-- ==== Sys2Proof/Laws/Keeps/Mgmt.lean ====
section
/-! SUPPORT. What the operations of Machine/Mgmt.lean keep. -/

namespace Sys2Proof.Machine

theorem keeps_answer {s0 : State} (r : MgmtReq) (b : List Byte) (s : State) (hk : Keeps s0 s) : Keeps s0 (State.answer s r b) := by
  unfold State.answer
  repeat' first
    | with_reducible assumption
    | with_reducible apply keeps_ite
    | split
    | with_reducible refine keeps_foldl ?_ _ _ ?_
    | with_reducible refine keeps_foldl_fst ?_ _ _ ?_
    | fail_if_no_progress with_reducible apply keeps_mk

theorem keeps_beaconLoss {s0 : State} (s : State) (hk : Keeps s0 s) : Keeps s0 (State.beaconLoss s) := by
  unfold State.beaconLoss
  repeat' first
    | with_reducible assumption
    | with_reducible apply keeps_ite
    | split
    | with_reducible apply keeps_setStatus
    | with_reducible apply keeps_setBit

theorem keeps_beaconResume {s0 : State} (s : State) (hk : Keeps s0 s) : Keeps s0 (State.beaconResume s) := by
  unfold State.beaconResume
  repeat' first
    | with_reducible assumption
    | with_reducible apply keeps_ite
    | split
    | with_reducible apply keeps_setBit

theorem keeps_failStatus {s0 : State} (s : State) (hk : Keeps s0 s) : Keeps s0 (State.failStatus s).1 := by
  unfold State.failStatus
  repeat' first
    | with_reducible assumption
    | with_reducible apply keeps_ite
    | split
    | with_reducible apply keeps_draw

theorem keeps_mmTake {s0 : State} (s : State) (hk : Keeps s0 s) : Keeps s0 (State.mmTake s) := by
  unfold State.mmTake
  repeat' first
    | with_reducible assumption
    | with_reducible apply keeps_ite
    | split
    | with_reducible refine keeps_foldl ?_ _ _ ?_
    | with_reducible refine keeps_foldl_fst ?_ _ _ ?_
    | fail_if_no_progress with_reducible apply keeps_mk

theorem keeps_serveMgmt {s0 : State} (r : MgmtReq) (op : Nat) (f : State → State × Nat × List Byte) (s : State) (hk : Keeps s0 s) (h_f : ∀ y0, Keeps s0 y0 → Keeps s0 (f y0).1) : Keeps s0 (State.serveMgmt s r op f) := by
  unfold State.serveMgmt
  repeat' first
    | with_reducible assumption
    | with_reducible apply keeps_ite
    | split
    | with_reducible apply keeps_mmTake
    | with_reducible apply keeps_answer
    | with_reducible apply h_f
    | with_reducible refine keeps_foldl ?_ _ _ ?_
    | with_reducible refine keeps_foldl_fst ?_ _ _ ?_
    | fail_if_no_progress with_reducible apply keeps_mk

theorem keeps_mgmtActivate {s0 : State} (r : MgmtReq) (s : State) (hk : Keeps s0 s) : Keeps s0 (State.mgmtActivate s r) := by
  unfold State.mgmtActivate
  repeat' first
    | with_reducible assumption
    | with_reducible apply keeps_ite
    | split
    | with_reducible apply keeps_serveMgmt
    | with_reducible apply keeps_failStatus
    | with_reducible apply keeps_activate
    | with_reducible apply keeps_setBit
    | with_reducible refine keeps_foldl ?_ _ _ ?_
    | with_reducible refine keeps_foldl_fst ?_ _ _ ?_
    | fail_if_no_progress with_reducible apply keeps_mk
    | (intro _)

theorem keeps_mgmtIdent {s0 : State} (r : MgmtReq) (s : State) (hk : Keeps s0 s) : Keeps s0 (State.mgmtIdent s r) := by
  unfold State.mgmtIdent
  repeat' first
    | with_reducible assumption
    | with_reducible apply keeps_ite
    | split
    | with_reducible apply keeps_serveMgmt
    | with_reducible refine keeps_foldl ?_ _ _ ?_
    | with_reducible refine keeps_foldl_fst ?_ _ _ ?_
    | fail_if_no_progress with_reducible apply keeps_mk
    | (intro _)

theorem keeps_mgmtList {s0 : State} (r : MgmtReq) (s : State) (hk : Keeps s0 s) : Keeps s0 (State.mgmtList s r) := by
  unfold State.mgmtList
  repeat' first
    | with_reducible assumption
    | with_reducible apply keeps_ite
    | split
    | with_reducible apply keeps_serveMgmt
    | with_reducible refine keeps_foldl ?_ _ _ ?_
    | with_reducible refine keeps_foldl_fst ?_ _ _ ?_
    | fail_if_no_progress with_reducible apply keeps_mk
    | (intro _)

theorem keeps_mgmtNewNonce {s0 : State} (r : MgmtReq) (s : State) (hk : Keeps s0 s) : Keeps s0 (State.mgmtNewNonce s r) := by
  unfold State.mgmtNewNonce
  repeat' first
    | with_reducible assumption
    | with_reducible apply keeps_ite
    | split
    | with_reducible apply keeps_serveMgmt
    | with_reducible apply keeps_drawBytes
    | with_reducible refine keeps_foldl ?_ _ _ ?_
    | with_reducible refine keeps_foldl_fst ?_ _ _ ?_
    | fail_if_no_progress with_reducible apply keeps_mk
    | (intro _)

theorem keeps_sampleRead {s0 : State} (entry : Nat) (source : Nat) (s : State) (hk : Keeps s0 s) : Keeps s0 (State.sampleRead s entry source) := by
  unfold State.sampleRead
  repeat' first
    | with_reducible assumption
    | with_reducible apply keeps_ite
    | split
    | with_reducible refine keeps_foldl ?_ _ _ ?_
    | with_reducible refine keeps_foldl_fst ?_ _ _ ?_
    | fail_if_no_progress with_reducible apply keeps_mk

theorem keeps_mgmtRead {s0 : State} (r : MgmtReq) (s : State) (hk : Keeps s0 s) : Keeps s0 (State.mgmtRead s r) := by
  unfold State.mgmtRead
  repeat' first
    | with_reducible assumption
    | with_reducible apply keeps_ite
    | split
    | with_reducible apply keeps_serveMgmt
    | with_reducible apply keeps_sampleRead

theorem keeps_mgmtStage {s0 : State} (r : MgmtReq) (image : Option (List Byte)) (s : State) (hk : Keeps s0 s) : Keeps s0 (State.mgmtStage s r image) := by
  unfold State.mgmtStage
  repeat' first
    | with_reducible assumption
    | with_reducible apply keeps_ite
    | split
    | with_reducible apply keeps_serveMgmt
    | with_reducible apply keeps_failStatus
    | with_reducible apply keeps_setBit
    | with_reducible apply keeps_stageImage
    | with_reducible refine keeps_foldl ?_ _ _ ?_
    | with_reducible refine keeps_foldl_fst ?_ _ _ ?_
    | fail_if_no_progress with_reducible apply keeps_mk
    | (intro _)
    | dsimp only

theorem keeps_mgmtStatus {s0 : State} (r : MgmtReq) (s : State) (hk : Keeps s0 s) : Keeps s0 (State.mgmtStatus s r) := by
  unfold State.mgmtStatus
  repeat' first
    | with_reducible assumption
    | with_reducible apply keeps_ite
    | split
    | with_reducible apply keeps_serveMgmt
    | with_reducible refine keeps_foldl ?_ _ _ ?_
    | with_reducible refine keeps_foldl_fst ?_ _ _ ?_
    | fail_if_no_progress with_reducible apply keeps_mk
    | (intro _)

theorem keeps_mmBackoffEnd {s0 : State} (s : State) (hk : Keeps s0 s) : Keeps s0 (State.mmBackoffEnd s) := by
  unfold State.mmBackoffEnd
  repeat' first
    | with_reducible assumption
    | with_reducible apply keeps_ite
    | split
    | with_reducible refine keeps_foldl ?_ _ _ ?_
    | with_reducible refine keeps_foldl_fst ?_ _ _ ?_
    | fail_if_no_progress with_reducible apply keeps_mk

theorem keeps_mmCount {s0 : State} (i : Nat) (s : State) (hk : Keeps s0 s) : Keeps s0 (State.mmCount s i) := by
  unfold State.mmCount
  repeat' first
    | with_reducible assumption
    | with_reducible apply keeps_ite
    | split
    | with_reducible apply keeps_count

theorem keeps_mmCollide {s0 : State} (late : Bool) (s : State) (hk : Keeps s0 s) : Keeps s0 (State.mmCollide s late) := by
  unfold State.mmCollide
  repeat' first
    | with_reducible assumption
    | with_reducible apply keeps_ite
    | split
    | with_reducible apply keeps_setBit
    | with_reducible apply keeps_mmCount
    | with_reducible apply keeps_setStatus
    | with_reducible apply keeps_draw
    | with_reducible refine keeps_foldl ?_ _ _ ?_
    | with_reducible refine keeps_foldl_fst ?_ _ _ ?_
    | fail_if_no_progress with_reducible apply keeps_mk

theorem keeps_mmReceive {s0 : State} (dst : Nat) (etherType : Nat) (payload : List Byte) (fcsOk : Bool) (s : State) (hk : Keeps s0 s) : Keeps s0 (State.mmReceive s dst etherType payload fcsOk) := by
  unfold State.mmReceive
  repeat' first
    | with_reducible assumption
    | with_reducible apply keeps_ite
    | split
    | with_reducible apply keeps_mmCount
    | with_reducible apply keeps_count
    | with_reducible apply keeps_setBit
    | with_reducible refine keeps_foldl ?_ _ _ ?_
    | with_reducible refine keeps_foldl_fst ?_ _ _ ?_
    | fail_if_no_progress with_reducible apply keeps_mk

theorem keeps_mmSent {s0 : State} (deferred : Bool) (s : State) (hk : Keeps s0 s) : Keeps s0 (State.mmSent s deferred) := by
  unfold State.mmSent
  repeat' first
    | with_reducible assumption
    | with_reducible apply keeps_ite
    | split
    | with_reducible apply keeps_mmCount
    | with_reducible apply keeps_emit
    | with_reducible refine keeps_foldl ?_ _ _ ?_
    | with_reducible refine keeps_foldl_fst ?_ _ _ ?_
    | fail_if_no_progress with_reducible apply keeps_mk

theorem keeps_wakeFrame {s0 : State} (dst : Nat) (etherType : Nat) (payload : List Byte) (fcsOk : Bool) (s : State) (hk : Keeps s0 s) : Keeps s0 (State.wakeFrame s dst etherType payload fcsOk) := by
  unfold State.wakeFrame
  repeat' first
    | with_reducible assumption
    | with_reducible apply keeps_ite
    | split
    | with_reducible apply keeps_mmReceive
    | with_reducible apply keeps_count
    | with_reducible refine keeps_foldl ?_ _ _ ?_
    | with_reducible refine keeps_foldl_fst ?_ _ _ ?_
    | fail_if_no_progress with_reducible apply keeps_mk

theorem keeps_execIdent {s0 : State} (src : Nat) (msg : List Byte) (s : State) (hk : Keeps s0 s) : KeepsNext s0 (execIdent src msg s) := by
  unfold execIdent
  repeat' first
    | with_reducible assumption
    | with_reducible apply keeps_ite
    | split
    | with_reducible apply keeps_mgmtIdent
    | with_reducible apply keepsNext

theorem keeps_execMgmtActivate {s0 : State} (src : Nat) (msg : List Byte) (sig : List Byte) (s : State) (hk : Keeps s0 s) : KeepsNext s0 (execMgmtActivate src msg sig s) := by
  unfold execMgmtActivate
  repeat' first
    | with_reducible assumption
    | with_reducible apply keeps_ite
    | split
    | with_reducible apply keeps_mgmtActivate
    | with_reducible apply keepsNext

theorem keeps_execMgmtStage {s0 : State} (src : Nat) (msg : List Byte) (sig : List Byte) (image : Option (List Byte)) (s : State) (hk : Keeps s0 s) : KeepsNext s0 (execMgmtStage src msg sig image s) := by
  unfold execMgmtStage
  repeat' first
    | with_reducible assumption
    | with_reducible apply keeps_ite
    | split
    | with_reducible apply keeps_mgmtStage
    | with_reducible apply keepsNext

theorem keeps_execMmBackoffExpire {s0 : State} (s : State) (hk : Keeps s0 s) : KeepsNext s0 (execMmBackoffExpire s) := by
  unfold execMmBackoffExpire
  repeat' first
    | with_reducible assumption
    | with_reducible apply keeps_ite
    | split
    | with_reducible apply keeps_mmBackoffEnd
    | with_reducible apply keepsNext

theorem keeps_execMmCollision {s0 : State} (late : Bool) (s : State) (hk : Keeps s0 s) : KeepsNext s0 (execMmCollision late s) := by
  unfold execMmCollision
  repeat' first
    | with_reducible assumption
    | with_reducible apply keeps_ite
    | split
    | with_reducible apply keeps_mmCollide
    | with_reducible apply keepsNext

theorem keeps_execMmFrameReceive {s0 : State} (dst : Nat) (etherType : Nat) (payload : List Byte) (fcsOk : Bool) (s : State) (hk : Keeps s0 s) : KeepsNext s0 (execMmFrameReceive dst etherType payload fcsOk s) := by
  unfold execMmFrameReceive
  repeat' first
    | with_reducible assumption
    | with_reducible apply keeps_ite
    | split
    | with_reducible apply keeps_mmReceive
    | with_reducible apply keepsNext

theorem keeps_execMmFrameTxDone {s0 : State} (deferred : Bool) (s : State) (hk : Keeps s0 s) : KeepsNext s0 (execMmFrameTxDone deferred s) := by
  unfold execMmFrameTxDone
  repeat' first
    | with_reducible assumption
    | with_reducible apply keeps_ite
    | split
    | with_reducible apply keeps_mmSent
    | with_reducible apply keepsNext

theorem keeps_execNonce {s0 : State} (src : Nat) (msg : List Byte) (s : State) (hk : Keeps s0 s) : KeepsNext s0 (execNonce src msg s) := by
  unfold execNonce
  repeat' first
    | with_reducible assumption
    | with_reducible apply keeps_ite
    | split
    | with_reducible apply keeps_mgmtNewNonce
    | with_reducible apply keepsNext

theorem keeps_execPlcaBeaconLoss {s0 : State} (s : State) (hk : Keeps s0 s) : KeepsNext s0 (execPlcaBeaconLoss s) := by
  unfold execPlcaBeaconLoss
  repeat' first
    | with_reducible assumption
    | with_reducible apply keeps_ite
    | split
    | with_reducible apply keeps_beaconLoss
    | with_reducible apply keepsNext

theorem keeps_execPlcaBeaconResume {s0 : State} (s : State) (hk : Keeps s0 s) : KeepsNext s0 (execPlcaBeaconResume s) := by
  unfold execPlcaBeaconResume
  repeat' first
    | with_reducible assumption
    | with_reducible apply keeps_ite
    | split
    | with_reducible apply keeps_beaconResume
    | with_reducible apply keepsNext

theorem keeps_execSampleList {s0 : State} (src : Nat) (msg : List Byte) (s : State) (hk : Keeps s0 s) : KeepsNext s0 (execSampleList src msg s) := by
  unfold execSampleList
  repeat' first
    | with_reducible assumption
    | with_reducible apply keeps_ite
    | split
    | with_reducible apply keeps_mgmtList
    | with_reducible apply keepsNext

theorem keeps_execSampleRead {s0 : State} (src : Nat) (msg : List Byte) (s : State) (hk : Keeps s0 s) : KeepsNext s0 (execSampleRead src msg s) := by
  unfold execSampleRead
  repeat' first
    | with_reducible assumption
    | with_reducible apply keeps_ite
    | split
    | with_reducible apply keeps_mgmtRead
    | with_reducible apply keepsNext

theorem keeps_execStatus {s0 : State} (src : Nat) (msg : List Byte) (s : State) (hk : Keeps s0 s) : KeepsNext s0 (execStatus src msg s) := by
  unfold execStatus
  repeat' first
    | with_reducible assumption
    | with_reducible apply keeps_ite
    | split
    | with_reducible apply keeps_mgmtStatus
    | with_reducible apply keepsNext

theorem keeps_execWakeFrame {s0 : State} (dst : Nat) (etherType : Nat) (payload : List Byte) (fcsOk : Bool) (s : State) (hk : Keeps s0 s) : KeepsNext s0 (execWakeFrame dst etherType payload fcsOk s) := by
  unfold execWakeFrame
  repeat' first
    | with_reducible assumption
    | with_reducible apply keeps_ite
    | split
    | with_reducible apply keeps_wakeFrame
    | with_reducible apply keepsNext

end Sys2Proof.Machine
end

