-- ==== Sys2Proof/Laws/Keeps/Scalar.lean ====
section
/-! SUPPORT. What the operations of Machine/Scalar.lean keep. -/

namespace Sys2Proof.Machine

theorem keeps_aluGo {s0 : State} (d : SReg) (f : Task → Word) (l3 : Nat) (l4 : Task) (l2 : State) (hk : Keeps s0 l2) : KeepsIssue s0 (aluGo d f l2 l3 l4) := by
  unfold aluGo
  repeat' first
    | with_reducible assumption
    | with_reducible apply keeps_ite
    | split
    | with_reducible apply keepsIssue_fault
    | with_reducible apply keepsIssue_stay
    | with_reducible apply keepsIssue_go

theorem keeps_branch {s0 : State} (x : Nat) (op : Nat) (a : SReg) (b : SReg) (off : Imm) (c : Word → Word → Bool) (s : State) (hk : Keeps s0 s) : Keeps s0 (branch x op a b off c s) := by
  unfold branch
  repeat' first
    | with_reducible assumption
    | with_reducible apply keeps_ite
    | split
    | with_reducible apply keeps_issue
    | with_reducible apply keepsIssue_fault
    | with_reducible apply keepsIssue_stay
    | with_reducible apply keepsIssue_go
    | with_reducible apply keepsIssue_leave
    | with_reducible refine keeps_foldl ?_ _ _ ?_
    | with_reducible refine keeps_foldl_fst ?_ _ _ ?_
    | fail_if_no_progress with_reducible apply keeps_mk
    | (intro _)

theorem keeps_execAdd {s0 : State} (x : Nat) (d : SReg) (a : SReg) (b : Src) (upset : Bool) (s : State) (hk : Keeps s0 s) : KeepsNext s0 (execAdd x d a b upset s) := by
  unfold execAdd
  repeat' first
    | with_reducible assumption
    | with_reducible apply keeps_ite
    | split
    | with_reducible apply keeps_fenceCore
    | with_reducible apply keeps_issue
    | with_reducible apply keeps_aluGo
    | with_reducible apply keepsIssue_fault
    | with_reducible apply keepsIssue_stay
    | with_reducible apply keepsIssue_go
    | with_reducible apply keepsIssue_leave
    | with_reducible apply keepsNext
    | with_reducible refine keeps_foldl ?_ _ _ ?_
    | with_reducible refine keeps_foldl_fst ?_ _ _ ?_
    | fail_if_no_progress with_reducible apply keeps_mk
    | (intro _)

theorem keeps_execAnd {s0 : State} (x : Nat) (d : SReg) (a : SReg) (b : Src) (s : State) (hk : Keeps s0 s) : KeepsNext s0 (execAnd x d a b s) := by
  unfold execAnd
  repeat' first
    | with_reducible assumption
    | with_reducible apply keeps_ite
    | split
    | with_reducible apply keeps_issue
    | with_reducible apply keeps_aluGo
    | with_reducible apply keepsIssue_fault
    | with_reducible apply keepsIssue_stay
    | with_reducible apply keepsIssue_go
    | with_reducible apply keepsIssue_leave
    | with_reducible apply keepsNext
    | with_reducible refine keeps_foldl ?_ _ _ ?_
    | with_reducible refine keeps_foldl_fst ?_ _ _ ?_
    | fail_if_no_progress with_reducible apply keeps_mk
    | (intro _)

theorem keeps_execBeq {s0 : State} (x : Nat) (a : SReg) (b : SReg) (off : Imm) (s : State) (hk : Keeps s0 s) : KeepsNext s0 (execBeq x a b off s) := by
  unfold execBeq
  repeat' first
    | with_reducible assumption
    | with_reducible apply keeps_ite
    | split
    | with_reducible apply keeps_branch
    | with_reducible apply keepsNext

theorem keeps_execBge {s0 : State} (x : Nat) (a : SReg) (b : SReg) (off : Imm) (s : State) (hk : Keeps s0 s) : KeepsNext s0 (execBge x a b off s) := by
  unfold execBge
  repeat' first
    | with_reducible assumption
    | with_reducible apply keeps_ite
    | split
    | with_reducible apply keeps_branch
    | with_reducible apply keepsNext

theorem keeps_execBlt {s0 : State} (x : Nat) (a : SReg) (b : SReg) (off : Imm) (s : State) (hk : Keeps s0 s) : KeepsNext s0 (execBlt x a b off s) := by
  unfold execBlt
  repeat' first
    | with_reducible assumption
    | with_reducible apply keeps_ite
    | split
    | with_reducible apply keeps_branch
    | with_reducible apply keepsNext

theorem keeps_execBne {s0 : State} (x : Nat) (a : SReg) (b : SReg) (off : Imm) (s : State) (hk : Keeps s0 s) : KeepsNext s0 (execBne x a b off s) := by
  unfold execBne
  repeat' first
    | with_reducible assumption
    | with_reducible apply keeps_ite
    | split
    | with_reducible apply keeps_branch
    | with_reducible apply keepsNext

theorem keeps_execDivu {s0 : State} (x : Nat) (d : SReg) (a : SReg) (b : SReg) (s : State) (hk : Keeps s0 s) : KeepsNext s0 (execDivu x d a b s) := by
  unfold execDivu
  repeat' first
    | with_reducible assumption
    | with_reducible apply keeps_ite
    | split
    | with_reducible apply keeps_issue
    | with_reducible apply keeps_aluGo
    | with_reducible apply keepsIssue_fault
    | with_reducible apply keepsIssue_stay
    | with_reducible apply keepsIssue_go
    | with_reducible apply keepsIssue_leave
    | with_reducible apply keepsNext
    | with_reducible refine keeps_foldl ?_ _ _ ?_
    | with_reducible refine keeps_foldl_fst ?_ _ _ ?_
    | fail_if_no_progress with_reducible apply keeps_mk
    | (intro _)

theorem keeps_execGetcw {s0 : State} (x : Nat) (d : SReg) (index : BitVec 11) (s : State) (hk : Keeps s0 s) : KeepsNext s0 (execGetcw x d index s) := by
  unfold execGetcw
  repeat' first
    | with_reducible assumption
    | with_reducible apply keeps_ite
    | split
    | with_reducible apply keeps_issue
    | with_reducible apply keepsIssue_fault
    | with_reducible apply keepsIssue_stay
    | with_reducible apply keepsIssue_go
    | with_reducible apply keepsIssue_leave
    | with_reducible apply keepsNext
    | with_reducible refine keeps_foldl ?_ _ _ ?_
    | with_reducible refine keeps_foldl_fst ?_ _ _ ?_
    | fail_if_no_progress with_reducible apply keeps_mk
    | (intro _)

theorem keeps_execJ {s0 : State} (x : Nat) (a : SReg) (off : Imm) (s : State) (hk : Keeps s0 s) : KeepsNext s0 (execJ x a off s) := by
  unfold execJ
  repeat' first
    | with_reducible assumption
    | with_reducible apply keeps_ite
    | split
    | with_reducible apply keeps_issue
    | with_reducible apply keepsIssue_fault
    | with_reducible apply keepsIssue_stay
    | with_reducible apply keepsIssue_go
    | with_reducible apply keepsIssue_leave
    | with_reducible apply keepsNext
    | with_reducible refine keeps_foldl ?_ _ _ ?_
    | with_reducible refine keeps_foldl_fst ?_ _ _ ?_
    | fail_if_no_progress with_reducible apply keeps_mk
    | (intro _)

theorem keeps_execJl {s0 : State} (x : Nat) (d : SReg) (a : SReg) (off : Imm) (s : State) (hk : Keeps s0 s) : KeepsNext s0 (execJl x d a off s) := by
  unfold execJl
  repeat' first
    | with_reducible assumption
    | with_reducible apply keeps_ite
    | split
    | with_reducible apply keeps_issue
    | with_reducible apply keepsIssue_fault
    | with_reducible apply keepsIssue_stay
    | with_reducible apply keepsIssue_go
    | with_reducible apply keepsIssue_leave
    | with_reducible apply keepsNext
    | with_reducible refine keeps_foldl ?_ _ _ ?_
    | with_reducible refine keeps_foldl_fst ?_ _ _ ?_
    | fail_if_no_progress with_reducible apply keeps_mk
    | (intro _)

theorem keeps_execLi {s0 : State} (x : Nat) (d : SReg) (i : Imm) (s : State) (hk : Keeps s0 s) : KeepsNext s0 (execLi x d i s) := by
  unfold execLi
  repeat' first
    | with_reducible assumption
    | with_reducible apply keeps_ite
    | split
    | with_reducible apply keeps_issue
    | with_reducible apply keeps_aluGo
    | with_reducible apply keepsIssue_fault
    | with_reducible apply keepsIssue_stay
    | with_reducible apply keepsIssue_go
    | with_reducible apply keepsIssue_leave
    | with_reducible apply keepsNext
    | with_reducible refine keeps_foldl ?_ _ _ ?_
    | with_reducible refine keeps_foldl_fst ?_ _ _ ?_
    | fail_if_no_progress with_reducible apply keeps_mk
    | (intro _)

theorem keeps_execLui {s0 : State} (x : Nat) (d : SReg) (i : BitVec 11) (s : State) (hk : Keeps s0 s) : KeepsNext s0 (execLui x d i s) := by
  unfold execLui
  repeat' first
    | with_reducible assumption
    | with_reducible apply keeps_ite
    | split
    | with_reducible apply keeps_issue
    | with_reducible apply keeps_aluGo
    | with_reducible apply keepsIssue_fault
    | with_reducible apply keepsIssue_stay
    | with_reducible apply keepsIssue_go
    | with_reducible apply keepsIssue_leave
    | with_reducible apply keepsNext
    | with_reducible refine keeps_foldl ?_ _ _ ?_
    | with_reducible refine keeps_foldl_fst ?_ _ _ ?_
    | fail_if_no_progress with_reducible apply keeps_mk
    | (intro _)

theorem keeps_execMul {s0 : State} (x : Nat) (d : SReg) (a : SReg) (b : SReg) (s : State) (hk : Keeps s0 s) : KeepsNext s0 (execMul x d a b s) := by
  unfold execMul
  repeat' first
    | with_reducible assumption
    | with_reducible apply keeps_ite
    | split
    | with_reducible apply keeps_issue
    | with_reducible apply keeps_aluGo
    | with_reducible apply keepsIssue_fault
    | with_reducible apply keepsIssue_stay
    | with_reducible apply keepsIssue_go
    | with_reducible apply keepsIssue_leave
    | with_reducible apply keepsNext
    | with_reducible refine keeps_foldl ?_ _ _ ?_
    | with_reducible refine keeps_foldl_fst ?_ _ _ ?_
    | fail_if_no_progress with_reducible apply keeps_mk
    | (intro _)

theorem keeps_execMulh {s0 : State} (x : Nat) (d : SReg) (a : SReg) (b : SReg) (s : State) (hk : Keeps s0 s) : KeepsNext s0 (execMulh x d a b s) := by
  unfold execMulh
  repeat' first
    | with_reducible assumption
    | with_reducible apply keeps_ite
    | split
    | with_reducible apply keeps_issue
    | with_reducible apply keeps_aluGo
    | with_reducible apply keepsIssue_fault
    | with_reducible apply keepsIssue_stay
    | with_reducible apply keepsIssue_go
    | with_reducible apply keepsIssue_leave
    | with_reducible apply keepsNext
    | with_reducible refine keeps_foldl ?_ _ _ ?_
    | with_reducible refine keeps_foldl_fst ?_ _ _ ?_
    | fail_if_no_progress with_reducible apply keeps_mk
    | (intro _)

theorem keeps_execOr {s0 : State} (x : Nat) (d : SReg) (a : SReg) (b : Src) (s : State) (hk : Keeps s0 s) : KeepsNext s0 (execOr x d a b s) := by
  unfold execOr
  repeat' first
    | with_reducible assumption
    | with_reducible apply keeps_ite
    | split
    | with_reducible apply keeps_issue
    | with_reducible apply keeps_aluGo
    | with_reducible apply keepsIssue_fault
    | with_reducible apply keepsIssue_stay
    | with_reducible apply keepsIssue_go
    | with_reducible apply keepsIssue_leave
    | with_reducible apply keepsNext
    | with_reducible refine keeps_foldl ?_ _ _ ?_
    | with_reducible refine keeps_foldl_fst ?_ _ _ ?_
    | fail_if_no_progress with_reducible apply keeps_mk
    | (intro _)

theorem keeps_execSetcw {s0 : State} (x : Nat) (index : BitVec 11) (a : SReg) (s : State) (hk : Keeps s0 s) : KeepsNext s0 (execSetcw x index a s) := by
  unfold execSetcw
  repeat' first
    | with_reducible assumption
    | with_reducible apply keeps_ite
    | split
    | with_reducible apply keeps_issue
    | with_reducible apply keepsIssue_fault
    | with_reducible apply keepsIssue_stay
    | with_reducible apply keepsIssue_go
    | with_reducible apply keepsIssue_leave
    | with_reducible apply keepsNext
    | with_reducible refine keeps_foldl ?_ _ _ ?_
    | with_reducible refine keeps_foldl_fst ?_ _ _ ?_
    | fail_if_no_progress with_reducible apply keeps_mk
    | (intro _)

theorem keeps_execShl {s0 : State} (x : Nat) (d : SReg) (a : SReg) (n : ShAmt) (s : State) (hk : Keeps s0 s) : KeepsNext s0 (execShl x d a n s) := by
  unfold execShl
  repeat' first
    | with_reducible assumption
    | with_reducible apply keeps_ite
    | split
    | with_reducible apply keeps_issue
    | with_reducible apply keeps_aluGo
    | with_reducible apply keepsIssue_fault
    | with_reducible apply keepsIssue_stay
    | with_reducible apply keepsIssue_go
    | with_reducible apply keepsIssue_leave
    | with_reducible apply keepsNext
    | with_reducible refine keeps_foldl ?_ _ _ ?_
    | with_reducible refine keeps_foldl_fst ?_ _ _ ?_
    | fail_if_no_progress with_reducible apply keeps_mk
    | (intro _)

theorem keeps_execShr {s0 : State} (x : Nat) (d : SReg) (a : SReg) (n : ShAmt) (s : State) (hk : Keeps s0 s) : KeepsNext s0 (execShr x d a n s) := by
  unfold execShr
  repeat' first
    | with_reducible assumption
    | with_reducible apply keeps_ite
    | split
    | with_reducible apply keeps_issue
    | with_reducible apply keeps_aluGo
    | with_reducible apply keepsIssue_fault
    | with_reducible apply keepsIssue_stay
    | with_reducible apply keepsIssue_go
    | with_reducible apply keepsIssue_leave
    | with_reducible apply keepsNext
    | with_reducible refine keeps_foldl ?_ _ _ ?_
    | with_reducible refine keeps_foldl_fst ?_ _ _ ?_
    | fail_if_no_progress with_reducible apply keeps_mk
    | (intro _)

theorem keeps_execSra {s0 : State} (x : Nat) (d : SReg) (a : SReg) (n : ShAmt) (s : State) (hk : Keeps s0 s) : KeepsNext s0 (execSra x d a n s) := by
  unfold execSra
  repeat' first
    | with_reducible assumption
    | with_reducible apply keeps_ite
    | split
    | with_reducible apply keeps_issue
    | with_reducible apply keeps_aluGo
    | with_reducible apply keepsIssue_fault
    | with_reducible apply keepsIssue_stay
    | with_reducible apply keepsIssue_go
    | with_reducible apply keepsIssue_leave
    | with_reducible apply keepsNext
    | with_reducible refine keeps_foldl ?_ _ _ ?_
    | with_reducible refine keeps_foldl_fst ?_ _ _ ?_
    | fail_if_no_progress with_reducible apply keeps_mk
    | (intro _)

theorem keeps_execSub {s0 : State} (x : Nat) (d : SReg) (a : SReg) (b : SReg) (s : State) (hk : Keeps s0 s) : KeepsNext s0 (execSub x d a b s) := by
  unfold execSub
  repeat' first
    | with_reducible assumption
    | with_reducible apply keeps_ite
    | split
    | with_reducible apply keeps_issue
    | with_reducible apply keeps_aluGo
    | with_reducible apply keepsIssue_fault
    | with_reducible apply keepsIssue_stay
    | with_reducible apply keepsIssue_go
    | with_reducible apply keepsIssue_leave
    | with_reducible apply keepsNext
    | with_reducible refine keeps_foldl ?_ _ _ ?_
    | with_reducible refine keeps_foldl_fst ?_ _ _ ?_
    | fail_if_no_progress with_reducible apply keeps_mk
    | (intro _)

theorem keeps_execXor {s0 : State} (x : Nat) (d : SReg) (a : SReg) (b : Src) (s : State) (hk : Keeps s0 s) : KeepsNext s0 (execXor x d a b s) := by
  unfold execXor
  repeat' first
    | with_reducible assumption
    | with_reducible apply keeps_ite
    | split
    | with_reducible apply keeps_issue
    | with_reducible apply keeps_aluGo
    | with_reducible apply keepsIssue_fault
    | with_reducible apply keepsIssue_stay
    | with_reducible apply keepsIssue_go
    | with_reducible apply keepsIssue_leave
    | with_reducible apply keepsNext
    | with_reducible refine keeps_foldl ?_ _ _ ?_
    | with_reducible refine keeps_foldl_fst ?_ _ _ ?_
    | fail_if_no_progress with_reducible apply keeps_mk
    | (intro _)

end Sys2Proof.Machine
end

