-- ==== Sys2Proof/Laws/Keeps/Events.lean ====
section
/-! SUPPORT. What the operations of Machine/Events.lean keep. -/

namespace Sys2Proof.Machine

theorem keeps_idle {s0 : State} (s : State) (hk : Keeps s0 s) : Keeps s0 (State.idle s) := by
  unfold State.idle
  repeat' first
    | with_reducible assumption
    | with_reducible apply keeps_ite
    | split
    | with_reducible apply keeps_count
    | with_reducible apply keeps_setFld
    | with_reducible refine keeps_foldl ?_ _ _ ?_
    | with_reducible refine keeps_foldl_fst ?_ _ _ ?_
    | fail_if_no_progress with_reducible apply keeps_mk
    | (intro _)
    | dsimp only

theorem keeps_issueIllegal {s0 : State} (x : Nat) (w0 : Word) (w1 : Word) (s : State) (hk : Keeps s0 s) : Keeps s0 (State.issueIllegal s x w0 w1) := by
  unfold State.issueIllegal
  repeat' first
    | with_reducible assumption
    | with_reducible apply keeps_ite
    | split
    | with_reducible apply keeps_issue
    | with_reducible apply keepsIssue_fault
    | with_reducible apply keepsIssue_stay
    | with_reducible apply keepsIssue_go
    | with_reducible apply keepsIssue_leave
    | with_reducible refine keeps_foldl ?_ _ _ ?_
    | with_reducible refine keeps_foldl_fst ?_ _ _ ?_
    | fail_if_no_progress with_reducible apply keeps_mk
    | (intro _)

theorem keeps_logRecord {s0 : State} (cls : EvClass) (bytes : List Byte) (s : State) (hk : Keeps s0 s) : Keeps s0 (State.logRecord s cls bytes) := by
  unfold State.logRecord
  repeat' first
    | with_reducible assumption
    | with_reducible apply keeps_ite
    | split
    | with_reducible apply keeps_queueFlash
    | with_reducible apply keeps_count
    | with_reducible refine keeps_foldl ?_ _ _ ?_
    | with_reducible refine keeps_foldl_fst ?_ _ _ ?_
    | fail_if_no_progress with_reducible apply keeps_mk

theorem keeps_signalEvent {s0 : State} (s : State) (hk : Keeps s0 s) : Keeps s0 (State.signalEvent s) := by
  unfold State.signalEvent
  repeat' first
    | with_reducible assumption
    | with_reducible apply keeps_ite
    | split
    | with_reducible apply keeps_emit
    | with_reducible refine keeps_foldl ?_ _ _ ?_
    | with_reducible refine keeps_foldl_fst ?_ _ _ ?_
    | fail_if_no_progress with_reducible apply keeps_mk
    | (intro _)

theorem keeps_recordEvent {s0 : State} (wasRead : Bool) (s : State) (hk : Keeps s0 s) : Keeps s0 (State.recordEvent s wasRead) := by
  unfold State.recordEvent
  repeat' first
    | with_reducible assumption
    | with_reducible apply keeps_ite
    | split
    | with_reducible apply keeps_setBit
    | with_reducible apply keeps_wr
    | with_reducible apply keeps_logRecord
    | with_reducible apply keeps_signalEvent
    | with_reducible refine keeps_foldl ?_ _ _ ?_
    | with_reducible refine keeps_foldl_fst ?_ _ _ ?_
    | fail_if_no_progress with_reducible apply keeps_mk
    | (intro _)

theorem keeps_stallFence {s0 : State} (x : Nat) (s : State) (hk : Keeps s0 s) : Keeps s0 (State.stallFence s x) := by
  unfold State.stallFence
  repeat' first
    | with_reducible assumption
    | with_reducible apply keeps_ite
    | split
    | with_reducible apply keeps_fenceCore

theorem keeps_execCoreStallFence {s0 : State} (x : Nat) (s : State) (hk : Keeps s0 s) : KeepsNext s0 (execCoreStallFence x s) := by
  unfold execCoreStallFence
  repeat' first
    | with_reducible assumption
    | with_reducible apply keeps_ite
    | split
    | with_reducible apply keeps_stallFence
    | with_reducible apply keepsNext

theorem keeps_execEventRecord {s0 : State} (wasRead : Bool) (s : State) (hk : Keeps s0 s) : KeepsNext s0 (execEventRecord wasRead s) := by
  unfold execEventRecord
  repeat' first
    | with_reducible assumption
    | with_reducible apply keeps_ite
    | split
    | with_reducible apply keeps_recordEvent
    | with_reducible apply keepsNext

theorem keeps_execUnassignedInstruction {s0 : State} (x : Nat) (w0 : Word) (w1 : Word) (s : State) (hk : Keeps s0 s) : KeepsNext s0 (execUnassignedInstruction x w0 w1 s) := by
  unfold execUnassignedInstruction
  repeat' first
    | with_reducible assumption
    | with_reducible apply keeps_ite
    | split
    | with_reducible apply keeps_issueIllegal
    | with_reducible apply keepsNext

end Sys2Proof.Machine
end

