-- ==== Sys2Proof/Laws/Keeps/Tap.lean ====
section
/-! SUPPORT. What the operations of Machine/Tap.lean keep. -/

namespace Sys2Proof.Machine

theorem keeps_tapLoad {s0 : State} (t : TapSt) (shown : BitVec 116) (s : State) (hk : Keeps s0 s) : Keeps s0 (State.tapLoad s t shown) := by
  unfold State.tapLoad
  repeat' first
    | with_reducible assumption
    | with_reducible apply keeps_ite
    | split
    | with_reducible apply keeps_emit
    | with_reducible refine keeps_foldl ?_ _ _ ?_
    | with_reducible refine keeps_foldl_fst ?_ _ _ ?_
    | fail_if_no_progress with_reducible apply keeps_mk

theorem keeps_tapBypass {s0 : State} (s : State) (hk : Keeps s0 s) : Keeps s0 (State.tapBypass s) := by
  unfold State.tapBypass
  repeat' first
    | with_reducible assumption
    | with_reducible apply keeps_ite
    | split
    | with_reducible apply keeps_tapLoad

theorem keeps_tapCode {s0 : State} (code : Byte) (s : State) (hk : Keeps s0 s) : Keeps s0 (State.tapCode s code) := by
  unfold State.tapCode
  repeat' first
    | with_reducible assumption
    | with_reducible apply keeps_ite
    | split
    | with_reducible apply keeps_tapBypass

theorem keeps_tapIdcode {s0 : State} (s : State) (hk : Keeps s0 s) : Keeps s0 (State.tapIdcode s) := by
  unfold State.tapIdcode
  repeat' first
    | with_reducible assumption
    | with_reducible apply keeps_ite
    | split
    | with_reducible apply keeps_tapLoad

theorem keeps_tapOther {s0 : State} (ir : Nat) (s : State) (hk : Keeps s0 s) : Keeps s0 (State.tapOther s ir) := by
  unfold State.tapOther
  repeat' first
    | with_reducible assumption
    | with_reducible apply keeps_ite
    | split
    | with_reducible apply keeps_tapLoad

theorem keeps_tapReset {s0 : State} (s : State) (hk : Keeps s0 s) : Keeps s0 (State.tapReset s) := by
  unfold State.tapReset
  repeat' first
    | with_reducible assumption
    | with_reducible apply keeps_ite
    | split
    | with_reducible refine keeps_foldl ?_ _ _ ?_
    | with_reducible refine keeps_foldl_fst ?_ _ _ ?_
    | fail_if_no_progress with_reducible apply keeps_mk

theorem keeps_tapSample {s0 : State} (pins : BitVec 116) (data : BitVec 116) (s : State) (hk : Keeps s0 s) : Keeps s0 (State.tapSample s pins data) := by
  unfold State.tapSample
  repeat' first
    | with_reducible assumption
    | with_reducible apply keeps_ite
    | split
    | with_reducible apply keeps_tapLoad

theorem keeps_tapTest {s0 : State} (ir : Nat) (pins : BitVec 116) (data : BitVec 116) (s : State) (hk : Keeps s0 s) : Keeps s0 (State.tapTest s ir pins data) := by
  unfold State.tapTest
  repeat' first
    | with_reducible assumption
    | with_reducible apply keeps_ite
    | split
    | with_reducible apply keeps_tapLoad
    | with_reducible apply keeps_tapBypass

theorem keeps_execBypass {s0 : State} (code : Byte) (s : State) (hk : Keeps s0 s) : KeepsNext s0 (execBypass code s) := by
  unfold execBypass
  repeat' first
    | with_reducible assumption
    | with_reducible apply keeps_ite
    | split
    | with_reducible apply keeps_tapCode
    | with_reducible apply keepsNext

theorem keeps_execClamp {s0 : State} (s : State) (hk : Keeps s0 s) : KeepsNext s0 (execClamp s) := by
  unfold execClamp
  repeat' first
    | with_reducible assumption
    | with_reducible apply keeps_ite
    | split
    | with_reducible apply keeps_tapOther
    | with_reducible apply keepsNext

theorem keeps_execDap {s0 : State} (s : State) (hk : Keeps s0 s) : KeepsNext s0 (execDap s) := by
  unfold execDap
  repeat' first
    | with_reducible assumption
    | with_reducible apply keeps_ite
    | split
    | with_reducible apply keeps_tapOther
    | with_reducible apply keepsNext

theorem keeps_execExtest {s0 : State} (pins : BitVec 116) (data : BitVec 116) (s : State) (hk : Keeps s0 s) : KeepsNext s0 (execExtest pins data s) := by
  unfold execExtest
  repeat' first
    | with_reducible assumption
    | with_reducible apply keeps_ite
    | split
    | with_reducible apply keeps_tapTest
    | with_reducible apply keepsNext

theorem keeps_execHighz {s0 : State} (s : State) (hk : Keeps s0 s) : KeepsNext s0 (execHighz s) := by
  unfold execHighz
  repeat' first
    | with_reducible assumption
    | with_reducible apply keeps_ite
    | split
    | with_reducible apply keeps_tapOther
    | with_reducible apply keepsNext

theorem keeps_execIdcode {s0 : State} (s : State) (hk : Keeps s0 s) : KeepsNext s0 (execIdcode s) := by
  unfold execIdcode
  repeat' first
    | with_reducible assumption
    | with_reducible apply keeps_ite
    | split
    | with_reducible apply keeps_tapIdcode
    | with_reducible apply keepsNext

theorem keeps_execIntest {s0 : State} (pins : BitVec 116) (data : BitVec 116) (s : State) (hk : Keeps s0 s) : KeepsNext s0 (execIntest pins data s) := by
  unfold execIntest
  repeat' first
    | with_reducible assumption
    | with_reducible apply keeps_ite
    | split
    | with_reducible apply keeps_tapTest
    | with_reducible apply keepsNext

theorem keeps_execSamplePreload {s0 : State} (pins : BitVec 116) (data : BitVec 116) (s : State) (hk : Keeps s0 s) : KeepsNext s0 (execSamplePreload pins data s) := by
  unfold execSamplePreload
  repeat' first
    | with_reducible assumption
    | with_reducible apply keeps_ite
    | split
    | with_reducible apply keeps_tapSample
    | with_reducible apply keepsNext

theorem keeps_execTestLogicReset {s0 : State} (s : State) (hk : Keeps s0 s) : KeepsNext s0 (execTestLogicReset s) := by
  unfold execTestLogicReset
  repeat' first
    | with_reducible assumption
    | with_reducible apply keeps_ite
    | split
    | with_reducible apply keeps_tapReset
    | with_reducible apply keepsNext

end Sys2Proof.Machine
end

