-- ==== Sys2Proof/Laws/Keeps/Regs.lean ====
section
/-! SUPPORT. What the operations of Machine/Regs.lean keep. -/

namespace Sys2Proof.Machine

theorem keeps_bridge {s0 : State} (hf : Nat) (b : Nat) (toPanel : Bool) (entering : Option Line) (s : State) (hk : Keeps s0 s) : Keeps s0 (State.bridge s hf b toPanel entering) := by
  unfold State.bridge
  repeat' first
    | with_reducible assumption
    | with_reducible apply keeps_ite
    | split
    | with_reducible apply keeps_setFld
    | with_reducible apply keeps_count
    | with_reducible apply keeps_emit
    | with_reducible refine keeps_foldl ?_ _ _ ?_
    | with_reducible refine keeps_foldl_fst ?_ _ _ ?_
    | fail_if_no_progress with_reducible apply keeps_mk
    | (intro _)
    | dsimp only

theorem keeps_deferWrite {s0 : State} (slots : List Nat) (a : Nat) (v : Word) (s : State) (hk : Keeps s0 s) : Keeps s0 (State.deferWrite s slots a v) := by
  unfold State.deferWrite
  repeat' first
    | with_reducible assumption
    | with_reducible apply keeps_ite
    | split
    | with_reducible apply keeps_applyPending
    | with_reducible refine keeps_foldl ?_ _ _ ?_
    | with_reducible refine keeps_foldl_fst ?_ _ _ ?_
    | fail_if_no_progress with_reducible apply keeps_mk

theorem keeps_fanWrite {s0 : State} (a : Nat) (v : Word) (s : State) (hk : Keeps s0 s) : Keeps s0 (State.fanWrite s a v) := by
  unfold State.fanWrite
  repeat' first
    | with_reducible assumption
    | with_reducible apply keeps_ite
    | split
    | with_reducible apply keeps_setFan
    | with_reducible apply keeps_regStore

theorem keeps_fwCtlWrite {s0 : State} (v : Word) (s : State) (hk : Keeps s0 s) : Keeps s0 (State.fwCtlWrite s v) := by
  unfold State.fwCtlWrite
  repeat' first
    | with_reducible assumption
    | with_reducible apply keeps_ite
    | split
    | with_reducible apply keeps_regStore
    | with_reducible apply keeps_setBit
    | with_reducible apply keeps_activate
    | with_reducible refine keeps_foldl ?_ _ _ ?_
    | with_reducible refine keeps_foldl_fst ?_ _ _ ?_
    | fail_if_no_progress with_reducible apply keeps_mk

theorem keeps_groupWrite {s0 : State} (a : Nat) (v : Word) (s : State) (hk : Keeps s0 s) : Keeps s0 (State.groupWrite s a v) := by
  unfold State.groupWrite
  repeat' first
    | with_reducible assumption
    | with_reducible apply keeps_ite
    | split
    | with_reducible apply keeps_declWrite

theorem keeps_releaseRing {s0 : State} (r : Nat) (s : State) (hk : Keeps s0 s) : Keeps s0 (State.releaseRing s r) := by
  unfold State.releaseRing
  repeat' first
    | with_reducible assumption
    | with_reducible apply keeps_ite
    | split
    | with_reducible apply keeps_writeRecord
    | with_reducible apply keeps_setRing
    | with_reducible apply keeps_drainRing
    | with_reducible refine keeps_foldl ?_ _ _ ?_
    | with_reducible refine keeps_foldl_fst ?_ _ _ ?_
    | fail_if_no_progress with_reducible apply keeps_mk
    | (intro _)

theorem keeps_ringHeadWrite {s0 : State} (f : Nat) (q : Nat) (v : Word) (s : State) (hk : Keeps s0 s) : Keeps s0 (State.ringHeadWrite s f q v) := by
  unfold State.ringHeadWrite
  repeat' first
    | with_reducible assumption
    | with_reducible apply keeps_ite
    | split
    | with_reducible apply keeps_releaseRing
    | with_reducible apply keeps_setFld

theorem keeps_resetRing {s0 : State} (f : Nat) (q : Nat) (s : State) (hk : Keeps s0 s) : Keeps s0 (State.resetRing s f q) := by
  unfold State.resetRing
  repeat' first
    | with_reducible assumption
    | with_reducible apply keeps_ite
    | split
    | with_reducible apply keeps_wr
    | with_reducible apply keeps_releaseRing
    | with_reducible apply keeps_setRing

theorem keeps_ringConfigWrite {s0 : State} (f : Nat) (q : Nat) (off : Nat) (v : Word) (s : State) (hk : Keeps s0 s) : Keeps s0 (State.ringConfigWrite s f q off v) := by
  unfold State.ringConfigWrite
  repeat' first
    | with_reducible assumption
    | with_reducible apply keeps_ite
    | split
    | with_reducible apply keeps_setFld
    | with_reducible apply keeps_resetRing
    | with_reducible apply keeps_wr

theorem keeps_winCtlWrite {s0 : State} (w : Nat) (v : Word) (s : State) (hk : Keeps s0 s) : Keeps s0 (State.winCtlWrite s w v) := by
  unfold State.winCtlWrite
  repeat' first
    | with_reducible assumption
    | with_reducible apply keeps_ite
    | split
    | with_reducible apply keeps_regStore
    | with_reducible refine keeps_foldl ?_ _ _ ?_
    | with_reducible refine keeps_foldl_fst ?_ _ _ ?_
    | fail_if_no_progress with_reducible apply keeps_mk

theorem keeps_scCtlWrite {s0 : State} (v : Word) (s : State) (hk : Keeps s0 s) : Keeps s0 (State.scCtlWrite s v) := by
  unfold State.scCtlWrite
  repeat' first
    | with_reducible assumption
    | with_reducible apply keeps_ite
    | split
    | with_reducible apply keeps_nonceNew
    | with_reducible apply keeps_cmdGo
    | with_reducible apply keeps_quoteGo

theorem keeps_plcaWrite {s0 : State} (v : Word) (s : State) (hk : Keeps s0 s) : Keeps s0 (State.plcaWrite s v) := by
  unfold State.plcaWrite
  repeat' first
    | with_reducible assumption
    | with_reducible apply keeps_ite
    | split
    | with_reducible apply keeps_regStore

theorem keeps_mmCtlWrite {s0 : State} (v : Word) (s : State) (hk : Keeps s0 s) : Keeps s0 (State.mmCtlWrite s v) := by
  unfold State.mmCtlWrite
  repeat' first
    | with_reducible assumption
    | with_reducible apply keeps_ite
    | split
    | with_reducible apply keeps_regStore
    | with_reducible apply keeps_setBit

theorem keeps_writeReg {s0 : State} (w : Writer) (a : Nat) (v : Word) (s : State) (hk : Keeps s0 s) : Keeps s0 (State.writeReg s w a v) := by
  unfold State.writeReg
  repeat' first
    | with_reducible assumption
    | with_reducible apply keeps_ite
    | split
    | with_reducible apply keeps_regStore
    | with_reducible apply keeps_tselStore
    | with_reducible apply keeps_tselLoad
    | with_reducible apply keeps_setFld
    | with_reducible apply keeps_publishWrite
    | with_reducible apply keeps_collStore
    | with_reducible apply keeps_collLoad
    | with_reducible apply keeps_declWrite
    | with_reducible apply keeps_fmWrite
    | with_reducible apply keeps_writePower
    | with_reducible apply keeps_writeMarch
    | with_reducible apply keeps_footCtlWrite
    | with_reducible apply keeps_deferWrite
    | with_reducible apply keeps_ringHeadWrite
    | with_reducible apply keeps_ringConfigWrite
    | with_reducible apply keeps_winCtlWrite
    | with_reducible apply keeps_powerWrite
    | with_reducible apply keeps_levelWrite
    | with_reducible apply keeps_scCtlWrite
    | with_reducible apply keeps_extendWrite
    | with_reducible apply keeps_wr
    | with_reducible apply keeps_fwCtlWrite
    | with_reducible apply keeps_sampleRead
    | with_reducible apply keeps_plcaWrite
    | with_reducible apply keeps_mmCtlWrite
    | with_reducible apply keeps_fanWrite

theorem keeps_regWrite {s0 : State} (w : Writer) (a : Nat) (v : Word) (s : State) (hk : Keeps s0 s) : Keeps s0 (State.regWrite s w a v) := by
  unfold State.regWrite
  repeat' first
    | with_reducible assumption
    | with_reducible apply keeps_ite
    | split
    | with_reducible apply keeps_handOwner
    | with_reducible apply keeps_writeReg

theorem keeps_jobmapWrite {s0 : State} (w : Writer) (a : Nat) (v : Word) (s : State) (hk : Keeps s0 s) : Keeps s0 (State.jobmapWrite s w a v) := by
  unfold State.jobmapWrite
  repeat' first
    | with_reducible assumption
    | with_reducible apply keeps_ite
    | split
    | with_reducible apply keeps_regWrite

theorem keeps_latchedLo {s0 : State} (a : Nat) (s : State) (hk : Keeps s0 s) : Keeps s0 (State.latchedLo s a) := by
  unfold State.latchedLo
  repeat' first
    | with_reducible assumption
    | with_reducible apply keeps_ite
    | split
    | with_reducible apply keeps_emit
    | with_reducible refine keeps_foldl ?_ _ _ ?_
    | with_reducible refine keeps_foldl_fst ?_ _ _ ?_
    | fail_if_no_progress with_reducible apply keeps_mk

theorem keeps_statLo {s0 : State} (a : Nat) (s : State) (hk : Keeps s0 s) : Keeps s0 (State.statLo s a) := by
  unfold State.statLo
  repeat' first
    | with_reducible assumption
    | with_reducible apply keeps_ite
    | split
    | with_reducible apply keeps_emit
    | with_reducible apply keeps_wr
    | with_reducible refine keeps_foldl ?_ _ _ ?_
    | with_reducible refine keeps_foldl_fst ?_ _ _ ?_
    | fail_if_no_progress with_reducible apply keeps_mk

theorem keeps_rcRead {s0 : State} (a : Nat) (s : State) (hk : Keeps s0 s) : Keeps s0 (State.rcRead s a) := by
  unfold State.rcRead
  repeat' first
    | with_reducible assumption
    | with_reducible apply keeps_ite
    | split
    | with_reducible apply keeps_statLo
    | with_reducible apply keeps_wr
    | with_reducible apply keeps_emit
    | with_reducible refine keeps_foldl ?_ _ _ ?_
    | with_reducible refine keeps_foldl_fst ?_ _ _ ?_
    | fail_if_no_progress with_reducible apply keeps_mk
    | (intro _)
    | dsimp only

theorem keeps_execBridgeTransfer {s0 : State} (hf : Nat) (bridge : Nat) (toPanel : Bool) (entering : Option Line) (s : State) (hk : Keeps s0 s) : KeepsNext s0 (execBridgeTransfer hf bridge toPanel entering s) := by
  unfold execBridgeTransfer
  repeat' first
    | with_reducible assumption
    | with_reducible apply keeps_ite
    | split
    | with_reducible apply keeps_bridge
    | with_reducible apply keepsNext

theorem keeps_execLatchedLoRead {s0 : State} (a : Nat) (s : State) (hk : Keeps s0 s) : KeepsNext s0 (execLatchedLoRead a s) := by
  unfold execLatchedLoRead
  repeat' first
    | with_reducible assumption
    | with_reducible apply keeps_ite
    | split
    | with_reducible apply keeps_latchedLo
    | with_reducible apply keepsNext

theorem keeps_execPnJobmapWrite {s0 : State} (by_ : Writer) (a : Nat) (v : Word) (s : State) (hk : Keeps s0 s) : KeepsNext s0 (execPnJobmapWrite by_ a v s) := by
  unfold execPnJobmapWrite
  repeat' first
    | with_reducible assumption
    | with_reducible apply keeps_ite
    | split
    | with_reducible apply keeps_byWriter
    | with_reducible apply keeps_jobmapWrite
    | with_reducible apply keepsNext
    | with_reducible refine keeps_foldl ?_ _ _ ?_
    | with_reducible refine keeps_foldl_fst ?_ _ _ ?_
    | fail_if_no_progress with_reducible apply keeps_mk
    | (intro _)

theorem keeps_execRcCounterRead {s0 : State} (a : Nat) (s : State) (hk : Keeps s0 s) : KeepsNext s0 (execRcCounterRead a s) := by
  unfold execRcCounterRead
  repeat' first
    | with_reducible assumption
    | with_reducible apply keeps_ite
    | split
    | with_reducible apply keeps_rcRead
    | with_reducible apply keepsNext

theorem keeps_execRegisterWrite {s0 : State} (by_ : Writer) (a : Nat) (v : Word) (s : State) (hk : Keeps s0 s) : KeepsNext s0 (execRegisterWrite by_ a v s) := by
  unfold execRegisterWrite
  repeat' first
    | with_reducible assumption
    | with_reducible apply keeps_ite
    | split
    | with_reducible apply keeps_byWriter
    | with_reducible apply keeps_regWrite
    | with_reducible apply keepsNext
    | with_reducible refine keeps_foldl ?_ _ _ ?_
    | with_reducible refine keeps_foldl_fst ?_ _ _ ?_
    | fail_if_no_progress with_reducible apply keeps_mk
    | (intro _)

theorem keeps_execRingConfigWrite {s0 : State} (fn : Nat) (queue : Nat) (off : Nat) (v : Word) (s : State) (hk : Keeps s0 s) : KeepsNext s0 (execRingConfigWrite fn queue off v s) := by
  unfold execRingConfigWrite
  repeat' first
    | with_reducible assumption
    | with_reducible apply keeps_ite
    | split
    | with_reducible apply keeps_ringConfigWrite
    | with_reducible apply keepsNext

theorem keeps_execRingHeadWrite {s0 : State} (fn : Nat) (queue : Nat) (v : Word) (s : State) (hk : Keeps s0 s) : KeepsNext s0 (execRingHeadWrite fn queue v s) := by
  unfold execRingHeadWrite
  repeat' first
    | with_reducible assumption
    | with_reducible apply keeps_ite
    | split
    | with_reducible apply keeps_ringHeadWrite
    | with_reducible apply keepsNext

theorem keeps_execStatLoRead {s0 : State} (a : Nat) (s : State) (hk : Keeps s0 s) : KeepsNext s0 (execStatLoRead a s) := by
  unfold execStatLoRead
  repeat' first
    | with_reducible assumption
    | with_reducible apply keeps_ite
    | split
    | with_reducible apply keeps_statLo
    | with_reducible apply keepsNext

end Sys2Proof.Machine
end

