-- ==== Sys2Proof/Laws/Keeps/Host.lean ====
section
/-! SUPPORT. What the operations of Machine/Host.lean keep. -/

namespace Sys2Proof.Machine

theorem keeps_malformed {s0 : State} (f : Nat) (s : State) (hk : Keeps s0 s) : Keeps s0 (State.malformed s f) := by
  unfold State.malformed
  repeat' first
    | with_reducible assumption
    | with_reducible apply keeps_ite
    | split
    | with_reducible apply keeps_count
    | with_reducible apply keeps_setBit

theorem keeps_overrun {s0 : State} (f : Nat) (q : Nat) (s : State) (hk : Keeps s0 s) : Keeps s0 (State.overrun s f q) := by
  unfold State.overrun
  repeat' first
    | with_reducible assumption
    | with_reducible apply keeps_ite
    | split
    | with_reducible apply keeps_count
    | with_reducible apply keeps_setStatus

theorem keeps_apertureWrite {s0 : State} (f : Nat) (off : Nat) (size : Nat) (s : State) (hk : Keeps s0 s) : Keeps s0 (State.apertureWrite s f off size) := by
  unfold State.apertureWrite
  repeat' first
    | with_reducible assumption
    | with_reducible apply keeps_ite
    | split
    | with_reducible apply keeps_malformed
    | with_reducible apply keeps_overrun

theorem keeps_arrive {s0 : State} (f : Nat) (q : Nat) (s : State) (hk : Keeps s0 s) : Keeps s0 (State.arrive s f q).1 := by
  unfold State.arrive
  split
  · exact keeps_fst_of hk rfl
  extract_lets u credits v
  have hu : Keeps s0 u := by
    unfold u
    split
    · exact keeps_exitDoze _ _ hk
    · exact hk
  split
  · exact keeps_fst_of (keeps_malformed _ _ hu) rfl
  split
  · exact keeps_fst_of (keeps_overrun _ _ _ hu) rfl
  · have hv : Keeps s0 v := keeps_setFld _ _ _ _ _ hu
    have hw : Keeps s0 (if v.leaseLive f && !v.leaseOver f then v.setFn f { v.fn f with renewed := v.usecN.toNat } else v) := by
      split
      · exact keeps_setFn _ _ _ hv
      · exact hv
    exact keeps_fst_of hw rfl

theorem keeps_checkCapsule {s0 : State} (f : Nat) (q : Nat) (w : List Word) (more : Bool) (s : State) (hk : Keeps s0 s) : Keeps s0 (State.checkCapsule s f q w more).1 := by
  unfold State.checkCapsule
  repeat' first
    | with_reducible assumption
    | with_reducible apply keeps_ite
    | split
    | with_reducible apply keeps_count
    | with_reducible apply keeps_wr

theorem keeps_enterCapsule {s0 : State} (r : Nat) (c : CapsuleSt) (s : State) (hk : Keeps s0 s) : Keeps s0 (State.enterCapsule s r c) := by
  unfold State.enterCapsule
  repeat' first
    | with_reducible assumption
    | with_reducible apply keeps_ite
    | split
    | with_reducible refine keeps_foldl ?_ _ _ ?_
    | with_reducible refine keeps_foldl_fst ?_ _ _ ?_
    | fail_if_no_progress with_reducible apply keeps_mk

theorem keeps_capsule {s0 : State} (f : Nat) (q : Nat) (w : List Word) (op : Nat → Bool) (more : Bool) (run : State → State) (s : State) (hk : Keeps s0 s) (h_run : ∀ y0, Keeps s0 y0 → Keeps s0 (run y0)) : Keeps s0 (State.capsule s f q w op more run) := by
  unfold State.capsule
  repeat' first
    | with_reducible assumption
    | with_reducible apply keeps_ite
    | split
    | with_reducible apply keeps_arrive
    | with_reducible apply keeps_checkCapsule
    | with_reducible apply keeps_flushDone
    | with_reducible apply keeps_enterCapsule
    | with_reducible apply keeps_setResult
    | with_reducible apply h_run

theorem keeps_attach {s0 : State} (f : Nat) (q : Nat) (w : List Word) (s : State) (hk : Keeps s0 s) : Keeps s0 (State.attach s f q w) := by
  unfold State.attach
  repeat' first
    | with_reducible assumption
    | with_reducible apply keeps_ite
    | split
    | with_reducible apply keeps_capsule
    | with_reducible apply keeps_setFn
    | with_reducible apply keeps_setBit
    | with_reducible apply keeps_endCapsule
    | with_reducible apply keeps_noticeRecord
    | with_reducible refine keeps_foldl ?_ _ _ ?_
    | with_reducible refine keeps_foldl_fst ?_ _ _ ?_
    | fail_if_no_progress with_reducible apply keeps_mk
    | (intro _)

theorem keeps_badCap {s0 : State} (f : Nat) (q : Nat) (w : List Word) (s : State) (hk : Keeps s0 s) : Keeps s0 (State.badCap s f q w) := by
  unfold State.badCap
  exact keeps_capsule _ _ _ _ _ _ _ hk (fun _ h => h)

theorem keeps_barAccess {s0 : State} (f : Nat) (bank : Bool) (off : Nat) (size : Nat) (data : Option (List Byte)) (s : State) (hk : Keeps s0 s) : Keeps s0 (State.barAccess s f bank off size data) := by
  unfold State.barAccess
  repeat' first
    | with_reducible assumption
    | with_reducible apply keeps_ite
    | split
    | with_reducible apply keeps_emit
    | with_reducible apply keeps_wakeSpan
    | with_reducible apply keeps_writeDev
    | with_reducible apply keeps_readDev

theorem keeps_configRequest {s0 : State} (f : Nat) (write : Option (Nat × Word)) (s : State) (hk : Keeps s0 s) : Keeps s0 (State.configRequest s f write) := by
  unfold State.configRequest
  repeat' first
    | with_reducible assumption
    | with_reducible apply keeps_ite
    | split
    | with_reducible apply keeps_emit
    | with_reducible apply keeps_masterOff
    | with_reducible refine keeps_foldl ?_ _ _ ?_
    | with_reducible refine keeps_foldl_fst ?_ _ _ ?_
    | fail_if_no_progress with_reducible apply keeps_mk

theorem keeps_finishResume {s0 : State} (slot : Nat) (s : State) (hk : Keeps s0 s) : Keeps s0 (State.finishResume s slot) := by
  unfold State.finishResume
  repeat' first
    | with_reducible assumption
    | with_reducible apply keeps_ite
    | split
    | with_reducible apply keeps_endCapsulesOf
    | with_reducible apply keeps_sendCtrl
    | with_reducible refine keeps_foldl ?_ _ _ ?_
    | with_reducible refine keeps_foldl_fst ?_ _ _ ?_
    | fail_if_no_progress with_reducible apply keeps_mk
    | (intro _)

theorem keeps_freeSlot {s0 : State} (slot : Nat) (s : State) (hk : Keeps s0 s) : Keeps s0 (State.freeSlot s slot) := by
  unfold State.freeSlot
  repeat' first
    | with_reducible assumption
    | with_reducible apply keeps_ite
    | split
    | with_reducible apply keeps_setSlot
    | with_reducible apply keeps_setJob
    | with_reducible apply keeps_releaseSlot
    | with_reducible apply keeps_moveEntries
    | with_reducible refine keeps_foldl ?_ _ _ ?_
    | with_reducible refine keeps_foldl_fst ?_ _ _ ?_
    | fail_if_no_progress with_reducible apply keeps_mk

theorem keeps_freeCap {s0 : State} (f : Nat) (q : Nat) (w : List Word) (s : State) (hk : Keeps s0 s) : Keeps s0 (State.freeCap s f q w) := by
  unfold State.freeCap
  repeat' first
    | with_reducible assumption
    | with_reducible apply keeps_ite
    | split
    | with_reducible apply keeps_capsule
    | with_reducible apply keeps_endCapsule
    | with_reducible apply keeps_freeSlot
    | with_reducible refine keeps_foldl ?_ _ _ ?_
    | with_reducible refine keeps_foldl_fst ?_ _ _ ?_
    | fail_if_no_progress with_reducible apply keeps_mk
    | (intro _)

theorem keeps_readDecl {s0 : State} (f : Nat) (w : List Word) (host : List Host.Cell) (s : State) (hk : Keeps s0 s) : Keeps s0 (State.readDecl s f w host).1 := by
  unfold State.readDecl
  repeat' first
    | with_reducible assumption
    | with_reducible apply keeps_ite
    | split
    | with_reducible apply keeps_emit

theorem keeps_takeDecl {s0 : State} (f : Nat) (w : List Word) (host : List Host.Cell) (meas : Nat) (s : State) (hk : Keeps s0 s) : Keeps s0 (State.takeDecl s f w host meas).1 := by
  unfold State.takeDecl
  repeat' first
    | with_reducible assumption
    | with_reducible apply keeps_ite
    | split
    | with_reducible apply keeps_readDecl
    | with_reducible apply keeps_extendMeas
    | with_reducible refine keeps_foldl ?_ _ _ ?_
    | with_reducible refine keeps_foldl_fst ?_ _ _ ?_
    | fail_if_no_progress with_reducible apply keeps_mk
    | (intro _)
    | dsimp only

theorem keeps_jobLoad {s0 : State} (f : Nat) (q : Nat) (w : List Word) (host : List Host.Cell) (grants : List (Nat × Nat)) (more : Bool) (s : State) (hk : Keeps s0 s) : Keeps s0 (State.jobLoad s f q w host grants more) := by
  unfold State.jobLoad
  repeat' first
    | with_reducible assumption
    | with_reducible apply keeps_ite
    | split
    | with_reducible apply keeps_capsule
    | with_reducible apply keeps_endCapsule
    | with_reducible apply keeps_takeDecl
    | with_reducible apply keeps_setJob
    | with_reducible apply keeps_setSlot
    | with_reducible apply keeps_setFld
    | with_reducible apply keeps_declApply
    | with_reducible apply keeps_wr
    | with_reducible apply keeps_deriveJob
    | with_reducible refine keeps_foldl ?_ _ _ ?_
    | with_reducible refine keeps_foldl_fst ?_ _ _ ?_
    | fail_if_no_progress with_reducible apply keeps_mk
    | (intro _)
    | dsimp only
    | exact keeps_of_fst (keeps_takeDecl _ _ _ _ _ (by with_reducible assumption)) (by assumption)

theorem keeps_leaseCap {s0 : State} (f : Nat) (q : Nat) (w : List Word) (s : State) (hk : Keeps s0 s) : Keeps s0 (State.leaseCap s f q w) := by
  unfold State.leaseCap
  repeat' first
    | with_reducible assumption
    | with_reducible apply keeps_ite
    | split
    | with_reducible apply keeps_capsule
    | with_reducible apply keeps_endCapsule

theorem keeps_modTimer {s0 : State} (f : Nat) (q : Nat) (s : State) (hk : Keeps s0 s) : Keeps s0 (State.modTimer s f q) := by
  unfold State.modTimer
  repeat' first
    | with_reducible assumption
    | with_reducible apply keeps_ite
    | split
    | with_reducible apply keeps_signal

theorem keeps_publishCap {s0 : State} (f : Nat) (q : Nat) (w : List Word) (s : State) (hk : Keeps s0 s) : Keeps s0 (State.publishCap s f q w) := by
  unfold State.publishCap
  repeat' first
    | with_reducible assumption
    | with_reducible apply keeps_ite
    | split
    | with_reducible apply keeps_capsule
    | with_reducible apply keeps_extendMeas
    | with_reducible apply keeps_endCapsule
    | with_reducible apply keeps_publishGo
    | with_reducible apply keeps_setFld
    | with_reducible refine keeps_foldl ?_ _ _ ?_
    | with_reducible refine keeps_foldl_fst ?_ _ _ ?_
    | fail_if_no_progress with_reducible apply keeps_mk
    | (intro _)

theorem keeps_reshardCap {s0 : State} (f : Nat) (q : Nat) (w : List Word) (host : List Host.Cell) (s : State) (hk : Keeps s0 s) : Keeps s0 (State.reshardCap s f q w host) := by
  unfold State.reshardCap
  repeat' first
    | with_reducible assumption
    | with_reducible apply keeps_ite
    | split
    | with_reducible apply keeps_capsule
    | with_reducible apply keeps_endCapsule
    | with_reducible apply keeps_takeDecl
    | with_reducible apply keeps_setEpochSt
    | with_reducible refine keeps_foldl ?_ _ _ ?_
    | with_reducible refine keeps_foldl_fst ?_ _ _ ?_
    | fail_if_no_progress with_reducible apply keeps_mk
    | (intro _)
    | dsimp only
    | exact keeps_of_fst (keeps_takeDecl _ _ _ _ _ (by with_reducible assumption)) (by assumption)

theorem keeps_resultRead {s0 : State} (f : Nat) (slot : Nat) (off : Nat) (size : Nat) (s : State) (hk : Keeps s0 s) : Keeps s0 (State.resultRead s f slot off size) := by
  unfold State.resultRead
  repeat' first
    | with_reducible assumption
    | with_reducible apply keeps_ite
    | split
    | with_reducible apply keeps_setResult
    | with_reducible apply keeps_emit

theorem keeps_resumeCap {s0 : State} (f : Nat) (q : Nat) (w : List Word) (moves : List (Nat × Nat)) (s : State) (hk : Keeps s0 s) : Keeps s0 (State.resumeCap s f q w moves) := by
  unfold State.resumeCap
  repeat' first
    | with_reducible assumption
    | with_reducible apply keeps_ite
    | split
    | with_reducible apply keeps_capsule
    | with_reducible apply keeps_finishResume
    | with_reducible apply keeps_sliceRestore
    | with_reducible apply keeps_endCapsule
    | with_reducible refine keeps_foldl ?_ _ _ ?_
    | with_reducible refine keeps_foldl_fst ?_ _ _ ?_
    | fail_if_no_progress with_reducible apply keeps_mk
    | (intro _)
    | dsimp only

theorem keeps_retireSlot {s0 : State} (f : Nat) (slot : Nat) (v : Word) (s : State) (hk : Keeps s0 s) : Keeps s0 (State.retireSlot s f slot v) := by
  unfold State.retireSlot
  repeat' first
    | with_reducible assumption
    | with_reducible apply keeps_ite
    | split
    | with_reducible apply keeps_setResult
    | with_reducible apply keeps_count

theorem keeps_servePayload {s0 : State} (f : Nat) (w : List Word) (host : List Host.Cell) (s : State) (hk : Keeps s0 s) : Keeps s0 (State.servePayload s f w host).1 := by
  unfold State.servePayload
  repeat' first
    | with_reducible assumption
    | with_reducible apply keeps_ite
    | split
    | with_reducible apply keeps_readDecl

theorem keeps_serveCap {s0 : State} (f : Nat) (q : Nat) (w : List Word) (host : List Host.Cell) (s : State) (hk : Keeps s0 s) : Keeps s0 (State.serveCap s f q w host) := by
  unfold State.serveCap
  repeat' first
    | with_reducible assumption
    | with_reducible apply keeps_ite
    | split
    | with_reducible apply keeps_capsule
    | with_reducible apply keeps_endCapsule
    | with_reducible apply keeps_servePayload
    | with_reducible apply keeps_enterRequest
    | with_reducible refine keeps_foldl ?_ _ _ ?_
    | with_reducible refine keeps_foldl_fst ?_ _ _ ?_
    | fail_if_no_progress with_reducible apply keeps_mk
    | (intro _)
    | dsimp only
    | exact keeps_of_fst (keeps_servePayload _ _ _ _ (by with_reducible assumption)) (by assumption)

theorem keeps_setCap {s0 : State} (f : Nat) (q : Nat) (w : List Word) (host : List Host.Cell) (grants : List (Nat × Nat)) (more : Bool) (s : State) (hk : Keeps s0 s) : Keeps s0 (State.setCap s f q w host grants more) := by
  unfold State.setCap
  repeat' first
    | with_reducible assumption
    | with_reducible apply keeps_ite
    | split
    | with_reducible apply keeps_capsule
    | with_reducible apply keeps_endCapsule
    | with_reducible apply keeps_takeDecl
    | with_reducible apply keeps_setJob
    | with_reducible apply keeps_declApply
    | with_reducible refine keeps_foldl ?_ _ _ ?_
    | with_reducible refine keeps_foldl_fst ?_ _ _ ?_
    | fail_if_no_progress with_reducible apply keeps_mk
    | (intro _)
    | dsimp only
    | exact keeps_of_fst (keeps_takeDecl _ _ _ _ _ (by with_reducible assumption)) (by assumption)

theorem keeps_stepsCap {s0 : State} (f : Nat) (q : Nat) (w : List Word) (s : State) (hk : Keeps s0 s) : Keeps s0 (State.stepsCap s f q w) := by
  unfold State.stepsCap
  repeat' first
    | with_reducible assumption
    | with_reducible apply keeps_ite
    | split
    | with_reducible apply keeps_capsule
    | with_reducible apply keeps_endCapsule
    | with_reducible apply keeps_setJob
    | with_reducible apply keeps_nextStep
    | with_reducible refine keeps_foldl ?_ _ _ ?_
    | with_reducible refine keeps_foldl_fst ?_ _ _ ?_
    | fail_if_no_progress with_reducible apply keeps_mk
    | (intro _)

theorem keeps_stopCap {s0 : State} (f : Nat) (q : Nat) (w : List Word) (s : State) (hk : Keeps s0 s) : Keeps s0 (State.stopCap s f q w) := by
  unfold State.stopCap
  repeat' first
    | with_reducible assumption
    | with_reducible apply keeps_ite
    | split
    | with_reducible apply keeps_capsule
    | with_reducible apply keeps_endCapsule
    | with_reducible apply keeps_stopJob
    | with_reducible refine keeps_foldl ?_ _ _ ?_
    | with_reducible refine keeps_foldl_fst ?_ _ _ ?_
    | fail_if_no_progress with_reducible apply keeps_mk
    | (intro _)

theorem keeps_withdrawCap {s0 : State} (f : Nat) (q : Nat) (w : List Word) (s : State) (hk : Keeps s0 s) : Keeps s0 (State.withdrawCap s f q w) := by
  unfold State.withdrawCap
  repeat' first
    | with_reducible assumption
    | with_reducible apply keeps_ite
    | split
    | with_reducible apply keeps_capsule
    | with_reducible apply keeps_endCapsule
    | with_reducible apply keeps_withdrawSteps
    | with_reducible refine keeps_foldl ?_ _ _ ?_
    | with_reducible refine keeps_foldl_fst ?_ _ _ ?_
    | fail_if_no_progress with_reducible apply keeps_mk
    | (intro _)

theorem keeps_execApertureWriteInvalid {s0 : State} (fn : Nat) (off : Nat) (size : Nat) (s : State) (hk : Keeps s0 s) : KeepsNext s0 (execApertureWriteInvalid fn off size s) := by
  unfold execApertureWriteInvalid
  repeat' first
    | with_reducible assumption
    | with_reducible apply keeps_ite
    | split
    | with_reducible apply keeps_apertureWrite
    | with_reducible apply keepsNext

theorem keeps_execAttach {s0 : State} (fn : Nat) (queue : Nat) (words : List Word) (s : State) (hk : Keeps s0 s) : KeepsNext s0 (execAttach fn queue words s) := by
  unfold execAttach
  repeat' first
    | with_reducible assumption
    | with_reducible apply keeps_ite
    | split
    | with_reducible apply keeps_attach
    | with_reducible apply keepsNext

theorem keeps_execBadOpcodeCapsule {s0 : State} (fn : Nat) (queue : Nat) (words : List Word) (s : State) (hk : Keeps s0 s) : KeepsNext s0 (execBadOpcodeCapsule fn queue words s) := by
  unfold execBadOpcodeCapsule
  repeat' first
    | with_reducible assumption
    | with_reducible apply keeps_ite
    | split
    | with_reducible apply keeps_badCap
    | with_reducible apply keepsNext

theorem keeps_execBarAccess {s0 : State} (fn : Nat) (bank : Bool) (off : Nat) (size : Nat) (data : Option (List Byte)) (s : State) (hk : Keeps s0 s) : KeepsNext s0 (execBarAccess fn bank off size data s) := by
  unfold execBarAccess
  repeat' first
    | with_reducible assumption
    | with_reducible apply keeps_ite
    | split
    | with_reducible apply keeps_barAccess
    | with_reducible apply keepsNext

theorem keeps_execConfigRequest {s0 : State} (fn : Nat) (write : Option (Nat × Word)) (s : State) (hk : Keeps s0 s) : KeepsNext s0 (execConfigRequest fn write s) := by
  unfold execConfigRequest
  repeat' first
    | with_reducible assumption
    | with_reducible apply keeps_ite
    | split
    | with_reducible apply keeps_configRequest
    | with_reducible apply keepsNext

theorem keeps_execFree {s0 : State} (fn : Nat) (queue : Nat) (words : List Word) (s : State) (hk : Keeps s0 s) : KeepsNext s0 (execFree fn queue words s) := by
  unfold execFree
  repeat' first
    | with_reducible assumption
    | with_reducible apply keeps_ite
    | split
    | with_reducible apply keeps_freeCap
    | with_reducible apply keepsNext

theorem keeps_execJobLoad {s0 : State} (fn : Nat) (queue : Nat) (words : List Word) (host : List Host.Cell) (grants : List (Nat × Nat)) (more : Bool) (passes : Bool) (s : State) (hk : Keeps s0 s) : KeepsNext s0 (execJobLoad fn queue words host grants more passes s) := by
  unfold execJobLoad
  repeat' first
    | with_reducible assumption
    | with_reducible apply keeps_ite
    | split
    | with_reducible apply keeps_jobLoad
    | with_reducible apply keepsNext

theorem keeps_execLeaseCapsule {s0 : State} (fn : Nat) (queue : Nat) (words : List Word) (s : State) (hk : Keeps s0 s) : KeepsNext s0 (execLeaseCapsule fn queue words s) := by
  unfold execLeaseCapsule
  repeat' first
    | with_reducible assumption
    | with_reducible apply keeps_ite
    | split
    | with_reducible apply keeps_leaseCap
    | with_reducible apply keepsNext

theorem keeps_execMsixModTimer {s0 : State} (fn : Nat) (queue : Nat) (s : State) (hk : Keeps s0 s) : KeepsNext s0 (execMsixModTimer fn queue s) := by
  unfold execMsixModTimer
  repeat' first
    | with_reducible assumption
    | with_reducible apply keeps_ite
    | split
    | with_reducible apply keeps_modTimer
    | with_reducible apply keepsNext

theorem keeps_execPublish {s0 : State} (fn : Nat) (queue : Nat) (words : List Word) (s : State) (hk : Keeps s0 s) : KeepsNext s0 (execPublish fn queue words s) := by
  unfold execPublish
  repeat' first
    | with_reducible assumption
    | with_reducible apply keeps_ite
    | split
    | with_reducible apply keeps_publishCap
    | with_reducible apply keepsNext

theorem keeps_execReshard {s0 : State} (fn : Nat) (queue : Nat) (words : List Word) (host : List Host.Cell) (s : State) (hk : Keeps s0 s) : KeepsNext s0 (execReshard fn queue words host s) := by
  unfold execReshard
  repeat' first
    | with_reducible assumption
    | with_reducible apply keeps_ite
    | split
    | with_reducible apply keeps_reshardCap
    | with_reducible apply keepsNext

theorem keeps_execResultSlotRead {s0 : State} (fn : Nat) (slot : Nat) (off : Nat) (size : Nat) (s : State) (hk : Keeps s0 s) : KeepsNext s0 (execResultSlotRead fn slot off size s) := by
  unfold execResultSlotRead
  repeat' first
    | with_reducible assumption
    | with_reducible apply keeps_ite
    | split
    | with_reducible apply keeps_resultRead
    | with_reducible apply keepsNext

theorem keeps_execResume {s0 : State} (fn : Nat) (queue : Nat) (words : List Word) (moves : List (Nat × Nat)) (s : State) (hk : Keeps s0 s) : KeepsNext s0 (execResume fn queue words moves s) := by
  unfold execResume
  repeat' first
    | with_reducible assumption
    | with_reducible apply keeps_ite
    | split
    | with_reducible apply keeps_resumeCap
    | with_reducible apply keepsNext

theorem keeps_execRetire {s0 : State} (fn : Nat) (slot : Nat) (v : Word) (s : State) (hk : Keeps s0 s) : KeepsNext s0 (execRetire fn slot v s) := by
  unfold execRetire
  repeat' first
    | with_reducible assumption
    | with_reducible apply keeps_ite
    | split
    | with_reducible apply keeps_retireSlot
    | with_reducible apply keepsNext

theorem keeps_execServe {s0 : State} (fn : Nat) (queue : Nat) (words : List Word) (host : List Host.Cell) (s : State) (hk : Keeps s0 s) : KeepsNext s0 (execServe fn queue words host s) := by
  unfold execServe
  repeat' first
    | with_reducible assumption
    | with_reducible apply keeps_ite
    | split
    | with_reducible apply keeps_serveCap
    | with_reducible apply keepsNext

theorem keeps_execSetDecl {s0 : State} (fn : Nat) (queue : Nat) (words : List Word) (host : List Host.Cell) (grants : List (Nat × Nat)) (more : Bool) (s : State) (hk : Keeps s0 s) : KeepsNext s0 (execSetDecl fn queue words host grants more s) := by
  unfold execSetDecl
  repeat' first
    | with_reducible assumption
    | with_reducible apply keeps_ite
    | split
    | with_reducible apply keeps_setCap
    | with_reducible apply keepsNext

theorem keeps_execSliceRestore {s0 : State} (slot : Nat) (moves : List (Nat × Nat)) (s : State) (hk : Keeps s0 s) : KeepsNext s0 (execSliceRestore slot moves s) := by
  unfold execSliceRestore
  repeat' first
    | with_reducible assumption
    | with_reducible apply keeps_ite
    | split
    | with_reducible apply keeps_finishResume
    | with_reducible apply keeps_sliceRestore
    | with_reducible apply keepsNext

theorem keeps_execSteps {s0 : State} (fn : Nat) (queue : Nat) (words : List Word) (s : State) (hk : Keeps s0 s) : KeepsNext s0 (execSteps fn queue words s) := by
  unfold execSteps
  repeat' first
    | with_reducible assumption
    | with_reducible apply keeps_ite
    | split
    | with_reducible apply keeps_stepsCap
    | with_reducible apply keepsNext

theorem keeps_execStop {s0 : State} (fn : Nat) (queue : Nat) (words : List Word) (s : State) (hk : Keeps s0 s) : KeepsNext s0 (execStop fn queue words s) := by
  unfold execStop
  repeat' first
    | with_reducible assumption
    | with_reducible apply keeps_ite
    | split
    | with_reducible apply keeps_stopCap
    | with_reducible apply keepsNext

theorem keeps_execWithdraw {s0 : State} (fn : Nat) (queue : Nat) (words : List Word) (s : State) (hk : Keeps s0 s) : KeepsNext s0 (execWithdraw fn queue words s) := by
  unfold execWithdraw
  repeat' first
    | with_reducible assumption
    | with_reducible apply keeps_ite
    | split
    | with_reducible apply keeps_withdrawCap
    | with_reducible apply keepsNext

end Sys2Proof.Machine
end

