-- ==== Sys2Proof/Laws/Lanes.lean ====
section
/-! SUPPORT. Lanes of vector registers. -/

namespace Sys2Proof.Machine
end Sys2Proof.Machine
end

