-- ==== Sys2Proof/WellFormed.lean ====
section
/-! DEFINITION. Well-formed commands: every operand that names a unit, a register or a block names one that the module has (R2, R12, R28). -/

namespace Sys2Proof

/-- A context: motif × 128 + core × 4 + context. -/
def ctxOk (x : Nat) : Bool := x < 1310720
def motifOk (m : Nat) : Bool := m < 10240
def bankOk (b : Nat) : Bool := b < 40960
def panelOk (p : Nat) : Bool := p < 4
def hfOk (h : Nat) : Bool := h < 2
def bridgeOk (b : Nat) : Bool := b < 32
def hoistOk (h : Nat) : Bool := h < 64
def channelOk (c : Nat) : Bool := c < 96
def packageOk (p : Nat) : Bool := p < 12
def portOk (p : Nat) : Bool := p < 8
/-- A priority of a fabric port. -/
def prioOk (q : Nat) : Bool := q < 8
def slotOk (j : Nat) : Bool := j < 64
/-- A PCIe function, and one of its queues. -/
def fnOk (f : Nat) : Bool := f < 16
def queueOk (q : Nat) : Bool := q < 16
/-- A result slot of a function (R378). -/
def resultOk (k : Nat) : Bool := k < 65536
/-- A quadrant of an array, or the whole of it (4). -/
def unitOk (u : Nat) : Bool := u < 5
def tableOk (n : Nat) : Bool := n < 4096
def vsnOk (v : Nat) : Bool := v < 2
def componentOk (c : Nat) : Bool := c < 8
/-- A writer: a component, function, hoist, prospector or mover that the module has. -/
def writerOk : Writer → Bool
  | .component c => componentOk c
  | .host f => fnOk f
  | .hoist h => hoistOk h
  | .prospector p => panelOk p
  | .mover d => hfOk d
  | .firmware => true
  | .dap => true
def plaitOk (i : Nat) : Bool := i < 256
/-- An entry of the request ledger: both halves (R10). -/
def ledgerOk (e : Nat) : Bool := e < 1048576
/-- A block of log flash (R472). -/
def flashOk (b : Nat) : Bool := b < 2048
/-- A register offset (R28). -/
def regOk (a : Nat) : Bool := a < 0x4000000 && a % 4 = 0
/-- A capsule: 128 bytes (R369). -/
def capsuleOk (w : List Word) : Bool := w.length = 32
/-- A signed command: 256 bytes (R407). -/
def signedOk (c : List Byte) : Bool := c.length = 256

/-- Well-formed commands. -/
def Instr.wf : Instr → Bool
  | .registerWrite w a _ => writerOk w && regOk a
  | .rcCounterRead a => regOk a
  | .latchedLoRead a => regOk a
  | .statLoRead a => regOk a
  | .canaryWindow _ => true
  | .voltageControllerRun _ _ => true
  | .hardwareClamp => true
  | .bridgeTransfer hf bridge _ _ => hfOk hf && bridgeOk bridge
  | .add x _ _ _ _ => ctxOk x
  | .sub x _ _ _ => ctxOk x
  | .and x _ _ _ => ctxOk x
  | .or x _ _ _ => ctxOk x
  | .xor x _ _ _ => ctxOk x
  | .shl x _ _ _ => ctxOk x
  | .shr x _ _ _ => ctxOk x
  | .sra x _ _ _ => ctxOk x
  | .mul x _ _ _ => ctxOk x
  | .mulh x _ _ _ => ctxOk x
  | .divu x _ _ _ => ctxOk x
  | .li x _ _ => ctxOk x
  | .lui x _ _ => ctxOk x
  | .beq x _ _ _ => ctxOk x
  | .bne x _ _ _ => ctxOk x
  | .blt x _ _ _ => ctxOk x
  | .bge x _ _ _ => ctxOk x
  | .j x _ _ => ctxOk x
  | .jl x _ _ _ => ctxOk x
  | .getcw x _ _ => ctxOk x
  | .setcw x _ _ => ctxOk x
  | .ldw x _ _ _ => ctxOk x
  | .stw x _ _ _ => ctxOk x
  | .vld x _ _ _ => ctxOk x
  | .vst x _ _ _ _ => ctxOk x
  | .ldt x _ _ _ => ctxOk x
  | .stt x _ _ _ => ctxOk x
  | .loadReturn x _ _ _ => ctxOk x
  | .storeComplete _ => true
  | .bankAccess _ _ _ _ _ => true
  | .vadd x _ _ _ _ _ => ctxOk x
  | .vsub x _ _ _ _ _ => ctxOk x
  | .vmul x _ _ _ _ _ => ctxOk x
  | .vfma x _ _ _ _ _ => ctxOk x
  | .vmax x _ _ _ _ _ => ctxOk x
  | .vmin x _ _ _ _ _ => ctxOk x
  | .vrcp x _ _ _ _ => ctxOk x
  | .vrsq x _ _ _ _ => ctxOk x
  | .vexp2 x _ _ _ _ => ctxOk x
  | .vcmp x _ _ _ _ _ _ => ctxOk x
  | .vred x _ _ _ _ _ => ctxOk x
  | .vsel x _ _ _ _ => ctxOk x
  | .vspl x _ _ _ => ctxOk x
  | .vget x _ _ _ => ctxOk x
  | .vdact x _ _ _ _ _ _ => ctxOk x
  | .vcvt x _ _ _ _ _ _ _ => ctxOk x
  | .vqnt x _ _ _ _ _ _ _ _ => ctxOk x
  | .vqntCal x _ _ _ _ _ _ _ _ => ctxOk x
  | .vdq x _ _ _ _ _ _ _ => ctxOk x
  | .mcfg x _ _ _ => ctxOk x
  | .mcfgRel x _ _ => ctxOk x
  | .arrayClaimGrant x => ctxOk x
  | .mpass x _ _ => ctxOk x
  | .mlds x _ _ _ _ => ctxOk x
  | .mldsDone motif unit => motifOk motif && unitOk unit
  | .mstr x _ _ _ _ _ => ctxOk x
  | .chunkStreamEnd motif unit _ => motifOk motif && unitOk unit
  | .mswap x _ => ctxOk x
  | .mswapEffect motif unit => motifOk motif && unitOk unit
  | .mdrn x _ _ _ _ => ctxOk x
  | .drainStart motif unit => motifOk motif && unitOk unit
  | .drainComplete motif unit => motifOk motif && unitOk unit
  | .replayDone motif unit _ => motifOk motif && unitOk unit
  | .arraySelftestDone motif unit _ => motifOk motif && unitOk unit
  | .mchk x _ _ => ctxOk x
  | .mchkSelftest x _ _ _ => ctxOk x
  | .maFootCtlWrite motif _ => motifOk motif
  | .plaitOpen entry _ => plaitOk entry
  | .plaitContribution _ => true
  | .plaitFallbackWrite _ => true
  | .plaitJoin _ _ _ => true
  | .plaitOutput entry _ => plaitOk entry
  | .plaitEntryDone entry => plaitOk entry
  | .xfer x _ _ _ => ctxOk x
  | .xferComplete motif _ _ => motifOk motif
  | .hgath x _ _ _ _ => ctxOk x
  | .hscat x _ _ _ _ => ctxOk x
  | .rowReturn hoist _ _ _ => hoistOk hoist
  | .hgathComplete hoist _ => hoistOk hoist
  | .coalStore hoist _ => hoistOk hoist
  | .hscatComplete hoist _ => hoistOk hoist
  | .wtok x _ _ _ => ctxOk x
  | .wtokPeek x _ _ => ctxOk x
  | .wtokWake _ => true
  | .stok x _ _ => ctxOk x
  | .yield x => ctxOk x
  | .spawn x _ _ => ctxOk x
  | .chain x _ _ => ctxOk x
  | .chainStageStart motif _ _ _ _ => motifOk motif
  | .chainStageComplete motif _ => motifOk motif
  | .fenceStores x _ => ctxOk x
  | .fenceCommands x => ctxOk x
  | .fenceRelease x => ctxOk x
  | .halt x => ctxOk x
  | .stepend x => ctxOk x
  | .deferredFaultReport _ => true
  | .pnJobmapWrite w a _ => writerOk w && regOk a
  | .taskDispatch x => ctxOk x
  | .autoYield x => ctxOk x
  | .serveEviction motif => motifOk motif
  | .steal x => ctxOk x
  | .sliceRequest requester _ => slotOk requester
  | .sliceTake slot _ => slotOk slot
  | .sliceWaitExpire slot => slotOk slot
  | .sliceRestore slot _ => slotOk slot
  | .sweepStart slot => slotOk slot
  | .sweepUpdateTask slot _ _ _ _ _ _ => slotOk slot
  | .sweepPhase2 slot => slotOk slot
  | .drainQuiesced slot _ _ _ _ => slotOk slot
  | .stepHang slot => slotOk slot
  | .idleCoreRotation motif _ => motifOk motif
  | .shadowRefresh _ _ _ _ _ _ => true
  | .bankHandover w bank _ => writerOk w && bankOk bank
  | .handoverComplete bank => bankOk bank
  | .bankPowerWrite bank _ => bankOk bank
  | .bankTransitionDone bank => bankOk bank
  | .bankScrubRead bank _ _ _ => bankOk bank
  | .scrubWriteback bank => bankOk bank
  | .marchStart bank _ => bankOk bank
  | .marchPreserveStart bank _ => bankOk bank
  | .marchLineDone bank _ => bankOk bank
  | .marchDone bank _ => bankOk bank
  | .ldRead slot _ _ _ _ _ => slotOk (slot.getD 0)
  | .ldWrite slot _ _ => slotOk (slot.getD 0)
  | .ldRefresh channel bank => channelOk channel && bankOk bank
  | .ldRfm channel => channelOk channel
  | .ldCalibration channel _ _ _ => channelOk channel
  | .ldScrubRead channel _ => channelOk channel
  | .ldPackageTrain package _ _ => packageOk package
  | .ldChFail channel => channelOk channel
  | .deepAccess slot _ _ _ => slotOk (slot.getD 0)
  | .deepReadCompletion _ _ => true
  | .deepTimeout _ => true
  | .tagGrant hf => hfOk hf
  | .emTselLoad _ => true
  | .emTselStore w _ => writerOk w
  | .emPublishGo w _ => writerOk w
  | .emVersionFreed table vsn => tableOk table && vsnOk vsn
  | .coalFlush slot => slotOk slot
  | .haulEpochEnd _ _ => true
  | .prospectSlotRead panel _ _ => panelOk panel
  | .prospectRetry panel _ _ => panelOk panel
  | .prospectStageRow panel _ _ => panelOk panel
  | .prospectReturn r _ => panelOk r.panel
  | .digestCompare slot _ _ => slotOk slot
  | .digestRepair slot _ _ => slotOk slot
  | .prefetchStart slot => slotOk slot
  | .microbatchStart slot => slotOk slot
  | .waitPolicyAction slot _ => slotOk slot
  | .serveReq hf => hfOk hf
  | .serveDispatch entry _ => ledgerOk entry
  | .serveRsp hf => hfOk hf
  | .data hf => hfOk hf
  | .rowReq hf _ => hfOk hf
  | .rowRsp hf => hfOk hf
  | .grad hf => hfOk hf
  | .bulk hf => hfOk hf
  | .ack hf => hfOk hf
  | .open_ hf => hfOk hf
  | .openOk hf => hfOk hf
  | .close hf => hfOk hf
  | .epochNak hf _ => hfOk hf
  | .epochReady hf _ => hfOk hf
  | .epochCommit hf _ => hfOk hf
  | .epochAdopted slot => slotOk slot
  | .peerLoss hf _ => hfOk hf
  | .peerBack hf _ => hfOk hf
  | .layoutReq hf _ => hfOk hf
  | .layout hf _ => hfOk hf
  | .retransmitTimeout _ => true
  | .ackDelayExpire _ => true
  | .requestRetryTimeout _ => true
  | .peerWaitExpire slot => slotOk slot
  | .hfCollLoad _ => true
  | .hfCollStore w _ => writerOk w
  | .frameReceive port _ => portOk port
  | .pfcFrameReceive port _ _ => portOk port
  | .pfcPauseExpire port q => portOk port && prioOk q
  | .pfcRefresh port q => portOk port && prioOk q
  | .rxBufferDrain port q => portOk port && prioOk q
  | .frameTxDone port => portOk port
  | .pauseWdTxExpire port q => portOk port && prioOk q
  | .pauseWdRxExpire port q => portOk port && prioOk q
  | .pauseHoldEnd port q _ => portOk port && prioOk q
  | .linkDown port => portOk port
  | .linkUp port => portOk port
  | .fmCtlWrite port _ _ => portOk port
  | .mmFrameReceive _ _ _ _ => true
  | .mmCollision _ => true
  | .mmBackoffExpire => true
  | .plcaBeaconLoss => true
  | .plcaBeaconResume => true
  | .wakeFrame _ _ _ _ => true
  | .configRequest fn _ => fnOk fn
  | .barAccess fn _ _ _ _ => fnOk fn
  | .apertureWriteInvalid fn _ _ => fnOk fn
  | .leaseCapsule fn queue words => fnOk fn && queueOk queue && capsuleOk words
  | .attach fn queue words => fnOk fn && queueOk queue && capsuleOk words
  | .jobLoad fn queue words _ _ _ _ => fnOk fn && queueOk queue && capsuleOk words
  | .steps fn queue words => fnOk fn && queueOk queue && capsuleOk words
  | .withdraw fn queue words => fnOk fn && queueOk queue && capsuleOk words
  | .stop fn queue words => fnOk fn && queueOk queue && capsuleOk words
  | .free fn queue words => fnOk fn && queueOk queue && capsuleOk words
  | .resume fn queue words _ => fnOk fn && queueOk queue && capsuleOk words
  | .serve fn queue words _ => fnOk fn && queueOk queue && capsuleOk words
  | .setDecl fn queue words _ _ _ => fnOk fn && queueOk queue && capsuleOk words
  | .reshard fn queue words _ => fnOk fn && queueOk queue && capsuleOk words
  | .publish fn queue words => fnOk fn && queueOk queue && capsuleOk words
  | .ringHeadWrite fn queue _ => fnOk fn && queueOk queue
  | .ringConfigWrite fn queue _ _ => fnOk fn && queueOk queue
  | .msixModTimer fn queue => fnOk fn && queueOk queue
  | .resultSlotRead fn slot _ _ => fnOk fn && resultOk slot
  | .retire fn slot _ => fnOk fn && resultOk slot
  | .resultStore entry _ => ledgerOk entry
  | .leaseExpiry fn => fnOk fn
  | .d3hotWrite fn => fnOk fn
  | .functionLevelReset fn => fnOk fn
  | .busMasterDisable fn => fnOk fn
  | .componentMessage component _ _ => componentOk component
  | .componentRestart component _ _ _ _ _ => componentOk component
  | .watchdog component _ _ _ _ => componentOk component
  | .dhcpRetry => true
  | .tftpBlockTimeout _ => true
  | .tftpBlock _ _ _ _ _ => true
  | .goodImageCopy => true
  | .stage _ => true
  | .activate => true
  | .shiftHoldExpire => true
  | .shiftPauseBegin => true
  | .shiftReady => true
  | .shiftRollback component => componentOk component
  | .sample component _ _ _ => componentOk component
  | .ident _ _ => true
  | .status _ _ => true
  | .nonce _ _ => true
  | .mgmtStage _ _ _ _ => true
  | .mgmtActivate _ _ _ => true
  | .sampleList _ _ => true
  | .sampleRead _ _ => true
  | .debug cmd => signedOk cmd
  | .lcAdvance cmd => signedOk cmd
  | .ownerKey cmd => signedOk cmd
  | .svnMin cmd => signedOk cmd
  | .vendorRevoke cmd => signedOk cmd
  | .nonceNew => true
  | .quoteGo _ => true
  | .extend _ => true
  | .debugLevelWrite _ => true
  | .debugDurationExpire => true
  | .extest _ _ => true
  | .samplePreload _ _ => true
  | .idcode => true
  | .intest _ _ => true
  | .clamp => true
  | .highz => true
  | .dap => true
  | .bypass _ => true
  | .pwReqActive _ => true
  | .pwReqLean _ => true
  | .panelParked panel => panelOk panel
  | .panelUnparked panel => panelOk panel
  | .pwReqDoze _ _ => true
  | .dozeWake _ => true
  | .pwReqStandby _ => true
  | .standbyExit => true
  | .powerOn _ => true
  | .strapSample slot _ _ => slotOk slot
  | .headframeRailsUp _ => true
  | .perstRelease _ _ => true
  | .perstAssert => true
  | .s2Entry => true
  | .panelRepair panel _ _ _ _ _ _ _ _ => panelOk panel
  | .passCalibration _ => true
  | .powerFail => true
  | .overvoltageShutdown => true
  | .breakerTrip => true
  | .powerRemoved => true
  | .vinRange _ => true
  | .tempWarn _ => true
  | .thermThrottle _ => true
  | .throttleRelease _ => true
  | .thermTrip => true
  | .eventRecord _ => true
  | .coreStallFence x => ctxOk x
  | .flashBlockFail block => flashOk block
  | .flashEraseSuspend block => flashOk block
  | .unassignedInstruction x _ _ => ctxOk x
  | .badOpcodeCapsule fn queue words => fnOk fn && queueOk queue && capsuleOk words
  | .signedCommandBadOp cmd => signedOk cmd
  | .pmeTurnOff => true
  | .pmeTurnOffTimeout => true
  | .coldStartWaitEnd => true
  | .tripCooldownEnd => true
  | .testLogicReset => true
  | .mmFrameTxDone _ => true
  | .logFlashWriteDone => true
  | .logFlashEraseDone block => flashOk block

end Sys2Proof
end

