-- ==== Sys2Proof/Tests/Slice0.lean ====
section
/-! SUPPORT. The writer's own tests: ill-formed commands refused, small steps against the spec, and states that meet each statement's hypotheses. -/

namespace Sys2Proof.Tests

open Sys2Proof Sys2Proof.Machine

set_option Elab.async false

/-! ### Ill-formed commands: one for each check -/

theorem test_wf_context : Instr.wf (.halt 1310719) = true ∧ Instr.wf (.halt 1310720) = false := by decide
theorem test_wf_motif : Instr.wf (.serveEviction 10240) = false := by decide
theorem test_wf_bank : Instr.wf (.scrubWriteback 40960) = false := by decide
theorem test_wf_panel : Instr.wf (.panelParked 4) = false := by decide
theorem test_wf_headframe : Instr.wf (.tagGrant 2) = false := by decide
theorem test_wf_bridge : Instr.wf (.bridgeTransfer 0 32 true none) = false := by decide
theorem test_wf_hoist : Instr.wf (.coalStore 64 0) = false := by decide
theorem test_wf_channel : Instr.wf (.ldRfm 96) = false := by decide
theorem test_wf_package : Instr.wf (.ldPackageTrain 12 32 []) = false := by decide
theorem test_wf_port : Instr.wf (.linkUp 8) = false := by decide
theorem test_wf_priority : Instr.wf (.pfcRefresh 0 8) = false := by decide
theorem test_wf_slot : Instr.wf (.coalFlush 64) = false := by decide
theorem test_wf_function : Instr.wf (.leaseExpiry 16) = false := by decide
theorem test_wf_queue : Instr.wf (.msixModTimer 0 16) = false := by decide
theorem test_wf_result : Instr.wf (.retire 0 65536 0#32) = false := by decide
theorem test_wf_unit : Instr.wf (.mswapEffect 0 5) = false := by decide
theorem test_wf_table : Instr.wf (.emVersionFreed 4096 0) = false := by decide
theorem test_wf_version : Instr.wf (.emVersionFreed 0 2) = false := by decide
theorem test_wf_component : Instr.wf (.shiftRollback 8) = false := by decide
theorem test_wf_writer : Instr.wf (.registerWrite (.host 16) 0 0#32) = false := by decide
theorem test_wf_plait : Instr.wf (.plaitOpen 256 0#32) = false := by decide
theorem test_wf_ledger : Instr.wf (.serveDispatch 1048576 []) = false := by decide
theorem test_wf_flash : Instr.wf (.flashBlockFail 2048) = false := by decide
theorem test_wf_register : Instr.wf (.rcCounterRead 0x4000000) = false ∧ Instr.wf (.rcCounterRead 2) = false := by decide
theorem test_wf_capsule : Instr.wf (.leaseCapsule 0 0 []) = false := by decide
theorem test_wf_signed : Instr.wf (.debug []) = false := by decide

/-! ### A core with one task -/

/-- Context 0 holds task t as slot 0's task 1, ready, with the first line of its code in the fetch buffer. -/
def holding (s : State) (t : Task) : State :=
  { s.wr (Reg.PN_JOBMAP_CTL 0) 0x1002000#32 with
    tasks := [(1, t)], ctx := [(0, { phase := .ready, task := some 1 })], cores := [(0, { fetch := [(0, 0)] })] }

/-- Task 1 of slot 0 at address 0, with no register written. -/
def plain : Task := { serial := 1, started := true }

/-- In such a state every instruction of either size issues, whatever registers it reads. -/
theorem holding_issues (s : State) (t : Task) (bytes : Nat) (reads : List LoadDst) (hd : s.deferred = []) (h1 : t.slot = 0) (h2 : t.pc = 0#32)
    (h3 : t.wait = .none) (h4 : t.loads = []) (h5 : t.poisonS = [] ∧ t.poisonV = [] ∧ t.poisonT = []) (hb : bytes = 4 ∨ bytes = 8) :
    Issues (holding s t) 0 bytes reads 1 (holding s t) := by
  have ht : (holding s t).task 1 = t := rfl
  refine ⟨rfl, .inl rfl, rfl, ?_, ?_, ?_, ?_, ?_⟩
  · rw [ht, h3]
  · intro d h; rw [show (holding s t).deferred = [] from hd] at h; cases h
  · have hr : ((holding s t).rd (Reg.PN_JOBMAP_CTL 0)) = 0x1002000#32 := by
      show (s.wr (Reg.PN_JOBMAP_CTL 0) 0x1002000#32).rd (Reg.PN_JOBMAP_CTL 0) = _
      exact State.rd_wr_self ..
    have hc : ((holding s t).core (0 / 4)).fetch = [(0, 0)] := rfl
    rw [ht, h1, h2]
    unfold State.fetch
    simp only [State.fld, hr, hc]
    rcases hb with rfl | rfl <;> rfl
  · intro r _; rw [ht]; simp [Task.pendingIn, h4]
  · intro r _; rw [ht]
    cases r <;> simp [Task.poisoned, h5]

/-- From reset, task 1 alone. -/
def base : State := holding State.reset plain

theorem base_issues (bytes : Nat) (reads : List LoadDst) (hb : bytes = 4 ∨ bytes = 8) : Issues base 0 bytes reads 1 base :=
  holding_issues _ _ _ _ rfl rfl rfl rfl rfl ⟨rfl, rfl, rfl⟩ hb

/-! ### Core instructions -/

/-- The state after a command. -/
def after (c : Instr) (s : State) : State :=
  match exec c s with
  | .next t => t
  | .fault _ => s
  | .refused _ => s

/-- Register s[r] of task 1 after a command from s. -/
def sAfter (c : Instr) (s : State) (r : Nat) : Word := ((after c s).task 1).sreg r

/-- Task 1 with s1 = 7 and s2 = −2. -/
def two : Task := { plain with s := [(1, 7#32), (2, 0xFFFFFFFE#32)] }
def pair : State := holding State.reset two

theorem meets_ScalarSumsAndLogic (a : SReg) (b : Src) : Issues base 0 (srcBytes b) (sregs [a.val] ++ srcReads b) 1 base :=
  base_issues _ _ (by rcases b with r | (i | i) <;> simp [srcBytes, immBytes])
theorem meets_ScalarDifferenceAndProducts (a b : SReg) : Issues base 0 4 (sregs [a.val, b.val]) 1 base := base_issues _ _ (.inl rfl)
theorem meets_ScalarShifts (a : SReg) (n : ShAmt) : Issues base 0 4 (sregs [a.val] ++ amountReads n) 1 base := base_issues _ _ (.inl rfl)
theorem meets_ScalarConstants (i : Imm) : Issues base 0 (immBytes i) [] 1 base ∧ Issues base 0 4 [] 1 base :=
  ⟨base_issues _ _ (by cases i <;> simp [immBytes]), base_issues _ _ (.inl rfl)⟩
theorem meets_BranchesAndJumps (a b : SReg) : badTarget (.short 0x400#11) = false ∧ badTarget (.long 4#32) = false ∧
    Issues base 0 (immBytes (.short 0x400#11)) (sregs [a.val, b.val]) 1 base ∧ Issues base 0 (immBytes (.long 4#32)) (sregs [a.val]) 1 base :=
  ⟨rfl, rfl, base_issues _ _ (.inl rfl), base_issues _ _ (.inr rfl)⟩
theorem meets_ControlWords (a : SReg) : cwExists 0 = true ∧ cwExists 0x46 = true ∧ Issues base 0 4 [] 1 base ∧ Issues base 0 4 (sregs [a.val]) 1 base :=
  ⟨rfl, rfl, base_issues _ _ (.inl rfl), base_issues _ _ (.inl rfl)⟩

theorem test_add_immediate : sAfter (.add 0 3 2 (.imm (.short 0x7FF#11)) false) pair 3 = 0xFFFFFFFD#32 := by decide +kernel
theorem test_sub_wraps : sAfter (.sub 0 3 1 2) pair 3 = 9#32 := by decide +kernel
theorem test_and_or_xor : sAfter (.and 0 3 1 (.reg 2)) pair 3 = 6#32 ∧ sAfter (.or 0 3 1 (.reg 2)) pair 3 = 0xFFFFFFFF#32 ∧
    sAfter (.xor 0 3 1 (.reg 2)) pair 3 = 0xFFFFFFF9#32 := by decide +kernel
theorem test_shifts : sAfter (.shl 0 3 2 (.const 4)) pair 3 = 0xFFFFFFE0#32 ∧ sAfter (.shr 0 3 2 (.const 31)) pair 3 = 1#32 ∧
    sAfter (.sra 0 3 2 (.reg 1)) pair 3 = 0xFFFFFFFF#32 := by decide +kernel
theorem test_products : sAfter (.mul 0 3 1 2) pair 3 = 0xFFFFFFF2#32 ∧ sAfter (.mulh 0 3 1 2) pair 3 = 0xFFFFFFFF#32 := by decide +kernel
theorem test_divu : sAfter (.divu 0 3 2 1) pair 3 = 0x24924924#32 ∧ sAfter (.divu 0 3 2 0) pair 3 = 0xFFFFFFFF#32 := by decide +kernel
theorem test_constants : sAfter (.li 0 3 (.short 0x7FF#11)) pair 3 = 0xFFFFFFFF#32 ∧ sAfter (.lui 0 3 1#11) pair 3 = 0x200000#32 ∧
    sAfter (.li 0 0 (.short 1#11)) pair 0 = 0#32 := by decide +kernel
theorem test_branch : ((after (.blt 0 2 1 (.short 2#11)) pair).task 1).pc = 8#32 ∧ ((after (.bge 0 2 1 (.short 2#11)) pair).task 1).pc = 4#32 := by decide +kernel
theorem test_jump_and_link : ((after (.jl 0 3 1 (.long 0x100#32)) pair).task 1).pc = 0x107#32 ∧ sAfter (.jl 0 3 1 (.long 0x100#32)) pair 3 = 8#32 := by decide +kernel
theorem test_sticky_flags : ((after (.setcw 0 0#11 1) (holding State.reset { two with arith := 0xFF0#32, s := [(1, 0x11#32)] })).task 1).arith = 0xFE1#32 := by decide +kernel

/-! ### Loads, stores and ports -/

/-- The module at S5, awake, with every panel's rail at 750 mV. -/
def s5 : State := { ([0, 1, 2, 3].foldl (fun s p => s.wr (Reg.PW_PANEL p) 0x2EE0000#32) State.reset).wr Reg.PC_BOOT 5#32 with
  power := { State.reset.power with perst := false, s1 := true } }

/-- Banks enabled for slot 0 over all of bank memory; bank 0 is on and the slot's. -/
def mapped : State := ((s5.wr (Reg.PN_JOBMAP_BANK_LIMIT 0) 0xF0000000#32).wr (Reg.BK_OWNER 0) 1#32).wr (Reg.BK_POWER 0) 0#32
def mem0 : State := holding mapped plain
/-- With eight loads outstanding. -/
def full : Task := { plain with loads := (List.range 8).map (fun i => ⟨.s (i + 8), i, 0x60000, 4, [], 0, false⟩) }

theorem meets_LoadsFromOwnMemory_window (a : SReg) : Issues mem0 0 4 (sregs [a.val]) 1 mem0 ∧ spaceOf (.short 0 31#9) = 0 ∧
    (0 : Int) ≤ (plain.sreg 1).toInt + (offsetOf 4 (.short 0 31#9)).toInt ∧ (plain.sreg 1).toInt + (offsetOf 4 (.short 0 31#9)).toInt + 4 ≤ 128 :=
  ⟨holding_issues _ _ _ _ rfl rfl rfl rfl rfl ⟨rfl, rfl, rfl⟩ (.inl rfl), by decide +kernel⟩
theorem meets_LoadsFromOwnMemory_away : spaceOf (.long 1 0x60000#32) ≠ 0 ∧ mem0.protect 0 (plain.devAddr 1 4 (.long 1 0x60000#32)) 4 false = none ∧
    inOwnBanks (motifOf 0) (plain.devAddr 1 4 (.long 1 0x60000#32)) 4 = false ∧ plain.loads.length < 8 ∧ 8 ≤ full.loads.length := by decide +kernel
theorem meets_LoadsFromOwnMemory_full : Issues (holding mapped full) 0 8 (sregs [1]) 1 (holding mapped full) where
  task := rfl
  phase := .inl rfl
  turn := rfl
  waits := rfl
  noFault := fun _ h => by cases h
  fetch := rfl
  loads := by decide +kernel
  poison := by decide +kernel
theorem meets_LoadsFromOwnBanks (a : SReg) : Issues mem0 0 8 (sregs [a.val]) 1 mem0 ∧ mem0.protect 0 (plain.devAddr 1 64 (.long 1 0x17FE0#32)) 64 false = none ∧
    inOwnBanks (motifOf 0) (plain.devAddr 1 64 (.long 1 0x17FE0#32)) 64 = true ∧
    mem0.partsReady false (mem0.checkParts (jobAgent 0) false (plain.devAddr 1 64 (.long 1 0x17FE0#32)) 64) = true :=
  ⟨holding_issues _ _ _ _ rfl rfl rfl rfl rfl ⟨rfl, rfl, rfl⟩ (.inr rfl), by decide +kernel⟩
theorem meets_StoresIssue (reads : List LoadDst) : Issues mem0 0 4 reads 1 mem0 ∧ Issues mem0 0 8 reads 1 mem0 ∧
    mem0.protect 0 (plain.devAddr 1 64 (.long 1 0x100#32)) 64 true = none :=
  ⟨holding_issues _ _ _ _ rfl rfl rfl rfl rfl ⟨rfl, rfl, rfl⟩ (.inl rfl), holding_issues _ _ _ _ rfl rfl rfl rfl rfl ⟨rfl, rfl, rfl⟩ (.inr rfl), by decide +kernel⟩

/-- One load outstanding from bank 0, and one store posted there. -/
def inFlight : State :=
  { holding mapped { plain with loads := [⟨.s 5, 1, 0x100, 4, [(0x100, 4, true)], 0, false⟩] } with posted := [⟨2, 1, 0, [(0x200, 0xAB#8), (0x201, 0xCD#8)]⟩], tick := 3 }

theorem test_load_return : ((after (.loadReturn 0 0 [] false) inFlight).task 1).loads = [] ∧ (((after (.loadReturn 0 0 [] false) inFlight).context 0).phase = .ready) := by decide +kernel

theorem test_store_lands : (after (.storeComplete 2) inFlight).byte 0x201 = 0xCD#8 ∧ (after (.storeComplete 2) inFlight).posted = [] := by decide +kernel
theorem test_private_store : ((after (.stw 0 2 1 (.short 0 1#9)) pair).task 1).priv.get 0#8 11 = 0xFE#8 := by decide +kernel
theorem meets_LoadsReturnStoresLand : (inFlight.context 0).task = some 1 ∧ (inFlight.task 1).loads[0]? = some ⟨.s 5, 1, 0x100, 4, [(0x100, 4, true)], 0, false⟩ ∧
    inFlight.mayReturn 1 ⟨.s 5, 1, 0x100, 4, [(0x100, 4, true)], 0, false⟩ = true ∧ inFlight.partsReady false [(0x100, 4, true)] = true ∧
    inFlight.posted.find? (fun q => q.id = 2) = some ⟨2, 1, 0, [(0x200, 0xAB#8), (0x201, 0xCD#8)]⟩ ∧
    inFlight.mayLand ⟨2, 1, 0, [(0x200, 0xAB#8), (0x201, 0xCD#8)]⟩ = true ∧ inFlight.transactions true 0x200 2 = [] ∧ inFlight.tagWaits (.store 2) = false ∧
    inFlight.spanReady .outside true 0x200 2 = true := by decide +kernel

/-- No bank of that state is in handover, or on its way out of ON, since an access of any age. -/
theorem meets_LoadsReturnStoresLand_settled (age b : Nat) : inFlight.underHandover age b = false ∧ inFlight.underSleep age b = false := by
  have h : inFlight.bank b = {} := rfl
  simp [State.underHandover, State.underSleep, h]

theorem meets_BankAccessServed : mem0.served 0 = .yes ∧ (∀ i, i < 64 → mem0.mark (64 + i) = 0) ∧ (mem0.bank 0).scrubRead = none ∧
    mem0.ownerOk 0 (.owner 1 0) false = true ∧ mem0.ownerOk 0 (.owner 1 1) false = false := by decide +kernel
theorem test_port_write : (after (.bankAccess ⟨.owner 1 0, 0, false⟩ 0x3E 2 (some [1#8, 2#8]) []) mem0).byte 0x3F = 2#8 := by decide +kernel
theorem test_port_refuses : (after (.bankAccess ⟨.owner 1 1, 0, false⟩ 0x3E 2 (some [1#8, 2#8]) []) mem0).byte 0x3F = 0#8 ∧
    (after (.bankAccess ⟨.owner 1 1, 0, false⟩ 0x3E 2 (some [1#8, 2#8]) []) mem0).bit (Reg.BK_STATUS 0) 0 = true := by decide +kernel

/-! ### Vectors, tokens, fences and tasks -/

theorem meets_LanesOfVectorResults : active 0xF1#8 0 = true ∧ active 0xF1#8 1 = false := by decide +kernel
theorem meets_VectorArithmetic (reads : List LoadDst) : laneFmt 0#2 = some .b32 ∧ laneFmt 2#2 = some .i32 ∧ Issues base 0 4 reads 1 base :=
  ⟨rfl, rfl, base_issues _ _ (.inl rfl)⟩
theorem meets_VectorComparesAndMoves (reads : List LoadDst) : laneFmt 1#2 = some .b16 ∧ (4#3).toNat ≤ 4 ∧ (2#2).toNat ≠ 3 ∧ Issues base 0 4 reads 1 base :=
  ⟨rfl, by decide +kernel, by decide +kernel, base_issues _ _ (.inl rfl)⟩
theorem meets_VectorDerivativesAndConversions (reads : List LoadDst) : (1#2).toNat ≤ 1 ∧ (6#6).toNat ≤ 6 ∧ Fmt.ofCode (3#4).toNat = some .g8a ∧
    Fmt.ofCode (0#4).toNat = some .b32 ∧ (3#3).toNat < partsOf .g8a ∧ Fmt.b32.isLane ∧ Issues base 0 4 reads 1 base :=
  ⟨by decide +kernel, by decide +kernel, rfl, rfl, by decide +kernel, by decide +kernel, base_issues _ _ (.inl rfl)⟩

/-- Slot 0 owns the first scale windows and the first token window of motif 0. -/
def owning : State := holding ((s5.wr (Reg.MT_SRF_OWNER 0 0) 0x40#32).wr (Reg.MT_TOK_OWNER 0 0) 0x40#32) { plain with p := [(1, 0x03#8)], s := [(1, 7#32)] }
/-- Both entries hold a scale. -/
def scaled : State := (owning.setScale 0 0 0x3C00#32).setScale 0 1 0x3C00#32
theorem owning_issues (reads : List LoadDst) : Issues owning 0 4 reads 1 owning := holding_issues _ _ _ _ rfl rfl rfl rfl rfl ⟨rfl, rfl, rfl⟩ (.inl rfl)
theorem scaled_issues (reads : List LoadDst) : Issues scaled 0 4 reads 1 scaled :=
  holding_issues ((((s5.wr (Reg.MT_SRF_OWNER 0 0) 0x40#32).wr (Reg.MT_TOK_OWNER 0 0) 0x40#32).setScale 0 0 0x3C00#32).setScale 0 1 0x3C00#32) _ _ _
    rfl rfl rfl rfl rfl ⟨rfl, rfl, rfl⟩ (.inl rfl)
theorem meets_Quantisation (reads : List LoadDst) : Issues scaled 0 4 reads 1 scaled ∧ (3#3).toNat < partsOf (quantFmt 0#2) ∧
    (∀ l ∈ activeLanes ((scaled.task 1).preg 1), scaled.ownsScale 0 (motifOf 0) l = true ∧ scaleValid (quantFmt 0#2) (scaled.scale (motifOf 0) l) = true) :=
  ⟨scaled_issues _, by decide +kernel, by decide +kernel⟩
theorem test_scale_of_another : owning.ownsScale 1 0 0 = false := by decide +kernel

theorem meets_TokensTakeAndAdd (reads : List LoadDst) : owning.tokenReach 0 7#32 = true ∧ Issues owning 0 4 reads 1 owning ∧ (owning.token 7).waiters = [] ∧
    (owning.token 7).count < (1#8).toNat ∧ (owning.setToken 7 { count := 3 }).tokenReach 0 7#32 = true ∧ (1#8).toNat ≤ ((owning.setToken 7 { count := 3 }).token 7).count :=
  ⟨by decide +kernel, owning_issues _, by decide +kernel⟩
theorem test_stok_saturates : ((after (.stok 0 1 0xFF#8) (owning.setToken 7 { count := 3 })).token 7) = { count := 255, sat := true } := by decide +kernel
theorem test_wtok_reads_flags : sAfter (.wtok 0 3 1 2#8) (owning.setToken 7 { count := 3, err := true }) 3 = 0x101#32 := by decide +kernel

/-- Task 1 waits on token 7 for 2, into s3. -/
def waiting : State := (holding s5 { plain with wait := .token 7 2 3 }).setToken 7 { count := 5, waiters := [1] }
theorem meets_TokenWakeServesFirstWaiter : (waiting.token 7).waiters = [1] ∧ (waiting.task 1).wait = .token 7 2 3 ∧ waiting.ctxOfTask 1 = some 0 ∧
    2 ≤ (waiting.token 7).count := by decide +kernel
theorem test_wake : sAfter (.wtokWake 7) waiting 3 = 3#32 ∧ ((after (.wtokWake 7) waiting).token 7).waiters = [] := by decide +kernel

theorem meets_FencesAndEnds : Issues base 0 4 [] 1 base ∧ (∀ p ∈ base.posted, p.key ≠ 1) ∧ (base.task 1).cmds = [] ∧
    (∀ e ∈ base.engines, e.2.owner = some 1 → e.2.quiet = true) := ⟨base_issues _ _ (.inl rfl), by decide +kernel⟩
theorem meets_FencesAndEnds_waiting : ¬ (∀ p ∈ inFlight.posted, p.key ≠ 1) ∧
    ((holding s5 { plain with wait := .fence true true }).task 1).wait = .fence true true ∧ (holding s5 { plain with wait := .fence true true }).fenceMet 1 true true = true ∧
    (holding s5 { plain with wait := .halt false }).haltMet 1 = true := by decide +kernel

/-- A save area of two records for slot 0, and motif 0 listed by it. -/
def saving : State := holding ((s5.wr (Reg.PN_JOB_SAVE_SLOTS 0) 2#32).wr (Reg.MT_JOBS 0) 0x40#32) plain
theorem saving_issues (reads : List LoadDst) : Issues saving 0 4 reads 1 saving := holding_issues _ _ _ _ rfl rfl rfl rfl rfl ⟨rfl, rfl, rfl⟩ (.inl rfl)
theorem meets_YieldAndSpawn (reads : List LoadDst) : Issues saving 0 4 reads 1 saving ∧ saving.freeRec 0 = some 0 ∧ saving.queueFull 0 = false ∧ base.freeRec 0 = none :=
  ⟨saving_issues _, by decide +kernel⟩

def info1 : CmdInfo := { id := 9, key := 1, ctx := 0, pc := 0, w0 := 0, w1 := 0, token := none, tid := 0 }
/-- Task 1's command has reported a fault; in the second state the task has ended. -/
def reported : State := { holding s5 plain with deferred := [⟨.CHAIN_STOP, info1, 0, 0⟩] }
def reportedEnded : State := { s5 with deferred := [⟨.CHAIN_STOP, info1, 0, 0⟩], ended := [(1, some ⟨0, none⟩)] }
theorem meets_DeferredFaultTaken : reported.deferred[0]? = some ⟨.CHAIN_STOP, info1, 0, 0⟩ ∧ reported.alive 1 = true ∧ (reported.task 1).wait = .none ∧
    reported.ctxOfTask 1 = some 0 ∧ reportedEnded.alive 1 = false ∧ reportedEnded.ended.get none 1 = some ⟨0, none⟩ := by decide +kernel

/-! ### The words of instructions -/

/-- The example of R134's table: VFMA v3, v1, v2, p2, f32 is 0x88611203, its fields written out. -/
theorem test_vfma_word : wordInstr 0 0x88611203 0 = some (.vfma 0 3 1 2 0#2 2) ∧ legalWords 0x88611203 0 = true := by decide +kernel
/-- LI s5, 0x00012345: 0x3F in bits 31 to 26, d 5, base opcode 8 in bits 10 to 5. -/
theorem test_li_long_word : wordInstr 0 0xFCA00100 0x00012345 = some (.li 0 5 (.long 0x12345#32)) := by decide +kernel
/-- LDW s3, [s4 + 2 × 4] in space 1: 0x0A, d 3, a 4, space in bits 10 to 9, offset 2. -/
theorem test_ldw_word : wordInstr 0 0x28640202 0 = some (.ldw 0 3 4 (.short 1 2#9)) := by decide +kernel
/-- MLDS t2, s5 of quadrant 3: 0x32, a 2, b 5, the quadrant in bits 2 to 1. -/
theorem test_mlds_word : wordInstr 0 0xC8022806 0 = some (.mlds 0 2 5 false 3) := by decide +kernel
theorem test_illegal_word : wordInstr 0 0 0 = none ∧ wordInstr 0 0x0400000A 0 = none := by decide +kernel
theorem meets_InstructionWords : instrWords (.vfma 0 3 1 2 0#2 2) = some (0, { w0 := 0x88611203 }) ∧ legalWords 0x88611203 0 = true ∧ legalWords 0 0 = false := by decide +kernel

/-! ### Matrix arrays -/

/-- A plain 4 × 4 view of binary32 rows, 16 bytes apart, at `base`. -/
def tile (base : Nat) : Nat := base + (4 + 4 * 2 ^ 16) * 2 ^ 64 + 2 ^ 96 + 16 * 2 ^ 128
/-- Quadrant 0 alone, binary32 throughout, one pass. -/
def cfg0 : Nat := 0x5000
/-- Task 1 with cfg0 in s1, an offset of 0 in s2 and the tile at 0x100 in t1. -/
def matrixTask : Task := { plain with s := [(1, 0x5000#32), (4, 0#32)], t := [(1, BitVec.ofNat 512 (tile 0x100))] }
/-- The array of motif 0 free, and that task at context 0. -/
def freeArray : State := holding mapped matrixTask
/-- Quadrant 0 held by `who`, as the engine `e` says. -/
def heldArray (e : Engine) (who : Nat) : State := holding (mapped.setEngine 0 0 { e with owner := some who, cfg := cfg0 }) matrixTask

theorem freeArray_issues (reads : List LoadDst) : Issues freeArray 0 4 reads 1 freeArray := holding_issues _ _ _ _ rfl rfl rfl rfl rfl ⟨rfl, rfl, rfl⟩ (.inl rfl)
theorem heldArray_issues (e : Engine) (who : Nat) (reads : List LoadDst) : Issues (heldArray e who) 0 4 reads 1 (heldArray e who) :=
  holding_issues _ _ _ _ rfl rfl rfl rfl rfl ⟨rfl, rfl, rfl⟩ (.inl rfl)

theorem meets_ArrayClaims (reads : List LoadDst) : Issues freeArray 0 4 reads 1 freeArray ∧ (matrixTask.sreg 1).toNat = cfg0 ∧ mcfgUnit true 0 = 0 ∧
    freeArray.heldByOther 0 0 1 = false ∧ freeArray.queueFill 0 < arrayLimit ∧ freeArray.cfgBad cfg0 0 = false ∧
    (∀ v, v < 5 → (freeArray.engine 0 v).owner ≠ some 1) ∧ neededQuads 0 cfg0 &&& freeArray.fld (Reg.MA_FENCE 0) 0 4 = 0 :=
  ⟨freeArray_issues _, by decide +kernel⟩
theorem meets_ArrayClaims_held (reads : List LoadDst) : Issues (heldArray {} 2) 0 4 reads 1 (heldArray {} 2) ∧ (heldArray {} 2).heldByOther 0 0 1 = true ∧
    (heldArray {} 2).ownInTheWay 0 0 1 = false := ⟨heldArray_issues _ _ _, by decide +kernel⟩
theorem meets_ArrayClaims_release : ((heldArray {} 1).engine 0 0).owner = some 1 ∧ ((heldArray {} 1).engine 0 0).quiet = true ∧
    ((heldArray {} 1).engine 0 0).holdsData = false := by decide +kernel
/-- A task that waits to claim quadrant 0. -/
def claiming (s : State) : State := holding s { matrixTask with wait := .claim cfg0 0 }
theorem meets_ArrayClaims_grant : ((claiming mapped).context 0).task = some 1 ∧ ((claiming mapped).task 1).wait = .claim cfg0 0 ∧ (claiming mapped).heldByOther 0 0 1 = false ∧
    (∀ w, w < 5 ∨ w = 0 → ((claiming mapped).engine 0 w).owner ≠ some 1) ∧ (claiming (mapped.setEngine 0 0 { owner := some 2 })).heldByOther 0 0 1 = true := by
  refine ⟨rfl, rfl, by decide +kernel, fun w h => ?_, by decide +kernel⟩
  have hw : w < 5 := by omega
  exact (show ∀ w, w < 5 → ((claiming mapped).engine 0 w).owner ≠ some 1 by decide +kernel) w hw
theorem test_claim : ((after (.mcfg 0 1 true 0) freeArray).engine 0 0).owner = some 1 ∧ ((after (.mcfg 0 1 true 0) (heldArray {} 2)).context 0).phase = .waitArray := by decide +kernel

theorem meets_ArrayCommandsQueue (reads : List LoadDst) : Issues (heldArray {} 1) 0 4 reads 1 (heldArray {} 1) ∧ (heldArray {} 1).unitOf 0 1 0 = some 0 ∧
    neededQuads 0 ((heldArray {} 1).engine 0 0).cfgNext &&& (heldArray {} 1).fld (Reg.MA_FENCE 0) 0 4 = 0 ∧ (heldArray {} 1).queueFill 0 < arrayLimit ∧
    (heldArray {} 1).fullService = true ∧ ((heldArray {} 1).engine 0 0).undrained = false :=
  ⟨heldArray_issues _ _ _, by decide +kernel⟩
theorem meets_ArrayCommandsQueue_views : let d := Desc.shifted ⟨(matrixTask.treg 1).toNat⟩ (matrixTask.sreg 4)
    (heldArray { loadQueued := true } 1).sourceFault 0 0 d = none ∧ wrongView d (cfgA cfg0) = false ∧ d.ext1 ≤ unitRows 0 cfg0 ∧ d.ext0 ≤ unitCols 0 cfg0 ∧
      60 + d.ext1 = setColumns 0 ∧ ((heldArray { loadQueued := true } 1).engine 0 0).loadQueued = true := by decide +kernel
/-- Quadrant 0 with a swap queued and no drain behind it. -/
def swapped : Engine := { queue := [.mswap info1], loadQueued := true }
theorem meets_ArrayCommandsQueue_drain : bitsOf (0#9).toNat 6 2 = 0 ∧
    (heldArray swapped 1).mdrnFault 0 0 0 (Desc.flat ⟨(matrixTask.treg 1).toNat⟩) (matrixTask.sreg 4).toNat 0 = none ∧
    (heldArray swapped 1).mdrnRefusal 0 0 (Desc.flat ⟨(matrixTask.treg 1).toNat⟩) (matrixTask.sreg 4).toNat 0 = none := by decide +kernel
theorem test_mswap_twice : ((after (.mswap 0 0) (heldArray swapped 1)).deferred.map (·.code)) = [.MA_ORDER] := by decide +kernel

/-- The whole array of motif 0 held by task 1, idle. -/
def wholeArray : State := holding (mapped.setEngine 0 4 { owner := some 1 }) matrixTask
theorem meets_ArrayChecks (reads : List LoadDst) : Issues wholeArray 0 4 reads 1 wholeArray ∧ wholeArray.unitOf 0 1 0 = some 4 ∧
    (wholeArray.engine 0 4).quiet = true ∧ (wholeArray.engine 0 4).idleSets = true := ⟨holding_issues _ _ _ _ rfl rfl rfl rfl rfl ⟨rfl, rfl, rfl⟩ (.inl rfl), by decide +kernel⟩
theorem test_selftest_fences : (after (.mchkSelftest 0 3 0 [(0, 0)]) wholeArray).fld (Reg.MA_FENCE 0) 0 4 = 1 := by decide +kernel
theorem test_foot_tolerance : (after (.maFootCtlWrite 0 0x23#32) wholeArray).fld (Reg.MA_FOOT_CTL 0) 0 8 = 0x24 := by decide +kernel

def load1 : MCmd := .mlds info1 (tile 0x100) false
def stream1 : MCmd := .mstr info1 (tile 0x100) false 0
def accSet : SetSt := { phase := .accumulating }
theorem meets_ArrayEngineSteps_load : splitLoad [load1] = some ([], load1, []) ∧ loadMayRun .b32 [] = true ∧
    (heldArray { queue := [load1] } 1).sourceReady load1 = true ∧ loadMayRun .b32 [.chunk false] = true ∧ loadMayRun .b32 [.chunk false, stream1] = false := by decide +kernel
theorem meets_ArrayEngineSteps_stream : splitStreams [stream1, .mswap info1] = ([stream1], [.mswap info1]) ∧
    (heldArray { queue := [.chunk false, stream1], set0 := accSet } 1).sourceReady stream1 = true ∧
    (({ set0 := accSet } : Engine).set false).phase = .accumulating ∧ ({} : Engine).drain ≠ .replaying ∧ ({} : Engine).drain ≠ .selftest := by decide +kernel
theorem meets_ArrayEngineSteps_swap : ((({ set0 := accSet } : Engine).set true).phase = .empty) ∧ (({ set0 := accSet } : Engine).set false).phase ≠ .empty ∧
    (({ set0 := accSet, set1 := { phase := .draining } } : Engine).set true).phase ≠ .empty := by decide +kernel
theorem test_swap : ((after (.mswapEffect 0 0) (heldArray { queue := [.mswap info1], set0 := accSet } 1)).engine 0 0).set0.phase = .draining ∧
    ((after (.mswapEffect 0 0) (heldArray { queue := [.mswap info1], set0 := accSet } 1)).engine 0 0).active = true := by decide +kernel

def drain1 : MCmd := .mdrn info1 (tile 0x100) 0 0 0 false
def draining : Engine := { active := true, set0 := { phase := .draining } }
theorem meets_DrainsAndReplays : (draining.set draining.drainSet).phase = .draining ∧ draining.drain = .idle ∧
    (heldArray { draining with queue := [drain1] } 1).spansReady (jobAgent (slotOf info1.key)) true (Desc.spans ⟨tile 0x100⟩) = true ∧
    checkedPlait { phase := .draining, ctl := 0x20 } ⟨tile 0x100 + 2 ^ 60⟩ = true ∧ checkedPlait { phase := .draining } ⟨tile 0x100⟩ = false ∧
    faultyQuads [(31, 0)] ≠ 0 ∧ faultyQuads [(33, 0)] = 0 := by decide +kernel
theorem test_drain_ends : ((after (.drainComplete 0 0) (heldArray { draining with drain := .reading, drainCmd := some drain1 } 1)).engine 0 0).set0.phase = .empty := by decide +kernel

/-! ### Plait, transfers and hoists -/

/-- Entry 0 with eight elements and the positions `mm` of ground 0 of panel 0. -/
def plait (mm : Word) : State :=
  ((((s5.wr Reg.HF_BRINGUP 0xF#32).wr (Reg.PN_PLAIT_ELEMENTS 0) 8#32).wr (Reg.PN_PLAIT_PANEL 0) 0xE41#32).wr (Reg.PN_PLAIT_GMASK_LO 0) 1#32).wr (Reg.PN_PLAIT_MMASK_LO 0) mm
/-- That entry open. -/
def opened (mm : Word) : State := (plait mm).wr (Reg.PN_PLAIT_CTL 0) 5#32

theorem meets_PlaitEntryOpens : (plait 3).entryState 0 = 0 ∧ (plait 3).plCount 0 = 2 ∧ (plait 3).plElements 0 = 8 ∧ bitsOf (4#32).toNat 10 4 = 0 ∧
    (4#32).getLsbD 2 = true ∧ (4#32).getLsbD 6 = false ∧ (opened 3).entryState 0 = 1 ∧ (plait 0).plCount 0 = 0 ∧ bitsOf (0x2804#32).toNat 10 4 = 10 := by decide +kernel
theorem test_plait_config : (after (.plaitOpen 0 4#32) (plait 0)).entryState 0 = 3 ∧ (after (.plaitOpen 0 0x2804#32) (plait 3)).entryState 0 = 3 := by decide +kernel

/-- Eight ones from motif 0 for position 0. -/
def ones (offset : Nat) : Contribution := ⟨1, 0, 0, false, offset, false, List.replicate 8 0x3F800000#32, 0, 0, none, false⟩
/-- The same entry on the fall-back path, its partials in bank 0. -/
def soft : State := (((mapped.wr (Reg.PN_PLAIT_ELEMENTS 0) 8#32).wr (Reg.PN_PLAIT_PANEL 0) 0xE41#32).wr (Reg.PN_PLAIT_GMASK_LO 0) 1#32).wr (Reg.PN_PLAIT_MMASK_LO 0) 3#32 |>.wr (Reg.PN_PLAIT_CTL 0) 0x15#32
theorem meets_PlaitContributions : (opened 3).plSoft 0 = false ∧ (opened 3).contributionFault (ones 0) false = none ∧ (opened 3).positionOf (ones 0) = some 0 ∧
    (opened 3).exitLevel 0 = 1 ∧ (opened 1).exitLevel 0 = 0 ∧ (opened 3).contributionFault (ones 8) false ≠ none := by decide +kernel
theorem meets_PlaitContributions_soft : soft.plSoft 0 = true ∧ soft.contributionFault (ones 0) true = none ∧ soft.positionOf (ones 0) = some 0 ∧
    soft.spanReady (jobAgent 0) true (soft.plPartial 0) 32 = true := by decide +kernel
theorem test_contribution_at_leaf : ((after (.plaitContribution 1) { opened 3 with contribs := [ones 0] }).edge 0 0).map (·.vals.length) = [8] := by decide +kernel

def flit (v : Word) : Flit := ⟨0, 0, List.replicate 8 v, 0⟩
/-- A flit of the entry at each leaf. -/
def twoHeads : State := ((opened 3).setEdge 0 0 [flit 0x3F800000#32]).setEdge 0 1 [flit 0x40000000#32]
theorem meets_PlaitJoinsAndOutput : twoHeads.edge 0 0 = [flit 0x3F800000#32] ∧ twoHeads.edge 0 1 = [flit 0x40000000#32] ∧ twoHeads.underLink 0 0 1 = true ∧
    (opened 1).underLink 0 0 1 = false ∧ (opened 2).underLink 0 0 0 = false ∧ (opened 3).edge 0 0 = [] := by decide +kernel
theorem test_join : ((after (.plaitJoin 1 0 false) twoHeads).entry 0).out.map (·.vals) = [List.replicate 8 0x40400000#32] := by decide +kernel
/-- The sum of that entry has left the tree for bank 0, or stands written there. -/
def summed : State := ((mapped.wr (Reg.PN_PLAIT_CTL 0) 5#32).wr (Reg.PN_PLAIT_ELEMENTS 0) 8#32).setEntry 0 { out := [flit 0x40400000#32] }
theorem meets_PlaitJoinsAndOutput_out : summed.entryState 0 = 1 ∧ summed.plSoft 0 = false ∧ (summed.entry 0).back = [] ∧ summed.outReady 0 0 8 = true ∧
    summed.entryComplete 0 = false ∧ (summed.setEntry 0 { written := 8 }).entryComplete 0 = true := by decide +kernel
theorem test_entry_done : (after (.plaitEntryDone 0) (summed.setEntry 0 { written := 8 })).entryState 0 = 2 ∧
    ((after (.plaitEntryDone 0) (summed.setEntry 0 { written := 8 })).token 0).count = 1 := by decide +kernel

/-- Task 1 with the tile at 0x100 in t1, the one at 0x200 in t2, and a plain list of two numbers at 0x300 in t3. -/
def copyTask : Task := { plain with t := [(1, BitVec.ofNat 512 (tile 0x100)), (2, BitVec.ofNat 512 (tile 0x200)), (3, BitVec.ofNat 512 (0x300 + 7 * 2 ^ 56 + (2 + 2 ^ 16) * 2 ^ 64 + 2 ^ 96))] }
def copier : State := holding mapped copyTask
theorem copier_issues (reads : List LoadDst) : Issues copier 0 4 reads 1 copier := holding_issues _ _ _ _ rfl rfl rfl rfl rfl ⟨rfl, rfl, rfl⟩ (.inl rfl)
def copy1 : XCmd := { info := info1, dst := tile 0x100, src := tile 0x200, subout := false }
theorem meets_Transfers (reads : List LoadDst) : Issues copier 0 4 reads 1 copier ∧ (copier.xfers 0).length < 20 ∧
    copier.xferFault 0 0 ⟨(copyTask.treg 1).toNat⟩ ⟨(copyTask.treg 2).toNat⟩ 0 = none ∧
    ((copier.setXfers 0 [copy1]).xfers 0)[0]? = some copy1 ∧ (copier.setXfers 0 [copy1]).xferReady 0 (slotOf copy1.info.key) ⟨copy1.dst⟩ ⟨copy1.src⟩ = true :=
  ⟨copier_issues _, by decide +kernel⟩
theorem test_copy : (after (.xferComplete 0 0 []) ((copier.setByte 0x200 0xAB#8).setXfers 0 [copy1])).byte 0x100 = 0xAB#8 := by decide +kernel

def gather1 : HCmd := { id := 0, info := info1, gather := true, motif := 0, d := (copyTask.treg 1).toNat, a := (copyTask.treg 3).toNat, word := 0, flush := false }
def scatter1 : HCmd := { id := 0, info := info1, gather := false, motif := 0, d := (copyTask.treg 3).toNat, a := (copyTask.treg 1).toNat, word := 0, flush := false }
theorem meets_HoistIssues (reads : List LoadDst) : Issues copier 0 4 reads 1 copier ∧ (copier.hoist (hoistOf 0)).length < 32 ∧ copyTask.update = false ∧
    copier.hoistFault 0 0 gather1 = none ∧ copier.spansReady (jobAgent 0) false gather1.list.spans = true ∧ copier.hoistFault 0 0 scatter1 = none ∧
    copier.spansReady (jobAgent 0) false (scatter1.list.spans ++ (scatter1.rowsView.spans ++ (if scatter1.winners then [(scatter1.rowsView.aux, scatter1.winBytes)] else []))) = true :=
  ⟨copier_issues _, by decide +kernel⟩

/-- A row of table 0 (four binary32 elements, base class 2) asked for from bank 0. -/
def row1 : HRow := { key := tallyKey 0 0 0, row := 0, tier := 1, addr := 0x400, width := 2 }
def rowed (c : HCmd) : State := { (mapped.setTbl 0 1 4) with hoists := [(0, [c])] }
theorem meets_HoistRowsAndEnds : ((rowed { gather1 with rows := [row1] }).hoist 0)[0]? = some { gather1 with rows := [row1] } ∧
    (rowed { gather1 with rows := [row1] }).spanReady ((rowed gather1).rowAgent row1.key row1.addr) false row1.addr (gatherBytes row1.width 4) = true ∧
    ((rowed gather1).hoist 0)[0]? = some gather1 ∧ gather1.winners = false ∧ gather1.entries.length ≤ gather1.started ∧ scatter1.parts = [] ∧ scatter1.fault = none ∧
    (rowed scatter1).coalUsed 0 = 0 ∧ ((rowed scatter1).rd (Reg.EM_JOB_COAL_RECORDS 0)).toNat = 0 ∧
    ((rowed scatter1).wr (Reg.EM_JOB_COAL_RECORDS 0) 1#32).coalUsed 0 < (((rowed scatter1).wr (Reg.EM_JOB_COAL_RECORDS 0) 1#32).rd (Reg.EM_JOB_COAL_RECORDS 0)).toNat := by decide +kernel

/-! ### Tables, step lists and the level tier -/

/-- EM_TDATA holds a table of one row of four elements, its classes those of reset. -/
def described : State := ((s5.wr (Reg.EM_TDATA 0) 0x5400#32).wr (Reg.EM_TDATA 1) 4#32).wr (Reg.EM_TDATA 2) 1#32
theorem meets_MemoryManager : described.storeRefused 4095 = false ∧ (described.wr (Reg.EM_TDATA 1) 6#32).storeRefused 4095 = true ∧
    (described.setTbl 0 23 0x1000000).publishResult 0 = 0 ∧ described.publishResult 0 = 4 ∧ described.fw.stopped.contains 1 = false ∧
    ((0, 1) : Nat × Nat) ∉ described.freeQ ∧ (0, 1) ∈ ({ described with freeQ := [(0, 1)] } : State).freeQ ∧ described.writerOf 0 = none ∧
    described.frozenTables = [] ∧ (∀ j, j < 64 → ({ described with regs := (List.range 64).map (fun i => (Reg.PN_JOB_CTL i, 1#32)) } : State).classOf j ≠ 0) := by decide +kernel
theorem test_store_refused : (after (.emTselStore .firmware 0#32) (described.wr (Reg.EM_TDATA 1) 6#32)).bit Reg.EM_TSEL 14 = true := by decide +kernel

/-- Panel 0 looks one step ahead of slot 0, its ring at the start of its own bank 0. -/
def looking : State := (mapped.wr (Reg.PS_CTL 0) 1#32).wr (Reg.BK_OWNER 0) 3#32
/-- With an empty list that is ready for step 1. -/
def listed : State := looking.setBytes 0 [1#8, 0#8, 0#8, 0#8, 0#8, 0#8, 0#8, 0#8, 0#8, 0#8, 0#8, 0#8, 1#8]
def staged1 : Staged := { key := 0, step := 1, panel := 0, addr := 0x400, lines := 1 }
theorem meets_Prospectors : 1 ≤ looking.lookahead 0 ∧ looking.fld (Reg.PS_STATE 0) 13 3 + 1 = 1 ∧
    listReady (looking.readDev (.owner 3 0) (looking.stepList 0 1) 1024 []).2.1 1 = false ∧
    listReady (listed.readDev (.owner 3 0) (listed.stepList 0 1) 1024 []).2.1 1 = true ∧
    listed.spansReady (.owner 3 0) false ((List.range 2).flatMap (fun i => listed.listSpans 0 (1 - 1 + i))) = true := by decide +kernel
theorem meets_Prospectors_rows : (({ looking with staged := [staged1] } : State).staged.filter (fun e => e.panel = 0))[0]? = some staged1 ∧
    looking.spanReady (looking.rowAgent 0 (looking.locate 0 0 0).1) false (looking.locate 0 0 0).1 64 = true ∧ looking.spanReady (.owner 3 0) true 0x400 64 = true ∧
    looking.lookahead 0 ≠ 0 ∧ (looking.returns.get {} 0).active[0]? = none ∧ (looking.returns.get {} 0).active.length < max 1 (min 4 (looking.fld (Reg.PS_RET 0) 0 3)) := by
  decide +kernel
theorem test_list_late : (after (.prospectSlotRead 0 1 []) looking).bit (Reg.PS_STATUS 0) 0 = true := by decide +kernel

/-- Package 0, of 32 GiB, is in service and carries the level tier; its scrubber is on. -/
def level : State := { (s5.wr (Reg.LD_CH_STATE 0) 2#32).wr Reg.HF_LD_SCRUB 0x10000#32 with pkgGiB := [(0, 32)], spread := List.range 8 }
theorem meets_LevelChannels : level.ldMap (pairBase extBase - extBase) = some (0, 0) ∧ level.tagFree (hfOfChannel 0) none = true ∧ level.onePair extBase 128 = true ∧
    level.onePair (extBase + 127) 1 = true ∧ level.onePair (extBase + 127) 2 = false ∧ level.hfHolds (hfOfChannel 0) = false ∧ level.chanUp 0 = true ∧ level.chanUp 1 = false ∧
    (∀ j, j < 64 → level.bit (Reg.PN_JOBMAP_CTL j) 25 = false) ∧ level.bit Reg.HF_LD_SCRUB 16 = true ∧ level.pairErrs = [] ∧ level.areas = [] ∧ level.checkCache = [] := by
  decide +kernel
theorem meets_LevelChannels_training : (s5.wr Reg.PC_BOOT 4#32).fld Reg.PC_BOOT 0 3 = 4 ∧ s5.fld (Reg.LD_CH_STATE 0) 0 2 < 2 ∧ s5.pkgExcluded.get false 0 = false ∧
    s5.capacityOk 128 = true ∧ s5.capacityOk 48 = false ∧ level.capacityOk 64 = false := by decide +kernel
theorem test_level_write : (after (.ldWrite none (extBase + 127) [0xAB#8]) level).byte (extBase + 127) = 0xAB#8 := by decide +kernel

/-- Window 0 maps the first 4 KiB of HOST for function 0, which masters the bus. -/
def windowed : State := { (s5.wr (Reg.HF_DEEP_WIN_CTL 0) 1#32).wr (Reg.HF_DEEP_WIN_SIZE_LO 0) 0x1000#32 with busMaster := [(0, true)] }
def read1 : DeepRead := ⟨5, 0, none, 0, 1, true⟩
def waits (hf : Nat) : TagWait := { hf := hf, slot := none, age := 0, user := .refresh }
theorem meets_DeepAccessesAndTags : windowed.tagFree 0 none = true ∧ windowed.deepWin hostBase 0x1000 = some 0 ∧ windowed.deepWin hostBase 0x1001 = none ∧
    windowed.deepWin (hostBase + 0xFFF) 1 = some 0 ∧ windowed.busMaster.get false (windowed.winFn 0) = true ∧ s5.busMaster.get false 0 = false ∧
    ({ s5 with deepReads := [read1] } : State).deepReads.find? (fun d => d.id = 5 && d.tagged) = some read1 ∧
    ({ s5 with tagWait := [waits 1] } : State).nextWait 1 = some (waits 1) ∧ s5.nextWait 0 = none ∧ ({ s5 with tagWait := [waits 0] } : State).tagFree 0 none = false := by decide +kernel
theorem test_deep_unmapped : (after (.deepAccess none (hostBase + 0x1000) 4 none) windowed).out = [.readData [0#8, 0#8, 0#8, 0#8] true] := by decide +kernel

/-! ### Banks -/

theorem meets_BankHandovers : mapped.mayHand .firmware 0 = true ∧ mapped.bit (Reg.BK_OWNER 0) 10 = false ∧ mapped.bit (Reg.BK_REPAIR 0) 24 = false ∧ ownerValid 1 63 = true ∧
    ownerValid 1 64 = false ∧ mapped.mayHand .dap 0 = false ∧ mapped.componentMay 1 (Reg.BK_OWNER 0) 1#32 = true ∧ mapped.componentMay 3 (Reg.BK_OWNER 0) 1#32 = false ∧
    mapped.oldAccess 0 0 = false ∧ (mapped.wr (Reg.BK_OWNER 0) 0x401#32).bit (Reg.BK_OWNER 0) 10 = true := by decide +kernel
theorem test_handover_completes : (after (.handoverComplete 0) (mapped.wr (Reg.BK_OWNER 0) 0x401#32)).rd (Reg.BK_OWNER 0) = 1#32 := by decide +kernel

/-- Bank 0 on its way to RETAIN. -/
def sleeping : State := (mapped.wr (Reg.BK_POWER 0) 0x11#32).setBank 0 { goal := some 1 }
theorem meets_BankPowerMoves : mapped.fld (Reg.BK_POWER 0) 2 2 = 0 ∧ mapped.bit (Reg.BK_POWER 0) 4 = false ∧ sleeping.bit (Reg.BK_POWER 0) 4 = true ∧
    sleeping.panelDown (panelOfBank 0) = false ∧ (sleeping.bank 0).goal = some 1 ∧ sleeping.fld (Reg.BK_POWER 0) 0 2 = 1 ∧ (sleeping.bank 0).held = [] ∧
    sleeping.oldAccess 0 (sleeping.bank 0).sinceT = false := by decide +kernel
theorem test_bank_retains : (after (.bankTransitionDone 0) sleeping).rd (Reg.BK_POWER 0) = 5#32 := by decide +kernel

/-- Scrubbing motif 0, at a line of bank 0. -/
def scrubbing (line : Word) : State := (mapped.wr (Reg.MT_SCRUB_CTL 0) 0x100#32).wr (Reg.BK_SCRUB_POS 0) line
/-- A test of those lines, preserving what they hold or not. -/
def test1 (preserve : Bool) (lines : List Nat) : March := ⟨0, 0, preserve, false, lines, 0, 0, false⟩
/-- A march test of bank 0 as `m` says, with the bank nobody's. -/
def marching (m : March) : State := (mapped.wr (Reg.BK_OWNER 0) 0#32).setBank 0 { march := some m }
theorem meets_BankScrubAndMarch : mapped.bankOn 0 = true ∧ (mapped.bank 0).testing = false ∧ (mapped.bank 0).lastScrub = false ∧
    (scrubbing 0).bit (Reg.MT_SCRUB_CTL 0) 8 = true ∧ (∀ w, w < 8 → mapped.mark (8 * w) = 0) ∧ (s5.wr (Reg.BK_POWER 0) 4#32).bankOn 0 = false ∧
    ((mapped.setBank 0 { scrubRead := some 5 }).bank 0).scrubRead = some 5 ∧ bitOf (0x40#32).toNat 6 = true ∧ bitOf (0x40#32).toNat 4 = false ∧ bitOf (0x50#32).toNat 4 = true ∧
    (marching (test1 false [])).fld (Reg.BK_OWNER 0) 0 3 = 0 ∧ mapped.fld (Reg.BK_OWNER 0) 0 3 ≠ 0 ∧ ((marching (test1 true [1535])).bank 0).march = some (test1 true [1535]) := by
  decide +kernel
theorem test_scrub_wraps : (after (.bankScrubRead 0 [] [] 0) (scrubbing 1535#32)).fld (Reg.BK_SCRUB_POS 0) 0 11 = 0 ∧
    (after (.bankScrubRead 0 [] [] 0) (scrubbing 1534#32)).fld (Reg.BK_SCRUB_POS 0) 0 11 = 1535 := by decide +kernel

/-! ### Jobs, slices and chains -/

/-- Slot 0 trains and slot 1 serves, both in a step; motif 0 lists both, and every panel is up. -/
def jobsUp : State :=
  ((((mapped.wr Reg.HF_BRINGUP 0xF#32).wr (Reg.PN_JOB_CTL 0) 1#32).wr (Reg.MT_JOBS 0) 0x4140#32).setSlot 0 .running).setSlot 1 .running
/-- That state with every plait entry given to slot 63. -/
def apart (s : State) : State :=
  { s with regs := s.regs.filter (fun e => e.1 < Reg.PN_PLAIT_CTL 0) ++ (List.range 256).map (fun i => (Reg.PN_PLAIT_CTL i, 0xFC000#32)) ++
      s.regs.filter (fun e => Reg.PN_PLAIT_CTL 256 ≤ e.1) }
theorem meets_TimeSlices_take : (apart (jobsUp.setJob 0 { slicePending := true })).quiescent 0 = true ∧
    (apart (jobsUp.setJob 0 { slicePending := true })).slotIs 0 .running = true := by decide +kernel
theorem meets_TimeSlices : jobsUp.classOf 1 = 0 ∧ jobsUp.slotIs 1 .running = true ∧ jobsUp.classOf 0 ≠ 0 ∧
    ([0].filter (fun j => j < 64 && jobsUp.classOf j ≠ 0 && (jobsUp.slotIs j .running || jobsUp.slotIs j .sweep || jobsUp.slotIs j .draining))).mergeSort jobsUp.slicedFirst = [0] ∧
    (jobsUp.job 0).slicePending = false ∧ (jobsUp.job 0).drainOrder = 0 := by decide +kernel
/-- A slice of slot 0 with nothing in it, and its slot that waits for it with a job key. -/
def keyed : State := { jobsUp.setSlot 0 .sliced with sec := { jobsUp.sec with jobKeys := [(0, some [1#8])] } }
def slice1 (tag : List Byte) : SliceSt := ⟨0, [], [], [], [], [], tag, false, false⟩
def sliced (tag : List Byte) : State := { keyed with slices := [(0, some (slice1 tag))] }
theorem meets_TimeSlices_restore (tag : List Byte) : (sliced tag).slices.get none 0 = some (slice1 tag) ∧ (sliced tag).sec.jobKeys.get none 0 ≠ none ∧
    (sliced tag).slices.put none 0 none = [] ∧ (slice1 tag).banks = [] ∧ (slice1 tag).scales = [] ∧ (slice1 tag).tokens = [] ∧ jobsUp.sec.jobKeys.get none 0 = none :=
  ⟨rfl, by simp [sliced, keyed, SMap.get], rfl, rfl, rfl, rfl, rfl⟩
theorem meets_TimeSlices_states : keyed.slotIs 0 .sliced = true ∧ jobsUp.slotIs 0 .sliced = false := by decide +kernel

/-- Slot 0 at an order of its drain, with a comparison due in a group of two where `compare` says so. -/
def draining0 (order : Nat) (compare : Bool) : State :=
  ((((jobsUp.wr (Reg.UP_JOB_CTL 0) (if compare then 0xC#32 else 0#32)).wr (Reg.UP_JOB_GROUP 0) 0x20000#32).setSlot 0 .draining).setJob 0 { drainOrder := order })
theorem meets_DrainAndRotation : (draining0 4 true).slotIs 0 .draining = true ∧ ((draining0 4 true).job 0).drainOrder = 4 ∧ (draining0 4 true).tagsQuiet 0 = true ∧
    (draining0 4 true).compareDue 0 = true ∧ (draining0 9 false).compareDue 0 = false ∧ (((draining0 9 false).epochBegin 0 []).epochSt 0).order = 0 ∧
    (draining0 4 false).slotIs 0 .sweep = false ∧ ((draining0 4 false).job 0).shiftHeld = false ∧ jobsUp.slotIs 0 .draining = false := by decide +kernel
theorem meets_DrainAndRotation_quiet : (apart (draining0 4 true)).unitsQuiet 0 = true := by decide +kernel
/-- Cores rotate each second, and a second has passed. -/
def rotating : State := { jobsUp.wr Reg.PN_ROT 1#32 with usecN := 1000000#64 }
theorem meets_DrainAndRotation_rotation : rotating.bit (Reg.MT_JOBS 1) 6 = false ∧ rotating.rotationDue 1 = true ∧ rotating.queue 1 = [] ∧ jobsUp.rotationDue 1 = false ∧
    ({ rotating with usecN := 999999#64 } : State).rotationDue 1 = false ∧ ∀ i, i < 128 → (rotating.context (128 + i)).task = none := by decide +kernel

/-- Function 15 holds a lease of 100 ms, attached at 0. -/
def leased : State := s5.wr (Reg.PC_LEASE 15) 100#32
theorem meets_LeaseEnds : leased.leaseLive 15 = true ∧ leased.slotsOf 15 = [] ∧ (leased.fn 15).expiring = false ∧ leased.leaseOver 15 = false ∧
    ({ leased with usecN := 100000#64 } : State).leaseOver 15 = true ∧ ({ leased with usecN := 99999#64 } : State).leaseOver 15 = false ∧
    (s5.wr (Reg.PC_LEASE 15) 0x4000#32).leaseLive 15 = false := by decide +kernel
theorem test_lease_ends : (after (.leaseExpiry 15) { leased with usecN := 100000#64 }).bit (Reg.PC_LEASE 15) 14 = true := by decide +kernel

/-- A record of slot 0 waits at motif `m`. -/
def queuedAt (m : Nat) : State := { jobsUp.wr (Reg.MT_JOBS m) 0x4140#32 with tasks := [(1, { serial := 1 })], queues := [(m, [1])] }
theorem meets_RecordsReachContexts : (queuedAt 0).feedQueues.isFree 0 = true ∧ ((queuedAt 0).feedQueues.task 1).claims = [] ∧
    (queuedAt 0).feedQueues.firstRec (((queuedAt 0).feedQueues.queue 0).filter ((queuedAt 0).feedQueues.takes 0)) = some 1 := by decide +kernel
/-- One waits at motif 1, whose contexts are all taken. -/
def fullNext : State := { queuedAt 1 with ctx := (List.range 128).map (fun i => (128 + i, { phase := .ready, task := some 1 })) }
theorem meets_RecordsReachContexts_stealable : fullNext.feedQueues.stealable 0 1 1 = true ∧ fullNext.feedQueues.queue 1 = [1] ∧
    stealOrder 0 1 = 1 :: (stealOrder 0 1).tail ∧ fullNext.feedQueues.isFree 0 = true ∧ (fullNext.feedQueues.queue 0).any (fullNext.feedQueues.takes 0) = false := by decide +kernel
theorem meets_RecordsReachContexts_steal : fullNext.feedQueues.stealAt 0 1 = some (1, 1) := by
  have h := meets_RecordsReachContexts_stealable
  have hand : fullNext.feedQueues.handOver 0 1 false = some 1 := by
    unfold State.handOver
    simp [h.1, h.2.1]
  unfold State.stealAt
  rw [h.2.2.1]
  simp [h.2.1, hand]
/-- Task 1 waits for a token in context 0, and another record of slot 0 is queued; the save area holds one record or none. -/
def yielding (room : Word) : State :=
  { (jobsUp.wr Reg.PN_SCHED_WAIT 0x10001#32).wr (Reg.PN_JOB_SAVE_SLOTS 0) room with
    tasks := [(1, { plain with wait := .token 7 1 3 }), (2, { serial := 2 })], queues := [(0, [2])], ctx := [(0, { phase := .waitToken, task := some 1 })] }
theorem meets_RecordsReachContexts_yield : ((yielding 1).context 0).phase = .waitToken ∧ (yielding 1).fld Reg.PN_SCHED_WAIT 16 16 ≠ 0 ∧ ((yielding 1).task 1).pin = false ∧
    ((yielding 1).queue 0).any (fun q => (yielding 1).takes 0 q && (yielding 1).classOf (slotOf q) ≤ (yielding 1).classOf 0) = true ∧
    (yielding 1).freeRec 0 = some 0 ∧ (yielding 0).freeRec 0 = none := by decide +kernel
/-- Every context of motif 0 runs a task of slot 0 that stands at a boundary, and a record of slot 1 waits. -/
def crowded : State :=
  { jobsUp.wr (Reg.PN_JOB_SAVE_SLOTS 0) 1#32 with
    tasks := [(1, plain), (2 ^ 32 + 1, { serial := 1, slot := 1 })], queues := [(0, [2 ^ 32 + 1])],
    ctx := (List.range 128).map (fun i => (i, { phase := .ready, task := some 1 })) }
theorem meets_RecordsReachContexts_eviction :
    crowded.firstRec ((crowded.queue 0).filter (fun k => crowded.classOf (slotOf k) = 0 && crowded.takes 0 k)) = some (2 ^ 32 + 1) ∧ crowded.freeFor 0 (2 ^ 32 + 1) = false ∧
    (crowded.victim 0).map (·.2) = some 1 ∧ (crowded.task 1).atBoundary = true ∧ crowded.freeRec (slotOf 1) = some 0 := by decide +kernel

/-- A chain of one copy stage and one block lies at 0x100. -/
def chainTask : Task := { plain with s := [(1, 0x100#32)] }
def chainCode : State := mapped.setByte 0x100 0x11#8
theorem meets_Chains (reads : List LoadDst) : Issues (holding chainCode chainTask) 0 4 reads 1 (holding chainCode chainTask) ∧ chainTask.update = false ∧
    (chainTask.segment 1 + (chainTask.sreg 1).toNat) = 0x100 ∧ (holding chainCode chainTask).protect 0 0x100 64 false = none ∧ (holding chainCode chainTask).protect 0 0x140 192 false = none ∧
    chainHeaderOk 0x11 = true ∧ chainHeaderOk 0x10 = false ∧ chainHeaderOk 0x19 = false ∧
    ((chainCode.readLines (jobAgent 0) 0x100 1).2.1.headD 0#512).toNat = 0x11 ∧ chainCode.tokenOk 0 0 0 = true ∧ (chainCode.chainsOf 0).length < 2 :=
  ⟨holding_issues _ _ _ _ rfl rfl rfl rfl rfl ⟨rfl, rfl, rfl⟩ (.inl rfl), by decide +kernel⟩
theorem test_chain_enters : ((after (.chain 0 1 2) (holding chainCode chainTask)).chainsOf 0).map (fun c => (c.stages, c.blocks)) = [(1, 1)] := by decide +kernel
def chain1 : Chain := { info := info1, stages := 1, blocks := 1, flush := false, recs := [0#512, BitVec.ofNat 512 (tile 0x100), BitVec.ofNat 512 (tile 0x200)], weights := [0#512] }
def chained (c : Chain) : State := holding (mapped.setChains 0 [c]) plain
theorem meets_Chains_stages : ((chained chain1).chainsOf 0)[0]? = some chain1 ∧ chain1.kind 0 = 0 ∧ chain1.mayStart 0 0 = true ∧ chain1.mayStart 1 0 = false ∧
    chain1.landed = [] ∧ ((chain1.take 0 0).stopped = none) ∧ ({ chain1 with started := [0], landed := [(0, 0)] } : Chain).landed = [(0, 0)] := by decide +kernel

theorem meets_CollectiveDescriptors : bitsOf (s5.coll 1023 0).toNat 10 2 = 0 ∧ bitsOf ((s5.setColl 1023 0 0x400#32).coll 1023 0).toNat 10 2 = 1 ∧
    bitsOf (0x3FF#32).toNat 0 10 = 1023 ∧ s5.componentMay 3 Reg.HF_COLL_SEL 0#32 = true ∧ s5.componentMay 4 Reg.HF_COLL_SEL 0#32 = false := by decide +kernel
theorem test_coll_refused : (after (.hfCollStore .firmware 0x3FF#32) (s5.setColl 1023 0 0x400#32)).bit Reg.HF_COLL_SEL 12 = true := by decide +kernel

/-! ### Fabric -/

/-- Port 7 is in service; slot 0 is in group 5. -/
def linked : State := ((s5.wr (Reg.FM_LINK 7) 1#32).wr (Reg.HF_GROUP_MODULE 0) 0x10000#32).wr (Reg.HF_GROUP_ID 0) 5#32
def frame (octets : Nat) (b : FrameBody) : FabFrame := { fecCorr := 0, fecUncorr := 0, octets := octets, fcsOk := true, dst := 2 ^ 48 - 1, solicited := false, pcp := some 3, dscp := none, body := b }
theorem meets_FramesReceived : linked.inService 7 = true ∧ linked.inService 6 = false ∧ linked.powerState ≠ 2 ∧
    (frame 64 .pause).octets ≤ (linked.fecCount 7 (frame 64 .pause)).fld (Reg.FM_FRAME 7) 0 14 ∧ (linked.fecCount 7 (frame 64 .pause)).fld Reg.HF_GFT_CFG 0 16 < 2 ^ 16 ∧
    ((linked.fecCount 7 (frame 64 .pause)).bufferFrame 7 3 64).2 = true := by decide +kernel
theorem test_short_frame : (after (.frameReceive 7 (frame 63 .pause)) linked).rd (Reg.FM_RX_LEN_ERR 7) = 1#32 ∧
    (after (.frameReceive 7 (frame 64 .pause)) linked).rd (Reg.FM_RX_GLOBAL_PAUSE 7) = 1#32 := by decide +kernel

/-- Port 7 as `st` says, its watchdog on. -/
def ported (st : PortSt) : State := ((linked.wr (Reg.FM_WD 7) 1#32).wr (Reg.FM_CTL 7) 0x800#32).setPort 7 st
theorem meets_FlowControl : ((ported { paused := [(3, 5)] }).port 7).paused.get 0 3 ≠ 0 ∧ (ported {}).hfHolds 1 = false ∧ (ported {}).lossless 7 3 = true ∧
    ((ported { xoff := [3] }).port 7).xoff.contains 3 = true ∧ (ported { xoff := [3], rx := [(3, 2 ^ 22)] }).xonOctets 7 3 ≤ (ported { xoff := [3], rx := [(3, 2 ^ 22)] }).rxFill 7 3 ∧
    (ported {}).fld (Reg.FM_WD 7) 0 16 ≠ 0 ∧ ({ queue := [{ prio := 3, octets := 64 }] } : PortSt).head 3 ≠ none ∧ (ported {}).bit (Reg.FM_WD 7) 28 = false ∧
    ((ported { sending := some { prio := 3, octets := 64 } }).port 7).sending = some { prio := 3, octets := 64 } := by decide +kernel
theorem test_pause_ends : ((after (.pfcPauseExpire 7 3) (ported { paused := [(3, 5)] })).port 7).paused = [] := by decide +kernel

theorem meets_PortLinksAndControl : (linked.port 7).queue = [] ∧ (linked.port 7).sending = none ∧ (s5.wr (Reg.FM_CTL 7) 1#32).bit (Reg.FM_CTL 7) 0 = true ∧ s5.inService 7 = false ∧
    s5.bit (Reg.FM_CTL 7) 0 = false ∧ s5.early = false ∧ s5.limitSum 7 ≤ 4096 ∧ 4096 < (s5.wr (Reg.FM_RXQ_A 7 0) 0xFFF#32).limitSum 7 := by decide +kernel
theorem test_link_up : (after (.linkUp 7) (s5.wr (Reg.FM_CTL 7) 1#32)).fld (Reg.FM_LINK 7) 0 5 = 31 := by decide +kernel

/-- A packet for group 5 from module 9, and headframe 0 with it received and with connections to that module. -/
def packet (typ cls msg : Nat) : GftPacket := { typ := typ, cls := cls, last := true, group := 5, src := 9, msg := msg }
def heard (k : GftPacket) (conns : List Conn) : State := { linked with gftRx := [(0, [(7, k)])], conns := conns }
def conn1 : Conn := { id := 4, hf := 0, cls := 1, slot := 0, peer := 9, ready := true }
theorem meets_ConnectionsAndTimers : ((heard (packet tCtrl 0 1) []).takeCtrl 0 1).map (fun r => (r.1, r.2.1)) = some (packet tCtrl 0 1, 0) ∧
    (heard (packet tCtrl 0 1) []).takeCtrl 0 2 = none ∧ ((heard (packet tCtrl 0 1) []).connRoom 0).2 = true ∧
    ((heard (packet tCtrl 0 2) [{ conn1 with cls := 0 }]).takeCtrl 0 2).isSome = true ∧ ((heard (packet tCtrl 0 2) [{ conn1 with cls := 0 }]).conn 0 0 0 9).isSome = true ∧
    ((heard (packet tAck 0 0) []).takeRx 0 (fun k => k.typ = tAck)).isSome = true ∧ linked.slotOfGroup 5 = some 0 ∧
    ({ linked with conns := [conn1] } : State).connById 4 = some conn1 ∧ 1 < ({ linked.wr Reg.HF_GFT_TIMER 0x800#32 with conns := [conn1] } : State).retryMax ∧
    ((linked.wr (Reg.HF_GROUP_MODULE 0) 0x30000#32).bit (Reg.HF_GROUP_MODULE 0) 17) = true ∧ linked.bit (Reg.HF_GROUP_MODULE 0) 17 = false := by decide +kernel
def request1 : RowReq := ⟨6, 0, 9, 0, 0, 0, [], 0, true, []⟩
theorem meets_ConnectionsAndTimers_rows : ({ linked with rowReqs := [request1] } : State).rowReqs.find? (fun r => r.id = 6) = some request1 ∧ request1.sent = true ∧
    request1.tries < linked.retryMax := by decide +kernel

/-- A packet of class 4 of a connection, its first. -/
def dataPacket : GftPacket := { packet tData 4 0 with handle := 3, payload := List.replicate 64 0#8 }
def listening : State := heard dataPacket [{ conn1 with cls := 4 }]
theorem meets_GroupMessages : (listening.takeRx 0 (fun k => k.typ = tData)).isSome = true ∧ listening.takeRx 0 (fun k => k.typ = tGrad) = none ∧ listening.slotOfGroup dataPacket.group = some 0 ∧
    (listening.windowMessage 0 0 dataPacket false).2 = some dataPacket.payload ∧ dataPacket.handle < 1024 ∧
    ((listening.windowMessage 0 0 { dataPacket with psn := 2000 } false).2) = none := by decide +kernel
theorem meets_GroupMessages_rows : (linked.epochOk 0 0 (packet tRowReq 2 0) false).2 = true ∧ (linked.epochOk 0 0 { packet tRowReq 2 0 with epoch := 1 } false).2 = false ∧
    assemble [{ packet tRowRsp 2 6 with src := 9 }] { packet tRowRsp 2 6 with src := 9 } = some [] ∧
    ({ linked with rowReqs := [request1] } : State).rowReqs.find? (fun r => r.id = 6 && r.peer = 9 && r.sent) = some request1 := by decide +kernel

theorem meets_GroupControl : ((heard (packet tCtrl 0 10) []).takeCtrl 0 10).isSome = true ∧ (heard (packet tCtrl 0 10) []).takeCtrl 0 4 = none ∧
    ((heard (packet tCtrl 0 4) []).onWindow 0 0 (packet tCtrl 0 4)).2 = none ∧ ((heard (packet tCtrl 0 4) [{ conn1 with cls := 0 }]).onWindow 0 0 (packet tCtrl 0 4)).2 = some 4 ∧
    epochDiff (payloadWord [] 0) (linked.epochOf 0) ≤ 0 ∧ ({ linked with epochs := [(0, { order := 3 })] } : State).epochSt 0 = { order := 3 } := by decide +kernel

/-! ### Serving, sweeps and the host -/

/-- Slot 1 serves requests of group 5 and one has come. -/
def asked : State := { ((jobsUp.wr (Reg.HF_GROUP_MODULE 1) 0x10000#32).wr (Reg.HF_GROUP_ID 1) 5#32) with gftRx := [(0, [(7, packet tServeReq 0 2)])] }
theorem meets_ServedRequests : (asked.rxMessage 0 tServeReq).isSome = true ∧ asked.rxMessage 0 tServeRsp = none ∧ asked.requestSlot (packet tServeReq 0 2) = some 1 ∧
    asked.takesRequests 1 false = true ∧ asked.takesRequests 0 false = false ∧ asked.fw.shift ≠ 3 ∧
    ({ asked with ledger := [(0, { st := 1, slot := 1 })] } : State).ledgerEntry 0 = { st := 1, slot := 1 } ∧
    ((({ asked with ledger := [(0, { st := 1, slot := 1 })] } : State).setLedger 0 { st := 2, slot := 1 }).placeAll 1 0 [[0#32, 0#32]]).tasks.filter (fun x => x.2.request = some 0) ≠ [] := by
  decide +kernel

/-- Slot 0 at order 2 of its drain with its flush complete, and in the phases of a sweep of no entry. -/
def flushed0 : State := (apart jobsUp).setJob 0 { drainOrder := 2, flushed := 2 }
def sweeping : State := jobsUp.setSlot 0 .sweep
theorem meets_SweepSteps : (flushed0.job 0).drainOrder = 2 ∧ (flushed0.job 0).flushed = 2 ∧ flushed0.entriesOf 0 [1] = [] ∧ flushed0.runningColls 0 = [] ∧
    sweeping.slotIs 0 .sweep = true ∧ sweeping.phase1Done 0 = true ∧ sweeping.upCount 0 = 0 ∧ jobsUp.slotIs 0 .sweep = false := by decide +kernel

/-- Slot 0 with `n` microbatches of which one has started, a step begun, and two counts of its token (0 of motif 1). -/
def batching (n : Word) : State :=
  (((jobsUp.wr (Reg.UP_JOB_CTL 0) (n <<< 8)).wr (Reg.UP_JOB_MB_TOKEN 0) 256#32).setJob 0 { inStep := true }).setToken 256 { count := 2 }
theorem meets_DigestsAndWaiting : (batching 2).slotIs 0 .running = true ∧ ((batching 2).token (((batching 2).rd (Reg.UP_JOB_MB_TOKEN 0)).toNat)).count = 2 ∧
    ((batching 2).job 0).mbStarted = 1 ∧ (batching 2).fld (Reg.UP_JOB_CTL 0) 8 8 = 2 ∧ (batching 1).fld (Reg.UP_JOB_CTL 0) 8 8 = 1 ∧ (draining0 9 true).compareDue 0 = true ∧
    ((draining0 9 true).job 0).compared = 0 ∧ (draining0 9 true).fld (Reg.UP_JOB_GROUP 0) 16 16 = 2 ∧ jobsUp.waitsOnToken 0 = false := by decide +kernel

/-- Function 15 masters the bus, its lease is live, and results and capsules are accepted. -/
def hosted : State := { (leased.wr (Reg.PC_RSLOTS 15) 1#32).wr (Reg.PC_JOB_MASK_LO 15) 1#32 with busMaster := [(15, true)], fns := [(15, { muted := false })], results := [(65536 * 15 + 65535, { st := 2, seq := 9 })] }
theorem meets_HostWindows : hosted.power.s1 = true ∧ hosted.fld Reg.PC_BOOT 0 3 = 5 ∧ hosted.barOk 15 true 0x1FC 4 = true ∧ hosted.barOk 15 true (bankEnd - 3) 4 = false ∧
    (hosted.wakeSpan (.owner 5 15) false 0x1FC 4).spanReady (.owner 5 15) false 0x1FC 4 = true ∧ (hosted.ring (16 * 15 + 15)).waiting = [] ∧ (hosted.fn 15).muted = false ∧
    hosted.busMaster.get false 15 = true ∧ hosted.leaseLive 15 = true ∧ (hosted.result (65536 * 15 + 65535)).st = 2 ∧ hosted.takesCapsules = true ∧
    (hosted.wr (Reg.PC_QUEUE_CREDITS 15 15) 0#32).fld (Reg.PC_QUEUE_CREDITS 15 15) 0 9 = 0 := by decide +kernel
theorem test_retire : ((after (.retire 15 65535 9#32) hosted).result (65536 * 15 + 65535)).st = 0 ∧ ((after (.retire 15 65535 8#32) hosted).result (65536 * 15 + 65535)).st = 2 := by
  decide +kernel

/-- A capsule of an opcode and a job slot, first of its queue, and a module with credits for it. -/
def capsule (op slot : Nat) : List Word := BitVec.ofNat 32 (op + 256 * slot) :: List.replicate 31 0#32
def credited : State := (hosted.wr (Reg.PC_QUEUE_CREDITS 15 15) 1#32).wr (Reg.PC_QUEUE_SEQ 15 15) 0#32
theorem meets_HostCapsules : Accepts credited 15 15 (capsule 1 0) ∧ Accepts credited 15 15 (capsule 2 63) ∧ Accepts credited 15 15 (capsule 4 0) where
  left := ⟨rfl, by decide, by decide, by decide +kernel, by decide +kernel, by decide +kernel, by decide +kernel, by decide +kernel, by decide, by decide +kernel, by decide +kernel, fun k h => by simp [capRslot, capWord, capsule, bitOf] at h, rfl⟩
  right := ⟨⟨rfl, by decide, by decide, by decide +kernel, by decide +kernel, by decide +kernel, by decide +kernel, by decide +kernel, by decide, by decide +kernel, by decide +kernel, fun k h => by simp [capRslot, capWord, capsule, bitOf] at h, rfl⟩,
    ⟨rfl, by decide, by decide, by decide +kernel, by decide +kernel, by decide +kernel, by decide +kernel, by decide +kernel, by decide, by decide +kernel, by decide +kernel, fun k h => by simp [capRslot, capWord, capsule, bitOf] at h, rfl⟩⟩

/-- A function's SET, RESHARD, JOB_LOAD and PUBLISH capsules meet the same conditions. -/
theorem meets_HostDeclarations : Accepts credited 15 15 (capsule 3 0) ∧ Accepts credited 15 15 (capsule 12 0) ∧ capWord (capsule 3 0) 7 < 3 ∧
    (credited.capsuleIn 15 15 (capsule 3 0)).slotIs 0 .free = true ∧ jobsUp.slotIs 0 .free = false ∧ s5.slotIs 0 .free = true ∧ s5.lifeCycle ≠ 3 ∧ s5.grouped 0 = false := by
  refine ⟨⟨rfl, by decide, by decide, by decide +kernel, by decide +kernel, by decide +kernel, by decide +kernel, by decide +kernel, by decide, by decide +kernel, by decide +kernel,
      fun k h => by simp [capRslot, capWord, capsule, bitOf] at h, rfl⟩,
    ⟨rfl, by decide, by decide, by decide +kernel, by decide +kernel, by decide +kernel, by decide +kernel, by decide +kernel, by decide, by decide +kernel, by decide +kernel,
      fun k h => by simp [capRslot, capWord, capsule, bitOf] at h, rfl⟩, by decide, ?_⟩
  decide +kernel

/-! ### Registers -/

def line1 : Line := 1#512
theorem meets_RegisterCommands : s5.power.s1 = true ∧ State.reset.power.s1 = false ∧ s5.fw.stopped.contains 3 = false ∧ s5.componentMay 3 (regHome (Reg.BK_OWNER 0)) 0#32 = false ∧
    inBlock (Reg.PN_JOBMAP_CTL 0) 0x40 64 (regHome (Reg.PN_JOBMAP_CTL 63)) = true ∧ inBlock (Reg.PN_JOBMAP_CTL 0) 0x40 64 (regHome (Reg.PN_JOBMAP_CTL 63 + 0x40)) = false ∧
    (({ s5 with bridges := [(bridgeKey 1 31 true, [line1])] } : State).bridges.get [] (bridgeKey 1 31 true)) = [line1] ∧ (List.replicate 64 line1).length = 64 := by decide +kernel
theorem test_masked_write : (after (.registerWrite .firmware Reg.EV_CTL 0xFFFFFFFF#32) s5).rd Reg.EV_CTL = 0xFFFF#32 := by decide +kernel
theorem test_bridge_fifo : ((after (.bridgeTransfer 1 31 true none) ({ s5 with bridges := [(bridgeKey 1 31 true, [line1])] } : State)).bridges.get [] (bridgeKey 1 31 true)) = [] := by
  decide +kernel
theorem meets_RegisterViews : s5.coreFenced 10239 31 = false ∧ (s5.engine 10239 4).owner = none ∧ (s5.engine 10239 3).owner = none ∧
    s5.view (Reg.MA_STATE 10239 + 0x40) = 0x40#32 := by decide +kernel

/-! ### Power, management and firmware -/

/-- LEAN with panel 3 to park, and the same with it parked. -/
def parking : State := jobsUp.wr Reg.PW_STATE 0x41#32
def parked : State := jobsUp.wr Reg.PW_STATE 0x4000#32
/-- No slot holds a job. -/
def noJobs : State := { s5 with regs := (List.range 64).map (fun j => (Reg.PN_JOB_CTL j, 0#32)) }
def inDoze : State := jobsUp.wr Reg.PW_STATE 0x202#32
theorem meets_PowerStates : jobsUp.powerUp = true ∧ jobsUp.powerState < 2 ∧ bitsOf (0x79#32).toNat 3 4 = 15 ∧ jobsUp.dozeOk = false ∧ noJobs.dozeOk = true ∧
    parking.fld Reg.PW_STATE 0 3 = 1 ∧ parking.bit Reg.PW_STATE 6 = true ∧ parking.bit Reg.PW_STATE 14 = false ∧ parking.rail 3 ≠ 0 ∧ parked.bit Reg.PW_STATE 14 = true ∧
    inDoze.powerState = 2 := by decide +kernel
theorem meets_PowerStates_standby : ({ s5 with power := { s5.power with standby := 7, wokeEarly := true } } : State).power.standby = 7 ∧
    ({ s5 with power := { s5.power with standby := 5 } } : State).power.standby = 5 ∧ (s5.power.wokeEarly || (s5.power.perstSeen && !s5.power.perst)) = false := by decide +kernel
theorem test_lean_refused : (after (.pwReqLean 0x79#32) jobsUp).fld Reg.PW_STATE 17 3 = 3 := by decide +kernel
theorem test_doze_wakes : (after (.dozeWake 4) inDoze).powerState = 0 := by decide +kernel

def rails (mv : Word) : State := s5.wr (Reg.PW_PANEL 0) (mv <<< 16)
theorem meets_RailsAndHeat : s5.power.s1 = true ∧ s5.fw.shift ≠ 2 ∧ (rails 500).regulated 0 = true ∧ (rails 500).rail 0 = 500 ∧ 500 ≤ s5.railMax ∧ s5.slices = [] ∧
    s5.bit Reg.PW_THERM 16 = false ∧ (s5.wr Reg.PW_THERM 0x10000#32).bit Reg.PW_THERM 16 = true ∧ s5.powerUp = true ∧ s5.powerState < 2 ∧
    (List.replicate 160 (25 : Int)).length = 160 := by decide +kernel
theorem test_clamp_stops_at_500 : (after .hardwareClamp (rails 510)).rail 0 = 500 ∧ (after .hardwareClamp (rails 520)).rail 0 = 500 := by decide +kernel

/-- The management port enabled, with those frames to send after that many collisions. -/
def mgmt (tx : List MmFrame) (attempts : Nat) : State := { s5.wr Reg.MM_CTL 3#32 with mm := { tx := tx, attempts := attempts } }
theorem meets_ManagementPort : (mgmt [] 0).mmUp = true ∧ s5.mmUp = s5.bit Reg.MM_CTL 0 ∧ (mgmt [⟨1, []⟩] 14).mm.tx ≠ [] ∧ (mgmt [⟨1, []⟩] 15).mm.attempts = 15 ∧
    (mgmt [⟨1, []⟩] 14).mm.backoff = none ∧ (mgmt [] 0).mm.rx.sum + max 64 (65518 + 18) = 65536 ∧ (mgmt [] 0).bit Reg.MM_CTL 1 = true := by decide +kernel
theorem test_sixteenth_collision : (after (.mmCollision false) (mgmt [⟨1, []⟩] 15)).mm.tx = [] ∧ (after (.mmCollision false) (mgmt [⟨1, []⟩] 14)).mm.attempts = 15 := by decide +kernel
theorem meets_ManagementProtocol : s5.powerUp = true ∧ s5.sec.cache.find? (fun e => e.1 = imgNum [1#8, 1#8] 4 4) = none ∧ s5.sec.mgmtNonce = none ∧ s5.fw.shift = 0 := by decide +kernel

theorem meets_FirmwareComponents : s5.powerUp = true ∧ s5.fw.queues.get [] 7 = [] ∧ s5.fw.faults.get [] 7 = [] ∧ s5.fw.warm = none ∧ s5.fw.s5At = none ∧
    ({ s5 with fw := { s5.fw with s5At := some 0 }, usecN := 600000000#64 } : State).usecN.toNat = 600000000 ∧ s5.fw.failed = false ∧ s5.fw.crippled = false := by decide +kernel
theorem meets_ShiftChange : s5.fw.shift = 0 ∧ s5.bit Reg.HF_FW_STATE 1 = false ∧ (s5.wr Reg.HF_FW_STATE 2#32).bit Reg.HF_FW_STATE 1 = true ∧
    noJobs.emergencyClear 0 = true ∧ ({ s5 with fw := { s5.fw with shift := 3, pausedAt := 0 }, usecN := 1200#64 } : State).usecN.toNat ≤ 0 + 1200 ∧
    (List.range 64).any (fun j => (noJobs.job j).drainOrder ≠ 0 || noJobs.slotIs j .sweep || noJobs.slotIs j .draining) = false ∧ s5.capsules = [] := by decide +kernel
theorem test_rollback : (after (.shiftRollback 0) { s5 with fw := { s5.fw with shift := 3 } }).fw.shift = 0 := by decide +kernel

def unpowered : State := { s5 with power := { s5.power with mains := false, rails := false, s1 := false, strapped := false, perst := true } }
theorem meets_LossesAndResets : s5.power.mains = true ∧ s5.power.standby = 0 ∧ s5.power.tripped = false ∧ s5.power.s1 = true ∧ unpowered.power.mains = false ∧ unpowered.power.perst = true ∧
    ({ unpowered with power := { unpowered.power with mains := true } } : State).power.strapped = false ∧ State.reset.power.perst = true ∧ State.reset.power.rails = true ∧
    State.reset.power.s1 = false := by decide +kernel
theorem test_power_removed : (after .powerRemoved s5).power.mains = false ∧ (after .powerRemoved s5).power.s1 = false := by decide +kernel
theorem meets_BringUpStages : (s5.wr Reg.PC_BOOT 1#32).fld Reg.PC_BOOT 0 3 = 1 ∧ s5.fw.boot.loading = false ∧ s5.flash.activateOnBoot = false ∧ s5.flash.good = none ∧
    (s5.wr Reg.HF_STRAP 0xC0#32).fld Reg.HF_STRAP 6 2 = 3 ∧ (s5.wr Reg.PC_BOOT 2#32).fld Reg.PC_BOOT 0 3 = 2 ∧ (jobsUp.fld Reg.HF_BRINGUP 0 4 ≠ 0) ∧ s5.pkgDone 0 = false ∧
    ((List.range 12).foldl (fun s k => s.wr (Reg.LD_CH_STATE (8 * k)) 2#32) s5).pkgDone 11 = true := by decide +kernel

/-- An LC_ADVANCE command of an OP field `op` with nothing else right about it. -/
def signed (op : Byte) : List Byte := [0x44#8, 0x4D#8, 0x43#8, 0x53#8, op] ++ List.replicate 251 0#8
theorem meets_SignedCommands : imgNum (signed 5) 4 1 = 5 ∧ (signed 5).length = 256 ∧ s5.bit Reg.SC_STATUS 0 = false ∧ s5.power.standby = 0 ∧ imgNum (signed 6) 4 1 = 6 ∧
    s5.checkCmd (signed 6) = 1 ∧ s5.checkCmd (signed 0) = 1 ∧ bitsOf (12#32).toNat 0 4 = 12 ∧ bitsOf (11#32).toNat 0 4 = 11 := by decide +kernel
theorem test_extend_refused : (after (.extend 11#32) s5).bit Reg.SC_STATUS 4 = true := by decide +kernel
theorem meets_QuotesAndDebugLevels : bitOf (4#32).toNat 2 = true ∧ s5.bit Reg.SC_STATUS 1 = false ∧ s5.debugLevel = 0 ∧ s5.lifeCycle = 0 ∧
    (s5.wr Reg.SC_DEBUG 2#32).debugLevel = 2 ∧ (s5.wr Reg.SC_DEBUG 1#32).debugLevel = 1 ∧
    ({ s5.wr Reg.SC_DEBUG 1#32 with sec := { s5.sec with levelUntil := some 0 } } : State).sec.levelUntil = some 0 := by decide +kernel

theorem meets_TestPort : State.reset.power.rails = true ∧ State.reset.power.perst = true ∧ s5.power.perst = false ∧ unpowered.power.rails = false ∧
    (0x20#8).toNat ∈ [0x00, 0x01, 0x02, 0x03, 0x04, 0x05, 0x20] ∧ (0x06#8).toNat ∉ [0x00, 0x01, 0x02, 0x03, 0x04, 0x05, 0x20] := by decide +kernel
theorem test_extest_released : (after (.extest 1#116 2#116) s5).tap.ir = 0xFF ∧ (after (.extest 1#116 2#116) State.reset).tap.captured = 1#116 := by decide +kernel
theorem meets_LogFlash : s5.flash.jobs = [] ∧ ({ s5 with flash := { s5.flash with jobs := [.maps] } } : State).flash.jobs = [.maps] ∧ s5.flash.suspended = false ∧
    s5.flash.retired.contains 2047 = false ∧ (s5.flash.mapB.seq ≤ s5.flash.mapA.seq) := by decide +kernel
theorem test_block_retired : (after (.flashBlockFail 2047) s5).flash.retired = [2047] := by decide +kernel
def event1 : Event := ⟨.CORE_FENCED, .info, 5, [], 77⟩
theorem meets_EventsAndExceptions (reads : List LoadDst) : Issues base 0 4 reads 1 base ∧ Issues base 0 8 reads 1 base ∧ (base.context 0).phase = .ready ∧
    legalWords 0 0 = false ∧ bitsOf 0 26 6 ≠ 0x3F ∧ ({ s5 with evq := [event1] } : State).evq = [event1] ∧ base.coreFenced 0 31 = false ∧
    (∀ i, i < 4 → (base.context (31 * 4 + i)).task = none) := ⟨base_issues _ _ (.inl rfl), base_issues _ _ (.inr rfl), rfl, by decide +kernel⟩

end Sys2Proof.Tests
end

section
/-! PROOFS. Register writes, reads that change state, bridges, and what status registers show. -/

namespace Sys2Proof.Machine

/-! ### The six commands, each by its operation -/

theorem exec_registerWrite_eq (w : Writer) (a : Nat) (v : Word) (s : State) :
    exec (.registerWrite w a v) s = .next (s.byWriter w a v (fun w => s.regWrite w a v)) := rfl

theorem exec_pnJobmapWrite_eq (w : Writer) (a : Nat) (v : Word) (s : State) :
    exec (.pnJobmapWrite w a v) s = .next (s.byWriter w a v (fun w => s.jobmapWrite w a v)) := rfl

theorem exec_rcCounterRead_eq (a : Nat) (s : State) : exec (.rcCounterRead a) s = .next (s.rcRead a) := rfl

theorem exec_latchedLoRead_eq (a : Nat) (s : State) : exec (.latchedLoRead a) s = .next (s.latchedLo a) := rfl

theorem exec_statLoRead_eq (a : Nat) (s : State) : exec (.statLoRead a) s = .next (s.statLo a) := rfl

theorem exec_bridgeTransfer_eq (hf b : Nat) (up : Bool) (e : Option Line) (s : State) :
    exec (.bridgeTransfer hf b up e) s = .next (s.bridge hf b up e) := rfl

/-! ### Addresses -/

theorem inBlock_eq_true_iff {base stride n a : Nat} : inBlock base stride n a = true ↔ base ≤ a ∧ a < base + stride * n := by
  simp [inBlock]

theorem inBlock_eq_false_iff {base stride n a : Nat} : inBlock base stride n a = false ↔ a < base ∨ base + stride * n ≤ a := by
  simp only [← Bool.not_eq_true, inBlock_eq_true_iff]
  omega

theorem regHome_below {a : Nat} (h : a < 0x300000) : regHome a = a := by
  unfold regHome
  rw [if_neg (by omega)]

theorem regHome_above {a : Nat} (h : 0x400000 ≤ a) : regHome a = a := by
  unfold regHome
  rw [if_neg (by omega)]

/-! ### Before S1 -/

section BeforeS1

variable {s : State} (hs : s.power.s1 = false)
include hs

theorem regWrite_before_s1 (w : Writer) (a : Nat) (v : Word) : s.regWrite w a v = s := by simp [State.regWrite, hs]

theorem jobmapWrite_before_s1 (w : Writer) (a : Nat) (v : Word) : s.jobmapWrite w a v = s := by
  unfold State.jobmapWrite
  split
  · exact regWrite_before_s1 hs w a v
  · rfl

theorem rcRead_before_s1 (a : Nat) : s.rcRead a = s := by
  unfold State.rcRead
  dsimp only
  split
  · rfl
  · simp [hs]

theorem latchedLo_before_s1 (a : Nat) : s.latchedLo a = s := by simp [State.latchedLo, hs]

theorem statLo_before_s1 (a : Nat) : s.statLo a = s := by simp [State.statLo, hs]

end BeforeS1

/-- A writer that is no component of Icaux writes for itself. -/
theorem byWriter_of_no_component (s : State) {w : Writer} (h : ∀ c, w ≠ .component c) (a : Nat) (v : Word) (f : Writer → State) :
    s.byWriter w a v f = f w := by
  cases w with
  | component c => exact absurd rfl (h c)
  | firmware | host | hoist | prospector | mover | dap => rfl

/-- A write outside its region stops a component and does nothing else: the model's reading of R392 (log entry 39). -/
theorem byWriter_stops_component {s : State} {c a : Nat} {v : Word} (h : s.fw.stopped.contains c = false)
    (hr : s.componentMay c (regHome a) v = false) (f : Writer → State) :
    s.byWriter (.component c) a v f = { s with fw := { s.fw with stopped := s.fw.stopped ++ [c] } } := by
  simp only [State.byWriter, h, hr, Bool.false_eq_true, if_false]

theorem exec_before_s1 {s : State} (hs : s.power.s1 = false) {w : Writer} (hw : ∀ c, w ≠ .component c) (a : Nat) (v : Word) :
    exec (.registerWrite w a v) s = .next s ∧ exec (.pnJobmapWrite w a v) s = .next s ∧ exec (.rcCounterRead a) s = .next s ∧
      exec (.latchedLoRead a) s = .next s ∧ exec (.statLoRead a) s = .next s := by
  rw [exec_registerWrite_eq, exec_pnJobmapWrite_eq, exec_rcCounterRead_eq, exec_latchedLoRead_eq, exec_statLoRead_eq,
    byWriter_of_no_component s hw, byWriter_of_no_component s hw, regWrite_before_s1 hs, jobmapWrite_before_s1 hs,
    rcRead_before_s1 hs, latchedLo_before_s1 hs, statLo_before_s1 hs]
  exact ⟨rfl, rfl, rfl, rfl, rfl⟩

/-! ### What a write stores -/

/-- The access codes of a register's row, with the limits on its writes. -/
def regCodes (a : Nat) : Option (Nat × Nat × Nat × List (Nat × Nat × Nat × Nat) × List (Nat × Nat × Nat)) :=
  (regRow a).map (fun r => (r.rw, r.w1c, r.w1s, r.clamps, r.ignores))

theorem bitOf_toNat (v : Word) (j : Nat) : bitOf v.toNat j = v.getLsbD j := by
  rw [BitVec.getLsbD, Nat.testBit_eq_decide_div_mod_eq, bitOf, Nat.shiftRight_eq_div_pow]

/-- The mask of the low `n` bits. -/
theorem lowMask_getLsbD (n : Nat) {j : Nat} (hj : j < 32) : (BitVec.ofNat 32 (2 ^ n - 1)).getLsbD j = decide (j < n) := by
  rw [BitVec.getLsbD_ofNat, Nat.testBit_two_pow_sub_one]
  simp only [hj, decide_true, Bool.true_and]

/-- R6 bit by bit, for a register with no W1S bit and no limit on what is written. -/
theorem regNext_getLsbD {r : RegRow} (hs : r.w1s = 0) (hc : r.clamps = []) (hi : r.ignores = []) (old v : Word) {j : Nat} (hj : j < 32) :
    (regNext r old v).getLsbD j = (old.getLsbD j && !(BitVec.ofNat 32 r.rw).getLsbD j && !(v.getLsbD j && (BitVec.ofNat 32 r.w1c).getLsbD j) ||
      v.getLsbD j && (BitVec.ofNat 32 r.rw).getLsbD j) := by
  have hl : regLimits r old.toNat v.toNat = v.toNat := by simp only [regLimits, hc, hi, List.foldl_nil]
  simp only [regNext, hl, hs, BitVec.getLsbD_or, BitVec.getLsbD_and, BitVec.getLsbD_not, BitVec.getLsbD_zero, BitVec.ofNat_toNat,
    BitVec.setWidth_eq, hj, decide_true, Bool.true_and, Bool.and_false, Bool.or_false]

theorem regStore_of_row {s : State} {a : Nat} {r : RegRow} (hh : regHome a = a) (hr : regRow a = some r) (v : Word) :
    s.regStore a v = s.wr a (regNext r (s.rd a) v) := by
  unfold State.regStore
  rw [hh, hr]

/-- R6 bit by bit for the write of such a register, by the masks of its RW and W1C bits. -/
theorem regStore_bits (s : State) {a rw w1c : Nat} (hh : regHome a = a) (hc : regCodes a = some (rw, w1c, 0, [], [])) (v : Word) :
    ∃ x, s.regStore a v = s.wr a x ∧ ∀ j, j < 32 → bitOf x.toNat j =
      (s.bit a j && !(BitVec.ofNat 32 rw).getLsbD j && !(v.getLsbD j && (BitVec.ofNat 32 w1c).getLsbD j) || v.getLsbD j && (BitVec.ofNat 32 rw).getLsbD j) := by
  obtain ⟨r, hr, he⟩ := Option.map_eq_some_iff.mp hc
  simp only [Prod.mk.injEq] at he
  obtain ⟨rfl, rfl, hw1s, hcl, hig⟩ := he
  refine ⟨_, regStore_of_row hh hr v, fun j hj => ?_⟩
  rw [State.bit, bitOf_toNat, bitOf_toNat, regNext_getLsbD hw1s hcl hig _ _ hj]

/-- A register of `n` RW bits alone: a write stores them and keeps the others. -/
theorem regStore_rw (s : State) {a n : Nat} (hh : regHome a = a) (hc : regCodes a = some (2 ^ n - 1, 0, 0, [], [])) (v : Word) :
    ∃ x, s.regStore a v = s.wr a x ∧ ∀ j, j < 32 → bitOf x.toNat j = if j < n then v.getLsbD j else s.bit a j := by
  obtain ⟨x, hx, hb⟩ := regStore_bits s hh hc v
  refine ⟨x, hx, fun j hj => ?_⟩
  rw [hb j hj, lowMask_getLsbD n hj, BitVec.getLsbD_zero]
  by_cases hn : j < n <;> simp [hn]

/-- A register of `n` W1C bits alone: a 1 written clears its bit, and nothing else changes. -/
theorem regStore_w1c (s : State) {a n : Nat} (hh : regHome a = a) (hc : regCodes a = some (0, 2 ^ n - 1, 0, [], [])) (v : Word) :
    ∃ x, s.regStore a v = s.wr a x ∧ ∀ j, j < 32 → bitOf x.toNat j = (s.bit a j && !(decide (j < n) && v.getLsbD j)) := by
  obtain ⟨x, hx, hb⟩ := regStore_bits s hh hc v
  refine ⟨x, hx, fun j hj => ?_⟩
  rw [hb j hj, lowMask_getLsbD n hj, BitVec.getLsbD_zero]
  by_cases hn : j < n <;> simp [hn]

/-- Registers that firmware writes under their access codes alone: three of RW bits and three of W1C bits. -/
def plainRegs : List Nat := [Reg.PN_SCHED_WAIT, Reg.EV_CTL, Reg.PW_ALERT_EN, Reg.PW_ALERT, Reg.HF_FW_STATUS, Reg.MM_STATUS]

theorem regHome_plainRegs {a : Nat} (h : a ∈ plainRegs) : regHome a = a := by
  revert a
  decide

theorem writeReg_plainRegs {a : Nat} (h : a ∈ plainRegs) (s : State) (w : Writer) (v : Word) : s.writeReg w a v = s.regStore a v := by
  simp only [plainRegs, List.mem_cons, List.not_mem_nil, or_false] at h
  obtain rfl | rfl | rfl | rfl | rfl | rfl := h <;> rfl

theorem exec_firmware_plainRegs {s : State} (hs : s.power.s1 = true) {a : Nat} (h : a ∈ plainRegs) (v : Word) :
    exec (.registerWrite .firmware a v) s = .next (s.regStore a v) := by
  have hword : a % 4 = 0 := by revert a; decide
  have hbank : inBlock (Reg.BK_OWNER 0) 0x40 40960 a = false := by revert a; decide
  rw [exec_registerWrite_eq, byWriter_of_no_component s (by simp), ← writeReg_plainRegs h s .firmware v]
  simp [State.regWrite, regHome_plainRegs h, hs, hword, hbank, State.mayWrite]

/-- A plain write once the bits of the word it stores are known. -/
theorem exec_firmware_stores {s : State} (hs : s.power.s1 = true) {a : Nat} (h : a ∈ plainRegs) {v : Word} {p : Nat → Bool}
    (hx : ∃ x, s.regStore a v = s.wr a x ∧ ∀ j, j < 32 → bitOf x.toNat j = p j) :
    ∃ t, exec (.registerWrite .firmware a v) s = .next t ∧ (∀ j, j < 32 → t.bit a j = p j) ∧ (∀ r, r ≠ a → t.rd r = s.rd r) ∧ t.mem = s.mem := by
  obtain ⟨x, hx, hb⟩ := hx
  refine ⟨s.wr a x, by rw [exec_firmware_plainRegs hs h, hx], fun j hj => ?_, fun r hr => s.rd_wr_other x hr, s.wr_mem a x⟩
  rw [State.bit_wr_self, hb j hj]

theorem regCodes_rw {a n : Nat} (h : (a, n) ∈ [(Reg.PN_SCHED_WAIT, 32), (Reg.EV_CTL, 16), (Reg.PW_ALERT_EN, 6)]) :
    a ∈ plainRegs ∧ regCodes a = some (2 ^ n - 1, 0, 0, [], []) := by
  simp only [List.mem_cons, List.not_mem_nil, or_false, Prod.mk.injEq] at h
  obtain ⟨rfl, rfl⟩ | ⟨rfl, rfl⟩ | ⟨rfl, rfl⟩ := h <;> exact ⟨by decide, rfl⟩

theorem regCodes_w1c {a n : Nat} (h : (a, n) ∈ [(Reg.PW_ALERT, 6), (Reg.HF_FW_STATUS, 6), (Reg.MM_STATUS, 5)]) :
    a ∈ plainRegs ∧ regCodes a = some (0, 2 ^ n - 1, 0, [], []) := by
  simp only [List.mem_cons, List.not_mem_nil, or_false, Prod.mk.injEq] at h
  obtain ⟨rfl, rfl⟩ | ⟨rfl, rfl⟩ | ⟨rfl, rfl⟩ := h <;> exact ⟨by decide, rfl⟩

/-! ### What a writer may not reach -/

/-- A host function other than the PF reaches its own block alone. -/
theorem regWrite_host_outside {s : State} {f a : Nat} (hf : 0 < f) (h : a < Reg.PC_LEASE f ∨ Reg.PC_LEASE (f + 1) ≤ a) (ha : a < 0x300000) (v : Word) :
    s.regWrite (.host f) a v = s := by
  have hbank : inBlock (Reg.BK_OWNER 0) 0x40 40960 a = false := inBlock_eq_false_iff.mpr (.inl (by simp only [Reg.BK_OWNER]; omega))
  have hmay : s.mayWrite (.host f) a = false := by
    simp only [State.mayWrite, if_neg (Nat.ne_of_gt hf), Bool.and_eq_false_iff, decide_eq_false_iff_not]
    omega
  unfold State.regWrite
  simp only [regHome_below ha, hbank, hmay, Bool.false_and, Bool.false_eq_true, if_false, ite_self]

theorem exec_pnJobmapWrite_outside {s : State} {a : Nat} (h : inBlock (Reg.PN_JOBMAP_CTL 0) 0x40 64 (regHome a) = false) (v : Word) :
    exec (.pnJobmapWrite .firmware a v) s = .next s := by
  rw [exec_pnJobmapWrite_eq, byWriter_of_no_component s (by simp)]
  simp [State.jobmapWrite, h]

theorem exec_pnJobmapWrite_inside {s : State} {a : Nat} (h : inBlock (Reg.PN_JOBMAP_CTL 0) 0x40 64 (regHome a) = true) (v : Word) :
    exec (.pnJobmapWrite .firmware a v) s = exec (.registerWrite .firmware a v) s := by
  rw [exec_pnJobmapWrite_eq, exec_registerWrite_eq, byWriter_of_no_component s (by simp), byWriter_of_no_component s (by simp)]
  simp [State.jobmapWrite, h]

/-! ### What the offsets of motifs, arrays and banks show: words that hardware keeps current (log entry 46) -/

/-- What a motif's block shows at an offset. -/
def State.motifView (s : State) (m o : Nat) : Word :=
  if 0x180 ≤ o && o < 0x200 then BitVec.ofNat 32 (s.ctxStateWord m ((o - 0x180) / 4))
  else if o = 0x264 then BitVec.ofNat 32 (s.tokWord m)
  else if o = 0x268 then BitVec.ofNat 32 (s.cmdStateWord m)
  else if o = 0x2C4 then BitVec.ofNat 32 (s.queueWord m)
  else s.rd (0x800000 + 0x400 * m + o)

/-- What an array's block shows at an offset other than that of MA_TILES_HI. -/
def State.arrayView (s : State) (m o : Nat) : Word :=
  if o = 0 then BitVec.ofNat 32 (s.maState m)
  else if o = 0x20 then (s.array m).tiles.setWidth 32
  else if 0x40 ≤ o && o < 0x50 then BitVec.ofNat 32 (s.maQState m ((o - 0x40) / 4))
  else s.rd (Reg.MA_STATE m + o)

theorem inBlock_past {base stride n a : Nat} (ha : 0x800000 ≤ a) (h : base + stride * n ≤ 0x800000) : inBlock base stride n a = false :=
  inBlock_eq_false_iff.mpr (.inr (by omega))

theorem ne_past {a b : Nat} (ha : 0x800000 ≤ a) (h : b < 0x800000) : (a = b) = False := eq_false (by omega)

/-- From the motifs up, only the arrays' MA_TILES_HI shows what a read latched. -/
theorem isLatchedHi_past {a : Nat} (ha : 0x800000 ≤ a) : isLatchedHi a = (inBlock (Reg.MA_STATE 0) 0x100 10240 a && decide (a % 0x100 = 0x24)) := by
  unfold isLatchedHi
  simp (disch := decide) only [ne_past ha, inBlock_past ha, decide_false, Bool.false_and, Bool.false_or, Bool.or_false]

theorem view_motif (s : State) {m o : Nat} (hm : m < 10240) (ho : o < 0x400) : s.view (0x800000 + 0x400 * m + o) = s.motifView m o := by
  unfold State.motifView
  generalize ha : 0x800000 + 0x400 * m + o = a
  have hlow : 0x800000 ≤ a := by omega
  have hmotif : inBlock 0x800000 0x400 10240 a = true := inBlock_eq_true_iff.mpr (by omega)
  have harray : inBlock (Reg.MA_STATE 0) 0x100 10240 a = false := inBlock_eq_false_iff.mpr (.inl (by simp only [Reg.MA_STATE]; omega))
  have hbank : inBlock (Reg.BK_OWNER 0) 0x40 40960 a = false := inBlock_eq_false_iff.mpr (.inl (by simp only [Reg.BK_OWNER]; omega))
  have hindex : blockIndex 0x800000 0x400 a = m := by unfold blockIndex; omega
  have hoff : a % 0x400 = o := by omega
  unfold State.view
  simp (disch := decide) only [regHome_above (show 0x400000 ≤ a by omega), isLatchedHi_past hlow, ne_past hlow, inBlock_past hlow, hmotif, harray, hbank,
    hindex, hoff, Bool.false_and, Bool.false_eq_true, if_false, if_true]

theorem view_array (s : State) {m o : Nat} (hm : m < 10240) (ho : o < 0x100) (hhi : o ≠ 0x24) : s.view (Reg.MA_STATE m + o) = s.arrayView m o := by
  unfold State.arrayView
  generalize ha : Reg.MA_STATE m + o = a
  simp only [Reg.MA_STATE] at ha
  have hlow : 0x800000 ≤ a := by omega
  have hmotif : inBlock 0x800000 0x400 10240 a = false := inBlock_eq_false_iff.mpr (by omega)
  have harray : inBlock (Reg.MA_STATE 0) 0x100 10240 a = true := inBlock_eq_true_iff.mpr (by simp only [Reg.MA_STATE]; omega)
  have hbank : inBlock (Reg.BK_OWNER 0) 0x40 40960 a = false := inBlock_eq_false_iff.mpr (.inl (by simp only [Reg.BK_OWNER]; omega))
  have hindex : blockIndex (Reg.MA_STATE 0) 0x100 a = m := by simp only [blockIndex, Reg.MA_STATE]; omega
  have hoff : a % 0x100 = o := by omega
  unfold State.view
  simp (disch := decide) only [regHome_above (show 0x400000 ≤ a by omega), isLatchedHi_past hlow, ne_past hlow, inBlock_past hlow, hmotif, harray, hbank,
    hindex, hoff, hhi, decide_false, Bool.and_false, Bool.false_and, Bool.false_eq_true, if_false, if_true]

/-- The registers of a bank show their stored words, BK_POWER apart. -/
theorem view_bank (s : State) {a : Nat} (h : Reg.BK_OWNER 0 ≤ a) (hp : a % 0x40 ≠ 4) : s.view a = s.rd a := by
  simp only [Reg.BK_OWNER] at h
  have hlow : 0x800000 ≤ a := by omega
  have hmotif : inBlock 0x800000 0x400 10240 a = false := inBlock_eq_false_iff.mpr (by omega)
  have harray : inBlock (Reg.MA_STATE 0) 0x100 10240 a = false := inBlock_eq_false_iff.mpr (.inr (by simp only [Reg.MA_STATE]; omega))
  unfold State.view
  simp (disch := decide) only [regHome_above (show 0x400000 ≤ a by omega), isLatchedHi_past hlow, ne_past hlow, inBlock_past hlow, hmotif, harray,
    hp, decide_false, Bool.and_false, Bool.false_and, Bool.false_eq_true, if_false]

theorem view_HF_BG (s : State) : s.view Reg.HF_BG = s.rd Reg.HF_BG := rfl

theorem view_MM_STAT (s : State) {i : Nat} (hi : i < 10) : s.view (Reg.MM_STAT i) = s.rd (Reg.MM_STAT i) := by
  interval_cases i <;> rfl

theorem State.ctxCode_lt (s : State) (m k c : Nat) : s.ctxCode m k c < 256 := by
  have h : ∀ p, phaseCode p < 256 := by intro p; cases p <;> decide
  unfold State.ctxCode
  split <;> exact h _

theorem sum_map_range_four (f : Nat → Nat) : ((List.range 4).map f).sum = f 0 + f 1 + f 2 + f 3 := by
  simp only [List.range_succ, List.range_zero, List.nil_append, List.cons_append, List.map_cons, List.map_nil, List.sum_cons, List.sum_nil, add_zero, add_assoc]

/-- The digits of a word in base 256. -/
theorem bitsOf_bytes {d : Nat → Nat} (h : ∀ c, d c < 256) {c : Nat} (hc : c < 4) :
    bitsOf (BitVec.ofNat 32 ((List.range 4).map (fun c => d c * 256 ^ c)).sum).toNat (8 * c) 8 = d c := by
  have h0 := h 0
  have h1 := h 1
  have h2 := h 2
  have h3 := h 3
  have hsum : d 0 * 256 ^ 0 + d 1 * 256 ^ 1 + d 2 * 256 ^ 2 + d 3 * 256 ^ 3 = d 0 + 256 * (d 1 + 256 * (d 2 + 256 * d 3)) := by ring
  rw [sum_map_range_four, hsum, BitVec.toNat_ofNat, Nat.mod_eq_of_lt (by omega), bitsOf, Nat.shiftRight_eq_div_pow]
  interval_cases c <;> omega

theorem bitsOf_ctxStateWord (s : State) (m k : Nat) {c : Nat} (hc : c < 4) :
    bitsOf (BitVec.ofNat 32 (s.ctxStateWord m k)).toNat (8 * c) 8 = s.ctxCode m k c := bitsOf_bytes (s.ctxCode_lt m k) hc

/-- A quadrant that no claim covers shows MA_QSTATE's reset value (R475). -/
theorem maQState_unclaimed {s : State} {m q : Nat} (hf : (s.engine m 4).owner = none) (hq : (s.engine m q).owner = none) : s.maQState m q = 0x40 := by
  simp [State.maQState, State.engineOver, hf, hq, Engine.setsWord, b2n]

theorem view_MT_QUEUE (s : State) {m : Nat} (hm : m < 10240) : s.view (0x800000 + 0x400 * m + 0x2C4) = BitVec.ofNat 32 (s.queueWord m) :=
  view_motif s hm (by decide)

theorem view_MT_CTX_STATE (s : State) {m k : Nat} (hm : m < 10240) (hk : k < 32) :
    s.view (0x800000 + 0x400 * m + 0x180 + 4 * k) = BitVec.ofNat 32 (s.ctxStateWord m k) := by
  rw [Nat.add_assoc, view_motif s hm (by omega)]
  have hi : (0x180 + 4 * k - 0x180) / 4 = k := by omega
  unfold State.motifView
  rw [if_pos (by simp only [Bool.and_eq_true, decide_eq_true_eq]; omega), hi]

theorem view_MT_TOK_DATA (s : State) {m : Nat} (hm : m < 10240) : s.view (0x800000 + 0x400 * m + 0x264) = BitVec.ofNat 32 (s.tokWord m) :=
  view_motif s hm (by decide)

theorem view_MT_CMD_STATE (s : State) {m : Nat} (hm : m < 10240) : s.view (0x800000 + 0x400 * m + 0x268) = BitVec.ofNat 32 (s.cmdStateWord m) :=
  view_motif s hm (by decide)

theorem view_MA_STATE (s : State) {m : Nat} (hm : m < 10240) : s.view (Reg.MA_STATE m) = BitVec.ofNat 32 (s.maState m) :=
  view_array s hm (o := 0) (by decide) (by decide)

theorem view_MA_TILES_LO (s : State) {m : Nat} (hm : m < 10240) : s.view (Reg.MA_STATE m + 0x20) = (s.array m).tiles.setWidth 32 :=
  view_array s hm (by decide) (by decide)

theorem view_MA_QSTATE (s : State) {m q : Nat} (hm : m < 10240) (hq : q < 4) : s.view (Reg.MA_STATE m + 0x40 + 4 * q) = BitVec.ofNat 32 (s.maQState m q) := by
  rw [Nat.add_assoc, view_array s hm (by omega) (by omega)]
  have hi : (0x40 + 4 * q - 0x40) / 4 = q := by omega
  unfold State.arrayView
  rw [if_neg (by omega), if_neg (by omega), if_pos (by simp only [Bool.and_eq_true, decide_eq_true_eq]; omega), hi]

/-! ### The rows of the banks' registers -/

/-- Whether every copy of a register lies below an offset. -/
def RegRow.below (r : RegRow) (lo : Nat) : Bool :=
  match r.dims with
  | [] => r.base < lo
  | (st, c) :: _ => 0 < st && r.base + st * c ≤ lo

/-- Whether an offset is a copy of a register. -/
def RegRow.holds (r : RegRow) (a : Nat) : Bool := r.base ≤ a && atStrides r.dims (a - r.base)

/-- A register whose copies lie below an offset holds none from there on. -/
theorem holds_past_below {r : RegRow} {lo a : Nat} (hr : r.below lo = true) (ha : lo ≤ a) : r.holds a = false := by
  unfold RegRow.below at hr
  unfold RegRow.holds
  rw [Bool.and_eq_false_iff, decide_eq_false_iff_not]
  refine .inr ?_
  split at hr
  · next hd =>
    rw [decide_eq_true_eq] at hr
    have hfar : ¬a - r.base = 0 := by omega
    simp only [hd, atStrides, hfar, decide_false]
  · next st c rest hd =>
    simp only [Bool.and_eq_true, decide_eq_true_eq] at hr
    obtain ⟨hst, hlo⟩ := hr
    have hfar : ¬(a - r.base) / st < c := by
      rw [Nat.div_lt_iff_lt_mul hst, Nat.mul_comm]
      omega
    simp only [hd, atStrides, hfar, decide_false, Bool.false_and]

/-- Whether a row is one of the banks' that starts below an offset. -/
def RegRow.bankRowBefore (r : RegRow) (base : Nat) : Bool := r.dims = [(0x40, 40960)] && Reg.BK_OWNER 0 ≤ r.base && r.base < base

/-- The registers of a bank's block before that of an offset do not hold it. -/
theorem holds_of_bankRowBefore {r : RegRow} {base : Nat} (hr : r.bankRowBefore base = true) (hb : base < Reg.BK_OWNER 1) (b : Nat) :
    r.holds (base + 0x40 * b) = false := by
  simp only [RegRow.bankRowBefore, Bool.and_eq_true, decide_eq_true_eq] at hr
  simp only [Reg.BK_OWNER] at hr hb
  obtain ⟨⟨hd, hlo⟩, hlt⟩ := hr
  have hmod : ¬(base + 0x40 * b - r.base) % 0x40 = 0 := by omega
  simp only [RegRow.holds, hd, atStrides, hmod, decide_false, Bool.and_false]

/-- The row of an offset is the first that holds it. -/
theorem regRow_of_split {pre post : List RegRow} {r : RegRow} {a : Nat} (hsplit : regRows = pre ++ r :: post) (hpre : ∀ q ∈ pre, q.holds a = false)
    (hr : r.holds a = true) : regRow a = some r := by
  refine List.find?_eq_some_iff_append.mpr ⟨hr, pre, post, hsplit, fun q hq => ?_⟩
  show (!q.holds a) = true
  rw [hpre q hq, Bool.not_false]

/-- The row of BK_ACCESS_COUNT. -/
def accessCountRow : RegRow := ⟨"BK_ACCESS_COUNT", 0x1A00010, [(0x40, 40960)], 0x0, 0x0, 0x0, 0x0, 0xFFFFFFFF, [], []⟩

theorem regRow_BK_ACCESS_COUNT {b : Nat} (hb : b < 40960) : regRow (Reg.BK_ACCESS_COUNT b) = some accessCountRow := by
  have hpre : ∀ q ∈ regRows.take 327, q.below (Reg.BK_OWNER 0) = true ∨ q.bankRowBefore (Reg.BK_ACCESS_COUNT 0) = true := by decide +kernel
  have hsplit : regRows = regRows.take 327 ++ accessCountRow :: regRows.drop 328 := by decide +kernel
  refine regRow_of_split hsplit (fun q hq => ?_) ?_
  · obtain h | h := hpre q hq
    · exact holds_past_below h (by simp only [Reg.BK_OWNER, Reg.BK_ACCESS_COUNT]; omega)
    · exact holds_of_bankRowBefore h (by decide) b
  · have hfirst : 0x1A00010 ≤ Reg.BK_ACCESS_COUNT b := by simp only [Reg.BK_ACCESS_COUNT]; omega
    have hdist : Reg.BK_ACCESS_COUNT b - 0x1A00010 = 0x40 * b := by simp only [Reg.BK_ACCESS_COUNT]; omega
    simp [RegRow.holds, accessCountRow, atStrides, hfirst, hdist, hb]

/-! ### Reads that change state -/

/-- A counter whose 32 bits are all RC, outside the blocks whose reads do more. -/
structure PlainCounter (a : Nat) : Prop where
  home : regHome a = a
  aligned : a % 4 = 0
  row : ∃ r, regRow a = some r ∧ r.rc = 0xFFFFFFFF
  noPort : inBlock (Reg.FM_CTL 0) 0x2000 8 a = false
  noRate : inBlock (Reg.CN_GROUND_RATE 0) 8 160 a = false
  shown : ∀ s : State, s.view a = s.rd a

theorem plainCounter_HF_BG : PlainCounter Reg.HF_BG := ⟨rfl, rfl, ⟨_, rfl, rfl⟩, rfl, rfl, view_HF_BG⟩

theorem plainCounter_MM_STAT {i : Nat} (hi : i < 10) : PlainCounter (Reg.MM_STAT i) where
  home := regHome_below (by simp only [Reg.MM_STAT]; omega)
  aligned := by simp only [Reg.MM_STAT]; omega
  row := by interval_cases i <;> exact ⟨_, rfl, rfl⟩
  noPort := inBlock_eq_false_iff.mpr (.inl (by simp only [Reg.MM_STAT, Reg.FM_CTL]; omega))
  noRate := inBlock_eq_false_iff.mpr (.inr (by simp only [Reg.MM_STAT, Reg.CN_GROUND_RATE]; omega))
  shown s := view_MM_STAT s hi

theorem plainCounter_BK_ACCESS_COUNT {b : Nat} (hb : b < 40960) : PlainCounter (Reg.BK_ACCESS_COUNT b) where
  home := regHome_above (by simp only [Reg.BK_ACCESS_COUNT]; omega)
  aligned := by simp only [Reg.BK_ACCESS_COUNT]; omega
  row := ⟨_, regRow_BK_ACCESS_COUNT hb, rfl⟩
  noPort := inBlock_eq_false_iff.mpr (.inr (by simp only [Reg.BK_ACCESS_COUNT, Reg.FM_CTL]; omega))
  noRate := inBlock_eq_false_iff.mpr (.inr (by simp only [Reg.BK_ACCESS_COUNT, Reg.CN_GROUND_RATE]; omega))
  shown s := view_bank s (by simp only [Reg.BK_ACCESS_COUNT, Reg.BK_OWNER]; omega) (by simp only [Reg.BK_ACCESS_COUNT]; omega)

theorem rcRead_plainCounter {s : State} (hs : s.power.s1 = true) {a : Nat} (h : PlainCounter a) :
    s.rcRead a = (s.wr a 0#32).emit (.regData a (s.rd a)) := by
  obtain ⟨r, hr, hrc⟩ := h.row
  have hclear : s.rd a &&& ~~~(BitVec.ofNat 32 0xFFFFFFFF) = 0#32 := by simp
  unfold State.rcRead
  simp only [h.home, hr, hs, hrc, h.aligned, h.noPort, h.noRate, h.shown, hclear]
  simp

/-- The read shows the count and leaves zero (R6). -/
theorem exec_rcCounterRead_plainCounter {s : State} (hs : s.power.s1 = true) {a : Nat} (h : PlainCounter a) :
    ∃ t, exec (.rcCounterRead a) s = .next t ∧ t.rd a = 0#32 ∧ t.out = s.out ++ [.regData a (s.rd a)] ∧
      (∀ r, r ≠ a → t.rd r = s.rd r) ∧ t.mem = s.mem := by
  rw [exec_rcCounterRead_eq, rcRead_plainCounter hs h]
  refine ⟨_, rfl, ?_, rfl, fun r hr => ?_, rfl⟩
  · rw [State.rd_emit, State.rd_wr_self]
  · rw [State.rd_emit, State.rd_wr_other _ _ hr]

theorem view_of_latched {s : State} {a : Nat} (h : isLatchedHi (regHome a) = true) : s.view a = s.latch.get 0#32 (regHome a) := by
  unfold State.view
  simp only [h, if_true]

theorem latchedLo_HF_USEC {s : State} (hs : s.power.s1 = true) {h : Nat} (hh : h < 2) :
    s.latchedLo (Reg.HF_USEC_LO h) =
      State.emit { s with latch := s.latch.put 0#32 (Reg.HF_USEC_HI h) (((if h = 0 then s.usecN else s.usecS) >>> 32).setWidth 32) }
        (.regData (Reg.HF_USEC_LO h) ((if h = 0 then s.usecN else s.usecS).setWidth 32)) := by
  unfold State.latchedLo
  interval_cases h <;> simp only [hs] <;> rfl

/-- The read of a headframe's counter shows the low word and latches the high one (R27). -/
theorem exec_latchedLoRead_HF_USEC {s : State} (hs : s.power.s1 = true) {h : Nat} (hh : h < 2) :
    ∃ t, exec (.latchedLoRead (Reg.HF_USEC_LO h)) s = .next t ∧ t.regs = s.regs ∧ t.mem = s.mem ∧
      t.out = s.out ++ [.regData (Reg.HF_USEC_LO h) ((if h = 0 then s.usecN else s.usecS).setWidth 32)] ∧
      t.view (Reg.HF_USEC_HI h) = ((if h = 0 then s.usecN else s.usecS) >>> 32).setWidth 32 := by
  have hhi : regHome (Reg.HF_USEC_HI h) = Reg.HF_USEC_HI h := regHome_below (by simp only [Reg.HF_USEC_HI]; omega)
  have hlatched : isLatchedHi (Reg.HF_USEC_HI h) = true := by interval_cases h <;> rfl
  rw [exec_latchedLoRead_eq, latchedLo_HF_USEC hs hh]
  refine ⟨_, rfl, rfl, rfl, rfl, ?_⟩
  rw [view_of_latched (by rw [hhi]; exact hlatched), hhi]
  exact SMap.get_put_self ..

/-- LO of a port's 64-bit statistics counter. -/
def portStat (p i : Nat) : Nat := Reg.FM_CTL p + 0x100 + 8 * i

theorem statLo_portStat {s : State} (hs : s.power.s1 = true) {p i : Nat} (hp : p < 8) (hi : i < 4) :
    s.statLo (portStat p i) =
      ((State.wr { s with latch := s.latch.put 0#32 (portStat p i + 4) (s.rd (portStat p i + 4)) } (portStat p i) 0#32).wr (portStat p i + 4) 0#32).emit
        (.regData (portStat p i) (s.rd (portStat p i))) := by
  have hport : inBlock (Reg.FM_CTL 0) 0x2000 8 (portStat p i) = true := inBlock_eq_true_iff.mpr (by simp only [portStat, Reg.FM_CTL]; omega)
  have hoff : portStat p i % 0x2000 = 0x100 + 8 * i := by simp only [portStat, Reg.FM_CTL]; omega
  unfold State.statLo
  rw [if_neg]
  simp only [hs, hport, hoff, Bool.not_true, Bool.false_or, Bool.or_eq_true, decide_eq_true_eq]
  omega

theorem isLatchedHi_portStat {p i : Nat} (hp : p < 8) (hi : i < 4) : isLatchedHi (portStat p i + 4) = true := by
  have hport : inBlock (Reg.FM_CTL 0) 0x2000 8 (portStat p i + 4) = true := inBlock_eq_true_iff.mpr (by simp only [portStat, Reg.FM_CTL]; omega)
  have hoff : (portStat p i + 4) % 0x2000 = 0x104 + 8 * i := by simp only [portStat, Reg.FM_CTL]; omega
  have hodd : (portStat p i + 4) % 8 = 4 := by simp only [portStat, Reg.FM_CTL]; omega
  have hfirst : 0x100 ≤ 0x104 + 8 * i := by omega
  have hlast : 0x104 + 8 * i < 0x120 := by omega
  simp only [isLatchedHi, hport, hoff, hodd, hfirst, hlast, decide_true, Bool.and_true, Bool.or_true]

/-- The read shows LO, latches HI and clears both (R357). -/
theorem exec_statLoRead_portStat {s : State} (hs : s.power.s1 = true) {p i : Nat} (hp : p < 8) (hi : i < 4) :
    ∃ t, exec (.statLoRead (portStat p i)) s = .next t ∧ t.rd (portStat p i) = 0#32 ∧ t.rd (portStat p i + 4) = 0#32 ∧
      t.view (portStat p i + 4) = s.rd (portStat p i + 4) ∧ t.out = s.out ++ [.regData (portStat p i) (s.rd (portStat p i))] ∧
      (∀ r, r ≠ portStat p i → r ≠ portStat p i + 4 → t.rd r = s.rd r) := by
  have hhi : regHome (portStat p i + 4) = portStat p i + 4 := regHome_below (by simp only [portStat, Reg.FM_CTL]; omega)
  rw [exec_statLoRead_eq, statLo_portStat hs hp hi]
  refine ⟨_, rfl, ?_, ?_, ?_, rfl, fun r hlo hhi => ?_⟩
  · rw [State.rd_emit, State.rd_wr_other _ _ (by omega), State.rd_wr_self]
  · rw [State.rd_emit, State.rd_wr_self]
  · rw [view_of_latched (by rw [hhi]; exact isLatchedHi_portStat hp hi), hhi]
    exact SMap.get_put_self ..
  · rw [State.rd_emit, State.rd_wr_other _ _ hhi, State.rd_wr_other _ _ hlo]
    rfl

/-! ### Bridges -/

/-- The bit of HF_BRIDGE at which the fill of a direction's FIFO starts. -/
abbrev fillBit (up : Bool) : Nat := if up then 0 else 8

/-- A bridge's FIFO with those entries, counted in HF_BRIDGE. -/
def State.bridgeHolding (s : State) (h b : Nat) (up : Bool) (l : List Line) : State :=
  State.setFld { s with bridges := s.bridges.put [] (bridgeKey h b up) l } (Reg.HF_BRIDGE h b) (fillBit up) 7 l.length

section Bridge

variable (s : State) (h b : Nat) (up : Bool)

theorem bridgeHolding_bridges (l : List Line) : (s.bridgeHolding h b up l).bridges.get [] (bridgeKey h b up) = l := SMap.get_put_self ..

theorem bridgeHolding_fill (l : List Line) : (s.bridgeHolding h b up l).fld (Reg.HF_BRIDGE h b) (fillBit up) 7 = l.length % 128 :=
  State.fld_setFld_self _ _ _ (by cases up <;> decide)

/-- The count of stalls stands above both fills. -/
theorem bridgeHolding_stalls (l : List Line) : (s.bridgeHolding h b up l).fld (Reg.HF_BRIDGE h b) 16 16 = s.fld (Reg.HF_BRIDGE h b) 16 16 :=
  (State.fld_setFld_apart _ _ _ (by cases up <;> decide) (.inl (by cases up <;> decide))).trans (State.fld_congr rfl ..)

variable {s h b up}

/-- Where BRIDGE_TRANSFER acts at all. -/
theorem bridge_reached (hs : s.power.s1 = true) (hh : h < 2) (hb : b < 32) : ¬(decide (2 ≤ h) || decide (32 ≤ b) || !s.power.s1) = true := by
  simp only [hs, Bool.not_true, Bool.or_false, Bool.or_eq_true, decide_eq_true_eq]
  omega

theorem bridge_empty (hl : s.bridges.get [] (bridgeKey h b up) = []) : s.bridge h b up none = s := by
  simp only [State.bridge, hl, ite_self]

theorem bridge_full (e : Line) (hl : 64 ≤ (s.bridges.get [] (bridgeKey h b up)).length) : s.bridge h b up (some e) = s := by
  simp only [State.bridge, hl, if_true, ite_self]

theorem bridge_leaves (hs : s.power.s1 = true) (hh : h < 2) (hb : b < 32) {e : Line} {r : List Line}
    (hl : s.bridges.get [] (bridgeKey h b up) = e :: r) : s.bridge h b up none = (s.bridgeHolding h b up r).emit (.bridge h b up e) := by
  simp only [State.bridge, if_neg (bridge_reached hs hh hb), hl]
  rfl

theorem bridge_enters (hs : s.power.s1 = true) (hh : h < 2) (hb : b < 32) (e : Line) {l : List Line}
    (hl : s.bridges.get [] (bridgeKey h b up) = l) (hroom : l.length < 64) :
    s.bridge h b up (some e) =
      if l.length = 63 then (s.bridgeHolding h b up (l ++ [e])).count (Reg.HF_BRIDGE h b) 16 16 1 else s.bridgeHolding h b up (l ++ [e]) := by
  simp only [State.bridge, if_neg (bridge_reached hs hh hb), hl, if_neg (Nat.not_le.mpr hroom)]
  rfl

/-- The entry at the front goes out to the other side (R21). -/
theorem exec_bridgeTransfer_leaves (hs : s.power.s1 = true) (hh : h < 2) (hb : b < 32) {e : Line} {r : List Line}
    (hl : s.bridges.get [] (bridgeKey h b up) = e :: r) :
    ∃ t, exec (.bridgeTransfer h b up none) s = .next t ∧ t.bridges.get [] (bridgeKey h b up) = r ∧ t.out = s.out ++ [.bridge h b up e] ∧
      t.fld (Reg.HF_BRIDGE h b) (if up then 0 else 8) 7 = r.length % 128 ∧ t.mem = s.mem := by
  rw [exec_bridgeTransfer_eq, bridge_leaves hs hh hb hl]
  exact ⟨_, rfl, bridgeHolding_bridges .., rfl, bridgeHolding_fill .., rfl⟩

theorem count_bridges (a lo n k : Nat) : (s.count a lo n k).bridges = s.bridges := rfl

theorem fld_count_apart (a : Nat) {lo n : Nat} (k : Nat) {lo' n' : Nat} (hn : lo + n ≤ 32) (hd : lo + n ≤ lo' ∨ lo' + n' ≤ lo) :
    (s.count a lo n k).fld a lo' n' = s.fld a lo' n' := State.fld_setFld_apart s a _ hn hd

/-- HF_BRIDGE counts the entry that fills the FIFO, up to 65535. -/
theorem bridgeHolding_count_stalls (l : List Line) : ((s.bridgeHolding h b up l).count (Reg.HF_BRIDGE h b) 16 16 1).fld (Reg.HF_BRIDGE h b) 16 16 =
    min 65535 (s.fld (Reg.HF_BRIDGE h b) 16 16 + 1) := by
  unfold State.count
  rw [State.fld_setFld_self _ _ _ (by decide), bridgeHolding_stalls]
  unfold satTo
  split <;> omega

/-- An entry joins a FIFO with room behind the others; the one that fills it is counted (R21). -/
theorem exec_bridgeTransfer_enters (hs : s.power.s1 = true) (hh : h < 2) (hb : b < 32) (e : Line) {l : List Line}
    (hl : s.bridges.get [] (bridgeKey h b up) = l) (hroom : l.length < 64) :
    ∃ t, exec (.bridgeTransfer h b up (some e)) s = .next t ∧ t.bridges.get [] (bridgeKey h b up) = l ++ [e] ∧ t.out = s.out ∧
      t.fld (Reg.HF_BRIDGE h b) (if up then 0 else 8) 7 = l.length + 1 ∧ t.mem = s.mem ∧
      t.fld (Reg.HF_BRIDGE h b) 16 16 = if l.length = 63 then min 65535 (s.fld (Reg.HF_BRIDGE h b) 16 16 + 1) else s.fld (Reg.HF_BRIDGE h b) 16 16 := by
  have hlen : (l ++ [e]).length % 128 = l.length + 1 := by
    rw [List.length_append, List.length_singleton]
    omega
  have hfill := (bridgeHolding_fill s h b up (l ++ [e])).trans hlen
  rw [exec_bridgeTransfer_eq, bridge_enters hs hh hb e hl hroom]
  split
  · refine ⟨_, rfl, ?_, ?_, ?_, ?_, bridgeHolding_count_stalls _⟩
    · rw [count_bridges, bridgeHolding_bridges]
    · rw [State.count_out]
      rfl
    · exact (fld_count_apart _ _ (by decide) (.inr (by cases up <;> decide))).trans hfill
    · rw [State.count_mem]
      rfl
  · exact ⟨_, rfl, bridgeHolding_bridges .., rfl, hfill, rfl, bridgeHolding_stalls ..⟩

end Bridge

/-! ### The obligation -/

/-- Settles O52: each clause by the lemma about its command or its register. Where the rules leave room the clauses are the model's choices: a
stopped component (log entry 39), the words hardware keeps current (46), the host's reach (47). -/
theorem registers : Obligations.Registers := by
  unfold Obligations.Registers
  refine ⟨⟨fun s w a v hs hw => exec_before_s1 hs hw a v,
      fun s v hs => ⟨fun a n h => ?rw, fun a n h => ?w1c, fun f a hf _ ha hlow => ?host, fun c a hc hr => ?component⟩,
      fun s a v => ⟨fun h => exec_pnJobmapWrite_outside h v, fun h => exec_pnJobmapWrite_inside h v⟩,
      fun s hs => ⟨fun a h => ?counter, fun h hh => exec_latchedLoRead_HF_USEC hs hh, fun p i hp hi => exec_statLoRead_portStat hs hp hi,
        fun h b up hh hb => ⟨fun hl => ?empty, fun e r hl => exec_bridgeTransfer_leaves hs hh hb hl, fun e hl => ?full,
          fun e hl => exec_bridgeTransfer_enters hs hh hb e rfl hl⟩⟩⟩,
    fun s m hm => ⟨view_MT_QUEUE s hm, fun k c hk hc => ?contexts, view_MT_TOK_DATA s hm, view_MT_CMD_STATE s hm, view_MA_STATE s hm,
      view_MA_TILES_LO s hm, fun q hq hfull hquad => ?quadrants⟩⟩
  case rw =>
    obtain ⟨ha, hc⟩ := regCodes_rw h
    exact exec_firmware_stores hs ha (regStore_rw s (regHome_plainRegs ha) hc v)
  case w1c =>
    obtain ⟨ha, hc⟩ := regCodes_w1c h
    exact exec_firmware_stores hs ha (regStore_w1c s (regHome_plainRegs ha) hc v)
  case host => rw [exec_registerWrite_eq, byWriter_of_no_component s (by simp), regWrite_host_outside hf ha hlow]
  case component => rw [exec_registerWrite_eq, byWriter_stops_component hc hr]
  case counter =>
    obtain rfl | ⟨i, hi, rfl⟩ | ⟨b, hb, rfl⟩ := h
    · exact exec_rcCounterRead_plainCounter hs plainCounter_HF_BG
    · exact exec_rcCounterRead_plainCounter hs (plainCounter_MM_STAT hi)
    · exact exec_rcCounterRead_plainCounter hs (plainCounter_BK_ACCESS_COUNT hb)
  case empty => rw [exec_bridgeTransfer_eq, bridge_empty hl]
  case full => rw [exec_bridgeTransfer_eq, bridge_full e hl]
  case contexts =>
    rw [view_MT_CTX_STATE s hm hk, bitsOf_ctxStateWord s m k hc]
    rfl
  case quadrants => rw [view_MA_QSTATE s hm hq, maQState_unclaimed hfull hquad]

end Sys2Proof.Machine
end

section
/-! PROOFS. The module right after reset; loads that return and posted stores that land. -/

namespace Sys2Proof.Machine

/-! ### The module right after reset -/

/-- Settles O5: nothing is stored yet, so memory's form is that of empty maps and PC_BOOT reads its reset word; that the inner state is empty at
reset is the model's choice (log entry 2). -/
theorem resetMemoryForm : Obligations.ResetMemoryForm :=
  ⟨memory_wf_reset, rfl, rfl, rfl, rfl, by decide, by decide, fun _ => rfl⟩

/-! ### Accesses admitted earlier -/

/-- With no handover or transition under its banks, an access admitted earlier is an ordinary one. -/
theorem admitted_of_settled {s : State} {age : Nat} (h : ∀ b, s.underHandover age b = false ∧ s.underSleep age b = false)
    (spans : List (Nat × Nat)) (f : State → State) : s.admitted age spans f = f s := by
  have hs : ∀ l : List Nat, l.filter (s.underHandover age) = [] := fun l => List.filter_eq_nil_iff.mpr (fun b _ => by simp [(h b).1])
  have ts : ∀ l : List Nat, l.filter (s.underSleep age) = [] := fun l => List.filter_eq_nil_iff.mpr (fun b _ => by simp [(h b).2])
  unfold State.admitted
  simp only [hs, ts, List.foldl_nil]

/-! ### Loads -/

theorem loadReturn_of_ready {s : State} {x i k : Nat} {l : PLoad} (host : List Host.Cell) (failed : Bool) (hx : (s.context x).task = some k)
    (hl : (s.task k).loads[i]? = some l) (hmay : s.mayReturn k l = true)
    (hb : ∀ b, s.underHandover l.born b = false ∧ s.underSleep l.born b = false) (hready : s.partsReady false l.parts = true) :
    let r := s.readParts l.parts (if failed then [] else host)
    let t := { r.1.task k with loads := (r.1.task k).loads.eraseIdx i }
    s.loadReturn x i host failed = ((r.1.setTask k
      (if l.dead then t else t.loadInto l.dst (r.1.forward k l.born l.addr r.2.1) r.2.2)).freeUser (.load k l.born)).wakeData x := by
  simp only [State.loadReturn, hx, hl, hmay, admitted_of_settled hb, hready, Bool.not_true, Bool.false_eq_true, if_false]

/-! ### Stores -/

/-- A posted store that holds its tags, or whose runs make no transactions, asks for none. -/
theorem asks_no_tags {s : State} {u : TagUser} {slot : Nat} {l : List (Nat × Nat × Nat)} (h : s.holdsTag u = true ∨ l = []) :
    (if s.holdsTag u || s.tagWaits u then s else s.askTags slot u l) = s := by
  obtain h | rfl := h
  · simp only [h, Bool.true_or, if_true]
  · exact ite_self s

theorem storeComplete_of_ready {s : State} {id : Nat} {p : Posted} (hp : s.posted.find? (fun q => q.id = id) = some p) (hmay : s.mayLand p = true)
    (htags : s.holdsTag (.store id) = true ∨ (cellRuns p.bytes).flatMap (fun r => s.transactions true r.1 r.2.length) = [])
    (hwait : s.tagWaits (.store id) = false) (hb : ∀ b, s.underHandover id b = false ∧ s.underSleep id b = false)
    (hready : (cellRuns p.bytes).all (fun r => s.spanReady .outside true r.1 r.2.length) = true) :
    s.storeComplete id = ((cellRuns p.bytes).foldl (fun (v : State) r => v.writeDev .outside r.1 r.2)
      { s.freeUser (.store id) with posted := s.posted.filter (fun q => q.id ≠ id) }).applyAdds := by
  have hid : p.id = id := by simpa using List.find?_some hp
  subst hid
  simp only [State.storeComplete, hp, hmay, asks_no_tags htags]
  simp only [hwait, admitted_of_settled hb, hready, Bool.not_true, Bool.false_eq_true, if_false]

/-- The bytes from an address on. -/
def cellsFrom (a : Nat) (bs : List Byte) : List (Nat × Byte) := bs.zipIdx.map (fun e => (a + e.2, e.1))

theorem cellsFrom_cons (a : Nat) (b : Byte) (bs : List Byte) : cellsFrom a (b :: bs) = (a, b) :: cellsFrom (a + 1) bs := by
  simp only [cellsFrom, List.zipIdx_cons, List.map_cons, List.zipIdx_succ, List.map_map]
  refine congrArg _ (List.map_congr_left fun e _ => ?_)
  simp only [Function.comp_apply, Prod.mk.injEq, and_true]
  omega

/-- Bytes at consecutive addresses are one run. -/
theorem cellRuns_cellsFrom (a : Nat) {bs : List Byte} (h : bs ≠ []) : cellRuns (cellsFrom a bs) = [(a, bs)] := by
  induction bs generalizing a with
  | nil => exact absurd rfl h
  | cons b rest ih =>
    rw [cellsFrom_cons, cellRuns]
    cases rest with
    | nil => rfl
    | cons c rest => simp only [ih (a + 1) (List.cons_ne_nil c rest), if_true]

/-- Settles O15. That a register a later instruction has written keeps its value is the model's choice (log entry 29), as is the order behind
mayReturn and mayLand (55). -/
theorem loadsReturnStoresLand : Obligations.LoadsReturnStoresLand := by
  refine ⟨fun s x i k host failed l hx hl hmay hb hready => ?_, ?_, fun p hp => cellRuns_cellsFrom p.1 hp⟩
  · exact congrArg Host.Outcome.next (loadReturn_of_ready host failed hx hl hmay hb hready)
  · intro s id p hp hmay runs htags hwait hb hready
    exact congrArg Host.Outcome.next (storeComplete_of_ready hp hmay htags hwait hb hready)

end Sys2Proof.Machine
end

section
/-! PROOFS. What folds over the state leave alone, and what they write. -/

namespace Sys2Proof.Machine

/-- What every step of a fold leaves alone, the fold leaves alone. -/
theorem foldl_frame {α γ : Type} (g : State → γ) {f : State → α → State} (hf : ∀ s a, g (f s a) = g s) (l : List α) (s : State) :
    g (l.foldl f s) = g s := by
  induction l generalizing s with
  | nil => rfl
  | cons a r ih => exact (ih (f s a)).trans (hf s a)

section WriteAll

variable {α : Type} {at_ : α → Nat} (word : α → Word)

theorem rd_foldl_wr_other {r : Nat} (l : List α) (h : ∀ e ∈ l, r ≠ at_ e) (s : State) : (l.foldl (fun s e => s.wr (at_ e) (word e)) s).rd r = s.rd r := by
  induction l generalizing s with
  | nil => rfl
  | cons e l ih =>
    exact (ih (fun x hx => h x (List.mem_cons_of_mem e hx)) _).trans (State.rd_wr_other s (word e) (h e List.mem_cons_self))

/-- Words written at different offsets: each stands there afterwards. -/
theorem rd_foldl_wr_mem (l : List α) (hl : (l.map at_).Nodup) {e : α} (he : e ∈ l) (s : State) :
    (l.foldl (fun s e => s.wr (at_ e) (word e)) s).rd (at_ e) = word e := by
  induction l generalizing s with
  | nil => exact absurd he List.not_mem_nil
  | cons d l ih =>
    rw [List.map_cons, List.nodup_cons] at hl
    obtain ⟨hd, hl⟩ := hl
    obtain rfl | he := List.mem_cons.mp he
    · refine (rd_foldl_wr_other word l (fun x hx hx' => hd ?_) _).trans (State.rd_wr_self ..)
      exact hx' ▸ List.mem_map_of_mem hx
    · exact ih hl he _

end WriteAll

/-- An event whose class is not MODULE_FATAL leaves the registers alone. -/
theorem raise_regs (s : State) (code : Code) {cls : EvClass} (h : cls ≠ .moduleFatal) (source : Nat) (data : List Nat) :
    (s.raise code cls source data).regs = s.regs := if_neg h

end Sys2Proof.Machine
end

section
/-! PROOFS. The event unit, stalled cores, words that are no instruction, and exception records. -/

namespace Sys2Proof.Machine

/-! ### The event unit -/

theorem exec_eventRecord_eq (read : Bool) (s : State) : exec (.eventRecord read) s = .next (s.recordEvent read) := rfl

theorem recordEvent_none {s : State} (read : Bool) (h : s.evq = [] ∨ s.power.s1 = false ∨ s.fld Reg.PC_BOOT 0 3 < 2) : s.recordEvent read = s := by
  unfold State.recordEvent
  obtain h | h | h := h
  · simp only [h, ite_self]
  · simp only [h, Bool.not_false, Bool.true_or, if_true]
  · simp only [h, decide_true, Bool.or_true, if_true]

/-- What a record that stands in the ring still changes: the log, its count of dropped records, and what the functions are sent. -/
structure SameButLog (s t : State) : Prop where
  rd : ∀ a, a ≠ Reg.EV_INFO_DROPPED → t.rd a = s.rd a
  mem : t.mem = s.mem
  evq : t.evq = s.evq
  tasks : t.tasks = s.tasks

theorem SameButLog.trans {a b c : State} (h : SameButLog a b) (g : SameButLog b c) : SameButLog a c :=
  ⟨fun r hr => (g.rd r hr).trans (h.rd r hr), g.mem.trans h.mem, g.evq.trans h.evq, g.tasks.trans h.tasks⟩

/-- The log takes a record into its page or the queue of its flash, or counts it as dropped (R462). -/
theorem logRecord_same (s : State) (cls : EvClass) (bytes : List Byte) : SameButLog s (s.logRecord cls bytes) := by
  have hfw : ∀ (v : State) fw, SameButLog v { v with fw := fw } := fun v fw => ⟨fun _ _ => rfl, rfl, rfl, rfl⟩
  unfold State.logRecord
  extract_lets sec n copy
  have hcopy : ∀ v, SameButLog v (copy v) := by
    intro v
    show SameButLog v (if _ then _ else _)
    split
    · exact hfw v _
    · exact ⟨fun _ _ => rfl, rfl, rfl, rfl⟩
  split
  · exact hcopy s
  · split
    · exact (hfw s _).trans (hcopy _)
    · exact (hfw s _).trans ⟨fun a ha => State.rd_setFld_other _ _ _ _ ha, rfl, rfl, rfl⟩

theorem signalEvent_same (s : State) : SameButLog s s.signalEvent := by
  unfold State.signalEvent
  refine ⟨fun a _ => foldl_frame (·.rd a) ?_ _ s, foldl_frame (·.mem) ?_ _ s, foldl_frame (·.evq) ?_ _ s, foldl_frame (·.tasks) ?_ _ s⟩ <;>
    exact fun _ _ => rfl

/-- The ring's entry that a record with a sequence number takes: its first word. -/
abbrev ringWord (seq : Nat) : Nat := seq % 8192 * 8

/-- OVERWRITTEN set if the entry to be written holds a record that nobody has read. -/
def State.overwrite (s : State) (read : Bool) (i : Nat) : State :=
  if s.rd2 (Reg.EV_WIN i) (Reg.EV_WIN (i + 1)) ≠ 0 && !read then s.setBit Reg.EV_STATUS 0 true else s

/-- The words of a record written to the ring from word i on. -/
def State.putWords (s : State) (i : Nat) (ws : List Nat) : State :=
  ws.zipIdx.foldl (fun s w => s.wr (Reg.EV_WIN (i + w.2)) (BitVec.ofNat 32 w.1)) s

/-- EV_LAST shows a sequence number. -/
def State.showSeq (s : State) (seq : Nat) : State :=
  (s.wr Reg.EV_LAST_LO (BitVec.ofNat 32 seq)).wr Reg.EV_LAST_HI (BitVec.ofNat 32 (seq / 2 ^ 32))

/-- A record stands in the ring. -/
def State.inRing (s : State) (e : Event) (rest : List Event) (read : Bool) (seq : Nat) : State :=
  ((State.overwrite { s with evq := rest } read (ringWord seq)).putWords (ringWord seq) (e.words seq)).showSeq seq

theorem recordEvent_first {s : State} {e : Event} {rest : List Event} (read : Bool) (hq : s.evq = e :: rest) (hs : s.power.s1 = true)
    (hb : 2 ≤ s.fld Reg.PC_BOOT 0 3) : SameButLog (s.inRing e rest read (s.rd2 Reg.EV_LAST_LO Reg.EV_LAST_HI + 1)) (s.recordEvent read) := by
  have hgo : ¬(!s.power.s1 || decide (s.fld Reg.PC_BOOT 0 3 < 2)) = true := by simp [hs, Nat.not_lt.mpr hb]
  unfold State.recordEvent
  rw [if_neg hgo]
  simp only [hq]
  split
  · exact (logRecord_same ..).trans (signalEvent_same _)
  · exact logRecord_same ..

theorem putWords_other (s : State) {i r : Nat} {ws : List Nat} (h : r < Reg.EV_WIN i ∨ Reg.EV_WIN (i + ws.length) ≤ r) : (s.putWords i ws).rd r = s.rd r := by
  refine rd_foldl_wr_other _ _ (fun w hw => ?_) s
  have hj := (List.mem_zipIdx' hw).1
  simp only [Reg.EV_WIN] at h ⊢
  omega

theorem putWords_at (s : State) (i : Nat) {ws : List Nat} {j w : Nat} (h : ws[j]? = some w) : (s.putWords i ws).rd (Reg.EV_WIN (i + j)) = BitVec.ofNat 32 w := by
  refine rd_foldl_wr_mem (at_ := fun w : Nat × Nat => Reg.EV_WIN (i + w.2)) _ ws.zipIdx ?_ (e := (w, j)) (List.mem_zipIdx_iff_getElem?.mpr h) s
  have hidx : ws.zipIdx.map (fun w => Reg.EV_WIN (i + w.2)) = (ws.zipIdx.map Prod.snd).map (fun j => Reg.EV_WIN (i + j)) := by
    rw [List.map_map]
    rfl
  rw [hidx, List.zipIdx_map_snd]
  refine List.Nodup.map (fun a b hab => ?_) (List.nodup_range' ..)
  simp only [Reg.EV_WIN] at hab
  omega

theorem ofNat_mod_word (n : Nat) : BitVec.ofNat 32 (n % 2 ^ 32) = BitVec.ofNat 32 n := by
  rw [← BitVec.toNat_inj, BitVec.toNat_ofNat, BitVec.toNat_ofNat, Nat.mod_mod]

theorem classNumber_lt (c : EvClass) : classNumber c < 2 ^ 8 := by cases c <;> decide

/-- The data of a record begin in the second byte of its fifth word. -/
theorem word_of_data (c : EvClass) (d : Nat) : (classNumber c + d * 2 ^ 8) / 2 ^ 32 = d / 2 ^ 24 := by
  have hc := classNumber_lt c
  rw [show (2 : Nat) ^ 32 = 2 ^ 8 * 2 ^ 24 by norm_num, ← Nat.div_div_eq_div_mul, Nat.add_mul_div_right _ _ (by norm_num), Nat.div_eq_of_lt hc, Nat.zero_add]

section InRing

variable (s : State) (e : Event) (rest : List Event) (read : Bool) (seq : Nat)

theorem inRing_EV_WIN {j w : Nat} (h : (e.words seq)[j]? = some w) : (s.inRing e rest read seq).rd (Reg.EV_WIN (ringWord seq + j)) = BitVec.ofNat 32 w := by
  unfold State.inRing State.showSeq
  rw [State.rd_wr_other, State.rd_wr_other]
  · exact putWords_at _ _ h
  · simp only [Reg.EV_WIN, Reg.EV_LAST_LO]
    omega
  · simp only [Reg.EV_WIN, Reg.EV_LAST_HI]
    omega

theorem inRing_EV_LAST : (s.inRing e rest read seq).rd Reg.EV_LAST_LO = BitVec.ofNat 32 seq ∧
    (s.inRing e rest read seq).rd Reg.EV_LAST_HI = BitVec.ofNat 32 (seq / 2 ^ 32) := by
  unfold State.inRing State.showSeq
  refine ⟨?_, State.rd_wr_self ..⟩
  rw [State.rd_wr_other _ _ (by decide), State.rd_wr_self]

/-- An entry overwritten unread is told. -/
theorem inRing_EV_STATUS (hold : s.rd2 (Reg.EV_WIN (ringWord seq)) (Reg.EV_WIN (ringWord seq + 1)) ≠ 0) (hr : read = false) :
    (s.inRing e rest read seq).bit Reg.EV_STATUS 0 = true := by
  have hcond : (decide (State.rd2 { s with evq := rest } (Reg.EV_WIN (ringWord seq)) (Reg.EV_WIN (ringWord seq + 1)) ≠ 0) && !read) = true := by
    simp only [hr, Bool.not_false, Bool.and_true, decide_eq_true_eq]
    exact hold
  have hout : Reg.EV_STATUS < Reg.EV_WIN (ringWord seq) := by
    simp only [Reg.EV_STATUS, Reg.EV_WIN]
    omega
  have hbit := State.bit_setBit_self { s with evq := rest } Reg.EV_STATUS true (show 0 < 32 by decide)
  unfold State.inRing State.showSeq State.overwrite State.bit
  rw [State.rd_wr_other _ _ (by decide), State.rd_wr_other _ _ (by decide), putWords_other _ (.inl hout), if_pos hcond]
  exact hbit

theorem inRing_frame : (s.inRing e rest read seq).mem = s.mem ∧ (s.inRing e rest read seq).evq = rest ∧ (s.inRing e rest read seq).tasks = s.tasks := by
  have hput : ∀ (γ : Type) (g : State → γ) (hw : ∀ s a v, g (State.wr s a v) = g s) (v : State), g ((v.putWords (ringWord seq) (e.words seq)).showSeq seq) = g v :=
    fun γ g hw v => (hw _ _ _).trans ((hw _ _ _).trans (foldl_frame g (fun s w => hw s _ _) _ v))
  unfold State.inRing
  rw [hput _ (·.mem) (fun _ _ _ => rfl), hput _ (·.evq) (fun _ _ _ => rfl), hput _ (·.tasks) (fun _ _ _ => rfl)]
  unfold State.overwrite
  split <;> exact ⟨rfl, rfl, rfl⟩

end InRing

/-- EVENT_RECORD with an event waiting: the words it leaves in the ring and in EV_LAST. -/
theorem exec_eventRecord_first {s : State} {e : Event} {rest : List Event} (read : Bool) (hq : s.evq = e :: rest) (hs : s.power.s1 = true)
    (hb : 2 ≤ s.fld Reg.PC_BOOT 0 3) :
    let seq := s.rd2 Reg.EV_LAST_LO Reg.EV_LAST_HI + 1
    let i := seq % 8192 * 8
    let d := (Config.eventData (codeNumber e.code) e.data).toNat
    ∃ t, exec (.eventRecord read) s = .next t ∧ t.mem = s.mem ∧ t.evq = rest ∧ t.tasks = s.tasks ∧
      t.rd Reg.EV_LAST_LO = BitVec.ofNat 32 seq ∧ t.rd Reg.EV_LAST_HI = BitVec.ofNat 32 (seq / 2 ^ 32) ∧
      t.rd (Reg.EV_WIN i) = BitVec.ofNat 32 seq ∧ t.rd (Reg.EV_WIN (i + 1)) = BitVec.ofNat 32 (seq / 2 ^ 32) ∧
      t.rd (Reg.EV_WIN (i + 2)) = BitVec.ofNat 32 e.usec ∧ t.rd (Reg.EV_WIN (i + 3)) = BitVec.ofNat 32 (e.source + 2 ^ 16 * codeNumber e.code) ∧
      t.rd (Reg.EV_WIN (i + 4)) = BitVec.ofNat 32 (classNumber e.cls + d * 2 ^ 8) ∧ t.rd (Reg.EV_WIN (i + 5)) = BitVec.ofNat 32 (d / 2 ^ 24) ∧
      (s.rd2 (Reg.EV_WIN i) (Reg.EV_WIN (i + 1)) ≠ 0 → read = false → t.bit Reg.EV_STATUS 0 = true) := by
  intro seq i d
  have h := recordEvent_first read hq hs hb
  obtain ⟨hmem, hevq, htasks⟩ := inRing_frame s e rest read seq
  obtain ⟨hlo, hhi⟩ := inRing_EV_LAST s e rest read seq
  have hword : ∀ (j w : Nat), (e.words seq)[j]? = some (w % 2 ^ 32) → (s.recordEvent read).rd (Reg.EV_WIN (i + j)) = BitVec.ofNat 32 w := by
    intro j w hw
    rw [h.rd _ (by simp only [Reg.EV_WIN, Reg.EV_INFO_DROPPED]; omega), ← ofNat_mod_word w]
    exact inRing_EV_WIN s e rest read seq hw
  refine ⟨_, rfl, h.mem.trans hmem, h.evq.trans hevq, h.tasks.trans htasks, (h.rd _ (by decide)).trans hlo, (h.rd _ (by decide)).trans hhi,
    hword 0 _ rfl, hword 1 _ rfl, hword 2 _ rfl, hword 3 _ rfl, hword 4 _ rfl, hword 5 _ ?_, fun hold hr => ?_⟩
  · rw [← word_of_data e.cls d]
    rfl
  · rw [State.bit, h.rd _ (by decide)]
    exact inRing_EV_STATUS s e rest read seq hold hr

/-! ### Fenced cores -/

theorem exec_coreStallFence_eq (x : Nat) (s : State) : exec (.coreStallFence x) s = .next (s.stallFence x) := rfl

theorem exec_add_upset (x : Nat) (d a : SReg) (b : Src) (s : State) : exec (.add x d a b true) s = .next (s.fenceCore (motifOf x) (coreOf x) 1) := rfl

theorem stallFence_other {s : State} {x : Nat} (h : 10240 * 128 ≤ x ∨ (s.context x).phase ≠ .ready) : s.stallFence x = s := by
  unfold State.stallFence
  refine if_neg fun hx => ?_
  rw [Bool.and_eq_true, decide_eq_true_eq, decide_eq_true_eq] at hx
  obtain h | h := h
  · exact absurd hx.1 (Nat.not_lt.mpr h)
  · exact h hx.2

theorem stallFence_ready {s : State} {x : Nat} (hx : x < 10240 * 128) (h : (s.context x).phase = .ready) :
    s.stallFence x = s.fenceCore (motifOf x) (coreOf x) 2 := by
  unfold State.stallFence
  rw [if_pos (by rw [Bool.and_eq_true, decide_eq_true_eq, decide_eq_true_eq]; exact ⟨hx, h⟩)]

theorem fenceCore_fenced {s : State} {m c : Nat} (cause : Nat) (h : s.coreFenced m c = true) : s.fenceCore m c cause = s := if_pos h

/-- Two events of one source and one cycle are numbered as they were raised. -/
theorem oneCycle_two {s t : State} {f : State → State} (hf : f s = t) {a b : Event} (he : t.evq = s.evq ++ [a, b]) (hab : a.source = b.source) :
    s.oneCycle f = t := by
  have hdrop : t.evq.drop s.evq.length = [a, b] := by rw [he, List.drop_left]
  have htake : t.evq.take s.evq.length = s.evq := by rw [he, List.take_left]
  have hsort : [a, b].foldl (fun l e => bySource e l) [] = [a, b] := by
    simp only [List.foldl_cons, List.foldl_nil, bySource, hab, Nat.lt_irrefl, if_false]
  unfold State.oneCycle
  simp only [hf, hdrop, htake, hsort, ← he]

theorem setCorePhase_context (s : State) (m c : Nat) (p : CtxPhase) {i : Nat} (hi : i < 4) :
    ((s.setCorePhase m c p).context (m * 128 + c * 4 + i)).phase = p := by
  have hput : ∀ (s : State) (j : Nat) (v : Ctx), (s.setContext j v).context (m * 128 + c * 4 + i) =
      if m * 128 + c * 4 + i = j then v else s.context (m * 128 + c * 4 + i) := fun s j v => SMap.get_put ..
  simp only [State.setCorePhase, List.foldl_cons, List.foldl_nil, hput]
  interval_cases i <;> simp

theorem setCorePhase_regs (s : State) (m c : Nat) (p : CtxPhase) : (s.setCorePhase m c p).regs = s.regs :=
  foldl_frame (·.regs) (fun v _ => State.setContext_regs v _ _) _ s
theorem setCorePhase_evq (s : State) (m c : Nat) (p : CtxPhase) : (s.setCorePhase m c p).evq = s.evq :=
  foldl_frame (·.evq) (fun v _ => State.setContext_evq v _ _) _ s
theorem setCorePhase_usecN (s : State) (m c : Nat) (p : CtxPhase) : (s.setCorePhase m c p).usecN = s.usecN :=
  foldl_frame (·.usecN) (fun v _ => State.setContext_usecN v _ _) _ s
theorem setCorePhase_mem (s : State) (m c : Nat) (p : CtxPhase) : (s.setCorePhase m c p).mem = s.mem :=
  foldl_frame (·.mem) (fun v _ => State.setContext_mem v _ _) _ s

theorem raise_evq (s : State) (code : Code) (cls : EvClass) (source : Nat) (data : List Nat) :
    (s.raise code cls source data).evq = s.evq ++ [⟨code, cls, source, data, s.usecN.toNat % 2 ^ 32⟩] := rfl

/-- A core with no task put out of service. -/
def State.coreOff (s : State) (m c cause : Nat) : State :=
  State.setCorePhase (State.raise ((s.setBit (Reg.MT_CORES_FENCED m) c true).setBit (Reg.MT_CORES_SPARE m) c false).noteMaps .CORE_FENCED .fenced m [c, cause])
    m c .offline

/-- The same where no spare is left. -/
def State.coreLost (s : State) (m c cause : Nat) : State := (s.coreOff m c cause).raise .MOTIF_DEGRADED .info m [c]

section CoreLost

variable (s : State) (m : Nat) {c : Nat} (cause : Nat)

theorem coreOff_regs (c : Nat) : (s.coreOff m c cause).regs = ((s.setBit (Reg.MT_CORES_FENCED m) c true).setBit (Reg.MT_CORES_SPARE m) c false).regs := by
  unfold State.coreOff
  rw [setCorePhase_regs, raise_regs _ _ (by decide)]
  rfl

theorem coreLost_evq (c : Nat) : (s.coreLost m c cause).evq = s.evq ++
    [⟨.CORE_FENCED, .fenced, m, [c, cause], s.usecN.toNat % 2 ^ 32⟩, ⟨.MOTIF_DEGRADED, .info, m, [c], s.usecN.toNat % 2 ^ 32⟩] := by
  unfold State.coreLost State.coreOff
  rw [raise_evq, setCorePhase_evq, raise_evq, setCorePhase_usecN, State.raise_usecN, List.append_assoc]
  rfl

theorem coreLost_mem (c : Nat) : (s.coreLost m c cause).mem = s.mem := by
  unfold State.coreLost State.coreOff
  rw [State.raise_mem, setCorePhase_mem, State.raise_mem]
  rfl

theorem coreLost_fenced (hc : c < 32) : (s.coreLost m c cause).coreFenced m c = true := by
  have hne : Reg.MT_CORES_FENCED m ≠ Reg.MT_CORES_SPARE m := by simp only [Reg.MT_CORES_FENCED, Reg.MT_CORES_SPARE]; omega
  unfold State.coreFenced State.coreLost
  rw [State.bit_congr ((raise_regs _ _ (by decide) _ _).trans (coreOff_regs s m cause c)), State.bit_setBit_other _ _ _ _ hne,
    State.bit_setBit_self _ _ _ hc]

/-- No core of the motif is left as a spare. -/
theorem coreOff_no_spare (hc : c < 32) (hs : ∀ i, i < 32 → i ≠ c → s.coreSpare m i = false) {i : Nat} (hi : i < 32) :
    (s.coreOff m c cause).coreSpare m i = false := by
  have hne : Reg.MT_CORES_SPARE m ≠ Reg.MT_CORES_FENCED m := by simp only [Reg.MT_CORES_FENCED, Reg.MT_CORES_SPARE]; omega
  unfold State.coreSpare
  rw [State.bit_congr (coreOff_regs s m cause c)]
  by_cases hic : i = c
  · rw [hic, State.bit_setBit_self _ _ _ hc]
  · rw [State.bit_setBit_apart _ _ _ hc hic, State.bit_setBit_other _ _ _ _ hne]
    exact hs i hi hic

theorem coreLost_context {i : Nat} (hi : i < 4) : ((s.coreLost m c cause).context (m * 128 + c * 4 + i)).phase = .offline := by
  unfold State.coreLost State.coreOff
  rw [State.context_raise, setCorePhase_context _ m c .offline hi]

end CoreLost

theorem fenceCore_lost {s : State} {m c : Nat} (cause : Nat) (hc : c < 32) (hf : s.coreFenced m c = false)
    (ht : ∀ i, i < 4 → (s.context (m * 128 + c * 4 + i)).task = none) (hs : ∀ i, i < 32 → i ≠ c → s.coreSpare m i = false) :
    s.fenceCore m c cause = s.coreLost m c cause := by
  have hkeys : [0, 1, 2, 3].filterMap (fun i => (s.context (m * 128 + c * 4 + i)).task) = [] := by
    rw [List.filterMap_eq_nil_iff]
    intro i hi
    exact ht i (by simp only [List.mem_cons, List.not_mem_nil, or_false] at hi; omega)
  have hspare : (List.range 32).find? (fun i => (s.coreOff m c cause).coreSpare m i) = none := by
    rw [List.find?_eq_none]
    intro i hi
    rw [coreOff_no_spare s m cause hc hs (List.mem_range.mp hi)]
    exact Bool.false_ne_true
  unfold State.fenceCore
  rw [if_neg (by rw [hf]; exact Bool.false_ne_true)]
  refine oneCycle_two ?_ (coreLost_evq s m cause c) rfl
  simp only [hkeys, List.foldl_nil]
  split
  · next i hi => exact absurd (hi.symm.trans hspare) (Option.some_ne_none i)
  · rfl

/-! ### Words that are no instruction -/

theorem exec_unassignedInstruction_eq (x : Nat) (w0 w1 : Word) (s : State) : exec (.unassignedInstruction x w0 w1) s = .next (s.issueIllegal x w0 w1) := rfl

/-- A word that is no instruction issues and is refused. -/
theorem issue_illegal {s u : State} {x n k : Nat} {i : Insn} {reads writes : List LoadDst} {body : State → Nat → Task → Issue}
    (h : Issues s x n [] k u) (hn : (if i.long then 8 else 4) = n) :
    s.issue x i true reads writes body = (u.tookTurn x).issueFault x k .ILLEGAL i.w0 i.w1 0 0 := by
  subst hn
  have hp : (!((s.context x).phase = .ready || (s.context x).phase = .running || (s.context x).phase = .waitData)) = false := by
    rcases h.phase with e | e | e <;> simp [e]
  have hd : (s.deferred.any fun d => d.cmd.key = k) = false := by simpa using h.noFault
  unfold State.issue
  rw [h.task]
  dsimp only
  rw [hp, hd, h.turn, h.fetch, h.waits]
  rfl

theorem issueIllegal_legal {w0 w1 : Word} (h : legalWords w0.toNat w1.toNat = true) (s : State) (x : Nat) : s.issueIllegal x w0 w1 = s := if_pos h

theorem issueIllegal_illegal {s u : State} {x k : Nat} {w0 w1 : Word} (h : legalWords w0.toNat w1.toNat = false)
    (hi : Issues s x (if bitsOf w0.toNat 26 6 = 0x3F then 8 else 4) [] k u) : s.issueIllegal x w0 w1 =
      (u.tookTurn x).issueFault x k .ILLEGAL w0.toNat (if bitsOf w0.toNat 26 6 = 0x3F then w1.toNat else 0) 0 0 := by
  unfold State.issueIllegal
  rw [if_neg (by rw [h]; exact Bool.false_ne_true), issue_illegal hi]
  by_cases hl : bitsOf w0.toNat 26 6 = 0x3F <;> simp [hl]

/-! ### Exception records -/

/-- The eight words of an exception record (R152). -/
def excWords (code : Code) (x slot : Nat) (deferred : Bool) (pc w0 w1 addr detail : Nat) : List Word :=
  [BitVec.ofNat 32 (codeNumber code + 2 ^ 16 * ctxIn x + 2 ^ 18 * coreOf x + 2 ^ 23 * slot + 2 ^ 29 * b2n deferred),
    BitVec.ofNat 32 (motifOf x), BitVec.ofNat 32 pc, BitVec.ofNat 32 w0, BitVec.ofNat 32 w1,
    BitVec.ofNat 32 addr, BitVec.ofNat 32 (addr / 2 ^ 32 % 2 ^ 24), BitVec.ofNat 32 detail]

/-- The words of an exception record written to MT_EXC, and the record counted. -/
def State.putExc (s : State) (m : Nat) (ws : List Word) : State :=
  ((List.range 8).foldl (fun s i => s.wr (Reg.MT_EXC m i) (ws.getD i 0#32)) s).count (Reg.MT_EXC_COUNT m) 0 16 1

theorem putExc_rd (s : State) (m : Nat) (ws : List Word) {i : Nat} (hi : i < 8) : (s.putExc m ws).rd (Reg.MT_EXC m i) = ws.getD i 0#32 := by
  unfold State.putExc State.count
  rw [State.rd_setFld_other _ _ _ _ (by simp only [Reg.MT_EXC, Reg.MT_EXC_COUNT]; omega)]
  refine rd_foldl_wr_mem (at_ := Reg.MT_EXC m) _ (List.range 8) ?_ (List.mem_range.mpr hi) s
  refine List.Nodup.map (fun a b hab => ?_) List.nodup_range
  simp only [Reg.MT_EXC] at hab
  omega

theorem putExc_count (s : State) (m : Nat) (ws : List Word) :
    (s.putExc m ws).fld (Reg.MT_EXC_COUNT m) 0 16 = min 65535 (s.fld (Reg.MT_EXC_COUNT m) 0 16 + 1) := by
  have hother : ∀ i ∈ List.range 8, Reg.MT_EXC_COUNT m ≠ Reg.MT_EXC m i := by
    intro i hi
    have hlt := List.mem_range.mp hi
    simp only [Reg.MT_EXC, Reg.MT_EXC_COUNT]
    omega
  unfold State.putExc State.count
  rw [State.fld_setFld_self _ _ _ (by decide), State.fld, rd_foldl_wr_other (at_ := Reg.MT_EXC m) _ (List.range 8) hother]
  unfold satTo State.fld
  split <;> omega

theorem putExc_frame (s : State) (m : Nat) (ws : List Word) : (s.putExc m ws).mem = s.mem ∧ (s.putExc m ws).tasks = s.tasks := by
  unfold State.putExc
  rw [State.count_mem, State.count_tasks]
  exact ⟨foldl_frame (·.mem) (fun v i => State.wr_mem v _ _) _ s, foldl_frame (·.tasks) (fun v i => State.wr_tasks v _ _) _ s⟩

section Exception

variable (s : State) (code : Code) (x slot : Nat) (deferred : Bool) (pc w0 w1 addr detail : Nat)

theorem writeExc_eq : ∃ j, s.writeExc code x slot deferred pc w0 w1 addr detail =
    (s.putExc (motifOf x) (excWords code x slot deferred pc w0 w1 addr detail)).setJob slot j := ⟨_, rfl⟩

theorem writeExc_rd_MT_EXC {i : Nat} {w : Word} (h : (excWords code x slot deferred pc w0 w1 addr detail)[i]? = some w) :
    (s.writeExc code x slot deferred pc w0 w1 addr detail).rd (Reg.MT_EXC (motifOf x) i) = w := by
  obtain ⟨j, hj⟩ := writeExc_eq s code x slot deferred pc w0 w1 addr detail
  have hi : i < 8 := (List.getElem?_eq_some_iff.mp h).1
  rw [hj, State.rd_setJob, putExc_rd s _ _ hi, List.getD_eq_getElem?_getD, h, Option.getD_some]

theorem writeExc_count : (s.writeExc code x slot deferred pc w0 w1 addr detail).fld (Reg.MT_EXC_COUNT (motifOf x)) 0 16 =
    min 65535 (s.fld (Reg.MT_EXC_COUNT (motifOf x)) 0 16 + 1) := by
  obtain ⟨j, h⟩ := writeExc_eq s code x slot deferred pc w0 w1 addr detail
  rw [h, State.fld_congr (State.setJob_regs ..), putExc_count]

theorem writeExc_frame : (s.writeExc code x slot deferred pc w0 w1 addr detail).mem = s.mem ∧
    (s.writeExc code x slot deferred pc w0 w1 addr detail).tasks = s.tasks := by
  obtain ⟨j, h⟩ := writeExc_eq s code x slot deferred pc w0 w1 addr detail
  rw [h, State.setJob_mem, State.setJob_tasks]
  exact putExc_frame s _ _

end Exception

/-- Settles O60: each clause by the lemma about its operation. The bytes of DATA (log entry 8), the order of raising (77), the upset as an
operand (65) and the READY context (86) are the model's choices. -/
theorem eventsAndExceptions : Obligations.EventsAndExceptions := by
  refine ⟨fun s read => ⟨fun h => ?none, fun e rest hq hs hb => exec_eventRecord_first read hq hs hb⟩,
    fun s x d a b => ⟨fun h => ?other, fun hx h => ?stall, exec_add_upset x d a b s⟩,
    fun s m c cause hc => ⟨fenceCore_fenced cause, fun hf ht hs => ?lost⟩, fun s u x k n w0 w1 => ⟨fun h => ?legal, ?illegal⟩,
    fun s code x slot deferred pc w0 w1 addr detail => ?exception⟩
  case none => rw [exec_eventRecord_eq, recordEvent_none read h]
  case other => rw [exec_coreStallFence_eq, stallFence_other h]
  case stall => rw [exec_coreStallFence_eq, stallFence_ready hx h]
  case lost =>
    rw [fenceCore_lost cause hc hf ht hs, coreLost_evq, List.map_append]
    exact ⟨coreLost_fenced s m cause hc, coreLost_mem s m cause c, fun i hi => coreLost_context s m cause hi, rfl⟩
  case legal => rw [exec_unassignedInstruction_eq, issueIllegal_legal h]
  case illegal =>
    rintro h rfl hi
    rw [exec_unassignedInstruction_eq, issueIllegal_illegal h hi]
  case exception =>
    intro t m
    have hw : ∀ (i : Nat) (w : Word), (excWords code x slot deferred pc w0 w1 addr detail)[i]? = some w → t.rd (Reg.MT_EXC m i) = w :=
      fun i w => writeExc_rd_MT_EXC s code x slot deferred pc w0 w1 addr detail
    have hflag : 2 ^ 29 * b2n deferred = if deferred then 2 ^ 29 else 0 := by cases deferred <;> rfl
    rw [← hflag]
    exact ⟨hw 0 _ rfl, hw 1 _ rfl, hw 2 _ rfl, hw 3 _ rfl, hw 4 _ rfl, hw 5 _ rfl, hw 6 _ rfl, hw 7 _ rfl, writeExc_count .., writeExc_frame ..⟩

end Sys2Proof.Machine
end

section
/-! PROOFS. Served requests, the update sweep, digests, and the starts that wait on tokens. -/

namespace Sys2Proof.Machine

/-! ### Requests and responses -/

theorem exec_serveReq_eq (hf : Nat) (s : State) : exec (.serveReq hf) s = .next (s.serveReq hf) := rfl

theorem exec_serveRsp_eq (hf : Nat) (s : State) : exec (.serveRsp hf) s = .next (s.serveRsp hf) := rfl

theorem serveReq_none {s : State} {hf : Nat} (h : s.rxMessage hf tServeReq = none) : s.serveReq hf = s := by
  unfold State.serveReq
  rw [h]

theorem serveRsp_none {s : State} {hf : Nat} (h : s.rxMessage hf tServeRsp = none) : s.serveRsp hf = s := by
  unfold State.serveRsp
  rw [h]

theorem serveRsp_some {s v : State} {hf port : Nat} {k : GftPacket} {bytes : List Byte} (h : s.rxMessage hf tServeRsp = some (port, k, bytes, v)) :
    s.serveRsp hf = v.emit (.served k.msg k.handle bytes) := by
  unfold State.serveRsp
  rw [h]

/-- Whether a request has the same sender and identifier as a live one. -/
def State.repeats (s : State) (k : GftPacket) : Bool := s.ledger.any (fun e => e.2.st ≠ 0 && !e.2.capsule && e.2.origin = k.src && e.2.reqId = k.msg)

section Request

variable {s v : State} {hf port slot : Nat} {k : GftPacket} {bytes : List Byte}

theorem serveReq_some (h : s.rxMessage hf tServeReq = some (port, k, bytes, v)) (hk : v.requestSlot k = some slot) :
    s.serveReq hf = if v.repeats k then v else if !v.takesRequests slot false then v else match v.freeLedger hf with
      | none => v.sendServeRsp hf slot k.src k.group k.msg 13 []
      | some e => v.enterRequest e { slot := slot, reqId := k.msg, origin := k.src, port := port, payload := bytes, group := k.group } := by
  unfold State.serveReq
  simp only [h, hk]
  rfl

variable (h : s.rxMessage hf tServeReq = some (port, k, bytes, v)) (hk : v.requestSlot k = some slot)
include h hk

theorem serveReq_ignored (hi : v.repeats k = true ∨ v.takesRequests slot false = false) : s.serveReq hf = v := by
  rw [serveReq_some h hk]
  obtain hi | hi := hi
  · rw [if_pos hi]
  · rw [hi, Bool.not_false, if_pos rfl, ite_self]

theorem serveReq_busy (hnew : v.repeats k = false) (ht : v.takesRequests slot false = true) (hfull : v.freeLedger hf = none) :
    s.serveReq hf = v.sendServeRsp hf slot k.src k.group k.msg 13 [] := by
  simp only [serveReq_some h hk, hnew, ht, hfull, Bool.not_true, Bool.false_eq_true, if_false]

theorem serveReq_enters (hnew : v.repeats k = false) (ht : v.takesRequests slot false = true) {e : Nat} (hfree : v.freeLedger hf = some e) :
    s.serveReq hf = v.enterRequest e { slot := slot, reqId := k.msg, origin := k.src, port := port, payload := bytes, group := k.group } := by
  simp only [serveReq_some h hk, hnew, ht, hfree, Bool.not_true, Bool.false_eq_true, if_false]

end Request

theorem ledgerEntry_setLedger (s : State) (e : Nat) (v : LedgerE) : (s.setLedger e v).ledgerEntry e = v := SMap.get_put_self s.ledger {} v e

/-- A request entered stands in its entry, QUEUED and with the current generation. -/
theorem ledgerEntry_enterRequest (s : State) (e : Nat) (l : LedgerE) : (s.enterRequest e l).ledgerEntry e =
    { l with st := 1, gen := s.fld Reg.EM_GEN 0 16, arrival := s.usecN.toNat % 2 ^ 32, payloadOff := e } := by
  unfold State.enterRequest
  rw [ledgerEntry_setLedger]

/-! ### Dispatch and results -/

theorem exec_serveDispatch_eq (e : Nat) (records : List (List Word)) (s : State) : exec (.serveDispatch e records) s = .next (s.serveDispatch e records) := rfl

theorem serveDispatch_none {s : State} {e : Nat} {records : List (List Word)}
    (h : (s.ledgerEntry e).st ≠ 1 ∨ s.slotIs (s.ledgerEntry e).slot .running = false ∨ records = [] ∨ s.fw.shift = 3) : s.serveDispatch e records = s := by
  unfold State.serveDispatch
  refine if_pos ?_
  simp only [Bool.or_eq_true, decide_eq_true_eq, Bool.not_eq_true']
  tauto

theorem serveDispatch_starts {s : State} {e : Nat} {records : List (List Word)} (hst : (s.ledgerEntry e).st = 1)
    (hrun : s.slotIs (s.ledgerEntry e).slot .running = true) (hrec : records ≠ []) (hfw : s.fw.shift ≠ 3) :
    let t := (s.setLedger e { s.ledgerEntry e with st := 2 }).placeAll (s.ledgerEntry e).slot e records
    s.serveDispatch e records = if (t.tasks.filter (fun x => x.2.request = some e)).length = records.length then t else s := by
  unfold State.serveDispatch
  refine if_neg ?_
  simp only [Bool.or_eq_true, decide_eq_true_eq, Bool.not_eq_true']
  rw [hrun]
  tauto

theorem exec_resultStore_eq (e : Nat) (payload : List Byte) (s : State) : exec (.resultStore e payload) s = .next (s.resultStore e payload) := rfl

theorem resultStore_failed {s : State} {e : Nat} (payload : List Byte) (h : (s.ledgerEntry e).st = 3) :
    s.resultStore e payload = s.reply e (s.ledgerEntry e).status (s.ledgerEntry e).detail [] := if_pos h

theorem resultStore_done {s : State} {e : Nat} (payload : List Byte) (h : (s.ledgerEntry e).st = 2) (ht : ∀ t ∈ s.tasks, t.2.request ≠ some e) :
    s.resultStore e payload = s.reply e (s.ledgerEntry e).status (s.ledgerEntry e).detail payload := by
  have hnone : s.tasks.any (fun t => decide (t.2.request = some e)) = false := by
    rw [List.any_eq_false]
    exact fun t h => by simpa using ht t h
  simp only [State.resultStore, h, hnone]
  rfl

theorem resultStore_waits {s : State} {e : Nat} (payload : List Byte)
    (h : (s.ledgerEntry e).st < 2 ∨ (s.ledgerEntry e).st = 2 ∧ ∃ t ∈ s.tasks, t.2.request = some e) : s.resultStore e payload = s := by
  unfold State.resultStore
  dsimp only
  obtain h | ⟨h, t, ht, he⟩ := h
  · rw [if_neg (by omega), if_neg (by rw [Bool.and_eq_true, decide_eq_true_eq]; omega)]
  · have hsome : s.tasks.any (fun t => decide (t.2.request = some e)) = true := List.any_eq_true.mpr ⟨t, ht, decide_eq_true he⟩
    rw [if_neg (by omega), hsome, Bool.not_true, Bool.and_false, if_neg Bool.false_ne_true]

/-! ### The sweep -/

theorem exec_sweepStart_eq (slot : Nat) (s : State) : exec (.sweepStart slot) s = .next (s.sweepStart slot) := rfl

/-- What a sweep of a slot waits for (R304). -/
def State.sweepDue (s : State) (slot : Nat) : Prop :=
  (s.job slot).drainOrder = 2 ∧ (s.job slot).flushed = 2 ∧ s.entriesOf slot [1] = [] ∧ s.runningColls slot = []

theorem sweepStart_condition (s : State) (slot : Nat) :
    (decide ((s.job slot).drainOrder ≠ 2) || decide ((s.job slot).flushed ≠ 2) || decide (s.entriesOf slot [1] ≠ []) || decide (s.runningColls slot ≠ [])) = true ↔
      ¬s.sweepDue slot := by
  simp only [State.sweepDue, Bool.or_eq_true, decide_eq_true_eq]
  tauto

theorem sweepStart_not_due {s : State} {slot : Nat} (h : ¬s.sweepDue slot) : s.sweepStart slot = s := if_pos ((sweepStart_condition s slot).mpr h)

theorem sweepStart_due {s : State} {slot : Nat} (h : s.sweepDue slot) : s.sweepStart slot =
    ((s.setJob slot { s.job slot with drainOrder := 3 }).setSlot slot .sweep).setSweep slot { ran := (s.sweep slot).ran } :=
  if_neg (fun hc => (sweepStart_condition s slot).mp hc h)

theorem setSweep_job (s : State) (slot : Nat) (w : SweepSt) (j : Nat) : (s.setSweep slot w).job j = s.job j := rfl

theorem setSweep_mem (s : State) (slot : Nat) (w : SweepSt) : (s.setSweep slot w).mem = s.mem := rfl

theorem sweep_setSweep (s : State) (slot : Nat) (w : SweepSt) : (s.setSweep slot w).sweep slot = w := SMap.get_put_self ..

theorem setSlot_job (s : State) (slot : Nat) (p : SlotPhase) (j : Nat) : (s.setSlot slot p).job j = s.job j := rfl

theorem exec_sweepStart_due {s : State} {slot : Nat} (h : s.sweepDue slot) : ∃ t, exec (.sweepStart slot) s = .next t ∧ (t.job slot).drainOrder = 3 ∧
    (t.sweep slot).staged = [] ∧ (t.sweep slot).done = [] ∧ (t.sweep slot).ran = (s.sweep slot).ran ∧ t.mem = s.mem := by
  rw [exec_sweepStart_eq, sweepStart_due h]
  refine ⟨_, rfl, ?_, ?_, ?_, ?_, setSweep_mem ..⟩
  · rw [setSweep_job, setSlot_job, State.job_setJob_self]
  all_goals rw [sweep_setSweep]

theorem exec_sweepUpdateTask_eq (slot e b area grad : Nat) (pc : Word) (host : List Host.Cell) (s : State) :
    exec (.sweepUpdateTask slot e b area grad pc host) s = .next (s.sweepUpdate slot e b area grad pc host) := rfl

theorem sweepUpdate_outside {s : State} {slot e b : Nat} (area grad : Nat) (pc : Word) (host : List Host.Cell)
    (h : s.slotIs slot .sweep = false ∨ s.upCount slot ≤ e ∨ s.upBlocks slot e ≤ b) : s.sweepUpdate slot e b area grad pc host = s := by
  unfold State.sweepUpdate
  refine if_pos ?_
  obtain h | h | h := h <;> simp only [h, decide_true, Bool.not_false, Bool.true_or, Bool.or_true]

theorem sweepUpdate_inside {s : State} {slot e b : Nat} (area grad : Nat) (pc : Word) (host : List Host.Cell)
    (hs : s.slotIs slot .sweep = true) (he : e < s.upCount slot) (hb : b < s.upBlocks slot e) :
    s.sweepUpdate slot e b area grad pc host = match (s.sweep slot).staged.find? (fun x => x.entry = e && x.block = b) with
      | some x => if s.alive x.key then s else s.finishUpdate slot x
      | none => if (s.sweep slot).done.contains (e, b) then s else s.stageUpdate slot e b area grad pc host := by
  have hin : ¬(!s.slotIs slot .sweep || decide (s.upCount slot ≤ e) || decide (s.upBlocks slot e ≤ b)) = true := by
    simp only [hs, Bool.not_true, Bool.false_or, Bool.or_eq_true, decide_eq_true_eq]
    omega
  unfold State.sweepUpdate
  exact if_neg hin

theorem exec_sweepPhase2_eq (slot : Nat) (s : State) : exec (.sweepPhase2 slot) s = .next (s.sweepPhase2 slot) := rfl

theorem sweepPhase2_not_yet {s : State} {slot : Nat} (h : s.slotIs slot .sweep = false ∨ s.phase1Done slot = false) : s.sweepPhase2 slot = s := by
  unfold State.sweepPhase2
  refine if_pos ?_
  simp only [Bool.or_eq_true, Bool.not_eq_true']
  exact h

/-- SWEEP_COUNT one higher. -/
def State.sweepCounted (s : State) (slot : Nat) : State :=
  let n := s.rd2 (Reg.UP_JOB_SWEEP_LO slot) (Reg.UP_JOB_SWEEP_HI slot) + 1
  (s.wr (Reg.UP_JOB_SWEEP_LO slot) (BitVec.ofNat 32 n)).wr (Reg.UP_JOB_SWEEP_HI slot) (BitVec.ofNat 32 (n / 2 ^ 32))

/-- A sweep's blocks and states forgotten, and order 3 of its drain complete. -/
def State.sweepEnded (s : State) (slot : Nat) : State :=
  let y := s.setSweep slot { s.sweep slot with staged := [], done := [], states := [] }
  (y.setJob slot { y.job slot with drainOrder := 4, compared := 0 }).setSlot slot .draining

theorem sweepPhase2_no_entries {s : State} {slot : Nat} (hs : s.slotIs slot .sweep = true) (hd : s.phase1Done slot = true) (h0 : s.upCount slot = 0) :
    s.sweepPhase2 slot = (((s.showRoot slot).statsRecord slot).sweepCounted slot).sweepEnded slot := by
  unfold State.sweepPhase2
  rw [if_neg (by rw [hs, hd]; decide)]
  simp only [h0, List.range_zero, List.foldl_nil]
  rfl

/-! ### Digests -/

theorem exec_digestCompare_eq (slot : Nat) (others : List (Nat × List Nat)) (suspects : List Nat) (s : State) :
    exec (.digestCompare slot others suspects) s = .next (s.digestCompare slot others suspects) := rfl

theorem digestCompare_not_due {s : State} {slot : Nat} {others : List (Nat × List Nat)} (suspects : List Nat)
    (h : (s.job slot).drainOrder ≠ 9 ∨ (s.job slot).compared ≠ 0 ∨ s.compareDue slot = false ∨ others.length + 1 ≠ s.fld (Reg.UP_JOB_GROUP slot) 16 16) :
    s.digestCompare slot others suspects = s := by
  unfold State.digestCompare
  dsimp only
  split
  · rfl
  · next hc =>
    rw [if_pos]
    simp only [Bool.or_eq_true, decide_eq_true_eq, Bool.not_eq_true'] at hc
    tauto

/-- A comparison in which every leaf agrees, of a module that is number `me` with reference `ref`. -/
def State.agreed (s : State) (slot me ref : Nat) : State :=
  let t := s.wr (Reg.UP_JOB_MODULE slot) (BitVec.ofNat 32 (me + 2 ^ 16 * ref))
  let u := (State.setSweep { t with suspectFrom := t.suspectFrom.put 0 slot t.suspectLog.length } slot { t.sweep slot with ran := [] }).count
    (Reg.UP_JOB_COMPARES slot) 0 16 1
  u.setJob slot { u.job slot with compared := 2, repairs := [] }

theorem digestCompare_agreed {s : State} {slot : Nat} {others : List (Nat × List Nat)} (suspects : List Nat) (hd : (s.job slot).drainOrder = 9)
    (hc : (s.job slot).compared = 0) (hdue : s.compareDue slot = true) (hn : others.length + 1 = s.fld (Reg.UP_JOB_GROUP slot) 16 16)
    (hsame : ∀ o ∈ others, o.2 = s.digestLeaves slot) :
    s.digestCompare slot others suspects = s.agreed slot (s.myModule slot) ((others.map (·.1)).foldl min (s.myModule slot)) := by
  have hdiff : (List.range (s.digestLeaves slot).length).filter (fun i =>
      ((s.myModule slot, (s.digestLeaves slot).getD i 0) :: others.map (fun o => (o.1, o.2.getD i 0))).any
        (fun v => decide (v.2 ≠ (s.digestLeaves slot).getD i 0))) = [] := by
    rw [List.filter_eq_nil_iff]
    intro i _
    rw [Bool.not_eq_true, List.any_eq_false]
    intro v hv
    rw [decide_eq_true_eq, not_not]
    obtain rfl | hv := List.mem_cons.mp hv
    · rfl
    · obtain ⟨o, ho, rfl⟩ := List.mem_map.mp hv
      rw [hsame o ho]
  unfold State.digestCompare
  simp only [hd, hc, hdue, hn, hdiff, ne_eq, not_true_eq_false, decide_false, Bool.not_true, Bool.or_false, Bool.false_eq_true, if_false, if_true,
    List.map_nil, List.any_nil, List.length_nil, Nat.not_lt_zero, List.filterMap_nil]
  rfl

theorem agreed_frame (s : State) (slot me ref : Nat) : (s.agreed slot me ref).mem = s.mem ∧ (s.agreed slot me ref).evq = s.evq := by
  unfold State.agreed
  dsimp only
  rw [State.setJob_mem, State.setJob_evq, State.count_mem, State.count_evq]
  exact ⟨rfl, rfl⟩

theorem exec_digestCompare_agreed {s : State} {slot : Nat} {others : List (Nat × List Nat)} (suspects : List Nat) (hd : (s.job slot).drainOrder = 9)
    (hc : (s.job slot).compared = 0) (hdue : s.compareDue slot = true) (hn : others.length + 1 = s.fld (Reg.UP_JOB_GROUP slot) 16 16)
    (hsame : ∀ o ∈ others, o.2 = s.digestLeaves slot) : ∃ t, exec (.digestCompare slot others suspects) s = .next t ∧ (t.job slot).compared = 2 ∧
      (t.job slot).repairs = [] ∧ t.fld (Reg.UP_JOB_COMPARES slot) 0 16 = min 65535 (s.fld (Reg.UP_JOB_COMPARES slot) 0 16 + 1) ∧ t.mem = s.mem ∧
      t.evq = s.evq := by
  rw [exec_digestCompare_eq, digestCompare_agreed suspects hd hc hdue hn hsame]
  refine ⟨_, rfl, ?_, ?_, ?_, agreed_frame ..⟩
  · unfold State.agreed
    rw [State.job_setJob_self]
  · unfold State.agreed
    rw [State.job_setJob_self]
  · have hne : Reg.UP_JOB_COMPARES slot ≠ Reg.UP_JOB_MODULE slot := by simp only [Reg.UP_JOB_COMPARES, Reg.UP_JOB_MODULE]; omega
    unfold State.agreed State.count
    rw [State.fld_congr (State.setJob_regs ..), State.fld_setFld_self _ _ _ (by decide)]
    have hfld : ∀ (t : State) (g : SMap Nat) (w : SweepSt), State.fld (State.setSweep { t with suspectFrom := g } slot w) (Reg.UP_JOB_COMPARES slot) 0 16 =
      t.fld (Reg.UP_JOB_COMPARES slot) 0 16 := fun _ _ _ => rfl
    rw [hfld, State.fld_wr_other _ _ _ _ hne]
    unfold satTo
    split <;> omega

theorem exec_digestRepair_eq (slot leaf : Nat) (block : List Byte) (s : State) : exec (.digestRepair slot leaf block) s = .next (s.digestRepair slot leaf block) := rfl

theorem digestRepair_none {s : State} {slot leaf : Nat} {block : List Byte}
    (h : (s.job slot).compared ≠ 1 ∨ block.length ≠ 4096 ∨ ∀ r ∈ (s.job slot).repairs, r.1 ≠ leaf) : s.digestRepair slot leaf block = s := by
  unfold State.digestRepair
  dsimp only
  split
  · next r a off hr _ =>
    rw [if_pos]
    rw [Bool.or_eq_true, decide_eq_true_eq, decide_eq_true_eq]
    obtain h | h | h := h
    · exact .inl h
    · exact .inr h
    · exact absurd (by simpa using List.find?_some hr) (h r (List.mem_of_find?_eq_some hr))
  · rfl

/-! ### Starts that take a token -/

theorem exec_prefetchStart_eq (slot : Nat) (s : State) : exec (.prefetchStart slot) s =
    .next (if s.slotIs slot .running then s.onToken (s.rd (Reg.UP_JOB_PF_TOKEN slot)) (fun t => t.nextPrefetch slot) else s) := rfl

theorem exec_microbatchStart_eq (slot : Nat) (s : State) : exec (.microbatchStart slot) s =
    .next (if s.slotIs slot .running then s.onToken (s.rd (Reg.UP_JOB_MB_TOKEN slot)) (fun t => t.nextMicrobatch slot) else s) := rfl

theorem onToken_empty {s : State} {a : Word} (h : (s.token a.toNat).count = 0) (start : State → Option State) : s.onToken a start = s := if_pos h

theorem onToken_idle {s : State} (a : Word) {start : State → Option State} (h : ∀ a t, start (s.setToken a t) = none) : s.onToken a start = s := by
  unfold State.onToken
  dsimp only
  split
  · rfl
  · rw [h, Option.getD_none]

theorem onToken_starts {s t : State} {a : Word} {start : State → Option State} (h : (s.token a.toNat).count ≠ 0)
    (ht : start (s.setToken a.toNat { s.token a.toNat with count := (s.token a.toNat).count - 1 }) = some t) : s.onToken a start = t := by
  unfold State.onToken
  dsimp only
  rw [if_neg h, ht, Option.getD_some]

theorem nextPrefetch_none {s : State} {slot : Nat} (h : s.fld (Reg.UP_JOB_PF_COUNT slot) 0 12 ≤ (s.job slot).pfStarted.length) : s.nextPrefetch slot = none :=
  if_pos h

theorem nextMicrobatch_none {s : State} {slot : Nat} (h : s.fld (Reg.UP_JOB_CTL slot) 8 8 ≤ (s.job slot).mbStarted) : s.nextMicrobatch slot = none := by
  unfold State.nextMicrobatch
  dsimp only
  rw [if_pos]
  rw [Bool.or_eq_true, decide_eq_true_eq]
  exact .inl h

/-- The next microbatch record queued and counted. -/
def State.mbNext (s : State) (slot : Nat) : State :=
  let k := (s.job slot).mbStarted
  let t := (s.queueRecord slot (s.mbRecord slot k)).1
  t.setJob slot { t.job slot with mbStarted := k + 1 }

theorem nextMicrobatch_some {s : State} {slot : Nat} (h : (s.job slot).mbStarted < s.fld (Reg.UP_JOB_CTL slot) 8 8) (hs : (s.job slot).inStep = true) :
    s.nextMicrobatch slot = some (s.mbNext slot) := by
  unfold State.nextMicrobatch
  dsimp only
  rw [if_neg]
  · rfl
  · rw [hs, Bool.not_true, Bool.or_false, decide_eq_true_eq]
    exact Nat.not_le.mpr h

theorem enqueue_frame (s : State) (m k : Nat) : (s.enqueue m k).tokens = s.tokens ∧ (s.enqueue m k).mem = s.mem := by
  unfold State.enqueue
  dsimp only
  split
  · exact ⟨rfl, rfl⟩
  · split <;> exact ⟨rfl, rfl⟩

theorem newTask_frame (s : State) (slot parent : Nat) (rec : List Word) (m : Nat) : (s.newTask slot parent rec m).1.tokens = s.tokens ∧
    (s.newTask slot parent rec m).1.mem = s.mem := ⟨rfl, rfl⟩

theorem mbNext_frame (s : State) (slot : Nat) : (s.mbNext slot).tokens = s.tokens ∧ (s.mbNext slot).mem = s.mem := by
  unfold State.mbNext State.queueRecord
  dsimp only
  rw [State.setJob_tokens, State.setJob_mem]
  obtain ⟨htok, hmem⟩ := newTask_frame s slot 0xFFFFFFFF (s.mbRecord slot (s.job slot).mbStarted)
    (bitsOf (((s.mbRecord slot (s.job slot).mbStarted).drop 1).headD 0#32).toNat 0 14)
  exact ⟨(enqueue_frame _ _ _).1.trans htok, (enqueue_frame _ _ _).2.trans hmem⟩

theorem token_mbNext (s : State) (slot a : Nat) : (s.mbNext slot).token a = s.token a := by
  unfold State.token
  rw [(mbNext_frame s slot).1]

theorem exec_microbatchStart_starts {s : State} {slot : Nat} (hrun : s.slotIs slot .running = true)
    (htok : (s.token (s.rd (Reg.UP_JOB_MB_TOKEN slot)).toNat).count ≠ 0) (hmb : (s.job slot).mbStarted < s.fld (Reg.UP_JOB_CTL slot) 8 8)
    (hstep : (s.job slot).inStep = true) : ∃ t, exec (.microbatchStart slot) s = .next t ∧
      (t.token (s.rd (Reg.UP_JOB_MB_TOKEN slot)).toNat).count = (s.token (s.rd (Reg.UP_JOB_MB_TOKEN slot)).toNat).count - 1 ∧
      (t.job slot).mbStarted = (s.job slot).mbStarted + 1 ∧ t.mem = s.mem := by
  generalize hmb_tok : s.rd (Reg.UP_JOB_MB_TOKEN slot) = a at htok ⊢
  have hnext : ∀ v, State.nextMicrobatch (s.setToken a.toNat v) slot = some ((s.setToken a.toNat v).mbNext slot) := fun _ => nextMicrobatch_some hmb hstep
  rw [exec_microbatchStart_eq, if_pos hrun, hmb_tok, onToken_starts htok (hnext _)]
  refine ⟨_, rfl, ?_, ?_, (mbNext_frame _ slot).2⟩
  · rw [token_mbNext, State.token_setToken_self]
  · unfold State.mbNext
    rw [State.job_setJob_self]
    rfl

/-! ### The wait policy -/

theorem exec_waitPolicyAction_eq (slot : Nat) (again : Bool) (s : State) : exec (.waitPolicyAction slot again) s = .next (s.waitPolicy slot again) := rfl

theorem waitPolicy_not_waiting {s : State} {slot : Nat} (again : Bool) (h : s.waitsOnToken slot = false) : s.waitPolicy slot again = s :=
  if_pos (by rw [h]; rfl)

/-- What the wait policy of a slot starts next, if anything (R318). -/
def State.policyNext (s : State) (slot : Nat) (again : Bool) : Option State :=
  let pf := if s.pfRunning slot < max 1 (s.fld (Reg.UP_JOB_CTL slot) 5 3) then s.nextPrefetch slot else none
  match s.fld (Reg.UP_JOB_CTL slot) 0 2 with
  | 1 => pf
  | 2 => s.nextMicrobatch slot
  | 3 => if again then s.nextMicrobatch slot else pf
  | _ => none

theorem waitPolicy_waiting {s : State} {slot : Nat} (again : Bool) (h : s.waitsOnToken slot = true) : s.waitPolicy slot again =
    match s.policyNext slot again with
    | none => s
    | some t => t.count (Reg.UP_JOB_WAITS slot) 0 16 1 := if_neg (by rw [h]; decide)

theorem policyNext_microbatch {s : State} {slot : Nat} {again : Bool}
    (h : s.fld (Reg.UP_JOB_CTL slot) 0 2 = 2 ∨ s.fld (Reg.UP_JOB_CTL slot) 0 2 = 3 ∧ again = true) : s.policyNext slot again = s.nextMicrobatch slot := by
  unfold State.policyNext
  obtain h | ⟨h, rfl⟩ := h <;> rw [h] <;> rfl

theorem policyNext_prefetch {s : State} {slot : Nat} {again : Bool}
    (h : s.fld (Reg.UP_JOB_CTL slot) 0 2 = 1 ∨ s.fld (Reg.UP_JOB_CTL slot) 0 2 = 3 ∧ again = false)
    (hpf : s.pfRunning slot < max 1 (s.fld (Reg.UP_JOB_CTL slot) 5 3)) : s.policyNext slot again = s.nextPrefetch slot := by
  unfold State.policyNext
  rw [if_pos hpf]
  obtain h | ⟨h, rfl⟩ := h <;> rw [h] <;> rfl

theorem policyNext_none {s : State} {slot : Nat} (again : Bool) (h : s.fld (Reg.UP_JOB_CTL slot) 0 2 = 0) : s.policyNext slot again = none := by
  unfold State.policyNext
  rw [h]
  rfl

/-! ### The obligation, part by part -/

/-- SERVE_REQ and SERVE_RSP. -/
theorem serve_requests_and_responses (s : State) (hf : Nat) :
    (s.rxMessage hf tServeReq = none → exec (.serveReq hf) s = .next s) ∧ (s.rxMessage hf tServeRsp = none → exec (.serveRsp hf) s = .next s) ∧
    (∀ port k bytes v, s.rxMessage hf tServeRsp = some (port, k, bytes, v) → exec (.serveRsp hf) s = .next (v.emit (.served k.msg k.handle bytes))) ∧
    (∀ port k bytes v slot, s.rxMessage hf tServeReq = some (port, k, bytes, v) → v.requestSlot k = some slot →
      (v.repeats k = true ∨ v.takesRequests slot false = false → exec (.serveReq hf) s = .next v) ∧
      (v.repeats k = false → v.takesRequests slot false = true →
        (v.freeLedger hf = none → exec (.serveReq hf) s = .next (v.sendServeRsp hf slot k.src k.group k.msg 13 [])) ∧
        (∀ e, v.freeLedger hf = some e → ∃ t, exec (.serveReq hf) s = .next t ∧ (t.ledgerEntry e).st = 1 ∧ (t.ledgerEntry e).slot = slot ∧
          (t.ledgerEntry e).reqId = k.msg ∧ (t.ledgerEntry e).origin = k.src ∧ (t.ledgerEntry e).payload = bytes ∧
          (t.ledgerEntry e).gen = v.fld Reg.EM_GEN 0 16 ∧ t.mem = v.mem ∧ t.regs = v.regs))) := by
  rw [exec_serveReq_eq, exec_serveRsp_eq]
  refine ⟨fun h => by rw [serveReq_none h], fun h => by rw [serveRsp_none h], fun port k bytes v h => by rw [serveRsp_some h],
    fun port k bytes v slot h hk => ⟨fun hi => by rw [serveReq_ignored h hk hi],
      fun hnew ht => ⟨fun hfull => by rw [serveReq_busy h hk hnew ht hfull], fun e hfree => ?_⟩⟩⟩
  rw [serveReq_enters h hk hnew ht hfree]
  refine ⟨_, rfl, ?_, ?_, ?_, ?_, ?_, ?_, rfl, rfl⟩ <;> rw [ledgerEntry_enterRequest]

/-- SERVE_DISPATCH. -/
theorem serve_dispatches (s : State) (e : Nat) (records : List (List Word)) :
    let l := s.ledgerEntry e
    (l.st ≠ 1 ∨ s.slotIs l.slot .running = false ∨ records = [] ∨ s.fw.shift = 3 → exec (.serveDispatch e records) s = .next s) ∧
    (l.st = 1 → s.slotIs l.slot .running = true → records ≠ [] → s.fw.shift ≠ 3 →
      let t := (s.setLedger e { l with st := 2 }).placeAll l.slot e records
      ((t.tasks.filter (fun x => x.2.request = some e)).length = records.length → exec (.serveDispatch e records) s = .next t) ∧
      ((t.tasks.filter (fun x => x.2.request = some e)).length ≠ records.length → exec (.serveDispatch e records) s = .next s)) := by
  intro l
  rw [exec_serveDispatch_eq]
  refine ⟨fun h => by rw [serveDispatch_none h], fun hst hrun hrec hfw => ?_⟩
  rw [serveDispatch_starts hst hrun hrec hfw]
  exact ⟨fun h => by rw [if_pos h], fun h => by rw [if_neg h]⟩

/-- SWEEP_UPDATE_TASK. -/
theorem sweep_updates (s : State) (slot e b area grad : Nat) (pc : Word) (host : List Host.Cell) :
    let find := (s.sweep slot).staged.find? (fun x => x.entry = e && x.block = b)
    (s.slotIs slot .sweep = false ∨ s.upCount slot ≤ e ∨ s.upBlocks slot e ≤ b → exec (.sweepUpdateTask slot e b area grad pc host) s = .next s) ∧
    (s.slotIs slot .sweep = true → e < s.upCount slot → b < s.upBlocks slot e →
      (∀ x, find = some x → s.alive x.key = true → exec (.sweepUpdateTask slot e b area grad pc host) s = .next s) ∧
      (∀ x, find = some x → s.alive x.key = false → exec (.sweepUpdateTask slot e b area grad pc host) s = .next (s.finishUpdate slot x)) ∧
      (find = none → (s.sweep slot).done.contains (e, b) = true → exec (.sweepUpdateTask slot e b area grad pc host) s = .next s) ∧
      (find = none → (s.sweep slot).done.contains (e, b) = false →
        exec (.sweepUpdateTask slot e b area grad pc host) s = .next (s.stageUpdate slot e b area grad pc host))) := by
  intro find
  rw [exec_sweepUpdateTask_eq]
  refine ⟨fun h => by rw [sweepUpdate_outside area grad pc host h], fun hs he hb => ?_⟩
  rw [sweepUpdate_inside area grad pc host hs he hb]
  refine ⟨fun x hx ha => ?_, fun x hx ha => ?_, fun hx hd => ?_, fun hx hd => ?_⟩ <;> rw [show (s.sweep slot).staged.find? _ = _ from hx]
  · exact congrArg _ (if_pos ha)
  · exact congrArg _ (if_neg (ne_true_of_eq_false ha))
  · exact congrArg _ (if_pos hd)
  · exact congrArg _ (if_neg (ne_true_of_eq_false hd))

/-- DIGEST_REPAIR of a leaf that holds no values. -/
theorem digest_repairs (s : State) {slot leaf : Nat} {block : List Byte} {r : Nat × Nat} {a : DigestArea} {off : Nat}
    (hr : (s.job slot).repairs.find? (fun r => r.1 = leaf) = some r) (ha : leafAt (s.digestAreas slot) leaf = some (a, off))
    (hc : (s.job slot).compared = 1) (hb : block.length = 4096) (hk : a.kind ≠ .values) :
    let k := min 4096 (a.size - off)
    let d := ((s.bytes (a.addr + off) k).zip (block.take k)).zipIdx.flatMap (fun p => (bitDiffs p.1.1 p.1.2).map (fun b => (p.2, b)))
    let v := ((s.writeDev (jobAgent slot) (a.addr + off) (block.take k)).showRoot slot).count (Reg.UP_JOB_COMPARES slot) 16 16 1
    let w := v.raise .DIGEST_MISMATCH .corrected (srcJob slot) [leaf, (d.headD (0, 0)).1, (d.headD (0, 0)).2, d.length, r.2]
    s.digestRepair slot leaf block = w.setJob slot { w.job slot with
      repairs := (s.job slot).repairs.erase r, compared := if (s.job slot).repairs.erase r = [] then 2 else 1 } := by
  unfold State.digestRepair
  simp only [hr, ha, hc, hb, hk, ne_eq, not_true_eq_false, decide_false, Bool.or_false, Bool.false_eq_true, if_false]

/-- PREFETCH_START and MICROBATCH_START. -/
theorem token_starts (s : State) (slot : Nat) :
    (s.slotIs slot .running = false → exec (.prefetchStart slot) s = .next s ∧ exec (.microbatchStart slot) s = .next s) ∧
    (s.slotIs slot .running = true →
      let pf := (s.rd (Reg.UP_JOB_PF_TOKEN slot)).toNat
      let mb := (s.rd (Reg.UP_JOB_MB_TOKEN slot)).toNat
      ((s.token pf).count = 0 → exec (.prefetchStart slot) s = .next s) ∧ ((s.token mb).count = 0 → exec (.microbatchStart slot) s = .next s) ∧
      (s.fld (Reg.UP_JOB_PF_COUNT slot) 0 12 ≤ (s.job slot).pfStarted.length → exec (.prefetchStart slot) s = .next s) ∧
      (s.fld (Reg.UP_JOB_CTL slot) 8 8 ≤ (s.job slot).mbStarted → exec (.microbatchStart slot) s = .next s) ∧
      ((s.token mb).count ≠ 0 → (s.job slot).mbStarted < s.fld (Reg.UP_JOB_CTL slot) 8 8 → (s.job slot).inStep = true →
        ∃ t, exec (.microbatchStart slot) s = .next t ∧
          (t.token mb).count = (s.token mb).count - 1 ∧ (t.job slot).mbStarted = (s.job slot).mbStarted + 1 ∧ t.mem = s.mem)) := by
  refine ⟨fun h => ?_, fun hrun => ?_⟩
  · rw [exec_prefetchStart_eq, exec_microbatchStart_eq, h]
    exact ⟨rfl, rfl⟩
  · intro pf mb
    refine ⟨fun h => ?_, fun h => ?_, fun h => ?_, fun h => ?_, exec_microbatchStart_starts hrun⟩
    · rw [exec_prefetchStart_eq, if_pos hrun, onToken_empty h]
    · rw [exec_microbatchStart_eq, if_pos hrun, onToken_empty h]
    · rw [exec_prefetchStart_eq, if_pos hrun, onToken_idle _ (fun a t => nextPrefetch_none (s := s.setToken a t) h)]
    · rw [exec_microbatchStart_eq, if_pos hrun, onToken_idle _ (fun a t => nextMicrobatch_none (s := s.setToken a t) h)]

/-- WAIT_POLICY_ACTION. -/
theorem wait_policies (s : State) (slot : Nat) (again : Bool) :
    (s.waitsOnToken slot = false → exec (.waitPolicyAction slot again) s = .next s) ∧
    (s.waitsOnToken slot = true →
      let policy := s.fld (Reg.UP_JOB_CTL slot) 0 2
      (policy = 0 → exec (.waitPolicyAction slot again) s = .next s) ∧
      (∀ t, policy = 2 ∨ policy = 3 ∧ again = true → s.nextMicrobatch slot = some t →
        exec (.waitPolicyAction slot again) s = .next (t.count (Reg.UP_JOB_WAITS slot) 0 16 1)) ∧
      (∀ t, policy = 1 ∨ policy = 3 ∧ again = false → s.pfRunning slot < max 1 (s.fld (Reg.UP_JOB_CTL slot) 5 3) → s.nextPrefetch slot = some t →
        exec (.waitPolicyAction slot again) s = .next (t.count (Reg.UP_JOB_WAITS slot) 0 16 1))) := by
  rw [exec_waitPolicyAction_eq]
  refine ⟨fun h => by rw [waitPolicy_not_waiting again h], fun h => ?_⟩
  rw [waitPolicy_waiting again h]
  refine ⟨fun hp => ?_, fun t hp ht => ?_, fun t hp hrun ht => ?_⟩
  · rw [policyNext_none again hp]
  · rw [policyNext_microbatch hp, ht]
  · rw [policyNext_prefetch hp hrun, ht]

/-- SWEEP_PHASE2. -/
theorem sweep_phase2 (s : State) (slot : Nat) :
    (s.slotIs slot .sweep = false ∨ s.phase1Done slot = false → exec (.sweepPhase2 slot) s = .next s) ∧
    (s.slotIs slot .sweep = true → s.phase1Done slot = true → s.upCount slot = 0 →
      let v := (s.showRoot slot).statsRecord slot
      let n := v.rd2 (Reg.UP_JOB_SWEEP_LO slot) (Reg.UP_JOB_SWEEP_HI slot) + 1
      let w := (v.wr (Reg.UP_JOB_SWEEP_LO slot) (BitVec.ofNat 32 n)).wr (Reg.UP_JOB_SWEEP_HI slot) (BitVec.ofNat 32 (n / 2 ^ 32))
      let y := w.setSweep slot { w.sweep slot with staged := [], done := [], states := [] }
      exec (.sweepPhase2 slot) s = .next ((y.setJob slot { y.job slot with drainOrder := 4, compared := 0 }).setSlot slot .draining)) := by
  rw [exec_sweepPhase2_eq]
  exact ⟨fun h => congrArg _ (sweepPhase2_not_yet h), fun hs hd h0 => congrArg _ (sweepPhase2_no_entries hs hd h0)⟩

/-- Settles O49: each part by the lemma about its commands. REQ_ID in MSG and all records or none (log entry 66), the operands of the sweep (68)
and the order of the leaves (69) are the model's choices. -/
theorem requestsAndSweeps : Obligations.RequestsAndSweeps := by
  refine ⟨⟨serve_requests_and_responses, serve_dispatches, fun s e payload => ⟨fun h => ?failed, fun h ht => ?done, fun h => ?waits⟩⟩,
    ⟨fun s slot => ⟨fun h => ?notDue, exec_sweepStart_due⟩, sweep_updates, sweep_phase2⟩,
    fun s slot others suspects => ⟨fun h => ?noCompare, exec_digestCompare_agreed suspects⟩,
    fun s slot leaf block => ⟨fun h => ?noRepair, fun r a off hr ha hc hb hk => ?repair⟩,
    token_starts, wait_policies⟩
  case failed => rw [exec_resultStore_eq, resultStore_failed payload h]
  case done => rw [exec_resultStore_eq, resultStore_done payload h ht]
  case waits => rw [exec_resultStore_eq, resultStore_waits payload h]
  case notDue => rw [exec_sweepStart_eq, sweepStart_not_due h]
  case noCompare => rw [exec_digestCompare_eq, digestCompare_not_due suspects h]
  case noRepair => rw [exec_digestRepair_eq, digestRepair_none h]
  case repair => rw [exec_digestRepair_eq, digest_repairs s hr ha hc hb hk]

end Sys2Proof.Machine
end

section
/-! PROOFS. Completion records leave other registers alone; what an accepted capsule of each opcode does. -/

namespace Sys2Proof.Machine

/-! ### What records write -/

/-- The registers that a record on a ring may write: its queue's credits, the count of lost records, the function's status, the ring's pointers. -/
def ringRegs (r : Nat) : List Nat :=
  [Reg.PC_QUEUE_CREDITS (r / 16) (r % 16), Reg.PC_LOST_RECORDS (r / 16), Reg.PC_STATUS (r / 16), Reg.PC_RING_PTR (r / 16) (r % 16)]

section Records

variable {a r : Nat} (h : a ∉ ringRegs r)
include h

theorem addCredits_rd (s : State) (n : Nat) : (s.addCredits r n).rd a = s.rd a :=
  State.rd_setFld_other s 0 9 _ (List.ne_of_not_mem_cons h)

omit h in
theorem signal_rd (s : State) : (s.signal r).rd a = s.rd a := by
  unfold State.signal
  split <;> rfl

theorem putRecord_rd (s : State) (c : RingRec) : (s.putRecord r c).rd a = s.rd a := by
  have hptr : a ≠ Reg.PC_RING_PTR (r / 16) (r % 16) := fun he => h (by simp [ringRegs, he])
  unfold State.putRecord
  extract_lets f q at_ b sent next moved t counted credited
  have hsent : sent.rd a = s.rd a := by
    show (if _ then _ else _ : State).rd a = s.rd a
    split <;> rfl
  clear_value sent
  have hmoved : moved.rd a = s.rd a := (State.rd_setFld_other sent 16 16 next hptr).trans hsent
  clear_value moved
  have hcredited : credited.rd a = s.rd a := (addCredits_rd h counted c.credits).trans hmoved
  clear_value credited
  split
  · exact (signal_rd credited).trans hcredited
  · exact hcredited

theorem writeRecord_rd (s : State) (c : RingRec) : (s.writeRecord r c).rd a = s.rd a := by
  have hlost : a ≠ Reg.PC_LOST_RECORDS (r / 16) := fun he => h (by simp [ringRegs, he])
  have hstat : a ≠ Reg.PC_STATUS (r / 16) := fun he => h (by simp [ringRegs, he])
  unfold State.writeRecord
  dsimp only
  split
  · rw [State.count, State.rd_setFld_other _ _ _ _ hlost, addCredits_rd h]
  · split
    · unfold State.setStatus
      split
      · rfl
      · rw [State.rd_congr (raise_regs _ _ (by decide) _ _), State.rd_setBit_other _ _ _ hstat]
        rfl
    · exact putRecord_rd h s c

theorem flushDone_rd (n : Nat) (s : State) : (s.flushDone r n).rd a = s.rd a := by
  induction n generalizing s with
  | zero => rfl
  | succ n ih =>
    unfold State.flushDone
    split
    · rfl
    · split
      · rfl
      · split
        · rfl
        · exact (ih _).trans (writeRecord_rd h _ _)

theorem endCapsule_rd (s : State) (seq status detail : Nat) (payload : List Byte) : (s.endCapsule r seq status detail payload).rd a = s.rd a := by
  unfold State.endCapsule
  dsimp only
  split
  · rfl
  · refine (flushDone_rd h 256 _).trans ?_
    split <;> rfl

end Records

/-- The job slots of a function are those of its JOB_MASK alone. -/
theorem slotsOf_congr {s t : State} {f : Nat} (hlo : t.rd (Reg.PC_JOB_MASK_LO f) = s.rd (Reg.PC_JOB_MASK_LO f))
    (hhi : t.rd (Reg.PC_JOB_MASK_HI f) = s.rd (Reg.PC_JOB_MASK_HI f)) : t.slotsOf f = s.slotsOf f := by
  refine List.filter_congr fun j _ => ?_
  simp only [State.inMask, State.bit, hlo, hhi]

theorem endCapsule_slotsOf (s : State) {f q : Nat} (hq : q < 16) (seq status detail : Nat) (payload : List Byte) :
    (s.endCapsule (16 * f + q) seq status detail payload).slotsOf f = s.slotsOf f := by
  have hf : (16 * f + q) / 16 = f := by omega
  refine slotsOf_congr (endCapsule_rd ?_ ..) (endCapsule_rd ?_ ..) <;>
  · simp only [ringRegs, hf, List.mem_cons, List.not_mem_nil, or_false, Reg.PC_JOB_MASK_LO, Reg.PC_JOB_MASK_HI, Reg.PC_QUEUE_CREDITS, Reg.PC_LOST_RECORDS,
      Reg.PC_STATUS, Reg.PC_RING_PTR]
    omega

/-! ### The capsules, each by its opcode -/

section Capsules

variable {s : State} {f q : Nat} {w : List Word} (h : Accepts s f q w)
include h

/-- An accepted capsule's opcode acts on the state in which it stands in its queue. -/
theorem capsule_next {op : Nat} (ho : capOp w = op) (more : Bool) (run : State → State) :
    s.capsule f q w (fun o => decide (o = op)) more run = run (s.capsuleIn f q w) := capsule_runs h (decide_eq_true ho) more run

theorem exec_leaseCapsule (ho : capOp w = 1) : exec (.leaseCapsule f q w) s = .next ((s.capsuleIn f q w).endCapsule (16 * f + q) (capSeq w) 0 0 []) :=
  congrArg _ (capsule_next h ho false _)

theorem exec_attach (ho : capOp w = 2) (hslots : (s.capsuleIn f q w).slotsOf f = []) :
    let u := s.capsuleIn f q w
    let v := (u.setBit (Reg.PC_LEASE f) 14 false).setFn f { renewed := u.usecN.toNat, expiring := false, muted := false }
    exec (.attach f q w) s = .next (v.endCapsule (16 * f + q) (capSeq w) 0 (capWord w 4 + 2 ^ 32 * capWord w 5) []) := by
  intro u v
  have hv : v.slotsOf f = [] := by
    have hne : ∀ {a}, a ≠ Reg.PC_LEASE f → v.rd a = u.rd a := fun ha => (rd_setFn ..).trans (State.rd_setBit_other u _ _ ha)
    rw [← hslots]
    refine slotsOf_congr (hne ?_) (hne ?_)
    · simp only [Reg.PC_JOB_MASK_LO, Reg.PC_LEASE]; omega
    · simp only [Reg.PC_JOB_MASK_HI, Reg.PC_LEASE]; omega
  have hend := (endCapsule_slotsOf v h.queue (capSeq w) 0 (capWord w 4 + 2 ^ 32 * capWord w 5) []).trans hv
  refine congrArg _ ((capsule_next h ho false _).trans ?_)
  dsimp only
  rw [hend]
  rfl

theorem exec_steps (ho : capOp w = 4) :
    let u := s.capsuleIn f q w
    let slot := capSlot w
    let fin := fun (s : State) (status : Nat) => s.endCapsule (16 * f + q) (capSeq w) status 0 []
    exec (.steps f q w) s = .next (if u.slotIdle slot then fin u 8
      else if u.classOf slot = 0 || capWord w 4 = 0 || 65535 < capWord w 4 then fin u 11
      else (fin (u.setJob slot { u.job slot with
        stepsQueued := (u.job slot).stepsQueued + capWord w 4, stepSeqs := (u.job slot).stepSeqs ++ [(capSeq w, capWord w 4)] }) 0).nextStep slot) :=
  congrArg _ (capsule_next h ho false _)

theorem exec_withdraw (ho : capOp w = 5) :
    exec (.withdraw f q w) s = .next (((s.capsuleIn f q w).withdrawSteps (capSlot w)).endCapsule (16 * f + q) (capSeq w) 0 0 []) :=
  congrArg _ (capsule_next h ho false _)

theorem exec_stop (ho : capOp w = 6) :
    let u := s.capsuleIn f q w
    exec (.stop f q w) s = .next (if u.slotIs (capSlot w) .free then u.endCapsule (16 * f + q) (capSeq w) 11 0 []
      else (u.stopJob (capSlot w)).endCapsule (16 * f + q) (capSeq w) 0 0 []) :=
  congrArg _ (capsule_next h ho false _)

theorem exec_free (ho : capOp w = 7) :
    let u := s.capsuleIn f q w
    exec (.free f q w) s = .next (if u.slotIs (capSlot w) .stopped || u.slotIs (capSlot w) .done then
        (u.freeSlot (capSlot w)).endCapsule (16 * f + q) (capSeq w) 0 0 []
      else u.endCapsule (16 * f + q) (capSeq w) 11 0 []) :=
  congrArg _ (capsule_next h ho false _)

/-- SERVE of a slot that takes no request. -/
theorem exec_serve_refused (ho : capOp w = 9) (host : List Host.Cell) (ht : (s.capsuleIn f q w).takesRequests (capSlot w) true = false) :
    exec (.serve f q w host) s = .next ((s.capsuleIn f q w).endCapsule (16 * f + q) (capSeq w) 8 0 []) := by
  refine congrArg _ ((capsule_next h ho false _).trans ?_)
  dsimp only
  rw [ht]
  rfl

/-- SERVE with an inline payload. -/
theorem exec_serve_inline (ho : capOp w = 9) (host : List Host.Cell) (ht : (s.capsuleIn f q w).takesRequests (capSlot w) true = true)
    (hin : bitOf (capWord w 6) 31 = true) :
    let u := s.capsuleIn f q w
    exec (.serve f q w host) s = .next (match u.freeLedger 0 with
      | none => u.endCapsule (16 * f + q) (capSeq w) 13 0 []
      | some e => u.enterRequest e
        { slot := capSlot w, capsule := true, reqId := capSeq w, origin := 16 * f + q, payload := (w.drop 8).flatMap (fun v => toBytes 4 v.toNat) }) := by
  have hp : (s.capsuleIn f q w).servePayload f w host = (s.capsuleIn f q w, some ((w.drop 8).flatMap (fun v => toBytes 4 v.toNat))) := if_pos hin
  refine congrArg _ ((capsule_next h ho false _).trans ?_)
  dsimp only
  rw [ht, hp]
  rfl

theorem exec_resume_unsliced (ho : capOp w = 8) (moves : List (Nat × Nat)) (hs : (s.capsuleIn f q w).slices.get none (capSlot w) = none) :
    exec (.resume f q w moves) s = .next ((s.capsuleIn f q w).endCapsule (16 * f + q) (capSeq w) 11 0 []) := by
  refine congrArg _ ((capsule_next h ho false _).trans ?_)
  dsimp only
  rw [hs]

theorem exec_resume_sliced (ho : capOp w = 8) (moves : List (Nat × Nat)) {sl : SliceSt} (hs : (s.capsuleIn f q w).slices.get none (capSlot w) = some sl) :
    let u := s.capsuleIn f q w
    exec (.resume f q w moves) s = .next (if u.slotIs (capSlot w) .sliced && sl.byLease then (u.sliceRestore (capSlot w) moves).finishResume (capSlot w)
      else u.endCapsule (16 * f + q) (capSeq w) 11 0 []) := by
  refine congrArg _ ((capsule_next h ho false _).trans ?_)
  dsimp only
  rw [hs]

/-! ### Capsules with a declaration -/

section JobLoad

variable (ho : capOp w = 3) (host : List Host.Cell) (grants : List (Nat × Nat)) (more passes : Bool)
include ho

theorem exec_jobLoad_refused (hr : (s.capsuleIn f q w).slotIs (capSlot w) .free = false ∨ 3 ≤ capWord w 7) :
    exec (.jobLoad f q w host grants more passes) s = .next ((s.capsuleIn f q w).endCapsule (16 * f + q) (capSeq w) 11 0 []) := by
  refine congrArg _ ((capsule_next h ho _ _).trans ?_)
  refine if_pos ?_
  obtain hr | hr := hr
  · rw [hr, Bool.not_false, Bool.true_or, Bool.true_or]
  · rw [decide_eq_true hr, Bool.or_true]

variable (hfree : (s.capsuleIn f q w).slotIs (capSlot w) .free = true) (hlc : (s.capsuleIn f q w).lifeCycle ≠ 3) (hclass : capWord w 7 < 3)
include hfree hlc hclass

/-- A declaration asked for, and applied where it is allowed. -/
theorem exec_jobLoad_declared {v : State} {d : Option (List DeclRec)} :
    let slot := capSlot w
    let fin := fun (s : State) (status : Nat) => s.endCapsule (16 * f + q) (capSeq w) status 0 []
    (s.capsuleIn f q w).takeDecl f w host 8 = (v, d) → exec (.jobLoad f q w host grants more passes) s = .next (match d with
      | none => fin v 11
      | some l =>
        if !v.declOk slot grants l then fin v 11 else
        let y := (((v.setSlot slot .loading).setJob slot { ring := some (16 * f + q) }).declApply slot l).setFld (Reg.PN_JOB_CTL slot) 0 2 (capWord w 7)
        let z := (y.setFld (Reg.PN_JOB_LIVE slot) 0 22 0).wr (Reg.PN_JOB_STEPEND slot) 0#32
        fin ((z.deriveJob slot).setSlot slot .running) 0) := by
  have hgo : ¬(!(s.capsuleIn f q w).slotIs (capSlot w) .free || decide ((s.capsuleIn f q w).lifeCycle = 3) || decide (3 ≤ capWord w 7)) = true := by
    rw [hfree, decide_eq_false hlc, decide_eq_false (Nat.not_le.mpr hclass)]
    decide
  intro slot fin hd
  refine congrArg _ ((capsule_next h ho _ _).trans ?_)
  refine (if_neg hgo).trans ?_
  rw [hd]
  cases d <;> rfl

end JobLoad

theorem exec_setDecl_idle (ho : capOp w = 10) (host : List Host.Cell) (grants : List (Nat × Nat)) (more : Bool)
    (hi : (s.capsuleIn f q w).slotIdle (capSlot w) = true) :
    exec (.setDecl f q w host grants more) s = .next ((s.capsuleIn f q w).endCapsule (16 * f + q) (capSeq w) 11 0 []) := by
  refine congrArg _ ((capsule_next h ho _ _).trans ?_)
  exact if_pos hi

theorem exec_setDecl_declared (ho : capOp w = 10) (host : List Host.Cell) {grants : List (Nat × Nat)} (more : Bool) {v : State} {l : List DeclRec}
    (hi : (s.capsuleIn f q w).slotIdle (capSlot w) = false) (hd : (s.capsuleIn f q w).takeDecl f w host 9 = (v, some l))
    (hok : v.declOk (capSlot w) grants l = true) :
    exec (.setDecl f q w host grants more) s = .next (if (v.job (capSlot w)).inStep then
        v.setJob (capSlot w) { v.job (capSlot w) with setRecs := (v.job (capSlot w)).setRecs ++ l }
      else (v.declApply (capSlot w) l).endCapsule (16 * f + q) (capSeq w) 0 0 []) := by
  refine congrArg _ ((capsule_next h ho _ _).trans ?_)
  refine (if_neg (ne_true_of_eq_false hi)).trans ?_
  rw [hd]
  dsimp only
  rw [hok]
  rfl

theorem exec_reshard_refused (ho : capOp w = 11) (host : List Host.Cell)
    (hr : (s.capsuleIn f q w).slotIdle (capSlot w) = true ∨ (s.capsuleIn f q w).grouped (capSlot w) = false) :
    exec (.reshard f q w host) s = .next ((s.capsuleIn f q w).endCapsule (16 * f + q) (capSeq w) 11 0 []) := by
  refine congrArg _ ((capsule_next h ho _ _).trans ?_)
  refine if_pos ?_
  obtain hr | hr := hr
  · rw [hr, Bool.true_or]
  · rw [hr, Bool.not_false, Bool.or_true]

theorem exec_reshard_declared (ho : capOp w = 11) (host : List Host.Cell) {v : State} {l : List DeclRec} {m : List ShardMove}
    (hi : (s.capsuleIn f q w).slotIdle (capSlot w) = false) (hg : (s.capsuleIn f q w).grouped (capSlot w) = true)
    (hd : (s.capsuleIn f q w).takeDecl f w host 10 = (v, some l)) (hm : v.declMoves (capSlot w) l = some m) :
    exec (.reshard f q w host) s = .next ((v.setEpochSt (capSlot w) { v.epochSt (capSlot w) with
      queued := (v.epochSt (capSlot w)).queued ++ m }).endCapsule (16 * f + q) (capSeq w) 0 0 []) := by
  have hgo : ¬((s.capsuleIn f q w).slotIdle (capSlot w) || !(s.capsuleIn f q w).grouped (capSlot w)) = true := by
    rw [hi, hg]
    decide
  refine congrArg _ ((capsule_next h ho _ _).trans ?_)
  refine (if_neg hgo).trans ?_
  rw [hd]
  dsimp only
  rw [hm]

theorem exec_publish (ho : capOp w = 12) :
    let n := capWord w 4
    let v := (s.capsuleIn f q w).extendMeas 11 (sm3 ((w.drop 4).flatMap (fun v => toBytes 4 v.toNat)))
    let p := State.publishGo (v.setFld Reg.EM_PUBLISH 0 12 n) n
    exec (.publish f q w) s = .next (if 4096 ≤ n then v.endCapsule (16 * f + q) (capSeq w) 11 0 [] else p.1.endCapsule (16 * f + q) (capSeq w) 0 p.2 []) :=
  congrArg _ (capsule_next h ho false _)

end Capsules

/-! ### Bad opcodes -/

section BadOpcode

variable {s a : State} {f q : Nat} {w : List Word} (hw : w.length = 32) (ho : capOp w = 0 ∨ 12 < capOp w)
include hw ho

/-- Such a capsule has come to the right command. -/
theorem badOpcode_reaches : ¬(decide (w.length ≠ 32) || !(decide (capOp w = 0) || decide (12 < capOp w))) = true := by
  simp only [hw, Bool.or_eq_true, Bool.not_eq_true', Bool.or_eq_false_iff, decide_eq_true_eq, decide_eq_false_iff_not]
  omega

theorem exec_badOpcode_lost (ha : s.arrive f q = (a, false)) : exec (.badOpcodeCapsule f q w) s = .next a := by
  refine congrArg _ ((if_neg (badOpcode_reaches hw ho)).trans ?_)
  rw [ha]
  rfl

theorem exec_badOpcode_ends {c : State} (ha : s.arrive f q = (a, true)) (hc : a.checkCapsule f q w false = (c, 4)) :
    exec (.badOpcodeCapsule f q w) s =
      .next ((c.enterCapsule (16 * f + q) ⟨capSeq w, capOp w, capSlot w, none, some (4, 0)⟩).flushDone (16 * f + q) 256) := by
  refine congrArg _ ((if_neg (badOpcode_reaches hw ho)).trans ?_)
  rw [ha]
  dsimp only
  rw [hc]
  rfl

end BadOpcode

/-- Settles O51: each clause by the lemma about its opcode. Which status a refusal of JOB_LOAD, STEPS, FREE, RESUME and SERVE has is the model's
choice (log entries 66 and 81). -/
theorem hostCommands : Obligations.HostCommands := by
  refine ⟨⟨fun s f q w h => ?one, fun s a c f q w hw ho => ⟨exec_badOpcode_lost hw ho, exec_badOpcode_ends hw ho⟩⟩,
    fun s f q w host grants more passes h => ?two⟩
  case one =>
    intro u r slot fin
    refine ⟨exec_leaseCapsule h, exec_attach h, fun ho => ?steps, exec_withdraw h, fun ho => ?stop, fun ho => ?free, fun ho host => ?serve,
      fun ho moves => ⟨exec_resume_unsliced h ho moves, fun sl hs => ?resume⟩⟩
    case steps =>
      rw [exec_steps h ho]
      refine ⟨fun hi => congrArg _ (if_pos hi), fun hi hbad => congrArg _ ((if_neg (ne_true_of_eq_false hi)).trans (if_pos ?_)),
        fun hi hc h0 hn => congrArg _ ((if_neg (ne_true_of_eq_false hi)).trans (if_neg ?_))⟩ <;>
      simp only [Bool.or_eq_true, decide_eq_true_eq]
      · exact or_assoc.mpr hbad
      · rintro ((hc' | h0') | hn')
        · exact hc hc'
        · exact h0 h0'
        · exact Nat.not_lt.mpr hn hn'
    case stop =>
      rw [exec_stop h ho]
      exact ⟨fun hf => congrArg _ (if_pos hf), fun hf => congrArg _ (if_neg (ne_true_of_eq_false hf))⟩
    case free =>
      rw [exec_free h ho]
      exact ⟨fun hf => congrArg _ (if_pos ((Bool.or_eq_true ..).mpr hf)), fun hs hd => congrArg _ (if_neg (by rw [hs, hd]; decide))⟩
    case serve =>
      refine ⟨exec_serve_refused h ho host, fun ht hin => ?_⟩
      rw [exec_serve_inline h ho host ht hin]
      exact ⟨fun hn => by rw [hn], fun e he => by rw [he]⟩
    case resume =>
      rw [exec_resume_sliced h ho moves hs]
      simp only [Bool.and_eq_true, decide_eq_true_eq]
      exact ⟨fun hb => congrArg _ (if_neg fun hl => Bool.false_ne_true (hb.2.symm.trans hl.2)), fun hb => congrArg _ (if_pos hb)⟩
  case two =>
    intro u r slot fin
    refine ⟨fun ho => ⟨exec_jobLoad_refused h ho host grants more passes, fun hfree hlc hclass => ?load⟩,
      fun ho => ⟨exec_setDecl_idle h ho host grants more, fun v l hi hd hok => ?set⟩,
      fun ho => ⟨exec_reshard_refused h ho host, fun v l m hi hg hd hm => exec_reshard_declared h ho host hi hg hd hm⟩, fun ho => ?publish⟩
    case load =>
      have hload := fun {v d} => exec_jobLoad_declared h ho host grants more passes hfree hlc hclass (v := v) (d := d)
      refine ⟨fun v hd => hload hd, fun v l hd hno => (hload hd).trans (congrArg _ (if_pos ?_)), fun v l hd hok => (hload hd).trans (congrArg _ (if_neg ?_))⟩
      · rw [hno, Bool.not_false]
      · rw [hok, Bool.not_true]
        exact Bool.false_ne_true
    case set =>
      rw [exec_setDecl_declared h ho host more hi hd hok]
      exact ⟨fun hstep => congrArg _ (if_pos hstep), fun hstep => congrArg _ (if_neg (ne_true_of_eq_false hstep))⟩
    case publish =>
      intro v
      rw [exec_publish h ho]
      refine ⟨fun hn => congrArg _ (if_pos hn), fun y res hn hp => congrArg _ ((if_neg (Nat.not_le.mpr hn)).trans ?_)⟩
      rw [hp]

end Sys2Proof.Machine
end

section
/-! PROOFS. Accesses to memory leave the registers of the always-on domain, of power and of the canaries alone. -/

namespace Sys2Proof.Machine

/-- The registers from SC to CN are as before. -/
def SamePower (s0 s : State) : Prop := ∀ a, 0x80000 ≤ a → a < 0x120000 → s.rd a = s0.rd a

/-- A register outside those blocks. -/
def Elsewhere (a : Nat) : Prop := a < 0x80000 ∨ 0x120000 ≤ a

theorem SamePower.refl (s : State) : SamePower s s := fun _ _ _ => rfl

section Closure

variable {s0 s : State} (h : SamePower s0 s)
include h

theorem SamePower.of_regs {t : State} (hr : t.regs = s.regs) : SamePower s0 t := fun a h1 h2 => (State.rd_congr hr a).trans (h a h1 h2)

theorem SamePower.wr {a : Nat} (ha : Elsewhere a) (v : Word) : SamePower s0 (s.wr a v) := fun b h1 h2 =>
  (State.rd_wr_other s v (by unfold Elsewhere at ha; omega)).trans (h b h1 h2)

theorem SamePower.setFld {a : Nat} (ha : Elsewhere a) (lo n v : Nat) : SamePower s0 (s.setFld a lo n v) := h.wr ha _
theorem SamePower.setBit {a : Nat} (ha : Elsewhere a) (i : Nat) (v : Bool) : SamePower s0 (s.setBit a i v) := h.wr ha _
theorem SamePower.count {a : Nat} (ha : Elsewhere a) (lo n k : Nat) : SamePower s0 (s.count a lo n k) := h.wr ha _

theorem SamePower.raise (code : Code) {cls : EvClass} (hc : cls ≠ .moduleFatal) (source : Nat) (data : List Nat) :
    SamePower s0 (s.raise code cls source data) := h.of_regs (raise_regs s code hc source data)

theorem SamePower.setStatus {a : Nat} (ha : Elsewhere a) (i : Nat) (code : Code) {cls : EvClass} (hc : cls ≠ .moduleFatal) (source : Nat)
    (data : List Nat) : SamePower s0 (s.setStatus a i code cls source data) := by
  unfold State.setStatus
  split
  · exact h
  · exact (h.setBit ha i true).raise code hc source data

omit h in
theorem SamePower.foldl {α : Type} {f : State → α → State} (hf : ∀ s a, SamePower s0 s → SamePower s0 (f s a)) (l : List α) {s : State}
    (h : SamePower s0 s) : SamePower s0 (l.foldl f s) := by
  induction l generalizing s with
  | nil => exact h
  | cons a r ih => exact ih (hf s a h)

omit h in
/-- A fold that carries a state beside other things. -/
theorem SamePower.foldl_fst {α β : Type} {f : State × β → α → State × β} (hf : ∀ p a, SamePower s0 p.1 → SamePower s0 (f p a).1) (l : List α)
    {p : State × β} (h : SamePower s0 p.1) : SamePower s0 (l.foldl f p).1 := by
  induction l generalizing p with
  | nil => exact h
  | cons a r ih => exact ih (hf p a h)

end Closure

theorem setBytes_regs (l : List Byte) (s : State) (a : Nat) : (s.setBytes a l).regs = s.regs := by
  induction l generalizing s a with
  | nil => rfl
  | cons b r ih => exact (ih (s.setByte a b) (a + 1)).trans (State.setByte_regs ..)

/-! ### Banks -/

section Banks

variable {s0 s : State} (b a n : Nat)

theorem elsewhere_owner : Elsewhere (Reg.BK_OWNER b) := .inr (by unfold Reg.BK_OWNER; omega)
theorem elsewhere_bankStatus : Elsewhere (Reg.BK_STATUS b) := .inr (by unfold Reg.BK_STATUS; omega)
theorem elsewhere_bankPower : Elsewhere (Reg.BK_POWER b) := .inr (by unfold Reg.BK_POWER; omega)
theorem elsewhere_accessCount : Elsewhere (Reg.BK_ACCESS_COUNT b) := .inr (by unfold Reg.BK_ACCESS_COUNT; omega)
theorem elsewhere_eccCount : Elsewhere (Reg.BK_ECC_COUNT b) := .inr (by unfold Reg.BK_ECC_COUNT; omega)
theorem elsewhere_lastErr : Elsewhere (Reg.BK_LAST_ERR b) := .inr (by unfold Reg.BK_LAST_ERR; omega)

variable (h : SamePower s0 s)
include h

theorem SamePower.handOwner (w : Writer) (v : Word) : SamePower s0 (s.handOwner w b v) := by
  unfold State.handOwner
  split
  · exact h
  · split
    · exact (h.setFld (elsewhere_owner b) 0 11 _).of_regs ((State.numbered_regs _).trans (State.setBank_regs ..))
    · exact h.setStatus (elsewhere_bankStatus b) 1 _ (by decide) _ _

theorem SamePower.notOwned (ag : Agent) (write : Bool) : SamePower s0 (s.notOwned a ag write) :=
  (h.setStatus (elsewhere_bankStatus _) 0 _ (by decide) _ _).count (elsewhere_accessCount _) 0 16 1

theorem SamePower.asleep : SamePower s0 (s.asleep b) :=
  (h.setStatus (elsewhere_bankStatus b) 2 _ (by decide) _ _).count (elsewhere_accessCount b) 16 16 1

theorem SamePower.autoWake : SamePower s0 (s.autoWake b) :=
  ((h.setFld (elsewhere_bankPower b) 0 2 0).setBit (elsewhere_bankPower b) 4 true).of_regs (State.setBank_regs ..)

theorem SamePower.readWord : SamePower s0 (s.readWord a).1 := by
  have hcount : ∀ {t : State}, SamePower s0 t → ∀ lo, SamePower s0 (t.count (Reg.BK_ECC_COUNT (bankOf a)) lo 16 1) := fun ht lo =>
    ht.count (elsewhere_eccCount _) lo 16 1
  unfold State.readWord
  dsimp only
  split
  · exact h
  · exact (hcount (h.setStatus (elsewhere_bankStatus _) 3 _ (by decide) _ _) 0).of_regs (State.setBank_regs ..)
  · refine (hcount ?_ 16).wr (elsewhere_lastErr _) _
    split <;> exact h.setStatus (elsewhere_bankStatus _) _ _ (by decide) _ _

theorem SamePower.readPort : SamePower s0 (s.readPort a n).1 :=
  SamePower.foldl_fst (fun _ p hp => hp.readWord p.1) _ h

theorem SamePower.readPart (ag : Agent) : SamePower s0 (s.readPart ag a n).1 := by
  unfold State.readPart
  split
  · exact h.notOwned a ag false
  · split
    · exact h.readPort a n
    · exact h.asleep (bankOf a)

theorem SamePower.writeWord (bs : List Byte) : SamePower s0 (s.writeWord a bs) := by
  have hset : ∀ {t : State}, SamePower s0 t → ∀ a bs, SamePower s0 (t.setBytes a bs) := fun ht a bs => ht.of_regs (setBytes_regs bs _ a)
  unfold State.writeWord
  extract_lets b src t m
  have ht : SamePower s0 t := by
    show SamePower s0 (if _ then _ else _ : State)
    split
    · exact h.of_regs (State.setBank_regs ..)
    · exact h
  clear_value t
  have hm : SamePower s0 (t.setMark a 0) := ht.of_regs (State.setMark_regs ..)
  split
  · exact hset ht a bs
  · split
    · exact hset hm a bs
    · exact (hset (hset hm _ _) a bs).setBit (elsewhere_bankStatus b) 6 true

omit h in
theorem SamePower.writePort (l : List (Nat × Nat)) {s : State} (h : SamePower s0 s) (a : Nat) (bs : List Byte) : SamePower s0 (s.writePort a l bs) := by
  induction l generalizing s bs with
  | nil => exact h
  | cons p r ih => exact ih (h.writeWord p.1 (bs.take p.2)) (bs.drop p.2)

theorem SamePower.holdAccess (data : Option (List Byte)) (input : Nat) (same : Bool) : SamePower s0 (s.holdAccess a n data input same) := by
  unfold State.holdAccess
  refine SamePower.of_regs (s := if s.served (bankOf a) = .wakes then s.autoWake (bankOf a) else s) ?_
    ((State.numbered_regs _).trans (State.setBank_regs ..))
  split
  · exact h.autoWake (bankOf a)
  · exact h

theorem SamePower.writePart (ag : Agent) (bs : List Byte) : SamePower s0 (s.writePart ag a bs) := by
  unfold State.writePart
  split
  · exact h.notOwned a ag true
  · split
    · exact SamePower.writePort _ h a bs
    · exact h.asleep (bankOf a)
    · exact h.holdAccess a bs.length _ _ _

omit h in
theorem SamePower.writeParts (ag : Agent) (l : List (Nat × Nat)) {s : State} (h : SamePower s0 s) (bs : List Byte) : SamePower s0 (s.writeParts ag l bs) := by
  induction l generalizing s bs with
  | nil => exact h
  | cons p r ih => exact ih (h.writePart p.1 ag (bs.take p.2)) (bs.drop p.2)

end Banks

/-! ### Level memory -/

section Level

variable {s0 s : State} (c addr a n : Nat)

theorem elsewhere_levelStatus : Elsewhere (Reg.LD_STATUS c) := .inr (by unfold Reg.LD_STATUS; omega)
theorem elsewhere_levelEccCount : Elsewhere (Reg.LD_ECC_COUNT c) := .inr (by unfold Reg.LD_ECC_COUNT; omega)
theorem elsewhere_levelLastErr : Elsewhere (Reg.LD_LAST_ERR c) := .inr (by unfold Reg.LD_LAST_ERR; omega)
theorem elsewhere_levelLastSym : Elsewhere (Reg.LD_LAST_SYM c) := .inr (by unfold Reg.LD_LAST_SYM; omega)

theorem setCache_regs (l : List CheckEntry) : (s.setCache c l).regs = s.regs :=
  foldl_frame (·.regs) (fun v e => by split <;> rfl) _ _

theorem storePair_regs (left : Option Errors) (bs : List Byte) : (s.storePair c addr a left bs).regs = s.regs := by
  have hset : ∀ (t : State), (State.freshCheck { t.setBytes a bs with pairErrs := t.pairErrs.put [] (a / 128) [] } c addr).regs = t.regs :=
    fun t => setBytes_regs bs t a
  unfold State.storePair
  refine (hset _).trans ?_
  split
  · split
    · rfl
    · exact setBytes_regs _ s _
  · exact setBytes_regs _ s _

variable (h : SamePower s0 s)
include h

theorem SamePower.pairUe : SamePower s0 (s.pairUe c addr) :=
  ((h.setStatus (elsewhere_levelStatus c) 1 _ (by decide) _ _).count (elsewhere_levelEccCount c) 16 16 1).wr (elsewhere_levelLastErr c) _

theorem SamePower.pairCe (sym : Nat) : SamePower s0 (s.pairCe c addr sym) :=
  (((h.setStatus (elsewhere_levelStatus c) 0 _ (by decide) _ _).count (elsewhere_levelEccCount c) 0 16 1).wr (elsewhere_levelLastErr c) _).setFld
    (elsewhere_levelLastSym c) 0 7 sym

theorem SamePower.touchArea (block : Nat) : SamePower s0 (s.touchArea c block).1 := by
  unfold State.touchArea
  dsimp only
  split
  · exact h.of_regs (setCache_regs c _)
  · refine SamePower.of_regs ?_ (setCache_regs c _)
    split
    · exact h
    · exact h.pairCe c _ _
    · exact h.pairUe c _

theorem SamePower.readPair : SamePower s0 (s.readPair a).1 := by
  unfold State.readPair
  split
  · exact h
  · rename_i c addr _
    split
    · exact h.pairUe c addr
    · have hr := h.touchArea c (addr / 4096)
      dsimp only
      split
      · exact hr
      · exact hr.pairCe c addr _
      · exact hr.pairUe c addr

theorem SamePower.readExt : SamePower s0 (s.readExt a n).1 :=
  SamePower.foldl_fst (fun _ p hp => hp.readPair p.1) _ h

theorem SamePower.writePair (bs : List Byte) : SamePower s0 (s.writePair a bs) := by
  have hstore : ∀ {t : State}, SamePower s0 t → ∀ c addr left, SamePower s0 (t.storePair c addr a left bs) := fun ht c addr left =>
    ht.of_regs (storePair_regs c addr a left bs)
  unfold State.writePair
  split
  · exact h
  · rename_i c addr _
    split
    · exact h
    · have hr := h.touchArea c (addr / 4096)
      dsimp only
      split
      · exact hstore hr c addr _
      · split
        · exact hstore hr c addr _
        · exact hstore (hr.pairCe c addr _) c addr _
        · exact (hstore (hr.pairUe c addr) c addr _).setBit (elsewhere_levelStatus c) 3 true

omit h in
theorem SamePower.writePairs (l : List (Nat × Nat)) {s : State} (h : SamePower s0 s) (bs : List Byte) : SamePower s0 (s.writePairs l bs) := by
  induction l generalizing s bs with
  | nil => exact h
  | cons p r ih => exact ih (h.writePair p.1 (bs.take p.2)) (bs.drop p.2)

end Level

/-! ### Deep memory, and all of device memory -/

section Device

variable {s0 s : State} (a n : Nat)

theorem elsewhere_deepCount {w : Nat} (hw : s.deepWin a n = some w) : Elsewhere (Reg.HF_DEEP_WIN_COUNT w) := by
  have hw := List.mem_range.mp (List.mem_of_find?_eq_some hw)
  exact .inl (by unfold Reg.HF_DEEP_WIN_COUNT; omega)

theorem sendReads_regs (w : Nat) : (s.sendReads w a n).regs = s.regs :=
  foldl_frame (·.regs) (fun v _ => State.emit_regs v _) _ s

theorem postWrites_regs (w : Nat) (l : List (Nat × Nat)) (s : State) (bs : List Byte) : (s.postWrites w l bs).regs = s.regs := by
  induction l generalizing s bs with
  | nil => rfl
  | cons p r ih => exact (ih _ _).trans (State.emit_regs s _)

variable (h : SamePower s0 s)
include h

theorem SamePower.readHost (host : List Host.Cell) : SamePower s0 (s.readHost a n host).1 := by
  unfold State.readHost
  split
  · exact h.raise _ (by decide) _ _
  · rename_i w hw
    have hsent : SamePower s0 (s.sendReads w a n) := h.of_regs (sendReads_regs a n w)
    dsimp only
    split
    · exact h
    · split
      · exact (hsent.count (elsewhere_deepCount a n hw) 0 16 1).raise _ (by decide) _ _
      · exact hsent

theorem SamePower.writeHost (bs : List Byte) : SamePower s0 (s.writeHost a bs) := by
  unfold State.writeHost
  split
  · exact h.raise _ (by decide) _ _
  · split
    · exact h.raise _ (by decide) _ _
    · split
      · exact h
      · exact h.of_regs (postWrites_regs _ _ s bs)

theorem SamePower.readDev (ag : Agent) (host : List Host.Cell) : SamePower s0 (s.readDev ag a n host).1 := by
  unfold State.readDev
  split
  · exact h
  · split
    · exact SamePower.foldl_fst (fun _ p hp => hp.readPart p.1 p.2 ag) _ h
    · split
      · exact h.readExt a n
      · exact h.readHost a n host

theorem SamePower.writeDev (ag : Agent) (bs : List Byte) : SamePower s0 (s.writeDev ag a bs) := by
  unfold State.writeDev
  split
  · exact h
  · split
    · exact SamePower.writeParts ag _ h bs
    · split
      · exact SamePower.writePairs _ h bs
      · exact h.writeHost a bs

end Device

/-! ### Rows that move -/

section Rows

variable {s0 s : State}

theorem elsewhere_jobFlags (slot : Nat) : Elsewhere (Reg.PN_JOB_FLAGS slot) := .inr (by unfold Reg.PN_JOB_FLAGS; omega)

variable (h : SamePower s0 s)
include h

theorem SamePower.sumFlags (slot f tz tq : Nat) : SamePower s0 (s.sumFlags slot f tz tq) := by
  have hraise : ∀ {t : State} (c : Prop) [Decidable c] (code : Code) (source : Nat) (data : List Nat), SamePower s0 t →
      SamePower s0 (if c then t.raise code .info source data else t) := fun c _ code source data ht => by
    split
    · exact ht.raise code (by decide) source data
    · exact ht
  exact hraise _ _ _ _ (hraise _ _ _ _ (h.setFld (elsewhere_jobFlags slot) 0 8 _))

theorem SamePower.writeRowAt (k a w : Nat) (widens : Bool) (v : RowVal) : SamePower s0 (s.writeRowAt k a w widens v) := by
  unfold State.writeRowAt
  have hw := h.writeDev a (s.rowAgent k a) (encodeRow w (s.dimOf (keyTable k)) (s.stateKind (keyTable k)) (s.rowRound k widens) v).1
  dsimp only
  split
  · exact hw.sumFlags _ _ _ _
  · exact hw

theorem SamePower.makeMove (m : Move) (host : List Host.Cell) : SamePower s0 (s.makeMove m host).1 := by
  have hcount : ∀ {t : State}, SamePower s0 t → ∀ {r : Nat}, 0x120000 ≤ r → ∀ lo, SamePower s0 (t.count r lo 16 1) := fun ht _ hr lo =>
    ht.count (.inr hr) lo 16 1
  have hlost : SamePower s0 (s.count Reg.EM_HAUL_LOST 0 16 1) := hcount h (by decide) 0
  unfold State.makeMove
  extract_lets k n v deep size face noFace t tier tier' needs slot base a from_ r u cand src e w
  have ht : SamePower s0 t := by
    show SamePower s0 (if _ then _ else _ : State)
    split
    · exact hlost
    · exact h
  have hu : SamePower s0 u := (SamePower.writeRowAt (ht.readDev _ _ _ _) k a m.width _ _).of_regs rfl
  have hw : SamePower s0 w := hu.of_regs rfl
  clear_value t u w
  split
  · exact ht
  · split
    · exact hcount ht (by decide) 16
    · exact hcount hw (by decide) _

theorem SamePower.demoteFaces (p : Nat) : SamePower s0 (s.demoteFaces p) :=
  SamePower.foldl (fun _ _ ht => ht.makeMove _ _) _ h

end Rows

end Sys2Proof.Machine
end

section
/-! PROOFS. Power states: requests, parking, DOZE and STANDBY. -/

namespace Sys2Proof.Machine

/-! ### Folds that visit each place once -/

/-- What every step over an element of the list leaves alone, the fold leaves alone. -/
theorem foldl_frame_mem {α γ : Type} (g : State → γ) {f : State → α → State} {l : List α} (hf : ∀ s, ∀ a ∈ l, g (f s a) = g s) (s : State) :
    g (l.foldl f s) = g s :=
  List.foldlRecOn (motive := fun t => g t = g s) l f rfl fun t ht a ha => (hf t a ha).trans ht

/-- What one element of the list alone writes, stands after the fold as that element writes it. -/
theorem foldl_visit {α κ γ : Type} (k : α → κ) (g : State → γ) {I : State → Prop} {f : State → α → State} {l : List α} {e : α} (he : e ∈ l)
    (hl : (l.map k).Nodup) (hI : ∀ s, ∀ a ∈ l, I s → I (f s a)) (hother : ∀ s, ∀ a ∈ l, k a ≠ k e → g (f s a) = g s) {c V : γ}
    (hown : ∀ s, I s → g s = c → g (f s e) = V) {s : State} (hs : I s) (hc : g s = c) : g (l.foldl f s) = V := by
  induction l generalizing s with
  | nil => exact absurd he List.not_mem_nil
  | cons d r ih =>
    rw [List.map_cons, List.nodup_cons] at hl
    obtain ⟨hd, hl⟩ := hl
    rw [List.foldl_cons]
    obtain rfl | he := List.mem_cons.mp he
    · refine (foldl_frame_mem g (fun t a ha => hother t a (List.mem_cons_of_mem e ha) fun hk => hd ?_) _).trans (hown s hs hc)
      exact hk ▸ List.mem_map_of_mem ha
    · refine ih he hl (fun t a ha => hI t a (List.mem_cons_of_mem d ha)) (fun t a ha => hother t a (List.mem_cons_of_mem d ha))
        (hI s d List.mem_cons_self hs) ((hother s d List.mem_cons_self fun hk => hd ?_).trans hc)
      exact hk ▸ List.mem_map_of_mem he

theorem mem_panels {p : Nat} : p ∈ [0, 1, 2, 3] ↔ p < 4 := by
  simp only [List.mem_cons, List.not_mem_nil, or_false]
  omega

/-- A fold over some of the panels, whose every step sets the rail of its own panel. -/
theorem rail_foldl_panels {c : Nat → Bool} {I : State → Prop} {f : State → Nat → State} (hI : ∀ s q, q < 4 → I s → I (f s q))
    (hother : ∀ s q p, q < 4 → q ≠ p → (f s q).rail p = s.rail p) {V : Nat → Nat} {s : State}
    (hown : ∀ t p, p < 4 → c p = true → I t → t.rail p = s.rail p → (f t p).rail p = V p) (hs : I s) {p : Nat} (hp : p < 4) :
    (([0, 1, 2, 3].filter c).foldl f s).rail p = if c p then V p else s.rail p := by
  have hq : ∀ {q}, q ∈ [0, 1, 2, 3].filter c → q < 4 := fun hq => mem_panels.mp (List.mem_filter.mp hq).1
  split
  · rename_i hc
    refine foldl_visit id (State.rail · p) (List.mem_filter.mpr ⟨mem_panels.mpr hp, hc⟩) ?_ (fun t q h => hI t q (hq h))
      (fun t q h hne => hother t q p (hq h) hne) (fun t ht => hown t p hp hc ht) hs rfl
    rw [List.map_id]
    exact List.Nodup.filter _ (by decide)
  · rename_i hc
    refine foldl_frame_mem (State.rail · p) (fun t q h => hother t q p (hq h) ?_) s
    rintro rfl
    exact hc (List.mem_filter.mp h).2

/-! ### Rails -/

section Rails

variable {s : State} {p : Nat}

theorem rail_setRail_self (mv : Nat) : (s.setRail p mv).rail p = mv % 1024 := State.fld_setFld_self s _ mv (by decide)

theorem panel_ne {q : Nat} (h : q ≠ p) : Reg.PW_PANEL p ≠ Reg.PW_PANEL q := by
  unfold Reg.PW_PANEL
  omega

theorem panel_ne_state (h : p < 4) : Reg.PW_PANEL p ≠ Reg.PW_STATE := by
  unfold Reg.PW_PANEL Reg.PW_STATE
  omega

theorem rail_setFld_panel_other {q : Nat} (h : q ≠ p) (lo n v : Nat) : (s.setFld (Reg.PW_PANEL q) lo n v).rail p = s.rail p :=
  State.fld_setFld_other s lo n v _ _ (panel_ne h)

theorem rail_congr {t : State} (h : t.rd (Reg.PW_PANEL p) = s.rd (Reg.PW_PANEL p)) : t.rail p = s.rail p := by
  unfold State.rail State.fld
  rw [h]

theorem rail_lt : s.rail p < 1024 := State.fld_lt ..

end Rails

/-! ### PW_STATE -/

section PwState

variable {s : State}

/-- A lower part of a field, where the field has another number's bits. -/
theorem bitsOf_lower {w x lo n m : Nat} (h : bitsOf w lo n = bitsOf x lo n) (hm : m ≤ n) : bitsOf w lo m = bitsOf x lo m := by
  have hd : 2 ^ m ∣ 2 ^ n := Nat.pow_dvd_pow 2 hm
  unfold bitsOf at *
  rw [← Nat.mod_mod_of_dvd _ hd, h, Nat.mod_mod_of_dvd _ hd]

theorem noteState_regs : s.noteState.regs = s.regs := raise_regs s _ (by decide) _ _

theorem setCurrent_rd_other {a : Nat} (h : a ≠ Reg.PW_STATE) (c : Nat) : (s.setCurrent c).rd a = s.rd a := by
  unfold State.setCurrent
  split
  · rfl
  · exact (State.rd_congr noteState_regs a).trans (State.rd_setFld_other s 8 3 c h)

theorem setCurrent_fld_apart {lo n : Nat} (h : lo + n ≤ 8 ∨ 11 ≤ lo) (c : Nat) : (s.setCurrent c).fld Reg.PW_STATE lo n = s.fld Reg.PW_STATE lo n := by
  unfold State.setCurrent
  split
  · rfl
  · exact (State.fld_congr noteState_regs ..).trans (State.fld_setFld_apart s _ c (by decide) (by omega))

theorem setCurrent_powerState {c : Nat} (h : c < 8) : (s.setCurrent c).powerState = c := by
  unfold State.setCurrent
  split
  · assumption
  · exact (State.fld_congr noteState_regs ..).trans ((State.fld_setFld_self s _ c (by decide)).trans (Nat.mod_eq_of_lt h))

theorem setCurrent_mem (c : Nat) : (s.setCurrent c).mem = s.mem := by
  unfold State.setCurrent
  split
  · rfl
  · exact (State.raise_mem ..).trans (State.setFld_mem ..)

theorem refusePower_fld_apart {lo n : Nat} (h : lo + n ≤ 16 ∨ 20 ≤ lo) (r : Nat) : (s.refusePower r).fld Reg.PW_STATE lo n = s.fld Reg.PW_STATE lo n :=
  (State.fld_setFld_apart _ _ r (by decide) (by omega)).trans (State.fld_setBit_apart s _ true (by decide) (by omega))

theorem refusePower_refused (r : Nat) : (s.refusePower r).bit Reg.PW_STATE 16 = true :=
  (State.bit_setFld_apart _ _ r (by decide) (by decide)).trans (State.bit_setBit_self s _ true (by decide))

theorem refusePower_reason {r : Nat} (h : r < 8) : (s.refusePower r).fld Reg.PW_STATE 17 3 = r :=
  (State.fld_setFld_self _ _ r (by decide)).trans (Nat.mod_eq_of_lt h)

theorem refusePower_mem (r : Nat) : (s.refusePower r).mem = s.mem := (State.setFld_mem ..).trans (State.setBit_mem ..)

theorem refusePower_power (r : Nat) : (s.refusePower r).power = s.power := (State.setFld_power ..).trans (State.setBit_power ..)

/-- The panels that the request in PW_STATE wants parked. -/
def State.wantParked (s : State) : Nat := if s.fld Reg.PW_STATE 0 3 = 1 then s.fld Reg.PW_STATE 3 4 else 0

theorem leanDone_waits (h : s.fld Reg.PW_STATE 11 4 ≠ s.wantParked) : s.leanDone = s := if_pos h

theorem leanDone_reached (h : s.fld Reg.PW_STATE 11 4 = s.wantParked) :
    s.leanDone = (s.setBit Reg.PW_STATE 15 false).setCurrent (if s.fld Reg.PW_STATE 0 3 = 1 then 1 else 0) := if_neg (not_not_intro h)

theorem leanDone_rd_other {a : Nat} (h : a ≠ Reg.PW_STATE) : s.leanDone.rd a = s.rd a := by
  by_cases hw : s.fld Reg.PW_STATE 11 4 = s.wantParked
  · rw [leanDone_reached hw, setCurrent_rd_other h, State.rd_setBit_other s 15 false h]
  · rw [leanDone_waits hw]

theorem leanDone_fld_apart {lo n : Nat} (h : lo + n ≤ 8 ∨ 11 ≤ lo ∧ lo + n ≤ 15 ∨ 16 ≤ lo) :
    s.leanDone.fld Reg.PW_STATE lo n = s.fld Reg.PW_STATE lo n := by
  by_cases hw : s.fld Reg.PW_STATE 11 4 = s.wantParked
  · rw [leanDone_reached hw, setCurrent_fld_apart (by omega), State.fld_setBit_apart s _ false (by decide) (by omega)]
  · rw [leanDone_waits hw]

theorem leanDone_powerState :
    s.leanDone.powerState = if s.fld Reg.PW_STATE 11 4 = s.wantParked then (if s.fld Reg.PW_STATE 0 3 = 1 then 1 else 0) else s.powerState := by
  split
  · rename_i hw
    rw [leanDone_reached hw]
    exact setCurrent_powerState (by split <;> decide)
  · rename_i hw
    rw [leanDone_waits hw]

theorem leanDone_transition (h : s.bit Reg.PW_STATE 15 = true) : s.leanDone.bit Reg.PW_STATE 15 = decide (s.fld Reg.PW_STATE 11 4 ≠ s.wantParked) := by
  by_cases hw : s.fld Reg.PW_STATE 11 4 = s.wantParked
  · rw [leanDone_reached hw, decide_eq_false (not_not_intro hw), State.bit_eq, setCurrent_fld_apart (by decide), ← State.bit_eq]
    exact State.bit_setBit_self s _ false (by decide)
  · rw [leanDone_waits hw, decide_eq_true hw, h]

theorem leanDone_mem : s.leanDone.mem = s.mem := by
  by_cases hw : s.fld Reg.PW_STATE 11 4 = s.wantParked
  · rw [leanDone_reached hw, setCurrent_mem, State.setBit_mem]
  · rw [leanDone_waits hw]

end PwState

/-! ### Requests -/

/-- PW_STATE with the fields that a request writes. -/
def State.askedPower (s : State) (v : Word) : State :=
  ((if bitOf v.toNat 16 then s.setBit Reg.PW_STATE 16 false else s).setFld Reg.PW_STATE 3 5 (bitsOf v.toNat 3 5)).setFld Reg.PW_STATE 0 3
    (bitsOf v.toNat 0 3)

section Asked

variable (s : State) (v : Word)

theorem askedPower_rd_other {a : Nat} (h : a ≠ Reg.PW_STATE) : (s.askedPower v).rd a = s.rd a := by
  unfold State.askedPower
  rw [State.rd_setFld_other _ _ _ _ h, State.rd_setFld_other _ _ _ _ h]
  split
  · exact State.rd_setBit_other s 16 false h
  · rfl

theorem askedPower_fld_apart {lo n : Nat} (h : 8 ≤ lo ∧ (lo + n ≤ 16 ∨ 17 ≤ lo)) : (s.askedPower v).fld Reg.PW_STATE lo n = s.fld Reg.PW_STATE lo n := by
  unfold State.askedPower
  rw [State.fld_setFld_apart _ _ _ (by decide) (by omega), State.fld_setFld_apart _ _ _ (by decide) (by omega)]
  split
  · exact State.fld_setBit_apart s _ false (by decide) (by omega)
  · rfl

theorem askedPower_req : (s.askedPower v).fld Reg.PW_STATE 0 3 = bitsOf v.toNat 0 3 :=
  (State.fld_setFld_self _ _ _ (by decide)).trans (Nat.mod_mod ..)

theorem askedPower_park5 : (s.askedPower v).fld Reg.PW_STATE 3 5 = bitsOf v.toNat 3 5 :=
  (State.fld_setFld_apart _ _ _ (by decide) (by decide)).trans ((State.fld_setFld_self _ _ _ (by decide)).trans (Nat.mod_mod ..))

theorem askedPower_park : (s.askedPower v).fld Reg.PW_STATE 3 4 = bitsOf v.toNat 3 4 := bitsOf_lower (askedPower_park5 s v) (by decide)

theorem askedPower_force : (s.askedPower v).bit Reg.PW_STATE 7 = bitOf v.toNat 7 := by
  have h := askedPower_park5 s v
  unfold State.fld bitsOf at h
  unfold State.bit bitOf
  simp only [Nat.shiftRight_eq_div_pow, decide_eq_decide] at h ⊢
  omega

theorem askedPower_mem : (s.askedPower v).mem = s.mem := by
  unfold State.askedPower
  rw [State.setFld_mem, State.setFld_mem]
  split
  · exact State.setBit_mem ..
  · rfl

theorem askedPower_power : (s.askedPower v).power = s.power := by
  unfold State.askedPower
  rw [State.setFld_power, State.setFld_power]
  split
  · exact State.setBit_power ..
  · rfl

theorem askedPower_ledger : (s.askedPower v).ledger = s.ledger := by
  unfold State.askedPower
  rw [State.setFld_ledger, State.setFld_ledger]
  split
  · exact State.setBit_ledger ..
  · rfl

theorem askedPower_powerState : (s.askedPower v).powerState = s.powerState := askedPower_fld_apart s v (by decide)

theorem askedPower_rail {p : Nat} (h : p < 4) : (s.askedPower v).rail p = s.rail p := rail_congr (askedPower_rd_other s v (panel_ne_state h))

theorem jobCtl_ne_state (j : Nat) : Reg.PN_JOB_CTL j ≠ Reg.PW_STATE := by
  unfold Reg.PN_JOB_CTL Reg.PW_STATE
  omega

theorem askedPower_slotIs (j : Nat) (p : SlotPhase) : (s.askedPower v).slotIs j p = s.slotIs j p := by
  unfold State.slotIs State.fld
  rw [askedPower_rd_other s v (jobCtl_ne_state j)]

theorem askedPower_dozeOk : (s.askedPower v).dozeOk = s.dozeOk := by
  have hclass : ∀ j, (s.askedPower v).classOf j = s.classOf j := fun j => by
    unfold State.classOf State.fld
    rw [askedPower_rd_other s v (jobCtl_ne_state j)]
  unfold State.dozeOk
  simp only [askedPower_slotIs, hclass, askedPower_ledger]

/-- What a write of PW_STATE does while firmware is up and the module is awake. -/
theorem powerWrite_awake {s : State} {v : Word} (hup : s.powerUp = true) (hst : s.powerState < 2) (hreq : bitsOf v.toNat 0 3 ≤ 3) (woken : Nat) :
    s.powerWrite v woken =
      if bitsOf v.toNat 0 3 = 0 then ((s.askedPower v).setBit Reg.PW_STATE 15 true).leanDone
      else if bitsOf v.toNat 0 3 = 1 then
        if bitsOf v.toNat 3 4 = 15 then ((s.askedPower v).setFld Reg.PW_STATE 0 8 (s.fld Reg.PW_STATE 0 8)).refusePower 3 else (s.askedPower v).beginLean
      else if bitsOf v.toNat 0 3 = 2 then
        if !(s.askedPower v).dozeOk then (s.askedPower v).refusePower 1
        else if 1 ≤ woken && woken ≤ 4 then (((s.askedPower v).setFld Reg.PW_STATE 0 3 0).refusePower 4).setFld Reg.PW_STATE 20 3 woken
        else (s.askedPower v).enterDoze
      else (s.askedPower v).beginStandby := by
  unfold State.powerWrite
  extract_lets n req c old x y z
  have hc : c = s.setBit Reg.PW_STATE 16 false ∨ c = s := by
    by_cases h : bitOf n 16 = true
    · exact .inl (if_pos h)
    · exact .inr (if_neg h)
  have hc : c.power = s.power ∧ (∀ a, a ≠ Reg.PW_STATE → c.rd a = s.rd a) ∧ c.fld Reg.PW_STATE 0 8 = s.fld Reg.PW_STATE 0 8 ∧
      c.powerState = s.powerState := by
    obtain hc | hc := hc <;> rw [hc]
    · exact ⟨State.setBit_power .., fun a ha => State.rd_setBit_other s 16 false ha, State.fld_setBit_apart s _ false (by decide) (by decide),
        State.fld_setBit_apart s _ false (by decide) (by decide)⟩
    · exact ⟨rfl, fun _ _ => rfl, rfl, rfl⟩
  obtain ⟨hpower, hrd, hold, hcur⟩ := hc
  have hx : x.powerUp = true := by
    have hboot : x.fld Reg.PC_BOOT 0 3 = s.fld Reg.PC_BOOT 0 3 := by
      unfold State.fld
      rw [State.rd_setFld_other c _ _ _ (by decide), hrd _ (by decide)]
    rw [← hup]
    unfold State.powerUp
    rw [hboot, State.setFld_power, hpower]
  have hawake : ¬(decide (x.powerState = 2) && decide (req ≠ 3)) = true := by
    have : x.powerState = s.powerState := (State.fld_setFld_apart c _ _ (by decide) (by decide)).trans hcur
    rw [this, decide_eq_false (by omega), Bool.false_and]
    decide
  have hgo : ¬(decide (3 < req) || !x.powerUp) = true := by
    rw [hx, decide_eq_false (Nat.not_lt.mpr hreq)]
    decide
  refine (if_neg hgo).trans ?_
  have hz : z = s.askedPower v := congrArg (State.setFld · Reg.PW_STATE 0 3 req) (if_neg hawake)
  rw [hz, show old = s.fld Reg.PW_STATE 0 8 from hold]

end Asked

theorem exec_pwReqActive_eq (v : Word) (s : State) : exec (.pwReqActive v) s = .next (s.reqActive v) := rfl
theorem exec_pwReqLean_eq (v : Word) (s : State) : exec (.pwReqLean v) s = .next (s.reqLean v) := rfl
theorem exec_pwReqDoze_eq (v : Word) (n : Nat) (s : State) : exec (.pwReqDoze v n) s = .next (s.reqDoze v n) := rfl
theorem exec_pwReqStandby_eq (v : Word) (s : State) : exec (.pwReqStandby v) s = .next (s.reqStandby v) := rfl

/-! ### ACTIVE and LEAN asked for -/

section Requests

variable {s : State} {v : Word} (hup : s.powerUp = true) (hst : s.powerState < 2)
include hup hst

theorem reqActive_awake (hreq : bitsOf v.toNat 0 3 = 0) : s.reqActive v = ((s.askedPower v).setBit Reg.PW_STATE 15 true).leanDone := by
  refine (if_pos hreq).trans ?_
  rw [powerWrite_awake hup hst (by omega), if_pos hreq]

theorem reqLean_awake (hreq : bitsOf v.toNat 0 3 = 1) : s.reqLean v = if bitsOf v.toNat 3 4 = 15 then
    ((s.askedPower v).setFld Reg.PW_STATE 0 8 (s.fld Reg.PW_STATE 0 8)).refusePower 3 else (s.askedPower v).beginLean := by
  refine (if_pos hreq).trans ?_
  rw [powerWrite_awake hup hst (by omega), if_neg (by omega), if_pos hreq]

theorem reqDoze_awake (hreq : bitsOf v.toNat 0 3 = 2) (n : Nat) : s.reqDoze v n = if !s.dozeOk then (s.askedPower v).refusePower 1
    else if 1 ≤ n && n ≤ 4 then (((s.askedPower v).setFld Reg.PW_STATE 0 3 0).refusePower 4).setFld Reg.PW_STATE 20 3 n
    else (s.askedPower v).enterDoze := by
  refine (if_pos hreq).trans ?_
  rw [powerWrite_awake hup hst (by omega), if_neg (by omega), if_neg (by omega), if_pos hreq, askedPower_dozeOk]

theorem reqStandby_awake (hreq : bitsOf v.toNat 0 3 = 3) : s.reqStandby v = (s.askedPower v).beginStandby := by
  refine (if_pos hreq).trans ?_
  rw [powerWrite_awake hup hst (by omega), if_neg (by omega), if_neg (by omega), if_neg (by omega)]

end Requests

section Asked

variable (s : State) (v : Word)

/-- The request that is asked for, in transition. -/
theorem asked_transition (lo n : Nat) (h : lo + n ≤ 15 ∨ 16 ≤ lo) :
    ((s.askedPower v).setBit Reg.PW_STATE 15 true).fld Reg.PW_STATE lo n = (s.askedPower v).fld Reg.PW_STATE lo n :=
  State.fld_setBit_apart _ _ true (by decide) (by omega)

theorem asked_parked : (s.askedPower v).fld Reg.PW_STATE 11 4 = s.fld Reg.PW_STATE 11 4 := askedPower_fld_apart s v (by decide)

/-- What a request for ACTIVE or LEAN reaches. -/
theorem asked_leanDone {r : Nat} (hreq : bitsOf v.toNat 0 3 = r) :
    let t := ((s.askedPower v).setBit Reg.PW_STATE 15 true).leanDone
    let want := if r = 1 then bitsOf v.toNat 3 4 else 0
    t.fld Reg.PW_STATE 0 3 = r ∧ t.fld Reg.PW_STATE 3 5 = bitsOf v.toNat 3 5 ∧ t.mem = s.mem ∧
      t.powerState = (if s.fld Reg.PW_STATE 11 4 = want then (if r = 1 then 1 else 0) else s.powerState) ∧
      t.bit Reg.PW_STATE 15 = decide (s.fld Reg.PW_STATE 11 4 ≠ want) := by
  intro t want
  have hr : ((s.askedPower v).setBit Reg.PW_STATE 15 true).fld Reg.PW_STATE 0 3 = r := by
    rw [asked_transition s v 0 3 (by decide), askedPower_req, hreq]
  have hp : ((s.askedPower v).setBit Reg.PW_STATE 15 true).fld Reg.PW_STATE 11 4 = s.fld Reg.PW_STATE 11 4 := by
    rw [asked_transition s v 11 4 (by decide), asked_parked]
  have hw : ((s.askedPower v).setBit Reg.PW_STATE 15 true).wantParked = want := by
    unfold State.wantParked
    rw [hr, asked_transition s v 3 4 (by decide), askedPower_park]
  have hc : ((s.askedPower v).setBit Reg.PW_STATE 15 true).powerState = s.powerState := by
    rw [← askedPower_powerState s v]
    exact asked_transition s v 8 3 (by decide)
  refine ⟨(leanDone_fld_apart (by decide)).trans hr, ?_, ?_, ?_, ?_⟩
  · rw [leanDone_fld_apart (by decide), asked_transition s v 3 5 (by decide), askedPower_park5]
  · rw [leanDone_mem, State.setBit_mem, askedPower_mem]
  · rw [leanDone_powerState, hr, hp, hw, hc]
  · rw [leanDone_transition (State.bit_setBit_self _ _ true (by decide)), hp, hw]

theorem beginLean_park (h : bitsOf v.toNat 3 4 ≠ 15) : (s.askedPower v).beginLean = ((s.askedPower v).setBit Reg.PW_STATE 15 true).leanDone :=
  if_neg (by rw [askedPower_park]; exact h)

/-- A refused request for LEAN: REQ, PARK and FORCE stand as before. -/
theorem asked_undone :
    let t := ((s.askedPower v).setFld Reg.PW_STATE 0 8 (s.fld Reg.PW_STATE 0 8)).refusePower 3
    t.bit Reg.PW_STATE 16 = true ∧ t.fld Reg.PW_STATE 17 3 = 3 ∧ t.fld Reg.PW_STATE 0 8 = s.fld Reg.PW_STATE 0 8 ∧ t.powerState = s.powerState ∧
      t.mem = s.mem := by
  intro t
  refine ⟨refusePower_refused 3, refusePower_reason (by decide), ?_, ?_, ?_⟩
  · rw [refusePower_fld_apart (by decide), State.fld_setFld_self _ _ _ (by decide), Nat.mod_eq_of_lt (State.fld_lt ..)]
  · refine (refusePower_fld_apart (by decide) 3).trans ?_
    rw [State.fld_setFld_apart _ _ _ (by decide) (by decide)]
    exact askedPower_powerState s v
  · rw [refusePower_mem, State.setFld_mem, askedPower_mem]

/-- A request refused with its reason. -/
theorem asked_refused {r : Nat} (hr : r < 8) :
    let t := (s.askedPower v).refusePower r
    t.bit Reg.PW_STATE 16 = true ∧ t.fld Reg.PW_STATE 17 3 = r ∧ t.powerState = s.powerState ∧ t.mem = s.mem := by
  intro t
  refine ⟨refusePower_refused r, refusePower_reason hr, ?_, ?_⟩
  · exact (refusePower_fld_apart (by decide) r).trans (askedPower_powerState s v)
  · rw [refusePower_mem, askedPower_mem]

/-- A DOZE request that a wake source has overtaken. -/
theorem asked_woken {n : Nat} (hn : n ≤ 4) :
    let t := (((s.askedPower v).setFld Reg.PW_STATE 0 3 0).refusePower 4).setFld Reg.PW_STATE 20 3 n
    t.bit Reg.PW_STATE 16 = true ∧ t.fld Reg.PW_STATE 17 3 = 4 ∧ t.fld Reg.PW_STATE 20 3 = n ∧ t.powerState = s.powerState ∧ t.mem = s.mem := by
  intro t
  refine ⟨?_, ?_, ?_, ?_, ?_⟩
  · exact (State.bit_setFld_apart _ _ n (by decide) (by decide)).trans (refusePower_refused 4)
  · exact (State.fld_setFld_apart _ _ n (by decide) (by decide)).trans (refusePower_reason (by decide))
  · exact (State.fld_setFld_self _ _ n (by decide)).trans (Nat.mod_eq_of_lt (by omega))
  · refine (State.fld_setFld_apart _ _ n (by decide) (by decide)).trans ((refusePower_fld_apart (by decide) 4).trans ?_)
    rw [State.fld_setFld_apart _ _ _ (by decide) (by decide)]
    exact askedPower_powerState s v
  · rw [State.setFld_mem, refusePower_mem, State.setFld_mem, askedPower_mem]

end Asked

/-! ### DOZE entry -/

section Doze

/-- A panel put to retention: its setting kept where it is not parked. -/
def State.dozePanel (s : State) (p : Nat) : State :=
  let s : State := if s.bit Reg.PW_STATE (11 + p) then s else { s with power := { s.power with railAt := s.power.railAt.put 0 p (s.rail p) } }
  (s.setRail p 420).setFld (Reg.PW_PANEL p) 0 16 0

variable (s : State)

theorem dozePanel_mem (p : Nat) : (s.dozePanel p).mem = s.mem := by
  unfold State.dozePanel State.setRail
  rw [State.setFld_mem, State.setFld_mem]
  split <;> rfl

theorem dozePanel_rail_self (p : Nat) : (s.dozePanel p).rail p = 420 :=
  (State.fld_setFld_apart _ _ 0 (by decide) (by decide)).trans (rail_setRail_self 420)

theorem dozePanel_rail_other {p q : Nat} (h : q ≠ p) : (s.dozePanel q).rail p = s.rail p := by
  unfold State.dozePanel State.setRail
  rw [rail_setFld_panel_other h, rail_setFld_panel_other h]
  split <;> rfl

theorem enterDoze_eq : s.enterDoze =
    ((([0, 1, 2, 3].filter (fun p => s.rail p ≠ 0)).foldl State.dozePanel s).setCurrent 2).count (Reg.SC_PWR_HIST 1) 0 32 1 := rfl

theorem enterDoze_powerState : s.enterDoze.powerState = 2 := by
  rw [enterDoze_eq]
  exact (State.fld_setFld_other _ _ _ _ _ _ (by decide)).trans (setCurrent_powerState (by decide))

theorem enterDoze_mem : s.enterDoze.mem = s.mem := by
  rw [enterDoze_eq, State.count_mem, setCurrent_mem]
  exact foldl_frame (·.mem) dozePanel_mem _ s

theorem enterDoze_rail {p : Nat} (hp : p < 4) : s.enterDoze.rail p = if s.rail p = 0 then 0 else 420 := by
  have hfold := rail_foldl_panels (c := fun p => s.rail p ≠ 0) (I := fun _ => True) (f := State.dozePanel) (V := fun _ => 420) (s := s)
    (fun _ _ _ _ => trivial) (fun t q p _ h => dozePanel_rail_other t h) (fun t p _ _ _ _ => dozePanel_rail_self t p) trivial hp
  have hcount : Reg.PW_PANEL p ≠ Reg.SC_PWR_HIST 1 := by
    unfold Reg.PW_PANEL Reg.SC_PWR_HIST
    omega
  rw [enterDoze_eq, State.count, rail_congr (State.rd_setFld_other _ 0 32 _ hcount), rail_congr (setCurrent_rd_other (panel_ne_state hp) 2), hfold]
  by_cases h : s.rail p = 0 <;> simp [h]

end Doze

/-! ### STANDBY entry -/

section Standby

/-- Whether a job slot is active, so that STANDBY without FORCE is refused. -/
def State.jobsActive (s : State) : Bool := (List.range 64).any (fun j => !s.slotIs j .free && !s.slotIs j .stopped && !s.slotIs j .done)

variable {s : State}

theorem beginStandby_refused (hb : s.bit Reg.PW_STATE 7 = false) (ha : s.jobsActive = true) : s.beginStandby = s.refusePower 1 := by
  refine if_pos ?_
  rw [hb]
  exact ha

/-- STANDBY entry up to order 5: every job has ended, and the keys are gone. -/
theorem beginStandby_begins (h : s.bit Reg.PW_STATE 7 = true ∨ s.jobsActive = false) :
    s.beginStandby.power.standby = 5 ∧ s.beginStandby.bit Reg.PW_STATE 15 = true ∧ s.beginStandby.sec.idKey = none ∧
      s.beginStandby.sec.mgmtNonce = none := by
  have hgo : ¬(!s.bit Reg.PW_STATE 7 && s.jobsActive) = true := by
    obtain h | h := h <;> rw [h]
    · rw [Bool.not_true, Bool.false_and]
      exact Bool.false_ne_true
    · rw [Bool.and_false]
      exact Bool.false_ne_true
  rw [show s.beginStandby = _ from if_neg hgo]
  refine ⟨?_, State.bit_setBit_self _ _ true (by decide), ?_, ?_⟩
  · rw [State.setBit_power]
  · rw [State.setBit_sec]
  · rw [State.setBit_sec]

end Standby

/-! ### Parking -/

section Parking

variable {s : State} {p : Nat}

/-- Whether LEAN has a panel to park. -/
def State.mayPark (s : State) (p : Nat) : Prop :=
  p < 4 ∧ s.powerState < 2 ∧ s.fld Reg.PW_STATE 0 3 = 1 ∧ s.bit Reg.PW_STATE (3 + p) = true ∧ s.bit Reg.PW_STATE (11 + p) = false ∧ s.rail p ≠ 0

/-- Whether a parked panel comes back. -/
def State.mayUnpark (s : State) (p : Nat) : Prop :=
  p < 4 ∧ s.powerState < 2 ∧ s.bit Reg.PW_STATE (11 + p) = true ∧ ¬ (s.fld Reg.PW_STATE 0 3 = 1 ∧ s.bit Reg.PW_STATE (3 + p) = true)

theorem mayPark_iff : ¬ s.mayPark p ↔ (decide (4 ≤ p) || decide (2 ≤ s.powerState) || decide (s.fld Reg.PW_STATE 0 3 ≠ 1) || !s.bit Reg.PW_STATE (3 + p) ||
    s.bit Reg.PW_STATE (11 + p) || decide (s.rail p = 0)) = true := by
  simp only [State.mayPark, Bool.or_eq_true, decide_eq_true_eq, Bool.not_eq_true', ← Bool.not_eq_true, ← Nat.not_lt, ne_eq]
  tauto

theorem mayUnpark_iff : ¬ s.mayUnpark p ↔ (decide (4 ≤ p) || decide (2 ≤ s.powerState) || !s.bit Reg.PW_STATE (11 + p) ||
    (decide (s.fld Reg.PW_STATE 0 3 = 1) && s.bit Reg.PW_STATE (3 + p))) = true := by
  simp only [State.mayUnpark, Bool.or_eq_true, Bool.and_eq_true, decide_eq_true_eq, Bool.not_eq_true', ← Bool.not_eq_true, ← Nat.not_lt]
  tauto

theorem park_not (h : ¬ s.mayPark p) : s.park p = s := if_pos (mayPark_iff.mp h)

theorem park_busy (h : s.mayPark p) (hb : s.panelBusy p = true) : s.park p = s.refusePower 2 :=
  (if_neg fun hn => mayPark_iff.mpr hn h).trans (if_pos hb)

/-- The registers of a panel that parks: its rail at retention, no rate, and PARKED. -/
def State.parkedPanel (s : State) (p : Nat) : State := ((s.setRail p 420).setFld (Reg.PW_PANEL p) 0 16 0).setBit Reg.PW_STATE (11 + p) true

theorem park_idle (h : s.mayPark p) (hb : s.panelBusy p = false) :
    ∃ y, s.park p = (((State.parkedPanel y p).count (Reg.SC_PWR_HIST 2) 0 32 1).noteState).leanDone :=
  ⟨_, (if_neg fun hn => mayPark_iff.mpr hn h).trans (if_neg (ne_true_of_eq_false hb))⟩

theorem powerHist_ne_panel (k : Nat) (hk : k < 8) : Reg.PW_PANEL p ≠ Reg.SC_PWR_HIST k := by
  unfold Reg.PW_PANEL Reg.SC_PWR_HIST
  omega

theorem powerHist_ne_state (k : Nat) (hk : k < 8) : Reg.PW_STATE ≠ Reg.SC_PWR_HIST k := by
  unfold Reg.PW_STATE Reg.SC_PWR_HIST
  omega

theorem park_shows (hp : p < 4) (y : State) :
    let t := (((State.parkedPanel y p).count (Reg.SC_PWR_HIST 2) 0 32 1).noteState).leanDone
    t.rail p = 420 ∧ t.panelRate p = 0 ∧ t.bit Reg.PW_STATE (11 + p) = true := by
  intro t
  have hrd : t.rd (Reg.PW_PANEL p) = ((y.setRail p 420).setFld (Reg.PW_PANEL p) 0 16 0).rd (Reg.PW_PANEL p) := by
    rw [leanDone_rd_other (panel_ne_state hp), State.rd_congr noteState_regs, State.count, State.rd_setFld_other _ _ _ _ (powerHist_ne_panel 2 (by decide)),
      State.parkedPanel, State.rd_setBit_other _ _ _ (panel_ne_state hp)]
  have hfld : ∀ lo n, t.fld (Reg.PW_PANEL p) lo n = ((y.setRail p 420).setFld (Reg.PW_PANEL p) 0 16 0).fld (Reg.PW_PANEL p) lo n := fun lo n => by
    unfold State.fld
    rw [hrd]
  refine ⟨?_, ?_, ?_⟩
  · exact (hfld 16 10).trans ((State.fld_setFld_apart _ _ 0 (by decide) (by decide)).trans (rail_setRail_self 420))
  · exact (hfld 0 16).trans (State.fld_setFld_self _ _ 0 (by decide))
  · rw [State.bit_eq, leanDone_fld_apart (by omega), State.fld_congr noteState_regs, State.count,
      State.fld_setFld_other _ _ _ _ _ _ (powerHist_ne_state 2 (by decide)), ← State.bit_eq]
    exact State.bit_setBit_self _ _ true (by omega)

/-! A parked panel back in service. -/

theorem unpark_not (h : ¬ s.mayUnpark p) : s.unpark p = s := if_pos (mayUnpark_iff.mp h)

theorem unpark_back (h : s.mayUnpark p) : s.unpark p = ((s.unparkPanel p).noteState).leanDone := if_neg fun hn => mayUnpark_iff.mpr hn h

variable (s) in
/-- The registers of power after a panel's parking is reversed. -/
theorem unparkPanel_same (p : Nat) :
    ∃ y, SamePower s y ∧ SamePower ((y.setRail p (s.power.railAt.get 0 p)).setBit Reg.PW_STATE (11 + p) false) (s.unparkPanel p) := by
  refine ⟨s.demoteFaces p, SamePower.demoteFaces (SamePower.refl s) p, ?_⟩
  unfold State.unparkPanel
  exact SamePower.of_regs (SamePower.foldl (fun _ e ht => ht.handOwner e.1 .firmware _) _ (SamePower.refl _)) rfl

theorem unparkPanel_rail (hp : p < 4) : (s.unparkPanel p).rail p = s.power.railAt.get 0 p % 1024 := by
  obtain ⟨y, -, hy⟩ := unparkPanel_same s p
  rw [rail_congr (hy _ (by unfold Reg.PW_PANEL; omega) (by unfold Reg.PW_PANEL; omega)), rail_congr (State.rd_setBit_other _ _ _ (panel_ne_state hp)),
    rail_setRail_self]

/-- PW_STATE of a module in which a panel's parking is reversed. -/
theorem unparkPanel_rd (hp : p < 4) : (s.unparkPanel p).rd Reg.PW_STATE = (s.setBit Reg.PW_STATE (11 + p) false).rd Reg.PW_STATE := by
  obtain ⟨y, hs, hy⟩ := unparkPanel_same s p
  have hset : (y.setRail p (s.power.railAt.get 0 p)).rd Reg.PW_STATE = s.rd Reg.PW_STATE :=
    (State.rd_setFld_other _ _ _ _ (panel_ne_state hp).symm).trans (hs _ (by decide) (by decide))
  rw [hy _ (by decide) (by decide)]
  unfold State.setBit State.setFld
  rw [State.rd_wr_self, State.rd_wr_self, hset]

theorem unparkPanel_fld (hp : p < 4) (lo n : Nat) : (s.unparkPanel p).fld Reg.PW_STATE lo n = (s.setBit Reg.PW_STATE (11 + p) false).fld Reg.PW_STATE lo n := by
  unfold State.fld
  rw [unparkPanel_rd hp]

theorem unpark_shows (hp : p < 4) :
    let t := ((s.unparkPanel p).noteState).leanDone
    t.bit Reg.PW_STATE (11 + p) = false ∧ t.rail p = s.power.railAt.get 0 p % 1024 := by
  refine ⟨?_, ?_⟩
  · rw [State.bit_eq, leanDone_fld_apart (by omega), State.fld_congr noteState_regs, unparkPanel_fld hp, ← State.bit_eq]
    exact State.bit_setBit_self _ _ false (by omega)
  · rw [rail_congr (leanDone_rd_other (panel_ne_state hp)), rail_congr (State.rd_congr noteState_regs _), unparkPanel_rail hp]

end Parking

/-! ### The end of DOZE -/

section Wake

variable {s : State} {l : List Nat} (hl : ∀ p ∈ l, p < 4)
include hl

theorem unparkPanels_fld {lo n : Nat} (h : lo + n ≤ 11 ∨ 15 ≤ lo) :
    (l.foldl (fun s p => s.unparkPanel p) s).fld Reg.PW_STATE lo n = s.fld Reg.PW_STATE lo n := by
  refine foldl_frame_mem (State.fld · Reg.PW_STATE lo n) (fun t p hp => ?_) s
  have hp := hl p hp
  exact (unparkPanel_fld hp lo n).trans (State.fld_setBit_apart t _ false (by omega) (by omega))

theorem unparkPanels_bit {q : Nat} (hq : q < 4) :
    (l.foldl (fun s p => s.unparkPanel p) s).bit Reg.PW_STATE (11 + q) = (s.bit Reg.PW_STATE (11 + q) && !l.contains q) := by
  induction l generalizing s with
  | nil => exact (Bool.and_true _).symm
  | cons p r ih =>
    have hp := hl p List.mem_cons_self
    have hone : (s.unparkPanel p).bit Reg.PW_STATE (11 + q) = (s.bit Reg.PW_STATE (11 + q) && !(q == p)) := by
      rw [State.bit_eq, unparkPanel_fld hp, ← State.bit_eq]
      by_cases h : q = p
      · rw [h, State.bit_setBit_self _ _ _ (by omega)]
        simp
      · rw [State.bit_setBit_apart _ _ _ (by omega) (by omega)]
        simp [h]
    rw [List.foldl_cons, ih (fun p hp => hl p (List.mem_cons_of_mem _ hp)), hone, List.contains_cons, Bool.not_or, Bool.and_assoc]

end Wake

/-- PARKED shows no panel where the bit of none is set. -/
theorem parked_zero {s : State} (h : ∀ p, p < 4 → s.bit Reg.PW_STATE (11 + p) = false) : s.fld Reg.PW_STATE 11 4 = 0 := by
  have h0 := h 0 (by decide)
  have h1 := h 1 (by decide)
  have h2 := h 2 (by decide)
  have h3 := h 3 (by decide)
  simp only [State.bit, bitOf, Nat.shiftRight_eq_div_pow, decide_eq_false_iff_not] at h0 h1 h2 h3
  simp only [State.fld, bitsOf, Nat.shiftRight_eq_div_pow]
  omega

/-- A rail back at its setting. -/
def State.railBack (s : State) (p : Nat) : State :=
  let s := s.setRail p (s.power.railAt.get 0 p)
  { s with power := { s.power with railAt := s.power.railAt.put 0 p 0 } }

/-- DOZE left for a cause, before the panels come back. -/
def State.leftDoze (s : State) (cause : Nat) : State := ((s.setFld Reg.PW_STATE 20 3 cause).setBit Reg.PW_STATE 15 false).setFld Reg.PW_STATE 8 3 0

def State.panelsBack (s : State) : State := ([0, 1, 2, 3].filter (fun p => s.bit Reg.PW_STATE (11 + p))).foldl (fun s p => s.unparkPanel p) s

def State.railsBack (s : State) : State := ([0, 1, 2, 3].filter (fun p => s.rail p = 420 && s.power.railAt.get 0 p ≠ 0)).foldl State.railBack s

theorem exitDoze_eq (s : State) (cause : Nat) : s.exitDoze cause = (((s.leftDoze cause).panelsBack.railsBack).setFld Reg.PW_STATE 0 3 0).noteState := rfl

theorem railBack_regs (s : State) (p : Nat) : (s.railBack p).regs = (s.setRail p (s.power.railAt.get 0 p)).regs := by
  unfold State.railBack
  dsimp only

theorem railsBack_fld (s : State) (lo n : Nat) : s.railsBack.fld Reg.PW_STATE lo n = s.fld Reg.PW_STATE lo n := by
  refine foldl_frame_mem (State.fld · Reg.PW_STATE lo n) (fun t p hp => ?_) s
  have hne := (panel_ne_state (mem_panels.mp (List.mem_filter.mp hp).1)).symm
  exact (State.fld_congr (railBack_regs t p) _ _ _).trans (State.fld_setFld_other t _ _ _ _ _ hne)

section PanelsBack

variable (s : State)

theorem back_lt {p : Nat} (h : p ∈ [0, 1, 2, 3].filter (fun p => s.bit Reg.PW_STATE (11 + p))) : p < 4 := mem_panels.mp (List.mem_filter.mp h).1

theorem panelsBack_fld {lo n : Nat} (h : lo + n ≤ 11 ∨ 15 ≤ lo) : s.panelsBack.fld Reg.PW_STATE lo n = s.fld Reg.PW_STATE lo n :=
  unparkPanels_fld (fun _ => back_lt s) h

theorem panelsBack_parked : s.panelsBack.fld Reg.PW_STATE 11 4 = 0 := by
  refine parked_zero fun p hp => ?_
  refine (unparkPanels_bit (fun _ => back_lt s) hp).trans ?_
  by_cases hb : s.bit Reg.PW_STATE (11 + p) = true
  · rw [List.contains_iff_mem.mpr (List.mem_filter.mpr ⟨mem_panels.mpr hp, hb⟩)]
    exact Bool.and_false _
  · rw [Bool.not_eq_true] at hb
    rw [hb, Bool.false_and]

end PanelsBack

theorem exitDoze_shows {s : State} {c : Nat} (hc : c ≤ 4) :
    (s.exitDoze c).powerState = 0 ∧ (s.exitDoze c).fld Reg.PW_STATE 20 3 = c ∧ (s.exitDoze c).fld Reg.PW_STATE 0 3 = 0 ∧
      (s.exitDoze c).fld Reg.PW_STATE 11 4 = 0 := by
  have hfld : ∀ {lo n}, 3 ≤ lo → (s.exitDoze c).fld Reg.PW_STATE lo n = ((s.leftDoze c).panelsBack).fld Reg.PW_STATE lo n := fun h => by
    rw [exitDoze_eq, State.fld_congr noteState_regs, State.fld_setFld_apart _ _ _ (by decide) (by omega), railsBack_fld]
  refine ⟨?_, ?_, ?_, ?_⟩
  · refine (hfld (by decide)).trans ((panelsBack_fld _ (by decide)).trans (State.fld_setFld_self _ _ 0 (by decide)))
  · rw [hfld (by decide), panelsBack_fld _ (by decide), State.leftDoze, State.fld_setFld_apart _ _ _ (by decide) (by decide),
      State.fld_setBit_apart _ _ _ (by decide) (by decide), State.fld_setFld_self _ _ _ (by decide), Nat.mod_eq_of_lt (by omega)]
  · rw [exitDoze_eq, State.fld_congr noteState_regs, State.fld_setFld_self _ _ _ (by decide), Nat.zero_mod]
  · rw [hfld (by decide), panelsBack_parked]

theorem dozeWake_not {s : State} {c : Nat} (h : s.powerState ≠ 2 ∨ c = 0 ∨ 4 < c) : s.dozeWake c = s := by
  refine if_neg fun hg => ?_
  simp only [Bool.and_eq_true, decide_eq_true_eq] at hg
  omega

theorem dozeWake_wakes {s : State} {c : Nat} (h : s.powerState = 2) (h1 : 1 ≤ c) (h4 : c ≤ 4) : s.dozeWake c = s.exitDoze c := by
  refine if_pos ?_
  rw [decide_eq_true h, decide_eq_true ⟨h1, h4⟩]
  rfl

end Sys2Proof.Machine
end

section
/-! PROOFS. STANDBY: its entry, its end, and what stays. -/

namespace Sys2Proof.Machine

/-! ### What a reset leaves -/

section Reset

variable (s : State) (keep : Nat → Bool) (p : PowerSt)

theorem get_filter_kept {α : Type} {k : Nat} (h : keep k = true) (m : SMap α) (d : α) : SMap.get (m.filter (fun e => keep e.1)) d k = m.get d k := by
  induction m with
  | nil => rfl
  | cons e r ih =>
    by_cases he : e.1 = k
    · rw [List.filter_cons_of_pos (p := fun e : Nat × α => keep e.1) (by rw [he]; exact h)]
      simp only [SMap.get, he, if_true]
    · rw [show SMap.get (e :: r) d k = SMap.get r d k from if_neg he, ← ih]
      by_cases hk : keep e.1 = true
      · rw [List.filter_cons_of_pos (p := fun e : Nat × α => keep e.1) hk]
        exact if_neg he
      · rw [List.filter_cons_of_neg (p := fun e : Nat × α => keep e.1) hk]

theorem afterReset_mem : (s.afterReset keep p).mem = [] := rfl
theorem afterReset_tasks : (s.afterReset keep p).tasks = [] := rfl
theorem afterReset_out : (s.afterReset keep p).out = s.out := rfl
theorem afterReset_otp : (s.afterReset keep p).otp = s.otp := rfl
theorem afterReset_power : (s.afterReset keep p).power = p := rfl
theorem afterReset_emit (o : Out) : (s.emit o).afterReset keep p = (s.afterReset keep p).emit o := rfl

theorem afterReset_rd {a : Nat} (h : keep a = true) : (s.afterReset keep p).rd a = s.rd a := get_filter_kept keep h s.regs _

end Reset

/-! ### A page program that completes as power goes -/

section LastWrite

variable (s : State)

theorem logPageFrom_congr {t : State} (h : t.flash.retired = s.flash.retired) (fuel p : Nat) : t.logPageFrom fuel p = s.logPageFrom fuel p := by
  induction fuel generalizing p with
  | zero => rfl
  | succ n ih =>
    unfold State.logPageFrom
    rw [h, ih]

theorem flashJob_emit (o : Out) (j : FlashJob) : (s.emit o).flashJob j = (s.flashJob j).emit o := by
  cases j with
  | sample entry bytes => rfl
  | events bytes =>
    unfold State.flashJob
    rw [logPageFrom_congr s (t := s.emit o) rfl]
    rfl
  | maps =>
    unfold State.flashJob
    dsimp only
    rw [show (s.emit o).flash = s.flash from State.emit_flash s o]
    by_cases h : s.flash.mapA.seq < s.flash.mapB.seq
    · rw [if_pos h, if_pos h]
      rfl
    · rw [if_neg h, if_neg h]
      rfl

theorem setFld_emit (o : Out) (a lo n v : Nat) : (s.emit o).setFld a lo n v = (s.setFld a lo n v).emit o := rfl

/-- What a page program leaves alone. -/
theorem flashJob_same (j : FlashJob) : (s.flashJob j).regs = s.regs ∧ (s.flashJob j).out = s.out ∧ (s.flashJob j).otp = s.otp ∧
    (s.flashJob j).power = s.power := by
  cases j with
  | sample entry bytes => exact ⟨rfl, rfl, rfl, rfl⟩
  | events bytes => exact ⟨rfl, rfl, rfl, rfl⟩
  | maps =>
    unfold State.flashJob
    dsimp only
    split <;> exact ⟨rfl, rfl, rfl, rfl⟩

theorem lastWrite_emit (o : Out) (cause : Nat) : (s.emit o).lastWrite cause = (s.lastWrite cause).emit o := by
  have hdone : (s.emit o).flashDone = s.flashDone.emit o := by
    unfold State.flashDone
    rw [show (s.emit o).flash = s.flash from State.emit_flash s o]
    split
    · rfl
    · rw [flashJob_emit]
      rfl
  unfold State.lastWrite
  rw [hdone]
  rfl

theorem lastWrite_same (cause : Nat) : (s.lastWrite cause).regs = s.regs ∧ (s.lastWrite cause).out = s.out ∧ (s.lastWrite cause).otp = s.otp ∧
    (s.lastWrite cause).power = s.power := by
  have hdone : s.flashDone.regs = s.regs ∧ s.flashDone.out = s.out ∧ s.flashDone.otp = s.otp ∧ s.flashDone.power = s.power := by
    unfold State.flashDone
    split
    · exact ⟨rfl, rfl, rfl, rfl⟩
    · exact flashJob_same s _
  exact hdone

end LastWrite

/-! ### Entry -/

section Enter

variable (s : State)

/-- What STANDBY entry keeps of the power block. -/
def State.standbyPower (s : State) : PowerSt :=
  { mains := true, strapped := true, rails := false, perst := s.power.perst, standby := 7, wokeEarly := s.power.wokeEarly, perstSeen := s.power.perstSeen }

theorem enterStandby_eq : s.enterStandby =
    (((s.lastWrite 6).afterReset (fun a => alwaysOn a || a = Reg.HF_STRAP) s.standbyPower).keepEpoch s.debugEpoch).setFld Reg.PW_STATE 8 3 3 := by
  obtain ⟨-, -, -, hpower⟩ := lastWrite_same s 6
  have hp : (s.lastWrite 6).standbyPower = s.standbyPower := by
    unfold State.standbyPower
    rw [hpower]
  rw [← hp]
  rfl

theorem enterStandby_emit (o : Out) : (s.emit o).enterStandby = s.enterStandby.emit o := by
  rw [enterStandby_eq, enterStandby_eq, lastWrite_emit, afterReset_emit, State.keepEpoch, setFld_emit, setFld_emit]
  rfl

theorem enterStandby_power : s.enterStandby.power = s.standbyPower := by
  rw [enterStandby_eq, State.setFld_power]
  exact (State.setFld_power ..).trans (afterReset_power ..)

theorem enterStandby_mem : s.enterStandby.mem = [] := by
  rw [enterStandby_eq, State.setFld_mem]
  exact (State.setFld_mem ..).trans (afterReset_mem ..)

theorem enterStandby_tasks : s.enterStandby.tasks = [] := by
  rw [enterStandby_eq, State.setFld_tasks]
  exact (State.setFld_tasks ..).trans (afterReset_tasks ..)

theorem enterStandby_out : s.enterStandby.out = s.out := by
  obtain ⟨-, hout, -, -⟩ := lastWrite_same s 6
  rw [enterStandby_eq, State.setFld_out, ← hout]
  exact (State.setFld_out ..).trans (afterReset_out ..)

theorem enterStandby_otp : s.enterStandby.otp = s.otp := by
  obtain ⟨-, -, hotp, -⟩ := lastWrite_same s 6
  rw [enterStandby_eq, State.setFld_otp, ← hotp]
  exact (State.setFld_otp ..).trans (afterReset_otp ..)

theorem enterStandby_powerState : s.enterStandby.powerState = 3 := by
  rw [enterStandby_eq]
  exact State.fld_setFld_self _ _ 3 (by decide)

/-- The power history is in the always-on domain. -/
theorem enterStandby_history {k : Nat} (hk : k < 8) : s.enterStandby.rd (Reg.SC_PWR_HIST k) = s.rd (Reg.SC_PWR_HIST k) := by
  obtain ⟨hregs, -, -, -⟩ := lastWrite_same s 6
  have hon : (alwaysOn (Reg.SC_PWR_HIST k) || decide (Reg.SC_PWR_HIST k = Reg.HF_STRAP)) = true := by
    refine (Bool.or_eq_true ..).mpr (.inl ((Bool.or_eq_true ..).mpr (.inl ((Bool.and_eq_true ..).mpr ⟨decide_eq_true ?_, decide_eq_true ?_⟩)))) <;>
    · unfold Reg.SC_PWR_HIST
      omega
  rw [enterStandby_eq, State.rd_setFld_other _ _ _ _ (powerHist_ne_state k hk).symm, State.keepEpoch,
    State.rd_setFld_other _ _ _ _ (by simp only [Reg.SC_PWR_HIST, Reg.SC_DEBUG]; omega)]
  exact (afterReset_rd _ _ _ hon).trans (State.rd_congr hregs _)

end Enter

/-! ### Exit -/

section Exit

/-- Whether a wake is there: a wake frame on the way in, or PERST_N released after it was asserted. -/
def State.wakeSeen (s : State) : Bool := s.power.wokeEarly || (s.power.perstSeen && !s.power.perst)

variable {s : State}

theorem standbyExit_not (h : s.power.standby ≠ 7 ∨ s.wakeSeen = false) : s.standbyExit = s := by
  refine if_pos ?_
  rw [Bool.or_eq_true, decide_eq_true_eq, Bool.not_eq_true']
  exact h

theorem standbyExit_wakes (h7 : s.power.standby = 7) (hw : s.wakeSeen = true) :
    s.standbyExit = (s.atS0.count (Reg.SC_PWR_HIST 0) 0 32 1).setFld Reg.PW_STATE 20 3 (if s.power.wokeEarly then 5 else 6) := by
  refine if_neg fun h => ?_
  rw [Bool.or_eq_true, decide_eq_true_eq, Bool.not_eq_true'] at h
  exact h.elim (fun h => h h7) fun h => ne_true_of_eq_false h hw

theorem atS0_shows (s : State) :
    s.atS0.power.standby = 0 ∧ s.atS0.power.s1 = false ∧ s.atS0.power.strapped = false ∧ s.atS0.mem = [] ∧ s.atS0.otp = s.otp := by
  unfold State.atS0 State.keepEpoch
  rw [State.setFld_power, State.setFld_mem, State.setFld_otp, afterReset_power]
  exact ⟨rfl, rfl, rfl, afterReset_mem .., afterReset_otp ..⟩

theorem standbyExit_shows (h7 : s.power.standby = 7) (hw : s.wakeSeen = true) :
    s.standbyExit.fld Reg.PW_STATE 20 3 = (if s.power.wokeEarly then 5 else 6) ∧ s.standbyExit.power.standby = 0 ∧ s.standbyExit.power.s1 = false ∧
      s.standbyExit.power.strapped = false ∧ s.standbyExit.mem = [] ∧ s.standbyExit.otp = s.otp := by
  rw [standbyExit_wakes h7 hw]
  refine ⟨(State.fld_setFld_self _ _ _ (by decide)).trans ?_, ?_⟩
  · split <;> rfl
  · rw [State.setFld_power, State.count_power, State.setFld_mem, State.count_mem, State.setFld_otp, State.count_otp]
    exact atS0_shows s

theorem pmeOff_not (h : s.power.standby ≠ 5) : s.pmeOff = s := if_neg h
theorem pmeTimeout_not (h : s.power.standby ≠ 5) : s.pmeTimeout = s := if_neg h

theorem enterStandby_stays (hw : s.wakeSeen = false) : s.enterStandby.standbyExit = s.enterStandby := by
  refine standbyExit_not (.inr ?_)
  unfold State.wakeSeen
  rw [enterStandby_power]
  exact hw

theorem pmeTimeout_enters (h5 : s.power.standby = 5) (hw : s.wakeSeen = false) : s.pmeTimeout = s.enterStandby :=
  (if_pos h5).trans (enterStandby_stays hw)

theorem pmeOff_enters (h5 : s.power.standby = 5) (hw : s.wakeSeen = false) : s.pmeOff = { s.enterStandby with out := s.out ++ [.pmeAck] } := by
  have hstay : (s.emit .pmeAck).enterStandby.standbyExit = (s.emit .pmeAck).enterStandby := enterStandby_stays hw
  refine (if_pos h5).trans ?_
  rw [hstay, enterStandby_emit, ← enterStandby_out s]
  rfl

end Exit

end Sys2Proof.Machine
end

section
/-! PROOFS. The input, temperature and fans, throttling, and the hardware clamp. -/

namespace Sys2Proof.Machine

/-! ### Rails that fall together -/

section Panels

variable {s t : State}

theorem panel_apart {p a : Nat} (hp : p < 4) (h : a < 0xA0010 ∨ 0xA0040 < a) : Reg.PW_PANEL p ≠ a := by
  unfold Reg.PW_PANEL
  omega

/-- A panel's rail is regulated by what its register and PW_STATE show. -/
theorem regulated_congr {p : Nat} (hp : t.rd (Reg.PW_PANEL p) = s.rd (Reg.PW_PANEL p)) (hs : t.rd Reg.PW_STATE = s.rd Reg.PW_STATE) :
    t.regulated p = s.regulated p := by
  unfold State.regulated State.panelDown State.rail State.fld State.bit
  rw [hp, hs]

theorem filter_regulated_congr (h : ∀ p, p < 4 → t.regulated p = s.regulated p) :
    [0, 1, 2, 3].filter t.regulated = [0, 1, 2, 3].filter s.regulated :=
  List.filter_congr fun p hp => h p (mem_panels.mp hp)

variable {f : State → Nat → State} {c : Nat → Bool}

theorem panels_rd_other {a : Nat} (hf : ∀ t p, p < 4 → (f t p).rd a = t.rd a) : (([0, 1, 2, 3].filter c).foldl f s).rd a = s.rd a :=
  foldl_frame_mem (State.rd · a) (fun t p hp => hf t p (mem_panels.mp (List.mem_filter.mp hp).1)) s

end Panels

/-- A rail 20 mV lower, no lower than 500. -/
def lowered (mv : Nat) : Nat := max 500 (mv - 20)

/-- A panel's rail lowered, where it stands above 500 mV if `above` says so. -/
def State.lowerRail (above : Bool) (s : State) (p : Nat) : State :=
  if above = false ∨ 500 < s.rail p then s.setRail p (lowered (s.rail p)) else s

/-- Every regulated rail lowered. -/
def State.lowerRails (above : Bool) (s : State) : State := ([0, 1, 2, 3].filter s.regulated).foldl (State.lowerRail above) s

section Lower

variable (above : Bool) (s : State)

theorem lowerRail_other {p a : Nat} (h : Reg.PW_PANEL p ≠ a) : (s.lowerRail above p).rd a = s.rd a := by
  unfold State.lowerRail
  split
  · exact State.rd_setFld_other s 16 10 _ h.symm
  · rfl

theorem lowerRail_self {p : Nat} : (s.lowerRail above p).rail p = if above = false ∨ 500 < s.rail p then lowered (s.rail p) else s.rail p := by
  have hlt : s.rail p < 1024 := rail_lt
  unfold State.lowerRail
  split
  · rw [rail_setRail_self]
    unfold lowered
    omega
  · rfl

theorem lowerRails_rail {p : Nat} (hp : p < 4) : (s.lowerRails above).rail p =
    if s.regulated p then (if above = false ∨ 500 < s.rail p then lowered (s.rail p) else s.rail p) else s.rail p := by
  refine rail_foldl_panels (c := s.regulated) (f := State.lowerRail above) (s := s) (I := fun _ => True)
    (V := fun p => if above = false ∨ 500 < s.rail p then lowered (s.rail p) else s.rail p) (fun _ _ _ _ => trivial)
    (fun t q p _ h => rail_congr (lowerRail_other above t (panel_ne h).symm)) (fun t p _ _ _ hr => ?_) trivial hp
  rw [lowerRail_self, hr]

theorem lowerRails_rd_other {a : Nat} (h : a < 0xA0010 ∨ 0xA0040 < a) : (s.lowerRails above).rd a = s.rd a :=
  panels_rd_other fun t _ hp => lowerRail_other above t (panel_apart hp h)

theorem lowerRails_fld_other {a : Nat} (h : a < 0xA0010 ∨ 0xA0040 < a) (lo n : Nat) : (s.lowerRails above).fld a lo n = s.fld a lo n := by
  unfold State.fld
  rw [lowerRails_rd_other above s h]

theorem lowerRails_bit_other {a : Nat} (h : a < 0xA0010 ∨ 0xA0040 < a) (i : Nat) : (s.lowerRails above).bit a i = s.bit a i := by
  unfold State.bit
  rw [lowerRails_rd_other above s h]

/-- Rails that fall change registers alone. -/
theorem lowerRails_frame {γ : Type} (g : State → γ) (hg : ∀ t a v, g (State.wr t a v) = g t) : g (s.lowerRails above) = g s := by
  refine foldl_frame g (fun t p => ?_) _ s
  unfold State.lowerRail
  split
  · exact hg t _ _
  · rfl

end Lower

/-! ### The hardware clamp -/

theorem noteEmergency_quiet {s : State} (h : s.fw.shift ≠ 2) : s.noteEmergency = s := if_neg h

section Clamp

variable {s : State}

/-- The registers that a clamp sets. -/
def State.clamped (s : State) : State :=
  (((s.lowerRails false).setBit Reg.PW_STATUS 4 true).setBit Reg.PW_ALERT 2 true).count (Reg.SC_PWR_HIST 3) 0 32 1

theorem clamp_off (h : s.power.s1 = false) : s.clamp = s := if_pos (by rw [h]; rfl)

theorem clamped_frame {γ : Type} (g : State → γ) (hg : ∀ t a v, g (State.wr t a v) = g t) : g s.clamped = g s :=
  (hg _ _ _).trans ((hg _ _ _).trans ((hg _ _ _).trans (lowerRails_frame false s g hg)))

theorem clamp_on (h : s.power.s1 = true) (hs : s.fw.shift ≠ 2) :
    s.clamp = { s.clamped with power := { s.clamped.power with clampAt := some s.clamped.usecN.toNat } } := by
  have hfold : ([0, 1, 2, 3].filter s.regulated).foldl (fun s p => s.setRail p (max 500 (s.rail p - 20))) s = s.lowerRails false :=
    congrArg (fun f => List.foldl f s _) (funext fun t => funext fun p => (if_pos (.inl rfl)).symm)
  have hgo : ¬(!s.power.s1) = true := by
    rw [h]
    decide
  have hshift : s.clamped.fw.shift ≠ 2 := by
    rw [clamped_frame (·.fw) fun t a v => State.wr_fw t a v]
    exact hs
  refine (if_neg hgo).trans ?_
  rw [hfold]
  exact noteEmergency_quiet (s := { s.clamped with power := { s.clamped.power with clampAt := some s.clamped.usecN.toNat } }) hshift

theorem clamp_shows (h : s.power.s1 = true) (hs : s.fw.shift ≠ 2) :
    s.clamp.bit Reg.PW_STATUS 4 = true ∧ s.clamp.bit Reg.PW_ALERT 2 = true ∧ s.clamp.power.clampAt = some s.usecN.toNat ∧ s.clamp.mem = s.mem ∧
      ∀ p, p < 4 → s.clamp.rail p = if s.regulated p then max 500 (s.rail p - 20) else s.rail p := by
  have hregs : s.clamp.regs = s.clamped.regs := by rw [clamp_on h hs]
  have hmem : s.clamp.mem = s.clamped.mem := by rw [clamp_on h hs]
  refine ⟨?_, ?_, ?_, ?_, fun p hp => ?_⟩
  · rw [State.bit_congr hregs, State.clamped, State.count, State.bit_setFld_other _ _ _ _ _ (by decide), State.bit_setBit_other _ _ _ _ (by decide)]
    exact State.bit_setBit_self _ _ true (by decide)
  · rw [State.bit_congr hregs, State.clamped, State.count, State.bit_setFld_other _ _ _ _ _ (by decide)]
    exact State.bit_setBit_self _ _ true (by decide)
  · rw [clamp_on h hs]
    exact congrArg (fun u => some (BitVec.toNat u)) (clamped_frame (·.usecN) fun t a v => State.wr_usecN t a v)
  · exact hmem.trans (clamped_frame (·.mem) fun t a v => State.wr_mem t a v)
  · rw [rail_congr (State.rd_congr hregs _), State.clamped, State.count, rail_congr (State.rd_setFld_other _ _ _ _ (panel_apart hp (by decide))),
      rail_congr (State.rd_setBit_other _ _ _ (panel_apart hp (by decide))), rail_congr (State.rd_setBit_other _ _ _ (panel_apart hp (by decide))),
      lowerRails_rail false s hp, if_pos (show false = false ∨ 500 < s.rail p from .inl rfl)]
    rfl

end Clamp

/-! ### The input -/

section Input

variable {s : State} (mv : Nat)

theorem vinRange_off (h : s.power.s1 = false) : s.vinRange mv = s := if_pos (by rw [h]; rfl)

/-- PW_INPUT shows the input. -/
def State.shownInput (s : State) (mv : Nat) : State := s.setFld Reg.PW_INPUT 0 16 (min mv 65535)

theorem shownInput_fld : (s.shownInput mv).fld Reg.PW_INPUT 0 16 = min mv 65535 :=
  (State.fld_setFld_self s _ _ (by decide)).trans (Nat.mod_eq_of_lt (by omega))

theorem shownInput_mem : (s.shownInput mv).mem = s.mem := State.setFld_mem ..

variable (h : s.power.s1 = true)
include h

theorem s1_passes : ¬(!s.power.s1) = true := by
  rw [h]
  decide

variable {mv}

theorem vinRange_outside (hs : s.fw.shift ≠ 2) (hm : mv < 38000 ∨ 45000 < mv) :
    s.vinRange mv = { ((s.shownInput mv).setBit Reg.PW_ALERT 1 true) with power := { s.power with vinBad := true } } := by
  refine (if_neg (s1_passes h)).trans ((if_pos ?_).trans (noteEmergency_quiet hs))
  exact (Bool.or_eq_true ..).mpr (hm.imp decide_eq_true decide_eq_true)

theorem vinRange_inside (h1 : 38000 ≤ mv) (h2 : mv ≤ 45000) : s.vinRange mv =
    if s.power.vinBad then { s.shownInput mv with power := { s.power with vinBad := false }, fw := { s.fw with emergencyAt := some s.usecN.toNat } }
    else s.shownInput mv := by
  refine (if_neg (s1_passes h)).trans ((if_neg ?_).trans rfl)
  rw [decide_eq_false (by omega), decide_eq_false (by omega)]
  decide

theorem vinRange_shows (hs : s.fw.shift ≠ 2) (mv : Nat) :
    (s.vinRange mv).fld Reg.PW_INPUT 0 16 = min mv 65535 ∧ (s.vinRange mv).power.vinBad = decide (mv < 38000 ∨ 45000 < mv) ∧
      (s.vinRange mv).mem = s.mem ∧ (mv < 38000 ∨ 45000 < mv → (s.vinRange mv).bit Reg.PW_ALERT 1 = true) ∧
      (38000 ≤ mv → mv ≤ 45000 → s.power.vinBad = true → (s.vinRange mv).fw.emergencyAt = some s.usecN.toNat) := by
  by_cases hm : mv < 38000 ∨ 45000 < mv
  · have hregs : (s.vinRange mv).regs = ((s.shownInput mv).setBit Reg.PW_ALERT 1 true).regs := by rw [vinRange_outside h hs hm]
    have hmem : (s.vinRange mv).mem = ((s.shownInput mv).setBit Reg.PW_ALERT 1 true).mem := by rw [vinRange_outside h hs hm]
    rw [hmem, State.fld_congr hregs, State.bit_congr hregs, State.fld_setBit_other _ _ _ _ _ (by decide), shownInput_fld, vinRange_outside h hs hm,
      decide_eq_true hm]
    exact ⟨rfl, rfl, State.setBit_mem .., fun _ => State.bit_setBit_self _ _ true (by decide), fun h1 h2 => by omega⟩
  · rw [vinRange_inside h (by omega) (by omega), decide_eq_false hm]
    by_cases hb : s.power.vinBad = true
    · rw [if_pos hb]
      exact ⟨shownInput_fld mv, rfl, shownInput_mem mv, fun hm' => absurd hm' hm, fun _ _ _ => rfl⟩
    · rw [if_neg hb]
      exact ⟨shownInput_fld mv, Bool.eq_false_iff.mpr hb, shownInput_mem mv, fun hm' => absurd hm' hm, fun _ _ hb' => absurd hb' hb⟩

end Input

/-! ### Temperature and fans -/

section Heat

theorem tempByte_lt (t : Int) : tempByte t < 256 := by
  unfold tempByte codeOf
  omega

/-- The fan duty that a temperature asks for. -/
def State.fanNow (s : State) (t : Int) : Nat :=
  if s.bit Reg.PW_THERM 16 then 100 else if s.bit Reg.PW_FAN 14 then s.fld Reg.PW_FAN 7 7 else fanDuty t (s.fld Reg.PW_THERM 8 8)

variable (s : State) (t : Int)

theorem setTj_eq : s.setTj t = (s.setFld Reg.PW_THERM 0 8 (tempByte t)).setFld Reg.PW_FAN 0 7 ((s.setFld Reg.PW_THERM 0 8 (tempByte t)).fanNow t) := rfl

theorem fanNow_setTemp : (s.setFld Reg.PW_THERM 0 8 (tempByte t)).fanNow t = s.fanNow t := by
  unfold State.fanNow
  rw [State.bit_setFld_apart s _ _ (by decide) (by decide), State.bit_setFld_other s _ _ _ _ (by decide), State.fld_setFld_other s _ _ _ _ _ (by decide),
    State.fld_setFld_apart s _ _ (by decide) (by decide)]

theorem setTj_frame {γ : Type} (g : State → γ) (hg : ∀ t a v, g (State.wr t a v) = g t) : g (s.setTj t) = g s := (hg _ _ _).trans (hg _ _ _)

theorem setTj_temp : (s.setTj t).fld Reg.PW_THERM 0 8 = tempByte t := by
  rw [setTj_eq, State.fld_setFld_other _ _ _ _ _ _ (by decide), State.fld_setFld_self _ _ _ (by decide)]
  exact Nat.mod_eq_of_lt (tempByte_lt t)

theorem setTj_therm_apart {lo n : Nat} (h : 8 ≤ lo) : (s.setTj t).fld Reg.PW_THERM lo n = s.fld Reg.PW_THERM lo n := by
  rw [setTj_eq, State.fld_setFld_other _ _ _ _ _ _ (by decide), State.fld_setFld_apart _ _ _ (by decide) (by omega)]

theorem setTj_throttle : (s.setTj t).bit Reg.PW_THERM 16 = s.bit Reg.PW_THERM 16 := by
  rw [State.bit_eq, State.bit_eq, setTj_therm_apart s t (by decide)]

theorem setTj_fan : (s.setTj t).fld Reg.PW_FAN 0 7 = s.fanNow t % 128 := by
  rw [setTj_eq, State.fld_setFld_self _ _ _ (by decide), fanNow_setTemp, show (2 : Nat) ^ 7 = 128 from rfl]

theorem setTj_rd_other {a : Nat} (h1 : a ≠ Reg.PW_THERM) (h2 : a ≠ Reg.PW_FAN) : (s.setTj t).rd a = s.rd a :=
  (State.rd_setFld_other _ _ _ _ h2).trans (State.rd_setFld_other _ _ _ _ h1)

theorem setTj_bit_other {a : Nat} (h1 : a ≠ Reg.PW_THERM) (h2 : a ≠ Reg.PW_FAN) (i : Nat) : (s.setTj t).bit a i = s.bit a i := by
  unfold State.bit
  rw [setTj_rd_other s t h1 h2]

variable {s}

theorem tempWarn_off (h : s.power.s1 = false) : s.tempWarn t = s := if_pos (by rw [h]; rfl)

theorem tempWarn_on (h : s.power.s1 = true) :
    s.tempWarn t = if (s.fld Reg.PW_THERM 8 8 : Int) ≤ t then (s.setTj t).setBit Reg.PW_ALERT 0 true else s.setTj t := by
  rw [← setTj_therm_apart s t (lo := 8) (by decide)]
  exact if_neg (s1_passes h)

theorem tempWarn_shows (h : s.power.s1 = true) :
    (s.tempWarn t).fld Reg.PW_THERM 0 8 = tempByte t ∧ (s.tempWarn t).mem = s.mem ∧
      (s.tempWarn t).bit Reg.PW_ALERT 0 = (s.bit Reg.PW_ALERT 0 || decide ((s.fld Reg.PW_THERM 8 8 : Int) ≤ t)) ∧
      (s.bit Reg.PW_THERM 16 = false → s.bit Reg.PW_FAN 14 = false →
        (s.tempWarn t).fld Reg.PW_FAN 0 7 = fanDuty t (s.fld Reg.PW_THERM 8 8) % 128) := by
  have hfan : s.bit Reg.PW_THERM 16 = false → s.bit Reg.PW_FAN 14 = false → (s.setTj t).fld Reg.PW_FAN 0 7 = fanDuty t (s.fld Reg.PW_THERM 8 8) % 128 := by
    intro h1 h2
    rw [setTj_fan, State.fanNow, if_neg (ne_true_of_eq_false h1), if_neg (ne_true_of_eq_false h2)]
  have hmem : (s.setTj t).mem = s.mem := setTj_frame s t (·.mem) fun t a v => State.wr_mem t a v
  rw [tempWarn_on t h]
  by_cases hw : (s.fld Reg.PW_THERM 8 8 : Int) ≤ t
  · rw [if_pos hw, decide_eq_true hw, Bool.or_true, State.fld_setBit_other _ _ _ _ _ (by decide), State.fld_setBit_other _ _ _ _ _ (by decide)]
    exact ⟨setTj_temp s t, (State.setBit_mem ..).trans hmem, State.bit_setBit_self _ _ true (by decide), hfan⟩
  · rw [if_neg hw, decide_eq_false hw, Bool.or_false]
    exact ⟨setTj_temp s t, hmem, setTj_bit_other s t (by decide) (by decide) 0, hfan⟩

/-! Throttling. -/

/-- Throttling begins. -/
def State.beginThrottle (s : State) (t : Int) : State :=
  (((s.setBit Reg.PW_THERM 16 true).setBit Reg.PW_ALERT 3 true).count (Reg.SC_PWR_HIST 5) 0 32 1).raise .THERM_THROTTLE .info srcPower [tempByte t]

theorem beginThrottle_regs :
    (s.beginThrottle t).regs = (((s.setBit Reg.PW_THERM 16 true).setBit Reg.PW_ALERT 3 true).count (Reg.SC_PWR_HIST 5) 0 32 1).regs :=
  raise_regs _ _ (by decide) _ _

theorem beginThrottle_rd_panel {p : Nat} (hp : p < 4) : (s.beginThrottle t).rd (Reg.PW_PANEL p) = s.rd (Reg.PW_PANEL p) := by
  rw [State.rd_congr (beginThrottle_regs t), State.count, State.rd_setFld_other _ _ _ _ (panel_apart hp (by decide)),
    State.rd_setBit_other _ _ _ (panel_apart hp (by decide)), State.rd_setBit_other _ _ _ (panel_apart hp (by decide))]

theorem beginThrottle_rd_state : (s.beginThrottle t).rd Reg.PW_STATE = s.rd Reg.PW_STATE := by
  rw [State.rd_congr (beginThrottle_regs t), State.count, State.rd_setFld_other _ _ _ _ (by decide), State.rd_setBit_other _ _ _ (by decide),
    State.rd_setBit_other _ _ _ (by decide)]

theorem beginThrottle_shows : (s.beginThrottle t).bit Reg.PW_THERM 16 = true ∧ (s.beginThrottle t).bit Reg.PW_ALERT 3 = true := by
  rw [State.bit_congr (beginThrottle_regs t), State.bit_congr (beginThrottle_regs t), State.count, State.bit_setFld_other _ _ _ _ _ (by decide),
    State.bit_setFld_other _ _ _ _ _ (by decide), State.bit_setBit_other _ _ _ _ (by decide)]
  exact ⟨State.bit_setBit_self _ _ true (by decide), State.bit_setBit_self _ _ true (by decide)⟩

theorem beginThrottle_mem : (s.beginThrottle t).mem = s.mem := by
  unfold State.beginThrottle
  rw [State.raise_mem, State.count_mem, State.setBit_mem, State.setBit_mem]

theorem beginThrottle_evq : ∃ e, (s.beginThrottle t).evq = s.evq ++ [e] ∧ e.code = .THERM_THROTTLE := by
  rw [State.beginThrottle, raise_evq, State.count_evq, State.setBit_evq, State.setBit_evq]
  exact ⟨_, rfl, rfl⟩

theorem beginThrottle_fw : (s.beginThrottle t).fw = s.fw := by
  unfold State.beginThrottle
  rw [State.raise_fw, State.count_fw, State.setBit_fw, State.setBit_fw]

/-- The module that throttles. -/
def State.throttling (s : State) (t : Int) : State := if s.bit Reg.PW_THERM 16 then s else s.beginThrottle t

theorem throttle_not (h : s.power.s1 = false ∨ t < 100 ∧ s.bit Reg.PW_THERM 16 = false) : s.throttle t = s := by
  refine if_pos ?_
  simp only [Bool.or_eq_true, Bool.and_eq_true, Bool.not_eq_true', decide_eq_true_eq]
  exact h

theorem throttle_on (h : s.power.s1 = true) (hs : s.fw.shift ≠ 2) (ht : 100 ≤ t ∨ s.bit Reg.PW_THERM 16 = true) :
    s.throttle t = ((s.throttling t).setTj t).lowerRails true := by
  have hgo : ¬(!s.power.s1 || decide (t < 100) && !s.bit Reg.PW_THERM 16) = true := by
    simp only [h, Bool.not_true, Bool.false_or, Bool.and_eq_true, Bool.not_eq_true', decide_eq_true_eq, not_and, Bool.not_eq_false]
    exact fun hlt => ht.resolve_left (not_le.mpr hlt)
  have hbegin : (s.beginThrottle t).noteEmergency = s.beginThrottle t := noteEmergency_quiet (by rw [beginThrottle_fw]; exact hs)
  have hstep : (fun (s : State) p => if 500 < s.rail p then s.setRail p (max 500 (s.rail p - 20)) else s) = State.lowerRail true := by
    funext u p
    unfold State.lowerRail
    simp only [Bool.true_eq_false, false_or]
    rfl
  unfold State.throttle State.lowerRails State.throttling
  rw [if_neg hgo, ← hstep, ← hbegin]
  rfl

theorem throttling_shows : (s.throttling t).bit Reg.PW_THERM 16 = true ∧ (s.throttling t).mem = s.mem ∧
    (∀ p, p < 4 → (s.throttling t).rd (Reg.PW_PANEL p) = s.rd (Reg.PW_PANEL p)) ∧ (s.throttling t).rd Reg.PW_STATE = s.rd Reg.PW_STATE ∧
    (s.bit Reg.PW_THERM 16 = false → s.throttling t = s.beginThrottle t) := by
  unfold State.throttling
  split
  · rename_i hb
    exact ⟨hb, rfl, fun _ _ => rfl, rfl, fun hf => absurd hb (ne_true_of_eq_false hf)⟩
  · exact ⟨(beginThrottle_shows t).1, beginThrottle_mem t, fun p hp => beginThrottle_rd_panel t hp, beginThrottle_rd_state t, fun _ => rfl⟩

theorem throttle_shows (h : s.power.s1 = true) (hs : s.fw.shift ≠ 2) (ht : 100 ≤ t ∨ s.bit Reg.PW_THERM 16 = true) :
    let u := s.throttle t
    u.bit Reg.PW_THERM 16 = true ∧ u.fld Reg.PW_THERM 0 8 = tempByte t ∧ u.fld Reg.PW_FAN 0 7 = 100 ∧ u.mem = s.mem ∧
      (s.bit Reg.PW_THERM 16 = false → u.bit Reg.PW_ALERT 3 = true ∧ ∃ e, u.evq = s.evq ++ [e] ∧ e.code = .THERM_THROTTLE) ∧
      ∀ p, p < 4 → u.rail p = if s.regulated p && decide (500 < s.rail p) then max 500 (s.rail p - 20) else s.rail p := by
  intro u
  obtain ⟨hbit, hmem, hpanel, hstate, hbegin⟩ := throttling_shows (s := s) t
  rw [show u = ((s.throttling t).setTj t).lowerRails true from throttle_on t h hs ht]
  refine ⟨?_, ?_, ?_, ?_, fun hb => ⟨?_, ?_⟩, fun p hp => ?_⟩
  · rw [lowerRails_bit_other _ _ (by decide), setTj_throttle, hbit]
  · rw [lowerRails_fld_other _ _ (by decide), setTj_temp]
  · rw [lowerRails_fld_other _ _ (by decide), setTj_fan, State.fanNow, if_pos hbit]
  · rw [lowerRails_frame true _ (·.mem) fun t a v => State.wr_mem t a v]
    exact (setTj_frame _ t (·.mem) fun t a v => State.wr_mem t a v).trans hmem
  · rw [lowerRails_bit_other _ _ (by decide), setTj_bit_other _ _ (by decide) (by decide), hbegin hb]
    exact (beginThrottle_shows t).2
  · rw [lowerRails_frame true _ (·.evq) fun t a v => State.wr_evq t a v, setTj_frame _ t (·.evq) fun t a v => State.wr_evq t a v, hbegin hb]
    exact beginThrottle_evq t
  · have hp' : ((s.throttling t).setTj t).rd (Reg.PW_PANEL p) = s.rd (Reg.PW_PANEL p) :=
      (setTj_rd_other _ t (panel_apart hp (by decide)) (panel_apart hp (by decide))).trans (hpanel p hp)
    have hs' : ((s.throttling t).setTj t).rd Reg.PW_STATE = s.rd Reg.PW_STATE := (setTj_rd_other _ t (by decide) (by decide)).trans hstate
    rw [lowerRails_rail true _ hp, rail_congr hp', regulated_congr hp' hs']
    by_cases hr : s.regulated p = true <;> simp [hr, lowered]

theorem endEmergency_mem (s : State) : s.endEmergency.mem = s.mem := rfl
theorem endEmergency_emergencyAt (s : State) : s.endEmergency.fw.emergencyAt = some s.usecN.toNat := rfl

theorem throttleEnd_not (h : s.bit Reg.PW_THERM 16 = false ∨ 97 ≤ t) : s.throttleEnd t = s := by
  refine if_pos ?_
  rw [Bool.or_eq_true, Bool.not_eq_true', decide_eq_true_eq]
  exact h

theorem throttleEnd_shows (hb : s.bit Reg.PW_THERM 16 = true) (ht : t < 97) :
    (s.throttleEnd t).bit Reg.PW_THERM 16 = false ∧ (s.throttleEnd t).fld Reg.PW_THERM 0 8 = tempByte t ∧
      (s.throttleEnd t).fw.emergencyAt = some s.usecN.toNat ∧ (s.throttleEnd t).mem = s.mem := by
  have hgo : ¬(!s.bit Reg.PW_THERM 16 || decide (97 ≤ t)) = true := by
    rw [hb, decide_eq_false (not_le.mpr ht)]
    decide
  have hend : s.throttleEnd t = ((s.setBit Reg.PW_THERM 16 false).setTj t).endEmergency := if_neg hgo
  have hregs : (s.throttleEnd t).regs = ((s.setBit Reg.PW_THERM 16 false).setTj t).regs := by
    rw [hend]
    rfl
  refine ⟨?_, ?_, ?_, ?_⟩
  · rw [State.bit_congr hregs, setTj_throttle]
    exact State.bit_setBit_self s _ false (by decide)
  · rw [State.fld_congr hregs, setTj_temp]
  · rw [hend, endEmergency_emergencyAt, setTj_frame _ t (·.usecN) fun t a v => State.wr_usecN t a v, State.setBit_usecN]
  · rw [hend, endEmergency_mem, setTj_frame _ t (·.mem) fun t a v => State.wr_mem t a v, State.setBit_mem]

end Heat

end Sys2Proof.Machine
end

section
/-! PROOFS. The voltage controller, the canaries and the telemetry. -/

namespace Sys2Proof.Machine

/-! ### The range of a rail -/

section Range

variable {s t : State} {p : Nat}

/-- The range in which the controller may put a rail is that of the registers it reads. -/
theorem railRange_congr (hrail : t.rail p = s.rail p) (hrate : t.panelRate p = s.panelRate p) (hcap : t.fld Reg.PW_POWER 16 16 = s.fld Reg.PW_POWER 16 16)
    (hthrottle : t.rd Reg.PW_THERM = s.rd Reg.PW_THERM) (htarget : t.rd Reg.PW_TARGET = s.rd Reg.PW_TARGET) (hstrap : t.rd Reg.HF_STRAP = s.rd Reg.HF_STRAP)
    (avg : Nat) : t.railRange p avg = s.railRange p avg := by
  have htherm : t.bit Reg.PW_THERM 16 = s.bit Reg.PW_THERM 16 := by
    unfold State.bit
    rw [hthrottle]
  have hwant : t.fld Reg.PW_TARGET 0 16 = s.fld Reg.PW_TARGET 0 16 := by
    unfold State.fld
    rw [htarget]
  have hprofile : t.profileL = s.profileL := by
    unfold State.profileL State.bit
    rw [hstrap]
  unfold State.railRange State.railMax State.rateFloor
  rw [hrail, hrate, hcap, htherm, hwant, hprofile]

theorem railMax_le : s.railMax ≤ 850 := by
  unfold State.railMax
  split <;> decide

/-- How far a rail may rise in a run. -/
theorem railRange_cases (avg : Nat) : ∃ up, s.rail p ≤ up ∧ (up = s.rail p ∨ up = max (s.rail p) (min s.railMax (s.rail p + 10))) ∧
    (s.railRange p avg = (max 500 (s.rail p - 10), max 500 (s.rail p - 5)) ∨ s.railRange p avg = (min up (s.rail p + 5), up) ∨
      s.railRange p avg = (s.rail p, up) ∨ s.railRange p avg = (max 500 (s.rail p - 10), s.rail p) ∨ s.railRange p avg = (s.rail p, s.rail p)) := by
  refine ⟨if s.bit Reg.PW_THERM 16 then s.rail p else max (s.rail p) (min s.railMax (s.rail p + 10)), ?_, ?_, ?_⟩
  · split
    · exact Nat.le_refl _
    · exact Nat.le_max_left ..
  · split
    · exact .inl rfl
    · exact .inr rfl
  · unfold State.railRange
    extract_lets r cap up rate
    split
    · exact .inl rfl
    · split
      · exact .inr (.inl rfl)
      · split
        · exact .inr (.inr (.inl rfl))
        · split
          · exact .inr (.inr (.inr (.inl rfl)))
          · exact .inr (.inr (.inr (.inr rfl)))

theorem railRange_lt (avg : Nat) : (s.railRange p avg).1 < 1024 ∧ (s.railRange p avg).2 < 1024 := by
  have hmax := railMax_le (s := s)
  have hrail := rail_lt (s := s) (p := p)
  obtain ⟨up, -, hup, h | h | h | h | h⟩ := railRange_cases (s := s) (p := p) avg <;> rw [h] <;> dsimp only <;> omega

/-- From within the range of R14 a rail stays in it, and moves by at most 10 mV (R16). -/
theorem railRange_within (avg x : Nat) (h500 : 500 ≤ s.rail p) (hmax : s.rail p ≤ s.railMax) :
    let w := s.railRange p avg
    let v := max w.1 (min w.2 x)
    500 ≤ v ∧ v ≤ s.railMax ∧ v ≤ s.rail p + 10 ∧ s.rail p ≤ v + 10 := by
  obtain ⟨up, hle, hup, h | h | h | h | h⟩ := railRange_cases (s := s) (p := p) avg <;> rw [h] <;> dsimp only <;> omega

end Range

/-! ### The controller -/

section Controller

variable (s : State)

theorem floorMissed_rd {a : Nat} (h1 : a ≠ Reg.PW_STATUS) (h2 : a ≠ Reg.SC_PWR_HIST 4) (p avg : Nat) : (s.floorMissed p avg).rd a = s.rd a := by
  unfold State.floorMissed
  extract_lets stuck x y
  split
  · rfl
  · refine (State.rd_setFld_other y 0 32 _ h2).trans ((State.rd_congr (raise_regs _ _ (by decide) _ _) a).trans ?_)
    exact State.rd_setBit_other x p true h1

theorem floorMissed_mem (p avg : Nat) : (s.floorMissed p avg).mem = s.mem := by
  unfold State.floorMissed
  extract_lets stuck x y
  split
  · rfl
  · exact (State.count_mem ..).trans ((State.raise_mem ..).trans (State.setBit_mem x ..))

/-- PW_POWER shows the input power. -/
def State.shownPower (s : State) (avg : Nat) : State := s.setFld Reg.PW_POWER 0 16 avg

/-- The input power shown, and what a panel below its floor raises. -/
def State.noticed (s : State) (avg : Nat) : State :=
  let u := s.shownPower avg
  let ps := [0, 1, 2, 3].filter u.regulated
  let low := ps.any (fun p => u.panelRate p < u.fld Reg.PW_TARGET 0 16)
  ps.foldl (fun s p => s.floorMissed p avg) (if 10 * u.fld Reg.PW_POWER 16 16 < avg && low then u.setBit Reg.PW_STATUS 4 true else u)

theorem noticed_rd {a : Nat} (h1 : a ≠ Reg.PW_STATUS) (h2 : a ≠ Reg.SC_PWR_HIST 4) (avg : Nat) : (s.noticed avg).rd a = (s.shownPower avg).rd a := by
  refine (foldl_frame (State.rd · a) (fun t p => floorMissed_rd t h1 h2 p avg) _ _).trans ?_
  split
  · exact State.rd_setBit_other _ 4 true h1
  · rfl

theorem noticed_rd_other {a : Nat} (h : a ≠ Reg.PW_POWER) (h1 : a ≠ Reg.PW_STATUS) (h2 : a ≠ Reg.SC_PWR_HIST 4) (avg : Nat) :
    (s.noticed avg).rd a = s.rd a := (noticed_rd s h1 h2 avg).trans (State.rd_setFld_other s 0 16 avg h)

theorem noticed_mem (avg : Nat) : (s.noticed avg).mem = s.mem := by
  refine (foldl_frame (·.mem) (fun t p => floorMissed_mem t p avg) _ _).trans ?_
  split
  · exact (State.setBit_mem ..).trans (State.setFld_mem ..)
  · exact State.setFld_mem ..

theorem noticed_panel {p : Nat} (hp : p < 4) (avg : Nat) : (s.noticed avg).rd (Reg.PW_PANEL p) = s.rd (Reg.PW_PANEL p) :=
  noticed_rd_other s (panel_apart hp (by decide)) (panel_apart hp (by decide)) (panel_apart hp (by decide)) avg

theorem noticed_range {p : Nat} (hp : p < 4) (avg n : Nat) : (s.noticed avg).railRange p n = s.railRange p n := by
  have hother : ∀ {a}, a ≠ Reg.PW_POWER → a ≠ Reg.PW_STATUS → a ≠ Reg.SC_PWR_HIST 4 → (s.noticed avg).rd a = s.rd a := fun h h1 h2 =>
    noticed_rd_other s h h1 h2 avg
  refine railRange_congr (rail_congr (noticed_panel s hp avg)) ?_ ?_ (hother (by decide) (by decide) (by decide)) (hother (by decide) (by decide) (by decide))
    (hother (by decide) (by decide) (by decide)) n
  · unfold State.panelRate State.fld
    rw [noticed_panel s hp avg]
  · refine Eq.trans ?_ (State.fld_setFld_apart s Reg.PW_POWER avg (by decide) (by decide : 0 + 16 ≤ 16 ∨ 16 + 16 ≤ 0))
    unfold State.fld
    rw [noticed_rd s (by decide) (by decide) avg]
    rfl

/-- The controller sets a panel's rail. -/
def State.steerRail (avg : Nat) (mv : List Nat) (s : State) (p : Nat) : State :=
  s.setRail p (max (s.railRange p avg).1 (min (s.railRange p avg).2 (mv.getD p (s.rail p) / 5 * 5)))

theorem steerRail_rd_other (avg : Nat) (mv : List Nat) {p a : Nat} (h : a ≠ Reg.PW_PANEL p) : (s.steerRail avg mv p).rd a = s.rd a :=
  State.rd_setFld_other s 16 10 _ h

theorem steerRail_mem (avg : Nat) (mv : List Nat) (p : Nat) : (s.steerRail avg mv p).mem = s.mem := State.setFld_mem ..

theorem steerRail_rate (avg : Nat) (mv : List Nat) (p q : Nat) : (s.steerRail avg mv p).panelRate q = s.panelRate q := by
  by_cases h : p = q
  · subst h
    exact State.fld_setFld_apart s _ _ (by decide) (by decide)
  · exact State.fld_setFld_other s _ _ _ _ _ (panel_ne h)

theorem steerRail_self (avg : Nat) (mv : List Nat) (p : Nat) :
    (s.steerRail avg mv p).rail p = max (s.railRange p avg).1 (min (s.railRange p avg).2 (mv.getD p (s.rail p) / 5 * 5)) := by
  obtain ⟨h1, h2⟩ := railRange_lt (s := s) (p := p) avg
  refine (rail_setRail_self _).trans (Nat.mod_eq_of_lt ?_)
  omega

theorem controllerRun_off (avg : Nat) (mv : List Nat) (h : s.powerUp = false ∨ 2 ≤ s.powerState) : s.controllerRun avg mv = s := by
  refine if_pos ?_
  rw [Bool.or_eq_true, Bool.not_eq_true', decide_eq_true_eq]
  exact h

variable {s}

theorem controllerRun_on (avg : Nat) (mv : List Nat) (hup : s.powerUp = true) (hst : s.powerState < 2) :
    s.controllerRun avg mv = ([0, 1, 2, 3].filter s.regulated).foldl (State.steerRail (min avg 65535) mv) (s.noticed (min avg 65535)) := by
  have hgo : ¬(!s.powerUp || decide (2 ≤ s.powerState)) = true := by
    rw [hup, decide_eq_false (Nat.not_le.mpr hst)]
    decide
  have hreg : [0, 1, 2, 3].filter (s.shownPower (min avg 65535)).regulated = [0, 1, 2, 3].filter s.regulated :=
    filter_regulated_congr fun p hp =>
      regulated_congr (State.rd_setFld_other _ _ _ _ (panel_apart hp (by decide))) (State.rd_setFld_other _ _ _ _ (by decide))
  rw [← hreg]
  exact if_neg hgo

/-- What the controller leaves alone, once the input power is shown. -/
theorem controllerRun_rd (avg : Nat) (mv : List Nat) (hup : s.powerUp = true) (hst : s.powerState < 2) {a : Nat} (h : a < 0xA0010 ∨ 0xA0040 < a) :
    (s.controllerRun avg mv).rd a = (s.noticed (min avg 65535)).rd a := by
  rw [controllerRun_on avg mv hup hst]
  exact panels_rd_other fun t _ hp => steerRail_rd_other t _ mv (panel_apart hp h).symm

theorem controllerRun_power (avg : Nat) (mv : List Nat) (hup : s.powerUp = true) (hst : s.powerState < 2) :
    (s.controllerRun avg mv).fld Reg.PW_POWER 0 16 = min avg 65535 := by
  refine Eq.trans ?_ ((State.fld_setFld_self s Reg.PW_POWER (min avg 65535) (by decide : 0 + 16 ≤ 32)).trans (Nat.mod_eq_of_lt (by omega)))
  unfold State.fld
  rw [controllerRun_rd avg mv hup hst (by decide), noticed_rd s (by decide) (by decide)]
  rfl

theorem controllerRun_mem (avg : Nat) (mv : List Nat) (hup : s.powerUp = true) (hst : s.powerState < 2) : (s.controllerRun avg mv).mem = s.mem := by
  rw [controllerRun_on avg mv hup hst, foldl_frame (·.mem) fun t p => steerRail_mem t _ mv p]
  exact noticed_mem s _

theorem controllerRun_rail (avg : Nat) (mv : List Nat) (hup : s.powerUp = true) (hst : s.powerState < 2) {p : Nat} (hp : p < 4) :
    (s.controllerRun avg mv).rail p = if s.regulated p then
      max (s.railRange p (min avg 65535)).1 (min (s.railRange p (min avg 65535)).2 (mv.getD p (s.rail p) / 5 * 5)) else s.rail p := by
  have hrail : ∀ {q}, q < 4 → (s.noticed (min avg 65535)).rail q = s.rail q := fun hq => rail_congr (noticed_panel s hq _)
  rw [controllerRun_on avg mv hup hst, ← hrail hp]
  refine rail_foldl_panels (c := s.regulated) (f := State.steerRail (min avg 65535) mv)
    (I := fun t => (∀ a, a < 0xA0010 ∨ 0xA0040 < a → t.rd a = (s.noticed (min avg 65535)).rd a) ∧
      ∀ q, t.panelRate q = (s.noticed (min avg 65535)).panelRate q)
    (V := fun p => max (s.railRange p (min avg 65535)).1 (min (s.railRange p (min avg 65535)).2 (mv.getD p ((s.noticed (min avg 65535)).rail p) / 5 * 5)))
    (fun t q hq ht => ⟨fun a ha => ?_, fun r => ?_⟩) (fun t q r _ h => ?_) (fun t q hq _ ht hr => ?_) ⟨fun _ _ => rfl, fun _ => rfl⟩ hp
  · exact (steerRail_rd_other t _ mv (panel_apart hq ha).symm).trans (ht.1 a ha)
  · exact (steerRail_rate t _ mv q r).trans (ht.2 r)
  · exact rail_congr (steerRail_rd_other t _ mv (panel_ne h))
  · obtain ⟨hrd, hrate⟩ := ht
    have hcap : t.fld Reg.PW_POWER 16 16 = (s.noticed (min avg 65535)).fld Reg.PW_POWER 16 16 := by
      unfold State.fld
      rw [hrd _ (by decide)]
    rw [steerRail_self, railRange_congr hr (hrate q) hcap (hrd _ (by decide)) (hrd _ (by decide)) (hrd _ (by decide)), noticed_range s hq, hr]

end Controller

/-! ### The canaries -/

section Canary

variable (s : State)

/-- The registers of a canary after a window. -/
def State.canaryShown (s : State) (g count : Nat) : State :=
  let u := s.setFld (Reg.CN_GROUND_RATE g) 0 16 (min 65535 (count * 16 / 10))
  u.setFld (Reg.CN_GROUND_MIN g) 0 16 (if u.power.minFresh.get false g then min 65535 (count * 16 / 10)
    else min (u.fld (Reg.CN_GROUND_MIN g) 0 16) (min 65535 (count * 16 / 10)))

/-- A canary's window writes its own registers, and excludes it after three bad ones. -/
theorem canary_cases (g count : Nat) : ∃ u : State, u.regs = (s.canaryShown g count).regs ∧ u.mem = s.mem ∧ u.slices = s.slices ∧
    (s.canary g count = u ∨ ∃ d, s.canary g count = (u.setBit (Reg.CN_GROUND_RATE g) 24 true).raise .CANARY_FAULT .fenced srcPower d) := by
  unfold State.canary
  extract_lets rate x y bad src u
  have hmem : y.mem = s.mem := (State.setFld_mem x ..).trans (State.setFld_mem s ..)
  have hslices : y.slices = s.slices := (State.setFld_slices x ..).trans (State.setFld_slices s ..)
  refine ⟨u, ?_, ?_, ?_, ?_⟩
  · exact (rfl : u.regs = y.regs)
  · exact (rfl : u.mem = y.mem).trans hmem
  · exact (rfl : u.slices = y.slices).trans hslices
  · split
    · exact .inr ⟨_, rfl⟩
    · exact .inl rfl

theorem canary_mem (g count : Nat) : (s.canary g count).mem = s.mem := by
  obtain ⟨u, -, hmem, -, h | ⟨d, h⟩⟩ := canary_cases s g count
  · rw [h, hmem]
  · rw [h, State.raise_mem, State.setBit_mem, hmem]

theorem canary_slices (g count : Nat) : (s.canary g count).slices = s.slices := by
  obtain ⟨u, -, -, hsl, h | ⟨d, h⟩⟩ := canary_cases s g count
  · rw [h, hsl]
  · rw [h, State.raise_slices, State.setBit_slices, hsl]

theorem rate_ne_min (g i : Nat) : Reg.CN_GROUND_RATE g ≠ Reg.CN_GROUND_MIN i := by
  unfold Reg.CN_GROUND_RATE Reg.CN_GROUND_MIN
  omega

theorem rate_ne {g i : Nat} (h : g ≠ i) : Reg.CN_GROUND_RATE g ≠ Reg.CN_GROUND_RATE i := by
  unfold Reg.CN_GROUND_RATE
  omega

theorem canary_rd_other {g a : Nat} (h1 : a ≠ Reg.CN_GROUND_RATE g) (h2 : a ≠ Reg.CN_GROUND_MIN g) (count : Nat) : (s.canary g count).rd a = s.rd a := by
  obtain ⟨u, hregs, -, -, h⟩ := canary_cases s g count
  have hu : u.rd a = s.rd a := (State.rd_congr hregs a).trans ((State.rd_setFld_other _ _ _ _ h2).trans (State.rd_setFld_other _ _ _ _ h1))
  obtain h | ⟨d, h⟩ := h
  · rw [h, hu]
  · rw [h, State.rd_congr (raise_regs _ _ (by decide) _ _), State.rd_setBit_other _ _ _ h1, hu]

theorem canary_rate (g count : Nat) : (s.canary g count).fld (Reg.CN_GROUND_RATE g) 0 16 = min 65535 (count * 16 / 10) := by
  obtain ⟨u, hregs, -, -, h⟩ := canary_cases s g count
  have hu : u.fld (Reg.CN_GROUND_RATE g) 0 16 = min 65535 (count * 16 / 10) := by
    rw [State.fld_congr hregs, State.canaryShown, State.fld_setFld_other _ _ _ _ _ _ (rate_ne_min g g), State.fld_setFld_self _ _ _ (by decide)]
    exact Nat.mod_eq_of_lt (by omega)
  obtain h | ⟨d, h⟩ := h
  · rw [h, hu]
  · rw [h, State.fld_congr (raise_regs _ _ (by decide) _ _), State.fld_setBit_apart _ _ _ (by decide) (by decide), hu]

/-! One panel's canaries. -/

/-- The forty canaries of a panel. -/
def State.canaries (counts : List Nat) (s : State) (p : Nat) : State :=
  (List.range 40).foldl (fun s i => s.canary (p * 40 + i) (counts.getD (p * 40 + i) 0)) s

theorem canaries_mem (counts : List Nat) (p : Nat) : (s.canaries counts p).mem = s.mem := foldl_frame (·.mem) (fun t _ => canary_mem t _ _) _ s
theorem canaries_slices (counts : List Nat) (p : Nat) : (s.canaries counts p).slices = s.slices :=
  foldl_frame (·.slices) (fun t _ => canary_slices t _ _) _ s

theorem canaries_rate_other (counts : List Nat) {p q i : Nat} (h : q ≠ p) (hi : i < 40) :
    (s.canaries counts q).fld (Reg.CN_GROUND_RATE (p * 40 + i)) 0 16 = s.fld (Reg.CN_GROUND_RATE (p * 40 + i)) 0 16 := by
  refine foldl_frame_mem (State.fld · (Reg.CN_GROUND_RATE (p * 40 + i)) 0 16) (fun t j hj => ?_) s
  have hj := List.mem_range.mp hj
  unfold State.fld
  rw [canary_rd_other t (rate_ne (by omega)) (rate_ne_min _ _)]

theorem canaries_rate (counts : List Nat) (p : Nat) {i : Nat} (hi : i < 40) :
    (s.canaries counts p).fld (Reg.CN_GROUND_RATE (p * 40 + i)) 0 16 = min 65535 (counts.getD (p * 40 + i) 0 * 16 / 10) := by
  refine foldl_visit id (State.fld · (Reg.CN_GROUND_RATE (p * 40 + i)) 0 16) (I := fun _ => True) (e := i)
    (f := fun s i => s.canary (p * 40 + i) (counts.getD (p * 40 + i) 0)) (l := List.range 40) (c := s.fld (Reg.CN_GROUND_RATE (p * 40 + i)) 0 16)
    (s := s) (List.mem_range.mpr hi) (by rw [List.map_id]; exact List.nodup_range) (fun _ _ _ _ => trivial) (fun t j _ hne => ?_)
    (fun t _ _ => canary_rate t (p * 40 + i) _) trivial rfl
  have hg : p * 40 + i ≠ p * 40 + j := fun h => hne (Nat.add_left_cancel h).symm
  unfold State.fld
  rw [canary_rd_other t (rate_ne hg) (rate_ne_min _ _)]

/-! The rates of the panels. -/

variable {s} in
/-- The rate of a panel is what its canaries show. -/
theorem rateOf_congr {t : State} (h : ∀ g, t.rd (Reg.CN_GROUND_RATE g) = s.rd (Reg.CN_GROUND_RATE g)) (p : Nat) : t.rateOf p = s.rateOf p := by
  unfold State.rateOf State.bit State.fld
  simp only [h]

theorem foldl_min_le (l : List Nat) (n : Nat) : l.foldl min n ≤ n := by
  induction l generalizing n with
  | nil => exact Nat.le_refl n
  | cons a r ih => exact (ih _).trans (Nat.min_le_left ..)

theorem rateOf_lt (p : Nat) : s.rateOf p < 65536 := by
  unfold State.rateOf
  extract_lets gs ok low
  have hok : ok.headD 0 < 65536 := by
    rcases h : ok with _ | ⟨r, l⟩
    · decide
    · have hr : r ∈ ok := h ▸ List.mem_cons_self
      obtain ⟨g, -, rfl⟩ := List.mem_map.mp hr
      exact State.fld_lt ..
  have hlow : low ≤ ok.headD 0 := foldl_min_le ok _
  clear_value low
  split <;> omega

/-- A panel's rate shown, and its excursion counted. -/
def State.rated (s : State) (p : Nat) : State :=
  let u := s.setFld (Reg.PW_PANEL p) 0 16 (s.rateOf p)
  if u.excursion.get 0 p = 0 then u
  else { u with excursion := u.excursion.put 0 p (if s.rateOf p < u.rateFloor then 1 else if 10 ≤ u.excursion.get 0 p then 0 else u.excursion.get 0 p + 1) }

theorem rated_frame {γ : Type} (g : State → γ) (hg : ∀ t a v, g (State.wr t a v) = g t)
    (he : ∀ (t : State) x, g { t with excursion := x } = g t) (p : Nat) : g (s.rated p) = g s := by
  unfold State.rated
  extract_lets u
  have hu : g u = g s := hg _ _ _
  split
  · exact hu
  · exact (he u _).trans hu

theorem rated_regs (p : Nat) : (s.rated p).regs = (s.setFld (Reg.PW_PANEL p) 0 16 (s.rateOf p)).regs := by
  unfold State.rated
  extract_lets u
  split <;> rfl

theorem panel_ne_rate {p : Nat} (hp : p < 4) (g : Nat) : Reg.CN_GROUND_RATE g ≠ Reg.PW_PANEL p := by
  unfold Reg.CN_GROUND_RATE Reg.PW_PANEL
  omega

theorem rated_rd_rate {p : Nat} (hp : p < 4) (g : Nat) : (s.rated p).rd (Reg.CN_GROUND_RATE g) = s.rd (Reg.CN_GROUND_RATE g) :=
  (State.rd_congr (rated_regs s p) _).trans (State.rd_setFld_other _ _ _ _ (panel_ne_rate hp g))

variable {s} (counts : List Nat)

theorem canaryWindow_off (h : s.power.s1 = false) : s.canaryWindow counts = s := if_pos (by rw [h]; rfl)

/-- A window's canaries, and then its rates. -/
def State.windowRates (s : State) (counts : List Nat) : State :=
  ([0, 1, 2, 3].filter s.regulated).foldl State.rated (([0, 1, 2, 3].filter s.regulated).foldl (State.canaries counts) s)

theorem windowRates_mem : (s.windowRates counts).mem = s.mem :=
  (foldl_frame (·.mem) (fun t p => rated_frame t (·.mem) (fun t a v => State.wr_mem t a v) (fun _ _ => rfl) p) _ _).trans
    (foldl_frame (·.mem) (fun t p => canaries_mem t counts p) _ _)

theorem windowRates_slices : (s.windowRates counts).slices = s.slices :=
  (foldl_frame (·.slices) (fun t p => rated_frame t (·.slices) (fun t a v => State.wr_slices t a v) (fun _ _ => rfl) p) _ _).trans
    (foldl_frame (·.slices) (fun t p => canaries_slices t counts p) _ _)

theorem canaryWindow_on (h : s.power.s1 = true) (hs : s.slices = []) : s.canaryWindow counts = s.windowRates counts := by
  have hnone : ∀ {t : State}, t.slices = [] → t.endExcursions = t := fun ht => by
    unfold State.endExcursions
    rw [ht]
    rfl
  exact (if_neg (s1_passes h)).trans (hnone ((windowRates_slices counts).trans hs))

theorem windowRates_rd_rate (g : Nat) : (s.windowRates counts).rd (Reg.CN_GROUND_RATE g) =
    (([0, 1, 2, 3].filter s.regulated).foldl (State.canaries counts) s).rd (Reg.CN_GROUND_RATE g) :=
  panels_rd_other fun t _ hp => rated_rd_rate t hp g

theorem windowRates_ground {p : Nat} (hp : p < 4) (hr : s.regulated p = true) {i : Nat} (hi : i < 40) :
    (s.windowRates counts).fld (Reg.CN_GROUND_RATE (p * 40 + i)) 0 16 = min 65535 (counts.getD (p * 40 + i) 0 * 16 / 10) := by
  refine Eq.trans ?_ (foldl_visit id (State.fld · (Reg.CN_GROUND_RATE (p * 40 + i)) 0 16) (I := fun _ => True) (f := State.canaries counts)
    (l := [0, 1, 2, 3].filter s.regulated) (s := s) (List.mem_filter.mpr ⟨mem_panels.mpr hp, hr⟩) (by rw [List.map_id]; exact List.Nodup.filter _ (by decide))
    (fun _ _ _ _ => trivial) (fun t q _ h => canaries_rate_other t counts h hi) (fun t _ _ => canaries_rate t counts p hi) trivial rfl)
  unfold State.fld
  rw [windowRates_rd_rate]

theorem windowRates_panel {p : Nat} (hp : p < 4) (hr : s.regulated p = true) : (s.windowRates counts).panelRate p = (s.windowRates counts).rateOf p := by
  rw [rateOf_congr (windowRates_rd_rate counts) p]
  have hlt : ∀ {q}, q ∈ [0, 1, 2, 3].filter s.regulated → q < 4 := fun hq => mem_panels.mp (List.mem_filter.mp hq).1
  refine foldl_visit id (State.panelRate · p) (f := State.rated)
    (I := fun t => ∀ g, t.rd (Reg.CN_GROUND_RATE g) = (([0, 1, 2, 3].filter s.regulated).foldl (State.canaries counts) s).rd (Reg.CN_GROUND_RATE g))
    (List.mem_filter.mpr ⟨mem_panels.mpr hp, hr⟩) (by rw [List.map_id]; exact List.Nodup.filter _ (by decide))
    (fun t q hq ht g => (rated_rd_rate t (hlt hq) g).trans (ht g)) (fun t q _ h => ?_) (fun t ht _ => ?_) (fun _ => rfl) rfl
  · exact (State.fld_congr (rated_regs t q) _ _ _).trans (State.fld_setFld_other _ _ _ _ _ _ (panel_ne h))
  · refine (State.fld_congr (rated_regs t p) _ _ _).trans ((State.fld_setFld_self _ _ _ (by decide)).trans ?_)
    rw [rateOf_congr ht]
    exact Nat.mod_eq_of_lt (rateOf_lt _ p)

end Canary

/-! ### Telemetry -/

section Shadow

variable (s : State)

/-- The sensors of the grounds shown. -/
def State.shownGrounds (s : State) (l : List Int) : State := l.zipIdx.foldl (fun s e => s.setFld (Reg.CN_GROUND_RATE e.2) 16 8 (tempByte e.1)) s

/-- The sensors of the headframes shown. -/
def State.shownHeads (s : State) (l : List Int) : State :=
  l.zipIdx.foldl (fun s e => s.setFld (if e.2 < 4 then Reg.CN_HF_TEMP_N else Reg.CN_HF_TEMP_S) (8 * (e.2 % 4)) 8 (tempByte e.1)) s

/-- The input and the energy shown. -/
def State.shownSupply (s : State) (mv ma mj : Nat) : State :=
  ((((s.setFld Reg.PW_INPUT 0 16 (min mv 65535)).setFld Reg.PW_INPUT 16 16 (min ma 65535)).wr Reg.CN_ENERGY_LO (BitVec.ofNat 32 mj)).wr Reg.CN_ENERGY_HI
    (BitVec.ofNat 32 (mj / 2 ^ 32)))

theorem shownGrounds_rd_other {a : Nat} (h : a < 0xE0000) (l : List Int) : (s.shownGrounds l).rd a = s.rd a :=
  foldl_frame (State.rd · a) (fun t e => State.rd_setFld_other t _ _ _ (by unfold Reg.CN_GROUND_RATE; omega)) _ s

theorem shownGrounds_fld {l : List Int} {i : Nat} (hi : i < l.length) :
    (s.shownGrounds l).fld (Reg.CN_GROUND_RATE i) 16 8 = tempByte (l.getD i 0) := by
  have he : (l.getD i 0, i) ∈ l.zipIdx := by
    rw [List.mem_zipIdx_iff_getElem?, List.getElem?_eq_getElem hi, List.getD_eq_getElem _ _ hi]
  have hidx : (l.zipIdx.map (·.2)).Nodup := by
    rw [List.zipIdx_map_snd]
    exact List.nodup_range'
  refine foldl_visit (·.2) (State.fld · (Reg.CN_GROUND_RATE i) 16 8) (I := fun _ => True) he hidx (fun _ _ _ _ => trivial) (fun t e _ h => ?_)
    (fun t _ _ => ?_) trivial rfl
  · exact State.fld_setFld_other t _ _ _ _ _ (rate_ne (Ne.symm h))
  · exact (State.fld_setFld_self t _ _ (by decide)).trans (Nat.mod_eq_of_lt (tempByte_lt _))

theorem shownHeads_rd_other {a : Nat} (h1 : a ≠ Reg.CN_HF_TEMP_N) (h2 : a ≠ Reg.CN_HF_TEMP_S) (l : List Int) : (s.shownHeads l).rd a = s.rd a := by
  refine foldl_frame (State.rd · a) (fun t e => State.rd_setFld_other t _ _ _ ?_) _ s
  split
  · exact h1
  · exact h2

theorem shownSupply_rd_other {a : Nat} (h1 : a ≠ Reg.PW_INPUT) (h2 : a ≠ Reg.CN_ENERGY_LO) (h3 : a ≠ Reg.CN_ENERGY_HI) (mv ma mj : Nat) :
    (s.shownSupply mv ma mj).rd a = s.rd a := by
  unfold State.shownSupply
  rw [State.rd_wr_other _ _ h3, State.rd_wr_other _ _ h2, State.rd_setFld_other _ _ _ _ h1, State.rd_setFld_other _ _ _ _ h1]

theorem shownSupply_shows (mv ma mj : Nat) :
    (s.shownSupply mv ma mj).fld Reg.PW_INPUT 0 16 = min mv 65535 ∧ (s.shownSupply mv ma mj).fld Reg.PW_INPUT 16 16 = min ma 65535 ∧
      (s.shownSupply mv ma mj).rd Reg.CN_ENERGY_LO = BitVec.ofNat 32 mj ∧ (s.shownSupply mv ma mj).rd Reg.CN_ENERGY_HI = BitVec.ofNat 32 (mj / 2 ^ 32) := by
  unfold State.shownSupply
  refine ⟨?_, ?_, ?_, State.rd_wr_self ..⟩
  · rw [State.fld_wr_other _ _ _ _ (by decide), State.fld_wr_other _ _ _ _ (by decide), State.fld_setFld_apart _ _ _ (by decide) (by decide),
      State.fld_setFld_self _ _ _ (by decide)]
    exact Nat.mod_eq_of_lt (by omega)
  · rw [State.fld_wr_other _ _ _ _ (by decide), State.fld_wr_other _ _ _ _ (by decide), State.fld_setFld_self _ _ _ (by decide)]
    exact Nat.mod_eq_of_lt (by omega)
  · rw [State.rd_wr_other _ _ (by decide), State.rd_wr_self]

/-- The sensors and the supply shown. -/
def State.shownAll (s : State) (g h : List Int) (mv ma mj : Nat) : State := ((s.shownGrounds g).shownHeads h).shownSupply mv ma mj

theorem shownAll_mem (g h : List Int) (mv ma mj : Nat) : (s.shownAll g h mv ma mj).mem = s.mem := by
  unfold State.shownAll State.shownSupply
  rw [State.wr_mem, State.wr_mem, State.setFld_mem, State.setFld_mem]
  exact (foldl_frame (·.mem) (fun t e => State.setFld_mem t ..) _ _).trans (foldl_frame (·.mem) (fun t e => State.setFld_mem t ..) _ _)

theorem shownAll_ground {g : List Int} (h : List Int) (mv ma mj : Nat) {i : Nat} (hi : i < g.length) (h160 : i < 160) :
    (s.shownAll g h mv ma mj).fld (Reg.CN_GROUND_RATE i) 16 8 = tempByte (g.getD i 0) := by
  have hne : ∀ {a}, a < 0xE0000 ∨ 0xE04F8 < a → Reg.CN_GROUND_RATE i ≠ a := fun ha => by
    unfold Reg.CN_GROUND_RATE
    omega
  rw [← shownGrounds_fld s hi]
  unfold State.fld State.shownAll
  rw [shownSupply_rd_other _ (hne (by decide)) (hne (by decide)) (hne (by decide)), shownHeads_rd_other _ (hne (by decide)) (hne (by decide))]

theorem shownAll_late (g h : List Int) (mv ma mj : Nat) : (s.shownAll g h mv ma mj).fld Reg.HF_BG_SHADOW 0 16 = s.fld Reg.HF_BG_SHADOW 0 16 := by
  unfold State.fld State.shownAll
  rw [shownSupply_rd_other _ (by decide) (by decide) (by decide), shownHeads_rd_other _ (by decide) (by decide), shownGrounds_rd_other _ (by decide)]

variable {s}

theorem shadow_off (g h : List Int) (mv ma mj : Nat) (late : Bool) (h1 : s.power.s1 = false) : s.shadow g h mv ma mj late = s := if_pos (by rw [h1]; rfl)

theorem shadow_on {g h : List Int} (mv ma mj : Nat) (late : Bool) (h1 : s.power.s1 = true) (hg : g.length = 160) (hh : h.length = 8) :
    s.shadow g h mv ma mj late = ((s.shownAll g h mv ma mj).setTj ((g ++ h).foldl max (g.getD 0 0))).count Reg.HF_BG_SHADOW 0 16 (b2n late) := by
  rcases g with _ | ⟨c, r⟩
  · exact absurd hg (by decide)
  · have hmax : (c :: r ++ h).foldl max ((c :: r).getD 0 0) = (r ++ h).foldl max c := congrArg (List.foldl max · (r ++ h)) (max_self c)
    unfold State.shadow
    rw [if_neg (s1_passes h1), List.take_of_length_le hg.le, List.take_of_length_le hh.le, hmax]
    rfl

theorem shadow_shows (g h : List Int) (mv ma mj : Nat) (late : Bool) (h1 : s.power.s1 = true) (hg : g.length = 160) (hh : h.length = 8) :
    let t := s.shadow g h mv ma mj late
    t.mem = s.mem ∧ (∀ i, i < 160 → t.fld (Reg.CN_GROUND_RATE i) 16 8 = tempByte (g.getD i 0)) ∧ t.fld Reg.PW_INPUT 0 16 = min mv 65535 ∧
      t.fld Reg.PW_INPUT 16 16 = min ma 65535 ∧ t.rd Reg.CN_ENERGY_LO = BitVec.ofNat 32 mj ∧ t.rd Reg.CN_ENERGY_HI = BitVec.ofNat 32 (mj / 2 ^ 32) ∧
      t.fld Reg.PW_THERM 0 8 = tempByte ((g ++ h).foldl max (g.getD 0 0)) ∧
      t.fld Reg.HF_BG_SHADOW 0 16 = min 65535 (s.fld Reg.HF_BG_SHADOW 0 16 + if late then 1 else 0) := by
  intro t
  rw [show t = _ from shadow_on mv ma mj late h1 hg hh]
  have hrd : ∀ {a}, a ≠ Reg.HF_BG_SHADOW → a ≠ Reg.PW_THERM → a ≠ Reg.PW_FAN →
      (((s.shownAll g h mv ma mj).setTj ((g ++ h).foldl max (g.getD 0 0))).count Reg.HF_BG_SHADOW 0 16 (b2n late)).rd a =
        (s.shownAll g h mv ma mj).rd a := fun ha h1 h2 => (State.rd_setFld_other _ _ _ _ ha).trans (setTj_rd_other _ _ h1 h2)
  have hfld : ∀ {a}, a ≠ Reg.HF_BG_SHADOW → a ≠ Reg.PW_THERM → a ≠ Reg.PW_FAN → ∀ lo n,
      (((s.shownAll g h mv ma mj).setTj ((g ++ h).foldl max (g.getD 0 0))).count Reg.HF_BG_SHADOW 0 16 (b2n late)).fld a lo n =
        (s.shownAll g h mv ma mj).fld a lo n := fun ha h1 h2 lo n => by
    unfold State.fld
    rw [hrd ha h1 h2]
  obtain ⟨hmv, hma, hlo, hhi⟩ := shownSupply_shows ((s.shownGrounds g).shownHeads h) mv ma mj
  refine ⟨?_, fun i hi => ?_, ?_, ?_, ?_, ?_, ?_, ?_⟩
  · rw [State.count_mem, setTj_frame _ _ (·.mem) fun t a v => State.wr_mem t a v]
    exact shownAll_mem s g h mv ma mj
  · have hne : ∀ {a}, a < 0xE0000 → Reg.CN_GROUND_RATE i ≠ a := fun ha => by
      unfold Reg.CN_GROUND_RATE
      omega
    rw [hfld (hne (by decide)) (hne (by decide)) (hne (by decide))]
    exact shownAll_ground s h mv ma mj (by omega) hi
  · exact (hfld (by decide) (by decide) (by decide) 0 16).trans hmv
  · exact (hfld (by decide) (by decide) (by decide) 16 16).trans hma
  · exact (hrd (by decide) (by decide) (by decide)).trans hlo
  · exact (hrd (by decide) (by decide) (by decide)).trans hhi
  · exact (State.fld_setFld_other _ _ _ _ _ _ (by decide)).trans (setTj_temp _ _)
  · have hold : ((s.shownAll g h mv ma mj).setTj ((g ++ h).foldl max (g.getD 0 0))).fld Reg.HF_BG_SHADOW 0 16 = s.fld Reg.HF_BG_SHADOW 0 16 := by
      rw [← shownAll_late s g h mv ma mj]
      unfold State.fld
      rw [setTj_rd_other _ _ (by decide) (by decide)]
    rw [State.count, hold, State.fld_setFld_self _ _ _ (by decide)]
    rw [show (if late then 1 else 0) = b2n late from rfl]
    unfold satTo
    generalize b2n late = k
    split <;> omega

end Shadow

end Sys2Proof.Machine
end

section
/-! PROOFS. What the commands of power and heat do. -/

namespace Sys2Proof.Machine

theorem exec_panelParked_eq (p : Nat) (s : State) : exec (.panelParked p) s = .next (s.park p) := rfl
theorem exec_panelUnparked_eq (p : Nat) (s : State) : exec (.panelUnparked p) s = .next (s.unpark p) := rfl
theorem exec_dozeWake_eq (c : Nat) (s : State) : exec (.dozeWake c) s = .next (s.dozeWake c) := rfl
theorem exec_standbyExit_eq (s : State) : exec .standbyExit s = .next s.standbyExit := rfl
theorem exec_pmeTurnOff_eq (s : State) : exec .pmeTurnOff s = .next s.pmeOff := rfl
theorem exec_pmeTurnOffTimeout_eq (s : State) : exec .pmeTurnOffTimeout s = .next s.pmeTimeout := rfl
theorem exec_hardwareClamp_eq (s : State) : exec .hardwareClamp s = .next s.clamp := rfl
theorem exec_vinRange_eq (mv : Nat) (s : State) : exec (.vinRange mv) s = .next (s.vinRange mv) := rfl
theorem exec_tempWarn_eq (t : Int) (s : State) : exec (.tempWarn t) s = .next (s.tempWarn t) := rfl
theorem exec_thermThrottle_eq (t : Int) (s : State) : exec (.thermThrottle t) s = .next (s.throttle t) := rfl
theorem exec_throttleRelease_eq (t : Int) (s : State) : exec (.throttleRelease t) s = .next (s.throttleEnd t) := rfl
theorem exec_voltageControllerRun_eq (avg : Nat) (mv : List Nat) (s : State) : exec (.voltageControllerRun avg mv) s = .next (s.controllerRun avg mv) := rfl
theorem exec_canaryWindow_eq (counts : List Nat) (s : State) : exec (.canaryWindow counts) s = .next (s.canaryWindow counts) := rfl
theorem exec_shadowRefresh_eq (g h : List Int) (mv ma mj : Nat) (late : Bool) (s : State) :
    exec (.shadowRefresh g h mv ma mj late) s = .next (s.shadow g h mv ma mj late) := rfl

section Clauses

variable (s : State)

/-- A request for another state than a command's. -/
theorem otherRequests (v : Word) (n : Nat) :
    (bitsOf v.toNat 0 3 ≠ 0 → exec (.pwReqActive v) s = .next s) ∧ (bitsOf v.toNat 0 3 ≠ 1 → exec (.pwReqLean v) s = .next s) ∧
      (bitsOf v.toNat 0 3 ≠ 2 → exec (.pwReqDoze v n) s = .next s) ∧ (bitsOf v.toNat 0 3 ≠ 3 → exec (.pwReqStandby v) s = .next s) :=
  ⟨fun h => congrArg _ (if_neg h), fun h => congrArg _ (if_neg h), fun h => congrArg _ (if_neg h), fun h => congrArg _ (if_neg h)⟩

section Requested

variable {s} {v : Word} (hup : s.powerUp = true) (hst : s.powerState < 2)
include hup hst

theorem exec_pwReqActive (h : bitsOf v.toNat 0 3 = 0) : ∃ t, exec (.pwReqActive v) s = .next t ∧ t.fld Reg.PW_STATE 0 3 = 0 ∧
    t.fld Reg.PW_STATE 3 5 = bitsOf v.toNat 3 5 ∧ t.mem = s.mem ∧ t.powerState = (if s.fld Reg.PW_STATE 11 4 = 0 then 0 else s.powerState) ∧
    t.bit Reg.PW_STATE 15 = decide (s.fld Reg.PW_STATE 11 4 ≠ 0) :=
  ⟨_, (exec_pwReqActive_eq v s).trans (congrArg _ (reqActive_awake hup hst h)), asked_leanDone s v h⟩

theorem exec_pwReqLean (h : bitsOf v.toNat 0 3 = 1) (hp : bitsOf v.toNat 3 4 ≠ 15) : ∃ t, exec (.pwReqLean v) s = .next t ∧ t.fld Reg.PW_STATE 0 3 = 1 ∧
    t.fld Reg.PW_STATE 3 4 = bitsOf v.toNat 3 4 ∧ t.mem = s.mem ∧
    t.powerState = (if s.fld Reg.PW_STATE 11 4 = bitsOf v.toNat 3 4 then 1 else s.powerState) ∧
    t.bit Reg.PW_STATE 15 = decide (s.fld Reg.PW_STATE 11 4 ≠ bitsOf v.toNat 3 4) := by
  obtain ⟨hreq, hpark, hmem, hcur, htrans⟩ := asked_leanDone s v h
  have hlean := (reqLean_awake hup hst h).trans ((if_neg hp).trans (beginLean_park s v hp))
  exact ⟨_, (exec_pwReqLean_eq v s).trans (congrArg _ hlean), hreq, bitsOf_lower hpark (by decide), hmem, hcur, htrans⟩

theorem exec_pwReqLean_all (h : bitsOf v.toNat 0 3 = 1) (hp : bitsOf v.toNat 3 4 = 15) : ∃ t, exec (.pwReqLean v) s = .next t ∧
    t.bit Reg.PW_STATE 16 = true ∧ t.fld Reg.PW_STATE 17 3 = 3 ∧ t.fld Reg.PW_STATE 0 8 = s.fld Reg.PW_STATE 0 8 ∧ t.powerState = s.powerState ∧
    t.mem = s.mem :=
  ⟨_, (exec_pwReqLean_eq v s).trans (congrArg _ ((reqLean_awake hup hst h).trans (if_pos hp))), asked_undone s v⟩

theorem exec_pwReqDoze_forbidden (n : Nat) (h : bitsOf v.toNat 0 3 = 2) (hd : s.dozeOk = false) : ∃ t, exec (.pwReqDoze v n) s = .next t ∧
    t.bit Reg.PW_STATE 16 = true ∧ t.fld Reg.PW_STATE 17 3 = 1 ∧ t.powerState = s.powerState ∧ t.mem = s.mem :=
  ⟨_, (exec_pwReqDoze_eq v n s).trans (congrArg _ ((reqDoze_awake hup hst h n).trans (if_pos (by rw [hd]; rfl)))), asked_refused s v (by decide)⟩

theorem exec_pwReqDoze_woken {n : Nat} (h : bitsOf v.toNat 0 3 = 2) (hd : s.dozeOk = true) (h1 : 1 ≤ n) (h4 : n ≤ 4) :
    ∃ t, exec (.pwReqDoze v n) s = .next t ∧ t.bit Reg.PW_STATE 16 = true ∧ t.fld Reg.PW_STATE 17 3 = 4 ∧ t.fld Reg.PW_STATE 20 3 = n ∧
      t.powerState = s.powerState ∧ t.mem = s.mem := by
  have hwoken : (decide (1 ≤ n) && decide (n ≤ 4)) = true := by
    rw [decide_eq_true h1, decide_eq_true h4]
    rfl
  have hok : ¬(!s.dozeOk) = true := by
    rw [hd]
    decide
  exact ⟨_, (exec_pwReqDoze_eq v n s).trans (congrArg _ ((reqDoze_awake hup hst h n).trans ((if_neg hok).trans (if_pos hwoken)))), asked_woken s v h4⟩

theorem exec_pwReqDoze {n : Nat} (h : bitsOf v.toNat 0 3 = 2) (hd : s.dozeOk = true) (hn : n = 0 ∨ 4 < n) : ∃ t, exec (.pwReqDoze v n) s = .next t ∧
    t.powerState = 2 ∧ t.mem = s.mem ∧ ∀ p, p < 4 → t.rail p = if s.rail p = 0 then 0 else 420 := by
  have hquiet : ¬(decide (1 ≤ n) && decide (n ≤ 4)) = true := by
    simp only [Bool.and_eq_true, decide_eq_true_eq]
    omega
  have hok : ¬(!s.dozeOk) = true := by
    rw [hd]
    decide
  refine ⟨_, (exec_pwReqDoze_eq v n s).trans (congrArg _ ((reqDoze_awake hup hst h n).trans ((if_neg hok).trans (if_neg hquiet)))), enterDoze_powerState _,
    (enterDoze_mem _).trans (askedPower_mem s v), fun p hp => ?_⟩
  rw [enterDoze_rail _ hp, askedPower_rail s v hp]

omit hup hst in
theorem asked_jobsActive : (s.askedPower v).jobsActive = s.jobsActive := by
  unfold State.jobsActive
  simp only [askedPower_slotIs]

theorem exec_pwReqStandby_refused (h : bitsOf v.toNat 0 3 = 3) (hf : bitOf v.toNat 7 = false) (ha : s.jobsActive = true) :
    ∃ t, exec (.pwReqStandby v) s = .next t ∧ t.bit Reg.PW_STATE 16 = true ∧ t.fld Reg.PW_STATE 17 3 = 1 ∧ t.powerState = s.powerState ∧
      t.power.standby = 0 ∧ t.mem = s.mem := by
  obtain ⟨hrefused, hreason, hcur, hmem⟩ := asked_refused s v (r := 1) (by decide)
  have hno := beginStandby_refused ((askedPower_force s v).trans hf) (asked_jobsActive.trans ha)
  have hstandby : s.power.standby = 0 := by
    unfold State.powerUp at hup
    simp only [Bool.and_eq_true, decide_eq_true_eq] at hup
    exact hup.2
  refine ⟨_, (exec_pwReqStandby_eq v s).trans (congrArg _ ((reqStandby_awake hup hst h).trans hno)), hrefused, hreason, hcur, ?_, hmem⟩
  rw [refusePower_power, askedPower_power, hstandby]

theorem exec_pwReqStandby (h : bitsOf v.toNat 0 3 = 3) (hf : bitOf v.toNat 7 = true ∨ s.jobsActive = false) : ∃ t, exec (.pwReqStandby v) s = .next t ∧
    t.power.standby = 5 ∧ t.bit Reg.PW_STATE 15 = true ∧ t.sec.idKey = none ∧ t.sec.mgmtNonce = none :=
  ⟨_, (exec_pwReqStandby_eq v s).trans (congrArg _ (reqStandby_awake hup hst h)),
    beginStandby_begins (hf.imp (askedPower_force s v).trans asked_jobsActive.trans)⟩

end Requested

theorem panels_park_unpark (p : Nat) :
    (¬ s.mayPark p → exec (.panelParked p) s = .next s) ∧ (s.mayPark p → s.panelBusy p = true → exec (.panelParked p) s = .next (s.refusePower 2)) ∧
    (s.mayPark p → s.panelBusy p = false → ∃ t, exec (.panelParked p) s = .next t ∧ t.rail p = 420 ∧ t.panelRate p = 0 ∧
      t.bit Reg.PW_STATE (11 + p) = true) ∧
    (¬ s.mayUnpark p → exec (.panelUnparked p) s = .next s) ∧
    (s.mayUnpark p → ∃ t, exec (.panelUnparked p) s = .next t ∧ t.bit Reg.PW_STATE (11 + p) = false ∧ t.rail p = s.power.railAt.get 0 p % 1024) := by
  rw [exec_panelParked_eq, exec_panelUnparked_eq]
  refine ⟨fun h => congrArg _ (park_not h), fun h hb => congrArg _ (park_busy h hb), fun h hb => ?_, fun h => congrArg _ (unpark_not h),
    fun h => ⟨_, congrArg _ (unpark_back h), unpark_shows h.1⟩⟩
  obtain ⟨y, hy⟩ := park_idle h hb
  exact ⟨_, congrArg _ hy, park_shows h.1 y⟩

/-- Before S1 the commands of heat and telemetry change nothing. -/
theorem before_s1 (h : s.power.s1 = false) (mv : Nat) (k : List Nat) (e : Int) (l1 : Nat) (l2 : List Nat) (l3 : List Int) (ma mj : Nat) (late : Bool) :
    exec .hardwareClamp s = .next s ∧ exec (.vinRange mv) s = .next s ∧ exec (.tempWarn e) s = .next s ∧ exec (.thermThrottle e) s = .next s ∧
      exec (.canaryWindow k) s = .next s ∧ exec (.voltageControllerRun l1 l2) s = .next s ∧ exec (.shadowRefresh l3 l3 mv ma mj late) s = .next s := by
  have hdown : s.powerUp = false := by
    unfold State.powerUp
    rw [h]
    rfl
  rw [exec_hardwareClamp_eq, exec_vinRange_eq, exec_tempWarn_eq, exec_thermThrottle_eq, exec_canaryWindow_eq, exec_voltageControllerRun_eq,
    exec_shadowRefresh_eq, clamp_off h, vinRange_off mv h, tempWarn_off e h, throttle_not e (.inl h), canaryWindow_off k h,
    controllerRun_off s l1 l2 (.inl hdown), shadow_off l3 l3 mv ma mj late h]
  exact ⟨rfl, rfl, rfl, rfl, rfl, rfl, rfl⟩

theorem exec_voltageControllerRun {avg : Nat} {mv : List Nat} (hup : s.powerUp = true) (hst : s.powerState < 2) :
    ∃ t, exec (.voltageControllerRun avg mv) s = .next t ∧ t.fld Reg.PW_POWER 0 16 = min avg 65535 ∧ t.mem = s.mem ∧
      ∀ p, p < 4 → (s.regulated p = false → t.rail p = s.rail p) ∧
        (s.regulated p = true → let w := s.railRange p (min avg 65535)
          t.rail p = max w.1 (min w.2 (mv.getD p (s.rail p) / 5 * 5)) ∧
          (500 ≤ s.rail p → s.rail p ≤ s.railMax →
            500 ≤ t.rail p ∧ t.rail p ≤ s.railMax ∧ t.rail p ≤ s.rail p + 10 ∧ s.rail p ≤ t.rail p + 10)) := by
  refine ⟨_, exec_voltageControllerRun_eq avg mv s, controllerRun_power avg mv hup hst, controllerRun_mem avg mv hup hst,
    fun p hp => ⟨fun hr => ?_, fun hr => ?_⟩⟩
  · rw [controllerRun_rail avg mv hup hst hp, if_neg (ne_true_of_eq_false hr)]
  · intro w
    have hrail := (controllerRun_rail avg mv hup hst hp).trans (if_pos hr)
    refine ⟨hrail, fun h500 hmax => ?_⟩
    rw [hrail]
    exact railRange_within _ _ h500 hmax

end Clauses

/-- Settles O54: each clause by the lemmas about its command. That the clamp goes no lower than 500 mV is the model's choice (log entry 12), and so
are the corners of DOZE and STANDBY (log entry 75). -/
theorem powerAndHeat : Obligations.PowerAndHeat := by
  refine ⟨⟨fun s v n => otherRequests s v n, fun s v n hup hst => ?requests, fun s p => ?park, fun s c => ?wake, fun s => ?standby⟩,
    fun s => ⟨fun mv k e l1 l2 l3 ma mj late h => before_s1 s h mv k e l1 l2 l3 ma mj late, fun h hs => ?heat, fun c => ?release,
      fun avg mv => ?controller, fun h => ?telemetry⟩⟩
  case requests =>
    exact ⟨exec_pwReqActive hup hst, fun h => ⟨exec_pwReqLean_all hup hst h, exec_pwReqLean hup hst h⟩,
      fun h => ⟨exec_pwReqDoze_forbidden hup hst n h, exec_pwReqDoze_woken hup hst h, exec_pwReqDoze hup hst h⟩,
      fun h => ⟨exec_pwReqStandby_refused hup hst h, exec_pwReqStandby hup hst h⟩⟩
  case park =>
    obtain ⟨hnot, hbusy, hpark, hstay, hback⟩ := panels_park_unpark s p
    exact ⟨hnot, hbusy, hpark, hstay, hback⟩
  case wake =>
    exact ⟨fun h => congrArg _ (dozeWake_not h), fun h h1 h4 => ⟨_, (exec_dozeWake_eq c s).trans (congrArg _ (dozeWake_wakes h h1 h4)), exitDoze_shows h4⟩⟩
  case standby =>
    refine ⟨fun h => congrArg _ (standbyExit_not h), fun h7 hw => ⟨_, exec_standbyExit_eq s, standbyExit_shows h7 hw⟩,
      fun h => ⟨congrArg _ (pmeOff_not h), congrArg _ (pmeTimeout_not h)⟩, fun h5 hw => ?_⟩
    refine ⟨s.enterStandby, congrArg _ (pmeTimeout_enters h5 hw), congrArg _ (pmeOff_enters h5 hw), enterStandby_powerState s, ?_, ?_, ?_,
      enterStandby_mem s, enterStandby_tasks s, enterStandby_out s, enterStandby_otp s, fun k hk => enterStandby_history s hk⟩
    all_goals
      rw [enterStandby_power]
      rfl
  case heat =>
    exact ⟨⟨_, exec_hardwareClamp_eq s, clamp_shows h hs⟩, fun mv => ⟨_, exec_vinRange_eq mv s, vinRange_shows h hs mv⟩,
      fun c => ⟨_, exec_tempWarn_eq c s, tempWarn_shows c h⟩, fun c hc => ⟨_, exec_thermThrottle_eq c s, throttle_shows c h hs hc⟩,
      fun c hc hb => congrArg _ (throttle_not c (.inr ⟨hc, hb⟩))⟩
  case release =>
    exact ⟨fun h => congrArg _ (throttleEnd_not c h), fun hb hc => ⟨_, exec_throttleRelease_eq c s, throttleEnd_shows c hb hc⟩⟩
  case controller =>
    exact ⟨fun h => congrArg _ (controllerRun_off s avg mv h), fun hup hst => exec_voltageControllerRun s hup hst⟩
  case telemetry =>
    refine ⟨fun counts hsl => ⟨_, (exec_canaryWindow_eq counts s).trans (congrArg _ (canaryWindow_on counts h hsl)), windowRates_mem counts, fun p hp hr =>
        ⟨windowRates_panel counts hp hr, fun i hi => windowRates_ground counts hp hr hi⟩⟩,
      fun g l mv ma mj late hg hl => ⟨_, exec_shadowRefresh_eq g l mv ma mj late s, shadow_shows g l mv ma mj late h hg hl⟩⟩

end Sys2Proof.Machine
end

section
/-! PROOFS. A fetch leaves tasks alone; control words. -/

namespace Sys2Proof.Machine

/-! ### Fetches -/

section Fetch

variable (s : State)

theorem setStatus_tasks (a i : Nat) (code : Code) (cls : EvClass) (source : Nat) (data : List Nat) :
    (s.setStatus a i code cls source data).tasks = s.tasks := by
  unfold State.setStatus
  split
  · rfl
  · exact (State.raise_tasks ..).trans (State.setBit_tasks ..)

theorem readWord_tasks (a : Nat) : (s.readWord a).1.tasks = s.tasks := by
  unfold State.readWord
  dsimp only
  split
  · rfl
  · rw [State.setBank_tasks, State.count_tasks, setStatus_tasks]
  · rw [State.wr_tasks, State.count_tasks]
    split <;> exact setStatus_tasks ..

/-- What every step of a fold leaves alone in the state it carries beside other things, the fold leaves alone. -/
theorem foldl_frame_fst {α β γ : Type} (g : State → γ) {f : State × β → α → State × β} (hf : ∀ p a, g (f p a).1 = g p.1) (l : List α)
    (p : State × β) : g (l.foldl f p).1 = g p.1 := by
  induction l generalizing p with
  | nil => rfl
  | cons a r ih => exact (ih (f p a)).trans (hf p a)

theorem readPort_tasks (a n : Nat) : (s.readPort a n).1.tasks = s.tasks := by
  unfold State.readPort
  refine foldl_frame_fst State.tasks (fun acc p => ?_) _ _
  exact readWord_tasks ..

theorem fillBuffer_tasks (c slot : Nat) (lines : List Nat) : (s.fillBuffer c slot lines).tasks = s.tasks := by
  unfold State.fillBuffer
  dsimp only
  split
  · rfl
  · exact State.setCore_tasks ..

variable {s}

/-- Filling the fetch buffers of the cores that wait for a line leaves tasks alone. -/
theorem fillWaiting_tasks (c slot : Nat) (cores : State → Nat → List Nat) (lines : List Nat) :
    (lines.foldl (fun v l => (cores v l).foldl (fun v c' => if c' = c then v else v.fillBuffer c' slot [l]) v) s).tasks = s.tasks := by
  refine foldl_frame State.tasks (fun v l => foldl_frame State.tasks (fun v c' => ?_) _ v) lines s
  split
  · rfl
  · exact fillBuffer_tasks ..

end Fetch

theorem fetch_tasks {s u : State} {x slot pc bytes : Nat} (h : s.fetch x slot pc bytes = .ok u) : u.tasks = s.tasks := by
  unfold State.fetch at h
  extract_lets m c lines missing b r at h
  split at h
  · nomatch h
  · clear_value missing
    split at h
    · injection h with hu
      rw [hu]
    · split at h
      · nomatch h
      · nomatch h
      · nomatch h
      · split at h
        · nomatch h
        · injection h with hu
          rw [← hu, fillWaiting_tasks, fillBuffer_tasks]
          refine foldl_frame_fst State.tasks (fun acc l => ?_) _ _
          exact readPort_tasks ..

/-- A task that may issue waits for nothing after the fetch either. -/
theorem Issues.waits_fetched {s u : State} {x n k : Nat} {reads : List LoadDst} (h : Issues s x n reads k u) : (u.task k).wait = .none := by
  unfold State.task
  rw [fetch_tasks h.fetch]
  exact h.waits

/-- An instruction that waits for data leaves its task as the fetch left it. -/
theorem issue_waitsData {s u : State} {x n k : Nat} {i : Insn} {reads writes : List LoadDst} {body : State → Nat → Task → Issue}
    (h : Issues s x n reads k u) (hn : (if i.long then 8 else 4) = n) (hb : body u k ((s.task k).supersede writes) = .stay u .waitData .none) :
    s.issue x i false reads writes body = (u.setTask k (u.task k)).setContext x { u.context x with phase := .waitData } := by
  rw [issue_stays h hn hb, ← h.waits_fetched]

/-! ### Reading and writing a control word -/

section Words

variable {i : Nat} (t : Task) (v : Word)

theorem cwExists_iff : cwExists i = true ↔ i ≤ 0xB ∨ 0x40 ≤ i ∧ i ≤ 0x46 := by
  simp [cwExists]

/-- Every assigned index reads (R122). -/
theorem readCw_isSome (u : State) (x : Nat) (h : cwExists i = true) : ∃ v, u.readCw x t i = some v := by
  rw [cwExists_iff] at h
  rcases h with h | ⟨_, _⟩ <;> interval_cases i <;> exact ⟨_, rfl⟩

/-- No control word shows the loads that are superseded. -/
theorem readCw_supersede (u : State) (x : Nat) (w : List LoadDst) : u.readCw x (t.supersede w) i = u.readCw x t i := rfl

theorem supersede_loads_eq_nil {t : Task} {w : List LoadDst} : (t.supersede w).loads = [] ↔ t.loads = [] := List.map_eq_nil_iff

/-- Every assigned index is written (R122), and no write counts as an instruction issued. -/
theorem writeCw_isSome (h : cwExists i = true) : ∃ t', t.writeCw i v = some t' ∧ t'.issued = t.issued := by
  rw [cwExists_iff] at h
  rcases h with h | ⟨_, _⟩ <;> interval_cases i <;> exact ⟨_, rfl, rfl⟩

theorem cword_setCw_self : (t.setCw i v).cword i = v := SMap.get_put_self ..

theorem writeCw_readOnly (h : i ∈ [9, 10, 11, 0x40, 0x41, 0x42, 0x43, 0x45, 0x46]) : t.writeCw i v = some t := by
  simp only [List.mem_cons, List.not_mem_nil, or_false] at h
  rcases h with rfl | rfl | rfl | rfl | rfl | rfl | rfl | rfl | rfl <;> rfl

theorem writeCw_segment (h : i ∈ [4, 5, 6]) : t.writeCw i v = some (t.setCw i (v &&& 0xFFFFFF#32)) := by
  simp only [List.mem_cons, List.not_mem_nil, or_false] at h
  rcases h with rfl | rfl | rfl <;> rfl

theorem writeCw_whole (h : i ∈ [1, 2, 3, 7]) : t.writeCw i v = some (t.setCw i v) := by
  simp only [List.mem_cons, List.not_mem_nil, or_false] at h
  rcases h with rfl | rfl | rfl | rfl <;> rfl

/-- ARITH after a write: the modes in bits 3 to 0, the sticky flags in bits 11 to 4 (R40). -/
def arithWritten (old v : Word) : Word := (v &&& 0xF#32) ||| (old &&& 0xFF0#32 &&& ~~~v)

theorem writeCw_arith : t.writeCw 0 v = some { t with arith := arithWritten t.arith v } := rfl

theorem modeMask_bit : ∀ j < 32, (0xF#32).getLsbD j = decide (j < 4) := by decide
theorem flagMask_bit : ∀ j < 32, (0xFF0#32).getLsbD j = (decide (4 ≤ j) && decide (j < 12)) := by decide

theorem arithWritten_bit (old : Word) {j : Nat} (hj : j < 32) : (arithWritten old v).getLsbD j =
    if j < 4 then v.getLsbD j else decide (j < 12) && old.getLsbD j && !v.getLsbD j := by
  simp only [arithWritten, BitVec.getLsbD_or, BitVec.getLsbD_and, BitVec.getLsbD_not, modeMask_bit j hj, flagMask_bit j hj, decide_eq_true hj]
  split
  next h => simp [h]
  next h =>
    rw [decide_eq_false h, decide_eq_true (Nat.le_of_not_lt h)]
    simp [Bool.and_comm]

end Words

/-! ### GETCW and SETCW -/

/-- What GETCW does when it may issue. -/
def getcwBody (x : Nat) (d : SReg) (i : BitVec 11) (s : State) (_ : Nat) (t : Task) : Issue :=
  if i = 0#11 && t.loads ≠ [] then .stay s .waitData .none
  else match s.readCw x t i.toNat with
    | some v => .go s (t.setS d.val v) none
    | none => .fault .ILLEGAL 0 0

/-- What SETCW does when it may issue. -/
def setcwBody (i : BitVec 11) (a : SReg) (s : State) (_ : Nat) (t : Task) : Issue :=
  match t.writeCw i.toNat (t.sreg a.val) with
  | some t => .go s t none
  | none => .fault .ILLEGAL 0 0

section Exec

variable {s u : State} {x k : Nat} {i : BitVec 11}

theorem exec_getcw_eq (d : SReg) : exec (.getcw x d i) s =
    .next (s.issue x { w0 := encWord 0x18 d.val 0 0 i.toNat } (!cwExists i.toNat) [] (sregs [d.val]) (getcwBody x d i)) := rfl

theorem exec_setcw_eq (a : SReg) : exec (.setcw x i a) s =
    .next (s.issue x { w0 := encWord 0x19 0 a.val 0 i.toNat } (!cwExists i.toNat) (sregs [a.val]) [] (setcwBody i a)) := rfl

theorem getcwBody_waits {d : SReg} {t : Task} (hi : i = 0#11) (hl : t.loads ≠ []) : getcwBody x d i u k t = .stay u .waitData .none := by
  simp [getcwBody, hi, hl]

theorem getcwBody_reads {d : SReg} {t : Task} {v : Word} (hl : i = 0#11 → t.loads = []) (hv : u.readCw x t i.toNat = some v) :
    getcwBody x d i u k t = .go u (t.setS d.val v) none := by
  have hgo : ¬(i = 0#11 && t.loads ≠ []) = true := by simpa using hl
  rw [getcwBody, if_neg hgo, hv]

theorem setcwBody_writes {a : SReg} {t t' : Task} (hw : t.writeCw i.toNat (t.sreg a.val) = some t') : setcwBody i a u k t = .go u t' none := by
  rw [setcwBody, hw]

variable (h : cwExists i.toNat = true)
include h

theorem exec_getcw_waits {d : SReg} (hs : Issues s x 4 [] k u) (hi : i = 0#11) (hl : (s.task k).loads ≠ []) :
    exec (.getcw x d i) s = .next ((u.setTask k (u.task k)).setContext x { u.context x with phase := .waitData }) := by
  rw [exec_getcw_eq, h, Bool.not_true, issue_waitsData hs rfl (getcwBody_waits hi (mt supersede_loads_eq_nil.mp hl))]

theorem exec_getcw_reads {d : SReg} {v : Word} (hs : Issues s x 4 [] k u) (hl : i = 0#11 → (s.task k).loads = [])
    (hv : u.readCw x (s.task k) i.toNat = some v) : exec (.getcw x d i) s =
      .next (u.completes x k (((s.task k).supersede (sregs [d.val])).setS d.val v) ((s.task k).after 4)) := by
  have hl' : i = 0#11 → ((s.task k).supersede (sregs [d.val])).loads = [] := fun hi => supersede_loads_eq_nil.mpr (hl hi)
  rw [exec_getcw_eq, h, Bool.not_true, issue_next hs rfl (getcwBody_reads hl' ((readCw_supersede ..).trans hv)) (Task.setS_issued ..)]

theorem exec_setcw {a : SReg} {t' : Task} (hs : Issues s x 4 (sregs [a.val]) k u)
    (hw : (s.task k).writeCw i.toNat ((s.task k).sreg a.val) = some t') (ht : t'.issued = (s.task k).issued) :
    exec (.setcw x i a) s = .next (u.completes x k t' ((s.task k).after 4)) := by
  rw [exec_setcw_eq, h, Bool.not_true, issue_next_nil hs rfl (setcwBody_writes hw) ht]

end Exec

/-- Settles O11: an assigned index always reads and is always written, and the word written depends on the kind of control word. -/
theorem controlWords : Obligations.ControlWords := by
  intro s u x k i h t
  refine ⟨fun d hs => ⟨exec_getcw_waits h hs, fun hl => ?getcw⟩, fun a hs => ?setcw⟩
  case getcw =>
    obtain ⟨v, hv⟩ := readCw_isSome t u x h
    exact ⟨v, hv, exec_getcw_reads h hs hl hv⟩
  case setcw =>
    obtain ⟨t', hw, ht⟩ := writeCw_isSome t (t.sreg a.val) h
    refine ⟨t', hw, exec_setcw h hs hw ht, fun hi j hj => ?arith, fun hi => ?segment, fun hi => ?whole, fun hi => ?readOnly⟩
    case arith =>
      subst hi
      obtain rfl := Option.some.inj ((writeCw_arith t _).symm.trans hw)
      exact arithWritten_bit _ _ hj
    case segment =>
      obtain rfl := Option.some.inj ((writeCw_segment t _ hi).symm.trans hw)
      exact cword_setCw_self ..
    case whole =>
      obtain rfl := Option.some.inj ((writeCw_whole t _ hi).symm.trans hw)
      exact cword_setCw_self ..
    case readOnly => exact (Option.some.inj ((writeCw_readOnly t _ hi).symm.trans hw)).symm

end Sys2Proof.Machine
end

section
/-! PROOFS. VDACT and VCVT. -/

namespace Sys2Proof.Machine

/-! ### Flags and vector registers leave the count of instructions alone -/

@[simp] theorem Task.setV_issued (t : Task) (r : Nat) (v : Vec) : (t.setV r v).issued = t.issued := rfl
@[simp] theorem Task.flag_issued (t : Task) (f : Flags) : (t.flag f).issued = t.issued := rfl

@[simp] theorem Task.noteFlags_issued (t : Task) (f : Flags) (tid : Nat) : (t.noteFlags f tid).issued = t.issued := by
  unfold Task.noteFlags
  dsimp only
  split <;> split <;> rfl

/-! ### VDACT -/

/-- What VDACT does when it may issue. -/
def vdactBody (d a b : VReg) (fmt : BitVec 2) (fn : BitVec 6) (p : PReg) (s : State) (_ : Nat) (t : Task) : Issue :=
  let f := if fmt.toNat = 0 then Fmt.b32 else Fmt.b16
  let slope := if fmt.toNat = 0 then (t.cword 7).toNat else (t.cword 8).toNat % 2 ^ 16
  let r := laneFold (t.preg p.val) (t.vreg d.val)
    (fun l => dactLane f t.rm fn.toNat slope (element f (t.vreg a.val) 0 l) (element f (t.vreg b.val) 0 l)) setLane
  .go s ((t.setV d.val r.1).flag r.2) none

theorem exec_vdact_eq {fmt : BitVec 2} {fn : BitVec 6} (hfmt : fmt.toNat ≤ 1) (hfn : fn.toNat ≤ 6) (s : State) (x : Nat) (d a b : VReg) (p : PReg) :
    exec (.vdact x d a b fmt fn p) s = .next (s.issue x { w0 := encWord 0x27 d.val a.val b.val (vecFn p (fmt.toNat * 2 ^ 6 + fn.toNat)) } false
      (vregs [a.val, b.val]) (vregs [d.val]) (vdactBody d a b fmt fn p)) := by
  have hlegal : (decide (1 < fmt.toNat) || decide (6 < fn.toNat)) = false := by
    rw [decide_eq_false (Nat.not_lt.mpr hfmt), decide_eq_false (Nat.not_lt.mpr hfn), Bool.or_false]
  have hrun : exec (.vdact x d a b fmt fn p) s = execVdact x d a b fmt fn p s := rfl
  rw [hrun, execVdact, hlegal]
  rfl

/-! ### VCVT -/

/-- What VCVT from `f` to `g` does when it may issue. -/
def vcvtBody (f g : Fmt) (d a : VReg) (part : BitVec 3) (sr : Bool) (p : PReg) (s : State) (_ : Nat) (t : Task) : Issue :=
  let stoch := (sr || bitOf t.arith.toNat 2) && shorter f g
  let r := laneFold (t.preg p.val) (t.vreg d.val)
    (fun l => convert f g (if stoch then s.laneSr t l else t.rm) t.flush (element f (t.vreg a.val) part.toNat l))
    (fun v l n => setElement g v part.toNat l n)
  .go s ((t.setV d.val r.1).noteFlags r.2 (t.cword 1).toNat) none

/-- A lane format takes any part of the field, and a packed one those it has. -/
theorem part_lt {f : Fmt} {part : BitVec 3} (h : f.isLane ∨ part.toNat < partsOf f) : part.toNat < if f.isLane then 8 else partsOf f := by
  split
  next => exact part.isLt
  next hn => exact h.resolve_left hn

/-- Two different formats and a part that both have are legal (R146). -/
theorem conversion_legal {f g : Fmt} {part : BitVec 3} (hne : f ≠ g) (hf : f.isLane ∨ part.toNat < partsOf f)
    (hg : g.isLane ∨ part.toNat < partsOf g) (hlanes : f.isLane → g.isLane → part.toNat = 0) :
    (decide (f = g) || !decide (part.toNat < if f.isLane then 8 else partsOf f) || !decide (part.toNat < if g.isLane then 8 else partsOf g) ||
      (f.isLane && g.isLane && decide (part.toNat ≠ 0))) = false := by
  rw [decide_eq_false hne, decide_eq_true (part_lt hf), decide_eq_true (part_lt hg)]
  simpa using hlanes

theorem exec_vcvt_eq {src dst : BitVec 4} {part : BitVec 3} {f g : Fmt} (hsrc : Fmt.ofCode src.toNat = some f) (hdst : Fmt.ofCode dst.toNat = some g)
    (hne : f ≠ g) (hf : f.isLane ∨ part.toNat < partsOf f) (hg : g.isLane ∨ part.toNat < partsOf g)
    (hlanes : f.isLane → g.isLane → part.toNat = 0) (s : State) (x : Nat) (d a : VReg) (sr : Bool) (p : PReg) :
    exec (.vcvt x d a src dst part sr p) s = .next (s.issue x
      { w0 := encWord 0x24 d.val a.val (part.toNat * 4 + b2n sr * 2) (vecFn p (dst.toNat * 16 + src.toNat)) } false
      (vregs [a.val]) (vregs [d.val]) (vcvtBody f g d a part sr p)) := by
  have hrun : exec (.vcvt x d a src dst part sr p) s = execVcvt x d a src dst part sr p s := rfl
  simp only [hrun, execVcvt, hsrc, hdst, conversion_legal hne hf hg hlanes]
  rfl

/-- Settles O20: a legal function, format or pair of formats issues, and the body's fold over the lanes is the statement's. -/
theorem vectorDerivativesAndConversions : Obligations.VectorDerivativesAndConversions := by
  intro s u x k d a p t
  refine ⟨fun b fmt fn hfmt hfn hs => ?vdact, fun src dst part sr f g hsrc hdst hne hf hg hlanes hs => ?vcvt⟩
  case vdact =>
    intro e slope r
    have hgo : vdactBody d a b fmt fn p u k t = .go u ((t.setV d.val r.1).flag r.2) none := rfl
    rw [exec_vdact_eq hfmt hfn, issue_next hs rfl hgo rfl]
    rfl
  case vcvt =>
    intro rm r
    have hgo : vcvtBody f g d a part sr p u k t = .go u ((t.setV d.val r.1).noteFlags r.2 (t.cword 1).toNat) none := rfl
    rw [exec_vcvt_eq hsrc hdst hne hf hg hlanes, issue_next hs rfl hgo (Task.noteFlags_issued ..)]
    rfl

end Sys2Proof.Machine
end

section
/-! PROOFS. Claims, matrix commands and checks of an array at issue (R55 to R57, R75, R160 to R165). -/

namespace Sys2Proof.Machine

/-! ### Claims -/

theorem mcfgUnit_lt (quad : Bool) (q : Fin 4) : mcfgUnit quad q < 5 := by
  unfold mcfgUnit
  split <;> omega

/-- In full mode Q is zero, so the instruction's own fields refuse nothing. -/
theorem mcfg_fields_ok {quad : Bool} {q : Fin 4} (hq : quad = false → q = 0) : (!quad && decide (q.val ≠ 0)) = false := by
  cases quad with
  | false => simp [hq rfl]
  | true => rfl

section Claim

variable {s : State} {m v k : Nat}

/-- A task that owns no unit has no claim of its own in the way. -/
theorem ownInTheWay_of_unowned (h : ∀ w, w < 5 ∨ w = v → (s.engine m w).owner ≠ some k) : s.ownInTheWay m v k = false := by
  unfold State.ownInTheWay
  simp only [h 0 (.inl (by decide)), h 1 (.inl (by decide)), h 2 (.inl (by decide)), h 3 (.inl (by decide)), h 4 (.inl (by decide)), h v (.inr rfl),
    decide_false, Bool.or_false, Bool.and_false]

/-- An accepted configuration with no claim in the way and no fenced quadrant is claimed at once. -/
theorem claimNow_claims {cfg : Nat} (x : Nat) (t : Task) (i : Insn) (hcfg : s.cfgBad cfg v = false)
    (hown : ∀ w, w < 5 ∨ w = v → (s.engine m w).owner ≠ some k) (hfence : neededQuads v cfg &&& s.fld (Reg.MA_FENCE m) 0 4 = 0) :
    s.claimNow x k t i m v cfg = (s.claimUnit m v k cfg, t) := by
  unfold State.claimNow
  simp only [hcfg, ownInTheWay_of_unowned hown, hfence, hown 4 (.inl (by decide)), Bool.false_eq_true, ne_eq, not_true_eq_false, decide_false,
    Bool.and_false, if_false]

end Claim

section Mcfg

variable {s u : State} {x k : Nat} {a : SReg} {quad : Bool} {q : Fin 4} (hq : quad = false → q = 0)
include hq

theorem exec_mcfg_waits (hs : Issues s x 4 (sregs [a.val]) k u) (hheld : u.heldByOther (motifOf x) (mcfgUnit quad q) k = true)
    (hown : u.ownInTheWay (motifOf x) (mcfgUnit quad q) k = false) : exec (.mcfg x a quad q) s =
      .next ((u.setTask k { u.task k with wait := .claim ((s.task k).sreg a.val).toNat (mcfgUnit quad q) }).setContext x
        { u.context x with phase := .waitArray }) := by
  refine congrArg Host.Outcome.next (issue_stays_nil hs rfl ?_)
  simp only [mcfg_fields_ok hq, hheld, hown, Bool.not_false, Bool.and_self, Bool.false_eq_true, if_true, if_false]

theorem exec_mcfg_claims (hs : Issues s x 4 (sregs [a.val]) k u) (hheld : u.heldByOther (motifOf x) (mcfgUnit quad q) k = false)
    (hroom : u.queueFill (motifOf x) < arrayLimit) (hcfg : u.cfgBad ((s.task k).sreg a.val).toNat (mcfgUnit quad q) = false)
    (hown : ∀ v, v < 5 → (u.engine (motifOf x) v).owner ≠ some k)
    (hfence : neededQuads (mcfgUnit quad q) ((s.task k).sreg a.val).toNat &&& u.fld (Reg.MA_FENCE (motifOf x)) 0 4 = 0) :
    exec (.mcfg x a quad q) s = .next ((u.claimUnit (motifOf x) (mcfgUnit quad q) k ((s.task k).sreg a.val).toNat).completes x k (s.task k)
      ((s.task k).after 4)) := by
  have hnone : ∀ w, w < 5 ∨ w = mcfgUnit quad q → (u.engine (motifOf x) w).owner ≠ some k := fun w hw =>
    hown w (hw.elim id fun h => h ▸ mcfgUnit_lt quad q)
  refine congrArg Host.Outcome.next (issue_next_nil hs rfl ?_ rfl)
  simp only [mcfg_fields_ok hq, hheld, Nat.not_le.mpr hroom, claimNow_claims x (s.task k) _ hcfg hnone hfence, Bool.false_and, Bool.false_eq_true, if_false]

theorem exec_mcfgRel_ends (hs : Issues s x 4 [] k u) (howner : (u.engine (motifOf x) (mcfgUnit quad q)).owner = some k)
    (hquiet : (u.engine (motifOf x) (mcfgUnit quad q)).quiet = true) (hdata : (u.engine (motifOf x) (mcfgUnit quad q)).holdsData = false) :
    exec (.mcfgRel x quad q) s = .next ((u.endClaim (motifOf x) (mcfgUnit quad q)).completes x k (s.task k) ((s.task k).after 4)) := by
  refine congrArg Host.Outcome.next (issue_next_nil hs rfl ?_ rfl)
  simp only [mcfg_fields_ok hq, howner, hquiet, hdata, Bool.not_true, Bool.false_eq_true, ne_eq, not_true_eq_false, if_false]

end Mcfg

section Grant

variable {s : State} {x k c v : Nat} (htask : (s.context x).task = some k) (hwait : (s.task k).wait = .claim c v)
include htask hwait

theorem claimGrant_held (hheld : s.heldByOther (motifOf x) v k = true) : s.claimGrant x = s := by
  unfold State.claimGrant
  simp only [htask, hwait, hheld, if_true]

theorem claimGrant_claims (hheld : s.heldByOther (motifOf x) v k = false) (hcfg : s.cfgBad c v = false)
    (hown : ∀ w, w < 5 ∨ w = v → (s.engine (motifOf x) w).owner ≠ some k)
    (hfence : neededQuads v c &&& s.fld (Reg.MA_FENCE (motifOf x)) 0 4 = 0) : s.claimGrant x =
      ((s.claimUnit (motifOf x) v k c).setTask k { s.task k with wait := .none, pc := (s.task k).pc + 4#32, issued := (s.task k).issued + 1#32 }).setContext x
        { (s.claimUnit (motifOf x) v k c).context x with phase := .ready } := by
  have hctx : (s.claimUnit (motifOf x) v k c).context x = s.context x := rfl
  unfold State.claimGrant
  simp only [hctx, htask, hwait, hheld, claimNow_claims x (s.task k) _ hcfg hown hfence, Bool.false_eq_true, if_false]

end Grant

/-- Settles O27: an MCFG that issues, and a grant to a waiting one, make the claim by the one rule of R55. That a claim renewed by its owner goes
on (log entry 19) is outside the hypotheses. -/
theorem arrayClaims : Obligations.ArrayClaims := by
  intro s u x k a quad q t m unit cfg hq
  refine ⟨fun hs => ⟨exec_mcfg_waits hq hs, exec_mcfg_claims hq hs⟩, exec_mcfgRel_ends hq, fun htask c v hwait => ⟨fun hheld => ?held, ?granted⟩⟩
  case held => exact congrArg Host.Outcome.next (claimGrant_held htask hwait hheld)
  case granted => exact fun hheld hcfg hown hfence => congrArg Host.Outcome.next (claimGrant_claims htask hwait hheld hcfg hown hfence)

/-! ### Commands of the owner -/

/-- The state in which an instruction of task k that gives its unit a command completes: the command stands last in the unit's queue, numbered and
listed in the task's commands (R56, R160). -/
def State.commandQueued (u : State) (x k : Nat) (t : Task) (unit : Nat) (i : Insn) (word tid : Nat) (make : CmdInfo → MCmd) (load : Bool) : State :=
  let m := motifOf x
  let e := u.engine m unit
  let c := u.command x k t i word tid
  let v := (u.numbered.setTask k (t.issuedCmd c)).putEngine m unit { e with queue := e.queue ++ [make c], loadQueued := e.loadQueued || load }
  (v.setTask k { v.task k with pc := t.after 4, issued := t.issued + 1#32 }).setRunning x

/-- An instruction that writes no register and goes on with its task as the state has it. -/
theorem issue_go_stored {s u v : State} {x n k : Nat} {i : Insn} {reads : List LoadDst} {body : State → Nat → Task → Issue} (hs : Issues s x n reads k u)
    (hn : (if i.long then 8 else 4) = n) (hb : body u k (s.task k) = .go v (v.task k) none) : s.issue x i false reads [] body =
      (v.setTask k { v.task k with pc := (s.task k).after n, issued := (s.task k).issued + 1#32 }).setRunning x := by
  rw [issue_go_nil hs hn hb, Option.getD_none]

/-- A unit that a task owns and names by q, with no fenced quadrant, takes a further command: its motif's queues have room (R56, R57, R77). -/
structure Joins (u : State) (x k q unit : Nat) : Prop where
  owned : u.unitOf (motifOf x) k q = some unit
  unfenced : neededQuads unit (u.engine (motifOf x) unit).cfgNext &&& u.fld (Reg.MA_FENCE (motifOf x)) 0 4 = 0
  room : u.queueFill (motifOf x) < arrayLimit

section Owner

variable {s u : State} {x k unit : Nat}

/-- An instruction whose body is a command of the owner that its unit does not refuse. -/
theorem issue_joins {q : Nat} (hj : Joins u x k q unit) {reads : List LoadDst} {w : Nat} {body : State → Nat → Task → Issue}
    {check : State → Nat → Option Code} {make : CmdInfo → MCmd} {tid word : Nat} {load refuses : Bool} (hs : Issues s x 4 reads k u)
    (hbody : body u k (s.task k) = matrixIssue x q { w0 := w } tid word check make load refuses u k (s.task k)) (hcheck : check u unit = none) :
    s.issue x { w0 := w } false reads [] body = u.commandQueued x k (s.task k) unit { w0 := w } word tid make load := by
  obtain ⟨howned, hunfenced, hroom⟩ := hj
  refine issue_go_stored hs rfl (hbody.trans ?_)
  unfold matrixIssue
  simp only [howned, hunfenced, hcheck, Nat.not_le.mpr hroom, ne_eq, not_true_eq_false, if_false]

variable {q : Fin 4}

theorem exec_mpass_joins {n : BitVec 2} (hj : Joins u x k q.val unit) (hs : Issues s x 4 [] k u) (hn : n ≠ 0#2)
    (hfull : 1 < n.toNat → u.fullService = true) : exec (.mpass x n q) s =
      .next (u.commandQueued x k (s.task k) unit { w0 := encWord 0x31 0 0 0 (n.toNat + q.val * 8) } 0 0 (fun c => .mpass c n.toNat) false) := by
  have hlegal : (decide (n = 0#2) || (decide (1#2 < n) && !u.fullService)) = false := by
    rw [decide_eq_false hn, Bool.false_or, Bool.and_eq_false_imp]
    exact fun h => by rw [hfull (of_decide_eq_true h), Bool.not_true]
  exact congrArg Host.Outcome.next (issue_joins hj hs rfl (by rw [hlegal]; rfl))

theorem exec_mswap_joins (hj : Joins u x k q.val unit) (hs : Issues s x 4 [] k u) (hdrain : (u.engine (motifOf x) unit).undrained = false) :
    exec (.mswap x q) s = .next (u.commandQueued x k (s.task k) unit { w0 := encWord 0x34 0 0 0 (q.val * 2) } 0 0 .mswap false) :=
  congrArg Host.Outcome.next (issue_joins hj hs rfl (by rw [hdrain]; rfl))

section Source

variable {a : TReg} {b : SReg} {tr : Bool} {d : Desc} (hd : d = Desc.shifted ⟨((s.task k).treg a.val).toNat⟩ ((s.task k).sreg b.val))
  (hj : Joins u x k q.val unit) (hs : Issues s x 4 (tregs [a.val] ++ sregs [b.val]) k u)
  (hsource : u.sourceFault (motifOf x) (s.task k).slot d = none)
include hd hj hs hsource

theorem exec_mlds_joins (hview : wrongView d (cfgA (u.engine (motifOf x) unit).cfgNext) = false)
    (hrows : (if tr then d.ext0 else d.ext1) ≤ unitRows unit (u.engine (motifOf x) unit).cfgNext)
    (hcols : (if tr then d.ext1 else d.ext0) ≤ unitCols unit (u.engine (motifOf x) unit).cfgNext) : exec (.mlds x a b tr q) s =
      .next (u.commandQueued x k (s.task k) unit { w0 := encWord 0x32 0 a.val b.val (b2n tr + q.val * 2) } 0 0 (fun c => .mlds c d.raw tr) true) := by
  subst hd
  refine congrArg Host.Outcome.next (issue_joins hj hs (by simp only [hsource]; rfl) ?_)
  simp only [hview, Nat.not_lt.mpr hrows, Nat.not_lt.mpr hcols, decide_false, Bool.or_false, Bool.false_eq_true, if_false]

theorem exec_mstr_joins {c0 : BitVec 7} (hview : wrongView d (cfgB (u.engine (motifOf x) unit).cfgNext) = false)
    (hcols : (if tr then d.ext1 else d.ext0) ≤ unitCols unit (u.engine (motifOf x) unit).cfgNext)
    (hset : c0.toNat + (if tr then d.ext0 else d.ext1) ≤ setColumns unit) (hload : (u.engine (motifOf x) unit).loadQueued = true) :
    exec (.mstr x a b tr q c0) s = .next (u.commandQueued x k (s.task k) unit
      { w0 := encWord 0x33 0 a.val b.val (b2n tr + q.val * 2 + c0.toNat * 8) } 0 0 (fun c => .mstr c d.raw tr c0.toNat) false) := by
  subst hd
  refine congrArg Host.Outcome.next (issue_joins hj hs (by simp only [hsource]; rfl) ?_)
  simp only [hview, Nat.not_lt.mpr hcols, Nat.not_lt.mpr hset, hload, Bool.not_true, decide_false, Bool.or_false, Bool.false_eq_true, if_false]

end Source

theorem exec_mdrn_joins {d : TReg} {a b : SReg} {func : BitVec 9} {dst : Desc} (hq : bitsOf func.toNat 6 2 = q.val)
    (hdst : dst = Desc.flat ⟨((s.task k).treg d.val).toNat⟩) (hj : Joins u x k q.val unit)
    (hs : Issues s x 4 (tregs [d.val] ++ sregs [a.val, b.val]) k u)
    (hfault : u.mdrnFault (motifOf x) (s.task k).slot unit dst ((s.task k).sreg a.val).toNat func.toNat = none)
    (hrefuse : u.mdrnRefusal (motifOf x) unit dst ((s.task k).sreg a.val).toNat func.toNat = none) : exec (.mdrn x d a b func) s =
      .next (u.commandQueued x k (s.task k) unit { w0 := encWord 0x35 d.val a.val b.val func.toNat } ((s.task k).sreg a.val).toNat dst.tid
        (fun c => .mdrn c dst.raw ((s.task k).sreg a.val).toNat ((s.task k).sreg b.val).toNat func.toNat (s.task k).flush) false) := by
  subst hdst
  rw [← hq] at hj
  refine congrArg Host.Outcome.next (issue_joins hj hs (by simp only [hj.owned, Option.getD_some, hfault]; rfl) ?_)
  exact hrefuse

end Owner

/-- Settles O28: each command's body is a command of the owner, and its conditions are those under which its unit does not refuse it. -/
theorem arrayCommandsQueue : Obligations.ArrayCommandsQueue := by
  intro s u x k unit q t m e howned hunfenced hroom cfg queued
  have hj : Joins u x k q.val unit := ⟨howned, hunfenced, hroom⟩
  exact ⟨fun n hn hfull hs => exec_mpass_joins hj hs hn hfull, exec_mswap_joins hj,
    fun a b tr hs hsource => ⟨exec_mlds_joins rfl hj hs hsource, fun c0 => exec_mstr_joins rfl hj hs hsource⟩,
    fun d a b func hq hs => exec_mdrn_joins hq rfl hj hs⟩

/-! ### Checks -/

section Mchk

variable {s u : State} {x k unit : Nat} {t : Task}

/-- A check by the owner of an idle engine runs its body over the unit (R165). -/
theorem mchkIssue_runs {q : Nat} (howned : u.unitOf (motifOf x) k q = some unit) (hquiet : (u.engine (motifOf x) unit).quiet = true) (i : Insn)
    (body : State → Nat → Task → Nat → Issue) : mchkIssue x q i body u k t = body u k t unit := by
  unfold mchkIssue
  simp only [howned, hquiet, Bool.not_true, Bool.false_eq_true, if_false]

variable {d : SReg} {q : Fin 4} (hs : Issues s x 4 [] k u) (howned : u.unitOf (motifOf x) k q.val = some unit)
  (hquiet : (u.engine (motifOf x) unit).quiet = true)
include hs howned hquiet

theorem exec_mchk_reports : exec (.mchk x d q) s = .next (u.completes x k
    (((s.task k).supersede (sregs [d.val])).setS d.val (u.mchkWord (motifOf x) unit 0)) ((s.task k).after 4)) :=
  congrArg Host.Outcome.next (issue_next hs rfl (mchkIssue_runs howned hquiet ..) (Task.setS_issued ..))

theorem exec_mchkSelftest_reports (hunit : unit = 4) (hidle : (u.engine (motifOf x) 4).idleSets = true) (cells : List (Nat × Nat)) :
    let f := faultyQuads cells
    let v := if f = 0 then u else (u.fenceQuads (motifOf x) f).footEvent (motifOf x) .fenced false 0 f
    exec (.mchkSelftest x d q cells) s = .next (v.completes x k
      (((s.task k).supersede (sregs [d.val])).setS d.val (v.mchkWord (motifOf x) 4 f)) ((s.task k).after 4)) := by
  subst hunit
  intro f v
  refine congrArg Host.Outcome.next (issue_next hs rfl ((mchkIssue_runs howned hquiet ..).trans (if_neg ?_)) (Task.setS_issued ..))
  rw [hidle]
  decide

end Mchk

section FootCtl

variable (v : Word)

/-- The word that a write of MA_FOOT_CTL stores: TOL_EXP held to 4 to 20, and the three bits above it as written. -/
def footCtlWord : Word :=
  BitVec.ofNat 32 ((if bitsOf v.toNat 0 5 < 4 then 4 else if 20 < bitsOf v.toNat 0 5 then 20 else bitsOf v.toNat 0 5) + bitsOf v.toNat 5 3 * 32)

theorem footCtlWrite_eq (s : State) (m : Nat) : s.footCtlWrite m v = s.wr (Reg.MA_FOOT_CTL m) (footCtlWord v) := rfl

theorem footCtlWord_toNat : (footCtlWord v).toNat = max 4 (min 20 (v.toNat % 32)) + v.toNat / 32 % 8 * 32 := by
  have hclamp : (if v.toNat % 32 < 4 then 4 else if 20 < v.toNat % 32 then 20 else v.toNat % 32) = max 4 (min 20 (v.toNat % 32)) := by
    split
    · omega
    · split <;> omega
  simp only [footCtlWord, bitsOf, Nat.shiftRight_eq_div_pow, Nat.reducePow, Nat.div_one, hclamp, BitVec.toNat_ofNat]
  omega

theorem footCtlWord_tolerance : bitsOf (footCtlWord v).toNat 0 5 = max 4 (min 20 (v.toNat % 32)) := by
  simp only [footCtlWord_toNat, bitsOf, Nat.shiftRight_zero, Nat.reducePow]
  omega

theorem footCtlWord_controls : bitsOf (footCtlWord v).toNat 5 3 = v.toNat / 32 % 8 := by
  simp only [footCtlWord_toNat, bitsOf, Nat.shiftRight_eq_div_pow, Nat.reducePow]
  omega

theorem exec_maFootCtlWrite_eq (m : Nat) (s : State) : exec (.maFootCtlWrite m v) s = .next (s.footCtlWrite m v) := rfl

end FootCtl

/-- Settles O29: both forms of MCHK run their body over the owner's unit, and the word stored in MA_FOOT_CTL is the clamped one. -/
theorem arrayChecks : Obligations.ArrayChecks := by
  intro s u x k unit d q t m
  refine ⟨fun hs howned hquiet => ⟨exec_mchk_reports hs howned hquiet, fun cells hunit hidle =>
    exec_mchkSelftest_reports hs howned hquiet hunit hidle cells⟩, fun motif v => ⟨_, exec_maFootCtlWrite_eq v motif s, ?_⟩⟩
  rw [footCtlWrite_eq]
  exact ⟨State.wr_mem .., fun r hr => State.rd_wr_other s _ hr, (State.fld_wr_self ..).trans (footCtlWord_tolerance v),
    (State.fld_wr_self ..).trans (footCtlWord_controls v)⟩

end Sys2Proof.Machine
end

section
/-! PROOFS. What an array engine does with its queue: loads, chunks and swaps; drains, replays and self-tests (R56 to R76, R86). -/

namespace Sys2Proof.Machine

theorem exec_mldsDone_eq (m unit : Nat) (s : State) : exec (.mldsDone m unit) s = .next (s.mldsDone m unit).settleAborts := rfl
theorem exec_chunkStreamEnd_eq (m unit : Nat) (l : List ArrayUpset) (s : State) :
    exec (.chunkStreamEnd m unit l) s = .next (s.chunkStreamEnd m unit l).settleAborts := rfl
theorem exec_mswapEffect_eq (m unit : Nat) (s : State) : exec (.mswapEffect m unit) s = .next (s.mswapEffect m unit).settleAborts := rfl
theorem exec_drainStart_eq (m unit : Nat) (s : State) : exec (.drainStart m unit) s = .next (s.drainStart m unit).settleAborts := rfl
theorem exec_drainComplete_eq (m unit : Nat) (s : State) : exec (.drainComplete m unit) s = .next (s.drainComplete m unit).settleAborts := rfl
theorem exec_replayDone_eq (m unit : Nat) (l : List ArrayUpset) (s : State) :
    exec (.replayDone m unit l) s = .next (s.replayDone m unit l).settleAborts := rfl
theorem exec_arraySelftestDone_eq (m unit : Nat) (cells : List (Nat × Nat)) (s : State) :
    exec (.arraySelftestDone m unit cells) s = .next (s.selftestDone m unit cells).settleAborts := rfl

/-- The flags of a chunk's streams raised for the task of the last of them (R40, R62). -/
def State.flagLast (s : State) (l : List MCmd) (f : Flags) : State :=
  match l.getLast? with
  | some (.mstr info _ _ _) => s.flagTask info.key f 0
  | _ => s

section Steps

variable {s : State} {m unit : Nat} {e : Engine} (he : s.engine m unit = e)
include he

/-! ### Loads -/

/-- A load that may run and whose source answers fills its register, both registers for a binary32 tile, and leaves its chunk mark. -/
theorem mldsDone_loads {pre rest : List MCmd} {c : MCmd} (hsplit : splitLoad e.queue = some (pre, c, rest))
    (hmay : loadMayRun (cfgA e.cfg) pre = true) (hready : s.sourceReady c = true) :
    let r := s.readTile unit e.cfg c
    let reg := loadTarget e.stat pre
    let filled := if cfgA e.cfg = .b32 then (e.putReg reg r.2).putReg (!reg) r.2 else e.putReg reg r.2
    s.mldsDone m unit = (r.1.putEngine m unit { filled with queue := pre ++ .chunk reg :: rest }).endM c := by
  unfold State.mldsDone
  simp only [he, hsplit, hmay, hready, Bool.not_true, Bool.false_eq_true, if_false]

/-! ### Swaps -/

section Swap

variable {info : CmdInfo} {rest : List MCmd} (hqueue : e.queue = .mswap info :: rest)
include hqueue

theorem mswapEffect_waits (hother : (e.set (!e.active)).phase ≠ .empty) : s.mswapEffect m unit = s := by
  unfold State.mswapEffect
  simp only [he, hqueue]
  exact if_pos hother

theorem mswapEffect_swaps (hother : (e.set (!e.active)).phase = .empty) (hactive : (e.set e.active).phase ≠ .empty) : s.mswapEffect m unit =
    (s.putEngine m unit ({ e with active := !e.active, queue := rest }.putSet e.active { e.set e.active with phase := .draining })).endCmd info false := by
  unfold State.mswapEffect
  simp only [he, hqueue]
  rw [if_neg (not_not_intro hother), if_neg hactive]

end Swap

/-! ### Chunks -/

section Chunk

variable {reg : Bool} {run : List MCmd × List MCmd} {rest : List MCmd} (hqueue : e.queue = .chunk reg :: rest) (hrun : splitStreams rest = run)
include hqueue hrun

/-- While a replay or the self-test runs, streaming pauses (R75 order 2). -/
theorem chunkStreamEnd_pauses (upsets : List ArrayUpset) (h : e.drain = .replaying ∨ e.drain = .selftest) : s.chunkStreamEnd m unit upsets = s := by
  unfold State.chunkStreamEnd
  simp only [he, hqueue, hrun]
  refine if_pos ?_
  rcases h with h | h <;> simp [h]

/-- The log grows by the load of the register that the chunk names, and its streams (log entry 20). -/
theorem chunkStreamEnd_streams (upsets : List ArrayUpset) (hstreams : run.1 ≠ []) (hready : run.1.all s.sourceReady = true)
    (hphase : (e.set e.active).phase = .accumulating) (hreplay : e.drain ≠ .replaying) (htest : e.drain ≠ .selftest) :
    let t0 := e.set e.active
    let r := s.readStreams unit e.cfg run.1
    let y := streamChunk (streamCfg unit e.cfg e.pass t0.ctl) (e.reg reg) t0 r.2
    let log := logMore t0.log ((e.reg reg).load.toList ++ run.1)
    s.chunkStreamEnd m unit upsets = run.1.foldl State.endM ((r.1.flagLast run.1 y.2).putEngine m unit
      (({ e with stat := reg, queue := run.2 }).putSet e.active (upsets.foldl upsetSet { y.1 with log := log }))) := by
  have hbusy : (decide (run.1 = []) || decide (e.drain = .replaying) || decide (e.drain = .selftest)) = false := by
    simp [hstreams, hreplay, htest]
  have hopen : (e.set e.active).phase ≠ .empty := by
    rw [hphase]
    decide
  unfold State.chunkStreamEnd
  simp only [he, hqueue, hrun, hbusy, hready, hopen, Option.getD_some, Option.isSome_some, Bool.true_or, Bool.not_true, Bool.false_eq_true, if_true,
    if_false]
  rfl

end Chunk

end Steps

/-- Settles O30. That the log holds the loads that a tile's streams use is the model's choice (log entry 20). -/
theorem arrayEngineSteps : Obligations.ArrayEngineSteps := by
  intro s m unit e
  refine ⟨fun pre c rest hsplit hmay hready => ?load, fun info rest hqueue => ⟨fun hother => ?waits, fun hother hactive => ?swaps⟩,
    fun reg run rest hqueue hrun hstreams hready hphase upsets => ⟨fun h => ?pauses, fun hreplay htest => ?streams⟩⟩
  case load => rw [exec_mldsDone_eq, mldsDone_loads rfl hsplit hmay hready]
  case waits => rw [exec_mswapEffect_eq, mswapEffect_waits rfl hqueue hother]
  case swaps => rw [exec_mswapEffect_eq, mswapEffect_swaps rfl hqueue hother hactive]
  case pauses => rw [exec_chunkStreamEnd_eq, chunkStreamEnd_pauses rfl hqueue hrun upsets h]
  case streams =>
    exact congrArg (fun v : State => Host.Outcome.next v.settleAborts)
      (chunkStreamEnd_streams rfl hqueue hrun upsets hstreams hready hphase hreplay htest)

section Drains

variable {s : State} {m unit : Nat} {e : Engine} (he : s.engine m unit = e)
include he

/-! ### The start of a drain -/

theorem drainStart_reads {info : CmdInfo} {desc cmd dscale func : Nat} {flush : Bool} {rest : List MCmd}
    (hqueue : e.queue = .mdrn info desc cmd dscale func flush :: rest) (hidle : e.drain = .idle) (hphase : (e.set e.drainSet).phase = .draining)
    (hready : s.spansReady (jobAgent (slotOf info.key)) true (Desc.spans ⟨desc⟩) = true) :
    let v := s.putEngine m unit { e with
      queue := rest, drain := .reading, drainCmd := some (.mdrn info desc cmd dscale func flush), replays := 0, oldStats := s.saveStats m unit }
    s.drainStart m unit = if checkedPlait (e.set e.drainSet) ⟨desc⟩ then v
      else v.drainOut m unit e.cfg (e.set e.drainSet) info ⟨desc⟩ cmd dscale func flush true := by
  unfold State.drainStart
  simp only [he, hqueue, hidle, hphase, hready, ne_eq, not_true_eq_false, decide_false, Bool.or_false, Bool.not_true, Bool.false_eq_true, if_false]

/-! ### A phase for each order of a drain (log entry 45) -/

theorem drainComplete_not_reading (h : e.drain ≠ .reading) : s.drainComplete m unit = s := by
  unfold State.drainComplete
  simp only [he]
  split
  · exact absurd ‹_› h
  · rfl

theorem replayDone_not_replaying (h : e.drain ≠ .replaying) (upsets : List ArrayUpset) : s.replayDone m unit upsets = s := by
  unfold State.replayDone
  simp only [he]
  split
  · exact absurd ‹_› h
  · rfl

section Running

variable {info : CmdInfo} {desc cmd dscale func : Nat} {flush : Bool} (hcmd : e.drainCmd = some (.mdrn info desc cmd dscale func flush))
include hcmd

theorem drainComplete_checks (h : e.drain = .reading) : s.drainComplete m unit = s.drainChecked m unit info ⟨desc⟩ cmd dscale func flush := by
  unfold State.drainComplete
  simp only [he, hcmd, h]

/-- A replay with no upset of a drain that sends to the plait after its check: the log runs again into the cleared set, which is compared. -/
theorem replayDone_checks (h : e.drain = .replaying) (hplait : checkedPlait (e.set e.drainSet) ⟨desc⟩ = true) :
    let t := e.set e.drainSet
    let v := ((s.count (Reg.MA_REPLAY_COUNT m) 0 16 1).restoreStats m unit e.oldStats).setEngine m unit
      ({ e with replays := e.replays + 1 }.putSet e.drainSet t.cleared)
    let w := replayLog m unit e.drainSet t.log none [] v
    s.replayDone m unit [] = (w.setEngine m unit ((w.engine m unit).putSet (w.engine m unit).drainSet
      ((w.engine m unit).set (w.engine m unit).drainSet))).drainChecked m unit info ⟨desc⟩ cmd dscale func flush := by
  unfold State.replayDone
  simp only [he, hcmd, h, hplait, List.foldl_nil, if_true]

section Selftest

variable {cells : List (Nat × Nat)} (h : e.drain = .selftest)
include h

theorem selftestDone_fences (hfaulty : faultyQuads cells ≠ 0) : s.selftestDone m unit cells =
    ((s.fenceQuads m (faultyQuads cells)).footEvent m .fenced e.drainSet e.replays (faultyQuads cells)).failDrain m unit info ⟨desc⟩ := by
  unfold State.selftestDone
  simp only [he, hcmd, h, if_pos hfaulty]

theorem selftestDone_suspects (hnone : faultyQuads cells = 0) : s.selftestDone m unit cells =
    ((s.setArray m { s.array m with suspect := true }).footEvent m .corrected e.drainSet e.replays 0).failDrain m unit info ⟨desc⟩ := by
  unfold State.selftestDone
  simp only [he, hcmd, h, if_neg (not_not_intro hnone)]

end Selftest

end Running

end Drains

/-- Settles O31. That the values go out with the drain's start, or after the check of a checked plait drain, is the model's reading (log entry 49),
as is that an order out of its phase has no effect (45). -/
theorem drainsAndReplays : Obligations.DrainsAndReplays := by
  intro s m unit e t
  refine ⟨fun info desc cmd dscale func flush rest hqueue hidle hphase hready => ?start, fun info desc cmd dscale func flush hcmd =>
    ⟨fun h => ?complete, fun h => ?notReading, fun h hplait => ?replay, fun h up => ?notReplaying,
      fun h cells => ⟨fun hfaulty => ?fences, fun hnone => ?suspects⟩⟩⟩
  case start => rw [exec_drainStart_eq, drainStart_reads rfl hqueue hidle hphase hready]
  case complete => rw [exec_drainComplete_eq, drainComplete_checks rfl hcmd h]
  case notReading => rw [exec_drainComplete_eq, drainComplete_not_reading rfl h]
  case replay => rw [exec_replayDone_eq, replayDone_checks rfl hcmd h hplait]
  case notReplaying => rw [exec_replayDone_eq, replayDone_not_replaying rfl h up]
  case fences => rw [exec_arraySelftestDone_eq, selftestDone_fences rfl hcmd h hfaulty]
  case suspects => rw [exec_arraySelftestDone_eq, selftestDone_suspects rfl hcmd h hnone]

end Sys2Proof.Machine
end

section
/-! PROOFS. Plait reductions: what opens an entry, and how contributions, joins and outputs move its flits (R79 to R100). -/

namespace Sys2Proof.Machine

theorem exec_plaitOpen_eq (i : Nat) (v : Word) (s : State) : exec (.plaitOpen i v) s = .next (s.plaitOpen i v) := rfl
theorem exec_plaitContribution_eq (id : Nat) (s : State) : exec (.plaitContribution id) s = .next (s.plaitContribution id).settleAborts := rfl
theorem exec_plaitFallbackWrite_eq (id : Nat) (s : State) : exec (.plaitFallbackWrite id) s = .next (s.plaitFallback id).settleAborts := rfl
theorem exec_plaitJoin_eq (level node : Nat) (parity : Bool) (s : State) :
    exec (.plaitJoin level node parity) s = .next (s.plaitJoin level node parity) := rfl
theorem exec_plaitOutput_eq (i : Nat) (parity : Bool) (s : State) :
    exec (.plaitOutput i parity) s = .next ((s.plaitOutput i parity).collProgress i) := rfl
theorem exec_plaitEntryDone_eq (i : Nat) (s : State) : exec (.plaitEntryDone i) s = .next (s.plaitEntryDone i) := rfl

/-! ### Fields of an entry -/

/-- The flits and progress of an entry are those of the plait's map alone. -/
theorem entry_congr {s t : State} (h : t.plait = s.plait) (i : Nat) : t.entry i = s.entry i := by
  unfold State.entry
  rw [h]

/-- The present positions are those of the words between an entry's control word and its flags. -/
theorem plCount_congr {s t : State} {i : Nat} (h : ∀ a, Reg.PN_PLAIT_CTL i < a → a < Reg.PN_PLAIT_FLAGS i → t.rd a = s.rd a) :
    t.plCount i = s.plCount i := by
  simp only [Reg.PN_PLAIT_CTL, Reg.PN_PLAIT_FLAGS] at h
  have hpanel : t.rd (Reg.PN_PLAIT_PANEL i) = s.rd (Reg.PN_PLAIT_PANEL i) := by apply h <;> simp only [Reg.PN_PLAIT_PANEL] <;> omega
  have hglo : t.rd (Reg.PN_PLAIT_GMASK_LO i) = s.rd (Reg.PN_PLAIT_GMASK_LO i) := by apply h <;> simp only [Reg.PN_PLAIT_GMASK_LO] <;> omega
  have hghi : t.rd (Reg.PN_PLAIT_GMASK_HI i) = s.rd (Reg.PN_PLAIT_GMASK_HI i) := by apply h <;> simp only [Reg.PN_PLAIT_GMASK_HI] <;> omega
  have hmlo : t.rd (Reg.PN_PLAIT_MMASK_LO i) = s.rd (Reg.PN_PLAIT_MMASK_LO i) := by apply h <;> simp only [Reg.PN_PLAIT_MMASK_LO] <;> omega
  have hmhi : t.rd (Reg.PN_PLAIT_MMASK_HI i) = s.rd (Reg.PN_PLAIT_MMASK_HI i) := by apply h <;> simp only [Reg.PN_PLAIT_MMASK_HI] <;> omega
  simp only [State.plCount, State.plSlots, State.plPanels, State.plGrounds, State.plMotifs, State.fld, State.rd2, hpanel, hglo, hghi, hmlo, hmhi]

section SetEntryState

variable (s : State) (i v : Nat)

theorem rd_setEntryState (a : Nat) : (s.setEntryState i v).rd a = (s.setFld (Reg.PN_PLAIT_CTL i) 0 2 v).rd a := by
  unfold State.setEntryState
  split_ifs <;> rfl

@[simp] theorem setEntryState_mem : (s.setEntryState i v).mem = s.mem := by
  unfold State.setEntryState
  split_ifs <;> rfl

@[simp] theorem setEntryState_tokens : (s.setEntryState i v).tokens = s.tokens := by
  unfold State.setEntryState
  split_ifs <;> rfl

theorem rd_setEntryState_other {a : Nat} (h : a ≠ Reg.PN_PLAIT_CTL i) : (s.setEntryState i v).rd a = s.rd a :=
  (rd_setEntryState s i v a).trans (State.rd_setFld_other _ _ _ _ h)

theorem entryState_setEntryState : (s.setEntryState i v).entryState i = v % 4 := by
  simp only [State.entryState, State.fld, rd_setEntryState]
  exact State.fld_setFld_self s _ v (by decide)

end SetEntryState

/-! ### Opening -/

/-- The control word that a write of an entry's first word stores: the new word's RW fields, and the old word elsewhere (R100). -/
def plaitCtlWord (old v : Word) : Word := (old &&& ~~~0xFFFE8#32) ||| (v &&& 0xFFFE8#32)

theorem plaitCtlMask_getLsbD : ∀ j < 32, (0xFFFE8#32).getLsbD j = (decide (j = 3) || decide (5 ≤ j) && decide (j < 20)) := by decide

theorem plaitCtlWord_getLsbD (old v : Word) {j : Nat} (h5 : 5 ≤ j) (h20 : j < 20) : (plaitCtlWord old v).getLsbD j = v.getLsbD j := by
  have hmask : (0xFFFE8#32).getLsbD j = true := by rw [plaitCtlMask_getLsbD j (by omega)]; simp [h5, h20]
  simp only [plaitCtlWord, BitVec.getLsbD_or, BitVec.getLsbD_and, BitVec.getLsbD_not, hmask, Bool.not_true, Bool.and_false, Bool.and_true,
    Bool.false_or]

/-- The stored word's fields above SOFT and below the reserved bits are the written ones. -/
theorem bitsOf_plaitCtlWord (old v : Word) {lo n : Nat} (h5 : 5 ≤ lo) (h20 : lo + n ≤ 20) :
    bitsOf (plaitCtlWord old v).toNat lo n = bitsOf v.toNat lo n := by
  refine Nat.eq_of_testBit_eq fun j => ?_
  simp only [bitsOf, Nat.testBit_mod_two_pow, Nat.testBit_shiftRight, BitVec.testBit_toNat]
  by_cases hj : j < n
  · rw [plaitCtlWord_getLsbD old v (by omega) (by omega)]
  · simp only [hj, decide_false, Bool.false_and]

/-- An entry at a write with OPEN set, before it opens or is found faulty: its word stored, its flags, taps, counts and flits cleared
(R95, R96, R100). -/
def State.plaitCleared (s : State) (i : Nat) (v : Word) : State :=
  let s := s.wr (Reg.PN_PLAIT_CTL i) (plaitCtlWord (s.rd (Reg.PN_PLAIT_CTL i)) v)
  let s := (s.setFld (Reg.PN_PLAIT_FLAGS i) 0 6 0).setBit (Reg.PN_PLAIT_FLAGS i) 12 false
  let s := ((s.wr (Reg.PN_PLAIT_TAP_LOCAL i) 0#32).wr (Reg.PN_PLAIT_TAP_REDUCED i) 0#32).wr (Reg.PN_PLAIT_SOFT i) 0#32
  (s.wr (Reg.PN_PLAIT_DONE i) 0#32).setEntry i { exits := s.joinPanels }

/-- What makes an entry faulty at its opening (R90, R96). -/
def State.plaitBad (s : State) (i : Nat) (v : Word) : Prop :=
  s.plCount i = 0 ∨ s.plElements i = 0 ∨ 0x1000000 < s.plElements i ∨ 10 ≤ bitsOf v.toNat 10 4

section Cleared

variable (s : State) (i : Nat) (v : Word)

@[simp] theorem plaitCleared_mem : (s.plaitCleared i v).mem = s.mem := by
  simp only [State.plaitCleared, State.setEntry_mem, State.wr_mem, State.setBit_mem, State.setFld_mem]

/-- The registers that an opening clears are an entry's control word and its words from FLAGS on. -/
theorem rd_plaitCleared_other {a : Nat} (h : a < Reg.PN_PLAIT_CTL i ∨ Reg.PN_PLAIT_CTL i < a ∧ a < Reg.PN_PLAIT_FLAGS i) :
    (s.plaitCleared i v).rd a = s.rd a := by
  simp only [Reg.PN_PLAIT_CTL, Reg.PN_PLAIT_FLAGS] at h
  simp (disch := simp only [Reg.PN_PLAIT_CTL, Reg.PN_PLAIT_FLAGS, Reg.PN_PLAIT_TAP_LOCAL, Reg.PN_PLAIT_TAP_REDUCED, Reg.PN_PLAIT_SOFT,
    Reg.PN_PLAIT_DONE]; omega) only [State.plaitCleared, State.rd_setEntry, State.rd_setBit_other, State.rd_setFld_other, State.rd_wr_other]

theorem rd_plaitCleared_ctl : (s.plaitCleared i v).rd (Reg.PN_PLAIT_CTL i) = plaitCtlWord (s.rd (Reg.PN_PLAIT_CTL i)) v := by
  simp (disch := simp only [Reg.PN_PLAIT_CTL, Reg.PN_PLAIT_FLAGS, Reg.PN_PLAIT_TAP_LOCAL, Reg.PN_PLAIT_TAP_REDUCED, Reg.PN_PLAIT_SOFT,
    Reg.PN_PLAIT_DONE]; omega) only [State.plaitCleared, State.rd_setEntry, State.rd_setBit_other, State.rd_setFld_other, State.rd_wr_self,
    State.rd_wr_other]

theorem rd_plaitCleared_done : (s.plaitCleared i v).rd (Reg.PN_PLAIT_DONE i) = 0#32 := by
  simp only [State.plaitCleared, State.rd_setEntry, State.rd_wr_self]

theorem rd_plaitCleared_soft : (s.plaitCleared i v).rd (Reg.PN_PLAIT_SOFT i) = 0#32 := by
  simp (disch := simp only [Reg.PN_PLAIT_SOFT, Reg.PN_PLAIT_DONE]; omega) only [State.plaitCleared, State.rd_setEntry, State.rd_wr_self,
    State.rd_wr_other]

theorem flags_plaitCleared : (s.plaitCleared i v).fld (Reg.PN_PLAIT_FLAGS i) 0 6 = 0 := by
  unfold State.fld
  simp (disch := simp only [Reg.PN_PLAIT_FLAGS, Reg.PN_PLAIT_TAP_LOCAL, Reg.PN_PLAIT_TAP_REDUCED, Reg.PN_PLAIT_SOFT, Reg.PN_PLAIT_DONE]; omega)
    only [State.plaitCleared, State.rd_setEntry, State.rd_wr_other]
  exact (State.fld_setBit_apart _ _ _ (by decide) (.inr (by decide))).trans (State.fld_setFld_self _ _ 0 (by decide))

theorem entry_plaitCleared : (s.plaitCleared i v).entry i = { exits := ((s.plaitCleared i v).entry i).exits } := by
  simp only [State.plaitCleared, State.entry_setEntry_self]

theorem ctlFld_plaitCleared {lo n : Nat} (h5 : 5 ≤ lo) (h20 : lo + n ≤ 20) :
    (s.plaitCleared i v).fld (Reg.PN_PLAIT_CTL i) lo n = bitsOf v.toNat lo n := by
  unfold State.fld
  rw [rd_plaitCleared_ctl, bitsOf_plaitCtlWord _ _ h5 h20]

theorem plFabric_plaitCleared : (s.plaitCleared i v).plFabric i = v.getLsbD 6 := by
  unfold State.plFabric State.bit
  rw [rd_plaitCleared_ctl, bitOf_toNat, plaitCtlWord_getLsbD _ _ (by decide) (by decide)]

/-- A cleared entry is found faulty by its own words, and the output format written. -/
theorem plaitBad_iff : s.plaitBad i v ↔ (decide ((s.plaitCleared i v).plCount i = 0) || decide ((s.plaitCleared i v).plElements i = 0) ||
    decide (0x1000000 < (s.plaitCleared i v).plElements i) || decide (10 ≤ (s.plaitCleared i v).fld (Reg.PN_PLAIT_CTL i) 10 4)) = true := by
  have hcount : (s.plaitCleared i v).plCount i = s.plCount i := plCount_congr fun a h1 h2 => rd_plaitCleared_other s i v (.inr ⟨h1, h2⟩)
  have helems : (s.plaitCleared i v).plElements i = s.plElements i := by
    unfold State.plElements State.fld
    rw [rd_plaitCleared_other s i v (.inr (by simp only [Reg.PN_PLAIT_CTL, Reg.PN_PLAIT_ELEMENTS, Reg.PN_PLAIT_FLAGS]; omega))]
  rw [hcount, helems, ctlFld_plaitCleared s i v (by decide) (by decide)]
  simp only [State.plaitBad, Bool.or_eq_true, decide_eq_true_eq, or_assoc]

end Cleared

section Open

variable {s : State} {i : Nat} {v : Word}

theorem plaitOpen_ignored (h : 256 ≤ i ∨ s.entryState i = 1) : s.plaitOpen i v = s := by
  unfold State.plaitOpen
  exact if_pos (by simpa only [Bool.or_eq_true, decide_eq_true_eq] using h)

variable (hi : i < 256) (hst : s.entryState i ≠ 1)
include hi hst

theorem plaitOpen_heeded : ¬ (decide (256 ≤ i) || decide (s.entryState i = 1)) = true := by
  simp only [Bool.or_eq_true, decide_eq_true_eq, not_or]
  exact ⟨by omega, hst⟩

theorem plaitOpen_stores (hv : v.getLsbD 2 = false) : s.plaitOpen i v =
    s.wr (Reg.PN_PLAIT_CTL i) (plaitCtlWord (s.rd (Reg.PN_PLAIT_CTL i)) v) := by
  unfold State.plaitOpen
  simp only [if_neg (plaitOpen_heeded hi hst), hv, Bool.not_false, if_true]
  rfl

theorem plaitOpen_bad (hv : v.getLsbD 2 = true) (hbad : s.plaitBad i v) : s.plaitOpen i v =
    (((s.plaitCleared i v).setBit (Reg.PN_PLAIT_FLAGS i) 12 true).setEntryState i 3).raise .PLAIT_CONFIG .info (srcPanel 0) [i] := by
  unfold State.plaitOpen
  simp only [if_neg (plaitOpen_heeded hi hst), hv, Bool.not_true, Bool.false_eq_true, if_false]
  exact if_pos ((plaitBad_iff s i v).mp hbad)

/-- An entry that stays within the module takes its group's epoch and its SOFT bit, and is OPEN. -/
theorem plaitOpen_opens (hv : v.getLsbD 2 = true) (hgood : ¬ s.plaitBad i v) (hlocal : v.getLsbD 6 = false) :
    let c := s.plaitCleared i v
    let e := c.wr (Reg.PN_PLAIT_EPOCH i) (c.rd (Reg.HF_GROUP_EPOCH (c.plSlot i)))
    s.plaitOpen i v = (e.setBit (Reg.PN_PLAIT_CTL i) 4 (e.opensSoft i)).setFld (Reg.PN_PLAIT_CTL i) 0 2 1 := by
  intro c e
  have hfab : (e.setBit (Reg.PN_PLAIT_CTL i) 4 (e.opensSoft i)).plFabric i = false := by
    unfold State.plFabric
    rw [State.bit_setBit_apart _ _ _ (by decide) (by decide),
      State.bit_wr_other _ _ _ (by simp only [Reg.PN_PLAIT_EPOCH, Reg.PN_PLAIT_CTL]; omega)]
    exact (plFabric_plaitCleared s i v).trans hlocal
  unfold State.plaitOpen
  simp only [if_neg (plaitOpen_heeded hi hst), hv, Bool.not_true, Bool.false_eq_true, if_false]
  exact (if_neg (mt (plaitBad_iff s i v).mpr hgood)).trans (if_pos (by rw [Bool.not_eq_true']; exact hfab))

/-- A faulty entry is FAULT with CONFIG set; the event of it is no alert. -/
theorem plaitOpen_faults (hv : v.getLsbD 2 = true) (hbad : s.plaitBad i v) : (s.plaitOpen i v).entryState i = 3 ∧
    (s.plaitOpen i v).bit (Reg.PN_PLAIT_FLAGS i) 12 = true ∧ (s.plaitOpen i v).mem = s.mem := by
  rw [plaitOpen_bad hi hst hv hbad]
  refine ⟨(State.fld_congr (raise_regs _ _ (by decide) _ _) _ _ _).trans (entryState_setEntryState _ i 3), ?_, ?_⟩
  · rw [State.bit_congr (raise_regs _ _ (by decide) _ _), State.bit,
      rd_setEntryState_other _ _ _ (by simp only [Reg.PN_PLAIT_FLAGS, Reg.PN_PLAIT_CTL]; omega)]
    exact State.bit_setBit_self _ _ true (by decide)
  · rw [State.raise_mem, setEntryState_mem, State.setBit_mem, plaitCleared_mem]

section Opens

variable (hv : v.getLsbD 2 = true) (hgood : ¬ s.plaitBad i v) (hlocal : v.getLsbD 6 = false)
include hv hgood hlocal

theorem entryState_plaitOpen : (s.plaitOpen i v).entryState i = 1 := by
  rw [plaitOpen_opens hi hst hv hgood hlocal]
  exact State.fld_setFld_self _ _ 1 (by decide)

theorem entry_plaitOpen : (s.plaitOpen i v).entry i = (s.plaitCleared i v).entry i :=
  entry_congr (by rw [plaitOpen_opens hi hst hv hgood hlocal, State.setFld_plait, State.setBit_plait, State.wr_plait]) i

theorem plaitOpen_mem : (s.plaitOpen i v).mem = s.mem := by
  rw [plaitOpen_opens hi hst hv hgood hlocal, State.setFld_mem, State.setBit_mem, State.wr_mem, plaitCleared_mem]

theorem rd_plaitOpen_from_flags {a : Nat} (h : Reg.PN_PLAIT_FLAGS i ≤ a) : (s.plaitOpen i v).rd a = (s.plaitCleared i v).rd a := by
  simp only [Reg.PN_PLAIT_FLAGS] at h
  have hctl : a ≠ Reg.PN_PLAIT_CTL i := by simp only [Reg.PN_PLAIT_CTL]; omega
  have hepoch : a ≠ Reg.PN_PLAIT_EPOCH i := by simp only [Reg.PN_PLAIT_EPOCH]; omega
  rw [plaitOpen_opens hi hst hv hgood hlocal, State.rd_setFld_other _ _ _ _ hctl, State.rd_setBit_other _ _ _ hctl, State.rd_wr_other _ _ hepoch]

theorem flags_plaitOpen : (s.plaitOpen i v).fld (Reg.PN_PLAIT_FLAGS i) 0 6 = 0 := by
  rw [State.fld, rd_plaitOpen_from_flags hi hst hv hgood hlocal (Nat.le_refl _)]
  exact flags_plaitCleared s i v

theorem rd_plaitOpen_done : (s.plaitOpen i v).rd (Reg.PN_PLAIT_DONE i) = 0#32 := by
  rw [rd_plaitOpen_from_flags hi hst hv hgood hlocal (by simp only [Reg.PN_PLAIT_FLAGS, Reg.PN_PLAIT_DONE]; omega), rd_plaitCleared_done]

theorem rd_plaitOpen_soft : (s.plaitOpen i v).rd (Reg.PN_PLAIT_SOFT i) = 0#32 := by
  rw [rd_plaitOpen_from_flags hi hst hv hgood hlocal (by simp only [Reg.PN_PLAIT_FLAGS, Reg.PN_PLAIT_SOFT]; omega), rd_plaitCleared_soft]

theorem rd_plaitOpen_epoch : (s.plaitOpen i v).rd (Reg.PN_PLAIT_EPOCH i) = s.rd (Reg.HF_GROUP_EPOCH (bitsOf v.toNat 14 6)) := by
  have hctl : Reg.PN_PLAIT_EPOCH i ≠ Reg.PN_PLAIT_CTL i := by simp only [Reg.PN_PLAIT_EPOCH, Reg.PN_PLAIT_CTL]; omega
  have hslot : (s.plaitCleared i v).plSlot i = bitsOf v.toNat 14 6 := ctlFld_plaitCleared s i v (by decide) (by decide)
  have hlt : bitsOf v.toNat 14 6 < 64 := Nat.mod_lt _ (by decide)
  rw [plaitOpen_opens hi hst hv hgood hlocal, State.rd_setFld_other _ _ _ _ hctl, State.rd_setBit_other _ _ _ hctl, State.rd_wr_self, hslot,
    rd_plaitCleared_other s i v (.inl (by simp only [Reg.HF_GROUP_EPOCH, Reg.PN_PLAIT_CTL]; omega))]

end Opens

end Open

/-- Settles O32: a write with OPEN set clears the entry, and the words that it keeps decide whether the entry opens. That CONFIG shows the last
write of OPEN is the model's choice (log entry 50). -/
theorem plaitEntryOpens : Obligations.PlaitEntryOpens := by
  intro s i v ctl stored bad
  refine ⟨fun h => by rw [exec_plaitOpen_eq, plaitOpen_ignored h], fun hi hst => ⟨fun hv => ?stores, fun hv hbad => ?faulty,
    fun hv hgood hlocal => ?opens⟩⟩
  case stores => rw [exec_plaitOpen_eq, plaitOpen_stores hi hst hv]; rfl
  case faulty => exact ⟨_, exec_plaitOpen_eq i v s, plaitOpen_faults hi hst hv hbad⟩
  case opens =>
    exact ⟨_, exec_plaitOpen_eq i v s, entryState_plaitOpen hi hst hv hgood hlocal,
      by rw [entry_plaitOpen hi hst hv hgood hlocal]; exact entry_plaitCleared s i v, flags_plaitOpen hi hst hv hgood hlocal,
      rd_plaitOpen_done hi hst hv hgood hlocal, rd_plaitOpen_soft hi hst hv hgood hlocal, rd_plaitOpen_epoch hi hst hv hgood hlocal,
      plaitOpen_mem hi hst hv hgood hlocal⟩

/-! ### Contributions -/

/-- A contribution taken off those under way. -/
def State.withoutContrib (s : State) (id : Nat) : State := { s with contribs := s.contribs.filter (fun c => c.id ≠ id) }

section Contributions

variable {s : State} {id : Nat} {c : Contribution} (hc : s.contribs.find? (fun c => c.id = id) = some c)
include hc

theorem plaitContribution_refused (hsoft : s.plSoft c.entry = false) {f : Code × Option Nat} (hf : s.contributionFault c false = some f) :
    s.plaitContribution id = (s.withoutContrib id).refuseContribution c f.1 f.2 := by
  have hf' : State.contributionFault { s with contribs := s.contribs.filter (fun c => c.id ≠ id) } c false = some f := hf
  unfold State.plaitContribution
  simp only [hc, hsoft, Bool.false_eq_true, if_false, hf']
  rfl

/-- A contribution that passes its checks enters the tree, or the output stage where one position is present. -/
theorem plaitContribution_enters (hsoft : s.plSoft c.entry = false) (hf : s.contributionFault c false = none) {p : Nat}
    (hp : s.positionOf c = some p) :
    let i := c.entry
    let fl := flitsOf i s.tick ((s.kept c).length / 8 + 1) c.offset (s.kept c)
    let e := { s.entry i with next := (s.entry i).next.put 0 p (c.offset + c.vals.length) }
    let phys := 4096 * s.plMap i (p / 4096) + p % 4096
    let w := if c.motif % 2560 = p % 4096 then s.withoutContrib id
      else (s.withoutContrib id).count (Reg.GD_PLAIT_COUNT (s.plMap i (p / 4096) * 40 + p / 64 % 64)) 0 16 fl.length
    s.plaitContribution id = State.endContribution (State.numbered
      (if w.exitLevel i = 0 then w.setEntry i { e with out := e.out ++ fl } else (w.setEntry i e).setEdge 0 phys (s.edge 0 phys ++ fl))) c := by
  have hf' : State.contributionFault { s with contribs := s.contribs.filter (fun c => c.id ≠ id) } c false = none := hf
  have hp' : State.positionOf { s with contribs := s.contribs.filter (fun c => c.id ≠ id) } c = some p := hp
  unfold State.plaitContribution
  simp only [hc, hsoft, Bool.false_eq_true, if_false, hf', hp']
  by_cases hown : c.motif % 2560 = p % 4096
  · simp only [if_pos hown]
    rfl
  · simp only [if_neg hown]
    rfl

/-- On the fall-back path a contribution whose banks answer is written at its place in the partial area and counted (R92). -/
theorem plaitFallback_writes (hsoft : s.plSoft c.entry = true) (hf : s.contributionFault c true = none) {p : Nat}
    (hp : s.positionOf c = some p) :
    let i := c.entry
    let a := s.plPartial i + (s.rankOf i p * s.plE8 i + c.offset) * 4
    s.spanReady (jobAgent c.slot) true a (4 * (s.kept c).length) = true →
    let w := (s.withoutContrib id).writeDev (jobAgent c.slot) a (bytesOfWords (s.kept c))
    let done := (w.entry i).taken + (s.kept c).length
    let y := (w.setEntry i { w.entry i with taken := done }).wr (Reg.PN_PLAIT_SOFT i) (BitVec.ofNat 32 (min (2 ^ 32 - 1) done))
    s.plaitFallback id = State.endContribution
      (if y.plElements i * y.plCount i ≤ done && (w.entry i).sums = none then y.spawnSums i else y) c := by
  intro i a hready
  unfold State.plaitFallback
  simp only [hc, hsoft, Bool.not_true, Bool.false_eq_true, if_false, hf, hp]
  exact if_neg (by rw [Bool.not_eq_true', Bool.not_eq_false]; exact hready)

end Contributions

/-- Settles O33. One summing task for an entry (log entry 25), a SOFT_PROGRESS that saturates (26) and contributions checked whole (50) are the
model's choices. -/
theorem plaitContributions : Obligations.PlaitContributions := by
  intro s id c hc i v
  refine ⟨fun hsoft => ⟨fun f hf => ?refused, fun p hf hp => ?enters⟩, fun hsoft p hf hp => ?fallback⟩
  case refused => rw [exec_plaitContribution_eq, plaitContribution_refused hc hsoft hf]; rfl
  case enters => rw [exec_plaitContribution_eq, plaitContribution_enters hc hsoft hf hp]; rfl
  case fallback =>
    intro a hready
    rw [exec_plaitFallbackWrite_eq, plaitFallback_writes hc hsoft hf hp hready]
    rfl

/-! ### Joins -/

section Moves

variable {s : State} {f : Flit} {other : Nat × Nat}

theorem headMove_pass (g : Option Flit) (h : s.underLink f.entry other.1 other.2 = false) : s.headMove (some f) other g = .pass := by
  simp only [State.headMove, h, Bool.not_false, if_true]

theorem headMove_join {g : Flit} (he : g.entry = f.entry) (hb : g.base = f.base) (h : s.underLink f.entry other.1 other.2 = true) :
    s.headMove (some f) other (some g) = .join := by
  simp only [State.headMove, h, he, hb, Bool.not_true, Bool.false_eq_true, if_false, and_self, if_true]

end Moves

section Joins

variable {s : State} {level node : Nat} (h1 : 1 ≤ level) (h14 : level ≤ 14)
include h1 h14

theorem joinLevel_exists : ¬ (decide (level = 0) || decide (14 < level)) = true := by
  simp only [Bool.or_eq_true, decide_eq_true_eq]
  omega

theorem plaitJoin_empty (ha : s.edge (level - 1) (2 * node) = []) (hb : s.edge (level - 1) (2 * node + 1) = []) (parity : Bool) :
    s.plaitJoin level node parity = s := by
  unfold State.plaitJoin
  simp only [if_neg (joinLevel_exists h1 h14), childOf, Nat.add_zero, ha, hb]

theorem plaitJoin_joins {f g : Flit} {ra rb : List Flit} (ha : s.edge (level - 1) (2 * node) = f :: ra)
    (hb : s.edge (level - 1) (2 * node + 1) = g :: rb) (he : g.entry = f.entry) (hbase : g.base = f.base)
    (hunder : s.underLink f.entry (level - 1) (2 * node + 1) = true) :
    let r := joinVals (s.plInt f.entry) f.vals g.vals
    s.plaitJoin level node false = (((s.setEdge (level - 1) (2 * node) ra).setEdge (level - 1) (2 * node + 1) rb).flagEntry f.entry r.2).leaveNode
      level node ⟨f.entry, f.base, r.1, min f.age g.age⟩ := by
  have hmove : s.headMove (some f) (level - 1, 2 * node + 1) (some g) = .join := headMove_join he hbase hunder
  unfold State.plaitJoin
  simp only [if_neg (joinLevel_exists h1 h14), childOf, Nat.add_zero, ha, hb, List.head?_cons, hmove, if_true, Bool.false_eq_true, if_false]

theorem plaitJoin_passes_first {f : Flit} {ra : List Flit} (ha : s.edge (level - 1) (2 * node) = f :: ra)
    (hb : s.edge (level - 1) (2 * node + 1) = []) (hunder : s.underLink f.entry (level - 1) (2 * node + 1) = false) :
    s.plaitJoin level node false = (s.setEdge (level - 1) (2 * node) ra).leaveNode level node f := by
  have hmove : s.headMove (some f) (level - 1, 2 * node + 1) none = .pass := headMove_pass none hunder
  unfold State.plaitJoin
  simp only [if_neg (joinLevel_exists h1 h14), childOf, Nat.add_zero, ha, hb, List.head?_cons, List.head?_nil, hmove, ne_eq, not_true_eq_false,
    Bool.false_eq_true, if_false]

theorem plaitJoin_passes_second {g : Flit} {rb : List Flit} (ha : s.edge (level - 1) (2 * node) = [])
    (hb : s.edge (level - 1) (2 * node + 1) = g :: rb) (hunder : s.underLink g.entry (level - 1) (2 * node) = false) :
    s.plaitJoin level node false = (s.setEdge (level - 1) (2 * node + 1) rb).leaveNode level node g := by
  have hmove : s.headMove (some g) (level - 1, 2 * node) none = .pass := headMove_pass none hunder
  unfold State.plaitJoin
  simp only [if_neg (joinLevel_exists h1 h14), childOf, Nat.add_zero, ha, hb, List.head?_cons, List.head?_nil, hmove, ne_eq, not_true_eq_false,
    Bool.false_eq_true, if_false]

end Joins

/-! ### Output and the end of an entry -/

theorem placeReturned_none {s : State} {i : Nat} (h : (s.entry i).back = []) : s.placeReturned i = s := by
  unfold State.placeReturned
  rw [h]

theorem plaitOutput_sends {s : State} {i : Nat} (hi : i < 256) (hst : s.entryState i = 1) (hsoft : s.plSoft i = false) {f : Flit} {rest : List Flit}
    (hout : (s.entry i).out = f :: rest) (hback : (s.entry i).back = []) (hready : s.outReady i f.base f.vals.length = true) :
    s.plaitOutput i false = (s.setEntry i { s.entry i with out := rest }).plaitSend i f.base f.vals := by
  have hgo : ¬ (decide (256 ≤ i) || decide (s.entryState i ≠ 1)) = true := by simp [hi, hst]
  unfold State.plaitOutput
  simp only [if_neg hgo, placeReturned_none hback, hsoft, hout, hready, Bool.not_true, Bool.false_eq_true, if_false]

/-- The taps of a complete entry latched (R99). -/
def State.latchTaps (s : State) (i : Nat) : State :=
  if s.taps i then
    let t := s.wr (Reg.PN_PLAIT_TAP_LOCAL i) (tapOf (s.entry i).lanes)
    if t.plFabric i then t.wr (Reg.PN_PLAIT_TAP_REDUCED i) (tapOf ((s.entry i).reduced.foldl tapLanes [])) else t
  else s

/-- The collective of a complete fabric entry ended (R334). -/
def State.endEntryColl (s : State) (i : Nat) : State :=
  if s.plFabric i then
    let h := s.fld (Reg.PN_PLAIT_COLL i) 0 16
    let t : State := { s with collRun := s.collRun.put {} h { parts := (s.collRun.get {} h).parts } }
    t.setColl h 0 (BitVec.ofNat 32 (setBits (t.coll h 0).toNat 10 2 2))
  else s

/-- The taps of a complete entry shown with its layer (R316). -/
def State.latchLayer (s : State) (i : Nat) : State :=
  if s.fld (Reg.UP_TAP_CTL i) 0 8 = 0xFF then s
  else ((s.setBit (Reg.UP_TAP_CTL i) 8 true).wr (Reg.UP_TAP_LOCAL i) (s.rd (Reg.PN_PLAIT_TAP_LOCAL i))).wr
    (Reg.UP_TAP_REDUCED i) (s.rd (Reg.PN_PLAIT_TAP_REDUCED i))

/-- The token that an entry adds to (R97). -/
def State.entryToken (s : State) (i : Nat) : Nat := s.fld (Reg.PN_PLAIT_TOKEN i) 0 14 * 256 + s.fld (Reg.PN_PLAIT_TOKEN i) 14 8

section Done

variable (s : State) (i : Nat)

theorem rd_latchTaps_other {a : Nat} (hl : a ≠ Reg.PN_PLAIT_TAP_LOCAL i) (hr : a ≠ Reg.PN_PLAIT_TAP_REDUCED i) : (s.latchTaps i).rd a = s.rd a := by
  simp only [State.latchTaps]
  split_ifs
  · rw [State.rd_wr_other _ _ hr, State.rd_wr_other _ _ hl]
  · rw [State.rd_wr_other _ _ hl]
  · rfl

theorem latchTaps_mem : (s.latchTaps i).mem = s.mem := by simp only [State.latchTaps]; split_ifs <;> rfl
theorem latchTaps_tokens : (s.latchTaps i).tokens = s.tokens := by simp only [State.latchTaps]; split_ifs <;> rfl

theorem rd_foldEntry_other {a : Nat} (h : a ≠ Reg.PN_JOB_FLAGS (s.plSlot i)) : (s.foldEntry i).rd a = s.rd a := by
  simp only [State.foldEntry]
  split_ifs
  · rw [State.rd_congr (raise_regs _ _ (by decide) _ _), State.rd_setFld_other _ _ _ _ h]
  · rw [State.rd_setFld_other _ _ _ _ h]

theorem foldEntry_mem : (s.foldEntry i).mem = s.mem := by simp only [State.foldEntry]; split_ifs <;> rfl
theorem foldEntry_tokens : (s.foldEntry i).tokens = s.tokens := by simp only [State.foldEntry]; split_ifs <;> rfl

theorem endEntryColl_regs : (s.endEntryColl i).regs = s.regs := by
  simp only [State.endEntryColl, apply_ite State.regs, State.setColl_regs, ite_self]
theorem endEntryColl_mem : (s.endEntryColl i).mem = s.mem := by
  simp only [State.endEntryColl, apply_ite State.mem, State.setColl_mem, ite_self]
theorem endEntryColl_tokens : (s.endEntryColl i).tokens = s.tokens := by
  simp only [State.endEntryColl]
  split_ifs <;> simp only [State.setColl]

/-- The registers of the layers' taps lie below those of the entries. -/
theorem rd_latchLayer_plait {a : Nat} (h : Reg.PN_PLAIT_CTL i ≤ a) : (s.latchLayer i).rd a = s.rd a := by
  simp only [Reg.PN_PLAIT_CTL] at h
  simp only [State.latchLayer]
  split_ifs
  · rfl
  · rw [State.rd_wr_other _ _ (by simp only [Reg.UP_TAP_REDUCED]; omega), State.rd_wr_other _ _ (by simp only [Reg.UP_TAP_LOCAL]; omega),
      State.rd_setBit_other _ _ _ (by simp only [Reg.UP_TAP_CTL]; omega)]

theorem latchLayer_mem : (s.latchLayer i).mem = s.mem := by
  simp only [State.latchLayer, apply_ite State.mem, State.wr_mem, State.setBit_mem, ite_self]
theorem latchLayer_tokens : (s.latchLayer i).tokens = s.tokens := by
  simp only [State.latchLayer, apply_ite State.tokens, State.wr_tokens, State.setBit_tokens, ite_self]

/-- A complete entry with its flags folded, DONE, and its collective ended: what stands before its token counts. -/
def State.entryEnded (s : State) (i : Nat) : State := (((s.latchTaps i).foldEntry i).setEntryState i 2).endEntryColl i

theorem entryState_entryEnded : (s.entryEnded i).entryState i = 2 :=
  (State.fld_congr (endEntryColl_regs _ i) _ _ _).trans (entryState_setEntryState _ i 2)

theorem entryEnded_mem : (s.entryEnded i).mem = s.mem := by
  rw [State.entryEnded, endEntryColl_mem, setEntryState_mem, foldEntry_mem, latchTaps_mem]

theorem entryEnded_tokens : (s.entryEnded i).tokens = s.tokens := by
  rw [State.entryEnded, endEntryColl_tokens, setEntryState_tokens, foldEntry_tokens, latchTaps_tokens]

theorem entryToken_entryEnded : (s.entryEnded i).entryToken i = s.entryToken i := by
  have hrd : (s.entryEnded i).rd (Reg.PN_PLAIT_TOKEN i) = s.rd (Reg.PN_PLAIT_TOKEN i) := by
    rw [State.entryEnded, State.rd_congr (endEntryColl_regs _ i),
      rd_setEntryState_other _ _ _ (by simp only [Reg.PN_PLAIT_TOKEN, Reg.PN_PLAIT_CTL]; omega),
      rd_foldEntry_other _ _ (by simp only [Reg.PN_PLAIT_TOKEN, Reg.PN_JOB_FLAGS]; omega),
      rd_latchTaps_other _ _ (by simp only [Reg.PN_PLAIT_TOKEN, Reg.PN_PLAIT_TAP_LOCAL]; omega)
        (by simp only [Reg.PN_PLAIT_TOKEN, Reg.PN_PLAIT_TAP_REDUCED]; omega)]
  simp only [State.entryToken, State.fld, hrd]

end Done

theorem satTo_eq_min (m n : Nat) : satTo m n = min m n := by
  unfold satTo
  split <;> omega

theorem token_bumpToken_self (s : State) (a n : Nat) (err : Bool) : ((s.bumpToken a n err).token a).count = min 255 ((s.token a).count + n) ∧
    ((s.bumpToken a n err).token a).waiters = (s.token a).waiters := by
  have h : (s.bumpToken a n err).token a = { s.token a with
      count := satTo 255 ((s.token a).count + n), sat := (s.token a).sat || decide (255 < (s.token a).count + n), err := (s.token a).err || err } :=
    State.token_setToken_self ..
  rw [h]
  exact ⟨satTo_eq_min _ _, rfl⟩

section EntryDone

variable {s : State} {i : Nat}

theorem plaitEntryDone_ignored (h : 256 ≤ i ∨ s.entryState i ≠ 1 ∨ s.entryComplete i = false) : s.plaitEntryDone i = s := by
  unfold State.plaitEntryDone
  exact if_pos (by simpa only [Bool.or_eq_true, decide_eq_true_eq, Bool.not_eq_true', or_assoc] using h)

theorem plaitEntryDone_ends (hi : i < 256) (hst : s.entryState i = 1) (hall : s.entryComplete i = true) :
    s.plaitEntryDone i = ((s.entryEnded i).bumpToken ((s.entryEnded i).entryToken i) 1 false).latchLayer i := by
  have hgo : ¬ (decide (256 ≤ i) || decide (s.entryState i ≠ 1) || !s.entryComplete i) = true := by simp [hi, hst, hall]
  unfold State.plaitEntryDone
  exact if_neg hgo

/-- A complete entry is DONE and adds one to its token, with the waiters that it has. -/
theorem plaitEntryDone_counts (hi : i < 256) (hst : s.entryState i = 1) (hall : s.entryComplete i = true) :
    (s.plaitEntryDone i).entryState i = 2 ∧ (s.plaitEntryDone i).mem = s.mem ∧
    ((s.plaitEntryDone i).token (s.entryToken i)).count = min 255 ((s.token (s.entryToken i)).count + 1) ∧
    ((s.plaitEntryDone i).token (s.entryToken i)).waiters = (s.token (s.entryToken i)).waiters := by
  rw [plaitEntryDone_ends hi hst hall, entryToken_entryEnded]
  refine ⟨?_, by rw [latchLayer_mem, State.bumpToken_mem, entryEnded_mem], ?_⟩
  · rw [State.entryState, State.fld, rd_latchLayer_plait _ i (Nat.le_refl _), State.rd_bumpToken]
    exact entryState_entryEnded s i
  · have hbefore : (s.entryEnded i).token (s.entryToken i) = s.token (s.entryToken i) := by rw [State.token, State.token, entryEnded_tokens]
    rw [State.token, latchLayer_tokens, ← hbefore]
    exact token_bumpToken_self ..

end EntryDone

/-- Settles O34: a join by what its children's heads may do, the output stage, and the end of an entry with the token it adds to. How joins are
numbered (log entry 50) and that a command out of its place has no effect (45) are the model's choices. -/
theorem plaitJoinsAndOutput : Obligations.PlaitJoinsAndOutput := by
  refine ⟨fun s level node h1 h14 => ⟨fun ha hb parity => ?empty, fun f ra g rb ha hb he hbase hunder => ?joins,
    fun f ra ha hb hunder => ?first, fun g rb ha hb hunder => ?second⟩,
    fun s i hi hst hsoft f rest hout hback hready => ?output, fun s i => ⟨fun h => ?ignored, fun hi hst hall => ?ends⟩⟩
  case empty => rw [exec_plaitJoin_eq, plaitJoin_empty h1 h14 ha hb]
  case joins => rw [exec_plaitJoin_eq, plaitJoin_joins h1 h14 ha hb he hbase hunder]
  case first => rw [exec_plaitJoin_eq, plaitJoin_passes_first h1 h14 ha hb hunder]
  case second => rw [exec_plaitJoin_eq, plaitJoin_passes_second h1 h14 ha hb hunder]
  case output => rw [exec_plaitOutput_eq, plaitOutput_sends hi hst hsoft hout hback hready]
  case ignored => rw [exec_plaitEntryDone_eq, plaitEntryDone_ignored h]
  case ends => exact ⟨_, exec_plaitEntryDone_eq i s, plaitEntryDone_counts hi hst hall⟩

end Sys2Proof.Machine
end

section
/-! PROOFS. VQNT, VQNT_CAL and VDQ against the scale register file. -/

namespace Sys2Proof.Machine

@[simp] theorem Task.setP_issued (t : Task) (r : Nat) (v : Byte) : (t.setP r v).issued = t.issued := by
  unfold Task.setP
  split <;> rfl

/-- An instruction with no jump whose fields pass the check for ILLEGAL. -/
theorem issue_next_legal {s u v : State} {x n k : Nat} {i : Insn} {illegal : Bool} {reads writes : List LoadDst} {body : State → Nat → Task → Issue}
    {t : Task} (hl : illegal = false) (h : Issues s x n reads k u) (hn : (if i.long then 8 else 4) = n)
    (hb : body u k ((s.task k).supersede writes) = .go v t none) (ht : t.issued = (s.task k).issued) :
    s.issue x i illegal reads writes body = v.completes x k t ((s.task k).after n) := by
  rw [hl, issue_next h hn hb ht]

/-! ### The checks before the lanes run -/

section Checks

variable {u : State} {m slot : Nat} {base : Word} {bcast : Bool} {p : Byte} {f : Fmt}

/-- A part that the format has is legal (R147). -/
theorem quantPart_legal {part : BitVec 3} (h : part.toNat < partsOf f) : (!decide (part.toNat < partsOf f)) = false := by
  rw [decide_eq_true h, Bool.not_true]

/-- An asymmetric calibration is refused for no integer target (R106). -/
theorem calibration_legal {asym : Bool} (h : asym = true → f.isInt = true) : ¬ (asym && !f.isInt) = true := by
  simpa using h

theorem filter_not_eq_nil {c : Nat → Bool} {l : List Nat} (h : ∀ i ∈ l, c i = true) : l.filter (fun i => !c i) = [] :=
  List.filter_eq_nil_iff.mpr fun i hi => by simp [h i hi]

/-- With every active lane's entry in a window of the slot, no lane fails (R103). -/
theorem badEntries_eq_nil (h : ∀ l ∈ activeLanes p, u.ownsScale slot m (laneEntry base bcast l) = true) : u.badEntries m slot base bcast p = [] :=
  filter_not_eq_nil h

end Checks

/-- Settles O21: with owned entries, valid ones for VQNT, none of a body's checks stops it, and the rest of the body is the statement's next state.
That an element equal to a CONST entry's constant takes code 0 before it could escape (log entry 13) and that VDQ rounds by RNE (14) are the model's choices. -/
theorem quantisation : Obligations.Quantisation := by
  intro s u x k d a b target p t m on f e
  refine ⟨fun part esc bcast hpart hs hentry => ?vqnt, fun margin asym hasym hs hown => ?cal, fun part bcast hpart hs hown => ?vdq⟩
  case vqnt =>
    intro q r out
    have howned : u.badEntries m t.slot (t.sreg b.val) bcast on = [] := badEntries_eq_nil fun l hl => (hentry l hl).1
    have hvalid := filter_not_eq_nil fun l hl => (hentry l hl).2
    refine congrArg Host.Outcome.next (issue_next_legal (quantPart_legal hpart) hs rfl ?body ((Task.noteFlags_issued ..).trans (Task.setP_issued ..)))
    case body => exact (if_neg (not_not.mpr howned)).trans (if_neg (not_not.mpr hvalid))
  case cal =>
    intro c fl
    have howned : u.badEntries m t.slot (t.sreg b.val) false on = [] := badEntries_eq_nil hown
    refine congrArg Host.Outcome.next (issue_next_nil hs rfl ?body (Task.noteFlags_issued ..))
    case body => exact (if_neg (not_not.mpr howned)).trans (if_neg (calibration_legal hasym))
  case vdq =>
    intro code r
    have howned : u.badEntries m t.slot (t.sreg b.val) bcast on = [] := badEntries_eq_nil hown
    refine congrArg Host.Outcome.next (issue_next_legal (quantPart_legal hpart) hs rfl ?body ((Task.flag_issued ..).trans (Task.setP_issued ..)))
    case body => exact if_neg (not_not.mpr howned)

end Sys2Proof.Machine
end

section
/-! PROOFS. Scalar arithmetic, shifts, constants, branches and jumps (R135, R136). -/

namespace Sys2Proof.Machine

/-! ### Scalar results -/

theorem immBytes_encImm (op d a b : Nat) (i : Imm) : (if (encImm op d a b i).long then 8 else 4) = immBytes i := by
  cases i <;> rfl

theorem srcBytes_encAlu (fn op : Nat) (d a : SReg) (b : Src) : (if (encAlu fn op d a b).long then 8 else 4) = srcBytes b := by
  cases b with
  | reg r => rfl
  | imm i => exact immBytes_encImm ..

theorem encShift_short (fn : Nat) (d a : SReg) (n : ShAmt) : (if (encShift fn d a n).long then 8 else 4) = 4 := by
  cases n <;> rfl

/-- A write of s0 is discarded (R117). -/
@[simp] theorem Task.setS_zero (t : Task) (v : Word) : t.setS 0 v = t := if_pos rfl

@[simp] theorem Task.sreg_zero (t : Task) : t.sreg 0 = 0#32 := if_pos rfl

/-- A scalar instruction that issues completes with its result in s[d] (R135). -/
theorem issue_alu {s u : State} {x n k : Nat} {i : Insn} {reads : List LoadDst} {d : SReg} {f : Task → Word} (h : Issues s x n reads k u)
    (hn : (if i.long then 8 else 4) = n) : s.issue x i false reads (sregs [d.val]) (aluGo d f) =
      u.completes x k (((s.task k).supersede (sregs [d.val])).setS d.val (f ((s.task k).supersede (sregs [d.val])))) ((s.task k).after n) :=
  issue_next h hn rfl (Task.setS_issued ..)

/-- The same, with the result in the words of a statement. -/
theorem exec_alu {c : Instr} {s u : State} {x n k : Nat} {i : Insn} {reads : List LoadDst} {d : SReg} {f : Task → Word} {v : Word}
    (hc : exec c s = .next (s.issue x i false reads (sregs [d.val]) (aluGo d f))) (h : Issues s x n reads k u) (hn : (if i.long then 8 else 4) = n)
    (hv : f ((s.task k).supersede (sregs [d.val])) = v) : exec c s =
      .next (u.completes x k (((s.task k).supersede (sregs [d.val])).setS d.val v) (((s.task k).supersede (sregs [d.val])).after n)) := by
  rw [hc, issue_alu h hn, hv]
  rfl

/-! ### Arithmetic of words -/

section Words

variable (m n : Word)

theorem add_eq_ofNat : m + n = BitVec.ofNat 32 (m.toNat + n.toNat) := by
  rw [BitVec.ofNat_add, BitVec.ofNat_toNat, BitVec.ofNat_toNat, BitVec.setWidth_eq, BitVec.setWidth_eq]

theorem and_eq_ofNat : m &&& n = BitVec.ofNat 32 (m.toNat &&& n.toNat) := by
  rw [← BitVec.toNat_and, BitVec.ofNat_toNat, BitVec.setWidth_eq]

theorem or_eq_ofNat : m ||| n = BitVec.ofNat 32 (m.toNat ||| n.toNat) := by
  rw [← BitVec.toNat_or, BitVec.ofNat_toNat, BitVec.setWidth_eq]

theorem xor_eq_ofNat : m ^^^ n = BitVec.ofNat 32 (m.toNat ^^^ n.toNat) := by
  rw [← BitVec.toNat_xor, BitVec.ofNat_toNat, BitVec.setWidth_eq]

theorem sub_eq_ofInt : m - n = BitVec.ofInt 32 (m.toInt - n.toInt) := by
  rw [Int.sub_eq_add_neg, BitVec.ofInt_add, BitVec.ofInt_neg, BitVec.ofInt_toInt, BitVec.ofInt_toInt, BitVec.sub_eq_add_neg]

theorem mul_eq_ofInt : m * n = BitVec.ofInt 32 (m.toInt * n.toInt) := by
  rw [BitVec.ofInt_mul, BitVec.ofInt_toInt, BitVec.ofInt_toInt]

/-- The high half of the 64-bit signed product. -/
theorem mulh_eq_ofInt : ((m.signExtend 64 * n.signExtend 64) >>> 32).truncate 32 = BitVec.ofInt 32 (m.toInt * n.toInt / 2 ^ 32) := by
  have hprod : m.signExtend 64 * n.signExtend 64 = BitVec.ofInt 64 (m.toInt * n.toInt) := by
    rw [BitVec.ofInt_mul]
    rfl
  rw [hprod]
  generalize m.toInt * n.toInt = p
  apply BitVec.eq_of_toNat_eq
  simp only [BitVec.truncate_eq_setWidth, BitVec.toNat_setWidth, BitVec.toNat_ushiftRight, BitVec.toNat_ofInt, Nat.shiftRight_eq_div_pow]
  omega

theorem divu_eq : divu m n = if n.toNat = 0 then 0xFFFFFFFF#32 else BitVec.ofNat 32 (m.toNat / n.toNat) := by
  have hzero : n = 0#32 ↔ n.toNat = 0 := by rw [← BitVec.toNat_inj]; rfl
  unfold divu
  simp only [hzero]
  congr 1
  rw [← BitVec.toNat_udiv, BitVec.ofNat_toNat, BitVec.setWidth_eq]

theorem shl_eq_ofNat (c : Nat) : m <<< c = BitVec.ofNat 32 (m.toNat * 2 ^ c) := by
  apply BitVec.eq_of_toNat_eq
  rw [BitVec.toNat_shiftLeft, BitVec.toNat_ofNat, Nat.shiftLeft_eq]

theorem shr_eq_ofNat (c : Nat) : m >>> c = BitVec.ofNat 32 (m.toNat / 2 ^ c) := by
  rw [← Nat.shiftRight_eq_div_pow, ← BitVec.toNat_ushiftRight, BitVec.ofNat_toNat, BitVec.setWidth_eq]

theorem sra_eq_ofInt (c : Nat) : m.sshiftRight c = BitVec.ofInt 32 (m.toInt / 2 ^ c) := by
  rw [BitVec.sshiftRight, Int.shiftRight_eq_div_pow]
  norm_cast

/-- LUI's immediate stands in the top eleven bits. -/
theorem lui_eq_ofNat (i : BitVec 11) : i.signExtend 32 <<< 21 = BitVec.ofNat 32 (2 ^ 21 * i.toNat) := by
  apply BitVec.eq_of_toNat_eq
  rw [BitVec.toNat_shiftLeft, BitVec.toNat_ofNat, Nat.shiftLeft_eq, BitVec.toNat_signExtend]
  have := i.isLt
  split <;> simp [BitVec.toNat_setWidth] <;> omega

end Words

/-! ### Sums, logic, differences, products, shifts, constants -/

section Sources

variable {s u : State} {x k : Nat} {d a : SReg}

theorem exec_add_eq (b : Src) : exec (.add x d a b false) s = .next (s.issue x (encAlu 0 2 d a b) false (sregs [a.val] ++ srcReads b)
    (sregs [d.val]) (aluGo d (fun t => t.sreg a.val + t.src b))) := congrArg Host.Outcome.next (if_neg Bool.false_ne_true)

/-- The four operations with a second source `b` whose value is `v`. -/
theorem sumsAndLogic_complete {b : Src} {v : Word} (hs : Issues s x (srcBytes b) (sregs [a.val] ++ srcReads b) k u)
    (hv : ((s.task k).supersede (sregs [d.val])).src b = v) :
    let t := (s.task k).supersede (sregs [d.val])
    let m := (t.sreg a.val).toNat
    let done := fun r => u.completes x k (t.setS d.val (BitVec.ofNat 32 r)) (t.after (srcBytes b))
    exec (.add x d a b false) s = .next (done (m + v.toNat)) ∧ exec (.and x d a b) s = .next (done (m &&& v.toNat)) ∧
    exec (.or x d a b) s = .next (done (m ||| v.toNat)) ∧ exec (.xor x d a b) s = .next (done (m ^^^ v.toNat)) := by
  subst hv
  exact ⟨exec_alu (exec_add_eq b) hs (srcBytes_encAlu ..) (add_eq_ofNat ..), exec_alu rfl hs (srcBytes_encAlu ..) (and_eq_ofNat ..),
    exec_alu rfl hs (srcBytes_encAlu ..) (or_eq_ofNat ..), exec_alu rfl hs (srcBytes_encAlu ..) (xor_eq_ofNat ..)⟩

/-- The three shifts by an amount `n` whose value is `c`. -/
theorem shifts_complete {n : ShAmt} {c : Nat} (hs : Issues s x 4 (sregs [a.val] ++ amountReads n) k u)
    (hc : ((s.task k).supersede (sregs [d.val])).amount n = c) :
    let t := (s.task k).supersede (sregs [d.val])
    let m := t.sreg a.val
    let done := fun v => u.completes x k (t.setS d.val v) (t.after 4)
    exec (.shl x d a n) s = .next (done (BitVec.ofNat 32 (m.toNat * 2 ^ c))) ∧
    exec (.shr x d a n) s = .next (done (BitVec.ofNat 32 (m.toNat / 2 ^ c))) ∧
    exec (.sra x d a n) s = .next (done (BitVec.ofInt 32 (m.toInt / 2 ^ c))) := by
  subst hc
  exact ⟨exec_alu rfl hs (encShift_short ..) (shl_eq_ofNat ..), exec_alu rfl hs (encShift_short ..) (shr_eq_ofNat ..),
    exec_alu rfl hs (encShift_short ..) (sra_eq_ofInt ..)⟩

end Sources

/-- Settles O6: one body for the four operations, for each form of the second source. That an earlier load into s[d] no longer brings its data is the
model's choice (log entry 29). -/
theorem scalarSumsAndLogic : Obligations.ScalarSumsAndLogic := by
  intro s u x k d a b hs
  have hforms := sumsAndLogic_complete (d := d) hs rfl
  obtain ⟨hadd, hand, hor, hxor⟩ := hforms
  match b with
  | .reg r => exact ⟨hadd, hand, hor, hxor, Task.setS_zero _⟩
  | .imm (.short i) => exact ⟨hadd, hand, hor, hxor, Task.setS_zero _⟩
  | .imm (.long i) => exact ⟨hadd, hand, hor, hxor, Task.setS_zero _⟩

/-- Settles O7: the body's words are the statement's difference, halves of the product and quotient. That an earlier load into s[d] is superseded is the
model's choice (log entry 29). -/
theorem scalarDifferenceAndProducts : Obligations.ScalarDifferenceAndProducts := by
  intro s u x k d a b hs t m n done
  refine ⟨?sub, ?mul, ?mulh, ?divu⟩
  case sub => exact exec_alu rfl hs rfl (sub_eq_ofInt ..)
  case mul => exact exec_alu rfl hs rfl (mul_eq_ofInt ..)
  case mulh => exact exec_alu rfl hs rfl (mulh_eq_ofInt ..)
  case divu => exact exec_alu rfl hs rfl (divu_eq ..)

/-- Settles O8: for the amount of either form, each shift is a product or quotient by a power of two. -/
theorem scalarShifts : Obligations.ScalarShifts := by
  intro s u x k d a n hs
  match n, hs with
  | .reg b, hs => exact shifts_complete hs rfl
  | .const i, hs => exact shifts_complete hs rfl

/-- Settles O9: LI's word is the immediate of either form, LUI's is the immediate in the top bits, and s0 is no register that is kept. -/
theorem scalarConstants : Obligations.ScalarConstants := by
  intro s u x k d t
  refine ⟨fun i hs => ?li, fun i hs => ?lui, t.setS_zero, t.sreg_zero⟩
  case li => exact exec_alu rfl hs (immBytes_encImm ..) (by cases i <;> rfl)
  case lui => exact exec_alu rfl hs rfl (lui_eq_ofNat i)

/-! ### Branches and jumps -/

theorem displacement_eq (off : Imm) : displacement off = BitVec.ofInt 32 (immOffset off) := by
  cases off with
  | short i =>
    rw [displacement, immOffset, BitVec.ofInt_mul, BitVec.mul_comm]
    rfl
  | long i => exact (BitVec.ofInt_toInt ..).symm

/-- A target is its base's address plus the displacement, modulo 2^32 (R136). -/
theorem target_eq (base : Word) (off : Imm) : base + displacement off = BitVec.ofInt 32 (base.toInt + immOffset off) := by
  rw [displacement_eq, BitVec.ofInt_add, BitVec.ofInt_toInt]

theorem after_immBytes (t : Task) (off : Imm) : t.pc + insnBytes off = t.after (immBytes off) := by
  cases off <;> rfl

section Branches

variable {s u : State} {x k : Nat} {a b : SReg} {off : Imm}

/-- A branch that issues goes to its own address plus its displacement, or on to the next instruction. -/
theorem branch_goes {op : Nat} {c : Word → Word → Bool} {taken : Bool} (hoff : badTarget off = false)
    (hs : Issues s x (immBytes off) (sregs [a.val, b.val]) k u) (hc : c ((s.task k).sreg a.val) ((s.task k).sreg b.val) = taken) :
    branch x op a b off c s = u.completes x k (s.task k)
      (if taken then BitVec.ofInt 32 ((s.task k).pc.toInt + immOffset off) else (s.task k).after (immBytes off)) := by
  rw [branch, hoff, issue_completes_nil hs (immBytes_encImm ..) rfl rfl, hc, target_eq]
  cases taken <;> rfl

theorem jumpTarget_eq (t : Task) : t.jumpTarget a off = BitVec.ofInt 32 ((if a.val = 0 then t.pc else t.sreg a.val).toInt + immOffset off) :=
  target_eq ..

/-- A jump that issues goes to its target, with what it writes in its task. -/
theorem exec_jump {c : Instr} {op dn : Nat} {writes : List LoadDst} {f : Task → Task} {g : Task → Word} {t : Task} {pc : Word}
    (hc : exec c s = .next (s.issue x (encImm op dn a.val 0 off) (badTarget off) (sregs [a.val]) writes (fun s _ t => .go s (f t) (some (g t)))))
    (hoff : badTarget off = false) (hs : Issues s x (immBytes off) (sregs [a.val]) k u) (hf : f ((s.task k).supersede writes) = t)
    (ht : t.issued = (s.task k).issued) (hg : g ((s.task k).supersede writes) = pc) : exec c s = .next (u.completes x k t pc) := by
  subst hf hg
  rw [hc, hoff, issue_completes hs (immBytes_encImm ..) rfl ht, Option.getD_some]

end Branches

/-- Settles O10: a branch goes by its condition on s[a] and s[b], a jump to its target, and JL keeps the address of the next instruction. -/
theorem branchesAndJumps : Obligations.BranchesAndJumps := by
  intro s u x k a off hoff t at_
  refine ⟨fun b hs => ?branches, fun hs => ?j, fun d hs => ?jl⟩
  case branches =>
    intro m n goes
    refine ⟨?beq, ?bne, ?blt, ?bge⟩
    case beq => exact congrArg Host.Outcome.next (branch_goes hoff hs rfl)
    case bne => exact congrArg Host.Outcome.next (branch_goes hoff hs rfl)
    case blt => exact congrArg Host.Outcome.next (branch_goes hoff hs rfl)
    case bge =>
      have hle : (!m.slt n) = decide (n.toInt ≤ m.toInt) := by
        rw [BitVec.slt_eq_decide, ← decide_not]
        exact decide_eq_decide.mpr Int.not_lt
      exact congrArg Host.Outcome.next (branch_goes hoff hs hle)
  case j => exact exec_jump rfl hoff hs (Task.supersede_nil t) rfl (jumpTarget_eq t)
  case jl => exact exec_jump rfl hoff hs (congrArg _ (after_immBytes ..)) (Task.setS_issued ..) (jumpTarget_eq t)

end Sys2Proof.Machine
end

section
/-! PROOFS. Loads at issue: from the task's own window, from the motif's own banks, and outstanding ones (R119, R126 to R130, R151). -/

namespace Sys2Proof.Machine

theorem offBytes_encMem (op d a b : Nat) (off : MemOff) : (if (encMem op d a b off).long then 8 else 4) = offBytes off := by
  cases off <;> rfl

@[simp] theorem Task.loadInto_issued (t : Task) (d : LoadDst) (bs : List Byte) (err : Bool) : (t.loadInto d bs err).issued = t.issued := by
  cases d with
  | s r =>
    unfold Task.loadInto
    dsimp only
    split <;> exact Task.setS_issued ..
  | v r => rfl
  | t r => rfl

/-- A load `c` of `size` bytes into `d` from the address of `a` and `off`. -/
def IsLoad (x : Nat) (a : SReg) (off : MemOff) (d : LoadDst) (size : Nat) (c : Instr) : Prop :=
  (∃ r : SReg, d = .s r.val ∧ size = 4 ∧ c = .ldw x r a off) ∨ (∃ r : VReg, d = .v r.val ∧ size = 32 ∧ c = .vld x r a off) ∨
    (∃ r : TReg, d = .t r.val ∧ size = 64 ∧ c = .ldt x r a off)

section Load

variable {s u : State} {x k : Nat} {a : SReg} {off : MemOff} {d : LoadDst} {size : Nat} {c : Instr} {t : Task}

/-- LDW, VLD and LDT are one load into three kinds of register. -/
theorem IsLoad.runs (h : IsLoad x a off d size c) (s : State) : ∃ i : Insn, (if i.long then 8 else 4) = offBytes off ∧
    exec c s = .next (s.issue x i false (sregs [a.val]) [d] (loadIssue x d a.val size off)) := by
  obtain ⟨r, rfl, rfl, rfl⟩ | ⟨r, rfl, rfl, rfl⟩ | ⟨r, rfl, rfl, rfl⟩ := h
  all_goals exact ⟨_, offBytes_encMem .., rfl⟩

/-- A load whose body goes on completes. -/
theorem IsLoad.completes {v : State} {t : Task} (h : IsLoad x a off d size c) (hs : Issues s x (offBytes off) (sregs [a.val]) k u)
    (hb : loadIssue x d a.val size off u k ((s.task k).supersede [d]) = .go v t none) (ht : t.issued = (s.task k).issued) :
    exec c s = .next (v.completes x k t ((s.task k).after (offBytes off))) := by
  obtain ⟨i, hi, hrun⟩ := h.runs s
  rw [hrun, issue_next hs hi hb ht]

/-- A load whose body waits for data leaves its task as it was. -/
theorem IsLoad.waits (h : IsLoad x a off d size c) (hs : Issues s x (offBytes off) (sregs [a.val]) k u)
    (hb : loadIssue x d a.val size off u k ((s.task k).supersede [d]) = .stay u .waitData .none) :
    exec c s = .next ((u.setTask k (u.task k)).setContext x { u.context x with phase := .waitData }) := by
  obtain ⟨i, hi, hrun⟩ := h.runs s
  rw [hrun, issue_waitsData hs hi hb]

/-! ### What a load does when it may issue -/

theorem loadIssue_window (hsp : spaceOf off = 0) (h0 : 0 ≤ t.privAddr a.val size off) (h128 : t.privAddr a.val size off + size ≤ 128) :
    loadIssue x d a.val size off u k t =
      .go u (t.loadInto d ((List.range size).map (fun i => t.priv.get 0#8 ((t.privAddr a.val size off).toNat + i))) false) none := by
  have hok : privOk (t.privAddr a.val size off) size = true := by simp [privOk, h0, h128]
  unfold loadIssue
  rw [if_pos hsp]
  exact if_pos hok

variable (hsp : spaceOf off ≠ 0) (hprot : u.protect t.slot (t.devAddr a.val size off) size false = none)
include hsp hprot

theorem loadIssue_ownBanks (hown : inOwnBanks (motifOf x) (t.devAddr a.val size off) size = true)
    (hready : u.partsReady false (u.checkParts (jobAgent t.slot) false (t.devAddr a.val size off) size) = true) :
    let addr := t.devAddr a.val size off
    let parts := u.checkParts (jobAgent t.slot) false addr size
    let r := (u.refuseParts (jobAgent t.slot) false parts).readParts parts []
    loadIssue x d a.val size off u k t = .go r.1 (t.loadInto d (r.1.forward k r.1.tick addr r.2.1) r.2.2) none := by
  simp only [loadIssue, if_neg hsp, hprot]
  exact (if_pos hown).trans (if_pos hready)

variable (hout : inOwnBanks (motifOf x) (t.devAddr a.val size off) size = false)
include hout

theorem loadIssue_outstanding (hfew : t.loads.length < 8) :
    let addr := t.devAddr a.val size off
    let parts := u.checkParts (jobAgent t.slot) false addr size
    let v := u.refuseParts (jobAgent t.slot) false parts
    loadIssue x d a.val size off u k t = .go
      { v.askTags t.slot (.load k v.tick) (v.transactions false addr size) with tick := v.tick + 1 }
      { t with loads := t.loads ++ [⟨d, v.tick, addr, size, parts, motifOf x, false⟩] } none := by
  simp only [loadIssue, if_neg hsp, hprot, hout]
  exact if_neg (Nat.not_le.mpr hfew)

theorem loadIssue_full (hfull : 8 ≤ t.loads.length) : loadIssue x d a.val size off u k t = .stay u .waitData .none := by
  simp only [loadIssue, if_neg hsp, hprot, hout]
  exact if_pos hfull

end Load

/-- Settles O12: a load from the task's own window, one that is left outstanding, and one that waits for room among the eight. That an earlier load into
the same register no longer brings its data is the model's choice (log entry 29). -/
theorem loadsFromOwnMemory : Obligations.LoadsFromOwnMemory := by
  intro s u x k a off d size c hc hs t o addr
  have hload : IsLoad x a off d size c := hc
  refine ⟨fun hsp h0 h128 => ?window, fun hsp hprot hout => ⟨fun hfew => ?outstanding, fun hfull => ?full⟩⟩
  case window => exact hload.completes hs (loadIssue_window hsp h0 h128) (Task.loadInto_issued ..)
  case outstanding => exact hload.completes hs (loadIssue_outstanding hsp hprot hout hfew) rfl
  case full => exact hload.waits hs (loadIssue_full hsp hprot hout hfull)

/-- Settles O13: the banks answer at issue, and the register takes what was read with the task's own stores laid over it. That an earlier
load into it is superseded is the model's choice (log entry 29). -/
theorem loadsFromOwnBanks : Obligations.LoadsFromOwnBanks := by
  intro s u x k a off d size c hc hs t addr parts hsp hprot hown hready r
  have hload : IsLoad x a off d size c := hc
  exact hload.completes hs (loadIssue_ownBanks hsp hprot hown hready) (Task.loadInto_issued ..)

end Sys2Proof.Machine
end

section
/-! PROOFS. What the lanes of a vector result hold, and VADD to VGET (R139 to R144). -/

namespace Sys2Proof.Machine

/-! ### Lanes -/

section Lanes

variable (v : Vec) (n : Nat) {l j : Nat}

/-- Bits within a width are those of the number cut to it. -/
theorem bitsOf_mod_two_pow (w : Nat) {lo n width : Nat} (h : lo + n ≤ width) : bitsOf (w % 2 ^ width) lo n = bitsOf w lo n := by
  unfold bitsOf
  apply Nat.eq_of_testBit_eq
  intro i
  simp only [Nat.testBit_mod_two_pow, Nat.testBit_shiftRight]
  by_cases hi : i < n
  · simp [show lo + i < width by omega]
  · simp [hi]

theorem lane_lt : lane v l < 2 ^ 32 := Nat.mod_lt _ (by decide)

theorem lane_setLane_self (h : l < 8) : lane (setLane v l n) l = n % 2 ^ 32 := by
  unfold lane setLane
  rw [BitVec.toNat_ofNat, bitsOf_mod_two_pow _ (by omega), bitsOf_setBits_self]

theorem lane_setLane_other (h : l < 8) (hne : l ≠ j) : lane (setLane v j n) l = lane v l := by
  unfold lane setLane
  rw [BitVec.toNat_ofNat, bitsOf_mod_two_pow _ (by omega)]
  rcases Nat.lt_or_gt_of_ne hne with hlt | hgt
  · exact bitsOf_setBits_below _ _ _ (by omega)
  · exact bitsOf_setBits_above _ _ _ (by omega)

/-- Lanes stored one after the other where a condition holds: each is what was stored into it, and another is as it was. -/
theorem lane_foldl_setLane (c : Nat → Bool) (g : Nat → Nat) (hl : l < 8) (n : Nat) :
    lane ((List.range n).foldl (fun v j => if c j then setLane v j (g j) else v) v) l = if l < n ∧ c l then g l % 2 ^ 32 else lane v l := by
  induction n with
  | zero => simp
  | succ n ih =>
    rw [List.range_succ, List.foldl_append, List.foldl_cons, List.foldl_nil]
    by_cases hln : l = n
    · subst hln
      cases hc : c l with
      | true => simp [lane_setLane_self _ _ hl]
      | false => simp [hc, ih]
    · have hlt : l < n + 1 ↔ l < n := by omega
      simp only [hlt]
      rw [← ih]
      split
      · exact lane_setLane_other _ _ hl hln
      · rfl

end Lanes

/-! ### The fold over the lanes (R140) -/

section Fold

variable (p : Byte) (v : Vec) (f : Nat → Nat × Flags) (store : Vec → Nat → Nat → Vec)

/-- The stored register follows the active lanes' results alone. -/
theorem laneFold_fst : (laneFold p v f store).1 = (List.range 8).foldl (fun v l => if active p l then store v l (f l).1 else v) v := by
  unfold laneFold
  refine (List.foldl_hom Prod.fst fun acc l => ?_).symm
  split <;> rfl

/-- The flags follow the active lanes' flags alone. -/
theorem laneFold_snd : (laneFold p v f store).2 = (List.range 8).foldl (fun fl l => if active p l then fl ||| (f l).2 else fl) 0#8 := by
  unfold laneFold
  refine (List.foldl_hom Prod.snd fun acc l => ?_).symm
  split <;> rfl

/-- A flag is raised by those that were raised before, or by one of the lanes that count. -/
theorem getLsbD_foldl_or (c : Nat → Bool) (g : Nat → Flags) (i : Nat) (ls : List Nat) (fl : Flags) :
    (ls.foldl (fun fl l => if c l then fl ||| g l else fl) fl).getLsbD i = (fl.getLsbD i || ls.any (fun l => c l && (g l).getLsbD i)) := by
  induction ls generalizing fl with
  | nil => simp
  | cons l ls ih =>
    rw [List.foldl_cons, ih, List.any_cons, ← Bool.or_assoc]
    cases c l <;> simp

theorem lane_laneFold {l : Nat} (hl : l < 8) : lane (laneFold p v f setLane).1 l = if active p l then (f l).1 % 2 ^ 32 else lane v l := by
  simp [laneFold_fst, lane_foldl_setLane _ _ _ hl, hl]

/-- The flags raised are those of the active lanes. -/
theorem getLsbD_laneFold (i : Nat) : (laneFold p v f store).2.getLsbD i = (List.range 8).any (fun l => active p l && (f l).2.getLsbD i) := by
  rw [laneFold_snd, getLsbD_foldl_or, BitVec.getLsbD_zero, Bool.false_or]

end Fold

/-- Settles O17: a lane is stored into only where it is active, and only active lanes' flags are ORed. -/
theorem lanesOfVectorResults : Obligations.LanesOfVectorResults := fun p v f =>
  ⟨fun _ hl => lane_laneFold p v f hl, fun i _ => getLsbD_laneFold p v f setLane i⟩

/-! ### VADD to VEXP2 -/

/-- What a vector operation in format `f` does when it may issue; `bn` is the second source. -/
def vopBody (op : VOp) (f : Fmt) (d a : VReg) (bn : Nat) (p : PReg) (s : State) (_ : Nat) (t : Task) : Issue :=
  let r := laneFold (t.preg p.val) (t.vreg d.val)
    (fun l => vopLane op f t.rm (element f (t.vreg a.val) 0 l) (element f (t.vreg bn) 0 l) (element f (t.vreg d.val) 0 l)) setLane
  .go s ((t.setV d.val r.1).flag r.2) none

section Arithmetic

variable {s u : State} {x k : Nat} {d a : VReg} {b : Option VReg} {fmt : BitVec 2} {p : PReg} {f : Fmt} {op : VOp}

/-- A vector operation in a format that it takes completes with its lanes folded into v[d]. -/
theorem varith_completes (hf : laneFmt fmt = some f) (hop : vopTakes op f = true)
    (hs : Issues s x 4 (vregs ([a.val] ++ (b.map (·.val)).toList ++ (if op = .fma then [d.val] else []))) k u) :
    let t := (s.task k).supersede (vregs [d.val])
    let r := laneFold (t.preg p.val) (t.vreg d.val) (fun l => vopLane op f t.rm (element f (t.vreg a.val) 0 l)
      (element f (t.vreg ((b.map (·.val)).getD 0)) 0 l) (element f (t.vreg d.val) 0 l)) setLane
    varith op x d a b fmt p s = u.completes x k ((t.setV d.val r.1).flag r.2) (t.after 4) := by
  intro t r
  have hrun : varith op x d a b fmt p s = s.issue x
      { w0 := encWord 0x22 d.val a.val ((b.map (·.val)).getD 0) (vecFn p (fmt.toNat * 2 ^ 6 + vopCode op)) } false
      (vregs ([a.val] ++ (b.map (·.val)).toList ++ (if op = .fma then [d.val] else []))) (vregs [d.val])
      (vopBody op f d a ((b.map (·.val)).getD 0) p) := by
    simp only [varith, hf, hop]
    rfl
  exact hrun.trans (issue_next hs rfl rfl rfl)

end Arithmetic

/-- An I32 lane is a word: its sum and its product wrap, and no flag is raised (R141). -/
theorem vopLane_i32_add (rm : Rm) (m n c : Nat) : vopLane .add .i32 rm m n c = ((m + n) % 2 ^ 32, 0#8) := by
  have h : (BitVec.ofNat 32 m + BitVec.ofNat 32 n).toNat = (m + n) % 2 ^ 32 := by rw [← BitVec.ofNat_add, BitVec.toNat_ofNat]
  rw [← h]
  rfl

theorem vopLane_i32_mul (rm : Rm) (m n c : Nat) : vopLane .mul .i32 rm m n c = (m * n % 2 ^ 32, 0#8) := by
  have h : (BitVec.ofNat 32 m * BitVec.ofNat 32 n).toNat = m * n % 2 ^ 32 := by rw [← BitVec.ofNat_mul, BitVec.toNat_ofNat]
  rw [← h]
  rfl

/-- Settles O18: the two-operand operations, VFMA and the one-operand operations are one body; I32 lanes are words. -/
theorem vectorArithmetic : Obligations.VectorArithmetic := by
  intro s u x k d a b fmt p f hf t done one
  refine ⟨fun hs => ?two, fun hi hs => ?fma, fun hi hs => ?one, fun m n c => ⟨vopLane_i32_add .., vopLane_i32_mul ..⟩⟩
  case two =>
    have run : ∀ op, op ≠ .fma → vopTakes op f = true → varith op x d a (some b) fmt p s = done op := by
      intro op hop htakes
      refine varith_completes hf htakes ?_
      rw [if_neg hop]
      exact hs
    exact ⟨congrArg Host.Outcome.next (run .add nofun rfl), congrArg Host.Outcome.next (run .sub nofun rfl),
      congrArg Host.Outcome.next (run .mul nofun rfl), congrArg Host.Outcome.next (run .max nofun rfl), congrArg Host.Outcome.next (run .min nofun rfl)⟩
  case fma => exact congrArg Host.Outcome.next (varith_completes hf (decide_eq_true hi) hs)
  case one =>
    have run : ∀ op, op ≠ .fma → vopTakes op f = true → varith op x d a none fmt p s = one op := by
      intro op hop htakes
      refine varith_completes hf htakes ?_
      rw [if_neg hop]
      exact hs
    have htakes := decide_eq_true hi
    exact ⟨congrArg Host.Outcome.next (run .rcp nofun htakes), congrArg Host.Outcome.next (run .rsq nofun htakes),
      congrArg Host.Outcome.next (run .exp2 nofun htakes)⟩

/-! ### VCMP -/

section Compare

variable (c g : Nat → Bool)

/-- A mask built bit by bit has the bits of the places visited at which both conditions hold, and no other. -/
theorem mask_bit (n : Nat) :
    let w := (List.range n).foldl (fun w l => if c l then w + b2n (g l) * 2 ^ l else w) 0
    w < 2 ^ n ∧ ∀ l, w.testBit l = (decide (l < n) && (c l && g l)) := by
  induction n with
  | zero => simp
  | succ n ih =>
    obtain ⟨hlt, hbit⟩ := ih
    intro w
    have hw : w = 2 ^ n * b2n (c n && g n) + (List.range n).foldl (fun w l => if c l then w + b2n (g l) * 2 ^ l else w) 0 := by
      simp only [w, List.range_succ, List.foldl_append, List.foldl_cons, List.foldl_nil]
      cases c n with
      | true => simp [Nat.mul_comm, Nat.add_comm]
      | false => simp [b2n]
    have hb : b2n (c n && g n) < 2 := by
      unfold b2n
      split <;> omega
    refine ⟨?lt, fun l => ?bit⟩
    case lt =>
      rw [hw, Nat.pow_succ]
      have := Nat.mul_le_mul_left (2 ^ n) (Nat.le_of_lt_succ hb)
      omega
    case bit =>
      rw [hw, Nat.testBit_two_pow_mul_add _ hlt, hbit]
      rcases Nat.lt_trichotomy l n with h | h | h
      · simp [h, Nat.lt_succ_of_lt h]
      · subst h
        cases hcg : c l && g l <;> simp [b2n]
      · have hz : (b2n (c n && g n)).testBit (l - n) = false :=
          Nat.testBit_lt_two_pow (Nat.lt_of_lt_of_le hb (Nat.le_self_pow (by omega) 2))
        rw [if_neg (by omega), hz, decide_eq_false (by omega), Bool.false_and]

end Compare

/-- What VCMP in format `f` does when it may issue. -/
def vcmpBody (f : Fmt) (cond : Nat) (d : PReg) (a b : VReg) (p : PReg) (s : State) (_ : Nat) (t : Task) : Issue :=
  let r := (List.range 8).foldl (fun (acc : Nat × Flags) l =>
    if active (t.preg p.val) l then
      let c := cmpLane f cond (element f (t.vreg a.val) 0 l) (element f (t.vreg b.val) 0 l)
      (acc.1 + b2n c.1 * 2 ^ l, acc.2 ||| c.2)
    else acc) (0, 0#8)
  .go s ((t.setP d.val (BitVec.ofNat 8 r.1)).flag r.2) none

theorem exec_vcmp_eq {fmt : BitVec 2} {cond : BitVec 3} {f : Fmt} (hf : laneFmt fmt = some f) (hcond : cond.toNat ≤ 4)
    (hord : ¬ (cond.toNat = 4 ∧ f = .i32)) (s : State) (x : Nat) (d : PReg) (a b : VReg) (p : PReg) :
    exec (.vcmp x d a b fmt cond p) s = .next (s.issue x { w0 := encWord 0x2A d.val a.val b.val (vecFn p (fmt.toNat * 2 ^ 6 + cond.toNat)) } false
      (vregs [a.val, b.val]) [] (vcmpBody f cond.toNat d a b p)) := by
  have hlegal : (decide (laneFmt fmt = none) || decide (4 < cond.toNat) || (decide (cond.toNat = 4) && decide (laneFmt fmt = some .i32))) = false := by
    simpa [hf, Nat.not_lt.mpr hcond] using hord
  have hrun : exec (.vcmp x d a b fmt cond p) s = execVcmp x d a b fmt cond p s := rfl
  rw [hrun, execVcmp, hlegal, hf]
  rfl

/-- VCMP's mask has bit l exactly where lane l is active and meets the condition. -/
theorem vcmpBody_goes (f : Fmt) (cond : Nat) (d : PReg) (a b : VReg) (p : PReg) (u : State) (k : Nat) (t : Task) : ∃ (w : Byte) (fl : Flags),
    vcmpBody f cond d a b p u k t = .go u ((t.setP d.val w).flag fl) none ∧ ∀ l, l < 8 → w.getLsbD l =
      (active (t.preg p.val) l && (cmpLane f cond (element f (t.vreg a.val) 0 l) (element f (t.vreg b.val) 0 l)).1) := by
  refine ⟨_, _, rfl, fun l hl => ?_⟩
  rw [BitVec.getLsbD_ofNat, decide_eq_true hl, Bool.true_and]
  have hmask := (mask_bit (active (t.preg p.val)) (fun l => (cmpLane f cond (element f (t.vreg a.val) 0 l) (element f (t.vreg b.val) 0 l)).1) 8).2 l
  rw [decide_eq_true hl, Bool.true_and] at hmask
  rw [← hmask]
  congr 1
  refine (List.foldl_hom Prod.fst fun acc l => ?_).symm
  split <;> rfl

/-! ### VRED and the moves -/

theorem exec_vred_eq {op fmt : BitVec 2} {f : Fmt} (hf : laneFmt fmt = some f) (hop : op.toNat ≠ 3) (s : State) (x : Nat) (d : SReg) (a : VReg)
    (p : PReg) : exec (.vred x d a op fmt p) s = .next (s.issue x { w0 := encWord 0x28 d.val a.val 0 (vecFn p (fmt.toNat * 2 ^ 6 + op.toNat)) } false
      (vregs [a.val]) (sregs [d.val]) (fun s _ t =>
        let o := if op.toNat = 0 then VOp.add else if op.toNat = 1 then VOp.max else VOp.min
        let r := reduceLanes (fun m n => vopLane o f t.rm m n 0)
          (fun l => if active (t.preg p.val) l then some (element f (t.vreg a.val) 0 l) else none)
        .go s ((t.setS d.val (BitVec.ofNat 32 (r.1.getD (reduceEmpty op.toNat f)))).flag r.2) none)) := by
  have hlegal : (decide (laneFmt fmt = none) || decide (op.toNat = 3)) = false := by simp [hf, hop]
  have hrun : exec (.vred x d a op fmt p) s = execVred x d a op fmt p s := rfl
  rw [hrun, execVred, hlegal, hf]
  have hlt := op.isLt
  generalize op.toNat = n at hop hlt ⊢
  interval_cases n
  · rfl
  · rfl
  · rfl
  · exact absurd rfl hop

/-- A move that issues completes with its result in v[d] (R144). -/
theorem exec_setV {c : Instr} {s u : State} {x n k : Nat} {i : Insn} {reads : List LoadDst} {d : VReg} {f : Task → Vec}
    (hc : exec c s = .next (s.issue x i false reads (vregs [d.val]) (fun s _ t => .go s (t.setV d.val (f t)) none)))
    (h : Issues s x n reads k u) (hn : (if i.long then 8 else 4) = n) : exec c s =
      .next (u.completes x k (((s.task k).supersede (vregs [d.val])).setV d.val (f ((s.task k).supersede (vregs [d.val])))) ((s.task k).after n)) :=
  hc.trans (congrArg Host.Outcome.next (issue_next h hn rfl (Task.setV_issued ..)))

/-- A register built up lane by lane from lanes of others, as VSEL's. -/
theorem lane_foldl_lane (w : Nat → Vec) {l : Nat} (hl : l < 8) :
    lane ((List.range 8).foldl (fun v l => setLane v l (lane (w l) l)) (0#256)) l = lane (w l) l := by
  have h := lane_foldl_setLane 0#256 (fun _ => true) (fun l => lane (w l) l) hl 8
  rw [Nat.mod_eq_of_lt (lane_lt _)] at h
  simpa [hl] using h

/-- Settles O19: VCMP's mask bit by bit, VSEL's and VSPL's registers lane by lane, and VGET and VRED by their bodies. -/
theorem vectorComparesAndMoves : Obligations.VectorComparesAndMoves := by
  intro s u x k p t on
  refine ⟨fun d a b fmt cond f hf hcond hord hs => ?vcmp, fun d a b hs => ?vsel, fun d a hs => ?vspl, fun d a l hs => ?vget,
    fun d a op fmt f hf hop hs => ?vred⟩
  case vcmp =>
    obtain ⟨w, fl, hgo, hbits⟩ := vcmpBody_goes f cond.toNat d a b p u k t
    refine ⟨w, fl, ?_, hbits⟩
    rw [exec_vcmp_eq hf hcond hord, issue_next_nil hs rfl hgo (Task.setP_issued ..)]
  case vsel =>
    exact ⟨_, exec_setV rfl hs rfl, fun l hl => lane_foldl_lane _ hl⟩
  case vspl =>
    refine ⟨_, exec_setV rfl hs rfl, fun l hl => ?_⟩
    rw [lane_laneFold _ _ _ hl]
    exact congrArg (fun n => if on l then n else lane (t.vreg d.val) l) (Nat.mod_eq_of_lt (t.sreg a.val).isLt)
  case vget => exact congrArg Host.Outcome.next (issue_next hs rfl rfl (Task.setS_issued ..))
  case vred =>
    intro o r
    exact (exec_vred_eq hf hop ..).trans (congrArg Host.Outcome.next (issue_next hs rfl rfl ((Task.flag_issued ..).trans (Task.setS_issued ..))))

end Sys2Proof.Machine
end

section
/-! PROOFS. Deferred faults taken (R150, R152, R200). -/

namespace Sys2Proof.Machine

theorem State.alive_congr {s t : State} (h : t.tasks = s.tasks) (k : Nat) : t.alive k = s.alive k := by
  rw [State.alive, State.alive, h]

/-- A deferred fault off the list, with its exception record written for the context that it is charged to (R152). -/
def State.deferredRecorded (s : State) (i : Nat) (d : Deferred) (x : Nat) : State :=
  { s with deferred := s.deferred.eraseIdx i }.writeExc d.code x (slotOf d.cmd.key) true d.cmd.pc d.cmd.w0 d.cmd.w1 d.addr d.detail

section Report

variable {s : State} {i : Nat} {d : Deferred}

theorem alive_deferredRecorded (x k : Nat) : (s.deferredRecorded i d x).alive k = s.alive k :=
  (State.alive_congr (writeExc_frame ..).2 k).trans rfl

variable (hd : s.deferred[i]? = some d)
include hd

/-- A task inside an instruction takes no fault. -/
theorem deferredReport_inside (ha : s.alive d.cmd.key = true) (hw : (s.task d.cmd.key).wait ≠ .none) : s.deferredReport i = s := by
  have hin : (s.alive d.cmd.key && !(s.task d.cmd.key).atBoundary) = true := by simp [ha, Task.atBoundary, hw]
  simp only [State.deferredReport, hd]
  exact if_pos hin

/-- A task at a boundary takes it in its context, which is FAULTED. -/
theorem deferredReport_boundary {x : Nat} (ha : s.alive d.cmd.key = true) (hw : (s.task d.cmd.key).wait = .none)
    (hx : s.ctxOfTask d.cmd.key = some x) (hctx : ((s.deferredRecorded i d x).context x).task = some d.cmd.key) :
    s.deferredReport i = ((s.deferredRecorded i d x).setContext x { (s.deferredRecorded i d x).context x with phase := .faulted }).taskFault
      d.cmd.key d.code (motifOf x) := by
  have hout : ¬ (s.alive d.cmd.key && !(s.task d.cmd.key).atBoundary) = true := by simp [Task.atBoundary, hw]
  have halive : State.alive { s with deferred := s.deferred.eraseIdx i } d.cmd.key = true := ha
  have hplace : State.ctxOfTask { s with deferred := s.deferred.eraseIdx i } d.cmd.key = some x := hx
  have hholds : ((s.deferredRecorded i d x).alive d.cmd.key && decide (((s.deferredRecorded i d x).context x).task = some d.cmd.key)) = true := by
    rw [alive_deferredRecorded, ha, decide_eq_true hctx, Bool.true_and]
  simp only [State.deferredReport, hd, if_neg hout, if_pos halive, hplace, Option.getD_some]
  exact congrArg (fun v => State.taskFault v d.cmd.key d.code (motifOf x)) (if_pos hholds)

/-- A task that has ended takes it for the context that it last held. -/
theorem deferredReport_ended {e : Ended} (ha : s.alive d.cmd.key = false) (he : s.ended.get none d.cmd.key = some e) :
    s.deferredReport i = (s.deferredRecorded i d e.ctx).taskFault d.cmd.key d.code (motifOf e.ctx) := by
  have hout : ¬ (s.alive d.cmd.key && !(s.task d.cmd.key).atBoundary) = true := by simp [ha]
  have hdead : ¬ State.alive { s with deferred := s.deferred.eraseIdx i } d.cmd.key = true := fun h => Bool.false_ne_true (ha.symm.trans h)
  have hgone : ¬ ((s.deferredRecorded i d e.ctx).alive d.cmd.key &&
      decide (((s.deferredRecorded i d e.ctx).context e.ctx).task = some d.cmd.key)) = true := by
    rw [alive_deferredRecorded, ha, Bool.false_and]
    exact Bool.false_ne_true
  simp only [State.deferredReport, hd, if_neg hout, if_neg hdead, he, Option.map_some, Option.getD_some]
  exact congrArg (fun v => State.taskFault v d.cmd.key d.code (motifOf e.ctx)) (if_neg hgone)

end Report

/-- Settles O26: a task that has ended or stands at an instruction boundary takes the fault, one inside an instruction does not. Which waits count as
inside an instruction is the model's choice (log entry 53). -/
theorem deferredFaultTaken : Obligations.DeferredFaultTaken := by
  intro s i d hd k v taken
  have hrun : exec (.deferredFaultReport i) s = .next (s.deferredReport i) := rfl
  refine ⟨fun ha hw => ?inside, fun ha hw x hx hctx => ?boundary, fun ha e he => ?ended⟩
  case inside => rw [hrun, deferredReport_inside hd ha hw]
  case boundary => rw [hrun, deferredReport_boundary hd ha hw hx hctx]; rfl
  case ended => rw [hrun, deferredReport_ended hd ha he]; rfl

end Sys2Proof.Machine
end

section
/-! PROOFS. The words of an instruction: their fields, the instruction that they pick, and the words of each instruction (R132 to R134). -/

namespace Sys2Proof.Machine

/-! ### Fields as numbers -/

theorem bitsOf_eq_div_mod (w lo n : Nat) : bitsOf w lo n = w / 2 ^ lo % 2 ^ n := by
  rw [bitsOf, Nat.shiftRight_eq_div_pow]

theorem b2n_false : b2n false = 0 := rfl
theorem b2n_true : b2n true = 1 := rfl

theorem b2n_lt (b : Bool) : b2n b < 2 := by
  cases b <;> decide

theorem bitOf_eq_iff {w i : Nat} {b : Bool} : bitOf w i = b ↔ w / 2 ^ i % 2 = b2n b := by
  rw [bitOf, Nat.shiftRight_eq_div_pow]
  cases b <;> simp [b2n]

theorem bitOf_zero_iff {w : Nat} : bitOf w 0 = true ↔ w % 2 = 1 := by
  rw [bitOf_eq_iff, Nat.pow_zero, Nat.div_one, b2n_true]

theorem b2n_bitOf (w i : Nat) : b2n (bitOf w i) = w / 2 ^ i % 2 := (bitOf_eq_iff.mp rfl).symm

theorem finOfNat_eq_iff {n e : Nat} [NeZero n] {r : Fin n} : Fin.ofNat n e = r ↔ e % n = r.val := by
  rw [Fin.ext_iff, Fin.val_ofNat]

theorem bitVecOfNat_eq_iff {n e : Nat} {v : BitVec n} : BitVec.ofNat n e = v ↔ e % 2 ^ n = v.toNat := by
  rw [← BitVec.toNat_inj, BitVec.toNat_ofNat]

/-- Fields that fit their places in the word of a short form (R132). -/
structure FieldsFit (op d a b fn : Nat) : Prop where
  op : op < 63
  d : d < 32
  a : a < 32
  b : b < 32
  fn : fn < 2048

section Fields

variable {op d a b fn sp : Nat}

theorem encWord_fields (hop : op < 64) (hd : d < 32) (ha : a < 32) (hb : b < 32) (hfn : fn < 2048) :
    let w := encWord op d a b fn
    bitsOf w 26 6 = op ∧ bitsOf w 21 5 = d ∧ bitsOf w 16 5 = a ∧ bitsOf w 11 5 = b ∧ bitsOf w 0 11 = fn ∧ w < 2 ^ 32 := by
  simp only [bitsOf_eq_div_mod, encWord]
  omega

theorem encLong_fields (hop : op < 64) (hd : d < 32) (ha : a < 32) (hb : b < 32) (hsp : sp < 4) :
    let w := encLong op d a b sp
    bitsOf w 26 6 = 0x3F ∧ bitsOf w 21 5 = d ∧ bitsOf w 16 5 = a ∧ bitsOf w 11 5 = b ∧ bitsOf w 5 6 = op ∧ bitsOf w 2 3 = 0 ∧
    bitsOf w 0 2 = sp ∧ w < 2 ^ 32 := by
  simp only [bitsOf_eq_div_mod, encLong]
  omega

/-- A word is made of its fields. -/
theorem encWord_bitsOf {w : Nat} (hw : w < 2 ^ 32) : encWord (bitsOf w 26 6) (bitsOf w 21 5) (bitsOf w 16 5) (bitsOf w 11 5) (bitsOf w 0 11) = w := by
  simp only [bitsOf_eq_div_mod, encWord]
  omega

theorem encLong_bitsOf {w : Nat} (hw : w < 2 ^ 32) (hop : bitsOf w 26 6 = 0x3F) (hzero : bitsOf w 2 3 = 0) :
    encLong (bitsOf w 5 6) (bitsOf w 21 5) (bitsOf w 16 5) (bitsOf w 11 5) (bitsOf w 0 2) = w := by
  simp only [bitsOf_eq_div_mod, encLong] at *
  omega

end Fields

/-! ### The function field of a vector instruction -/

section VecFn

variable {p : PReg} {low : Nat}

theorem vecFn_lt (h : low < 2 ^ 8) : vecFn p low < 2048 := by
  unfold vecFn
  omega

theorem pick_vecFn (h : low < 2 ^ 8) : pick 8 (vecFn p low) 8 3 = p := by
  rw [pick, finOfNat_eq_iff, bitsOf_eq_div_mod, vecFn]
  omega

end VecFn

/-! ### What a legal word picks, by its fields -/

section Word

variable {x w0 w1 : Nat}

theorem wordInstr_illegal (h : legalWords w0 w1 = false) : wordInstr x w0 w1 = none := by
  rw [wordInstr, h]
  rfl

theorem wordInstr_short (h : legalWords w0 w1 = true) (hop : bitsOf w0 26 6 ≠ 0x3F) : wordInstr x w0 w1 =
    fieldInstr x (bitsOf w0 26 6) (bitsOf w0 21 5) (bitsOf w0 16 5) (bitsOf w0 11 5) (bitsOf w0 0 11) (.short (BitVec.ofNat 11 w0))
      (.short (pick 4 w0 9 2) (BitVec.ofNat 9 w0)) := by
  rw [wordInstr, h]
  exact if_neg hop

theorem wordInstr_long (h : legalWords w0 w1 = true) (hop : bitsOf w0 26 6 = 0x3F) : wordInstr x w0 w1 =
    fieldInstr x (bitsOf w0 5 6) (bitsOf w0 21 5) (bitsOf w0 16 5) (bitsOf w0 11 5) 0 (.long (BitVec.ofNat 32 w1))
      (.long (pick 4 w0 0 2) (BitVec.ofNat 32 w1)) := by
  rw [wordInstr, h]
  exact if_pos hop

theorem legalWords_short (hop : bitsOf w0 26 6 ≠ 0x3F) : legalWords w0 w1 =
    fieldsLegal (bitsOf w0 26 6) (bitsOf w0 21 5) (bitsOf w0 16 5) (bitsOf w0 11 5) (bitsOf w0 0 11) := if_neg hop

/-- A legal long form: its opcode has one, its bits 4 to 2 are zero, only a load or store names a SPACE, and its fields are legal (R133). -/
theorem legalWords_long (hop : bitsOf w0 26 6 = 0x3F) (h : legalWords w0 w1 = true) :
    hasLong (bitsOf w0 5 6) = true ∧ bitsOf w0 2 3 = 0 ∧ (isMem (bitsOf w0 5 6) = true ∨ bitsOf w0 0 2 = 0) ∧
    fieldsLegal (bitsOf w0 5 6) (bitsOf w0 21 5) (bitsOf w0 16 5) (bitsOf w0 11 5) 0 = true := by
  simp only [legalWords, if_pos hop, Bool.and_eq_true, Bool.or_eq_true, decide_eq_true_eq] at h
  obtain ⟨⟨⟨⟨hlong, hzero⟩, hspace⟩, hfields⟩, -⟩ := h
  exact ⟨hlong, hzero, hspace, hfields⟩

end Word

/-! ### The words of an instruction pick it -/

/-- An instruction whose words, where they are legal, pick it. -/
def Picked (i : Instr) : Prop :=
  ∀ x n, instrWords i = some (x, n) → legalWords n.w0 n.w1 = true → wordInstr x n.w0 n.w1 = some (bareInstr i)

section Picked

variable {i : Instr} {x op d a b fn : Nat} {imm : Imm} {off : MemOff}

/-- A one-word instruction is picked by its fields. -/
theorem picked_of_word (hw : instrWords i = some (x, { w0 := encWord op d a b fn }))
    (hi : fieldInstr x op d a b fn (.short (BitVec.ofNat 11 fn)) (.short (pick 4 fn 9 2) (BitVec.ofNat 9 fn)) = some (bareInstr i))
    (hfit : FieldsFit op d a b fn := by constructor <;> omega) : Picked i := by
  intro x' n hn hl
  obtain ⟨rfl, rfl⟩ := Prod.mk.inj (Option.some.inj (hw.symm.trans hn))
  obtain ⟨hop, hd, ha, hb, hfn, -⟩ := encWord_fields (Nat.lt_succ_of_lt hfit.op) hfit.d hfit.a hfit.b hfit.fn
  have himm : BitVec.ofNat 11 (encWord op d a b fn) = BitVec.ofNat 11 fn := by
    rw [bitVecOfNat_eq_iff, BitVec.toNat_ofNat]
    simp only [encWord]
    omega
  have hoff : BitVec.ofNat 9 (encWord op d a b fn) = BitVec.ofNat 9 fn := by
    rw [bitVecOfNat_eq_iff, BitVec.toNat_ofNat]
    simp only [encWord]
    omega
  have hspace : pick 4 (encWord op d a b fn) 9 2 = pick 4 fn 9 2 := by
    simp only [pick, finOfNat_eq_iff, Fin.val_ofNat, bitsOf_eq_div_mod, encWord]
    omega
  have hne : bitsOf (encWord op d a b fn) 26 6 ≠ 0x3F := by
    rw [hop]
    exact Nat.ne_of_lt hfit.op
  rw [wordInstr_short hl hne, hop, hd, ha, hb, hfn, himm, hoff, hspace, hi]

/-- An instruction in a long form is picked by its base opcode, its fields and its second word. -/
theorem picked_of_long {sp : Nat} {v : Word} (hw : instrWords i = some (x, { w0 := encLong op d a b sp, w1 := v.toNat, long := true }))
    (hop : op < 64) (hd : d < 32) (ha : a < 32) (hb : b < 32) (hsp : sp < 4)
    (hi : fieldInstr x op d a b 0 (.long v) (.long (Fin.ofNat 4 sp) v) = some (bareInstr i)) : Picked i := by
  intro x' n hn hl
  obtain ⟨rfl, rfl⟩ := Prod.mk.inj (Option.some.inj (hw.symm.trans hn))
  obtain ⟨hlong, hd', ha', hb', hop', -, hsp', -⟩ := encLong_fields hop hd ha hb hsp
  rw [wordInstr_long hl hlong, pick, hop', hd', ha', hb', hsp', BitVec.ofNat_toNat, BitVec.setWidth_eq, hi]

/-- An instruction with an immediate is picked in either form. -/
theorem picked_of_imm (hw : instrWords i = some (x, encImm op d a b imm)) (hi : ∀ fn off, fieldInstr x op d a b fn imm off = some (bareInstr i))
    (hop : op < 63 := by decide) (hd : d < 32 := by omega) (ha : a < 32 := by omega) (hb : b < 32 := by omega) : Picked i := by
  cases imm with
  | short v =>
    refine picked_of_word hw ?_ ⟨hop, hd, ha, hb, v.isLt⟩
    rw [BitVec.ofNat_toNat, BitVec.setWidth_eq]
    exact hi ..
  | long v => exact picked_of_long hw (Nat.lt_succ_of_lt hop) hd ha hb (by decide) (hi ..)

/-- A load or store is picked in either form. -/
theorem picked_of_mem (hw : instrWords i = some (x, encMem op d a b off)) (hi : ∀ fn imm, fieldInstr x op d a b fn imm off = some (bareInstr i))
    (hop : op < 63 := by decide) (hd : d < 32 := by omega) (ha : a < 32 := by omega) (hb : b < 32 := by omega) : Picked i := by
  cases off with
  | short sp v =>
    refine picked_of_word hw ?_ ⟨hop, hd, ha, hb, by omega⟩
    have hspace : pick 4 (sp.val * 2 ^ 9 + v.toNat) 9 2 = sp := by
      rw [pick, finOfNat_eq_iff, bitsOf_eq_div_mod]
      omega
    have hoff : BitVec.ofNat 9 (sp.val * 2 ^ 9 + v.toNat) = v := by
      rw [bitVecOfNat_eq_iff]
      omega
    rw [hspace, hoff]
    exact hi ..
  | long sp v =>
    refine picked_of_long hw (Nat.lt_succ_of_lt hop) hd ha hb sp.isLt ?_
    rw [finOfNat_eq_iff.mpr (Nat.mod_eq_of_lt sp.isLt)]
    exact hi ..

/-- A vector instruction is picked by its operation's fields and its predicate. -/
theorem picked_of_vec {low : Nat} {p : PReg} (hw : instrWords i = some (x, { w0 := encWord op d a b (vecFn p low) }))
    (hi : ∀ imm off, fieldInstr x op d a b (vecFn p low) imm off = some (bareInstr i)) (hop : op < 63 := by decide) (hd : d < 32 := by omega)
    (ha : a < 32 := by omega) (hb : b < 32 := by omega) (hlow : low < 2 ^ 8 := by omega) : Picked i :=
  picked_of_word hw (hi _ _) ⟨hop, hd, ha, hb, vecFn_lt hlow⟩

/-- A command that no task issues has no words. -/
theorem picked_of_none (h : instrWords i = none) : Picked i := by
  intro x n hn
  rw [h] at hn
  nomatch hn

end Picked

/-! ### VADD to VEXP2 -/

/-- The instruction of a vector operation; VRCP, VRSQ and VEXP2 have no second source. -/
def vopInstr (op : VOp) (x : Nat) (d a b : VReg) (f : BitVec 2) (p : PReg) : Instr :=
  match op with
  | .add => .vadd x d a b f p
  | .sub => .vsub x d a b f p
  | .mul => .vmul x d a b f p
  | .fma => .vfma x d a b f p
  | .max => .vmax x d a b f p
  | .min => .vmin x d a b f p
  | .rcp => .vrcp x d a f p
  | .rsq => .vrsq x d a f p
  | .exp2 => .vexp2 x d a f p

theorem vopCode_le (op : VOp) : vopCode op ≤ 8 := by
  cases op <;> decide

theorem exists_vopCode {c : Nat} (h : c ≤ 8) : ∃ v, vopCode v = c := by
  interval_cases c
  exacts [⟨.add, rfl⟩, ⟨.sub, rfl⟩, ⟨.mul, rfl⟩, ⟨.fma, rfl⟩, ⟨.max, rfl⟩, ⟨.min, rfl⟩, ⟨.rcp, rfl⟩, ⟨.rsq, rfl⟩, ⟨.exp2, rfl⟩]

theorem vopFields_lt (f : BitVec 2) (op : VOp) : f.toNat * 2 ^ 6 + vopCode op < 2 ^ 8 := by
  have hcode := vopCode_le op
  omega

section Fields

variable {x : Nat} {imm : Imm} {off : MemOff}

/-- Opcode 0x22 picks the operation of its six-bit code (R141). -/
theorem fieldInstr_vop {op : VOp} {d a b fn : Nat} (h : bitsOf fn 0 6 = vopCode op) : fieldInstr x 0x22 d a b fn imm off =
    some (vopInstr op x (Fin.ofNat 16 d) (Fin.ofNat 16 a) (Fin.ofNat 16 b) (BitVec.ofNat 2 (bitsOf fn 6 2)) (pick 8 fn 8 3)) := by
  cases op
  all_goals
    rw [vopCode] at h
    simp only [fieldInstr, h, vopInstr]

theorem fieldInstr_vecFn_vop (op : VOp) (d a b : VReg) (f : BitVec 2) (p : PReg) :
    fieldInstr x 0x22 d.val a.val b.val (vecFn p (f.toNat * 2 ^ 6 + vopCode op)) imm off = some (vopInstr op x d a b f p) := by
  have hle := vopCode_le op
  have hcode : bitsOf (vecFn p (f.toNat * 2 ^ 6 + vopCode op)) 0 6 = vopCode op := by
    rw [bitsOf_eq_div_mod, vecFn]
    omega
  have hfmt : BitVec.ofNat 2 (bitsOf (vecFn p (f.toNat * 2 ^ 6 + vopCode op)) 6 2) = f := by
    rw [bitVecOfNat_eq_iff, vecFn, bitsOf_eq_div_mod]
    omega
  rw [fieldInstr_vop hcode, hfmt, pick_vecFn (vopFields_lt f op)]
  simp

/-! ### Instructions that bit 0 of fn tells apart -/

theorem fieldInstr_vqnt (d a : VReg) (b : SReg) (f : BitVec 2) (part : BitVec 3) (esc bcast : Bool) (p : PReg) :
    fieldInstr x 0x25 d.val a.val b.val (vecFn p (f.toNat * 2 ^ 6 + part.toNat * 2 ^ 3 + b2n esc * 4 + b2n bcast * 2)) imm off =
      some (.vqnt x d a b f part esc bcast p) := by
  have hesc := b2n_lt esc
  have hbcast := b2n_lt bcast
  refine (if_neg ?_).trans ?_
  · rw [bitOf_zero_iff, vecFn]
    omega
  · simp only [Option.some.injEq, true_and, Instr.vqnt.injEq, finOfNat_eq_iff, bitVecOfNat_eq_iff, bitOf_eq_iff, bitsOf_eq_div_mod, pick, vecFn]
    omega

theorem fieldInstr_vqntCal (d a : VReg) (b : SReg) (f : BitVec 2) (mg : BitVec 3) (asym bcast : Bool) (p : PReg) :
    fieldInstr x 0x25 d.val a.val b.val (vecFn p (f.toNat * 2 ^ 6 + mg.toNat * 2 ^ 3 + b2n asym * 4 + b2n bcast * 2 + 1)) imm off =
      some (.vqntCal x d a b f mg asym bcast p) := by
  have hasym := b2n_lt asym
  have hbcast := b2n_lt bcast
  refine (if_pos ?_).trans ?_
  · rw [bitOf_zero_iff, vecFn]
    omega
  · simp only [Option.some.injEq, true_and, Instr.vqntCal.injEq, finOfNat_eq_iff, bitVecOfNat_eq_iff, bitOf_eq_iff, bitsOf_eq_div_mod, pick, vecFn]
    omega

theorem fieldInstr_vspl (d : VReg) (a : SReg) (p : PReg) : fieldInstr x 0x2B d.val a.val 0 (vecFn p 0) imm off = some (.vspl x d a p) := by
  refine (if_neg ?_).trans ?_
  · rw [bitOf_zero_iff, vecFn]
    omega
  · simp only [Option.some.injEq, true_and, Instr.vspl.injEq, finOfNat_eq_iff, bitsOf_eq_div_mod, pick, vecFn]
    omega

theorem fieldInstr_vget (d : SReg) (a : VReg) (l : Fin 8) : fieldInstr x 0x2B d.val a.val 0 (l.val * 2 ^ 8 + 1) imm off = some (.vget x d a l) := by
  refine (if_pos ?_).trans ?_
  · rw [bitOf_zero_iff]
    omega
  · simp only [Option.some.injEq, true_and, Instr.vget.injEq, finOfNat_eq_iff, bitsOf_eq_div_mod, pick]
    omega

theorem mcfgFn_lt (rel quad : Bool) (q : Fin 4) : mcfgFn rel quad q < 16 := by
  have hrel := b2n_lt rel
  have hquad := b2n_lt quad
  unfold mcfgFn
  omega

theorem fieldInstr_mcfg (a : SReg) (quad : Bool) (q : Fin 4) : fieldInstr x 0x30 0 a.val 0 (mcfgFn false quad q) imm off = some (.mcfg x a quad q) := by
  have hquad := b2n_lt quad
  refine (if_neg ?_).trans ?_
  · rw [bitOf_zero_iff, mcfgFn, b2n_false]
    omega
  · simp only [Option.some.injEq, true_and, Instr.mcfg.injEq, finOfNat_eq_iff, bitOf_eq_iff, bitsOf_eq_div_mod, pick, mcfgFn, b2n_false]
    omega

theorem fieldInstr_mcfgRel (quad : Bool) (q : Fin 4) : fieldInstr x 0x30 0 0 0 (mcfgFn true quad q) imm off = some (.mcfgRel x quad q) := by
  have hquad := b2n_lt quad
  refine (if_pos ?_).trans ?_
  · rw [bitOf_zero_iff, mcfgFn, b2n_true]
    omega
  · simp only [Option.some.injEq, true_and, Instr.mcfgRel.injEq, finOfNat_eq_iff, bitOf_eq_iff, bitsOf_eq_div_mod, pick, mcfgFn, b2n_true]
    omega

theorem fieldInstr_mchk (d : SReg) (q : Fin 4) : fieldInstr x 0x36 d.val 0 0 (q.val * 2) imm off = some (.mchk x d q) := by
  refine (if_neg ?_).trans ?_
  · rw [bitOf_zero_iff]
    omega
  · simp only [Option.some.injEq, true_and, Instr.mchk.injEq, finOfNat_eq_iff, bitsOf_eq_div_mod, pick]
    omega

theorem fieldInstr_mchkSelftest (d : SReg) (q : Fin 4) : fieldInstr x 0x36 d.val 0 0 (1 + q.val * 2) imm off = some (.mchkSelftest x d q []) := by
  refine (if_pos ?_).trans ?_
  · rw [bitOf_zero_iff]
    omega
  · simp only [Option.some.injEq, true_and, and_true, Instr.mchkSelftest.injEq, finOfNat_eq_iff, bitsOf_eq_div_mod, pick]
    omega

/-- A WTOK of 0 only reads (R171). -/
theorem fieldInstr_wtok (d a : SReg) (n : BitVec 8) : fieldInstr x 0x1C d.val a.val 0 n.toNat imm off = some (bareInstr (.wtok x d a n)) := by
  by_cases hn : n = 0#8
  · simp [fieldInstr, bareInstr, hn]
  · have hne : n.toNat ≠ 0 := fun h => hn (BitVec.eq_of_toNat_eq h)
    simp [fieldInstr, bareInstr, hn, hne]

end Fields

/-! ### Every instruction -/

/-- The words of every instruction pick it, by the place of each operand in its form (R132, R133). -/
theorem instr_picked (i : Instr) : Picked i := by
  cases i
  case add x d a b u | and x d a b | or x d a b | xor x d a b =>
    cases b with
    | reg b => exact picked_of_word rfl (by simp [fieldInstr, bareInstr])
    | imm i => exact picked_of_imm rfl (fun _ _ => by simp [fieldInstr, bareInstr])
  case shl x d a n | shr x d a n | sra x d a n =>
    cases n
    all_goals exact picked_of_word rfl (by simp [fieldInstr, bareInstr])
  case sub | mul | mulh | divu | lui | getcw | setcw | stok | wtokPeek | mdrn | xfer | hgath | hscat =>
    exact picked_of_word rfl (by simp [fieldInstr, bareInstr])
  case wtok x d a n => exact picked_of_word rfl (fieldInstr_wtok d a n)
  case li | beq | bne | blt | bge | j | jl => exact picked_of_imm rfl (fun _ _ => by simp [fieldInstr, bareInstr])
  case ldw | stw | ldt | stt | vld | vst => exact picked_of_mem rfl (fun _ _ => by simp [fieldInstr, bareInstr])
  case yield | spawn | chain | stepend | halt => exact picked_of_word rfl (by simp [fieldInstr, bareInstr, bitsOf])
  case fenceStores x c =>
    cases c
    all_goals exact picked_of_word rfl rfl (by constructor <;> decide)
  case fenceCommands x => exact picked_of_word rfl rfl (by constructor <;> decide)
  case vadd x d a b f p | vsub x d a b f p | vmul x d a b f p | vfma x d a b f p | vmax x d a b f p | vmin x d a b f p =>
    exact picked_of_vec rfl (fun _ _ => fieldInstr_vecFn_vop _ d a b f p) (hlow := vopFields_lt ..)
  case vrcp x d a f p | vrsq x d a f p | vexp2 x d a f p =>
    exact picked_of_vec rfl (fun _ _ => fieldInstr_vecFn_vop _ d a 0 f p) (hlow := vopFields_lt ..)
  case vdact | vred | vsel | vcmp =>
    refine picked_of_vec rfl (fun _ _ => ?_)
    simp only [fieldInstr, bareInstr, Option.some.injEq, true_and, Instr.vdact.injEq, Instr.vred.injEq, Instr.vsel.injEq, Instr.vcmp.injEq,
      finOfNat_eq_iff, bitVecOfNat_eq_iff, bitsOf_eq_div_mod, pick, vecFn]
    omega
  case vcvt x d a src dst part sr p =>
    have hsr := b2n_lt sr
    refine picked_of_vec rfl (fun _ _ => ?_)
    simp only [fieldInstr, bareInstr, Option.some.injEq, true_and, Instr.vcvt.injEq, finOfNat_eq_iff, bitVecOfNat_eq_iff, bitOf_eq_iff,
      bitsOf_eq_div_mod, pick, vecFn]
    omega
  case vdq x d a b f part bcast p =>
    have hbcast := b2n_lt bcast
    refine picked_of_vec rfl (fun _ _ => ?_)
    simp only [fieldInstr, bareInstr, Option.some.injEq, true_and, Instr.vdq.injEq, finOfNat_eq_iff, bitVecOfNat_eq_iff, bitOf_eq_iff,
      bitsOf_eq_div_mod, pick, vecFn]
    omega
  case vqnt x d a b f part esc bcast p =>
    have hesc := b2n_lt esc
    have hbcast := b2n_lt bcast
    exact picked_of_vec rfl (fun _ _ => fieldInstr_vqnt ..)
  case vqntCal x d a b f mg asym bcast p =>
    have hasym := b2n_lt asym
    have hbcast := b2n_lt bcast
    exact picked_of_vec rfl (fun _ _ => fieldInstr_vqntCal ..)
  case vspl => exact picked_of_vec rfl (fun _ _ => fieldInstr_vspl ..)
  case vget => exact picked_of_word rfl (fieldInstr_vget ..)
  case mcfg x a quad q =>
    exact picked_of_word rfl (fieldInstr_mcfg ..) ⟨by decide, by decide, a.isLt, by decide, (mcfgFn_lt ..).trans (by decide)⟩
  case mcfgRel x quad q =>
    exact picked_of_word rfl (fieldInstr_mcfgRel ..) ⟨by decide, by decide, by decide, by decide, (mcfgFn_lt ..).trans (by decide)⟩
  case mchk => exact picked_of_word rfl (fieldInstr_mchk ..)
  case mchkSelftest => exact picked_of_word rfl (fieldInstr_mchkSelftest ..)
  case mpass | mswap =>
    refine picked_of_word rfl ?_
    simp only [fieldInstr, bareInstr, Option.some.injEq, true_and, Instr.mpass.injEq, Instr.mswap.injEq, finOfNat_eq_iff, bitVecOfNat_eq_iff,
      bitsOf_eq_div_mod, pick]
    omega
  case mlds x a b tr q | mstr x a b tr q c0 =>
    have htr := b2n_lt tr
    refine picked_of_word rfl ?_
    simp only [fieldInstr, bareInstr, Option.some.injEq, true_and, Instr.mlds.injEq, Instr.mstr.injEq, finOfNat_eq_iff, bitVecOfNat_eq_iff,
      bitOf_eq_iff, bitsOf_eq_div_mod, pick]
    omega
  all_goals exact picked_of_none rfl

end Sys2Proof.Machine
end

section
/-! PROOFS. Every legal pair of words is an instruction's (R132 to R134). -/

namespace Sys2Proof.Machine

/-! ### The fields of a legal word are those of an instruction -/

/-- The words whose fields are given: a memory operand or an immediate in either form, or one word. -/
def fieldsWords (op d a b fn : Nat) (imm : Imm) (off : MemOff) : Insn :=
  if hasLong op then (if isMem op then encMem op d a b off else encImm op d a b imm) else { w0 := encWord op d a b fn }

/-- The fields pick an instruction whose words they are. -/
def Spelled (x op d a b fn : Nat) : Prop :=
  ∀ imm off, ∃ i, fieldInstr x op d a b fn imm off = some i ∧ instrWords i = some (x, fieldsWords op d a b fn imm off)

section Spelled

variable {x op d a b fn : Nat}

theorem spelled_of_word {i : Instr} {w : Nat} (hlong : hasLong op = false) (hi : ∀ imm off, fieldInstr x op d a b fn imm off = some i)
    (hw : instrWords i = some (x, { w0 := w })) (heq : w = encWord op d a b fn) : Spelled x op d a b fn := by
  intro imm off
  refine ⟨i, hi imm off, ?_⟩
  rw [hw, heq, fieldsWords, hlong]
  rfl

/-- The opcodes that a word may have, by the kind of their operands (R133, R134). -/
theorem fieldsLegal_opcode (h : fieldsLegal op d a b fn = true) : op ∈ [2, 3, 4, 5, 8, 0x10, 0x11, 0x12, 0x13, 0x14, 0x15] ∨
    op ∈ [0xA, 0xB, 0xC, 0xD, 0x20, 0x21] ∨ op = 1 ∨ op = 6 ∨ op ∈ [9, 0x18, 0x19, 0x1D] ∨ op = 0x1C ∨ op = 0x1E ∨ op = 0x22 ∨
    op ∈ [0x24, 0x26, 0x27, 0x28, 0x29, 0x2A] ∨ op = 0x25 ∨ op = 0x2B ∨ op ∈ [0x30, 0x36] ∨
    op ∈ [0x31, 0x32, 0x33, 0x34, 0x35, 0x38, 0x39, 0x3A] := by
  unfold fieldsLegal at h
  split at h
  all_goals simp at h ⊢

variable (hfit : FieldsFit op d a b fn) (h : fieldsLegal op d a b fn = true)
include hfit h

theorem spelled_immediate (hop : op ∈ [2, 3, 4, 5, 8, 0x10, 0x11, 0x12, 0x13, 0x14, 0x15]) : Spelled x op d a b fn := by
  obtain ⟨-, hd, ha, hb, -⟩ := hfit
  intro imm off
  fin_cases hop
  all_goals
    simp only [fieldsLegal, Bool.and_eq_true, decide_eq_true_eq] at h
    refine ⟨_, rfl, ?_⟩
    simp [instrWords, fieldsWords, isMem, hasLong, encAlu, Nat.mod_eq_of_lt, hd, ha, hb, h]

theorem spelled_memory (hop : op ∈ [0xA, 0xB, 0xC, 0xD, 0x20, 0x21]) : Spelled x op d a b fn := by
  obtain ⟨-, hd, ha, hb, -⟩ := hfit
  intro imm off
  fin_cases hop
  all_goals
    simp only [fieldsLegal, Bool.and_eq_true, decide_eq_true_eq] at h
    refine ⟨_, rfl, ?_⟩
    simp [instrWords, fieldsWords, isMem, hasLong, Nat.mod_eq_of_lt, hd, ha, hb, h]

/-- Opcode 1 by its function; none has number 10 (R135). -/
theorem spelled_alu (hop : op = 1) : Spelled x op d a b fn := by
  obtain ⟨-, hd, ha, hb, -⟩ := hfit
  subst hop
  have hfn : fn ≤ 9 ∨ fn = 11 := by simpa only [fieldsLegal, Bool.or_eq_true, decide_eq_true_eq] using h
  have hmem : fn ∈ [0, 1, 2, 3, 4, 5, 6, 7, 8, 9, 11] := by
    simp only [List.mem_cons, List.not_mem_nil, or_false]
    omega
  fin_cases hmem
  all_goals
    refine spelled_of_word rfl (fun _ _ => rfl) rfl ?_
    simp only [encWord, Fin.val_ofNat]
    omega

theorem spelled_shift (hop : op = 6) : Spelled x op d a b fn := by
  obtain ⟨-, hd, ha, hb, -⟩ := hfit
  subst hop
  have hfn : fn ≤ 2 := by simpa only [fieldsLegal, decide_eq_true_eq] using h
  interval_cases fn
  all_goals
    refine spelled_of_word rfl (fun _ _ => rfl) rfl ?_
    simp only [encWord, Fin.val_ofNat]
    omega

theorem spelled_constant (hop : op ∈ [9, 0x18, 0x19, 0x1D]) : Spelled x op d a b fn := by
  obtain ⟨-, hd, ha, hb, hfn⟩ := hfit
  fin_cases hop
  all_goals
    simp only [fieldsLegal, Bool.and_eq_true, decide_eq_true_eq] at h
    refine spelled_of_word rfl (fun _ _ => rfl) rfl ?_
    simp only [encWord, Fin.val_ofNat, BitVec.toNat_ofNat]
    omega

/-- A count of 0 only reads the token (R171). -/
theorem spelled_wtok (hop : op = 0x1C) : Spelled x op d a b fn := by
  obtain ⟨-, hd, ha, hb, hfn⟩ := hfit
  subst hop
  simp only [fieldsLegal, Bool.and_eq_true, decide_eq_true_eq] at h
  by_cases hn : fn = 0
  · refine spelled_of_word rfl (fun _ _ => if_pos hn) rfl ?_
    simp only [encWord, Fin.val_ofNat, BitVec.toNat_ofNat]
    omega
  · refine spelled_of_word rfl (fun _ _ => if_neg hn) rfl ?_
    simp only [encWord, Fin.val_ofNat, BitVec.toNat_ofNat]
    omega

/-- Opcode 0x1E by its operation, which leaves fn no other bits but those of FENCE. -/
theorem spelled_task (hop : op = 0x1E) : Spelled x op d a b fn := by
  obtain ⟨-, hd, ha, hb, hfn⟩ := hfit
  subst hop
  have hmem : fn ∈ [0, 1, 2, 4, 5, 0x13, 0x23, 0x33] := by
    simp only [List.mem_cons, List.not_mem_nil, or_false]
    simp only [fieldsLegal] at h
    generalize hc : bitsOf fn 0 4 = c at h
    rw [bitsOf_eq_div_mod] at hc
    split at h
    all_goals simp only [Bool.and_eq_true, decide_eq_true_eq, bitsOf_eq_div_mod, Bool.false_eq_true] at h <;> omega
  fin_cases hmem
  all_goals
    simp only [fieldsLegal, bitsOf, Bool.and_eq_true, decide_eq_true_eq, Nat.reduceShiftRight, Nat.reducePow, Nat.reduceMod] at h
    refine spelled_of_word rfl (fun _ _ => rfl) rfl ?_
    simp only [encWord, Fin.val_ofNat, b2n_bitOf, b2n_true, b2n_false]
    omega

omit hfit in
/-- Of the vector operations, those from VRCP on have no second source (R141). -/
theorem fieldsLegal_vop (hop : op = 0x22) : (d < 16 ∧ a < 16 ∧ b < 16) ∧ ∃ v, bitsOf fn 0 6 = vopCode v ∧ (6 ≤ vopCode v → b = 0) := by
  subst hop
  simp only [fieldsLegal, Bool.and_eq_true, decide_eq_true_eq] at h
  obtain ⟨⟨⟨hd, ha⟩, hb⟩, hsub⟩ := h
  have hcode : bitsOf fn 0 6 ≤ 8 ∧ (6 ≤ bitsOf fn 0 6 → b = 0) := by
    generalize bitsOf fn 0 6 = c at hsub
    split at hsub
    all_goals simp only [Bool.and_eq_true, decide_eq_true_eq, Bool.false_eq_true] at hsub <;> omega
  obtain ⟨v, hv⟩ := exists_vopCode hcode.1
  exact ⟨⟨hd, ha, hb⟩, v, hv.symm, hv ▸ hcode.2⟩

theorem spelled_vop (hop : op = 0x22) : Spelled x op d a b fn := by
  obtain ⟨hreg, v, hv, hone⟩ := fieldsLegal_vop h hop
  obtain ⟨-, -, -, -, hfn⟩ := hfit
  subst hop
  cases v
  all_goals
    refine spelled_of_word rfl (fun _ _ => fieldInstr_vop hv) rfl ?_
    simp only [vopCode, bitsOf_eq_div_mod] at hv hone
    simp only [encWord, vecFn, pick, Fin.val_ofNat, BitVec.toNat_ofNat, bitsOf_eq_div_mod, vopCode]
    omega

theorem spelled_vector (hop : op ∈ [0x24, 0x26, 0x27, 0x28, 0x29, 0x2A]) : Spelled x op d a b fn := by
  obtain ⟨-, hd, ha, hb, hfn⟩ := hfit
  fin_cases hop
  all_goals
    simp only [fieldsLegal, Bool.and_eq_true, decide_eq_true_eq, Bool.not_eq_true', bitOf_eq_iff, b2n_false, bitsOf_eq_div_mod] at h
    refine spelled_of_word rfl (fun _ _ => rfl) rfl ?_
    simp only [encWord, vecFn, pick, Fin.val_ofNat, BitVec.toNat_ofNat, bitsOf_eq_div_mod, b2n_bitOf]
    omega

/-- Bit 0 tells calibration from quantisation (R147). -/
theorem spelled_vqnt (hop : op = 0x25) : Spelled x op d a b fn := by
  obtain ⟨-, hd, ha, hb, hfn⟩ := hfit
  subst hop
  simp only [fieldsLegal, Bool.and_eq_true, decide_eq_true_eq] at h
  obtain ⟨hreg, hbits⟩ := h
  cases hbit : bitOf fn 0 with
  | false =>
    refine spelled_of_word rfl (fun _ _ => if_neg (ne_true_of_eq_false hbit)) rfl ?_
    simp only [bitOf_eq_iff, b2n_false] at hbit
    simp only [encWord, vecFn, pick, Fin.val_ofNat, BitVec.toNat_ofNat, bitsOf_eq_div_mod, b2n_bitOf]
    omega
  | true =>
    rw [hbit, if_pos rfl] at hbits
    refine spelled_of_word rfl (fun _ _ => if_pos hbit) rfl ?_
    simp only [bitOf_eq_iff, Bool.not_eq_true', b2n_false, b2n_true] at hbit hbits
    simp only [encWord, vecFn, pick, Fin.val_ofNat, BitVec.toNat_ofNat, bitsOf_eq_div_mod, b2n_bitOf]
    omega

/-- Bit 0 tells VGET from VSPL (R144). -/
theorem spelled_move (hop : op = 0x2B) : Spelled x op d a b fn := by
  obtain ⟨-, hd, ha, hb, hfn⟩ := hfit
  subst hop
  simp only [fieldsLegal, Bool.and_eq_true, decide_eq_true_eq, bitsOf_eq_div_mod] at h
  obtain ⟨hzero, hreg⟩ := h
  cases hbit : bitOf fn 0 with
  | false =>
    rw [hbit, if_neg Bool.false_ne_true, decide_eq_true_eq] at hreg
    refine spelled_of_word rfl (fun _ _ => if_neg (ne_true_of_eq_false hbit)) rfl ?_
    simp only [bitOf_eq_iff, b2n_false] at hbit
    simp only [encWord, vecFn, pick, Fin.val_ofNat, bitsOf_eq_div_mod]
    omega
  | true =>
    rw [hbit, if_pos rfl, decide_eq_true_eq] at hreg
    refine spelled_of_word rfl (fun _ _ => if_pos hbit) rfl ?_
    simp only [bitOf_eq_iff, b2n_true] at hbit
    simp only [encWord, pick, Fin.val_ofNat, bitsOf_eq_div_mod]
    omega

theorem spelled_unit (hop : op ∈ [0x31, 0x32, 0x33, 0x34, 0x35, 0x38, 0x39, 0x3A]) : Spelled x op d a b fn := by
  obtain ⟨-, hd, ha, hb, hfn⟩ := hfit
  fin_cases hop
  all_goals
    simp only [fieldsLegal, Bool.and_eq_true, decide_eq_true_eq, Bool.not_eq_true', bitOf_eq_iff, b2n_false, bitsOf_eq_div_mod] at h
    refine spelled_of_word rfl (fun _ _ => rfl) rfl ?_
    simp only [encWord, pick, Fin.val_ofNat, BitVec.toNat_ofNat, bitsOf_eq_div_mod, b2n_bitOf]
    omega

/-- Bit 0 tells MCFG REL from MCFG, and the self-test from MCHK (R161, R165). -/
theorem spelled_array (hop : op ∈ [0x30, 0x36]) : Spelled x op d a b fn := by
  obtain ⟨-, hd, ha, hb, hfn⟩ := hfit
  fin_cases hop
  all_goals
    simp only [fieldsLegal, Bool.and_eq_true, Bool.or_eq_true, Bool.not_eq_true', decide_eq_true_eq] at h
    cases hbit : bitOf fn 0 with
    | false =>
      refine spelled_of_word rfl (fun _ _ => if_neg (ne_true_of_eq_false hbit)) rfl ?_
      simp only [bitOf_eq_iff, b2n_false] at hbit h
      simp only [encWord, mcfgFn, pick, Fin.val_ofNat, bitsOf_eq_div_mod, b2n_bitOf, b2n_false]
      omega
    | true =>
      refine spelled_of_word rfl (fun _ _ => if_pos hbit) rfl ?_
      simp only [bitOf_eq_iff, b2n_false, b2n_true] at hbit h
      simp only [encWord, mcfgFn, pick, Fin.val_ofNat, bitsOf_eq_div_mod, b2n_bitOf, b2n_true]
      omega

/-- Legal fields are those of an instruction. -/
theorem fields_spelled : Spelled x op d a b fn := by
  rcases fieldsLegal_opcode h with hop | hop | hop | hop | hop | hop | hop | hop | hop | hop | hop | hop | hop
  · exact spelled_immediate hfit h hop
  · exact spelled_memory hfit h hop
  · exact spelled_alu hfit h hop
  · exact spelled_shift hfit h hop
  · exact spelled_constant hfit h hop
  · exact spelled_wtok hfit h hop
  · exact spelled_task hfit h hop
  · exact spelled_vop hfit h hop
  · exact spelled_vector hfit h hop
  · exact spelled_vqnt hfit h hop
  · exact spelled_move hfit h hop
  · exact spelled_array hfit h hop
  · exact spelled_unit hfit h hop

end Spelled

/-! ### Words -/

theorem hasLong_lt {op : Nat} (h : hasLong op = true) : op < 63 := by
  simp only [hasLong, Bool.or_eq_true, Bool.and_eq_true, decide_eq_true_eq] at h
  omega

/-- In the short form, an immediate or a memory operand is the word's low bits. -/
theorem fieldsWords_short {op d a b w : Nat} : fieldsWords op d a b (bitsOf w 0 11) (.short (BitVec.ofNat 11 w))
    (.short (pick 4 w 9 2) (BitVec.ofNat 9 w)) = { w0 := encWord op d a b (bitsOf w 0 11) } := by
  have himm : (BitVec.ofNat 11 w).toNat = bitsOf w 0 11 := BitVec.toNat_ofNat ..
  have hmem : (pick 4 w 9 2).val * 2 ^ 9 + (BitVec.ofNat 9 w).toNat = bitsOf w 0 11 := by
    simp only [pick, Fin.val_ofNat, BitVec.toNat_ofNat, bitsOf_eq_div_mod]
    omega
  simp only [fieldsWords, encMem, encImm, himm, hmem, ite_self]

/-- In the long form, only a load or store has a SPACE in its first word. -/
theorem fieldsWords_long {op d a b fn : Nat} {sp : Fin 4} {v : Word} (hlong : hasLong op = true) (hsp : isMem op = true ∨ sp.val = 0) :
    fieldsWords op d a b fn (.long v) (.long sp v) = { w0 := encLong op d a b sp.val, w1 := v.toNat, long := true } := by
  rw [fieldsWords, hlong, if_pos rfl]
  split
  next => rfl
  next hmem => rw [hsp.resolve_left hmem, encImm]

/-- A legal pair of words picks an instruction whose words they are. -/
theorem wordInstr_legal {w0 w1 : Nat} (x : Nat) (h0 : w0 < 2 ^ 32) (h1 : w1 < 2 ^ 32) (h : legalWords w0 w1 = true) :
    ∃ i n, wordInstr x w0 w1 = some i ∧ instrWords i = some (x, n) ∧ n.w0 = w0 ∧ n.long = decide (bitsOf w0 26 6 = 0x3F) ∧
      (n.long = true → n.w1 = w1) := by
  have hd : bitsOf w0 21 5 < 32 := Nat.mod_lt _ (by decide)
  have ha : bitsOf w0 16 5 < 32 := Nat.mod_lt _ (by decide)
  have hb : bitsOf w0 11 5 < 32 := Nat.mod_lt _ (by decide)
  by_cases hop : bitsOf w0 26 6 = 0x3F
  · obtain ⟨hlong, hzero, hspace, hfields⟩ := legalWords_long hop h
    obtain ⟨i, hi, hw⟩ := fields_spelled (x := x) ⟨hasLong_lt hlong, hd, ha, hb, by decide⟩ hfields (.long (BitVec.ofNat 32 w1))
      (.long (pick 4 w0 0 2) (BitVec.ofNat 32 w1))
    have hsp : (pick 4 w0 0 2).val = bitsOf w0 0 2 := Nat.mod_eq_of_lt (Nat.mod_lt _ (by decide))
    rw [fieldsWords_long hlong (hsp ▸ hspace), hsp, encLong_bitsOf h0 hop hzero, BitVec.toNat_ofNat, Nat.mod_eq_of_lt h1] at hw
    exact ⟨i, _, (wordInstr_long h hop).trans hi, hw, rfl, (decide_eq_true hop).symm, fun _ => rfl⟩
  · have hlt : bitsOf w0 26 6 < 64 := Nat.mod_lt _ (by decide)
    have hfn : bitsOf w0 0 11 < 2048 := Nat.mod_lt _ (by decide)
    obtain ⟨i, hi, hw⟩ := fields_spelled (x := x) ⟨by omega, hd, ha, hb, hfn⟩ (legalWords_short hop ▸ h) (.short (BitVec.ofNat 11 w0))
      (.short (pick 4 w0 9 2) (BitVec.ofNat 9 w0))
    rw [fieldsWords_short, encWord_bitsOf h0] at hw
    exact ⟨i, _, (wordInstr_short h hop).trans hi, hw, rfl, (decide_eq_false hop).symm, nofun⟩

/-- Settles O53: the fields of either form, the instruction that each instruction's words pick, and the words of what legal words pick. -/
theorem instructionWords : Obligations.InstructionWords := by
  refine ⟨fun _ _ _ _ _ => encWord_fields, fun _ _ _ _ _ => encLong_fields, fun _ _ _ _ _ => rfl, fun _ _ _ _ _ => rfl,
    fun _ _ _ _ sp o => ?space, fun i x n => instr_picked i x n, fun x w0 w1 h0 h1 => ⟨fun i hi => ?words, ?illegal, wordInstr_illegal⟩⟩
  case space =>
    simp only [encMem, encWord, bitsOf_eq_div_mod]
    omega
  case words =>
    cases hl : legalWords w0 w1 with
    | false => exact absurd ((wordInstr_illegal hl).symm.trans hi) nofun
    | true =>
      obtain ⟨j, n, hj, hn⟩ := wordInstr_legal x h0 h1 hl
      obtain rfl := Option.some.inj (hj.symm.trans hi)
      exact ⟨n, hn⟩
  case illegal =>
    intro hnone
    cases hl : legalWords w0 w1 with
    | false => rfl
    | true =>
      obtain ⟨j, n, hj, -⟩ := wordInstr_legal x h0 h1 hl
      exact absurd (hj.symm.trans hnone) nofun

end Sys2Proof.Machine
end

section
/-! PROOFS. Tokens, fences, the end of a task, YIELD and SPAWN (R170 to R177, R185). -/

namespace Sys2Proof.Machine

/-! ### Tokens -/

/-- The token word of R170 as statements write it. -/
theorem Token.word_eq (t : Token) : t.word = BitVec.ofNat 32 (t.count + (if t.err then 256 else 0) + if t.sat then 512 else 0) := by
  unfold Token.word
  cases t.err <;> cases t.sat <;> rfl

section Wtok

variable {s u : State} {x k : Nat} {d a : SReg} (hreach : u.tokenReach (s.task k).slot ((s.task k).sreg a.val) = true)
  (hs : Issues s x 4 (sregs [a.val]) k u)
include hreach hs

theorem exec_wtokPeek_reads : exec (.wtokPeek x d a) s = .next (u.completes x k
    (((s.task k).supersede (sregs [d.val])).setS d.val (u.token ((s.task k).sreg a.val).toNat).word) ((s.task k).after 4)) := by
  refine congrArg Host.Outcome.next (issue_next hs rfl (if_neg ?_) (Task.setS_issued ..))
  rw [Task.supersede_slot, Task.supersede_sreg, hreach]
  decide

theorem exec_wtok_zero : exec (.wtok x d a 0#8) s = .next (u.completes x k
    (((s.task k).supersede (sregs [d.val])).setS d.val (u.token ((s.task k).sreg a.val).toNat).word) ((s.task k).after 4)) := by
  refine congrArg Host.Outcome.next (issue_next hs rfl ?_ (Task.setS_issued ..))
  simp only [Task.supersede_slot, Task.supersede_sreg, hreach, Bool.not_true, Bool.false_eq_true, if_false, if_true]

variable {n : BitVec 8} (hn : n ≠ 0#8)
include hn

theorem exec_wtok_takes (hfirst : (u.token ((s.task k).sreg a.val).toNat).waiters = [])
    (hcount : n.toNat ≤ (u.token ((s.task k).sreg a.val).toNat).count) :
    let r := u.takeToken ((s.task k).sreg a.val).toNat n.toNat
    exec (.wtok x d a n) s = .next (r.2.completes x k (((s.task k).supersede (sregs [d.val])).setS d.val r.1) ((s.task k).after 4)) := by
  refine congrArg Host.Outcome.next (issue_next hs rfl ?_ (Task.setS_issued ..))
  simp only [Task.supersede_slot, Task.supersede_sreg, hreach, hn, hfirst, hcount, Bool.not_true, Bool.false_eq_true, if_false, decide_true,
    Bool.and_self, if_true]

theorem exec_wtok_waits (hwait : (u.token ((s.task k).sreg a.val).toNat).waiters ≠ [] ∨ (u.token ((s.task k).sreg a.val).toNat).count < n.toNat) :
    let ad := ((s.task k).sreg a.val).toNat
    let v := u.setToken ad { u.token ad with waiters := (u.token ad).waiters ++ [k] }
    exec (.wtok x d a n) s = .next ((v.setTask k { v.task k with wait := .token ad n.toNat d.val }).setContext x { v.context x with phase := .waitToken }) := by
  have hnot : (decide ((u.token ((s.task k).sreg a.val).toNat).waiters = []) &&
      decide (n.toNat ≤ (u.token ((s.task k).sreg a.val).toNat).count)) = false := by
    rw [Bool.and_eq_false_iff, decide_eq_false_iff_not, decide_eq_false_iff_not, Nat.not_le]
    exact hwait
  refine congrArg Host.Outcome.next (issue_stays hs rfl ?_)
  simp only [Task.supersede_slot, Task.supersede_sreg, hreach, hn, Bool.not_true, Bool.false_eq_true, if_false]
  exact if_neg (ne_true_of_eq_false hnot)

end Wtok

/-- With no addition waiting and no store of the task outstanding, an addition is made at once (R172). -/
theorem applyAdds_single {u : State} {p : PendingAdd} (hstores : ∀ q ∈ u.posted, q.key ≠ p.key) (hadds : u.adds = []) :
    State.applyAdds { u with adds := u.adds ++ [p] } = u.bumpToken p.addr p.n false := by
  have hdue : (u.posted.any fun q => decide (q.key = p.key) && decide (q.id < p.before)) = false := by
    rw [List.any_eq_false]
    intro q hq
    simp [hstores q hq]
  have hu : { u with adds := [] } = u := by rw [← hadds]
  unfold State.applyAdds
  simp only [hadds, List.nil_append, List.filter_cons, List.filter_nil, hdue, Bool.not_false, Bool.not_true, Bool.false_eq_true, if_true, if_false,
    List.foldl_cons, List.foldl_nil, hu]

theorem exec_stok_adds {s u : State} {x k : Nat} {a : SReg} {n : BitVec 8} (hreach : u.tokenReach (s.task k).slot ((s.task k).sreg a.val) = true)
    (hs : Issues s x 4 (sregs [a.val]) k u) (hn : n ≠ 0#8) (hstores : ∀ p ∈ u.posted, p.key ≠ k) (hadds : u.adds = []) :
    exec (.stok x a n) s = .next ((u.bumpToken ((s.task k).sreg a.val).toNat n.toNat false).completes x k (s.task k) ((s.task k).after 4)) := by
  have hbody : ∀ {body : State → Nat → Task → Issue} {v : State}, body u k (s.task k) = .go v (s.task k) none →
      s.issue x { w0 := encWord 0x1D 0 a.val 0 n.toNat } (n = 0#8) (sregs [a.val]) [] body = v.completes x k (s.task k) ((s.task k).after 4) := by
    intro body v hb
    rw [decide_eq_false hn, issue_next_nil hs rfl hb rfl]
  refine congrArg Host.Outcome.next (hbody ?_)
  simp only [hreach, Bool.not_true, Bool.false_eq_true, if_false,
    applyAdds_single (p := ⟨k, ((s.task k).sreg a.val).toNat, n.toNat, u.tick⟩) hstores hadds]

/-- Settles O22: WTOK and its peek read the token word of R170, and take or wait by the rule of R171; STOK adds at once (R172). -/
theorem tokensTakeAndAdd : Obligations.TokensTakeAndAdd := by
  intro s u x k d a n t t' ad tk word hreach
  refine ⟨fun hs => ⟨?peek, ?zero, fun hn hfirst hcount => ?takes, fun hn hwait => ⟨_, exec_wtok_waits hreach hs hn hwait, ?waits⟩⟩,
    fun hs hn hstores hadds => ?adds⟩
  case peek => rw [exec_wtokPeek_reads hreach hs, Token.word_eq]
  case zero => rw [exec_wtok_zero hreach hs, Token.word_eq]
  case takes =>
    rw [exec_wtok_takes hreach hs hn hfirst hcount]
    simp only [State.takeToken, Token.word_eq]
    rfl
  case waits =>
    refine ⟨?_, ?_, ?_⟩ <;> simp [tk, ad, t]
  case adds =>
    rw [exec_stok_adds hreach hs hn hstores hadds]
    simp only [State.bumpToken, satTo_eq_min, Bool.or_false]
    rfl

section Wake

variable {s : State} {a n d k x b : Nat} {rest : List Nat} (hfirst : (s.token a).waiters = k :: rest) (hwait : (s.task k).wait = .token b n d)
  (hctx : s.ctxOfTask k = some x)
include hfirst hwait hctx

theorem wakeToken_short (hcount : (s.token a).count < n) : s.wakeToken a = s := by
  unfold State.wakeToken
  simp only [hfirst, hwait, hctx, hcount, if_true]

theorem wakeToken_serves (hcount : n ≤ (s.token a).count) :
    let r := State.takeToken (s.setToken a { s.token a with waiters := rest }) a n
    s.wakeToken a = r.2.resume x k (((s.task k).supersede [.s d]).setS d r.1) := by
  unfold State.wakeToken
  simp only [hfirst, hwait, hctx, Nat.not_lt.mpr hcount, if_false]

end Wake

@[simp] theorem Task.setS_pc (t : Task) (r : Nat) (v : Word) : (t.setS r v).pc = t.pc := by
  unfold Task.setS
  split <;> rfl

/-- A register other than s0 reads what was written to it. -/
theorem Task.sreg_setS_self (t : Task) {r : Nat} (v : Word) (h : r ≠ 0) : (t.setS r v).sreg r = v := by
  unfold Task.setS Task.sreg
  simp only [if_neg h, SMap.get_put_self]

/-- Settles O23: the oldest waiter is served by the rule by which WTOK takes at once, and its task resumes. -/
theorem tokenWakeServesFirstWaiter : Obligations.TokenWakeServesFirstWaiter := by
  intro s a n d k x rest b hfirst hwait hctx tk
  refine ⟨fun hcount => congrArg Host.Outcome.next (wakeToken_short hfirst hwait hctx hcount),
    fun hcount => ⟨_, congrArg Host.Outcome.next (wakeToken_serves hfirst hwait hctx hcount), ?_⟩⟩
  simp only [State.resume, State.takeToken, State.token_setToken_self, Token.word_eq]
  refine ⟨?token, ?wait, ?pc, ?ready, fun hd => ?register, ?mem, ?regs⟩
  case token => exact State.token_setToken_self ..
  case ready => simp
  case mem => simp
  case regs => simp
  all_goals simp only [State.task_setContext, State.task_setTask_self]
  case pc => rw [Task.setS_pc, Task.supersede_pc]
  case register => exact Task.sreg_setS_self _ _ hd

/-! ### Fences and the end of a task -/

theorem storesDone_iff (s : State) (k : Nat) : s.storesDone k = true ↔ ∀ p ∈ s.posted, p.key ≠ k := by
  simp [State.storesDone]

theorem haltMet_of {s : State} {k : Nat} (hstores : ∀ p ∈ s.posted, p.key ≠ k) (hquiet : ∀ e ∈ s.engines, e.2.owner = some k → e.2.quiet = true) :
    s.haltMet k = true := by
  unfold State.haltMet
  rw [(storesDone_iff s k).mpr hstores, Bool.true_and, List.all_eq_true]
  intro e he
  by_cases ho : e.2.owner = some k
  · simp [hquiet e he ho]
  · simp [ho]

section Fence

variable {s u : State} {x k : Nat} (hs : Issues s x 4 [] k u) {stores commands : Bool}
include hs

theorem fenceIssue_met (h : u.fenceMet k stores commands = true) :
    fenceIssue x stores commands s = u.completes x k (s.task k) ((s.task k).after 4) :=
  issue_next_nil hs rfl (if_pos h) rfl

theorem fenceIssue_waits (h : u.fenceMet k stores commands = false) : fenceIssue x stores commands s =
    (u.setTask k { u.task k with wait := .fence stores commands }).setContext x { u.context x with phase := .waitData } :=
  issue_stays_nil hs rfl (if_neg (ne_true_of_eq_false h))

theorem haltIssue_ends {e : Bool} (hlegal : e = true → (s.task k).update = false) (h : u.haltMet k = true) :
    haltIssue x e s = (u.endTask k e).tookTurn x := by
  have hok : (e && (s.task k).update) = false := Bool.and_eq_false_imp.mpr hlegal
  unfold haltIssue
  simp only [hs.task, hok]
  exact (issue_runs hs (by cases e <;> rfl)).trans (by simp only [h, if_true])

end Fence

section Release

variable {s : State} {x k : Nat} (htask : (s.context x).task = some k)
include htask

theorem fenceRelease_fence {stores commands : Bool} (hwait : (s.task k).wait = .fence stores commands) :
    s.fenceRelease x = if s.fenceMet k stores commands then s.resume x k (s.task k) else s := by
  unfold State.fenceRelease
  simp only [htask, hwait]

theorem fenceRelease_halt {e : Bool} (hwait : (s.task k).wait = .halt e) : s.fenceRelease x = if s.haltMet k then s.endTask k e else s := by
  unfold State.fenceRelease
  simp only [htask, hwait]

end Release

/-- Settles O24: what a fence and the end of a task wait for, at issue and at the release. That a release with nothing to release leaves the state as it
is (log entry 45) is the model's choice. -/
theorem fencesAndEnds : Obligations.FencesAndEnds := by
  intro s u x k t
  refine ⟨fun hs => ?issue, fun htask => ⟨fun stores commands hwait => ⟨fun hmet => ?resumes, fun hmet => ?held⟩, fun e hwait hmet => ?ends⟩⟩
  case issue =>
    intro stores commands waits
    have hmet : ∀ c : Bool, stores → (c = true → commands) → u.fenceMet k true c = true := by
      intro c hst hc
      unfold State.fenceMet
      rw [(storesDone_iff u k).mpr hst]
      cases c with
      | false => rfl
      | true => exact decide_eq_true (hc rfl)
    refine ⟨fun hst => ?stores, fun hst b => ?storesOut, fun hst hc => ?both, fun hc => ?commands, fun hc => ?commandsOut, fun hst hq => ?halts⟩
    case stores => exact congrArg Host.Outcome.next (fenceIssue_met hs (hmet false hst nofun))
    case storesOut =>
      have hno : u.storesDone k = false := Bool.eq_false_iff.mpr fun h => hst ((storesDone_iff u k).mp h)
      refine congrArg Host.Outcome.next (fenceIssue_waits hs ?_)
      unfold State.fenceMet
      rw [hno]
      rfl
    case both => exact congrArg Host.Outcome.next (fenceIssue_met hs (hmet true hst fun _ => hc))
    case commands => exact congrArg Host.Outcome.next (fenceIssue_met hs (decide_eq_true hc))
    case commandsOut => exact congrArg Host.Outcome.next (fenceIssue_waits hs (decide_eq_false hc))
    case halts =>
      have hend := haltMet_of hst hq
      exact ⟨congrArg Host.Outcome.next (haltIssue_ends hs nofun hend), fun hup => congrArg Host.Outcome.next (haltIssue_ends hs (fun _ => hup) hend)⟩
  case resumes => exact congrArg Host.Outcome.next ((fenceRelease_fence htask hwait).trans (if_pos hmet))
  case held => exact congrArg Host.Outcome.next ((fenceRelease_fence htask hwait).trans (if_neg (ne_true_of_eq_false hmet)))
  case ends => exact congrArg Host.Outcome.next ((fenceRelease_halt htask hwait).trans (if_pos hmet))

/-! ### YIELD and SPAWN -/

section Yield

variable {s u : State} {x k : Nat} (hs : Issues s x 4 [] k u) (hloads : (s.task k).loads = [])
include hs hloads

theorem exec_yield_saves {i : Nat} (hrec : u.freeRec (s.task k).slot = some i) (hroom : u.queueFull (motifOf x) = false) : exec (.yield x) s =
    .next (((u.setTask k { s.task k with pc := (s.task k).pc + 4#32, issued := (s.task k).issued + 1#32 }).saveTask x k i).tookTurn x) := by
  refine congrArg Host.Outcome.next ((issue_runs hs rfl).trans ?_)
  simp only [Task.supersede_nil, hloads, hrec, hroom, ne_eq, not_true_eq_false, Bool.false_eq_true, if_false]

theorem exec_yield_full (hrec : u.freeRec (s.task k).slot = none) :
    exec (.yield x) s = .next ((u.saveFull (s.task k).slot).completes x k (s.task k) ((s.task k).after 4)) := by
  refine congrArg Host.Outcome.next (issue_next_nil hs rfl ?_ rfl)
  simp only [hloads, hrec, ne_eq, not_true_eq_false, if_false]

end Yield

/-- SPAWN's result is 0, 1 or 2 (R173). -/
theorem placeTask_result_le (s : State) (m slot parent : Nat) (request : Option Nat) (w : List Word) :
    (s.placeTask m slot parent request w).2 ≤ 2 := by
  unfold State.placeTask
  dsimp only
  split
  · exact Nat.le_refl 2
  · split
    · exact Nat.le_succ 1
    · exact Nat.zero_le 2

theorem exec_spawn_places {s u : State} {x k : Nat} {d : SReg} {a : VReg} (heven : a.val % 2 = 0) (hup : (s.task k).update = false)
    (hs : Issues s x 4 (vregs [a.val, a.val + 1]) k u) :
    let t := s.task k
    let w := (List.range 16).map (fun i => BitVec.ofNat 32 (lane (t.vreg (a.val + i / 8)) (i % 8)))
    let r := u.placeTask (motifOf x) t.slot t.serial t.request w
    exec (.spawn x d a) s = .next ((r.1.setTask k { Task.setS { r.1.task k with loads := (t.supersede (sregs [d.val])).loads } d.val (BitVec.ofNat 32 r.2) with
      pc := t.after 4, issued := t.issued + 1#32 }).setRunning x) := by
  have hlegal : (decide (a.val % 2 = 1) || (s.task k).update) = false := by rw [heven, hup]; rfl
  show execSpawn x d a s = _
  unfold execSpawn
  simp only [hs.task, hlegal]
  exact congrArg Host.Outcome.next ((issue_go (pc := none) hs rfl rfl).trans (by rw [Option.getD_none]; rfl))

/-- Settles O25: a YIELD that saves its task or is counted, and a SPAWN with its result. A YIELD into a full queue (log entry 30) is outside the
hypotheses. -/
theorem yieldAndSpawn : Obligations.YieldAndSpawn := by
  intro s u x k t
  refine ⟨fun hs hloads => ⟨fun i hrec hroom => exec_yield_saves hs hloads hrec hroom, exec_yield_full hs hloads⟩,
    fun d a heven hup hs => ⟨exec_spawn_places heven hup hs, placeTask_result_le ..⟩⟩

end Sys2Proof.Machine
end

section
/-! PROOFS. Transfers, and hoist commands at issue (R159, R160, R166 to R168, R261, R474). -/

namespace Sys2Proof.Machine

/-! ### Transfers -/

/-- An XFER that passes its checks and finds room is queued, numbered and listed. -/
theorem exec_xfer_queues {s u : State} {x k : Nat} {d a : TReg} {b : SReg} (hs : Issues s x 4 (tregs [d.val, a.val] ++ sregs [b.val]) k u) :
    let t := s.task k
    let m := motifOf x
    let dst : Desc := ⟨(t.treg d.val).toNat⟩
    let src : Desc := ⟨(t.treg a.val).toNat⟩
    let word := (t.sreg b.val).toNat
    let c := u.command x k t { w0 := encWord 0x38 d.val a.val b.val 0 } word dst.tid
    u.xferFault m t.slot dst src word = none → (u.xfers m).length < xferLimit →
    exec (.xfer x d a b) s = .next ((u.setXfers m (u.xfers m ++ [{ info := c, dst := dst.raw, src := src.raw, subout := t.flush }])).numbered.completes
      x k (t.issuedCmd c) (t.after 4)) := by
  intro t m dst src word c hfault hroom
  refine congrArg Host.Outcome.next (issue_next_nil hs rfl ?_ rfl)
  have hfault' : u.xferFault (motifOf x) (s.task k).slot ⟨((s.task k).treg d.val).toNat⟩ ⟨((s.task k).treg a.val).toNat⟩
      ((s.task k).sreg b.val).toNat = none := hfault
  simp only [hfault']
  exact if_neg (Nat.not_le.mpr hroom)

section Complete

variable {s : State} {m i : Nat} (host : List Host.Cell)

theorem xferComplete_none (h : (s.xfers m)[i]? = none) : s.xferComplete m i host = s := by
  unfold State.xferComplete
  simp only [h, ite_self]

/-- One of the four running transfers whose banks answer is made whole, off the queue; it ends, faults, or goes on to the plait. -/
theorem xferComplete_runs {c : XCmd} (hi : i < 4) (hc : (s.xfers m)[i]? = some c)
    (hready : s.xferReady m (slotOf c.info.key) ⟨c.dst⟩ ⟨c.src⟩ = true) :
    let r := (s.setXfers m ((s.xfers m).eraseIdx i)).runXfer m c.info ⟨c.dst⟩ ⟨c.src⟩ c.subout host
    s.xferComplete m i host = State.settleAborts (match r.fault with
      | some code => r.st.deferFault code c.info 0 0
      | none => if r.sent then r.st else r.st.endCmd c.info r.err) := by
  intro r
  unfold State.xferComplete
  rw [if_neg (Nat.not_le.mpr hi), hc]
  simp only [hready, Bool.not_true, Bool.false_eq_true, if_false]
  show (match r.fault with | some _ => _ | none => _) = _
  cases r.fault <;> rfl

end Complete

/-- Settles O35: XFER is queued by its checks at issue, and its completion runs it. That a completion of none leaves the state as it is (log entry 45)
is the model's choice. -/
theorem transfers : Obligations.Transfers :=
  ⟨fun _ _ _ _ _ _ _ hs => exec_xfer_queues hs, fun _ _ _ host => ⟨fun h => congrArg Host.Outcome.next (xferComplete_none host h),
    fun _ hi hc hready => congrArg Host.Outcome.next (xferComplete_runs host hi hc hready)⟩⟩

/-! ### Hoist commands -/

/-- The command that HGATH and HSCAT form of the registers they read. -/
def State.hoistCmd (u : State) (x k op : Nat) (gather : Bool) (d a : TReg) (b : SReg) (t : Task) : HCmd :=
  let word := (t.sreg b.val).toNat
  let dd := (t.treg d.val).toNat
  let aa := (t.treg a.val).toNat
  { id := u.tick, info := u.command x k t { w0 := encWord op d.val a.val b.val 0 } word (Desc.tid ⟨if gather then dd else aa⟩), gather := gather,
    motif := motifOf x, d := dd, a := aa, word := word, flush := t.flush, request := t.request }

/-- What a hoist command reads when it issues. -/
def HCmd.reads (c : HCmd) : List (Nat × Nat) :=
  c.list.spans ++ (if c.gather then [] else c.rowsView.spans ++ (if c.winners then [(c.rowsView.aux, c.winBytes)] else []))

/-- The state in which a hoist has taken a command. -/
def State.hoistTakes (u : State) (h : Nat) (c : HCmd) (host : List Host.Cell) : State :=
  if c.gather then u.numbered.queueGather h c host else (u.numbered.setHoist h (u.hoist h ++ [c])).startScatter h c host

/-- A hoist command that passes its checks, with room in the hoist and its banks answering, is taken and listed in the task's commands. -/
theorem hoistIssue_takes {s u v : State} {x k op : Nat} {gather : Bool} {d a : TReg} {b : SReg} (host : List Host.Cell)
    (hs : Issues s x 4 (tregs [d.val, a.val] ++ sregs [b.val]) k u) (hup : (s.task k).update = false)
    (hroom : (u.hoist (hoistOf (motifOf x))).length < hoistLimit) :
    let c := u.hoistCmd x k op gather d a b (s.task k)
    u.hoistFault (motifOf x) (s.task k).slot c = none → u.spansReady (jobAgent (s.task k).slot) false c.reads = true →
    u.hoistTakes (hoistOf (motifOf x)) c host = v →
    hoistIssue x op gather d a b host s =
      (v.setTask k { (v.task k).issuedCmd c.info with pc := (s.task k).after 4, issued := (s.task k).issued + 1#32 }).setRunning x := by
  intro c hfault hready hv
  subst hv
  unfold hoistIssue
  simp only [hs.task, hup]
  refine (issue_go_nil (pc := none) hs rfl ?_).trans (by rw [Option.getD_none])
  split
  next e he => exact absurd (he.symm.trans hfault) nofun
  next =>
    refine (if_neg (Nat.not_le.mpr hroom)).trans ((if_neg ?_).trans ?_)
    · exact ne_true_of_eq_false (congrArg not hready)
    · rfl

/-- Settles O36: both commands issue by the one rule of the hoist. -/
theorem hoistIssues : Obligations.HoistIssues := by
  intro s u x k d a b host hs t m h word dd aa hroom hup
  refine ⟨fun hfault hready => ?gather, fun hfault hready => ?scatter⟩
  case gather =>
    have hreads : (u.hoistCmd x k 0x39 true d a b t).reads = (u.hoistCmd x k 0x39 true d a b t).list.spans := List.append_nil _
    exact congrArg Host.Outcome.next (hoistIssue_takes host hs hup hroom hfault (hreads ▸ hready) (if_pos rfl))
  case scatter => exact congrArg Host.Outcome.next (hoistIssue_takes host hs hup hroom hfault hready (if_neg Bool.false_ne_true))

end Sys2Proof.Machine
end

section
/-! PROOFS. What reads of device memory leave alone; chains and their stages (R160, R178, R179, R192). -/

namespace Sys2Proof.Machine

/-! ### Reads of device memory -/

/-- A part of the state outside what reads of device memory change: registers, events, banks, outputs, check caches and areas. -/
structure ReadsKeep {γ : Type} (g : State → γ) : Prop where
  wr : ∀ s a v, g (State.wr s a v) = g s
  raise : ∀ s code cls source data, g (State.raise s code cls source data) = g s
  setBank : ∀ s b v, g (State.setBank s b v) = g s
  emit : ∀ s o, g (State.emit s o) = g s
  cache : ∀ (s : State) l, g { s with checkCache := l } = g s
  areas : ∀ (s : State) l, g { s with areas := l } = g s

theorem readsKeep_mem : ReadsKeep State.mem :=
  ⟨State.wr_mem, State.raise_mem, State.setBank_mem, State.emit_mem, fun _ _ => rfl, fun _ _ => rfl⟩

theorem readsKeep_chains : ReadsKeep State.chains :=
  ⟨State.wr_chains, State.raise_chains, State.setBank_chains, State.emit_chains, fun _ _ => rfl, fun _ _ => rfl⟩

namespace ReadsKeep

variable {γ : Type} {g : State → γ} (h : ReadsKeep g) (s : State) (a n : Nat)
include h

theorem setFld (r lo m v : Nat) : g (s.setFld r lo m v) = g s := h.wr s r _
theorem count (r lo m k : Nat) : g (s.count r lo m k) = g s := h.wr s r _

theorem setStatus (r i : Nat) (code : Code) (cls : EvClass) (source : Nat) (data : List Nat) :
    g (s.setStatus r i code cls source data) = g s := by
  unfold State.setStatus
  split
  · rfl
  · exact (h.raise ..).trans (h.setFld ..)

theorem readWord : g (s.readWord a).1 = g s := by
  unfold State.readWord
  dsimp only
  split
  · rfl
  · rw [h.setBank, h.count, h.setStatus]
  · rw [h.wr, h.count]
    split <;> exact h.setStatus ..

theorem readPort : g (s.readPort a n).1 = g s := by
  unfold State.readPort
  refine foldl_frame_fst g (fun acc p => ?_) _ _
  exact h.readWord ..

theorem readPart (ag : Agent) : g (s.readPart ag a n).1 = g s := by
  unfold State.readPart
  split
  · exact (h.count ..).trans (h.setStatus ..)
  · split
    · exact h.readPort ..
    · exact (h.count ..).trans (h.setStatus ..)

theorem pairUe (c : Nat) : g (s.pairUe c a) = g s := by
  unfold State.pairUe State.logPair
  rw [h.wr, h.count, h.setStatus]

theorem pairCe (c sym : Nat) : g (s.pairCe c a sym) = g s := by
  unfold State.pairCe State.logPair
  rw [h.setFld, h.wr, h.count, h.setStatus]

theorem setCache (c : Nat) (l : List CheckEntry) : g (s.setCache c l) = g s := by
  unfold State.setCache
  refine (foldl_frame g (fun v e => ?_) _ _).trans (h.cache ..)
  split
  · exact h.areas ..
  · rfl

theorem touchArea (c block : Nat) : g (s.touchArea c block).1 = g s := by
  unfold State.touchArea
  dsimp only
  split
  · exact h.setCache ..
  · rw [h.setCache]
    split
    · rfl
    · exact h.pairCe ..
    · exact h.pairUe ..

theorem readPair : g (s.readPair a).1 = g s := by
  unfold State.readPair
  split
  · rfl
  · split
    · exact h.pairUe ..
    · dsimp only
      split
      · exact h.touchArea ..
      · exact (h.pairCe ..).trans (h.touchArea ..)
      · exact (h.pairUe ..).trans (h.touchArea ..)

theorem readExt : g (s.readExt a n).1 = g s := by
  unfold State.readExt
  refine foldl_frame_fst g (fun acc p => ?_) _ _
  exact h.readPair ..

theorem sendReads (w : Nat) : g (s.sendReads w a n) = g s := by
  unfold State.sendReads
  exact foldl_frame g (fun _ _ => h.emit ..) _ s

theorem readHost (host : List Host.Cell) : g (s.readHost a n host).1 = g s := by
  unfold State.readHost
  split
  · exact h.raise ..
  · dsimp only
    split
    · rfl
    · split
      · exact (h.raise ..).trans ((h.count ..).trans (h.sendReads ..))
      · exact h.sendReads ..

theorem readDev (ag : Agent) (host : List Host.Cell) : g (s.readDev ag a n host).1 = g s := by
  unfold State.readDev
  split
  · rfl
  · split
    · refine foldl_frame_fst g (fun acc p => ?_) _ _
      exact h.readPart ..
    · split
      · exact h.readExt ..
      · exact h.readHost ..

theorem readLines (ag : Agent) : g (s.readLines ag a n).1 = g s := by
  unfold State.readLines
  refine foldl_frame_fst g (fun acc i => ?_) _ _
  exact h.readDev ..

end ReadsKeep

/-- What turns and contexts do not touch, a context that runs leaves alone. -/
theorem setRunning_frame {γ : Type} (g : State → γ) (hcore : ∀ s c v, g (State.setCore s c v) = g s) (hctx : ∀ s x c, g (State.setContext s x c) = g s)
    (s : State) (x : Nat) : g (s.setRunning x) = g s := by
  unfold State.setRunning State.tookTurn
  refine (hctx _ _ _).trans ((hcore _ _ _).trans (foldl_frame g (fun v i => ?_) _ s))
  dsimp only
  split
  · exact hctx _ _ _
  · rfl

/-! ### CHAIN at issue -/

/-- The chain that CHAIN forms of the header `h`, its weights still to be read. -/
def newChain (x k : Nat) (t : Task) (i : Insn) (word at_ : Nat) (h : State × List Line × Bool) : Chain :=
  let hd := (h.2.1.headD 0#512).toNat
  let r := h.1.readLines (jobAgent t.slot) (at_ + 64) (3 * bitsOf hd 0 4)
  { info := r.1.command x k t i word 0, stages := bitsOf hd 0 4, blocks := bitsOf hd 4 16, flush := t.flush, recs := r.2.1, weights := [] }

/-- Where a chain's MTILE stages name their weights. -/
def Chain.weightSpans (c : Chain) (t : Task) : List (Nat × Nat) :=
  ((List.range c.stages).filter (fun i => c.kind i = 3)).map (fun i => (t.segment 1 + c.control i 6, 64))

/-- The weights of a chain's stages read after its records: the state, and the chain with them. -/
def Chain.readWeights (c : Chain) (t : Task) (at_ : Nat) (h : State × List Line × Bool) : State × Chain :=
  let r := h.1.readLines (jobAgent t.slot) (at_ + 64) (3 * c.stages)
  let w := (List.range c.stages).foldl (fun (acc : State × List Line × Bool) i =>
    if c.kind i = 3 then
      let l := acc.1.readLines (jobAgent t.slot) (t.segment 1 + c.control i 6) 1
      (l.1, acc.2.1 ++ l.2.1, acc.2.2 || l.2.2)
    else (acc.1, acc.2.1 ++ [0#512], acc.2.2)) (r.1, [], h.2.2 || r.2.2)
  (w.1, { c with weights := w.2.1, err := w.2.2 })

theorem ReadsKeep.readWeights {γ : Type} {g : State → γ} (hg : ReadsKeep g) (c : Chain) (t : Task) (at_ : Nat) (h : State × List Line × Bool) :
    g (c.readWeights t at_ h).1 = g h.1 := by
  unfold Chain.readWeights
  refine (foldl_frame_fst g (fun acc i => ?_) _ _).trans (hg.readLines ..)
  dsimp only
  split
  · exact hg.readLines ..
  · rfl

section Issue

variable {u : State} {x k : Nat} {t : Task} {word at_ : Nat}

/-- A chain whose records pass their checks, with room in the engine, is entered with its weights. -/
theorem takeChain_enters {i : Insn} {h : State × List Line × Bool} :
    let c := newChain x k t i word at_ h
    let r := c.readWeights t at_ h
    (∀ j, j < c.stages → c.kind j ≤ 4 ∧ c.control j 0 < 32) → u.protectSpans t.slot false (c.weightSpans t) = none →
    u.spansReady (jobAgent t.slot) false (c.weightSpans t) = true → u.tokenOk (motifOf x) t.slot word = true →
    (u.chainsOf (motifOf x)).length < chainLimit →
    u.takeChain x k t i word at_ h = .go ((r.1.setChains (motifOf x) (r.1.chainsOf (motifOf x) ++ [r.2])).numbered) (t.issuedCmd c.info) none := by
  intro c r hkinds hprot hready htok hroom
  have hlegal : ¬ (List.range c.stages).any (fun j => 4 < c.kind j || c.control j 0 ≥ 32) = true := by
    rw [List.any_eq_true]
    rintro ⟨j, hj, hbad⟩
    obtain ⟨hkind, hctl⟩ := hkinds j (List.mem_range.mp hj)
    simp only [Bool.or_eq_true, decide_eq_true_eq] at hbad
    omega
  unfold State.takeChain
  refine (if_neg hlegal).trans ?_
  split
  next e he => exact absurd (he.symm.trans hprot) nofun
  next =>
    refine (if_neg ?_).trans ((if_neg ?_).trans ((if_neg (Nat.not_le.mpr hroom)).trans rfl))
    · exact ne_true_of_eq_false (congrArg not htok)
    · exact ne_true_of_eq_false (congrArg not hready)

variable {a b : SReg}

/-- A CHAIN whose header passes its checks goes on to take the chain. -/
theorem chainBody_takes (hword : (t.sreg b.val).toNat < 512) (hat : at_ = t.segment 1 + (t.sreg a.val).toNat) (halign : at_ % 64 = 0)
    (hprot : u.protect t.slot at_ 64 false = none) (hready : u.spansReady (jobAgent t.slot) false [(at_, 64)] = true) :
    let h := u.readLines (jobAgent t.slot) at_ 1
    let hd := (h.2.1.headD 0#512).toNat
    chainHeaderOk hd = true → u.protect t.slot (at_ + 64) (192 * bitsOf hd 0 4) false = none →
    u.spansReady (jobAgent t.slot) false [(at_ + 64, 192 * bitsOf hd 0 4)] = true →
    State.chainBody x a b u k t = u.takeChain x k t (taskInsn 0 a.val b.val 2) (t.sreg b.val).toNat at_ h := by
  intro h hd hok hprot2 hready2
  subst hat
  have hshift : (t.sreg b.val).toNat >>> 9 = 0 := by
    rw [Nat.shiftRight_eq_div_pow]
    exact Nat.div_eq_of_lt hword
  unfold State.chainBody
  simp only [hshift, halign, hprot, hready, Bool.not_true, Bool.false_eq_true, ne_eq, not_true_eq_false, if_false]
  refine (if_neg (ne_true_of_eq_false (congrArg not hok))).trans ?_
  split
  next e he => exact absurd (he.symm.trans hprot2) nofun
  next => exact if_neg (ne_true_of_eq_false (congrArg not hready2))

theorem exec_chain_goes {s v : State} {t' : Task} (hs : Issues s x 4 (sregs [a.val, b.val]) k u) (hup : (s.task k).update = false)
    (hbody : State.chainBody x a b u k (s.task k) = .go v t' none) : exec (.chain x a b) s =
      .next ((v.setTask k { t' with pc := (s.task k).after 4, issued := (s.task k).issued + 1#32 }).setRunning x) := by
  show execChain x a b s = _
  unfold execChain
  simp only [hs.task, hup]
  exact congrArg Host.Outcome.next ((issue_go_nil (pc := none) hs rfl hbody).trans (by rw [Option.getD_none]))

/-- What a CHAIN that enters its chain leaves: one chain more, listed in the task's commands. -/
theorem exec_chain_enters {s : State} {c : Chain} {r : State × Chain} (hs : Issues s x 4 (sregs [a.val, b.val]) k u) (hup : (s.task k).update = false)
    (hbody : State.chainBody x a b u k (s.task k) =
      .go ((r.1.setChains (motifOf x) (r.1.chainsOf (motifOf x) ++ [r.2])).numbered) ((s.task k).issuedCmd c.info) none)
    (hmem : r.1.mem = u.mem) (hchains : r.1.chains = u.chains) :
    ∃ v, exec (.chain x a b) s = .next v ∧ v.chainsOf (motifOf x) = u.chainsOf (motifOf x) ++ [r.2] ∧
      (v.task k).cmds = (s.task k).cmds ++ [c.info.id] ∧ (v.task k).pc = (s.task k).after 4 ∧ v.mem = u.mem := by
  have hof : r.1.chainsOf (motifOf x) = u.chainsOf (motifOf x) := congrArg (SMap.get · [] (motifOf x)) hchains
  refine ⟨_, exec_chain_goes hs hup hbody, ?_, ?_, ?_, ?_⟩
  · refine (setRunning_frame (·.chainsOf (motifOf x)) (fun _ _ _ => rfl) (fun _ _ _ => rfl) _ x).trans ?_
    exact (State.chainsOf_setChains_self ..).trans (by rw [hof])
  · rw [setRunning_frame (State.task · k) (fun _ _ _ => rfl) (fun _ _ _ => rfl), State.task_setTask_self]
    rfl
  · rw [setRunning_frame (State.task · k) (fun _ _ _ => rfl) (fun _ _ _ => rfl), State.task_setTask_self]
  · exact (setRunning_frame State.mem (fun _ _ _ => rfl) (fun _ _ _ => rfl) _ x).trans hmem

end Issue

/-! ### Stages -/

section Start

variable {s : State} {m index k b : Nat} {c : Chain} (host : List Host.Cell)

theorem chainStart_held (hc : (s.chainsOf m)[index]? = some c) (hkind : c.kind k ≠ 3) (hmay : c.mayStart k b = false) :
    s.chainStart m index k b host = s := by
  unfold State.chainStart
  simp only [hc, hkind, hmay, decide_false, Bool.false_and, Bool.not_false, Bool.false_eq_true, if_false, if_true]

/-- A stage that may start has not started. -/
theorem Chain.not_started_of_mayStart (hmay : c.mayStart k b = true) : c.started.contains (b * 8 + k) = false := by
  unfold Chain.mayStart at hmay
  simp only [Bool.and_eq_true, Bool.not_eq_true'] at hmay
  obtain ⟨⟨⟨⟨⟨-, hnot⟩, -⟩, -⟩, -⟩, -⟩ := hmay
  exact hnot

/-- A stage that may start is given to its unit; where that has no room, nothing changes. -/
theorem chainStart_starts (hc : (s.chainsOf m)[index]? = some c) (hmay : c.mayStart k b = true) :
    let c' := { c with started := c.started ++ [b * 8 + k] }
    s.chainStart m index k b host = (State.startStage (s.setChain m c') m c' k b host).getD s := by
  intro c'
  unfold State.chainStart
  simp only [hc, hmay, Chain.not_started_of_mayStart hmay, Bool.and_false, Bool.not_true, Bool.false_eq_true, if_false]
  show (match State.startStage (s.setChain m c') m c' k b host with | some t => t | none => s) = _
  cases State.startStage (s.setChain m c') m c' k b host <;> rfl

/-- An XFER stage that passes its checks and finds room is queued as one of the chain's own. -/
theorem startStage_xfer (hkind : c.kind k = 0)
    (hfault : s.xferFault m (slotOf c.info.key) (c.dst k b) (c.src k b) (c.control k 1 / 512 * 512) = none) (hroom : (s.xfers m).length < xferLimit) :
    s.startStage m c k b host = some ((s.setXfers m (s.xfers m ++
      [{ info := s.stageInfo m c k b (c.dst k b).tid, dst := (c.dst k b).raw, src := (c.src k b).raw, subout := c.flush }])).numbered) := by
  unfold State.startStage
  simp only [hkind, hfault]
  exact if_neg (Nat.not_le.mpr hroom)

end Start

section Complete

variable {s : State} {m index f report : Nat} {c : Chain} {rest : List (Nat × Nat)} (hc : (s.chainsOf m)[index]? = some c)
include hc

theorem chainComplete_idle (hnone : c.landed = []) : s.chainComplete m index = s := by
  unfold State.chainComplete
  simp only [hc, hnone]

variable (hland : c.landed = (f, report) :: rest)
include hland

/-- A first footing mismatch of an MTILE runs the stage once more (R179). -/
theorem chainComplete_again (hreport : report = codeNumber .FOOTING_MISMATCH) (hkind : c.kind (f % 8) = 3) (hfirst : c.rerun.contains f = false) :
    let c' := { c with landed := rest, rerun := c.rerun ++ [f] }
    s.chainComplete m index = (s.setChain m c').startTile m c' (f % 8) (f / 8) := by
  unfold State.chainComplete
  simp only [hc, hland, ← hreport, hkind, hfirst, decide_true, Bool.not_false, Bool.and_self, if_true, List.drop_one, List.tail_cons]

/-- Any other report is taken; the last of a chain ends its command, and the last of a stopped one its deferred fault. -/
theorem chainComplete_takes (hnot : ¬ (report = codeNumber .FOOTING_MISMATCH ∧ c.kind (f % 8) = 3 ∧ c.rerun.contains f = false)) :
    let d := c.take f report
    let v := s.setChain m d
    let gone := v.setChains m ((v.chainsOf m).filter (fun e => e.info.id ≠ d.info.id))
    s.chainComplete m index = match d.stopped with
      | none => if d.done.length = d.stages * d.blocks then (gone.endCmd d.info d.err).settleAborts else v
      | some detail => if d.spent then (gone.deferFault .CHAIN_STOP d.info 0 (detail % 2 ^ 32)).settleAborts else v := by
  have hfalse : (decide (report = codeNumber .FOOTING_MISMATCH) && decide (c.kind (f % 8) = 3) && !c.rerun.contains f) = false := by
    rw [Bool.eq_false_iff]
    simpa [and_assoc] using hnot
  intro d v gone
  unfold State.chainComplete
  simp only [hc, hland]
  exact if_neg (ne_true_of_eq_false hfalse)

end Complete

end Sys2Proof.Machine
end

section
/-! PROOFS. HF_COLL_SEL (R334, R392), and what chains and the collective table do. -/

namespace Sys2Proof.Machine

/-! ### HF_COLL_SEL (R334, R392) -/

section Coll

variable (s : State) (v : Word)

theorem coll_setColl (h w : Nat) (x : Word) (j : Nat) :
    (s.setColl h w x).coll h j = if j = w then x else s.coll h j := by
  unfold State.coll State.setColl
  by_cases hjw : j = w
  · subst hjw
    rw [if_pos rfl, SMap.get_put_self]
  · rw [if_neg hjw, SMap.get_put_other]
    omega

theorem coll_setFld (r lo n x h w : Nat) : (s.setFld r lo n x).coll h w = s.coll h w := rfl

/-- LOAD shows the eight words of the descriptor that it selects. -/
theorem collLoad_eq : s.collLoad v = (List.range 8).foldl (fun t w => t.wr (Reg.HF_COLL_DATA w) (s.coll (bitsOf v.toNat 0 10) w))
    (s.setFld Reg.HF_COLL_SEL 0 10 (bitsOf v.toNat 0 10)) := by
  unfold State.collLoad
  simp only [coll_setFld]

theorem rd_collLoad_data {w : Nat} (hw : w < 8) : (s.collLoad v).rd (Reg.HF_COLL_DATA w) = s.coll (bitsOf v.toNat 0 10) w := by
  rw [collLoad_eq]
  exact rd_foldl_wr_mem _ _ (by decide) (List.mem_range.mpr hw) _

theorem rd_collLoad_other {r : Nat} (hr : ∀ w, w < 8 → r ≠ Reg.HF_COLL_DATA w) :
    (s.collLoad v).rd r = (s.setFld Reg.HF_COLL_SEL 0 10 (bitsOf v.toNat 0 10)).rd r := by
  rw [collLoad_eq]
  exact rd_foldl_wr_other _ _ (fun w hw => hr w (List.mem_range.mp hw)) _

theorem collSel_ne_data (w : Nat) : Reg.HF_COLL_SEL ≠ Reg.HF_COLL_DATA w := by
  unfold Reg.HF_COLL_SEL Reg.HF_COLL_DATA
  omega

theorem collLoad_selects : (s.collLoad v).fld Reg.HF_COLL_SEL 0 10 = bitsOf v.toNat 0 10 := by
  have hsel : (s.collLoad v).fld Reg.HF_COLL_SEL 0 10 = (s.setFld Reg.HF_COLL_SEL 0 10 (bitsOf v.toNat 0 10)).fld Reg.HF_COLL_SEL 0 10 := by
    unfold State.fld
    rw [rd_collLoad_other s v fun w _ => collSel_ne_data w]
  rw [hsel, State.fld_setFld_self _ _ _ (by decide)]
  exact Nat.mod_eq_of_lt (Nat.mod_lt _ (by decide))

theorem collLoad_frame {γ : Type} (g : State → γ) (hg : ∀ s a v, g (State.wr s a v) = g s) : g (s.collLoad v) = g s := by
  rw [collLoad_eq]
  exact (foldl_frame g (fun _ _ => hg ..) _ _).trans (hg ..)

theorem collStore_selects {w : Writer} (h : w ≠ .firmware) : s.collStore w v = s.setFld Reg.HF_COLL_SEL 0 10 (bitsOf v.toNat 0 10) :=
  if_pos h

theorem collStore_refused (h : bitsOf (s.coll (bitsOf v.toNat 0 10) 0).toNat 10 2 = 1) :
    s.collStore .firmware v = (s.setFld Reg.HF_COLL_SEL 0 10 (bitsOf v.toNat 0 10)).setBit Reg.HF_COLL_SEL 12 true :=
  if_pos h

/-- The eight words that STORE gives descriptor h (R334): TYPE, slot and element fields as written, STATE and EPOCH kept, RANK found. -/
def State.collWords (s : State) (h : Nat) : List Nat :=
  let d := fun (w : Nat) => (s.rd (Reg.HF_COLL_DATA w)).toNat
  let stride := max 1 (bitsOf (d 1) 16 16)
  let count := bitsOf (d 2) 0 17
  [setBits (d 0 % 2 ^ 10) 10 2 (bitsOf (s.coll h 0).toNat 10 2), bitsOf (d 1) 0 16 + 2 ^ 16 * stride, count,
    s.rankIn (bitsOf (d 0) 4 6) (bitsOf (d 1) 0 16) stride count, d 4 % 2 ^ 24, d 5, d 6 % 2 ^ 24, (s.coll h 7).toNat]

/-- Words stored into a descriptor from word n on. -/
def State.setColls (s : State) (h n : Nat) (l : List Nat) : State :=
  (l.zipIdx n).foldl (fun t e => t.setColl h e.2 (BitVec.ofNat 32 e.1)) s

theorem coll_setColls (h : Nat) (l : List Nat) (n j : Nat) : (s.setColls h n l).coll h j =
    if n ≤ j ∧ j < n + l.length then BitVec.ofNat 32 (l.getD (j - n) 0) else s.coll h j := by
  induction l generalizing s n with
  | nil => exact (if_neg (by rw [List.length_nil]; omega)).symm
  | cons x l ih =>
    have hcons : s.setColls h n (x :: l) = (s.setColl h n (BitVec.ofNat 32 x)).setColls h (n + 1) l := rfl
    rw [hcons, ih, coll_setColl, List.length_cons]
    rcases Nat.lt_trichotomy j n with hj | rfl | hj
    · rw [if_neg (by omega), if_neg (by omega), if_neg (by omega)]
    · rw [if_neg (by omega), if_pos rfl, if_pos (by omega), Nat.sub_self, List.getD_cons_zero]
    · obtain ⟨i, rfl⟩ := Nat.exists_eq_add_of_lt hj
      simp only [show n + i + 1 - n = i + 1 by omega, show n + i + 1 - (n + 1) = i by omega, List.getD_cons_succ, show ¬ n + i + 1 = n by omega, if_false]
      exact if_congr (by omega) rfl rfl

theorem setColls_frame {γ : Type} (g : State → γ) (hg : ∀ s h w v, g (State.setColl s h w v) = g s) (h n : Nat) (l : List Nat) :
    g (s.setColls h n l) = g s := foldl_frame g (fun _ _ => hg ..) _ s

theorem collStore_stores (h : bitsOf (s.coll (bitsOf v.toNat 0 10) 0).toNat 10 2 ≠ 1) :
    let sel := s.setFld Reg.HF_COLL_SEL 0 10 (bitsOf v.toNat 0 10)
    s.collStore .firmware v = (sel.setBit Reg.HF_COLL_SEL 12 false).setColls (bitsOf v.toNat 0 10) 0 (sel.collWords (bitsOf v.toNat 0 10)) := by
  intro sel
  unfold State.collStore
  exact (if_neg (by decide)).trans (if_neg h)

section Stored

variable {s v} (hrun : bitsOf (s.coll (bitsOf v.toNat 0 10) 0).toNat 10 2 ≠ 1)
include hrun

/-- A field of a descriptor's word after STORE, from the words that it gives. -/
theorem fld_collStore {j lo n : Nat} (hj : j < 8) (hlo : lo + n ≤ 32) :
    bitsOf ((s.collStore .firmware v).coll (bitsOf v.toNat 0 10) j).toNat lo n =
      bitsOf (((s.setFld Reg.HF_COLL_SEL 0 10 (bitsOf v.toNat 0 10)).collWords (bitsOf v.toNat 0 10)).getD j 0) lo n := by
  rw [collStore_stores s v hrun, coll_setColls, if_pos ⟨Nat.zero_le j, hj⟩, BitVec.toNat_ofNat, bitsOf_mod_two_pow _ hlo, Nat.sub_zero]

theorem collStore_frame {γ : Type} (g : State → γ) (hw : ∀ s a v, g (State.wr s a v) = g s) (hc : ∀ s h w v, g (State.setColl s h w v) = g s) :
    g (s.collStore .firmware v) = g s := by
  rw [collStore_stores s v hrun, setColls_frame _ g hc]
  exact (hw ..).trans (hw ..)

theorem collStore_clears : (s.collStore .firmware v).bit Reg.HF_COLL_SEL 12 = false := by
  rw [collStore_stores s v hrun, setColls_frame _ (·.bit Reg.HF_COLL_SEL 12) fun _ _ _ _ => rfl]
  exact State.bit_setBit_self _ _ false (by decide)

theorem collStore_typeAndSlot : bitsOf ((s.collStore .firmware v).coll (bitsOf v.toNat 0 10) 0).toNat 0 10 = bitsOf (s.rd (Reg.HF_COLL_DATA 0)).toNat 0 10 := by
  rw [fld_collStore hrun (by decide) (by decide)]
  refine (bitsOf_setBits_below _ _ _ (by decide)).trans ((bitsOf_mod_two_pow _ (by decide)).trans ?_)
  exact congrArg (fun w : Word => bitsOf w.toNat 0 10) (State.rd_setFld_other s 0 10 _ (collSel_ne_data 0).symm)

theorem collStore_state : bitsOf ((s.collStore .firmware v).coll (bitsOf v.toNat 0 10) 0).toNat 10 2 =
    bitsOf (s.coll (bitsOf v.toNat 0 10) 0).toNat 10 2 := by
  rw [fld_collStore hrun (by decide) (by decide)]
  exact (bitsOf_setBits_self ..).trans (Nat.mod_eq_of_lt (Nat.mod_lt _ (by decide)))

/-- MEMBER_BASE as written and MEMBER_STRIDE, at least 1. -/
theorem collStore_members : bitsOf ((s.collStore .firmware v).coll (bitsOf v.toNat 0 10) 1).toNat 0 16 = bitsOf (s.rd (Reg.HF_COLL_DATA 1)).toNat 0 16 ∧
    bitsOf ((s.collStore .firmware v).coll (bitsOf v.toNat 0 10) 1).toNat 16 16 = max 1 (bitsOf (s.rd (Reg.HF_COLL_DATA 1)).toNat 16 16) := by
  rw [fld_collStore hrun (by decide) (by decide), fld_collStore hrun (by decide) (by decide),
    ← State.rd_setFld_other s 0 10 (bitsOf v.toNat 0 10) (collSel_ne_data 1).symm]
  simp only [State.collWords, List.getD_cons_succ, List.getD_cons_zero, bitsOf_eq_div_mod]
  omega

theorem collStore_count : bitsOf ((s.collStore .firmware v).coll (bitsOf v.toNat 0 10) 2).toNat 0 17 = bitsOf (s.rd (Reg.HF_COLL_DATA 2)).toNat 0 17 := by
  rw [fld_collStore hrun (by decide) (by decide), ← State.rd_setFld_other s 0 10 (bitsOf v.toNat 0 10) (collSel_ne_data 2).symm]
  simp only [State.collWords, List.getD_cons_succ, List.getD_cons_zero, bitsOf_eq_div_mod]
  omega

/-- A word that STORE takes whole. -/
theorem coll_collStore_of_word {j : Nat} (hj : j < 8) {w : Word}
    (hword : ((s.setFld Reg.HF_COLL_SEL 0 10 (bitsOf v.toNat 0 10)).collWords (bitsOf v.toNat 0 10)).getD j 0 = w.toNat) :
    (s.collStore .firmware v).coll (bitsOf v.toNat 0 10) j = w := by
  rw [collStore_stores s v hrun, coll_setColls, if_pos ⟨Nat.zero_le j, hj⟩, Nat.sub_zero, hword, BitVec.ofNat_toNat, BitVec.setWidth_eq]

end Stored

/-- A component's store is firmware's within its region (R392). -/
theorem hfCollStore_component {s : State} {v : Word} {c : Nat} (hrun : s.fw.stopped.contains c = false)
    (hmay : s.componentMay c Reg.HF_COLL_SEL v = true) : exec (.hfCollStore (.component c) v) s = exec (.hfCollStore .firmware v) s := by
  refine congrArg Host.Outcome.next ?_
  have hhome : s.componentMay c (regHome Reg.HF_COLL_SEL) v = true := hmay
  simp only [State.byWriter, hrun, hhome, Bool.false_eq_true, if_false, if_true]

end Coll

/-! ### The obligation -/

/-- What CHAIN does at issue, from its header, its records and its weights. -/
theorem exec_chain_takes {s u : State} {x k : Nat} {a b : SReg} (hs : Issues s x 4 (sregs [a.val, b.val]) k u) (hup : (s.task k).update = false) :
    let t := s.task k
    let word := (t.sreg b.val).toNat
    let at_ := t.segment 1 + (t.sreg a.val).toNat
    let h := u.readLines (jobAgent t.slot) at_ 1
    let hd := (h.2.1.headD 0#512).toNat
    let c := newChain x k t (taskInsn 0 a.val b.val 2) word at_ h
    word < 512 → at_ % 64 = 0 → u.protect t.slot at_ 64 false = none → chainHeaderOk hd = true →
    u.protect t.slot (at_ + 64) (192 * c.stages) false = none → u.spansReady (jobAgent t.slot) false [(at_, 64)] = true →
    u.spansReady (jobAgent t.slot) false [(at_ + 64, 192 * c.stages)] = true → (∀ i, i < c.stages → c.kind i ≤ 4 ∧ c.control i 0 < 32) →
    u.protectSpans t.slot false (c.weightSpans t) = none → u.spansReady (jobAgent t.slot) false (c.weightSpans t) = true →
    u.tokenOk (motifOf x) t.slot word = true → (u.chainsOf (motifOf x)).length < chainLimit →
    ∃ v, exec (.chain x a b) s = .next v ∧ v.chainsOf (motifOf x) = u.chainsOf (motifOf x) ++ [(c.readWeights t at_ h).2] ∧
      (v.task k).cmds = t.cmds ++ [c.info.id] ∧ (v.task k).pc = t.after 4 ∧ v.mem = u.mem := by
  intro t word at_ h hd c hword halign hprot hok hprotRecs hready hreadyRecs hkinds hprotWeights hreadyWeights htok hroom
  have hbody := (chainBody_takes hword rfl halign hprot hready hok hprotRecs hreadyRecs).trans
    (takeChain_enters hkinds hprotWeights hreadyWeights htok hroom)
  exact exec_chain_enters hs hup hbody ((readsKeep_mem.readWeights ..).trans (readsKeep_mem.readLines ..))
    ((readsKeep_chains.readWeights ..).trans (readsKeep_chains.readLines ..))

/-- Settles O45. That a stopped chain ends once it is spent (log entry 60), that a component's write outside its registers stops it (log entry 39) and
that a stage whose turn has not come leaves the state as it is (log entry 45) are the model's choices. -/
theorem chainsAndCollectives : Obligations.ChainsAndCollectives := by
  refine ⟨⟨?issue, ?start, ?complete⟩, fun s v => ?coll⟩
  case issue =>
    intro s u x k a b hs hup t word at_ h hd n recs ctl weights hword halign hprot hok hprotRecs hready hreadyRecs hkinds hprotWeights hreadyWeights htok hroom
    obtain ⟨v, hv, hchains, hcmds, hpc, hmem⟩ :=
      exec_chain_takes hs hup hword halign hprot hok hprotRecs hready hreadyRecs hkinds hprotWeights hreadyWeights htok hroom
    exact ⟨v, _, hv, hchains, rfl, rfl, rfl, rfl, hcmds, hpc, hmem⟩
  case start =>
    intro s m index k b host c hc
    refine ⟨fun hkind hmay => congrArg Host.Outcome.next (chainStart_held host hc hkind hmay), fun hmay => ?_⟩
    intro c'
    have hstart : s.chainStart m index k b host = (State.startStage (s.setChain m c') m c' k b host).getD s := chainStart_starts host hc hmay
    refine ⟨fun hnone => congrArg Host.Outcome.next (hstart.trans (by rw [hnone, Option.getD_none])),
      fun t ht => congrArg Host.Outcome.next (hstart.trans (by rw [ht, Option.getD_some])), fun hkind hfault hroom => ?_⟩
    rw [startStage_xfer (c := c') host hkind hfault hroom, Option.getD_some] at hstart
    exact ⟨_, _, congrArg Host.Outcome.next hstart, State.xfers_setXfers_self (s.setChain m c') m _, rfl, rfl, rfl, rfl⟩
  case complete =>
    intro s m index c hc
    refine ⟨fun hnone => congrArg Host.Outcome.next (chainComplete_idle hc hnone), fun f report rest hland => ?_⟩
    have htakes := chainComplete_takes hc hland
    refine ⟨fun ⟨hreport, hkind, hfirst⟩ => congrArg Host.Outcome.next (chainComplete_again hc hland hreport hkind hfirst),
      fun hnot hstop => congrArg Host.Outcome.next ((htakes hnot).trans (by rw [hstop])),
      fun detail hnot hstop => congrArg Host.Outcome.next ((htakes hnot).trans (by rw [hstop]))⟩
  case coll =>
    intro h sel
    refine ⟨⟨_, rfl, collLoad_selects s v, collLoad_frame s v State.mem State.wr_mem, collLoad_frame s v State.colls State.wr_colls,
      fun w hw => rd_collLoad_data s v hw, fun r hsel hdata => (rd_collLoad_other s v hdata).trans (State.rd_setFld_other s 0 10 h hsel)⟩, ?selects,
      fun hrun => congrArg Host.Outcome.next (collStore_refused s v hrun), fun hrun => ⟨_, rfl, ?stored⟩,
      fun c hc => ⟨hfCollStore_component hc, fun hno => congrArg Host.Outcome.next (byWriter_stops_component (a := Reg.HF_COLL_SEL) hc hno _)⟩⟩
    case selects =>
      intro w hw hno
      exact congrArg Host.Outcome.next ((byWriter_of_no_component s hno _ v _).trans (collStore_selects s v hw))
    case stored =>
      have hstore : s.byWriter .firmware Reg.HF_COLL_SEL v (fun w => s.collStore w v) = s.collStore .firmware v := rfl
      rw [hstore]
      obtain ⟨hbase, hstride⟩ := collStore_members hrun
      refine ⟨collStore_clears hrun, collStore_frame hrun State.mem State.wr_mem fun _ _ _ _ => rfl, collStore_typeAndSlot hrun, collStore_state hrun,
        hbase, hstride, collStore_count hrun, coll_collStore_of_word hrun (by decide) ?_, coll_collStore_of_word hrun (by decide) rfl⟩
      exact congrArg BitVec.toNat (State.rd_setFld_other s 0 10 h (collSel_ne_data 5).symm)

end Sys2Proof.Machine
end

section
/-! PROOFS. How queued records reach contexts: dispatch, steals, automatic yields and evictions (R184 to R190, R199, R202). -/

namespace Sys2Proof.Machine

/-! ### A record taken -/

@[simp] theorem Task.setS_started (t : Task) (r : Nat) (v : Word) : (t.setS r v).started = t.started := by
  unfold Task.setS
  split <;> rfl

/-- A task that starts has started, whatever arguments go into its registers (R173). -/
theorem started_started (s : State) (t : Task) : (s.started t).started = true := by
  unfold State.started
  split
  · rfl
  · exact List.foldlRecOn (motive := fun u : Task => u.started = true) _ _ rfl fun u hu e _ => (Task.setS_started u _ _).trans hu

section Take

variable (s : State) (x k : Nat)

theorem context_takeRec : (s.takeRec x k).context x = { phase := if (s.task k).started then .waitData else .ready, task := some k } :=
  State.context_setContext_self ..

theorem saveRec_takeRec : ((s.takeRec x k).task k).saveRec = none := by
  unfold State.takeRec
  simp only [State.task_setContext, State.task_numbered, State.task_setTask_self]

theorem started_takeRec : ((s.takeRec x k).task k).started = true := by
  unfold State.takeRec
  simp only [State.task_setContext, State.task_numbered, State.task_setTask_self]
  split
  · assumption
  · exact started_started ..

/-- With no claims to make again, taking a record writes no memory. -/
theorem mem_takeRec (hclaims : (s.task k).claims = []) : (s.takeRec x k).mem = s.mem := by
  unfold State.takeRec
  simp only [hclaims, State.remakeClaims, List.foldl_nil, State.setContext_mem, State.numbered_mem, State.setTask_mem]
  split <;> rfl

end Take

/-! ### TASK_DISPATCH -/

section Dispatch

variable {s : State} {x : Nat}

/-- A context that is not free, or one with no record that it can take, takes none (log entry 45). -/
theorem dispatch_idle (h : s.feedQueues.isFree x = false ∨
    s.feedQueues.firstRec ((s.feedQueues.queue (motifOf x)).filter (s.feedQueues.takes (motifOf x))) = none) : s.dispatch x = s.feedQueues := by
  unfold State.dispatch
  rcases h with hbusy | hnone
  · simp only [hbusy, Bool.not_false, if_true]
  · simp only [hnone, ite_self]

theorem dispatch_takes {k : Nat} (hfree : s.feedQueues.isFree x = true)
    (hfirst : s.feedQueues.firstRec ((s.feedQueues.queue (motifOf x)).filter (s.feedQueues.takes (motifOf x))) = some k) :
    s.dispatch x = s.feedQueues.takeRec x k := by
  unfold State.dispatch
  simp only [hfree, hfirst, Bool.not_true, Bool.false_eq_true, if_false]

end Dispatch

/-! ### STEAL -/

/-- A steal counted for its slot at the order of R189 that found the record: the ground, the panel, the other panels (R190). -/
def State.countSteal (s : State) (slot : Nat) : Nat → State
  | 1 => s.count (Reg.PN_JOB_STEALS slot) 0 16 1
  | 2 => s.count (Reg.PN_JOB_STEALS slot) 16 16 1
  | _ => s.count (Reg.PN_JOB_CROSS slot) 0 16 1

theorem task_countSteal (s : State) (slot order k : Nat) : (s.countSteal slot order).task k = s.task k := by
  unfold State.countSteal
  split <;> exact State.task_count ..

theorem countSteal_ground (s : State) (slot : Nat) : s.countSteal slot 1 = s.count (Reg.PN_JOB_STEALS slot) 0 16 1 := rfl
theorem countSteal_panel (s : State) (slot : Nat) : s.countSteal slot 2 = s.count (Reg.PN_JOB_STEALS slot) 16 16 1 := rfl
theorem countSteal_cross (s : State) (slot : Nat) : s.countSteal slot 3 = s.count (Reg.PN_JOB_CROSS slot) 0 16 1 := rfl

section Steal

variable {s : State} {x : Nat} (hfree : s.feedQueues.isFree x = true)
  (hown : (s.feedQueues.queue (motifOf x)).any (s.feedQueues.takes (motifOf x)) = false)
include hfree hown

theorem steal_idle (hnone : [1, 2, 3].findSome? (s.feedQueues.stealAt (motifOf x)) = none) : s.steal x = s.feedQueues := by
  unfold State.steal
  simp only [hfree, hown, hnone, Bool.not_true, Bool.or_self, Bool.false_eq_true, if_false]

/-- The first record handed over is counted, moves once more and is taken. -/
theorem steal_takes {order k : Nat} (hfound : [1, 2, 3].findSome? (s.feedQueues.stealAt (motifOf x)) = some (order, k)) :
    s.steal x = (((s.feedQueues.countSteal (slotOf k) order).setTask k
      { s.feedQueues.task k with moves := (s.feedQueues.task k).moves + 1 }).takeRec x k) := by
  rw [← task_countSteal _ (slotOf k) order k]
  unfold State.steal
  simp only [hfree, hown, hfound, Bool.not_true, Bool.or_self, Bool.false_eq_true, if_false]
  rfl

end Steal

/-! ### AUTO_YIELD -/

/-- Whether a record of motif m's queue, of the class of a slot or a higher one, could run there (R186). -/
def State.otherRuns (s : State) (m slot : Nat) : Bool := (s.queue m).any (fun q => s.takes m q && s.classOf (slotOf q) ≤ s.classOf slot)

section AutoYield

variable {s : State} {x k : Nat} (htask : (s.context x).task = some k)
include htask

/-- A pinned task, one with a load outstanding, one that waits on no token and no array, and one that no other record could replace stay. -/
theorem autoYield_stays (h : s.otherRuns (motifOf x) (s.task k).slot = false ∨ (s.task k).pin = true ∨ (s.task k).loads ≠ [] ∨
    (s.context x).phase = .ready ∨ (s.context x).phase = .waitData) : s.autoYield x = s := by
  unfold State.autoYield
  simp only [htask]
  refine if_pos ?_
  rcases h with hother | hpin | hloads | hready | hdata
  · unfold State.otherRuns at hother
    simp only [hother, Bool.not_false, Bool.or_true]
  · simp only [hpin, Bool.or_true, Bool.true_or]
  · simp only [hloads, ne_eq, not_false_eq_true, decide_true, Bool.or_true, Bool.true_or]
  · rw [hready]; rfl
  · rw [hdata]; rfl

/-- A task that may yield is saved and queued last, its yield counted; a queue that holds too much then gives its context a record (log entry 30). With
no record of the save area free, the failed yield is counted. -/
theorem autoYield_yields (hwaits : (s.context x).phase = .waitToken ∨ (s.context x).phase = .waitArray) (hlimit : s.fld Reg.PN_SCHED_WAIT 16 16 ≠ 0)
    (hpin : (s.task k).pin = false) (hloads : (s.task k).loads = []) (hother : s.otherRuns (motifOf x) (s.task k).slot = true) :
    s.autoYield x = (s.freeRec (s.task k).slot).elim (s.saveFull (s.task k).slot) fun i =>
      let v := ((s.withdraw k).saveTask x k i).count (Reg.PN_JOB_YIELDS (s.task k).slot) 0 16 1
      if 64 < (v.queue (motifOf x)).length then v.dispatch x else v := by
  have hphase : (decide ((s.context x).phase = .waitToken) || decide ((s.context x).phase = .waitArray)) = true := by simpa using hwaits
  unfold State.otherRuns at hother
  unfold State.autoYield
  simp only [htask, hphase, hlimit, hpin, hloads, hother, Bool.not_true, decide_false, ne_eq, not_true_eq_false, Bool.or_self, Bool.false_eq_true, if_false]
  cases s.freeRec (s.task k).slot with
  | none => rfl
  | some i => simp only [Option.elim_some]

end AutoYield

/-! ### SERVE_EVICTION -/

section Evict

variable {s : State} {m k : Nat} (hfirst : s.firstRec ((s.queue m).filter (fun k => s.classOf (slotOf k) = 0 && s.takes m k)) = some k)
include hfirst

theorem evict_none (h : s.freeFor m k = true ∨ s.victim m = none) : s.evict m = s := by
  unfold State.evict
  simp only [hfirst]
  rcases h with hfree | hnone
  · exact if_pos hfree
  · simp only [hnone, ite_self]

/-- A victim within an instruction stays; one at a boundary is saved and its context taken, or, with no record of its save area free, the failed
save is counted (R187). -/
theorem evict_victim {x v : Nat} (hfree : s.freeFor m k = false) (hvictim : s.victim m = some (x, v)) :
    s.evict m = if (s.task v).atBoundary then (s.freeRec (slotOf v)).elim (s.saveFull (slotOf v)) fun i =>
      ((s.saveTask x v i).count (Reg.PN_JOB_CROSS (slotOf v)) 16 16 1).takeRec x k else s := by
  unfold State.evict
  simp only [hfirst, hfree, hvictim, Bool.false_eq_true, if_false]
  cases (s.task v).atBoundary
  · rfl
  · cases s.freeRec (slotOf v) <;> rfl

end Evict

/-! ### The obligation -/

/-- Settles O44. That records wait with the scheduler for queue room, and what an automatic yield into a full queue does (log entry 30), and that a command
whose occasion does not hold leaves the state as it is (log entry 45) are the model's choices. -/
theorem recordsReachContexts : Obligations.RecordsReachContexts := by
  refine ⟨fun s x => ?queued, fun s x k htask => ?yield, fun s m k hfirst => ?evict⟩
  case queued =>
    refine ⟨fun h => congrArg Host.Outcome.next (dispatch_idle h),
      fun k hfree hfirst => ⟨congrArg Host.Outcome.next (dispatch_takes hfree hfirst), ?taken⟩, fun hfree hown => ?steal⟩
    case taken =>
      have hctx := context_takeRec s.feedQueues x k
      exact fun hclaims => ⟨congrArg Ctx.task hctx, congrArg Ctx.phase hctx, started_takeRec .., saveRec_takeRec .., mem_takeRec _ _ _ hclaims⟩
    case steal =>
      have htakes := fun order k => steal_takes (order := order) (k := k) hfree hown
      refine ⟨fun k h1 => ?_, fun k h1 h2 => ?_, fun k h1 h2 h3 => ?_, fun h1 h2 h3 => ?_⟩
      · exact congrArg Host.Outcome.next ((htakes 1 k (by simp only [List.findSome?_cons, h1])).trans (by rw [countSteal_ground]))
      · exact congrArg Host.Outcome.next ((htakes 2 k (by simp only [List.findSome?_cons, h1, h2])).trans (by rw [countSteal_panel]))
      · exact congrArg Host.Outcome.next ((htakes 3 k (by simp only [List.findSome?_cons, h1, h2, h3])).trans (by rw [countSteal_cross]))
      · exact congrArg Host.Outcome.next (steal_idle hfree hown (by simp only [List.findSome?_cons, List.findSome?_nil, h1, h2, h3]))
  case yield =>
    refine ⟨fun h => congrArg Host.Outcome.next (autoYield_stays htask h), fun hwaits hlimit hpin hloads hother => ?_⟩
    have hyields := autoYield_yields htask hwaits hlimit hpin hloads hother
    exact ⟨fun hrec => congrArg Host.Outcome.next (hyields.trans (by rw [hrec, Option.elim_none])),
      fun i hrec => congrArg Host.Outcome.next (hyields.trans (by rw [hrec, Option.elim_some]))⟩
  case evict =>
    refine ⟨fun h => congrArg Host.Outcome.next (evict_none hfirst h), fun x v hfree hvictim => ?_⟩
    have hevict := evict_victim hfirst hfree hvictim
    exact ⟨fun hwithin => congrArg Host.Outcome.next (hevict.trans (by rw [hwithin]; rfl)),
      fun hbound hrec => congrArg Host.Outcome.next (hevict.trans (by rw [if_pos hbound, hrec, Option.elim_none])),
      fun i hbound hrec => congrArg Host.Outcome.next (hevict.trans (by rw [if_pos hbound, hrec, Option.elim_some]))⟩

end Sys2Proof.Machine
end

section
/-! PROOFS. Time-slices, the step-boundary drain with its hang, and the rotation of idle cores (R196 to R199, R203 to R205, R406, R467). -/

namespace Sys2Proof.Machine

/-! ### SLICE_REQUEST -/

/-- The holders that may be sliced, in the order of R196. -/
def State.sliceOrder (s : State) (holders : List Nat) : List Nat :=
  (holders.filter (fun j => j < 64 && s.classOf j ≠ 0 && (s.slotIs j .running || s.slotIs j .sweep || s.slotIs j .draining))).mergeSort s.slicedFirst

section Request

variable {s : State} {serve : Nat} {holders : List Nat}

theorem sliceRequest_idle (h : s.classOf serve ≠ 0 ∨ s.sliceOrder holders = []) : s.sliceRequest serve holders = s := by
  unfold State.sliceOrder at h
  unfold State.sliceRequest
  rcases h with hclass | hnone
  · simp only [hclass, ne_eq, not_false_eq_true, decide_true, Bool.true_or, if_true]
  · simp only [hnone, List.head?_nil, ite_self]

theorem sliceRequest_first {j : Nat} {rest : List Nat} (hclass : s.classOf serve = 0) (hrun : s.slotIs serve .running = true)
    (horder : s.sliceOrder holders = j :: rest) (hpend : (s.job j).slicePending = false) :
    s.sliceRequest serve holders = s.setJob j { s.job j with slicePending := true, sliceFor := some serve } := by
  unfold State.sliceOrder at horder
  unfold State.sliceRequest
  simp only [hclass, hrun, horder, hpend, List.head?_cons, ne_eq, not_true_eq_false, decide_false, Bool.true_or, Bool.not_true, Bool.or_self,
    Bool.false_eq_true, if_false]

end Request

/-! ### SLICE_RESTORE -/

/-- A slot that is not sliced has nothing to restore (log entry 45). -/
theorem sliceRestore_idle {s : State} {slot : Nat} (moves : List (Nat × Nat)) (h : s.slices.get none slot = none ∨ s.slotIs slot .sliced = false) :
    s.sliceRestore slot moves = s := by
  unfold State.sliceRestore
  cases hslice : s.slices.get none slot with
  | none => rfl
  | some sl =>
    have hnot : s.slotIs slot .sliced = false := h.resolve_left (by rw [hslice]; exact Option.some_ne_none sl)
    simp only [hnot, Bool.not_false, Bool.true_or, if_true]

theorem firmwareHolds_all {s : State} {banks : List Nat} (h : ∀ b ∈ banks, s.fld (Reg.BK_OWNER b) 0 3 = 0 ∧ s.bit (Reg.BK_OWNER b) 10 = false) :
    (banks.all fun b => s.fld (Reg.BK_OWNER b) 0 3 = 0 && !s.bit (Reg.BK_OWNER b) 10) = true := by
  simpa using h

section Restore

variable {s : State} {slot : Nat} {sl : SliceSt} (moves : List (Nat × Nat)) (hslice : s.slices.get none slot = some sl)
  (hsliced : s.slotIs slot .sliced = true) (hbanks : ∀ b ∈ sl.banks, s.fld (Reg.BK_OWNER b) 0 3 = 0 ∧ s.bit (Reg.BK_OWNER b) 10 = false)
  (hready : s.spansReady (.owner 0 0) true (sl.banks.map (fun b => (0x18000 * b, 0x18000))) = true)
include hslice hsliced hbanks hready

/-- A slice with no job key, or whose tag does not match, is dropped and its slot stopped (R406). -/
theorem sliceRestore_rejects :
    let v : State := { s with slices := s.slices.put none slot none }
    v.sec.jobKeys.get none slot = none ∨ v.sliceTag slot sl.records sl.size ≠ sl.tag →
    s.sliceRestore slot moves = (v.raise .SLICE_AUTH_FAIL .jobFatal (srcJob slot) [slot]).stopSlot slot := by
  intro v hbad
  have hfree := firmwareHolds_all hbanks
  have hauth : (decide (v.sec.jobKeys.get none slot = none) || decide (v.sliceTag slot sl.records sl.size ≠ sl.tag)) = true := by simpa using hbad
  unfold State.sliceRestore
  simp only [hslice, hsliced, hfree, hready, Bool.not_true, Bool.or_self, Bool.false_eq_true, if_false]
  exact if_pos hauth

/-- A slice of queued records alone whose tag matches: its records enter their motifs' queues again, or those that take their place, and the slot runs. -/
theorem sliceRestore_runs :
    let v : State := { s with slices := s.slices.put none slot none }
    v.sec.jobKeys.get none slot ≠ none → v.sliceTag slot sl.records sl.size = sl.tag → sl.banks = [] → sl.scales = [] → sl.tokens = [] →
    s.sliceRestore slot moves = (State.setSlot (sl.queued.foldl (fun s e =>
      s.enqueue (((moves.find? (fun m => m.1 = e.1)).map (·.2)).getD e.1) e.2) v) slot .running).nextStep slot := by
  intro v hkey htag hnobanks hnoscales hnotokens
  have hfree := firmwareHolds_all hbanks
  have hauth : ¬ (decide (v.sec.jobKeys.get none slot = none) || decide (v.sliceTag slot sl.records sl.size ≠ sl.tag)) = true := by simp [hkey, htag]
  unfold State.sliceRestore
  simp only [hslice, hsliced, hfree, hready, Bool.not_true, Bool.or_self, Bool.false_eq_true, if_false]
  refine (if_neg hauth).trans ?_
  simp only [hnobanks, hnoscales, hnotokens, List.zipIdx_nil, List.foldl_nil]
  rfl

end Restore

/-! ### DRAIN_QUIESCED -/

section Drain

variable {s : State} {slot : Nat} (banks failed : List Nat) (host : List Host.Cell) (loads : List ShardLoad)

/-- A slot that is not draining has no drain to go on with (log entry 45). -/
theorem drain_idle (h : s.slotIs slot .draining = false) : s.drain slot banks failed host loads = s := by
  unfold State.drain
  simp only [h, Bool.not_false, if_true]

variable (hdrain : s.slotIs slot .draining = true)
include hdrain

/-- Order 4 ends when the slot's units and tags are quiet. -/
theorem drain_holds (horder : (s.job slot).drainOrder = 4) (hbusy : s.unitsQuiet slot = false ∨ s.tagsQuiet slot = false) :
    s.drain slot banks failed host loads = s := by
  have hwait : (s.unitsQuiet slot && s.tagsQuiet slot) = false := Bool.and_eq_false_iff.mpr hbusy
  unfold State.drain
  simp only [hdrain, horder, Bool.and_assoc, hwait, Bool.not_true, Bool.and_false, Bool.false_eq_true, if_false]
  rfl

/-- A digest comparison that is due and not yet done holds the drain at order 9. -/
theorem drain_compares (horder : (s.job slot).drainOrder = 4) (hunits : s.unitsQuiet slot = true) (htags : s.tagsQuiet slot = true)
    (hdue : (s.drainFirst slot).compareDue slot = true) (hnot : ((s.drainFirst slot).job slot).compared ≠ 2) :
    s.drain slot banks failed host loads = s.drainFirst slot := by
  unfold State.drain
  simp only [hdrain, horder, hunits, htags, decide_true, Bool.and_self, Bool.not_true, Bool.false_eq_true, if_false, if_true]
  simp only [hdue, hnot, ne_eq, not_false_eq_true, decide_true, Bool.and_self, Bool.or_true, if_true]

/-- With no comparison due and no change of layout under way, orders 9 to 13 run. -/
theorem drain_ends (horder : (s.job slot).drainOrder = 9) (hcompared : s.compareDue slot = false ∨ (s.job slot).compared = 2)
    (hlayout : ((s.epochBegin slot host).epochSt slot).order = 0) :
    s.drain slot banks failed host loads = (s.epochBegin slot host).drainLast slot banks failed host loads := by
  have hgo : (s.compareDue slot && decide ((s.job slot).compared ≠ 2)) = false :=
    Bool.and_eq_false_iff.mpr (hcompared.imp_right fun h => decide_eq_false (not_not_intro h))
  have hnot : (decide ((s.job slot).drainOrder = 4) && s.unitsQuiet slot && s.tagsQuiet slot) = false := by rw [horder]; rfl
  unfold State.drain
  simp only [hdrain, hnot, Bool.not_true, Bool.false_eq_true, if_false]
  simp only [horder, hgo, hlayout, ne_eq, not_true_eq_false, decide_false, Bool.or_self, Bool.false_eq_true, if_false]

end Drain

/-! ### STEP_HANG -/

section Hang

variable {s : State} {slot : Nat}

theorem stepHang_held (h : (s.job slot).drainOrder = 0 ∨ s.slotIs slot .sweep = true ∨ (s.job slot).shiftHeld = true) : s.stepHang slot = s := by
  unfold State.stepHang
  exact if_pos (by simpa [or_assoc] using h)

theorem stepHang_stops (horder : (s.job slot).drainOrder ≠ 0) (hsweep : s.slotIs slot .sweep = false) (hheld : (s.job slot).shiftHeld = false) :
    s.stepHang slot = State.leasesProceed (((s.raise .STEP_HANG .jobFatal (srcJob slot) (s.hangData slot)).moveEntries slot [1] 3).stopWith slot 15) := by
  unfold State.stepHang
  exact if_neg (by simp [horder, hsweep, hheld])

end Hang

/-! ### IDLE_CORE_ROTATION -/

section Rotation

variable {s : State} {m : Nat} {failed : Bool}

/-- Whether no context of a motif holds a task and its queue is empty. -/
def State.motifIdle (s : State) (m : Nat) : Prop := (∀ i, i < 128 → (s.context (m * 128 + i)).task = none) ∧ s.queue m = []

theorem motifIdle_iff (s : State) (m : Nat) :
    ((List.range 128).all (fun i => (s.context (m * 128 + i)).task = none) && s.queue m = []) = true ↔ s.motifIdle m := by
  unfold State.motifIdle
  simp only [Bool.and_eq_true, List.all_eq_true, List.mem_range, decide_eq_true_eq]

theorem idleRotate_rotates (hm : m < 10240) (hhome : s.bit (Reg.MT_JOBS m) 6 = false) (hdue : s.rotationDue m = true) (hidle : s.motifIdle m) :
    s.idleRotate m failed = s.rotate m failed := by
  unfold State.idleRotate
  exact if_pos (by simp only [hm, hhome, hdue, (motifIdle_iff s m).mpr hidle, decide_true, Bool.not_false, Bool.and_self])

theorem idleRotate_idle (h : 10240 ≤ m ∨ s.bit (Reg.MT_JOBS m) 6 = true ∨ s.rotationDue m = false ∨ ¬ s.motifIdle m) : s.idleRotate m failed = s := by
  unfold State.idleRotate
  refine if_neg fun hall => ?_
  rw [Bool.and_eq_true, motifIdle_iff, Bool.and_eq_true, Bool.and_eq_true, decide_eq_true_eq, Bool.not_eq_true'] at hall
  obtain ⟨⟨⟨hm, hhome⟩, hdue⟩, hidle⟩ := hall
  rcases h with hout | hjob | hnot | hbusy
  · exact absurd hm (Nat.not_lt.mpr hout)
  · exact Bool.noConfusion (hhome.symm.trans hjob)
  · exact Bool.noConfusion (hnot.symm.trans hdue)
  · exact hbusy hidle

end Rotation

/-! ### The obligation -/

/-- Settles O43. The order of holders, the banks that a slice releases and what a restore needs (log entry 71), and that a command whose occasion does not
hold leaves the state as it is (log entry 45), are the model's choices. -/
theorem slicesAndDrains : Obligations.SlicesAndDrains := by
  refine ⟨⟨fun s serve holders => ?request, fun s slot => ?late, fun s slot banks => ?take, fun s slot moves => ?restore⟩,
    fun s slot banks failed host loads => ?drain, fun s slot => ?hang, fun s m failed => ?rotation⟩
  case request =>
    exact ⟨fun h => congrArg Host.Outcome.next (sliceRequest_idle h),
      fun j rest hclass hrun horder hpend => congrArg Host.Outcome.next (sliceRequest_first hclass hrun horder hpend)⟩
  case late => exact ⟨fun h => congrArg Host.Outcome.next (if_pos h), fun h => congrArg Host.Outcome.next (if_neg (ne_true_of_eq_false h))⟩
  case take => exact ⟨fun h => congrArg Host.Outcome.next (if_pos h), fun h => congrArg Host.Outcome.next (if_neg (ne_true_of_eq_false h))⟩
  case restore =>
    have hends {t : State} (h : s.sliceRestore slot moves = t) : exec (.sliceRestore slot moves) s = .next (t.finishResume slot) :=
      congrArg (fun t : State => Host.Outcome.next (t.finishResume slot)) h
    refine ⟨fun h => hends (sliceRestore_idle moves h), fun sl hslice hsliced hbanks hready => ?_⟩
    exact ⟨fun hbad => hends (sliceRestore_rejects moves hslice hsliced hbanks hready hbad), fun hkey htag hnobanks hnoscales hnotokens =>
      hends (sliceRestore_runs moves hslice hsliced hbanks hready hkey htag hnobanks hnoscales hnotokens)⟩
  case drain =>
    refine ⟨fun h => congrArg Host.Outcome.next (drain_idle _ _ _ _ h), fun hdrain => ⟨fun horder hbusy => ?_, fun horder hunits htags hdue hnot => ?_,
      fun horder hcompared hlayout => ?_⟩⟩
    · exact congrArg Host.Outcome.next (drain_holds _ _ _ _ hdrain horder hbusy)
    · exact congrArg Host.Outcome.next (drain_compares _ _ _ _ hdrain horder hunits htags hdue hnot)
    · exact congrArg Host.Outcome.next (drain_ends _ _ _ _ hdrain horder hcompared hlayout)
  case hang =>
    exact ⟨fun h => congrArg Host.Outcome.next (stepHang_held h),
      fun horder hsweep hheld => congrArg Host.Outcome.next (stepHang_stops horder hsweep hheld)⟩
  case rotation =>
    exact ⟨fun hm hhome hdue hidle => congrArg Host.Outcome.next (idleRotate_rotates hm hhome hdue hidle),
      fun h => congrArg Host.Outcome.next (idleRotate_idle h)⟩

end Sys2Proof.Machine
end

section
/-! PROOFS. What every command keeps, and so every step. -/

namespace Sys2Proof.Machine

/-- A command whose outcome keeps has a next state, which keeps. -/
theorem KeepsNext.exists_next {s : State} {o : Host.Outcome State Fault Refusal} (h : KeepsNext s o) : ∃ t, o = .next t ∧ Keeps s t := by
  cases h with
  | next hk => exact ⟨_, rfl, hk⟩

/-- Every command answers a next state, which keeps what the state before it kept. -/
theorem keepsNext_exec {s0 s : State} (c : Instr) (hk : Keeps s0 s) : KeepsNext s0 (exec c s) := by
  cases c with
  | registerWrite => exact keeps_execRegisterWrite (hk := hk) ..
  | rcCounterRead => exact keeps_execRcCounterRead (hk := hk) ..
  | latchedLoRead => exact keeps_execLatchedLoRead (hk := hk) ..
  | statLoRead => exact keeps_execStatLoRead (hk := hk) ..
  | canaryWindow => exact keeps_execCanaryWindow (hk := hk) ..
  | voltageControllerRun => exact keeps_execVoltageControllerRun (hk := hk) ..
  | hardwareClamp => exact keeps_execHardwareClamp (hk := hk) ..
  | bridgeTransfer => exact keeps_execBridgeTransfer (hk := hk) ..
  | add => exact keeps_execAdd (hk := hk) ..
  | sub => exact keeps_execSub (hk := hk) ..
  | and => exact keeps_execAnd (hk := hk) ..
  | or => exact keeps_execOr (hk := hk) ..
  | xor => exact keeps_execXor (hk := hk) ..
  | shl => exact keeps_execShl (hk := hk) ..
  | shr => exact keeps_execShr (hk := hk) ..
  | sra => exact keeps_execSra (hk := hk) ..
  | mul => exact keeps_execMul (hk := hk) ..
  | mulh => exact keeps_execMulh (hk := hk) ..
  | divu => exact keeps_execDivu (hk := hk) ..
  | li => exact keeps_execLi (hk := hk) ..
  | lui => exact keeps_execLui (hk := hk) ..
  | beq => exact keeps_execBeq (hk := hk) ..
  | bne => exact keeps_execBne (hk := hk) ..
  | blt => exact keeps_execBlt (hk := hk) ..
  | bge => exact keeps_execBge (hk := hk) ..
  | j => exact keeps_execJ (hk := hk) ..
  | jl => exact keeps_execJl (hk := hk) ..
  | getcw => exact keeps_execGetcw (hk := hk) ..
  | setcw => exact keeps_execSetcw (hk := hk) ..
  | ldw => exact keeps_execLdw (hk := hk) ..
  | stw => exact keeps_execStw (hk := hk) ..
  | vld => exact keeps_execVld (hk := hk) ..
  | vst => exact keeps_execVst (hk := hk) ..
  | ldt => exact keeps_execLdt (hk := hk) ..
  | stt => exact keeps_execStt (hk := hk) ..
  | loadReturn => exact keeps_execLoadReturn (hk := hk) ..
  | storeComplete => exact keeps_execStoreComplete (hk := hk) ..
  | bankAccess => exact keeps_execBankAccess (hk := hk) ..
  | vadd => exact keeps_execVadd (hk := hk) ..
  | vsub => exact keeps_execVsub (hk := hk) ..
  | vmul => exact keeps_execVmul (hk := hk) ..
  | vfma => exact keeps_execVfma (hk := hk) ..
  | vmax => exact keeps_execVmax (hk := hk) ..
  | vmin => exact keeps_execVmin (hk := hk) ..
  | vrcp => exact keeps_execVrcp (hk := hk) ..
  | vrsq => exact keeps_execVrsq (hk := hk) ..
  | vexp2 => exact keeps_execVexp2 (hk := hk) ..
  | vcmp => exact keeps_execVcmp (hk := hk) ..
  | vred => exact keeps_execVred (hk := hk) ..
  | vsel => exact keeps_execVsel (hk := hk) ..
  | vspl => exact keeps_execVspl (hk := hk) ..
  | vget => exact keeps_execVget (hk := hk) ..
  | vdact => exact keeps_execVdact (hk := hk) ..
  | vcvt => exact keeps_execVcvt (hk := hk) ..
  | vqnt => exact keeps_execVqnt (hk := hk) ..
  | vqntCal => exact keeps_execVqntCal (hk := hk) ..
  | vdq => exact keeps_execVdq (hk := hk) ..
  | mcfg => exact keeps_execMcfg (hk := hk) ..
  | mcfgRel => exact keeps_execMcfgRel (hk := hk) ..
  | arrayClaimGrant => exact keeps_execArrayClaimGrant (hk := hk) ..
  | mpass => exact keeps_execMpass (hk := hk) ..
  | mlds => exact keeps_execMlds (hk := hk) ..
  | mldsDone => exact keeps_execMldsDone (hk := hk) ..
  | mstr => exact keeps_execMstr (hk := hk) ..
  | chunkStreamEnd => exact keeps_execChunkStreamEnd (hk := hk) ..
  | mswap => exact keeps_execMswap (hk := hk) ..
  | mswapEffect => exact keeps_execMswapEffect (hk := hk) ..
  | mdrn => exact keeps_execMdrn (hk := hk) ..
  | drainStart => exact keeps_execDrainStart (hk := hk) ..
  | drainComplete => exact keeps_execDrainComplete (hk := hk) ..
  | replayDone => exact keeps_execReplayDone (hk := hk) ..
  | arraySelftestDone => exact keeps_execArraySelftestDone (hk := hk) ..
  | mchk => exact keeps_execMchk (hk := hk) ..
  | mchkSelftest => exact keeps_execMchkSelftest (hk := hk) ..
  | maFootCtlWrite => exact keeps_execMaFootCtlWrite (hk := hk) ..
  | plaitOpen => exact keeps_execPlaitOpen (hk := hk) ..
  | plaitContribution => exact keeps_execPlaitContribution (hk := hk) ..
  | plaitFallbackWrite => exact keeps_execPlaitFallbackWrite (hk := hk) ..
  | plaitJoin => exact keeps_execPlaitJoin (hk := hk) ..
  | plaitOutput => exact keeps_execPlaitOutput (hk := hk) ..
  | plaitEntryDone => exact keeps_execPlaitEntryDone (hk := hk) ..
  | xfer => exact keeps_execXfer (hk := hk) ..
  | xferComplete => exact keeps_execXferComplete (hk := hk) ..
  | hgath => exact keeps_execHgath (hk := hk) ..
  | hscat => exact keeps_execHscat (hk := hk) ..
  | rowReturn => exact keeps_execRowReturn (hk := hk) ..
  | hgathComplete => exact keeps_execHgathComplete (hk := hk) ..
  | coalStore => exact keeps_execCoalStore (hk := hk) ..
  | hscatComplete => exact keeps_execHscatComplete (hk := hk) ..
  | wtok => exact keeps_execWtok (hk := hk) ..
  | wtokPeek => exact keeps_execWtokPeek (hk := hk) ..
  | wtokWake => exact keeps_execWtokWake (hk := hk) ..
  | stok => exact keeps_execStok (hk := hk) ..
  | yield => exact keeps_execYield (hk := hk) ..
  | spawn => exact keeps_execSpawn (hk := hk) ..
  | chain => exact keeps_execChain (hk := hk) ..
  | chainStageStart => exact keeps_execChainStageStart (hk := hk) ..
  | chainStageComplete => exact keeps_execChainStageComplete (hk := hk) ..
  | fenceStores => exact keeps_execFenceStores (hk := hk) ..
  | fenceCommands => exact keeps_execFenceCommands (hk := hk) ..
  | fenceRelease => exact keeps_execFenceRelease (hk := hk) ..
  | halt => exact keeps_execHalt (hk := hk) ..
  | stepend => exact keeps_execStepend (hk := hk) ..
  | deferredFaultReport => exact keeps_execDeferredFaultReport (hk := hk) ..
  | pnJobmapWrite => exact keeps_execPnJobmapWrite (hk := hk) ..
  | taskDispatch => exact keeps_execTaskDispatch (hk := hk) ..
  | autoYield => exact keeps_execAutoYield (hk := hk) ..
  | serveEviction => exact keeps_execServeEviction (hk := hk) ..
  | steal => exact keeps_execSteal (hk := hk) ..
  | sliceRequest => exact keeps_execSliceRequest (hk := hk) ..
  | sliceTake => exact keeps_execSliceTake (hk := hk) ..
  | sliceWaitExpire => exact keeps_execSliceWaitExpire (hk := hk) ..
  | sliceRestore => exact keeps_execSliceRestore (hk := hk) ..
  | sweepStart => exact keeps_execSweepStart (hk := hk) ..
  | sweepUpdateTask => exact keeps_execSweepUpdateTask (hk := hk) ..
  | sweepPhase2 => exact keeps_execSweepPhase2 (hk := hk) ..
  | drainQuiesced => exact keeps_execDrainQuiesced (hk := hk) ..
  | stepHang => exact keeps_execStepHang (hk := hk) ..
  | idleCoreRotation => exact keeps_execIdleCoreRotation (hk := hk) ..
  | shadowRefresh => exact keeps_execShadowRefresh (hk := hk) ..
  | bankHandover => exact keeps_execBankHandover (hk := hk) ..
  | handoverComplete => exact keeps_execHandoverComplete (hk := hk) ..
  | bankPowerWrite => exact keeps_execBankPowerWrite (hk := hk) ..
  | bankTransitionDone => exact keeps_execBankTransitionDone (hk := hk) ..
  | bankScrubRead => exact keeps_execBankScrubRead (hk := hk) ..
  | scrubWriteback => exact keeps_execScrubWriteback (hk := hk) ..
  | marchStart => exact keeps_execMarchStart (hk := hk) ..
  | marchPreserveStart => exact keeps_execMarchPreserveStart (hk := hk) ..
  | marchLineDone => exact keeps_execMarchLineDone (hk := hk) ..
  | marchDone => exact keeps_execMarchDone (hk := hk) ..
  | ldRead => exact keeps_execLdRead (hk := hk) ..
  | ldWrite => exact keeps_execLdWrite (hk := hk) ..
  | ldRefresh => exact keeps_execLdRefresh (hk := hk) ..
  | ldRfm => exact keeps_execLdRfm (hk := hk) ..
  | ldCalibration => exact keeps_execLdCalibration (hk := hk) ..
  | ldScrubRead => exact keeps_execLdScrubRead (hk := hk) ..
  | ldPackageTrain => exact keeps_execLdPackageTrain (hk := hk) ..
  | ldChFail => exact keeps_execLdChFail (hk := hk) ..
  | deepAccess => exact keeps_execDeepAccess (hk := hk) ..
  | deepReadCompletion => exact keeps_execDeepReadCompletion (hk := hk) ..
  | deepTimeout => exact keeps_execDeepTimeout (hk := hk) ..
  | tagGrant => exact keeps_execTagGrant (hk := hk) ..
  | emTselLoad => exact keeps_execEmTselLoad (hk := hk) ..
  | emTselStore => exact keeps_execEmTselStore (hk := hk) ..
  | emPublishGo => exact keeps_execEmPublishGo (hk := hk) ..
  | emVersionFreed => exact keeps_execEmVersionFreed (hk := hk) ..
  | coalFlush => exact keeps_execCoalFlush (hk := hk) ..
  | haulEpochEnd => exact keeps_execHaulEpochEnd (hk := hk) ..
  | prospectSlotRead => exact keeps_execProspectSlotRead (hk := hk) ..
  | prospectRetry => exact keeps_execProspectRetry (hk := hk) ..
  | prospectStageRow => exact keeps_execProspectStageRow (hk := hk) ..
  | prospectReturn => exact keeps_execProspectReturn (hk := hk) ..
  | digestCompare => exact keeps_execDigestCompare (hk := hk) ..
  | digestRepair => exact keeps_execDigestRepair (hk := hk) ..
  | prefetchStart => exact keeps_execPrefetchStart (hk := hk) ..
  | microbatchStart => exact keeps_execMicrobatchStart (hk := hk) ..
  | waitPolicyAction => exact keeps_execWaitPolicyAction (hk := hk) ..
  | serveReq => exact keeps_execServeReq (hk := hk) ..
  | serveDispatch => exact keeps_execServeDispatch (hk := hk) ..
  | serveRsp => exact keeps_execServeRsp (hk := hk) ..
  | data => exact keeps_execData (hk := hk) ..
  | rowReq => exact keeps_execRowReq (hk := hk) ..
  | rowRsp => exact keeps_execRowRsp (hk := hk) ..
  | grad => exact keeps_execGrad (hk := hk) ..
  | bulk => exact keeps_execBulk (hk := hk) ..
  | ack => exact keeps_execAck (hk := hk) ..
  | open_ => exact keeps_execOpen (hk := hk) ..
  | openOk => exact keeps_execOpenOk (hk := hk) ..
  | close => exact keeps_execClose (hk := hk) ..
  | epochNak => exact keeps_execEpochNak (hk := hk) ..
  | epochReady => exact keeps_execEpochReady (hk := hk) ..
  | epochCommit => exact keeps_execEpochCommit (hk := hk) ..
  | epochAdopted => exact keeps_execEpochAdopted (hk := hk) ..
  | peerLoss => exact keeps_execPeerLoss (hk := hk) ..
  | peerBack => exact keeps_execPeerBack (hk := hk) ..
  | layoutReq => exact keeps_execLayoutReq (hk := hk) ..
  | layout => exact keeps_execLayout (hk := hk) ..
  | retransmitTimeout => exact keeps_execRetransmitTimeout (hk := hk) ..
  | ackDelayExpire => exact keeps_execAckDelayExpire (hk := hk) ..
  | requestRetryTimeout => exact keeps_execRequestRetryTimeout (hk := hk) ..
  | peerWaitExpire => exact keeps_execPeerWaitExpire (hk := hk) ..
  | hfCollLoad => exact keeps_execHfCollLoad (hk := hk) ..
  | hfCollStore => exact keeps_execHfCollStore (hk := hk) ..
  | frameReceive => exact keeps_execFrameReceive (hk := hk) ..
  | pfcFrameReceive => exact keeps_execPfcFrameReceive (hk := hk) ..
  | pfcPauseExpire => exact keeps_execPfcPauseExpire (hk := hk) ..
  | pfcRefresh => exact keeps_execPfcRefresh (hk := hk) ..
  | rxBufferDrain => exact keeps_execRxBufferDrain (hk := hk) ..
  | frameTxDone => exact keeps_execFrameTxDone (hk := hk) ..
  | pauseWdTxExpire => exact keeps_execPauseWdTxExpire (hk := hk) ..
  | pauseWdRxExpire => exact keeps_execPauseWdRxExpire (hk := hk) ..
  | pauseHoldEnd => exact keeps_execPauseHoldEnd (hk := hk) ..
  | linkDown => exact keeps_execLinkDown (hk := hk) ..
  | linkUp => exact keeps_execLinkUp (hk := hk) ..
  | fmCtlWrite => exact keeps_execFmCtlWrite (hk := hk) ..
  | mmFrameReceive => exact keeps_execMmFrameReceive (hk := hk) ..
  | mmCollision => exact keeps_execMmCollision (hk := hk) ..
  | mmBackoffExpire => exact keeps_execMmBackoffExpire (hk := hk) ..
  | plcaBeaconLoss => exact keeps_execPlcaBeaconLoss (hk := hk) ..
  | plcaBeaconResume => exact keeps_execPlcaBeaconResume (hk := hk) ..
  | wakeFrame => exact keeps_execWakeFrame (hk := hk) ..
  | configRequest => exact keeps_execConfigRequest (hk := hk) ..
  | barAccess => exact keeps_execBarAccess (hk := hk) ..
  | apertureWriteInvalid => exact keeps_execApertureWriteInvalid (hk := hk) ..
  | leaseCapsule => exact keeps_execLeaseCapsule (hk := hk) ..
  | attach => exact keeps_execAttach (hk := hk) ..
  | jobLoad => exact keeps_execJobLoad (hk := hk) ..
  | steps => exact keeps_execSteps (hk := hk) ..
  | withdraw => exact keeps_execWithdraw (hk := hk) ..
  | stop => exact keeps_execStop (hk := hk) ..
  | free => exact keeps_execFree (hk := hk) ..
  | resume => exact keeps_execResume (hk := hk) ..
  | serve => exact keeps_execServe (hk := hk) ..
  | setDecl => exact keeps_execSetDecl (hk := hk) ..
  | reshard => exact keeps_execReshard (hk := hk) ..
  | publish => exact keeps_execPublish (hk := hk) ..
  | ringHeadWrite => exact keeps_execRingHeadWrite (hk := hk) ..
  | ringConfigWrite => exact keeps_execRingConfigWrite (hk := hk) ..
  | msixModTimer => exact keeps_execMsixModTimer (hk := hk) ..
  | resultSlotRead => exact keeps_execResultSlotRead (hk := hk) ..
  | retire => exact keeps_execRetire (hk := hk) ..
  | resultStore => exact keeps_execResultStore (hk := hk) ..
  | leaseExpiry => exact keeps_execLeaseExpiry (hk := hk) ..
  | d3hotWrite => exact keeps_execD3hotWrite (hk := hk) ..
  | functionLevelReset => exact keeps_execFunctionLevelReset (hk := hk) ..
  | busMasterDisable => exact keeps_execBusMasterDisable (hk := hk) ..
  | componentMessage => exact keeps_execComponentMessage (hk := hk) ..
  | componentRestart => exact keeps_execComponentRestart (hk := hk) ..
  | watchdog => exact keeps_execWatchdog (hk := hk) ..
  | dhcpRetry => exact keeps_execDhcpRetry (hk := hk) ..
  | tftpBlockTimeout => exact keeps_execTftpBlockTimeout (hk := hk) ..
  | tftpBlock => exact keeps_execTftpBlock (hk := hk) ..
  | goodImageCopy => exact keeps_execGoodImageCopy (hk := hk) ..
  | stage => exact keeps_execStage (hk := hk) ..
  | activate => exact keeps_execActivate (hk := hk) ..
  | shiftHoldExpire => exact keeps_execShiftHoldExpire (hk := hk) ..
  | shiftPauseBegin => exact keeps_execShiftPauseBegin (hk := hk) ..
  | shiftReady => exact keeps_execShiftReady (hk := hk) ..
  | shiftRollback => exact keeps_execShiftRollback (hk := hk) ..
  | sample => exact keeps_execSample (hk := hk) ..
  | ident => exact keeps_execIdent (hk := hk) ..
  | status => exact keeps_execStatus (hk := hk) ..
  | nonce => exact keeps_execNonce (hk := hk) ..
  | mgmtStage => exact keeps_execMgmtStage (hk := hk) ..
  | mgmtActivate => exact keeps_execMgmtActivate (hk := hk) ..
  | sampleList => exact keeps_execSampleList (hk := hk) ..
  | sampleRead => exact keeps_execSampleRead (hk := hk) ..
  | debug => exact keeps_execDebug (hk := hk) ..
  | lcAdvance => exact keeps_execLcAdvance (hk := hk) ..
  | ownerKey => exact keeps_execOwnerKey (hk := hk) ..
  | svnMin => exact keeps_execSvnMin (hk := hk) ..
  | vendorRevoke => exact keeps_execVendorRevoke (hk := hk) ..
  | nonceNew => exact keeps_execNonceNew (hk := hk) ..
  | quoteGo => exact keeps_execQuoteGo (hk := hk) ..
  | extend => exact keeps_execExtend (hk := hk) ..
  | debugLevelWrite => exact keeps_execDebugLevelWrite (hk := hk) ..
  | debugDurationExpire => exact keeps_execDebugDurationExpire (hk := hk) ..
  | extest => exact keeps_execExtest (hk := hk) ..
  | samplePreload => exact keeps_execSamplePreload (hk := hk) ..
  | idcode => exact keeps_execIdcode (hk := hk) ..
  | intest => exact keeps_execIntest (hk := hk) ..
  | clamp => exact keeps_execClamp (hk := hk) ..
  | highz => exact keeps_execHighz (hk := hk) ..
  | dap => exact keeps_execDap (hk := hk) ..
  | bypass => exact keeps_execBypass (hk := hk) ..
  | pwReqActive => exact keeps_execPwReqActive (hk := hk) ..
  | pwReqLean => exact keeps_execPwReqLean (hk := hk) ..
  | panelParked => exact keeps_execPanelParked (hk := hk) ..
  | panelUnparked => exact keeps_execPanelUnparked (hk := hk) ..
  | pwReqDoze => exact keeps_execPwReqDoze (hk := hk) ..
  | dozeWake => exact keeps_execDozeWake (hk := hk) ..
  | pwReqStandby => exact keeps_execPwReqStandby (hk := hk) ..
  | standbyExit => exact keeps_execStandbyExit (hk := hk) ..
  | powerOn => exact keeps_execPowerOn (hk := hk) ..
  | strapSample => exact keeps_execStrapSample (hk := hk) ..
  | headframeRailsUp => exact keeps_execHeadframeRailsUp (hk := hk) ..
  | perstRelease => exact keeps_execPerstRelease (hk := hk) ..
  | perstAssert => exact keeps_execPerstAssert (hk := hk) ..
  | s2Entry => exact keeps_execS2Entry (hk := hk) ..
  | panelRepair => exact keeps_execPanelRepair (hk := hk) ..
  | passCalibration => exact keeps_execPassCalibration (hk := hk) ..
  | powerFail => exact keeps_execPowerFail (hk := hk) ..
  | overvoltageShutdown => exact keeps_execOvervoltageShutdown (hk := hk) ..
  | breakerTrip => exact keeps_execBreakerTrip (hk := hk) ..
  | powerRemoved => exact keeps_execPowerRemoved (hk := hk) ..
  | vinRange => exact keeps_execVinRange (hk := hk) ..
  | tempWarn => exact keeps_execTempWarn (hk := hk) ..
  | thermThrottle => exact keeps_execThermThrottle (hk := hk) ..
  | throttleRelease => exact keeps_execThrottleRelease (hk := hk) ..
  | thermTrip => exact keeps_execThermTrip (hk := hk) ..
  | eventRecord => exact keeps_execEventRecord (hk := hk) ..
  | coreStallFence => exact keeps_execCoreStallFence (hk := hk) ..
  | flashBlockFail => exact keeps_execFlashBlockFail (hk := hk) ..
  | flashEraseSuspend => exact keeps_execFlashEraseSuspend (hk := hk) ..
  | unassignedInstruction => exact keeps_execUnassignedInstruction (hk := hk) ..
  | badOpcodeCapsule => exact keeps_execBadOpcodeCapsule (hk := hk) ..
  | signedCommandBadOp => exact keeps_execSignedCommandBadOp (hk := hk) ..
  | pmeTurnOff => exact keeps_execPmeTurnOff (hk := hk) ..
  | pmeTurnOffTimeout => exact keeps_execPmeTurnOffTimeout (hk := hk) ..
  | coldStartWaitEnd => exact keeps_execColdStartWaitEnd (hk := hk) ..
  | tripCooldownEnd => exact keeps_execTripCooldownEnd (hk := hk) ..
  | testLogicReset => exact keeps_execTestLogicReset (hk := hk) ..
  | mmFrameTxDone => exact keeps_execMmFrameTxDone (hk := hk) ..
  | logFlashWriteDone => exact keeps_execLogFlashWriteDone (hk := hk) ..
  | logFlashEraseDone => exact keeps_execLogFlashEraseDone (hk := hk) ..
/-- A step keeps what the state with the front command off its queue does. -/
theorem keepsNext_step (s : State) : KeepsNext { s with pending := s.pending.tail } (step s) := by
  unfold step
  split
  next hnone => exact keepsNext (keeps_idle s ⟨by rw [hnone]; rfl, id, .refl _⟩)
  next c rest hcons => exact keepsNext_exec c ⟨by rw [hcons]; rfl, id, .refl _⟩

/-- Settles O3. That a command whose occasion does not hold is no refusal but leaves the state as it is (log entry 45) is the model's choice. -/
theorem everyCommandKeeps : Obligations.EveryCommandKeeps := by
  intro c s
  obtain ⟨t, hnext, hkeeps⟩ := (keepsNext_exec c (.refl s)).exists_next
  exact ⟨t, hnext, hkeeps.queue, hkeeps.memory, hkeeps.fuses⟩

/-- Settles O4: a step keeps what the state with the front command off its queue does. -/
theorem stepKeepsMemoryForm : Obligations.StepKeepsMemoryForm := by
  intro s t hform hstep
  obtain ⟨u, hnext, hkeeps⟩ := (keepsNext_step s).exists_next
  obtain rfl : t = u := Host.Outcome.next.inj (hstep.symm.trans hnext)
  exact ⟨hkeeps.memory hform, hkeeps.queue, hkeeps.fuses⟩

end Sys2Proof.Machine
end

section
/-! PROOFS. Accesses at a bank's port: owned clean words byte for byte, refusals, and accesses over two lines (R210, R211, R213, R214, R218). -/

namespace Sys2Proof.Machine

/-! ### Spans cut in parts -/

section Cuts

variable {size : Nat}

theorem cutSpan_zero (fuel a : Nat) : cutSpan size fuel a 0 = [] := by
  cases fuel with
  | zero => rfl
  | succ fuel => exact if_pos rfl

theorem cutSpan_succ {n : Nat} (hn : 0 < n) (fuel a : Nat) :
    cutSpan size (fuel + 1) a n = (a, min n (size - a % size)) :: cutSpan size fuel (a + min n (size - a % size)) (n - min n (size - a % size)) :=
  if_neg (Nat.ne_of_gt hn)

/-- A span within one block is its own only part. -/
theorem cutSpan_one {n a : Nat} (hn : 0 < n) (hfits : a % size + n ≤ size) (fuel : Nat) :
    cutSpan size (fuel + 1) a n = [(a, n)] := by
  rw [cutSpan_succ hn, Nat.min_eq_left (by omega), Nat.sub_self, cutSpan_zero]

/-- Parts of at least a byte that follow one another from an address on, with so many bytes in all. -/
inductive Tiles : Nat → Nat → List (Nat × Nat) → Prop
  | nil (a : Nat) : Tiles a 0 []
  | cons {a k m : Nat} {l : List (Nat × Nat)} (hk : 0 < k) (rest : Tiles (a + k) m l) : Tiles a (k + m) ((a, k) :: l)

/-- A span is tiled by the parts that it is cut in. -/
theorem cutSpan_tiles (hsize : 0 < size) {fuel a n : Nat} (hfuel : a % size + n ≤ size * fuel) : Tiles a n (cutSpan size fuel a n) := by
  induction fuel generalizing a n with
  | zero =>
    obtain rfl : n = 0 := by omega
    exact .nil a
  | succ fuel ih =>
    obtain rfl | hn := Nat.eq_zero_or_pos n
    · exact cutSpan_zero (fuel + 1) a ▸ .nil a
    · have hoff : a % size < size := Nat.mod_lt a hsize
      obtain hlast | hmore := Nat.le_total n (size - a % size)
      · have hfits : a % size + n ≤ size := by omega
        exact cutSpan_one hn hfits fuel ▸ .cons hn (.nil (a + n))
      · have hstart : (a + (size - a % size)) % size = 0 := by
          rw [← Nat.mod_add_mod, Nat.add_sub_of_le hoff.le, Nat.mod_self]
        have hrest : Tiles (a + (size - a % size)) (n - (size - a % size)) (cutSpan size fuel (a + (size - a % size)) (n - (size - a % size))) :=
          ih (by rw [hstart]; rw [Nat.mul_succ] at hfuel; omega)
        have hall := Tiles.cons (by omega) hrest
        rw [Nat.add_sub_of_le hmore] at hall
        rwa [cutSpan_succ hn, Nat.min_eq_right hmore]

end Cuts

theorem bankSpans_line {a n : Nat} (hn : 0 < n) (hline : a % 64 + n ≤ 64) : bankSpans a n = [(a, n)] := cutSpan_one hn hline _

/-- A span that runs over a line's end, with no more than a line's bytes, has two parts. -/
theorem bankSpans_lines {a n : Nat} (hn : n ≤ 64) (hover : 64 < a % 64 + n) :
    bankSpans a n = [(a, 64 - a % 64), (a + (64 - a % 64), n - (64 - a % 64))] := by
  have hoff : a % 64 < 64 := Nat.mod_lt a (by decide)
  unfold bankSpans
  rw [cutSpan_succ (by omega), Nat.min_eq_right (by omega), cutSpan_one (by omega) (by omega)]

theorem wordParts_tiles (a n : Nat) : Tiles a n (wordParts a n) := cutSpan_tiles (by decide) (by omega)

/-! ### Bytes read and stored -/

theorem bytes_add (s : State) (a k m : Nat) : s.bytes a (k + m) = s.bytes a k ++ s.bytes (a + k) m := by
  induction k generalizing a with
  | zero => rw [Nat.zero_add]; rfl
  | succ k ih => rw [Nat.succ_add, State.bytes, ih, Nat.succ_add_eq_add_succ]; rfl

theorem bytes_eq_map (s : State) (a n : Nat) : s.bytes a n = (List.range n).map (fun i => s.byte (a + i)) := by
  induction n generalizing a with
  | zero => rfl
  | succ n ih =>
    rw [State.bytes, ih, List.range_succ_eq_map, List.map_cons, List.map_map]
    refine congrArg _ (List.map_congr_left fun i _ => ?_)
    rw [Function.comp_apply, Nat.succ_add_eq_add_succ]

theorem setBytes_append (s : State) (a : Nat) (l m : List Byte) : s.setBytes a (l ++ m) = (s.setBytes a l).setBytes (a + l.length) m := by
  induction l generalizing s a with
  | nil => rfl
  | cons b l ih => rw [List.cons_append, State.setBytes, ih, List.length_cons, Nat.add_right_comm]; rfl

theorem setBytes_banks (s : State) (a : Nat) (l : List Byte) : (s.setBytes a l).banks = s.banks := by
  induction l generalizing s a with
  | nil => rfl
  | cons b l ih => exact ih (s.setByte a b) (a + 1)

theorem setBytes_ecc (s : State) (a : Nat) (l : List Byte) : (s.setBytes a l).ecc = s.ecc := by
  induction l generalizing s a with
  | nil => rfl
  | cons b l ih => exact ih (s.setByte a b) (a + 1)

theorem byte_setBytes (s : State) (a : Nat) (l : List Byte) (c : Nat) :
    (s.setBytes a l).byte c = if a ≤ c ∧ c < a + l.length then l.getD (c - a) 0#8 else s.byte c := by
  induction l generalizing s a with
  | nil => rw [if_neg (by rw [List.length_nil]; omega)]; rfl
  | cons b l ih =>
    rw [State.setBytes, ih, List.length_cons]
    obtain rfl | hne := eq_or_ne c a
    · rw [if_neg (by omega), if_pos (by omega), State.byte_setByte_self, Nat.sub_self, List.getD_cons_zero]
    · rw [State.byte_setByte_other _ _ hne]
      by_cases hin : a + 1 ≤ c ∧ c < a + 1 + l.length
      · obtain ⟨d, rfl⟩ := Nat.exists_eq_add_of_le hin.1
        rw [if_pos hin, if_pos (by omega), Nat.add_sub_cancel_left, show a + 1 + d - a = d + 1 by omega, List.getD_cons_succ]
      · rw [if_neg hin, if_neg (by omega)]

/-- Two states with the same check states and banks find the same marks. -/
theorem mark_congr {s t : State} (he : t.ecc = s.ecc) (hb : t.banks = s.banks) (a : Nat) : t.mark a = s.mark a := by
  unfold State.mark
  rw [he, hb]

theorem bank_congr {s t : State} (h : t.banks = s.banks) (b : Nat) : t.bank b = s.bank b := by
  unfold State.bank
  rw [h]

/-! ### Clean words -/

theorem readWord_clean {s : State} {a : Nat} (h : s.mark a = 0) : s.readWord a = (s, false) := by
  unfold State.readWord
  rw [h]
  rfl

/-- A word's part read at a port behind those before it. -/
def readNext (acc : State × List Byte × Bool) (p : Nat × Nat) : State × List Byte × Bool :=
  let r := acc.1.readWord p.1
  (r.1, acc.2.1 ++ (if r.2 then List.replicate p.2 0#8 else r.1.bytes p.1 p.2), acc.2.2 || r.2)

theorem readPort_eq (s : State) (a n : Nat) : s.readPort a n = (wordParts a n).foldl readNext (s, [], false) := rfl

theorem readNext_clean {s : State} {a : Nat} (h : s.mark a = 0) (pre : List Byte) (k : Nat) :
    readNext (s, pre, false) (a, k) = (s, pre ++ s.bytes a k, false) := by
  unfold readNext
  simp only [readWord_clean h, Bool.false_eq_true, if_false, Bool.or_self]

theorem readNext_tiles {s : State} {a n : Nat} {l : List (Nat × Nat)} (ht : Tiles a n l) (h : ∀ i, i < n → s.mark (a + i) = 0) (pre : List Byte) :
    l.foldl readNext (s, pre, false) = (s, pre ++ s.bytes a n, false) := by
  induction ht generalizing pre with
  | nil a => rw [List.foldl_nil, State.bytes, List.append_nil]
  | @cons a k m l hk _ ih =>
    have hmark : s.mark a = 0 := h 0 (by omega)
    rw [List.foldl_cons, readNext_clean hmark, ih fun i hi => ?_]
    · rw [bytes_add, List.append_assoc]
    · exact Nat.add_assoc a k i ▸ h (k + i) (by omega)

/-- Clean words read at a port: their bytes, and nothing else happens. -/
theorem readPort_clean {s : State} {a n : Nat} (h : ∀ i, i < n → s.mark (a + i) = 0) : s.readPort a n = (s, s.bytes a n, false) :=
  readNext_tiles (wordParts_tiles a n) h []

/-- Whether the words of a span are clean and no scrub write-back is due in its banks. -/
def State.settled (s : State) (a n : Nat) : Prop := ∀ i, i < n → s.mark (a + i) = 0 ∧ (s.bank (bankOf (a + i))).scrubRead = none

theorem writeWord_clean {s : State} {a n : Nat} (h : s.settled a n) (hn : 0 < n) (bs : List Byte) : s.writeWord a bs = s.setBytes a bs := by
  obtain ⟨hmark, hscrub⟩ := h 0 hn
  unfold State.writeWord
  simp only [Nat.add_zero] at hmark hscrub
  simp only [hscrub, reduceCtorEq, if_false, hmark, if_true]

theorem writePort_tiles (x : Nat) {s : State} {a n : Nat} {l : List (Nat × Nat)} (ht : Tiles a n l) {bs : List Byte} (hbs : bs.length = n)
    (h : s.settled a n) : s.writePort x l bs = s.setBytes a bs := by
  induction ht generalizing s bs with
  | nil a => rw [List.eq_nil_of_length_eq_zero hbs]; rfl
  | @cons a k m l hk _ ih =>
    have htake : (bs.take k).length = k := by rw [List.length_take]; omega
    have hrest : (s.setBytes a (bs.take k)).settled (a + k) m := fun i hi => by
      rw [mark_congr (setBytes_ecc ..) (setBytes_banks ..), bank_congr (setBytes_banks ..), Nat.add_assoc]
      exact h (k + i) (by omega)
    rw [State.writePort, writeWord_clean h (by omega), ih (by rw [List.length_drop]; omega) hrest]
    conv_rhs => rw [← List.take_append_drop k bs, setBytes_append, htake]

/-- Clean words with no scrub write-back due written at a port: the bytes are stored, and nothing else happens. -/
theorem writePort_clean (x : Nat) {s : State} {a : Nat} {bs : List Byte} (h : s.settled a bs.length) :
    s.writePort x (wordParts a bs.length) bs = s.setBytes a bs :=
  writePort_tiles x (wordParts_tiles a bs.length) rfl h

/-! ### Refusals (R218, R219) -/

section Status

variable (s : State) (r i : Nat) (code : Code) {cls : EvClass} (source : Nat) (data : List Nat)

theorem setStatus_mem (cls : EvClass) : (s.setStatus r i code cls source data).mem = s.mem := readsKeep_mem.setStatus s r i code cls source data

theorem setStatus_banks (cls : EvClass) : (s.setStatus r i code cls source data).banks = s.banks := by
  unfold State.setStatus
  split
  · rfl
  · rw [State.raise_banks, State.setBit_banks]

/-- A status bit stands once it has been set. -/
theorem bit_setStatus_self (hcls : cls ≠ .moduleFatal) (hi : i < 32) : (s.setStatus r i code cls source data).bit r i = true := by
  unfold State.setStatus
  split
  · assumption
  · rw [State.bit_congr (raise_regs _ code hcls source data), State.bit_setBit_self s r true hi]

/-- A status bit that goes from clear to set raises its event (R219). -/
theorem setStatus_raises (cls : EvClass) (h : s.bit r i = false) :
    (s.setStatus r i code cls source data).evq = s.evq ++ [⟨code, cls, source, data, s.usecN.toNat % 2 ^ 32⟩] := by
  unfold State.setStatus
  rw [if_neg (ne_true_of_eq_false h)]
  rfl

theorem rd_setStatus_other (hcls : cls ≠ .moduleFatal) {a : Nat} (h : a ≠ r) : (s.setStatus r i code cls source data).rd a = s.rd a := by
  unfold State.setStatus
  split
  · rfl
  · rw [State.rd_congr (raise_regs _ code hcls source data), State.rd_setBit_other s i true h]

end Status

section NotOwned

variable (s : State) (a : Nat) (ag : Agent) (write : Bool)

theorem byte_notOwned (c : Nat) : (s.notOwned a ag write).byte c = s.byte c :=
  (State.byte_count ..).trans (State.byte_congr (setStatus_mem ..) (setStatus_banks ..) c)

theorem bit_notOwned : (s.notOwned a ag write).bit (Reg.BK_STATUS (bankOf a)) 0 = true := by
  have hapart : Reg.BK_STATUS (bankOf a) ≠ Reg.BK_ACCESS_COUNT (bankOf a) := by unfold Reg.BK_STATUS Reg.BK_ACCESS_COUNT; omega
  exact (State.bit_setFld_other _ 0 16 _ 0 hapart).trans (bit_setStatus_self s _ 0 _ _ _ (by decide) (by decide))

end NotOwned

/-! ### One line -/

section Line

variable {s : State} {a n : Nat} (hn : 0 < n) (hline : a % 64 + n ≤ 64)
include hn hline

theorem readDev_line (hend : a + n ≤ bankEnd) (ag : Agent) (host : List Host.Cell) : s.readDev ag a n host = s.readPart ag a n := by
  unfold State.readDev
  rw [if_neg (by omega), if_pos (by omega), bankSpans_line hn hline, List.foldl_cons, List.foldl_nil]
  simp only [List.nil_append, Bool.false_or]

theorem writeDev_line {bs : List Byte} (hlen : bs.length = n) (hend : a + n ≤ bankEnd) (ag : Agent) :
    s.writeDev ag a bs = s.writePart ag a bs := by
  have hbs : bs ≠ [] := List.ne_nil_of_length_pos (by omega)
  unfold State.writeDev
  rw [if_neg hbs, if_pos (by omega), hlen, bankSpans_line hn hline, State.writeParts, List.take_of_length_le (by omega)]
  rfl

/-- An access within a line is its own only part. -/
theorem bankAccess_line (hend : a + n ≤ bankEnd) (by_ : Requester) (data : Option (List Byte)) (input : Nat) (same : Bool) :
    s.bankAccess by_ a n data [] input same = s.accessPart (agentOf by_) a n (data.map (·.take n)) input same := by
  have hsize : (n = 0 || 64 < n || bankEnd < a + n) = false := by simp; omega
  unfold State.bankAccess
  rw [hsize, if_neg Bool.false_ne_true, List.foldl_nil, bankSpans_line hn hline, List.foldl_cons, List.foldl_nil]
  cases data with
  | none => rfl
  | some bs => simp only [Option.map_some, Nat.sub_self, List.drop_zero, List.take_take, Nat.min_self]

end Line

/-- An access over a line's end is the access to its part below it and then the one to its part from it on (R211). -/
theorem bankAccess_lines {a n : Nat} (hn : n ≤ 64) (hend : a + n ≤ bankEnd) (hover : 64 < a % 64 + n) (s : State) (by_ : Requester)
    (data : Option (List Byte)) (input : Nat) (same : Bool) :
    s.bankAccess by_ a n data [] input same =
      (s.bankAccess by_ a (64 - a % 64) (data.map (·.take (64 - a % 64))) [] input same).bankAccess by_ (a + (64 - a % 64)) (n - (64 - a % 64))
        (data.map (·.drop (64 - a % 64))) [] input same := by
  have hoff : a % 64 < 64 := Nat.mod_lt a (by decide)
  have hsize : (n = 0 || 64 < n || bankEnd < a + n) = false := by simp; omega
  rw [bankAccess_line (n := 64 - a % 64) (by omega) (by omega) (by omega), bankAccess_line (n := n - (64 - a % 64)) (by omega) (by omega) (by omega)]
  unfold State.bankAccess
  rw [hsize, if_neg Bool.false_ne_true, List.foldl_nil, bankSpans_lines hn hover, List.foldl_cons, List.foldl_cons, List.foldl_nil]
  cases data with
  | none => rfl
  | some bs =>
    simp only [Option.map_some, Nat.sub_self, List.drop_zero, List.take_take, Nat.add_sub_cancel_left, Nat.min_self, List.drop_take, Nat.sub_zero,
      Nat.min_eq_left (show 64 - a % 64 ≤ n by omega)]

/-! ### Served lines -/

theorem ownerOk_outside (s : State) (b : Nat) (write : Bool) : s.ownerOk b .outside write = true := rfl

section Served

variable {s : State} {a n : Nat} (hn : 0 < n) (hend : a + n ≤ bankEnd) (hline : a % 64 + n ≤ 64) (hserved : s.served (bankOf a) = .yes)
include hn hend hline hserved

theorem readDev_served (hclean : ∀ i, i < n → s.mark (a + i) = 0) : s.readDev .outside a n [] = (s, s.bytes a n, false) := by
  rw [readDev_line hn hline hend, State.readPart, ownerOk_outside, if_neg (by decide), if_pos hserved, readPort_clean hclean]

theorem writeDev_served {bs : List Byte} (hlen : bs.length = n) (hclean : s.settled a n) : s.writeDev .outside a bs = s.setBytes a bs := by
  rw [writeDev_line hn hline hlen hend, State.writePart, ownerOk_outside, if_neg (by decide), hserved]
  exact writePort_clean a (hlen ▸ hclean)

/-- A read that its agent may make sends the bytes held. -/
theorem accessPart_read (hclean : ∀ i, i < n → s.mark (a + i) = 0) {ag : Agent} (how : s.ownerOk (bankOf a) ag false = true) (input : Nat) (same : Bool) :
    s.accessPart ag a n none input same = s.emit (.readData (s.bytes a n) false) := by
  unfold State.accessPart
  simp only [Option.isSome_none, how, Bool.not_true, Bool.false_eq_true, if_false, hserved, State.portAccess,
    readDev_served hn hend hline hserved hclean]

/-- A write that its agent may make stores its bytes. -/
theorem accessPart_write {bs : List Byte} (hlen : bs.length = n) (hclean : s.settled a n) {ag : Agent} (how : s.ownerOk (bankOf a) ag true = true)
    (input : Nat) (same : Bool) : s.accessPart ag a n (some bs) input same = s.setBytes a bs := by
  unfold State.accessPart
  simp only [Option.isSome_some, how, Bool.not_true, Bool.false_eq_true, if_false, hserved, State.portAccess,
    writeDev_served hn hend hline hserved hlen hclean]

end Served

/-- An access that fails the ownership check is refused: a read sends zeros (R218). -/
theorem accessPart_refused {s : State} {a : Nat} {ag : Agent} {data : Option (List Byte)} (how : s.ownerOk (bankOf a) ag data.isSome = false)
    (n input : Nat) (same : Bool) : s.accessPart ag a n data input same =
      if data.isSome then s.notOwned a ag true else (s.notOwned a ag false).emit (.readData (List.replicate n 0#8) false) := by
  unfold State.accessPart
  rw [how, Bool.not_false, if_pos rfl]
  cases data with
  | none => rfl
  | some bs => rfl

/-! ### The obligation -/

/-- Settles O16: within a line the access is its only part, read or stored byte for byte or refused; over two lines it is both parts in turn. -/
theorem bankAccessServed : Obligations.BankAccessServed := by
  refine ⟨fun s from_ a n hn hn64 hend hline hserved hclean hscrub => ?_, fun s from_ a n data hn hend hover => ⟨_, rfl, ?_⟩⟩
  · have hexec (data : Option (List Byte)) : exec (.bankAccess from_ a n data []) s =
        .next (s.accessPart (agentOf from_.by_) a n (data.map (·.take n)) from_.input from_.same) :=
      congrArg Host.Outcome.next (bankAccess_line hn hline hend from_.by_ data from_.input from_.same)
    have hbank (i : Nat) (hi : i < n) : bankOf (a + i) = bankOf a := by unfold bankOf; omega
    have hsettled : s.settled a n := fun i hi => ⟨hclean i hi, by rw [hbank i hi, hscrub]⟩
    refine ⟨fun how => ?read, fun how => ?readRefused, fun bs hbs => ⟨fun how => ?write, fun how => ?writeRefused⟩⟩
    case read => rw [hexec, ← bytes_eq_map]; exact congrArg _ (accessPart_read hn hend hline hserved hclean how _ _)
    case readRefused => rw [hexec]; exact congrArg _ (accessPart_refused how _ _ _)
    case write =>
      refine ⟨_, (hexec _).trans (congrArg _ ?_), setBytes_regs bs s a, fun c => (byte_setBytes s a bs c).trans (by rw [hbs])⟩
      rw [Option.map_some, List.take_of_length_le hbs.le]
      exact accessPart_write hn hend hline hserved hbs hsettled how _ _
    case writeRefused =>
      exact ⟨_, (hexec _).trans (congrArg _ (accessPart_refused how _ _ _)), fun c => byte_notOwned s a _ true c, bit_notOwned s a _ true⟩
  · exact congrArg Host.Outcome.next (bankAccess_lines hn hend hover s from_.by_ data from_.input from_.same)

end Sys2Proof.Machine
end

section
/-! PROOFS. Handovers of a bank, its power transitions, scrub reads and march tests (R214 to R217, R219, R220, R223 to R230). -/

namespace Sys2Proof.Machine

/-- Registers at different places of a bank's block differ. -/
theorem bankReg_apart {x y b : Nat} (h : x ≠ y) : x + 0x40 * b ≠ y + 0x40 * b := by omega

/-- A bank with no access held resumes none. -/
theorem resumeBank_none {s : State} {b : Nat} (h : (s.bank b).held = []) : s.resumeBank b = s := if_pos h

/-! ### Handovers (R214 to R216) -/

section Handover

variable {s : State} {w : Writer} {b : Nat} {v : Word}

theorem exec_bankHandover_of_no_component (s : State) (hw : ∀ c, w ≠ .component c) (b : Nat) (v : Word) :
    exec (.bankHandover w b v) s = .next (s.handOwner w b v) :=
  congrArg Host.Outcome.next (byWriter_of_no_component s hw _ v _)

/-- Whether a write of BK_OWNER hands the bank over (R215, R216). -/
def State.handsOver (s : State) (w : Writer) (b : Nat) (v : Word) : Bool :=
  s.mayHand w b && !s.bit (Reg.BK_OWNER b) 10 && !s.bit (Reg.BK_REPAIR b) 24 && ownerValid (bitsOf v.toNat 0 3) (bitsOf v.toNat 3 6)

theorem handOwner_hands (hb : b < 40960) (h : s.handsOver w b v = true) : ∃ k, s.handOwner w b v =
    ((s.setFld (Reg.BK_OWNER b) 0 11 (bitsOf v.toNat 0 10 + 2 ^ 10)).setBank b k).numbered := by
  unfold State.handOwner
  rw [if_neg (Nat.not_le.mpr hb)]
  exact ⟨_, if_pos h⟩

theorem handOwner_refuses (hb : b < 40960) (h : s.handsOver w b v = false) :
    s.handOwner w b v = s.setStatus (Reg.BK_STATUS b) 1 .BANK_HO_REFUSED .info (b / 4) [b % 4, b] := by
  unfold State.handOwner
  rw [if_neg (Nat.not_le.mpr hb)]
  exact if_neg (ne_true_of_eq_false h)

/-- BK_OWNER after a handover: the ten fields written, and HANDOVER_PENDING above them. -/
theorem owner_handed (s : State) (b : Nat) {n : Nat} (hn : n < 2 ^ 10) :
    (s.setFld (Reg.BK_OWNER b) 0 11 (n + 2 ^ 10)).fld (Reg.BK_OWNER b) 0 10 = n ∧
      (s.setFld (Reg.BK_OWNER b) 0 11 (n + 2 ^ 10)).bit (Reg.BK_OWNER b) 10 = true := by
  have hfld := State.fld_setFld_self s (Reg.BK_OWNER b) (lo := 0) (n := 11) (n + 2 ^ 10) (by decide)
  unfold State.bit bitOf
  unfold State.fld bitsOf at *
  simp only [Nat.shiftRight_eq_div_pow, decide_eq_true_eq] at *
  omega

theorem handoverDone_waits (h : s.bit (Reg.BK_OWNER b) 10 = false ∨ s.oldAccess b (s.bank b).since = true) : s.handoverDone b = s := by
  refine if_pos ?_
  rw [Bool.or_eq_true, Bool.not_eq_true']
  exact h

theorem handoverDone_ends (hpend : s.bit (Reg.BK_OWNER b) 10 = true) (hold : s.oldAccess b (s.bank b).since = false) (hheld : (s.bank b).held = []) :
    s.handoverDone b = s.setBit (Reg.BK_OWNER b) 10 false := by
  unfold State.handoverDone
  rw [hpend, hold, if_neg (by decide), resumeBank_none (by rw [State.bank_setBit, hheld])]

end Handover

/-! ### Power (R220, R223) -/

section Power

variable {s : State} {b : Nat}

/-- BK_POWER with the state asked for and the wake bits as written. -/
def State.askPower (s : State) (b want : Nat) (v : Word) : State :=
  (s.setFld (Reg.BK_POWER b) 0 2 want).setFld (Reg.BK_POWER b) 5 2 (bitsOf v.toNat 5 2)

theorem writePower_eq {v : Word} (hb : b < 40960) (hwant : bitsOf v.toNat 0 2 < 3) (hoff : bitsOf v.toNat 0 2 = 1 → s.fld (Reg.BK_POWER b) 2 2 ≠ 2) :
    s.writePower b v = (s.askPower b (bitsOf v.toNat 0 2) v).startTransition b := by
  unfold State.writePower
  have hstays : (decide (bitsOf v.toNat 0 2 = 1) && decide (s.fld (Reg.BK_POWER b) 2 2 = 2)) = false := by simpa using hoff
  have hchoice : bitsOf v.toNat 0 2 ≠ 3 := by omega
  simp only [Nat.not_le.mpr hb, hchoice, hstays, Bool.false_eq_true, if_false, State.askPower]

section Asked

variable (s b) {want : Nat} (v : Word)

theorem askPower_state (hwant : want < 4) : (s.askPower b want v).fld (Reg.BK_POWER b) 0 2 = want := by
  unfold State.askPower
  rw [State.fld_setFld_apart _ _ _ (by decide) (by decide), State.fld_setFld_self _ _ _ (by decide)]
  exact Nat.mod_eq_of_lt hwant

theorem askPower_inForce : (s.askPower b want v).fld (Reg.BK_POWER b) 2 2 = s.fld (Reg.BK_POWER b) 2 2 := by
  unfold State.askPower
  rw [State.fld_setFld_apart _ _ _ (by decide) (by decide), State.fld_setFld_apart _ _ _ (by decide) (by decide)]

theorem askPower_running : (s.askPower b want v).bit (Reg.BK_POWER b) 4 = s.bit (Reg.BK_POWER b) 4 := by
  unfold State.askPower
  rw [State.bit_setFld_apart _ _ _ (by decide) (by decide), State.bit_setFld_apart _ _ _ (by decide) (by decide)]

theorem askPower_wake : (s.askPower b want v).fld (Reg.BK_POWER b) 5 2 = bitsOf v.toNat 5 2 :=
  (State.fld_setFld_self _ _ _ (by decide)).trans (Nat.mod_eq_of_lt (Nat.mod_lt _ (by decide)))

theorem askPower_other {r : Nat} (h : r ≠ Reg.BK_POWER b) (i : Nat) : (s.askPower b want v).bit r i = s.bit r i :=
  (State.bit_setFld_other _ _ _ _ _ h).trans (State.bit_setFld_other _ _ _ _ _ h)

end Asked

/-- No transition starts to the state in force, while one runs, or for a fenced bank to ON. -/
theorem startTransition_none (h : s.fld (Reg.BK_POWER b) 0 2 = s.fld (Reg.BK_POWER b) 2 2 ∨
    s.fld (Reg.BK_POWER b) 0 2 = 0 ∧ s.bit (Reg.BK_REPAIR b) 24 = true) : s.startTransition b = s := by
  refine if_pos ?_
  simp only [Bool.or_eq_true, Bool.and_eq_true, decide_eq_true_eq]
  exact h.elim (fun h => .inl (.inl h)) .inr

/-- A transition out of ON starts. -/
theorem startTransition_sleeps {want : Nat} (hwant : s.fld (Reg.BK_POWER b) 0 2 = want) (hne : want ≠ 0) (hon : s.fld (Reg.BK_POWER b) 2 2 = 0)
    (hrun : s.bit (Reg.BK_POWER b) 4 = false) : ∃ k : BankSt,
      s.startTransition b = ((s.setBit (Reg.BK_POWER b) 4 true).setBank b k).numbered ∧ k.goal = some want := by
  unfold State.startTransition
  simp only [hwant, hon, hrun, hne, decide_false, Bool.false_and, Bool.or_self, Bool.false_eq_true, if_false,
    (by decide : (0 = 2) = False)]
  exact ⟨_, rfl, rfl⟩

theorem transitionDone_waits (h : s.bit (Reg.BK_POWER b) 4 = false ∨ s.panelDown (panelOfBank b) = true ∨
    s.fld (Reg.BK_POWER b) 2 2 = 0 ∧ s.oldAccess b (s.bank b).sinceT = true) : s.transitionDone b = s := by
  unfold State.transitionDone
  obtain hrun | hdown | ⟨hon, hold⟩ := h
  · rw [hrun]; rfl
  · rw [hdown, Bool.or_true, if_pos rfl]
  · split
    · rfl
    · exact if_pos (by rw [hon, hold]; rfl)

/-- A bank in the state that its transition was for, before what the state does to its contents. -/
def State.moved (s : State) (b g : Nat) : State :=
  ((s.setFld (Reg.BK_POWER b) 2 2 g).setBit (Reg.BK_POWER b) 4 false).setBank b { s.bank b with goal := none }

/-- What a transition from one state to another does to a bank's contents (R223). -/
def State.movedContents (s : State) (b cur g : Nat) : State := if g = 2 then s.loseBank b else if cur = 2 then s.returnOn b else s

section Moved

variable (s b) (g : Nat)

theorem moved_fld (lo n : Nat) : (s.moved b g).fld (Reg.BK_POWER b) lo n =
    ((s.setFld (Reg.BK_POWER b) 2 2 g).setBit (Reg.BK_POWER b) 4 false).fld (Reg.BK_POWER b) lo n := State.fld_congr (State.setBank_regs ..) ..

theorem moved_bit (i : Nat) : (s.moved b g).bit (Reg.BK_POWER b) i =
    ((s.setFld (Reg.BK_POWER b) 2 2 g).setBit (Reg.BK_POWER b) 4 false).bit (Reg.BK_POWER b) i := State.bit_congr (State.setBank_regs ..) ..

theorem moved_inForce : (s.moved b g).fld (Reg.BK_POWER b) 2 2 = g % 2 ^ 2 := by
  rw [moved_fld, State.fld_setBit_apart _ _ _ (by decide) (by decide), State.fld_setFld_self _ _ _ (by decide)]

theorem moved_asked : (s.moved b g).fld (Reg.BK_POWER b) 0 2 = s.fld (Reg.BK_POWER b) 0 2 := by
  rw [moved_fld, State.fld_setBit_apart _ _ _ (by decide) (by decide), State.fld_setFld_apart _ _ _ (by decide) (by decide)]

theorem moved_rests : (s.moved b g).bit (Reg.BK_POWER b) 4 = false := by
  rw [moved_bit, State.bit_setBit_self _ _ _ (by decide)]

theorem moved_poison : (s.moved b g).bit (Reg.BK_POWER b) 6 = s.bit (Reg.BK_POWER b) 6 := by
  rw [moved_bit, State.bit_setBit_apart _ _ _ (by decide) (by decide), State.bit_setFld_apart _ _ _ (by decide) (by decide)]

theorem moved_mem : (s.moved b g).mem = s.mem := (State.setBank_mem ..).trans ((State.setBit_mem ..).trans (State.setFld_mem ..))
theorem moved_ecc : (s.moved b g).ecc = s.ecc := (State.setBank_ecc ..).trans ((State.setBit_ecc ..).trans (State.setFld_ecc ..))
theorem moved_free : (s.moved b g).free = s.free := (State.setBank_free ..).trans ((State.setBit_free ..).trans (State.setFld_free ..))

theorem moved_bank : (s.moved b g).bank b = { s.bank b with goal := none } := State.bank_setBank_self ..

end Moved

section Contents

variable (s b)

theorem refill_mem (f : Nat) : (s.refill b f).mem = s.mem.clear (0x18000 * b) (0x18000 * (b + 1)) := rfl

theorem loseBank_regs : (s.loseBank b).regs = s.regs := rfl
theorem loseBank_free : (s.loseBank b).free = s.free := rfl
theorem loseBank_mem : (s.loseBank b).mem = s.mem.clear (0x18000 * b) (0x18000 * (b + 1)) := (State.setBank_mem ..).trans (refill_mem s b 0)

theorem returnOn_regs : (s.returnOn b).regs = s.regs := by
  unfold State.returnOn
  split <;> rfl

theorem returnOn_mem : (s.returnOn b).mem = s.mem.clear (0x18000 * b) (0x18000 * (b + 1)) := by
  unfold State.returnOn
  split <;> rfl

/-- A bank that returns from OFF holds poison, or a free value of its own (R223, log entry 7). -/
theorem returnOn_bank : (s.returnOn b).bank b = { s.bank b with fill := if s.bit (Reg.BK_POWER b) 6 then 3 else 4 + s.free } := by
  unfold State.returnOn
  split
  · exact State.bank_refill_self ..
  · exact State.bank_refill_self ..

theorem loseBank_bank : (s.loseBank b).bank b = { s.bank b with fill := 0, priority := [], ceRuns := [], scrubRead := none } := by
  unfold State.loseBank
  rw [State.bank_setBank_self, State.bank_refill_self]

theorem movedContents_regs (cur g : Nat) : (s.movedContents b cur g).regs = s.regs := by
  unfold State.movedContents
  split
  · exact loseBank_regs s b
  · split
    · exact returnOn_regs s b
    · rfl

theorem movedContents_bank (cur g : Nat) : ((s.movedContents b cur g).bank b).goal = (s.bank b).goal ∧
    ((s.movedContents b cur g).bank b).held = (s.bank b).held := by
  unfold State.movedContents
  split
  · rw [loseBank_bank]; exact ⟨rfl, rfl⟩
  · split
    · rw [returnOn_bank]; exact ⟨rfl, rfl⟩
    · exact ⟨rfl, rfl⟩

end Contents

theorem transitionDone_moves {g : Nat} (hrun : s.bit (Reg.BK_POWER b) 4 = true) (hup : s.panelDown (panelOfBank b) = false)
    (hgoal : (s.bank b).goal = some g) (hasked : g = s.fld (Reg.BK_POWER b) 0 2) (hheld : (s.bank b).held = [])
    (hold : s.fld (Reg.BK_POWER b) 2 2 = 0 → s.oldAccess b (s.bank b).sinceT = false) :
    s.transitionDone b = (s.moved b g).movedContents b (s.fld (Reg.BK_POWER b) 2 2) g := by
  have hfirst : (s.fld (Reg.BK_POWER b) 2 2 = 0 && s.oldAccess b (s.bank b).sinceT) = false := by simpa using hold
  have hfinal : s.transitionDone b = (((s.moved b g).movedContents b (s.fld (Reg.BK_POWER b) 2 2) g).startTransition b).resumeBank b := by
    unfold State.transitionDone
    rw [hrun, hup, if_neg (by decide), hgoal, if_neg (ne_true_of_eq_false hfirst)]
    rfl
  have hreached : ((s.moved b g).movedContents b (s.fld (Reg.BK_POWER b) 2 2) g).fld (Reg.BK_POWER b) 0 2 =
      ((s.moved b g).movedContents b (s.fld (Reg.BK_POWER b) 2 2) g).fld (Reg.BK_POWER b) 2 2 := by
    rw [State.fld_congr (movedContents_regs ..), State.fld_congr (movedContents_regs ..), moved_asked, moved_inForce, ← hasked]
    exact (Nat.mod_eq_of_lt (hasked.trans_lt (State.fld_lt s (Reg.BK_POWER b) 0 2))).symm
  rw [hfinal, startTransition_none (.inl hreached), resumeBank_none]
  rw [(movedContents_bank ..).2, moved_bank, hheld]

end Power

/-! ### Scrub (R224, R225) -/

section Scrub

variable {s : State} {b : Nat}

theorem nextScrub_none (hprio : (s.bank b).priority = []) (hoff : s.bit (Reg.MT_SCRUB_CTL (b / 4)) 8 = false) : s.nextScrub b = none := by
  unfold State.nextScrub
  rw [hprio, hoff]
  rfl

/-- The walk moved on by one line: past the last one it begins anew, and another pass counts. -/
def State.walked (s : State) (b : Nat) : State :=
  if s.fld (Reg.BK_SCRUB_POS b) 0 11 = 1535 then
    (s.setFld (Reg.BK_SCRUB_POS b) 0 11 0).setFld (Reg.BK_SCRUB_POS b) 11 16 (s.fld (Reg.BK_SCRUB_POS b) 11 16 + 1)
  else s.setFld (Reg.BK_SCRUB_POS b) 0 11 (s.fld (Reg.BK_SCRUB_POS b) 0 11 + 1)

theorem nextScrub_walks (hprio : (s.bank b).priority = []) (hon : s.bit (Reg.MT_SCRUB_CTL (b / 4)) 8 = true) :
    s.nextScrub b = some (s.walked b, s.fld (Reg.BK_SCRUB_POS b) 0 11) := by
  unfold State.nextScrub State.walked
  rw [hprio, hon]
  simp only [Bool.not_true, Bool.false_eq_true, if_false]
  split <;> rfl

theorem walked_keeps (s : State) (b : Nat) : (s.walked b).mem = s.mem ∧ (s.walked b).ecc = s.ecc ∧ (s.walked b).banks = s.banks := by
  unfold State.walked
  split <;> simp only [State.setFld_mem, State.setFld_ecc, State.setFld_banks, and_self]

theorem walked_line (s : State) (b : Nat) : (s.walked b).fld (Reg.BK_SCRUB_POS b) 0 11 =
    if s.fld (Reg.BK_SCRUB_POS b) 0 11 = 1535 then 0 else (s.fld (Reg.BK_SCRUB_POS b) 0 11 + 1) % 2048 := by
  unfold State.walked
  split
  · exact (State.fld_setFld_apart _ _ _ (by decide) (by decide)).trans (State.fld_setFld_self _ _ _ (by decide))
  · exact State.fld_setFld_self _ _ _ (by decide)

/-- The grants that went to foreground counted, and one that was the scrub's own (R207). -/
def State.grantCounted (s : State) (b deferred : Nat) : State :=
  (s.count (Reg.MT_BG_COUNT (b / 4)) 0 16 (min 63 deferred)).count (Reg.MT_BG_COUNT (b / 4)) 16 16 (b2n (63 ≤ deferred))

theorem grantCounted_eq (s : State) (b d : Nat) : s.grantCounted b d =
    (s.count (Reg.MT_BG_COUNT (b / 4)) 0 16 (min 63 d)).count (Reg.MT_BG_COUNT (b / 4)) 16 16 (b2n (63 ≤ d)) := rfl
theorem grantCounted_mem (s : State) (b d : Nat) : (s.grantCounted b d).mem = s.mem := (State.count_mem ..).trans (State.count_mem ..)
theorem grantCounted_ecc (s : State) (b d : Nat) : (s.grantCounted b d).ecc = s.ecc := (State.count_ecc ..).trans (State.count_ecc ..)
theorem grantCounted_banks (s : State) (b d : Nat) : (s.grantCounted b d).banks = s.banks := (State.count_banks ..).trans (State.count_banks ..)

theorem grantCounted_line (s : State) (b d : Nat) :
    (s.grantCounted b d).fld (Reg.BK_SCRUB_POS b) 0 11 = s.fld (Reg.BK_SCRUB_POS b) 0 11 := by
  have hapart : Reg.BK_SCRUB_POS b ≠ Reg.MT_BG_COUNT (b / 4) := by unfold Reg.BK_SCRUB_POS Reg.MT_BG_COUNT; omega
  exact (State.fld_setFld_other _ _ _ _ _ _ hapart).trans (State.fld_setFld_other _ _ _ _ _ _ hapart)

/-- Whether the words of a line are clean. -/
def State.cleanAt (s : State) (b l : Nat) : Prop := ∀ w, w < 8 → s.mark (0x18000 * b + 64 * l + 8 * w) = 0

theorem readWords_clean {l : Nat} (h : s.cleanAt b l) : (List.range 8).foldl (fun s w => (s.readWord (0x18000 * b + 64 * l + 8 * w)).1) s = s := by
  have hfold (ws : List Nat) (hws : ∀ w ∈ ws, w < 8) : ws.foldl (fun s w => (s.readWord (0x18000 * b + 64 * l + 8 * w)).1) s = s := by
    induction ws with
    | nil => rfl
    | cons w ws ih =>
      rw [List.foldl_cons, readWord_clean (h w (hws w List.mem_cons_self))]
      exact ih fun x hx => hws x (List.mem_cons_of_mem w hx)
  exact hfold _ fun w hw => List.mem_range.mp hw

theorem scrubRead_idle (one two : List Nat) (d : Nat) (h : 40960 ≤ b ∨ s.bankOn b = false ∨ (s.bank b).testing = true ∨
    (s.bank b).priority = [] ∧ s.bit (Reg.MT_SCRUB_CTL (b / 4)) 8 = false) : s.scrubRead b one two d = s := by
  unfold State.scrubRead
  split
  · rfl
  · next hmay =>
    simp only [Bool.or_eq_true, decide_eq_true_eq, Bool.not_eq_true', not_or] at hmay
    obtain ⟨⟨⟨hbank, hon⟩, htest⟩, -⟩ := hmay
    obtain h | h | h | ⟨hprio, hoff⟩ := h
    · exact absurd h hbank
    · exact absurd h hon
    · exact absurd h htest
    · rw [nextScrub_none hprio hoff]

/-- A clean line read by the scrub walk: the walk moves on, and nothing is due. -/
theorem scrubRead_clean (hb : b < 40960) (hon : s.bankOn b = true) (htest : (s.bank b).testing = false) (hlast : (s.bank b).lastScrub = false)
    (hprio : (s.bank b).priority = []) (hscrub : s.bit (Reg.MT_SCRUB_CTL (b / 4)) 8 = true) (hclean : s.cleanAt b (s.fld (Reg.BK_SCRUB_POS b) 0 11))
    (d : Nat) : ∃ k : BankSt, s.scrubRead b [] [] d = ((s.walked b).grantCounted b d).setBank b k ∧ k.lastScrub = true ∧ k.scrubRead = none := by
  obtain ⟨-, hecc, hbanks⟩ := walked_keeps s b
  have hstill : ((s.walked b).grantCounted b d).cleanAt b (s.fld (Reg.BK_SCRUB_POS b) 0 11) :=
    fun w hw => (mark_congr ((grantCounted_ecc ..).trans hecc) ((grantCounted_banks ..).trans hbanks) _).trans (hclean w hw)
  have hfixed : (List.range 8).any (fun w => ((s.walked b).grantCounted b d).mark (0x18000 * b + 64 * s.fld (Reg.BK_SCRUB_POS b) 0 11 + 8 * w) = 1) = false := by
    rw [List.any_eq_false]
    exact fun w hw => by rw [hstill w (List.mem_range.mp hw)]; decide
  have hmay : (40960 ≤ b || !s.bankOn b || (s.bank b).testing || ((s.bank b).lastScrub && (s.bank b).marchWaits)) = false := by
    rw [hon, htest, hlast, decide_eq_false (Nat.not_le.mpr hb)]
    rfl
  unfold State.scrubRead
  rw [if_neg (ne_true_of_eq_false hmay), nextScrub_walks hprio hscrub]
  simp only [List.append_nil, List.foldl_nil, ← grantCounted_eq, readWords_clean hstill, hfixed, Bool.false_and, Bool.false_eq_true, if_false]
  exact ⟨_, rfl, rfl, rfl⟩

/-- A correctable word corrected; any other stays as it is (R225). -/
def State.cleanWord (s : State) (a : Nat) : State := if s.mark a = 1 then s.setMark a 0 else s

theorem cleanLine_eq (s : State) (b l : Nat) :
    s.cleanLine b l = (List.range 8).foldl (fun s w => s.cleanWord (0x18000 * b + 64 * l + 8 * w)) s := rfl

theorem mark_setMark (s : State) (a m c : Nat) : (s.setMark a m).mark c = if c / 8 = a / 8 then m else s.mark c := by
  unfold State.mark State.setMark
  split
  · next h => rw [h]; exact SMap.get_put_self ..
  · next h => exact SMap.get_put_other _ _ _ _ h

/-- Correcting a word leaves no other correctable that was not. -/
theorem cleanWord_not_correctable {c : Nat} (a : Nat) (h : s.mark c ≠ 1 ∨ c = a) : (s.cleanWord a).mark c ≠ 1 := by
  unfold State.cleanWord
  split
  · next hcorrectable =>
    rw [mark_setMark]
    split
    · decide
    · next hne => exact h.resolve_right fun hca => hne (by rw [hca])
  · next hnot => exact h.elim id fun hca => hca ▸ hnot

theorem cleanLine_not_correctable (s : State) (b l : Nat) {w : Nat} (hw : w < 8) : (s.cleanLine b l).mark (0x18000 * b + 64 * l + 8 * w) ≠ 1 := by
  have hfold (ws : List Nat) (s : State) (h : s.mark (0x18000 * b + 64 * l + 8 * w) ≠ 1 ∨ w ∈ ws) :
      (ws.foldl (fun s w => s.cleanWord (0x18000 * b + 64 * l + 8 * w)) s).mark (0x18000 * b + 64 * l + 8 * w) ≠ 1 := by
    induction ws generalizing s with
    | nil => exact h.resolve_right List.not_mem_nil
    | cons x ws ih =>
      refine ih _ ?_
      obtain h | h := h
      · exact .inl (cleanWord_not_correctable _ (.inl h))
      · obtain rfl | h := List.mem_cons.mp h
        · exact .inl (cleanWord_not_correctable _ (.inr rfl))
        · exact .inr h
  rw [cleanLine_eq]
  exact hfold _ s (.inr (List.mem_range.mpr hw))

theorem cleanWord_regs (s : State) (a : Nat) : (s.cleanWord a).regs = s.regs := by
  unfold State.cleanWord
  split <;> rfl

theorem cleanWord_mem (s : State) (a : Nat) : (s.cleanWord a).mem = s.mem := by
  unfold State.cleanWord
  split <;> rfl

theorem cleanLine_regs (s : State) (b l : Nat) : (s.cleanLine b l).regs = s.regs := foldl_frame State.regs (fun t _ => cleanWord_regs t _) _ s
theorem cleanLine_mem (s : State) (b l : Nat) : (s.cleanLine b l).mem = s.mem := foldl_frame State.mem (fun t _ => cleanWord_mem t _) _ s

/-- Check states depend on a bank's fill alone. -/
theorem mark_setBank (s : State) {b : Nat} {k : BankSt} (h : k.fill = (s.bank b).fill) (a : Nat) : (s.setBank b k).mark a = s.mark a := by
  have hfill (c : Nat) : ((s.setBank b k).banks.get {} c).fill = (s.banks.get {} c).fill := by
    obtain rfl | hne := eq_or_ne c b
    · exact (congrArg BankSt.fill (State.bank_setBank_self s c k)).trans h
    · exact congrArg BankSt.fill (State.bank_setBank_other s b k hne)
  unfold State.mark
  rw [fillMark_congr hfill, State.setBank_ecc]

theorem scrubBack_none (h : (s.bank b).scrubRead = none) : s.scrubBack b = s := by
  unfold State.scrubBack
  rw [h]

theorem scrubBack_some {l : Nat} (h : (s.bank b).scrubRead = some l) : ∃ k : BankSt,
    s.scrubBack b = (s.cleanLine b l).setBank b k ∧ k.fill = ((s.cleanLine b l).bank b).fill ∧ k.scrubRead = none := by
  unfold State.scrubBack
  rw [h]
  refine ⟨_, rfl, ?_, ?_⟩ <;> dsimp only

end Scrub

/-! ### March tests (R227 to R229) -/

section MarchTests

variable {s : State} {b : Nat} {v : Word}

/-- A two-bit setting of BK_MARCH_CTL written, where 3 is no choice and keeps the old one. -/
def State.marchField (s : State) (b lo : Nat) (v : Word) : State :=
  if bitsOf v.toNat lo 2 = 3 then s else s.setFld (Reg.BK_MARCH_CTL b) lo 2 (bitsOf v.toNat lo 2)

/-- The settings of a march test as a write of BK_MARCH_CTL leaves them. -/
def State.marchSet (s : State) (b : Nat) (v : Word) : State :=
  ((s.marchField b 0 v).marchField b 2 v).setFld (Reg.BK_MARCH_CTL b) 4 2 (bitsOf v.toNat 4 2)

/-- The test that a write of BK_MARCH_CTL asks for. -/
def State.askedMarch (s : State) (b : Nat) (v : Word) : March :=
  ⟨s.fld (Reg.BK_MARCH_CTL b) 0 2, s.fld (Reg.BK_MARCH_CTL b) 2 2, bitOf v.toNat 4, bitOf v.toNat 5,
    if bitOf v.toNat 4 then List.range 1538 else [], 0, 0, false⟩

/-- Whether a bank may take a test (R228, R229): a destructive one needs it with firmware and out of handover. -/
def State.mayTest (s : State) (b : Nat) (preserve : Bool) : Bool :=
  s.bankOn b && (preserve || (s.fld (Reg.BK_OWNER b) 0 3 = 0 && !s.bit (Reg.BK_OWNER b) 10))

section Settings

variable (s b v)

theorem marchField_mem (lo : Nat) : (s.marchField b lo v).mem = s.mem := by
  unfold State.marchField
  split <;> rfl

theorem rd_marchField_other (lo : Nat) {r : Nat} (h : r ≠ Reg.BK_MARCH_CTL b) : (s.marchField b lo v).rd r = s.rd r := by
  unfold State.marchField
  split
  · rfl
  · exact State.rd_setFld_other s lo 2 _ h

theorem bit_marchField_apart {lo : Nat} (hlo : lo + 2 ≤ 7) : (s.marchField b lo v).bit (Reg.BK_MARCH_CTL b) 7 = s.bit (Reg.BK_MARCH_CTL b) 7 := by
  unfold State.marchField
  split
  · rfl
  · exact State.bit_setFld_apart s _ _ (by omega) (by omega)

theorem marchSet_mem : (s.marchSet b v).mem = s.mem :=
  (State.setFld_mem ..).trans ((marchField_mem ..).trans (marchField_mem ..))

theorem rd_marchSet_other {r : Nat} (h : r ≠ Reg.BK_MARCH_CTL b) : (s.marchSet b v).rd r = s.rd r :=
  (State.rd_setFld_other _ 4 2 _ h).trans ((rd_marchField_other _ b v 2 h).trans (rd_marchField_other s b v 0 h))

theorem marchSet_busy : (s.marchSet b v).bit (Reg.BK_MARCH_CTL b) 7 = s.bit (Reg.BK_MARCH_CTL b) 7 :=
  (State.bit_setFld_apart _ _ _ (by decide) (by decide)).trans
    ((bit_marchField_apart _ b v (by decide)).trans (bit_marchField_apart s b v (by decide)))

theorem marchSet_mayTest (preserve : Bool) : (s.marchSet b v).mayTest b preserve = s.mayTest b preserve := by
  have hrd {r : Nat} (h : r ≠ Reg.BK_MARCH_CTL b) : (s.marchSet b v).rd r = s.rd r := rd_marchSet_other s b v h
  have hpanel := hrd (r := Reg.PW_PANEL (panelOfBank b)) (by unfold Reg.PW_PANEL Reg.BK_MARCH_CTL panelOfBank; omega)
  have hstate := hrd (r := Reg.PW_STATE) (by unfold Reg.PW_STATE Reg.BK_MARCH_CTL; omega)
  have hpower := hrd (r := Reg.BK_POWER b) (bankReg_apart (by decide))
  have hrepair := hrd (r := Reg.BK_REPAIR b) (bankReg_apart (by decide))
  have howner := hrd (r := Reg.BK_OWNER b) (bankReg_apart (by decide))
  unfold State.mayTest State.bankOn State.panelDown State.fld State.bit
  rw [hpanel, hstate, hpower, hrepair, howner]

end Settings

theorem writeMarch_eq (hb : b < 40960) (hstart : bitOf v.toNat 6 = true) (hbusy : s.bit (Reg.BK_MARCH_CTL b) 7 = false) :
    s.writeMarch b v = if s.mayTest b (bitOf v.toNat 4) then (s.marchSet b v).beginMarch b ((s.marchSet b v).askedMarch b v)
      else (s.marchSet b v).setBit (Reg.BK_STATUS b) 8 true := by
  have hgoes : (!bitOf v.toNat 6 || (s.marchSet b v).bit (Reg.BK_MARCH_CTL b) 7) = false := by rw [hstart, marchSet_busy, hbusy]; rfl
  rw [← marchSet_mayTest s b v]
  unfold State.writeMarch
  rw [if_neg (Nat.not_le.mpr hb)]
  exact if_neg (ne_true_of_eq_false hgoes)

/-- A test that a write begins shows BUSY with no result, and keeps memory. -/
theorem writeMarch_begins (hb : b < 40960) (hstart : bitOf v.toNat 6 = true) (hbusy : s.bit (Reg.BK_MARCH_CTL b) 7 = false)
    (hmay : s.mayTest b (bitOf v.toNat 4) = true) : (s.writeMarch b v).bit (Reg.BK_MARCH_CTL b) 7 = true ∧
      (s.writeMarch b v).rd (Reg.BK_MARCH_RESULT b) = 0#32 ∧ ((s.writeMarch b v).bank b).march = some ((s.marchSet b v).askedMarch b v) ∧
      (s.writeMarch b v).mem = s.mem := by
  rw [writeMarch_eq hb hstart hbusy, if_pos hmay]
  unfold State.beginMarch
  refine ⟨?_, ?_, congrArg BankSt.march (State.bank_setBank_self ..), ?_⟩
  · have hapart : Reg.BK_MARCH_CTL b ≠ Reg.BK_MARCH_RESULT b := bankReg_apart (by decide)
    rw [State.bit_congr (State.setBank_regs ..), State.bit_wr_other _ _ _ hapart, State.bit_setBit_self _ _ _ (by decide)]
  · rw [State.rd_setBank, State.rd_wr_self]
  · rw [State.setBank_mem, State.wr_mem, State.setBit_mem, marchSet_mem]

/-- A test that a bank may not take is refused in BK_STATUS, begins nothing and keeps memory. -/
theorem writeMarch_refuses (hb : b < 40960) (hstart : bitOf v.toNat 6 = true) (hbusy : s.bit (Reg.BK_MARCH_CTL b) 7 = false)
    (hmay : s.mayTest b (bitOf v.toNat 4) = false) : (s.writeMarch b v).bit (Reg.BK_STATUS b) 8 = true ∧
      (s.writeMarch b v).bit (Reg.BK_MARCH_CTL b) 7 = false ∧ (s.writeMarch b v).mem = s.mem := by
  rw [writeMarch_eq hb hstart hbusy, if_neg (ne_true_of_eq_false hmay)]
  have hapart : Reg.BK_MARCH_CTL b ≠ Reg.BK_STATUS b := bankReg_apart (by decide)
  refine ⟨State.bit_setBit_self _ _ _ (by decide), ?_, (State.setBit_mem ..).trans (marchSet_mem ..)⟩
  rw [State.bit_setBit_other _ _ _ _ hapart, marchSet_busy, hbusy]

/-- A line corrected, and its copy in the scratch line (R229). -/
def State.copiedLine (s : State) (b l : Nat) : State :=
  { s.cleanLine b l with scratch := (s.cleanLine b l).scratch.put 0 (b / 4) ((s.cleanLine b l).lineCopy b l) }

theorem copiedLine_keeps (s : State) (b l : Nat) : (s.copiedLine b l).mem = s.mem ∧ (s.copiedLine b l).regs = s.regs := by
  unfold State.copiedLine
  dsimp only
  exact ⟨cleanLine_mem s b l, cleanLine_regs s b l⟩

/-- A preserving test with a line taken off those still to test. -/
def March.taken (m : March) (l : Nat) (rest : List Nat) (failed : Bool) : March := { (if failed then m.fail l else m) with lines := rest }

theorem counted_keeps (m : March) (l : Nat) (failed : Bool) :
    (if failed then m.fail l else m).repair = m.repair ∧ (if failed then m.fail l else m).live = m.live := by
  split <;> exact ⟨rfl, rfl⟩

variable {m : March} (hm : (s.bank b).march = some m)
include hm

theorem marchLine_idle (failed : Bool) (h : m.preserve = false ∨ m.lines = [] ∨ s.bankOn b = false) : s.marchLine b failed = s := by
  unfold State.marchLine
  simp only [hm]
  split
  · rfl
  · next l rest hlines =>
    refine if_pos ?_
    obtain h | h | h := h
    · rw [h]; rfl
    · rw [h] at hlines; exact absurd hlines (List.cons_ne_nil l rest).symm
    · rw [h, Bool.not_false, Bool.or_true, Bool.true_or]

/-- The next line of a preserving test without repairs taken. -/
theorem marchLine_takes {l : Nat} {rest : List Nat} (failed : Bool) (hlines : m.lines = l :: rest) (hpreserve : m.preserve = true)
    (hon : s.bankOn b = true) (hprio : (s.bank b).priority = []) (hlive : m.live = false) (hrepair : m.repair = false) (hl : l < 1536) :
    s.marchLine b failed = (s.copiedLine b l).setBank b { (s.copiedLine b l).bank b with march := some (m.taken l rest failed), lastScrub := false } := by
  obtain ⟨hkeptRepair, hkeptLive⟩ := counted_keeps m l failed
  have hmay : (!m.preserve || !s.bankOn b || (!(s.bank b).lastScrub && (s.bank b).priority ≠ [])) = false := by
    rw [hpreserve, hon, hprio, decide_eq_false (not_not.mpr rfl), Bool.and_false]
    rfl
  unfold State.marchLine
  simp only [hm, hlines, hmay, hl, hkeptRepair, hkeptLive, hlive, hrepair, Bool.and_false, Bool.or_self, Bool.false_eq_true, if_false, if_true,
    State.copiedLine, March.taken]

theorem marchDone_waits (fails : List Nat) (hpreserve : m.preserve = true) (hlines : m.lines ≠ []) : s.marchDone b fails = s := by
  unfold State.marchDone
  simp only [hm]
  exact if_pos (by rw [hpreserve, decide_eq_true hlines]; rfl)

omit hm

/-- A bank after a destructive test: zeros, no test, and BK_MARCH_RESULT (R227, R228). -/
def State.marchResult (s : State) (b : Nat) (m : March) : State :=
  (((s.refill b 0).setBank b { (s.refill b 0).bank b with march := none }).setBit (Reg.BK_MARCH_CTL b) 7 false).wr
    (Reg.BK_MARCH_RESULT b) (BitVec.ofNat 32 (2 ^ 22 + min 2047 m.fails + m.first * 2 ^ 11))

theorem marchResult_eq (s : State) (b : Nat) (m : March) : s.marchResult b m =
    (((s.refill b 0).setBank b { (s.refill b 0).bank b with march := none }).setBit (Reg.BK_MARCH_CTL b) 7 false).wr
      (Reg.BK_MARCH_RESULT b) (BitVec.ofNat 32 (2 ^ 22 + min 2047 m.fails + m.first * 2 ^ 11)) := rfl

/-- The same with failing lines shown in BK_STATUS. -/
def State.marchEnded (s : State) (b : Nat) (m : March) : State :=
  if m.fails = 0 then s.marchResult b m else (s.marchResult b m).setBit (Reg.BK_STATUS b) 7 true

section Ended

variable (s b) (m : March)

theorem marchEnded_eq : s.marchEnded b m =
    if m.fails = 0 then s.marchResult b m else (s.marchResult b m).setBit (Reg.BK_STATUS b) 7 true := rfl

theorem marchEnded_bank : (s.marchEnded b m).bank b = { s.bank b with fill := 0, march := none } := by
  unfold State.marchEnded State.marchResult
  split <;> simp only [State.bank_setBit, State.bank_wr, State.bank_setBank_self, State.bank_refill_self]

theorem marchEnded_mem : (s.marchEnded b m).mem = s.mem.clear (0x18000 * b) (0x18000 * (b + 1)) := by
  unfold State.marchEnded State.marchResult
  split <;> simp only [State.setBit_mem, State.wr_mem, State.setBank_mem, refill_mem]

/-- A register but BK_STATUS stands as the results have left it. -/
theorem rd_marchEnded {r : Nat} (h : r ≠ Reg.BK_STATUS b) : (s.marchEnded b m).rd r = ((s.setBit (Reg.BK_MARCH_CTL b) 7 false).wr
    (Reg.BK_MARCH_RESULT b) (BitVec.ofNat 32 (2 ^ 22 + min 2047 m.fails + m.first * 2 ^ 11))).rd r := by
  unfold State.marchEnded
  split
  · rfl
  · exact State.rd_setBit_other _ 7 true h

theorem marchEnded_idle : (s.marchEnded b m).bit (Reg.BK_MARCH_CTL b) 7 = false := by
  have hstatus : Reg.BK_MARCH_CTL b ≠ Reg.BK_STATUS b := bankReg_apart (by decide)
  have hresult : Reg.BK_MARCH_CTL b ≠ Reg.BK_MARCH_RESULT b := bankReg_apart (by decide)
  unfold State.bit
  rw [rd_marchEnded s b m hstatus, State.rd_wr_other _ _ hresult]
  exact State.bit_setBit_self s _ false (by decide)

theorem marchEnded_result : (s.marchEnded b m).rd (Reg.BK_MARCH_RESULT b) = BitVec.ofNat 32 (2 ^ 22 + min 2047 m.fails + m.first * 2 ^ 11) := by
  have hstatus : Reg.BK_MARCH_RESULT b ≠ Reg.BK_STATUS b := bankReg_apart (by decide)
  rw [rd_marchEnded s b m hstatus, State.rd_wr_self]

end Ended

include hm in
theorem marchDone_ends (hpreserve : m.preserve = false) (hrepair : m.repair = false) (hrepairs : (s.bank b).repairs = [])
    (hheld : (s.bank b).held = []) : s.marchDone b [] = s.marchEnded b m := by
  have hnone : ((s.marchEnded b m).bank b).repairs = [] := by rw [marchEnded_bank, hrepairs]
  have hfree : ((s.marchEnded b m).bank b).held = [] := by rw [marchEnded_bank, hheld]
  unfold State.marchDone
  simp only [hm, hpreserve, hrepair, Bool.false_and, Bool.false_eq_true, if_false, List.filter_nil, List.eraseDups_nil, List.mergeSort_nil,
    List.foldl_nil, Bool.not_false, Bool.or_true, if_true, ← marchResult_eq, ← marchEnded_eq, hnone, resumeBank_none hfree]

end MarchTests

/-! ### The obligation, part by part -/

section Commands

variable (s : State) (b : Nat) (v : Word)

theorem exec_bankHandover_hands {w : Writer} (hb : b < 40960) (hw : ∀ c, w ≠ .component c) (h : s.handsOver w b v = true) :
    ∃ t, exec (.bankHandover w b v) s = .next t ∧ t.fld (Reg.BK_OWNER b) 0 10 = bitsOf v.toNat 0 10 ∧ t.bit (Reg.BK_OWNER b) 10 = true ∧
      (∀ r, r ≠ Reg.BK_OWNER b → t.rd r = s.rd r) ∧ t.mem = s.mem := by
  obtain ⟨k, hk⟩ := handOwner_hands hb h
  obtain ⟨howner, hpending⟩ := owner_handed s b (n := bitsOf v.toNat 0 10) (Nat.mod_lt _ (by decide))
  have hregs (t : State) : (t.setBank b k).numbered.regs = t.regs := (State.numbered_regs _).trans (State.setBank_regs ..)
  refine ⟨_, (exec_bankHandover_of_no_component s hw b v).trans (congrArg Host.Outcome.next hk), ?_, ?_, fun r hr => ?_, ?_⟩
  · rw [State.fld_congr (hregs _), howner]
  · rw [State.bit_congr (hregs _), hpending]
  · rw [State.rd_congr (hregs _), State.rd_setFld_other s 0 11 _ hr]
  · rw [State.numbered_mem, State.setBank_mem, State.setFld_mem]

theorem exec_bankHandover_refuses {w : Writer} (hb : b < 40960) (hw : ∀ c, w ≠ .component c) (h : s.handsOver w b v = false) :
    ∃ t, exec (.bankHandover w b v) s = .next t ∧ t.rd (Reg.BK_OWNER b) = s.rd (Reg.BK_OWNER b) ∧ t.bit (Reg.BK_STATUS b) 1 = true ∧ t.mem = s.mem ∧
      (s.bit (Reg.BK_STATUS b) 1 = false → ∃ e, t.evq = s.evq ++ [e] ∧ e.code = .BANK_HO_REFUSED ∧ e.source = b / 4) := by
  have hapart : Reg.BK_OWNER b ≠ Reg.BK_STATUS b := bankReg_apart (by decide)
  have hexec := (exec_bankHandover_of_no_component s hw b v).trans (congrArg Host.Outcome.next (handOwner_refuses hb h))
  refine ⟨_, hexec, ?_, ?_, ?_, fun hclear => ?_⟩
  · rw [rd_setStatus_other _ _ _ _ _ _ (by decide) hapart]
  · rw [bit_setStatus_self _ _ _ _ _ _ (by decide) (by decide)]
  · rw [setStatus_mem]
  · exact ⟨_, setStatus_raises s (Reg.BK_STATUS b) 1 .BANK_HO_REFUSED (b / 4) [b % 4, b] .info hclear, rfl, rfl⟩

/-- A component hands a bank over as firmware where it may write BK_OWNER (R392). -/
theorem exec_bankHandover_component {c : Nat} (hstopped : s.fw.stopped.contains c = false) (hmay : s.componentMay c (Reg.BK_OWNER b) v = true) :
    exec (.bankHandover (.component c) b v) s = exec (.bankHandover .firmware b v) s := by
  have hhome : regHome (Reg.BK_OWNER b) = Reg.BK_OWNER b := regHome_above (by unfold Reg.BK_OWNER; omega)
  refine congrArg Host.Outcome.next ?_
  simp only [State.byWriter, hstopped, hhome, hmay, Bool.false_eq_true, if_false, if_true]

theorem exec_bankHandover_stops {c : Nat} (hstopped : s.fw.stopped.contains c = false) (hmay : s.componentMay c (Reg.BK_OWNER b) v = false) :
    exec (.bankHandover (.component c) b v) s = .next { s with fw := { s.fw with stopped := s.fw.stopped ++ [c] } } := by
  have hhome : regHome (Reg.BK_OWNER b) = Reg.BK_OWNER b := regHome_above (by unfold Reg.BK_OWNER; omega)
  exact congrArg Host.Outcome.next (byWriter_stops_component hstopped (hhome.symm ▸ hmay) _)

theorem exec_bankPowerWrite_starts {want : Nat} (hb : b < 40960) (hwant : bitsOf v.toNat 0 2 = want) (hon : s.fld (Reg.BK_POWER b) 2 2 = 0)
    (hrun : s.bit (Reg.BK_POWER b) 4 = false) (hsleep : want = 1 ∨ want = 2) :
    ∃ t, exec (.bankPowerWrite b v) s = .next t ∧ t.fld (Reg.BK_POWER b) 0 2 = want ∧ t.bit (Reg.BK_POWER b) 4 = true ∧
      t.fld (Reg.BK_POWER b) 2 2 = 0 ∧ t.fld (Reg.BK_POWER b) 5 2 = bitsOf v.toNat 5 2 ∧ (t.bank b).goal = some want ∧ t.mem = s.mem := by
  subst hwant
  have hfour : bitsOf v.toNat 0 2 < 4 := Nat.mod_lt _ (by decide)
  obtain ⟨k, hstart, hgoal⟩ := startTransition_sleeps (askPower_state s b v hfour) (by omega) ((askPower_inForce s b v).trans hon)
    ((askPower_running s b v).trans hrun)
  have hregs (t : State) : (t.setBank b k).numbered.regs = t.regs := (State.numbered_regs _).trans (State.setBank_regs ..)
  refine ⟨_, congrArg Host.Outcome.next ((writePower_eq hb (by omega) (by omega)).trans hstart), ?_, ?_, ?_, ?_, ?_, ?_⟩
  · rw [State.fld_congr (hregs _), State.fld_setBit_apart _ _ _ (by decide) (by decide), askPower_state s b v hfour]
  · rw [State.bit_congr (hregs _), State.bit_setBit_self _ _ _ (by decide)]
  · rw [State.fld_congr (hregs _), State.fld_setBit_apart _ _ _ (by decide) (by decide), askPower_inForce, hon]
  · rw [State.fld_congr (hregs _), State.fld_setBit_apart _ _ _ (by decide) (by decide), askPower_wake]
  · rw [State.bank_numbered, State.bank_setBank_self, hgoal]
  · rw [State.numbered_mem, State.setBank_mem, State.setBit_mem]
    rfl

theorem exec_bankPowerWrite_stays {want : Nat} (hb : b < 40960) (hwant : bitsOf v.toNat 0 2 = want)
    (hstays : want = s.fld (Reg.BK_POWER b) 2 2 ∨ want = 0 ∧ s.bit (Reg.BK_REPAIR b) 24 = true) (hthree : want < 3) :
    exec (.bankPowerWrite b v) s = .next (s.askPower b want v) := by
  subst hwant
  have hapart : Reg.BK_REPAIR b ≠ Reg.BK_POWER b := bankReg_apart (by decide)
  have hfour : bitsOf v.toNat 0 2 < 4 := Nat.lt_succ_of_lt hthree
  refine congrArg Host.Outcome.next ((writePower_eq hb hthree (by omega)).trans (startTransition_none ?_))
  rw [askPower_state s b v hfour, askPower_inForce, askPower_other s b v hapart]
  exact hstays

theorem exec_bankTransitionDone_moves {g : Nat} (hrun : s.bit (Reg.BK_POWER b) 4 = true) (hup : s.panelDown (panelOfBank b) = false)
    (hgoal : (s.bank b).goal = some g) (hasked : g = s.fld (Reg.BK_POWER b) 0 2) (hheld : (s.bank b).held = [])
    (hold : s.fld (Reg.BK_POWER b) 2 2 = 0 → s.oldAccess b (s.bank b).sinceT = false) :
    ∃ t, exec (.bankTransitionDone b) s = .next t ∧ t.fld (Reg.BK_POWER b) 2 2 = g ∧ t.bit (Reg.BK_POWER b) 4 = false ∧ (t.bank b).goal = none ∧
      (g = 1 → s.fld (Reg.BK_POWER b) 2 2 = 0 → t.mem = s.mem ∧ t.ecc = s.ecc ∧ (t.bank b).fill = (s.bank b).fill) ∧
      (g = 2 → t.mem = s.mem.clear (0x18000 * b) (0x18000 * (b + 1)) ∧ t.free = s.free) ∧
      (g = 0 → s.fld (Reg.BK_POWER b) 2 2 = 2 → t.mem = s.mem.clear (0x18000 * b) (0x18000 * (b + 1)) ∧
        (t.bank b).fill = if s.bit (Reg.BK_POWER b) 6 then 3 else 4 + s.free) := by
  have hfour : g < 2 ^ 2 := hasked.trans_lt (State.fld_lt s (Reg.BK_POWER b) 0 2)
  obtain ⟨hnogoal, -⟩ := movedContents_bank (s.moved b g) b (s.fld (Reg.BK_POWER b) 2 2) g
  refine ⟨_, congrArg Host.Outcome.next (transitionDone_moves hrun hup hgoal hasked hheld hold), ?_, ?_, ?_, fun h1 h0 => ?retain, fun h2 => ?off,
    fun h0 h2 => ?on⟩
  · rw [State.fld_congr (movedContents_regs ..), moved_inForce, Nat.mod_eq_of_lt hfour]
  · rw [State.bit_congr (movedContents_regs ..), moved_rests]
  · rw [hnogoal, moved_bank]
  case retain =>
    rw [h0, h1, State.movedContents, if_neg (by decide), if_neg (by decide), moved_mem, moved_ecc, moved_bank]
    exact ⟨rfl, rfl, rfl⟩
  case off =>
    rw [h2, State.movedContents, if_pos rfl, loseBank_mem, loseBank_free, moved_mem, moved_free]
    exact ⟨rfl, rfl⟩
  case on =>
    rw [h0, h2, State.movedContents, if_neg (by decide), if_pos rfl, returnOn_mem, returnOn_bank, moved_mem, moved_free, moved_poison]
    exact ⟨rfl, rfl⟩

theorem exec_bankScrubRead_clean (hb : b < 40960) (hon : s.bankOn b = true) (htest : (s.bank b).testing = false) (hlast : (s.bank b).lastScrub = false)
    (hprio : (s.bank b).priority = []) (hscrub : s.bit (Reg.MT_SCRUB_CTL (b / 4)) 8 = true) (hclean : s.cleanAt b (s.fld (Reg.BK_SCRUB_POS b) 0 11))
    (d : Nat) : ∃ t, exec (.bankScrubRead b [] [] d) s = .next t ∧ t.mem = s.mem ∧ t.ecc = s.ecc ∧ (t.bank b).lastScrub = true ∧
      (t.bank b).scrubRead = none ∧ t.fld (Reg.BK_SCRUB_POS b) 0 11 =
        (if s.fld (Reg.BK_SCRUB_POS b) 0 11 = 1535 then 0 else (s.fld (Reg.BK_SCRUB_POS b) 0 11 + 1) % 2048) := by
  obtain ⟨k, hread, hlastScrub, hnone⟩ := scrubRead_clean hb hon htest hlast hprio hscrub hclean d
  obtain ⟨hmem, hecc, -⟩ := walked_keeps s b
  refine ⟨_, congrArg Host.Outcome.next hread, ?_, ?_, ?_, ?_, ?_⟩
  · rw [State.setBank_mem, grantCounted_mem, hmem]
  · rw [State.setBank_ecc, grantCounted_ecc, hecc]
  · rw [State.bank_setBank_self, hlastScrub]
  · rw [State.bank_setBank_self, hnone]
  · rw [State.fld_congr (State.setBank_regs ..), grantCounted_line, walked_line]

theorem exec_scrubWriteback_corrects {l : Nat} (h : (s.bank b).scrubRead = some l) : ∃ t, exec (.scrubWriteback b) s = .next t ∧
    (t.bank b).scrubRead = none ∧ t.regs = s.regs ∧ t.mem = s.mem ∧ ∀ w, w < 8 → t.mark (0x18000 * b + 64 * l + 8 * w) ≠ 1 := by
  obtain ⟨k, hback, hfill, hnone⟩ := scrubBack_some h
  refine ⟨_, congrArg Host.Outcome.next hback, ?_, ?_, ?_, fun w hw => ?_⟩
  · rw [State.bank_setBank_self, hnone]
  · rw [State.setBank_regs, cleanLine_regs]
  · rw [State.setBank_mem, cleanLine_mem]
  · rw [mark_setBank _ hfill]
    exact cleanLine_not_correctable s b l hw

/-! A write of BK_MARCH_CTL with START, by its PRESERVE (R227, R229). -/

section Starts

variable {v} (hstart : bitOf v.toNat 6 = true)
include hstart

theorem exec_marchStart_preserve (h : bitOf v.toNat 4 = true) : exec (.marchStart b v) s = .next s :=
  congrArg Host.Outcome.next (if_neg (by rw [hstart, h]; decide))

theorem exec_marchPreserveStart_destructive (h : bitOf v.toNat 4 = false) : exec (.marchPreserveStart b v) s = .next s :=
  congrArg Host.Outcome.next (if_neg (by rw [hstart, h]; decide))

theorem exec_marchStart_writes (h : bitOf v.toNat 4 = false) : exec (.marchStart b v) s = .next (s.writeMarch b v) :=
  congrArg Host.Outcome.next (if_pos (by rw [hstart, h]; decide))

theorem exec_marchPreserveStart_writes (h : bitOf v.toNat 4 = true) : exec (.marchPreserveStart b v) s = .next (s.writeMarch b v) :=
  congrArg Host.Outcome.next (if_pos (by rw [hstart, h]; decide))

end Starts

theorem exec_marchLineDone_takes {m : March} (hm : (s.bank b).march = some m) {l : Nat} {rest : List Nat} (failed : Bool) (hlines : m.lines = l :: rest)
    (hpreserve : m.preserve = true) (hon : s.bankOn b = true) (hprio : (s.bank b).priority = []) (hlive : m.live = false)
    (hrepair : m.repair = false) (hl : l < 1536) : ∃ t, exec (.marchLineDone b failed) s = .next t ∧ t.mem = s.mem ∧ t.regs = s.regs ∧
      (t.bank b).lastScrub = false ∧ (t.bank b).march = some { (if failed then m.fail l else m) with lines := rest } := by
  obtain ⟨hmem, hregs⟩ := copiedLine_keeps s b l
  refine ⟨_, congrArg Host.Outcome.next (marchLine_takes hm failed hlines hpreserve hon hprio hlive hrepair hl), ?_, ?_, ?_, ?_⟩
  · rw [State.setBank_mem, hmem]
  · rw [State.setBank_regs, hregs]
  · rw [State.bank_setBank_self]
  · rw [State.bank_setBank_self]
    rfl

end Commands

/-- Settles O42: each clause by the lemma about its command. That a write outside its registers stops a component (log entry 39), that handovers and
transitions wait for older accesses (70), that a bank back from OFF without POISON_INIT holds a free value (7), and that a command whose occasion
does not hold leaves the state as it is (45) are the model's choices. -/
theorem bankStates : Obligations.BankStates := by
  refine ⟨⟨fun s w b v hb hw => ⟨exec_bankHandover_hands s b v hb hw, exec_bankHandover_refuses s b v hb hw⟩,
      fun s c b v hstopped => ⟨exec_bankHandover_component s b v hstopped, exec_bankHandover_stops s b v hstopped⟩, fun s b => ?handover⟩,
    ⟨fun s b v hb => ⟨exec_bankPowerWrite_starts s b v hb rfl, exec_bankPowerWrite_stays s b v hb rfl⟩, fun s b => ?transition⟩,
    fun s b d one two => ⟨fun h => congrArg Host.Outcome.next (scrubRead_idle one two d h), fun hb hon htest hlast hprio hscrub hclean =>
      exec_bankScrubRead_clean s b hb hon htest hlast hprio hscrub hclean d⟩,
    fun s b => ⟨fun h => congrArg Host.Outcome.next (scrubBack_none h), fun l h => exec_scrubWriteback_corrects s b h⟩,
    fun s b v hb hstart hbusy => ⟨fun hdestroys => ?destructive, fun hpreserves => ?preserving⟩, fun s b failed m hm => ?tests⟩
  case handover =>
    exact ⟨fun h => congrArg Host.Outcome.next (handoverDone_waits h),
      fun hpending hold hheld => congrArg Host.Outcome.next (handoverDone_ends hpending hold hheld)⟩
  case transition =>
    exact ⟨fun h => congrArg Host.Outcome.next (transitionDone_waits h), fun g => exec_bankTransitionDone_moves s b⟩
  case destructive =>
    refine ⟨exec_marchPreserveStart_destructive s b hstart hdestroys, fun hon howner hpending => ?_, fun howner => ?_⟩
    · have hmay : s.mayTest b (bitOf v.toNat 4) = true := by rw [State.mayTest, hon, howner, hpending]; exact Bool.or_true _
      obtain ⟨hruns, hresult, hmarch, hmem⟩ := writeMarch_begins hb hstart hbusy hmay
      exact ⟨_, _, exec_marchStart_writes s b hstart hdestroys, hruns, hresult, hmarch, hdestroys, hmem⟩
    · have hmay : s.mayTest b (bitOf v.toNat 4) = false := by rw [State.mayTest, hdestroys, decide_eq_false howner]; exact Bool.and_false _
      exact ⟨_, exec_marchStart_writes s b hstart hdestroys, writeMarch_refuses hb hstart hbusy hmay⟩
  case preserving =>
    refine ⟨exec_marchStart_preserve s b hstart hpreserves, fun hon => ?_, fun hoff => ?_⟩
    · have hmay : s.mayTest b (bitOf v.toNat 4) = true := by rw [State.mayTest, hon, hpreserves]; rfl
      obtain ⟨hruns, -, hmarch, hmem⟩ := writeMarch_begins hb hstart hbusy hmay
      exact ⟨_, _, exec_marchPreserveStart_writes s b hstart hpreserves, hruns, hmarch, hpreserves, if_pos hpreserves, hmem⟩
    · have hmay : s.mayTest b (bitOf v.toNat 4) = false := by rw [State.mayTest, hoff]; rfl
      obtain ⟨hrefused, -, hmem⟩ := writeMarch_refuses hb hstart hbusy hmay
      exact ⟨_, exec_marchPreserveStart_writes s b hstart hpreserves, hrefused, hmem⟩
  case tests =>
    refine ⟨fun h => congrArg Host.Outcome.next (marchLine_idle hm failed h), fun l rest hlines hpreserve hon hprio hlive hrepair hl =>
      exec_marchLineDone_takes s b hm failed hlines hpreserve hon hprio hlive hrepair hl,
      fun fails hpreserve hlines => congrArg Host.Outcome.next (marchDone_waits hm fails hpreserve hlines), fun hpreserve hrepair hrepairs hheld => ?_⟩
    refine ⟨_, congrArg Host.Outcome.next (marchDone_ends hm hpreserve hrepair hrepairs hheld), marchEnded_idle s b m, ?_, ?_, marchEnded_result s b m,
      marchEnded_mem s b m⟩
    · rw [marchEnded_bank]
    · rw [marchEnded_bank]

end Sys2Proof.Machine
end

section
/-! PROOFS. The level tier's channels: accesses, refresh, calibration, failure, scrub and training (R235 to R245). -/

namespace Sys2Proof.Machine

/-! ### Accesses and their tags (R248) -/

section Accesses

variable {s : State} {w : TagWait} {slot : Option Nat} {a c addr : Nat}

theorem tagAccess_free (h : s.tagFree w.hf w.slot = true) : s.tagAccess w = s.runAccess w := if_pos h

theorem tagAccess_waits (h : s.tagFree w.hf w.slot = false) : s.tagAccess w = (s.stallTag w).numbered := if_neg (ne_true_of_eq_false h)

/-- A read that link ECC lets pass, once its errors stand in what the channel stores, asks for its tag. -/
theorem ldRead_asks (hmap : s.ldMap (pairBase a - extBase) = some (c, addr)) {size : Nat} (hone : s.onePair a size = true)
    {errors areaErrors : List (Nat × Nat)} {v : State} (hv : (s.upsetPair c addr a errors).upsetArea c (addr / 4096) areaErrors = v)
    (hroom : v.hfHolds (hfOfChannel c) = false) :
    s.ldRead slot a size errors areaErrors 0 = v.tagAccess (v.accessReq (hfOfChannel c) slot a size none false) := by
  unfold State.ldRead
  rw [if_neg (by rw [hone]; decide), hmap]
  dsimp only
  rw [hv, if_neg (by rw [hroom]; decide), if_pos (by simp)]

theorem ldWrite_asks (hmap : s.ldMap (pairBase a - extBase) = some (c, addr)) {data : List Byte} (hone : s.onePair a data.length = true) :
    s.ldWrite slot a data = s.tagAccess (s.accessReq (hfOfChannel c) slot a data.length (some data) false) := by
  unfold State.ldWrite
  rw [if_neg (by rw [hone]; decide), hmap]

theorem ldRefresh_outside {b : Nat} (h : 96 ≤ c ∨ 16 ≤ b) : s.ldRefresh c b = s := if_pos (by simpa using h)

theorem ldRefresh_free {b : Nat} (hc : c < 96) (hb : b < 16) (h : s.tagFree (hfOfChannel c) none = true) : s.ldRefresh c b =
    (s.takeTag { hf := hfOfChannel c, slot := none, age := s.tick, user := .refresh, addr := b }).freeUser .refresh :=
  (if_neg (by simp; omega)).trans (if_pos h)

end Accesses

/-! ### Channels in service, and those that fail (R242, R244, R245) -/

section Channels

variable {s : State} {c : Nat}

theorem chanUp_iff : s.chanUp c = true ↔ c < 96 ∧ s.fld (Reg.LD_CH_STATE c) 0 2 = 2 := by
  unfold State.chanUp
  rw [Bool.and_eq_true, decide_eq_true_eq, decide_eq_true_eq]

theorem ldRfm_up (h : s.chanUp c = true) : s.ldRfm c = s.count (Reg.LD_SCRUB_COUNT c) 16 16 1 := if_pos h

/-- A calibration window counted, by whether it waited and whether it was forced (R207). -/
def State.windowCounted (s : State) (c : Nat) (waited forced : Bool) : State :=
  (s.count (Reg.LD_CAL_ARB c) 0 16 (b2n (waited || forced))).count (Reg.LD_CAL_ARB c) 16 16 (b2n forced)

theorem ldCalibration_up (h : s.chanUp c = true) (waited forced restored : Bool) : s.ldCalibration c waited forced restored =
    if restored then s.windowCounted c waited forced else (s.windowCounted c waited forced).ldChFail c :=
  if_neg (by rw [h]; decide)

theorem windowCounted_mem (waited forced : Bool) : (s.windowCounted c waited forced).mem = s.mem := (State.count_mem ..).trans (State.count_mem ..)

theorem windowCounted_fld {a : Nat} (h : a ≠ Reg.LD_CAL_ARB c) (waited forced : Bool) (lo n : Nat) :
    (s.windowCounted c waited forced).fld a lo n = s.fld a lo n :=
  (State.fld_setFld_other _ _ _ _ _ _ h).trans (State.fld_setFld_other _ _ _ _ _ _ h)

theorem windowCounted_chanUp (waited forced : Bool) (h : s.chanUp c = true) : (s.windowCounted c waited forced).chanUp c = true := by
  obtain ⟨hc, hup⟩ := chanUp_iff.mp h
  refine chanUp_iff.mpr ⟨hc, (windowCounted_fld ?_ ..).trans hup⟩
  unfold Reg.LD_CH_STATE Reg.LD_CAL_ARB
  omega

/-- No job slot has EXT enabled. -/
def State.extUnused (s : State) : Prop := ∀ j, j < 64 → s.bit (Reg.PN_JOBMAP_CTL j) 25 = false

theorem windowCounted_extUnused (waited forced : Bool) (hc : c < 96) (h : s.extUnused) : (s.windowCounted c waited forced).extUnused := by
  intro j hj
  rw [State.bit_eq, windowCounted_fld, ← State.bit_eq, h j hj]
  unfold Reg.PN_JOBMAP_CTL Reg.LD_CAL_ARB
  omega

/-- With no job to reload, a channel that fails is fenced and its package excluded, and that is all. -/
theorem ldChFail_up (h : s.chanUp c = true) (hunused : s.extUnused) : s.ldChFail c =
    State.fenceChannel { s with pkgExcluded := s.pkgExcluded.put false (c / 8) true, retryFails := s.retryFails.del c } c 7 := by
  unfold State.ldChFail
  rw [if_neg (by rw [h]; decide)]
  dsimp only
  rw [List.filter_eq_nil_iff.mpr, List.foldl_nil]
  intro j hj hjob
  have hext : s.bit (Reg.PN_JOBMAP_CTL j) 25 = true := (Bool.and_eq_true _ _ |>.mp hjob).1
  exact absurd hext (ne_true_of_eq_false (hunused j (List.mem_range.mp hj)))

theorem fenceChannel_state (s : State) (c step : Nat) : (s.fenceChannel c step).fld (Reg.LD_CH_STATE c) 0 5 = (3 + 4 * step) % 32 :=
  (State.fld_congr (raise_regs _ _ (by decide) _ _) ..).trans (State.fld_setFld_self s _ _ (by decide))

theorem fenceChannel_mem (s : State) (c step : Nat) : (s.fenceChannel c step).mem = s.mem := (State.raise_mem ..).trans (State.setFld_mem ..)

/-- What a channel's failure in service leaves behind. -/
theorem ldChFail_fences (h : s.chanUp c = true) (hunused : s.extUnused) : (s.ldChFail c).fld (Reg.LD_CH_STATE c) 0 5 = 31 ∧
    (s.ldChFail c).mem = s.mem ∧ (s.ldChFail c).pkgExcluded.get false (c / 8) = true := by
  rw [ldChFail_up h hunused]
  refine ⟨fenceChannel_state .., fenceChannel_mem .., ?_⟩
  exact SMap.get_put_self s.pkgExcluded false true (c / 8)

/-! A channel that is not in service. -/

section Down

variable (h : s.chanUp c = false)
include h

theorem ldChFail_down : s.ldChFail c = s := if_pos (by rw [h]; rfl)
theorem ldRfm_down : s.ldRfm c = s := if_neg (ne_true_of_eq_false h)
theorem ldCalibration_down (waited forced restored : Bool) : s.ldCalibration c waited forced restored = s := if_pos (by rw [h]; rfl)
theorem ldScrub_down (forced : Bool) (errors : List (Nat × Nat × Nat)) : s.ldScrub c forced errors = s := if_pos (by rw [h]; rfl)

end Down

end Channels

/-! ### Scrub (R243) -/

section LevelScrub

variable {s : State} {c block : Nat}

/-- A block found clean: its check area stands in the check cache, and its run of corrections has ended. -/
def State.blockClean (s : State) (c block : Nat) : State :=
  { s with checkCache := s.checkCache.put [] c [⟨block, false, []⟩], weakRuns := s.weakRuns.put 0 (2 ^ 22 * c + block) 0 }

/-- The scrub walk of a channel moved on from a block: past the last one it begins anew, and another pass counts. -/
def State.blockWalked (s : State) (c block : Nat) : State :=
  if block + 1 < s.chanBlocks then s.setFld (Reg.LD_SCRUB_POS c) 0 22 (block + 1)
  else (s.setFld (Reg.LD_SCRUB_POS c) 0 22 0).setFld (Reg.LD_SCRUB_POS c) 22 10 (s.fld (Reg.LD_SCRUB_POS c) 22 10 + 1)

theorem eccFind_none (n : Nat) : eccFind n [] = .clean := if_pos rfl

theorem touchArea_clean (hareas : s.areas = []) (hcache : s.checkCache = []) (c block : Nat) :
    s.touchArea c block = ({ s with checkCache := s.checkCache.put [] c [⟨block, false, []⟩] }, []) := by
  have hmiss : s.checkCache.get [] c = [] := by rw [hcache, SMap.get_nil]
  have harea : s.areas.get {} (2 ^ 22 * c + block) = {} := by rw [hareas, SMap.get_nil]
  unfold State.touchArea
  dsimp only
  rw [hmiss, harea]
  rfl

theorem scrubArea_clean (hareas : s.areas = []) (hcache : s.checkCache = []) (c block : Nat) :
    s.scrubArea c block = ({ s with checkCache := s.checkCache.put [] c [⟨block, false, []⟩] }, .clean, []) := by
  have harea : s.areas.get {} (2 ^ 22 * c + block) = {} := by rw [hareas, SMap.get_nil]
  have hmiss : s.checkCache.get [] c = [] := by rw [hcache, SMap.get_nil]
  unfold State.scrubArea
  simp only [harea, hmiss, eccFind_none, List.any_nil, Bool.not_false, if_true, touchArea_clean hareas hcache]

theorem pairErrors_none (hpairs : s.pairErrs = []) (a addr : Nat) : s.pairErrors a addr [] = [] := by
  have hadd (symbol : Nat) : Errors.add [] symbol 0 = [] := if_pos (by rw [SMap.get_nil]; rfl)
  unfold State.pairErrors
  dsimp only
  rw [hpairs, SMap.get_nil, SMap.get_nil, SMap.get_nil, hadd, hadd]

theorem scrubPair_clean (hpairs : s.pairErrs = []) (c block j : Nat) : s.scrubPair c block j [] = (s, .clean) := by
  unfold State.scrubPair
  split
  · rfl
  · next a _ =>
    dsimp only
    rw [pairErrors_none hpairs]
    rfl

theorem scrubPairs_clean (hpairs : s.pairErrs = []) (c block : Nat) (pairs : List Nat) (found : List ScrubFind) :
    pairs.foldl (fun (acc : State × List ScrubFind) j => ((acc.1.scrubPair c block j []).1, (acc.1.scrubPair c block j []).2 :: acc.2)) (s, found) =
      (s, List.replicate pairs.length .clean ++ found) := by
  induction pairs generalizing found with
  | nil => rfl
  | cons j pairs ih =>
    rw [List.foldl_cons]
    dsimp only
    rw [scrubPair_clean hpairs, ih, List.length_cons, List.replicate_succ', List.append_assoc, List.singleton_append]

theorem ldScrub_clean (hup : s.chanUp c = true) (hon : s.bit Reg.HF_LD_SCRUB 16 = true) (hpairs : s.pairErrs = []) (hareas : s.areas = [])
    (hcache : s.checkCache = []) (forced : Bool) (hblock : s.fld (Reg.LD_SCRUB_POS c) 0 22 = block) :
    s.ldScrub c forced [] = ((s.blockClean c block).count (Reg.LD_SCRUB_COUNT c) 0 16 (b2n forced)).blockWalked c block := by
  have hfound : (List.replicate (List.range 31).length ScrubFind.clean ++ [ScrubFind.clean]).contains .fixed = false := by decide
  have hruns (runs : Nat) : runsAfter (List.replicate (List.range 31).length ScrubFind.clean ++ [ScrubFind.clean]) runs = 0 := by
    unfold runsAfter
    rw [hfound]
    rfl
  unfold State.ldScrub
  rw [if_neg (by rw [hup, hon]; decide), hblock]
  dsimp only [State.upsetBlock, List.foldl_nil]
  rw [scrubArea_clean hareas hcache]
  dsimp only
  rw [scrubPairs_clean (by exact hpairs)]
  dsimp only
  rw [hruns, hfound]
  simp only [Bool.false_and, Bool.false_eq_true, if_false]
  rfl

theorem setFld_pairErrs (s : State) (a lo n v : Nat) : (s.setFld a lo n v).pairErrs = s.pairErrs := rfl
theorem setFld_areas (s : State) (a lo n v : Nat) : (s.setFld a lo n v).areas = s.areas := rfl

theorem blockWalked_keeps (s : State) (c block : Nat) : (s.blockWalked c block).mem = s.mem ∧ (s.blockWalked c block).ecc = s.ecc ∧
    (s.blockWalked c block).pairErrs = s.pairErrs ∧ (s.blockWalked c block).areas = s.areas := by
  unfold State.blockWalked
  split <;> simp only [State.setFld_mem, State.setFld_ecc, setFld_pairErrs, setFld_areas, and_self]

theorem blockWalked_pos (s : State) (c block : Nat) : (s.blockWalked c block).fld (Reg.LD_SCRUB_POS c) 0 22 =
    if block + 1 < s.chanBlocks then (block + 1) % 2 ^ 22 else 0 := by
  unfold State.blockWalked
  split
  · exact State.fld_setFld_self _ _ _ (by decide)
  · exact (State.fld_setFld_apart _ _ _ (by decide) (by decide)).trans (State.fld_setFld_self _ _ _ (by decide))

end LevelScrub

/-! ### Training (R244) -/

section Training

variable {s : State} {k : Nat}

theorem chanState_ne {c d : Nat} (h : c ≠ d) : Reg.LD_CH_STATE c ≠ Reg.LD_CH_STATE d := by
  unfold Reg.LD_CH_STATE
  omega

theorem setFld_pkgGiB (s : State) (a lo n v : Nat) : (s.setFld a lo n v).pkgGiB = s.pkgGiB := rfl

theorem setPackage_mem (s : State) (k st : Nat) : (s.setPackage k st).mem = s.mem := foldl_frame (·.mem) (fun t _ => State.setFld_mem t ..) _ s
theorem setPackage_pkgGiB (s : State) (k st : Nat) : (s.setPackage k st).pkgGiB = s.pkgGiB := foldl_frame (·.pkgGiB) (fun t _ => setFld_pkgGiB t ..) _ s

theorem setPackage_fld_other {a : Nat} (h : ∀ i, i < 8 → a ≠ Reg.LD_CH_STATE (8 * k + i)) (st lo n : Nat) :
    (s.setPackage k st).fld a lo n = s.fld a lo n :=
  foldl_frame_mem (State.fld · a lo n) (fun t i hi => State.fld_setFld_other t _ _ _ _ _ (h i (List.mem_range.mp hi))) s

/-- The low bits of a field that begins at bit 0. -/
theorem fld_low (s : State) (a : Nat) {m n : Nat} (h : m ≤ n) : s.fld a 0 m = s.fld a 0 n % 2 ^ m :=
  (Nat.mod_mod_of_dvd _ (pow_dvd_pow 2 h)).symm

theorem setPackage_chanState {j : Nat} (hj : j < 8) (s : State) (k st : Nat) :
    (s.setPackage k st).fld (Reg.LD_CH_STATE (8 * k + j)) 0 5 = st % 32 := by
  refine foldl_visit id (State.fld · (Reg.LD_CH_STATE (8 * k + j)) 0 5) (I := fun _ => True) (List.mem_range.mpr hj)
    (by rw [List.map_id]; exact List.nodup_range) (fun _ _ _ _ => trivial) (fun t i _ hne => ?_) (fun t _ _ => ?_) trivial rfl
  · exact State.fld_setFld_other t _ _ _ _ _ (chanState_ne fun h => hne (Nat.add_left_cancel h).symm)
  · exact State.fld_setFld_self t _ st (by decide)

/-- The next package shows TRAINING, or nothing changes; a package that is through S4 is never the next one. -/
theorem trainNext_cases (s : State) (hf : Nat) : s.trainNext hf = s ∨ ∃ k, s.pkgDone k = false ∧ s.trainNext hf = s.setPackage k 1 := by
  unfold State.trainNext
  split
  · exact .inl rfl
  · next i hi =>
    dsimp only
    split
    · exact .inl rfl
    · refine .inr ⟨6 * hf + i, ?_, rfl⟩
      have hless := List.find?_some hi
      rw [decide_eq_true_eq] at hless
      exact decide_eq_false (Nat.not_le.mpr hless)

/-- A package brought into service by its training (R244). -/
def State.packageServes (s : State) (k giB : Nat) : State :=
  (State.setPackage { s with pkgGiB := s.pkgGiB.put 0 k giB } k 2).setBit Reg.HF_LD_STATE k true

theorem packageTrain_serves {giB : Nat} (hk : k < 12) (hstage : s.fld Reg.PC_BOOT 0 3 = 4) (hnew : s.pkgDone k = false)
    (hlower : ∀ i, i < k → i / 6 = k / 6 → s.pkgDone i = true) (hfit : s.capacityOk giB = true) (hkept : s.pkgExcluded.get false k = false) :
    s.packageTrain k giB [] = (s.packageServes k giB).trainNext (k / 6) := by
  have hturn : (List.range 12).all (fun i => i / 6 ≠ k / 6 || k ≤ i || s.pkgDone i) = true := by
    simp only [List.all_eq_true, Bool.or_eq_true, decide_eq_true_eq]
    exact fun i _ => or_iff_not_imp_left.mpr fun h => hlower i (by omega) (by omega)
  unfold State.packageTrain
  rw [if_neg (by rw [decide_eq_false (Nat.not_le.mpr hk), hstage, hnew, hturn, hfit]; decide)]
  dsimp only
  rw [if_neg (ne_true_of_eq_false hkept)]
  rfl

section Serves

variable {giB : Nat}

theorem packageServes_mem : (s.packageServes k giB).mem = s.mem := (State.setBit_mem ..).trans (setPackage_mem ..)

theorem packageServes_pkgGiB : (s.packageServes k giB).pkgGiB.get 0 k = giB :=
  (congrArg (SMap.get · 0 k) ((setFld_pkgGiB ..).trans (setPackage_pkgGiB ..))).trans (SMap.get_put_self ..)

theorem packageServes_chanState {j : Nat} (hj : j < 8) : (s.packageServes k giB).fld (Reg.LD_CH_STATE (8 * k + j)) 0 2 = 2 := by
  unfold State.packageServes
  rw [State.fld_setBit_other _ _ _ _ _ (by unfold Reg.LD_CH_STATE Reg.HF_LD_STATE; omega), fld_low _ _ (n := 5) (by decide), setPackage_chanState hj]
  rfl

theorem packageServes_shown (hk : k < 12) : (s.packageServes k giB).bit Reg.HF_LD_STATE k = true :=
  State.bit_setBit_self _ _ _ (by omega)

end Serves

/-- The next package's training leaves a package that is through S4 as it is. -/
theorem trainNext_keeps (hdone : s.pkgDone k = true) (hf : Nat) : (s.trainNext hf).mem = s.mem ∧ (s.trainNext hf).pkgGiB = s.pkgGiB ∧
    (∀ j, j < 8 → (s.trainNext hf).fld (Reg.LD_CH_STATE (8 * k + j)) 0 2 = s.fld (Reg.LD_CH_STATE (8 * k + j)) 0 2) ∧
    (s.trainNext hf).bit Reg.HF_LD_STATE k = s.bit Reg.HF_LD_STATE k := by
  obtain h | ⟨d, hd, h⟩ := trainNext_cases s hf
  · rw [h]
    exact ⟨rfl, rfl, fun _ _ => rfl, rfl⟩
  · have hne : d ≠ k := fun hdk => absurd (hdk ▸ hdone) (ne_true_of_eq_false hd)
    rw [h]
    refine ⟨setPackage_mem .., setPackage_pkgGiB .., fun j hj => setPackage_fld_other (fun i hi => chanState_ne (by omega)) .., ?_⟩
    rw [State.bit_eq, State.bit_eq, setPackage_fld_other]
    intro i _
    unfold Reg.HF_LD_STATE Reg.LD_CH_STATE
    omega

end Training

/-! ### The obligation, part by part -/

section Commands

variable (s : State) (c : Nat)

theorem exec_ldRefresh_outside (b : Nat) (h : 96 ≤ c ∨ 16 ≤ b) : exec (.ldRefresh c b) s = .next s := congrArg Host.Outcome.next (ldRefresh_outside h)

theorem exec_ldRefresh_free (b : Nat) (hc : c < 96) (hb : b < 16) (h : s.tagFree (hfOfChannel c) none = true) : exec (.ldRefresh c b) s =
    .next ((s.takeTag { hf := hfOfChannel c, slot := none, age := s.tick, user := .refresh, addr := b }).freeUser .refresh) :=
  congrArg Host.Outcome.next (ldRefresh_free hc hb h)

theorem exec_ldCalibration_restores (h : s.chanUp c = true) (waited forced : Bool) :
    exec (.ldCalibration c waited forced true) s = .next (s.windowCounted c waited forced) :=
  congrArg Host.Outcome.next (ldCalibration_up h waited forced true)

/-- A channel that fails, or whose calibration window cannot restore timing, is fenced. -/
theorem exec_fences (h : s.chanUp c = true) (hunused : s.extUnused) {cmd : Instr}
    (hcmd : cmd = .ldChFail c ∨ ∃ w f, cmd = .ldCalibration c w f false) :
    ∃ t, exec cmd s = .next t ∧ t.fld (Reg.LD_CH_STATE c) 0 5 = 31 ∧ t.mem = s.mem ∧ t.pkgExcluded.get false (c / 8) = true := by
  obtain rfl | ⟨w, f, rfl⟩ := hcmd
  · exact ⟨_, rfl, ldChFail_fences h hunused⟩
  · obtain ⟨hstate, hmem, hexcluded⟩ := ldChFail_fences (windowCounted_chanUp w f h) (windowCounted_extUnused w f (chanUp_iff.mp h).1 hunused)
    exact ⟨_, congrArg Host.Outcome.next (ldCalibration_up h w f false), hstate, hmem.trans (windowCounted_mem w f), hexcluded⟩

theorem exec_down (h : s.chanUp c = false) {cmd : Instr}
    (hcmd : cmd = .ldChFail c ∨ cmd = .ldRfm c ∨ (∃ w f r, cmd = .ldCalibration c w f r) ∨ ∃ u, cmd = .ldScrubRead c u) : exec cmd s = .next s := by
  obtain rfl | rfl | ⟨w, f, r, rfl⟩ | ⟨u, rfl⟩ := hcmd
  · exact congrArg Host.Outcome.next (ldChFail_down h)
  · exact congrArg Host.Outcome.next (ldRfm_down h)
  · exact congrArg Host.Outcome.next (ldCalibration_down h w f r)
  · exact congrArg Host.Outcome.next (ldScrub_down h u.forced u.errors)

theorem exec_ldScrubRead_clean (forced : Bool) (hup : s.chanUp c = true) (hon : s.bit Reg.HF_LD_SCRUB 16 = true) (hpairs : s.pairErrs = [])
    (hareas : s.areas = []) (hcache : s.checkCache = []) : ∃ t, exec (.ldScrubRead c ⟨forced, []⟩) s = .next t ∧ t.mem = s.mem ∧ t.ecc = s.ecc ∧
      t.pairErrs = [] ∧ t.areas = [] ∧ t.fld (Reg.LD_SCRUB_POS c) 0 22 =
        if s.fld (Reg.LD_SCRUB_POS c) 0 22 + 1 < s.chanBlocks then (s.fld (Reg.LD_SCRUB_POS c) 0 22 + 1) % 2 ^ 22 else 0 := by
  have hscrub := ldScrub_clean hup hon hpairs hareas hcache forced rfl
  generalize s.fld (Reg.LD_SCRUB_POS c) 0 22 = block at *
  obtain ⟨hmem, hecc, hpairs', hareas'⟩ := blockWalked_keeps ((s.blockClean c block).count (Reg.LD_SCRUB_COUNT c) 0 16 (b2n forced)) c block
  exact ⟨_, congrArg Host.Outcome.next hscrub, hmem, hecc, hpairs'.trans hpairs, hareas'.trans hareas, blockWalked_pos ..⟩

theorem exec_ldPackageTrain_serves {k giB : Nat} (hk : k < 12) (hstage : s.fld Reg.PC_BOOT 0 3 = 4) (hnew : s.fld (Reg.LD_CH_STATE (8 * k)) 0 2 < 2)
    (hkept : s.pkgExcluded.get false k = false) (hlower : ∀ i, i < k → i / 6 = k / 6 → 2 ≤ s.fld (Reg.LD_CH_STATE (8 * i)) 0 2)
    (hfit : s.capacityOk giB = true) : ∃ t, exec (.ldPackageTrain k giB []) s = .next t ∧ t.mem = s.mem ∧ t.pkgGiB.get 0 k = giB ∧
      (∀ j, j < 8 → t.chanUp (8 * k + j) = true) ∧ t.bit Reg.HF_LD_STATE k = true := by
  have hserves := packageTrain_serves hk hstage (decide_eq_false (Nat.not_le.mpr hnew)) (fun i hi hhf => decide_eq_true (hlower i hi hhf)) hfit hkept
  have hdone : (s.packageServes k giB).pkgDone k = true := decide_eq_true (packageServes_chanState (j := 0) (by decide)).ge
  obtain ⟨hmem, hcapacity, hstate, hshown⟩ := trainNext_keeps hdone (k / 6)
  refine ⟨_, congrArg Host.Outcome.next hserves, hmem.trans packageServes_mem, ?_, fun j hj => ?_, hshown.trans (packageServes_shown hk)⟩
  · rw [hcapacity, packageServes_pkgGiB]
  · exact chanUp_iff.mpr ⟨by omega, (hstate j hj).trans (packageServes_chanState hj)⟩

end Commands

/-- Settles O40: each clause by the lemma about its command. That a refresh frees its tag within its step (log entry 34), that errors come with the
command that meets them, that an access takes its tag within its step or waits and that a failed channel's package leaves at the next S4 (65), and that
a command on a channel out of service leaves the state as it is (45) are the model's choices. -/
theorem levelChannels : Obligations.LevelChannels := by
  refine ⟨fun s slot a c addr hmap htag => ⟨fun size errors areaErrors hone hroom hfree => ?read, fun data hone => ?write⟩,
    fun s c => ⟨exec_ldRefresh_outside s c, exec_ldRefresh_free s c, fun h => ?up, fun h cmd => exec_down s c h⟩,
    fun s c forced => exec_ldScrubRead_clean s c forced, fun s k giB => exec_ldPackageTrain_serves s⟩
  case read => exact congrArg Host.Outcome.next ((ldRead_asks hmap hone rfl hroom).trans (tagAccess_free hfree))
  case write => exact congrArg Host.Outcome.next ((ldWrite_asks hmap hone).trans (tagAccess_free htag))
  case up => exact ⟨congrArg Host.Outcome.next (ldRfm_up h), exec_ldCalibration_restores s c h, fun hunused cmd => exec_fences s c h hunused⟩

end Sys2Proof.Machine
end

section
/-! PROOFS. Accesses through the deep windows, and the grant of transaction tags (R246 to R249, R367). -/

namespace Sys2Proof.Machine

/-! ### Accesses (R246) -/

section DeepAccess

variable {s : State} {slot : Option Nat} {a size w : Nat}

theorem asksHost (hsize : 0 < size) (hhost : hostBase ≤ a) : (decide (size = 0) || decide (a < hostBase)) = false := by
  rw [decide_eq_false hsize.ne', decide_eq_false (Nat.not_lt.mpr hhost)]
  rfl

variable (hasks : (decide (size = 0) || decide (a < hostBase)) = false)
include hasks

theorem deepAccess_write {bs : List Byte} (hlen : size ≤ bs.length) :
    s.deepAccess slot a size (some bs) = s.tagAccess (s.accessReq 0 slot a size (some bs) false) :=
  (if_neg (ne_true_of_eq_false hasks)).trans (if_neg (Nat.not_lt.mpr hlen))

theorem deepAccess_unmapped (hwin : s.deepWin a size = none) :
    s.deepAccess slot a size none = (s.unmapped a false).emit (.readData (List.replicate size 0#8) true) := by
  unfold State.deepAccess
  rw [if_neg (ne_true_of_eq_false hasks), hwin]

/-- A read through the window of a function that does not master the bus (R367). -/
theorem deepAccess_unmastered (hwin : s.deepWin a size = some w) (hmaster : s.busMaster.get false (s.winFn w) = false) :
    s.deepAccess slot a size none = s.emit (.readData (List.replicate size 0#8) true) := by
  unfold State.deepAccess
  rw [if_neg (ne_true_of_eq_false hasks), hwin]
  exact if_pos (by rw [hmaster]; rfl)

theorem deepAccess_read (hwin : s.deepWin a size = some w) (hmaster : s.busMaster.get false (s.winFn w) = true) : s.deepAccess slot a size none =
    (cutSpan 256 (size / 256 + 2) (s.busAddr w a) size).foldl (fun s p => s.startDeep w slot p.1 p.2) s := by
  unfold State.deepAccess
  rw [if_neg (ne_true_of_eq_false hasks), hwin]
  exact if_neg (by rw [hmaster]; decide)

end DeepAccess

/-! ### The end of a read (R247, R367) -/

section DeepDone

variable {s : State} {id : Nat}

theorem deepDone_unsent (h : s.deepReads.find? (fun d => d.id = id && d.tagged) = none) (data : Option (List Byte)) : s.deepDone id data = s := by
  unfold State.deepDone
  rw [h]

variable {r : DeepRead} (h : s.deepReads.find? (fun d => d.id = id && d.tagged) = some r)
include h

theorem deepDone_fails :
    s.deepDone id none = ((s.endDeep r).deepTimeout r.window).emit (.readData (List.replicate r.size 0#8) true) := by
  unfold State.deepDone
  rw [h]

theorem deepDone_delivers {bs : List Byte} (hlen : bs.length = r.size) : s.deepDone id (some bs) = (s.endDeep r).emit (.readData bs false) := by
  unfold State.deepDone
  rw [h]
  exact if_pos hlen

end DeepDone

/-! ### Tag grants (R249) -/

section Grants

variable {s : State} {hf : Nat} {w : TagWait}

/-- The state after a waiting request has left the list and been served; what it asks for anew waits behind the others. -/
def State.waitServed (s : State) (w : TagWait) : State :=
  let v := State.granted { s with tagWait := [] } w
  { v with tagWait := s.tagWait.erase w ++ v.tagWait }

theorem tagGrant_idle (h : s.nextWait hf = none) : s.tagGrant hf = s := by
  unfold State.tagGrant
  rw [h]

theorem tagGrant_serves (h : s.nextWait hf = some w) (huser : ∀ id, w.user ≠ .conn id) : s.tagGrant hf = s.waitServed w := by
  unfold State.tagGrant
  rw [h]
  dsimp only
  split
  · next id hconn => exact absurd hconn (huser id)
  · rfl

/-- A connection that is served asks again for its further packets. -/
theorem tagGrant_pumps (h : s.nextWait hf = some w) {id : Nat} (huser : w.user = .conn id) : s.tagGrant hf = (s.waitServed w).pumpAll id := by
  unfold State.tagGrant
  rw [h]
  dsimp only
  rw [huser]
  rfl

end Grants

/-- Settles O41: each clause by the lemma about its command. The order in which waiting requests are served (log entry 65) and that a timeout or a
grant with nothing to act on leaves the state as it is (45) are the model's choices. -/
theorem deepAccessesAndTags : Obligations.DeepAccessesAndTags := by
  refine ⟨fun s slot a size hsize hhost => ?accesses, fun s id => ⟨fun h => ?unsent, fun r h => ?ends⟩, fun s hf => ⟨fun h => ?idle, fun w h huser => ?serves,
    fun w id h huser => ?pumps⟩⟩
  case accesses =>
    have hasks := asksHost hsize hhost
    refine ⟨fun bs hlen => ⟨fun hfree => ?_, fun hfull => ?_⟩, fun hwin => congrArg Host.Outcome.next (deepAccess_unmapped hasks hwin),
      fun w hwin => ⟨fun hoff => congrArg Host.Outcome.next (deepAccess_unmastered hasks hwin hoff),
        fun hon => congrArg Host.Outcome.next (deepAccess_read hasks hwin hon)⟩⟩
    · exact congrArg Host.Outcome.next ((deepAccess_write hasks hlen).trans (tagAccess_free hfree))
    · exact congrArg Host.Outcome.next ((deepAccess_write hasks hlen).trans (tagAccess_waits hfull))
  case unsent => exact congrArg Host.Outcome.next (deepDone_unsent h none)
  case ends =>
    exact ⟨congrArg Host.Outcome.next (deepDone_fails h), congrArg Host.Outcome.next (deepDone_fails h),
      fun bs hlen => congrArg Host.Outcome.next (deepDone_delivers h hlen)⟩
  case idle => exact congrArg Host.Outcome.next (tagGrant_idle h)
  case serves => exact congrArg Host.Outcome.next (tagGrant_serves h huser)
  case pumps => exact congrArg Host.Outcome.next (tagGrant_pumps h huser)

end Sys2Proof.Machine
end

section
/-! PROOFS. One step: the command at the front of the queue, or with none waiting one microsecond of time. -/

namespace Sys2Proof.Machine

/-- Settles O1: the queue's front is the command that a step runs. -/
theorem stepRunsFrontCommand : Obligations.StepRunsFrontCommand := fun _ _ _ => rfl

/-! ### One microsecond (R23) -/

section Idle

variable {s : State}

/-- The state after the counters of both headframes have advanced. -/
def State.microsecond (s : State) : State :=
  { s with out := [], usecN := s.usecN + 1#64, usecS := s.usecS + BitVec.ofNat 64 s.southStep, free := s.free + 1 }

/-- What happens to the registers on a full second (R23, R417): SECONDS_ON counts, REMAINING_S follows. -/
def State.secondsCounted (s : State) : State :=
  let v := s.count (Reg.SC_PWR_HIST 6) 0 32 1
  match s.sec.levelUntil with
  | some t => v.setFld Reg.SC_DEBUG 3 16 ((999999 + (t - s.usecN.toNat)) / 1000000)
  | none => v

theorem idle_held (h : s.power.s1 = false ∨ s.power.rails = false) : s.idle = { s with out := [] } := by
  unfold State.idle
  exact if_pos (by simpa using h)

theorem idle_runs (h1 : s.power.s1 = true) (hr : s.power.rails = true) :
    s.idle = if (s.usecN + 1#64).toNat % 1000000 ≠ 0 then s.microsecond else s.microsecond.secondsCounted := by
  unfold State.idle
  exact if_neg (by simp [h1, hr])

/-- Counting the seconds touches registers alone. -/
theorem secondsCounted_frame {γ : Type} (g : State → γ) (hg : ∀ t a v, g (State.wr t a v) = g t) : g s.secondsCounted = g s := by
  unfold State.secondsCounted
  dsimp only
  split
  · exact (hg _ _ _).trans (hg _ _ _)
  · exact hg _ _ _

theorem idle_frame {γ : Type} (g : State → γ) (hg : ∀ t a v, g (State.wr t a v) = g t) (h1 : s.power.s1 = true) (hr : s.power.rails = true) :
    g s.idle = g s.microsecond := by
  rw [idle_runs h1 hr]
  split
  · rfl
  · exact secondsCounted_frame g hg

theorem southStep_le : s.southStep ≤ 2 := by
  unfold State.southStep
  split <;> omega

theorem southStep_eq_one (h : (s.usecN.toNat + 1) % 10000 ≠ 0) : s.southStep = 1 := if_neg h

end Idle

/-- Settles O2: both counters advance and only what a full second counts reaches a register. That one idle step is one microsecond, and how the two
oscillators differ, are the model's choices (log entry 1). -/
theorem idleStepPassesTime : Obligations.IdleStepPassesTime := by
  intro s hq
  have hstep : step s = .next s.idle := by
    unfold step
    rw [hq]
  refine ⟨fun h1 hr => ⟨s.idle, s.southStep, hstep, ?north, ?south, southStep_le, southStep_eq_one, ?out, ?mem, ?ecc, ?tasks, fun hsec => ?regs⟩,
    fun h => hstep.trans (congrArg Host.Outcome.next (idle_held h))⟩
  case north => exact idle_frame State.usecN (fun _ _ _ => rfl) h1 hr
  case south => exact idle_frame State.usecS (fun _ _ _ => rfl) h1 hr
  case out => exact idle_frame State.out (fun _ _ _ => rfl) h1 hr
  case mem => exact idle_frame State.mem (fun _ _ _ => rfl) h1 hr
  case ecc => exact idle_frame State.ecc (fun _ _ _ => rfl) h1 hr
  case tasks => exact idle_frame State.tasks (fun _ _ _ => rfl) h1 hr
  case regs =>
    rw [idle_runs h1 hr, if_pos hsec]
    rfl

end Sys2Proof.Machine
end

section
/-! PROOFS. The memory manager: descriptors through EM_TSEL, publishes, freed versions, and the haulage epoch of frozen tables. -/

namespace Sys2Proof.Machine

/-- A component's write of a register that it may write is firmware's (R392). -/
theorem byWriter_component_may {s : State} {c a : Nat} {v : Word} (hrun : s.fw.stopped.contains c = false)
    (hmay : s.componentMay c (regHome a) v = true) (f : Writer → State) : s.byWriter (.component c) a v f = f .firmware := by
  simp only [State.byWriter, hrun, hmay, Bool.false_eq_true, if_false, if_true]

/-- A stopped component writes nothing (R394). -/
theorem byWriter_component_stopped {s : State} {c : Nat} (h : s.fw.stopped.contains c = true) (a : Nat) (v : Word) (f : Writer → State) :
    s.byWriter (.component c) a v f = s := by
  simp only [State.byWriter, h, if_true]

/-! ### EM_TSEL (R250) -/

section Descriptors

variable (s : State) (v : Word)

theorem tsel_ne_data (w : Nat) : Reg.EM_TSEL ≠ Reg.EM_TDATA w := by
  simp only [Reg.EM_TSEL, Reg.EM_TDATA]
  omega

theorem tselLoad_eq : s.tselLoad v = (List.range 32).foldl (fun t w => t.wr (Reg.EM_TDATA w)
    (BitVec.ofNat 32 ((s.setFld Reg.EM_TSEL 0 12 (bitsOf v.toNat 0 12)).tblShown (bitsOf v.toNat 0 12) w)))
    (s.setFld Reg.EM_TSEL 0 12 (bitsOf v.toNat 0 12)) := rfl

theorem rd_tselLoad_data {w : Nat} (hw : w < 32) : (s.tselLoad v).rd (Reg.EM_TDATA w) =
    BitVec.ofNat 32 ((s.setFld Reg.EM_TSEL 0 12 (bitsOf v.toNat 0 12)).tblShown (bitsOf v.toNat 0 12) w) := by
  rw [tselLoad_eq]
  refine rd_foldl_wr_mem (at_ := Reg.EM_TDATA) _ (List.range 32) ?_ (List.mem_range.mpr hw) _
  refine List.Nodup.map (fun a b hab => ?_) List.nodup_range
  simp only [Reg.EM_TDATA] at hab
  omega

theorem rd_tselLoad_other {r : Nat} (hr : ∀ w, w < 32 → r ≠ Reg.EM_TDATA w) :
    (s.tselLoad v).rd r = (s.setFld Reg.EM_TSEL 0 12 (bitsOf v.toNat 0 12)).rd r := by
  rw [tselLoad_eq]
  exact rd_foldl_wr_other (at_ := Reg.EM_TDATA) _ _ (fun w hw => hr w (List.mem_range.mp hw)) _

theorem tselLoad_frame {γ : Type} (g : State → γ) (hg : ∀ s a v, g (State.wr s a v) = g s) : g (s.tselLoad v) = g s := by
  rw [tselLoad_eq]
  exact (foldl_frame g (fun _ _ => hg ..) _ _).trans (hg ..)

theorem tselLoad_selects : (s.tselLoad v).fld Reg.EM_TSEL 0 12 = bitsOf v.toNat 0 12 := by
  have hsel : (s.tselLoad v).fld Reg.EM_TSEL 0 12 = (s.setFld Reg.EM_TSEL 0 12 (bitsOf v.toNat 0 12)).fld Reg.EM_TSEL 0 12 :=
    congrArg (fun w : Word => bitsOf w.toNat 0 12) (rd_tselLoad_other s v fun w _ => tsel_ne_data w)
  rw [hsel, State.fld_setFld_self s _ _ (by decide)]
  exact Nat.mod_eq_of_lt (Nat.mod_lt _ (by decide))

/-! ### Descriptor words -/

theorem setTbl_frame {γ : Type} (g : State → γ) (hg : ∀ (s : State) (l : SMap Word), g { s with tables := l } = g s) (n w x : Nat) :
    g (s.setTbl n w x) = g s := hg s _

theorem tbl_setTbl_self (n w x : Nat) : (s.setTbl n w x).tbl n w = x % 2 ^ 32 := by
  have hget : (s.tables.put (tblReset w) (n * 32 + w) (BitVec.ofNat 32 x)).get (tblReset w) (n * 32 + w) = BitVec.ofNat 32 x := SMap.get_put_self ..
  exact (congrArg BitVec.toNat hget).trans (BitVec.toNat_ofNat ..)

theorem tbl_setTbl_other (n x : Nat) {w j : Nat} (h : j ≠ w) : (s.setTbl n w x).tbl n j = s.tbl n j :=
  congrArg BitVec.toNat (SMap.get_put_other _ _ _ _ (by omega))

/-- The word that STORE writes: EM_TDATA's bits under the mask, the old ones elsewhere. -/
def maskedWord (mask old new : Nat) : Nat := (new &&& mask) + (old - (old &&& mask))

theorem and_maskedWord (mask old new : Word) : maskedWord mask.toNat old.toNat new.toNat % 2 ^ 32 &&& mask.toNat = new.toNat &&& mask.toNat := by
  have hold : (old &&& ~~~mask) + (old &&& mask) = old := by
    rw [BitVec.add_eq_or_of_and_eq_zero _ _ (by ext i; simp; tauto)]
    ext i
    cases h : mask[i] <;> simp [h]
  have hword : (new &&& mask) + (old - (old &&& mask)) = (new &&& mask) ||| (old &&& ~~~mask) := by
    rw [← BitVec.eq_sub_iff_add_eq.mpr hold, BitVec.add_eq_or_of_and_eq_zero _ _ (by ext i; simp; tauto)]
  have hmask : ((new &&& mask) + (old - (old &&& mask))) &&& mask = new &&& mask := by
    rw [hword]
    ext i
    cases h : mask[i] <;> simp [h]
  have hle : old.toNat &&& mask.toNat ≤ old.toNat := Nat.and_le_left
  have hnat : maskedWord mask.toNat old.toNat new.toNat % 2 ^ 32 = ((new &&& mask) + (old - (old &&& mask))).toNat := by
    unfold maskedWord
    have hlt := old.isLt
    simp only [BitVec.toNat_add, BitVec.toNat_sub, BitVec.toNat_and]
    omega
  rw [hnat, ← BitVec.toNat_and, hmask, BitVec.toNat_and]

/-- Words of a descriptor each rewritten from what it held: each takes its new word, and the others stay. -/
theorem tbl_foldl_setTbl (n : Nat) (f : Nat → Nat → Nat) {l : List Nat} (hl : l.Nodup) (j : Nat) :
    (l.foldl (fun t w => t.setTbl n w (f w (t.tbl n w))) s).tbl n j = if j ∈ l then f j (s.tbl n j) % 2 ^ 32 else s.tbl n j := by
  induction l generalizing s with
  | nil => rfl
  | cons w l ih =>
    obtain ⟨hw, hl⟩ := List.nodup_cons.mp hl
    refine (ih _ hl).trans ?_
    by_cases h : j = w
    · subst h
      rw [if_neg hw, if_pos List.mem_cons_self, tbl_setTbl_self]
    · rw [tbl_setTbl_other s n _ h]
      simp only [List.mem_cons, h, false_or]

/-! ### STORE (R250) -/

theorem tselStore_selects {w : Writer} (h : w ≠ .firmware) : s.tselStore w v = s.setFld Reg.EM_TSEL 0 12 (bitsOf v.toNat 0 12) := if_pos h

section Store

variable {s v}

theorem tselStore_refused (h : (s.setFld Reg.EM_TSEL 0 12 (bitsOf v.toNat 0 12)).storeRefused (bitsOf v.toNat 0 12) = true) :
    s.tselStore .firmware v = (s.setFld Reg.EM_TSEL 0 12 (bitsOf v.toNat 0 12)).setBit Reg.EM_TSEL 14 true := by
  unfold State.tselStore
  exact (if_neg (by decide)).trans (if_pos h)

/-- The state in which an accepted store writes: the table selected, REFUSED clear. -/
def State.storing (s : State) (v : Word) : State := (s.setFld Reg.EM_TSEL 0 12 (bitsOf v.toNat 0 12)).setBit Reg.EM_TSEL 14 false

theorem tselStore_stores (h : (s.setFld Reg.EM_TSEL 0 12 (bitsOf v.toNat 0 12)).storeRefused (bitsOf v.toNat 0 12) = false) :
    s.tselStore .firmware v = (List.range 32).foldl (fun t w => t.setTbl (bitsOf v.toNat 0 12) w
      (maskedWord (tblMask w) (t.tbl (bitsOf v.toNat 0 12) w) ((s.storing v).rd (Reg.EM_TDATA w)).toNat)) (s.storing v) := by
  unfold State.tselStore
  exact (if_neg (by decide)).trans (if_neg (Bool.eq_false_iff.mp h))

theorem rd_storing_data (w : Nat) : (s.storing v).rd (Reg.EM_TDATA w) = s.rd (Reg.EM_TDATA w) :=
  (State.rd_setFld_other _ _ _ _ (tsel_ne_data w).symm).trans (State.rd_setFld_other _ _ _ _ (tsel_ne_data w).symm)

theorem storing_accepts : (s.storing v).bit Reg.EM_TSEL 14 = false := by
  unfold State.storing
  exact State.bit_setBit_self _ _ _ (by decide)

theorem storing_mem : (s.storing v).mem = s.mem := (State.setBit_mem ..).trans (State.setFld_mem ..)

theorem tblMask_lt {i : Nat} (h : i < 32) : tblMask i < 2 ^ 32 := by
  have hall : ∀ i : Fin 32, tblMask i.val < 2 ^ 32 := by decide
  exact hall ⟨i, h⟩

theorem tselStore_frame (h : (s.setFld Reg.EM_TSEL 0 12 (bitsOf v.toNat 0 12)).storeRefused (bitsOf v.toNat 0 12) = false) {γ : Type} (g : State → γ)
    (hg : ∀ (s : State) (l : SMap Word), g { s with tables := l } = g s) : g (s.tselStore .firmware v) = g (s.storing v) := by
  rw [tselStore_stores h]
  exact foldl_frame g (fun t w => setTbl_frame t g hg ..) (List.range 32) (s.storing v)

/-- An accepted store clears REFUSED, leaves memory and writes the bits of the descriptor that a store writes. -/
theorem tselStore_shows (h : (s.setFld Reg.EM_TSEL 0 12 (bitsOf v.toNat 0 12)).storeRefused (bitsOf v.toNat 0 12) = false) :
    (s.tselStore .firmware v).bit Reg.EM_TSEL 14 = false ∧ (s.tselStore .firmware v).mem = s.mem ∧
      ∀ i, i < 32 → (s.tselStore .firmware v).tbl (bitsOf v.toNat 0 12) i &&& tblMask i = (s.rd (Reg.EM_TDATA i)).toNat &&& tblMask i := by
  refine ⟨?_, (tselStore_frame h State.mem fun _ _ => rfl).trans storing_mem, fun i hi => ?_⟩
  · rw [tselStore_frame h (·.bit Reg.EM_TSEL 14) fun _ _ => rfl, storing_accepts]
  · rw [tselStore_stores h, tbl_foldl_setTbl _ _ (fun w old => maskedWord (tblMask w) old ((s.storing v).rd (Reg.EM_TDATA w)).toNat) List.nodup_range,
      if_pos (List.mem_range.mpr hi), rd_storing_data]
    have hmask : tblMask i = (BitVec.ofNat 32 (tblMask i)).toNat := (Nat.mod_eq_of_lt (tblMask_lt hi)).symm.trans (BitVec.toNat_ofNat ..).symm
    have hand := and_maskedWord (BitVec.ofNat 32 (tblMask i)) ((s.storing v).tables.get (tblReset i) (bitsOf v.toNat 0 12 * 32 + i)) (s.rd (Reg.EM_TDATA i))
    rwa [← hmask] at hand

end Store

end Descriptors

/-! ### EM_PUBLISH (R273) -/

section Publish

variable {s : State} {v : Word}

theorem publishWrite_selects {w : Writer} (h : w ≠ .firmware) : s.publishWrite w v = s.setFld Reg.EM_PUBLISH 0 12 (bitsOf v.toNat 0 12) := if_pos h

theorem publishWrite_firmware : s.publishWrite .firmware v = ((s.setFld Reg.EM_PUBLISH 0 12 (bitsOf v.toNat 0 12)).publishGo (bitsOf v.toNat 0 12)).1 := by
  unfold State.publishWrite
  exact if_neg (by decide)

theorem publishGo_publishes {n : Nat} (h : s.publishResult n = 0) : (s.publishGo n).1 = (s.setFld Reg.EM_PUBLISH 13 3 (s.publishResult n)).publish n :=
  congrArg Prod.fst (if_pos h)

theorem publishGo_records {n : Nat} (h : 2 ≤ s.publishResult n) : (s.publishGo n).1 = s.setFld Reg.EM_PUBLISH 13 3 (s.publishResult n) :=
  congrArg Prod.fst ((if_neg (by omega)).trans (if_neg (by omega)))

end Publish

/-! ### Freed versions (R274) -/

section Freed

variable {s : State} {n v : Nat}

theorem versionFreed_none (h : (n, v) ∉ s.freeQ) : s.versionFreed n v = s := if_neg (by simp [h])

theorem versionFreed_frees (h : (n, v) ∈ s.freeQ) (hw : s.writerOf n = none) : s.versionFreed n v = s.freeVersion n v := if_pos (by simp [h, hw])

/-- Whether a tally key is a row of a version. -/
def ofVersion (n v k : Nat) : Bool := keyTable k = n && keyVsn k = v

/-- A freed version's rows out of the tally, and the version off the list of those to be freed. -/
def State.versionDropped (s : State) (n v : Nat) : State :=
  { s with
    tally := s.tally.filter (fun e => match e.2 with | some t => !ofVersion n v t.key | none => true)
    freeQ := s.freeQ.filter (fun e => e ≠ (n, v)) }

theorem freeVersion_eq (s : State) (n v : Nat) : s.freeVersion n v =
    let t := ((s.versionDropped n v).stale (ofVersion n v)).setTbl n (18 + 10 * v) 0
    (t.setTbl n (13 + 10 * v) (setBits (t.tbl n (13 + 10 * v)) 24 1 0)).raise .EM_VERSION_FREED .info (srcHf 0) [n, v] := rfl

theorem freeVersion_frame {γ : Type} (g : State → γ) (hg : ∀ (s : State) (l : SMap Word) (m : List Staged), g { s with tables := l, staged := m } = g s)
    (hr : ∀ s c k a d, g (State.raise s c k a d) = g s) : g (s.freeVersion n v) = g (s.versionDropped n v) := by
  rw [freeVersion_eq]
  refine (hr ..).trans ?_
  exact (hg _ _ _).trans ((hg _ _ _).trans (hg (s.versionDropped n v) _ _))

theorem freeVersion_freeQ : (n, v) ∉ (s.freeVersion n v).freeQ := by
  rw [freeVersion_frame State.freeQ (fun _ _ _ => rfl) (fun _ _ _ _ _ => rfl)]
  simp [State.versionDropped]

theorem freeVersion_mem : (s.freeVersion n v).mem = s.mem := freeVersion_frame State.mem (fun _ _ _ => rfl) (fun _ _ _ _ _ => rfl)

theorem freeVersion_tally {p : Nat × Option TallyE} (hp : p ∈ (s.freeVersion n v).tally) {e : TallyE} (he : p.2 = some e) :
    ¬ (keyTable e.key = n ∧ keyVsn e.key = v) := by
  rw [freeVersion_frame State.tally (fun _ _ _ => rfl) (fun _ _ _ _ _ => rfl)] at hp
  have hkept := (List.mem_filter.mp hp).2
  rw [he] at hkept
  rintro ⟨htable, hvsn⟩
  simp [ofVersion, htable, hvsn] at hkept

theorem tbl_raise (t : State) (code : Code) (cls : EvClass) (source : Nat) (data : List Nat) (m w : Nat) :
    (t.raise code cls source data).tbl m w = t.tbl m w := rfl

theorem freeVersion_liveSlot : (s.freeVersion n v).liveSlot n v = false := by
  have hword : 12 + 10 * v + 1 = 13 + 10 * v := by omega
  unfold State.liveSlot State.vword
  rw [freeVersion_eq, hword]
  generalize (State.stale _ _).setTbl n (18 + 10 * v) 0 = t
  have hclear : (t.setTbl n (13 + 10 * v) (setBits (t.tbl n (13 + 10 * v)) 24 1 0)).tbl n (13 + 10 * v) = setBits (t.tbl n (13 + 10 * v)) 24 1 0 := by
    rw [tbl_setTbl_self]
    exact Nat.mod_eq_of_lt (setBits_lt _ (BitVec.isLt _) (by decide))
  have hbit : bitOf (setBits (t.tbl n (13 + 10 * v)) 24 1 0) 24 = false := by
    rw [bitOf_eq, bitsOf_setBits_self]
    rfl
  rw [tbl_raise, hclear, hbit]

end Freed

/-! ### The haulage epoch of frozen tables (R276) -/

theorem haulFrozen_idle {s : State} (hfrozen : s.frozenTables = []) (hserve : ∀ j, j < 64 → s.classOf j ≠ 0) (host : List Host.Cell)
    (loads : List (Nat × Nat × Nat × Nat)) : s.haulFrozen host loads = s := by
  have hnone : (List.range 64).filter (fun j => s.classOf j = 0) = [] :=
    List.filter_eq_nil_iff.mpr fun j hj => by simpa using hserve j (List.mem_range.mp hj)
  unfold State.haulFrozen
  rw [hnone, List.foldl_nil]
  dsimp only
  rw [hfrozen]
  rfl

/-- Settles O38: each clause by the lemma about its command. That a component's write outside its registers stops it (log entry 39) and on which limits a
store is refused (log entry 59) are the model's choices. -/
theorem memoryManager : Obligations.MemoryManager := by
  refine ⟨fun s v => ?commands, fun s n v => ⟨fun h => congrArg Host.Outcome.next (versionFreed_none h), fun h hw _ => ?freed⟩,
    fun s host loads hfrozen hserve => congrArg Host.Outcome.next (haulFrozen_idle hfrozen hserve host loads)⟩
  case freed =>
    exact ⟨_, congrArg Host.Outcome.next (versionFreed_frees h hw), freeVersion_freeQ, freeVersion_mem, freeVersion_liveSlot,
      fun p hp e he => freeVersion_tally hp he⟩
  case commands =>
    intro n
    have hpublish : ∀ t, (s.setFld Reg.EM_PUBLISH 0 12 n).publishGo n = t → exec (.emPublishGo .firmware v) s = .next t.1 :=
      fun t ht => congrArg Host.Outcome.next (publishWrite_firmware.trans (congrArg Prod.fst ht))
    refine ⟨⟨_, rfl, tselLoad_frame s v State.mem State.wr_mem, tselLoad_selects s v, fun w hw => rd_tselLoad_data s v hw,
        fun r hsel hdata => (rd_tselLoad_other s v hdata).trans (State.rd_setFld_other s 0 12 n hsel)⟩,
      fun w hw hno => ⟨?store, ?go⟩,
      fun c hrun => ⟨fun hmay => congrArg Host.Outcome.next (byWriter_component_may (a := Reg.EM_TSEL) hrun hmay _),
        fun hmay => congrArg Host.Outcome.next (byWriter_stops_component (a := Reg.EM_TSEL) hrun hmay _)⟩,
      fun c hstopped => congrArg Host.Outcome.next (byWriter_component_stopped hstopped ..),
      ⟨fun h => congrArg Host.Outcome.next (tselStore_refused h), fun h => ⟨_, rfl, tselStore_shows h⟩⟩,
      fun h => (hpublish _ rfl).trans (congrArg Host.Outcome.next (publishGo_publishes h)),
      fun h => (hpublish _ rfl).trans (congrArg Host.Outcome.next (publishGo_records h))⟩
    case store => exact congrArg Host.Outcome.next ((byWriter_of_no_component s hno _ v _).trans (tselStore_selects s v hw))
    case go => exact congrArg Host.Outcome.next ((byWriter_of_no_component s hno _ v _).trans (publishWrite_selects hw))

end Sys2Proof.Machine
end

section
/-! PROOFS. The hoists: rows that return, the coalescing area and its flush, and the ends of gathers and scatters. -/

namespace Sys2Proof.Machine

/-! ### ROW_RETURN (R263, R264) -/

section Rows

variable {s : State} {h j row : Nat} {c : HCmd} {r : HRow} (host : List Host.Cell)

theorem rowReturn_fetches (hc : (s.hoist h)[j]? = some c) (hr : c.rows[row]? = some r) (hheld : c.held = false) (hwait : r.ready = false) (htier : r.tier ≠ 3)
    (hready : s.spanReady (s.rowAgent r.key r.addr) false r.addr (gatherBytes r.width (s.dimOf c.table)) = true) :
    let f := s.fetchRow h c.table r host
    s.rowReturn h j row host =
      (f.1.setHCmd h { c with rows := c.rows.set row { r.widen (s.dimOf c.table) f.2.1 with poisoned := f.2.2 } }).feedHoist h := by
  unfold State.rowReturn
  simp only [hc, hr, hheld, hwait, htier, hready, Bool.or_false, Bool.not_true, Bool.false_eq_true, if_false]

theorem rowReturn_arrived (hc : (s.hoist h)[j]? = some c) (hr : c.rows[row]? = some r) (hheld : c.held = false) (hwait : r.ready = false) (htier : r.tier = 3)
    (harrived : r.arrived = true) (hversion : r.versionBad = false) (hclean : r.poisoned = false) :
    s.rowReturn h j row host = (s.setHCmd h { c with rows := c.rows.set row (r.widen (s.dimOf c.table) r.bytes) }).feedHoist h := by
  unfold State.rowReturn
  simp only [hc, hr, hheld, hwait, htier, harrived, hversion, hclean, Bool.or_false, Bool.not_true, Bool.false_eq_true, if_false, if_true]

end Rows

/-! ### HGATH_COMPLETE (R265) -/

/-- A choice by a fault's code where there is none. -/
theorem match_code_none {α : Type} {o : Option Code} (h : o = none) (f : Code → α) (x : α) : (match (generalizing := false) o with | some code => f code | none => x) = x := by
  subst h
  rfl

section Gather

variable {s : State} {h j : Nat} {c : HCmd}

theorem hgathComplete_rowOut {row : Nat} {r : HRow} (hc : (s.hoist h)[j]? = some c) (hr : c.rows[row]? = some r) (hwait : r.ready = false)
    (hfault : c.fault = none) : s.hgathComplete h j = s := by
  have hout : c.rows.any (fun r => !r.ready) = true := List.any_eq_true.mpr ⟨r, List.mem_of_getElem? hr, by rw [hwait]; rfl⟩
  unfold State.hgathComplete
  rw [hc]
  exact if_pos (by rw [hfault, hout]; simp)

/-- The bags of a gather's output. -/
def HCmd.bags (c : HCmd) : List Bag := (List.range c.rowsView.ext1).map (c.bag c.rowsView.ext0)

/-- The state in which a gather writes its output: it has left its hoist, and its flags are noted. -/
def State.gathered (s : State) (h : Nat) (c : HCmd) : State :=
  (((s.dropHCmd h c).feedHoist h).flagTask c.info.key ((c.rows.filter (fun r => !r.poisoned)).foldl (fun a r => a ||| r.flags) 0#8) c.rowsView.tid).flagTask
    c.info.key (c.bags.foldl (fun a b => a ||| joinFlags b.vals) 0#8) c.rowsView.tid

/-- A gather without winners, every row back, writes its output and ends. -/
theorem hgathComplete_writes (hc : (s.hoist h)[j]? = some c) (hgather : c.gather = true) (hheld : c.held = false) (hfault : c.fault = none)
    (hstarted : c.entries.length ≤ c.started) (hback : ∀ r ∈ c.rows, r.ready = true) (hwin : c.winners = false)
    (hready : s.spansReady (jobAgent c.slot) true c.rowsView.spans = true) {y : State} {fl : Flags}
    (hw : (s.gathered h c).writeView c.motif c.slot c.rowsView c.flush (c.bags.flatMap (fun b => b.vals.map (·.1))) = (y, fl, none)) :
    s.hgathComplete h j = ((y.flagTask c.info.key fl c.rowsView.tid).endCmd c.info (c.err || c.bags.any (·.poisoned))).settleAborts := by
  have hnone : c.rows.any (fun r => !r.ready) = false := List.any_eq_false.mpr fun r hr => by simp [hback r hr]
  have hlist : decide (c.started < c.entries.length) = false := decide_eq_false (by omega)
  have hspans : c.rowsView.spans ++ (if c.winners then [(c.rowsView.aux, c.winBytes)] else []) = c.rowsView.spans := by rw [hwin]; exact List.append_nil _
  unfold State.hgathComplete
  rw [hc]
  dsimp only
  rw [if_neg (by rw [hgather, hheld, hnone, hlist]; simp), hspans, if_neg (by rw [hready]; simp)]
  refine (match_code_none hfault _ _).trans ?_
  rw [if_neg (by rw [hwin]; decide)]
  generalize hr : State.writeView _ _ _ _ _ _ = r
  have hwrites : r = (y, fl, none) := hr.symm.trans hw
  rcases r with ⟨y', fl', _ | code⟩
  · cases hwrites
    rfl
  · cases hwrites

end Gather

/-! ### The coalescing area (R269) -/

section Scatter

variable {s : State} {h j : Nat} {c : HCmd}

theorem storeRecord_stores {slot : Nat} {r : CoalRec} (hroom : s.coalUsed slot < (s.rd (Reg.EM_JOB_COAL_RECORDS slot)).toNat) :
    let v := s.writeDev .outside (s.coalBase slot + s.coalUsed slot * s.coalStride slot) r.bytes
    s.storeRecord slot r = ((v.wr (Reg.EM_JOB_COAL_USED slot) (BitVec.ofNat 32 (s.coalUsed slot + 1))).count
      (Reg.HS_COAL_STORED (v.homeOf r.table r.row)) 0 32 1, true) := by
  unfold State.storeRecord
  exact if_neg (by omega)

theorem storeRecord_full {slot : Nat} {r : CoalRec} (hfull : (s.rd (Reg.EM_JOB_COAL_RECORDS slot)).toNat ≤ s.coalUsed slot) :
    s.storeRecord slot r = (s, false) := by
  unfold State.storeRecord
  exact if_pos hfull

/-- The record that a scatter's partial becomes. -/
def State.partialRecord (s : State) (c : HCmd) (p : Partial) : CoalRec :=
  { row := p.row, table := c.table, tag := p.tag, src := s.ownIndex c.slot, vals := p.vals }

theorem coalStore_scatter {p : Partial} {rest : List Partial} (hc : (s.hoist h)[j]? = some c) (hscatter : c.gather = false) (hp : c.parts = p :: rest) :
    s.coalStore h j = if (s.storeRecord c.slot (s.partialRecord c p)).2 then (s.storeRecord c.slot (s.partialRecord c p)).1.setHCmd h { c with parts := rest }
      else ((s.dropHCmd h c).deferFault .HOIST_COAL c.info 0 0).settleAborts := by
  unfold State.coalStore
  simp only [hc, hp, hscatter, Bool.false_eq_true, if_false]
  rfl

theorem hscatComplete_ends (hc : (s.hoist h)[j]? = some c) (hscatter : c.gather = false) (hparts : c.parts = []) (hfault : c.fault = none) :
    s.hscatComplete h j = ((s.dropHCmd h c).endCmd c.info c.err).settleAborts := by
  unfold State.hscatComplete
  simp only [hc, hscatter, hparts, hfault, ne_eq, not_true, decide_false, Bool.or_false, Bool.false_eq_true, if_false]

end Scatter

/-! ### The flush (R270) -/

section Flush

variable {s : State} {slot : Nat}

theorem coalFlush_not (h : (s.job slot).drainOrder ≠ 2) : s.coalFlush slot = s := by
  unfold State.coalFlush
  simp only [h, ne_eq, not_false_iff, decide_true, Bool.true_or, if_true]

theorem coalFlush_alone (horder : (s.job slot).drainOrder = 2) (hflushed : (s.job slot).flushed = 0)
    (hidle : ∀ q ∈ s.hoists, ∀ c ∈ q.2, c.gather = true ∨ c.slot ≠ slot) (halone : (s.localSums slot).grouped slot = false) :
    s.coalFlush slot = ((s.localSums slot).finalSums slot).setJob slot { s.job slot with flushed := 2 } := by
  have hbusy : s.hoists.any (fun q => q.2.any (fun c => !c.gather && decide (c.slot = slot))) = false :=
    List.any_eq_false.mpr fun q hq => by
      rw [Bool.not_eq_true]
      exact List.any_eq_false.mpr fun c hc => by
        rcases hidle q hq c hc with h | h <;> simp [h]
  unfold State.coalFlush
  simp [hbusy, horder, hflushed, halone]

end Flush

/-- Settles O37: each clause by the lemma about its command. -/
theorem hoistRowsAndEnds : Obligations.HoistRowsAndEnds := by
  refine ⟨fun s h j row host c r hc hr hheld hwait => ?rows, fun s h j c hc hgather hheld hfault hstarted hback hwin hready => ?ends,
    fun s h j c hc hscatter => ?scatter, fun s slot => ?flush⟩
  case rows =>
    intro dim
    exact ⟨fun htier hready => congrArg Host.Outcome.next (rowReturn_fetches host hc hr hheld hwait htier hready),
      fun htier harrived hversion hclean => congrArg Host.Outcome.next (rowReturn_arrived host hc hr hheld hwait htier harrived hversion hclean),
      fun hfault => congrArg Host.Outcome.next (hgathComplete_rowOut hc hr hwait hfault)⟩
  case ends =>
    intro v bags w y fl hw
    exact congrArg Host.Outcome.next (hgathComplete_writes hc hgather hheld hfault hstarted hback hwin hready hw)
  case scatter =>
    refine ⟨fun p rest hp => ⟨fun hroom => ?_, fun hfull => ?_⟩,
      fun hparts hfault => congrArg Host.Outcome.next (hscatComplete_ends hc hscatter hparts hfault)⟩
    · refine congrArg Host.Outcome.next ((coalStore_scatter hc hscatter hp).trans ?_)
      rw [storeRecord_stores hroom]
      rfl
    · refine congrArg Host.Outcome.next ((coalStore_scatter hc hscatter hp).trans ?_)
      rw [storeRecord_full hfull]
      rfl
  case flush =>
    exact ⟨fun h => congrArg Host.Outcome.next (coalFlush_not h),
      fun horder hflushed hidle halone => congrArg Host.Outcome.next (coalFlush_alone horder hflushed hidle halone)⟩

end Sys2Proof.Machine
end

section
/-! PROOFS. The prospectors: step lists read ahead, rows staged, and returns served. -/

namespace Sys2Proof.Machine

/-! ### Step lists (R281, R282, R285) -/

section Lists

variable {s : State} {p d : Nat} (host : List Host.Cell)

/-- The slot next in turn, within the panel's look-ahead. -/
def State.nextInTurn (s : State) (p d : Nat) : Prop := p < 4 ∧ d ≤ s.lookahead p ∧ d = s.fld (Reg.PS_STATE p) 13 3 + 1

theorem nextInTurn_reads (h : s.nextInTurn p d) : ¬ (decide (4 ≤ p) || decide (s.lookahead p < d) || decide (d ≠ s.fld (Reg.PS_STATE p) 13 3 + 1)) = true := by
  obtain ⟨hp, hahead, hturn⟩ := h
  simp only [Bool.or_eq_true, decide_eq_true_eq]
  omega

/-- The ring's slot of a step read. -/
def State.ringSlot (s : State) (p d : Nat) (host : List Host.Cell) : State × List Byte × Bool :=
  s.readDev (.owner 3 p) (s.stepList p (s.stepOf (s.prospectSlot p) + d)) 1024 host

theorem slotRead_late (h : s.nextInTurn p d) (hlate : listReady (s.ringSlot p d host).2.1 (s.stepOf (s.prospectSlot p) + d) = false) :
    s.slotRead p d host = (s.ringSlot p d host).1.setStatus (Reg.PS_STATUS p) 0 .EM_LIST_LATE .info (srcPanel p)
      [s.prospectSlot p, s.stepOf (s.prospectSlot p) + d] := by
  unfold State.slotRead
  refine (if_neg (nextInTurn_reads h)).trans (if_pos ?_)
  exact (congrArg Bool.not hlate : _ = !false)

/-- The lists of a slot read ahead considered for staging, and the slot counted. -/
def State.listStaged (s : State) (p d : Nat) (host : List Host.Cell) : State :=
  let slot := s.prospectSlot p
  let step := s.stepOf slot + d
  let soon := (s.ringSlot p d host).1.filterKeys p (step - d) d host
  let rows := soon.1.rowsOfStep p step host
  let v := (rows.2.eraseDups).foldl (fun s e => s.stageEntry p slot step soon.2 e) rows.1
  (v.setFld (Reg.PS_STATE p) 13 3 d).showStaged p

theorem slotRead_stages (h : s.nextInTurn p d) (hlist : listReady (s.ringSlot p d host).2.1 (s.stepOf (s.prospectSlot p) + d) = true)
    (hready : s.spansReady (.owner 3 p) false ((List.range (d + 1)).flatMap (fun i => s.listSpans p (s.stepOf (s.prospectSlot p) + d - d + i))) = true) :
    s.slotRead p d host = s.listStaged p d host := by
  unfold State.slotRead
  refine (if_neg (nextInTurn_reads h)).trans ((if_neg ?_).trans (if_neg ?_))
  · exact ne_of_eq_of_ne (congrArg Bool.not hlist : _ = !true) (by decide)
  · exact ne_of_eq_of_ne (congrArg Bool.not hready : _ = !true) (by decide)

end Lists

/-! ### Staging (R284) -/

section Staging

variable {s : State} {p i : Nat} {e : Staged} (host : List Host.Cell)

theorem stageRow_copies (he : (s.staged.filter (fun e => e.panel = p))[i]? = some e) (hwait : e.landed = false) :
    let n := keyTable e.key
    let at_ := s.locate n (keyVsn e.key) (keyRow e.key)
    let size := slotBytes at_.2 (s.dimOf n) (s.stateKind n)
    let ag := s.rowAgent e.key at_.1
    s.spanReady ag false at_.1 size = true → s.spanReady (.owner 3 p) true e.addr size = true →
    let r := s.readDev ag at_.1 size host
    let v := r.1.writeDev (.owner 3 p) e.addr r.2.1
    s.stageRow p i host = State.showStaged
      { v with staged := v.staged.map (fun x => if x = e then { x with landed := true, stale := x.stale || r.2.2 } else x) } p := by
  intro n at_ size ag hread hwrite r v
  unfold State.stageRow
  rw [he]
  refine (if_neg (by rw [hwait]; decide)).trans (if_neg ?_)
  rw [show s.spanReady _ false _ _ = true from hread, show s.spanReady _ true _ _ = true from hwrite]
  decide

end Staging

/-! ### Returns (R295, R296) -/

section Returns

variable {s : State} {p index : Nat} (host : List Host.Cell)

/-- A panel's progress through the return records of its step: a step that has changed begins anew once nothing is in progress. -/
def State.returnsNow (s : State) (p : Nat) : ReturnSt :=
  if (s.returns.get {} p).step = s.stepOf (s.prospectSlot p) || (s.returns.get {} p).active ≠ [] then s.returns.get {} p
  else { step := s.stepOf (s.prospectSlot p) }

theorem prospectReturn_reached (hp : p < 4) (hahead : s.lookahead p ≠ 0) : ¬ (decide (4 ≤ p) || decide (s.lookahead p = 0)) = true := by
  simp only [Bool.or_eq_true, decide_eq_true_eq]
  omega

theorem prospectReturn_serves (hp : p < 4) (hahead : s.lookahead p ≠ 0) {a : ReturnAct} (ha : (s.returnsNow p).active[index]? = some a) :
    s.prospectReturn p index host = s.serveReturn p (s.returnsNow p) a host := by
  unfold State.prospectReturn
  refine (if_neg (prospectReturn_reached hp hahead)).trans ?_
  unfold State.returnsNow at ha ⊢
  dsimp only
  rw [ha]

theorem prospectReturn_next (hp : p < 4) (hahead : s.lookahead p ≠ 0) (hnone : (s.returnsNow p).active[index]? = none)
    (hstep : (s.returnsNow p).step = s.stepOf (s.prospectSlot p)) (hroom : (s.returnsNow p).active.length < max 1 (min 4 (s.fld (Reg.PS_RET p) 0 3))) :
    s.prospectReturn p index host = match (s.returnRecords p).2[(s.returnsNow p).served]? with
      | none => (s.returnRecords p).1
      | some e => (s.returnRecords p).1.takeReturn p (s.returnsNow p) e := by
  unfold State.prospectReturn
  refine (if_neg (prospectReturn_reached hp hahead)).trans ?_
  unfold State.returnsNow at hnone hstep hroom ⊢
  dsimp only
  rw [hnone]
  refine if_neg fun h => ?_
  rcases (Bool.or_eq_true _ _).mp h with h | h
  · exact of_decide_eq_true h hstep
  · exact absurd (of_decide_eq_true h) (Nat.not_le.mpr hroom)

end Returns

/-- Settles O39: each clause by the lemma about its command. That returns in progress finish before the new step's begin (log entry 85) is the model's
choice. -/
theorem prospectors : Obligations.Prospectors := by
  refine ⟨fun s p d host hp hahead hturn => ?lists, fun s p i host e he hwait => ?staging, fun s p index host hp hahead => ?returns⟩
  case lists =>
    intro slot step r
    have h : s.nextInTurn p d := ⟨hp, hahead, hturn⟩
    exact ⟨fun hlate => congrArg Host.Outcome.next (slotRead_late host h hlate),
      fun hlist hready => congrArg Host.Outcome.next (slotRead_stages host h hlist hready),
      fun hlate => congrArg Host.Outcome.next (if_pos hlate), fun hnot => congrArg Host.Outcome.next (if_neg (by rw [hnot]; decide))⟩
  case staging =>
    intro n at_ size ag hread hwrite
    exact congrArg Host.Outcome.next (stageRow_copies host he hwait hread hwrite)
  case returns =>
    intro step t r
    refine ⟨fun a ha => congrArg Host.Outcome.next (prospectReturn_serves host hp hahead ha), fun hnone hstep hroom => ?_⟩
    have hnext := prospectReturn_next host hp hahead hnone hstep hroom
    refine ⟨fun hlast => congrArg Host.Outcome.next ?_, fun e he => congrArg Host.Outcome.next ?_⟩
    · rw [hnext, show (s.returnRecords p).2[(s.returnsNow p).served]? = none from hlast]
    · rw [hnext, show (s.returnRecords p).2[(s.returnsNow p).served]? = some e from he]
      rfl

end Sys2Proof.Machine
end

section
/-! PROOFS. The fabric ports: frames received, priority flow control, frames sent, and the pause watchdog. -/

namespace Sys2Proof.Machine

theorem port_setPort_self (s : State) (p : Nat) (v : PortSt) : (s.setPort p v).port p = v := SMap.get_put_self ..

/-! ### FRAME_RECEIVE (R350) -/

section Receive

variable {s : State} {p : Nat} {f : FabFrame}

theorem frameReceive_unserved (h : s.inService p = false) (f : FabFrame) : s.frameReceive p f = s := if_pos (by rw [h]; rfl)

theorem frameArrive_unserved (h : s.inService p = false) (f : FabFrame) : s.frameArrive p f = s := by
  unfold State.frameArrive
  rw [if_neg (by rw [h]; exact Bool.false_ne_true)]
  exact frameReceive_unserved h f

/-- Outside DOZE no frame wakes the module. -/
theorem frameArrive_awake (h : s.powerState ≠ 2) : s.frameArrive p f = s.frameReceive p f := by
  unfold State.frameArrive
  rw [dozeWake_not (.inl h), ite_self]

/-- A frame's length lies within the port's limits. -/
def State.lengthOk (s : State) (p : Nat) (f : FabFrame) : Prop := 64 ≤ f.octets ∧ f.octets ≤ s.fld (Reg.FM_FRAME p) 0 14

/-- A frame is for this port. -/
def State.addressed (s : State) (p : Nat) (f : FabFrame) : Prop := f.dst = s.portMac p ∨ f.dst = 2 ^ 48 - 1 ∨ f.solicited = true

section Served

variable (h : s.inService p = true)
include h

theorem frameReceive_badFcs (hfcs : f.fcsOk = false) : s.frameReceive p f = (s.fecCount p f).count (Reg.FM_RX_FCS_ERR p) 0 32 1 := by
  unfold State.frameReceive
  exact (if_neg (by rw [h]; decide)).trans (if_pos (by rw [hfcs]; rfl))

variable (hfcs : f.fcsOk = true)
include hfcs

theorem frameReceive_badLength (hlen : ¬ (s.fecCount p f).lengthOk p f) :
    s.frameReceive p f = (s.fecCount p f).count (Reg.FM_RX_LEN_ERR p) 0 32 1 := by
  have hbad : (decide (f.octets < 64) || decide ((s.fecCount p f).fld (Reg.FM_FRAME p) 0 14 < f.octets)) = true := by
    simp only [Bool.or_eq_true, decide_eq_true_eq]
    unfold State.lengthOk at hlen
    omega
  unfold State.frameReceive
  exact (if_neg (by rw [h]; decide)).trans ((if_neg (by rw [hfcs]; decide)).trans (if_pos hbad))

end Served

theorem lengthOk_passes {v : State} (hlen : v.lengthOk p f) : ¬ (decide (f.octets < 64) || decide (v.fld (Reg.FM_FRAME p) 0 14 < f.octets)) = true := by
  obtain ⟨hmin, hmax⟩ := hlen
  simp only [Bool.or_eq_true, decide_eq_true_eq]
  omega

theorem filters_iff {v : State} : (decide (f.dst ≠ v.portMac p) && decide (f.dst ≠ 2 ^ 48 - 1) && !f.solicited) = true ↔ ¬ v.addressed p f := by
  unfold State.addressed
  simp only [Bool.and_eq_true, decide_eq_true_eq, Bool.not_eq_true', not_or, Bool.not_eq_true, and_assoc]

/-- The octets and the frame counted. -/
def State.countFrame (s : State) (p : Nat) (f : FabFrame) : State :=
  (s.count64 (Reg.FM_RX_OCTETS_LO p) (Reg.FM_RX_OCTETS_HI p) f.octets).count64 (Reg.FM_RX_FRAMES_LO p) (Reg.FM_RX_FRAMES_HI p) 1

/-- A frame without error at a port in service. -/
structure GoodFrame (s : State) (p : Nat) (f : FabFrame) : Prop where
  served : s.inService p = true
  fcs : f.fcsOk = true
  length : (s.fecCount p f).lengthOk p f

/-- A good frame passes every check before its body is looked at. -/
theorem GoodFrame.passes (h : GoodFrame s p f) (x y z t : State) : (if !s.inService p then x else if !f.fcsOk then y
    else if f.octets < 64 || (s.fecCount p f).fld (Reg.FM_FRAME p) 0 14 < f.octets then z else t) = t := by
  rw [if_neg (by rw [h.served]; decide), if_neg (by rw [h.fcs]; decide), if_neg (lengthOk_passes h.length)]

section Good

variable (h : GoodFrame s p f)
include h

theorem frameReceive_pfc {en : Byte} {times : List Nat} (hbody : f.body = .pfc en times) : s.frameReceive p f = (s.fecCount p f).pfcReceive p en times := by
  unfold State.frameReceive
  refine (h.passes ..).trans ?_
  rw [hbody]

theorem frameReceive_pause (hbody : f.body = .pause) : s.frameReceive p f = (s.fecCount p f).count (Reg.FM_RX_GLOBAL_PAUSE p) 0 32 1 := by
  unfold State.frameReceive
  refine (h.passes ..).trans ?_
  rw [hbody]

theorem frameReceive_filtered (hpfc : ∀ en times, f.body ≠ .pfc en times) (hpause : f.body ≠ .pause) (hother : ¬ (s.fecCount p f).addressed p f) :
    s.frameReceive p f = (s.fecCount p f).count (Reg.FM_RX_FILTERED p) 0 32 1 := by
  unfold State.frameReceive
  refine (h.passes ..).trans ?_
  cases hbody : f.body with
  | pfc en times => exact absurd hbody (hpfc en times)
  | pause => exact absurd hbody hpause
  | gft toModule port csum k => exact if_pos (filters_iff.mpr hother)
  | other asks => exact if_pos (filters_iff.mpr hother)

variable (hmine : (s.fecCount p f).addressed p f)
include hmine

theorem frameReceive_other {asks : Bool} (hbody : f.body = .other asks) :
    s.frameReceive p f = ((s.fecCount p f).countFrame p f).exceptionFrame p asks := by
  unfold State.frameReceive
  refine (h.passes ..).trans ?_
  rw [hbody]
  exact if_neg (fun hf => filters_iff.mp hf hmine)

variable {port : Nat} {csum : Bool} {k : GftPacket} (hbody : f.body = .gft true port csum k)
include hbody

theorem frameReceive_otherPort (hport : port ≠ (s.fecCount p f).fld Reg.HF_GFT_CFG 0 16) :
    s.frameReceive p f = ((s.fecCount p f).countFrame p f).exceptionFrame p false := by
  unfold State.frameReceive
  refine (h.passes ..).trans ?_
  rw [hbody]
  exact (if_neg (fun hf => filters_iff.mp hf hmine)).trans (if_neg hport)

/-- A GFT frame for this port enters the buffer of its priority, where that has room, and goes to the GFT engine. -/
theorem frameReceive_gft (hport : port = (s.fecCount p f).fld Reg.HF_GFT_CFG 0 16) :
    s.frameReceive p f = if ((s.fecCount p f).bufferFrame p (framePrio f) f.octets).2 then
      ((((s.fecCount p f).bufferFrame p (framePrio f) f.octets).1).countFrame p f).gftEngine p csum k
    else ((s.fecCount p f).bufferFrame p (framePrio f) f.octets).1 := by
  unfold State.frameReceive
  refine (h.passes ..).trans ?_
  rw [hbody]
  exact (if_neg (fun hf => filters_iff.mp hf hmine)).trans (if_pos hport)

end Good

end Receive

/-! ### Flow control, frames sent and the watchdog (R351 to R356) -/

section Port

variable {s : State} {p q : Nat}

theorem setFld_port (s : State) (a lo n v p : Nat) : (s.setFld a lo n v).port p = s.port p := rfl

theorem rxDrain_held (h : s.hfHolds (p / 4) = true) : s.rxDrain p q = s := if_pos h

/-- The state after the oldest frame of a priority has left the buffer. -/
def State.rxDrained (s : State) (p q : Nat) : State := (s.setPort p { s.port p with rx := dropOldest q (s.port p).rx }).showFill p q

theorem rxDrained_port : (s.rxDrained p q).port p = { s.port p with rx := dropOldest q (s.port p).rx } := port_setPort_self ..

theorem rxDrain_keepsPause (h : s.hfHolds (p / 4) = false)
    (hstay : (s.port p).xoff.contains q = false ∨ (s.rxDrained p q).xonOctets p q ≤ (s.rxDrained p q).rxFill p q) : s.rxDrain p q = s.rxDrained p q := by
  unfold State.rxDrain
  refine (if_neg (by rw [h]; decide)).trans (if_neg ?_)
  change ¬ (((s.rxDrained p q).port p).xoff.contains q && decide ((s.rxDrained p q).rxFill p q < (s.rxDrained p q).xonOctets p q)) = true
  rw [rxDrained_port, Bool.and_eq_true, decide_eq_true_eq]
  rintro ⟨hoff, hlow⟩
  rcases hstay with hstay | hstay
  · exact Bool.false_ne_true (hstay.symm.trans hoff)
  · exact absurd hlow (Nat.not_lt.mpr hstay)

theorem rxDrain_endsPause (h : s.hfHolds (p / 4) = false) (hoff : (s.port p).xoff.contains q = true)
    (hlow : (s.rxDrained p q).rxFill p q < (s.rxDrained p q).xonOctets p q) (hbroken : (s.port p).rxBroken.contains q = false) :
    s.rxDrain p q = ((s.rxDrained p q).setPort p { (s.rxDrained p q).port p with xoff := (s.port p).xoff.erase q }).sendPfc p q 0 := by
  have hport := rxDrained_port (s := s) (p := p) (q := q)
  unfold State.rxDrain
  refine (if_neg (by rw [h]; decide)).trans ((if_pos ?_).trans ((if_neg ?_).trans ?_))
  · change (((s.rxDrained p q).port p).xoff.contains q && decide ((s.rxDrained p q).rxFill p q < (s.rxDrained p q).xonOctets p q)) = true
    rw [hport, Bool.and_eq_true, decide_eq_true_eq]
    exact ⟨hoff, hlow⟩
  · change ¬ ((s.rxDrained p q).port p).rxBroken.contains q = true
    rw [hport, hbroken]
    decide
  · change ((s.rxDrained p q).setPort p { (s.rxDrained p q).port p with xoff := ((s.rxDrained p q).port p).xoff.erase q }).sendPfc p q 0 = _
    rw [hport]

theorem frameTxDone_none (h : (s.port p).sending = none) : s.frameTxDone p = s := by
  unfold State.frameTxDone
  rw [h]

/-- The state after a frame has gone out of a port, counted. -/
def State.frameSent (s : State) (p : Nat) (f : TxFrame) : State :=
  (((s.setPort p { s.port p with sending := none }).emit (.frame p f)).count64 (Reg.FM_TX_OCTETS_LO p) (Reg.FM_TX_OCTETS_HI p) f.octets).count64
    (Reg.FM_TX_FRAMES_LO p) (Reg.FM_TX_FRAMES_HI p) 1

theorem frameTxDone_plain {f : TxFrame} (h : (s.port p).sending = some f) (hpfc : f.pfc = none) :
    s.frameTxDone p = ((s.frameSent p f).rspGone p f).kick p := by
  unfold State.frameTxDone
  rw [h]
  dsimp only
  rw [hpfc]
  rfl

theorem frameTxDone_pfc {f : TxFrame} (h : (s.port p).sending = some f) {q n : Nat} (hpfc : f.pfc = some (q, n)) :
    s.frameTxDone p = (((s.frameSent p f).count (Reg.FM_TX_PFC p q) 0 32 1).rspGone p f).kick p := by
  unfold State.frameTxDone
  rw [h]
  dsimp only
  rw [hpfc]
  rfl

/-- Whether the transmit watchdog has nothing to break: it is off, or the priority is not paused with a frame waiting, or is broken already. -/
def State.wdTxIdle (s : State) (p q : Nat) : Prop :=
  s.fld (Reg.FM_WD p) 0 16 = 0 ∨ s.lossless p q = false ∨ (s.port p).paused.get 0 q = 0 ∨ (s.port p).head q = none ∨ (s.port p).txBroken.contains q = true

theorem wdTxIdle_iff : (decide (s.fld (Reg.FM_WD p) 0 16 = 0) || !s.lossless p q || decide ((s.port p).paused.get 0 q = 0) ||
    decide ((s.port p).head q = none) || (s.port p).txBroken.contains q) = true ↔ s.wdTxIdle p q := by
  unfold State.wdTxIdle
  simp only [Bool.or_eq_true, decide_eq_true_eq, Bool.not_eq_true', or_assoc]

theorem wdTx_idle (h : s.wdTxIdle p q) : s.wdTx p q = s := if_pos (wdTxIdle_iff.mpr h)

/-- Without the DISCARD action no queued frame goes. -/
theorem wdTx_breaks (h : ¬ s.wdTxIdle p q) (hkeep : s.bit (Reg.FM_WD p) 28 = false) :
    s.wdTx p q = ((s.setPort p { s.port p with txBroken := (s.port p).txBroken ++ [q] }).pauseBroken p q true).kick p := by
  have hdrop : ∀ l : List TxFrame, l.filter (fun f => s.bit (Reg.FM_WD p) 28 && decide (f.prio = q)) = [] := fun l =>
    List.filter_eq_nil_iff.mpr fun f _ => by rw [hkeep]; exact Bool.false_ne_true
  have hkept : ∀ l : List TxFrame, l.filter (fun f => !([] : List TxFrame).contains f) = l := fun l => List.filter_eq_self.mpr fun _ _ => rfl
  unfold State.wdTx
  refine (if_neg (fun hf => h (wdTxIdle_iff.mp hf))).trans ?_
  dsimp only
  rw [hdrop, hkept]
  rfl

theorem wdRx_idle (h : s.fld (Reg.FM_WD p) 0 16 = 0 ∨ (s.port p).xoff.contains q = false ∨ (s.port p).rxBroken.contains q = true) : s.wdRx p q = s := by
  unfold State.wdRx
  refine if_pos ?_
  rw [Bool.or_eq_true, Bool.or_eq_true, decide_eq_true_eq, Bool.not_eq_true', or_assoc]
  exact h

theorem wdRx_breaks (hwd : s.fld (Reg.FM_WD p) 0 16 ≠ 0) (hoff : (s.port p).xoff.contains q = true) (hbroken : (s.port p).rxBroken.contains q = false) :
    s.wdRx p q = (s.setPort p { s.port p with rxBroken := (s.port p).rxBroken ++ [q] }).pauseBroken p q false := by
  unfold State.wdRx
  refine if_neg ?_
  rw [hoff, hbroken, decide_eq_false hwd]
  decide

end Port

/-- Settles O46: each clause by the lemma about its command. That a command whose occasion does not hold leaves the state as it is (log entry 45) is the
model's choice. -/
theorem portTraffic : Obligations.PortTraffic := by
  refine ⟨fun s p f => ⟨fun h => congrArg Host.Outcome.next (frameArrive_unserved h f), fun h hawake => ?receive⟩, fun s p q => ?port⟩
  case receive =>
    intro v counted lenOk mine accepted
    have hexec : ∀ {t}, s.frameReceive p f = t → exec (.frameReceive p f) s = .next t :=
      fun ht => congrArg Host.Outcome.next ((frameArrive_awake hawake).trans ht)
    refine ⟨fun hfcs => hexec (frameReceive_badFcs h hfcs), fun hfcs hlen => hexec (frameReceive_badLength h hfcs hlen), fun hfcs hlen => ?_⟩
    have hgood : GoodFrame s p f := ⟨h, hfcs, hlen⟩
    refine ⟨fun en times hbody => hexec (frameReceive_pfc hgood hbody), fun hbody => hexec (frameReceive_pause hgood hbody),
      fun hpfc hpause hother => hexec (frameReceive_filtered hgood hpfc hpause hother), fun asks hbody hmine => hexec (frameReceive_other hgood hmine hbody),
      fun port csum k hbody hmine => ⟨fun hport => hexec (frameReceive_otherPort hgood hmine hbody hport), fun hport => ⟨fun w hw => ?_, fun w hw => ?_⟩⟩⟩
    all_goals
      refine hexec ((frameReceive_gft hgood hmine hbody hport).trans ?_)
      rw [show (s.fecCount p f).bufferFrame p (framePrio f) f.octets = _ from hw]
      rfl
  case port =>
    intro st
    refine ⟨fun en times => ⟨fun h => congrArg Host.Outcome.next (if_pos h), fun h => congrArg Host.Outcome.next (if_neg (by rw [h]; decide))⟩,
      fun h => congrArg Host.Outcome.next (if_pos h), fun h => congrArg Host.Outcome.next (if_neg h),
      ⟨fun h => congrArg Host.Outcome.next (if_pos h), fun h => congrArg Host.Outcome.next (if_neg (Bool.eq_false_iff.mp h))⟩,
      fun h => congrArg Host.Outcome.next (rxDrain_held h),
      fun h => ⟨fun hstay => congrArg Host.Outcome.next (rxDrain_keepsPause h hstay),
        fun hoff hlow hbroken => congrArg Host.Outcome.next (rxDrain_endsPause h hoff hlow hbroken)⟩,
      fun h => congrArg Host.Outcome.next (frameTxDone_none h),
      fun f h => ⟨fun hpfc => congrArg Host.Outcome.next (frameTxDone_plain h hpfc),
        fun q' n hpfc => congrArg Host.Outcome.next (frameTxDone_pfc h hpfc)⟩,
      ⟨fun h => congrArg Host.Outcome.next (wdTx_idle h), fun h hkeep => congrArg Host.Outcome.next (wdTx_breaks h hkeep)⟩,
      fun h => congrArg Host.Outcome.next (wdRx_idle h), fun hwd hoff hbroken => congrArg Host.Outcome.next (wdRx_breaks hwd hoff hbroken), rfl, rfl⟩

end Sys2Proof.Machine
end

section
/-! PROOFS. Links and the settings of the fabric ports; OPEN, OPEN_OK, CLOSE and ACK; the fabric's timers. -/

namespace Sys2Proof.Machine

/-! ### Links (R347, R349) -/

section Link

variable {s : State} {p : Nat}

theorem linkDown_unserved (h : s.inService p = false) : s.linkDown p = s := if_pos (by rw [h]; rfl)

/-- The state after an idle port has left service, before its status bit is set. -/
def State.portOut (s : State) (p : Nat) : State :=
  (s.setFld (Reg.FM_LINK p) 0 5 0).setPort p { s.port p with urgent := [], queue := [], sending := none, paused := [], xoff := [] }

theorem linkDown_idle (h : s.inService p = true) (hq : (s.port p).queue = []) (hs : (s.port p).sending = none) :
    s.linkDown p = (s.portOut p).setStatus (Reg.FM_STATUS p) 0 .FM_LINK_DOWN .info (srcPort p) [p] := by
  unfold State.linkDown
  refine (if_neg (by rw [h]; decide)).trans ?_
  rw [hq, hs]
  rfl

theorem setStatus_port (s : State) (a i : Nat) (code : Code) (cls : EvClass) (source : Nat) (data : List Nat) (p : Nat) :
    (s.setStatus a i code cls source data).port p = s.port p := by
  unfold State.setStatus
  split <;> rfl

theorem portOut_port : (s.portOut p).port p = { s.port p with urgent := [], queue := [], sending := none, paused := [], xoff := [] } :=
  SMap.get_put_self ..

theorem linkDown_empties (h : s.inService p = true) (hq : (s.port p).queue = []) (hs : (s.port p).sending = none) :
    (s.linkDown p).fld (Reg.FM_LINK p) 0 5 = 0 ∧ ((s.linkDown p).port p).urgent = [] ∧ ((s.linkDown p).port p).queue = [] ∧
      ((s.linkDown p).port p).paused = [] ∧ (s.linkDown p).bit (Reg.FM_STATUS p) 0 = true ∧ (s.linkDown p).mem = s.mem := by
  have hother : Reg.FM_LINK p ≠ Reg.FM_STATUS p := by unfold Reg.FM_LINK Reg.FM_STATUS; omega
  have hlink : (s.portOut p).fld (Reg.FM_LINK p) 0 5 = 0 := State.fld_setFld_self (s := s) (Reg.FM_LINK p) 0 (by decide)
  rw [linkDown_idle h hq hs, setStatus_port, portOut_port]
  refine ⟨?_, rfl, rfl, rfl, bit_setStatus_self _ _ _ _ _ _ (by decide) (by decide), setStatus_mem ..⟩
  unfold State.fld at hlink ⊢
  rw [rd_setStatus_other _ _ _ _ _ _ (by decide) hother]
  exact hlink

theorem linkUp_other (h : 8 ≤ p ∨ s.inService p = true ∨ s.bit (Reg.FM_CTL p) 0 = false) : s.linkUp p = s :=
  if_pos (by simp only [Bool.or_eq_true, decide_eq_true_eq, Bool.not_eq_true', or_assoc]; exact h)

theorem laneCount_le (m : Nat) : laneCount m ≤ 4 := by
  unfold laneCount
  split <;> decide

theorem linkUp_shows (hp : p < 8) (hs : s.inService p = false) (hen : s.bit (Reg.FM_CTL p) 0 = true) :
    s.linkUp p = (s.setFld (Reg.FM_LINK p) 0 5 (1 + 2 * (2 ^ laneCount (s.fld (Reg.FM_CTL p) 1 2) - 1))).raise .FM_LINK_UP .info (srcPort p) [p] :=
  if_neg (by rw [hs, hen, decide_eq_false (by omega)]; decide)

/-- The lanes of a mode fit the register's field. -/
theorem lanes_lt (m : Nat) : 1 + 2 * (2 ^ laneCount m - 1) < 2 ^ 5 := by
  have hle : 2 ^ laneCount m ≤ 2 ^ 4 := Nat.pow_le_pow_right (by decide) (laneCount_le m)
  omega

theorem linkUp_lanes (hp : p < 8) (hs : s.inService p = false) (hen : s.bit (Reg.FM_CTL p) 0 = true) :
    (s.linkUp p).fld (Reg.FM_LINK p) 0 5 = 1 + 2 * (2 ^ laneCount (s.fld (Reg.FM_CTL p) 1 2) - 1) := by
  rw [linkUp_shows hp hs hen, State.fld_congr (raise_regs _ _ (by decide) _ _)]
  exact (State.fld_setFld_self _ _ _ (by decide)).trans (Nat.mod_eq_of_lt (lanes_lt _))

end Link

/-! ### Settings of a port (R348, R349) -/

section Settings

variable {s : State} {p : Nat}

/-- What a write of FM_CTL with a LOOPBACK stores while EN is clear. -/
def portCtlWord (loopback n : Nat) : Word := BitVec.ofNat 32 (bitsOf n 1 3 * 2 + loopback * 2 ^ 4 + bitsOf n 8 8 * 2 ^ 8)

/-- The LOOPBACK that a write of FM_CTL leaves: 3 is ignored. -/
def State.loopback (s : State) (p n : Nat) : Nat := if bitsOf n 4 2 = 3 then s.fld (Reg.FM_CTL p) 4 2 else bitsOf n 4 2

theorem loopback_lt (n : Nat) : s.loopback p n < 4 := by
  unfold State.loopback
  split
  · exact State.fld_lt ..
  · exact Nat.mod_lt _ (by decide)

section CtlWord

variable {lo : Nat} (hlo : lo < 4) (n : Nat)
include hlo

theorem portCtlWord_toNat : (portCtlWord lo n).toNat = bitsOf n 1 3 * 2 + lo * 2 ^ 4 + bitsOf n 8 8 * 2 ^ 8 := by
  have hmode : bitsOf n 1 3 < 2 ^ 3 := Nat.mod_lt _ (by decide)
  have hlossless : bitsOf n 8 8 < 2 ^ 8 := Nat.mod_lt _ (by decide)
  exact (BitVec.toNat_ofNat ..).trans (Nat.mod_eq_of_lt (by omega))

theorem portCtlWord_fields : bitOf (portCtlWord lo n).toNat 0 = false ∧ bitsOf (portCtlWord lo n).toNat 1 3 = bitsOf n 1 3 ∧
    bitsOf (portCtlWord lo n).toNat 4 2 = lo ∧ bitsOf (portCtlWord lo n).toNat 8 8 = bitsOf n 8 8 := by
  have hmode : bitsOf n 1 3 < 2 ^ 3 := Nat.mod_lt _ (by decide)
  have hlossless : bitsOf n 8 8 < 2 ^ 8 := Nat.mod_lt _ (by decide)
  rw [portCtlWord_toNat hlo, bitOf_eq_iff]
  generalize bitsOf n 1 3 = mode at *
  generalize bitsOf n 8 8 = lossless at *
  simp only [bitsOf_eq_div_mod, b2n]
  refine ⟨?_, ?_, ?_, ?_⟩ <;> norm_num <;> omega

end CtlWord

/-- FM_CTL's settings stored, with EN clear. -/
def State.portSettings (s : State) (p : Nat) (v : Word) : State := s.wr (Reg.FM_CTL p) (portCtlWord (s.loopback p v.toNat) v.toNat)

theorem portSettings_ctl (v : Word) : (s.portSettings p v).bit (Reg.FM_CTL p) 0 = false ∧ (s.portSettings p v).fld (Reg.FM_CTL p) 1 3 = bitsOf v.toNat 1 3 ∧
    (s.portSettings p v).fld (Reg.FM_CTL p) 4 2 = s.loopback p v.toNat ∧ (s.portSettings p v).fld (Reg.FM_CTL p) 8 8 = bitsOf v.toNat 8 8 := by
  unfold State.bit State.fld State.portSettings
  rw [State.rd_wr_self]
  exact portCtlWord_fields (loopback_lt _) _

theorem portSettings_limitSum (v : Word) : (s.portSettings p v).limitSum p = s.limitSum p := by
  unfold State.limitSum
  congr 2
  funext q
  have hother : Reg.FM_RXQ_A p q ≠ Reg.FM_CTL p := by unfold Reg.FM_RXQ_A Reg.FM_CTL; omega
  exact State.fld_wr_other _ _ _ _ hother

theorem portSettings_early (v : Word) : (s.portSettings p v).early = s.early := by
  unfold State.early
  have hother : Reg.PC_BOOT ≠ Reg.FM_CTL p := by unfold Reg.FM_CTL Reg.PC_BOOT; omega
  rw [State.portSettings, State.fld_wr_other _ _ _ _ hother]

/-- With EN clear a write stores the settings; with EN set in it the port is enabled if the shares fit. -/
theorem fmCtl_disabled (h : s.bit (Reg.FM_CTL p) 0 = false) (v : Word) : s.fmCtl p v =
    if !bitOf v.toNat 0 || ((s.portSettings p v).early && p % 4 ≠ 0) then s.portSettings p v
    else if 4096 < (s.portSettings p v).limitSum p then (s.portSettings p v).setBit (Reg.FM_STATUS p) 2 true
    else (s.portSettings p v).setBit (Reg.FM_CTL p) 0 true := by
  unfold State.fmCtl
  exact if_neg (by rw [h]; exact Bool.false_ne_true)

theorem fmCtl_refused (h : s.bit (Reg.FM_CTL p) 0 = true) {v : Word} (hen : bitOf v.toNat 0 = true) :
    s.fmCtl p v = s.setBit (Reg.FM_STATUS p) 2 true := by
  unfold State.fmCtl
  refine (if_pos h).trans ((if_pos hen).trans (if_pos ?_))
  rw [hen]
  rfl

theorem fmCtl_disables (h : s.bit (Reg.FM_CTL p) 0 = true) {v : Word} (hen : bitOf v.toNat 0 = false)
    (hsame : ((s.rd (Reg.FM_CTL p)).toNat ^^^ v.toNat) % 2 ^ 16 / 2 = 0) : s.fmCtl p v = (s.linkDown p).setBit (Reg.FM_CTL p) 0 false := by
  have hkeeps : ¬ (bitOf v.toNat 0 || decide (((s.rd (Reg.FM_CTL p)).toNat ^^^ v.toNat) % 2 ^ 16 / 2 ≠ 0)) = true := by
    rw [hen, decide_eq_false (not_not_intro hsame)]
    decide
  unfold State.fmCtl
  refine (if_pos h).trans ((if_neg (by rw [hen]; exact Bool.false_ne_true)).trans ?_)
  rw [if_neg hkeeps]

theorem fmWrite_ctl (hp : p < 8) (v : Word) : s.fmWrite p 0 v = s.fmCtl p v :=
  (if_neg (by omega)).trans (if_pos rfl)

theorem fmWrite_refused (hp : p < 8) (h : s.bit (Reg.FM_CTL p) 0 = true) {o : Nat} (ho : o = 4 ∨ 0x40 ≤ o ∧ o < 0x80 ∧ o % 4 = 0) (v : Word) :
    s.fmWrite p o v = s.setBit (Reg.FM_STATUS p) 2 true := by
  have hin : (o = 4 || (decide (0x40 ≤ o) && decide (o < 0x80) && decide (o % 4 = 0))) = true := by
    simp only [Bool.or_eq_true, Bool.and_eq_true, decide_eq_true_eq, and_assoc]
    exact ho
  exact (if_neg (by omega)).trans ((if_neg (by omega)).trans ((if_pos hin).trans (if_pos h)))

theorem fmWrite_buffer (hp : p < 8) (h : s.bit (Reg.FM_CTL p) 0 = false) (q : Fin 8) (v : Word) :
    s.fmWrite p (0x40 + 8 * q.val) v = s.wr (Reg.FM_CTL p + (0x40 + 8 * q.val)) (v &&& 0xFFFFFF#32) := by
  have hq := q.isLt
  have hin : (0x40 + 8 * q.val = 4 || (decide (0x40 ≤ 0x40 + 8 * q.val) && decide (0x40 + 8 * q.val < 0x80) && decide ((0x40 + 8 * q.val) % 4 = 0))) = true := by
    simp only [Bool.or_eq_true, Bool.and_eq_true, decide_eq_true_eq]
    omega
  exact (if_neg (by omega)).trans ((if_neg (by omega)).trans ((if_pos hin).trans
    ((if_neg (by rw [h]; exact Bool.false_ne_true)).trans ((if_neg (by omega)).trans (if_pos (by omega))))))

variable (h : s.bit (Reg.FM_CTL p) 0 = false)
include h

theorem fmCtl_stores {v : Word} (hen : bitOf v.toNat 0 = false) : s.fmCtl p v = s.portSettings p v := by
  rw [fmCtl_disabled h, hen]
  rfl

theorem fmCtl_enables {v : Word} (hen : bitOf v.toNat 0 = true) (hearly : s.early = false) (hfit : s.limitSum p ≤ 4096) :
    s.fmCtl p v = (s.portSettings p v).setBit (Reg.FM_CTL p) 0 true := by
  rw [fmCtl_disabled h, portSettings_early, portSettings_limitSum, if_neg (by rw [hen, hearly]; exact Bool.false_ne_true), if_neg (by omega)]

theorem fmCtl_unfit {v : Word} (hen : bitOf v.toNat 0 = true) (hearly : s.early = false) (hfit : 4096 < s.limitSum p) :
    s.fmCtl p v = (s.portSettings p v).setBit (Reg.FM_STATUS p) 2 true := by
  rw [fmCtl_disabled h, portSettings_early, portSettings_limitSum, if_neg (by rw [hen, hearly]; exact Bool.false_ne_true), if_pos hfit]

end Settings

/-! ### OPEN, OPEN_OK, CLOSE and ACK (R324, R326) -/

section Connections

variable {s v : State} {hf slot : Nat} {k : GftPacket}

theorem gftOpen_none (h : s.takeCtrl hf 1 = none) : s.gftOpen hf = s := by
  unfold State.gftOpen
  rw [h]

theorem gftOpenOk_none (h : s.takeCtrl hf 2 = none) : s.gftOpenOk hf = s := by
  unfold State.gftOpenOk
  rw [h]

theorem gftClose_none (h : s.takeCtrl hf 3 = none) : s.gftClose hf = s := by
  unfold State.gftClose
  rw [h]

theorem gftAck_none (h : s.takeRx hf (fun k => k.typ = tAck) = none) : s.gftAck hf = s := by
  unfold State.gftAck
  rw [h]

/-- A connection of a packet's sender that stood is dropped before the new one is entered. -/
def State.dropOld (s : State) (hf slot : Nat) (k : GftPacket) : State :=
  match s.conn hf k.handle slot k.src with
  | some c => s.dropConn c
  | none => s

/-- The connection that an OPEN enters. -/
def openedConn (s : State) (hf slot : Nat) (k : GftPacket) : Conn :=
  { id := s.tick, hf := hf, cls := k.handle, slot := slot, peer := k.src, ready := true, nextPsn := k.psn, rxNext := k.psn, used := s.tick }

theorem gftOpen_takes (h : s.takeCtrl hf 1 = some (k, slot, v)) : s.gftOpen hf =
    if !((v.dropOld hf slot k).connRoom hf).2 then ((v.dropOld hf slot k).connRoom hf).1
    else (((v.dropOld hf slot k).connRoom hf).1.addConn (openedConn ((v.dropOld hf slot k).connRoom hf).1 hf slot k)).sendOpenMsg hf slot k.src 2 k.handle k.psn := by
  unfold State.gftOpen
  rw [h]
  rfl

theorem gftOpen_full {r : State} (h : s.takeCtrl hf 1 = some (k, slot, v)) (hr : (v.dropOld hf slot k).connRoom hf = (r, false)) : s.gftOpen hf = r := by
  rw [gftOpen_takes h, hr]
  rfl

theorem gftOpen_enters {r : State} (h : s.takeCtrl hf 1 = some (k, slot, v)) (hr : (v.dropOld hf slot k).connRoom hf = (r, true)) :
    s.gftOpen hf = (r.addConn (openedConn r hf slot k)).sendOpenMsg hf slot k.src 2 k.handle k.psn := by
  rw [gftOpen_takes h, hr]
  rfl

theorem gftOpenOk_conn {c : Conn} (h : s.takeCtrl hf 2 = some (k, slot, v)) (hc : v.conn hf k.handle slot k.src = some c) :
    s.gftOpenOk hf = if c.ready then v else (v.setConn { c with ready := true, fails := 0 }).pumpAll c.id := by
  unfold State.gftOpenOk
  simp only [h, hc]

theorem gftClose_conn {c : Conn} (h : s.takeCtrl hf 3 = some (k, slot, v)) (hc : v.conn hf k.handle slot k.src = some c) : s.gftClose hf = v.dropConn c := by
  unfold State.gftClose
  simp only [h, hc]

theorem gftAck_conn {c : Conn} (h : s.takeRx hf (fun k => k.typ = tAck) = some (k, v)) (hslot : v.slotOfGroup k.group = some slot)
    (hc : v.conn hf k.handle slot k.src = some c) : s.gftAck hf = v.ackReceived c k.ackPsn (markedBy k.ackPsn k.payload) := by
  have hbind : ((v.slotOfGroup k.group).bind (fun slot => v.conn hf k.handle slot k.src)) = some c := by rw [hslot]; exact hc
  unfold State.gftAck
  simp only [h, hbind]

end Connections

/-! ### Timers (R326, R327, R341, R343, R345) -/

section Timers

variable {s : State} {id : Nat}

theorem retransmit_none (h : s.connById id = none) : s.retransmit id = s := by
  unfold State.retransmit
  rw [h]

theorem ackDelay_none (h : s.connById id = none) : s.ackDelay id = s := by
  unfold State.ackDelay
  rw [h]

theorem ackDelay_conn {c : Conn} (h : s.connById id = some c) : s.ackDelay id = if c.since = 0 then s else s.sendAck c := by
  unfold State.ackDelay
  rw [h]

/-- A connection has something outstanding: its OPEN, or packets. -/
def Conn.outstanding (c : Conn) : Prop := c.ready = false ∨ c.unacked ≠ []

theorem retransmit_idle {c : Conn} (h : s.connById id = some c) (hr : c.ready = true) (hu : c.unacked = []) : s.retransmit id = s := by
  unfold State.retransmit
  rw [h]
  exact if_pos (by rw [hr, hu]; rfl)

/-- The timeout counted. -/
def State.retxCounted (s : State) (hf : Nat) : State := s.count (Reg.HF_GFT_RETX hf) 16 16 1

/-- A connection that has failed once more. -/
def Conn.failed (c : Conn) : Conn := { c with fails := c.fails + 1 }

theorem retransmit_outstanding {c : Conn} (h : s.connById id = some c) (ho : c.outstanding) : s.retransmit id =
    if (s.retxCounted c.hf).retryMax ≤ c.failed.fails then ((s.retxCounted c.hf).setConn c.failed).peerLost c.slot c.peer 0xFFFFFFFF
    else if c.ready then ((s.retxCounted c.hf).setConn c.failed).resend c.failed (c.unacked.filter (fun k => !c.marked.contains k.psn))
    else ((s.retxCounted c.hf).setConn c.failed).sendOpenMsg c.hf c.slot c.peer 1 c.cls c.rxNext := by
  have hneg : ¬ (c.ready && decide (c.unacked = [])) = true := by
    rw [Bool.and_eq_true, decide_eq_true_eq]
    rintro ⟨hr, hu⟩
    exact ho.elim (fun hn => by simp [hr] at hn) (fun hn => hn hu)
  unfold State.retransmit
  rw [h]
  exact if_neg hneg

theorem requestRetry_found {r : RowReq} (h : s.rowReqs.find? (fun r => r.id = id) = some r) : s.requestRetry id =
    if !r.sent then s else if s.retryMax ≤ r.tries then s.poisonRows r
    else State.sendRowReq { s with rowReqs := s.rowReqs.map (fun q => if q.id = id then { q with tries := q.tries + 1 } else q) } r := by
  unfold State.requestRetry
  rw [h]

end Timers

/-- Settles O47: each command's cases one by one. That an FM_CTL write which clears EN disables the port and changes nothing else is log
entry 37; that HANDLE names the class and the first PSN of an OPEN is log entry 63: the model's choices. -/
theorem linksAndConnections : Obligations.LinksAndConnections := by
  unfold Obligations.LinksAndConnections
  refine ⟨fun s p => ?links, ⟨fun s hf => ?conns, fun s id => ?timers, fun s slot => ?waits⟩⟩
  case links =>
    refine ⟨fun h => congrArg Host.Outcome.next (linkDown_unserved h), fun h hq hs => ⟨_, rfl, linkDown_empties h hq hs⟩,
      fun h => congrArg Host.Outcome.next (linkUp_other h),
      fun hp hs hen => ⟨s.linkUp p, ⟨.FM_LINK_UP, .info, srcPort p, [p], s.usecN.toNat % 2 ^ 32⟩, rfl, linkUp_lanes hp hs hen, ?_, rfl, ?_⟩, fun hp hen => ⟨?_, ?_, ?_⟩, fun hp hdis => ⟨?_, fun v hen hearly => ⟨?_, ?_⟩, ?_⟩⟩
    · rw [linkUp_shows hp hs hen]
      exact raise_evq ..
    · rw [linkUp_shows hp hs hen]
      exact (State.raise_mem ..).trans (State.setFld_mem ..)
    · exact fun v hv => congrArg Host.Outcome.next ((fmWrite_ctl hp v).trans (fmCtl_refused hen hv))
    · exact fun v hv hsame => congrArg Host.Outcome.next ((fmWrite_ctl hp v).trans (fmCtl_disables hen hv hsame))
    · exact fun o v ho => congrArg Host.Outcome.next (fmWrite_refused hp hen ho v)
    · intro v hv
      obtain ⟨hbit, hmode, hloop, hlossless⟩ := portSettings_ctl (s := s) (p := p) v
      exact ⟨s.portSettings p v, congrArg Host.Outcome.next ((fmWrite_ctl hp v).trans (fmCtl_stores hdis hv)), hbit, hmode, hlossless, hloop, rfl⟩
    · intro hfit
      obtain ⟨-, -, -, hlossless⟩ := portSettings_ctl (s := s) (p := p) v
      exact ⟨_, congrArg Host.Outcome.next ((fmWrite_ctl hp v).trans (fmCtl_enables hdis hen hearly hfit)), State.bit_setBit_self _ _ _ (by decide),
        (State.fld_setBit_apart _ _ _ (by decide) (by decide)).trans hlossless, State.setBit_mem ..⟩
    · intro hfit
      have hother : Reg.FM_CTL p ≠ Reg.FM_STATUS p := by unfold Reg.FM_CTL Reg.FM_STATUS; omega
      exact ⟨_, congrArg Host.Outcome.next ((fmWrite_ctl hp v).trans (fmCtl_unfit hdis hen hearly hfit)),
        (State.bit_setBit_other _ _ _ _ hother).trans (portSettings_ctl v).1, State.bit_setBit_self _ _ _ (by decide), State.setBit_mem ..⟩
    · exact fun q v => congrArg Host.Outcome.next (fmWrite_buffer hp hdis q v)
  case conns =>
    refine ⟨fun h => congrArg Host.Outcome.next (gftOpen_none h), fun h => congrArg Host.Outcome.next (gftOpenOk_none h),
      fun h => congrArg Host.Outcome.next (gftClose_none h), fun h => congrArg Host.Outcome.next (gftAck_none h), fun k slot v h => ⟨?_, ?_⟩,
      fun k slot v c h hc => ⟨?_, ?_⟩, fun k slot v c h hc => congrArg Host.Outcome.next (gftClose_conn h hc),
      fun k slot v c h hslot hc => congrArg Host.Outcome.next (gftAck_conn h hslot hc)⟩
    · exact fun r hr => congrArg Host.Outcome.next (gftOpen_full h hr)
    · exact fun r hr => congrArg Host.Outcome.next (gftOpen_enters h hr)
    · exact fun hr => congrArg Host.Outcome.next ((gftOpenOk_conn h hc).trans (if_pos hr))
    · exact fun hr => congrArg Host.Outcome.next ((gftOpenOk_conn h hc).trans (if_neg (by rw [hr]; exact Bool.false_ne_true)))
  case timers =>
    refine ⟨fun h => ⟨congrArg Host.Outcome.next (retransmit_none h), congrArg Host.Outcome.next (ackDelay_none h)⟩,
      fun c h => ⟨fun h0 => congrArg Host.Outcome.next ((ackDelay_conn h).trans (if_pos h0)),
        fun h0 => congrArg Host.Outcome.next ((ackDelay_conn h).trans (if_neg h0)),
        fun hr hu => congrArg Host.Outcome.next (retransmit_idle h hr hu), fun ho => ⟨fun hmax => ?_, fun hmax hr => ?_, fun hmax hr => ?_⟩⟩,
      fun r h => ⟨fun hs => ?_, fun hs hmax => ?_, fun hs hmax => ?_⟩⟩
    · exact congrArg Host.Outcome.next ((retransmit_outstanding h ho).trans (if_pos hmax))
    · exact congrArg Host.Outcome.next ((retransmit_outstanding h ho).trans ((if_neg (Nat.not_le.mpr hmax)).trans (if_pos hr)))
    · exact congrArg Host.Outcome.next
        ((retransmit_outstanding h ho).trans ((if_neg (Nat.not_le.mpr hmax)).trans (if_neg (by rw [hr]; exact Bool.false_ne_true))))
    · exact congrArg Host.Outcome.next ((requestRetry_found h).trans (if_pos (by rw [hs]; rfl)))
    · exact congrArg Host.Outcome.next ((requestRetry_found h).trans ((if_neg (by rw [hs]; decide)).trans (if_pos hmax)))
    · exact congrArg Host.Outcome.next ((requestRetry_found h).trans ((if_neg (by rw [hs]; decide)).trans (if_neg (Nat.not_le.mpr hmax))))
  case waits =>
    exact ⟨fun h => congrArg Host.Outcome.next (if_neg (by rw [h]; exact Bool.false_ne_true)), fun h => congrArg Host.Outcome.next (if_pos h)⟩

end Sys2Proof.Machine
end

section
/-! PROOFS. Messages of the fabric: DATA, GRAD, BULK, rows asked and answered, the control messages of a group and its epochs. -/

namespace Sys2Proof.Machine

/-! ### With no packet of its kind waiting -/

section NoPacket

variable {s : State} {hf : Nat}

theorem gftData_none (h : s.takeRx hf (fun k => k.typ = tData) = none) : s.gftData hf = s := by
  unfold State.gftData
  rw [h]

theorem gftGrad_none (h : s.takeRx hf (fun k => k.typ = tGrad) = none) : s.gftGrad hf = s := by
  unfold State.gftGrad
  rw [h]

theorem gftBulk_none (h : s.takeRx hf (fun k => k.typ = tBulk) = none) : s.gftBulk hf = s := by
  unfold State.gftBulk
  rw [h]

theorem gftRowRsp_none (h : s.takeRx hf (fun k => k.typ = tRowRsp) = none) : s.gftRowRsp hf = s := by
  unfold State.gftRowRsp
  rw [h]

theorem gftRowReq_none (h : s.takeRx hf (fun k => k.typ = tRowReq) = none) (host : List Host.Cell) : s.gftRowReq hf host = s.releaseRows host := by
  unfold State.gftRowReq
  rw [h]

end NoPacket

/-! ### DATA, GRAD and BULK (R325, R331, R333, R336, R342) -/

section Window

variable {s v w : State} {hf slot : Nat} {k : GftPacket} (hslot : v.slotOfGroup k.group = some slot)
include hslot

section Data

variable (h : s.takeRx hf (fun k => k.typ = tData) = some (k, v))
include h

theorem gftData_partial (hm : v.windowMessage hf slot k false = (w, none)) : s.gftData hf = w := by
  unfold State.gftData
  simp only [h, hslot, hm]

theorem gftData_message {l : List Byte} (hm : v.windowMessage hf slot k false = (w, some l)) (hk : k.handle < 1024) (hc : w.collSlot k.handle = slot) :
    s.gftData hf = w.dataBlock k.handle k.msg k.src l := by
  unfold State.gftData
  simp only [h, hslot, hm]
  exact if_pos (by rw [decide_eq_true hk, decide_eq_true hc]; rfl)

end Data

section Grad

variable (h : s.takeRx hf (fun k => k.typ = tGrad) = some (k, v))
include h

theorem gftGrad_partial (hm : v.windowMessage hf slot k false = (w, none)) : s.gftGrad hf = w := by
  unfold State.gftGrad
  simp only [h, hslot, hm]

theorem gftGrad_message {l : List Byte} (hm : v.windowMessage hf slot k false = (w, some l)) : s.gftGrad hf =
    if (w.storeRecord slot { coalOf w.dimOf l with src := k.src }).2 then (w.storeRecord slot { coalOf w.dimOf l with src := k.src }).1
    else (w.storeRecord slot { coalOf w.dimOf l with src := k.src }).1.abortStep slot := by
  unfold State.gftGrad
  simp only [h, hslot, hm]

end Grad

section Bulk

variable (h : s.takeRx hf (fun k => k.typ = tBulk) = some (k, v))
include h

theorem gftBulk_partial (hm : v.windowMessage hf slot k (decide ((v.epochSt slot).order = 3)) = (w, none)) : s.gftBulk hf = w := by
  unfold State.gftBulk
  simp only [h, hslot, hm]

theorem gftBulk_message {l : List Byte} {mv : ShardMove} (hm : v.windowMessage hf slot k (decide ((v.epochSt slot).order = 3)) = (w, some l))
    (hmv : (w.epochSt slot).moves.find? (fun x => x.table = k.handle && x.shard = k.msg) = some mv) :
    s.gftBulk hf = (w.placeRows mv (l.length / 16) l).setEpochSt slot { w.epochSt slot with awaited := (w.epochSt slot).awaited.erase (k.handle, k.msg) } := by
  unfold State.gftBulk
  simp only [h, hslot, hm, hmv]

end Bulk

/-! ### ROW_REQ and ROW_RSP (R340, R341) -/

/-- Whether a ROW_REQ must wait: a table it names is swept, or a bank is not ready. -/
def State.rowReqWaits (s : State) (slot : Nat) (k : GftPacket) : Bool :=
  (reqRows k.payload).any (fun r => s.tblValid r.1 && s.sweptBy r.1 none) || !s.rowsReady slot k

section RowReq

variable (h : s.takeRx hf (fun k => k.typ = tRowReq) = some (k, v))
include h

theorem gftRowReq_otherEpoch (he : v.epochOk hf slot k false = (w, false)) (host : List Host.Cell) : s.gftRowReq hf host = w := by
  unfold State.gftRowReq
  simp only [h, hslot, he]
  rfl

theorem gftRowReq_epoch (he : v.epochOk hf slot k false = (w, true)) (host : List Host.Cell) : s.gftRowReq hf host =
    if w.rowReqWaits slot k then { w.wakeRows slot k with heldRows := w.heldRows ++ [{ hf := hf, slot := slot, packet := k }] }
    else w.answerRows hf slot k host := by
  unfold State.gftRowReq
  simp only [h, hslot, he]
  rfl

end RowReq

end Window

theorem gftRowRsp_last {s v w : State} {hf : Nat} {k : GftPacket} {r : RowReq} {l : List Byte}
    (h : s.takeRx hf (fun k => k.typ = tRowRsp) = some (k, v)) (hr : v.rowReqs.find? (fun r => r.id = k.msg && r.peer = k.src && r.sent) = some r)
    (he : v.epochOk hf r.slot k false = (w, true)) (hnew : ∀ p ∈ r.got, p.off ≠ k.off) (hl : assemble (r.got ++ [k]) k = some l) :
    s.gftRowRsp hf = State.rowsArrive (State.freeUser { w with rowReqs := w.rowReqs.filter (fun q => q.id ≠ r.id) } (.rows r.id)) r r.rows.length l := by
  have hfirst : r.got.any (fun p => p.off = k.off) = false := by
    simp only [List.any_eq_false, decide_eq_true_eq]
    exact hnew
  unfold State.gftRowRsp
  simp only [h, hr, he, hfirst, Bool.false_eq_true, if_false, hl, Bool.not_true]

/-! ### Control messages (R323, R346) -/

section Ctrl

variable {s v w : State} {hf sub slot : Nat} {k : GftPacket}

theorem gftCtrl_none (h : s.takeCtrl hf sub = none) (host : List Host.Cell) : s.gftCtrl hf sub host = s := by
  unfold State.gftCtrl
  rw [h]

theorem gftCtrl_notAccepted (h : s.takeCtrl hf sub = some (k, slot, v)) (hw : v.onWindow hf slot k = (w, none)) (host : List Host.Cell) :
    s.gftCtrl hf sub host = w := by
  unfold State.gftCtrl
  simp only [h, hw]

theorem gftCtrl_accepted {id : Nat} (h : s.takeCtrl hf sub = some (k, slot, v)) (hw : v.onWindow hf slot k = (w, some id)) (host : List Host.Cell) :
    s.gftCtrl hf sub host = w.ctrlDeliver id slot host 1024 := by
  unfold State.gftCtrl
  simp only [h, hw]

end Ctrl

/-- The seven control commands are one, by subtype. -/
theorem exec_ctrl {cmd : Nat → List Host.Cell → Instr} {sub : Nat}
    (h : (cmd, sub) ∈ [((fun h l => Instr.epochNak h l), 4), (fun h l => .epochReady h l, 5), (fun h l => .epochCommit h l, 6), (fun h l => .peerLoss h l, 7),
      (fun h l => .peerBack h l, 8), (fun h l => .layoutReq h l, 9), (fun h l => .layout h l, 10)]) (s : State) (hf : Nat) (host : List Host.Cell) :
    exec (cmd hf host) s = .next (s.gftCtrl hf sub host) := by
  simp only [List.mem_cons, Prod.mk.injEq, List.not_mem_nil, or_false] at h
  rcases h with ⟨rfl, rfl⟩ | ⟨rfl, rfl⟩ | ⟨rfl, rfl⟩ | ⟨rfl, rfl⟩ | ⟨rfl, rfl⟩ | ⟨rfl, rfl⟩ | ⟨rfl, rfl⟩ <;> rfl

/-! ### Epochs (R331 to R333) -/

section Epochs

variable {s : State} {slot : Nat}

theorem epochNak_ignored {l : List Byte} (h : epochDiff (payloadWord l 0) (s.epochOf slot) ≤ 0 ∨ (s.epochSt slot).needLayout = true) : s.epochNak slot l = s :=
  if_pos (by rw [Bool.or_eq_true, decide_eq_true_eq]; exact h)

theorem epochAdopt_early (h : (s.epochSt slot).order ≠ 3 ∨ (s.epochSt slot).awaited ≠ []) : s.epochAdopt slot = s :=
  if_pos (by rw [Bool.or_eq_true, decide_eq_true_eq, decide_eq_true_eq]; exact h)

/-- A change of epoch over at a member that moves no shard, before its register and event. -/
def State.epochEnded (s : State) (slot : Nat) : State :=
  State.setEpochSt (State.stale { s with tally := s.tally.filter (fun w => match w.2 with | some _ => true | none => true) } (fun _ => false)) slot
    { s.epochSt slot with order := 0, moves := [], children := [], awaited := [] }

theorem epochAdopt_moveless (ho : (s.epochSt slot).order = 3) (ha : (s.epochSt slot).awaited = []) (hm : (s.epochSt slot).moves = []) :
    s.epochAdopt slot = ((s.epochEnded slot).wr (Reg.HF_GROUP_EPOCH slot) (BitVec.ofNat 32 (s.epochSt slot).target)).raise
      .EPOCH_ADOPTED .info (srcJob slot) [(s.epochSt slot).target] := by
  unfold State.epochAdopt
  refine (if_neg (by rw [ho, ha]; decide)).trans ?_
  rw [hm]
  rfl

theorem epochEnded_epochSt : ((s.epochEnded slot).epochSt slot) = { s.epochSt slot with order := 0, moves := [], children := [], awaited := [] } :=
  SMap.get_put_self ..

/-- What an adopted epoch shows. -/
theorem epochAdopt_shows (ho : (s.epochSt slot).order = 3) (ha : (s.epochSt slot).awaited = []) (hm : (s.epochSt slot).moves = []) :
    (s.epochAdopt slot).rd (Reg.HF_GROUP_EPOCH slot) = BitVec.ofNat 32 (s.epochSt slot).target ∧ ((s.epochAdopt slot).epochSt slot).order = 0 ∧
      ((s.epochAdopt slot).epochSt slot).children = [] ∧ (s.epochAdopt slot).mem = s.mem ∧
      ∃ v, (s.epochAdopt slot).evq = s.evq ++ [v] ∧ v.code = .EPOCH_ADOPTED ∧ v.source = srcJob slot := by
  rw [epochAdopt_moveless ho ha hm]
  refine ⟨?_, congrArg EpochSt.order epochEnded_epochSt, congrArg EpochSt.children epochEnded_epochSt, State.raise_mem .., _, raise_evq .., rfl, rfl⟩
  exact (State.rd_congr (raise_regs _ _ (by decide) _ _) _).trans (State.rd_wr_self ..)

end Epochs

/-- Settles O48: each packet and message case by case. The layout of BULK and of the control messages is log entry 62, and what happens to
rows without a connection log entry 63: the model's choices. -/
theorem fabricMessages : Obligations.FabricMessages := by
  unfold Obligations.FabricMessages
  refine ⟨fun s hf host => ?packets, fun s hf host cmd sub hcmd => ?ctrl, fun s slot l => epochNak_ignored, fun s slot => ?adopt⟩
  case packets =>
    refine ⟨fun h => congrArg Host.Outcome.next (gftData_none h), fun h => congrArg Host.Outcome.next (gftGrad_none h),
      fun h => congrArg Host.Outcome.next (gftBulk_none h), fun h => congrArg Host.Outcome.next (gftRowRsp_none h),
      fun h => congrArg Host.Outcome.next (gftRowReq_none h host), fun k v slot w h hslot => ⟨?_, ?_⟩, fun k v slot w h hslot => ⟨?_, fun l y hm => ⟨?_, ?_⟩⟩,
      fun k v slot w h hslot => ⟨?_, ?_⟩, fun k v slot w h hslot => ⟨?_, fun he => ⟨?_, ?_⟩⟩, ?_⟩
    · exact fun hm => congrArg Host.Outcome.next (gftData_partial hslot h hm)
    · exact fun l hm hk hc => congrArg Host.Outcome.next (gftData_message hslot h hm hk hc)
    · exact fun hm => congrArg Host.Outcome.next (gftGrad_partial hslot h hm)
    · exact fun hy => congrArg Host.Outcome.next ((gftGrad_message hslot h hm).trans (by rw [hy]; rfl))
    · exact fun hy => congrArg Host.Outcome.next ((gftGrad_message hslot h hm).trans (by rw [hy]; rfl))
    · exact fun hm => congrArg Host.Outcome.next (gftBulk_partial hslot h hm)
    · exact fun l mv hm hmv => congrArg Host.Outcome.next (gftBulk_message hslot h hm hmv)
    · exact fun he => congrArg Host.Outcome.next (gftRowReq_otherEpoch hslot h he host)
    · exact fun hw => congrArg Host.Outcome.next ((gftRowReq_epoch hslot h he host).trans (if_neg (ne_true_of_eq_false hw)))
    · exact fun hw => congrArg Host.Outcome.next ((gftRowReq_epoch hslot h he host).trans (if_pos hw))
    · exact fun k v r w l h hr he hnew hl => congrArg Host.Outcome.next (gftRowRsp_last h hr he hnew hl)
  case ctrl =>
    rw [exec_ctrl hcmd]
    exact ⟨fun h => congrArg Host.Outcome.next (gftCtrl_none h host), fun k slot v w h =>
      ⟨fun hw => congrArg Host.Outcome.next (gftCtrl_notAccepted h hw host), fun id hw => congrArg Host.Outcome.next (gftCtrl_accepted h hw host)⟩⟩
  case adopt =>
    exact ⟨fun h => congrArg Host.Outcome.next (epochAdopt_early h), fun ho ha hm => ⟨_, rfl, epochAdopt_shows ho ha hm⟩⟩

end Sys2Proof.Machine
end

section
/-! PROOFS. The JTAG instructions of the TAP, and log flash. -/

namespace Sys2Proof.Machine

/-! ### The TAP (R420, R448, R449) -/

section Tap

variable {s : State}

theorem tapLoad_unpowered (h : s.power.rails = false) (t : TapSt) (shown : BitVec 116) : s.tapLoad t shown = s := if_pos (by rw [h]; rfl)

theorem tapLoad_powered (h : s.power.rails = true) (t : TapSt) (shown : BitVec 116) :
    s.tapLoad t shown = { s with tap := t, out := s.out ++ [.tdo t.ir shown] } := if_neg (by rw [h]; decide)

theorem tapTest_asserted (h : s.power.perst = true) (ir : Nat) (pins data : BitVec 116) : s.tapTest ir pins data = s.tapLoad ⟨ir, pins, data, false⟩ pins :=
  if_pos h

theorem tapTest_released (h : s.power.perst = false) (ir : Nat) (pins data : BitVec 116) : s.tapTest ir pins data = s.tapBypass :=
  if_neg (by rw [h]; exact Bool.false_ne_true)

theorem tapTest_unpowered (h : s.power.rails = false) (ir : Nat) (pins data : BitVec 116) : s.tapTest ir pins data = s := by
  unfold State.tapTest State.tapBypass
  rw [tapLoad_unpowered h, tapLoad_unpowered h, ite_self]

theorem tapCode_named {code : Byte} (h : code.toNat ∈ [0x00, 0x01, 0x02, 0x03, 0x04, 0x05, 0x20]) : s.tapCode code = s :=
  if_pos (List.contains_iff_mem.mpr h)

theorem tapCode_unnamed {code : Byte} (h : code.toNat ∉ [0x00, 0x01, 0x02, 0x03, 0x04, 0x05, 0x20]) : s.tapCode code = s.tapBypass :=
  if_neg (fun hc => h (List.contains_iff_mem.mp hc))

theorem tapCode_unpowered (h : s.power.rails = false) (code : Byte) : s.tapCode code = s := by
  unfold State.tapCode State.tapBypass
  rw [tapLoad_unpowered h, ite_self]

end Tap

/-! ### Programs of log flash (R207, R386, R443) -/

section Programs

variable {s : State}

theorem flashDone_idle (h : s.flash.jobs = []) : s.flashDone = s := by
  unfold State.flashDone
  rw [h]

/-- The state after a completed program has left the queue. -/
def State.programmed (s : State) (j : FlashJob) (rest : List FlashJob) : State :=
  { s.flashJob j with flash := { (s.flashJob j).flash with jobs := rest, suspended := (s.flashJob j).flash.suspended && decide (rest ≠ []) } }

theorem flashDone_programs {j : FlashJob} {rest : List FlashJob} (h : s.flash.jobs = j :: rest) : s.flashDone = s.programmed j rest := by
  unfold State.flashDone
  rw [h]
  rfl

theorem flashJob_maps_a (h : s.flash.mapA.seq < s.flash.mapB.seq) :
    s.flashJob .maps = { s with flash := { s.flash with mapA := s.mapsNow (s.flash.mapB.seq + 1) } } := if_pos h

theorem flashJob_maps_b (h : ¬ s.flash.mapA.seq < s.flash.mapB.seq) :
    s.flashJob .maps = { s with flash := { s.flash with mapB := s.mapsNow (s.flash.mapA.seq + 1) } } := if_neg h

/-- A program that completes changes nothing but log flash, and suspends no erase. -/
theorem flashJob_flash (j : FlashJob) : ∃ fl, s.flashJob j = { s with flash := fl } ∧ fl.suspended = s.flash.suspended := by
  cases j with
  | sample entry bytes => exact ⟨_, rfl, rfl⟩
  | events bytes => exact ⟨_, rfl, rfl⟩
  | maps =>
    by_cases h : s.flash.mapA.seq < s.flash.mapB.seq
    · exact ⟨_, flashJob_maps_a h, rfl⟩
    · exact ⟨_, flashJob_maps_b h, rfl⟩

theorem programmed_keeps (j : FlashJob) (rest : List FlashJob) : (s.programmed j rest).regs = s.regs ∧ (s.programmed j rest).mem = s.mem ∧
    (s.programmed j rest).flash.suspended = (s.flash.suspended && decide (rest ≠ [])) := by
  obtain ⟨fl, hfl, hsuspended⟩ := flashJob_flash (s := s) j
  unfold State.programmed
  rw [hfl, ← hsuspended]
  exact ⟨rfl, rfl, rfl⟩

variable (rest : List FlashJob)

theorem programmed_sample (entry : Nat) (bytes : List Byte) : ((s.programmed (.sample entry bytes) rest).flash.samples.get [] entry = bytes) ∧
    entry ∈ (s.programmed (.sample entry bytes) rest).flash.unread ∧ (s.programmed (.sample entry bytes) rest).flash.pages = s.flash.pages :=
  ⟨SMap.get_put_self .., List.mem_append_right _ (List.mem_singleton_self _), rfl⟩

theorem programmed_events (bytes : List Byte) :
    (s.programmed (.events bytes) rest).flash.pages.get [] (s.logPageFrom 1440 s.flash.nextPage) = bytes ∧
      (s.programmed (.events bytes) rest).flash.nextPage = s.logPageFrom 1440 s.flash.nextPage + 1 ∧
      (s.programmed (.events bytes) rest).flash.samples = s.flash.samples := ⟨SMap.get_put_self .., rfl, rfl⟩

theorem programmed_maps_a (h : s.flash.mapA.seq < s.flash.mapB.seq) :
    (s.programmed .maps rest).flash.mapA.seq = s.flash.mapB.seq + 1 ∧ (s.programmed .maps rest).flash.mapB = s.flash.mapB := by
  unfold State.programmed
  rw [flashJob_maps_a h]
  exact ⟨rfl, rfl⟩

theorem programmed_maps_b (h : s.flash.mapB.seq ≤ s.flash.mapA.seq) :
    (s.programmed .maps rest).flash.mapB.seq = s.flash.mapA.seq + 1 ∧ (s.programmed .maps rest).flash.mapA = s.flash.mapA := by
  unfold State.programmed
  rw [flashJob_maps_b (Nat.not_lt.mpr h)]
  exact ⟨rfl, rfl⟩

end Programs

/-- A page whose block is not retired is the next one itself. -/
theorem logPageFrom_good {s : State} {p : Nat} (h : s.flash.retired.contains (608 + p % 46080 / 32) = false) (n : Nat) : s.logPageFrom (n + 1) p = p % 46080 :=
  if_neg (by rw [show logBlock + p % logPages / 32 = 608 + p % 46080 / 32 from rfl, h]; exact Bool.false_ne_true)

/-! ### Erases and retired blocks (R207, R472) -/

section Erases

variable {s : State} {b : Nat}

theorem eraseSuspend_none (h : s.flash.jobs = [] ∨ s.flash.suspended = true) : s.eraseSuspend b = s :=
  if_pos (by rw [Bool.or_eq_true, decide_eq_true_eq]; exact h)

theorem eraseSuspend_suspends (hj : s.flash.jobs ≠ []) (hs : s.flash.suspended = false) :
    s.eraseSuspend b = State.count { s with flash := { s.flash with erasing := some b, suspended := true } } Reg.HF_BG 0 16 1 :=
  if_neg (by rw [hs, decide_eq_false hj]; decide)

/-- A block whose erase does not complete: outside the flash, retired, or suspended in its erase. -/
def State.eraseHolds (s : State) (b : Nat) : Prop := 2048 ≤ b ∨ s.flash.retired.contains b = true ∨ s.flash.suspended = true ∧ s.flash.erasing = some b

theorem eraseHolds_iff : (decide (2048 ≤ b) || s.flash.retired.contains b || (s.flash.suspended && decide (s.flash.erasing = some b))) = true ↔ s.eraseHolds b := by
  simp only [Bool.or_eq_true, Bool.and_eq_true, decide_eq_true_eq, or_assoc, State.eraseHolds]

/-- A log flash with a block blank and its erase counted. -/
def FlashSt.erased (fl : FlashSt) (b : Nat) : FlashSt :=
  { fl with
    erases := fl.erases.put 0 b (fl.erases.get 0 b + 1), erasing := if fl.erasing = some b then none else fl.erasing
    pages := if logBlock ≤ b then fl.pages.clear ((b - logBlock) * 32) ((b - logBlock) * 32 + 32) else fl.pages }

theorem eraseDone_held (h : s.eraseHolds b) : s.eraseDone b = s := if_pos (eraseHolds_iff.mpr h)

theorem eraseDone_erases (h : ¬ s.eraseHolds b) : s.eraseDone b = { s with flash := s.flash.erased b } := if_neg (fun hb => h (eraseHolds_iff.mp hb))

variable {fl : FlashSt}

theorem erased_erases : (fl.erased b).erases.get 0 b = fl.erases.get 0 b + 1 := by
  unfold FlashSt.erased
  dsimp only
  exact SMap.get_put_self ..

theorem erased_erasing : (fl.erased b).erasing ≠ some b := by
  unfold FlashSt.erased
  dsimp only
  split
  · exact Option.some_ne_none b ∘ Eq.symm
  · assumption

theorem get_clear_inside {α : Type} (m : SMap α) (d : α) {lo hi k : Nat} (hlo : lo ≤ k) (hhi : k < hi) : (m.clear lo hi).get d k = d := by
  induction m with
  | nil => rfl
  | cons e r ih =>
    rw [SMap.clear, List.filter_cons]
    split
    · next hkeep =>
      have hne : e.1 ≠ k := by
        rintro rfl
        simp only [Bool.or_eq_true, decide_eq_true_eq] at hkeep
        omega
      exact (if_neg hne).trans ih
    · exact ih

theorem get_clear_outside {α : Type} (m : SMap α) (d : α) {lo hi k : Nat} (h : k < lo ∨ hi ≤ k) : (m.clear lo hi).get d k = m.get d k :=
  get_filter_kept (keep := fun k => decide (k < lo) || decide (hi ≤ k)) (by simpa using h) m d

theorem erased_pages_blank {p : Nat} (hb : 608 ≤ b) (hp : p / 32 = b - 608) : (fl.erased b).pages.get [] p = [] := by
  have hlog : logBlock ≤ b := hb
  unfold FlashSt.erased
  dsimp only
  rw [if_pos hlog]
  exact get_clear_inside _ _ (by unfold logBlock; omega) (by unfold logBlock; omega)

theorem erased_pages_kept {p : Nat} (hp : b < 608 ∨ p / 32 ≠ b - 608) : (fl.erased b).pages.get [] p = fl.pages.get [] p := by
  unfold FlashSt.erased
  dsimp only
  split
  · next hlog =>
    unfold logBlock at *
    exact get_clear_outside _ _ (by omega)
  · rfl

theorem blockFail_none (h : 2048 ≤ b ∨ s.flash.retired.contains b = true) : s.blockFail b = s :=
  if_pos (by rw [Bool.or_eq_true, decide_eq_true_eq]; exact h)

/-- The state after a block has been retired, with its event. -/
def State.blockRetired (s : State) (b : Nat) : State :=
  State.raise { s with flash := { s.flash with
    retired := s.flash.retired ++ [b], erasing := if s.flash.erasing = some b then none else s.flash.erasing
    suspended := s.flash.suspended && decide (s.flash.erasing ≠ some b) } } .FLASH_BLOCK_RETIRED .corrected (srcComponent 5) [b]

theorem retiredIn_blockRetired : (s.blockRetired b).retiredIn b = s.retiredIn b + 1 := by
  have hlast : ([b].filter (fun c => flashRegion c = flashRegion b)).length = 1 := by
    rw [List.filter_singleton, decide_eq_true rfl]
    rfl
  exact (congrArg List.length (List.filter_append _ _)).trans (List.length_append.trans (congrArg _ hlast))

/-- A block's region wears out with one more retired block: more than 5 % of it is retired, and was not before. -/
def State.wornBy (s : State) (b : Nat) : Prop := (flashRegion b).2 < 20 * (s.retiredIn b + 1) ∧ 20 * s.retiredIn b ≤ (flashRegion b).2

/-- A block's retirement raises FLASH_WORN where its region wears out by it. -/
theorem blockFail_retires (hb : b < 2048) (h : s.flash.retired.contains b = false) : s.blockFail b =
    if (flashRegion b).2 < 20 * (s.blockRetired b).retiredIn b && 20 * ((s.blockRetired b).retiredIn b - 1) ≤ (flashRegion b).2 then
      (s.blockRetired b).raise .FLASH_WORN .info (srcComponent 5) [(flashRegion b).1, (s.blockRetired b).retiredIn b]
    else s.blockRetired b := by
  unfold State.blockFail
  exact if_neg (by rw [h, decide_eq_false (Nat.not_le.mpr hb)]; decide)

section Retires

variable (hb : b < 2048) (h : s.flash.retired.contains b = false)
include hb h

theorem blockFail_unworn (hw : ¬ s.wornBy b) : s.blockFail b = s.blockRetired b := by
  rw [blockFail_retires hb h, retiredIn_blockRetired]
  exact if_neg (by rw [Bool.and_eq_true, decide_eq_true_eq, decide_eq_true_eq]; exact hw)

theorem blockFail_worn (hw : s.wornBy b) :
    s.blockFail b = (s.blockRetired b).raise .FLASH_WORN .info (srcComponent 5) [(flashRegion b).1, s.retiredIn b + 1] := by
  rw [blockFail_retires hb h, retiredIn_blockRetired]
  exact if_pos (by rw [Bool.and_eq_true, decide_eq_true_eq, decide_eq_true_eq]; exact hw)

/-- What retiring a block leaves besides its events. -/
theorem blockFail_keeps : (s.blockFail b).flash.retired = s.flash.retired ++ [b] ∧ (s.blockFail b).flash.jobs = s.flash.jobs ∧ (s.blockFail b).mem = s.mem := by
  by_cases hw : s.wornBy b
  · rw [blockFail_worn hb h hw]
    exact ⟨rfl, rfl, rfl⟩
  · rw [blockFail_unworn hb h hw]
    exact ⟨rfl, rfl, rfl⟩

end Retires

end Erases

theorem fld_count_self (s : State) (a : Nat) {lo n : Nat} (k : Nat) (h : lo + n ≤ 32) : (s.count a lo n k).fld a lo n = min (2 ^ n - 1) (s.fld a lo n + k) := by
  have hlt : min (2 ^ n - 1) (s.fld a lo n + k) < 2 ^ n := by
    have := Nat.two_pow_pos n
    omega
  unfold State.count
  rw [State.fld_setFld_self s a _ h, satTo_eq_min, Nat.mod_eq_of_lt hlt]

/-- Settles O59: the TAP through `tapLoad`, log flash through the state that each command leaves. That EXTEST and INTEST act as BYPASS with
PERST_N released, and that instructions need the rails, is log entry 84; wear and samples are log entry 80: the model's choices. -/
theorem testPortAndFlash : Obligations.TestPortAndFlash := by
  unfold Obligations.TestPortAndFlash
  refine ⟨fun s pins data code => ⟨fun hr c hc => ?unpowered, fun hr => ?powered⟩,
    fun s b => ⟨fun h => ?idle, fun j rest h => ?programs, fun n p hp => ?page, fun h => ?suspended, fun hj hs => ?suspends,
      ⟨fun h => ?held, fun h => ?erases⟩, fun h => ?retired, fun hb h => ?fails⟩⟩
  case unpowered =>
    simp only [List.mem_cons, List.not_mem_nil, or_false] at hc
    rcases hc with rfl | rfl | rfl | rfl | rfl | rfl | rfl | rfl | rfl
    · exact congrArg Host.Outcome.next (tapTest_unpowered hr ..)
    · exact congrArg Host.Outcome.next (tapTest_unpowered hr ..)
    · exact congrArg Host.Outcome.next (tapLoad_unpowered hr ..)
    · exact congrArg Host.Outcome.next (tapLoad_unpowered hr ..)
    · exact congrArg Host.Outcome.next (tapLoad_unpowered hr ..)
    · exact congrArg Host.Outcome.next (tapLoad_unpowered hr ..)
    · exact congrArg Host.Outcome.next (tapLoad_unpowered hr ..)
    · exact congrArg Host.Outcome.next (tapCode_unpowered hr code)
    · exact congrArg Host.Outcome.next (if_pos (by rw [hr]; rfl))
  case powered =>
    refine ⟨fun hp => ⟨?_, ?_⟩, fun hp => ⟨?_, ?_⟩, ?_, ?_, fun c ir hc => ?_, fun hc => congrArg Host.Outcome.next (tapCode_named hc), fun hc => ?_, ?_⟩
    · exact congrArg Host.Outcome.next ((tapTest_asserted hp ..).trans (tapLoad_powered hr ..))
    · exact congrArg Host.Outcome.next ((tapTest_asserted hp ..).trans (tapLoad_powered hr ..))
    · exact congrArg Host.Outcome.next ((tapTest_released hp ..).trans (tapLoad_powered hr ..))
    · exact congrArg Host.Outcome.next ((tapTest_released hp ..).trans (tapLoad_powered hr ..))
    · exact congrArg Host.Outcome.next (tapLoad_powered hr ..)
    · exact congrArg Host.Outcome.next (tapLoad_powered hr ..)
    · simp only [List.mem_cons, Prod.mk.injEq, List.not_mem_nil, or_false] at hc
      rcases hc with ⟨rfl, rfl⟩ | ⟨rfl, rfl⟩ | ⟨rfl, rfl⟩ <;> exact congrArg Host.Outcome.next (tapLoad_powered hr ..)
    · exact congrArg Host.Outcome.next ((tapCode_unnamed hc).trans (tapLoad_powered hr ..))
    · exact congrArg Host.Outcome.next (if_neg (by rw [hr]; decide))
  case idle => exact ⟨congrArg Host.Outcome.next (flashDone_idle h), congrArg Host.Outcome.next (eraseSuspend_none (.inl h))⟩
  case programs =>
    obtain ⟨hregs, hmem, hsuspended⟩ := programmed_keeps (s := s) j rest
    refine ⟨s.programmed j rest, congrArg Host.Outcome.next (flashDone_programs h), rfl, hregs, hmem, hsuspended, ?_, ?_, ?_, ?_⟩
    · rintro e bytes rfl
      exact programmed_sample rest e bytes
    · rintro bytes rfl
      exact programmed_events rest bytes
    · rintro rfl hlt
      exact programmed_maps_a rest hlt
    · rintro rfl hle
      exact programmed_maps_b rest hle
  case page =>
    obtain ⟨q, -, hq, rfl⟩ := hp
    exact logPageFrom_good hq n
  case suspended => exact congrArg Host.Outcome.next (eraseSuspend_none (.inr h))
  case suspends =>
    exact ⟨_, congrArg Host.Outcome.next (eraseSuspend_suspends hj hs), rfl, rfl, rfl, fld_count_self _ _ 1 (by decide), rfl⟩
  case held => exact congrArg Host.Outcome.next (eraseDone_held h)
  case erases =>
    exact ⟨_, congrArg Host.Outcome.next (eraseDone_erases h), erased_erases, erased_erasing, rfl, fun p => erased_pages_blank, fun p => erased_pages_kept⟩
  case retired => exact congrArg Host.Outcome.next (blockFail_none h)
  case fails =>
    obtain ⟨hretired, hjobs, hmem⟩ := blockFail_keeps hb h
    have hcount : (s.flash.retired.filter (fun c => flashRegion c = flashRegion b)).length = s.retiredIn b := rfl
    have hevq : (s.blockRetired b).evq = s.evq ++ [⟨.FLASH_BLOCK_RETIRED, .corrected, srcComponent 5, [b], s.usecN.toNat % 2 ^ 32⟩] := raise_evq ..
    refine ⟨s.blockFail b, ⟨.FLASH_BLOCK_RETIRED, .corrected, srcComponent 5, [b], s.usecN.toNat % 2 ^ 32⟩, rfl, hretired, hjobs, rfl, hmem, fun hle => ?_, fun hlt hle =>
      ⟨⟨.FLASH_WORN, .info, srcComponent 5, [(flashRegion b).1, s.retiredIn b + 1], s.usecN.toNat % 2 ^ 32⟩, ?_, rfl⟩⟩
    · rw [hcount] at hle
      rw [blockFail_unworn hb h (by unfold State.wornBy; omega)]
      exact hevq
    · rw [hcount] at hlt hle
      rw [blockFail_worn hb h ⟨hlt, hle⟩]
      refine (raise_evq ..).trans ?_
      rw [hevq, List.append_assoc]
      rfl

end Sys2Proof.Machine
end

section
/-! PROOFS. Strings of bytes: numbers, digests, and what consecutive registers hold. -/

namespace Sys2Proof.Machine

theorem toBytes_length (k v : Nat) : (toBytes k v).length = k := by
  induction k generalizing v with
  | zero => rfl
  | succ k ih => exact congrArg (· + 1) (ih (v / 256))

theorem toBytes_ofBytes (l : List Byte) : toBytes l.length (ofBytes l) = l := by
  induction l with
  | nil => rfl
  | cons b r ih =>
    have hlow : BitVec.ofNat 8 (ofBytes (b :: r)) = b := by
      apply BitVec.eq_of_toNat_eq
      have := b.isLt
      simp only [ofBytes, BitVec.toNat_ofNat]
      omega
    have hhigh : ofBytes (b :: r) / 256 = ofBytes r := by
      have := b.isLt
      simp only [ofBytes]
      omega
    exact congrArg₂ List.cons hlow ((congrArg (toBytes r.length) hhigh).trans ih)

theorem ofBytes_lt (l : List Byte) : ofBytes l < 256 ^ l.length := by
  induction l with
  | nil => exact Nat.one_pos
  | cons b r ih =>
    have := b.isLt
    simp only [ofBytes, List.length_cons, pow_succ]
    omega

/-- Blocks of 4 bytes one after another. -/
theorem length_flatMap_toBytes {α : Type} (f : α → Nat) (l : List α) : (l.flatMap (fun a => toBytes 4 (f a))).length = 4 * l.length := by
  induction l with
  | nil => rfl
  | cons a r ih =>
    rw [List.flatMap_cons, List.length_append, ih, toBytes_length, List.length_cons]
    omega

theorem sm3_length (m : List Byte) : (sm3 m).length = 32 := by
  simp only [sm3, List.flatMap_cons, List.flatMap_nil, List.length_append, toBytesBE, List.length_reverse, toBytes_length, List.length_nil]

/-! ### Registers -/

section Registers

variable {s : State} {f : Nat → Nat} {n : Nat} {l : List Byte}

theorem regBytes_length (s : State) (f : Nat → Nat) (n : Nat) : (s.regBytes f n).length = 4 * n :=
  (length_flatMap_toBytes _ _).trans (congrArg (4 * ·) List.length_range)

theorem regBytes_congr {s t : State} (h : ∀ i, i < n → t.rd (f i) = s.rd (f i)) : t.regBytes f n = s.regBytes f n :=
  List.flatMap_congr fun i hi => by rw [h i (List.mem_range.mp hi)]

theorem rd_setRegBytes_other (l : List Byte) {r : Nat} (h : ∀ i, i < n → r ≠ f i) : (s.setRegBytes f n l).rd r = s.rd r :=
  rd_foldl_wr_other _ _ (fun i hi => h i (List.mem_range.mp hi)) s

theorem bit_setRegBytes_other (l : List Byte) {r : Nat} (i : Nat) (h : ∀ i, i < n → r ≠ f i) : (s.setRegBytes f n l).bit r i = s.bit r i :=
  congrArg (fun w : Word => bitOf w.toNat i) (rd_setRegBytes_other l h)

/-- What the registers do not hold stays. -/
theorem setRegBytes_frame {γ : Type} (g : State → γ) (hg : ∀ s a v, g (State.wr s a v) = g s) (s : State) (f : Nat → Nat) (n : Nat) (l : List Byte) :
    g (s.setRegBytes f n l) = g s := foldl_frame g (fun s i => hg s _ _) _ s

theorem rd_setRegBytes_self (hf : Function.Injective f) {i : Nat} (hi : i < n) :
    (s.setRegBytes f n l).rd (f i) = BitVec.ofNat 32 (ofBytes ((l.drop (4 * i)).take 4)) :=
  rd_foldl_wr_mem _ _ (List.nodup_range.map hf) (List.mem_range.mpr hi) s

theorem flatMap_chunks (l : List Byte) (n : Nat) : (List.range n).flatMap (fun i => (l.drop (4 * i)).take 4) = l.take (4 * n) := by
  induction n with
  | zero => rw [List.range_zero, List.flatMap_nil, Nat.mul_zero, List.take_zero]
  | succ n ih => rw [List.range_succ, List.flatMap_append, ih, List.flatMap_singleton, Nat.mul_succ, List.take_add]

/-- Bytes stored in registers are read back. -/
theorem regBytes_setRegBytes (hf : Function.Injective f) (hl : 4 * n ≤ l.length) : (s.setRegBytes f n l).regBytes f n = l.take (4 * n) := by
  have hword : ∀ i ∈ List.range n, toBytes 4 ((s.setRegBytes f n l).rd (f i)).toNat = (l.drop (4 * i)).take 4 := by
    intro i hi
    have hn := List.mem_range.mp hi
    have hlen : ((l.drop (4 * i)).take 4).length = 4 := by
      rw [List.length_take, List.length_drop]
      omega
    have hlt : ofBytes ((l.drop (4 * i)).take 4) < 2 ^ 32 := (ofBytes_lt _).trans_eq (by rw [hlen]; norm_num)
    rw [rd_setRegBytes_self hf hn, BitVec.toNat_ofNat, Nat.mod_eq_of_lt hlt]
    have hback := toBytes_ofBytes ((l.drop (4 * i)).take 4)
    rwa [hlen] at hback
  exact (List.flatMap_congr hword).trans (flatMap_chunks l n)

theorem regBytes_setRegBytes_all (hf : Function.Injective f) (hl : l.length = 4 * n) : (s.setRegBytes f n l).regBytes f n = l :=
  (regBytes_setRegBytes hf hl.ge).trans (List.take_of_length_le hl.le)

end Registers

theorem fld_of_rd {s t : State} {r : Nat} (h : t.rd r = s.rd r) (lo n : Nat) : t.fld r lo n = s.fld r lo n := congrArg (fun w : Word => bitsOf w.toNat lo n) h

end Sys2Proof.Machine
end

section
/-! PROOFS. Signed commands, measurements, quotes and debug levels. -/

namespace Sys2Proof.Machine

theorem injective_of_step {f : Nat → Nat} {a : Nat} (h : ∀ i, f i = a + 0x4 * i) : Function.Injective f := by
  intro i j hij
  rw [h, h] at hij
  omega

theorem scCmd_injective : Function.Injective Reg.SC_CMD := injective_of_step (a := 0x80400) fun _ => rfl
theorem scQuote_injective : Function.Injective Reg.SC_QUOTE := injective_of_step (a := 0x80800) fun _ => rfl
theorem scMeas_injective (n : Nat) : Function.Injective (Reg.SC_MEAS n) := injective_of_step (a := 0x80100 + 0x20 * n) fun _ => rfl

theorem secUp_iff {s : State} : s.secUp = true ↔ s.power.s1 = true ∧ s.power.standby = 0 := by
  unfold State.secUp
  rw [Bool.and_eq_true, decide_eq_true_eq]

theorem secUp_false {s : State} (h : ¬ (s.power.s1 = true ∧ s.power.standby = 0)) : s.secUp = false :=
  Bool.eq_false_iff.mpr (fun hu => h (secUp_iff.mp hu))

/-! ### Signed commands (R407, R408) -/

section Commands

variable {s : State} {c : List Byte}

/-- The command in SC_CMD. -/
def State.cmdStored (s : State) (c : List Byte) : State := s.setRegBytes Reg.SC_CMD 64 c

theorem cmdStored_frame {γ : Type} (g : State → γ) (hg : ∀ s a v, g (State.wr s a v) = g s) : g (s.cmdStored c) = g s := setRegBytes_frame g hg ..

theorem cmdStored_status (i : Nat) : (s.cmdStored c).bit Reg.SC_STATUS i = s.bit Reg.SC_STATUS i :=
  bit_setRegBytes_other c i (fun j _ => by unfold Reg.SC_STATUS Reg.SC_CMD; omega)

theorem cmdStored_secUp : (s.cmdStored c).secUp = s.secUp := cmdStored_frame State.secUp (fun _ _ _ => rfl)

theorem cmdStored_crippled : (s.cmdStored c).fw.crippled = s.fw.crippled := cmdStored_frame (fun s => s.fw.crippled) (fun _ _ _ => rfl)

theorem cmdStored_bytes (hc : c.length = 256) : (s.cmdStored c).regBytes Reg.SC_CMD 64 = c := regBytes_setRegBytes_all scCmd_injective hc

theorem signedCmd_down (h : s.secUp = false) : s.signedCmd c = s := if_pos (by rw [h]; rfl)

theorem signedCmd_up (h : s.secUp = true) (hc : c.length = 256) : s.signedCmd c = (s.cmdStored c).cmdGo := by
  unfold State.signedCmd
  rw [if_neg (by rw [h]; decide), ← hc, List.take_left]
  rfl

theorem cmdGo_busy {v : State} (hup : v.secUp = true) (h : v.bit Reg.SC_STATUS 0 = true) : v.cmdGo = v := if_pos (by rw [hup, h]; rfl)

theorem cmdGo_crippled {v : State} (hup : v.secUp = true) (h : v.bit Reg.SC_STATUS 0 = false) (hcr : v.fw.crippled = true) :
    v.cmdGo = v.setBit Reg.SC_STATUS 0 true := (if_neg (by rw [hup, h]; decide)).trans (if_pos hcr)

/-- How a command ends: its code, CMD_DONE and a fresh nonce. -/
def State.cmdEnds (s : State) (code : Nat) : State := ((s.setFld Reg.SC_STATUS 8 4 code).setBit Reg.SC_STATUS 2 true).newNonce

theorem cmdGo_checks {v : State} (hup : v.secUp = true) (h : v.bit Reg.SC_STATUS 0 = false) (hcr : v.fw.crippled = false)
    (hc : v.regBytes Reg.SC_CMD 64 = c) : v.cmdGo =
      (if v.checkCmd c = 0 then v.runCmd c else v.raise .SC_CMD_FAIL .info srcSecurity [v.checkCmd c]).cmdEnds (v.checkCmd c) := by
  subst hc
  exact (if_neg (by rw [hup, h]; decide)).trans (if_neg (by rw [hcr]; exact Bool.false_ne_true))

section Up

variable (hup : s.secUp = true) (hc : c.length = 256)
include hup hc

theorem signedCmd_busy (h : s.bit Reg.SC_STATUS 0 = true) : s.signedCmd c = s.cmdStored c :=
  (signedCmd_up hup hc).trans (cmdGo_busy (cmdStored_secUp.trans hup) ((cmdStored_status 0).trans h))

variable (h : s.bit Reg.SC_STATUS 0 = false)
include h

theorem signedCmd_crippled (hcr : s.fw.crippled = true) : s.signedCmd c = (s.cmdStored c).setBit Reg.SC_STATUS 0 true :=
  (signedCmd_up hup hc).trans (cmdGo_crippled (cmdStored_secUp.trans hup) ((cmdStored_status 0).trans h) (cmdStored_crippled.trans hcr))

variable (hcr : s.fw.crippled = false)
include hcr

theorem signedCmd_checks : s.signedCmd c =
    (if (s.cmdStored c).checkCmd c = 0 then (s.cmdStored c).runCmd c else
      (s.cmdStored c).raise .SC_CMD_FAIL .info srcSecurity [(s.cmdStored c).checkCmd c]).cmdEnds ((s.cmdStored c).checkCmd c) :=
  (signedCmd_up hup hc).trans
    (cmdGo_checks (cmdStored_secUp.trans hup) ((cmdStored_status 0).trans h) (cmdStored_crippled.trans hcr) (cmdStored_bytes hc))

theorem signedCmd_fails (hcode : (s.cmdStored c).checkCmd c ≠ 0) : s.signedCmd c =
    ((s.cmdStored c).raise .SC_CMD_FAIL .info srcSecurity [(s.cmdStored c).checkCmd c]).cmdEnds ((s.cmdStored c).checkCmd c) := by
  rw [signedCmd_checks hup hc h hcr, if_neg hcode]

/-- A command that passes its checks runs, and ends with code 0. -/
theorem signedCmd_runs (hcode : (s.cmdStored c).checkCmd c = 0) {t : State} (ht : (s.cmdStored c).runCmd c = t) :
    s.signedCmd c = t.cmdEnds ((s.cmdStored c).checkCmd c) := by
  rw [signedCmd_checks hup hc h hcr, if_pos hcode, ht]

end Up

/-! What each OP runs. -/

theorem runCmd_debug (h : imgNum c 4 1 = 1) : s.runCmd c = s.enterLevel (imgNum c 5 1) (imgNum c 8 1 % 2) (imgNum c 6 2) (sm3 c) := by
  unfold State.runCmd
  simp only [h]

theorem runCmd_lc (h : imgNum c 4 1 = 2) : s.runCmd c = s.advanceLc (imgNum c 5 1) := by
  unfold State.runCmd
  simp only [h]

theorem runCmd_owner (h : imgNum c 4 1 = 3) : s.runCmd c = s.fuseOwner (imgBytes c 96 64) := by
  unfold State.runCmd
  simp only [h]

theorem runCmd_svn (h : imgNum c 4 1 = 4) : s.runCmd c = s.burnSvn (imgNum c 96 2) := by
  unfold State.runCmd
  simp only [h]

theorem runCmd_revoke (h : imgNum c 4 1 = 5) : s.runCmd c = s.revokeSlot (imgNum c 5 1) := by
  unfold State.runCmd
  simp only [h]

end Commands

/-- A command that carries a signed command, with the OPs it takes. -/
def SignedRow (row : (List Byte → Instr) × (Nat → Prop)) : Prop :=
  row ∈ ([(Instr.debug, (· = 1)), (.lcAdvance, (· = 2)), (.ownerKey, (· = 3)), (.svnMin, (· = 4)), (.vendorRevoke, (· = 5)), (.signedCommandBadOp, fun n => n = 0 ∨ 5 < n)] :
    List ((List Byte → Instr) × (Nat → Prop)))

/-- A row runs its command where the OP is its own, and changes nothing elsewhere. -/
theorem exec_signedRow {row : (List Byte → Instr) × (Nat → Prop)} (h : SignedRow row) (s : State) (c : List Byte) :
    (row.2 (imgNum c 4 1) → exec (row.1 c) s = .next (s.signedCmd c)) ∧ (¬ row.2 (imgNum c 4 1) → exec (row.1 c) s = .next s) := by
  simp only [SignedRow, List.mem_cons, List.not_mem_nil, or_false] at h
  rcases h with rfl | rfl | rfl | rfl | rfl | rfl
  · exact ⟨fun h => congrArg Host.Outcome.next (if_pos h), fun h => congrArg Host.Outcome.next (if_neg h)⟩
  · exact ⟨fun h => congrArg Host.Outcome.next (if_pos h), fun h => congrArg Host.Outcome.next (if_neg h)⟩
  · exact ⟨fun h => congrArg Host.Outcome.next (if_pos h), fun h => congrArg Host.Outcome.next (if_neg h)⟩
  · exact ⟨fun h => congrArg Host.Outcome.next (if_pos h), fun h => congrArg Host.Outcome.next (if_neg h)⟩
  · exact ⟨fun h => congrArg Host.Outcome.next (if_pos h), fun h => congrArg Host.Outcome.next (if_neg h)⟩
  · have hop : (decide (cmdOp c = 0) || decide (5 < cmdOp c)) = true ↔ imgNum c 4 1 = 0 ∨ 5 < imgNum c 4 1 := by
      rw [Bool.or_eq_true, decide_eq_true_eq, decide_eq_true_eq]
      rfl
    exact ⟨fun h => congrArg Host.Outcome.next (if_pos (hop.mpr h)), fun h => congrArg Host.Outcome.next (if_neg (fun hb => h (hop.mp hb)))⟩

/-! ### The checks of a command (R408) -/

section Checks

variable {s : State} {c : List Byte}

/-- A command that is badly formed: wrong magic, an unassigned OP, a bad argument or a reserved field set. -/
def badCommand (c : List Byte) : Prop :=
  imgNum c 0 4 ≠ 0x53434D44 ∨ imgNum c 4 1 = 0 ∨ 5 < imgNum c 4 1 ∨ imgNum c 4 1 = 1 ∧ 2 < imgNum c 5 1 ∨
    (imgNum c 4 1 = 2 ∨ imgNum c 4 1 = 5) ∧ 3 < imgNum c 5 1 ∨ imgNum c 8 4 / 2 ≠ 0 ∨ imgNum c 12 4 ≠ 0 ∨ imgNum c 80 16 ≠ 0

/-- Whether an OP takes an argument. -/
def argOk (op arg : Nat) : Bool := match op with | 1 => arg ≤ 2 | 2 => arg ≤ 3 | 5 => arg ≤ 3 | _ => true

/-- The first check of R408. -/
def malformed (c : List Byte) : Bool :=
  decide (imgNum c 0 4 ≠ 0x53434D44) || decide (imgNum c 4 1 = 0) || decide (5 < imgNum c 4 1) || !argOk (imgNum c 4 1) (imgNum c 5 1) ||
    !(decide (imgNum c 8 4 / 2 = 0) && decide (imgNum c 12 4 = 0) && decide (imgNum c 80 16 = 0))

theorem argOk_eq_false {op arg : Nat} : argOk op arg = false ↔ op = 1 ∧ 2 < arg ∨ (op = 2 ∨ op = 5) ∧ 3 < arg := by
  unfold argOk
  split <;> simp_all

theorem malformed_iff : malformed c = true ↔ badCommand c := by
  unfold malformed badCommand
  simp only [Bool.or_eq_true, Bool.not_eq_true', Bool.and_eq_false_iff, decide_eq_true_eq, decide_eq_false_iff_not, argOk_eq_false]
  tauto

/-- The later checks of R408, from the signature on. -/
def State.checkSigned (s : State) (c : List Byte) : Nat :=
  if !s.signedBy (imgNum c 4 1) (imgNum c 5 1) (imgNum c 8 1 % 2) (c.take 192) (imgBytes c 192 64) then 4
  else if !s.signerOk (imgNum c 4 1) (imgNum c 5 1) (imgNum c 8 1 % 2) then 5
  else if (imgNum c 4 1 = 2 && !lcStep s.otp.lc (imgNum c 5 1)) || (imgNum c 4 1 = 4 && decide (imgNum c 96 2 < s.otp.svn)) ||
    (imgNum c 4 1 = 5 && s.otp.revoked.contains (imgNum c 5 1)) then 6
  else if (imgNum c 4 1 = 3 && decide (4 ≤ s.otp.owners.length)) ||
    (imgNum c 4 1 = 4 && decide (s.otp.svn < imgNum c 96 2) && decide (64 ≤ s.otp.svnSteps)) then 7
  else 0

theorem checkCmd_eq (s : State) (c : List Byte) : s.checkCmd c =
    if malformed c then 1 else if imgBytes c 16 32 ≠ s.identity then 2 else if imgBytes c 48 32 ≠ s.regBytes Reg.SC_NONCE 8 then 3 else s.checkSigned c := rfl

theorem checkCmd_bad (h : badCommand c) : s.checkCmd c = 1 := (checkCmd_eq s c).trans (if_pos (malformed_iff.mpr h))

theorem checkCmd_formed (h : s.checkCmd c ≠ 1) : ¬ malformed c = true := fun hf => h ((checkCmd_eq s c).trans (if_pos hf))

theorem checkCmd_otherModule (h : s.checkCmd c ≠ 1) (hid : imgBytes c 16 32 ≠ s.identity) : s.checkCmd c = 2 :=
  (checkCmd_eq s c).trans ((if_neg (checkCmd_formed h)).trans (if_pos hid))

theorem checkCmd_otherNonce (h : s.checkCmd c ≠ 1) (hid : imgBytes c 16 32 = s.identity) (hn : imgBytes c 48 32 ≠ s.regBytes Reg.SC_NONCE 8) :
    s.checkCmd c = 3 :=
  (checkCmd_eq s c).trans ((if_neg (checkCmd_formed h)).trans ((if_neg (not_not_intro hid)).trans (if_pos hn)))

/-- What a command that passes every check has passed. -/
theorem checkCmd_passed (h : s.checkCmd c = 0) : imgBytes c 48 32 = s.regBytes Reg.SC_NONCE 8 ∧ s.checkSigned c = 0 := by
  rw [checkCmd_eq] at h
  split at h
  · exact absurd h (by decide)
  · split at h
    · exact absurd h (by decide)
    · split at h
      · exact absurd h (by decide)
      · next hn => exact ⟨not_not.mp hn, h⟩

theorem lcStep_mem {a b : Nat} (h : lcStep a b = true) : (a, b) ∈ [(0, 1), (1, 2), (1, 3), (2, 3)] := by
  unfold lcStep at h
  split at h
  · decide
  · decide
  · decide
  · decide
  · exact absurd h (by decide)

theorem checkSigned_passed (h : s.checkSigned c = 0) :
    s.signedBy (imgNum c 4 1) (imgNum c 5 1) (imgNum c 8 1 % 2) (c.take 192) (imgBytes c 192 64) = true ∧
      (imgNum c 4 1 = 2 → (s.otp.lc, imgNum c 5 1) ∈ [(0, 1), (1, 2), (1, 3), (2, 3)]) ∧ (imgNum c 4 1 = 3 → s.otp.owners.length < 4) ∧
      (imgNum c 4 1 = 4 → s.otp.svn ≤ imgNum c 96 2) := by
  unfold State.checkSigned at h
  split at h
  · exact absurd h (by decide)
  next hsig =>
  split at h
  · exact absurd h (by decide)
  split at h
  · exact absurd h (by decide)
  next hstep =>
  split at h
  · exact absurd h (by decide)
  next hroom =>
  simp only [Bool.or_eq_true, Bool.and_eq_true, decide_eq_true_eq, Bool.not_eq_true', not_or, not_and, Bool.not_eq_false] at hsig hstep hroom
  obtain ⟨⟨hlc, hsvn⟩, -⟩ := hstep
  exact ⟨hsig, fun h => lcStep_mem (hlc h), fun h => Nat.not_le.mp (hroom.1 h), fun h => Nat.not_lt.mp (hsvn h)⟩

end Checks

/-! ### Fuses, nonces and measurements (R409 to R413) -/

section Fuses

variable {s : State} {n : Nat}

theorem burnLc_shows (hn : n < 4) : (s.burnLc n).fld Reg.SC_LC 2 3 = n + 4 :=
  (State.fld_setFld_self _ _ _ (by decide)).trans (Nat.mod_eq_of_lt (by omega))

theorem burnSvn_shows : (s.burnSvn n).fld Reg.SC_LC 13 16 = n % 2 ^ 16 := State.fld_setFld_self _ _ _ (by decide)

theorem revokeSlot_shows (hn : n < 4) : (s.revokeSlot n).bit Reg.SC_LC (5 + n) = true := State.bit_setBit_self _ _ _ (by omega)

theorem extendWrite_refused {v : Word} (hup : s.secUp = true) (hn : bitsOf v.toNat 0 4 < 12) : s.extendWrite v = s.setBit Reg.SC_STATUS 4 true :=
  (if_neg (by rw [hup]; decide)).trans (if_pos hn)

theorem extendWrite_extends {v : Word} (hup : s.secUp = true) (hn : 12 ≤ bitsOf v.toNat 0 4) :
    s.extendWrite v = s.extendMeas (bitsOf v.toNat 0 4) (s.regBytes Reg.SC_EXT_VALUE 8) :=
  (if_neg (by rw [hup]; decide)).trans (if_neg (Nat.not_lt.mpr hn))

theorem extendMeas_meas (l : List Byte) : (s.extendMeas n l).regBytes (Reg.SC_MEAS n) 8 = sm3 (s.regBytes (Reg.SC_MEAS n) 8 ++ l) :=
  regBytes_setRegBytes_all (scMeas_injective n) (sm3_length _)

theorem extendMeas_frame {γ : Type} (g : State → γ) (hg : ∀ s a v, g (State.wr s a v) = g s) (l : List Byte) : g (s.extendMeas n l) = g s :=
  setRegBytes_frame g hg ..

end Fuses

/-! ### Quotes (R414, R415) -/

section Quotes

variable {s : State} {v : Word}

/-- The mask stored. -/
def State.maskStored (s : State) (v : Word) : State := s.setFld Reg.SC_CTL 16 16 (bitsOf v.toNat 16 16)

theorem maskStored_mask : (s.maskStored v).fld Reg.SC_CTL 16 16 = bitsOf v.toNat 16 16 :=
  (State.fld_setFld_self _ _ _ (by decide)).trans (Nat.mod_eq_of_lt (Nat.mod_lt _ (by decide)))

theorem maskStored_secUp : (s.maskStored v).secUp = s.secUp := by
  unfold State.secUp
  rw [State.maskStored, State.setFld_power]

theorem maskStored_crippled : (s.maskStored v).fw.crippled = s.fw.crippled := congrArg FwSt.crippled (State.setFld_fw ..)

theorem maskStored_busy : (s.maskStored v).bit Reg.SC_STATUS 1 = s.bit Reg.SC_STATUS 1 := State.bit_setFld_other _ _ _ _ _ (by decide)

/-- A quote of bytes put into SC_QUOTE with its signature. -/
def State.putQuote (s : State) (m : List Byte) : State :=
  State.setBit ((s.signIdentity m).1.setRegBytes Reg.SC_QUOTE 184
    ((m ++ (s.signIdentity m).2) ++ List.replicate (736 - (m ++ (s.signIdentity m).2).length) 0#8)) Reg.SC_STATUS 3 true

theorem quoteGo_eq (s : State) (v : Word) : s.quoteGo v =
    if !bitOf v.toNat 2 || !(s.maskStored v).secUp || (s.maskStored v).bit Reg.SC_STATUS 1 then s.maskStored v
    else if (s.maskStored v).fw.crippled then (s.maskStored v).setBit Reg.SC_STATUS 1 true
    else (s.maskStored v).putQuote ((s.maskStored v).quoteBytes ((s.maskStored v).fld Reg.SC_CTL 16 16)) := rfl

theorem quoteGo_none (h : bitOf v.toNat 2 = false ∨ s.secUp = false ∨ s.bit Reg.SC_STATUS 1 = true) : s.quoteGo v = s.maskStored v := by
  rw [quoteGo_eq, maskStored_secUp, maskStored_crippled, maskStored_busy]
  exact if_pos (by simpa only [Bool.or_eq_true, Bool.not_eq_true', or_assoc] using h)

section Starts

variable (hgo : bitOf v.toNat 2 = true) (hup : s.secUp = true) (h : s.bit Reg.SC_STATUS 1 = false)
include hgo hup h

theorem quoteGo_crippled (hcr : s.fw.crippled = true) : s.quoteGo v = (s.maskStored v).setBit Reg.SC_STATUS 1 true := by
  rw [quoteGo_eq, maskStored_secUp, maskStored_crippled, maskStored_busy, hgo, hup, h, hcr]
  rfl

theorem quoteGo_quotes (hcr : s.fw.crippled = false) : s.quoteGo v = (s.maskStored v).putQuote ((s.maskStored v).quoteBytes (bitsOf v.toNat 16 16)) := by
  rw [quoteGo_eq, maskStored_secUp, maskStored_crippled, maskStored_busy, maskStored_mask, hgo, hup, h, hcr]
  rfl

end Starts

theorem quoteBytes_length (s : State) (mask : Nat) : (s.quoteBytes mask).length = 160 + 32 * ((List.range 16).filter (bitOf mask)).length := by
  have hmeas : ∀ l : List Nat, (l.flatMap (fun n => s.regBytes (Reg.SC_MEAS n) 8)).length = 32 * l.length := by
    intro l
    induction l with
    | nil => rfl
    | cons n l ih =>
      rw [List.flatMap_cons, List.length_append, ih, regBytes_length, List.length_cons]
      omega
  unfold State.quoteBytes
  simp only [List.length_append, hmeas, regBytes_length, List.length_replicate, State.identity, length_flatMap_toBytes (fun a => a), List.length_cons,
    List.length_nil]

theorem quoteBytes_length_le (s : State) (mask : Nat) : 160 ≤ (s.quoteBytes mask).length ∧ (s.quoteBytes mask).length ≤ 672 := by
  have hregs : ((List.range 16).filter (bitOf mask)).length ≤ 16 := List.length_filter_le _ _
  rw [quoteBytes_length]
  omega

theorem signIdentity_mem (m : List Byte) : (s.signIdentity m).1.mem = s.mem := by
  unfold State.signIdentity
  dsimp only
  split <;> rfl

theorem putQuote_mem (m : List Byte) : (s.putQuote m).mem = s.mem :=
  (State.setBit_mem ..).trans ((setRegBytes_frame State.mem (fun _ _ _ => rfl) ..).trans (signIdentity_mem m))

theorem putQuote_done (m : List Byte) : (s.putQuote m).bit Reg.SC_STATUS 3 = true := State.bit_setBit_self _ _ _ (by decide)

/-- SC_QUOTE begins with the bytes quoted. -/
theorem putQuote_bytes {m : List Byte} (hm : m.length ≤ 736) : ((s.putQuote m).regBytes Reg.SC_QUOTE 184).take m.length = m := by
  have hother : ∀ i, i < 184 → (s.putQuote m).rd (Reg.SC_QUOTE i) = ((s.signIdentity m).1.setRegBytes Reg.SC_QUOTE 184
      ((m ++ (s.signIdentity m).2) ++ List.replicate (736 - (m ++ (s.signIdentity m).2).length) 0#8)).rd (Reg.SC_QUOTE i) :=
    fun i _ => State.rd_setBit_other _ _ _ (by unfold Reg.SC_QUOTE Reg.SC_STATUS; omega)
  rw [regBytes_congr hother, regBytes_setRegBytes scQuote_injective (by simp only [List.length_append, List.length_replicate]; omega),
    List.take_take, min_eq_left hm, List.append_assoc, List.take_left]

end Quotes

/-! ### Debug levels (R417 to R419) -/

section Levels

variable {s : State} {level signer seconds : Nat} {d : List Byte}

theorem noteLevel_rd {r : Nat} (h : ∀ i, i < 8 → r ≠ Reg.SC_MEAS 5 i) : (s.noteLevel level signer d).rd r = s.rd r :=
  (State.rd_congr (raise_regs _ _ (by decide) _ _) _).trans (rd_setRegBytes_other _ h)

theorem noteLevel_debug : (s.noteLevel level signer d).rd Reg.SC_DEBUG = s.rd Reg.SC_DEBUG :=
  noteLevel_rd (fun i _ => by unfold Reg.SC_DEBUG Reg.SC_MEAS; omega)

theorem noteLevel_mem : (s.noteLevel level signer d).mem = s.mem := (State.raise_mem ..).trans (extendMeas_frame State.mem (fun _ _ _ => rfl) _)
theorem noteLevel_otp : (s.noteLevel level signer d).otp = s.otp := (State.raise_otp ..).trans (extendMeas_frame State.otp (fun _ _ _ => rfl) _)
theorem noteLevel_sec : (s.noteLevel level signer d).sec = s.sec := (State.raise_sec ..).trans (extendMeas_frame State.sec (fun _ _ _ => rfl) _)

theorem noteLevel_evq : ∃ e, (s.noteLevel level signer d).evq = s.evq ++ [e] ∧ e.code = .DEBUG_LEVEL :=
  ⟨_, (raise_evq ..).trans (congrArg (· ++ _) (extendMeas_frame State.evq (fun _ _ _ => rfl) _)), rfl⟩

theorem putLevel_field : (s.putLevel level signer seconds).fld Reg.SC_DEBUG 0 19 = (level + signer * 4 + seconds * 8) % 2 ^ 19 :=
  State.fld_setFld_self s _ _ (by decide)

theorem putLevel_level (hl : level < 4) : (s.putLevel level signer seconds).debugLevel = level := by
  have hlow : bitsOf ((s.putLevel level signer seconds).rd Reg.SC_DEBUG).toNat 0 19 = bitsOf (level + signer * 4 + seconds * 8) 0 19 :=
    putLevel_field.trans (by rw [bitsOf_eq_div_mod]; norm_num)
  refine (bitsOf_lower hlow (by decide)).trans ?_
  rw [bitsOf_eq_div_mod]
  omega

theorem putLevel_epoch : (s.putLevel level signer seconds).debugEpoch = s.debugEpoch := State.fld_setFld_apart s _ _ (by decide) (by decide)

theorem putLevel_until : (s.putLevel level signer 0).sec.levelUntil = none := rfl

theorem putLevel_mem : (s.putLevel level signer seconds).mem = s.mem := State.setFld_mem s Reg.SC_DEBUG 0 19 (level + signer * 4 + seconds * 8)
theorem putLevel_otp : (s.putLevel level signer seconds).otp = s.otp := State.setFld_otp s Reg.SC_DEBUG 0 19 (level + signer * 4 + seconds * 8)
theorem putLevel_evq : (s.putLevel level signer seconds).evq = s.evq := State.setFld_evq s Reg.SC_DEBUG 0 19 (level + signer * 4 + seconds * 8)

/-- The level falling to OFF. -/
def State.offNoted (s : State) : State := ((s.drawBytes 32).2.putLevel 0 0 0).noteLevel 0 0 (s.drawBytes 32).1

theorem levelOff_noted (h : s.debugLevel ≠ 0) : s.levelOff = s.offNoted := if_neg h

theorem offNoted_shows : s.offNoted.debugLevel = 0 ∧ s.offNoted.sec.levelUntil = none ∧ s.offNoted.mem = s.mem ∧ s.offNoted.otp = s.otp ∧
    ∃ e, s.offNoted.evq = s.evq ++ [e] ∧ e.code = .DEBUG_LEVEL :=
  ⟨(fld_of_rd noteLevel_debug 0 2).trans (putLevel_level (by decide)), (congrArg SecSt.levelUntil noteLevel_sec).trans putLevel_until, noteLevel_mem,
    noteLevel_otp, noteLevel_evq⟩

end Levels

/-! ### Entry to a level -/

section Entry

variable {s : State} {level signer seconds : Nat} {d : List Byte}

theorem countInvasive_otp : s.countInvasive.otp.invasive = s.otp.invasive + 1 := by
  simp only [State.countInvasive, State.count, State.setFld_otp]

theorem fld_fuses (s : State) (o : OtpSt) (a lo n : Nat) : State.fld { s with otp := o } a lo n = s.fld a lo n := rfl

theorem countInvasive_epoch : s.countInvasive.debugEpoch = (s.debugEpoch + 1) % 2 ^ 13 := by
  have hother : Reg.SC_DEBUG ≠ Reg.SC_PWR_HIST 7 := by decide
  have hdebug : (s.setFld Reg.SC_DEBUG 19 13 (s.debugEpoch + 1)).debugEpoch = (s.debugEpoch + 1) % 2 ^ 13 := State.fld_setFld_self s _ _ (by decide)
  refine Eq.trans ?_ hdebug
  generalize hv : s.setFld Reg.SC_DEBUG 19 13 (s.debugEpoch + 1) = v
  unfold State.countInvasive
  rw [hv]
  exact (State.fld_setFld_other _ _ _ _ _ _ hother).trans (fld_fuses v _ _ _ _)

theorem countInvasive_mem : s.countInvasive.mem = s.mem := by
  simp only [State.countInvasive, State.count, State.setFld_mem]

theorem countInvasive_evq : s.countInvasive.evq = s.evq := by
  simp only [State.countInvasive, State.count, State.setFld_evq]

/-- A level that is no entry to INVASIVE. -/
theorem enterLevel_other (hl : level ≠ 2) (hc : level ≠ s.debugLevel) :
    s.enterLevel level signer seconds d = (s.noteLevel level signer d).putLevel level signer seconds := by
  unfold State.enterLevel
  simp only [hl, hc, ne_eq, not_false_eq_true, decide_false, Bool.false_and, Bool.false_eq_true, if_false, if_true]

/-- Entry to INVASIVE outside FIELD. -/
theorem enterLevel_invasive (h : s.debugLevel ≠ 2) (hlc : s.lifeCycle ≠ 2) :
    s.enterLevel 2 signer seconds d = (s.countInvasive.noteLevel 2 signer d).putLevel 2 signer seconds := by
  unfold State.enterLevel
  simp only [h, h.symm, hlc, ne_eq, not_false_eq_true, decide_true, decide_false, Bool.and_true, Bool.and_false, Bool.false_eq_true, if_false, if_true]

/-- Entry to INVASIVE in FIELD (R419). -/
theorem enterLevel_field (h : s.debugLevel ≠ 2) (hlc : s.lifeCycle = 2) : s.enterLevel 2 signer seconds d =
    State.putLevel ((((s.keysGone.countInvasive).deriveSr.stopAll true).wipeJobs s.jobBanks).noteLevel 2 signer d) 2 signer seconds := by
  unfold State.enterLevel
  simp only [h, h.symm, hlc, ne_eq, not_false_eq_true, decide_true, Bool.and_true, if_true]

theorem keysGone_otp : s.keysGone.otp = s.otp := by
  unfold State.keysGone State.setStatus
  split <;> rfl

theorem keysGone_sec : s.keysGone.sec = s.zeroise.sec := by
  unfold State.keysGone State.setStatus
  split <;> rfl

theorem keysGone_status : s.keysGone.bit Reg.SC_STATUS 5 = true := bit_setStatus_self _ _ _ _ _ _ (by decide) (by decide)

end Entry

/-! ### Levels written from outside, and a level's end -/

section LevelWrites

variable {s : State} {v : Word}

/-- The bytes that MEAS_5 takes up where no command made a change, and the state that has drawn them. -/
def State.digestDrawn (s : State) : State := (s.drawBytes 32).2

theorem digestDrawn_fld (a lo n : Nat) : s.digestDrawn.fld a lo n = s.fld a lo n := State.fld_congr rfl a lo n
theorem digestDrawn_mem : s.digestDrawn.mem = s.mem := rfl
theorem digestDrawn_evq : s.digestDrawn.evq = s.evq := rfl
theorem digestDrawn_otp : s.digestDrawn.otp = s.otp := rfl

/-- The level asked for. -/
def askedLevel (v : Word) : Nat := bitsOf v.toNat 0 2

theorem levelWrite_none (h : s.secUp = false ∨ askedLevel v = 3 ∨ askedLevel v = s.debugLevel ∨ s.debugLevel < askedLevel v ∧ s.lifeCycle ≠ 0) :
    s.levelWrite v = s := by
  by_cases hout : (!s.secUp || askedLevel v = 3 || askedLevel v = s.debugLevel) = true
  · exact if_pos hout
  · refine (if_neg hout).trans ?_
    simp only [Bool.or_eq_true, Bool.not_eq_true', decide_eq_true_eq, or_assoc] at hout
    obtain ⟨hlt, hlc⟩ : s.debugLevel < askedLevel v ∧ s.lifeCycle ≠ 0 := by tauto
    exact (if_neg (Nat.not_lt.mpr hlt.le)).trans (if_neg hlc)

section Taken

variable (hup : s.secUp = true)
include hup

theorem levelWrite_passes (h3 : askedLevel v ≠ 3) (hne : askedLevel v ≠ s.debugLevel) :
    ¬ (!s.secUp || decide (askedLevel v = 3) || decide (askedLevel v = s.debugLevel)) = true := by
  rw [hup, decide_eq_false h3, decide_eq_false hne]
  decide

theorem levelWrite_lowers (h : askedLevel v < s.debugLevel) : s.levelWrite v = if askedLevel v = 0 then s.levelOff
    else (s.digestDrawn.setFld Reg.SC_DEBUG 0 2 (askedLevel v)).noteLevel (askedLevel v) (s.fld Reg.SC_DEBUG 2 1) (s.drawBytes 32).1 := by
  have hlevel : s.debugLevel < 4 := State.fld_lt ..
  exact (if_neg (levelWrite_passes hup (by omega) (by omega))).trans (if_pos h)

theorem levelWrite_raises (h : s.debugLevel < askedLevel v) (h3 : askedLevel v < 3) (hlc : s.lifeCycle = 0) :
    s.levelWrite v = s.digestDrawn.enterLevel (askedLevel v) 0 0 (s.drawBytes 32).1 :=
  (if_neg (levelWrite_passes hup (by omega) (by omega))).trans ((if_neg (Nat.not_lt.mpr h.le)).trans (if_pos hlc))

end Taken

/-- A lower level that is not OFF. -/
def State.lowered (s : State) (n : Nat) : State := (s.digestDrawn.setFld Reg.SC_DEBUG 0 2 n).noteLevel n (s.fld Reg.SC_DEBUG 2 1) (s.drawBytes 32).1

theorem lowered_shows {n : Nat} (hn : n < 4) : (s.lowered n).debugLevel = n ∧ (s.lowered n).mem = s.mem ∧ (s.lowered n).otp = s.otp ∧
    ∃ e, (s.lowered n).evq = s.evq ++ [e] ∧ e.code = .DEBUG_LEVEL := by
  obtain ⟨e, he, hcode⟩ := noteLevel_evq (s := s.digestDrawn.setFld Reg.SC_DEBUG 0 2 n) (level := n) (signer := s.fld Reg.SC_DEBUG 2 1) (d := (s.drawBytes 32).1)
  rw [State.setFld_evq, digestDrawn_evq] at he
  refine ⟨(fld_of_rd noteLevel_debug 0 2).trans ((State.fld_setFld_self _ _ _ (by decide)).trans (Nat.mod_eq_of_lt hn)), ?_, ?_, e, he, hcode⟩
  · exact noteLevel_mem.trans ((State.setFld_mem ..).trans digestDrawn_mem)
  · exact noteLevel_otp.trans ((State.setFld_otp ..).trans digestDrawn_otp)

/-- A level other than INVASIVE raised in BLANK. -/
def State.leanRaised (s : State) (n : Nat) : State := (s.digestDrawn.noteLevel n 0 (s.drawBytes 32).1).putLevel n 0 0

theorem leanRaised_shows {n : Nat} (hn : n < 4) : (s.leanRaised n).debugLevel = n ∧ (s.leanRaised n).mem = s.mem ∧
    (∃ e, (s.leanRaised n).evq = s.evq ++ [e] ∧ e.code = .DEBUG_LEVEL) ∧ (s.leanRaised n).sec.levelUntil = none ∧ (s.leanRaised n).otp = s.otp ∧
    (s.leanRaised n).debugEpoch = s.debugEpoch := by
  obtain ⟨e, he, hcode⟩ := noteLevel_evq (s := s.digestDrawn) (level := n) (signer := 0) (d := (s.drawBytes 32).1)
  refine ⟨putLevel_level hn, ?_, ⟨e, putLevel_evq.trans (he.trans (congrArg (· ++ [e]) digestDrawn_evq)), hcode⟩, putLevel_until, ?_, ?_⟩
  · exact putLevel_mem.trans (noteLevel_mem.trans digestDrawn_mem)
  · exact putLevel_otp.trans (noteLevel_otp.trans digestDrawn_otp)
  · exact putLevel_epoch.trans ((fld_of_rd noteLevel_debug 19 13).trans (digestDrawn_fld ..))

/-- INVASIVE entered in BLANK. -/
def State.invasiveRaised (s : State) : State := (s.digestDrawn.countInvasive.noteLevel 2 0 (s.drawBytes 32).1).putLevel 2 0 0

theorem invasiveRaised_shows : s.invasiveRaised.debugLevel = 2 ∧ s.invasiveRaised.mem = s.mem ∧
    (∃ e, s.invasiveRaised.evq = s.evq ++ [e] ∧ e.code = .DEBUG_LEVEL) ∧ s.invasiveRaised.sec.levelUntil = none ∧
    s.invasiveRaised.otp.invasive = s.otp.invasive + 1 ∧ s.invasiveRaised.debugEpoch = (s.debugEpoch + 1) % 2 ^ 13 := by
  obtain ⟨e, he, hcode⟩ := noteLevel_evq (s := s.digestDrawn.countInvasive) (level := 2) (signer := 0) (d := (s.drawBytes 32).1)
  have hepoch : s.digestDrawn.debugEpoch = s.debugEpoch := digestDrawn_fld ..
  rw [countInvasive_evq, digestDrawn_evq] at he
  refine ⟨putLevel_level (by decide), ?_, ⟨e, putLevel_evq.trans he, hcode⟩, putLevel_until, ?_, ?_⟩
  · exact putLevel_mem.trans (noteLevel_mem.trans (countInvasive_mem.trans digestDrawn_mem))
  · exact (congrArg OtpSt.invasive (putLevel_otp.trans noteLevel_otp)).trans (countInvasive_otp.trans (by rw [digestDrawn_otp]))
  · refine putLevel_epoch.trans ((fld_of_rd noteLevel_debug 19 13).trans (countInvasive_epoch.trans ?_))
    rw [hepoch]

theorem levelWrite_lean (hup : s.secUp = true) (h : s.debugLevel < askedLevel v) (h1 : askedLevel v = 1) (hlc : s.lifeCycle = 0) :
    s.levelWrite v = s.leanRaised 1 := by
  have hlevel : (1 : Nat) ≠ s.digestDrawn.debugLevel := by
    rw [show s.digestDrawn.debugLevel = s.debugLevel from digestDrawn_fld ..]
    omega
  rw [levelWrite_raises hup h (by omega) hlc, h1]
  exact enterLevel_other (by decide) hlevel

theorem levelWrite_invasive (hup : s.secUp = true) (h : s.debugLevel < askedLevel v) (h2 : askedLevel v = 2) (hlc : s.lifeCycle = 0) :
    s.levelWrite v = s.invasiveRaised := by
  have hlevel : s.digestDrawn.debugLevel ≠ 2 := by
    rw [show s.digestDrawn.debugLevel = s.debugLevel from digestDrawn_fld ..]
    omega
  have hcycle : s.digestDrawn.lifeCycle ≠ 2 := by
    rw [show s.digestDrawn.lifeCycle = s.lifeCycle from digestDrawn_fld ..]
    omega
  rw [levelWrite_raises hup h (by omega) hlc, h2]
  exact enterLevel_invasive hlevel hcycle

theorem durationEnd_none (h : s.sec.levelUntil = none) : s.durationEnd = s := by
  unfold State.durationEnd
  rw [h]

theorem durationEnd_until {at_ : Nat} (h : s.sec.levelUntil = some at_) : s.durationEnd = if at_ ≤ s.usecN.toNat then s.levelOff else s := by
  unfold State.durationEnd
  rw [h]

end LevelWrites

/-- Settles O58: commands through `signedCmd`, checks through `checkCmd_eq`, quotes through `putQuote`, levels through the state each leaves.
Which code a failing command has, and the counted entries to INVASIVE, are log entry 79; that a crippled module keeps CMD and QUOTE busy is
log entry 83: the model's choices. -/
theorem securityCommands : Obligations.SecurityCommands := by
  unfold Obligations.SecurityCommands
  refine ⟨⟨fun s row c hrow => ?rows, fun s c => ?checks, fun s k n => ?fuses, fun s v => ?measures⟩,
    fun s v => ?quotes, fun s v => ?levels, fun s => ?ends, fun s signer seconds d hlevel hsigner hseconds => ?entry⟩
  case rows =>
    obtain ⟨hits, misses⟩ := exec_signedRow hrow s c
    refine ⟨fun h => ?_, fun hop hup hc => ⟨fun hb => ?_, fun hb hcr => ?_⟩, fun hop hup hb hcr hc => ⟨fun hcode => ?_, fun hcode => ?_⟩⟩
    · by_cases hop : row.2 (imgNum c 4 1)
      · exact (hits hop).trans (congrArg Host.Outcome.next (signedCmd_down (secUp_false (h.resolve_left (not_not_intro hop)))))
      · exact misses hop
    · exact (hits hop).trans (congrArg Host.Outcome.next (signedCmd_busy (secUp_iff.mpr hup) hc hb))
    · exact (hits hop).trans (congrArg Host.Outcome.next (signedCmd_crippled (secUp_iff.mpr hup) hc hb hcr))
    · exact (hits hop).trans (congrArg Host.Outcome.next (signedCmd_fails (secUp_iff.mpr hup) hc hb hcr hcode))
    · have runs {t : State} (ht : (s.cmdStored c).runCmd c = t) : exec (row.1 c) s = .next (t.cmdEnds ((s.cmdStored c).checkCmd c)) :=
        (hits hop).trans (congrArg Host.Outcome.next (signedCmd_runs (secUp_iff.mpr hup) hc hb hcr hcode ht))
      exact ⟨fun h => runs (runCmd_debug h), fun h => runs (runCmd_lc h), fun h => runs (runCmd_owner h), fun h => runs (runCmd_svn h),
        fun h => runs (runCmd_revoke h)⟩
  case checks =>
    refine ⟨checkCmd_bad, checkCmd_otherModule, checkCmd_otherNonce, fun h => ?_⟩
    obtain ⟨hnonce, hsigned⟩ := checkCmd_passed h
    exact ⟨hnonce, checkSigned_passed hsigned⟩
  case fuses => exact ⟨rfl, burnLc_shows, rfl, rfl, burnSvn_shows, rfl, revokeSlot_shows⟩
  case measures =>
    refine ⟨fun h => ⟨?_, ?_⟩, fun hup => ?_, fun hup hn => ?_, fun hup hn => ?_⟩
    · exact congrArg Host.Outcome.next (if_neg (by rw [secUp_false h]; exact Bool.false_ne_true))
    · exact congrArg Host.Outcome.next (if_pos (by rw [secUp_false h]; rfl))
    · exact congrArg Host.Outcome.next (if_pos (secUp_iff.mpr hup))
    · exact congrArg Host.Outcome.next (extendWrite_refused (secUp_iff.mpr hup) hn)
    · exact ⟨_, congrArg Host.Outcome.next (extendWrite_extends (secUp_iff.mpr hup) hn), extendMeas_meas _, extendMeas_frame State.mem (fun _ _ _ => rfl) _,
        extendMeas_frame State.otp (fun _ _ _ => rfl) _⟩
  case quotes =>
    obtain ⟨hmin, hmax⟩ := quoteBytes_length_le (s.maskStored v) (bitsOf v.toNat 16 16)
    refine ⟨fun h => congrArg Host.Outcome.next (quoteGo_none (h.imp_right (Or.imp_left secUp_false))),
      fun hgo hup hb hcr => congrArg Host.Outcome.next (quoteGo_crippled hgo (secUp_iff.mpr hup) hb hcr), fun hgo hup hb hcr => ?_⟩
    exact ⟨_, congrArg Host.Outcome.next (quoteGo_quotes hgo (secUp_iff.mpr hup) hb hcr), putQuote_done _, (putQuote_mem _).trans (State.setFld_mem ..), hmin, hmax,
      putQuote_bytes (hmax.trans (by decide))⟩
  case levels =>
    refine ⟨fun h => congrArg Host.Outcome.next (levelWrite_none (h.imp_left secUp_false)), fun hup hlt => ?_, fun hup hlt h3 hlc => ?_⟩
    · have hlow := levelWrite_lowers (v := v) (secUp_iff.mpr hup) hlt
      have hlevel : s.debugLevel < 4 := State.fld_lt ..
      by_cases h0 : askedLevel v = 0
      · obtain ⟨hoff, huntil, hmem, hotp, e, he, hcode⟩ := offNoted_shows (s := s)
        refine ⟨s.offNoted, e, congrArg Host.Outcome.next (hlow.trans ((if_pos h0).trans (levelOff_noted ?_))), hoff.trans h0.symm, hmem, hotp, he, hcode, fun _ => huntil⟩
        exact Nat.ne_zero_of_lt hlt
      · obtain ⟨hnew, hmem, hotp, e, he, hcode⟩ := lowered_shows (s := s) (n := askedLevel v) (hlt.trans hlevel)
        exact ⟨s.lowered (askedLevel v), e, congrArg Host.Outcome.next (hlow.trans (if_neg h0)), hnew, hmem, hotp, he, hcode, fun h => absurd h h0⟩
    · obtain h1 | h2 : askedLevel v = 1 ∨ askedLevel v = 2 := by
        unfold askedLevel
        omega
      · obtain ⟨hnew, hmem, ⟨e, he, hcode⟩, huntil, hotp, hepoch⟩ := leanRaised_shows (s := s) (n := 1) (by decide)
        exact ⟨s.leanRaised 1, e, congrArg Host.Outcome.next (levelWrite_lean (secUp_iff.mpr hup) hlt h1 hlc), hnew.trans h1.symm, hmem, he, hcode, huntil,
          fun h => absurd (h1.symm.trans h) (by decide), fun _ => ⟨hotp, hepoch⟩⟩
      · obtain ⟨hnew, hmem, ⟨e, he, hcode⟩, huntil, hinvasive, hepoch⟩ := invasiveRaised_shows (s := s)
        exact ⟨s.invasiveRaised, e, congrArg Host.Outcome.next (levelWrite_invasive (secUp_iff.mpr hup) hlt h2 hlc), hnew.trans h2.symm, hmem, he, hcode, huntil,
          fun _ => ⟨hepoch, hinvasive⟩, fun h => absurd (h2.symm.trans h) (by decide)⟩
  case ends =>
    refine ⟨fun h => congrArg Host.Outcome.next (durationEnd_none h), fun at_ h => ⟨fun hlt => ?_, fun hle h0 => ?_, fun hle h0 => ?_⟩⟩
    · exact congrArg Host.Outcome.next ((durationEnd_until h).trans (if_neg (Nat.not_le.mpr hlt)))
    · exact congrArg Host.Outcome.next ((durationEnd_until h).trans ((if_pos hle).trans (if_pos h0)))
    · obtain ⟨hoff, huntil, hmem, -, e, he, hcode⟩ := offNoted_shows (s := s)
      exact ⟨s.offNoted, e, congrArg Host.Outcome.next ((durationEnd_until h).trans ((if_pos hle).trans (levelOff_noted h0))), hoff, huntil, hmem, he, hcode⟩
  case entry =>
    refine ⟨fun hlc => ⟨?_, ?_⟩, fun hlc => enterLevel_field hlevel hlc, keysGone_status, ?_, ?_, ?_⟩
    · rw [enterLevel_invasive hlevel hlc]
      exact putLevel_level (by decide)
    · rw [enterLevel_invasive hlevel hlc]
      exact (congrArg OtpSt.invasive (putLevel_otp.trans noteLevel_otp)).trans countInvasive_otp
    · rw [keysGone_sec]
      rfl
    · rw [keysGone_sec]
      rfl
    · rw [countInvasive_otp, keysGone_otp]

end Sys2Proof.Machine
end

section
/-! PROOFS. The host's windows: configuration requests, BAR accesses, rings, interrupts and result slots; and the ends of a lease. -/

namespace Sys2Proof.Machine

/-! ### Configuration requests and BAR accesses (R366, R368) -/

/-- Bus Master Enable of a function as a command leaves it. -/
def State.setMaster (s : State) (f : Nat) (on : Bool) : State := { s with busMaster := s.busMaster.put false f on }

theorem setMaster_get (s : State) (f : Nat) (on : Bool) : (s.setMaster f on).busMaster.get false f = on := by
  unfold State.setMaster
  exact SMap.get_put_self ..

theorem setMaster_get_other (s : State) {f g : Nat} (on : Bool) (h : g ≠ f) : (s.setMaster f on).busMaster.get false g = s.busMaster.get false g := by
  unfold State.setMaster
  exact SMap.get_put_other _ _ _ _ h

/-- The agent of an access to a function's window. -/
def barAgent (f : Nat) (bank : Bool) : Agent := if bank then .owner 5 f else .outside

/-- Nothing holds back an access of a span whose banks are ready, and whose bridge has room where it goes to a bank. -/
theorem barFree {v : State} {ag : Agent} {bank write : Bool} {a n : Nat} (hready : v.spanReady ag write a n = true)
    (hheld : bank = true → v.barHeld a write = false) : ¬ (!v.spanReady ag write a n || (bank && v.barHeld a write)) = true := by
  rw [hready]
  cases bank with
  | false => exact Bool.false_ne_true
  | true =>
    rw [hheld rfl]
    decide

section Windows

variable {s : State} {f : Nat} (hf : f < 16) (hs1 : s.power.s1 = true)
include hf hs1

theorem configRequest_reaches (a b : State) : (if 16 ≤ f || !s.power.s1 then a else b) = b :=
  if_neg (by rw [hs1, decide_eq_false (Nat.not_le.mpr hf)]; decide)

theorem configRequest_retry (write : Option (Nat × Word)) (hb : s.fld Reg.PC_BOOT 0 3 < 2) (hu : s.usecN.toNat < 1000000) :
    s.configRequest f write = s.emit (.cfgRetry f) :=
  (configRequest_reaches hf hs1 _ _).trans (if_pos (by rw [decide_eq_true hb, decide_eq_true hu]; rfl))

section Answered

variable (h : 2 ≤ s.fld Reg.PC_BOOT 0 3 ∨ 1000000 ≤ s.usecN.toNat)
include h

omit hf hs1 in
theorem configRequest_answers (a b : State) : (if s.fld Reg.PC_BOOT 0 3 < 2 && decide (s.usecN.toNat < 1000000) then a else b) = b :=
  if_neg (by rw [Bool.and_eq_true, decide_eq_true_eq, decide_eq_true_eq]; omega)

theorem configRequest_read : s.configRequest f none = s.emit (.cfgAnswer f) :=
  (configRequest_reaches hf hs1 _ _).trans (configRequest_answers h _ _)

/-- A write of the Command register sets or clears Bus Master Enable. -/
theorem configRequest_command (v : Word) : s.configRequest f (some (4, v)) = (s.emit (.cfgAnswer f)).setMaster f (v.getLsbD 2) := by
  refine (configRequest_reaches hf hs1 _ _).trans ((configRequest_answers h _ _).trans ?_)
  cases hv : v.getLsbD 2 with
  | true => exact if_pos hv
  | false => exact if_neg (by rw [hv]; exact Bool.false_ne_true)

end Answered

section Bars

variable (hb : 3 ≤ s.fld Reg.PC_BOOT 0 3) {bank : Bool} {off size : Nat} {d : List Byte}
include hb

theorem barAccess_reaches (a b : State) : (if decide (16 ≤ f) || !s.power.s1 || decide (s.fld Reg.PC_BOOT 0 3 < 3) then a else b) = b :=
  if_neg (by rw [hs1, decide_eq_false (Nat.not_le.mpr hf), decide_eq_false (Nat.not_lt.mpr hb)]; decide)

theorem barAccess_readFails (h : s.barOk f bank (s.barAddr f bank off) size = false) :
    s.barAccess f bank off size none = s.emit (.readData (List.replicate size 0#8) false) :=
  (barAccess_reaches hf hs1 hb _ _).trans (if_pos (by rw [Bool.not_eq_true']; exact h))

theorem barAccess_writeDropped (h : s.barOk f bank (s.barAddr f bank off) d.length = false) : s.barAccess f bank off size (some d) = s :=
  (barAccess_reaches hf hs1 hb _ _).trans (if_pos (by rw [Bool.not_eq_true']; exact h))

theorem barAccess_reads (hok : s.barOk f bank (s.barAddr f bank off) size = true)
    (hready : (s.wakeSpan (barAgent f bank) false (s.barAddr f bank off) size).spanReady (barAgent f bank) false (s.barAddr f bank off) size = true)
    (hheld : bank = true → (s.wakeSpan (barAgent f bank) false (s.barAddr f bank off) size).barHeld (s.barAddr f bank off) false = false) :
    s.barAccess f bank off size none =
      let r := (s.wakeSpan (barAgent f bank) false (s.barAddr f bank off) size).readDev (barAgent f bank) (s.barAddr f bank off) size []
      r.1.emit (.readData r.2.1 r.2.2) :=
  (barAccess_reaches hf hs1 hb _ _).trans ((if_neg (by rw [hok]; decide)).trans (if_neg (barFree hready hheld)))

theorem barAccess_writes (hok : s.barOk f bank (s.barAddr f bank off) d.length = true)
    (hready : (s.wakeSpan (barAgent f bank) true (s.barAddr f bank off) d.length).spanReady (barAgent f bank) true (s.barAddr f bank off) d.length = true)
    (hheld : bank = true → (s.wakeSpan (barAgent f bank) true (s.barAddr f bank off) d.length).barHeld (s.barAddr f bank off) true = false) :
    s.barAccess f bank off size (some d) =
      (s.wakeSpan (barAgent f bank) true (s.barAddr f bank off) d.length).writeDev (barAgent f bank) (s.barAddr f bank off) d :=
  (barAccess_reaches hf hs1 hb _ _).trans ((if_neg (by rw [hok]; decide)).trans (if_neg (barFree hready hheld)))

end Bars

end Windows

/-! ### Rings and interrupts (R376, R377) -/

section Rings

variable {s : State} {f q : Nat}

theorem releaseRing_empty {r : Nat} (hw : (s.ring r).waiting = []) (hm : (s.fn (r / 16)).muted = false) (hb : s.busMaster.get false (r / 16) = true) :
    s.releaseRing r = s := by
  unfold State.releaseRing
  rw [hw, hm, hb]
  rfl

/-- HEAD moved on. -/
def State.headMoved (s : State) (f q : Nat) (v : Word) : State := s.setFld (Reg.PC_RING_PTR f q) 0 16 (v.toNat % 2 ^ 16)

theorem headMoved_head (v : Word) : (s.headMoved f q v).fld (Reg.PC_RING_PTR f q) 0 16 = v.toNat % 2 ^ 16 :=
  (State.fld_setFld_self _ _ _ (by decide)).trans (Nat.mod_mod _ _)

section InRange

variable (hf : f < 16) (hs1 : s.power.s1 = true) (hq : q < 16)
include hf hs1 hq

theorem ring_reaches (a b : State) : (if decide (16 ≤ f) || decide (16 ≤ q) || !s.power.s1 then a else b) = b :=
  if_neg (by rw [hs1, decide_eq_false (Nat.not_le.mpr hf), decide_eq_false (Nat.not_le.mpr hq)]; decide)

theorem ringHeadWrite_empty (hw : (s.ring (16 * f + q)).waiting = []) (hm : (s.fn f).muted = false) (hb : s.busMaster.get false f = true) (v : Word) :
    s.ringHeadWrite f q v = s.headMoved f q v := by
  have hfn : (16 * f + q) / 16 = f := by omega
  refine (ring_reaches hf hs1 hq _ _).trans ?_
  have hsame : (s.headMoved f q v).fns = s.fns ∧ (s.headMoved f q v).busMaster = s.busMaster ∧ (s.headMoved f q v).rings = s.rings := ⟨rfl, rfl, rfl⟩
  obtain ⟨hfns, hmaster, hrings⟩ := hsame
  refine releaseRing_empty (s := s.headMoved f q v) ?_ ?_ ?_
  · unfold State.ring at hw ⊢
    rwa [hrings]
  · unfold State.fn at hm ⊢
    rwa [hfns, hfn]
  · rwa [hmaster, hfn]

theorem ringConfigWrite_vector (hl : s.leaseLive f = true) (v : Word) :
    s.ringConfigWrite f q 8 v = s.setFld (Reg.PC_RING_CFG f q) 5 8 (bitsOf v.toNat 5 8) := (ring_reaches hf hs1 hq _ _).trans ((if_pos rfl).trans (if_pos hl))

theorem ringConfigWrite_baseHeld (hl : s.leaseLive f = true) {off : Nat} (ho : off = 0 ∨ off = 4) (v : Word) : s.ringConfigWrite f q off v = s :=
  (ring_reaches hf hs1 hq _ _).trans ((if_neg (by omega)).trans ((if_pos (by rw [Bool.or_eq_true, decide_eq_true_eq, decide_eq_true_eq]; exact ho)).trans (if_pos hl)))

theorem ringConfigWrite_base (hl : s.leaseLive f = false) (v : Word) : s.ringConfigWrite f q 0 v = (s.wr (Reg.PC_RING_BASE_LO f q) v).resetRing f q :=
  (ring_reaches hf hs1 hq _ _).trans ((if_neg (by decide)).trans ((if_pos rfl).trans (if_neg (by rw [hl]; exact Bool.false_ne_true))))

omit hs1 in
theorem modTimer_signals (hm : (s.fn f).muted = false) (hb : s.busMaster.get false f = true) : s.modTimer f q = s.signal (16 * f + q) :=
  if_neg (by rw [hm, hb, decide_eq_false (Nat.not_le.mpr hf), decide_eq_false (Nat.not_le.mpr hq)]; decide)

end InRange

theorem modTimer_stopped (h : (s.fn f).muted = true ∨ s.busMaster.get false f = false) : s.modTimer f q = s := by
  refine if_pos ?_
  simp only [Bool.or_eq_true, Bool.not_eq_true']
  tauto

end Rings

/-! ### Result slots (R378 to R380) and the capsule aperture (R385) -/

section Results

variable {s : State} {f : Nat} (hf : f < 16) (hs1 : s.power.s1 = true)
include hf hs1

section Slots

variable (hb : 3 ≤ s.fld Reg.PC_BOOT 0 3) {slot : Nat} (hslot : slot < 65536)
include hb hslot

omit hf hs1 hb hslot in
theorem result_setResult_self (s : State) (k : Nat) (v : ResultSt) : (s.setResult k v).result k = v := SMap.get_put_self ..

omit hf hs1 hb hslot in
theorem result_emit (s : State) (o : Out) (k : Nat) : (s.emit o).result k = s.result k := rfl

theorem retire_reaches (a b : State) : (if decide (16 ≤ f) || decide (65536 ≤ slot) || !s.power.s1 || decide (s.fld Reg.PC_BOOT 0 3 < 3) then a else b) = b :=
  if_neg (by rw [hs1, decide_eq_false (Nat.not_le.mpr hf), decide_eq_false (Nat.not_le.mpr hslot), decide_eq_false (Nat.not_lt.mpr hb)]; decide)

theorem retireSlot_frees {v : Word} (hst : (s.result (65536 * f + slot)).st = 2) (hseq : (s.result (65536 * f + slot)).seq = v.toNat) :
    s.retireSlot f slot v = s.setResult (65536 * f + slot) { reads := (s.result (65536 * f + slot)).reads } :=
  (retire_reaches hf hs1 hb hslot _ _).trans (if_pos (by rw [decide_eq_true hst, decide_eq_true hseq]; rfl))

theorem retireSlot_counts {v : Word} (h : (s.result (65536 * f + slot)).st ≠ 2 ∨ (s.result (65536 * f + slot)).seq ≠ v.toNat) :
    s.retireSlot f slot v = s.count (Reg.PC_COUNTS f) 0 16 1 :=
  (retire_reaches hf hs1 hb hslot _ _).trans (if_neg (by rw [Bool.and_eq_true, decide_eq_true_eq, decide_eq_true_eq]; tauto))

variable {off size : Nat} (hsize : 0 < size) (hend : off + size ≤ 4096)
include hsize hend

/-- The bytes that a read of a result slot sends. -/
def State.slotRead4K (s : State) (k off size : Nat) : List Byte :=
  if (s.result k).st = 2 then ((slotBytes4K (s.result k)).drop off).take size else List.replicate size 0#8

theorem resultRead_eq : s.resultRead f slot off size =
    (if off < 64 then s.setResult (65536 * f + slot)
        { s.result (65536 * f + slot) with reads := satTo (2 ^ 32 - 1) ((s.result (65536 * f + slot)).reads + 1) } else s).emit
      (.readData (s.slotRead4K (65536 * f + slot) off size) false) :=
  if_neg (by
    rw [hs1, decide_eq_false (Nat.not_le.mpr hf), decide_eq_false (Nat.not_le.mpr hslot), decide_eq_false (Nat.not_lt.mpr hb),
      decide_eq_false (Nat.not_lt.mpr hend), decide_eq_false hsize.ne']
    decide)

end Slots

variable {off size : Nat} (hoff : off < 0x100000)
include hoff

theorem aperture_reaches (a b : State) : (if decide (16 ≤ f) || decide (0x100000 ≤ off) || !s.power.s1 then a else b) = b :=
  if_neg (by rw [hs1, decide_eq_false (Nat.not_le.mpr hf), decide_eq_false (Nat.not_le.mpr hoff)]; decide)

theorem apertureWrite_malformed (h : size ≠ 128 ∨ off % 128 ≠ 0 ∨ s.takesCapsules = false) : s.apertureWrite f off size = s.malformed f :=
  (aperture_reaches hf hs1 hoff _ _).trans (if_pos (by simpa only [Bool.or_eq_true, decide_eq_true_eq, Bool.not_eq_true', or_assoc] using h))

theorem apertureWrite_overrun (hsize : size = 128) (hline : off % 128 = 0) (ht : s.takesCapsules = true)
    (hc : s.fld (Reg.PC_QUEUE_CREDITS f (off / 0x10000)) 0 9 = 0) : s.apertureWrite f off size = s.overrun f (off / 0x10000) :=
  (aperture_reaches hf hs1 hoff _ _).trans ((if_neg (by rw [ht, decide_eq_false (not_not_intro hsize), decide_eq_false (not_not_intro hline)]; decide)).trans (if_pos hc))

end Results

/-! ### The ends of a lease (R381 to R383) -/

section Leases

variable {s : State} {f : Nat}

theorem expireLease_expired (h : s.leaseLive f = false) : s.expireLease f = s := if_pos (by rw [h]; rfl)

/-- EXPIRED set, with its event. -/
def State.leaseRaised (s : State) (f : Nat) : State := (s.setBit (Reg.PC_LEASE f) 14 true).raise .HOST_LEASE_EXPIRED .info (srcFn f) [f]

/-- Orders 1 to 3 of the expiry of a function that holds no job slot. -/
def State.leaseNoted (s : State) (f : Nat) : State := (s.leaseRaised f).setFn f { (s.leaseRaised f).fn f with expiring := true }

/-- The expired lease of a function that holds no job slot. -/
def State.leaseEnded (s : State) (f : Nat) : State :=
  State.setFn ((s.leaseNoted f).closeWindows f) f { ((s.leaseNoted f).closeWindows f).fn f with expiring := false, muted := true }

theorem fn_setFn_self (s : State) (f : Nat) (v : FnSt) : (s.setFn f v).fn f = v := SMap.get_put_self ..

theorem setFn_rd (s : State) (f : Nat) (v : FnSt) (r : Nat) : (s.setFn f v).rd r = s.rd r := rfl
theorem setFn_closed (s : State) (f : Nat) (v : FnSt) : (s.setFn f v).closed = s.closed := rfl

theorem rd_leaseRaised {r : Nat} (h : r ≠ Reg.PC_LEASE f) : (s.leaseRaised f).rd r = s.rd r :=
  (State.rd_congr (raise_regs _ _ (by decide) _ _) r).trans (State.rd_setBit_other _ _ _ h)

theorem rd_leaseNoted {r : Nat} (h : r ≠ Reg.PC_LEASE f) : (s.leaseNoted f).rd r = s.rd r :=
  (setFn_rd ..).trans (rd_leaseRaised h)

theorem lease_masks : Reg.PC_JOB_MASK_LO f ≠ Reg.PC_LEASE f ∧ Reg.PC_JOB_MASK_HI f ≠ Reg.PC_LEASE f := by
  unfold Reg.PC_JOB_MASK_LO Reg.PC_JOB_MASK_HI Reg.PC_LEASE
  omega

theorem leaseRaised_slotsOf : (s.leaseRaised f).slotsOf f = s.slotsOf f :=
  slotsOf_congr (rd_leaseRaised lease_masks.1) (rd_leaseRaised lease_masks.2)

theorem leaseNoted_slotsOf : (s.leaseNoted f).slotsOf f = s.slotsOf f :=
  slotsOf_congr (rd_leaseNoted lease_masks.1) (rd_leaseNoted lease_masks.2)

/-- A deep window closed. -/
def State.closeWindow (s : State) (w : Nat) : State := { s with closed := s.closed.put false w true }

theorem closeWindow_self (s : State) (w : Nat) : (s.closeWindow w).closed.get false w = true := by
  unfold State.closeWindow
  dsimp only
  exact SMap.get_put_self ..

theorem closeWindow_other (s : State) {w x : Nat} (h : w ≠ x) : (s.closeWindow x).closed.get false w = s.closed.get false w := by
  unfold State.closeWindow
  dsimp only
  exact SMap.get_put_other _ _ _ _ h

theorem closeWindows_frame {γ : Type} (g : State → γ) (hg : ∀ (s : State) c, g { s with closed := c } = g s) (s : State) (f : Nat) :
    g (s.closeWindows f) = g s := foldl_frame g (fun s _ => hg s _) _ s

/-- The deep windows of a list closed. -/
theorem closed_foldl {w : Nat} (l : List Nat) (s : State) (h : w ∈ l ∨ s.closed.get false w = true) :
    (l.foldl State.closeWindow s).closed.get false w = true := by
  induction l generalizing s with
  | nil => exact h.resolve_left List.not_mem_nil
  | cons x l ih =>
    refine ih _ ?_
    by_cases hx : w = x
    · subst hx
      exact .inr (closeWindow_self s w)
    · exact h.imp (fun hm => (List.mem_cons.mp hm).resolve_left hx) (closeWindow_other s hx).trans

theorem closeWindows_closes {w : Nat} (hw : w < 64) (hvalid : s.bit (Reg.HF_DEEP_WIN_CTL w) 0 = true) (hkind : s.bit (Reg.HF_DEEP_WIN_CTL w) 1 = false)
    (hfn : s.winFn w = f) : (s.closeWindows f).closed.get false w = true := by
  refine closed_foldl _ s (.inl (List.mem_filter.mpr ⟨List.mem_range.mpr hw, ?_⟩))
  rw [hvalid, hkind, decide_eq_true hfn]
  rfl

theorem leaseProceed_free {v : State} (hl : v.slotsOf f = []) (he : (v.fn f).expiring = true) :
    v.leaseProceed f = (v.closeWindows f).setFn f { (v.closeWindows f).fn f with expiring := false, muted := true } := by
  unfold State.leaseProceed
  rw [hl, he]
  rfl

theorem expireLease_ends (h : s.leaseLive f = true) (hl : s.slotsOf f = []) : s.expireLease f = s.leaseEnded f := by
  have hraised : (s.leaseRaised f).slotsOf f = [] := leaseRaised_slotsOf.trans hl
  have hnoted : (s.leaseNoted f).slotsOf f = [] := leaseNoted_slotsOf.trans hl
  have hexpiring : ((s.leaseNoted f).fn f).expiring = true := congrArg FnSt.expiring (fn_setFn_self ..)
  refine Eq.trans ?_ (leaseProceed_free hnoted hexpiring)
  unfold State.expireLease State.leaseNoted
  rw [if_neg (by rw [h]; decide)]
  generalize hu : s.leaseRaised f = u at hraised
  unfold State.leaseRaised at hu
  simp only [hu, hraised, List.foldl_nil]

theorem leaseEnded_fn : ((s.leaseEnded f).fn f).expiring = false ∧ ((s.leaseEnded f).fn f).muted = true := by
  unfold State.leaseEnded
  rw [fn_setFn_self]
  exact ⟨rfl, rfl⟩

/-- What the expiry of such a lease leaves. -/
theorem leaseEnded_frame {γ : Type} (g : State → γ) (hfn : ∀ (s : State) v, g (s.setFn f v) = g s) (hclosed : ∀ (s : State) c, g { s with closed := c } = g s) :
    g (s.leaseEnded f) = g (s.leaseRaised f) :=
  (hfn _ _).trans ((closeWindows_frame g hclosed _ f).trans (hfn _ _))

theorem leaseEnded_bit : (s.leaseEnded f).bit (Reg.PC_LEASE f) 14 = true :=
  (State.bit_congr ((leaseEnded_frame State.regs (fun _ _ => rfl) (fun _ _ => rfl)).trans (raise_regs _ _ (by decide) _ _)) _ _).trans
    (State.bit_setBit_self _ _ _ (by decide))

theorem leaseEnded_mem : (s.leaseEnded f).mem = s.mem :=
  (leaseEnded_frame State.mem (fun _ _ => rfl) (fun _ _ => rfl)).trans ((State.raise_mem ..).trans (State.setBit_mem ..))

theorem leaseRaised_evq : (s.leaseRaised f).evq = s.evq ++ [⟨.HOST_LEASE_EXPIRED, .info, srcFn f, [f], s.usecN.toNat % 2 ^ 32⟩] :=
  (raise_evq ..).trans (by rw [State.setBit_evq, State.setBit_usecN])

theorem leaseEnded_evq : (s.leaseEnded f).evq = s.evq ++ [⟨.HOST_LEASE_EXPIRED, .info, srcFn f, [f], s.usecN.toNat % 2 ^ 32⟩] :=
  (leaseEnded_frame State.evq (fun _ _ => rfl) (fun _ _ => rfl)).trans leaseRaised_evq

theorem leaseEnded_closed {w : Nat} (hf : f < 16) (hw : w < 64) (hvalid : s.bit (Reg.HF_DEEP_WIN_CTL w) 0 = true)
    (hkind : s.bit (Reg.HF_DEEP_WIN_CTL w) 1 = false) (hfn : s.winFn w = f) : (s.leaseEnded f).closed.get false w = true := by
  have hrd : (s.leaseNoted f).rd (Reg.HF_DEEP_WIN_CTL w) = s.rd (Reg.HF_DEEP_WIN_CTL w) :=
    rd_leaseNoted (by unfold Reg.HF_DEEP_WIN_CTL Reg.PC_LEASE; omega)
  unfold State.leaseEnded
  rw [setFn_closed]
  exact closeWindows_closes hw ((congrArg (fun x : Word => bitOf x.toNat 0) hrd).trans hvalid) ((congrArg (fun x : Word => bitOf x.toNat 1) hrd).trans hkind)
    ((fld_of_rd hrd 5 4).trans hfn)

variable (hf : f < 16)
include hf

theorem leaseTimer_early (he : (s.fn f).expiring = false) (ho : s.leaseOver f = false) : s.leaseTimer f = s :=
  (if_neg (Nat.not_le.mpr hf)).trans ((if_neg (by rw [he]; exact Bool.false_ne_true)).trans (if_neg (by rw [ho]; exact Bool.false_ne_true)))

theorem leaseTimer_over (he : (s.fn f).expiring = false) (ho : s.leaseOver f = true) : s.leaseTimer f = s.expireLease f :=
  (if_neg (Nat.not_le.mpr hf)).trans ((if_neg (by rw [he]; exact Bool.false_ne_true)).trans (if_pos ho))

theorem d3hot_expires : s.d3hot f = s.expireLease f := if_neg (Nat.not_le.mpr hf)

omit hf in
theorem setMaster_clearQueues (s : State) (f : Nat) :
    (s.clearQueues f).setMaster f false = { s.clearQueues f with busMaster := s.busMaster.put false f false } := rfl

theorem flr_clears : s.flr f = ((s.expireLease f).clearQueues f).setMaster f false := if_neg (Nat.not_le.mpr hf)

end Leases

/-- Settles O50: each command's branches, and the expiry of a function that holds no slot. The ready bit of the word at offset 4 is log entry
4; how long requests are retried, the range checks and the ring's words are log entry 82; D3HOT is log entry 73: the model's choices. -/
theorem hostWindowsAndLeases : Obligations.HostWindowsAndLeases := by
  unfold Obligations.HostWindowsAndLeases
  refine ⟨fun s f hf hs1 => ⟨fun write hb hu => ?retry, fun h => ?answer, fun hb bank off size d => ?bar, fun q v hq => ?ring, fun hb slot v hslot => ?result,
    fun off size hoff => ?aperture⟩, fun s f hf => ?lease⟩
  case retry => exact congrArg Host.Outcome.next (configRequest_retry hf hs1 write hb hu)
  case answer =>
    refine ⟨congrArg Host.Outcome.next (configRequest_read hf hs1 h), fun v => ?_⟩
    exact ⟨(s.emit (.cfgAnswer f)).setMaster f (v.getLsbD 2), congrArg Host.Outcome.next (configRequest_command hf hs1 h v), setMaster_get _ _ _, rfl, rfl⟩
  case bar =>
    exact ⟨fun h => congrArg Host.Outcome.next (barAccess_readFails hf hs1 hb h), fun h => congrArg Host.Outcome.next (barAccess_writeDropped hf hs1 hb h),
      fun hok hready hheld => congrArg Host.Outcome.next (barAccess_reads hf hs1 hb hok hready hheld),
      fun hok hready hheld => congrArg Host.Outcome.next (barAccess_writes hf hs1 hb hok hready hheld)⟩
  case ring =>
    refine ⟨fun hw hm hmaster => ⟨s.headMoved f q v, congrArg Host.Outcome.next (ringHeadWrite_empty hf hs1 hq hw hm hmaster v), headMoved_head v, ?_, ?_⟩,
      fun hl => ⟨?_, ?_, ?_⟩, fun hl => ?_, fun h => congrArg Host.Outcome.next (modTimer_stopped h),
      fun hm hmaster => congrArg Host.Outcome.next (modTimer_signals hf hq hm hmaster)⟩
    · exact State.setFld_mem ..
    · exact fun r hr => State.rd_setFld_other _ _ _ _ hr
    · exact congrArg Host.Outcome.next (ringConfigWrite_vector hf hs1 hq hl v)
    · exact congrArg Host.Outcome.next (ringConfigWrite_baseHeld hf hs1 hq hl (.inl rfl) v)
    · exact congrArg Host.Outcome.next (ringConfigWrite_baseHeld hf hs1 hq hl (.inr rfl) v)
    · exact congrArg Host.Outcome.next (ringConfigWrite_base hf hs1 hq hl v)
  case result =>
    refine ⟨fun hst hseq => ⟨_, congrArg Host.Outcome.next (retireSlot_frees hf hs1 hb hslot hst hseq), ?_, ?_, rfl, rfl⟩,
      fun h => congrArg Host.Outcome.next (retireSlot_counts hf hs1 hb hslot h), fun off size hoff hsize hend => ?_, fun size hsize hend => ?_⟩
    · rw [result_setResult_self]
    · rw [result_setResult_self]
    · refine congrArg Host.Outcome.next ((resultRead_eq hf hs1 hb hslot hsize hend).trans ?_)
      rw [if_neg (Nat.not_lt.mpr hoff)]
      rfl
    · refine ⟨_, congrArg Host.Outcome.next ((resultRead_eq hf hs1 hb hslot hsize (by omega)).trans (congrArg (State.emit · _) (if_pos (by decide)))), ?_, ?_, rfl⟩
      · rw [result_emit, result_setResult_self]
        exact satTo_eq_min ..
      · rw [result_emit, result_setResult_self]
  case aperture =>
    exact ⟨fun h => congrArg Host.Outcome.next (apertureWrite_malformed hf hs1 hoff h),
      fun hsize hline ht hc => congrArg Host.Outcome.next (apertureWrite_overrun hf hs1 hoff hsize hline ht hc)⟩
  case lease =>
    refine ⟨fun he ho => congrArg Host.Outcome.next (leaseTimer_early hf he ho),
      fun hl => congrArg Host.Outcome.next ((d3hot_expires hf).trans (expireLease_expired hl)), fun hl hslots => ?_,
      s.setMaster f false, rfl, setMaster_get _ _ _, rfl, rfl, fun g hg => setMaster_get_other _ _ hg⟩
    have hends := expireLease_ends hl hslots
    refine ⟨s.leaseEnded f, congrArg Host.Outcome.next ((d3hot_expires hf).trans hends),
      fun he ho => congrArg Host.Outcome.next ((leaseTimer_over hf he ho).trans hends), congrArg Host.Outcome.next ((flr_clears hf).trans ?_),
      leaseEnded_bit, leaseEnded_fn.2, leaseEnded_fn.1, leaseEnded_mem, ⟨_, leaseEnded_evq, rfl, rfl⟩, fun w hw hvalid hkind hfn => leaseEnded_closed hf hw hvalid hkind hfn⟩
    rw [hends]
    exact setMaster_clearQueues ..

end Sys2Proof.Machine
end

section
/-! PROOFS. The management port: its MAC, wake frames, and the management protocol. -/

namespace Sys2Proof.Machine

/-! ### Statistics of the MAC (R361) -/

section Statistics

variable {s : State}

theorem mmStat_injective {i j : Nat} (h : i ≠ j) : Reg.MM_STAT i ≠ Reg.MM_STAT j := by
  unfold Reg.MM_STAT
  omega

/-- What counting one statistic adds to each. -/
theorem mmCount_stat (s : State) (i j : Nat) :
    (s.mmCount j).fld (Reg.MM_STAT i) 0 32 = min (2 ^ 32 - 1) (s.fld (Reg.MM_STAT i) 0 32 + if i = j then 1 else 0) := by
  by_cases h : i = j
  · subst h
    rw [if_pos rfl]
    exact fld_count_self s _ 1 (by decide)
  · have hlt : s.fld (Reg.MM_STAT i) 0 32 < 2 ^ 32 := State.fld_lt ..
    rw [if_neg h]
    refine (State.fld_setFld_other _ _ _ _ _ _ (mmStat_injective h)).trans ?_
    omega

/-- A statistic counted where a condition holds. -/
def State.mmCountIf (s : State) (c : Bool) (j : Nat) : State := if c then s.mmCount j else s

theorem mmCountIf_stat (s : State) (c : Bool) (i j : Nat) :
    (s.mmCountIf c j).fld (Reg.MM_STAT i) 0 32 = min (2 ^ 32 - 1) (s.fld (Reg.MM_STAT i) 0 32 + if i = j ∧ c = true then 1 else 0) := by
  have hlt : s.fld (Reg.MM_STAT i) 0 32 < 2 ^ 32 := State.fld_lt ..
  unfold State.mmCountIf
  cases c with
  | true => simpa only [and_true, if_true] using mmCount_stat s i j
  | false =>
    simp only [Bool.false_eq_true, and_false, if_false]
    omega

theorem mmCount_mm (s : State) (j : Nat) : (s.mmCount j).mm = s.mm := State.setFld_mm ..
theorem mmCount_mem (s : State) (j : Nat) : (s.mmCount j).mem = s.mem := State.setFld_mem ..
theorem mmCount_out (s : State) (j : Nat) : (s.mmCount j).out = s.out := State.setFld_out ..

theorem mmCountIf_frame {γ : Type} (g : State → γ) (hg : ∀ s j, g (State.mmCount s j) = g s) (s : State) (c : Bool) (j : Nat) : g (s.mmCountIf c j) = g s := by
  cases c with
  | true => exact hg s j
  | false => rfl

end Statistics

/-! ### Frames received (R359, R360) -/

section Receive

variable {s : State} {dst etherType : Nat} {payload : List Byte}

theorem mmReceive_off (h : s.mmUp = false) (ok : Bool) : s.mmReceive dst etherType payload ok = s := if_pos (by rw [h]; rfl)

/-- A wake frame outside STANDBY is counted. -/
def State.wakeIgnored (s : State) (etherType : Nat) (payload : List Byte) : State :=
  if isWake etherType payload then s.count Reg.MM_WAKE_IGNORED 0 16 1 else s

theorem wakeIgnored_mm : (s.wakeIgnored etherType payload).mm = s.mm := by
  unfold State.wakeIgnored
  split
  · exact State.setFld_mm ..
  · rfl

theorem wakeIgnored_mem : (s.wakeIgnored etherType payload).mem = s.mem := by
  unfold State.wakeIgnored
  split
  · exact State.setFld_mem ..
  · rfl

theorem mmAccepts_congr {s t : State} (h : ∀ k, k < 4 → t.rd (Reg.MM_MCAST_HI k) = s.rd (Reg.MM_MCAST_HI k) ∧ t.rd (Reg.MM_MCAST_LO k) = s.rd (Reg.MM_MCAST_LO k)) :
    t.mmAccepts dst = s.mmAccepts dst := by
  unfold State.mmAccepts State.bit State.fld
  simp only [List.any_cons, List.any_nil, h 0 (by decide), h 1 (by decide), h 2 (by decide), h 3 (by decide)]

theorem mcast_other {k : Nat} (hk : k < 4) : Reg.MM_MCAST_HI k ≠ Reg.MM_WAKE_IGNORED ∧ Reg.MM_MCAST_LO k ≠ Reg.MM_WAKE_IGNORED := by
  unfold Reg.MM_MCAST_HI Reg.MM_MCAST_LO Reg.MM_WAKE_IGNORED
  omega

theorem wakeIgnored_accepts : (s.wakeIgnored etherType payload).mmAccepts dst = s.mmAccepts dst := by
  unfold State.wakeIgnored
  split
  · refine mmAccepts_congr fun k hk => ⟨State.rd_setFld_other _ _ _ _ (mcast_other hk).1, State.rd_setFld_other _ _ _ _ (mcast_other hk).2⟩
  · rfl

/-- The addresses of R360. -/
def State.mmOurs (s : State) (dst : Nat) : Prop := dst = mmAddress ∨ dst = mmBroadcast ∨
  ∃ k, k < 4 ∧ s.bit (Reg.MM_MCAST_HI k) 16 = true ∧ dst = 2 ^ 32 * s.fld (Reg.MM_MCAST_HI k) 0 16 + (s.rd (Reg.MM_MCAST_LO k)).toNat

theorem mmAccepts_iff : s.mmAccepts dst = true ↔ s.mmOurs dst := by
  have hfour : ∀ p : Nat → Prop, (∃ k, k < 4 ∧ p k) ↔ p 0 ∨ p 1 ∨ p 2 ∨ p 3 := by
    intro p
    constructor
    · rintro ⟨k, hk, hp⟩
      interval_cases k <;> tauto
    · rintro (h | h | h | h)
      exacts [⟨0, by decide, h⟩, ⟨1, by decide, h⟩, ⟨2, by decide, h⟩, ⟨3, by decide, h⟩]
  unfold State.mmAccepts State.mmOurs
  rw [hfour]
  simp only [List.any_cons, List.any_nil, Bool.or_false, Bool.or_eq_true, Bool.and_eq_true, decide_eq_true_eq, or_assoc]

section On

variable (h : s.mmUp = true)
include h

theorem mmReceive_badFcs : s.mmReceive dst etherType payload false = s.mmCount 7 := (if_neg (by rw [h]; decide)).trans (if_pos rfl)

theorem mmReceive_good : s.mmReceive dst etherType payload true =
    if !(s.wakeIgnored etherType payload).mmAccepts dst then (s.wakeIgnored etherType payload).mmCount 8
    else if 65536 < (s.wakeIgnored etherType payload).mm.rx.sum + mmOctets payload then ((s.wakeIgnored etherType payload).mmCount 9).setBit Reg.MM_STATUS 4 true
    else State.mmCount { s.wakeIgnored etherType payload with mm :=
      { (s.wakeIgnored etherType payload).mm with rx := (s.wakeIgnored etherType payload).mm.rx ++ [mmOctets payload] } } 1 :=
  (if_neg (by rw [h]; decide)).trans (if_neg (by decide))

theorem mmReceive_filtered (ho : ¬ s.mmOurs dst) : s.mmReceive dst etherType payload true = (s.wakeIgnored etherType payload).mmCount 8 := by
  rw [mmReceive_good h, wakeIgnored_accepts, Bool.eq_false_iff.mpr (fun ha => ho (mmAccepts_iff.mp ha))]
  rfl

variable (ho : s.mmOurs dst)
include ho

theorem mmReceive_dropped (hfull : 65536 < s.mm.rx.sum + mmOctets payload) :
    s.mmReceive dst etherType payload true = ((s.wakeIgnored etherType payload).mmCount 9).setBit Reg.MM_STATUS 4 true := by
  rw [mmReceive_good h, wakeIgnored_accepts, mmAccepts_iff.mpr ho, wakeIgnored_mm]
  exact if_pos hfull

/-- A frame in the receive buffer. -/
def State.mmEntered (s : State) (payload : List Byte) : State := { s with mm := { s.mm with rx := s.mm.rx ++ [mmOctets payload] } }

theorem mmReceive_enters (hroom : s.mm.rx.sum + mmOctets payload ≤ 65536) :
    s.mmReceive dst etherType payload true = ((s.wakeIgnored etherType payload).mmEntered payload).mmCount 1 := by
  refine (mmReceive_good h).trans ((if_neg ?_).trans (if_neg ?_))
  · rw [wakeIgnored_accepts, mmAccepts_iff.mpr ho]
    decide
  · rw [wakeIgnored_mm]
    exact Nat.not_lt.mpr hroom

end On

theorem mmEntered_rd (s : State) (payload : List Byte) (r : Nat) : (s.mmEntered payload).rd r = s.rd r := rfl

/-- Counting a register reads nothing else. -/
theorem rd_mmCount_congr {s t : State} {j : Nat} (h : t.rd (Reg.MM_STAT j) = s.rd (Reg.MM_STAT j)) :
    (t.mmCount j).rd (Reg.MM_STAT j) = (s.mmCount j).rd (Reg.MM_STAT j) := by
  unfold State.mmCount State.count State.setFld State.fld
  rw [State.rd_wr_self, State.rd_wr_self, h]

end Receive

/-! ### Frames sent, and collisions (R358, R359) -/

section Send

variable {s : State}

theorem mmCollide_none {late : Bool} (h : s.mmUp = false ∨ s.mm.tx = [] ∨ s.mm.backoff ≠ none) : s.mmCollide late = s :=
  if_pos (by simpa only [Bool.or_eq_true, Bool.not_eq_true', decide_eq_true_eq, or_assoc] using h)

theorem mmSent_none {late : Bool} (h : s.mmUp = false ∨ s.mm.tx = [] ∨ s.mm.backoff ≠ none) : s.mmSent late = s := by
  unfold State.mmSent
  split
  · rfl
  · next hcons =>
    have hwait : s.mmUp = false ∨ s.mm.backoff ≠ none := h.imp_right (fun h => h.resolve_left (fun hnil => List.cons_ne_nil _ _ (hcons.symm.trans hnil)))
    exact if_pos (by simpa only [Bool.or_eq_true, Bool.not_eq_true', decide_eq_true_eq] using hwait)

/-- A collision under PLCA sets its status bit. -/
def State.plcaCollided (s : State) : State := if s.bit Reg.MM_STATE 0 then s.setBit Reg.MM_STATUS 3 true else s

theorem plcaCollided_mm : s.plcaCollided.mm = s.mm := by
  unfold State.plcaCollided
  split
  · exact State.setBit_mm ..
  · rfl

theorem plcaCollided_mem : s.plcaCollided.mem = s.mem := by
  unfold State.plcaCollided
  split
  · exact State.setBit_mem ..
  · rfl

/-- The frame being sent dropped. -/
def State.mmDropped (s : State) : State := { s with mm := { s.mm with tx := s.mm.tx.tail, attempts := 0 } }

/-- The frame being sent waits for another attempt. -/
def State.mmWaits (s : State) : State :=
  { s.draw.2 with mm := { s.draw.2.mm with attempts := s.mm.attempts + 1, backoff := some (s.draw.1 % 2 ^ min (s.mm.attempts + 1) 10) } }

theorem setStatus_mm (s : State) (a i : Nat) (code : Code) (cls : EvClass) (source : Nat) (data : List Nat) :
    (s.setStatus a i code cls source data).mm = s.mm := by
  unfold State.setStatus
  split
  · rfl
  · exact (State.raise_mm ..).trans (State.setBit_mm ..)

theorem mmDropped_bit (s : State) (r i : Nat) : s.mmDropped.bit r i = s.bit r i := State.bit_congr rfl r i
theorem mmDropped_mm (s : State) : s.mmDropped.mm = { s.mm with tx := s.mm.tx.tail, attempts := 0 } := rfl
theorem mmDropped_mem (s : State) : s.mmDropped.mem = s.mem := rfl

section Collides

variable (hup : s.mmUp = true) (htx : s.mm.tx ≠ []) (hb : s.mm.backoff = none)
include hup htx hb

theorem mmCollide_reaches (a b : State) : (if !s.mmUp || decide (s.mm.tx = []) || decide (s.mm.backoff ≠ none) then a else b) = b :=
  if_neg (by rw [hup, decide_eq_false htx, decide_eq_false (not_not_intro hb)]; decide)

theorem mmCollide_late : s.mmCollide true = ((s.plcaCollided.mmCount 5).setBit Reg.MM_STATUS 1 true).mmDropped :=
  (mmCollide_reaches hup htx hb _ _).trans (if_pos rfl)

theorem mmCollide_excess (ha : 15 ≤ s.mm.attempts) :
    s.mmCollide false = ((s.plcaCollided.mmCount 4).setStatus Reg.MM_STATUS 0 .MM_EXCESS_COLL .info srcMM []).mmDropped :=
  (mmCollide_reaches hup htx hb _ _).trans ((if_neg Bool.false_ne_true).trans (if_pos (by rw [← plcaCollided_mm] at ha; exact ha)))

theorem mmCollide_waits (ha : s.mm.attempts < 15) : s.mmCollide false = s.plcaCollided.mmWaits :=
  (mmCollide_reaches hup htx hb _ _).trans ((if_neg Bool.false_ne_true).trans (if_neg (by rw [← plcaCollided_mm] at ha; exact Nat.not_le.mpr ha)))

end Collides

theorem mmWaits_keeps (s : State) : s.mmWaits.mm.tx = s.mm.tx ∧ s.mmWaits.mm.attempts = s.mm.attempts + 1 ∧ s.mmWaits.mem = s.mem := ⟨rfl, rfl, rfl⟩

theorem mmWaits_backoff (s : State) : ∃ n, s.mmWaits.mm.backoff = some n ∧ n < 2 ^ min (s.mm.attempts + 1) 10 :=
  ⟨_, rfl, Nat.mod_lt _ (Nat.two_pow_pos _)⟩

/-- The oldest frame taken out of the queue. -/
def State.mmTaken (s : State) (rest : List MmFrame) : State := { s with mm := { s.mm with tx := rest, attempts := 0 } }

/-- A sent frame counted, by the collisions that it had. -/
def State.mmSentCounted (s : State) (n : Nat) (deferred : Bool) : State :=
  (((s.mmCount 0).mmCountIf (decide (n = 1)) 2).mmCountIf (decide (2 ≤ n)) 3).mmCountIf deferred 6

theorem mmSentCounted_eq (s : State) (n : Nat) (deferred : Bool) : s.mmSentCounted n deferred =
    let v := if n = 1 then (s.mmCount 0).mmCount 2 else if 2 ≤ n then (s.mmCount 0).mmCount 3 else s.mmCount 0
    if deferred then v.mmCount 6 else v := by
  unfold State.mmSentCounted State.mmCountIf
  by_cases h1 : n = 1
  · subst h1
    rfl
  · by_cases h2 : 2 ≤ n
    · rw [if_neg h1, if_pos h2, decide_eq_false h1, decide_eq_true h2]
      rfl
    · rw [if_neg h1, if_neg h2, decide_eq_false h1, decide_eq_false h2]
      rfl

theorem mmSent_counts {f : MmFrame} {rest : List MmFrame} {deferred : Bool} (hup : s.mmUp = true) (htx : s.mm.tx = f :: rest) (hb : s.mm.backoff = none) :
    s.mmSent deferred = ((s.mmTaken rest).mmSentCounted s.mm.attempts deferred).emit (.mgmt f) := by
  unfold State.mmSent
  rw [htx]
  refine (if_neg ?_).trans (congrArg (State.emit · _) (mmSentCounted_eq ..).symm)
  rw [hup, decide_eq_false (not_not_intro hb)]
  decide

theorem min_min_add (m a b c : Nat) : min m (min m (a + b) + c) = min m (a + (b + c)) := by omega

/-- What a sent frame adds to each statistic. -/
theorem mmSentCounted_stat (s : State) (n : Nat) (deferred : Bool) (i : Nat) : (s.mmSentCounted n deferred).fld (Reg.MM_STAT i) 0 32 =
    min (2 ^ 32 - 1) (s.fld (Reg.MM_STAT i) 0 32 + if i = 0 ∨ i = 2 ∧ n = 1 ∨ i = 3 ∧ 2 ≤ n ∨ i = 6 ∧ deferred = true then 1 else 0) := by
  unfold State.mmSentCounted
  rw [mmCountIf_stat, mmCountIf_stat, mmCountIf_stat, mmCount_stat, min_min_add, min_min_add, min_min_add]
  refine congrArg (fun k => min (2 ^ 32 - 1) (s.fld (Reg.MM_STAT i) 0 32 + k)) ?_
  cases deferred with
  | true =>
    simp only [decide_eq_true_eq, and_true]
    split_ifs <;> omega
  | false =>
    simp only [decide_eq_true_eq, Bool.false_eq_true, and_false, or_false, if_false]
    split_ifs <;> omega

theorem mmSentCounted_frame {γ : Type} (g : State → γ) (hg : ∀ s j, g (State.mmCount s j) = g s) (s : State) (n : Nat) (deferred : Bool) :
    g (s.mmSentCounted n deferred) = g s := by
  unfold State.mmSentCounted
  rw [mmCountIf_frame g hg, mmCountIf_frame g hg, mmCountIf_frame g hg, hg]

end Send

/-! ### PLCA and wake frames (R358, R362 to R364) -/

section Plca

variable {s : State}

theorem beacons_off (h : s.mmUp = false ∨ s.bit Reg.MM_CTL 1 = false) : s.beaconLoss = s ∧ s.beaconResume = s := by
  have hoff : (!s.mmUp || !s.bit Reg.MM_CTL 1) = true := by simpa only [Bool.or_eq_true, Bool.not_eq_true'] using h
  exact ⟨if_pos hoff, if_pos hoff⟩

section On

variable (hup : s.mmUp = true) (h : s.bit Reg.MM_CTL 1 = true)
include hup h

theorem beaconResume_on : s.beaconResume = s.setBit Reg.MM_STATE 0 true := if_neg (by rw [hup, h]; decide)

theorem beaconLoss_on : s.beaconLoss = (s.setBit Reg.MM_STATE 0 false).setStatus Reg.MM_STATUS 2 .MM_PLCA_LOST .info srcMM [] :=
  if_neg (by rw [hup, h]; decide)

theorem beaconLoss_shows : s.beaconLoss.bit Reg.MM_STATE 0 = false ∧ s.beaconLoss.bit Reg.MM_STATUS 2 = true ∧ s.beaconLoss.mem = s.mem := by
  have hother : Reg.MM_STATE ≠ Reg.MM_STATUS := by decide
  rw [beaconLoss_on hup h]
  refine ⟨?_, bit_setStatus_self _ _ _ _ _ _ (by decide) (by decide), (setStatus_mem ..).trans (State.setBit_mem ..)⟩
  exact (congrArg (fun w : Word => bitOf w.toNat 0) (rd_setStatus_other _ _ _ _ _ _ (by decide) hother)).trans (State.bit_setBit_self _ _ _ (by decide))

end On

/-- The frames that the detector accepts (R363). -/
def State.wakeHears (s : State) (d e : Nat) (p : List Byte) (ok : Bool) : Prop :=
  ok = true ∧ isWake e p = true ∧ s.bit Reg.MM_WAKE_CTL 0 = true ∧ ofBytesBE ((p.drop 12).take 4) = (s.rd Reg.MM_WAKE_CODE).toNat ∧
    ((p.getD 3 0#8).toNat = 0 ∧ d = mmAddress ∨ (p.getD 3 0#8).toNat = 1 ∧ (d = mmAddress ∨ d = mmBroadcast) ∧
      bitOf (p.getD (4 + s.fld Reg.HF_STRAP 0 6 / 8) 0#8).toNat (s.fld Reg.HF_STRAP 0 6 % 8) = true)

theorem wakeAccepts_iff {d e : Nat} {p : List Byte} {ok : Bool} : s.wakeAccepts d e p ok = true ↔ s.wakeHears d e p ok := by
  unfold State.wakeAccepts State.wakeHears
  simp only [Bool.and_eq_true, Bool.or_eq_true, decide_eq_true_eq, and_assoc]

variable {d e : Nat} {p : List Byte} {ok : Bool}

theorem wakeFrame_ordinary (h : s.power.standby = 0) : s.wakeFrame d e p ok = s.mmReceive d e p ok := if_pos h

theorem wakeFrame_wakes (h : s.power.standby ≠ 0) (hw : s.wakeHears d e p ok) :
    s.wakeFrame d e p ok = State.count { s with power := { s.power with wokeEarly := true } } Reg.MM_WAKE_COUNT 0 16 1 :=
  (if_neg h).trans (if_pos (wakeAccepts_iff.mpr hw))

theorem wakeFrame_ignored (h : s.power.standby ≠ 0) (hw : ¬ s.wakeHears d e p ok) : s.wakeFrame d e p ok = s.count Reg.MM_WAKE_COUNT 16 16 1 :=
  (if_neg h).trans (if_neg (fun ha => hw (wakeAccepts_iff.mp ha)))

end Plca

/-! ### The management protocol (R401) -/

section Protocol

theorem getLast?_drop_append {α : Type} (l : List α) (a : α) {n : Nat} (h : n ≤ l.length) : ((l ++ [a]).drop n).getLast? = some a := by
  rw [List.drop_append_of_le_length h, List.getLast?_concat]

/-- The header of a response and its bound. -/
theorem response_shape (r : MgmtReq) (op status : Nat) (payload : List Byte) :
    (response r op status payload).take 4 = [1#8, BitVec.ofNat 8 (op + 128)] ++ toBytes 2 status ∧ (response r op status payload).length ≤ 16 + 1452 := by
  have hhead : ([1#8, BitVec.ofNat 8 (op + 128)] ++ toBytes 2 status).length = 4 := by rw [List.length_append, toBytes_length]; rfl
  unfold response
  refine ⟨?_, ?_⟩
  · rw [← hhead, List.append_assoc, List.append_assoc, List.append_assoc, List.take_left]
  · simp only [List.length_append, List.length_cons, List.length_nil, toBytes_length, List.length_replicate, List.length_take]
    omega

variable {s : State} {r : MgmtReq}

/-- What an answer leaves: the response in the queue and at the end of the cache. -/
theorem answer_sends {x : State} (h : x.mm.tx = s.mm.tx) (op status : Nat) (payload : List Byte) :
    ∃ p, (x.answer r (response r op status payload)).mm.tx = s.mm.tx ++ [⟨r.src, p⟩] ∧
      (x.answer r (response r op status payload)).sec.cache.getLast? = some (r.reqId, p) ∧ (x.answer r (response r op status payload)).sec.cache.length ≤ 16 ∧
      p.take 4 = [1#8, BitVec.ofNat 8 (op + 128)] ++ toBytes 2 status ∧ p.length ≤ 16 + 1452 := by
  obtain ⟨hhead, hlen⟩ := response_shape r op status payload
  have htx : (x.answer r (response r op status payload)).mm.tx = x.mm.tx ++ [⟨r.src, response r op status payload⟩] := rfl
  refine ⟨response r op status payload, by rw [htx, h], getLast?_drop_append _ _ (by omega), ?_, hhead, hlen⟩
  refine (List.length_drop ..).le.trans ?_
  rw [List.length_append, List.length_singleton]
  omega

/-- A response sent again. -/
def State.resent (s : State) (src : Nat) (b : List Byte) : State := { s with mm := { s.mm with tx := s.mm.tx ++ [⟨src, b⟩] } }

variable {op : Nat} {f : State → State × Nat × List Byte}

theorem serveMgmt_down (h : s.mmTake.powerUp = false) : s.serveMgmt r op f = s.mmTake := if_pos (by rw [State.fwUp, h]; rfl)

section Up

variable (h : s.mmTake.powerUp = true)
include h

theorem serveMgmt_up (a b : State) : (if !s.mmTake.fwUp then a else b) = b := if_neg (by rw [State.fwUp, h]; decide)

theorem serveMgmt_repeats {e : Nat × List Byte} (hc : s.sec.cache.find? (fun e => e.1 = r.reqId) = some e) : s.serveMgmt r op f = s.mmTake.resent r.src e.2 := by
  have hcache : s.mmTake.sec.cache.find? (fun e => e.1 = r.reqId) = some e := hc
  unfold State.serveMgmt
  refine (serveMgmt_up h _ _).trans ?_
  rw [hcache]
  rfl

variable (hc : s.sec.cache.find? (fun e => e.1 = r.reqId) = none)
include hc

theorem serveMgmt_serves : s.serveMgmt r op f = (f s.mmTake).1.answer r (response r op (f s.mmTake).2.1 (f s.mmTake).2.2) := by
  have hcache : s.mmTake.sec.cache.find? (fun e => e.1 = r.reqId) = none := hc
  unfold State.serveMgmt
  refine (serveMgmt_up h _ _).trans ?_
  rw [hcache]

theorem serveMgmt_answers (hf : (f s.mmTake).1.mm = s.mmTake.mm) : ∃ st p, (s.serveMgmt r op f).mm.tx = s.mm.tx ++ [⟨r.src, p⟩] ∧
    (s.serveMgmt r op f).sec.cache.getLast? = some (r.reqId, p) ∧ (s.serveMgmt r op f).sec.cache.length ≤ 16 ∧
    p.take 4 = [1#8, BitVec.ofNat 8 (op + 128)] ++ toBytes 2 st ∧ p.length ≤ 16 + 1452 := by
  rw [serveMgmt_serves h hc]
  exact ⟨_, answer_sends (congrArg MmSt.tx hf) op _ _⟩

theorem answered_of_serves {x : State} (hx : x = s.serveMgmt r op f) (hf : (f s.mmTake).1.mm = s.mmTake.mm) : ∃ st p,
    x.mm.tx = s.mm.tx ++ [⟨r.src, p⟩] ∧ x.sec.cache.getLast? = some (r.reqId, p) ∧ x.sec.cache.length ≤ 16 ∧
    p.take 4 = [1#8, BitVec.ofNat 8 (op + 128)] ++ toBytes 2 st ∧ p.length ≤ 16 + 1452 := by
  obtain ⟨st, p, hp⟩ := serveMgmt_answers (op := op) h hc hf
  rw [← hx] at hp
  exact ⟨st, p, hp⟩

end Up

/-! The seven requests by what each serves. -/

/-- A request that fails. -/
def State.mgmtFails (s : State) : State × Nat × List Byte := (s.failStatus.1, s.failStatus.2, [])

theorem mgmtFails_mm (s : State) : s.mgmtFails.1.mm = s.mm := rfl
theorem mgmtFails_flash (s : State) : s.mgmtFails.1.flash = s.flash := rfl
theorem mgmtFails_fw (s : State) : s.mgmtFails.1.fw = s.fw := rfl
theorem mgmtFails_bit (s : State) (r i : Nat) : s.mgmtFails.1.bit r i = s.bit r i := State.bit_congr rfl r i
theorem mgmtFails_bytes (s : State) : s.mgmtFails.2.2 = [] := rfl

theorem mgmtFails_status (s : State) : s.mgmtFails.2.1 ≠ 0 := by
  unfold State.mgmtFails State.failStatus
  dsimp only
  omega

/-- What IDENT and STATUS answer. -/
def State.identBytes (s : State) : List Byte :=
  BitVec.ofNat 8 (s.fld Reg.HF_STRAP 0 6) :: s.identity ++ toBytes 4 (s.rd Reg.HF_FW_RUN).toNat ++ toBytes 4 (s.rd Reg.HF_FW_STAGED).toNat
def State.statusBytes (s : State) : List Byte := toBytes 4 (s.rd Reg.PC_BOOT).toNat ++ toBytes 4 (s.rd Reg.HF_FW_STATE).toNat

theorem regBytes_one (s : State) (a : Nat) : s.regBytes (fun _ => a) 1 = toBytes 4 (s.rd a).toNat := List.append_nil _

theorem mgmtIdent_eq (s : State) (r : MgmtReq) : s.mgmtIdent r = s.serveMgmt r 1 (fun s => (s, 0, s.identBytes)) := by
  unfold State.mgmtIdent State.identBytes
  simp only [regBytes_one]

theorem mgmtStatus_eq (s : State) (r : MgmtReq) : s.mgmtStatus r = s.serveMgmt r 2 (fun s => (s, 0, s.statusBytes)) := by
  unfold State.mgmtStatus State.statusBytes
  simp only [regBytes_one]

/-- A nonce kept. -/
def State.nonceKept (s : State) : State := { (s.drawBytes 16).2 with sec := { (s.drawBytes 16).2.sec with mgmtNonce := some (s.drawBytes 16).1 } }

theorem mgmtNewNonce_eq (s : State) (r : MgmtReq) : s.mgmtNewNonce r = s.serveMgmt r 3 (fun s => (s.nonceKept, 0, (s.drawBytes 16).1)) := rfl

/-- What STAGE serves. -/
def State.stageServed (s : State) (r : MgmtReq) (image : Option (List Byte)) : State × Nat × List Byte :=
  if !s.mgmtSigned r then s.mgmtFails
  else if s.fw.shift ≠ 0 then (s.setBit Reg.HF_FW_STATUS 4 true).mgmtFails
  else if (s.stageImage (image.getD [])).bit Reg.HF_FW_STATE 1 then (s.stageImage (image.getD []), 0, []) else (s.stageImage (image.getD [])).mgmtFails

theorem mgmtStage_eq (s : State) (r : MgmtReq) (image : Option (List Byte)) : s.mgmtStage r image = s.serveMgmt r 4 (fun s => s.stageServed r image) := rfl

theorem mgmtList_eq (s : State) (r : MgmtReq) :
    s.mgmtList r = s.serveMgmt r 6 (fun s => (s, 0, [0, 1].flatMap (fun src => (List.range 64).flatMap (fun e => (s.sampleAt e src).take 64)))) := rfl

/-- The entry and the source that SAMPLE_READ names. -/
def sampleEntry (r : MgmtReq) : Nat := (r.payload.getD 0 0#8).toNat % 64
def sampleSource (r : MgmtReq) : Nat := (r.payload.getD 1 0#8).toNat % 2

theorem mgmtRead_eq (s : State) (r : MgmtReq) : s.mgmtRead r = s.serveMgmt r 7 (fun s =>
    (s.sampleRead (sampleEntry r) (sampleSource r), 0, ((s.sampleAt (sampleEntry r) (sampleSource r)).drop (imgNum r.payload 2 4)).take 1024)) := rfl

/-- What ACTIVATE serves. -/
def State.activateServed (s : State) (r : MgmtReq) : State × Nat × List Byte :=
  if !s.mgmtSigned r then s.mgmtFails
  else ((State.setBit { s with flash := { s.flash with activateOnBoot := bitOf (r.payload.getD 0 0#8).toNat 0 } } Reg.HF_FW_CTL 2
    (bitOf (r.payload.getD 0 0#8).toNat 0)).activate, 0, [])

theorem mgmtActivate_eq (s : State) (r : MgmtReq) : s.mgmtActivate r = s.serveMgmt r 5 (fun s => s.activateServed r) := rfl

theorem stageFail_mm (s : State) (code : Nat) : (s.stageFail code).mm = s.mm := by
  unfold State.stageFail
  rw [State.raise_mm, State.setBit_mm, State.setBit_mm, State.setFld_mm]

/-- An image that passed its checks, in the STAGED slot. -/
def State.imageStaged (s : State) (l : List Byte) : State :=
  State.wr { s.setOther l with flash := { (s.setOther l).flash with staged := some l, tries := 0 } } Reg.HF_FW_STAGED (BitVec.ofNat 32 (imgVersion l))

theorem stageImage_eq (s : State) (l : List Byte) : s.stageImage l =
    if (s.setOther l).verifyImage l ≠ 0 then (s.setOther l).stageFail ((s.setOther l).verifyImage l)
    else if formatsFit (s.imageStaged l).runImage l then (s.imageStaged l).setBit Reg.HF_FW_STATE 1 true else (s.imageStaged l).stageFail 8 := rfl

theorem setOther_mm (s : State) (l : List Byte) : (s.setOther l).mm = s.mm := rfl
theorem imageStaged_mm (s : State) (l : List Byte) : (s.imageStaged l).mm = s.mm := rfl

theorem stageImage_mm (s : State) (l : List Byte) : (s.stageImage l).mm = s.mm := by
  rw [stageImage_eq]
  split
  · exact (stageFail_mm ..).trans (setOther_mm s l)
  · split
    · exact (State.setBit_mm ..).trans (imageStaged_mm s l)
    · exact (stageFail_mm ..).trans (imageStaged_mm s l)

theorem stageServed_mm (image : Option (List Byte)) : (s.stageServed r image).1.mm = s.mm := by
  unfold State.stageServed
  split
  · rfl
  · split
    · exact (mgmtFails_mm _).trans (State.setBit_mm ..)
    · split
      · exact stageImage_mm ..
      · exact (mgmtFails_mm _).trans (stageImage_mm ..)

theorem sampleRead_mm (s : State) (entry source : Nat) : (s.sampleRead entry source).mm = s.mm := by
  unfold State.sampleRead
  split <;> rfl

theorem mgmtSigned_none (h : s.bit Reg.HF_FW_CTL 4 = false ∨ s.sec.mgmtNonce = none) : s.mgmtSigned r = false := by
  unfold State.mgmtSigned
  obtain h | h := h
  · rw [h, Bool.false_and]
  · rw [h, Bool.and_false]

theorem stageServed_unsigned (h : s.mgmtSigned r = false) (image : Option (List Byte)) : s.stageServed r image = s.mgmtFails := if_pos (by rw [h]; rfl)

theorem stageServed_shifting (h : s.mgmtSigned r = true) (hs : s.fw.shift ≠ 0) (image : Option (List Byte)) :
    s.stageServed r image = (s.setBit Reg.HF_FW_STATUS 4 true).mgmtFails := (if_neg (by rw [h]; decide)).trans (if_pos hs)

theorem stageServed_stages (h : s.mgmtSigned r = true) (hs : s.fw.shift = 0) {image : Option (List Byte)}
    (hb : (s.stageImage (image.getD [])).bit Reg.HF_FW_STATE 1 = true) : s.stageServed r image = (s.stageImage (image.getD []), 0, []) :=
  (if_neg (by rw [h]; decide)).trans ((if_neg (not_not_intro hs)).trans (if_pos hb))

theorem activateServed_unsigned (h : s.mgmtSigned r = false) : s.activateServed r = s.mgmtFails := if_pos (by rw [h]; rfl)

theorem activateServed_signed (h : s.mgmtSigned r = true) : s.activateServed r =
    ((State.setBit { s with flash := { s.flash with activateOnBoot := bitOf (r.payload.getD 0 0#8).toNat 0 } } Reg.HF_FW_CTL 2
      (bitOf (r.payload.getD 0 0#8).toNat 0)).activate, 0, []) := if_neg (by rw [h]; decide)

/-- What the answer to a request that fails leaves. -/
theorem answer_fails (s : State) (r : MgmtReq) (op : Nat) :
    (s.mgmtFails.1.answer r (response r op s.mgmtFails.2.1 s.mgmtFails.2.2)).mm.tx = s.mm.tx ++ [⟨r.src, response r op s.mgmtFails.2.1 []⟩] ∧
      (s.mgmtFails.1.answer r (response r op s.mgmtFails.2.1 s.mgmtFails.2.2)).flash = s.flash ∧
      (s.mgmtFails.1.answer r (response r op s.mgmtFails.2.1 s.mgmtFails.2.2)).fw = s.fw := ⟨rfl, rfl, rfl⟩

theorem answer_bit (s : State) (r : MgmtReq) (b : List Byte) (a i : Nat) : (s.answer r b).bit a i = s.bit a i := State.bit_congr rfl a i

theorem mmTake_tx (s : State) : s.mmTake.mm.tx = s.mm.tx := rfl
theorem mmTake_frame (s : State) : s.mmTake.flash = s.flash ∧ s.mmTake.fw = s.fw ∧ s.mmTake.mem = s.mem := ⟨rfl, rfl, rfl⟩

/-- The nonce answered. -/
theorem nonce_answer (s : State) (r : MgmtReq) (b : List Byte) : (s.mmTake.nonceKept.answer r b).sec.mgmtNonce = some (s.mmTake.drawBytes 16).1 ∧
    (s.mmTake.nonceKept.answer r b).mm.tx = s.mm.tx ++ [⟨r.src, b⟩] ∧ (s.mmTake.nonceKept.answer r b).mem = s.mem := ⟨rfl, rfl, rfl⟩

theorem drawBytes_length (s : State) (n : Nat) : (s.drawBytes n).1.length = n := (List.length_map ..).trans List.length_range

end Protocol

/-- Settles O55: the MAC command by command, the protocol through `serveMgmt`. The free back-off and nonce are log entry 5, the status of a
request that fails is log entry 6, and the payloads of ACTIVATE and SAMPLE_READ are log entry 80: the model's choices. -/
theorem managementCommands : Obligations.ManagementCommands := by
  unfold Obligations.ManagementCommands
  refine ⟨fun s => ⟨rfl, fun hoff d e p ok l => ?off, fun hup => ⟨fun d e p => ?receive, fun late h => ?noCollision, fun htx hb => ⟨?late, fun ha => ?excess, fun ha => ?waits⟩,
    fun l h => ?noFrame, fun l f rest htx hb => ?sent, fun h => ?noPlca, fun h => ?plca⟩, fun d e p ok => ⟨fun h => ?ordinary, fun h => ⟨fun hw => ?hears, fun hw => ?ignores⟩⟩⟩,
    fun s src m sig image => ⟨fun h => ?down, fun h => ⟨fun e hc => ?again, fun hc => ⟨fun c op hmem => ?fresh, ?ident, ?status, ?nonce, fun hs => ?unsigned, fun hs => ⟨?stageFails, ?activateFails⟩,
      fun hs => ⟨fun hshift => ?shifting, fun hshift hb => ?stages, ?activates⟩, ?list, ?read⟩⟩⟩⟩
  case off =>
    obtain ⟨hloss, hresume⟩ := beacons_off (.inl hoff)
    exact ⟨congrArg Host.Outcome.next (mmReceive_off hoff ok), congrArg Host.Outcome.next (mmCollide_none (.inl hoff)), congrArg Host.Outcome.next (mmSent_none (.inl hoff)),
      congrArg Host.Outcome.next hloss, congrArg Host.Outcome.next hresume⟩
  case receive =>
    refine ⟨congrArg Host.Outcome.next (mmReceive_badFcs hup), fun ho => congrArg Host.Outcome.next (mmReceive_filtered hup ho),
      fun ho hfull => congrArg Host.Outcome.next (mmReceive_dropped hup ho hfull), fun ho hroom => ?_⟩
    refine ⟨_, congrArg Host.Outcome.next (mmReceive_enters hup ho hroom), ?_, rd_mmCount_congr (mmEntered_rd ..), (mmCount_mem ..).trans wakeIgnored_mem⟩
    rw [mmCount_mm]
    exact congrArg (fun m : MmSt => m.rx ++ [mmOctets p]) wakeIgnored_mm
  case noCollision => exact congrArg Host.Outcome.next (mmCollide_none (.inr h))
  case late =>
    refine ⟨_, congrArg Host.Outcome.next (mmCollide_late hup htx hb), ?_, congrArg MmSt.attempts (mmDropped_mm _), (mmDropped_bit ..).trans (State.bit_setBit_self _ _ _ (by decide)), ?_⟩
    · exact (congrArg MmSt.tx (mmDropped_mm _)).trans (congrArg (fun m : MmSt => m.tx.tail) <| (State.setBit_mm ..).trans ((mmCount_mm ..).trans plcaCollided_mm))
    · exact (mmDropped_mem _).trans ((State.setBit_mem ..).trans ((mmCount_mem ..).trans plcaCollided_mem))
  case excess =>
    refine ⟨_, congrArg Host.Outcome.next (mmCollide_excess hup htx hb ha), ?_, congrArg MmSt.attempts (mmDropped_mm _),
      (mmDropped_bit ..).trans (bit_setStatus_self _ _ _ _ _ _ (by decide) (by decide)), ?_⟩
    · exact (congrArg MmSt.tx (mmDropped_mm _)).trans (congrArg (fun m : MmSt => m.tx.tail) <| (setStatus_mm ..).trans ((mmCount_mm ..).trans plcaCollided_mm))
    · exact (mmDropped_mem _).trans ((setStatus_mem ..).trans ((mmCount_mem ..).trans plcaCollided_mem))
  case waits =>
    obtain ⟨n, hn, hlt⟩ := mmWaits_backoff s.plcaCollided
    obtain ⟨htx', hattempts, hmem⟩ := mmWaits_keeps s.plcaCollided
    rw [plcaCollided_mm] at hlt htx' hattempts
    exact ⟨_, n, congrArg Host.Outcome.next (mmCollide_waits hup htx hb ha), htx', hattempts, hn, hlt, hmem.trans plcaCollided_mem⟩
  case noFrame => exact congrArg Host.Outcome.next (mmSent_none (.inr h))
  case sent =>
    refine ⟨_, congrArg Host.Outcome.next (mmSent_counts hup htx hb), ?_, ?_, ?_, ?_, fun i _ => ?_⟩
    · exact congrArg MmSt.tx (mmSentCounted_frame State.mm mmCount_mm _ _ _)
    · exact congrArg MmSt.attempts (mmSentCounted_frame State.mm mmCount_mm _ _ _)
    · exact congrArg (· ++ [.mgmt f]) (mmSentCounted_frame State.out mmCount_out _ _ _)
    · exact mmSentCounted_frame State.mem mmCount_mem _ _ _
    · exact mmSentCounted_stat _ _ _ _
  case noPlca =>
    obtain ⟨hloss, hresume⟩ := beacons_off (.inr h)
    exact ⟨congrArg Host.Outcome.next hloss, congrArg Host.Outcome.next hresume⟩
  case plca => exact ⟨congrArg Host.Outcome.next (beaconResume_on hup h), _, rfl, beaconLoss_shows hup h⟩
  case ordinary => exact congrArg Host.Outcome.next (wakeFrame_ordinary h)
  case hears => exact congrArg Host.Outcome.next (wakeFrame_wakes h hw)
  case ignores => exact congrArg Host.Outcome.next (wakeFrame_ignored h hw)
  case down =>
    exact ⟨congrArg Host.Outcome.next (serveMgmt_down h), congrArg Host.Outcome.next (serveMgmt_down h), congrArg Host.Outcome.next (serveMgmt_down h),
      congrArg Host.Outcome.next (serveMgmt_down h), congrArg Host.Outcome.next (serveMgmt_down h), congrArg Host.Outcome.next (serveMgmt_down h),
      congrArg Host.Outcome.next (serveMgmt_down h)⟩
  case again =>
    exact ⟨congrArg Host.Outcome.next (serveMgmt_repeats h hc), congrArg Host.Outcome.next (serveMgmt_repeats h hc), congrArg Host.Outcome.next (serveMgmt_repeats h hc),
      congrArg Host.Outcome.next (serveMgmt_repeats h hc), congrArg Host.Outcome.next (serveMgmt_repeats h hc), congrArg Host.Outcome.next (serveMgmt_repeats h hc),
      congrArg Host.Outcome.next (serveMgmt_repeats h hc)⟩
  case fresh =>
    have hreq : ∀ sg, s.sec.cache.find? (fun e => e.1 = MgmtReq.reqId ⟨src, m, sg⟩) = none := fun _ => hc
    simp only [List.mem_cons, Prod.mk.injEq, List.not_mem_nil, or_false] at hmem
    rcases hmem with ⟨rfl, rfl⟩ | ⟨rfl, rfl⟩ | ⟨rfl, rfl⟩ | ⟨rfl, rfl⟩ | ⟨rfl, rfl⟩ | ⟨rfl, rfl⟩
    · exact ⟨_, (answered_of_serves h (hreq []) (mgmtIdent_eq ..) rfl).imp fun _ hp => hp.imp fun _ hp => ⟨rfl, hp⟩⟩
    · exact ⟨_, (answered_of_serves h (hreq []) (mgmtStatus_eq ..) rfl).imp fun _ hp => hp.imp fun _ hp => ⟨rfl, hp⟩⟩
    · exact ⟨_, (answered_of_serves h (hreq []) (mgmtNewNonce_eq ..) rfl).imp fun _ hp => hp.imp fun _ hp => ⟨rfl, hp⟩⟩
    · exact ⟨_, (answered_of_serves h (hreq sig) (mgmtStage_eq ..) (stageServed_mm image)).imp fun _ hp => hp.imp fun _ hp => ⟨rfl, hp⟩⟩
    · exact ⟨_, (answered_of_serves h (hreq []) (mgmtList_eq ..) rfl).imp fun _ hp => hp.imp fun _ hp => ⟨rfl, hp⟩⟩
    · exact ⟨_, (answered_of_serves h (hreq []) (mgmtRead_eq ..) (sampleRead_mm _ _ _)).imp fun _ hp => hp.imp fun _ hp => ⟨rfl, hp⟩⟩
  case ident => exact congrArg Host.Outcome.next ((mgmtIdent_eq ..).trans (serveMgmt_serves (r := ⟨src, m, []⟩) h hc))
  case status => exact congrArg Host.Outcome.next ((mgmtStatus_eq ..).trans (serveMgmt_serves (r := ⟨src, m, []⟩) h hc))
  case nonce =>
    obtain ⟨hnonce, htx, hmem⟩ := nonce_answer s ⟨src, m, []⟩ (response ⟨src, m, []⟩ 3 0 (s.mmTake.drawBytes 16).1)
    exact ⟨_, _, congrArg Host.Outcome.next ((mgmtNewNonce_eq ..).trans (serveMgmt_serves (r := ⟨src, m, []⟩) h hc)), drawBytes_length .., hnonce, htx, hmem⟩
  case unsigned => exact mgmtSigned_none (s := s.mmTake) hs
  case stageFails =>
    obtain ⟨htx, hflash, hfw⟩ := answer_fails s.mmTake ⟨src, m, sig⟩ 4
    refine ⟨_, _, mgmtFails_status s.mmTake, congrArg Host.Outcome.next ((mgmtStage_eq ..).trans ((serveMgmt_serves (r := ⟨src, m, sig⟩) h hc).trans ?_)), htx, hflash, hfw⟩
    rw [stageServed_unsigned (s := s.mmTake) hs]
  case activateFails =>
    obtain ⟨htx, hflash, hfw⟩ := answer_fails s.mmTake ⟨src, m, sig⟩ 5
    refine ⟨_, _, mgmtFails_status s.mmTake, congrArg Host.Outcome.next ((mgmtActivate_eq ..).trans ((serveMgmt_serves (r := ⟨src, m, sig⟩) h hc).trans ?_)), htx, hflash, hfw⟩
    rw [activateServed_unsigned (s := s.mmTake) hs]
  case shifting =>
    obtain ⟨htx, -, -⟩ := answer_fails (s.mmTake.setBit Reg.HF_FW_STATUS 4 true) ⟨src, m, sig⟩ 4
    refine ⟨_, _, mgmtFails_status (s.mmTake.setBit Reg.HF_FW_STATUS 4 true),
      congrArg Host.Outcome.next ((mgmtStage_eq ..).trans ((serveMgmt_serves (r := ⟨src, m, sig⟩) h hc).trans ?_)), ?_, htx.trans ?_⟩
    · rw [stageServed_shifting (s := s.mmTake) hs hshift]
    · exact (answer_bit ..).trans ((mgmtFails_bit ..).trans (State.bit_setBit_self _ _ _ (by decide)))
    · rw [State.setBit_mm]
      rfl
  case stages =>
    refine congrArg Host.Outcome.next ((mgmtStage_eq ..).trans ((serveMgmt_serves (r := ⟨src, m, sig⟩) h hc).trans ?_))
    rw [stageServed_stages (s := s.mmTake) hs hshift hb]
    rfl
  case activates =>
    refine congrArg Host.Outcome.next ((mgmtActivate_eq ..).trans ((serveMgmt_serves (r := ⟨src, m, sig⟩) h hc).trans ?_))
    rw [activateServed_signed (s := s.mmTake) hs]
    rfl
  case list => exact congrArg Host.Outcome.next ((mgmtList_eq ..).trans (serveMgmt_serves (r := ⟨src, m, []⟩) h hc))
  case read => exact congrArg Host.Outcome.next ((mgmtRead_eq ..).trans (serveMgmt_serves (r := ⟨src, m, []⟩) h hc))

end Sys2Proof.Machine
end

section
/-! PROOFS. Icaux at run time (O56): messages, restarts with their core samples, GOOD and STAGED, and shift change. -/

namespace Sys2Proof.Machine

/-! ### What a write of EXT or of HOST leaves of Icaux -/

section Still

/-- Log flash, the firmware's state, and the clock. -/
def State.still (s : State) : FlashSt × FwSt × BitVec 64 := (s.flash, s.fw, s.usecN)

/-- A state with the same log flash, firmware state, clock and HF_FW registers. -/
structure SameIcaux (s t : State) : Prop where
  still : t.still = s.still
  regs : ∀ a, 0x4000 ≤ a → a < 0x4028 → t.rd a = s.rd a

/-- A register that is none of HF_FW. -/
def NotIcaux (a : Nat) : Prop := a < 0x4000 ∨ 0x4028 ≤ a

theorem SameIcaux.refl (s : State) : SameIcaux s s := ⟨rfl, fun _ _ _ => rfl⟩

section Closure

variable {s t u : State}

theorem SameIcaux.trans (h : SameIcaux s t) (k : SameIcaux t u) : SameIcaux s u :=
  ⟨k.still.trans h.still, fun a h1 h2 => (k.regs a h1 h2).trans (h.regs a h1 h2)⟩

theorem SameIcaux.of_regs (h : t.still = s.still) (hr : t.regs = s.regs) : SameIcaux s t := ⟨h, fun a _ _ => State.rd_congr hr a⟩

theorem SameIcaux.wr (s : State) {a : Nat} (ha : NotIcaux a) (v : Word) : SameIcaux s (s.wr a v) :=
  ⟨rfl, fun b h1 h2 => State.rd_wr_other _ _ fun hb => by rw [hb] at h1 h2; exact ha.elim (fun h => absurd h1 h.not_ge) (fun h => absurd h2 h.not_gt)⟩

theorem SameIcaux.setFld (s : State) {a : Nat} (ha : NotIcaux a) (lo n v : Nat) : SameIcaux s (s.setFld a lo n v) := SameIcaux.wr s ha _
theorem SameIcaux.count (s : State) {a : Nat} (ha : NotIcaux a) (lo n k : Nat) : SameIcaux s (s.count a lo n k) := SameIcaux.wr s ha _

theorem SameIcaux.raise (s : State) (code : Code) (cls : EvClass) (source : Nat) (data : List Nat) : SameIcaux s (s.raise code cls source data) := by
  by_cases hc : cls = .moduleFatal
  · have hsame : SameIcaux s (s.wr Reg.PW_ALERT (s.rd Reg.PW_ALERT ||| 0x20#32)) := SameIcaux.wr s (.inr (by decide)) _
    have hregs : (s.raise code cls source data).regs = (s.wr Reg.PW_ALERT (s.rd Reg.PW_ALERT ||| 0x20#32)).regs := if_pos hc
    exact hsame.trans (SameIcaux.of_regs rfl hregs)
  · exact SameIcaux.of_regs rfl (if_neg hc)

theorem SameIcaux.setStatus (s : State) {a : Nat} (ha : NotIcaux a) (i : Nat) (code : Code) (cls : EvClass) (source : Nat) (data : List Nat) :
    SameIcaux s (s.setStatus a i code cls source data) := by
  unfold State.setStatus
  split
  · exact SameIcaux.refl s
  · exact (SameIcaux.setFld s ha i 1 _).trans (SameIcaux.raise _ ..)

end Closure

variable (s : State) (c addr a : Nat)

theorem notIcaux_levelStatus : NotIcaux (Reg.LD_STATUS c) := .inr (by unfold Reg.LD_STATUS; omega)
theorem notIcaux_levelEccCount : NotIcaux (Reg.LD_ECC_COUNT c) := .inr (by unfold Reg.LD_ECC_COUNT; omega)
theorem notIcaux_levelLastErr : NotIcaux (Reg.LD_LAST_ERR c) := .inr (by unfold Reg.LD_LAST_ERR; omega)
theorem notIcaux_levelLastSym : NotIcaux (Reg.LD_LAST_SYM c) := .inr (by unfold Reg.LD_LAST_SYM; omega)

theorem sameIcaux_pairUe : SameIcaux s (s.pairUe c addr) :=
  ((SameIcaux.setStatus s (notIcaux_levelStatus c) ..).trans (SameIcaux.count _ (notIcaux_levelEccCount c) ..)).trans (SameIcaux.wr _ (notIcaux_levelLastErr c) _)

theorem sameIcaux_pairCe (sym : Nat) : SameIcaux s (s.pairCe c addr sym) :=
  (((SameIcaux.setStatus s (notIcaux_levelStatus c) ..).trans (SameIcaux.count _ (notIcaux_levelEccCount c) ..)).trans (SameIcaux.wr _ (notIcaux_levelLastErr c) _)).trans
    (SameIcaux.setFld _ (notIcaux_levelLastSym c) ..)

theorem sameIcaux_setCache (l : List CheckEntry) : SameIcaux s (s.setCache c l) :=
  SameIcaux.of_regs (foldl_frame State.still (fun v e => by split <;> rfl) _ _) (setCache_regs c l)

theorem setBytes_still (l : List Byte) (s : State) (a : Nat) : (s.setBytes a l).still = s.still := by
  induction l generalizing s a with
  | nil => rfl
  | cons b r ih => exact ih (s.setByte a b) (a + 1)

theorem sameIcaux_storePair (left : Option Errors) (bs : List Byte) : SameIcaux s (s.storePair c addr a left bs) := by
  refine SameIcaux.of_regs ?_ (storePair_regs c addr a left bs)
  have hset : ∀ (t : State), (State.freshCheck { t.setBytes a bs with pairErrs := t.pairErrs.put [] (a / 128) [] } c addr).still = t.still :=
    fun t => setBytes_still bs t a
  unfold State.storePair
  refine (hset _).trans ?_
  split
  · split
    · rfl
    · exact setBytes_still _ s _
  · exact setBytes_still _ s _

theorem sameIcaux_touchArea (block : Nat) : SameIcaux s (s.touchArea c block).1 := by
  unfold State.touchArea
  dsimp only
  split
  · exact sameIcaux_setCache s c _
  · refine SameIcaux.trans ?_ (sameIcaux_setCache _ c _)
    split
    · exact SameIcaux.refl s
    · exact sameIcaux_pairCe s c _ _
    · exact sameIcaux_pairUe s c _

theorem sameIcaux_writePair (bs : List Byte) : SameIcaux s (s.writePair a bs) := by
  unfold State.writePair
  split
  · exact SameIcaux.refl s
  · rename_i c addr _
    split
    · exact SameIcaux.refl s
    · refine (sameIcaux_touchArea s c (addr / 4096)).trans ?_
      dsimp only
      split
      · exact sameIcaux_storePair ..
      · split
        · exact sameIcaux_storePair ..
        · exact (sameIcaux_pairCe ..).trans (sameIcaux_storePair ..)
        · exact ((sameIcaux_pairUe ..).trans (sameIcaux_storePair ..)).trans (SameIcaux.setFld _ (notIcaux_levelStatus c) ..)

theorem sameIcaux_writePairs (l : List (Nat × Nat)) (s : State) (bs : List Byte) : SameIcaux s (s.writePairs l bs) := by
  induction l generalizing s bs with
  | nil => exact SameIcaux.refl s
  | cons p r ih => exact (sameIcaux_writePair s p.1 (bs.take p.2)).trans (ih _ _)

theorem postWrites_still (w : Nat) (l : List (Nat × Nat)) (s : State) (bs : List Byte) : (s.postWrites w l bs).still = s.still := by
  induction l generalizing s bs with
  | nil => rfl
  | cons p r ih => exact ih _ _

theorem sameIcaux_writeHost (bs : List Byte) : SameIcaux s (s.writeHost a bs) := by
  unfold State.writeHost
  split
  · exact SameIcaux.raise s ..
  · split
    · exact SameIcaux.raise s ..
    · split
      · exact SameIcaux.refl s
      · exact SameIcaux.of_regs (postWrites_still ..) (postWrites_regs ..)

/-- A write beyond the banks. -/
theorem sameIcaux_writeDev (h : bankEnd ≤ a) (ag : Agent) (bs : List Byte) : SameIcaux s (s.writeDev ag a bs) := by
  unfold State.writeDev
  rw [if_neg h.not_gt]
  split
  · exact SameIcaux.refl s
  · split
    · exact sameIcaux_writePairs ..
    · exact sameIcaux_writeHost ..

end Still

/-! ### Core samples (R400) -/

section Samples

variable (s : State) (c cause : Nat) (core data records : List Byte)

theorem bankEnd_le_sampleBase {a : Nat} (h : s.sampleBase = some a) : bankEnd ≤ a := by
  have hext : bankEnd ≤ extBase - 0x4000000 := by decide
  unfold State.sampleBase at h
  split at h
  · obtain ⟨k, -, hk⟩ := Option.map_eq_some_iff.mp h
    omega
  · dsimp only at h
    split at h
    · cases h
    · have ha := Option.some.inj h
      omega

/-- A core sample in EXT counted. -/
def State.extEntry (s : State) (x : Nat) : State :=
  { s with fw := { s.fw with extNext := s.fw.extNext + 1, extUnread := s.fw.extUnread.filter (· ≠ x) ++ [x] } }

/-- A core sample in the next entry of EXT, where there is one. -/
def State.sampleToExt (s : State) (b : List Byte) : State :=
  match (if 4 ≤ s.fld Reg.PC_BOOT 0 3 then s.sampleBase else none) with
  | some a => (s.writeDev .outside (a + 0x100000 * (s.fw.extNext % 64)) b).extEntry (s.fw.extNext % 64)
  | none => s

/-- Whether a sample takes the place of one that nobody has read. -/
def State.sampleLoses (s : State) : Bool :=
  s.flash.unread.contains (s.flash.sampleNo % 64) || (decide (4 ≤ s.fld Reg.PC_BOOT 0 3) && s.fw.extUnread.contains (s.fw.extNext % 64))

/-- A core sample queued for its entry of log flash. -/
def State.sampleQueued (s : State) (e : Nat) (b : List Byte) : State :=
  State.queueFlash { s with flash := { s.flash with sampleNo := s.flash.sampleNo + 1 } } (.sample e b)

/-- SAMPLE_LOST set where a sample is lost. -/
def State.lossNoted (s : State) (lost : Bool) : State := if lost then s.setBit Reg.HF_FW_STATUS 5 true else s

theorem takeSample_eq : s.takeSample c cause core data records =
    ((((s.sampleToExt (s.sampleBytes c cause core data records)).sampleQueued (s.flash.sampleNo % 64) (s.sampleBytes c cause core data records)).lossNoted
      s.sampleLoses).raise .CORE_SAMPLE .info (srcComponent c) [c, cause]) := rfl

/-- The firmware's state but for the samples in EXT. -/
def FwSt.apart (w : FwSt) : FwSt := { w with extNext := 0, extUnread := [] }

theorem extEntry_keeps (x : Nat) : (s.extEntry x).flash = s.flash ∧ (s.extEntry x).fw.apart = s.fw.apart ∧ (s.extEntry x).usecN = s.usecN := ⟨rfl, rfl, rfl⟩
theorem extEntry_rd (x r : Nat) : (s.extEntry x).rd r = s.rd r := State.rd_congr rfl r

theorem sampleToExt_keeps (b : List Byte) : (s.sampleToExt b).flash = s.flash ∧ (s.sampleToExt b).fw.apart = s.fw.apart ∧ (s.sampleToExt b).usecN = s.usecN ∧
    ∀ r, 0x4000 ≤ r → r < 0x4028 → (s.sampleToExt b).rd r = s.rd r := by
  unfold State.sampleToExt
  split
  · rename_i a ha
    split at ha
    · obtain ⟨hstill, hregs⟩ := sameIcaux_writeDev s (a + 0x100000 * (s.fw.extNext % 64)) ((bankEnd_le_sampleBase s ha).trans (Nat.le_add_right ..)) .outside b
      generalize s.writeDev .outside (a + 0x100000 * (s.fw.extNext % 64)) b = t at hstill hregs
      obtain ⟨hflash, hfw, hclock⟩ := extEntry_keeps t (s.fw.extNext % 64)
      exact ⟨hflash.trans (congrArg Prod.fst hstill), hfw.trans (congrArg (fun p => FwSt.apart p.2.1) hstill), hclock.trans (congrArg (fun p => p.2.2) hstill),
        fun r h1 h2 => (extEntry_rd ..).trans (hregs r h1 h2)⟩
    · cases ha
  · exact ⟨rfl, rfl, rfl, fun _ _ _ => rfl⟩

theorem sampleQueued_flash (e : Nat) (b : List Byte) :
    (s.sampleQueued e b).flash = { s.flash with sampleNo := s.flash.sampleNo + 1, jobs := s.flash.jobs ++ [.sample e b] } := rfl
theorem sampleQueued_fw (e : Nat) (b : List Byte) : (s.sampleQueued e b).fw = s.fw := rfl
theorem sampleQueued_usecN (e : Nat) (b : List Byte) : (s.sampleQueued e b).usecN = s.usecN := rfl
theorem sampleQueued_rd (e : Nat) (b : List Byte) (r : Nat) : (s.sampleQueued e b).rd r = s.rd r := State.rd_congr rfl r

theorem lossNoted_flash (lost : Bool) : (s.lossNoted lost).flash = s.flash := by cases lost <;> rfl
theorem lossNoted_fw (lost : Bool) : (s.lossNoted lost).fw = s.fw := by cases lost <;> rfl
theorem lossNoted_usecN (lost : Bool) : (s.lossNoted lost).usecN = s.usecN := by cases lost <;> rfl
theorem lossNoted_rd (lost : Bool) {r : Nat} (h : r ≠ Reg.HF_FW_STATUS) : (s.lossNoted lost).rd r = s.rd r := by
  cases lost
  · rfl
  · exact State.rd_wr_other _ _ h

theorem takeSample_flash : (s.takeSample c cause core data records).flash =
    { s.flash with sampleNo := s.flash.sampleNo + 1, jobs := s.flash.jobs ++ [.sample (s.flash.sampleNo % 64) (s.sampleBytes c cause core data records)] } := by
  rw [takeSample_eq, State.raise_flash, lossNoted_flash, sampleQueued_flash, (sampleToExt_keeps ..).1]

theorem takeSample_fw : (s.takeSample c cause core data records).fw.apart = s.fw.apart := by
  rw [takeSample_eq, State.raise_fw, lossNoted_fw, sampleQueued_fw, (sampleToExt_keeps ..).2.1]

theorem takeSample_usecN : (s.takeSample c cause core data records).usecN = s.usecN := by
  rw [takeSample_eq, State.raise_usecN, lossNoted_usecN, sampleQueued_usecN, (sampleToExt_keeps ..).2.2.1]

theorem takeSample_rd {r : Nat} (h1 : 0x4000 ≤ r) (h2 : r < 0x4028) (h : r ≠ Reg.HF_FW_STATUS) : (s.takeSample c cause core data records).rd r = s.rd r := by
  rw [takeSample_eq, State.rd_congr (raise_regs _ _ (by decide) _ _), lossNoted_rd _ _ h, sampleQueued_rd, (sampleToExt_keeps ..).2.2.2 r h1 h2]

theorem takeSample_event : ∃ e ∈ (s.takeSample c cause core data records).evq, e.code = .CORE_SAMPLE := by
  rw [takeSample_eq, raise_evq]
  exact ⟨_, List.mem_append_right _ (List.mem_singleton_self _), rfl⟩

end Samples

/-! ### Messages and restarts (R393 to R395, R468) -/

section Components

variable {s : State} {c cause : Nat} {core data records : List Byte} {ok : Bool}

theorem deaf_of_down (h : 8 ≤ c ∨ s.powerUp = false) : (decide (8 ≤ c) || !s.fwUp) = true := by
  rw [State.fwUp]
  obtain h | h := h
  · rw [decide_eq_true h, Bool.true_or]
  · rw [h]
    exact Bool.or_true _

theorem not_deaf (hc : c < 8) (h : s.powerUp = true) : ¬ (decide (8 ≤ c) || !s.fwUp) = true := by
  rw [State.fwUp, decide_eq_false hc.not_ge, h]
  decide

theorem components_down (h : 8 ≤ c ∨ s.powerUp = false) (msg : List Byte) (taken : Nat) : s.message c msg taken = s ∧
    s.componentRestart c cause ok core data records = s ∧ s.watchdog c ok core data records = s ∧ s.sampleNow c core data records = s := by
  have hdown := deaf_of_down h
  refine ⟨if_pos hdown, if_pos ?_, if_pos hdown, if_pos hdown⟩
  rw [Bool.or_right_comm, hdown, Bool.true_or]

theorem message_full (hc : c < 8) (h : s.powerUp = true) (hq : 256 ≤ (s.fw.queues.get [] c).length) (msg : List Byte) (taken : Nat) :
    s.message c msg taken = State.emit { s with fw := { s.fw with queues := s.fw.queues.put [] c ((s.fw.queues.get [] c).drop taken) } } (.fwMsg c 1) :=
  (if_neg (not_deaf hc h)).trans (if_pos hq)

theorem message_enters (hc : c < 8) (h : s.powerUp = true) (hq : (s.fw.queues.get [] c).length < 256) (msg : List Byte) (taken : Nat) :
    s.message c msg taken = State.emit { s with fw := { s.fw with queues := s.fw.queues.put [] c ((s.fw.queues.get [] c ++ [(msg ++ List.replicate 64 0#8).take 64]).drop taken) } } (.fwMsg c 0) :=
  (if_neg (not_deaf hc h)).trans (if_neg hq.not_ge)

theorem componentRestart_otherCause (h : 2 ≤ cause) : s.componentRestart c cause ok core data records = s := if_pos (by rw [decide_eq_true h, Bool.or_true, Bool.true_or])

theorem componentRestart_restarts (hc : c < 8) (h : s.powerUp = true) (hcause : cause < 2) :
    s.componentRestart c cause ok core data records = s.restart c cause ok core data records := by
  refine if_neg ?_
  rw [Bool.or_right_comm, decide_eq_false hcause.not_ge, Bool.or_false]
  exact not_deaf hc h

theorem watchdog_restarts (hc : c < 8) (h : s.powerUp = true) :
    s.watchdog c ok core data records = (s.raise .WATCHDOG .corrected (srcComponent c) [c]).restart c 2 ok core data records := if_neg (not_deaf hc h)

theorem sampleNow_samples (hc : c < 8) (h : s.powerUp = true) :
    s.sampleNow c core data records = (s.setBit Reg.HF_FW_CTL 3 false).takeSample c 4 core data records := if_neg (not_deaf hc h)

/-- All eight components started from their records. -/
def State.allRestarted (s : State) (now : Nat) : State := { s with fw := { s.fw with warm := some now, stopped := [] } }

theorem fields_of_apart {v w : FwSt} (h : v.apart = w.apart) :
    v.faults = w.faults ∧ v.warm = w.warm ∧ v.crippled = w.crippled ∧ v.failed = w.failed ∧ v.stopped = w.stopped := by
  obtain ⟨⟩ := v
  obtain ⟨⟩ := w
  simp only [FwSt.apart, FwSt.mk.injEq] at h
  simp only [h, and_self]

/-- Whether a warm restart is the second one within 10 minutes. -/
def State.warmAgain (s : State) : Bool := match s.fw.warm with | some t => decide (s.usecN.toNat < 600000000 + t) | none => false

theorem warmAgain_congr {t : State} (hfw : t.fw.apart = s.fw.apart) (hclock : t.usecN = s.usecN) : t.warmAgain = s.warmAgain := by
  obtain ⟨-, hwarm, -, -, -⟩ := fields_of_apart hfw
  unfold State.warmAgain
  rw [hwarm, hclock]

theorem warmAgain_first (h : ∀ t, s.fw.warm = some t → 600000000 + t ≤ s.usecN.toNat) : s.warmAgain = false := by
  unfold State.warmAgain
  split
  · exact decide_eq_false (h _ ‹_›).not_gt
  · rfl

theorem warmAgain_second {t : Nat} (h : s.fw.warm = some t) (hlt : s.usecN.toNat < 600000000 + t) : s.warmAgain = true := by
  unfold State.warmAgain
  rw [h]
  exact decide_eq_true hlt

theorem warmRestart_eq : s.warmRestart c core data records =
    if s.warmAgain then State.stopAll { (s.takeSample c 3 core data records).allRestarted s.usecN.toNat with
      fw := { ((s.takeSample c 3 core data records).allRestarted s.usecN.toNat).fw with crippled := true } } false
    else (s.takeSample c 3 core data records).allRestarted s.usecN.toNat := by
  have hclock := takeSample_usecN s c 3 core data records
  rw [← warmAgain_congr (takeSample_fw s c 3 core data records) hclock, ← hclock]
  rfl

theorem warmRestart_first (h : ∀ t, s.fw.warm = some t → 600000000 + t ≤ s.usecN.toNat) :
    s.warmRestart c core data records = (s.takeSample c 3 core data records).allRestarted s.usecN.toNat := by
  rw [warmRestart_eq, warmAgain_first h]
  rfl

theorem warmRestart_second {t : Nat} (h : s.fw.warm = some t) (hlt : s.usecN.toNat < 600000000 + t) : s.warmRestart c core data records =
    State.stopAll { (s.takeSample c 3 core data records).allRestarted s.usecN.toNat with
      fw := { ((s.takeSample c 3 core data records).allRestarted s.usecN.toNat).fw with crippled := true } } false := by
  rw [warmRestart_eq, warmAgain_second h hlt]
  rfl

theorem restart_supervisor : s.restart 0 cause ok core data records = (s.takeSample 0 cause core data records).warmRestart 0 core data records := by
  unfold State.restart
  exact if_pos rfl

/-- The faults of a component in the last 60 s. -/
def State.recentFaults (s : State) (c : Nat) : List Nat := (s.fw.faults.get [] c).filter (fun t => decide (s.usecN.toNat < 60000000 + t))

theorem recentFaults_congr {t : State} (hfw : t.fw.apart = s.fw.apart) (hclock : t.usecN = s.usecN) (c : Nat) : t.recentFaults c = s.recentFaults c := by
  obtain ⟨hfaults, -, -, -, -⟩ := fields_of_apart hfw
  unfold State.recentFaults
  rw [hfaults, hclock]

/-- A fault of a component noted. -/
def State.faultNoted (s : State) (c : Nat) (recent : List Nat) : State :=
  { s with fw := { s.fw with faults := s.fw.faults.put [] c recent, stopped := s.fw.stopped.filter (· ≠ c) } }

/-- A component restarted alone. -/
def State.restartedAlone (s : State) (c cause : Nat) : State :=
  (((s.emit (.fwMsg c 2)).raise .COMPONENT_RESTART .corrected (srcComponent c) [c, cause]).setBit Reg.HF_FW_STATUS 3 true).count Reg.HF_FW_COUNT 0 16 1

/-- A component that faults: the sample taken and the fault noted. -/
def State.faulted (s : State) (c cause : Nat) (core data records : List Byte) : State :=
  (s.takeSample c cause core data records).faultNoted c (s.recentFaults c ++ [s.usecN.toNat])

theorem restart_eq (hc : c ≠ 0) : s.restart c cause ok core data records =
    if !ok || decide (4 ≤ (s.recentFaults c ++ [s.usecN.toNat]).length) then (s.faulted c cause core data records).componentFailed c core data records
    else (s.faulted c cause core data records).restartedAlone c cause := by
  have hclock := takeSample_usecN s c cause core data records
  unfold State.faulted
  rw [← recentFaults_congr (takeSample_fw s c cause core data records) hclock, ← hclock]
  exact if_neg hc

theorem restart_alone (hc : c ≠ 0) (hok : ok = true) (hfew : (s.recentFaults c).length < 3) :
    s.restart c cause ok core data records = (s.faulted c cause core data records).restartedAlone c cause := by
  refine (restart_eq hc).trans (if_neg ?_)
  rw [List.length_append, List.length_singleton, hok, decide_eq_false (by omega)]
  decide

theorem restart_fails (hc : c ≠ 0) (h : ok = false ∨ 3 ≤ (s.recentFaults c).length) :
    s.restart c cause ok core data records = (s.faulted c cause core data records).componentFailed c core data records := by
  refine (restart_eq hc).trans (if_pos ?_)
  rw [List.length_append, List.length_singleton]
  obtain h | h := h
  · rw [h]
    rfl
  · rw [decide_eq_true (by omega), Bool.or_true]

theorem restartedAlone_keeps (s : State) (c cause : Nat) : (s.restartedAlone c cause).fw = s.fw ∧ (s.restartedAlone c cause).flash = s.flash := by
  unfold State.restartedAlone
  rw [State.count_fw, State.setBit_fw, State.raise_fw, State.emit_fw, State.count_flash, State.setBit_flash, State.raise_flash, State.emit_flash]
  exact ⟨rfl, rfl⟩

theorem restartedAlone_status (s : State) (c cause : Nat) : (s.restartedAlone c cause).bit Reg.HF_FW_STATUS 3 = true :=
  (State.bit_setFld_other _ _ _ _ _ (by decide)).trans (State.bit_setBit_self _ _ _ (by decide))

theorem restartedAlone_count (s : State) (c cause : Nat) :
    (s.restartedAlone c cause).fld Reg.HF_FW_COUNT 0 16 = min 65535 (s.fld Reg.HF_FW_COUNT 0 16 + 1) := by
  refine (fld_count_self _ _ _ (by decide)).trans ?_
  rw [State.fld_setBit_other _ _ _ _ _ (by decide), State.fld_congr (raise_regs _ _ (by decide) _ _), State.fld_congr (State.emit_regs ..)]
  rfl

theorem faulted_fw (s : State) (c cause : Nat) (core data records : List Byte) :
    (s.faulted c cause core data records).fw.apart = FwSt.apart { s.fw with
      faults := s.fw.faults.put [] c (s.recentFaults c ++ [s.usecN.toNat]), stopped := s.fw.stopped.filter (· ≠ c) } :=
  congrArg (fun w : FwSt => ({ w with faults := w.faults.put [] c (s.recentFaults c ++ [s.usecN.toNat]), stopped := w.stopped.filter (· ≠ c) } : FwSt))
    (takeSample_fw s c cause core data records)

theorem faulted_usecN (s : State) (c cause : Nat) (core data records : List Byte) : (s.faulted c cause core data records).usecN = s.usecN := takeSample_usecN ..

theorem faulted_flash (s : State) (c cause : Nat) (core data records : List Byte) : (s.faulted c cause core data records).flash.sampleNo = s.flash.sampleNo + 1 :=
  congrArg FlashSt.sampleNo (takeSample_flash s c cause core data records)

theorem faulted_count (s : State) (c cause : Nat) (core data records : List Byte) :
    (s.faulted c cause core data records).fld Reg.HF_FW_COUNT 0 16 = s.fld Reg.HF_FW_COUNT 0 16 :=
  congrArg (fun w : Word => bitsOf w.toNat 0 16) (takeSample_rd s c cause core data records (by decide) (by decide) (by decide))

/-- What the failure of a component leaves of the firmware's state, when no warm restart came before it. -/
theorem componentFailed_fw (h : ∀ t, s.fw.warm = some t → 600000000 + t ≤ s.usecN.toNat) :
    (s.componentFailed c core data records).fw.apart = FwSt.apart { s.fw with failed := true, warm := some s.usecN.toNat, stopped := [] } := by
  have hfirst := warmRestart_first (s := State.raise { s with fw := { s.fw with failed := true } } .COMPONENT_FAILED .moduleFatal (srcComponent c) [c])
    (c := c) (core := core) (data := data) (records := records) h
  refine (congrArg (fun v : State => v.fw.apart) hfirst).trans ?_
  exact congrArg (fun w : FwSt => ({ w with warm := some s.usecN.toNat, stopped := [] } : FwSt)) (takeSample_fw ..)

end Components

/-! ### GOOD and STAGED (R391, R396) -/

section Slots

variable {s : State}

theorem goodCopy_none (h : s.fw.s5At = none) : s.goodCopy = s := by
  unfold State.goodCopy
  rw [h]

/-- The condition under which GOOD_IMAGE_COPY does nothing, for S5 begun at `at_`. -/
theorem goodWaits_iff (at_ : Nat) : (decide (s.usecN.toNat < 600000000 + at_) || s.fw.failed || s.fw.crippled || !s.fwUp) = true ↔
    ¬ (600000000 + at_ ≤ s.usecN.toNat ∧ s.fw.failed = false ∧ s.fw.crippled = false ∧ s.powerUp = true) := by
  simp only [State.fwUp, Bool.or_eq_true, decide_eq_true_eq, Bool.not_eq_true', not_and_or, Nat.not_le, Bool.not_eq_false, Bool.not_eq_true, or_assoc]

/-- The running image in the GOOD slot. -/
def State.goodStored (s : State) : State := { s with flash := { s.flash with good := some s.runImage } }
/-- ACTIVATE_ON_BOOT cleared for an image that is GOOD. -/
def State.bootCleared (s : State) : State :=
  { s with flash := { s.flash with activateOnBoot := false, tries := 0 }, fw := { s.fw with fromStaged := false } }
def State.goodSettled (s : State) : State := s.bootCleared.setBit Reg.HF_FW_CTL 2 false

theorem goodCopy_eq {at_ : Nat} (h : s.fw.s5At = some at_) : s.goodCopy =
    if decide (s.usecN.toNat < 600000000 + at_) || s.fw.failed || s.fw.crippled || !s.fwUp then s
    else if !s.goodStored.fw.fromStaged then s.goodStored else s.goodStored.goodSettled := by
  unfold State.goodCopy
  rw [h]
  rfl

theorem goodStored_keeps (s : State) : s.goodStored.flash.good = some s.runImage ∧ s.goodStored.mem = s.mem ∧ s.goodStored.regs = s.regs ∧
    s.goodStored.flash.activateOnBoot = s.flash.activateOnBoot ∧ s.goodStored.fw = s.fw := ⟨rfl, rfl, rfl, rfl, rfl⟩

theorem bootCleared_keeps (s : State) : s.bootCleared.flash.good = s.flash.good ∧ s.bootCleared.mem = s.mem ∧
    s.bootCleared.flash.activateOnBoot = false ∧ s.bootCleared.flash.tries = 0 := ⟨rfl, rfl, rfl, rfl⟩

theorem goodSettled_clears (s : State) : s.goodSettled.flash.good = s.flash.good ∧ s.goodSettled.mem = s.mem ∧ s.goodSettled.flash.activateOnBoot = false ∧
    s.goodSettled.flash.tries = 0 ∧ s.goodSettled.bit Reg.HF_FW_CTL 2 = false := by
  obtain ⟨hgood, hmem, hboot, htries⟩ := bootCleared_keeps s
  unfold State.goodSettled
  rw [State.setBit_flash, State.setBit_mem]
  exact ⟨hgood, hmem, hboot, htries, State.bit_setBit_self _ _ _ (by decide)⟩

/-- A failure of staging, with its code. -/
theorem stageFail_shows (s : State) {code : Nat} (h : code < 16) : (s.stageFail code).fld Reg.HF_FW_STATE 7 4 = code ∧
    (s.stageFail code).bit Reg.HF_FW_STATUS 0 = true ∧ (s.stageFail code).bit Reg.HF_FW_STATE 1 = false := by
  have hregs : (s.stageFail code).regs = (((s.setFld Reg.HF_FW_STATE 7 4 code).setBit Reg.HF_FW_STATUS 0 true).setBit Reg.HF_FW_STATE 1 false).regs :=
    raise_regs _ _ (by decide) _ _
  refine ⟨(State.fld_congr hregs _ _ _).trans ?_, (State.bit_congr hregs _ _).trans ?_, (State.bit_congr hregs _ _).trans (State.bit_setBit_self _ _ _ (by decide))⟩
  · rw [State.fld_setBit_apart _ _ _ (by decide) (by decide), State.fld_setBit_other _ _ _ _ _ (by decide), State.fld_setFld_self _ _ _ (by decide)]
    exact Nat.mod_eq_of_lt h
  · exact (State.bit_setBit_other _ _ _ _ (by decide)).trans (State.bit_setBit_self _ _ _ (by decide))

theorem stageFail_event (s : State) (code : Nat) : ∃ e, (s.stageFail code).evq = s.evq ++ [e] ∧ e.code = .FW_STAGE_FAIL := by
  unfold State.stageFail
  rw [raise_evq, State.setBit_evq, State.setBit_evq, State.setFld_evq]
  exact ⟨_, rfl, rfl⟩

theorem stageFail_frame (s : State) (code : Nat) : (s.stageFail code).flash = s.flash ∧ (s.stageFail code).mem = s.mem := by
  unfold State.stageFail
  rw [State.raise_flash, State.setBit_flash, State.setBit_flash, State.setFld_flash, State.raise_mem, State.setBit_mem, State.setBit_mem, State.setFld_mem]
  exact ⟨rfl, rfl⟩

theorem imageStaged_flash (s : State) (l : List Byte) : (s.imageStaged l).flash.staged = some l ∧ (s.imageStaged l).flash.tries = 0 := ⟨rfl, rfl⟩
theorem imageStaged_mem (s : State) (l : List Byte) : (s.imageStaged l).mem = s.mem := rfl

theorem imageStaged_rd (s : State) (l : List Byte) : (s.imageStaged l).rd Reg.HF_FW_STAGED = BitVec.ofNat 32 (imgVersion l) := State.rd_wr_self ..

theorem imageStaged_runs (s : State) (l : List Byte) : (s.imageStaged l).runImage = (s.setOther l).runImage := by
  have hbit : (s.imageStaged l).bit Reg.HF_FW_STATE 0 = (s.setOther l).bit Reg.HF_FW_STATE 0 := (State.bit_wr_other _ _ _ (by decide)).trans (State.bit_congr rfl _ _)
  unfold State.runImage
  rw [hbit]
  rfl

theorem stageImage_fails {l : List Byte} (h : (s.setOther l).verifyImage l ≠ 0) : s.stageImage l = (s.setOther l).stageFail ((s.setOther l).verifyImage l) :=
  (stageImage_eq s l).trans (if_pos h)

theorem stageImage_stands {l : List Byte} (h : (s.setOther l).verifyImage l = 0) (hf : formatsFit (s.setOther l).runImage l = true) :
    s.stageImage l = (s.imageStaged l).setBit Reg.HF_FW_STATE 1 true :=
  (stageImage_eq s l).trans ((if_neg (not_not_intro h)).trans (if_pos (by rw [imageStaged_runs]; exact hf)))

theorem stageImage_unfit {l : List Byte} (h : (s.setOther l).verifyImage l = 0) (hf : formatsFit (s.setOther l).runImage l = false) :
    s.stageImage l = (s.imageStaged l).stageFail 8 :=
  (stageImage_eq s l).trans ((if_neg (not_not_intro h)).trans (if_neg (by rw [imageStaged_runs, hf]; decide)))

theorem stageImage_keepsMem (l : List Byte) : (s.stageImage l).mem = s.mem := by
  rw [stageImage_eq]
  split
  · exact (stageFail_frame ..).2
  · split
    · exact (State.setBit_mem ..).trans (imageStaged_mem s l)
    · exact ((stageFail_frame ..).2).trans (imageStaged_mem s l)

/-- What STAGE takes: the bytes that the host returned, or zeros, SRC_LEN of them. -/
def State.stageBytes (s : State) (image : Option (List Byte)) : List Byte :=
  ((if s.busMaster.get false 0 then image.getD [] else []) ++ List.replicate (s.fld Reg.HF_FW_SRC_LEN 0 22) 0#8).take (s.fld Reg.HF_FW_SRC_LEN 0 22)
/-- The read of an image to stage. -/
def State.stageRead (s : State) : State :=
  (s.setBit Reg.HF_FW_CTL 0 false).emit (.hostRead 0 (s.rd2 Reg.HF_FW_SRC_LO Reg.HF_FW_SRC_HI) (s.fld Reg.HF_FW_SRC_LEN 0 22) false false)

theorem stageRead_mem (s : State) : s.stageRead.mem = s.mem := rfl

theorem stageHost_down (h : s.powerUp = false) (image : Option (List Byte)) : s.stageHost image = s := if_pos (by rw [State.fwUp, h]; rfl)

theorem stageHost_refused (h : s.powerUp = true) (hs : s.fw.shift ≠ 0) (image : Option (List Byte)) :
    s.stageHost image = (s.setBit Reg.HF_FW_CTL 0 false).setBit Reg.HF_FW_STATUS 4 true :=
  (if_neg (by rw [State.fwUp, h]; decide)).trans (if_pos hs)

theorem stageHost_stages (h : s.powerUp = true) (hs : s.fw.shift = 0) (image : Option (List Byte)) :
    s.stageHost image = s.stageRead.stageImage (s.stageBytes image) :=
  (if_neg (by rw [State.fwUp, h]; decide)).trans (if_neg (not_not_intro hs))

end Slots

/-! ### Shift change (R397 to R399) -/

section Shift

variable {s : State}

theorem activateWaits_iff : (!s.fwUp || s.fw.crippled || !s.bit Reg.HF_FW_STATE 1 || decide (s.fw.shift ≠ 0)) = true ↔
    ¬ (s.powerUp = true ∧ s.fw.crippled = false ∧ s.bit Reg.HF_FW_STATE 1 = true ∧ s.fw.shift = 0) := by
  simp only [State.fwUp, Bool.or_eq_true, decide_eq_true_eq, Bool.not_eq_true', not_and_or, Bool.not_eq_false, Bool.not_eq_true, or_assoc, ne_eq]

theorem emergencyClear_congr {t : State} (hbit : t.bit Reg.PW_THERM 16 = s.bit Reg.PW_THERM 16) (hp : t.power = s.power) (hf : t.fw = s.fw)
    (hu : t.usecN = s.usecN) (us : Nat) : t.emergencyClear us = s.emergencyClear us := by
  unfold State.emergencyClear State.emergency
  rw [hbit, hp, hf, hu]

/-- Whether no emergency has been in force for HOLD_S. -/
theorem clear_setBit : (s.setBit Reg.HF_FW_STATE 2 true).emergencyClear (s.setBit Reg.HF_FW_STATE 2 true).holdUs =
    s.emergencyClear (1000000 * s.fld Reg.HF_FW_CTL 8 8) := by
  have hhold : (s.setBit Reg.HF_FW_STATE 2 true).holdUs = 1000000 * s.fld Reg.HF_FW_CTL 8 8 :=
    congrArg (1000000 * ·) (State.fld_setBit_other _ _ _ _ _ (by decide))
  rw [hhold]
  exact emergencyClear_congr (State.bit_setBit_other _ _ _ _ (by decide)) (State.setBit_power ..) (State.setBit_fw ..) (State.setBit_usecN ..) _

/-- A shift change under way. -/
def State.shiftTo (s : State) (n : Nat) : State := { s with fw := { s.fw with shift := n } }

theorem shiftTo_keeps (s : State) (n : Nat) : (s.shiftTo n).fw.shift = n ∧ (s.shiftTo n).mem = s.mem := ⟨rfl, rfl⟩
theorem shiftTo_bit (s : State) (n a i : Nat) : (s.shiftTo n).bit a i = s.bit a i := State.bit_congr rfl a i

theorem activate_eq (s : State) : s.activate =
    if !s.fwUp || s.fw.crippled || !s.bit Reg.HF_FW_STATE 1 || s.fw.shift ≠ 0 then s
    else if (s.setBit Reg.HF_FW_STATE 2 true).emergencyClear (s.setBit Reg.HF_FW_STATE 2 true).holdUs then (s.setBit Reg.HF_FW_STATE 2 true).shiftTo 2
    else (s.setBit Reg.HF_FW_STATE 2 true).deferShift := rfl

section May

variable (h : s.powerUp = true ∧ s.fw.crippled = false ∧ s.bit Reg.HF_FW_STATE 1 = true ∧ s.fw.shift = 0)
include h

theorem activate_begins (hc : s.emergencyClear (1000000 * s.fld Reg.HF_FW_CTL 8 8) = true) : s.activate = (s.setBit Reg.HF_FW_STATE 2 true).shiftTo 2 :=
  (activate_eq s).trans ((if_neg (fun hw => activateWaits_iff.mp hw h)).trans (if_pos (clear_setBit.trans hc)))

theorem activate_defers (hc : s.emergencyClear (1000000 * s.fld Reg.HF_FW_CTL 8 8) = false) : s.activate = (s.setBit Reg.HF_FW_STATE 2 true).deferShift :=
  (activate_eq s).trans ((if_neg (fun hw => activateWaits_iff.mp hw h)).trans (if_neg (by rw [clear_setBit, hc]; decide)))

end May

theorem holdDue_iff : (decide (s.fw.shift = 1) && s.emergencyClear s.holdUs) = true ↔ s.fw.shift = 1 ∧ s.emergencyClear (1000000 * s.fld Reg.HF_FW_CTL 8 8) = true := by
  rw [Bool.and_eq_true, decide_eq_true_eq]
  rfl

theorem shiftHoldEnd_eq (s : State) : s.shiftHoldEnd = if s.fw.shift = 1 && s.emergencyClear s.holdUs then (s.shiftTo 2).setBit Reg.HF_FW_STATE 3 false else s := rfl

/-- Whether a slot drains or sweeps. -/
def State.slotsBusy (s : State) : Bool := (List.range 64).any (fun j => (s.job j).drainOrder ≠ 0 || s.slotIs j .sweep || s.slotIs j .draining)

/-- The pause begun. -/
def State.paused (s : State) : State := { s with fw := { s.fw with shift := 3, pausedAt := s.usecN.toNat } }

theorem pauseBegin_eq (s : State) : s.pauseBegin = if s.fw.shift ≠ 2 || s.slotsBusy then s else s.paused.setBit Reg.HF_FW_STATE 4 true := rfl

theorem pauseBegin_waits (h : s.fw.shift ≠ 2 ∨ s.slotsBusy = true) : s.pauseBegin = s :=
  (pauseBegin_eq s).trans (if_pos (by rw [Bool.or_eq_true, decide_eq_true_eq]; exact h))

theorem pauseBegin_pauses (h : s.fw.shift = 2) (hb : s.slotsBusy = false) : s.pauseBegin = s.paused.setBit Reg.HF_FW_STATE 4 true :=
  (pauseBegin_eq s).trans (if_neg (by rw [hb, h]; decide))

theorem paused_keeps (s : State) : s.paused.fw.shift = 3 ∧ s.paused.fw.pausedAt = s.usecN.toNat ∧ s.paused.mem = s.mem := ⟨rfl, rfl, rfl⟩

theorem shiftReady_waits (h : s.fw.shift ≠ 3 ∨ s.fw.pausedAt + 1200 < s.usecN.toNat) : s.shiftReady = s :=
  if_pos (by rw [Bool.or_eq_true, decide_eq_true_eq, decide_eq_true_eq]; exact h)

/-- The other image in force, before the pause ends. -/
def State.bankSwapped (s : State) : State := s.setBit Reg.HF_FW_STATE 0 (!s.bit Reg.HF_FW_STATE 0)
def State.otherNamed (s : State) (l : List Byte) : State := (s.setBit Reg.HF_FW_STATE 1 false).wr Reg.HF_FW_RUN (BitVec.ofNat 32 (imgVersion l))
def State.fromStagedSet (s : State) : State := { s with fw := { s.fw with fromStaged := true } }
def State.changeCounted (s : State) : State := (s.setBit Reg.HF_FW_STATUS 1 true).count Reg.HF_FW_COUNT 16 16 1
def State.otherInForce (s : State) (l : List Byte) : State := ((s.bankSwapped.otherNamed l).extendMeas 6 (sm3 (imgHead l))).fromStagedSet.changeCounted

theorem shiftReady_eq (s : State) : s.shiftReady = if s.fw.shift ≠ 3 || s.fw.pausedAt + 1200 < s.usecN.toNat then s
    else ((s.otherInForce (s.otherImage.getD [])).pauseEnd).raise .SHIFT_CHANGE .info (srcComponent 0) [imgVersion (s.otherImage.getD [])] := rfl

theorem shiftReady_changes (h : s.fw.shift = 3) (ht : s.usecN.toNat ≤ s.fw.pausedAt + 1200) : s.shiftReady =
    ((s.otherInForce (s.otherImage.getD [])).pauseEnd).raise .SHIFT_CHANGE .info (srcComponent 0) [imgVersion (s.otherImage.getD [])] :=
  (shiftReady_eq s).trans (if_neg (by rw [h, decide_eq_false ht.not_gt]; decide))

theorem rollback_waits (h : s.fw.shift ≠ 3) (c : Nat) : s.rollback c = s := if_pos h
theorem rollback_ends (h : s.fw.shift = 3) (c : Nat) :
    s.rollback c = ((s.setBit Reg.HF_FW_STATUS 2 true).pauseEnd).raise .SHIFT_ROLLBACK .corrected (srcComponent 0) [c] := if_neg (not_not_intro h)

/-! #### The end of a pause that holds nothing back -/

/-- The registers and the phase at the end of a pause. -/
def State.resumed (s : State) : State := { s with fw := { s.fw with shift := 0, haltDue := false } }
def State.pauseShown (s : State) (n : Nat) : State := (s.setFld Reg.HF_FW_STATE 2 3 0).setFld Reg.HF_FW_PAUSE 0 12 (min 4095 n)

theorem resumed_keeps (s : State) : s.resumed.fw.shift = 0 ∧ s.resumed.fw.fromStaged = s.fw.fromStaged ∧ s.resumed.jobs = s.jobs ∧ s.resumed.capsules = s.capsules ∧
    s.resumed.mem = s.mem ∧ s.resumed.evq = s.evq := ⟨rfl, rfl, rfl, rfl, rfl, rfl⟩
theorem resumed_rd (s : State) (a : Nat) : s.resumed.rd a = s.rd a := State.rd_congr rfl a

theorem pauseShown_frame {γ : Type} (g : State → γ) (hg : ∀ s a v, g (State.wr s a v) = g s) (s : State) (n : Nat) : g (s.pauseShown n) = g s :=
  (hg _ _ _).trans (hg _ _ _)

theorem releaseShift_none (h : ∀ j, j < 64 → (s.job j).shiftHeld = false) : s.releaseShift = s := by
  have hnone : (List.range 64).filter (fun j => (s.job j).shiftHeld) = [] :=
    List.filter_eq_nil_iff.mpr fun j hj => by rw [h j (List.mem_range.mp hj)]; decide
  unfold State.releaseShift
  rw [hnone]
  rfl

theorem flushAll_none (h : s.capsules = []) : s.flushAll = s := by
  unfold State.flushAll
  rw [h]
  rfl

theorem pauseEnd_eq (s : State) : s.pauseEnd = if s.fw.haltDue then (((s.resumed.pauseShown (s.usecN.toNat - s.fw.pausedAt)).releaseShift).flushAll).stopAll false
    else ((s.resumed.pauseShown (s.usecN.toNat - s.fw.pausedAt)).releaseShift).flushAll := rfl

theorem pauseEnd_free (hj : ∀ j, j < 64 → (s.job j).shiftHeld = false) (hd : s.fw.haltDue = false) (hc : s.capsules = []) :
    s.pauseEnd = s.resumed.pauseShown (s.usecN.toNat - s.fw.pausedAt) := by
  obtain ⟨-, -, hjobs, hcaps, -, -⟩ := resumed_keeps s
  have hrelease : (s.resumed.pauseShown (s.usecN.toNat - s.fw.pausedAt)).releaseShift = s.resumed.pauseShown (s.usecN.toNat - s.fw.pausedAt) := by
    refine releaseShift_none fun j hlt => ?_
    have hsame : (s.resumed.pauseShown (s.usecN.toNat - s.fw.pausedAt)).jobs = s.jobs := (pauseShown_frame State.jobs (fun _ _ _ => rfl) _ _).trans hjobs
    unfold State.job
    rw [hsame]
    exact hj j hlt
  rw [pauseEnd_eq, hd, hrelease]
  exact flushAll_none ((pauseShown_frame State.capsules (fun _ _ _ => rfl) _ _).trans (hcaps.trans hc))

/-- What no register holds, and FROM_STAGED does not touch, stays when the other image comes into force. -/
theorem otherInForce_frame {γ : Type} (g : State → γ) (hg : ∀ s a v, g (State.wr s a v) = g s) (hs : ∀ s, g (State.fromStagedSet s) = g s) (s : State) (l : List Byte) :
    g (s.otherInForce l) = g s := by
  have hcount : ∀ v : State, g v.changeCounted = g v := fun v => (hg (v.setBit Reg.HF_FW_STATUS 1 true) _ _).trans (hg v _ _)
  have hname : ∀ v : State, g (v.otherNamed l) = g v := fun v => (hg (v.setBit Reg.HF_FW_STATE 1 false) _ _).trans (hg v _ _)
  have hswap : g s.bankSwapped = g s := hg s _ _
  unfold State.otherInForce
  rw [hcount, hs, extendMeas_frame g hg, hname, hswap]

end Shift

section Shift

variable {s : State}

theorem changeCounted_rd (s : State) {r : Nat} (h1 : r ≠ Reg.HF_FW_STATUS) (h2 : r ≠ Reg.HF_FW_COUNT) : s.changeCounted.rd r = s.rd r :=
  (State.rd_setFld_other _ _ _ _ h2).trans (State.rd_setBit_other _ _ _ h1)

theorem changeCounted_status (s : State) : s.changeCounted.bit Reg.HF_FW_STATUS 1 = true :=
  (State.bit_setFld_other _ _ _ _ _ (by decide)).trans (State.bit_setBit_self _ _ _ (by decide))

theorem fromStagedSet_rd (s : State) (r : Nat) : s.fromStagedSet.rd r = s.rd r := State.rd_congr rfl r
theorem fromStagedSet_fw (s : State) : s.fromStagedSet.fw = { s.fw with fromStaged := true } := rfl

theorem extendMeas_rd (s : State) (n : Nat) (v : List Byte) {r : Nat} (h : r < 0x80100) : (s.extendMeas n v).rd r = s.rd r := by
  refine rd_setRegBytes_other _ fun i _ => ?_
  unfold Reg.SC_MEAS
  omega

theorem changed_rd (s : State) (l : List Byte) {r : Nat} (h : r < 0x80100) (h1 : r ≠ Reg.HF_FW_STATUS) (h2 : r ≠ Reg.HF_FW_COUNT) :
    (s.otherInForce l).rd r = (s.bankSwapped.otherNamed l).rd r :=
  (changeCounted_rd _ h1 h2).trans ((fromStagedSet_rd ..).trans (extendMeas_rd _ _ _ h))

theorem otherInForce_bank (s : State) (l : List Byte) : (s.otherInForce l).bit Reg.HF_FW_STATE 0 = !s.bit Reg.HF_FW_STATE 0 := by
  have hrd := changed_rd s l (r := Reg.HF_FW_STATE) (by decide) (by decide) (by decide)
  refine (congrArg (fun w : Word => bitOf w.toNat 0) hrd).trans ?_
  refine (State.bit_wr_other _ _ 0 (by decide)).trans ?_
  exact (State.bit_setFld_apart _ _ _ (by decide) (.inr (by decide))).trans (State.bit_setBit_self _ _ _ (by decide))

theorem otherInForce_unstaged (s : State) (l : List Byte) : (s.otherInForce l).bit Reg.HF_FW_STATE 1 = false := by
  have hrd := changed_rd s l (r := Reg.HF_FW_STATE) (by decide) (by decide) (by decide)
  refine (congrArg (fun w : Word => bitOf w.toNat 1) hrd).trans ?_
  exact (State.bit_wr_other _ _ 1 (by decide)).trans (State.bit_setBit_self _ _ _ (by decide))

theorem otherInForce_runs (s : State) (l : List Byte) : (s.otherInForce l).rd Reg.HF_FW_RUN = BitVec.ofNat 32 (imgVersion l) :=
  (changed_rd s l (by decide) (by decide) (by decide)).trans (State.rd_wr_self ..)

theorem otherInForce_fw (s : State) (l : List Byte) : (s.otherInForce l).fw = { s.fw with fromStaged := true } := by
  have hcount : ∀ v : State, v.changeCounted.fw = v.fw := fun v => (State.count_fw ..).trans (State.setBit_fw ..)
  have hname : ∀ v : State, (v.otherNamed l).fw = v.fw := fun v => (State.wr_fw ..).trans (State.setBit_fw ..)
  have hswap : s.bankSwapped.fw = s.fw := State.setBit_fw ..
  unfold State.otherInForce
  rw [hcount, fromStagedSet_fw, extendMeas_frame State.fw (fun _ _ _ => rfl), hname, hswap]

theorem pauseShown_rd (s : State) (n : Nat) {r : Nat} (h1 : r ≠ Reg.HF_FW_STATE) (h2 : r ≠ Reg.HF_FW_PAUSE) : (s.pauseShown n).rd r = s.rd r :=
  (State.rd_setFld_other _ _ _ _ h2).trans (State.rd_setFld_other _ _ _ _ h1)

/-- A field of four bits by its lowest and the others. -/
theorem bitsOf_one_four (v : Nat) : bitsOf v 1 4 = bitsOf v 1 1 + 2 * bitsOf v 2 3 := by
  unfold bitsOf
  omega

theorem pauseShown_state (s : State) (n : Nat) : (s.pauseShown n).bit Reg.HF_FW_STATE 0 = s.bit Reg.HF_FW_STATE 0 ∧
    (s.bit Reg.HF_FW_STATE 1 = false → (s.pauseShown n).fld Reg.HF_FW_STATE 1 4 = 0) := by
  refine ⟨(State.bit_setFld_other _ _ _ _ _ (by decide)).trans (State.bit_setFld_apart _ _ _ (by decide) (.inr (by decide))), fun h => ?_⟩
  have hlow : (s.setFld Reg.HF_FW_STATE 2 3 0).fld Reg.HF_FW_STATE 1 1 = 0 := by
    refine (State.fld_setFld_apart _ _ _ (by decide) (.inr (by decide))).trans ?_
    rw [State.bit_eq] at h
    have hlt : s.fld Reg.HF_FW_STATE 1 1 < 2 := Nat.mod_lt _ (by decide)
    have := of_decide_eq_false h
    omega
  have hhigh : (s.setFld Reg.HF_FW_STATE 2 3 0).fld Reg.HF_FW_STATE 2 3 = 0 := State.fld_setFld_self _ _ _ (by decide)
  refine (State.fld_setFld_other _ _ _ _ _ _ (by decide)).trans ((bitsOf_one_four _).trans ?_)
  unfold State.fld at hlow hhigh
  rw [hlow, hhigh]

/-- SHIFT_READY that holds nothing back: what it leaves. -/
theorem shiftReady_leaves (h : s.fw.shift = 3) (ht : s.usecN.toNat ≤ s.fw.pausedAt + 1200) (hj : ∀ j, j < 64 → (s.job j).shiftHeld = false) (hd : s.fw.haltDue = false)
    (hc : s.capsules = []) : s.shiftReady.fw.shift = 0 ∧ s.shiftReady.fw.fromStaged = true ∧ s.shiftReady.mem = s.mem ∧
      s.shiftReady.bit Reg.HF_FW_STATE 0 = (!s.bit Reg.HF_FW_STATE 0) ∧ s.shiftReady.fld Reg.HF_FW_STATE 1 4 = 0 ∧ s.shiftReady.bit Reg.HF_FW_STATUS 1 = true ∧
      s.shiftReady.rd Reg.HF_FW_RUN = BitVec.ofNat 32 (imgVersion (s.otherImage.getD [])) ∧ ∃ e, s.shiftReady.evq = s.evq ++ [e] ∧ e.code = .SHIFT_CHANGE := by
  rw [shiftReady_changes h ht]
  generalize s.otherImage.getD [] = l
  have hbank := otherInForce_bank s l
  have hstaged := otherInForce_unstaged s l
  have hruns := otherInForce_runs s l
  have hstatus : (s.otherInForce l).bit Reg.HF_FW_STATUS 1 = true := changeCounted_status _
  have hfw := otherInForce_fw s l
  have hframe := fun {γ : Type} (g : State → γ) hg hs => otherInForce_frame (γ := γ) g hg hs s l
  have hjobs : (s.otherInForce l).jobs = s.jobs := hframe State.jobs (fun _ _ _ => rfl) (fun _ => rfl)
  have hcaps : (s.otherInForce l).capsules = s.capsules := hframe State.capsules (fun _ _ _ => rfl) (fun _ => rfl)
  have hmem : (s.otherInForce l).mem = s.mem := hframe State.mem (fun _ _ _ => rfl) (fun _ => rfl)
  have hevq : (s.otherInForce l).evq = s.evq := hframe State.evq (fun _ _ _ => rfl) (fun _ => rfl)
  generalize s.otherInForce l = v at hbank hstaged hruns hstatus hfw hjobs hcaps hmem hevq
  have hheld : ∀ j, j < 64 → (v.job j).shiftHeld = false := fun j hlt => by
    unfold State.job
    rw [hjobs]
    exact hj j hlt
  rw [pauseEnd_free hheld (by rw [hfw]; exact hd) (hcaps.trans hc)]
  obtain ⟨hshift, hfrom, -, -, hmemR, hevqR⟩ := resumed_keeps v
  generalize v.usecN.toNat - v.fw.pausedAt = n
  obtain ⟨hbit, hfld⟩ := pauseShown_state v.resumed n
  have hregs : ∀ d, ((v.resumed.pauseShown n).raise .SHIFT_CHANGE .info (srcComponent 0) d).regs = (v.resumed.pauseShown n).regs := fun d => raise_regs _ _ (by decide) _ _
  have hresumed : ∀ a i, v.resumed.bit a i = v.bit a i := fun a i => congrArg (fun w : Word => bitOf w.toNat i) (resumed_rd v a)
  refine ⟨?shift, ?from_, ?mem, ?bank, ?field, ?status, ?run, ?event⟩
  case shift => exact (congrArg FwSt.shift (State.raise_fw ..)).trans ((congrArg FwSt.shift (pauseShown_frame State.fw (fun _ _ _ => rfl) _ _)).trans hshift)
  case from_ =>
    refine (congrArg FwSt.fromStaged (State.raise_fw ..)).trans ((congrArg FwSt.fromStaged (pauseShown_frame State.fw (fun _ _ _ => rfl) _ _)).trans (hfrom.trans ?_))
    rw [hfw]
  case mem => exact (State.raise_mem ..).trans ((pauseShown_frame State.mem (fun _ _ _ => rfl) _ _).trans (hmemR.trans hmem))
  case bank => exact (State.bit_congr (hregs _) _ _).trans (hbit.trans ((hresumed ..).trans hbank))
  case field => exact (State.fld_congr (hregs _) _ _ _).trans (hfld ((hresumed ..).trans hstaged))
  case status =>
    refine (State.bit_congr (hregs _) _ _).trans ?_
    exact (congrArg (fun w : Word => bitOf w.toNat 1) (pauseShown_rd _ _ (by decide) (by decide))).trans ((hresumed ..).trans hstatus)
  case run => exact (State.rd_congr (hregs _) _).trans ((pauseShown_rd _ _ (by decide) (by decide)).trans ((resumed_rd ..).trans hruns))
  case event =>
    rw [raise_evq, pauseShown_frame State.evq (fun _ _ _ => rfl), hevqR, hevq]
    exact ⟨_, rfl, rfl⟩

end Shift

/-- Settles O56, command by command through what a core sample keeps. That a restart is one command is log entry 39, the zeros of a failed read
of STAGE and the formats and messages taken are log entry 80, and the module crippled by a second warm restart is log entry 83: the model's choices. -/
theorem firmwareCommands : Obligations.FirmwareCommands := by
  unfold Obligations.FirmwareCommands
  refine ⟨fun s c cause taken msg core data records ok => ⟨fun h => ?deaf, fun hc hup => ⟨⟨fun hq => ?full, fun hq => ?enters⟩, fun h => ?otherCause,
      fun hcause h0 => ⟨fun hok hfew => ?alone, fun hbad hw => ?failed⟩, fun hcause h0 => ?supervisor, ?watchdog, ?sample⟩,
      fun h => ?noS5, fun at_ h => ⟨fun hdue => ?goodWaits, fun hdue => ?good⟩⟩,
    fun s => ⟨fun image h => ?stageDown, fun image hup hs => ?stageRefused, fun image hup hs => ⟨fun hv => ?fails, fun hv hf => ?stands, fun hv hf => ?unfit⟩,
      fun code hcode => ?failShows, ⟨fun hmay => ?activateWaits, fun hmay hclear => ?begins, fun hmay hclear => ?defers⟩,
      ⟨fun hdue => ?holds, fun hdue => ?holdEnds⟩, ⟨fun h => ?pauseWaits, fun hs hb => ?pauses⟩, fun h => ?readyWaits, fun h ht => ?ready,
      fun c => ⟨fun h => ?noRollback, fun h => ?rollback⟩⟩⟩
  case deaf =>
    obtain ⟨hmsg, hrestart, hwatch, hsample⟩ := components_down (cause := cause) (core := core) (data := data) (records := records) (ok := ok) h msg taken
    exact ⟨congrArg Host.Outcome.next hmsg, congrArg Host.Outcome.next hrestart, congrArg Host.Outcome.next hwatch, congrArg Host.Outcome.next hsample⟩
  case full => exact congrArg Host.Outcome.next (message_full hc hup hq msg taken)
  case enters => exact congrArg Host.Outcome.next (message_enters hc hup hq msg taken)
  case otherCause => exact congrArg Host.Outcome.next (componentRestart_otherCause h)
  case alone =>
    obtain ⟨hfw, hflash⟩ := restartedAlone_keeps (s.faulted c cause core data records) c cause
    obtain ⟨hfaults, hwarm, -, hfailed, hstopped⟩ := fields_of_apart ((congrArg FwSt.apart hfw).trans (faulted_fw s c cause core data records))
    refine ⟨_, congrArg Host.Outcome.next ((componentRestart_restarts hc hup hcause).trans (restart_alone h0 hok hfew)), ?_, hstopped, restartedAlone_status ..,
      hfailed, hwarm, ?_, (congrArg FlashSt.sampleNo hflash).trans (faulted_flash ..)⟩
    · rw [hfaults]
      exact SMap.get_put_self ..
    · rw [restartedAlone_count, faulted_count]
  case failed =>
    obtain ⟨-, hwarm, hcrippled, -, -⟩ := fields_of_apart (faulted_fw s c cause core data records)
    have hclock := faulted_usecN s c cause core data records
    have hfails := componentFailed_fw (c := c) (core := core) (data := data) (records := records) (s := s.faulted c cause core data records)
      (fun t ht => by rw [hclock]; exact hw t (hwarm.symm.trans ht))
    rw [hclock] at hfails
    obtain ⟨-, hwarm', hcrippled', hfailed, hstopped⟩ := fields_of_apart hfails
    exact ⟨_, congrArg Host.Outcome.next ((componentRestart_restarts hc hup hcause).trans (restart_fails h0 hbad)), hfailed, hwarm', hstopped,
      hcrippled'.trans hcrippled⟩
  case supervisor =>
    subst h0
    have hclock := takeSample_usecN s 0 cause core data records
    obtain ⟨-, hwarm, -, -, -⟩ := fields_of_apart (takeSample_fw s 0 cause core data records)
    have hrestart := (componentRestart_restarts (ok := ok) (core := core) (data := data) (records := records) hc hup hcause).trans restart_supervisor
    rw [← hclock, ← hwarm]
    exact ⟨fun h => congrArg Host.Outcome.next (hrestart.trans (warmRestart_first h)), fun t ht hlt => congrArg Host.Outcome.next (hrestart.trans (warmRestart_second ht hlt))⟩
  case watchdog => exact congrArg Host.Outcome.next (watchdog_restarts hc hup)
  case sample =>
    have hflash := takeSample_flash (s.setBit Reg.HF_FW_CTL 3 false) c 4 core data records
    refine ⟨_, congrArg Host.Outcome.next (sampleNow_samples hc hup), ?_, congrArg FlashSt.sampleNo hflash, congrArg FlashSt.jobs hflash, takeSample_event ..⟩
    refine (congrArg (fun w : Word => bitOf w.toNat 3) (takeSample_rd _ c 4 core data records (by decide) (by decide) (by decide))).trans ?_
    exact State.bit_setBit_self _ _ _ (by decide)
  case noS5 => exact congrArg Host.Outcome.next (goodCopy_none h)
  case goodWaits => exact congrArg Host.Outcome.next ((goodCopy_eq h).trans (if_pos ((goodWaits_iff at_).mpr hdue)))
  case good =>
    obtain ⟨hgood, hmem, hregs, hboot, hfw⟩ := goodStored_keeps s
    refine ⟨_, congrArg Host.Outcome.next ((goodCopy_eq h).trans (if_neg fun hw => (goodWaits_iff at_).mp hw hdue)), ?_⟩
    cases hfrom : s.fw.fromStaged
    · rw [hfw, hfrom]
      exact ⟨hgood, hmem, fun h => absurd h Bool.false_ne_true, fun _ => ⟨hregs, hboot⟩⟩
    · obtain ⟨hgood', hmem', hboot', htries, hbit⟩ := goodSettled_clears s.goodStored
      rw [hfw, hfrom]
      exact ⟨hgood'.trans hgood, hmem'.trans hmem, fun _ => ⟨hboot', htries, hbit⟩, fun h => absurd h.symm Bool.false_ne_true⟩
  case stageDown => exact congrArg Host.Outcome.next (stageHost_down h image)
  case stageRefused => exact congrArg Host.Outcome.next (stageHost_refused hup hs image)
  case fails => exact congrArg Host.Outcome.next ((stageHost_stages hup hs image).trans (stageImage_fails hv))
  case stands =>
    obtain ⟨hstaged, htries⟩ := imageStaged_flash s.stageRead (s.stageBytes image)
    refine ⟨_, congrArg Host.Outcome.next ((stageHost_stages hup hs image).trans (stageImage_stands hv hf)), (congrArg FlashSt.staged (State.setBit_flash ..)).trans hstaged,
      (congrArg FlashSt.tries (State.setBit_flash ..)).trans htries, State.bit_setBit_self _ _ _ (by decide),
      (State.rd_setBit_other _ _ _ (by decide)).trans (imageStaged_rd ..), (State.setBit_mem ..).trans ((imageStaged_mem ..).trans (stageRead_mem s))⟩
  case unfit =>
    obtain ⟨hfld, -, hbit⟩ := stageFail_shows (s.stageRead.imageStaged (s.stageBytes image)) (code := 8) (by decide)
    obtain ⟨hflash, hmem⟩ := stageFail_frame (s.stageRead.imageStaged (s.stageBytes image)) 8
    exact ⟨_, congrArg Host.Outcome.next ((stageHost_stages hup hs image).trans (stageImage_unfit hv hf)),
      (congrArg FlashSt.staged hflash).trans (imageStaged_flash ..).1, hbit, hfld, hmem.trans ((imageStaged_mem ..).trans (stageRead_mem s))⟩
  case failShows =>
    obtain ⟨hfld, hbit, -⟩ := stageFail_shows s hcode
    exact (stageFail_event s code).imp fun _ he => ⟨he.1, he.2, hfld, hbit⟩
  case activateWaits => exact congrArg Host.Outcome.next ((activate_eq s).trans (if_pos (activateWaits_iff.mpr hmay)))
  case begins =>
    obtain ⟨hshift, hmem⟩ := shiftTo_keeps (s.setBit Reg.HF_FW_STATE 2 true) 2
    exact ⟨_, congrArg Host.Outcome.next (activate_begins hmay hclear), hshift, (shiftTo_bit ..).trans (State.bit_setBit_self _ _ _ (by decide)),
      hmem.trans (State.setBit_mem ..)⟩
  case defers => exact congrArg Host.Outcome.next (activate_defers hmay hclear)
  case holds => exact congrArg Host.Outcome.next ((shiftHoldEnd_eq s).trans (if_neg fun h => hdue (holdDue_iff.mp h)))
  case holdEnds =>
    obtain ⟨hshift, hmem⟩ := shiftTo_keeps s 2
    exact ⟨_, congrArg Host.Outcome.next ((shiftHoldEnd_eq s).trans (if_pos (holdDue_iff.mpr hdue))), (congrArg FwSt.shift (State.setBit_fw ..)).trans hshift,
      State.bit_setBit_self _ _ _ (by decide), (State.setBit_mem ..).trans hmem⟩
  case pauseWaits => exact congrArg Host.Outcome.next (pauseBegin_waits h)
  case pauses =>
    obtain ⟨hshift, hat, hmem⟩ := paused_keeps s
    exact ⟨_, congrArg Host.Outcome.next (pauseBegin_pauses hs hb), (congrArg FwSt.shift (State.setBit_fw ..)).trans hshift,
      (congrArg FwSt.pausedAt (State.setBit_fw ..)).trans hat, State.bit_setBit_self _ _ _ (by decide), (State.setBit_mem ..).trans hmem⟩
  case readyWaits => exact congrArg Host.Outcome.next (shiftReady_waits h)
  case ready => exact ⟨_, rfl, fun hj hd hcaps => shiftReady_leaves h ht hj hd hcaps⟩
  case noRollback => exact congrArg Host.Outcome.next (rollback_waits h c)
  case rollback => exact congrArg Host.Outcome.next (rollback_ends h c)

end Sys2Proof.Machine
end

section
/-! PROOFS. Losses of power, resets, straps, and bring-up from S0 to S5 (O57). -/

namespace Sys2Proof.Machine

/-! ### Losses of power (R427, R431, R441, R453) -/

section Losses

variable {s : State} {cause : Nat}

theorem afterReset_blank (s : State) (keep : Nat → Bool) {p : PowerSt} (h : p.s1 = false) : (s.afterReset keep p).mem = [] ∧ (s.afterReset keep p).tasks = [] ∧
    (s.afterReset keep p).evq = [] ∧ (s.afterReset keep p).power.s1 = false := ⟨rfl, rfl, rfl, h⟩

theorem afterReset_keeps (s : State) (keep : Nat → Bool) (p : PowerSt) : (s.afterReset keep p).otp = s.otp ∧ (s.afterReset keep p).pending = s.pending ∧
    (s.afterReset keep p).flash.lastOff = s.flash.lastOff := ⟨rfl, rfl, rfl⟩

theorem flashDone_pending (s : State) : s.flashDone.pending = s.pending := by
  cases hj : s.flash.jobs with
  | nil => rw [flashDone_idle hj]
  | cons j rest =>
    obtain ⟨fl, hjob, -⟩ := flashJob_flash (s := s) j
    have hqueue : (s.programmed j rest).pending = (s.flashJob j).pending := rfl
    rw [flashDone_programs hj, hqueue, hjob]

theorem lastWrite_pending (s : State) (cause : Nat) : (s.lastWrite cause).pending = s.pending := flashDone_pending s
theorem lastWrite_cause (s : State) (cause : Nat) : (s.lastWrite cause).flash.lastOff = cause := rfl

theorem running_iff : s.running = true ↔ s.power.mains = true ∧ s.power.standby ≠ 7 ∧ s.power.tripped = false := by
  simp only [State.running, Bool.and_eq_true, decide_eq_true_eq, Bool.not_eq_true', and_assoc]

theorem lose_unpowered (h : s.power.mains = false) : s.lose cause = s := by
  have hrun : ¬ s.running = true := fun hr => absurd ((running_iff.mp hr).1.symm.trans h) (by decide)
  exact (if_neg hrun).trans (if_neg (by rw [h]; decide))

theorem lose_running (h : s.running = true) : s.lose cause = (s.lastWrite cause).powerOff := if_pos h

theorem lose_idle (h : ¬ s.running = true) (hm : s.power.mains = true) : s.lose cause = s.powerOff := (if_neg h).trans (if_pos hm)

theorem powerOff_leaves (s : State) : (s.powerOff.mem = [] ∧ s.powerOff.tasks = [] ∧ s.powerOff.evq = [] ∧ s.powerOff.power.s1 = false) ∧ s.powerOff.power.mains = false ∧
    s.powerOff.power.rails = false ∧ s.powerOff.otp = s.otp ∧ s.powerOff.pending = s.pending ∧ s.powerOff.flash.lastOff = s.flash.lastOff :=
  ⟨afterReset_blank _ _ rfl, rfl, rfl, afterReset_keeps ..⟩

/-- What a loss leaves of a powered module, with the cause in the boot record where it ran. -/
theorem lose_leaves (hm : s.power.mains = true) (cause : Nat) :
    ((s.lose cause).mem = [] ∧ (s.lose cause).tasks = [] ∧ (s.lose cause).evq = [] ∧ (s.lose cause).power.s1 = false) ∧ (s.lose cause).power.mains = false ∧
      (s.lose cause).power.rails = false ∧ (s.lose cause).otp = s.otp ∧ (s.lose cause).pending = s.pending ∧
      (s.lose cause).flash.lastOff = if s.power.standby ≠ 7 ∧ s.power.tripped = false then cause else s.flash.lastOff := by
  by_cases hr : s.running = true
  · obtain ⟨hblank, hmains, hrails, hotp, hpending, hoff⟩ := powerOff_leaves (s.lastWrite cause)
    obtain ⟨-, -, hotpW, -⟩ := lastWrite_same s cause
    rw [lose_running hr, if_pos (running_iff.mp hr).2]
    exact ⟨hblank, hmains, hrails, hotp.trans hotpW, hpending.trans (lastWrite_pending ..), hoff.trans (lastWrite_cause ..)⟩
  · rw [lose_idle hr hm, if_neg fun h => hr (running_iff.mpr ⟨hm, h⟩)]
    exact powerOff_leaves s

/-- DEBUG_EPOCH put back touches its register alone. -/
theorem keepEpoch_frame (s : State) (n : Nat) : (s.keepEpoch n).mem = s.mem ∧ (s.keepEpoch n).tasks = s.tasks ∧ (s.keepEpoch n).evq = s.evq ∧
    (s.keepEpoch n).power = s.power ∧ (s.keepEpoch n).flash = s.flash ∧ (s.keepEpoch n).otp = s.otp :=
  ⟨State.setFld_mem .., State.setFld_tasks .., State.setFld_evq .., State.setFld_power .., State.setFld_flash .., State.setFld_otp ..⟩

theorem keepEpoch_rd (s : State) (n : Nat) {r : Nat} (h : r ≠ Reg.SC_DEBUG) : (s.keepEpoch n).rd r = s.rd r := State.rd_setFld_other _ _ _ _ h

/-- The power state after a trip. -/
def State.trippedPower (s : State) : PowerSt := { mains := true, strapped := false, rails := false, perst := s.power.perst, tripped := true }

theorem trippedPower_is (s : State) : s.trippedPower.s1 = false ∧ s.trippedPower.tripped = true ∧ s.trippedPower.mains = true ∧ s.trippedPower.rails = false := ⟨rfl, rfl, rfl, rfl⟩

theorem thermTrip_idle (h : ¬ s.running = true) : s.thermTrip = s := if_pos (by rw [Bool.not_eq_true] at h; rw [h]; rfl)

theorem thermTrip_trips (h : s.running = true) :
    s.thermTrip = ((s.lastWrite 4).afterReset alwaysOn (s.lastWrite 4).trippedPower).keepEpoch (s.lastWrite 4).debugEpoch := if_neg (by rw [h]; decide)

theorem thermTrip_leaves (h : s.running = true) : (s.thermTrip.mem = [] ∧ s.thermTrip.tasks = [] ∧ s.thermTrip.evq = [] ∧ s.thermTrip.power.s1 = false) ∧
    s.thermTrip.power.tripped = true ∧ s.thermTrip.power.mains = true ∧ s.thermTrip.power.rails = false ∧ s.thermTrip.flash.lastOff = 4 ∧ s.thermTrip.otp = s.otp ∧
    ∀ k, k < 8 → s.thermTrip.rd (Reg.SC_PWR_HIST k) = s.rd (Reg.SC_PWR_HIST k) := by
  obtain ⟨hregs, -, hotpW, -⟩ := lastWrite_same s 4
  have hcause := lastWrite_cause s 4
  rw [thermTrip_trips h]
  generalize s.lastWrite 4 = v at hregs hotpW hcause
  obtain ⟨hs1, htripped, hmains, hrails⟩ := trippedPower_is v
  obtain ⟨hmem, htasks, hevq, hp⟩ := afterReset_blank v alwaysOn hs1
  obtain ⟨hotp, -, hoff⟩ := afterReset_keeps v alwaysOn v.trippedPower
  have hpower := afterReset_power v alwaysOn v.trippedPower
  obtain ⟨hmemK, htasksK, hevqK, hpowerK, hflashK, hotpK⟩ := keepEpoch_frame (v.afterReset alwaysOn v.trippedPower) v.debugEpoch
  rw [hpower] at hpowerK
  refine ⟨⟨hmemK.trans hmem, htasksK.trans htasks, hevqK.trans hevq, by rw [hpowerK]; exact hs1⟩, by rw [hpowerK]; exact htripped, by rw [hpowerK]; exact hmains,
    by rw [hpowerK]; exact hrails, by rw [hflashK, hoff]; exact hcause, hotpK.trans (hotp.trans hotpW), fun k hk => ?_⟩
  have hne : Reg.SC_PWR_HIST k ≠ Reg.SC_DEBUG := by unfold Reg.SC_PWR_HIST Reg.SC_DEBUG; omega
  have hkeep : alwaysOn (Reg.SC_PWR_HIST k) = true := by
    unfold alwaysOn Reg.SC_PWR_HIST
    rw [decide_eq_true (by omega), decide_eq_true (by omega)]
    rfl
  exact (keepEpoch_rd _ _ hne).trans ((afterReset_rd v alwaysOn _ hkeep).trans (State.rd_congr hregs _))

/-- The power state of a module held in reset. -/
def resetPower : PowerSt := { mains := true, strapped := true, rails := true, perst := true }

/-- What PERST_N keeps beside the always-on domain. -/
def keepStrap (a : Nat) : Bool := alwaysOn a || a = Reg.HF_STRAP

theorem strapped_frame {γ : Type} (g : State → γ) (hg : ∀ s a lo n v, g (State.setFld s a lo n v) = g s) (s : State) : g s.strapped = g s :=
  (hg _ _ _ _ _).trans ((hg _ _ _ _ _).trans (hg _ _ _ _ _))

theorem strapped_leaves (s : State) : s.strapped.mem = s.mem ∧ s.strapped.tasks = s.tasks ∧ s.strapped.evq = s.evq ∧ s.strapped.power = s.power ∧
    s.strapped.flash = s.flash ∧ s.strapped.otp = s.otp :=
  ⟨strapped_frame _ State.setFld_mem s, strapped_frame _ State.setFld_tasks s, strapped_frame _ State.setFld_evq s, strapped_frame _ State.setFld_power s,
    strapped_frame _ State.setFld_flash s, strapped_frame _ State.setFld_otp s⟩

theorem strapped_rd (s : State) {r : Nat} (h1 : r ≠ Reg.PW_TARGET) (h2 : r ≠ Reg.PW_POWER) (h3 : r ≠ Reg.MM_PLCA) : s.strapped.rd r = s.rd r :=
  (State.rd_setFld_other _ _ _ _ h3).trans ((State.rd_setFld_other _ _ _ _ h2).trans (State.rd_setFld_other _ _ _ _ h1))

theorem perstAssert_noted (h : s.power.standby ≠ 0 ∨ s.power.tripped = true) :
    s.perstAssert = { s with power := { s.power with perst := true, perstSeen := true } } := if_pos (by rw [Bool.or_eq_true, decide_eq_true_eq]; exact h)

theorem perst_notElsewhere (hs : s.power.standby = 0) (ht : s.power.tripped = false) : ¬ (decide (s.power.standby ≠ 0) || s.power.tripped) = true := by
  rw [hs, ht]
  decide

theorem perstAssert_early (hs : s.power.standby = 0) (ht : s.power.tripped = false) (h : s.power.mains = false ∨ s.power.s1 = false) :
    s.perstAssert = { s with power := { s.power with perst := true, cold := false } } := by
  refine (if_neg (perst_notElsewhere hs ht)).trans (if_pos ?_)
  rw [Bool.or_eq_true, Bool.not_eq_true', Bool.not_eq_true']
  exact h

theorem perstAssert_resets (hs : s.power.standby = 0) (ht : s.power.tripped = false) (hm : s.power.mains = true) (h1 : s.power.s1 = true) :
    s.perstAssert = (((s.lastWrite 5).afterReset keepStrap resetPower).strapped).keepEpoch (s.lastWrite 5).debugEpoch :=
  (if_neg (perst_notElsewhere hs ht)).trans (if_neg (by rw [hm, h1]; decide))

theorem perstAssert_leaves (hs : s.power.standby = 0) (ht : s.power.tripped = false) (hm : s.power.mains = true) (h1 : s.power.s1 = true) :
    (s.perstAssert.mem = [] ∧ s.perstAssert.tasks = [] ∧ s.perstAssert.evq = [] ∧ s.perstAssert.power.s1 = false) ∧ s.perstAssert.power.perst = true ∧
      s.perstAssert.power.rails = true ∧ s.perstAssert.power.strapped = true ∧ s.perstAssert.rd Reg.HF_STRAP = s.rd Reg.HF_STRAP ∧
      s.perstAssert.flash.lastOff = 5 ∧ s.perstAssert.otp = s.otp := by
  obtain ⟨hregs, -, hotpW, -⟩ := lastWrite_same s 5
  have hcause := lastWrite_cause s 5
  rw [perstAssert_resets hs ht hm h1]
  generalize s.lastWrite 5 = v at hregs hotpW hcause
  obtain ⟨hmem, htasks, hevq, -⟩ := afterReset_blank v keepStrap (p := resetPower) rfl
  obtain ⟨hotp, -, hoff⟩ := afterReset_keeps v keepStrap resetPower
  have hpower := afterReset_power v keepStrap resetPower
  have hrd := afterReset_rd v keepStrap resetPower (a := Reg.HF_STRAP) (by decide)
  generalize v.afterReset keepStrap resetPower = w at hmem htasks hevq hotp hoff hpower hrd
  obtain ⟨hmemS, htasksS, hevqS, hpowerS, hflashS, hotpS⟩ := strapped_leaves w
  have hrdS := strapped_rd w (r := Reg.HF_STRAP) (by decide) (by decide) (by decide)
  generalize w.strapped = x at hmemS htasksS hevqS hpowerS hflashS hotpS hrdS
  obtain ⟨hmemK, htasksK, hevqK, hpowerK, hflashK, hotpK⟩ := keepEpoch_frame x v.debugEpoch
  rw [hpowerS, hpower] at hpowerK
  rw [hpowerK]
  exact ⟨⟨hmemK.trans (hmemS.trans hmem), htasksK.trans (htasksS.trans htasks), hevqK.trans (hevqS.trans hevq), rfl⟩, rfl, rfl, rfl,
    (keepEpoch_rd _ _ (by decide)).trans (hrdS.trans (hrd.trans (State.rd_congr hregs _))), by rw [hflashK, hflashS, hoff]; exact hcause,
    hotpK.trans (hotpS.trans (hotp.trans hotpW))⟩

/-- The power state at S0. -/
def State.s0Power (s : State) : PowerSt :=
  { s.power with
    mains := true, strapped := false, rails := false, s1 := false, cold := false, tripped := false, cooling := false, standby := 0
    wokeEarly := false, perstSeen := false, vinBad := false, clampAt := none, railAt := [], badWindows := [], lent := [] }

theorem atS0_leaves (s : State) : s.atS0.power.tripped = false ∧ s.atS0.power.strapped = false ∧ s.atS0.power.cooling = false ∧ s.atS0.mem = [] := by
  have hpower : s.atS0.power = s.s0Power := afterReset_power s alwaysOn s.s0Power
  rw [hpower]
  exact ⟨rfl, rfl, rfl, afterReset_mem s alwaysOn s.s0Power⟩

theorem cooldownEnd_none (h : s.power.cooling = false) : s.cooldownEnd = s := if_pos (by rw [h]; rfl)

theorem cooldownEnd_restarts (h : s.power.cooling = true) (ht : s.power.tripped = true) : s.cooldownEnd = s.atS0 := (if_neg (by rw [h]; decide)).trans (if_pos ht)

/-- The wait for the sensors over. -/
def State.cooled (s : State) : State := { s with power := { s.power with cooling := false } }

theorem cooled_leaves (s : State) : s.cooled.power.cooling = false ∧ s.cooled.regs = s.regs ∧ s.cooled.mem = s.mem := ⟨rfl, rfl, rfl⟩

theorem cooldownEnd_ends (h : s.power.cooling = true) (ht : s.power.tripped = false) : s.cooldownEnd = s.cooled :=
  (if_neg (by rw [h]; decide)).trans (if_neg (by rw [ht]; decide))

end Losses

/-! ### Input and straps (R432, R433, R442) -/

section Straps

variable {s : State}

/-- The mains back, with the wait for the sensors where a trip was hot. -/
def State.mainsUp (s : State) (cooling : Bool) : State := { s with power := { s.power with mains := true, cooling := cooling } }
/-- STANDBY ended by the power path. -/
def State.wokenByPower (s : State) : State := (s.count (Reg.SC_PWR_HIST 0) 0 32 1).setFld Reg.PW_STATE 20 3 6

theorem powerOn_none (h : s.power.mains = true) (hot : Bool) : s.powerOn hot = s := if_pos h

theorem powerOn_rises (h : s.power.mains = false) (hot : Bool) : s.powerOn hot =
    if s.flash.lastOff = 6 then (s.mainsUp (hot && decide (s.flash.lastOff = 4))).wokenByPower else s.mainsUp (hot && decide (s.flash.lastOff = 4)) :=
  if_neg (by rw [h]; decide)

theorem mainsUp_leaves (s : State) (cooling : Bool) : (s.mainsUp cooling).power.mains = true ∧ (s.mainsUp cooling).power.cooling = cooling ∧
    (s.mainsUp cooling).mem = s.mem ∧ (s.mainsUp cooling).regs = s.regs := ⟨rfl, rfl, rfl, rfl⟩

theorem wokenByPower_leaves (s : State) : s.wokenByPower.power = s.power ∧ s.wokenByPower.mem = s.mem ∧ s.wokenByPower.fld Reg.PW_STATE 20 3 = 6 :=
  ⟨(State.setFld_power ..).trans (State.count_power ..), (State.setFld_mem ..).trans (State.count_mem ..), State.fld_setFld_self _ _ _ (by decide)⟩

/-- The word that the straps and the profile code give. -/
def strapWord (slot src pr code : Nat) : Nat := slot % 64 + src % 4 * 64 + pr * 256 + code * 512 + pr * code * 1024 + 2048 * ((pr + code) % 2)

theorem strapWord_fields (slot src : Nat) {pr code : Nat} (hp : pr < 2) (hc : code < 2) :
    bitsOf (strapWord slot src pr code) 0 6 = slot % 64 ∧ bitsOf (strapWord slot src pr code) 6 2 = src % 4 ∧ bitsOf (strapWord slot src pr code) 8 1 = pr ∧
      bitsOf (strapWord slot src pr code) 9 1 = code ∧ bitsOf (strapWord slot src pr code) 10 1 = pr * code ∧
      bitsOf (strapWord slot src pr code) 11 1 = (pr + code) % 2 ∧ strapWord slot src pr code < 2 ^ 32 := by
  unfold strapWord bitsOf
  obtain rfl | rfl : pr = 0 ∨ pr = 1 := by omega
  all_goals
    obtain rfl | rfl : code = 0 ∨ code = 1 := by omega
    all_goals omega

/-- The straps latched, before what follows from them. -/
def State.strapsLatched (s : State) (w : Nat) : State := { s.wr Reg.HF_STRAP (BitVec.ofNat 32 w) with power := { s.power with strapped := true } }

theorem strapsLatched_leaves (s : State) (w : Nat) : (s.strapsLatched w).power.strapped = true ∧ (s.strapsLatched w).mem = s.mem ∧ (s.strapsLatched w).otp = s.otp := ⟨rfl, rfl, rfl⟩

theorem strapsLatched_fld (s : State) {w : Nat} (hw : w < 2 ^ 32) (lo n : Nat) : (s.strapsLatched w).fld Reg.HF_STRAP lo n = bitsOf w lo n := by
  have hrd : (s.strapsLatched w).fld Reg.HF_STRAP lo n = (s.wr Reg.HF_STRAP (BitVec.ofNat 32 w)).fld Reg.HF_STRAP lo n := State.fld_congr rfl _ _ _
  rw [hrd, State.fld_wr_self, BitVec.toNat_ofNat, Nat.mod_eq_of_lt hw]

theorem strapsWait_iff : (!s.power.mains || s.power.strapped || s.power.tripped || s.power.cooling || decide (s.power.standby ≠ 0)) = true ↔
    ¬ (s.power.mains = true ∧ s.power.strapped = false ∧ s.power.tripped = false ∧ s.power.cooling = false ∧ s.power.standby = 0) := by
  simp only [Bool.or_eq_true, Bool.not_eq_true', decide_eq_true_eq, not_and_or, Bool.not_eq_true, Bool.not_eq_false, or_assoc, ne_eq]

theorem strapSample_eq (s : State) (slot src pr : Nat) : s.strapSample slot src pr =
    if !s.power.mains || s.power.strapped || s.power.tripped || s.power.cooling || s.power.standby ≠ 0 then s
    else (s.strapsLatched (strapWord slot src (pr % 2) (s.otp.profileCode % 2))).strapped := rfl

/-- What follows from the straps latched. -/
theorem strapped_shows (s : State) : s.strapped.fld Reg.PW_TARGET 0 16 = (if s.profileL then 1000 else 700) ∧
    s.strapped.fld Reg.PW_POWER 16 16 = (if s.otp.profileCode = 1 then 950 else 520) ∧
    s.strapped.fld Reg.MM_PLCA 0 8 = (s.fld Reg.HF_STRAP 0 6 + 1) % 2 ^ 8 := by
  unfold State.strapped
  dsimp only
  generalize hv : s.setFld Reg.PW_TARGET 0 16 (if s.profileL then 1000 else 700) = v
  have hslot : (v.setFld Reg.PW_POWER 16 16 (if v.otp.profileCode = 1 then 950 else 520)).fld Reg.HF_STRAP 0 6 = s.fld Reg.HF_STRAP 0 6 := by
    rw [State.fld_setFld_other _ _ _ _ _ _ (by decide), ← hv, State.fld_setFld_other _ _ _ _ _ _ (by decide)]
  refine ⟨?_, ?_, ?_⟩
  · rw [State.fld_setFld_other _ _ _ _ _ _ (by decide), State.fld_setFld_other _ _ _ _ _ _ (by decide), ← hv, State.fld_setFld_self _ _ _ (by decide)]
    exact Nat.mod_eq_of_lt (by split <;> decide)
  · have hotp : v.otp = s.otp := by rw [← hv, State.setFld_otp]
    rw [State.fld_setFld_other _ _ _ _ _ _ (by decide), State.fld_setFld_self _ _ _ (by decide), hotp]
    exact Nat.mod_eq_of_lt (by split <;> decide)
  · rw [State.fld_setFld_self _ _ _ (by decide), hslot]

theorem strapSample_latches (s : State) (slot src pr : Nat) : let t := (s.strapsLatched (strapWord slot src (pr % 2) (s.otp.profileCode % 2))).strapped
    t.power.strapped = true ∧ t.mem = s.mem ∧ t.fld Reg.HF_STRAP 0 6 = slot % 64 ∧ t.fld Reg.HF_STRAP 6 2 = src % 4 ∧ t.fld Reg.HF_STRAP 8 1 = pr % 2 ∧
      t.fld Reg.HF_STRAP 9 1 = s.otp.profileCode % 2 ∧ t.fld Reg.HF_STRAP 10 1 = pr % 2 * (s.otp.profileCode % 2) ∧
      t.bit Reg.HF_STRAP 11 = decide (pr % 2 ≠ s.otp.profileCode % 2) ∧
      t.fld Reg.PW_TARGET 0 16 = (if pr % 2 = 1 ∧ s.otp.profileCode % 2 = 1 then 1000 else 700) ∧
      t.fld Reg.PW_POWER 16 16 = (if s.otp.profileCode = 1 then 950 else 520) ∧ t.fld Reg.MM_PLCA 0 8 = slot % 64 + 1 := by
  intro t
  have hp : pr % 2 < 2 := Nat.mod_lt _ (by decide)
  have hc : s.otp.profileCode % 2 < 2 := Nat.mod_lt _ (by decide)
  obtain ⟨hslot, hsrc, hpr, hcode, hboth, hdiffer, hlt⟩ := strapWord_fields slot src hp hc
  obtain ⟨hstrapped, hmem, hotp⟩ := strapsLatched_leaves s (strapWord slot src (pr % 2) (s.otp.profileCode % 2))
  have hfld := strapsLatched_fld s hlt
  obtain ⟨hmemS, -, -, hpowerS, -, -⟩ := strapped_leaves (s.strapsLatched (strapWord slot src (pr % 2) (s.otp.profileCode % 2)))
  obtain ⟨htarget, hcap, hnode⟩ := strapped_shows (s.strapsLatched (strapWord slot src (pr % 2) (s.otp.profileCode % 2)))
  have hkeep : ∀ lo n, t.fld Reg.HF_STRAP lo n = (s.strapsLatched (strapWord slot src (pr % 2) (s.otp.profileCode % 2))).fld Reg.HF_STRAP lo n := fun lo n =>
    congrArg (fun w : Word => bitsOf w.toNat lo n) (strapped_rd _ (by decide) (by decide) (by decide))
  refine ⟨by rw [hpowerS]; exact hstrapped, hmemS.trans hmem, ?_, ?_, ?_, ?_, ?_, ?_, ?_, ?_, ?_⟩
  · rw [hkeep, hfld, hslot]
  · rw [hkeep, hfld, hsrc]
  · rw [hkeep, hfld, hpr]
  · rw [hkeep, hfld, hcode]
  · rw [hkeep, hfld, hboth]
  · rw [State.bit_eq, hkeep, hfld, hdiffer]
    exact decide_eq_decide.mpr (by omega)
  · refine htarget.trans (if_congr ?_ rfl rfl)
    unfold State.profileL
    rw [State.bit_eq, hfld, hboth, decide_eq_true_eq, mul_eq_one]
  · rw [hcap, hotp]
  · rw [hnode, hfld, hslot]
    exact Nat.mod_eq_of_lt (by omega)

end Straps

/-! ### S1 (R434, R435) -/

section StageOne

variable {s : State}

/-- What the start of S1 shows: power, both counters, PC_BOOT, the fuses and the identity key. -/
def State.bootView (s : State) : PowerSt × BitVec 64 × BitVec 64 × Word × OtpSt × Option Nat := (s.power, s.usecN, s.usecS, s.rd Reg.PC_BOOT, s.otp, s.sec.idKey)

theorem bootView_wr (s : State) {a : Nat} (h : Reg.PC_BOOT ≠ a) (v : Word) : (s.wr a v).bootView = s.bootView := by
  unfold State.bootView
  rw [State.rd_wr_other s v h]
  rfl

theorem bootView_setRegBytes (s : State) (f : Nat → Nat) (n : Nat) (l : List Byte) (h : ∀ i, Reg.PC_BOOT ≠ f i) : (s.setRegBytes f n l).bootView = s.bootView :=
  foldl_frame State.bootView (fun v i => bootView_wr v (h i) _) _ s

theorem bootView_drawn (s : State) (n : Nat) : (s.drawBytes n).2.bootView = s.bootView := rfl

theorem bootView_newNonce (s : State) : s.newNonce.bootView = s.bootView :=
  (bootView_setRegBytes _ _ _ _ fun i => by unfold Reg.SC_NONCE Reg.PC_BOOT; omega).trans (bootView_drawn s 32)

theorem bootView_deriveSr (s : State) : s.deriveSr.bootView = s.bootView := rfl

theorem bootView_extendMeas (s : State) (n : Nat) (v : List Byte) : (s.extendMeas n v).bootView = s.bootView :=
  bootView_setRegBytes _ _ _ _ fun i => by unfold Reg.SC_MEAS Reg.PC_BOOT; omega

theorem bootView_loadLc (s : State) : s.loadLc.bootView = s.bootView := bootView_wr _ (by decide) _

/-- The identity key fused at the first power-up in BLANK. -/
def State.identityFused (s : State) : State :=
  if s.otp.priv ≠ 0 then s else
    { (s.drawBytes 32).2 with otp := { (s.drawBytes 32).2.otp with priv := 1 + ofBytesBE (s.drawBytes 32).1 % (sm2N - 2) } }
/-- The identity key in use. -/
def State.identityShown (s : State) : State :=
  (s.setRegBytes Reg.SC_IDPUB 16 (sm2Public s.otp.priv)).setRegBytes Reg.SC_ID_DIGEST 8 (sm3 (sm2Public s.otp.priv))
def State.keyHeld (s : State) (k : Nat) : State := { s with sec := { s.sec with idKey := some k } }

theorem loadIdentity_eq (s : State) : s.loadIdentity = s.identityFused.identityShown.keyHeld s.identityFused.identityShown.otp.priv := rfl

theorem bootView_identityShown (s : State) : s.identityShown.bootView = s.bootView :=
  (bootView_setRegBytes _ _ _ _ fun i => by unfold Reg.SC_ID_DIGEST Reg.PC_BOOT; omega).trans
    (bootView_setRegBytes _ _ _ _ fun i => by unfold Reg.SC_IDPUB Reg.PC_BOOT; omega)

theorem identityFused_keeps (s : State) : s.identityFused.power = s.power ∧ s.identityFused.usecN = s.usecN ∧ s.identityFused.usecS = s.usecS ∧
    s.identityFused.rd Reg.PC_BOOT = s.rd Reg.PC_BOOT := by
  unfold State.identityFused
  split
  · exact ⟨rfl, rfl, rfl, rfl⟩
  · exact ⟨rfl, rfl, rfl, State.rd_congr rfl _⟩

theorem keyHeld_view (s : State) (k : Nat) : (s.keyHeld k).bootView = (s.power, s.usecN, s.usecS, s.rd Reg.PC_BOOT, s.otp, some k) := by
  unfold State.bootView
  rw [show (s.keyHeld k).rd Reg.PC_BOOT = s.rd Reg.PC_BOOT from State.rd_congr rfl _]
  rfl

/-- After the identity is loaded, the key in use is the fused one. -/
theorem loadIdentity_view (s : State) : ∃ o : OtpSt, s.loadIdentity.bootView = (s.power, s.usecN, s.usecS, s.rd Reg.PC_BOOT, o, some o.priv) := by
  obtain ⟨hpower, husecN, husecS, hboot⟩ := identityFused_keeps s
  have hshown := bootView_identityShown s.identityFused
  rw [loadIdentity_eq]
  generalize s.identityFused.identityShown = v at hshown
  refine ⟨v.otp, (keyHeld_view v v.otp.priv).trans ?_⟩
  unfold State.bootView at hshown
  simp only [Prod.mk.injEq] at hshown
  obtain ⟨hpowerV, husecNV, husecSV, hbootV, -, -⟩ := hshown
  rw [hpowerV, husecNV, husecSV, hbootV, hpower, husecN, husecS, hboot]

theorem enterStage_fld (s : State) {n : Nat} (h : n < 8) : (s.enterStage n).fld Reg.PC_BOOT 0 3 = n := by
  have hne : Reg.PC_BOOT ≠ Reg.HF_BRINGUP_USEC n := by unfold Reg.PC_BOOT Reg.HF_BRINGUP_USEC; omega
  unfold State.enterStage
  rw [State.fld_congr (raise_regs _ _ (by decide) _ _), State.fld_wr_other _ _ _ _ hne, State.fld_setFld_self _ _ _ (by decide)]
  exact Nat.mod_eq_of_lt h

theorem enterStage_rd (s : State) (n : Nat) {r : Nat} (h1 : r ≠ Reg.PC_BOOT) (h2 : r ≠ Reg.HF_BRINGUP_USEC n) : (s.enterStage n).rd r = s.rd r := by
  unfold State.enterStage
  rw [State.rd_congr (raise_regs _ _ (by decide) _ _), State.rd_wr_other _ _ h2, State.rd_setFld_other _ _ _ _ h1]

/-- What neither a register nor the event queue holds stays as a stage is entered. -/
theorem enterStage_frame {γ : Type} (g : State → γ) (hw : ∀ s a v, g (State.wr s a v) = g s) (hr : ∀ s c k w d, g (State.raise s c k w d) = g s) (s : State) (n : Nat) :
    g (s.enterStage n) = g s := (hr _ _ _ _ _).trans ((hw _ _ _).trans (hw _ _ _))

theorem enterStage_event (s : State) (n : Nat) : ∃ e ∈ (s.enterStage n).evq, e.code = .BRINGUP_STAGE := by
  unfold State.enterStage
  rw [raise_evq]
  exact ⟨_, List.mem_append_right _ (List.mem_singleton_self _), rfl⟩

/-- Both counters at zero, and S1 begun. -/
def State.countersZero (s : State) : State := { s with usecN := 0#64, usecS := 0#64, power := { s.power with s1 := true, cold := false } }

theorem countersZero_is (s : State) : s.countersZero.power = { s.power with s1 := true, cold := false } ∧ s.countersZero.usecN = 0#64 ∧ s.countersZero.usecS = 0#64 := ⟨rfl, rfl, rfl⟩

/-- The identity, its keys and the nonce. -/
def State.keysLoaded (s : State) : State := (s.loadIdentity.deriveSr).newNonce
/-- The measurements of the boot ROM. -/
def State.romMeasured (s : State) : State :=
  (s.extendMeas 0 (Config.romDigest ++ [BitVec.ofNat 8 s.lifeCycle] ++ Config.otpDigest)).extendMeas 4
    ([(s.extendMeas 0 (Config.romDigest ++ [BitVec.ofNat 8 s.lifeCycle] ++ Config.otpDigest)).fld Reg.HF_STRAP 8 1,
      (s.extendMeas 0 (Config.romDigest ++ [BitVec.ofNat 8 s.lifeCycle] ++ Config.otpDigest)).fld Reg.HF_STRAP 6 2,
      (s.extendMeas 0 (Config.romDigest ++ [BitVec.ofNat 8 s.lifeCycle] ++ Config.otpDigest)).fld Reg.HF_STRAP 0 6].map (BitVec.ofNat 8))

theorem enterS1_eq (s : State) : s.enterS1 = (((s.countersZero.enterStage 0).enterStage 1).loadLc).keysLoaded.romMeasured := rfl

theorem bootView_romMeasured (s : State) : s.romMeasured.bootView = s.bootView := (bootView_extendMeas ..).trans (bootView_extendMeas ..)

theorem keysLoaded_view (s : State) : ∃ o : OtpSt, s.keysLoaded.bootView = (s.power, s.usecN, s.usecS, s.rd Reg.PC_BOOT, o, some o.priv) :=
  (loadIdentity_view s).imp fun _ h => (bootView_newNonce _).trans ((bootView_deriveSr _).trans h)

/-- S1 has begun: both counters at zero, STAGE 1, the fused key in use. -/
def State.atS1 (s : State) : Prop :=
  s.power.s1 = true ∧ s.usecN = 0#64 ∧ s.usecS = 0#64 ∧ s.fld Reg.PC_BOOT 0 3 = 1 ∧ s.sec.idKey = some s.otp.priv

theorem wr_usecS (s : State) (a : Nat) (v : Word) : (s.wr a v).usecS = s.usecS := rfl

theorem enterS1_leaves (s : State) : s.enterS1.atS1 ∧ s.enterS1.power = { s.power with s1 := true, cold := false } := by
  have hframe := fun {γ : Type} (g : State → γ) hw hr => (enterStage_frame (γ := γ) g hw hr (s.countersZero.enterStage 0) 1).trans (enterStage_frame g hw hr s.countersZero 0)
  have hpower : ((s.countersZero.enterStage 0).enterStage 1).loadLc.power = s.countersZero.power :=
    (State.wr_power ..).trans (hframe State.power (fun _ _ _ => rfl) (fun _ _ _ _ _ => rfl))
  have husecN : ((s.countersZero.enterStage 0).enterStage 1).loadLc.usecN = s.countersZero.usecN :=
    (State.wr_usecN ..).trans (hframe State.usecN (fun _ _ _ => rfl) (fun _ _ _ _ _ => rfl))
  have husecS : ((s.countersZero.enterStage 0).enterStage 1).loadLc.usecS = s.countersZero.usecS :=
    (wr_usecS ..).trans (hframe State.usecS (fun _ _ _ => rfl) (fun _ _ _ _ _ => rfl))
  have hstage : ((s.countersZero.enterStage 0).enterStage 1).loadLc.fld Reg.PC_BOOT 0 3 = 1 :=
    (State.fld_wr_other _ _ _ _ (by decide)).trans (enterStage_fld _ (by decide))
  rw [enterS1_eq]
  generalize ((s.countersZero.enterStage 0).enterStage 1).loadLc = v at hpower husecN husecS hstage
  obtain ⟨o, hview⟩ := keysLoaded_view v
  have hview := (bootView_romMeasured v.keysLoaded).trans hview
  generalize v.keysLoaded.romMeasured = w at hview
  unfold State.bootView at hview
  simp only [Prod.mk.injEq] at hview
  obtain ⟨hpowerW, husecNW, husecSW, hbootW, hotpW, hkey⟩ := hview
  obtain ⟨hpowerZ, husecNZ, husecSZ⟩ := countersZero_is s
  unfold State.atS1
  rw [hpowerW, hpower, hpowerZ, husecNW, husecN, husecNZ, husecSW, husecS, husecSZ, hkey, hotpW]
  exact ⟨⟨rfl, rfl, rfl, (congrArg (fun w : Word => bitsOf w.toNat 0 3) hbootW).trans hstage, rfl⟩, rfl⟩

/-- S1 put off while a headframe sensor is below −5 °C. -/
def State.coldWaits (s : State) : State := { s with power := { s.power with cold := true } }
theorem coldWaits_is (s : State) : s.coldWaits.power.cold = true ∧ s.coldWaits.power.s1 = s.power.s1 := ⟨rfl, rfl⟩

theorem tryS1_eq (s : State) (cold : Bool) : s.tryS1 cold = if !s.power.rails || s.power.perst || s.power.s1 then s else if cold then s.coldWaits else s.enterS1 := rfl

theorem tryS1_held (h : s.power.perst = true) (cold : Bool) : s.tryS1 cold = s := (tryS1_eq s cold).trans (if_pos (by rw [h, Bool.or_true, Bool.true_or]))

/-- S1 where the rails are up and PERST_N is released. -/
theorem tryS1_leaves (hr : s.power.rails = true) (hp : s.power.perst = false) (h1 : s.power.s1 = false) (cold : Bool) :
    (cold = true → s.tryS1 cold = s.coldWaits) ∧ (cold = false → s.tryS1 cold = s.enterS1) := by
  rw [tryS1_eq, hr, hp, h1]
  exact ⟨fun h => by rw [h]; rfl, fun h => by rw [h]; rfl⟩

/-- The headframe rails up. -/
def State.withRails (s : State) : State := { s with power := { s.power with rails := true } }
theorem withRails_is (s : State) : s.withRails.power.rails = true ∧ s.withRails.power.perst = s.power.perst ∧ s.withRails.power.s1 = s.power.s1 ∧ s.withRails.regs = s.regs :=
  ⟨rfl, rfl, rfl, rfl⟩

theorem railsUp_none (h : s.power.strapped = false ∨ s.power.rails = true) (cold : Bool) : s.railsUp cold = s :=
  if_pos (by rw [Bool.or_eq_true, Bool.not_eq_true']; exact h)

theorem railsUp_rises (hs : s.power.strapped = true) (hr : s.power.rails = false) (cold : Bool) : s.railsUp cold = s.withRails.tryS1 cold :=
  if_neg (by rw [hs, hr]; decide)

theorem tryS1_keeps (s : State) (cold : Bool) : (s.tryS1 cold).power.rails = s.power.rails ∧ (s.tryS1 cold).power.perst = s.power.perst := by
  rw [tryS1_eq]
  split
  · exact ⟨rfl, rfl⟩
  · split
    · exact ⟨rfl, rfl⟩
    · rw [(enterS1_leaves s).2]
      exact ⟨rfl, rfl⟩

/-- The wait for a warm headframe over. -/
def State.warmed (s : State) : State := { s with power := { s.power with cold := false } }
theorem warmed_is (s : State) : s.warmed.power.rails = s.power.rails ∧ s.warmed.power.perst = s.power.perst ∧ s.warmed.power.s1 = s.power.s1 := ⟨rfl, rfl, rfl⟩

theorem coldEnd_none (h : s.power.cold = false) : s.coldEnd = s := if_neg (by rw [h]; decide)
theorem coldEnd_tries (h : s.power.cold = true) : s.coldEnd = s.warmed.tryS1 false := if_pos h

/-- PERST_N released, with the TAP in BYPASS where it held the pins. -/
def State.perstReleased (s : State) : State :=
  { s with
    power := { s.power with perst := false }
    tap := if s.tap.ir = 0 || s.tap.ir = 3 then { s.tap with ir := 0xFF } else s.tap }
/-- The restart after a trip put off until the sensors are cool. -/
def State.coolingSet (s : State) : State := { s with power := { s.power with cooling := true } }

theorem perstReleased_is (s : State) : s.perstReleased.power = { s.power with perst := false } := rfl
theorem coolingSet_is (s : State) : s.coolingSet.power.cooling = true := rfl

theorem perstRelease_none (h : s.power.perst = false) (cold hot : Bool) : s.perstRelease cold hot = s := if_pos (by rw [h]; rfl)

theorem perstRelease_eq (h : s.power.perst = true) (cold hot : Bool) : s.perstRelease cold hot =
    if s.perstReleased.power.standby ≠ 0 then s.perstReleased
    else if s.perstReleased.power.tripped then if !s.power.perstSeen then s.perstReleased else if hot then s.perstReleased.coolingSet else s.perstReleased.atS0
    else s.perstReleased.tryS1 cold := if_neg (by rw [h]; decide)

theorem perstRelease_starts (h : s.power.perst = true) (hs : s.power.standby = 0) (ht : s.power.tripped = false) (cold hot : Bool) :
    s.perstRelease cold hot = s.perstReleased.tryS1 cold := by
  rw [perstRelease_eq h, perstReleased_is, if_neg (not_not_intro hs), if_neg (by rw [ht]; decide)]

theorem perstRelease_restarts (h : s.power.perst = true) (hs : s.power.standby = 0) (ht : s.power.tripped = true) (ha : s.power.perstSeen = true) (cold hot : Bool) :
    s.perstRelease cold hot = if hot then s.perstReleased.coolingSet else s.perstReleased.atS0 := by
  rw [perstRelease_eq h, perstReleased_is, if_neg (not_not_intro hs), if_pos ht, ha]
  rfl

end StageOne

/-! ### S2 (R388 to R390) -/

section StageTwo

variable {s : State}

/-- A report of the last boot's end touches PW_ALERT, the events and the suspects alone. -/
theorem carried_frame {γ : Type} (g : State → γ)
    (hg : ∀ (s : State) evq log w, g { s with evq := evq, suspectLog := log, regs := s.regs.put (regReset Reg.PW_ALERT) Reg.PW_ALERT w } = g s) (s : State) :
    g s.carried = g s := by
  unfold State.carried
  split
  · exact hg s _ _ _
  · exact hg s _ _ _
  · exact hg s _ _ _
  · exact hg s _ _ _
  · rfl

theorem carried_rd (s : State) {r : Nat} (h : r ≠ Reg.PW_ALERT) : s.carried.rd r = s.rd r :=
  carried_frame (fun v => v.rd r) (fun _ _ _ _ => SMap.get_put_other _ _ _ _ h) s

/-- An image measured: MEAS_1 to MEAS_3. -/
def State.imageMeasured (s : State) (l : List Byte) : State :=
  ((imgComps l).foldl (fun s c => s.extendMeas 2 c.hash) (s.extendMeas 1 (sm3 (imgHead l)))).extendMeas 3
    (BitVec.ofNat 8 ((s.vendorOf (imgHead l) (imgBytes l (imgLen l - 128) 64)).getD 0) ::
      (match ((imgComps l).foldl (fun s c => s.extendMeas 2 c.hash) (s.extendMeas 1 (sm3 (imgHead l)))).ownerKey with | some k => sm3 k | none => List.replicate 32 0#8))
/-- An image in bank A. -/
def State.imageLoaded (s : State) (l : List Byte) (n : Nat) : State := { s with fw := { s.fw with bankA := some l, fromStaged := n = 2, boot := {} } }
/-- The running image shown. -/
def State.imageShown (s : State) (l : List Byte) (n : Nat) : State :=
  ((s.setFld Reg.HF_FW_STATE 5 2 n).setBit Reg.HF_FW_STATE 0 false).wr Reg.HF_FW_RUN (BitVec.ofNat 32 (imgVersion l))
/-- How the last boot ended, shown and reported. -/
def State.lastEndShown (s : State) : State :=
  ((s.setBit Reg.HF_FW_CTL 2 s.flash.activateOnBoot).carried).setFld Reg.PW_LAST_OFF 0 3 ((s.setBit Reg.HF_FW_CTL 2 s.flash.activateOnBoot).carried).flash.lastOff
/-- A mismatch of the profile reported. -/
def State.profileChecked (s : State) : State := if s.bit Reg.HF_STRAP 11 then s.setStatus Reg.PW_ALERT 4 .PROFILE_MISMATCH .info srcPower [] else s

theorem startImage_eq (s : State) (l : List Byte) (n : Nat) :
    s.startImage l n = ((((s.imageMeasured l).imageLoaded l n).imageShown l n).lastEndShown.enterStage 2).profileChecked := rfl

theorem imageMeasured_mem (s : State) (l : List Byte) : (s.imageMeasured l).mem = s.mem := by
  have hg : ∀ (s : State) a v, (State.wr s a v).mem = s.mem := fun _ _ _ => rfl
  exact (extendMeas_frame State.mem hg _).trans ((foldl_frame State.mem (fun _ _ => extendMeas_frame State.mem hg _) _ _).trans (extendMeas_frame State.mem hg _))

theorem imageLoaded_leaves (s : State) (l : List Byte) (n : Nat) : (s.imageLoaded l n).mem = s.mem ∧ (s.imageLoaded l n).fw.bankA = some l := ⟨rfl, rfl⟩

theorem imageShown_leaves (s : State) (l : List Byte) {n : Nat} (h : n < 3) : (s.imageShown l n).mem = s.mem ∧ (s.imageShown l n).fw = s.fw ∧
    (s.imageShown l n).fld Reg.HF_FW_STATE 5 2 = n ∧ (s.imageShown l n).rd Reg.HF_FW_RUN = BitVec.ofNat 32 (imgVersion l) := by
  refine ⟨(State.wr_mem ..).trans ((State.setBit_mem ..).trans (State.setFld_mem ..)), (State.wr_fw ..).trans ((State.setBit_fw ..).trans (State.setFld_fw ..)), ?_, State.rd_wr_self ..⟩
  refine (State.fld_wr_other _ _ _ _ (by decide)).trans ((State.fld_setBit_apart _ _ _ (by decide) (by decide)).trans ((State.fld_setFld_self _ _ _ (by decide)).trans ?_))
  exact Nat.mod_eq_of_lt (by omega)

theorem lastEndShown_leaves (s : State) : s.lastEndShown.mem = s.mem ∧ s.lastEndShown.fw = s.fw ∧
    ∀ r, r < 0x80000 → r ≠ Reg.HF_FW_CTL → s.lastEndShown.rd r = s.rd r := by
  refine ⟨?_, ?_, fun r hr hctl => ?_⟩
  · exact (State.setFld_mem ..).trans ((carried_frame State.mem (fun _ _ _ _ => rfl) _).trans (State.setBit_mem ..))
  · exact (State.setFld_fw ..).trans ((carried_frame State.fw (fun _ _ _ _ => rfl) _).trans (State.setBit_fw ..))
  · have hoff : r ≠ Reg.PW_LAST_OFF := by unfold Reg.PW_LAST_OFF; omega
    have halert : r ≠ Reg.PW_ALERT := by unfold Reg.PW_ALERT; omega
    exact (State.rd_setFld_other _ _ _ _ hoff).trans ((carried_rd _ halert).trans (State.rd_setBit_other _ _ _ hctl))

theorem profileChecked_leaves (s : State) : s.profileChecked.mem = s.mem ∧ s.profileChecked.fw = s.fw ∧ (∀ e ∈ s.evq, e ∈ s.profileChecked.evq) ∧
    ∀ r, r ≠ Reg.PW_ALERT → s.profileChecked.rd r = s.rd r := by
  unfold State.profileChecked
  split
  · refine ⟨setStatus_mem .., ?_, fun e he => ?_, fun r hr => rd_setStatus_other _ _ _ _ _ _ (by decide) hr⟩
    · unfold State.setStatus
      split
      · rfl
      · exact (State.raise_fw ..).trans (State.setBit_fw ..)
    · unfold State.setStatus
      split
      · exact he
      · rw [raise_evq, State.setBit_evq]
        exact List.mem_append_left _ he
  · exact ⟨rfl, rfl, fun _ h => h, fun _ _ => rfl⟩

/-- An image that starts: what S2 shows. -/
theorem startImage_leaves (s : State) (l : List Byte) {n : Nat} (h : n < 3) : ∃ e, (s.startImage l n).fld Reg.PC_BOOT 0 3 = 2 ∧ (s.startImage l n).fw.bankA = some l ∧
    (s.startImage l n).fld Reg.HF_FW_STATE 5 2 = n ∧ (s.startImage l n).rd Reg.HF_FW_RUN = BitVec.ofNat 32 (imgVersion l) ∧
    (s.startImage l n).mem = s.mem ∧ e ∈ (s.startImage l n).evq ∧ e.code = .BRINGUP_STAGE := by
  have hmem := imageMeasured_mem s l
  rw [startImage_eq]
  generalize s.imageMeasured l = v at hmem
  obtain ⟨hmemL, hbank⟩ := imageLoaded_leaves v l n
  generalize v.imageLoaded l n = w at hmemL hbank
  obtain ⟨hmemS, hfwS, hslot, hrun⟩ := imageShown_leaves w l h
  generalize w.imageShown l n = x at hmemS hfwS hslot hrun
  obtain ⟨hmemE, hfwE, hrdE⟩ := lastEndShown_leaves x
  generalize x.lastEndShown = y at hmemE hfwE hrdE
  have hmemY : (y.enterStage 2).mem = y.mem := enterStage_frame State.mem (fun _ _ _ => rfl) (fun _ _ _ _ _ => rfl) y 2
  have hfwY : (y.enterStage 2).fw = y.fw := enterStage_frame State.fw (fun _ _ _ => rfl) (fun _ _ _ _ _ => rfl) y 2
  have hstage : (y.enterStage 2).fld Reg.PC_BOOT 0 3 = 2 := enterStage_fld y (by decide)
  have hslotY : (y.enterStage 2).rd Reg.HF_FW_STATE = x.rd Reg.HF_FW_STATE := (enterStage_rd y 2 (by decide) (by decide)).trans (hrdE _ (by decide) (by decide))
  have hrunY : (y.enterStage 2).rd Reg.HF_FW_RUN = x.rd Reg.HF_FW_RUN := (enterStage_rd y 2 (by decide) (by decide)).trans (hrdE _ (by decide) (by decide))
  obtain ⟨e, he, hcode⟩ := enterStage_event y 2
  generalize y.enterStage 2 = z at hmemY hfwY hstage hslotY hrunY he
  obtain ⟨hmemZ, hfwZ, hevq, hrdZ⟩ := profileChecked_leaves z
  refine ⟨e, ?_, ?_, ?_, (hrdZ _ (by decide)).trans (hrunY.trans hrun), ?_, hevq e he, hcode⟩
  · exact (congrArg (fun w : Word => bitsOf w.toNat 0 3) (hrdZ _ (by decide))).trans hstage
  · rw [hfwZ, hfwY, hfwE, hfwS, hbank]
  · exact (congrArg (fun w : Word => bitsOf w.toNat 5 2) ((hrdZ _ (by decide)).trans hslotY)).trans hslot
  · rw [hmemZ, hmemY, hmemE, hmemS, hmemL, hmem]

/-! #### Sources -/

/-- A boot state of the boot ROM. -/
def State.withBoot (s : State) (b : BootSt) : State := { s with fw := { s.fw with boot := b } }

theorem withBoot_is (s : State) (b : BootSt) : (s.withBoot b).fw.boot = b ∧ (s.withBoot b).mm = s.mm ∧ (s.withBoot b).regs = s.regs ∧ (s.withBoot b).mem = s.mem ∧
    (s.withBoot b).flash = s.flash := ⟨rfl, rfl, rfl, rfl, rfl⟩

theorem withBoot_twice (s : State) (b c : BootSt) : (s.withBoot b).withBoot c = s.withBoot c := rfl

theorem sendDhcp_leaves (s : State) : ∃ m, s.sendDhcp.mm.tx = s.mm.tx ++ [m] ∧ s.sendDhcp.regs = s.regs ∧ s.sendDhcp.mem = s.mem ∧ s.sendDhcp.fw = s.fw :=
  ⟨⟨0xFFFFFFFFFFFF, (s.drawBytes 300).1⟩, rfl, rfl, rfl, rfl⟩

theorem nextSource_none (h : s.fw.boot.sources = []) (n : Nat) : s.nextSource (n + 1) = s.withBoot { s.fw.boot with loading := false, held := true } := by
  unfold State.nextSource
  rw [h]
  rfl

theorem nextSource_network {rest : List Nat} (h : s.fw.boot.sources = 0 :: rest) (n : Nat) :
    s.nextSource (n + 1) = (s.withBoot { sources := rest, loading := true }).sendDhcp := by
  unfold State.nextSource
  rw [h]
  rfl

theorem nextSource_flash {rest : List Nat} (h : s.fw.boot.sources = 1 :: rest) (n : Nat) : s.nextSource (n + 1) =
    if (s.withBoot { sources := rest }).bootFlash.2 then (s.withBoot { sources := rest }).bootFlash.1 else (s.withBoot { sources := rest }).bootFlash.1.nextSource n := by
  rw [State.nextSource, h]
  rfl

/-- Without ACTIVATE_ON_BOOT the GOOD slot is what boots. -/
theorem bootFlash_good (ha : s.flash.activateOnBoot = false) : s.bootFlash =
    match s.flash.good with
    | none => (s, false)
    | some l => if s.verifyImage l = 0 then (s.startImage l 1, true) else (s.setFld Reg.HF_FW_STATE 7 4 (s.verifyImage l), false) := by
  unfold State.bootFlash
  rw [ha]
  rfl

theorem bootFlash_empty (ha : s.flash.activateOnBoot = false) (hg : s.flash.good = none) : s.bootFlash = (s, false) := by
  rw [bootFlash_good ha, hg]

theorem bootFlash_starts (ha : s.flash.activateOnBoot = false) {l : List Byte} (hg : s.flash.good = some l) (hv : s.verifyImage l = 0) :
    s.bootFlash = (s.startImage l 1, true) := by
  rw [bootFlash_good ha, hg]
  exact if_pos hv

/-- Log flash alone: what its slots give. -/
theorem flashAlone_eq (s : State) : (s.withBoot { sources := [1] }).nextSource 3 =
    if (s.withBoot {}).bootFlash.2 then (s.withBoot {}).bootFlash.1 else (s.withBoot {}).bootFlash.1.nextSource 2 := rfl

theorem flashAlone_empty (ha : s.flash.activateOnBoot = false) (hg : s.flash.good = none) :
    (s.withBoot { sources := [1] }).nextSource 3 = (s.withBoot {}).withBoot { held := true } := by
  obtain ⟨hboot, -, -, -, hflash⟩ := withBoot_is s {}
  have heq := flashAlone_eq s
  generalize s.withBoot {} = v at hboot hflash heq
  rw [bootFlash_empty (by rw [hflash]; exact ha) (by rw [hflash]; exact hg)] at heq
  have hnone := nextSource_none (s := v) (by rw [hboot]) 1
  rw [hboot] at hnone
  exact heq.trans ((if_neg Bool.false_ne_true).trans hnone)

theorem flashAlone_good (ha : s.flash.activateOnBoot = false) {l : List Byte} (hg : s.flash.good = some l) (hv : (s.withBoot {}).verifyImage l = 0) :
    (s.withBoot { sources := [1] }).nextSource 3 = (s.withBoot {}).startImage l 1 := by
  obtain ⟨-, -, -, -, hflash⟩ := withBoot_is s {}
  have heq := flashAlone_eq s
  generalize s.withBoot {} = v at hflash heq hv
  rw [bootFlash_starts (by rw [hflash]; exact ha) (by rw [hflash]; exact hg) hv] at heq
  exact heq.trans (if_pos rfl)

/-- The sources that BOOT_SRC names, in order. -/
def bootOrder (n : Nat) : List Nat := match n with | 0 => [0] | 1 => [0, 1] | 2 => [1, 0] | _ => [1]

theorem bootOrder_eq (n : Nat) : bootOrder n = [[0], [0, 1], [1, 0], [1]].getD n [1] := by
  match n with
  | 0 | 1 | 2 | 3 => rfl
  | n + 4 => rfl

theorem s2Waits_iff : (!s.power.s1 || decide (s.fld Reg.PC_BOOT 0 3 ≠ 1) || s.fw.boot.loading) = true ↔
    ¬ (s.power.s1 = true ∧ s.fld Reg.PC_BOOT 0 3 = 1 ∧ s.fw.boot.loading = false) := by
  simp only [Bool.or_eq_true, Bool.not_eq_true', decide_eq_true_eq, not_and_or, Bool.not_eq_true, Bool.not_eq_false, or_assoc, ne_eq]

theorem s2Entry_eq (s : State) : s.s2Entry = if !s.power.s1 || s.fld Reg.PC_BOOT 0 3 ≠ 1 || s.fw.boot.loading then s
    else (s.withBoot { sources := bootOrder (s.fld Reg.HF_STRAP 6 2) }).nextSource 3 := rfl

/-! #### The network (R389) -/

theorem dhcpRetry_waits (h : s.fw.boot.loading = false ∨ s.fw.boot.answered = true) : s.dhcpRetry = s :=
  if_pos (by rw [Bool.or_eq_true, Bool.not_eq_true']; exact h)

theorem loading_unanswered (hl : s.fw.boot.loading = true) (ha : s.fw.boot.answered = false) : ¬ (!s.fw.boot.loading || s.fw.boot.answered) = true := by
  rw [hl, ha]
  decide

theorem dhcpRetry_asks (hl : s.fw.boot.loading = true) (ha : s.fw.boot.answered = false) (hd : s.fw.boot.dhcp < 4) :
    s.dhcpRetry = (s.withBoot { s.fw.boot with dhcp := s.fw.boot.dhcp + 1 }).sendDhcp := (if_neg (loading_unanswered hl ha)).trans (if_neg hd.not_ge)

theorem dhcpRetry_ends (hl : s.fw.boot.loading = true) (ha : s.fw.boot.answered = false) (hd : 4 ≤ s.fw.boot.dhcp) : s.dhcpRetry = s.nextSource 3 :=
  (if_neg (loading_unanswered hl ha)).trans (if_pos hd)

theorem tftpTimeout_waits (h : s.fw.boot.loading = false ∨ s.fw.boot.answered = false) (server : Nat) : s.tftpTimeout server = s :=
  if_pos (by rw [Bool.or_eq_true, Bool.not_eq_true', Bool.not_eq_true']; exact h)

theorem loading_answered (hl : s.fw.boot.loading = true) (ha : s.fw.boot.answered = true) : ¬ (!s.fw.boot.loading || !s.fw.boot.answered) = true := by
  rw [hl, ha]
  decide

theorem tftpTimeout_asks (hl : s.fw.boot.loading = true) (ha : s.fw.boot.answered = true) (hr : s.fw.boot.retries < 5) (server : Nat) :
    s.tftpTimeout server = (s.withBoot { s.fw.boot with retries := s.fw.boot.retries + 1 }).tftpAck server ((s.fw.boot.block - 1) % 65536) :=
  (if_neg (loading_answered hl ha)).trans (if_neg hr.not_ge)

theorem tftpTimeout_ends (hl : s.fw.boot.loading = true) (ha : s.fw.boot.answered = true) (hr : 5 ≤ s.fw.boot.retries) (server : Nat) :
    s.tftpTimeout server = s.nextSource 3 := (if_neg (loading_answered hl ha)).trans (if_pos hr)

theorem tftpAck_leaves (s : State) (server n : Nat) : (s.tftpAck server n).mm.tx = s.mm.tx ++ [⟨server, [0#8, 4#8, BitVec.ofNat 8 (n / 256), BitVec.ofNat 8 n]⟩] ∧
    (s.tftpAck server n).fw = s.fw ∧ (s.tftpAck server n).mem = s.mem := ⟨rfl, rfl, rfl⟩

/-- The block size in force. -/
def State.blockSize (s : State) (bs : Nat) : Nat := if s.fw.boot.answered then s.fw.boot.blksize else bs
/-- A block beyond the limits of R389. -/
def State.blockOut (s : State) (d : List Byte) (ts bs : Nat) : Prop :=
  0x200000 < ts ∨ s.blockSize bs < 512 ∨ 1468 < s.blockSize bs ∨ 0x200000 < s.fw.boot.image.length + d.length
/-- A block taken. -/
def State.blockTaken (s : State) (server : Nat) (d : List Byte) (bs : Nat) : State :=
  (s.tftpAck server (s.fw.boot.block % 65536)).withBoot
    { s.fw.boot with answered := true, blksize := s.blockSize bs, block := s.fw.boot.block + 1, retries := 0, image := s.fw.boot.image ++ d.take (s.blockSize bs) }

theorem tftpBlock_eq (s : State) (server n : Nat) (d : List Byte) (ts bs : Nat) : s.tftpBlock server n d ts bs =
    if !s.fw.boot.loading || n ≠ s.fw.boot.block % 65536 then s
    else if 0x200000 < ts || s.blockSize bs < 512 || 1468 < s.blockSize bs || 0x200000 < s.fw.boot.image.length + d.length then s.nextSource 3
    else if s.blockSize bs ≤ d.length then s.blockTaken server d bs
    else if (s.blockTaken server d bs).verifyImage (s.fw.boot.image ++ d.take (s.blockSize bs)) = 0 then
      (s.blockTaken server d bs).startImage (s.fw.boot.image ++ d.take (s.blockSize bs)) 0
    else ((s.blockTaken server d bs).setFld Reg.HF_FW_STATE 7 4 ((s.blockTaken server d bs).verifyImage (s.fw.boot.image ++ d.take (s.blockSize bs)))).nextSource 3 := rfl

theorem blockOut_iff (d : List Byte) (ts bs : Nat) : (decide (0x200000 < ts) || decide (s.blockSize bs < 512) || decide (1468 < s.blockSize bs) ||
    decide (0x200000 < s.fw.boot.image.length + d.length)) = true ↔ s.blockOut d ts bs := by
  simp only [State.blockOut, Bool.or_eq_true, decide_eq_true_eq, or_assoc]

section Block

variable {server n : Nat} {d : List Byte} {ts bs : Nat}

theorem tftpBlock_unexpected (h : s.fw.boot.loading = false ∨ n ≠ s.fw.boot.block % 65536) : s.tftpBlock server n d ts bs = s :=
  (tftpBlock_eq ..).trans (if_pos (by rw [Bool.or_eq_true, Bool.not_eq_true', decide_eq_true_eq]; exact h))

variable (hl : s.fw.boot.loading = true) (hn : n = s.fw.boot.block % 65536)
include hl hn

theorem block_expected : ¬ (!s.fw.boot.loading || decide (n ≠ s.fw.boot.block % 65536)) = true := by
  rw [hl, decide_eq_false (not_not_intro hn)]
  decide

theorem tftpBlock_out (ho : s.blockOut d ts bs) : s.tftpBlock server n d ts bs = s.nextSource 3 :=
  (tftpBlock_eq ..).trans ((if_neg (block_expected hl hn)).trans (if_pos ((blockOut_iff ..).mpr ho)))

variable (ho : ¬ s.blockOut d ts bs)
include ho

theorem tftpBlock_full (hd : s.blockSize bs ≤ d.length) : s.tftpBlock server n d ts bs = s.blockTaken server d bs :=
  (tftpBlock_eq ..).trans ((if_neg (block_expected hl hn)).trans ((if_neg fun h => ho ((blockOut_iff ..).mp h)).trans (if_pos hd)))

/-- The last block ends the image. -/
theorem tftpBlock_short (hd : d.length < s.blockSize bs) : s.tftpBlock server n d ts bs =
    if (s.blockTaken server d bs).verifyImage (s.fw.boot.image ++ d) = 0 then (s.blockTaken server d bs).startImage (s.fw.boot.image ++ d) 0
    else ((s.blockTaken server d bs).setFld Reg.HF_FW_STATE 7 4 ((s.blockTaken server d bs).verifyImage (s.fw.boot.image ++ d))).nextSource 3 := by
  have hall : d.take (s.blockSize bs) = d := List.take_of_length_le hd.le
  refine (tftpBlock_eq ..).trans ((if_neg (block_expected hl hn)).trans ((if_neg fun h => ho ((blockOut_iff ..).mp h)).trans ((if_neg hd.not_ge).trans ?_)))
  rw [hall]

end Block

end StageTwo

/-! ### S3 to S5 (R437 to R439) -/

section LaterStages

variable {s : State}

/-- What PANEL_REPAIR asks of the panels. -/
def State.panelDone (s : State) (i : Nat) : Bool := s.bit Reg.HF_BRINGUP i || s.bit Reg.HF_BRINGUP (4 + i)

theorem panelRepair_eq (s : State) (p : Nat) (f : RepairFound) : s.panelRepair p f =
    if 4 ≤ p || s.fld Reg.PC_BOOT 0 3 ≠ (if p = 0 then 2 else 3) || s.panelDone p || !(List.range p).all s.panelDone then s
    else if p = 3 then ((((if p = 0 then s.enterS3 else s).repairPanel p f).enterStage 4).trainNext 0).trainNext 1
    else (if p = 0 then s.enterS3 else s).repairPanel p f := rfl

/-- Whether it is a panel's turn. -/
def State.panelTurn (s : State) (p : Nat) : Prop :=
  p < 4 ∧ s.fld Reg.PC_BOOT 0 3 = (if p = 0 then 2 else 3) ∧ s.panelDone p = false ∧ ∀ i, i < p → s.panelDone i = true

theorem notTurn_iff (p : Nat) :
    (decide (4 ≤ p) || decide (s.fld Reg.PC_BOOT 0 3 ≠ (if p = 0 then 2 else 3)) || s.panelDone p || !(List.range p).all s.panelDone) = true ↔ ¬ s.panelTurn p := by
  have hall : (List.range p).all s.panelDone = false ↔ ¬ ∀ i, i < p → s.panelDone i = true := by
    rw [← Bool.not_eq_true, List.all_eq_true]
    simp only [List.mem_range]
  simp only [State.panelTurn, Bool.or_eq_true, decide_eq_true_eq, Bool.not_eq_true', hall, not_and_or, Nat.not_lt, Bool.not_eq_false, or_assoc, ne_eq]

section Turn

variable {p : Nat} {f : RepairFound}

theorem panelRepair_waits (h : ¬ s.panelTurn p) : s.panelRepair p f = s := (panelRepair_eq s p f).trans (if_pos ((notTurn_iff p).mpr h))

variable (h : s.panelTurn p)
include h

theorem panelRepair_turn : s.panelRepair p f =
    if p = 3 then ((((if p = 0 then s.enterS3 else s).repairPanel p f).enterStage 4).trainNext 0).trainNext 1 else (if p = 0 then s.enterS3 else s).repairPanel p f :=
  (panelRepair_eq s p f).trans (if_neg fun hw => (notTurn_iff p).mp hw h)

theorem panelRepair_first (h0 : p = 0) : s.panelRepair p f = s.enterS3.repairPanel 0 f := by
  rw [panelRepair_turn h, if_neg (by omega), if_pos h0, h0]

theorem panelRepair_middle (hp : p = 1 ∨ p = 2) : s.panelRepair p f = s.repairPanel p f := by
  rw [panelRepair_turn h, if_neg (by omega), if_neg (by omega)]

theorem panelRepair_last (h3 : p = 3) : s.panelRepair p f = (((s.repairPanel 3 f).enterStage 4).trainNext 0).trainNext 1 := by
  rw [panelRepair_turn h, if_pos h3, if_neg (by omega), h3]

end Turn

/-- The kept repair maps and fence states back in force. -/
def State.banksMapped (s : State) (c : MapCopy) : State := c.banks.foldl (fun s e => s.wr (Reg.BK_REPAIR e.1) e.2) s
def State.coresMapped (s : State) (c : MapCopy) : State := c.cores.foldl (fun s e => s.wr (Reg.MT_CORES_FENCED e.1) e.2) s

theorem enterS3_eq (s : State) : s.enterS3 = (((s.enterStage 3).banksMapped s.mapsKept).coresMapped s.mapsKept).extendMeas 7 (sm3 s.mapsKept.bytes) := rfl

theorem banksMapped_rd (s : State) (c : MapCopy) : (s.banksMapped c).rd Reg.PC_BOOT = s.rd Reg.PC_BOOT := by
  have hne : ∀ b, Reg.PC_BOOT ≠ Reg.BK_REPAIR b := fun b => by unfold Reg.PC_BOOT Reg.BK_REPAIR; omega
  exact foldl_frame (fun v : State => v.rd Reg.PC_BOOT) (fun v (e : Nat × Word) => State.rd_wr_other v e.2 (hne e.1)) c.banks s

theorem coresMapped_rd (s : State) (c : MapCopy) : (s.coresMapped c).rd Reg.PC_BOOT = s.rd Reg.PC_BOOT := by
  have hne : ∀ m, Reg.PC_BOOT ≠ Reg.MT_CORES_FENCED m := fun m => by unfold Reg.PC_BOOT Reg.MT_CORES_FENCED; omega
  exact foldl_frame (fun v : State => v.rd Reg.PC_BOOT) (fun v (e : Nat × Word) => State.rd_wr_other v e.2 (hne e.1)) c.cores s

theorem enterS3_fld (s : State) : s.enterS3.fld Reg.PC_BOOT 0 3 = 3 := by
  have hrd : s.enterS3.rd Reg.PC_BOOT = (s.enterStage 3).rd Reg.PC_BOOT := by
    rw [enterS3_eq, extendMeas_rd _ _ _ (by decide), coresMapped_rd, banksMapped_rd]
  exact (congrArg (fun w : Word => bitsOf w.toNat 0 3) hrd).trans (enterStage_fld s (by decide))

/-- The arrays that differ at PASS_CALIBRATION fenced. -/
def State.differFenced (s : State) (quads : List (Nat × Nat)) : State := (quads.filter (fun e => e.1 < 10240)).foldl (fun s e => s.fenceQuads e.1 (e.2 % 16)) s
/-- The pass calibrated. -/
def State.calibrated (s : State) : State := s.setBit Reg.HF_BRINGUP 8 true
/-- S5 entered. -/
def State.s5Shown (s : State) : State := (s.enterStage 5).setBit Reg.PC_BOOT 3 false
def State.s5Begun (s : State) : State :=
  { s with spread := (List.range 96).filter (fun c => s.fld (Reg.LD_CH_STATE c) 0 2 = 2), fw := { s.fw with s5At := some s.usecN.toNat } }

theorem passCal_eq (s : State) (quads : List (Nat × Nat)) : s.passCal quads =
    if s.fld Reg.PC_BOOT 0 3 ≠ 4 || !(List.range 12).all s.pkgDone then s
    else if (s.differFenced quads).calibrated.fld Reg.HF_BRINGUP 0 4 = 0 then (s.differFenced quads).calibrated.raise .PANEL_REPAIR_FAIL .moduleFatal srcPower [4]
    else (s.differFenced quads).calibrated.s5Shown.s5Begun := rfl

theorem passWaits_iff : (decide (s.fld Reg.PC_BOOT 0 3 ≠ 4) || !(List.range 12).all s.pkgDone) = true ↔
    ¬ (s.fld Reg.PC_BOOT 0 3 = 4 ∧ ∀ k, k < 12 → s.pkgDone k = true) := by
  have hall : (List.range 12).all s.pkgDone = false ↔ ¬ ∀ k, k < 12 → s.pkgDone k = true := by
    rw [← Bool.not_eq_true, List.all_eq_true]
    simp only [List.mem_range]
  simp only [Bool.or_eq_true, decide_eq_true_eq, Bool.not_eq_true', hall, not_and_or, ne_eq]

theorem calibrated_panels (s : State) : s.calibrated.fld Reg.HF_BRINGUP 0 4 = s.fld Reg.HF_BRINGUP 0 4 := State.fld_setBit_apart _ _ _ (by decide) (by decide)

theorem calibrated_shows (s : State) : s.calibrated.bit Reg.HF_BRINGUP 8 = true ∧ s.calibrated.rd Reg.PC_BOOT = s.rd Reg.PC_BOOT ∧ s.calibrated.evq = s.evq ∧
    s.calibrated.usecN = s.usecN ∧ s.calibrated.mem = s.mem :=
  ⟨State.bit_setBit_self _ _ _ (by decide), State.rd_setBit_other _ _ _ (by decide), State.setBit_evq .., State.setBit_usecN .., State.setBit_mem ..⟩

/-- A module-fatal event touches PW_ALERT alone. -/
theorem rd_raise_other (s : State) (code : Code) (cls : EvClass) (source : Nat) (data : List Nat) {r : Nat} (h : r ≠ Reg.PW_ALERT) :
    (s.raise code cls source data).rd r = s.rd r := by
  unfold State.rd State.raise
  dsimp only
  split
  · exact SMap.get_put_other _ _ _ _ h
  · rfl

theorem s5Begun_is (s : State) : s.s5Begun.fw.s5At = some s.usecN.toNat ∧ s.s5Begun.mem = s.mem ∧ s.s5Begun.regs = s.regs := ⟨rfl, rfl, rfl⟩

theorem s5Shown_shows (s : State) : s.s5Shown.fld Reg.PC_BOOT 0 3 = 5 ∧ s.s5Shown.bit Reg.PC_BOOT 3 = false ∧ s.s5Shown.rd Reg.HF_BRINGUP = s.rd Reg.HF_BRINGUP ∧
    s.s5Shown.usecN = s.usecN ∧ s.s5Shown.mem = s.mem :=
  ⟨(State.fld_setBit_apart _ _ _ (by decide) (by decide)).trans (enterStage_fld s (by decide)), State.bit_setBit_self _ _ _ (by decide),
    (State.rd_setBit_other _ _ _ (by decide)).trans (enterStage_rd s 5 (by decide) (by decide)),
    (State.setBit_usecN ..).trans (enterStage_frame State.usecN (fun _ _ _ => rfl) (fun _ _ _ _ _ => rfl) s 5),
    (State.setBit_mem ..).trans (enterStage_frame State.mem (fun _ _ _ => rfl) (fun _ _ _ _ _ => rfl) s 5)⟩

end LaterStages

/-- Settles O57, stage by stage. The losses in STANDBY or after a trip are log entry 75, the events before S2 are log entry 77, and the start of
stage 2, the loader's requests and the blocks it drops are log entry 78: the model's choices. -/
theorem resetsAndBringUp : Obligations.ResetsAndBringUp := by
  unfold Obligations.ResetsAndBringUp
  refine ⟨⟨fun s c cause hmem => ?losses, fun s => ⟨fun h => ?noTrip, fun h => ?trips, fun hot => ⟨fun h => ?powered, fun h => ?rises⟩,
      fun slot src pr => ⟨fun h => ?strapsWait, fun h => ?straps⟩, fun cold => ⟨fun h => ?railsStay, fun hs hr => ?rails⟩, fun h => ?notCold,
      fun h hr hp h1 => ?coldEnds, fun cold hot => ⟨fun h => ?released, fun h => ⟨_, rfl, fun hs ht hr h1 => ?releaseStarts, fun hs ht ha hhot => ?releaseCools,
        fun hs ht ha hhot => ?releaseRestarts⟩⟩, fun h => ?asserted, fun hs ht h => ?assertedEarly, fun hs ht hm h1 => ?resets, fun h => ?notCooling, fun h => ?cooled⟩⟩,
    fun s => ⟨fun h => ?s2Waits, fun h => ?s2Sources, fun h hsrc => ?s2Network, fun h hsrc ha => ⟨fun hg => ?s2Empty, fun l hg hv => ?s2Good⟩⟩,
    fun s l n hn => startImage_leaves s l hn,
    fun s server => ⟨fun h => ?dhcpWaits, fun hl ha => ⟨fun hd => ?dhcpAsks, fun hd => ?dhcpEnds⟩, fun h => ?timeoutWaits,
      fun hl ha => ⟨fun hr => ?timeoutAsks, fun hr => ?timeoutEnds⟩, fun n d ts bs => ⟨fun h => ?unexpected, fun hl hn => ⟨fun ho => ?out, fun ho hd => ?full,
        fun ho hd hv => ?lastStarts, fun ho hd hv => ?lastFails⟩⟩⟩,
    fun s p rail bridges node joins dieLink lines quads cores grounds => ⟨fun h => ?notTurn, fun h h0 => ?panelFirst, fun h h12 => ?panelMiddle, fun h h3 => ?panelLast⟩,
    fun s quads => ⟨fun h => ?passWaits, fun h hnone => ?passNone, fun h hsome => ?passes⟩⟩
  case losses =>
    simp only [List.mem_cons, Prod.mk.injEq, List.not_mem_nil, or_false] at hmem
    rcases hmem with ⟨rfl, rfl⟩ | ⟨rfl, rfl⟩ | ⟨rfl, rfl⟩ | ⟨rfl, rfl⟩
    · exact ⟨fun h => congrArg Host.Outcome.next (lose_unpowered h), fun h => ⟨s.lose 1, rfl, lose_leaves h 1⟩⟩
    · exact ⟨fun h => congrArg Host.Outcome.next (lose_unpowered h), fun h => ⟨s.lose 2, rfl, lose_leaves h 2⟩⟩
    · exact ⟨fun h => congrArg Host.Outcome.next (lose_unpowered h), fun h => ⟨s.lose 3, rfl, lose_leaves h 3⟩⟩
    · exact ⟨fun h => congrArg Host.Outcome.next (lose_unpowered h), fun h => ⟨s.lose 1, rfl, lose_leaves h 1⟩⟩
  case noTrip => exact congrArg Host.Outcome.next (thermTrip_idle fun hr => h (running_iff.mp hr))
  case trips => exact ⟨s.thermTrip, rfl, thermTrip_leaves (running_iff.mpr h)⟩
  case powered => exact congrArg Host.Outcome.next (powerOn_none h hot)
  case rises =>
    obtain ⟨hmains, hcooling, hmem, hregs⟩ := mainsUp_leaves s (hot && decide (s.flash.lastOff = 4))
    have hrises := powerOn_rises h hot
    by_cases hoff : s.flash.lastOff = 6
    · obtain ⟨hpower, hmemW, hshown⟩ := wokenByPower_leaves (s.mainsUp (hot && decide (s.flash.lastOff = 4)))
      exact ⟨_, congrArg Host.Outcome.next (hrises.trans (if_pos hoff)), (congrArg PowerSt.mains hpower).trans hmains, (congrArg PowerSt.cooling hpower).trans hcooling,
        hmemW.trans hmem, fun _ => hshown, fun hne => absurd hoff hne⟩
    · exact ⟨_, congrArg Host.Outcome.next (hrises.trans (if_neg hoff)), hmains, hcooling, hmem, fun he => absurd he hoff, fun _ => hregs⟩
  case strapsWait => exact congrArg Host.Outcome.next ((strapSample_eq ..).trans (if_pos (strapsWait_iff.mpr h)))
  case straps => exact ⟨_, congrArg Host.Outcome.next ((strapSample_eq ..).trans (if_neg fun hw => strapsWait_iff.mp hw h)), strapSample_latches s slot src pr⟩
  case railsStay => exact congrArg Host.Outcome.next (railsUp_none h cold)
  case rails =>
    obtain ⟨hrails, hperst, hs1, hregs⟩ := withRails_is s
    refine ⟨_, congrArg Host.Outcome.next (railsUp_rises hs hr cold), (tryS1_keeps ..).1.trans hrails, fun hp => ?_, fun hp h1 => ?_⟩
    · rw [tryS1_held (hperst.trans hp)]
      exact ⟨hs1, hregs⟩
    · obtain ⟨hcold, hwarm⟩ := tryS1_leaves hrails (hperst.trans hp) (hs1.trans h1) cold
      refine ⟨fun hc => ?_, fun hc => ?_⟩
      · rw [hcold hc]
        exact ⟨(coldWaits_is _).1, (coldWaits_is _).2.trans (hs1.trans h1)⟩
      · rw [hwarm hc]
        exact (enterS1_leaves _).1
  case notCold => exact congrArg Host.Outcome.next (coldEnd_none h)
  case coldEnds =>
    obtain ⟨hrails, hperst, hs1⟩ := warmed_is s
    obtain ⟨-, hwarm⟩ := tryS1_leaves (hrails.trans hr) (hperst.trans hp) (hs1.trans h1) false
    obtain ⟨hat, hpower⟩ := enterS1_leaves s.warmed
    exact ⟨_, congrArg Host.Outcome.next ((coldEnd_tries h).trans (hwarm rfl)), hat, by rw [hpower]⟩
  case released => exact congrArg Host.Outcome.next (perstRelease_none h cold hot)
  case releaseStarts =>
    have hpower := perstReleased_is s
    have hrails : s.perstReleased.power.rails = true := by rw [hpower]; exact hr
    have hperst : s.perstReleased.power.perst = false := by rw [hpower]
    have hs1 : s.perstReleased.power.s1 = false := by rw [hpower]; exact h1
    obtain ⟨hcold, hwarm⟩ := tryS1_leaves hrails hperst hs1 cold
    rw [perstRelease_starts h hs ht]
    refine ⟨(tryS1_keeps ..).2.trans hperst, fun hc => ?_, fun hc => ?_⟩
    · rw [hcold hc]
      exact ⟨(coldWaits_is _).1, (coldWaits_is _).2.trans hs1⟩
    · rw [hwarm hc]
      exact (enterS1_leaves _).1
  case releaseCools =>
    rw [perstRelease_restarts h hs ht ha, hhot]
    exact coolingSet_is _
  case releaseRestarts =>
    obtain ⟨htripped, hstrapped, -, hmem⟩ := atS0_leaves s.perstReleased
    rw [perstRelease_restarts h hs ht ha, hhot]
    exact ⟨htripped, hstrapped, hmem⟩
  case asserted => exact congrArg Host.Outcome.next (perstAssert_noted h)
  case assertedEarly => exact congrArg Host.Outcome.next (perstAssert_early hs ht h)
  case resets => exact ⟨s.perstAssert, rfl, perstAssert_leaves hs ht hm h1⟩
  case notCooling => exact congrArg Host.Outcome.next (cooldownEnd_none h)
  case cooled =>
    cases ht : s.power.tripped
    · obtain ⟨hcooling, hregs, hmem⟩ := cooled_leaves s
      exact ⟨_, congrArg Host.Outcome.next (cooldownEnd_ends h ht), hcooling, fun hf => absurd hf Bool.false_ne_true, fun _ => ⟨hregs, hmem⟩⟩
    · obtain ⟨htripped, hstrapped, hcooling, hmem⟩ := atS0_leaves s
      exact ⟨_, congrArg Host.Outcome.next (cooldownEnd_restarts h ht), hcooling, fun _ => ⟨htripped, hstrapped, hmem⟩, fun hf => absurd hf.symm Bool.false_ne_true⟩
  case s2Waits => exact congrArg Host.Outcome.next ((s2Entry_eq s).trans (if_pos (s2Waits_iff.mpr h)))
  case s2Sources =>
    rw [← bootOrder_eq]
    exact congrArg Host.Outcome.next ((s2Entry_eq s).trans (if_neg fun hw => s2Waits_iff.mp hw h))
  case s2Network =>
    have hentry := (s2Entry_eq s).trans (if_neg fun hw => s2Waits_iff.mp hw h)
    have horder : bootOrder (s.fld Reg.HF_STRAP 6 2) = 0 :: (if s.fld Reg.HF_STRAP 6 2 = 1 then [1] else []) := by
      generalize s.fld Reg.HF_STRAP 6 2 = n at hsrc
      obtain rfl | rfl : n = 0 ∨ n = 1 := by omega
      · rfl
      · rfl
    rw [horder] at hentry
    obtain ⟨m, htx, hregs, hmem, hfw⟩ := sendDhcp_leaves (s.withBoot { sources := if s.fld Reg.HF_STRAP 6 2 = 1 then [1] else [], loading := true })
    refine ⟨_, m, congrArg Host.Outcome.next (hentry.trans (nextSource_network rfl 2)), ?_, ?_, htx, hmem, hregs⟩
    · exact congrArg (fun w : FwSt => w.boot.loading) hfw
    · exact congrArg (fun w : FwSt => w.boot.sources) hfw
  case s2Empty =>
    have hentry := (s2Entry_eq s).trans (if_neg fun hw => s2Waits_iff.mp hw h)
    rw [hsrc] at hentry
    obtain ⟨hboot, -, hregs, hmem, -⟩ := withBoot_is (s.withBoot {}) { held := true }
    exact ⟨_, congrArg Host.Outcome.next (hentry.trans (flashAlone_empty ha hg)), congrArg BootSt.held hboot, congrArg BootSt.loading hboot, hregs, hmem⟩
  case s2Good =>
    have hentry := (s2Entry_eq s).trans (if_neg fun hw => s2Waits_iff.mp hw h)
    rw [hsrc] at hentry
    exact congrArg Host.Outcome.next (hentry.trans (flashAlone_good ha hg hv))
  case dhcpWaits => exact congrArg Host.Outcome.next (dhcpRetry_waits h)
  case dhcpAsks =>
    obtain ⟨m, htx, hregs, hmem, hfw⟩ := sendDhcp_leaves (s.withBoot { s.fw.boot with dhcp := s.fw.boot.dhcp + 1 })
    exact ⟨_, m, congrArg Host.Outcome.next (dhcpRetry_asks hl ha hd), congrArg FwSt.boot hfw, htx, hregs, hmem⟩
  case dhcpEnds => exact congrArg Host.Outcome.next (dhcpRetry_ends hl ha hd)
  case timeoutWaits => exact congrArg Host.Outcome.next (tftpTimeout_waits h server)
  case timeoutAsks =>
    obtain ⟨htx, hfw, hmem⟩ := tftpAck_leaves (s.withBoot { s.fw.boot with retries := s.fw.boot.retries + 1 }) server ((s.fw.boot.block - 1) % 65536)
    exact ⟨_, congrArg Host.Outcome.next (tftpTimeout_asks hl ha hr server), congrArg FwSt.boot hfw, htx, hmem⟩
  case timeoutEnds => exact congrArg Host.Outcome.next (tftpTimeout_ends hl ha hr server)
  case unexpected => exact congrArg Host.Outcome.next (tftpBlock_unexpected h)
  case out => exact congrArg Host.Outcome.next (tftpBlock_out hl hn ho)
  case full => exact congrArg Host.Outcome.next (tftpBlock_full hl hn ho hd)
  case lastStarts =>
    have hv' : (s.blockTaken server d bs).verifyImage (s.fw.boot.image ++ d) = 0 := hv
    exact congrArg Host.Outcome.next ((tftpBlock_short hl hn ho hd).trans (if_pos hv'))
  case lastFails =>
    have hv' : (s.blockTaken server d bs).verifyImage (s.fw.boot.image ++ d) ≠ 0 := hv
    exact congrArg Host.Outcome.next ((tftpBlock_short hl hn ho hd).trans (if_neg hv'))
  case notTurn => exact congrArg Host.Outcome.next (panelRepair_waits h)
  case panelFirst => exact ⟨congrArg Host.Outcome.next (panelRepair_first h h0), enterS3_fld s⟩
  case panelMiddle => exact congrArg Host.Outcome.next (panelRepair_middle h h12)
  case panelLast => exact congrArg Host.Outcome.next (panelRepair_last h h3)
  case passWaits => exact congrArg Host.Outcome.next ((passCal_eq s quads).trans (if_pos (passWaits_iff.mpr h)))
  case passNone =>
    have hpass := (passCal_eq s quads).trans ((if_neg fun hw => passWaits_iff.mp hw h).trans (if_pos ((calibrated_panels _).trans hnone)))
    obtain ⟨hbit, hboot, hevq, -, -⟩ := calibrated_shows (s.differFenced quads)
    have hraised := raise_evq (s.differFenced quads).calibrated .PANEL_REPAIR_FAIL .moduleFatal srcPower [4]
    rw [hevq] at hraised
    refine ⟨_, _, congrArg Host.Outcome.next hpass, (rd_raise_other _ _ _ _ _ (by decide)).trans hboot, ?_, hraised, rfl, rfl⟩
    exact (congrArg (fun w : Word => bitOf w.toNat 8) (rd_raise_other _ _ _ _ _ (by decide))).trans hbit
  case passes =>
    have hpass := (passCal_eq s quads).trans ((if_neg fun hw => passWaits_iff.mp hw h).trans (if_neg fun h0 => hsome ((calibrated_panels _).symm.trans h0)))
    obtain ⟨hbit, -, -, husec, hmem⟩ := calibrated_shows (s.differFenced quads)
    obtain ⟨hstage, hlow, hbringup, husecS, hmemS⟩ := s5Shown_shows (s.differFenced quads).calibrated
    obtain ⟨hat, hmemB, hregs⟩ := s5Begun_is (s.differFenced quads).calibrated.s5Shown
    refine ⟨_, congrArg Host.Outcome.next hpass, (State.fld_congr hregs _ _ _).trans hstage, (State.bit_congr hregs _ _).trans hlow, ?_, ?_,
      hmemB.trans (hmemS.trans hmem)⟩
    · exact (State.bit_congr hregs _ _).trans ((congrArg (fun w : Word => bitOf w.toNat 8) hbringup).trans hbit)
    · rw [hat, husecS, husec]
      rfl

end Sys2Proof.Machine
end
